-- ==== Sys2Proof/Word.lean ====
section
/-! DEFINITION. The word types of the register space (R13) and the plainest things done with them. -/

namespace Sys2Proof

/-- A 32-bit register word (R13). -/
abbrev Word := BitVec 32

/-- A byte of a payload, an image or a record. -/
abbrev Byte := BitVec 8

/-- A word from a number, taken mod 2^32. -/
def Word.ofN (n : Nat) : Word := BitVec.ofNat 32 n

/-- A byte from a number, taken mod 256. -/
def Byte.ofN (n : Nat) : Byte := BitVec.ofNat 8 n

/-- 0 or 1. -/
def b2n (b : Bool) : Nat := if b then 1 else 0

end Sys2Proof
end

