-- ==== Sys2Proof/Config.lean ====
section
/-! DEFINITION. What the spec leaves open: free values. None of these has a body, so no proof can rest on a value of
theirs. Each is applied to the operands it depends on, or to the counter `State.free`, which the reading step
advances, so that two occurrences are not tied to each other. -/

namespace Sys2Proof

/-- A free number (log entry 3). -/
opaque Config.freeNat : Nat → Nat

/-- A free register word (log entry 3). -/
opaque Config.freeWord : Nat → Word

/-- Which of the two neighbours of the exact logarithm ln returns: R347 allows 1 ulp (log entry 3). -/
opaque Config.lnPick : Word → Nat

/-- ln of an operand that is not a positive finite number: the spec states no result (log entry 3). -/
opaque Config.lnOpen : Word → Word

/-- How many messages of a class the queue of a port holds before a forwarded message finds it full (log entry 82). -/
opaque Config.queueDepth : Nat → Nat → Nat

/-- What a word of op 0x08 spells that both the shift of R194 and a binary32 instruction of R196 allow: the shift (log entry
134). -/
opaque Config.op08Shift : Word → Bool

end Sys2Proof
end

