-- ==== Sys2Proof/Syntax.lean ====
section
/-! DEFINITION. The commands: what may reach the block from outside, one constructor of `Instr` for each row of the opcode
table, and the types of their operands. -/

namespace Sys2Proof
/-- The accessors that reach the register space (R64, R81, R568). -/
inductive Path where
  | lane (n : Fin 4)
  | spi (n : Fin 4)
  | sk0
  deriving DecidableEq, Repr

/-- What the ECC of a record finds when a command reads it (R68, R137, R190): nothing, a single-bit error, or a double-bit
error in a word of the record. -/
inductive Ecc where
  | clean
  | sbe
  | dbe (word : Nat)
  deriving DecidableEq, Repr

/-- The codes of CA, CB and the voltage converter of a coil channel at one instant (R234). -/
structure CdInst where
  a : Nat
  b : Nat
  v : Int
  deriving DecidableEq, Repr

/-- What a coil channel samples in a regulator cycle, every 4 µs (R234): its own instants, the oldest first, and those of the
odd channel of its pair. -/
structure CdSamples where
  own : List CdInst
  mate : List CdInst
  deriving DecidableEq, Repr

/-- What the ECC of everything an evaluation latches finds (R101, R137): the loop record, its state, and the points PV, SP
and OUT. -/
structure LeEcc where
  record : Ecc
  state : Ecc
  pv : Ecc
  sp : Ecc
  out : Ecc
  deriving DecidableEq, Repr

/-- A Brynum Link message (R496); `key` is the FLAGS byte, `mac` the 8-byte MAC it carries, as a
number. -/
structure Msg where
  version : Nat := 1
  typ : Nat
  key : Nat
  hops : Nat
  src : Nat
  dst : Nat
  epoch : Nat
  seq : Nat
  sendTime : Nat
  tenant : Nat
  gen : Nat
  body : List Byte
  mac : Nat
  deriving DecidableEq, Repr

/-- A CAN data frame (R442, R451): base or extended identifier, FD or classical, bit rate switch, error state indicator, DLC
and payload; `res` says that the res bit after a recessive FDF is recessive, so that no frame of these formats follows. -/
structure CanFrame where
  ide : Bool
  id : Nat
  fdf : Bool
  brs : Bool
  esi : Bool
  dlc : Nat
  data : List Byte
  res : Bool := false
  deriving DecidableEq, Repr

/-- How an attempt to send a zone bus frame ends: sent and acknowledged, arbitration lost, an error before arbitration was
won, an error after (R460, R464). -/
inductive TxEnd where
  | done | arbLost | errEarly | errLate
  deriving DecidableEq, Repr

/-- What arrives on the D2D link (R724, R719): the frame of a power-die write by a path, which the power die receives or not;
the acknowledgement of the oldest write; a path's read on its way to the power die, and the answer to the oldest read; a heartbeat, with the merges it reports for groups 8 to 10; a frame with a bad CRC. -/
inductive D2dFrame where
  | write (p : Path) (a : Fin (2 ^ 24)) (data : Word) (arrives : Bool)
  | ack
  | read (p : Path) (a : Fin (2 ^ 24))
  | answer
  | heartbeat (merges : List (Fin 3 × Nat))
  | badCrc
  deriving DecidableEq, Repr

/-- What the power die measures in a device tick (R277, R431, R470): per segment, current in mA and ZBVOUT in 10 mV; VFIELD and
VCOIL in 10 mV. -/
structure TickMeas where
  zbMA : List Nat
  zbV : List Nat
  vfield : Nat
  vcoil : Nat
  deriving DecidableEq, Repr

/-- The commands of the block, one constructor for each row of the opcode table. An operand carries what comes from outside the
block: the accessor's path, address and data, a sample, a frame, or what a check found (log entry 2). -/
inductive Instr where
  /-- R14: A write to a register that has no row of its own, judged under R820 and its block's access rule, and audited where R18 requires. -/
  | registerWrite (p : Path) (a : Fin (2 ^ 24)) (data : Word)
  /-- R45: An access to an address that belongs to no block reads 0, or its write has no effect, and it is recorded in SYS_UNMAPPED. -/
  | unmappedAccess (p : Path) (a : Fin (2 ^ 24)) (write : Bool)
  /-- R46: An access to a power-die block while the D2D link is lost reads 0 or is discarded, and is counted in SYS_D2D_DROP. -/
  | powerAccessDropped (p : Path) (a : Fin (2 ^ 24)) (write : Bool) (data : Word)
  /-- R55: A write of AON_SAFE_REL.ALL releases every output class from safe state under R35 and R36, with one audit record. -/
  | safeRelAll (p : Path) (data : Word)
  /-- R55: A write of AON_SAFE_REL.COIL releases coil channels and pairs from safe state. -/
  | safeRelCoil (p : Path) (data : Word)
  /-- R55: A write of AON_SAFE_REL.FAN releases fan channels from safe state. -/
  | safeRelFan (p : Path) (data : Word)
  /-- R55: A write of AON_SAFE_REL.AO releases analog outputs from safe state. -/
  | safeRelAo (p : Path) (data : Word)
  /-- R55: A write of AON_SAFE_REL.DO releases relay drivers from safe state. -/
  | safeRelDo (p : Path) (data : Word)
  /-- R55: A write of AON_SAFE_REL.ZBPWR releases zone bus segment supplies from safe state. -/
  | safeRelZbpwr (p : Path) (data : Word)
  /-- R79: A command-band or override-band write to a point's VALUE is decided against priority, rights and value, and audited. -/
  | pointValueWrite (p : Path) (i : Nat) (v : Word) (ecc : Ecc)
  /-- R73: A source write from a point's bound source is accepted or refused and sets VALUE, QUAL and AGE. -/
  | pointSourceWrite (i kind ref : Nat) (v : Word) (good : Bool) (remote : Option (Nat × Nat × Nat)) (task : Option Nat) (ecc : Ecc)
  /-- R100: A write of SYS_PT_REL relinquishes a hold on a point under R79 and is audited. -/
  | pointRelinquish (p : Path) (data : Word)
  /-- R77: A write to a point's BIND rebinds its source, makes the point NOTVALID, and takes or frees a subscription. -/
  | pointBindWrite (p : Path) (i : Nat) (data : Word)
  /-- R62: A tenant 0 write to a point's CONFIG is checked against zone and quota rules and audited. -/
  | pointConfigWrite (p : Path) (i : Nat) (data : Word)
  /-- R64: A read of a point's VALUE captures VALUE and STATUS together for the reading path. -/
  | pointValueRead (p : Path) (i : Nat) (ecc : Ecc)
  /-- R69: The device tick reaches CK_SYS, and every point's AGE increments. -/
  | pointAgeTick (upsets : List (Nat × Ecc))
  /-- R86: A tenant 0 write of a point profile is checked and audited, and MODE LOCAL frees the SUB_OUT entries of its points. -/
  | profileWrite (p : Path) (n k : Nat) (data : Word)
  /-- R92: A tenant 0 write of SYS_ZONE_CFG is checked against member tenants and audited. -/
  | zoneCfgWrite (p : Path) (z : Nat) (data : Word)
  /-- R76: Once per device tick, each block makes the source write of each of its STATUS items. -/
  | statusItemsTick (m : TickMeas)
  /-- R152: A frame boundary increments the frame count, and setup applies due swaps and builds the frame's due list. -/
  | leFrameBoundary
  /-- R107: The engine reaches a due loop at slot start, tests its deadline, latches and evaluates it, and commits one outcome. -/
  | loopEvaluation (ecc : LeEcc) (differ : Option (Fin 4))
  /-- R138: After the two halves disagree, the evaluation is repeated in the following slot and committed when it agrees. -/
  | lockstepRepeat (agree : Bool)
  /-- R139: The power die receives the engine-fault notice and starts its 3 s timer. -/
  | leFaultNotice
  /-- R139: The 3 s timer expires, and loop-bound outputs enter safe state with LEFAULT set. -/
  | leFaultTimerExpiry
  /-- R141: The power die receives the cancel of its engine-fault timer after a FUNC_RST of the loop engine. -/
  | leFaultTimerCancel
  /-- R141: A function reset of the loop engine clears the engine fault, resets every loop state and resumes at the next frame. -/
  | leFuncRst (p : Path)
  /-- R171: An output queue entry reaches the head and is written as a LOOP source write, or is discarded for a stale generation. -/
  | outputQueueDrain
  /-- R172: A head entry that waited 0.4 µs for trend intake drops its trend sample and makes its source write. -/
  | oqTrendTimeout
  /-- R102: A register write to a loop record enters the CK_SYS to CK_LE FIFO. -/
  | loopRecordWrite (p : Path) (n k : Nat) (v : Word)
  /-- R133: A loop record write leaves the FIFO and is applied or refused, may set INIT, and is audited. -/
  | loopRecordApply (f : Fin 5)
  /-- R182: A write of LE_SWAP makes a per-loop swap request that enters the FIFO. -/
  | leSwap (p : Path) (data : Word)
  /-- R165: A write of LE_SWG_CMD with CANCEL 0 makes a group swap request that enters the FIFO. -/
  | leSwgRequest (p : Path) (data : Word)
  /-- R165: A write of LE_SWG_CMD with CANCEL 1 makes a group cancel that enters the FIFO. -/
  | leSwgCancel (p : Path) (data : Word)
  /-- R162: A per-loop swap request is applied from the FIFO, setting or clearing the pending target, and is audited. -/
  | swapRequestApply (f : Fin 5)
  /-- R165: A group request or cancel is applied from the FIFO, setting or clearing the group's pending request, and is audited. -/
  | groupRequestApply (f : Fin 5)
  /-- R148: A write of LE_STATE_SEL selects a loop and clears READY. -/
  | leStateSelWrite (p : Path) (data : Word)
  /-- R148: Between evaluations, the engine copies the selected loop's state into the LE_STATE registers and sets READY. -/
  | leStateCopy
  /-- R148: A write of LE_STATE_SEL with REINIT sets INIT for the named loop and is audited. -/
  | leStateReinit (p : Path) (data : Word)
  /-- R207: An LXRI operation is applied in the engine, setting INIT of its loop. -/
  | loopReinitApply (k : Fin 4)
  /-- R207: An LXFO operation is applied, making an override-band write to the loop's OUT point. -/
  | lxForceApply (k : Fin 4)
  /-- R207: An LXFR operation is applied, relinquishing the loop's OUT point. -/
  | lxRelinquishApply (k : Fin 4)
  /-- R194: Integer add of two registers. -/
  | add (k : Fin 4) (e : Ecc) (rd ra rb : Fin 16)
  /-- R194: Integer subtract of two registers. -/
  | sub (k : Fin 4) (e : Ecc) (rd ra rb : Fin 16)
  /-- R194: Bitwise and of two registers. -/
  | and (k : Fin 4) (e : Ecc) (rd ra rb : Fin 16)
  /-- R194: Bitwise inclusive or of two registers. -/
  | ior (k : Fin 4) (e : Ecc) (rd ra rb : Fin 16)
  /-- R194: Bitwise exclusive or of two registers. -/
  | eor (k : Fin 4) (e : Ecc) (rd ra rb : Fin 16)
  /-- R194: Bitwise and of ra with the complement of rb. -/
  | andn (k : Fin 4) (e : Ecc) (rd ra rb : Fin 16)
  /-- R194: Shift left by rb[4:0]. -/
  | shl (k : Fin 4) (e : Ecc) (rd ra rb : Fin 16)
  /-- R194: Shift right with zeros by rb[4:0]. -/
  | shr (k : Fin 4) (e : Ecc) (rd ra rb : Fin 16)
  /-- R194: Shift right with the sign bit by rb[4:0]. -/
  | asr (k : Fin 4) (e : Ecc) (rd ra rb : Fin 16)
  /-- R194: Rotate right by rb[4:0]. -/
  | ror (k : Fin 4) (e : Ecc) (rd ra rb : Fin 16)
  /-- R194: Signed compare giving -1, 0 or 1. -/
  | cmp (k : Fin 4) (e : Ecc) (rd ra rb : Fin 16)
  /-- R194: Unsigned compare giving -1, 0 or 1. -/
  | cmpu (k : Fin 4) (e : Ecc) (rd ra rb : Fin 16)
  /-- R194: Signed minimum of two registers. -/
  | min (k : Fin 4) (e : Ecc) (rd ra rb : Fin 16)
  /-- R194: Signed maximum of two registers. -/
  | max (k : Fin 4) (e : Ecc) (rd ra rb : Fin 16)
  /-- R194: Unsigned minimum of two registers. -/
  | minu (k : Fin 4) (e : Ecc) (rd ra rb : Fin 16)
  /-- R194: Unsigned maximum of two registers. -/
  | maxu (k : Fin 4) (e : Ecc) (rd ra rb : Fin 16)
  /-- R194: Low 32 bits of the product. -/
  | mul (k : Fin 4) (e : Ecc) (rd ra rb : Fin 16)
  /-- R194: High 32 bits of the signed product. -/
  | mulhs (k : Fin 4) (e : Ecc) (rd ra rb : Fin 16)
  /-- R194: High 32 bits of the unsigned product. -/
  | mulhu (k : Fin 4) (e : Ecc) (rd ra rb : Fin 16)
  /-- R195: Signed quotient rounded toward minus infinity, without trap. -/
  | quo (k : Fin 4) (e : Ecc) (rd ra rb : Fin 16)
  /-- R195: Unsigned quotient, without trap. -/
  | quou (k : Fin 4) (e : Ecc) (rd ra rb : Fin 16)
  /-- R195: Signed remainder with the sign of the divisor. -/
  | mod (k : Fin 4) (e : Ecc) (rd ra rb : Fin 16)
  /-- R195: Unsigned remainder. -/
  | modu (k : Fin 4) (e : Ecc) (rd ra rb : Fin 16)
  /-- R194: Saturating signed add, setting CFLAGS.IV on saturation. -/
  | adds (k : Fin 4) (e : Ecc) (rd ra rb : Fin 16)
  /-- R194: Saturating signed subtract, setting CFLAGS.IV on saturation. -/
  | subs (k : Fin 4) (e : Ecc) (rd ra rb : Fin 16)
  /-- R194: Add of a sign-extended immediate. -/
  | addi (k : Fin 4) (e : Ecc) (rd ra : Fin 16) (imm : BitVec 18)
  /-- R194: Bitwise and with a zero-extended immediate. -/
  | andi (k : Fin 4) (e : Ecc) (rd ra : Fin 16) (imm : BitVec 18)
  /-- R194: Bitwise or with a zero-extended immediate. -/
  | iori (k : Fin 4) (e : Ecc) (rd ra : Fin 16) (imm : BitVec 18)
  /-- R194: Bitwise exclusive or with a zero-extended immediate. -/
  | eori (k : Fin 4) (e : Ecc) (rd ra : Fin 16) (imm : BitVec 18)
  /-- R194: Signed compare with an immediate. -/
  | cmpi (k : Fin 4) (e : Ecc) (rd ra : Fin 16) (imm : BitVec 18)
  /-- R194: Unsigned compare with a sign-extended immediate. -/
  | cmpui (k : Fin 4) (e : Ecc) (rd ra : Fin 16) (imm : BitVec 18)
  /-- R194: Shift left by an immediate. -/
  | shli (k : Fin 4) (e : Ecc) (rd ra : Fin 16) (imm : BitVec 18)
  /-- R194: Shift right with zeros by an immediate. -/
  | shri (k : Fin 4) (e : Ecc) (rd ra : Fin 16) (imm : BitVec 18)
  /-- R194: Arithmetic shift right by an immediate. -/
  | asri (k : Fin 4) (e : Ecc) (rd ra : Fin 16) (imm : BitVec 18)
  /-- R194: Load of imm22 shifted left by 10. -/
  | lhi (k : Fin 4) (e : Ecc) (rd : Fin 16) (imm : BitVec 22)
  /-- R194: Rotate right by an immediate. -/
  | rori (k : Fin 4) (e : Ecc) (rd ra : Fin 16) (imm : BitVec 18)
  /-- R194: Load of a word from DMEM, or from the register space on SK0. -/
  | ldw (k : Fin 4) (e : Ecc) (rd ra : Fin 16) (imm : BitVec 18) (de : Ecc)
  /-- R194: Load of a sign-extended halfword. -/
  | ldh (k : Fin 4) (e : Ecc) (rd ra : Fin 16) (imm : BitVec 18) (de : Ecc)
  /-- R194: Load of a zero-extended halfword. -/
  | ldhu (k : Fin 4) (e : Ecc) (rd ra : Fin 16) (imm : BitVec 18) (de : Ecc)
  /-- R194: Load of a sign-extended byte. -/
  | ldb (k : Fin 4) (e : Ecc) (rd ra : Fin 16) (imm : BitVec 18) (de : Ecc)
  /-- R194: Load of a zero-extended byte. -/
  | ldbu (k : Fin 4) (e : Ecc) (rd ra : Fin 16) (imm : BitVec 18) (de : Ecc)
  /-- R194: Store of a word at retire, to DMEM or the register space on SK0. -/
  | stw (k : Fin 4) (e : Ecc) (rs ra : Fin 16) (imm : BitVec 18)
  /-- R194: Store of a halfword at retire. -/
  | sth (k : Fin 4) (e : Ecc) (rs ra : Fin 16) (imm : BitVec 18) (de : Ecc)
  /-- R194: Store of a byte at retire. -/
  | stb (k : Fin 4) (e : Ecc) (rs ra : Fin 16) (imm : BitVec 18) (de : Ecc)
  /-- R194: Branch when two registers are equal. -/
  | beq (k : Fin 4) (e : Ecc) (ra rb : Fin 16) (off : BitVec 18)
  /-- R194: Branch when two registers differ. -/
  | bne (k : Fin 4) (e : Ecc) (ra rb : Fin 16) (off : BitVec 18)
  /-- R194: Branch when a register is negative. -/
  | blz (k : Fin 4) (e : Ecc) (ra : Fin 16) (off : BitVec 18)
  /-- R194: Branch when a register is not negative. -/
  | bgez (k : Fin 4) (e : Ecc) (ra : Fin 16) (off : BitVec 18)
  /-- R194: Branch when a register is positive. -/
  | bgz (k : Fin 4) (e : Ecc) (ra : Fin 16) (off : BitVec 18)
  /-- R194: Branch when a register is not positive. -/
  | blez (k : Fin 4) (e : Ecc) (ra : Fin 16) (off : BitVec 18)
  /-- R194: Relative jump resolved at decode. -/
  | jmp (k : Fin 4) (e : Ecc) (off : BitVec 26)
  /-- R194: Relative call that writes the return address to w15. -/
  | call (k : Fin 4) (e : Ecc) (off : BitVec 26)
  /-- R194: Indirect jump with link, resolved at execute. -/
  | jind (k : Fin 4) (e : Ecc) (rd ra : Fin 16) (imm : BitVec 18)
  /-- R202: Reads VALUE and STATUS of a point into a register pair, subject to read right. -/
  | pld (k : Fin 4) (e : Ecc) (rd ra : Fin 16) (imm : BitVec 18) (pe : Ecc)
  /-- R203: Writes a point at a priority and returns the R83 result code. -/
  | pwr (k : Fin 4) (e : Ecc) (rd ra rb : Fin 16) (prio : BitVec 4) (pe : Ecc)
  /-- R203: Relinquishes a point at a priority and returns the result code. -/
  | prel (k : Fin 4) (e : Ecc) (rd ra : Fin 16) (prio : BitVec 4) (pe : Ecc)
  /-- R203: Makes a SKEHIL source write to a point, reporting good or fault. -/
  | psrc (k : Fin 4) (e : Ecc) (rd ra rb : Fin 16) (word prio : BitVec 4) (pe : Ecc)
  /-- R204: Hands a posted remote write to the campus links and returns a tag or a local refusal. -/
  | pwrr (k : Fin 4) (e : Ecc) (rd ra rb : Fin 16) (prio : BitVec 4)
  /-- R207: Reads a loop record word through the coprocessor port. -/
  | lxrr (k : Fin 4) (e : Ecc) (rd ra : Fin 16) (word : BitVec 4)
  /-- R207: Reads a committed loop state word from E0. -/
  | lxrs (k : Fin 4) (e : Ecc) (rd ra : Fin 16) (word : BitVec 4)
  /-- R207: Sends a loop record word write through the commit buffer. -/
  | lxwr (k : Fin 4) (e : Ecc) (ra rb : Fin 16) (word : BitVec 4)
  /-- R207: Sends a per-loop swap request through the commit buffer. -/
  | lxsw (k : Fin 4) (e : Ecc) (ra rb : Fin 16)
  /-- R207: Sends a group swap request or cancel through the commit buffer. -/
  | lxgs (k : Fin 4) (e : Ecc) (rb : Fin 16)
  /-- R207: Sends a request to set INIT of a loop. -/
  | lxri (k : Fin 4) (e : Ecc) (ra : Fin 16)
  /-- R207: Sends an override-band write of a loop's OUT point. -/
  | lxfo (k : Fin 4) (e : Ecc) (ra rb : Fin 16) (prio : BitVec 4)
  /-- R207: Sends a relinquish of a loop's OUT point. -/
  | lxfr (k : Fin 4) (e : Ecc) (ra : Fin 16) (prio : BitVec 4)
  /-- R211: Waits for every sent LX operation to be acknowledged, then returns and clears the status accumulator. -/
  | lxsync (k : Fin 4) (e : Ecc) (rd : Fin 16)
  /-- R222: Waits for the task's LX operations, posts any LX errors, and ends the task. -/
  | done (k : Fin 4) (e : Ecc) (stall : Nat)
  /-- R194: Gives cause BREAK. -/
  | brk (k : Fin 4) (e : Ecc)
  /-- R225: Sets a software interrupt source of the core pending at retire. -/
  | sig (k : Fin 4) (e : Ecc) (imm : BitVec 8)
  /-- R197: Reads a time word: frame count, campus time halves, or task cycles. -/
  | rdt (k : Fin 4) (e : Ecc) (rd : Fin 16) (imm : BitVec 8) (stall : Nat)
  /-- R216: Returns SK0 from an exception or interrupt to SK_EPC. -/
  | eret (k : Fin 4) (e : Ecc)
  /-- R194: Reads CFLAGS and clears it at retire. -/
  | cflg (k : Fin 4) (e : Ecc) (rd : Fin 16)
  /-- R196: Binary32 addition. -/
  | fadd (k : Fin 4) (e : Ecc) (rd ra rb : Fin 16)
  /-- R196: Binary32 subtraction. -/
  | fsub (k : Fin 4) (e : Ecc) (rd ra rb : Fin 16)
  /-- R196: Binary32 multiplication. -/
  | fmul (k : Fin 4) (e : Ecc) (rd ra rb : Fin 16)
  /-- R196: Binary32 division. -/
  | fdiv (k : Fin 4) (e : Ecc) (rd ra rb : Fin 16)
  /-- R196: Binary32 minimum. -/
  | fmin (k : Fin 4) (e : Ecc) (rd ra rb : Fin 16)
  /-- R196: Binary32 maximum. -/
  | fmax (k : Fin 4) (e : Ecc) (rd ra rb : Fin 16)
  /-- R196: Clears the sign bit. -/
  | fabs (k : Fin 4) (e : Ecc) (rd ra : Fin 16)
  /-- R196: Inverts the sign bit. -/
  | fneg (k : Fin 4) (e : Ecc) (rd ra : Fin 16)
  /-- R196: Binary32 square root. -/
  | fsqrt (k : Fin 4) (e : Ecc) (rd ra : Fin 16)
  /-- R196: Binary32 compare giving -1, 0, 1 or 2 for unordered. -/
  | fcmp (k : Fin 4) (e : Ecc) (rd ra rb : Fin 16)
  /-- R196: Converts binary32 to a signed integer toward zero, saturating. -/
  | ftoi (k : Fin 4) (e : Ecc) (rd ra : Fin 16)
  /-- R196: Converts a signed integer to binary32. -/
  | itof (k : Fin 4) (e : Ecc) (rd ra : Fin 16)
  /-- R196: Converts an unsigned integer to binary32. -/
  | utof (k : Fin 4) (e : Ecc) (rd ra : Fin 16)
  /-- R196: Classifies a binary32 value. -/
  | fkind (k : Fin 4) (e : Ecc) (rd ra : Fin 16)
  /-- R196: Rounds a binary32 value to an integral value, ties to even. -/
  | frnd (k : Fin 4) (e : Ecc) (rd ra : Fin 16)
  /-- R196: Scales a binary32 value by a power of two. -/
  | fscl (k : Fin 4) (e : Ecc) (rd ra rb : Fin 16)
  /-- R193: A core decodes a word with an unassigned op or fn or a non-zero zero field and gives cause ILLEGAL. -/
  | illegal (k : Fin 4) (e : Ecc)
  /-- R213: A core fetches at a PC outside IMEM, outside the task's instruction segment or unaligned, and gives cause IFETCH at execute. -/
  | ifetch (k : Fin 4)
  /-- R221: A task's cycle count reaches its budget and the task is aborted with cause BUDGET. -/
  | taskBudgetExpiry (k : Fin 4)
  /-- R216: SK0 takes an offered interrupt at an instruction boundary and continues at SK_VEC. -/
  | sk0InterruptTake
  /-- R218: A frame boundary reaching CK_SYS activates each PERIODIC task whose phase matches. -/
  | taskActivatePeriodic
  /-- R219: The dispatcher starts the best ready task 8 cycles after the previous one ended, capturing the generation. -/
  | taskDispatch (k : Fin 4)
  /-- R208: A read-only LX response returns to the core and is matched by sequence number or discarded. -/
  | lxReadResponse (k : Fin 4)
  /-- R211: The engine's acknowledgement of a state-changing LX operation merges its status into the accumulator. -/
  | lxAck (k : Fin 4)
  /-- R191: A register-space write to SK1-SK3 IMEM or DMEM is accepted only from tenant 0 on a stopped core, and audited. -/
  | skMemoryWrite (p : Path) (k : Fin 3) (dmem : Bool) (word : BitVec 14) (data : Word)
  /-- R224: A function reset of a core aborts its task, clears its registers and ready bits, and completes its ACTIVE sources. -/
  | skFuncRst (p : Path) (k : Fin 4)
  /-- R236: At each 25 µs regulator boundary, a coil channel handles its events in order and computes the duty of both twins. -/
  | cdCycleBoundary (n : Nat) (x : CdSamples)
  /-- R245: A forwarded command reaches a coil channel and updates CMDV, to act at the next boundary. -/
  | cdCommand (n : Nat)
  /-- R239: 100 µs after entry into IDLE, both converters must read below 4 steps, or TWIN latches. -/
  | cdZeroCheck (n : Nat) (a b : List Nat)
  /-- R258: A sense comparator above the trip turns every switch off within 2 µs and latches OVC. -/
  | cdOvercurrent (n : Nat)
  /-- R258: Full duty for 2 ms with low current latches OPEN. -/
  | cdOpenDetect (n : Nat)
  /-- R241: A pair share out of band for 10 boundaries latches IMBAL. -/
  | cdImbalance (n : Nat)
  /-- R247: T_PULL expires in PULLIN or REPULL, and the channel moves to HOLD. -/
  | cdPullinEnd (n : Nat) (x : CdSamples)
  /-- R247: HOLD_MAX expires in HOLD, and the channel goes to FASTDECAY with HOLD_EXP. -/
  | cdHoldExpiry (n : Nat) (x : CdSamples)
  /-- R247: T_PULSE expires in PULSE mode, and the channel goes to FASTDECAY. -/
  | cdPulseExpiry (n : Nat) (x : CdSamples)
  /-- R253: The clamp phase ends, E_LAST and T_LAST are reported, and the channel goes to FAULT, PULLIN or IDLE. -/
  | cdClampEnd (n : Nat) (x : CdSamples)
  /-- R254: A clamp phase longer than 20 ms latches FD_TIME. -/
  | cdFdTimeout (n : Nat)
  /-- R257: VCOIL out of window moves every channel to FAST_DECAY and then SUPPLY, and is counted. -/
  | cdSupplyExcursion (high : Bool) (v mean : Nat)
  /-- R257: VCOIL back in window for 10 ms lets each channel in SUPPLY take up CMDV. -/
  | cdSupplyRecover (v : Nat)
  /-- R259: A write of 1 to a CD_FLT bit clears it, is audited, and lets the channel proceed when no bit remains. -/
  | cdFaultClear (p : Path) (n : Nat) (data : Word)
  /-- R249: A write of CD_CFG is checked against phase and bounds, may take MODE OFF, and is audited. -/
  | cdCfgWrite (p : Path) (n : Nat) (data : Word)
  /-- R260: A function reset of a coil pair drives its channels through fast decay and waits for the clamp phase. -/
  | cdPairFuncRst (p : Path) (k : Fin 16)
  /-- R260: After its clamp phases end, the pair reset clears its state and each channel takes up CMDV. -/
  | cdFuncRstComplete (k : Fin 16)
  /-- R280: The closing observation ends and gives a kink result. -/
  | cdKinkObservationEnd (n : Nat) (vs : List Int)
  /-- R281: The opening dip observation of a pair ends and gives a result. -/
  | cdDipObservationEnd (n : Nat) (is : List (Nat × Nat))
  /-- R282: A run of samples above the target ends a release bump observation. -/
  | cdReleaseBump (n t : Nat) (run : List (Nat × Nat))
  /-- R291: A write of CD_LWIN opens or closes the learning window. -/
  | cdLwinWrite (p : Path) (data : Word)
  /-- R291: The window count falls by one each minute, and the window closes at 0. -/
  | cdLwinMinute
  /-- R292: A write of CD_LEARN.STROKE starts a stroke learn when accepted. -/
  | cdLearnStroke (p : Path) (n : Nat)
  /-- R292: A write of CD_LEARN.PROBE starts a drop-out probe when accepted. -/
  | cdLearnProbe (p : Path) (n : Nat)
  /-- R292: A write of CD_LEARN.CANCEL ends the running learning run. -/
  | cdLearnCancel (p : Path) (n : Nat)
  /-- R293: A step of a stroke learn cycle ends and the next begins. -/
  | cdStrokeStepEnd (n : Nat)
  /-- R296: A probe level's dwell ends without release, and the next lower level is applied. -/
  | cdProbeDwellEnd (n : Nat)
  /-- R299: A tenant 0 write of CD_HOLD_LRN restores I_DO and recomputes I_LHOLD. -/
  | cdHoldLrnWrite (p : Path) (n : Nat) (data : Word)
  /-- R302: Every 1 ms the coil thermal model updates Tw and Tb, and may trip THERM or set COOLED. -/
  | cdThermalUpdate (n : Nat)
  /-- R303: A 100 ms resistance window ends and corrects the model or is discarded. -/
  | cdRwWindow (n : Nat)
  /-- R305: Every 1 ms the energy window is checked, and EWIN latches above E_MAX. -/
  | cdEnergyCheck (n : Nat)
  /-- R306: Every 1 ms the die dissipation is estimated and Pf is filtered. -/
  | cdBudgetUpdate (vcoil : Nat)
  /-- R307: Every 50 ms with Pf above budget, the shedding stage rises by one. -/
  | cdBudgetStageRise
  /-- R307: After Pf has stayed below 0.9 of budget for 1 s, the stage falls by one. -/
  | cdBudgetStageFall
  /-- R308: Stage 6 held for 1 s above budget sets OVER and posts an error. -/
  | cdBudgetOver
  /-- R308: A shed channel leaves SHED in turn, 10 ms after the previous one. -/
  | cdUnshed
  /-- R339: A recognised normal or urgent trigger from a pin, fan group or timer acts on the converter by its state. -/
  | adcTrigger (src : Fin 13) (rising : Bool)
  /-- R362: A write of ADC_START.START acts as a normal trigger. -/
  | adcStartNormal (p : Path) (k : Fin 4)
  /-- R362: A write of ADC_START.USTART acts as an urgent trigger. -/
  | adcStartUrgent (p : Path) (k : Fin 4)
  /-- R340: Start-up of 64 cycles ends and the first sampling phase begins. -/
  | adcStartupEnd (k : Fin 4)
  /-- R350: A conversion ends and is judged for over-range and SUSPECT, or discarded and repeated. -/
  | adcConversionEnd (k : Fin 4) (code : Nat) (ovr : Option Bool)
  /-- R343: A pass record crosses to CK_PD and merges into its entry's accumulator. -/
  | adcPassMerge (k : Fin 4)
  /-- R345: The device tick reaches the power die, and entries take snapshots and checks fall due. -/
  | pdTickArrival
  /-- R346: A snapshot crosses to the logic die and is calibrated into source writes of its bound points. -/
  | accPublication
  /-- R351: Every 1 µs each pin's injection detector is sampled, and persisting injection sets INJ. -/
  | adcInjectionSample (mask : BitVec 64)
  /-- R354: A due check starts when its converter is free. -/
  | adcCheckStart (k : Fin 4)
  /-- R355: A check of 8 conversions completes, and the pair is compared once both are complete. -/
  | adcCheckComplete (k : Fin 4) (codes : List (Nat × Option Bool))
  /-- R370: An acquisition timer reaches the end of its period and issues a trigger. -/
  | adcTimerExpiry (t : Fin 4)
  /-- R342: A write of ADC_CTRL is checked, and EN takes the converter to OFF or IDLE. -/
  | adcCtrlWrite (p : Path) (k : Fin 4) (data : Word)
  /-- R349: Every 100 ms each entry's local mean is renewed on the power die. -/
  | adcLocalMean
  /-- R357: A function reset of a converter abandons its work and clears its accumulators and flags. -/
  | adcFuncRst (p : Path) (k : Fin 4)
  /-- R378: Every 1 ms each fan channel resolves its target and moves its state. -/
  | fanEval
  /-- R377: A forwarded command reaches a fan channel as a duty. -/
  | fanCommand (n : Fin 32)
  /-- R377: A forwarded change of the command point's QUAL reaches the channel for supervision. -/
  | fanQualChange (n : Fin 32)
  /-- R376: An accepted falling tach edge gives a new PERIOD. -/
  | fanTachEdge (n : Fin 32) (after : Nat)
  /-- R376: 1 s without an accepted edge sets PERIOD to 0. -/
  | fanTachTimeout (n : Fin 32)
  /-- R379: The kick timer expires, latching KICK and moving the channel to FAULT. -/
  | fanKickTimeout (n : Fin 32)
  /-- R381: Low speed at sufficient duty for FT_TIME latches TACH. -/
  | fanTachFault (n : Fin 32)
  /-- R382: The watch window ends WATCH seconds after its latest event. -/
  | fanWatchEnd (g : Fin 4)
  /-- R386: A command point not GOOD or FORCED for SUP_TIME moves the channel to row 6 of R385. -/
  | fanSupervisionLost (n : Fin 32)
  /-- R375: The group's converter trigger event occurs TDLY after the period start of member TCH. -/
  | fanGroupTrigger (g : Fin 4)
  /-- R384: A write of FAN_GCMD.TEST starts a group test. -/
  | fanGroupTest (p : Path) (g : Fin 4) (data : Word)
  /-- R384: TTIME ends a group test, whose pass and fail masks are recorded and audited. -/
  | fanTestEnd (g : Fin 4)
  /-- R390: A write of 1 to a FAN_FLT bit clears it, is audited, and opens a recovery watch. -/
  | fanFaultClear (p : Path) (n : Fin 32) (data : Word)
  /-- R391: A function reset of a fan group clears faults, failover and test, and opens a recovery watch. -/
  | fanGroupFuncRst (p : Path) (g : Fin 4)
  /-- R393: Every 1 ms the hardware thermal guard samples its three temperatures. -/
  | guardSample (raw0 raw1 : Int) (part : Nat) (extLow : Bool)
  /-- R393: A temperature at threshold for 3 samples asserts SYS_SHDN_N and moves every output to safe state. -/
  | guardTrip
  /-- R393: After 60 s at least 10 K below threshold, the guard releases SYS_SHDN_N. -/
  | guardRelease
  /-- R394: TS0 and TS1 differing by 10 K for 1 s set SENSE_DIFF. -/
  | guardSenseDiff
  /-- R394: TGUARD above 500 kΩ for 1 s sets TG_OPEN. -/
  | guardTgOpen
  /-- R416: A contact's level completes its debounce run and changes the debounced state, with event, count and source write. -/
  | diStateChange (n : Fin 64) (raw : Bool) (samples : Nat)
  /-- R420: A write of DI_CFG restarts the debounce or idles the input. -/
  | diCfgWrite (p : Path) (n : Fin 64) (data : Word)
  /-- R417: A write of DI_CNTSET loads the contact counter and is audited. -/
  | diCntset (p : Path) (n : Fin 64) (data : Word)
  /-- R423: Every 1 ms each relay driver handles trips, safe state, enables and its latest command. -/
  | doEval
  /-- R423: A forwarded command reaches a relay driver. -/
  | doCommand (n : Fin 32)
  /-- R424: The minimum on or off time ends and a waiting change of state takes effect. -/
  | doMinTimeExpiry (n : Fin 32)
  /-- R425: 2 ms in current limit opens the switch and latches OVC. -/
  | doOvercurrent (n : Fin 32)
  /-- R425: The switch temperature reaching its limit opens it and latches THERM. -/
  | doThermalTrip (n : Fin 32)
  /-- R425: A write of 1 to a DO_FLT bit clears it and is audited. -/
  | doFaultClear (p : Path) (n : Fin 32) (data : Word)
  /-- R426: An open output below 3 V for 1 s sets OPENLOAD. -/
  | doOpenloadDetect (n : Fin 32)
  /-- R426: An open output above 3 V for 1 s clears OPENLOAD. -/
  | doOpenloadClear (n : Fin 32)
  /-- R428: Every 100 µs each analog output slews toward its target and sets its code. -/
  | aoUpdate
  /-- R428: A forwarded command reaches an analog output. -/
  | aoCommand (n : Fin 16)
  /-- R429: 100 ms in current limit latches OVL and drives 0 V. -/
  | aoOverload (n : Fin 16)
  /-- R429: A write of 1 to AO_FLT.OVL clears it and is audited. -/
  | aoFaultClear (p : Path) (n : Fin 16) (data : Word)
  /-- R431: VFIELD below threshold for 1 ms sets VF_LOW and freezes debounced states. -/
  | vfieldLow (v : Nat)
  /-- R431: VFIELD above 17 V for 10 ms clears VF_LOW and resumes debounce. -/
  | vfieldRecover (v : Nat)
  /-- R454: A received data frame of no hardware class is offered to the receive buffers and stored. -/
  | zbDataFrame (z : Fin 16) (f : CanFrame)
  /-- R442: A received remote frame is acknowledged, not stored, and counted. -/
  | zbRemoteFrame (z : Fin 16) (ide : Bool) (id : Nat)
  /-- R469: An ANNOUNCE frame is answered with ASSIGN or recorded as an unknown serial. -/
  | zbAnnounce (z : Fin 16) (f : CanFrame)
  /-- R469: A HEARTBEAT frame marks its node PRESENT. -/
  | zbHeartbeat (z : Fin 16) (f : CanFrame)
  /-- R466: A NODE_WRITE frame is decided as a point write or relinquish and answered with WRITE_RESULT. -/
  | zbNodeWrite (z : Fin 16) (f : CanFrame)
  /-- R465: An uplink reply frame is matched to its OPEN tag and offered to the buffers, or dropped as late. -/
  | zbReply (z : Fin 16) (f : CanFrame)
  /-- R458: A write of TXREQ requests one transmission of a buffer, taking a tag when tagged. -/
  | zbTxreq (p : Path) (z : Fin 16) (b : Fin 64)
  /-- R462: A write of TXABORT aborts a pending transmission. -/
  | zbTxabort (p : Path) (z : Fin 16) (b : Fin 64)
  /-- R459: When the bus becomes idle, the controller chooses the next frame to send. -/
  | zbFrameChoice (z : Fin 16)
  /-- R460: A transmission ends with its result in TXRES. -/
  | zbTxEnd (z : Fin 16) (e : TxEnd) (tdcv : Nat)
  /-- R447: A detected bus error is counted and recorded, moving the error counters. `tdcv` is the transmitter delay
  measured in a frame that the error ends with bus-off (R450). -/
  | zbBusError (z : Fin 16) (code : Fin 5) (add : Fin 9) (data tx late : Bool) (tdcv : Nat)
  /-- R446: A write of ZB_CMD.RECOVER starts bus-off recovery. -/
  | zbRecover (p : Path) (z : Fin 16)
  /-- R446: After 128 recessive sequences, recovery completes and BUSON is set. -/
  | zbRecoveryComplete (z : Fin 16)
  /-- R444: A write of ZB_CTRL.MODE changes the mode at the end of the frame in progress. -/
  | zbModeWrite (p : Path) (z : Fin 16) (data : Word)
  /-- R444: After 11 recessive bits the controller ends integration and joins the traffic. -/
  | zbIntegrated (z : Fin 16)
  /-- R464: An OPEN tag with no reply for LATE ms moves to QUARANTINE. -/
  | zbTagOpenTimeout (z : Fin 16) (t : Fin 1024)
  /-- R464: A tag in QUARANTINE for LATE ms becomes FREE. -/
  | zbTagQuarantineEnd (z : Fin 16) (t : Fin 1024)
  /-- R469: No uplink frame for 3 heartbeat periods moves a node to ABSENT. -/
  | zbNodeTimeout (z : Fin 16) (a : Fin 32)
  /-- R471: A wanted segment supply start begins once 40 ms have passed since the previous start. -/
  | zbSupplyStart
  /-- R470: Segment current above TRIP for 1 ms turns the FET off and latches TRIP. -/
  | zbSupplyTrip (z : Fin 16) (mA : Nat)
  /-- R470: Current above twice TRIP turns the FET off within 10 µs and latches HARD. -/
  | zbSupplyHard (z : Fin 16) (mA : Nat)
  /-- R470: ZBVOUT not reaching its level, or falling, latches PG and turns the FET off. -/
  | zbSupplyPgFail (z : Fin 16) (mA : Nat)
  /-- R472: 1 s after a TRIP or HARD trip, the supervisor retries the start when retries remain. -/
  | zbSupplyRetry (z : Fin 16)
  /-- R486: A write of ZB_PWR_CMD.CYCLE turns the supply off for 1 s. -/
  | zbPwrCycle (p : Path) (z : Fin 16)
  /-- R471: The 1 s off time of a power cycle ends and a start is wanted. -/
  | zbPwrCycleEnd (z : Fin 16)
  /-- R472: A write of 1 to a ZB_PWR_FLT bit clears it and is audited. -/
  | zbPwrFaultClear (p : Path) (z : Fin 16) (data : Word)
  /-- R471: A write of ZB_PWR_CFG.EN turns the supply off or wants a start. -/
  | zbPwrEnWrite (p : Path) (z : Fin 16) (data : Word)
  /-- R474: A function reset of a segment aborts its transmissions, quarantines its tags and clears its state. -/
  | zbFuncRst (p : Path) (z : Fin 16)
  /-- R493: An Ethernet frame received on a port is filtered and handed to IPv6 and UDP; `full` says that it found the port's receive
  FIFO full (R720). -/
  | clFrameRx (port : Fin 3) (fcsOk full : Bool) (bytes : List Byte) (lead : Nat) (stamp : Fin 50)
  /-- R494: An ICMPv6 Echo Request is answered. -/
  | icmpEchoRequest (port : Fin 3) (src dst : Nat) (body : List Byte)
  /-- R494: A Neighbor Solicitation is answered with an Advertisement. -/
  | neighborSolicitation (port : Fin 3) (src target : Nat)
  /-- R494: A Neighbor Advertisement updates the neighbour cache or reveals an address conflict. -/
  | neighborAdvertisement (port : Fin 3) (target mac : Nat)
  /-- R494: Duplicate address detection ends after 1 s, using the address or setting DAD_FAIL. -/
  | dadComplete (port : Fin 3) (k : Fin 2)
  /-- R490: A port's link comes up. -/
  | clLinkUp (port : Fin 3) (level role : Bool) (sqi : Fin 8)
  /-- R536: A port's link is lost, and its Strait goes DOWN. -/
  | clLinkDown (port : Fin 3)
  /-- R506: A received PUB makes REMOTE source writes to the points subscribed to its records. -/
  | pub (port : Fin 3) (m : Msg)
  /-- R503: A received SUBSCRIBE is decided and answered with SUB_ACK. -/
  | subscribe (port : Fin 3) (m : Msg)
  /-- R504: A received SUB_ACK establishes or refuses the waiting SUB_IN entries. -/
  | subAck (port : Fin 3) (m : Msg)
  /-- R506: A received UNSUBSCRIBE frees the sender's SUB_OUT entry for the point. -/
  | unsubscribe (port : Fin 3) (m : Msg)
  /-- R508: A received RWRITE enters the intake queue, or is answered FULL. -/
  | rwrite (port : Fin 3) (m : Msg)
  /-- R508: A queued RWRITE is decided, audited and answered with RWRITE_RESULT. -/
  | rwriteDecide
  /-- R510: A received RWRITE_RESULT ends its write, or is recorded as late or stray. -/
  | rwriteResult (port : Fin 3) (m : Msg)
  /-- R586: A received MIRROR stores neighbour records and is answered with MIRROR_ACK. -/
  | mirror (port : Fin 3) (m : Msg)
  /-- R585: A received MIRROR_ACK advances MIRRORED and the cursor, or sets the mirror state. -/
  | mirrorAck (port : Fin 3) (m : Msg)
  /-- R518: A received BEACON is followed to step or slew campus time. -/
  | beacon (port : Fin 3) (m : Msg) (stamp : Fin 50)
  /-- R517: A received DELAY_REQ is answered with DELAY_RESP. -/
  | delayReq (port : Fin 3) (m : Msg) (lead : Nat)
  /-- R517: A received DELAY_RESP gives a port delay value. -/
  | delayResp (port : Fin 3) (m : Msg) (stamp : Fin 50)
  /-- R536: A received HELLO moves the port's Strait state, or reveals an ID conflict. -/
  | hello (port : Fin 3) (m : Msg)
  /-- R539: A received TOPO updates the fragment, roles and routes. -/
  | topo (port : Fin 3) (m : Msg)
  /-- R546: A received ISLAND_ADV updates the campus master's fragment table and elections. -/
  | islandAdv (port : Fin 3) (m : Msg) (addr : Nat)
  /-- R549: A received CAMPUS_MAP is accepted or ignored, updating the reachable set. -/
  | campusMap (port : Fin 3) (m : Msg)
  /-- R533: An island master re-originates an accepted map on its Straits within 10 ms. -/
  | campusMapRelay
  /-- R514: A port sends the next queued message by class priority. -/
  | clMessageTransmit (port : Fin 3)
  /-- R503: A SUBSCRIBE is sent for a not established entry, paced by RATE. -/
  | subscribeSend
  /-- R504: No answer within 2 s makes a SUBSCRIBE due again. -/
  | subAckTimeout (i : Fin 32768)
  /-- R504: 10 s after a FULL answer, a SUBSCRIBE is due again. -/
  | subFullRetry (i : Fin 32768)
  /-- R504: An established entry whose point is STALE, or has had no publication, becomes not established. -/
  | subStaleResubscribe (i : Fin 32768)
  /-- R505: Pending publication records for one subscriber are gathered into a PUB as capacity allows. -/
  | pubSend (dev : Fin 1024)
  /-- R531: A write of CL_RW_CMD with OP 0 posts a remote write of the path's value to its CPID. -/
  | clRwWrite (p : Path) (data : Word)
  /-- R531: A write of CL_RW_CMD with OP 1 posts a remote relinquish. -/
  | clRwRelinquish (p : Path) (data : Word)
  /-- R510: 2 s without a result ends a remote write with TIMEOUT. -/
  | rwriteTimeout (n : Fin 4096)
  /-- R512: A campus tag in QUARANTINE for QUAR seconds becomes FREE. -/
  | clTagQuarantineEnd (n : Fin 4096)
  /-- R516: The campus master sends a BEACON on BB every 250 ms. -/
  | beaconSend (lead : Nat)
  /-- R518: A follower sends its own BEACON within 50 ms of a followed one. -/
  | beaconReissue (lead : Nat)
  /-- R517: Every 1 s a port starts a delay measurement with DELAY_REQ. -/
  | delayMeasure (port : Fin 3) (lead : Nat)
  /-- R518: 3 s without a followed beacon returns SYNC to 0. -/
  | timeSyncLoss
  /-- R515: Every 1 s while SYNC is 1, campus time is written back to the RTC. -/
  | rtcWriteback
  /-- R519: A write of CL_TIME_SET_HI steps campus time on the campus master. -/
  | timeSet (p : Path) (data : Word)
  /-- R521: A function reset of a port drops its link and queues and restarts it. -/
  | clPortFuncRst (p : Path) (n : Fin 3)
  /-- R533: Every 10 ms a HELLO is sent on each UL port with link. -/
  | helloSend
  /-- R533: A TOPO is sent every 100 ms and on each change of Strait state. -/
  | topoSend
  /-- R533: An island master sends ISLAND_ADV on BB every 100 ms. -/
  | islandAdvSend
  /-- R533: The campus master sends CAMPUS_MAP every 1 s and on change. -/
  | campusMapSend
  /-- R536: A PENDING Strait without its second HELLO for 30 ms goes DOWN. -/
  | straitPendingTimeout (p : Fin 2)
  /-- R536: An UP Strait without a valid HELLO for 30 ms goes DOWN and the neighbour is lost. -/
  | straitHelloTimeout (p : Fin 2)
  /-- R536: A MISWIRE port without any HELLO for 30 ms goes DOWN. -/
  | miswireTimeout (p : Fin 2)
  /-- R538: An UP Strait held for 1 s sets ESTABLISHED. -/
  | establishedSet
  /-- R539: A TOPO older than 300 ms is dropped and the fragment recomputed. -/
  | topoExpiry (member : Fin 32)
  /-- R542: The best candidate takes the island master role once its fragment has been unchanged for 20 ms. -/
  | islandMasterTake
  /-- R547: An island master takes the campus master role when its conditions hold. -/
  | campusMasterTake
  /-- R546: An island master not heard for 300 ms is forgotten. -/
  | islandAdvTimeout (dev : Fin 1024)
  /-- R549: A device drops its map after 3 s without an accepted one. -/
  | campusMapTimeout
  /-- R550: A device is released for subscriptions after holding its map for the release step time. -/
  | deviceRelease
  /-- R553: A subscriber unreachable for HOLD seconds has its SUB_OUT entries freed. -/
  | subOutHoldExpiry (dev : Fin 1024)
  /-- R578: The oldest waiting record has waited the flush time and its block falls due. -/
  | logFlushTimeout (trend : Bool)
  /-- R578: The log engine issues the reliable write of the next due block. -/
  | logBlockWriteIssue
  /-- R578: The card completes a block write, committing its records and freeing ring places. -/
  | logBlockCommit
  /-- R580: A card command failing after three retries puts the store into FAULT. -/
  | logCardCommandFail
  /-- R581: A write of LOG_FMT_CMD with KEY 0xA5 formats the store and is audited. -/
  | logFormat (p : Path) (data : Word)
  /-- R581: Formatting ends and the store resumes at the first block of each region. -/
  | logFormatComplete
  /-- R590: A LOG_RD_CMD read command reads a block into LOG_RD_BUF. -/
  | logBlockRead (p : Path)
  /-- R590: A LOG_RD_CMD write command writes LOG_RD_BUF to a block of the FW region. -/
  | logBlockWrite (p : Path)
  /-- R590: A read or write command ends, BUSY returns to 0 and READ is set. -/
  | logRdComplete (ok : Bool)
  /-- R585: The sender sends the next MIRROR from its cursor, with at most 4 unacknowledged. -/
  | mirrorSend
  /-- R585: A probe is sent after a change of downstream neighbour, a boot or a LOG reset. -/
  | mirrorProbe
  /-- R585: 1 s without progress resends from the last NEXT. -/
  | mirrorResendTimeout
  /-- R587: A probe is repeated every 1 s in PROBING, or every 10 s in NOREGION. -/
  | mirrorProbeRepeat
  /-- R591: A function reset of LOG reinitialises the card and restarts the mirror. -/
  | logFuncRst (p : Path) (cap : Option Nat) (card : Option (List (Nat × List Byte)))
  /-- R603: A write of ENABLED 0 retires a tenant when nothing bears its ID. -/
  | tenantRetire (p : Path) (t : Fin 256) (data : Word)
  /-- R603: A write of ENABLED 1 activates a context and increments its generation. -/
  | tenantEnable (p : Path) (t : Fin 256) (data : Word)
  /-- R609: A write of TEN_EQ_POP removes the head entry when its QSEQ matches. -/
  | eventQueuePop (p : Path) (t : Fin 256) (data : Word)
  /-- R609: A write of TEN_XQ_POP removes the head entry when its QSEQ matches. -/
  | errorQueuePop (p : Path) (t : Fin 256) (data : Word)
  /-- R611: A write of TEN_CQ_PUSH pushes the staged command into the pushing tenant's queue. -/
  | commandPush (p : Path) (data : Word)
  /-- R612: The executor decides a PWRITE command as a point write. -/
  | cmdPwrite
  /-- R612: The executor decides a PREL command as a relinquish. -/
  | cmdPrel
  /-- R612: The executor decides an LWORD command as a loop record write. -/
  | cmdLword
  /-- R612: The executor decides an LSWAP command as a per-loop swap request. -/
  | cmdLswap
  /-- R612: The executor decides a REMOTE command as a posted remote write. -/
  | cmdRemote
  /-- R612: The executor decides a RING command as a doorbell ring. -/
  | cmdRing
  /-- R614: A write of TEN_DB_RING sets a doorbell source pending when made by its owner or tenant 0. -/
  | doorbellRing (p : Path) (data : Word)
  /-- R616: A tenant reset request is refused, made to wait, or starts. -/
  | tenantResetRequest (p : Path) (t : Fin 256)
  /-- R617: A tenant reset increments the generation, enters HOLD, empties the command queue and aborts its tasks. -/
  | tenantResetStart (t : Fin 256)
  /-- R617: The hold time ends, fallbacks are applied, forwarding resumes and the context returns to ACTIVE. -/
  | tenantHoldEnd (t : Fin 256)
  /-- R619: Every 10 device ticks a new quota window begins, restarting LOG use and carrying RC use. -/
  | quotaWindow
  /-- R632: A filtered LINE source accepts a change of level, setting or dropping PEND. The line has had the level it
  has now for `cycles` more CK_SYS cycles since the last such report of the source, which comes at each change of it. -/
  | icLineChange (n : Fin 256) (cycles : Nat)
  /-- R634: An EVENT source pulse sets PEND, or merges into it. -/
  | icEventPulse (n : Fin 256) (merged : Option (Fin 11))
  /-- R633: A write of IC_PEND_SET sets SWP or PEND of the sources named. -/
  | icPendSet (p : Path) (k : Fin 8) (data : Word)
  /-- R633: A write of IC_PEND_CLR clears SWP or PEND of the sources named. -/
  | icPendClr (p : Path) (k : Fin 8) (data : Word)
  /-- R635: A write of IC_EN_SET enables sources and is audited. -/
  | icEnSet (p : Path) (k : Fin 8) (data : Word)
  /-- R635: A write of IC_EN_CLR disables sources and is audited. -/
  | icEnClr (p : Path) (k : Fin 8) (data : Word)
  /-- R638: A target without an offer latches the best eligible source and asserts its output. -/
  | icOfferLatch (t : Fin 8)
  /-- R639: A read of IC_TGT_CLAIM claims the latched source, or returns taken, withdrawn or nothing. -/
  | icClaim (p : Path) (t : Fin 8)
  /-- R642: A write of IC_TGT_COMPLETE clears ACTIVE of a source owned by the target. -/
  | icComplete (p : Path) (t : Fin 8) (data : Word)
  /-- R643: A core's dispatcher claims its offer and sets the ready bits of the EVENT tasks that name the source. -/
  | dispatcherClaim (k : Fin 4)
  /-- R656: A bus read returns a halfword from the shadow, capturing the whole unit at its low halfword. -/
  | hostBusRead (ha : Fin 32768)
  /-- R657: A bus write is assembled into a 32-bit write and posted, or acts on a host-side register. -/
  | hostBusWrite (ha : Fin 32768) (d : Fin 65536) (hbe : Fin 4)
  /-- R665: An SPI frame reads words from the shadow or posts write words. -/
  | hostSpiFrame (mosi : List Byte)
  /-- R663: A posted write reaches the FIFO head and is applied with its lane's tenant and audited. -/
  | postedWriteApply
  /-- R660: A shadow unit is copied whole from the live register space with its lane mask. -/
  | shadowUnitCopy (a : Fin (2 ^ 24))
  /-- R662: A write of HB_MBX_CTRL.GO with WR 0 starts an exact read of the live word. -/
  | mbxRead (n : Fin 4) (spi : Bool)
  /-- R662: A write of HB_MBX_CTRL.GO with WR 1 starts an exact write of HB_MBX_DATA. -/
  | mbxWrite (n : Fin 4) (spi : Bool)
  /-- R662: A mailbox access completes after the earlier posted writes, returning data and result. -/
  | mbxComplete (n : Fin 4)
  /-- R662: A mailbox access not completed within 100 µs is abandoned with TMO. -/
  | mbxTimeout (n : Fin 4) (applied : Bool)
  /-- R667: A write of HB_KICK with key 0x6B restarts the watchdog period. -/
  | watchdogKick (p : Path)
  /-- R668: A watchdog period ends without a kick, setting EXPIRED and raising source 124. -/
  | watchdogExpiry
  /-- R671: A function reset completes and HB_FUNC_STAT reads DONE. -/
  | funcRstComplete
  /-- R671: The bound of a function reset passes first, and RESULT reads TIMEOUT. -/
  | funcRstTimeout
  /-- R669: A write of HB_WARM with key 0xC3 by tenant 0 requests a warm device reset after the log flush. -/
  | warmResetRequest (p : Path) (data : Word)
  /-- R669: A write of HB_PWRCYC with key 0x3C asserts PWRCYC_N for 10 ms. -/
  | powerCycle (p : Path) (data : Word)
  /-- R672: A warm reset that has not ended boot within 1,000 ms asserts PWRCYC_N. -/
  | warmBootTimeout
  /-- R694: Release of power-on reset or a warm reset starts boot, sampling the straps. -/
  | bootStart (live : BitVec 16)
  /-- R701: OTP is loaded and its CRC checked, or the device enters service mode. -/
  | bootOtpLoaded (otp : List Byte)
  /-- R680: SFDP and the boot record are read, and a slot is chosen. -/
  | bootFlashProbed (valid quad444 quad114 erase64k : Bool) (mib : Nat) (content : Option (List (Nat × List Byte)))
  /-- R688: A slot's image has been read and its digest computed. -/
  | bootImageReadComplete (ok : Bool)
  /-- R688: A slot's signature is verified, or its try fails and the next slot is tried. -/
  | bootSignatureVerified
  /-- R690: The sections are applied as boot loads and the cross-section checks are made. -/
  | bootSectionsApplied
  /-- R694: Boot ends: the cores start, the host side is released and the zone bus segments take their run mode. -/
  | bootEnd
  /-- R709: A BOOT_FL_CMD READ reads a flash page into BOOT_FL_BUF. -/
  | flashReadPage (p : Path)
  /-- R698: A BOOT_FL_CMD PROGRAM programs a page of the inactive slot. -/
  | flashProgram (p : Path)
  /-- R698: A BOOT_FL_CMD ERASE erases a sector of the inactive slot. -/
  | flashErase (p : Path)
  /-- R698: A flash command completes, or sets ERR. -/
  | flashCmdComplete (ok : Bool)
  /-- R699: A BOOT_SLOT_CMD ACTIVATE verifies the inactive slot and writes a trial record. -/
  | slotActivate (p : Path) (slot : Fin 2) (tries : Fin 8)
  /-- R699: A BOOT_SLOT_CMD CONFIRM ends the trial of the booted slot. -/
  | slotConfirm (p : Path)
  /-- R699: An ACTIVATE command completes, writing its record or refusing with its cause. -/
  | slotActivateComplete (read : Bool)
  /-- R704: A write of CAL_UC_PT commits the held gain and offset of a user calibration entry. -/
  | userCalCommit (p : Path) (e : Fin 2048) (data : Word)
  /-- R714: Every 1 ms the loop engine counts CK_LE against CK_SYS and trims its PLL. -/
  | leDisciplineTrim (ppm : Int)
  /-- R714: With the reference good for 100 ms, discipline resumes and LE_FREE returns to 0. -/
  | disciplineResume (ppm : Int)
  /-- R715: The reference monitor clears REF_OK and starts a warm reset with cause CLOCK. -/
  | refLoss
  /-- R716: Power-die oscillators that disagree for three windows put the power die into power-on reset. -/
  | pdOscMismatch
  /-- R717: CK_RTC without an edge for 4 ms sets RTC_STOP, clears RTC_VALID and holds the count. -/
  | rtcStop
  /-- R717: CK_RTC edges resume and RTC_STOP returns to 0. -/
  | rtcResume
  /-- R723: A warm device reset sends its notice, holds the logic die for 10 µs and then boots. -/
  | warmResetStart
  /-- R723: The power die receives the warm-reset notice, applies the safe state and sets WARM. -/
  | warmResetNotice
  /-- R724: A valid D2D frame is received, acknowledged and applied in order. -/
  | d2dFrame (f : D2dFrame)
  /-- R724: A data frame not acknowledged within 2 µs is resent, or, after the last attempt, the sender falls silent. -/
  | d2dResendTimeout (arrives : Bool)
  /-- R27: The power die receives no valid frame for 20 µs, declares the link lost and applies the safe state. -/
  | d2dLinkLostPd
  /-- R725: The logic die declares the link lost, raises source 192 and audits unacknowledged writes. -/
  | d2dLinkLost
  /-- R726: After 10 µs of silence, or 1 ms after a failed attempt, the logic die starts a training attempt. -/
  | d2dTrainingStart
  /-- R726: A training attempt fails its time bounds. -/
  | d2dTrainingFail
  /-- R727: The link check passes, the link comes up, and recovery runs its steps. -/
  | d2dLinkCheckPass
  /-- R728: No training success within 100 ms of the loss starts a warm reset with cause D2D. -/
  | d2dNoRecovery
  /-- R731: A supply below its warning threshold sets AON_SUP_EVT, raises source 197 and flushes the log. -/
  | supplyWarning (i : Fin 4) (mV : Nat)
  /-- R732: A main supply below its reset threshold puts its die into power-on reset. -/
  | supplyReset (supply : Fin 3)
  /-- R730: A die leaves power-on reset 2 ms after its supplies recover and its clocks are ready. -/
  | powerOnResetRelease (logic : Bool) (tcrit : Fin 8)
  /-- R735: The always-on domain powers up after losing its contents, with every register at reset and POWER_LOST set. -/
  | aonPowerUp
  /-- R738: Removal of the backup cell stops the charger, sets BAT_GONE and raises source 196. -/
  | batteryRemoval
  /-- R737: VBAT reaching 3.1 V moves the charger from constant current to constant voltage. -/
  | chargerCvReached
  /-- R738: A tenant 0 write of 1 to BAT_GONE clears it, is audited and restarts the charger. -/
  | batGoneClear (p : Path)
  /-- R751: The last active line of a frame ends and FRAME is set. -/
  | pnlFrameEnd
  /-- R751: A line not fetched by its first active pixel repeats the previous line and is counted. -/
  | pnlUnderrun
  /-- R755: Once per second the VCOM target is set from the temperature table. -/
  | pnlVcomUpdate
  /-- R756: ON going to 1, or the end of boot with ON 1, starts the panel power-up sequence. -/
  | pnlPowerUpStart
  /-- R756: ON going to 0, a crack action or a panel reset starts the power-down sequence. -/
  | pnlPowerDownStart
  /-- R756: A timed step of a power sequence is reached, and the last one sets PWR. -/
  | pnlPseqStep
  /-- R757: A write of PNL_BLK_CTRL commits a blink rectangle's held words at the next VSYNC. -/
  | pnlBlinkCommit (p : Path) (k : Fin 8) (data : Word)
  /-- R758: Every 100 ms the crack loop resistance is measured and may latch a crack bit. -/
  | pnlCrackMeasure (ohm : Nat)
  /-- R761: A key matrix scan ends and keys that complete their debounce post entries. -/
  | pnlKeyScan (keys : BitVec 64)
  /-- R762: A write of PNL_KEYQ_POP removes the head key entry when its QSEQ matches. -/
  | pnlKeyqPop (p : Path) (data : Word)
  /-- R764: An accepted encoder transition moves its count and may post a detent step. `seen` counts the samples in a row that read
  the pair 2 A + B = ab. -/
  | pnlEncoderStep (n ab : Fin 4) (seen : Nat)
  /-- R766: A write of PNL_ACC_LVL tries a level with the keyed code, raising the level or failing. -/
  | pnlAccessTry (p : Path) (data : Word)
  /-- R766: A 900 s lockout after five failed tries ends. -/
  | pnlLockoutEnd
  /-- R767: IDLE seconds without a key or encoder entry return the access level to 0. -/
  | pnlAccessIdle
  /-- R768: A write of PNL_WR_CMD.GO makes a point write at the present level's priority and tenant. -/
  | pnlWrite (p : Path)
  /-- R768: A write of PNL_WR_CMD with REL makes a relinquish at the present level's priority. -/
  | pnlRelinquish (p : Path)
  /-- R769: A function reset of the panel runs power-down, empties the key queue and drops the access level. -/
  | pnlFuncRst (p : Path)
  /-- R769: 40 ms after a panel reset began, the remaining power-down steps are carried out at once. -/
  | pnlFuncRstForce
  /-- R284: An end contact named in CD_ENDC changes to or from its active level and stays stable for DEB, giving a contact edge that acts at once in HOLD under R290 and in PROBE under R296. -/
  | contactEdge (n first t raw : Nat) (op level : Bool)
  /-- R579: After boot, the log engine finishes initialising the eMMC and finding the newest block of each region, and LOG_STAT.STORE becomes READY, UNFORMATTED or ABSENT. -/
  | storeReady (cap : Option Nat) (card : Option (List (Nat × List Byte)))
  /-- R715: The 25 MHz reference returns and every logic-die PLL locks, setting REF_OK and letting a warm boot waiting at t0 proceed. -/
  | referenceReturn
  /-- R669: PWRCYC_N is released after its 10 ms low pulse. -/
  | pwrcycNRelease
  deriving DecidableEq, Repr

end Sys2Proof
end

