-- ==== Sys2Proof/Decode.lean ====
section
/-! DEFINITION. Decoding (R192, R193): the instruction of a Skehil core that a 32-bit word spells, and the word that spells an
instruction. The rows of the opcode table give no bits; what spells a command in a word is the encoding of R192. -/

namespace Sys2Proof

/-- The field of `n` bits at bit `lo` of a word (R192). -/
def skField (w : Word) (lo n : Nat) : Nat := w.toNat / 2 ^ lo % 2 ^ n

/-- A register field (R192). -/
def skRegAt (w : Word) (lo : Nat) : Fin 16 := ⟨skField w lo 4, Nat.mod_lt _ (by decide)⟩

/-- Format R, op 0x00 (R194). -/
def skDecodeInt (k : Fin 4) (w : Word) : Instr :=
  let rd := skRegAt w 22
  let ra := skRegAt w 18
  let rb := skRegAt w 14
  if skField w 6 8 != 0 then .illegal k .clean
  else
    match skField w 0 6 with
    | 0 => .add k .clean rd ra rb
    | 1 => .sub k .clean rd ra rb
    | 2 => .and k .clean rd ra rb
    | 3 => .ior k .clean rd ra rb
    | 4 => .eor k .clean rd ra rb
    | 5 => .andn k .clean rd ra rb
    | 6 => .shl k .clean rd ra rb
    | 7 => .shr k .clean rd ra rb
    | 8 => .asr k .clean rd ra rb
    | 9 => .ror k .clean rd ra rb
    | 10 => .cmp k .clean rd ra rb
    | 11 => .cmpu k .clean rd ra rb
    | 12 => .min k .clean rd ra rb
    | 13 => .max k .clean rd ra rb
    | 14 => .minu k .clean rd ra rb
    | 15 => .maxu k .clean rd ra rb
    | 16 => .mul k .clean rd ra rb
    | 17 => .mulhs k .clean rd ra rb
    | 18 => .mulhu k .clean rd ra rb
    | 19 => .quo k .clean rd ra rb
    | 20 => .quou k .clean rd ra rb
    | 21 => .mod k .clean rd ra rb
    | 22 => .modu k .clean rd ra rb
    | 23 => .adds k .clean rd ra rb
    | 24 => .subs k .clean rd ra rb
    | _ => .illegal k .clean

/-- Format R, op 0x08 (R196): a register field marked w0 must be 0 (R193). -/
def skDecodeFloat (k : Fin 4) (w : Word) : Instr :=
  let rd := skRegAt w 22
  let ra := skRegAt w 18
  let rb := skRegAt w 14
  if skField w 6 8 != 0 then .illegal k .clean
  else
    match skField w 0 6 with
    | 0 => .fadd k .clean rd ra rb
    | 1 => .fsub k .clean rd ra rb
    | 2 => .fmul k .clean rd ra rb
    | 3 => .fdiv k .clean rd ra rb
    | 4 => .fmin k .clean rd ra rb
    | 5 => .fmax k .clean rd ra rb
    | 6 => if rb != 0 then .illegal k .clean else .fabs k .clean rd ra
    | 7 => if rb != 0 then .illegal k .clean else .fneg k .clean rd ra
    | 8 => if rb != 0 then .illegal k .clean else .fsqrt k .clean rd ra
    | 9 => .fcmp k .clean rd ra rb
    | 10 => if rb != 0 then .illegal k .clean else .ftoi k .clean rd ra
    | 11 => if rb != 0 then .illegal k .clean else .itof k .clean rd ra
    | 12 => if rb != 0 then .illegal k .clean else .utof k .clean rd ra
    | 13 => if rb != 0 then .illegal k .clean else .fkind k .clean rd ra
    | 14 => if rb != 0 then .illegal k .clean else .frnd k .clean rd ra
    | 15 => .fscl k .clean rd ra rb
    | _ => .illegal k .clean

/-- Op 0x08, which R194 gives to SHRI in format I and R196 to the binary32 instructions in format R. A word that only one of
them allows spells that one; what a word spells that both allow the spec leaves open (log entry 134). -/
def skDecodeOp08 (k : Fin 4) (w : Word) : Instr :=
  let shift : Instr := .shri k .clean (skRegAt w 22) (skRegAt w 18) (BitVec.ofNat 18 (skField w 0 18))
  if skField w 5 13 != 0 then skDecodeFloat k w
  else if 16 ≤ skField w 0 5 || Config.op08Shift w then shift
  else skDecodeFloat k w

/-- Format X, op 0x28: the point writes (R203). Named fields that an instruction does not use (word, prio) are ignored (log entry
153). -/
def skDecodePoint (k : Fin 4) (w : Word) : Instr :=
  let rd := skRegAt w 22
  let ra := skRegAt w 18
  let rb := skRegAt w 14
  let prio := BitVec.ofNat 4 (skField w 6 4)
  match skField w 0 6 with
  | 0 => .pwr k .clean rd ra rb prio .clean
  | 1 => if rb != 0 then .illegal k .clean else .prel k .clean rd ra prio .clean
  | 2 => .psrc k .clean rd ra rb (BitVec.ofNat 4 (skField w 10 4)) prio .clean
  | 3 => .pwrr k .clean rd ra rb prio
  | _ => .illegal k .clean

/-- Format X, op 0x30: the LX operations (R207). Named fields that an instruction does not use are ignored (log entry 153). -/
def skDecodeLx (k : Fin 4) (w : Word) : Instr :=
  let rd := skRegAt w 22
  let ra := skRegAt w 18
  let rb := skRegAt w 14
  let word := BitVec.ofNat 4 (skField w 10 4)
  let prio := BitVec.ofNat 4 (skField w 6 4)
  match skField w 0 6 with
  | 0x00 => if rb != 0 then .illegal k .clean else .lxrr k .clean rd ra word
  | 0x01 => if rb != 0 then .illegal k .clean else .lxrs k .clean rd ra word
  | 0x10 => if rd != 0 then .illegal k .clean else .lxwr k .clean ra rb word
  | 0x11 => if rd != 0 then .illegal k .clean else .lxsw k .clean ra rb
  | 0x12 => if rd != 0 || ra != 0 then .illegal k .clean else .lxgs k .clean rb
  | 0x13 => if rd != 0 then .illegal k .clean else .lxri k .clean ra
  | 0x14 => if rd != 0 then .illegal k .clean else .lxfo k .clean ra rb prio
  | 0x15 => if rd != 0 then .illegal k .clean else .lxfr k .clean ra prio
  | 0x20 => if ra != 0 || rb != 0 then .illegal k .clean else .lxsync k .clean rd
  | _ => .illegal k .clean

/-- Format Y, op 0x3E: the control instructions (R194). imm8 is ignored where an instruction does not use it (log entry 153). -/
def skDecodeControl (k : Fin 4) (w : Word) : Instr :=
  let rd := skRegAt w 22
  let ra := skRegAt w 18
  let imm := BitVec.ofNat 8 (skField w 6 8)
  if skField w 14 4 != 0 || ra != 0 then .illegal k .clean
  else
    match skField w 0 6 with
    | 0 => if rd != 0 then .illegal k .clean else .done k .clean 0
    | 1 => if rd != 0 then .illegal k .clean else .brk k .clean
    | 2 => if rd != 0 then .illegal k .clean else .sig k .clean imm
    | 3 => .rdt k .clean rd imm 0
    | 4 => if rd != 0 then .illegal k .clean else .eret k .clean
    | 5 => .cflg k .clean rd
    | _ => .illegal k .clean

/-- The instruction a word spells for core k (R192, R193): an unassigned op or fn, a non-zero zero field, or a register field
marked w0 that is not 0 gives ILLEGAL. What else makes an instruction ILLEGAL its own meaning says. -/
def skDecode (k : Fin 4) (w : Word) : Instr :=
  let r1 := skRegAt w 22
  let r2 := skRegAt w 18
  let imm := BitVec.ofNat 18 (skField w 0 18)
  match skField w 26 6 with
  | 0x00 => skDecodeInt k w
  | 0x01 => .addi k .clean r1 r2 imm
  | 0x02 => .andi k .clean r1 r2 imm
  | 0x03 => .iori k .clean r1 r2 imm
  | 0x04 => .eori k .clean r1 r2 imm
  | 0x05 => .cmpi k .clean r1 r2 imm
  | 0x06 => .cmpui k .clean r1 r2 imm
  | 0x07 => .shli k .clean r1 r2 imm
  | 0x08 => skDecodeOp08 k w
  | 0x09 => .asri k .clean r1 r2 imm
  | 0x0A => .lhi k .clean r1 (BitVec.ofNat 22 (skField w 0 22))
  | 0x0B => .rori k .clean r1 r2 imm
  | 0x10 => .ldw k .clean r1 r2 imm .clean
  | 0x11 => .ldh k .clean r1 r2 imm .clean
  | 0x12 => .ldhu k .clean r1 r2 imm .clean
  | 0x13 => .ldb k .clean r1 r2 imm .clean
  | 0x14 => .ldbu k .clean r1 r2 imm .clean
  | 0x15 => .stw k .clean r1 r2 imm
  | 0x16 => .sth k .clean r1 r2 imm .clean
  | 0x17 => .stb k .clean r1 r2 imm .clean
  | 0x18 => .beq k .clean r1 r2 imm
  | 0x19 => .bne k .clean r1 r2 imm
  | 0x1A => if r2 != 0 then .illegal k .clean else .blz k .clean r1 imm
  | 0x1B => if r2 != 0 then .illegal k .clean else .bgez k .clean r1 imm
  | 0x1C => if r2 != 0 then .illegal k .clean else .bgz k .clean r1 imm
  | 0x1D => if r2 != 0 then .illegal k .clean else .blez k .clean r1 imm
  | 0x1E => .jmp k .clean (BitVec.ofNat 26 (skField w 0 26))
  | 0x1F => .call k .clean (BitVec.ofNat 26 (skField w 0 26))
  | 0x20 => .jind k .clean r1 r2 imm
  | 0x28 => skDecodePoint k w
  | 0x29 => .pld k .clean r1 r2 imm .clean
  | 0x30 => skDecodeLx k w
  | 0x3E => skDecodeControl k w
  | _ => .illegal k .clean

/-- The word of an op and of what stands below it (R192). -/
def skWord (op rest : Nat) : Word := BitVec.ofNat 32 (op * 2 ^ 26 + rest)

/-- Formats R and X: rd, ra, rb, and the lowest 14 bits. -/
def skWordR (op : Nat) (rd ra rb : Fin 16) (rest : Nat) : Word :=
  skWord op (rd.val * 2 ^ 22 + ra.val * 2 ^ 18 + rb.val * 2 ^ 14 + rest)

/-- Formats I, S and B: two registers and 18 bits. -/
def skWordI (op : Nat) (r1 r2 : Fin 16) (imm : BitVec 18) : Word := skWord op (r1.val * 2 ^ 22 + r2.val * 2 ^ 18 + imm.toNat)

/-- The word that spells an instruction (R192, R194, R196, R202, R203, R207); a command that is no instruction of a core has
none. -/
def skEncode : Instr → Option Word
  | .add _ _ rd ra rb => some (skWordR 0x00 rd ra rb 0)
  | .sub _ _ rd ra rb => some (skWordR 0x00 rd ra rb 1)
  | .and _ _ rd ra rb => some (skWordR 0x00 rd ra rb 2)
  | .ior _ _ rd ra rb => some (skWordR 0x00 rd ra rb 3)
  | .eor _ _ rd ra rb => some (skWordR 0x00 rd ra rb 4)
  | .andn _ _ rd ra rb => some (skWordR 0x00 rd ra rb 5)
  | .shl _ _ rd ra rb => some (skWordR 0x00 rd ra rb 6)
  | .shr _ _ rd ra rb => some (skWordR 0x00 rd ra rb 7)
  | .asr _ _ rd ra rb => some (skWordR 0x00 rd ra rb 8)
  | .ror _ _ rd ra rb => some (skWordR 0x00 rd ra rb 9)
  | .cmp _ _ rd ra rb => some (skWordR 0x00 rd ra rb 10)
  | .cmpu _ _ rd ra rb => some (skWordR 0x00 rd ra rb 11)
  | .min _ _ rd ra rb => some (skWordR 0x00 rd ra rb 12)
  | .max _ _ rd ra rb => some (skWordR 0x00 rd ra rb 13)
  | .minu _ _ rd ra rb => some (skWordR 0x00 rd ra rb 14)
  | .maxu _ _ rd ra rb => some (skWordR 0x00 rd ra rb 15)
  | .mul _ _ rd ra rb => some (skWordR 0x00 rd ra rb 16)
  | .mulhs _ _ rd ra rb => some (skWordR 0x00 rd ra rb 17)
  | .mulhu _ _ rd ra rb => some (skWordR 0x00 rd ra rb 18)
  | .quo _ _ rd ra rb => some (skWordR 0x00 rd ra rb 19)
  | .quou _ _ rd ra rb => some (skWordR 0x00 rd ra rb 20)
  | .mod _ _ rd ra rb => some (skWordR 0x00 rd ra rb 21)
  | .modu _ _ rd ra rb => some (skWordR 0x00 rd ra rb 22)
  | .adds _ _ rd ra rb => some (skWordR 0x00 rd ra rb 23)
  | .subs _ _ rd ra rb => some (skWordR 0x00 rd ra rb 24)
  | .fadd _ _ rd ra rb => some (skWordR 0x08 rd ra rb 0)
  | .fsub _ _ rd ra rb => some (skWordR 0x08 rd ra rb 1)
  | .fmul _ _ rd ra rb => some (skWordR 0x08 rd ra rb 2)
  | .fdiv _ _ rd ra rb => some (skWordR 0x08 rd ra rb 3)
  | .fmin _ _ rd ra rb => some (skWordR 0x08 rd ra rb 4)
  | .fmax _ _ rd ra rb => some (skWordR 0x08 rd ra rb 5)
  | .fabs _ _ rd ra => some (skWordR 0x08 rd ra 0 6)
  | .fneg _ _ rd ra => some (skWordR 0x08 rd ra 0 7)
  | .fsqrt _ _ rd ra => some (skWordR 0x08 rd ra 0 8)
  | .fcmp _ _ rd ra rb => some (skWordR 0x08 rd ra rb 9)
  | .ftoi _ _ rd ra => some (skWordR 0x08 rd ra 0 10)
  | .itof _ _ rd ra => some (skWordR 0x08 rd ra 0 11)
  | .utof _ _ rd ra => some (skWordR 0x08 rd ra 0 12)
  | .fkind _ _ rd ra => some (skWordR 0x08 rd ra 0 13)
  | .frnd _ _ rd ra => some (skWordR 0x08 rd ra 0 14)
  | .fscl _ _ rd ra rb => some (skWordR 0x08 rd ra rb 15)
  | .addi _ _ rd ra imm => some (skWordI 0x01 rd ra imm)
  | .andi _ _ rd ra imm => some (skWordI 0x02 rd ra imm)
  | .iori _ _ rd ra imm => some (skWordI 0x03 rd ra imm)
  | .eori _ _ rd ra imm => some (skWordI 0x04 rd ra imm)
  | .cmpi _ _ rd ra imm => some (skWordI 0x05 rd ra imm)
  | .cmpui _ _ rd ra imm => some (skWordI 0x06 rd ra imm)
  | .shli _ _ rd ra imm => some (skWordI 0x07 rd ra imm)
  | .shri _ _ rd ra imm => some (skWordI 0x08 rd ra imm)
  | .asri _ _ rd ra imm => some (skWordI 0x09 rd ra imm)
  | .rori _ _ rd ra imm => some (skWordI 0x0B rd ra imm)
  | .jind _ _ rd ra imm => some (skWordI 0x20 rd ra imm)
  | .ldw _ _ rd ra imm _ => some (skWordI 0x10 rd ra imm)
  | .ldh _ _ rd ra imm _ => some (skWordI 0x11 rd ra imm)
  | .ldhu _ _ rd ra imm _ => some (skWordI 0x12 rd ra imm)
  | .ldb _ _ rd ra imm _ => some (skWordI 0x13 rd ra imm)
  | .ldbu _ _ rd ra imm _ => some (skWordI 0x14 rd ra imm)
  | .stw _ _ rs ra imm => some (skWordI 0x15 rs ra imm)
  | .sth _ _ rs ra imm _ => some (skWordI 0x16 rs ra imm)
  | .stb _ _ rs ra imm _ => some (skWordI 0x17 rs ra imm)
  | .beq _ _ ra rb off => some (skWordI 0x18 ra rb off)
  | .bne _ _ ra rb off => some (skWordI 0x19 ra rb off)
  | .blz _ _ ra off => some (skWordI 0x1A ra 0 off)
  | .bgez _ _ ra off => some (skWordI 0x1B ra 0 off)
  | .bgz _ _ ra off => some (skWordI 0x1C ra 0 off)
  | .blez _ _ ra off => some (skWordI 0x1D ra 0 off)
  | .lhi _ _ rd imm => some (skWord 0x0A (rd.val * 2 ^ 22 + imm.toNat))
  | .jmp _ _ off => some (skWord 0x1E off.toNat)
  | .call _ _ off => some (skWord 0x1F off.toNat)
  | .pld _ _ rd ra imm _ => some (skWordI 0x29 rd ra imm)
  | .pwr _ _ rd ra rb prio _ => some (skWordR 0x28 rd ra rb (prio.toNat * 2 ^ 6))
  | .prel _ _ rd ra prio _ => some (skWordR 0x28 rd ra 0 (prio.toNat * 2 ^ 6 + 1))
  | .psrc _ _ rd ra rb word prio _ => some (skWordR 0x28 rd ra rb (word.toNat * 2 ^ 10 + prio.toNat * 2 ^ 6 + 2))
  | .pwrr _ _ rd ra rb prio => some (skWordR 0x28 rd ra rb (prio.toNat * 2 ^ 6 + 3))
  | .lxrr _ _ rd ra word => some (skWordR 0x30 rd ra 0 (word.toNat * 2 ^ 10))
  | .lxrs _ _ rd ra word => some (skWordR 0x30 rd ra 0 (word.toNat * 2 ^ 10 + 0x01))
  | .lxwr _ _ ra rb word => some (skWordR 0x30 0 ra rb (word.toNat * 2 ^ 10 + 0x10))
  | .lxsw _ _ ra rb => some (skWordR 0x30 0 ra rb 0x11)
  | .lxgs _ _ rb => some (skWordR 0x30 0 0 rb 0x12)
  | .lxri _ _ ra => some (skWordR 0x30 0 ra 0 0x13)
  | .lxfo _ _ ra rb prio => some (skWordR 0x30 0 ra rb (prio.toNat * 2 ^ 6 + 0x14))
  | .lxfr _ _ ra prio => some (skWordR 0x30 0 ra 0 (prio.toNat * 2 ^ 6 + 0x15))
  | .lxsync _ _ rd => some (skWordR 0x30 rd 0 0 0x20)
  | .done _ _ _ => some (skWordR 0x3E 0 0 0 0)
  | .brk _ _ => some (skWordR 0x3E 0 0 0 1)
  | .sig _ _ imm => some (skWordR 0x3E 0 0 0 (imm.toNat * 2 ^ 6 + 2))
  | .rdt _ _ rd imm _ => some (skWordR 0x3E rd 0 0 (imm.toNat * 2 ^ 6 + 3))
  | .eret _ _ => some (skWordR 0x3E 0 0 0 4)
  | .cflg _ _ rd => some (skWordR 0x3E rd 0 0 5)
  | _ => none

/-- The command that a word spells. The rows of the opcode table give no bits; a 32-bit word is an instruction of R192, for core
SK1 (log entry 124). -/
def decodeTableWord (nbits w : Nat) : Option Instr := if nbits = 32 then some (skDecode 1 (BitVec.ofNat 32 w)) else none

end Sys2Proof
end

