-- ==== Sys2Proof/Machine/Tab.lean ====
section
/-! DEFINITION. Sparse tables: lists of (key, value) pairs in one canonical form (keys strictly rising, no entry equal to
what an unlisted key reads as), and the fields of a word. The register space and every per-index state is such a table. -/

namespace Sys2Proof.Machine

/-- A sparse table. What an unlisted key reads as is the argument `d` of the operations. -/
abbrev Tab (α : Type) := List (Nat × α)

/-- The value at key k. -/
def Tab.get {α : Type} (d : Nat → α) : Tab α → Nat → α
  | [], k => d k
  | (k', v) :: t, k => if k = k' then v else Tab.get d t k

/-- Put an entry at its place. -/
def Tab.put {α : Type} (k : Nat) (v : α) : Tab α → Tab α
  | [] => [(k, v)]
  | (k', v') :: t =>
    if k < k' then (k, v) :: (k', v') :: t
    else if k = k' then (k, v) :: t
    else (k', v') :: Tab.put k v t

/-- Remove the entry of a key. -/
def Tab.del {α : Type} (k : Nat) (t : Tab α) : Tab α := t.filter (fun e => e.1 ≠ k)

/-- Write a value: writing what an unlisted key reads as removes the entry. -/
def Tab.set {α : Type} [DecidableEq α] (d : Nat → α) (t : Tab α) (k : Nat) (v : α) : Tab α :=
  if v = d k then Tab.del k t else Tab.put k v t

/-- The canonical form. -/
abbrev Tab.wf {α : Type} (d : Nat → α) (t : Tab α) : Prop :=
  t.Pairwise (fun a b => a.1 < b.1) ∧ ∀ e ∈ t, e.2 ≠ d e.1

/-- The bits [lo + w − 1 : lo] of a word as a number. -/
def bitsOf (x : Word) (lo w : Nat) : Nat := (x.toNat >>> lo) % 2 ^ w

/-- A word with the bits [lo + w − 1 : lo] replaced by v mod 2^w. -/
def setBits (x : Word) (lo w v : Nat) : Word :=
  Word.ofN (x.toNat - ((x.toNat >>> lo) % 2 ^ w) <<< lo + (v % 2 ^ w) <<< lo)

/-- A number of w bits read as two's complement. -/
def toSigned (w v : Nat) : Int := if v % 2 ^ w < 2 ^ (w - 1) then (v % 2 ^ w : Nat) else ((v % 2 ^ w : Nat) : Int) - (2 ^ w : Nat)

/-- The low w bits of an integer. -/
def ofSigned (w : Nat) (i : Int) : Nat := (i % ((2 ^ w : Nat) : Int)).toNat

/-- A count of w bits that saturates at all ones (R17). -/
def satAdd (w a b : Nat) : Nat := Nat.min (a + b) (2 ^ w - 1)

/-- The n bytes of a number, least significant first (R10). -/
def leBytes : Nat → Nat → List Byte
  | 0, _ => []
  | n + 1, v => Byte.ofN v :: leBytes n (v / 256)

/-- The n bytes of a number, most significant first (R10, Brynum Link). -/
def beBytes (n v : Nat) : List Byte := (leBytes n v).reverse

/-- The number that bytes give, least significant first. -/
def leVal : List Byte → Nat
  | [] => 0
  | b :: t => b.toNat + 256 * leVal t

/-- Put an element at a place of a list whose missing elements read as d. -/
def putAt {α : Type} (d : α) : List α → Nat → α → List α
  | [], 0, x => [x]
  | [], n + 1, x => d :: putAt d [] n x
  | _ :: t, 0, x => x :: t
  | h :: t, n + 1, x => h :: putAt d t n x

end Sys2Proof.Machine
end

