-- ==== Sys2Proof/Machine/Float.lean ====
section
/-! DEFINITION. Binary32 arithmetic (R9, R115, R196): exact on integers, then rounded once to nearest, ties to even. -/

namespace Sys2Proof.Machine

/-- A result and the events it raises, numbered as CFLAGS of R196. -/
structure FRes where
  val : Word
  flags : Nat := 0
  deriving DecidableEq, Repr

def CF.fi : Nat := 1
def CF.fz : Nat := 2
def CF.fo : Nat := 4
def CF.fu : Nat := 8
def CF.fx : Nat := 16
def CF.iz : Nat := 32
def CF.iv : Nat := 64

/-- The one NaN the device produces (R115, R196). -/
def fNaN : Word := 0x7FC00000
def fInf (neg : Bool) : Word := if neg then 0xFF800000 else 0x7F800000
def fZero (neg : Bool) : Word := if neg then 0x80000000 else 0
def fNeg (x : Word) : Bool := x.toNat / 2 ^ 31 == 1
def fExp (x : Word) : Nat := x.toNat / 2 ^ 23 % 256
def fFrac (x : Word) : Nat := x.toNat % 2 ^ 23
def fIsNaN (x : Word) : Bool := fExp x == 255 && fFrac x != 0
def fIsSNaN (x : Word) : Bool := fIsNaN x && fFrac x < 2 ^ 22
def fIsInf (x : Word) : Bool := fExp x == 255 && fFrac x == 0
def fIsZero (x : Word) : Bool := x.toNat % 2 ^ 31 == 0
def fFinite (x : Word) : Bool := fExp x != 255
/-- A finite value is ± fSig · 2^fPow. -/
def fSig (x : Word) : Nat := if fExp x = 0 then fFrac x else fFrac x + 2 ^ 23
def fPow (x : Word) : Int := if fExp x = 0 then -149 else (fExp x : Int) - 150

/-- m / 2^k rounded to nearest, ties to even; `st` says the exact value lies above m by less than 1. -/
def rneShift (m k : Nat) (st : Bool) : Nat :=
  let q := m / 2 ^ k
  let r := m % 2 ^ k
  if k = 0 then q
  else if 2 ^ (k - 1) < r || (r == 2 ^ (k - 1) && (st || q % 2 == 1)) then q + 1 else q

/-- The bit length of a number. -/
def bitLen (m : Nat) : Nat := if m = 0 then 0 else Nat.log2 m + 1

/-- The binary32 word of mantissa m < 2^24 at exponent q ≥ −149, in range. -/
def fWord (neg : Bool) (m : Nat) (q : Int) : Word :=
  let s := if neg then 2 ^ 31 else 0
  if m < 2 ^ 23 then Word.ofN (s + m) else Word.ofN (s + (q + 150).toNat * 2 ^ 23 + (m - 2 ^ 23))

/-- Round ± m · 2^e (a little more in magnitude when `st`) to binary32 (R9). FU marks a result tiny after rounding. -/
def fRound (neg : Bool) (m : Nat) (e : Int) (st : Bool := false) : FRes :=
  if m = 0 then ⟨fZero neg, 0⟩
  else
    let n := bitLen m
    let q := max ((n : Int) + e - 24) (-149)
    if q ≤ e then
      let m' := m * 2 ^ (e - q).toNat
      if 104 < q then ⟨fInf neg, CF.fo + CF.fx⟩ else ⟨fWord neg m' q, 0⟩
    else
      let k := (q - e).toNat
      let r := rneShift m k st
      let inexact := st || m % 2 ^ k != 0
      let r' := if r = 2 ^ 24 then 2 ^ 23 else r
      let q' := if r = 2 ^ 24 then q + 1 else q
      let tiny := decide ((n : Int) + e ≤ -126) && !(((n : Int) + e == -126) && rneShift m (n - 24) st == 2 ^ 24)
      if 104 < q' then ⟨fInf neg, CF.fo + CF.fx⟩
      else ⟨fWord neg r' q', (if inexact then CF.fx else 0) + (if inexact && tiny then CF.fu else 0)⟩

/-- The signed mantissa of a finite value at exponent e ≤ fPow x. -/
def fAt (x : Word) (e : Int) : Int :=
  let m : Int := (fSig x * 2 ^ (fPow x - e).toNat : Nat)
  if fNeg x then -m else m

def fAdd (x y : Word) : FRes :=
  if fIsNaN x || fIsNaN y then ⟨fNaN, 0⟩
  else if fIsInf x then (if fIsInf y && fNeg x != fNeg y then ⟨fNaN, CF.fi⟩ else ⟨x, 0⟩)
  else if fIsInf y then ⟨y, 0⟩
  else
    let e := min (fPow x) (fPow y)
    let v := fAt x e + fAt y e
    if v = 0 then ⟨fZero (fNeg x && fNeg y), 0⟩ else fRound (decide (v < 0)) v.natAbs e

/-- The sign bit inverted (FNEG of R196). -/
def fFlip (x : Word) : Word := x ^^^ 0x80000000

def fSub (x y : Word) : FRes := if fIsNaN y then ⟨fNaN, 0⟩ else fAdd x (fFlip y)

def fMul (x y : Word) : FRes :=
  let s := fNeg x != fNeg y
  if fIsNaN x || fIsNaN y then ⟨fNaN, 0⟩
  else if fIsInf x || fIsInf y then (if fIsZero x || fIsZero y then ⟨fNaN, CF.fi⟩ else ⟨fInf s, 0⟩)
  else fRound s (fSig x * fSig y) (fPow x + fPow y)

def fDiv (x y : Word) : FRes :=
  let s := fNeg x != fNeg y
  if fIsNaN x || fIsNaN y then ⟨fNaN, 0⟩
  else if fIsInf x then (if fIsInf y then ⟨fNaN, CF.fi⟩ else ⟨fInf s, 0⟩)
  else if fIsInf y then ⟨fZero s, 0⟩
  else if fIsZero y then (if fIsZero x then ⟨fNaN, CF.fi⟩ else ⟨fInf s, CF.fz⟩)
  else
    let n := fSig x * 2 ^ 50
    fRound s (n / fSig y) (fPow x - fPow y - 50) (n % fSig y != 0)

/-- The integer square root of n < 4^k, bit by bit. -/
def isqrt (n : Nat) : Nat → Nat → Nat
  | 0, r => r
  | k + 1, r => isqrt n k (if (r + 2 ^ k) * (r + 2 ^ k) ≤ n then r + 2 ^ k else r)

def fSqrt (x : Word) : FRes :=
  if fIsNaN x then ⟨fNaN, 0⟩
  else if fIsZero x then ⟨x, 0⟩
  else if fNeg x then ⟨fNaN, CF.fi⟩
  else if fIsInf x then ⟨x, 0⟩
  else
    let odd := fPow x % 2 != 0
    let m := (if odd then 2 * fSig x else fSig x) * 2 ^ 52
    let e := (if odd then fPow x - 1 else fPow x) - 52
    let r := isqrt m 40 0
    fRound false r (e / 2) (r * r != m)

/-- The place of a value that is not NaN in the order of the reals: the zeros are equal. -/
def fKey (x : Word) : Int := if fNeg x then -((x.toNat % 2 ^ 31 : Nat) : Int) else ((x.toNat % 2 ^ 31 : Nat) : Int)
/-- The comparisons: none holds of a NaN. -/
def fLt (x y : Word) : Bool := !fIsNaN x && !fIsNaN y && decide (fKey x < fKey y)
def fLe (x y : Word) : Bool := !fIsNaN x && !fIsNaN y && decide (fKey x ≤ fKey y)
def fEq (x y : Word) : Bool := !fIsNaN x && !fIsNaN y && fKey x == fKey y

/-- min and max of R115: the first operand when they compare equal. -/
def fMinV (x y : Word) : Word := if fLt y x then y else x
def fMaxV (x y : Word) : Word := if fLt x y then y else x

/-- FMIN and FMAX of R196. -/
def fPick (f : Word → Word → Word) (x y : Word) : FRes :=
  if fIsNaN x || fIsNaN y then ⟨fNaN, if fIsSNaN x || fIsSNaN y then CF.fi else 0⟩ else ⟨f x y, 0⟩

/-- FCMP of R196. -/
def fCmp (x y : Word) : FRes :=
  if fIsNaN x || fIsNaN y then ⟨2, if fIsSNaN x || fIsSNaN y then CF.fi else 0⟩
  else ⟨if fLt x y then 0xFFFFFFFF else if fEq x y then 0 else 1, 0⟩

/-- |x| toward zero, as a number, of a finite value; the flag says that it was not integral. -/
def fTrunc (x : Word) : Nat × Bool :=
  if 0 ≤ fPow x then (fSig x * 2 ^ (fPow x).toNat, false)
  else (fSig x / 2 ^ (-(fPow x)).toNat, fSig x % 2 ^ (-(fPow x)).toNat != 0)

/-- FTOI of R196. -/
def fToI (x : Word) : FRes :=
  if fIsNaN x then ⟨0, CF.fi⟩
  else if fIsInf x then ⟨if fNeg x then 0x80000000 else 0x7FFFFFFF, CF.fi⟩
  else
    let t := fTrunc x
    let fx := if t.2 then CF.fx else 0
    if fNeg x then
      if 2 ^ 31 < t.1 || (t.1 == 2 ^ 31 && t.2) then ⟨0x80000000, CF.fi⟩ else ⟨Word.ofN (2 ^ 32 - t.1), fx⟩
    else if 2 ^ 31 ≤ t.1 then ⟨0x7FFFFFFF, CF.fi⟩ else ⟨Word.ofN t.1, fx⟩

/-- Convert an integer (ITOF and UTOF of R196). -/
def fOfInt (i : Int) : FRes := fRound (decide (i < 0)) i.natAbs 0

/-- Convert a number. -/
def fOfNat (n : Nat) : Word := (fRound false n 0).val

/-- n / d as binary32, rounded once; d is not 0. -/
def fOfRat (i : Int) (d : Nat) : Word :=
  let n := i.natAbs * 2 ^ 256
  (fRound (decide (i < 0)) (n / d) (-256) (n % d != 0)).val

/-- FKIND of R196. -/
def fKind (x : Word) : Word :=
  let k := if fIsNaN x then (if fIsSNaN x then 5 else 4) else if fIsInf x then 3
    else if fIsZero x then 0 else if fExp x = 0 then 1 else 2
  Word.ofN (k + 8 * b2n (fNeg x))

/-- FRND of R196. -/
def fRnd (x : Word) : FRes :=
  if fIsNaN x then ⟨fNaN, if fIsSNaN x then CF.fi else 0⟩
  else if fIsInf x || 0 ≤ fPow x then ⟨x, 0⟩
  else
    let k := (-(fPow x)).toNat
    let r := (fRound (fNeg x) (rneShift (fSig x) k false) 0).val
    ⟨r, if fSig x % 2 ^ k != 0 then CF.fx else 0⟩

/-- FSCL of R196. -/
def fScl (x : Word) (n : Int) : FRes :=
  if fIsNaN x then ⟨fNaN, if fIsSNaN x then CF.fi else 0⟩
  else if fIsInf x then ⟨x, 0⟩
  else fRound (fNeg x) (fSig x) (fPow x + max (-300) (min 300 n))

/-- A finite value times num/den, rounded to the nearest integer, ties to even: what a block that works in integers takes
of a command. -/
def fScaled (x : Word) (num den : Nat) : Int :=
  let n := fSig x * num * (if 0 ≤ fPow x then 2 ^ (fPow x).toNat else 1)
  let d := den * (if 0 ≤ fPow x then 1 else 2 ^ (-(fPow x)).toNat)
  let q := n / d
  let r := n % d
  let v : Int := (if d < 2 * r || (2 * r == d && q % 2 == 1) then q + 1 else q : Nat)
  if fNeg x then -v else v

/-- A finite value times num/den, cut toward zero: what a register reports in its unit. -/
def fCut (x : Word) (num den : Nat) : Int :=
  let n := fSig x * num * (if 0 ≤ fPow x then 2 ^ (fPow x).toNat else 1)
  let d := den * (if 0 ≤ fPow x then 1 else 2 ^ (-(fPow x)).toNat)
  if fNeg x then -((n / d : Nat) : Int) else ((n / d : Nat) : Int)

/-- |a − b| ≥ band for the change test of R88, with the subtraction under R9. -/
def fChanged (a b band : Word) : Bool :=
  if a = b || (fIsZero a && fIsZero b) then false
  else if !fFinite a || !fFinite b then true
  else fLe band ((fSub a b).val &&& 0x7FFFFFFF)

end Sys2Proof.Machine
end

