-- ==== Sys2Proof/Machine/Regs.lean ====
section
/-! DEFINITION. The registers of the register space (R13 to R15, R44): each register's place, each field's place, access
code (R14) and range (R820), written from the register tables of the chapters, one row a register. -/

namespace Sys2Proof.Machine

/-- The access codes of R14. -/
inductive Acc where
  | ro | rw | w1c | w1s | wo | rcl
  deriving DecidableEq, Repr

/-- The range a Description gives a field (R820). Ranges that tie several fields are judged by the register's own rule. -/
inductive Chk where
  | any
  | range (lo hi : Nat)
  | signed (lo hi : Int)
  | codes (l : List Nat)
  | mult (n : Nat)
  | finiteNonneg
  | frange (lo hi : Nat)
  deriving DecidableEq, Repr

/-- A register, or an array of n1 × n2 registers at the strides s1 and s2. -/
structure Reg where
  base : Nat
  n1 : Nat
  s1 : Nat
  n2 : Nat
  s2 : Nat
  deriving DecidableEq, Repr

/-- The address of instance (i, j). -/
def Reg.at (r : Reg) (i : Nat := 0) (j : Nat := 0) : Nat := r.base + r.s1 * i + r.s2 * j

/-- The first index of an address of the array. -/
def Reg.idx (r : Reg) (a : Nat) : Nat := if r.s1 = 0 then 0 else (a - r.base) / r.s1

/-- The second index of an address of the array. -/
def Reg.idx2 (r : Reg) (a : Nat) : Nat := if r.s2 = 0 then 0 else (a - r.base) % r.s1 / r.s2

/-- Is the address one of the array's? -/
def Reg.hit (r : Reg) (a : Nat) : Bool :=
  r.base ≤ a && (r.idx a < r.n1) && (r.idx2 a < r.n2) && (r.at (r.idx a) (r.idx2 a) == a)

/-- A field: its register, lowest bit, width, access code and range. -/
structure Fld where
  reg : Reg
  lo : Nat
  w : Nat
  acc : Acc
  chk : Chk
  deriving DecidableEq, Repr

/-- R47 (01_architecture.md). -/
def R.SYS_ID : Reg := ⟨0x0, 1, 0, 1, 0⟩
def F.SYS_ID_STEP_MINOR : Fld := ⟨R.SYS_ID, 0, 8, .ro, .any⟩
def F.SYS_ID_STEP_MAJOR : Fld := ⟨R.SYS_ID, 8, 8, .ro, .any⟩
def F.SYS_ID_PART : Fld := ⟨R.SYS_ID, 16, 16, .ro, .any⟩
/-- R48 (01_architecture.md). -/
def R.SYS_STRAPS : Reg := ⟨0x4, 1, 0, 1, 0⟩
def F.SYS_STRAPS_MEMBER : Fld := ⟨R.SYS_STRAPS, 0, 5, .ro, .any⟩
def F.SYS_STRAPS_ISLAND : Fld := ⟨R.SYS_STRAPS, 5, 5, .ro, .any⟩
def F.SYS_STRAPS_TCRIT : Fld := ⟨R.SYS_STRAPS, 10, 3, .ro, .any⟩
def F.SYS_STRAPS_BOOTSEL : Fld := ⟨R.SYS_STRAPS, 13, 2, .ro, .any⟩
def F.SYS_STRAPS_HOSTMODE : Fld := ⟨R.SYS_STRAPS, 15, 2, .ro, .any⟩
def F.SYS_STRAPS_MASTERPRI : Fld := ⟨R.SYS_STRAPS, 17, 2, .ro, .any⟩
/-- R49 (01_architecture.md). -/
def R.SYS_ROLE : Reg := ⟨0x8, 1, 0, 1, 0⟩
def F.SYS_ROLE_ISLAND_MASTER : Fld := ⟨R.SYS_ROLE, 0, 1, .ro, .any⟩
def F.SYS_ROLE_CAMPUS_MASTER : Fld := ⟨R.SYS_ROLE, 1, 1, .ro, .any⟩
def F.SYS_ROLE_RING_CLOSED : Fld := ⟨R.SYS_ROLE, 2, 1, .ro, .any⟩
/-- R50 (01_architecture.md). -/
def R.SYS_D2D_STAT : Reg := ⟨0xC, 1, 0, 1, 0⟩
def F.SYS_D2D_STAT_LINK_UP : Fld := ⟨R.SYS_D2D_STAT, 0, 1, .ro, .any⟩
def F.SYS_D2D_STAT_LOST : Fld := ⟨R.SYS_D2D_STAT, 1, 1, .w1c, .any⟩
def F.SYS_D2D_STAT_LOSS_COUNT : Fld := ⟨R.SYS_D2D_STAT, 8, 8, .ro, .any⟩
/-- R51 (01_architecture.md). -/
def R.SYS_D2D_DROP : Reg := ⟨0x10, 1, 0, 1, 0⟩
def F.SYS_D2D_DROP_WRITES : Fld := ⟨R.SYS_D2D_DROP, 0, 16, .rcl, .any⟩
def F.SYS_D2D_DROP_READS : Fld := ⟨R.SYS_D2D_DROP, 16, 16, .rcl, .any⟩
/-- R52 (01_architecture.md). -/
def R.SYS_UNMAPPED : Reg := ⟨0x14, 1, 0, 1, 0⟩
def F.SYS_UNMAPPED_ADDR : Fld := ⟨R.SYS_UNMAPPED, 0, 24, .ro, .any⟩
def F.SYS_UNMAPPED_VALID : Fld := ⟨R.SYS_UNMAPPED, 24, 1, .w1c, .any⟩
def F.SYS_UNMAPPED_WRITE : Fld := ⟨R.SYS_UNMAPPED, 25, 1, .ro, .any⟩
/-- R53 (01_architecture.md). -/
def R.AON_SAFE_STAT : Reg := ⟨0x420100, 1, 0, 1, 0⟩
def F.AON_SAFE_STAT_D2D : Fld := ⟨R.AON_SAFE_STAT, 0, 1, .w1c, .any⟩
def F.AON_SAFE_STAT_GUARD : Fld := ⟨R.AON_SAFE_STAT, 1, 1, .w1c, .any⟩
def F.AON_SAFE_STAT_WARM : Fld := ⟨R.AON_SAFE_STAT, 2, 1, .w1c, .any⟩
def F.AON_SAFE_STAT_LEFAULT : Fld := ⟨R.AON_SAFE_STAT, 3, 1, .w1c, .any⟩
def F.AON_SAFE_STAT_ENTRY_CHECK : Fld := ⟨R.AON_SAFE_STAT, 4, 1, .w1c, .any⟩
def F.AON_SAFE_STAT_ACTIVE : Fld := ⟨R.AON_SAFE_STAT, 8, 1, .ro, .any⟩
/-- R54 (01_architecture.md). -/
def R.AON_SAFE_TIME_LO : Reg := ⟨0x420108, 1, 0, 1, 0⟩
def F.AON_SAFE_TIME_LO_TIME : Fld := ⟨R.AON_SAFE_TIME_LO, 0, 32, .ro, .any⟩
/-- R54 (01_architecture.md). -/
def R.AON_SAFE_TIME_HI : Reg := ⟨0x42010C, 1, 0, 1, 0⟩
def F.AON_SAFE_TIME_HI_TIME : Fld := ⟨R.AON_SAFE_TIME_HI, 0, 32, .ro, .any⟩
/-- R55 (01_architecture.md). -/
def R.AON_SAFE_REL : Reg := ⟨0x420104, 1, 0, 1, 0⟩
def F.AON_SAFE_REL_COIL : Fld := ⟨R.AON_SAFE_REL, 0, 1, .wo, .any⟩
def F.AON_SAFE_REL_FAN : Fld := ⟨R.AON_SAFE_REL, 1, 1, .wo, .any⟩
def F.AON_SAFE_REL_AO : Fld := ⟨R.AON_SAFE_REL, 2, 1, .wo, .any⟩
def F.AON_SAFE_REL_DO : Fld := ⟨R.AON_SAFE_REL, 3, 1, .wo, .any⟩
def F.AON_SAFE_REL_ZBPWR : Fld := ⟨R.AON_SAFE_REL, 4, 1, .wo, .any⟩
def F.AON_SAFE_REL_ALL : Fld := ⟨R.AON_SAFE_REL, 8, 1, .wo, .any⟩
/-- R60 (02_point_space.md). -/
def R.PT_VALUE : Reg := ⟨0x80000, 32768, 16, 1, 0⟩
def F.PT_VALUE_VALUE : Fld := ⟨R.PT_VALUE, 0, 32, .rw, .any⟩
/-- R61 (02_point_space.md). -/
def R.PT_STATUS : Reg := ⟨0x80004, 32768, 16, 1, 0⟩
def F.PT_STATUS_QUAL : Fld := ⟨R.PT_STATUS, 0, 3, .ro, .any⟩
def F.PT_STATUS_SRCFORCED : Fld := ⟨R.PT_STATUS, 3, 1, .ro, .any⟩
def F.PT_STATUS_HP : Fld := ⟨R.PT_STATUS, 4, 4, .ro, .any⟩
def F.PT_STATUS_HOLDER : Fld := ⟨R.PT_STATUS, 8, 8, .ro, .any⟩
def F.PT_STATUS_AGE : Fld := ⟨R.PT_STATUS, 16, 16, .ro, .any⟩
/-- R62 (02_point_space.md). -/
def R.PT_CONFIG : Reg := ⟨0x80008, 32768, 16, 1, 0⟩
def F.PT_CONFIG_TENANT : Fld := ⟨R.PT_CONFIG, 0, 8, .rw, .any⟩
def F.PT_CONFIG_PROFILE : Fld := ⟨R.PT_CONFIG, 8, 8, .rw, .any⟩
def F.PT_CONFIG_ZONE : Fld := ⟨R.PT_CONFIG, 16, 9, .rw, .any⟩
def F.PT_CONFIG_INZONE : Fld := ⟨R.PT_CONFIG, 25, 1, .rw, .any⟩
/-- R63 (02_point_space.md). -/
def R.PT_BIND : Reg := ⟨0x8000C, 32768, 16, 1, 0⟩
def F.PT_BIND_REF : Fld := ⟨R.PT_BIND, 0, 28, .rw, .any⟩
def F.PT_BIND_KIND : Fld := ⟨R.PT_BIND, 28, 4, .rw, .any⟩
/-- R86 (02_point_space.md). -/
def R.SYS_PT_PROF_AGE : Reg := ⟨0x1000, 256, 16, 1, 0⟩
def F.SYS_PT_PROF_AGE_AGE_MAX : Fld := ⟨R.SYS_PT_PROF_AGE, 0, 16, .rw, .any⟩
def F.SYS_PT_PROF_AGE_MODE : Fld := ⟨R.SYS_PT_PROF_AGE, 16, 2, .rw, .range 0 2⟩
/-- R86 (02_point_space.md). -/
def R.SYS_PT_PROF_DB : Reg := ⟨0x1004, 256, 16, 1, 0⟩
def F.SYS_PT_PROF_DB_DEADBAND : Fld := ⟨R.SYS_PT_PROF_DB, 0, 32, .rw, .finiteNonneg⟩
/-- R86 (02_point_space.md). -/
def R.SYS_PT_PROF_PER : Reg := ⟨0x1008, 256, 16, 1, 0⟩
def F.SYS_PT_PROF_PER_MIN_PERIOD : Fld := ⟨R.SYS_PT_PROF_PER, 0, 16, .rw, .any⟩
def F.SYS_PT_PROF_PER_MAX_PERIOD : Fld := ⟨R.SYS_PT_PROF_PER, 16, 16, .rw, .any⟩
/-- R91 (02_point_space.md). -/
def R.SYS_ZONE_CFG : Reg := ⟨0x2000, 512, 8, 1, 0⟩
def F.SYS_ZONE_CFG_TENANT : Fld := ⟨R.SYS_ZONE_CFG, 0, 8, .rw, .any⟩
def F.SYS_ZONE_CFG_ENABLED : Fld := ⟨R.SYS_ZONE_CFG, 8, 1, .rw, .any⟩
/-- R91 (02_point_space.md). -/
def R.SYS_ZONE_SUM : Reg := ⟨0x2004, 512, 8, 1, 0⟩
def F.SYS_ZONE_SUM_NOTGOOD : Fld := ⟨R.SYS_ZONE_SUM, 0, 16, .ro, .any⟩
def F.SYS_ZONE_SUM_FORCED : Fld := ⟨R.SYS_ZONE_SUM, 16, 16, .ro, .any⟩
/-- R97 (02_point_space.md). -/
def R.SYS_PT_ECC : Reg := ⟨0x200, 1, 0, 1, 0⟩
def F.SYS_PT_ECC_SBE : Fld := ⟨R.SYS_PT_ECC, 0, 16, .rcl, .any⟩
def F.SYS_PT_ECC_DBE : Fld := ⟨R.SYS_PT_ECC, 16, 16, .rcl, .any⟩
/-- R98 (02_point_space.md). -/
def R.SYS_PT_DBE_LAST : Reg := ⟨0x204, 1, 0, 1, 0⟩
def F.SYS_PT_DBE_LAST_INDEX : Fld := ⟨R.SYS_PT_DBE_LAST, 0, 15, .ro, .any⟩
def F.SYS_PT_DBE_LAST_VALID : Fld := ⟨R.SYS_PT_DBE_LAST, 15, 1, .w1c, .any⟩
def F.SYS_PT_DBE_LAST_WORD : Fld := ⟨R.SYS_PT_DBE_LAST, 16, 2, .ro, .any⟩
/-- R99 (02_point_space.md). -/
def R.SYS_PT_REFUSED : Reg := ⟨0x208, 1, 0, 1, 0⟩
def F.SYS_PT_REFUSED_SOURCE : Fld := ⟨R.SYS_PT_REFUSED, 0, 16, .rcl, .any⟩
def F.SYS_PT_REFUSED_HELD : Fld := ⟨R.SYS_PT_REFUSED, 16, 16, .rcl, .any⟩
/-- R100 (02_point_space.md). -/
def R.SYS_PT_REL : Reg := ⟨0x20C, 1, 0, 1, 0⟩
def F.SYS_PT_REL_INDEX : Fld := ⟨R.SYS_PT_REL, 0, 15, .wo, .any⟩
def F.SYS_PT_REL_PRIO : Fld := ⟨R.SYS_PT_REL, 16, 4, .wo, .any⟩
/-- R117 (03_loop_law.md). -/
def R.LE_REC_CTRL : Reg := ⟨0x100000, 8192, 64, 1, 0⟩
def F.LE_REC_CTRL_TENANT : Fld := ⟨R.LE_REC_CTRL, 0, 8, .rw, .any⟩
def F.LE_REC_CTRL_ZONE : Fld := ⟨R.LE_REC_CTRL, 10, 9, .rw, .any⟩
def F.LE_REC_CTRL_INZONE : Fld := ⟨R.LE_REC_CTRL, 19, 1, .rw, .any⟩
def F.LE_REC_CTRL_SWGRP : Fld := ⟨R.LE_REC_CTRL, 20, 6, .rw, .any⟩
def F.LE_REC_CTRL_SWG_EN : Fld := ⟨R.LE_REC_CTRL, 26, 1, .rw, .any⟩
def F.LE_REC_CTRL_BANK : Fld := ⟨R.LE_REC_CTRL, 27, 1, .ro, .any⟩
def F.LE_REC_CTRL_BUMP : Fld := ⟨R.LE_REC_CTRL, 28, 1, .rw, .any⟩
def F.LE_REC_CTRL_TRACK : Fld := ⟨R.LE_REC_CTRL, 29, 1, .rw, .any⟩
def F.LE_REC_CTRL_SIGN : Fld := ⟨R.LE_REC_CTRL, 30, 1, .rw, .any⟩
def F.LE_REC_CTRL_EN : Fld := ⟨R.LE_REC_CTRL, 31, 1, .rw, .any⟩
/-- R118 (03_loop_law.md). -/
def R.LE_REC_PTS : Reg := ⟨0x100004, 8192, 64, 1, 0⟩
def F.LE_REC_PTS_PV : Fld := ⟨R.LE_REC_PTS, 0, 15, .rw, .any⟩
def F.LE_REC_PTS_SP : Fld := ⟨R.LE_REC_PTS, 16, 15, .rw, .any⟩
/-- R119 (03_loop_law.md). -/
def R.LE_REC_OUT : Reg := ⟨0x100008, 8192, 64, 1, 0⟩
def F.LE_REC_OUT_OUT : Fld := ⟨R.LE_REC_OUT, 0, 15, .rw, .any⟩
def F.LE_REC_OUT_AGE_MAX : Fld := ⟨R.LE_REC_OUT, 16, 16, .rw, .any⟩
/-- R120 (03_loop_law.md). -/
def R.LE_REC_TIME : Reg := ⟨0x10000C, 8192, 64, 1, 0⟩
def F.LE_REC_TIME_PERIOD : Fld := ⟨R.LE_REC_TIME, 0, 16, .rw, .range 1 65535⟩
def F.LE_REC_TIME_PHASE : Fld := ⟨R.LE_REC_TIME, 16, 16, .rw, .any⟩
/-- R121 (03_loop_law.md). -/
def R.LE_REC_SUP : Reg := ⟨0x100010, 8192, 64, 1, 0⟩
def F.LE_REC_SUP_DEADLINE : Fld := ⟨R.LE_REC_SUP, 0, 16, .rw, .any⟩
def F.LE_REC_SUP_FE_TIME : Fld := ⟨R.LE_REC_SUP, 16, 16, .rw, .any⟩
/-- R122 (03_loop_law.md). -/
def R.LE_REC_OMIN : Reg := ⟨0x100014, 8192, 64, 1, 0⟩
def F.LE_REC_OMIN_OUT_MIN : Fld := ⟨R.LE_REC_OMIN, 0, 32, .rw, .any⟩
/-- R123 (03_loop_law.md). -/
def R.LE_REC_OMAX : Reg := ⟨0x100018, 8192, 64, 1, 0⟩
def F.LE_REC_OMAX_OUT_MAX : Fld := ⟨R.LE_REC_OMAX, 0, 32, .rw, .any⟩
/-- R124 (03_loop_law.md). -/
def R.LE_REC_RATE : Reg := ⟨0x10001C, 8192, 64, 1, 0⟩
def F.LE_REC_RATE_RATE : Fld := ⟨R.LE_REC_RATE, 0, 32, .rw, .any⟩
/-- R125 (03_loop_law.md). -/
def R.LE_REC_FEL : Reg := ⟨0x100020, 8192, 64, 1, 0⟩
def F.LE_REC_FEL_FE_LIMIT : Fld := ⟨R.LE_REC_FEL, 0, 32, .rw, .any⟩
/-- R126 (03_loop_law.md). -/
def R.LE_REC_AKP : Reg := ⟨0x100024, 8192, 64, 1, 0⟩
def F.LE_REC_AKP_KP_A : Fld := ⟨R.LE_REC_AKP, 0, 32, .rw, .any⟩
/-- R127 (03_loop_law.md). -/
def R.LE_REC_AKI : Reg := ⟨0x100028, 8192, 64, 1, 0⟩
def F.LE_REC_AKI_KI_A : Fld := ⟨R.LE_REC_AKI, 0, 32, .rw, .any⟩
/-- R128 (03_loop_law.md). -/
def R.LE_REC_AKD : Reg := ⟨0x10002C, 8192, 64, 1, 0⟩
def F.LE_REC_AKD_KD_A : Fld := ⟨R.LE_REC_AKD, 0, 32, .rw, .any⟩
/-- R129 (03_loop_law.md). -/
def R.LE_REC_BKP : Reg := ⟨0x100030, 8192, 64, 1, 0⟩
def F.LE_REC_BKP_KP_B : Fld := ⟨R.LE_REC_BKP, 0, 32, .rw, .any⟩
/-- R130 (03_loop_law.md). -/
def R.LE_REC_BKI : Reg := ⟨0x100034, 8192, 64, 1, 0⟩
def F.LE_REC_BKI_KI_B : Fld := ⟨R.LE_REC_BKI, 0, 32, .rw, .any⟩
/-- R131 (03_loop_law.md). -/
def R.LE_REC_BKD : Reg := ⟨0x100038, 8192, 64, 1, 0⟩
def F.LE_REC_BKD_KD_B : Fld := ⟨R.LE_REC_BKD, 0, 32, .rw, .any⟩
/-- R132 (03_loop_law.md). -/
def R.LE_REC_SHAPE : Reg := ⟨0x10003C, 8192, 64, 1, 0⟩
def F.LE_REC_SHAPE_BW_A : Fld := ⟨R.LE_REC_SHAPE, 0, 8, .rw, .any⟩
def F.LE_REC_SHAPE_DF_A : Fld := ⟨R.LE_REC_SHAPE, 8, 8, .rw, .any⟩
def F.LE_REC_SHAPE_BW_B : Fld := ⟨R.LE_REC_SHAPE, 16, 8, .rw, .any⟩
def F.LE_REC_SHAPE_DF_B : Fld := ⟨R.LE_REC_SHAPE, 24, 8, .rw, .any⟩
/-- R142 (03_loop_law.md). -/
def R.LE_LS_STAT : Reg := ⟨0x180100, 1, 0, 1, 0⟩
def F.LE_LS_STAT_FAULT_LOOP : Fld := ⟨R.LE_LS_STAT, 0, 13, .ro, .any⟩
def F.LE_LS_STAT_SAFE : Fld := ⟨R.LE_LS_STAT, 29, 1, .ro, .any⟩
def F.LE_LS_STAT_TIMER : Fld := ⟨R.LE_LS_STAT, 30, 1, .ro, .any⟩
def F.LE_LS_STAT_FAULT : Fld := ⟨R.LE_LS_STAT, 31, 1, .ro, .any⟩
/-- R143 (03_loop_law.md). -/
def R.LE_LS_RETRY : Reg := ⟨0x180104, 1, 0, 1, 0⟩
def F.LE_LS_RETRY_COUNT : Fld := ⟨R.LE_LS_RETRY, 0, 16, .rcl, .any⟩
/-- R144 (03_loop_law.md). -/
def R.LE_LS_LAST : Reg := ⟨0x180108, 1, 0, 1, 0⟩
def F.LE_LS_LAST_LOOP : Fld := ⟨R.LE_LS_LAST, 0, 13, .ro, .any⟩
def F.LE_LS_LAST_VALID : Fld := ⟨R.LE_LS_LAST, 13, 1, .w1c, .any⟩
def F.LE_LS_LAST_PART : Fld := ⟨R.LE_LS_LAST, 16, 2, .ro, .any⟩
/-- R145 (03_loop_law.md). -/
def R.LE_NUM : Reg := ⟨0x18010C, 1, 0, 1, 0⟩
def F.LE_NUM_LOOP : Fld := ⟨R.LE_NUM, 0, 13, .ro, .any⟩
def F.LE_NUM_VALID : Fld := ⟨R.LE_NUM, 13, 1, .w1c, .any⟩
def F.LE_NUM_COUNT : Fld := ⟨R.LE_NUM, 16, 16, .rcl, .any⟩
/-- R146 (03_loop_law.md). -/
def R.LE_ECC : Reg := ⟨0x180110, 1, 0, 1, 0⟩
def F.LE_ECC_SBE : Fld := ⟨R.LE_ECC, 0, 16, .rcl, .any⟩
def F.LE_ECC_STATE_DBE : Fld := ⟨R.LE_ECC, 16, 8, .rcl, .any⟩
def F.LE_ECC_REC_DBE : Fld := ⟨R.LE_ECC, 24, 8, .rcl, .any⟩
/-- R147 (03_loop_law.md). -/
def R.LE_ECC_LAST : Reg := ⟨0x180114, 1, 0, 1, 0⟩
def F.LE_ECC_LAST_LOOP : Fld := ⟨R.LE_ECC_LAST, 0, 13, .ro, .any⟩
def F.LE_ECC_LAST_VALID : Fld := ⟨R.LE_ECC_LAST, 13, 1, .w1c, .any⟩
def F.LE_ECC_LAST_WORD : Fld := ⟨R.LE_ECC_LAST, 16, 4, .ro, .any⟩
def F.LE_ECC_LAST_RECORD : Fld := ⟨R.LE_ECC_LAST, 20, 1, .ro, .any⟩
/-- R148 (03_loop_law.md). -/
def R.LE_STATE_SEL : Reg := ⟨0x180120, 1, 0, 1, 0⟩
def F.LE_STATE_SEL_LOOP : Fld := ⟨R.LE_STATE_SEL, 0, 13, .rw, .any⟩
def F.LE_STATE_SEL_READY : Fld := ⟨R.LE_STATE_SEL, 16, 1, .ro, .any⟩
def F.LE_STATE_SEL_REINIT : Fld := ⟨R.LE_STATE_SEL, 31, 1, .wo, .any⟩
/-- R149 (03_loop_law.md). -/
def R.LE_STATE_I : Reg := ⟨0x180124, 1, 0, 1, 0⟩
def F.LE_STATE_I_VALUE : Fld := ⟨R.LE_STATE_I, 0, 32, .ro, .any⟩
/-- R149 (03_loop_law.md). -/
def R.LE_STATE_D : Reg := ⟨0x180128, 1, 0, 1, 0⟩
def F.LE_STATE_D_VALUE : Fld := ⟨R.LE_STATE_D, 0, 32, .ro, .any⟩
/-- R149 (03_loop_law.md). -/
def R.LE_STATE_Y : Reg := ⟨0x18012C, 1, 0, 1, 0⟩
def F.LE_STATE_Y_VALUE : Fld := ⟨R.LE_STATE_Y, 0, 32, .ro, .any⟩
/-- R149 (03_loop_law.md). -/
def R.LE_STATE_U : Reg := ⟨0x180130, 1, 0, 1, 0⟩
def F.LE_STATE_U_VALUE : Fld := ⟨R.LE_STATE_U, 0, 32, .ro, .any⟩
/-- R150 (03_loop_law.md). -/
def R.LE_STATE_FLAGS : Reg := ⟨0x180134, 1, 0, 1, 0⟩
def F.LE_STATE_FLAGS_INIT : Fld := ⟨R.LE_STATE_FLAGS, 0, 1, .ro, .any⟩
def F.LE_STATE_FLAGS_RESTART : Fld := ⟨R.LE_STATE_FLAGS, 1, 1, .ro, .any⟩
def F.LE_STATE_FLAGS_BUMP_PEND : Fld := ⟨R.LE_STATE_FLAGS, 2, 1, .ro, .any⟩
def F.LE_STATE_FLAGS_BANK_USED : Fld := ⟨R.LE_STATE_FLAGS, 3, 1, .ro, .any⟩
def F.LE_STATE_FLAGS_FROZEN : Fld := ⟨R.LE_STATE_FLAGS, 4, 1, .ro, .any⟩
def F.LE_STATE_FLAGS_LIM_HI : Fld := ⟨R.LE_STATE_FLAGS, 5, 1, .ro, .any⟩
def F.LE_STATE_FLAGS_LIM_LO : Fld := ⟨R.LE_STATE_FLAGS, 6, 1, .ro, .any⟩
def F.LE_STATE_FLAGS_RATE_LIM : Fld := ⟨R.LE_STATE_FLAGS, 7, 1, .ro, .any⟩
def F.LE_STATE_FLAGS_OUTCOME : Fld := ⟨R.LE_STATE_FLAGS, 8, 4, .ro, .any⟩
def F.LE_STATE_FLAGS_SCHED : Fld := ⟨R.LE_STATE_FLAGS, 12, 4, .ro, .any⟩
def F.LE_STATE_FLAGS_HOLDS : Fld := ⟨R.LE_STATE_FLAGS, 16, 16, .ro, .any⟩
/-- R175 (04_loop_timing.md). -/
def R.LE_TICK : Reg := ⟨0x180000, 1, 0, 1, 0⟩
def F.LE_TICK_TICK : Fld := ⟨R.LE_TICK, 0, 32, .ro, .any⟩
/-- R176 (04_loop_timing.md). -/
def R.LE_FRAME_STAT : Reg := ⟨0x180004, 1, 0, 1, 0⟩
def F.LE_FRAME_STAT_END_US : Fld := ⟨R.LE_FRAME_STAT, 0, 16, .ro, .any⟩
def F.LE_FRAME_STAT_SLOTS : Fld := ⟨R.LE_FRAME_STAT, 16, 16, .ro, .any⟩
/-- R177 (04_loop_timing.md). -/
def R.LE_FRAME_PEAK : Reg := ⟨0x180008, 1, 0, 1, 0⟩
def F.LE_FRAME_PEAK_END_US : Fld := ⟨R.LE_FRAME_PEAK, 0, 16, .rcl, .any⟩
def F.LE_FRAME_PEAK_SLOTS : Fld := ⟨R.LE_FRAME_PEAK, 16, 16, .rcl, .any⟩
/-- R178 (04_loop_timing.md). -/
def R.LE_MISS : Reg := ⟨0x180010, 1, 0, 1, 0⟩
def F.LE_MISS_COUNT : Fld := ⟨R.LE_MISS, 0, 16, .rcl, .any⟩
def F.LE_MISS_FRAMES : Fld := ⟨R.LE_MISS, 16, 16, .rcl, .any⟩
/-- R179 (04_loop_timing.md). -/
def R.LE_MISS_LAST : Reg := ⟨0x180014, 1, 0, 1, 0⟩
def F.LE_MISS_LAST_LOOP : Fld := ⟨R.LE_MISS_LAST, 0, 13, .ro, .any⟩
def F.LE_MISS_LAST_VALID : Fld := ⟨R.LE_MISS_LAST, 13, 1, .w1c, .any⟩
def F.LE_MISS_LAST_FRAME : Fld := ⟨R.LE_MISS_LAST, 16, 16, .ro, .any⟩
/-- R180 (04_loop_timing.md). -/
def R.LE_FE : Reg := ⟨0x180018, 1, 0, 1, 0⟩
def F.LE_FE_ENTRIES : Fld := ⟨R.LE_FE, 0, 16, .rcl, .any⟩
def F.LE_FE_EXITS : Fld := ⟨R.LE_FE, 16, 16, .rcl, .any⟩
/-- R181 (04_loop_timing.md). -/
def R.LE_FE_LAST : Reg := ⟨0x18001C, 1, 0, 1, 0⟩
def F.LE_FE_LAST_LOOP : Fld := ⟨R.LE_FE_LAST, 0, 13, .ro, .any⟩
def F.LE_FE_LAST_VALID : Fld := ⟨R.LE_FE_LAST, 13, 1, .w1c, .any⟩
/-- R182 (04_loop_timing.md). -/
def R.LE_SWAP : Reg := ⟨0x180020, 1, 0, 1, 0⟩
def F.LE_SWAP_LOOP : Fld := ⟨R.LE_SWAP, 0, 13, .wo, .any⟩
def F.LE_SWAP_BANK : Fld := ⟨R.LE_SWAP, 16, 1, .wo, .any⟩
/-- R183 (04_loop_timing.md). -/
def R.LE_SWG_CMD : Reg := ⟨0x180024, 1, 0, 1, 0⟩
def F.LE_SWG_CMD_GROUP : Fld := ⟨R.LE_SWG_CMD, 0, 6, .wo, .any⟩
def F.LE_SWG_CMD_BANK : Fld := ⟨R.LE_SWG_CMD, 8, 1, .wo, .any⟩
def F.LE_SWG_CMD_ALIGN : Fld := ⟨R.LE_SWG_CMD, 9, 1, .wo, .any⟩
def F.LE_SWG_CMD_CANCEL : Fld := ⟨R.LE_SWG_CMD, 10, 1, .wo, .any⟩
def F.LE_SWG_CMD_DELAY : Fld := ⟨R.LE_SWG_CMD, 16, 16, .wo, .any⟩
/-- R184 (04_loop_timing.md). -/
def R.LE_OQ : Reg := ⟨0x180028, 1, 0, 1, 0⟩
def F.LE_OQ_PEAK : Fld := ⟨R.LE_OQ, 0, 8, .rcl, .any⟩
def F.LE_OQ_TREND_DROP : Fld := ⟨R.LE_OQ, 16, 16, .rcl, .any⟩
/-- R185 (04_loop_timing.md). -/
def R.LE_STATE_SCHED : Reg := ⟨0x180138, 1, 0, 1, 0⟩
def F.LE_STATE_SCHED_FE_COUNT : Fld := ⟨R.LE_STATE_SCHED, 0, 16, .ro, .any⟩
def F.LE_STATE_SCHED_SWAP_BANK : Fld := ⟨R.LE_STATE_SCHED, 16, 1, .ro, .any⟩
def F.LE_STATE_SCHED_SWAP_PEND : Fld := ⟨R.LE_STATE_SCHED, 17, 1, .ro, .any⟩
/-- R186 (04_loop_timing.md). -/
def R.LE_SWG_CFG : Reg := ⟨0x180200, 64, 16, 1, 0⟩
def F.LE_SWG_CFG_OWNER : Fld := ⟨R.LE_SWG_CFG, 0, 8, .rw, .any⟩
/-- R186 (04_loop_timing.md). -/
def R.LE_SWG_STAT : Reg := ⟨0x180204, 64, 16, 1, 0⟩
def F.LE_SWG_STAT_LAST_COUNT : Fld := ⟨R.LE_SWG_STAT, 0, 14, .ro, .any⟩
def F.LE_SWG_STAT_BANK : Fld := ⟨R.LE_SWG_STAT, 29, 1, .ro, .any⟩
def F.LE_SWG_STAT_ALIGN : Fld := ⟨R.LE_SWG_STAT, 30, 1, .ro, .any⟩
def F.LE_SWG_STAT_PEND : Fld := ⟨R.LE_SWG_STAT, 31, 1, .ro, .any⟩
/-- R186 (04_loop_timing.md). -/
def R.LE_SWG_T : Reg := ⟨0x180208, 64, 16, 1, 0⟩
def F.LE_SWG_T_T : Fld := ⟨R.LE_SWG_T, 0, 32, .ro, .any⟩
/-- R226 (05_skehil_cores.md). -/
def R.SK_CTRL : Reg := ⟨0x200000, 4, 4096, 1, 0⟩
def F.SK_CTRL_RUN : Fld := ⟨R.SK_CTRL, 0, 1, .rw, .any⟩
def F.SK_CTRL_STOPPED : Fld := ⟨R.SK_CTRL, 1, 1, .ro, .any⟩
/-- R227 (05_skehil_cores.md). -/
def R.SK_STAT : Reg := ⟨0x200004, 4, 4096, 1, 0⟩
def F.SK_STAT_TENANT : Fld := ⟨R.SK_STAT, 0, 8, .ro, .any⟩
def F.SK_STAT_GEN : Fld := ⟨R.SK_STAT, 8, 8, .ro, .any⟩
def F.SK_STAT_TASK : Fld := ⟨R.SK_STAT, 16, 6, .ro, .any⟩
def F.SK_STAT_BUSY : Fld := ⟨R.SK_STAT, 22, 1, .ro, .any⟩
def F.SK_STAT_CBUF : Fld := ⟨R.SK_STAT, 24, 4, .ro, .any⟩
/-- R228 (05_skehil_cores.md). -/
def R.SK_ABORT : Reg := ⟨0x200008, 4, 4096, 1, 0⟩
def F.SK_ABORT_TENANT : Fld := ⟨R.SK_ABORT, 0, 8, .ro, .any⟩
def F.SK_ABORT_VALID : Fld := ⟨R.SK_ABORT, 15, 1, .w1c, .any⟩
def F.SK_ABORT_TASK : Fld := ⟨R.SK_ABORT, 16, 6, .ro, .any⟩
def F.SK_ABORT_CAUSE : Fld := ⟨R.SK_ABORT, 28, 4, .ro, .any⟩
/-- R228 (05_skehil_cores.md). -/
def R.SK_ABORT_PC : Reg := ⟨0x20000C, 4, 4096, 1, 0⟩
def F.SK_ABORT_PC_PC : Fld := ⟨R.SK_ABORT_PC, 0, 16, .ro, .any⟩
/-- R229 (05_skehil_cores.md). -/
def R.SK_CNT : Reg := ⟨0x200010, 4, 4096, 1, 0⟩
def F.SK_CNT_DEFERRED : Fld := ⟨R.SK_CNT, 0, 16, .rcl, .any⟩
def F.SK_CNT_ABORTS : Fld := ⟨R.SK_CNT, 16, 16, .rcl, .any⟩
/-- R229 (05_skehil_cores.md). -/
def R.SK_CNT2 : Reg := ⟨0x200014, 4, 4096, 1, 0⟩
def F.SK_CNT2_DENIED : Fld := ⟨R.SK_CNT2, 0, 16, .rcl, .any⟩
def F.SK_CNT2_COALESCED : Fld := ⟨R.SK_CNT2, 16, 16, .rcl, .any⟩
/-- R229 (05_skehil_cores.md). -/
def R.SK_ECC : Reg := ⟨0x200018, 4, 4096, 1, 0⟩
def F.SK_ECC_SBE : Fld := ⟨R.SK_ECC, 0, 16, .rcl, .any⟩
def F.SK_ECC_DBE : Fld := ⟨R.SK_ECC, 24, 8, .rcl, .any⟩
/-- R230 (05_skehil_cores.md). -/
def R.SK_EPC : Reg := ⟨0x200020, 4, 4096, 1, 0⟩
def F.SK_EPC_EPC : Fld := ⟨R.SK_EPC, 0, 16, .ro, .any⟩
/-- R230 (05_skehil_cores.md). -/
def R.SK_VEC : Reg := ⟨0x200024, 4, 4096, 1, 0⟩
def F.SK_VEC_VEC : Fld := ⟨R.SK_VEC, 0, 16, .rw, .mult 4⟩
/-- R231 (05_skehil_cores.md). -/
def R.SK_TASK_CTL : Reg := ⟨0x200100, 4, 4096, 64, 16⟩
def F.SK_TASK_CTL_TENANT : Fld := ⟨R.SK_TASK_CTL, 0, 8, .rw, .any⟩
def F.SK_TASK_CTL_PRIO : Fld := ⟨R.SK_TASK_CTL, 24, 4, .rw, .any⟩
def F.SK_TASK_CTL_TRIG : Fld := ⟨R.SK_TASK_CTL, 28, 2, .rw, .range 0 2⟩
def F.SK_TASK_CTL_EN : Fld := ⟨R.SK_TASK_CTL, 31, 1, .rw, .any⟩
/-- R231 (05_skehil_cores.md). -/
def R.SK_TASK_TRIG : Reg := ⟨0x200104, 4, 4096, 64, 16⟩
def F.SK_TASK_TRIG_ARG : Fld := ⟨R.SK_TASK_TRIG, 0, 32, .rw, .any⟩
/-- R231 (05_skehil_cores.md). -/
def R.SK_TASK_ENTRY : Reg := ⟨0x200108, 4, 4096, 64, 16⟩
def F.SK_TASK_ENTRY_ENTRY : Fld := ⟨R.SK_TASK_ENTRY, 0, 16, .rw, .mult 4⟩
def F.SK_TASK_ENTRY_BUDGET : Fld := ⟨R.SK_TASK_ENTRY, 16, 16, .rw, .range 1 65535⟩
/-- R231 (05_skehil_cores.md). -/
def R.SK_TASK_SEG : Reg := ⟨0x20010C, 4, 4096, 64, 16⟩
def F.SK_TASK_SEG_ISIZE : Fld := ⟨R.SK_TASK_SEG, 0, 8, .rw, .any⟩
def F.SK_TASK_SEG_IBASE : Fld := ⟨R.SK_TASK_SEG, 8, 8, .rw, .any⟩
def F.SK_TASK_SEG_DSIZE : Fld := ⟨R.SK_TASK_SEG, 16, 8, .rw, .any⟩
def F.SK_TASK_SEG_DBASE : Fld := ⟨R.SK_TASK_SEG, 24, 8, .rw, .any⟩
/-- R263 (06_coil_profiles.md). -/
def R.CD_CFG : Reg := ⟨0x190000, 32, 256, 1, 0⟩
def F.CD_CFG_MODE : Fld := ⟨R.CD_CFG, 0, 3, .rw, .range 0 3⟩
def F.CD_CFG_PAIR : Fld := ⟨R.CD_CFG, 3, 1, .rw, .any⟩
def F.CD_CFG_HOLD_SRC : Fld := ⟨R.CD_CFG, 4, 1, .rw, .any⟩
def F.CD_CFG_FASTDN : Fld := ⟨R.CD_CFG, 5, 1, .rw, .any⟩
def F.CD_CFG_DSHAPE : Fld := ⟨R.CD_CFG, 6, 1, .rw, .any⟩
def F.CD_CFG_DAMP : Fld := ⟨R.CD_CFG, 8, 7, .rw, .range 0 25⟩
def F.CD_CFG_DFREQ : Fld := ⟨R.CD_CFG, 16, 9, .rw, .range 40 400⟩
def F.CD_CFG_PRIO : Fld := ⟨R.CD_CFG, 30, 2, .rw, .any⟩
/-- R264 (06_coil_profiles.md). -/
def R.CD_CMD : Reg := ⟨0x190004, 32, 256, 1, 0⟩
def F.CD_CMD_POINT : Fld := ⟨R.CD_CMD, 0, 15, .rw, .any⟩
def F.CD_CMD_LOOP_BOUND : Fld := ⟨R.CD_CMD, 31, 1, .ro, .any⟩
/-- R265 (06_coil_profiles.md). -/
def R.CD_PULL : Reg := ⟨0x190008, 32, 256, 1, 0⟩
def F.CD_PULL_I_PULL : Fld := ⟨R.CD_PULL, 0, 11, .rw, .any⟩
def F.CD_PULL_T_PULL : Fld := ⟨R.CD_PULL, 16, 10, .rw, .range 1 1000⟩
/-- R266 (06_coil_profiles.md). -/
def R.CD_HOLD : Reg := ⟨0x19000C, 32, 256, 1, 0⟩
def F.CD_HOLD_I_HOLD : Fld := ⟨R.CD_HOLD, 0, 11, .rw, .any⟩
def F.CD_HOLD_HOLD_MAX : Fld := ⟨R.CD_HOLD, 16, 16, .rw, .any⟩
/-- R267 (06_coil_profiles.md). -/
def R.CD_PROP : Reg := ⟨0x190010, 32, 256, 1, 0⟩
def F.CD_PROP_I_PMAX : Fld := ⟨R.CD_PROP, 0, 11, .rw, .any⟩
def F.CD_PROP_RAMP : Fld := ⟨R.CD_PROP, 16, 16, .rw, .any⟩
/-- R268 (06_coil_profiles.md). -/
def R.CD_PULSE : Reg := ⟨0x190014, 32, 256, 1, 0⟩
def F.CD_PULSE_T_PULSE : Fld := ⟨R.CD_PULSE, 0, 16, .rw, .range 1 65535⟩
/-- R269 (06_coil_profiles.md). -/
def R.CD_REG : Reg := ⟨0x190018, 32, 256, 1, 0⟩
def F.CD_REG_KP_R : Fld := ⟨R.CD_REG, 0, 8, .rw, .any⟩
def F.CD_REG_KI_R : Fld := ⟨R.CD_REG, 8, 8, .rw, .range 1 255⟩
/-- R270 (06_coil_profiles.md). -/
def R.CD_STAT : Reg := ⟨0x19001C, 32, 256, 1, 0⟩
def F.CD_STAT_PHASE : Fld := ⟨R.CD_STAT, 0, 4, .ro, .any⟩
def F.CD_STAT_ON_PEND : Fld := ⟨R.CD_STAT, 8, 1, .ro, .any⟩
def F.CD_STAT_TARGET : Fld := ⟨R.CD_STAT, 16, 11, .ro, .any⟩
/-- R271 (06_coil_profiles.md). -/
def R.CD_MEAS : Reg := ⟨0x190020, 32, 256, 1, 0⟩
def F.CD_MEAS_I_MEAS : Fld := ⟨R.CD_MEAS, 0, 11, .ro, .any⟩
def F.CD_MEAS_VCOILX : Fld := ⟨R.CD_MEAS, 16, 16, .ro, .any⟩
/-- R272 (06_coil_profiles.md). -/
def R.CD_DUTY : Reg := ⟨0x190024, 32, 256, 1, 0⟩
def F.CD_DUTY_DUTY_A : Fld := ⟨R.CD_DUTY, 0, 10, .ro, .any⟩
def F.CD_DUTY_DUTY_B : Fld := ⟨R.CD_DUTY, 16, 10, .ro, .any⟩
/-- R273, R311 (06_coil_profiles.md). -/
def R.CD_FLT : Reg := ⟨0x190028, 32, 256, 1, 0⟩
def F.CD_FLT_TWIN : Fld := ⟨R.CD_FLT, 0, 1, .w1c, .any⟩
def F.CD_FLT_OVC : Fld := ⟨R.CD_FLT, 1, 1, .w1c, .any⟩
def F.CD_FLT_OPEN : Fld := ⟨R.CD_FLT, 2, 1, .w1c, .any⟩
def F.CD_FLT_CLAMP_E : Fld := ⟨R.CD_FLT, 3, 1, .w1c, .any⟩
def F.CD_FLT_FD_TIME : Fld := ⟨R.CD_FLT, 4, 1, .w1c, .any⟩
def F.CD_FLT_IMBAL : Fld := ⟨R.CD_FLT, 5, 1, .w1c, .any⟩
def F.CD_FLT_THERM : Fld := ⟨R.CD_FLT, 8, 1, .w1c, .any⟩
def F.CD_FLT_EWIN : Fld := ⟨R.CD_FLT, 9, 1, .w1c, .any⟩
def F.CD_FLT_MOTION : Fld := ⟨R.CD_FLT, 10, 1, .w1c, .any⟩
/-- R274, R312 (06_coil_profiles.md). -/
def R.CD_EVT : Reg := ⟨0x19002C, 32, 256, 1, 0⟩
def F.CD_EVT_FAULT : Fld := ⟨R.CD_EVT, 0, 1, .w1c, .any⟩
def F.CD_EVT_PULL_END : Fld := ⟨R.CD_EVT, 1, 1, .w1c, .any⟩
def F.CD_EVT_FD_END : Fld := ⟨R.CD_EVT, 2, 1, .w1c, .any⟩
def F.CD_EVT_HOLD_EXP : Fld := ⟨R.CD_EVT, 3, 1, .w1c, .any⟩
def F.CD_EVT_OPENED : Fld := ⟨R.CD_EVT, 8, 1, .w1c, .any⟩
def F.CD_EVT_CLOSED : Fld := ⟨R.CD_EVT, 9, 1, .w1c, .any⟩
def F.CD_EVT_AMBIG : Fld := ⟨R.CD_EVT, 10, 1, .w1c, .any⟩
def F.CD_EVT_LEARN_END : Fld := ⟨R.CD_EVT, 11, 1, .w1c, .any⟩
def F.CD_EVT_UNEXP_DROP : Fld := ⟨R.CD_EVT, 12, 1, .w1c, .any⟩
def F.CD_EVT_COOLED : Fld := ⟨R.CD_EVT, 13, 1, .w1c, .any⟩
def F.CD_EVT_SHED : Fld := ⟨R.CD_EVT, 14, 1, .w1c, .any⟩
/-- R274, R312 (06_coil_profiles.md). -/
def R.CD_IEN : Reg := ⟨0x190030, 32, 256, 1, 0⟩
def F.CD_IEN_FAULT : Fld := ⟨R.CD_IEN, 0, 1, .rw, .any⟩
def F.CD_IEN_PULL_END : Fld := ⟨R.CD_IEN, 1, 1, .rw, .any⟩
def F.CD_IEN_FD_END : Fld := ⟨R.CD_IEN, 2, 1, .rw, .any⟩
def F.CD_IEN_HOLD_EXP : Fld := ⟨R.CD_IEN, 3, 1, .rw, .any⟩
def F.CD_IEN_OPENED : Fld := ⟨R.CD_IEN, 8, 1, .rw, .any⟩
def F.CD_IEN_CLOSED : Fld := ⟨R.CD_IEN, 9, 1, .rw, .any⟩
def F.CD_IEN_AMBIG : Fld := ⟨R.CD_IEN, 10, 1, .rw, .any⟩
def F.CD_IEN_LEARN_END : Fld := ⟨R.CD_IEN, 11, 1, .rw, .any⟩
def F.CD_IEN_UNEXP_DROP : Fld := ⟨R.CD_IEN, 12, 1, .rw, .any⟩
def F.CD_IEN_COOLED : Fld := ⟨R.CD_IEN, 13, 1, .rw, .any⟩
def F.CD_IEN_SHED : Fld := ⟨R.CD_IEN, 14, 1, .rw, .any⟩
/-- R275 (06_coil_profiles.md). -/
def R.CD_CNT : Reg := ⟨0x190034, 32, 256, 1, 0⟩
def F.CD_CNT_PULLINS : Fld := ⟨R.CD_CNT, 0, 16, .rcl, .any⟩
def F.CD_CNT_RENEW : Fld := ⟨R.CD_CNT, 16, 16, .rcl, .any⟩
/-- R276 (06_coil_profiles.md). -/
def R.CD_CLAMP : Reg := ⟨0x190038, 32, 256, 1, 0⟩
def F.CD_CLAMP_E_LAST : Fld := ⟨R.CD_CLAMP, 0, 16, .ro, .any⟩
def F.CD_CLAMP_T_LAST : Fld := ⟨R.CD_CLAMP, 16, 16, .ro, .any⟩
/-- R277 (06_coil_profiles.md). -/
def R.CD_GSTAT : Reg := ⟨0x192000, 1, 0, 1, 0⟩
def F.CD_GSTAT_VCOIL : Fld := ⟨R.CD_GSTAT, 0, 16, .ro, .any⟩
def F.CD_GSTAT_UV : Fld := ⟨R.CD_GSTAT, 16, 1, .ro, .any⟩
def F.CD_GSTAT_OV : Fld := ⟨R.CD_GSTAT, 17, 1, .ro, .any⟩
/-- R277 (06_coil_profiles.md). -/
def R.CD_GCNT : Reg := ⟨0x192004, 1, 0, 1, 0⟩
def F.CD_GCNT_UV_EVENTS : Fld := ⟨R.CD_GCNT, 0, 16, .rcl, .any⟩
def F.CD_GCNT_OV_EVENTS : Fld := ⟨R.CD_GCNT, 16, 16, .rcl, .any⟩
/-- R278 (06_coil_profiles.md). -/
def R.CD_FLTMAP : Reg := ⟨0x192008, 1, 0, 1, 0⟩
def F.CD_FLTMAP_FAULT : Fld := ⟨R.CD_FLTMAP, 0, 32, .ro, .any⟩
/-- R278 (06_coil_profiles.md). -/
def R.CD_ACTMAP : Reg := ⟨0x19200C, 1, 0, 1, 0⟩
def F.CD_ACTMAP_ACTIVE : Fld := ⟨R.CD_ACTMAP, 0, 32, .ro, .any⟩
/-- R313 (07_coil_motion.md). -/
def R.CD_MOTCFG : Reg := ⟨0x190040, 32, 256, 1, 0⟩
def F.CD_MOTCFG_KTH : Fld := ⟨R.CD_MOTCFG, 0, 8, .rw, .range 1 255⟩
def F.CD_MOTCFG_BUMP_TH : Fld := ⟨R.CD_MOTCFG, 8, 6, .rw, .range 1 63⟩
def F.CD_MOTCFG_DIP_TH : Fld := ⟨R.CD_MOTCFG, 16, 6, .rw, .range 1 63⟩
def F.CD_MOTCFG_MOTFLT_EN : Fld := ⟨R.CD_MOTCFG, 30, 1, .rw, .any⟩
def F.CD_MOTCFG_MEND : Fld := ⟨R.CD_MOTCFG, 31, 1, .rw, .any⟩
/-- R314 (07_coil_motion.md). -/
def R.CD_MOTWIN : Reg := ⟨0x190044, 32, 256, 1, 0⟩
def F.CD_MOTWIN_T_SETTLE : Fld := ⟨R.CD_MOTWIN, 0, 6, .rw, .range 0 50⟩
def F.CD_MOTWIN_BLANK : Fld := ⟨R.CD_MOTWIN, 16, 8, .rw, .any⟩
def F.CD_MOTWIN_KWIN : Fld := ⟨R.CD_MOTWIN, 24, 7, .rw, .range 1 100⟩
/-- R315 (07_coil_motion.md). -/
def R.CD_MOT_OPEN : Reg := ⟨0x190048, 32, 256, 1, 0⟩
def F.CD_MOT_OPEN_TIME : Fld := ⟨R.CD_MOT_OPEN, 0, 18, .ro, .any⟩
def F.CD_MOT_OPEN_SRC : Fld := ⟨R.CD_MOT_OPEN, 28, 2, .ro, .any⟩
def F.CD_MOT_OPEN_RES : Fld := ⟨R.CD_MOT_OPEN, 30, 2, .ro, .any⟩
/-- R315 (07_coil_motion.md). -/
def R.CD_MOT_CLOSE : Reg := ⟨0x19004C, 32, 256, 1, 0⟩
def F.CD_MOT_CLOSE_TIME : Fld := ⟨R.CD_MOT_CLOSE, 0, 18, .ro, .any⟩
def F.CD_MOT_CLOSE_SRC : Fld := ⟨R.CD_MOT_CLOSE, 28, 2, .ro, .any⟩
def F.CD_MOT_CLOSE_RES : Fld := ⟨R.CD_MOT_CLOSE, 30, 2, .ro, .any⟩
/-- R316 (07_coil_motion.md). -/
def R.CD_MOT_CNT : Reg := ⟨0x190050, 32, 256, 1, 0⟩
def F.CD_MOT_CNT_CHATTER : Fld := ⟨R.CD_MOT_CNT, 0, 8, .rcl, .any⟩
def F.CD_MOT_CNT_STUCK : Fld := ⟨R.CD_MOT_CNT, 8, 4, .rcl, .any⟩
def F.CD_MOT_CNT_UNEXP : Fld := ⟨R.CD_MOT_CNT, 12, 4, .rcl, .any⟩
def F.CD_MOT_CNT_NONE : Fld := ⟨R.CD_MOT_CNT, 16, 8, .rcl, .any⟩
def F.CD_MOT_CNT_AMBIG : Fld := ⟨R.CD_MOT_CNT, 24, 8, .rcl, .any⟩
/-- R317 (07_coil_motion.md). -/
def R.CD_ENDC : Reg := ⟨0x190054, 32, 256, 1, 0⟩
def F.CD_ENDC_DEB : Fld := ⟨R.CD_ENDC, 0, 8, .rw, .range 1 100⟩
def F.CD_ENDC_OP_DI : Fld := ⟨R.CD_ENDC, 8, 6, .rw, .any⟩
def F.CD_ENDC_OP_POL : Fld := ⟨R.CD_ENDC, 14, 1, .rw, .any⟩
def F.CD_ENDC_OP_EN : Fld := ⟨R.CD_ENDC, 15, 1, .rw, .any⟩
def F.CD_ENDC_CL_DI : Fld := ⟨R.CD_ENDC, 16, 6, .rw, .any⟩
def F.CD_ENDC_CL_POL : Fld := ⟨R.CD_ENDC, 22, 1, .rw, .any⟩
def F.CD_ENDC_CL_EN : Fld := ⟨R.CD_ENDC, 23, 1, .rw, .any⟩
/-- R318 (07_coil_motion.md). -/
def R.CD_STK_PAR : Reg := ⟨0x190058, 32, 256, 1, 0⟩
def F.CD_STK_PAR_REST : Fld := ⟨R.CD_STK_PAR, 0, 10, .rw, .range 10 1000⟩
def F.CD_STK_PAR_DWELL : Fld := ⟨R.CD_STK_PAR, 16, 10, .rw, .range 10 1000⟩
def F.CD_STK_PAR_CYCLES : Fld := ⟨R.CD_STK_PAR, 28, 4, .rw, .range 1 8⟩
/-- R319 (07_coil_motion.md). -/
def R.CD_STK_RES : Reg := ⟨0x19005C, 32, 256, 1, 0⟩
def F.CD_STK_RES_T_CLOSE : Fld := ⟨R.CD_STK_RES, 0, 13, .ro, .any⟩
def F.CD_STK_RES_T_OPEN : Fld := ⟨R.CD_STK_RES, 13, 14, .ro, .any⟩
def F.CD_STK_RES_STUCK : Fld := ⟨R.CD_STK_RES, 27, 1, .ro, .any⟩
def F.CD_STK_RES_CHAT : Fld := ⟨R.CD_STK_RES, 28, 1, .ro, .any⟩
def F.CD_STK_RES_EARLY : Fld := ⟨R.CD_STK_RES, 29, 1, .ro, .any⟩
def F.CD_STK_RES_CL_VALID : Fld := ⟨R.CD_STK_RES, 30, 1, .ro, .any⟩
def F.CD_STK_RES_OP_VALID : Fld := ⟨R.CD_STK_RES, 31, 1, .ro, .any⟩
/-- R320 (07_coil_motion.md). -/
def R.CD_STK_LEAD : Reg := ⟨0x190060, 32, 256, 1, 0⟩
def F.CD_STK_LEAD_CL_LEAD : Fld := ⟨R.CD_STK_LEAD, 0, 16, .ro, .any⟩
def F.CD_STK_LEAD_OP_LEAD : Fld := ⟨R.CD_STK_LEAD, 16, 16, .ro, .any⟩
/-- R321 (07_coil_motion.md). -/
def R.CD_PRB_CFG : Reg := ⟨0x190064, 32, 256, 1, 0⟩
def F.CD_PRB_CFG_PFLOOR : Fld := ⟨R.CD_PRB_CFG, 0, 11, .rw, .range 10 600⟩
def F.CD_PRB_CFG_PDWELL : Fld := ⟨R.CD_PRB_CFG, 12, 8, .rw, .range 5 200⟩
def F.CD_PRB_CFG_PSTEP : Fld := ⟨R.CD_PRB_CFG, 20, 4, .rw, .range 1 10⟩
def F.CD_PRB_CFG_MARGIN : Fld := ⟨R.CD_PRB_CFG, 24, 8, .rw, .range 105 200⟩
/-- R322 (07_coil_motion.md). -/
def R.CD_LEARN : Reg := ⟨0x190068, 32, 256, 1, 0⟩
def F.CD_LEARN_STROKE : Fld := ⟨R.CD_LEARN, 0, 1, .wo, .any⟩
def F.CD_LEARN_PROBE : Fld := ⟨R.CD_LEARN, 1, 1, .wo, .any⟩
def F.CD_LEARN_CANCEL : Fld := ⟨R.CD_LEARN, 2, 1, .wo, .any⟩
/-- R323 (07_coil_motion.md). -/
def R.CD_LEARN_STAT : Reg := ⟨0x19006C, 32, 256, 1, 0⟩
def F.CD_LEARN_STAT_STEP : Fld := ⟨R.CD_LEARN_STAT, 16, 8, .ro, .any⟩
def F.CD_LEARN_STAT_KIND : Fld := ⟨R.CD_LEARN_STAT, 24, 2, .ro, .any⟩
def F.CD_LEARN_STAT_LAST_KIND : Fld := ⟨R.CD_LEARN_STAT, 26, 2, .ro, .any⟩
def F.CD_LEARN_STAT_LAST_RES : Fld := ⟨R.CD_LEARN_STAT, 28, 4, .ro, .any⟩
/-- R324 (07_coil_motion.md). -/
def R.CD_HOLD_LRN : Reg := ⟨0x190070, 32, 256, 1, 0⟩
def F.CD_HOLD_LRN_I_LHOLD : Fld := ⟨R.CD_HOLD_LRN, 0, 11, .ro, .any⟩
def F.CD_HOLD_LRN_I_DO : Fld := ⟨R.CD_HOLD_LRN, 16, 11, .rw, .any⟩
def F.CD_HOLD_LRN_VALID : Fld := ⟨R.CD_HOLD_LRN, 31, 1, .rw, .any⟩
/-- R325 (07_coil_motion.md). -/
def R.CD_TH_R : Reg := ⟨0x190074, 32, 256, 1, 0⟩
def F.CD_TH_R_RC20 : Fld := ⟨R.CD_TH_R, 0, 16, .rw, .range 1 65535⟩
def F.CD_TH_R_TAMB : Fld := ⟨R.CD_TH_R, 24, 8, .rw, .signed (-40) 85⟩
/-- R326 (07_coil_motion.md). -/
def R.CD_TH_C : Reg := ⟨0x190078, 32, 256, 1, 0⟩
def F.CD_TH_C_CW : Fld := ⟨R.CD_TH_C, 0, 16, .rw, .range 1 65535⟩
def F.CD_TH_C_CB : Fld := ⟨R.CD_TH_C, 16, 16, .rw, .range 1 65535⟩
/-- R326 (07_coil_motion.md). -/
def R.CD_TH_G : Reg := ⟨0x19007C, 32, 256, 1, 0⟩
def F.CD_TH_G_RWB : Fld := ⟨R.CD_TH_G, 0, 16, .rw, .range 1 65535⟩
def F.CD_TH_G_RBA : Fld := ⟨R.CD_TH_G, 16, 16, .rw, .range 1 65535⟩
/-- R327 (07_coil_motion.md). -/
def R.CD_TH_LIM : Reg := ⟨0x190080, 32, 256, 1, 0⟩
def F.CD_TH_LIM_TW_MAX : Fld := ⟨R.CD_TH_LIM, 0, 8, .rw, .range 50 200⟩
def F.CD_TH_LIM_HYST : Fld := ⟨R.CD_TH_LIM, 16, 6, .rw, .range 5 50⟩
/-- R328 (07_coil_motion.md). -/
def R.CD_TH_STAT : Reg := ⟨0x190084, 32, 256, 1, 0⟩
def F.CD_TH_STAT_TW : Fld := ⟨R.CD_TH_STAT, 0, 15, .ro, .any⟩
def F.CD_TH_STAT_TB : Fld := ⟨R.CD_TH_STAT, 16, 15, .ro, .any⟩
def F.CD_TH_STAT_COOLED : Fld := ⟨R.CD_TH_STAT, 31, 1, .ro, .any⟩
/-- R329 (07_coil_motion.md). -/
def R.CD_TH_RW : Reg := ⟨0x190088, 32, 256, 1, 0⟩
def F.CD_TH_RW_AGE : Fld := ⟨R.CD_TH_RW, 0, 8, .ro, .any⟩
def F.CD_TH_RW_RW_BAD : Fld := ⟨R.CD_TH_RW, 8, 8, .rcl, .any⟩
def F.CD_TH_RW_RM : Fld := ⟨R.CD_TH_RW, 16, 16, .ro, .any⟩
/-- R330 (07_coil_motion.md). -/
def R.CD_EW_CFG : Reg := ⟨0x19008C, 32, 256, 1, 0⟩
def F.CD_EW_CFG_E_MAX : Fld := ⟨R.CD_EW_CFG, 0, 16, .rw, .range 1 65535⟩
def F.CD_EW_CFG_WIN : Fld := ⟨R.CD_EW_CFG, 16, 6, .rw, .range 1 60⟩
/-- R330 (07_coil_motion.md). -/
def R.CD_EW_STAT : Reg := ⟨0x190090, 32, 256, 1, 0⟩
def F.CD_EW_STAT_E_WIN : Fld := ⟨R.CD_EW_STAT, 0, 32, .ro, .any⟩
/-- R331 (07_coil_motion.md). -/
def R.CD_LWIN : Reg := ⟨0x192100, 1, 0, 1, 0⟩
def F.CD_LWIN_MINUTES : Fld := ⟨R.CD_LWIN, 0, 11, .rw, .any⟩
def F.CD_LWIN_MAXRUN : Fld := ⟨R.CD_LWIN, 16, 5, .rw, .any⟩
def F.CD_LWIN_OPEN : Fld := ⟨R.CD_LWIN, 31, 1, .ro, .any⟩
/-- R332 (07_coil_motion.md). -/
def R.CD_DBUD : Reg := ⟨0x192104, 1, 0, 1, 0⟩
def F.CD_DBUD_BUDGET : Fld := ⟨R.CD_DBUD, 0, 9, .rw, .range 50 400⟩
/-- R332 (07_coil_motion.md). -/
def R.CD_DBUD_STAT : Reg := ⟨0x192108, 1, 0, 1, 0⟩
def F.CD_DBUD_STAT_PF : Fld := ⟨R.CD_DBUD_STAT, 0, 16, .ro, .any⟩
def F.CD_DBUD_STAT_STAGE : Fld := ⟨R.CD_DBUD_STAT, 16, 3, .ro, .any⟩
def F.CD_DBUD_STAT_OVER : Fld := ⟨R.CD_DBUD_STAT, 31, 1, .w1c, .any⟩
/-- R332 (07_coil_motion.md). -/
def R.CD_DBUD_CNT : Reg := ⟨0x19210C, 1, 0, 1, 0⟩
def F.CD_DBUD_CNT_RISES : Fld := ⟨R.CD_DBUD_CNT, 0, 16, .rcl, .any⟩
def F.CD_DBUD_CNT_SHEDS : Fld := ⟨R.CD_DBUD_CNT, 16, 16, .rcl, .any⟩
/-- R360 (08_acquisition.md). -/
def R.ADC_CTRL : Reg := ⟨0x1B0000, 4, 4096, 1, 0⟩
def F.ADC_CTRL_UEDGE : Fld := ⟨R.ADC_CTRL, 2, 2, .rw, .range 0 2⟩
def F.ADC_CTRL_USRC : Fld := ⟨R.ADC_CTRL, 4, 4, .rw, .range 0 12⟩
def F.ADC_CTRL_TEDGE : Fld := ⟨R.ADC_CTRL, 10, 2, .rw, .range 0 2⟩
def F.ADC_CTRL_TSRC : Fld := ⟨R.ADC_CTRL, 12, 4, .rw, .range 0 12⟩
def F.ADC_CTRL_ULEN : Fld := ⟨R.ADC_CTRL, 20, 2, .rw, .any⟩
def F.ADC_CTRL_LEN : Fld := ⟨R.ADC_CTRL, 24, 4, .rw, .any⟩
def F.ADC_CTRL_UEN : Fld := ⟨R.ADC_CTRL, 30, 1, .rw, .any⟩
def F.ADC_CTRL_EN : Fld := ⟨R.ADC_CTRL, 31, 1, .rw, .any⟩
/-- R361 (08_acquisition.md). -/
def R.ADC_STAT : Reg := ⟨0x1B0004, 4, 4096, 1, 0⟩
def F.ADC_STAT_STATE : Fld := ⟨R.ADC_STAT, 0, 3, .ro, .any⟩
def F.ADC_STAT_ENTRY : Fld := ⟨R.ADC_STAT, 4, 4, .ro, .any⟩
def F.ADC_STAT_UENTRY : Fld := ⟨R.ADC_STAT, 8, 2, .ro, .any⟩
def F.ADC_STAT_PREEMPTED : Fld := ⟨R.ADC_STAT, 10, 1, .ro, .any⟩
def F.ADC_STAT_UPEND : Fld := ⟨R.ADC_STAT, 11, 1, .ro, .any⟩
def F.ADC_STAT_NPEND : Fld := ⟨R.ADC_STAT, 12, 1, .ro, .any⟩
/-- R362 (08_acquisition.md). -/
def R.ADC_START : Reg := ⟨0x1B0008, 4, 4096, 1, 0⟩
def F.ADC_START_START : Fld := ⟨R.ADC_START, 0, 1, .wo, .any⟩
def F.ADC_START_USTART : Fld := ⟨R.ADC_START, 1, 1, .wo, .any⟩
/-- R363 (08_acquisition.md). -/
def R.ADC_EVT : Reg := ⟨0x1B000C, 4, 4096, 1, 0⟩
def F.ADC_EVT_SEQ_END : Fld := ⟨R.ADC_EVT, 0, 1, .w1c, .any⟩
def F.ADC_EVT_USEQ_END : Fld := ⟨R.ADC_EVT, 1, 1, .w1c, .any⟩
def F.ADC_EVT_TLOST : Fld := ⟨R.ADC_EVT, 2, 1, .w1c, .any⟩
def F.ADC_EVT_CHK_DONE : Fld := ⟨R.ADC_EVT, 3, 1, .w1c, .any⟩
/-- R363 (08_acquisition.md). -/
def R.ADC_IEN : Reg := ⟨0x1B0010, 4, 4096, 1, 0⟩
def F.ADC_IEN_SEQ_END : Fld := ⟨R.ADC_IEN, 0, 1, .rw, .any⟩
def F.ADC_IEN_USEQ_END : Fld := ⟨R.ADC_IEN, 1, 1, .rw, .any⟩
def F.ADC_IEN_TLOST : Fld := ⟨R.ADC_IEN, 2, 1, .rw, .any⟩
def F.ADC_IEN_CHK_DONE : Fld := ⟨R.ADC_IEN, 3, 1, .rw, .any⟩
/-- R364 (08_acquisition.md). -/
def R.ADC_FLT : Reg := ⟨0x1B0014, 4, 4096, 1, 0⟩
def F.ADC_FLT_OVR : Fld := ⟨R.ADC_FLT, 0, 1, .w1c, .any⟩
def F.ADC_FLT_SUSPECT : Fld := ⟨R.ADC_FLT, 1, 1, .w1c, .any⟩
def F.ADC_FLT_INJ : Fld := ⟨R.ADC_FLT, 2, 1, .w1c, .any⟩
def F.ADC_FLT_PL_DIFF : Fld := ⟨R.ADC_FLT, 3, 1, .w1c, .any⟩
def F.ADC_FLT_PL_ABS : Fld := ⟨R.ADC_FLT, 4, 1, .w1c, .any⟩
def F.ADC_FLT_PL_STARVED : Fld := ⟨R.ADC_FLT, 5, 1, .w1c, .any⟩
/-- R364 (08_acquisition.md). -/
def R.ADC_FIEN : Reg := ⟨0x1B0018, 4, 4096, 1, 0⟩
def F.ADC_FIEN_OVR : Fld := ⟨R.ADC_FIEN, 0, 1, .rw, .any⟩
def F.ADC_FIEN_SUSPECT : Fld := ⟨R.ADC_FIEN, 1, 1, .rw, .any⟩
def F.ADC_FIEN_INJ : Fld := ⟨R.ADC_FIEN, 2, 1, .rw, .any⟩
def F.ADC_FIEN_PL_DIFF : Fld := ⟨R.ADC_FIEN, 3, 1, .rw, .any⟩
def F.ADC_FIEN_PL_ABS : Fld := ⟨R.ADC_FIEN, 4, 1, .rw, .any⟩
def F.ADC_FIEN_PL_STARVED : Fld := ⟨R.ADC_FIEN, 5, 1, .rw, .any⟩
/-- R365 (08_acquisition.md). -/
def R.ADC_CNT : Reg := ⟨0x1B001C, 4, 4096, 1, 0⟩
def F.ADC_CNT_PREEMPT : Fld := ⟨R.ADC_CNT, 0, 16, .rcl, .any⟩
def F.ADC_CNT_TLOST : Fld := ⟨R.ADC_CNT, 16, 16, .rcl, .any⟩
/-- R365 (08_acquisition.md). -/
def R.ADC_CNT2 : Reg := ⟨0x1B0020, 4, 4096, 1, 0⟩
def F.ADC_CNT2_DISC : Fld := ⟨R.ADC_CNT2, 0, 16, .rcl, .any⟩
def F.ADC_CNT2_SUS : Fld := ⟨R.ADC_CNT2, 16, 16, .rcl, .any⟩
/-- R366 (08_acquisition.md). -/
def R.ADC_OVR_LAST : Reg := ⟨0x1B0024, 4, 4096, 1, 0⟩
def F.ADC_OVR_LAST_PIN : Fld := ⟨R.ADC_OVR_LAST, 0, 4, .ro, .any⟩
def F.ADC_OVR_LAST_ENTRY : Fld := ⟨R.ADC_OVR_LAST, 4, 4, .ro, .any⟩
def F.ADC_OVR_LAST_URGENT : Fld := ⟨R.ADC_OVR_LAST, 8, 1, .ro, .any⟩
def F.ADC_OVR_LAST_HIGH : Fld := ⟨R.ADC_OVR_LAST, 9, 1, .ro, .any⟩
def F.ADC_OVR_LAST_VALID : Fld := ⟨R.ADC_OVR_LAST, 16, 1, .w1c, .any⟩
/-- R367 (08_acquisition.md). -/
def R.ADC_PIN : Reg := ⟨0x1B0040, 4, 4096, 16, 4⟩
def F.ADC_PIN_MODE : Fld := ⟨R.ADC_PIN, 0, 3, .rw, .range 0 4⟩
def F.ADC_PIN_CURVE : Fld := ⟨R.ADC_PIN, 4, 3, .rw, .any⟩
def F.ADC_PIN_RSH : Fld := ⟨R.ADC_PIN, 16, 16, .rw, .range 1 65535⟩
/-- R368 (08_acquisition.md). -/
def R.ADC_ENT : Reg := ⟨0x1B0100, 4, 4096, 16, 4⟩
def F.ADC_ENT_PIN : Fld := ⟨R.ADC_ENT, 0, 4, .rw, .any⟩
def F.ADC_ENT_GAIN : Fld := ⟨R.ADC_ENT, 4, 3, .rw, .range 0 4⟩
def F.ADC_ENT_SMP : Fld := ⟨R.ADC_ENT, 8, 8, .rw, .any⟩
def F.ADC_ENT_CONV : Fld := ⟨R.ADC_ENT, 16, 4, .rw, .any⟩
def F.ADC_ENT_SNAPDIV : Fld := ⟨R.ADC_ENT, 24, 8, .rw, .range 1 255⟩
/-- R368 (08_acquisition.md). -/
def R.ADC_UENT : Reg := ⟨0x1B0140, 4, 4096, 4, 4⟩
def F.ADC_UENT_PIN : Fld := ⟨R.ADC_UENT, 0, 4, .rw, .any⟩
def F.ADC_UENT_GAIN : Fld := ⟨R.ADC_UENT, 4, 3, .rw, .range 0 4⟩
def F.ADC_UENT_SMP : Fld := ⟨R.ADC_UENT, 8, 8, .rw, .any⟩
def F.ADC_UENT_CONV : Fld := ⟨R.ADC_UENT, 16, 4, .rw, .any⟩
def F.ADC_UENT_SNAPDIV : Fld := ⟨R.ADC_UENT, 24, 8, .rw, .range 1 255⟩
/-- R369 (08_acquisition.md). -/
def R.ADC_CHK_CFG : Reg := ⟨0x1B4000, 2, 16, 1, 0⟩
def F.ADC_CHK_CFG_TOL : Fld := ⟨R.ADC_CHK_CFG, 0, 8, .rw, .range 1 255⟩
def F.ADC_CHK_CFG_PER : Fld := ⟨R.ADC_CHK_CFG, 16, 8, .rw, .range 1 255⟩
def F.ADC_CHK_CFG_EN : Fld := ⟨R.ADC_CHK_CFG, 31, 1, .rw, .any⟩
/-- R369 (08_acquisition.md). -/
def R.ADC_CHK_WIN : Reg := ⟨0x1B4004, 2, 16, 1, 0⟩
def F.ADC_CHK_WIN_WIN : Fld := ⟨R.ADC_CHK_WIN, 0, 10, .rw, .range 1 1000⟩
def F.ADC_CHK_WIN_EXP : Fld := ⟨R.ADC_CHK_WIN, 16, 12, .rw, .range 250 2250⟩
/-- R369 (08_acquisition.md). -/
def R.ADC_CHK_STAT : Reg := ⟨0x1B4008, 2, 16, 1, 0⟩
def F.ADC_CHK_STAT_V_ODD : Fld := ⟨R.ADC_CHK_STAT, 0, 16, .ro, .any⟩
def F.ADC_CHK_STAT_V_EVEN : Fld := ⟨R.ADC_CHK_STAT, 16, 16, .ro, .any⟩
/-- R369 (08_acquisition.md). -/
def R.ADC_CHK_CNT : Reg := ⟨0x1B400C, 2, 16, 1, 0⟩
def F.ADC_CHK_CNT_RUN : Fld := ⟨R.ADC_CHK_CNT, 0, 5, .ro, .any⟩
def F.ADC_CHK_CNT_SKIPS : Fld := ⟨R.ADC_CHK_CNT, 8, 8, .rcl, .any⟩
def F.ADC_CHK_CNT_CHECKS : Fld := ⟨R.ADC_CHK_CNT, 16, 16, .rcl, .any⟩
/-- R370 (08_acquisition.md). -/
def R.ADC_TMR : Reg := ⟨0x1B4100, 4, 4, 1, 0⟩
def F.ADC_TMR_PERIOD : Fld := ⟨R.ADC_TMR, 0, 20, .rw, .range 10 1048575⟩
def F.ADC_TMR_EN : Fld := ⟨R.ADC_TMR, 31, 1, .rw, .any⟩
/-- R371 (08_acquisition.md). -/
def R.ADC_NTC_R : Reg := ⟨0x1B4200, 8, 8, 1, 0⟩
def F.ADC_NTC_R_RNOM : Fld := ⟨R.ADC_NTC_R, 0, 32, .rw, .frange 0x42C80000 0x49742400⟩
/-- R371 (08_acquisition.md). -/
def R.ADC_NTC_B : Reg := ⟨0x1B4204, 8, 8, 1, 0⟩
def F.ADC_NTC_B_B : Fld := ⟨R.ADC_NTC_B, 0, 32, .rw, .frange 0x447A0000 0x45BB8000⟩
/-- R372 (08_acquisition.md). -/
def R.ADC_INJ_LO : Reg := ⟨0x1B4300, 1, 0, 1, 0⟩
def F.ADC_INJ_LO_INJ : Fld := ⟨R.ADC_INJ_LO, 0, 32, .ro, .any⟩
/-- R372 (08_acquisition.md). -/
def R.ADC_INJ_HI : Reg := ⟨0x1B4304, 1, 0, 1, 0⟩
def F.ADC_INJ_HI_INJ : Fld := ⟨R.ADC_INJ_HI, 0, 32, .ro, .any⟩
/-- R397 (09_fans.md). -/
def R.FAN_CFG : Reg := ⟨0x1A0000, 32, 64, 1, 0⟩
def F.FAN_CFG_PPR : Fld := ⟨R.FAN_CFG, 20, 2, .rw, .any⟩
def F.FAN_CFG_ROOM_EN : Fld := ⟨R.FAN_CFG, 23, 1, .rw, .any⟩
def F.FAN_CFG_TBL : Fld := ⟨R.FAN_CFG, 24, 4, .rw, .any⟩
def F.FAN_CFG_SUP_CMD : Fld := ⟨R.FAN_CFG, 28, 1, .rw, .any⟩
def F.FAN_CFG_SUP_HOST : Fld := ⟨R.FAN_CFG, 29, 1, .rw, .any⟩
def F.FAN_CFG_CLASS : Fld := ⟨R.FAN_CFG, 30, 1, .rw, .any⟩
def F.FAN_CFG_EN : Fld := ⟨R.FAN_CFG, 31, 1, .rw, .any⟩
/-- R398 (09_fans.md). -/
def R.FAN_CMD : Reg := ⟨0x1A0004, 32, 64, 1, 0⟩
def F.FAN_CMD_POINT : Fld := ⟨R.FAN_CMD, 0, 15, .rw, .any⟩
def F.FAN_CMD_LOOP_BOUND : Fld := ⟨R.FAN_CMD, 31, 1, .ro, .any⟩
/-- R399 (09_fans.md). -/
def R.FAN_LIM : Reg := ⟨0x1A0008, 32, 64, 1, 0⟩
def F.FAN_LIM_SUP_DUTY : Fld := ⟨R.FAN_LIM, 0, 10, .rw, .any⟩
def F.FAN_LIM_DMIN : Fld := ⟨R.FAN_LIM, 16, 10, .rw, .any⟩
/-- R400 (09_fans.md). -/
def R.FAN_TSUP : Reg := ⟨0x1A000C, 32, 64, 1, 0⟩
def F.FAN_TSUP_KICK_TO : Fld := ⟨R.FAN_TSUP, 0, 4, .rw, .any⟩
def F.FAN_TSUP_SETTLE : Fld := ⟨R.FAN_TSUP, 4, 4, .rw, .any⟩
def F.FAN_TSUP_FT_TIME : Fld := ⟨R.FAN_TSUP, 8, 8, .rw, .range 1 255⟩
def F.FAN_TSUP_SPD_MIN : Fld := ⟨R.FAN_TSUP, 16, 16, .rw, .range 1 65535⟩
/-- R401 (09_fans.md). -/
def R.FAN_SUPT : Reg := ⟨0x1A0010, 32, 64, 1, 0⟩
def F.FAN_SUPT_SUP_TIME : Fld := ⟨R.FAN_SUPT, 0, 16, .rw, .range 1 65535⟩
/-- R402 (09_fans.md). -/
def R.FAN_STAT : Reg := ⟨0x1A0014, 32, 64, 1, 0⟩
def F.FAN_STAT_STATE : Fld := ⟨R.FAN_STAT, 0, 3, .ro, .any⟩
def F.FAN_STAT_SRC : Fld := ⟨R.FAN_STAT, 4, 3, .ro, .any⟩
def F.FAN_STAT_BURROW : Fld := ⟨R.FAN_STAT, 8, 1, .ro, .any⟩
def F.FAN_STAT_SUPLOST : Fld := ⟨R.FAN_STAT, 9, 1, .ro, .any⟩
def F.FAN_STAT_ROOMFAIL : Fld := ⟨R.FAN_STAT, 10, 1, .ro, .any⟩
def F.FAN_STAT_DUTY : Fld := ⟨R.FAN_STAT, 16, 10, .ro, .any⟩
/-- R403 (09_fans.md). -/
def R.FAN_TACH : Reg := ⟨0x1A0018, 32, 64, 1, 0⟩
def F.FAN_TACH_PERIOD : Fld := ⟨R.FAN_TACH, 0, 20, .ro, .any⟩
/-- R403 (09_fans.md). -/
def R.FAN_SPEED : Reg := ⟨0x1A001C, 32, 64, 1, 0⟩
def F.FAN_SPEED_SPEED : Fld := ⟨R.FAN_SPEED, 0, 16, .ro, .any⟩
/-- R404 (09_fans.md). -/
def R.FAN_FLT : Reg := ⟨0x1A0020, 32, 64, 1, 0⟩
def F.FAN_FLT_TACH : Fld := ⟨R.FAN_FLT, 0, 1, .w1c, .any⟩
def F.FAN_FLT_KICK : Fld := ⟨R.FAN_FLT, 1, 1, .w1c, .any⟩
/-- R405 (09_fans.md). -/
def R.FAN_EVT : Reg := ⟨0x1A0024, 32, 64, 1, 0⟩
def F.FAN_EVT_FAULT : Fld := ⟨R.FAN_EVT, 0, 1, .w1c, .any⟩
def F.FAN_EVT_KICK_END : Fld := ⟨R.FAN_EVT, 1, 1, .w1c, .any⟩
def F.FAN_EVT_MODE : Fld := ⟨R.FAN_EVT, 2, 1, .w1c, .any⟩
/-- R405 (09_fans.md). -/
def R.FAN_IEN : Reg := ⟨0x1A0028, 32, 64, 1, 0⟩
def F.FAN_IEN_FAULT : Fld := ⟨R.FAN_IEN, 0, 1, .rw, .any⟩
def F.FAN_IEN_KICK_END : Fld := ⟨R.FAN_IEN, 1, 1, .rw, .any⟩
def F.FAN_IEN_MODE : Fld := ⟨R.FAN_IEN, 2, 1, .rw, .any⟩
/-- R406 (09_fans.md). -/
def R.FAN_CNT : Reg := ⟨0x1A002C, 32, 64, 1, 0⟩
def F.FAN_CNT_KICKS : Fld := ⟨R.FAN_CNT, 0, 16, .rcl, .any⟩
def F.FAN_CNT_FAULTS : Fld := ⟨R.FAN_CNT, 16, 16, .rcl, .any⟩
/-- R407 (09_fans.md). -/
def R.FAN_GCFG : Reg := ⟨0x1A1000, 4, 32, 1, 0⟩
def F.FAN_GCFG_FREQ : Fld := ⟨R.FAN_GCFG, 0, 15, .rw, .range 1000 30000⟩
def F.FAN_GCFG_WATCH : Fld := ⟨R.FAN_GCFG, 16, 8, .rw, .range 1 255⟩
/-- R407 (09_fans.md). -/
def R.FAN_GTRIG : Reg := ⟨0x1A1004, 4, 32, 1, 0⟩
def F.FAN_GTRIG_TDLY : Fld := ⟨R.FAN_GTRIG, 0, 8, .rw, .any⟩
def F.FAN_GTRIG_TDIV : Fld := ⟨R.FAN_GTRIG, 8, 8, .rw, .any⟩
def F.FAN_GTRIG_TCH : Fld := ⟨R.FAN_GTRIG, 16, 3, .rw, .any⟩
def F.FAN_GTRIG_EN : Fld := ⟨R.FAN_GTRIG, 31, 1, .rw, .any⟩
/-- R408 (09_fans.md). -/
def R.FAN_GCMD : Reg := ⟨0x1A1008, 4, 32, 1, 0⟩
def F.FAN_GCMD_TTIME : Fld := ⟨R.FAN_GCMD, 0, 8, .wo, .any⟩
def F.FAN_GCMD_TDUTY : Fld := ⟨R.FAN_GCMD, 16, 10, .wo, .any⟩
def F.FAN_GCMD_TEST : Fld := ⟨R.FAN_GCMD, 31, 1, .wo, .any⟩
/-- R409 (09_fans.md). -/
def R.FAN_GSTAT : Reg := ⟨0x1A100C, 4, 32, 1, 0⟩
def F.FAN_GSTAT_TEST_FAIL : Fld := ⟨R.FAN_GSTAT, 0, 8, .ro, .any⟩
def F.FAN_GSTAT_TEST_PASS : Fld := ⟨R.FAN_GSTAT, 8, 8, .ro, .any⟩
def F.FAN_GSTAT_FAILOVER : Fld := ⟨R.FAN_GSTAT, 28, 1, .ro, .any⟩
def F.FAN_GSTAT_WCAUSE : Fld := ⟨R.FAN_GSTAT, 29, 2, .ro, .any⟩
def F.FAN_GSTAT_WATCH : Fld := ⟨R.FAN_GSTAT, 31, 1, .ro, .any⟩
/-- R410 (09_fans.md). -/
def R.FAN_GEVT : Reg := ⟨0x1A1010, 4, 32, 1, 0⟩
def F.FAN_GEVT_TEST_END : Fld := ⟨R.FAN_GEVT, 0, 1, .w1c, .any⟩
def F.FAN_GEVT_FAILOVER : Fld := ⟨R.FAN_GEVT, 1, 1, .w1c, .any⟩
/-- R410 (09_fans.md). -/
def R.FAN_GIEN : Reg := ⟨0x1A1014, 4, 32, 1, 0⟩
def F.FAN_GIEN_TEST_END : Fld := ⟨R.FAN_GIEN, 0, 1, .rw, .any⟩
def F.FAN_GIEN_FAILOVER : Fld := ⟨R.FAN_GIEN, 1, 1, .rw, .any⟩
/-- R411 (09_fans.md). -/
def R.FAN_BT_PT : Reg := ⟨0x1A2000, 16, 64, 8, 4⟩
def F.FAN_BT_PT_D : Fld := ⟨R.FAN_BT_PT, 0, 10, .rw, .range 0 1000⟩
def F.FAN_BT_PT_X : Fld := ⟨R.FAN_BT_PT, 16, 16, .rw, .any⟩
/-- R411 (09_fans.md). -/
def R.FAN_BT_SRC : Reg := ⟨0x1A2020, 16, 64, 1, 0⟩
def F.FAN_BT_SRC_ENTRY : Fld := ⟨R.FAN_BT_SRC, 0, 4, .rw, .any⟩
def F.FAN_BT_SRC_ADC : Fld := ⟨R.FAN_BT_SRC, 4, 2, .rw, .any⟩
def F.FAN_BT_SRC_URGENT : Fld := ⟨R.FAN_BT_SRC, 6, 1, .rw, .any⟩
def F.FAN_BT_SRC_FAILD : Fld := ⟨R.FAN_BT_SRC, 16, 10, .rw, .range 0 1000⟩
def F.FAN_BT_SRC_EN : Fld := ⟨R.FAN_BT_SRC, 31, 1, .rw, .any⟩
/-- R411 (09_fans.md). -/
def R.FAN_BT_IN : Reg := ⟨0x1A2024, 16, 64, 1, 0⟩
def F.FAN_BT_IN_X : Fld := ⟨R.FAN_BT_IN, 0, 16, .ro, .any⟩
def F.FAN_BT_IN_VALID : Fld := ⟨R.FAN_BT_IN, 31, 1, .ro, .any⟩
/-- R412 (09_fans.md). -/
def R.FAN_GUARD : Reg := ⟨0x1A3000, 1, 0, 1, 0⟩
def F.FAN_GUARD_TCRIT : Fld := ⟨R.FAN_GUARD, 0, 3, .ro, .any⟩
def F.FAN_GUARD_THR : Fld := ⟨R.FAN_GUARD, 8, 8, .ro, .any⟩
def F.FAN_GUARD_PIN : Fld := ⟨R.FAN_GUARD, 30, 1, .ro, .any⟩
def F.FAN_GUARD_TRIP : Fld := ⟨R.FAN_GUARD, 31, 1, .ro, .any⟩
/-- R412 (09_fans.md). -/
def R.FAN_GUARD_T0 : Reg := ⟨0x1A3004, 1, 0, 1, 0⟩
def F.FAN_GUARD_T0_TS0 : Fld := ⟨R.FAN_GUARD_T0, 0, 16, .ro, .any⟩
def F.FAN_GUARD_T0_TS1 : Fld := ⟨R.FAN_GUARD_T0, 16, 16, .ro, .any⟩
/-- R412 (09_fans.md). -/
def R.FAN_GUARD_T1 : Reg := ⟨0x1A3008, 1, 0, 1, 0⟩
def F.FAN_GUARD_T1_TG : Fld := ⟨R.FAN_GUARD_T1, 0, 16, .ro, .any⟩
/-- R413 (09_fans.md). -/
def R.FAN_GUARD_FLT : Reg := ⟨0x1A300C, 1, 0, 1, 0⟩
def F.FAN_GUARD_FLT_TRIPPED : Fld := ⟨R.FAN_GUARD_FLT, 0, 1, .w1c, .any⟩
def F.FAN_GUARD_FLT_SENSE_DIFF : Fld := ⟨R.FAN_GUARD_FLT, 1, 1, .w1c, .any⟩
def F.FAN_GUARD_FLT_TG_OPEN : Fld := ⟨R.FAN_GUARD_FLT, 2, 1, .w1c, .any⟩
/-- R413 (09_fans.md). -/
def R.FAN_GUARD_CNT : Reg := ⟨0x1A3010, 1, 0, 1, 0⟩
def F.FAN_GUARD_CNT_TRIPS : Fld := ⟨R.FAN_GUARD_CNT, 0, 16, .rcl, .any⟩
/-- R434 (10_field_io.md). -/
def R.DI_CFG : Reg := ⟨0x1C0000, 64, 32, 1, 0⟩
def F.DI_CFG_DEB : Fld := ⟨R.DI_CFG, 0, 8, .rw, .any⟩
def F.DI_CFG_CEDGE : Fld := ⟨R.DI_CFG, 16, 2, .rw, .range 0 2⟩
def F.DI_CFG_INV : Fld := ⟨R.DI_CFG, 20, 1, .rw, .any⟩
def F.DI_CFG_WET : Fld := ⟨R.DI_CFG, 24, 2, .rw, .any⟩
def F.DI_CFG_EN : Fld := ⟨R.DI_CFG, 31, 1, .rw, .any⟩
/-- R435 (10_field_io.md). -/
def R.DI_STAT : Reg := ⟨0x1C0004, 64, 32, 1, 0⟩
def F.DI_STAT_STATE : Fld := ⟨R.DI_STAT, 0, 1, .ro, .any⟩
def F.DI_STAT_RAW : Fld := ⟨R.DI_STAT, 1, 1, .ro, .any⟩
/-- R435 (10_field_io.md). -/
def R.DI_CNT : Reg := ⟨0x1C0008, 64, 32, 1, 0⟩
def F.DI_CNT_COUNT : Fld := ⟨R.DI_CNT, 0, 32, .ro, .any⟩
/-- R435 (10_field_io.md). -/
def R.DI_CNTSET : Reg := ⟨0x1C000C, 64, 32, 1, 0⟩
def F.DI_CNTSET_VALUE : Fld := ⟨R.DI_CNTSET, 0, 32, .wo, .any⟩
/-- R436 (10_field_io.md). -/
def R.DI_EVT : Reg := ⟨0x1C0010, 64, 32, 1, 0⟩
def F.DI_EVT_RISE : Fld := ⟨R.DI_EVT, 0, 1, .w1c, .any⟩
def F.DI_EVT_FALL : Fld := ⟨R.DI_EVT, 1, 1, .w1c, .any⟩
/-- R436 (10_field_io.md). -/
def R.DI_IEN : Reg := ⟨0x1C0014, 64, 32, 1, 0⟩
def F.DI_IEN_RISE : Fld := ⟨R.DI_IEN, 0, 1, .rw, .any⟩
def F.DI_IEN_FALL : Fld := ⟨R.DI_IEN, 1, 1, .rw, .any⟩
/-- R437 (10_field_io.md). -/
def R.DO_CFG : Reg := ⟨0x1C1000, 32, 32, 1, 0⟩
def F.DO_CFG_OL_EN : Fld := ⟨R.DO_CFG, 0, 1, .rw, .any⟩
def F.DO_CFG_EN : Fld := ⟨R.DO_CFG, 31, 1, .rw, .any⟩
/-- R437 (10_field_io.md). -/
def R.DO_CMD : Reg := ⟨0x1C1004, 32, 32, 1, 0⟩
def F.DO_CMD_POINT : Fld := ⟨R.DO_CMD, 0, 15, .rw, .any⟩
def F.DO_CMD_LOOP_BOUND : Fld := ⟨R.DO_CMD, 31, 1, .ro, .any⟩
/-- R437 (10_field_io.md). -/
def R.AO_CMD : Reg := ⟨0x1C2004, 16, 32, 1, 0⟩
def F.AO_CMD_POINT : Fld := ⟨R.AO_CMD, 0, 15, .rw, .any⟩
def F.AO_CMD_LOOP_BOUND : Fld := ⟨R.AO_CMD, 31, 1, .ro, .any⟩
/-- R438 (10_field_io.md). -/
def R.DO_TIME : Reg := ⟨0x1C1008, 32, 32, 1, 0⟩
def F.DO_TIME_MIN_ON : Fld := ⟨R.DO_TIME, 0, 16, .rw, .any⟩
def F.DO_TIME_MIN_OFF : Fld := ⟨R.DO_TIME, 16, 16, .rw, .any⟩
/-- R438 (10_field_io.md). -/
def R.DO_STAT : Reg := ⟨0x1C100C, 32, 32, 1, 0⟩
def F.DO_STAT_OUT : Fld := ⟨R.DO_STAT, 0, 1, .ro, .any⟩
def F.DO_STAT_CMD : Fld := ⟨R.DO_STAT, 1, 1, .ro, .any⟩
def F.DO_STAT_OPENLOAD : Fld := ⟨R.DO_STAT, 4, 1, .ro, .any⟩
def F.DO_STAT_PEND : Fld := ⟨R.DO_STAT, 8, 1, .ro, .any⟩
/-- R439 (10_field_io.md). -/
def R.DO_FLT : Reg := ⟨0x1C1010, 32, 32, 1, 0⟩
def F.DO_FLT_OVC : Fld := ⟨R.DO_FLT, 0, 1, .w1c, .any⟩
def F.DO_FLT_THERM : Fld := ⟨R.DO_FLT, 1, 1, .w1c, .any⟩
/-- R440 (10_field_io.md). -/
def R.AO_CFG : Reg := ⟨0x1C2000, 16, 32, 1, 0⟩
def F.AO_CFG_SLEW : Fld := ⟨R.AO_CFG, 0, 16, .rw, .range 0 10000⟩
def F.AO_CFG_EN : Fld := ⟨R.AO_CFG, 31, 1, .rw, .any⟩
/-- R440 (10_field_io.md). -/
def R.AO_STAT : Reg := ⟨0x1C2008, 16, 32, 1, 0⟩
def F.AO_STAT_VOUT : Fld := ⟨R.AO_STAT, 0, 16, .ro, .any⟩
def F.AO_STAT_CODE : Fld := ⟨R.AO_STAT, 16, 12, .ro, .any⟩
/-- R440 (10_field_io.md). -/
def R.AO_FLT : Reg := ⟨0x1C200C, 16, 32, 1, 0⟩
def F.AO_FLT_OVL : Fld := ⟨R.AO_FLT, 0, 1, .w1c, .any⟩
/-- R441 (10_field_io.md). -/
def R.FIO_GSTAT : Reg := ⟨0x1C3000, 1, 0, 1, 0⟩
def F.FIO_GSTAT_VFIELD : Fld := ⟨R.FIO_GSTAT, 0, 16, .ro, .any⟩
def F.FIO_GSTAT_VF_LOW : Fld := ⟨R.FIO_GSTAT, 16, 1, .ro, .any⟩
/-- R441 (10_field_io.md). -/
def R.FIO_DI_LO : Reg := ⟨0x1C3004, 1, 0, 1, 0⟩
def F.FIO_DI_LO_STATE : Fld := ⟨R.FIO_DI_LO, 0, 32, .ro, .any⟩
/-- R441 (10_field_io.md). -/
def R.FIO_DI_HI : Reg := ⟨0x1C3008, 1, 0, 1, 0⟩
def F.FIO_DI_HI_STATE : Fld := ⟨R.FIO_DI_HI, 0, 32, .ro, .any⟩
/-- R441 (10_field_io.md). -/
def R.FIO_DO : Reg := ⟨0x1C300C, 1, 0, 1, 0⟩
def F.FIO_DO_OUT : Fld := ⟨R.FIO_DO, 0, 32, .ro, .any⟩
/-- R441 (10_field_io.md). -/
def R.FIO_DOFLT : Reg := ⟨0x1C3010, 1, 0, 1, 0⟩
def F.FIO_DOFLT_FAULT : Fld := ⟨R.FIO_DOFLT, 0, 32, .ro, .any⟩
/-- R441 (10_field_io.md). -/
def R.FIO_AOFLT : Reg := ⟨0x1C3014, 1, 0, 1, 0⟩
def F.FIO_AOFLT_FAULT : Fld := ⟨R.FIO_AOFLT, 0, 32, .ro, .any⟩
/-- R477 (11_zone_bus.md). -/
def R.ZB_CTRL : Reg := ⟨0x1D0000, 16, 4096, 1, 0⟩
def F.ZB_CTRL_RUNMODE : Fld := ⟨R.ZB_CTRL, 23, 2, .rw, .any⟩
def F.ZB_CTRL_STBY : Fld := ⟨R.ZB_CTRL, 25, 1, .rw, .any⟩
def F.ZB_CTRL_TSMP : Fld := ⟨R.ZB_CTRL, 26, 1, .rw, .any⟩
def F.ZB_CTRL_PXD : Fld := ⟨R.ZB_CTRL, 27, 1, .rw, .any⟩
def F.ZB_CTRL_ABO : Fld := ⟨R.ZB_CTRL, 28, 1, .rw, .any⟩
def F.ZB_CTRL_FDOE : Fld := ⟨R.ZB_CTRL, 29, 1, .rw, .any⟩
def F.ZB_CTRL_MODE : Fld := ⟨R.ZB_CTRL, 30, 2, .rw, .any⟩
/-- R478 (11_zone_bus.md). -/
def R.ZB_NBT : Reg := ⟨0x1D0004, 16, 4096, 1, 0⟩
def F.ZB_NBT_NSJW : Fld := ⟨R.ZB_NBT, 0, 7, .rw, .any⟩
def F.ZB_NBT_NTSEG2 : Fld := ⟨R.ZB_NBT, 8, 7, .rw, .any⟩
def F.ZB_NBT_NTSEG1 : Fld := ⟨R.ZB_NBT, 16, 8, .rw, .any⟩
def F.ZB_NBT_NBRP : Fld := ⟨R.ZB_NBT, 24, 8, .rw, .any⟩
/-- R478 (11_zone_bus.md). -/
def R.ZB_DBT : Reg := ⟨0x1D0008, 16, 4096, 1, 0⟩
def F.ZB_DBT_DSJW : Fld := ⟨R.ZB_DBT, 0, 4, .rw, .any⟩
def F.ZB_DBT_DTSEG2 : Fld := ⟨R.ZB_DBT, 8, 4, .rw, .any⟩
def F.ZB_DBT_DTSEG1 : Fld := ⟨R.ZB_DBT, 16, 5, .rw, .any⟩
def F.ZB_DBT_DBRP : Fld := ⟨R.ZB_DBT, 24, 5, .rw, .any⟩
/-- R478 (11_zone_bus.md). -/
def R.ZB_TDC : Reg := ⟨0x1D000C, 16, 4096, 1, 0⟩
def F.ZB_TDC_TDCO : Fld := ⟨R.ZB_TDC, 0, 7, .rw, .any⟩
def F.ZB_TDC_TDCV : Fld := ⟨R.ZB_TDC, 16, 7, .ro, .any⟩
def F.ZB_TDC_TDCE : Fld := ⟨R.ZB_TDC, 31, 1, .rw, .any⟩
/-- R479 (11_zone_bus.md). -/
def R.ZB_STAT : Reg := ⟨0x1D0010, 16, 4096, 1, 0⟩
def F.ZB_STAT_FCS : Fld := ⟨R.ZB_STAT, 0, 2, .ro, .any⟩
def F.ZB_STAT_BUSINT : Fld := ⟨R.ZB_STAT, 2, 1, .ro, .any⟩
def F.ZB_STAT_PXE : Fld := ⟨R.ZB_STAT, 3, 1, .ro, .any⟩
def F.ZB_STAT_ACTIVE : Fld := ⟨R.ZB_STAT, 4, 2, .ro, .any⟩
/-- R479 (11_zone_bus.md). -/
def R.ZB_ERRCNT : Reg := ⟨0x1D0014, 16, 4096, 1, 0⟩
def F.ZB_ERRCNT_TEC : Fld := ⟨R.ZB_ERRCNT, 0, 9, .ro, .any⟩
def F.ZB_ERRCNT_REC : Fld := ⟨R.ZB_ERRCNT, 16, 7, .ro, .any⟩
def F.ZB_ERRCNT_RP : Fld := ⟨R.ZB_ERRCNT, 24, 1, .ro, .any⟩
/-- R479 (11_zone_bus.md). -/
def R.ZB_CMD : Reg := ⟨0x1D0030, 16, 4096, 1, 0⟩
def F.ZB_CMD_RECOVER : Fld := ⟨R.ZB_CMD, 0, 1, .wo, .any⟩
/-- R480 (11_zone_bus.md). -/
def R.ZB_EVT : Reg := ⟨0x1D0018, 16, 4096, 1, 0⟩
def F.ZB_EVT_RX : Fld := ⟨R.ZB_EVT, 0, 1, .w1c, .any⟩
def F.ZB_EVT_TXDONE : Fld := ⟨R.ZB_EVT, 1, 1, .w1c, .any⟩
def F.ZB_EVT_TXFAIL : Fld := ⟨R.ZB_EVT, 2, 1, .w1c, .any⟩
def F.ZB_EVT_EPASS : Fld := ⟨R.ZB_EVT, 3, 1, .w1c, .any⟩
def F.ZB_EVT_BUSOFF : Fld := ⟨R.ZB_EVT, 4, 1, .w1c, .any⟩
def F.ZB_EVT_BUSON : Fld := ⟨R.ZB_EVT, 5, 1, .w1c, .any⟩
def F.ZB_EVT_PXE : Fld := ⟨R.ZB_EVT, 6, 1, .w1c, .any⟩
def F.ZB_EVT_LATE : Fld := ⟨R.ZB_EVT, 7, 1, .w1c, .any⟩
def F.ZB_EVT_NODE : Fld := ⟨R.ZB_EVT, 8, 1, .w1c, .any⟩
def F.ZB_EVT_UNKNOWN : Fld := ⟨R.ZB_EVT, 9, 1, .w1c, .any⟩
def F.ZB_EVT_PWR : Fld := ⟨R.ZB_EVT, 10, 1, .w1c, .any⟩
def F.ZB_EVT_MSGLOST : Fld := ⟨R.ZB_EVT, 11, 1, .w1c, .any⟩
/-- R480 (11_zone_bus.md). -/
def R.ZB_IEN : Reg := ⟨0x1D001C, 16, 4096, 1, 0⟩
def F.ZB_IEN_RX : Fld := ⟨R.ZB_IEN, 0, 1, .rw, .any⟩
def F.ZB_IEN_TXDONE : Fld := ⟨R.ZB_IEN, 1, 1, .rw, .any⟩
def F.ZB_IEN_TXFAIL : Fld := ⟨R.ZB_IEN, 2, 1, .rw, .any⟩
def F.ZB_IEN_EPASS : Fld := ⟨R.ZB_IEN, 3, 1, .rw, .any⟩
def F.ZB_IEN_BUSOFF : Fld := ⟨R.ZB_IEN, 4, 1, .rw, .any⟩
def F.ZB_IEN_BUSON : Fld := ⟨R.ZB_IEN, 5, 1, .rw, .any⟩
def F.ZB_IEN_PXE : Fld := ⟨R.ZB_IEN, 6, 1, .rw, .any⟩
def F.ZB_IEN_LATE : Fld := ⟨R.ZB_IEN, 7, 1, .rw, .any⟩
def F.ZB_IEN_NODE : Fld := ⟨R.ZB_IEN, 8, 1, .rw, .any⟩
def F.ZB_IEN_UNKNOWN : Fld := ⟨R.ZB_IEN, 9, 1, .rw, .any⟩
def F.ZB_IEN_PWR : Fld := ⟨R.ZB_IEN, 10, 1, .rw, .any⟩
def F.ZB_IEN_MSGLOST : Fld := ⟨R.ZB_IEN, 11, 1, .rw, .any⟩
/-- R481 (11_zone_bus.md). -/
def R.ZB_CNT : Reg := ⟨0x1D0020, 16, 4096, 1, 0⟩
def F.ZB_CNT_TXOK : Fld := ⟨R.ZB_CNT, 0, 16, .rcl, .any⟩
def F.ZB_CNT_RXOK : Fld := ⟨R.ZB_CNT, 16, 16, .rcl, .any⟩
/-- R481 (11_zone_bus.md). -/
def R.ZB_CNT2 : Reg := ⟨0x1D0024, 16, 4096, 1, 0⟩
def F.ZB_CNT2_TOOLONG : Fld := ⟨R.ZB_CNT2, 0, 8, .rcl, .any⟩
def F.ZB_CNT2_DUP : Fld := ⟨R.ZB_CNT2, 8, 8, .rcl, .any⟩
def F.ZB_CNT2_NOMATCH : Fld := ⟨R.ZB_CNT2, 16, 8, .rcl, .any⟩
def F.ZB_CNT2_LATE : Fld := ⟨R.ZB_CNT2, 24, 8, .rcl, .any⟩
/-- R481 (11_zone_bus.md). -/
def R.ZB_CNT3 : Reg := ⟨0x1D0028, 16, 4096, 1, 0⟩
def F.ZB_CNT3_DISCARD_GEN : Fld := ⟨R.ZB_CNT3, 0, 8, .rcl, .any⟩
def F.ZB_CNT3_WREFUSED : Fld := ⟨R.ZB_CNT3, 8, 8, .rcl, .any⟩
def F.ZB_CNT3_BUSERR : Fld := ⟨R.ZB_CNT3, 16, 16, .rcl, .any⟩
/-- R481 (11_zone_bus.md). -/
def R.ZB_LASTERR : Reg := ⟨0x1D002C, 16, 4096, 1, 0⟩
def F.ZB_LASTERR_CODE : Fld := ⟨R.ZB_LASTERR, 0, 3, .ro, .any⟩
def F.ZB_LASTERR_DATA : Fld := ⟨R.ZB_LASTERR, 3, 1, .ro, .any⟩
def F.ZB_LASTERR_TX : Fld := ⟨R.ZB_LASTERR, 4, 1, .ro, .any⟩
def F.ZB_LASTERR_VALID : Fld := ⟨R.ZB_LASTERR, 15, 1, .w1c, .any⟩
/-- R482 (11_zone_bus.md). -/
def R.ZB_NEWD_LO : Reg := ⟨0x1D0034, 16, 4096, 1, 0⟩
def F.ZB_NEWD_LO_NEWD : Fld := ⟨R.ZB_NEWD_LO, 0, 32, .ro, .any⟩
/-- R482 (11_zone_bus.md). -/
def R.ZB_NEWD_HI : Reg := ⟨0x1D0038, 16, 4096, 1, 0⟩
def F.ZB_NEWD_HI_NEWD : Fld := ⟨R.ZB_NEWD_HI, 0, 32, .ro, .any⟩
/-- R483 (11_zone_bus.md). -/
def R.ZB_QUAR : Reg := ⟨0x1D0040, 16, 4096, 1, 0⟩
def F.ZB_QUAR_LATE : Fld := ⟨R.ZB_QUAR, 0, 16, .rw, .range 10 10000⟩
/-- R483 (11_zone_bus.md). -/
def R.ZB_TAGCLS : Reg := ⟨0x1D0044, 16, 4096, 1, 0⟩
def F.ZB_TAGCLS_REPLY : Fld := ⟨R.ZB_TAGCLS, 3, 29, .rw, .any⟩
/-- R483 (11_zone_bus.md). -/
def R.ZB_TAGS : Reg := ⟨0x1D0048, 16, 4096, 1, 0⟩
def F.ZB_TAGS_QUAR : Fld := ⟨R.ZB_TAGS, 0, 11, .ro, .any⟩
def F.ZB_TAGS_OPEN : Fld := ⟨R.ZB_TAGS, 16, 11, .ro, .any⟩
/-- R484 (11_zone_bus.md). -/
def R.ZB_NW : Reg := ⟨0x1D004C, 16, 4096, 1, 0⟩
def F.ZB_NW_TENANT : Fld := ⟨R.ZB_NW, 0, 8, .rw, .any⟩
def F.ZB_NW_PRIO : Fld := ⟨R.ZB_NW, 16, 4, .rw, .range 1 15⟩
def F.ZB_NW_EN : Fld := ⟨R.ZB_NW, 31, 1, .rw, .any⟩
/-- R484 (11_zone_bus.md). -/
def R.ZB_HWCFG : Reg := ⟨0x1D0050, 16, 4096, 1, 0⟩
def F.ZB_HWCFG_PRIO : Fld := ⟨R.ZB_HWCFG, 0, 3, .rw, .any⟩
/-- R484 (11_zone_bus.md). -/
def R.ZB_ENUM : Reg := ⟨0x1D0054, 16, 4096, 1, 0⟩
def F.ZB_ENUM_HBPER : Fld := ⟨R.ZB_ENUM, 0, 8, .rw, .range 1 255⟩
def F.ZB_ENUM_EN : Fld := ⟨R.ZB_ENUM, 31, 1, .rw, .any⟩
/-- R485 (11_zone_bus.md). -/
def R.ZB_UNK_LO : Reg := ⟨0x1D0058, 16, 4096, 1, 0⟩
def F.ZB_UNK_LO_SERIAL : Fld := ⟨R.ZB_UNK_LO, 0, 32, .ro, .any⟩
/-- R485 (11_zone_bus.md). -/
def R.ZB_UNK_HI : Reg := ⟨0x1D005C, 16, 4096, 1, 0⟩
def F.ZB_UNK_HI_SERIAL : Fld := ⟨R.ZB_UNK_HI, 0, 16, .ro, .any⟩
def F.ZB_UNK_HI_VALID : Fld := ⟨R.ZB_UNK_HI, 31, 1, .w1c, .any⟩
/-- R486 (11_zone_bus.md). -/
def R.ZB_PWR_CFG : Reg := ⟨0x1D0060, 16, 4096, 1, 0⟩
def F.ZB_PWR_CFG_RETRY : Fld := ⟨R.ZB_PWR_CFG, 8, 2, .rw, .any⟩
def F.ZB_PWR_CFG_TRIP : Fld := ⟨R.ZB_PWR_CFG, 16, 6, .rw, .range 5 40⟩
def F.ZB_PWR_CFG_EN : Fld := ⟨R.ZB_PWR_CFG, 31, 1, .rw, .any⟩
/-- R486 (11_zone_bus.md). -/
def R.ZB_PWR_STAT : Reg := ⟨0x1D0064, 16, 4096, 1, 0⟩
def F.ZB_PWR_STAT_IMEAS : Fld := ⟨R.ZB_PWR_STAT, 0, 14, .ro, .any⟩
def F.ZB_PWR_STAT_PEND : Fld := ⟨R.ZB_PWR_STAT, 29, 1, .ro, .any⟩
def F.ZB_PWR_STAT_PGOOD : Fld := ⟨R.ZB_PWR_STAT, 30, 1, .ro, .any⟩
def F.ZB_PWR_STAT_ON : Fld := ⟨R.ZB_PWR_STAT, 31, 1, .ro, .any⟩
/-- R486 (11_zone_bus.md). -/
def R.ZB_PWR_V : Reg := ⟨0x1D0068, 16, 4096, 1, 0⟩
def F.ZB_PWR_V_VOUT : Fld := ⟨R.ZB_PWR_V, 0, 16, .ro, .any⟩
/-- R486 (11_zone_bus.md). -/
def R.ZB_PWR_FLT : Reg := ⟨0x1D006C, 16, 4096, 1, 0⟩
def F.ZB_PWR_FLT_TRIP : Fld := ⟨R.ZB_PWR_FLT, 0, 1, .w1c, .any⟩
def F.ZB_PWR_FLT_HARD : Fld := ⟨R.ZB_PWR_FLT, 1, 1, .w1c, .any⟩
def F.ZB_PWR_FLT_PG : Fld := ⟨R.ZB_PWR_FLT, 2, 1, .w1c, .any⟩
/-- R486 (11_zone_bus.md). -/
def R.ZB_PWR_CMD : Reg := ⟨0x1D0070, 16, 4096, 1, 0⟩
def F.ZB_PWR_CMD_CYCLE : Fld := ⟨R.ZB_PWR_CMD, 0, 1, .wo, .any⟩
/-- R486 (11_zone_bus.md). -/
def R.ZB_PWR_CNT : Reg := ⟨0x1D0074, 16, 4096, 1, 0⟩
def F.ZB_PWR_CNT_TRIPS : Fld := ⟨R.ZB_PWR_CNT, 0, 16, .rcl, .any⟩
/-- R487 (11_zone_bus.md). -/
def R.ZB_NODE_SER : Reg := ⟨0x1D0100, 16, 4096, 32, 8⟩
def F.ZB_NODE_SER_SERIAL : Fld := ⟨R.ZB_NODE_SER, 0, 32, .rw, .any⟩
/-- R487 (11_zone_bus.md). -/
def R.ZB_NODE_CFG : Reg := ⟨0x1D0104, 16, 4096, 32, 8⟩
def F.ZB_NODE_CFG_SERIAL : Fld := ⟨R.ZB_NODE_CFG, 0, 16, .rw, .any⟩
def F.ZB_NODE_CFG_STATE : Fld := ⟨R.ZB_NODE_CFG, 29, 2, .ro, .any⟩
def F.ZB_NODE_CFG_EN : Fld := ⟨R.ZB_NODE_CFG, 31, 1, .rw, .any⟩
/-- R488 (11_zone_bus.md). -/
def R.ZB_BUF_CFG : Reg := ⟨0x1D0200, 16, 4096, 64, 32⟩
def F.ZB_BUF_CFG_MAXDLC : Fld := ⟨R.ZB_BUF_CFG, 0, 4, .rw, .any⟩
def F.ZB_BUF_CFG_TXDLC : Fld := ⟨R.ZB_BUF_CFG, 4, 4, .rw, .any⟩
def F.ZB_BUF_CFG_POFS : Fld := ⟨R.ZB_BUF_CFG, 8, 8, .rw, .range 0 191⟩
def F.ZB_BUF_CFG_TENANT : Fld := ⟨R.ZB_BUF_CFG, 16, 8, .rw, .any⟩
def F.ZB_BUF_CFG_TAGGED : Fld := ⟨R.ZB_BUF_CFG, 24, 1, .rw, .any⟩
def F.ZB_BUF_CFG_ONESHOT : Fld := ⟨R.ZB_BUF_CFG, 25, 1, .rw, .any⟩
def F.ZB_BUF_CFG_BRS : Fld := ⟨R.ZB_BUF_CFG, 26, 1, .rw, .any⟩
def F.ZB_BUF_CFG_FCHK : Fld := ⟨R.ZB_BUF_CFG, 27, 1, .rw, .any⟩
def F.ZB_BUF_CFG_FDF : Fld := ⟨R.ZB_BUF_CFG, 28, 1, .rw, .any⟩
def F.ZB_BUF_CFG_IDE : Fld := ⟨R.ZB_BUF_CFG, 29, 1, .rw, .any⟩
def F.ZB_BUF_CFG_DIR : Fld := ⟨R.ZB_BUF_CFG, 30, 2, .rw, .range 0 2⟩
/-- R488 (11_zone_bus.md). -/
def R.ZB_BUF_ID : Reg := ⟨0x1D0204, 16, 4096, 64, 32⟩
def F.ZB_BUF_ID_ID : Fld := ⟨R.ZB_BUF_ID, 0, 29, .rw, .any⟩
/-- R488 (11_zone_bus.md). -/
def R.ZB_BUF_MASK : Reg := ⟨0x1D0208, 16, 4096, 64, 32⟩
def F.ZB_BUF_MASK_MASK : Fld := ⟨R.ZB_BUF_MASK, 0, 29, .rw, .any⟩
/-- R489 (11_zone_bus.md). -/
def R.ZB_BUF_STAT : Reg := ⟨0x1D020C, 16, 4096, 64, 32⟩
def F.ZB_BUF_STAT_TAG : Fld := ⟨R.ZB_BUF_STAT, 0, 10, .ro, .any⟩
def F.ZB_BUF_STAT_RESI : Fld := ⟨R.ZB_BUF_STAT, 13, 1, .ro, .any⟩
def F.ZB_BUF_STAT_RBRS : Fld := ⟨R.ZB_BUF_STAT, 14, 1, .ro, .any⟩
def F.ZB_BUF_STAT_RFDF : Fld := ⟨R.ZB_BUF_STAT, 15, 1, .ro, .any⟩
def F.ZB_BUF_STAT_DLC : Fld := ⟨R.ZB_BUF_STAT, 16, 4, .ro, .any⟩
def F.ZB_BUF_STAT_TXRES : Fld := ⟨R.ZB_BUF_STAT, 20, 4, .ro, .any⟩
def F.ZB_BUF_STAT_TAGWAIT : Fld := ⟨R.ZB_BUF_STAT, 27, 1, .ro, .any⟩
def F.ZB_BUF_STAT_TXABORT : Fld := ⟨R.ZB_BUF_STAT, 28, 1, .w1s, .any⟩
def F.ZB_BUF_STAT_TXREQ : Fld := ⟨R.ZB_BUF_STAT, 29, 1, .w1s, .any⟩
def F.ZB_BUF_STAT_MSGLOST : Fld := ⟨R.ZB_BUF_STAT, 30, 1, .w1c, .any⟩
def F.ZB_BUF_STAT_NEWD : Fld := ⟨R.ZB_BUF_STAT, 31, 1, .w1c, .any⟩
/-- R489 (11_zone_bus.md). -/
def R.ZB_BUF_RXID : Reg := ⟨0x1D0210, 16, 4096, 64, 32⟩
def F.ZB_BUF_RXID_RXID : Fld := ⟨R.ZB_BUF_RXID, 0, 29, .ro, .any⟩
def F.ZB_BUF_RXID_IDE : Fld := ⟨R.ZB_BUF_RXID, 29, 1, .ro, .any⟩
/-- R489 (11_zone_bus.md). -/
def R.ZB_BUF_CNT : Reg := ⟨0x1D0214, 16, 4096, 64, 32⟩
def F.ZB_BUF_CNT_RX : Fld := ⟨R.ZB_BUF_CNT, 0, 16, .rcl, .any⟩
def F.ZB_BUF_CNT_TX : Fld := ⟨R.ZB_BUF_CNT, 16, 16, .rcl, .any⟩
/-- R523 (12_campus_links.md). -/
def R.CL_EVT : Reg := ⟨0x1E0010, 1, 0, 1, 0⟩
def F.CL_EVT_LINK : Fld := ⟨R.CL_EVT, 0, 3, .w1c, .any⟩
def F.CL_EVT_AUTH : Fld := ⟨R.CL_EVT, 3, 1, .w1c, .any⟩
def F.CL_EVT_SUB : Fld := ⟨R.CL_EVT, 4, 1, .w1c, .any⟩
def F.CL_EVT_RW : Fld := ⟨R.CL_EVT, 5, 1, .w1c, .any⟩
def F.CL_EVT_TIME : Fld := ⟨R.CL_EVT, 6, 1, .w1c, .any⟩
/-- R523 (12_campus_links.md). -/
def R.CL_IEN : Reg := ⟨0x1E0014, 1, 0, 1, 0⟩
def F.CL_IEN_LINK : Fld := ⟨R.CL_IEN, 0, 3, .rw, .any⟩
def F.CL_IEN_AUTH : Fld := ⟨R.CL_IEN, 3, 1, .rw, .any⟩
def F.CL_IEN_SUB : Fld := ⟨R.CL_IEN, 4, 1, .rw, .any⟩
def F.CL_IEN_RW : Fld := ⟨R.CL_IEN, 5, 1, .rw, .any⟩
def F.CL_IEN_TIME : Fld := ⟨R.CL_IEN, 6, 1, .rw, .any⟩
/-- R524 (12_campus_links.md). -/
def R.CL_CTRL : Reg := ⟨0x1E0000, 1, 0, 1, 0⟩
def F.CL_CTRL_UDP_PORT : Fld := ⟨R.CL_CTRL, 0, 16, .rw, .range 1024 65535⟩
def F.CL_CTRL_ISL_KEY : Fld := ⟨R.CL_CTRL, 16, 1, .rw, .any⟩
def F.CL_CTRL_BB_KEY : Fld := ⟨R.CL_CTRL, 17, 1, .rw, .any⟩
def F.CL_CTRL_EN : Fld := ⟨R.CL_CTRL, 31, 1, .rw, .any⟩
/-- R524 (12_campus_links.md). -/
def R.CL_EPOCH : Reg := ⟨0x1E0004, 1, 0, 1, 0⟩
def F.CL_EPOCH_EPOCH : Fld := ⟨R.CL_EPOCH, 0, 32, .ro, .any⟩
/-- R525 (12_campus_links.md). -/
def R.CL_RXCNT : Reg := ⟨0x1E0020, 1, 0, 1, 0⟩
def F.CL_RXCNT_PORT : Fld := ⟨R.CL_RXCNT, 0, 8, .rcl, .any⟩
def F.CL_RXCNT_UNKNOWN : Fld := ⟨R.CL_RXCNT, 8, 8, .rcl, .any⟩
def F.CL_RXCNT_FORMAT : Fld := ⟨R.CL_RXCNT, 16, 16, .rcl, .any⟩
/-- R525 (12_campus_links.md). -/
def R.CL_FWD : Reg := ⟨0x1E0024, 1, 0, 1, 0⟩
def F.CL_FWD_DROP : Fld := ⟨R.CL_FWD, 0, 16, .rcl, .any⟩
def F.CL_FWD_FWD : Fld := ⟨R.CL_FWD, 16, 16, .rcl, .any⟩
/-- R526 (12_campus_links.md). -/
def R.CL_PORT_CFG : Reg := ⟨0x1E0100, 3, 64, 1, 0⟩
def F.CL_PORT_CFG_AMPL : Fld := ⟨R.CL_PORT_CFG, 0, 2, .rw, .range 0 2⟩
def F.CL_PORT_CFG_AN_EN : Fld := ⟨R.CL_PORT_CFG, 4, 1, .rw, .any⟩
def F.CL_PORT_CFG_FORCE_ROLE : Fld := ⟨R.CL_PORT_CFG, 5, 1, .rw, .any⟩
def F.CL_PORT_CFG_EN : Fld := ⟨R.CL_PORT_CFG, 31, 1, .rw, .any⟩
/-- R526 (12_campus_links.md). -/
def R.CL_PORT_STAT : Reg := ⟨0x1E0104, 3, 64, 1, 0⟩
def F.CL_PORT_STAT_LINK : Fld := ⟨R.CL_PORT_STAT, 0, 1, .ro, .any⟩
def F.CL_PORT_STAT_LEVEL : Fld := ⟨R.CL_PORT_STAT, 1, 1, .ro, .any⟩
def F.CL_PORT_STAT_ROLE : Fld := ⟨R.CL_PORT_STAT, 2, 1, .ro, .any⟩
def F.CL_PORT_STAT_SQI : Fld := ⟨R.CL_PORT_STAT, 4, 3, .ro, .any⟩
def F.CL_PORT_STAT_DAD_FAIL : Fld := ⟨R.CL_PORT_STAT, 8, 1, .ro, .any⟩
/-- R526 (12_campus_links.md). -/
def R.CL_PORT_DLY : Reg := ⟨0x1E0108, 3, 64, 1, 0⟩
def F.CL_PORT_DLY_DELAY : Fld := ⟨R.CL_PORT_DLY, 0, 24, .ro, .any⟩
def F.CL_PORT_DLY_VALID : Fld := ⟨R.CL_PORT_DLY, 31, 1, .ro, .any⟩
/-- R526 (12_campus_links.md). -/
def R.CL_PORT_CNT : Reg := ⟨0x1E010C, 3, 64, 1, 0⟩
def F.CL_PORT_CNT_RX : Fld := ⟨R.CL_PORT_CNT, 0, 16, .rcl, .any⟩
def F.CL_PORT_CNT_DROP : Fld := ⟨R.CL_PORT_CNT, 16, 16, .rcl, .any⟩
/-- R526 (12_campus_links.md). -/
def R.CL_PORT_MAC_LO : Reg := ⟨0x1E0110, 3, 64, 1, 0⟩
def F.CL_PORT_MAC_LO_MAC : Fld := ⟨R.CL_PORT_MAC_LO, 0, 32, .ro, .any⟩
/-- R526 (12_campus_links.md). -/
def R.CL_PORT_MAC_HI : Reg := ⟨0x1E0114, 3, 64, 1, 0⟩
def F.CL_PORT_MAC_HI_MAC : Fld := ⟨R.CL_PORT_MAC_HI, 0, 32, .ro, .any⟩
/-- R526 (12_campus_links.md). -/
def R.CL_PORT_ADDR0 : Reg := ⟨0x1E0120, 3, 64, 1, 0⟩
def F.CL_PORT_ADDR0_ADDR : Fld := ⟨R.CL_PORT_ADDR0, 0, 32, .rw, .any⟩
/-- R526 (12_campus_links.md). -/
def R.CL_PORT_ADDR1 : Reg := ⟨0x1E0124, 3, 64, 1, 0⟩
def F.CL_PORT_ADDR1_ADDR : Fld := ⟨R.CL_PORT_ADDR1, 0, 32, .rw, .any⟩
/-- R526 (12_campus_links.md). -/
def R.CL_PORT_ADDR2 : Reg := ⟨0x1E0128, 3, 64, 1, 0⟩
def F.CL_PORT_ADDR2_ADDR : Fld := ⟨R.CL_PORT_ADDR2, 0, 32, .rw, .any⟩
/-- R526 (12_campus_links.md). -/
def R.CL_PORT_ADDR3 : Reg := ⟨0x1E012C, 3, 64, 1, 0⟩
def F.CL_PORT_ADDR3_ADDR : Fld := ⟨R.CL_PORT_ADDR3, 0, 32, .rw, .any⟩
/-- R527 (12_campus_links.md). -/
def R.CL_TIME_LO : Reg := ⟨0x1E0200, 1, 0, 1, 0⟩
def F.CL_TIME_LO_TIME : Fld := ⟨R.CL_TIME_LO, 0, 32, .ro, .any⟩
/-- R527 (12_campus_links.md). -/
def R.CL_TIME_HI : Reg := ⟨0x1E0204, 1, 0, 1, 0⟩
def F.CL_TIME_HI_TIME : Fld := ⟨R.CL_TIME_HI, 0, 32, .ro, .any⟩
/-- R527 (12_campus_links.md). -/
def R.CL_TIME_STAT : Reg := ⟨0x1E0208, 1, 0, 1, 0⟩
def F.CL_TIME_STAT_OFFSET : Fld := ⟨R.CL_TIME_STAT, 0, 16, .ro, .any⟩
def F.CL_TIME_STAT_FOLLOW : Fld := ⟨R.CL_TIME_STAT, 16, 2, .ro, .any⟩
def F.CL_TIME_STAT_STRATUM : Fld := ⟨R.CL_TIME_STAT, 24, 6, .ro, .any⟩
def F.CL_TIME_STAT_SYNC : Fld := ⟨R.CL_TIME_STAT, 31, 1, .ro, .any⟩
/-- R527 (12_campus_links.md). -/
def R.CL_TIME_SET_LO : Reg := ⟨0x1E020C, 1, 0, 1, 0⟩
def F.CL_TIME_SET_LO_VALUE : Fld := ⟨R.CL_TIME_SET_LO, 0, 32, .wo, .any⟩
/-- R527 (12_campus_links.md). -/
def R.CL_TIME_SET_HI : Reg := ⟨0x1E0210, 1, 0, 1, 0⟩
def F.CL_TIME_SET_HI_VALUE : Fld := ⟨R.CL_TIME_SET_HI, 0, 32, .wo, .any⟩
/-- R527 (12_campus_links.md). -/
def R.CL_TIME_CNT : Reg := ⟨0x1E0214, 1, 0, 1, 0⟩
def F.CL_TIME_CNT_STEPS : Fld := ⟨R.CL_TIME_CNT, 0, 16, .rcl, .any⟩
def F.CL_TIME_CNT_LOSSES : Fld := ⟨R.CL_TIME_CNT, 16, 16, .rcl, .any⟩
/-- R528 (12_campus_links.md). -/
def R.CL_AUTH_CFG : Reg := ⟨0x1E0280, 1, 0, 1, 0⟩
def F.CL_AUTH_CFG_SKEW : Fld := ⟨R.CL_AUTH_CFG, 0, 8, .rw, .range 1 255⟩
/-- R528 (12_campus_links.md). -/
def R.CL_AUTH : Reg := ⟨0x1E0284, 1, 0, 1, 0⟩
def F.CL_AUTH_DUP : Fld := ⟨R.CL_AUTH, 0, 16, .rcl, .any⟩
def F.CL_AUTH_REPLAY : Fld := ⟨R.CL_AUTH, 16, 8, .rcl, .any⟩
def F.CL_AUTH_BADMAC : Fld := ⟨R.CL_AUTH, 24, 8, .rcl, .any⟩
/-- R528 (12_campus_links.md). -/
def R.CL_AUTH_LAST : Reg := ⟨0x1E0288, 1, 0, 1, 0⟩
def F.CL_AUTH_LAST_SRC : Fld := ⟨R.CL_AUTH_LAST, 0, 10, .ro, .any⟩
def F.CL_AUTH_LAST_REASON : Fld := ⟨R.CL_AUTH_LAST, 11, 1, .ro, .any⟩
def F.CL_AUTH_LAST_PORT : Fld := ⟨R.CL_AUTH_LAST, 12, 2, .ro, .any⟩
def F.CL_AUTH_LAST_VALID : Fld := ⟨R.CL_AUTH_LAST, 16, 1, .w1c, .any⟩
/-- R529 (12_campus_links.md). -/
def R.CL_SUB_CFG : Reg := ⟨0x1E0300, 1, 0, 1, 0⟩
def F.CL_SUB_CFG_RATE : Fld := ⟨R.CL_SUB_CFG, 0, 10, .rw, .range 1 512⟩
/-- R529 (12_campus_links.md). -/
def R.CL_SUB_STAT : Reg := ⟨0x1E0304, 1, 0, 1, 0⟩
def F.CL_SUB_STAT_IN_USED : Fld := ⟨R.CL_SUB_STAT, 0, 14, .ro, .any⟩
def F.CL_SUB_STAT_OUT_USED : Fld := ⟨R.CL_SUB_STAT, 16, 14, .ro, .any⟩
/-- R529 (12_campus_links.md). -/
def R.CL_SUB_CNT : Reg := ⟨0x1E0308, 1, 0, 1, 0⟩
def F.CL_SUB_CNT_REFUSED : Fld := ⟨R.CL_SUB_CNT, 0, 16, .rcl, .any⟩
def F.CL_SUB_CNT_RETRY : Fld := ⟨R.CL_SUB_CNT, 16, 16, .rcl, .any⟩
/-- R529 (12_campus_links.md). -/
def R.CL_PUB_CNT : Reg := ⟨0x1E030C, 1, 0, 1, 0⟩
def F.CL_PUB_CNT_COALESCED : Fld := ⟨R.CL_PUB_CNT, 0, 16, .rcl, .any⟩
def F.CL_PUB_CNT_UNBOUND : Fld := ⟨R.CL_PUB_CNT, 16, 16, .rcl, .any⟩
/-- R530 (12_campus_links.md). -/
def R.CL_TAGCFG : Reg := ⟨0x1E0400, 1, 0, 1, 0⟩
def F.CL_TAGCFG_QUAR : Fld := ⟨R.CL_TAGCFG, 0, 6, .rw, .range 1 60⟩
/-- R530 (12_campus_links.md). -/
def R.CL_TAGS : Reg := ⟨0x1E0404, 1, 0, 1, 0⟩
def F.CL_TAGS_QUAR : Fld := ⟨R.CL_TAGS, 0, 13, .ro, .any⟩
def F.CL_TAGS_OPEN : Fld := ⟨R.CL_TAGS, 16, 13, .ro, .any⟩
/-- R531 (12_campus_links.md). -/
def R.CL_RW_CPID : Reg := ⟨0x1E0408, 1, 0, 1, 0⟩
def F.CL_RW_CPID_CPID : Fld := ⟨R.CL_RW_CPID, 0, 25, .rw, .any⟩
/-- R531 (12_campus_links.md). -/
def R.CL_RW_VAL : Reg := ⟨0x1E040C, 1, 0, 1, 0⟩
def F.CL_RW_VAL_VALUE : Fld := ⟨R.CL_RW_VAL, 0, 32, .rw, .any⟩
/-- R531 (12_campus_links.md). -/
def R.CL_RW_CMD : Reg := ⟨0x1E0410, 1, 0, 1, 0⟩
def F.CL_RW_CMD_PRIO : Fld := ⟨R.CL_RW_CMD, 0, 4, .wo, .any⟩
def F.CL_RW_CMD_OP : Fld := ⟨R.CL_RW_CMD, 16, 1, .wo, .any⟩
/-- R531 (12_campus_links.md). -/
def R.CL_RW_RES : Reg := ⟨0x1E0414, 1, 0, 1, 0⟩
def F.CL_RW_RES_RES : Fld := ⟨R.CL_RW_RES, 0, 32, .ro, .any⟩
/-- R532 (12_campus_links.md). -/
def R.CL_RW_CNT : Reg := ⟨0x1E0418, 1, 0, 1, 0⟩
def F.CL_RW_CNT_FAILED : Fld := ⟨R.CL_RW_CNT, 0, 16, .rcl, .any⟩
def F.CL_RW_CNT_LATE : Fld := ⟨R.CL_RW_CNT, 16, 8, .rcl, .any⟩
def F.CL_RW_CNT_NOTAG : Fld := ⟨R.CL_RW_CNT, 24, 8, .rcl, .any⟩
/-- R532 (12_campus_links.md). -/
def R.CL_RW_CNT2 : Reg := ⟨0x1E041C, 1, 0, 1, 0⟩
def F.CL_RW_CNT2_DISC_GEN : Fld := ⟨R.CL_RW_CNT2, 0, 16, .rcl, .any⟩
def F.CL_RW_CNT2_STRAY : Fld := ⟨R.CL_RW_CNT2, 16, 16, .rcl, .any⟩
/-- R559 (13_islands_campus.md). -/
def R.CL_FORM_CFG : Reg := ⟨0x1E0500, 1, 0, 1, 0⟩
def F.CL_FORM_CFG_HOLD : Fld := ⟨R.CL_FORM_CFG, 0, 8, .rw, .range 1 255⟩
def F.CL_FORM_CFG_STEP : Fld := ⟨R.CL_FORM_CFG, 8, 8, .rw, .range 0 100⟩
/-- R559 (13_islands_campus.md). -/
def R.CL_ISL_UID : Reg := ⟨0x1E0504, 1, 0, 1, 0⟩
def F.CL_ISL_UID_UID : Fld := ⟨R.CL_ISL_UID, 0, 32, .ro, .any⟩
/-- R560 (13_islands_campus.md). -/
def R.CL_FORM_STAT : Reg := ⟨0x1E0508, 1, 0, 1, 0⟩
def F.CL_FORM_STAT_MEMBERS : Fld := ⟨R.CL_FORM_STAT, 0, 6, .ro, .any⟩
def F.CL_FORM_STAT_S0 : Fld := ⟨R.CL_FORM_STAT, 8, 2, .ro, .any⟩
def F.CL_FORM_STAT_S1 : Fld := ⟨R.CL_FORM_STAT, 12, 2, .ro, .any⟩
def F.CL_FORM_STAT_MAP_FULL : Fld := ⟨R.CL_FORM_STAT, 25, 1, .ro, .any⟩
def F.CL_FORM_STAT_RELEASED : Fld := ⟨R.CL_FORM_STAT, 26, 1, .ro, .any⟩
def F.CL_FORM_STAT_MAP : Fld := ⟨R.CL_FORM_STAT, 27, 1, .ro, .any⟩
def F.CL_FORM_STAT_REJECTED : Fld := ⟨R.CL_FORM_STAT, 28, 1, .ro, .any⟩
def F.CL_FORM_STAT_NOMASTER : Fld := ⟨R.CL_FORM_STAT, 29, 1, .ro, .any⟩
def F.CL_FORM_STAT_ESTABLISHED : Fld := ⟨R.CL_FORM_STAT, 30, 1, .ro, .any⟩
def F.CL_FORM_STAT_ISOLATED : Fld := ⟨R.CL_FORM_STAT, 31, 1, .ro, .any⟩
/-- R561 (13_islands_campus.md). -/
def R.CL_ISL_MAP : Reg := ⟨0x1E050C, 1, 0, 1, 0⟩
def F.CL_ISL_MAP_MEMBERS : Fld := ⟨R.CL_ISL_MAP, 0, 32, .ro, .any⟩
/-- R561 (13_islands_campus.md). -/
def R.CL_ISL_ROLE : Reg := ⟨0x1E0510, 1, 0, 1, 0⟩
def F.CL_ISL_ROLE_DOWNSTREAM : Fld := ⟨R.CL_ISL_ROLE, 0, 10, .ro, .any⟩
def F.CL_ISL_ROLE_DS_VALID : Fld := ⟨R.CL_ISL_ROLE, 15, 1, .ro, .any⟩
def F.CL_ISL_ROLE_MASTER : Fld := ⟨R.CL_ISL_ROLE, 16, 10, .ro, .any⟩
def F.CL_ISL_ROLE_IM_VALID : Fld := ⟨R.CL_ISL_ROLE, 31, 1, .ro, .any⟩
/-- R562 (13_islands_campus.md). -/
def R.CL_CAMPUS : Reg := ⟨0x1E0514, 1, 0, 1, 0⟩
def F.CL_CAMPUS_ISLANDS : Fld := ⟨R.CL_CAMPUS, 0, 6, .ro, .any⟩
def F.CL_CAMPUS_FRAGMENTS : Fld := ⟨R.CL_CAMPUS, 8, 7, .ro, .any⟩
def F.CL_CAMPUS_CM : Fld := ⟨R.CL_CAMPUS, 16, 10, .ro, .any⟩
def F.CL_CAMPUS_VALID : Fld := ⟨R.CL_CAMPUS, 31, 1, .ro, .any⟩
/-- R562 (13_islands_campus.md). -/
def R.CL_MAP_VER : Reg := ⟨0x1E0518, 1, 0, 1, 0⟩
def F.CL_MAP_VER_VERSION : Fld := ⟨R.CL_MAP_VER, 0, 32, .ro, .any⟩
/-- R563 (13_islands_campus.md). -/
def R.CL_FORM_EVT : Reg := ⟨0x1E0520, 1, 0, 1, 0⟩
def F.CL_FORM_EVT_ELECT : Fld := ⟨R.CL_FORM_EVT, 0, 1, .w1c, .any⟩
def F.CL_FORM_EVT_HEAL : Fld := ⟨R.CL_FORM_EVT, 1, 1, .w1c, .any⟩
def F.CL_FORM_EVT_ROLE : Fld := ⟨R.CL_FORM_EVT, 2, 1, .w1c, .any⟩
def F.CL_FORM_EVT_MAP : Fld := ⟨R.CL_FORM_EVT, 3, 1, .w1c, .any⟩
def F.CL_FORM_EVT_REJECTED : Fld := ⟨R.CL_FORM_EVT, 4, 1, .w1c, .any⟩
def F.CL_FORM_EVT_MISWIRE : Fld := ⟨R.CL_FORM_EVT, 5, 1, .w1c, .any⟩
def F.CL_FORM_EVT_CONFLICT : Fld := ⟨R.CL_FORM_EVT, 6, 1, .w1c, .any⟩
/-- R563 (13_islands_campus.md). -/
def R.CL_FORM_IEN : Reg := ⟨0x1E0524, 1, 0, 1, 0⟩
def F.CL_FORM_IEN_ELECT : Fld := ⟨R.CL_FORM_IEN, 0, 1, .rw, .any⟩
def F.CL_FORM_IEN_HEAL : Fld := ⟨R.CL_FORM_IEN, 1, 1, .rw, .any⟩
def F.CL_FORM_IEN_ROLE : Fld := ⟨R.CL_FORM_IEN, 2, 1, .rw, .any⟩
def F.CL_FORM_IEN_MAP : Fld := ⟨R.CL_FORM_IEN, 3, 1, .rw, .any⟩
def F.CL_FORM_IEN_REJECTED : Fld := ⟨R.CL_FORM_IEN, 4, 1, .rw, .any⟩
def F.CL_FORM_IEN_MISWIRE : Fld := ⟨R.CL_FORM_IEN, 5, 1, .rw, .any⟩
def F.CL_FORM_IEN_CONFLICT : Fld := ⟨R.CL_FORM_IEN, 6, 1, .rw, .any⟩
/-- R564 (13_islands_campus.md). -/
def R.CL_FORM_CNT : Reg := ⟨0x1E0528, 1, 0, 1, 0⟩
def F.CL_FORM_CNT_ELECTIONS : Fld := ⟨R.CL_FORM_CNT, 0, 16, .rcl, .any⟩
def F.CL_FORM_CNT_HEALS : Fld := ⟨R.CL_FORM_CNT, 16, 16, .rcl, .any⟩
/-- R564 (13_islands_campus.md). -/
def R.CL_FORM_CNT2 : Reg := ⟨0x1E052C, 1, 0, 1, 0⟩
def F.CL_FORM_CNT2_NOROUTE : Fld := ⟨R.CL_FORM_CNT2, 0, 16, .rcl, .any⟩
def F.CL_FORM_CNT2_FREED : Fld := ⟨R.CL_FORM_CNT2, 16, 16, .rcl, .any⟩
/-- R565 (13_islands_campus.md). -/
def R.CL_MAP : Reg := ⟨0x1E0600, 32, 4, 1, 0⟩
def F.CL_MAP_MEMBERS : Fld := ⟨R.CL_MAP, 0, 32, .ro, .any⟩
/-- R593 (14_audit_log.md). -/
def R.LOG_EVT : Reg := ⟨0x1F0018, 1, 0, 1, 0⟩
def F.LOG_EVT_FULL : Fld := ⟨R.LOG_EVT, 0, 1, .w1c, .any⟩
def F.LOG_EVT_STORE : Fld := ⟨R.LOG_EVT, 1, 1, .w1c, .any⟩
def F.LOG_EVT_GAP : Fld := ⟨R.LOG_EVT, 2, 1, .w1c, .any⟩
def F.LOG_EVT_LOST : Fld := ⟨R.LOG_EVT, 3, 1, .w1c, .any⟩
def F.LOG_EVT_MIRROR : Fld := ⟨R.LOG_EVT, 4, 1, .w1c, .any⟩
def F.LOG_EVT_WRAP : Fld := ⟨R.LOG_EVT, 5, 1, .w1c, .any⟩
def F.LOG_EVT_READ : Fld := ⟨R.LOG_EVT, 6, 1, .w1c, .any⟩
def F.LOG_EVT_TREND : Fld := ⟨R.LOG_EVT, 7, 1, .w1c, .any⟩
/-- R593 (14_audit_log.md). -/
def R.LOG_IEN : Reg := ⟨0x1F001C, 1, 0, 1, 0⟩
def F.LOG_IEN_FULL : Fld := ⟨R.LOG_IEN, 0, 1, .rw, .any⟩
def F.LOG_IEN_STORE : Fld := ⟨R.LOG_IEN, 1, 1, .rw, .any⟩
def F.LOG_IEN_GAP : Fld := ⟨R.LOG_IEN, 2, 1, .rw, .any⟩
def F.LOG_IEN_LOST : Fld := ⟨R.LOG_IEN, 3, 1, .rw, .any⟩
def F.LOG_IEN_MIRROR : Fld := ⟨R.LOG_IEN, 4, 1, .rw, .any⟩
def F.LOG_IEN_WRAP : Fld := ⟨R.LOG_IEN, 5, 1, .rw, .any⟩
def F.LOG_IEN_READ : Fld := ⟨R.LOG_IEN, 6, 1, .rw, .any⟩
def F.LOG_IEN_TREND : Fld := ⟨R.LOG_IEN, 7, 1, .rw, .any⟩
/-- R594 (14_audit_log.md). -/
def R.LOG_CTRL : Reg := ⟨0x1F0000, 1, 0, 1, 0⟩
def F.LOG_CTRL_MIRROR : Fld := ⟨R.LOG_CTRL, 0, 1, .rw, .any⟩
def F.LOG_CTRL_FLUSH : Fld := ⟨R.LOG_CTRL, 8, 8, .rw, .range 1 50⟩
/-- R594 (14_audit_log.md). -/
def R.LOG_STAT : Reg := ⟨0x1F0004, 1, 0, 1, 0⟩
def F.LOG_STAT_RING : Fld := ⟨R.LOG_STAT, 0, 13, .ro, .any⟩
def F.LOG_STAT_AON_VALID : Fld := ⟨R.LOG_STAT, 27, 1, .ro, .any⟩
def F.LOG_STAT_FULL : Fld := ⟨R.LOG_STAT, 28, 1, .ro, .any⟩
def F.LOG_STAT_STORE : Fld := ⟨R.LOG_STAT, 29, 3, .ro, .any⟩
/-- R595 (14_audit_log.md). -/
def R.LOG_NEXT_LO : Reg := ⟨0x1F0008, 1, 0, 1, 0⟩
def F.LOG_NEXT_LO_SEQ : Fld := ⟨R.LOG_NEXT_LO, 0, 32, .ro, .any⟩
/-- R595 (14_audit_log.md). -/
def R.LOG_NEXT_HI : Reg := ⟨0x1F000C, 1, 0, 1, 0⟩
def F.LOG_NEXT_HI_SEQ : Fld := ⟨R.LOG_NEXT_HI, 0, 32, .ro, .any⟩
/-- R595 (14_audit_log.md). -/
def R.LOG_COMMIT_LO : Reg := ⟨0x1F0010, 1, 0, 1, 0⟩
def F.LOG_COMMIT_LO_SEQ : Fld := ⟨R.LOG_COMMIT_LO, 0, 32, .ro, .any⟩
/-- R595 (14_audit_log.md). -/
def R.LOG_COMMIT_HI : Reg := ⟨0x1F0014, 1, 0, 1, 0⟩
def F.LOG_COMMIT_HI_SEQ : Fld := ⟨R.LOG_COMMIT_HI, 0, 32, .ro, .any⟩
/-- R595 (14_audit_log.md). -/
def R.LOG_OLDEST_LO : Reg := ⟨0x1F0040, 1, 0, 1, 0⟩
def F.LOG_OLDEST_LO_SEQ : Fld := ⟨R.LOG_OLDEST_LO, 0, 32, .ro, .any⟩
/-- R595 (14_audit_log.md). -/
def R.LOG_OLDEST_HI : Reg := ⟨0x1F0044, 1, 0, 1, 0⟩
def F.LOG_OLDEST_HI_SEQ : Fld := ⟨R.LOG_OLDEST_HI, 0, 32, .ro, .any⟩
/-- R595 (14_audit_log.md). -/
def R.LOG_MIRRORED_LO : Reg := ⟨0x1F0034, 1, 0, 1, 0⟩
def F.LOG_MIRRORED_LO_SEQ : Fld := ⟨R.LOG_MIRRORED_LO, 0, 32, .ro, .any⟩
/-- R595 (14_audit_log.md). -/
def R.LOG_MIRRORED_HI : Reg := ⟨0x1F0038, 1, 0, 1, 0⟩
def F.LOG_MIRRORED_HI_SEQ : Fld := ⟨R.LOG_MIRRORED_HI, 0, 32, .ro, .any⟩
/-- R596 (14_audit_log.md). -/
def R.LOG_CNT : Reg := ⟨0x1F0020, 1, 0, 1, 0⟩
def F.LOG_CNT_LOST : Fld := ⟨R.LOG_CNT, 0, 16, .rcl, .any⟩
def F.LOG_CNT_REFUSED : Fld := ⟨R.LOG_CNT, 16, 16, .rcl, .any⟩
/-- R596 (14_audit_log.md). -/
def R.LOG_CNT2 : Reg := ⟨0x1F0024, 1, 0, 1, 0⟩
def F.LOG_CNT2_STORE_ERR : Fld := ⟨R.LOG_CNT2, 0, 16, .rcl, .any⟩
def F.LOG_CNT2_WRAPS : Fld := ⟨R.LOG_CNT2, 16, 16, .rcl, .any⟩
/-- R596 (14_audit_log.md). -/
def R.LOG_TRD_CNT : Reg := ⟨0x1F0028, 1, 0, 1, 0⟩
def F.LOG_TRD_CNT_DROP : Fld := ⟨R.LOG_TRD_CNT, 0, 16, .rcl, .any⟩
/-- R597 (14_audit_log.md). -/
def R.LOG_MIR_STAT : Reg := ⟨0x1F0030, 1, 0, 1, 0⟩
def F.LOG_MIR_STAT_BACKLOG : Fld := ⟨R.LOG_MIR_STAT, 0, 16, .ro, .any⟩
def F.LOG_MIR_STAT_TARGET : Fld := ⟨R.LOG_MIR_STAT, 16, 10, .ro, .any⟩
def F.LOG_MIR_STAT_STATE : Fld := ⟨R.LOG_MIR_STAT, 30, 2, .ro, .any⟩
/-- R597 (14_audit_log.md). -/
def R.LOG_MIR_CNT : Reg := ⟨0x1F003C, 1, 0, 1, 0⟩
def F.LOG_MIR_CNT_SKIPPED : Fld := ⟨R.LOG_MIR_CNT, 0, 16, .rcl, .any⟩
def F.LOG_MIR_CNT_RESENDS : Fld := ⟨R.LOG_MIR_CNT, 16, 16, .rcl, .any⟩
/-- R598 (14_audit_log.md). -/
def R.LOG_REG_BASE : Reg := ⟨0x1F0100, 4, 16, 1, 0⟩
def F.LOG_REG_BASE_MIB : Fld := ⟨R.LOG_REG_BASE, 0, 18, .ro, .any⟩
/-- R598 (14_audit_log.md). -/
def R.LOG_REG_SIZE : Reg := ⟨0x1F0104, 4, 16, 1, 0⟩
def F.LOG_REG_SIZE_MIB : Fld := ⟨R.LOG_REG_SIZE, 0, 18, .ro, .any⟩
/-- R598 (14_audit_log.md). -/
def R.LOG_REG_WP : Reg := ⟨0x1F0108, 4, 16, 1, 0⟩
def F.LOG_REG_WP_BLOCK : Fld := ⟨R.LOG_REG_WP, 0, 29, .ro, .any⟩
/-- R599 (14_audit_log.md). -/
def R.LOG_FMT_SIZE : Reg := ⟨0x1F0180, 1, 0, 1, 0⟩
def F.LOG_FMT_SIZE_FW : Fld := ⟨R.LOG_FMT_SIZE, 0, 16, .rw, .range 1 65535⟩
def F.LOG_FMT_SIZE_AUDIT : Fld := ⟨R.LOG_FMT_SIZE, 16, 16, .rw, .range 1 65535⟩
/-- R599 (14_audit_log.md). -/
def R.LOG_FMT_SIZE2 : Reg := ⟨0x1F0184, 1, 0, 1, 0⟩
def F.LOG_FMT_SIZE2_MIRROR : Fld := ⟨R.LOG_FMT_SIZE2, 0, 16, .rw, .any⟩
/-- R599 (14_audit_log.md). -/
def R.LOG_FMT_CMD : Reg := ⟨0x1F0188, 1, 0, 1, 0⟩
def F.LOG_FMT_CMD_KEY : Fld := ⟨R.LOG_FMT_CMD, 0, 8, .wo, .any⟩
/-- R600 (14_audit_log.md). -/
def R.LOG_RD_BLK : Reg := ⟨0x1F0200, 1, 0, 1, 0⟩
def F.LOG_RD_BLK_BLOCK : Fld := ⟨R.LOG_RD_BLK, 0, 29, .rw, .any⟩
/-- R600 (14_audit_log.md). -/
def R.LOG_RD_CMD : Reg := ⟨0x1F0204, 1, 0, 1, 0⟩
def F.LOG_RD_CMD_GO : Fld := ⟨R.LOG_RD_CMD, 0, 1, .wo, .any⟩
def F.LOG_RD_CMD_WRITE : Fld := ⟨R.LOG_RD_CMD, 1, 1, .wo, .any⟩
/-- R600 (14_audit_log.md). -/
def R.LOG_RD_STAT : Reg := ⟨0x1F0208, 1, 0, 1, 0⟩
def F.LOG_RD_STAT_BUSY : Fld := ⟨R.LOG_RD_STAT, 0, 1, .ro, .any⟩
def F.LOG_RD_STAT_ERR : Fld := ⟨R.LOG_RD_STAT, 1, 1, .ro, .any⟩
def F.LOG_RD_STAT_CRC_BAD : Fld := ⟨R.LOG_RD_STAT, 2, 1, .ro, .any⟩
/-- R601 (14_audit_log.md). -/
def R.LOG_TRD_CFG : Reg := ⟨0x1F1000, 512, 8, 1, 0⟩
def F.LOG_TRD_CFG_POINT : Fld := ⟨R.LOG_TRD_CFG, 0, 15, .rw, .any⟩
def F.LOG_TRD_CFG_MODE : Fld := ⟨R.LOG_TRD_CFG, 30, 1, .rw, .any⟩
def F.LOG_TRD_CFG_EN : Fld := ⟨R.LOG_TRD_CFG, 31, 1, .rw, .any⟩
/-- R601 (14_audit_log.md). -/
def R.LOG_TRD_PER : Reg := ⟨0x1F1004, 512, 8, 1, 0⟩
def F.LOG_TRD_PER_PER : Fld := ⟨R.LOG_TRD_PER, 0, 16, .rw, .range 1 65535⟩
/-- R621 (15_tenants.md). -/
def R.TEN_CTX_CFG : Reg := ⟨0x20000, 256, 1024, 1, 0⟩
def F.TEN_CTX_CFG_HOLD_T : Fld := ⟨R.TEN_CTX_CFG, 0, 10, .rw, .range 0 600⟩
def F.TEN_CTX_CFG_ENABLED : Fld := ⟨R.TEN_CTX_CFG, 31, 1, .rw, .any⟩
/-- R621 (15_tenants.md). -/
def R.TEN_CTX_STAT : Reg := ⟨0x20004, 256, 1024, 1, 0⟩
def F.TEN_CTX_STAT_RESETS : Fld := ⟨R.TEN_CTX_STAT, 0, 8, .ro, .any⟩
def F.TEN_CTX_STAT_GEN : Fld := ⟨R.TEN_CTX_STAT, 8, 8, .ro, .any⟩
def F.TEN_CTX_STAT_THROTTLED : Fld := ⟨R.TEN_CTX_STAT, 28, 1, .ro, .any⟩
def F.TEN_CTX_STAT_PEND : Fld := ⟨R.TEN_CTX_STAT, 29, 1, .ro, .any⟩
def F.TEN_CTX_STAT_STATE : Fld := ⟨R.TEN_CTX_STAT, 30, 2, .ro, .any⟩
/-- R621 (15_tenants.md). -/
def R.TEN_RESET : Reg := ⟨0x20008, 256, 1024, 1, 0⟩
def F.TEN_RESET_GO : Fld := ⟨R.TEN_RESET, 0, 1, .wo, .any⟩
/-- R621 (15_tenants.md). -/
def R.TEN_CTX_IEN : Reg := ⟨0x2000C, 256, 1024, 1, 0⟩
def F.TEN_CTX_IEN_EQ : Fld := ⟨R.TEN_CTX_IEN, 0, 1, .rw, .any⟩
def F.TEN_CTX_IEN_XQ : Fld := ⟨R.TEN_CTX_IEN, 1, 1, .rw, .any⟩
/-- R622 (15_tenants.md). -/
def R.TEN_Q_CMD_CFG : Reg := ⟨0x20010, 256, 1024, 1, 0⟩
def F.TEN_Q_CMD_CFG_MIN : Fld := ⟨R.TEN_Q_CMD_CFG, 0, 16, .rw, .any⟩
def F.TEN_Q_CMD_CFG_MAX : Fld := ⟨R.TEN_Q_CMD_CFG, 16, 16, .rw, .range 1 32768⟩
/-- R622 (15_tenants.md). -/
def R.TEN_Q_EVT_CFG : Reg := ⟨0x20014, 256, 1024, 1, 0⟩
def F.TEN_Q_EVT_CFG_MIN : Fld := ⟨R.TEN_Q_EVT_CFG, 0, 16, .rw, .any⟩
def F.TEN_Q_EVT_CFG_MAX : Fld := ⟨R.TEN_Q_EVT_CFG, 16, 16, .rw, .range 1 32768⟩
/-- R622 (15_tenants.md). -/
def R.TEN_Q_ERR_CFG : Reg := ⟨0x20018, 256, 1024, 1, 0⟩
def F.TEN_Q_ERR_CFG_MIN : Fld := ⟨R.TEN_Q_ERR_CFG, 0, 16, .rw, .any⟩
def F.TEN_Q_ERR_CFG_MAX : Fld := ⟨R.TEN_Q_ERR_CFG, 16, 16, .rw, .range 1 32768⟩
/-- R622 (15_tenants.md). -/
def R.TEN_Q_CMD_STAT : Reg := ⟨0x20020, 256, 1024, 1, 0⟩
def F.TEN_Q_CMD_STAT_COUNT : Fld := ⟨R.TEN_Q_CMD_STAT, 0, 16, .ro, .any⟩
def F.TEN_Q_CMD_STAT_OVF : Fld := ⟨R.TEN_Q_CMD_STAT, 31, 1, .w1c, .any⟩
/-- R622 (15_tenants.md). -/
def R.TEN_Q_EVT_STAT : Reg := ⟨0x20024, 256, 1024, 1, 0⟩
def F.TEN_Q_EVT_STAT_COUNT : Fld := ⟨R.TEN_Q_EVT_STAT, 0, 16, .ro, .any⟩
def F.TEN_Q_EVT_STAT_OVF : Fld := ⟨R.TEN_Q_EVT_STAT, 31, 1, .w1c, .any⟩
/-- R622 (15_tenants.md). -/
def R.TEN_Q_ERR_STAT : Reg := ⟨0x20028, 256, 1024, 1, 0⟩
def F.TEN_Q_ERR_STAT_COUNT : Fld := ⟨R.TEN_Q_ERR_STAT, 0, 16, .ro, .any⟩
def F.TEN_Q_ERR_STAT_OVF : Fld := ⟨R.TEN_Q_ERR_STAT, 31, 1, .w1c, .any⟩
/-- R622 (15_tenants.md). -/
def R.TEN_Q_DROP : Reg := ⟨0x20030, 256, 1024, 1, 0⟩
def F.TEN_Q_DROP_EVT : Fld := ⟨R.TEN_Q_DROP, 0, 16, .rcl, .any⟩
def F.TEN_Q_DROP_ERR : Fld := ⟨R.TEN_Q_DROP, 16, 16, .rcl, .any⟩
/-- R623 (15_tenants.md). -/
def R.TEN_EQ_HEAD : Reg := ⟨0x20040, 256, 1024, 8, 4⟩
def F.TEN_EQ_HEAD_WORD : Fld := ⟨R.TEN_EQ_HEAD, 0, 32, .ro, .any⟩
/-- R623 (15_tenants.md). -/
def R.TEN_XQ_HEAD : Reg := ⟨0x20060, 256, 1024, 8, 4⟩
def F.TEN_XQ_HEAD_WORD : Fld := ⟨R.TEN_XQ_HEAD, 0, 32, .ro, .any⟩
/-- R623 (15_tenants.md). -/
def R.TEN_EQ_POP : Reg := ⟨0x20080, 256, 1024, 1, 0⟩
def F.TEN_EQ_POP_QSEQ : Fld := ⟨R.TEN_EQ_POP, 0, 16, .wo, .any⟩
/-- R623 (15_tenants.md). -/
def R.TEN_XQ_POP : Reg := ⟨0x20084, 256, 1024, 1, 0⟩
def F.TEN_XQ_POP_QSEQ : Fld := ⟨R.TEN_XQ_POP, 0, 16, .wo, .any⟩
/-- R624 (15_tenants.md). -/
def R.TEN_CQ_STAGE : Reg := ⟨0x200A0, 256, 1024, 4, 4⟩
def F.TEN_CQ_STAGE_WORD : Fld := ⟨R.TEN_CQ_STAGE, 0, 32, .rw, .any⟩
/-- R624 (15_tenants.md). -/
def R.TEN_CQ_PUSH : Reg := ⟨0x200C0, 256, 1024, 1, 0⟩
def F.TEN_CQ_PUSH_GO : Fld := ⟨R.TEN_CQ_PUSH, 0, 1, .wo, .any⟩
/-- R624 (15_tenants.md). -/
def R.TEN_CQ_RES : Reg := ⟨0x200C4, 256, 1024, 1, 0⟩
def F.TEN_CQ_RES_RES : Fld := ⟨R.TEN_CQ_RES, 0, 2, .ro, .any⟩
/-- R625 (15_tenants.md). -/
def R.TEN_WIN_A : Reg := ⟨0x20100, 256, 1024, 8, 8⟩
def F.TEN_WIN_A_FIRST : Fld := ⟨R.TEN_WIN_A, 0, 15, .rw, .any⟩
def F.TEN_WIN_A_MAXPRIO : Fld := ⟨R.TEN_WIN_A, 24, 4, .rw, .any⟩
def F.TEN_WIN_A_RIGHTS : Fld := ⟨R.TEN_WIN_A, 30, 2, .rw, .any⟩
/-- R625 (15_tenants.md). -/
def R.TEN_WIN_B : Reg := ⟨0x20104, 256, 1024, 8, 8⟩
def F.TEN_WIN_B_LAST : Fld := ⟨R.TEN_WIN_B, 0, 15, .rw, .any⟩
/-- R626 (15_tenants.md). -/
def R.TEN_QLOOP : Reg := ⟨0x20140, 256, 1024, 1, 0⟩
def F.TEN_QLOOP_LIMIT : Fld := ⟨R.TEN_QLOOP, 0, 14, .rw, .range 0 8192⟩
def F.TEN_QLOOP_USED : Fld := ⟨R.TEN_QLOOP, 16, 14, .ro, .any⟩
/-- R626 (15_tenants.md). -/
def R.TEN_QSUB : Reg := ⟨0x20144, 256, 1024, 1, 0⟩
def F.TEN_QSUB_IN : Fld := ⟨R.TEN_QSUB, 0, 14, .rw, .range 0 8192⟩
def F.TEN_QSUB_OUT : Fld := ⟨R.TEN_QSUB, 16, 14, .rw, .range 0 8192⟩
/-- R626 (15_tenants.md). -/
def R.TEN_QSUB_USED : Reg := ⟨0x20148, 256, 1024, 1, 0⟩
def F.TEN_QSUB_USED_IN : Fld := ⟨R.TEN_QSUB_USED, 0, 14, .ro, .any⟩
def F.TEN_QSUB_USED_OUT : Fld := ⟨R.TEN_QSUB_USED, 16, 14, .ro, .any⟩
/-- R626 (15_tenants.md). -/
def R.TEN_QRC : Reg := ⟨0x2014C, 256, 1024, 1, 0⟩
def F.TEN_QRC_LIMIT : Fld := ⟨R.TEN_QRC, 0, 19, .rw, .range 0 300000⟩
/-- R626 (15_tenants.md). -/
def R.TEN_QRC_USED : Reg := ⟨0x20150, 256, 1024, 1, 0⟩
def F.TEN_QRC_USED_USED : Fld := ⟨R.TEN_QRC_USED, 0, 20, .ro, .any⟩
/-- R626 (15_tenants.md). -/
def R.TEN_QLOG : Reg := ⟨0x20154, 256, 1024, 1, 0⟩
def F.TEN_QLOG_LIMIT : Fld := ⟨R.TEN_QLOG, 0, 16, .rw, .range 1 65535⟩
/-- R626 (15_tenants.md). -/
def R.TEN_QLOG_USED : Reg := ⟨0x20158, 256, 1024, 1, 0⟩
def F.TEN_QLOG_USED_USED : Fld := ⟨R.TEN_QLOG_USED, 0, 16, .ro, .any⟩
/-- R627 (15_tenants.md). -/
def R.TEN_CNT : Reg := ⟨0x20160, 256, 1024, 1, 0⟩
def F.TEN_CNT_DISC_GEN : Fld := ⟨R.TEN_CNT, 0, 16, .rcl, .any⟩
def F.TEN_CNT_THROTTLED : Fld := ⟨R.TEN_CNT, 16, 16, .rcl, .any⟩
/-- R627 (15_tenants.md). -/
def R.TEN_CNT2 : Reg := ⟨0x20164, 256, 1024, 1, 0⟩
def F.TEN_CNT2_FB_REFUSED : Fld := ⟨R.TEN_CNT2, 0, 8, .rcl, .any⟩
/-- R628 (15_tenants.md). -/
def R.TEN_IRQ_SRC : Reg := ⟨0x20180, 256, 1024, 8, 4⟩
def F.TEN_IRQ_SRC_SOURCE : Fld := ⟨R.TEN_IRQ_SRC, 0, 8, .rw, .any⟩
def F.TEN_IRQ_SRC_EN : Fld := ⟨R.TEN_IRQ_SRC, 31, 1, .rw, .any⟩
/-- R629 (15_tenants.md). -/
def R.TEN_POOL : Reg := ⟨0x60000, 1, 0, 1, 0⟩
def F.TEN_POOL_SHARED_USED : Fld := ⟨R.TEN_POOL, 0, 16, .ro, .any⟩
def F.TEN_POOL_RESERVED : Fld := ⟨R.TEN_POOL, 16, 16, .ro, .any⟩
/-- R629 (15_tenants.md). -/
def R.TEN_GCNT : Reg := ⟨0x60004, 1, 0, 1, 0⟩
def F.TEN_GCNT_RETIRED_DROP : Fld := ⟨R.TEN_GCNT, 0, 16, .rcl, .any⟩
/-- R629 (15_tenants.md). -/
def R.TEN_DB_CFG : Reg := ⟨0x60100, 16, 4, 1, 0⟩
def F.TEN_DB_CFG_OWNER : Fld := ⟨R.TEN_DB_CFG, 0, 8, .rw, .any⟩
/-- R629 (15_tenants.md). -/
def R.TEN_DB_RING : Reg := ⟨0x60140, 1, 0, 1, 0⟩
def F.TEN_DB_RING_DB : Fld := ⟨R.TEN_DB_RING, 0, 4, .wo, .any⟩
/-- R630 (15_tenants.md). -/
def R.TEN_FB_PT : Reg := ⟨0x61000, 2048, 8, 1, 0⟩
def F.TEN_FB_PT_POINT : Fld := ⟨R.TEN_FB_PT, 0, 15, .rw, .any⟩
def F.TEN_FB_PT_PRIO : Fld := ⟨R.TEN_FB_PT, 16, 4, .rw, .any⟩
def F.TEN_FB_PT_EN : Fld := ⟨R.TEN_FB_PT, 31, 1, .rw, .any⟩
/-- R630 (15_tenants.md). -/
def R.TEN_FB_VAL : Reg := ⟨0x61004, 2048, 8, 1, 0⟩
def F.TEN_FB_VAL_VALUE : Fld := ⟨R.TEN_FB_VAL, 0, 32, .rw, .any⟩
/-- R648 (16_interrupts.md). -/
def R.IC_SRC_CFG : Reg := ⟨0x10000, 256, 4, 1, 0⟩
def F.IC_SRC_CFG_FILT : Fld := ⟨R.IC_SRC_CFG, 0, 8, .rw, .any⟩
def F.IC_SRC_CFG_PRESC : Fld := ⟨R.IC_SRC_CFG, 8, 1, .rw, .any⟩
def F.IC_SRC_CFG_PRIO : Fld := ⟨R.IC_SRC_CFG, 16, 4, .rw, .any⟩
def F.IC_SRC_CFG_TMASK : Fld := ⟨R.IC_SRC_CFG, 24, 8, .rw, .any⟩
/-- R650 (16_interrupts.md). -/
def R.IC_TGT_CTRL : Reg := ⟨0x11000, 8, 64, 1, 0⟩
def F.IC_TGT_CTRL_THRESH : Fld := ⟨R.IC_TGT_CTRL, 0, 4, .rw, .any⟩
def F.IC_TGT_CTRL_EN : Fld := ⟨R.IC_TGT_CTRL, 31, 1, .rw, .any⟩
/-- R650 (16_interrupts.md). -/
def R.IC_TGT_OFFER : Reg := ⟨0x11004, 8, 64, 1, 0⟩
def F.IC_TGT_OFFER_SRC : Fld := ⟨R.IC_TGT_OFFER, 0, 8, .ro, .any⟩
def F.IC_TGT_OFFER_PRIO : Fld := ⟨R.IC_TGT_OFFER, 16, 4, .ro, .any⟩
def F.IC_TGT_OFFER_VALID : Fld := ⟨R.IC_TGT_OFFER, 31, 1, .ro, .any⟩
/-- R651 (16_interrupts.md). -/
def R.IC_TGT_CLAIM : Reg := ⟨0x11008, 8, 64, 1, 0⟩
def F.IC_TGT_CLAIM_CODE : Fld := ⟨R.IC_TGT_CLAIM, 0, 10, .ro, .any⟩
/-- R651 (16_interrupts.md). -/
def R.IC_TGT_COMPLETE : Reg := ⟨0x1100C, 8, 64, 1, 0⟩
def F.IC_TGT_COMPLETE_SRC : Fld := ⟨R.IC_TGT_COMPLETE, 0, 8, .wo, .any⟩
/-- R651 (16_interrupts.md). -/
def R.IC_TGT_CNT : Reg := ⟨0x11010, 8, 64, 1, 0⟩
def F.IC_TGT_CNT_WITHDRAWN : Fld := ⟨R.IC_TGT_CNT, 0, 16, .rcl, .any⟩
def F.IC_TGT_CNT_TAKEN : Fld := ⟨R.IC_TGT_CNT, 16, 16, .rcl, .any⟩
/-- R652 (16_interrupts.md). -/
def R.IC_CNT : Reg := ⟨0x12000, 1, 0, 1, 0⟩
def F.IC_CNT_MERGED : Fld := ⟨R.IC_CNT, 0, 16, .rcl, .any⟩
def F.IC_CNT_BAD_COMPLETE : Fld := ⟨R.IC_CNT, 16, 16, .rcl, .any⟩
/-- R673 (17_host.md). -/
def R.HB_PAGE : Reg := ⟨0x40FFE0, 1, 0, 1, 0⟩
def F.HB_PAGE_PAGE : Fld := ⟨R.HB_PAGE, 0, 8, .rw, .any⟩
/-- R673 (17_host.md). -/
def R.HB_LANE : Reg := ⟨0x40FFE4, 1, 0, 1, 0⟩
def F.HB_LANE_LANE : Fld := ⟨R.HB_LANE, 0, 2, .rw, .any⟩
/-- R673 (17_host.md). -/
def R.HB_MBX_ADDR : Reg := ⟨0x40FFE8, 1, 0, 1, 0⟩
def F.HB_MBX_ADDR_ADDR : Fld := ⟨R.HB_MBX_ADDR, 0, 24, .rw, .any⟩
/-- R673 (17_host.md). -/
def R.HB_MBX_DATA : Reg := ⟨0x40FFEC, 1, 0, 1, 0⟩
def F.HB_MBX_DATA_DATA : Fld := ⟨R.HB_MBX_DATA, 0, 32, .rw, .any⟩
/-- R674 (17_host.md). -/
def R.HB_MBX_CTRL : Reg := ⟨0x40FFF0, 1, 0, 1, 0⟩
def F.HB_MBX_CTRL_GO : Fld := ⟨R.HB_MBX_CTRL, 0, 1, .wo, .any⟩
def F.HB_MBX_CTRL_WR : Fld := ⟨R.HB_MBX_CTRL, 1, 1, .wo, .any⟩
def F.HB_MBX_CTRL_RESULT : Fld := ⟨R.HB_MBX_CTRL, 16, 4, .ro, .any⟩
def F.HB_MBX_CTRL_TMO : Fld := ⟨R.HB_MBX_CTRL, 30, 1, .ro, .any⟩
def F.HB_MBX_CTRL_BUSY : Fld := ⟨R.HB_MBX_CTRL, 31, 1, .ro, .any⟩
/-- R674 (17_host.md). -/
def R.HB_FIFO : Reg := ⟨0x40FFF4, 1, 0, 1, 0⟩
def F.HB_FIFO_LEVEL : Fld := ⟨R.HB_FIFO, 0, 7, .ro, .any⟩
def F.HB_FIFO_OVR : Fld := ⟨R.HB_FIFO, 31, 1, .w1c, .any⟩
/-- R674 (17_host.md). -/
def R.HB_HSTAT : Reg := ⟨0x40FFF8, 1, 0, 1, 0⟩
def F.HB_HSTAT_READY : Fld := ⟨R.HB_HSTAT, 0, 1, .ro, .any⟩
def F.HB_HSTAT_PD_STALE : Fld := ⟨R.HB_HSTAT, 1, 1, .ro, .any⟩
def F.HB_HSTAT_WDOG : Fld := ⟨R.HB_HSTAT, 2, 1, .ro, .any⟩
/-- R674 (17_host.md). -/
def R.HB_HID : Reg := ⟨0x40FFFC, 1, 0, 1, 0⟩
def F.HB_HID_HID : Fld := ⟨R.HB_HID, 0, 16, .ro, .any⟩
/-- R675 (17_host.md). -/
def R.HB_MODE : Reg := ⟨0x400000, 1, 0, 1, 0⟩
def F.HB_MODE_HOSTMODE : Fld := ⟨R.HB_MODE, 0, 2, .ro, .any⟩
def F.HB_MODE_INVALID : Fld := ⟨R.HB_MODE, 4, 1, .ro, .any⟩
/-- R675 (17_host.md). -/
def R.HB_LANE_CFG : Reg := ⟨0x400010, 4, 4, 1, 0⟩
def F.HB_LANE_CFG_TENANT : Fld := ⟨R.HB_LANE_CFG, 0, 8, .rw, .any⟩
def F.HB_LANE_CFG_PRIO : Fld := ⟨R.HB_LANE_CFG, 16, 4, .rw, .any⟩
def F.HB_LANE_CFG_EN : Fld := ⟨R.HB_LANE_CFG, 31, 1, .rw, .any⟩
/-- R676 (17_host.md). -/
def R.HB_WDOG_CFG : Reg := ⟨0x400020, 1, 0, 1, 0⟩
def F.HB_WDOG_CFG_PERIOD : Fld := ⟨R.HB_WDOG_CFG, 0, 16, .rw, .range 10 65535⟩
def F.HB_WDOG_CFG_FIRST : Fld := ⟨R.HB_WDOG_CFG, 16, 8, .rw, .range 1 255⟩
def F.HB_WDOG_CFG_EN : Fld := ⟨R.HB_WDOG_CFG, 31, 1, .rw, .any⟩
/-- R676 (17_host.md). -/
def R.HB_WDOG_STAT : Reg := ⟨0x400024, 1, 0, 1, 0⟩
def F.HB_WDOG_STAT_ARMED : Fld := ⟨R.HB_WDOG_STAT, 30, 1, .ro, .any⟩
def F.HB_WDOG_STAT_EXPIRED : Fld := ⟨R.HB_WDOG_STAT, 31, 1, .ro, .any⟩
/-- R676 (17_host.md). -/
def R.HB_KICK : Reg := ⟨0x400028, 1, 0, 1, 0⟩
def F.HB_KICK_KEY : Fld := ⟨R.HB_KICK, 0, 8, .wo, .any⟩
/-- R677 (17_host.md). -/
def R.HB_FUNC_RST : Reg := ⟨0x400030, 1, 0, 1, 0⟩
def F.HB_FUNC_RST_FUNC : Fld := ⟨R.HB_FUNC_RST, 0, 9, .wo, .any⟩
/-- R677 (17_host.md). -/
def R.HB_FUNC_STAT : Reg := ⟨0x400034, 1, 0, 1, 0⟩
def F.HB_FUNC_STAT_FUNC : Fld := ⟨R.HB_FUNC_STAT, 0, 9, .ro, .any⟩
def F.HB_FUNC_STAT_RESULT : Fld := ⟨R.HB_FUNC_STAT, 16, 2, .ro, .any⟩
def F.HB_FUNC_STAT_BUSY : Fld := ⟨R.HB_FUNC_STAT, 31, 1, .ro, .any⟩
/-- R677 (17_host.md). -/
def R.HB_WARM : Reg := ⟨0x400038, 1, 0, 1, 0⟩
def F.HB_WARM_KEY : Fld := ⟨R.HB_WARM, 0, 8, .wo, .any⟩
/-- R677 (17_host.md). -/
def R.HB_PWRCYC : Reg := ⟨0x40003C, 1, 0, 1, 0⟩
def F.HB_PWRCYC_KEY : Fld := ⟨R.HB_PWRCYC, 0, 8, .wo, .any⟩
/-- R678 (17_host.md). -/
def R.HB_CNT : Reg := ⟨0x400040, 1, 0, 1, 0⟩
def F.HB_CNT_BADKICK : Fld := ⟨R.HB_CNT, 0, 8, .rcl, .any⟩
def F.HB_CNT_NOSHADOW : Fld := ⟨R.HB_CNT, 8, 8, .rcl, .any⟩
def F.HB_CNT_ASSEMBLY : Fld := ⟨R.HB_CNT, 16, 8, .rcl, .any⟩
def F.HB_CNT_OVERRUN : Fld := ⟨R.HB_CNT, 24, 8, .rcl, .any⟩
/-- R678 (17_host.md). -/
def R.HB_CNT2 : Reg := ⟨0x400044, 1, 0, 1, 0⟩
def F.HB_CNT2_EXPIRIES : Fld := ⟨R.HB_CNT2, 0, 16, .rcl, .any⟩
def F.HB_CNT2_REFUSED : Fld := ⟨R.HB_CNT2, 16, 16, .rcl, .any⟩
/-- R705 (18_boot_calibration.md). -/
def R.BOOT_STAT : Reg := ⟨0x410000, 1, 0, 1, 0⟩
def F.BOOT_STAT_SLOT : Fld := ⟨R.BOOT_STAT, 0, 1, .ro, .any⟩
def F.BOOT_STAT_TRIAL : Fld := ⟨R.BOOT_STAT, 1, 1, .ro, .any⟩
def F.BOOT_STAT_FALLBACK : Fld := ⟨R.BOOT_STAT, 2, 1, .ro, .any⟩
def F.BOOT_STAT_NOREC : Fld := ⟨R.BOOT_STAT, 3, 1, .ro, .any⟩
def F.BOOT_STAT_STRAP_CHG : Fld := ⟨R.BOOT_STAT, 4, 1, .ro, .any⟩
def F.BOOT_STAT_SVC : Fld := ⟨R.BOOT_STAT, 28, 3, .ro, .any⟩
def F.BOOT_STAT_SERVICE : Fld := ⟨R.BOOT_STAT, 31, 1, .ro, .any⟩
/-- R705 (18_boot_calibration.md). -/
def R.BOOT_CAUSE : Reg := ⟨0x410004, 1, 0, 1, 0⟩
def F.BOOT_CAUSE_CAUSE_A : Fld := ⟨R.BOOT_CAUSE, 0, 4, .ro, .any⟩
def F.BOOT_CAUSE_CAUSE_B : Fld := ⟨R.BOOT_CAUSE, 4, 4, .ro, .any⟩
/-- R706 (18_boot_calibration.md). -/
def R.BOOT_REC : Reg := ⟨0x410008, 1, 0, 1, 0⟩
def F.BOOT_REC_ACTIVE : Fld := ⟨R.BOOT_REC, 0, 1, .ro, .any⟩
def F.BOOT_REC_TRIAL : Fld := ⟨R.BOOT_REC, 1, 1, .ro, .any⟩
def F.BOOT_REC_TRIES : Fld := ⟨R.BOOT_REC, 8, 3, .ro, .any⟩
def F.BOOT_REC_SERIAL : Fld := ⟨R.BOOT_REC, 16, 16, .ro, .any⟩
/-- R706 (18_boot_calibration.md). -/
def R.BOOT_TIME : Reg := ⟨0x41000C, 1, 0, 1, 0⟩
def F.BOOT_TIME_US : Fld := ⟨R.BOOT_TIME, 0, 20, .ro, .any⟩
/-- R706 (18_boot_calibration.md). -/
def R.BOOT_STRAP_LIVE : Reg := ⟨0x410010, 1, 0, 1, 0⟩
def F.BOOT_STRAP_LIVE_DEVID : Fld := ⟨R.BOOT_STRAP_LIVE, 0, 10, .ro, .any⟩
def F.BOOT_STRAP_LIVE_BOOTSEL : Fld := ⟨R.BOOT_STRAP_LIVE, 10, 2, .ro, .any⟩
def F.BOOT_STRAP_LIVE_HOSTMODE : Fld := ⟨R.BOOT_STRAP_LIVE, 12, 2, .ro, .any⟩
def F.BOOT_STRAP_LIVE_MASTERPRI : Fld := ⟨R.BOOT_STRAP_LIVE, 14, 2, .ro, .any⟩
/-- R707 (18_boot_calibration.md). -/
def R.BOOT_FLASH : Reg := ⟨0x410014, 1, 0, 1, 0⟩
def F.BOOT_FLASH_MIB : Fld := ⟨R.BOOT_FLASH, 0, 8, .ro, .any⟩
def F.BOOT_FLASH_ADDR4 : Fld := ⟨R.BOOT_FLASH, 30, 1, .ro, .any⟩
def F.BOOT_FLASH_QUAD444 : Fld := ⟨R.BOOT_FLASH, 31, 1, .ro, .any⟩
/-- R707 (18_boot_calibration.md). -/
def R.BOOT_IMG_HASH : Reg := ⟨0x410020, 8, 4, 1, 0⟩
def F.BOOT_IMG_HASH_WORD : Fld := ⟨R.BOOT_IMG_HASH, 0, 32, .ro, .any⟩
/-- R707 (18_boot_calibration.md). -/
def R.BOOT_IMG_BUILD : Reg := ⟨0x410040, 8, 4, 1, 0⟩
def F.BOOT_IMG_BUILD_WORD : Fld := ⟨R.BOOT_IMG_BUILD, 0, 32, .ro, .any⟩
/-- R708 (18_boot_calibration.md). -/
def R.BOOT_SLOT_CMD : Reg := ⟨0x410100, 1, 0, 1, 0⟩
def F.BOOT_SLOT_CMD_SLOT : Fld := ⟨R.BOOT_SLOT_CMD, 0, 1, .wo, .any⟩
def F.BOOT_SLOT_CMD_TRIES : Fld := ⟨R.BOOT_SLOT_CMD, 8, 3, .wo, .any⟩
def F.BOOT_SLOT_CMD_OP : Fld := ⟨R.BOOT_SLOT_CMD, 16, 2, .wo, .any⟩
/-- R708 (18_boot_calibration.md). -/
def R.BOOT_SLOT_STAT : Reg := ⟨0x410104, 1, 0, 1, 0⟩
def F.BOOT_SLOT_STAT_CAUSE : Fld := ⟨R.BOOT_SLOT_STAT, 0, 4, .ro, .any⟩
def F.BOOT_SLOT_STAT_RESULT : Fld := ⟨R.BOOT_SLOT_STAT, 16, 4, .ro, .any⟩
def F.BOOT_SLOT_STAT_BUSY : Fld := ⟨R.BOOT_SLOT_STAT, 31, 1, .ro, .any⟩
/-- R709 (18_boot_calibration.md). -/
def R.BOOT_FL_ADDR : Reg := ⟨0x410200, 1, 0, 1, 0⟩
def F.BOOT_FL_ADDR_ADDR : Fld := ⟨R.BOOT_FL_ADDR, 0, 26, .rw, .any⟩
/-- R709 (18_boot_calibration.md). -/
def R.BOOT_FL_CMD : Reg := ⟨0x410204, 1, 0, 1, 0⟩
def F.BOOT_FL_CMD_OP : Fld := ⟨R.BOOT_FL_CMD, 0, 2, .wo, .any⟩
/-- R709 (18_boot_calibration.md). -/
def R.BOOT_FL_STAT : Reg := ⟨0x410208, 1, 0, 1, 0⟩
def F.BOOT_FL_STAT_BUSY : Fld := ⟨R.BOOT_FL_STAT, 0, 1, .ro, .any⟩
def F.BOOT_FL_STAT_ERR : Fld := ⟨R.BOOT_FL_STAT, 1, 1, .ro, .any⟩
def F.BOOT_FL_STAT_REFUSED : Fld := ⟨R.BOOT_FL_STAT, 2, 1, .ro, .any⟩
/-- R710 (18_boot_calibration.md). -/
def R.CAL_STAT : Reg := ⟨0x411000, 1, 0, 1, 0⟩
def F.CAL_STAT_REVOKED : Fld := ⟨R.CAL_STAT, 0, 4, .ro, .any⟩
def F.CAL_STAT_FACT_BAD : Fld := ⟨R.CAL_STAT, 31, 1, .ro, .any⟩
/-- R710 (18_boot_calibration.md). -/
def R.CAL_OTP : Reg := ⟨0x412000, 512, 4, 1, 0⟩
def F.CAL_OTP_WORD : Fld := ⟨R.CAL_OTP, 0, 32, .ro, .any⟩
/-- R711 (18_boot_calibration.md). -/
def R.CAL_UC_PT : Reg := ⟨0x418000, 2048, 16, 1, 0⟩
def F.CAL_UC_PT_POINT : Fld := ⟨R.CAL_UC_PT, 0, 15, .rw, .any⟩
def F.CAL_UC_PT_EN : Fld := ⟨R.CAL_UC_PT, 31, 1, .rw, .any⟩
/-- R711 (18_boot_calibration.md). -/
def R.CAL_UC_GAIN : Reg := ⟨0x418004, 2048, 16, 1, 0⟩
def F.CAL_UC_GAIN_VALUE : Fld := ⟨R.CAL_UC_GAIN, 0, 32, .rw, .any⟩
/-- R711 (18_boot_calibration.md). -/
def R.CAL_UC_OFS : Reg := ⟨0x418008, 2048, 16, 1, 0⟩
def F.CAL_UC_OFS_VALUE : Fld := ⟨R.CAL_UC_OFS, 0, 32, .rw, .any⟩
/-- R739 (19_clocks_power.md). -/
def R.SYS_D2D_ERR : Reg := ⟨0x18, 1, 0, 1, 0⟩
def F.SYS_D2D_ERR_CRC : Fld := ⟨R.SYS_D2D_ERR, 0, 8, .rcl, .any⟩
def F.SYS_D2D_ERR_RETRAIN : Fld := ⟨R.SYS_D2D_ERR, 8, 8, .rcl, .any⟩
def F.SYS_D2D_ERR_RESEND : Fld := ⟨R.SYS_D2D_ERR, 16, 16, .rcl, .any⟩
/-- R740 (19_clocks_power.md). -/
def R.SYS_CLK_STAT : Reg := ⟨0x1C, 1, 0, 1, 0⟩
def F.SYS_CLK_STAT_LE_CORR : Fld := ⟨R.SYS_CLK_STAT, 0, 16, .ro, .any⟩
def F.SYS_CLK_STAT_DISC_FLT : Fld := ⟨R.SYS_CLK_STAT, 29, 1, .w1c, .any⟩
def F.SYS_CLK_STAT_LE_FREE : Fld := ⟨R.SYS_CLK_STAT, 30, 1, .ro, .any⟩
def F.SYS_CLK_STAT_REF_OK : Fld := ⟨R.SYS_CLK_STAT, 31, 1, .ro, .any⟩
/-- R741 (19_clocks_power.md). -/
def R.SYS_XOVR : Reg := ⟨0x20, 1, 0, 1, 0⟩
def F.SYS_XOVR_GROUP : Fld := ⟨R.SYS_XOVR, 0, 11, .w1c, .any⟩
/-- R741 (19_clocks_power.md). -/
def R.SYS_XCNT : Reg := ⟨0x24, 1, 0, 1, 0⟩
def F.SYS_XCNT_MERGED : Fld := ⟨R.SYS_XCNT, 0, 16, .rcl, .any⟩
/-- R742 (19_clocks_power.md). -/
def R.AON_STAT : Reg := ⟨0x420000, 1, 0, 1, 0⟩
def F.AON_STAT_ON_BAT : Fld := ⟨R.AON_STAT, 0, 1, .ro, .any⟩
def F.AON_STAT_POWER_LOST : Fld := ⟨R.AON_STAT, 1, 1, .w1c, .any⟩
def F.AON_STAT_BAT_GONE : Fld := ⟨R.AON_STAT, 2, 1, .w1c, .any⟩
def F.AON_STAT_RTC_VALID : Fld := ⟨R.AON_STAT, 3, 1, .ro, .any⟩
def F.AON_STAT_RTC_STOP : Fld := ⟨R.AON_STAT, 4, 1, .ro, .any⟩
/-- R743 (19_clocks_power.md). -/
def R.AON_RST_CAUSE : Reg := ⟨0x420004, 1, 0, 1, 0⟩
def F.AON_RST_CAUSE_POR_LOGIC : Fld := ⟨R.AON_RST_CAUSE, 0, 1, .w1c, .any⟩
def F.AON_RST_CAUSE_POR_PD : Fld := ⟨R.AON_RST_CAUSE, 1, 1, .w1c, .any⟩
def F.AON_RST_CAUSE_WARM_HOST : Fld := ⟨R.AON_RST_CAUSE, 2, 1, .w1c, .any⟩
def F.AON_RST_CAUSE_WARM_CLOCK : Fld := ⟨R.AON_RST_CAUSE, 3, 1, .w1c, .any⟩
def F.AON_RST_CAUSE_WARM_D2D : Fld := ⟨R.AON_RST_CAUSE, 4, 1, .w1c, .any⟩
def F.AON_RST_CAUSE_WARM_PD : Fld := ⟨R.AON_RST_CAUSE, 5, 1, .w1c, .any⟩
def F.AON_RST_CAUSE_PD_CLOCK : Fld := ⟨R.AON_RST_CAUSE, 6, 1, .w1c, .any⟩
def F.AON_RST_CAUSE_PWRCYC : Fld := ⟨R.AON_RST_CAUSE, 7, 1, .w1c, .any⟩
/-- R744 (19_clocks_power.md). -/
def R.AON_SUP_STAT : Reg := ⟨0x420008, 1, 0, 1, 0⟩
def F.AON_SUP_STAT_CORE_WARN : Fld := ⟨R.AON_SUP_STAT, 0, 1, .ro, .any⟩
def F.AON_SUP_STAT_IO_WARN : Fld := ⟨R.AON_SUP_STAT, 1, 1, .ro, .any⟩
def F.AON_SUP_STAT_AFE_WARN : Fld := ⟨R.AON_SUP_STAT, 2, 1, .ro, .any⟩
def F.AON_SUP_STAT_VBAT_LOW : Fld := ⟨R.AON_SUP_STAT, 3, 1, .ro, .any⟩
def F.AON_SUP_STAT_VBAT : Fld := ⟨R.AON_SUP_STAT, 16, 16, .ro, .any⟩
/-- R744 (19_clocks_power.md). -/
def R.AON_SUP_EVT : Reg := ⟨0x42000C, 1, 0, 1, 0⟩
def F.AON_SUP_EVT_CORE_WARN : Fld := ⟨R.AON_SUP_EVT, 0, 1, .w1c, .any⟩
def F.AON_SUP_EVT_IO_WARN : Fld := ⟨R.AON_SUP_EVT, 1, 1, .w1c, .any⟩
def F.AON_SUP_EVT_AFE_WARN : Fld := ⟨R.AON_SUP_EVT, 2, 1, .w1c, .any⟩
def F.AON_SUP_EVT_VBAT_LOW : Fld := ⟨R.AON_SUP_EVT, 3, 1, .w1c, .any⟩
/-- R745 (19_clocks_power.md). -/
def R.AON_CHG_CFG : Reg := ⟨0x420010, 1, 0, 1, 0⟩
def F.AON_CHG_CFG_ICC : Fld := ⟨R.AON_CHG_CFG, 0, 5, .rw, .range 1 20⟩
def F.AON_CHG_CFG_EN : Fld := ⟨R.AON_CHG_CFG, 31, 1, .rw, .any⟩
/-- R745 (19_clocks_power.md). -/
def R.AON_CHG_STAT : Reg := ⟨0x420014, 1, 0, 1, 0⟩
def F.AON_CHG_STAT_MODE : Fld := ⟨R.AON_CHG_STAT, 0, 2, .ro, .any⟩
def F.AON_CHG_STAT_ICHG : Fld := ⟨R.AON_CHG_STAT, 16, 16, .ro, .any⟩
/-- R746 (19_clocks_power.md). -/
def R.AON_RTC_LO : Reg := ⟨0x420020, 1, 0, 1, 0⟩
def F.AON_RTC_LO_TIME : Fld := ⟨R.AON_RTC_LO, 0, 32, .ro, .any⟩
/-- R746 (19_clocks_power.md). -/
def R.AON_RTC_HI : Reg := ⟨0x420024, 1, 0, 1, 0⟩
def F.AON_RTC_HI_TIME : Fld := ⟨R.AON_RTC_HI, 0, 32, .ro, .any⟩
/-- R747 (19_clocks_power.md). -/
def R.AON_LOG_SEQ_LO : Reg := ⟨0x420040, 1, 0, 1, 0⟩
def F.AON_LOG_SEQ_LO_VALUE : Fld := ⟨R.AON_LOG_SEQ_LO, 0, 32, .ro, .any⟩
/-- R747 (19_clocks_power.md). -/
def R.AON_LOG_SEQ_HI : Reg := ⟨0x420044, 1, 0, 1, 0⟩
def F.AON_LOG_SEQ_HI_VALUE : Fld := ⟨R.AON_LOG_SEQ_HI, 0, 32, .ro, .any⟩
/-- R747 (19_clocks_power.md). -/
def R.AON_LOG_MIR_LO : Reg := ⟨0x420048, 1, 0, 1, 0⟩
def F.AON_LOG_MIR_LO_VALUE : Fld := ⟨R.AON_LOG_MIR_LO, 0, 32, .ro, .any⟩
/-- R747 (19_clocks_power.md). -/
def R.AON_LOG_MIR_HI : Reg := ⟨0x42004C, 1, 0, 1, 0⟩
def F.AON_LOG_MIR_HI_VALUE : Fld := ⟨R.AON_LOG_MIR_HI, 0, 32, .ro, .any⟩
/-- R747 (19_clocks_power.md). -/
def R.AON_EPOCH : Reg := ⟨0x420050, 1, 0, 1, 0⟩
def F.AON_EPOCH_EPOCH : Fld := ⟨R.AON_EPOCH, 0, 32, .ro, .any⟩
/-- R771 (20_panel_keypad.md). -/
def R.PNL_CTRL : Reg := ⟨0x280000, 1, 0, 1, 0⟩
def F.PNL_CTRL_INV : Fld := ⟨R.PNL_CTRL, 0, 2, .rw, .any⟩
def F.PNL_CTRL_ON : Fld := ⟨R.PNL_CTRL, 31, 1, .rw, .any⟩
/-- R771 (20_panel_keypad.md). -/
def R.PNL_STAT : Reg := ⟨0x280004, 1, 0, 1, 0⟩
def F.PNL_STAT_LINE : Fld := ⟨R.PNL_STAT, 0, 10, .ro, .any⟩
def F.PNL_STAT_VCOM : Fld := ⟨R.PNL_STAT, 16, 10, .ro, .any⟩
def F.PNL_STAT_VT_HOLD : Fld := ⟨R.PNL_STAT, 29, 1, .ro, .any⟩
def F.PNL_STAT_PSTATE : Fld := ⟨R.PNL_STAT, 30, 2, .ro, .any⟩
/-- R772 (20_panel_keypad.md). -/
def R.PNL_CLK : Reg := ⟨0x280008, 1, 0, 1, 0⟩
def F.PNL_CLK_FREQ : Fld := ⟨R.PNL_CLK, 0, 9, .rw, .range 50 330⟩
/-- R772 (20_panel_keypad.md). -/
def R.PNL_HTIM : Reg := ⟨0x28000C, 1, 0, 1, 0⟩
def F.PNL_HTIM_HBP : Fld := ⟨R.PNL_HTIM, 8, 8, .rw, .range 1 255⟩
def F.PNL_HTIM_HSW : Fld := ⟨R.PNL_HTIM, 16, 8, .rw, .range 1 255⟩
def F.PNL_HTIM_HFP : Fld := ⟨R.PNL_HTIM, 24, 8, .rw, .range 1 255⟩
/-- R772 (20_panel_keypad.md). -/
def R.PNL_VTIM : Reg := ⟨0x280014, 1, 0, 1, 0⟩
def F.PNL_VTIM_HBP : Fld := ⟨R.PNL_VTIM, 8, 8, .rw, .range 1 255⟩
def F.PNL_VTIM_HSW : Fld := ⟨R.PNL_VTIM, 16, 8, .rw, .range 1 255⟩
def F.PNL_VTIM_HFP : Fld := ⟨R.PNL_VTIM, 24, 8, .rw, .range 1 255⟩
/-- R772 (20_panel_keypad.md). -/
def R.PNL_SIZE : Reg := ⟨0x280010, 1, 0, 1, 0⟩
def F.PNL_SIZE_HACT : Fld := ⟨R.PNL_SIZE, 0, 10, .rw, .range 1 800⟩
def F.PNL_SIZE_VACT : Fld := ⟨R.PNL_SIZE, 16, 9, .rw, .range 1 480⟩
/-- R772 (20_panel_keypad.md). -/
def R.PNL_SYNC : Reg := ⟨0x280018, 1, 0, 1, 0⟩
def F.PNL_SYNC_HS_POL : Fld := ⟨R.PNL_SYNC, 0, 1, .rw, .any⟩
def F.PNL_SYNC_VS_POL : Fld := ⟨R.PNL_SYNC, 1, 1, .rw, .any⟩
def F.PNL_SYNC_DE_POL : Fld := ⟨R.PNL_SYNC, 2, 1, .rw, .any⟩
def F.PNL_SYNC_PEDGE : Fld := ⟨R.PNL_SYNC, 3, 1, .rw, .any⟩
/-- R772 (20_panel_keypad.md). -/
def R.PNL_FB : Reg := ⟨0x28001C, 1, 0, 1, 0⟩
def F.PNL_FB_BASE : Fld := ⟨R.PNL_FB, 0, 10, .rw, .any⟩
/-- R773 (20_panel_keypad.md). -/
def R.PNL_VCOM_CFG : Reg := ⟨0x280020, 1, 0, 1, 0⟩
def F.PNL_VCOM_CFG_DEF : Fld := ⟨R.PNL_VCOM_CFG, 0, 10, .rw, .any⟩
def F.PNL_VCOM_CFG_TEN : Fld := ⟨R.PNL_VCOM_CFG, 15, 1, .rw, .any⟩
def F.PNL_VCOM_CFG_TPT : Fld := ⟨R.PNL_VCOM_CFG, 16, 15, .rw, .any⟩
/-- R773 (20_panel_keypad.md). -/
def R.PNL_VT : Reg := ⟨0x280040, 8, 4, 1, 0⟩
def F.PNL_VT_CODE : Fld := ⟨R.PNL_VT, 0, 10, .rw, .any⟩
def F.PNL_VT_TEMP : Fld := ⟨R.PNL_VT, 16, 16, .rw, .any⟩
/-- R774 (20_panel_keypad.md). -/
def R.PNL_SWING : Reg := ⟨0x280024, 1, 0, 1, 0⟩
def F.PNL_SWING_SWING : Fld := ⟨R.PNL_SWING, 0, 10, .rw, .any⟩
/-- R774 (20_panel_keypad.md). -/
def R.PNL_PSEQ : Reg := ⟨0x280060, 1, 0, 1, 0⟩
def F.PNL_PSEQ_T_BL : Fld := ⟨R.PNL_PSEQ, 0, 8, .rw, .any⟩
def F.PNL_PSEQ_T_SCAN : Fld := ⟨R.PNL_PSEQ, 8, 8, .rw, .any⟩
def F.PNL_PSEQ_T_VGH : Fld := ⟨R.PNL_PSEQ, 16, 8, .rw, .any⟩
def F.PNL_PSEQ_T_VGL : Fld := ⟨R.PNL_PSEQ, 24, 8, .rw, .any⟩
/-- R774 (20_panel_keypad.md). -/
def R.PNL_PSEQ2 : Reg := ⟨0x280064, 1, 0, 1, 0⟩
def F.PNL_PSEQ2_BLANK : Fld := ⟨R.PNL_PSEQ2, 0, 4, .rw, .range 1 15⟩
def F.PNL_PSEQ2_DISCH : Fld := ⟨R.PNL_PSEQ2, 8, 4, .rw, .range 1 15⟩
def F.PNL_PSEQ2_DCOLOR : Fld := ⟨R.PNL_PSEQ2, 16, 16, .rw, .any⟩
/-- R774 (20_panel_keypad.md). -/
def R.PNL_BL : Reg := ⟨0x280068, 1, 0, 1, 0⟩
def F.PNL_BL_DUTY : Fld := ⟨R.PNL_BL, 0, 10, .rw, .any⟩
/-- R775 (20_panel_keypad.md). -/
def R.PNL_EVT : Reg := ⟨0x280070, 1, 0, 1, 0⟩
def F.PNL_EVT_FRAME : Fld := ⟨R.PNL_EVT, 0, 1, .w1c, .any⟩
def F.PNL_EVT_PWR : Fld := ⟨R.PNL_EVT, 1, 1, .w1c, .any⟩
def F.PNL_EVT_KEYQ : Fld := ⟨R.PNL_EVT, 2, 1, .ro, .any⟩
def F.PNL_EVT_KEYOVF : Fld := ⟨R.PNL_EVT, 3, 1, .w1c, .any⟩
def F.PNL_EVT_ENCERR : Fld := ⟨R.PNL_EVT, 4, 1, .w1c, .any⟩
def F.PNL_EVT_CRACK : Fld := ⟨R.PNL_EVT, 5, 1, .w1c, .any⟩
def F.PNL_EVT_ACCESS : Fld := ⟨R.PNL_EVT, 6, 1, .w1c, .any⟩
def F.PNL_EVT_UNDERRUN : Fld := ⟨R.PNL_EVT, 7, 1, .w1c, .any⟩
/-- R775 (20_panel_keypad.md). -/
def R.PNL_IEN : Reg := ⟨0x280074, 1, 0, 1, 0⟩
def F.PNL_IEN_FRAME : Fld := ⟨R.PNL_IEN, 0, 1, .rw, .any⟩
def F.PNL_IEN_PWR : Fld := ⟨R.PNL_IEN, 1, 1, .rw, .any⟩
def F.PNL_IEN_KEYQ : Fld := ⟨R.PNL_IEN, 2, 1, .rw, .any⟩
def F.PNL_IEN_KEYOVF : Fld := ⟨R.PNL_IEN, 3, 1, .rw, .any⟩
def F.PNL_IEN_ENCERR : Fld := ⟨R.PNL_IEN, 4, 1, .rw, .any⟩
def F.PNL_IEN_CRACK : Fld := ⟨R.PNL_IEN, 5, 1, .rw, .any⟩
def F.PNL_IEN_ACCESS : Fld := ⟨R.PNL_IEN, 6, 1, .rw, .any⟩
def F.PNL_IEN_UNDERRUN : Fld := ⟨R.PNL_IEN, 7, 1, .rw, .any⟩
/-- R776 (20_panel_keypad.md). -/
def R.PNL_FLT : Reg := ⟨0x280078, 1, 0, 1, 0⟩
def F.PNL_FLT_CRACK_OPEN : Fld := ⟨R.PNL_FLT, 0, 1, .w1c, .any⟩
def F.PNL_FLT_CRACK_SHORT : Fld := ⟨R.PNL_FLT, 1, 1, .w1c, .any⟩
/-- R776 (20_panel_keypad.md). -/
def R.PNL_CNT : Reg := ⟨0x28007C, 1, 0, 1, 0⟩
def F.PNL_CNT_KEYDROP : Fld := ⟨R.PNL_CNT, 0, 16, .rcl, .any⟩
def F.PNL_CNT_UNDERRUN : Fld := ⟨R.PNL_CNT, 16, 16, .rcl, .any⟩
/-- R777 (20_panel_keypad.md). -/
def R.PNL_BLK_XY0 : Reg := ⟨0x280100, 8, 16, 1, 0⟩
def F.PNL_BLK_XY0_X : Fld := ⟨R.PNL_BLK_XY0, 0, 10, .rw, .any⟩
def F.PNL_BLK_XY0_Y : Fld := ⟨R.PNL_BLK_XY0, 16, 9, .rw, .any⟩
/-- R777 (20_panel_keypad.md). -/
def R.PNL_BLK_XY1 : Reg := ⟨0x280104, 8, 16, 1, 0⟩
def F.PNL_BLK_XY1_X : Fld := ⟨R.PNL_BLK_XY1, 0, 10, .rw, .any⟩
def F.PNL_BLK_XY1_Y : Fld := ⟨R.PNL_BLK_XY1, 16, 9, .rw, .any⟩
/-- R777 (20_panel_keypad.md). -/
def R.PNL_BLK_COLOR : Reg := ⟨0x280108, 8, 16, 1, 0⟩
def F.PNL_BLK_COLOR_COLOR : Fld := ⟨R.PNL_BLK_COLOR, 0, 16, .rw, .any⟩
/-- R777 (20_panel_keypad.md). -/
def R.PNL_BLK_CTRL : Reg := ⟨0x28010C, 8, 16, 1, 0⟩
def F.PNL_BLK_CTRL_ON : Fld := ⟨R.PNL_BLK_CTRL, 0, 8, .rw, .any⟩
def F.PNL_BLK_CTRL_PERIOD : Fld := ⟨R.PNL_BLK_CTRL, 8, 8, .rw, .range 2 255⟩
def F.PNL_BLK_CTRL_MODE : Fld := ⟨R.PNL_BLK_CTRL, 24, 2, .rw, .range 0 2⟩
/-- R778 (20_panel_keypad.md). -/
def R.PNL_CRK_CFG : Reg := ⟨0x280180, 1, 0, 1, 0⟩
def F.PNL_CRK_CFG_RMIN : Fld := ⟨R.PNL_CRK_CFG, 0, 11, .rw, .any⟩
def F.PNL_CRK_CFG_RMAX : Fld := ⟨R.PNL_CRK_CFG, 16, 11, .rw, .range 1 2000⟩
def F.PNL_CRK_CFG_ACT : Fld := ⟨R.PNL_CRK_CFG, 30, 1, .rw, .any⟩
def F.PNL_CRK_CFG_EN : Fld := ⟨R.PNL_CRK_CFG, 31, 1, .rw, .any⟩
/-- R778 (20_panel_keypad.md). -/
def R.PNL_CRK_STAT : Reg := ⟨0x280184, 1, 0, 1, 0⟩
def F.PNL_CRK_STAT_RES : Fld := ⟨R.PNL_CRK_STAT, 0, 11, .ro, .any⟩
/-- R779 (20_panel_keypad.md). -/
def R.PNL_KEY_CFG : Reg := ⟨0x280200, 1, 0, 1, 0⟩
def F.PNL_KEY_CFG_COLT : Fld := ⟨R.PNL_KEY_CFG, 0, 10, .rw, .range 10 1000⟩
def F.PNL_KEY_CFG_DEB : Fld := ⟨R.PNL_KEY_CFG, 16, 4, .rw, .range 1 15⟩
/-- R779 (20_panel_keypad.md). -/
def R.PNL_KEYS_LO : Reg := ⟨0x280204, 1, 0, 1, 0⟩
def F.PNL_KEYS_LO_KEYS : Fld := ⟨R.PNL_KEYS_LO, 0, 32, .ro, .any⟩
/-- R779 (20_panel_keypad.md). -/
def R.PNL_KEYS_HI : Reg := ⟨0x280208, 1, 0, 1, 0⟩
def F.PNL_KEYS_HI_KEYS : Fld := ⟨R.PNL_KEYS_HI, 0, 32, .ro, .any⟩
/-- R779 (20_panel_keypad.md). -/
def R.PNL_KEYQ_HEAD0 : Reg := ⟨0x28020C, 1, 0, 1, 0⟩
def F.PNL_KEYQ_HEAD0_WORD : Fld := ⟨R.PNL_KEYQ_HEAD0, 0, 32, .ro, .any⟩
/-- R779 (20_panel_keypad.md). -/
def R.PNL_KEYQ_HEAD1 : Reg := ⟨0x280210, 1, 0, 1, 0⟩
def F.PNL_KEYQ_HEAD1_WORD : Fld := ⟨R.PNL_KEYQ_HEAD1, 0, 32, .ro, .any⟩
/-- R779 (20_panel_keypad.md). -/
def R.PNL_KEYQ_POP : Reg := ⟨0x280214, 1, 0, 1, 0⟩
def F.PNL_KEYQ_POP_QSEQ : Fld := ⟨R.PNL_KEYQ_POP, 0, 16, .wo, .any⟩
/-- R779 (20_panel_keypad.md). -/
def R.PNL_KEYQ_STAT : Reg := ⟨0x280218, 1, 0, 1, 0⟩
def F.PNL_KEYQ_STAT_COUNT : Fld := ⟨R.PNL_KEYQ_STAT, 0, 7, .ro, .any⟩
/-- R780 (20_panel_keypad.md). -/
def R.PNL_ENC_CFG : Reg := ⟨0x280240, 4, 8, 1, 0⟩
def F.PNL_ENC_CFG_CPD : Fld := ⟨R.PNL_ENC_CFG, 0, 3, .rw, .codes [1, 2, 4]⟩
def F.PNL_ENC_CFG_REST : Fld := ⟨R.PNL_ENC_CFG, 3, 2, .rw, .any⟩
def F.PNL_ENC_CFG_ALIGN : Fld := ⟨R.PNL_ENC_CFG, 5, 1, .rw, .any⟩
def F.PNL_ENC_CFG_INV : Fld := ⟨R.PNL_ENC_CFG, 6, 1, .rw, .any⟩
def F.PNL_ENC_CFG_FILT : Fld := ⟨R.PNL_ENC_CFG, 8, 4, .rw, .any⟩
/-- R780 (20_panel_keypad.md). -/
def R.PNL_ENC_POS : Reg := ⟨0x280244, 4, 8, 1, 0⟩
def F.PNL_ENC_POS_POS : Fld := ⟨R.PNL_ENC_POS, 0, 16, .ro, .any⟩
def F.PNL_ENC_POS_ERR : Fld := ⟨R.PNL_ENC_POS, 24, 8, .rcl, .any⟩
/-- R781 (20_panel_keypad.md). -/
def R.PNL_ACC_CFG : Reg := ⟨0x280300, 3, 8, 1, 0⟩
def F.PNL_ACC_CFG_TENANT : Fld := ⟨R.PNL_ACC_CFG, 0, 8, .rw, .any⟩
def F.PNL_ACC_CFG_PRIO : Fld := ⟨R.PNL_ACC_CFG, 16, 4, .rw, .range 1 15⟩
def F.PNL_ACC_CFG_EN : Fld := ⟨R.PNL_ACC_CFG, 31, 1, .rw, .any⟩
/-- R781 (20_panel_keypad.md). -/
def R.PNL_ACC_CODE : Reg := ⟨0x280304, 3, 8, 1, 0⟩
def F.PNL_ACC_CODE_CODE : Fld := ⟨R.PNL_ACC_CODE, 0, 32, .wo, .any⟩
/-- R781 (20_panel_keypad.md). -/
def R.PNL_ACC_STAT : Reg := ⟨0x280320, 1, 0, 1, 0⟩
def F.PNL_ACC_STAT_LEVEL : Fld := ⟨R.PNL_ACC_STAT, 0, 2, .ro, .any⟩
def F.PNL_ACC_STAT_FAILS : Fld := ⟨R.PNL_ACC_STAT, 8, 3, .ro, .any⟩
def F.PNL_ACC_STAT_LOCKED : Fld := ⟨R.PNL_ACC_STAT, 31, 1, .ro, .any⟩
/-- R781 (20_panel_keypad.md). -/
def R.PNL_ACC_TRY : Reg := ⟨0x280324, 1, 0, 1, 0⟩
def F.PNL_ACC_TRY_CODE : Fld := ⟨R.PNL_ACC_TRY, 0, 32, .wo, .any⟩
/-- R781 (20_panel_keypad.md). -/
def R.PNL_ACC_IDLE : Reg := ⟨0x280328, 1, 0, 1, 0⟩
def F.PNL_ACC_IDLE_IDLE : Fld := ⟨R.PNL_ACC_IDLE, 0, 10, .rw, .range 10 1000⟩
/-- R781 (20_panel_keypad.md). -/
def R.PNL_ACC_LVL : Reg := ⟨0x28032C, 1, 0, 1, 0⟩
def F.PNL_ACC_LVL_LEVEL : Fld := ⟨R.PNL_ACC_LVL, 0, 2, .wo, .any⟩
/-- R782 (20_panel_keypad.md). -/
def R.PNL_WR_PT : Reg := ⟨0x280340, 1, 0, 1, 0⟩
def F.PNL_WR_PT_POINT : Fld := ⟨R.PNL_WR_PT, 0, 15, .rw, .any⟩
/-- R782 (20_panel_keypad.md). -/
def R.PNL_WR_VAL : Reg := ⟨0x280344, 1, 0, 1, 0⟩
def F.PNL_WR_VAL_VALUE : Fld := ⟨R.PNL_WR_VAL, 0, 32, .rw, .any⟩
/-- R782 (20_panel_keypad.md). -/
def R.PNL_WR_CMD : Reg := ⟨0x280348, 1, 0, 1, 0⟩
def F.PNL_WR_CMD_GO : Fld := ⟨R.PNL_WR_CMD, 0, 1, .wo, .any⟩
def F.PNL_WR_CMD_REL : Fld := ⟨R.PNL_WR_CMD, 1, 1, .wo, .any⟩
/-- R782 (20_panel_keypad.md). -/
def R.PNL_WR_RES : Reg := ⟨0x28034C, 1, 0, 1, 0⟩
def F.PNL_WR_RES_RES : Fld := ⟨R.PNL_WR_RES, 0, 4, .ro, .any⟩
/-- R649 (16_interrupts.md). -/
def R.IC_EN : Reg := ⟨0x10400, 8, 4, 1, 0⟩
def F.IC_EN_EN : Fld := ⟨R.IC_EN, 0, 32, .ro, .any⟩
/-- R649 (16_interrupts.md). -/
def R.IC_EN_SET : Reg := ⟨0x10420, 8, 4, 1, 0⟩
def F.IC_EN_SET_EN : Fld := ⟨R.IC_EN_SET, 0, 32, .w1s, .any⟩
/-- R649 (16_interrupts.md). -/
def R.IC_EN_CLR : Reg := ⟨0x10440, 8, 4, 1, 0⟩
def F.IC_EN_CLR_EN : Fld := ⟨R.IC_EN_CLR, 0, 32, .w1c, .any⟩
/-- R649 (16_interrupts.md). -/
def R.IC_PEND : Reg := ⟨0x10480, 8, 4, 1, 0⟩
def F.IC_PEND_PEND : Fld := ⟨R.IC_PEND, 0, 32, .ro, .any⟩
/-- R649 (16_interrupts.md). -/
def R.IC_PEND_SET : Reg := ⟨0x104A0, 8, 4, 1, 0⟩
def F.IC_PEND_SET_PEND : Fld := ⟨R.IC_PEND_SET, 0, 32, .w1s, .any⟩
/-- R649 (16_interrupts.md). -/
def R.IC_PEND_CLR : Reg := ⟨0x104C0, 8, 4, 1, 0⟩
def F.IC_PEND_CLR_PEND : Fld := ⟨R.IC_PEND_CLR, 0, 32, .w1c, .any⟩
/-- R649 (16_interrupts.md). -/
def R.IC_LINE : Reg := ⟨0x10500, 8, 4, 1, 0⟩
def F.IC_LINE_LINE : Fld := ⟨R.IC_LINE, 0, 32, .ro, .any⟩
/-- R649 (16_interrupts.md). -/
def R.IC_ACTIVE : Reg := ⟨0x10520, 8, 4, 1, 0⟩
def F.IC_ACTIVE_ACTIVE : Fld := ⟨R.IC_ACTIVE, 0, 32, .ro, .any⟩

/-- The registers of block SYS with their fields. -/
def regTableSys : List (Reg × List Fld) := [
  (R.SYS_ID, [F.SYS_ID_STEP_MINOR, F.SYS_ID_STEP_MAJOR, F.SYS_ID_PART]),
  (R.SYS_STRAPS, [F.SYS_STRAPS_MEMBER, F.SYS_STRAPS_ISLAND, F.SYS_STRAPS_TCRIT, F.SYS_STRAPS_BOOTSEL, F.SYS_STRAPS_HOSTMODE, F.SYS_STRAPS_MASTERPRI]),
  (R.SYS_ROLE, [F.SYS_ROLE_ISLAND_MASTER, F.SYS_ROLE_CAMPUS_MASTER, F.SYS_ROLE_RING_CLOSED]),
  (R.SYS_D2D_STAT, [F.SYS_D2D_STAT_LINK_UP, F.SYS_D2D_STAT_LOST, F.SYS_D2D_STAT_LOSS_COUNT]),
  (R.SYS_D2D_DROP, [F.SYS_D2D_DROP_WRITES, F.SYS_D2D_DROP_READS]),
  (R.SYS_UNMAPPED, [F.SYS_UNMAPPED_ADDR, F.SYS_UNMAPPED_VALID, F.SYS_UNMAPPED_WRITE]),
  (R.SYS_PT_PROF_AGE, [F.SYS_PT_PROF_AGE_AGE_MAX, F.SYS_PT_PROF_AGE_MODE]),
  (R.SYS_PT_PROF_DB, [F.SYS_PT_PROF_DB_DEADBAND]),
  (R.SYS_PT_PROF_PER, [F.SYS_PT_PROF_PER_MIN_PERIOD, F.SYS_PT_PROF_PER_MAX_PERIOD]),
  (R.SYS_ZONE_CFG, [F.SYS_ZONE_CFG_TENANT, F.SYS_ZONE_CFG_ENABLED]),
  (R.SYS_ZONE_SUM, [F.SYS_ZONE_SUM_NOTGOOD, F.SYS_ZONE_SUM_FORCED]),
  (R.SYS_PT_ECC, [F.SYS_PT_ECC_SBE, F.SYS_PT_ECC_DBE]),
  (R.SYS_PT_DBE_LAST, [F.SYS_PT_DBE_LAST_INDEX, F.SYS_PT_DBE_LAST_VALID, F.SYS_PT_DBE_LAST_WORD]),
  (R.SYS_PT_REFUSED, [F.SYS_PT_REFUSED_SOURCE, F.SYS_PT_REFUSED_HELD]),
  (R.SYS_PT_REL, [F.SYS_PT_REL_INDEX, F.SYS_PT_REL_PRIO]),
  (R.SYS_D2D_ERR, [F.SYS_D2D_ERR_CRC, F.SYS_D2D_ERR_RETRAIN, F.SYS_D2D_ERR_RESEND]),
  (R.SYS_CLK_STAT, [F.SYS_CLK_STAT_LE_CORR, F.SYS_CLK_STAT_DISC_FLT, F.SYS_CLK_STAT_LE_FREE, F.SYS_CLK_STAT_REF_OK]),
  (R.SYS_XOVR, [F.SYS_XOVR_GROUP]),
  (R.SYS_XCNT, [F.SYS_XCNT_MERGED])]

/-- The registers of block AON with their fields. -/
def regTableAon : List (Reg × List Fld) := [
  (R.AON_SAFE_STAT, [F.AON_SAFE_STAT_D2D, F.AON_SAFE_STAT_GUARD, F.AON_SAFE_STAT_WARM, F.AON_SAFE_STAT_LEFAULT, F.AON_SAFE_STAT_ENTRY_CHECK, F.AON_SAFE_STAT_ACTIVE]),
  (R.AON_SAFE_TIME_LO, [F.AON_SAFE_TIME_LO_TIME]),
  (R.AON_SAFE_TIME_HI, [F.AON_SAFE_TIME_HI_TIME]),
  (R.AON_SAFE_REL, [F.AON_SAFE_REL_COIL, F.AON_SAFE_REL_FAN, F.AON_SAFE_REL_AO, F.AON_SAFE_REL_DO, F.AON_SAFE_REL_ZBPWR, F.AON_SAFE_REL_ALL]),
  (R.AON_STAT, [F.AON_STAT_ON_BAT, F.AON_STAT_POWER_LOST, F.AON_STAT_BAT_GONE, F.AON_STAT_RTC_VALID, F.AON_STAT_RTC_STOP]),
  (R.AON_RST_CAUSE, [F.AON_RST_CAUSE_POR_LOGIC, F.AON_RST_CAUSE_POR_PD, F.AON_RST_CAUSE_WARM_HOST, F.AON_RST_CAUSE_WARM_CLOCK, F.AON_RST_CAUSE_WARM_D2D, F.AON_RST_CAUSE_WARM_PD, F.AON_RST_CAUSE_PD_CLOCK, F.AON_RST_CAUSE_PWRCYC]),
  (R.AON_SUP_STAT, [F.AON_SUP_STAT_CORE_WARN, F.AON_SUP_STAT_IO_WARN, F.AON_SUP_STAT_AFE_WARN, F.AON_SUP_STAT_VBAT_LOW, F.AON_SUP_STAT_VBAT]),
  (R.AON_SUP_EVT, [F.AON_SUP_EVT_CORE_WARN, F.AON_SUP_EVT_IO_WARN, F.AON_SUP_EVT_AFE_WARN, F.AON_SUP_EVT_VBAT_LOW]),
  (R.AON_CHG_CFG, [F.AON_CHG_CFG_ICC, F.AON_CHG_CFG_EN]),
  (R.AON_CHG_STAT, [F.AON_CHG_STAT_MODE, F.AON_CHG_STAT_ICHG]),
  (R.AON_RTC_LO, [F.AON_RTC_LO_TIME]),
  (R.AON_RTC_HI, [F.AON_RTC_HI_TIME]),
  (R.AON_LOG_SEQ_LO, [F.AON_LOG_SEQ_LO_VALUE]),
  (R.AON_LOG_SEQ_HI, [F.AON_LOG_SEQ_HI_VALUE]),
  (R.AON_LOG_MIR_LO, [F.AON_LOG_MIR_LO_VALUE]),
  (R.AON_LOG_MIR_HI, [F.AON_LOG_MIR_HI_VALUE]),
  (R.AON_EPOCH, [F.AON_EPOCH_EPOCH])]

/-- The registers of block PT with their fields. -/
def regTablePt : List (Reg × List Fld) := [
  (R.PT_VALUE, [F.PT_VALUE_VALUE]),
  (R.PT_STATUS, [F.PT_STATUS_QUAL, F.PT_STATUS_SRCFORCED, F.PT_STATUS_HP, F.PT_STATUS_HOLDER, F.PT_STATUS_AGE]),
  (R.PT_CONFIG, [F.PT_CONFIG_TENANT, F.PT_CONFIG_PROFILE, F.PT_CONFIG_ZONE, F.PT_CONFIG_INZONE]),
  (R.PT_BIND, [F.PT_BIND_REF, F.PT_BIND_KIND])]

/-- The registers of block REC with their fields. -/
def regTableRec : List (Reg × List Fld) := [
  (R.LE_REC_CTRL, [F.LE_REC_CTRL_TENANT, F.LE_REC_CTRL_ZONE, F.LE_REC_CTRL_INZONE, F.LE_REC_CTRL_SWGRP, F.LE_REC_CTRL_SWG_EN, F.LE_REC_CTRL_BANK, F.LE_REC_CTRL_BUMP, F.LE_REC_CTRL_TRACK, F.LE_REC_CTRL_SIGN, F.LE_REC_CTRL_EN]),
  (R.LE_REC_PTS, [F.LE_REC_PTS_PV, F.LE_REC_PTS_SP]),
  (R.LE_REC_OUT, [F.LE_REC_OUT_OUT, F.LE_REC_OUT_AGE_MAX]),
  (R.LE_REC_TIME, [F.LE_REC_TIME_PERIOD, F.LE_REC_TIME_PHASE]),
  (R.LE_REC_SUP, [F.LE_REC_SUP_DEADLINE, F.LE_REC_SUP_FE_TIME]),
  (R.LE_REC_OMIN, [F.LE_REC_OMIN_OUT_MIN]),
  (R.LE_REC_OMAX, [F.LE_REC_OMAX_OUT_MAX]),
  (R.LE_REC_RATE, [F.LE_REC_RATE_RATE]),
  (R.LE_REC_FEL, [F.LE_REC_FEL_FE_LIMIT]),
  (R.LE_REC_AKP, [F.LE_REC_AKP_KP_A]),
  (R.LE_REC_AKI, [F.LE_REC_AKI_KI_A]),
  (R.LE_REC_AKD, [F.LE_REC_AKD_KD_A]),
  (R.LE_REC_BKP, [F.LE_REC_BKP_KP_B]),
  (R.LE_REC_BKI, [F.LE_REC_BKI_KI_B]),
  (R.LE_REC_BKD, [F.LE_REC_BKD_KD_B]),
  (R.LE_REC_SHAPE, [F.LE_REC_SHAPE_BW_A, F.LE_REC_SHAPE_DF_A, F.LE_REC_SHAPE_BW_B, F.LE_REC_SHAPE_DF_B])]

/-- The registers of block LE with their fields. -/
def regTableLe : List (Reg × List Fld) := [
  (R.LE_LS_STAT, [F.LE_LS_STAT_FAULT_LOOP, F.LE_LS_STAT_SAFE, F.LE_LS_STAT_TIMER, F.LE_LS_STAT_FAULT]),
  (R.LE_LS_RETRY, [F.LE_LS_RETRY_COUNT]),
  (R.LE_LS_LAST, [F.LE_LS_LAST_LOOP, F.LE_LS_LAST_VALID, F.LE_LS_LAST_PART]),
  (R.LE_NUM, [F.LE_NUM_LOOP, F.LE_NUM_VALID, F.LE_NUM_COUNT]),
  (R.LE_ECC, [F.LE_ECC_SBE, F.LE_ECC_STATE_DBE, F.LE_ECC_REC_DBE]),
  (R.LE_ECC_LAST, [F.LE_ECC_LAST_LOOP, F.LE_ECC_LAST_VALID, F.LE_ECC_LAST_WORD, F.LE_ECC_LAST_RECORD]),
  (R.LE_STATE_SEL, [F.LE_STATE_SEL_LOOP, F.LE_STATE_SEL_READY, F.LE_STATE_SEL_REINIT]),
  (R.LE_STATE_I, [F.LE_STATE_I_VALUE]),
  (R.LE_STATE_D, [F.LE_STATE_D_VALUE]),
  (R.LE_STATE_Y, [F.LE_STATE_Y_VALUE]),
  (R.LE_STATE_U, [F.LE_STATE_U_VALUE]),
  (R.LE_STATE_FLAGS, [F.LE_STATE_FLAGS_INIT, F.LE_STATE_FLAGS_RESTART, F.LE_STATE_FLAGS_BUMP_PEND, F.LE_STATE_FLAGS_BANK_USED, F.LE_STATE_FLAGS_FROZEN, F.LE_STATE_FLAGS_LIM_HI, F.LE_STATE_FLAGS_LIM_LO, F.LE_STATE_FLAGS_RATE_LIM, F.LE_STATE_FLAGS_OUTCOME, F.LE_STATE_FLAGS_SCHED, F.LE_STATE_FLAGS_HOLDS]),
  (R.LE_TICK, [F.LE_TICK_TICK]),
  (R.LE_FRAME_STAT, [F.LE_FRAME_STAT_END_US, F.LE_FRAME_STAT_SLOTS]),
  (R.LE_FRAME_PEAK, [F.LE_FRAME_PEAK_END_US, F.LE_FRAME_PEAK_SLOTS]),
  (R.LE_MISS, [F.LE_MISS_COUNT, F.LE_MISS_FRAMES]),
  (R.LE_MISS_LAST, [F.LE_MISS_LAST_LOOP, F.LE_MISS_LAST_VALID, F.LE_MISS_LAST_FRAME]),
  (R.LE_FE, [F.LE_FE_ENTRIES, F.LE_FE_EXITS]),
  (R.LE_FE_LAST, [F.LE_FE_LAST_LOOP, F.LE_FE_LAST_VALID]),
  (R.LE_SWAP, [F.LE_SWAP_LOOP, F.LE_SWAP_BANK]),
  (R.LE_SWG_CMD, [F.LE_SWG_CMD_GROUP, F.LE_SWG_CMD_BANK, F.LE_SWG_CMD_ALIGN, F.LE_SWG_CMD_CANCEL, F.LE_SWG_CMD_DELAY]),
  (R.LE_OQ, [F.LE_OQ_PEAK, F.LE_OQ_TREND_DROP]),
  (R.LE_STATE_SCHED, [F.LE_STATE_SCHED_FE_COUNT, F.LE_STATE_SCHED_SWAP_BANK, F.LE_STATE_SCHED_SWAP_PEND]),
  (R.LE_SWG_CFG, [F.LE_SWG_CFG_OWNER]),
  (R.LE_SWG_STAT, [F.LE_SWG_STAT_LAST_COUNT, F.LE_SWG_STAT_BANK, F.LE_SWG_STAT_ALIGN, F.LE_SWG_STAT_PEND]),
  (R.LE_SWG_T, [F.LE_SWG_T_T])]

/-- The registers of block SK with their fields. -/
def regTableSk : List (Reg × List Fld) := [
  (R.SK_CTRL, [F.SK_CTRL_RUN, F.SK_CTRL_STOPPED]),
  (R.SK_STAT, [F.SK_STAT_TENANT, F.SK_STAT_GEN, F.SK_STAT_TASK, F.SK_STAT_BUSY, F.SK_STAT_CBUF]),
  (R.SK_ABORT, [F.SK_ABORT_TENANT, F.SK_ABORT_VALID, F.SK_ABORT_TASK, F.SK_ABORT_CAUSE]),
  (R.SK_ABORT_PC, [F.SK_ABORT_PC_PC]),
  (R.SK_CNT, [F.SK_CNT_DEFERRED, F.SK_CNT_ABORTS]),
  (R.SK_CNT2, [F.SK_CNT2_DENIED, F.SK_CNT2_COALESCED]),
  (R.SK_ECC, [F.SK_ECC_SBE, F.SK_ECC_DBE]),
  (R.SK_EPC, [F.SK_EPC_EPC]),
  (R.SK_VEC, [F.SK_VEC_VEC]),
  (R.SK_TASK_CTL, [F.SK_TASK_CTL_TENANT, F.SK_TASK_CTL_PRIO, F.SK_TASK_CTL_TRIG, F.SK_TASK_CTL_EN]),
  (R.SK_TASK_TRIG, [F.SK_TASK_TRIG_ARG]),
  (R.SK_TASK_ENTRY, [F.SK_TASK_ENTRY_ENTRY, F.SK_TASK_ENTRY_BUDGET]),
  (R.SK_TASK_SEG, [F.SK_TASK_SEG_ISIZE, F.SK_TASK_SEG_IBASE, F.SK_TASK_SEG_DSIZE, F.SK_TASK_SEG_DBASE])]

/-- The registers of block CD with their fields. -/
def regTableCd : List (Reg × List Fld) := [
  (R.CD_CFG, [F.CD_CFG_MODE, F.CD_CFG_PAIR, F.CD_CFG_HOLD_SRC, F.CD_CFG_FASTDN, F.CD_CFG_DSHAPE, F.CD_CFG_DAMP, F.CD_CFG_DFREQ, F.CD_CFG_PRIO]),
  (R.CD_CMD, [F.CD_CMD_POINT, F.CD_CMD_LOOP_BOUND]),
  (R.CD_PULL, [F.CD_PULL_I_PULL, F.CD_PULL_T_PULL]),
  (R.CD_HOLD, [F.CD_HOLD_I_HOLD, F.CD_HOLD_HOLD_MAX]),
  (R.CD_PROP, [F.CD_PROP_I_PMAX, F.CD_PROP_RAMP]),
  (R.CD_PULSE, [F.CD_PULSE_T_PULSE]),
  (R.CD_REG, [F.CD_REG_KP_R, F.CD_REG_KI_R]),
  (R.CD_STAT, [F.CD_STAT_PHASE, F.CD_STAT_ON_PEND, F.CD_STAT_TARGET]),
  (R.CD_MEAS, [F.CD_MEAS_I_MEAS, F.CD_MEAS_VCOILX]),
  (R.CD_DUTY, [F.CD_DUTY_DUTY_A, F.CD_DUTY_DUTY_B]),
  (R.CD_FLT, [F.CD_FLT_TWIN, F.CD_FLT_OVC, F.CD_FLT_OPEN, F.CD_FLT_CLAMP_E, F.CD_FLT_FD_TIME, F.CD_FLT_IMBAL, F.CD_FLT_THERM, F.CD_FLT_EWIN, F.CD_FLT_MOTION]),
  (R.CD_EVT, [F.CD_EVT_FAULT, F.CD_EVT_PULL_END, F.CD_EVT_FD_END, F.CD_EVT_HOLD_EXP, F.CD_EVT_OPENED, F.CD_EVT_CLOSED, F.CD_EVT_AMBIG, F.CD_EVT_LEARN_END, F.CD_EVT_UNEXP_DROP, F.CD_EVT_COOLED, F.CD_EVT_SHED]),
  (R.CD_IEN, [F.CD_IEN_FAULT, F.CD_IEN_PULL_END, F.CD_IEN_FD_END, F.CD_IEN_HOLD_EXP, F.CD_IEN_OPENED, F.CD_IEN_CLOSED, F.CD_IEN_AMBIG, F.CD_IEN_LEARN_END, F.CD_IEN_UNEXP_DROP, F.CD_IEN_COOLED, F.CD_IEN_SHED]),
  (R.CD_CNT, [F.CD_CNT_PULLINS, F.CD_CNT_RENEW]),
  (R.CD_CLAMP, [F.CD_CLAMP_E_LAST, F.CD_CLAMP_T_LAST]),
  (R.CD_GSTAT, [F.CD_GSTAT_VCOIL, F.CD_GSTAT_UV, F.CD_GSTAT_OV]),
  (R.CD_GCNT, [F.CD_GCNT_UV_EVENTS, F.CD_GCNT_OV_EVENTS]),
  (R.CD_FLTMAP, [F.CD_FLTMAP_FAULT]),
  (R.CD_ACTMAP, [F.CD_ACTMAP_ACTIVE]),
  (R.CD_MOTCFG, [F.CD_MOTCFG_KTH, F.CD_MOTCFG_BUMP_TH, F.CD_MOTCFG_DIP_TH, F.CD_MOTCFG_MOTFLT_EN, F.CD_MOTCFG_MEND]),
  (R.CD_MOTWIN, [F.CD_MOTWIN_T_SETTLE, F.CD_MOTWIN_BLANK, F.CD_MOTWIN_KWIN]),
  (R.CD_MOT_OPEN, [F.CD_MOT_OPEN_TIME, F.CD_MOT_OPEN_SRC, F.CD_MOT_OPEN_RES]),
  (R.CD_MOT_CLOSE, [F.CD_MOT_CLOSE_TIME, F.CD_MOT_CLOSE_SRC, F.CD_MOT_CLOSE_RES]),
  (R.CD_MOT_CNT, [F.CD_MOT_CNT_CHATTER, F.CD_MOT_CNT_STUCK, F.CD_MOT_CNT_UNEXP, F.CD_MOT_CNT_NONE, F.CD_MOT_CNT_AMBIG]),
  (R.CD_ENDC, [F.CD_ENDC_DEB, F.CD_ENDC_OP_DI, F.CD_ENDC_OP_POL, F.CD_ENDC_OP_EN, F.CD_ENDC_CL_DI, F.CD_ENDC_CL_POL, F.CD_ENDC_CL_EN]),
  (R.CD_STK_PAR, [F.CD_STK_PAR_REST, F.CD_STK_PAR_DWELL, F.CD_STK_PAR_CYCLES]),
  (R.CD_STK_RES, [F.CD_STK_RES_T_CLOSE, F.CD_STK_RES_T_OPEN, F.CD_STK_RES_STUCK, F.CD_STK_RES_CHAT, F.CD_STK_RES_EARLY, F.CD_STK_RES_CL_VALID, F.CD_STK_RES_OP_VALID]),
  (R.CD_STK_LEAD, [F.CD_STK_LEAD_CL_LEAD, F.CD_STK_LEAD_OP_LEAD]),
  (R.CD_PRB_CFG, [F.CD_PRB_CFG_PFLOOR, F.CD_PRB_CFG_PDWELL, F.CD_PRB_CFG_PSTEP, F.CD_PRB_CFG_MARGIN]),
  (R.CD_LEARN, [F.CD_LEARN_STROKE, F.CD_LEARN_PROBE, F.CD_LEARN_CANCEL]),
  (R.CD_LEARN_STAT, [F.CD_LEARN_STAT_STEP, F.CD_LEARN_STAT_KIND, F.CD_LEARN_STAT_LAST_KIND, F.CD_LEARN_STAT_LAST_RES]),
  (R.CD_HOLD_LRN, [F.CD_HOLD_LRN_I_LHOLD, F.CD_HOLD_LRN_I_DO, F.CD_HOLD_LRN_VALID]),
  (R.CD_TH_R, [F.CD_TH_R_RC20, F.CD_TH_R_TAMB]),
  (R.CD_TH_C, [F.CD_TH_C_CW, F.CD_TH_C_CB]),
  (R.CD_TH_G, [F.CD_TH_G_RWB, F.CD_TH_G_RBA]),
  (R.CD_TH_LIM, [F.CD_TH_LIM_TW_MAX, F.CD_TH_LIM_HYST]),
  (R.CD_TH_STAT, [F.CD_TH_STAT_TW, F.CD_TH_STAT_TB, F.CD_TH_STAT_COOLED]),
  (R.CD_TH_RW, [F.CD_TH_RW_AGE, F.CD_TH_RW_RW_BAD, F.CD_TH_RW_RM]),
  (R.CD_EW_CFG, [F.CD_EW_CFG_E_MAX, F.CD_EW_CFG_WIN]),
  (R.CD_EW_STAT, [F.CD_EW_STAT_E_WIN]),
  (R.CD_LWIN, [F.CD_LWIN_MINUTES, F.CD_LWIN_MAXRUN, F.CD_LWIN_OPEN]),
  (R.CD_DBUD, [F.CD_DBUD_BUDGET]),
  (R.CD_DBUD_STAT, [F.CD_DBUD_STAT_PF, F.CD_DBUD_STAT_STAGE, F.CD_DBUD_STAT_OVER]),
  (R.CD_DBUD_CNT, [F.CD_DBUD_CNT_RISES, F.CD_DBUD_CNT_SHEDS])]

/-- The registers of block ADC with their fields. -/
def regTableAdc : List (Reg × List Fld) := [
  (R.ADC_CTRL, [F.ADC_CTRL_UEDGE, F.ADC_CTRL_USRC, F.ADC_CTRL_TEDGE, F.ADC_CTRL_TSRC, F.ADC_CTRL_ULEN, F.ADC_CTRL_LEN, F.ADC_CTRL_UEN, F.ADC_CTRL_EN]),
  (R.ADC_STAT, [F.ADC_STAT_STATE, F.ADC_STAT_ENTRY, F.ADC_STAT_UENTRY, F.ADC_STAT_PREEMPTED, F.ADC_STAT_UPEND, F.ADC_STAT_NPEND]),
  (R.ADC_START, [F.ADC_START_START, F.ADC_START_USTART]),
  (R.ADC_EVT, [F.ADC_EVT_SEQ_END, F.ADC_EVT_USEQ_END, F.ADC_EVT_TLOST, F.ADC_EVT_CHK_DONE]),
  (R.ADC_IEN, [F.ADC_IEN_SEQ_END, F.ADC_IEN_USEQ_END, F.ADC_IEN_TLOST, F.ADC_IEN_CHK_DONE]),
  (R.ADC_FLT, [F.ADC_FLT_OVR, F.ADC_FLT_SUSPECT, F.ADC_FLT_INJ, F.ADC_FLT_PL_DIFF, F.ADC_FLT_PL_ABS, F.ADC_FLT_PL_STARVED]),
  (R.ADC_FIEN, [F.ADC_FIEN_OVR, F.ADC_FIEN_SUSPECT, F.ADC_FIEN_INJ, F.ADC_FIEN_PL_DIFF, F.ADC_FIEN_PL_ABS, F.ADC_FIEN_PL_STARVED]),
  (R.ADC_CNT, [F.ADC_CNT_PREEMPT, F.ADC_CNT_TLOST]),
  (R.ADC_CNT2, [F.ADC_CNT2_DISC, F.ADC_CNT2_SUS]),
  (R.ADC_OVR_LAST, [F.ADC_OVR_LAST_PIN, F.ADC_OVR_LAST_ENTRY, F.ADC_OVR_LAST_URGENT, F.ADC_OVR_LAST_HIGH, F.ADC_OVR_LAST_VALID]),
  (R.ADC_PIN, [F.ADC_PIN_MODE, F.ADC_PIN_CURVE, F.ADC_PIN_RSH]),
  (R.ADC_ENT, [F.ADC_ENT_PIN, F.ADC_ENT_GAIN, F.ADC_ENT_SMP, F.ADC_ENT_CONV, F.ADC_ENT_SNAPDIV]),
  (R.ADC_UENT, [F.ADC_UENT_PIN, F.ADC_UENT_GAIN, F.ADC_UENT_SMP, F.ADC_UENT_CONV, F.ADC_UENT_SNAPDIV]),
  (R.ADC_CHK_CFG, [F.ADC_CHK_CFG_TOL, F.ADC_CHK_CFG_PER, F.ADC_CHK_CFG_EN]),
  (R.ADC_CHK_WIN, [F.ADC_CHK_WIN_WIN, F.ADC_CHK_WIN_EXP]),
  (R.ADC_CHK_STAT, [F.ADC_CHK_STAT_V_ODD, F.ADC_CHK_STAT_V_EVEN]),
  (R.ADC_CHK_CNT, [F.ADC_CHK_CNT_RUN, F.ADC_CHK_CNT_SKIPS, F.ADC_CHK_CNT_CHECKS]),
  (R.ADC_TMR, [F.ADC_TMR_PERIOD, F.ADC_TMR_EN]),
  (R.ADC_NTC_R, [F.ADC_NTC_R_RNOM]),
  (R.ADC_NTC_B, [F.ADC_NTC_B_B]),
  (R.ADC_INJ_LO, [F.ADC_INJ_LO_INJ]),
  (R.ADC_INJ_HI, [F.ADC_INJ_HI_INJ])]

/-- The registers of block FAN with their fields. -/
def regTableFan : List (Reg × List Fld) := [
  (R.FAN_CFG, [F.FAN_CFG_PPR, F.FAN_CFG_ROOM_EN, F.FAN_CFG_TBL, F.FAN_CFG_SUP_CMD, F.FAN_CFG_SUP_HOST, F.FAN_CFG_CLASS, F.FAN_CFG_EN]),
  (R.FAN_CMD, [F.FAN_CMD_POINT, F.FAN_CMD_LOOP_BOUND]),
  (R.FAN_LIM, [F.FAN_LIM_SUP_DUTY, F.FAN_LIM_DMIN]),
  (R.FAN_TSUP, [F.FAN_TSUP_KICK_TO, F.FAN_TSUP_SETTLE, F.FAN_TSUP_FT_TIME, F.FAN_TSUP_SPD_MIN]),
  (R.FAN_SUPT, [F.FAN_SUPT_SUP_TIME]),
  (R.FAN_STAT, [F.FAN_STAT_STATE, F.FAN_STAT_SRC, F.FAN_STAT_BURROW, F.FAN_STAT_SUPLOST, F.FAN_STAT_ROOMFAIL, F.FAN_STAT_DUTY]),
  (R.FAN_TACH, [F.FAN_TACH_PERIOD]),
  (R.FAN_SPEED, [F.FAN_SPEED_SPEED]),
  (R.FAN_FLT, [F.FAN_FLT_TACH, F.FAN_FLT_KICK]),
  (R.FAN_EVT, [F.FAN_EVT_FAULT, F.FAN_EVT_KICK_END, F.FAN_EVT_MODE]),
  (R.FAN_IEN, [F.FAN_IEN_FAULT, F.FAN_IEN_KICK_END, F.FAN_IEN_MODE]),
  (R.FAN_CNT, [F.FAN_CNT_KICKS, F.FAN_CNT_FAULTS]),
  (R.FAN_GCFG, [F.FAN_GCFG_FREQ, F.FAN_GCFG_WATCH]),
  (R.FAN_GTRIG, [F.FAN_GTRIG_TDLY, F.FAN_GTRIG_TDIV, F.FAN_GTRIG_TCH, F.FAN_GTRIG_EN]),
  (R.FAN_GCMD, [F.FAN_GCMD_TTIME, F.FAN_GCMD_TDUTY, F.FAN_GCMD_TEST]),
  (R.FAN_GSTAT, [F.FAN_GSTAT_TEST_FAIL, F.FAN_GSTAT_TEST_PASS, F.FAN_GSTAT_FAILOVER, F.FAN_GSTAT_WCAUSE, F.FAN_GSTAT_WATCH]),
  (R.FAN_GEVT, [F.FAN_GEVT_TEST_END, F.FAN_GEVT_FAILOVER]),
  (R.FAN_GIEN, [F.FAN_GIEN_TEST_END, F.FAN_GIEN_FAILOVER]),
  (R.FAN_BT_PT, [F.FAN_BT_PT_D, F.FAN_BT_PT_X]),
  (R.FAN_BT_SRC, [F.FAN_BT_SRC_ENTRY, F.FAN_BT_SRC_ADC, F.FAN_BT_SRC_URGENT, F.FAN_BT_SRC_FAILD, F.FAN_BT_SRC_EN]),
  (R.FAN_BT_IN, [F.FAN_BT_IN_X, F.FAN_BT_IN_VALID]),
  (R.FAN_GUARD, [F.FAN_GUARD_TCRIT, F.FAN_GUARD_THR, F.FAN_GUARD_PIN, F.FAN_GUARD_TRIP]),
  (R.FAN_GUARD_T0, [F.FAN_GUARD_T0_TS0, F.FAN_GUARD_T0_TS1]),
  (R.FAN_GUARD_T1, [F.FAN_GUARD_T1_TG]),
  (R.FAN_GUARD_FLT, [F.FAN_GUARD_FLT_TRIPPED, F.FAN_GUARD_FLT_SENSE_DIFF, F.FAN_GUARD_FLT_TG_OPEN]),
  (R.FAN_GUARD_CNT, [F.FAN_GUARD_CNT_TRIPS])]

/-- The registers of block FIO with their fields. -/
def regTableFio : List (Reg × List Fld) := [
  (R.DI_CFG, [F.DI_CFG_DEB, F.DI_CFG_CEDGE, F.DI_CFG_INV, F.DI_CFG_WET, F.DI_CFG_EN]),
  (R.DI_STAT, [F.DI_STAT_STATE, F.DI_STAT_RAW]),
  (R.DI_CNT, [F.DI_CNT_COUNT]),
  (R.DI_CNTSET, [F.DI_CNTSET_VALUE]),
  (R.DI_EVT, [F.DI_EVT_RISE, F.DI_EVT_FALL]),
  (R.DI_IEN, [F.DI_IEN_RISE, F.DI_IEN_FALL]),
  (R.DO_CFG, [F.DO_CFG_OL_EN, F.DO_CFG_EN]),
  (R.DO_CMD, [F.DO_CMD_POINT, F.DO_CMD_LOOP_BOUND]),
  (R.AO_CMD, [F.AO_CMD_POINT, F.AO_CMD_LOOP_BOUND]),
  (R.DO_TIME, [F.DO_TIME_MIN_ON, F.DO_TIME_MIN_OFF]),
  (R.DO_STAT, [F.DO_STAT_OUT, F.DO_STAT_CMD, F.DO_STAT_OPENLOAD, F.DO_STAT_PEND]),
  (R.DO_FLT, [F.DO_FLT_OVC, F.DO_FLT_THERM]),
  (R.AO_CFG, [F.AO_CFG_SLEW, F.AO_CFG_EN]),
  (R.AO_STAT, [F.AO_STAT_VOUT, F.AO_STAT_CODE]),
  (R.AO_FLT, [F.AO_FLT_OVL]),
  (R.FIO_GSTAT, [F.FIO_GSTAT_VFIELD, F.FIO_GSTAT_VF_LOW]),
  (R.FIO_DI_LO, [F.FIO_DI_LO_STATE]),
  (R.FIO_DI_HI, [F.FIO_DI_HI_STATE]),
  (R.FIO_DO, [F.FIO_DO_OUT]),
  (R.FIO_DOFLT, [F.FIO_DOFLT_FAULT]),
  (R.FIO_AOFLT, [F.FIO_AOFLT_FAULT])]

/-- The registers of block ZB with their fields. -/
def regTableZb : List (Reg × List Fld) := [
  (R.ZB_CTRL, [F.ZB_CTRL_RUNMODE, F.ZB_CTRL_STBY, F.ZB_CTRL_TSMP, F.ZB_CTRL_PXD, F.ZB_CTRL_ABO, F.ZB_CTRL_FDOE, F.ZB_CTRL_MODE]),
  (R.ZB_NBT, [F.ZB_NBT_NSJW, F.ZB_NBT_NTSEG2, F.ZB_NBT_NTSEG1, F.ZB_NBT_NBRP]),
  (R.ZB_DBT, [F.ZB_DBT_DSJW, F.ZB_DBT_DTSEG2, F.ZB_DBT_DTSEG1, F.ZB_DBT_DBRP]),
  (R.ZB_TDC, [F.ZB_TDC_TDCO, F.ZB_TDC_TDCV, F.ZB_TDC_TDCE]),
  (R.ZB_STAT, [F.ZB_STAT_FCS, F.ZB_STAT_BUSINT, F.ZB_STAT_PXE, F.ZB_STAT_ACTIVE]),
  (R.ZB_ERRCNT, [F.ZB_ERRCNT_TEC, F.ZB_ERRCNT_REC, F.ZB_ERRCNT_RP]),
  (R.ZB_CMD, [F.ZB_CMD_RECOVER]),
  (R.ZB_EVT, [F.ZB_EVT_RX, F.ZB_EVT_TXDONE, F.ZB_EVT_TXFAIL, F.ZB_EVT_EPASS, F.ZB_EVT_BUSOFF, F.ZB_EVT_BUSON, F.ZB_EVT_PXE, F.ZB_EVT_LATE, F.ZB_EVT_NODE, F.ZB_EVT_UNKNOWN, F.ZB_EVT_PWR, F.ZB_EVT_MSGLOST]),
  (R.ZB_IEN, [F.ZB_IEN_RX, F.ZB_IEN_TXDONE, F.ZB_IEN_TXFAIL, F.ZB_IEN_EPASS, F.ZB_IEN_BUSOFF, F.ZB_IEN_BUSON, F.ZB_IEN_PXE, F.ZB_IEN_LATE, F.ZB_IEN_NODE, F.ZB_IEN_UNKNOWN, F.ZB_IEN_PWR, F.ZB_IEN_MSGLOST]),
  (R.ZB_CNT, [F.ZB_CNT_TXOK, F.ZB_CNT_RXOK]),
  (R.ZB_CNT2, [F.ZB_CNT2_TOOLONG, F.ZB_CNT2_DUP, F.ZB_CNT2_NOMATCH, F.ZB_CNT2_LATE]),
  (R.ZB_CNT3, [F.ZB_CNT3_DISCARD_GEN, F.ZB_CNT3_WREFUSED, F.ZB_CNT3_BUSERR]),
  (R.ZB_LASTERR, [F.ZB_LASTERR_CODE, F.ZB_LASTERR_DATA, F.ZB_LASTERR_TX, F.ZB_LASTERR_VALID]),
  (R.ZB_NEWD_LO, [F.ZB_NEWD_LO_NEWD]),
  (R.ZB_NEWD_HI, [F.ZB_NEWD_HI_NEWD]),
  (R.ZB_QUAR, [F.ZB_QUAR_LATE]),
  (R.ZB_TAGCLS, [F.ZB_TAGCLS_REPLY]),
  (R.ZB_TAGS, [F.ZB_TAGS_QUAR, F.ZB_TAGS_OPEN]),
  (R.ZB_NW, [F.ZB_NW_TENANT, F.ZB_NW_PRIO, F.ZB_NW_EN]),
  (R.ZB_HWCFG, [F.ZB_HWCFG_PRIO]),
  (R.ZB_ENUM, [F.ZB_ENUM_HBPER, F.ZB_ENUM_EN]),
  (R.ZB_UNK_LO, [F.ZB_UNK_LO_SERIAL]),
  (R.ZB_UNK_HI, [F.ZB_UNK_HI_SERIAL, F.ZB_UNK_HI_VALID]),
  (R.ZB_PWR_CFG, [F.ZB_PWR_CFG_RETRY, F.ZB_PWR_CFG_TRIP, F.ZB_PWR_CFG_EN]),
  (R.ZB_PWR_STAT, [F.ZB_PWR_STAT_IMEAS, F.ZB_PWR_STAT_PEND, F.ZB_PWR_STAT_PGOOD, F.ZB_PWR_STAT_ON]),
  (R.ZB_PWR_V, [F.ZB_PWR_V_VOUT]),
  (R.ZB_PWR_FLT, [F.ZB_PWR_FLT_TRIP, F.ZB_PWR_FLT_HARD, F.ZB_PWR_FLT_PG]),
  (R.ZB_PWR_CMD, [F.ZB_PWR_CMD_CYCLE]),
  (R.ZB_PWR_CNT, [F.ZB_PWR_CNT_TRIPS]),
  (R.ZB_NODE_SER, [F.ZB_NODE_SER_SERIAL]),
  (R.ZB_NODE_CFG, [F.ZB_NODE_CFG_SERIAL, F.ZB_NODE_CFG_STATE, F.ZB_NODE_CFG_EN]),
  (R.ZB_BUF_CFG, [F.ZB_BUF_CFG_MAXDLC, F.ZB_BUF_CFG_TXDLC, F.ZB_BUF_CFG_POFS, F.ZB_BUF_CFG_TENANT, F.ZB_BUF_CFG_TAGGED, F.ZB_BUF_CFG_ONESHOT, F.ZB_BUF_CFG_BRS, F.ZB_BUF_CFG_FCHK, F.ZB_BUF_CFG_FDF, F.ZB_BUF_CFG_IDE, F.ZB_BUF_CFG_DIR]),
  (R.ZB_BUF_ID, [F.ZB_BUF_ID_ID]),
  (R.ZB_BUF_MASK, [F.ZB_BUF_MASK_MASK]),
  (R.ZB_BUF_STAT, [F.ZB_BUF_STAT_TAG, F.ZB_BUF_STAT_RESI, F.ZB_BUF_STAT_RBRS, F.ZB_BUF_STAT_RFDF, F.ZB_BUF_STAT_DLC, F.ZB_BUF_STAT_TXRES, F.ZB_BUF_STAT_TAGWAIT, F.ZB_BUF_STAT_TXABORT, F.ZB_BUF_STAT_TXREQ, F.ZB_BUF_STAT_MSGLOST, F.ZB_BUF_STAT_NEWD]),
  (R.ZB_BUF_RXID, [F.ZB_BUF_RXID_RXID, F.ZB_BUF_RXID_IDE]),
  (R.ZB_BUF_CNT, [F.ZB_BUF_CNT_RX, F.ZB_BUF_CNT_TX])]

/-- The registers of block CL with their fields. -/
def regTableCl : List (Reg × List Fld) := [
  (R.CL_EVT, [F.CL_EVT_LINK, F.CL_EVT_AUTH, F.CL_EVT_SUB, F.CL_EVT_RW, F.CL_EVT_TIME]),
  (R.CL_IEN, [F.CL_IEN_LINK, F.CL_IEN_AUTH, F.CL_IEN_SUB, F.CL_IEN_RW, F.CL_IEN_TIME]),
  (R.CL_CTRL, [F.CL_CTRL_UDP_PORT, F.CL_CTRL_ISL_KEY, F.CL_CTRL_BB_KEY, F.CL_CTRL_EN]),
  (R.CL_EPOCH, [F.CL_EPOCH_EPOCH]),
  (R.CL_RXCNT, [F.CL_RXCNT_PORT, F.CL_RXCNT_UNKNOWN, F.CL_RXCNT_FORMAT]),
  (R.CL_FWD, [F.CL_FWD_DROP, F.CL_FWD_FWD]),
  (R.CL_PORT_CFG, [F.CL_PORT_CFG_AMPL, F.CL_PORT_CFG_AN_EN, F.CL_PORT_CFG_FORCE_ROLE, F.CL_PORT_CFG_EN]),
  (R.CL_PORT_STAT, [F.CL_PORT_STAT_LINK, F.CL_PORT_STAT_LEVEL, F.CL_PORT_STAT_ROLE, F.CL_PORT_STAT_SQI, F.CL_PORT_STAT_DAD_FAIL]),
  (R.CL_PORT_DLY, [F.CL_PORT_DLY_DELAY, F.CL_PORT_DLY_VALID]),
  (R.CL_PORT_CNT, [F.CL_PORT_CNT_RX, F.CL_PORT_CNT_DROP]),
  (R.CL_PORT_MAC_LO, [F.CL_PORT_MAC_LO_MAC]),
  (R.CL_PORT_MAC_HI, [F.CL_PORT_MAC_HI_MAC]),
  (R.CL_PORT_ADDR0, [F.CL_PORT_ADDR0_ADDR]),
  (R.CL_PORT_ADDR1, [F.CL_PORT_ADDR1_ADDR]),
  (R.CL_PORT_ADDR2, [F.CL_PORT_ADDR2_ADDR]),
  (R.CL_PORT_ADDR3, [F.CL_PORT_ADDR3_ADDR]),
  (R.CL_TIME_LO, [F.CL_TIME_LO_TIME]),
  (R.CL_TIME_HI, [F.CL_TIME_HI_TIME]),
  (R.CL_TIME_STAT, [F.CL_TIME_STAT_OFFSET, F.CL_TIME_STAT_FOLLOW, F.CL_TIME_STAT_STRATUM, F.CL_TIME_STAT_SYNC]),
  (R.CL_TIME_SET_LO, [F.CL_TIME_SET_LO_VALUE]),
  (R.CL_TIME_SET_HI, [F.CL_TIME_SET_HI_VALUE]),
  (R.CL_TIME_CNT, [F.CL_TIME_CNT_STEPS, F.CL_TIME_CNT_LOSSES]),
  (R.CL_AUTH_CFG, [F.CL_AUTH_CFG_SKEW]),
  (R.CL_AUTH, [F.CL_AUTH_DUP, F.CL_AUTH_REPLAY, F.CL_AUTH_BADMAC]),
  (R.CL_AUTH_LAST, [F.CL_AUTH_LAST_SRC, F.CL_AUTH_LAST_REASON, F.CL_AUTH_LAST_PORT, F.CL_AUTH_LAST_VALID]),
  (R.CL_SUB_CFG, [F.CL_SUB_CFG_RATE]),
  (R.CL_SUB_STAT, [F.CL_SUB_STAT_IN_USED, F.CL_SUB_STAT_OUT_USED]),
  (R.CL_SUB_CNT, [F.CL_SUB_CNT_REFUSED, F.CL_SUB_CNT_RETRY]),
  (R.CL_PUB_CNT, [F.CL_PUB_CNT_COALESCED, F.CL_PUB_CNT_UNBOUND]),
  (R.CL_TAGCFG, [F.CL_TAGCFG_QUAR]),
  (R.CL_TAGS, [F.CL_TAGS_QUAR, F.CL_TAGS_OPEN]),
  (R.CL_RW_CPID, [F.CL_RW_CPID_CPID]),
  (R.CL_RW_VAL, [F.CL_RW_VAL_VALUE]),
  (R.CL_RW_CMD, [F.CL_RW_CMD_PRIO, F.CL_RW_CMD_OP]),
  (R.CL_RW_RES, [F.CL_RW_RES_RES]),
  (R.CL_RW_CNT, [F.CL_RW_CNT_FAILED, F.CL_RW_CNT_LATE, F.CL_RW_CNT_NOTAG]),
  (R.CL_RW_CNT2, [F.CL_RW_CNT2_DISC_GEN, F.CL_RW_CNT2_STRAY]),
  (R.CL_FORM_CFG, [F.CL_FORM_CFG_HOLD, F.CL_FORM_CFG_STEP]),
  (R.CL_ISL_UID, [F.CL_ISL_UID_UID]),
  (R.CL_FORM_STAT, [F.CL_FORM_STAT_MEMBERS, F.CL_FORM_STAT_S0, F.CL_FORM_STAT_S1, F.CL_FORM_STAT_MAP_FULL, F.CL_FORM_STAT_RELEASED, F.CL_FORM_STAT_MAP, F.CL_FORM_STAT_REJECTED, F.CL_FORM_STAT_NOMASTER, F.CL_FORM_STAT_ESTABLISHED, F.CL_FORM_STAT_ISOLATED]),
  (R.CL_ISL_MAP, [F.CL_ISL_MAP_MEMBERS]),
  (R.CL_ISL_ROLE, [F.CL_ISL_ROLE_DOWNSTREAM, F.CL_ISL_ROLE_DS_VALID, F.CL_ISL_ROLE_MASTER, F.CL_ISL_ROLE_IM_VALID]),
  (R.CL_CAMPUS, [F.CL_CAMPUS_ISLANDS, F.CL_CAMPUS_FRAGMENTS, F.CL_CAMPUS_CM, F.CL_CAMPUS_VALID]),
  (R.CL_MAP_VER, [F.CL_MAP_VER_VERSION]),
  (R.CL_FORM_EVT, [F.CL_FORM_EVT_ELECT, F.CL_FORM_EVT_HEAL, F.CL_FORM_EVT_ROLE, F.CL_FORM_EVT_MAP, F.CL_FORM_EVT_REJECTED, F.CL_FORM_EVT_MISWIRE, F.CL_FORM_EVT_CONFLICT]),
  (R.CL_FORM_IEN, [F.CL_FORM_IEN_ELECT, F.CL_FORM_IEN_HEAL, F.CL_FORM_IEN_ROLE, F.CL_FORM_IEN_MAP, F.CL_FORM_IEN_REJECTED, F.CL_FORM_IEN_MISWIRE, F.CL_FORM_IEN_CONFLICT]),
  (R.CL_FORM_CNT, [F.CL_FORM_CNT_ELECTIONS, F.CL_FORM_CNT_HEALS]),
  (R.CL_FORM_CNT2, [F.CL_FORM_CNT2_NOROUTE, F.CL_FORM_CNT2_FREED]),
  (R.CL_MAP, [F.CL_MAP_MEMBERS])]

/-- The registers of block LOG with their fields. -/
def regTableLog : List (Reg × List Fld) := [
  (R.LOG_EVT, [F.LOG_EVT_FULL, F.LOG_EVT_STORE, F.LOG_EVT_GAP, F.LOG_EVT_LOST, F.LOG_EVT_MIRROR, F.LOG_EVT_WRAP, F.LOG_EVT_READ, F.LOG_EVT_TREND]),
  (R.LOG_IEN, [F.LOG_IEN_FULL, F.LOG_IEN_STORE, F.LOG_IEN_GAP, F.LOG_IEN_LOST, F.LOG_IEN_MIRROR, F.LOG_IEN_WRAP, F.LOG_IEN_READ, F.LOG_IEN_TREND]),
  (R.LOG_CTRL, [F.LOG_CTRL_MIRROR, F.LOG_CTRL_FLUSH]),
  (R.LOG_STAT, [F.LOG_STAT_RING, F.LOG_STAT_AON_VALID, F.LOG_STAT_FULL, F.LOG_STAT_STORE]),
  (R.LOG_NEXT_LO, [F.LOG_NEXT_LO_SEQ]),
  (R.LOG_NEXT_HI, [F.LOG_NEXT_HI_SEQ]),
  (R.LOG_COMMIT_LO, [F.LOG_COMMIT_LO_SEQ]),
  (R.LOG_COMMIT_HI, [F.LOG_COMMIT_HI_SEQ]),
  (R.LOG_OLDEST_LO, [F.LOG_OLDEST_LO_SEQ]),
  (R.LOG_OLDEST_HI, [F.LOG_OLDEST_HI_SEQ]),
  (R.LOG_MIRRORED_LO, [F.LOG_MIRRORED_LO_SEQ]),
  (R.LOG_MIRRORED_HI, [F.LOG_MIRRORED_HI_SEQ]),
  (R.LOG_CNT, [F.LOG_CNT_LOST, F.LOG_CNT_REFUSED]),
  (R.LOG_CNT2, [F.LOG_CNT2_STORE_ERR, F.LOG_CNT2_WRAPS]),
  (R.LOG_TRD_CNT, [F.LOG_TRD_CNT_DROP]),
  (R.LOG_MIR_STAT, [F.LOG_MIR_STAT_BACKLOG, F.LOG_MIR_STAT_TARGET, F.LOG_MIR_STAT_STATE]),
  (R.LOG_MIR_CNT, [F.LOG_MIR_CNT_SKIPPED, F.LOG_MIR_CNT_RESENDS]),
  (R.LOG_REG_BASE, [F.LOG_REG_BASE_MIB]),
  (R.LOG_REG_SIZE, [F.LOG_REG_SIZE_MIB]),
  (R.LOG_REG_WP, [F.LOG_REG_WP_BLOCK]),
  (R.LOG_FMT_SIZE, [F.LOG_FMT_SIZE_FW, F.LOG_FMT_SIZE_AUDIT]),
  (R.LOG_FMT_SIZE2, [F.LOG_FMT_SIZE2_MIRROR]),
  (R.LOG_FMT_CMD, [F.LOG_FMT_CMD_KEY]),
  (R.LOG_RD_BLK, [F.LOG_RD_BLK_BLOCK]),
  (R.LOG_RD_CMD, [F.LOG_RD_CMD_GO, F.LOG_RD_CMD_WRITE]),
  (R.LOG_RD_STAT, [F.LOG_RD_STAT_BUSY, F.LOG_RD_STAT_ERR, F.LOG_RD_STAT_CRC_BAD]),
  (R.LOG_TRD_CFG, [F.LOG_TRD_CFG_POINT, F.LOG_TRD_CFG_MODE, F.LOG_TRD_CFG_EN]),
  (R.LOG_TRD_PER, [F.LOG_TRD_PER_PER])]

/-- The registers of block TEN with their fields. -/
def regTableTen : List (Reg × List Fld) := [
  (R.TEN_CTX_CFG, [F.TEN_CTX_CFG_HOLD_T, F.TEN_CTX_CFG_ENABLED]),
  (R.TEN_CTX_STAT, [F.TEN_CTX_STAT_RESETS, F.TEN_CTX_STAT_GEN, F.TEN_CTX_STAT_THROTTLED, F.TEN_CTX_STAT_PEND, F.TEN_CTX_STAT_STATE]),
  (R.TEN_RESET, [F.TEN_RESET_GO]),
  (R.TEN_CTX_IEN, [F.TEN_CTX_IEN_EQ, F.TEN_CTX_IEN_XQ]),
  (R.TEN_Q_CMD_CFG, [F.TEN_Q_CMD_CFG_MIN, F.TEN_Q_CMD_CFG_MAX]),
  (R.TEN_Q_EVT_CFG, [F.TEN_Q_EVT_CFG_MIN, F.TEN_Q_EVT_CFG_MAX]),
  (R.TEN_Q_ERR_CFG, [F.TEN_Q_ERR_CFG_MIN, F.TEN_Q_ERR_CFG_MAX]),
  (R.TEN_Q_CMD_STAT, [F.TEN_Q_CMD_STAT_COUNT, F.TEN_Q_CMD_STAT_OVF]),
  (R.TEN_Q_EVT_STAT, [F.TEN_Q_EVT_STAT_COUNT, F.TEN_Q_EVT_STAT_OVF]),
  (R.TEN_Q_ERR_STAT, [F.TEN_Q_ERR_STAT_COUNT, F.TEN_Q_ERR_STAT_OVF]),
  (R.TEN_Q_DROP, [F.TEN_Q_DROP_EVT, F.TEN_Q_DROP_ERR]),
  (R.TEN_EQ_HEAD, [F.TEN_EQ_HEAD_WORD]),
  (R.TEN_XQ_HEAD, [F.TEN_XQ_HEAD_WORD]),
  (R.TEN_EQ_POP, [F.TEN_EQ_POP_QSEQ]),
  (R.TEN_XQ_POP, [F.TEN_XQ_POP_QSEQ]),
  (R.TEN_CQ_STAGE, [F.TEN_CQ_STAGE_WORD]),
  (R.TEN_CQ_PUSH, [F.TEN_CQ_PUSH_GO]),
  (R.TEN_CQ_RES, [F.TEN_CQ_RES_RES]),
  (R.TEN_WIN_A, [F.TEN_WIN_A_FIRST, F.TEN_WIN_A_MAXPRIO, F.TEN_WIN_A_RIGHTS]),
  (R.TEN_WIN_B, [F.TEN_WIN_B_LAST]),
  (R.TEN_QLOOP, [F.TEN_QLOOP_LIMIT, F.TEN_QLOOP_USED]),
  (R.TEN_QSUB, [F.TEN_QSUB_IN, F.TEN_QSUB_OUT]),
  (R.TEN_QSUB_USED, [F.TEN_QSUB_USED_IN, F.TEN_QSUB_USED_OUT]),
  (R.TEN_QRC, [F.TEN_QRC_LIMIT]),
  (R.TEN_QRC_USED, [F.TEN_QRC_USED_USED]),
  (R.TEN_QLOG, [F.TEN_QLOG_LIMIT]),
  (R.TEN_QLOG_USED, [F.TEN_QLOG_USED_USED]),
  (R.TEN_CNT, [F.TEN_CNT_DISC_GEN, F.TEN_CNT_THROTTLED]),
  (R.TEN_CNT2, [F.TEN_CNT2_FB_REFUSED]),
  (R.TEN_IRQ_SRC, [F.TEN_IRQ_SRC_SOURCE, F.TEN_IRQ_SRC_EN]),
  (R.TEN_POOL, [F.TEN_POOL_SHARED_USED, F.TEN_POOL_RESERVED]),
  (R.TEN_GCNT, [F.TEN_GCNT_RETIRED_DROP]),
  (R.TEN_DB_CFG, [F.TEN_DB_CFG_OWNER]),
  (R.TEN_DB_RING, [F.TEN_DB_RING_DB]),
  (R.TEN_FB_PT, [F.TEN_FB_PT_POINT, F.TEN_FB_PT_PRIO, F.TEN_FB_PT_EN]),
  (R.TEN_FB_VAL, [F.TEN_FB_VAL_VALUE])]

/-- The registers of block IC with their fields. -/
def regTableIc : List (Reg × List Fld) := [
  (R.IC_SRC_CFG, [F.IC_SRC_CFG_FILT, F.IC_SRC_CFG_PRESC, F.IC_SRC_CFG_PRIO, F.IC_SRC_CFG_TMASK]),
  (R.IC_TGT_CTRL, [F.IC_TGT_CTRL_THRESH, F.IC_TGT_CTRL_EN]),
  (R.IC_TGT_OFFER, [F.IC_TGT_OFFER_SRC, F.IC_TGT_OFFER_PRIO, F.IC_TGT_OFFER_VALID]),
  (R.IC_TGT_CLAIM, [F.IC_TGT_CLAIM_CODE]),
  (R.IC_TGT_COMPLETE, [F.IC_TGT_COMPLETE_SRC]),
  (R.IC_TGT_CNT, [F.IC_TGT_CNT_WITHDRAWN, F.IC_TGT_CNT_TAKEN]),
  (R.IC_CNT, [F.IC_CNT_MERGED, F.IC_CNT_BAD_COMPLETE]),
  (R.IC_EN, [F.IC_EN_EN]),
  (R.IC_EN_SET, [F.IC_EN_SET_EN]),
  (R.IC_EN_CLR, [F.IC_EN_CLR_EN]),
  (R.IC_PEND, [F.IC_PEND_PEND]),
  (R.IC_PEND_SET, [F.IC_PEND_SET_PEND]),
  (R.IC_PEND_CLR, [F.IC_PEND_CLR_PEND]),
  (R.IC_LINE, [F.IC_LINE_LINE]),
  (R.IC_ACTIVE, [F.IC_ACTIVE_ACTIVE])]

/-- The registers of block HB with their fields. -/
def regTableHb : List (Reg × List Fld) := [
  (R.HB_PAGE, [F.HB_PAGE_PAGE]),
  (R.HB_LANE, [F.HB_LANE_LANE]),
  (R.HB_MBX_ADDR, [F.HB_MBX_ADDR_ADDR]),
  (R.HB_MBX_DATA, [F.HB_MBX_DATA_DATA]),
  (R.HB_MBX_CTRL, [F.HB_MBX_CTRL_GO, F.HB_MBX_CTRL_WR, F.HB_MBX_CTRL_RESULT, F.HB_MBX_CTRL_TMO, F.HB_MBX_CTRL_BUSY]),
  (R.HB_FIFO, [F.HB_FIFO_LEVEL, F.HB_FIFO_OVR]),
  (R.HB_HSTAT, [F.HB_HSTAT_READY, F.HB_HSTAT_PD_STALE, F.HB_HSTAT_WDOG]),
  (R.HB_HID, [F.HB_HID_HID]),
  (R.HB_MODE, [F.HB_MODE_HOSTMODE, F.HB_MODE_INVALID]),
  (R.HB_LANE_CFG, [F.HB_LANE_CFG_TENANT, F.HB_LANE_CFG_PRIO, F.HB_LANE_CFG_EN]),
  (R.HB_WDOG_CFG, [F.HB_WDOG_CFG_PERIOD, F.HB_WDOG_CFG_FIRST, F.HB_WDOG_CFG_EN]),
  (R.HB_WDOG_STAT, [F.HB_WDOG_STAT_ARMED, F.HB_WDOG_STAT_EXPIRED]),
  (R.HB_KICK, [F.HB_KICK_KEY]),
  (R.HB_FUNC_RST, [F.HB_FUNC_RST_FUNC]),
  (R.HB_FUNC_STAT, [F.HB_FUNC_STAT_FUNC, F.HB_FUNC_STAT_RESULT, F.HB_FUNC_STAT_BUSY]),
  (R.HB_WARM, [F.HB_WARM_KEY]),
  (R.HB_PWRCYC, [F.HB_PWRCYC_KEY]),
  (R.HB_CNT, [F.HB_CNT_BADKICK, F.HB_CNT_NOSHADOW, F.HB_CNT_ASSEMBLY, F.HB_CNT_OVERRUN]),
  (R.HB_CNT2, [F.HB_CNT2_EXPIRIES, F.HB_CNT2_REFUSED])]

/-- The registers of block BOOT with their fields. -/
def regTableBoot : List (Reg × List Fld) := [
  (R.BOOT_STAT, [F.BOOT_STAT_SLOT, F.BOOT_STAT_TRIAL, F.BOOT_STAT_FALLBACK, F.BOOT_STAT_NOREC, F.BOOT_STAT_STRAP_CHG, F.BOOT_STAT_SVC, F.BOOT_STAT_SERVICE]),
  (R.BOOT_CAUSE, [F.BOOT_CAUSE_CAUSE_A, F.BOOT_CAUSE_CAUSE_B]),
  (R.BOOT_REC, [F.BOOT_REC_ACTIVE, F.BOOT_REC_TRIAL, F.BOOT_REC_TRIES, F.BOOT_REC_SERIAL]),
  (R.BOOT_TIME, [F.BOOT_TIME_US]),
  (R.BOOT_STRAP_LIVE, [F.BOOT_STRAP_LIVE_DEVID, F.BOOT_STRAP_LIVE_BOOTSEL, F.BOOT_STRAP_LIVE_HOSTMODE, F.BOOT_STRAP_LIVE_MASTERPRI]),
  (R.BOOT_FLASH, [F.BOOT_FLASH_MIB, F.BOOT_FLASH_ADDR4, F.BOOT_FLASH_QUAD444]),
  (R.BOOT_IMG_HASH, [F.BOOT_IMG_HASH_WORD]),
  (R.BOOT_IMG_BUILD, [F.BOOT_IMG_BUILD_WORD]),
  (R.BOOT_SLOT_CMD, [F.BOOT_SLOT_CMD_SLOT, F.BOOT_SLOT_CMD_TRIES, F.BOOT_SLOT_CMD_OP]),
  (R.BOOT_SLOT_STAT, [F.BOOT_SLOT_STAT_CAUSE, F.BOOT_SLOT_STAT_RESULT, F.BOOT_SLOT_STAT_BUSY]),
  (R.BOOT_FL_ADDR, [F.BOOT_FL_ADDR_ADDR]),
  (R.BOOT_FL_CMD, [F.BOOT_FL_CMD_OP]),
  (R.BOOT_FL_STAT, [F.BOOT_FL_STAT_BUSY, F.BOOT_FL_STAT_ERR, F.BOOT_FL_STAT_REFUSED]),
  (R.CAL_STAT, [F.CAL_STAT_REVOKED, F.CAL_STAT_FACT_BAD]),
  (R.CAL_OTP, [F.CAL_OTP_WORD]),
  (R.CAL_UC_PT, [F.CAL_UC_PT_POINT, F.CAL_UC_PT_EN]),
  (R.CAL_UC_GAIN, [F.CAL_UC_GAIN_VALUE]),
  (R.CAL_UC_OFS, [F.CAL_UC_OFS_VALUE])]

/-- The registers of block PNL with their fields. -/
def regTablePnl : List (Reg × List Fld) := [
  (R.PNL_CTRL, [F.PNL_CTRL_INV, F.PNL_CTRL_ON]),
  (R.PNL_STAT, [F.PNL_STAT_LINE, F.PNL_STAT_VCOM, F.PNL_STAT_VT_HOLD, F.PNL_STAT_PSTATE]),
  (R.PNL_CLK, [F.PNL_CLK_FREQ]),
  (R.PNL_HTIM, [F.PNL_HTIM_HBP, F.PNL_HTIM_HSW, F.PNL_HTIM_HFP]),
  (R.PNL_VTIM, [F.PNL_VTIM_HBP, F.PNL_VTIM_HSW, F.PNL_VTIM_HFP]),
  (R.PNL_SIZE, [F.PNL_SIZE_HACT, F.PNL_SIZE_VACT]),
  (R.PNL_SYNC, [F.PNL_SYNC_HS_POL, F.PNL_SYNC_VS_POL, F.PNL_SYNC_DE_POL, F.PNL_SYNC_PEDGE]),
  (R.PNL_FB, [F.PNL_FB_BASE]),
  (R.PNL_VCOM_CFG, [F.PNL_VCOM_CFG_DEF, F.PNL_VCOM_CFG_TEN, F.PNL_VCOM_CFG_TPT]),
  (R.PNL_VT, [F.PNL_VT_CODE, F.PNL_VT_TEMP]),
  (R.PNL_SWING, [F.PNL_SWING_SWING]),
  (R.PNL_PSEQ, [F.PNL_PSEQ_T_BL, F.PNL_PSEQ_T_SCAN, F.PNL_PSEQ_T_VGH, F.PNL_PSEQ_T_VGL]),
  (R.PNL_PSEQ2, [F.PNL_PSEQ2_BLANK, F.PNL_PSEQ2_DISCH, F.PNL_PSEQ2_DCOLOR]),
  (R.PNL_BL, [F.PNL_BL_DUTY]),
  (R.PNL_EVT, [F.PNL_EVT_FRAME, F.PNL_EVT_PWR, F.PNL_EVT_KEYQ, F.PNL_EVT_KEYOVF, F.PNL_EVT_ENCERR, F.PNL_EVT_CRACK, F.PNL_EVT_ACCESS, F.PNL_EVT_UNDERRUN]),
  (R.PNL_IEN, [F.PNL_IEN_FRAME, F.PNL_IEN_PWR, F.PNL_IEN_KEYQ, F.PNL_IEN_KEYOVF, F.PNL_IEN_ENCERR, F.PNL_IEN_CRACK, F.PNL_IEN_ACCESS, F.PNL_IEN_UNDERRUN]),
  (R.PNL_FLT, [F.PNL_FLT_CRACK_OPEN, F.PNL_FLT_CRACK_SHORT]),
  (R.PNL_CNT, [F.PNL_CNT_KEYDROP, F.PNL_CNT_UNDERRUN]),
  (R.PNL_BLK_XY0, [F.PNL_BLK_XY0_X, F.PNL_BLK_XY0_Y]),
  (R.PNL_BLK_XY1, [F.PNL_BLK_XY1_X, F.PNL_BLK_XY1_Y]),
  (R.PNL_BLK_COLOR, [F.PNL_BLK_COLOR_COLOR]),
  (R.PNL_BLK_CTRL, [F.PNL_BLK_CTRL_ON, F.PNL_BLK_CTRL_PERIOD, F.PNL_BLK_CTRL_MODE]),
  (R.PNL_CRK_CFG, [F.PNL_CRK_CFG_RMIN, F.PNL_CRK_CFG_RMAX, F.PNL_CRK_CFG_ACT, F.PNL_CRK_CFG_EN]),
  (R.PNL_CRK_STAT, [F.PNL_CRK_STAT_RES]),
  (R.PNL_KEY_CFG, [F.PNL_KEY_CFG_COLT, F.PNL_KEY_CFG_DEB]),
  (R.PNL_KEYS_LO, [F.PNL_KEYS_LO_KEYS]),
  (R.PNL_KEYS_HI, [F.PNL_KEYS_HI_KEYS]),
  (R.PNL_KEYQ_HEAD0, [F.PNL_KEYQ_HEAD0_WORD]),
  (R.PNL_KEYQ_HEAD1, [F.PNL_KEYQ_HEAD1_WORD]),
  (R.PNL_KEYQ_POP, [F.PNL_KEYQ_POP_QSEQ]),
  (R.PNL_KEYQ_STAT, [F.PNL_KEYQ_STAT_COUNT]),
  (R.PNL_ENC_CFG, [F.PNL_ENC_CFG_CPD, F.PNL_ENC_CFG_REST, F.PNL_ENC_CFG_ALIGN, F.PNL_ENC_CFG_INV, F.PNL_ENC_CFG_FILT]),
  (R.PNL_ENC_POS, [F.PNL_ENC_POS_POS, F.PNL_ENC_POS_ERR]),
  (R.PNL_ACC_CFG, [F.PNL_ACC_CFG_TENANT, F.PNL_ACC_CFG_PRIO, F.PNL_ACC_CFG_EN]),
  (R.PNL_ACC_CODE, [F.PNL_ACC_CODE_CODE]),
  (R.PNL_ACC_STAT, [F.PNL_ACC_STAT_LEVEL, F.PNL_ACC_STAT_FAILS, F.PNL_ACC_STAT_LOCKED]),
  (R.PNL_ACC_TRY, [F.PNL_ACC_TRY_CODE]),
  (R.PNL_ACC_IDLE, [F.PNL_ACC_IDLE_IDLE]),
  (R.PNL_ACC_LVL, [F.PNL_ACC_LVL_LEVEL]),
  (R.PNL_WR_PT, [F.PNL_WR_PT_POINT]),
  (R.PNL_WR_VAL, [F.PNL_WR_VAL_VALUE]),
  (R.PNL_WR_CMD, [F.PNL_WR_CMD_GO, F.PNL_WR_CMD_REL]),
  (R.PNL_WR_RES, [F.PNL_WR_RES_RES])]

/-- The registers whose reset word is not 0 (R16): "image", "strap" and "OTP" read 0 until loaded. -/
def resetTable : List (Reg × Nat) := [
  (R.SYS_ID, 0x48D90100),
  (R.AON_SAFE_STAT, 0x100),
  (R.PT_STATUS, 0xFFFF00F0),
  (R.LE_STATE_FLAGS, 0x1),
  (R.CD_STAT, 0x5),
  (R.CD_LEARN_STAT, 0xF0000000),
  (R.CD_TH_STAT, 0x80000000),
  (R.CD_TH_RW, 0xFF),
  (R.FAN_STAT, 0x71),
  (R.FAN_GUARD, 0x40000000),
  (R.CL_TIME_STAT, 0x3F030000),
  (R.IC_TGT_CLAIM, 0x3FC),
  (R.HB_HID, 0x48D9),
  (R.BOOT_CAUSE, 0x11),
  (R.BOOT_SLOT_STAT, 0x1),
  (R.SYS_CLK_STAT, 0x40000000),
  (R.AON_STAT, 0x2),
  (R.PNL_BLK_CTRL, 0x201)]

/-- The registers with a field whose Reset entry is "image": those a boot load loads (R690). -/
def imageRegs : List Reg := [
  R.PT_VALUE, R.PT_CONFIG, R.PT_BIND, R.SYS_PT_PROF_AGE, R.SYS_PT_PROF_DB,
  R.SYS_PT_PROF_PER, R.SYS_ZONE_CFG, R.LE_REC_CTRL, R.LE_REC_PTS, R.LE_REC_OUT,
  R.LE_REC_TIME, R.LE_REC_SUP, R.LE_REC_OMIN, R.LE_REC_OMAX, R.LE_REC_RATE,
  R.LE_REC_FEL, R.LE_REC_AKP, R.LE_REC_AKI, R.LE_REC_AKD, R.LE_REC_BKP,
  R.LE_REC_BKI, R.LE_REC_BKD, R.LE_REC_SHAPE, R.LE_SWG_CFG, R.SK_CTRL,
  R.SK_TASK_CTL, R.SK_TASK_TRIG, R.SK_TASK_ENTRY, R.SK_TASK_SEG, R.CD_CFG,
  R.CD_CMD, R.CD_PULL, R.CD_HOLD, R.CD_PROP, R.CD_PULSE,
  R.CD_REG, R.CD_MOTCFG, R.CD_MOTWIN, R.CD_ENDC, R.CD_STK_PAR,
  R.CD_PRB_CFG, R.CD_TH_R, R.CD_TH_C, R.CD_TH_G, R.CD_TH_LIM,
  R.CD_EW_CFG, R.CD_LWIN, R.CD_DBUD, R.ADC_CTRL, R.ADC_PIN,
  R.ADC_ENT, R.ADC_UENT, R.ADC_CHK_CFG, R.ADC_CHK_WIN, R.ADC_TMR,
  R.ADC_NTC_R, R.ADC_NTC_B, R.FAN_CFG, R.FAN_CMD, R.FAN_LIM,
  R.FAN_TSUP, R.FAN_SUPT, R.FAN_GCFG, R.FAN_GTRIG, R.FAN_BT_PT,
  R.FAN_BT_SRC, R.DI_CFG, R.DO_CFG, R.DO_CMD, R.AO_CMD,
  R.DO_TIME, R.AO_CFG, R.ZB_CTRL, R.ZB_NBT, R.ZB_DBT]
 ++ [
  R.ZB_TDC, R.ZB_QUAR, R.ZB_TAGCLS, R.ZB_NW, R.ZB_HWCFG,
  R.ZB_ENUM, R.ZB_PWR_CFG, R.ZB_NODE_SER, R.ZB_NODE_CFG, R.ZB_BUF_CFG,
  R.ZB_BUF_ID, R.ZB_BUF_MASK, R.CL_CTRL, R.CL_PORT_CFG, R.CL_PORT_MAC_LO,
  R.CL_PORT_MAC_HI, R.CL_PORT_ADDR0, R.CL_PORT_ADDR1, R.CL_PORT_ADDR2, R.CL_PORT_ADDR3,
  R.CL_AUTH_CFG, R.CL_SUB_CFG, R.CL_TAGCFG, R.CL_FORM_CFG, R.CL_ISL_UID,
  R.LOG_CTRL, R.LOG_TRD_CFG, R.LOG_TRD_PER, R.TEN_CTX_CFG, R.TEN_Q_CMD_CFG,
  R.TEN_Q_EVT_CFG, R.TEN_Q_ERR_CFG, R.TEN_WIN_A, R.TEN_WIN_B, R.TEN_QLOOP,
  R.TEN_QSUB, R.TEN_QRC, R.TEN_QLOG, R.TEN_IRQ_SRC, R.TEN_DB_CFG,
  R.TEN_FB_PT, R.TEN_FB_VAL, R.IC_SRC_CFG, R.IC_TGT_CTRL, R.HB_LANE_CFG,
  R.HB_WDOG_CFG, R.CAL_UC_PT, R.CAL_UC_GAIN, R.CAL_UC_OFS, R.AON_CHG_CFG,
  R.PNL_CTRL, R.PNL_CLK, R.PNL_HTIM, R.PNL_VTIM, R.PNL_SIZE,
  R.PNL_SYNC, R.PNL_FB, R.PNL_VCOM_CFG, R.PNL_VT, R.PNL_SWING,
  R.PNL_PSEQ, R.PNL_PSEQ2, R.PNL_BL, R.PNL_CRK_CFG, R.PNL_KEY_CFG,
  R.PNL_ENC_CFG, R.PNL_ACC_CFG, R.PNL_ACC_CODE, R.PNL_ACC_IDLE, R.IC_EN,
  R.IC_EN_SET, R.IC_EN_CLR]

/-- The word an address holds after power-on reset (R16). -/
def resetWord (a : Nat) : Word :=
  match resetTable.find? (fun r => r.1.hit a) with
  | some r => Word.ofN r.2
  | none => 0

end Sys2Proof.Machine
end

