-- ==== Sys2Proof/Machine/State.lean ====
section
/-! DEFINITION. The state of the block: every register of the register space in one sparse table, and beside it every
piece of state the spec names that no register shows. Plain data; `State.reset` is power-on reset (R16, R29). -/

namespace Sys2Proof.Machine

/-- Why the machine can stop with a fault. No command of this block raises one: the spec describes what each does in
every state, so this reason is never answered (safe). -/
inductive Fault where
  /-- Raised by no command (safe). -/
  | none
  deriving DecidableEq, Repr

/-- Why a command has no meaning. -/
inductive Refusal where
  /-- Raised by an arm of `exec` whose command has no meaning yet (safe: the run stops). -/
  | notModelled (mnemonic : String)
  deriving DecidableEq, Repr

/-- An audit record (R566); `leBytes` and the CHECK of its 48 bytes are `AuditRec.bytes`. For GAP and MIRROR_GAP the
first SEQ stands in target and addr, the last in old and new (R567). -/
structure AuditRec where
  seq : Nat := 0
  time : Nat := 0
  recDev : Nat := 0
  tsync : Bool := false
  orgDev : Nat := 0
  tenant : Nat := 0
  ifc : Nat := 0
  kind : Nat := 0
  result : Nat := 0
  late : Bool := false
  ttype : Nat := 0
  target : Nat := 0
  addr : Nat := 0
  old : Word := 0
  new : Word := 0
  aux : Nat := 0
  deriving DecidableEq, Repr

/-- An event or error queue entry (R607). -/
structure QEntry where
  cls : Nat
  block : Nat
  qseq : Nat
  time : Nat
  code : Nat
  fields : List Byte
  deriving DecidableEq, Repr

/-- A command queue entry (R611). -/
structure CmdEntry where
  op : Nat
  prio : Nat
  notify : Bool
  word : Nat
  index : Nat
  cookie : Nat
  value : Word
  cpid : Nat
  ifc : Nat
  gen : Nat
  delayed : Bool
  deriving DecidableEq, Repr

/-- What a tenant context holds beside its registers (R606 to R620). -/
structure TenCtx where
  ev : List QEntry := []
  er : List QEntry := []
  cq : List CmdEntry := []
  evSeq : Nat := 0
  erSeq : Nat := 0
  evDrop : Nat := 0
  erDrop : Nat := 0
  /-- Time of the last reset's start, in µs; none before the first. -/
  resetAt : Option Nat := none
  /-- The generation before the first reset of the running hold (R617 step 6). -/
  oldGen : Nat := 0
  /-- Time of the last LOG_FULL error record (R572). -/
  logErrAt : Option Nat := none
  deriving DecidableEq, Repr

/-- A path's own copy of the banked registers and its read capture (R64, R611, R531, R662). -/
structure Bank where
  stage0 : Word := 0
  stage1 : Word := 0
  stage2 : Word := 0
  stage3 : Word := 0
  cqRes : Nat := 0
  rwCpid : Nat := 0
  rwVal : Word := 0
  rwRes : Word := 0
  /-- The captured word and the only address whose read returns it. -/
  capture : Option (Nat × Word) := none
  deriving DecidableEq, Repr

/-- A target's offer (R638) and whether another target has claimed its source since (R639). -/
structure Offer where
  src : Nat
  taken : Bool
  deriving DecidableEq, Repr

/-- The interrupt controller's bits (R633, R634) and offers (R638). -/
structure IcState where
  en : BitVec 256 := 0
  pend : BitVec 256 := 0
  swp : BitVec 256 := 0
  line : BitVec 256 := 0
  active : BitVec 256 := 0
  owner : Tab Nat := []
  /-- A change of a line that its filter counts (R632): samples that read the new level, and CK_SYS cycles since the last one. -/
  counts : Tab (Nat × Nat) := []
  offers : List (Option Offer) := List.replicate 8 none
  deriving DecidableEq, Repr

/-- What the ECC holds against a point's record (R68): CONFIG and BIND still to be rewritten after a double-bit error, and an
error that no read has found yet. -/
structure PtHealth where
  config : Bool := false
  bind : Bool := false
  latent : Option Ecc := none
  deriving DecidableEq, Repr

/-- What a point with subscribers keeps for R87. -/
structure PubState where
  lastV : Word := 0
  lastQ : Nat := 0
  since : Nat := 0
  fresh : Bool := false
  deriving DecidableEq, Repr

/-- A safe-state entry of the power die's table (R30, R692). -/
structure SafeEntry where
  option : Nat := 0
  value : Nat := 0
  check : Nat := 0
  deriving DecidableEq, Repr

/-- The safe-state side of one output (R29 to R36). -/
structure SafeOut where
  /-- Its entry of the table in force; none before a boot has loaded one. -/
  entry : Option SafeEntry := none
  /-- The entry it acts on since its entry into safe state (R693); none is its off state (R29). -/
  acting : Option SafeEntry := none
  /-- In safe state, or in its off state awaiting release. -/
  inSafe : Bool := true
  /-- In the off state of R29. -/
  off : Bool := true
  /-- A release is kept pending (R36). -/
  relPend : Bool := false
  /-- Its entry has failed its check (R33). -/
  failed : Bool := false
  deriving DecidableEq, Repr

/-- What one regulator twin keeps (R236), and for how many boundaries in a row it has disagreed (R238). -/
structure CdTwin where
  acc : Nat := 0
  reached : Bool := false
  duty : Nat := 0
  /-- Every switch is off (FAST_DECAY of R233). -/
  fd : Bool := true
  meas : Nat := 0
  deriving DecidableEq, Repr

/-- What a coil channel holds beside its registers (R236 to R309). Times are in µs. -/
structure CdChan where
  twinA : CdTwin := {}
  twinB : CdTwin := {}
  /-- Boundaries in a row: the twins disagreed (R238), duty was full with low current (R258), the pair's share was out of
  band (R241). -/
  disagree : Nat := 0
  openCnt : Nat := 0
  imbal : Nat := 0
  /-- CMDV, binary32 (R244). -/
  cmdv : Word := 0
  /-- Commands of this cycle: the last one, and whether any was a trigger (R251). -/
  pend : Option Word := none
  trig : Bool := false
  /-- MODE was written OFF in this cycle (R249). -/
  modeOff : Bool := false
  /-- CMDV is taken up at the next boundary (R256). -/
  take : Bool := false
  /-- φ of R252. -/
  phi : Nat := 0
  /-- Base target of PROP in µA (R250). -/
  base : Nat := 0
  /-- I_PULL as it stood at entry into PULLIN (R249), mA. -/
  iPull : Nat := 0
  /-- The target held in SAFE, µA; none when de-energised (R255). -/
  safeTgt : Option Nat := none
  /-- When the phase was entered. -/
  phaseAt : Nat := 0
  /-- Due times of the T_PULL timer and of HOLD_MAX or T_PULSE (R247). -/
  pullDue : Option Nat := none
  holdDue : Option Nat := none
  /-- A clamp phase runs, since when; where the channel goes at its end: 0 by R247, 1 SUPPLY, 2 SHED. -/
  clamp : Bool := false
  fdAt : Nat := 0
  /-- RA as it stood before the clamp phase began: the switch states of the samples before it in that cycle (R253, R306). -/
  offTwin : CdTwin := {}
  dest : Nat := 0
  clampEnd : Nat := 0
  /-- The zero check of R239 is due. -/
  zeroDue : Bool := false
  /-- A FUNC_RST of the pair waits for the clamp phase (R260). -/
  rst : Bool := false
  /-- Opening observation: begun at; the signature's result once its observation has ended; recorded. -/
  openAt : Option Nat := none
  sig : Option (Nat × Nat) := none
  /-- The phase of the opening observation has ended; its result is due. -/
  openEnd : Bool := false
  /-- The release bump of the probe level, while its contact is still open (R286, R296). -/
  bumpSig : Option (Nat × Nat) := none
  opEdge : Option Nat := none
  clEdge : Option Nat := none
  opChat : Bool := false
  clChat : Bool := false
  /-- The closing observation runs; its signature once it has ended, until the result acts (R287). -/
  closeObs : Bool := false
  closeSig : Option (Nat × Nat) := none
  /-- Motion end of R288: when pull-in ends. -/
  mendAt : Option Nat := none
  /-- NONE results in a row: opening and closing (R289). -/
  noneOpen : Nat := 0
  noneClose : Nat := 0
  /-- The release bump is armed, or has come since it was last due to be armed (R282); the time of the first AMBIG bump (R290). -/
  armed : Bool := false
  bumped : Bool := false
  ambigAt : Option Nat := none
  /-- What the guard of R290 has seen and the next boundary acts on (R287): a result of R283. -/
  guard : Nat := 0
  /-- Stroke learn: CLEAR times and leads of opening and closing, in units of 4 µs (R294). -/
  opTimes : List Nat := []
  clTimes : List Nat := []
  opLeads : List Int := []
  clLeads : List Int := []
  learnChat : Bool := false
  opSeen : Bool := false
  clSeen : Bool := false
  /-- Probe: i0, the last level held, the level applied and the step, mA (R296). -/
  i0 : Nat := 0
  held : Nat := 0
  lvl : Nat := 0
  pstep : Nat := 0
  /-- Tw and Tb, binary32; none until the first update (R302: TAMB at power-on reset). -/
  tw : Option Word := none
  tb : Option Word := none
  /-- The conditions of R303 have held in this window; the base targets of its first cycle and of the present one, in µA. -/
  rwOk : Bool := false
  rwRef : Option Nat := none
  rwBase : Option Nat := none
  /-- A clear of THERM or EWIN while COOLED was 0 trips again at the next boundary (R304). -/
  reTherm : Bool := false
  reEwin : Bool := false
  /-- Milliseconds towards the next second of AGE (R329). -/
  ageMs : Nat := 0
  /-- Energy buckets of 1 s in 0.5 nJ (a step times 0.1 V times 4 µs), the one in progress first, and its age in ms (R305). -/
  buckets : List Nat := [0]
  bucketMs : Nat := 0
  /-- The sum and count of the coil voltage samples of the device tick, in 0.1 V (R261). -/
  vSum : Int := 0
  vCnt : Nat := 0
  /-- The last cycle boundary (R235). -/
  bndAt : Option Nat := none
  /-- Sums over samples in steps and 0.1 V: v·i of the clamp phase (R253); i² and their count, and max(v·i, 0), since the last
  millisecond (R302, R305); i² in ENERGISE, i² in SLOW_DECAY and |v·i| in the clamp since the last millisecond (R306); v and i of
  the resistance window, and when it began (R303). -/
  clampE : Int := 0
  sqSum : Nat := 0
  sqCnt : Nat := 0
  enSum : Nat := 0
  pathE : Nat := 0
  pathS : Nat := 0
  pathC : Nat := 0
  rwV : Int := 0
  rwI : Nat := 0
  rwAt : Nat := 0
  deriving DecidableEq, Repr

/-- What the coil drive holds for all channels (R306 to R308). -/
structure CdGlobal where
  /-- Pf in W, binary32. -/
  pf : Word := 0
  /-- Milliseconds that Pf has stayed below 0.9 of the budget, and that stage 6 has held above it. -/
  lowMs : Nat := 0
  overMs : Nat := 0
  /-- The record of OVER has been posted for this stay in stage 6 (R308); the last 50 ms check (R307). -/
  overDone : Bool := false
  riseAt : Option Nat := none
  /-- Error records waiting for the link (R259): tenant, code, fields. -/
  errs : List (Nat × Nat × List Byte) := []
  /-- The last unshed. -/
  unshedAt : Option Nat := none
  deriving DecidableEq, Repr

/-- A command on its way to an actuator block (R28, R244, R377, R423, R428). -/
structure Fwd where
  cls : Nat
  chan : Nat
  value : Word
  qual : Nat
  deriving DecidableEq, Repr

/-- An operation on its way to the loop engine (R102, R163, R206): what it asks, for whom. -/
inductive LeAsk where
  /-- Write a word of a loop record (R133). -/
  | word (loop word : Nat) (value : Word)
  /-- Per-loop swap request (R162). -/
  | swap (loop bank : Nat)
  /-- Group request or cancel, the word of LE_SWG_CMD (R165). -/
  | group (cmd : Word)
  /-- Set INIT of a loop (R207). -/
  | reinit (loop : Nat)
  /-- Override-band write of the loop's OUT point (R207). -/
  | force (loop prio : Nat) (value : Word)
  /-- Relinquish the loop's OUT point (R207). -/
  | release (loop prio : Nat)
  deriving DecidableEq, Repr

/-- An entry of a FIFO to the loop engine: the request, its writer and the register it came by (R566). -/
structure LeOp where
  ask : LeAsk
  tenant : Nat
  gen : Nat
  ifc : Nat
  addr : Nat
  /-- The task run that sent it: its acknowledgement is for that run only (R215). -/
  run : Nat
  /-- The value the write carries, as its record gives it (R566). -/
  data : Word := 0
  /-- A command entry's COOKIE, OP and NOTIFY, for the result entries of R612. -/
  cmd : Option (Nat × Nat × Bool) := none
  deriving DecidableEq, Repr

/-- A loop's state record (R136), its supervision count (R168), its pending swap (R162), and what else the engine keeps of
it. The two halves hold equal records whenever no evaluation is in progress (R138), so one copy stands for both. -/
structure LoopSt where
  iPrev : Word := 0
  dPrev : Word := 0
  yPrev : Word := 0
  uPrev : Word := 0
  holds : Nat := 0
  miss : Bool := false
  /-- SCHED[2:0] (R169): 0 OFF, 1 INSIDE, 2 OUTSIDE, 3 EXCEEDED, 4 PAUSED. -/
  sup : Nat := 0
  outcome : Nat := 0
  rateLim : Bool := false
  limLo : Bool := false
  limHi : Bool := false
  frozen : Bool := false
  bankUsed : Nat := 0
  bumpPend : Bool := false
  restart : Bool := false
  init : Bool := true
  feCount : Nat := 0
  /-- The pending swap's target bank (R162). -/
  pend : Option Nat := none
  /-- The TIME word in force until the next frame's setup, when LE_REC_TIME has been written since the last (R155). -/
  time : Option Word := none
  /-- Record words that hold a double-bit error (R137). -/
  bad : List Nat := []
  /-- The latest outcome that was neither DISABLED nor MISSED (R105, R161); none since the state was reset. -/
  last : Option Nat := none
  deriving DecidableEq, Repr

/-- The result of an evaluation, not yet committed (R138). -/
structure LeEval where
  loop : Nat
  tenant : Nat
  gen : Nat
  outcome : Nat
  numeric : Bool := false
  /-- The output point, and the value written to it (R111). -/
  out : Nat := 0
  u : Option Word := none
  /-- The state it would commit. -/
  st : LoopSt
  /-- |r − y| of R168, of a committed outcome. -/
  fe : Option Word := none
  /-- INIT has been set since the latch: it acts at the next evaluation (R101). -/
  again : Bool := false
  deriving DecidableEq, Repr

/-- An output queue entry (R171). -/
structure OqEntry where
  loop : Nat
  point : Nat
  value : Word
  tenant : Nat
  gen : Nat
  deriving DecidableEq, Repr

/-- What the loop engine holds beside its registers (R101 to R186). -/
structure LeState where
  loops : Tab LoopSt := []
  /-- Evaluations start: set at the first frame boundary after a reset (R152). -/
  started : Bool := false
  /-- Time of the last frame boundary in µs. -/
  frameAt : Nat := 0
  /-- Due loops of this frame not yet reached (R153), the slots used, and whether a loop has missed or a trend sample has
  been dropped in it. -/
  due : List Nat := []
  slots : Nat := 0
  missed : Bool := false
  trendDrop : Bool := false
  oq : List OqEntry := []
  /-- The FIFO of R102 and the four of R206. -/
  fifos : List (List LeOp) := List.replicate 5 []
  /-- The disagreed evaluation that waits for its repeat, and the part that differed (R138). -/
  retry : Option (LeEval × Nat) := none
  /-- Full target frame of each group's pending request (R165); ALIGN, BANK and T of its last applied one (R186). -/
  swgT : Tab Nat := []
  swgLast : Tab (Nat × Nat × Nat) := []
  /-- The loop whose copy LE_STATE_SEL waits for (R148). -/
  copy : Option Nat := none
  /-- The engine-fault notice, and the cancel, on their way to the power die (R139, R141), and when its 3 s timer ends. -/
  notice : Bool := false
  cancel : Bool := false
  pdTimer : Option Nat := none
  /-- A function reset of the engine runs (R141, R670). -/
  rst : Bool := false
  /-- Outputs that took no fallback because the engine fault held them (R34). -/
  withheld : List (Nat × Nat) := []
  /-- A frame boundary with F mod 10 = 0 has begun a quota window that is still to be made (R619). -/
  windowDue : Bool := false
  deriving DecidableEq, Repr

/-- A read that an LX read asks of the engine (R207): a record word or a state word. -/
structure LeAskRead where
  loop : Nat
  word : Nat
  isState : Bool
  tenant : Nat
  gen : Nat
  deriving DecidableEq, Repr

/-- What a core's oldest instruction waits for (R198): the answer of an LX read, or the acknowledgements of LXSYNC or DONE. -/
inductive SkWait where
  | read (rd seq : Nat)
  /-- The FIFO to the engine is full: the retire of the oldest commit-buffer entry stalls (R206). -/
  | fifo
  /-- An instruction in retire when its task ended or SK0 left its program completes first (R200, R214, R216). -/
  | retire
  | sync (rd : Nat)
  | done
  deriving DecidableEq, Repr

/-- What a Skehil core holds beside its registers of the register space (R188 to R225). -/
structure SkCore where
  regs : List Word := List.replicate 16 0
  pc : Nat := 0
  cflags : Nat := 0
  lxFirst : Nat := 0
  lxCount : Nat := 0
  /-- The running task of SK1-SK3. -/
  task : Option Nat := none
  /-- Counts task runs, to tell their acknowledgements apart (R215). -/
  run : Nat := 0
  cycles : Nat := 0
  /-- When the running task started, in µs. -/
  startAt : Nat := 0
  timeHi : Nat := 0
  ready : BitVec 64 := 0
  /-- Ready tasks whose delay has been counted: by quota (R221), by throttling (R620). -/
  deferred : BitVec 64 := 0
  throttled : BitVec 64 := 0
  args : Tab Nat := []
  wait : Option SkWait := none
  seq3 : Nat := 0
  /-- LX reads sent and not yet answered: sequence number and answer (R208). -/
  reads : List (Nat × LeAskRead) := []
  unacked : Nat := 0
  /-- The commit buffer: operations of the instructions from the PC on, or from the one after a read that waits (R209). -/
  cbuf : List LeOp := []
  /-- The register that the instruction just before loaded from memory (R198). -/
  loaded : Option Nat := none
  /-- Acknowledgements on their way: run and status (R211). -/
  acks : List (Nat × Nat) := []
  /-- Sources the dispatcher claimed and has not completed (R643). -/
  claimed : List Nat := []
  /-- SK0: interrupts wait until ERET retires (R216). -/
  inHandler : Bool := false
  /-- SK0 executes (from the end of boot). -/
  started : Bool := false
  /-- Words of IMEM (by address) and DMEM whose ECC holds a double-bit error (R190). -/
  bad : List Nat := []
  deriving DecidableEq, Repr

/-- A trend sample (R588). -/
structure TrendSample where
  time : Nat
  point : Nat
  qual : Nat
  value : Word
  deriving DecidableEq, Repr

/-- A publication record (R505). -/
structure PubRec where
  point : Nat
  qual : Nat
  value : Word
  age : Nat
  srcForced : Bool
  tick : Nat
  deriving DecidableEq, Repr

/-- A SUB_IN entry: one per REMOTE binding (R502 to R504). -/
structure SubIn where
  cpid : Nat
  /-- 0 not established and due, 1 waiting for SUB_ACK, 2 established, 3 waiting 10 s after FULL, 4 refused until BIND is
  next written. -/
  phase : Nat
  /-- When the last SUBSCRIBE for it was sent; none before the first. -/
  sentAt : Option Nat
  /-- When it was established or last refreshed, or answered FULL. -/
  since : Nat
  /-- A publication record has been received since then (R504). -/
  heard : Bool
  /-- The next SUBSCRIBE for it is one sent again under R504, which CL_SUB_CNT.RETRY counts (R529). -/
  again : Bool := false
  deriving DecidableEq, Repr

/-- A SUB_OUT entry: one per subscriber device and point (R502, R505). -/
structure SubOut where
  tenant : Nat
  slot : Option PubRec
  deriving DecidableEq, Repr

/-- A message waiting in a port's class queue (R514): one of the device's own, built when it is first sent (R496, R498), or
one forwarded for another device. Copies of one message on several ports share `id`. The body of a PUB is made from its
records when it is built (R505). -/
structure OutMsg where
  id : Nat
  cls : Nat
  typ : Nat
  dst : Nat
  tenant : Nat
  gen : Nat
  body : List Byte
  /-- EPOCH, SEQ and SEND_TIME once a copy has been sent. -/
  built : Option (Nat × Nat × Nat) := none
  fwd : Option Msg := none
  recs : List PubRec := []
  /-- For BEACON, DELAY_REQ and DELAY_RESP: how far after its building the message is scheduled on the wire, in µs (R516, R517). -/
  lead : Nat := 0
  deriving DecidableEq, Repr

/-- A campus tag (R512): 1 OPEN, 2 QUARANTINE; a FREE tag has no entry. -/
structure CTag where
  state : Nat
  dev : Nat
  point : Nat
  tenant : Nat
  gen : Nat
  ifc : Nat
  addr : Nat
  value : Word
  prio : Nat
  rel : Bool
  timedOut : Bool
  /-- When it was handed over, or entered QUARANTINE. -/
  at_ : Nat
  /-- The RWRITE's id in the port queues. -/
  msgId : Nat
  deriving DecidableEq, Repr

/-- A received RWRITE in the intake queue (R508). -/
structure RwIn where
  src : Nat
  tenant : Nat
  gen : Nat
  rel : Bool
  prio : Nat
  point : Nat
  value : Word
  tag : Nat
  origin : Nat
  epoch : Nat
  deriving DecidableEq, Repr

/-- The replay window of a source (R500): highest EPOCH and SEQ accepted, and the map of the 64 SEQs below. -/
structure Replay where
  epoch : Nat
  seq : Nat
  map : Nat
  deriving DecidableEq, Repr

/-- The last beacon received on a port (R518). -/
structure BeaconRx where
  stratum : Nat
  sync : Bool
  at_ : Nat
  deriving DecidableEq, Repr

/-- An ICMPv6 message sent (R494): port, type, source and destination address (0 for the unspecified source of a detection),
hop limit, and the fields of its body that R494 needs. -/
structure IcmpTx where
  port : Nat
  typ : Nat
  src : Nat
  dst : Nat
  hop : Nat
  body : List Byte
  deriving DecidableEq, Repr

/-- A UDP datagram sent (R493 to R495): its IPv6 addresses, the MAC address it goes to, hop limit, UDP ports and checksum, the
campus time at which its start-of-frame delimiter is on the wire (R516), and the message it carries. -/
structure Datagram where
  src : Nat
  dst : Nat
  mac : Nat
  hop : Nat
  sport : Nat
  dport : Nat
  cksum : Nat
  at_ : Nat
  msg : Msg
  deriving DecidableEq, Repr

/-- What the campus links hold beside their registers (R490 to R532). -/
structure ClState where
  seq : Nat := 0
  /-- The copy of the boot epoch that SK0 firmware keeps in the log store (R498). -/
  epochCopy : Nat := 0
  /-- The epoch of this boot came from the always-on counter alone so far (R695). -/
  epochDue : Bool := false
  nextId : Nat := 0
  /-- Per port UL0, UL1, BB: the waiting messages, in order of origin. -/
  queues : List (List OutMsg) := List.replicate 3 []
  /-- The device's own messages to a reachable device to which no port leads now; they wait for a route (R514). -/
  held : List OutMsg := []
  /-- The datagram last put on each port's wire. -/
  tx : Tab Datagram := []
  /-- Key store: island slots 0 and 1, backbone slots 0 and 1 (R499). -/
  keys : List (Option Nat) := List.replicate 4 none
  replay : Tab Replay := []
  tags : Tab CTag := []
  lastTag : Nat := 4095
  intake : List RwIn := []
  /-- When each far CPID was last sent an UNSUBSCRIBE under R506. -/
  unsubAt : Tab Nat := []
  authErrAt : Option Nat := none
  /-- Per port: the delay values kept, newest first, and t1 of the running measurement (R517). -/
  delays : List (List Nat) := List.replicate 3 []
  reqT1 : List (Option Nat) := List.replicate 3 none
  beacons : Tab BeaconRx := []
  lastFollow : Option Nat := none
  lastOff : Int := 0
  /-- The rate correction since the last followed beacon, in µs per 250 ms, and what it has gained towards the next µs
  (R518). -/
  slew : Int := 0
  slewAcc : Int := 0
  /-- A followed beacon waits for its re-issue: the followed port and stratum (R518). -/
  reissue : Option (Nat × Nat) := none
  /-- CL_TIME_SET_LO as last written (R519). -/
  timeSetLo : Nat := 0
  /-- Times of the SUBSCRIBEs sent in the last second (R503). -/
  subSent : List Nat := []
  /-- Per port, (time, bits) of the messages sent in the last second (R558). -/
  load : List (List (Nat × Nat)) := List.replicate 3 []
  /-- By 2 × port + address (0 link-local, 1 configured): 0 not started, 1 DAD running, 2 in use, 3 withdrawn, 4 a conflict
  seen while DAD runs (R494); and
  when it began. -/
  dad : Tab Nat := []
  dadAt : Tab Nat := []
  /-- BB's neighbour cache: address and MAC, at most 64 (R494). -/
  cache : List (Nat × Nat) := []
  /-- The ICMPv6 messages sent by the last command that sent any (R494). -/
  icmpTx : List IcmpTx := []
  deriving DecidableEq, Repr

/-- A Strait's state (R536): 0 DOWN, 1 PENDING, 2 UP, 3 MISWIRE; the neighbour and MAC it names; times. -/
structure Strait where
  st : Nat := 0
  src : Nat := 0
  mac : Nat := 0
  firstAt : Nat := 0
  lastAt : Nat := 0
  upAt : Nat := 0
  /-- Last MISWIRE error record (R537). -/
  errAt : Option Nat := none
  deriving DecidableEq, Repr

/-- The latest TOPO of a member (R534, R539). -/
structure Topo where
  n0 : Nat
  n1 : Nat
  state : Nat
  pri : Nat
  at_ : Nat
  deriving DecidableEq, Repr

/-- The latest ISLAND_ADV of an island master (R534, R546). -/
structure Adv where
  state : Nat
  pri : Nat
  members : Nat
  uid : Nat
  ver : Nat
  at_ : Nat
  /-- The BB address of the master (R546). -/
  addr : Nat
  deriving DecidableEq, Repr

/-- A campus map (R535). -/
structure CMap where
  cm : Nat
  ver : Nat
  frags : List (Nat × Nat)
  deriving DecidableEq, Repr

/-- What the island and campus formation holds beside its registers (R533 to R565). -/
structure IslState where
  straits : List Strait := List.replicate 2 {}
  topo : Tab Topo := []
  /-- Members in the order of the last closed ring (R539). -/
  order : List Nat := []
  /-- The fragment as last computed: the members across UL0 and UL1 and whether the ring is closed; since when. -/
  frag : List Nat × List Nat × Bool := ([], [], false)
  fragSince : Nat := 0
  /-- Since when at least one Strait is UP (R538). -/
  upSince : Option Nat := none
  /-- The reachable set as last computed: a member mask for each island. -/
  reach : List Nat := List.replicate 32 0
  imSince : Nat := 0
  advs : Tab Adv := []
  /-- The highest VERSION an ISLAND_ADV heard has carried (R547). -/
  verSeen : Nat := 0
  map : Option CMap := none
  mapSince : Nat := 0
  mapAt : Nat := 0
  missed : Nat := 0
  relayPend : Bool := false
  /-- The campus master's own fragment table: ISLAND_UID per island (R549) and its map. -/
  uids : Tab Nat := []
  own : Option CMap := none
  rejected : List Nat := []
  /-- The campus master that the last map held named (R548), and the one followed without a break since it sent a map that was
  accepted (R549). -/
  lastCm : Option Nat := none
  follows : Option Nat := none
  /-- Since when a subscriber device has been unreachable (R553). -/
  unreach : Tab Nat := []
  deriving DecidableEq, Repr

/-- What is collected of conversions (R343, R344): of a pass, or of an entry's accumulator. MIN and MAX are empty while COUNT
is 0. -/
structure AdcAcc where
  sum : Nat := 0
  count : Nat := 0
  min : Nat := 0
  max : Nat := 0
  novr : Nat := 0
  nsus : Nat := 0
  deriving DecidableEq, Repr

/-- An entry as a sequence uses it (R342): the words of its entry and of its pin. -/
structure AdcCfg where
  pin : Nat
  gain : Nat
  smp : Nat
  conv : Nat
  mode : Nat
  curve : Nat
  rsh : Nat
  deriving DecidableEq, Repr

/-- Where the pass of the last included conversion stands: still running, on its way to the accumulator, merged, or abandoned
(R341, R342, R343). -/
inductive AdcPlace
  | running | crossing | merged | gone
  deriving DecidableEq, Repr

/-- The last included conversion of a pass (R351): its pin, the start and end of its sampling phase, and its entry. -/
structure AdcLast where
  pin : Nat
  t0 : Nat
  t1 : Nat
  entry : Nat
  /-- The pass record before it, and where its pass stands. -/
  was : AdcAcc
  place : AdcPlace := .running
  /-- The accumulator and the sums of the local mean before its pass merged; whether a snapshot has taken that accumulator since; and
  the local mean before the sums were renewed, if they were. -/
  acc : AdcAcc := {}
  lsum : Nat × Nat := (0, 0)
  snapped : Bool := false
  mean : Option (Option (Word × Nat × Bool)) := none
  deriving DecidableEq, Repr

/-- What a converter holds beside its registers (R337 to R357). Entries 0 to 15 are normal, 16 to 19 urgent. -/
structure AdcConv where
  /-- Start of the conversion or of the start-up in progress, in CK_ADC cycles of 1/32 µs. -/
  cyc : Nat := 0
  /-- What the start-up is for: 0 a normal sequence, 1 an urgent one, 2 a check. -/
  startFor : Nat := 0
  /-- Entries of the normal and urgent sequence as taken at their start. -/
  nseq : List AdcCfg := []
  useq : List AdcCfg := []
  /-- The configuration each entry was last used with. -/
  used : Tab AdcCfg := []
  /-- Conversions done of the running pass, and its record. -/
  n : Nat := 0
  pass : AdcAcc := {}
  /-- The last conversion was over-range; the next is discarded and repeated (R350). -/
  lastOvr : Bool := false
  rep : Bool := false
  /-- Passes on their way to the accumulators (R343). -/
  fifo : List (Nat × AdcAcc) := []
  acc : Tab AdcAcc := []
  /-- Sum and count of the present 100 ms, and the local mean with the time of its renewal, and whether its code lay in
  the window of R348 (R349, R388). -/
  lsum : Tab (Nat × Nat) := []
  lmean : Tab (Word × Nat × Bool) := []
  /-- A check is due (R354); the voltage of the check completed in this period and whether a conversion was over-range. -/
  chkDue : Bool := false
  chkDone : Option (Word × Bool) := none
  /-- The last included conversion, until the injection samples of its sampling phase are all in (R351). -/
  last : Option AdcLast := none
  /-- CK_ADC cycles out of IDLE and OFF in this device tick, and from when the present stay counts (R358). -/
  busy : Nat := 0
  since : Nat := 0
  deriving DecidableEq, Repr

/-- What the converters hold together: the check pairs, the timers, injection, and snapshots on their way. -/
structure AdcState where
  /-- The last renewal of the local means (R349). -/
  lmAt : Nat := 0
  convs : List AdcConv := List.replicate 4 {}
  /-- Per pair: a check period is open; the last comparison's difference in V. -/
  open_ : List Bool := [false, false]
  diff : List Word := [0, 0]
  /-- When each timer's period began. -/
  tmrAt : List Nat := [0, 0, 0, 0]
  /-- Pins that the last sample found injected, when it was; per pin, the first and last sample of its injection. -/
  injPrev : Nat := 0
  injAt : Nat := 0
  inj : Tab (Nat × Nat) := []
  /-- Snapshots crossing to the logic die: converter, entry, the six fields, PLAUS at the instant (R346, R348). -/
  snaps : List (Nat × Nat × AdcAcc × Bool) := []
  deriving DecidableEq, Repr

/-- What a fan channel holds beside its registers (R376 to R391). -/
structure FanChan where
  /-- The last accepted falling edge; none while PERIOD is 0 for want of one (R376). -/
  edgeAt : Option Nat := none
  /-- Periods in a row, since the kick began, whose speed reached SPD_MIN (R379). -/
  good : Nat := 0
  /-- When the kick timer expires. -/
  kickDue : Option Nat := none
  /-- When SETTLE last started, and since when the conditions of R381 hold. -/
  settleAt : Nat := 0
  lowAt : Option Nat := none
  /-- Since when the command point has been other than GOOD or FORCED (R386). -/
  lapseAt : Option Nat := some 0
  /-- The Burrow duty, the renewal it was computed at, and whether a Burrow row applied at the last evaluation (R387). -/
  bur : Nat := 0
  burAt : Nat := 0
  burOn : Bool := false
  /-- In safe state at the last evaluation (R382); in it by a guard trip (R393). -/
  wasSafe : Bool := true
  guardFull : Bool := false
  /-- Writes of EN since the last evaluation (R378, R379): 0 none, 1 the last wrote 0, 2 one wrote 0 and the last 1, 3 all wrote 1. -/
  enSeq : Nat := 0
  /-- The period of FAN_PWM in progress: when it began and how long it lasts, in CK_PD cycles, and its duty code (R374). -/
  pinAt : Nat := 0
  pinN : Nat := 0
  pinD : Nat := 0
  deriving DecidableEq, Repr

/-- What a fan group holds beside its registers (R382 to R384). -/
structure FanGroup where
  /-- When the watch window ends. -/
  watchEnd : Option Nat := none
  /-- When the running test ends, and its duty code. -/
  testEnd : Option Nat := none
  tduty : Nat := 0
  /-- Fan channels of the group have been released since power-on or warm reset. -/
  released : Bool := false
  /-- The member whose fault began the failover. -/
  foBy : Nat := 0
  /-- The period generator (R374), in CK_PD cycles: the start and length of the period in progress and of the one before, and how
  many have begun; a length of 0 before the first. -/
  perAt : Nat := 0
  per : Nat := 0
  prevAt : Nat := 0
  prevN : Nat := 0
  perNo : Nat := 0
  /-- The period whose member TCH times the next trigger event (R375). -/
  trigNo : Nat := 0
  deriving DecidableEq, Repr

/-- What the fan block holds: channels, groups, the last evaluation (R378), and the guard (R393, R394): how many samples in a
row each of TS0, TS1 and TG has been at its threshold, since when all are 10 K below, TS0 and TS1 differ, and TGUARD is above
500 kΩ, the last sample, and whether source 195 waits for the link. -/
structure FanState where
  chans : Tab FanChan := []
  groups : List FanGroup := List.replicate 4 {}
  evalAt : Nat := 0
  hot0 : Nat := 0
  hot1 : Nat := 0
  hotG : Nat := 0
  coolAt : Option Nat := none
  /-- SYS_SHDN_N was low from outside at the last sample (R393). -/
  extLow : Bool := false
  diffAt : Option Nat := none
  openAt : Option Nat := none
  guardAt : Nat := 0
  guardIrq : Bool := false
  deriving DecidableEq, Repr

/-- What a relay driver holds beside its registers (R423 to R427). -/
structure DoOut where
  /-- When the applied state last changed (R424). -/
  since : Nat := 0
  /-- When a trip opened the switch, until the next evaluation takes it up (R425). -/
  tripAt : Option Nat := none
  /-- What it acted on in safe state at the last evaluation (R427); none when it was not in safe state. -/
  acted : Option (Option SafeEntry) := none
  /-- EN has been written 0 since the last evaluation, which opens it (R427). -/
  offReq : Bool := false
  /-- Since when the pin can have been above, and below, 3 V (R426). -/
  above : Nat := 0
  below : Nat := 0
  deriving DecidableEq, Repr

/-- What the field I/O block holds: per contact, the debounced state (R416), the latest raw level, whether only a change of INV
parts the two (R420), how many samples in a row have differed from the state, and the time of the last sample; the outputs; since
when each analog output can have been in current limit (R429); times of the last evaluations, of the end of VF_LOW and of the
power-on reset; when VFIELD was last not below 16.0 V, and not above 17.0 V (R431). -/
structure FioState where
  di : BitVec 64 := 0
  raw : BitVec 64 := 0
  invBy : BitVec 64 := 0
  dos : Tab DoOut := []
  /-- va of R428, in units of 2⁻¹⁴⁹ · 10⁻⁴ V; outputs whose EN has been written 0 since the last update (R430). -/
  ao : Tab Nat := []
  aoOff : List Nat := []
  evalAt : Nat := 0
  aoAt : Nat := 0
  vfAt : Nat := 0
  runs : Tab Nat := []
  sampAt : Tab Nat := []
  aoLim : Tab Nat := []
  startAt : Nat := 0
  vfHi : Nat := 0
  vfLo : Nat := 0
  deriving DecidableEq, Repr

/-- A transaction tag that is not FREE (R464): 1 HELD, 2 OPEN, 3 QUARANTINE; the DEST it remembers; since when. -/
structure ZbTag where
  st : Nat
  dest : Nat
  at_ : Nat
  deriving DecidableEq, Repr

/-- A pending transmission of a buffer (R458 to R464). -/
structure ZbReq where
  tenant : Nat
  gen : Nat
  tag : Option Nat
  /-- An attempt has passed arbitration. -/
  passed : Bool := false
  /-- TXABORT was written while the frame was on the bus (R462). -/
  abort : Bool := false
  deriving DecidableEq, Repr

/-- A frame of the hardware queue (R467): identifier and payload. -/
structure ZbHw where
  id : Nat
  data : List Byte
  deriving DecidableEq, Repr

/-- What is on the bus from this controller: a buffer's frame, the i-th of the hardware queue, or a frame whose tenant was
reset meanwhile, with its request (R463). -/
inductive ZbTx where
  | buf (b : Nat)
  | hw (i : Nat)
  | lost (f : CanFrame) (r : ZbReq)
  deriving DecidableEq, Repr

/-- What a zone bus segment holds beside its registers (R442 to R474). -/
structure ZbSeg where
  tags : Tab ZbTag := []
  lastTag : Nat := 1023
  reqs : Tab ZbReq := []
  hwq : List ZbHw := []
  onBus : Option ZbTx := none
  /-- Bus-off recovery runs (R446). -/
  recover : Bool := false
  /-- A FUNC_RST waits for the end of the frame (R474). -/
  rst : Bool := false
  /-- Per address − 1: the last 8 NODE_WRITEs decided, newest first: TAG, result, time (R468). -/
  nw : Tab (List (Nat × Nat × Nat)) := []
  /-- Per address − 1: time of its last uplink frame, or of its ASSIGN (R469). -/
  seen : Tab Nat := []
  /-- The supply: end of the 1 s off time (R486); first trip, retries made since and when the next is due (R472). -/
  cycleEnd : Option Nat := none
  firstTrip : Option Nat := none
  tries : Nat := 0
  retryAt : Option Nat := none
  /-- A latched bit keeps the supply off; after a retry it acts as record only (R472). -/
  hold : Bool := false
  /-- When the FET last went on (R470). -/
  onAt : Nat := 0
  deriving DecidableEq, Repr

/-- The zone bus: the segments, and the device's previous supply start (R471). -/
structure ZbState where
  segs : Tab ZbSeg := []
  startAt : Option Nat := none
  deriving DecidableEq, Repr

/-- A key queue entry (R762). -/
structure KeyEntry where
  ms : Nat
  code : Nat
  qseq : Nat
  deriving DecidableEq, Repr

/-- A blink rectangle in force (R757): the words XY0, XY1, COLOR and CTRL it took, its frame counter, and whether a
commit waits for the next VSYNC edge. -/
structure Blink where
  xy0 : Word := 0
  xy1 : Word := 0
  color : Word := 0
  ctrl : Word := 0
  c : Nat := 0
  /-- Corners, COLOR and PNL_BLK_CTRL of a commit that waits for the VSYNC edge (R757). -/
  next : Option (Word × Word × Word × Word) := none
  deriving DecidableEq, Repr

/-- What the panel holds beside its registers (R748 to R770). Times are in µs. -/
structure PnlState where
  /-- Frames since the timing started, and when it did (R749, R754). -/
  frames : Nat := 0
  timingAt : Nat := 0
  /-- The last active line of the present frame has ended; the VSYNC edge of the next one is to come (R751). -/
  edge : Bool := false
  /-- BASE and INV as the present frame uses them (R750, R754). -/
  base : Nat := 0
  inv : Nat := 0
  /-- The power sequence (R756): its last step reached, when, and VSYNC edges since. -/
  step : Nat := 0
  stepAt : Nat := 0
  stepFrames : Nat := 0
  /-- A FUNC_RST runs, since when (R769). -/
  rstAt : Option Nat := none
  blinks : List Blink := List.replicate 8 {}
  /-- VCOM: the target code; a valid reading has been taken; the last update (R755). -/
  target : Nat := 0
  read : Bool := false
  vcomAt : Nat := 0
  /-- Last error record for an underrun (R751). -/
  underAt : Option Nat := none
  /-- Crack loop readings in a row above RMAX and below RMIN; the last measurement (R758, R759). -/
  crkHi : Nat := 0
  crkLo : Nat := 0
  crkAt : Nat := 0
  keyq : List KeyEntry := []
  /-- Entries posted since reset (R762). -/
  posted : Nat := 0
  /-- Per key, scans in a row that read the opposite level (R761); the last scan. -/
  runs : Tab Nat := []
  scanAt : Nat := 0
  /-- Per encoder, the accepted pair 2 A + B and acc (R764). -/
  encs : List (Nat × Int) := List.replicate 4 (0, 0)
  /-- The codes of levels 1 to 3 and the digits last written (R765, R766); last entry posted or level raised; the start of a lockout. -/
  codes : List Word := [0, 0, 0]
  digits : Word := 0
  idleAt : Nat := 0
  lockAt : Option Nat := none
  deriving DecidableEq, Repr

/-- A log block that is due or being written (R578): its region; how many of the ring's records an AUDIT block takes; how many
samples a TREND block takes of the intake once it enters the FIFO of R720; the bytes of a MIRROR block's records; a TREND block's
samples; for MIRROR the sending device, the SEQ of slot 0, the NEXT of its answer (R586), and how many more MIRRORs its commit
answers. -/
structure LogBlk where
  region : Nat
  n : Nat := 0
  m : Nat := 0
  data : List Byte := []
  samples : List TrendSample := []
  src : Nat := 0
  seq : Nat := 0
  next : Nat := 0
  acks : Nat := 0
  deriving DecidableEq, Repr

/-- What the log engine holds beside its registers (R570 to R591). -/
structure LogState where
  ring : List AuditRec := []
  /-- When each record of the ring entered it. -/
  ringAt : List Nat := []
  /-- The SEQ of the next record; 0, which no record takes, until the BOOT record of this boot (R566, R582). -/
  nextSeq : Nat := 0
  /-- Records made before the BOOT record, which comes before any other of its boot (R567): they follow it. -/
  early : List AuditRec := []
  lostCount : Nat := 0
  lostSince : Nat := 0
  refCount : Nat := 0
  fullSince : Nat := 0
  /-- The trend intake, at most 64 samples (R589), and when each entered it. -/
  trend : List TrendSample := []
  trendAt : List Nat := []
  /-- A sample was dropped in this device tick (R589). -/
  trendDropped : Bool := false
  /-- The card: its size in MiB (R575), none when absent, and the 512-byte blocks it holds; a block nothing has written
  reads as zeros. -/
  capMiB : Option Nat := none
  store : Tab (List Byte) := []
  /-- Blocks due, in order (the first four stand in the FIFO of R720), and the one being written (R578). -/
  due : List LogBlk := []
  inFlight : Option LogBlk := none
  committed : Nat := 0
  /-- A command of LOG_RD_CMD runs: whether it writes, and the block it names (R590). -/
  rd : Option (Bool × Nat) := none
  /-- The mirror sender (R585, R587): MIRRORED, C, the last NEXT, MIRRORs unacknowledged, RESYNC on the next MIRROR, a probe
  is due; times of the last probe and the last progress. -/
  mirrored : Nat := 0
  cur : Nat := 0
  lastNext : Nat := 0
  unacked : Nat := 0
  resync : Bool := false
  probeDue : Bool := false
  probeAt : Nat := 0
  progAt : Nat := 0
  /-- E(m) of R586, by member number: it advances as records are committed. -/
  expect : Tab Nat := []
  deriving DecidableEq, Repr

/-- A posted write: who posted it as it stood then (R663), its address, data, and the bytes it enables. -/
structure Posted where
  bank : Nat
  tenant : Nat
  ifc : Nat
  prio : Nat
  en : Bool
  addr : Nat
  data : Word
  bytes : Nat
  deriving DecidableEq, Repr

/-- What a host lane holds: the captured shadow unit (R656), the assembly register with its address and whether the lane's
last write put it there with both byte enables (R657), and its mailbox (R662): the access's start, whether it came by SPI, its
address and data, and how many posted writes it waits for. -/
structure HbLane where
  cap : Option (Nat × List Word) := none
  asm : Option (Nat × Nat) := none
  asmOk : Bool := false
  addr : Nat := 0
  data : Word := 0
  busy : Bool := false
  tmo : Bool := false
  result : Nat := 0
  wr : Bool := false
  spi : Bool := false
  goAt : Nat := 0
  goAddr : Nat := 0
  goData : Word := 0
  ahead : Nat := 0
  deriving DecidableEq, Repr

/-- What the host interface holds beside its registers (R653 to R672): the lanes, the posted-write FIFO, the shadow (by unit
address + lane: when it was copied, and its words), what the last SPI frame returned, when the watchdog's period ends, the
start of the function reset that runs, and from when on PWRCYC_N is driven low. -/
structure HbState where
  lanes : List HbLane := List.replicate 4 {}
  fifo : List Posted := []
  shadow : Tab (Nat × List Word) := []
  /-- While the link is lost: the last values of the power-die words (R661), those that are not 0. -/
  frozen : Option (Tab Word) := none
  miso : List Byte := []
  wdDue : Option Nat := none
  funcAt : Option Nat := none
  pwrcyc : Option Nat := none
  deriving DecidableEq, Repr

/-- What boot and the flash hold (R679 to R711). -/
structure BootState where
  /-- The stage of R694 reached: 0 in reset, 1 t0, 2 t1, 3 t3, 4 t4, 5 t5, 6 t6, 7 ended. -/
  stage : Nat := 0
  /-- This boot follows a warm reset; when it started, and when it ended. -/
  warm : Bool := false
  t0 : Nat := 0
  endAt : Option Nat := none
  /-- The flash: its pages of 256 bytes; a page nothing has written is erased. -/
  flash : Tab (List Byte) := []
  /-- Slots left to try, the one being tried first (R683); the slot that the record or BOOTSEL named, and whether records are used. -/
  tries : List Nat := []
  first : Nat := 0
  useRec : Bool := false
  /-- The running command of BOOT_FL_CMD: OP, ADDR and the buffer as they stood; the running ACTIVATE: interface code and word. -/
  flCmd : Option (Nat × Nat × List Byte) := none
  act : Option (Nat × Nat) := none
  /-- Error records of the boot, kept until its sections are applied: tenant 0's queues are configured by them. -/
  errs : List (Nat × List Byte) := []
  deriving DecidableEq, Repr

/-- A power-die write sent over the D2D link and not yet acknowledged (R724, R725): the records it makes, its own first; whether
the power die has applied it; the write and its maker; attempts made, and when the last was. -/
structure D2dOut where
  records : List AuditRec
  applied : Bool
  write : Posted
  tries : Nat
  at_ : Nat
  deriving DecidableEq, Repr

/-- A read sent over the D2D link and not yet answered (R46, R724): who makes it, and its address. -/
structure D2dIn where
  bank : Nat
  tenant : Nat
  ifc : Nat
  prio : Nat
  en : Bool
  cap : Nat
  addr : Nat
  deriving DecidableEq, Repr

/-- What the clocks, resets, the D2D link and the supplies hold beside their registers (R712 to R747). Times are in µs. The
reads sent over the link and not yet answered stand oldest first (R46, R724). -/
structure ClkState where
  /-- A warm reset has been asked for: its bit of AON_RST_CAUSE, and when. -/
  warm : Option (Nat × Nat) := none
  /-- A warm reset's start, until the end of its boot (R672). -/
  warmAt : Option Nat := none
  /-- Each die is held in power-on reset by its supplies or clocks. -/
  logicOff : Bool := false
  pdOff : Bool := false
  /-- The warm-reset notice is on its way; when the last one arrived (R723). -/
  notice : Bool := false
  noticeAt : Option Nat := none
  /-- Bits of AON_RST_CAUSE that wait for the link (R723). -/
  causes : Nat := 0
  /-- The reference is lost; since when REF_OK has been 1. -/
  refLost : Bool := false
  refAt : Nat := 0
  /-- When the logic die declared the loss; the running training attempt's start; the last attempt's failure. -/
  lossAt : Option Nat := none
  train : Option Nat := none
  failAt : Option Nat := none
  /-- The power die has no link, since reset or a loss it declared; a loss that the logic die never declared set D2D (R57); the power die has been
  through power-on reset since the link was last up (R727). -/
  pdLost : Bool := true
  undeclared : Bool := false
  pdReset : Bool := true
  /-- The logic die has stopped sending after a fourth failed attempt (R724). -/
  silent : Bool := false
  out : List D2dOut := []
  reads : List D2dIn := []
  /-- The logic die has declared the loss of the link since it was last up (R57). -/
  declared : Bool := false
  /-- Attempts made with the oldest forwarded command (R724). -/
  fwdTries : Nat := 1
  /-- AON_SAFE_STAT before the earliest safe-state entry that has no record yet (R567). -/
  safeOld : Word := 0
  /-- Writes audited NOT_APPLIED at the last loss that the power die had applied: address, word before and data (R727). -/
  nacked : List (Nat × Word × Word) := []
  /-- The frame whose trims are counted, and the correction at its start in ppm (R714). -/
  trimFrame : Nat := 0
  trimBase : Int := 0
  /-- Interrupt sources of the power die that wait for the link. -/
  irqs : List Nat := []
  /-- VDD_AFE has recovered (R737); the last write-back of the RTC. -/
  afe : Bool := true
  wbAt : Nat := 0
  deriving DecidableEq, Repr

/-- The state of the block. -/
structure State where
  pending : List Instr := []
  /-- Every register word, the point window, the loop table and the memories of the register space (R13, R44). -/
  space : Tab Word := []
  /-- Microseconds since power-on reset. -/
  now : Nat := 0
  /-- Campus time is now + campusOff (R515). -/
  campusOff : Nat := 0
  /-- When boot milliseconds began (R7). -/
  bootAt : Nat := 0
  /-- The model's own: numbers the free values (log entry 3). -/
  free : Nat := 0
  /-- What the last access returned to its path: data, and result code of R83. -/
  rdata : Word := 0
  wres : Nat := 0
  banks : Tab Bank := []
  log : LogState := {}
  ten : Tab TenCtx := []
  /-- The command executor (R612): the tenant last served, and when it last started a command. -/
  exLast : Nat := 255
  exAt : Option Nat := none
  ic : IcState := {}
  /-- Per point, what its ECC holds against it (R68). -/
  broken : Tab PtHealth := []
  pub : Tab PubState := []
  /-- Per zone: NOTGOOD and FORCED of the last event decided (R93). -/
  zoneEv : Tab (Nat × Nat) := []
  safe : Tab SafeOut := []
  /-- The table of safe-state entries has been loaded (R29). -/
  safeLoaded : Bool := false
  /-- Cause bits of safe-state entries not yet recorded (R38), and whether source 194 waits for the link (R57). -/
  safeUnrec : Nat := 0
  safeIrq : Bool := false
  /-- RTC time is now + rtcOff while it counts, and the held value while it does not (R717, R735). -/
  rtcOff : Nat := 0
  rtcHeld : Option Nat := none
  /-- The latest command an output has received (R85), by 64 × class + channel. -/
  cmds : Tab (Option Word) := []
  cd : Tab CdChan := []
  cdg : CdGlobal := {}
  fwd : List Fwd := []
  sk : List SkCore := List.replicate 4 {}
  /-- Words of SK0's IMEM and DMEM (R191: not in the register space). -/
  sk0mem : Tab Word := []
  /-- SUB_IN by point index, SUB_OUT by device × 32,768 + point index (R502). -/
  subIn : Tab SubIn := []
  subOut : Tab SubOut := []
  cl : ClState := {}
  isl : IslState := {}
  adc : AdcState := {}
  fan : FanState := {}
  fio : FioState := {}
  zb : ZbState := {}
  pnl : PnlState := {}
  hb : HbState := {}
  boot : BootState := {}
  clk : ClkState := {}
  /-- Error records of the power die that wait for the link: tenant, block, code, fields. -/
  pdErrs : List (Nat × Nat × Nat × List Byte) := []
  /-- User calibration in force, by entry: point, UGAIN, UOFS (R703, R704). -/
  ucal : Tab (Nat × Word × Word) := []
  /-- The frame count (R152), 48 bits. -/
  frame : Nat := 0
  le : LeState := {}
  deriving DecidableEq, Repr

/-- The machine right after power-on reset: every register at its Reset value (R16), every output in its off state
awaiting release (R29), nothing queued. State the spec gives no reset value is empty or 0 (log entry 1). -/
def State.reset : State := {}

end Sys2Proof.Machine
end

