-- ==== Sys2Proof/Machine/Ops.lean ====
section
/-! DEFINITION. The named operations every meaning is built from: register fields, counters, time, CRCs, queue posts
(R606 to R608), interrupt pending bits (R631 to R634) and audit records (R566 to R574). -/

namespace Sys2Proof.Machine

/-- What a command answers. -/
abbrev Out := Host.Outcome State Fault Refusal

/-! ### Registers and fields -/

/-- The word an address of the register space holds. -/
def State.word (s : State) (a : Nat) : Word := Tab.get resetWord s.space a

/-- Write a word of the register space, keeping its canonical form. -/
def State.setWord (s : State) (a : Nat) (v : Word) : State := { s with space := Tab.set resetWord s.space a v }

/-- A field's value. -/
def State.get (s : State) (f : Fld) (i : Nat := 0) (j : Nat := 0) : Nat := bitsOf (s.word (f.reg.at i j)) f.lo f.w

/-- A one-bit field as a truth value. -/
def State.bit (s : State) (f : Fld) (i : Nat := 0) (j : Nat := 0) : Bool := s.get f i j == 1

/-- Set a field; the register's other bits stay. -/
def State.put (s : State) (f : Fld) (v : Nat) (i : Nat := 0) (j : Nat := 0) : State :=
  s.setWord (f.reg.at i j) (setBits (s.word (f.reg.at i j)) f.lo f.w v)

/-- Set a field when a condition holds. -/
def State.putIf (s : State) (c : Bool) (f : Fld) (v : Nat) (i : Nat := 0) (j : Nat := 0) : State :=
  if c then s.put f v i j else s

/-- Count in a field; a counter saturates at all ones (R17). -/
def State.inc (s : State) (f : Fld) (n : Nat := 1) (i : Nat := 0) (j : Nat := 0) : State :=
  s.put f (satAdd f.w (s.get f i j) n) i j

/-- The listed instances of a register array: pairs of first index and word. -/
def State.listed (s : State) (r : Reg) : List (Nat × Word) :=
  (s.space.filter (fun e => r.hit e.1)).map (fun e => (r.idx e.1, e.2))

/-- A field of a word already read. -/
def Fld.of (f : Fld) (x : Word) : Nat := bitsOf x f.lo f.w

/-- The device's own ID (R1). -/
def State.deviceId (s : State) : Nat := 32 * s.get F.SYS_STRAPS_ISLAND + s.get F.SYS_STRAPS_MEMBER

/-- The CPID of a point of this device (R1). -/
def State.cpid (s : State) (i : Nat) : Nat := 32768 * s.deviceId + i % 32768

/-- Campus time in µs (R7). -/
def State.campus (s : State) : Nat := (s.now + s.campusOff) % 2 ^ 64

/-- Boot milliseconds (R7, R8). -/
def State.bootMs (s : State) : Nat := (s.now - s.bootAt) / 1000 % 2 ^ 32

/-- Campus time gains what the rate correction of R518 gives in dt µs. -/
def State.slewBy (s : State) (dt : Nat) : State :=
  if s.cl.slew = 0 then s
  else
    let acc := s.cl.slewAcc + s.cl.slew * dt
    { s with campusOff := (((s.campusOff : Int) + acc / 250000) % 2 ^ 64).toNat, cl := { s.cl with slewAcc := acc % 250000 } }

/-- Time has reached t at least: the expiry of a timer due at t (log entry 4). -/
def State.reach (s : State) (t : Nat) : State := if t ≤ s.now then s else { (s.slewBy (t - s.now)) with now := t }

/-- The time of the always-on RTC in µs: floor(N × 15,625 / 512) of N periods (R38, R736). -/
def State.rtc (s : State) : Nat :=
  match s.rtcHeld with | some t => t | none => (s.now + s.rtcOff) % 2 ^ 64 * 512 / 15625 * 15625 / 512

/-- The D2D link is up (R50). -/
def State.linkUp (s : State) : Bool := s.bit F.SYS_D2D_STAT_LINK_UP

/-- What the logic die sends reaches the power die: the link is up, the logic die has not fallen silent (R724), and the power die
is out of reset (R716). -/
def State.pdReach (s : State) : Bool := s.linkUp && !s.clk.silent && !s.clk.pdOff

/-- An act of the power die: none while it is held in power-on reset (R716, R730). -/
def State.pdDo (s : State) (f : State → State) : State := if s.clk.pdOff then s else f s

/-- The bank of a path's own registers. -/
def State.bank (s : State) (b : Nat) : Bank := Tab.get (fun _ => {}) s.banks b

def State.setBank (s : State) (b : Nat) (x : Bank) : State := { s with banks := Tab.set (fun _ => {}) s.banks b x }

/-- A free value (log entry 3): the counter moves on, so no two are tied. -/
def State.fresh (s : State) : State := { s with free := s.free + 1 }

/-- Apply a step for each of a list's elements, in order. -/
def State.each {α : Type} (s : State) (l : List α) (f : α → State → State) : State := l.foldl (fun s x => f x s) s

/-! ### Checks -/

/-- One step of the Ethernet CRC-32, least significant bit first. -/
def crc32Bit (c : Nat) : Nat := if c % 2 = 1 then (c / 2) ^^^ 0xEDB88320 else c / 2

def crc32Byte (c : Nat) (b : Byte) : Nat :=
  let x := c ^^^ b.toNat
  crc32Bit (crc32Bit (crc32Bit (crc32Bit (crc32Bit (crc32Bit (crc32Bit (crc32Bit x)))))))

/-- CRC-32 of R566: the polynomial and bit order of the Ethernet FCS. -/
def crc32 (l : List Byte) : Nat := l.foldl crc32Byte 0xFFFFFFFF ^^^ 0xFFFFFFFF

/-- The 44 bytes of a record that CHECK covers (R566). -/
def AuditRec.body (r : AuditRec) : List Byte :=
  leBytes 8 r.seq ++ leBytes 8 r.time ++ leBytes 2 (r.recDev % 1024 + 32768 * b2n r.tsync) ++ leBytes 2 (r.orgDev % 1024)
    ++ leBytes 1 r.tenant ++ leBytes 1 (r.ifc % 16 + 16 * (r.kind % 16)) ++ leBytes 1 (r.result % 16 + 16 * b2n r.late)
    ++ leBytes 1 r.ttype ++ leBytes 4 r.target ++ leBytes 4 r.addr ++ leBytes 4 r.old.toNat ++ leBytes 4 r.new.toNat
    ++ leBytes 4 r.aux

/-- The 48 bytes of a record (R566). -/
def AuditRec.bytes (r : AuditRec) : List Byte := r.body ++ leBytes 4 (crc32 r.body)

/-! ### Interface codes and result codes -/

/-- Result codes of R83 and R569. -/
abbrev Res := Nat
def Res.applied : Res := 0x0
def Res.relinquished : Res := 0x1
def Res.refPriority : Res := 0x2
def Res.refRights : Res := 0x3
def Res.refRange : Res := 0x4
def Res.refSource : Res := 0x5
def Res.refValue : Res := 0x6
def Res.refConfig : Res := 0x7
def Res.logFull : Res := 0xB
def Res.notApplied : Res := 0xC
def Res.discardedGen : Res := 0xD

/-- Who makes an access: the bank of its path, its tenant, its interface code (R568) and its default priority (R81). -/
structure Who where
  bank : Nat
  tenant : Nat
  ifc : Nat
  prio : Nat
  /-- A lane with EN 0 carries no tenant (R666). -/
  en : Bool := true
  /-- Where its capture is held (R64): a lane's accesses are those of its mailbox, on the bus and on SPI (R662); 15 for what is
  no path. -/
  cap : Nat := 15
  deriving DecidableEq, Repr

/-- The device itself (R568). -/
def Who.internal : Who := ⟨15, 0, 10, 12, true, 15⟩

/-- The boot image. -/
def Who.boot : Who := ⟨15, 0, 0, 12, true, 15⟩

/-- Who a path is at this moment (R81, R568, R663, R666). SK0 firmware writes with tenant 0 at priority 12. -/
def State.who (s : State) : Path → Who
  | .lane n => ⟨n.val, s.get F.HB_LANE_CFG_TENANT n.val, n.val + 1, s.get F.HB_LANE_CFG_PRIO n.val, s.bit F.HB_LANE_CFG_EN n.val, n.val⟩
  | .spi n => ⟨4, s.get F.HB_LANE_CFG_TENANT n.val, 5, s.get F.HB_LANE_CFG_PRIO n.val, s.bit F.HB_LANE_CFG_EN n.val, n.val⟩
  | .sk0 => ⟨5, 0, 10, 12, true, 5⟩

/-- Any access of a path drops its capture (R64). -/
def State.dropCap (s : State) (b : Nat) : State := s.setBank b { s.bank b with capture := none }

/-- A write of a lane whose EN is 0 is refused, counted and not audited, since it carries no tenant (R666). -/
def State.laneRefused (s : State) : State := { s.inc F.HB_CNT2_REFUSED with wres := Res.refRights }

/-- An access by a path: it drops the path's capture (R64) and acts as the path's accessor. -/
def State.asWho (s : State) (w : Who) (f : Who → State → State) : State :=
  if w.en then f w (s.dropCap w.cap) else s.laneRefused

/-- A posted write is no access of its lane's mailbox: the lane's capture stays (R64, R663). -/
def State.asPosted (s : State) (w : Who) (f : Who → State → State) : State := if w.en then f w s else s.laneRefused

/-- The host side is held in reset until the end of boot (R654). -/
def State.hostHeld (s : State) (p : Path) : Bool :=
  match p with
  | .sk0 => false
  | _ => !s.bit F.HB_HSTAT_READY

/-- What a path does: nothing while the host side is held in reset; reads return 0 then. -/
def State.byPath (s : State) (p : Path) (f : Who → State → State) : State :=
  if s.hostHeld p then { s with rdata := 0 } else s.asWho (s.who p) f

/-! ### Tenant contexts and queues -/

def State.tctx (s : State) (t : Nat) : TenCtx := Tab.get (fun _ => {}) s.ten t

def State.setTctx (s : State) (t : Nat) (c : TenCtx) : State := { s with ten := Tab.set (fun _ => {}) s.ten t c }

/-- The state of a context (R602): 0 RETIRED, 1 ACTIVE, 2 HOLD. Tenant 0 is always ACTIVE. -/
def State.tstate (s : State) (t : Nat) : Nat := if t = 0 then 1 else s.get F.TEN_CTX_STAT_STATE t

/-- A tenant's generation (R615). -/
def State.gen (s : State) (t : Nat) : Nat := s.get F.TEN_CTX_STAT_GEN t

/-- The executor passes over the queue of a throttled tenant: each command so delayed counts once (R620). -/
def State.exDelay (s : State) (t : Nat) : State :=
  let c := s.tctx t
  let n := (c.cq.filter (fun e => !e.delayed)).length
  if t = 0 || s.tstate t != 1 || !s.bit F.TEN_CTX_STAT_THROTTLED t || n = 0 then s
  else (s.setTctx t { c with cq := c.cq.map (fun e => { e with delayed := true }) }).inc F.TEN_CNT_THROTTLED n t

/-- The three queues of a context. -/
inductive QKind where
  | cmd | evt | err
  deriving DecidableEq, Repr

def TenCtx.count (c : TenCtx) : QKind → Nat
  | .cmd => c.cq.length
  | .evt => c.ev.length
  | .err => c.er.length

/-- MIN of a queue (R606). -/
def State.qMin (s : State) (q : QKind) (t : Nat) : Nat :=
  match q with
  | .cmd => s.get F.TEN_Q_CMD_CFG_MIN t
  | .evt => s.get F.TEN_Q_EVT_CFG_MIN t
  | .err => s.get F.TEN_Q_ERR_CFG_MIN t

/-- MAX of a queue (R606). -/
def State.qMax (s : State) (q : QKind) (t : Nat) : Nat :=
  match q with
  | .cmd => s.get F.TEN_Q_CMD_CFG_MAX t
  | .evt => s.get F.TEN_Q_EVT_CFG_MAX t
  | .err => s.get F.TEN_Q_ERR_CFG_MAX t

/-- The reserve: the sum of MIN over all queues (R606). -/
def State.qReserve (s : State) : Nat :=
  ([(R.TEN_Q_CMD_CFG, F.TEN_Q_CMD_CFG_MIN), (R.TEN_Q_EVT_CFG, F.TEN_Q_EVT_CFG_MIN), (R.TEN_Q_ERR_CFG, F.TEN_Q_ERR_CFG_MIN)].map
    (fun p => ((s.listed p.1).map (fun e => p.2.of e.2)).sum)).sum

/-- Shared entries in use: what each queue holds beyond its MIN (R606). -/
def State.qShared (s : State) : Nat :=
  (s.ten.map (fun e => ([QKind.cmd, .evt, .err].map (fun q => e.2.count q - s.qMin q e.1)).sum)).sum

/-- A post to the queue finds room (R606). -/
def State.qRoom (s : State) (q : QKind) (t : Nat) : Bool :=
  let n := (s.tctx t).count q
  n < s.qMax q t && (n < s.qMin q t || s.qShared + s.qReserve < 32768)

/-- Place an entry at the tail of an event or error queue; QSEQ counts from 0 (R607, log entry 5). -/
def State.qPlace (s : State) (q : QKind) (t cls block code : Nat) (fields : List Byte) : State :=
  let c := s.tctx t
  match q with
  | .evt => s.setTctx t { c with ev := c.ev ++ [⟨cls, block, c.evSeq, s.bootMs, code, fields⟩], evSeq := (c.evSeq + 1) % 65536 }
  | _ => s.setTctx t { c with er := c.er ++ [⟨cls, block, c.erSeq, s.bootMs, code, fields⟩], erSeq := (c.erSeq + 1) % 65536 }

/-- Drop an entry: counted in TEN_Q_DROP, OVF set, and kept for the next OVERFLOW entry (R608). -/
def State.qDrop (s : State) (q : QKind) (t : Nat) : State :=
  let c := s.tctx t
  match q with
  | .evt => ((s.setTctx t { c with evDrop := c.evDrop + 1 }).inc F.TEN_Q_DROP_EVT 1 t).put F.TEN_Q_EVT_STAT_OVF 1 t
  | _ => ((s.setTctx t { c with erDrop := c.erDrop + 1 }).inc F.TEN_Q_DROP_ERR 1 t).put F.TEN_Q_ERR_STAT_OVF 1 t

/-- A post to a tenant's event or error queue under the overflow rule (R606 to R608, R612). -/
def State.post (s : State) (q : QKind) (t cls block code : Nat) (fields : List Byte) : State :=
  if s.tstate t = 0 then s.inc F.TEN_GCNT_RETIRED_DROP
  else if !s.qRoom q t then s.qDrop q t
  else
    let c := s.tctx t
    let d := match q with | .evt => c.evDrop | _ => c.erDrop
    if d = 0 then s.qPlace q t cls block code fields
    else
      let s := match q with | .evt => s.setTctx t { c with evDrop := 0 } | _ => s.setTctx t { c with erDrop := 0 }
      let s := s.qPlace q t 2 0x0C (if q = .evt then 0 else 1) (leBytes 4 d)
      if s.qRoom q t then s.qPlace q t cls block code fields else s.qDrop q t

/-- An ERROR entry to a tenant's error queue (R607). -/
def State.postErr (s : State) (t block code : Nat) (fields : List Byte) : State := s.post .err t 1 block code fields

/-- An EVENT entry to a tenant's event queue (R607). -/
def State.postEvt (s : State) (t block code : Nat) (fields : List Byte) : State := s.post .evt t 0 block code fields

/-- The same error entry to a tenant and to tenant 0 (R607); one entry when they are the same. -/
def State.postErr2 (s : State) (t block code : Nat) (fields : List Byte) : State :=
  let s := s.postErr 0 block code fields
  if t = 0 then s else s.postErr t block code fields

def State.postEvt2 (s : State) (t block code : Nat) (fields : List Byte) : State :=
  let s := s.postEvt 0 block code fields
  if t = 0 then s else s.postEvt t block code fields

/-! ### Interrupt sources -/

/-- The kind of a source (R631). -/
inductive SrcKind where
  | line | event | soft
  deriving DecidableEq, Repr

def srcKind (n : Nat) : SrcKind :=
  if 200 ≤ n then .soft
  else if (104 ≤ n && n ≤ 111) || (124 ≤ n && n ≤ 126) || 192 ≤ n then .event else .line

/-- One bit of a source array set or cleared. -/
def bvSet (b : BitVec 256) (i : Nat) (v : Bool) : BitVec 256 :=
  if v then b ||| (1#256 <<< i) else b &&& ~~~(1#256 <<< i)

/-- PEND of a source (R633, R634). -/
def IcState.pendOf (c : IcState) (n : Nat) : Bool :=
  match srcKind n with
  | .line => (c.line.getLsbD n && !c.active.getLsbD n) || c.swp.getLsbD n
  | _ => c.pend.getLsbD n

/-- The tenants whose list names the source (R613). -/
def State.irqTenants (s : State) (n : Nat) : List Nat :=
  (((s.listed R.TEN_IRQ_SRC).filter (fun e => F.TEN_IRQ_SRC_EN.of e.2 == 1 && F.TEN_IRQ_SRC_SOURCE.of e.2 == n)).map (·.1)).dedup

/-- A listed source has become pending: an IRQ entry to each tenant that lists it (R613). The spec gives the CODE of an
IRQ entry no value: it is free (log entry 3). -/
def State.irqPost (s : State) (n : Nat) : State :=
  s.each (s.irqTenants n) (fun t s => s.fresh.post .evt t 4 0x00 (Config.freeNat s.free % 65536) (leBytes 1 n))

/-- Change the controller's bits, posting under R613 when source n becomes pending by it. -/
def State.icUpd (s : State) (n : Nat) (f : IcState → IcState) : State :=
  let s' := { s with ic := f s.ic }
  if s'.ic.pendOf n && !s.ic.pendOf n then s'.irqPost n else s'

/-- A pulse of an EVENT source (R634): sets PEND, or merges into it. -/
def State.icPulse (s : State) (n : Nat) : State :=
  if s.ic.pendOf n then s.inc F.IC_CNT_MERGED
  else s.icUpd n (fun c => { c with pend := bvSet c.pend n true })

/-- A write of 1 to the source's set address (R633, R634). -/
def State.icSet (s : State) (n : Nat) : State :=
  match srcKind n with
  | .line => s.icUpd n (fun c => { c with swp := bvSet c.swp n true })
  | _ => s.icUpd n (fun c => { c with pend := bvSet c.pend n true })

/-- A write of 1 to the source's clear address (R633, R634). -/
def State.icClr (s : State) (n : Nat) : State :=
  match srcKind n with
  | .line => s.icUpd n (fun c => { c with swp := bvSet c.swp n false })
  | _ => s.icUpd n (fun c => { c with pend := bvSet c.pend n false })

/-- A source is completed: ACTIVE is cleared (R642). -/
def State.icRelease (s : State) (n : Nat) : State :=
  s.icUpd n (fun c => { c with active := bvSet c.active n false, owner := Tab.del n c.owner })

/-! ### Audit records -/

/-- What a record says of a write (R566). -/
structure Tgt where
  ttype : Nat
  target : Nat := 0
  addr : Nat := 0
  old : Word := 0
  new : Word := 0
  prio : Nat := 0
  /-- ORIGIN, tag and originating device of a remote write (R508). -/
  origin : Nat := 0
  tag : Nat := 0
  orgDev : Option Nat := none
  late : Bool := false
  /-- The generation the record carries in AUX[15:8]; the writer's present one when none. -/
  gen : Option Nat := none
  /-- A write that R572 always applies. -/
  always : Bool := false

/-- A register target (R566). -/
def Tgt.reg (addr : Nat) (old new : Word) : Tgt := { ttype := 2, addr := addr, old := old, new := new }

/-- The record of a write (R566); SEQ is given on entering the ring. -/
def State.recOf (s : State) (w : Who) (t : Tgt) (kind res : Nat) : AuditRec :=
  { time := s.campus, recDev := s.deviceId, tsync := s.bit F.CL_TIME_STAT_SYNC, orgDev := t.orgDev.getD s.deviceId,
    tenant := w.tenant, ifc := w.ifc, kind := kind, result := res, late := t.late, ttype := t.ttype, target := t.target,
    addr := t.addr, old := t.old, new := t.new,
    aux := t.prio % 16 + 16 * (t.origin % 16) + 256 * (t.gen.getD (s.gen w.tenant) % 256) + 65536 * (t.tag % 4096) }

/-- Places of the ring (R571) and of its reserve (R572). -/
def ringSize : Nat := 5461
def ringReserve : Nat := 512

/-- LOG use of a tenant counts (R619), and reaching the limit throttles it (R620). Tenant 0 is exempt (R602). -/
def State.logUse (s : State) (t : Nat) : State :=
  if t = 0 then s
  else
    let s := s.inc F.TEN_QLOG_USED_USED 1 t
    (s.putIf (s.get F.TEN_QLOG_LIMIT t ≤ s.get F.TEN_QLOG_USED_USED t) F.TEN_CTX_STAT_THROTTLED 1 t).exDelay t

/-- The always-on copy of the last SEQ issued follows while the link is up (R582). -/
def State.aonSeq (s : State) : State :=
  if s.linkUp then
    (s.setWord (R.AON_LOG_SEQ_LO.at) (Word.ofN (s.log.nextSeq - 1))).setWord (R.AON_LOG_SEQ_HI.at) (Word.ofN ((s.log.nextSeq - 1) / 2 ^ 32))
  else s

/-- Records of the ring that no due block holds yet (R578). -/
def State.ringWaiting (s : State) : Nat :=
  s.log.ring.length - (s.log.due.map (·.n)).sum - (match s.log.inFlight with | some b => b.n | none => 0)

/-- Samples of the intake that no due block waits for (R588). -/
def State.trendWaiting (s : State) : Nat := s.log.trend.length - (s.log.due.map (·.m)).sum

/-- TREND blocks among the first n take their samples out of the intake. -/
def fillBlks : Nat → List LogBlk → List TrendSample → List LogBlk × List TrendSample
  | 0, l, t => (l, t)
  | _ + 1, [], t => ([], t)
  | n + 1, b :: l, t =>
    let r := fillBlks n l (t.drop b.m)
    ({ b with samples := b.samples ++ t.take b.m, m := 0 } :: r.1, r.2)

/-- Blocks fall due, behind those already due: the first four stand in the FIFO of R720, and the engine waits with what the others
hold, records in the ring and samples in the intake. -/
def State.logDue (s : State) (l : List LogBlk) : State :=
  let r := fillBlks 4 (s.log.due ++ l) s.log.trend
  { s with log := { s.log with due := r.1, trend := r.2, trendAt := s.log.trendAt.drop (s.log.trend.length - r.2.length) } }

/-- Every block that falls due now: 10 records wait (R578), or 31 samples (R588). -/
def State.logCut (s : State) : State :=
  if s.get F.LOG_STAT_STORE != 1 then s
  else s.logDue (List.replicate (s.ringWaiting / 10) { region := 1, n := 10 } ++ List.replicate (s.trendWaiting / 31) { region := 3, m := 31 })

/-- A record enters the ring and takes the next SEQ (R570). One made before the BOOT record of this boot waits for it (R567). -/
def State.ringEnter (s : State) (r : AuditRec) : State :=
  if s.log.nextSeq = 0 then { s with log := { s.log with early := s.log.early ++ [r] } }
  else
    let s := { s with log := { s.log with
      ring := s.log.ring ++ [{ r with seq := s.log.nextSeq }], ringAt := s.log.ringAt ++ [s.now], nextSeq := s.log.nextSeq + 1 } }
    (s.aonSeq.logCut).logUse r.tenant

/-- A record needs a place in the reserve: FULL is set at the first that does (R572). -/
def State.ringReach (s : State) : State :=
  if ringSize - ringReserve ≤ s.log.ring.length && !s.bit F.LOG_STAT_FULL then
    let s := (s.put F.LOG_STAT_FULL 1).put F.LOG_EVT_FULL 1
    { s with log := { s.log with refCount := 0, fullSince := s.now } }
  else s

/-- A record is lost: no SEQ, counted (R573). -/
def State.ringLose (s : State) : State :=
  let s := (s.inc F.LOG_CNT_LOST).put F.LOG_EVT_LOST 1
  { s with log := { s.log with lostSince := if s.log.lostCount = 0 then s.now else s.log.lostSince, lostCount := s.log.lostCount + 1 } }

/-- A write is refused with LOG_FULL: counted, and an error record to the writer's tenant at most once per second (R572). -/
def State.ringRefuse (s : State) (t : Nat) : State :=
  let s := s.inc F.LOG_CNT_REFUSED
  let s := { s with log := { s.log with refCount := s.log.refCount + 1 } }
  let c := s.tctx t
  let due := match c.logErrAt with | none => true | some at_ => at_ + 1000000 ≤ s.now
  if due then (s.setTctx t { c with logErrAt := some s.now }).postErr t 0x07 Res.logFull [] else s

/-- How the ring takes the record of a write (R572, R573). -/
inductive Admit where
  | enter | lose | refuse
  deriving DecidableEq, Repr

/-- Writes by tenant 0 and records of interface codes 0 and 10 may use the reserve; a ring completely full refuses a write
by tenant 0, unless R572 always applies it, and loses every other record (R572, R573). -/
def State.ringTake (s : State) (w : Who) (always isWrite : Bool) : Admit :=
  let n := s.log.ring.length
  if n < ringSize - ringReserve then .enter
  else if n < ringSize then (if always || w.tenant = 0 || w.ifc = 10 || w.ifc = 0 then .enter else .refuse)
  else if always then .lose
  else if isWrite then .refuse
  else .lose

/-- An audited write (R18, R572): its record enters the ring, then its effect happens; a write whose record cannot enter is
refused with LOG_FULL and has no effect. A boot load leaves no record (R690). The result is left for the path. -/
def State.auditW (s : State) (w : Who) (t : Tgt) (res : Res) (eff : State → State) : State :=
  if w.ifc = 0 then { eff s with wres := res }
  else match s.ringTake w t.always true with
  | .enter => { eff ((s.ringReach).ringEnter (s.recOf w t 0 res)) with wres := res }
  | .lose => { eff ((s.ringReach).ringLose) with wres := res }
  | .refuse => { (s.ringReach).ringRefuse w.tenant with wres := Res.logFull }

/-- A record the device makes itself (KIND EVENT and the others of R567): it enters, or is lost. -/
def State.auditRec (s : State) (r : AuditRec) : State :=
  match s.ringTake Who.internal false false with
  | .enter => (s.ringReach).ringEnter r
  | _ => (s.ringReach).ringLose

/-- An EVENT record naming a register's words before and after (R567). -/
def State.auditEvent (s : State) (addr : Nat) (old new : Word) : State :=
  s.auditRec (s.recOf Who.internal (Tgt.reg addr old new) 1 Res.applied)

/-- A write that is not audited leaves its result only. -/
def State.plainW (s : State) (res : Res) (eff : State → State) : State := { eff s with wres := res }

end Sys2Proof.Machine
end

