-- ==== Sys2Proof/Machine/PointOps.lean ====
section
/-! DEFINITION. The point database: rights (R604, R605), the write decision (R79), and what follows an accepted write
(task activation R218, trend samples R588, forwarding to actuators R244, R377, R423, pending releases R36). -/

namespace Sys2Proof.Machine

/-- Quality codes (R65). -/
def Qual.notValid : Nat := 0
def Qual.good : Nat := 1
def Qual.stale : Nat := 2
def Qual.forced : Nat := 3
def Qual.fault : Nat := 4

/-- Binding kinds (R72). -/
def Kind.unused : Nat := 0
def Kind.none_ : Nat := 1
def Kind.acc : Nat := 2
def Kind.contact : Nat := 3
def Kind.zbField : Nat := 4
def Kind.loop : Nat := 5
def Kind.remote : Nat := 6
def Kind.skehil : Nat := 7
def Kind.status : Nat := 8

def State.ptVal (s : State) (i : Nat) : Word := s.word (R.PT_VALUE.at i)
def State.ptStat (s : State) (i : Nat) : Word := s.word (R.PT_STATUS.at i)
def State.ptQual (s : State) (i : Nat) : Nat := s.get F.PT_STATUS_QUAL i
def State.ptKind (s : State) (i : Nat) : Nat := s.get F.PT_BIND_KIND i
def State.ptTenant (s : State) (i : Nat) : Nat := s.get F.PT_CONFIG_TENANT i

/-- HP of a point, 1 to 16 (R58: stored as priority − 1). -/
def State.ptHP (s : State) (i : Nat) : Nat := s.get F.PT_STATUS_HP i + 1

/-- What a point's ECC holds against its record. It is broken until tenant 0 has rewritten CONFIG and BIND (R68). -/
def State.ptHealth (s : State) (i : Nat) : PtHealth := Tab.get (fun _ => {}) s.broken i

def State.setHealth (s : State) (i : Nat) (h : PtHealth) : State := { s with broken := Tab.set (fun _ => {}) s.broken i h }

def State.ptBroken (s : State) (i : Nat) : Bool := (s.ptHealth i).config || (s.ptHealth i).bind

/-- Set VALUE and STATUS together (R64). -/
def State.ptSet (s : State) (i : Nat) (v : Word) (qual hp holder age srcF : Nat) : State :=
  (s.setWord (R.PT_VALUE.at i) v).setWord (R.PT_STATUS.at i)
    (Word.ofN (qual % 8 + 8 * (srcF % 2) + 16 * ((hp - 1) % 16) + 256 * (holder % 256) + 65536 * (age % 65536)))

/-! ### Rights -/

/-- Does window w of the tenant hold the point? -/
def State.inWindow (s : State) (t w i : Nat) : Bool :=
  s.get F.TEN_WIN_A_FIRST t w ≤ i && i ≤ s.get F.TEN_WIN_B_LAST t w

/-- read_right(t, pt) of R605. -/
def State.readRight (s : State) (t i : Nat) : Bool :=
  t = 0 || (s.tstate t != 0 && (List.range 8).any (fun w => 1 ≤ s.get F.TEN_WIN_A_RIGHTS t w && s.inWindow t w i))

/-- has_right(t, pt, p) of R605. -/
def State.hasRight (s : State) (t i p : Nat) : Bool :=
  t = 0 || (s.tstate t = 1 && s.ptTenant i = t && (List.range 8).any (fun w =>
    s.inWindow t w i &&
      ((5 ≤ p && 2 ≤ s.get F.TEN_WIN_A_RIGHTS t w && Nat.max (s.get F.TEN_WIN_A_MAXPRIO t w) 5 ≤ p) ||
       (p ≤ 4 && s.get F.TEN_WIN_A_RIGHTS t w = 3 && s.get F.TEN_WIN_A_MAXPRIO t w ≤ p))))

/-! ### What follows an accepted write -/

def State.core (s : State) (k : Nat) : SkCore := s.sk.getD k {}

def State.setCore (s : State) (k : Nat) (c : SkCore) : State := { s with sk := putAt {} s.sk k c }

def bv64Set (b : BitVec 64) (i : Nat) (v : Bool) : BitVec 64 := if v then b ||| (1#64 <<< i) else b &&& ~~~(1#64 <<< i)

/-- Activate task t of core k (R218): set its ready bit, or coalesce: the argument of the first activation stays (log entry 114). No
task of a tenant in HOLD or RETIRED is activated (R602, R223). -/
def State.skActivate (s : State) (k t arg : Nat) : State :=
  if s.tstate (s.get F.SK_TASK_CTL_TENANT k t) != 1 then s
  else
    let c := s.core k
    if c.ready.getLsbD t then s.inc F.SK_CNT2_COALESCED 1 k
    else s.setCore k { c with ready := bv64Set c.ready t true, args := Tab.set (fun _ => 0) c.args t arg }

/-- The enabled tasks of SK1 to SK3 with a trigger code and argument mask: (core, task). -/
def State.skTasks (s : State) (trig : Nat) (p : Nat → Nat → Bool) : List (Nat × Nat) :=
  ((s.space.filter (fun e => R.SK_TASK_CTL.hit e.1 && F.SK_TASK_CTL_EN.of e.2 == 1 && F.SK_TASK_CTL_TRIG.of e.2 == trig)).map
    (fun e => (R.SK_TASK_CTL.idx e.1, R.SK_TASK_CTL.idx2 e.1))).filter (fun e => e.1 != 0 && p e.1 e.2)

/-- The POINT tasks that name the point are activated, where their tenant may read it (R218). -/
def State.skPoint (s : State) (i : Nat) : State :=
  s.each (s.skTasks 2 (fun k t => s.get F.SK_TASK_TRIG_ARG k t % 32768 == i)) (fun kt s =>
    if s.readRight (s.get F.SK_TASK_CTL_TENANT kt.1 kt.2) i then s.skActivate kt.1 kt.2 i
    else s.inc F.SK_CNT2_DENIED 1 kt.1)

/-- A dropped sample counts, and sets LOG_EVT.TREND once per device tick (R589). -/
def State.trendDrop (s : State) : State :=
  let s := s.inc F.LOG_TRD_CNT_DROP
  if s.log.trendDropped then s
  else { s.put F.LOG_EVT_TREND 1 with log := { s.log with trendDropped := true } }

/-- The store is READY (R594). -/
def State.storeReady (s : State) : Bool := s.get F.LOG_STAT_STORE == 1

/-- One trend sample of a point (R588): dropped when the intake is full, the store is not READY (R589) or the point's
tenant is throttled (R620). It counts in the tenant's LOG use (R619). -/
def State.trendSample (s : State) (i : Nat) : State :=
  let t := s.ptTenant i
  if !s.storeReady || 64 ≤ s.log.trend.length || (t != 0 && s.bit F.TEN_CTX_STAT_THROTTLED t) then s.trendDrop
  else
    let x : TrendSample := ⟨s.campus, i, s.ptQual i, s.ptVal i⟩
    (({ s with log := { s.log with trend := s.log.trend ++ [x], trendAt := s.log.trendAt ++ [s.now] } }).logCut).logUse t

/-- How many enabled channels of the mode name the point. -/
def State.trendChannels (s : State) (mode i : Nat) : Nat :=
  ((s.listed R.LOG_TRD_CFG).filter (fun e => F.LOG_TRD_CFG_EN.of e.2 == 1 && F.LOG_TRD_CFG_MODE.of e.2 == mode && F.LOG_TRD_CFG_POINT.of e.2 == i)).length

/-- A sample for each EVERY channel of the point (R588). -/
def State.trendPoint (s : State) (i : Nat) : State := s.each (List.range (s.trendChannels 0 i)) (fun _ s => s.trendSample i)

/-- Output classes, numbered as the bits of AON_SAFE_REL (R55): coils, fans, analog outputs, relays, segment supplies. -/
def Cls.coil : Nat := 0
def Cls.fan : Nat := 1
def Cls.ao : Nat := 2
def Cls.relay : Nat := 3
def Cls.zbPwr : Nat := 4
/-- A change of QUAL forwarded to a fan channel (R377). -/
def Cls.fanQual : Nat := 5

/-- The command point of an output (R85). -/
def State.cmdPoint (s : State) (cls chan : Nat) : Nat :=
  if cls = Cls.coil then s.get F.CD_CMD_POINT chan
  else if cls = Cls.fan then s.get F.FAN_CMD_POINT chan
  else if cls = Cls.ao then s.get F.AO_CMD_POINT chan
  else s.get F.DO_CMD_POINT chan

/-- The outputs that take commands, with their class. -/
def cmdOutputs : List (Nat × Nat) :=
  (List.range 32).map (fun n => (Cls.coil, n)) ++ (List.range 32).map (fun n => (Cls.fan, n))
    ++ (List.range 16).map (fun n => (Cls.ao, n)) ++ (List.range 32).map (fun n => (Cls.relay, n))

/-- The outputs that take their commands from point i; the odd channel of a pair takes none (R240). -/
def State.outputsOf (s : State) (i : Nat) : List (Nat × Nat) :=
  cmdOutputs.filter (fun o => s.cmdPoint o.1 o.2 == i && !(o.1 == Cls.coil && o.2 % 2 == 1 && s.bit F.CD_CFG_PAIR (o.2 - 1)))

def State.safeOf (s : State) (cls chan : Nat) : SafeOut := Tab.get (fun _ => {}) s.safe (64 * cls + chan)

def State.setSafe (s : State) (cls chan : Nat) (o : SafeOut) : State :=
  { s with safe := Tab.set (fun _ => {}) s.safe (64 * cls + chan) o }

/-- The latest command of an output. -/
def State.cmdOf (s : State) (cls chan : Nat) : Option Word := Tab.get (fun _ => none) s.cmds (64 * cls + chan)

def State.setCmd (s : State) (cls chan : Nat) (v : Word) : State :=
  { s with cmds := Tab.set (fun _ => none) s.cmds (64 * cls + chan) (some v) }

def State.cdOf (s : State) (n : Nat) : CdChan := Tab.get (fun _ => {}) s.cd n
def State.setCd (s : State) (n : Nat) (c : CdChan) : State := { s with cd := Tab.set (fun _ => {}) s.cd n c }

/-- Release an output from safe state: it takes its command point's value (R35, R36); a coil channel takes it up at its
next boundary (R256). -/
def State.release (s : State) (cls chan : Nat) : State :=
  let v := s.ptVal (s.cmdPoint cls chan)
  let s := s.setSafe cls chan { s.safeOf cls chan with inSafe := false, off := false, relPend := false, acting := none }
  let s := s.setCmd cls chan v
  if cls = Cls.coil then s.setCd chan { s.cdOf chan with cmdv := v, take := true } else s

def qualLive (q : Nat) : Bool := q == Qual.good || q == Qual.forced

/-- The output's command point is bound to a loop output (R140). -/
def State.loopBound (s : State) (cls chan : Nat) : Bool := cls != Cls.zbPwr && s.ptKind (s.cmdPoint cls chan) == Kind.loop

/-- The cause of a release is still present (R35): the thermal guard, the D2D link lost to either die, the output's own entry, an
engine fault. -/
def State.safePresent (s : State) (cls chan : Nat) : Bool :=
  s.bit F.FAN_GUARD_TRIP || !s.linkUp || s.clk.pdLost || (s.safeOf cls chan).failed
    || (s.bit F.LE_LS_STAT_FAULT && s.loopBound cls chan)

/-- A pending release takes effect when the command point becomes GOOD or FORCED (R36); while a cause of R35 is present it has
no effect, and stays pending (log entry 115). -/
def State.pendingRelease (s : State) (i : Nat) : State :=
  if qualLive (s.ptQual i) then
    s.each ((s.outputsOf i).filter (fun o => (s.safeOf o.1 o.2).relPend && !s.safePresent o.1 o.2)) (fun o s => s.release o.1 o.2)
  else s

/-- Forward a write to the actuators that the point commands, while the D2D link is up (R28, R244, R377, R423): an accepted
write of any kind of R79 that leaves the point GOOD or FORCED, a relinquish too. While the
point's tenant is in HOLD nothing is forwarded but an override-band write by tenant 0 (R617). -/
def State.forward (s : State) (i : Nat) (isCmd byForce qualChanged : Bool) : State :=
  if !s.pdReach then s
  else
    let q := s.ptQual i
    let held := s.tstate (s.ptTenant i) == 2 && !byForce
    let os := s.outputsOf i
    let cmds := if isCmd && qualLive q && !held then os.map (fun o => (⟨o.1, o.2, s.ptVal i, q⟩ : Fwd)) else []
    let quals := if qualChanged then (os.filter (fun o => o.1 == Cls.fan)).map (fun o => (⟨Cls.fanQual, o.2, s.ptVal i, q⟩ : Fwd)) else []
    { s with fwd := s.fwd ++ quals ++ cmds }

/-- The outputs whose points are GOOD or FORCED are sent their points' present VALUE. -/
def State.sendPresent (s : State) (os : List (Nat × Nat)) : State :=
  let os := os.filter (fun o => qualLive (s.ptQual (s.cmdPoint o.1 o.2)))
  { s with fwd := s.fwd ++ os.map (fun o => (⟨o.1, o.2, s.ptVal (s.cmdPoint o.1 o.2), s.ptQual (s.cmdPoint o.1 o.2)⟩ : Fwd)) }

/-- An engine fault holds the output's last command until its timer ends (R139; rank 5 of R34). -/
def State.leHolds (s : State) (o : Nat × Nat) : Bool := s.bit F.LE_LS_STAT_TIMER && s.loopBound o.1 o.2

/-- Take the oldest forwarded command of an output off its way; none arrives that the logic die has given up sending (R724). -/
def State.fwdTake (s : State) (cls chan : Nat) : Option Fwd × State :=
  match if s.pdReach then s.fwd.find? (fun f => f.cls == cls && f.chan == chan) else none with
  | none => (none, s)
  | some f => (some f, { s with fwd := s.fwd.erase f, clk := { s.clk with fwdTries := 1 } })

/-- What follows an accepted write to a point: old VALUE and QUAL are those before it. A write of BIND is none: it activates no
POINT task (log entry 113). -/
def State.ptAfter (s : State) (i : Nat) (oldV : Word) (oldQ : Nat) (byForce trend : Bool) : State :=
  let s := if s.ptVal i != oldV || s.ptQual i != oldQ then s.skPoint i else s
  let s := if trend then s.trendPoint i else s
  let s := s.pendingRelease i
  s.forward i true byForce (s.ptQual i != oldQ)

/-! ### ECC of the point database -/

/-- What the ECC of the point's record finds when a command reads it (R68). -/
def State.ptSbe (s : State) : State := s.inc F.SYS_PT_ECC_SBE

/-- A double-bit error in word w of the record: 0 VALUE, 1 STATUS, 2 CONFIG, 3 BIND (R68). The error record's CODE is free
(log entry 3); its FIELDS hold the index and the word, which identify the cause. SRCFORCED stays (log entry 109). -/
def State.ptDbe (s : State) (i w : Nat) : State :=
  let oldQ := s.ptQual i
  let s := s.ptSet i fNaN Qual.fault 16 0 0xFFFF (s.get F.PT_STATUS_SRCFORCED i)
  let s := if 2 ≤ w then s.setHealth i { s.ptHealth i with config := true, bind := true } else s
  let s := s.inc F.SYS_PT_ECC_DBE
  let s := if s.bit F.SYS_PT_DBE_LAST_VALID then s
    else ((s.put F.SYS_PT_DBE_LAST_INDEX i).put F.SYS_PT_DBE_LAST_WORD w).put F.SYS_PT_DBE_LAST_VALID 1
  let s := s.forward i false false (oldQ != Qual.fault)
  s.fresh.postErr2 (s.ptTenant i) 0x0B (Config.freeNat s.free % 65536) (leBytes 2 i ++ leBytes 1 w)

/-- What an error that a read of the record finds does (R68). -/
def State.ptFound (s : State) (i : Nat) : Ecc → State
  | .clean => s
  | .sbe => s.ptSbe
  | .dbe w => s.ptDbe i (w % 4)

/-- A read of a point's record finds the error that lies in it. -/
def State.ptFind (s : State) (i : Nat) : State :=
  match (s.ptHealth i).latent with
  | none => s
  | some e => (s.setHealth i { s.ptHealth i with latent := none }).ptFound i e

/-- An access that reads a point's record, and what its ECC finds: an error that lay there, then one the access itself meets. -/
def State.ptEcc (s : State) (i : Nat) (e : Ecc) : State := (s.ptFind i).ptFound i e

/-! ### The decision -/

/-- The operations of R79. -/
inductive PtOp where
  /-- A source write: the BIND word it comes from, whether the source reports good, and for REMOTE the far quality and AGE
  at receipt (R71); for SKEHIL the task's tenant (R73). -/
  | source (bind : Word) (good : Bool) (remote : Option (Nat × Nat)) (skTenant : Option Nat)
  | write
  | relinquish
  deriving DecidableEq, Repr

/-- The profile's AGE_MAX of a point (R70). -/
def State.ageMax (s : State) (i : Nat) : Nat := s.get F.SYS_PT_PROF_AGE_AGE_MAX (s.get F.PT_CONFIG_PROFILE i)

/-- source_quality and source_age of R79, under R66, R67 and R71: QUAL, AGE and SRCFORCED. Of a REMOTE write whose AGE exceeds
AGE_MAX already, only a far GOOD turns STALE (log entry 110); a far code that R65 never produces counts as FAULT (log entry 111). -/
def State.sourceQual (s : State) (i : Nat) (v : Word) (good : Bool) (remote : Option (Nat × Nat)) : Nat × Nat × Nat :=
  match remote with
  | none => (if good && fFinite v then Qual.good else Qual.fault, 0, 0)
  | some (q, age) =>
    let age := Nat.min age 0xFFFF
    let srcF := if q = Qual.forced then 1 else 0
    let q := if q = Qual.forced then Qual.good else q
    let q := if fFinite v && q ≤ Qual.fault then q else Qual.fault
    let q := if q = Qual.good && s.ageMax i != 0 && s.ageMax i < age then Qual.stale else q
    (q, age, srcF)

/-- The result of a write under the procedure of R79; p is its priority. A point of KIND UNUSED or NONE has no source, so no
source write names its binding (R72, R73); one bound to a rule core takes those of its own tenant's tasks alone. -/
def State.ptResult (s : State) (i : Nat) (op : PtOp) (tenant p : Nat) (v : Word) : Res :=
  match op with
  | .source bind _ _ skT =>
    if s.ptBroken i then Res.refConfig
    else if s.word (R.PT_BIND.at i) != bind || F.PT_BIND_KIND.of bind ≤ Kind.none_ ||
        ((skT.isSome || F.PT_BIND_KIND.of bind = Kind.skehil) && skT != some (s.ptTenant i)) then Res.refSource
    else if s.ptHP i < 16 then Res.refPriority
    else Res.applied
  | _ =>
    if s.ptKind i = Kind.unused || s.ptBroken i then Res.refConfig
    else if p < 1 || 15 < p then Res.refRange
    else if !s.hasRight tenant i p then Res.refRights
    else if s.ptHP i < p then Res.refPriority
    else if op = .relinquish then Res.relinquished
    else if !fFinite v then Res.refValue
    else Res.applied

/-- The record a write accepted by `ptResult` leaves (R79, R66); a relinquish at HP 16 leaves HOLDER as it is (R80). A relinquish
of a point of KIND NONE makes it GOOD and keeps its VALUE, be that no number (log entry 112); only a source write moves SRCFORCED
(log entry 109). -/
def State.ptApply (s : State) (i : Nat) (op : PtOp) (tenant p : Nat) (v : Word) : State :=
  match op with
  | .source _ good remote _ =>
    let q := s.sourceQual i v good remote
    s.ptSet i v q.1 16 (s.get F.PT_STATUS_HOLDER i) q.2.1 q.2.2
  | .relinquish =>
    let srcF := s.get F.PT_STATUS_SRCFORCED i
    let holder := if s.ptHP i = 16 then s.get F.PT_STATUS_HOLDER i else 0
    if s.ptKind i = Kind.none_ then s.ptSet i (s.ptVal i) Qual.good 16 holder 0 srcF
    else s.ptSet i (s.ptVal i) Qual.notValid 16 holder 0xFFFF srcF
  | .write =>
    let srcF := s.get F.PT_STATUS_SRCFORCED i
    if p ≤ 4 then s.ptSet i v Qual.forced p tenant 0 srcF
    else if s.ptKind i = Kind.none_ then
      s.ptSet i v Qual.good (s.ptHP i) (s.get F.PT_STATUS_HOLDER i) 0 srcF
    else s.ptSet i v Qual.good p tenant 0 srcF

/-- A decided write takes its effect and what follows it; a refused source write counts in SYS_PT_REFUSED, one refused
for a broken record does not (R68, R73). -/
def State.ptEffect (s : State) (i : Nat) (op : PtOp) (tenant p : Nat) (v : Word) (trend : Bool := true) : State :=
  let res := s.ptResult i op tenant p v
  let isSource := match op with | .source .. => true | _ => false
  if res = Res.applied || res = Res.relinquished then
    (s.ptApply i op tenant p v).ptAfter i (s.ptVal i) (s.ptQual i) (tenant = 0 && p ≤ 4 && op = .write) trend
  else if isSource && res = Res.refSource then s.inc F.SYS_PT_REFUSED_SOURCE
  else if isSource && res = Res.refPriority then s.inc F.SYS_PT_REFUSED_HELD
  else s

/-- A source write: never audited (R40, R73). -/
def State.ptSource (s : State) (i : Nat) (bind : Word) (v : Word) (good : Bool) (remote : Option (Nat × Nat) := none)
    (skT : Option Nat := none) (trend : Bool := true) : State :=
  let s := s.ptFind i
  let op := PtOp.source bind good remote skT
  s.plainW (s.ptResult i op 0 16 v) (fun s => s.ptEffect i op 0 16 v trend)

/-- A BIND word from KIND and REF (R63). -/
def bindWord (kind ref : Nat) : Word := Word.ofN (kind * 2 ^ 28 + ref % 2 ^ 28)

/-- The points bound to a source. -/
def State.boundTo (s : State) (kind ref : Nat) : List Nat :=
  ((s.listed R.PT_BIND).filter (fun e => e.2 == bindWord kind ref)).map (·.1)

/-- A source's result written to every point bound to it. -/
def State.sourceAll (s : State) (kind ref : Nat) (v : Word) (good : Bool) : State :=
  s.each (s.boundTo kind ref) (fun i s => s.ptSource i (bindWord kind ref) v good)

/-- A write or relinquish of a point by a path: decided under R79 and audited, whatever the result (R82). `addr` is the
register the path wrote to, 0 when it used none (R566). -/
def State.ptWrite (s : State) (w : Who) (i : Nat) (op : PtOp) (p : Nat) (v : Word) (addr : Nat)
    (tgt : Tgt → Tgt := id) : State :=
  let s := s.ptFind i
  let new := if op = .relinquish then s.ptVal i else v
  s.auditW w (tgt { ttype := 0, target := s.cpid i, addr := addr, old := s.ptVal i, new := new, prio := p })
    (s.ptResult i op w.tenant p v) (fun s => s.ptEffect i op w.tenant p v)


end Sys2Proof.Machine
end

