-- ==== Sys2Proof/Machine/RegOps.lean ====
section
/-! DEFINITION. Accesses to the register space: finding a register, merging a write by the access codes (R14, R15), judging
ranges (R820), the unmapped addresses (R45, R52), and accesses dropped while the D2D link is lost (R46). -/

namespace Sys2Proof.Machine

/-- The register table of the block an address lies in (R44). -/
def blockTable (a : Nat) : List (Reg × List Fld) :=
  let b := a / 0x10000
  if b = 0 then regTableSys else if b = 1 then regTableIc else if b < 8 then regTableTen
  else if b < 0x10 then regTablePt else if b < 0x18 then regTableRec else if b = 0x18 then regTableLe
  else if b = 0x19 then regTableCd else if b = 0x1A then regTableFan else if b = 0x1B then regTableAdc
  else if b = 0x1C then regTableFio else if b = 0x1D then regTableZb else if b = 0x1E then regTableCl
  else if b = 0x1F then regTableLog else if b < 0x28 then regTableSk else if b < 0x30 then regTablePnl
  else if b = 0x40 then regTableHb else if b = 0x41 then regTableBoot else if b = 0x42 then regTableAon else []

/-- The fields of the register at an address; none at an address no table describes (R15). -/
def fieldsAt (a : Nat) : Option (List Fld) := ((blockTable a).find? (fun r => r.1.hit a)).map (·.2)

/-- The address belongs to no block (R45). -/
def isUnmapped (a : Nat) : Bool := (0x3C0000 ≤ a && a < 0x400000) || 0x430000 ≤ a

/-- The address is reached over the D2D link: the power-die blocks of R44 and the supervisor registers of R486. -/
def isPower (a : Nat) : Bool :=
  let b := a / 0x10000
  (0x19 ≤ b && b ≤ 0x1C) || b = 0x42 || (b = 0x1D && 0x60 ≤ a % 0x1000 && a % 0x1000 ≤ 0x77)

/-- One field of a written word (R14): RW takes the bits, W1C clears, W1S sets, the other codes keep theirs. -/
def mergeField (old data : Word) (acc : Word) (f : Fld) : Word :=
  match f.acc with
  | .rw => setBits acc f.lo f.w (f.of data)
  | .w1c => setBits acc f.lo f.w (f.of (old &&& ~~~data))
  | .w1s => setBits acc f.lo f.w (f.of (old ||| data))
  | _ => acc

/-- The word a write leaves (R14); reserved bits stay (R15). -/
def mergeWrite (fs : List Fld) (old data : Word) : Word := fs.foldl (mergeField old data) old

/-- The order of two finite binary32 words that are not negative is the order of their bits. -/
def Chk.ok (c : Chk) (w v : Nat) : Bool :=
  match c with
  | .any => true
  | .range lo hi => lo ≤ v && v ≤ hi
  | .signed lo hi => lo ≤ toSigned w v && toSigned w v ≤ hi
  | .codes l => l.contains v
  | .mult n => v % n == 0
  | .finiteNonneg => fFinite (Word.ofN v) && (v < 2 ^ 31 || v = 2 ^ 31)
  | .frange lo hi => lo ≤ v && v ≤ hi

/-- The field ranges of R820. -/
def rangesOk (fs : List Fld) (data : Word) : Bool := fs.all (fun f => f.acc != .rw || f.chk.ok f.w (f.of data))

/-- A register that holds configuration: its writes are audited (R18). -/
def isConfig (fs : List Fld) : Bool := fs.any (fun f => f.acc == .rw)

/-- A configuration write (R14, R18, R820): refused with REFUSED_CONFIG outside a range, else judged by the register's own
rule `chk` on the word it would leave; audited either way; `after` is what the block does when it is applied. -/
def State.cfgWrite (s : State) (w : Who) (a : Nat) (data : Word) (chk : Word → Res := fun _ => Res.applied)
    (after : Word → Word → State → State := fun _ _ s => s) : State :=
  match fieldsAt a with
  | none => s.plainW Res.applied id
  | some fs =>
    let old := s.word a
    let new := mergeWrite fs old data
    let res := if rangesOk fs data then chk new else Res.refConfig
    s.auditW w (Tgt.reg a old data) res (fun s => if res = Res.applied then after old new (s.setWord a new) else s)

/-- A write that is not audited (R14): flags cleared, actions triggered by `after`. -/
def State.flagWrite (s : State) (a : Nat) (data : Word) (after : Word → Word → State → State := fun _ _ s => s) : State :=
  match fieldsAt a with
  | none => s.plainW Res.applied id
  | some fs =>
    let old := s.word a
    let new := mergeWrite fs old data
    s.plainW Res.applied (fun s => after old new (s.setWord a new))

/-- A write by its register's kind alone: configuration is audited, flags are not, a write with no effect leaves no record. -/
def State.kindWrite (s : State) (w : Who) (a : Nat) (data : Word) : State :=
  match fieldsAt a with
  | none => s.plainW Res.applied id
  | some fs => if isConfig fs then s.cfgWrite w a data else s.flagWrite a data

/-- The write reaches a flag of the register: a 1 for a W1C or W1S field (R14, R18). -/
def touches (fs : List Fld) (data : Word) : Bool := fs.any (fun f => (f.acc = .w1c || f.acc = .w1s) && f.of data != 0)

/-- Registers of actions that the spec audits whatever is written (R37, R100, R163, R165, R291, R417, R476, R486, R519, R581,
R614, R616, R647, R669, R698, R699, R765, R766). -/
def actionRegs : List Reg :=
  [R.AON_SAFE_REL, R.SYS_PT_REL, R.LE_SWAP, R.LE_SWG_CMD, R.CD_LEARN, R.DI_CNTSET, R.ZB_CMD, R.ZB_PWR_CMD, R.CL_TIME_SET_HI,
    R.LOG_FMT_CMD, R.TEN_RESET, R.TEN_DB_RING, R.IC_EN_SET, R.IC_EN_CLR, R.HB_FUNC_RST, R.HB_WARM, R.HB_PWRCYC, R.BOOT_FL_CMD,
    R.BOOT_SLOT_CMD, R.PNL_ACC_CODE, R.PNL_ACC_LVL]

/-- Registers whose flags the spec audits at a clear (R53, R226, R259, R390, R393, R425, R429, R472, R476, R722, R729, R738, R759). -/
def clearRegs : List Reg :=
  [R.AON_STAT, R.AON_RST_CAUSE, R.AON_SUP_EVT, R.AON_SAFE_STAT, R.SK_ABORT, R.CD_FLT, R.FAN_FLT, R.FAN_GUARD_FLT, R.DO_FLT, R.AO_FLT, R.ZB_EVT,
    R.ZB_LASTERR, R.ZB_UNK_HI, R.ZB_PWR_FLT, R.PNL_FLT]

/-- Staging registers with RW fields whose writes the spec does not audit: they hold no configuration (R531, R590, R611, R768). -/
def quietRegs : List Reg := [R.LOG_RD_BLK, R.CL_RW_CPID, R.CL_RW_VAL, R.TEN_CQ_STAGE, R.PNL_WR_PT, R.PNL_WR_VAL]

/-- The write is one that R18 audits, applied or refused: it reaches a field that holds configuration, or the register is of
those whose block audits actions or clears. A write with no effect under R14 or R15 is not; the memories of SK1 to SK3 are
(R191). -/
def audited (a : Nat) (data : Word) : Bool :=
  if 0x210000 ≤ a && a < 0x270000 then true
  else match fieldsAt a with
    | none => false
    | some fs =>
      (isConfig fs && !quietRegs.any (·.hit a)) || actionRegs.any (·.hit a) || (clearRegs.any (·.hit a) && touches fs data)
        || (R.ADC_FLT.hit a && data &&& 0x38 != 0)

/-- A write refused by who makes it or when: no effect; audited where R18 audits it. -/
def State.refuseWrite (s : State) (w : Who) (a : Nat) (data : Word) (res : Res) : State :=
  if audited a data then s.auditW w (Tgt.reg a (s.word a) data) res id else s.plainW res id

/-- A write of 1 to fault bits whose clears are audited (R259, R390, R425, R429, R472, R476). -/
def State.clearWrite (s : State) (w : Who) (a : Nat) (data : Word) (after : Word → Word → State → State) : State :=
  match fieldsAt a with
  | none => s.plainW Res.applied id
  | some fs =>
    let old := s.word a
    let new := mergeWrite fs old data
    if !touches fs data then s.plainW Res.applied id
    else s.auditW w (Tgt.reg a old data) Res.applied (fun s => after old new (s.setWord a new))

/-- An access to an address of no block is recorded, unless one is held already, and raises the line of source 127 (R45, R52). -/
def State.unmapped (s : State) (a : Nat) (write : Bool) : State :=
  if s.bit F.SYS_UNMAPPED_VALID then s
  else ((s.put F.SYS_UNMAPPED_ADDR a).put F.SYS_UNMAPPED_WRITE (b2n write)).put F.SYS_UNMAPPED_VALID 1

/-- A power-die access while the link is lost (R46): counted, whoever makes it; a discarded configuration write is audited
NOT_APPLIED, one that rights refuse anyway answers REFUSED_RIGHTS (log entry 116). -/
def State.dropRead (s : State) : State := { s.inc F.SYS_D2D_DROP_READS with rdata := 0, wres := Res.notApplied }

def State.dropWrite (s : State) (w : Who) (a : Nat) (data : Word) : State :=
  let s := s.inc F.SYS_D2D_DROP_WRITES
  if w.tenant != 0 then s.refuseWrite w a data Res.refRights else
  match fieldsAt a with
  | some fs => if isConfig fs then s.auditW w (Tgt.reg a (s.word a) data) Res.notApplied id else s.plainW Res.notApplied id
  | none => s.plainW Res.notApplied id

/-- The word of a read cleared in its RCL fields (R14). -/
def clearRcl (fs : List Fld) (x : Word) : Word := fs.foldl (fun acc f => if f.acc = .rcl then setBits acc f.lo f.w 0 else acc) x

end Sys2Proof.Machine
end

