-- ==== Sys2Proof/Machine/Calib.lean ====
section
/-! DEFINITION. Factory and user calibration (R700 to R704), and the logarithm of R347. -/

namespace Sys2Proof.Machine

/-- A word of OTP (R700, R710). -/
def State.otp (s : State) (o : Nat) : Word := s.word (R.CAL_OTP.at (o / 4))

/-- UGAIN and UOFS of a point (R703). -/
def State.userCal (s : State) (i : Nat) (x : Word) : Word :=
  match s.ucal.find? (fun e => e.2.1 == i) with
  | some e => (fAdd (fMul e.2.2.1 x).val e.2.2.2).val
  | none => (fAdd (fMul 0x3F800000 x).val 0).val

/-! ### ln -/

/-- Terms of atanh z = z + z³/3 + z⁵/5 + … in units of 2⁻¹⁰⁰: `zp` is the present odd power. -/
def atanhSum : Nat → Nat → Nat → Nat → Nat
  | 0, _, _, _ => 0
  | n + 1, zp, z2, k => zp / k + atanhSum n (zp * z2 / 2 ^ 100) z2 (k + 2)

/-- 2 atanh(a / b) in units of 2⁻¹⁰⁰, for 0 ≤ a / b ≤ 1/3. -/
def atanh2 (a b : Nat) : Nat := let z := a * 2 ^ 100 / b; 2 * atanhSum 40 z (z * z / 2 ^ 100) 1

/-- The next binary32 number towards +∞ or −∞, of a finite one that is not 0. -/
def fStep (x : Word) (up : Bool) : Word := if up == fNeg x then x - 1 else x + 1

/-- ln x within 1 ulp (R347): one of the two binary32 numbers around the exact value, which one is free. -/
def fLn (x : Word) : Word :=
  if !fFinite x || fNeg x || fIsZero x then Config.lnOpen x
  else
    let m := fSig x
    let k := Nat.log2 m
    let v : Int := (atanh2 (m - 2 ^ k) (m + 2 ^ k) : Int) + (fPow x + k) * (atanh2 1 3 : Int)
    if v = 0 then 0
    else
      let r := fOfRat v (2 ^ 100)
      if Config.lnPick x % 2 = 0 then r else fStep r (decide (fAt r (-100) < v))

end Sys2Proof.Machine
end

