-- ==== Sys2Proof/Machine/Acquisition.lean ====
section
/-! DEFINITION. Analog acquisition (chapter "Analog acquisition"): triggers and sequences, accumulation and snapshots,
over-range and injection, the converter cross-check. Times within a converter are counted in CK_ADC cycles of 1/32 µs. -/

namespace Sys2Proof.Machine

/-- STATE codes of R361. -/
def Adc.off : Nat := 0
def Adc.idle : Nat := 1
def Adc.startup : Nat := 2
def Adc.normal : Nat := 3
def Adc.urgent : Nat := 4
def Adc.check : Nat := 5

def State.conv (s : State) (k : Nat) : AdcConv := s.adc.convs.getD k {}
def State.setConv (s : State) (k : Nat) (c : AdcConv) : State := { s with adc := { s.adc with convs := putAt {} s.adc.convs k c } }
def State.adcState (s : State) (k : Nat) : Nat := s.get F.ADC_STAT_STATE k
def State.setAdcState (s : State) (k v : Nat) : State := s.put F.ADC_STAT_STATE v k

/-- An error record of the power die: posted, or kept until the link is next up. -/
def State.pdErr (s : State) (t block code : Nat) (f : List Byte) : State :=
  if s.linkUp then s.postErr2 t block code f else { s with pdErrs := s.pdErrs ++ [(t, block, code, f)] }

/-! ### Entries (R334, R335, R337, R342) -/

/-- The word of an entry: 0 to 15 normal, 16 to 19 urgent. -/
def State.entWord (s : State) (k e : Nat) : Word := if e < 16 then s.word (R.ADC_ENT.at k e) else s.word (R.ADC_UENT.at k (e - 16))

/-- An entry's configuration from its word and its pin's. -/
def State.entCfg (s : State) (k e : Nat) : AdcCfg :=
  let w := s.entWord k e
  let p := F.ADC_ENT_PIN.of w
  ⟨p, F.ADC_ENT_GAIN.of w, F.ADC_ENT_SMP.of w, F.ADC_ENT_CONV.of w, s.get F.ADC_PIN_MODE k p, s.get F.ADC_PIN_CURVE k p, s.get F.ADC_PIN_RSH k p⟩

/-- An entry is valid (R335): its pin is not OFF, and a gain above 1 is on DIRECT only. -/
def AdcCfg.ok (c : AdcCfg) : Bool := c.mode != 0 && (c.gain == 0 || c.mode == 2)

/-- The entries of LEN and ULEN of a control word. -/
def seqEntries (ctrl : Word) : List Nat :=
  List.range (F.ADC_CTRL_LEN.of ctrl + 1) ++ (List.range (F.ADC_CTRL_ULEN.of ctrl + 1)).map (· + 16)

/-- No entry of LEN or ULEN is invalid under the control word (R335). -/
def State.seqOk (s : State) (k : Nat) (ctrl : Word) : Bool := (seqEntries ctrl).all (fun e => (s.entCfg k e).ok)

/-- The length of one conversion in cycles: sampling, then 24 (R333, R337). -/
def AdcCfg.cycles (c : AdcCfg) : Nat := 8 * (c.smp + 1) + 24

/-- A sequence is taken up (R342): its entries as they stand. An entry used with new values has its accumulator cleared, and what the
old values still have on its way there is not merged: two configurations are never summed together. -/
def State.seqTake (s : State) (k : Nat) (urgent : Bool) : State :=
  let ctrl := s.word (R.ADC_CTRL.at k)
  let es := if urgent then (List.range (F.ADC_CTRL_ULEN.of ctrl + 1)).map (· + 16) else List.range (F.ADC_CTRL_LEN.of ctrl + 1)
  let c := es.foldl (fun c e =>
    let x := s.entCfg k e
    if c.used.lookup e = some x then c
    else { c with
      used := Tab.put e x c.used, acc := Tab.del e c.acc, lsum := Tab.del e c.lsum, fifo := c.fifo.filter (fun r => r.1 != e),
      last := c.last.map (fun l => if l.entry = e then { l with place := .gone } else l) }) (s.conv k)
  let l := es.map (s.entCfg k)
  s.setConv k (if urgent then { c with useq := l } else { c with nseq := l })

/-- The pass in progress is dropped, or there is none. It is never merged, but what a late finding says of its last conversion is
still flagged (R343). -/
def AdcConv.drop (c : AdcConv) : AdcConv :=
  { c with n := 0, pass := {}, last := c.last.map (fun l => if l.place = .running then { l with place := .gone } else l) }

/-- A sequence begins at its first entry. -/
def State.seqBegin (s : State) (k : Nat) (urgent : Bool) : State :=
  let s := s.seqTake k urgent
  let s := if urgent then (s.setAdcState k Adc.urgent).put F.ADC_STAT_UENTRY 0 k else (s.setAdcState k Adc.normal).put F.ADC_STAT_ENTRY 0 k
  s.setConv k (s.conv k).drop

/-! ### Triggers (R338 to R341) -/

/-- A lost trigger (R339). -/
def State.trigLost (s : State) (k : Nat) : State := (s.inc F.ADC_CNT_TLOST 1 k).put F.ADC_EVT_TLOST 1 k

/-- Start-up begins now (R340). -/
def State.startUp (s : State) (k what : Nat) : State :=
  (s.setAdcState k Adc.startup).setConv k { s.conv k with cyc := 32 * s.now, startFor := what, since := 32 * s.now }

/-- The converter goes to IDLE or OFF at cycle t (R358). -/
def AdcConv.rest (c : AdcConv) (t : Nat) : AdcConv := { c with busy := c.busy + (t - c.since) }

/-- A running check is abandoned for a sequence that starts after 4 cycles (R339): it stays due. After an over-range conversion of
the check the sequence's first is repeated (R350). -/
def State.checkAbandon (s : State) (k : Nat) (urgent : Bool) : State :=
  let c := s.conv k
  (s.setConv k { c with cyc := 32 * s.now + 4, chkDue := true, rep := c.lastOvr }).seqBegin k urgent

/-- A normal trigger (R339). Before an urgent sequence it is pending, however often it comes (log entry 129). -/
def State.trigNormal (s : State) (k : Nat) : State :=
  let st := s.adcState k
  if st = Adc.off then s
  else if st = Adc.idle then s.startUp k 0
  else if st = Adc.startup then
    if (s.conv k).startFor = 2 then s.setConv k { s.conv k with startFor := 0 }
    else if (s.conv k).startFor = 1 then s.put F.ADC_STAT_NPEND 1 k
    else s.trigLost k
  else if st = Adc.urgent && !s.bit F.ADC_STAT_PREEMPTED k && !s.bit F.ADC_STAT_NPEND k then s.put F.ADC_STAT_NPEND 1 k
  else if st = Adc.check then s.checkAbandon k false
  else s.trigLost k

/-- Preemption (R341): the conversion and the pass are discarded, the urgent sequence starts after 4 cycles. -/
def State.preempt (s : State) (k : Nat) : State :=
  let s := (s.inc F.ADC_CNT_PREEMPT 1 k).put F.ADC_STAT_PREEMPTED 1 k
  let c := s.conv k
  let s := s.setConv k { c with cyc := 32 * s.now + 4, rep := c.lastOvr }
  s.seqBegin k true

/-- An urgent trigger (R339): acted on only while UEN is 1. -/
def State.trigUrgent (s : State) (k : Nat) : State :=
  let st := s.adcState k
  if !s.bit F.ADC_CTRL_UEN k || st = Adc.off then s
  else if st = Adc.idle then s.startUp k 1
  else if st = Adc.startup then
    if (s.conv k).startFor = 2 then s.setConv k { s.conv k with startFor := 1 }
    else if (s.conv k).startFor = 0 && !s.bit F.ADC_STAT_UPEND k then s.put F.ADC_STAT_UPEND 1 k
    else s.trigLost k
  else if st = Adc.normal then s.preempt k
  else if st = Adc.check then s.checkAbandon k true
  else s.trigLost k

/-- The edge field selects the edge; it applies to pin triggers only (R338). -/
def edgeOk (src edge : Nat) (rising : Bool) : Bool := !(1 ≤ src && src ≤ 4) || edge == 2 || (edge == 0) == rising

/-- A trigger event of a source reaches every converter that names it (R338). -/
def State.adcTrigger (s : State) (src : Nat) (rising : Bool) : State :=
  if src = 0 then s
  else s.each (List.range 4) (fun k s =>
    let s := if s.get F.ADC_CTRL_TSRC k = src && edgeOk src (s.get F.ADC_CTRL_TEDGE k) rising then s.trigNormal k else s
    if s.get F.ADC_CTRL_USRC k = src && edgeOk src (s.get F.ADC_CTRL_UEDGE k) rising then s.trigUrgent k else s)

def execAdcTrigger (src : Fin 13) (rising : Bool) (s : State) : Out := .next (s.pdDo (fun s => s.adcTrigger src.val rising))

/-- A write of ADC_START (R362). -/
def State.adcStartWrite (s : State) (w : Who) (k : Nat) (data : Word) : State :=
  let a := R.ADC_START.at k
  if !s.pdReach then s.dropWrite w a data
  else if w.tenant != 0 then s.refuseWrite w a data Res.refRights
  else s.plainW Res.applied (fun s =>
    let s := if F.ADC_START_START.of data = 1 then s.trigNormal k else s
    if F.ADC_START_USTART.of data = 1 then s.trigUrgent k else s)

def execAdcStartNormal (p : Path) (k : Fin 4) (s : State) : Out := .next (s.byPath p (fun w s => s.adcStartWrite w k.val 1))
def execAdcStartUrgent (p : Path) (k : Fin 4) (s : State) : Out := .next (s.byPath p (fun w s => s.adcStartWrite w k.val 2))

/-- A check begins (R354): 8 conversions of 64 + 24 cycles. -/
def State.checkBegin (s : State) (k : Nat) : State :=
  (s.setAdcState k Adc.check).setConv k { (s.conv k).drop with chkDue := false }

/-- Start-up ends after 64 cycles (R340). -/
def State.startUpEnd (s : State) (k : Nat) : State :=
  if s.adcState k != Adc.startup then s
  else
    let c := s.conv k
    let t := c.cyc + 64
    let s := (s.reach ((t + 31) / 32)).setConv k { c with cyc := t }
    if c.startFor = 2 then s.checkBegin k
    else if c.startFor = 1 then s.seqBegin k true
    else if s.bit F.ADC_STAT_UPEND k then (((s.put F.ADC_STAT_UPEND 0 k).put F.ADC_STAT_NPEND 1 k).seqBegin k true)
    else s.seqBegin k false

def execAdcStartupEnd (k : Fin 4) (s : State) : Out := .next (s.pdDo (fun s => s.startUpEnd k.val))

/-! ### Conversions (R343, R350, R351) -/

/-- The entry being converted: its number and configuration. -/
def State.curEntry (s : State) (k : Nat) : Nat × Option AdcCfg :=
  let c := s.conv k
  if s.adcState k = Adc.urgent then (s.get F.ADC_STAT_UENTRY k + 16, c.useq[s.get F.ADC_STAT_UENTRY k]?)
  else (s.get F.ADC_STAT_ENTRY k, c.nseq[s.get F.ADC_STAT_ENTRY k]?)

/-- Injection persists, or has within 50 µs, on a pin during the cycles t0 to t1 (R351). -/
def State.injected (s : State) (n t0 t1 : Nat) : Bool :=
  match s.adc.inj.lookup n with
  | some (a, b) => 32 * a ≤ t1 && t0 ≤ 32 * (b + 50)
  | none => false

/-- A conversion of pin p is SUSPECT: a mux-adjacent pin of the same block is injected during its sampling phase (R351). -/
def State.suspect (s : State) (k p t0 t1 : Nat) : Bool :=
  (p != 0 && s.injected (16 * k + p - 1) t0 t1) || (p != 15 && s.injected (16 * k + p + 1) t0 t1)

/-- An included code (R343). -/
def AdcAcc.add (a : AdcAcc) (code : Nat) : AdcAcc :=
  { a with sum := a.sum + code, count := a.count + 1, min := if a.count = 0 then code else Nat.min a.min code,
           max := if a.count = 0 then code else Nat.max a.max code }

/-- The sequence ends (R339, R340, R341): the preempted or pending sequence follows, else a due check, else IDLE. -/
def State.seqEnd (s : State) (k : Nat) : State :=
  let urgent := s.adcState k = Adc.urgent
  let s := if urgent then s.put F.ADC_EVT_USEQ_END 1 k else s.put F.ADC_EVT_SEQ_END 1 k
  let c := s.conv k
  let next (s : State) : State := s.setConv k { s.conv k with rep := c.lastOvr }
  if urgent && s.bit F.ADC_STAT_PREEMPTED k then
    let s := next ((s.put F.ADC_STAT_PREEMPTED 0 k).setAdcState k Adc.normal)
    s.setConv k (s.conv k).drop
  else if s.bit F.ADC_STAT_NPEND k then next ((s.put F.ADC_STAT_NPEND 0 k).seqBegin k false)
  else if c.chkDue then next (s.checkBegin k)
  else (s.setAdcState k Adc.idle).setConv k { c.rest c.cyc with lastOvr := false, rep := false }

/-- The pass ends: its record crosses, and the next entry follows (R337, R343). -/
def State.passEnd (s : State) (k : Nat) : State :=
  let c := s.conv k
  let e := (s.curEntry k).1
  let s := s.setConv k { c with
    fifo := c.fifo ++ [(e, c.pass)], n := 0, pass := {}, rep := c.lastOvr, last := c.last.map (fun l => { l with place := .crossing }) }
  if s.adcState k = Adc.urgent then
    if s.get F.ADC_STAT_UENTRY k + 1 < c.useq.length then s.put F.ADC_STAT_UENTRY (s.get F.ADC_STAT_UENTRY k + 1) k else s.seqEnd k
  else if s.get F.ADC_STAT_ENTRY k + 1 < c.nseq.length then s.put F.ADC_STAT_ENTRY (s.get F.ADC_STAT_ENTRY k + 1) k
  else s.seqEnd k

/-- An over-range conversion is flagged (R350). -/
def State.ovrFlag (s : State) (k e pin : Nat) (high : Bool) : State :=
  let s := s.put F.ADC_FLT_OVR 1 k
  if s.bit F.ADC_OVR_LAST_VALID k then s
  else ((((s.put F.ADC_OVR_LAST_PIN pin k).put F.ADC_OVR_LAST_ENTRY (e % 16) k).put F.ADC_OVR_LAST_URGENT (e / 16) k).put
    F.ADC_OVR_LAST_HIGH (b2n high) k).put F.ADC_OVR_LAST_VALID 1 k

/-- A conversion of an entry ends: its code, and what the window comparator found during sampling (R350). -/
def State.entryConv (s : State) (k code : Nat) (ovr : Option Bool) : State :=
  if s.adcState k != Adc.normal && s.adcState k != Adc.urgent then s
  else
    match s.curEntry k with
    | (_, none) => s
    | (e, some x) =>
      let c := s.conv k
      let t0 := c.cyc
      let t := t0 + x.cycles
      let s := s.reach ((t + 31) / 32)
      let c := { c with cyc := t, last := none }
      if c.rep then (s.setConv k { c with rep := false, lastOvr := false }).inc F.ADC_CNT2_DISC 1 k
      else
        let sus := s.suspect k x.pin t0 (t - 24)
        let s := match ovr with
          | some high => (s.setConv k { c with pass := { c.pass with novr := c.pass.novr + 1 }, lastOvr := true, n := c.n + 1 }).ovrFlag k e x.pin high
          | none =>
            if sus then ((s.setConv k { c with pass := { c.pass with nsus := c.pass.nsus + 1 }, lastOvr := false, n := c.n + 1 }).inc F.ADC_CNT2_SUS 1 k).put F.ADC_FLT_SUSPECT 1 k
            else s.setConv k { c with
              pass := c.pass.add (code % 4096), lastOvr := false, n := c.n + 1, last := some { pin := x.pin, t0 := t0, t1 := t - 24, entry := e, was := c.pass } }
        if x.conv < (s.conv k).n then s.passEnd k else s

/-! ### Accumulators and snapshots (R343 to R349) -/

/-- A pass merges into an accumulator (R344): at COUNT 0xFF_FFFF, SUM and COUNT take no more. -/
def AdcAcc.merge (a p : AdcAcc) : AdcAcc :=
  let full := a.count = 0xFFFFFF
  { sum := if full then a.sum else satAdd 40 a.sum p.sum
    count := if full then a.count else satAdd 24 a.count p.count
    min := if p.count = 0 then a.min else if a.count = 0 then p.min else Nat.min a.min p.min
    max := if p.count = 0 then a.max else if a.count = 0 then p.max else Nat.max a.max p.max
    novr := satAdd 24 a.novr p.novr
    nsus := satAdd 24 a.nsus p.nsus }

/-- The oldest pass record of a converter merges. -/
def State.passMerge (s : State) (k : Nat) : State :=
  let c := s.conv k
  match c.fifo with
  | [] => s
  | (e, p) :: t =>
    let l := (c.lsum.lookup e).getD (0, 0)
    let a := (c.acc.lookup e).getD {}
    s.setConv k { c with
      fifo := t, acc := Tab.put e (a.merge p) c.acc, lsum := Tab.put e (l.1 + p.sum, l.2 + p.count) c.lsum,
      last := c.last.map (fun x => if t.isEmpty && x.place = .crossing then { x with place := .merged, acc := a, lsum := l } else x) }

def execAdcPassMerge (k : Fin 4) (s : State) : Out := .next (s.pdDo (fun s => s.passMerge k.val))

/-- A PL bit of a converter is set (R356). -/
def State.plaus (s : State) (k : Nat) : Bool := s.bit F.ADC_FLT_PL_DIFF k || s.bit F.ADC_FLT_PL_ABS k || s.bit F.ADC_FLT_PL_STARVED k

/-- The snapshots of one converter at a tick (R345, R346). -/
def State.snapConv (s : State) (k : Nat) : State :=
  s.each (List.range 20) (fun e s =>
    let d := F.ADC_ENT_SNAPDIV.of (s.entWord k e)
    if d = 0 || s.frame % d != 0 then s
    else
      let c := s.conv k
      let a := (c.acc.lookup e).getD {}
      let s := s.setConv k { c with
        acc := Tab.del e c.acc, last := c.last.map (fun l => if l.entry = e && l.place = .merged then { l with snapped := true } else l) }
      { s with adc := { s.adc with snaps := s.adc.snaps ++ [(k, e, a, s.plaus k)] } })

/-- Binary32 constants of R347. -/
def c10_4096 : Word := 0x3B200000
def c2p5_4096 : Word := 0x3A200000
def c1000 : Word := 0x447A0000

/-- The factory-corrected code m (R347, R700). -/
def State.adcM (s : State) (k : Nat) (x : AdcCfg) (c : Word) : Word :=
  let o := if x.mode = 1 then 0x128 + 64 * k else 0x100 + 64 * k + 8 * x.gain
  (fMul (fSub c (s.otp o)).val (s.otp (o + 4))).val

/-- The transfer function of R347 on m. -/
def State.adcX (s : State) (k : Nat) (x : AdcCfg) (m : Word) : Word :=
  if x.mode = 1 then (fMul m c10_4096).val
  else if x.mode = 2 then (fMul m (fDiv c2p5_4096 (fOfNat (2 ^ x.gain))).val).val
  else if x.mode = 4 then
    let rsh := (fDiv (fOfNat x.rsh) 0x41200000).val
    (fDiv (fMul (fMul m c2p5_4096).val c1000).val rsh).val
  else
    let r := (fDiv m (fSub 0x45800000 m).val).val
    let rn := (fMul (s.otp (0x200 + 4 * (16 * k + x.pin))) r).val
    let lnr := fLn (fDiv rn (s.word (R.ADC_NTC_R.at x.curve))).val
    let q := (fAdd (fDiv 0x3F800000 0x43951333).val (fDiv lnr (s.word (R.ADC_NTC_B.at x.curve))).val).val
    (fSub (fDiv 0x3F800000 q).val 0x43889333).val

/-- The code a statistic takes (R347): the least published value is the greatest code for NTC. -/
def statCode (x : AdcCfg) (a : AdcAcc) (stat : Nat) : Word :=
  if stat = 0 then fOfRat a.sum a.count
  else if (stat = 1) = (x.mode != 3) then fOfNat a.min else fOfNat a.max

/-- The NTC window of R348: m below 8.0 or above 4,080.0. -/
def ntcBad (x : AdcCfg) (m : Word) : Bool := x.mode == 3 && (fLt m 0x41000000 || fLt 0x457F0000 m)

/-- The value and goodness of a point bound to a snapshot with the statistic (R346 to R348, R703); none for no write. -/
def State.accValue (s : State) (i k e : Nat) (a : AdcAcc) (pl : Bool) (stat : Nat) : Option (Word × Bool) :=
  if a.count + a.novr + a.nsus = 0 then none
  else if stat = 3 then some (fOfNat a.novr, !pl)
  else if a.count = 0 then some (fNaN, false)
  else
    let x := ((s.conv k).used.lookup e).getD (s.entCfg k e)
    let m := s.adcM k x (statCode x a stat)
    some (s.userCal i (s.adcX k x m), !pl && !ntcBad x m)

/-- The REF of an accumulator (R72). -/
def accRef (k e stat : Nat) : Nat := if e < 16 then 64 * stat + 16 * k + e else 256 + 64 * stat + 16 * k + (e - 16)

/-- A snapshot is published: the source write of every point bound to it (R346). -/
def State.accPublish (s : State) : State :=
  match s.adc.snaps with
  | [] => s
  | (k, e, a, pl) :: t =>
    let s := { s with adc := { s.adc with snaps := t } }
    s.each [0, 1, 2, 3] (fun stat s =>
      let b := bindWord Kind.acc (accRef k e stat)
      s.each (s.boundTo Kind.acc (accRef k e stat)) (fun i s =>
        match s.accValue i k e a pl stat with
        | some (v, good) => s.ptSource i b v good
        | none => s))

def execAccPublication (s : State) : Out := .next (s.pdDo (fun s => s.accPublish))

/-- The local mean of an entry's sum and count, renewed now (R349). -/
def State.localMean (s : State) (k e sum count : Nat) : Word × Nat × Bool :=
  let x := ((s.conv k).used.lookup e).getD (s.entCfg k e)
  let m := s.adcM k x (fOfRat sum count)
  (s.adcX k x m, s.now, !ntcBad x m)

/-- The local means are renewed every 100 ms (R349): an entry without included codes keeps its last. -/
def State.localMeans (s : State) : State :=
  s.each (List.range 4) (fun k s =>
    let c := s.conv k
    let m := c.lsum.foldl (fun t e => if e.2.2 = 0 then t else Tab.put e.1 (s.localMean k e.1 e.2.1 e.2.2) t) c.lmean
    s.setConv k { c with
      lsum := [], lmean := m, last := c.last.map (fun l => if l.place = .merged then { l with mean := some (c.lmean.lookup l.entry) } else l) })

def execAdcLocalMean (s : State) : Out :=
  .next (let s := (s.reach (s.adc.lmAt + 100000)).localMeans; { s with adc := { s.adc with lmAt := s.now } })

/-- The link is up again (R349): every accumulator is cleared before the first tick. -/
def State.adcLinkBack (s : State) : State :=
  { s with adc := { s.adc with convs := s.adc.convs.map (fun c =>
    { c with acc := [], last := c.last.map (fun l => if l.place = .merged then { l with place := .gone } else l) }) } }

/-! ### Injection (R351) -/

/-- A merged pass without its last conversion, which proved SUSPECT (R351): the accumulator, or the snapshot that has taken it, and the
local mean are as they would be had it never been included. -/
def State.lateMerged (s : State) (k : Nat) (l : AdcLast) (p : AdcAcc) : State :=
  let a := l.acc.merge p
  let n := (l.lsum.1 + p.sum, l.lsum.2 + p.count)
  let s := if l.snapped then
      { s with adc := { s.adc with snaps := s.adc.snaps.map (fun r => if r.1 = k && r.2.1 = l.entry then (k, l.entry, a, r.2.2.2) else r) } }
    else s.setConv k { s.conv k with acc := Tab.put l.entry a (s.conv k).acc }
  let c := s.conv k
  match l.mean with
  | none => s.setConv k { c with lsum := Tab.put l.entry n c.lsum }
  | some old =>
    s.setConv k { c with
      lmean := if n.2 = 0 then (match old with | some m => Tab.put l.entry m c.lmean | none => Tab.del l.entry c.lmean)
        else Tab.put l.entry (s.localMean k l.entry n.1 n.2) c.lmean }

/-- The second sample that finds an injection makes a conversion SUSPECT whose sampling phase met the first (R351): it leaves its
pass, wherever that stands by now, and is flagged and counted. Only the last conversion can have ended between the two (log
entry 53). -/
def State.lateSuspect (s : State) (k : Nat) : State :=
  let c := s.conv k
  match c.last with
  | none => s
  | some l =>
    if !s.suspect k l.pin l.t0 l.t1 then s
    else
      let p := { l.was with nsus := l.was.nsus + 1 }
      let s := s.setConv k { c with last := none }
      let c := s.conv k
      let s := match l.place with
        | .running => s.setConv k { c with pass := p }
        | .crossing => s.setConv k { c with
            fifo := c.fifo.take (c.fifo.length - 1) ++ (c.fifo.drop (c.fifo.length - 1)).map (fun (r : Nat × AdcAcc) => (r.1, p)) }
        | .merged => s.lateMerged k l p
        | .gone => s
      (s.inc F.ADC_CNT2_SUS 1 k).put F.ADC_FLT_SUSPECT 1 k

/-- One sample of the injection detectors: bit n is what AIN n's found. -/
def State.injSample (s : State) (mask : Nat) : State :=
  let s := s.reach (s.adc.injAt + 1)
  let live := (List.range 64).filter (fun n => mask.testBit n && s.get F.ADC_PIN_MODE (n / 16) (n % 16) != 0)
  let held := live.filter (fun n => s.adc.injPrev.testBit n)
  let prev := s.adc.injAt
  let now := s.now
  let inj := held.foldl (fun t n =>
    match t.lookup n with
    | some (a, b) => Tab.put n (if b + 50 < prev then prev else a, now) t
    | none => Tab.put n (prev, now) t) s.adc.inj
  let s := s.each held (fun n s => s.put F.ADC_FLT_INJ 1 (n / 16))
  let m := held.foldl (fun x n => x + 2 ^ n) 0
  let s := (s.put F.ADC_INJ_LO_INJ m).put F.ADC_INJ_HI_INJ (m / 2 ^ 32)
  let s := { s with adc := { s.adc with inj := inj, injPrev := live.foldl (fun x n => x + 2 ^ n) 0, injAt := now } }
  s.each (List.range 4) (fun k s => s.lateSuspect k)

def execAdcInjectionSample (mask : BitVec 64) (s : State) : Out := .next (s.pdDo (fun s => s.injSample mask.toNat))

/-! ### The cross-check (R353 to R356) -/

/-- A due check starts when its converter is free: from IDLE after start-up (R354). -/
def State.checkStart (s : State) (k : Nat) : State :=
  if (s.conv k).chkDue && s.adcState k = Adc.idle then s.startUp k 2 else s

def execAdcCheckStart (k : Fin 4) (s : State) : Out := .next (s.pdDo (fun s => s.checkStart k.val))

/-- A PL bit is set: the flag, and tenant 0's error record with pair, converter, cause and both voltages (R356). -/
def State.plSet (s : State) (k : Nat) (f : Fld) : State :=
  if s.bit f k then s
  else
    let p := k / 2
    (s.put f 1 k).pdErr 0 0x03 f.lo (leBytes 1 p ++ leBytes 1 k ++ leBytes 1 f.lo ++ leBytes 2 (s.get F.ADC_CHK_STAT_V_EVEN p) ++ leBytes 2 (s.get F.ADC_CHK_STAT_V_ODD p))

/-- A magnitude in binary32. -/
def fMag (x : Word) : Word := x &&& 0x7FFFFFFF

/-- Volts in mV, binary32. -/
def milli (v : Word) : Word := (fMul v c1000).val

/-- Both converters of a pair have completed: the comparison (R355). -/
def State.pairCompare (s : State) (p : Nat) (a b : Word × Bool) : State :=
  let d := (fSub a.1 b.1).val
  let s := (s.put F.ADC_CHK_STAT_V_EVEN (fScaled (fMag a.1) 10000 1).toNat p).put F.ADC_CHK_STAT_V_ODD (fScaled (fMag b.1) 10000 1).toNat p
  let s := (s.inc F.ADC_CHK_CNT_CHECKS 1 p).put F.ADC_CHK_CNT_RUN 0 p
  let s := { s with adc := { s.adc with open_ := putAt false s.adc.open_ p false, diff := putAt 0 s.adc.diff p (fMag d) } }
  let s := if fLt (fOfNat (s.get F.ADC_CHK_CFG_TOL p)) (milli (fMag d)) then (s.plSet (2 * p) F.ADC_FLT_PL_DIFF).plSet (2 * p + 1) F.ADC_FLT_PL_DIFF else s
  let out (x : Word × Bool) : Bool :=
    x.2 || fLt (fOfNat (s.get F.ADC_CHK_WIN_WIN p)) (fMag (fSub (milli x.1) (fOfNat (s.get F.ADC_CHK_WIN_EXP p))).val)
  let s := if out a then s.plSet (2 * p) F.ADC_FLT_PL_ABS else s
  if out b then s.plSet (2 * p + 1) F.ADC_FLT_PL_ABS else s

/-- All 8 conversions of a check are done: their mean as a voltage, with the DIRECT gain-1 values (R355), and the comparison once
both converters of the pair have completed. The converter powers down. -/
def State.checkEnd (s : State) (k : Nat) : State :=
  let c := s.conv k
  let x : AdcCfg := ⟨0, 0, 7, 7, 2, 0, 0⟩
  let v := s.adcX k x (s.adcM k x (fOfRat c.pass.sum 8))
  let s := s.setConv k { c.rest c.cyc with n := 0, pass := {}, rep := false, lastOvr := false, chkDone := some (v, c.pass.novr != 0) }
  let s := (s.setAdcState k Adc.idle).put F.ADC_EVT_CHK_DONE 1 k
  let p := k / 2
  if s.adc.open_.getD p false then
    match (s.conv (2 * p)).chkDone, (s.conv (2 * p + 1)).chkDone with
    | some a, some b => s.pairCompare p a b
    | _, _ => s
  else s

/-- A conversion of a check ends (R354). Over-range it sets OVR and its code is clamped (R350); ADC_OVR_LAST names entries and
pins of the mux, and the check pin is neither (log entry 130). -/
def State.checkConv (s : State) (k code : Nat) (ovr : Option Bool) : State :=
  if s.adcState k != Adc.check then s
  else
    let c := s.conv k
    let t := c.cyc + 88
    let s := s.reach ((t + 31) / 32)
    let c := { c with cyc := t }
    if c.rep then (s.setConv k { c with rep := false, lastOvr := false }).inc F.ADC_CNT2_DISC 1 k
    else
      let code := match ovr with | some high => if high then 4095 else 0 | none => code % 4096
      let s := s.setConv k { c with
        n := c.n + 1, lastOvr := ovr.isSome, pass := { c.pass with sum := c.pass.sum + code, novr := c.pass.novr + b2n ovr.isSome } }
      let s := s.putIf ovr.isSome F.ADC_FLT_OVR 1 k
      if 8 ≤ c.n + 1 then s.checkEnd k else s

/-- A conversion ends, of an entry or of a check. -/
def State.convEnd (s : State) (k code : Nat) (ovr : Option Bool) : State :=
  if s.adcState k = Adc.check then s.checkConv k code ovr else s.entryConv k code ovr

def execAdcConversionEnd (k : Fin 4) (code : Nat) (ovr : Option Bool) (s : State) : Out := .next (s.pdDo (fun s => s.convEnd k.val code ovr))

/-- The conversions that a check still has to make end one after another. -/
def State.checkComplete (s : State) (k : Nat) (codes : List (Nat × Option Bool)) : State :=
  s.each codes (fun x s => s.checkConv k x.1 x.2)

def execAdcCheckComplete (k : Fin 4) (codes : List (Nat × Option Bool)) (s : State) : Out := .next (s.pdDo (fun s => s.checkComplete k.val codes))

/-- A check period of a pair ends at a tick with F mod PER = 0, and the next begins (R354, R355). -/
def State.pairTick (s : State) (p : Nat) : State :=
  let per := s.get F.ADC_CHK_CFG_PER p
  let on := s.bit F.ADC_CHK_CFG_EN p && s.bit F.ADC_CTRL_EN (2 * p) && s.bit F.ADC_CTRL_EN (2 * p + 1)
  if per = 0 || s.frame % per != 0 then s
  else
    let s :=
      if s.adc.open_.getD p false then
        let run := s.get F.ADC_CHK_CNT_RUN p + 1
        let s := s.inc F.ADC_CHK_CNT_SKIPS 1 p
        if 16 ≤ run then
          (s.put F.ADC_CHK_CNT_RUN 0 p).each ([2 * p, 2 * p + 1].filter (fun k => (s.conv k).chkDone.isNone)) (fun k s => s.plSet k F.ADC_FLT_PL_STARVED)
        else s.put F.ADC_CHK_CNT_RUN run p
      else s
    let s := { s with adc := { s.adc with open_ := putAt false s.adc.open_ p on } }
    s.each [2 * p, 2 * p + 1] (fun k s => s.setConv k { s.conv k with chkDue := on, chkDone := none })

/-- The device tick reaches the power die (R345): snapshots, then checks. -/
def State.pdTick (s : State) : State :=
  if !s.pdReach then s else (s.each (List.range 4) (fun k s => s.snapConv k)).each [0, 1] (fun p s => s.pairTick p)

/-! ### Timers, function reset, registers (R357, R359 to R372) -/

/-- A timer reaches the end of its period (R370). -/
def execAdcTimerExpiry (t : Fin 4) (s : State) : Out :=
  .next (if s.bit F.ADC_TMR_EN t.val then
      let s := s.reach (s.adc.tmrAt.getD t.val 0 + s.get F.ADC_TMR_PERIOD t.val)
      ({ s with adc := { s.adc with tmrAt := putAt 0 s.adc.tmrAt t.val s.now } }).adcTrigger (9 + t.val) true
    else s)

/-- Running work of a converter is dropped (R342, R357): it goes to OFF or IDLE. -/
def State.adcStop (s : State) (k : Nat) : State :=
  let c := s.conv k
  let c := if s.adcState k = Adc.off || s.adcState k = Adc.idle then c else c.rest (32 * s.now)
  let s := s.setConv k { c.drop with rep := false, lastOvr := false }
  let s := s.setWord (R.ADC_STAT.at k) 0
  s.setAdcState k (if s.bit F.ADC_CTRL_EN k then Adc.idle else Adc.off)

/-- FUNC_RST of a converter (R357). -/
def State.adcFuncRst (s : State) (k : Nat) : State :=
  let s := s.adcStop k
  let s := s.setConv k { s.conv k with acc := [], lsum := [], lmean := [], fifo := [], chkDue := false, chkDone := none, last := none }
  let s := ((s.setWord (R.ADC_FLT.at k) 0).setWord (R.ADC_EVT.at k) 0).setWord (R.ADC_CNT.at k) 0
  let s := (s.setWord (R.ADC_CNT2.at k) 0).setWord (R.ADC_OVR_LAST.at k) 0
  s.put F.ADC_CHK_CNT_RUN 0 (k / 2)

/-- A write of ADC_CTRL (R335, R338, R342). -/
def State.adcCtrlWrite (s : State) (w : Who) (k : Nat) (data : Word) : State :=
  s.cfgWrite w (R.ADC_CTRL.at k) data (fun x => if s.seqOk k x then Res.applied else Res.refConfig)
    (fun old new s =>
      if F.ADC_CTRL_EN.of old = F.ADC_CTRL_EN.of new then s else s.adcStop k)

/-- A write that would leave an entry of LEN or ULEN invalid is refused (R335). -/
def State.adcEntWrite (s : State) (w : Who) (k a : Nat) (data : Word) : State :=
  s.cfgWrite w a data (fun x => if (s.setWord a x).seqOk k (s.word (R.ADC_CTRL.at k)) then Res.applied else Res.refConfig)

/-- A write of an ADC register while the link is up (R359). -/
def State.adcWrite (s : State) (w : Who) (a : Nat) (data : Word) : State :=
  let k := (a - 0x1B0000) / 0x1000
  if !s.pdReach then s.dropWrite w a data
  else if w.tenant != 0 then s.refuseWrite w a data Res.refRights
  else if R.ADC_CTRL.hit a then s.adcCtrlWrite w k data
  else if R.ADC_START.hit a then s.adcStartWrite w k data
  else if R.ADC_PIN.hit a || R.ADC_ENT.hit a || R.ADC_UENT.hit a then s.adcEntWrite w k a data
  else if R.ADC_FLT.hit a then
    if data &&& 0x38 != 0 then s.clearWrite w a data (fun _ _ s => s) else s.flagWrite a data
  else if R.ADC_TMR.hit a then
    s.cfgWrite w a data (fun _ => Res.applied) (fun old new s =>
      if F.ADC_TMR_EN.of new = 1 && old != new then { s with adc := { s.adc with tmrAt := putAt 0 s.adc.tmrAt (R.ADC_TMR.idx a) s.now } } else s)
  else s.kindWrite w a data

def execAdcCtrlWrite (p : Path) (k : Fin 4) (data : Word) (s : State) : Out :=
  .next (s.byPath p (fun w s => s.adcWrite w (R.ADC_CTRL.at k.val) data))

end Sys2Proof.Machine
end

