-- ==== Sys2Proof/Machine/CampusOps.lean ====
section
/-! DEFINITION. The island fragment (R539), reachability (R549), routing (R540) and the origination of Brynum Link messages
(R496, R498, R514): what every block that sends a message uses. -/

namespace Sys2Proof.Machine

/-- Message types (R497, R533). -/
def MT.hello : Nat := 0x01
def MT.topo : Nat := 0x02
def MT.islandAdv : Nat := 0x03
def MT.campusMap : Nat := 0x04
def MT.pub : Nat := 0x10
def MT.subscribe : Nat := 0x11
def MT.subAck : Nat := 0x12
def MT.unsubscribe : Nat := 0x13
def MT.rwrite : Nat := 0x20
def MT.rwriteResult : Nat := 0x21
def MT.mirror : Nat := 0x30
def MT.mirrorAck : Nat := 0x31
def MT.beacon : Nat := 0x40
def MT.delayReq : Nat := 0x41
def MT.delayResp : Nat := 0x42

/-- The transmit class of a type (R514), 1 first. -/
def MT.cls (t : Nat) : Nat :=
  if t ≤ 0x0F || 0x40 ≤ t then 1 else if t = MT.pub then 3 else if 0x30 ≤ t then 4 else 2

def State.strait (s : State) (p : Nat) : Strait := s.isl.straits.getD p {}

def State.setStrait (s : State) (p : Nat) (x : Strait) : State :=
  let fld := if p = 0 then F.CL_FORM_STAT_S0 else F.CL_FORM_STAT_S1
  { s.put fld x.st with isl := { s.isl with straits := putAt {} s.isl.straits p x } }

def State.selfMember (s : State) : Nat := s.get F.SYS_STRAPS_MEMBER
def State.selfIsland (s : State) : Nat := s.get F.SYS_STRAPS_ISLAND
def State.masterPri (s : State) : Nat := s.get F.SYS_STRAPS_MASTERPRI

/-- The member's latest TOPO, kept for 300 ms (R539). -/
def State.topoOf (s : State) (m : Nat) : Option Topo :=
  match s.isl.topo.lookup m with
  | some t => if s.now ≤ t.at_ + 300000 then some t else none
  | none => none

/-- The member that member a's Strait on port x names as UP (R539): own state for the device itself, the latest TOPO for
another. -/
def State.neigh (s : State) (a x : Nat) : Option Nat :=
  if a = s.selfMember then
    let st := s.strait x
    if st.st = 2 then some (st.src % 32) else none
  else
    match s.topoOf a with
    | some t =>
      let n := if x = 0 then t.n0 else t.n1
      if n = 0xFFFF then none else some (n % 32)
    | none => none

/-- One step of the walk from a across its port x (R539), through a pass-through where there is one: a device that sends no TOPO and
that the members on both sides name. The TOPO kept under the ID of an ISOLATED one can come from the established member with the
same ID, which then names other neighbours (R538; log entry 158). -/
def State.walkStep (s : State) (a x : Nat) : Option Nat :=
  match s.neigh a x with
  | none => none
  | some b =>
    if s.neigh b (1 - x) = some a then some b
    else if b != s.selfMember && (s.topoOf b).isNone then
      (List.range 32).find? (fun c => c != a && s.neigh c (1 - x) == some b)
    else if (s.neigh b 0).isSome || (s.neigh b 1).isSome then
      (List.range 32).find? (fun c => c != a && s.neigh c (1 - x) == some b && s.neigh b x != some c)
    else none

/-- The members reached from the device across port x, in order; the flag says the walk came back to the device. -/
def State.walk (s : State) (x : Nat) : Nat → Nat → List Nat × Bool
  | 0, _ => ([], false)
  | n + 1, a =>
    match s.walkStep a x with
    | none => ([], false)
    | some b => if b = s.selfMember then ([], true) else let r := s.walk x n b; (b :: r.1, r.2)

/-- The walks across UL0 and UL1 (R539). -/
def State.walkUl (s : State) (x : Nat) : List Nat × Bool := s.walk x 32 s.selfMember

/-- The ring is closed when the walks meet (R539). -/
def State.ringClosed (s : State) : Bool := (s.walkUl 1).2

/-- The members of the fragment as a mask (R534, R539): an ISOLATED device is a member of none. -/
def State.fragment (s : State) : Nat :=
  if s.bit F.CL_FORM_STAT_ISOLATED then 0
  else (s.selfMember :: ((s.walkUl 0).1 ++ (s.walkUl 1).1)).foldl (fun m x => m ||| 2 ^ (x % 32)) 0

def State.inFragment (s : State) (dev : Nat) : Bool :=
  dev / 32 == s.selfIsland && s.fragment.testBit (dev % 32)

/-- A device ID is reachable while it lies in the own fragment or in the map held (R549). -/
def State.reachable (s : State) (dev : Nat) : Bool :=
  s.inFragment dev ||
    (match s.isl.map with
     | some m => m.frags.any (fun f => f.1 / 32 == dev / 32 && f.2.testBit (dev % 32))
     | none => false)

/-- STATE, MASTERPRI of a member of the fragment as its TOPO reports it; the device's own for itself. -/
def State.memberRole (s : State) (m : Nat) : Nat × Nat :=
  if m = s.selfMember then
    (b2n (s.bit F.CL_FORM_STAT_ISOLATED) + 2 * b2n (s.bit F.CL_FORM_STAT_ESTABLISHED)
      + 4 * b2n (s.bit F.SYS_ROLE_ISLAND_MASTER) + 8 * b2n (s.bit F.SYS_ROLE_CAMPUS_MASTER), s.masterPri)
  else match s.topoOf m with | some t => (t.state, t.pri) | none => (0, 0)

def State.fragMembers (s : State) : List Nat := (List.range 32).filter (fun m => s.fragment.testBit m)

/-- The better-ranked of two candidates: higher MASTERPRI, then lower number (R542, R547). -/
def betterRank (pa a pb b : Nat) : Bool := pb < pa || (pa == pb && a < b)

/-- The best-ranked of the members that satisfy a test. -/
def State.bestMember (s : State) (p : Nat → Bool) : Option Nat :=
  (s.fragMembers.filter p).foldl (fun best m =>
    match best with
    | none => some m
    | some b => if betterRank (s.memberRole m).2 m (s.memberRole b).2 b then some m else some b) none

/-- The fragment's island master: the best-ranked member that reports the role (R542). -/
def State.islandMaster (s : State) : Option Nat :=
  (s.bestMember (fun m => (s.memberRole m).1.testBit 2)).map (fun m => 32 * s.selfIsland + m)

/-- The candidates of R542: not ISOLATED and MASTERPRI not 0. -/
def State.candidate (s : State) (m : Nat) : Bool := (s.memberRole m).2 != 0 && !(s.memberRole m).1.testBit 0

/-- The Strait port toward a member of the fragment: fewer hops, equal counts on UL1 in a closed ring (R540). -/
def State.straitTo (s : State) (m : Nat) : List Nat :=
  let i0 := (s.walkUl 0).1.idxOf? m
  let i1 := (s.walkUl 1).1.idxOf? m
  match i0, i1 with
  | some a, some b => if a < b then [0] else [1]
  | some _, none => [0]
  | none, some _ => [1]
  | none, none => []

def State.upStraits (s : State) : List Nat := [0, 1].filter (fun p => (s.strait p).st == 2)

/-- The ports a message to DST leaves by (R540). 0xFFFD is sent on the ports its sender names. -/
def State.route (s : State) (dst : Nat) : List Nat :=
  if dst = s.deviceId then []
  else if dst = 0xFFFE then s.upStraits
  else if dst = 0xFFFF then s.upStraits ++ (if s.bit F.SYS_ROLE_ISLAND_MASTER then [2] else [])
  else if s.inFragment dst then s.straitTo (dst % 32)
  else if s.reachable dst then
    if s.bit F.SYS_ROLE_ISLAND_MASTER then [2]
    else match s.islandMaster with | some im => s.straitTo (im % 32) | none => []
  else []

/-! ### IPv6 addresses (R494) -/

/-- The MAC address of a port, byte 0 most significant (R526). -/
def State.portMac (s : State) (p : Nat) : Nat :=
  s.get F.CL_PORT_MAC_HI_MAC p % 65536 * 2 ^ 32 + s.get F.CL_PORT_MAC_LO_MAC p

/-- Detection state of address k of a port (R494, R545): 0 none, 1 running, 2 used, 3 withdrawn, 4 running with a conflict. -/
def State.dadOf (s : State) (p k : Nat) : Nat := Tab.get (fun _ => 0) s.cl.dad (2 * p + k)

def State.setDad (s : State) (p k v : Nat) : State := { s with cl := { s.cl with dad := Tab.set (fun _ => 0) s.cl.dad (2 * p + k) v } }

/-- The link-local address of a port: modified EUI-64 from its MAC address (R494). -/
def State.linkLocal (s : State) (p : Nat) : Nat :=
  let m := s.portMac p
  let b := (List.range 6).map (fun i => m / 2 ^ (8 * (5 - i)) % 256)
  let eui := [b.getD 0 0 ^^^ 2, b.getD 1 0, b.getD 2 0, 0xFF, 0xFE, b.getD 3 0, b.getD 4 0, b.getD 5 0]
  0xFE80 * 2 ^ 112 + eui.foldl (fun x y => x * 256 + y) 0

/-- The configured address of a port, 0 for none (R494, R526). -/
def State.cfgAddr (s : State) (p : Nat) : Nat :=
  [s.get F.CL_PORT_ADDR0_ADDR p, s.get F.CL_PORT_ADDR1_ADDR p, s.get F.CL_PORT_ADDR2_ADDR p, s.get F.CL_PORT_ADDR3_ADDR p].foldl
    (fun x y => x * 2 ^ 32 + y) 0

def State.addrOf (s : State) (p k : Nat) : Nat := if k = 0 then s.linkLocal p else s.cfgAddr p

/-- An address is used, also while its detection runs, until a conflict is found (R494, R545). -/
def State.addrUsed (s : State) (p k : Nat) : Bool := (s.dadOf p k == 1 || s.dadOf p k == 2) && s.addrOf p k != 0

/-- Addresses of a port that it uses. -/
def State.addrsInUse (s : State) (p : Nat) : List Nat := ([0, 1].filter (s.addrUsed p)).map (s.addrOf p)

/-- The address that Brynum Link datagrams of a port come from (R494, R495): the link-local one on a Strait, the configured one
on BB; none while that address is not used. -/
def State.srcAddr (s : State) (p : Nat) : Option Nat :=
  let k := if p = 2 then 1 else 0
  if s.addrUsed p k then some (s.addrOf p k) else none

/-- ff02::1 (R495). -/
def allNodes : Nat := 0xFF020000000000000000000000000001

/-- The solicited-node multicast address of an address, and an IPv6 multicast address's MAC. -/
def solicited (a : Nat) : Nat := 0xFF0200000000000000000001FF000000 + a % 2 ^ 24
def mcastMac (a : Nat) : Nat := 0x333300000000 + a % 2 ^ 32

/-- Every packet sent has this hop limit (R494). -/
def hopLimit : Nat := 255

/-- The bits an ICMPv6 packet takes on the wire: frame, IPv6 header and gap, and the message with its options (R494, RFC 4443,
RFC 4861). -/
def IcmpTx.bits (m : IcmpTx) : Nat :=
  8 * (78 + (if m.typ = 129 then 4 + m.body.length else if m.typ = 136 || m.src != 0 then 32 else 24))

/-- Bits put on the wire of a port at a time count towards its load of the last second (R558). -/
def loadPut (now : Nat) (l : List (List (Nat × Nat))) (p bits : Nat) : List (List (Nat × Nat)) :=
  putAt [] l p ((now, bits) :: (l.getD p []).filter (fun (e : Nat × Nat) => now < e.1 + 1000000))

def State.icmpOut (s : State) (l : List IcmpTx) : State :=
  { s with cl := { s.cl with icmpTx := l, load := l.foldl (fun x m => loadPut s.now x m.port m.bits) s.cl.load } }

/-! ### Origination -/

/-- Put a message in its class queue on the ports given (R514). Messages of the device's own never drop for want of space. -/
def State.enqueue (s : State) (ports : List Nat) (m : OutMsg) : State :=
  { s with cl := { s.cl with queues := ports.foldl (fun q p => putAt [] q p (q.getD p [] ++ [m])) s.cl.queues } }

/-- A message of the device's own takes its route (R540). While a reachable device has none, as a far island has none without
an island master, the message waits for one (R514). -/
def State.place (s : State) (m : OutMsg) : State :=
  if (s.route m.dst).isEmpty && m.dst < 1024 && m.dst != s.deviceId && s.reachable m.dst then
    { s with cl := { s.cl with held := s.cl.held ++ [m] } }
  else s.enqueue (s.route m.dst) m

/-- A message of the device's own takes the next number of its order of origin. -/
def State.nextMsgId (s : State) : State := { s with cl := { s.cl with nextId := s.cl.nextId + 1 } }

/-- A message of the device's own before it is built. -/
def State.ownMsg (s : State) (typ dst tenant gen : Nat) (body : List Byte) (lead : Nat := 0) : OutMsg :=
  { id := s.cl.nextId, cls := MT.cls typ, typ := typ, dst := dst, tenant := tenant, gen := gen, body := body, lead := lead }

/-- The device originates a message (R496, R514) on the given ports; an ISOLATED device originates only HELLO (R538). `lead` is
that of a scheduled message (R516, R517). -/
def State.sendOn (s : State) (ports : List Nat) (typ dst tenant gen : Nat) (body : List Byte) (lead : Nat := 0) : State :=
  if s.bit F.CL_FORM_STAT_ISOLATED && typ != MT.hello then s
  else (s.enqueue ports (s.ownMsg typ dst tenant gen body lead)).nextMsgId

/-- The device originates a message under the routing of R540. -/
def State.send (s : State) (typ dst tenant gen : Nat) (body : List Byte) : State :=
  if s.bit F.CL_FORM_STAT_ISOLATED then s else (s.place (s.ownMsg typ dst tenant gen body)).nextMsgId

/-- An answer to a device that is not reachable is not sent, and counts (R540). -/
def State.answer (s : State) (typ dst tenant gen : Nat) (body : List Byte) : State :=
  if s.reachable dst then s.send typ dst tenant gen body else s.inc F.CL_FORM_CNT2_NOROUTE

/-- UNSUBSCRIBE of a far CPID (R506). -/
def State.sendUnsub (s : State) (cpid tenant : Nat) : State :=
  s.send MT.unsubscribe (cpid / 32768 % 1024) tenant (s.gen tenant) (beBytes 2 (cpid % 32768) ++ beBytes 2 0)

/-- The downstream neighbour of R543: while UL1 is UP, the member reached through it, past any pass-through. -/
def State.downstream (s : State) : Option Nat :=
  if (s.strait 1).st = 2 then (s.walkUl 1).1.head?.map (fun m => 32 * s.selfIsland + m)
  else
    let o := s.isl.order
    match o.idxOf? s.selfMember with
    | none => none
    | some i => (((o.drop (i + 1) ++ o.take i).find? (fun m => s.fragment.testBit m && m != s.selfMember))).map (fun m => 32 * s.selfIsland + m)

/-- SUB_IN entries of the points of a tenant (R619). -/
def State.subInUsed (s : State) (t : Nat) : Nat := (s.subIn.filter (fun e => s.ptTenant e.1 == t)).length

/-- SUB_OUT entries made for a tenant (R619). -/
def State.subOutUsed (s : State) (t : Nat) : Nat := (s.subOut.filter (fun e => e.2.tenant == t)).length

/-- The entry count of each subscription table (R3). -/
def maxSubs : Nat := 8192

/-- Free a point's SUB_IN entry; UNSUBSCRIBE when no other local binding names the old CPID (R502, R506). -/
def State.subInFree (s : State) (i : Nat) : State :=
  match s.subIn.lookup i with
  | none => s
  | some e =>
    let s := { s with subIn := Tab.del i s.subIn }
    if s.subIn.any (fun x => x.2.cpid == e.cpid) then s else s.sendUnsub e.cpid (s.ptTenant i)

/-- Take a SUB_IN entry for a REMOTE binding (R77): not established, due for its SUBSCRIBE. -/
def State.subInTake (s : State) (i cpid : Nat) : State :=
  { s with subIn := Tab.put i ⟨cpid, 0, none, s.now, false, false⟩ s.subIn }

/-- Free every SUB_OUT entry of a point (R86, R502). -/
def State.subOutFreePoint (s : State) (i : Nat) : State :=
  { s with subOut := s.subOut.filter (fun e => e.1 % 32768 != i) }

end Sys2Proof.Machine
end

