-- ==== Sys2Proof/Machine/AuditLog.lean ====
section
/-! DEFINITION. The log store and the mirror (chapter "Audit trail and log store"). Records, the ring's admission and SEQ
stand in Ops. The card's blocks are plain data; a block nothing has written reads as zeros (log entry 22). -/

namespace Sys2Proof.Machine

/-- STORE codes of R594. -/
def Store.absent : Nat := 0
def Store.ready : Nat := 1
def Store.fault : Nat := 2
def Store.unformatted : Nat := 3
def Store.formatting : Nat := 4

def State.store (s : State) : Nat := s.get F.LOG_STAT_STORE

/-- A block of the card. -/
def State.blk (s : State) (b : Nat) : List Byte := Tab.get (fun _ => []) s.log.store b

def State.setBlk (s : State) (b : Nat) (x : List Byte) : State := { s with log := { s.log with store := Tab.put b x s.log.store } }

/-- The number in n bytes from byte o on. -/
def fieldOf (l : List Byte) (o n : Nat) : Nat := leVal ((l.drop o).take n)

/-- A list of bytes cut or filled with zeros to n. -/
def padTo (n : Nat) (l : List Byte) : List Byte := (l ++ List.replicate (n - l.length) 0).take n

/-- The first 508 bytes of a block and their CRC-32 (R576, R577, R588). -/
def sealBlk (l : List Byte) : List Byte := let b := padTo 508 l; b ++ leBytes 4 (crc32 b)

def blkCrcOk (l : List Byte) : Bool := l.length == 512 && fieldOf l 508 4 == crc32 (l.take 508)

/-! ### Layout and regions (R576, R579, R581) -/

/-- The layout block for base and size in MiB of each region. -/
def layoutBlk (r : List (Nat × Nat)) : List Byte :=
  sealBlk (leBytes 4 0x484C4F47 ++ leBytes 4 1 ++ (r.map (fun e => leBytes 4 e.1 ++ leBytes 4 e.2)).flatten)

def layoutOk (l : List Byte) : Bool := blkCrcOk l && fieldOf l 0 4 == 0x484C4F47 && fieldOf l 4 4 == 1

/-- The first block of a region, and its number of blocks. -/
def State.regFirst (s : State) (r : Nat) : Nat := 2048 * s.get F.LOG_REG_BASE_MIB r
def State.regBlocks (s : State) (r : Nat) : Nat := 2048 * s.get F.LOG_REG_SIZE_MIB r
def State.inRegion (s : State) (r b : Nat) : Bool := s.regFirst r ≤ b && b < s.regFirst r + s.regBlocks r

/-- The block after b in its region (R579). -/
def State.regNext (s : State) (r b : Nat) : Nat := if b + 1 < s.regFirst r + s.regBlocks r then b + 1 else s.regFirst r

/-- What tells the newest block of a region: SEQ of slot 0, the time of the write, the time of the last sample. -/
def blkAge (r : Nat) (l : List Byte) : Nat :=
  if r = 1 then fieldOf l 480 8 else if r = 2 then fieldOf l 496 8 else fieldOf l (16 * (fieldOf l 496 2 - 1)) 8

/-- The written blocks of a region. -/
def State.regHeld (s : State) (r : Nat) : List (Nat × List Byte) := s.log.store.filter (fun e => s.inRegion r e.1 && blkCrcOk e.2)

/-- The block a region writes next, found from the trailers (R579). -/
def State.regFind (s : State) (r : Nat) : Nat :=
  match (s.regHeld r).foldl (fun (b : Option (Nat × List Byte)) e =>
      match b with
      | none => some e
      | some x => if blkAge r x.2 < blkAge r e.2 then some e else some x) none with
  | none => s.regFirst r
  | some e => s.regNext r e.1

/-- The records of an AUDIT or MIRROR block, each with its SEQ. -/
def blkRecs (l : List Byte) : List (Nat × List Byte) :=
  (List.range (fieldOf l 488 1)).map (fun i => (fieldOf l (48 * i) 8, (l.drop (48 * i)).take 48))

/-- The records of the AUDIT region, in SEQ order. -/
def State.auditHeld (s : State) : List (Nat × List Byte) :=
  (((s.regHeld 1).map (fun e => blkRecs e.2)).flatten).mergeSort (fun a b => a.1 ≤ b.1)

/-- S of R582: the highest SEQ in the AUDIT region. -/
def State.auditTop (s : State) : Nat := (s.auditHeld.map (·.1)).foldl Nat.max 0

/-- LOG_OLDEST (R579); 0 while the block that will be overwritten holds no records. -/
def State.logOldest (s : State) : Nat :=
  let b := s.blk (s.get F.LOG_REG_WP_BLOCK 1)
  if blkCrcOk b then fieldOf b 480 8 else 0

/-- The FW region can be read (R695): within 250 ms of the end of boot, and before any message has left, the epoch takes account of
the copy there; later firmware only writes the copy (log entry 155). -/
def State.epochRead (s : State) : State :=
  if !s.cl.epochDue then s
  else
    let e := s.get F.CL_EPOCH_EPOCH
    let soon := (match s.boot.endAt with | some t => decide (s.now ≤ t + 250000) | none => true) && s.cl.seq = 0
    let e := if soon && e ≤ s.cl.epochCopy then s.cl.epochCopy + 1 else e
    let s := (s.put F.CL_EPOCH_EPOCH e).put F.AON_EPOCH_EPOCH e
    { s with cl := { s.cl with epochCopy := e, epochDue := false } }

/-- The log engine has read the layout block: READY with every region's next block found, or UNFORMATTED (R579, R580). -/
def State.logLoad (s : State) : State :=
  let l := s.blk 0
  if layoutOk l then
    let s := s.each [0, 1, 2, 3] (fun r s => (s.put F.LOG_REG_BASE_MIB (fieldOf l (8 + 8 * r) 4) r).put F.LOG_REG_SIZE_MIB (fieldOf l (12 + 8 * r) 4) r)
    let s := s.each [1, 2, 3] (fun r s => s.put F.LOG_REG_WP_BLOCK (s.regFind r) r)
    let s := { s.put F.LOG_STAT_STORE Store.ready with log := { s.log with committed := Nat.max s.log.committed s.auditTop } }
    s.logCut.epochRead
  else s.put F.LOG_STAT_STORE Store.unformatted

/-! ### The ring empties (R571, R573, R574) -/

/-- Seconds since a time, as a record carries them. -/
def State.durSec (s : State) (since : Nat) : Nat := Nat.min ((s.now - since) / 1000000) 0xFFFF

/-- A LOSS or REFUSED_SUM record (R567). -/
def State.sumRec (s : State) (kind n since : Nat) : AuditRec :=
  let r := s.recOf Who.internal { ttype := 3, new := Word.ofN n } kind Res.applied
  { r with aux := r.aux % 65536 + 65536 * s.durSec since }

/-- Places are free again: the LOSS record (R573), and FULL clears with its REFUSED_SUM (R574). -/
def State.ringFreed (s : State) : State :=
  let s := if s.log.lostCount != 0 && s.log.ring.length < ringSize then
      let r := s.sumRec 3 s.log.lostCount s.log.lostSince
      ({ s with log := { s.log with lostCount := 0 } }).auditRec r
    else s
  if s.bit F.LOG_STAT_FULL && s.log.ring.length < 256 then
    let r := s.sumRec 4 s.log.refCount s.log.fullSince
    let s := s.put F.LOG_STAT_FULL 0
    ({ s with log := { s.log with refCount := 0 } }).auditRec r
  else s

/-- The first n records leave the ring. -/
def State.ringDrop (s : State) (n : Nat) : State :=
  ({ s with log := { s.log with ring := s.log.ring.drop n, ringAt := s.log.ringAt.drop n } }).ringFreed

/-- While the store is not READY, records that a neighbour has acknowledged leave (R571). -/
def State.ringTrim (s : State) : State :=
  if s.store = Store.ready then s
  else
    let n := (s.log.ring.takeWhile (fun r => r.seq ≤ s.log.mirrored)).length
    if n = 0 then s else s.ringDrop n

/-! ### Boot (R582) -/

/-- Next SEQ, and the GAP record's first, last and cause: the table of R582. -/
def logDecide (aValid : Bool) (a s : Nat) (holds unread : Bool) : Nat × Option (Nat × Nat × Nat) :=
  if holds then
    if !aValid then (s + 2, some (s + 1, s + 1, 3))
    else if a = s then (a + 1, none)
    else if s < a then (a + 1, some (s + 1, a, 1))
    else (s + 2, some (s + 1, s + 1, 2))
  else
    match aValid, unread with
    | true, false => (a + 2, some (a + 1, a + 1, 4))
    | false, false => (2, some (1, 1, 5))
    | true, true => (a + 2, some (a + 1, a + 1, 6))
    | false, true => (2, some (1, 1, 7))

/-- A number held in a pair of registers. -/
def State.pair (s : State) (lo hi : Reg) : Nat := (s.word (lo.at)).toNat + 2 ^ 32 * (s.word (hi.at)).toNat

def State.setPair (s : State) (lo hi : Reg) (v : Nat) : State :=
  (s.setWord (lo.at) (Word.ofN v)).setWord (hi.at) (Word.ofN (v / 2 ^ 32))

/-- A GAP or MIRROR_GAP record (R567). -/
def State.gapRec (s : State) (kind first last cause : Nat) : AuditRec :=
  let r := s.recOf Who.internal { ttype := 3, target := first % 2 ^ 32, addr := first / 2 ^ 32, old := Word.ofN last, new := Word.ofN (last / 2 ^ 32) } kind Res.applied
  { r with aux := r.aux / 16 * 16 + cause }

/-- The first records of a boot enter the ring (R567, R582), and after them those made earlier in it. -/
def State.logBoot (s : State) (slot epoch : Nat) (aValid : Bool) : State :=
  let holds := s.store = Store.ready && !s.auditHeld.isEmpty
  let d := logDecide aValid (s.pair R.AON_LOG_SEQ_LO R.AON_LOG_SEQ_HI) s.auditTop holds (s.store = Store.fault)
  let s := s.put F.LOG_STAT_AON_VALID (b2n aValid)
  let mir := if aValid then s.pair R.AON_LOG_MIR_LO R.AON_LOG_MIR_HI else 0
  let s := { s with log := { s.log with nextSeq := d.1, mirrored := mir } }
  let s := s.aonSeq
  let boot := { s.recOf Who.boot { ttype := 3, old := Word.ofN slot, new := Word.ofN epoch } 6 Res.applied with tenant := 0 }
  let early := s.log.early
  let s := ({ s with log := { s.log with early := [] } }).auditRec boot
  let s := match d.2 with
    | none => s
    | some (f, l, c) => (s.auditRec (s.gapRec 2 f l c)).put F.LOG_EVT_GAP 1
  s.each early (fun r s => s.auditRec r)

/-! ### Blocks (R577, R578) -/

/-- When the oldest record, or the oldest sample, began to wait. -/
def State.waitSince (s : State) (trend : Bool) : Option Nat :=
  if trend then (s.log.trendAt.drop (s.log.trend.length - s.trendWaiting)).head? else (s.log.ringAt.drop (s.log.ring.length - s.ringWaiting)).head?

/-- The oldest waiting record, or sample, has waited FLUSH × 100 ms: its block falls due (R578, R588). -/
def State.logFlush (s : State) (trend : Bool) : State :=
  match s.waitSince trend with
  | none => s
  | some t =>
    if s.store != Store.ready then s
    else
      let s := s.reach (t + 100000 * s.get F.LOG_CTRL_FLUSH)
      s.logDue [if trend then { region := 3, m := Nat.min 31 s.trendWaiting } else { region := 1, n := Nat.min 10 s.ringWaiting }]

def execLogFlushTimeout (trend : Bool) (s : State) : Out := .next (s.logFlush trend)

/-- The engine issues the write of the next due block, one at a time (R578). -/
def State.blockIssue (s : State) : State :=
  match s.log.inFlight, s.log.due with
  | none, b :: t => ({ s with log := { s.log with inFlight := some b, due := t } }).logCut
  | _, _ => s

def execLogBlockWriteIssue (s : State) : Out := .next s.blockIssue

/-- The bytes of an AUDIT or MIRROR block (R577). -/
def auditBlk (recs : List Byte) (seq count region dev time : Nat) : List Byte :=
  sealBlk (padTo 480 recs ++ leBytes 8 seq ++ leBytes 1 count ++ leBytes 1 (region - 1) ++ leBytes 2 dev ++ leBytes 4 0 ++ leBytes 8 time)

def TrendSample.bytes (x : TrendSample) : List Byte :=
  leBytes 8 x.time ++ leBytes 2 x.point ++ leBytes 1 x.qual ++ leBytes 1 0 ++ leBytes 4 x.value.toNat

/-- The bytes of a TREND block (R588). -/
def trendBlk (l : List TrendSample) : List Byte :=
  sealBlk (padTo 496 (l.map TrendSample.bytes).flatten ++ leBytes 2 l.length)

/-- The bytes a block write puts on the card. -/
def State.blockBytes (s : State) (b : LogBlk) : List Byte :=
  if b.region = 1 then
    let l := s.log.ring.take b.n
    auditBlk (l.map AuditRec.bytes).flatten ((l.head?.map (·.seq)).getD 0) b.n 1 s.deviceId s.campus
  else if b.region = 2 then auditBlk b.data b.seq (b.data.length / 48) 2 b.src s.campus
  else trendBlk b.samples

/-- A region's next block is written, and its pointer moves on; a wrap of AUDIT is noted (R579). -/
def State.regWrite (s : State) (r : Nat) (x : List Byte) : State :=
  let b := s.get F.LOG_REG_WP_BLOCK r
  let n := s.regNext r b
  let s := (s.setBlk b x).put F.LOG_REG_WP_BLOCK n r
  if r = 1 && n ≤ b then (s.put F.LOG_EVT_WRAP 1).inc F.LOG_CNT2_WRAPS else s

/-- MIRROR_ACK: NEXT and STATUS (R584). -/
def State.mirrorAnswer (s : State) (dst next status : Nat) : State :=
  s.answer MT.mirrorAck dst 0 (s.gen 0) (beBytes 8 next ++ beBytes 1 status ++ List.replicate 7 0)

/-- Every record is committed: a power cycle that waits for it begins (R669, R583). -/
def State.cycleGo (s : State) : State :=
  if s.log.ring.isEmpty then { s with hb := { s.hb with pwrcyc := s.hb.pwrcyc.map (Nat.min s.now) } } else s

/-- The card completes a block write (R578): AUDIT records are committed and leave the ring; a MIRROR is answered (R586). -/
def State.blockCommit (s : State) : State :=
  match s.log.inFlight with
  | none => s
  | some b =>
    let x := s.blockBytes b
    let s := { s with log := { s.log with inFlight := none } }
    let s := s.regWrite b.region x
    let s :=
      if b.region = 1 then
        let top := ((s.log.ring.take b.n).getLast?.map (·.seq)).getD s.log.committed
        (({ s with log := { s.log with committed := top } }).ringDrop b.n).cycleGo
      else if b.region = 2 then
        let s := { s with log := { s.log with expect := Tab.set (fun _ => 0) s.log.expect (b.src % 32) b.next } }
        s.each (List.range (b.acks + 1)) (fun _ s => s.mirrorAnswer b.src b.next 0)
      else s
    s.logCut

def execLogBlockCommit (s : State) : Out := .next s.blockCommit

/-- Block writes in the FIFO and in progress are given up: their records are still in the ring (R721). Records of a MIRROR are
then not stored, and E(m) has not passed them (R586). -/
def State.logForget (s : State) : State := { s with log := { s.log with due := [], inFlight := none } }

/-- A card command has failed four times (R580): tenant 0's error record carries the bit of LOG_EVT.STORE and no FIELDS. -/
def State.storeFail (s : State) : State :=
  if s.store = Store.absent then s
  else
    let s := s.logForget
    let s := ((s.put F.LOG_STAT_STORE Store.fault).put F.LOG_EVT_STORE 1).inc F.LOG_CNT2_STORE_ERR
    (s.postErr 0 0x07 F.LOG_EVT_STORE.lo []).ringTrim

def execLogCardCommandFail (s : State) : Out := .next s.storeFail

/-- The engine has initialised the card (R579): its capacity in MiB, none without one, and what it holds when it is another
card than before. -/
def State.storeReadyAt (s : State) (cap : Option Nat) (card : Option (List (Nat × List Byte))) : State :=
  let s := { s with log := { s.log with
    capMiB := cap.map (Nat.min (2 ^ 18)),
    store := match card with | some l => l.foldl (fun t (e : Nat × List Byte) => Tab.put (e.1 % 2 ^ 29) (padTo 512 e.2) t) [] | none => s.log.store } }
  match cap with
  | none => (s.put F.LOG_STAT_STORE Store.absent).ringTrim
  | some _ => s.logLoad

/-- Of a store in FAULT only a FUNC_RST of LOG initialises the card again (R580). -/
def execStoreReady (cap : Option Nat) (card : Option (List (Nat × List Byte))) (s : State) : Out :=
  .next (if s.store = Store.fault then s else s.storeReadyAt cap card)

/-! ### Format (R581) -/

/-- Sizes of the four regions in MiB, with TREND taking the rest; none when the rest is less than 1 MiB. -/
def State.fmtSizes (s : State) : Option (Nat × Nat × Nat × Nat) :=
  let f := s.get F.LOG_FMT_SIZE_FW
  let a := 64 * s.get F.LOG_FMT_SIZE_AUDIT
  let m := 64 * s.get F.LOG_FMT_SIZE2_MIRROR
  let cap := s.log.capMiB.getD 0
  if 1 ≤ f && 1 ≤ a && 1 + f + a + m + 1 ≤ cap then some (f, a, m, cap - 1 - f - a - m) else none

/-- Formatting begins: the layout block replaces everything on the card. -/
def State.formatStart (s : State) : State :=
  match s.fmtSizes with
  | none => s
  | some (f, a, m, t) =>
    let s := s.logForget
    let l := layoutBlk [(1, f), (1 + f, a), (1 + f + a, m), (1 + f + a + m, t)]
    { s.put F.LOG_STAT_STORE Store.formatting with log := { s.log with store := [(0, l)] } }

def State.logFormat (s : State) (w : Who) (data : Word) : State :=
  let a := R.LOG_FMT_CMD.at
  if w.tenant != 0 then s.refuseWrite w a data Res.refRights
  else if F.LOG_FMT_CMD_KEY.of data != 0xA5 then s.plainW Res.applied id
  else
    let ok := (s.store = Store.ready || s.store = Store.fault || s.store = Store.unformatted) && s.fmtSizes.isSome
    let res := if ok then Res.applied else Res.refConfig
    s.auditW w (Tgt.reg a 0 data) res (fun s => if ok then s.formatStart else s)

def execLogFormat (p : Path) (data : Word) (s : State) : Out := .next (s.byPath p (fun w s => s.logFormat w data))

/-- Formatting ends: the store resumes at the first block of each region. -/
def execLogFormatComplete (s : State) : Out := .next (if s.store = Store.formatting then s.logLoad else s)

/-! ### Reading the store (R590) -/

def rdBuf (k : Nat) : Nat := 0x1F0400 + 4 * k

/-- A write of LOG_RD_CMD (R590): GO starts a command, on the block named then, while none runs; a WRITE outside the FW region is
refused. -/
def State.logRdCmd (s : State) (w : Who) (data : Word) : State :=
  if w.tenant != 0 then s.refuseWrite w (R.LOG_RD_CMD.at) data Res.refRights
  else if F.LOG_RD_CMD_GO.of data = 0 || s.log.rd.isSome then s.plainW Res.applied id
  else
    let wr := F.LOG_RD_CMD_WRITE.of data = 1
    if wr && !s.inRegion 0 (s.get F.LOG_RD_BLK_BLOCK) then s.plainW Res.refConfig id
    else s.plainW Res.applied (fun s => { s.put F.LOG_RD_STAT_BUSY 1 with log := { s.log with rd := some (wr, s.get F.LOG_RD_BLK_BLOCK) } })

/-- The command with WRITE 0. -/
def execLogBlockRead (p : Path) (s : State) : Out := .next (s.byPath p (fun w s => s.logRdCmd w 1))

/-- The command with WRITE 1. -/
def execLogBlockWrite (p : Path) (s : State) : Out := .next (s.byPath p (fun w s => s.logRdCmd w 3))

/-- LOG_RD_BUF as bytes. -/
def State.rdBytes (s : State) : List Byte := ((List.range 128).map (fun k => leBytes 4 (s.word (rdBuf k)).toNat)).flatten

/-- A block has a trailer CRC: the layout block and those of the AUDIT, MIRROR and TREND regions. -/
def State.hasTrailer (s : State) (b : Nat) : Bool := b == 0 || s.inRegion 1 b || s.inRegion 2 b || s.inRegion 3 b

/-- The command ends (R590): `ok` is the card's answer; a failed card command also acts under R580. A store that is not READY is
used for nothing (R580). -/
def State.logRdDone (s : State) (ok : Bool) : State :=
  match s.log.rd with
  | none => s
  | some (wr, b) =>
    let good := ok && s.store = Store.ready
    let x := padTo 512 (s.blk b)
    let s := { s with log := { s.log with rd := none } }
    let s := ((s.put F.LOG_RD_STAT_BUSY 0).put F.LOG_EVT_READ 1).put F.LOG_RD_STAT_ERR (b2n !good)
    let s := s.put F.LOG_RD_STAT_CRC_BAD (b2n (good && !wr && s.hasTrailer b && !blkCrcOk x))
    if !good then (if ok then s else s.storeFail)
    else if wr then s.setBlk b s.rdBytes
    else s.each (List.range 128) (fun k s => s.setWord (rdBuf k) (Word.ofN (fieldOf x (4 * k) 4)))

def execLogRdComplete (ok : Bool) (s : State) : Out := .next (s.logRdDone ok)

/-! ### The mirror: sender (R585, R587) -/

def Mir.none : Nat := 0
def Mir.probing : Nat := 1
def Mir.active : Nat := 2
def Mir.noregion : Nat := 3

def State.mirState (s : State) : Nat := s.get F.LOG_MIR_STAT_STATE

def State.setMir (s : State) (x : Nat) : State :=
  if s.mirState = x then s else (s.put F.LOG_MIR_STAT_STATE x).put F.LOG_EVT_MIRROR 1

/-- A probe is due: after a change of neighbour, a boot or a FUNC_RST of LOG (R585). -/
def State.mirProbing (s : State) (t : Nat) : State :=
  let s := (s.setMir Mir.probing).put F.LOG_MIR_STAT_TARGET t
  { s with log := { s.log with probeDue := true, unacked := 0 } }

/-- The sender follows its downstream neighbour and LOG_CTRL.MIRROR (R587). -/
def State.mirrorCheck (s : State) (restart : Bool := false) : State :=
  match if s.bit F.LOG_CTRL_MIRROR then s.downstream else none with
  | none => { s.setMir Mir.none with log := { s.log with probeDue := false, unacked := 0 } }
  | some t =>
    if restart || s.mirState = Mir.none || s.get F.LOG_MIR_STAT_TARGET != t then s.mirProbing t else s

/-- MIRROR to the neighbour: FIRST, COUNT, RESYNC and the records (R584). -/
def State.mirrorOut (s : State) (first : Nat) (recs : List (List Byte)) (resync : Bool) : State :=
  s.send MT.mirror (s.get F.LOG_MIR_STAT_TARGET) 0 (s.gen 0)
    (beBytes 8 first ++ beBytes 1 recs.length ++ beBytes 1 (b2n resync) ++ List.replicate 6 0 ++ recs.flatten)

def State.sendProbe (s : State) : State :=
  let s := s.mirrorOut s.log.cur [] false
  { s with log := { s.log with probeDue := false, probeAt := s.now } }

def execMirrorProbe (s : State) : Out := .next (if s.log.probeDue && s.mirState = Mir.probing then s.sendProbe else s)

/-- A probe is repeated every 1 s while PROBING, every 10 s in NOREGION (R587). -/
def execMirrorProbeRepeat (s : State) : Out :=
  .next (if s.mirState = Mir.probing then (s.reach (s.log.probeAt + 1000000)).sendProbe
    else if s.mirState = Mir.noregion then (s.reach (s.log.probeAt + 10000000)).sendProbe else s)

/-- Records from SEQ c on, of the AUDIT region and the ring, in SEQ order. -/
def State.recsFrom (s : State) (c : Nat) : List (Nat × List Byte) :=
  let ring := s.log.ring.map (fun r => (r.seq, r.bytes))
  let lo := (ring.head?.map (·.1)).getD s.log.nextSeq
  ((if s.store = Store.ready then s.auditHeld.filter (fun r => r.1 < lo) else []) ++ ring).filter (fun r => c ≤ r.1)

/-- The records at the head of the list whose SEQs follow one another, at most n. -/
def takeRun : Nat → List (Nat × List Byte) → List (Nat × List Byte)
  | 0, _ => []
  | _ + 1, [] => []
  | _ + 1, [x] => [x]
  | n + 1, x :: y :: t => if y.1 = x.1 + 1 then x :: takeRun n (y :: t) else [x]

/-- C has been overwritten (R587): it moves to LOG_OLDEST, with a MIRROR_GAP record and RESYNC. -/
def State.mirrorSkip (s : State) : State :=
  let o := s.logOldest
  if s.store = Store.ready && s.log.cur < o then
    let c := s.log.cur
    let s := s.inc F.LOG_MIR_CNT_SKIPPED (o - c)
    let s := { s with log := { s.log with cur := o, resync := true } }
    s.auditRec (s.gapRec 5 c (o - 1) 0)
  else s

/-- The next MIRROR leaves (R585). A SEQ that no record carries is passed over, and the MIRROR after it carries RESYNC. -/
def State.mirrorSend (s : State) : State :=
  if s.mirState != Mir.active || 4 ≤ s.log.unacked then s
  else
    let s := s.mirrorSkip
    match takeRun 10 (s.recsFrom s.log.cur) with
    | [] => s
    | r :: t =>
      let s1 := s.mirrorOut r.1 ((r :: t).map (·.2)) (s.log.resync || s.log.cur < r.1)
      { s1 with log := { s1.log with
          cur := r.1 + t.length + 1, resync := false, unacked := s1.log.unacked + 1,
          progAt := if s1.log.unacked = 0 then s1.now else s1.log.progAt } }

def execMirrorSend (s : State) : Out := .next s.mirrorSend

/-- 1 s without progress: it sends again from the last NEXT (R585). -/
def execMirrorResendTimeout (s : State) : Out :=
  .next (if s.mirState = Mir.active && s.log.unacked != 0 then
      let s := (s.reach (s.log.progAt + 1000000)).inc F.LOG_MIR_CNT_RESENDS
      { s with log := { s.log with cur := s.log.lastNext, unacked := 0, progAt := s.now } }
    else s)

/-- MIRRORED rises: the always-on copy follows (R582), and records may leave the ring (R571). -/
def State.setMirrored (s : State) (v : Nat) : State :=
  let s := { s with log := { s.log with mirrored := v, progAt := s.now } }
  let s := if s.linkUp then s.setPair R.AON_LOG_MIR_LO R.AON_LOG_MIR_HI v else s
  s.ringTrim

/-- A MIRROR_ACK from the neighbour mirrored to (R585, R587). -/
def State.mirrorAckRx (s : State) (m : Msg) : State :=
  let next := leVal (m.body.take 8).reverse
  let status := fieldOf m.body 8 1
  if s.mirState = Mir.none || m.src % 1024 != s.get F.LOG_MIR_STAT_TARGET then s
  else if status != 0 then
    let s := s.setMir Mir.noregion
    { s with log := { s.log with probeAt := s.now, unacked := 0 } }
  else if s.mirState != Mir.active then
    let s := s.setMir Mir.active
    let s := { s with log := { s.log with unacked := 0, progAt := s.now } }
    if s.log.mirrored < next && next ≤ s.log.nextSeq then
      let s := s.setMirrored (next - 1)
      { s with log := { s.log with cur := next, lastNext := next, resync := false } }
    else { s with log := { s.log with cur := s.log.mirrored + 1, lastNext := s.log.mirrored + 1, resync := true } }
  else
    let s := { s with log := { s.log with unacked := s.log.unacked - 1, lastNext := next, cur := Nat.min s.log.cur next } }
    if s.log.mirrored + 1 < next then s.setMirrored (next - 1) else s

/-! ### The mirror: receiver (R586) -/

/-- The SEQ after the last record taken from a member: committed, or in a block that is due or being written (R586). -/
def State.mirTaken (s : State) (k : Nat) : Nat :=
  match ((s.log.inFlight.toList ++ s.log.due).filter (fun b => b.region == 2 && b.src % 32 == k)).getLast? with
  | some b => b.next
  | none => Tab.get (fun _ => 0) s.log.expect k

/-- The answer to a MIRROR that brings nothing new: with the commit of what the member's earlier ones brought, if that is still
to come (R586). -/
def State.mirrorLater (s : State) (src : Nat) : State :=
  let p (b : LogBlk) : Bool := b.region == 2 && b.src % 32 == src % 32
  match s.log.due.reverse.find? p, s.log.inFlight with
  | some b, _ => { s with log := { s.log with due := (s.log.due.reverse.map (fun x => if x == b then { x with acks := x.acks + 1 } else x)).reverse } }
  | none, some b =>
    if p b then { s with log := { s.log with inFlight := some { b with acks := b.acks + 1 } } }
    else s.mirrorAnswer src (Tab.get (fun _ => 0) s.log.expect (src % 32)) 0
  | none, none => s.mirrorAnswer src (Tab.get (fun _ => 0) s.log.expect (src % 32)) 0

/-- A received MIRROR: stored, and answered once it is committed. -/
def State.mirrorRx (s : State) (m : Msg) : State :=
  let src := m.src % 1024
  let k := src % 32
  if src / 32 != s.selfIsland then s
  else
    let first := leVal (m.body.take 8).reverse
    let count := fieldOf m.body 8 1
    let resync := fieldOf m.body 9 1 % 2 = 1
    let e := Tab.get (fun _ => 0) s.log.expect k
    if s.store != Store.ready then s.mirrorAnswer src e 2
    else if s.get F.LOG_REG_SIZE_MIB 2 = 0 then s.mirrorAnswer src e 1
    else if count = 0 || (!resync && s.mirTaken k != 0 && s.mirTaken k < first) then s.mirrorAnswer src e 0
    else
      let t := s.mirTaken k
      let from_ := if resync || t = 0 then first else t
      let recs := ((m.body.drop 16).take (48 * count)).drop (48 * (from_ - first))
      if recs.isEmpty then s.mirrorLater src
      else s.logDue [{ region := 2, data := recs, src := src, seq := from_, next := first + count }]

/-! ### Function reset and registers -/

/-- FUNC_RST of LOG (R591): the card's answer as at `storeReadyAt`. -/
def State.logFuncRst (s : State) (cap : Option Nat) (card : Option (List (Nat × List Byte))) : State :=
  let s := s.logForget
  let s := (s.setWord (R.LOG_EVT.at) 0).setWord (R.LOG_CNT.at) 0
  let s := s.setWord (R.LOG_CNT2.at) 0
  let s := { s.put F.LOG_RD_STAT_BUSY 0 with log := { s.log with rd := none } }
  ((s.storeReadyAt cap card).mirrorCheck true).ringTrim

/-- The words of the LOG registers that follow the engine's state (R594 to R597). -/
def State.logWord (s : State) (a : Nat) : Word :=
  if a = R.LOG_STAT.at then setBits (s.word a) 0 13 s.log.ring.length
  else if a = R.LOG_NEXT_LO.at then Word.ofN s.log.nextSeq
  else if a = R.LOG_NEXT_HI.at then Word.ofN (s.log.nextSeq / 2 ^ 32)
  else if a = R.LOG_COMMIT_LO.at then Word.ofN s.log.committed
  else if a = R.LOG_COMMIT_HI.at then Word.ofN (s.log.committed / 2 ^ 32)
  else if a = R.LOG_OLDEST_LO.at then Word.ofN s.logOldest
  else if a = R.LOG_OLDEST_HI.at then Word.ofN (s.logOldest / 2 ^ 32)
  else if a = R.LOG_MIRRORED_LO.at then Word.ofN s.log.mirrored
  else if a = R.LOG_MIRRORED_HI.at then Word.ofN (s.log.mirrored / 2 ^ 32)
  else if a = R.LOG_MIR_STAT.at then setBits (s.word a) 0 16 (Nat.min (s.log.nextSeq - 1 - s.log.mirrored) 0xFFFF)
  else s.word a

/-- A write of a LOG register (R590, R593 to R601). -/
def State.logWrite (s : State) (w : Who) (a : Nat) (data : Word) : State :=
  if w.tenant != 0 then s.refuseWrite w a data Res.refRights
  else if a = R.LOG_FMT_CMD.at then s.logFormat w data
  else if a = R.LOG_RD_CMD.at then s.logRdCmd w data
  else if 0x1F0400 ≤ a && a < 0x1F0600 then s.plainW Res.applied (fun s => s.setWord a data)
  else if a = R.LOG_CTRL.at then s.cfgWrite w a data (fun _ => Res.applied) (fun _ _ s => s.mirrorCheck)
  else if a = R.LOG_RD_BLK.at then s.plainW Res.applied (fun s => s.put F.LOG_RD_BLK_BLOCK (F.LOG_RD_BLK_BLOCK.of data))
  else s.kindWrite w a data

end Sys2Proof.Machine
end

