-- ==== Sys2Proof/Machine/Crypto.lean ====
section
/-! DEFINITION. The cryptographic functions the spec names: AES-128-CMAC (R499), SHA-256 and ECDSA on P-256 (R688). -/

namespace Sys2Proof.Machine

/-! ### AES-128 and CMAC -/

/-- Multiplication by x in the AES field. -/
def aesXtime (a : Nat) : Nat := if 128 ≤ a then (2 * a % 256) ^^^ 0x1B else 2 * a

def aesMul (a : Nat) : Nat → Nat → Nat
  | 0, _ => 0
  | n + 1, b => (if b % 2 = 1 then a else 0) ^^^ aesMul (aesXtime a) n (b / 2)

def aesM (a b : Nat) : Nat := aesMul a 8 b

/-- The inverse in the field: the 254th power. -/
def aesInv (a : Nat) : Nat :=
  let a2 := aesM a a
  let a4 := aesM a2 a2
  let a8 := aesM a4 a4
  let a16 := aesM a8 a8
  let a32 := aesM a16 a16
  let a64 := aesM a32 a32
  let a128 := aesM a64 a64
  aesM a128 (aesM a64 (aesM a32 (aesM a16 (aesM a8 (aesM a4 a2)))))

def rotByte (a k : Nat) : Nat := (a * 2 ^ k % 256) ||| (a / 2 ^ (8 - k))

def aesSbox (a : Nat) : Nat :=
  let b := aesInv a
  b ^^^ rotByte b 1 ^^^ rotByte b 2 ^^^ rotByte b 3 ^^^ rotByte b 4 ^^^ 0x63

def xorList (a b : List Nat) : List Nat := List.zipWith (· ^^^ ·) a b

/-- The next round key. -/
def aesNextKey (rcon : Nat) (k : List Nat) : List Nat :=
  let w3 := k.drop 12
  let t := (w3.drop 1 ++ w3.take 1).map aesSbox
  let t := match t with | h :: r => (h ^^^ rcon) :: r | [] => []
  let w0 := xorList (k.take 4) t
  let w1 := xorList ((k.drop 4).take 4) w0
  let w2 := xorList ((k.drop 8).take 4) w1
  w0 ++ w1 ++ w2 ++ xorList w3 w2

def aesShiftRows (s : List Nat) : List Nat := (List.range 16).map (fun i => s.getD ((i + 4 * (i % 4)) % 16) 0)

def aesMixCol (c : List Nat) : List Nat :=
  match c with
  | [a, b, c, d] =>
    [aesXtime a ^^^ aesXtime b ^^^ b ^^^ c ^^^ d, a ^^^ aesXtime b ^^^ aesXtime c ^^^ c ^^^ d,
     a ^^^ b ^^^ aesXtime c ^^^ aesXtime d ^^^ d, aesXtime a ^^^ a ^^^ b ^^^ c ^^^ aesXtime d]
  | l => l

def aesMixCols (s : List Nat) : List Nat :=
  aesMixCol (s.take 4) ++ aesMixCol ((s.drop 4).take 4) ++ aesMixCol ((s.drop 8).take 4) ++ aesMixCol (s.drop 12)

def aesRounds : Nat → Nat → List Nat → List Nat → List Nat
  | 0, _, _, s => s
  | n + 1, rcon, k, s =>
    let k := aesNextKey rcon k
    let s := aesShiftRows (s.map aesSbox)
    let s := if n = 0 then s else aesMixCols s
    aesRounds n (aesXtime rcon) k (xorList s k)

/-- AES-128 on a block of 16 bytes. -/
def aes128 (key blk : List Nat) : List Nat := aesRounds 10 1 key (xorList blk key)

/-- The bytes of a 128-bit number, most significant first. -/
def bytes16 (v : Nat) : List Nat := (List.range 16).map (fun i => v / 2 ^ (8 * (15 - i)) % 256)

def beNat (l : List Nat) : Nat := l.foldl (fun a b => 256 * a + b) 0

/-- The doubling of a CMAC subkey (NIST SP 800-38B). -/
def cmacDouble (k : List Nat) : List Nat :=
  let v := beNat k
  bytes16 ((2 * v % 2 ^ 128) ^^^ (if 2 ^ 127 ≤ v then 0x87 else 0))

def cmacBlocks (key sub1 sub2 : List Nat) : Nat → List Nat → List Nat → List Nat
  | 0, _, x => x
  | n + 1, m, x =>
    if m.length ≤ 16 then
      let last := if m.length = 16 then xorList m sub1
        else xorList (m ++ [0x80] ++ List.replicate (15 - m.length) 0) sub2
      aes128 key (xorList x last)
    else cmacBlocks key sub1 sub2 n (m.drop 16) (aes128 key (xorList x (m.take 16)))

/-- AES-128-CMAC of a message, truncated to its most significant 64 bits (R499). -/
def cmac64 (key : Nat) (msg : List Nat) : Nat :=
  let k := bytes16 key
  let l := aes128 k (List.replicate 16 0)
  let s1 := cmacDouble l
  let s2 := cmacDouble s1
  beNat ((cmacBlocks k s1 s2 (msg.length / 16 + 1) msg (List.replicate 16 0)).take 8)

/-! ### SHA-256 -/

/-- The first n primes from k on. -/
def isPrime (k : Nat) : Bool := 2 ≤ k && (List.range (Nat.sqrt k + 1)).all (fun d => d < 2 || k % d != 0)

def primes64 : List Nat := ((List.range 312).filter isPrime).take 64

/-- floor of the r-th root of n, by bits from 2^k down. -/
def rootBits (r n : Nat) : Nat → Nat → Nat
  | 0, x => x
  | k + 1, x => if (x + 2 ^ k) ^ r ≤ n then rootBits r n k (x + 2 ^ k) else rootBits r n k x

/-- The first 32 bits of the fractional part of the r-th root of p. -/
def rootFrac (r p : Nat) : Nat := rootBits r (p * 2 ^ (32 * r)) 37 0 % 2 ^ 32

def shaK : List (BitVec 32) := primes64.map (fun p => BitVec.ofNat 32 (rootFrac 3 p))
def shaH : List (BitVec 32) := (primes64.take 8).map (fun p => BitVec.ofNat 32 (rootFrac 2 p))

def shaS (x : BitVec 32) (a b c : Nat) : BitVec 32 := x.rotateRight a ^^^ x.rotateRight b ^^^ x.rotateRight c
def shaSm (x : BitVec 32) (a b c : Nat) : BitVec 32 := x.rotateRight a ^^^ x.rotateRight b ^^^ (x >>> c)

/-- The 64 message words, from the last 16 in reverse order. -/
def shaSched : Nat → List (BitVec 32) → List (BitVec 32) → List (BitVec 32)
  | 0, _, acc => acc.reverse
  | n + 1, w, acc =>
    let g (i : Nat) : BitVec 32 := w.getD i 0
    let x := shaSm (g 1) 17 19 10 + g 6 + shaSm (g 14) 7 18 3 + g 15
    shaSched n ((x :: w).take 16) (x :: acc)

def shaRound (h : List (BitVec 32)) (kw : BitVec 32) : List (BitVec 32) :=
  match h with
  | [a, b, c, d, e, f, g, hh] =>
    let t1 := hh + shaS e 6 11 25 + ((e &&& f) ^^^ (~~~e &&& g)) + kw
    let t2 := shaS a 2 13 22 + ((a &&& b) ^^^ (a &&& c) ^^^ (b &&& c))
    [t1 + t2, a, b, c, d + t1, e, f, g]
  | l => l

def shaWords : Nat → List Nat → List (BitVec 32)
  | 0, _ => []
  | n + 1, l => BitVec.ofNat 32 (beNat (l.take 4)) :: shaWords n (l.drop 4)

def shaBlock (h : List (BitVec 32)) (blk : List Nat) : List (BitVec 32) :=
  let w := shaWords 16 blk
  let ws := w ++ shaSched 48 w.reverse []
  List.zipWith (· + ·) h ((List.zipWith (· + ·) shaK ws).foldl shaRound h)

def shaBlocks : Nat → List Nat → List (BitVec 32) → List (BitVec 32)
  | 0, _, h => h
  | n + 1, m, h => shaBlocks n (m.drop 64) (shaBlock h (m.take 64))

/-- SHA-256 of a message, as a number (FIPS 180-4). -/
def sha256 (msg : List Nat) : Nat :=
  let n := msg.length
  let pad := (119 - n % 64) % 64
  let m := msg ++ [0x80] ++ List.replicate pad 0 ++ (List.range 8).map (fun i => 8 * n / 2 ^ (8 * (7 - i)) % 256)
  (shaBlocks (m.length / 64) m shaH).foldl (fun a w => 2 ^ 32 * a + w.toNat) 0

/-! ### ECDSA on P-256 -/

def p256P : Nat := 2 ^ 256 - 2 ^ 224 + 2 ^ 192 + 2 ^ 96 - 1
def p256N : Nat := 0xFFFFFFFF00000000FFFFFFFFFFFFFFFFBCE6FAADA7179E84F3B9CAC2FC632551
def p256B : Nat := 0x5AC635D8AA3A93E7B3EBBD55769886BC651D06B0CC53B0F63BCE3C3E27D2604B
def p256G : Nat × Nat :=
  (0x6B17D1F2E12C4247F8BCE6E563A440F277037D812DEB33A0F4A13945D898C296,
   0x4FE342E2FE1A7F9B8EE7EB4A7C0F9E162BCE33576B315ECECBB6406837BF51F5)

/-- b^e mod m, over the low n bits of e. -/
def powMod (m : Nat) : Nat → Nat → Nat → Nat
  | 0, _, _ => 1 % m
  | n + 1, b, e => (if e % 2 = 1 then b else 1) * powMod m n (b * b % m) (e / 2) % m

/-- The inverse modulo a prime. -/
def invMod (m a : Nat) : Nat := powMod m 256 (a % m) (m - 2)

/-- The sum of two points of the curve; none is the point at infinity. -/
def ecAdd (a b : Option (Nat × Nat)) : Option (Nat × Nat) :=
  match a, b with
  | none, b => b
  | a, none => a
  | some (x1, y1), some (x2, y2) =>
    if x1 = x2 && (y1 + y2) % p256P = 0 then none
    else
      let l := if x1 = x2 then (3 * x1 * x1 + p256P - 3) * invMod p256P (2 * y1) % p256P
        else (y2 + p256P - y1) * invMod p256P (x2 + p256P - x1) % p256P
      let x := (l * l + 2 * p256P - x1 - x2) % p256P
      some (x, (l * (x1 + p256P - x) + p256P - y1) % p256P)

def ecMul : Nat → Nat → Option (Nat × Nat) → Option (Nat × Nat)
  | 0, _, _ => none
  | n + 1, k, q =>
    let r := ecMul n (k / 2) (ecAdd q q)
    if k % 2 = 1 then ecAdd q r else r

/-- The point lies on the curve, in range. -/
def ecOn (q : Nat × Nat) : Bool :=
  q.1 < p256P && q.2 < p256P && q.2 * q.2 % p256P == (q.1 * q.1 * q.1 + (p256P - 3) * q.1 + p256B) % p256P

/-- The verification of FIPS 186: digest z, signature (r, s), public key q. -/
def ecdsaVerify (q : Nat × Nat) (z r s : Nat) : Bool :=
  if !ecOn q || r = 0 || s = 0 || p256N ≤ r || p256N ≤ s then false
  else
    let w := invMod p256N s
    match ecAdd (ecMul 256 (z * w % p256N) (some p256G)) (ecMul 256 (r * w % p256N) (some q)) with
    | none => false
    | some (x, _) => x % p256N == r

end Sys2Proof.Machine
end

