-- ==== Sys2Proof/Machine/Flags.lean ====
section
/-! DEFINITION. CFLAGS (R196) and what the integer instructions compute with their flags (R194, R195). -/

namespace Sys2Proof.Machine

/-- Events are ORed into CFLAGS at retire (R196). -/
def flagOr (old events : Nat) : Nat := (old ||| events) % 128

/-- −1, 0 or 1 as a register value (R194). -/
def cmpWord (lt eq : Bool) : Word := if lt then 0xFFFFFFFF else if eq then 0 else 1

def iCmp (x y : Word) : FRes := ⟨cmpWord (x.slt y) (x == y), 0⟩
def iCmpU (x y : Word) : FRes := ⟨cmpWord (x.ult y) (x == y), 0⟩
def iMin (x y : Word) : FRes := ⟨if y.slt x then y else x, 0⟩
def iMax (x y : Word) : FRes := ⟨if x.slt y then y else x, 0⟩
def iMinU (x y : Word) : FRes := ⟨if y.ult x then y else x, 0⟩
def iMaxU (x y : Word) : FRes := ⟨if x.ult y then y else x, 0⟩

def iMulHS (x y : Word) : FRes := ⟨BitVec.ofInt 32 (x.toInt * y.toInt / 2 ^ 32), 0⟩
def iMulHU (x y : Word) : FRes := ⟨Word.ofN (x.toNat * y.toNat / 2 ^ 32), 0⟩

/-- Saturated to 32 bits; a saturated result sets IV (R194). -/
def iSat (v : Int) : FRes :=
  if v < -2 ^ 31 then ⟨0x80000000, CF.iv⟩ else if 2 ^ 31 ≤ v then ⟨0x7FFFFFFF, CF.iv⟩ else ⟨BitVec.ofInt 32 v, 0⟩

def iAddS (x y : Word) : FRes := iSat (x.toInt + y.toInt)
def iSubS (x y : Word) : FRes := iSat (x.toInt - y.toInt)

/-- Division never traps (R195). Int.fdiv rounds toward −∞ and Int.fmod has the sign of the divisor. -/
def iQuo (x y : Word) : FRes :=
  if y = 0 then ⟨0, CF.iz⟩
  else if x = 0x80000000 && y = 0xFFFFFFFF then ⟨0x7FFFFFFF, CF.iv⟩
  else ⟨BitVec.ofInt 32 (Int.fdiv x.toInt y.toInt), 0⟩

def iMod (x y : Word) : FRes :=
  if y = 0 then ⟨x, CF.iz⟩
  else if x = 0x80000000 && y = 0xFFFFFFFF then ⟨0, CF.iv⟩
  else ⟨BitVec.ofInt 32 (Int.fmod x.toInt y.toInt), 0⟩

def iQuoU (x y : Word) : FRes := if y = 0 then ⟨0, CF.iz⟩ else ⟨Word.ofN (x.toNat / y.toNat), 0⟩
def iModU (x y : Word) : FRes := if y = 0 then ⟨x, CF.iz⟩ else ⟨Word.ofN (x.toNat % y.toNat), 0⟩

end Sys2Proof.Machine
end

