-- ==== Sys2Proof/Machine/Points.lean ====
section
/-! DEFINITION. The point window, profiles and zones (chapter "Points, zones and the campus point space"). -/

namespace Sys2Proof.Machine


/-- A write to VALUE is a command-band or override-band write at the path's default priority (R60, R81). -/
def State.ptValueWrite (s : State) (w : Who) (i : Nat) (v : Word) (ecc : Ecc) : State :=
  (s.ptEcc i ecc).ptWrite w i .write w.prio v (R.PT_VALUE.at i)

def execPointValueWrite (p : Path) (i : Nat) (v : Word) (ecc : Ecc) (s : State) : Out :=
  .next (s.byPath p (fun w s => s.ptValueWrite w (i % 32768) v ecc))

/-- What a REMOTE source write carries (R71): the far quality, the AGE sent and the campus time of sending. -/
def State.remoteAge (s : State) (age sendTime : Nat) : Nat := age + (s.campus - sendTime) / 10000

/-- A source write (R73): the path and instance that makes it as a BIND word, what it reports, for REMOTE what it carries,
for SKEHIL the task's tenant. -/
def execPointSourceWrite (i kind ref : Nat) (v : Word) (good : Bool) (remote : Option (Nat × Nat × Nat)) (task : Option Nat)
    (ecc : Ecc) (s : State) : Out :=
  let i := i % 32768
  let s := s.ptEcc i ecc
  .next (s.ptSource i (bindWord (kind % 16) ref) v good (remote.map (fun r => (r.1, s.remoteAge r.2.1 r.2.2))) task)

/-- A write of SYS_PT_REL is one relinquish at PRIO + 1 (R100). -/
def State.ptRelWrite (s : State) (w : Who) (data : Word) : State :=
  s.ptWrite w (F.SYS_PT_REL_INDEX.of data) .relinquish (F.SYS_PT_REL_PRIO.of data + 1) 0 (R.SYS_PT_REL.at)

def execPointRelinquish (p : Path) (data : Word) (s : State) : Out := .next (s.byPath p (fun w s => s.ptRelWrite w data))

/-! ### CONFIG and BIND -/

/-- R92: a member point's TENANT is the zone's or 0. -/
def State.zoneOk (s : State) (zone tenant : Nat) : Bool :=
  s.get F.SYS_ZONE_CFG_ENABLED zone == 0 || tenant == 0 || tenant == s.get F.SYS_ZONE_CFG_TENANT zone

/-- The SUB_IN quota of a tenant is used up (R619). -/
def State.subInFull (s : State) (t : Nat) : Bool := t != 0 && s.get F.TEN_QSUB_IN t ≤ s.subInUsed t

/-- The judgement of a CONFIG word (R62, R92, R619). -/
def State.ptConfigChk (s : State) (i : Nat) (x : Word) : Res :=
  let t := F.PT_CONFIG_TENANT.of x
  if F.PT_CONFIG_INZONE.of x = 1 && s.ptKind i != Kind.unused && !s.zoneOk (F.PT_CONFIG_ZONE.of x) t then Res.refConfig
  else if s.ptKind i = Kind.remote && t != s.ptTenant i && s.subInFull t then Res.refConfig
  else Res.applied

/-- A word of a broken record has been rewritten (R68): word 0 CONFIG, 1 BIND. -/
def State.ptMend (s : State) (i word : Nat) : State :=
  let h := s.ptHealth i
  s.setHealth i (if word = 0 then { h with config := false } else { h with bind := false })

def State.ptConfigWrite (s : State) (w : Who) (i : Nat) (data : Word) : State :=
  if w.tenant != 0 then s.refuseWrite w (R.PT_CONFIG.at i) data Res.refRights
  else s.cfgWrite w (R.PT_CONFIG.at i) data (s.ptConfigChk i) (fun _ _ s => s.ptMend i 0)

def execPointConfigWrite (p : Path) (i : Nat) (data : Word) (s : State) : Out :=
  .next (s.byPath p (fun w s => s.ptConfigWrite w (i % 32768) data))

/-- The width in bytes of a ZBFIELD format (R72). -/
def zbWidth (f : Nat) : Nat := if f = 2 || f = 3 then 2 else if 4 ≤ f && f ≤ 6 then 4 else 1

/-- The STATUS items that the blocks list (R76; R261, R310, R395, R358, R432, R475, R522, R558, R592). Blocks 0x08 and 0x09 list
none. -/
def statusItem (block item : Nat) : Bool :=
  if block = 1 then item < 0x80 || (0x100 ≤ item && item ≤ 0x1C1)
  else if block = 2 then item < 0x70 || (0x70 ≤ item && item ≤ 0x73)
  else if block = 3 then item < 4 || (0x10 ≤ item && item ≤ 0x11) || (0x20 ≤ item && item ≤ 0x5F)
  else if block = 4 then item ≤ 0x30
  else if block = 5 then item < 0x40
  else if block = 6 then item < 3 || (0x10 ≤ item && item ≤ 0x14) || (0x20 ≤ item && item ≤ 0x25)
  else if block = 7 then item < 3
  else false

/-- A valid KIND and REF (R72). -/
def State.bindOk (s : State) (x : Word) : Bool :=
  let k := F.PT_BIND_KIND.of x
  let r := F.PT_BIND_REF.of x
  if k = Kind.unused || k = Kind.none_ then r = 0
  else if k = Kind.acc then r < 512 && (r < 256 || r % 16 < 4)
  else if k = Kind.contact then r < 128
  else if k = Kind.zbField then r < 2 ^ 22 && r / 2 ^ 10 % 64 + zbWidth (r / 2 ^ 16 % 8) ≤ 64
  else if k = Kind.loop then r < 8192
  else if k = Kind.remote then r < 2 ^ 25 && r / 32768 != s.deviceId
  else if k = Kind.skehil then r < 4
  else if k = Kind.status then r < 2 ^ 24 && statusItem (r / 2 ^ 16) (r % 2 ^ 16)
  else false

/-- The judgement of a BIND word (R72, R77, R619): a point that is REMOTE already uses the entry it has. -/
def State.ptBindChk (s : State) (i : Nat) (x : Word) : Res :=
  if !s.bindOk x then Res.refConfig
  else if F.PT_BIND_KIND.of x = Kind.remote && s.ptKind i != Kind.remote &&
      (maxSubs ≤ s.subIn.length || s.subInFull (s.ptTenant i)) then Res.refConfig
  else Res.applied

/-- What a write to BIND does to the point (R66, R68, R77) and its subscription (R502, R506). -/
def State.ptBindAfter (s : State) (i : Nat) (old new : Word) : State :=
  let oldQ := s.ptQual i
  let s := s.ptSet i (s.ptVal i) Qual.notValid 16 0 0xFFFF 0
  let s := s.ptMend i 1
  let s := if F.PT_BIND_KIND.of old = Kind.remote then s.subInFree i else s
  let s := if F.PT_BIND_KIND.of new = Kind.remote then s.subInTake i (F.PT_BIND_REF.of new) else s
  s.forward i false false (oldQ != Qual.notValid)

def State.ptBindWrite (s : State) (w : Who) (i : Nat) (data : Word) : State :=
  if w.tenant != 0 then s.refuseWrite w (R.PT_BIND.at i) data Res.refRights
  else s.cfgWrite w (R.PT_BIND.at i) data (s.ptBindChk i) (fun old new s => s.ptBindAfter i old new)

def execPointBindWrite (p : Path) (i : Nat) (data : Word) (s : State) : Out :=
  .next (s.byPath p (fun w s => s.ptBindWrite w (i % 32768) data))

/-! ### Reads -/

/-- Word k of a point's window as a tenant reads it (R59). -/
def State.ptWordFor (s : State) (t i k : Nat) : Word :=
  if !s.readRight t i || (k < 2 && s.ptKind i = Kind.unused) then 0
  else if k = 0 then s.ptVal i else if k = 1 then s.ptStat i else if k = 2 then s.word (R.PT_CONFIG.at i) else s.word (R.PT_BIND.at i)

/-- A read of VALUE captures STATUS of the same instant for the path (R64). -/
def State.ptValueRead (s : State) (w : Who) (i : Nat) (ecc : Ecc) : State :=
  let s := s.ptEcc i ecc
  let s := s.setBank w.cap { s.bank w.cap with capture := some (R.PT_STATUS.at i, s.ptWordFor w.tenant i 1) }
  { s with rdata := s.ptWordFor w.tenant i 0 }

def execPointValueRead (p : Path) (i : Nat) (ecc : Ecc) (s : State) : Out :=
  .next (s.byPath p (fun w s => s.ptValueRead w (i % 32768) ecc))

/-! ### The device tick -/

/-- AGE of one point at a device tick, and staleness (R69, R70). An AGE that comes to exceed AGE_MAX because the profile, or
CONFIG.PROFILE, is rewritten is judged at the next tick (log entry 108). -/
def State.ageTick (s : State) (i : Nat) : State :=
  let s := s.inc F.PT_STATUS_AGE 1 i
  if s.ptKind i != Kind.none_ && s.ptHP i = 16 && s.ptQual i = Qual.good && s.ageMax i != 0
      && s.ageMax i < s.get F.PT_STATUS_AGE i then
    (s.put F.PT_STATUS_QUAL Qual.stale i).forward i false false true
  else s

/-- The members of a zone (R92). -/
def State.zoneMembers (s : State) (z : Nat) : List Nat :=
  if s.get F.SYS_ZONE_CFG_ENABLED z = 0 then []
  else ((s.listed R.PT_CONFIG).filter (fun e => F.PT_CONFIG_INZONE.of e.2 == 1 && F.PT_CONFIG_ZONE.of e.2 == z && s.ptKind e.1 != Kind.unused)).map (·.1)

/-- NOTGOOD and FORCED of SYS_ZONE_SUM (R91, R93). -/
def State.zoneSum (s : State) (z : Nat) : Nat × Nat :=
  let qs := (s.zoneMembers z).map s.ptQual
  ((qs.filter (fun q => q == Qual.stale || q == Qual.fault || q == Qual.notValid)).length, (qs.filter (fun q => q == Qual.forced)).length)

/-- The zone event of a tick, when a count has moved to or from 0 since the last event decided (R93). -/
def State.zoneTick (s : State) (z : Nat) : State :=
  let c := s.zoneSum z
  let l := Tab.get (fun _ => (0, 0)) s.zoneEv z
  if (c.1 == 0) == (l.1 == 0) && (c.2 == 0) == (l.2 == 0) then s
  else
    let s := { s with zoneEv := Tab.set (fun _ => (0, 0)) s.zoneEv z c }
    s.fresh.postEvt2 (s.get F.SYS_ZONE_CFG_TENANT z) 0x0B (Config.freeNat s.free % 65536) (leBytes 2 z ++ leBytes 2 c.1 ++ leBytes 2 c.2)

/-- Zones that can have an event due: those enabled and those whose last event was not of zeros. -/
def State.zonesToJudge (s : State) : List Nat :=
  (List.range 512).filter (fun z => s.get F.SYS_ZONE_CFG_ENABLED z == 1 || Tab.get (fun _ => (0, 0)) s.zoneEv z != (0, 0))

def State.pubOf (s : State) (i : Nat) : PubState := Tab.get (fun _ => {}) s.pub i
def State.setPub (s : State) (i : Nat) (x : PubState) : State := { s with pub := Tab.set (fun _ => {}) s.pub i x }

/-- The point's record is placed in the slot of every subscriber (R505). -/
def State.pubPlace (s : State) (i : Nat) : State :=
  let r : PubRec := ⟨i, s.ptQual i, s.ptVal i, s.get F.PT_STATUS_AGE i, s.bit F.PT_STATUS_SRCFORCED i, s.frame⟩
  let waiting := (s.subOut.filter (fun e => e.1 % 32768 == i && e.2.slot.isSome)).length
  let s := s.inc F.CL_PUB_CNT_COALESCED waiting
  { s with subOut := s.subOut.map (fun e => if e.1 % 32768 == i then (e.1, { e.2 with slot := some r }) else e) }

/-- The procedure of R87 for one point; nothing is published of a point whose profile is LOCAL (R86). -/
def State.pubEval (s : State) (i : Nat) : State :=
  let pr := s.get F.PT_CONFIG_PROFILE i
  let p := s.pubOf i
  if s.get F.SYS_PT_PROF_AGE_MODE pr = 0 then s.setPub i { p with since := Nat.min (p.since + 1) 0xFFFF } else
  let maxP := s.get F.SYS_PT_PROF_PER_MAX_PERIOD pr
  let cov := s.get F.SYS_PT_PROF_AGE_MODE pr = 1 && (fChanged (s.ptVal i) p.lastV (s.word (R.SYS_PT_PROF_DB.at pr)) || s.ptQual i != p.lastQ)
  let due := p.fresh || cov || (0 < maxP && maxP ≤ p.since)
  if due && s.get F.SYS_PT_PROF_PER_MIN_PERIOD pr ≤ p.since then
    (s.pubPlace i).setPub i ⟨s.ptVal i, s.ptQual i, 0, false⟩
  else s.setPub i { p with since := Nat.min (p.since + 1) 0xFFFF }

/-- The points that have a subscriber. -/
def State.pubPoints (s : State) : List Nat := ((s.subOut.map (fun e => e.1 % 32768)).dedup).mergeSort (· ≤ ·)

/-- The PERIODIC trend samples of a tick (R588). -/
def State.trendTick (s : State) : State :=
  s.each (s.listed R.LOG_TRD_CFG) (fun e s =>
    let per := s.get F.LOG_TRD_PER_PER e.1
    if F.LOG_TRD_CFG_EN.of e.2 = 1 && F.LOG_TRD_CFG_MODE.of e.2 = 1 && per != 0 && s.frame % per = 0 then
      s.trendSample (F.LOG_TRD_CFG_POINT.of e.2)
    else s)

/-- An error arises in a point's record: it lies there until a read finds it (R68). -/
def State.ptUpset (s : State) (i : Nat) (e : Ecc) : State := s.setHealth i { s.ptHealth i with latent := some e }

/-- The device tick at the point database: ages and staleness, then zone events, publications and periodic samples. It reads
every record, and so finds the errors that lie in them; `upsets` are those that arise from here on. -/
def State.pointTick (s : State) (upsets : List (Nat × Ecc)) : State :=
  let s := { s with log := { s.log with trendDropped := false } }
  let s := s.each (s.broken.map (·.1)) (fun i s => s.ptFind i)
  let s := s.each ((s.listed R.PT_STATUS).map (·.1)) (fun i s => s.ageTick i)
  let s := s.each s.zonesToJudge (fun z s => s.zoneTick z)
  let s := s.each s.pubPoints (fun i s => s.pubEval i)
  (s.trendTick).each upsets (fun u s => s.ptUpset (u.1 % 32768) u.2)

def execPointAgeTick (upsets : List (Nat × Ecc)) (s : State) : Out := .next (s.pointTick upsets)

/-! ### Profiles and zones -/

/-- The constraints between the words of a profile (R86). -/
def State.profileChk (s : State) (n k : Nat) (x : Word) : Res :=
  let mode := if k = 0 then F.SYS_PT_PROF_AGE_MODE.of x else s.get F.SYS_PT_PROF_AGE_MODE n
  let per := if k = 2 then x else s.word (R.SYS_PT_PROF_PER.at n)
  let maxP := F.SYS_PT_PROF_PER_MAX_PERIOD.of per
  if (mode = 2 && maxP = 0) || (maxP != 0 && maxP < F.SYS_PT_PROF_PER_MIN_PERIOD.of per) then Res.refConfig else Res.applied

/-- A waiting PUB without the records of some points; one left with no record is not sent (R86). -/
def OutMsg.without (gone : Nat → Bool) (m : OutMsg) : Option OutMsg :=
  if m.recs.isEmpty || m.built.isSome then some m
  else
    match m.recs.filter (fun r => !gone r.point) with
    | [] => none
    | l => some { m with recs := l }

/-- MODE LOCAL frees every SUB_OUT entry of every point of the profile, and nothing more is published for them (R86). -/
def State.profileAfter (s : State) (n k : Nat) (x : Word) : State :=
  if k = 0 && F.SYS_PT_PROF_AGE_MODE.of x = 0 then
    let gone (i : Nat) : Bool := s.get F.PT_CONFIG_PROFILE i == n
    { s with
      subOut := s.subOut.filter (fun e => !gone (e.1 % 32768))
      cl := { s.cl with queues := s.cl.queues.map (fun q => q.filterMap (OutMsg.without gone)) } }
  else s

def profileAddr (n k : Nat) : Nat :=
  if k = 0 then R.SYS_PT_PROF_AGE.at n else if k = 1 then R.SYS_PT_PROF_DB.at n else R.SYS_PT_PROF_PER.at n

def State.profileWrite (s : State) (w : Who) (n k : Nat) (data : Word) : State :=
  let a := profileAddr n k
  if w.tenant != 0 then s.refuseWrite w a data Res.refRights
  else s.cfgWrite w a data (s.profileChk n k) (fun _ new s => s.profileAfter n k new)

/-- Word k of profile n: 0 AGE, 1 DB, 2 PER. -/
def execProfileWrite (p : Path) (n k : Nat) (data : Word) (s : State) : Out :=
  .next (s.byPath p (fun w s => s.profileWrite w (n % 256) (k % 3) data))

/-- No member of the zone would break R92 or R94 under the word. -/
def State.zoneChk (s : State) (z : Nat) (x : Word) : Res :=
  let t := F.SYS_ZONE_CFG_TENANT.of x
  let badPt := (s.listed R.PT_CONFIG).any (fun e => F.PT_CONFIG_INZONE.of e.2 == 1 && F.PT_CONFIG_ZONE.of e.2 == z &&
    s.ptKind e.1 != Kind.unused && F.PT_CONFIG_TENANT.of e.2 != 0 && F.PT_CONFIG_TENANT.of e.2 != t)
  let badLoop := (s.listed R.LE_REC_CTRL).any (fun e => F.LE_REC_CTRL_INZONE.of e.2 == 1 && F.LE_REC_CTRL_ZONE.of e.2 == z &&
    F.LE_REC_CTRL_TENANT.of e.2 != 0 && F.LE_REC_CTRL_TENANT.of e.2 != t)
  if F.SYS_ZONE_CFG_ENABLED.of x = 1 && (badPt || badLoop) then Res.refConfig else Res.applied

def State.zoneCfgWrite (s : State) (w : Who) (z : Nat) (data : Word) : State :=
  let a := R.SYS_ZONE_CFG.at z
  if w.tenant != 0 then s.refuseWrite w a data Res.refRights
  else s.cfgWrite w a data (s.zoneChk z)

def execZoneCfgWrite (p : Path) (z : Nat) (data : Word) (s : State) : Out :=
  .next (s.byPath p (fun w s => s.zoneCfgWrite w (z % 512) data))

/-- A write to the point window (R59 to R63). -/
def State.ptWindowWrite (s : State) (w : Who) (a : Nat) (data : Word) : State :=
  let i := (a - 0x80000) / 16
  let k := a % 16 / 4
  if k = 0 then s.ptValueWrite w i data .clean
  else if k = 1 then s.plainW Res.applied id
  else if k = 2 then s.ptConfigWrite w i data else s.ptBindWrite w i data

end Sys2Proof.Machine
end

