-- ==== Sys2Proof/Machine/LoopOps.lean ====
section
/-! DEFINITION. The control law (R101 to R115), the loop record's constraints (R116 to R135), the loop state (R136, R137),
and the operations that cross to the loop engine (R102, R162 to R165, R206 to R212). -/

namespace Sys2Proof.Machine

/-- Outcome codes (R103, R160). -/
def Oc.evaluated : Nat := 0x0
def Oc.initialised : Nat := 0x1
def Oc.tracked : Nat := 0x2
def Oc.holdPvQual : Nat := 0x3
def Oc.holdPvAge : Nat := 0x4
def Oc.holdSpQual : Nat := 0x5
def Oc.holdRights : Nat := 0x6
def Oc.holdNumeric : Nat := 0x7
def Oc.holdRecord : Nat := 0x8
def Oc.disabled : Nat := 0x9
def Oc.missed : Nat := 0xA

/-- The block code of the loop engine's records (R76, R821). -/
def leBlock : Nat := 0x08

def State.loop (s : State) (n : Nat) : LoopSt := Tab.get (fun _ => {}) s.le.loops n

def State.setLoop (s : State) (n : Nat) (l : LoopSt) : State :=
  { s with le := { s.le with loops := Tab.set (fun _ => {}) s.le.loops n l } }

/-- Word k of loop n's record (R116). -/
def recAddr (n k : Nat) : Nat := 0x100000 + 64 * n + 4 * k

def State.recWord (s : State) (n k : Nat) : Word := s.word (recAddr n k)

/-- The TIME word in force (R155). -/
def State.leTime (s : State) (n : Nat) : Word := (s.loop n).time.getD (s.recWord n 3)
def State.lePeriod (s : State) (n : Nat) : Nat := F.LE_REC_TIME_PERIOD.of (s.leTime n)
def State.lePhase (s : State) (n : Nat) : Nat := F.LE_REC_TIME_PHASE.of (s.leTime n)
def State.leTenant (s : State) (n : Nat) : Nat := s.get F.LE_REC_CTRL_TENANT n
def State.leBank (s : State) (n : Nat) : Nat := s.get F.LE_REC_CTRL_BANK n

/-- A sample boundary of loop n in frame f (R154); a record that no image has given a PERIOD has none. -/
def State.leBoundary (s : State) (n f : Nat) : Bool := s.lePeriod n != 0 && f % s.lePeriod n == s.lePhase n

/-- FLAGS as a word (R150). -/
def LoopSt.flags (l : LoopSt) : Word :=
  Word.ofN (b2n l.init + 2 * b2n l.restart + 4 * b2n l.bumpPend + 8 * (l.bankUsed % 2) + 16 * b2n l.frozen + 32 * b2n l.limHi
    + 64 * b2n l.limLo + 128 * b2n l.rateLim + 256 * (l.outcome % 16) + 4096 * (l.sup % 8 + 8 * b2n l.miss)
    + 65536 * (l.holds % 65536))

/-- LE_STATE_SCHED of a loop (R185). -/
def LoopSt.sched (l : LoopSt) : Word :=
  Word.ofN (l.feCount % 65536 + 65536 * (l.pend.getD 0 % 2) + 131072 * b2n l.pend.isSome)

/-- INIT is set (R110); one set between a latch and its repeat acts at the next evaluation (R101). -/
def State.leSetInit (s : State) (n : Nat) : State :=
  let s := s.setLoop n { s.loop n with init := true }
  match s.le.retry with
  | some (e, p) => if e.loop = n then { s with le := { s.le with retry := some ({ e with again := true }, p) } } else s
  | none => s

/-! ### The law -/

def LoopSt.clearLims (l : LoopSt) : LoopSt := { l with rateLim := false, limLo := false, limHi := false, frozen := false }

/-- A HOLD outcome's effect on the state (R105). -/
def LoopSt.hold (l : LoopSt) (code : Nat) : LoopSt :=
  { l with restart := l.restart || !l.init, holds := satAdd 16 l.holds 1, outcome := code }

/-- What an evaluation computes for every committed outcome (R107): p, d, and what they are made from. -/
structure LawTerms where
  sg : Word
  h : Word
  e : Word
  p : Word
  d : Word

def fmul (x y : Word) : Word := (fMul x y).val
def fadd (x y : Word) : Word := (fAdd x y).val
def fsub (x y : Word) : Word := (fSub x y).val
def fdiv (x y : Word) : Word := (fDiv x y).val

/-- KP, KI, KD, BW and DF of the active bank (R107). -/
def State.leCoeff (s : State) (n : Nat) : Word × Word × Word × Nat × Nat :=
  let sh := s.recWord n 15
  if s.leBank n = 0 then (s.recWord n 9, s.recWord n 10, s.recWord n 11, F.LE_REC_SHAPE_BW_A.of sh, F.LE_REC_SHAPE_DF_A.of sh)
  else (s.recWord n 12, s.recWord n 13, s.recWord n 14, F.LE_REC_SHAPE_BW_B.of sh, F.LE_REC_SHAPE_DF_B.of sh)

def State.lawTerms (s : State) (n : Nat) (y r : Word) : LawTerms :=
  let l := s.loop n
  let (kp, _, kd, bw, df) := s.leCoeff n
  let sg : Word := if s.bit F.LE_REC_CTRL_SIGN n then 0xBF800000 else 0x3F800000
  let h := fdiv (fOfNat (s.lePeriod n)) (fOfNat 100)
  let b := fdiv (fOfNat bw) (fOfNat 255)
  let a := fdiv (fOfNat df) (fOfNat 256)
  let ca := fdiv (fOfNat (256 - df)) (fOfNat 256)
  let e := fmul sg (fsub r y)
  let ep := fmul sg (fsub (fmul b r) y)
  let p := fmul kp ep
  let dIn := if l.restart then 0 else fmul sg (fsub l.yPrev y)
  let dRaw := fdiv (fmul kd dIn) h
  let d := fadd (fmul a l.dPrev) (fmul ca dRaw)
  ⟨sg, h, e, p, d⟩

/-- The state an outcome would commit, with the value written to OUT and whether every checked value is finite (R113). -/
structure LawOut where
  ok : Bool
  u : Option Word
  st : LoopSt

/-- R107, R109. -/
def State.lawEvaluated (s : State) (n : Nat) (y r : Word) : LawOut :=
  let l := s.loop n
  let t := s.lawTerms n y r
  let ki := (s.leCoeff n).2.1
  let oMin := s.recWord n 5
  let oMax := s.recWord n 6
  let iPrev := if l.bumpPend then fsub (fsub l.uPrev t.p) t.d else l.iPrev
  let inc := fmul (fmul ki t.h) t.e
  let iCand := fadd iPrev inc
  let delta := fmul (s.recWord n 7) t.h
  let up := fadd l.uPrev delta
  let dn := fsub l.uPrev delta
  let hi := fMinV oMax up
  let lo := fMaxV oMin dn
  let uRaw := fadd (fadd t.p iCand) t.d
  let out := fLt hi lo
  let freeze := !out && ((fLt hi uRaw && fLt 0 inc) || (fLt uRaw lo && fLt inc 0))
  let iNew := if out || freeze then iPrev else iCand
  let uRaw := if freeze then fadd (fadd t.p iNew) t.d else uRaw
  let u := if out then (if fLt oMax l.uPrev then dn else up) else fMinV (fMaxV uRaw lo) hi
  let u := fadd u 0
  let rate := (fEq u up || fEq u dn) && (out || (fLt oMin u && fLt u oMax))
  let st := { l with
    iPrev := iNew, dPrev := t.d, yPrev := y, uPrev := u, restart := false, bumpPend := false,
    limHi := if out then fLt oMax l.uPrev else fLt hi uRaw,
    limLo := if out then fLt l.uPrev oMin else fLt uRaw lo,
    rateLim := rate, frozen := (out || freeze) && !fEq inc 0,
    miss := false, outcome := Oc.evaluated, bankUsed := s.leBank n }
  ⟨fFinite t.p && fFinite t.d && fFinite iNew && fFinite uRaw && fFinite u, some u, st⟩

/-- R110: v and q are VALUE and QUAL of OUT. -/
def State.lawInitialised (s : State) (n : Nat) (y r v : Word) (q : Nat) : LawOut :=
  let l := s.loop n
  let t := s.lawTerms n y r
  let oMin := s.recWord n 5
  let u0 := if qualLive q then fMinV (fMaxV v oMin) (s.recWord n 6) else oMin
  let iNew := fsub (fsub u0 t.p) 0
  let u := fadd u0 0
  let st := { l.clearLims with
    iPrev := iNew, dPrev := 0, yPrev := y, uPrev := u, init := false, restart := false,
    bumpPend := false, holds := 0, miss := false, outcome := Oc.initialised, bankUsed := s.leBank n }
  ⟨fFinite t.p && fFinite iNew && fFinite u, some u, st⟩

/-- R112. -/
def State.lawTracked (s : State) (n : Nat) (y r v : Word) : LawOut :=
  let l := s.loop n
  let t := s.lawTerms n y r
  let v0 := fMinV (fMaxV v (s.recWord n 5)) (s.recWord n 6)
  let iNew := fsub (fsub v0 t.p) t.d
  let st := { l.clearLims with
    iPrev := iNew, dPrev := t.d, yPrev := y, uPrev := v0, init := false, restart := false,
    bumpPend := false, holds := if l.init then 0 else l.holds, miss := false, outcome := Oc.tracked, bankUsed := s.leBank n }
  ⟨fFinite t.p && fFinite t.d && fFinite iNew, none, st⟩

/-- The first condition of R103 that holds. -/
def State.leDecide (s : State) (n : Nat) : Nat :=
  let t := s.leTenant n
  let pv := s.get F.LE_REC_PTS_PV n
  let sp := s.get F.LE_REC_PTS_SP n
  let out := s.get F.LE_REC_OUT_OUT n
  let ageMax := s.get F.LE_REC_OUT_AGE_MAX n
  if !s.bit F.LE_REC_CTRL_EN n then Oc.disabled
  else if (s.loop n).bad != [] then Oc.holdRecord
  else if !s.readRight t pv || !s.readRight t sp || (t != 0 && s.ptTenant out != t) then Oc.holdRights
  else if !qualLive (s.ptQual pv) then Oc.holdPvQual
  else if ageMax != 0 && ageMax < s.get F.PT_STATUS_AGE pv then Oc.holdPvAge
  else if !qualLive (s.ptQual sp) then Oc.holdSpQual
  else if s.bit F.LE_REC_CTRL_TRACK n && s.ptHP out < 16 && qualLive (s.ptQual out) then Oc.tracked
  else if (s.loop n).init then Oc.initialised
  else Oc.evaluated

/-- One evaluation of loop n (R101, R103 to R113), not yet committed. -/
def State.leEvaluate (s : State) (n : Nat) : LeEval :=
  let t := s.leTenant n
  let l := s.loop n
  let y := s.ptVal (s.get F.LE_REC_PTS_PV n)
  let r := s.ptVal (s.get F.LE_REC_PTS_SP n)
  let out := s.get F.LE_REC_OUT_OUT n
  let oc := s.leDecide n
  let ev : LeEval := { loop := n, tenant := t, gen := s.gen t, outcome := oc, out := out, st := l }
  if oc = Oc.disabled then { ev with st := { l with outcome := oc } }
  else if oc = Oc.evaluated || oc = Oc.initialised || oc = Oc.tracked then
    let w := if oc = Oc.evaluated then s.lawEvaluated n y r
      else if oc = Oc.initialised then s.lawInitialised n y r (s.ptVal out) (s.ptQual out)
      else s.lawTracked n y r (s.ptVal out)
    if w.ok then { ev with u := w.u, st := w.st, fe := some (fsub r y &&& 0x7FFFFFFF) }
    else { ev with outcome := Oc.holdNumeric, numeric := true, st := l.hold Oc.holdNumeric }
  else { ev with st := l.hold oc }

/-! ### Following-error supervision -/

/-- The supervision state and FE_COUNT after an outcome (R169): FE_TIME, FE_LIMIT, PERIOD and fe. -/
def leSup (sup cnt oc feTime : Nat) (limit : Word) (period : Nat) (fe : Option Word) : Nat × Nat :=
  if feTime = 0 then (0, 0)
  else
    match (if oc = Oc.evaluated || oc = Oc.initialised then fe else none) with
    | some f =>
      let inside := fLe f limit
      if sup = 2 then
        (if inside then (1, 0) else if cnt + period < feTime then (2, cnt + period) else (3, Nat.min (cnt + period) 0xFFFF))
      else if sup = 3 then (if inside then (1, 0) else (3, cnt))
      else (if inside then (1, 0) else (2, 0))
    | none => if sup = 1 || sup = 2 then (4, 0) else (sup, cnt)

/-- A record of the first event since VALID was cleared (R144, R145, R147, R179, R181). -/
def State.firstOf (s : State) (valid : Fld) (f : State → State) : State := if s.bit valid then s else (f s).put valid 1

/-- Supervision after an outcome of loop n, from the committed state (R168 to R170). DISABLED changes nothing. The event
of leaving EXCEEDED carries fe where the outcome has one. -/
def State.leSupervise (s : State) (n oc : Nat) (fe : Option Word) : State :=
  if oc = Oc.disabled then s
  else
    let l := s.loop n
    let (sup, cnt) := leSup l.sup l.feCount oc (s.get F.LE_REC_SUP_FE_TIME n) (s.recWord n 8) (s.lePeriod n) fe
    let t := s.leTenant n
    let s := s.setLoop n { l with sup := sup, feCount := cnt }
    let flds := leBytes 2 n ++ (match fe with | some f => leBytes 4 f.toNat | none => [])
    if sup = 3 && l.sup != 3 then
      (((s.postEvt t leBlock 1 flds).icPulse 108).inc F.LE_FE_ENTRIES).firstOf F.LE_FE_LAST_VALID (fun s => s.put F.LE_FE_LAST_LOOP n)
    else if l.sup = 3 && sup != 3 then (s.postEvt t leBlock 2 flds).inc F.LE_FE_EXITS
    else s

/-- The group {EVALUATED, INITIALISED, TRACKED} of R106, and the HOLD outcomes. -/
def ocActive (c : Nat) : Bool := c ≤ 2
def ocHold (c : Nat) : Bool := 3 ≤ c && c ≤ 8

/-- Commit an agreed evaluation (R106, R111, R113, R138). A first outcome that is HOLD_NUMERIC posts its error record, as no other
outcome precedes it (log entry 31). -/
def State.leCommit (s : State) (ev : LeEval) : State :=
  let n := ev.loop
  let prev := (s.loop n).last
  let l := s.loop n
  let st := { ev.st with
    pend := l.pend, time := l.time, bad := l.bad, sup := l.sup, feCount := l.feCount,
    init := ev.st.init || ev.again, last := if ev.outcome = Oc.disabled then prev else some ev.outcome }
  let s := (s.setLoop n st).leSupervise n ev.outcome ev.fe
  let moved := match prev with
    | some p => (ocActive p && ocHold ev.outcome) || (ocHold p && ocActive ev.outcome)
    | none => false
  let s := if moved then s.postEvt ev.tenant leBlock 0 (leBytes 2 n ++ leBytes 1 (prev.getD 0) ++ leBytes 1 ev.outcome) else s
  let s := if ev.numeric then
      let s := ((s.inc F.LE_NUM_COUNT).firstOf F.LE_NUM_VALID (fun s => s.put F.LE_NUM_LOOP n)).icPulse 106
      if prev != some Oc.holdNumeric then s.fresh.postErr2 ev.tenant leBlock (Config.freeNat s.free % 65536) [] else s
    else s
  match ev.u with
  | some u =>
    let oq := s.le.oq ++ [⟨n, ev.out, u, ev.tenant, ev.gen⟩]
    let s := { s with le := { s.le with oq := oq } }
    s.put F.LE_OQ_PEAK (Nat.max (s.get F.LE_OQ_PEAK) (Nat.min oq.length 255))
  | none => s

/-! ### ECC of records and state -/

/-- A single-bit error corrected (R137). -/
def State.leSbe (s : State) : State := s.inc F.LE_ECC_SBE

/-- What every double-bit error leaves (R137). The CODE of its error record is free (log entry 3). -/
def State.leDbe (s : State) (n w : Nat) (rec : Bool) : State :=
  let s := s.inc (if rec then F.LE_ECC_REC_DBE else F.LE_ECC_STATE_DBE)
  let s := s.firstOf F.LE_ECC_LAST_VALID (fun s => ((s.put F.LE_ECC_LAST_LOOP n).put F.LE_ECC_LAST_WORD w).put F.LE_ECC_LAST_RECORD (b2n rec))
  s.fresh.postErr2 (s.leTenant n) leBlock (Config.freeNat s.free % 65536) []

def State.leRecEcc (s : State) (n : Nat) : Ecc → State
  | .clean => s
  | .sbe => s.leSbe
  | .dbe w => (s.setLoop n { s.loop n with bad := (w % 16 :: (s.loop n).bad).dedup }).leDbe n (w % 16) true

def State.leStateEcc (s : State) (n : Nat) : Ecc → State
  | .clean => s
  | .sbe => s.leSbe
  | .dbe w =>
    let l := s.loop n
    let l := if w % 5 = 4 then { pend := l.pend, time := l.time, bad := l.bad }
      else { l with iPrev := 0, dPrev := 0, yPrev := 0, uPrev := 0, init := true }
    (s.setLoop n l).leDbe n (w % 5) false

/-! ### Writing a loop record -/

/-- The deadline constraint of R158 for a PERIOD. -/
def deadlineOk (deadline period : Nat) : Bool := deadline = 0 || (11 ≤ deadline && deadline ≤ Nat.min 65535 (1000 * period))

/-- A word of the record as it is stored: −0.0 in a gain or an output limit becomes +0.0 (R134); the BANK bit and
reserved bits ignore writes. -/
def State.recMerge (s : State) (n k : Nat) (v : Word) : Word :=
  let v := if (k = 5 || k = 6 || (9 ≤ k && k ≤ 14)) && v = 0x80000000 then 0 else v
  match fieldsAt (recAddr n k) with
  | some fs => mergeWrite fs (s.recWord n k) v
  | none => v

/-- The constraints of R117 to R132 on word k of a record whose words are given (R134). -/
def recWordOk (w : Nat → Word) (k : Nat) : Res :=
  let x := w k
  let pv := F.LE_REC_PTS_PV.of (w 1)
  let sp := F.LE_REC_PTS_SP.of (w 1)
  let out := F.LE_REC_OUT_OUT.of (w 2)
  let period := F.LE_REC_TIME_PERIOD.of (w 3)
  if k = 1 || k = 2 then (if out = pv || out = sp then Res.refConfig else Res.applied)
  else if k = 3 then
    (if period = 0 || period ≤ F.LE_REC_TIME_PHASE.of x || !deadlineOk (F.LE_REC_SUP_DEADLINE.of (w 4)) period then Res.refConfig
     else Res.applied)
  else if k = 4 then (if deadlineOk (F.LE_REC_SUP_DEADLINE.of x) period then Res.applied else Res.refConfig)
  else if k = 5 || k = 6 then
    (if !fFinite x then Res.refValue else if fLe (w 5) (w 6) then Res.applied else Res.refConfig)
  else if k = 7 then
    (if fIsNaN x || x = 0xFF800000 then Res.refValue else if fLt 0 x then Res.applied else Res.refConfig)
  else if 8 ≤ k && k ≤ 14 then (if !fFinite x then Res.refValue else if fLt x 0 then Res.refConfig else Res.applied)
  else Res.applied

/-- LOOPS used by a tenant (R619). -/
def State.loopsUsed (s : State) (t : Nat) : Nat :=
  ((s.listed R.LE_REC_CTRL).filter (fun e => F.LE_REC_CTRL_TENANT.of e.2 == t)).length

/-- The writer is tenant 0, or the owner with an ACTIVE context (R133, R163, R617). -/
def State.mayAct (s : State) (t owner : Nat) : Bool := t = 0 || (t = owner && s.tstate t = 1)

/-- The decision on a write of word k (R94, R133, R134, R154, R158, R168, R619). A tenant other than 0 that writes one of the
words of tenant 0 alone is refused by rights, its own loop's too (log entry 117). -/
def State.recDecide (s : State) (tenant n k : Nat) (v : Word) : Res :=
  let owner := s.leTenant n
  let x := s.recMerge n k v
  let en := s.bit F.LE_REC_CTRL_EN n
  let bank := s.leBank n
  let old := s.recWord n k
  if tenant != 0 && (k ≤ 4 || !s.mayAct tenant owner) then Res.refRights
  else
    let c := recWordOk (fun j => if j = k then x else s.recWord n j) k
    if c != Res.applied then c
    else if 9 ≤ k && k ≤ 14 && en && decide (12 ≤ k) == (bank == 1) then Res.refConfig
    else if k = 15 && en && bitsOf x (16 * bank) 16 != bitsOf old (16 * bank) 16 then Res.refConfig
    else if k = 0 then
      let t := F.LE_REC_CTRL_TENANT.of x
      if F.LE_REC_CTRL_INZONE.of x = 1 && !s.zoneOk (F.LE_REC_CTRL_ZONE.of x) t then Res.refConfig
      else if t != 0 && t != owner && s.get F.TEN_QLOOP_LIMIT t ≤ s.loopsUsed t then Res.refConfig
      else Res.applied
    else Res.applied

/-- An accepted write of word k takes effect (R110, R133, R137, R155). -/
def State.recApply (s : State) (n k : Nat) (v : Word) : State :=
  let x := s.recMerge n k v
  let old := s.recWord n k
  let l := s.loop n
  let l := { l with bad := l.bad.filter (· != k), time := if k = 3 then some (s.leTime n) else l.time }
  let s := (s.setLoop n l).setWord (recAddr n k) x
  let starts := k = 0 && ((F.LE_REC_CTRL_EN.of old = 0 && F.LE_REC_CTRL_EN.of x = 1) || F.LE_REC_CTRL_SIGN.of old != F.LE_REC_CTRL_SIGN.of x)
  if k = 1 || k = 2 || starts then s.leSetInit n else s

/-! ### The crossing to the engine -/

def State.leFifo (s : State) (f : Nat) : List LeOp := s.le.fifos.getD f []

def State.setFifo (s : State) (f : Nat) (l : List LeOp) : State := { s with le := { s.le with fifos := putAt [] s.le.fifos f l } }

/-- An operation enters a FIFO (R102, R206). A full FIFO stalls its writer, so no entry is lost (R720). -/
def State.lePush (s : State) (f : Nat) (op : LeOp) : State := s.setFifo f (s.leFifo f ++ [op])

/-- A path's own operation, with the tenant and generation of this moment. -/
def State.leOpOf (s : State) (w : Who) (addr : Nat) (ask : LeAsk) (data : Word) : LeOp :=
  { ask := ask, tenant := w.tenant, gen := s.gen w.tenant, ifc := w.ifc, addr := addr, run := 0, data := data }

/-- Who an operation acts as. -/
def LeOp.who (op : LeOp) : Who := ⟨15, op.tenant, op.ifc, 12, true, 15⟩

/-- The entries that end a command of the command queue (R612): an error unless accepted, and a CMD_RESULT with NOTIFY. -/
def State.cmdResult (s : State) (t op index cookie res : Nat) (notify accepted : Bool) : State :=
  let flds := leBytes 1 op ++ leBytes 2 index ++ leBytes 2 cookie ++ leBytes 1 res
  let s := if accepted then s else s.postErr t 0x0C res flds
  if notify then s.post .evt t 3 0x0C res flds else s

def resOk (r : Res) : Bool := r = Res.applied || r = Res.relinquished

/-- The decided operation is answered: a command's result entries, or an LX acknowledgement on its way (R211, R612). -/
def State.leAnswer (s : State) (f : Nat) (op : LeOp) (status index : Nat) : State :=
  if f = 0 then
    match op.cmd with
    | some (cookie, o, notify) => s.cmdResult op.tenant o index cookie status notify (resOk status)
    | none => s
  else
    let c := s.core (f - 1)
    s.setCore (f - 1) { c with acks := c.acks ++ [(op.run, status)] }

/-- Commit-buffer entries of core k retire in order while the FIFO of eight entries has room, and the core stalls on the first
that it has none for (R206, R209). -/
def State.lxRetire (s : State) (k : Nat) : List LeOp → State
  | [] => s.setCore k { s.core k with cbuf := [], wait := none }
  | op :: rest =>
    let c := s.core k
    if (s.leFifo (k + 1)).length < 8 then
      ((s.setCore k { c with unacked := c.unacked + 1, pc := c.pc + 4 }).lePush (k + 1) op).lxRetire k rest
    else s.setCore k { c with cbuf := op :: rest, wait := some .fifo }

/-- FIFO f has room again: a core that stalled on it goes on; an operation left in retire enters first (R200). -/
def State.lxRoom (s : State) (f : Nat) : State :=
  if f = 0 then s
  else
    let c := s.core (f - 1)
    if c.wait = some .fifo then s.lxRetire (f - 1) c.cbuf
    else if c.wait = some .retire then
      let own := c.cbuf.countP (fun op => op.run == c.run)
      let s := s.setCore (f - 1) { c with cbuf := [], wait := none, unacked := c.unacked + own }
      s.each c.cbuf (fun op s => s.lePush f op)
    else s

/-- Take the head of FIFO f, if it is the kind of operation meant. LX operations of an engine fault, or of a generation no
longer current, end without effect (R211, R212, R615). -/
def State.leTake (s : State) (f : Nat) (kind : LeAsk → Bool) (apply : LeOp → State → State) : State :=
  match s.leFifo f with
  | [] => s
  | op :: rest =>
    if !kind op.ask then s
    else
      let s := (s.setFifo f rest).lxRoom f
      if f != 0 && s.bit F.LE_LS_STAT_FAULT then s.leAnswer f op 0x20 0
      else if f != 0 && op.gen != s.gen op.tenant then (s.inc F.TEN_CNT_DISC_GEN 1 op.tenant).leAnswer f op 0x21 0
      else apply op s

/-- An audited loop operation: its record names the loop (R135, R163). -/
def State.leAudit (s : State) (op : LeOp) (ttype target : Nat) (old new : Word) (res : Res) (eff : State → State) : State :=
  s.auditW op.who { ttype := ttype, target := target, addr := op.addr, old := old, new := new, gen := some op.gen } res
    (fun s => if res = Res.applied then eff s else s)

def State.leApplyWord (s : State) (f : Nat) (op : LeOp) : State :=
  match op.ask with
  | .word n k v =>
    let n := n % 8192
    let res := s.recDecide op.tenant n k v
    let s := s.leAudit op 1 n (s.recWord n k) v res (fun s => s.recApply n k v)
    s.leAnswer f op s.wres n
  | _ => s

/-- A pending swap is set or cleared (R162). -/
def State.swapTarget (s : State) (n bank : Nat) : State :=
  s.setLoop n { s.loop n with pend := if bank = s.leBank n then none else some bank }

def State.leApplySwap (s : State) (f : Nat) (op : LeOp) : State :=
  match op.ask with
  | .swap n bank =>
    let n := n % 8192
    let res := if s.mayAct op.tenant (s.leTenant n) then Res.applied else Res.refRights
    let s := s.leAudit op 1 n 0 op.data res (fun s => s.swapTarget n (bank % 2))
    s.leAnswer f op s.wres n
  | _ => s

/-- The decision on a group request or cancel (R163, R165). -/
def State.groupDecide (s : State) (tenant : Nat) (x : Word) : Res :=
  if !s.mayAct tenant (s.get F.LE_SWG_CFG_OWNER (F.LE_SWG_CMD_GROUP.of x)) then Res.refRights
  else if F.LE_SWG_CMD_CANCEL.of x = 0 && F.LE_SWG_CMD_DELAY.of x = 0 then Res.refConfig
  else Res.applied

/-- LE_SWG_STAT and LE_SWG_T of group g show a request: pending or not, its mode, bank and target frame (R186). -/
def State.groupShow (s : State) (g pend : Nat) (r : Nat × Nat × Nat) : State :=
  let s := ((s.put F.LE_SWG_STAT_PEND pend g).put F.LE_SWG_STAT_ALIGN r.1 g).put F.LE_SWG_STAT_BANK r.2.1 g
  s.setWord (R.LE_SWG_T.at g) (Word.ofN r.2.2)

/-- An accepted group request or cancel takes effect (R165). After a cancel of a pending request the registers show the last
applied one (R186). -/
def State.groupApply (s : State) (x : Word) : State :=
  let g := F.LE_SWG_CMD_GROUP.of x
  if F.LE_SWG_CMD_CANCEL.of x = 1 then
    if s.bit F.LE_SWG_STAT_PEND g then s.groupShow g 0 ((s.le.swgLast.lookup g).getD (0, 0, 0)) else s
  else
    let t := s.frame + F.LE_SWG_CMD_DELAY.of x
    let s := s.groupShow g 1 (F.LE_SWG_CMD_ALIGN.of x, F.LE_SWG_CMD_BANK.of x, t)
    { s with le := { s.le with swgT := Tab.put g (t % 2 ^ 48) s.le.swgT } }

def State.leApplyGroup (s : State) (f : Nat) (op : LeOp) : State :=
  match op.ask with
  | .group x =>
    let s := s.leAudit op 2 0 0 x (s.groupDecide op.tenant x) (fun s => s.groupApply x)
    s.leAnswer f op s.wres 0
  | _ => s

/-- INIT by an LX operation, with the rights of LE_STATE_SEL.REINIT (R207). -/
def State.leApplyReinit (s : State) (f : Nat) (op : LeOp) : State :=
  match op.ask with
  | .reinit n =>
    let n := n % 8192
    let res := if s.mayAct op.tenant (s.leTenant n) then Res.applied else Res.refRights
    let s := s.leAudit op 1 n (s.loop n).flags op.data res (fun s => s.leSetInit n)
    s.leAnswer f op s.wres n
  | _ => s

/-- LXFO: an override-band write to the loop's OUT point (R207); a priority outside 1 to 4 gives REFUSED_RANGE. -/
def State.leApplyForce (s : State) (f : Nat) (op : LeOp) : State :=
  match op.ask with
  | .force n prio v =>
    let out := s.get F.LE_REC_OUT_OUT (n % 8192)
    let s := if 1 ≤ prio && prio ≤ 4 then s.ptWrite op.who out .write prio v 0 (fun t => { t with gen := some op.gen })
      else s.auditW op.who { ttype := 0, target := s.cpid out, old := s.ptVal out, new := v, prio := prio, gen := some op.gen } Res.refRange id
    s.leAnswer f op s.wres n
  | _ => s

def State.leApplyRelease (s : State) (f : Nat) (op : LeOp) : State :=
  match op.ask with
  | .release n prio =>
    let out := s.get F.LE_REC_OUT_OUT (n % 8192)
    let s := s.ptWrite op.who out .relinquish prio 0 0 (fun t => { t with gen := some op.gen })
    s.leAnswer f op s.wres n
  | _ => s

/-- What the head of FIFO f asks is applied, whatever it is. -/
def State.leApplyHead (s : State) (f : Nat) : State :=
  s.leTake f (fun _ => true) (fun op s =>
    match op.ask with
    | .word .. => s.leApplyWord f op
    | .swap .. => s.leApplySwap f op
    | .group .. => s.leApplyGroup f op
    | .reinit .. => s.leApplyReinit f op
    | .force .. => s.leApplyForce f op
    | .release .. => s.leApplyRelease f op)

/-- Every operation that waits in the FIFO of R102 is applied: a read of the loop table that follows a write on its path
returns the written value (R102). -/
def State.leDrain (s : State) : State := if s.le.rst then s else (s.leFifo 0).foldl (fun s _ => s.leApplyHead 0) s

end Sys2Proof.Machine
end

