-- ==== Sys2Proof/Machine/Operands.lean ====
section
/-! DEFINITION. The operand forms of the Skehil instructions (R188, R192, R193, R197): registers, immediates, offsets, and
the address map of a core (R189, R217). -/

namespace Sys2Proof.Machine

/-- A register number (R188). -/
abbrev Rg := Fin 16

/-- The value of a register: w0 reads as 0 (R188). -/
def SkCore.reg (c : SkCore) (r : Rg) : Word := if r = 0 then 0 else c.regs.getD r.val 0

/-- A write to a register: one to w0 is discarded (R188). -/
def SkCore.setReg (c : SkCore) (r : Rg) (v : Word) : SkCore := if r = 0 then c else { c with regs := putAt 0 c.regs r.val v }

/-- An 18-bit immediate extended by its top bit, or by zeros (R193). -/
def sext18 (i : BitVec 18) : Word := i.signExtend 32
def zext18 (i : BitVec 18) : Word := i.zeroExtend 32

/-- The target of a branch or jump: PC + 4 × sext(off) (R193). -/
def brTarget (pc : Nat) (off : Word) : Nat := (pc + (off <<< 2).toNat) % 2 ^ 32

/-- The address of a load or store (R194). -/
def SkCore.addr (c : SkCore) (ra : Rg) (imm : BitVec 18) : Nat := (c.reg ra + sext18 imm).toNat

/-- The running or last task of a core. -/
def State.skTask (s : State) (k : Nat) : Nat := (s.core k).task.getD 0

/-- The tenant that core k acts with (R187). -/
def State.skTenant (s : State) (k : Nat) : Nat := if k = 0 then 0 else s.get F.SK_STAT_TENANT k

/-- The generation captured at dispatch (R210, R220). -/
def State.skGen (s : State) (k : Nat) : Nat := if k = 0 then s.gen 0 else s.get F.SK_STAT_GEN k

/-- Who core k writes as (R187, R568). -/
def State.skWho (s : State) (k : Nat) : Who := ⟨15, s.skTenant k, if k = 0 then 10 else 6, 12, true, 15⟩

/-- The PC lies in IMEM, in the task's instruction segment, and is aligned (R213, R217). -/
def State.skPcOk (s : State) (k pc : Nat) : Bool :=
  let t := s.skTask k
  let b := s.get F.SK_TASK_SEG_IBASE k t
  let z := s.get F.SK_TASK_SEG_ISIZE k t
  pc % 4 == 0 && pc < 0x10000 && (k == 0 || (256 * b ≤ pc && pc < 256 * (b + z + 1)))

/-- The address lies in DMEM, on a rule core in the task's data segment (R189, R217). -/
def State.skDataOk (s : State) (k a : Nat) : Bool :=
  let t := s.skTask k
  let b := s.get F.SK_TASK_SEG_DBASE k t
  let z := s.get F.SK_TASK_SEG_DSIZE k t
  0x10000 ≤ a && a < 0x20000 && (k == 0 || (0x10000 + 256 * b ≤ a && a < 0x10000 + 256 * (b + z + 1)))

/-- The address lies in the register space as SK0 sees it (R189). -/
def skRegSpace (k a : Nat) : Bool := k == 0 && 0x10000000 ≤ a && a < 0x11000000

/-- Where a word of a core's memory is kept: an address of the register space for SK1 to SK3 (R191). -/
def skMemKey (k a : Nat) : Nat := if k = 0 then a / 4 * 4 else 0x210000 + 0x20000 * (k - 1) + a / 4 * 4

/-- A word of a core's IMEM or DMEM, and its write; a full-word write removes an ECC error (R190). -/
def State.skMem (s : State) (k a : Nat) : Word :=
  if k = 0 then Tab.get (fun _ => 0) s.sk0mem (skMemKey k a) else s.word (skMemKey k a)

def State.setSkMem (s : State) (k a : Nat) (v : Word) : State :=
  let c := s.core k
  let s := s.setCore k { c with bad := c.bad.filter (· != a / 4 * 4) }
  if k = 0 then { s with sk0mem := Tab.set (fun _ => 0) s.sk0mem (skMemKey k a) v } else s.setWord (skMemKey k a) v

/-- The byte or halfword of a word at an address, little-endian (R10, R189). -/
def loadByte (x : Word) (a : Nat) : BitVec 8 := BitVec.ofNat 8 (x.toNat / 2 ^ (8 * (a % 4)))
def loadHalf (x : Word) (a : Nat) : BitVec 16 := BitVec.ofNat 16 (x.toNat / 2 ^ (8 * (a % 4 / 2 * 2)))

/-- A word with that byte or halfword replaced. -/
def storeByte (x : Word) (a : Nat) (v : Word) : Word := setBits x (8 * (a % 4)) 8 v.toNat
def storeHalf (x : Word) (a : Nat) (v : Word) : Word := setBits x (8 * (a % 4 / 2 * 2)) 16 v.toNat

end Sys2Proof.Machine
end

