-- ==== Sys2Proof/Machine/SkehilOps.lean ====
section
/-! DEFINITION. How a Skehil core runs an instruction (R198 to R201, R213 to R216), starts and ends tasks (R217 to R224), and
takes back what the loop engine answers (R208, R211). -/

namespace Sys2Proof.Machine

/-- Causes (R213). -/
def Cause.illegal : Nat := 0x1
def Cause.ifetch : Nat := 0x2
def Cause.align : Nat := 0x3
def Cause.access : Nat := 0x4
def Cause.index : Nat := 0x5
def Cause.ecc : Nat := 0x6
def Cause.break_ : Nat := 0x7
def Cause.budget : Nat := 0x8
def Cause.reset : Nat := 0x9
def Cause.func : Nat := 0xA

def skBlock : Nat := 0x0A

/-- The core executes: SK0 since the end of boot, a rule core while a task runs (R217, R219). -/
def State.skRuns (s : State) (k : Nat) : Bool := if k = 0 then (s.core 0).started else (s.core k).task.isSome

/-- STOPPED: RUN is 0 and no task runs (R226). -/
def State.skStopUpd (s : State) (k : Nat) : State :=
  if k = 0 then s else s.put F.SK_CTRL_STOPPED (b2n (!s.bit F.SK_CTRL_RUN k && (s.core k).task.isNone)) k

/-- The rule-core time of a tenant (R619), in µs of CK_SYS cycles of 4 ns; tenant 0 has no quota. -/
def State.rcCharge (s : State) (t cycles : Nat) : State := if t = 0 then s else s.inc F.TEN_QRC_USED_USED (cycles / 250) t

/-- The first abort or SK0 cause since VALID was cleared (R228). -/
def State.skAbortReg (s : State) (k cause pc : Nat) : State :=
  if s.bit F.SK_ABORT_VALID k then s
  else
    let t := if k = 0 then 0 else s.skTask k
    let s := ((s.put F.SK_ABORT_CAUSE cause k).put F.SK_ABORT_TASK t k).put F.SK_ABORT_TENANT (s.skTenant k) k
    (s.put F.SK_ABORT_PC_PC pc k).put F.SK_ABORT_VALID 1 k

/-- The source an EVENT task of the core names (R218). -/
def State.skEventSrc (s : State) (k t : Nat) : Option Nat :=
  if s.get F.SK_TASK_CTL_TRIG k t = 1 then some (s.get F.SK_TASK_TRIG_ARG k t % 256) else none

/-- The dispatcher completes the source that the ended task names (R643). -/
def State.skComplete (s : State) (k t : Nat) : State :=
  match s.skEventSrc k t with
  | some n =>
    let c := s.core k
    if c.claimed.contains n then (s.setCore k { c with claimed := c.claimed.filter (fun x => x != n) }).icRelease n else s
  | none => s

/-- The oldest instruction that is not in retire: an LX operation that stalls for room in its FIFO is in retire (R206, R209). -/
def SkCore.oldest (c : SkCore) : Nat := if c.wait = some .fifo then c.pc + 4 else c.pc

/-- What squashes everything not in retire (R200, R214): the instruction in retire completes when its FIFO has room. -/
def SkCore.squash (c : SkCore) : SkCore :=
  let l := if c.wait = some .fifo then c.cbuf.take 1 else if c.wait = some .retire then c.cbuf else []
  { c with cbuf := l, wait := if l = [] then none else some .retire, loaded := none }

/-- The cycles of the running task, stalls included, as far as its budget (R221): at least what has passed since its start, in
CK_SYS cycles of 4 ns (log entry 6). -/
def State.skCycles (s : State) (k : Nat) : Nat :=
  let c := s.core k
  min (max c.cycles (250 * (s.now - c.startAt))) (64 * s.get F.SK_TASK_ENTRY_BUDGET k (s.skTask k))

/-- The running task ends: its cycles are charged, later answers are not its own, and the source it served is completed
(R215, R221, R619, R643). -/
def State.skEnd (s : State) (k : Nat) : State :=
  let s := match (s.core k).task with | some t => s.skComplete k t | none => s
  let c := s.core k
  let s := s.rcCharge (s.skTenant k) (s.skCycles k)
  let s := s.setCore k { c.squash with task := none, unacked := 0, run := c.run + 1 }
  (s.put F.SK_STAT_BUSY 0 k).skStopUpd k

/-- A task abort (R215): its records, the abort source of the core, and the end of the task. The CODE of the error record
is free (log entry 3). -/
def State.skAbort (s : State) (k cause : Nat) : State :=
  let c := s.core k
  let t := if cause = Cause.reset then 0 else s.skTenant k
  let s := (s.inc F.SK_CNT_ABORTS 1 k).skAbortReg k cause c.oldest
  let flds := leBytes 1 k ++ leBytes 1 (c.task.getD 0) ++ leBytes 1 cause ++ leBytes 2 c.oldest ++ leBytes 2 (c.lxFirst + 256 * c.lxCount)
  let s := s.fresh.postErr t skBlock (Config.freeNat s.free % 65536) flds
  (s.icSet (226 + 10 * (k - 1) + 9)).skEnd k

/-- SK0 leaves its program for SK_VEC (R216): what is in retire completes, the rest is squashed. -/
def State.sk0Trap (s : State) : State :=
  let c := s.core 0
  let s := s.put F.SK_EPC_EPC c.oldest
  s.setCore 0 { c.squash with pc := s.get F.SK_VEC_VEC, inHandler := true }

/-- A cause of the present instruction (R214 to R216). -/
def State.skCause (s : State) (k cause : Nat) : State :=
  if k = 0 then (s.skAbortReg 0 cause (s.core 0).pc).sk0Trap else s.skAbort k cause

/-- The budget of the running task in cycles (R221). -/
def State.skBudget (s : State) (k : Nat) : Nat := 64 * s.get F.SK_TASK_ENTRY_BUDGET k (s.skTask k)

/-- The ECC of a fetched or loaded word (R190): false when it gives cause ECC. -/
def State.skEcc (s : State) (k a : Nat) (e : Ecc) : State × Bool :=
  let a := a / 4 * 4
  let c := s.core k
  match e with
  | .sbe => if c.bad.contains a then (s.inc F.SK_ECC_DBE 1 k, false) else (s.inc F.SK_ECC_SBE 1 k, true)
  | .dbe _ => ((s.setCore k { c with bad := (a :: c.bad).dedup }).inc F.SK_ECC_DBE 1 k, false)
  | .clean => if c.bad.contains a then (s.inc F.SK_ECC_DBE 1 k, false) else (s, true)

/-- A use at once of what the instruction before has loaded stalls one cycle (R198); `src` lists the registers used. -/
def SkCore.stall (c : SkCore) (src : List Rg) : Nat :=
  match c.loaded with
  | some r => b2n (src.any (fun x => x.val == r))
  | none => 0

/-- One instruction of core k: nothing happens while the core does not execute or its oldest instruction waits. The cycle
count advances by what R198 and R199 fix; a task that reaches its budget is aborted (R221). A PC out of range gives IFETCH,
a double-bit error in the fetched word ECC (R190, R213). `f` gives the effect at retire. -/
def State.skStep (s : State) (k cost : Nat) (src : List Rg) (e : Ecc) (f : State → State) : State :=
  let c := s.core k
  if !s.skRuns k || c.wait.isSome then s
  else
    let n := c.cycles + cost + c.stall src
    let s := s.setCore k { c with cycles := n, loaded := none }
    if k != 0 && s.skBudget k ≤ n then s.skAbort k Cause.budget
    else if !s.skPcOk k c.pc then s.skCause k Cause.ifetch
    else
      let (s, ok) := s.skEcc k c.pc e
      if ok then f s else s.skCause k Cause.ecc

/-- The next instruction in sequence. -/
def SkCore.advance (c : SkCore) : SkCore := { c with pc := c.pc + 4 }

/-- An instruction that writes rd and raises events, and goes on (R194, R196). -/
def State.skWrite (s : State) (k : Nat) (rd : Rg) (r : FRes) : State :=
  let c := s.core k
  s.setCore k { (c.setReg rd r.val) with cflags := flagOr c.cflags r.flags }.advance

/-- A register-to-register instruction. -/
def State.skAlu (s : State) (k : Fin 4) (e : Ecc) (cost : Nat) (rd ra rb : Rg) (f : Word → Word → FRes) : State :=
  s.skStep k cost [ra, rb] e (fun s => s.skWrite k rd (f ((s.core k).reg ra) ((s.core k).reg rb)))

/-- An instruction with an immediate operand. -/
def State.skImm (s : State) (k : Fin 4) (e : Ecc) (rd ra : Rg) (y : Word) (f : Word → Word → FRes) : State :=
  s.skStep k 1 [ra] e (fun s => s.skWrite k rd (f ((s.core k).reg ra) y))

/-- A shift by an immediate: imm18[17:5] must be 0 (R194). -/
def State.skShImm (s : State) (k : Fin 4) (e : Ecc) (rd ra : Rg) (imm : BitVec 18) (f : Word → Word → FRes) : State :=
  s.skStep k 1 [ra] e (fun s =>
    if 32 ≤ imm.toNat then s.skCause k Cause.illegal else s.skWrite k rd (f ((s.core k).reg ra) (zext18 imm)))

/-- A result without events. -/
def plain (f : Word → Word → Word) (x y : Word) : FRes := ⟨f x y, 0⟩

/-- A branch (R194, R199). -/
def State.skBranch (s : State) (k : Fin 4) (e : Ecc) (ra rb : Rg) (off : BitVec 18) (p : Word → Word → Bool) : State :=
  s.skStep k 1 [ra, rb] e (fun s =>
    let c := s.core k
    if p (c.reg ra) (c.reg rb) then s.setCore k { c with pc := brTarget c.pc (sext18 off), cycles := c.cycles + 2 }
    else s.setCore k c.advance)

/-! ### LX operations -/

/-- Merge a status into the LX accumulator (R211). -/
def SkCore.merge (c : SkCore) (status : Nat) : SkCore :=
  if status = 0 then c
  else { c with lxFirst := if c.lxCount = 0 then status else c.lxFirst, lxCount := satAdd 8 c.lxCount 1 }

/-- The commit-buffer entry of a state-changing LX operation (R209, R210). -/
def State.lxOp (s : State) (k : Nat) (ask : LeAsk) (data : Word) : LeOp :=
  let w := s.skWho k
  { ask := ask, tenant := w.tenant, gen := s.skGen k, ifc := w.ifc, addr := 0, run := (s.core k).run, data := data }

/-- A state-changing LX operation enters execute while an older instruction waits (R198, R206, R209): behind a read in memory
one entry is allocated, unless the operation uses what the read returns; behind a retire that stalls, one in memory and one in
execute. Behind an LXSYNC or DONE that waits the model allocates none (log entry 149). An instruction that would give a cause waits
(R214). -/
def State.lxEarly (s : State) (k : Nat) (src : List Rg) (e : Ecc) (ask : SkCore → Option (LeAsk × Word)) : State :=
  let c := s.core k
  let n := c.cbuf.length
  let (room, pc) := match c.wait with
    | some (.read rd _) => (n == 0 && (rd == 0 || !src.any (fun x => x.val == rd)), c.pc + 4)
    | some .fifo => (decide (n < 3), c.pc + 4 * n)
    | _ => (false, c.pc)
  match ask c with
  | some (a, data) =>
    if room && s.skRuns k && s.skPcOk k pc && (k == 0 || c.cycles + 1 < s.skBudget k) then
      let r := s.skEcc k pc e
      let c := r.1.core k
      if r.2 then r.1.setCore k { c with cycles := c.cycles + 1, cbuf := c.cbuf ++ [r.1.lxOp k a data] } else s
    else s
  | none => s

/-- A state-changing LX operation (R207): its entry is sent as it retires (R209). `ask` gives what it asks; none is INDEX. -/
def State.lxChange (s : State) (k : Fin 4) (e : Ecc) (src : List Rg) (ask : SkCore → Option (LeAsk × Word)) : State :=
  if (s.core k).wait.isSome then s.lxEarly k src e ask
  else
    s.skStep k 1 src e (fun s =>
      match ask (s.core k) with
      | some (a, data) => s.lxRetire k [s.lxOp k a data]
      | none => s.skCause k Cause.index)

/-- The loop that ra names: a non-zero ra[31:13] gives INDEX (R207). -/
def SkCore.loop (c : SkCore) (ra : Rg) (f : Nat → LeAsk × Word) : Option (LeAsk × Word) :=
  if 8192 ≤ (c.reg ra).toNat then none else some (f (c.reg ra).toNat)

/-- A read-only LX operation (R207). -/
def State.lxRead (s : State) (k : Fin 4) (e : Ecc) (ra : Rg) (f : Nat → State → State) : State :=
  s.skStep k 1 [ra] e (fun s =>
    let x := ((s.core k).reg ra).toNat
    if 8192 ≤ x then s.skCause k Cause.index else f x s)

/-- A read-only LX operation is issued (R208). -/
def State.lxIssue (s : State) (k : Nat) (rd : Rg) (loop word : Nat) (isState : Bool) : State :=
  let c := s.core k
  let r : LeAskRead := ⟨loop, word, isState, s.skTenant k, s.skGen k⟩
  s.setCore k { c with reads := c.reads ++ [(c.seq3, r)], wait := some (.read rd.val c.seq3), seq3 := (c.seq3 + 1) % 8 }

/-- The engine's answer to a read: the word and its status (R137, R210 to R212). A loop whose TENANT is neither the task's nor 0
is refused, to a task of tenant 0 too, in R210's own words (log entry 122). -/
def State.lxReadWord (s : State) (r : LeAskRead) : Word × Nat :=
  let l := s.loop r.loop
  if s.bit F.LE_LS_STAT_FAULT then (0, 0x20)
  else if r.gen != s.gen r.tenant then (0, 0x21)
  else if s.leTenant r.loop != r.tenant && s.leTenant r.loop != 0 then (0, Res.refRights)
  else if r.isState then
    (if r.word = 0 then l.iPrev else if r.word = 1 then l.dPrev else if r.word = 2 then l.yPrev else if r.word = 3 then l.uPrev
     else if r.word = 4 then l.flags else l.sched, 0)
  else (s.recWord r.loop r.word, 0)

/-- A response returns to core k (R208): the waiting read of the same number takes it, counted where it is denied (R210) or of an
earlier generation (R615); any other is discarded and changes nothing (R201). -/
def State.lxResponse (s : State) (k : Nat) : State :=
  let c := s.core k
  if s.leFifo (k + 1) != [] then s
  else
    match c.reads with
    | [] => s
    | (seq, r) :: rest =>
      let (v, st) := s.lxReadWord r
      let c := { c with reads := rest }
      match c.wait with
      | some (.read rd seq') =>
        if seq = seq' then
          let s := if st = Res.refRights then s.inc F.SK_CNT2_DENIED 1 k else if st = 0x21 then s.inc F.TEN_CNT_DISC_GEN 1 r.tenant else s
          (s.setCore k { ((c.setReg ⟨rd % 16, Nat.mod_lt _ (by decide)⟩ v).merge st) with wait := none }.advance).lxRetire k c.cbuf
        else s.setCore k c
      | _ => s.setCore k c

/-- LXSYNC completes (R211). -/
def State.lxSyncEnd (s : State) (k rd : Nat) : State :=
  let c := s.core k
  let v := Word.ofN (256 * c.lxCount + c.lxFirst)
  s.setCore k { (c.setReg ⟨rd % 16, Nat.mod_lt _ (by decide)⟩ v) with lxFirst := 0, lxCount := 0, wait := none }.advance

/-- DONE retires (R222): LX errors are posted and the task ends; SK0 has no task to end. The CODE is free (log entry 3). -/
def State.skDone (s : State) (k : Nat) : State :=
  let c := s.core k
  let s := if c.lxCount = 0 then s
    else s.fresh.postErr (s.skTenant k) skBlock (Config.freeNat s.free % 65536) (leBytes 1 c.lxFirst ++ leBytes 1 c.lxCount)
  if k = 0 then s.setCore 0 { s.core 0 with wait := none }.advance else s.skEnd k

/-- A fence that waits completes once every sent operation is acknowledged. -/
def State.skFence (s : State) (k : Nat) : State :=
  let c := s.core k
  if c.unacked != 0 then s
  else
    match c.wait with
    | some (.sync rd) => s.lxSyncEnd k rd
    | some .done => s.skDone k
    | _ => s

/-- An acknowledgement arrives at core k (R211, R215): one of an earlier run is discarded. -/
def State.lxAck (s : State) (k : Nat) : State :=
  let c := s.core k
  match c.acks with
  | [] => s
  | (run, st) :: rest =>
    let c := { c with acks := rest }
    if run != c.run then s.setCore k c
    else (s.setCore k { (c.merge st) with unacked := c.unacked - 1 }).skFence k

/-! ### Tasks -/

/-- The RC quota of a tenant is used up (R221, R619). -/
def State.rcUsed (s : State) (t : Nat) : Bool := t != 0 && s.get F.TEN_QRC_LIMIT t ≤ s.get F.TEN_QRC_USED_USED t

/-- The ready tasks of core k in the order of R219: (PRIO, number). -/
def State.skReady (s : State) (k : Nat) : List Nat :=
  ((List.range 64).filter (fun t => (s.core k).ready.getLsbD t)).mergeSort (fun a b =>
    let pa := s.get F.SK_TASK_CTL_PRIO k a
    let pb := s.get F.SK_TASK_CTL_PRIO k b
    pa < pb || (pa == pb && a ≤ b))

/-- A delay of a ready task counts once for its activation (R221, R620). -/
def State.skDelayed (s : State) (k t : Nat) : State :=
  let ten := s.get F.SK_TASK_CTL_TENANT k t
  let c := s.core k
  let s := if s.rcUsed ten && !c.deferred.getLsbD t then
      (s.inc F.SK_CNT_DEFERRED 1 k).setCore k { c with deferred := bv64Set c.deferred t true } else s
  let c := s.core k
  if ten != 0 && s.bit F.TEN_CTX_STAT_THROTTLED ten && !c.throttled.getLsbD t then
    (s.inc F.TEN_CNT_THROTTLED 1 ten).setCore k { c with throttled := bv64Set c.throttled t true }
  else s

def State.skPassed (s : State) (k t : Nat) : Bool :=
  let ten := s.get F.SK_TASK_CTL_TENANT k t
  s.rcUsed ten || (ten != 0 && s.bit F.TEN_CTX_STAT_THROTTLED ten)

/-- Start task t (R219, R220). -/
def State.skStart (s : State) (k t : Nat) : State :=
  let ten := s.get F.SK_TASK_CTL_TENANT k t
  let c := s.core k
  let arg := Tab.get (fun _ => 0) c.args t
  let c := { c with
    regs := (List.replicate 16 (0 : Word)).set 1 (Word.ofN arg), pc := s.get F.SK_TASK_ENTRY_ENTRY k t, cflags := 0, lxFirst := 0,
    lxCount := 0, task := some t, run := c.run + 1, cycles := 0, startAt := s.now, timeHi := 0, ready := bv64Set c.ready t false,
    deferred := bv64Set c.deferred t false, throttled := bv64Set c.throttled t false, loaded := none, unacked := 0 }
  let s := s.setCore k c
  let s := ((s.put F.SK_STAT_BUSY 1 k).put F.SK_STAT_TASK t k).put F.SK_STAT_GEN (s.gen ten) k
  (s.put F.SK_STAT_TENANT ten k).skStopUpd k

/-- The dispatcher of core k (R219, R221, R620): ready tasks whose tenant may not run are passed over. -/
def State.skDispatch (s : State) (k : Nat) : State :=
  if (s.core k).task.isSome || !s.bit F.SK_CTRL_RUN k then s
  else
    let l := s.skReady k
    let s := s.each (l.takeWhile (fun t => s.skPassed k t)) (fun t s => s.skDelayed k t)
    match l.find? (fun t => !s.skPassed k t) with
    | some t => s.skStart k t
    | none => s

/-- A tenant reset at the rule cores (R223). -/
def State.skTenantReset (s : State) (t : Nat) : State :=
  s.each [1, 2, 3] (fun k s =>
    let s := if (s.core k).task.isSome && s.skTenant k = t then s.skAbort k Cause.reset else s
    let c := s.core k
    let keep (b : BitVec 64) : BitVec 64 := (List.range 64).foldl (fun b i => if s.get F.SK_TASK_CTL_TENANT k i = t then bv64Set b i false else b) b
    s.setCore k { c with ready := keep c.ready, deferred := keep c.deferred, throttled := keep c.throttled })

/-- FUNC_RST of core k (R224). SK0 stops and restarts at its reset entry, address 0; what is in retire completes (R214). The
registers that it clears are w0 to w15, PC, CFLAGS and the accumulator: the register-space words of the core, SK_STAT to SK_VEC, are
kept (log entry 148). -/
def State.skFuncRst (s : State) (k : Nat) : State :=
  let s := if k = 0 then s.skAbortReg 0 Cause.func (s.core 0).oldest
    else if (s.core k).task.isSome then s.skAbort k Cause.func else s
  let s := s.each (s.ic.owner.filter (fun e => e.2 == k)) (fun e s => s.icRelease e.1)
  let s := { s with ic := { s.ic with offers := putAt none s.ic.offers k none } }
  let c := s.core k
  s.setCore k { c.squash with
    claimed := [], regs := List.replicate 16 0, pc := 0, cflags := 0, lxFirst := 0, lxCount := 0, ready := 0, deferred := 0, throttled := 0,
    unacked := 0, run := c.run + 1, inHandler := false, cycles := 0, timeHi := 0 }

end Sys2Proof.Machine
end

