-- ==== Sys2Proof/Machine/Skehil.lean ====
section
/-! DEFINITION. The instructions of the Skehil cores that touch no memory (R194 to R197, R202, R203, R207, R211), their
exceptions (R213, R221), and the dispatcher's commands (R208, R211, R218, R219). -/

namespace Sys2Proof.Machine

/-! ### Integer instructions (R194, R195) -/

def execAdd (k : Fin 4) (e : Ecc) (rd ra rb : Rg) (s : State) : Out := .next (s.skAlu k e 1 rd ra rb (plain (fun x y => x + y)))

def execSub (k : Fin 4) (e : Ecc) (rd ra rb : Rg) (s : State) : Out := .next (s.skAlu k e 1 rd ra rb (plain (fun x y => x - y)))

def execAnd (k : Fin 4) (e : Ecc) (rd ra rb : Rg) (s : State) : Out := .next (s.skAlu k e 1 rd ra rb (plain (fun x y => x &&& y)))

def execIor (k : Fin 4) (e : Ecc) (rd ra rb : Rg) (s : State) : Out := .next (s.skAlu k e 1 rd ra rb (plain (fun x y => x ||| y)))

def execEor (k : Fin 4) (e : Ecc) (rd ra rb : Rg) (s : State) : Out := .next (s.skAlu k e 1 rd ra rb (plain (fun x y => x ^^^ y)))

def execAndn (k : Fin 4) (e : Ecc) (rd ra rb : Rg) (s : State) : Out := .next (s.skAlu k e 1 rd ra rb (plain (fun x y => x &&& ~~~y)))

def execShl (k : Fin 4) (e : Ecc) (rd ra rb : Rg) (s : State) : Out := .next (s.skAlu k e 1 rd ra rb (plain (fun x y => x <<< (y.toNat % 32))))

def execShr (k : Fin 4) (e : Ecc) (rd ra rb : Rg) (s : State) : Out := .next (s.skAlu k e 1 rd ra rb (plain (fun x y => x >>> (y.toNat % 32))))

def execAsr (k : Fin 4) (e : Ecc) (rd ra rb : Rg) (s : State) : Out := .next (s.skAlu k e 1 rd ra rb (plain (fun x y => x.sshiftRight (y.toNat % 32))))

def execRor (k : Fin 4) (e : Ecc) (rd ra rb : Rg) (s : State) : Out := .next (s.skAlu k e 1 rd ra rb (plain (fun x y => x.rotateRight (y.toNat % 32))))

def execCmp (k : Fin 4) (e : Ecc) (rd ra rb : Rg) (s : State) : Out := .next (s.skAlu k e 1 rd ra rb iCmp)

def execCmpu (k : Fin 4) (e : Ecc) (rd ra rb : Rg) (s : State) : Out := .next (s.skAlu k e 1 rd ra rb iCmpU)

def execMin (k : Fin 4) (e : Ecc) (rd ra rb : Rg) (s : State) : Out := .next (s.skAlu k e 1 rd ra rb iMin)

def execMax (k : Fin 4) (e : Ecc) (rd ra rb : Rg) (s : State) : Out := .next (s.skAlu k e 1 rd ra rb iMax)

def execMinu (k : Fin 4) (e : Ecc) (rd ra rb : Rg) (s : State) : Out := .next (s.skAlu k e 1 rd ra rb iMinU)

def execMaxu (k : Fin 4) (e : Ecc) (rd ra rb : Rg) (s : State) : Out := .next (s.skAlu k e 1 rd ra rb iMaxU)

def execMul (k : Fin 4) (e : Ecc) (rd ra rb : Rg) (s : State) : Out := .next (s.skAlu k e 2 rd ra rb (plain (fun x y => x * y)))

def execMulhs (k : Fin 4) (e : Ecc) (rd ra rb : Rg) (s : State) : Out := .next (s.skAlu k e 2 rd ra rb iMulHS)

def execMulhu (k : Fin 4) (e : Ecc) (rd ra rb : Rg) (s : State) : Out := .next (s.skAlu k e 2 rd ra rb iMulHU)

def execQuo (k : Fin 4) (e : Ecc) (rd ra rb : Rg) (s : State) : Out := .next (s.skAlu k e 17 rd ra rb iQuo)

def execQuou (k : Fin 4) (e : Ecc) (rd ra rb : Rg) (s : State) : Out := .next (s.skAlu k e 17 rd ra rb iQuoU)

def execMod (k : Fin 4) (e : Ecc) (rd ra rb : Rg) (s : State) : Out := .next (s.skAlu k e 17 rd ra rb iMod)

def execModu (k : Fin 4) (e : Ecc) (rd ra rb : Rg) (s : State) : Out := .next (s.skAlu k e 17 rd ra rb iModU)

def execAdds (k : Fin 4) (e : Ecc) (rd ra rb : Rg) (s : State) : Out := .next (s.skAlu k e 1 rd ra rb iAddS)

def execSubs (k : Fin 4) (e : Ecc) (rd ra rb : Rg) (s : State) : Out := .next (s.skAlu k e 1 rd ra rb iSubS)

def execAddi (k : Fin 4) (e : Ecc) (rd ra : Rg) (imm : BitVec 18) (s : State) : Out :=
  .next (s.skImm k e rd ra (sext18 imm) (plain (fun x y => x + y)))

def execAndi (k : Fin 4) (e : Ecc) (rd ra : Rg) (imm : BitVec 18) (s : State) : Out :=
  .next (s.skImm k e rd ra (zext18 imm) (plain (fun x y => x &&& y)))

def execIori (k : Fin 4) (e : Ecc) (rd ra : Rg) (imm : BitVec 18) (s : State) : Out :=
  .next (s.skImm k e rd ra (zext18 imm) (plain (fun x y => x ||| y)))

def execEori (k : Fin 4) (e : Ecc) (rd ra : Rg) (imm : BitVec 18) (s : State) : Out :=
  .next (s.skImm k e rd ra (zext18 imm) (plain (fun x y => x ^^^ y)))

def execCmpi (k : Fin 4) (e : Ecc) (rd ra : Rg) (imm : BitVec 18) (s : State) : Out :=
  .next (s.skImm k e rd ra (sext18 imm) iCmp)

def execCmpui (k : Fin 4) (e : Ecc) (rd ra : Rg) (imm : BitVec 18) (s : State) : Out :=
  .next (s.skImm k e rd ra (sext18 imm) iCmpU)

def execShli (k : Fin 4) (e : Ecc) (rd ra : Rg) (imm : BitVec 18) (s : State) : Out :=
  .next (s.skShImm k e rd ra imm (plain (fun x y => x <<< (y.toNat % 32))))

def execShri (k : Fin 4) (e : Ecc) (rd ra : Rg) (imm : BitVec 18) (s : State) : Out :=
  .next (s.skShImm k e rd ra imm (plain (fun x y => x >>> (y.toNat % 32))))

def execAsri (k : Fin 4) (e : Ecc) (rd ra : Rg) (imm : BitVec 18) (s : State) : Out :=
  .next (s.skShImm k e rd ra imm (plain (fun x y => x.sshiftRight (y.toNat % 32))))

def execLhi (k : Fin 4) (e : Ecc) (rd : Rg) (imm : BitVec 22) (s : State) : Out :=
  .next (s.skStep k 1 [] e (fun s => s.skWrite k rd ⟨Word.ofN (imm.toNat * 1024), 0⟩))

def execRori (k : Fin 4) (e : Ecc) (rd ra : Rg) (imm : BitVec 18) (s : State) : Out :=
  .next (s.skShImm k e rd ra imm (plain (fun x y => x.rotateRight (y.toNat % 32))))

/-! ### Branches and jumps (R194) -/

def execBeq (k : Fin 4) (e : Ecc) (ra rb : Rg) (off : BitVec 18) (s : State) : Out :=
  .next (s.skBranch k e ra rb off (fun x y => x == y))

def execBne (k : Fin 4) (e : Ecc) (ra rb : Rg) (off : BitVec 18) (s : State) : Out :=
  .next (s.skBranch k e ra rb off (fun x y => x != y))

def execBlz (k : Fin 4) (e : Ecc) (ra : Rg) (off : BitVec 18) (s : State) : Out :=
  .next (s.skBranch k e ra 0 off (fun x _ => x.slt 0))

def execBgez (k : Fin 4) (e : Ecc) (ra : Rg) (off : BitVec 18) (s : State) : Out :=
  .next (s.skBranch k e ra 0 off (fun x _ => !x.slt 0))

def execBgz (k : Fin 4) (e : Ecc) (ra : Rg) (off : BitVec 18) (s : State) : Out :=
  .next (s.skBranch k e ra 0 off (fun x _ => (0 : Word).slt x))

def execBlez (k : Fin 4) (e : Ecc) (ra : Rg) (off : BitVec 18) (s : State) : Out :=
  .next (s.skBranch k e ra 0 off (fun x _ => !(0 : Word).slt x))

def execJmp (k : Fin 4) (e : Ecc) (off : BitVec 26) (s : State) : Out :=
  .next (s.skStep k 1 [] e (fun s =>
    let c := s.core k
    s.setCore k { c with pc := brTarget c.pc (off.signExtend 32), cycles := c.cycles + 1 }))

def execCall (k : Fin 4) (e : Ecc) (off : BitVec 26) (s : State) : Out :=
  .next (s.skStep k 1 [] e (fun s =>
    let c := s.core k
    s.setCore k { (c.setReg 15 (Word.ofN (c.pc + 4))) with pc := brTarget c.pc (off.signExtend 32), cycles := c.cycles + 1 }))

/-- A target not aligned to 4 gives IFETCH (R194). -/
def execJind (k : Fin 4) (e : Ecc) (rd ra : Rg) (imm : BitVec 18) (s : State) : Out :=
  .next (s.skStep k 1 [ra] e (fun s =>
    let c := s.core k
    let t := c.addr ra imm
    if t % 4 != 0 then s.skCause k Cause.ifetch
    else s.setCore k { (c.setReg rd (Word.ofN (c.pc + 4))) with pc := t, cycles := c.cycles + 2 }))

/-! ### Point instructions (R202, R203, R205) -/

/-- rd is w2, w4 … w12; the index is ra + sext(imm18); without read right both registers receive 0, counted (R202). -/
def execPld (k : Fin 4) (e : Ecc) (rd ra : Rg) (imm : BitVec 18) (pe : Ecc) (s : State) : Out :=
  .next (s.skStep k 1 [ra] e (fun s =>
    let i := (s.core k).addr ra imm
    if rd.val % 2 != 0 || rd.val < 2 || 12 < rd.val then s.skCause k Cause.illegal
    else if 32768 ≤ i then s.skCause k Cause.index
    else
      let t := s.skTenant k
      let s := s.ptEcc i pe
      let s := if s.readRight t i then s else s.inc F.SK_CNT2_DENIED 1 k
      s.setCore k (((s.core k).setReg rd (s.ptWordFor t i 0)).setReg (rd + 1) (s.ptWordFor t i 1)).advance))

/-- A point instruction whose index in ra lies outside 0 to 32,767 gives INDEX; rd receives the result (R203). -/
def State.skPoint3 (s : State) (k : Fin 4) (e : Ecc) (rd ra rb : Rg) (pe : Ecc) (f : Nat → State → State) : State :=
  s.skStep k 1 [ra, rb] e (fun s =>
    let i := ((s.core k).reg ra).toNat
    if 32768 ≤ i then s.skCause k Cause.index
    else
      let s := f i (s.ptEcc i pe)
      s.skWrite k rd ⟨Word.ofN s.wres, 0⟩)

def execPwr (k : Fin 4) (e : Ecc) (rd ra rb : Rg) (prio : BitVec 4) (pe : Ecc) (s : State) : Out :=
  .next (s.skPoint3 k e rd ra rb pe (fun i s => s.ptWrite (s.skWho k) i .write prio.toNat ((s.core k).reg rb) 0))

def execPrel (k : Fin 4) (e : Ecc) (rd ra : Rg) (prio : BitVec 4) (pe : Ecc) (s : State) : Out :=
  .next (s.skPoint3 k e rd ra 0 pe (fun i s => s.ptWrite (s.skWho k) i .relinquish prio.toNat 0 0))

/-- word 0 reports good and 1 fault, any other value or a non-zero prio is ILLEGAL (R203). -/
def execPsrc (k : Fin 4) (e : Ecc) (rd ra rb : Rg) (word prio : BitVec 4) (pe : Ecc) (s : State) : Out :=
  .next (if 2 ≤ word.toNat || prio != 0 then s.skStep k 1 [] e (fun s => s.skCause k Cause.illegal)
    else s.skPoint3 k e rd ra rb pe (fun i s =>
      s.ptSource i (bindWord Kind.skehil k) ((s.core k).reg rb) (word == 0) none (some (s.skTenant k))))

/-! ### LX operations (R207, R211) -/

def execLxrr (k : Fin 4) (e : Ecc) (rd ra : Rg) (word : BitVec 4) (s : State) : Out :=
  .next (s.lxRead k e ra (fun n s => s.lxIssue k rd n word.toNat false))

def execLxrs (k : Fin 4) (e : Ecc) (rd ra : Rg) (word : BitVec 4) (s : State) : Out :=
  .next (if 6 ≤ word.toNat then s.skStep k 1 [] e (fun s => s.skCause k Cause.illegal)
    else s.lxRead k e ra (fun n s => s.lxIssue k rd n word.toNat true))

def execLxwr (k : Fin 4) (e : Ecc) (ra rb : Rg) (word : BitVec 4) (s : State) : Out :=
  .next (s.lxChange k e [ra, rb] (fun c => c.loop ra (fun n => (.word n word.toNat (c.reg rb), c.reg rb))))

def execLxsw (k : Fin 4) (e : Ecc) (ra rb : Rg) (s : State) : Out :=
  .next (s.lxChange k e [ra, rb] (fun c => c.loop ra (fun n => (.swap n ((c.reg rb).toNat % 2), c.reg rb))))

def execLxgs (k : Fin 4) (e : Ecc) (rb : Rg) (s : State) : Out :=
  .next (s.lxChange k e [rb] (fun c => some (.group (c.reg rb), c.reg rb)))

def execLxri (k : Fin 4) (e : Ecc) (ra : Rg) (s : State) : Out :=
  .next (s.lxChange k e [ra] (fun c => c.loop ra (fun n => (.reinit n, 0))))

def execLxfo (k : Fin 4) (e : Ecc) (ra rb : Rg) (prio : BitVec 4) (s : State) : Out :=
  .next (s.lxChange k e [ra, rb] (fun c => c.loop ra (fun n => (.force n prio.toNat (c.reg rb), c.reg rb))))

def execLxfr (k : Fin 4) (e : Ecc) (ra : Rg) (prio : BitVec 4) (s : State) : Out :=
  .next (s.lxChange k e [ra] (fun c => c.loop ra (fun n => (.release n prio.toNat, 0))))

def execLxsync (k : Fin 4) (e : Ecc) (rd : Rg) (s : State) : Out :=
  .next (s.skStep k 1 [] e (fun s => (s.setCore k { s.core k with wait := some (.sync rd.val) }).skFence k))

/-! ### Control instructions (R194, R197, R216, R222, R225) -/

/-- `stall` is what stalls have added to the task's cycle count (log entry 6), the budget included (R221). -/
def execDone (k : Fin 4) (e : Ecc) (stall : Nat) (s : State) : Out :=
  .next (s.skStep k (1 + stall) [] e (fun s => (s.setCore k { s.core k with wait := some .done }).skFence k))

def execBrk (k : Fin 4) (e : Ecc) (s : State) : Out := .next (s.skStep k 1 [] e (fun s => s.skCause k Cause.break_))

/-- The software sources of R225; a larger n gives ILLEGAL. -/
def execSig (k : Fin 4) (e : Ecc) (imm : BitVec 8) (s : State) : Out :=
  .next (s.skStep k 1 [] e (fun s =>
    let n := imm.toNat
    if (if k.val = 0 then 9 else 8) < n then s.skCause k Cause.illegal
    else
      let s := s.setCore k (s.core k).advance
      s.icSet (if k.val = 0 then 216 + n else 226 + 10 * (k.val - 1) + n)))

/-- The time words of R197; `stall` is what stalls have added to the cycle count (log entry 6), the budget included (R221). -/
def execRdt (k : Fin 4) (e : Ecc) (rd : Rg) (imm : BitVec 8) (stall : Nat) (s : State) : Out :=
  .next (s.skStep k (1 + stall) [] e (fun s =>
    let c := s.core k
    if imm = 0 then s.setCore k (c.setReg rd (Word.ofN s.frame)).advance
    else if imm = 1 then s.setCore k { (c.setReg rd (Word.ofN s.campus)) with timeHi := s.campus / 2 ^ 32 }.advance
    else if imm = 2 then s.setCore k (c.setReg rd (Word.ofN c.timeHi)).advance
    else if imm = 3 then s.setCore k (c.setReg rd (Word.ofN c.cycles)).advance
    else s.skCause k Cause.illegal))

def execEret (k : Fin 4) (e : Ecc) (s : State) : Out :=
  .next (s.skStep k 1 [] e (fun s =>
    if k.val = 0 then s.setCore 0 { s.core 0 with pc := s.get F.SK_EPC_EPC, inHandler := false }
    else s.skCause k Cause.illegal))

def execCflg (k : Fin 4) (e : Ecc) (rd : Rg) (s : State) : Out :=
  .next (s.skStep k 1 [] e (fun s =>
    let c := s.core k
    s.setCore k { (c.setReg rd (Word.ofN c.cflags)) with cflags := 0 }.advance))

/-! ### Binary32 instructions (R196) -/

def execFadd (k : Fin 4) (e : Ecc) (rd ra rb : Rg) (s : State) : Out := .next (s.skAlu k e 3 rd ra rb fAdd)

def execFsub (k : Fin 4) (e : Ecc) (rd ra rb : Rg) (s : State) : Out := .next (s.skAlu k e 3 rd ra rb fSub)

def execFmul (k : Fin 4) (e : Ecc) (rd ra rb : Rg) (s : State) : Out := .next (s.skAlu k e 3 rd ra rb fMul)

def execFdiv (k : Fin 4) (e : Ecc) (rd ra rb : Rg) (s : State) : Out := .next (s.skAlu k e 14 rd ra rb fDiv)

def execFmin (k : Fin 4) (e : Ecc) (rd ra rb : Rg) (s : State) : Out := .next (s.skAlu k e 1 rd ra rb (fPick fMinV))

def execFmax (k : Fin 4) (e : Ecc) (rd ra rb : Rg) (s : State) : Out := .next (s.skAlu k e 1 rd ra rb (fPick fMaxV))

def execFabs (k : Fin 4) (e : Ecc) (rd ra : Rg) (s : State) : Out := .next (s.skAlu k e 1 rd ra 0 (fun x _ => ⟨x &&& 0x7FFFFFFF, 0⟩))

def execFneg (k : Fin 4) (e : Ecc) (rd ra : Rg) (s : State) : Out := .next (s.skAlu k e 1 rd ra 0 (fun x _ => ⟨fFlip x, 0⟩))

def execFsqrt (k : Fin 4) (e : Ecc) (rd ra : Rg) (s : State) : Out := .next (s.skAlu k e 14 rd ra 0 (fun x _ => fSqrt x))

def execFcmp (k : Fin 4) (e : Ecc) (rd ra rb : Rg) (s : State) : Out := .next (s.skAlu k e 1 rd ra rb fCmp)

def execFtoi (k : Fin 4) (e : Ecc) (rd ra : Rg) (s : State) : Out := .next (s.skAlu k e 1 rd ra 0 (fun x _ => fToI x))

def execItof (k : Fin 4) (e : Ecc) (rd ra : Rg) (s : State) : Out := .next (s.skAlu k e 1 rd ra 0 (fun x _ => fOfInt x.toInt))

def execUtof (k : Fin 4) (e : Ecc) (rd ra : Rg) (s : State) : Out := .next (s.skAlu k e 1 rd ra 0 (fun x _ => fOfInt x.toNat))

def execFkind (k : Fin 4) (e : Ecc) (rd ra : Rg) (s : State) : Out := .next (s.skAlu k e 1 rd ra 0 (fun x _ => ⟨fKind x, 0⟩))

def execFrnd (k : Fin 4) (e : Ecc) (rd ra : Rg) (s : State) : Out := .next (s.skAlu k e 1 rd ra 0 (fun x _ => fRnd x))

def execFscl (k : Fin 4) (e : Ecc) (rd ra rb : Rg) (s : State) : Out := .next (s.skAlu k e 3 rd ra rb (fun x y => fScl x y.toInt))

/-! ### Exceptions that no instruction above gives (R193, R213, R221) -/

/-- A word that decodes to no instruction. -/
def execIllegal (k : Fin 4) (e : Ecc) (s : State) : Out := .next (s.skStep k 1 [] e (fun s => s.skCause k Cause.illegal))

/-- A fetch at the present PC, when it is one that R213 refuses. -/
def execIfetch (k : Fin 4) (s : State) : Out :=
  .next (if s.skRuns k && (s.core k).wait.isNone && !s.skPcOk k (s.core k).pc then s.skCause k Cause.ifetch else s)

/-- The task's cycle count reaches its budget, in stalls too (R221). -/
def execTaskBudgetExpiry (k : Fin 4) (s : State) : Out :=
  .next (if k.val != 0 && (s.core k).task.isSome then
      (s.setCore k { s.core k with cycles := s.skBudget k }).skAbort k Cause.budget
    else s)

/-! ### The dispatcher and the port -/

/-- The PERIODIC tasks of the present frame (R218). -/
def State.skPeriodic (s : State) : State :=
  s.each (s.skTasks 0 (fun k t =>
    let x := s.get F.SK_TASK_TRIG_ARG k t
    x % 65536 != 0 && s.frame % (x % 65536) == x / 65536)) (fun kt s => s.skActivate kt.1 kt.2 (s.frame % 2 ^ 32))

def execTaskActivatePeriodic (s : State) : Out := .next s.skPeriodic

/-- The dispatcher of a rule core; SK0 has none. -/
def execTaskDispatch (k : Fin 4) (s : State) : Out := .next (if k.val = 0 then s else s.skDispatch k)

def execLxReadResponse (k : Fin 4) (s : State) : Out := .next (s.lxResponse k)

def execLxAck (k : Fin 4) (s : State) : Out := .next (s.lxAck k)

/-! ### The SK block of the register space -/

/-- A write to IMEM or DMEM of SK1 to SK3 (R191). -/
def State.skMemWrite (s : State) (w : Who) (a : Nat) (data : Word) : State :=
  let k := (a - 0x210000) / 0x20000 + 1
  if w.tenant != 0 || !s.bit F.SK_CTRL_STOPPED k then s.refuseWrite w a data Res.refConfig
  else s.auditW w (Tgt.reg a (s.word a) data) Res.applied (fun s => s.setSkMem k ((a - 0x210000) % 0x20000) data)

/-- Core 1 to 3, IMEM (false) or DMEM (true), and the word. -/
def execSkMemoryWrite (p : Path) (k : Fin 3) (dmem : Bool) (word : BitVec 14) (data : Word) (s : State) : Out :=
  .next (s.byPath p (fun w s => s.skMemWrite w (0x210000 + 0x20000 * k.val + 0x10000 * b2n dmem + 4 * word.toNat) data))

/-- A task has been given a meaning: some of its words is not 0. -/
def State.skTaskUsed (s : State) (k t : Nat) : Bool :=
  [0, 4, 8, 12].any (fun o => s.word (0x200100 + 4096 * k + 16 * t + o) != 0)

/-- Some task of the core with a different TENANT overlaps a data segment (R217). -/
def State.skOverlap (s : State) (k t ten seg : Nat) : Bool :=
  let b := seg / 2 ^ 24
  let z := seg / 2 ^ 16 % 256
  (List.range 64).any (fun u => u != t && s.skTaskUsed k u && s.get F.SK_TASK_CTL_TENANT k u != ten &&
    s.get F.SK_TASK_SEG_DBASE k u ≤ b + z && b ≤ s.get F.SK_TASK_SEG_DBASE k u + s.get F.SK_TASK_SEG_DSIZE k u)

def skSegOk (seg : Nat) : Bool := seg / 2 ^ 24 + seg / 2 ^ 16 % 256 ≤ 255 && seg / 2 ^ 8 % 256 + seg % 256 ≤ 255

def skEntryOk (entry seg : Nat) : Bool :=
  let e := entry % 65536
  let b := seg / 2 ^ 8 % 256
  entry / 65536 != 0 && e % 4 == 0 && 256 * b ≤ e && e < 256 * (b + seg % 256 + 1)

/-- The argument fits the trigger (R217, R231). The model also refuses other bits that are not 0 of an EVENT or POINT argument, and
TRIG 3, which R217 does not list (log entry 150). -/
def skArgOk (trig arg : Nat) : Bool :=
  if trig = 0 then arg % 65536 != 0 && arg / 65536 < arg % 65536 else if trig = 1 then arg < 256 else arg < 32768

/-- The judgement of a task word (R217, R231): of the whole task that the write leaves, whatever its EN (log entry 123). While EN
is 1 nothing but EN may change. -/
def State.skTaskChk (s : State) (k t o : Nat) (x : Word) : Res :=
  let a := 0x200100 + 4096 * k + 16 * t
  let w (j : Nat) : Word := if j = o then x else s.word (a + j)
  let ten := F.SK_TASK_CTL_TENANT.of (w 0)
  let trig := F.SK_TASK_CTL_TRIG.of (w 0)
  let held := F.SK_TASK_CTL_EN.of (s.word a) = 1 && (o != 0 || bitsOf x 0 31 != bitsOf (s.word a) 0 31)
  if held || trig = 3 || !skArgOk trig (w 4).toNat || !skEntryOk (w 8).toNat (w 12).toNat || !skSegOk (w 12).toNat
      || s.skOverlap k t ten (w 12).toNat then Res.refConfig
  else Res.applied

/-- Some task that names the source runs on the core or is enabled there (R218, R643). -/
def State.skServed (s : State) (k n : Nat) : Bool :=
  (List.range 64).any (fun u => s.skEventSrc k u == some n && (s.bit F.SK_TASK_CTL_EN k u || (s.core k).task == some u))

/-- EN 0 clears the ready bit (R231). A source whose last naming task is disabled before it ran is completed at once (R643). -/
def State.skTaskAfter (s : State) (k t o : Nat) (x : Word) : State :=
  if o = 0 && F.SK_TASK_CTL_EN.of x = 0 then
    let c := s.core k
    let s := s.setCore k { c with ready := bv64Set c.ready t false, deferred := bv64Set c.deferred t false, throttled := bv64Set c.throttled t false }
    match s.skEventSrc k t with
    | some n => if s.skServed k n then s else s.skComplete k t
    | none => s
  else s

/-- A write to a core's control block (R226 to R231): tenant 0 only, audited. SK0 has no task table, its SK_CTRL is RO, and
SK_VEC is written by SK0 alone, any other path of tenant 0 receives REFUSED_RIGHTS and a record (log entry 151); the other cores
have no SK_VEC. -/
def State.skRegWrite (s : State) (w : Who) (a : Nat) (data : Word) : State :=
  let k := (a - 0x200000) / 0x1000
  let o := a % 0x1000
  if w.tenant != 0 then s.refuseWrite w a data Res.refRights
  else if o = 0x008 then s.clearWrite w a data (fun _ _ s => s)
  else if o = 0x000 then (if k = 0 then s.plainW Res.applied id else s.cfgWrite w a data (fun _ => Res.applied) (fun _ _ s => s.skStopUpd k))
  else if o = 0x024 then
    (if k != 0 then s.plainW Res.applied id
     else if w.bank = 5 then s.cfgWrite w a data else s.refuseWrite w a data Res.refRights)
  else if 0x100 ≤ o && o < 0x500 then
    (if k = 0 then s.plainW Res.applied id
     else
       let t := (o - 0x100) / 16
       s.cfgWrite w a data (s.skTaskChk k t (o % 16)) (fun _ new s => s.skTaskAfter k t (o % 16) new))
  else s.plainW Res.applied id

end Sys2Proof.Machine
end

