-- ==== Sys2Proof/Machine/BootOps.lean ====
section
/-! DEFINITION. Flash, boot records and the Jirok image (R680 to R693), writing the inactive slot (R698, R699), and the
BOOT/CAL registers (R703 to R711). -/

namespace Sys2Proof.Machine

def State.setBoot (s : State) (b : BootState) : State := { s with boot := b }

/-! ### The flash (R681, R698) -/

def erasedPage : List Byte := List.replicate 256 0xFF

/-- A page of 256 bytes. -/
def State.flashPage (s : State) (p : Nat) : List Byte := Tab.get (fun _ => erasedPage) s.boot.flash p

def State.setFlashPage (s : State) (p : Nat) (l : List Byte) : State :=
  s.setBoot { s.boot with flash := Tab.set (fun _ => erasedPage) s.boot.flash p l }

/-- n bytes from an offset. -/
def State.flashBytes (s : State) (o n : Nat) : List Byte :=
  ((((List.range ((o % 256 + n + 255) / 256)).map (fun i => s.flashPage (o / 256 + i))).flatten).drop (o % 256)).take n

/-- A little-endian number of n bytes. -/
def State.flashNum (s : State) (o n : Nat) : Nat := leVal (s.flashBytes o n)

/-- Programming clears bits, and sets none. -/
def State.flashProgram (s : State) (p : Nat) (l : List Byte) : State :=
  s.setFlashPage p (List.zipWith (fun a b => a &&& b) (s.flashPage p) l)

/-- A sector is 256 pages. -/
def State.flashErase (s : State) (sector : Nat) : State :=
  s.setBoot { s.boot with flash := s.boot.flash.filter (fun e => e.1 / 256 != sector) }

/-- The first byte of a slot; each holds 8 MiB. -/
def slotBase (i : Nat) : Nat := if i = 0 then 0x100000 else 0x900000
def slotSize : Nat := 0x800000

/-! ### Boot records (R682) -/

/-- A boot record. -/
structure BootRec where
  serial : Nat
  active : Nat
  trial : Nat
  tries : Nat
  deriving DecidableEq, Repr

/-- The record of copy c, when it is valid. -/
def State.bootRec (s : State) (c : Nat) : Option BootRec :=
  let l := s.flashBytes (0x10000 * c) 16
  let n := fun (o k : Nat) => leVal ((l.drop o).take k)
  if n 0 4 = 0x4B42524A && n 12 4 = crc32 (l.take 12) && n 8 1 < 2 then some ⟨n 4 4, n 8 1, n 9 1 % 2, n 10 1⟩ else none

/-- The copy in force and its record: of two valid ones the one with the higher SERIAL, by difference modulo 2^32. -/
def State.recInForce (s : State) : Option (Nat × BootRec) :=
  match s.bootRec 0, s.bootRec 1 with
  | some a, some b => if 0 < (b.serial + 2 ^ 32 - a.serial) % 2 ^ 32 && (b.serial + 2 ^ 32 - a.serial) % 2 ^ 32 < 2 ^ 31 then some (1, b) else some (0, a)
  | some a, none => some (0, a)
  | none, some b => some (1, b)
  | none, none => none

/-- BOOT_REC shows the record in force (R706). -/
def State.showRec (s : State) : State :=
  match s.recInForce with
  | none => s.setWord (R.BOOT_REC.at) 0
  | some (_, r) =>
    (((s.put F.BOOT_REC_SERIAL r.serial).put F.BOOT_REC_TRIES r.tries).put F.BOOT_REC_TRIAL r.trial).put F.BOOT_REC_ACTIVE r.active

/-- Write a record into the copy that is not in force: its sector is erased, then the record is programmed. -/
def State.writeRec (s : State) (active trial tries : Nat) : State :=
  let (c, serial) := match s.recInForce with | some (c, r) => (1 - c, (r.serial + 1) % 2 ^ 32) | none => (0, 1)
  let body := leBytes 4 0x4B42524A ++ leBytes 4 serial ++ leBytes 1 active ++ leBytes 1 trial ++ leBytes 1 tries ++ leBytes 1 0
  let s := s.flashErase c
  (s.flashProgram (256 * c) (body ++ leBytes 4 (crc32 body) ++ List.replicate 240 0xFF)).showRec

/-! ### The Jirok image (R685 to R689) -/

/-- OFFSET and LENGTH of section i + 1 of a slot's image. -/
def State.imgSection (s : State) (slot i : Nat) : Nat × Nat :=
  let o := slotBase slot + 64 + 16 * i
  (s.flashNum (o + 4) 4, s.flashNum (o + 8) 4)

/-- The bytes of a section. -/
def State.imgBytes (s : State) (slot i : Nat) : List Byte :=
  let (o, n) := s.imgSection slot i
  s.flashBytes (slotBase slot + o) n

def State.imgLen (s : State) (slot : Nat) : Nat := s.flashNum (slotBase slot + 8) 4

/-- The section table under R686. -/
def State.tableOk (s : State) (slot len : Nat) : Bool :=
  (List.range 12).all (fun i =>
    let o := slotBase slot + 64 + 16 * i
    let (p, n) := s.imgSection slot i
    s.flashNum o 2 = i + 1 && s.flashNum (o + 2) 2 = 0 && p % 8 = 0 && s.flashNum (o + 12) 4 = 0 && (n = 0 || p + n ≤ len))
  && (List.range 12).all (fun i => (List.range i).all (fun j =>
    let (p, n) := s.imgSection slot i
    let (q, m) := s.imgSection slot j
    n = 0 || m = 0 || p + n ≤ q || q + m ≤ p))

/-- The entries of a REGLIST: address word and value. -/
def regEntries : Nat → List Byte → List (Nat × Word)
  | 0, _ => []
  | n + 1, l => (leVal (l.take 4), Word.ofN (leVal ((l.drop 4).take 4))) :: regEntries n (l.drop 8)

def regList (l : List Byte) : List (Nat × Word) := regEntries (l.length / 8) l

/-- The destination ranges of a section (R689): first addresses and sizes. -/
def sectionRanges (i : Nat) : List (Nat × Nat) :=
  if i = 0 then [(0, 0x1000), (0x10000, 0x10000), (0x1F0000, 0x10000), (0x280000, 0x80000), (0x420000, 0x10000)]
  else if i = 1 then [(0x20000, 0x60000), (0x400000, 0x100)]
  else if i = 2 then [(0x80000, 0x80000), (0x1000, 0x1000)]
  else if i = 3 then [(0x2000, 0x1000), (0x190000, 0x40000)]
  else if i = 4 then [(0x100000, 0x80000), (0x180200, 0x400)]
  else if i = 5 then [(0x220000, 0x10000), (0x240000, 0x10000), (0x260000, 0x10000)]
  else if i = 7 then [(0x418000, 0x8000)]
  else if i = 8 then [(0x1D0000, 0x10000)]
  else if i = 9 then [(0x1E0000, 0x10000)]
  else if i = 10 then [(0x300000, 0xC0000)]
  else []

/-- n bytes from an address lie in a range of the section. -/
def inRanges (i a n : Nat) : Bool := (sectionRanges i).any (fun r => r.1 ≤ a && a + n ≤ r.1 + r.2)

def regListOk (i : Nat) (l : List Byte) : Bool :=
  l.length % 8 == 0 && (regList l).all (fun e => e.1 % 4 == 0 && inRanges i e.1 4)

/-- The records of a MEMORY section: address and bytes; none when it does not end with a record. -/
def memRecs : Nat → List Byte → Option (List (Nat × List Byte))
  | 0, l => if l.isEmpty then some [] else none
  | n + 1, l =>
    if l.isEmpty then some []
    else
      let k := leVal ((l.drop 4).take 4)
      if l.length < 8 + k then none
      else (memRecs n (l.drop (8 + k))).map (fun t => (leVal (l.take 4), (l.drop 8).take k) :: t)

def memSection (l : List Byte) : Option (List (Nat × List Byte)) := memRecs (l.length / 8 + 1) l

def memSectionOk (i : Nat) (l : List Byte) : Bool :=
  match memSection l with
  | none => false
  | some rs => rs.all (fun r => r.1 % 4 == 0 && r.2.length % 4 == 0 && inRanges i r.1 r.2.length)

/-- A part of a RULES section: IMEM, DMEM and the 64 task entries; SK0's has none. The rest follows. -/
def rulePart (k : Nat) (l : List Byte) : Option ((List Byte × List Byte × List Byte) × List Byte) :=
  let ni := leVal (l.take 4)
  let nd := leVal ((l.drop 4).take 4)
  let nt := if k = 0 then 0 else 1024
  if l.length < 8 + ni + nd + nt || ni % 4 != 0 || nd % 4 != 0 || 0x10000 < ni || 0x10000 < nd then none
  else some (((l.drop 8).take ni, (l.drop (8 + ni)).take nd, (l.drop (8 + ni + nd)).take nt), l.drop (8 + ni + nd + nt))

def ruleParts : List Nat → List Byte → Option (List (List Byte × List Byte × List Byte))
  | [], l => if l.isEmpty then some [] else none
  | k :: ks, l => match rulePart k l with | none => none | some (p, r) => (ruleParts ks r).map (fun t => p :: t)

/-- The 80 bytes of a KEYS part. -/
def keysOk (l : List Byte) : Bool :=
  80 ≤ l.length && (List.range 4).all (fun i => (l.getD (20 * i) 0).toNat ≤ 1 && ((l.drop (20 * i + 1)).take 3).all (· == 0))

/-- A section is well formed (R689, R692). -/
def sectionOk (i : Nat) (l : List Byte) : Bool :=
  if l.isEmpty then true
  else if i = 5 || i = 10 then memSectionOk i l
  else if i = 6 then (ruleParts [0, 1, 2, 3] l).isSome
  else if i = 9 then keysOk l && regListOk i (l.drop 80)
  else if i = 11 then l.length == 1024
  else regListOk i l

/-- Causes of R688. -/
def Cause.ok : Nat := 0
def Cause.notTried : Nat := 1
def Cause.tries : Nat := 0xA

/-- Checks 2 to 6 of R688, once the image has been read: 0 when all pass. -/
def State.headCause (s : State) (slot : Nat) (read : Bool) : Nat :=
  let b := slotBase slot
  let len := s.imgLen slot
  let key := s.flashNum (b + 48) 1
  if !read then 2
  else if s.flashNum b 4 != 0x474D494A then 3
  else if s.flashNum (b + 60) 4 != crc32 (s.flashBytes b 60) || s.flashNum (b + 4) 2 != 1 || s.flashNum (b + 6) 2 != 12 || 3 < key then 4
  else if len < 256 || 8388416 < len || !s.tableOk slot len then 5
  else if s.flashNum (b + 12) 4 != s.deviceId then 6
  else
    let hash := ((List.range 8).map (fun i => leBytes 4 (s.word (R.CAL_OTP.at (2 + 8 * key + i))).toNat)).flatten
    if beNat (hash.map (·.toNat)) != sha256 ((s.flashBytes (b + len) 64).map (·.toNat)) || (s.word (R.CAL_OTP.at 0x22)).getLsbD key then 7
    else 0

/-- The digest of bytes 0 to IMAGE_LEN − 1. -/
def State.imgDigest (s : State) (slot : Nat) : Nat := sha256 ((s.flashBytes (slotBase slot) (s.imgLen slot)).map (·.toNat))

/-- Checks 7 and 8 of R688. -/
def State.tailCause (s : State) (slot : Nat) : Nat :=
  let b := slotBase slot + s.imgLen slot
  if !ecdsaVerify (s.flashNum b 32, s.flashNum (b + 32) 32) (s.imgDigest slot) (s.flashNum (b + 64) 32) (s.flashNum (b + 96) 32) then 8
  else if (List.range 12).all (fun i => sectionOk i (s.imgBytes slot i)) then 0
  else 9

/-- The cause of a whole verification. -/
def State.verifyCause (s : State) (slot : Nat) (read : Bool) : Nat :=
  let c := s.headCause slot read
  if c != 0 then c else s.tailCause slot

/-! ### Writing the inactive slot (R698, R699) -/

def State.service (s : State) : Bool := s.bit F.BOOT_STAT_SERVICE

/-- The slot may be written: it is not the one booted from. -/
def State.slotInactive (s : State) (slot : Nat) : Bool := s.service || slot != s.get F.BOOT_STAT_SLOT

/-- n bytes at a flash address lie wholly inside an inactive slot. -/
def State.inInactive (s : State) (a n : Nat) : Bool :=
  [0, 1].any (fun i => s.slotInactive i && slotBase i ≤ a && a + n ≤ slotBase i + slotSize)

/-- A flash command that is refused: audited, and REFUSED is set. -/
def State.flRefuse (s : State) (w : Who) (data : Word) : State :=
  s.auditW w (Tgt.reg (R.BOOT_FL_CMD.at) 0 data) Res.refConfig (fun s => s.put F.BOOT_FL_STAT_REFUSED 1)

/-- BOOT_FL_BUF as bytes. -/
def State.flBuf (s : State) : List Byte := ((List.range 64).map (fun i => leBytes 4 (s.word (0x410300 + 4 * i)).toNat)).flatten

/-- A write of BOOT_FL_CMD by tenant 0. A page or sector is the one that holds BOOT_FL_ADDR. -/
def State.flCmdWrite (s : State) (w : Who) (data : Word) : State :=
  let op := F.BOOT_FL_CMD_OP.of data
  let a := s.get F.BOOT_FL_ADDR_ADDR
  let ok := op = 1 || (op = 2 && s.inInactive (a / 256 * 256) 256) || (op = 3 && s.inInactive (a / 65536 * 65536) 65536)
  if op = 0 then s.plainW Res.applied id
  else if s.bit F.BOOT_FL_STAT_BUSY || !ok then s.flRefuse w data
  else s.plainW Res.applied (fun s =>
    let s := (((s.put F.BOOT_FL_STAT_BUSY 1).put F.BOOT_FL_STAT_ERR 0).put F.BOOT_FL_STAT_REFUSED 0)
    s.setBoot { s.boot with flCmd := some (op, a, s.flBuf) })

/-- The running flash command completes (R698). A read of flash that the part does not have returns free values; a boot that did
not probe the part (R701) or found none it can use (R680) knows no density, and reads what the model holds of it. -/
def State.flDone (s : State) (ok : Bool) : State :=
  match s.boot.flCmd with
  | none => s
  | some (op, a, buf) =>
    let s := (s.put F.BOOT_FL_STAT_BUSY 0).setBoot { s.boot with flCmd := none }
    if !ok then s.put F.BOOT_FL_STAT_ERR 1
    else if op = 2 then s.flashProgram (a / 256) buf
    else if op = 3 then s.flashErase (a / 65536)
    else
      let have_ := a / 2 ^ 20 < s.get F.BOOT_FLASH_MIB
        || (s.get F.BOOT_FLASH_MIB = 0 && (s.get F.BOOT_STAT_SVC = 4 || s.boot.flash.any (fun e => e.1 == a / 256)))
      let l := s.flashPage (a / 256)
      let n := s.free
      (List.range 64).foldl (fun s i =>
        s.setWord (0x410300 + 4 * i) (if have_ then Word.ofN (leVal ((l.drop (4 * i)).take 4)) else Config.freeWord (64 * n + i))) s.fresh

/-- CONFIRM (R699). -/
def State.slotConfirm (s : State) (w : Who) (data : Word) : State :=
  let ok := match s.recInForce with
    | some (_, r) => r.trial == 1 && r.active == s.get F.BOOT_STAT_SLOT && !s.service && !s.bit F.BOOT_SLOT_STAT_BUSY
    | none => false
  let res := if ok then Res.applied else Res.refConfig
  let s := s.auditW w (Tgt.reg (R.BOOT_SLOT_CMD.at) 0 data) res (fun s =>
    if ok then (s.writeRec (s.get F.BOOT_STAT_SLOT) 0 0).put F.BOOT_STAT_TRIAL 0 else s)
  s.put F.BOOT_SLOT_STAT_RESULT s.wres

/-- An ACTIVATE that may start: its record is made with its result when it completes. -/
def State.slotActivate (s : State) (w : Who) (data : Word) : State :=
  let slot := F.BOOT_SLOT_CMD_SLOT.of data
  let n := F.BOOT_SLOT_CMD_TRIES.of data
  if s.bit F.BOOT_SLOT_STAT_BUSY || !s.slotInactive slot || n = 0 then
    let s := s.auditW w (Tgt.reg (R.BOOT_SLOT_CMD.at) 0 data) Res.refConfig id
    s.put F.BOOT_SLOT_STAT_RESULT s.wres
  else s.plainW Res.applied (fun s => (s.put F.BOOT_SLOT_STAT_BUSY 1).setBoot { s.boot with act := some (w.ifc, data.toNat) })

/-- A running ACTIVATE completes: `read` says that every flash read completed. -/
def State.slotActivateDone (s : State) (read : Bool) : State :=
  match s.boot.act with
  | none => s
  | some (ifc, d) =>
    let data := Word.ofN d
    let slot := F.BOOT_SLOT_CMD_SLOT.of data
    let c := s.verifyCause slot read
    let res := if c = 0 then Res.applied else Res.refConfig
    let s := ((s.put F.BOOT_SLOT_STAT_BUSY 0).put F.BOOT_SLOT_STAT_CAUSE c).setBoot { s.boot with act := none }
    let s := s.auditW ⟨15, 0, ifc, 12, true, 15⟩ (Tgt.reg (R.BOOT_SLOT_CMD.at) 0 data) res (fun s =>
      if c = 0 then s.writeRec slot 1 (F.BOOT_SLOT_CMD_TRIES.of data) else s)
    s.put F.BOOT_SLOT_STAT_RESULT s.wres

/-- A write of BOOT_SLOT_CMD by tenant 0. -/
def State.slotCmdWrite (s : State) (w : Who) (data : Word) : State :=
  let op := F.BOOT_SLOT_CMD_OP.of data
  if op = 1 then s.slotActivate w data
  else if op = 2 then s.slotConfirm w data
  else
    let s := s.auditW w (Tgt.reg (R.BOOT_SLOT_CMD.at) 0 data) Res.refConfig id
    s.put F.BOOT_SLOT_STAT_RESULT s.wres

/-! ### User calibration (R703, R704) -/

/-- A word of CAL_UC_PT commits the held pair of its entry. -/
def State.ucChk (s : State) (e : Nat) (x : Word) : Res :=
  let g := s.word (R.CAL_UC_GAIN.at e)
  let named := s.ucal.any (fun u => u.1 != e && u.2.1 == F.CAL_UC_PT_POINT.of x)
  if (F.CAL_UC_PT_EN.of x = 1 && named) || !fFinite g || !fFinite (s.word (R.CAL_UC_OFS.at e)) || fIsZero g then Res.refConfig
  else Res.applied

/-- The pair takes effect; an entry that is not enabled names no point. -/
def State.ucTake (s : State) (e : Nat) (x : Word) : State :=
  if F.CAL_UC_PT_EN.of x = 1 then
    { s with ucal := Tab.put e (F.CAL_UC_PT_POINT.of x, s.word (R.CAL_UC_GAIN.at e), s.word (R.CAL_UC_OFS.at e)) s.ucal }
  else { s with ucal := Tab.del e s.ucal }

/-- A write of a BOOT/CAL register (R705 to R711). -/
def State.bootWrite (s : State) (w : Who) (a : Nat) (data : Word) : State :=
  if w.tenant != 0 then s.refuseWrite w a data Res.refRights
  else if R.BOOT_FL_CMD.hit a then s.flCmdWrite w data
  else if R.BOOT_SLOT_CMD.hit a then s.slotCmdWrite w data
  else if 0x410300 ≤ a && a < 0x410400 then s.plainW Res.applied (fun s => s.setWord a data)
  else if R.CAL_UC_PT.hit a then
    let e := R.CAL_UC_PT.idx a
    s.cfgWrite w a data (s.ucChk e) (fun _ x s => s.ucTake e x)
  else s.kindWrite w a data

def execFlashReadPage (p : Path) (s : State) : Out := .next (s.byPath p (fun w s => s.bootWrite w (R.BOOT_FL_CMD.at) 1))
def execFlashProgram (p : Path) (s : State) : Out := .next (s.byPath p (fun w s => s.bootWrite w (R.BOOT_FL_CMD.at) 2))
def execFlashErase (p : Path) (s : State) : Out := .next (s.byPath p (fun w s => s.bootWrite w (R.BOOT_FL_CMD.at) 3))
def execFlashCmdComplete (ok : Bool) (s : State) : Out := .next (s.flDone ok)

def execSlotActivate (p : Path) (slot : Fin 2) (tries : Fin 8) (s : State) : Out :=
  .next (s.byPath p (fun w s => s.bootWrite w (R.BOOT_SLOT_CMD.at) (Word.ofN (slot.val + 256 * tries.val + 65536))))

def execSlotConfirm (p : Path) (s : State) : Out :=
  .next (s.byPath p (fun w s => s.bootWrite w (R.BOOT_SLOT_CMD.at) 0x20000))

def execSlotActivateComplete (read : Bool) (s : State) : Out := .next (s.slotActivateDone read)

/-- A write of CAL_UC_PT of entry e. -/
def execUserCalCommit (p : Path) (e : Fin 2048) (data : Word) (s : State) : Out :=
  .next (s.byPath p (fun w s => s.bootWrite w (R.CAL_UC_PT.at e.val) data))

end Sys2Proof.Machine
end

