-- ==== Sys2Proof/Machine/CampusSub.lean ====
section
/-! DEFINITION. Brynum Link between two devices: authentication and replay (R499 to R501), the transmit order (R514),
subscription and publication (R502 to R506), remote writes and tags (R507 to R513, R531). -/

namespace Sys2Proof.Machine

/-! ### Messages on the wire (R496, R499) -/

/-- A number read from bytes, most significant first. -/
def beOf (l : List Byte) (o n : Nat) : Nat := leVal ((l.drop o).take n).reverse

/-- The header with the HOPS given (R496). -/
def msgHeader (m : Msg) (hops : Nat) : List Byte :=
  beBytes 1 m.version ++ beBytes 1 m.typ ++ beBytes 1 m.key ++ beBytes 1 hops ++ beBytes 2 m.src ++ beBytes 2 m.dst
    ++ beBytes 4 m.epoch ++ beBytes 4 m.seq ++ beBytes 8 m.sendTime ++ beBytes 1 m.tenant ++ beBytes 1 m.gen
    ++ beBytes 2 m.body.length

/-- The key of a slot on a port: island keys on a Strait, backbone keys on BB (R499). -/
def State.clKey (s : State) (p slot : Nat) : Option Nat := s.cl.keys.getD ((if p = 2 then 2 else 0) + slot % 2) none

/-- The MAC of a message (R499): over the header with HOPS 0, and the body. -/
def macWith (key : Nat) (m : Msg) : Nat := cmac64 key ((msgHeader m 0 ++ m.body).map (·.toNat))

/-- The MAC verifies; an empty slot fails (R499). -/
def State.macOk (s : State) (p : Nat) (m : Msg) : Bool :=
  match s.clKey p m.key with
  | none => false
  | some k => macWith k m == m.mac

/-- The slot a port sends with (R499). -/
def State.sendSlot (s : State) (p : Nat) : Nat := if p = 2 then s.get F.CL_CTRL_BB_KEY else s.get F.CL_CTRL_ISL_KEY

/-- The message as port p sends it: its slot, and its MAC. The spec does not say what a sender with an empty slot sends: that
MAC is free (log entry 3). -/
def State.sealed (s : State) (p : Nat) (m : Msg) : Msg :=
  let m := { m with key := m.key / 2 * 2 + s.sendSlot p }
  { m with mac := match s.clKey p m.key with | some k => macWith k m | none => Config.freeNat s.free % 2 ^ 64 }

/-- A port takes part: CL_CTRL.EN, its own EN, and its link. -/
def State.clOn (s : State) (p : Nat) : Bool :=
  s.bit F.CL_CTRL_EN && s.bit F.CL_PORT_CFG_EN p && s.bit F.CL_PORT_STAT_LINK p

/-! ### Authentication and replay (R500, R501) -/

/-- What the replay window of R500 says of a message. -/
inductive ReplayRes where
  | accept | dup | replay
  deriving DecidableEq, Repr

def replayJudge (w : Option Replay) (epoch seq : Nat) : ReplayRes :=
  match w with
  | none => .accept
  | some r =>
    if r.epoch < epoch then .accept
    else if epoch < r.epoch then .replay
    else if r.seq < seq then .accept
    else if seq = r.seq then .dup
    else if r.seq - seq ≤ 64 then (if r.map.testBit (r.seq - seq - 1) then .dup else .accept)
    else .replay

/-- The window after a message is accepted: bit i of the map stands for SEQ seq − 1 − i. -/
def replayMark (w : Option Replay) (epoch seq : Nat) : Replay :=
  match w with
  | none => ⟨epoch, seq, 0⟩
  | some r =>
    if r.epoch < epoch then ⟨epoch, seq, 0⟩
    else if r.seq < seq then
      let d := seq - r.seq
      ⟨epoch, seq, if 64 < d then 0 else (r.map * 2 ^ d + 2 ^ (d - 1)) % 2 ^ 64⟩
    else { r with map := r.map ||| 2 ^ (r.seq - seq - 1) }

/-- SEND_TIME lies within SKEW of campus time, or SYNC is 0 (R500). -/
def State.skewOk (s : State) (m : Msg) : Bool :=
  !s.bit F.CL_TIME_STAT_SYNC ||
    ((s.campus - m.sendTime) + (m.sendTime - s.campus) ≤ 1000000 * s.get F.CL_AUTH_CFG_SKEW)

/-- A failure of verification, or a replay (R501). -/
def State.authFail (s : State) (p : Nat) (m : Msg) (replay : Bool) : State :=
  let s := if replay then s.inc F.CL_AUTH_REPLAY else s.inc F.CL_AUTH_BADMAC
  let s := if s.bit F.CL_AUTH_LAST_VALID then s
    else (((s.put F.CL_AUTH_LAST_SRC m.src).put F.CL_AUTH_LAST_PORT p).put F.CL_AUTH_LAST_REASON (b2n replay)).put F.CL_AUTH_LAST_VALID 1
  let s := s.put F.CL_EVT_AUTH 1
  let due := match s.cl.authErrAt with | none => true | some t => t + 10000000 ≤ s.now
  if due then
    let s := { s with cl := { s.cl with authErrAt := some s.now } }
    s.postErr 0 0x06 F.CL_EVT_AUTH.lo []
  else s

/-! ### Remote writes: ends and tags (R507 to R513) -/

/-- The epoch advances (R498): one more than the greater of the always-on counter and the log store's copy; without a store that is
READY, one more than the counter, and the copy follows later (R695). -/
def State.epochAdvance (s : State) (ready : Bool) : State :=
  let e := (if ready then Nat.max (s.get F.AON_EPOCH_EPOCH) s.cl.epochCopy else s.get F.AON_EPOCH_EPOCH) + 1
  let s := (s.put F.CL_EPOCH_EPOCH e).put F.AON_EPOCH_EPOCH e
  { s with cl := { s.cl with epochCopy := if ready then e else s.cl.epochCopy, seq := 0 } }

def State.setTags (s : State) (t : Tab CTag) : State := { s with cl := { s.cl with tags := t } }

/-- The record of an ended remote write at its originator (R510). -/
def State.rwRecord (s : State) (n : Nat) (t : CTag) (res : Nat) (late : Bool) : State :=
  let w : Who := ⟨15, t.tenant, t.ifc, t.prio, true, 15⟩
  let tg : Tgt := { ttype := 0, target := 32768 * t.dev + t.point, addr := t.addr, new := t.value, prio := t.prio, origin := t.ifc, tag := n, late := late, gen := some t.gen }
  match s.ringTake w false true with
  | .enter => (s.ringReach).ringEnter (s.recOf w tg 0 (res % 16))
  | .lose => (s.ringReach).ringLose
  | .refuse => (s.ringReach).ringRefuse t.tenant

/-- A remote write ends (R510): its record; a failure is counted and sets CL_EVT.RW (R523), and posts its error record unless
the generation is stale, an end that DISC_GEN counts. -/
def State.rwEnd (s : State) (n : Nat) (t : CTag) (res : Nat) : State :=
  let s := s.rwRecord n t res false
  let failed := res != Res.applied && res != Res.relinquished
  let s := if failed then (s.inc F.CL_RW_CNT_FAILED).put F.CL_EVT_RW 1 else s
  if t.gen != s.gen t.tenant then (s.inc F.CL_RW_CNT2_DISC_GEN).inc F.TEN_CNT_DISC_GEN 1 t.tenant
  else if failed then s.postErr t.tenant 0x06 res (leBytes 2 n ++ leBytes 4 (32768 * t.dev + t.point) ++ leBytes 1 res)
  else s

/-- An OPEN tag ends after its RWRITE was sent: QUARANTINE (R512). -/
def State.rwClose (s : State) (n : Nat) (t : CTag) (res : Nat) : State :=
  let s := s.rwEnd n t res
  s.setTags (Tab.put n { t with state := 2, at_ := s.now, timedOut := res == 8 } s.cl.tags)

/-- The UNREACHABLE case: the tag returns to FREE (R507, R512). -/
def State.rwUnreachable (s : State) (n : Nat) (t : CTag) : State :=
  (s.rwEnd n t 9).setTags (Tab.del n s.cl.tags)

/-- The first FREE tag above the one last handed out (R512). -/
def State.freeTag (s : State) : Option Nat :=
  let used := s.cl.tags.map (·.1)
  ((List.range 4096).map (fun k => (s.cl.lastTag + 1 + k) % 4096)).find? (fun n => !used.contains n)

def rwBody (rel : Bool) (prio point : Nat) (value : Word) (tag origin : Nat) : List Byte :=
  beBytes 1 (b2n rel) ++ beBytes 1 prio ++ beBytes 2 point ++ beBytes 4 value.toNat ++ beBytes 2 tag ++ beBytes 1 origin ++ beBytes 1 0

/-- A remote write is handed over (R204, R507, R512). The word is laid out as rd of R204. -/
def State.rwHandover (s : State) (tenant ifc gen addr : Nat) (rel : Bool) (prio cpid : Nat) (value : Word) : State × Word :=
  let dev := cpid / 32768 % 1024
  if s.tstate tenant != 1 then (s, 0x80000000 ||| Word.ofN Res.refRights)
  else if prio = 0 || 16 ≤ prio then (s, 0x80000000 ||| Word.ofN Res.refRange)
  else if dev = s.deviceId then (s, 0x80000000 ||| Word.ofN Res.refConfig)
  else
    match s.freeTag with
    | none => (s.inc F.CL_RW_CNT_NOTAG, 0xC0000000)
    | some n =>
      let v := if rel then 0 else value
      let t : CTag := ⟨1, dev, cpid % 32768, tenant, gen, ifc, addr, v, prio, rel, false, s.now, s.cl.nextId⟩
      let s := { s with cl := { s.cl with lastTag := n, tags := Tab.put n t s.cl.tags } }
      if !s.reachable dev || s.bit F.CL_FORM_STAT_ISOLATED then (s.rwUnreachable n t, Word.ofN n)
      else
        ((s.place (s.ownMsg MT.rwrite dev tenant gen (rwBody rel prio (cpid % 32768) v n ifc))).nextMsgId, Word.ofN n)

/-- The R83 code of an outcome laid out as rd of R204; a tag handed out, and the want of one, is no refusal of R83. -/
def rwCode (rd : Word) : Res := if bitsOf rd 30 2 = 2 then bitsOf rd 0 4 else Res.applied

/-- A write of CL_RW_CMD (R507, R531): the path's value to the path's CPID. A local refusal of R204 is the write's result. -/
def State.rwCmd (s : State) (w : Who) (data : Word) : State :=
  let b := s.bank w.bank
  let r := s.rwHandover w.tenant w.ifc (s.gen w.tenant) (R.CL_RW_CMD.at) (F.CL_RW_CMD_OP.of data = 1) (F.CL_RW_CMD_PRIO.of data) b.rwCpid b.rwVal
  let s := r.1.setBank w.bank { r.1.bank w.bank with rwRes := r.2 }
  s.plainW (rwCode r.2) id

def execClRwWrite (p : Path) (data : Word) (s : State) : Out :=
  .next (s.byPath p (fun w s => s.rwCmd w (setBits data 16 1 0)))

def execClRwRelinquish (p : Path) (data : Word) (s : State) : Out :=
  .next (s.byPath p (fun w s => s.rwCmd w (setBits data 16 1 1)))

/-- 2 s after handover without a result (R510). -/
def State.rwTimeout (s : State) (n : Nat) : State :=
  match s.cl.tags.lookup n with
  | some t => if t.state = 1 then (s.reach (t.at_ + 2000000)).rwClose n t 8 else s
  | none => s

def execRwriteTimeout (n : Fin 4096) (s : State) : Out := .next (s.rwTimeout n.val)

def execClTagQuarantineEnd (n : Fin 4096) (s : State) : Out :=
  .next (match s.cl.tags.lookup n.val with
    | some t =>
      if t.state = 2 then
        let s := s.reach (t.at_ + 1000000 * s.get F.CL_TAGCFG_QUAR)
        s.setTags (Tab.del n.val s.cl.tags)
      else s
    | none => s)

/-- An RWRITE arrives (R508): into the intake queue, or answered FULL. -/
def State.rwResultTo (s : State) (r : RwIn) (res : Nat) : State :=
  s.answer MT.rwriteResult r.src r.tenant r.gen
    (beBytes 2 r.tag ++ beBytes 1 res ++ beBytes 1 0 ++ beBytes 2 r.point ++ beBytes 2 0 ++ beBytes 4 r.epoch)

def State.rwriteRx (s : State) (m : Msg) : State :=
  let r : RwIn := ⟨m.src % 1024, m.tenant, m.gen, beOf m.body 0 1 == 1, beOf m.body 1 1, beOf m.body 2 2,
    Word.ofN (beOf m.body 4 4), beOf m.body 8 2 % 4096, beOf m.body 10 1, m.epoch⟩
  if s.cl.intake.length < 64 then { s with cl := { s.cl with intake := s.cl.intake ++ [r] } }
  else s.rwResultTo r 0xA

/-- The oldest RWRITE of the intake is decided (R508): under R79 with its tenant and interface code 7, audited under R82. -/
def State.rwDecide (s : State) : State :=
  match s.cl.intake with
  | [] => s
  | r :: t =>
    let s := { s with cl := { s.cl with intake := t } }
    let w : Who := ⟨15, r.tenant, 7, r.prio, true, 15⟩
    let more (x : Tgt) : Tgt := { x with prio := r.prio, origin := r.origin, tag := r.tag, orgDev := some r.src, gen := some r.gen }
    let s := if 32767 < r.point then s.auditW w (more { ttype := 3, new := r.value }) Res.refConfig id
      else s.ptWrite w r.point (if r.rel then .relinquish else .write) r.prio r.value 0 more
    s.rwResultTo r s.wres

def execRwriteDecide (s : State) : Out := .next s.rwDecide

/-- An RWRITE_RESULT ends its write, is late, or matches nothing (R510, R511). -/
def State.rwResultRx (s : State) (m : Msg) : State :=
  let n := beOf m.body 0 2 % 4096
  let res := beOf m.body 2 1
  match s.cl.tags.lookup n with
  | none => s.inc F.CL_RW_CNT2_STRAY
  | some t =>
    if beOf m.body 8 4 != s.get F.CL_EPOCH_EPOCH || t.dev != m.src % 1024 || t.point != beOf m.body 4 2 then s.inc F.CL_RW_CNT2_STRAY
    else if t.state = 1 then s.rwClose n t res
    else if t.timedOut then (s.rwRecord n t res true).inc F.CL_RW_CNT_LATE
    else s.inc F.CL_RW_CNT2_STRAY

/-- A tenant's reset (R513): its RWRITEs still unsent are dropped, and their tags return to FREE. -/
def State.clTenantReset (s : State) (t : Nat) : State :=
  let gone (m : OutMsg) : Bool := m.fwd.isNone && m.typ == MT.rwrite && m.tenant == t && m.built.isNone
  let ids := ((s.cl.held ++ s.cl.queues.flatten).filter gone).map (·.id)
  let s := { s with cl := { s.cl with
    held := s.cl.held.filter (fun m => !gone m)
    queues := s.cl.queues.map (fun (q : List OutMsg) => q.filter (fun m => !gone m)) } }
  (s.setTags (s.cl.tags.filter (fun e => !(e.2.state == 1 && ids.contains e.2.msgId)))).inc F.TEN_CNT_DISC_GEN ids.length t

/-! ### Subscription (R502 to R504) -/

/-- The SUB_OUT quota of a tenant is used up (R619). -/
def State.subOutFull (s : State) (t : Nat) : Bool := t != 0 && s.get F.TEN_QSUB_OUT t ≤ s.subOutUsed t

/-- The decision of a SUBSCRIBE (R503). -/
def State.subDecide (s : State) (src tenant point : Nat) : Nat :=
  if 32767 < point || s.ptKind point = Kind.unused || s.get F.SYS_PT_PROF_AGE_MODE (s.get F.PT_CONFIG_PROFILE point) = 0 then Res.refConfig
  else if !s.readRight tenant point then Res.refRights
  else if (s.subOut.lookup (32768 * src + point)).isNone && (maxSubs ≤ s.subOut.length || s.subOutFull tenant) then 0xA
  else Res.applied

/-- A received SUBSCRIBE (R503). -/
def State.subscribeRx (s : State) (m : Msg) : State :=
  let src := m.src % 1024
  let point := beOf m.body 0 2
  let res := s.subDecide src m.tenant point
  let s :=
    if res = Res.applied then
      let k := 32768 * src + point
      let e : SubOut := (s.subOut.lookup k).getD ⟨m.tenant, none⟩
      let s := { s with subOut := Tab.put k e s.subOut }
      let s := if s.reachable src || (s.isl.unreach.lookup src).isSome then s else { s with isl := { s.isl with unreach := Tab.put src s.now s.isl.unreach } }
      s.setPub point { s.pubOf point with fresh := true, since := s.get F.SYS_PT_PROF_PER_MIN_PERIOD (s.get F.PT_CONFIG_PROFILE point) }
    else s
  s.answer MT.subAck src m.tenant m.gen (beBytes 2 point ++ beBytes 1 res ++ beBytes 1 0)

/-- SUB_IN entries changed where a test holds. -/
def State.subInMap (s : State) (p : Nat → SubIn → Bool) (f : SubIn → SubIn) : State :=
  { s with subIn := s.subIn.map (fun e => if p e.1 e.2 then (e.1, f e.2) else e) }

/-- The entries of one SUBSCRIBE: they name the CPID, their points have the tenant, and they are in the phase. -/
def State.subGroup (s : State) (cpid tenant phase : Nat) (i : Nat) (e : SubIn) : Bool :=
  e.cpid == cpid && s.ptTenant i == tenant && e.phase == phase

/-- A refusal of R504 counts, and sets CL_EVT.SUB. -/
def State.subRefused (s : State) : State := (s.inc F.CL_SUB_CNT_REFUSED).put F.CL_EVT_SUB 1

/-- A received SUB_ACK (R504). A POINT above 32,767 names no entry. -/
def State.subAckRx (s : State) (m : Msg) : State :=
  let res := beOf m.body 2 1
  let cpid := 32768 * (m.src % 1024) + beOf m.body 0 2
  if beOf m.body 3 1 != 0 || !([Res.applied, Res.refRights, Res.refConfig, 0xA].contains res) then s.inc F.CL_RXCNT_FORMAT
  else if 32767 < beOf m.body 0 2 then s
  else
    let g := s.subGroup cpid m.tenant 1
    if !(s.subIn.any (fun e => g e.1 e.2)) then s
    else if res = Res.applied then s.subInMap g (fun e => { e with phase := 2, since := s.now, heard := false })
    else if res = 0xA then (s.subInMap g (fun e => { e with phase := 3, since := s.now })).subRefused
    else ((s.subInMap g (fun e => { e with phase := 4 })).subRefused).postErr2 m.tenant 0x06 res []

/-- A received UNSUBSCRIBE (R506): a POINT above 32,767 names no entry. -/
def State.unsubscribeRx (s : State) (m : Msg) : State :=
  if 32767 < beOf m.body 0 2 then s
  else { s with subOut := Tab.del (32768 * (m.src % 1024) + beOf m.body 0 2) s.subOut }

/-- No answer within 2 s (R504): the entries whose SUBSCRIBE left that long ago are due again; the SUBSCRIBE sent again is counted
when it leaves (R529). -/
def State.subTimeout (s : State) (i : Nat) : State :=
  match s.subIn.lookup i with
  | some e =>
    if e.phase = 1 then
      let s := s.reach (e.sentAt.getD s.now + 2000000)
      s.subInMap (fun j x => s.subGroup e.cpid (s.ptTenant i) 1 j x && x.sentAt.getD s.now + 2000000 ≤ s.now)
        (fun x => { x with phase := 0, again := true })
    else s
  | none => s

def execSubAckTimeout (i : Fin 32768) (s : State) : Out := .next (s.subTimeout i.val)

/-- 10 s after FULL (R504). -/
def State.subFullRetry (s : State) (i : Nat) : State :=
  match s.subIn.lookup i with
  | some e =>
    if e.phase = 3 then
      let s := s.reach (e.since + 10000000)
      s.subInMap (fun j x => s.subGroup e.cpid (s.ptTenant i) 3 j x && x.since + 10000000 ≤ s.now) (fun x => { x with phase := 0 })
    else s
  | none => s

def execSubFullRetry (i : Fin 32768) (s : State) : Out := .next (s.subFullRetry i.val)

/-- An established entry whose point is STALE, or NOTVALID with no publication within 2 s (R504). -/
def State.subStale (s : State) (i : Nat) : State :=
  match s.subIn.lookup i with
  | some e =>
    let again (s : State) := s.subInMap (fun j _ => j == i) (fun x => { x with phase := 5, again := true })
    if e.phase != 2 then s
    else if s.ptQual i = Qual.stale then again s
    else if s.ptQual i = Qual.notValid && !e.heard then again (s.reach (e.since + 2000000))
    else s
  | none => s

def execSubStaleResubscribe (i : Fin 32768) (s : State) : Out := .next (s.subStale i.val)

/-- An entry for which a SUBSCRIBE may leave now (R503, R504, R550). -/
def State.subDue (s : State) (e : SubIn) : Bool :=
  (e.phase == 0 || (e.phase == 5 && (match e.sentAt with | none => true | some t => t + 10000000 ≤ s.now)))
    && s.reachable (e.cpid / 32768 % 1024) && !(s.route (e.cpid / 32768 % 1024)).isEmpty

/-- SUBSCRIBEs sent in the last second. -/
def State.subRecent (s : State) : List Nat := s.cl.subSent.filter (fun t => s.now < t + 1000000)

/-- The next SUBSCRIBE leaves (R503): for the lowest point index that is due; it serves every due entry of that CPID and
tenant. One sent again under R504 counts once (R529). -/
def State.subscribeSend (s : State) : State :=
  if !s.bit F.CL_FORM_STAT_RELEASED || !s.bit F.CL_CTRL_EN || s.bit F.CL_FORM_STAT_ISOLATED || s.get F.CL_SUB_CFG_RATE ≤ s.subRecent.length then s
  else
    match s.subIn.find? (fun e => s.subDue e.2) with
    | none => s
    | some (i, e) =>
      let t := s.ptTenant i
      let s := { s with cl := { s.cl with subSent := s.now :: s.subRecent } }
      let now := s.now
      let served (j : Nat) (x : SubIn) : Bool := x.cpid == e.cpid && s.ptTenant j == t && s.subDue x
      let again := s.subIn.any (fun x => served x.1 x.2 && x.2.again)
      let s' := s.subInMap served (fun x => { x with phase := 1, sentAt := some now, again := false })
      let s' := if again then s'.inc F.CL_SUB_CNT_RETRY else s'
      s'.send MT.subscribe (e.cpid / 32768 % 1024) t (s'.gen t) (beBytes 2 (e.cpid % 32768) ++ beBytes 2 0)

def execSubscribeSend (s : State) : Out := .next s.subscribeSend

/-! ### Publication (R505, R506) -/

/-- One record of a received PUB (R506). -/
def State.pubRecRx (s : State) (src sendTime : Nat) (r : List Byte) : State :=
  let point := beOf r 0 2
  let cpid := 32768 * src + point
  if 32767 < point || 4 < beOf r 2 1 then s.inc F.CL_RXCNT_FORMAT
  else
    let named := s.subIn.filter (fun e => e.2.cpid == cpid)
    if named.isEmpty then
      let s := s.inc F.CL_PUB_CNT_UNBOUND
      if match s.cl.unsubAt.lookup cpid with | none => true | some t => t + 10000000 ≤ s.now then
        ({ s with cl := { s.cl with unsubAt := Tab.put cpid s.now s.cl.unsubAt } }).sendUnsub cpid 0
      else s
    else
      s.each ((named.filter (fun e => e.2.phase == 2)).map (·.1)) (fun i s =>
        (s.subInMap (fun j _ => j == i) (fun x => { x with heard := true })).ptSource i (bindWord Kind.remote cpid)
          (Word.ofN (beOf r 6 4)) true (some (beOf r 2 1, s.remoteAge (beOf r 4 2) sendTime)))

/-- A received PUB (R506). -/
def State.pubRx (s : State) (m : Msg) : State :=
  s.each (List.range (beOf m.body 0 2)) (fun i s => s.pubRecRx (m.src % 1024) m.sendTime ((m.body.drop (4 + 10 * i)).take 10))

/-- The most records a PUB to the device holds (R505): 119 on BB alone, between island masters. -/
def State.pubMax (s : State) (dev : Nat) : Nat :=
  let far := match s.isl.map with | some m => m.frags.any (fun f => f.1 == dev) | none => false
  if s.route dev = [2] && s.bit F.SYS_ROLE_ISLAND_MASTER && far then 119 else 50

/-- Pending records for one subscriber are gathered into a PUB (R505). They wait in their slots while no route leads to it. -/
def State.pubSend (s : State) (dev : Nat) : State :=
  let l := (s.subOut.filter (fun e => e.1 / 32768 == dev && e.2.slot.isSome)).take (s.pubMax dev)
  if l.isEmpty || !s.reachable dev || (s.route dev).isEmpty || s.bit F.CL_FORM_STAT_ISOLATED then s
  else
    let ks := l.map (·.1)
    let s := { s with subOut := s.subOut.map (fun (e : Nat × SubOut) => if ks.contains e.1 then (e.1, { e.2 with slot := none }) else e) }
    (s.enqueue (s.route dev) { s.ownMsg MT.pub dev 0 (s.gen 0) [] with recs := l.filterMap (·.2.slot) }).nextMsgId

def execPubSend (dev : Fin 1024) (s : State) : Out := .next (s.pubSend dev.val)

/-- The body of a PUB when it is built: AGE gains the device ticks that have passed (R505). -/
def State.pubBody (s : State) (l : List PubRec) : List Byte :=
  beBytes 2 l.length ++ beBytes 2 0 ++
    (l.map (fun r => beBytes 2 r.point ++ beBytes 1 r.qual ++ beBytes 1 0 ++ beBytes 2 (Nat.min (r.age + (s.frame - r.tick)) 0xFFFF)
      ++ beBytes 4 r.value.toNat)).flatten

/-- The records of an unsent PUB return to their slots, unless a newer one waits there (R514). -/
def State.pubReturn (s : State) (m : OutMsg) : State :=
  { s with subOut := s.subOut.map (fun e =>
      if e.1 / 32768 == m.dst && e.2.slot.isNone then (e.1, { e.2 with slot := m.recs.find? (fun r => r.point == e.1 % 32768) }) else e) }

/-! ### Transmit order (R514) -/

/-- The next message of a port: the lowest class, the oldest in it. -/
def nextMsg (q : List OutMsg) : Option OutMsg :=
  q.foldl (fun b m => match b with
    | none => some m
    | some x => if m.cls < x.cls || (m.cls == x.cls && m.id < x.id) then some m else some x) none

/-- The first message with an id leaves a queue. -/
def dropMsg (id : Nat) : List OutMsg → List OutMsg
  | [] => []
  | m :: t => if m.id = id then t else m :: dropMsg id t

def State.setQueue (s : State) (p : Nat) (q : List OutMsg) : State := { s with cl := { s.cl with queues := putAt [] s.cl.queues p q } }

/-- The bits a message takes on the wire: with the headers, framing, preamble and gap (chapter "Traffic budgets"). -/
def wireBits (m : Msg) : Nat := 8 * (m.body.length + 36 + 86)

/-- The BB address of an island master, learned from an ISLAND_ADV of the last 300 ms (R546). -/
def State.advAddr (s : State) (dev : Nat) : Option Nat :=
  match s.isl.advs.lookup dev with
  | some a => if s.now ≤ a.at_ + 300000 then some a.addr else none
  | none => none

/-- The BB address a message to DST goes to (R495, R540, R546): all nodes, or the master of the fragment that holds DST; none
while the device has not learned it. -/
def State.bbAddr (s : State) (dst : Nat) : Option Nat :=
  if 0xFFFD ≤ dst then some allNodes
  else
    match s.isl.map.bind (fun m => m.frags.find? (fun f => f.1 / 32 == dst / 32 && f.2.testBit (dst % 32))) with
    | some f => s.advAddr f.1
    | none => s.advAddr dst

/-- The address a message of port p goes to: on a Strait all nodes (R495). -/
def State.wireAddr (s : State) (p dst : Nat) : Option Nat := if p = 2 then s.bbAddr dst else some allNodes

/-- The MAC address an IPv6 address has on the link: of a multicast address its own, else the neighbour cache's (R494). -/
def State.macAddr (s : State) (a : Nat) : Option Nat := if a = allNodes then some (mcastMac a) else s.cl.cache.lookup a

/-- The ones' complement sum of R494's UDP and ICMPv6 checksums: 16-bit words, an odd byte filled with 0. -/
def sum16 : List Byte → Nat
  | a :: b :: t => a.toNat * 256 + b.toNat + sum16 t
  | [a] => a.toNat * 256
  | [] => 0

def fold16 (n : Nat) : Nat := let x := n % 65536 + n / 65536; x % 65536 + x / 65536

/-- The sum over pseudo-header and payload: addresses, length and next header. -/
def cksumSum (addrs : List Byte) (nh : Nat) (pl : List Byte) : Nat := fold16 (sum16 addrs + pl.length + nh + sum16 pl)

/-- The checksum over pseudo-header and payload comes out right. -/
def cksumOk (ip : List Byte) (nh : Nat) (pl : List Byte) : Bool := cksumSum ((ip.drop 8).take 32) nh pl == 0xFFFF

/-- A message as the payload of its datagram (R496). -/
def msgBytes (m : Msg) : List Byte := msgHeader m m.hops ++ m.body ++ beBytes 8 m.mac

/-- The checksum of a UDP datagram sent (R494): never 0. -/
def udpCksum (src dst sport dport : Nat) (pl : List Byte) : Nat :=
  let u := beBytes 2 sport ++ beBytes 2 dport ++ beBytes 2 (pl.length + 8) ++ beBytes 2 0 ++ pl
  let x := 0xFFFF - cksumSum (beBytes 16 src ++ beBytes 16 dst) 17 u
  if x = 0 then 0xFFFF else x

/-- The datagram that carries a message between two addresses (R493 to R495), its start-of-frame delimiter at campus time t. -/
def State.datagram (s : State) (src dst t : Nat) (m : Msg) : Datagram :=
  let port := s.get F.CL_CTRL_UDP_PORT
  { src := src, dst := dst, mac := (s.macAddr dst).getD 0, hop := hopLimit, sport := port, dport := port,
    cksum := udpCksum src dst port port (msgBytes m), at_ := t, msg := m }

/-- A message goes on the wire of port p at campus time t: it counts towards the load of R558. -/
def State.putWire (s : State) (p src t : Nat) (m : Msg) : State :=
  let s := s.fresh
  { s with cl := { s.cl with
      tx := Tab.put p (s.datagram src ((s.wireAddr p m.dst).getD allNodes) t m) s.cl.tx, load := loadPut s.now s.cl.load p (wireBits m) } }

/-- The next SEQ (R498); past 0xFFFF_FFFF the epoch advances and OPEN writes end in TIMEOUT (R556). -/
def State.nextSeq (s : State) : State :=
  let s := if s.cl.seq = 0xFFFFFFFF then
      let s := s.each (s.cl.tags.filter (fun e => e.2.state == 1)) (fun e s => s.rwClose e.1 e.2 8)
      let s := s.epochAdvance s.storeReady
      { s with cl := { s.cl with epochDue := !s.storeReady } }
    else s
  { s with cl := { s.cl with seq := s.cl.seq + 1 } }

/-- The device ID is a single device's that cannot be reached now. -/
def State.lostDst (s : State) (m : OutMsg) : Bool := m.dst < 1024 && 2 ≤ m.cls && !s.reachable m.dst

/-- A message of the device's own that finds its destination unreachable at the moment of sending (R507, R540). -/
def State.notSent (s : State) (m : OutMsg) : State :=
  if m.typ = MT.rwrite then
    match s.cl.tags.find? (fun e => e.2.msgId == m.id && e.2.state == 1) with
    | some e => s.rwUnreachable e.1 e.2
    | none => s
  else if m.typ = MT.subAck || m.typ = MT.rwriteResult then s.inc F.CL_FORM_CNT2_NOROUTE
  else if m.typ = MT.pub then s.pubReturn m
  else s

/-- The campus time at which a message built now is scheduled on the wire (R516, R517). -/
def State.sched (s : State) (m : OutMsg) : Nat := (s.campus + m.lead) % 2 ^ 64

/-- The body of a message that is built now: the records of a PUB, and the scheduled time of a BEACON, a DELAY_REQ (t1) and a
DELAY_RESP (t3), which the sender chooses as it builds the message (R505, R516, R517). -/
def State.builtBody (s : State) (m : OutMsg) : List Byte :=
  if m.typ = MT.pub then s.pubBody m.recs
  else if m.typ = MT.beacon || m.typ = MT.delayReq then beBytes 8 (s.sched m) ++ m.body.drop 8
  else if m.typ = MT.delayResp then m.body.take 16 ++ beBytes 8 (s.sched m)
  else m.body

/-- EPOCH, SEQ and SEND_TIME are given when the first copy is sent; the other copies keep them. -/
def State.buildMsg (s : State) (m : OutMsg) : State × OutMsg :=
  match m.built with
  | some _ => (s, m)
  | none =>
    let s := s.nextSeq
    let m' := { m with built := some (s.get F.CL_EPOCH_EPOCH, s.cl.seq, s.campus), body := s.builtBody m }
    ({ s with cl := { s.cl with queues := s.cl.queues.map (fun q => q.map (fun x => if x.id = m.id then m' else x)) } }, m')

/-- A DELAY_REQ that is built starts its measurement: t1 is its scheduled transmit time (R517). -/
def State.reqSent (s : State) (p : Nat) (m : OutMsg) : State :=
  if m.typ = MT.delayReq then { s with cl := { s.cl with reqT1 := putAt none s.cl.reqT1 p (some (s.sched m)) } } else s

/-- A built message of the device's own as the wire carries it. -/
def State.wireMsg (s : State) (m : OutMsg) : Msg :=
  let b := m.built.getD (0, 0, 0)
  { typ := m.typ, key := 0, hops := 0, src := s.deviceId, dst := m.dst, epoch := b.1, seq := b.2.1, sendTime := b.2.2,
    tenant := m.tenant, gen := m.gen, body := m.body, mac := 0 }

/-- The messages that wait for a route take it (R514, R541); one whose destination is no longer reachable is not sent. -/
def State.unhold (s : State) : State :=
  ({ s with cl := { s.cl with held := [] } }).each s.cl.held (fun m s => if s.lostDst m then s.notSent m else s.place m)

/-- A message in the queue of port p can leave: the addresses it goes to are known (R494, R495), or its destination is lost. -/
def State.canLeave (s : State) (p : Nat) (m : OutMsg) : Bool :=
  (m.fwd.isNone && s.lostDst m) || ((s.wireAddr p m.dst).bind s.macAddr).isSome

/-- Neighbor Solicitations for the addresses that messages of port p wait for (R494). -/
def State.solicitAll (s : State) (p src : Nat) : State :=
  let l := ((s.cl.queues.getD p []).filterMap (fun m => s.wireAddr p m.dst)).filter (fun a => (s.macAddr a).isNone)
  if l.isEmpty then s else s.icmpOut (l.eraseDups.map (fun a => ⟨p, 135, src, solicited a, hopLimit, beBytes 16 a⟩))

/-- Port p sends its next message (R498, R514), from the address it uses (R494, R495). -/
def State.clTransmit (s : State) (p : Nat) : State :=
  if !s.clOn p then s
  else
    match s.srcAddr p with
    | none => s
    | some src =>
      let s := (s.unhold).solicitAll p src
      match nextMsg ((s.cl.queues.getD p []).filter (s.canLeave p)) with
      | none => s
      | some m =>
        let s := s.setQueue p (dropMsg m.id (s.cl.queues.getD p []))
        match m.fwd with
        | some x => (s.inc F.CL_FWD_FWD).putWire p src s.campus (s.sealed p { x with hops := x.hops + 1 })
        | none =>
          if s.lostDst m then s.notSent m
          else
            let r := s.buildMsg m
            (r.1.reqSent p m).putWire p src (r.1.sched m) (r.1.sealed p (r.1.wireMsg r.2))

def execClMessageTransmit (port : Fin 3) (s : State) : Out := .next (s.clTransmit port.val)

/-- The queue of a port is emptied by its FUNC_RST (R521): each message counts, and a PUB's records return (R514). -/
def State.clQueueEmpty (s : State) (p : Nat) : State :=
  let q := s.cl.queues.getD p []
  let s := (s.setQueue p []).inc F.CL_FWD_DROP q.length
  s.each (q.filter (fun m => m.fwd.isNone && m.typ == MT.pub)) (fun m s => s.pubReturn m)

/-- A Strait has left UP (R541): its own messages are routed again, forwarded ones are dropped. A HELLO belongs to its port (R533,
R540). The records of a PUB with no route left return to their slots (R505). -/
def State.clReroute (s : State) (p : Nat) : State :=
  let q := s.cl.queues.getD p []
  let s := (s.setQueue p []).inc F.CL_FWD_DROP (q.filter (fun m => m.fwd.isSome)).length
  s.each (q.filter (fun m => m.fwd.isNone)) (fun m s =>
    if m.dst = 0xFFFD then s.enqueue [p] m
    else if 1024 ≤ m.dst then s.enqueue ((s.route m.dst).filter (fun r => !((s.cl.queues.getD r []).any (fun x => x.id == m.id)) && m.built.isNone)) m
    else if s.lostDst m then s.notSent m
    else if m.typ = MT.pub && m.built.isNone && (s.route m.dst).isEmpty then s.pubReturn m
    else s.place m)

end Sys2Proof.Machine
end

