-- ==== Sys2Proof/Machine/Islands.lean ====
section
/-! DEFINITION. Islands and the campus (chapter "Islands and the campus at scale"): Straits, fragments, roles, the campus map
and the release of a device. Each received message comes here from the pipeline of `Campus`. -/

namespace Sys2Proof.Machine

/-! ### Formation messages (R533 to R535) -/


def State.ownMac (s : State) (mac : Nat) : Bool := [0, 1, 2].any (fun p => s.portMac p == mac)

/-- The STATE byte of the device itself (R534). -/
def State.stateByte (s : State) : Nat := (s.memberRole s.selfMember).1

def State.islUid (s : State) : Nat := s.get F.CL_ISL_UID_UID

/-- VERSION of the map held, 0 when none (R534). -/
def State.mapVer (s : State) : Nat := (s.isl.map.map (·.ver)).getD 0

def State.helloBody (s : State) (p : Nat) : List Byte :=
  beBytes 6 (s.portMac p) ++ beBytes 1 p ++ beBytes 1 s.stateByte ++ beBytes 1 s.masterPri ++ beBytes 3 0 ++ beBytes 4 s.islUid

/-- The neighbour of a port as a TOPO names it. -/
def State.upNeighbour (s : State) (p : Nat) : Nat := let x := s.strait p; if x.st = 2 then x.src else 0xFFFF

def State.topoBody (s : State) : List Byte :=
  beBytes 2 (s.upNeighbour 0) ++ beBytes 2 (s.upNeighbour 1) ++ beBytes 1 s.stateByte ++ beBytes 1 s.masterPri
    ++ beBytes 6 (s.portMac 0) ++ beBytes 4 s.islUid

def State.advBody (s : State) : List Byte :=
  beBytes 1 s.stateByte ++ beBytes 1 s.masterPri ++ beBytes 2 0 ++ beBytes 4 s.fragment ++ beBytes 4 s.islUid ++ beBytes 4 s.mapVer

def CMap.body (m : CMap) : List Byte :=
  beBytes 2 m.cm ++ beBytes 2 m.frags.length ++ beBytes 4 m.ver
    ++ (m.frags.map (fun f => beBytes 2 f.1 ++ beBytes 2 0 ++ beBytes 4 f.2)).flatten

def CMap.ofBody (b : List Byte) : CMap :=
  ⟨beOf b 0 2 % 1024, beOf b 4 4, (List.range (beOf b 2 2)).map (fun i => (beOf b (8 + 8 * i) 2 % 1024, beOf b (12 + 8 * i) 4))⟩

/-- A TOPO on both Straits (R533). -/
def State.sendTopo (s : State) : State :=
  if s.bit F.CL_CTRL_EN then s.sendOn s.upStraits MT.topo 0xFFFE 0 (s.gen 0) s.topoBody else s

/-- An ISLAND_ADV on BB (R533). -/
def State.sendAdv (s : State) : State :=
  if s.bit F.CL_CTRL_EN && s.bit F.SYS_ROLE_ISLAND_MASTER then s.sendOn [2] MT.islandAdv 0xFFFD 0 (s.gen 0) s.advBody else s

/-- The map held goes out on both Straits (R533, R549). -/
def State.relayMap (s : State) : State :=
  match s.isl.map with
  | some m => s.sendOn s.upStraits MT.campusMap 0xFFFE 0 (s.gen 0) m.body
  | none => s

/-! ### Roles (R542, R547) -/

/-- A change of role (R542): SYS_ROLE, CL_FORM_EVT.ROLE, and an audit record of SYS_ROLE's words. -/
def State.setRole (s : State) (f : Fld) (v : Bool) : State :=
  if s.bit f = v then s
  else
    let a := R.SYS_ROLE.at
    let old := s.word a
    let s := (s.put f (b2n v)).put F.CL_FORM_EVT_ROLE 1
    s.auditEvent a old (s.word a)

/-- The campus master drops its role (R547); its SYNC runs on under R518. -/
def State.dropCampusMaster (s : State) : State :=
  if s.bit F.SYS_ROLE_CAMPUS_MASTER then
    let s := (s.setRole F.SYS_ROLE_CAMPUS_MASTER false).put F.CL_FORM_STAT_MAP_FULL 0
    { s with isl := { s.isl with own := none, uids := [], rejected := [] }, cl := { s.cl with lastFollow := some s.now } }
  else s


/-- BB is disabled (R43, R542): its link is lost. -/
def State.disableBb (s : State) : State :=
  if s.bit F.CL_PORT_STAT_LINK 2 then
    (((s.put F.CL_PORT_STAT_LINK 0 2).put F.CL_EVT_LINK (s.get F.CL_EVT_LINK ||| 4)).setDad 2 0 0).setDad 2 1 0
  else s

/-- The island master drops its role (R542). -/
def State.dropIslandMaster (s : State) : State :=
  if s.bit F.SYS_ROLE_ISLAND_MASTER then
    let s := ((s.dropCampusMaster).setRole F.SYS_ROLE_ISLAND_MASTER false).disableBb
    { s with isl := { s.isl with missed := 0 } }
  else s

/-! ### Reachability (R549, R552, R553) -/

/-- The members of island i that are reachable, as a mask. -/
def State.reachMask (s : State) (i : Nat) : Nat :=
  (if i = s.selfIsland then s.fragment else 0) |||
    (match s.isl.map with
     | some m => (m.frags.filter (fun f => f.1 / 32 == i)).foldl (fun x f => x ||| f.2 % 2 ^ 32) 0
     | none => 0)

def State.reachMasks (s : State) : List Nat := (List.range 32).map s.reachMask

/-- Devices in one list of masks and not in the other. -/
def maskDiff (a b : List Nat) : List Nat :=
  (List.range 1024).filter (fun d => (a.getD (d / 32) 0).testBit (d % 32) && !(b.getD (d / 32) 0).testBit (d % 32))

/-- The reachable set as it now is: what a change of it does (R552, R553, R563). -/
def State.reachUpdate (s : State) : State :=
  let new := s.reachMasks
  let old := s.isl.reach
  if new = old then s
  else
    let come := maskDiff new old
    let gone := maskDiff old new
    let s := s.put F.CL_FORM_EVT_MAP 1
    let s := s.subInMap (fun _ e => come.contains (e.cpid / 32768 % 1024) && e.phase != 4) (fun e => { e with phase := 0, sentAt := none })
    let un := gone.foldl (fun t d => Tab.put d s.now t) (s.isl.unreach.filter (fun e => !come.contains e.1))
    { s with isl := { s.isl with reach := new, unreach := un } }

/-! ### The fragment (R539, R541, R542) -/

/-- A change of the fragment (R539, R563): HEAL, and the order of a closed ring. -/
def State.fragUpdate (s : State) : State :=
  let f := ((s.walkUl 0).1, (s.walkUl 1).1, s.ringClosed)
  if f = s.isl.frag then s
  else
    let s := (s.put F.CL_FORM_EVT_HEAL 1).inc F.CL_FORM_CNT_HEALS
    let order := if f.2.2 then s.selfMember :: f.2.1 else s.isl.order
    { s with isl := { s.isl with frag := f, fragSince := s.now, order := order } }

/-- All but the best-ranked of the fragment's island masters drop the role (R542), and an ISOLATED device any role (R538). -/
def State.roleUpdate (s : State) : State :=
  if !s.bit F.SYS_ROLE_ISLAND_MASTER then s
  else if s.bit F.CL_FORM_STAT_ISOLATED then s.dropIslandMaster
  else if s.islandMaster = some s.deviceId then s
  else (s.dropIslandMaster).sendTopo

/-- NOMASTER (R542): set with one error record at entry, cleared when a candidate appears. -/
def State.noMasterUpdate (s : State) : State :=
  let none_ := !s.bit F.CL_FORM_STAT_ISOLATED && !(s.fragMembers.any s.candidate)
  if none_ = s.bit F.CL_FORM_STAT_NOMASTER then s
  else
    let s := s.put F.CL_FORM_STAT_NOMASTER (b2n none_)
    if none_ then s.postErr 0 0x06 29 [] else s

/-- CL_FORM_STAT.MEMBERS, CL_ISL_MAP, CL_ISL_ROLE and SYS_ROLE.RING_CLOSED as the fragment now is; a fragment that gains a
master ends the release (R550). -/
def State.fragRegs (s : State) : State :=
  let im := s.islandMaster
  let ds := s.downstream
  let s := if im.isSome && !s.bit F.CL_ISL_ROLE_IM_VALID then s.put F.CL_FORM_STAT_RELEASED 0 else s
  let s := s.put F.CL_FORM_STAT_MEMBERS s.fragMembers.length
  let s := s.put F.CL_ISL_MAP_MEMBERS s.fragment
  let s := s.put F.SYS_ROLE_RING_CLOSED (b2n s.ringClosed)
  let s := (s.put F.CL_ISL_ROLE_IM_VALID (b2n im.isSome)).put F.CL_ISL_ROLE_MASTER (im.getD 0)
  (s.put F.CL_ISL_ROLE_DS_VALID (b2n ds.isSome)).put F.CL_ISL_ROLE_DOWNSTREAM (ds.getD 0)

/-- Everything that follows from the fragment, computed again (R539, R541). -/
def State.islUpdate (s : State) : State :=
  ((((s.fragUpdate).roleUpdate).noMasterUpdate).fragRegs.reachUpdate).mirrorCheck

/-! ### Straits (R536, R537) -/

/-- A Strait takes a new state: messages waiting on one that leaves UP are routed again (R541), the fragment follows, and a
TOPO tells of the change (R533). -/
def State.changeStrait (s : State) (p : Nat) (x : Strait) : State :=
  let old := s.strait p
  let s := s.setStrait p x
  let up := if s.upStraits.isEmpty then none else match s.isl.upSince with | some t => some t | none => some s.now
  let s := { s with isl := { s.isl with upSince := up } }
  if old.st = x.st then s
  else
    let s := if old.st = 2 then s.clReroute p else s
    let s := if old.st = 2 || x.st = 2 then s.islUpdate else s
    s.sendTopo

/-- MISWIRE is reported (R537): at most one error record in 10 s per port, with the port, the foreign SRC, ISLAND_UID and
PORT. -/
def State.miswire (s : State) (p : Nat) (m : Msg) : State :=
  let x := s.strait p
  let s := s.put F.CL_FORM_EVT_MISWIRE 1
  if match x.errAt with | none => true | some t => t + 10000000 ≤ s.now then
    let s := s.setStrait p { x with errAt := some s.now }
    s.postErr 0 0x06 5 (leBytes 1 p ++ leBytes 2 m.src ++ leBytes 4 (beOf m.body 12 4) ++ leBytes 1 (beOf m.body 6 1))
  else s

/-- A HELLO is valid (R536): it has passed R500 already. -/
def State.helloValid (s : State) (p : Nat) (m : Msg) : Bool :=
  beOf m.body 12 4 == s.islUid && m.src / 32 == s.selfIsland && beOf m.body 6 1 == 1 - p

/-- A Strait whose 30 ms without a HELLO have passed is DOWN (R536), also where its expiry has not been commanded yet. -/
def State.straitAge (s : State) (p : Nat) : State :=
  let x := s.strait p
  if (x.st = 2 || x.st = 3) && x.lastAt + 30000 < s.now then s.changeStrait p { st := 0, errAt := x.errAt } else s

/-- A received HELLO moves the Strait state (R536). -/
def State.helloRx (s : State) (p : Nat) (m : Msg) : State :=
  let s := s.straitAge p
  let x := s.strait p
  let mac := beOf m.body 0 6
  let begun : Strait := { st := 1, src := m.src, mac := mac, firstAt := s.now, lastAt := s.now, errAt := x.errAt }
  let same := x.src == m.src && x.mac == mac
  if s.helloValid p m then
    if x.st = 0 || x.st = 3 then s.changeStrait p begun
    else if x.st = 1 then
      if x.firstAt + 30000 < s.now then s.changeStrait p begun
      else if same then s.changeStrait p { x with st := 2, lastAt := s.now, upAt := s.now }
      else s
    else if same then s.setStrait p { x with lastAt := s.now }
    else s.changeStrait p { st := 0, errAt := x.errAt }
  else if x.st = 2 then s
  else
    (s.changeStrait p { x with st := 3, src := m.src, mac := mac, lastAt := s.now }).miswire p m

def execStraitPendingTimeout (p : Fin 2) (s : State) : Out :=
  .next (let x := s.strait p.val
    if x.st = 1 then (s.reach (x.firstAt + 30000)).changeStrait p.val { st := 0, errAt := x.errAt } else s)

def execStraitHelloTimeout (p : Fin 2) (s : State) : Out :=
  .next (let x := s.strait p.val
    if x.st = 2 then (s.reach (x.lastAt + 30000)).changeStrait p.val { st := 0, errAt := x.errAt } else s)

def execMiswireTimeout (p : Fin 2) (s : State) : Out :=
  .next (let x := s.strait p.val
    if x.st = 3 then (s.reach (x.lastAt + 30000)).changeStrait p.val { st := 0, errAt := x.errAt } else s)

def execHelloSend (s : State) : Out :=
  .next (s.each ([0, 1].filter (fun p => s.clOn p)) (fun p s => s.sendOn [p] MT.hello 0xFFFD 0 (s.gen 0) (s.helloBody p)))

def execTopoSend (s : State) : Out := .next s.sendTopo

/-- ESTABLISHED (R538): an UP Strait held for 1 s. -/
def execEstablishedSet (s : State) : Out :=
  .next (match s.isl.upSince with
    | some t => if s.bit F.CL_FORM_STAT_ESTABLISHED then s else ((s.reach (t + 1000000)).put F.CL_FORM_STAT_ESTABLISHED 1).sendTopo
    | none => s)

/-- An ID conflict (R538): the device keeps its place, or becomes ISOLATED. The error record carries both MAC addresses. -/
def State.idConflict (s : State) (p mac state : Nat) : State :=
  let keep := s.bit F.CL_FORM_STAT_ESTABLISHED && !state.testBit 1
  let s := s.put F.CL_FORM_EVT_CONFLICT 1
  let s := s.postErr 0 0x06 6 (leBytes 6 (s.portMac p) ++ leBytes 6 mac)
  if keep then s else ((s.dropIslandMaster).put F.CL_FORM_STAT_ISOLATED 1).islUpdate

/-- A received TOPO (R539). -/
def State.topoRx (s : State) (m : Msg) : State :=
  if m.src / 32 != s.selfIsland then s
  else
    let t : Topo := ⟨beOf m.body 0 2, beOf m.body 2 2, beOf m.body 4 1, beOf m.body 5 1 % 4, s.now⟩
    ({ s with isl := { s.isl with topo := Tab.put (m.src % 32) t s.isl.topo } }).islUpdate

/-- A TOPO is kept for 300 ms (R539). -/
def execTopoExpiry (member : Fin 32) (s : State) : Out :=
  .next (match s.isl.topo.lookup member.val with
    | some t =>
      let s := s.reach (t.at_ + 300000)
      ({ s with isl := { s.isl with topo := Tab.del member.val s.isl.topo } }).islUpdate
    | none => s)

/-- The best-ranked candidate takes the role once its fragment has been unchanged for 20 ms (R542). -/
def State.takeIslandMaster (s : State) : State :=
  if s.bit F.SYS_ROLE_ISLAND_MASTER || s.islandMaster.isSome || s.bestMember s.candidate != some s.selfMember then s
  else
    let s := s.reach (s.isl.fragSince + 20000)
    let s := s.setRole F.SYS_ROLE_ISLAND_MASTER true
    let s := { s with isl := { s.isl with imSince := s.now } }
    ((s.islUpdate).sendAdv).sendTopo

def execIslandMasterTake (s : State) : Out := .next s.takeIslandMaster


/-! ### The campus map (R535, R548, R549) -/

/-- CL_CAMPUS, CL_MAP_VER and CL_MAP as the map held gives them (R562, R565). -/
def State.mapRegs (s : State) : State :=
  let masks := match s.isl.map with
    | some m => (List.range 32).map (fun i => (m.frags.filter (fun (f : Nat × Nat) => f.1 / 32 == i)).foldl (fun x (f : Nat × Nat) => x ||| f.2 % 2 ^ 32) 0)
    | none => List.replicate 32 0
  let isl := match s.isl.map with
    | some m => ((List.range 32).filter (fun i => m.frags.any (fun f => f.1 / 32 == i))).length
    | none => 0
  let cm := (s.isl.map.map (·.cm)).getD 0
  let n := (s.isl.map.map (·.frags.length)).getD 0
  let s := (((s.put F.CL_CAMPUS_VALID (b2n s.isl.map.isSome)).put F.CL_CAMPUS_CM cm).put F.CL_CAMPUS_FRAGMENTS n).put F.CL_CAMPUS_ISLANDS isl
  let s := (s.put F.CL_MAP_VER_VERSION s.mapVer).put F.CL_FORM_STAT_MAP (b2n s.isl.map.isSome)
  s.each (List.range 32) (fun i s => s.put F.CL_MAP_MEMBERS (masks.getD i 0) i)

/-- REJECTED (R549): three consecutive maps omit the own fragment; cleared at the first that lists it. -/
def State.rejectedUpdate (s : State) (m : CMap) : State :=
  if m.frags.any (fun f => f.1 == s.islandMaster.getD s.deviceId) then
    { s.put F.CL_FORM_STAT_REJECTED 0 with isl := { s.isl with missed := 0 } }
  else if !s.bit F.SYS_ROLE_ISLAND_MASTER then s
  else
    let n := s.isl.missed + 1
    let s := { s with isl := { s.isl with missed := n } }
    if n = 3 then ((s.put F.CL_FORM_STAT_REJECTED 1).put F.CL_FORM_EVT_REJECTED 1).postErr 0 0x06 F.CL_FORM_EVT_REJECTED.lo [] else s

/-- An accepted map is held (R548, R549). -/
def State.setMap (s : State) (m : CMap) : State :=
  let s := if s.isl.lastCm = some m.cm then s else (s.put F.CL_FORM_EVT_ELECT 1).inc F.CL_FORM_CNT_ELECTIONS
  let since := if s.isl.map.isSome then s.isl.mapSince else s.now
  let s := { s with isl := { s.isl with map := some m, mapAt := s.now, mapSince := since, lastCm := some m.cm } }
  ((s.rejectedUpdate m).mapRegs).reachUpdate

/-- The map is dropped (R549, R550). -/
def State.dropMap (s : State) : State :=
  let s := { s.put F.CL_FORM_STAT_RELEASED 0 with isl := { s.isl with map := none, relayPend := false } }
  s.mapRegs.reachUpdate

/-- Island masters heard within 300 ms (R546). -/
def State.heard (s : State) : List (Nat × Adv) := s.isl.advs.filter (fun e => s.now ≤ e.2.at_ + 300000)

/-- The campus master followed (R546): the best-ranked island master heard that has CAMPUS_MASTER set. -/
def State.followed (s : State) : Option Nat :=
  ((s.heard.filter (fun e => e.2.state.testBit 3)).foldl (fun (b : Option (Nat × Adv)) e =>
    match b with
    | none => some e
    | some x => if betterRank e.2.pri e.1 x.2.pri x.1 then some e else some x) none).map (·.1)

/-- The campus master that is followed now, beside the one whose map is held: one that is lost and followed again is newly followed
(R546, R549). -/
def State.followCheck (s : State) : State :=
  if s.isl.follows.isSome && s.followed != s.isl.follows then { s with isl := { s.isl with follows := none } } else s

/-- A received CAMPUS_MAP (R549): of the campus master followed, with a VERSION above the one held, or the first since it is. -/
def State.mapRx (s : State) (p : Nat) (m : Msg) : State :=
  let x := CMap.ofBody m.body
  let src := m.src % 1024
  if p = 2 then
    let s := s.followCheck
    let new := s.isl.follows != some src || s.isl.map.isNone
    if s.bit F.SYS_ROLE_ISLAND_MASTER && !s.bit F.SYS_ROLE_CAMPUS_MASTER && s.followed = some src && (new || s.mapVer < x.ver) then
      let s := s.setMap x
      { s with isl := { s.isl with relayPend := true, follows := some src } }
    else s
  else if !s.bit F.SYS_ROLE_ISLAND_MASTER && s.islandMaster = some src then s.setMap x
  else s

def execCampusMapRelay (s : State) : Out :=
  .next (if s.isl.relayPend then ({ s with isl := { s.isl with relayPend := false } }).relayMap else s)

/-- The fragments the campus master knows, by master device ID: its own and those it hears (R549). -/
def State.fragTable (s : State) : List (Nat × Adv) :=
  Tab.put s.deviceId ⟨s.stateByte, s.masterPri, s.fragment, s.islUid, 0, s.now, 0⟩ s.heard

/-- ISLAND_UID per island: one already in the table is kept while a fragment carries it; the own island's comes first. -/
def State.uidTable (s : State) : Tab Nat :=
  let es := s.fragTable
  let kept := s.isl.uids.filter (fun u => es.any (fun e => e.1 / 32 == u.1 && e.2.uid == u.2))
  let kept := if (kept.lookup s.selfIsland).isSome then kept else Tab.put s.selfIsland s.islUid kept
  es.foldl (fun t e => if (t.lookup (e.1 / 32)).isSome then t else Tab.put (e.1 / 32) e.2.uid t) kept

/-- The map's content from the fragment table (R549): fragments rejected by ISLAND_UID and worse-ranked ones that overlap
are left out. -/
def mapFrags (uids : Tab Nat) (es : List (Nat × Adv)) : List (Nat × Nat) :=
  let ok := es.filter (fun e => uids.lookup (e.1 / 32) == some e.2.uid)
  (ok.filter (fun e => !(ok.any (fun x => x.1 != e.1 && x.1 / 32 == e.1 / 32 && x.2.members &&& e.2.members != 0
    && betterRank x.2.pri x.1 e.2.pri e.1)))).map (fun e => (e.1, e.2.members))

/-- The campus master sends its map, on BB and on its own Straits (R533). -/
def State.sendOwnMap (s : State) : State :=
  match s.isl.own with
  | some m => ((s.sendOn [2] MT.campusMap 0xFFFD 0 (s.gen 0) m.body).setMap m).relayMap
  | none => s

/-- The campus master builds its map again (R549), and sends it when its content has changed. The record of a rejection reports no
flag, so its CODE is free (log entry 3). -/
def State.mapBuild (s : State) : State :=
  if !s.bit F.SYS_ROLE_CAMPUS_MASTER then s
  else
    let es := s.fragTable
    let uids := s.uidTable
    let rej := (es.filter (fun e => uids.lookup (e.1 / 32) != some e.2.uid)).map (·.1)
    let s := s.each (rej.filter (fun d => !s.isl.rejected.contains d)) (fun _ s => s.fresh.postErr 0 0x06 (Config.freeNat s.free % 65536) [])
    let all := mapFrags uids es
    let full := 64 < all.length
    let s := if full && !s.bit F.CL_FORM_STAT_MAP_FULL then s.postErr 0 0x06 25 [] else s
    let s := s.put F.CL_FORM_STAT_MAP_FULL (b2n full)
    let s := { s with isl := { s.isl with uids := uids, rejected := rej } }
    let frags := all.take 64
    match s.isl.own with
    | some m => if m.frags = frags then s else ({ s with isl := { s.isl with own := some { m with ver := m.ver + 1, frags := frags } } }).sendOwnMap
    | none => ({ s with isl := { s.isl with own := some ⟨s.deviceId, s.isl.verSeen + 1, frags⟩ } }).sendOwnMap

/-- Every 100 ms (R533). A campus master's own ISLAND_ADV is in its fragment table too (R549). -/
def execIslandAdvSend (s : State) : Out := .next s.sendAdv.mapBuild

/-- Every 1 s; the content is looked at afresh, so a change of the own fragment is sent too. -/
def execCampusMapSend (s : State) : Out := .next (if s.bit F.SYS_ROLE_CAMPUS_MASTER then s.mapBuild.sendOwnMap else s)

/-- A received ISLAND_ADV (R546, R547): `addr` is its source address. -/
def State.advRx (s : State) (m : Msg) (addr : Nat) : State :=
  if !s.bit F.SYS_ROLE_ISLAND_MASTER then s
  else
    let src := m.src % 1024
    let a : Adv := ⟨beOf m.body 0 1, beOf m.body 1 1 % 4, beOf m.body 4 4, beOf m.body 8 4, beOf m.body 12 4, s.now, addr⟩
    let s := s.followCheck
    let s := ({ s with isl := { s.isl with advs := Tab.put src a s.isl.advs, verSeen := Nat.max s.isl.verSeen a.ver } }).followCheck
    let yield_ := s.bit F.SYS_ROLE_CAMPUS_MASTER && a.state.testBit 3 && betterRank a.pri src s.masterPri s.deviceId
    let s := if yield_ then s.dropCampusMaster.sendTopo else s
    s.mapBuild

/-- An island master not heard for 300 ms is forgotten (R546). -/
def execIslandAdvTimeout (dev : Fin 1024) (s : State) : Out :=
  .next (match s.isl.advs.lookup dev.val with
    | some a =>
      let s := s.reach (a.at_ + 300000)
      (({ s with isl := { s.isl with advs := Tab.del dev.val s.isl.advs } }).followCheck).mapBuild
    | none => s)

/-- An island master takes the campus master role (R547): its time is the campus's from then on (R518). -/
def State.takeCampusMaster (s : State) : State :=
  if !s.bit F.SYS_ROLE_ISLAND_MASTER || s.bit F.SYS_ROLE_CAMPUS_MASTER then s
  else
    let s := s.reach (s.isl.imSince + 300000)
    if s.followed.isSome || s.heard.any (fun e => betterRank e.2.pri e.1 s.masterPri s.deviceId) then s
    else
      let s := s.setRole F.SYS_ROLE_CAMPUS_MASTER true
      let s := if s.bit F.CL_TIME_STAT_SYNC then s else (s.put F.CL_TIME_STAT_SYNC 1).put F.CL_EVT_TIME 1
      let s := (s.put F.CL_TIME_STAT_STRATUM 0).put F.CL_TIME_STAT_FOLLOW 3
      let s := { s with isl := { s.isl with uids := [], rejected := [], own := none } }
      s.mapBuild.sendTopo

def execCampusMasterTake (s : State) : Out := .next s.takeCampusMaster

/-- 3 s without an accepted map (R549). -/
def execCampusMapTimeout (s : State) : Out :=
  .next (if s.isl.map.isSome then (s.reach (s.isl.mapAt + 3000000)).dropMap else s)

/-- The device is released (R550). -/
def execDeviceRelease (s : State) : Out :=
  .next (if s.bit F.CL_FORM_STAT_NOMASTER then (s.reach (s.isl.fragSince + 1000000)).put F.CL_FORM_STAT_RELEASED 1
    else if s.isl.map.isSome then
      (s.reach (s.isl.mapSince + 1000 * s.get F.CL_FORM_CFG_STEP * s.selfIsland)).put F.CL_FORM_STAT_RELEASED 1
    else s)

/-- A subscriber has been unreachable for HOLD seconds (R553). -/
def execSubOutHoldExpiry (dev : Fin 1024) (s : State) : Out :=
  .next (match s.isl.unreach.lookup dev.val with
    | some t =>
      let s := s.reach (t + 1000000 * s.get F.CL_FORM_CFG_HOLD)
      let n := (s.subOut.filter (fun e => e.1 / 32768 == dev.val)).length
      let s := s.inc F.CL_FORM_CNT2_FREED n
      { s with subOut := s.subOut.filter (fun e => e.1 / 32768 != dev.val), isl := { s.isl with unreach := Tab.del dev.val s.isl.unreach } }
    | none => s)

end Sys2Proof.Machine
end

