-- ==== Sys2Proof/Machine/Campus.lean ====
section
/-! DEFINITION. The campus links (chapter "Campus links and Brynum Link"): ports, IPv6 and UDP (R490 to R495), what a received
message goes through (R496 to R501, R538, R540), campus time (R515 to R520), function resets and registers. -/

namespace Sys2Proof.Machine

/-! ### What a received message goes through -/

/-- The types of R497 and R533. -/
def knownTypes : List Nat :=
  [MT.hello, MT.topo, MT.islandAdv, MT.campusMap, MT.pub, MT.subscribe, MT.subAck, MT.unsubscribe, MT.rwrite, MT.rwriteResult,
   MT.mirror, MT.mirrorAck, MT.beacon, MT.delayReq, MT.delayResp]

/-- LENGTH fits the type's body layout (R497). -/
def bodyFits (m : Msg) : Bool :=
  let n := m.body.length
  if m.typ ≤ 3 then n == 16
  else if m.typ = MT.campusMap then let c := beOf m.body 2 2; 1 ≤ c && c ≤ 64 && n == 8 + 8 * c
  else if m.typ = MT.pub then let c := beOf m.body 0 2; 1 ≤ c && c ≤ 119 && n == 4 + 10 * c
  else if m.typ ≤ MT.unsubscribe then n == 4
  else if m.typ = MT.rwrite then n == 12 && beOf m.body 0 1 ≤ 1
  else if m.typ = MT.rwriteResult then n == 12
  else if m.typ = MT.mirror then let c := beOf m.body 8 1; c ≤ 10 && n == 16 + 48 * c
  else if m.typ = MT.mirrorAck then n == 16
  else if m.typ = MT.beacon then n == 12
  else if m.typ = MT.delayReq then n == 8
  else n == 24

/-- A formation message arrives on a kind of port on which it is sent (R533). -/
def portFits (p : Nat) (m : Msg) : Bool :=
  if m.typ = MT.hello || m.typ = MT.topo then p < 2 else if m.typ = MT.islandAdv then p == 2 else true

/-- The ports a message received on p is forwarded on (R538, R540). -/
def State.forwardPorts (s : State) (p : Nat) (m : Msg) : List Nat :=
  let other := [1 - p].filter (fun q => (s.strait q).st == 2)
  let im := s.bit F.SYS_ROLE_ISLAND_MASTER
  if m.dst = 0xFFFD then []
  else if s.bit F.CL_FORM_STAT_ISOLATED then (if p < 2 then other else [])
  else if m.dst = s.deviceId then []
  else if p < 2 then
    if m.dst = 0xFFFE then other
    else if m.dst = 0xFFFF then other ++ (if im && s.inFragment (m.src % 1024) then [2] else [])
    else if s.inFragment m.dst then other
    else if s.reachable m.dst then (if im then [2] else other)
    else []
  else if !im then []
  else if m.dst = 0xFFFF then s.upStraits
  else if s.inFragment m.dst then s.straitTo (m.dst % 32)
  else []

/-- The class queue of a port has no room for a forwarded message (R514); the spec gives no depth (log entry 82). -/
def State.classFull (s : State) (cls q : Nat) : Bool :=
  Config.queueDepth q cls ≤ ((s.cl.queues.getD q []).filter (fun x => x.cls == cls)).length

/-- A message is forwarded (R498, R514), unless its HOPS has reached 64; each copy that finds its class queue full is dropped. -/
def State.forwardMsg (s : State) (p : Nat) (m : Msg) : State :=
  let ps := s.forwardPorts p m
  let full := ps.filter (s.classFull (MT.cls m.typ))
  if ps.isEmpty then s
  else if 64 ≤ m.hops then s.inc F.CL_FWD_DROP
  else
    let s := if full.isEmpty then s else s.inc F.CL_FWD_DROP full.length
    (s.enqueue (ps.filter (fun q => !full.contains q)) { s.ownMsg m.typ m.dst m.tenant m.gen m.body with fwd := some m }).nextMsgId

/-- The device is one of those DST names (R496). -/
def State.isFor (s : State) (m : Msg) : Bool :=
  m.dst == s.deviceId || m.dst == 0xFFFD || m.dst == 0xFFFF || (m.dst == 0xFFFE && m.src / 32 == s.selfIsland)

/-! ### Campus time (R515 to R519) -/

/-- A step of campus time (R518): its EVENT record carries the old time, and the new time as its own. -/
def State.stepTime (s : State) (new : Nat) : State :=
  let old := s.campus
  let s := { s with campusOff := (new + 2 ^ 64 - s.now % 2 ^ 64) % 2 ^ 64, cl := { s.cl with slew := 0, slewAcc := 0 } }
  let s := (s.put F.CL_EVT_TIME 1).inc F.CL_TIME_CNT_STEPS
  s.auditEvent (R.CL_TIME_LO.at) (Word.ofN old) (Word.ofN (old / 2 ^ 32))

/-- SYNC changes (R518). -/
def State.setSync (s : State) (v : Bool) : State :=
  if s.bit F.CL_TIME_STAT_SYNC = v then s
  else
    let s := (s.put F.CL_TIME_STAT_SYNC (b2n v)).put F.CL_EVT_TIME 1
    if v then s else s.inc F.CL_TIME_CNT_LOSSES

/-- The port whose beacon the device follows (R518): the lowest STRATUM of the last 1 s with SYNC 1, on a port with a delay. -/
def State.followPort (s : State) : Option Nat :=
  let ports := if s.bit F.SYS_ROLE_ISLAND_MASTER then [2] else [0, 1]
  (ports.filterMap (fun p => match s.cl.beacons.lookup p with
    | some b => if b.sync && s.now ≤ b.at_ + 1000000 && s.bit F.CL_PORT_DLY_VALID p then some (p, b.stratum) else none
    | none => none)).foldl (fun (x : Option (Nat × Nat)) e =>
      match x with
      | none => some e
      | some y => if e.2 < y.2 then some e else some y) none |>.map (·.1)

/-- A clamp of an integer. -/
def clampI (lo hi x : Int) : Int := if x < lo then lo else if hi < x then hi else x

/-- The device follows a beacon: step or slew (R518). `stamp` counts the 20 ns of the receipt's time stamp beyond campus time's
µs (R516). -/
def State.follow (s : State) (p time stratum stamp : Nat) : State :=
  let ns : Int := ((time : Int) - s.campus) * 1000 - 20 * stamp + s.get F.CL_PORT_DLY_DELAY p
  let off := ns / 1000
  let s := if 1000000 < ns || ns < -1000000 then s.stepTime ((s.campus + off) % 2 ^ 64).toNat
    else { s with cl := { s.cl with slew := clampI (-50) 50 off, slewAcc := 0 } }
  let s := s.put F.CL_TIME_STAT_OFFSET (ofSigned 16 (clampI (-32768) 32767 off))
  let s := ((s.put F.CL_TIME_STAT_STRATUM (stratum + 1)).put F.CL_TIME_STAT_FOLLOW p).setSync true
  { s with cl := { s.cl with lastFollow := some s.now, lastOff := off, reissue := some (p, stratum + 1) } }

/-- A received BEACON (R518). -/
def State.beaconRx (s : State) (p : Nat) (m : Msg) (stamp : Nat) : State :=
  let stratum := beOf m.body 8 1
  let sync := beOf m.body 9 1 = 1
  if 34 ≤ stratum then s
  else
    let s := { s with cl := { s.cl with beacons := Tab.put p ⟨stratum, sync, s.now⟩ s.cl.beacons } }
    if sync && !s.bit F.SYS_ROLE_CAMPUS_MASTER && s.followPort = some p then s.follow p (beOf m.body 0 8) stratum stamp else s

def beaconBody (time stratum : Nat) (sync : Bool) : List Byte :=
  beBytes 8 time ++ beBytes 1 stratum ++ beBytes 1 (b2n sync) ++ beBytes 2 0

/-- A BEACON for each of some ports: its TIME is put in as it is built, `lead` µs ahead and at least 200 (R516). -/
def State.sendBeacons (s : State) (ports : List Nat) (stratum lead : Nat) : State :=
  s.each ports (fun q s =>
    s.sendOn [q] MT.beacon 0xFFFD 0 (s.gen 0) (beaconBody 0 stratum (s.bit F.CL_TIME_STAT_SYNC)) (Nat.max 200 lead))

/-- The campus master's BEACON (R516): `lead` is how far ahead it chooses TIME. -/
def execBeaconSend (lead : Nat) (s : State) : Out :=
  .next (if s.bit F.SYS_ROLE_CAMPUS_MASTER then s.sendBeacons [2] 0 lead else s)

/-- A follower's own BEACON (R518). -/
def execBeaconReissue (lead : Nat) (s : State) : Out :=
  .next (match s.cl.reissue with
    | some (p, st) =>
      let ports := if s.bit F.SYS_ROLE_ISLAND_MASTER then s.upStraits else s.upStraits.filter (fun q => q != p)
      ({ s with cl := { s.cl with reissue := none } }).sendBeacons ports st lead
    | none => s)

/-- A measurement of the port delay starts (R517): on a Strait from both ends, on BB from an island master to the campus
master. The request's t1 is put in as it is built. -/
def execDelayMeasure (port : Fin 3) (lead : Nat) (s : State) : Out :=
  .next (
    let dst := if port.val < 2 then (if (s.strait port.val).st = 2 then some 0xFFFD else none)
      else if s.bit F.SYS_ROLE_ISLAND_MASTER && !s.bit F.SYS_ROLE_CAMPUS_MASTER then s.followed else none
    match dst with
    | none => s
    | some d => s.sendOn [port.val] MT.delayReq d 0 (s.gen 0) (beBytes 8 0) lead)

/-- A received DELAY_REQ is answered (R517): t2 the receipt time; t3, the answer's scheduled time, is put in as it is built. -/
def State.delayReqRx (s : State) (p : Nat) (m : Msg) (lead : Nat) : State :=
  s.sendOn [p] MT.delayResp (if p < 2 then 0xFFFD else m.src % 1024) 0 (s.gen 0)
    ((m.body.take 8) ++ beBytes 8 s.campus ++ beBytes 8 0) lead

/-- A received DELAY_RESP (R517): d in ns; the mean of the last 8 values kept. `stamp` is that of the receipt (R516). -/
def State.delayRespRx (s : State) (p : Nat) (m : Msg) (stamp : Nat) : State :=
  let t1 := beOf m.body 0 8
  if s.cl.reqT1.getD p none != some t1 then s
  else
    let s := { s with cl := { s.cl with reqT1 := putAt none s.cl.reqT1 p none } }
    let d2 : Int := (((s.campus : Int) - t1) - ((beOf m.body 16 8 : Int) - beOf m.body 8 8)) * 1000 + 20 * stamp
    if d2 < 0 || 20000000 < d2 then s
    else
      let l := (d2.toNat / 2 :: s.cl.delays.getD p []).take 8
      let s := { s with cl := { s.cl with delays := putAt [] s.cl.delays p l } }
      (s.put F.CL_PORT_DLY_DELAY (l.sum / l.length) p).put F.CL_PORT_DLY_VALID 1 p

/-- 3 s without a followed beacon (R518). -/
def execTimeSyncLoss (s : State) : Out :=
  .next (match s.cl.lastFollow with
    | some t =>
      if s.bit F.CL_TIME_STAT_SYNC && !s.bit F.SYS_ROLE_CAMPUS_MASTER then
        ((s.reach (t + 3000000)).setSync false).put F.CL_TIME_STAT_FOLLOW 3
      else s
    | none => s)

/-- A write of CL_TIME_SET_HI (R519). -/
def State.timeSet (s : State) (w : Who) (data : Word) : State :=
  let a := R.CL_TIME_SET_HI.at
  if w.tenant != 0 then s.refuseWrite w a data Res.refRights
  else if !s.bit F.SYS_ROLE_CAMPUS_MASTER then s.refuseWrite w a data Res.refConfig
  else s.auditW w (Tgt.reg a 0 data) Res.applied (fun s => s.stepTime (data.toNat * 2 ^ 32 + s.cl.timeSetLo))

def execTimeSet (p : Path) (data : Word) (s : State) : Out := .next (s.byPath p (fun w s => s.timeSet w data))

/-! ### Reception -/

/-- A message that has passed every check is handled by its type. -/
def State.clHandle (s : State) (p : Nat) (m : Msg) (addr lead stamp : Nat) : State :=
  if m.typ = MT.hello then s.helloRx p m
  else if s.bit F.CL_FORM_STAT_ISOLATED then s
  else if m.typ = MT.topo then s.topoRx m
  else if m.typ = MT.islandAdv then s.advRx m addr
  else if m.typ = MT.campusMap then s.mapRx p m
  else if m.typ = MT.pub then s.pubRx m
  else if m.typ = MT.subscribe then s.subscribeRx m
  else if m.typ = MT.subAck then s.subAckRx m
  else if m.typ = MT.unsubscribe then s.unsubscribeRx m
  else if m.typ = MT.rwrite then s.rwriteRx m
  else if m.typ = MT.rwriteResult then s.rwResultRx m
  else if m.typ = MT.mirror then s.mirrorRx m
  else if m.typ = MT.mirrorAck then s.mirrorAckRx m
  else if m.typ = MT.beacon then s.beaconRx p m stamp
  else if m.typ = MT.delayReq then s.delayReqRx p m lead
  else s.delayRespRx p m stamp

/-- A message with the device's own SRC is never handled or forwarded; a foreign MAC in it is an ID conflict (R538). -/
def State.ownSrc (s : State) (p : Nat) (m : Msg) : State :=
  let mac := if m.typ = MT.hello then beOf m.body 0 6 else beOf m.body 6 6
  let state := if m.typ = MT.hello then beOf m.body 7 1 else beOf m.body 4 1
  if (m.typ = MT.hello || m.typ = MT.topo) && !s.ownMac mac then s.idConflict p mac state else s

/-- A Brynum Link message received on a port (R496, R497, R500, R501, R536, R538, R540). `addr` is its IPv6 source address,
`stamp` the 20 ns of its time stamp beyond campus time's µs (R516). -/
def State.clReceive (s : State) (p : Nat) (m : Msg) (addr : Nat := 0) (lead : Nat := 0) (stamp : Nat := 0) : State :=
  if !s.clOn p then s
  else
    let s := s.inc F.CL_PORT_CNT_RX 1 p
    if m.version != 1 then s.inc F.CL_RXCNT_FORMAT
    else if !knownTypes.contains m.typ then s.inc F.CL_RXCNT_UNKNOWN
    else if !bodyFits m || !portFits p m then s.inc F.CL_RXCNT_FORMAT
    else if p < 2 && m.typ != MT.hello && (s.strait p).st != 2 then s
    else if !s.macOk p m then s.authFail p m false
    else if m.src % 1024 = s.deviceId then s.ownSrc p m
    else
      let w := s.cl.replay.lookup (m.src % 1024)
      match replayJudge w m.epoch m.seq with
      | .dup => s.inc F.CL_AUTH_DUP
      | .replay => s.authFail p m true
      | .accept =>
        if !s.skewOk m then s.authFail p m true
        else
          let s := { s with cl := { s.cl with replay := Tab.put (m.src % 1024) (replayMark w m.epoch m.seq) s.cl.replay } }
          let s := s.forwardMsg p m
          if s.isFor m then s.clHandle p m addr lead stamp else s

def execPub (port : Fin 3) (m : Msg) (s : State) : Out := .next (s.clReceive port.val { m with typ := MT.pub })
def execSubscribe (port : Fin 3) (m : Msg) (s : State) : Out := .next (s.clReceive port.val { m with typ := MT.subscribe })
def execSubAck (port : Fin 3) (m : Msg) (s : State) : Out := .next (s.clReceive port.val { m with typ := MT.subAck })
def execUnsubscribe (port : Fin 3) (m : Msg) (s : State) : Out := .next (s.clReceive port.val { m with typ := MT.unsubscribe })
def execRwrite (port : Fin 3) (m : Msg) (s : State) : Out := .next (s.clReceive port.val { m with typ := MT.rwrite })
def execRwriteResult (port : Fin 3) (m : Msg) (s : State) : Out := .next (s.clReceive port.val { m with typ := MT.rwriteResult })
def execMirror (port : Fin 3) (m : Msg) (s : State) : Out := .next (s.clReceive port.val { m with typ := MT.mirror })
def execMirrorAck (port : Fin 3) (m : Msg) (s : State) : Out := .next (s.clReceive port.val { m with typ := MT.mirrorAck })
def execBeacon (port : Fin 3) (m : Msg) (stamp : Fin 50) (s : State) : Out :=
  .next (s.clReceive port.val { m with typ := MT.beacon } 0 0 stamp.val)
def execDelayReq (port : Fin 3) (m : Msg) (lead : Nat) (s : State) : Out :=
  .next (s.clReceive port.val { m with typ := MT.delayReq } 0 lead)
def execDelayResp (port : Fin 3) (m : Msg) (stamp : Fin 50) (s : State) : Out :=
  .next (s.clReceive port.val { m with typ := MT.delayResp } 0 0 stamp.val)
def execHello (port : Fin 3) (m : Msg) (s : State) : Out := .next (s.clReceive port.val { m with typ := MT.hello })
def execTopo (port : Fin 3) (m : Msg) (s : State) : Out := .next (s.clReceive port.val { m with typ := MT.topo })
def execIslandAdv (port : Fin 3) (m : Msg) (addr : Nat) (s : State) : Out :=
  .next (s.clReceive port.val { m with typ := MT.islandAdv } addr)
def execCampusMap (port : Fin 3) (m : Msg) (s : State) : Out := .next (s.clReceive port.val { m with typ := MT.campusMap })

/-! ### IPv6 (R493 to R495) -/

/-- An Echo Request to one of the port's addresses is answered from it, one to all nodes from the first address used (R494). -/
def State.icmpEcho (s : State) (p src dst : Nat) (body : List Byte) : State :=
  match (s.addrsInUse p).find? (fun a => a == dst || dst == allNodes) with
  | some a => s.icmpOut [⟨p, 129, a, src, hopLimit, body⟩]
  | none => s

def execIcmpEchoRequest (port : Fin 3) (src dst : Nat) (body : List Byte) (s : State) : Out :=
  .next (if s.bit F.CL_PORT_STAT_LINK port.val then s.icmpEcho port.val src dst body else s)

/-- A Neighbor Solicitation for one of the port's addresses is answered (R494); an unspecified source is answered to all
nodes. -/
def State.nsRx (s : State) (p src target : Nat) : State :=
  if (s.addrsInUse p).contains target then
    s.icmpOut [⟨p, 136, target, if src = 0 then allNodes else src, hopLimit, beBytes 16 target ++ beBytes 6 (s.portMac p)⟩]
  else s

def execNeighborSolicitation (port : Fin 3) (src target : Nat) (s : State) : Out :=
  .next (if s.bit F.CL_PORT_STAT_LINK port.val then s.nsRx port.val src target else s)

/-- A Neighbor Advertisement (R494): for an address whose detection runs it is a conflict; BB's cache takes it, the oldest of 64
entries leaving. -/
def State.naRx (s : State) (p target mac : Nat) : State :=
  let s := s.each ([0, 1].filter (fun k => s.dadOf p k == 1 && s.addrOf p k == target)) (fun k s => s.setDad p k 4)
  if p = 2 then
    { s with cl := { s.cl with cache := ((target, mac) :: s.cl.cache.filter (fun e => e.1 != target)).take 64 } }
  else s

def execNeighborAdvertisement (port : Fin 3) (target mac : Nat) (s : State) : Out :=
  .next (if s.bit F.CL_PORT_STAT_LINK port.val then s.naRx port.val target mac else s)

/-- Detection of an address ends after 1 s (R494): 0 the link-local address, 1 the configured one. -/
def execDadComplete (port : Fin 3) (k : Fin 2) (s : State) : Out :=
  .next (
    let p := port.val
    let t := Tab.get (fun _ => 0) s.cl.dadAt (2 * p + k.val)
    if s.dadOf p k.val = 1 then (s.reach (t + 1000000)).setDad p k.val 2
    else if s.dadOf p k.val = 4 then
      let s := ((s.reach (t + 1000000)).setDad p k.val 3).put F.CL_PORT_STAT_DAD_FAIL 1 p
      s.postErr 0 0x06 8 []
    else s)

/-! ### Ports (R490 to R493, R521, R545) -/

/-- Detection of a port's addresses begins (R494): a solicitation for each. -/
def State.dadStart (s : State) (p : Nat) : State :=
  let ks := [0, 1].filter (fun k => s.addrOf p k != 0)
  let s := s.each ks (fun k s => { s.setDad p k 1 with cl := { (s.setDad p k 1).cl with dadAt := Tab.set (fun _ => 0) s.cl.dadAt (2 * p + k) s.now } })
  s.icmpOut (ks.map (fun k => ⟨p, 135, 0, solicited (s.addrOf p k), hopLimit, beBytes 16 (s.addrOf p k)⟩))

/-- A boot runs that has not applied the image yet: the UL ports negotiate all the same (R545). -/
def State.earlyPort (s : State) (p : Nat) : Bool := p < 2 && 1 ≤ s.boot.stage && s.boot.stage < 6

/-- A port's link comes up: level and role as resolved under Clause 98, or as configured (R490, R491); detection of its
addresses begins, once the image has given them (R493, R494, R545). BB has a link only on an island master (R43). -/
def State.linkUpAt (s : State) (p : Nat) (level role : Bool) (sqi : Nat) : State :=
  if !(s.bit F.CL_PORT_CFG_EN p || s.earlyPort p) || s.bit F.CL_PORT_STAT_LINK p || (p = 2 && !s.bit F.SYS_ROLE_ISLAND_MASTER) then s
  else
    let early := s.earlyPort p
    let ampl := s.get F.CL_PORT_CFG_AMPL p
    let lv := if early || ampl = 0 then level else ampl == 1
    let rl := if early || s.bit F.CL_PORT_CFG_AN_EN p then role else s.bit F.CL_PORT_CFG_FORCE_ROLE p
    let s := if p = 2 then s
      else ((s.put F.CL_PORT_STAT_LEVEL (b2n lv) p).put F.CL_PORT_STAT_ROLE (b2n rl) p).put F.CL_PORT_STAT_SQI sqi p
    let s := (s.put F.CL_PORT_STAT_LINK 1 p).put F.CL_EVT_LINK (s.get F.CL_EVT_LINK ||| 2 ^ p)
    if early then s else s.dadStart p

def execClLinkUp (port : Fin 3) (level role : Bool) (sqi : Fin 8) (s : State) : Out :=
  .next (s.linkUpAt port.val level role sqi.val)

/-- A port's link is lost (R536): its Strait goes DOWN. -/
def State.linkDownAt (s : State) (p : Nat) : State :=
  if !s.bit F.CL_PORT_STAT_LINK p then s
  else
    let s := (s.put F.CL_PORT_STAT_LINK 0 p).put F.CL_EVT_LINK (s.get F.CL_EVT_LINK ||| 2 ^ p)
    let s := (s.setDad p 0 0).setDad p 1 0
    if p < 2 then s.changeStrait p { st := 0, errAt := (s.strait p).errAt } else s

def execClLinkDown (port : Fin 3) (s : State) : Out := .next (s.linkDownAt port.val)

/-- FUNC_RST of a port (R521). -/
def State.clPortFuncRst (s : State) (p : Nat) : State :=
  let s := (s.clQueueEmpty p).linkDownAt p
  let s := ((s.setWord (R.CL_PORT_DLY.at p) 0).setWord (R.CL_PORT_CNT.at p) 0).put F.CL_PORT_STAT_DAD_FAIL 0 p
  { s with cl := { s.cl with
      delays := putAt [] s.cl.delays p [], reqT1 := putAt none s.cl.reqT1 p none, cache := if p = 2 then [] else s.cl.cache } }

/-! ### Frames (R493 to R496) -/


/-- A message from the payload of a datagram (R496); none when its length does not fit LENGTH. -/
def Msg.parse (b : List Byte) : Option Msg :=
  if b.length < 36 || b.length != 28 + beOf b 26 2 + 8 then none
  else some ⟨beOf b 0 1, beOf b 1 1, beOf b 2 1, beOf b 3 1, beOf b 4 2, beOf b 6 2, beOf b 8 4, beOf b 12 4, beOf b 16 8,
    beOf b 24 1, beOf b 25 1, (b.drop 28).take (beOf b 26 2), beOf b (28 + beOf b 26 2) 8⟩

/-- A UDP datagram (R495, R496). -/
def State.udpRx (s : State) (p src : Nat) (ip u : List Byte) (lead stamp : Nat) : State :=
  if u.length < 8 || beOf u 4 2 != u.length || beOf u 6 2 = 0 || !cksumOk ip 17 u then s
  else if beOf u 2 2 != s.get F.CL_CTRL_UDP_PORT then s.inc F.CL_RXCNT_PORT
  else
    match Msg.parse (u.drop 8) with
    | none => s.inc F.CL_RXCNT_FORMAT
    | some m => if 1232 < u.length - 8 then s.inc F.CL_RXCNT_FORMAT else s.clReceive p m src lead stamp

/-- An ICMPv6 message (R494): every type but the three is dropped. -/
def State.icmpRx (s : State) (p src dst : Nat) (ip u : List Byte) : State :=
  if u.length < 4 || !cksumOk ip 58 u then s
  else if beOf u 0 1 = 128 then s.icmpEcho p src dst (u.drop 4)
  else if beOf u 0 1 = 135 then s.nsRx p src (beOf u 8 16)
  else if beOf u 0 1 = 136 then s.naRx p (beOf u 8 16) (beOf u 26 6)
  else s

/-- An IPv6 packet (R494). -/
def State.ipRx (s : State) (p : Nat) (b : List Byte) (lead stamp : Nat) : State :=
  let n := 40 + beOf b 4 2
  if b.length < 40 || beOf b 0 1 / 16 != 6 || b.length < n || 1280 < n then s
  else
    let pl := (b.drop 40).take (n - 40)
    let src := beOf b 8 16
    let dst := beOf b 24 16
    let mine := dst == allNodes || (s.addrsInUse p).contains dst || ((s.addrsInUse p).map solicited).contains dst
    if !mine then s
    else if beOf b 6 1 = 17 then s.udpRx p src b pl lead stamp
    else if beOf b 6 1 = 58 then s.icmpRx p src dst b pl
    else s

/-- A frame on a port with link (R493), from the destination address to the last byte before the FCS. One that finds the port's
receive FIFO full is dropped and counted (R720). -/
def State.frameRx (s : State) (p : Nat) (fcsOk full : Bool) (b : List Byte) (lead stamp : Nat) : State :=
  if !s.bit F.CL_PORT_STAT_LINK p || !s.bit F.CL_PORT_CFG_EN p then s
  else
    let dst := beOf b 0 6
    let mine := dst == s.portMac p || dst == mcastMac allNodes || ((s.addrsInUse p).map (fun a => mcastMac (solicited a))).contains dst
    if full || !fcsOk || b.length < 14 || 1514 < b.length || !mine || beOf b 12 2 != 0x86DD then s.inc F.CL_PORT_CNT_DROP 1 p
    else s.ipRx p (b.drop 14) lead stamp

/-- `lead` is how far ahead the answer to a DELAY_REQ is scheduled (R517), `stamp` as in `State.clReceive`. -/
def execClFrameRx (port : Fin 3) (fcsOk full : Bool) (bytes : List Byte) (lead : Nat) (stamp : Fin 50) (s : State) : Out :=
  .next (s.frameRx port.val fcsOk full bytes lead stamp.val)

/-! ### Registers (R523 to R532, R559 to R565) -/

/-- The words of the CL registers that follow other state, for a path's bank. -/
def State.clWord (s : State) (bank a : Nat) : Word :=
  if a = R.CL_TIME_LO.at then Word.ofN s.campus
  else if a = R.CL_TIME_HI.at then Word.ofN (s.campus / 2 ^ 32)
  else if a = R.CL_SUB_STAT.at then Word.ofN (s.subIn.length + 65536 * s.subOut.length)
  else if a = R.CL_TAGS.at then
    Word.ofN ((s.cl.tags.filter (fun e => e.2.state == 2)).length + 65536 * (s.cl.tags.filter (fun e => e.2.state == 1)).length)
  else if a = R.CL_RW_CPID.at then Word.ofN (s.bank bank).rwCpid
  else if a = R.CL_RW_VAL.at then (s.bank bank).rwVal
  else if a = R.CL_RW_RES.at then (s.bank bank).rwRes
  else s.word a

/-- The banked registers of R531. -/
def isRwBank (a : Nat) : Bool := R.CL_RW_CPID.at ≤ a && a ≤ R.CL_RW_RES.at

/-- What ties AMPL and AN_EN (R491, R526). -/
def portCfgChk (x : Word) : Res :=
  let ampl := F.CL_PORT_CFG_AMPL.of x
  if ampl = 3 || (F.CL_PORT_CFG_AN_EN.of x = 0 && ampl = 0) then Res.refConfig else Res.applied

/-- A UL port whose link is up in forced mode runs at the level of AMPL and in the role of FORCE_ROLE (R491). -/
def State.forcedMode (s : State) (p : Nat) : State :=
  if p < 2 && s.bit F.CL_PORT_STAT_LINK p && !s.bit F.CL_PORT_CFG_AN_EN p then
    (s.put F.CL_PORT_STAT_LEVEL (b2n (s.get F.CL_PORT_CFG_AMPL p == 1)) p).put F.CL_PORT_STAT_ROLE (s.get F.CL_PORT_CFG_FORCE_ROLE p) p
  else s

/-- The image is applied, or the boot ends in service mode without it: a link that came up meanwhile stays on a port that is enabled, and
detection of its addresses begins (R545). -/
def State.clPortsBoot (s : State) : State :=
  s.each [0, 1] (fun p s =>
    if !s.bit F.CL_PORT_STAT_LINK p then s else if s.bit F.CL_PORT_CFG_EN p then (s.forcedMode p).dadStart p else s.linkDownAt p)

/-- A write of CL_PORT_CFG (R491, R526): BB keeps EN alone; a port that is disabled loses its link; in forced mode the new
level and role are in force at once. -/
def State.portCfgWrite (s : State) (w : Who) (p a : Nat) (data : Word) : State :=
  let d := if p = 2 then data &&& 0x80000000 else data
  s.cfgWrite w a d (if p = 2 then fun _ => Res.applied else portCfgChk)
    (fun _ new s => if s.earlyPort p then s else if F.CL_PORT_CFG_EN.of new = 0 then s.linkDownAt p else s.forcedMode p)

/-- A write of a CL register. -/
def State.clWrite (s : State) (w : Who) (a : Nat) (data : Word) : State :=
  if isRwBank a && a != R.CL_RW_CMD.at && s.tstate w.tenant != 1 then s.refuseWrite w a data Res.refRights
  else if a = R.CL_RW_CPID.at then s.plainW Res.applied (fun s => s.setBank w.bank { s.bank w.bank with rwCpid := F.CL_RW_CPID_CPID.of data })
  else if a = R.CL_RW_VAL.at then s.plainW Res.applied (fun s => s.setBank w.bank { s.bank w.bank with rwVal := data })
  else if a = R.CL_RW_CMD.at then s.rwCmd w data
  else if a = R.CL_RW_RES.at then s.plainW Res.applied id
  else if w.tenant != 0 then s.refuseWrite w a data Res.refRights
  else if a = R.CL_TIME_SET_LO.at then s.plainW Res.applied (fun s => { s with cl := { s.cl with timeSetLo := data.toNat } })
  else if a = R.CL_TIME_SET_HI.at then s.timeSet w data
  else if R.CL_CTRL.hit a then
    s.cfgWrite w a data (fun x => if s.bit F.BOOT_STAT_SERVICE && F.CL_CTRL_EN.of x = 1 then Res.refConfig else Res.applied)
  else if R.CL_PORT_CFG.hit a then s.portCfgWrite w (R.CL_PORT_CFG.idx a) a data
  else s.kindWrite w a data

end Sys2Proof.Machine
end

