-- ==== Sys2Proof/Machine/SafeState.lean ====
section
/-! DEFINITION. Safe states (R29 to R38, R53 to R55, R57, R692, R693): the table of entries, entering, recording and
releasing. What a block does on entry is its own file's. -/

namespace Sys2Proof.Machine

/-- One step of the CRC-16 of R692. -/
def crc16Bit (c : Nat) : Nat := if 0x8000 ≤ c then ((c * 2) % 65536) ^^^ 0x1021 else c * 2

def crc16Byte (c : Nat) (b : Byte) : Nat :=
  crc16Bit (crc16Bit (crc16Bit (crc16Bit (crc16Bit (crc16Bit (crc16Bit (crc16Bit (c ^^^ (b.toNat * 256)))))))))

/-- CRC-16 with polynomial 0x1021 and initial value 0xFFFF, most significant bit first (R692). -/
def crc16 (l : List Byte) : Nat := l.foldl crc16Byte 0xFFFF

/-- Options of R692. -/
def Opt.off : Nat := 0
def Opt.holdLast : Nat := 1
def Opt.fixed : Nat := 2
def Opt.full : Nat := 3
def Opt.burrow : Nat := 4
def Opt.open_ : Nat := 5
def Opt.closed : Nat := 6
def Opt.on : Nat := 7

/-- The six bytes that CHECK covers (R692). -/
def safeBytes (cls chan option value : Nat) : List Byte :=
  [Byte.ofN cls, Byte.ofN chan, Byte.ofN option, 0] ++ leBytes 2 value

def safeCheck (cls chan option value : Nat) : Nat := crc16 (safeBytes cls chan option value)

def mkEntry (cls chan option value : Nat) : SafeEntry := ⟨option, value, safeCheck cls chan option value⟩

/-- The off state of a class as an entry (R29). -/
def offEntry (cls chan : Nat) : SafeEntry :=
  if cls = Cls.coil || cls = Cls.zbPwr then mkEntry cls chan Opt.off 0
  else if cls = Cls.relay then mkEntry cls chan Opt.open_ 0
  else mkEntry cls chan Opt.fixed 0

/-- The options and values of R30 for each class; a coil entry is judged against `coilMax` (R693). -/
def safeOptOk (cls option value coilMax : Nat) : Bool :=
  if cls = Cls.coil then (option < 2 && value = 0) || (option = Opt.fixed && value ≤ coilMax)
  else if cls = Cls.fan then (option = Opt.fixed && value ≤ 1000) || ((option = Opt.full || option = Opt.burrow) && value = 0)
  else if cls = Cls.ao then (option = Opt.fixed && value ≤ 10000) || (option = Opt.holdLast && value = 0)
  else if cls = Cls.relay then (option = Opt.open_ || option = Opt.closed || option = Opt.holdLast) && value = 0
  else (option = Opt.off || option = Opt.on) && value = 0

/-- Channels of each class. -/
def clsCount (cls : Nat) : Nat := if cls = Cls.ao || cls = Cls.zbPwr then 16 else 32

/-- Every output, in the order of R692. -/
def allOutputs : List (Nat × Nat) :=
  ([0, 1, 2, 3, 4].map (fun c => (List.range (clsCount c)).map (fun n => (c, n)))).flatten

/-- Channels 2k and 2k + 1 are formed into a pair (R240). -/
def State.cdPaired (s : State) (n : Nat) : Bool := s.bit F.CD_CFG_PAIR (n / 2 * 2)

/-- The entry still passes its check at the moment it is applied (R33, R693). -/
def State.safeEntryOk (s : State) (cls chan : Nat) (e : SafeEntry) : Bool :=
  e.check == safeCheck cls chan e.option e.value
    && !(cls == Cls.coil && e.option == Opt.fixed && chan % 2 == 0 && !s.cdPaired chan && 600 < e.value)

/-- One output enters safe state (R33, R36, R693): an output already in safe state keeps the entry it acts on. -/
def State.safeApply (s : State) (cls chan : Nat) : State :=
  let o := s.safeOf cls chan
  let o := { o with relPend := false }
  if o.inSafe && !(o.off && s.safeLoaded && !o.failed) then s.setSafe cls chan o
  else
    match o.entry with
    | none => s.setSafe cls chan { o with inSafe := true, off := true, acting := none }
    | some e =>
      if s.safeEntryOk cls chan e then s.setSafe cls chan { o with inSafe := true, off := false, acting := some e }
      else (s.setSafe cls chan { o with inSafe := true, off := true, failed := true, acting := none }).put F.AON_SAFE_STAT_ENTRY_CHECK 1


/-- The record of safe-state entries, when the logic die runs with the link up (R38, R567). -/
def State.safeRecord (s : State) : State :=
  if s.safeUnrec = 0 || !s.linkUp then s
  else
    let t := (s.word (R.AON_SAFE_TIME_LO.at)).toNat + 2 ^ 32 * (s.word (R.AON_SAFE_TIME_HI.at)).toNat
    let r := s.recOf Who.internal (Tgt.reg (R.AON_SAFE_STAT.at) s.clk.safeOld (Word.ofN s.safeUnrec)) 1 Res.applied
    { s.auditRec { r with time := t } with safeUnrec := 0 }

/-- The outputs the device has: an odd channel of a formed pair is none of its own (R240). -/
def State.outputs (s : State) : List (Nat × Nat) := allOutputs.filter (fun o => !(o.1 == Cls.coil && o.2 % 2 == 1 && s.cdPaired o.2))

/-- AON_SAFE_STAT.ACTIVE (R53). -/
def State.safeActive (s : State) : Bool := s.outputs.any (fun o => (s.safeOf o.1 o.2).inSafe)

/-- The time of the earliest unrecorded entry, and AON_SAFE_STAT before it (R38, R567). -/
def State.safeStamp (s : State) : State :=
  if s.safeUnrec = 0 then
    let old := setBits (s.word (R.AON_SAFE_STAT.at)) 8 1 (b2n s.safeActive)
    let s := (s.setWord (R.AON_SAFE_TIME_LO.at) (Word.ofN s.rtc)).setWord (R.AON_SAFE_TIME_HI.at) (Word.ofN (s.rtc / 2 ^ 32))
    { s with clk := { s.clk with safeOld := old } }
  else s

/-- The bit of a cause, which waits to be recorded. -/
def State.safeNote (s : State) (f : Fld) : State :=
  let s := s.put f 1
  { s with safeUnrec := s.safeUnrec ||| 2 ^ f.lo }

/-- A cause is set (R38, R57): its bit in AON_SAFE_STAT, the time of the earliest unrecorded entry and the word before it, source
194. -/
def State.safeCause (s : State) (f : Fld) : State :=
  let s := s.safeStamp.safeNote f
  if s.linkUp then (s.icPulse 194).safeRecord else { s with safeIrq := true }


/-- The classes a word of AON_SAFE_REL names (R55). -/
def relClasses (data : Word) : List Nat :=
  if F.AON_SAFE_REL_ALL.of data = 1 then [0, 1, 2, 3, 4] else [0, 1, 2, 3, 4].filter (fun c => data.getLsbD c)

/-- The addressed outputs that are in safe state. -/
def State.relOutputs (s : State) (data : Word) : List (Nat × Nat) :=
  s.outputs.filter (fun o => (relClasses data).contains o.1 && (s.safeOf o.1 o.2).inSafe)

/-- The mask of classes with a refused output (R37). -/
def State.relRefused (s : State) (data : Word) : Nat :=
  ((s.relOutputs data).filter (fun o => s.safePresent o.1 o.2)).foldl (fun m o => m ||| 2 ^ o.1) 0

/-- Release one addressed output (R35, R36): a segment supply has no command point, and is released at once. -/
def State.relOne (s : State) (cls chan : Nat) : State :=
  if s.safePresent cls chan then s
  else if cls = Cls.zbPwr then
    s.setSafe cls chan { s.safeOf cls chan with inSafe := false, off := false, relPend := false, acting := none }
  else if qualLive (s.ptQual (s.cmdPoint cls chan)) then s.release cls chan
  else s.setSafe cls chan { s.safeOf cls chan with relPend := true }

/-- The record that a write of AON_SAFE_REL leaves, whose OLD is the mask of refused classes (R37). -/
def State.relTgt (s : State) (data : Word) : Tgt :=
  { Tgt.reg (R.AON_SAFE_REL.at) (Word.ofN (s.relRefused data)) data with always := true }

/-- A write of AON_SAFE_REL while the link is lost: discarded, counted (R46), and recorded all the same (R37). -/
def State.safeRelDrop (s : State) (w : Who) (data : Word) : State :=
  let s := s.inc F.SYS_D2D_DROP_WRITES
  if w.tenant != 0 then s.refuseWrite w (R.AON_SAFE_REL.at) data Res.refRights
  else s.auditW w (s.relTgt data) Res.notApplied id

/-- A write of AON_SAFE_REL (R35 to R37, R46): one audit record. -/
def State.safeRelWrite (s : State) (w : Who) (data : Word) : State :=
  if !s.pdReach then s.safeRelDrop w data
  else if w.tenant != 0 then s.refuseWrite w (R.AON_SAFE_REL.at) data Res.refRights
  else
    let res := if s.relRefused data = 0 then Res.applied else Res.notApplied
    s.auditW w (s.relTgt data) res (fun s => s.each (s.relOutputs data) (fun o s => s.relOne o.1 o.2))

end Sys2Proof.Machine
end

