-- ==== Sys2Proof/Machine/Loop.lean ====
section
/-! DEFINITION. The loop engine's commands: frames (R152 to R156), evaluations and their lockstep (R138, R139, R158 to R161),
swaps (R162 to R167), the output queue (R171 to R173), and the paths that reach the engine (R102, R148, R182, R183). -/

namespace Sys2Proof.Machine

/-- A swap is applied (R114, R162). -/
def State.leSwapBank (s : State) (n bank : Nat) : State :=
  let s := s.setLoop n { s.loop n with pend := none, bumpPend := (s.loop n).bumpPend || s.bit F.LE_REC_CTRL_BUMP n }
  s.put F.LE_REC_CTRL_BANK bank n

/-- The loops that SWG_EN and SWGRP make members of group g. -/
def State.swgMembers (s : State) (g : Nat) : List Nat :=
  ((s.listed R.LE_REC_CTRL).filter (fun e => F.LE_REC_CTRL_SWG_EN.of e.2 == 1 && F.LE_REC_CTRL_SWGRP.of e.2 == g)).map (·.1)

/-- ALIGN of one member at frame t (R166). -/
def State.leAlign (s : State) (n bank t : Nat) : State :=
  let s := if bank = s.leBank n then s.setLoop n { s.loop n with pend := none } else s.leSwapBank n bank
  if s.lePeriod n = 0 then s else s.put F.LE_REC_TIME_PHASE (t % s.lePeriod n) n

/-- A group's pending request is applied (R166, R167). -/
def State.leGroup (s : State) (g : Nat) : State :=
  let old := s.word (R.LE_SWG_STAT.at g)
  let bank := s.get F.LE_SWG_STAT_BANK g
  let ms := s.swgMembers g
  let s := if s.bit F.LE_SWG_STAT_ALIGN g then s.each ms (fun n s => s.leAlign n bank s.frame) else s.each ms (fun n s => s.swapTarget n bank)
  let s := (s.put F.LE_SWG_STAT_LAST_COUNT ms.length g).put F.LE_SWG_STAT_PEND 0 g
  let s := { s with le := { s.le with swgLast := Tab.put g (s.get F.LE_SWG_STAT_ALIGN g, bank, s.frame) s.le.swgLast } }
  let s := s.icPulse 109
  s.auditEvent (R.LE_SWG_STAT.at g) old (s.word (R.LE_SWG_STAT.at g))

/-- Setup of a frame (R153, R155): TIME words take effect, group swaps, per-loop swaps, and the due list. No slot is used while
an engine fault stands or a function reset of the engine runs (R141, R157). -/
def State.leSetup (s : State) : State :=
  let s := s.each (s.le.loops.filter (fun e => e.2.time.isSome)) (fun e s => s.setLoop e.1 { s.loop e.1 with time := none })
  let s := s.each ((List.range 64).filter (fun g => s.bit F.LE_SWG_STAT_PEND g && s.le.swgT.lookup g == some s.frame)) (fun g s => s.leGroup g)
  let s := s.each (s.le.loops.filter (fun e => e.2.pend.isSome)) (fun e s =>
    if s.leBoundary e.1 s.frame then
      match (s.loop e.1).pend with
      | some b => s.leSwapBank e.1 b
      | none => s
    else s)
  let due := if s.bit F.LE_LS_STAT_FAULT || s.le.rst then [] else
    ((s.listed R.LE_REC_CTRL).filter (fun e => F.LE_REC_CTRL_EN.of e.2 == 1 && s.leBoundary e.1 s.frame)).map (·.1)
  { s with le := { s.le with due := due } }

/-- The completed frame's statistics (R176, R177). -/
def State.leFrameStat (s : State) : State :=
  let n := s.le.slots
  let e := if n = 0 then 0 else (1000 + 6 * n + 9) / 10
  let s := (s.put F.LE_FRAME_STAT_SLOTS n).put F.LE_FRAME_STAT_END_US e
  (s.put F.LE_FRAME_PEAK_SLOTS (Nat.max n (s.get F.LE_FRAME_PEAK_SLOTS))).put F.LE_FRAME_PEAK_END_US (Nat.max e (s.get F.LE_FRAME_PEAK_END_US))

/-- A frame boundary (R152, R153): 10 ms after the last; the first one after a reset is frame 0. -/
def State.leFrame (s : State) : State :=
  let s := s.leFrameStat
  let s := if s.le.started then { s.reach (s.le.frameAt + 10000) with frame := (s.frame + 1) % 2 ^ 48 } else { s with frame := 0 }
  let s := { s with le := { s.le with
    started := true, frameAt := if s.le.started then s.le.frameAt + 10000 else s.now, slots := 0, missed := false, trendDrop := false,
    windowDue := s.frame % 10 == 0 || s.le.windowDue } }
  (s.setWord (R.LE_TICK.at) (Word.ofN s.frame)).leSetup

def execLeFrameBoundary (s : State) : Out := .next s.leFrame

/-! ### Evaluations -/

/-- Outcome MISSED (R160, R161). -/
def State.leMissed (s : State) (n : Nat) : State :=
  let s := s.setLoop n { (s.loop n).hold Oc.missed with miss := true }
  let s := (s.leSupervise n Oc.missed none).inc F.LE_MISS_COUNT
  let s := if s.le.missed then s else { (s.inc F.LE_MISS_FRAMES).icPulse 107 with le := { s.le with missed := true } }
  s.firstOf F.LE_MISS_LAST_VALID (fun s => (s.put F.LE_MISS_LAST_LOOP n).put F.LE_MISS_LAST_FRAME s.frame)

/-- The deadline of R158 in units of 0.1 µs from the boundary. -/
def State.leDeadline (s : State) (n : Nat) : Nat :=
  let d := s.get F.LE_REC_SUP_DEADLINE n
  if d = 0 then s.lePeriod n * 100000 else d * 100

/-- A slot has been used; its end is reached (R153). -/
def State.leSlot (s : State) : State :=
  let s := { s with le := { s.le with slots := s.le.slots + 1 } }
  s.reach (s.le.frameAt + (1000 + 6 * s.le.slots) / 10)

/-- The next due loop is reached at the present slot start (R138, R156, R159): MISSED, or one evaluation whose halves agree
or differ in part `differ`. Of a record word and a state word that both show a double-bit error the record's counts as the
first (log entry 118). -/
def State.leNext (s : State) (ecc : LeEcc) (differ : Option (Fin 4)) : State :=
  match s.le.retry, s.le.due with
  | none, n :: rest =>
    let s := { s with le := { s.le with due := rest } }
    if s.leDeadline n < 1000 + 6 * s.le.slots + 12 then s.leMissed n
    else
      let s := s.leSlot
      let s := ((s.leRecEcc n ecc.record).leStateEcc n ecc.state).ptEcc (s.get F.LE_REC_PTS_PV n) ecc.pv
      let s := (s.ptEcc (s.get F.LE_REC_PTS_SP n) ecc.sp).ptEcc (s.get F.LE_REC_OUT_OUT n) ecc.out
      let ev := s.leEvaluate n
      match differ with
      | none => s.leCommit ev
      | some p => { s with le := { s.le with retry := some (ev, p.val) } }
  | _, _ => s

def execLoopEvaluation (ecc : LeEcc) (differ : Option (Fin 4)) (s : State) : Out := .next (s.leNext ecc differ)

/-- An engine fault (R139): the notice is on its way to the power die. -/
def State.leFault (s : State) (n : Nat) : State :=
  let old := s.word (R.LE_LS_STAT.at)
  let s := ((s.put F.LE_LS_STAT_FAULT 1).put F.LE_LS_STAT_TIMER 1).put F.LE_LS_STAT_FAULT_LOOP n
  let s := { s with le := { s.le with due := [], notice := true } }
  let s := (s.icPulse 104).postErr 0 leBlock 31 []
  s.auditEvent (R.LE_LS_STAT.at) old (s.word (R.LE_LS_STAT.at))

/-- The repeat of a disagreed evaluation agrees, or disagrees again (R138, R139). -/
def State.leRepeat (s : State) (agree : Bool) : State :=
  match s.le.retry with
  | none => s
  | some (ev, part) =>
    let s := { s with le := { s.le with retry := none } }.leSlot
    if agree then
      let s := ((s.inc F.LE_LS_RETRY_COUNT).icPulse 105).firstOf F.LE_LS_LAST_VALID (fun s =>
        (s.put F.LE_LS_LAST_LOOP ev.loop).put F.LE_LS_LAST_PART part)
      s.leCommit ev
    else s.leFault ev.loop

def execLockstepRepeat (agree : Bool) (s : State) : Out := .next (s.leRepeat agree)

/-- The power die receives the engine-fault notice: its 3 s timer starts (R139). -/
def execLeFaultNotice (s : State) : Out :=
  .next (if s.le.notice && s.pdReach then { s with le := { s.le with notice := false, pdTimer := some (s.now + 3000000) } } else s)

/-- The power die receives the cancel of its timer (R141). -/
def execLeFaultTimerCancel (s : State) : Out :=
  .next (if s.le.cancel && s.pdReach then { s with le := { s.le with cancel := false, notice := false, pdTimer := none } } else s)

/-! ### The output queue -/

/-- The head entry is written as a LOOP source write, or discarded (R111, R171, R173). -/
def State.oqWrite (s : State) (trend : Bool) : State :=
  match s.le.oq with
  | [] => s
  | e :: rest =>
    let s := { s with le := { s.le with oq := rest } }
    if e.gen != s.gen e.tenant then s.inc F.TEN_CNT_DISC_GEN 1 e.tenant
    else s.ptSource e.point (bindWord Kind.loop e.loop) e.value true none none trend

/-- How many samples of the head the log collector's intake has no room for (R172). -/
def State.oqOver (s : State) : Nat :=
  match s.le.oq with
  | [] => 0
  | e :: _ => if e.gen == s.gen e.tenant then s.trendChannels 0 e.point - (64 - s.log.trend.length) else 0

/-- The head's output is a trended point and the log collector's intake is full (R172). -/
def State.oqBlocked (s : State) : Bool := s.oqOver != 0

/-- An entry waits at the head while the intake is full (R172). -/
def execOutputQueueDrain (s : State) : Out := .next (if s.oqBlocked then s else s.oqWrite true)

/-- The head has waited 0.4 µs: each sample without room is dropped and its source write made (R172). -/
def State.oqTimeout (s : State) : State :=
  match s.le.oq with
  | [] => s
  | e :: _ =>
    if !s.oqBlocked then s
    else
      let lost := s.oqOver
      let n := s.trendChannels 0 e.point - lost
      let s := s.inc F.LE_OQ_TREND_DROP lost
      let s := if s.le.trendDrop then s else { s.icPulse 110 with le := { s.le with trendDrop := true } }
      let s := s.oqWrite false
      if s.wres = Res.applied then s.each (List.range n) (fun _ s => s.trendSample e.point) else s

def execOqTrendTimeout (s : State) : Out := .next s.oqTimeout

/-! ### The paths to the engine -/

/-- A register write to a loop record enters the FIFO (R102). -/
def State.recWrite (s : State) (w : Who) (n k : Nat) (v : Word) : State :=
  s.lePush 0 (s.leOpOf w (recAddr n k) (.word n k v) v)

def execLoopRecordWrite (p : Path) (n k : Nat) (v : Word) (s : State) : Out :=
  .next (s.byPath p (fun w s => s.recWrite w (n % 8192) (k % 16) v))

def isWord : LeAsk → Bool | .word .. => true | _ => false
def isSwap : LeAsk → Bool | .swap .. => true | _ => false
def isGroup : LeAsk → Bool | .group .. => true | _ => false
def isReinit : LeAsk → Bool | .reinit .. => true | _ => false
def isForce : LeAsk → Bool | .force .. => true | _ => false
def isRelease : LeAsk → Bool | .release .. => true | _ => false

/-- An operation crosses to the engine: none does while a function reset of the engine runs (R721). -/
def State.leCross (s : State) (f : Nat) (kind : LeAsk → Bool) (apply : LeOp → State → State) : State :=
  if s.le.rst then s else s.leTake f kind apply

/-- FIFO 0 is that of R102, FIFO 1 + k that of core k (R206). -/
def execLoopRecordApply (f : Fin 5) (s : State) : Out := .next (s.leCross f isWord (fun op s => s.leApplyWord f op))

/-- A write of LE_SWAP is one request (R163, R182). -/
def State.swapWrite (s : State) (w : Who) (data : Word) : State :=
  s.lePush 0 (s.leOpOf w (R.LE_SWAP.at) (.swap (F.LE_SWAP_LOOP.of data) (F.LE_SWAP_BANK.of data)) data)

def execLeSwap (p : Path) (data : Word) (s : State) : Out := .next (s.byPath p (fun w s => s.swapWrite w data))

/-- A write of LE_SWG_CMD (R165, R183). -/
def State.groupWrite (s : State) (w : Who) (data : Word) : State := s.lePush 0 (s.leOpOf w (R.LE_SWG_CMD.at) (.group data) data)

def execLeSwgRequest (p : Path) (data : Word) (s : State) : Out :=
  .next (s.byPath p (fun w s => s.groupWrite w (setBits data F.LE_SWG_CMD_CANCEL.lo 1 0)))

def execLeSwgCancel (p : Path) (data : Word) (s : State) : Out :=
  .next (s.byPath p (fun w s => s.groupWrite w (setBits data F.LE_SWG_CMD_CANCEL.lo 1 1)))

def execSwapRequestApply (f : Fin 5) (s : State) : Out := .next (s.leCross f isSwap (fun op s => s.leApplySwap f op))

def execGroupRequestApply (f : Fin 5) (s : State) : Out := .next (s.leCross f isGroup (fun op s => s.leApplyGroup f op))

/-- A write of LE_STATE_SEL (R148): READY is cleared; a refused write selects nothing. The write is audited when REINIT is 1.
A RETIRED tenant selects nothing (R602). -/
def State.selWrite (s : State) (w : Who) (data : Word) : State :=
  let n := F.LE_STATE_SEL_LOOP.of data
  let old := s.word (R.LE_STATE_SEL.at)
  let s := { s.put F.LE_STATE_SEL_READY 0 with le := { s.le with copy := none } }
  let select (s : State) : State := { s.put F.LE_STATE_SEL_LOOP n with le := { s.le with copy := some n } }
  if F.LE_STATE_SEL_REINIT.of data = 1 then
    let res := if s.mayAct w.tenant (s.leTenant n) then Res.applied else Res.refRights
    s.auditW w { ttype := 1, target := n, addr := R.LE_STATE_SEL.at, old := old, new := data } res
      (fun s => if res = Res.applied then (select s).leSetInit n else s)
  else if w.tenant = 0 || (w.tenant = s.leTenant n && s.tstate w.tenant != 0) then s.plainW Res.applied select
  else s.plainW Res.refRights id

def execLeStateSelWrite (p : Path) (data : Word) (s : State) : Out :=
  .next (s.byPath p (fun w s => s.selWrite w (setBits data F.LE_STATE_SEL_REINIT.lo 1 0)))

def execLeStateReinit (p : Path) (data : Word) (s : State) : Out :=
  .next (s.byPath p (fun w s => s.selWrite w (setBits data F.LE_STATE_SEL_REINIT.lo 1 1)))

/-- The engine copies the selected loop's state (R148, R185). -/
def State.leCopy (s : State) : State :=
  match s.le.copy with
  | none => s
  | some n =>
    let l := s.loop n
    let s := ((s.setWord (R.LE_STATE_I.at) l.iPrev).setWord (R.LE_STATE_D.at) l.dPrev).setWord (R.LE_STATE_Y.at) l.yPrev
    let s := ((s.setWord (R.LE_STATE_U.at) l.uPrev).setWord (R.LE_STATE_FLAGS.at) l.flags).setWord (R.LE_STATE_SCHED.at) l.sched
    { s.put F.LE_STATE_SEL_READY 1 with le := { s.le with copy := none } }

def execLeStateCopy (s : State) : Out := .next s.leCopy

/-- The LX operations of core k (R207). -/
def execLoopReinitApply (k : Fin 4) (s : State) : Out :=
  .next (s.leCross (k + 1) isReinit (fun op s => s.leApplyReinit (k + 1) op))

def execLxForceApply (k : Fin 4) (s : State) : Out :=
  .next (s.leCross (k + 1) isForce (fun op s => s.leApplyForce (k + 1) op))

def execLxRelinquishApply (k : Fin 4) (s : State) : Out :=
  .next (s.leCross (k + 1) isRelease (fun op s => s.leApplyRelease (k + 1) op))

/-! ### The function reset -/

/-- What waits in FIFO f at a reset of the engine ends: register writes and requests audited NOT_APPLIED, LX operations with
LX_FAULT (R721). -/
def State.leFlush (s : State) (f : Nat) : State :=
  let ops := s.leFifo f
  ((s.setFifo f []).lxRoom f).each ops (fun op s =>
    if f != 0 then s.leAnswer f op 0x20 0
    else
      let (tt, n, old) : Nat × Nat × Word := match op.ask with
        | .word n k _ => (1, n % 8192, s.recWord (n % 8192) k)
        | .swap n _ => (1, n % 8192, 0)
        | _ => (2, 0, 0)
      let s := s.leAudit op tt n old op.data Res.notApplied id
      s.leAnswer f op s.wres n)

/-- A FUNC_RST of the loop engine starts (R721): verified results drain, waiting operations end, and no evaluation starts
until it completes. -/
def State.leFuncRst (s : State) : State :=
  let s := s.each s.le.oq (fun _ s => if s.oqBlocked then s.oqTimeout else s.oqWrite true)
  let s := s.each [0, 1, 2, 3, 4] (fun f s => s.leFlush f)
  { s with le := { s.le with due := [], retry := none, rst := true } }

/-- It completes (R141): every state record is reset, evaluations start again at the next frame boundary, and while TIMER is 1
the power die's timer is cancelled and the outputs that were held follow their points again. Pending swaps, requests and
records are kept. A loop that leaves EXCEEDED here posts nothing and is not counted (log entry 119). -/
def State.leFuncEnd (s : State) : State :=
  let s := s.each s.le.loops (fun e s => s.setLoop e.1 { pend := e.2.pend, time := e.2.time, bad := e.2.bad })
  let held := if s.bit F.LE_LS_STAT_TIMER && s.linkUp then s.le.withheld.filter (fun o => s.tstate (s.ptTenant (s.cmdPoint o.1 o.2)) != 2) else []
  let s := s.sendPresent held
  let s := { s with le := { s.le with rst := false, withheld := [], cancel := s.le.cancel || s.bit F.LE_LS_STAT_TIMER } }
  s.setWord (R.LE_LS_STAT.at) 0

end Sys2Proof.Machine
end

