-- ==== Sys2Proof/Machine/ZoneBusOps.lean ====
section
/-! DEFINITION. Zone bus: bit timing, identifiers, buffers, tags and pending transmissions (R448 to R465). -/

namespace Sys2Proof.Machine

def State.seg (s : State) (z : Nat) : ZbSeg := Tab.get (fun _ => {}) s.zb.segs z
def State.setSeg (s : State) (z : Nat) (x : ZbSeg) : State := { s with zb := { s.zb with segs := Tab.set (fun _ => {}) s.zb.segs z x } }

/-- LATE in µs. -/
def State.zbLate (s : State) (z : Nat) : Nat := 1000 * s.get F.ZB_QUAR_LATE z

/-! ### Bit timing (R448, R449) -/

def nbtQuanta (x : Word) : Nat := 3 + F.ZB_NBT_NTSEG1.of x + F.ZB_NBT_NTSEG2.of x
def dbtQuanta (x : Word) : Nat := 3 + F.ZB_DBT_DTSEG1.of x + F.ZB_DBT_DTSEG2.of x

/-- CK_ZB cycles of a bit. -/
def nbtCycles (x : Word) : Nat := (F.ZB_NBT_NBRP.of x + 1) * nbtQuanta x
def dbtCycles (x : Word) : Nat := (F.ZB_DBT_DBRP.of x + 1) * dbtQuanta x

/-- The nominal column of R448. -/
def nbtOk (x : Word) : Bool :=
  1 ≤ F.ZB_NBT_NTSEG1.of x && F.ZB_NBT_NSJW.of x ≤ F.ZB_NBT_NTSEG1.of x && F.ZB_NBT_NSJW.of x ≤ F.ZB_NBT_NTSEG2.of x
    && 8 ≤ nbtQuanta x && nbtQuanta x ≤ 385 && 80 ≤ nbtCycles x && nbtCycles x ≤ 4000

/-- The data-phase column, as far as it concerns ZB_DBT alone. -/
def dbtOk (x : Word) : Bool :=
  F.ZB_DBT_DSJW.of x ≤ F.ZB_DBT_DTSEG1.of x && F.ZB_DBT_DSJW.of x ≤ F.ZB_DBT_DTSEG2.of x
    && 5 ≤ dbtQuanta x && dbtQuanta x ≤ 49 && 16 ≤ dbtCycles x

/-- The data phase beside the nominal one, and R450: judged as soon as each register of the two holds a valid timing, so that the
words of an image can be loaded one after another (log entry 133). -/
def crossOk (nbt dbt tdc : Word) : Bool :=
  !dbtOk dbt || ((!nbtOk nbt || (F.ZB_DBT_DBRP.of dbt ≤ F.ZB_NBT_NBRP.of nbt && dbtCycles dbt ≤ nbtCycles nbt))
    && (80 ≤ dbtCycles dbt || F.ZB_TDC_TDCE.of tdc == 1))

/-- Triple sampling needs a nominal rate of 125,000 bit/s or less (R449). -/
def tsmpOk (ctrl nbt : Word) : Bool := F.ZB_CTRL_TSMP.of ctrl == 0 || 640 ≤ nbtCycles nbt

/-- A write of ZB_CTRL, ZB_NBT, ZB_DBT or ZB_TDC that leaves these words (R448, R449): `nom` and `dat` say that the nominal or
the data phase is judged for itself. -/
def timingOk (ctrl nbt dbt tdc : Word) (nom dat : Bool) : Bool :=
  let fd := F.ZB_CTRL_FDOE.of ctrl == 1
  (!(nom || fd) || nbtOk nbt) && (!(dat || fd) || dbtOk dbt) && crossOk nbt dbt tdc && tsmpOk ctrl nbt

/-! ### Frames and buffers (R451 to R457) -/

/-- Data bytes of a DLC (R453). -/
def dlcBytes (fd : Bool) (d : Nat) : Nat :=
  if d ≤ 8 then d else if fd then [12, 16, 20, 24, 32, 48, 64].getD (d - 9) 64 else 8

/-- The payload of a frame: as many bytes as its DLC gives. -/
def frBytes (f : CanFrame) : List Byte :=
  let n := dlcBytes f.fdf (f.dlc % 16)
  f.data.take n ++ List.replicate (n - f.data.length) 0

def frCls (f : CanFrame) : Nat := f.id / 2 ^ 20 % 64
def frSource (f : CanFrame) : Nat := f.id / 2 ^ 15 % 32
def frDest (f : CanFrame) : Nat := f.id / 2 ^ 10 % 32
def frTag (f : CanFrame) : Nat := f.id % 1024

/-- The frame with an extended identifier of this class. -/
def frAs (f : CanFrame) (c : Nat) : CanFrame :=
  { f with
    ide := true
    id := f.id / 2 ^ 26 % 8 * 2 ^ 26 + c * 2 ^ 20 + f.id % 2 ^ 20 }

/-- A Calnos identifier (R451). -/
def zbId (prio cls src dst tag : Nat) : Nat := prio % 8 * 2 ^ 26 + cls % 64 * 2 ^ 20 + src % 32 * 2 ^ 15 + dst % 32 * 2 ^ 10 + tag % 1024

/-- The index (address − 1) of the node an uplink SOURCE names. -/
def nodeIdx (src : Nat) : Nat := if src = 0 then 31 else src - 1

/-- The capacity in bytes of a descriptor: a buffer for classical frames only takes the classical row (R453). -/
def capacity (cfg : Word) : Nat :=
  let classical := F.ZB_BUF_CFG_FDF.of cfg == 0 && (F.ZB_BUF_CFG_DIR.of cfg == 2 || F.ZB_BUF_CFG_FCHK.of cfg == 1)
  dlcBytes (!classical) (F.ZB_BUF_CFG_MAXDLC.of cfg)

/-- First byte and end of a descriptor's area. -/
def areaOf (cfg : Word) : Nat × Nat :=
  let p := 8 * F.ZB_BUF_CFG_POFS.of cfg
  (p, p + (capacity cfg + 7) / 8 * 8)

def State.bufCfg (s : State) (z b : Nat) : Word := s.word (R.ZB_BUF_CFG.at z b)
def State.bufDir (s : State) (z b : Nat) : Nat := s.get F.ZB_BUF_CFG_DIR z b

/-- A descriptor may take this CFG, whatever its direction (R453, R488); only another buffer that is off is no obstacle. -/
def State.bufCfgOk (s : State) (z b : Nat) (cfg : Word) : Bool :=
  F.ZB_BUF_CFG_DIR.of cfg != 3 && F.ZB_BUF_CFG_TXDLC.of cfg ≤ F.ZB_BUF_CFG_MAXDLC.of cfg &&
    (areaOf cfg).2 ≤ 1536 && (List.range 64).all (fun o =>
      o == b || s.bufDir z o == 0 ||
        (let x := areaOf (s.bufCfg z o)
         (areaOf cfg).2 ≤ x.1 || x.2 ≤ (areaOf cfg).1 || x.1 == x.2 || (areaOf cfg).1 == (areaOf cfg).2))

/-- The address of the word that holds byte i of a segment's payload memory. -/
def payAddr (z i : Nat) : Nat := 0x1D0A00 + 0x1000 * z + i / 4 * 4

def State.payByte (s : State) (z i : Nat) : Byte := Byte.ofN (bitsOf (s.word (payAddr z i)) (8 * (i % 4)) 8)

def State.setPayByte (s : State) (z i : Nat) (b : Byte) : State :=
  s.setWord (payAddr z i) (setBits (s.word (payAddr z i)) (8 * (i % 4)) 8 b.toNat)

def State.setPayBytes (s : State) (z : Nat) : Nat → List Byte → State
  | _, [] => s
  | i, b :: t => (s.setPayByte z i b).setPayBytes z (i + 1) t

/-- The value of a ZBFIELD REF in a payload (R72, R74); none when it lies beyond the received length. -/
def zbField (ref : Nat) (d : List Byte) : Option Word :=
  let fmt := ref / 2 ^ 16 % 8
  let off := ref / 2 ^ 10 % 64
  let w := if fmt = 2 || fmt = 3 then 2 else if fmt = 4 || fmt = 5 || fmt = 6 then 4 else 1
  if d.length < off + w then none
  else
    let n := leVal ((d.drop off).take w)
    if fmt = 6 then some (Word.ofN n)
    else if fmt = 7 then some (fOfNat (n / 2 ^ (ref / 2 ^ 19 % 8) % 2))
    else if fmt = 1 || fmt = 3 || fmt = 5 then some (fOfInt (toSigned (8 * w) n)).val
    else some (fOfNat n)

/-- The source writes of the points bound to fields of a stored frame (R457). -/
def State.zbPoints (s : State) (z b : Nat) (d : List Byte) : State :=
  let hits := (s.listed R.PT_BIND).filter (fun e => F.PT_BIND_KIND.of e.2 == Kind.zbField && bitsOf e.2 0 10 == 16 * b + z)
  s.each hits (fun (e : Nat × Word) s =>
    match zbField (bitsOf e.2 0 22) d with
    | some v => s.ptSource e.1 e.2 (s.userCal e.1 v) true
    | none => s.ptSource e.1 e.2 fNaN false)

/-- A frame is stored in buffer b (R455). -/
def State.zbStore (s : State) (z b : Nat) (f : CanFrame) : State :=
  let lost := s.bit F.ZB_BUF_STAT_NEWD z b
  let s := s.setPayBytes z (areaOf (s.bufCfg z b)).1 (frBytes f)
  let s := s.setWord (R.ZB_BUF_RXID.at z b) (Word.ofN (f.id % 2 ^ 29 + 2 ^ 29 * b2n f.ide))
  let s := (((s.put F.ZB_BUF_STAT_DLC f.dlc z b).put F.ZB_BUF_STAT_RFDF (b2n f.fdf) z b).put F.ZB_BUF_STAT_RBRS (b2n f.brs) z b).put F.ZB_BUF_STAT_RESI (b2n f.esi) z b
  let s := s.put F.ZB_BUF_STAT_NEWD 1 z b
  let s := if lost then (s.put F.ZB_BUF_STAT_MSGLOST 1 z b).put F.ZB_EVT_MSGLOST 1 z else s
  let s := ((s.inc F.ZB_BUF_CNT_RX 1 z b).inc F.ZB_CNT_RXOK 1 z).put F.ZB_EVT_RX 1 z
  s.zbPoints z b (frBytes f)

/-- A receive buffer matches a frame but for its length (R454). -/
def State.zbMatch (s : State) (z b : Nat) (f : CanFrame) : Bool :=
  let c := s.bufCfg z b
  let bits := if f.ide then 29 else 11
  let m := bitsOf (s.word (R.ZB_BUF_MASK.at z b)) 0 bits
  F.ZB_BUF_CFG_DIR.of c == 1 && (F.ZB_BUF_CFG_IDE.of c == 1) == f.ide
    && (f.id % 2 ^ bits) &&& m == bitsOf (s.word (R.ZB_BUF_ID.at z b)) 0 bits &&& m
    && (F.ZB_BUF_CFG_FCHK.of c == 0 || (F.ZB_BUF_CFG_FDF.of c == 1) == f.fdf)

/-- A frame is offered to the receive buffers in ascending order (R454). -/
def State.zbOfferTo (s : State) (z : Nat) (f : CanFrame) : List Nat → State
  | [] => s.inc F.ZB_CNT2_NOMATCH 1 z
  | b :: t =>
    if !s.zbMatch z b f then s.zbOfferTo z f t
    else if (frBytes f).length ≤ capacity (s.bufCfg z b) then s.zbStore z b f
    else (s.inc F.ZB_CNT2_TOOLONG 1 z).zbOfferTo z f t

def State.zbOffer (s : State) (z : Nat) (f : CanFrame) : State := s.zbOfferTo z f (List.range 64)

/-! ### Tags (R464) -/

/-- The first FREE tag above the one last handed out. -/
def ZbSeg.freeTag (x : ZbSeg) : Option Nat :=
  ((List.range 1024).map (fun i => (x.lastTag + 1 + i) % 1024)).find? (fun t => (x.tags.lookup t).isNone)

/-- A tagged request takes a tag, or waits for one. -/
def State.zbTakeTag (s : State) (z b : Nat) : State :=
  let x := s.seg z
  match x.freeTag, x.reqs.lookup b with
  | some t, some r =>
    let d := bitsOf (s.word (R.ZB_BUF_ID.at z b)) 10 5
    ((s.setSeg z { x with lastTag := t, tags := Tab.put t ⟨1, d, s.now⟩ x.tags, reqs := Tab.put b { r with tag := some t } x.reqs }).put
      F.ZB_BUF_STAT_TAG t z b).put F.ZB_BUF_STAT_TAGWAIT 0 z b
  | _, _ => s.put F.ZB_BUF_STAT_TAGWAIT 1 z b

/-- Waiting requests take the tags that have become FREE, in ascending buffer number. -/
def State.zbServeTags (s : State) (z : Nat) : State :=
  s.each ((List.range 64).filter (fun b => s.bit F.ZB_BUF_STAT_TAGWAIT z b)) (fun b s => s.zbTakeTag z b)

/-- A request has ended: its tag becomes FREE, or OPEN when an attempt passed arbitration. -/
def State.zbTagEnd (s : State) (z : Nat) (r : ZbReq) : State :=
  match r.tag with
  | none => s
  | some t =>
    let x := s.seg z
    let d := ((x.tags.lookup t).map (·.dest)).getD 0
    if r.passed then s.setSeg z { x with tags := Tab.put t ⟨2, d, s.now⟩ x.tags }
    else (s.setSeg z { x with tags := Tab.del t x.tags }).zbServeTags z

/-- An OPEN tag moves to QUARANTINE. -/
def State.zbTagQuar (s : State) (z t : Nat) : State :=
  let x := s.seg z
  s.setSeg z { x with tags := Tab.put t ⟨3, 0, s.now⟩ x.tags }

def execZbTagOpenTimeout (z : Fin 16) (t : Fin 1024) (s : State) : Out :=
  .next (match (s.seg z.val).tags.lookup t.val with
    | some g => if g.st = 2 then (s.reach (g.at_ + s.zbLate z.val)).zbTagQuar z.val t.val else s
    | none => s)

def execZbTagQuarantineEnd (z : Fin 16) (t : Fin 1024) (s : State) : Out :=
  .next (match (s.seg z.val).tags.lookup t.val with
    | some g =>
      if g.st = 3 then
        let s := s.reach (g.at_ + s.zbLate z.val)
        (s.setSeg z.val { s.seg z.val with tags := Tab.del t.val (s.seg z.val).tags }).zbServeTags z.val
      else s
    | none => s)

/-! ### Transmission (R458 to R463) -/

/-- Results of R460. -/
def Tx.done : Nat := 1
def Tx.arbLost : Nat := 2
def Tx.error : Nat := 3
def Tx.aborted : Nat := 4
def Tx.busOff : Nat := 5
def Tx.discardedGen : Nat := 6

/-- A pending transmission ends with a result (R460). -/
def State.zbEnd (s : State) (z b res : Nat) : State :=
  let x := s.seg z
  match x.reqs.lookup b with
  | none => s
  | some r =>
    let s := s.setSeg z { x with reqs := Tab.del b x.reqs }
    let s := ((s.put F.ZB_BUF_STAT_TXREQ 0 z b).put F.ZB_BUF_STAT_TAGWAIT 0 z b).put F.ZB_BUF_STAT_TXRES res z b
    let s := if res = Tx.done then ((s.put F.ZB_EVT_TXDONE 1 z).inc F.ZB_BUF_CNT_TX 1 z b).inc F.ZB_CNT_TXOK 1 z
      else s.putIf (res = Tx.arbLost || res = Tx.error || res = Tx.busOff) F.ZB_EVT_TXFAIL 1 z
    s.zbTagEnd z r

/-- A write of TXREQ (R458). -/
def State.zbRequest (s : State) (z b : Nat) : State :=
  let c := s.bufCfg z b
  if s.bit F.ZB_BUF_STAT_TXREQ z b || F.ZB_BUF_CFG_DIR.of c != 2 then s
  else if (F.ZB_BUF_CFG_FDF.of c == 0 && 8 < F.ZB_BUF_CFG_TXDLC.of c) || (F.ZB_BUF_CFG_FDF.of c == 1 && !s.bit F.ZB_CTRL_FDOE z) then
    { s with wres := Res.refConfig }
  else
    let t := F.ZB_BUF_CFG_TENANT.of c
    let x := s.seg z
    let s := (s.setSeg z { x with reqs := Tab.put b { tenant := t, gen := s.gen t, tag := none } x.reqs }).put F.ZB_BUF_STAT_TXREQ 1 z b
    if F.ZB_BUF_CFG_TAGGED.of c = 1 then s.zbTakeTag z b else s

/-- A write of TXABORT (R462). -/
def State.zbAbort (s : State) (z b : Nat) : State :=
  let x := s.seg z
  match x.reqs.lookup b with
  | none => s
  | some r =>
    if x.onBus = some (.buf b) then s.setSeg z { x with reqs := Tab.put b { r with abort := true } x.reqs }
    else s.zbEnd z b Tx.aborted

/-- The identifier a buffer sends: a tagged one carries its tag (R464). -/
def State.zbTxId (s : State) (z b : Nat) : Nat :=
  let i := bitsOf (s.word (R.ZB_BUF_ID.at z b)) 0 (if s.bit F.ZB_BUF_CFG_IDE z b then 29 else 11)
  match (s.seg z).reqs.lookup b with
  | some r => (match r.tag with | some t => i / 1024 * 1024 + t | none => i)
  | none => i

/-- The frame a buffer sends (R458). -/
def State.zbTxFrame (s : State) (z b : Nat) : CanFrame :=
  let c := s.bufCfg z b
  let fd := F.ZB_BUF_CFG_FDF.of c == 1
  { ide := F.ZB_BUF_CFG_IDE.of c == 1, id := s.zbTxId z b, fdf := fd, brs := fd && F.ZB_BUF_CFG_BRS.of c == 1,
    esi := s.get F.ZB_STAT_FCS z == 1, dlc := F.ZB_BUF_CFG_TXDLC.of c,
    data := (List.range (dlcBytes fd (F.ZB_BUF_CFG_TXDLC.of c))).map (fun i => s.payByte z ((areaOf c).1 + i)) }

/-- The frame of a hardware queue entry: classical, extended. -/
def ZbHw.frame (h : ZbHw) : CanFrame := ⟨true, h.id, false, false, false, h.data.length, h.data, false⟩

/-- The order of arbitration: the least wins (ISO 11898-1). A base identifier wins over an extended one that begins with it. -/
def arbKey (ide : Bool) (id : Nat) : Nat :=
  if ide then id / 2 ^ 18 * 2 ^ 19 + 2 ^ 18 + id % 2 ^ 18 else id % 2048 * 2 ^ 19

/-- The least by key, the first among equals. -/
def leastBy {α : Type} (k : α → Nat) : List α → Option α
  | [] => none
  | a :: t => match leastBy k t with
    | none => some a
    | some b => if k a ≤ k b then some a else some b

/-- The frames that may be chosen: the hardware queue, then the buffers (R459). -/
def State.zbCandidates (s : State) (z : Nat) : List (ZbTx × Nat) :=
  let x := s.seg z
  (x.hwq.zipIdx.map (fun (h : ZbHw × Nat) => (ZbTx.hw h.2, arbKey true h.1.id)))
    ++ ((List.range 64).filter (fun b => s.bit F.ZB_BUF_STAT_TXREQ z b && !s.bit F.ZB_BUF_STAT_TAGWAIT z b)).map
      (fun b => (ZbTx.buf b, arbKey (s.bit F.ZB_BUF_CFG_IDE z b) (s.zbTxId z b)))

/-- The controller takes part in traffic (R444): it neither integrates nor waits out a protocol exception (R479). -/
def State.zbLive (s : State) (z : Nat) : Bool :=
  s.get F.ZB_STAT_ACTIVE z != 0 && !s.bit F.ZB_STAT_BUSINT z && !s.bit F.ZB_STAT_PXE z && s.get F.ZB_STAT_FCS z != 2

/-- It may send: NORMAL or LOOP. -/
def State.zbMaySend (s : State) (z : Nat) : Bool := s.zbLive z && s.get F.ZB_STAT_ACTIVE z != 2

/-- The bus is idle: the next frame is chosen (R459). -/
def State.zbChoose (s : State) (z : Nat) : State :=
  let x := s.seg z
  if !s.zbMaySend z || x.onBus.isSome then s
  else match leastBy (fun (e : ZbTx × Nat) => e.2) (s.zbCandidates z) with
    | none => s
    | some e => s.setSeg z { x with onBus := some e.1 }

def execZbFrameChoice (z : Fin 16) (s : State) : Out := .next (s.zbChoose z.val)

/-- A tenant's frames at its reset (R463, R617): what ends so counts in TEN_CNT.DISC_GEN (R615). -/
def State.zbTenantReset (s : State) (t : Nat) : State :=
  s.each (List.range 16) (fun z s =>
    s.each (((s.seg z).reqs.filter (fun e => e.2.tenant == t)).map (·.1)) (fun b s =>
      let x := s.seg z
      if x.onBus = some (.buf b) then
        match x.reqs.lookup b with
        | some r => (s.setSeg z { x with reqs := Tab.del b x.reqs, onBus := some (.lost (s.zbTxFrame z b) r) }).put F.ZB_BUF_STAT_TXREQ 0 z b
        | none => s
      else (s.zbEnd z b Tx.discardedGen).inc F.TEN_CNT_DISC_GEN 1 t))

end Sys2Proof.Machine
end

