-- ==== Sys2Proof/Machine/Tenants.lean ====
section
/-! DEFINITION. Tenants (chapter "Tenants"): contexts, windows, queues, the command executor, doorbells, resets, fallbacks and
quotas. Posts, rights and generations stand in Ops and PointOps. -/

namespace Sys2Proof.Machine

/-! ### Contexts and windows (R602 to R604) -/

/-- Something of the device bears the tenant's ID, or its command queue holds an entry (R603). -/
def State.tenantBusy (s : State) (t : Nat) : Bool :=
  (s.listed R.PT_CONFIG).any (fun e => F.PT_CONFIG_TENANT.of e.2 == t)
    || (s.listed R.LE_REC_CTRL).any (fun e => F.LE_REC_CTRL_TENANT.of e.2 == t)
    || (s.listed R.SYS_ZONE_CFG).any (fun e => F.SYS_ZONE_CFG_TENANT.of e.2 == t)
    || (s.listed R.SK_TASK_CTL).any (fun e => F.SK_TASK_CTL_TENANT.of e.2 == t)
    || (s.listed R.ZB_BUF_CFG).any (fun e => F.ZB_BUF_CFG_TENANT.of e.2 == t)
    || (s.listed R.TEN_DB_CFG).any (fun e => F.TEN_DB_CFG_OWNER.of e.2 == t)
    || (s.listed R.LE_SWG_CFG).any (fun e => F.LE_SWG_CFG_OWNER.of e.2 == t)
    || s.cl.tags.any (fun e => e.2.tenant == t)
    || !(s.tctx t).cq.isEmpty

/-- Retirement (R603): windows cleared, event and error queues emptied, minimums released. A reset that waits is dropped. -/
def State.tenRetire (s : State) (t : Nat) : State :=
  let s := (s.put F.TEN_CTX_STAT_STATE 0 t).put F.TEN_CTX_STAT_PEND 0 t
  let s := s.each (List.range 8) (fun w s => (s.setWord (R.TEN_WIN_A.at t w) 0).setWord (R.TEN_WIN_B.at t w) 0)
  let s := ((s.put F.TEN_Q_CMD_CFG_MIN 0 t).put F.TEN_Q_EVT_CFG_MIN 0 t).put F.TEN_Q_ERR_CFG_MIN 0 t
  s.setTctx t { s.tctx t with ev := [], er := [], evDrop := 0, erDrop := 0 }

/-- The context becomes ACTIVE with the next generation, its counters cleared; QSEQ starts again (R603, R607). -/
def State.tenEnable (s : State) (t : Nat) : State :=
  let s := (s.put F.TEN_CTX_STAT_STATE 1 t).put F.TEN_CTX_STAT_GEN (s.gen t + 1) t
  let s := ((s.setWord (R.TEN_CNT.at t) 0).setWord (R.TEN_CNT2.at t) 0).setWord (R.TEN_Q_DROP.at t) 0
  s.setTctx t { s.tctx t with evSeq := 0, erSeq := 0, evDrop := 0, erDrop := 0 }

/-- A write of TEN_CTX_CFG (R603, R621). ENABLED of tenant 0 reads 1 and ignores writes; a boot load makes no new generation. -/
def State.ctxCfgWrite (s : State) (w : Who) (t : Nat) (data : Word) : State :=
  let a := R.TEN_CTX_CFG.at t
  if w.tenant != 0 then s.refuseWrite w a data Res.refRights
  else
    let was := s.tstate t != 0
    s.cfgWrite w a data
      (fun x => if t != 0 && was && F.TEN_CTX_CFG_ENABLED.of x = 0 && s.tenantBusy t then Res.refConfig else Res.applied)
      (fun _ x s =>
        if t = 0 then s
        else if was && F.TEN_CTX_CFG_ENABLED.of x = 0 then s.tenRetire t
        else if !was && F.TEN_CTX_CFG_ENABLED.of x = 1 then (if w.ifc = 0 then s.put F.TEN_CTX_STAT_STATE 1 t else s.tenEnable t)
        else s)

/-- A write of TEN_CTX_CFG with ENABLED 0. -/
def execTenantRetire (p : Path) (t : Fin 256) (data : Word) (s : State) : Out :=
  .next (s.byPath p (fun w s => s.ctxCfgWrite w t.val (setBits data 31 1 0)))

/-- A write of TEN_CTX_CFG with ENABLED 1. -/
def execTenantEnable (p : Path) (t : Fin 256) (data : Word) (s : State) : Out :=
  .next (s.byPath p (fun w s => s.ctxCfgWrite w t.val (setBits data 31 1 1)))

/-- The judgement of a window under its two words (R604, R625). -/
def State.winChk (s : State) (t : Nat) (a b : Word) : Res :=
  let r := F.TEN_WIN_A_RIGHTS.of a
  let m := F.TEN_WIN_A_MAXPRIO.of a
  if F.TEN_WIN_B_LAST.of b < F.TEN_WIN_A_FIRST.of a || (r < 2 && m != 0) || (r = 2 && m < 5) || (r = 3 && (m < 1 || 4 < m))
    || s.tstate t = 0 then Res.refConfig
  else Res.applied

def State.winWrite (s : State) (w : Who) (t k a : Nat) (isB : Bool) (data : Word) : State :=
  if w.tenant != 0 then s.refuseWrite w a data Res.refRights
  else if t = 0 then s.refuseWrite w a data Res.refConfig
  else s.cfgWrite w a data (fun x => if isB then s.winChk t (s.word (R.TEN_WIN_A.at t k)) x else s.winChk t x (s.word (R.TEN_WIN_B.at t k)))

/-- The judgement of a queue's configuration (R606): MIN within MAX, and the reserve within the pool. -/
def State.qCfgChk (s : State) (old x : Word) : Res :=
  let mn := x.toNat % 65536
  let reserve := s.qReserve - old.toNat % 65536 + mn
  if x.toNat / 65536 < mn || (32768 < reserve && old.toNat % 65536 < mn) then Res.refConfig else Res.applied

/-! ### Reading and popping (R607, R609) -/

/-- The 32 bytes of an entry (R607). -/
def QEntry.bytes (e : QEntry) : List Byte :=
  (leBytes 1 e.cls ++ leBytes 1 e.block ++ leBytes 2 e.qseq ++ leBytes 4 e.time ++ leBytes 2 e.code ++ leBytes 2 0
    ++ e.fields ++ List.replicate 20 0).take 32

/-- Word k of the head entry, 0 when the queue is empty (R623). -/
def headWord (q : List QEntry) (k : Nat) : Word :=
  match q with
  | [] => 0
  | e :: _ => Word.ofN (leVal ((e.bytes.drop (4 * k)).take 4))

/-- The head leaves when its QSEQ equals the value written (R609). -/
def popHead (q : List QEntry) (n : Nat) : List QEntry :=
  match q with
  | [] => []
  | e :: t => if e.qseq = n then t else e :: t

/-- A tenant's own paths and tenant 0 may act on a context (R609). -/
def mayOwn (w : Who) (t : Nat) : Bool := w.tenant == 0 || w.tenant == t

/-- A write of TEN_EQ_POP or TEN_XQ_POP (R609); not audited, refusals aside. -/
def State.qPop (s : State) (w : Who) (t : Nat) (err : Bool) (data : Word) : State :=
  let a := if err then R.TEN_XQ_POP.at t else R.TEN_EQ_POP.at t
  if !mayOwn w t || (w.tenant != 0 && s.tstate t = 0) then s.refuseWrite w a data Res.refRights
  else
    let c := s.tctx t
    let n := data.toNat % 65536
    s.plainW Res.applied (fun s => s.setTctx t (if err then { c with er := popHead c.er n } else { c with ev := popHead c.ev n }))

def execEventQueuePop (p : Path) (t : Fin 256) (data : Word) (s : State) : Out :=
  .next (s.byPath p (fun w s => s.qPop w t.val false data))

def execErrorQueuePop (p : Path) (t : Fin 256) (data : Word) (s : State) : Out :=
  .next (s.byPath p (fun w s => s.qPop w t.val true data))

/-! ### The command queue (R611, R612) -/

/-- The command of the path's staging words (R611). -/
def Bank.cmd (b : Bank) (ifc gen : Nat) : CmdEntry :=
  { op := bitsOf b.stage0 0 8, prio := bitsOf b.stage0 8 8, notify := bitsOf b.stage0 16 1 == 1, word := bitsOf b.stage0 24 8,
    index := bitsOf b.stage1 0 16, cookie := bitsOf b.stage1 16 16, value := b.stage2, cpid := b.stage3.toNat, ifc := ifc,
    gen := gen, delayed := false }

/-- The outcome of a push: 0 PUSHED, 1 FULL, 2 NOT_ACTIVE, 3 BAD_OP (R611). -/
def State.pushOutcome (s : State) (t : Nat) (c : CmdEntry) : Nat :=
  if s.tstate t != 1 then 2 else if c.op < 1 || 6 < c.op then 3 else if s.qRoom .cmd t then 0 else 1

/-- A write of TEN_CQ_PUSH (R611): into the queue of the pushing tenant, not audited. -/
def State.cqPush (s : State) (w : Who) (data : Word) : State :=
  if data.getLsbD 0 == false then s.plainW Res.applied id
  else
    let b := s.bank w.bank
    let c := b.cmd w.ifc (s.gen w.tenant)
    let o := s.pushOutcome w.tenant c
    let s := s.setBank w.bank { b with cqRes := o }
    let x := s.tctx w.tenant
    let s := if o = 0 then (s.setTctx w.tenant { x with cq := x.cq ++ [c] }).exDelay w.tenant else s
    s.plainW (if o = 2 then Res.refRights else Res.applied) id

def execCommandPush (p : Path) (data : Word) (s : State) : Out := .next (s.byPath p (fun w s => s.cqPush w data))

/-- Tenants in the executor's order, from the one after the last served (R612). -/
def State.exOrder (s : State) : List Nat := (List.range 256).map (fun k => (s.exLast + 1 + k) % 256)

def State.throttled (s : State) (t : Nat) : Bool := t != 0 && s.bit F.TEN_CTX_STAT_THROTTLED t

/-- The tenant whose command starts next (R612, R620). -/
def State.exPick (s : State) : Option Nat :=
  s.exOrder.find? (fun t => s.tstate t == 1 && !s.throttled t && !(s.tctx t).cq.isEmpty)

/-- The executor passes over the queues of throttled tenants (R620). -/
def State.exPass (s : State) : State := s.each (s.ten.map (·.1)) (fun t s => s.exDelay t)

/-- A doorbell rings (R614): its source is set pending. -/
def State.ringDb (s : State) (d : Nat) : State := s.icSet (200 + d % 16)

/-- The register a command acts through (R566). -/
def cqAddr (t : Nat) : Nat := R.TEN_CQ_PUSH.at t

/-- INDEX and CPID lie in the range the OP uses (R612). -/
def CmdEntry.inRange (c : CmdEntry) : Bool :=
  if c.op ≤ 2 then c.index < 32768
  else if c.op = 3 then c.index < 8192 && c.word < 16
  else if c.op = 4 then c.index < 8192
  else if c.op = 5 then c.cpid < 2 ^ 25
  else c.index < 16

/-- A command decided by its path (R612): loop commands end when the engine has decided them. A REMOTE command that finds no
tag has no result code: it is free (log entry 3). -/
def State.cmdRun (s : State) (t : Nat) (c : CmdEntry) : State :=
  let w : Who := ⟨15, t, c.ifc, c.prio, true, 15⟩
  let done (s : State) (ok : Bool) := s.cmdResult t c.op c.index c.cookie s.wres c.notify ok
  let le (ask : LeAsk) : State :=
    s.lePush 0 { ask := ask, tenant := t, gen := c.gen, ifc := c.ifc, addr := cqAddr t, run := 0, data := c.value, cmd := some (c.cookie, c.op, c.notify) }
  if !c.inRange then done (s.auditW w { ttype := 3, addr := cqAddr t, new := c.value, prio := c.prio } Res.refConfig id) false
  else if c.op ≤ 2 then
    let s := s.ptWrite w c.index (if c.op = 1 then .write else .relinquish) c.prio c.value (cqAddr t)
    done s (resOk s.wres)
  else if c.op = 3 then le (.word c.index c.word c.value)
  else if c.op = 4 then le (.swap c.index (c.value.toNat % 2))
  else if c.op = 5 then
    let r := s.rwHandover t c.ifc c.gen (cqAddr t) false c.prio c.cpid c.value
    if r.2.toNat < 2 ^ 31 then r.1.cmdResult t c.op c.index c.cookie Res.applied c.notify true
    else
      let res := if r.2 = 0xC0000000 then Config.freeNat r.1.free % 16 else r.2.toNat % 16
      let s := r.1.fresh.auditW w { ttype := 0, target := c.cpid, addr := cqAddr t, new := c.value, prio := c.prio } res id
      s.cmdResult t c.op c.index c.cookie res c.notify false
  else
    let ok := t = 0 || s.get F.TEN_DB_CFG_OWNER c.index = t
    let s := s.auditW w (Tgt.reg (cqAddr t) 0 (Word.ofN c.index)) (if ok then Res.applied else Res.refRights) (fun s => if ok then s.ringDb c.index else s)
    done s (resOk s.wres)

/-- The executor starts its next command, when its OP is the one named: at most one per 1 µs (R612). A command of a former
generation is discarded unexecuted (R615). -/
def State.cmdExec (s : State) (op : Nat) : State :=
  let s := s.exPass
  match s.exPick with
  | none => s
  | some t =>
    let c := s.tctx t
    match c.cq with
    | [] => s
    | e :: r =>
      if e.op != op then s
      else
        let s := match s.exAt with | some x => s.reach (x + 1) | none => s
        let s := { s.setTctx t { c with cq := r } with exLast := t, exAt := some s.now }
        if e.gen != s.gen t then s.inc F.TEN_CNT_DISC_GEN 1 t else s.cmdRun t e

def execCmdPwrite (s : State) : Out := .next (s.cmdExec 1)
def execCmdPrel (s : State) : Out := .next (s.cmdExec 2)
def execCmdLword (s : State) : Out := .next (s.cmdExec 3)
def execCmdLswap (s : State) : Out := .next (s.cmdExec 4)
def execCmdRemote (s : State) : Out := .next (s.cmdExec 5)
def execCmdRing (s : State) : Out := .next (s.cmdExec 6)

/-- A write of TEN_DB_RING (R614): an accepted ring is not audited, a refused one is. A RETIRED tenant has no rights (R602). -/
def State.dbRing (s : State) (w : Who) (data : Word) : State :=
  let d := F.TEN_DB_RING_DB.of data
  if w.tenant = 0 || (s.get F.TEN_DB_CFG_OWNER d = w.tenant && s.tstate w.tenant != 0) then s.plainW Res.applied (fun s => s.ringDb d)
  else s.refuseWrite w (R.TEN_DB_RING.at) data Res.refRights

def execDoorbellRing (p : Path) (data : Word) (s : State) : Out := .next (s.byPath p (fun w s => s.dbRing w data))

/-! ### Tenant reset (R616 to R618) -/

/-- A reset starts: steps 1 to 5 of R617. -/
def State.tenReset (s : State) (t : Nat) : State :=
  let c := s.tctx t
  let old := if s.tstate t = 2 then c.oldGen else s.gen t
  let s := s.inc F.TEN_CNT_DISC_GEN c.cq.length t
  let s := s.setTctx t { c with cq := [], resetAt := some s.now, oldGen := old }
  let s := ((s.put F.TEN_CTX_STAT_GEN (s.gen t + 1) t).put F.TEN_CTX_STAT_STATE 2 t).put F.TEN_CTX_STAT_PEND 0 t
  let s := s.inc F.TEN_CTX_STAT_RESETS 1 t
  ((s.skTenantReset t).clTenantReset t).zbTenantReset t

/-- An accepted request (R616): it waits while the previous reset began less than 1 s ago. -/
def State.tenResetGo (s : State) (t : Nat) : State :=
  match (s.tctx t).resetAt with
  | some x => if s.now < x + 1000000 then s.put F.TEN_CTX_STAT_PEND 1 t else s.tenReset t
  | none => s.tenReset t

/-- A reset request through a register (R616). -/
def State.tenResetReq (s : State) (w : Who) (t a : Nat) (data : Word) : State :=
  if w.tenant != 0 then s.refuseWrite w a data Res.refRights
  else if t = 0 || s.tstate t = 0 then s.refuseWrite w a data Res.refConfig
  else s.auditW w (Tgt.reg a 0 data) Res.applied (fun s => s.tenResetGo t)

def execTenantResetRequest (p : Path) (t : Fin 256) (s : State) : Out :=
  .next (s.byPath p (fun w s => s.tenResetReq w t.val (R.TEN_RESET.at t.val) 1))

/-- A waiting reset starts once 1 s has passed since the last one's start (R616). -/
def execTenantResetStart (t : Fin 256) (s : State) : Out :=
  .next (if s.bit F.TEN_CTX_STAT_PEND t.val then (s.reach ((s.tctx t.val).resetAt.getD 0 + 1000000)).tenReset t.val else s)

/-- One fallback (R618). It commands no output that an engine fault holds: rank 5 of R34 stands before rank 6. -/
def State.fallback (s : State) (e : Nat) : State :=
  let i := s.get F.TEN_FB_PT_POINT e
  let t := s.ptTenant i
  let n := s.fwd.length
  let s := s.ptWrite Who.internal i .write (s.get F.TEN_FB_PT_PRIO e) (s.word (R.TEN_FB_VAL.at e)) 0
  let s := { s with fwd := s.fwd.take n ++ (s.fwd.drop n).filter (fun f => f.cls == Cls.fanQual || !s.leHolds (f.cls, f.chan)) }
  if s.wres = Res.applied then s else s.inc F.TEN_CNT2_FB_REFUSED 1 t

/-- The fallbacks of a tenant, in ascending entry order. -/
def State.fallbacks (s : State) (t : Nat) : State :=
  s.each ((s.listed R.TEN_FB_PT).filter (fun e => F.TEN_FB_PT_EN.of e.2 == 1 && s.ptTenant (F.TEN_FB_PT_POINT.of e.2) == t)) (fun e s => s.fallback e.1)

/-- Forwarding resumes: each output of the tenant's command points takes its point's present VALUE (R617). An output that
an engine fault holds takes none: rank 5 of R34 governs it, until the fault is cleared in the hold (R141). -/
def State.resume (s : State) (t : Nat) : State :=
  if !s.pdReach then s
  else
    let os := cmdOutputs.filter (fun o => s.ptTenant (s.cmdPoint o.1 o.2) == t)
    let s := { s with le := { s.le with withheld := (s.le.withheld ++ os.filter (fun o => s.leHolds o)).dedup } }
    s.sendPresent (os.filter (fun o => !s.leHolds o))

/-- The hold ends: step 6 of R617. The CODE of the TENANT_RESET entries is free (log entry 3). -/
def State.holdEnd (s : State) (t : Nat) : State :=
  let c := s.tctx t
  let s := s.reach (c.resetAt.getD 0 + 100000 * s.get F.TEN_CTX_CFG_HOLD_T t)
  let s := s.fallbacks t
  let s := s.put F.TEN_CTX_STAT_STATE 1 t
  let s := s.resume t
  let s := ((s.put F.TEN_QRC_USED_USED 0 t).put F.TEN_QLOG_USED_USED 0 t).put F.TEN_CTX_STAT_THROTTLED 0 t
  let f := leBytes 1 c.oldGen ++ leBytes 1 (s.gen t)
  let code := Config.freeNat s.free % 65536
  (s.fresh.post .evt 0 5 0x0C code f).post .evt t 5 0x0C code f

def execTenantHoldEnd (t : Fin 256) (s : State) : Out := .next (if s.tstate t.val = 2 then s.holdEnd t.val else s)

/-- A new quota window (R619, R620), once for each frame boundary with F mod 10 = 0. -/
def State.quotaWindow (s : State) : State :=
  let s := s.each ((s.listed R.TEN_QLOG_USED).map (·.1)) (fun t s => s.put F.TEN_QLOG_USED_USED 0 t)
  let s := s.each ((s.listed R.TEN_QRC_USED).map (·.1)) (fun t s => s.put F.TEN_QRC_USED_USED (s.get F.TEN_QRC_USED_USED t - s.get F.TEN_QRC_LIMIT t) t)
  s.each ((s.listed R.TEN_CTX_STAT).map (·.1)) (fun t s => s.put F.TEN_CTX_STAT_THROTTLED 0 t)

def execQuotaWindow (s : State) : Out :=
  .next (if s.le.windowDue then { s.quotaWindow with le := { s.le with windowDue := false } } else s)

/-! ### Registers (R621 to R630) -/

/-- The context an address of the TEN contexts lies in, and the offset in it. -/
def tenCtxOf (a : Nat) : Nat × Nat := ((a - 0x20000) / 0x400, (a - 0x20000) % 0x400)

/-- The words of the TEN registers that follow other state, for a path's bank. -/
def State.tenWord (s : State) (bank a : Nat) : Word :=
  if 0x60000 ≤ a then
    if a = R.TEN_POOL.at then Word.ofN (s.qShared + 65536 * s.qReserve) else s.word a
  else
    let (t, o) := tenCtxOf a
    let c := s.tctx t
    if a = R.TEN_CTX_CFG.at t && t = 0 then s.word a ||| 0x80000000
    else if a = R.TEN_CTX_STAT.at t && t = 0 then setBits (s.word a) 30 2 1
    else if a = R.TEN_Q_CMD_STAT.at t then setBits (s.word a) 0 16 c.cq.length
    else if a = R.TEN_Q_EVT_STAT.at t then setBits (s.word a) 0 16 c.ev.length
    else if a = R.TEN_Q_ERR_STAT.at t then setBits (s.word a) 0 16 c.er.length
    else if 0x40 ≤ o && o < 0x60 then headWord c.ev ((o - 0x40) / 4)
    else if 0x60 ≤ o && o < 0x80 then headWord c.er ((o - 0x60) / 4)
    else if o = 0xA0 then (s.bank bank).stage0
    else if o = 0xA4 then (s.bank bank).stage1
    else if o = 0xA8 then (s.bank bank).stage2
    else if o = 0xAC then (s.bank bank).stage3
    else if a = R.TEN_CQ_RES.at t then Word.ofN (s.bank bank).cqRes
    else if a = R.TEN_QLOOP.at t then setBits (s.word a) 16 14 (s.loopsUsed t)
    else if a = R.TEN_QSUB_USED.at t then Word.ofN (s.subInUsed t + 65536 * s.subOutUsed t)
    else s.word a

/-- A tenant may read a TEN register (chapter "TEN registers"). -/
def tenMayRead (t a : Nat) : Bool := t == 0 || (a < 0x60000 && (tenCtxOf a).1 == t)

/-- THROTTLED follows the LOG use and its limit, also when the limit changes (R620). -/
def State.throttleJudge (s : State) (t : Nat) : State :=
  if t = 0 then s else (s.put F.TEN_CTX_STAT_THROTTLED (b2n (s.get F.TEN_QLOG_LIMIT t ≤ s.get F.TEN_QLOG_USED_USED t)) t).exDelay t

/-- A write of a TEN context register. -/
def State.tenCtxWrite (s : State) (w : Who) (a : Nat) (data : Word) : State :=
  let (t, o) := tenCtxOf a
  let own := mayOwn w t && (w.tenant == 0 || s.tstate t != 0)
  let stage (f : Bank → Bank) : State := if own then s.plainW Res.applied (fun s => s.setBank w.bank (f (s.bank w.bank))) else s.refuseWrite w a data Res.refRights
  if a = R.TEN_EQ_POP.at t then s.qPop w t false data
  else if a = R.TEN_XQ_POP.at t then s.qPop w t true data
  else if o = 0xA0 then stage (fun b => { b with stage0 := data })
  else if o = 0xA4 then stage (fun b => { b with stage1 := data })
  else if o = 0xA8 then stage (fun b => { b with stage2 := data })
  else if o = 0xAC then stage (fun b => { b with stage3 := data })
  else if a = R.TEN_CQ_PUSH.at t then (if mayOwn w t then s.cqPush w data else s.refuseWrite w a data Res.refRights)
  else if a = R.TEN_CTX_IEN.at t then (if own then s.cfgWrite w a data else s.refuseWrite w a data Res.refRights)
  else if w.tenant != 0 then s.refuseWrite w a data Res.refRights
  else if a = R.TEN_CTX_CFG.at t then s.ctxCfgWrite w t data
  else if a = R.TEN_RESET.at t then (if data.getLsbD 0 then s.tenResetReq w t a data else s.plainW Res.applied id)
  else if R.TEN_WIN_A.hit a then s.winWrite w t (R.TEN_WIN_A.idx2 a) a false data
  else if R.TEN_WIN_B.hit a then s.winWrite w t (R.TEN_WIN_B.idx2 a) a true data
  else if a = R.TEN_QLOG.at t then s.cfgWrite w a data (fun _ => Res.applied) (fun _ _ s => s.throttleJudge t)
  else if a = R.TEN_Q_CMD_CFG.at t || a = R.TEN_Q_EVT_CFG.at t || a = R.TEN_Q_ERR_CFG.at t then s.cfgWrite w a data (s.qCfgChk (s.word a))
  else s.kindWrite w a data

/-- The judgement of a fallback entry's word (R618, R630). -/
def fbChk (x : Word) : Res := if F.TEN_FB_PT_EN.of x = 1 && F.TEN_FB_PT_PRIO.of x = 0 then Res.refConfig else Res.applied

/-- A write of a TEN register. -/
def State.tenWrite (s : State) (w : Who) (a : Nat) (data : Word) : State :=
  if a < 0x60000 then s.tenCtxWrite w a data
  else if a = R.TEN_DB_RING.at then s.dbRing w data
  else if w.tenant != 0 then s.refuseWrite w a data Res.refRights
  else if R.TEN_FB_PT.hit a then s.cfgWrite w a data fbChk
  else if R.TEN_FB_VAL.hit a then s.cfgWrite w a data (fun x => if fFinite x then Res.applied else Res.refValue)
  else s.kindWrite w a data

end Sys2Proof.Machine
end

