-- ==== Sys2Proof/Machine/Intc.lean ====
section
/-! DEFINITION. The interrupt controller (chapter "Interrupt controller"): line levels, eligibility, offers, claims and
completions. Pending bits stand in Ops. -/

namespace Sys2Proof.Machine

/-! ### Lines (R631, R632) -/

/-- The bits two registers have in common are not all 0. -/
def State.anyBit (s : State) (evt ien : Reg) (i : Nat) : Bool := s.word (evt.at i) &&& s.word (ien.at i) != 0

/-- Bit b of the two registers is 1. -/
def State.bothBit (s : State) (evt ien : Reg) (b : Nat) : Bool := (s.word (evt.at) &&& s.word (ien.at)).getLsbD b

/-- The line of a host lane (R610). -/
def State.laneLine (s : State) (n : Nat) : Bool :=
  let t := s.get F.HB_LANE_CFG_TENANT n
  s.bit F.HB_LANE_CFG_EN n &&
    ((!(s.tctx t).ev.isEmpty && s.bit F.TEN_CTX_IEN_EQ t) || (!(s.tctx t).er.isEmpty && s.bit F.TEN_CTX_IEN_XQ t))

/-- The level of a LINE source's line, as each block's chapter gives it. -/
def State.lineLevel (s : State) (n : Nat) : Bool :=
  if n < 32 then s.anyBit R.CD_EVT R.CD_IEN n && !(n % 2 == 1 && s.cdPaired n)
  else if n < 64 then
    s.anyBit R.FAN_EVT R.FAN_IEN (n - 32) || ((n - 32) % 8 == 0 && s.anyBit R.FAN_GEVT R.FAN_GIEN ((n - 32) / 8))
  else if n < 68 then s.anyBit R.ADC_EVT R.ADC_IEN (n - 64)
  else if n < 72 then s.anyBit R.ADC_FLT R.ADC_FIEN (n - 68)
  else if n < 88 then s.anyBit R.ZB_EVT R.ZB_IEN (n - 72)
  else if n < 95 then s.bothBit R.CL_EVT R.CL_IEN (n - 88)
  else if n = 95 then s.anyBit R.CL_FORM_EVT R.CL_FORM_IEN 0
  else if n < 104 then s.bothBit R.LOG_EVT R.LOG_IEN (n - 96)
  else if n < 112 then false
  else if n < 120 then s.bothBit R.PNL_EVT R.PNL_IEN (n - 112)
  else if n < 124 then s.laneLine (n - 120)
  else if n = 127 then s.bit F.SYS_UNMAPPED_VALID
  else if 128 ≤ n && n < 192 then s.anyBit R.DI_EVT R.DI_IEN (n - 128)
  else false

/-- The source's block lies on the power die: its line keeps its last value while the link is lost (R631). -/
def srcPower (n : Nat) : Bool := n < 72 || (128 ≤ n && n < 192)

/-- A source's filter has accepted the level its line has (R632, R633). -/
def State.icLine (s : State) (n : Nat) : State :=
  if srcKind n != .line || (srcPower n && !s.linkUp) then s
  else
    let v := s.lineLevel n
    s.icUpd n (fun c => { c with line := bvSet c.line n v })

/-- CK_SYS cycles from one sample of a source's filter to the next (R632). -/
def State.icPeriod (s : State) (n : Nat) : Nat := if s.bit F.IC_SRC_CFG_PRESC n then 16 else 1

/-- The count of a change of a line (R632), dropped or set. -/
def State.icCount (s : State) (n : Nat) (c : Option (Nat × Nat)) : State :=
  { s with ic := { s.ic with counts := match c with | some x => Tab.put n x s.ic.counts | none => Tab.del n s.ic.counts } }

/-- A source's filter samples its line for so many more CK_SYS cycles (R632): a level that is not the accepted one counts, and is
accepted at the last of FILT + 1 samples; one that is the accepted level ends the count. Since a count began, the first sample
falls a whole period later (log entry 141). -/
def State.icFilter (s : State) (n cycles : Nat) : State :=
  if srcKind n != .line || (srcPower n && !s.linkUp) then s
  else if s.lineLevel n = s.ic.line.getLsbD n then s.icCount n none
  else
    let c := (s.ic.counts.lookup n).getD (0, 0)
    let p := s.icPeriod n
    let m := c.1 + (c.2 + cycles) / p
    if s.get F.IC_SRC_CFG_FILT n < m then (s.icLine n).icCount n none else s.icCount n (some (m, (c.2 + cycles) % p))

/-- The filter accepts a level at the last of FILT + 1 samples that read it (R632). -/
def execIcLineChange (n : Fin 256) (cycles : Nat) (s : State) : Out := .next (s.icFilter n.val cycles)

/-- LINE sources. -/
def lineSources : List Nat := (List.range 256).filter (fun n => srcKind n == .line)

/-- The load of the image completes: a source whose line is 1 becomes pending (R646). -/
def State.icLoad (s : State) : State := s.each lineSources (fun n s => (s.icLine n).icCount n none)

/-- The link is up: the lines from the power die take their present value (R631). A filter of length 0 accepts it at once (R632),
a longer one counts it from here. -/
def State.icLinkUp (s : State) : State := s.each (lineSources.filter srcPower) (fun n s => s.icFilter n (s.icPeriod n))

/-- Events of a crossing group have merged (R719). -/
def State.crossMerge (s : State) (g n : Nat) : State :=
  let a := R.SYS_XOVR.at
  ((s.setWord a (s.word a ||| (1#32 <<< g))).inc F.SYS_XCNT_MERGED n).icPulse 126

/-- A pulse of an EVENT source; on its way it may have merged with another event at the crossing of a group. -/
def execIcEventPulse (n : Fin 256) (merged : Option (Fin 11)) (s : State) : Out :=
  .next (if srcKind n.val = .event then
      match merged with
      | none => s.icPulse n.val
      | some g => (s.icPulse n.val).crossMerge g.val 1
    else s)

/-! ### Offers (R637, R638) -/

def State.icPrio (s : State) (n : Nat) : Nat := s.get F.IC_SRC_CFG_PRIO n

/-- An enabled EVENT task of the core names the source (R218, R637). -/
def State.eventTasks (s : State) (k n : Nat) : List Nat :=
  ((s.skTasks 1 (fun k' t => k' == k && s.get F.SK_TASK_TRIG_ARG k' t % 256 == n)).map (·.2))

def State.eligible (s : State) (n t : Nat) : Bool :=
  s.ic.pendOf n && s.ic.en.getLsbD n && (s.get F.IC_SRC_CFG_TMASK n).testBit t
    && s.get F.IC_TGT_CTRL_THRESH t ≤ s.icPrio n && s.bit F.IC_TGT_CTRL_EN t
    && (t == 0 || 3 < t || !(s.eventTasks t n).isEmpty)

/-- The best eligible source of a target: the highest PRIO, then the lowest ID. -/
def State.icBest (s : State) (t : Nat) : Option Nat :=
  ((List.range 256).filter (fun n => s.eligible n t)).foldl (fun b n =>
    match b with
    | none => some n
    | some x => if s.icPrio x < s.icPrio n then some n else some x) none

def State.offer (s : State) (t : Nat) : Option Offer := s.ic.offers.getD t none

def State.setOffer (s : State) (t : Nat) (o : Option Offer) : State := { s with ic := { s.ic with offers := putAt none s.ic.offers t o } }

/-- A target's output while it holds an offer (R638): the interrupt that SK0 takes, and HIRQn_N low for target 4 + n once the host
side has left reset with a host port (R653, R654, R790). -/
def State.targetOut (s : State) (t : Nat) : Bool := (s.offer t).isSome
def State.pinHirqLow (s : State) (n : Nat) : Bool :=
  s.targetOut (4 + n) && s.bit F.HB_HSTAT_READY && (s.get F.SYS_STRAPS_HOSTMODE == 1 || s.get F.SYS_STRAPS_HOSTMODE == 2)

/-- The evaluation of a target's offer (R638). -/
def State.icLatch (s : State) (t : Nat) : State :=
  match s.offer t, s.icBest t with
  | none, some n => s.setOffer t (some ⟨n, false⟩)
  | some o, some n => if s.eligible o.src t && s.icPrio o.src < s.icPrio n then s.setOffer t (some ⟨n, false⟩) else s
  | _, none => s

def execIcOfferLatch (t : Fin 8) (s : State) : Out := .next (s.icLatch t.val)

/-! ### Claims and completions (R639 to R643) -/

/-- The source passes to target t: PEND and SWP cleared, ACTIVE set; the other targets' offers of it are taken. -/
def State.icTake (s : State) (n t : Nat) : State :=
  let s := s.icUpd n (fun c => { c with
    pend := bvSet c.pend n false, swp := bvSet c.swp n false, active := bvSet c.active n true, owner := Tab.put n t c.owner })
  let offers := s.ic.offers.map (fun o => match o with
    | some x => if x.src = n then some { x with taken := true } else some x
    | none => none)
  { s with ic := { s.ic with offers := putAt none offers t none } }

/-- A claim of target t: the code, and what it does (R639). -/
def State.icClaim (s : State) (t : Nat) : State × Nat :=
  match s.offer t with
  | none => (s, 0x3FC)
  | some o =>
    if s.eligible o.src t then (s.icTake o.src t, o.src)
    else if o.taken then ((s.setOffer t none).inc F.IC_TGT_CNT_TAKEN 1 t, 0x3FE)
    else ((s.setOffer t none).inc F.IC_TGT_CNT_WITHDRAWN 1 t, 0x3FF)

/-- The tenant of host lane n uses the window of target 4 + n, while the lane is enabled (R666) and the tenant not RETIRED (R602);
tenant 0 uses all (R647). -/
def State.icMay (s : State) (w : Who) (t : Nat) : Bool :=
  w.tenant == 0 ||
    (4 ≤ t && s.bit F.HB_LANE_CFG_EN (t - 4) && s.get F.HB_LANE_CFG_TENANT (t - 4) == w.tenant && s.tstate w.tenant != 0)

/-- A read of IC_TGT_CLAIM (R639, R643, R647). -/
def State.icClaimRead (s : State) (w : Who) (t : Nat) : State :=
  if !s.icMay w t then { s with rdata := 0 }
  else if 1 ≤ t && t ≤ 3 then { s with rdata := 0x3FC }
  else let r := s.icClaim t; { r.1 with rdata := Word.ofN r.2 }

def execIcClaim (p : Path) (t : Fin 8) (s : State) : Out := .next (s.byPath p (fun w s => s.icClaimRead w t.val))

/-- A write of IC_TGT_COMPLETE (R642, R643, R647); not audited, refusals aside. -/
def State.icComplete (s : State) (w : Who) (t : Nat) (data : Word) : State :=
  let n := F.IC_TGT_COMPLETE_SRC.of data
  if !s.icMay w t then s.refuseWrite w (R.IC_TGT_COMPLETE.at t) data Res.refRights
  else if !(1 ≤ t && t ≤ 3) && s.ic.active.getLsbD n && s.ic.owner.lookup n = some t then s.plainW Res.applied (fun s => s.icRelease n)
  else s.plainW Res.applied (fun s => s.inc F.IC_CNT_BAD_COMPLETE)

def execIcComplete (p : Path) (t : Fin 8) (data : Word) (s : State) : Out := .next (s.byPath p (fun w s => s.icComplete w t.val data))

/-- The dispatcher of SK1 to SK3 claims its offer (R643). -/
def State.dispClaim (s : State) (k : Nat) : State :=
  if k = 0 || 3 < k || (s.offer k).isNone then s
  else
    let r := s.icClaim k
    if 256 ≤ r.2 then r.1
    else
      let s := r.1
      let ts := s.eventTasks k r.2
      if ts.isEmpty then s.icRelease r.2
      else
        let c := s.core k
        (s.setCore k { c with claimed := r.2 :: c.claimed }).each ts (fun t s => s.skActivate k t r.2)

def execDispatcherClaim (k : Fin 4) (s : State) : Out := .next (s.dispClaim k.val)

/-- SK0 takes an interrupt while its target holds an offer and no handler runs (R216). -/
def execSk0InterruptTake (s : State) : Out :=
  .next (if s.targetOut 0 && !(s.core 0).inHandler && (s.core 0).started then s.sk0Trap else s)

/-! ### Registers (R647 to R652) -/

/-- Bits 32k to 32k + 31 of a source array. -/
def bvWord (b : BitVec 256) (k : Nat) : Word := Word.ofN (b.toNat >>> (32 * k))

/-- PEND of the 32 sources of word k. -/
def IcState.pendWord (c : IcState) (k : Nat) : Word :=
  (List.range 32).foldl (fun x i => if c.pendOf (32 * k + i) then x ||| Word.ofN (2 ^ i) else x) 0

/-- A write of a set or clear address of word k: each named source in turn. -/
def State.icBits (s : State) (k : Nat) (data : Word) (f : Nat → State → State) : State :=
  s.each ((List.range 32).filter (fun i => data.getLsbD i)) (fun i s => f (32 * k + i) s)

def State.icEn (s : State) (v : Bool) (n : Nat) : State := { s with ic := { s.ic with en := bvSet s.ic.en n v } }

def State.icPendWrite (s : State) (w : Who) (k : Nat) (set : Bool) (data : Word) : State :=
  let a := if set then R.IC_PEND_SET.at k else R.IC_PEND_CLR.at k
  if w.tenant != 0 then s.refuseWrite w a data Res.refRights
  else s.plainW Res.applied (fun s => s.icBits k data (fun n s => if set then s.icSet n else s.icClr n))

/-- A write of IC_EN_SET or IC_EN_CLR: audited (R647), but a write of 0 has no effect and leaves no record (R14, R18). -/
def State.icEnWrite (s : State) (w : Who) (k : Nat) (v : Bool) (data : Word) : State :=
  let a := if v then R.IC_EN_SET.at k else R.IC_EN_CLR.at k
  if data = 0 then s.plainW (if w.tenant = 0 then Res.applied else Res.refRights) id
  else if w.tenant != 0 then s.auditW w (Tgt.reg a (bvWord s.ic.en k) data) Res.refRights id
  else s.auditW w (Tgt.reg a (bvWord s.ic.en k) data) Res.applied (fun s => s.icBits k data (fun n s => s.icEn v n))

def execIcPendSet (p : Path) (k : Fin 8) (data : Word) (s : State) : Out := .next (s.byPath p (fun w s => s.icPendWrite w k.val true data))
def execIcPendClr (p : Path) (k : Fin 8) (data : Word) (s : State) : Out := .next (s.byPath p (fun w s => s.icPendWrite w k.val false data))
def execIcEnSet (p : Path) (k : Fin 8) (data : Word) (s : State) : Out := .next (s.byPath p (fun w s => s.icEnWrite w k.val true data))
def execIcEnClr (p : Path) (k : Fin 8) (data : Word) (s : State) : Out := .next (s.byPath p (fun w s => s.icEnWrite w k.val false data))

/-- IC_TGT_OFFER of a target (R650). -/
def State.offerWord (s : State) (t : Nat) : Word :=
  match s.offer t with
  | some o => Word.ofN (2 ^ 31 + 2 ^ 16 * s.icPrio o.src + o.src)
  | none => 0

/-- The words of the IC registers that follow other state. -/
def State.icWord (s : State) (a : Nat) : Word :=
  if R.IC_EN.hit a then bvWord s.ic.en (R.IC_EN.idx a)
  else if R.IC_EN_SET.hit a then bvWord s.ic.en (R.IC_EN_SET.idx a)
  else if R.IC_EN_CLR.hit a then bvWord s.ic.en (R.IC_EN_CLR.idx a)
  else if R.IC_PEND.hit a then s.ic.pendWord (R.IC_PEND.idx a)
  else if R.IC_PEND_SET.hit a then s.ic.pendWord (R.IC_PEND_SET.idx a)
  else if R.IC_PEND_CLR.hit a then s.ic.pendWord (R.IC_PEND_CLR.idx a)
  else if R.IC_LINE.hit a then bvWord s.ic.line (R.IC_LINE.idx a)
  else if R.IC_ACTIVE.hit a then bvWord s.ic.active (R.IC_ACTIVE.idx a)
  else if R.IC_TGT_OFFER.hit a then s.offerWord (R.IC_TGT_OFFER.idx a)
  else if R.IC_TGT_CLAIM.hit a then 0x3FC
  else s.word a

/-- A tenant may read an IC register (R647). -/
def State.icMayRead (s : State) (w : Who) (a : Nat) : Bool :=
  w.tenant == 0 || (0x11000 ≤ a && a < 0x11200 && s.icMay w ((a - 0x11000) / 0x40))

/-- A write of an IC register. One of FILT or PRESC has a change that is being counted judged afresh (R632). -/
def State.icWrite (s : State) (w : Who) (a : Nat) (data : Word) : State :=
  if R.IC_TGT_COMPLETE.hit a then s.icComplete w (R.IC_TGT_COMPLETE.idx a) data
  else if R.IC_EN_SET.hit a then s.icEnWrite w (R.IC_EN_SET.idx a) true data
  else if R.IC_EN_CLR.hit a then s.icEnWrite w (R.IC_EN_CLR.idx a) false data
  else if R.IC_PEND_SET.hit a then s.icPendWrite w (R.IC_PEND_SET.idx a) true data
  else if R.IC_PEND_CLR.hit a then s.icPendWrite w (R.IC_PEND_CLR.idx a) false data
  else if w.tenant != 0 then s.refuseWrite w a data Res.refRights
  else if R.IC_SRC_CFG.hit a then s.cfgWrite w a data (fun _ => Res.applied) (fun _ _ s => s.icCount (R.IC_SRC_CFG.idx a) none)
  else s.kindWrite w a data

end Sys2Proof.Machine
end

