-- ==== Sys2Proof/Machine/Panel.lean ====
section
/-! DEFINITION. Service panel, keypad and encoders (chapter of that name): frame memory and scanout, power sequences, VCOM,
blink, crack loop, keys, encoders, access levels and panel writes. -/

namespace Sys2Proof.Machine

def State.setPnl (s : State) (x : PnlState) : State := { s with pnl := x }

/-- PSTATE codes of R771. -/
def Ps.off : Nat := 0
def Ps.up : Nat := 1
def Ps.on : Nat := 2
def Ps.down : Nat := 3

def State.pstate (s : State) : Nat := s.get F.PNL_STAT_PSTATE

/-- The timing runs: from step 3 of power-up to step 3 of power-down (R756). -/
def State.pnlTiming (s : State) : Bool :=
  s.pstate == Ps.on || (s.pstate == Ps.up && 3 ≤ s.pnl.step) || (s.pstate == Ps.down && s.pnl.step < 3)

/-- Pixel clocks of a line, and lines of a frame (R749). PNL_VTIM holds VFP, VSW and VBP where PNL_HTIM holds HFP, HSW and HBP. -/
def State.lineClocks (s : State) : Nat :=
  s.get F.PNL_HTIM_HSW + s.get F.PNL_HTIM_HBP + s.get F.PNL_SIZE_HACT + s.get F.PNL_HTIM_HFP
def State.frameLines (s : State) : Nat :=
  s.get F.PNL_VTIM_HSW + s.get F.PNL_VTIM_HBP + s.get F.PNL_SIZE_VACT + s.get F.PNL_VTIM_HFP

/-- When n lines have passed since the timing started: CK_PIX runs at FREQ × 100 kHz (R749). -/
def State.linesEnd (s : State) (n : Nat) : Nat :=
  let f := s.get F.PNL_CLK_FREQ
  s.pnl.timingAt + (10 * n * s.lineClocks + f - 1) / f

/-- The present line of the frame, counted from 0 at the first line of VSYNC (R754, R771); 0 while the timing is stopped. -/
def State.pnlLine (s : State) : Nat :=
  if s.pnlTiming then (s.now - s.pnl.timingAt) * s.get F.PNL_CLK_FREQ / 10 / s.lineClocks % s.frameLines else 0

/-! ### VSYNC edges (R754, R755, R757) -/

/-- One rectangle at a VSYNC edge (R757): a waiting commit takes effect with c = 0, else c runs on. -/
def State.blinkVsync (s : State) (k : Nat) : State :=
  let b := s.pnl.blinks.getD k {}
  let b' : Blink :=
    match b.next with
    | some (xy0, xy1, color, ctrl) => ⟨xy0, xy1, color, ctrl, 0, none⟩
    | none => { b with c := if b.c + 1 < F.PNL_BLK_CTRL_PERIOD.of b.ctrl then b.c + 1 else 0 }
  s.setPnl { s.pnl with blinks := putAt {} s.pnl.blinks k b' }

/-- The target of the applied DC code: DEF without the table, and until the first valid reading (R755). -/
def State.vcomTarget (s : State) : Nat :=
  if s.bit F.PNL_VCOM_CFG_TEN && s.pnl.read then s.pnl.target else s.get F.PNL_VCOM_CFG_DEF

/-- The frame ends and the next begins: INV (R754), the VCOM code (R755) and the blinks (R757) move on. -/
def State.vsync (s : State) : State :=
  let v := s.get F.PNL_STAT_VCOM
  let g := s.vcomTarget
  let s := s.put F.PNL_STAT_VCOM (if v < g then v + 1 else if g < v then v - 1 else v)
  let s := s.setPnl { s.pnl with
    frames := s.pnl.frames + 1
    edge := false
    stepFrames := s.pnl.stepFrames + 1
    inv := s.get F.PNL_CTRL_INV }
  s.each (List.range 8) (fun k s => s.blinkVsync k)

/-- When the VSYNC edge that ends the present frame comes. -/
def State.vsyncAt (s : State) : Nat := s.linesEnd ((s.pnl.frames + 1) * s.frameLines)

/-- The VSYNC edge after the last active line, once its time has come. -/
def State.pnlNow (s : State) : State := if s.pnlTiming && s.pnl.edge && s.vsyncAt ≤ s.now then s.vsync else s

/-! ### Pins (R748, R749, R756) -/

/-- Lines before the first active one, and clocks before the first active pixel. -/
def State.firstLine (s : State) : Nat := s.get F.PNL_VTIM_HSW + s.get F.PNL_VTIM_HBP
def State.firstPixel (s : State) : Nat := s.get F.PNL_HTIM_HSW + s.get F.PNL_HTIM_HBP

/-- PNL_PCLK in the first or second half of a pixel clock, at whose beginning the data change (R749): on its falling edge, or with
PEDGE 1 on its rising one. A stopped timing leaves every timing and data pin low (log entry 159). -/
def State.pinPclk (s : State) (second : Bool) : Bool := s.pnlTiming && (s.bit F.PNL_SYNC_PEDGE != second)

/-- A timing pin: at its active level or the other while the timing runs. -/
def State.pinTiming (s : State) (pol : Fld) (active : Bool) : Bool := s.pnlTiming && (s.bit pol == active)

/-- PNL_HSYNC, PNL_VSYNC and PNL_DE on line l of the frame in pixel clock c of the line (R749). -/
def State.pinHsync (s : State) (c : Nat) : Bool := s.pinTiming F.PNL_SYNC_HS_POL (c < s.get F.PNL_HTIM_HSW)
def State.pinVsync (s : State) (l : Nat) : Bool := s.pinTiming F.PNL_SYNC_VS_POL (l < s.get F.PNL_VTIM_HSW)
def State.pinDe (s : State) (l c : Nat) : Bool :=
  s.pinTiming F.PNL_SYNC_DE_POL (s.firstLine ≤ l && l < s.firstLine + s.get F.PNL_SIZE_VACT
    && s.firstPixel ≤ c && c < s.firstPixel + s.get F.PNL_SIZE_HACT)

/-- KEY_COLc is pulled low: the columns take turns of COLT µs (R761). None is while COLT is 0, as in reset (R748). -/
def State.pinKeyCol (s : State) (c : Nat) : Bool :=
  let t := s.get F.PNL_KEY_CFG_COLT
  t != 0 && (s.now - s.pnl.scanAt) / t % 8 == c

/-- CRACK_A sources its current; it is at high impedance otherwise (R748, R758). -/
def State.pinCrack (s : State) : Bool := s.bit F.PNL_CRK_CFG_EN

def State.pinPwrEn (s : State) : Bool := s.pstate != Ps.off
def State.pinVglEn (s : State) : Bool := s.pstate == Ps.on || (s.pstate == Ps.up && 1 ≤ s.pnl.step) || (s.pstate == Ps.down && s.pnl.step < 3)
def State.pinVghEn (s : State) : Bool := s.pstate == Ps.on || (s.pstate == Ps.up && 2 ≤ s.pnl.step) || (s.pstate == Ps.down && s.pnl.step < 1)
def State.pinDisp (s : State) : Bool := s.pstate == Ps.on || (s.pstate == Ps.up && 4 ≤ s.pnl.step)
/-- Backlight duty in 1/1,023. -/
def State.pinBl (s : State) : Nat := if s.pstate = Ps.on then s.get F.PNL_BL_DUTY else 0
/-- PNL_POL on line l (R754). -/
def State.pinPol (s : State) (l : Nat) : Bool :=
  let s := s.pnlNow
  s.pnlTiming && ((s.pnl.inv == 1 && s.pnl.frames % 2 == 1) || (2 ≤ s.pnl.inv && (s.pnl.frames + l) % 2 == 1))
/-- The VCOM code on line l (R754). -/
def State.pinVcom (s : State) (l : Nat) : Nat :=
  let s := s.pnlNow
  let dc := s.get F.PNL_STAT_VCOM
  let h := s.get F.PNL_SWING_SWING / 2
  if !s.pnlTiming then 0
  else if s.pnl.inv = 2 then (if s.pinPol l then Nat.min (dc + h) 1023 else dc - h)
  else dc

/-! ### Frame memory and scanout (R750, R757) -/

/-- The address of pixel (x, y) of a frame at BASE. -/
def State.pixAddr (s : State) (base x y : Nat) : Nat := 0x300000 + 1024 * base + 2 * (y * s.get F.PNL_SIZE_HACT + x)

/-- The stored pixel. -/
def State.pixMem (s : State) (x y : Nat) : Nat :=
  let a := s.pixAddr s.pnl.base x y
  bitsOf (s.word (a / 4 * 4)) (8 * (a % 4)) 16

/-- What a blink rectangle makes of a pixel. -/
def Blink.act (b : Blink) (x y p : Nat) : Nat :=
  let inside := F.PNL_BLK_XY0_X.of b.xy0 ≤ x && x ≤ F.PNL_BLK_XY1_X.of b.xy1 && F.PNL_BLK_XY0_Y.of b.xy0 ≤ y && y ≤ F.PNL_BLK_XY1_Y.of b.xy1
  let m := F.PNL_BLK_CTRL_MODE.of b.ctrl
  if !inside || F.PNL_BLK_CTRL_ON.of b.ctrl ≤ b.c then p
  else if m = 1 then p ^^^ 0xFFFF
  else if m = 2 then F.PNL_BLK_COLOR_COLOR.of b.color
  else p

/-- The pixel sent: blank before step 4 of power-up, DCOLOR in power-down (R756), else the frame with its blinks. -/
def State.pixel (s : State) (x y : Nat) : Nat :=
  if s.pstate = Ps.up && s.pnl.step < 4 then 0
  else if s.pstate = Ps.down then s.get F.PNL_PSEQ2_DCOLOR
  else s.pnl.blinks.foldl (fun p b => b.act x y p) (s.pixMem x y)

/-- A colour of five bits widened to six by appending its top bit (R750). -/
def widen5 (c : Nat) : Nat := 2 * c + c / 16

/-- PNL_RED, PNL_GRN and PNL_BLU for pixel (x, y) (R750); low while the timing is stopped. -/
def State.pinRgb (s : State) (x y : Nat) : Nat × Nat × Nat :=
  let p := if s.pnlTiming then s.pnlNow.pixel x y else 0
  (widen5 (p / 2048 % 32), p / 32 % 64, widen5 (p % 32))

/-- The frame fits the frame memory. -/
def frameFits (fb size : Word) : Bool :=
  1024 * F.PNL_FB_BASE.of fb + 2 * (F.PNL_SIZE_HACT.of size * F.PNL_SIZE_VACT.of size) ≤ 0xC0000

/-- The last active line of a frame ends (R749, R751): vertical blanking starts, until the first active line of the next frame, which
takes BASE as it then stands (R750). -/
def State.frameEnd (s : State) : State :=
  if !s.pnlTiming then s
  else
    let s := if s.pnl.edge then (s.reach s.vsyncAt).vsync else s
    let s := s.reach (s.linesEnd (s.pnl.frames * s.frameLines + (s.frameLines - s.get F.PNL_VTIM_HFP)))
    let s := s.put F.PNL_EVT_FRAME 1
    s.setPnl { s.pnl with edge := true, base := s.get F.PNL_FB_BASE }

/-- No active line lies between now and the last VSYNC edge, or none will until the next: a BASE written now is taken (R750). -/
def State.inBlanking (s : State) : Bool :=
  s.pnl.edge || s.now < s.linesEnd (s.pnl.frames * s.frameLines + s.firstLine)

def execPnlFrameEnd (s : State) : Out := .next s.frameEnd

/-- A line repeats the one before it (R751). -/
def State.underrun (s : State) : State :=
  if !s.pnlTiming then s
  else
    let s := (s.inc F.PNL_CNT_UNDERRUN).put F.PNL_EVT_UNDERRUN 1
    let due := match s.pnl.underAt with | some t => decide (t + 1000000 ≤ s.now) | none => true
    if due then (s.setPnl { s.pnl with underAt := some s.now }).postErr 0 0x0E F.PNL_EVT_UNDERRUN.lo [] else s

def execPnlUnderrun (s : State) : Out := .next s.underrun

/-! ### VCOM (R755) -/

def State.vtTemp (s : State) (i : Nat) : Word := fOfRat (toSigned 16 (s.get F.PNL_VT_TEMP i)) 10
def State.vtCode (s : State) (i : Nat) : Word := fOfNat (s.get F.PNL_VT_CODE i)

/-- The largest index below i with its temperature at or below x. -/
def State.vtIdx (s : State) (x : Word) : Nat → Nat
  | 0 => 0
  | i + 1 => if fLe (s.vtTemp i) x then i else s.vtIdx x i

/-- The nearest number to a value that is not negative, halves rounded up. -/
def fNearUp (x : Word) : Nat := (fCut (fMul 0x40000000 x).val 1 1 + 1).toNat / 2

/-- The target code for a temperature. -/
def State.vtTarget (s : State) (x : Word) : Nat :=
  if fLt x (s.vtTemp 0) then s.get F.PNL_VT_CODE 0
  else if fLe (s.vtTemp 7) x then s.get F.PNL_VT_CODE 7
  else
    let i := s.vtIdx x 8
    Nat.min (fNearUp (fAdd (s.vtCode i) (fDiv (fMul (fSub (s.vtCode (i + 1)) (s.vtCode i)).val (fSub x (s.vtTemp i)).val).val
      (fSub (s.vtTemp (i + 1)) (s.vtTemp i)).val).val).val) 1023

/-- The update, once per second. -/
def State.vcomUpdate (s : State) : State :=
  let s := s.reach (s.pnl.vcomAt + 1000000)
  let s := s.setPnl { s.pnl with vcomAt := s.now }
  let i := s.get F.PNL_VCOM_CFG_TPT
  if !s.bit F.PNL_VCOM_CFG_TEN then s.setPnl { s.pnl with target := s.get F.PNL_VCOM_CFG_DEF }
  else if qualLive (s.ptQual i) then
    (s.put F.PNL_STAT_VT_HOLD 0).setPnl { s.pnl with target := s.vtTarget (s.ptVal i), read := true }
  else
    (s.put F.PNL_STAT_VT_HOLD 1).setPnl { s.pnl with target := if s.pnl.read then s.pnl.target else s.get F.PNL_VCOM_CFG_DEF }

def execPnlVcomUpdate (s : State) : Out := .next s.vcomUpdate

/-! ### Power sequences (R756, R760, R769) -/

/-- A crack latch holds the panel off (R760). -/
def State.crackHold (s : State) : Bool := s.bit F.PNL_CRK_CFG_ACT && s.word (R.PNL_FLT.at) != 0

def State.pnlGo (s : State) (ps : Nat) : State :=
  (s.put F.PNL_STAT_PSTATE ps).setPnl { s.pnl with step := 0, stepAt := s.now, stepFrames := 0 }

/-- Power-up starts when the panel is OFF, ON is 1 from the end of boot on, and neither a crack nor a reset holds it. -/
def State.pnlUp (s : State) : State :=
  let s := s.pnlNow
  if s.pstate = Ps.off && s.bit F.PNL_CTRL_ON && !s.crackHold && s.pnl.rstAt.isNone && s.boot.stage = 7 then s.pnlGo Ps.up else s

def execPnlPowerUpStart (s : State) : Out := .next s.pnlUp

/-- Power-down starts from ON when ON is 0, and from a running power-up too on a crack action, whose latch has cleared ON, or a
reset. -/
def State.pnlDown (s : State) : State :=
  let s := s.pnlNow
  let forced := (s.crackHold && !s.bit F.PNL_CTRL_ON) || s.pnl.rstAt.isSome
  if (s.pstate = Ps.on && (!s.bit F.PNL_CTRL_ON || forced)) || (s.pstate = Ps.up && forced) then s.pnlGo Ps.down else s

def execPnlPowerDownStart (s : State) : Out := .next s.pnlDown

/-- The timing stops: VCOM is 0 V. -/
def State.timingStop (s : State) : State := (s.put F.PNL_STAT_VCOM 0).setPnl { s.pnl with frames := 0, edge := false }

/-- The timing starts with the first VSYNC edge: blink commits that waited take effect (R757). -/
def State.timingStart (s : State) : State :=
  let s := s.setPnl { s.pnl with frames := 0, edge := false, timingAt := s.now, base := s.get F.PNL_FB_BASE, inv := s.get F.PNL_CTRL_INV }
  s.each ((List.range 8).filter (fun k => (s.pnl.blinks.getD k {}).next.isSome)) (fun k s => s.blinkVsync k)

/-- A sequence ends: PWR, and a reset that waited for power-down is complete. -/
def State.pnlSeqEnd (s : State) (ps : Nat) : State :=
  let s := (s.pnlGo ps).put F.PNL_EVT_PWR 1
  if ps = Ps.off then s.setPnl { s.pnl with rstAt := none } else s

/-- The time of the step after `step` from the one before it, in ms; none when it is counted in frames. -/
def State.stepMs (s : State) : Option Nat :=
  let up := s.pstate = Ps.up
  match s.pnl.step with
  | 0 => if up then some (s.get F.PNL_PSEQ_T_VGL) else none
  | 1 => some (s.get F.PNL_PSEQ_T_VGH)
  | 2 => some (if up then s.get F.PNL_PSEQ_T_SCAN else s.get F.PNL_PSEQ_T_VGL)
  | 3 => if up then none else some (s.get F.PNL_PSEQ_T_SCAN)
  | _ => some (s.get F.PNL_PSEQ_T_BL)

/-- The VSYNC edges a step counted in frames takes: BLANK, or DISCH after the next edge; none without timing. -/
def State.stepFramesDue (s : State) : Nat :=
  if s.pstate = Ps.up then s.get F.PNL_PSEQ2_BLANK else if s.pnlTiming then s.get F.PNL_PSEQ2_DISCH + 1 else 0

/-- The next step is reached. -/
def State.pnlStepTo (s : State) : State :=
  let n := s.pnl.step + 1
  let s := s.setPnl { s.pnl with step := n, stepAt := s.now, stepFrames := 0 }
  if s.pstate = Ps.up then
    if n = 3 then s.timingStart
    else if n = 5 then s.pnlSeqEnd Ps.on else s
  else if n = 3 then s.timingStop
  else if n = 4 then s.pnlSeqEnd Ps.off
  else s

/-- A timed step of the running sequence: at its time, or at the VSYNC edge that ends the last of its frames. -/
def State.pnlStep (s : State) : State :=
  if s.pstate != Ps.up && s.pstate != Ps.down then s
  else match s.stepMs with
    | some ms => (s.reach (s.pnl.stepAt + 1000 * ms)).pnlStepTo
    | none =>
      let due := s.stepFramesDue
      let s := if s.pnl.edge && due = s.pnl.stepFrames + 1 then (s.reach s.vsyncAt).vsync else s.pnlNow
      if due ≤ s.pnl.stepFrames then s.pnlStepTo else s

def execPnlPseqStep (s : State) : Out := .next s.pnlStep

/-! ### Access levels (R765 to R768) -/

def State.pnlLevel (s : State) : Nat := s.get F.PNL_ACC_STAT_LEVEL

/-- The level changes (R767). -/
def State.setLevel (s : State) (l : Nat) : State :=
  if s.pnlLevel = l then s
  else
    let old := s.word (R.PNL_ACC_STAT.at)
    let s := (s.put F.PNL_ACC_STAT_LEVEL l).put F.PNL_EVT_ACCESS 1
    (s.setPnl { s.pnl with idleAt := s.now }).auditEvent (R.PNL_ACC_STAT.at) old (s.word (R.PNL_ACC_STAT.at))

/-- The try of R766 succeeds. -/
def State.tryOk (s : State) (l : Nat) : Bool :=
  s.bit F.PNL_ACC_CFG_EN (l - 1) && s.pnl.codes.getD (l - 1) 0 == s.pnl.digits && !s.bit F.PNL_ACC_STAT_LOCKED

/-- A failed try; the fifth in a row starts a lockout. -/
def State.tryFail (s : State) : State :=
  let s := s.inc F.PNL_ACC_STAT_FAILS
  if s.bit F.PNL_ACC_STAT_LOCKED || s.get F.PNL_ACC_STAT_FAILS < 5 then s
  else ((s.put F.PNL_ACC_STAT_LOCKED 1).setPnl { s.pnl with lockAt := some s.now }).postErr 0 0x0E F.PNL_ACC_STAT_LOCKED.lo []

/-- A write of PNL_ACC_LVL by SK0. -/
def State.accLvl (s : State) (w : Who) (data : Word) : State :=
  let l := F.PNL_ACC_LVL_LEVEL.of data
  let clr (s : State) : State := s.setPnl { s.pnl with digits := 0 }
  if l = 0 then s.plainW Res.applied (fun s => clr (s.setLevel 0))
  else
    let ok := s.tryOk l
    s.auditW w (Tgt.reg (R.PNL_ACC_LVL.at) 0 0) (if ok then Res.applied else Res.refRights) (fun s =>
      clr (if ok then (s.put F.PNL_ACC_STAT_FAILS 0).setLevel l else s.tryFail))

/-- 900 s after its start, a lockout ends. -/
def execPnlLockoutEnd (s : State) : Out :=
  .next (match s.pnl.lockAt with
    | some t => (((s.reach (t + 900000000)).put F.PNL_ACC_STAT_LOCKED 0).put F.PNL_ACC_STAT_FAILS 0).setPnl { s.pnl with lockAt := none }
    | none => s)

/-- IDLE seconds without an entry (R767). -/
def execPnlAccessIdle (s : State) : Out :=
  .next (if s.pnlLevel = 0 then s else (s.reach (s.pnl.idleAt + 1000000 * s.get F.PNL_ACC_IDLE_IDLE)).setLevel 0)

/-- A write of PNL_WR_CMD (R768). -/
def State.pnlWr (s : State) (data : Word) : State :=
  if F.PNL_WR_CMD_GO.of data = 0 then s.plainW Res.applied id
  else
    let l := s.pnlLevel
    if l = 0 then s.plainW Res.refRights (fun s => s.put F.PNL_WR_RES_RES Res.refRights)
    else
      let w : Who := ⟨15, s.get F.PNL_ACC_CFG_TENANT (l - 1), 8, s.get F.PNL_ACC_CFG_PRIO (l - 1), true, 15⟩
      let s := s.ptWrite w (s.get F.PNL_WR_PT_POINT) (if F.PNL_WR_CMD_REL.of data = 1 then .relinquish else .write) w.prio
        (s.word (R.PNL_WR_VAL.at)) (R.PNL_WR_CMD.at)
      s.put F.PNL_WR_RES_RES s.wres

/-! ### Crack loop (R758 to R760) -/

/-- A crack bit latches. -/
def State.crackLatch (s : State) (f : Fld) : State :=
  if s.bit f then s
  else
    let old := s.word (R.PNL_FLT.at)
    let s := ((s.put f 1).put F.PNL_EVT_CRACK 1).setLevel 0
    let s := s.postErr 0 0x0E f.lo (leBytes 2 (s.get F.PNL_CRK_STAT_RES))
    let s := s.auditEvent (R.PNL_FLT.at) old (s.word (R.PNL_FLT.at))
    if s.bit F.PNL_CRK_CFG_ACT then s.put F.PNL_CTRL_ON 0 else s

/-- A measurement of the loop, in Ω, every 100 ms. -/
def State.crackMeasure (s : State) (ohm : Nat) : State :=
  if !s.bit F.PNL_CRK_CFG_EN then s
  else
    let s := s.reach (s.pnl.crkAt + 100000)
    let r := Nat.min ohm 20000 / 10
    let s := s.put F.PNL_CRK_STAT_RES r
    let hi := if s.get F.PNL_CRK_CFG_RMAX < r then s.pnl.crkHi + 1 else 0
    let lo := if r < s.get F.PNL_CRK_CFG_RMIN then s.pnl.crkLo + 1 else 0
    let s := s.setPnl { s.pnl with crkAt := s.now, crkHi := hi, crkLo := lo }
    let s := if 3 ≤ hi then s.crackLatch F.PNL_FLT_CRACK_OPEN else s
    if 3 ≤ lo then s.crackLatch F.PNL_FLT_CRACK_SHORT else s

def execPnlCrackMeasure (ohm : Nat) (s : State) : Out := .next (s.crackMeasure ohm)

/-! ### Keys and encoders (R761 to R764) -/

/-- PNL_EVT.KEYQ follows the queue (R770). -/
def State.keyqBit (s : State) : State := s.put F.PNL_EVT_KEYQ (b2n (!s.pnl.keyq.isEmpty))

/-- Post an entry (R762, R763). -/
def State.keyPost (s : State) (code : Nat) : State :=
  if 64 ≤ s.pnl.keyq.length then (s.inc F.PNL_CNT_KEYDROP).put F.PNL_EVT_KEYOVF 1
  else (s.setPnl { s.pnl with
      keyq := s.pnl.keyq ++ [⟨s.bootMs, code, s.pnl.posted % 65536⟩]
      posted := s.pnl.posted + 1
      idleAt := s.now }).keyqBit

/-- The debounced state of a key. -/
def State.keyDown (s : State) (k : Nat) : Bool := (s.word (if k < 32 then R.PNL_KEYS_LO.at else R.PNL_KEYS_HI.at)).getLsbD (k % 32)

def State.setKey (s : State) (k : Nat) (v : Bool) : State :=
  let a := if k < 32 then R.PNL_KEYS_LO.at else R.PNL_KEYS_HI.at
  s.setWord a (setBits (s.word a) (k % 32) 1 (b2n v))

/-- One key of a scan. -/
def State.keyScan1 (s : State) (keys : BitVec 64) (k : Nat) : State :=
  let v := keys.getLsbD k
  if v == s.keyDown k then s.setPnl { s.pnl with runs := Tab.set (fun _ => 0) s.pnl.runs k 0 }
  else
    let n := Tab.get (fun _ => 0) s.pnl.runs k + 1
    if n < s.get F.PNL_KEY_CFG_DEB then s.setPnl { s.pnl with runs := Tab.set (fun _ => 0) s.pnl.runs k n }
    else ((s.setPnl { s.pnl with runs := Tab.set (fun _ => 0) s.pnl.runs k 0 }).setKey k v).keyPost (k + 128 * b2n v)

/-- A scan ends: bit 8 r + c of `keys` is the key of row r and column c. -/
def State.keyScan (s : State) (keys : BitVec 64) : State :=
  let s := s.reach (s.pnl.scanAt + 8 * s.get F.PNL_KEY_CFG_COLT)
  let s := s.setPnl { s.pnl with scanAt := s.now }
  s.each (List.range 64) (fun k s => s.keyScan1 keys k)

def execPnlKeyScan (keys : BitVec 64) (s : State) : Out := .next (s.keyScan keys)

/-- The place of an accepted pair 2 A + B in the order 00, 01, 11, 10. -/
def grayIdx (ab : Nat) : Nat := [0, 1, 3, 2].getD ab 0

/-- What follows a step of encoder n (R764): the detents, then ALIGN. -/
def State.encDetent (s : State) (n ab : Nat) (acc : Int) : State :=
  let cpd : Int := (s.get F.PNL_ENC_CFG_CPD n : Nat)
  let put (s : State) (a : Int) : State := s.setPnl { s.pnl with encs := putAt (0, 0) s.pnl.encs n (ab, a) }
  let pos (s : State) : Nat := s.get F.PNL_ENC_POS_POS n
  let s := put s acc
  let fwd := decide (cpd ≤ acc)
  let acc := if fwd then acc - cpd else acc
  let s := if fwd then ((put s acc).put F.PNL_ENC_POS_POS (pos s + 1) n).keyPost (0xC0 + 2 * n) else s
  let back := decide (acc ≤ -cpd)
  let acc := if back then acc + cpd else acc
  let s := if back then ((put s acc).put F.PNL_ENC_POS_POS (pos s + 65535) n).keyPost (0xC1 + 2 * n) else s
  if s.bit F.PNL_ENC_CFG_ALIGN n && ab = s.get F.PNL_ENC_CFG_REST n then put s 0 else s

/-- The accepted pair of encoder n becomes 2 A + B = ab. -/
def State.encStep (s : State) (n ab : Nat) : State :=
  let e := s.pnl.encs.getD n (0, 0)
  let d := (grayIdx ab + 4 - grayIdx e.1) % 4
  if d = 0 then s
  else if d = 2 then
    ((s.inc F.PNL_ENC_POS_ERR 1 n).put F.PNL_EVT_ENCERR 1).setPnl { s.pnl with encs := putAt (0, 0) s.pnl.encs n (ab, e.2) }
  else
    let fwd := (d = 1) != s.bit F.PNL_ENC_CFG_INV n
    s.encDetent n ab (if fwd then e.2 + 1 else e.2 - 1)

/-- A pair is accepted after FILT + 1 equal samples (R764). -/
def execPnlEncoderStep (n : Fin 4) (ab : Fin 4) (seen : Nat) (s : State) : Out :=
  .next (if s.get F.PNL_ENC_CFG_FILT n.val < seen then s.encStep n.val ab.val else s)

/-- A write of PNL_KEYQ_POP (R762). -/
def State.keyPop (s : State) (data : Word) : State :=
  s.plainW Res.applied (fun s =>
    match s.pnl.keyq with
    | e :: t => if e.qseq = F.PNL_KEYQ_POP_QSEQ.of data then (s.setPnl { s.pnl with keyq := t }).keyqBit else s
    | [] => s)

/-! ### Function reset (R769) -/

def State.pnlFuncRst (s : State) : State :=
  let s := s.setPnl { s.pnl with
    keyq := []
    runs := []
    encs := s.pnl.encs.map (fun (e : Nat × Int) => (e.1, (0 : Int)))
    rstAt := if s.pstate = Ps.off then none else some s.now }
  let s := (((s.setWord (R.PNL_KEYS_LO.at) 0).setWord (R.PNL_KEYS_HI.at) 0).setWord (R.PNL_EVT.at) 0).setWord (R.PNL_CNT.at) 0
  s.setLevel 0

/-- 40 ms after its start, every step still pending is carried out at once. -/
def execPnlFuncRstForce (s : State) : Out :=
  .next (match s.pnl.rstAt with
    | some t => (((s.reach (t + 40000)).timingStop).pnlSeqEnd Ps.off)
    | none => s)

/-! ### Registers -/

/-- Eight BCD digits (R765, R781). -/
def bcdOk (x : Word) : Bool := (List.range 8).all (fun i => decide (bitsOf x (4 * i) 4 ≤ 9))

/-- Registers that only SK0 writes (R768). -/
def sk0Only (a : Nat) : Bool :=
  R.PNL_WR_PT.hit a || R.PNL_WR_VAL.hit a || R.PNL_WR_CMD.hit a || R.PNL_ACC_TRY.hit a || R.PNL_ACC_LVL.hit a

/-- The corners and ON of a blink rectangle are in range (R757). -/
def State.blinkOk (s : State) (k : Nat) (ctrl : Word) : Bool :=
  s.get F.PNL_BLK_XY1_X k < s.get F.PNL_SIZE_HACT && s.get F.PNL_BLK_XY1_Y k < s.get F.PNL_SIZE_VACT
    && s.get F.PNL_BLK_XY0_X k ≤ s.get F.PNL_BLK_XY1_X k && s.get F.PNL_BLK_XY0_Y k ≤ s.get F.PNL_BLK_XY1_Y k
    && 1 ≤ F.PNL_BLK_CTRL_ON.of ctrl && F.PNL_BLK_CTRL_ON.of ctrl < F.PNL_BLK_CTRL_PERIOD.of ctrl

/-- A write of PNL_BLK_CTRL. -/
def State.blinkCommit (s : State) (w : Who) (k : Nat) (data : Word) : State :=
  s.cfgWrite w (R.PNL_BLK_CTRL.at k) data (fun x => if s.blinkOk k x then Res.applied else Res.refConfig) (fun _ x s =>
    let next := (s.word (R.PNL_BLK_XY0.at k), s.word (R.PNL_BLK_XY1.at k), s.word (R.PNL_BLK_COLOR.at k), x)
    s.setPnl { s.pnl with blinks := putAt {} s.pnl.blinks k { s.pnl.blinks.getD k {} with next := some next } })

/-- A write of PNL_VT keeps the temperatures rising (R755). -/
def State.vtOk (s : State) (i : Nat) (x : Word) : Bool :=
  let t (j : Nat) : Int := toSigned 16 (s.get F.PNL_VT_TEMP j)
  let v := toSigned 16 (F.PNL_VT_TEMP.of x)
  (i = 0 || t (i - 1) < v) && (i = 7 || v < t (i + 1))

/-- A write of a PNL register or of frame memory, after a VSYNC edge that has come. -/
def State.pnlWrite (s : State) (w : Who) (a : Nat) (data : Word) : State :=
  let s := s.pnlNow
  let chk (p : Word → Bool) : Word → Res := fun x => if p x then Res.applied else Res.refConfig
  let off := s.pstate = Ps.off
  if 0x300000 ≤ a then (if w.tenant = 0 then s.plainW Res.applied (fun s => s.setWord a data) else s.plainW Res.refRights id)
  else if sk0Only a && w.bank != 5 then s.plainW Res.refRights id
  else if w.tenant != 0 then (if R.PNL_KEYQ_POP.hit a then s.plainW Res.refRights id else s.refuseWrite w a data Res.refRights)
  else if R.PNL_ACC_LVL.hit a then s.accLvl w data
  else if R.PNL_ACC_TRY.hit a then
    (if bcdOk data then s.plainW Res.applied (fun s => s.setPnl { s.pnl with digits := data }) else s.plainW Res.refConfig id)
  else if R.PNL_WR_CMD.hit a then s.pnlWr data
  else if R.PNL_WR_PT.hit a || R.PNL_WR_VAL.hit a then s.flagWrite a data
  else if R.PNL_ACC_CODE.hit a then
    (if bcdOk data then
      s.auditW w (Tgt.reg a 0 0) Res.applied (fun s => s.setPnl { s.pnl with codes := putAt 0 s.pnl.codes (R.PNL_ACC_CODE.idx a) data })
    else s.auditW w (Tgt.reg a 0 0) Res.refConfig id)
  else if R.PNL_KEYQ_POP.hit a then s.keyPop data
  else if R.PNL_BLK_CTRL.hit a then s.blinkCommit w (R.PNL_BLK_CTRL.idx a) data
  else if R.PNL_SIZE.hit a then s.cfgWrite w a data (chk (fun x => off && frameFits (s.word (R.PNL_FB.at)) x))
  else if R.PNL_FB.hit a then s.cfgWrite w a data (chk (fun x => frameFits x (s.word (R.PNL_SIZE.at))))
    (fun _ _ s => if s.pnlTiming && s.inBlanking then s.setPnl { s.pnl with base := s.get F.PNL_FB_BASE } else s)
  else if R.PNL_CLK.hit a || R.PNL_HTIM.hit a || R.PNL_VTIM.hit a || R.PNL_SYNC.hit a then s.cfgWrite w a data (chk (fun _ => off))
  else if R.PNL_VT.hit a then s.cfgWrite w a data (chk (s.vtOk (R.PNL_VT.idx a)))
  else if R.PNL_CRK_CFG.hit a then s.cfgWrite w a data (chk (fun x => F.PNL_CRK_CFG_RMIN.of x < F.PNL_CRK_CFG_RMAX.of x))
  else if R.PNL_FLT.hit a then s.clearWrite w a data (fun old new s =>
      let cleared (f : Fld) : Bool := f.of old == 1 && f.of new == 0
      s.setPnl { s.pnl with
        crkHi := if cleared F.PNL_FLT_CRACK_OPEN then 0 else s.pnl.crkHi
        crkLo := if cleared F.PNL_FLT_CRACK_SHORT then 0 else s.pnl.crkLo })
  -- a sequence that ON has started before this write goes on (R756)
  else if R.PNL_CTRL.hit a then s.pnlUp.pnlDown.kindWrite w a data
  else s.kindWrite w a data

/-- The word a PNL register reads as. -/
def State.pnlWord (s : State) (a : Nat) : Word :=
  if R.PNL_STAT.hit a then setBits (s.pnlNow.word a) 0 10 s.pnlLine
  else if R.PNL_KEYQ_HEAD0.hit a then (match s.pnl.keyq with | e :: _ => Word.ofN e.ms | [] => 0)
  else if R.PNL_KEYQ_HEAD1.hit a then (match s.pnl.keyq with | e :: _ => Word.ofN (e.code + 65536 * e.qseq) | [] => 0)
  else if R.PNL_KEYQ_STAT.hit a then Word.ofN s.pnl.keyq.length
  else s.word a

def execPnlBlinkCommit (p : Path) (k : Fin 8) (data : Word) (s : State) : Out :=
  .next (s.byPath p (fun w s => s.pnlWrite w (R.PNL_BLK_CTRL.at k.val) data))
def execPnlKeyqPop (p : Path) (data : Word) (s : State) : Out :=
  .next (s.byPath p (fun w s => s.pnlWrite w (R.PNL_KEYQ_POP.at) data))
def execPnlAccessTry (p : Path) (data : Word) (s : State) : Out :=
  .next (s.byPath p (fun w s => s.pnlWrite w (R.PNL_ACC_LVL.at) data))
def execPnlWrite (p : Path) (s : State) : Out := .next (s.byPath p (fun w s => s.pnlWrite w (R.PNL_WR_CMD.at) 1))
def execPnlRelinquish (p : Path) (s : State) : Out := .next (s.byPath p (fun w s => s.pnlWrite w (R.PNL_WR_CMD.at) 3))

end Sys2Proof.Machine
end

