-- ==== Sys2Proof/Machine/CoilOps.lean ====
section
/-! DEFINITION. The coil drive's shared operations: phases and timers (R246, R247), trips (R258, R259), targets and dither
(R237, R248, R250, R252), the regulator twins (R236), take-up (R256) and safe entry (R255, R301). -/

namespace Sys2Proof.Machine

def Ph.idle : Nat := 0
def Ph.pullin : Nat := 1
def Ph.hold : Nat := 2
def Ph.prop : Nat := 3
def Ph.fastDecay : Nat := 4
def Ph.safe : Nat := 5
def Ph.fault : Nat := 6
def Ph.supply : Nat := 7
def Ph.stroke : Nat := 8
def Ph.probe : Nat := 9
def Ph.repull : Nat := 10
def Ph.shed : Nat := 11

def Md.off : Nat := 0
def Md.pullHold : Nat := 1
def Md.prop : Nat := 2
def Md.pulse : Nat := 3

/-- Result codes of CD_LEARN_STAT (R323). -/
def Ln.done : Nat := 0x0
def Ln.noDrop : Nat := 0x1
def Ln.inconsistent : Nat := 0x2
def Ln.noMotion : Nat := 0x3
def Ln.ambig : Nat := 0x4
def Ln.cmd : Nat := 0x5
def Ln.cancel : Nat := 0x6
def Ln.window : Nat := 0x7
def Ln.safe : Nat := 0x8
def Ln.fault : Nat := 0x9
def Ln.shed : Nat := 0xA
def Ln.holdExp : Nat := 0xB

def State.cdPhase (s : State) (n : Nat) : Nat := s.get F.CD_STAT_PHASE n
def State.cdMode (s : State) (n : Nat) : Nat := s.get F.CD_CFG_MODE n

/-- The channel acts for itself: not the odd channel of a formed pair (R240). -/
def State.cdLead (s : State) (n : Nat) : Bool := n % 2 == 0 || !s.cdPaired n

/-- 2 for a formed pair, 1 for a channel: the factor of the limits of R243. -/
def State.cdUnits (s : State) (n : Nat) : Nat := if n % 2 = 0 && s.cdPaired n then 2 else 1

/-- Change what the model keeps of a channel. -/
def State.cdMod (s : State) (n : Nat) (f : CdChan → CdChan) : State := s.setCd n (f (s.cdOf n))

def State.cdTenant (s : State) (n : Nat) : Nat := s.ptTenant (s.get F.CD_CMD_POINT n)

/-- Enter a phase. The zero check of R239 belongs to the stay in IDLE that it was due in (log entry 145). -/
def State.cdGo (s : State) (n ph : Nat) : State :=
  (s.put F.CD_STAT_PHASE ph n).cdMod n (fun c => { c with phaseAt := s.now, zeroDue := false })

/-! ### Samples and switch states -/

/-- Word j of a channel's factory values (R700): gain and offset of CA, of CB and of the voltage converter, R_PATH for ENERGISE
and for SLOW_DECAY. -/
def State.cdOtp (s : State) (n j : Nat) : Word := s.otp (0x300 + 32 * n + 4 * j)

/-- (raw − offset) × gain to the nearest integer, halves rounded up (R702). -/
def calSteps (gain off : Word) (raw : Int) : Int :=
  (2 * (raw * 2 ^ 149 - fAt off (-149)) * fAt gain (-149) + 2 ^ 298) / 2 ^ 299

/-- A code of CA (j = 0) or CB (j = 1) in steps (R702). -/
def State.cdCur (s : State) (n j raw : Nat) : Nat :=
  (min (max (calSteps (s.cdOtp n (2 * j)) (s.cdOtp n (2 * j + 1)) raw) 0) 1023).toNat

/-- A code of the voltage converter in 0.1 V. The lower bound of R702 is taken for the currents only: the voltage of the clamp is
negative (log entry 125). -/
def State.cdVolt (s : State) (n : Nat) (raw : Int) : Int :=
  min (max (calSteps (s.cdOtp n 4) (s.cdOtp n 5) raw) (-1023)) 1023

def State.cdCalib (s : State) (n : Nat) (x : CdInst) : CdInst := ⟨s.cdCur n 0 x.a, s.cdCur n 1 x.b, s.cdVolt n x.v⟩

/-- The samples of a cycle after calibration (R234). -/
def State.cdCalibrated (s : State) (n : Nat) (x : CdSamples) : CdSamples :=
  ⟨x.own.map (s.cdCalib n), if s.cdPaired n then x.mate.map (s.cdCalib (n + 1)) else []⟩

/-- The mean of the six most recent samples (R236). -/
def mean6 (f : CdInst → Nat) (l : List CdInst) : Nat := ((l.drop (l.length - 6)).map f).sum / 6

/-- meas of a channel, or the sum of a pair's two (R236, R237). -/
def sampMeas (x : CdSamples) (f : CdInst → Nat) : Nat := mean6 f x.own + mean6 f x.mate

/-- The two most recent samples of every current converter are below 6 steps (R253). -/
def sampLow (x : CdSamples) : Bool :=
  (x.own.drop (x.own.length - 2) ++ x.mate.drop (x.mate.length - 2)).all (fun i => i.a < 6 && i.b < 6)

/-- I_MEAS of converter steps in mA, rounded down (R271). -/
def stepsMA (m : Nat) : Nat := m * 5 / 4

/-- The switch states (R233). -/
inductive CdSw where
  | energise | slowDecay | fastDecay
  deriving DecidableEq, Repr

/-- The switch state dt µs after the boundary at which a twin computed its duty (R235). -/
def CdTwin.switch (t : CdTwin) (dt : Nat) : CdSw :=
  if t.fd then .fastDecay else if 1024 * dt < 25 * t.duty then .energise else .slowDecay

/-- The switch state of a channel now: RA of the lead channel drives the switches (R233, R236, R240). -/
def State.cdSwitch (s : State) (n : Nat) : CdSw :=
  let c := s.cdOf (if s.cdPaired n then n / 2 * 2 else n)
  c.twinA.switch (s.now - c.bndAt.getD s.now)

/-- Every switch goes off. -/
def CdChan.switchOff (c : CdChan) : CdChan :=
  { c with twinA := { c.twinA with duty := 0, fd := true }, twinB := { c.twinB with duty := 0, fd := true } }

/-- A clamp phase runs at the time. -/
def CdChan.clampAt (c : CdChan) (at_ : Nat) : Bool := c.clamp && c.fdAt ≤ at_

/-- RA of the cycle as it drives the switches at the time: every switch is off since a clamp phase began in the cycle. -/
def CdChan.twinAt (c : CdChan) (at_ : Nat) : CdTwin := if c.clamp && at_ < c.fdAt then c.offTwin else c.twinA

/-- One instant joins the sums: the channel's own current, the current of its coil, and the coil voltage; `clamp` says that it
lies in the clamp phase. -/
def CdChan.sample (c : CdChan) (sw : CdSw) (clamp : Bool) (i coil : Nat) (v : Int) : CdChan :=
  let e := v * coil
  { c with
    sqSum := c.sqSum + coil * coil
    sqCnt := c.sqCnt + 1
    enSum := c.enSum + e.toNat
    pathE := if sw = .energise then c.pathE + i * i else c.pathE
    pathS := if sw = .slowDecay then c.pathS + i * i else c.pathS
    pathC := if clamp then c.pathC + e.natAbs else c.pathC
    clampE := if clamp then c.clampE + e else c.clampE
    rwV := c.rwV + v
    rwI := c.rwI + coil
    rwOk := c.rwOk && decide (40 ≤ coil) && sw != .fastDecay
    vSum := c.vSum + v
    vCnt := c.vCnt + 1 }

/-- The instants of the cycle that ends at t: they lie at multiples of 4 µs, under the switch states that `lead` had. -/
def CdChan.gather (c lead : CdChan) (t : Nat) (own mate : List CdInst) : CdChan :=
  let d : CdInst := ⟨0, 0, 0⟩
  (List.range own.length).foldl (fun c k =>
    let x := own.getD k d
    let at_ := (t - 1) / 4 * 4 + 4 + 4 * k - 4 * own.length
    c.sample ((lead.twinAt at_).switch (at_ + 25 - t)) (c.clampAt at_) x.a (x.a + (mate.getD k d).a) x.v) c

/-- A cycle joins the resistance window: its base target is that of the window's first cycle (R303). -/
def CdChan.rwCycle (c : CdChan) : CdChan :=
  let r := c.rwRef.or c.rwBase
  { c with rwRef := r, rwOk := c.rwOk && r.isSome && r == c.rwBase }

/-- What the odd channel of a pair does not keep: its temperature, energy and resistance sums are the pair's (R302, R303, R305). -/
def CdChan.noHeat (c : CdChan) : CdChan := { c with sqSum := 0, sqCnt := 0, enSum := 0, rwV := 0, rwI := 0, rwOk := false }

/-- The samples of a cycle join the sums of the channel, and of the odd channel of a pair. -/
def State.cdGather (s : State) (n t : Nat) (y : CdSamples) : State :=
  let lead := s.cdOf n
  let s := s.setCd n (lead.rwCycle.gather lead t y.own y.mate)
  if s.cdPaired n then s.cdMod (n + 1) (fun c => (c.gather lead t y.mate []).noHeat) else s

/-! ### Budget classes (R307) -/

def classRestricted (cls stage : Nat) : Bool := (cls == 3 && stage == 1) || (cls == 2 && stage == 3) || (cls == 1 && stage == 5)
def classShed (cls stage : Nat) : Bool := (cls == 3 && 2 ≤ stage) || (cls == 2 && 4 ≤ stage) || (cls == 1 && 6 ≤ stage)
def State.cdStage (s : State) : Nat := s.get F.CD_DBUD_STAT_STAGE
def State.cdRestricted (s : State) (n : Nat) : Bool := classRestricted (s.get F.CD_CFG_PRIO n) s.cdStage
def State.cdShedNow (s : State) (n : Nat) : Bool := classShed (s.get F.CD_CFG_PRIO n) s.cdStage

/-! ### Targets -/

/-- The learned hold current, where `learned` says that it is in use, or I_HOLD, within the continuous limit of R243. -/
def State.cdHoldOf (s : State) (n : Nat) (learned : Bool) : Nat :=
  Nat.min (if learned then s.get F.CD_HOLD_LRN_I_LHOLD n else s.get F.CD_HOLD_I_HOLD n) (600 * s.cdUnits n)

/-- The hold target of R248 in mA. -/
def State.cdHold (s : State) (n : Nat) : Nat :=
  s.cdHoldOf n (s.get F.CD_CFG_HOLD_SRC n == 1 && s.bit F.CD_HOLD_LRN_VALID n)

/-- A channel in HOLD uses the learned hold (R248), a restricted one whatever HOLD_SRC says (R307). -/
def State.cdLearned (s : State) (n : Nat) : Bool :=
  (s.get F.CD_CFG_HOLD_SRC n == 1 || s.cdRestricted n) && s.bit F.CD_HOLD_LRN_VALID n

/-- The base target of HOLD in mA (R248, R307). -/
def State.cdHoldNow (s : State) (n : Nat) : Nat := s.cdHoldOf n (s.cdLearned n)

/-- π × 2^80. -/
def piS : Nat := 3797952473636338580787993

/-- sin(π r / 32768) × 2^80 for r from 0 to 16384; exact at both ends (log entry 21). -/
def sinQ (r : Nat) : Int :=
  if r = 0 then 0 else if r = 16384 then 2 ^ 80
  else
    let x : Int := (piS * r / 32768 : Nat)
    let x2 : Int := x * x / 2 ^ 80
    let term := fun (t : Int) (k : Int) => -(t * x2 / 2 ^ 80) / (2 * k * (2 * k + 1))
    ((List.range 12).foldl (fun (acc : Int × Int) k => let t := term acc.2 ((k : Int) + 1); (acc.1 + t, t)) (x, x)).1

/-- w of R252 as a fraction of 2^80. -/
def ditherW (sine : Bool) (phi : Nat) : Int :=
  if sine then
    let r := phi % 16384
    let q := phi / 16384 % 4
    if q = 0 then sinQ r else if q = 1 then sinQ (16384 - r) else if q = 2 then -(sinQ r) else -(sinQ (16384 - r))
  else
    (65536 - ((4 * (phi : Int) - 131072).natAbs : Int)) * 2 ^ 64

/-- A target in mA as a fraction: numerator and denominator. -/
abbrev MA := Int × Int

/-- One-sided dither of a hold target in µA (R252). -/
def holdDither (hold damp : Nat) (w : Int) : MA := ((hold : Int) * (200 * 2 ^ 80 + damp * (w + 2 ^ 80)), 200000 * 2 ^ 80)

/-- Dither about a base target in µA (R252). -/
def propDither (base damp : Nat) (w : Int) : MA := ((base : Int) * (100 * 2 ^ 80 + damp * w), 100000 * 2 ^ 80)

/-- The target in converter steps, halves rounded up (R237). -/
def toSteps (t : MA) : Nat := ((8 * t.1 + 5 * t.2) / (10 * t.2)).toNat

/-- The dithered target of the channel's phase in mA at dither phase φ; none while its switches are off (R246, R252, R300). -/
def State.cdTargetAt (s : State) (n phi : Nat) : Option MA :=
  let c := s.cdOf n
  let ph := s.cdPhase n
  let damp := if s.cdRestricted n then 0 else s.get F.CD_CFG_DAMP n
  let w := ditherW (s.bit F.CD_CFG_DSHAPE n) phi
  let lim : Int := (1000 * s.cdUnits n : Nat)
  let clampT := fun (t : MA) => if lim * t.2 < t.1 then (lim, 1) else t
  let step := s.get F.CD_LEARN_STAT_STEP n % 4
  if ph = Ph.pullin || ph = Ph.repull || (ph = Ph.stroke && step = 0) then some ((c.iPull : Int), 1)
  else if ph = Ph.hold then some (clampT (holdDither (1000 * s.cdHoldNow n) damp w))
  else if ph = Ph.stroke && step = 1 then some (clampT (holdDither (1000 * s.get F.CD_HOLD_I_HOLD n) damp w))
  else if ph = Ph.probe then some (clampT (holdDither (1000 * c.lvl) damp w))
  else if ph = Ph.prop then some (clampT (propDither c.base damp w))
  else if ph = Ph.safe then c.safeTgt.map (fun h => if h = 0 then (0, 1) else clampT (holdDither h damp w))
  else none

/-- The target of the present cycle. -/
def State.cdTarget (s : State) (n : Nat) : Option MA := s.cdTargetAt n (s.cdOf n).phi

/-- inc of R252: the dither phase of a cycle. -/
def State.cdInc (s : State) (n : Nat) : Nat := (s.get F.CD_CFG_DFREQ n * 65536 * 2 + 40000) / 80000

/-- tgt in steps of the cycle that a time lies in, from the dither phase of the present cycle (R235, R252). -/
def State.cdTgtAt (s : State) (n t : Nat) : Nat :=
  let c := s.cdOf n
  let back : Int := ((t : Int) - c.bndAt.getD t) / 25
  ((s.cdTargetAt n ((c.phi + back * s.cdInc n) % 65536).toNat).map toSteps).getD 0

/-- The procedure of R236 for one twin; `pull` says that the phase starts saturated (PULLIN, REPULL and the PULL step). -/
def twinStep (pull fastDn : Bool) (kp ki tgt : Nat) (t : CdTwin) (meas : Nat) : CdTwin :=
  if pull && !t.reached then { acc := 65472, reached := decide (tgt ≤ meas), duty := 1023, fd := false, meas := meas }
  else if tgt = 0 then { t with acc := 0, duty := 0, fd := false, meas := meas }
  else if fastDn && tgt + 8 < meas then { t with duty := 0, fd := true, meas := meas }
  else
    let err : Int := (tgt : Int) - meas
    let acc := (min (max ((t.acc : Int) + ki * err) 0) 65472).toNat
    { t with acc := acc, duty := (min (max ((kp * err) / 16 + (acc / 64 : Nat)) 0) 1023).toNat, fd := false, meas := meas }

/-! ### Records, learning ends -/

/-- An error record of the coil drive, posted over the D2D link or kept until it is up (R259). -/
def State.cdErr (s : State) (t code : Nat) (fields : List Byte) : State :=
  if s.linkUp then s.postErr2 t 0x01 code fields else { s with cdg := { s.cdg with errs := s.cdg.errs ++ [(t, code, fields)] } }

/-- A learning run ends with a result (R297). -/
def State.cdLearnEnd (s : State) (n code : Nat) : State :=
  let k := s.get F.CD_LEARN_STAT_KIND n
  if k = 0 then s
  else
    let s := ((s.put F.CD_LEARN_STAT_LAST_RES code n).put F.CD_LEARN_STAT_LAST_KIND k n).put F.CD_LEARN_STAT_KIND 0 n
    let s := s.put F.CD_EVT_LEARN_END 1 n
    s.postEvt2 (s.cdTenant n) 0x01 code (leBytes 1 n ++ leBytes 1 k ++ leBytes 1 code)

/-! ### Phase changes -/

/-- The timer of a hold: HOLD_MAX for PULLHOLD when it is not 0, T_PULSE for PULSE (R247). -/
def State.cdHoldTimer (s : State) (n : Nat) : State :=
  let m := s.cdMode n
  let h := s.get F.CD_HOLD_HOLD_MAX n
  let due := if m = Md.pulse then some (s.now + 1000 * s.get F.CD_PULSE_T_PULSE n)
    else if m = Md.pullHold && h != 0 then some (s.now + 100000 * h) else none
  s.cdMod n (fun c => { c with holdDue := due })

/-- Enter HOLD with its timers started (R247). -/
def State.cdEnterHold (s : State) (n : Nat) : State :=
  let s := (s.cdGo n Ph.hold).cdMod n (fun c =>
    { c with phi := 0, pullDue := none, mendAt := none, armed := false, bumped := false, guard := 0 })
  s.cdHoldTimer n

/-- A pull-in ends (R247). -/
def State.cdEndPull (s : State) (n : Nat) : State := (s.cdEnterHold n).put F.CD_EVT_PULL_END 1 n

/-- The clamp phase begins, unless one runs (R253), and with it the closing observation (R280). -/
def State.cdClampStart (s : State) (n : Nat) : State :=
  s.cdMod n (fun c =>
    let tw := c.twinA
    let c := c.switchOff
    if c.clamp then c
    else { c with
      clamp := true, fdAt := s.now, offTwin := tw, clampE := 0, closeObs := true, closeSig := none, clEdge := none, clChat := false })

/-- Enter FASTDECAY (R247). -/
def State.cdFastDecay (s : State) (n : Nat) : State :=
  let s := if s.cdPhase n = Ph.fastDecay then s else s.cdGo n Ph.fastDecay
  let s := s.cdClampStart n
  s.cdMod n (fun c => { c with
    pullDue := none, holdDue := none, mendAt := none, openEnd := true, safeTgt := none, armed := false, bumped := false })

/-- Enter IDLE; the zero check of R239 is due, on both channels of a pair. -/
def State.cdEnterIdle (s : State) (n : Nat) : State :=
  let s := (s.cdGo n Ph.idle).cdMod n (fun c => { c.switchOff with zeroDue := true, pullDue := none, holdDue := none, safeTgt := none })
  if n % 2 = 0 && s.cdPaired n then s.cdMod (n + 1) (fun c => { c with zeroDue := true }) else s

/-- Enter PROP. From IDLE the accumulators start at 0 (R236). -/
def State.cdEnterProp (s : State) (n : Nat) : State :=
  let fromIdle := s.cdPhase n = Ph.idle
  (s.cdGo n Ph.prop).cdMod n (fun c => { c with
    phi := 0, base := if fromIdle then 0 else c.base, clamp := false,
    twinA := if fromIdle then { c.twinA with acc := 0 } else c.twinA,
    twinB := if fromIdle then { c.twinB with acc := 0 } else c.twinB, safeTgt := none })

/-- A fault latches (R259): its bit of CD_FLT, CD_EVT.FAULT and the error record, which carries the channel, the fault bit,
I_MEAS and the phase at the trip. -/
def State.cdLatch (s : State) (n : Nat) (f : Fld) : State :=
  if s.bit f n then s
  else
  let ph := s.cdPhase n
  let s := (s.put f 1 n).put F.CD_EVT_FAULT 1 n
  s.cdErr (s.cdTenant n) f.lo (leBytes 1 n ++ leBytes 1 f.lo ++ leBytes 2 (s.get F.CD_MEAS_I_MEAS n) ++ leBytes 1 ph)

/-- A protection trip (R247, R258): from any phase but FAULT the channel goes to FASTDECAY, in FAULT a further bit latches; a
learning run ends with
ABORT_FAULT (R295, R298). A trip of either channel of a pair acts on the pair (R240). -/
def State.cdTrip (s : State) (n : Nat) (f : Fld) : State :=
  let n := if s.cdPaired n then n / 2 * 2 else n
  if s.cdPhase n = Ph.fault then s.cdLatch n f
  else ((s.cdLatch n f).cdLearnEnd n Ln.fault).cdFastDecay n

/-! ### Motion results -/

/-- Results of R283. -/
def Mr.none_ : Nat := 0
def Mr.clear : Nat := 1
def Mr.ambig : Nat := 2

/-- A combined result: result, source (0 none, 1 signature, 2 contact, 3 both), time, and whether the contact counts as
STUCK (R286). -/
structure Combined where
  res : Nat
  src : Nat
  time : Nat
  stuck : Bool := false
  deriving DecidableEq, Repr

/-- |a − b| ≤ 2 ms + 25 % of a (R286), in units of 4 µs. -/
def withinTol (a b : Nat) : Bool := 4 * ((a : Int) - b).natAbs ≤ 2000 + a

/-- The table of R286: signature, whether a contact is configured, its edge, and the learned LEAD where it is valid and
early. -/
def combine (sig : Nat × Nat) (hasSig hasContact : Bool) (edge : Option Nat) (lead : Option Int) : Combined :=
  if !hasContact then ⟨sig.1, if hasSig then 1 else 0, if sig.1 = Mr.clear then sig.2 else 0, false⟩
  else if sig.1 = Mr.clear then
    match edge with
    | none => ⟨Mr.clear, 1, sig.2, true⟩
    | some c => if withinTol sig.2 c || c < sig.2 then ⟨Mr.clear, 3, sig.2, false⟩ else ⟨Mr.ambig, 3, 0, false⟩
  else
    match edge with
    | none => ⟨sig.1, if hasSig then 1 else 0, 0, false⟩
    | some c => ⟨Mr.clear, 2, (match lead with | some l => ((c : Int) + l).toNat | none => c), false⟩

/-- The learned time of a movement in units of 4 µs, when valid (R294). -/
def State.cdLearnedTime (s : State) (n : Nat) (opening : Bool) : Option Nat :=
  if opening then (if s.bit F.CD_STK_RES_OP_VALID n then some (25 * s.get F.CD_STK_RES_T_OPEN n) else none)
  else if s.bit F.CD_STK_RES_CL_VALID n then some (25 * s.get F.CD_STK_RES_T_CLOSE n) else none

/-- A valid LEAD with EARLY set (R286). -/
def State.cdLead? (s : State) (n : Nat) (opening : Bool) : Option Int :=
  if s.bit F.CD_STK_RES_EARLY n && (s.cdLearnedTime n opening).isSome then
    some (toSigned 16 (if opening then s.get F.CD_STK_LEAD_OP_LEAD n else s.get F.CD_STK_LEAD_CL_LEAD n))
  else none

/-- R287: a CLEAR result earlier than half or later than twice the learned time is AMBIG. -/
def State.cdPlausible (s : State) (n : Nat) (opening : Bool) (r : Combined) : Combined :=
  match s.cdLearnedTime n opening with
  | none => r
  | some t => if r.res = Mr.clear && (2 * r.time < t || 2 * t < r.time) then { r with res := Mr.ambig, time := 0 } else r

/-- Three NONE results in a row latch MOTION where it is enabled and the stroke is learned (R289). -/
def State.cdMotionFault (s : State) (n : Nat) (opening : Bool) (res : Nat) : State :=
  let c := s.cdOf n
  let k := if res = Mr.none_ then (if opening then c.noneOpen else c.noneClose) + 1 else 0
  let s := s.setCd n (if opening then { c with noneOpen := k } else { c with noneClose := k })
  if 3 ≤ k && s.bit F.CD_MOTCFG_MOTFLT_EN n && (s.cdLearnedTime n opening).isSome then
    (s.cdMod n (fun c => if opening then { c with noneOpen := 0 } else { c with noneClose := 0 })).cdTrip n F.CD_FLT_MOTION
  else s

/-- LEAD of one movement (R286, R294): of a CLEAR signature and a contact edge. -/
def leadOf (sig : Nat × Nat) (edge : Option Nat) : Option Int :=
  match edge with
  | some c => if sig.1 = Mr.clear then some ((sig.2 : Int) - c) else none
  | none => none

/-- A combined result of an observation that began at t0 is recorded and acts (R287, R288, R289); `avail` says that a signature
or contact existed. In a stroke learn it is kept for R294 instead of the tests of service. -/
def State.cdMotion (s : State) (n t0 : Nat) (opening : Bool) (r : Combined) (avail : Bool) (edge : Option Nat) (lead : Option Int) : State :=
  let learning := s.cdPhase n = Ph.stroke
  let r := if learning then r else s.cdPlausible n opening r
  let s := s.setWord ((if opening then R.CD_MOT_OPEN else R.CD_MOT_CLOSE).at n)
    (Word.ofN (r.res * 2 ^ 30 + r.src * 2 ^ 28 + (if r.res = Mr.clear then Nat.min r.time (2 ^ 18 - 1) else 0)))
  let s := s.putIf r.stuck F.CD_MOT_CNT_STUCK (satAdd 4 (s.get F.CD_MOT_CNT_STUCK n) 1) n
  let s := if r.res = Mr.clear then s.put (if opening then F.CD_EVT_OPENED else F.CD_EVT_CLOSED) 1 n
    else if r.res = Mr.ambig then (s.put F.CD_EVT_AMBIG 1 n).inc F.CD_MOT_CNT_AMBIG 1 n
    else if avail then s.inc F.CD_MOT_CNT_NONE 1 n else s
  if learning then
    let ts := if r.res = Mr.clear then [r.time] else []
    let s := s.cdMod n (fun c =>
      if opening then { c with opTimes := c.opTimes ++ ts, opLeads := c.opLeads ++ lead.toList, opSeen := c.opSeen || edge.isSome }
      else { c with clTimes := c.clTimes ++ ts, clLeads := c.clLeads ++ lead.toList, clSeen := c.clSeen || edge.isSome })
    if avail then s.cdMotionFault n opening r.res else s
  else
    let s := if opening && r.res = Mr.clear && s.bit F.CD_MOTCFG_MEND n && (s.cdLearnedTime n true).isSome then
        s.cdMod n (fun c => { c with mendAt := some (t0 + 4 * r.time + 1000 * s.get F.CD_MOTWIN_T_SETTLE n) })
      else s
    if avail then s.cdMotionFault n opening r.res else s

/-- The opening is decided: signature of a pair, contact where configured (R279, R286). -/
def State.cdOpenResult (s : State) (n : Nat) : State :=
  let c := s.cdOf n
  match c.openAt with
  | none => s
  | some t0 =>
    let hasSig := s.cdPaired n
    let hasC := s.bit F.CD_ENDC_OP_EN n
    let edge := if c.opChat then none else c.opEdge.map (fun t => (t - t0) / 4)
    let sig := c.sig.getD (Mr.none_, 0)
    let r := combine sig hasSig hasC edge (s.cdLead? n true)
    (s.setCd n { c with openAt := none, openEnd := false, sig := none, opEdge := none }).cdMotion n t0 true r (hasSig || hasC) edge (leadOf sig edge)

/-- The closing is decided from the signature that its observation gave (R280, R286). -/
def State.cdCloseResult (s : State) (n : Nat) (sig : Nat × Nat) : State :=
  let c := s.cdOf n
  if !c.closeObs then s
  else
    let hasC := s.bit F.CD_ENDC_CL_EN n
    let edge := if c.clChat then none else c.clEdge.map (fun t => (t - c.fdAt) / 4)
    let r := combine sig true hasC edge (s.cdLead? n false)
    (s.setCd n { c with closeObs := false, closeSig := none, clEdge := none }).cdMotion n c.fdAt false r true edge (leadOf sig edge)

/-- A closing whose observation has ended acts (R287). -/
def State.cdCloseTry (s : State) (n : Nat) : State :=
  match (s.cdOf n).closeSig with | some sig => s.cdCloseResult n sig | none => s

/-- The pending closing observation is cut short by a pull-in (R280): its signature is NONE, which R289 does not count; a
contact edge seen so far stands (R286). -/
def State.cdCutShort (s : State) (n : Nat) : State :=
  let c := s.cdOf n
  if c.closeObs then
    let edge := if c.clChat then none else c.clEdge.map (fun t => (t - c.fdAt) / 4)
    let r := combine (Mr.none_, 0) true (s.bit F.CD_ENDC_CL_EN n) edge (s.cdLead? n false)
    let s := s.setCd n { c with closeObs := false, clEdge := none }
    if r.res = Mr.none_ then (s.setWord (R.CD_MOT_CLOSE.at n) (Word.ofN (r.src * 2 ^ 28))).inc F.CD_MOT_CNT_NONE 1 n
    else s.cdMotion n c.fdAt false r true edge none
  else s

/-- Start the drive's pull-in and its opening observation (R247, R249, R279). -/
def State.cdPullStart (s : State) (n : Nat) : State :=
  let s := if (s.cdOf n).openAt.isSome then s.cdOpenResult n else s
  let s := (s.cdCloseTry n).cdCutShort n
  let s := s.inc F.CD_CNT_PULLINS 1 n
  s.cdMod n (fun c => { c with
    twinA := { c.twinA with acc := 0, reached := false }, twinB := { c.twinB with acc := 0, reached := false },
    iPull := s.get F.CD_PULL_I_PULL n, pullDue := some (s.now + 1000 * s.get F.CD_PULL_T_PULL n), holdDue := none,
    openAt := some s.now, openEnd := false, sig := none, opEdge := none, opChat := false, mendAt := none, clamp := false,
    safeTgt := none, armed := false, bumped := false, guard := 0 })

/-- Enter PULLIN or REPULL. -/
def State.cdPull (s : State) (n ph : Nat) : State := ((s.cdGo n ph).cdPullStart n).put F.CD_STAT_ON_PEND 0 n

/-- A channel whose class is shed at the present stage goes to SHED through fast decay (R300, R307). -/
def State.cdShed (s : State) (n : Nat) : State :=
  let ph := s.cdPhase n
  if !s.cdLead n || !s.cdShedNow n || ph = Ph.fault || ph = Ph.shed || (ph = Ph.fastDecay && (s.cdOf n).dest = 2) then s
  else
    let s := ((s.put F.CD_EVT_SHED 1 n).inc F.CD_DBUD_CNT_SHEDS).cdLearnEnd n Ln.shed
    (s.cdFastDecay n).cdMod n (fun c => { c with dest := 2 })

/-- A change of CD_HOLD_LRN that the device makes is audited with the old and new I_LHOLD (R297). -/
def State.cdHoldChange (s : State) (n : Nat) (f : State → State) : State :=
  let s' := f s
  if s'.word (R.CD_HOLD_LRN.at n) = s.word (R.CD_HOLD_LRN.at n) then s'
  else s'.auditEvent (R.CD_HOLD_LRN.at n) (Word.ofN (s.get F.CD_HOLD_LRN_I_LHOLD n)) (Word.ofN (s'.get F.CD_HOLD_LRN_I_LHOLD n))

/-- I_LHOLD from I_DO under HOLD_MARGIN (R297). -/
def State.cdLHold (s : State) (n : Nat) : Nat :=
  let d := s.get F.CD_HOLD_LRN_I_DO n
  Nat.min (Nat.max ((s.get F.CD_PRB_CFG_MARGIN n * d + 99) / 100) (d + 2)) (600 * s.cdUnits n)

/-- I_DO is set (R297). -/
def State.cdSetIdo (s : State) (n held : Nat) : State :=
  s.cdHoldChange n (fun s =>
    let s := (s.put F.CD_HOLD_LRN_I_DO held n).put F.CD_HOLD_LRN_VALID 1 n
    s.put F.CD_HOLD_LRN_I_LHOLD (s.cdLHold n) n)

/-! ### Commands -/

/-- v > 0.5 (R245). -/
def cdOn (v : Word) : Bool := fLt 0x3F000000 v

/-- The setpoint of PROP in µA, clamped to [0, I_PMAX] (R245). A fraction below 1 µA is cut (log entry 146). -/
def State.cdSetpoint (s : State) (n : Nat) : Nat :=
  Nat.min (fScaled (s.cdOf n).cmdv 1000 1).toNat (1000 * s.get F.CD_PROP_I_PMAX n)

/-- Current is flowing under a stroke learn's step: PULL, DWELL, or RELEASE in its clamp phase. -/
def State.cdStrokeLive (s : State) (n : Nat) : Bool :=
  s.get F.CD_LEARN_STAT_STEP n % 4 < 2 || (s.cdOf n).clamp

/-- An ON command or trigger (R247, R295, R300). -/
def State.cdActOn (s : State) (n : Nat) : State :=
  let ph := s.cdPhase n
  if ph = Ph.idle then s.cdPull n Ph.pullin
  else if ph = Ph.pullin || ph = Ph.repull then s.inc F.CD_CNT_RENEW 1 n
  else if ph = Ph.hold || ph = Ph.probe then (s.cdHoldTimer n).inc F.CD_CNT_RENEW 1 n
  else if ph = Ph.fastDecay then s.put F.CD_STAT_ON_PEND 1 n
  else if ph = Ph.stroke then
    let live := s.cdStrokeLive n
    let s := s.cdLearnEnd n Ln.cmd
    if live then (s.cdFastDecay n).put F.CD_STAT_ON_PEND 1 n else s.cdPull n Ph.pullin
  else s

/-- An OFF command (R247, R298, R300). -/
def State.cdActOff (s : State) (n : Nat) : State :=
  let ph := s.cdPhase n
  if ph = Ph.pullin || ph = Ph.hold || ph = Ph.repull then s.cdFastDecay n
  else if ph = Ph.fastDecay then s.put F.CD_STAT_ON_PEND 0 n
  else if ph = Ph.probe then (s.cdLearnEnd n Ln.cmd).cdFastDecay n
  else s

/-- The commands of the cycle act (R245, R251): the last one for PULLHOLD and PROP, any trigger for PULSE. -/
def State.cdCommands (s : State) (n : Nat) : State :=
  let c := s.cdOf n
  let s := s.setCd n { c with pend := none, trig := false }
  let m := s.cdMode n
  match c.pend with
  | none => s
  | some v =>
    if m = Md.pullHold then (if cdOn v then s.cdActOn n else s.cdActOff n)
    else if m = Md.pulse then (if c.trig then s.cdActOn n else s)
    else if m = Md.prop then (if s.cdPhase n = Ph.idle then s.cdEnterProp n else s)
    else s

/-- MODE was written OFF (R247). -/
def State.cdModeOff (s : State) (n : Nat) : State :=
  let s := s.cdMod n (fun c => { c with modeOff := false })
  let ph := s.cdPhase n
  let s := s.put F.CD_STAT_ON_PEND 0 n
  if ph = Ph.pullin || ph = Ph.hold || ph = Ph.prop || ph = Ph.repull then s.cdFastDecay n
  else if ph = Ph.probe || ph = Ph.stroke then (s.cdLearnEnd n Ln.cancel).cdFastDecay n
  else s

/-- The channel takes up CMDV from its present current, in mA (R256): the base target of PROP starts there. With a fault latched
it takes up nothing (R259). -/
def State.cdTakeUp (s : State) (n mA : Nat) : State :=
  let s := s.cdMod n (fun c => { c with take := false })
  let ph := s.cdPhase n
  if ph = Ph.shed || ph = Ph.fault || s.word (R.CD_FLT.at n) != 0 || (s.safeOf Cls.coil n).inSafe then s
  else
    let live := s.cdHold n ≤ mA
    let m := s.cdMode n
    let rest := fun (s : State) => if live then s.cdFastDecay n else s.cdEnterIdle n
    if m = Md.pullHold && cdOn (s.cdOf n).cmdv then
      (if live then (s.cdEnterHold n).cdMod n (fun c => { c with clamp := false, safeTgt := none }) else s.cdPull n Ph.pullin)
    else if m = Md.prop then (s.cdEnterProp n).cdMod n (fun c => { c with base := 1000 * mA })
    else rest s

/-- How a channel stands for R255 (R301): energised, at rest or in its clamp phase. -/
def State.cdEnergised (s : State) (n : Nat) : Bool :=
  let ph := s.cdPhase n
  ph = Ph.pullin || ph = Ph.hold || ph = Ph.prop || ph = Ph.probe || ph = Ph.repull
    || (ph = Ph.stroke && s.get F.CD_LEARN_STAT_STEP n % 4 < 2)

/-- The last base target in µA (R255, R301); in step DWELL of a stroke learn it is I_HOLD (R293). -/
def State.cdLastBase (s : State) (n : Nat) : Nat :=
  let c := s.cdOf n
  let ph := s.cdPhase n
  if ph = Ph.prop then c.base
  else if ph = Ph.probe || ph = Ph.repull then 1000 * c.i0
  else if ph = Ph.pullin || (ph = Ph.stroke && s.get F.CD_LEARN_STAT_STEP n % 4 = 0) then 1000 * c.iPull
  else if ph = Ph.stroke then 1000 * s.get F.CD_HOLD_I_HOLD n
  else 1000 * s.cdHoldNow n

/-- On entry into SAFE a channel acts on the entry that its output acts on (R255, R301). A channel in FAULT, or with a fault
latched on its way there (R259; rank 1 of R34), or in or on its way to SHED, goes on there. -/
def State.cdSafeEntry (s : State) (n : Nat) : State :=
  let ph := s.cdPhase n
  if !s.cdLead n || ph = Ph.fault || ph = Ph.shed || (ph = Ph.fastDecay && ((s.cdOf n).dest = 2 || s.word (R.CD_FLT.at n) != 0)) then s
  else
    let o := s.safeOf Cls.coil n
    let e := o.acting.getD (offEntry Cls.coil n)
    let live := s.cdEnergised n
    let lastB := s.cdLastBase n
    let s := s.cdLearnEnd n Ln.safe
    let tgt := if e.option = Opt.fixed then some (1000 * e.value)
      else if e.option = Opt.holdLast && live then some (Nat.min lastB (1000 * s.cdHold n)) else none
    let s := if live && tgt.isNone then s.cdClampStart n else s
    let s := (s.cdGo n Ph.safe).put F.CD_STAT_ON_PEND 0 n
    s.cdMod n (fun c => { c with
      safeTgt := tgt, pullDue := none, holdDue := none, mendAt := none, openEnd := true, take := false, armed := false,
      bumped := false, guard := 0, dest := 0,
      clamp := c.clamp && tgt.isNone,
      twinA := if e.option = Opt.fixed then { c.twinA with acc := 0 } else c.twinA,
      twinB := if e.option = Opt.fixed then { c.twinB with acc := 0 } else c.twinB })

end Sys2Proof.Machine
end

