-- ==== Sys2Proof/Machine/CoilMotionOps.lean ====
section
/-! DEFINITION. Motion sensing (R279 to R290): the three signatures, their results, the combination with end contacts, and
what a result does. Signature times are in units of 4 µs. -/

namespace Sys2Proof.Machine

/-- The result of candidates (magnitude, time), against m times num/2 for the largest (R283). -/
def sigResult (cands : List (Nat × Nat)) (m num : Nat) : Nat × Nat :=
  let best := cands.foldl (fun (b : Nat × Nat) c => if b.1 < c.1 then c else b) (0, 0)
  match cands with
  | [] => (Mr.none_, 0)
  | _ =>
    let rest := cands.erase best
    if 2 * best.1 < num * m || rest.any (fun c => best.1 < 2 * c.1) then (Mr.ambig, 0) else (Mr.clear, best.2)

/-- The sum of eight samples that end at index k. -/
def sum8 (v : Array Int) (k : Nat) : Int := (List.range 8).foldl (fun a j => a + v.getD (k - j) 0) 0

/-- Eight times K(k) of R280, in units of 0.1 V. -/
def kinkK (v : Array Int) (k : Nat) : Int := sum8 v k - 2 * sum8 v (k - 8) + sum8 v (k - 16)

/-- The closing kink (R280): samples in units of 0.1 V counted from the entry into FASTDECAY; the observation runs over the
indices first to last. The list begins with the 23 samples before the entry, which the first K(k) of a short blanking
reach back to. -/
def kinkResult (vs : List Int) (first last kth : Nat) : Nat × Nat :=
  let v := vs.toArray
  let last := Nat.min last (v.size - 24)
  if v.size < 24 || last < first || last + 1 - first < 512 then (Mr.none_, 0)
  else
    let n := last + 1 - first
    let ks := ((List.range n).map (fun j => (kinkK v (first + j + 23)).natAbs)).toArray
    -- times 64: KTH * 0.1 V against four times the mean of the last 256
    let noise := (List.range 256).foldl (fun a j => a + ks.getD (n - 1 - j) 0) 0
    let thr := Nat.max (kth * 8 * 64) noise
    let cand := fun j => thr ≤ 64 * ks.getD j 0 &&
      (List.range 125).all (fun d => let i := j + d; i < 62 || n ≤ i - 62 || ks.getD (i - 62) 0 ≤ ks.getD j 0)
    let cands := ((List.range n).filter cand).map (fun j => (64 * ks.getD j 0, first + j - 8))
    sigResult cands thr 3

/-- A dip being followed (R281): the running maximum, the least sample of the open run with its index, and the dips found. -/
structure DipAcc where
  k : Nat := 0
  mx : Nat := 0
  low : Option (Nat × Nat) := none
  dips : List (Nat × Nat) := []

def DipAcc.close (d : DipAcc) : DipAcc :=
  match d.low with
  | none => d
  | some l => { d with low := none, dips := d.dips ++ [(d.mx - l.1, l.2)] }

def DipAcc.step (d : DipAcc) (i : Nat) : DipAcc :=
  let d := if i < d.mx then
      { d with low := match d.low with | none => some (i, d.k) | some l => if i < l.1 then some (i, d.k) else some l }
    else { d.close with mx := i }
  { d with k := d.k + 1 }

/-- The opening dip (R281): pair current samples in steps from the entry. -/
def dipResult (is : List Nat) (th : Nat) : Nat × Nat :=
  let d := (is.foldl DipAcc.step {}).close
  sigResult (d.dips.filter (fun x => th ≤ x.1)) th 3

/-- The result of a release bump (R282, R283): the excess of each sample of the run over tgt; NONE for a run that is no bump. -/
def bumpResult (run : List Nat) (th : Nat) : Nat :=
  let h := run.foldl Nat.max 0
  if run.length < 3 || !run.all (fun x => th < x) then Mr.none_ else if h < 2 * th then Mr.ambig else Mr.clear

/-- The opening result is complete once its signature is known and its contact is, or its phase has ended (R287). -/
def State.cdOpenTry (s : State) (n : Nat) : State :=
  let c := s.cdOf n
  let con := if s.bit F.CD_ENDC_OP_EN n then c.opEdge.isSome || c.opChat else s.cdPaired n
  if c.openAt.isSome && (!s.cdPaired n || c.sig.isSome) && (c.openEnd || con) then s.cdOpenResult n else s

/-- The guard of R290: a valve at a learned hold has let go. -/
def State.cdUnexpDrop (s : State) (n : Nat) : State :=
  let s := s.cdHoldChange n (fun s => s.put F.CD_HOLD_LRN_VALID 0 n)
  let s := (s.put F.CD_EVT_UNEXP_DROP 1 n).inc F.CD_MOT_CNT_UNEXP 1 n
  let s := s.cdErr 0 F.CD_EVT_UNEXP_DROP.lo []
  (s.cdMod n (fun c => { c with ambigAt := none, i0 := s.cdHoldNow n })).cdPull n Ph.repull

/-- The channel repulls after an AMBIG bump, and keeps its learned hold (R290). -/
def State.cdAmbigBump (s : State) (n : Nat) : State :=
  (s.cdMod n (fun c => { c with ambigAt := some s.now, i0 := s.cdHoldNow n })).cdPull n Ph.repull

/-- The guard of R290 acts at a boundary (R287) on what it has seen in HOLD at a learned hold target; a second AMBIG bump within
600 s of the first acts as CLEAR. -/
def State.cdGuardTry (s : State) (n : Nat) : State :=
  let g := (s.cdOf n).guard
  if g = Mr.none_ then s
  else
    let s := s.cdMod n (fun c => { c with guard := Mr.none_ })
    if !(s.cdPhase n = Ph.hold && s.cdLearned n) then s
    else if g = Mr.clear then s.cdUnexpDrop n
    else
      match (s.cdOf n).ambigAt with
      | some t0 => if s.now ≤ t0 + 600000000 then s.cdUnexpDrop n else s.cdAmbigBump n
      | none => s.cdAmbigBump n

/-- A probe ends by a release (R297). -/
def State.cdProbeRelease (s : State) (n res : Nat) : State :=
  let held := (s.cdOf n).held
  let s := if res = Mr.clear then s.cdSetIdo n held else s
  (s.cdLearnEnd n (if res = Mr.clear then Ln.done else Ln.ambig)).cdPull n Ph.repull

/-- A release in the probe, from the bump and the contacts (R286, R296): decided once both are known, or at the end of the
dwell. Times are in µs. -/
def State.cdProbeTry (s : State) (n : Nat) (ended : Bool) : State :=
  let c := s.cdOf n
  let op := s.bit F.CD_ENDC_OP_EN n
  let cl := s.bit F.CD_ENDC_CL_EN n
  let edge := match (if c.opChat then none else c.opEdge), (if c.clChat then none else c.clEdge) with
    | some a, some b => some (Nat.min a b) | some a, none => some a | none, some b => some b | none, none => none
  let known := edge.isSome || ((!op || c.opChat) && (!cl || c.clChat))
  if (c.bumpSig.isNone && edge.isNone) || !(ended || known) then s
  else
    let r := combine (c.bumpSig.getD (Mr.none_, 0)) true (op || cl) (edge.map (fun t => (t - c.phaseAt) / 4)) none
    let s := s.putIf r.stuck F.CD_MOT_CNT_STUCK (satAdd 4 (s.get F.CD_MOT_CNT_STUCK n) 1) n
    s.cdProbeRelease n r.res

end Sys2Proof.Machine
end

