-- ==== Sys2Proof/Machine/CoilDrive.lean ====
section
/-! DEFINITION. Coil drive commands (chapter "Coil drive: channels, current profiles and switch-off"). -/

namespace Sys2Proof.Machine

/-- The base target of PROP moves toward the setpoint for m cycles (R250). -/
def State.cdRamp (s : State) (n m : Nat) : State :=
  if s.cdPhase n != Ph.prop then s
  else
    let sp := s.cdSetpoint n
    let r := 25 * s.get F.CD_PROP_RAMP n * m
    s.cdMod n (fun c => { c with
      base := if r = 0 then sp else if c.base ≤ sp then Nat.min (c.base + r) sp else Nat.max (c.base - r) sp })

/-- The base target in µA, in the phases that R303 measures in. -/
def State.cdBaseTgt (s : State) (n : Nat) : Option Nat :=
  let ph := s.cdPhase n
  if ph = Ph.hold then some (1000 * s.cdHoldNow n)
  else if ph = Ph.prop then some (s.cdOf n).base
  else if ph = Ph.safe then (s.cdOf n).safeTgt
  else none

/-- The cross-check of R238, for one channel of the pair or for the channel itself. -/
def twinsDisagree (a b : CdTwin) (measA measB : Nat) : Bool :=
  64 < ((a.duty : Int) - b.duty).natAbs || a.fd != b.fd || Nat.max 12 (measA / 16) < ((measA : Int) - measB).natAbs

/-- The target in steps, and the twins' next results from calibrated samples (R236); while the phase has no target every switch
is off. -/
def State.cdTwins (s : State) (n : Nat) (y : CdSamples) : Nat × CdTwin × CdTwin :=
  let c := s.cdOf n
  let ph := s.cdPhase n
  let pull := ph = Ph.pullin || ph = Ph.repull || (ph = Ph.stroke && s.get F.CD_LEARN_STAT_STEP n % 4 = 0)
  let tgt := s.cdTarget n
  let tw := fun (t : CdTwin) m =>
    if tgt.isNone then { t with duty := 0, fd := true, meas := m }
    else twinStep pull (s.bit F.CD_CFG_FASTDN n) (s.get F.CD_REG_KP_R n) (s.get F.CD_REG_KI_R n) ((tgt.map toSteps).getD 0) t m
  ((tgt.map toSteps).getD 0, tw c.twinA (sampMeas y (·.a)), tw c.twinB (sampMeas y (·.b)))

/-- The cross-check, on each channel of a pair (R238, R240): the first thing at a boundary, of what the phase it finds would
have the twins do (log entry 126). At the fourth disagreement in a row, `next` saying that no boundary lies between, TWIN trips. -/
def State.cdCrossCheck (s : State) (n : Nat) (next : Bool) (y : CdSamples) : State :=
  let (_, ta, tb) := s.cdTwins n y
  let dis := twinsDisagree ta tb (mean6 (·.a) y.own) (mean6 (·.b) y.own)
    || (s.cdPaired n && twinsDisagree ta tb (mean6 (·.a) y.mate) (mean6 (·.b) y.mate))
  let s := s.cdMod n (fun c => { c with disagree := if !dis then 0 else if next then c.disagree + 1 else 1 })
  if 4 ≤ (s.cdOf n).disagree && !s.bit F.CD_FLT_TWIN n then s.cdTrip n F.CD_FLT_TWIN else s

/-- What stands at a boundary before its events: the count of R258 for OPEN and that of R241 for IMBAL, of what the phase it finds
would have the twins do. Both are protection trips, position 1 of R251. -/
def State.cdCounts (s : State) (n : Nat) (next : Bool) (y : CdSamples) : State :=
  let ph := s.cdPhase n
  let c := s.cdOf n
  let mA := sampMeas y (·.a)
  let (tgt, ta, _) := s.cdTwins n y
  let low := ta.duty = 1023 && 40 ≤ tgt && 4 * mA < tgt
  let share := fun m => 100 * m < 35 * mA || 65 * mA < 100 * m
  let shares := ph = Ph.pullin || ph = Ph.hold || ph = Ph.prop || ph = Ph.safe
  let imb := s.cdPaired n && shares && 0 < tgt && 80 ≤ mA && (share (mean6 (·.a) y.own) || share (mean6 (·.a) y.mate))
  let count := fun (b : Bool) (k : Nat) => if !b then 0 else if next then k + 1 else 1
  s.setCd n { c with openCnt := count low c.openCnt, imbal := count imb c.imbal }

/-- Full duty for 2 ms, 80 boundaries, with low current (R258); a pair share out of band at 10 boundaries in a row (R241). -/
def State.cdCountTrips (s : State) (n : Nat) : State :=
  let s := if 80 ≤ (s.cdOf n).openCnt then s.cdTrip n F.CD_FLT_OPEN else s
  if 10 ≤ (s.cdOf n).imbal then s.cdTrip n F.CD_FLT_IMBAL else s

/-- CD_MEAS of a channel: its current in steps, and its coil voltage as the mean of the cycle, rounded down; a current above
2,047 mA keeps its low 11 bits (R271, log entry 146). -/
def State.cdReport (s : State) (n m : Nat) (l : List CdInst) : State :=
  let v : Int := if l.isEmpty then 0 else 10 * (l.map (·.v)).sum / l.length
  (s.put F.CD_MEAS_I_MEAS (stepsMA m) n).put F.CD_MEAS_VCOILX (ofSigned 16 v) n

/-- The regulator's part of a boundary: targets, duties, reports. -/
def State.cdRegulate (s : State) (n : Nat) (y : CdSamples) : State :=
  let paired := s.cdPaired n
  let mA := sampMeas y (·.a)
  let ph := s.cdPhase n
  let c := s.cdOf n
  let tgtMA := s.cdTarget n
  let (tgt, ta, tb) := s.cdTwins n y
  let s := s.setCd n { c with
    twinA := ta, twinB := tb,
    armed := c.armed || (!c.bumped && tgtMA.isSome && mA ≤ tgt && (ph = Ph.hold || ph = Ph.probe || ph = Ph.repull)),
    rwBase := s.cdBaseTgt n }
  let s := s.put F.CD_STAT_TARGET (match tgtMA with | some t => (t.1 / t.2).toNat | none => 0) n
  let s := (s.put F.CD_DUTY_DUTY_A ta.duty n).put F.CD_DUTY_DUTY_B tb.duty n
  let s := s.cdReport n mA y.own
  if paired then s.cdReport (n + 1) (mean6 (·.a) y.mate) y.mate else s

/-- Positions 1 to 4 of R251: trips that a clear of THERM or EWIN brings back (R304) and shedding, release or recovery, MODE. -/
def State.cdEarlyEvents (s : State) (n mA : Nat) : State :=
  let c := s.cdOf n
  let s := s.setCd n { c with reTherm := false, reEwin := false }
  let s := if c.reTherm then s.cdTrip n F.CD_FLT_THERM else s
  let s := if c.reEwin then s.cdTrip n F.CD_FLT_EWIN else s
  let s := s.cdShed n
  let s := if (s.cdOf n).take then s.cdTakeUp n mA else s
  if (s.cdOf n).modeOff then s.cdModeOff n else s

/-- Motion results that are complete act (R287), with the guard of R290 and a release in the probe (R296). -/
def State.cdResults (s : State) (n : Nat) : State :=
  let s := ((s.cdOpenTry n).cdCloseTry n).cdGuardTry n
  if s.cdPhase n = Ph.probe then s.cdProbeTry n false else s

/-- Positions 1 to 6 of R251 before any timer: then the commands, and motion results with the motion-end rule (R287, R288). -/
def State.cdEvents (s : State) (n mA : Nat) : State :=
  let s := ((s.cdEarlyEvents n mA).cdCommands n).cdResults n
  let due := match (s.cdOf n).mendAt, (s.cdOf n).pullDue with | some t, some e => t ≤ s.now && s.now < e | _, _ => false
  if due && (s.cdPhase n = Ph.pullin || s.cdPhase n = Ph.repull) then s.cdEndPull n else s

/-- T_PULL has expired (R247, R300). A result still open is decided, or waits for its signature (R281, R287). -/
def State.cdPullTimer (s : State) (n : Nat) : State :=
  match (s.cdOf n).pullDue with
  | none => s
  | some t =>
    if t ≤ s.now && (s.cdPhase n = Ph.pullin || s.cdPhase n = Ph.repull) then
      let s := (s.cdMod n (fun c => { c with openEnd := true })).cdOpenTry n
      if s.cdPhase n = Ph.pullin || s.cdPhase n = Ph.repull then s.cdEndPull n else s
    else s

/-- HOLD_MAX or T_PULSE has expired (R247, R298). -/
def State.cdHoldEnd (s : State) (n : Nat) : State :=
  match (s.cdOf n).holdDue with
  | none => s
  | some t =>
    let m := s.cdMode n
    if !(t ≤ s.now) then s
    else if s.cdPhase n = Ph.hold then
      (if m = Md.pullHold then (s.put F.CD_EVT_HOLD_EXP 1 n).cdFastDecay n else if m = Md.pulse then s.cdFastDecay n else s)
    else if s.cdPhase n = Ph.probe && m = Md.pullHold then ((s.put F.CD_EVT_HOLD_EXP 1 n).cdLearnEnd n Ln.holdExp).cdFastDecay n
    else s

/-- EC_MAX of R254 in units of 0.5 nJ. -/
def State.cdEcMax (s : State) (n : Nat) : Nat := 120000000 * s.cdUnits n

/-- Where a channel goes from FASTDECAY when its clamp phase ends (R247, R257, R300). A channel in safe state that a trip took there
goes back to SAFE once its fault is cleared: only a release ends safe state (R35). -/
def State.cdAfterClamp (s : State) (n : Nat) : State :=
  let c := s.cdOf n
  let pend := s.bit F.CD_STAT_ON_PEND n
  let s := (s.put F.CD_STAT_ON_PEND 0 n).cdMod n (fun c => { c with dest := 0 })
  if s.word (R.CD_FLT.at n) != 0 then s.cdGo n Ph.fault
  else if c.rst then s.cdEnterIdle n
  else if c.dest = 2 then s.cdGo n Ph.shed
  else if (s.safeOf Cls.coil n).inSafe then (s.cdGo n Ph.idle).cdSafeEntry n
  else if c.dest = 1 then
    (s.cdGo n Ph.supply).cdMod n (fun c => { c with take := !(s.bit F.CD_GSTAT_UV || s.bit F.CD_GSTAT_OV) })
  else if pend then s.cdPull n Ph.pullin
  else s.cdEnterIdle n

/-- The clamp phase ends at the present boundary (R253, R254): its energy in units of 10 µJ and its duration in units of 4 µs are
reported. CLAMP_E compares the energy before it is rounded (log entry 146). -/
def State.cdClampEnd (s : State) (n : Nat) : State :=
  let c := s.cdOf n
  let e := c.clampE.natAbs
  let s := (s.put F.CD_CLAMP_E_LAST (Nat.min (e / 20000) 65535) n).put F.CD_CLAMP_T_LAST (Nat.min ((s.now - c.fdAt) / 4) 65535) n
  let s := s.cdMod n (fun c => { c with clamp := false, clampEnd := s.now })
  let s := s.put F.CD_EVT_FD_END 1 n
  let heavy := s.cdEcMax n < e
  let s := if heavy then s.cdLatch n F.CD_FLT_CLAMP_E else s
  if s.cdPhase n = Ph.fastDecay then s.cdAfterClamp n
  else if heavy && s.cdPhase n != Ph.fault then (s.cdLearnEnd n Ln.fault).cdGo n Ph.fault else s

/-- The next boundary of the grid that all channels share (R235): at a multiple of 25 µs (log entry 127). -/
def cdGrid (now : Nat) (last : Option Nat) : Nat :=
  let t := (now + 24) / 25 * 25
  if last = some t then t + 25 else t

/-- A cycle boundary (R235, R236, R251), with the samples of the cycle that ends there. Cycles since the channel's last boundary
advance the dither phase and the ramp (R250, R252). -/
def State.cdBoundary (s : State) (n : Nat) (x : CdSamples) : State :=
  if !s.cdLead n then s
  else
    let c := s.cdOf n
    let t := cdGrid s.now c.bndAt
    let m := match c.bndAt with | some b => (t - b) / 25 | none => 1
    let y := s.cdCalibrated n x
    let s := ((s.reach t).cdGather n t y).cdMod n (fun c => { c with bndAt := some t, phi := (c.phi + m * s.cdInc n) % 65536 })
    let s := (((s.cdCounts n (m == 1) y).cdCrossCheck n (m == 1) y).cdCountTrips n).cdEvents n (stepsMA (sampMeas y (·.a)))
    let s := (s.cdPullTimer n).cdHoldEnd n
    let s := if (s.cdOf n).clamp && sampLow y then s.cdClampEnd n else s
    (s.cdRamp n m).cdRegulate n y

def execCdCycleBoundary (n : Nat) (x : CdSamples) (s : State) : Out := .next (s.pdDo (fun s => s.cdBoundary (n % 32) x))

/-- A command reaches the channel: CMDV is updated, and it acts at the next boundary (R244, R251). The command point of the odd
channel of a pair is not used (R240). -/
def State.cdCommand (s : State) (n : Nat) : State :=
  match s.fwdTake Cls.coil n with
  | (none, s) => s
  | (some f, s) =>
    if !s.cdLead n then s
    else (s.setCmd Cls.coil n f.value).cdMod n (fun c => { c with cmdv := f.value, pend := some f.value, trig := c.trig || cdOn f.value })

def execCdCommand (n : Nat) (s : State) : Out := .next (s.pdDo (fun s => s.cdCommand (n % 32)))

/-- The zero check 100 µs after the entry into IDLE (R239): eight samples of each converter, each below 4 steps. A channel that has
left IDLE by then is not checked: its current is no longer meant to be zero (log entry 145). -/
def State.cdZeroCheck (s : State) (n : Nat) (a b : List Nat) : State :=
  if !(s.cdOf n).zeroDue then s
  else if s.cdPhase (if s.cdPaired n then n / 2 * 2 else n) != Ph.idle then s.cdMod n (fun c => { c with zeroDue := false })
  else
    let s := s.reach ((s.cdOf (if s.cdPaired n then n / 2 * 2 else n)).phaseAt + 100)
    let s := s.cdMod n (fun c => { c with zeroDue := false })
    if (a.map (s.cdCur n 0) ++ b.map (s.cdCur n 1)).any (fun i => 4 ≤ i) then s.cdTrip n F.CD_FLT_TWIN else s

def execCdZeroCheck (n : Nat) (a b : List Nat) (s : State) : Out := .next (s.pdDo (fun s => s.cdZeroCheck (n % 32) a b))

/-- A sense comparator above the trip of R243 (R258). -/
def execCdOvercurrent (n : Nat) (s : State) : Out := .next (s.pdDo (fun s => s.cdTrip (n % 32) F.CD_FLT_OVC))

/-- Full duty for 2 ms, 80 boundaries, with low current (R258). -/
def State.cdOpenDetect (s : State) (n : Nat) : State :=
  if 80 ≤ (s.cdOf n).openCnt then (s.cdMod n (fun c => { c with openCnt := 0 })).cdTrip n F.CD_FLT_OPEN else s

def execCdOpenDetect (n : Nat) (s : State) : Out := .next (s.pdDo (fun s => s.cdOpenDetect (n % 32)))

/-- A pair share out of band at 10 boundaries in a row (R241). -/
def State.cdImbalance (s : State) (n : Nat) : State :=
  let n := n / 2 * 2
  if s.cdPaired n && 10 ≤ (s.cdOf n).imbal then (s.cdMod n (fun c => { c with imbal := 0 })).cdTrip n F.CD_FLT_IMBAL else s

def execCdImbalance (n : Nat) (s : State) : Out := .next (s.pdDo (fun s => s.cdImbalance (n % 32)))

/-- The boundary at which a timer is due (R251), with the samples of the cycle that ends there: trips and what has arrived before it
act first, so a renewal keeps the profile. -/
def State.cdTimerAt (s : State) (n t : Nat) (x : CdSamples) : State := (s.reach t).cdBoundary n x

/-- T_PULL expires (R247, R300). -/
def State.cdPullinEnd (s : State) (n : Nat) (x : CdSamples) : State :=
  match (s.cdOf n).pullDue with
  | none => s
  | some t => if s.cdPhase n = Ph.pullin || s.cdPhase n = Ph.repull then s.cdTimerAt n t x else s

def execCdPullinEnd (n : Nat) (x : CdSamples) (s : State) : Out := .next (s.pdDo (fun s => s.cdPullinEnd (n % 32) x))

/-- HOLD_MAX or T_PULSE expires, in the mode that runs it (R247, R298). -/
def State.cdHoldExpiry (s : State) (n m : Nat) (x : CdSamples) : State :=
  match (s.cdOf n).holdDue with
  | none => s
  | some t => if s.cdMode n = m && (s.cdPhase n = Ph.hold || s.cdPhase n = Ph.probe) then s.cdTimerAt n t x else s

def execCdHoldExpiry (n : Nat) (x : CdSamples) (s : State) : Out := .next (s.pdDo (fun s => s.cdHoldExpiry (n % 32) Md.pullHold x))

def execCdPulseExpiry (n : Nat) (x : CdSamples) (s : State) : Out := .next (s.pdDo (fun s => s.cdHoldExpiry (n % 32) Md.pulse x))

/-- The boundary at which a clamp phase meets its end condition (R253). -/
def State.cdClampBoundary (s : State) (n : Nat) (x : CdSamples) : State :=
  if (s.cdOf n).clamp && sampLow (s.cdCalibrated n x) then s.cdBoundary n x else s

def execCdClampEnd (n : Nat) (x : CdSamples) (s : State) : Out := .next (s.pdDo (fun s => s.cdClampBoundary (n % 32) x))

/-- A clamp phase longer than 20 ms latches FD_TIME; it runs on (R254). -/
def State.cdFdTimeout (s : State) (n : Nat) : State :=
  let c := s.cdOf n
  if !c.clamp || s.bit F.CD_FLT_FD_TIME n then s else (s.reach (c.fdAt + 20000)).cdTrip n F.CD_FLT_FD_TIME

def execCdFdTimeout (n : Nat) (s : State) : Out := .next (s.pdDo (fun s => s.cdFdTimeout (n % 32)))

/-- A channel at a supply excursion (R257): SAFE, FAULT and SHED stay (log entry 20). -/
def State.cdSupplyChan (s : State) (n : Nat) : State :=
  let ph := s.cdPhase n
  if !s.cdLead n then s
  else
    let s := if ph = Ph.fault then s else s.put F.CD_EVT_FAULT 1 n
    if ph = Ph.fault || ph = Ph.safe || ph = Ph.shed || ph = Ph.supply then s
    else ((s.cdLearnEnd n Ln.fault).cdFastDecay n).cdMod n (fun c => { c with dest := if c.dest = 2 then 2 else 1 })

/-- VCOIL leaves its window (R257): below it, or above it, by a comparator within its tolerance; `v` is VCOIL in 10 mV, `mean` its
mean over the last millisecond (R277). -/
def State.cdSupplyExcursion (s : State) (high : Bool) (v mean : Nat) : State :=
  if (if high then v ≤ 3850 else 880 ≤ v) then s
  else
    let s := ((s.put F.CD_GSTAT_VCOIL mean).put F.CD_GSTAT_OV (b2n high)).put F.CD_GSTAT_UV (b2n (!high))
    let s := s.inc (if high then F.CD_GCNT_OV_EVENTS else F.CD_GCNT_UV_EVENTS)
    s.each (List.range 32) (fun n s => s.cdSupplyChan n)

def execCdSupplyExcursion (high : Bool) (v mean : Nat) (s : State) : Out := .next (s.pdDo (fun s => s.cdSupplyExcursion high v mean))

/-- VCOIL has stayed between 9.5 V and 38.0 V for 10 ms (R257): each channel in SUPPLY takes up CMDV. `v` is its mean over the last of
these milliseconds, in 10 mV (R277). -/
def State.cdSupplyRecover (s : State) (v : Nat) : State :=
  if v < 950 || 3800 < v then s
  else
    let s := ((s.put F.CD_GSTAT_VCOIL v).put F.CD_GSTAT_UV 0).put F.CD_GSTAT_OV 0
    s.each (List.range 32) (fun n s => if s.cdPhase n = Ph.supply then s.cdMod n (fun c => { c with take := true }) else s)

def execCdSupplyRecover (v : Nat) (s : State) : Out := .next (s.pdDo (fun s => s.cdSupplyRecover v))

/-- The last latched bit has cleared (R247, R259). -/
def State.cdFaultGone (s : State) (n : Nat) : State :=
  if s.cdPhase n != Ph.fault || s.word (R.CD_FLT.at n) != 0 then s
  else if (s.safeOf Cls.coil n).inSafe then (s.cdGo n Ph.idle).cdSafeEntry n
  else (s.cdEnterIdle n).cdMod n (fun c => { c with take := true })

/-- While the link is lost a CD write is discarded and counted, whoever makes it (R46, log entry 116); else one by any but
tenant 0 is refused (ch. 6, "CD registers"). -/
def State.pdGate (s : State) (w : Who) (a : Nat) (data : Word) (f : State → State) : State :=
  if !s.pdReach then s.dropWrite w a data
  else if w.tenant != 0 then s.refuseWrite w a data Res.refRights
  else f s

/-- A write of 1 to bits of CD_FLT (R259); THERM and EWIN trip again while COOLED is 0 (R304). -/
def State.cdFltWrite (s : State) (w : Who) (n : Nat) (data : Word) : State :=
  s.pdGate w (R.CD_FLT.at n) data (fun s => s.clearWrite w (R.CD_FLT.at n) data (fun old new s =>
    let gone := fun (f : Fld) => f.of old = 1 && f.of new = 0 && !s.bit F.CD_TH_STAT_COOLED n
    let s := s.cdMod n (fun c => { c with
      reTherm := c.reTherm || gone F.CD_FLT_THERM, reEwin := c.reEwin || gone F.CD_FLT_EWIN })
    s.cdFaultGone n))

def execCdFaultClear (p : Path) (n : Nat) (data : Word) (s : State) : Out :=
  .next (s.byPath p (fun w s => s.cdFltWrite w (n % 32) data))

/-- The bounds of R243 for the configuration of a channel when its pair is formed or not. -/
def State.cdBoundsOk (s : State) (n units : Nat) : Bool :=
  s.get F.CD_PULL_I_PULL n ≤ 1000 * units && s.get F.CD_HOLD_I_HOLD n ≤ 600 * units && s.get F.CD_PROP_I_PMAX n ≤ 600 * units

/-- The judgement of a CD_CFG word (R242, R243, R249); a boot load is not judged by the run state (R690). -/
def State.cdCfgChk (s : State) (boot : Bool) (n : Nat) (x : Word) : Res :=
  let idle := fun m => boot || s.cdPhase m = Ph.idle || s.cdPhase m = Ph.fault
  let m := F.CD_CFG_MODE.of x
  let p := F.CD_CFG_PAIR.of x
  let k := n / 2 * 2
  if n % 2 = 1 && p = 1 then Res.refConfig
  else if m != s.cdMode n && m != Md.off && !idle n then Res.refConfig
  else if n % 2 = 0 && p != s.get F.CD_CFG_PAIR n &&
      !(boot || (idle k && (s.cdPaired n || idle (k + 1)) && s.cdMode k = Md.off && s.cdMode (k + 1) = Md.off)) then Res.refConfig
  else if n % 2 = 0 && !s.cdBoundsOk n (p + 1) then Res.refConfig
  else Res.applied

/-- A pair is parted: its odd channel, which had no state of its own (R240), takes the safe state of the pair and rests. -/
def State.cdPart (s : State) (k : Nat) : State :=
  let e := s.safeOf Cls.coil k
  let o := { s.safeOf Cls.coil (k + 1) with inSafe := e.inSafe, off := e.off, relPend := false }
  let s := s.setSafe Cls.coil (k + 1) o
  let s := (s.cdGo (k + 1) Ph.idle).cdMod (k + 1) (fun c => { c with safeTgt := none, clamp := false, take := false, rst := false })
  if e.inSafe then s.cdSafeEntry (k + 1) else s

def State.cdCfgWrite (s : State) (w : Who) (n : Nat) (data : Word) : State :=
  s.pdGate w (R.CD_CFG.at n) data (fun s => s.cfgWrite w (R.CD_CFG.at n) data (s.cdCfgChk (w.ifc == 0) n) (fun old new s =>
    let s := if F.CD_CFG_PAIR.of old = 1 && F.CD_CFG_PAIR.of new = 0 then s.cdPart n else s
    if F.CD_CFG_MODE.of new = Md.off && F.CD_CFG_MODE.of old != Md.off then s.cdMod n (fun c => { c with modeOff := true }) else s))

def execCdCfgWrite (p : Path) (n : Nat) (data : Word) (s : State) : Out :=
  .next (s.byPath p (fun w s => s.cdCfgWrite w (n % 32) data))

/-! ### Function reset of a pair (R260) -/

/-- Step 1: the channels are driven through fast decay; a learning run ends with ABORT_FAULT (R309). -/
def State.cdPairRst (s : State) (k : Nat) : State :=
  s.each [2 * k, 2 * k + 1] (fun n s =>
    let s := s.cdLearnEnd n Ln.fault
    let s := s.cdMod n (fun c => { c with rst := true })
    let ph := s.cdPhase n
    if ph = Ph.idle || ph = Ph.fault || ph = Ph.shed || ph = Ph.supply || ph = Ph.fastDecay then s
    else if ph = Ph.safe then (if (s.cdOf n).safeTgt.isSome then s.cdFastDecay n else s)
    else s.cdFastDecay n)

/-- Steps 2 to 4 for one channel, once its clamp phase has ended: what is cleared, and what then takes up CMDV. -/
def State.cdRstDone (s : State) (n : Nat) : State :=
  let c := s.cdOf n
  if !c.rst then s
  else
    let s := [R.CD_FLT, R.CD_EVT, R.CD_CNT, R.CD_CLAMP, R.CD_MOT_OPEN, R.CD_MOT_CLOSE, R.CD_MOT_CNT].foldl
      (fun s r => s.setWord (r.at n) 0) s
    let s := s.put F.CD_STAT_ON_PEND 0 n
    let s := s.setCd n { c with
      rst := false, clamp := false, dest := 0, twinA := {}, twinB := {}, phi := 0, pullDue := none, holdDue := none, disagree := 0,
      openCnt := 0, imbal := 0, mendAt := none, openAt := none, openEnd := false, closeObs := false, closeSig := none, guard := 0, zeroDue := false, pend := none, trig := false,
      modeOff := false, armed := false, bumped := false, reTherm := false, reEwin := false, noneOpen := 0, noneClose := 0 }
    if (s.safeOf Cls.coil n).inSafe then (s.cdGo n Ph.idle).cdSafeEntry n
    else if s.cdPhase n = Ph.shed then s
    else (s.cdEnterIdle n).cdMod n (fun c => { c with take := true })

/-- The pair's reset may end: no clamp phase runs, or FD_TIME bounds the wait. -/
def State.cdRstReady (s : State) (k : Nat) : Bool :=
  [2 * k, 2 * k + 1].all (fun n => !(s.cdOf n).clamp || s.bit F.CD_FLT_FD_TIME n)

def State.cdPairRstDone (s : State) (k : Nat) : State :=
  if s.cdRstReady k then s.each [2 * k, 2 * k + 1] (fun n s => s.cdRstDone n) else s

/-! ### Other registers of the block -/

/-- Judgements of the channel configuration words (R243, R249, R265 to R267, R302). -/
def State.cdRegChk (s : State) (boot : Bool) (a : Nat) (x : Word) : Res :=
  let n := (a - 0x190000) / 256
  let u := s.cdUnits n
  let ok := if R.CD_PULL.hit a then F.CD_PULL_I_PULL.of x ≤ 1000 * u && s.get F.CD_HOLD_I_HOLD n ≤ F.CD_PULL_I_PULL.of x
    else if R.CD_HOLD.hit a then F.CD_HOLD_I_HOLD.of x ≤ 600 * u && F.CD_HOLD_I_HOLD.of x ≤ s.get F.CD_PULL_I_PULL n
    else if R.CD_PROP.hit a then F.CD_PROP_I_PMAX.of x ≤ 600 * u
    else if R.CD_CMD.hit a then
      boot || F.CD_CMD_POINT.of x = s.get F.CD_CMD_POINT n || s.cdPhase n = Ph.idle || s.cdPhase n = Ph.fault
    else if R.CD_TH_C.hit a then
      10 ≤ F.CD_TH_C_CW.of x * s.get F.CD_TH_G_RWB n && 10 ≤ F.CD_TH_C_CB.of x * Nat.min (s.get F.CD_TH_G_RWB n) (s.get F.CD_TH_G_RBA n)
    else if R.CD_TH_G.hit a then
      10 ≤ s.get F.CD_TH_C_CW n * F.CD_TH_G_RWB.of x && 10 ≤ s.get F.CD_TH_C_CB n * Nat.min (F.CD_TH_G_RWB.of x) (F.CD_TH_G_RBA.of x)
    else true
  if ok then Res.applied else Res.refConfig

/-- A write to a register of the channel window that has no row of its own. A write of MARGIN recomputes I_LHOLD (R299). -/
def State.cdRegWrite (s : State) (w : Who) (a : Nat) (data : Word) : State :=
  s.pdGate w a data (fun s =>
    match fieldsAt a with
    | none => s.plainW Res.applied id
    | some fs =>
      if isConfig fs then s.cfgWrite w a data (s.cdRegChk (w.ifc == 0) a) (fun _ _ s =>
        let n := (a - 0x190000) / 256
        if R.CD_PRB_CFG.hit a && s.bit F.CD_HOLD_LRN_VALID n then
          s.cdHoldChange n (fun s => s.put F.CD_HOLD_LRN_I_LHOLD (s.cdLHold n) n)
        else s)
      else if R.CD_DBUD_STAT.hit a then s.clearWrite w a data (fun _ _ s => s)
      else s.flagWrite a data)

/-- Bit n of CD_FLTMAP and CD_ACTMAP (R278). -/
def State.cdFltMap (s : State) : Nat := ((List.range 32).filter (fun n => s.cdPhase n = Ph.fault)).foldl (fun m n => m + 2 ^ n) 0
def State.cdActMap (s : State) : Nat :=
  ((List.range 32).filter (fun n => (match s.cdTarget n with | some t => t.1 != 0 | none => false) || s.cdPhase n = Ph.fastDecay)).foldl
    (fun m n => m + 2 ^ n) 0

/-- Records kept for the link are posted when it is up (R259). -/
def State.cdFlushErrs (s : State) : State :=
  let es := s.cdg.errs
  ({ s with cdg := { s.cdg with errs := [] } }).each es (fun e s => s.postErr2 e.1 0x01 e.2.1 e.2.2)

end Sys2Proof.Machine
end

