-- ==== Sys2Proof/Machine/Fans.lean ====
section
/-! DEFINITION. Fan channels (chapter "Fan channels"): duty codes, tach, the 1 ms evaluation of channel states and targets,
watch windows and failover, Burrow tables, and the hardware thermal guard. What a guard trip does to the outputs is in
Supervision. -/

namespace Sys2Proof.Machine

/-- STATE codes of R402. -/
def Fs.disabled : Nat := 0
def Fs.stop : Nat := 1
def Fs.kick : Nat := 2
def Fs.run : Nat := 3
def Fs.fault : Nat := 4

/-- SRC codes of R385. -/
def Src.command : Nat := 0
def Src.burrow : Nat := 1
def Src.supFull : Nat := 2
def Src.test : Nat := 3
def Src.safe : Nat := 4
def Src.roomFull : Nat := 5
def Src.failover : Nat := 6
def Src.off : Nat := 7

def State.fanOf (s : State) (n : Nat) : FanChan := Tab.get (fun _ => {}) s.fan.chans n
def State.setFan (s : State) (n : Nat) (c : FanChan) : State :=
  { s with fan := { s.fan with chans := Tab.set (fun _ => {}) s.fan.chans n c } }
def State.fanGrp (s : State) (g : Nat) : FanGroup := s.fan.groups.getD g {}
def State.setFanGrp (s : State) (g : Nat) (x : FanGroup) : State := { s with fan := { s.fan with groups := putAt {} s.fan.groups g x } }
def State.fanState (s : State) (n : Nat) : Nat := s.get F.FAN_STAT_STATE n
def State.fanDuty (s : State) (n : Nat) : Nat := s.get F.FAN_STAT_DUTY n

/-- The members of a group. -/
def fanMembers (g : Nat) : List Nat := (List.range 8).map (8 * g + ·)

/-! ### PWM (R374, R375) -/

/-- n / d, halves rounded up. -/
def roundUp (n d : Nat) : Nat := (2 * n + d) / (2 * d)

/-- The period N of a group in CK_PD cycles. -/
def pwmPeriod (freq : Nat) : Nat := roundUp 80000000 freq

/-- When member j's period starts after the group's, in cycles. -/
def pwmStart (j n : Nat) : Nat := j * n / 8

/-- The cycles of its period for which a channel with duty code d drives its pin high. -/
def pwmHigh (d n : Nat) : Nat := if d = 0 then 0 else if d = 1023 then n else roundUp (d * n) 1023

/-- FAN_GTRIG and FAN_GCFG together leave TDLY inside the period (R375). -/
def trigOk (gcfg gtrig : Word) : Bool :=
  F.FAN_GCFG_FREQ.of gcfg != 0 && F.FAN_GTRIG_TDLY.of gtrig * 80 < pwmPeriod (F.FAN_GCFG_FREQ.of gcfg)

/-- The generator of a group at cycle t: a new FREQ takes effect at a period start (R374). The first period begins when FREQ is
first known. -/
def FanGroup.sync (x : FanGroup) (freq t : Nat) : FanGroup :=
  let n := pwmPeriod freq
  if n = 0 then x
  else if x.per = 0 then { x with perAt := t, per := n, perNo := x.perNo + 1 }
  else if t < x.perAt + x.per then x
  else
    let a := x.perAt + x.per
    let k := (t - a) / n
    { x with
      prevAt := if k = 0 then x.perAt else a + (k - 1) * n, prevN := if k = 0 then x.per else n
      perAt := a + k * n, per := n, perNo := x.perNo + 1 + k }

/-- Member j's latest period start at cycle t and its length; a length of 0 before the first. -/
def FanGroup.member (x : FanGroup) (j t : Nat) : Nat × Nat :=
  let a := x.perAt + pwmStart j x.per
  if a ≤ t then (a, x.per) else (x.prevAt + pwmStart j x.prevN, x.prevN)

/-- The pin of member j at cycle t, the channel's duty having been d since its last change (R374). -/
def FanChan.sync (c : FanChan) (x : FanGroup) (j t d : Nat) : FanChan :=
  let p := x.member j t
  if p.2 = 0 || (p.1 = c.pinAt && c.pinN != 0) then c else { c with pinAt := p.1, pinN := p.2, pinD := d }

/-- The generator of a group and its pins are brought up to now: what changes a duty or FREQ comes after it. -/
def State.fanSync (s : State) (g : Nat) : State :=
  let t := 80 * s.now
  let x := (s.fanGrp g).sync (s.get F.FAN_GCFG_FREQ g) t
  (s.setFanGrp g x).each (fanMembers g) (fun n s => s.setFan n ((s.fanOf n).sync x (n % 8) t (s.fanDuty n)))

/-- The level of FAN_PWMn (R374). -/
def State.fanPwm (s : State) (n : Nat) : Bool :=
  let c := (s.fanSync (n / 8)).fanOf n
  80 * s.now - c.pinAt < pwmHigh c.pinD c.pinN

/-- When the next trigger event of a group falls (R375): TDLY µs after the start of a period of member TCH, in cycles. -/
def State.fanTrigAt (s : State) (g : Nat) : Nat :=
  let x := s.fanGrp g
  let n := pwmPeriod (s.get F.FAN_GCFG_FREQ g)
  let p := if x.trigNo ≤ x.perNo then (x.perAt, x.per) else (x.perAt + x.per + (x.trigNo - x.perNo - 1) * n, n)
  p.1 + pwmStart (s.get F.FAN_GTRIG_TCH g) p.2 + 80 * s.get F.FAN_GTRIG_TDLY g

/-- The next trigger event of a group (R375, R338), and every TDIV + 1 periods one more. -/
def State.fanTrigger (s : State) (g : Nat) : State :=
  let s := s.fanSync g
  if !s.bit F.FAN_GTRIG_EN g || (s.fanGrp g).per = 0 then s
  else
    let s := s.reach ((s.fanTrigAt g + 79) / 80)
    let x := s.fanGrp g
    (s.setFanGrp g { x with trigNo := x.trigNo + s.get F.FAN_GTRIG_TDIV g + 1 }).adcTrigger (5 + g) true

/-- A write of FAN_GTRIG: events are counted from the next period on (log entry 131). -/
def State.fanTrigStart (s : State) (g : Nat) : State :=
  let s := s.fanSync g
  let x := s.fanGrp g
  s.setFanGrp g { x with trigNo := x.perNo + 1 }

def execFanGroupTrigger (g : Fin 4) (s : State) : Out := .next (s.pdDo (fun s => s.fanTrigger g.val))

/-! ### Tach (R376) -/

/-- The measured speed in rpm. -/
def State.fanSpeed (s : State) (n : Nat) : Nat :=
  let p := s.get F.FAN_TACH_PERIOD n
  if p = 0 then 0 else Nat.min (60000000 / (p * (s.get F.FAN_CFG_PPR n + 1))) 65535

def State.fanFast (s : State) (n : Nat) : Bool := s.get F.FAN_TSUP_SPD_MIN n ≤ s.fanSpeed n

/-- A new PERIOD; FAN_SPEED follows it. -/
def State.fanPeriod (s : State) (n p : Nat) : State :=
  let s := s.put F.FAN_TACH_PERIOD p n
  s.put F.FAN_SPEED_SPEED (s.fanSpeed n) n

/-- An accepted falling edge, `after` µs from now. -/
def State.fanTachEdge (s : State) (n after : Nat) : State :=
  let s := s.reach (s.now + after)
  let c := s.fanOf n
  match c.edgeAt with
  | none => s.setFan n { c with edgeAt := some s.now }
  | some t =>
    if 1000000 ≤ s.now - t then (s.fanPeriod n 0).setFan n { c with edgeAt := some s.now, good := 0 }
    else
      let s := s.fanPeriod n (s.now - t)
      s.setFan n { c with edgeAt := some s.now, good := if s.fanFast n then c.good + 1 else 0 }

def execFanTachEdge (n : Fin 32) (after : Nat) (s : State) : Out := .next (s.pdDo (fun s => s.fanTachEdge n.val after))

/-- No edge for 1,000,000 µs. -/
def State.fanTachTimeout (s : State) (n : Nat) : State :=
  match (s.fanOf n).edgeAt with
  | none => s
  | some t =>
    let s := s.reach (t + 1000000)
    (s.fanPeriod n 0).setFan n { s.fanOf n with edgeAt := none, good := 0 }

def execFanTachTimeout (n : Fin 32) (s : State) : Out := .next (s.pdDo (fun s => s.fanTachTimeout n.val))

/-! ### Duty codes (R377) -/

/-- The duty code of num / den percent. -/
def State.dutyCode (s : State) (n num den : Nat) : Nat :=
  if num = 0 then 0 else Nat.min (Nat.max (roundUp (num * 1023) (den * 100)) (s.get F.FAN_LIM_DMIN n)) 1023

/-- A finite value that is not negative, as a fraction. -/
def fFrac2 (x : Word) : Nat × Nat :=
  if 0 ≤ fPow x then (fSig x * 2 ^ (fPow x).toNat, 1) else (fSig x, 2 ^ (-(fPow x)).toNat)

/-- The duty code of a value in percent. -/
def State.dutyOf (s : State) (n : Nat) (v : Word) : Nat :=
  if fNeg v || !fFinite v then 0 else s.dutyCode n (fFrac2 v).1 (fFrac2 v).2

/-- d_cmd of the latest command; 0 before the first. -/
def State.fanCmdDuty (s : State) (n : Nat) : Nat := match s.cmdOf Cls.fan n with | some v => s.dutyOf n v | none => 0

/-- A command reaches the channel; it acts at the next evaluation. -/
def State.fanCommand (s : State) (n : Nat) : State :=
  match s.fwdTake Cls.fan n with
  | (none, s) => s
  | (some f, s) => s.setCmd Cls.fan n f.value

def execFanCommand (n : Fin 32) (s : State) : Out := .next (s.pdDo (fun s => s.fanCommand n.val))

/-- The command point has this QUAL from now on (R386). -/
def State.fanQual (s : State) (n q : Nat) : State :=
  let c := s.fanOf n
  s.setFan n { c with lapseAt := if qualLive q then none else match c.lapseAt with | some t => some t | none => some s.now }

def State.fanQualChange (s : State) (n : Nat) : State :=
  match s.fwdTake Cls.fanQual n with
  | (none, s) => s
  | (some f, s) => s.fanQual n f.qual

def execFanQualChange (n : Fin 32) (s : State) : Out := .next (s.pdDo (fun s => s.fanQualChange n.val))

/-! ### Burrow tables (R387, R388) -/

/-- The converter and entry that feed a table. -/
def State.fanIn (s : State) (t : Nat) : Nat × Nat :=
  let e := s.get F.FAN_BT_SRC_ENTRY t
  (s.get F.FAN_BT_SRC_ADC t, if s.bit F.FAN_BT_SRC_URGENT t then 16 + e % 4 else e)

/-- The local mean that feeds a table: its value, when it was renewed, and whether its code was inside the window. -/
def State.fanMean (s : State) (t : Nat) : Option (Word × Nat × Bool) := (s.conv (s.fanIn t).1).lmean.lookup (s.fanIn t).2

def State.fanInVal (s : State) (t : Nat) : Word := match s.fanMean t with | some x => x.1 | none => 0

/-- The input of table t is valid (R388). -/
def State.fanInValid (s : State) (t : Nat) : Bool :=
  s.bit F.FAN_BT_SRC_EN t && !s.plaus (s.fanIn t).1 &&
    match s.fanMean t with
    | some x => x.2.1 == s.adc.lmAt && x.2.2
    | none => false

/-- Xi and Di of a table in binary32. -/
def State.btX (s : State) (t i : Nat) : Word := fOfRat (toSigned 16 (s.get F.FAN_BT_PT_X t i)) 10
def State.btD (s : State) (t i : Nat) : Word := fOfRat (s.get F.FAN_BT_PT_D t i) 10

/-- The largest index from i − 1 downwards with Xi ≤ x. -/
def State.btIdx (s : State) (t : Nat) (x : Word) : Nat → Nat
  | 0 => 0
  | i + 1 => if fLe (s.btX t i) x then i else s.btIdx t x i

/-- dd of R387. -/
def State.btDuty (s : State) (t : Nat) (x : Word) : Word :=
  if fLe x (s.btX t 0) then s.btD t 0
  else if fLe (s.btX t 7) x then s.btD t 7
  else
    let i := s.btIdx t x 8
    (fAdd (s.btD t i) (fDiv (fMul (fSub (s.btD t (i + 1)) (s.btD t i)).val (fSub x (s.btX t i)).val).val
      (fSub (s.btX t (i + 1)) (s.btX t i)).val).val).val

/-- The Burrow duty of channel n at an evaluation in which a Burrow row applies (R387). -/
def State.fanBurrow (s : State) (n : Nat) : Nat × State :=
  let t := s.get F.FAN_CFG_TBL n
  let c := s.fanOf n
  if !s.fanInValid t then (s.dutyCode n (s.get F.FAN_BT_SRC_FAILD t) 10, s.setFan n { c with burOn := false })
  else if c.burOn && c.burAt = s.adc.lmAt then (c.bur, s)
  else
    let d := s.dutyOf n (s.btDuty t (s.fanInVal t))
    (d, s.setFan n { c with bur := d, burAt := s.adc.lmAt, burOn := true })

/-! ### Watch windows and failover (R382, R383) -/

/-- WCAUSE codes of R409. -/
def Wc.start : Nat := 1
def Wc.test : Nat := 2
def Wc.recovery : Nat := 3

/-- A watch event: the window restarts. -/
def State.fanWatch (s : State) (g cause : Nat) (test : Nat := 0) : State :=
  let sec := if cause = Wc.test then test else s.get F.FAN_GCFG_WATCH g
  let s := s.setFanGrp g { s.fanGrp g with watchEnd := some (s.now + 1000000 * sec) }
  (s.put F.FAN_GSTAT_WATCH 1 g).put F.FAN_GSTAT_WCAUSE cause g

/-- The window has passed. -/
def State.fanWatchEnd (s : State) (g : Nat) : State :=
  match (s.fanGrp g).watchEnd with
  | some t => if t ≤ s.now then ((s.setFanGrp g { s.fanGrp g with watchEnd := none }).put F.FAN_GSTAT_WATCH 0 g).put F.FAN_GSTAT_WCAUSE 0 g else s
  | none => s

def execFanWatchEnd (g : Fin 4) (s : State) : Out :=
  .next (match (s.fanGrp g.val).watchEnd with | some t => (s.reach t).fanWatchEnd g.val | none => s)

/-- A fault bit latches (R390); in a watch window the group enters failover (R383). -/
def State.fanLatch (s : State) (n : Nat) (f : Fld) : State :=
  if s.bit f n then s
  else
    let g := n / 8
    let s := ((s.put f 1 n).put F.FAN_EVT_FAULT 1 n).inc F.FAN_CNT_FAULTS 1 n
    let s := s.pdErr (s.ptTenant (s.cmdPoint Cls.fan n)) 0x02 f.lo
      (leBytes 1 n ++ leBytes 1 f.lo ++ leBytes 2 (s.fanSpeed n) ++ leBytes 2 (s.fanDuty n) ++ leBytes 1 (s.fanState n))
    if s.bit F.FAN_GSTAT_WATCH g && !s.bit F.FAN_GSTAT_FAILOVER g then
      ((s.put F.FAN_GSTAT_FAILOVER 1 g).put F.FAN_GEVT_FAILOVER 1 g).setFanGrp g { s.fanGrp g with foBy := n % 8 }
    else s

/-- Failover ends when no member has a fault bit latched (R383). -/
def State.fanFailoverEnd (s : State) (g : Nat) : State :=
  if s.bit F.FAN_GSTAT_FAILOVER g && (fanMembers g).all (fun n => s.word (R.FAN_FLT.at n) == 0) then s.put F.FAN_GSTAT_FAILOVER 0 g else s

/-! ### Group tests (R384) -/

/-- A test ends: the masks of its enabled members, TEST_END and the record. -/
def State.fanTestEnd (s : State) (g : Nat) : State :=
  match (s.fanGrp g).testEnd with
  | none => s
  | some t =>
    if s.now < t then s
    else
      let old := s.word (R.FAN_GSTAT.at g)
      let on := (fanMembers g).filter (fun n => s.bit F.FAN_CFG_EN n)
      let good (n : Nat) : Bool := s.fanState n == Fs.run && s.fanFast n && s.word (R.FAN_FLT.at n) == 0
      let mask (l : List Nat) : Nat := l.foldl (fun m n => m + 2 ^ (n % 8)) 0
      let s := s.setFanGrp g { s.fanGrp g with testEnd := none }
      let s := ((s.put F.FAN_GSTAT_TEST_PASS (mask (on.filter good)) g).put F.FAN_GSTAT_TEST_FAIL (mask (on.filter (fun n => !good n))) g).put F.FAN_GEVT_TEST_END 1 g
      s.auditEvent (R.FAN_GSTAT.at g) old (s.word (R.FAN_GSTAT.at g))

def execFanTestEnd (g : Fin 4) (s : State) : Out :=
  .next (match (s.fanGrp g.val).testEnd with | some t => (s.reach t).fanTestEnd g.val | none => s)

/-- Is the test request refused (R384, R408)? -/
def State.fanTestOk (s : State) (g : Nat) (data : Word) : Bool :=
  !(fanMembers g).any (fun n => (s.safeOf Cls.fan n).inSafe) && !(s.bit F.FAN_GSTAT_WATCH g && s.get F.FAN_GSTAT_WCAUSE g == Wc.test)
    && F.FAN_GCMD_TDUTY.of data != 0 && F.FAN_GCMD_TTIME.of data != 0

def State.fanTestWrite (s : State) (w : Who) (g : Nat) (data : Word) : State :=
  if !s.pdReach then s.dropWrite w (R.FAN_GCMD.at g) data
  else if w.tenant != 0 then s.refuseWrite w (R.FAN_GCMD.at g) data Res.refRights
  else if F.FAN_GCMD_TEST.of data = 0 then s.plainW Res.applied id
  else if !s.fanTestOk g data then s.plainW Res.refConfig id
  else s.plainW Res.applied (fun s =>
    let sec := F.FAN_GCMD_TTIME.of data
    let s := s.setFanGrp g { s.fanGrp g with testEnd := some (s.now + 1000000 * sec), tduty := F.FAN_GCMD_TDUTY.of data }
    s.fanWatch g Wc.test sec)

/-- A write of FAN_GCMD with TEST set. -/
def execFanGroupTest (p : Path) (g : Fin 4) (data : Word) (s : State) : Out :=
  .next (s.byPath p (fun w s => s.fanTestWrite w g.val (data ||| 0x80000000)))

/-! ### The evaluation (R378 to R389) -/

def State.fanCrit (s : State) (n : Nat) : Bool := s.bit F.FAN_CFG_CLASS n

/-- Supervision is lost (R386). -/
def State.fanSupLost (s : State) (n : Nat) : Bool :=
  (s.bit F.FAN_CFG_SUP_HOST n && s.bit F.HB_WDOG_STAT_EXPIRED) ||
    (s.bit F.FAN_CFG_SUP_CMD n &&
      match (s.fanOf n).lapseAt with
      | some t => t + 100000 * s.get F.FAN_SUPT_SUP_TIME n ≤ s.now
      | none => false)

/-- The room sensor of a critical channel has failed (R389). -/
def State.fanRoomFail (s : State) (n : Nat) : Bool :=
  s.fanCrit n && s.bit F.FAN_CFG_ROOM_EN n && !s.fanInValid (s.get F.FAN_CFG_TBL n)

/-- The target of a channel, its row of R385 and whether it comes from a Burrow table. In safe state a critical channel runs at 1,023
whatever entry it was loaded with, and never runs its table (R30, R385, R389, R393). -/
def State.fanTarget (s : State) (n : Nat) : Nat × Nat × Bool × State :=
  let g := n / 8
  let noBur (s : State) : State := s.setFan n { s.fanOf n with burOn := false }
  let st := s.fanState n
  if !s.bit F.FAN_CFG_EN n || (!s.fanCrit n && st = Fs.fault) then (0, Src.off, false, noBur s)
  else if s.bit F.FAN_GSTAT_FAILOVER g && !(n % 8 = (s.fanGrp g).foBy && s.word (R.FAN_FLT.at n) != 0) then
    (1023, Src.failover, false, noBur s)
  else if s.fanRoomFail n then (1023, Src.roomFull, false, noBur s)
  else if (s.safeOf Cls.fan n).inSafe then
    match (s.safeOf Cls.fan n).acting with
    | none => (if s.fanCrit n && (s.fanOf n).guardFull then 1023 else 0, Src.safe, false, noBur s)
    | some e =>
      if s.fanCrit n || e.option = Opt.full then (1023, Src.safe, false, noBur s)
      else if e.option = Opt.burrow then let b := s.fanBurrow n; (b.1, Src.safe, true, b.2)
      else (s.dutyCode n e.value 10, Src.safe, false, noBur s)
  else if (s.fanGrp g).testEnd.isSome then ((s.fanGrp g).tduty, Src.test, false, noBur s)
  else if s.fanSupLost n then
    if s.fanCrit n then (1023, Src.supFull, false, noBur s) else let b := s.fanBurrow n; (b.1, Src.burrow, true, b.2)
  else (s.fanCmdDuty n, Src.command, false, noBur s)

/-- The channel enters a state with an applied duty. -/
def State.fanGo (s : State) (n st duty : Nat) : State := (s.put F.FAN_STAT_STATE st n).put F.FAN_STAT_DUTY duty n

/-- The channel enters RUN: SETTLE starts. -/
def State.fanRun (s : State) (n duty : Nat) : State := (s.fanGo n Fs.run duty).setFan n { s.fanOf n with settleAt := s.now, lowAt := none }

/-- The duty of FAULT (R380). -/
def State.fanFaultDuty (s : State) (n : Nat) : Nat := if s.fanCrit n then 1023 else 0

/-- The conditions of R381 hold now. -/
def State.fanSlow (s : State) (n : Nat) : Bool :=
  (s.fanState n == Fs.run || s.fanState n == Fs.fault) && s.get F.FAN_LIM_SUP_DUTY n ≤ s.fanDuty n
    && (s.fanOf n).settleAt + 100000 * s.get F.FAN_TSUP_SETTLE n ≤ s.now && !s.fanFast n

/-- Step 1 of R378: the writes of EN, in their order, and cleared faults (R379). -/
def State.fanWrites (s : State) (n : Nat) : State :=
  let e := (s.fanOf n).enSeq
  let s := s.setFan n { s.fanOf n with enSeq := 0 }
  let st := s.fanState n
  if e = 1 then s.fanGo n Fs.disabled 0
  else if e = 2 || (e = 3 && st = Fs.disabled) || (st = Fs.fault && !s.bit F.FAN_FLT_KICK n) then s.fanGo n Fs.stop 0
  else s

/-- EN is written. -/
def FanChan.enWrite (c : FanChan) (en : Bool) : FanChan :=
  { c with enSeq := if !en then 1 else if c.enSeq = 1 || c.enSeq = 2 then 2 else 3 }

/-- Steps 1 to 3 of R378: EN and cleared faults, the end of a kick, timer expiries. -/
def State.fanTimers (s : State) (n : Nat) : State :=
  let s := s.fanWrites n
  let late := match (s.fanOf n).kickDue with | some t => t ≤ s.now | none => false
  let s :=
    if s.fanState n = Fs.kick && (s.fanOf n).good < 2 && late then
      (s.fanGo n Fs.fault (s.fanFaultDuty n)).fanLatch n F.FAN_FLT_KICK
    else s
  if s.fanSlow n then
    let t := (s.fanOf n).lowAt.getD s.now
    let s := s.setFan n { s.fanOf n with lowAt := some t }
    if t + 100000 * s.get F.FAN_TSUP_FT_TIME n ≤ s.now then s.fanLatch n F.FAN_FLT_TACH else s
  else s.setFan n { s.fanOf n with lowAt := none }

/-- The transitions of R379 with the target resolved. -/
def State.fanMove (s : State) (n target : Nat) : State :=
  let st := s.fanState n
  if st = Fs.disabled then s.fanGo n Fs.disabled 0
  else if st = Fs.stop then
    if target = 0 then s.fanGo n Fs.stop 0
    else if s.fanFast n then s.fanRun n target
    else
      let s := (s.fanGo n Fs.kick 1023).inc F.FAN_CNT_KICKS 1 n
      s.setFan n { s.fanOf n with good := 0, kickDue := some (s.now + 500000 * (s.get F.FAN_TSUP_KICK_TO n + 1)) }
  else if st = Fs.kick then
    if 2 ≤ (s.fanOf n).good then (s.fanRun n target).put F.FAN_EVT_KICK_END 1 n
    else if target = 0 then s.fanGo n Fs.stop 0
    else s
  else if st = Fs.run then
    if target = 0 then s.fanGo n Fs.stop 0
    else
      let rose := s.fanDuty n < target
      let s := s.fanGo n Fs.run target
      if rose then s.setFan n { s.fanOf n with settleAt := s.now } else s
  else s.fanGo n Fs.fault (s.fanFaultDuty n)

/-- Steps 4 and 5 of R378; an entry into row 6 or an exit from it sets MODE and is recorded (R386). -/
def State.fanResolve (s : State) (n : Nat) : State :=
  let was := s.get F.FAN_STAT_SRC n
  let old := s.word (R.FAN_STAT.at n)
  let lost := s.fanSupLost n
  let room := s.fanRoomFail n
  match s.fanTarget n with
  | (target, src, bur, s) =>
    let s := (((s.put F.FAN_STAT_SRC src n).put F.FAN_STAT_BURROW (b2n bur) n).put F.FAN_STAT_SUPLOST (b2n lost) n).put F.FAN_STAT_ROOMFAIL (b2n room) n
    let s := s.fanMove n target
    let row6 (x : Nat) : Bool := x == Src.burrow || x == Src.supFull
    if row6 was != row6 src then (s.put F.FAN_EVT_MODE 1 n).auditEvent (R.FAN_STAT.at n) old (s.word (R.FAN_STAT.at n)) else s

/-- Releases of members since the last evaluation open a watch window (R382). -/
def State.fanReleases (s : State) (g : Nat) : State :=
  let rel := (fanMembers g).any (fun n => (s.fanOf n).wasSafe && !(s.safeOf Cls.fan n).inSafe)
  let s := s.each (fanMembers g) (fun n s =>
    let c := s.fanOf n
    let b := (s.safeOf Cls.fan n).inSafe
    s.setFan n { c with wasSafe := b, guardFull := c.guardFull && b })
  if rel then (s.fanWatch g (if (s.fanGrp g).released then Wc.recovery else Wc.start)).setFanGrp g
      { s.fanGrp g with watchEnd := some (s.now + 1000000 * s.get F.FAN_GCFG_WATCH g), released := true }
  else s

/-- One evaluation of the channels given, in order. -/
def State.fanEvalOf (s : State) (ns : List Nat) : State :=
  let s := s.each (List.range 4) (fun g s => (((s.fanSync g).fanReleases g).fanWatchEnd g).fanTestEnd g)
  let s := s.each ns (fun n s => s.fanTimers n)
  let s := s.each (List.range 4) (fun g s => s.fanFailoverEnd g)
  s.each ns (fun n s => s.fanResolve n)

/-- The evaluation of every channel, 1 ms after the last (R378). -/
def State.fanEval (s : State) : State :=
  let s := s.reach (s.fan.evalAt + 1000)
  let s := { s with fan := { s.fan with evalAt := s.now } }
  s.fanEvalOf (List.range 32)

def execFanEval (s : State) : Out := .next (s.pdDo (fun s => s.fanEval))

/-- The kick timer of a channel in KICK expires: its evaluation latches KICK, unless two good periods have arrived. -/
def execFanKickTimeout (n : Fin 32) (s : State) : Out :=
  .next (if s.fanState n.val = Fs.kick then
      match (s.fanOf n.val).kickDue with | some t => (s.reach t).fanEvalOf [n.val] | none => s
    else s)

/-- FT_TIME ends on a channel that has been slow since (R381). -/
def execFanTachFault (n : Fin 32) (s : State) : Out :=
  .next (match (s.fanOf n.val).lowAt with
    | some t => (s.reach (t + 100000 * s.get F.FAN_TSUP_FT_TIME n.val)).fanEvalOf [n.val]
    | none => s)

/-- SUP_TIME ends while the command point is neither GOOD nor FORCED (R386). -/
def execFanSupervisionLost (n : Fin 32) (s : State) : Out :=
  .next (match (s.fanOf n.val).lapseAt with
    | some t =>
      if s.bit F.FAN_CFG_SUP_CMD n.val then (s.reach (t + 100000 * s.get F.FAN_SUPT_SUP_TIME n.val)).fanEvalOf [n.val] else s
    | none => s)

/-! ### Registers and function reset (R390, R391, R396 to R411) -/

/-- A FUNC_RST of a fan group (R391). -/
def State.fanFuncRst (s : State) (g : Nat) : State :=
  let s := (s.fanSync g).each (fanMembers g) (fun n s =>
    let s := ((s.setWord (R.FAN_FLT.at n) 0).setWord (R.FAN_EVT.at n) 0).setWord (R.FAN_CNT.at n) 0
    let s := s.setFan n { s.fanOf n with lowAt := none }
    if s.fanState n = Fs.fault then s.fanGo n Fs.stop 0 else s)
  let s := (s.setWord (R.FAN_GEVT.at g) 0).put F.FAN_GSTAT_FAILOVER 0 g
  (s.setFanGrp g { s.fanGrp g with testEnd := none }).fanWatch g Wc.recovery

/-- Fault bits cleared: the TACH conditions start afresh, and a recovery watch opens (R382, R390). -/
def State.fanFltWrite (s : State) (w : Who) (n : Nat) (data : Word) : State :=
  s.clearWrite w (R.FAN_FLT.at n) data (fun old new s =>
    if old = new then s else (s.setFan n { s.fanOf n with lowAt := none }).fanWatch (n / 8) Wc.recovery)

/-- A write of a FAN register while the link is up. A new command point is no command: the channel takes one with the point's next
write (R85, log entry 121). -/
def State.fanWriteUp (s : State) (w : Who) (a : Nat) (data : Word) : State :=
  let n := R.FAN_CFG.idx a
  let g := R.FAN_GCFG.idx a
  let t := R.FAN_BT_PT.idx a
  if R.FAN_CFG.hit a then
    s.cfgWrite w a data (fun x =>
      let old := s.word a
      let rest := x &&& 0x7FFFFFFF != old &&& 0x7FFFFFFF
      if (w.ifc != 0 && rest && !(s.fanState n = Fs.disabled || s.fanState n = Fs.stop)) || (F.FAN_CFG_CLASS.of x == 0 && F.FAN_CFG_ROOM_EN.of x == 1)
      then Res.refConfig else Res.applied) (fun _ new s => s.setFan n ((s.fanOf n).enWrite (F.FAN_CFG_EN.of new == 1)))
  else if R.FAN_CMD.hit a then
    s.cfgWrite w a data (fun _ => Res.applied) (fun _ _ s => s.fanQual n (s.ptQual (s.cmdPoint Cls.fan n)))
  else if R.FAN_FLT.hit a then s.fanFltWrite w n data
  else if R.FAN_GCFG.hit a then
    (s.fanSync g).cfgWrite w a data (fun x => if trigOk x (s.word (R.FAN_GTRIG.at g)) then Res.applied else Res.refConfig)
  else if R.FAN_GTRIG.hit a then
    s.cfgWrite w a data (fun x => if trigOk (s.word (R.FAN_GCFG.at g)) x then Res.applied else Res.refConfig) (fun _ _ s => s.fanTrigStart g)
  else if R.FAN_GCMD.hit a then s.fanTestWrite w g data
  else if R.FAN_BT_PT.hit a then
    let i := R.FAN_BT_PT.idx2 a
    let xOf (j : Nat) : Int := toSigned 16 (s.get F.FAN_BT_PT_X t j)
    s.cfgWrite w a data (fun v =>
      let x := toSigned 16 (F.FAN_BT_PT_X.of v)
      if (i = 0 || xOf (i - 1) < x) && (i = 7 || x < xOf (i + 1)) then Res.applied else Res.refConfig)
  else if R.FAN_BT_SRC.hit a then
    s.cfgWrite w a data (fun v => if F.FAN_BT_SRC_URGENT.of v = 1 && 3 < F.FAN_BT_SRC_ENTRY.of v then Res.refConfig else Res.applied)
  else if R.FAN_GUARD_FLT.hit a then s.clearWrite w a data (fun _ _ s => s)
  else s.kindWrite w a data

/-- A write of a FAN register (R396, R46). -/
def State.fanWrite (s : State) (w : Who) (a : Nat) (data : Word) : State :=
  if !s.pdReach then s.dropWrite w a data
  else if w.tenant != 0 then s.refuseWrite w a data Res.refRights
  else s.fanWriteUp w a data

/-- A write of 1 to bits of FAN_FLT. -/
def execFanFaultClear (p : Path) (n : Fin 32) (data : Word) (s : State) : Out :=
  .next (s.byPath p (fun w s => s.fanWrite w (R.FAN_FLT.at n.val) data))

/-- May the tenant read the FAN register (R396)? -/
def State.fanMayRead (s : State) (t a : Nat) : Bool :=
  t = 0 || 0x1A0800 ≤ a || s.ptTenant (s.cmdPoint Cls.fan (R.FAN_CFG.idx a)) = t

/-- The word a FAN register reads as: those that follow other state are computed. -/
def State.fanWord (s : State) (a : Nat) : Word :=
  let x := s.word a
  if R.FAN_CMD.hit a then setBits x 31 1 (b2n (s.loopBound Cls.fan (R.FAN_CMD.idx a)))
  else if R.FAN_SPEED.hit a then Word.ofN (s.fanSpeed (R.FAN_SPEED.idx a))
  else if R.FAN_BT_IN.hit a then
    let t := R.FAN_BT_IN.idx a
    setBits (Word.ofN (ofSigned 16 (max (-32768) (min 32767 (fCut (s.fanInVal t) 10 1))))) 31 1 (b2n (s.fanInValid t))
  else x

/-! ### The thermal guard (R392 to R394) -/

/-- THR in °C of a strap code. -/
def guardThr (c : Nat) : Nat := 50 + 5 * c

/-- TGUARD trips at or below this resistance, in Ω. -/
def guardOhm (c : Nat) : Nat := [3588, 2978, 2486, 2086, 1760, 1492, 1270, 1087].getD c 1087

/-- The power die samples TCRIT at its power-on reset (R392). -/
def State.guardStrap (s : State) (c : Nat) : State := (s.put F.FAN_GUARD_TCRIT c).put F.FAN_GUARD_THR (guardThr c)

/-- TG in 0.1 °C of a thermistor of 10 kΩ at 25 °C with B = 3,950 K, cut toward zero. A short reads hot: the greatest value
(R394, log entry 132). The resistance is num / den Ω. -/
def guardTemp (num den : Nat) : Int :=
  if num = 0 then 32767 else
  let q := (fAdd (fDiv 0x3F800000 0x43951333).val (fDiv (fLn (fOfRat num (10000 * den))) (fOfNat 3950)).val).val
  let t := (fSub (fDiv 0x3F800000 q).val 0x43889333).val
  if fFinite t then max (-32768) (min 32767 (fCut t 10 1)) else 32767

/-- TS0 (j = 0) or TS1 in 0.1 °C from its raw reading in that unit, less its offset from OTP in K (R700, R702), halves rounded up
(log entry 132). -/
def State.guardTs (s : State) (j : Nat) (raw : Int) : Int :=
  (2 * (raw * 2 ^ 149 - 10 * fAt (s.otp (0x784 + 4 * j)) (-149)) + 2 ^ 149) / 2 ^ 150

/-- The pull-up of TGUARD in units of 2⁻¹⁴⁹ Ω, from OTP (R702); 10 kΩ (R392) where OTP holds none (log entry 132). -/
def State.guardPull (s : State) : Nat :=
  let x := s.otp 0x78C
  if fFinite x && 0 < fAt x (-149) then (fAt x (-149)).toNat else 10000 * 2 ^ 149

/-- A resistance of one Ω, in the units of a reading times the pull-up. -/
def guardUnit : Nat := 10000 * 2 ^ 149

/-- A FAN_GUARD_FLT bit is set (R394): source 195, now or when the link is next up, and tenant 0's error record. -/
def State.guardFlt (s : State) (f : Fld) : State :=
  if s.bit f then s
  else
    let s := s.put f 1
    let s := if s.linkUp then s.icPulse 195 else { s with fan := { s.fan with guardIrq := true } }
    s.pdErr 0 0x02 f.lo (leBytes 1 f.lo ++ leBytes 2 (s.get F.FAN_GUARD_T0_TS0) ++ leBytes 2 (s.get F.FAN_GUARD_T0_TS1) ++ leBytes 2 (s.get F.FAN_GUARD_T1_TG))

/-- One sample, 1 ms after the last: the raw readings of TS0 and TS1 in 0.1 °C, the resistance at TGUARD in ten-thousandths of its
pull-up, and whether SYS_SHDN_N is driven low from outside. -/
def State.guardSample (s : State) (raw0 raw1 : Int) (part : Nat) (extLow : Bool) : State :=
  let ts0 := s.guardTs 0 raw0
  let ts1 := s.guardTs 1 raw1
  let ohm := part * s.guardPull
  let s := s.reach (s.fan.guardAt + 1000)
  let c := s.get F.FAN_GUARD_TCRIT
  let thr : Int := 10 * (guardThr c : Nat)
  let tg := guardTemp ohm guardUnit
  let s := ((s.put F.FAN_GUARD_T0_TS0 (ofSigned 16 ts0)).put F.FAN_GUARD_T0_TS1 (ofSigned 16 ts1)).put F.FAN_GUARD_T1_TG (ofSigned 16 tg)
  let s := s.put F.FAN_GUARD_PIN (b2n (!(s.bit F.FAN_GUARD_TRIP || extLow)))
  let x := s.fan
  let cool := decide (ts0 ≤ thr + 300) && decide (ts1 ≤ thr + 300) && decide (tg ≤ thr - 100)
  let differ := decide (100 < (ts0 - ts1).natAbs)
  let since (c : Bool) (t : Option Nat) : Option Nat := if c then some (t.getD s.now) else none
  { s with fan := { x with
      guardAt := s.now
      extLow := extLow
      hot0 := if thr + 400 ≤ ts0 then x.hot0 + 1 else 0
      hot1 := if thr + 400 ≤ ts1 then x.hot1 + 1 else 0
      hotG := if ohm ≤ guardOhm c * guardUnit then x.hotG + 1 else 0
      coolAt := since cool x.coolAt
      diffAt := since differ x.diffAt
      openAt := since (decide (500000 * guardUnit < ohm)) x.openAt } }

def execGuardSample (raw0 raw1 : Int) (part : Nat) (extLow : Bool) (s : State) : Out := .next (s.pdDo (fun s => s.guardSample raw0 raw1 part extLow))

/-- A temperature has been at its threshold for 3 samples (R393). -/
def State.guardHot (s : State) : Bool := 3 ≤ s.fan.hot0 || 3 ≤ s.fan.hot1 || 3 ≤ s.fan.hotG

/-- The guard's own part of a trip (R393); the outputs' is in Supervision. -/
def State.guardTrip (s : State) : State :=
  (((s.put F.FAN_GUARD_TRIP 1).put F.FAN_GUARD_PIN 0).inc F.FAN_GUARD_CNT_TRIPS).each (List.range 32)
    (fun n s => s.setFan n { s.fanOf n with guardFull := true })

/-- Every temperature has been 10 K below for 60 s: the guard releases SYS_SHDN_N (R393). -/
def execGuardRelease (s : State) : Out :=
  .next (match s.fan.coolAt with
    | some t =>
      if s.bit F.FAN_GUARD_TRIP then (((s.reach (t + 60000000)).put F.FAN_GUARD_TRIP 0).put F.FAN_GUARD_PIN (b2n !s.fan.extLow)) else s
    | none => s)

def execGuardSenseDiff (s : State) : Out :=
  .next (match s.fan.diffAt with | some t => (s.reach (t + 1000000)).guardFlt F.FAN_GUARD_FLT_SENSE_DIFF | none => s)

def execGuardTgOpen (s : State) : Out :=
  .next (match s.fan.openAt with | some t => (s.reach (t + 1000000)).guardFlt F.FAN_GUARD_FLT_TG_OPEN | none => s)

end Sys2Proof.Machine
end

