-- ==== Sys2Proof/Machine/CoilMotion.lean ====
section
/-! DEFINITION. Coil drive commands of motion sensing, learning and protection (chapter "Coil drive: motion sensing,
minimum hold and protection"). -/

namespace Sys2Proof.Machine

/-! ### Observations -/

/-- The closing observation ends with the codes of the voltage converter counted from the entry into FASTDECAY (R280). The result
acts at the next boundary (R287). -/
def State.cdKinkEnd (s : State) (n : Nat) (vs : List Int) : State :=
  let c := s.cdOf n
  if c.clamp || !c.closeObs || c.closeSig.isSome then s
  else
    let first := (c.clampEnd - c.fdAt + 100 * s.get F.CD_MOTWIN_BLANK n + 3) / 4
    s.setCd n { c with
      closeSig := some (kinkResult (vs.map (s.cdVolt n)) first (250 * s.get F.CD_MOTWIN_KWIN n) (s.get F.CD_MOTCFG_KTH n)) }

def execCdKinkObservationEnd (n : Nat) (vs : List Int) (s : State) : Out := .next (s.pdDo (fun s => s.cdKinkEnd (n % 32) vs))

/-- The coil current in steps from the codes of CA of a channel and of the odd channel of its pair. -/
def State.cdCoil (s : State) (n : Nat) (p : Nat × Nat) : Nat := s.cdCur n 0 p.1 + (if s.cdPaired n then s.cdCur (n + 1) 0 p.2 else 0)

/-- The dip observation of a pair ends with the samples from its entry into PULLIN or REPULL (R281). The result acts at the next
boundary (R287). -/
def State.cdDipEnd (s : State) (n : Nat) (is : List (Nat × Nat)) : State :=
  let n := n / 2 * 2
  let c := s.cdOf n
  if !s.cdPaired n || c.openAt.isNone || c.sig.isSome then s
  else s.setCd n { c with sig := some (dipResult (is.map (s.cdCoil n)) (s.get F.CD_MOTCFG_DIP_TH n)) }

def execCdDipObservationEnd (n : Nat) (is : List (Nat × Nat)) (s : State) : Out := .next (s.pdDo (fun s => s.cdDipEnd (n % 32) is))

/-- The excess of each sample of a run over tgt of its cycle (R282): the samples lie 4 µs apart from the time t on. -/
def State.cdExcess (s : State) (n t : Nat) (run : List (Nat × Nat)) : List Nat :=
  run.zipIdx.map (fun p => s.cdCoil n p.1 - s.cdTgtAt n (t + 4 * p.2))

/-- A run of samples above the target, the first of them at t, ends a bump observation (R282, R290, R296). Its result acts at the
next boundary (R287). -/
def State.cdBump (s : State) (n t : Nat) (run : List (Nat × Nat)) : State :=
  let c := s.cdOf n
  let r := bumpResult (s.cdExcess n t run) (s.get F.CD_MOTCFG_BUMP_TH n)
  if !c.armed || r = Mr.none_ then s
  else s.setCd n { c with
    armed := false, bumped := true,
    bumpSig := if s.cdPhase n = Ph.probe then some (r, (t - c.phaseAt) / 4) else c.bumpSig,
    guard := if s.cdPhase n = Ph.hold && s.cdLearned n && c.guard != Mr.clear then r else c.guard }

def execCdReleaseBump (n t : Nat) (run : List (Nat × Nat)) (s : State) : Out := .next (s.pdDo (fun s => s.cdBump (n % 32) t run))

/-- An observation watches the contact (R285): the opening or closing of a movement, HOLD (R290) or PROBE (R296). -/
def State.cdWatching (s : State) (n : Nat) (op : Bool) : Bool :=
  let c := s.cdOf n
  let ph := s.cdPhase n
  ph = Ph.probe || (if op then ph = Ph.hold || (c.openAt.isSome && !c.openEnd) else c.closeObs)

/-- A contact edge of a channel (R284, R285): of OP_DI or CL_DI, to or from its active level, at time t after `raw` raw
changes from the time `first` on. What it completes acts at the next boundary (R287). -/
def State.cdContact (s : State) (n first t raw : Nat) (op active : Bool) : State :=
  let en := if op then s.bit F.CD_ENDC_OP_EN n else s.bit F.CD_ENDC_CL_EN n
  let c := s.cdOf n
  let ph := s.cdPhase n
  if !en || !s.cdLead n || !s.cdWatching n op then s
  else if 8 < raw || first + 20000 < t + 100 * s.get F.CD_ENDC_DEB n then
    let s := s.inc F.CD_MOT_CNT_CHATTER 1 n
    s.setCd n { c with opChat := c.opChat || op, clChat := c.clChat || !op, learnChat := true }
  else if ph = Ph.probe && op != active then
    s.setCd n (if op then { c with opEdge := some t } else { c with clEdge := some t })
  else if ph = Ph.hold && op && !active && s.cdLearned n then s.setCd n { c with guard := Mr.clear }
  else if op && active && c.openAt.isSome && !c.openEnd && c.opEdge.isNone then s.setCd n { c with opEdge := some t }
  else if !op && active && c.closeObs && c.clEdge.isNone then s.setCd n { c with clEdge := some t }
  else s

/-- The raw level of a channel's contact input changes (R284, R415): an input with EN 0 is not sampled and reads 0. POL gives the
active level. -/
def State.cdRawEdge (s : State) (n first t raw : Nat) (op level : Bool) : State :=
  let di := s.get (if op then F.CD_ENDC_OP_DI else F.CD_ENDC_CL_DI) n
  if !s.bit F.DI_CFG_EN di then s
  else
    ({ s with fio := { s.fio with raw := bv64Set s.fio.raw di level } }).cdContact n first t raw op
      (level == s.bit (if op then F.CD_ENDC_OP_POL else F.CD_ENDC_CL_POL) n)

def execContactEdge (n first t raw : Nat) (op level : Bool) (s : State) : Out :=
  .next (s.pdDo (fun s => s.cdRawEdge (n % 32) first t raw op level))

/-! ### The learning window and runs -/

/-- A run ends by cancel or by the window's close (R295, R298). -/
def State.cdLearnStop (s : State) (n code : Nat) : State :=
  let k := s.get F.CD_LEARN_STAT_KIND n
  if k = 1 then
    let live := s.cdStrokeLive n
    let s := s.cdLearnEnd n code
    if live then s.cdFastDecay n else s.cdEnterIdle n
  else if k = 2 then (s.cdLearnEnd n code).cdPull n Ph.repull
  else s

def State.cdWindowClose (s : State) : State :=
  let s := (s.put F.CD_LWIN_OPEN 0).put F.CD_LWIN_MINUTES 0
  s.each (List.range 32) (fun n s => s.cdLearnStop n Ln.window)

/-- A write of CD_LWIN (R291). -/
def State.cdLwinWrite (s : State) (w : Who) (data : Word) : State :=
  s.pdGate w (R.CD_LWIN.at) data (fun s =>
    s.cfgWrite w (R.CD_LWIN.at) data (fun x => if F.CD_LWIN_MINUTES.of x ≤ 1440 then Res.applied else Res.refConfig)
      (fun _ new s => if F.CD_LWIN_MINUTES.of new = 0 then s.cdWindowClose else s.put F.CD_LWIN_OPEN 1))

def execCdLwinWrite (p : Path) (data : Word) (s : State) : Out := .next (s.byPath p (fun w s => s.cdLwinWrite w data))

/-- The window counts down once a minute (R291). -/
def State.cdLwinMinute (s : State) : State :=
  if !s.bit F.CD_LWIN_OPEN then s
  else
    let m := s.get F.CD_LWIN_MINUTES - 1
    let s := s.put F.CD_LWIN_MINUTES m
    if m = 0 then s.cdWindowClose else s

def execCdLwinMinute (s : State) : Out := .next s.cdLwinMinute

/-- Runs active (R291). -/
def State.cdRuns (s : State) : Nat := ((List.range 32).filter (fun n => s.get F.CD_LEARN_STAT_KIND n != 0)).length

/-- The conditions of R292. -/
def State.cdLearnOk (s : State) (n : Nat) (stroke : Bool) : Bool :=
  let ph := s.cdPhase n
  s.bit F.CD_LWIN_OPEN && s.cdRuns ≤ s.get F.CD_LWIN_MAXRUN && s.cdMode n = Md.pullHold && s.word (R.CD_FLT.at n) = 0
    && ph != Ph.safe && ph != Ph.shed && !s.cdRestricted n && !s.cdShedNow n && s.cdLead n
    && (if stroke then ph = Ph.idle && !cdOn (s.cdOf n).cmdv else ph = Ph.hold && (s.cdOf n).phaseAt + 1000000 ≤ s.now)

def State.cdLearnKind (s : State) (n kind : Nat) : State :=
  (s.put F.CD_LEARN_STAT_KIND kind n).put F.CD_LEARN_STAT_STEP 0 n

/-- A stroke learn starts with step PULL of its first cycle (R293, R300). A closing still observed is none of the run's. -/
def State.cdStrokeStart (s : State) (n : Nat) : State :=
  let s := (((s.cdCloseTry n).cdCutShort n).cdGo n Ph.stroke).cdLearnKind n 1
  let s := s.cdMod n (fun c => { c with
    opTimes := [], clTimes := [], opLeads := [], clLeads := [], learnChat := false, opSeen := false, clSeen := false })
  s.cdPullStart n

/-- The next probe level, or the end without a release (R296, R297). -/
def State.cdProbeLevel (s : State) (n lvl : Nat) (below : Bool) : State :=
  if below || lvl < s.get F.CD_PRB_CFG_PFLOOR n then
    let s := s.cdSetIdo n (s.cdOf n).held
    let s := s.cdLearnEnd n Ln.noDrop
    (s.cdGo n Ph.hold).cdMod n (fun c => { c with armed := false, bumped := false })
  else
    (s.inc F.CD_LEARN_STAT_STEP 1 n).cdMod n (fun c =>
      { c with
        lvl := lvl, armed := false, bumped := false, bumpSig := none, opEdge := none, clEdge := none, opChat := false,
        clChat := false, phaseAt := s.now })

/-- The step of a probe in mA, halves rounded up, as it is computed at the start (R296). -/
def State.cdProbeStep (s : State) (n : Nat) : Nat := Nat.max 1 ((2 * (s.cdOf n).i0 * s.get F.CD_PRB_CFG_PSTEP n + 100) / 200)

def State.cdProbeStart (s : State) (n : Nat) : State :=
  let i0 := s.cdHold n
  let s := ((s.cdGo n Ph.probe).cdLearnKind n 2).cdMod n (fun c => { c with i0 := i0, held := i0 })
  let st := s.cdProbeStep n
  let s := s.cdMod n (fun c => { c with pstep := st })
  s.cdProbeLevel n (i0 - st) (i0 < st)

/-- A write of CD_LEARN (R292, R322). It acts at position 4 of R251: what stands before it there has acted. -/
def State.cdLearnWrite (s : State) (w : Who) (n : Nat) (data : Word) : State :=
  let a := R.CD_LEARN.at n
  s.pdGate w a data (fun s =>
    let s := if s.cdLead n then s.cdEarlyEvents n (s.get F.CD_MEAS_I_MEAS n) else s
    let st := F.CD_LEARN_STROKE.of data
    let pr := F.CD_LEARN_PROBE.of data
    let ca := F.CD_LEARN_CANCEL.of data
    let res := if 1 < st + pr + ca then Res.refConfig
      else if st = 1 then (if s.cdLearnOk n true then Res.applied else Res.refConfig)
      else if pr = 1 then (if s.cdLearnOk n false then Res.applied else Res.refConfig)
      else Res.applied
    s.auditW w (Tgt.reg a 0 data) res (fun s =>
      if res != Res.applied then s
      else if st = 1 then s.cdStrokeStart n
      else if pr = 1 then s.cdProbeStart n
      else if ca = 1 then s.cdLearnStop n Ln.cancel else s))

def execCdLearnStroke (p : Path) (n : Nat) (s : State) : Out := .next (s.byPath p (fun w s => s.cdLearnWrite w (n % 32) 1))
def execCdLearnProbe (p : Path) (n : Nat) (s : State) : Out := .next (s.byPath p (fun w s => s.cdLearnWrite w (n % 32) 2))
def execCdLearnCancel (p : Path) (n : Nat) (s : State) : Out := .next (s.byPath p (fun w s => s.cdLearnWrite w (n % 32) 4))

/-- The lower middle of a list (R294). -/
def median (l : List Nat) : Nat := (l.mergeSort (· ≤ ·)).getD ((l.length - 1) / 2) 0
def medianI (l : List Int) : Int := (l.mergeSort (· ≤ ·)).getD ((l.length - 1) / 2) 0

/-- A movement's learned stroke is valid (R294): enough CLEAR results, close enough together. -/
def strokeValid (ts : List Nat) (cycles : Nat) : Bool :=
  let m := median ts
  let spread := ts.foldl Nat.max 0 - ts.foldl Nat.min (ts.headD 0)
  (2 * cycles + 2) / 3 ≤ ts.length && !ts.isEmpty && (spread ≤ 250 || 5 * spread ≤ m)

/-- The results of a stroke learn (R294). -/
def State.cdStrokeResult (s : State) (n : Nat) : State :=
  let c := s.cdOf n
  let cy := s.get F.CD_STK_PAR_CYCLES n
  let opL := s.cdPaired n || s.bit F.CD_ENDC_OP_EN n
  let opV := opL && strokeValid c.opTimes cy
  let clV := strokeValid c.clTimes cy
  let opT := median c.opTimes
  let clT := median c.clTimes
  let opLead := medianI c.opLeads
  let clLead := medianI c.clLeads
  let early := fun (l : Int) (t : Nat) => (2000 + (t : Int)) < 4 * l
  let stuck := (s.bit F.CD_ENDC_OP_EN n && !c.opSeen) || (s.bit F.CD_ENDC_CL_EN n && !c.clSeen)
  let s := (s.put F.CD_STK_RES_OP_VALID (b2n opV) n).put F.CD_STK_RES_CL_VALID (b2n clV) n
  let s := (s.put F.CD_STK_RES_T_OPEN (if opV then opT / 25 else 0) n).put F.CD_STK_RES_T_CLOSE (if clV then clT / 25 else 0) n
  let s := s.put F.CD_STK_RES_EARLY (b2n ((opV && early opLead opT) || (clV && early clLead clT))) n
  let s := (s.put F.CD_STK_RES_CHAT (b2n c.learnChat) n).put F.CD_STK_RES_STUCK (b2n stuck) n
  let s := (s.put F.CD_STK_LEAD_OP_LEAD (ofSigned 16 (if opV then opLead else 0)) n).put F.CD_STK_LEAD_CL_LEAD
    (ofSigned 16 (if clV then clLead else 0)) n
  let code := if (!opL || opV) && clV then Ln.done
    else if (opL && c.opTimes.isEmpty) || c.clTimes.isEmpty then Ln.noMotion else Ln.inconsistent
  s.cdLearnEnd n code

/-- A step of a stroke learn ends and the next begins (R293). RELEASE ends once the clamp phase and the observation have. -/
def State.cdStrokeStep (s : State) (n : Nat) : State :=
  if s.cdPhase n != Ph.stroke then s
  else
    let st := s.get F.CD_LEARN_STAT_STEP n
    let next := fun (s : State) => s.inc F.CD_LEARN_STAT_STEP 1 n
    let c := s.cdOf n
    if st % 4 = 0 then
      match c.pullDue with
      | none => s
      | some t =>
        let s := next (((s.reach t).cdMod n (fun c => { c with openEnd := true })).cdOpenTry n)
        s.cdMod n (fun c => { c with pullDue := none, phi := 0, holdDue := some (s.now + 1000 * s.get F.CD_STK_PAR_DWELL n) })
    else if st % 4 = 1 then
      match c.holdDue with
      | none => s
      | some t => ((next (s.reach t)).cdMod n (fun c => { c with holdDue := none })).cdClampStart n
    else if st % 4 = 2 then
      if c.clamp || (c.closeObs && c.closeSig.isNone) then s
      else
        let s := s.cdCloseTry n
        if s.cdPhase n != Ph.stroke then s else
        let s := next (s.reach (c.fdAt + 1000 * s.get F.CD_MOTWIN_KWIN n))
        s.cdMod n (fun c => { c with holdDue := some (s.now + 1000 * s.get F.CD_STK_PAR_REST n) })
    else
      match c.holdDue with
      | none => s
      | some t =>
        let s := (s.reach t).cdMod n (fun c => { c with holdDue := none })
        if 4 * s.get F.CD_STK_PAR_CYCLES n ≤ st + 1 then (s.cdStrokeResult n).cdEnterIdle n else (next s).cdPullStart n

def execCdStrokeStepEnd (n : Nat) (s : State) : Out := .next (s.pdDo (fun s => s.cdStrokeStep (n % 32)))

/-- A probe level's dwell ends (R296): a release still open is decided, else the next lower level is applied. -/
def State.cdProbeDwell (s : State) (n : Nat) : State :=
  if s.cdPhase n != Ph.probe then s
  else
    let s := s.reach ((s.cdOf n).phaseAt + 10000 * s.get F.CD_PRB_CFG_PDWELL n)
    let s := s.cdProbeTry n true
    if s.cdPhase n != Ph.probe then s
    else
      let lvl := (s.cdOf n).lvl
      let st := (s.cdOf n).pstep
      (s.cdMod n (fun c => { c with held := lvl })).cdProbeLevel n (lvl - st) (lvl < st)

def execCdProbeDwellEnd (n : Nat) (s : State) : Out := .next (s.pdDo (fun s => s.cdProbeDwell (n % 32)))

/-- A write of CD_HOLD_LRN restores I_DO and recomputes I_LHOLD (R299); a change is recorded like any other (R297). -/
def State.cdHoldLrnWrite (s : State) (w : Who) (n : Nat) (data : Word) : State :=
  let a := R.CD_HOLD_LRN.at n
  s.pdGate w a data (fun s => s.cfgWrite w a data (fun _ => Res.applied) (fun old new s =>
    let s := if F.CD_HOLD_LRN_VALID.of new = 1 then s.put F.CD_HOLD_LRN_I_LHOLD (s.cdLHold n) n else s
    if s.word a = old then s
    else s.auditEvent a (Word.ofN (F.CD_HOLD_LRN_I_LHOLD.of old)) (Word.ofN (s.get F.CD_HOLD_LRN_I_LHOLD n))))

def execCdHoldLrnWrite (p : Path) (n : Nat) (data : Word) (s : State) : Out :=
  .next (s.byPath p (fun w s => s.cdHoldLrnWrite w (n % 32) data))

/-! ### Thermal model, energy window -/

/-- E_WIN in units of 0.5 nJ (R305). -/
def State.cdEwin (s : State) (n : Nat) : Nat := ((s.cdOf n).buckets.take (s.get F.CD_EW_CFG_WIN n)).sum

def State.cdTamb (s : State) (n : Nat) : Word := (fOfInt (toSigned 8 (s.get F.CD_TH_R_TAMB n))).val
def State.cdTw (s : State) (n : Nat) : Word := (s.cdOf n).tw.getD (s.cdTamb n)
def State.cdTb (s : State) (n : Nat) : Word := (s.cdOf n).tb.getD (s.cdTamb n)

/-- COOLED (R304). -/
def State.cdCooled (s : State) (n : Nat) : State :=
  let lim := (fOfInt ((s.get F.CD_TH_LIM_TW_MAX n : Int) - s.get F.CD_TH_LIM_HYST n)).val
  let v := fLe (s.cdTw n) lim && 2 * s.cdEwin n ≤ 200000000 * s.get F.CD_EW_CFG_E_MAX n
  let s' := s.put F.CD_TH_STAT_COOLED (b2n v) n
  if v && !s.bit F.CD_TH_STAT_COOLED n && (s.bit F.CD_FLT_THERM n || s.bit F.CD_FLT_EWIN n) then s'.put F.CD_EVT_COOLED 1 n else s'

/-- Tw and Tb take new values; both are reported in 0.1 °C (R302, R328), and Tw at TW_MAX latches THERM (R304). -/
def State.cdTemps (s : State) (n : Nat) (tw tb : Word) : State :=
  let s := s.cdMod n (fun c => { c with tw := some tw, tb := some tb })
  let s := (s.put F.CD_TH_STAT_TW (ofSigned 15 (fCut tw 10 1)) n).put F.CD_TH_STAT_TB (ofSigned 15 (fCut tb 10 1)) n
  let s := s.cdCooled n
  if fLe (fOfNat (s.get F.CD_TH_LIM_TW_MAX n)) tw && !s.bit F.CD_FLT_THERM n then s.cdTrip n F.CD_FLT_THERM else s

def fv (r : FRes) : Word := r.val

/-- The update of R302 in binary32, in the order written; msq is the mean of i² in A² over the samples since the last one. -/
def State.cdThermal (s : State) (n : Nat) : State :=
  if !s.cdLead n then s
  else
    let c := s.cdOf n
    let msq := if c.sqCnt = 0 then 0 else fOfRat (25 * c.sqSum) (16000000 * c.sqCnt)
    let s := s.setCd n { c with sqSum := 0, sqCnt := 0 }
    let tw := s.cdTw n
    let tb := s.cdTb n
    let rwb := fOfRat (s.get F.CD_TH_G_RWB n) 10
    let rba := fOfRat (s.get F.CD_TH_G_RBA n) 10
    let cw := fOfRat (s.get F.CD_TH_C_CW n) 100
    let cb := fOfRat (s.get F.CD_TH_C_CB n) 100
    let ms := fOfRat 1 1000
    let rw := fv (fMul (fOfRat (s.get F.CD_TH_R_RC20 n) 100)
      (fv (fAdd (fOfNat 1) (fv (fMul (fOfRat 393 100000) (fv (fSub tw (fOfNat 20))))))))
    let p := fv (fMul msq rw)
    let q := fv (fDiv (fv (fSub tw tb)) rwb)
    let tw' := fv (fAdd tw (fv (fDiv (fv (fMul (fv (fSub p q)) ms)) cw)))
    let tb' := fv (fAdd tb (fv (fDiv (fv (fMul (fv (fSub q (fv (fDiv (fv (fSub tb (s.cdTamb n))) rba)))) ms)) cb)))
    s.cdTemps n tw' tb'

def execCdThermalUpdate (n : Nat) (s : State) : Out := .next (s.pdDo (fun s => s.cdThermal (n % 32)))

/-- A resistance window of 100 ms ends and the next begins (R303): Σv in 0.1 V over Σi in converter steps. The corrections are
in binary32 (R9). -/
def State.cdRwWindow (s : State) (n : Nat) : State :=
  let ph := s.cdPhase n
  let c := s.cdOf n
  let sumV := c.rwV.toNat
  let sumI := c.rwI
  let ok := c.rwOk && (ph = Ph.hold || ph = Ph.prop || ph = Ph.safe) && sumI != 0 && s.cdLead n
  let s := s.reach (c.rwAt + 100000)
  let s := s.setCd n { c with rwOk := true, rwRef := none, rwV := 0, rwI := 0, rwAt := s.now }
  if !ok then s
  else
    -- rm = Σv / Σi = (sumV / 10) / (sumI × 1.25 / 1000) ohm
    let num := sumV * 1000 * 100
    let den := sumI * 125 * 10
    let rc := s.get F.CD_TH_R_RC20 n
    if 10 * num * 100 < 7 * rc * den || 16 * rc * den < 10 * num * 100 then s.inc F.CD_TH_RW_RW_BAD 1 n
    else
      let rm := fOfRat num den
      let k := fv (fDiv (fv (fSub (fv (fDiv rm (fOfRat rc 100))) (fOfNat 1))) (fOfRat 393 100000))
      let tm := fv (fAdd (fOfNat 20) k)
      let tw := s.cdTw n
      let tw' := fv (fAdd tw (fv (fDiv (fv (fSub tm tw)) (fOfNat 4))))
      let s := ((s.put F.CD_TH_RW_RM (Nat.min (num * 100 / den) 65535) n).put F.CD_TH_RW_AGE 0 n).cdMod n (fun c => { c with ageMs := 0 })
      let s := s.cdTemps n tw' (s.cdTb n)
      if fLe (fOfNat (s.get F.CD_TH_LIM_TW_MAX n)) tm && !s.bit F.CD_FLT_THERM n then s.cdTrip n F.CD_FLT_THERM else s

def execCdRwWindow (n : Nat) (s : State) : Out := .next (s.pdDo (fun s => s.cdRwWindow (n % 32)))

/-- The energy of one millisecond joins the bucket in progress, and the window is checked (R305). The buckets of the odd channel of
a pair run on, without energy: the pair counts on its even channel. -/
def State.cdEnergy (s : State) (n : Nat) : State :=
  let c := s.cdOf n
  let full := 1000 ≤ c.bucketMs
  let b := if full then 0 :: c.buckets else c.buckets
  let b := match b with | [] => [c.enSum] | x :: l => (x + c.enSum) :: l
  let aged := 1000 ≤ c.ageMs + 1
  let s := s.setCd n { c with
    enSum := 0, buckets := b.take 61, bucketMs := if full then 1 else c.bucketMs + 1, ageMs := if aged then 0 else c.ageMs + 1 }
  let s := if aged then s.inc F.CD_TH_RW_AGE 1 n else s
  if !s.cdLead n then s
  else
    let e := s.cdEwin n
    let s := (s.setWord (R.CD_EW_STAT.at n) (Word.ofN (e / 2000000))).cdCooled n
    if 200000000 * s.get F.CD_EW_CFG_E_MAX n < e && !s.bit F.CD_FLT_EWIN n then s.cdTrip n F.CD_FLT_EWIN else s

def execCdEnergyCheck (n : Nat) (s : State) : Out := .next (s.pdDo (fun s => s.cdEnergy (n % 32)))

/-! ### Die dissipation budget -/

/-- BUDGET in W. -/
def State.cdBudgetW (s : State) : Word := fOfRat (s.get F.CD_DBUD_BUDGET) 100

/-- The dissipation of a channel in the last millisecond, in W (R306): i² × R_PATH × 4 µs by switch state, and the clamp energy,
over 1 ms. -/
def State.cdDissipation (s : State) (n : Nat) : Word :=
  let c := s.cdOf n
  let path := fun (sum j : Nat) => fv (fMul (fOfRat sum 160000000) (s.cdOtp n j))
  fv (fAdd (fv (fAdd (path c.pathE 6) (path c.pathS 7))) (fOfRat c.pathC 2000000))

/-- The 1 ms estimate: Ptot of all channels joins the filter (R306), and VCOIL is its mean over that millisecond (R277). -/
def State.cdBudget (s : State) (vcoil : Nat) : State :=
  let s := s.put F.CD_GSTAT_VCOIL vcoil
  let ptot := (List.range 32).foldl (fun p n => fv (fAdd p (s.cdDissipation n))) 0
  let s := { s with cd := s.cd.map (fun (e : Nat × CdChan) => (e.1, { e.2 with pathE := 0, pathS := 0, pathC := 0 })) }
  let pf := fv (fAdd s.cdg.pf (fv (fDiv (fv (fSub ptot s.cdg.pf)) (fOfNat 128))))
  let low := fLt pf (fv (fMul (fOfRat 9 10) s.cdBudgetW))
  let top := s.cdStage = 6 && fLt s.cdBudgetW pf
  let s := { s with cdg := { s.cdg with pf := pf, lowMs := if low then s.cdg.lowMs + 1 else 0, overMs := if top then s.cdg.overMs + 1 else 0, overDone := s.cdg.overDone && top } }
  s.put F.CD_DBUD_STAT_PF (Nat.min (fCut pf 1000 1).toNat 65535)

def execCdBudgetUpdate (vcoil : Nat) (s : State) : Out := .next (s.pdDo (fun s => s.cdBudget vcoil))

/-- The check of every 50 ms: the stage rises by one while Pf exceeds the budget (R307). -/
def State.cdStageRise (s : State) : State :=
  let s := match s.cdg.riseAt with | some t => s.reach (t + 50000) | none => s
  let s := { s with cdg := { s.cdg with riseAt := some s.now } }
  if s.cdStage < 6 && fLt s.cdBudgetW s.cdg.pf then
    let s := (s.put F.CD_DBUD_STAT_STAGE (s.cdStage + 1)).inc F.CD_DBUD_CNT_RISES
    s.each (List.range 32) (fun n s => s.cdShed n)
  else s

def execCdBudgetStageRise (s : State) : Out := .next (s.pdDo (fun s => s.cdStageRise))

/-- The stage falls by one after 1 s below 0.9 of the budget (R307). -/
def State.cdStageFall (s : State) : State :=
  if 0 < s.cdStage && 1000 ≤ s.cdg.lowMs then
    { s.put F.CD_DBUD_STAT_STAGE (s.cdStage - 1) with cdg := { s.cdg with lowMs := 0 } }
  else s

def execCdBudgetStageFall (s : State) : Out := .next (s.pdDo (fun s => s.cdStageFall))

/-- Stage 6 held for 1 s above the budget (R308). -/
def State.cdOver (s : State) : State :=
  if 1000 ≤ s.cdg.overMs && !s.cdg.overDone then
    let s := ({ s with cdg := { s.cdg with overDone := true } }).put F.CD_DBUD_STAT_OVER 1
    s.cdErr 0 F.CD_DBUD_STAT_OVER.lo []
  else s

def execCdBudgetOver (s : State) : Out := .next (s.pdDo (fun s => s.cdOver))

/-- The next channel leaves SHED, in ascending order, 10 ms after the one before (R308). -/
def State.cdUnshed (s : State) : State :=
  match (List.range 32).find? (fun n => s.cdPhase n = Ph.shed && !s.cdShedNow n) with
  | none => s
  | some n =>
    let s := match s.cdg.unshedAt with | some t => s.reach (t + 10000) | none => s
    let s := { s with cdg := { s.cdg with unshedAt := some s.now } }
    let s := s.cdGo n Ph.idle
    if (s.safeOf Cls.coil n).inSafe then s.cdSafeEntry n else s.cdMod n (fun c => { c with take := true })

def execCdUnshed (s : State) : Out := .next (s.pdDo (fun s => s.cdUnshed))

end Sys2Proof.Machine
end

