-- ==== Sys2Proof/Machine/FieldIo.lean ====
section
/-! DEFINITION. Contacts, relay drivers and analog outputs (chapter "Contacts, relay outputs and analog outputs"). -/

namespace Sys2Proof.Machine

/-! ### Contact inputs (R414 to R421) -/

def State.setFio (s : State) (x : FioState) : State := { s with fio := x }

/-- The source writes of a contact's points with a PROP (R418), while the link is up and the input is enabled. -/
def State.diSource (s : State) (n prop : Nat) : State :=
  if !s.linkUp || !s.bit F.DI_CFG_EN n then s
  else
    let v := if prop = 0 then fOfNat (b2n (s.fio.di.getLsbD n)) else fOfNat (s.get F.DI_CNT_COUNT n)
    s.sourceAll Kind.contact (64 * prop + n) v (!s.bit F.FIO_GSTAT_VF_LOW)

/-- The debounced state takes the other level (R416, R417, R419): event and count, unless INV alone changed it (R420). -/
def State.diFlip (s : State) (n : Nat) (quiet : Bool) : State :=
  let v := !s.fio.di.getLsbD n
  let s := s.setFio { s.fio with di := bv64Set s.fio.di n v }
  let s :=
    if quiet then s
    else
      let s := s.put (if v then F.DI_EVT_RISE else F.DI_EVT_FALL) 1 n
      let e := s.get F.DI_CFG_CEDGE n
      if e = 2 || (e = 0) = v then s.put F.DI_CNT_COUNT (s.get F.DI_CNT_COUNT n + 1) n else s
  s.diSource n 0

/-- Samples that complete a debounce run, one every 4 µs (R416): the first that differs and those of the DEB × 100 µs after it. -/
def diNeed (deb : Nat) : Nat := Nat.max 2 (25 * deb + 1)

def State.diRun (s : State) (n : Nat) : Nat := Tab.get (fun _ => 0) s.fio.runs n

/-- `k` samples of a contact follow the last ones; with them its run of samples that differ from the state is `run` long. -/
def State.diPass (s : State) (n k run : Nat) : State :=
  let s := s.reach (Nat.max (Tab.get (fun _ => 0) s.fio.sampAt n) s.fio.vfAt + 4 * k)
  s.setFio { s.fio with runs := Tab.set (fun _ => 0) s.fio.runs n run, sampAt := Tab.set (fun _ => 0) s.fio.sampAt n s.now }

/-- The comparator of a contact is sampled `k` times in a row at the level `raw` (R415, R416). While VF_LOW is 1 the state is
frozen (R431). -/
def State.diSample (s : State) (n : Nat) (raw : Bool) (k : Nat) : State :=
  if !s.bit F.DI_CFG_EN n || k = 0 then s
  else
    let inv := s.fio.invBy.getLsbD n && s.fio.raw.getLsbD n == raw
    let s := s.setFio { s.fio with raw := bv64Set s.fio.raw n raw, invBy := bv64Set s.fio.invBy n inv }
    let m := diNeed (s.get F.DI_CFG_DEB n) - s.diRun n
    if s.bit F.FIO_GSTAT_VF_LOW || (raw != s.bit F.DI_CFG_INV n) == s.fio.di.getLsbD n then s.diPass n k 0
    else if k < m then s.diPass n k (s.diRun n + k)
    else
      let s := s.diPass n m 0
      let s := (s.setFio { s.fio with invBy := bv64Set s.fio.invBy n false }).diFlip n inv
      s.diPass n (k - m) 0

def execDiStateChange (n : Fin 64) (raw : Bool) (k : Nat) (s : State) : Out := .next (s.pdDo (fun s => s.diSample n.val raw k))

/-- An input is switched off: the raw level that the coil drive reads falls to 0 (R420), an edge of every contact that it serves
(log entry 147). -/
def State.diDrop (s : State) (n : Nat) : State :=
  let s := s.setFio { s.fio with raw := bv64Set s.fio.raw n false }
  s.each (List.range 32) (fun m s =>
    let s := if s.get F.CD_ENDC_OP_DI m = n then s.cdContact m s.now s.now 1 true (!s.bit F.CD_ENDC_OP_POL m) else s
    if s.get F.CD_ENDC_CL_DI m = n then s.cdContact m s.now s.now 1 false (!s.bit F.CD_ENDC_CL_POL m) else s)

/-- A write of DI_CFG (R414, R420). -/
def State.diCfgWrite (s : State) (w : Who) (n : Nat) (data : Word) : State :=
  s.cfgWrite w (R.DI_CFG.at n) data (fun x => if F.DI_CFG_WET.of x = 3 then Res.refConfig else Res.applied) (fun old new s =>
    let on (x : Word) : Bool := F.DI_CFG_EN.of x == 1
    let flip := on old && on new && F.DI_CFG_INV.of old != F.DI_CFG_INV.of new
    let s := s.setFio { s.fio with invBy := bv64Set s.fio.invBy n (on old && on new && (s.fio.invBy.getLsbD n != flip)) }
    let s := if on old && !on new && s.fio.raw.getLsbD n then s.diDrop n else s
    if on old == on new && !flip && F.DI_CFG_WET.of old = F.DI_CFG_WET.of new then s
    else s.setFio { s.fio with runs := Tab.set (fun _ => 0) s.fio.runs n 0, sampAt := Tab.set (fun _ => 0) s.fio.sampAt n s.now })

/-- A write of DI_CNTSET (R417). -/
def State.diCntSet (s : State) (w : Who) (n : Nat) (data : Word) : State :=
  s.auditW w (Tgt.reg (R.DI_CNTSET.at n) (s.word (R.DI_CNT.at n)) data) Res.applied (fun s => s.setWord (R.DI_CNT.at n) data)

/-- The device tick writes every contact point (R418, R421). -/
def State.contactTick (s : State) : State :=
  s.each (List.range 64) (fun n s => (s.diSource n 0).diSource n 1)

/-- The device tick reaches the power die: snapshots, checks and contact points (R345, R418). -/
def execPdTickArrival (s : State) : Out := .next (s.pdTick.contactTick)

/-! ### Relay drivers (R422 to R427) -/

def State.doOf (s : State) (n : Nat) : DoOut := Tab.get (fun _ => {}) s.fio.dos n
def State.setDo (s : State) (n : Nat) (d : DoOut) : State := s.setFio { s.fio with dos := Tab.set (fun _ => {}) s.fio.dos n d }
def State.doClosed (s : State) (n : Nat) : Bool := s.bit F.DO_STAT_OUT n

/-- v > 0.5 (R423). -/
def overHalf (v : Word) : Bool := fLt 0x3F000000 v

/-- The latest command asks for closed. -/
def State.doCmd (s : State) (n : Nat) : Bool := match s.cmdOf Cls.relay n with | some v => overHalf v | none => false

/-- What the output acts on in safe state, none outside it. -/
def State.doActing (s : State) (n : Nat) : Option (Option SafeEntry) :=
  let o := s.safeOf Cls.relay n
  if o.inSafe then some o.acting else none

/-- The state the output is to take, and whether at once (R424, R425, R427). A write of EN to 0 since the last evaluation opens it, even
if EN is 1 again. -/
def State.doWant (s : State) (n : Nat) : Bool × Bool :=
  let entered := s.doActing n != (s.doOf n).acted
  if s.word (R.DO_FLT.at n) != 0 || !s.bit F.DO_CFG_EN n || (s.doOf n).offReq then (false, true)
  else
    match s.doActing n with
    | some none => (false, true)
    | some (some e) =>
      if e.option = Opt.closed then (true, entered) else if e.option = Opt.holdLast then (s.doClosed n, true) else (false, entered)
    | none => (s.doCmd n, false)

/-- A trip since the last evaluation opens the output, from the trip on (R423, R425). -/
def State.doTripped (s : State) (n : Nat) : State :=
  let d := s.doOf n
  match d.tripAt with
  | some t => (s.put F.DO_STAT_OUT 0 n).setDo n { d with tripAt := none, since := t }
  | none => s

/-- One evaluation of an output (R423). -/
def State.doEval (s : State) (n : Nat) : State :=
  let s := s.doTripped n
  let x := s.doWant n
  let d := s.doOf n
  let s := s.put F.DO_STAT_CMD (b2n (s.doCmd n)) n
  let s := s.setDo n { d with acted := s.doActing n, offReq := false }
  let least := 100000 * (if s.doClosed n then s.get F.DO_TIME_MIN_ON n else s.get F.DO_TIME_MIN_OFF n)
  if x.1 = s.doClosed n then s.put F.DO_STAT_PEND 0 n
  else if x.2 || d.since + least ≤ s.now then
    ((s.put F.DO_STAT_OUT (b2n x.1) n).put F.DO_STAT_PEND 0 n).setDo n { s.doOf n with since := s.now }
  else s.put F.DO_STAT_PEND 1 n

/-- Every output, 1 ms after the last evaluation. -/
def execDoEval (s : State) : Out :=
  .next (s.pdDo (fun s =>
    let s := s.reach (s.fio.evalAt + 1000)
    (s.setFio { s.fio with evalAt := s.now }).each (List.range 32) (fun n s => s.doEval n)))

/-- A command reaches the output; it acts at the next evaluation, outside safe state. -/
def State.fioCommand (s : State) (cls n : Nat) : State :=
  match s.fwdTake cls n with
  | (none, s) => s
  | (some f, s) => s.setCmd cls n f.value

def execDoCommand (n : Fin 32) (s : State) : Out := .next (s.pdDo (fun s => s.fioCommand Cls.relay n.val))

/-- The minimum time of an output with a waiting change ends. -/
def execDoMinTimeExpiry (n : Fin 32) (s : State) : Out :=
  .next (if s.bit F.DO_STAT_PEND n.val then
      let least := 100000 * (if s.doClosed n.val then s.get F.DO_TIME_MIN_ON n.val else s.get F.DO_TIME_MIN_OFF n.val)
      (s.reach ((s.doOf n.val).since + least)).doEval n.val
    else s)

/-- The switch itself is closed: a trip has not opened it since the last evaluation (R425). -/
def State.doConducts (s : State) (n : Nat) : Bool := s.doClosed n && (s.doOf n).tripAt.isNone

/-- A closed switch trips (R425). -/
def State.doTrip (s : State) (n : Nat) (f : Fld) : State :=
  if !s.doConducts n || s.word (R.DO_FLT.at n) != 0 then s
  else
    let s := (s.put f 1 n).setDo n { s.doOf n with tripAt := some s.now }
    s.pdErr (s.ptTenant (s.cmdPoint Cls.relay n)) 0x04 f.lo (leBytes 1 n ++ leBytes 1 f.lo ++ leBytes 1 1)

/-- A closed switch has stayed in current limit for 2 ms, which can have begun when it closed. -/
def State.doOverTime (s : State) (n : Nat) : State :=
  if !s.doConducts n || s.word (R.DO_FLT.at n) != 0 then s else (s.reach ((s.doOf n).since + 2000)).doTrip n F.DO_FLT_OVC

def execDoOvercurrent (n : Fin 32) (s : State) : Out := .next (s.pdDo (fun s => s.doOverTime n.val))
def execDoThermalTrip (n : Fin 32) (s : State) : Out := .next (s.pdDo (fun s => s.doTrip n.val F.DO_FLT_THERM))

/-- Open-load detection is timed: enabled, open, VFIELD not low (R426). -/
def State.doOlTimed (s : State) (n : Nat) : Bool :=
  s.bit F.DO_CFG_OL_EN n && !s.doClosed n && !s.bit F.FIO_GSTAT_VF_LOW

/-- The pin has stayed below (v) or above 3 V for 1 s of open time: since it opened, VF_LOW ended and OL_EN was set, and since it
was last known on the other side. -/
def State.doOpenload (s : State) (n : Nat) (v : Bool) : State :=
  if s.doOlTimed n then
    let d := s.doOf n
    let s := (s.reach (Nat.max (Nat.max d.since s.fio.vfAt) (if v then d.below else d.above) + 1000000)).put F.DO_STAT_OPENLOAD (b2n v) n
    s.setDo n (if v then { d with above := s.now } else { d with below := s.now })
  else s

def execDoOpenloadDetect (n : Fin 32) (s : State) : Out := .next (s.pdDo (fun s => s.doOpenload n.val true))
def execDoOpenloadClear (n : Fin 32) (s : State) : Out := .next (s.pdDo (fun s => s.doOpenload n.val false))

/-! ### Analog outputs (R428 to R430) -/

/-- 1 V in the units of va. -/
def aoVolt : Nat := 2 ^ 149 * 10000

def State.aoVa (s : State) (n : Nat) : Nat := Tab.get (fun _ => 0) s.fio.ao n

/-- vt := min(max(v, 0.0), 10.0), in the units of va. -/
def aoTarget (v : Word) : Nat := if fNeg v || !fFinite v then 0 else Nat.min ((fAt v (-149)).toNat * 10000) (10 * aoVolt)

/-- The code of R428, exact until it is rounded. -/
def aoCode (va : Nat) (gain ofs : Word) : Nat :=
  let num : Int := (va : Int) * 4095 * fAt gain (-149) + fAt ofs (-149) * ((2 ^ 149 * 100000 : Nat) : Int)
  let den : Int := ((2 ^ 298 * 100000 : Nat) : Int)
  (max 0 (min 4095 ((2 * num + den) / (2 * den)))).toNat

/-- va takes a value, and VOUT and CODE follow. -/
def State.aoSet (s : State) (n va : Nat) : State :=
  let s := s.setFio { s.fio with ao := Tab.set (fun _ => 0) s.fio.ao n va }
  (s.put F.AO_STAT_VOUT (va * 1000 / aoVolt) n).put F.AO_STAT_CODE (aoCode va (s.otp (0x700 + 8 * n)) (s.otp (0x704 + 8 * n))) n

/-- va moves toward vt by at most SLEW / 10 mV (R428). -/
def aoSlew (va vt slew : Nat) : Nat :=
  let d := slew * 2 ^ 149
  if slew = 0 then vt else if va ≤ vt then Nat.min vt (va + d) else Nat.max vt (va - d)

/-- The next va of an output; a write of EN to 0 since the last update sets it to 0 V, even if EN is 1 again (R430). -/
def State.aoNext (s : State) (n : Nat) : Nat :=
  let va := s.aoVa n
  let o := s.safeOf Cls.ao n
  if s.bit F.AO_FLT_OVL n || !s.bit F.AO_CFG_EN n || s.fio.aoOff.contains n then 0
  else if o.inSafe then
    match o.acting with
    | none => 0
    | some e => if e.option = Opt.holdLast then va else e.value * 10 * 2 ^ 149
  else
    match s.cmdOf Cls.ao n with
    | none => va
    | some v => aoSlew va (aoTarget v) (s.get F.AO_CFG_SLEW n)

/-- Every output, 100 µs after the last update. -/
def execAoUpdate (s : State) : Out :=
  .next (s.pdDo (fun s =>
    let s := s.reach (s.fio.aoAt + 100)
    let s := (s.setFio { s.fio with aoAt := s.now }).each (List.range 16) (fun n s => s.aoSet n (s.aoNext n))
    s.setFio { s.fio with aoOff := [] }))

def execAoCommand (n : Fin 16) (s : State) : Out := .next (s.pdDo (fun s => s.fioCommand Cls.ao n.val))

/-- The 100 ms in current limit begin no earlier than now. -/
def State.aoLimit (s : State) (n : Nat) : State := s.setFio { s.fio with aoLim := Tab.set (fun _ => 0) s.fio.aoLim n s.now }

/-- An enabled output has been in current limit for 100 ms (R429), which can have begun at the clear of OVL or when EN was
written 1. -/
def State.aoOverload (s : State) (n : Nat) : State :=
  if !s.bit F.AO_CFG_EN n || s.bit F.AO_FLT_OVL n then s
  else
    let s := s.reach (Nat.max (Tab.get (fun _ => 0) s.fio.aoLim n) s.fio.startAt + 100000)
    let v := s.get F.AO_STAT_VOUT n
    let s := (s.put F.AO_FLT_OVL 1 n).aoSet n 0
    s.pdErr (s.ptTenant (s.cmdPoint Cls.ao n)) 0x04 0 (leBytes 1 n ++ leBytes 1 0 ++ leBytes 2 v)

def execAoOverload (n : Fin 16) (s : State) : Out := .next (s.pdDo (fun s => s.aoOverload n.val))

/-! ### Field supply (R431) -/

/-- VFIELD is measured, in 10 mV: the 1 ms and 10 ms of R431 begin no earlier than its last value on the other side. -/
def State.vfieldMeas (s : State) (v : Nat) : State :=
  (s.put F.FIO_GSTAT_VFIELD v).setFio { s.fio with
    vfHi := if 1600 ≤ v then s.now else s.fio.vfHi, vfLo := if v ≤ 1700 then s.now else s.fio.vfLo }

/-- VFIELD has stayed below 16.0 V ± 0.5 V for 1 ms; `v` is its value. The debounced states freeze. -/
def State.vfieldLow (s : State) (v : Nat) : State :=
  if s.bit F.FIO_GSTAT_VF_LOW || 1650 ≤ v then s.vfieldMeas v
  else
    let s := (s.reach (s.fio.vfHi + 1000)).vfieldMeas v
    (s.put F.FIO_GSTAT_VF_LOW 1).setFio { s.fio with runs := [] }

def execVfieldLow (v : Nat) (s : State) : Out := .next (s.pdDo (fun s => s.vfieldLow v))

/-- VFIELD has stayed above 17.0 V for 10 ms: debounce resumes, and the 1 s of R426 start again. -/
def State.vfieldRecover (s : State) (v : Nat) : State :=
  if !s.bit F.FIO_GSTAT_VF_LOW || v ≤ 1700 then s.vfieldMeas v
  else
    let s := (s.reach (s.fio.vfLo + 10000)).vfieldMeas v
    (s.put F.FIO_GSTAT_VF_LOW 0).setFio { s.fio with vfAt := s.now }

def execVfieldRecover (v : Nat) (s : State) : Out := .next (s.pdDo (fun s => s.vfieldRecover v))

/-! ### Registers (R433 to R441) -/

/-- A write of a FIO register while the link is up. -/
def State.fioWriteUp (s : State) (w : Who) (a : Nat) (data : Word) : State :=
  let cmdChk (en : Bool) (f : Fld) : Word → Res := fun x => if w.ifc != 0 && en && f.of x != f.of (s.word a) then Res.refConfig else Res.applied
  if R.DI_CFG.hit a then s.diCfgWrite w (R.DI_CFG.idx a) data
  else if R.DI_CNTSET.hit a then s.diCntSet w (R.DI_CNTSET.idx a) data
  else if R.DO_CMD.hit a then s.cfgWrite w a data (cmdChk (s.bit F.DO_CFG_EN (R.DO_CMD.idx a)) F.DO_CMD_POINT)
  else if R.AO_CMD.hit a then s.cfgWrite w a data (cmdChk (s.bit F.AO_CFG_EN (R.AO_CMD.idx a)) F.AO_CMD_POINT)
  else if R.DO_FLT.hit a then s.clearWrite w a data (fun _ _ s => s)
  else if R.AO_FLT.hit a then s.clearWrite w a data (fun old new s => if old = new then s else s.aoLimit (R.AO_FLT.idx a))
  else if R.DO_CFG.hit a then
    s.cfgWrite w a data (fun _ => Res.applied) (fun old new s =>
      let n := R.DO_CFG.idx a
      let s := if F.DO_CFG_EN.of new = 0 then s.setDo n { s.doOf n with offReq := true } else s
      if F.DO_CFG_OL_EN.of old = 0 && F.DO_CFG_OL_EN.of new = 1 then s.setDo n { s.doOf n with above := s.now, below := s.now } else s)
  else if R.AO_CFG.hit a then
    s.cfgWrite w a data (fun _ => Res.applied) (fun _ new s =>
      let n := R.AO_CFG.idx a
      if F.AO_CFG_EN.of new = 1 then s.aoLimit n
      else if s.fio.aoOff.contains n then s
      else s.setFio { s.fio with aoOff := s.fio.aoOff ++ [n] })
  else s.kindWrite w a data

/-- A write of a FIO register (R433, R46). -/
def State.fioWrite (s : State) (w : Who) (a : Nat) (data : Word) : State :=
  if !s.pdReach then s.dropWrite w a data
  else if w.tenant != 0 then s.refuseWrite w a data Res.refRights
  else s.fioWriteUp w a data

def execDiCfgWrite (p : Path) (n : Fin 64) (data : Word) (s : State) : Out :=
  .next (s.byPath p (fun w s => s.fioWrite w (R.DI_CFG.at n.val) data))
def execDiCntset (p : Path) (n : Fin 64) (data : Word) (s : State) : Out :=
  .next (s.byPath p (fun w s => s.fioWrite w (R.DI_CNTSET.at n.val) data))
def execDoFaultClear (p : Path) (n : Fin 32) (data : Word) (s : State) : Out :=
  .next (s.byPath p (fun w s => s.fioWrite w (R.DO_FLT.at n.val) data))
def execAoFaultClear (p : Path) (n : Fin 16) (data : Word) (s : State) : Out :=
  .next (s.byPath p (fun w s => s.fioWrite w (R.AO_FLT.at n.val) data))

/-- May the tenant read the FIO register (R433)? -/
def State.fioMayRead (s : State) (t a : Nat) : Bool :=
  t = 0 || (0x1C1000 ≤ a && a < 0x1C1400 && s.ptTenant (s.cmdPoint Cls.relay ((a - 0x1C1000) / 32)) = t)
    || (0x1C2000 ≤ a && a < 0x1C2200 && s.ptTenant (s.cmdPoint Cls.ao ((a - 0x1C2000) / 32)) = t)

/-- The number whose bit i is p (b + i), for n bits. -/
def maskOf (n : Nat) (p : Nat → Bool) : Nat := ((List.range n).filter p).foldl (fun m i => m + 2 ^ i) 0

/-- What a contact shows while its EN is 1 (R420). -/
def State.diState (s : State) (n : Nat) : Bool := s.bit F.DI_CFG_EN n && s.fio.di.getLsbD n

/-- The word a FIO register reads as: those that follow other state are computed. -/
def State.fioWord (s : State) (a : Nat) : Word :=
  let x := s.word a
  if R.DI_STAT.hit a then
    let n := R.DI_STAT.idx a
    Word.ofN (b2n (s.diState n) + 2 * b2n (s.bit F.DI_CFG_EN n && s.fio.raw.getLsbD n))
  else if R.DO_CMD.hit a then setBits x 31 1 (b2n (s.loopBound Cls.relay (R.DO_CMD.idx a)))
  else if R.AO_CMD.hit a then setBits x 31 1 (b2n (s.loopBound Cls.ao (R.AO_CMD.idx a)))
  else if R.FIO_DI_LO.hit a then Word.ofN (maskOf 32 (fun n => s.diState n))
  else if R.FIO_DI_HI.hit a then Word.ofN (maskOf 32 (fun n => s.diState (32 + n)))
  else if R.FIO_DO.hit a then Word.ofN (maskOf 32 (fun n => s.doClosed n))
  else if R.FIO_DOFLT.hit a then Word.ofN (maskOf 32 (fun n => s.word (R.DO_FLT.at n) != 0))
  else if R.FIO_AOFLT.hit a then Word.ofN (maskOf 16 (fun n => s.bit F.AO_FLT_OVL n))
  else x

end Sys2Proof.Machine
end

