-- ==== Sys2Proof/Machine/ZoneBus.lean ====
section
/-! DEFINITION. Zone bus (chapter "Zone bus"): reception, nodes and node writes, the end of transmissions, modes and fault
confinement, segment supplies, function reset and registers. -/

namespace Sys2Proof.Machine

/-! ### Nodes and the hardware queue (R466 to R469) -/

/-- A change of a node's state (R469): 0 ABSENT, 1 ASSIGNING, 2 PRESENT. The event's CODE is the bit of ZB_EVT.NODE (R607). -/
def State.nodeSet (s : State) (z a st : Nat) : State :=
  if s.get F.ZB_NODE_CFG_STATE z a = st then s
  else
    let s := (s.put F.ZB_NODE_CFG_STATE st z a).put F.ZB_EVT_NODE 1 z
    s.postEvt 0 0x05 F.ZB_EVT_NODE.lo (leBytes 1 z ++ leBytes 1 (a + 1) ++ leBytes 1 st)

def State.nodeSeen (s : State) (z a : Nat) : State :=
  let x := s.seg z
  s.setSeg z { x with seen := Tab.put a s.now x.seen }

/-- An uplink frame has come from a node (R469). -/
def State.nodeFrame (s : State) (z a : Nat) : State :=
  if s.bit F.ZB_NODE_CFG_EN z a then (s.nodeSeen z a).nodeSet z a 2 else s

/-- The 48-bit serial of an entry. -/
def State.nodeSerial (s : State) (z a : Nat) : Nat := s.get F.ZB_NODE_SER_SERIAL z a + 2 ^ 32 * s.get F.ZB_NODE_CFG_SERIAL z a

def State.hwPush (s : State) (z : Nat) (h : ZbHw) : State :=
  let x := s.seg z
  s.setSeg z { x with hwq := x.hwq ++ [h] }

/-- A frame counted as not stored and not handled. -/
def State.noMatch (s : State) (z : Nat) : State := s.inc F.ZB_CNT2_NOMATCH 1 z

/-- ANNOUNCE (R469). The TAG of an ASSIGN is free (log entry 3). -/
def State.zbAnnounce (s : State) (z dlc : Nat) (d : List Byte) : State :=
  if dlc != 8 then s.noMatch z
  else if !s.bit F.ZB_ENUM_EN z then s
  else
    let ser := leVal (d.take 6)
    match (List.range 32).find? (fun a => s.bit F.ZB_NODE_CFG_EN z a && s.nodeSerial z a == ser) with
    | none =>
      let s := s.put F.ZB_EVT_UNKNOWN 1 z
      if s.bit F.ZB_UNK_HI_VALID z then s
      else ((s.setWord (R.ZB_UNK_LO.at z) (Word.ofN ser)).put F.ZB_UNK_HI_SERIAL (ser / 2 ^ 32) z).put F.ZB_UNK_HI_VALID 1 z
    | some a =>
      if 8 ≤ (s.seg z).hwq.length then s.noMatch z
      else
        let id := zbId (s.get F.ZB_HWCFG_PRIO z) 0x20 0 (a + 1) (Config.freeNat s.free)
        let s := s.fresh.hwPush z ⟨id, d.take 6 ++ leBytes 1 (a + 1) ++ leBytes 1 (s.get F.ZB_ENUM_HBPER z)⟩
        (s.nodeSeen z a).nodeSet z a 1

/-- WRITE_RESULT to a node, with its TAG. -/
def State.zbResult (s : State) (z a tag res : Nat) : State :=
  s.hwPush z ⟨zbId (s.get F.ZB_HWCFG_PRIO z) 0x21 0 (a + 1) tag, leBytes 1 res ++ leBytes 1 0⟩

/-- NODE_WRITE (R466 to R468). An index above 32,767 names no point: the write is audited and answered REFUSED_CONFIG. -/
def State.zbNodeWrite (s : State) (z a tag dlc : Nat) (d : List Byte) : State :=
  let op := leVal ((d.drop 2).take 1)
  let i := leVal (d.take 2)
  let v := Word.ofN (leVal ((d.drop 4).take 4))
  let x := s.seg z
  let hist := (x.nw.lookup a).getD []
  if dlc != 8 || leVal ((d.drop 3).take 1) != 0 || 1 < op then s.noMatch z
  else if s.get F.ZB_NODE_CFG_STATE z a != 2 || 8 ≤ x.hwq.length then s.noMatch z
  else match hist.find? (fun (e : Nat × Nat × Nat) => e.1 == tag && s.now ≤ e.2.2 + s.zbLate z) with
    | some e => (s.inc F.ZB_CNT2_DUP 1 z).zbResult z a tag e.2.1
    | none =>
      if !s.bit F.ZB_NW_EN z then s.zbResult z a tag Res.refRights
      else
        let w : Who := ⟨15, s.get F.ZB_NW_TENANT z, 9, s.get F.ZB_NW_PRIO z, true, 15⟩
        let s := if 32768 ≤ i then s.auditW w { ttype := 3, new := v, prio := w.prio } Res.refConfig id
          else s.ptWrite w i (if op = 0 then .write else .relinquish) w.prio v 0
        let x := s.seg z
        (s.setSeg z { x with nw := Tab.put a (((tag, s.wres, s.now) :: hist).take 8) x.nw }).zbResult z a tag s.wres

/-! ### Reception (R446, R452, R465) -/

/-- A frame received without error moves the receive counter (R446, ISO 11898-1): from above 127 it returns to between 119 and
127, which value is free. -/
def State.recDown (s : State) (z : Nat) : State :=
  if s.bit F.ZB_ERRCNT_RP z then
    ((s.fresh.put F.ZB_ERRCNT_RP 0 z).put F.ZB_ERRCNT_REC (119 + Config.freeNat s.free % 9) z)
  else s.put F.ZB_ERRCNT_REC (s.get F.ZB_ERRCNT_REC z - 1) z

/-- FCS from the counters (R446): entry into error-passive sets EPASS. -/
def State.fcsPassive (s : State) (z : Nat) : State :=
  if s.get F.ZB_STAT_FCS z = 2 then s
  else
    let p := 127 < s.get F.ZB_ERRCNT_TEC z || s.bit F.ZB_ERRCNT_RP z
    let s' := s.put F.ZB_STAT_FCS (b2n p) z
    if p && s.get F.ZB_STAT_FCS z = 0 then s'.put F.ZB_EVT_EPASS 1 z else s'

/-- A data frame is handled (R451 to R454, R465, R469). -/
def State.zbHandle (s : State) (z : Nat) (f : CanFrame) : State :=
  let c := frCls f
  let up := f.ide && c < 32 && frDest f = 0
  let a := nodeIdx (frSource f)
  let s := if up && c != 0 then s.nodeFrame z a else s
  if !f.ide then s.zbOffer z f
  else if c = 0 then (if up then s.zbAnnounce z (f.dlc % 16) (frBytes f) else s.noMatch z)
  else if c = 1 then (if up && f.dlc % 16 ≤ 8 then s else s.noMatch z)
  else if c = 2 then (if up then s.zbNodeWrite z a (frTag f) (f.dlc % 16) (frBytes f) else s.noMatch z)
  else if c = 0x20 || c = 0x21 then s.noMatch z
  else if up && (s.word (R.ZB_TAGCLS.at z)).getLsbD c then
    match (s.seg z).tags.lookup (frTag f) with
    | some t =>
      if t.st = 2 && t.dest = frSource f then (s.zbTagQuar z (frTag f)).zbOffer z f
      else (s.inc F.ZB_CNT2_LATE 1 z).put F.ZB_EVT_LATE 1 z
    | none => (s.inc F.ZB_CNT2_LATE 1 z).put F.ZB_EVT_LATE 1 z
  else s.zbOffer z f


/-- No uplink frame from an address for 3 × HBPER × 100 ms (R469). -/
def State.nodeTimeout (s : State) (z a : Nat) : State :=
  if s.get F.ZB_NODE_CFG_STATE z a = 0 then s
  else
    let t := ((s.seg z).seen.lookup a).getD s.now
    (s.reach (t + 300000 * s.get F.ZB_ENUM_HBPER z)).nodeSet z a 0

def execZbNodeTimeout (z : Fin 16) (a : Fin 32) (s : State) : Out := .next (s.nodeTimeout z.val a.val)

/-- Every node of a segment becomes ABSENT: its supply is off, or it is reset. -/
def State.nodesAbsent (s : State) (z : Nat) : State := s.each (List.range 32) (fun a s => s.nodeSet z a 0)

/-! ### Modes (R444, R445) -/

/-- MODE takes effect: leaving CONFIG, the controller integrates. -/
def State.zbModeApply (s : State) (z : Nat) : State :=
  let m := s.get F.ZB_CTRL_MODE z
  let old := s.get F.ZB_STAT_ACTIVE z
  let s := s.put F.ZB_STAT_ACTIVE m z
  if m = 0 then (s.put F.ZB_STAT_BUSINT 0 z).put F.ZB_STAT_PXE 0 z else s.putIf (old = 0) F.ZB_STAT_BUSINT 1 z

/-- MODE has been written: it acts at the end of the frame in progress. -/
def State.zbModeWritten (s : State) (z : Nat) : State := if (s.seg z).onBus.isSome then s else s.zbModeApply z

/-- 11 recessive bits: integration ends, and so does a protocol exception. -/
def execZbIntegrated (z : Fin 16) (s : State) : Out := .next ((s.put F.ZB_STAT_BUSINT 0 z.val).put F.ZB_STAT_PXE 0 z.val)

/-- The end of boot: every segment takes its RUNMODE (R445). -/
def State.zbRunModes (s : State) : State :=
  s.each (List.range 16) (fun z s => (s.put F.ZB_CTRL_MODE (s.get F.ZB_CTRL_RUNMODE z) z).zbModeWritten z)

/-! ### Function reset (R474) -/

def State.zbReset (s : State) (z : Nat) : State :=
  let x := s.seg z
  let s := s.each x.reqs (fun (e : Nat × ZbReq) s =>
    ((s.put F.ZB_BUF_STAT_TXREQ 0 z e.1).put F.ZB_BUF_STAT_TAGWAIT 0 z e.1).put F.ZB_BUF_STAT_TXRES Tx.aborted z e.1)
  let s := s.setSeg z { x with
    reqs := []
    hwq := []
    onBus := none
    rst := false
    recover := false
    tags := x.tags.map (fun (e : Nat × ZbTag) => (e.1, ⟨3, 0, s.now⟩)) }
  let s := s.each (List.range 64) (fun b s => (s.put F.ZB_BUF_STAT_NEWD 0 z b).put F.ZB_BUF_STAT_MSGLOST 0 z b)
  let s := s.nodesAbsent z
  let s := ((s.setWord (R.ZB_ERRCNT.at z) 0).setWord (R.ZB_EVT.at z) 0).setWord (R.ZB_CNT.at z) 0
  let s := ((s.setWord (R.ZB_CNT2.at z) 0).setWord (R.ZB_CNT3.at z) 0).setWord (R.ZB_LASTERR.at z) 0
  let s := ((s.zbModeApply z).put F.ZB_STAT_FCS 0 z).put F.ZB_STAT_PXE 0 z
  s.put F.ZB_STAT_BUSINT (b2n (s.get F.ZB_CTRL_MODE z != 0)) z

/-- FUNC_RST of a segment, at the end of the frame on the bus, or at once. -/
def State.zbFuncRst (s : State) (z : Nat) : State :=
  if (s.seg z).onBus.isSome then s.setSeg z { s.seg z with rst := true } else s.zbReset z

/-! ### The end of a transmission (R460 to R463), bus errors (R446, R447) -/

/-- An attempt of a buffer's frame ends. -/
def State.zbBufEnd (s : State) (z b : Nat) (e : TxEnd) : State :=
  let x := s.seg z
  match x.reqs.lookup b with
  | none => s
  | some r =>
    let r := { r with passed := r.passed || e == TxEnd.done || e == TxEnd.errLate }
    let s := s.setSeg z { x with reqs := Tab.put b r x.reqs }
    if e = .done then s.zbEnd z b Tx.done
    else if r.abort then s.zbEnd z b Tx.aborted
    else if s.bit F.ZB_BUF_CFG_ONESHOT z b then s.zbEnd z b (if e = .arbLost then Tx.arbLost else Tx.error)
    else s

/-- The frame of a tenant that was reset ends: its completion is discarded (R463, R615). -/
def State.zbLostEnd (s : State) (z : Nat) (r : ZbReq) (e : TxEnd) : State :=
  ((s.inc F.ZB_CNT3_DISCARD_GEN 1 z).inc F.TEN_CNT_DISC_GEN 1 r.tenant).zbTagEnd z { r with passed := r.passed || e == TxEnd.done || e == TxEnd.errLate }

/-- What is on the bus: its frame. -/
def State.zbOnFrame (s : State) (z : Nat) (tx : ZbTx) : CanFrame :=
  match tx with
  | .buf b => s.zbTxFrame z b
  | .hw i => (((s.seg z).hwq[i]?).getD ⟨0, []⟩).frame
  | .lost f _ => f

/-- The delay measured in a FD frame with BRS that got past its arbitration field (R450). -/
def State.zbDelay (s : State) (z : Nat) (f : CanFrame) (e : TxEnd) (tdcv : Nat) : State :=
  s.putIf (s.bit F.ZB_TDC_TDCE z && f.fdf && f.brs && (e == .done || e == .errLate)) F.ZB_TDC_TDCV tdcv z

/-- What is on the bus ends. In LOOP the controller receives its own frame (R444). -/
def State.zbTxEnd (s : State) (z : Nat) (e : TxEnd) (tdcv : Nat) : State :=
  match (s.seg z).onBus with
  | none => s
  | some tx =>
    let f := s.zbOnFrame z tx
    let s := s.setSeg z { s.seg z with onBus := none }
    let s := if e = .done then (s.put F.ZB_ERRCNT_TEC (s.get F.ZB_ERRCNT_TEC z - 1) z).fcsPassive z else s
    let s := s.zbDelay z f e tdcv
    let s := match tx with
      | .buf b => s.zbBufEnd z b e
      | .hw i => if e = TxEnd.done then s.setSeg z { s.seg z with hwq := (s.seg z).hwq.eraseIdx i } else s
      | .lost _ r => s.zbLostEnd z r e
    let s := if e = .done && s.get F.ZB_STAT_ACTIVE z = 3 then s.zbHandle z f else s
    let s := if (s.seg z).rst then s.zbReset z else s
    s.zbModeApply z

def execZbTxEnd (z : Fin 16) (e : TxEnd) (tdcv : Nat) (s : State) : Out := .next (s.zbTxEnd z.val e tdcv)

/-- Entry into bus-off (R446). The error's CODE is the bit of ZB_EVT.BUSOFF (R607). `late` says whether the attempt on the bus had
passed arbitration (R464), and `tdcv` is the delay measured in it then (R450). -/
def State.zbBusOff (s : State) (z : Nat) (late : Bool) (tdcv : Nat) : State :=
  let e := if late then TxEnd.errLate else TxEnd.errEarly
  let tec := s.get F.ZB_ERRCNT_TEC z
  let rec_ := s.get F.ZB_ERRCNT_REC z
  let x := s.seg z
  let s := match x.onBus with
    | some tx => s.zbDelay z (s.zbOnFrame z tx) e tdcv
    | none => s
  let s := match x.onBus with
    | some (.buf b) => s.zbBufEnd z b e
    | some (.lost _ r) => s.zbLostEnd z r e
    | _ => s
  let s := s.each ((s.seg z).reqs.map (·.1)) (fun b s => s.zbEnd z b Tx.busOff)
  let s := s.setSeg z { s.seg z with hwq := [], onBus := none, recover := s.bit F.ZB_CTRL_ABO z }
  let s := (s.put F.ZB_STAT_FCS 2 z).put F.ZB_EVT_BUSOFF 1 z
  let s := s.postErr 0 0x05 F.ZB_EVT_BUSOFF.lo (leBytes 1 z ++ leBytes 2 tec ++ leBytes 1 rec_)
  if (s.seg z).rst then s.zbReset z else s.zbModeApply z

/-- A bus error (R447): its code, whether in the data phase, while transmitting and after the arbitration field, and what ISO
11898-1 adds to the counter of that role. -/
def State.zbError (s : State) (z code add : Nat) (data tx late : Bool) (tdcv : Nat) : State :=
  if !s.zbLive z then s
  else
    let s := s.inc F.ZB_CNT3_BUSERR 1 z
    let s := if s.bit F.ZB_LASTERR_VALID z then s
      else (((s.put F.ZB_LASTERR_CODE code z).put F.ZB_LASTERR_DATA (b2n data) z).put F.ZB_LASTERR_TX (b2n tx) z).put F.ZB_LASTERR_VALID 1 z
    if tx then
      let t := s.get F.ZB_ERRCNT_TEC z + add
      let s := (s.put F.ZB_ERRCNT_TEC (Nat.min t 511) z).fcsPassive z
      if 255 < t then s.zbBusOff z late tdcv else s
    else
      let r := s.get F.ZB_ERRCNT_REC z + add
      ((s.put F.ZB_ERRCNT_REC (Nat.min r 127) z).putIf (127 < r) F.ZB_ERRCNT_RP 1 z).fcsPassive z

def execZbBusError (z : Fin 16) (code : Fin 5) (add : Fin 9) (data tx late : Bool) (tdcv : Nat) (s : State) : Out :=
  .next (s.zbError z.val (code.val + 1) add.val data tx late tdcv)

/-- The controller hears ZBRXDn, which LOOP ignores (R444). -/
def State.zbHears (s : State) (z : Nat) : Bool := s.zbLive z && s.get F.ZB_STAT_ACTIVE z != 3

/-- A recessive res bit, or a FD frame while FDOE is 0: a protocol exception event, or with PXD 1 a form error (R442, R477; log
entry 81). The controller waits for 11 recessive bits. -/
def State.zbException (s : State) (z : Nat) : State :=
  if s.bit F.ZB_CTRL_PXD z then s.zbError z 4 1 false false true 0
  else (s.put F.ZB_STAT_PXE 1 z).put F.ZB_EVT_PXE 1 z

/-- A frame arrives at ZBRXDn. -/
def State.zbRx (s : State) (z : Nat) (f : CanFrame) : State :=
  if !s.zbHears z then s
  else if f.fdf && (f.res || !s.bit F.ZB_CTRL_FDOE z) then s.zbException z
  else ((s.recDown z).fcsPassive z).zbHandle z f

def execZbDataFrame (z : Fin 16) (f : CanFrame) (s : State) : Out := .next (s.zbRx z.val f)
def execZbReply (z : Fin 16) (f : CanFrame) (s : State) : Out := .next (s.zbRx z.val f)
def execZbAnnounce (z : Fin 16) (f : CanFrame) (s : State) : Out := .next (s.zbRx z.val (frAs f 0x00))
def execZbHeartbeat (z : Fin 16) (f : CanFrame) (s : State) : Out := .next (s.zbRx z.val (frAs f 0x01))
def execZbNodeWrite (z : Fin 16) (f : CanFrame) (s : State) : Out := .next (s.zbRx z.val (frAs f 0x02))

/-- A remote frame is never stored (R442); with a Calnos identifier it comes from a node (R451, R469). -/
def State.zbRemote (s : State) (z : Nat) (ide : Bool) (id : Nat) : State :=
  if !s.zbHears z then s
  else
    let f : CanFrame := ⟨ide, id, false, false, false, 0, [], false⟩
    let s := (s.recDown z).fcsPassive z
    let s := if ide && frCls f != 0 && frCls f < 32 && frDest f = 0 then s.nodeFrame z (nodeIdx (frSource f)) else s
    s.noMatch z

def execZbRemoteFrame (z : Fin 16) (ide : Bool) (id : Nat) (s : State) : Out := .next (s.zbRemote z.val ide id)

/-- A write of ZB_CMD (R446, R479). -/
def State.zbCmdWrite (s : State) (w : Who) (z : Nat) (data : Word) : State :=
  s.auditW w (Tgt.reg (R.ZB_CMD.at z) 0 data) Res.applied (fun s =>
    if F.ZB_CMD_RECOVER.of data = 1 && s.get F.ZB_STAT_FCS z = 2 then s.setSeg z { s.seg z with recover := true } else s)

/-- 128 occurrences of 11 recessive bits (R446). -/
def execZbRecoveryComplete (z : Fin 16) (s : State) : Out :=
  .next (if s.get F.ZB_STAT_FCS z.val = 2 && ((s.seg z.val).recover || s.bit F.ZB_CTRL_ABO z.val) then
      ((s.setSeg z.val { s.seg z.val with recover := false }).setWord (R.ZB_ERRCNT.at z.val) 0).put F.ZB_STAT_FCS 0 z.val |>.put F.ZB_EVT_BUSON 1 z.val
    else s)

/-! ### Segment supplies (R470 to R473, R486) -/

def State.zbOn (s : State) (z : Nat) : Bool := s.bit F.ZB_PWR_STAT_ON z

/-- Outside safe state, or with the entry ON, a supply may run (R473). -/
def State.zbAllowed (s : State) (z : Nat) : Bool :=
  let o := s.safeOf Cls.zbPwr z
  !o.inSafe || (match o.acting with | some e => e.option == Opt.on | none => false)

/-- The FET goes off: the nodes of the segment become ABSENT (R469). PGOOD follows the measured ZBVOUTn (R486). -/
def State.zbOff (s : State) (z : Nat) : State := (s.put F.ZB_PWR_STAT_ON 0 z).nodesAbsent z

/-- A start is wanted (R471): a fault that holds the supply off, or for a release any latched bit, prevents it. -/
def State.zbWant (s : State) (z : Nat) (release : Bool := false) : State :=
  if s.bit F.ZB_PWR_CFG_EN z && !s.zbOn z && s.zbAllowed z && !(s.seg z).hold && (!release || s.word (R.ZB_PWR_FLT.at z) == 0)
      && (s.seg z).cycleEnd.isNone then s.put F.ZB_PWR_STAT_PEND 1 z else s

/-- The waiting start with the lowest segment number begins, 40 ms after the device's previous start. -/
def State.zbStart (s : State) : State :=
  match (List.range 16).find? (fun z => s.bit F.ZB_PWR_STAT_PEND z) with
  | none => s
  | some z =>
    let s := match s.zb.startAt with | some t => s.reach (t + 40000) | none => s
    let s := { s with zb := { s.zb with startAt := some s.now } }
    ((s.put F.ZB_PWR_STAT_PEND 0 z).put F.ZB_PWR_STAT_ON 1 z).setSeg z { s.seg z with onAt := s.now }

def execZbSupplyStart (s : State) : Out := .next (s.pdDo (fun s => s.zbStart))

/-- A fault bit latches (R472): off, event, count, record; TRIP and HARD plan a retry. -/
def State.zbTrip (s : State) (z : Nat) (f : Fld) (mA : Nat) : State :=
  if !s.zbOn z then s
  else
    let s := ((s.put f 1 z).put F.ZB_EVT_PWR 1 z).inc F.ZB_PWR_CNT_TRIPS 1 z
    let s := (s.put F.ZB_PWR_STAT_IMEAS mA z).zbOff z
    let s := s.pdErr 0 0x05 f.lo (leBytes 1 z ++ leBytes 1 f.lo ++ leBytes 2 mA)
    let x := s.seg z
    let new : Bool := match x.firstTrip with | some t => decide (t + 60000000 < s.now) | none => true
    let first := if new then s.now else x.firstTrip.getD s.now
    let tries := if new then 0 else x.tries
    s.setSeg z { x with
      hold := true
      firstTrip := some first
      tries := tries
      retryAt := if f.lo != 2 && tries < s.get F.ZB_PWR_CFG_RETRY z then some (s.now + 1000000) else none }

/-- The current has been above TRIP, within its tolerance of 5 % + 50 mA (R802), for 1 ms, which can have begun when the FET went
on. -/
def State.zbOverTrip (s : State) (z mA : Nat) : State :=
  if !s.zbOn z || mA + 50 ≤ 95 * s.get F.ZB_PWR_CFG_TRIP z then s
  else (s.reach ((s.seg z).onAt + 1000)).zbTrip z F.ZB_PWR_FLT_TRIP mA

/-- The current is above 2 × TRIP, at least 1.8 × TRIP (R802). -/
def State.zbOverHard (s : State) (z mA : Nat) : State :=
  if mA ≤ 180 * s.get F.ZB_PWR_CFG_TRIP z then s else s.zbTrip z F.ZB_PWR_FLT_HARD mA

/-- ZBVOUTn has not risen above its level within 20 ms of a start, or has been below it for 1 ms. -/
def State.zbPgFail (s : State) (z mA : Nat) : State :=
  if !s.zbOn z then s
  else
    let s := s.reach ((s.seg z).onAt + (if s.bit F.ZB_PWR_STAT_PGOOD z then 1000 else 20000))
    (s.put F.ZB_PWR_STAT_PGOOD 0 z).zbTrip z F.ZB_PWR_FLT_PG mA

def execZbSupplyTrip (z : Fin 16) (mA : Nat) (s : State) : Out := .next (s.pdDo (fun s => s.zbOverTrip z.val mA))
def execZbSupplyHard (z : Fin 16) (mA : Nat) (s : State) : Out := .next (s.pdDo (fun s => s.zbOverHard z.val mA))
def execZbSupplyPgFail (z : Fin 16) (mA : Nat) (s : State) : Out := .next (s.pdDo (fun s => s.zbPgFail z.val mA))

/-- 1 s after a trip (R472). -/
def State.zbRetry (s : State) (z : Nat) : State :=
  let x := s.seg z
  match x.retryAt with
  | none => s
  | some t => ((s.reach t).setSeg z { x with retryAt := none, tries := x.tries + 1, hold := false }).zbWant z

def execZbSupplyRetry (z : Fin 16) (s : State) : Out := .next (s.pdDo (fun s => s.zbRetry z.val))

/-- A write of ZB_PWR_CMD.CYCLE (R486). -/
def State.zbCycle (s : State) (w : Who) (z : Nat) (data : Word) : State :=
  s.auditW w (Tgt.reg (R.ZB_PWR_CMD.at z) 0 data) Res.applied (fun s =>
    if F.ZB_PWR_CMD_CYCLE.of data = 0 then s
    else ((s.zbOff z).put F.ZB_PWR_STAT_PEND 0 z).setSeg z { (s.zbOff z).seg z with cycleEnd := some (s.now + 1000000) })

/-- The 1 s off time ends. -/
def State.zbCycleEnd (s : State) (z : Nat) : State :=
  match (s.seg z).cycleEnd with
  | none => s
  | some t => ((s.reach t).setSeg z { s.seg z with cycleEnd := none }).zbWant z

def execZbPwrCycleEnd (z : Fin 16) (s : State) : Out := .next (s.pdDo (fun s => s.zbCycleEnd z.val))

/-- A write of ZB_PWR_FLT (R472): the clear of the last bit wants a start. -/
def State.zbFltWrite (s : State) (w : Who) (z : Nat) (data : Word) : State :=
  s.clearWrite w (R.ZB_PWR_FLT.at z) data (fun old new s =>
    if old != 0 && new = 0 then (s.setSeg z { s.seg z with retryAt := none, firstTrip := none, tries := 0, hold := false }).zbWant z else s)

/-- A write of ZB_PWR_CFG (R471). -/
def State.zbPwrCfg (s : State) (w : Who) (z : Nat) (data : Word) : State :=
  s.cfgWrite w (R.ZB_PWR_CFG.at z) data (fun _ => Res.applied) (fun old new s =>
    let on (x : Word) : Bool := F.ZB_PWR_CFG_EN.of x == 1
    if on old && !on new then ((s.zbOff z).put F.ZB_PWR_STAT_PEND 0 z) else if !on old && on new then s.zbWant z else s)

/-- A segment enters safe state (R473). -/
def State.zbSafeEntry (s : State) (z : Nat) : State :=
  if s.zbAllowed z then (if s.bit F.ZB_PWR_STAT_PEND z then s else s.zbWant z)
  else
    let s := (s.zbOff z).put F.ZB_PWR_STAT_PEND 0 z
    s.setSeg z { s.seg z with cycleEnd := none, retryAt := none }

/-- ZBSTBn is high (R443). -/
def State.zbStandby (s : State) (z : Nat) : Bool := s.get F.ZB_CTRL_MODE z == 0 || s.bit F.ZB_CTRL_STBY z || !s.zbOn z

/-! ### Registers (R476 to R489) -/

/-- The buffer whose enabled area holds byte i of the payload memory. -/
def State.payOwner (s : State) (z i : Nat) : Option Nat :=
  (List.range 64).find? (fun b => s.bufDir z b != 0 && (areaOf (s.bufCfg z b)).1 ≤ i && i < (areaOf (s.bufCfg z b)).2)

/-- The tenant, beside tenant 0, that may use an address of a segment (R476). -/
def State.zbUser (s : State) (a : Nat) : Option Nat :=
  let z := (a - 0x1D0000) / 0x1000
  let o := a % 0x1000
  if 0xA00 ≤ o then (s.payOwner z (o - 0xA00)).map (fun b => s.get F.ZB_BUF_CFG_TENANT z b)
  else if 0x200 ≤ o && 0x0C ≤ o % 32 then some (s.get F.ZB_BUF_CFG_TENANT z ((o - 0x200) / 32))
  else none

def State.zbMayUse (s : State) (t a : Nat) : Bool := t = 0 || (s.zbUser a = some t && s.tstate t != 0)

/-- A write of ZB_BUF_STAT (R455, R458, R462, R489). A transmit request by a tenant in HOLD is refused (R617). -/
def State.zbStatWrite (s : State) (w : Who) (z b : Nat) (data : Word) : State :=
  let a := R.ZB_BUF_STAT.at z b
  if F.ZB_BUF_STAT_TXREQ.of data = 1 && s.tstate w.tenant = 2 then s.plainW Res.refRights id
  else s.plainW Res.applied id |> fun s =>
    let s := s.setWord a (s.word a &&& ~~~(data &&& 0xC0000000))
    let s := if F.ZB_BUF_STAT_TXREQ.of data = 1 then s.zbRequest z b else s
    if F.ZB_BUF_STAT_TXABORT.of data = 1 then s.zbAbort z b else s

/-- A write of a descriptor's CFG, ID or MASK (R453, R458, R488). -/
def State.zbDescWrite (s : State) (w : Who) (z b a : Nat) (data : Word) : State :=
  if s.bit F.ZB_BUF_STAT_TXREQ z b then s.refuseWrite w a data Res.refConfig
  else
    let cfg := R.ZB_BUF_CFG.hit a
    s.cfgWrite w a data (fun x => if !cfg || s.bufCfgOk z b x then Res.applied else Res.refConfig) (fun old new s =>
      let m : Word := if cfg then 0xE800FF0F else 0x1FFFFFFF
      if old &&& m = new &&& m then s else (s.put F.ZB_BUF_STAT_NEWD 0 z b).put F.ZB_BUF_STAT_MSGLOST 0 z b)

/-- A write of a node table word (R487). -/
def State.zbNodeCfg (s : State) (w : Who) (z a : Nat) (data : Word) : State :=
  let i := R.ZB_NODE_SER.idx2 (a / 8 * 8)
  s.cfgWrite w a data (fun x =>
    let s' := s.setWord a x
    if s'.bit F.ZB_NODE_CFG_EN z i && (List.range 32).any (fun o => o != i && s'.bit F.ZB_NODE_CFG_EN z o && s'.nodeSerial z o == s'.nodeSerial z i)
    then Res.refConfig else Res.applied)

/-- A write of a word of payload memory (R458, R476). -/
def State.zbPayWrite (s : State) (z a : Nat) (data : Word) : State :=
  let busy := match s.payOwner z (a % 0x1000 - 0xA00) with | some b => s.bit F.ZB_BUF_STAT_TXREQ z b | none => false
  s.plainW Res.applied (fun s => if busy then s.inc F.ZB_CNT3_WREFUSED 1 z else s.setWord a data)

/-- A write of a timing register (R448). -/
def State.zbTiming (s : State) (w : Who) (z a : Nat) (data : Word) : State :=
  s.cfgWrite w a data (fun x =>
    let s' := s.setWord a x
    let ok := timingOk (s'.word (R.ZB_CTRL.at z)) (s'.word (R.ZB_NBT.at z)) (s'.word (R.ZB_DBT.at z)) (s'.word (R.ZB_TDC.at z))
      (R.ZB_NBT.hit a) (R.ZB_DBT.hit a)
    if s.get F.ZB_CTRL_MODE z = 0 && ok then Res.applied else Res.refConfig)

/-- A write of ZB_CTRL (R444, R448, R449). -/
def State.zbCtrlWrite (s : State) (w : Who) (z : Nat) (data : Word) : State :=
  s.cfgWrite w (R.ZB_CTRL.at z) data (fun x =>
    let fd := F.ZB_CTRL_FDOE.of x == 1 && !s.bit F.ZB_CTRL_FDOE z
    let judged := if fd then x else x &&& ~~~0x20000000
    if timingOk judged (s.word (R.ZB_NBT.at z)) (s.word (R.ZB_DBT.at z)) (s.word (R.ZB_TDC.at z)) fd fd then Res.applied else Res.refConfig)
    (fun old new s => if F.ZB_CTRL_MODE.of old = F.ZB_CTRL_MODE.of new then s else s.zbModeWritten z)

/-- A write of a supervisor register: they lie on the power die (R46, R486). -/
def State.zbPwrWrite (s : State) (w : Who) (z a : Nat) (data : Word) : State :=
  if !s.pdReach then s.dropWrite w a data
  else if w.tenant != 0 then s.refuseWrite w a data Res.refRights
  else if R.ZB_PWR_CFG.hit a then s.zbPwrCfg w z data
  else if R.ZB_PWR_FLT.hit a then s.zbFltWrite w z data
  else if R.ZB_PWR_CMD.hit a then s.zbCycle w z data
  else s.kindWrite w a data

/-- A write of a control register that has no rule of its own: audited, its flags included (R476). -/
def State.zbControl (s : State) (w : Who) (a : Nat) (data : Word) : State :=
  match fieldsAt a with
  | some fs => if isConfig fs then s.cfgWrite w a data else s.clearWrite w a data (fun _ _ s => s)
  | none => s.plainW Res.applied id

/-- A write of a ZB address. -/
def State.zbWrite (s : State) (w : Who) (a : Nat) (data : Word) : State :=
  let z := (a - 0x1D0000) / 0x1000
  let o := a % 0x1000
  let b := (o - 0x200) / 32
  if 0x60 ≤ o && o < 0x78 then s.zbPwrWrite w z a data
  else if !s.zbMayUse w.tenant a then
    (if 0xA00 ≤ o || (0x200 ≤ o && 0x0C ≤ o % 32) then s.plainW Res.refRights id else s.refuseWrite w a data Res.refRights)
  else if 0xA00 ≤ o then s.zbPayWrite z a data
  else if 0x200 ≤ o then
    (if o % 32 = 0x0C then s.zbStatWrite w z b data else if o % 32 < 0x0C then s.zbDescWrite w z b a data else s.plainW Res.applied id)
  else if 0x100 ≤ o then s.zbNodeCfg w z a data
  else if R.ZB_CTRL.hit a then s.zbCtrlWrite w z data
  else if R.ZB_NBT.hit a || R.ZB_DBT.hit a || R.ZB_TDC.hit a then s.zbTiming w z a data
  else if R.ZB_CMD.hit a then s.zbCmdWrite w z data
  else s.zbControl w a data

/-- The word a ZB address reads as: those that follow other state are computed. -/
def State.zbWord (s : State) (a : Nat) : Word :=
  let z := (a - 0x1D0000) / 0x1000
  if R.ZB_NEWD_LO.hit a then Word.ofN (maskOfZ 32 (fun b => s.bit F.ZB_BUF_STAT_NEWD z b))
  else if R.ZB_NEWD_HI.hit a then Word.ofN (maskOfZ 32 (fun b => s.bit F.ZB_BUF_STAT_NEWD z (32 + b)))
  else if R.ZB_TAGS.hit a then
    let n (st : Nat) : Nat := ((s.seg z).tags.filter (fun (e : Nat × ZbTag) => e.2.st == st)).length
    Word.ofN (n 3 + 65536 * n 2)
  else s.word a
where maskOfZ (n : Nat) (p : Nat → Bool) : Nat := ((List.range n).filter p).foldl (fun m i => m + 2 ^ i) 0

def execZbModeWrite (p : Path) (z : Fin 16) (data : Word) (s : State) : Out :=
  .next (s.byPath p (fun w s => s.zbWrite w (R.ZB_CTRL.at z.val) data))
def execZbRecover (p : Path) (z : Fin 16) (s : State) : Out :=
  .next (s.byPath p (fun w s => s.zbWrite w (R.ZB_CMD.at z.val) 1))
def execZbTxreq (p : Path) (z : Fin 16) (b : Fin 64) (s : State) : Out :=
  .next (s.byPath p (fun w s => s.zbWrite w (R.ZB_BUF_STAT.at z.val b.val) 0x20000000))
def execZbTxabort (p : Path) (z : Fin 16) (b : Fin 64) (s : State) : Out :=
  .next (s.byPath p (fun w s => s.zbWrite w (R.ZB_BUF_STAT.at z.val b.val) 0x10000000))
def execZbPwrCycle (p : Path) (z : Fin 16) (s : State) : Out :=
  .next (s.byPath p (fun w s => s.zbWrite w (R.ZB_PWR_CMD.at z.val) 1))
def execZbPwrFaultClear (p : Path) (z : Fin 16) (data : Word) (s : State) : Out :=
  .next (s.byPath p (fun w s => s.zbWrite w (R.ZB_PWR_FLT.at z.val) data))
def execZbPwrEnWrite (p : Path) (z : Fin 16) (data : Word) (s : State) : Out :=
  .next (s.byPath p (fun w s => s.zbWrite w (R.ZB_PWR_CFG.at z.val) data))

end Sys2Proof.Machine
end

