-- ==== Sys2Proof/Machine/Supervision.lean ====
section
/-! DEFINITION. Entering and releasing safe state across the blocks (R27, R34 to R38, R55, R139, R393), and accesses that
reach no block (R45, R46). -/

namespace Sys2Proof.Machine

/-- Outputs enter safe state (R33, R34, R36): a coil channel and a segment supply act on their entry at once; fans, analog
outputs and relay drivers at their block's next evaluation. An output that keeps the entry it acts on is not disturbed. -/
def State.safeEnter (s : State) (outs : List (Nat × Nat)) : State :=
  s.each outs (fun o s =>
    let a := s.safeOf o.1 o.2
    let s := s.safeApply o.1 o.2
    let b := s.safeOf o.1 o.2
    if a.inSafe = b.inSafe && a.off = b.off && a.acting = b.acting then s
    else if o.1 = Cls.coil then s.cdSafeEntry o.2
    else if o.1 = Cls.zbPwr then s.zbSafeEntry o.2
    else s)

/-- Every output enters safe state by a cause (R34 ranks 2 to 4). -/
def State.safeAll (s : State) (cause : Fld) : State := (s.safeCause cause).safeEnter allOutputs

/-- A write of AON_SAFE_REL (R35 to R37): a segment supply released starts when it is wanted (R473). -/
def State.safeRelease (s : State) (w : Who) (data : Word) : State :=
  let held := (List.range 16).filter (fun z => (s.safeOf Cls.zbPwr z).inSafe)
  let s := s.safeRelWrite w data
  let r := s.wres
  { s.each (held.filter (fun z => !(s.safeOf Cls.zbPwr z).inSafe)) (fun z s => s.zbWant z true) with wres := r }

/-- The word of AON_SAFE_REL that a command writes: the command's own bit is 1. -/
def relWord (f : Fld) (data : Word) : Word := setBits data f.lo f.w 1

def execSafeRelAll (p : Path) (data : Word) (s : State) : Out :=
  .next (s.byPath p (fun w s => s.safeRelease w (relWord F.AON_SAFE_REL_ALL data)))

def execSafeRelCoil (p : Path) (data : Word) (s : State) : Out :=
  .next (s.byPath p (fun w s => s.safeRelease w (relWord F.AON_SAFE_REL_COIL data)))

def execSafeRelFan (p : Path) (data : Word) (s : State) : Out :=
  .next (s.byPath p (fun w s => s.safeRelease w (relWord F.AON_SAFE_REL_FAN data)))

def execSafeRelAo (p : Path) (data : Word) (s : State) : Out :=
  .next (s.byPath p (fun w s => s.safeRelease w (relWord F.AON_SAFE_REL_AO data)))

def execSafeRelDo (p : Path) (data : Word) (s : State) : Out :=
  .next (s.byPath p (fun w s => s.safeRelease w (relWord F.AON_SAFE_REL_DO data)))

def execSafeRelZbpwr (p : Path) (data : Word) (s : State) : Out :=
  .next (s.byPath p (fun w s => s.safeRelease w (relWord F.AON_SAFE_REL_ZBPWR data)))

/-- The guard trips (R393): every output enters safe state under rank 2 of R34. -/
def execGuardTrip (s : State) : Out :=
  .next (if s.guardHot && !s.bit F.FAN_GUARD_TRIP then
      ((s.guardTrip.guardFlt F.FAN_GUARD_FLT_TRIPPED).safeAll F.AON_SAFE_STAT_GUARD)
    else s)

/-- The 3 s timer of the power die expires (R139): loop-bound outputs enter safe state under rank 5 of R34. A timer that a
FUNC_RST has cancelled does nothing (R141). -/
def execLeFaultTimerExpiry (s : State) : Out :=
  .next (match s.le.pdTimer with
    | some t =>
      if s.le.cancel then s
      else
        let s := s.reach t
        let s := { s with le := { s.le with pdTimer := none, withheld := [] } }
        let s := (s.safeCause F.AON_SAFE_STAT_LEFAULT).safeEnter (allOutputs.filter (fun o => s.loopBound o.1 o.2))
        (s.put F.LE_LS_STAT_SAFE 1).put F.LE_LS_STAT_TIMER 0
    | none => s)

/-- An access to an address of no block (R45): it reads 0 or has no effect, and is recorded. -/
def execUnmappedAccess (p : Path) (a : Fin (2 ^ 24)) (write : Bool) (s : State) : Out :=
  .next (s.byPath p (fun _ s => if isUnmapped a.val then { s.unmapped a.val write with rdata := 0 } else s))

/-- An access to a power-die block while the link is lost (R46). -/
def execPowerAccessDropped (p : Path) (a : Fin (2 ^ 24)) (write : Bool) (data : Word) (s : State) : Out :=
  .next (s.byPath p (fun w s =>
    if isPower a.val && !s.linkUp then (if !write then s.dropRead else if R.AON_SAFE_REL.hit a.val then s.safeRelDrop w data else s.dropWrite w a.val data) else s))

end Sys2Proof.Machine
end

