-- ==== Sys2Proof/Machine/HostOps.lean ====
section
/-! DEFINITION. The register side of the host interface (R667 to R678): the watchdog, function resets, and the requests of a
warm reset and of a power cycle. -/

namespace Sys2Proof.Machine

def State.setHb (s : State) (h : HbState) : State := { s with hb := h }
def State.setClk (s : State) (c : ClkState) : State := { s with clk := c }

/-! ### The watchdog (R667, R668) -/

/-- HOSTMODE names a host port. -/
def State.hostPort (s : State) : Bool := s.get F.SYS_STRAPS_HOSTMODE == 1 || s.get F.SYS_STRAPS_HOSTMODE == 2

/-- The watchdog is armed (R667); service mode keeps it disarmed (R697). -/
def State.wdArmed (s : State) : Bool := s.bit F.HB_WDOG_CFG_EN && s.hostPort && !s.service

/-- The first period starts: at the end of boot, or at the write of EN (R667). -/
def State.wdStart (s : State) : State :=
  s.setHb { s.hb with wdDue := if s.wdArmed then some (s.now + 100000 * s.get F.HB_WDOG_CFG_FIRST) else none }

/-- A change of EXPIRED, with its EVENT record (R668). -/
def State.wdExpired (s : State) (v : Nat) : State :=
  let word (s : State) : Word := setBits (s.word (R.HB_WDOG_STAT.at)) 30 1 (b2n s.wdArmed)
  let old := word s
  let s := s.put F.HB_WDOG_STAT_EXPIRED v
  s.auditEvent (R.HB_WDOG_STAT.at) old (word s)

/-- A write of HB_KICK (R667): SK0 makes no kicks, and a wrong key counts whoever writes it. -/
def State.wdKick (s : State) (w : Who) (data : Word) : State :=
  if F.HB_KICK_KEY.of data != 0x6B then s.plainW Res.applied (fun s => s.inc F.HB_CNT_BADKICK)
  else if w.bank = 5 then s.plainW Res.applied id
  else s.plainW Res.applied (fun s =>
    if !s.wdArmed then s
    else
      let s := if s.bit F.HB_WDOG_STAT_EXPIRED then s.wdExpired 0 else s
      s.setHb { s.hb with wdDue := some (s.now + 1000 * s.get F.HB_WDOG_CFG_PERIOD) })

/-- A period ends without a kick (R668). -/
def State.wdExpire (s : State) : State :=
  match s.hb.wdDue with
  | none => s
  | some t =>
    let s := s.reach t
    let s := s.setHb { s.hb with wdDue := none }
    let s := ((s.wdExpired 1).icPulse 124).inc F.HB_CNT2_EXPIRIES
    s.postErr 0 0x0D F.HB_WDOG_STAT_EXPIRED.lo []

/-- A write of HB_WDOG_CFG (R667, R668). -/
def State.wdCfgWrite (s : State) (w : Who) (data : Word) : State :=
  s.cfgWrite w (R.HB_WDOG_CFG.at) data
    (fun x => if F.HB_WDOG_CFG_EN.of x = 1 && !s.hostPort then Res.refConfig else Res.applied)
    (fun old new s =>
      if F.HB_WDOG_CFG_EN.of new = 0 then (s.put F.HB_WDOG_STAT_EXPIRED 0).setHb { s.hb with wdDue := none }
      else if F.HB_WDOG_CFG_EN.of old = 0 && s.boot.stage = 7 then s.wdStart
      else s)

/-! ### Function resets (R670, R671) -/

/-- The codes of R670. -/
def funcKnown (f : Nat) : Bool :=
  f < 0x14 || (0x20 ≤ f && f < 0x34) || (0x40 ≤ f && f ≤ 0x42) || f = 0x48 || f = 0x49 || (0x50 ≤ f && f ≤ 0x53) || f = 0x58 || 0x100 ≤ f

/-- The function lies on the power die. -/
def funcPower (f : Nat) : Bool := 0x10 ≤ f && f < 0x34

/-- The bound of R670 in µs; a tenant's has none. -/
def funcBound (f : Nat) : Option Nat :=
  if f < 0x10 then some 1000 else if f < 0x14 then some 10 else if f < 0x30 then some 25000 else if f < 0x34 then some 2000
  else if f < 0x43 then some 10000 else if f = 0x48 then some 500000 else if f = 0x49 then some 50000
  else if f < 0x54 then some 1 else if f = 0x58 then some 10000 else none

/-- What the reset of a function does; a card answers as `storeReadyAt` says. -/
def State.funcReset (s : State) (f : Nat) (cap : Option Nat) (card : Option (List (Nat × List Byte))) : State :=
  if f < 0x10 then s.zbFuncRst f
  else if f < 0x14 then s.adcFuncRst (f - 0x10)
  else if f < 0x30 then s.cdPairRst (f - 0x20)
  else if f < 0x34 then s.fanFuncRst (f - 0x30)
  else if f < 0x43 then s.clPortFuncRst (f - 0x40)
  else if f = 0x48 then s.logFuncRst cap card
  else if f = 0x49 then s.pnlFuncRst
  else if f < 0x54 then s.skFuncRst (f - 0x50)
  else if f = 0x58 then s.leFuncRst
  else s.tenResetGo (f - 0x100)

/-- The function's reset has completed. -/
def State.funcDone (s : State) (f : Nat) : Bool :=
  if f < 0x10 then !(s.seg f).rst
  else if 0x20 ≤ f && f < 0x30 then !(s.cdOf (2 * (f - 0x20))).rst && !(s.cdOf (2 * (f - 0x20) + 1)).rst
  else if f = 0x49 then s.pnl.rstAt.isNone
  else if f = 0x58 then !s.le.rst
  else if 0x100 ≤ f then !s.bit F.TEN_CTX_STAT_PEND (f - 0x100)
  else true

/-- A write of HB_FUNC_RST (R669 to R671). -/
def State.funcWrite (s : State) (w : Who) (data : Word) (cap : Option Nat) (card : Option (List (Nat × List Byte))) : State :=
  let f := F.HB_FUNC_RST_FUNC.of data
  let t := f - 0x100
  let res :=
    if w.tenant != 0 then Res.refRights
    else if s.bit F.HB_FUNC_STAT_BUSY || !funcKnown f then Res.refConfig
    else if 0x100 ≤ f && (t = 0 || s.tstate t = 0) then Res.refConfig
    else if funcPower f && !s.linkUp then Res.notApplied
    else Res.applied
  s.auditW w { Tgt.reg (R.HB_FUNC_RST.at) 0 data with always := true } res (fun s =>
    if res = Res.applied then
      let s := (s.put F.HB_FUNC_STAT_BUSY 1).put F.HB_FUNC_STAT_FUNC f
      (s.setHb { s.hb with funcAt := some s.now }).funcReset f cap card
    else if res = Res.notApplied then (s.put F.HB_FUNC_STAT_RESULT 2).put F.HB_FUNC_STAT_FUNC f
    else s)

/-- The function completes (R671). A reset of the loop engine whose bound has passed completes in its own time. -/
def State.funcComplete (s : State) : State :=
  let s := if s.le.rst && (!s.bit F.HB_FUNC_STAT_BUSY || s.get F.HB_FUNC_STAT_FUNC = 0x58) then s.leFuncEnd else s
  if s.bit F.HB_FUNC_STAT_BUSY && s.funcDone (s.get F.HB_FUNC_STAT_FUNC) then
    ((s.put F.HB_FUNC_STAT_BUSY 0).put F.HB_FUNC_STAT_RESULT 1).setHb { s.hb with funcAt := none }
  else s

/-- The bound passes first: TIMEOUT, and an error record whose CODE the spec does not state (log entry 3). -/
def State.funcTimeout (s : State) : State :=
  let f := s.get F.HB_FUNC_STAT_FUNC
  match s.hb.funcAt, funcBound f with
  | some t, some b =>
    if s.funcDone f then s
    else
      let s := s.reach (t + b)
      let s := ((s.put F.HB_FUNC_STAT_BUSY 0).put F.HB_FUNC_STAT_RESULT 3).setHb { s.hb with funcAt := none }
      s.fresh.postErr 0 0x0D (Config.freeNat s.free % 65536) (leBytes 2 f)
  | _, _ => s

/-! ### Warm reset and power cycle (R669, R672) -/

/-- The log engine writes what waits at once (R583, R731). -/
def State.logFlushAll (s : State) : State :=
  if s.store != Store.ready || s.ringWaiting = 0 then s else s.logDue [{ region := 1, n := Nat.min 10 s.ringWaiting }]

/-- A bit of AON_RST_CAUSE is set at once (R722). -/
def State.rstBit (s : State) (b : Nat) : State := s.setWord (R.AON_RST_CAUSE.at) (s.word (R.AON_RST_CAUSE.at) ||| (1#32 <<< b))

/-- A bit of AON_RST_CAUSE of a warm reset is set, at once or when the link is next up (R722, R723). -/
def State.rstCause (s : State) (b : Nat) : State :=
  if s.linkUp then s.rstBit b else s.setClk { s.clk with causes := s.clk.causes ||| 2 ^ b }

/-- A warm reset is asked for with its bit of AON_RST_CAUSE. One that waits already stays, but one asked for by software, which
waits for the flush of R583, gives way to any other cause, which does not wait (R723): both bits are set. -/
def State.askWarm (s : State) (cause : Nat) : State :=
  match s.clk.warm with
  | some (c, _) =>
    if c = F.AON_RST_CAUSE_WARM_HOST.lo && cause != c then (s.rstCause c).setClk { (s.rstCause c).clk with warm := some (cause, s.now) } else s
  | none => s.setClk { s.clk with warm := some (cause, s.now) }

/-- PWRCYC_N is driven low from a time on (R669, R672), never during power-on reset. -/
def State.pwrCycle (s : State) (at_ : Nat) : State :=
  match s.hb.pwrcyc with
  | some _ => s
  | none => if s.clk.logicOff then s else (s.rstBit F.AON_RST_CAUSE_PWRCYC.lo).setHb { s.hb with pwrcyc := some at_ }

/-- A write of a key register by tenant 0 with the right key (R669). -/
def State.keyWrite (s : State) (w : Who) (a key : Nat) (data : Word) (eff : State → State) : State :=
  let res := if w.tenant != 0 then Res.refRights else if data.toNat % 256 != key then Res.refConfig else Res.applied
  s.auditW w { Tgt.reg a 0 data with always := true } res (fun s => if res = Res.applied then eff s.logFlushAll else s)

def State.warmWrite (s : State) (w : Who) (data : Word) : State :=
  s.keyWrite w (R.HB_WARM.at) 0xC3 data (fun s => s.askWarm F.AON_RST_CAUSE_WARM_HOST.lo)

/-- The power cycle waits until the ring is committed, or 100 ms (R669, R583). -/
def State.cycleWrite (s : State) (w : Who) (data : Word) : State :=
  s.keyWrite w (R.HB_PWRCYC.at) 0x3C data (fun s => s.pwrCycle (if s.log.ring.isEmpty then s.now else s.now + 100000))

/-! ### Registers -/

/-- A write of an HB register from the register side; host-side registers are written by the host's own accesses. -/
def State.hbWrite (s : State) (w : Who) (a : Nat) (data : Word) : State :=
  if 0x40FFE0 ≤ a then s.plainW Res.applied id
  else if R.HB_KICK.hit a then s.wdKick w data
  else if R.HB_FUNC_RST.hit a then s.funcWrite w data s.log.capMiB none
  else if R.HB_WARM.hit a then s.warmWrite w data
  else if R.HB_PWRCYC.hit a then s.cycleWrite w data
  else if w.tenant != 0 then s.refuseWrite w a data Res.refRights
  else if R.HB_WDOG_CFG.hit a then s.wdCfgWrite w data
  else if R.HB_LANE_CFG.hit a then
    s.cfgWrite w a data (fun x => if F.HB_LANE_CFG_EN.of x = 1 && F.HB_LANE_CFG_PRIO.of x = 0 then Res.refConfig else Res.applied)
  else s.kindWrite w a data

/-- The lane of a bank, for the banked mailbox. -/
def State.lane (s : State) (n : Nat) : HbLane := s.hb.lanes.getD n {}
def State.setLane (s : State) (n : Nat) (l : HbLane) : State := s.setHb { s.hb with lanes := putAt {} s.hb.lanes n l }

/-- HB_MBX_CTRL of a lane (R674). -/
def State.mbxWord (s : State) (n : Nat) : Word :=
  let l := s.lane n
  Word.ofN (2 ^ 31 * b2n l.busy + 2 ^ 30 * b2n l.tmo + 2 ^ 16 * (l.result % 16))

/-- The word an HB register reads as, to a path of a bank. -/
def State.hbWord (s : State) (bank a : Nat) : Word :=
  if R.HB_WDOG_STAT.hit a then setBits (s.word a) 30 1 (b2n s.wdArmed)
  else if R.HB_MBX_ADDR.hit a then Word.ofN (s.lane bank).addr
  else if R.HB_MBX_DATA.hit a then (s.lane bank).data
  else if R.HB_MBX_CTRL.hit a then s.mbxWord bank
  else if R.HB_FIFO.hit a then setBits (s.word a) 0 7 s.hb.fifo.length
  else if R.HB_HSTAT.hit a then setBits (s.word a) 2 1 (b2n (s.bit F.HB_WDOG_STAT_EXPIRED))
  else if R.HB_HID.hit a && !s.bit F.HB_HSTAT_READY then 0
  else s.word a

/-! ### Commands -/

def execWatchdogKick (p : Path) (s : State) : Out := .next (s.byPath p (fun w s => s.hbWrite w (R.HB_KICK.at) 0x6B))
def execWatchdogExpiry (s : State) : Out := .next s.wdExpire
def execFuncRstComplete (s : State) : Out := .next s.funcComplete
def execFuncRstTimeout (s : State) : Out := .next s.funcTimeout

def execWarmResetRequest (p : Path) (data : Word) (s : State) : Out := .next (s.byPath p (fun w s => s.hbWrite w (R.HB_WARM.at) data))
def execPowerCycle (p : Path) (data : Word) (s : State) : Out := .next (s.byPath p (fun w s => s.hbWrite w (R.HB_PWRCYC.at) data))

/-- A warm reset has not reached the end of boot within 1,000 ms (R672). -/
def execWarmBootTimeout (s : State) : Out :=
  .next (match s.clk.warmAt with | some t => let s := s.reach (t + 1000000); s.pwrCycle s.now | none => s)

/-- The 10 ms of PWRCYC_N end. -/
def execPwrcycNRelease (s : State) : Out :=
  .next (match s.hb.pwrcyc with
    | some t => (s.reach (t + 10000)).setHb { s.hb with pwrcyc := none }
    | none => s)

/-- A write of HB_FUNC_RST that names a function. -/
def State.funcCmd (s : State) (p : Path) (f : Nat) : State := s.byPath p (fun w s => s.hbWrite w (R.HB_FUNC_RST.at) (Word.ofN f))

def execZbFuncRst (p : Path) (z : Fin 16) (s : State) : Out := .next (s.funcCmd p z.val)
def execAdcFuncRst (p : Path) (k : Fin 4) (s : State) : Out := .next (s.funcCmd p (0x10 + k.val))
def execCdPairFuncRst (p : Path) (k : Fin 16) (s : State) : Out := .next (s.funcCmd p (0x20 + k.val))
def execFanGroupFuncRst (p : Path) (g : Fin 4) (s : State) : Out := .next (s.funcCmd p (0x30 + g.val))
def execClPortFuncRst (p : Path) (n : Fin 3) (s : State) : Out := .next (s.funcCmd p (0x40 + n.val))
def execPnlFuncRst (p : Path) (s : State) : Out := .next (s.funcCmd p 0x49)
def execSkFuncRst (p : Path) (k : Fin 4) (s : State) : Out := .next (s.funcCmd p (0x50 + k.val))
def execLeFuncRst (p : Path) (s : State) : Out := .next (s.funcCmd p 0x58)

/-- The card that answers the re-initialisation: its size, and its blocks when another has been fitted. -/
def execLogFuncRst (p : Path) (cap : Option Nat) (card : Option (List (Nat × List Byte))) (s : State) : Out :=
  .next (s.byPath p (fun w s => s.funcWrite w 0x48 cap card))

/-- The clamp phases of a pair's reset have ended (R260). -/
def execCdFuncRstComplete (k : Fin 16) (s : State) : Out := .next (s.cdPairRstDone k.val)

end Sys2Proof.Machine
end

