-- ==== Sys2Proof/Machine/AonOps.lean ====
section
/-! DEFINITION. The registers of the always-on domain and the charger (R53 to R55, R731, R733 to R738, R742 to R747). -/

namespace Sys2Proof.Machine

/-- The charger's mode follows its conditions (R737): constant current where it starts. -/
def State.chgUpdate (s : State) : State :=
  let m := s.get F.AON_CHG_STAT_MODE
  let icc := 50 * s.get F.AON_CHG_CFG_ICC
  let go (s : State) (m i : Nat) : State := (s.put F.AON_CHG_STAT_MODE m).put F.AON_CHG_STAT_ICHG i
  if !s.bit F.AON_CHG_CFG_EN then go s 0 0
  else if !s.clk.afe || s.bit F.AON_STAT_BAT_GONE then go s 3 0
  else if m = 2 then s
  else go s 1 icc

/-- AON_STAT.ON_BAT (R733, R738): the domain runs from VBAT while VDD_AFE has not recovered, or VBAT, as last measured, is above
the 3.2 V rail. -/
def State.onBat (s : State) : Bool := !s.bit F.AON_STAT_BAT_GONE && (!s.clk.afe || 3200 < s.get F.AON_SUP_STAT_VBAT)

/-- A write of an AON register (R742 to R747, R46). -/
def State.aonWrite (s : State) (w : Who) (a : Nat) (data : Word) : State :=
  if R.AON_SAFE_REL.hit a then s.safeRelease w data
  else if !s.pdReach then s.dropWrite w a data
  else if w.tenant != 0 then s.refuseWrite w a data Res.refRights
  else if R.AON_CHG_CFG.hit a then s.cfgWrite w a data (fun _ => Res.applied) (fun _ _ s => s.chgUpdate)
  else if R.AON_STAT.hit a then s.clearWrite w a data (fun _ _ s => s.chgUpdate)
  else if R.AON_SAFE_STAT.hit a then
    s.clearWrite w a data (fun _ new s =>
      if new &&& 0x0F = 0 then (s.setWord (R.AON_SAFE_TIME_LO.at) 0).setWord (R.AON_SAFE_TIME_HI.at) 0 else s)
  else if R.AON_RST_CAUSE.hit a || R.AON_SUP_EVT.hit a then s.clearWrite w a data (fun _ _ s => s)
  else s.kindWrite w a data

/-- The word an AON register reads as. -/
def State.aonWord (s : State) (a : Nat) : Word :=
  if R.AON_SAFE_STAT.hit a then setBits (s.word a) 8 1 (b2n s.safeActive)
  else if R.AON_STAT.hit a then setBits (s.word a) 0 1 (b2n s.onBat)
  else if R.AON_RTC_LO.hit a then Word.ofN s.rtc
  else if R.AON_RTC_HI.hit a then Word.ofN (s.rtc / 2 ^ 32)
  else s.word a

/-- A write of 1 to BAT_GONE (R738). -/
def execBatGoneClear (p : Path) (s : State) : Out := .next (s.byPath p (fun w s => s.aonWrite w (R.AON_STAT.at) 4))

/-- VBAT reaches 3.1 V: the current that constant voltage takes is the cell's, at most ICC (log entry 3). -/
def execChargerCvReached (s : State) : Out :=
  .next (if s.get F.AON_CHG_STAT_MODE = 1 then
      (s.fresh.put F.AON_CHG_STAT_MODE 2).put F.AON_CHG_STAT_ICHG (Config.freeNat s.free % (50 * s.get F.AON_CHG_CFG_ICC + 1))
    else s)

/-- An event of the power die that raises a source: at once, or when the link is next up. -/
def State.pdIrq (s : State) (n : Nat) : State :=
  if s.linkUp then s.icPulse n else s.setClk { s.clk with irqs := s.clk.irqs ++ [n] }

/-- Warning thresholds of R729 in mV: VDD_CORE, VDD_IO, VDD_AFE, VBAT. -/
def supWarn (i : Nat) : Nat := [760, 3100, 4700, 2200].getD i 0

/-- The monitor of supply i reads mV (R729, R731): below the threshold it warns; 3 % above, the condition ends. The logic die itself
monitors VDD_CORE and VDD_IO, so its source waits for no link. -/
def execSupplyWarning (i : Fin 4) (mV : Nat) (s : State) : Out :=
  let a := R.AON_SUP_STAT.at
  let s := if i.val = 3 then s.put F.AON_SUP_STAT_VBAT mV else s
  let on := bitsOf (s.word a) i.val 1
  .next (if mV < supWarn i.val && on = 0 then
      let s := s.setWord a (setBits (s.word a) i.val 1 1)
      let s := s.setWord (R.AON_SUP_EVT.at) (setBits (s.word (R.AON_SUP_EVT.at)) i.val 1 1)
      let s := if i.val < 2 then s.icPulse 197 else s.pdIrq 197
      if i.val < 3 then s.logFlushAll else s
    else if 103 * supWarn i.val < 100 * mV then s.setWord a (setBits (s.word a) i.val 1 0)
    else s)

/-- CK_RTC has shown no edge for 4 ms (R717). -/
def execRtcStop (s : State) : Out :=
  .next { (s.put F.AON_STAT_RTC_STOP 1).put F.AON_STAT_RTC_VALID 0 with rtcHeld := some (s.rtcHeld.getD s.rtc) }

/-- The first time in µs at which the RTC's count is that of the time it shows (R736): N periods show floor(N × 15,625 / 512). -/
def rtcFrom (t : Nat) : Nat := ((t * 512 + 15624) / 15625 * 15625 + 511) / 512

/-- Edges resume: the held count goes on. -/
def execRtcResume (s : State) : Out :=
  .next (match s.rtcHeld with
    | some t => { s.put F.AON_STAT_RTC_STOP 0 with rtcHeld := none, rtcOff := (rtcFrom t + (2 ^ 64 - s.now % 2 ^ 64)) % 2 ^ 64 }
    | none => s)

/-- Every 1 s while SYNC is 1, the campus time is written back to the RTC (R515, R736), over the link. -/
def execRtcWriteback (s : State) : Out :=
  .next (if s.bit F.CL_TIME_STAT_SYNC && s.pdReach then
      let s := s.reach (s.clk.wbAt + 1000000)
      let s := s.setClk { s.clk with wbAt := s.now }
      if s.rtcHeld.isSome then s
      else { s.put F.AON_STAT_RTC_VALID 1 with rtcOff := s.campusOff }
    else s)

/-- The always-on domain powers up after losing its contents (R733, R735). -/
def State.aonReset (s : State) : State :=
  let s := { s with space := s.space.filter (fun e => e.1 / 0x10000 != 0x42) }
  let s := s.setWord (R.FAN_GUARD_FLT.at) 0
  { s with safeUnrec := 0, rtcHeld := none, rtcOff := (2 ^ 64 - s.now % 2 ^ 64) % 2 ^ 64 }

/-- The backup cell is removed (R738): while VDD_AFE is absent the domain loses its contents. -/
def execBatteryRemoval (s : State) : Out :=
  .next (if s.bit F.AON_STAT_BAT_GONE then s
    else if !s.clk.afe then s.aonReset
    else (((s.put F.AON_STAT_BAT_GONE 1).chgUpdate).pdIrq 196).pdErr 0 0x09 F.AON_STAT_BAT_GONE.lo [])

def execAonPowerUp (s : State) : Out := .next s.aonReset

end Sys2Proof.Machine
end

