-- ==== Sys2Proof/Machine/Bus.lean ====
section
/-! DEFINITION. The register space as one bus (R13 to R18, R44 to R46): a write and a read by an accessor at any address. -/

namespace Sys2Proof.Machine

/-! ### Writes -/

/-- A write of a SYS register (R47 to R52, R86, R91, R97 to R100, R739 to R741). Any tenant that is not RETIRED may clear VALID
of SYS_PT_DBE_LAST (log entry 120). -/
def State.sysWrite (s : State) (w : Who) (a : Nat) (data : Word) : State :=
  if R.SYS_PT_REL.hit a then s.ptRelWrite w data
  else if 0x1000 ≤ a && a < 0x2000 then (if a % 16 / 4 = 3 then s.plainW Res.applied id else s.profileWrite w ((a - 0x1000) / 16) (a % 16 / 4) data)
  else if R.SYS_ZONE_CFG.hit a then s.zoneCfgWrite w (R.SYS_ZONE_CFG.idx a) data
  else s.kindWrite w a data

/-- A write of an LE control register (R142 to R150, R175 to R186). -/
def State.leWrite (s : State) (w : Who) (a : Nat) (data : Word) : State :=
  if R.LE_SWAP.hit a then s.swapWrite w data
  else if R.LE_SWG_CMD.hit a then s.groupWrite w data
  else if R.LE_STATE_SEL.hit a then s.selWrite w data
  else if R.LE_SWG_CFG.hit a && w.tenant != 0 then s.refuseWrite w a data Res.refRights
  else s.kindWrite w a data

/-- A write of a CD register (R262 to R278, R310 to R332). -/
def State.cdWrite (s : State) (w : Who) (a : Nat) (data : Word) : State :=
  let n := (a - 0x190000) / 0x100
  if R.CD_CFG.hit a then s.cdCfgWrite w n data
  else if R.CD_FLT.hit a then s.cdFltWrite w n data
  else if R.CD_LEARN.hit a then s.cdLearnWrite w n data
  else if R.CD_HOLD_LRN.hit a then s.cdHoldLrnWrite w n data
  else if R.CD_LWIN.hit a then s.cdLwinWrite w data
  else s.cdRegWrite w a data

/-- The registers of the SYS and LE blocks whose write is an operation that judges its own tenant (R84, R148, R163, R165). -/
def ownPath (a : Nat) : Bool := R.SYS_PT_REL.hit a || R.LE_SWAP.hit a || R.LE_SWG_CMD.hit a || R.LE_STATE_SEL.hit a

/-- A write to the register space by an accessor: to the block the address lies in (R44). A tenant whose context is RETIRED
writes nothing but the kick of its lane (R602, R667). -/
def State.busWrite (s : State) (w : Who) (a : Nat) (data : Word) : State :=
  let b := a / 0x10000
  if isUnmapped a then (s.unmapped a true).plainW Res.applied id
  else if s.tstate w.tenant = 0 && (b = 0 || b = 0x18) && !ownPath a then s.refuseWrite w a data Res.refRights
  else if b = 0 then s.sysWrite w a data
  else if b = 1 then s.icWrite w a data
  else if b < 8 then s.tenWrite w a data
  else if b < 0x10 then s.ptWindowWrite w a data
  else if b < 0x18 then s.recWrite w ((a - 0x100000) / 64) (a % 64 / 4) data
  else if b = 0x18 then s.leWrite w a data
  else if b = 0x19 then s.cdWrite w a data
  else if b = 0x1A then s.fanWrite w a data
  else if b = 0x1B then s.adcWrite w a data
  else if b = 0x1C then s.fioWrite w a data
  else if b = 0x1D then s.zbWrite w a data
  else if b = 0x1E then s.clWrite w a data
  else if b = 0x1F then s.logWrite w a data
  else if b = 0x20 then s.skRegWrite w a data
  else if b < 0x27 then s.skMemWrite w a data
  else if b = 0x27 then s.plainW Res.applied id
  else if b < 0x3C then s.pnlWrite w a data
  else if b = 0x40 then s.hbWrite w a data
  else if b = 0x41 then s.bootWrite w a data
  else s.aonWrite w a data

/-! ### Reads -/

/-- A tenant may read a word of a data memory: it lies in a segment of one of its tasks (R191). -/
def State.skDataOf (s : State) (t k o : Nat) : Bool :=
  (List.range 64).any (fun u => s.skTaskUsed k u && s.get F.SK_TASK_CTL_TENANT k u == t &&
    256 * s.get F.SK_TASK_SEG_DBASE k u ≤ o && o < 256 * (s.get F.SK_TASK_SEG_DBASE k u + s.get F.SK_TASK_SEG_DSIZE k u + 1))

/-- Core and place of an address of the memories of SK1 to SK3: core, DMEM, offset. -/
def skMemAt (a : Nat) : Nat × Bool × Nat := ((a - 0x210000) / 0x20000 + 1, (a - 0x210000) / 0x10000 % 2 == 1, a % 0x10000)

/-- The tenant has the right to read the word at an address (R59, R133, R191, R602, and each block's chapter). -/
def State.mayRead (s : State) (w : Who) (a : Nat) : Bool :=
  let t := w.tenant
  let b := a / 0x10000
  if s.tstate t = 0 && !(2 ≤ b && b < 8) then false
  else if b = 1 then s.icMayRead w a
  else if 2 ≤ b && b < 8 then tenMayRead t a
  else if 8 ≤ b && b < 0x10 then true
  else if 0x10 ≤ b && b < 0x18 then t = 0 || s.leTenant ((a - 0x100000) / 64) = t
  else if b = 0x19 then t = 0 || (a < 0x192000 && s.cdTenant ((a - 0x190000) / 0x100) = t)
  else if b = 0x1A then s.fanMayRead t a
  else if b = 0x1B then t = 0
  else if b = 0x1C then s.fioMayRead t a
  else if b = 0x1D then s.zbMayUse t a
  else if b = 0x1E then t = 0 || isRwBank a
  else if b = 0x1F then t = 0
  else if 0x21 ≤ b && b < 0x27 then t = 0 || (let (k, d, o) := skMemAt a; d && s.skDataOf t k o)
  else if 0x28 ≤ b then t = 0 || 0x40FFE0 ≤ a && a ≤ 0x40FFFC
  else true

/-- The word that an address reads as, to a path of a bank, apart from rights: what is held, or what follows other state. The strap
pins' live levels are inputs: free values (log entry 154). -/
def State.liveWord (s : State) (w : Who) (a : Nat) : Word :=
  let b := a / 0x10000
  if R.SYS_ZONE_SUM.hit a then
    let z := s.zoneSum (R.SYS_ZONE_SUM.idx a)
    Word.ofN (z.1 + 65536 * z.2)
  else if b = 1 then s.icWord a
  else if 2 ≤ b && b < 8 then s.tenWord w.bank a
  else if 8 ≤ b && b < 0x10 then s.ptWordFor w.tenant ((a - 0x80000) / 16) (a % 16 / 4)
  else if R.CD_CMD.hit a then setBits (s.word a) 31 1 (b2n (s.loopBound Cls.coil (R.CD_CMD.idx a)))
  else if R.CD_FLTMAP.hit a then Word.ofN s.cdFltMap
  else if R.CD_ACTMAP.hit a then Word.ofN s.cdActMap
  else if b = 0x1A then s.fanWord a
  else if b = 0x1C then s.fioWord a
  else if b = 0x1D then s.zbWord a
  else if b = 0x1E then s.clWord w.bank a
  else if b = 0x1F then s.logWord a
  else if R.SK_CTRL.hit a && R.SK_CTRL.idx a = 0 then 1
  else if R.SK_STAT.hit a then setBits (s.word a) 24 4 (s.core (R.SK_STAT.idx a)).cbuf.length
  else if 0x28 ≤ b && b < 0x30 then s.pnlWord a
  else if b = 0x40 then s.hbWord w.bank a
  else if b = 0x42 then s.aonWord a
  else if R.BOOT_STRAP_LIVE.hit a then Config.freeWord s.free &&& 0xFFFF
  else s.word a

/-- The _LO registers whose read captures their _HI for the path (R515, R595, R746, R747). -/
def captureLo : List Reg :=
  [R.CL_TIME_LO, R.LOG_NEXT_LO, R.LOG_COMMIT_LO, R.LOG_OLDEST_LO, R.LOG_MIRRORED_LO, R.AON_RTC_LO, R.AON_LOG_SEQ_LO, R.AON_LOG_MIR_LO]

/-- A read reaches its register: RCL fields clear (R14), a _LO register captures its _HI. -/
def State.readReg (s : State) (w : Who) (a : Nat) : State :=
  let s := { s with rdata := s.liveWord w a, wres := Res.applied }
  if captureLo.any (fun r => r.at == a) then
    s.setBank w.cap { s.bank w.cap with capture := some (a + 4, s.liveWord w (a + 4)) }
  else
    match fieldsAt a with
    | some fs => if fs.any (fun f => f.acc == .rcl) then s.setWord a (clearRcl fs (s.word a)) else s
    | none => s

/-- A read of the register space by an accessor: its data is left in `rdata`. The address that its last read captured answers
with the captured word (R64). A read of the loop table waits for the writes before it (R102). -/
def State.busRead (s : State) (w : Who) (a : Nat) : State :=
  let cap := (s.bank w.cap).capture
  let s := s.dropCap w.cap
  if !w.en then { s.inc F.HB_CNT2_REFUSED with rdata := 0, wres := Res.refRights }
  else if isUnmapped a then { s.unmapped a false with rdata := 0, wres := Res.applied }
  else if isPower a && !s.pdReach then s.dropRead
  else
    match cap with
    | some (a', x) => if a' = a then { s with rdata := x, wres := Res.applied } else go s
    | none => go s
where
  go (s : State) : State :=
    let s := if 0x100000 ≤ a && a < 0x180000 then s.leDrain else s
    if R.IC_TGT_CLAIM.hit a then s.icClaimRead w (R.IC_TGT_CLAIM.idx a)
    else if !s.mayRead w a then
      let s := { s with rdata := 0, wres := Res.applied }
      if 0x210000 ≤ a && a < 0x270000 then s.inc F.SK_CNT2_DENIED 1 (skMemAt a).1 else s
    else if R.BOOT_STRAP_LIVE.hit a then { s.fresh with rdata := s.liveWord w a, wres := Res.applied }
    else if R.PT_VALUE.hit a then { s.ptValueRead w (R.PT_VALUE.idx a) .clean with wres := Res.applied }
    else if 0x80000 ≤ a && a < 0x100000 then (s.ptFind ((a - 0x80000) / 16)).readReg w a
    else s.readReg w a

/-- A write by a path, at any address of the register space. -/
def execRegisterWrite (p : Path) (a : Fin (2 ^ 24)) (data : Word) (s : State) : Out :=
  .next (s.byPath p (fun w s => s.busWrite w (a.val / 4 * 4) data))

end Sys2Proof.Machine
end

