-- ==== Sys2Proof/Machine/Boot.lean ====
section
/-! DEFINITION. Boot (R679 to R697, R701, R705 to R711): straps, OTP, choosing and verifying a slot, boot loads, the safe-state
table, the checks across sections, service mode and the end of boot. -/

namespace Sys2Proof.Machine

def State.bootErr (s : State) (code : Nat) (fields : List Byte) : State :=
  s.setBoot { s.boot with errs := s.boot.errs ++ [(code, fields)] }

/-- An error record whose CODE the spec does not state (log entry 3). -/
def State.bootErrFree (s : State) (fields : List Byte) : State := s.fresh.bootErr (Config.freeNat s.free % 65536) fields

def State.bootErrFlush (s : State) : State :=
  let es := s.boot.errs
  (s.setBoot { s.boot with errs := [] }).each es (fun e s => s.postErr 0 0x0F e.1 e.2)

/-! ### Service mode (R697) -/

/-- Service mode: lane 0 with tenant 0 and PRIO 8, the other lanes disabled, the log without mirroring. What remains of boot
is its end. -/
def State.serviceMode (s : State) (cause : Nat) : State :=
  let s := (s.put F.BOOT_STAT_SERVICE 1).put F.BOOT_STAT_SVC cause
  let s := s.each (List.range 4) (fun n s => s.put F.HB_LANE_CFG_EN (b2n (n == 0)) n)
  let s := (s.put F.HB_LANE_CFG_TENANT 0 0).put F.HB_LANE_CFG_PRIO 8 0
  let s := ((s.put F.LOG_CTRL_MIRROR 0).put F.LOG_CTRL_FLUSH 10).put F.CL_CTRL_EN 0
  s.setBoot { s.boot with stage := 6, tries := [] }

/-! ### t0 and t1 (R679, R694, R700, R701) -/

/-- The sampled levels of DEVID, BOOTSEL, HOSTMODE and MASTERPRI, laid out as BOOT_STRAP_LIVE. -/
def State.strapsHeld (s : State) : Nat :=
  s.deviceId + 2 ^ 10 * s.get F.SYS_STRAPS_BOOTSEL + 2 ^ 12 * s.get F.SYS_STRAPS_HOSTMODE + 2 ^ 14 * s.get F.SYS_STRAPS_MASTERPRI

/-- The straps are sampled at the release of power-on reset. -/
def State.strapSample (s : State) (live : Word) : State :=
  let d := F.BOOT_STRAP_LIVE_DEVID.of live
  let h := F.BOOT_STRAP_LIVE_HOSTMODE.of live
  let s := (s.put F.SYS_STRAPS_MEMBER (d % 32)).put F.SYS_STRAPS_ISLAND (d / 32)
  let s := (s.put F.SYS_STRAPS_BOOTSEL (F.BOOT_STRAP_LIVE_BOOTSEL.of live)).put F.SYS_STRAPS_HOSTMODE h
  let s := s.put F.SYS_STRAPS_MASTERPRI (F.BOOT_STRAP_LIVE_MASTERPRI.of live)
  (s.put F.HB_MODE_HOSTMODE h).put F.HB_MODE_INVALID (b2n (h == 3))

/-- A warm boot compares the live straps with the sampled ones. -/
def State.strapCompare (s : State) (live : Word) : State :=
  let held := s.strapsHeld
  if held = live.toNat then s
  else (s.put F.BOOT_STAT_STRAP_CHG 1).bootErr F.BOOT_STAT_STRAP_CHG.lo (leBytes 2 held ++ leBytes 2 live.toNat)

/-- t0: boot starts, unless a reset or the lost reference still holds it (R715, R730); campus time starts from the RTC (R736). -/
def State.bootStart (s : State) (live : BitVec 16) : State :=
  if s.boot.stage != 0 || s.clk.refLost || s.clk.logicOff then s
  else
    let x : Word := Word.ofN live.toNat
    let t := if s.bit F.AON_STAT_RTC_VALID then s.rtc else 0
    let s := { s with bootAt := s.now, campusOff := (t + 2 ^ 64 - s.now % 2 ^ 64) % 2 ^ 64 }
    let s := (s.setBoot { s.boot with stage := 1, t0 := s.now }).setWord (R.BOOT_STRAP_LIVE.at) x
    let s := s.setWord (R.BOOT_CAUSE.at) 0x11
    if s.boot.warm then s.strapCompare x
    else
      let s := if s.bit F.SYS_CLK_STAT_REF_OK then s else (s.put F.SYS_CLK_STAT_REF_OK 1).setClk { s.clk with refAt := s.now }
      s.strapSample x

def execBootStart (live : BitVec 16) (s : State) : Out := .next (s.bootStart live)

/-- t1: OTP is loaded and its CRC checked. -/
def State.bootOtp (s : State) (otp : List Byte) : State :=
  if s.boot.stage != 1 then s
  else
    let num (o n : Nat) : Nat := leVal ((otp.drop o).take n)
    let s := s.each (List.range 512) (fun k s => s.setWord (R.CAL_OTP.at k) (Word.ofN (num (4 * k) 4)))
    let s := (s.put F.CAL_STAT_REVOKED (num 0x88 4)).put F.CAL_STAT_FACT_BAD 0
    let body := (List.range 0x6FC).map (fun i => otp.getD (0x100 + i) 0)
    if crc32 body != num 0x7FC 4 then (s.put F.CAL_STAT_FACT_BAD 1).serviceMode 4
    else s.setBoot { s.boot with stage := 2 }

def execBootOtpLoaded (otp : List Byte) (s : State) : Out := .next (s.bootOtp otp)

/-! ### Choosing a slot (R680, R683) -/

def State.putCause (s : State) (slot c : Nat) : State := s.put (if slot = 0 then F.BOOT_CAUSE_CAUSE_A else F.BOOT_CAUSE_CAUSE_B) c

/-- The procedure of R683 up to its first try. -/
def State.bootChoose (s : State) : State :=
  let sel := s.get F.SYS_STRAPS_BOOTSEL
  let try_ (s : State) (first : Nat) (l : List Nat) (useRec : Bool) : State :=
    s.setBoot { s.boot with stage := 3, tries := l, first := first, useRec := useRec }
  let s := s.putIf s.recInForce.isNone F.BOOT_STAT_NOREC 1
  if sel = 3 then s.showRec.serviceMode 1
  else if sel != 0 then try_ s.showRec (sel - 1) [sel - 1] false
  else
    match s.recInForce with
    | none => try_ s 0 [0, 1] true
    | some (_, r) =>
      let o := 1 - r.active
      let s := s.showRec
      if r.trial = 0 then try_ s r.active [r.active, o] true
      else if r.tries = 0 then try_ (s.putCause r.active Cause.tries) r.active [o] true
      else try_ (s.writeRec r.active 1 (r.tries - 1)) r.active [r.active, o] true

/-- What SFDP told: a valid signature, 4-4-4 with an enable method, 1-1-4, a 64 KiB erase type, and the density in MiB. -/
structure Sfdp where
  valid : Bool
  quad444 : Bool
  quad114 : Bool
  erase64k : Bool
  mib : Nat
  deriving DecidableEq, Repr

/-- t3, once the link is up: the flash is probed; its content is what the command brings, or what the model holds. -/
def State.bootProbe (s : State) (f : Sfdp) (content : Option (List (Nat × List Byte))) : State :=
  if s.boot.stage != 2 || !s.linkUp then s
  else if !f.valid || !(f.quad444 || f.quad114) || f.mib < 32 || !f.erase64k then s.serviceMode 2
  else
    let s := ((s.put F.BOOT_FLASH_QUAD444 (b2n f.quad444)).put F.BOOT_FLASH_ADDR4 1).put F.BOOT_FLASH_MIB (Nat.min f.mib 64)
    let s := match content with
      | none => s
      | some l => (s.setBoot { s.boot with flash := [] }).each l (fun (e : Nat × List Byte) s => s.setFlashPage e.1 ((e.2 ++ erasedPage).take 256))
    s.bootChoose

def execBootFlashProbed (valid quad444 quad114 erase64k : Bool) (mib : Nat) (content : Option (List (Nat × List Byte))) (s : State) : Out :=
  .next (s.bootProbe ⟨valid, quad444, quad114, erase64k, mib⟩ content)

/-! ### Verification (R684, R688) -/

/-- try(s) has failed: the next slot is tried, or none is left. -/
def State.tryFailed (s : State) (slot c : Nat) : State :=
  let s := s.putCause slot c
  let l := s.boot.tries.drop 1
  if l.isEmpty then s.serviceMode 3 else s.setBoot { s.boot with stage := 3, tries := l }

/-- The slot being tried. -/
def State.trySlot (s : State) : Nat := s.boot.tries.headD 0

/-- t4: the image has been read, or a read failed. -/
def State.bootRead (s : State) (ok : Bool) : State :=
  if s.boot.stage != 3 then s
  else
    let c := s.headCause s.trySlot ok
    if c != 0 then s.tryFailed s.trySlot c else s.setBoot { s.boot with stage := 4 }

def execBootImageReadComplete (ok : Bool) (s : State) : Out := .next (s.bootRead ok)

/-- The other slot succeeded after the first had failed (R684). -/
def State.bootFallback (s : State) (o : Nat) : State :=
  let s := (s.writeRec o 0 0).put F.BOOT_STAT_FALLBACK 1
  s.bootErr F.BOOT_STAT_FALLBACK.lo (leBytes 1 (s.get F.BOOT_CAUSE_CAUSE_A) ++ leBytes 1 (s.get F.BOOT_CAUSE_CAUSE_B))

/-- t5: every check has passed. -/
def State.bootVerified (s : State) : State :=
  if s.boot.stage != 4 then s
  else
    let o := s.trySlot
    let c := s.tailCause o
    if c != 0 then s.tryFailed o c
    else
      let s := s.putCause o 0
      let onTrial := s.boot.useRec && o == s.boot.first && s.bit F.BOOT_REC_TRIAL
      let s := if o = s.boot.first then s.put F.BOOT_STAT_FALLBACK 0 else s.bootFallback o
      let s := (s.put F.BOOT_STAT_SLOT o).put F.BOOT_STAT_TRIAL (b2n onTrial)
      let hash := beBytes 32 (s.imgDigest o)
      let s := s.each (List.range 8) (fun k s => s.setWord (R.BOOT_IMG_HASH.at k) (Word.ofN (leVal ((hash.drop (4 * k)).take 4))))
      let s := s.each (List.range 8) (fun k s => s.setWord (R.BOOT_IMG_BUILD.at k) (Word.ofN (s.flashNum (slotBase o + 16 + 4 * k) 4)))
      s.setBoot { s.boot with stage := 5 }

def execBootSignatureVerified (s : State) : Out := .next s.bootVerified

/-! ### Boot loads (R690) -/

/-- A word with the bits of its register's fields only. -/
def fieldMask (fs : List Fld) (v : Word) : Word := fs.foldl (fun x f => setBits x f.lo f.w (f.of v)) 0

/-- The fields of a register that the image does not hold keep what they have: MODE of ZB_CTRL (R445), MINUTES of CD_LWIN. -/
def State.keepRun (s : State) (a : Nat) (v : Word) : Word :=
  let keep (f : Fld) : Word := setBits v f.lo f.w (f.of (s.word a))
  if R.ZB_CTRL.hit a then keep F.ZB_CTRL_MODE else if R.CD_LWIN.hit a then keep F.CD_LWIN_MINUTES else v

/-- How an address of a REGLIST is loaded. -/
inductive LoadKind where
  | none | point | loop | enable | direct | code | bus
  deriving DecidableEq, Repr

def loadKind (a : Nat) : LoadKind :=
  if !(imageRegs.any (fun r => r.hit a)) then .none
  else if 0x80000 ≤ a && a < 0x100000 then .point
  else if 0x100000 ≤ a && a < 0x180000 then .loop
  else if R.IC_EN.hit a || R.IC_EN_SET.hit a || R.IC_EN_CLR.hit a then .enable
  else if R.CL_PORT_MAC_LO.hit a || R.CL_PORT_MAC_HI.hit a || R.CL_ISL_UID.hit a then .direct
  else if R.PNL_ACC_CODE.hit a then .code
  else .bus

/-- A power-die word that the load would not change (R696). -/
def State.sameWord (s : State) (a : Nat) (v : Word) : Bool :=
  isPower a && (match fieldsAt a with | some fs => mergeWrite fs (s.word a) v == s.word a | none => true)

/-- A section's words are in place before any is judged: the constraints between two words hold for the pair as loaded, in
whatever order the list gives them (log entry 60). -/
def State.bootPre (s : State) (e : Nat × Word) : State :=
  let v := s.keepRun e.1 e.2
  match fieldsAt e.1 with
  | none => s
  | some fs =>
    match loadKind e.1 with
    | .bus => if rangesOk fs v && !s.sameWord e.1 v then s.setWord e.1 (mergeWrite fs (s.word e.1) v) else s
    | .loop => if rangesOk fs v then s.setWord e.1 (fieldMask fs v) else s
    | _ => s

/-- A word of a point (R66): its VALUE as the image gives it, CONFIG and BIND without the checks that span sections. -/
def State.bootPoint (s : State) (a : Nat) (v : Word) : State × Bool :=
  let i := (a - 0x80000) / 16
  let k := a % 16 / 4
  if k = 0 then (if fFinite v then (s.setWord a v, true) else (s, false))
  else if k = 2 then
    match fieldsAt a with
    | some fs => if rangesOk fs v then (s.setWord a (fieldMask fs v), true) else (s, false)
    | none => (s, true)
  else if s.bindOk v then ((s.setWord a v).ptBindAfter i (s.word a) v, true)
  else (s, false)

/-- One boot load, with whether its word keeps every constraint; `pre` is the state before the section. -/
def State.bootWord (pre : State) (e : Nat × Word) (s : State) : State × Bool :=
  let (a, v) := e
  match loadKind a with
  | .none => (s, true)
  | .point => s.bootPoint a v
  | .loop => (s, match fieldsAt a with | some fs => rangesOk fs v | none => true)
  | .enable =>
    let k := a % 32 / 4
    ((List.range 32).foldl (fun (s : State) b => s.icEn (v.getLsbD b) (32 * k + b)) s, true)
  | .direct => (s.setWord a (match fieldsAt a with | some fs => fieldMask fs v | none => v), true)
  | .code => if bcdOk v then (s.setPnl { s.pnl with codes := putAt 0 s.pnl.codes (R.PNL_ACC_CODE.idx a) v }, true) else (s, false)
  | .bus =>
    let v := pre.keepRun a v
    if pre.sameWord a v then (s, true)
    else
      let s := (s.setWord a (pre.word a)).busWrite Who.boot a v
      (s, s.wres ≤ Res.relinquished)

/-- A loop record as loaded (R135): a word that breaks a constraint is not loaded, and the loop has EN 0. `out` lists the loaded
addresses whose word is out of its own range. The answer lists the loaded addresses that broke a constraint: that of CTRL, whose EN
it was, when only words that the section does not hold stand against it. -/
def State.bootLoop (s : State) (n : Nat) (loaded out : List Nat) : State × List Nat :=
  let en := s.bit F.LE_REC_CTRL_EN n
  let w := fun k => if (k = 5 || k = 6 || (9 ≤ k && k ≤ 14)) && s.recWord n k = 0x80000000 then 0 else s.recWord n k
  let s := s.each (loaded.filter (fun a => !out.contains a)) (fun a s => s.setWord a (w (a % 64 / 4)))
  let bad := (List.range 16).filter (fun k => out.contains (recAddr n k)
    || ((en || loaded.contains (recAddr n k)) && recWordOk (fun j => s.recWord n j) k != Res.applied))
  if bad.isEmpty then (s, [])
  else
    let held := bad.filter (fun k => loaded.contains (recAddr n k))
    let s := s.each held (fun k s => s.setWord (recAddr n k) (resetWord (recAddr n k)))
    (s.put F.LE_REC_CTRL_EN 0 n, if held.isEmpty then [recAddr n 0] else held.map (recAddr n))

/-- The error record of a section: how many words were not loaded, and the first of them. -/
def State.bootSecErr (s : State) (bad : List Nat) : State :=
  match bad with
  | [] => s
  | a :: _ => s.bootErrFree (leBytes 4 bad.length ++ leBytes 4 a)

/-- A REGLIST section: the words not loaded are counted in the order written. A point with KIND NONE becomes GOOD (R66), which the fans
that it commands follow (R377). -/
def State.bootRegs (s : State) (l : List (Nat × Word)) : State :=
  let pre := s
  let s := l.foldl (fun (s : State) e => s.bootPre e) s
  let isLoop (a : Nat) : Bool := loadKind a == .loop
  let r := l.zipIdx.foldl (fun (r : State × List Nat) e => let x := State.bootWord pre e.1 r.1; (x.1, if x.2 then r.2 else r.2 ++ [e.2])) (s, [])
  let recs := (l.filter (fun e => isLoop e.1)).map (·.1)
  let outs := (l.zipIdx.filter (fun e => isLoop e.1.1 && r.2.contains e.2)).map (·.1.1)
  let loops := (recs.map (fun a => (a - 0x100000) / 64)).dedup
  let x := loops.foldl (fun (x : State × List Nat) n =>
    let y := x.1.bootLoop n (recs.filter (fun a => (a - 0x100000) / 64 == n)) outs
    (y.1, x.2 ++ y.2)) (r.1, [])
  let s := x.1
  let bad := l.zipIdx.filter (fun e => if isLoop e.1.1 then x.2.contains e.1.1 else r.2.contains e.2)
  let nones := (l.filter (fun e => R.PT_BIND.hit e.1 && F.PT_BIND_KIND.of e.2 == Kind.none_)).map (fun e => R.PT_BIND.idx e.1)
  let s := s.each (nones.filter (fun i => s.ptKind i == Kind.none_)) (fun i s =>
    (s.ptSet i (s.ptVal i) Qual.good 16 0 0 0).forward i false false (s.ptQual i != Qual.good))
  s.bootSecErr (bad.map (·.1.1))

/-- Words of a list of bytes. -/
def wordsOf (l : List Byte) : List Word := (List.range (l.length / 4)).map (fun i => Word.ofN (leVal ((l.drop (4 * i)).take 4)))

/-- Store bytes as words from an address of a core's memory. -/
def State.bootMem (s : State) (k a : Nat) (l : List Byte) : State :=
  ((wordsOf l).zipIdx).foldl (fun (s : State) e => s.setSkMem k (a + 4 * e.2) e.1) s

/-- A MEMORY section: the addresses are those of the register space. -/
def State.bootMemory (s : State) (l : List Byte) : State :=
  s.each ((memSection l).getD []) (fun (r : Nat × List Byte) s => ((wordsOf r.2).zipIdx).foldl (fun (s : State) e => s.setWord (r.1 + 4 * e.2) e.1) s)

/-- A task's entry, judged under R217 and R231: a word that breaks a constraint is not loaded, and the task has EN 0. -/
def State.bootTask (s : State) (k t : Nat) (l : List Byte) : State × List Nat :=
  let a := 0x200100 + 4096 * k + 16 * t
  let raw := (List.range 4).map (fun j => match fieldsAt (a + 4 * j) with
    | some fs => fieldMask fs (Word.ofN (leVal ((l.drop (4 * j)).take 4)))
    | none => 0)
  if raw.all (· == 0) then (s, [])
  else
    let s := (raw.zipIdx).foldl (fun (s : State) e => s.setWord (a + 4 * e.2) e.1) s
    let ctl := raw.getD 0 0
    let seg := (raw.getD 3 0).toNat
    let bad := [(0, F.SK_TASK_CTL_TRIG.of ctl == 3), (4, !skArgOk (F.SK_TASK_CTL_TRIG.of ctl) (raw.getD 1 0).toNat),
      (8, !skEntryOk (raw.getD 2 0).toNat seg), (12, !skSegOk seg || s.skOverlap k t (F.SK_TASK_CTL_TENANT.of ctl) seg)].filter (·.2)
    if bad.isEmpty then (s, [])
    else
      let s := bad.foldl (fun (s : State) e => s.setWord (a + e.1) 0) s
      (s.put F.SK_TASK_CTL_EN 0 k t, bad.map (fun e => a + e.1))

/-- A RULES section. -/
def State.bootRules (s : State) (l : List Byte) : State :=
  let parts := (ruleParts [0, 1, 2, 3] l).getD []
  let r := (parts.zipIdx).foldl (fun (r : State × List Nat) (e : (List Byte × List Byte × List Byte) × Nat) =>
    let k := e.2
    let s := (r.1.bootMem k 0 e.1.1).bootMem k 0x10000 e.1.2.1
    if k = 0 then (s, r.2)
    else (List.range 64).foldl (fun (r : State × List Nat) t =>
      let x := r.1.bootTask k t ((e.1.2.2.drop (16 * t)).take 16)
      (x.1, r.2 ++ x.2)) (s, r.2)) (s, [])
  r.1.bootSecErr r.2

/-- The KEYS part. -/
def State.bootKeys (s : State) (l : List Byte) : State :=
  { s with cl := { s.cl with keys := (List.range 4).map (fun i =>
      if (l.getD (20 * i) 0).toNat = 1 then some (beNat (((l.drop (20 * i + 4)).take 16).map (·.toNat))) else none) } }

/-! ### The safe-state table (R692, R693) -/

/-- An entry as the power die stores it, and whether it was refused. -/
def State.bootSafeEntry (s : State) (cls chan : Nat) (l : List Byte) : SafeEntry × Bool :=
  let option := (l.getD 2 0).toNat
  let value := leVal ((l.drop 4).take 2)
  let good := (l.getD 0 0).toNat = cls && (l.getD 1 0).toNat = chan && l.getD 3 0 = 0 && leVal ((l.drop 6).take 2) = crc16 (l.take 6)
    && safeOptOk cls option value (if chan % 2 = 0 then 1200 else 600)
  if cls = Cls.fan && s.fanCrit chan then (mkEntry cls chan Opt.full 0, !good)
  else if good then (mkEntry cls chan option value, false)
  else (offEntry cls chan, true)

/-- The table is sent to the power die, which checks each entry. An output in safe state keeps the entry it acts on. An
absent section gives every output its off state. -/
def State.bootSafe (s : State) (l : List Byte) : State :=
  let r := (allOutputs.zipIdx).foldl (fun (r : State × Bool) (o : (Nat × Nat) × Nat) =>
    let (c, n) := o.1
    let x := (l.drop (8 * o.2)).take 8
    let e := if l.isEmpty then (offEntry c n, false) else r.1.bootSafeEntry c n x
    let given := leVal ((x.drop 2).take 1)
    let changed := !l.isEmpty && (e.2 || e.1.option != given)
    let out := r.1.safeOf c n
    let s := r.1.setSafe c n { out with entry := some e.1, failed := out.failed && e.2 }
    (s.putIf e.2 F.AON_SAFE_STAT_ENTRY_CHECK 1, r.2 || changed)) (s, false)
  let s := { r.1 with safeLoaded := true }
  if r.2 then s.bootErr F.AON_SAFE_STAT_ENTRY_CHECK.lo [] else s

/-- One section, by its TYPE − 1. -/
def State.bootSection (s : State) (i : Nat) (l : List Byte) : State :=
  if i = 11 then s.bootSafe l
  else if l.isEmpty then s
  else if i = 5 || i = 10 then s.bootMemory l
  else if i = 6 then s.bootRules l
  else if i = 9 then (s.bootKeys l).bootRegs (regList (l.drop 80))
  else s.bootRegs (regList l)

/-! ### The checks that span sections (R691) -/

/-- A point in its off form. -/
def State.unusePoint (s : State) (i : Nat) : State :=
  let a := R.PT_BIND.at i
  (s.setWord a 0).ptBindAfter i (s.word a) 0

/-- A check: the items that fail it take their off form, with one error record. -/
def State.crossCheck (s : State) (bad : List Nat) (addr : Nat → Nat) (f : Nat → State → State) : State :=
  match bad with
  | [] => s
  | i :: _ => (s.each bad f).bootErrFree (leBytes 4 bad.length ++ leBytes 4 (addr i))

/-- The members of a list beyond the first n. -/
def beyond (n : Nat) (l : List Nat) : List Nat := l.drop n

/-- R92, R94, R619 and the limit of R77, in this order. -/
def State.crossChecks (s : State) : State :=
  let s := s.crossCheck (((s.listed R.PT_CONFIG).filter (fun e => F.PT_CONFIG_INZONE.of e.2 == 1 && s.ptKind e.1 != Kind.unused
    && !s.zoneOk (F.PT_CONFIG_ZONE.of e.2) (F.PT_CONFIG_TENANT.of e.2))).map (·.1)) (fun i => R.PT_CONFIG.at i) (fun i s => s.unusePoint i)
  let s := s.crossCheck (((s.listed R.LE_REC_CTRL).filter (fun e => F.LE_REC_CTRL_INZONE.of e.2 == 1
    && !s.zoneOk (F.LE_REC_CTRL_ZONE.of e.2) (F.LE_REC_CTRL_TENANT.of e.2))).map (·.1)) (fun n => recAddr n 0) (fun n s => s.put F.LE_REC_CTRL_EN 0 n)
  let ts := (List.range 255).map (· + 1)
  let loops := (ts.map (fun t => beyond (s.get F.TEN_QLOOP_LIMIT t)
    (((s.listed R.LE_REC_CTRL).filter (fun e => F.LE_REC_CTRL_TENANT.of e.2 == t)).map (·.1)))).flatten
  let subs := (ts.map (fun t => beyond (s.get F.TEN_QSUB_IN t) ((s.subIn.filter (fun e => s.ptTenant e.1 == t)).map (·.1)))).flatten
  -- one check: loops as 0 to 8,191, points after them
  let s := s.crossCheck (loops ++ subs.map (· + 8192)) (fun x => if x < 8192 then recAddr x 0 else R.PT_BIND.at (x - 8192))
    (fun x s => if x < 8192 then s.put F.LE_REC_CTRL_EN 0 x else s.unusePoint (x - 8192))
  s.crossCheck (beyond maxSubs (s.subIn.map (·.1))) (fun i => R.PT_BIND.at i) (fun i s => s.unusePoint i)

/-! ### t6 and the end of boot -/

/-- The boot epoch, then the BOOT record and any GAP record (R498, R582, R695, R735). While the FW region cannot be read the epoch is
that of the always-on counter alone (log entry 155). -/
def State.bootRecords (s : State) : State :=
  let aValid := !s.bit F.AON_STAT_POWER_LOST && !s.bit F.AON_STAT_BAT_GONE
  let s := s.epochAdvance s.storeReady
  let s := { s with cl := { s.cl with epochDue := !s.storeReady } }
  (s.logBoot (s.get F.BOOT_STAT_SLOT) (s.get F.CL_EPOCH_EPOCH) aValid).put F.AON_STAT_POWER_LOST 0

/-- t6: the sections are applied in TYPE order, then the checks that span them are made, and lines that are 1 become pending (R646). -/
def State.bootApply (s : State) : State :=
  if s.boot.stage != 5 || !s.linkUp then s
  else
    let slot := s.get F.BOOT_STAT_SLOT
    let s := s.each (List.range 12) (fun i s => s.bootSection i (s.imgBytes slot i))
    let s := (s.crossChecks.bootErrFlush).bootRecords
    ((s.setBoot { s.boot with stage := 6 }).clPortsBoot).icLoad

def execBootSectionsApplied (s : State) : Out := .next s.bootApply

/-- What the power die reports once the logic die runs with the link up: the record of safe-state entries (R38), source 194
(R57), faults of the blocks (R259), source 195, and the other sources that waited. -/
def State.linkReports (s : State) : State :=
  let s := if s.safeIrq then { s.icPulse 194 with safeIrq := false } else s
  let s := if s.fan.guardIrq then { s.icPulse 195 with fan := { s.fan with guardIrq := false } } else s
  let ns := s.clk.irqs
  let s := (s.setClk { s.clk with irqs := [] }).each ns (fun n s => s.icPulse n)
  let es := s.pdErrs
  let s := ({ s with pdErrs := [] }).each es (fun e s => s.postErr2 e.1 e.2.1 e.2.2.1 e.2.2.2)
  (s.cdFlushErrs).safeRecord

/-- t7: the cores start, the host side is released, the segments take their run mode, the watchdog's first period starts.
In service mode SK1 to SK3 stay idle and the segments in CONFIG. -/
def State.bootEnd (s : State) : State :=
  if s.boot.stage != 6 || !s.linkUp then s
  else
    let warm := s.boot.warm
    let s := if s.service then ((s.bootErrFlush).bootRecords).clPortsBoot else s
    let s := s.put F.BOOT_TIME_US (Nat.min (s.now - s.boot.t0) 0xFFFFF)
    let s := s.setBoot { s.boot with stage := 7, warm := false, endAt := some s.now }
    let s := (s.put F.HB_HSTAT_READY 1).setCore 0 { s.core 0 with started := true }
    let s := if s.service then s
      else ((s.each [1, 2, 3] (fun k s => s.put F.SK_CTRL_RUN 1 k)).zbRunModes).wdStart
    let s := s.each [1, 2, 3] (fun k s => s.skStopUpd k)
    -- no fragment has been unchanged from before the end of boot (R542, R550)
    let s := { s with isl := { s.isl with fragSince := s.now } }
    let s := (s.islUpdate).setClk { s.clk with warmAt := none }
    let s := if warm then s.icPulse 199 else s
    s.linkReports

def execBootEnd (s : State) : Out := .next s.bootEnd

end Sys2Proof.Machine
end

