-- ==== Sys2Proof/Machine/HostIf.lean ====
section
/-! DEFINITION. The host side (R653 to R666, R673, R674): the shadow, the parallel bus, the SPI host, posted writes and the
exact-read mailbox. -/

namespace Sys2Proof.Machine

/-! ### Ports -/

/-- The host port that HOSTMODE selects: 1 the parallel bus, 2 SPI (R653). -/
def State.hostMode (s : State) : Nat := s.get F.SYS_STRAPS_HOSTMODE

/-- The host side has left reset (R654). -/
def State.hostReady (s : State) : Bool := s.bit F.HB_HSTAT_READY

/-- A lane's accessor on the bus; on SPI it is the SPI host with the lane's tenant (R665, R666). -/
def State.hostWho (s : State) (spi : Bool) (n : Nat) : Who :=
  { bank := if spi then 4 else n, tenant := s.get F.HB_LANE_CFG_TENANT n, ifc := if spi then 5 else n + 1,
    prio := s.get F.HB_LANE_CFG_PRIO n, en := s.bit F.HB_LANE_CFG_EN n, cap := n }

/-! ### The shadow (R659 to R661) -/

/-- Memories of the register space: written by halfwords (R657), not shadowed (R659). -/
def hostMem (a : Nat) : Bool :=
  (0x210000 ≤ a && a < 0x270000) || (0x300000 ≤ a && a < 0x3C0000) || (0x1D0000 ≤ a && a < 0x1E0000 && 0xA00 ≤ a % 0x1000)
    || (0x1F0400 ≤ a && a < 0x1F0600)

/-- The _LO registers, each one unit with its _HI (R659). -/
def unitLo : List Reg :=
  captureLo ++ [R.AON_SAFE_TIME_LO, R.ADC_INJ_LO, R.FIO_DI_LO, R.ZB_NEWD_LO, R.ZB_UNK_LO, R.CL_PORT_MAC_LO, R.CL_TIME_SET_LO, R.PNL_KEYS_LO]

/-- The unit that holds the word at a 4-aligned address: its first address and its words (R659). -/
def unitOf (a : Nat) : Nat × Nat :=
  if 0x80000 ≤ a && a < 0x100000 && a % 16 < 8 then (a / 16 * 16, 2)
  else if R.LE_STATE_I.at ≤ a && a ≤ R.LE_STATE_SCHED.at then (R.LE_STATE_I.at, 6)
  else if unitLo.any (fun r => r.hit a) then (a, 2)
  else if 4 ≤ a && unitLo.any (fun r => r.hit (a - 4)) then (a - 4, 2)
  else (a, 1)

/-- A unit as it stands in the live register space for a lane of the host port; words the lane may not read are 0 (R660). The
banked registers are those of the port's path: the lane's own on the bus, the SPI host's on SPI (R531, R611). -/
def State.unitWords (s : State) (lane base n : Nat) : List Word :=
  let w := s.hostWho (s.hostMode == 2) lane
  (List.range n).map (fun i => if w.en && !isUnmapped (base + 4 * i) && s.mayRead w (base + 4 * i) then s.liveWord w (base + 4 * i) else 0)

/-- Copy a unit for one lane: whole, with its mask. A copy of a point's unit reads its record, and so may find an error (R68). -/
def State.shadowPut (s : State) (lane base n : Nat) : State :=
  let s := if 0x80000 ≤ base && base < 0x100000 then s.ptFind ((base - 0x80000) / 16) else s
  s.setHb { s.hb with shadow := Tab.put (base + lane) (s.now, s.unitWords lane base n) s.hb.shadow }

/-- The unit of an address is copied from the live register space for every lane (R659, R660); a power-die unit keeps its last
values while the link is lost (R661). -/
def State.shadowCopy (s : State) (a : Nat) : State :=
  let (b, n) := unitOf (a / 4 * 4)
  if hostMem b || isUnmapped b || (isPower b && !s.linkUp) then s
  else s.each [0, 1, 2, 3] (fun l s => s.shadowPut l b n)

/-- Every address of a power-die register. -/
def powerAddrs : List Nat :=
  (((regTableCd ++ regTableAdc ++ regTableFan ++ regTableFio ++ regTableZb ++ regTableAon).map (fun e =>
    ((List.range e.1.n1).map (fun i => (List.range e.1.n2).map (fun j => e.1.at i j))).flatten)).flatten).filter isPower

/-- The shadow keeps the last values of the power-die units from the loss of the link on (R661, log entry 156). -/
def State.freezeShadow (s : State) : State :=
  s.setHb { s.hb with frozen := some (powerAddrs.foldl (fun t a => Tab.set (fun _ => 0) t a (s.liveWord Who.internal a)) []) }

/-- A word of a power-die unit as a lane reads it while the link is lost: its last value, with the rights of now (R660). The spec
leaves the value of one that was never copied open (log entry 3). -/
def State.frozenWord (s : State) (lane i a : Nat) : Word :=
  let w := s.hostWho (s.hostMode == 2) lane
  if !(w.en && s.mayRead w a) then 0
  else match s.hb.frozen with
    | some t => Tab.get (fun _ => 0) t a
    | none => Config.freeWord (64 * s.free + i)

/-- A unit as a lane reads it: the shadow's copy when that is at most 2 µs old, else one made now (R660). While the link is
lost a power-die unit keeps its last values (R661). -/
def State.shadowGet (s : State) (lane base n : Nat) : List Word × State :=
  if isPower base && !s.linkUp then
    ((List.range n).map (fun i => s.frozenWord lane i (base + 4 * i)), if s.hb.frozen.isNone then s.fresh else s)
  else
    match s.hb.shadow.lookup (base + lane) with
    | some (t, ws) => if s.now ≤ t + 2 then (ws, s) else fresh s
    | none => fresh s
where
  fresh (s : State) : List Word × State := let s := s.shadowPut lane base n; (s.unitWords lane base n, s)

def execShadowUnitCopy (a : Fin (2 ^ 24)) (s : State) : Out := .next (s.shadowCopy a.val)

/-! ### Posted writes (R663, R664) -/

def State.hbPost (s : State) (p : Posted) : State :=
  if 64 ≤ s.hb.fifo.length then ((s.put F.HB_FIFO_OVR 1).inc F.HB_CNT_OVERRUN).icPulse 125
  else s.setHb { s.hb with fifo := s.hb.fifo ++ [p] }

def State.postWrite (s : State) (spi : Bool) (lane a : Nat) (data : Word) (bytes : Nat) : State :=
  let w := s.hostWho spi lane
  s.hbPost ⟨w.bank, w.tenant, w.ifc, w.prio, w.en, a, data, bytes⟩

/-- A word with the enabled bytes replaced. -/
def mergeBytes (bytes : Nat) (old new : Word) : Word :=
  [0, 1, 2, 3].foldl (fun x i => if bytes.testBit i then setBits x (8 * i) 8 (bitsOf new (8 * i) 8) else x) old

/-- The head of the FIFO is applied, decided with its lane's tenant as it stood at the post. -/
def State.postedApply (s : State) : State :=
  match s.hb.fifo with
  | [] => s
  | p :: t =>
    let s := s.setHb { s.hb with
      fifo := t
      lanes := s.hb.lanes.map (fun l => { l with ahead := l.ahead - 1 }) }
    let w : Who := ⟨p.bank, p.tenant, p.ifc, p.prio, p.en, 15⟩
    s.asPosted w (fun w s => s.busWrite w p.addr (if p.bytes = 15 then p.data else mergeBytes p.bytes (s.word p.addr) p.data))

def execPostedWriteApply (s : State) : Out := .next s.postedApply

/-! ### The mailbox (R662) -/

/-- A lane drops its capture; its last write is no low halfword any more. -/
def HbLane.other (l : HbLane) : HbLane := { l with cap := none, asmOk := false }

/-- GO: ignored while BUSY; refused on a disabled lane (R666). The access is that of the address and the data of this moment. -/
def State.mbxGo (s : State) (spi : Bool) (n : Nat) (wr : Bool) : State :=
  let l := s.lane n
  if l.busy then s
  else if !(s.hostWho spi n).en then
    (s.inc F.HB_CNT2_REFUSED).setLane n { l with result := Res.refRights, data := if wr then l.data else 0, tmo := false }
  else s.setLane n { l with busy := true, tmo := false, wr := wr, spi := spi, goAt := s.now, goAddr := l.addr, goData := l.data, ahead := s.hb.fifo.length }

/-- The access goes to a block of the power die that nothing reaches (R46). -/
def State.mbxDrop (s : State) (n : Nat) : Bool := isPower ((s.lane n).goAddr / 4 * 4) && !s.linkUp

/-- The access of the mailbox is made. One to the power die while the link is lost leaves data 0 and NOT_APPLIED. -/
def State.mbxDo (s : State) (n : Nat) : State :=
  let l := s.lane n
  let w := s.hostWho l.spi n
  let drop := s.mbxDrop n
  let s := if l.wr then s.asWho w (fun w s => s.busWrite w (l.goAddr / 4 * 4) l.goData) else s.busRead w (l.goAddr / 4 * 4)
  if drop then s.setLane n { s.lane n with result := Res.notApplied, data := 0 }
  else if l.wr then s.setLane n { s.lane n with result := s.wres }
  else s.setLane n { s.lane n with result := s.wres, data := s.rdata }

/-- It completes once every posted write before its GO has been applied, or at once when the link to the power die is lost. -/
def State.mbxComplete (s : State) (n : Nat) : State :=
  let l := s.lane n
  if !l.busy || (l.ahead != 0 && !s.mbxDrop n) then s
  else
    let s := s.mbxDo n
    s.setLane n { s.lane n with busy := false }

/-- 100 µs pass first: an abandoned write may have been applied, once those posted before it have been. -/
def State.mbxTimeout (s : State) (n : Nat) (applied : Bool) : State :=
  let l := s.lane n
  if !l.busy then s
  else
    let s := s.reach (l.goAt + 100)
    let s := if l.wr && applied && l.ahead = 0 then s.mbxDo n else s
    s.setLane n { s.lane n with busy := false, tmo := true, data := 0 }

/-- A write of HB_MBX_CTRL on a lane drops its capture, and is its previous write (R656, R657). -/
def State.mbxCmd (s : State) (spi : Bool) (n : Nat) (wr : Bool) : State := (s.setLane n (s.lane n).other).mbxGo spi n wr

def State.hostPortUp (s : State) (spi : Bool) : Bool := s.hostReady && s.hostMode == (if spi then 2 else 1)

def execMbxRead (n : Fin 4) (spi : Bool) (s : State) : Out := .next (if s.hostPortUp spi then s.mbxCmd spi n.val false else s)
def execMbxWrite (n : Fin 4) (spi : Bool) (s : State) : Out := .next (if s.hostPortUp spi then s.mbxCmd spi n.val true else s)
def execMbxComplete (n : Fin 4) (s : State) : Out := .next (s.mbxComplete n.val)
def execMbxTimeout (n : Fin 4) (applied : Bool) (s : State) : Out := .next (s.mbxTimeout n.val applied)

/-! ### Host-side registers (R673, R674) -/

/-- HB_LANE changes: the held halfword of the lane left is dropped and counted, its capture too (R656, R657). -/
def State.laneChange (s : State) (n : Nat) : State :=
  let o := s.get F.HB_LANE_LANE
  if o = n then s
  else
    let l := s.lane o
    let s := if l.asm.isSome then s.inc F.HB_CNT_ASSEMBLY else s
    (s.setLane o { l with cap := none, asm := none, asmOk := false }).put F.HB_LANE_LANE n

/-- A write of the enabled bytes of a host-side register: it acts in its own write cycle. HB_MBX_ADDR keeps its [1:0] at 0 whatever
is written there (log entry 157). -/
def State.hostSide (s : State) (spi : Bool) (lane a : Nat) (data : Word) (bytes : Nat) : State :=
  let l := s.lane lane
  let put (old : Nat) : Nat := (mergeBytes bytes (Word.ofN old) data).toNat
  if R.HB_PAGE.hit a then s.put F.HB_PAGE_PAGE (put (s.get F.HB_PAGE_PAGE))
  else if R.HB_LANE.hit a then s.laneChange (put (s.get F.HB_LANE_LANE) % 4)
  else if R.HB_MBX_ADDR.hit a then s.setLane lane { l with addr := put l.addr % 2 ^ 24 / 4 * 4 }
  else if R.HB_MBX_DATA.hit a then s.setLane lane { l with data := Word.ofN (put l.data.toNat) }
  else if R.HB_MBX_CTRL.hit a then (if (put 0).testBit 0 then s.mbxGo spi lane ((put 0).testBit 1) else s)
  else if R.HB_FIFO.hit a then s.putIf ((put 0).testBit 31) F.HB_FIFO_OVR 0
  else s

/-! ### The parallel bus (R655 to R658) -/

/-- The register address of a bus offset, and whether it is a host-side register (R655). -/
def State.busAddr (s : State) (o : Nat) : Nat × Bool :=
  if 0xFFE0 ≤ o then (0x400000 + o, true) else (0x10000 * s.get F.HB_PAGE_PAGE + o, false)

/-- Half k of a word. -/
def halfOf (x : Word) (k : Nat) : Word := Word.ofN (bitsOf x (16 * k) 16)

/-- A read of a halfword by a lane (R656, R659). -/
def State.busHalf (s : State) (lane o : Nat) : State :=
  let (a, hs) := s.busAddr (o / 4 * 4)
  let k := o % 4 / 2
  let l := s.lane lane
  let drop (s : State) : State := s.setLane lane { s.lane lane with cap := none }
  if hs then { drop s with rdata := halfOf (s.hbWord lane a) k }
  else if hostMem a then { drop (s.inc F.HB_CNT_NOSHADOW) with rdata := 0 }
  else if R.IC_TGT_CLAIM.hit a then { drop s with rdata := halfOf 0x3FC k }
  else
    let (b, n) := unitOf a
    let pick (ws : List Word) : Word := halfOf (ws.getD ((a - b) / 4) 0) k
    match l.cap with
    | some (b', ws) => if b' = b then { s with rdata := pick ws } else go s b n pick k
    | none => go s b n pick k
where
  go (s : State) (b n : Nat) (pick : List Word → Word) (k : Nat) : State :=
    let lane := s.get F.HB_LANE_LANE
    let r := s.shadowGet lane b n
    let s := r.2
    { s.setLane lane { s.lane lane with cap := if k = 0 then some (b, r.1) else none } with rdata := pick r.1 }

def execHostBusRead (ha : Fin 32768) (s : State) : Out :=
  .next (if s.hostMode != 1 then s
    else if !s.hostReady then { s with rdata := 0 }
    else s.busHalf (s.get F.HB_LANE_LANE) (2 * ha.val))

/-- A write of a halfword by a lane; `en` holds the byte enables, low byte first (R657). -/
def State.busHalfWrite (s : State) (lane o d en : Nat) : State :=
  let (a, hs) := s.busAddr (o / 4 * 4)
  let hi := o % 4 = 2
  let data := Word.ofN (if hi then 65536 * d else d)
  let bytes := if hi then 4 * en else en
  let l := s.lane lane
  if hs then (s.setLane lane l.other).hostSide false lane a data bytes
  else if hostMem a then (s.setLane lane l.other).postWrite false lane a data bytes
  else if !hi then
    let s := if l.asm.isSome then s.inc F.HB_CNT_ASSEMBLY else s
    s.setLane lane { l with cap := none, asm := some (a, d), asmOk := en == 3 }
  else
    match l.asm with
    | some (a', lo) =>
      if a' = a && l.asmOk && en = 3 then
        (s.setLane lane { l with cap := none, asm := none, asmOk := false }).postWrite false lane a (Word.ofN (65536 * d + lo)) 15
      else (s.inc F.HB_CNT_ASSEMBLY).setLane lane l.other
    | none => (s.inc F.HB_CNT_ASSEMBLY).setLane lane l.other

/-- `hbe` holds the levels of HBE_N[1:0], each enabling its byte when 0. -/
def execHostBusWrite (ha : Fin 32768) (d : Fin 65536) (hbe : Fin 4) (s : State) : Out :=
  .next (if s.hostPortUp false then s.busHalfWrite (s.get F.HB_LANE_LANE) (2 * ha.val) d.val (3 - hbe.val) else s)

/-! ### The SPI host (R665) -/

/-- One word of a read frame: a unit whose first word is read is returned whole from one instant. -/
def State.spiRead1 (s : State) (lane a : Nat) : State × Word :=
  if 0x40FFE0 ≤ a && a < 0x410000 then (s, s.hbWord lane a)
  else if hostMem a then (s.inc F.HB_CNT_NOSHADOW, 0)
  else if R.IC_TGT_CLAIM.hit a then (s, 0x3FC)
  else
    let (b, n) := unitOf a
    let l := s.lane lane
    let kept := match l.cap with | some (b', ws) => if b' = b then some ws else none | none => none
    match kept with
    | some ws => (s, ws.getD ((a - b) / 4) 0)
    | none =>
      let r := s.shadowGet lane b n
      (r.2.setLane lane { r.2.lane lane with cap := if a = b then some (b, r.1) else none }, r.1.getD ((a - b) / 4) 0)

/-- The words of a read frame. -/
def State.spiReads (s : State) (lane : Nat) : Nat → Nat → State × List Word
  | 0, _ => (s, [])
  | n + 1, a =>
    let r := s.spiRead1 lane (a % 2 ^ 24)
    let t := r.1.spiReads lane n (a + 4)
    (t.1, r.2 :: t.2)

/-- The words of a write frame: each is posted as it completes, or acts on a host-side register. -/
def State.spiWrites (s : State) (lane : Nat) : Nat → Nat → List Byte → State
  | 0, _, _ => s
  | n + 1, a, l =>
    if l.length < 4 then s
    else
      let x := Word.ofN (leVal (l.take 4))
      let a := a % 2 ^ 24
      let s := if 0x40FFE0 ≤ a && a < 0x410000 then s.hostSide true lane a x 15 else s.postWrite true lane a x 15
      s.spiWrites lane n (a + 4) (l.drop 4)

/-- A frame: the bytes on MOSI; those on MISO are left in `hb.miso`. -/
def State.spiFrame (s : State) (mosi : List Byte) : State :=
  let miso (s : State) (l : List Byte) : State := s.setHb { s.hb with miso := (l ++ List.replicate mosi.length 0).take mosi.length }
  let c := (mosi.getD 0 0).toNat
  let a := beNat ((mosi.drop 1).take 3 |>.map (·.toNat))
  let n := c % 16 + 1
  let lane := c / 16 % 4
  let head := Byte.ofN (128 * s.get F.HB_FIFO_OVR + s.hb.fifo.length)
  if !s.hostReady then miso s []
  else if c / 64 % 2 = 1 then miso (s.inc F.HB_CNT_ASSEMBLY) [head]
  else if mosi.length < 4 then miso s [head]
  else if a % 4 != 0 then miso (s.inc F.HB_CNT_ASSEMBLY) [head]
  else if c < 128 then miso (s.spiWrites lane n a (mosi.drop 4)) [head]
  else
    let r := (s.setLane lane { s.lane lane with cap := none }).spiReads lane (Nat.min n ((mosi.length - 5 + 3) / 4)) a
    let s := r.1.setLane lane { r.1.lane lane with cap := none }
    miso s ([head, 0, 0, 0, 0] ++ (r.2.map (fun x => leBytes 4 x.toNat)).flatten)

def execHostSpiFrame (mosi : List Byte) (s : State) : Out := .next (if s.hostMode = 2 then s.spiFrame mosi else s)

end Sys2Proof.Machine
end

