-- ==== Sys2Proof/Machine/Clocks.lean ====
section
/-! DEFINITION. Clocks, resets, the D2D link and the supplies (R26, R27, R712 to R732). -/

namespace Sys2Proof.Machine

/-! ### Clock discipline (R714, R715) -/

def ppmMax : Nat := 20000

/-- The present correction of CK_LE in ppm (R740). -/
def State.leCorr (s : State) : Int := toSigned 16 (s.get F.SYS_CLK_STAT_LE_CORR)
def State.setCorr (s : State) (x : Int) : State := s.put F.SYS_CLK_STAT_LE_CORR (ofSigned 16 (max (-32768) (min 32767 x)))

/-- CK_LE runs free from a discipline fault on. -/
def State.discFault (s : State) : State :=
  let s := ((s.put F.SYS_CLK_STAT_LE_FREE 1).put F.SYS_CLK_STAT_DISC_FLT 1).setCorr 0
  (s.icPulse 198).postErr 0 0x09 F.SYS_CLK_STAT_DISC_FLT.lo []

/-- A trim towards the correction that matching CK_SYS needs, by at most 100 ppm per LE_FRAME. -/
def State.trimTo (s : State) (ppm : Int) : State :=
  let c := s.clk
  let base := if c.trimFrame = s.frame then c.trimBase else s.leCorr
  let s := s.setClk { c with trimFrame := s.frame, trimBase := base }
  s.setCorr (max (base - 100) (min (base + 100) ppm))

/-- Every 1 ms; `ppm` is the correction needed. -/
def execLeDisciplineTrim (ppm : Int) (s : State) : Out :=
  .next (if !s.bit F.SYS_CLK_STAT_REF_OK || s.bit F.SYS_CLK_STAT_LE_FREE then s
    else if ppmMax < ppm.natAbs then s.discFault
    else s.trimTo ppm)

def execDisciplineResume (ppm : Int) (s : State) : Out :=
  .next (if s.bit F.SYS_CLK_STAT_REF_OK && s.bit F.SYS_CLK_STAT_LE_FREE && ppm.natAbs ≤ ppmMax then
      ((s.reach (s.clk.refAt + 100000)).put F.SYS_CLK_STAT_LE_FREE 0).trimTo ppm
    else s)

/-- The logic die is in power-on reset, or has not started its boot from one. -/
def State.inPor (s : State) : Bool := s.clk.logicOff || (s.boot.stage = 0 && !s.boot.warm)

/-- REF_OK falls: a discipline fault, and a warm reset with cause CLOCK. In power-on reset the die only stays there (R713). -/
def execRefLoss (s : State) : Out :=
  .next (if s.inPor then s.setClk { s.clk with refLost := true }
    else if !s.bit F.SYS_CLK_STAT_REF_OK then s
    else
      let s := (s.put F.SYS_CLK_STAT_REF_OK 0).setClk { s.clk with refLost := true }
      s.discFault.askWarm F.AON_RST_CAUSE_WARM_CLOCK.lo)

/-- The reference is back and every PLL has locked: a boot that waits for it may start. -/
def execReferenceReturn (s : State) : Out :=
  .next (if s.clk.refLost then (s.putIf (!s.inPor) F.SYS_CLK_STAT_REF_OK 1).setClk { s.clk with refLost := false, refAt := s.now } else s)

/-! ### Resets of a die (R716, R722, R723, R730, R732) -/

/-- The words a reset of the logic die keeps: those of the power die and the always-on domain, and OTP; a warm reset also keeps the
live REF_OK, the straps, LOST and LOSS_COUNT, STRAP_CHG and FALLBACK (R48, R50, R679, R684). -/
def logicKeeps (warm : Bool) (a : Nat) : Option Word :=
  if isPower a || R.CAL_OTP.hit a then some (BitVec.allOnes 32)
  else if R.CAL_STAT.hit a then some 0xF
  else if !warm then none
  else if R.SYS_CLK_STAT.hit a then some 0x80000000
  else if R.SYS_STRAPS.hit a || R.HB_MODE.hit a then some (BitVec.allOnes 32)
  else if R.SYS_D2D_STAT.hit a then some 0xFF02
  else if R.BOOT_STAT.hit a then some 0x14
  else none

/-- Register words after a reset of the logic die. -/
def State.logicSpace (s : State) (warm : Bool) : Tab Word :=
  let kept := s.space.filter (fun e => (logicKeeps warm e.1).isSome)
  kept.foldl (fun (t : Tab Word) e =>
    match logicKeeps warm e.1 with
    | some m => Tab.set resetWord t e.1 ((e.2 &&& m) ||| (resetWord e.1 &&& ~~~m))
    | none => t) []

/-- The zone bus controllers are reset; the supplies are the power die's. -/
def ZbSeg.supply (g : ZbSeg) : ZbSeg :=
  { cycleEnd := g.cycleEnd, firstTrip := g.firstTrip, tries := g.tries, retryAt := g.retryAt, hold := g.hold, onAt := g.onAt }

/-- The logic die after a reset: its registers and state at reset, memories unloaded. The power die, the flash, the card and
what SK0 firmware keeps on it stay as they are. A running function reset is abandoned (R671), and PWRCYC_N is not driven in power-on
reset (R672). -/
def State.logicReset (s : State) (warm : Bool) : State :=
  { pending := s.pending
    space := s.logicSpace warm
    now := s.now
    campusOff := s.campusOff
    bootAt := s.bootAt
    free := s.free
    log := { capMiB := s.log.capMiB, store := s.log.store }
    safe := s.safe
    safeLoaded := s.safeLoaded
    safeUnrec := s.safeUnrec
    safeIrq := s.safeIrq
    rtcOff := s.rtcOff
    rtcHeld := s.rtcHeld
    cmds := s.cmds
    cd := s.cd.map (fun (e : Nat × CdChan) => (e.1, { e.2 with rst := false }))
    cdg := s.cdg
    cl := { epochCopy := s.cl.epochCopy }
    adc := s.adc
    -- no command point is GOOD or FORCED any more (R386)
    fan := { s.fan with
      chans := s.fan.chans.map (fun (e : Nat × FanChan) => (e.1, { e.2 with lapseAt := some (e.2.lapseAt.getD s.now) }))
      groups := s.fan.groups.map (fun (g : FanGroup) => { g with released := false }) }
    fio := s.fio
    zb := { s.zb with segs := s.zb.segs.map (fun (e : Nat × ZbSeg) => (e.1, e.2.supply)) }
    hb := { pwrcyc := if warm then s.hb.pwrcyc else none }
    boot := { stage := 0, warm := warm, flash := s.boot.flash }
    clk := { s.clk with
      warm := none
      lossAt := none
      train := none
      failAt := none
      silent := false
      fwdTries := 1
      out := []
      reads := []
      nacked := [] }
    pdErrs := s.pdErrs
    le := { pdTimer := s.le.pdTimer } }

/-- The power die after power-on reset (R29): its registers at reset, every output in its off state, no table loaded. The
always-on domain keeps its words, FAN_GUARD_FLT among them (R413, R733). A loss that the logic die never declared stays to be
reported (R57). -/
def State.powerReset (s : State) : State :=
  -- each relay's open state counts from its present one, or from this opening (R424)
  let since (n : Nat) : Nat := if s.bit F.DO_STAT_OUT n then s.now else (s.doOf n).since
  let s := s.each ((List.range 16).filter (fun z => s.zbOn z)) (fun z s => s.nodesAbsent z)
  let s := { s with
    space := s.space.filter (fun e => !(isPower e.1 && e.1 / 0x10000 != 0x42 && e.1 != R.FAN_GUARD_FLT.at))
    safe := []
    safeLoaded := false
    cmds := []
    cd := []
    cdg := {}
    adc := {}
    fan := {}
    fio := { dos := ((List.range 32).filter (fun n => since n != 0)).map (fun n => (n, { since := since n })), vfAt := s.now, startAt := s.now, vfHi := s.now, vfLo := s.now }
    pdErrs := []
    zb := { startAt := none, segs := s.zb.segs.map (fun (e : Nat × ZbSeg) =>
      (e.1, { e.2 with cycleEnd := none, firstTrip := none, tries := 0, retryAt := none, hold := false })) }
    le := { s.le with pdTimer := none, notice := false, cancel := false } }
  s.setClk { s.clk with pdLost := true, pdReset := true, pdOff := true, irqs := [], notice := false, noticeAt := none }

/-- A warm reset that has been asked for starts (R723): one asked for by software waits until the ring is empty, or 100 ms
(R583). -/
def State.warmStart (s : State) : State :=
  match s.clk.warm with
  | none => s
  | some (cause, asked) =>
    let s := if cause = F.AON_RST_CAUSE_WARM_HOST.lo && !s.log.ring.isEmpty then s.reach (asked + 100000) else s
    let up := s.linkUp
    let s := s.rstCause cause
    let s := s.setClk { s.clk with notice := s.clk.notice || up, warmAt := some s.now }
    (s.logicReset true).reach (s.now + 10)

def execWarmResetStart (s : State) : Out := .next s.warmStart

/-- The power die acts with no link to the logic die: what it reports waits. -/
def State.unlinked (s : State) (f : State → State) : State :=
  let up := s.get F.SYS_D2D_STAT_LINK_UP
  (f (s.put F.SYS_D2D_STAT_LINK_UP 0)).put F.SYS_D2D_STAT_LINK_UP up

/-- The notice of a warm reset reaches the power die: safe state under rank 4 of R34; the learning window closes (R291). -/
def execWarmResetNotice (s : State) : Out :=
  .next (if !s.clk.notice then s
    else
      let s := s.setClk { s.clk with notice := false, noticeAt := some s.now }
      s.unlinked (fun s => (s.safeAll F.AON_SAFE_STAT_WARM).cdWindowClose))

/-- Power-on reset of the power die. -/
def State.pdReset (s : State) (cause : Nat) : State := (s.rstBit cause).powerReset

/-- A main supply falls below its reset threshold (R732): 0 VDD_CORE, 1 VDD_IO, 2 VDD_AFE. -/
def execSupplyReset (supply : Fin 3) (s : State) : Out :=
  .next (if supply.val = 2 then
      let s := s.pdReset F.AON_RST_CAUSE_POR_PD.lo
      (s.setClk { s.clk with afe := false }).chgUpdate
    else
      let s := (s.rstBit F.AON_RST_CAUSE_POR_LOGIC.lo).logicReset false
      s.setClk { s.clk with logicOff := true, warmAt := none })

/-- Three windows in a row in which the power die's oscillators disagree (R716). -/
def execPdOscMismatch (s : State) : Out := .next (if s.clk.pdOff then s else s.pdReset F.AON_RST_CAUSE_PD_CLOCK.lo)

/-- A die leaves power-on reset (R730): the logic die, or the power die, which samples TCRIT. -/
def execPowerOnResetRelease (logic : Bool) (tcrit : Fin 8) (s : State) : Out :=
  .next (if logic then s.setClk { s.clk with logicOff := false }
    else if s.clk.pdOff || s.clk.pdReset then
      ((s.setClk { s.clk with pdOff := false, afe := true }).guardStrap tcrit.val).chgUpdate
    else s)

/-! ### Frames (R724) -/

/-- The words that a record changes as it enters the ring. -/
def auditWords (t : Nat) : List Nat :=
  [R.AON_LOG_SEQ_LO.at, R.AON_LOG_SEQ_HI.at, R.TEN_QLOG_USED.at t, R.TEN_CTX_STAT.at t]

/-- What a write does on the power die, and the records it makes, its own first: they wait for the acknowledgement. What the ring
refuses or loses (R572, R573) is decided as the write is sent. -/
def State.pdWrite (s : State) (p : Posted) : State × List AuditRec :=
  let s1 := (s.setClk { s.clk with silent := false, pdOff := false }).busWrite ⟨p.bank, p.tenant, p.ifc, p.prio, p.en, 15⟩ p.addr p.data
  let s2 := (s1.setClk { s1.clk with silent := s.clk.silent, pdOff := s.clk.pdOff }).each (auditWords p.tenant) (fun a x => x.setWord a (s.word a))
  ({ s2 with log := { s1.log with ring := s.log.ring, ringAt := s.log.ringAt, nextSeq := s.log.nextSeq, due := s.log.due } },
    s1.log.ring.drop s.log.ring.length)

/-- A write to the power die is sent. While the link is lost, or once the logic die has fallen silent (R724), its block's own write
discards it (R46, R37); one that the full ring refuses is not sent (R572). A die in reset receives nothing (R716). -/
def State.d2dSend (s : State) (w : Who) (a : Nat) (data : Word) (arrives : Bool) : State :=
  if !isPower a || !s.linkUp || s.clk.silent then s.busWrite w a data
  else
    let p : Posted := ⟨w.bank, w.tenant, w.ifc, w.prio, w.en, a, data, 15⟩
    let (s1, rs) := s.pdWrite p
    if s1.wres = Res.logFull then s1
    else
      let arrives := arrives && !s.clk.pdOff
      let s := if arrives then s1 else s
      s.setClk { s.clk with out := s.clk.out ++ [⟨rs, arrives, p, 1, s.now⟩] }

/-- A read of the power die is sent; any other is answered at once. -/
def State.d2dRead (s : State) (w : Who) (a : Nat) : State :=
  if !isPower a || !s.linkUp || s.clk.silent then s.busRead w a
  else s.setClk { s.clk with reads := s.clk.reads ++ [⟨w.bank, w.tenant, w.ifc, w.prio, w.en, w.cap, a⟩] }

/-- The oldest read is answered: it reads its register now. None is while nothing reaches the power die. -/
def State.d2dAnswer (s : State) : State :=
  match s.clk.reads with
  | [] => s
  | r :: t => if !s.pdReach then s else (s.setClk { s.clk with reads := t }).busRead ⟨r.bank, r.tenant, r.ifc, r.prio, r.en, r.cap⟩ r.addr

/-- The oldest write that the power die has applied is acknowledged: its records enter the ring, with the time of the decision. -/
def State.d2dAck (s : State) : State :=
  match s.clk.out with
  | [] => s
  | o :: t =>
    if !o.applied then s
    else
      let s := s.setClk { s.clk with out := t }
      { s.each o.records (fun r s => s.auditRec r) with wres := (o.records.head?.map (·.result)).getD Res.applied }

def execD2dFrame (f : D2dFrame) (s : State) : Out :=
  .next (match f with
    | .write p a data arrives => s.byPath p (fun w s => s.d2dSend w (a.val / 4 * 4) data arrives)
    | .ack => s.d2dAck
    | .read p a => if s.hostHeld p then { s with rdata := 0 } else s.d2dRead (s.who p) (a.val / 4 * 4)
    | .answer => s.d2dAnswer
    | .heartbeat ms => if s.linkUp then s.each ms (fun m s => s.crossMerge (8 + m.1.val) m.2) else s
    | .badCrc => s.inc F.SYS_D2D_ERR_CRC)

/-- The records of a write that is applied at a later attempt carry the time of their decision. -/
def D2dOut.renew (o : D2dOut) (l : List AuditRec) : List AuditRec :=
  match o.records with
  | [] => l
  | r :: _ => l.map (fun x => { x with time := r.time, tsync := r.tsync })

/-- The ring took the write when it was sent (R572): a later attempt asks no place again. -/
def State.pdAgain (s : State) (o : D2dOut) : State × List AuditRec :=
  let log := s.log
  let r := ({ s with log := { log with ring := [], ringAt := [] } }).pdWrite o.write
  ({ r.1 with log := { r.1.log with ring := log.ring, ringAt := log.ringAt } }, o.renew r.2)

/-- 2 µs without an acknowledgement of the oldest forwarded command: it is sent again; its arrival is the row that takes it. -/
def State.fwdResend (s : State) : State :=
  if s.fwd.isEmpty then s
  else if 4 ≤ s.clk.fwdTries then s.setClk { s.clk with silent := true }
  else (s.inc F.SYS_D2D_ERR_RESEND).setClk { s.clk with fwdTries := s.clk.fwdTries + 1 }

/-- 2 µs without an acknowledgement: the oldest write is sent again, which reaches the power die or not, or the oldest forwarded
command while no write waits; after a fourth attempt the logic die falls silent. -/
def State.d2dResend (s : State) (arrives : Bool) : State :=
  match s.clk.out with
  | [] => if s.clk.silent || !s.linkUp then s else s.fwdResend
  | o :: t =>
    if s.clk.silent then s
    else
      let s := s.reach (o.at_ + 2)
      if 4 ≤ o.tries then s.setClk { s.clk with silent := true }
      else
        let s := s.inc F.SYS_D2D_ERR_RESEND
        let arrives := arrives && !s.clk.pdOff
        let (s, rs) := if arrives && !o.applied then s.pdAgain o else (s, o.records)
        s.setClk { s.clk with out := { o with records := rs, applied := o.applied || arrives, tries := o.tries + 1, at_ := s.now } :: t }

def execD2dResendTimeout (arrives : Bool) (s : State) : Out := .next (s.d2dResend arrives)

/-! ### Loss (R27, R725) -/

/-- The power die declares the loss: safe state under rank 3 of R34. Within 1 ms of a warm reset's notice the loss is no cause
(R723). -/
def State.pdLinkLost (s : State) : State :=
  if s.clk.pdLost then s
  else
    let noticed := match s.clk.noticeAt with | some t => s.now ≤ t + 1000 | none => false
    let s := s.setClk { s.clk with pdLost := true, undeclared := !noticed && !s.clk.declared }
    s.unlinked (fun s => (if noticed then s.safeEnter allOutputs else s.safeAll F.AON_SAFE_STAT_D2D).cdWindowClose)

def execD2dLinkLostPd (s : State) : Out := .next s.pdLinkLost

/-- The record that a write makes of its own (R18), not one of an EVENT that it brings about. -/
def D2dOut.own (o : D2dOut) : Option AuditRec := o.records.find? (fun r => r.kind == 0)

/-- A write that was not acknowledged ends with the loss: one record, NOT_APPLIED, for one that would have made a record. -/
def State.d2dEnd (s : State) (o : D2dOut) : State :=
  let s := s.inc F.SYS_D2D_DROP_WRITES
  match o.own with
  | none => s
  | some r => s.auditRec { r with result := Res.notApplied }

/-- The logic die declares the loss: accesses under way end with it (R46, R725), and the shadow keeps what it last held (R661). -/
def State.linkLost (s : State) : State :=
  if !s.linkUp then s
  else
    let out := s.clk.out
    let s := ((s.put F.SYS_D2D_STAT_LOST 1).put F.SYS_D2D_STAT_LINK_UP 0).inc F.SYS_D2D_STAT_LOSS_COUNT
    let s := ((s.icPulse 192).put F.HB_HSTAT_PD_STALE 1).freezeShadow
    let s := s.each out (fun o s => s.d2dEnd o)
    let s := { s.each s.clk.reads (fun _ s => s.dropRead) with fwd := [] }
    s.setClk { s.clk with
      out := []
      reads := []
      declared := true
      fwdTries := 1
      nacked := (out.filter (fun (o : D2dOut) => o.applied)).filterMap (fun (o : D2dOut) => o.own.map (fun r => (o.write.addr, r.old, o.write.data)))
      lossAt := some s.now
      undeclared := false
      silent := false
      train := none
      failAt := none }

def execD2dLinkLost (s : State) : Out := .next s.linkLost

/-! ### Training and recovery (R726 to R728) -/

/-- The end of the silence, or of the wait after a failed attempt. -/
def State.trainAt (s : State) : Nat :=
  match s.clk.failAt, s.clk.lossAt with
  | some t, _ => t + 1000
  | none, some t => t + 10
  | none, none => s.now

def execD2dTrainingStart (s : State) : Out :=
  .next (if s.linkUp || s.clk.train.isSome || s.boot.stage = 0 then s
    else
      let s := (s.reach s.trainAt).inc F.SYS_D2D_ERR_RETRAIN
      s.setClk { s.clk with train := some s.now })

def execD2dTrainingFail (s : State) : Out :=
  .next (if s.clk.train.isSome then s.setClk { s.clk with train := none, failAt := some s.now } else s)

/-- The causes of resets that waited for the link (R723). -/
def State.causesOut (s : State) : State :=
  let c := s.clk.causes
  if c = 0 then s
  else (s.setWord (R.AON_RST_CAUSE.at) (s.word (R.AON_RST_CAUSE.at) ||| Word.ofN c)).setClk { s.clk with causes := 0 }

/-- A loss that the logic die never declared raises source 192 when the link is up (R57). -/
def State.undeclaredOut (s : State) : State :=
  if s.clk.undeclared then (s.icPulse 192).setClk { s.clk with undeclared := false } else s

/-- The always-on copies of the log's numbers are brought up to date (R582). -/
def State.aonLog (s : State) : State :=
  if s.log.nextSeq = 0 then s else s.aonSeq.setPair R.AON_LOG_MIR_LO R.AON_LOG_MIR_HI s.log.mirrored

/-- LINK_UP is set: TCRIT is copied (R48), the accumulators are cleared (R349), the shadow units of power-die blocks are
copied afresh (R661), and the lines of the power die take their present value (R631). -/
def State.linkSet (s : State) : State :=
  let s := (s.put F.SYS_D2D_STAT_LINK_UP 1).put F.SYS_STRAPS_TCRIT (s.get F.FAN_GUARD_TCRIT)
  let s := (s.undeclaredOut.adcLinkBack).put F.HB_HSTAT_PD_STALE 0
  (s.setHb { s.hb with shadow := s.hb.shadow.filter (fun e => !isPower (e.1 / 4 * 4)), frozen := none }).icLinkUp

/-- The present VALUE of every command point, and the quality that fans follow, go to the power die; no command of a point whose
tenant is in HOLD (R617). -/
def State.forwardAll (s : State) : State :=
  let os := cmdOutputs.filter (fun o => s.ptKind (s.cmdPoint o.1 o.2) != Kind.unused)
  let one (cls : Nat) (o : Nat × Nat) : Fwd := let i := s.cmdPoint o.1 o.2; ⟨cls, o.2, s.ptVal i, s.ptQual i⟩
  { s with fwd := s.fwd ++ (os.filter (fun o => o.1 == Cls.fan)).map (one Cls.fanQual) 
    ++ (os.filter (fun o => s.tstate (s.ptTenant (s.cmdPoint o.1 o.2)) != 2)).map (fun o => one o.1 o) }

/-- The attempt succeeds (R727). The first of a boot brings the link up for its stages, since that boot loads the power die whatever
its state (log entry 62); one after a loss in the boot runs the recovery, and the reports follow at the end of boot. -/
def State.linkPass (s : State) : State :=
  if s.linkUp || s.clk.train.isNone || s.clk.pdOff then s
  else
    let wasReset := s.clk.pdReset
    let nacked := s.clk.nacked
    let first := s.boot.stage < 7 && s.clk.lossAt.isNone
    let s := s.setClk { s.clk with
      train := none
      failAt := none
      lossAt := none
      declared := false
      pdLost := false
      pdReset := false
      nacked := [] }
    let s := s.causesOut
    if first then s.linkSet.aonLog
    else if wasReset then s.askWarm F.AON_RST_CAUSE_WARM_PD.lo
    else
      let s := s.each nacked (fun (n : Nat × Word × Word) s => s.auditEvent n.1 n.2.1 n.2.2)
      let s := ((s.linkSet).icPulse 193).aonLog
      if s.boot.stage < 7 then s else (s.linkReports).forwardAll

def execD2dLinkCheckPass (s : State) : Out := .next s.linkPass

/-- No attempt has succeeded: 100 ms after the loss, in a boot too, or 500 ms after the t0 of a boot from power-on reset that has not
trained yet. -/
def execD2dNoRecovery (s : State) : Out :=
  .next (if s.linkUp then s
    else if s.clk.lossAt.isSome then (s.reach (s.clk.lossAt.getD 0 + 100000)).askWarm F.AON_RST_CAUSE_WARM_D2D.lo
    else if s.boot.stage = 7 then s
    else if s.boot.stage != 0 && !s.boot.warm then (s.reach (s.boot.t0 + 500000)).askWarm F.AON_RST_CAUSE_WARM_D2D.lo
    else s)

end Sys2Proof.Machine
end

