-- ==== Sys2Proof/Machine/SkehilMem.lean ====
section
/-! DEFINITION. Loads and stores of the Skehil cores (R189 to R191, R194, R197, R201) and the posted remote write (R203, R204).
The address is checked before its alignment; `de` is what the ECC of the addressed word finds. -/

namespace Sys2Proof.Machine

/-- A load of `size` bytes: SK0 reads the register space by whole aligned words only. -/
def State.skLoad (s : State) (k : Fin 4) (e : Ecc) (rd ra : Rg) (imm : BitVec 18) (de : Ecc) (size : Nat) (pick : Word → Nat → Word) : State :=
  s.skStep k 1 [ra] e (fun s =>
    let a := (s.core k).addr ra imm
    let wrote (s : State) (x : Word) : State :=
      let s := s.skWrite k rd ⟨x, 0⟩
      if rd = 0 then s else s.setCore k { s.core k with loaded := some rd.val }
    if skRegSpace k a then
      (if size = 4 && a % 4 = 0 then
        let s := s.busRead (s.who .sk0) (a - 0x10000000)
        wrote s s.rdata
      else s.skCause k Cause.access)
    else if !s.skDataOk k a then s.skCause k Cause.access
    else if a % size != 0 then s.skCause k Cause.align
    else
      let r := s.skEcc k a de
      if r.2 then wrote r.1 (pick (r.1.skMem k a) a) else r.1.skCause k Cause.ecc)

/-- A store of `size` bytes: a whole word removes an ECC error, a part of one is merged into the word. A store by which SK0 resets
itself leaves it at its reset entry (R224). -/
def State.skStore (s : State) (k : Fin 4) (e : Ecc) (rs ra : Rg) (imm : BitVec 18) (de : Ecc) (size : Nat) (merge : Word → Nat → Word → Word) : State :=
  s.skStep k 1 [rs, ra] e (fun s =>
    let c := s.core k
    let a := c.addr ra imm
    let v := c.reg rs
    let advance (s : State) : State :=
      if (s.core k).run = c.run && (s.core k).started = c.started then s.setCore k (s.core k).advance else s
    if skRegSpace k a then
      (if size = 4 && a % 4 = 0 then advance (s.asWho (s.who .sk0) (fun w s => s.busWrite w (a - 0x10000000) v))
      else s.skCause k Cause.access)
    else if !s.skDataOk k a then s.skCause k Cause.access
    else if a % size != 0 then s.skCause k Cause.align
    else if size = 4 then advance (s.setSkMem k a v)
    else
      let r := s.skEcc k a de
      if r.2 then advance (r.1.setSkMem k a (merge (r.1.skMem k a) a v)) else r.1.skCause k Cause.ecc)

def execLdw (k : Fin 4) (e : Ecc) (rd ra : Rg) (imm : BitVec 18) (de : Ecc) (s : State) : Out :=
  .next (s.skLoad k e rd ra imm de 4 (fun x _ => x))

def execLdh (k : Fin 4) (e : Ecc) (rd ra : Rg) (imm : BitVec 18) (de : Ecc) (s : State) : Out :=
  .next (s.skLoad k e rd ra imm de 2 (fun x a => (loadHalf x a).signExtend 32))

def execLdhu (k : Fin 4) (e : Ecc) (rd ra : Rg) (imm : BitVec 18) (de : Ecc) (s : State) : Out :=
  .next (s.skLoad k e rd ra imm de 2 (fun x a => (loadHalf x a).zeroExtend 32))

def execLdb (k : Fin 4) (e : Ecc) (rd ra : Rg) (imm : BitVec 18) (de : Ecc) (s : State) : Out :=
  .next (s.skLoad k e rd ra imm de 1 (fun x a => (loadByte x a).signExtend 32))

def execLdbu (k : Fin 4) (e : Ecc) (rd ra : Rg) (imm : BitVec 18) (de : Ecc) (s : State) : Out :=
  .next (s.skLoad k e rd ra imm de 1 (fun x a => (loadByte x a).zeroExtend 32))

def execStw (k : Fin 4) (e : Ecc) (rs ra : Rg) (imm : BitVec 18) (s : State) : Out :=
  .next (s.skStore k e rs ra imm .clean 4 (fun _ _ v => v))

def execSth (k : Fin 4) (e : Ecc) (rs ra : Rg) (imm : BitVec 18) (de : Ecc) (s : State) : Out :=
  .next (s.skStore k e rs ra imm de 2 storeHalf)

def execStb (k : Fin 4) (e : Ecc) (rs ra : Rg) (imm : BitVec 18) (de : Ecc) (s : State) : Out :=
  .next (s.skStore k e rs ra imm de 1 storeByte)

/-- A non-zero ra[31:25] gives INDEX; rd receives the tag, or the local refusal. The record names the interface of the core: on SK0
code 10 of R187, where R204 says 6 (log entry 152). -/
def execPwrr (k : Fin 4) (e : Ecc) (rd ra rb : Rg) (prio : BitVec 4) (s : State) : Out :=
  .next (s.skStep k 1 [ra, rb] e (fun s =>
    let x := ((s.core k).reg ra).toNat
    if 2 ^ 25 ≤ x then s.skCause k Cause.index
    else
      let r := s.rwHandover (s.skTenant k) (s.skWho k).ifc (s.skGen k) 0 false prio.toNat x ((s.core k).reg rb)
      r.1.skWrite k rd ⟨r.2, 0⟩))

end Sys2Proof.Machine
end

