-- ==== Sys2Proof/Machine/StatusItems.lean ====
section
/-! DEFINITION. The STATUS items of the blocks (R76, R261, R310, R358, R395, R432, R475, R522, R558, R592): once per device
tick, each is written to the points bound to it. -/

namespace Sys2Proof.Machine

def fOne : Word := 0x3F800000
def fBool (b : Bool) : Word := if b then fOne else 0

/-- A register field in tenths (or hundredths, or thousandths), as binary32. -/
def State.getF (s : State) (f : Fld) (d : Nat) (i : Nat := 0) : Word := fOfRat (s.get f i) d

def State.getSF (s : State) (f : Fld) (d : Nat) (i : Nat := 0) : Word := fOfRat (toSigned f.w (s.get f i)) d

/-- Block 0x01 (R261, R310). -/
def State.cdItem (s : State) (k : Nat) : Word × Bool :=
  let n := k % 32
  let live := s.cdPhase n != Ph.fault
  let c := s.cdOf n
  if k < 0x20 then (fOfNat (s.get F.CD_MEAS_I_MEAS n), live)
  else if k < 0x40 then (fOfNat (s.cdPhase n), live)
  else if k < 0x60 then (if c.vCnt = 0 then 0 else fOfRat c.vSum (10 * c.vCnt), live)
  else if k < 0x80 then (s.getF F.CD_CLAMP_E_LAST 100 n, live)
  else if k < 0x120 then (s.cdTw n, true)
  else if k < 0x140 then (fOfRat (s.cdEwin n) 2000000000, true)
  else if k < 0x160 then (fOfNat (s.get F.CD_HOLD_LRN_I_LHOLD n), live && s.bit F.CD_HOLD_LRN_VALID n)
  else if k < 0x180 then (fOfNat (s.get F.CD_HOLD_LRN_I_DO n), live && s.bit F.CD_HOLD_LRN_VALID n)
  else if k < 0x1A0 then (s.getF F.CD_STK_RES_T_OPEN 10 n, live && s.bit F.CD_STK_RES_OP_VALID n)
  else if k < 0x1C0 then (s.getF F.CD_STK_RES_T_CLOSE 10 n, live && s.bit F.CD_STK_RES_CL_VALID n)
  else if k = 0x1C0 then (s.cdg.pf, true)
  else (fOfNat s.cdStage, true)

/-- Block 0x02 (R395). -/
def State.fanItem (s : State) (k : Nat) : Word × Bool :=
  let n := k % 32
  if k < 0x20 then (fOfNat (s.fanSpeed n), s.word (R.FAN_FLT.at n) == 0)
  else if k < 0x40 then (fOfRat (100 * s.fanDuty n) 1023, true)
  else if k < 0x60 then (fOfNat (s.get F.FAN_STAT_SRC n), true)
  else if k < 0x70 then (s.fanInVal (k - 0x60), s.fanInValid (k - 0x60))
  else if k = 0x70 then (s.getSF F.FAN_GUARD_T0_TS0 10, !s.bit F.FAN_GUARD_FLT_SENSE_DIFF)
  else if k = 0x71 then (s.getSF F.FAN_GUARD_T0_TS1 10, !s.bit F.FAN_GUARD_FLT_SENSE_DIFF)
  else if k = 0x72 then (s.getSF F.FAN_GUARD_T1_TG 10, !s.bit F.FAN_GUARD_FLT_TG_OPEN)
  else (fBool (!s.bit F.FAN_GUARD_PIN), true)

/-- Cycles of this tick out of IDLE and OFF, the present stay among them (R358). -/
def State.adcBusy (s : State) (k : Nat) : Nat :=
  let c := s.conv k
  c.busy + (if s.adcState k = Adc.off || s.adcState k = Adc.idle then 0 else 32 * s.now - c.since)

/-- Block 0x03 (R358). -/
def State.adcItem (s : State) (k : Nat) : Word × Bool :=
  if k < 4 then (fOfRat (Nat.min (s.adcBusy k) 320000) 320000, !s.plaus k)
  else if k < 0x12 then (milli (s.adc.diff.getD (k - 0x10) 0), !s.plaus (2 * (k - 0x10)) && !s.plaus (2 * (k - 0x10) + 1))
  else
    let n := k - 0x20
    (fBool ((s.word (if n < 32 then R.ADC_INJ_LO.at else R.ADC_INJ_HI.at)).getLsbD (n % 32)), true)

/-- Block 0x04 (R432). -/
def State.fioItem (s : State) (k : Nat) : Word × Bool :=
  if k < 0x10 then (fOfRat (s.aoVa k) aoVolt, !s.bit F.AO_FLT_OVL k && !s.bit F.FIO_GSTAT_VF_LOW)
  else if k < 0x30 then
    let n := k - 0x10
    (fOfNat (s.get F.DO_STAT_OUT n), s.word (R.DO_FLT.at n) == 0 && !s.bit F.DO_STAT_OPENLOAD n)
  else (s.getF F.FIO_GSTAT_VFIELD 100, !s.bit F.FIO_GSTAT_VF_LOW)

/-- Block 0x05 (R475). -/
def State.zbItem (s : State) (k : Nat) : Word × Bool :=
  let z := k % 16
  let ok := s.word (R.ZB_PWR_FLT.at z) == 0
  if k < 0x10 then (s.getF F.ZB_PWR_STAT_IMEAS 1000 z, ok)
  else if k < 0x20 then (fOfNat ((List.range 32).filter (fun a => s.get F.ZB_NODE_CFG_STATE z a == 2)).length, s.zbOn z)
  else if k < 0x30 then (fOfNat (s.get F.ZB_STAT_FCS z), s.get F.ZB_STAT_FCS z != 2)
  else (s.getF F.ZB_PWR_V_VOUT 100 z, ok)

/-- Bits a port can send in 1 s: the Straits 10 Mbit/s, BB 100 Mbit/s. -/
def portBits (p : Nat) : Nat := if p = 2 then 100000000 else 10000000

/-- Members of a mask. -/
def popCount (m : Nat) : Nat := ((List.range 32).filter (fun i => m.testBit i)).length

/-- Block 0x06 (R522, R558). -/
def State.clItem (s : State) (k : Nat) : Word × Bool :=
  let frags := (s.isl.map.map (·.frags)).getD []
  if k < 3 then (fOfNat (s.get F.CL_PORT_STAT_LINK k), true)
  else if k = 0x10 then ((fOfInt s.cl.lastOff).val, true)
  else if k = 0x11 then (fOfNat (s.get F.CL_TIME_STAT_SYNC), true)
  else if k = 0x12 then (fOfNat s.subIn.length, true)
  else if k = 0x13 then (fOfNat s.subOut.length, true)
  else if k = 0x14 then (fOfNat s.cl.tags.length, true)
  else if k = 0x20 then (fOfNat s.fragMembers.length, true)
  else if k = 0x21 then (fOfNat ((frags.map (fun f => popCount f.2)).sum), s.isl.map.isSome)
  else if k = 0x22 then (fOfNat ((List.range 32).filter (fun i => frags.any (fun f => f.1 / 32 == i))).length, s.isl.map.isSome)
  else
    let p := k - 0x23
    let bits := (((s.cl.load.getD p []).filter (fun (e : Nat × Nat) => s.now < e.1 + 1000000)).map (fun (e : Nat × Nat) => e.2)).sum
    (fOfRat (100 * bits) (portBits p), true)

/-- Block 0x07 (R592). -/
def State.logItem (s : State) (k : Nat) : Word × Bool :=
  if k = 0 then (fOfRat s.log.ring.length ringSize, !s.bit F.LOG_STAT_FULL)
  else if k = 1 then ((fOfInt ((s.log.nextSeq : Int) - 1 - s.log.mirrored)).val, true)
  else (fOfNat s.store, s.storeReady)

/-- The value of an item and whether it reports good; none where the item's block lies on the power die and the link is lost,
so that no write arrives. -/
def State.statusItem (s : State) (block k : Nat) : Option (Word × Bool) :=
  let pd (x : Word × Bool) : Option (Word × Bool) := if s.linkUp then some x else none
  if block = 1 then pd (s.cdItem k) else if block = 2 then pd (s.fanItem k) else if block = 3 then pd (s.adcItem k)
  else if block = 4 then pd (s.fioItem k)
  else if block = 5 then (if k < 0x10 || 0x30 ≤ k then pd (s.zbItem k) else some (s.zbItem k))
  else if block = 6 then some (s.clItem k)
  else if block = 7 then some (s.logItem k)
  else none

/-- The source write of an item to a point bound to it. -/
def State.statusPoint (s : State) (i : Nat) (bind : Word) : State :=
  let ref := F.PT_BIND_REF.of bind
  match s.statusItem (ref / 2 ^ 16) (ref % 2 ^ 16) with
  | some (v, good) => s.ptSource i bind v good
  | none => s

/-- The measurements of the tick, as their registers show them (R431, R470). -/
def State.tickMeas (s : State) (m : TickMeas) : State :=
  let s := s.each (List.range 16) (fun z s =>
    let v := m.zbV.getD z 0
    ((s.put F.ZB_PWR_STAT_IMEAS (m.zbMA.getD z 0) z).put F.ZB_PWR_V_VOUT v z).put F.ZB_PWR_STAT_PGOOD (b2n (2000 < v)) z)
  (s.vfieldMeas m.vfield).put F.CD_GSTAT_VCOIL m.vcoil

/-- What is gathered over a device tick starts again. -/
def State.tickGathered (s : State) : State :=
  { s with
    cd := s.cd.map (fun (e : Nat × CdChan) => (e.1, { e.2 with vSum := 0, vCnt := 0 }))
    adc := { s.adc with convs := s.adc.convs.map (fun (c : AdcConv) => { c with busy := 0, since := Nat.max c.since (32 * s.now) }) } }

def State.statusTick (s : State) (m : TickMeas) : State :=
  let s := s.tickMeas m
  let bound := (s.listed R.PT_BIND).filter (fun e => F.PT_BIND_KIND.of e.2 == Kind.status)
  (s.each bound (fun e s => s.statusPoint e.1 e.2)).tickGathered

def execStatusItemsTick (m : TickMeas) (s : State) : Out := .next (s.statusTick m)

end Sys2Proof.Machine
end

