-- ==== Sys2Proof/Machine/Dispatch.lean ====
section
/-! DEFINITION. What each command does: one arm for each constructor, one meaning for each arm. -/

namespace Sys2Proof.Machine

def exec (i : Instr) (s : State) : Host.Outcome State Fault Refusal :=
  match i with
  | .registerWrite p a data => Sys2Proof.Machine.execRegisterWrite p a data s
  | .unmappedAccess p a write => Sys2Proof.Machine.execUnmappedAccess p a write s
  | .powerAccessDropped p a write data => Sys2Proof.Machine.execPowerAccessDropped p a write data s
  | .safeRelAll p data => Sys2Proof.Machine.execSafeRelAll p data s
  | .safeRelCoil p data => Sys2Proof.Machine.execSafeRelCoil p data s
  | .safeRelFan p data => Sys2Proof.Machine.execSafeRelFan p data s
  | .safeRelAo p data => Sys2Proof.Machine.execSafeRelAo p data s
  | .safeRelDo p data => Sys2Proof.Machine.execSafeRelDo p data s
  | .safeRelZbpwr p data => Sys2Proof.Machine.execSafeRelZbpwr p data s
  | .pointValueWrite p idx v ecc => Sys2Proof.Machine.execPointValueWrite p idx v ecc s
  | .pointSourceWrite idx kind ref v good remote task ecc => Sys2Proof.Machine.execPointSourceWrite idx kind ref v good remote task ecc s
  | .pointRelinquish p data => Sys2Proof.Machine.execPointRelinquish p data s
  | .pointBindWrite p idx data => Sys2Proof.Machine.execPointBindWrite p idx data s
  | .pointConfigWrite p idx data => Sys2Proof.Machine.execPointConfigWrite p idx data s
  | .pointValueRead p idx ecc => Sys2Proof.Machine.execPointValueRead p idx ecc s
  | .pointAgeTick upsets => Sys2Proof.Machine.execPointAgeTick upsets s
  | .profileWrite p n k data => Sys2Proof.Machine.execProfileWrite p n k data s
  | .zoneCfgWrite p z data => Sys2Proof.Machine.execZoneCfgWrite p z data s
  | .statusItemsTick m => Sys2Proof.Machine.execStatusItemsTick m s
  | .leFrameBoundary => Sys2Proof.Machine.execLeFrameBoundary s
  | .loopEvaluation ecc differ => Sys2Proof.Machine.execLoopEvaluation ecc differ s
  | .lockstepRepeat agree => Sys2Proof.Machine.execLockstepRepeat agree s
  | .leFaultNotice => Sys2Proof.Machine.execLeFaultNotice s
  | .leFaultTimerExpiry => Sys2Proof.Machine.execLeFaultTimerExpiry s
  | .leFaultTimerCancel => Sys2Proof.Machine.execLeFaultTimerCancel s
  | .leFuncRst p => Sys2Proof.Machine.execLeFuncRst p s
  | .outputQueueDrain => Sys2Proof.Machine.execOutputQueueDrain s
  | .oqTrendTimeout => Sys2Proof.Machine.execOqTrendTimeout s
  | .loopRecordWrite p n k v => Sys2Proof.Machine.execLoopRecordWrite p n k v s
  | .loopRecordApply f => Sys2Proof.Machine.execLoopRecordApply f s
  | .leSwap p data => Sys2Proof.Machine.execLeSwap p data s
  | .leSwgRequest p data => Sys2Proof.Machine.execLeSwgRequest p data s
  | .leSwgCancel p data => Sys2Proof.Machine.execLeSwgCancel p data s
  | .swapRequestApply f => Sys2Proof.Machine.execSwapRequestApply f s
  | .groupRequestApply f => Sys2Proof.Machine.execGroupRequestApply f s
  | .leStateSelWrite p data => Sys2Proof.Machine.execLeStateSelWrite p data s
  | .leStateCopy => Sys2Proof.Machine.execLeStateCopy s
  | .leStateReinit p data => Sys2Proof.Machine.execLeStateReinit p data s
  | .loopReinitApply k => Sys2Proof.Machine.execLoopReinitApply k s
  | .lxForceApply k => Sys2Proof.Machine.execLxForceApply k s
  | .lxRelinquishApply k => Sys2Proof.Machine.execLxRelinquishApply k s
  | .add k e rd ra rb => Sys2Proof.Machine.execAdd k e rd ra rb s
  | .sub k e rd ra rb => Sys2Proof.Machine.execSub k e rd ra rb s
  | .and k e rd ra rb => Sys2Proof.Machine.execAnd k e rd ra rb s
  | .ior k e rd ra rb => Sys2Proof.Machine.execIor k e rd ra rb s
  | .eor k e rd ra rb => Sys2Proof.Machine.execEor k e rd ra rb s
  | .andn k e rd ra rb => Sys2Proof.Machine.execAndn k e rd ra rb s
  | .shl k e rd ra rb => Sys2Proof.Machine.execShl k e rd ra rb s
  | .shr k e rd ra rb => Sys2Proof.Machine.execShr k e rd ra rb s
  | .asr k e rd ra rb => Sys2Proof.Machine.execAsr k e rd ra rb s
  | .ror k e rd ra rb => Sys2Proof.Machine.execRor k e rd ra rb s
  | .cmp k e rd ra rb => Sys2Proof.Machine.execCmp k e rd ra rb s
  | .cmpu k e rd ra rb => Sys2Proof.Machine.execCmpu k e rd ra rb s
  | .min k e rd ra rb => Sys2Proof.Machine.execMin k e rd ra rb s
  | .max k e rd ra rb => Sys2Proof.Machine.execMax k e rd ra rb s
  | .minu k e rd ra rb => Sys2Proof.Machine.execMinu k e rd ra rb s
  | .maxu k e rd ra rb => Sys2Proof.Machine.execMaxu k e rd ra rb s
  | .mul k e rd ra rb => Sys2Proof.Machine.execMul k e rd ra rb s
  | .mulhs k e rd ra rb => Sys2Proof.Machine.execMulhs k e rd ra rb s
  | .mulhu k e rd ra rb => Sys2Proof.Machine.execMulhu k e rd ra rb s
  | .quo k e rd ra rb => Sys2Proof.Machine.execQuo k e rd ra rb s
  | .quou k e rd ra rb => Sys2Proof.Machine.execQuou k e rd ra rb s
  | .mod k e rd ra rb => Sys2Proof.Machine.execMod k e rd ra rb s
  | .modu k e rd ra rb => Sys2Proof.Machine.execModu k e rd ra rb s
  | .adds k e rd ra rb => Sys2Proof.Machine.execAdds k e rd ra rb s
  | .subs k e rd ra rb => Sys2Proof.Machine.execSubs k e rd ra rb s
  | .addi k e rd ra imm => Sys2Proof.Machine.execAddi k e rd ra imm s
  | .andi k e rd ra imm => Sys2Proof.Machine.execAndi k e rd ra imm s
  | .iori k e rd ra imm => Sys2Proof.Machine.execIori k e rd ra imm s
  | .eori k e rd ra imm => Sys2Proof.Machine.execEori k e rd ra imm s
  | .cmpi k e rd ra imm => Sys2Proof.Machine.execCmpi k e rd ra imm s
  | .cmpui k e rd ra imm => Sys2Proof.Machine.execCmpui k e rd ra imm s
  | .shli k e rd ra imm => Sys2Proof.Machine.execShli k e rd ra imm s
  | .shri k e rd ra imm => Sys2Proof.Machine.execShri k e rd ra imm s
  | .asri k e rd ra imm => Sys2Proof.Machine.execAsri k e rd ra imm s
  | .lhi k e rd imm => Sys2Proof.Machine.execLhi k e rd imm s
  | .rori k e rd ra imm => Sys2Proof.Machine.execRori k e rd ra imm s
  | .ldw k e rd ra imm de => Sys2Proof.Machine.execLdw k e rd ra imm de s
  | .ldh k e rd ra imm de => Sys2Proof.Machine.execLdh k e rd ra imm de s
  | .ldhu k e rd ra imm de => Sys2Proof.Machine.execLdhu k e rd ra imm de s
  | .ldb k e rd ra imm de => Sys2Proof.Machine.execLdb k e rd ra imm de s
  | .ldbu k e rd ra imm de => Sys2Proof.Machine.execLdbu k e rd ra imm de s
  | .stw k e rs ra imm => Sys2Proof.Machine.execStw k e rs ra imm s
  | .sth k e rs ra imm de => Sys2Proof.Machine.execSth k e rs ra imm de s
  | .stb k e rs ra imm de => Sys2Proof.Machine.execStb k e rs ra imm de s
  | .beq k e ra rb off => Sys2Proof.Machine.execBeq k e ra rb off s
  | .bne k e ra rb off => Sys2Proof.Machine.execBne k e ra rb off s
  | .blz k e ra off => Sys2Proof.Machine.execBlz k e ra off s
  | .bgez k e ra off => Sys2Proof.Machine.execBgez k e ra off s
  | .bgz k e ra off => Sys2Proof.Machine.execBgz k e ra off s
  | .blez k e ra off => Sys2Proof.Machine.execBlez k e ra off s
  | .jmp k e off => Sys2Proof.Machine.execJmp k e off s
  | .call k e off => Sys2Proof.Machine.execCall k e off s
  | .jind k e rd ra imm => Sys2Proof.Machine.execJind k e rd ra imm s
  | .pld k e rd ra imm pe => Sys2Proof.Machine.execPld k e rd ra imm pe s
  | .pwr k e rd ra rb prio pe => Sys2Proof.Machine.execPwr k e rd ra rb prio pe s
  | .prel k e rd ra prio pe => Sys2Proof.Machine.execPrel k e rd ra prio pe s
  | .psrc k e rd ra rb word prio pe => Sys2Proof.Machine.execPsrc k e rd ra rb word prio pe s
  | .pwrr k e rd ra rb prio => Sys2Proof.Machine.execPwrr k e rd ra rb prio s
  | .lxrr k e rd ra word => Sys2Proof.Machine.execLxrr k e rd ra word s
  | .lxrs k e rd ra word => Sys2Proof.Machine.execLxrs k e rd ra word s
  | .lxwr k e ra rb word => Sys2Proof.Machine.execLxwr k e ra rb word s
  | .lxsw k e ra rb => Sys2Proof.Machine.execLxsw k e ra rb s
  | .lxgs k e rb => Sys2Proof.Machine.execLxgs k e rb s
  | .lxri k e ra => Sys2Proof.Machine.execLxri k e ra s
  | .lxfo k e ra rb prio => Sys2Proof.Machine.execLxfo k e ra rb prio s
  | .lxfr k e ra prio => Sys2Proof.Machine.execLxfr k e ra prio s
  | .lxsync k e rd => Sys2Proof.Machine.execLxsync k e rd s
  | .done k e stall => Sys2Proof.Machine.execDone k e stall s
  | .brk k e => Sys2Proof.Machine.execBrk k e s
  | .sig k e imm => Sys2Proof.Machine.execSig k e imm s
  | .rdt k e rd imm stall => Sys2Proof.Machine.execRdt k e rd imm stall s
  | .eret k e => Sys2Proof.Machine.execEret k e s
  | .cflg k e rd => Sys2Proof.Machine.execCflg k e rd s
  | .fadd k e rd ra rb => Sys2Proof.Machine.execFadd k e rd ra rb s
  | .fsub k e rd ra rb => Sys2Proof.Machine.execFsub k e rd ra rb s
  | .fmul k e rd ra rb => Sys2Proof.Machine.execFmul k e rd ra rb s
  | .fdiv k e rd ra rb => Sys2Proof.Machine.execFdiv k e rd ra rb s
  | .fmin k e rd ra rb => Sys2Proof.Machine.execFmin k e rd ra rb s
  | .fmax k e rd ra rb => Sys2Proof.Machine.execFmax k e rd ra rb s
  | .fabs k e rd ra => Sys2Proof.Machine.execFabs k e rd ra s
  | .fneg k e rd ra => Sys2Proof.Machine.execFneg k e rd ra s
  | .fsqrt k e rd ra => Sys2Proof.Machine.execFsqrt k e rd ra s
  | .fcmp k e rd ra rb => Sys2Proof.Machine.execFcmp k e rd ra rb s
  | .ftoi k e rd ra => Sys2Proof.Machine.execFtoi k e rd ra s
  | .itof k e rd ra => Sys2Proof.Machine.execItof k e rd ra s
  | .utof k e rd ra => Sys2Proof.Machine.execUtof k e rd ra s
  | .fkind k e rd ra => Sys2Proof.Machine.execFkind k e rd ra s
  | .frnd k e rd ra => Sys2Proof.Machine.execFrnd k e rd ra s
  | .fscl k e rd ra rb => Sys2Proof.Machine.execFscl k e rd ra rb s
  | .taskBudgetExpiry k => Sys2Proof.Machine.execTaskBudgetExpiry k s
  | .sk0InterruptTake => Sys2Proof.Machine.execSk0InterruptTake s
  | .taskActivatePeriodic => Sys2Proof.Machine.execTaskActivatePeriodic s
  | .taskDispatch k => Sys2Proof.Machine.execTaskDispatch k s
  | .lxReadResponse k => Sys2Proof.Machine.execLxReadResponse k s
  | .lxAck k => Sys2Proof.Machine.execLxAck k s
  | .skMemoryWrite p k dmem word data => Sys2Proof.Machine.execSkMemoryWrite p k dmem word data s
  | .skFuncRst p k => Sys2Proof.Machine.execSkFuncRst p k s
  | .cdCycleBoundary n x => Sys2Proof.Machine.execCdCycleBoundary n x s
  | .cdCommand n => Sys2Proof.Machine.execCdCommand n s
  | .cdZeroCheck n a b => Sys2Proof.Machine.execCdZeroCheck n a b s
  | .cdOvercurrent n => Sys2Proof.Machine.execCdOvercurrent n s
  | .cdOpenDetect n => Sys2Proof.Machine.execCdOpenDetect n s
  | .cdImbalance n => Sys2Proof.Machine.execCdImbalance n s
  | .cdPullinEnd n x => Sys2Proof.Machine.execCdPullinEnd n x s
  | .cdHoldExpiry n x => Sys2Proof.Machine.execCdHoldExpiry n x s
  | .cdPulseExpiry n x => Sys2Proof.Machine.execCdPulseExpiry n x s
  | .cdClampEnd n x => Sys2Proof.Machine.execCdClampEnd n x s
  | .cdFdTimeout n => Sys2Proof.Machine.execCdFdTimeout n s
  | .cdSupplyExcursion high v mean => Sys2Proof.Machine.execCdSupplyExcursion high v mean s
  | .cdSupplyRecover v => Sys2Proof.Machine.execCdSupplyRecover v s
  | .cdFaultClear p n data => Sys2Proof.Machine.execCdFaultClear p n data s
  | .cdCfgWrite p n data => Sys2Proof.Machine.execCdCfgWrite p n data s
  | .cdPairFuncRst p k => Sys2Proof.Machine.execCdPairFuncRst p k s
  | .cdFuncRstComplete k => Sys2Proof.Machine.execCdFuncRstComplete k s
  | .cdKinkObservationEnd n vs => Sys2Proof.Machine.execCdKinkObservationEnd n vs s
  | .cdDipObservationEnd n is => Sys2Proof.Machine.execCdDipObservationEnd n is s
  | .cdReleaseBump n t run => Sys2Proof.Machine.execCdReleaseBump n t run s
  | .cdLwinWrite p data => Sys2Proof.Machine.execCdLwinWrite p data s
  | .cdLwinMinute => Sys2Proof.Machine.execCdLwinMinute s
  | .cdLearnStroke p n => Sys2Proof.Machine.execCdLearnStroke p n s
  | .cdLearnProbe p n => Sys2Proof.Machine.execCdLearnProbe p n s
  | .cdLearnCancel p n => Sys2Proof.Machine.execCdLearnCancel p n s
  | .cdStrokeStepEnd n => Sys2Proof.Machine.execCdStrokeStepEnd n s
  | .cdProbeDwellEnd n => Sys2Proof.Machine.execCdProbeDwellEnd n s
  | .cdHoldLrnWrite p n data => Sys2Proof.Machine.execCdHoldLrnWrite p n data s
  | .cdThermalUpdate n => Sys2Proof.Machine.execCdThermalUpdate n s
  | .cdRwWindow n => Sys2Proof.Machine.execCdRwWindow n s
  | .cdEnergyCheck n => Sys2Proof.Machine.execCdEnergyCheck n s
  | .cdBudgetUpdate vcoil => Sys2Proof.Machine.execCdBudgetUpdate vcoil s
  | .cdBudgetStageRise => Sys2Proof.Machine.execCdBudgetStageRise s
  | .cdBudgetStageFall => Sys2Proof.Machine.execCdBudgetStageFall s
  | .cdBudgetOver => Sys2Proof.Machine.execCdBudgetOver s
  | .cdUnshed => Sys2Proof.Machine.execCdUnshed s
  | .adcTrigger src rising => Sys2Proof.Machine.execAdcTrigger src rising s
  | .adcStartNormal p k => Sys2Proof.Machine.execAdcStartNormal p k s
  | .adcStartUrgent p k => Sys2Proof.Machine.execAdcStartUrgent p k s
  | .adcStartupEnd k => Sys2Proof.Machine.execAdcStartupEnd k s
  | .adcConversionEnd k code ovr => Sys2Proof.Machine.execAdcConversionEnd k code ovr s
  | .adcPassMerge k => Sys2Proof.Machine.execAdcPassMerge k s
  | .pdTickArrival => Sys2Proof.Machine.execPdTickArrival s
  | .accPublication => Sys2Proof.Machine.execAccPublication s
  | .adcInjectionSample mask => Sys2Proof.Machine.execAdcInjectionSample mask s
  | .adcCheckStart k => Sys2Proof.Machine.execAdcCheckStart k s
  | .adcCheckComplete k codes => Sys2Proof.Machine.execAdcCheckComplete k codes s
  | .adcTimerExpiry t => Sys2Proof.Machine.execAdcTimerExpiry t s
  | .adcCtrlWrite p k data => Sys2Proof.Machine.execAdcCtrlWrite p k data s
  | .adcLocalMean => Sys2Proof.Machine.execAdcLocalMean s
  | .adcFuncRst p k => Sys2Proof.Machine.execAdcFuncRst p k s
  | .fanEval => Sys2Proof.Machine.execFanEval s
  | .fanCommand n => Sys2Proof.Machine.execFanCommand n s
  | .fanQualChange n => Sys2Proof.Machine.execFanQualChange n s
  | .fanTachEdge n after => Sys2Proof.Machine.execFanTachEdge n after s
  | .fanTachTimeout n => Sys2Proof.Machine.execFanTachTimeout n s
  | .fanKickTimeout n => Sys2Proof.Machine.execFanKickTimeout n s
  | .fanTachFault n => Sys2Proof.Machine.execFanTachFault n s
  | .fanWatchEnd g => Sys2Proof.Machine.execFanWatchEnd g s
  | .fanSupervisionLost n => Sys2Proof.Machine.execFanSupervisionLost n s
  | .fanGroupTrigger g => Sys2Proof.Machine.execFanGroupTrigger g s
  | .fanGroupTest p g data => Sys2Proof.Machine.execFanGroupTest p g data s
  | .fanTestEnd g => Sys2Proof.Machine.execFanTestEnd g s
  | .fanFaultClear p n data => Sys2Proof.Machine.execFanFaultClear p n data s
  | .fanGroupFuncRst p g => Sys2Proof.Machine.execFanGroupFuncRst p g s
  | .guardSample raw0 raw1 part extLow => Sys2Proof.Machine.execGuardSample raw0 raw1 part extLow s
  | .guardTrip => Sys2Proof.Machine.execGuardTrip s
  | .guardRelease => Sys2Proof.Machine.execGuardRelease s
  | .guardSenseDiff => Sys2Proof.Machine.execGuardSenseDiff s
  | .guardTgOpen => Sys2Proof.Machine.execGuardTgOpen s
  | .diStateChange n raw k => Sys2Proof.Machine.execDiStateChange n raw k s
  | .diCfgWrite p n data => Sys2Proof.Machine.execDiCfgWrite p n data s
  | .diCntset p n data => Sys2Proof.Machine.execDiCntset p n data s
  | .doEval => Sys2Proof.Machine.execDoEval s
  | .doCommand n => Sys2Proof.Machine.execDoCommand n s
  | .doMinTimeExpiry n => Sys2Proof.Machine.execDoMinTimeExpiry n s
  | .doOvercurrent n => Sys2Proof.Machine.execDoOvercurrent n s
  | .doThermalTrip n => Sys2Proof.Machine.execDoThermalTrip n s
  | .doFaultClear p n data => Sys2Proof.Machine.execDoFaultClear p n data s
  | .doOpenloadDetect n => Sys2Proof.Machine.execDoOpenloadDetect n s
  | .doOpenloadClear n => Sys2Proof.Machine.execDoOpenloadClear n s
  | .aoUpdate => Sys2Proof.Machine.execAoUpdate s
  | .aoCommand n => Sys2Proof.Machine.execAoCommand n s
  | .aoOverload n => Sys2Proof.Machine.execAoOverload n s
  | .aoFaultClear p n data => Sys2Proof.Machine.execAoFaultClear p n data s
  | .vfieldLow v => Sys2Proof.Machine.execVfieldLow v s
  | .vfieldRecover v => Sys2Proof.Machine.execVfieldRecover v s
  | .zbDataFrame z f => Sys2Proof.Machine.execZbDataFrame z f s
  | .zbRemoteFrame z ide id => Sys2Proof.Machine.execZbRemoteFrame z ide id s
  | .zbAnnounce z f => Sys2Proof.Machine.execZbAnnounce z f s
  | .zbHeartbeat z f => Sys2Proof.Machine.execZbHeartbeat z f s
  | .zbNodeWrite z f => Sys2Proof.Machine.execZbNodeWrite z f s
  | .zbReply z f => Sys2Proof.Machine.execZbReply z f s
  | .zbTxreq p z b => Sys2Proof.Machine.execZbTxreq p z b s
  | .zbTxabort p z b => Sys2Proof.Machine.execZbTxabort p z b s
  | .zbFrameChoice z => Sys2Proof.Machine.execZbFrameChoice z s
  | .zbTxEnd z e tdcv => Sys2Proof.Machine.execZbTxEnd z e tdcv s
  | .zbBusError z code add data tx late tdcv => Sys2Proof.Machine.execZbBusError z code add data tx late tdcv s
  | .zbRecover p z => Sys2Proof.Machine.execZbRecover p z s
  | .zbRecoveryComplete z => Sys2Proof.Machine.execZbRecoveryComplete z s
  | .zbModeWrite p z data => Sys2Proof.Machine.execZbModeWrite p z data s
  | .zbIntegrated z => Sys2Proof.Machine.execZbIntegrated z s
  | .zbTagOpenTimeout z t => Sys2Proof.Machine.execZbTagOpenTimeout z t s
  | .zbTagQuarantineEnd z t => Sys2Proof.Machine.execZbTagQuarantineEnd z t s
  | .zbNodeTimeout z a => Sys2Proof.Machine.execZbNodeTimeout z a s
  | .zbSupplyStart => Sys2Proof.Machine.execZbSupplyStart s
  | .zbSupplyTrip z mA => Sys2Proof.Machine.execZbSupplyTrip z mA s
  | .zbSupplyHard z mA => Sys2Proof.Machine.execZbSupplyHard z mA s
  | .zbSupplyPgFail z mA => Sys2Proof.Machine.execZbSupplyPgFail z mA s
  | .zbSupplyRetry z => Sys2Proof.Machine.execZbSupplyRetry z s
  | .zbPwrCycle p z => Sys2Proof.Machine.execZbPwrCycle p z s
  | .zbPwrCycleEnd z => Sys2Proof.Machine.execZbPwrCycleEnd z s
  | .zbPwrFaultClear p z data => Sys2Proof.Machine.execZbPwrFaultClear p z data s
  | .zbPwrEnWrite p z data => Sys2Proof.Machine.execZbPwrEnWrite p z data s
  | .zbFuncRst p z => Sys2Proof.Machine.execZbFuncRst p z s
  | .clFrameRx port fcsOk full bytes lead stamp => Sys2Proof.Machine.execClFrameRx port fcsOk full bytes lead stamp s
  | .icmpEchoRequest port src dst body => Sys2Proof.Machine.execIcmpEchoRequest port src dst body s
  | .neighborSolicitation port src target => Sys2Proof.Machine.execNeighborSolicitation port src target s
  | .neighborAdvertisement port target mac => Sys2Proof.Machine.execNeighborAdvertisement port target mac s
  | .dadComplete port k => Sys2Proof.Machine.execDadComplete port k s
  | .clLinkUp port level role sqi => Sys2Proof.Machine.execClLinkUp port level role sqi s
  | .clLinkDown port => Sys2Proof.Machine.execClLinkDown port s
  | .pub port m => Sys2Proof.Machine.execPub port m s
  | .subscribe port m => Sys2Proof.Machine.execSubscribe port m s
  | .subAck port m => Sys2Proof.Machine.execSubAck port m s
  | .unsubscribe port m => Sys2Proof.Machine.execUnsubscribe port m s
  | .rwrite port m => Sys2Proof.Machine.execRwrite port m s
  | .rwriteDecide => Sys2Proof.Machine.execRwriteDecide s
  | .rwriteResult port m => Sys2Proof.Machine.execRwriteResult port m s
  | .mirror port m => Sys2Proof.Machine.execMirror port m s
  | .mirrorAck port m => Sys2Proof.Machine.execMirrorAck port m s
  | .beacon port m stamp => Sys2Proof.Machine.execBeacon port m stamp s
  | .delayReq port m lead => Sys2Proof.Machine.execDelayReq port m lead s
  | .delayResp port m stamp => Sys2Proof.Machine.execDelayResp port m stamp s
  | .hello port m => Sys2Proof.Machine.execHello port m s
  | .topo port m => Sys2Proof.Machine.execTopo port m s
  | .islandAdv port m addr => Sys2Proof.Machine.execIslandAdv port m addr s
  | .campusMap port m => Sys2Proof.Machine.execCampusMap port m s
  | .campusMapRelay => Sys2Proof.Machine.execCampusMapRelay s
  | .clMessageTransmit port => Sys2Proof.Machine.execClMessageTransmit port s
  | .subscribeSend => Sys2Proof.Machine.execSubscribeSend s
  | .subAckTimeout idx => Sys2Proof.Machine.execSubAckTimeout idx s
  | .subFullRetry idx => Sys2Proof.Machine.execSubFullRetry idx s
  | .subStaleResubscribe idx => Sys2Proof.Machine.execSubStaleResubscribe idx s
  | .pubSend dev => Sys2Proof.Machine.execPubSend dev s
  | .clRwWrite p data => Sys2Proof.Machine.execClRwWrite p data s
  | .clRwRelinquish p data => Sys2Proof.Machine.execClRwRelinquish p data s
  | .rwriteTimeout n => Sys2Proof.Machine.execRwriteTimeout n s
  | .clTagQuarantineEnd n => Sys2Proof.Machine.execClTagQuarantineEnd n s
  | .beaconSend lead => Sys2Proof.Machine.execBeaconSend lead s
  | .beaconReissue lead => Sys2Proof.Machine.execBeaconReissue lead s
  | .delayMeasure port lead => Sys2Proof.Machine.execDelayMeasure port lead s
  | .timeSyncLoss => Sys2Proof.Machine.execTimeSyncLoss s
  | .rtcWriteback => Sys2Proof.Machine.execRtcWriteback s
  | .timeSet p data => Sys2Proof.Machine.execTimeSet p data s
  | .clPortFuncRst p n => Sys2Proof.Machine.execClPortFuncRst p n s
  | .helloSend => Sys2Proof.Machine.execHelloSend s
  | .topoSend => Sys2Proof.Machine.execTopoSend s
  | .islandAdvSend => Sys2Proof.Machine.execIslandAdvSend s
  | .campusMapSend => Sys2Proof.Machine.execCampusMapSend s
  | .straitPendingTimeout p => Sys2Proof.Machine.execStraitPendingTimeout p s
  | .straitHelloTimeout p => Sys2Proof.Machine.execStraitHelloTimeout p s
  | .miswireTimeout p => Sys2Proof.Machine.execMiswireTimeout p s
  | .establishedSet => Sys2Proof.Machine.execEstablishedSet s
  | .topoExpiry member => Sys2Proof.Machine.execTopoExpiry member s
  | .islandMasterTake => Sys2Proof.Machine.execIslandMasterTake s
  | .campusMasterTake => Sys2Proof.Machine.execCampusMasterTake s
  | .islandAdvTimeout dev => Sys2Proof.Machine.execIslandAdvTimeout dev s
  | .campusMapTimeout => Sys2Proof.Machine.execCampusMapTimeout s
  | .deviceRelease => Sys2Proof.Machine.execDeviceRelease s
  | .subOutHoldExpiry dev => Sys2Proof.Machine.execSubOutHoldExpiry dev s
  | .logFlushTimeout trend => Sys2Proof.Machine.execLogFlushTimeout trend s
  | .logBlockWriteIssue => Sys2Proof.Machine.execLogBlockWriteIssue s
  | .logBlockCommit => Sys2Proof.Machine.execLogBlockCommit s
  | .logCardCommandFail => Sys2Proof.Machine.execLogCardCommandFail s
  | .logFormat p data => Sys2Proof.Machine.execLogFormat p data s
  | .logFormatComplete => Sys2Proof.Machine.execLogFormatComplete s
  | .logBlockRead p => Sys2Proof.Machine.execLogBlockRead p s
  | .logBlockWrite p => Sys2Proof.Machine.execLogBlockWrite p s
  | .logRdComplete ok => Sys2Proof.Machine.execLogRdComplete ok s
  | .mirrorSend => Sys2Proof.Machine.execMirrorSend s
  | .mirrorProbe => Sys2Proof.Machine.execMirrorProbe s
  | .mirrorResendTimeout => Sys2Proof.Machine.execMirrorResendTimeout s
  | .mirrorProbeRepeat => Sys2Proof.Machine.execMirrorProbeRepeat s
  | .logFuncRst p cap card => Sys2Proof.Machine.execLogFuncRst p cap card s
  | .tenantRetire p t data => Sys2Proof.Machine.execTenantRetire p t data s
  | .tenantEnable p t data => Sys2Proof.Machine.execTenantEnable p t data s
  | .eventQueuePop p t data => Sys2Proof.Machine.execEventQueuePop p t data s
  | .errorQueuePop p t data => Sys2Proof.Machine.execErrorQueuePop p t data s
  | .commandPush p data => Sys2Proof.Machine.execCommandPush p data s
  | .cmdPwrite => Sys2Proof.Machine.execCmdPwrite s
  | .cmdPrel => Sys2Proof.Machine.execCmdPrel s
  | .cmdLword => Sys2Proof.Machine.execCmdLword s
  | .cmdLswap => Sys2Proof.Machine.execCmdLswap s
  | .cmdRemote => Sys2Proof.Machine.execCmdRemote s
  | .cmdRing => Sys2Proof.Machine.execCmdRing s
  | .doorbellRing p data => Sys2Proof.Machine.execDoorbellRing p data s
  | .tenantResetRequest p t => Sys2Proof.Machine.execTenantResetRequest p t s
  | .tenantResetStart t => Sys2Proof.Machine.execTenantResetStart t s
  | .tenantHoldEnd t => Sys2Proof.Machine.execTenantHoldEnd t s
  | .quotaWindow => Sys2Proof.Machine.execQuotaWindow s
  | .icLineChange n cycles => Sys2Proof.Machine.execIcLineChange n cycles s
  | .icEventPulse n merged => Sys2Proof.Machine.execIcEventPulse n merged s
  | .icPendSet p k data => Sys2Proof.Machine.execIcPendSet p k data s
  | .icPendClr p k data => Sys2Proof.Machine.execIcPendClr p k data s
  | .icEnSet p k data => Sys2Proof.Machine.execIcEnSet p k data s
  | .icEnClr p k data => Sys2Proof.Machine.execIcEnClr p k data s
  | .icOfferLatch t => Sys2Proof.Machine.execIcOfferLatch t s
  | .icClaim p t => Sys2Proof.Machine.execIcClaim p t s
  | .icComplete p t data => Sys2Proof.Machine.execIcComplete p t data s
  | .dispatcherClaim k => Sys2Proof.Machine.execDispatcherClaim k s
  | .hostBusRead ha => Sys2Proof.Machine.execHostBusRead ha s
  | .hostBusWrite ha d hbe => Sys2Proof.Machine.execHostBusWrite ha d hbe s
  | .hostSpiFrame mosi => Sys2Proof.Machine.execHostSpiFrame mosi s
  | .postedWriteApply => Sys2Proof.Machine.execPostedWriteApply s
  | .shadowUnitCopy a => Sys2Proof.Machine.execShadowUnitCopy a s
  | .mbxRead n spi => Sys2Proof.Machine.execMbxRead n spi s
  | .mbxWrite n spi => Sys2Proof.Machine.execMbxWrite n spi s
  | .mbxComplete n => Sys2Proof.Machine.execMbxComplete n s
  | .mbxTimeout n applied => Sys2Proof.Machine.execMbxTimeout n applied s
  | .watchdogKick p => Sys2Proof.Machine.execWatchdogKick p s
  | .watchdogExpiry => Sys2Proof.Machine.execWatchdogExpiry s
  | .funcRstComplete => Sys2Proof.Machine.execFuncRstComplete s
  | .funcRstTimeout => Sys2Proof.Machine.execFuncRstTimeout s
  | .warmResetRequest p data => Sys2Proof.Machine.execWarmResetRequest p data s
  | .powerCycle p data => Sys2Proof.Machine.execPowerCycle p data s
  | .warmBootTimeout => Sys2Proof.Machine.execWarmBootTimeout s
  | .bootStart live => Sys2Proof.Machine.execBootStart live s
  | .bootOtpLoaded otp => Sys2Proof.Machine.execBootOtpLoaded otp s
  | .bootFlashProbed valid quad444 quad114 erase64k mib content => Sys2Proof.Machine.execBootFlashProbed valid quad444 quad114 erase64k mib content s
  | .bootImageReadComplete ok => Sys2Proof.Machine.execBootImageReadComplete ok s
  | .bootSignatureVerified => Sys2Proof.Machine.execBootSignatureVerified s
  | .bootSectionsApplied => Sys2Proof.Machine.execBootSectionsApplied s
  | .bootEnd => Sys2Proof.Machine.execBootEnd s
  | .flashReadPage p => Sys2Proof.Machine.execFlashReadPage p s
  | .flashProgram p => Sys2Proof.Machine.execFlashProgram p s
  | .flashErase p => Sys2Proof.Machine.execFlashErase p s
  | .flashCmdComplete ok => Sys2Proof.Machine.execFlashCmdComplete ok s
  | .slotActivate p slot tries => Sys2Proof.Machine.execSlotActivate p slot tries s
  | .slotConfirm p => Sys2Proof.Machine.execSlotConfirm p s
  | .slotActivateComplete read => Sys2Proof.Machine.execSlotActivateComplete read s
  | .userCalCommit p e data => Sys2Proof.Machine.execUserCalCommit p e data s
  | .leDisciplineTrim ppm => Sys2Proof.Machine.execLeDisciplineTrim ppm s
  | .disciplineResume ppm => Sys2Proof.Machine.execDisciplineResume ppm s
  | .refLoss => Sys2Proof.Machine.execRefLoss s
  | .pdOscMismatch => Sys2Proof.Machine.execPdOscMismatch s
  | .rtcStop => Sys2Proof.Machine.execRtcStop s
  | .rtcResume => Sys2Proof.Machine.execRtcResume s
  | .warmResetStart => Sys2Proof.Machine.execWarmResetStart s
  | .warmResetNotice => Sys2Proof.Machine.execWarmResetNotice s
  | .d2dFrame f => Sys2Proof.Machine.execD2dFrame f s
  | .d2dResendTimeout arrives => Sys2Proof.Machine.execD2dResendTimeout arrives s
  | .d2dLinkLostPd => Sys2Proof.Machine.execD2dLinkLostPd s
  | .d2dLinkLost => Sys2Proof.Machine.execD2dLinkLost s
  | .d2dTrainingStart => Sys2Proof.Machine.execD2dTrainingStart s
  | .d2dTrainingFail => Sys2Proof.Machine.execD2dTrainingFail s
  | .d2dLinkCheckPass => Sys2Proof.Machine.execD2dLinkCheckPass s
  | .d2dNoRecovery => Sys2Proof.Machine.execD2dNoRecovery s
  | .supplyWarning idx mV => Sys2Proof.Machine.execSupplyWarning idx mV s
  | .supplyReset supply => Sys2Proof.Machine.execSupplyReset supply s
  | .powerOnResetRelease logic tcrit => Sys2Proof.Machine.execPowerOnResetRelease logic tcrit s
  | .aonPowerUp => Sys2Proof.Machine.execAonPowerUp s
  | .batteryRemoval => Sys2Proof.Machine.execBatteryRemoval s
  | .chargerCvReached => Sys2Proof.Machine.execChargerCvReached s
  | .batGoneClear p => Sys2Proof.Machine.execBatGoneClear p s
  | .pnlFrameEnd => Sys2Proof.Machine.execPnlFrameEnd s
  | .pnlUnderrun => Sys2Proof.Machine.execPnlUnderrun s
  | .pnlVcomUpdate => Sys2Proof.Machine.execPnlVcomUpdate s
  | .pnlPowerUpStart => Sys2Proof.Machine.execPnlPowerUpStart s
  | .pnlPowerDownStart => Sys2Proof.Machine.execPnlPowerDownStart s
  | .pnlPseqStep => Sys2Proof.Machine.execPnlPseqStep s
  | .pnlBlinkCommit p k data => Sys2Proof.Machine.execPnlBlinkCommit p k data s
  | .pnlCrackMeasure ohm => Sys2Proof.Machine.execPnlCrackMeasure ohm s
  | .pnlKeyScan keys => Sys2Proof.Machine.execPnlKeyScan keys s
  | .pnlKeyqPop p data => Sys2Proof.Machine.execPnlKeyqPop p data s
  | .pnlEncoderStep n ab seen => Sys2Proof.Machine.execPnlEncoderStep n ab seen s
  | .pnlAccessTry p data => Sys2Proof.Machine.execPnlAccessTry p data s
  | .pnlLockoutEnd => Sys2Proof.Machine.execPnlLockoutEnd s
  | .pnlAccessIdle => Sys2Proof.Machine.execPnlAccessIdle s
  | .pnlWrite p => Sys2Proof.Machine.execPnlWrite p s
  | .pnlRelinquish p => Sys2Proof.Machine.execPnlRelinquish p s
  | .pnlFuncRst p => Sys2Proof.Machine.execPnlFuncRst p s
  | .pnlFuncRstForce => Sys2Proof.Machine.execPnlFuncRstForce s
  | .contactEdge n first t raw op level => Sys2Proof.Machine.execContactEdge n first t raw op level s
  | .illegal k e => Sys2Proof.Machine.execIllegal k e s
  | .ifetch k => Sys2Proof.Machine.execIfetch k s
  | .storeReady cap card => Sys2Proof.Machine.execStoreReady cap card s
  | .referenceReturn => Sys2Proof.Machine.execReferenceReturn s
  | .pwrcycNRelease => Sys2Proof.Machine.execPwrcycNRelease s

end Sys2Proof.Machine
end

