-- ==== Sys2Proof/Safety.lean ====
section
/-! DEFINITION. What counts as a safe state of the block, in the terms the statements use. -/

namespace Sys2Proof.Machine

/-- The register space is in its one canonical form: addresses strictly rising, and no word listed that reads as it does at
reset. -/
abbrev State.spaceWf (s : State) : Prop := Tab.wf resetWord s.space

/-- The parts of the state that a command may change. The queue is none of them: only a step takes a command off it. -/
inductive Part where
  | space | now | campusOff | bootAt | free | rdata | wres | banks | log | ten | exLast | exAt | ic | broken
  | pub | zoneEv | safe | safeLoaded | safeUnrec | safeIrq | rtcOff | rtcHeld | cmds | cd | cdg | fwd | sk
  | sk0mem | subIn | subOut | cl | isl | adc | fan | fio | zb | pnl | hb | boot | clk | pdErrs | ucal | frame
  | le
  deriving DecidableEq, Repr

/-- t comes from s by a step that leaves the queue, never runs time back, keeps the register space in its canonical form, and
leaves every part of the state for which m does not hold. -/
structure Keeps (m : Part → Prop) (s t : State) : Prop where
  pending : t.pending = s.pending
  clock : s.now ≤ t.now
  wf : s.spaceWf → t.spaceWf
  space : m .space ∨ t.space = s.space
  now : m .now ∨ t.now = s.now
  campusOff : m .campusOff ∨ t.campusOff = s.campusOff
  bootAt : m .bootAt ∨ t.bootAt = s.bootAt
  free : m .free ∨ t.free = s.free
  rdata : m .rdata ∨ t.rdata = s.rdata
  wres : m .wres ∨ t.wres = s.wres
  banks : m .banks ∨ t.banks = s.banks
  log : m .log ∨ t.log = s.log
  ten : m .ten ∨ t.ten = s.ten
  exLast : m .exLast ∨ t.exLast = s.exLast
  exAt : m .exAt ∨ t.exAt = s.exAt
  ic : m .ic ∨ t.ic = s.ic
  broken : m .broken ∨ t.broken = s.broken
  pub : m .pub ∨ t.pub = s.pub
  zoneEv : m .zoneEv ∨ t.zoneEv = s.zoneEv
  safe : m .safe ∨ t.safe = s.safe
  safeLoaded : m .safeLoaded ∨ t.safeLoaded = s.safeLoaded
  safeUnrec : m .safeUnrec ∨ t.safeUnrec = s.safeUnrec
  safeIrq : m .safeIrq ∨ t.safeIrq = s.safeIrq
  rtcOff : m .rtcOff ∨ t.rtcOff = s.rtcOff
  rtcHeld : m .rtcHeld ∨ t.rtcHeld = s.rtcHeld
  cmds : m .cmds ∨ t.cmds = s.cmds
  cd : m .cd ∨ t.cd = s.cd
  cdg : m .cdg ∨ t.cdg = s.cdg
  fwd : m .fwd ∨ t.fwd = s.fwd
  sk : m .sk ∨ t.sk = s.sk
  sk0mem : m .sk0mem ∨ t.sk0mem = s.sk0mem
  subIn : m .subIn ∨ t.subIn = s.subIn
  subOut : m .subOut ∨ t.subOut = s.subOut
  cl : m .cl ∨ t.cl = s.cl
  isl : m .isl ∨ t.isl = s.isl
  adc : m .adc ∨ t.adc = s.adc
  fan : m .fan ∨ t.fan = s.fan
  fio : m .fio ∨ t.fio = s.fio
  zb : m .zb ∨ t.zb = s.zb
  pnl : m .pnl ∨ t.pnl = s.pnl
  hb : m .hb ∨ t.hb = s.hb
  boot : m .boot ∨ t.boot = s.boot
  clk : m .clk ∨ t.clk = s.clk
  pdErrs : m .pdErrs ∨ t.pdErrs = s.pdErrs
  ucal : m .ucal ∨ t.ucal = s.ucal
  frame : m .frame ∨ t.frame = s.frame
  le : m .le ∨ t.le = s.le

/-- The parts of the state each command may change. -/
def mayChange : Instr → List Part
  | .registerWrite .. | .mbxComplete .. | .d2dFrame .. =>
    [.space, .campusOff, .free, .rdata, .wres, .banks, .log, .ten, .ic, .broken, .safe, .cmds, .cd, .cdg, .fwd, .sk,
    .sk0mem, .subIn, .subOut, .cl, .isl, .adc, .fan, .fio, .zb, .pnl, .hb, .boot, .clk, .ucal, .le]
  | .unmappedAccess .. =>
    [.space, .rdata, .wres, .banks]
  | .powerAccessDropped .. | .zoneCfgWrite .. | .cdHoldLrnWrite .. | .logFormat .. | .logBlockRead ..
  | .logBlockWrite .. | .tenantRetire .. | .tenantEnable .. | .eventQueuePop .. | .errorQueuePop .. =>
    [.space, .rdata, .wres, .banks, .log, .ten]
  | .safeRelAll .. | .safeRelCoil .. | .safeRelFan .. | .safeRelAo .. | .safeRelDo .. | .safeRelZbpwr ..
  | .batGoneClear .. =>
    [.space, .rdata, .wres, .banks, .log, .ten, .safe, .cmds, .cd]
  | .pointValueWrite .. | .pointRelinquish .. =>
    [.space, .free, .rdata, .wres, .banks, .log, .ten, .broken, .safe, .cmds, .cd, .fwd, .sk]
  | .pointSourceWrite .. =>
    [.space, .free, .wres, .log, .ten, .broken, .safe, .cmds, .cd, .fwd, .sk]
  | .pointBindWrite .. =>
    [.space, .rdata, .wres, .banks, .log, .ten, .broken, .fwd, .subIn, .cl]
  | .pointConfigWrite .. =>
    [.space, .rdata, .wres, .banks, .log, .ten, .broken]
  | .pointValueRead .. =>
    [.space, .free, .rdata, .wres, .banks, .ten, .broken, .fwd]
  | .pointAgeTick .. =>
    [.space, .free, .log, .ten, .broken, .pub, .zoneEv, .fwd, .subOut]
  | .profileWrite .. =>
    [.space, .rdata, .wres, .banks, .log, .ten, .subOut, .cl]
  | .statusItemsTick .. =>
    [.space, .free, .wres, .log, .ten, .broken, .safe, .cmds, .cd, .fwd, .sk, .adc, .fio]
  | .leFrameBoundary =>
    [.space, .now, .campusOff, .free, .log, .ten, .ic, .cl, .frame, .le]
  | .loopEvaluation .. =>
    [.space, .now, .campusOff, .free, .ten, .ic, .broken, .fwd, .cl, .le]
  | .lockstepRepeat .. =>
    [.space, .now, .campusOff, .free, .log, .ten, .ic, .cl, .le]
  | .leFaultNotice | .leFaultTimerCancel =>
    [.le]
  | .leFaultTimerExpiry =>
    [.space, .now, .campusOff, .free, .log, .ten, .ic, .safe, .safeUnrec, .safeIrq, .cd, .cl, .zb, .clk, .le]
  | .leFuncRst .. | .skFuncRst .. | .cdPairFuncRst .. | .adcFuncRst .. | .fanGroupFuncRst .. | .zbFuncRst ..
  | .clPortFuncRst .. | .watchdogKick .. | .warmResetRequest .. | .powerCycle .. | .pnlFuncRst .. =>
    [.space, .free, .rdata, .wres, .banks, .log, .ten, .ic, .broken, .safe, .cmds, .cd, .fwd, .sk, .subIn, .subOut,
    .cl, .isl, .adc, .fan, .zb, .pnl, .hb, .clk, .le]
  | .outputQueueDrain | .lxForceApply .. | .lxRelinquishApply .. =>
    [.space, .free, .wres, .log, .ten, .broken, .safe, .cmds, .cd, .fwd, .sk, .le]
  | .oqTrendTimeout =>
    [.space, .free, .wres, .log, .ten, .ic, .broken, .safe, .cmds, .cd, .fwd, .sk, .le]
  | .loopRecordWrite .. | .leSwap .. | .leSwgRequest .. | .leSwgCancel .. =>
    [.space, .rdata, .wres, .banks, .le]
  | .loopRecordApply .. | .swapRequestApply .. | .groupRequestApply .. | .loopReinitApply .. =>
    [.space, .wres, .log, .ten, .sk, .le]
  | .leStateSelWrite .. | .leStateReinit .. =>
    [.space, .rdata, .wres, .banks, .log, .ten, .le]
  | .leStateCopy | .quotaWindow =>
    [.space, .le]
  | .add .. | .sub .. | .and .. | .ior .. | .eor .. | .andn .. | .shl .. | .shr .. | .asr .. | .ror .. | .cmp ..
  | .cmpu .. | .min .. | .max .. | .minu .. | .maxu .. | .mul .. | .mulhs .. | .mulhu .. | .quo .. | .quou ..
  | .mod .. | .modu .. | .adds .. | .subs .. | .addi .. | .andi .. | .iori .. | .eori .. | .cmpi .. | .cmpui ..
  | .shli .. | .shri .. | .asri .. | .lhi .. | .rori .. | .beq .. | .bne .. | .blz .. | .bgez .. | .bgz .. | .blez ..
  | .jmp .. | .call .. | .jind .. | .lxrr .. | .lxrs .. | .lxsync .. | .done .. | .brk .. | .sig .. | .rdt ..
  | .eret .. | .cflg .. | .fadd .. | .fsub .. | .fmul .. | .fdiv .. | .fmin .. | .fmax .. | .fabs .. | .fneg ..
  | .fsqrt .. | .fcmp .. | .ftoi .. | .itof .. | .utof .. | .fkind .. | .frnd .. | .fscl .. | .taskBudgetExpiry ..
  | .lxAck .. | .dispatcherClaim .. | .illegal .. | .ifetch .. =>
    [.space, .free, .ten, .ic, .sk]
  | .ldw .. | .ldh .. | .ldhu .. | .ldb .. | .ldbu .. =>
    [.space, .free, .rdata, .wres, .banks, .log, .ten, .ic, .broken, .safe, .cmds, .cd, .fwd, .sk, .le]
  | .stw .. | .sth .. | .stb .. | .postedWriteApply =>
    [.space, .campusOff, .free, .wres, .banks, .log, .ten, .ic, .broken, .safe, .cmds, .cd, .cdg, .fwd, .sk, .sk0mem,
    .subIn, .subOut, .cl, .isl, .adc, .fan, .fio, .zb, .pnl, .hb, .boot, .clk, .ucal, .le]
  | .pld .. =>
    [.space, .free, .ten, .ic, .broken, .fwd, .sk]
  | .pwr .. | .prel .. | .psrc .. =>
    [.space, .free, .wres, .log, .ten, .ic, .broken, .safe, .cmds, .cd, .fwd, .sk]
  | .pwrr .. =>
    [.space, .free, .log, .ten, .ic, .sk, .cl]
  | .lxwr .. | .lxsw .. | .lxgs .. | .lxri .. | .lxfo .. | .lxfr .. =>
    [.space, .free, .ten, .ic, .sk, .le]
  | .sk0InterruptTake | .taskActivatePeriodic | .taskDispatch .. =>
    [.space, .sk]
  | .lxReadResponse .. =>
    [.space, .sk, .le]
  | .skMemoryWrite .. =>
    [.space, .rdata, .wres, .banks, .log, .ten, .sk, .sk0mem]
  | .cdCycleBoundary .. | .cdPullinEnd .. | .cdHoldExpiry .. | .cdPulseExpiry .. | .cdClampEnd ..
  | .cdProbeDwellEnd .. =>
    [.space, .now, .campusOff, .log, .ten, .cd, .cdg, .cl]
  | .cdCommand .. =>
    [.cmds, .cd, .fwd, .clk]
  | .cdZeroCheck .. | .cdFdTimeout .. | .cdStrokeStepEnd .. | .cdRwWindow .. | .cdBudgetStageRise | .cdUnshed =>
    [.space, .now, .campusOff, .ten, .cd, .cdg, .cl]
  | .cdOvercurrent .. | .cdOpenDetect .. | .cdImbalance .. | .cdLwinMinute | .cdThermalUpdate .. | .cdEnergyCheck .. =>
    [.space, .ten, .cd, .cdg]
  | .cdSupplyExcursion .. | .cdFuncRstComplete .. =>
    [.space, .ten, .cd]
  | .cdSupplyRecover .. =>
    [.space, .cd]
  | .cdFaultClear .. =>
    [.space, .rdata, .wres, .banks, .log, .ten, .cd]
  | .cdCfgWrite .. =>
    [.space, .rdata, .wres, .banks, .log, .ten, .safe, .cd]
  | .cdKinkObservationEnd .. | .cdDipObservationEnd .. | .cdReleaseBump .. =>
    [.cd]
  | .cdLwinWrite .. | .cdLearnStroke .. | .cdLearnProbe .. | .cdLearnCancel .. =>
    [.space, .rdata, .wres, .banks, .log, .ten, .cd, .cdg]
  | .cdBudgetUpdate .. =>
    [.space, .cd, .cdg]
  | .cdBudgetStageFall =>
    [.space, .cdg]
  | .cdBudgetOver =>
    [.space, .ten, .cdg]
  | .adcTrigger .. | .adcCheckStart .. =>
    [.space, .adc]
  | .adcStartNormal .. | .adcStartUrgent .. | .adcCtrlWrite .. =>
    [.space, .rdata, .wres, .banks, .log, .ten, .adc]
  | .adcStartupEnd .. | .adcInjectionSample .. | .adcTimerExpiry .. =>
    [.space, .now, .campusOff, .cl, .adc]
  | .adcConversionEnd .. | .adcCheckComplete .. =>
    [.space, .now, .campusOff, .ten, .cl, .adc, .pdErrs]
  | .adcPassMerge .. =>
    [.adc]
  | .pdTickArrival =>
    [.space, .free, .wres, .log, .ten, .broken, .safe, .cmds, .cd, .fwd, .sk, .adc, .pdErrs]
  | .accPublication =>
    [.space, .free, .wres, .log, .ten, .broken, .safe, .cmds, .cd, .fwd, .sk, .adc]
  | .adcLocalMean =>
    [.now, .campusOff, .cl, .adc]
  | .fanEval | .fanKickTimeout .. | .fanTachFault .. | .fanSupervisionLost .. =>
    [.space, .now, .campusOff, .log, .ten, .cl, .fan, .pdErrs]
  | .fanCommand .. | .doCommand .. | .aoCommand .. =>
    [.cmds, .fwd, .clk]
  | .fanQualChange .. =>
    [.fwd, .fan, .clk]
  | .fanTachEdge .. | .fanTachTimeout .. | .fanWatchEnd .. | .guardSample .. =>
    [.space, .now, .campusOff, .cl, .fan]
  | .fanGroupTrigger .. =>
    [.space, .now, .campusOff, .cl, .adc, .fan]
  | .fanGroupTest .. | .fanFaultClear .. =>
    [.space, .rdata, .wres, .banks, .log, .ten, .fan]
  | .fanTestEnd .. =>
    [.space, .now, .campusOff, .log, .ten, .cl, .fan]
  | .guardTrip =>
    [.space, .free, .log, .ten, .ic, .safe, .safeUnrec, .safeIrq, .cd, .fan, .zb, .clk, .pdErrs]
  | .guardRelease | .timeSyncLoss | .establishedSet | .deviceRelease =>
    [.space, .now, .campusOff, .cl]
  | .guardSenseDiff | .guardTgOpen =>
    [.space, .now, .campusOff, .free, .ten, .ic, .cl, .fan, .pdErrs]
  | .diStateChange .. =>
    [.space, .now, .campusOff, .free, .wres, .log, .ten, .broken, .safe, .cmds, .cd, .fwd, .sk, .cl, .fio]
  | .diCfgWrite .. | .diCntset .. | .doFaultClear .. | .aoFaultClear .. =>
    [.space, .rdata, .wres, .banks, .log, .ten, .cd, .fio]
  | .doEval | .doMinTimeExpiry .. | .doOpenloadDetect .. | .doOpenloadClear .. | .aoUpdate | .vfieldLow ..
  | .vfieldRecover .. =>
    [.space, .now, .campusOff, .cl, .fio]
  | .doOvercurrent .. | .aoOverload .. =>
    [.space, .now, .campusOff, .ten, .cl, .fio, .pdErrs]
  | .doThermalTrip .. =>
    [.space, .ten, .fio, .pdErrs]
  | .zbDataFrame .. | .zbAnnounce .. | .zbHeartbeat .. | .zbNodeWrite .. | .zbReply .. | .zbTxEnd .. =>
    [.space, .free, .wres, .log, .ten, .broken, .safe, .cmds, .cd, .fwd, .sk, .zb]
  | .zbRemoteFrame .. =>
    [.space, .free, .ten, .zb]
  | .zbTxreq .. | .zbTxabort .. | .zbRecover .. | .zbModeWrite .. | .zbPwrCycle .. | .zbPwrFaultClear ..
  | .zbPwrEnWrite .. =>
    [.space, .rdata, .wres, .banks, .log, .ten, .zb]
  | .zbFrameChoice .. =>
    [.zb]
  | .zbBusError .. =>
    [.space, .ten, .zb]
  | .zbRecoveryComplete .. =>
    [.space, .zb]
  | .zbIntegrated .. =>
    [.space]
  | .zbTagOpenTimeout .. =>
    [.now, .campusOff, .cl, .zb]
  | .zbTagQuarantineEnd .. | .zbSupplyStart | .zbSupplyRetry .. | .zbPwrCycleEnd .. =>
    [.space, .now, .campusOff, .cl, .zb]
  | .zbNodeTimeout .. | .dadComplete .. =>
    [.space, .now, .campusOff, .ten, .cl]
  | .zbSupplyTrip .. | .zbSupplyPgFail .. =>
    [.space, .now, .campusOff, .ten, .cl, .zb, .pdErrs]
  | .zbSupplyHard .. =>
    [.space, .ten, .zb, .pdErrs]
  | .clFrameRx .. | .pub .. | .subscribe .. | .subAck .. | .unsubscribe .. | .rwrite .. | .rwriteResult ..
  | .mirror .. | .mirrorAck .. | .beacon .. | .delayReq .. | .delayResp .. | .hello .. | .topo .. | .islandAdv ..
  | .campusMap .. =>
    [.space, .campusOff, .free, .wres, .log, .ten, .broken, .pub, .safe, .cmds, .cd, .fwd, .sk, .subIn, .subOut, .cl,
    .isl]
  | .icmpEchoRequest .. | .neighborSolicitation .. | .neighborAdvertisement .. | .beaconSend .. | .beaconReissue ..
  | .delayMeasure .. | .helloSend | .topoSend =>
    [.cl]
  | .clLinkUp .. =>
    [.space, .cl]
  | .clLinkDown .. =>
    [.space, .log, .ten, .subIn, .subOut, .cl, .isl]
  | .rwriteDecide =>
    [.space, .free, .wres, .log, .ten, .broken, .safe, .cmds, .cd, .fwd, .sk, .cl]
  | .campusMapRelay =>
    [.cl, .isl]
  | .clMessageTransmit .. =>
    [.space, .free, .log, .ten, .subOut, .cl]
  | .subscribeSend =>
    [.space, .subIn, .cl]
  | .subAckTimeout .. | .subStaleResubscribe .. =>
    [.space, .now, .campusOff, .subIn, .cl]
  | .subFullRetry .. =>
    [.now, .campusOff, .subIn, .cl]
  | .pubSend .. =>
    [.subOut, .cl]
  | .clRwWrite .. | .clRwRelinquish .. =>
    [.space, .rdata, .wres, .banks, .log, .ten, .cl]
  | .rwriteTimeout .. =>
    [.space, .now, .campusOff, .log, .ten, .cl]
  | .clTagQuarantineEnd .. =>
    [.now, .campusOff, .cl]
  | .rtcWriteback =>
    [.space, .now, .campusOff, .rtcOff, .cl, .clk]
  | .timeSet .. =>
    [.space, .campusOff, .rdata, .wres, .banks, .log, .ten, .cl]
  | .islandAdvSend | .campusMapSend =>
    [.space, .free, .ten, .subIn, .cl, .isl]
  | .straitPendingTimeout .. | .straitHelloTimeout .. | .miswireTimeout .. =>
    [.space, .now, .campusOff, .log, .ten, .subIn, .subOut, .cl, .isl]
  | .topoExpiry .. | .islandMasterTake =>
    [.space, .now, .campusOff, .log, .ten, .subIn, .cl, .isl]
  | .campusMasterTake =>
    [.space, .now, .campusOff, .free, .log, .ten, .subIn, .cl, .isl]
  | .islandAdvTimeout .. =>
    [.space, .now, .campusOff, .free, .ten, .subIn, .cl, .isl]
  | .campusMapTimeout =>
    [.space, .now, .campusOff, .subIn, .cl, .isl]
  | .subOutHoldExpiry .. =>
    [.space, .now, .campusOff, .subOut, .cl, .isl]
  | .logFlushTimeout .. | .mirrorProbeRepeat =>
    [.now, .campusOff, .log, .cl]
  | .logBlockWriteIssue =>
    [.log]
  | .logBlockCommit =>
    [.space, .log, .ten, .cl, .hb]
  | .logCardCommandFail | .logRdComplete .. =>
    [.space, .log, .ten]
  | .logFormatComplete =>
    [.space, .log, .cl]
  | .mirrorSend | .storeReady .. =>
    [.space, .log, .ten, .cl]
  | .mirrorProbe =>
    [.log, .cl]
  | .mirrorResendTimeout =>
    [.space, .now, .campusOff, .log, .cl]
  | .logFuncRst .. =>
    [.space, .free, .rdata, .wres, .banks, .log, .ten, .ic, .broken, .safe, .cmds, .cd, .fwd, .sk, .subIn, .subOut,
    .cl, .isl, .adc, .fan, .zb, .pnl, .hb, .le]
  | .commandPush .. =>
    [.space, .rdata, .wres, .banks, .ten]
  | .cmdPwrite | .cmdPrel | .cmdLword | .cmdLswap | .cmdRemote | .cmdRing =>
    [.space, .now, .campusOff, .free, .wres, .log, .ten, .exLast, .exAt, .ic, .broken, .safe, .cmds, .cd, .fwd, .sk,
    .cl, .le]
  | .doorbellRing .. | .icPendSet .. | .icPendClr .. | .icComplete .. =>
    [.space, .free, .rdata, .wres, .banks, .log, .ten, .ic]
  | .tenantResetRequest .. =>
    [.space, .free, .rdata, .wres, .banks, .log, .ten, .ic, .sk, .cl, .zb]
  | .tenantResetStart .. =>
    [.space, .now, .campusOff, .free, .ten, .ic, .sk, .cl, .zb]
  | .tenantHoldEnd .. =>
    [.space, .now, .campusOff, .free, .wres, .log, .ten, .broken, .safe, .cmds, .cd, .fwd, .sk, .cl, .le]
  | .icLineChange .. | .icEventPulse .. =>
    [.space, .free, .ten, .ic]
  | .icEnSet .. | .icEnClr .. =>
    [.space, .rdata, .wres, .banks, .log, .ten, .ic]
  | .icOfferLatch .. =>
    [.ic]
  | .icClaim .. =>
    [.space, .free, .rdata, .wres, .banks, .ten, .ic]
  | .hostBusRead .. =>
    [.space, .free, .rdata, .ten, .broken, .fwd, .hb]
  | .hostBusWrite .. =>
    [.space, .free, .ten, .ic, .hb]
  | .hostSpiFrame .. =>
    [.space, .free, .ten, .ic, .broken, .fwd, .hb]
  | .shadowUnitCopy .. =>
    [.space, .free, .ten, .broken, .fwd, .hb]
  | .mbxRead .. | .mbxWrite .. =>
    [.space, .hb]
  | .mbxTimeout .. =>
    [.space, .now, .campusOff, .free, .rdata, .wres, .banks, .log, .ten, .ic, .broken, .safe, .cmds, .cd, .cdg, .fwd,
    .sk, .sk0mem, .subIn, .subOut, .cl, .isl, .adc, .fan, .fio, .zb, .pnl, .hb, .boot, .clk, .ucal, .le]
  | .watchdogExpiry =>
    [.space, .now, .campusOff, .free, .log, .ten, .ic, .cl, .hb]
  | .funcRstComplete =>
    [.space, .fwd, .hb, .le]
  | .funcRstTimeout =>
    [.space, .now, .campusOff, .free, .ten, .cl, .hb]
  | .warmBootTimeout =>
    [.space, .now, .campusOff, .cl, .hb, .clk]
  | .bootStart .. =>
    [.space, .campusOff, .bootAt, .boot, .clk]
  | .bootOtpLoaded .. | .bootFlashProbed .. | .bootImageReadComplete .. | .bootSignatureVerified =>
    [.space, .boot]
  | .bootSectionsApplied =>
    [.space, .campusOff, .free, .wres, .banks, .log, .ten, .ic, .broken, .safe, .safeLoaded, .cmds, .cd, .cdg, .fwd,
    .sk, .sk0mem, .subIn, .subOut, .cl, .isl, .adc, .fan, .fio, .zb, .pnl, .hb, .boot, .clk, .ucal, .le]
  | .bootEnd =>
    [.space, .free, .log, .ten, .ic, .safeUnrec, .safeIrq, .cdg, .sk, .subIn, .subOut, .cl, .isl, .fan, .hb, .boot,
    .clk, .pdErrs]
  | .flashReadPage .. | .flashProgram .. | .flashErase .. | .slotActivate .. | .slotConfirm .. | .userCalCommit .. =>
    [.space, .rdata, .wres, .banks, .log, .ten, .boot, .ucal]
  | .flashCmdComplete .. =>
    [.space, .free, .boot]
  | .slotActivateComplete .. =>
    [.space, .wres, .log, .ten, .boot]
  | .leDisciplineTrim .. | .refLoss =>
    [.space, .free, .ten, .ic, .clk]
  | .disciplineResume .. | .d2dTrainingStart | .d2dNoRecovery =>
    [.space, .now, .campusOff, .cl, .clk]
  | .pdOscMismatch =>
    [.space, .ten, .safe, .safeLoaded, .cmds, .cd, .cdg, .adc, .fan, .fio, .zb, .clk, .pdErrs, .le]
  | .rtcStop =>
    [.space, .rtcHeld]
  | .rtcResume =>
    [.space, .rtcOff, .rtcHeld]
  | .warmResetStart =>
    [.space, .now, .campusOff, .rdata, .wres, .banks, .log, .ten, .exLast, .exAt, .ic, .broken, .pub, .zoneEv, .cd,
    .fwd, .sk, .sk0mem, .subIn, .subOut, .cl, .isl, .fan, .zb, .pnl, .hb, .boot, .clk, .ucal, .frame, .le]
  | .warmResetNotice | .d2dLinkLostPd =>
    [.space, .free, .log, .ten, .ic, .safe, .safeUnrec, .safeIrq, .cd, .cdg, .zb, .clk]
  | .d2dResendTimeout .. =>
    [.space, .now, .campusOff, .free, .wres, .banks, .log, .ten, .ic, .broken, .safe, .cmds, .cd, .cdg, .fwd, .sk,
    .sk0mem, .subIn, .subOut, .cl, .isl, .adc, .fan, .fio, .zb, .pnl, .hb, .boot, .clk, .ucal, .le]
  | .d2dLinkLost =>
    [.space, .free, .rdata, .wres, .log, .ten, .ic, .fwd, .hb, .clk]
  | .d2dTrainingFail =>
    [.clk]
  | .d2dLinkCheckPass =>
    [.space, .free, .log, .ten, .ic, .safeUnrec, .safeIrq, .cdg, .fwd, .adc, .fan, .hb, .clk, .pdErrs]
  | .supplyWarning .. =>
    [.space, .free, .log, .ten, .ic, .clk]
  | .supplyReset .. =>
    [.space, .rdata, .wres, .banks, .log, .ten, .exLast, .exAt, .ic, .broken, .pub, .zoneEv, .safe, .safeLoaded,
    .cmds, .cd, .cdg, .fwd, .sk, .sk0mem, .subIn, .subOut, .cl, .isl, .adc, .fan, .fio, .zb, .pnl, .hb, .boot, .clk,
    .pdErrs, .ucal, .frame, .le]
  | .powerOnResetRelease .. | .referenceReturn =>
    [.space, .clk]
  | .aonPowerUp =>
    [.space, .safeUnrec, .rtcOff, .rtcHeld]
  | .batteryRemoval =>
    [.space, .free, .ten, .ic, .safeUnrec, .rtcOff, .rtcHeld, .clk, .pdErrs]
  | .chargerCvReached =>
    [.space, .free]
  | .pnlFrameEnd | .pnlVcomUpdate | .pnlPseqStep | .pnlKeyScan .. | .pnlLockoutEnd | .pnlFuncRstForce =>
    [.space, .now, .campusOff, .cl, .pnl]
  | .pnlUnderrun =>
    [.space, .ten, .pnl]
  | .pnlPowerUpStart | .pnlPowerDownStart | .pnlEncoderStep .. =>
    [.space, .pnl]
  | .pnlBlinkCommit .. | .pnlKeyqPop .. | .pnlAccessTry .. | .pnlWrite .. | .pnlRelinquish .. =>
    [.space, .free, .rdata, .wres, .banks, .log, .ten, .broken, .safe, .cmds, .cd, .fwd, .sk, .pnl]
  | .pnlCrackMeasure .. | .pnlAccessIdle =>
    [.space, .now, .campusOff, .log, .ten, .cl, .pnl]
  | .contactEdge .. =>
    [.space, .cd, .fio]
  | .pwrcycNRelease =>
    [.now, .campusOff, .cl, .hb]

/-- An output is in its off state, awaiting release (R29). -/
def SafeOut.isOff (o : SafeOut) : Bool := o.inSafe && o.off && o.acting.isNone

/-- Every field output is in its off state, awaiting release (R29). -/
def State.outputsOff (s : State) : Bool := allOutputs.all (fun o => (s.safeOf o.1 o.2).isOff)

/-! ### When a command has its own effect -/

/-- A path can act now: the host side is out of reset and the path's lane is enabled (R654, R666). -/
def State.pathOpen (s : State) (p : Path) : Prop := s.hostHeld p = false ∧ (s.who p).en = true

/-- The BOOT record of this boot is made, and the audit ring has an ordinary place left: every record of a write enters (R567, R571,
R572). -/
def State.ringOpen (s : State) : Prop := s.log.ring.length < ringSize - ringReserve ∧ s.log.nextSeq ≠ 0

/-- The state as a path's access finds it: the path's capture is dropped (R64). -/
def State.opened (s : State) (p : Path) : State := s.dropCap (s.who p).cap

/-- The same with the record of the access in the audit ring (R566, R570). -/
def State.logged (s : State) (p : Path) (t : Tgt) (res : Res) : State :=
  (s.opened p).ringEnter ((s.opened p).recOf (s.who p) t 0 res)

/-- The command is an audited access of the path: its record enters the ring with that result, its effect is g, and nothing
else happens. -/
def State.does (s : State) (p : Path) (c : Instr) (t : Tgt) (res : Res) (g : State → State) : Prop :=
  s.pathOpen p → s.ringOpen → exec c s = .next { g (s.logged p t res) with wres := res }

/-- The command is an access of the path that leaves no record: its effect is g, and nothing else happens. -/
def State.doesPlain (s : State) (p : Path) (c : Instr) (res : Res) (g : State → State) : Prop :=
  s.pathOpen p → exec c s = .next { g (s.opened p) with wres := res }

/-- The command is a write of a configuration register: with every field in its range and the register's own rule content,
the word becomes what the access codes give, g follows, and nothing else happens but the record (R14, R18, R820). -/
def State.configures (s : State) (p : Path) (c : Instr) (a : Nat) (data : Word) (chk : Word → Res)
    (g : Word → State → State) : Prop :=
  ∀ fs, fieldsAt a = some fs → rangesOk fs data = true → chk (mergeWrite fs (s.word a) data) = Res.applied →
    s.does p c (Tgt.reg a (s.word a) data) Res.applied
      (fun t => g (mergeWrite fs (s.word a) data) (t.setWord a (mergeWrite fs (s.word a) data)))

/-- The command is a write of a register that is refused: where R18 audits the write, the record says why, and nothing else
happens (R18, R83). -/
def State.refuses (s : State) (p : Path) (c : Instr) (a : Nat) (data : Word) (res : Res) : Prop :=
  if audited a data then s.does p c (Tgt.reg a (s.word a) data) res id else s.doesPlain p c res id

/-- The same of a write over the D2D link: while it does not reach the power die it is discarded and counted, whoever makes it (R46,
R716, R724). -/
def State.refusesPd (s : State) (p : Path) (c : Instr) (a : Nat) (data : Word) (res : Res) : Prop :=
  (s.pdReach = true → s.refuses p c a data res) ∧
    (s.pdReach = false → s.pathOpen p → exec c s = .next ((s.opened p).dropWrite (s.who p) a data))

/-- The cycles that an instruction of core k takes: its own and, where it uses one of the registers src that the instruction
before it has loaded, one more (R198). -/
def State.skCost (s : State) (k : Fin 4) (cost : Nat) (src : List Rg) : Nat := cost + (s.core k).stall src

/-- Core k can retire an instruction of that many cycles that uses the registers src: it executes and nothing waits, its task's
budget lasts (R221), the PC lies where it may (R213, R217), and the word at it holds no double-bit error (R190). -/
def State.skFree (s : State) (k : Fin 4) (cost : Nat) (src : List Rg) : Prop :=
  s.skRuns k = true ∧ (s.core k).wait = none ∧ (k.val = 0 ∨ (s.core k).cycles + s.skCost k cost src < s.skBudget k) ∧
    s.skPcOk k (s.core k).pc = true ∧ (s.core k).pc / 4 * 4 ∉ (s.core k).bad

/-- The state after the fetch: a corrected single-bit error is counted (R190), and the instruction's cycles are (R198). -/
def State.skFetched (s : State) (k : Fin 4) (cost : Nat) (src : List Rg) (e : Ecc) : State :=
  (if e = .sbe then s.inc F.SK_ECC_SBE 1 k else s).setCore k
    { s.core k with cycles := (s.core k).cycles + s.skCost k cost src, loaded := none }

/-- An instruction of that many cycles that uses the registers src, its word intact or corrected, on a core that can retire it,
has exactly the effect g on the state after the fetch. -/
def State.skDoes (s : State) (k : Fin 4) (cost : Nat) (src : List Rg) (i : Ecc → Instr) (g : State → State) : Prop :=
  s.skFree k cost src → ∀ e, e = .clean ∨ e = .sbe → exec (i e) s = .next (g (s.skFetched k cost src e))

/-- The same for an effect on the core alone: everything else stays as it was. -/
def State.skCoreDoes (s : State) (k : Fin 4) (cost : Nat) (src : List Rg) (i : Ecc → Instr) (f : SkCore → SkCore) : Prop :=
  s.skDoes k cost src i (fun t => t.setCore k (f (t.core k)))

/-- The core after an instruction that writes rd and raises events: they are ORed into CFLAGS, and the PC moves on (R194, R196). -/
def SkCore.wrote (c : SkCore) (rd : Rg) (v : Word) (events : Nat) : SkCore :=
  { c.setReg rd v with cflags := (c.cflags ||| events) % 128, pc := c.pc + 4 }

end Sys2Proof.Machine
end

