-- ==== Sys2Proof/Certificates/Slice0/Obligations.lean ====
section
/-! DEFINITION. The statements about the model. -/

section
open Sys2Proof Sys2Proof.Machine

/-- A step is exec of the front command on the state with the queue's rest. On an empty queue the block idles: the
model's choice, log entry 7. -/
def Obligations.StepTakesTheFrontCommand : Prop :=
  (∀ (c : Instr) (rest : List Instr) (s : State), step { s with pending := c :: rest } = exec c { s with pending := rest }) ∧
  (∀ s : State, s.pending = [] → step s = .next s)

/-- The state after power-on reset (R16, R29, R58, R602, R654): outputs off, nothing waiting, nothing recorded. -/
def Obligations.ResetLeavesOutputsOff : Prop :=
  State.reset.outputsOff = true ∧ State.reset.spaceWf ∧ State.reset.pending = [] ∧ State.reset.ic.pend = 0 ∧
    State.reset.log.ring = [] ∧ State.reset.ten = [] ∧ (∀ n < 32768, State.reset.ptHP n = 16 ∧ State.reset.ptVal n = 0) ∧
    (∀ t < 256, t ≠ 0 → State.reset.tstate t = 0) ∧ State.reset.bit F.HB_HSTAT_READY = false

/-- The canonical form of the register space is kept by every step, whatever command it runs. -/
def Obligations.StepKeepsSpaceCanonical : Prop :=
  ∀ s t : State, s.spaceWf → step s = .next t → t.spaceWf

/-- The frame of every command: the parts of the state it may change are those `mayChange` lists, and no other is
touched. -/
def Obligations.EveryCommandCompletesWithinItsParts : Prop :=
  ∀ (c : Instr) (s : State), ∃ t, exec c s = .next t ∧ Keeps (fun p => p ∈ mayChange c) s t

/-- The queue is first in, first out, one command a step; time (R7) never runs back. -/
def Obligations.StepTakesOneCommand : Prop :=
  ∀ (c : Instr) (rest : List Instr) (s : State), s.pending = c :: rest →
    ∃ t, step s = .next t ∧ t.pending = rest ∧ s.now ≤ t.now

/-- The access codes of R14 and the reserved bits of R15, for any register table. -/
def Obligations.AccessCodesDecideWrittenBits : Prop :=
  ∀ (fs : List Fld) (old data : Word), fs.Pairwise (fun f g => f.lo + f.w ≤ g.lo ∨ g.lo + g.w ≤ f.lo) → (∀ f ∈ fs, f.lo + f.w ≤ 32) →
    (∀ f ∈ fs, f.of (mergeWrite fs old data) =
      match f.acc with
      | .rw => f.of data
      | .w1c => f.of (old &&& ~~~data)
      | .w1s => f.of (old ||| data)
      | _ => f.of old) ∧
    ∀ b, (∀ f ∈ fs, ¬(f.lo ≤ b ∧ b < f.lo + f.w)) → (mergeWrite fs old data).getLsbD b = old.getLsbD b

/-- R17: a counter saturates at all ones. -/
def Obligations.CountersSaturate : Prop :=
  ∀ (s : State) (f : Fld) (n i j : Nat), f.lo + f.w ≤ 32 → (s.inc f n i j).get f i j = min (2 ^ f.w - 1) (s.get f i j + n)

/-- What a record holds and where it enters (R566, R567, R570, R582, R619): one made before the boot's BOOT record waits for it. A
record that throttles its tenant counts the commands of its queue that are now passed over (R620). -/
def Obligations.AuditRecordEnters : Prop :=
  ∀ (s : State) (p : Path) (t : Tgt) (res : Res),
    let u := s.logged p t res
    let w := s.who p
    (s.log.nextSeq = 0 → (∃ r : AuditRec, u.log = { s.log with early := s.log.early ++ [r] } ∧ r.kind = 0 ∧ r.result = res ∧ r.tenant = w.tenant) ∧ u.space = s.space) ∧
    (s.log.nextSeq ≠ 0 → (∃ r : AuditRec, u.log.ring = s.log.ring ++ [r] ∧ r.seq = s.log.nextSeq ∧ r.time = s.campus ∧ r.recDev = s.deviceId ∧
      r.tenant = w.tenant ∧ r.ifc = w.ifc ∧ r.kind = 0 ∧ r.result = res ∧ r.ttype = t.ttype ∧ r.target = t.target ∧
      r.addr = t.addr ∧ r.old = t.old ∧ r.new = t.new) ∧
      u.log.nextSeq = s.log.nextSeq + 1) ∧
    (∀ a, a ≠ R.AON_LOG_SEQ_LO.at → a ≠ R.AON_LOG_SEQ_HI.at → a ≠ R.TEN_QLOG_USED.at w.tenant → a ≠ R.TEN_CTX_STAT.at w.tenant →
      a ≠ R.TEN_CNT.at w.tenant → u.word a = s.word a) ∧
    (w.tenant = 0 → u.word (R.TEN_CTX_STAT.at 0) = s.word (R.TEN_CTX_STAT.at 0) ∧ u.ten = s.ten)

/-- R45, with what SYS_UNMAPPED holds under R52. -/
def Obligations.UnmappedAccessReadsZeroAndIsRecorded : Prop :=
  ∀ (s : State) (p : Path) (a : Fin (2 ^ 24)) (data : Word),
    (0x3C0000 ≤ a.val ∧ a.val < 0x400000) ∨ 0x430000 ≤ a.val → s.pathOpen p →
    let held (t : State) (b : Nat) (wr : Bool) : Prop :=
      (∀ x, x ≠ R.SYS_UNMAPPED.at → t.word x = s.word x) ∧ t.log = s.log ∧
      (s.bit F.SYS_UNMAPPED_VALID = true → t.word R.SYS_UNMAPPED.at = s.word R.SYS_UNMAPPED.at) ∧
      (s.bit F.SYS_UNMAPPED_VALID = false → t.get F.SYS_UNMAPPED_ADDR = b % 2 ^ 24 ∧ t.get F.SYS_UNMAPPED_WRITE = b2n wr ∧ t.bit F.SYS_UNMAPPED_VALID = true)
    (∃ t, exec (.registerWrite p a data) s = .next t ∧ held t (a.val / 4 * 4) true) ∧
    (∀ wr, ∃ t, exec (.unmappedAccess p a wr) s = .next t ∧ t.rdata = 0 ∧ held t a.val wr)

/-- R61: STATUS is not written, and the attempt leaves no record. -/
def Obligations.StatusWriteHasNoEffect : Prop :=
  ∀ (s : State) (p : Path) (a : Fin (2 ^ 24)) (n : Nat) (data : Word), n < 32768 → a.val = R.PT_STATUS.at n → s.pathOpen p →
    ∃ t, exec (.registerWrite p a data) s = .next t ∧ (∀ x, t.word x = s.word x) ∧ t.log = s.log ∧ t.sk = s.sk ∧ t.cd = s.cd ∧ t.ten = s.ten

/-- R80, with the quality rule of R66. `u` is the state after what the ECC of the point's record finds (R68). -/
def Obligations.RelinquishAtRestKeepsHolder : Prop :=
  ∀ (s : State) (p : Path) (data : Word),
    let w := s.who p
    let m := F.SYS_PT_REL_INDEX.of data
    let prio := F.SYS_PT_REL_PRIO.of data + 1
    let u := (s.opened p).ptFind m
    s.pathOpen p → s.ringOpen → u.ptKind m ≠ Kind.unused → u.ptBroken m = false → prio ≤ 15 → u.hasRight w.tenant m prio = true → u.ptHP m = 16 →
    ∃ t, exec (.pointRelinquish p data) s = .next t ∧ t.wres = Res.relinquished ∧ t.ptHP m = 16 ∧ t.get F.PT_STATUS_HOLDER m = u.get F.PT_STATUS_HOLDER m ∧
      t.ptQual m = (if u.ptKind m = Kind.none_ then Qual.good else Qual.notValid) ∧
      t.get F.PT_STATUS_AGE m = (if u.ptKind m = Kind.none_ then 0 else 0xFFFF) ∧ t.ptVal m = u.ptVal m

/-- Words of the Skehil cores (R192 to R196, R202, R203, R207): the words that spec/05_skehil_cores.md writes out spell the
instructions it names; every instruction is the one its word spells, with every operand at every value; a bit of a zero field, a
register field marked w0, an unassigned op or fn gives ILLEGAL. R194 and R196 both give op 0x08; a word that both allow spells
one of the two (the model's free value, log entry 134). -/
def Obligations.SkehilWordsDecode : Prop :=
  (∀ k : Fin 4,
    skDecode k 0xC1143C00 = .lxrr k .clean 4 5 15 ∧
    skDecode k 0xC015B010 = .lxwr k .clean 5 6 12 ∧
    skDecode k 0xC015F410 = .lxwr k .clean 5 7 13 ∧
    skDecode k 0xC0160011 = .lxsw k .clean 5 8 ∧
    skDecode k 0xC2400020 = .lxsync k .clean 9 ∧
    skDecode k 0x04000000 = .addi k .clean 0 0 0) ∧
  (∀ (k : Fin 4) (rd ra rb : Rg) (imm : BitVec 18) (imm22 : BitVec 22) (off : BitVec 26) (imm8 : BitVec 8) (word prio : BitVec 4),
    ∀ i ∈ ([
      .add k .clean rd ra rb, .sub k .clean rd ra rb, .and k .clean rd ra rb, .ior k .clean rd ra rb,
      .eor k .clean rd ra rb, .andn k .clean rd ra rb, .shl k .clean rd ra rb, .shr k .clean rd ra rb,
      .asr k .clean rd ra rb, .ror k .clean rd ra rb, .cmp k .clean rd ra rb, .cmpu k .clean rd ra rb,
      .min k .clean rd ra rb, .max k .clean rd ra rb, .minu k .clean rd ra rb, .maxu k .clean rd ra rb,
      .mul k .clean rd ra rb, .mulhs k .clean rd ra rb, .mulhu k .clean rd ra rb, .quo k .clean rd ra rb,
      .quou k .clean rd ra rb, .mod k .clean rd ra rb, .modu k .clean rd ra rb, .adds k .clean rd ra rb,
      .subs k .clean rd ra rb, .addi k .clean rd ra imm, .andi k .clean rd ra imm, .iori k .clean rd ra imm,
      .eori k .clean rd ra imm, .cmpi k .clean rd ra imm, .cmpui k .clean rd ra imm, .shli k .clean rd ra imm,
      .asri k .clean rd ra imm, .rori k .clean rd ra imm, .jind k .clean rd ra imm, .ldw k .clean rd ra imm .clean,
      .ldh k .clean rd ra imm .clean, .ldhu k .clean rd ra imm .clean, .ldb k .clean rd ra imm .clean,
      .ldbu k .clean rd ra imm .clean, .stw k .clean rd ra imm, .sth k .clean rd ra imm .clean,
      .stb k .clean rd ra imm .clean, .beq k .clean ra rb imm, .bne k .clean ra rb imm, .blz k .clean ra imm,
      .bgez k .clean ra imm, .bgz k .clean ra imm, .blez k .clean ra imm, .lhi k .clean rd imm22, .jmp k .clean off,
      .call k .clean off, .pld k .clean rd ra imm .clean, .pwr k .clean rd ra rb prio .clean,
      .prel k .clean rd ra prio .clean, .psrc k .clean rd ra rb word prio .clean, .pwrr k .clean rd ra rb prio,
      .lxrr k .clean rd ra word, .lxrs k .clean rd ra word, .lxwr k .clean ra rb word, .lxsw k .clean ra rb,
      .lxgs k .clean rb, .lxri k .clean ra, .lxfo k .clean ra rb prio, .lxfr k .clean ra prio, .lxsync k .clean rd,
      .done k .clean 0, .brk k .clean, .sig k .clean imm8, .rdt k .clean rd imm8 0, .eret k .clean,
      .cflg k .clean rd] : List Instr),
      (skEncode i).map (skDecode k) = some i) ∧
  (∀ (k : Fin 4) (rd ra rb : Rg) (imm : BitVec 18),
    (rb ≠ 0 → ∀ i ∈ ([
      .fadd k .clean rd ra rb, .fsub k .clean rd ra rb, .fmul k .clean rd ra rb, .fdiv k .clean rd ra rb,
      .fmin k .clean rd ra rb, .fmax k .clean rd ra rb, .fcmp k .clean rd ra rb, .fscl k .clean rd ra rb] : List Instr), (skEncode i).map (skDecode k) = some i) ∧
    (16 ≤ imm.toNat → imm.toNat < 32 → (skEncode (.shri k .clean rd ra imm)).map (skDecode k) = some (.shri k .clean rd ra imm)) ∧
    (∀ x ∈ ([
      (0, .fadd k .clean rd ra 0), (1, .fsub k .clean rd ra 0), (2, .fmul k .clean rd ra 0),
      (3, .fdiv k .clean rd ra 0), (4, .fmin k .clean rd ra 0), (5, .fmax k .clean rd ra 0),
      (6, .fabs k .clean rd ra), (7, .fneg k .clean rd ra), (8, .fsqrt k .clean rd ra), (9, .fcmp k .clean rd ra 0),
      (10, .ftoi k .clean rd ra), (11, .itof k .clean rd ra), (12, .utof k .clean rd ra),
      (13, .fkind k .clean rd ra), (14, .frnd k .clean rd ra), (15, .fscl k .clean rd ra 0)] : List (Nat × Instr)),
      skEncode x.2 = skEncode (.shri k .clean rd ra (BitVec.ofNat 18 x.1)) ∧
        ((skEncode x.2).map (skDecode k) = some x.2 ∨ (skEncode x.2).map (skDecode k) = some (.shri k .clean rd ra (BitVec.ofNat 18 x.1))))) ∧
  (∀ (k : Fin 4) (w : Word),
    let op := skField w 26 6
    let fn := skField w 0 6
    let illegal := skDecode k w = .illegal k .clean
    (op ∈ [0x00, 0x08] → skField w 6 8 ≠ 0 → illegal) ∧
    (op = 0x3E → skField w 14 4 ≠ 0 ∨ skField w 18 4 ≠ 0 → illegal) ∧
    (op = 0x00 → 25 ≤ fn → illegal) ∧ (op = 0x08 → 32 ≤ fn ∨ (16 ≤ fn ∧ skField w 14 4 ≠ 0) → illegal) ∧ (op = 0x28 → 4 ≤ fn → illegal) ∧ (op = 0x3E → 6 ≤ fn → illegal) ∧
    (op = 0x30 → fn ∉ [0x00, 0x01, 0x10, 0x11, 0x12, 0x13, 0x14, 0x15, 0x20] → illegal) ∧
    (op ∈ [0x0C, 0x0D, 0x0E, 0x0F] ∨ (0x21 ≤ op ∧ op ≤ 0x27) ∨ (0x2A ≤ op ∧ op ≤ 0x2F) ∨ (0x31 ≤ op ∧ op ≤ 0x3D) ∨ op = 0x3F → illegal) ∧
    (0x1A ≤ op → op ≤ 0x1D → skField w 18 4 ≠ 0 → illegal) ∧
    (op = 0x08 → fn ∈ [6, 7, 8, 10, 11, 12, 13, 14] → skField w 14 4 ≠ 0 → illegal) ∧
    (op = 0x28 → fn = 1 → skField w 14 4 ≠ 0 → illegal) ∧
    (op = 0x30 → fn ≤ 1 → skField w 14 4 ≠ 0 → illegal) ∧
    (op = 0x30 → fn ∈ [0x10, 0x11, 0x12, 0x13, 0x14, 0x15] → skField w 22 4 ≠ 0 → illegal) ∧
    (op = 0x30 → fn = 0x12 → skField w 18 4 ≠ 0 → illegal) ∧
    (op = 0x30 → fn = 0x20 → skField w 18 4 ≠ 0 ∨ skField w 14 4 ≠ 0 → illegal) ∧
    (op = 0x3E → fn ∈ [0, 1, 2, 4] → skField w 22 4 ≠ 0 → illegal))

/-- Register-to-register instructions of R194: the value in rd, the flags kept, the PC in sequence, and nothing else
changed. The cycle counts are those of R198. Division never traps (R195), and the saturating sums of R194: values,
flags IZ (32) and IV (64), and nothing else changed. Instructions with an immediate (R193, R194). A shift immediate
with a bit of imm18[17:5] set raises ILLEGAL, the model's `skCause`. -/
def Obligations.SkehilAluRows : Prop :=
  (∀ (s : State) (k : Fin 4) (rd ra rb : Rg),
    let x := (s.core k).reg ra
    let y := (s.core k).reg rb
    s.skCoreDoes k 1 [ra, rb] (fun e => .add k e rd ra rb) (fun c => c.wrote rd (x + y) (0)) ∧
    s.skCoreDoes k 1 [ra, rb] (fun e => .sub k e rd ra rb) (fun c => c.wrote rd (x - y) (0)) ∧
    s.skCoreDoes k 1 [ra, rb] (fun e => .and k e rd ra rb) (fun c => c.wrote rd (x &&& y) (0)) ∧
    s.skCoreDoes k 1 [ra, rb] (fun e => .ior k e rd ra rb) (fun c => c.wrote rd (x ||| y) (0)) ∧
    s.skCoreDoes k 1 [ra, rb] (fun e => .eor k e rd ra rb) (fun c => c.wrote rd (x ^^^ y) (0)) ∧
    s.skCoreDoes k 1 [ra, rb] (fun e => .andn k e rd ra rb) (fun c => c.wrote rd (x &&& ~~~y) (0)) ∧
    s.skCoreDoes k 1 [ra, rb] (fun e => .shl k e rd ra rb) (fun c => c.wrote rd (x <<< (y.toNat % 32)) (0)) ∧
    s.skCoreDoes k 1 [ra, rb] (fun e => .shr k e rd ra rb) (fun c => c.wrote rd (x >>> (y.toNat % 32)) (0)) ∧
    s.skCoreDoes k 1 [ra, rb] (fun e => .asr k e rd ra rb) (fun c => c.wrote rd (x.sshiftRight (y.toNat % 32)) (0)) ∧
    s.skCoreDoes k 1 [ra, rb] (fun e => .ror k e rd ra rb) (fun c => c.wrote rd (x.rotateRight (y.toNat % 32)) (0)) ∧
    s.skCoreDoes k 1 [ra, rb] (fun e => .cmp k e rd ra rb) (fun c => c.wrote rd (if x.toInt < y.toInt then 0xFFFFFFFF else if x = y then 0 else 1) (0)) ∧
    s.skCoreDoes k 1 [ra, rb] (fun e => .cmpu k e rd ra rb) (fun c => c.wrote rd (if x.toNat < y.toNat then 0xFFFFFFFF else if x = y then 0 else 1) (0)) ∧
    s.skCoreDoes k 1 [ra, rb] (fun e => .min k e rd ra rb) (fun c => c.wrote rd (if x.toInt ≤ y.toInt then x else y) (0)) ∧
    s.skCoreDoes k 1 [ra, rb] (fun e => .max k e rd ra rb) (fun c => c.wrote rd (if y.toInt ≤ x.toInt then x else y) (0)) ∧
    s.skCoreDoes k 1 [ra, rb] (fun e => .minu k e rd ra rb) (fun c => c.wrote rd (if x.toNat ≤ y.toNat then x else y) (0)) ∧
    s.skCoreDoes k 1 [ra, rb] (fun e => .maxu k e rd ra rb) (fun c => c.wrote rd (if y.toNat ≤ x.toNat then x else y) (0)) ∧
    s.skCoreDoes k 2 [ra, rb] (fun e => .mul k e rd ra rb) (fun c => c.wrote rd (x * y) (0)) ∧
    s.skCoreDoes k 2 [ra, rb] (fun e => .mulhs k e rd ra rb) (fun c => c.wrote rd (BitVec.ofInt 32 (x.toInt * y.toInt / 2 ^ 32)) (0)) ∧
    s.skCoreDoes k 2 [ra, rb] (fun e => .mulhu k e rd ra rb) (fun c => c.wrote rd (Word.ofN (x.toNat * y.toNat / 2 ^ 32)) (0))) ∧
  (∀ (s : State) (k : Fin 4) (rd ra rb : Rg),
    let x := (s.core k).reg ra
    let y := (s.core k).reg rb
    s.skCoreDoes k 17 [ra, rb] (fun e => .quo k e rd ra rb) (fun c => c.wrote rd (if y = 0 then 0 else if x = 0x80000000 ∧ y = 0xFFFFFFFF then 0x7FFFFFFF else BitVec.ofInt 32 (Int.fdiv x.toInt y.toInt)) (if y = 0 then 32 else if x = 0x80000000 ∧ y = 0xFFFFFFFF then 64 else 0)) ∧
    s.skCoreDoes k 17 [ra, rb] (fun e => .mod k e rd ra rb) (fun c => c.wrote rd (if y = 0 then x else if x = 0x80000000 ∧ y = 0xFFFFFFFF then 0 else BitVec.ofInt 32 (Int.fmod x.toInt y.toInt)) (if y = 0 then 32 else if x = 0x80000000 ∧ y = 0xFFFFFFFF then 64 else 0)) ∧
    s.skCoreDoes k 17 [ra, rb] (fun e => .quou k e rd ra rb) (fun c => c.wrote rd (if y = 0 then 0 else Word.ofN (x.toNat / y.toNat)) (if y = 0 then 32 else 0)) ∧
    s.skCoreDoes k 17 [ra, rb] (fun e => .modu k e rd ra rb) (fun c => c.wrote rd (if y = 0 then x else Word.ofN (x.toNat % y.toNat)) (if y = 0 then 32 else 0)) ∧
    s.skCoreDoes k 1 [ra, rb] (fun e => .adds k e rd ra rb) (fun c => c.wrote rd (if x.toInt + y.toInt < -2 ^ 31 then 0x80000000 else if 2 ^ 31 ≤ x.toInt + y.toInt then 0x7FFFFFFF else BitVec.ofInt 32 (x.toInt + y.toInt)) (if x.toInt + y.toInt < -2 ^ 31 ∨ 2 ^ 31 ≤ x.toInt + y.toInt then 64 else 0)) ∧
    s.skCoreDoes k 1 [ra, rb] (fun e => .subs k e rd ra rb) (fun c => c.wrote rd (if x.toInt - y.toInt < -2 ^ 31 then 0x80000000 else if 2 ^ 31 ≤ x.toInt - y.toInt then 0x7FFFFFFF else BitVec.ofInt 32 (x.toInt - y.toInt)) (if x.toInt - y.toInt < -2 ^ 31 ∨ 2 ^ 31 ≤ x.toInt - y.toInt then 64 else 0))) ∧
  (∀ (s : State) (k : Fin 4) (rd ra : Rg) (imm : BitVec 18) (imm22 : BitVec 22),
    let x := (s.core k).reg ra
    let sx : Word := imm.signExtend 32
    let zx : Word := imm.zeroExtend 32
    s.skCoreDoes k 1 [ra] (fun e => .addi k e rd ra imm) (fun c => c.wrote rd (x + sx) 0) ∧
    s.skCoreDoes k 1 [ra] (fun e => .andi k e rd ra imm) (fun c => c.wrote rd (x &&& zx) 0) ∧
    s.skCoreDoes k 1 [ra] (fun e => .iori k e rd ra imm) (fun c => c.wrote rd (x ||| zx) 0) ∧
    s.skCoreDoes k 1 [ra] (fun e => .eori k e rd ra imm) (fun c => c.wrote rd (x ^^^ zx) 0) ∧
    s.skCoreDoes k 1 [ra] (fun e => .cmpi k e rd ra imm) (fun c => c.wrote rd (if x.toInt < sx.toInt then 0xFFFFFFFF else if x = sx then 0 else 1) 0) ∧
    s.skCoreDoes k 1 [ra] (fun e => .cmpui k e rd ra imm) (fun c => c.wrote rd (if x.toNat < sx.toNat then 0xFFFFFFFF else if x = sx then 0 else 1) 0) ∧
    s.skCoreDoes k 1 [] (fun e => .lhi k e rd imm22) (fun c => c.wrote rd (Word.ofN (imm22.toNat * 1024)) 0) ∧
    (imm.toNat < 32 →
    s.skCoreDoes k 1 [ra] (fun e => .shli k e rd ra imm) (fun c => c.wrote rd (x <<< imm.toNat) 0) ∧
    s.skCoreDoes k 1 [ra] (fun e => .shri k e rd ra imm) (fun c => c.wrote rd (x >>> imm.toNat) 0) ∧
    s.skCoreDoes k 1 [ra] (fun e => .asri k e rd ra imm) (fun c => c.wrote rd (x.sshiftRight imm.toNat) 0) ∧
    s.skCoreDoes k 1 [ra] (fun e => .rori k e rd ra imm) (fun c => c.wrote rd (x.rotateRight imm.toNat) 0)) ∧
    (32 ≤ imm.toNat →
    s.skDoes k 1 [ra] (fun e => .shli k e rd ra imm) (fun t => t.skCause k Cause.illegal) ∧
    s.skDoes k 1 [ra] (fun e => .shri k e rd ra imm) (fun t => t.skCause k Cause.illegal) ∧
    s.skDoes k 1 [ra] (fun e => .asri k e rd ra imm) (fun t => t.skCause k Cause.illegal) ∧
    s.skDoes k 1 [ra] (fun e => .rori k e rd ra imm) (fun t => t.skCause k Cause.illegal)))

/-- Branches and jumps (R193, R194). The two or one extra cycles are the squashed instructions of R199, in the model's
cycle count (log entry 6). -/
def Obligations.SkehilBranchRows : Prop :=
  ∀ (s : State) (k : Fin 4) (rd ra rb : Rg) (off imm : BitVec 18) (off26 : BitVec 26),
    let x := (s.core k).reg ra
    let y := (s.core k).reg rb
    let pc := (s.core k).pc
    let tgt := (pc + ((off.signExtend 32 : Word) <<< 2).toNat) % 2 ^ 32
    let far := (pc + ((off26.signExtend 32 : Word) <<< 2).toNat) % 2 ^ 32
    let t := (x + (imm.signExtend 32 : Word)).toNat
    s.skCoreDoes k 1 [ra, rb] (fun e => .beq k e ra rb off) (fun c => if x = y then { c with pc := tgt, cycles := c.cycles + 2 } else { c with pc := pc + 4 }) ∧
    s.skCoreDoes k 1 [ra, rb] (fun e => .bne k e ra rb off) (fun c => if x ≠ y then { c with pc := tgt, cycles := c.cycles + 2 } else { c with pc := pc + 4 }) ∧
    s.skCoreDoes k 1 [ra, 0] (fun e => .blz k e ra off) (fun c => if x.toInt < 0 then { c with pc := tgt, cycles := c.cycles + 2 } else { c with pc := pc + 4 }) ∧
    s.skCoreDoes k 1 [ra, 0] (fun e => .bgez k e ra off) (fun c => if 0 ≤ x.toInt then { c with pc := tgt, cycles := c.cycles + 2 } else { c with pc := pc + 4 }) ∧
    s.skCoreDoes k 1 [ra, 0] (fun e => .bgz k e ra off) (fun c => if 0 < x.toInt then { c with pc := tgt, cycles := c.cycles + 2 } else { c with pc := pc + 4 }) ∧
    s.skCoreDoes k 1 [ra, 0] (fun e => .blez k e ra off) (fun c => if x.toInt ≤ 0 then { c with pc := tgt, cycles := c.cycles + 2 } else { c with pc := pc + 4 }) ∧
    s.skCoreDoes k 1 [] (fun e => .jmp k e off26) (fun c => { c with pc := far, cycles := c.cycles + 1 }) ∧
    s.skCoreDoes k 1 [] (fun e => .call k e off26) (fun c => { c.setReg 15 (Word.ofN (pc + 4)) with pc := far, cycles := c.cycles + 1 }) ∧
    (t % 4 = 0 → s.skCoreDoes k 1 [ra] (fun e => .jind k e rd ra imm) (fun c => { c.setReg rd (Word.ofN (pc + 4)) with pc := t, cycles := c.cycles + 2 })) ∧
    (t % 4 ≠ 0 → s.skDoes k 1 [ra] (fun e => .jind k e rd ra imm) (fun u => u.skCause k Cause.ifetch))

/-- Binary32 instructions (R196) over the arithmetic of R115 (`fAdd` and its companions): value, sticky flags, and
nothing else changed. -/
def Obligations.SkehilBinary32Rows : Prop :=
  ∀ (s : State) (k : Fin 4) (rd ra rb : Rg),
    let x := (s.core k).reg ra
    let y := (s.core k).reg rb
    s.skCoreDoes k 3 [ra, rb] (fun e => .fadd k e rd ra rb) (fun c => c.wrote rd (fAdd x y).val (fAdd x y).flags) ∧
    s.skCoreDoes k 3 [ra, rb] (fun e => .fsub k e rd ra rb) (fun c => c.wrote rd (fSub x y).val (fSub x y).flags) ∧
    s.skCoreDoes k 3 [ra, rb] (fun e => .fmul k e rd ra rb) (fun c => c.wrote rd (fMul x y).val (fMul x y).flags) ∧
    s.skCoreDoes k 14 [ra, rb] (fun e => .fdiv k e rd ra rb) (fun c => c.wrote rd (fDiv x y).val (fDiv x y).flags) ∧
    s.skCoreDoes k 1 [ra, rb] (fun e => .fmin k e rd ra rb) (fun c => c.wrote rd (fPick fMinV x y).val (fPick fMinV x y).flags) ∧
    s.skCoreDoes k 1 [ra, rb] (fun e => .fmax k e rd ra rb) (fun c => c.wrote rd (fPick fMaxV x y).val (fPick fMaxV x y).flags) ∧
    s.skCoreDoes k 1 [ra, rb] (fun e => .fcmp k e rd ra rb) (fun c => c.wrote rd (fCmp x y).val (fCmp x y).flags) ∧
    s.skCoreDoes k 3 [ra, rb] (fun e => .fscl k e rd ra rb) (fun c => c.wrote rd (fScl x y.toInt).val (fScl x y.toInt).flags) ∧
    s.skCoreDoes k 1 [ra, 0] (fun e => .fabs k e rd ra) (fun c => c.wrote rd ((⟨x &&& 0x7FFFFFFF, 0⟩ : FRes)).val ((⟨x &&& 0x7FFFFFFF, 0⟩ : FRes)).flags) ∧
    s.skCoreDoes k 1 [ra, 0] (fun e => .fneg k e rd ra) (fun c => c.wrote rd ((⟨x ^^^ 0x80000000, 0⟩ : FRes)).val ((⟨x ^^^ 0x80000000, 0⟩ : FRes)).flags) ∧
    s.skCoreDoes k 14 [ra, 0] (fun e => .fsqrt k e rd ra) (fun c => c.wrote rd (fSqrt x).val (fSqrt x).flags) ∧
    s.skCoreDoes k 1 [ra, 0] (fun e => .ftoi k e rd ra) (fun c => c.wrote rd (fToI x).val (fToI x).flags) ∧
    s.skCoreDoes k 1 [ra, 0] (fun e => .itof k e rd ra) (fun c => c.wrote rd (fOfInt x.toInt).val (fOfInt x.toInt).flags) ∧
    s.skCoreDoes k 1 [ra, 0] (fun e => .utof k e rd ra) (fun c => c.wrote rd (fOfInt (x.toNat : Int)).val (fOfInt (x.toNat : Int)).flags) ∧
    s.skCoreDoes k 1 [ra, 0] (fun e => .fkind k e rd ra) (fun c => c.wrote rd ((⟨fKind x, 0⟩ : FRes)).val ((⟨fKind x, 0⟩ : FRes)).flags) ∧
    s.skCoreDoes k 1 [ra, 0] (fun e => .frnd k e rd ra) (fun c => c.wrote rd (fRnd x).val (fRnd x).flags)

/-- Loads and stores inside DMEM (R189, R190, R194, R197). The causes ACCESS and ALIGN of R189 and R213, and SK0's word
access to the register space (R189). -/
def Obligations.SkehilDataMemoryRows : Prop :=
  (∀ (s : State) (k : Fin 4) (rd ra : Rg) (imm : BitVec 18) (de : Ecc),
    let c := s.core k
    let a := (c.reg ra + (imm.signExtend 32 : Word)).toNat
    let m := s.skMem k a
    let seen (t : State) : State := if de = .sbe then t.inc F.SK_ECC_SBE 1 k else t
    let ld (d : SkCore) (v : Word) : SkCore := { d.wrote rd v 0 with loaded := if rd = 0 then d.loaded else some rd.val }
    (s.skDataOk k a = true → a / 4 * 4 ∉ c.bad → de = .clean ∨ de = .sbe →
    (a % 4 = 0 → s.skDoes k 1 [ra] (fun e => .ldw k e rd ra imm de) (fun t => (seen t).setCore k (ld (t.core k) (m)))) ∧
    (a % 2 = 0 → s.skDoes k 1 [ra] (fun e => .ldh k e rd ra imm de) (fun t => (seen t).setCore k (ld (t.core k) ((BitVec.ofNat 16 (m.toNat / 2 ^ (8 * (a % 4)))).signExtend 32)))) ∧
    (a % 2 = 0 → s.skDoes k 1 [ra] (fun e => .ldhu k e rd ra imm de) (fun t => (seen t).setCore k (ld (t.core k) ((BitVec.ofNat 16 (m.toNat / 2 ^ (8 * (a % 4)))).zeroExtend 32)))) ∧
    (a % 1 = 0 → s.skDoes k 1 [ra] (fun e => .ldb k e rd ra imm de) (fun t => (seen t).setCore k (ld (t.core k) ((BitVec.ofNat 8 (m.toNat / 2 ^ (8 * (a % 4)))).signExtend 32)))) ∧
    (a % 1 = 0 → s.skDoes k 1 [ra] (fun e => .ldbu k e rd ra imm de) (fun t => (seen t).setCore k (ld (t.core k) ((BitVec.ofNat 8 (m.toNat / 2 ^ (8 * (a % 4)))).zeroExtend 32)))) ∧
    (a % 2 = 0 → s.skDoes k 1 [rd, ra] (fun e => .sth k e rd ra imm de)
      (fun t => ((seen t).setSkMem k a (setBits m (8 * (a % 4)) 16 (c.reg rd).toNat)).setCore k (((seen t).setSkMem k a (setBits m (8 * (a % 4)) 16 (c.reg rd).toNat)).core k).advance)) ∧
    (a % 1 = 0 → s.skDoes k 1 [rd, ra] (fun e => .stb k e rd ra imm de)
      (fun t => ((seen t).setSkMem k a (setBits m (8 * (a % 4)) 8 (c.reg rd).toNat)).setCore k (((seen t).setSkMem k a (setBits m (8 * (a % 4)) 8 (c.reg rd).toNat)).core k).advance))) ∧
    (s.skDataOk k a = true → a % 4 = 0 → s.skDoes k 1 [rd, ra] (fun e => .stw k e rd ra imm)
      (fun t => (t.setSkMem k a (c.reg rd)).setCore k ((t.setSkMem k a (c.reg rd)).core k).advance))) ∧
  (∀ (s : State) (k : Fin 4) (rd ra : Rg) (imm : BitVec 18) (de : Ecc),
    let a := ((s.core k).reg ra + (imm.signExtend 32 : Word)).toNat
    let trap (al cause : Nat) (src : List Rg) (i : Ecc → Instr) : Prop := a % al ≠ 0 → s.skDoes k 1 src i (fun t => t.skCause k cause)
    let out (src : List Rg) (i : Ecc → Instr) : Prop := s.skDoes k 1 src i (fun t => t.skCause k Cause.access)
    (s.skDataOk k a = true →
    trap 4 Cause.align [ra] (fun e => .ldw k e rd ra imm de) ∧ trap 2 Cause.align [ra] (fun e => .ldh k e rd ra imm de) ∧ trap 2 Cause.align [ra] (fun e => .ldhu k e rd ra imm de) ∧ trap 2 Cause.align [rd, ra] (fun e => .sth k e rd ra imm de) ∧
    trap 4 Cause.align [rd, ra] (fun e => .stw k e rd ra imm)) ∧
    (s.skDataOk k a = false → skRegSpace k a = false →
    out [ra] (fun e => .ldw k e rd ra imm de) ∧ out [ra] (fun e => .ldh k e rd ra imm de) ∧ out [ra] (fun e => .ldhu k e rd ra imm de) ∧ out [ra] (fun e => .ldb k e rd ra imm de) ∧ out [ra] (fun e => .ldbu k e rd ra imm de) ∧ out [rd, ra] (fun e => .sth k e rd ra imm de) ∧ out [rd, ra] (fun e => .stb k e rd ra imm de) ∧
    out [rd, ra] (fun e => .stw k e rd ra imm)) ∧
    (s.skDataOk k a = true → a % 4 = 0 → skRegSpace k a = false → ∀ w,
    s.skDoes k 1 [ra] (fun e => .ldw k e rd ra imm (.dbe w))
      (fun t => ((t.setCore k { t.core k with bad := (a / 4 * 4 :: (t.core k).bad).dedup }).inc F.SK_ECC_DBE 1 k).skCause k Cause.ecc)) ∧
    (skRegSpace k a = true → a % 4 = 0 →
    s.skDoes k 1 [ra] (fun e => .ldw k e rd ra imm de)
      (fun t => let u := t.busRead (t.who .sk0) (a - 0x10000000)
        u.setCore k { (u.core k).wrote rd u.rdata 0 with loaded := if rd = 0 then (u.core k).loaded else some rd.val }) ∧
    s.skDoes k 1 [rd, ra] (fun e => .stw k e rd ra imm)
      (fun t => let u := (t.dropCap (t.who .sk0).cap).busWrite (t.who .sk0) (a - 0x10000000) ((s.core k).reg rd)
        -- a store by which SK0 resets itself leaves it at its reset entry (R224)
        if (u.core k).run = (s.core k).run ∧ (u.core k).started = (s.core k).started then u.setCore k (u.core k).advance else u)))

/-- Point instructions (R202 to R204): the operation on the point in terms of the shared `ptWrite`, `ptSource` and
`rwHandover`, and the causes INDEX and ILLEGAL. The loop coprocessor port (R206 to R211). -/
def Obligations.SkehilPortRows : Prop :=
  (∀ (s : State) (k : Fin 4) (rd ra rb : Rg) (imm : BitVec 18) (prio word : BitVec 4) (pe : Ecc),
    let c := s.core k
    let x := (c.reg ra).toNat
    let a := (c.reg ra + (imm.signExtend 32 : Word)).toNat
    let out (u : State) : State := u.setCore k ((u.core k).wrote rd (Word.ofN u.wres) 0)
    let trap (src : List Rg) (i : Ecc → Instr) (cause : Nat) : Prop := s.skDoes k 1 src i (fun t => t.skCause k cause)
    (x < 32768 →
    s.skDoes k 1 [ra, rb] (fun e => .pwr k e rd ra rb prio pe) (fun t => out ((t.ptEcc x pe).ptWrite ((t.ptEcc x pe).skWho k) x .write prio.toNat (((t.ptEcc x pe).core k).reg rb) 0)) ∧
    s.skDoes k 1 [ra, 0] (fun e => .prel k e rd ra prio pe) (fun t => out ((t.ptEcc x pe).ptWrite ((t.ptEcc x pe).skWho k) x .relinquish prio.toNat 0 0)) ∧
    (word.toNat < 2 → prio = 0 → s.skDoes k 1 [ra, rb] (fun e => .psrc k e rd ra rb word prio pe)
      (fun t => out ((t.ptEcc x pe).ptSource x (bindWord Kind.skehil k) (((t.ptEcc x pe).core k).reg rb) (word == 0) none (some ((t.ptEcc x pe).skTenant k)))))) ∧
    (32768 ≤ x → trap [ra, rb] (fun e => .pwr k e rd ra rb prio pe) Cause.index ∧ trap [ra, 0] (fun e => .prel k e rd ra prio pe) Cause.index ∧
    (word.toNat < 2 → prio = 0 → trap [ra, rb] (fun e => .psrc k e rd ra rb word prio pe) Cause.index)) ∧
    (2 ≤ word.toNat ∨ prio ≠ 0 → trap [] (fun e => .psrc k e rd ra rb word prio pe) Cause.illegal) ∧
    (rd.val = 2 ∨ rd.val = 4 ∨ rd.val = 6 ∨ rd.val = 8 ∨ rd.val = 10 ∨ rd.val = 12 →
    (32768 ≤ a → trap [ra] (fun e => .pld k e rd ra imm pe) Cause.index) ∧
    (a < 32768 → s.skDoes k 1 [ra] (fun e => .pld k e rd ra imm pe)
      (fun t => let u := t.ptEcc a pe
        let v := if u.readRight (t.skTenant k) a then u else u.inc F.SK_CNT2_DENIED 1 k
        v.setCore k (((v.core k).setReg rd (v.ptWordFor (t.skTenant k) a 0)).setReg (rd + 1) (v.ptWordFor (t.skTenant k) a 1)).advance))) ∧
    (¬(rd.val = 2 ∨ rd.val = 4 ∨ rd.val = 6 ∨ rd.val = 8 ∨ rd.val = 10 ∨ rd.val = 12) → trap [ra] (fun e => .pld k e rd ra imm pe) Cause.illegal) ∧
    (x < 2 ^ 25 → s.skDoes k 1 [ra, rb] (fun e => .pwrr k e rd ra rb prio)
      (fun t => let r := t.rwHandover (t.skTenant k) (t.skWho k).ifc (t.skGen k) 0 false prio.toNat x (c.reg rb)
        r.1.setCore k ((r.1.core k).wrote rd r.2 0))) ∧
    (2 ^ 25 ≤ x → trap [ra, rb] (fun e => .pwrr k e rd ra rb prio) Cause.index)) ∧
  (∀ (s : State) (k : Fin 4) (rd ra rb : Rg) (word prio : BitVec 4),
    let c := s.core k
    let n := (c.reg ra).toNat
    let v := c.reg rb
    let entry (ask : LeAsk) (data : Word) (t : State) : LeOp :=
      { ask := ask, tenant := t.skTenant k, gen := t.skGen k, ifc := if k.val = 0 then 10 else 6, addr := 0, run := c.run, data := data }
    let full := 8 ≤ (s.leFifo (k + 1)).length
    let send (ask : LeAsk) (data : Word) (t : State) : State :=
      if full then t.setCore k { t.core k with cbuf := [entry ask data t], wait := some .fifo }
      else (t.setCore k { t.core k with unacked := c.unacked + 1, pc := c.pc + 4, cbuf := [], wait := none }).setFifo (k + 1)
        (t.leFifo (k + 1) ++ [entry ask data t])
    let early (i : Ecc → Instr) (ask : LeAsk) (data : Word) : Prop := ∀ q,
      s.skRuns k = true → c.wait = some (.read 0 q) → c.cbuf = [] → s.skPcOk k (c.pc + 4) = true → (c.pc + 4) / 4 * 4 ∉ c.bad →
      k.val = 0 ∨ c.cycles + 1 < s.skBudget k →
      exec (i .clean) s = .next (s.setCore k { c with cycles := c.cycles + 1, cbuf := [entry ask data s] })
    let issue (w : Nat) (st : Bool) (t : State) : State :=
      t.setCore k { t.core k with
        reads := c.reads ++ [(c.seq3, ⟨n, w, st, t.skTenant k, t.skGen k⟩)], wait := some (.read rd.val c.seq3), seq3 := (c.seq3 + 1) % 8 }
    let trap (src : List Rg) (i : Ecc → Instr) (cause : Nat) : Prop := s.skDoes k 1 src i (fun t => t.skCause k cause)
    (n < 8192 →
    s.skDoes k 1 [ra, rb] (fun e => .lxwr k e ra rb word) (send (.word n word.toNat v) v) ∧
    s.skDoes k 1 [ra, rb] (fun e => .lxsw k e ra rb) (send (.swap n (v.toNat % 2)) v) ∧
    s.skDoes k 1 [ra] (fun e => .lxri k e ra) (send (.reinit n) 0) ∧
    s.skDoes k 1 [ra, rb] (fun e => .lxfo k e ra rb prio) (send (.force n prio.toNat v) v) ∧
    s.skDoes k 1 [ra] (fun e => .lxfr k e ra prio) (send (.release n prio.toNat) 0) ∧
    s.skDoes k 1 [ra] (fun e => .lxrr k e rd ra word) (issue word.toNat false) ∧
    (word.toNat < 6 → s.skDoes k 1 [ra] (fun e => .lxrs k e rd ra word) (issue word.toNat true))) ∧
    s.skDoes k 1 [rb] (fun e => .lxgs k e rb) (send (.group v) v) ∧
    (n < 8192 →
    early (fun e => .lxwr k e ra rb word) (.word n word.toNat v) v ∧ early (fun e => .lxsw k e ra rb) (.swap n (v.toNat % 2)) v ∧
    early (fun e => .lxri k e ra) (.reinit n) 0 ∧ early (fun e => .lxfo k e ra rb prio) (.force n prio.toNat v) v ∧
    early (fun e => .lxfr k e ra prio) (.release n prio.toNat) 0) ∧
    early (fun e => .lxgs k e rb) (.group v) v ∧
    (8192 ≤ n →
    trap [ra, rb] (fun e => .lxwr k e ra rb word) Cause.index ∧ trap [ra, rb] (fun e => .lxsw k e ra rb) Cause.index ∧ trap [ra] (fun e => .lxri k e ra) Cause.index ∧ trap [ra, rb] (fun e => .lxfo k e ra rb prio) Cause.index ∧ trap [ra] (fun e => .lxfr k e ra prio) Cause.index ∧ trap [ra] (fun e => .lxrr k e rd ra word) Cause.index ∧
    (word.toNat < 6 → trap [ra] (fun e => .lxrs k e rd ra word) Cause.index)) ∧
    (6 ≤ word.toNat → trap [] (fun e => .lxrs k e rd ra word) Cause.illegal) ∧
    (c.unacked = 0 → s.skCoreDoes k 1 [] (fun e => .lxsync k e rd)
      (fun d => { d.setReg rd (Word.ofN (256 * c.lxCount + c.lxFirst)) with lxFirst := 0, lxCount := 0, wait := none, pc := c.pc + 4 })) ∧
    (c.unacked ≠ 0 → s.skCoreDoes k 1 [] (fun e => .lxsync k e rd) (fun d => { d with wait := some (.sync rd.val) })))

/-- Control instructions and causes (R194, R197, R213, R216, R221, R222, R225). `stall` is the model's operand for the
cycles that stalls add (log entry 6). Task dispatch (R219, R220), LX responses (R208) and acknowledgements (R211,
R215). -/
def Obligations.SkehilControlAndDispatchRows : Prop :=
  (∀ (s : State) (k : Fin 4) (rd : Rg) (imm : BitVec 8) (stall : Nat),
    let c := s.core k
    let n := imm.toNat
    let trap (src : List Rg) (i : Ecc → Instr) (cause : Nat) : Prop := s.skDoes k 1 src i (fun t => t.skCause k cause)
    (c.unacked ≠ 0 → s.skCoreDoes k (1 + stall) [] (fun e => .done k e stall) (fun d => { d with wait := some .done })) ∧
    (c.unacked = 0 → c.lxCount = 0 → k.val = 0 → s.skCoreDoes k (1 + stall) [] (fun e => .done k e stall) (fun d => { d with wait := none, pc := d.pc + 4 })) ∧
    (c.unacked = 0 → c.lxCount = 0 → k.val ≠ 0 → s.skDoes k (1 + stall) [] (fun e => .done k e stall)
      (fun t => (t.setCore k { t.core k with wait := some .done }).skEnd k)) ∧
    (c.unacked = 0 → c.lxCount ≠ 0 → s.skDoes k (1 + stall) [] (fun e => .done k e stall)
      (fun t => let u := (t.setCore k { t.core k with wait := some .done }).fresh.postErr (t.skTenant k) skBlock (Config.freeNat t.free % 65536) (leBytes 1 c.lxFirst ++ leBytes 1 c.lxCount)
        if k.val = 0 then u.setCore 0 { u.core 0 with wait := none, pc := (u.core 0).pc + 4 } else u.skEnd k)) ∧
    trap [] (fun e => .brk k e) Cause.break_ ∧ trap [] (fun e => .illegal k e) Cause.illegal ∧
    (n ≤ (if k.val = 0 then 9 else 8) → s.skDoes k 1 [] (fun e => .sig k e imm)
      (fun t => (t.setCore k { t.core k with pc := c.pc + 4 }).icSet (if k.val = 0 then 216 + n else 226 + 10 * (k.val - 1) + n))) ∧
    ((if k.val = 0 then 9 else 8) < n → trap [] (fun e => .sig k e imm) Cause.illegal) ∧
    (imm = 0 → s.skCoreDoes k (1 + stall) [] (fun e => .rdt k e rd imm stall) (fun d => (d.setReg rd (Word.ofN s.frame)).advance)) ∧
    (imm = 1 → s.skCoreDoes k (1 + stall) [] (fun e => .rdt k e rd imm stall)
      (fun d => { (d.setReg rd (Word.ofN s.campus)) with timeHi := s.campus / 2 ^ 32 }.advance)) ∧
    (imm = 2 → s.skCoreDoes k (1 + stall) [] (fun e => .rdt k e rd imm stall) (fun d => (d.setReg rd (Word.ofN c.timeHi)).advance)) ∧
    (imm = 3 → s.skCoreDoes k (1 + stall) [] (fun e => .rdt k e rd imm stall) (fun d => (d.setReg rd (Word.ofN d.cycles)).advance)) ∧
    (3 < n → s.skDoes k (1 + stall) [] (fun e => .rdt k e rd imm stall) (fun t => t.skCause k Cause.illegal)) ∧
    (k.val = 0 → s.skDoes k 1 [] (fun e => .eret k e) (fun t => t.setCore 0 { t.core 0 with pc := s.get F.SK_EPC_EPC, inHandler := false })) ∧
    (k.val ≠ 0 → trap [] (fun e => .eret k e) Cause.illegal) ∧
    s.skCoreDoes k 1 [] (fun e => .cflg k e rd) (fun d => { d.setReg rd (Word.ofN c.cflags) with cflags := 0, pc := c.pc + 4 }) ∧
    (s.skRuns k = true → c.wait = none → s.skPcOk k c.pc = false → exec (.ifetch k) s = .next (s.skCause k Cause.ifetch)) ∧
    (k.val ≠ 0 → c.task.isSome = true →
      exec (.taskBudgetExpiry k) s = .next ((s.setCore k { c with cycles := s.skBudget k }).skAbort k Cause.budget))) ∧
  (∀ (s : State) (k : Fin 4) (t seq rd run st : Nat) (r : LeAskRead) (rest : List (Nat × LeAskRead)) (rest2 : List (Nat × Nat)),
    let c := s.core k
    (k.val ≠ 0 → c.task = none → s.bit F.SK_CTRL_RUN k = true → (s.skReady k).head? = some t → s.skPassed k t = false →
      exec (.taskDispatch k) s = .next (s.skStart k t) ∧ ((s.skStart k t).core k).task = some t ∧
      ((s.skStart k t).core k).pc = s.get F.SK_TASK_ENTRY_ENTRY k t ∧ ((s.skStart k t).core k).cflags = 0 ∧ ((s.skStart k t).core k).cycles = 0) ∧
    (k.val ≠ 0 → c.task.isSome = true → exec (.taskDispatch k) s = .next s) ∧
    (s.leFifo (k + 1) = [] → c.reads = (seq, r) :: rest → c.wait = some (.read rd seq) → rd < 16 → c.cbuf = [] →
      let u := if (s.lxReadWord r).2 = Res.refRights then s.inc F.SK_CNT2_DENIED 1 k
        else if (s.lxReadWord r).2 = 0x21 then s.inc F.TEN_CNT_DISC_GEN 1 r.tenant else s
      exec (.lxReadResponse k) s = .next (u.setCore k
        { (({ c with reads := rest }.setReg (Fin.ofNat 16 rd) (s.lxReadWord r).1).merge (s.lxReadWord r).2) with wait := none }.advance)) ∧
    (s.leFifo (k + 1) = [] → c.reads = (seq, r) :: rest → (∀ x, c.wait ≠ some (.read x seq)) →
      exec (.lxReadResponse k) s = .next (s.setCore k { c with reads := rest })) ∧
    (c.reads = [] ∨ s.leFifo (k + 1) ≠ [] → exec (.lxReadResponse k) s = .next s) ∧
    (c.acks = (run, st) :: rest2 → run = c.run → c.wait = none →
      exec (.lxAck k) s = .next (s.setCore k { ({ c with acks := rest2 }.merge st) with unacked := c.unacked - 1 })) ∧
    (c.acks = (run, st) :: rest2 → run ≠ c.run → exec (.lxAck k) s = .next (s.setCore k { c with acks := rest2 })))

/-- POINT_VALUE_WRITE decides by the procedure of R79, whatever the ECC of the record finds first (R68: `u` is the state after
that): each outcome states what VALUE and STATUS hold after it. POINT_SOURCE_WRITE, POINT_RELINQUISH and POINT_VALUE_READ (R64,
R66, R71, R73, R79, R100). Of a REMOTE write, far codes that R65 never produces, and an AGE past AGE_MAX with a far quality that
is not GOOD, follow the model's choices of log entries 110 and 111. -/
def Obligations.PointAccessRows : Prop :=
  (∀ (s : State) (p : Path) (i : Nat) (v : Word) (e : Ecc),
    let w := s.who p
    let n := i % 32768
    let prio := w.prio
    let u := (s.opened p).ptEcc n e
    let others (t : State) : Prop := ∀ a, 0x80000 ≤ a → a < 0x100000 → a ≠ R.PT_VALUE.at n → a ≠ R.PT_STATUS.at n → t.word a = s.word a
    let ends (r : Res) : Prop := ∃ t, exec (.pointValueWrite p i v e) s = .next t ∧ t.wres = r ∧ t.ptVal n = u.ptVal n ∧ t.ptStat n = u.ptStat n ∧ others t
    s.pathOpen p → s.ringOpen →
    (u.ptKind n ≠ Kind.unused → u.ptBroken n = false → 1 ≤ prio → prio ≤ 15 → u.hasRight w.tenant n prio = true → prio ≤ u.ptHP n → fFinite v = true →
      ∃ t, exec (.pointValueWrite p i v e) s = .next t ∧ t.wres = Res.applied ∧ t.ptVal n = v ∧
        t.ptQual n = (if prio ≤ 4 then Qual.forced else Qual.good) ∧ t.get F.PT_STATUS_AGE n = 0 ∧
        (prio ≤ 4 ∨ u.ptKind n ≠ Kind.none_ → t.ptHP n = prio ∧ t.get F.PT_STATUS_HOLDER n = w.tenant) ∧
        (4 < prio → u.ptKind n = Kind.none_ → t.ptHP n = u.ptHP n ∧ t.get F.PT_STATUS_HOLDER n = u.get F.PT_STATUS_HOLDER n) ∧ others t) ∧
    (u.ptKind n = Kind.unused ∨ u.ptBroken n = true → ends Res.refConfig) ∧
    (u.ptKind n ≠ Kind.unused → u.ptBroken n = false →
      (prio = 0 → ends Res.refRange) ∧
      (1 ≤ prio → prio ≤ 15 →
        (u.hasRight w.tenant n prio = false → ends Res.refRights) ∧
        (u.hasRight w.tenant n prio = true → u.ptHP n < prio → ends Res.refPriority) ∧
        (u.hasRight w.tenant n prio = true → prio ≤ u.ptHP n → fFinite v = false → ends Res.refValue)))) ∧
  (∀ (s : State) (i kind ref : Nat) (v : Word) (good : Bool) (remote : Option (Nat × Nat × Nat)) (task : Option Nat) (e : Ecc),
    let n := i % 32768
    let b := bindWord (kind % 16) ref
    let u := s.ptEcc n e
    let ends (r : Res) : Prop := ∃ t, exec (.pointSourceWrite i kind ref v good remote task e) s = .next t ∧ t.wres = r ∧ t.ptVal n = u.ptVal n ∧ t.ptStat n = u.ptStat n
    let named := s.word (R.PT_BIND.at n) = b ∧ 2 ≤ kind % 16 ∧ (task.isSome = true ∨ kind % 16 = Kind.skehil → task = some (s.ptTenant n))
    (named → u.ptBroken n = false → u.ptHP n = 16 →
      ∃ t, exec (.pointSourceWrite i kind ref v good remote task e) s = .next t ∧ t.wres = Res.applied ∧ t.ptVal n = v ∧ t.ptHP n = 16 ∧
        t.get F.PT_STATUS_HOLDER n = u.get F.PT_STATUS_HOLDER n ∧
        (remote = none → t.ptQual n = (if good ∧ fFinite v = true then Qual.good else Qual.fault) ∧ t.get F.PT_STATUS_AGE n = 0 ∧ t.get F.PT_STATUS_SRCFORCED n = 0) ∧
        (∀ q a at', remote = some (q, a, at') →
          let age := min (a + (s.campus - at') / 10000) 0xFFFF
          t.get F.PT_STATUS_AGE n = age ∧ t.get F.PT_STATUS_SRCFORCED n = (if q = Qual.forced then 1 else 0) ∧
          t.ptQual n = (if fFinite v = false ∨ Qual.fault < q then Qual.fault
            else if q = Qual.good ∨ q = Qual.forced then (if s.ageMax n ≠ 0 ∧ s.ageMax n < age then Qual.stale else Qual.good) else q))) ∧
    (named → u.ptBroken n = false → u.ptHP n < 16 → ends Res.refPriority) ∧
    (¬ named → u.ptBroken n = false → ends Res.refSource) ∧
    (u.ptBroken n = true → ends Res.refConfig)) ∧
  (∀ (s : State) (p : Path) (i : Nat) (data : Word) (e : Ecc),
    let n := i % 32768
    let w := s.who p
    let m := F.SYS_PT_REL_INDEX.of data
    let prio := F.SYS_PT_REL_PRIO.of data + 1
    let r := (s.opened p).ptFind m
    let u := (s.opened p).ptEcc n e
    (s.pathOpen p → s.ringOpen → r.ptKind m ≠ Kind.unused → r.ptBroken m = false → prio ≤ 15 → r.hasRight w.tenant m prio = true → prio ≤ r.ptHP m →
      ∃ t, exec (.pointRelinquish p data) s = .next t ∧ t.wres = Res.relinquished ∧ t.ptVal m = r.ptVal m ∧ t.ptHP m = 16 ∧
        t.ptQual m = (if r.ptKind m = Kind.none_ then Qual.good else Qual.notValid)) ∧
    (s.pathOpen p → ∃ t, exec (.pointValueRead p i e) s = .next t ∧ (∀ a, t.word a = u.word a) ∧
      t.rdata = (if s.readRight w.tenant n = true ∧ s.ptKind n ≠ Kind.unused then u.ptVal n else 0) ∧
      (t.bank w.cap).capture = some (R.PT_STATUS.at n, if s.readRight w.tenant n = true ∧ s.ptKind n ≠ Kind.unused then u.ptStat n else 0)))

/-- Configuration writes of POINT_CONFIG_WRITE, POINT_BIND_WRITE, PROFILE_WRITE and ZONE_CFG_WRITE (R14, R18, R62, R66,
R72, R86, R92). REGISTER_WRITE at the address of a command is that command; at a register of flags it leaves what the access
codes give, at a read-only one nothing (R14, R15, R44, R59 to R63). POINT_AGE_TICK: AGE and staleness (R69, R70) of each of the 32,768 points, after
what the tick's own read of the record finds (R68: `u`). -/
def Obligations.PointUpkeepRows : Prop :=
  (∀ (s : State) (p : Path) (i z k : Nat) (data : Word),
    let w := s.who p
    let n := i % 32768
    let y := z % 256
    let x := k % 3
    (w.tenant = 0 → s.configures p (.pointConfigWrite p i data) (R.PT_CONFIG.at n) data (s.ptConfigChk n) (fun _ t => t.ptMend n 0)) ∧
    (w.tenant = 0 → s.configures p (.pointBindWrite p i data) (R.PT_BIND.at n) data (s.ptBindChk n) (fun v t => t.ptBindAfter n (s.word (R.PT_BIND.at n)) v)) ∧
    (w.tenant = 0 → s.configures p (.profileWrite p z k data) (profileAddr y x) data (s.profileChk y x) (fun v t => t.profileAfter y x v)) ∧
    (w.tenant = 0 → s.configures p (.zoneCfgWrite p z data) (R.SYS_ZONE_CFG.at (z % 512)) data (s.zoneChk (z % 512)) (fun _ t => t)) ∧
    (w.tenant ≠ 0 → s.refuses p (.pointConfigWrite p i data) (R.PT_CONFIG.at n) data Res.refRights) ∧
    (w.tenant ≠ 0 → s.refuses p (.pointBindWrite p i data) (R.PT_BIND.at n) data Res.refRights) ∧
    (w.tenant ≠ 0 → s.refuses p (.profileWrite p z k data) (profileAddr y x) data Res.refRights) ∧
    (w.tenant ≠ 0 → s.refuses p (.zoneCfgWrite p z data) (R.SYS_ZONE_CFG.at (z % 512)) data Res.refRights) ∧
    (w.tenant = 0 → (∃ fs, fieldsAt (R.PT_BIND.at n) = some fs ∧ rangesOk fs data = true ∧ s.ptBindChk n (mergeWrite fs (s.word (R.PT_BIND.at n)) data) = Res.applied) → s.pathOpen p → s.ringOpen →
      ∃ t, exec (.pointBindWrite p i data) s = .next t ∧ t.ptVal n = s.ptVal n ∧ t.ptQual n = Qual.notValid ∧ t.ptHP n = 16 ∧ t.get F.PT_STATUS_AGE n = 0xFFFF)) ∧
  (∀ (s : State) (p : Path) (a : Fin (2 ^ 24)) (n y z k : Nat) (data : Word),
    let w := s.who p
    let b := a.val / 4 * 4
    let writes (c : Instr) : Prop := exec (.registerWrite p a data) s = exec c s
    (n < 32768 → b = R.PT_VALUE.at n → writes (.pointValueWrite p n data .clean)) ∧
    (n < 32768 → b = R.PT_CONFIG.at n → writes (.pointConfigWrite p n data)) ∧
    (n < 32768 → b = R.PT_BIND.at n → writes (.pointBindWrite p n data)) ∧
    (n < 32768 → b = R.PT_STATUS.at n → s.doesPlain p (.registerWrite p a data) Res.applied id) ∧
    (n < 8192 → k < 16 → b = recAddr n k → writes (.loopRecordWrite p n k data)) ∧
    (b = R.SYS_PT_REL.at → writes (.pointRelinquish p data)) ∧
    (b = R.LE_SWAP.at → writes (.leSwap p data)) ∧
    (b = R.LE_SWG_CMD.at → F.LE_SWG_CMD_CANCEL.of data = 0 → writes (.leSwgRequest p data)) ∧
    (b = R.LE_SWG_CMD.at → F.LE_SWG_CMD_CANCEL.of data = 1 → writes (.leSwgCancel p data)) ∧
    (b = R.LE_STATE_SEL.at → F.LE_STATE_SEL_REINIT.of data = 0 → writes (.leStateSelWrite p data)) ∧
    (b = R.LE_STATE_SEL.at → F.LE_STATE_SEL_REINIT.of data = 1 → writes (.leStateReinit p data)) ∧
    (s.tstate w.tenant ≠ 0 → (y < 256 → k < 3 → b = profileAddr y k → writes (.profileWrite p y k data)) ∧
      (z < 512 → b = R.SYS_ZONE_CFG.at z → writes (.zoneCfgWrite p z data)) ∧
      (∀ r ∈ [R.SYS_UNMAPPED, R.SYS_PT_DBE_LAST, R.SYS_PT_ECC, R.SYS_D2D_STAT, R.SYS_XOVR, R.SYS_ID], b = r.at → ∀ fs, fieldsAt b = some fs →
        s.doesPlain p (.registerWrite p a data) Res.applied (fun u => u.setWord b (mergeWrite fs (u.word b) data)))) ∧
    (s.tstate w.tenant = 0 → b = R.SYS_UNMAPPED.at ∨ b = R.SYS_PT_DBE_LAST.at ∨ b = R.SYS_XOVR.at → s.doesPlain p (.registerWrite p a data) Res.refRights id)) ∧
  (∀ (s : State) (i : Nat) (upsets : List (Nat × Ecc)), i < 32768 → s.spaceWf →
    let u := s.ptFind i
    let age := min 0xFFFF (u.get F.PT_STATUS_AGE i + 1)
    ∃ t, exec (.pointAgeTick upsets) s = .next t ∧ t.get F.PT_STATUS_AGE i = age ∧
      t.ptQual i = (if s.ptKind i ≠ Kind.none_ ∧ u.ptHP i = 16 ∧ u.ptQual i = Qual.good ∧ s.ageMax i ≠ 0 ∧ s.ageMax i < age then Qual.stale else u.ptQual i) ∧
      t.ptVal i = u.ptVal i ∧ t.ptHP i = u.ptHP i ∧ t.get F.PT_STATUS_HOLDER i = u.get F.PT_STATUS_HOLDER i ∧
      ∀ r : Reg, r = R.PT_CONFIG ∨ r = R.PT_BIND → t.word (r.at i) = s.word (r.at i))

/-- SAFE_REL_ALL, SAFE_REL_COIL, SAFE_REL_FAN, SAFE_REL_AO, SAFE_REL_DO and SAFE_REL_ZBPWR (R35 to R37, R55).
GUARD_TRIP (R393), LE_FAULT_TIMER_EXPIRY (R139) and POWER_ACCESS_DROPPED (R46). -/
def Obligations.SafeStateRows : Prop :=
  (∀ (s : State) (p : Path) (data : Word),
    let w := s.who p
    let row (c : Instr) (f : Fld) : Prop :=
      let d := relWord f data
      (w.tenant ≠ 0 → s.pathOpen p → s.ringOpen → ∃ t, exec c s = .next t ∧ t.wres = Res.refRights ∧ t.safe = s.safe) ∧
      (w.tenant = 0 → s.pathOpen p → s.ringOpen → ∃ t, exec c s = .next t ∧
        (t.wres = Res.applied ↔ s.relRefused d = 0 ∧ s.pdReach = true) ∧
        ∀ k n, (k, n) ∈ s.outputs →
          if s.pdReach = true ∧ k ∈ relClasses d ∧ (s.safeOf k n).inSafe = true ∧ s.safePresent k n = false then
            (if k = Cls.zbPwr ∨ qualLive (s.ptQual (s.cmdPoint k n)) = true then (t.safeOf k n).inSafe = false
             else (t.safeOf k n).inSafe = true ∧ (t.safeOf k n).relPend = true)
          else t.safeOf k n = s.safeOf k n)
    (row (.safeRelAll p data) F.AON_SAFE_REL_ALL ∧ ∀ k ∈ [0, 1, 2, 3, 4], k ∈ relClasses (relWord F.AON_SAFE_REL_ALL data)) ∧
    (row (.safeRelCoil p data) F.AON_SAFE_REL_COIL ∧ ∀ k ∈ [0], k ∈ relClasses (relWord F.AON_SAFE_REL_COIL data)) ∧
    (row (.safeRelFan p data) F.AON_SAFE_REL_FAN ∧ ∀ k ∈ [1], k ∈ relClasses (relWord F.AON_SAFE_REL_FAN data)) ∧
    (row (.safeRelAo p data) F.AON_SAFE_REL_AO ∧ ∀ k ∈ [2], k ∈ relClasses (relWord F.AON_SAFE_REL_AO data)) ∧
    (row (.safeRelDo p data) F.AON_SAFE_REL_DO ∧ ∀ k ∈ [3], k ∈ relClasses (relWord F.AON_SAFE_REL_DO data)) ∧
    (row (.safeRelZbpwr p data) F.AON_SAFE_REL_ZBPWR ∧ ∀ k ∈ [4], k ∈ relClasses (relWord F.AON_SAFE_REL_ZBPWR data))) ∧
  (∀ s : State,
    (s.guardHot = true → s.bit F.FAN_GUARD_TRIP = false → ∃ t, exec .guardTrip s = .next t ∧ t.bit F.FAN_GUARD_TRIP = true ∧ t.get F.FAN_GUARD_PIN = 0 ∧
      t.get F.FAN_GUARD_CNT_TRIPS = min 0xFFFF (s.get F.FAN_GUARD_CNT_TRIPS + 1) ∧ t.bit F.AON_SAFE_STAT_GUARD = true ∧
      ∀ o ∈ allOutputs, (t.safeOf o.1 o.2).inSafe = true) ∧
    (∀ x, s.le.pdTimer = some x → s.le.cancel = false → ∃ t, exec .leFaultTimerExpiry s = .next t ∧ x ≤ t.now ∧ t.le.pdTimer = none ∧
      t.bit F.LE_LS_STAT_SAFE = true ∧ t.bit F.LE_LS_STAT_TIMER = false ∧ t.bit F.AON_SAFE_STAT_LEFAULT = true ∧
      ∀ o ∈ allOutputs, s.loopBound o.1 o.2 = true → (t.safeOf o.1 o.2).inSafe = true) ∧
    (∀ (p : Path) (a : Fin (2 ^ 24)) (data : Word), isPower a.val = true → s.linkUp = false → s.pathOpen p → s.ringOpen →
      (∃ t, exec (.powerAccessDropped p a false data) s = .next t ∧ t.rdata = 0 ∧ t.wres = Res.notApplied ∧
        t.get F.SYS_D2D_DROP_READS = min 0xFFFF (s.get F.SYS_D2D_DROP_READS + 1) ∧ ∀ b, isPower b = true → t.word b = s.word b) ∧
      (∃ t, exec (.powerAccessDropped p a true data) s = .next t ∧ t.wres = (if (s.who p).tenant = 0 then Res.notApplied else Res.refRights) ∧
        t.get F.SYS_D2D_DROP_WRITES = min 0xFFFF (s.get F.SYS_D2D_DROP_WRITES + 1) ∧ ∀ b, isPower b = true → t.word b = s.word b)))

/-- LOOP_RECORD_WRITE, LE_SWAP, LE_SWG_REQUEST, LE_SWG_CANCEL (R102, R163, R165), LE_STATE_SEL_WRITE, LE_STATE_REINIT,
LE_STATE_COPY (R148), LE_FAULT_NOTICE and LE_FAULT_TIMER_CANCEL (R139, R141). A RETIRED tenant selects and reads nothing (R602). -/
def Obligations.LoopPathRows : Prop :=
  ∀ (s : State) (p : Path) (n k : Nat) (v : Word),
    let w := s.who p
    let enters (c : Instr) (ask : LeAsk) (d : Word) : Prop := s.pathOpen p → ∃ t o, exec c s = .next t ∧ t.leFifo 0 = s.leFifo 0 ++ [o] ∧ o.ask = ask ∧
      o.tenant = w.tenant ∧ o.gen = s.gen w.tenant ∧ o.ifc = w.ifc ∧ o.data = d ∧ t.space = s.space ∧ t.log = s.log ∧ ∀ f, f ≠ 0 → t.leFifo f = s.leFifo f
    let m := F.LE_STATE_SEL_LOOP.of v
    enters (.loopRecordWrite p n k v) (.word (n % 8192) (k % 16) v) v ∧
    enters (.leSwap p v) (.swap (F.LE_SWAP_LOOP.of v) (F.LE_SWAP_BANK.of v)) v ∧
    enters (.leSwgRequest p v) (.group (setBits v 10 1 0)) (setBits v 10 1 0) ∧
    enters (.leSwgCancel p v) (.group (setBits v 10 1 1)) (setBits v 10 1 1) ∧
    (s.pathOpen p → w.tenant = 0 ∨ (w.tenant = s.leTenant m ∧ s.tstate w.tenant ≠ 0) → ∃ t, exec (.leStateSelWrite p v) s = .next t ∧ t.wres = Res.applied ∧
      t.get F.LE_STATE_SEL_LOOP = m ∧ t.bit F.LE_STATE_SEL_READY = false ∧ t.le.copy = some m ∧ t.log = s.log ∧ t.le.loops = s.le.loops) ∧
    (s.pathOpen p → w.tenant ≠ 0 → w.tenant ≠ s.leTenant m ∨ s.tstate w.tenant = 0 → ∃ t, exec (.leStateSelWrite p v) s = .next t ∧ t.wres = Res.refRights ∧
      t.bit F.LE_STATE_SEL_READY = false ∧ t.le.copy = none ∧ t.log = s.log) ∧
    (s.pathOpen p → s.ringOpen → s.mayAct w.tenant (s.leTenant m) = true → ∃ t, exec (.leStateReinit p v) s = .next t ∧ t.wres = Res.applied ∧
      (t.loop m).init = true ∧ t.le.copy = some m ∧ t.log.nextSeq = s.log.nextSeq + 1) ∧
    (s.pathOpen p → s.ringOpen → s.mayAct w.tenant (s.leTenant m) = false → ∃ t, exec (.leStateReinit p v) s = .next t ∧ t.wres = Res.refRights ∧
      t.le.loops = s.le.loops ∧ t.le.copy = none ∧ t.log.nextSeq = s.log.nextSeq + 1) ∧
    (∀ l, s.le.copy = some l → ∃ t, exec .leStateCopy s = .next t ∧ t.le.copy = none ∧ t.bit F.LE_STATE_SEL_READY = true ∧
      t.word R.LE_STATE_I.at = (s.loop l).iPrev ∧ t.word R.LE_STATE_D.at = (s.loop l).dPrev ∧ t.word R.LE_STATE_Y.at = (s.loop l).yPrev ∧
      t.word R.LE_STATE_U.at = (s.loop l).uPrev ∧ t.word R.LE_STATE_FLAGS.at = (s.loop l).flags ∧ t.word R.LE_STATE_SCHED.at = (s.loop l).sched) ∧
    (s.le.notice = true → s.pdReach = true →
      exec .leFaultNotice s = .next { s with le := { s.le with notice := false, pdTimer := some (s.now + 3000000) } }) ∧
    (s.le.cancel = true → s.pdReach = true →
      exec .leFaultTimerCancel s = .next { s with le := { s.le with cancel := false, notice := false, pdTimer := none } })

/-- LOOP_RECORD_APPLY, SWAP_REQUEST_APPLY, GROUP_REQUEST_APPLY, LOOP_REINIT_APPLY, LX_FORCE_APPLY and
LX_RELINQUISH_APPLY (R102, R133, R135, R162 to R166, R186, R206, R207, R211). Nothing crosses while a function reset of the engine
runs (R721). `room g` is FIFO g once its head is taken: a core that waited for a place in it goes on. -/
def Obligations.LoopRequestApplyRows : Prop :=
  ∀ (s : State) (f : Fin 5) (k : Fin 4) (op : LeOp) (rest : List LeOp),
    let room (g : Nat) : List LeOp := ((s.setFifo g rest).lxRoom g).leFifo g
    let live (g : Nat) : Prop := s.leFifo g = op :: rest ∧ s.le.rst = false ∧ s.ringOpen ∧ op.ifc ≠ 0 ∧ op.tenant < 256 ∧ (g = 0 ∨ (s.bit F.LE_LS_STAT_FAULT = false ∧ op.gen = s.gen op.tenant))
    let done (c : Instr) (g : Nat) (post : State → Prop) : Prop := ∃ t, exec c s = .next t ∧ t.leFifo g = room g ∧
      (g = 0 ∨ ((s.core (g - 1)).wait ≠ some .fifo ∧ (s.core (g - 1)).wait ≠ some .retire) → t.leFifo g = rest) ∧ t.log.nextSeq = s.log.nextSeq + 1 ∧ post t
    let acked (t : State) (r : Res) : Prop := (t.core k).acks = (s.core k).acks ++ [(op.run, r)]
    (live f → ∀ n j v, op.ask = .word n j v → j < 16 →
      let n := n % 8192
      (s.recDecide op.tenant n j v = Res.applied → done (.loopRecordApply f) f (fun t => t.wres = Res.applied ∧ t.recWord n j = s.recMerge n j v)) ∧
      (s.recDecide op.tenant n j v ≠ Res.applied → done (.loopRecordApply f) f (fun t => t.wres = s.recDecide op.tenant n j v ∧ t.recWord n j = s.recWord n j))) ∧
    (live f → ∀ n b, op.ask = .swap n b →
      let n := n % 8192
      (s.mayAct op.tenant (s.leTenant n) = true → done (.swapRequestApply f) f (fun t => (t.loop n).pend = if b % 2 = s.leBank n then none else some (b % 2))) ∧
      (s.mayAct op.tenant (s.leTenant n) = false → done (.swapRequestApply f) f (fun t => t.wres = Res.refRights ∧ t.le.loops = s.le.loops))) ∧
    (live f → ∀ x, op.ask = .group x →
      let g := F.LE_SWG_CMD_GROUP.of x
      (s.groupDecide op.tenant x = Res.applied → F.LE_SWG_CMD_CANCEL.of x = 0 → done (.groupRequestApply f) f (fun t => t.bit F.LE_SWG_STAT_PEND g = true ∧
        t.get F.LE_SWG_STAT_BANK g = F.LE_SWG_CMD_BANK.of x ∧ t.get F.LE_SWG_STAT_ALIGN g = F.LE_SWG_CMD_ALIGN.of x ∧
        t.word (R.LE_SWG_T.at g) = Word.ofN (s.frame + F.LE_SWG_CMD_DELAY.of x))) ∧
      (s.groupDecide op.tenant x = Res.applied → F.LE_SWG_CMD_CANCEL.of x = 1 → s.bit F.LE_SWG_STAT_PEND g = true → done (.groupRequestApply f) f (fun t =>
        let last := (s.le.swgLast.lookup g).getD (0, 0, 0)
        t.bit F.LE_SWG_STAT_PEND g = false ∧ t.get F.LE_SWG_STAT_ALIGN g = last.1 % 2 ∧ t.get F.LE_SWG_STAT_BANK g = last.2.1 % 2 ∧
        t.word (R.LE_SWG_T.at g) = Word.ofN last.2.2)) ∧
      (s.groupDecide op.tenant x = Res.applied → F.LE_SWG_CMD_CANCEL.of x = 1 → s.bit F.LE_SWG_STAT_PEND g = false → done (.groupRequestApply f) f (fun t =>
        t.word (R.LE_SWG_STAT.at g) = s.word (R.LE_SWG_STAT.at g) ∧ t.word (R.LE_SWG_T.at g) = s.word (R.LE_SWG_T.at g))) ∧
      (s.groupDecide op.tenant x ≠ Res.applied → done (.groupRequestApply f) f (fun t => t.word (R.LE_SWG_STAT.at g) = s.word (R.LE_SWG_STAT.at g)))) ∧
    (live (k + 1) → ∀ n, op.ask = .reinit n → s.mayAct op.tenant (s.leTenant (n % 8192)) = true →
      done (.loopReinitApply k) (k + 1) (fun t => (t.loop (n % 8192)).init = true ∧ acked t Res.applied)) ∧
    (live (k + 1) → ∀ n prio v, op.ask = .force n prio v →
      let out := s.get F.LE_REC_OUT_OUT (n % 8192)
      (1 ≤ prio → prio ≤ 4 → (s.ptFind out).ptResult out .write op.tenant prio v = Res.applied →
        done (.lxForceApply k) (k + 1) (fun t => t.ptVal out = v ∧ t.ptQual out = Qual.forced ∧ t.ptHP out = prio ∧ acked t Res.applied)) ∧
      (prio < 1 ∨ 4 < prio → done (.lxForceApply k) (k + 1) (fun t => t.ptVal out = s.ptVal out ∧ t.ptStat out = s.ptStat out ∧ acked t Res.refRange))) ∧
    (live (k + 1) → ∀ n prio, op.ask = .release n prio →
      let out := s.get F.LE_REC_OUT_OUT (n % 8192)
      (s.ptFind out).ptResult out .relinquish op.tenant prio 0 = Res.relinquished →
        done (.lxRelinquishApply k) (k + 1) (fun t => t.ptVal out = (s.ptFind out).ptVal out ∧ t.ptHP out = 16 ∧ acked t Res.relinquished)) ∧
    (s.le.rst = true → exec (.loopRecordApply f) s = .next s ∧ exec (.swapRequestApply f) s = .next s ∧ exec (.groupRequestApply f) s = .next s ∧
      exec (.loopReinitApply k) s = .next s ∧ exec (.lxForceApply k) s = .next s ∧ exec (.lxRelinquishApply k) s = .next s)

/-- LOOP_EVALUATION (R101, R103 to R113, R138, R156 to R160). `u` is the state latched: the slot is used, and what the ECC of
the record, the state words and the three points finds is done (R68, R137); `law` is the arithmetic of R107, R110 or R112 on it.
Then R107 and R109 worked by hand: e = 1, p = 2, inc = 0.5, so 3.5 + 2 = 5.5 within 5 ± 10; with RATE 0.25 the raw output
exceeds 5.25, the rise is frozen, and 3 + 2 = 5. -/
def Obligations.LoopEvaluationOutcomes : Prop :=
  (∀ (s : State) (n : Nat) (rest : List Nat) (ecc : LeEcc), s.le.retry = none → s.le.due = n :: rest → n < 8192 →
    let a := (({ s with le := { s.le with due := rest } }.leSlot.leRecEcc n ecc.record).leStateEcc n ecc.state)
    let b := a.ptEcc (a.get F.LE_REC_PTS_PV n) ecc.pv
    let c := b.ptEcc (b.get F.LE_REC_PTS_SP n) ecc.sp
    let u := c.ptEcc (c.get F.LE_REC_OUT_OUT n) ecc.out
    let oc := u.leDecide n
    let l := u.loop n
    let y := u.ptVal (u.get F.LE_REC_PTS_PV n)
    let r := u.ptVal (u.get F.LE_REC_PTS_SP n)
    let out := u.get F.LE_REC_OUT_OUT n
    let tn := u.leTenant n
    let intime := 1000 + 6 * s.le.slots + 12 ≤ s.leDeadline n
    let done (post : State → Prop) : Prop := ∃ t, exec (.loopEvaluation ecc none) s = .next t ∧ t.le.due = rest ∧ t.le.slots = s.le.slots + 1 ∧ t.le.retry = none ∧ post t
    let still (v t : State) : Prop := (t.loop n).iPrev = (v.loop n).iPrev ∧ (t.loop n).dPrev = (v.loop n).dPrev ∧ (t.loop n).yPrev = (v.loop n).yPrev ∧
      (t.loop n).uPrev = (v.loop n).uPrev
    let law := if oc = Oc.evaluated then u.lawEvaluated n y r else if oc = Oc.initialised then u.lawInitialised n y r (u.ptVal out) (u.ptQual out)
      else u.lawTracked n y r (u.ptVal out)
    (intime → oc = Oc.disabled → done (fun t => still u t ∧ (t.loop n).last = l.last ∧ t.le.oq = s.le.oq)) ∧
    (intime → 3 ≤ oc → oc ≤ 8 → done (fun t => still u t ∧ (t.loop n).last = some oc ∧ (t.loop n).outcome = oc ∧ (t.loop n).holds = satAdd 16 l.holds 1 ∧
      (t.loop n).restart = (l.restart || !l.init) ∧ t.le.oq = s.le.oq)) ∧
    (intime → oc ≤ 2 → law.ok = false → done (fun t => still u t ∧ (t.loop n).last = some Oc.holdNumeric ∧ t.le.oq = s.le.oq ∧
      t.get F.LE_NUM_COUNT = min 0xFFFF (s.get F.LE_NUM_COUNT + 1))) ∧
    (intime → oc = Oc.tracked → law.ok = true → done (fun t => (t.loop n).last = some oc ∧ t.le.oq = s.le.oq ∧ (t.loop n).yPrev = y ∧
      (t.loop n).uPrev = fMinV (fMaxV (u.ptVal out) (u.recWord n 5)) (u.recWord n 6))) ∧
    (intime → oc ≤ 1 → law.ok = true → ∃ x, law.u = some x ∧ done (fun t => (t.loop n).last = some oc ∧ t.le.oq = s.le.oq ++ [⟨n, out, x, tn, s.gen tn⟩] ∧
      (t.loop n).uPrev = x ∧ (t.loop n).yPrev = y)) ∧
    (intime → ∀ p : Fin 4, ∃ t, exec (.loopEvaluation ecc (some p)) s = .next t ∧ t.le.due = rest ∧ t.le.loops = u.le.loops ∧ t.le.oq = s.le.oq ∧
      ∃ ev, t.le.retry = some (ev, p.val) ∧ ev.loop = n ∧ (3 ≤ oc → oc ≤ 9 → ev.outcome = oc ∧ ev.u = none)) ∧
    (¬intime → ∀ d, ∃ t, exec (.loopEvaluation ecc d) s = .next t ∧ t.le.due = rest ∧ (t.loop n).miss = true ∧ still s t ∧ t.le.slots = s.le.slots ∧
      t.le.oq = s.le.oq ∧ t.get F.LE_MISS_COUNT = min 0xFFFF (s.get F.LE_MISS_COUNT + 1))) ∧
  (let rec0 (rate : Word) : State := ((((((((State.reset.setWord (recAddr 0 3) 0x00000064).setWord (recAddr 0 5) 0).setWord (recAddr 0 6) 0x42C80000).setWord (recAddr 0 7) rate).setWord
      (recAddr 0 9) 0x40000000).setWord (recAddr 0 10) 0x3F000000).setWord (recAddr 0 11) 0).setWord (recAddr 0 15) 0x000000FF).setLoop 0
      { iPrev := 0x40400000, uPrev := 0x40A00000, yPrev := 0x3F800000, init := false }
    let x := (rec0 0x41200000).lawEvaluated 0 0x3F800000 0x40000000
    let y := (rec0 0x3E800000).lawEvaluated 0 0x3F800000 0x40000000
    x.ok = true ∧ x.u = some 0x40B00000 ∧ x.st.iPrev = 0x40600000 ∧ x.st.frozen = false ∧
      y.ok = true ∧ y.u = some 0x40A00000 ∧ y.st.rateLim = false ∧ y.st.frozen = true ∧ y.st.iPrev = 0x40400000)

/-- LE_FRAME_BOUNDARY (R141, R152 to R156, R176), LOCKSTEP_REPEAT (R138, R139), OUTPUT_QUEUE_DRAIN and OQ_TREND_TIMEOUT (R171
to R173); `u` is the state after what the ECC of the output's record finds (R68). -/
def Obligations.LoopFrameRows : Prop :=
  ∀ s : State,
    (s.spaceWf → ∃ t, exec .leFrameBoundary s = .next t ∧ t.frame = (if s.le.started then (s.frame + 1) % 2 ^ 48 else 0) ∧ t.le.started = true ∧ t.le.slots = 0 ∧
      t.le.frameAt = (if s.le.started then s.le.frameAt + 10000 else s.now) ∧ t.le.frameAt ≤ t.now ∧ t.word R.LE_TICK.at = Word.ofN t.frame ∧
      t.get F.LE_FRAME_STAT_SLOTS = s.le.slots % 65536 ∧
      (s.bit F.LE_LS_STAT_FAULT = true ∨ s.le.rst = true → t.le.due = []) ∧
      (s.bit F.LE_LS_STAT_FAULT = false → s.le.rst = false → ∀ n < 8192, n ∈ t.le.due ↔ t.bit F.LE_REC_CTRL_EN n = true ∧ t.leBoundary n t.frame = true)) ∧
    (∀ ev part, s.le.retry = some (ev, part) → ev.loop < 8192 → part < 4 →
      (∃ t, exec (.lockstepRepeat true) s = .next t ∧ t.le.retry = none ∧ t.le.slots = s.le.slots + 1 ∧
        t.get F.LE_LS_RETRY_COUNT = min 0xFFFF (s.get F.LE_LS_RETRY_COUNT + 1) ∧ (t.loop ev.loop).iPrev = ev.st.iPrev ∧ (t.loop ev.loop).uPrev = ev.st.uPrev ∧
        t.le.oq = s.le.oq ++ (match ev.u with | some u => [⟨ev.loop, ev.out, u, ev.tenant, ev.gen⟩] | none => [])) ∧
      (∃ t, exec (.lockstepRepeat false) s = .next t ∧ t.le.retry = none ∧ t.bit F.LE_LS_STAT_FAULT = true ∧ t.bit F.LE_LS_STAT_TIMER = true ∧
        t.get F.LE_LS_STAT_FAULT_LOOP = ev.loop ∧ t.le.due = [] ∧ t.le.notice = true ∧ t.le.oq = s.le.oq ∧ t.le.loops = s.le.loops ∧ t.ic.pendOf 104 = true)) ∧
    (∀ agree, s.le.retry = none → exec (.lockstepRepeat agree) s = .next s) ∧
    (∀ ecc d, s.le.retry.isSome = true ∨ s.le.due = [] → exec (.loopEvaluation ecc d) s = .next s) ∧
    (∀ e rest, s.le.oq = e :: rest → e.point < 32768 → e.tenant < 256 →
      let u := s.ptFind e.point
      (s.oqBlocked = true → exec .outputQueueDrain s = .next s) ∧
      (s.oqBlocked = false → e.gen ≠ s.gen e.tenant → ∃ t, exec .outputQueueDrain s = .next t ∧ t.le.oq = rest ∧ t.ptVal e.point = s.ptVal e.point ∧
        t.get F.TEN_CNT_DISC_GEN e.tenant = min 0xFFFF (s.get F.TEN_CNT_DISC_GEN e.tenant + 1)) ∧
      (u.ptBroken e.point = false → s.word (R.PT_BIND.at e.point) = bindWord Kind.loop e.loop → u.ptHP e.point = 16 →
        (s.oqBlocked = false → e.gen = s.gen e.tenant → ∃ t, exec .outputQueueDrain s = .next t ∧ t.le.oq = rest ∧ t.ptVal e.point = e.value ∧
          t.ptQual e.point = (if fFinite e.value = true then Qual.good else Qual.fault)) ∧
        (s.oqBlocked = true → ∃ t, exec .oqTrendTimeout s = .next t ∧ t.le.oq = rest ∧ t.ptVal e.point = e.value ∧
          t.get F.LE_OQ_TREND_DROP = min 0xFFFF (s.get F.LE_OQ_TREND_DROP + s.oqOver) ∧ (64 ≤ s.log.trend.length → t.log.trend = s.log.trend))))

/-- TENANT_RETIRE and TENANT_ENABLE (R602, R603, R607, R621). TENANT_RESET_REQUEST, TENANT_RESET_START, TENANT_HOLD_END
and QUOTA_WINDOW (R616 to R620). -/
def Obligations.TenantLifecycleRows : Prop :=
  (∀ (s : State) (p : Path) (t : Fin 256) (data : Word),
    let w := s.who p
    let a := R.TEN_CTX_CFG.at t.val
    let fields (d : Word) : Prop := F.TEN_CTX_CFG_HOLD_T.of d ≤ 600
    s.pathOpen p → s.ringOpen →
    (w.tenant = 0 → t ≠ 0 → s.tstate t ≠ 0 → s.tenantBusy t = false → fields data → ∃ u, exec (.tenantRetire p t data) s = .next u ∧ u.wres = Res.applied ∧
      u.tstate t = 0 ∧ (∀ k < 8, u.word (R.TEN_WIN_A.at t k) = 0 ∧ u.word (R.TEN_WIN_B.at t k) = 0) ∧ (u.tctx t).ev = [] ∧ (u.tctx t).er = [] ∧
      u.qMin .cmd t = 0 ∧ u.qMin .evt t = 0 ∧ u.qMin .err t = 0 ∧ u.gen t = s.gen t ∧ F.TEN_CTX_CFG_HOLD_T.of (u.word a) = F.TEN_CTX_CFG_HOLD_T.of data) ∧
    (w.tenant = 0 → t ≠ 0 → s.tstate t ≠ 0 → s.tenantBusy t = true → fields data → ∃ u, exec (.tenantRetire p t data) s = .next u ∧ u.wres = Res.refConfig ∧
      u.tstate t = s.tstate t ∧ u.word a = s.word a ∧ u.ten = s.ten) ∧
    (w.tenant = 0 → t ≠ 0 → s.tstate t = 0 → fields data → ∃ u, exec (.tenantEnable p t data) s = .next u ∧ u.wres = Res.applied ∧
      u.tstate t = 1 ∧ u.gen t = (s.gen t + 1) % 256 ∧ u.word (R.TEN_CNT.at t) = 0 ∧ u.word (R.TEN_CNT2.at t) = 0 ∧ u.word (R.TEN_Q_DROP.at t) = 0 ∧
      (u.tctx t).evSeq = 0 ∧ (u.tctx t).erSeq = 0) ∧
    (w.tenant ≠ 0 → s.refuses p (.tenantRetire p t data) a (setBits data 31 1 0) Res.refRights ∧
      s.refuses p (.tenantEnable p t data) a (setBits data 31 1 1) Res.refRights)) ∧
  (∀ (s : State) (t : Fin 256),
    let began (u : State) : Prop := u.tstate t = 2 ∧ u.gen t = (s.gen t + 1) % 256 ∧ (u.tctx t).cq = [] ∧
      u.get F.TEN_CTX_STAT_RESETS t = min 255 (s.get F.TEN_CTX_STAT_RESETS t + 1) ∧ u.bit F.TEN_CTX_STAT_PEND t = false ∧ (u.tctx t).resetAt = some u.now
    (∀ p, (s.who p).tenant = 0 → t ≠ 0 → s.tstate t ≠ 0 → s.pathOpen p → s.ringOpen →
      ((∀ x, (s.tctx t).resetAt = some x → x + 1000000 ≤ s.now) → ∃ u, exec (.tenantResetRequest p t) s = .next u ∧ u.wres = Res.applied ∧ began u) ∧
      (∀ x, (s.tctx t).resetAt = some x → s.now < x + 1000000 → ∃ u, exec (.tenantResetRequest p t) s = .next u ∧ u.wres = Res.applied ∧
        u.bit F.TEN_CTX_STAT_PEND t = true ∧ u.tstate t = s.tstate t ∧ u.gen t = s.gen t)) ∧
    (∀ p, (s.who p).tenant ≠ 0 → s.refuses p (.tenantResetRequest p t) (R.TEN_RESET.at t) 1 Res.refRights) ∧
    (t ≠ 0 → s.bit F.TEN_CTX_STAT_PEND t = true → ∃ u, exec (.tenantResetStart t) s = .next u ∧ began u ∧ (s.tctx t).resetAt.getD 0 + 1000000 ≤ u.now) ∧
    (t ≠ 0 → s.tstate t = 2 → ∃ u, exec (.tenantHoldEnd t) s = .next u ∧ u.tstate t = 1 ∧ u.gen t = s.gen t ∧
      (s.tctx t).resetAt.getD 0 + 100000 * s.get F.TEN_CTX_CFG_HOLD_T t ≤ u.now ∧
      u.get F.TEN_QRC_USED_USED t = 0 ∧ u.get F.TEN_QLOG_USED_USED t = 0 ∧ u.bit F.TEN_CTX_STAT_THROTTLED t = false) ∧
    (s.le.windowDue = false → exec .quotaWindow s = .next s) ∧
    (s.spaceWf → s.le.windowDue = true → ∃ u, exec .quotaWindow s = .next u ∧ u.le.windowDue = false ∧ u.get F.TEN_QLOG_USED_USED t = 0 ∧
      u.get F.TEN_QRC_USED_USED t = s.get F.TEN_QRC_USED_USED t - s.get F.TEN_QRC_LIMIT t ∧ u.bit F.TEN_CTX_STAT_THROTTLED t = false ∧
      u.tstate t = s.tstate t ∧ u.gen t = s.gen t))

/-- EVENT_QUEUE_POP, ERROR_QUEUE_POP (R609), COMMAND_PUSH (R611) and DOORBELL_RING (R614). -/
def Obligations.TenantQueueRows : Prop :=
  ∀ (s : State) (p : Path) (t : Fin 256) (data : Word),
    let w := s.who p
    let own := (w.tenant = 0 ∨ w.tenant = t) ∧ (w.tenant = 0 ∨ s.tstate t ≠ 0)
    let x := s.tctx t
    let n := data.toNat % 65536
    let b := s.bank w.bank
    let c := b.cmd w.ifc (s.gen w.tenant)
    let y := s.tctx w.tenant
    let d := F.TEN_DB_RING_DB.of data
    let pushed (r : Nat) (q : List CmdEntry) (res : Res) : Prop := ∃ u, exec (.commandPush p data) s = .next u ∧ u.wres = res ∧ (u.bank w.bank).cqRes = r ∧
      (u.tctx w.tenant).cq = q ∧ u.log = s.log ∧ u.space = s.space
    s.pathOpen p →
    (own → s.doesPlain p (.eventQueuePop p t data) Res.applied (fun u => u.setTctx t { x with ev := popHead x.ev n })) ∧
    (own → s.doesPlain p (.errorQueuePop p t data) Res.applied (fun u => u.setTctx t { x with er := popHead x.er n })) ∧
    (¬own → s.refuses p (.eventQueuePop p t data) (R.TEN_EQ_POP.at t) data Res.refRights ∧
      s.refuses p (.errorQueuePop p t data) (R.TEN_XQ_POP.at t) data Res.refRights) ∧
    (data.getLsbD 0 = true →
      (s.tstate w.tenant = 1 → 1 ≤ c.op → c.op ≤ 6 → s.qRoom .cmd w.tenant = true → s.throttled w.tenant = false → pushed 0 (y.cq ++ [c]) Res.applied) ∧
      (s.tstate w.tenant = 1 → 1 ≤ c.op → c.op ≤ 6 → s.qRoom .cmd w.tenant = true → s.throttled w.tenant = true → ∃ u, exec (.commandPush p data) s = .next u ∧ u.wres = Res.applied ∧
        (u.bank w.bank).cqRes = 0 ∧ u.log = s.log ∧ (u.tctx w.tenant).cq = (y.cq ++ [c]).map (fun e => { e with delayed := true }) ∧
        u.get F.TEN_CNT_THROTTLED w.tenant = min 0xFFFF (s.get F.TEN_CNT_THROTTLED w.tenant + ((y.cq ++ [c]).filter (fun e => !e.delayed)).length)) ∧
      (s.tstate w.tenant = 1 → 1 ≤ c.op → c.op ≤ 6 → s.qRoom .cmd w.tenant = false → pushed 1 y.cq Res.applied) ∧
      (s.tstate w.tenant ≠ 1 → pushed 2 y.cq Res.refRights) ∧
      (s.tstate w.tenant = 1 → c.op < 1 ∨ 6 < c.op → pushed 3 y.cq Res.applied)) ∧
    (w.tenant = 0 ∨ (s.get F.TEN_DB_CFG_OWNER d = w.tenant ∧ s.tstate w.tenant ≠ 0) → ∃ u, exec (.doorbellRing p data) s = .next u ∧ u.wres = Res.applied ∧ u.log = s.log ∧
      u.ic.pendOf (200 + d) = true) ∧
    (w.tenant ≠ 0 → s.get F.TEN_DB_CFG_OWNER d ≠ w.tenant ∨ s.tstate w.tenant = 0 → s.refuses p (.doorbellRing p data) (R.TEN_DB_RING.at) data Res.refRights)

/-- CMD_PWRITE, CMD_PREL, CMD_LWORD, CMD_LSWAP, CMD_REMOTE and CMD_RING (R507, R612, R615). -/
def Obligations.CommandExecutorRows : Prop :=
  ∀ (s : State) (t : Nat) (e : CmdEntry) (r : List CmdEntry),
    (∀ u, s.throttled u = false) → s.exPick = some t → (s.tctx t).cq = e :: r → s.ringOpen → e.ifc ≠ 0 →
    -- a record that throttles the tenant marks what waits behind (R620)
    let waiting (e : CmdEntry) : CmdEntry := { e with delayed := false }
    let ends (c : Instr) (post : State → Prop) : Prop := ∃ u, exec c s = .next u ∧ (u.tctx t).cq.map waiting = r.map waiting ∧ u.exLast = t ∧ post u
    let live := e.gen = s.gen t
    let op (k : LeAsk) (u : State) : Prop := ∃ o : LeOp, u.leFifo 0 = s.leFifo 0 ++ [o] ∧ o.ask = k ∧ o.tenant = t ∧ o.gen = e.gen ∧ o.data = e.value ∧ o.cmd = some (e.cookie, e.op, e.notify)
    (e.gen ≠ s.gen t → ∀ c, (e.op = 1 ∧ c = .cmdPwrite) ∨ (e.op = 2 ∧ c = .cmdPrel) ∨ (e.op = 3 ∧ c = .cmdLword) ∨ (e.op = 4 ∧ c = .cmdLswap) ∨
        (e.op = 5 ∧ c = .cmdRemote) ∨ (e.op = 6 ∧ c = .cmdRing) →
      ends c (fun u => u.get F.TEN_CNT_DISC_GEN t = min 0xFFFF (s.get F.TEN_CNT_DISC_GEN t + 1) ∧ u.log = s.log)) ∧
    (live → e.op = 1 → e.index < 32768 → (s.ptFind e.index).ptResult e.index .write t e.prio e.value = Res.applied →
      ends .cmdPwrite (fun u => u.ptVal e.index = e.value ∧ u.ptQual e.index = (if e.prio ≤ 4 then Qual.forced else Qual.good) ∧ u.log.nextSeq = s.log.nextSeq + 1)) ∧
    (live → e.op = 2 → e.index < 32768 → (s.ptFind e.index).ptResult e.index .relinquish t e.prio e.value = Res.relinquished →
      ends .cmdPrel (fun u => u.ptVal e.index = (s.ptFind e.index).ptVal e.index ∧ u.ptHP e.index = 16 ∧ u.log.nextSeq = s.log.nextSeq + 1)) ∧
    (live → e.op = 3 → e.index < 8192 → e.word < 16 → ends .cmdLword (op (.word e.index e.word e.value))) ∧
    (live → e.op = 4 → e.index < 8192 → ends .cmdLswap (op (.swap e.index (e.value.toNat % 2)))) ∧
    (live → e.op = 5 → e.cpid < 2 ^ 25 → 1 ≤ e.prio → e.prio < 16 → e.cpid / 32768 % 1024 ≠ s.deviceId → s.reachable (e.cpid / 32768 % 1024) = true → s.bit F.CL_FORM_STAT_ISOLATED = false → ∀ n, s.freeTag = some n →
      ends .cmdRemote (fun u => u.cl.lastTag = n ∧ ∃ g, u.cl.tags.lookup n = some g ∧ g.tenant = t ∧ g.gen = e.gen ∧ g.prio = e.prio ∧ g.value = e.value)) ∧
    (live → e.op = 6 → e.index < 16 → t = 0 ∨ s.get F.TEN_DB_CFG_OWNER e.index = t →
      ends .cmdRing (fun u => u.ic.pendOf (200 + e.index) = true ∧ u.log.nextSeq = s.log.nextSeq + 1))

/-- IC_LINE_CHANGE, IC_EVENT_PULSE, IC_PEND_SET, IC_PEND_CLR, IC_EN_SET and IC_EN_CLR (R631 to R636, R648, R719).
IC_OFFER_LATCH, IC_CLAIM, IC_COMPLETE (R637 to R643, R647) and SK0_INTERRUPT_TAKE (R216). -/
def Obligations.InterruptRows : Prop :=
  (∀ (s : State) (n : Fin 256) (p : Path) (k : Fin 8) (data : Word) (cycles : Nat),
    let w := s.who p
    let bits (f : Nat → Bool) (g : Nat → Bool) : Prop := ∀ i, i < 256 → f i = g i
    let named (i : Nat) : Bool := i / 32 == k.val && data.getLsbD (i % 32)
    (srcKind n = .line → (srcPower n = true → s.linkUp = true) →
      let c := (s.ic.counts.lookup n.val).getD (0, 0)
      let period := if s.bit F.IC_SRC_CFG_PRESC n = true then 16 else 1
      let m := c.1 + (c.2 + cycles) / period
      (s.lineLevel n ≠ s.ic.line.getLsbD n → s.get F.IC_SRC_CFG_FILT n < m → ∃ t, exec (.icLineChange n cycles) s = .next t ∧ t.ic.counts.lookup n.val = none ∧
        (∀ i, i < 256 → t.ic.line.getLsbD i = if i = n.val then s.lineLevel n else s.ic.line.getLsbD i) ∧
        t.ic.pendOf n = ((s.lineLevel n && !s.ic.active.getLsbD n) || s.ic.swp.getLsbD n)) ∧
      (s.lineLevel n ≠ s.ic.line.getLsbD n → m ≤ s.get F.IC_SRC_CFG_FILT n → ∃ t, exec (.icLineChange n cycles) s = .next t ∧ t.ic.line = s.ic.line ∧
        t.ic.counts.lookup n.val = some (m, (c.2 + cycles) % period) ∧ t.space = s.space) ∧
      (s.lineLevel n = s.ic.line.getLsbD n → ∃ t, exec (.icLineChange n cycles) s = .next t ∧ t.ic.line = s.ic.line ∧ t.ic.counts.lookup n.val = none ∧ t.space = s.space)) ∧
    (srcKind n ≠ .line ∨ (srcPower n = true ∧ s.linkUp = false) → exec (.icLineChange n cycles) s = .next s) ∧
    (srcKind n = .event → ∃ t, exec (.icEventPulse n none) s = .next t ∧ t.ic.pendOf n = true ∧
      t.get F.IC_CNT_MERGED = (if s.ic.pendOf n = true then min (2 ^ F.IC_CNT_MERGED.w - 1) (s.get F.IC_CNT_MERGED + 1) else s.get F.IC_CNT_MERGED)) ∧
    (srcKind n = .event → ∀ g : Fin 11, ∃ t, exec (.icEventPulse n (some g)) s = .next t ∧ t.ic.pendOf n = true ∧ t.ic.pendOf 126 = true ∧
      (t.word R.SYS_XOVR.at).getLsbD g = true ∧ t.get F.SYS_XCNT_MERGED = min (2 ^ F.SYS_XCNT_MERGED.w - 1) (s.get F.SYS_XCNT_MERGED + 1)) ∧
    (w.tenant = 0 → s.pathOpen p →
      (∃ t, exec (.icPendSet p k data) s = .next t ∧ t.wres = Res.applied ∧ t.log = s.log ∧
        ∀ i, i < 256 → srcKind i ≠ .line → t.ic.pendOf i = (s.ic.pendOf i || named i)) ∧
      (∃ t, exec (.icPendClr p k data) s = .next t ∧ t.wres = Res.applied ∧ t.log = s.log ∧
        ∀ i, i < 256 → srcKind i ≠ .line → t.ic.pendOf i = (s.ic.pendOf i && !named i))) ∧
    (data = 0 → let res := if w.tenant = 0 then Res.applied else Res.refRights
      s.doesPlain p (.icEnSet p k data) res id ∧ s.doesPlain p (.icEnClr p k data) res id) ∧
    (w.tenant = 0 → s.pathOpen p → s.ringOpen → data ≠ 0 →
      (∃ t, exec (.icEnSet p k data) s = .next t ∧ t.wres = Res.applied ∧ t.log.nextSeq = s.log.nextSeq + 1 ∧
        bits t.ic.en.getLsbD (fun i => s.ic.en.getLsbD i || named i)) ∧
      (∃ t, exec (.icEnClr p k data) s = .next t ∧ t.wres = Res.applied ∧ t.log.nextSeq = s.log.nextSeq + 1 ∧
        bits t.ic.en.getLsbD (fun i => s.ic.en.getLsbD i && !named i))) ∧
    (w.tenant ≠ 0 →
      s.refuses p (.icPendSet p k data) (R.IC_PEND_SET.at k) data Res.refRights ∧
      s.refuses p (.icPendClr p k data) (R.IC_PEND_CLR.at k) data Res.refRights ∧
      (data ≠ 0 → s.does p (.icEnSet p k data) (Tgt.reg (R.IC_EN_SET.at k) (bvWord s.ic.en k) data) Res.refRights id ∧
        s.does p (.icEnClr p k data) (Tgt.reg (R.IC_EN_CLR.at k) (bvWord s.ic.en k) data) Res.refRights id))) ∧
  (∀ (s : State) (p : Path) (t : Fin 8) (data : Word),
    let w := s.who p
    let reads (c : Nat) (post : State → Prop) : Prop := ∃ u, exec (.icClaim p t) s = .next u ∧ u.rdata = Word.ofN c ∧ u.offer t = none ∧ post u
    let host := t.val = 0 ∨ 4 ≤ t.val
    let n := F.IC_TGT_COMPLETE_SRC.of data
    (s.offer t = none → (∃ m < 256, s.eligible m t = true) → ∃ u m, exec (.icOfferLatch t) s = .next u ∧ u.offer t = some ⟨m, false⟩ ∧
      s.eligible m t = true ∧ ∀ x < 256, s.eligible x t = true → s.icPrio x < s.icPrio m ∨ (s.icPrio x = s.icPrio m ∧ m ≤ x)) ∧
    (s.pathOpen p → s.icMay w t = true → host →
      (s.offer t = none → reads 0x3FC (fun u => u.ic = s.ic)) ∧
      (∀ o, s.offer t = some o → o.src < 256 → s.eligible o.src t = true → reads o.src (fun u => u.ic.active.getLsbD o.src = true ∧
        u.ic.owner.lookup o.src = some t.val ∧ (srcKind o.src ≠ .line → u.ic.pendOf o.src = false))) ∧
      (∀ o, s.offer t = some o → s.eligible o.src t = false → o.taken = true → reads 0x3FE (fun u => u.ic.active = s.ic.active ∧
        u.get F.IC_TGT_CNT_TAKEN t = min (2 ^ F.IC_TGT_CNT_TAKEN.w - 1) (s.get F.IC_TGT_CNT_TAKEN t + 1))) ∧
      (∀ o, s.offer t = some o → s.eligible o.src t = false → o.taken = false → reads 0x3FF (fun u => u.ic.active = s.ic.active ∧
        u.get F.IC_TGT_CNT_WITHDRAWN t = min (2 ^ F.IC_TGT_CNT_WITHDRAWN.w - 1) (s.get F.IC_TGT_CNT_WITHDRAWN t + 1)))) ∧
    (s.pathOpen p → s.icMay w t = false → ∃ u, exec (.icClaim p t) s = .next u ∧ u.rdata = 0 ∧ u.ic = s.ic) ∧
    (s.pathOpen p → s.icMay w t = true → host →
      (s.ic.active.getLsbD n = true → s.ic.owner.lookup n = some t.val → ∃ u, exec (.icComplete p t data) s = .next u ∧
        u.wres = Res.applied ∧ u.log = s.log ∧ u.ic.active.getLsbD n = false) ∧
      (s.ic.active.getLsbD n = false ∨ s.ic.owner.lookup n ≠ some t.val → ∃ u, exec (.icComplete p t data) s = .next u ∧
        u.ic = s.ic ∧ u.get F.IC_CNT_BAD_COMPLETE = min (2 ^ F.IC_CNT_BAD_COMPLETE.w - 1) (s.get F.IC_CNT_BAD_COMPLETE + 1))) ∧
    (s.icMay w t = false → s.refuses p (.icComplete p t data) (R.IC_TGT_COMPLETE.at t) data Res.refRights) ∧
    ((s.offer 0).isSome = true → (s.core 0).inHandler = false → (s.core 0).started = true →
      ∃ u, exec .sk0InterruptTake s = .next u ∧ (u.core 0).inHandler = true ∧ (u.core 0).pc = s.get F.SK_VEC_VEC ∧
        u.get F.SK_EPC_EPC = (s.core 0).oldest % 2 ^ F.SK_EPC_EPC.w ∧ (u.core 0).regs = (s.core 0).regs ∧
        ((s.core 0).wait ≠ some .fifo → (s.core 0).wait ≠ some .retire → (s.core 0).oldest = (s.core 0).pc ∧ (u.core 0).wait = none ∧ (u.core 0).cbuf = []) ∧
        (∀ o r, (s.core 0).wait = some .fifo → (s.core 0).cbuf = o :: r → (s.core 0).oldest = (s.core 0).pc + 4 ∧ (u.core 0).cbuf = [o])))

/-- CD_OVERCURRENT, CD_ZERO_CHECK, CD_OPEN_DETECT, CD_IMBALANCE and CD_FD_TIMEOUT (R234, R239 to R241, R254, R258, R259). A trip
of either channel of a pair acts on the pair. -/
def Obligations.CoilTripRows : Prop :=
  ∀ (s : State) (n : Nat) (a b : List Nat),
    (s.clk.pdOff = true → ∀ c ∈ ([.cdOvercurrent n, .cdZeroCheck n a b, .cdOpenDetect n, .cdImbalance n, .cdFdTimeout n] : List Instr), exec c s = .next s) ∧
    (s.clk.pdOff = false →
    let m := n % 32
    let k := if s.cdPaired m then m / 2 * 2 else m
    let c := s.cdOf m
    let steps := a.map (s.cdCur m 0) ++ b.map (s.cdCur m 1)
    let trips (c : Instr) (k : Nat) (f : Fld) (post : State → Prop) : Prop := ∃ t, exec c s = .next t ∧ t.bit f k = true ∧ (s.bit f k = false → t.bit F.CD_EVT_FAULT k = true) ∧
      t.cdPhase k = (if s.cdPhase k = Ph.fault then Ph.fault else Ph.fastDecay) ∧
      (∀ j < 32, j ≠ k → t.cdPhase j = s.cdPhase j ∧ (j ≠ m → t.cdOf j = s.cdOf j)) ∧ post t
    trips (.cdOvercurrent n) k F.CD_FLT_OVC (fun _ => True) ∧
    (c.zeroDue = true → s.cdPhase k = Ph.idle → (∃ i ∈ steps, 4 ≤ i) → trips (.cdZeroCheck n a b) k F.CD_FLT_TWIN (fun t => (t.cdOf m).zeroDue = false ∧ (s.cdOf k).phaseAt + 100 ≤ t.now)) ∧
    (c.zeroDue = true → s.cdPhase k ≠ Ph.idle → exec (.cdZeroCheck n a b) s = .next (s.setCd m { c with zeroDue := false })) ∧
    (c.zeroDue = true → s.cdPhase k = Ph.idle → (∀ i ∈ steps, i < 4) → ∃ t, exec (.cdZeroCheck n a b) s = .next t ∧ (t.cdOf m).zeroDue = false ∧ t.space = s.space ∧
      (s.cdOf k).phaseAt + 100 ≤ t.now) ∧
    (c.zeroDue = false → exec (.cdZeroCheck n a b) s = .next s) ∧
    (80 ≤ c.openCnt → trips (.cdOpenDetect n) k F.CD_FLT_OPEN (fun t => (t.cdOf m).openCnt = 0)) ∧
    (c.openCnt < 80 → exec (.cdOpenDetect n) s = .next s) ∧
    (s.cdPaired m = true → 10 ≤ (s.cdOf k).imbal → trips (.cdImbalance n) k F.CD_FLT_IMBAL (fun t => (t.cdOf k).imbal = 0)) ∧
    (c.clamp = true → s.bit F.CD_FLT_FD_TIME m = false → trips (.cdFdTimeout n) k F.CD_FLT_FD_TIME (fun t => c.fdAt + 20000 ≤ t.now)) ∧
    (c.clamp = false ∨ s.bit F.CD_FLT_FD_TIME m = true → exec (.cdFdTimeout n) s = .next s))

/-- CD_COMMAND, CD_CYCLE_BOUNDARY, CD_PULLIN_END, CD_HOLD_EXPIRY and CD_PULSE_EXPIRY (R234 to R236, R240, R244, R245, R247, R251,
R252). A boundary lies on the grid of R235 (log entry 127). A renewal that arrives before a timer's boundary keeps the profile. -/
def Obligations.CoilProfileRows : Prop :=
  ∀ (s : State) (n : Nat) (x : CdSamples),
    (s.clk.pdOff = true → ∀ c ∈ ([.cdCommand n, .cdCycleBoundary n x, .cdPullinEnd n x, .cdHoldExpiry n x, .cdPulseExpiry n x] : List Instr), exec c s = .next s) ∧
    (s.clk.pdOff = false →
    let m := n % 32
    let c := s.cdOf m
    let quiet := s.cdLead m = true ∧ s.cdShedNow m = false ∧ c.take = false ∧ c.modeOff = false ∧ c.reTherm = false ∧ c.reEwin = false ∧
      c.openAt = none ∧ c.mendAt = none ∧ c.closeObs = false ∧ c.closeSig = none ∧ c.guard = Mr.none_ ∧ c.disagree ≤ 2 ∧ c.openCnt ≤ 78 ∧ c.imbal ≤ 8
    let y := s.cdCalibrated m x
    let mA := sampMeas y (·.a)
    let tgt := (8 * s.cdHoldNow m + 5) / 10
    let err : Int := (tgt : Int) - mA
    let acc := (min (max ((c.twinA.acc : Int) + s.get F.CD_REG_KI_R m * err) 0) 65472).toNat
    let at_ := cdGrid s.now c.bndAt
    let find := s.fwd.find? (fun f => f.cls == Cls.coil && f.chan == m)
    (∀ f, s.pdReach = true → find = some f → s.cdLead m = true → ∃ t, exec (.cdCommand n) s = .next t ∧ t.cmdOf Cls.coil m = some f.value ∧
      (t.cdOf m).cmdv = f.value ∧ (t.cdOf m).pend = some f.value ∧ (t.cdOf m).trig = (c.trig || cdOn f.value) ∧ t.fwd = s.fwd.erase f ∧ t.space = s.space) ∧
    (∀ f, s.pdReach = true → find = some f → s.cdLead m = false → exec (.cdCommand n) s = .next { s with fwd := s.fwd.erase f, clk := { s.clk with fwdTries := 1 } }) ∧
    (s.pdReach = false ∨ find = none → exec (.cdCommand n) s = .next s) ∧
    (s.cdLead m = false → exec (.cdCycleBoundary n x) s = .next s) ∧
    (∀ v, quiet → c.pend = some v → cdOn v = true → s.cdMode m = Md.pullHold → s.cdPhase m = Ph.idle → 0 < s.get F.CD_PULL_T_PULL m →
      ∃ t, exec (.cdCycleBoundary n x) s = .next t ∧ t.now = at_ ∧
      t.cdPhase m = Ph.pullin ∧ t.get F.CD_CNT_PULLINS m = min (2 ^ F.CD_CNT_PULLINS.w - 1) (s.get F.CD_CNT_PULLINS m + 1) ∧ t.get F.CD_DUTY_DUTY_A m = 1023 ∧
      t.get F.CD_DUTY_DUTY_B m = 1023 ∧ (t.cdOf m).pend = none ∧ (t.cdOf m).pullDue = some (t.now + 1000 * s.get F.CD_PULL_T_PULL m)) ∧
    (∀ v, quiet → c.pend = some v → cdOn v = false → s.cdMode m = Md.pullHold → s.cdPhase m = Ph.hold → sampLow y = false →
      ∃ t, exec (.cdCycleBoundary n x) s = .next t ∧ t.now = at_ ∧
      t.cdPhase m = Ph.fastDecay ∧ (t.cdOf m).clamp = true ∧ (t.cdOf m).twinA.fd = true ∧ t.get F.CD_DUTY_DUTY_A m = 0 ∧ t.get F.CD_DUTY_DUTY_B m = 0 ∧
      t.get F.CD_STAT_TARGET m = 0) ∧
    (quiet → c.pend = none → s.cdPhase m = Ph.hold → s.get F.CD_CFG_DAMP m = 0 → 0 < tgt → s.bit F.CD_CFG_FASTDN m = false → c.clamp = false →
      (∀ d, c.holdDue = some d → at_ < d) → ∃ t, exec (.cdCycleBoundary n x) s = .next t ∧ t.now = at_ ∧
      t.cdPhase m = Ph.hold ∧ (t.cdOf m).twinA.acc = acc ∧
      t.get F.CD_DUTY_DUTY_A m = (min (max (((s.get F.CD_REG_KP_R m : Int) * err) / 16 + (acc / 64 : Nat)) 0) 1023).toNat ∧
      t.get F.CD_STAT_TARGET m = s.cdHoldNow m % 2 ^ F.CD_STAT_TARGET.w ∧ t.get F.CD_MEAS_I_MEAS m = stepsMA mA % 2 ^ F.CD_MEAS_I_MEAS.w) ∧
    (∀ d, quiet → c.pend = none → c.clamp = false → c.pullDue = some d → (s.cdMode m = Md.pulse → 0 < s.get F.CD_PULSE_T_PULSE m) → s.cdPhase m = Ph.pullin ∨ s.cdPhase m = Ph.repull → ∃ t, exec (.cdPullinEnd n x) s = .next t ∧ d ≤ t.now ∧
      t.cdPhase m = Ph.hold ∧ t.bit F.CD_EVT_PULL_END m = true ∧ (t.cdOf m).pullDue = none) ∧
    (∀ d, quiet → c.clamp = false → sampLow y = false → c.holdDue = some d → s.cdPhase m = Ph.hold →
      (s.cdMode m = Md.pullHold → c.pend = none → ∃ t, exec (.cdHoldExpiry n x) s = .next t ∧ d ≤ t.now ∧ t.cdPhase m = Ph.fastDecay ∧ t.bit F.CD_EVT_HOLD_EXP m = true) ∧
      (∀ v, s.cdMode m = Md.pullHold → c.pend = some v → cdOn v = true → ∃ t, exec (.cdHoldExpiry n x) s = .next t ∧ d ≤ t.now ∧ t.cdPhase m = Ph.hold ∧
        t.get F.CD_CNT_RENEW m = min (2 ^ F.CD_CNT_RENEW.w - 1) (s.get F.CD_CNT_RENEW m + 1)) ∧
      (s.cdMode m = Md.pulse → c.pend = none → ∃ t, exec (.cdPulseExpiry n x) s = .next t ∧ d ≤ t.now ∧ t.cdPhase m = Ph.fastDecay)) ∧
    (c.pullDue = none → exec (.cdPullinEnd n x) s = .next s) ∧
    (c.holdDue = none → exec (.cdHoldExpiry n x) s = .next s ∧ exec (.cdPulseExpiry n x) s = .next s))

/-- CD_CLAMP_END (R253, R254), CD_SUPPLY_EXCURSION, CD_SUPPLY_RECOVER (R257), CD_CFG_WRITE (R242, R249) and
CD_FAULT_CLEAR (R259). `e` is the energy of the clamp phase in units of 0.5 nJ. -/
def Obligations.CoilSupplyAndSettingRows : Prop :=
  ∀ (s : State) (p : Path) (n v mean : Nat) (x : CdSamples) (high : Bool) (data : Word),
    (s.clk.pdOff = true → ∀ c ∈ ([.cdClampEnd n x, .cdSupplyExcursion high v mean, .cdSupplyRecover v] : List Instr), exec c s = .next s) ∧
    (s.clk.pdOff = false →
    let w := s.who p
    let m := n % 32
    let c := s.cdOf m
    let y := s.cdCalibrated m x
    let at_ := cdGrid s.now c.bndAt
    let e := (((s.reach at_).cdGather m at_ y).cdOf m).clampE.natAbs
    let calm := s.cdLead m = true ∧ s.cdShedNow m = false ∧ c.take = false ∧ c.modeOff = false ∧ c.reTherm = false ∧ c.reEwin = false ∧ c.pend = none ∧
      c.openAt = none ∧ c.closeSig = none ∧ c.guard = Mr.none_ ∧ c.disagree ≤ 2
    let inSafe := (s.safeOf Cls.coil m).inSafe
    let window := if high then 3850 < v else v < 880
    (calm → c.clamp = true → sampLow y = true → s.cdPhase m = Ph.fastDecay → c.rst = false →
      (e ≤ s.cdEcMax m → s.word (R.CD_FLT.at m) = 0 → c.dest = 0 → s.bit F.CD_STAT_ON_PEND m = false → inSafe = false → ∃ t, exec (.cdClampEnd n x) s = .next t ∧ t.now = at_ ∧
        t.cdPhase m = Ph.idle ∧ (t.cdOf m).zeroDue = true ∧ (t.cdOf m).clamp = false ∧ t.bit F.CD_EVT_FD_END m = true ∧
        t.get F.CD_CLAMP_E_LAST m = min (e / 20000) 65535 ∧ t.get F.CD_CLAMP_T_LAST m = min ((at_ - c.fdAt) / 4) 65535) ∧
      (e ≤ s.cdEcMax m → s.word (R.CD_FLT.at m) = 0 → c.dest ≠ 2 → inSafe = true → ∃ t, exec (.cdClampEnd n x) s = .next t ∧ t.now = at_ ∧ t.cdPhase m = Ph.safe ∧
        (t.cdOf m).clamp = false ∧ t.bit F.CD_EVT_FD_END m = true) ∧
      (s.cdEcMax m < e → ∃ t, exec (.cdClampEnd n x) s = .next t ∧ t.cdPhase m = Ph.fault ∧ t.bit F.CD_FLT_CLAMP_E m = true ∧ (t.cdOf m).clamp = false)) ∧
    (c.clamp = false ∨ sampLow y = false → exec (.cdClampEnd n x) s = .next s) ∧
    (window → ∃ t, exec (.cdSupplyExcursion high v mean) s = .next t ∧ t.get F.CD_GSTAT_VCOIL = mean % 65536 ∧ t.bit F.CD_GSTAT_OV = high ∧ t.bit F.CD_GSTAT_UV = (!high) ∧
      ∀ j < 32, s.cdLead j = true →
        (s.cdEnergised j = true → t.cdPhase j = Ph.fastDecay ∧ (t.cdOf j).dest = (if (s.cdOf j).dest = 2 then 2 else 1) ∧ (t.cdOf j).clamp = true) ∧
        (s.cdPhase j = Ph.fault ∨ s.cdPhase j = Ph.safe ∨ s.cdPhase j = Ph.shed ∨ s.cdPhase j = Ph.supply → t.cdPhase j = s.cdPhase j)) ∧
    (¬window → exec (.cdSupplyExcursion high v mean) s = .next s) ∧
    (950 ≤ v → v ≤ 3800 → ∃ t, exec (.cdSupplyRecover v) s = .next t ∧ t.get F.CD_GSTAT_VCOIL = v ∧ t.bit F.CD_GSTAT_OV = false ∧ t.bit F.CD_GSTAT_UV = false ∧
      ∀ j < 32, t.cdPhase j = s.cdPhase j ∧ (s.cdPhase j = Ph.supply → (t.cdOf j).take = true) ∧ (s.cdPhase j ≠ Ph.supply → t.cdOf j = s.cdOf j)) ∧
    (v < 950 ∨ 3800 < v → exec (.cdSupplyRecover v) s = .next s) ∧
    (w.tenant = 0 → s.pdReach = true → s.configures p (.cdCfgWrite p n data) (R.CD_CFG.at m) data (s.cdCfgChk false m) (fun x t =>
      let t := if F.CD_CFG_PAIR.of (s.word (R.CD_CFG.at m)) = 1 ∧ F.CD_CFG_PAIR.of x = 0 then t.cdPart m else t
      if F.CD_CFG_MODE.of x = Md.off ∧ F.CD_CFG_MODE.of (s.word (R.CD_CFG.at m)) ≠ Md.off then t.cdMod m (fun c => { c with modeOff := true }) else t)) ∧
    (w.tenant ≠ 0 → s.refusesPd p (.cdCfgWrite p n data) (R.CD_CFG.at m) data Res.refRights ∧ s.refusesPd p (.cdFaultClear p n data) (R.CD_FLT.at m) data Res.refRights) ∧
    (w.tenant = 0 → s.pdReach = false → s.pathOpen p → s.ringOpen → ∃ t, exec (.cdCfgWrite p n data) s = .next t ∧ t.wres = Res.notApplied ∧
      ∀ b, isPower b = true → t.word b = s.word b) ∧
    (∀ fs, fieldsAt (R.CD_FLT.at m) = some fs → touches fs data = true → mergeWrite fs (s.word (R.CD_FLT.at m)) data = 0 → s.cdPhase m = Ph.fault →
      (s.safeOf Cls.coil m).inSafe = false → w.tenant = 0 → s.pdReach = true → s.pathOpen p → s.ringOpen →
      ∃ t, exec (.cdFaultClear p n data) s = .next t ∧ t.wres = Res.applied ∧ t.word (R.CD_FLT.at m) = 0 ∧ t.cdPhase m = Ph.idle ∧ (t.cdOf m).take = true ∧
        t.log.nextSeq = s.log.nextSeq + 1))

/-- CD_KINK_OBSERVATION_END (R280), CD_DIP_OBSERVATION_END (R281), CD_RELEASE_BUMP (R282, R290) and CONTACT_EDGE (R284, R285,
R415). -/
def Obligations.CoilObservationRows : Prop :=
  ∀ (s : State) (n u first raw : Nat) (x : CdSamples) (vs : List Int) (is run : List (Nat × Nat)) (level : Bool),
    (s.clk.pdOff = true → ∀ c ∈ ([.cdKinkObservationEnd n vs, .cdDipObservationEnd n is, .cdReleaseBump n u run, .contactEdge n first u raw true level, .contactEdge n first u raw false level] : List Instr), exec c s = .next s) ∧
    (s.clk.pdOff = false →
    let m := n % 32
    let c := s.cdOf m
    let fst := (c.clampEnd - c.fdAt + 100 * s.get F.CD_MOTWIN_BLANK m + 3) / 4
    let sig := kinkResult (vs.map (s.cdVolt m)) fst (250 * s.get F.CD_MOTWIN_KWIN m) (s.get F.CD_MOTCFG_KTH m)
    let k := m / 2 * 2
    let bump := bumpResult (s.cdExcess m u run) (s.get F.CD_MOTCFG_BUMP_TH m)
    let drops (t : State) : Prop := t.bit F.CD_HOLD_LRN_VALID m = false ∧ t.bit F.CD_EVT_UNEXP_DROP m = true ∧ t.cdPhase m = Ph.repull
    let quiet := s.cdLead m = true ∧ s.cdShedNow m = false ∧ c.take = false ∧ c.modeOff = false ∧ c.reTherm = false ∧ c.reEwin = false ∧ c.pend = none ∧
      c.openAt = none ∧ c.mendAt = none ∧ c.clamp = false ∧ c.disagree ≤ 2 ∧ c.openCnt ≤ 78 ∧ c.imbal ≤ 8
    let acts (post : State → Prop) : Prop := ∃ t, exec (.cdCycleBoundary n x) s = .next t ∧ post t
    let opIn := s.bit F.DI_CFG_EN (s.get F.CD_ENDC_OP_DI m) = true ∧ s.cdLead m = true ∧ s.bit F.CD_ENDC_OP_EN m = true
    let clIn := s.bit F.DI_CFG_EN (s.get F.CD_ENDC_CL_DI m) = true ∧ s.cdLead m = true ∧ s.bit F.CD_ENDC_CL_EN m = true
    let clear := raw ≤ 8 ∧ u + 100 * s.get F.CD_ENDC_DEB m ≤ first + 20000
    (c.clamp = false → c.closeObs = true → c.closeSig = none → exec (.cdKinkObservationEnd n vs) s = .next (s.setCd m { c with closeSig := some sig })) ∧
    (c.clamp = true ∨ c.closeObs = false ∨ c.closeSig.isSome = true → exec (.cdKinkObservationEnd n vs) s = .next s) ∧
    (∀ g, quiet → c.guard = Mr.none_ → c.closeObs = true → c.closeSig = some g → s.bit F.CD_ENDC_CL_EN m = false → s.cdPhase m = Ph.idle → s.cdLearnedTime m false = none →
      acts (fun t => (t.cdOf m).closeObs = false ∧ (t.cdOf m).closeSig = none ∧
        t.word (R.CD_MOT_CLOSE.at m) = Word.ofN (g.1 * 2 ^ 30 + 2 ^ 28 + (if g.1 = Mr.clear then min g.2 (2 ^ 18 - 1) else 0)) ∧
        (g.1 = Mr.clear → t.bit F.CD_EVT_CLOSED m = true) ∧ (g.1 = Mr.ambig → t.bit F.CD_EVT_AMBIG m = true) ∧ t.cdPhase m = Ph.idle)) ∧
    (s.cdPaired k = true → (s.cdOf k).openAt.isSome = true → (s.cdOf k).sig = none →
      exec (.cdDipObservationEnd n is) s = .next (s.setCd k { s.cdOf k with sig := some (dipResult (is.map (s.cdCoil k)) (s.get F.CD_MOTCFG_DIP_TH k)) })) ∧
    (s.cdPaired k = false ∨ (s.cdOf k).openAt = none ∨ (s.cdOf k).sig.isSome = true → exec (.cdDipObservationEnd n is) s = .next s) ∧
    (c.armed = true → bump ≠ Mr.none_ → s.cdPhase m = Ph.hold → s.cdLearned m = true → ∃ t, exec (.cdReleaseBump n u run) s = .next t ∧ (t.cdOf m).armed = false ∧
      (t.cdOf m).guard = (if c.guard = Mr.clear then Mr.clear else bump) ∧ t.space = s.space) ∧
    (quiet → c.closeObs = false → c.closeSig = none → s.cdPhase m = Ph.hold → s.cdLearned m = true → 0 < s.get F.CD_PULL_T_PULL m →
      (c.guard = Mr.clear → acts drops) ∧
      (c.guard = Mr.ambig → (∀ a, c.ambigAt = some a → a + 600000000 < s.now) → acts (fun t => t.cdPhase m = Ph.repull ∧ (t.cdOf m).ambigAt = some t.now ∧
        t.word (R.CD_HOLD_LRN.at m) = s.word (R.CD_HOLD_LRN.at m))) ∧
      (∀ a, c.guard = Mr.ambig → c.ambigAt = some a → cdGrid s.now c.bndAt ≤ a + 600000000 → acts drops)) ∧
    (c.armed = false ∨ bump = Mr.none_ → exec (.cdReleaseBump n u run) s = .next s) ∧
    (opIn → clear → s.cdPhase m = Ph.hold → s.cdLearned m = true → level = (!s.bit F.CD_ENDC_OP_POL m) → ∃ t, exec (.contactEdge n first u raw true level) s = .next t ∧
      (t.cdOf m).guard = Mr.clear ∧ t.space = s.space) ∧
    (opIn → s.cdPhase m = Ph.pullin → c.openAt.isSome = true → c.openEnd = false → c.opEdge = none → level = s.bit F.CD_ENDC_OP_POL m →
      (clear → ∃ t, exec (.contactEdge n first u raw true level) s = .next t ∧ (t.cdOf m).opEdge = some u ∧ t.space = s.space ∧
        t.fio.raw.getLsbD (s.get F.CD_ENDC_OP_DI m) = level) ∧
      (¬clear → ∃ t, exec (.contactEdge n first u raw true level) s = .next t ∧ (t.cdOf m).opChat = true ∧
        t.get F.CD_MOT_CNT_CHATTER m = min (2 ^ F.CD_MOT_CNT_CHATTER.w - 1) (s.get F.CD_MOT_CNT_CHATTER m + 1))) ∧
    (clIn → clear → s.cdPhase m ≠ Ph.probe → c.closeObs = true → c.clEdge = none → level = s.bit F.CD_ENDC_CL_POL m →
      ∃ t, exec (.contactEdge n first u raw false level) s = .next t ∧ (t.cdOf m).clEdge = some u ∧ t.space = s.space ∧
        t.fio.raw.getLsbD (s.get F.CD_ENDC_CL_DI m) = level) ∧
    (∀ op, s.bit F.DI_CFG_EN (s.get (if op then F.CD_ENDC_OP_DI else F.CD_ENDC_CL_DI) m) = false → exec (.contactEdge n first u raw op level) s = .next s))

/-- CD_LWIN_WRITE, CD_LWIN_MINUTE, CD_LEARN_STROKE, CD_LEARN_PROBE, CD_LEARN_CANCEL, CD_STROKE_STEP_END,
CD_PROBE_DWELL_END and CD_HOLD_LRN_WRITE (R291 to R299). `e` is the state after what stands before position 4 of R251. -/
def Obligations.CoilLearningRows : Prop :=
  ∀ (s : State) (p : Path) (n : Nat) (data : Word),
    (s.clk.pdOff = true → ∀ c ∈ ([.cdStrokeStepEnd n, .cdProbeDwellEnd n] : List Instr), exec c s = .next s) ∧
    (s.clk.pdOff = false →
    let w := s.who p
    let m := n % 32
    let c := s.cdOf m
    let a := R.CD_LEARN.at m
    let may := w.tenant = 0 ∧ s.pdReach = true ∧ s.pathOpen p ∧ s.ringOpen
    let e := if s.cdLead m then (s.opened p).cdEarlyEvents m (s.get F.CD_MEAS_I_MEAS m) else s.opened p
    let d := e.cdOf m
    let refused (i : Instr) : Prop := ∃ t, exec i s = .next t ∧ t.wres = Res.refConfig ∧ (∀ j, t.cdOf j = e.cdOf j) ∧ t.cdPhase m = e.cdPhase m ∧
      t.word (R.CD_LEARN_STAT.at m) = e.word (R.CD_LEARN_STAT.at m) ∧ t.log.nextSeq = s.log.nextSeq + 1
    let st := Nat.max 1 ((2 * e.cdHold m * s.get F.CD_PRB_CFG_PSTEP m + 100) / 200)
    let stp := c.pstep
    let step := s.get F.CD_LEARN_STAT_STEP m
    let steps (post : State → Prop) : Prop := ∃ t, exec (.cdStrokeStepEnd n) s = .next t ∧ t.get F.CD_LEARN_STAT_STEP m = min (2 ^ F.CD_LEARN_STAT_STEP.w - 1) (step + 1) ∧
      t.cdPhase m = Ph.stroke ∧ post t
    let lwin := (∃ fs, fieldsAt R.CD_LWIN.at = some fs ∧ rangesOk fs data = true)
    (may → F.CD_LWIN_MINUTES.of data ≤ 1440 → 0 < F.CD_LWIN_MINUTES.of data → lwin →
      ∃ t, exec (.cdLwinWrite p data) s = .next t ∧ t.wres = Res.applied ∧ t.get F.CD_LWIN_MINUTES = F.CD_LWIN_MINUTES.of data ∧ t.bit F.CD_LWIN_OPEN = true ∧ t.cd = s.cd) ∧
    (may → F.CD_LWIN_MINUTES.of data = 0 → lwin →
      ∃ t, exec (.cdLwinWrite p data) s = .next t ∧ t.wres = Res.applied ∧ t.get F.CD_LWIN_MINUTES = 0 ∧ t.bit F.CD_LWIN_OPEN = false ∧
        ∀ j < 32, t.get F.CD_LEARN_STAT_KIND j ≠ 1 ∧ t.get F.CD_LEARN_STAT_KIND j ≠ 2) ∧
    (may → 1440 < F.CD_LWIN_MINUTES.of data ∨ ¬lwin → ∃ t, exec (.cdLwinWrite p data) s = .next t ∧ t.wres = Res.refConfig ∧ t.word R.CD_LWIN.at = s.word R.CD_LWIN.at) ∧
    (s.bit F.CD_LWIN_OPEN = true → 1 < s.get F.CD_LWIN_MINUTES → ∃ t, exec .cdLwinMinute s = .next t ∧ t.get F.CD_LWIN_MINUTES = s.get F.CD_LWIN_MINUTES - 1 ∧
      t.bit F.CD_LWIN_OPEN = true ∧ t.cd = s.cd) ∧
    (s.bit F.CD_LWIN_OPEN = true → s.get F.CD_LWIN_MINUTES ≤ 1 → ∃ t, exec .cdLwinMinute s = .next t ∧ t.bit F.CD_LWIN_OPEN = false ∧ t.get F.CD_LWIN_MINUTES = 0) ∧
    (s.bit F.CD_LWIN_OPEN = false → exec .cdLwinMinute s = .next s) ∧
    (may → e.cdLearnOk m true = true → d.openAt = none → d.closeObs = false → ∃ t, exec (.cdLearnStroke p n) s = .next t ∧ t.wres = Res.applied ∧ t.cdPhase m = Ph.stroke ∧
      t.get F.CD_LEARN_STAT_KIND m = 1 ∧ t.get F.CD_LEARN_STAT_STEP m = 0 ∧ (t.cdOf m).openAt = some t.now ∧ (t.cdOf m).opTimes = [] ∧ (t.cdOf m).clTimes = []) ∧
    (may → e.cdLearnOk m true = false → refused (.cdLearnStroke p n)) ∧
    (may → e.cdLearnOk m false = true → st ≤ e.cdHold m → s.get F.CD_PRB_CFG_PFLOOR m ≤ e.cdHold m - st → ∃ t, exec (.cdLearnProbe p n) s = .next t ∧ t.wres = Res.applied ∧
      t.cdPhase m = Ph.probe ∧ t.get F.CD_LEARN_STAT_KIND m = 2 ∧ (t.cdOf m).i0 = e.cdHold m ∧ (t.cdOf m).pstep = st ∧ (t.cdOf m).lvl = e.cdHold m - st) ∧
    (may → e.cdLearnOk m false = false → refused (.cdLearnProbe p n)) ∧
    (may → e.get F.CD_LEARN_STAT_KIND m = 2 → d.openAt = none → d.closeObs = false → ∃ t, exec (.cdLearnCancel p n) s = .next t ∧ t.wres = Res.applied ∧
      t.cdPhase m = Ph.repull ∧ t.get F.CD_LEARN_STAT_KIND m = 0 ∧ t.get F.CD_LEARN_STAT_LAST_RES m = Ln.cancel) ∧
    (may → e.get F.CD_LEARN_STAT_KIND m = 1 → ∃ t, exec (.cdLearnCancel p n) s = .next t ∧ t.wres = Res.applied ∧
      t.cdPhase m = (if e.cdStrokeLive m then Ph.fastDecay else Ph.idle) ∧ t.get F.CD_LEARN_STAT_KIND m = 0 ∧ t.get F.CD_LEARN_STAT_LAST_RES m = Ln.cancel) ∧
    (may → e.get F.CD_LEARN_STAT_KIND m = 0 → ∃ t, exec (.cdLearnCancel p n) s = .next t ∧ t.wres = Res.applied ∧ (∀ j, t.cdOf j = e.cdOf j) ∧ t.cdPhase m = e.cdPhase m) ∧
    (w.tenant ≠ 0 → s.refusesPd p (.cdLwinWrite p data) R.CD_LWIN.at data Res.refRights ∧ s.refusesPd p (.cdLearnStroke p n) a 1 Res.refRights ∧
      s.refusesPd p (.cdLearnProbe p n) a 2 Res.refRights ∧ s.refusesPd p (.cdLearnCancel p n) a 4 Res.refRights ∧
      s.refusesPd p (.cdHoldLrnWrite p n data) (R.CD_HOLD_LRN.at m) data Res.refRights) ∧
    (s.cdPhase m = Ph.stroke →
      (∀ x, step % 4 = 0 → c.pullDue = some x → c.openAt = none → steps (fun t => x ≤ t.now ∧ (t.cdOf m).holdDue = some (t.now + 1000 * s.get F.CD_STK_PAR_DWELL m))) ∧
      (∀ x, step % 4 = 1 → c.holdDue = some x → steps (fun t => x ≤ t.now ∧ (t.cdOf m).holdDue = none ∧ (t.cdOf m).clamp = true)) ∧
      (step % 4 = 2 → c.clamp = false → c.closeObs = false → steps (fun t => c.fdAt + 1000 * s.get F.CD_MOTWIN_KWIN m ≤ t.now ∧
        (t.cdOf m).holdDue = some (t.now + 1000 * s.get F.CD_STK_PAR_REST m))) ∧
      (∀ x, step % 4 = 3 → c.holdDue = some x → step + 1 < 4 * s.get F.CD_STK_PAR_CYCLES m → c.openAt = none → c.closeObs = false →
        steps (fun t => x ≤ t.now ∧ (t.cdOf m).openAt = some t.now)) ∧
      (∀ x, step % 4 = 3 → c.holdDue = some x → 4 * s.get F.CD_STK_PAR_CYCLES m ≤ step + 1 → ∃ t, exec (.cdStrokeStepEnd n) s = .next t ∧ x ≤ t.now ∧
        t.cdPhase m = Ph.idle ∧ t.get F.CD_LEARN_STAT_KIND m = 0)) ∧
    (s.cdPhase m ≠ Ph.stroke → exec (.cdStrokeStepEnd n) s = .next s) ∧
    (s.cdPhase m = Ph.probe → c.bumpSig = none → c.opEdge = none → c.clEdge = none →
      (stp ≤ c.lvl → s.get F.CD_PRB_CFG_PFLOOR m ≤ c.lvl - stp → ∃ t,
        exec (.cdProbeDwellEnd n) s = .next t ∧ c.phaseAt + 10000 * s.get F.CD_PRB_CFG_PDWELL m ≤ t.now ∧ t.cdPhase m = Ph.probe ∧ (t.cdOf m).held = c.lvl ∧ (t.cdOf m).lvl = c.lvl - stp) ∧
      (c.lvl < stp ∨ c.lvl - stp < s.get F.CD_PRB_CFG_PFLOOR m → ∃ t,
        exec (.cdProbeDwellEnd n) s = .next t ∧ t.cdPhase m = Ph.hold ∧ t.get F.CD_HOLD_LRN_I_DO m = c.lvl % 2 ^ F.CD_HOLD_LRN_I_DO.w ∧ t.bit F.CD_HOLD_LRN_VALID m = true ∧
          t.get F.CD_LEARN_STAT_KIND m = 0)) ∧
    (s.cdPhase m ≠ Ph.probe → exec (.cdProbeDwellEnd n) s = .next s) ∧
    (∀ fs, fieldsAt (R.CD_HOLD_LRN.at m) = some fs → may → rangesOk fs data = true → ∃ t, exec (.cdHoldLrnWrite p n data) s = .next t ∧ t.wres = Res.applied ∧
      t.get F.CD_HOLD_LRN_I_DO m = F.CD_HOLD_LRN_I_DO.of data ∧ (F.CD_HOLD_LRN_VALID.of data = 1 → t.get F.CD_HOLD_LRN_I_LHOLD m = t.cdLHold m % 2 ^ F.CD_HOLD_LRN_I_LHOLD.w)))

/-- CD_THERMAL_UPDATE, CD_RW_WINDOW (R302 to R304), CD_ENERGY_CHECK (R305), CD_BUDGET_UPDATE, CD_BUDGET_STAGE_RISE,
CD_BUDGET_STAGE_FALL, CD_BUDGET_OVER and CD_UNSHED (R306 to R308), over the sums that the samples of the cycles have left: `msq` is
the mean of i², `num` / `den` 100 times rm in ohm, `ptot` the dissipation of all channels. -/
def Obligations.CoilProtectionModelRows : Prop :=
  ∀ (s : State) (n : Nat),
    (s.clk.pdOff = true → ∀ v, ∀ c ∈ ([.cdThermalUpdate n, .cdRwWindow n, .cdEnergyCheck n, .cdBudgetUpdate v, .cdBudgetStageRise, .cdBudgetStageFall, .cdBudgetOver, .cdUnshed] : List Instr), exec c s = .next s) ∧
    (s.clk.pdOff = false →
    let m := n % 32
    let c := s.cdOf m
    let msq := if c.sqCnt = 0 then 0 else fOfRat (25 * c.sqSum) (16000000 * c.sqCnt)
    let rw := (fMul (fOfRat (s.get F.CD_TH_R_RC20 m) 100) (fAdd (fOfNat 1) (fMul (fOfRat 393 100000) (fSub (s.cdTw m) (fOfNat 20)).val).val).val).val
    let q := (fDiv (fSub (s.cdTw m) (s.cdTb m)).val (fOfRat (s.get F.CD_TH_G_RWB m) 10)).val
    let tw := (fAdd (s.cdTw m) (fDiv (fMul (fSub (fMul msq rw).val q).val (fOfRat 1 1000)).val (fOfRat (s.get F.CD_TH_C_CW m) 100)).val).val
    let rc := s.get F.CD_TH_R_RC20 m
    let num := c.rwV.toNat * 100000
    let den := c.rwI * 1250
    let valid := c.rwOk = true ∧ (s.cdPhase m = Ph.hold ∨ s.cdPhase m = Ph.prop ∨ s.cdPhase m = Ph.safe) ∧ s.cdLead m = true ∧ c.rwI ≠ 0
    let inRange := 7 * rc * den ≤ 1000 * num ∧ 10 * num * 100 ≤ 16 * rc * den
    let tm := (fAdd (fOfNat 20) (fDiv (fSub (fDiv (fOfRat num den) (fOfRat rc 100)).val (fOfNat 1)).val (fOfRat 393 100000)).val).val
    let again (t : State) : Prop := (t.cdOf m).rwOk = true ∧ (t.cdOf m).rwRef = none ∧ (t.cdOf m).rwV = 0 ∧ (t.cdOf m).rwI = 0 ∧ c.rwAt + 100000 ≤ t.now
    let ptot := (List.range 32).foldl (fun p j => (fAdd p (s.cdDissipation j)).val) 0
    let pf := (fAdd s.cdg.pf (fDiv (fSub ptot s.cdg.pf).val (fOfNat 128)).val).val
    (s.cdLead m = true → fLe (fOfNat (s.get F.CD_TH_LIM_TW_MAX m)) tw = false ∨ s.bit F.CD_FLT_THERM m = true →
      ∃ t, exec (.cdThermalUpdate n) s = .next t ∧ (t.cdOf m).tw = some tw ∧ (t.cdOf m).sqSum = 0 ∧ (t.cdOf m).sqCnt = 0 ∧ t.cdPhase m = s.cdPhase m) ∧
    (s.cdLead m = true → fLe (fOfNat (s.get F.CD_TH_LIM_TW_MAX m)) tw = true → s.bit F.CD_FLT_THERM m = false → ∃ t, exec (.cdThermalUpdate n) s = .next t ∧
      (t.cdOf m).tw = some tw ∧ t.bit F.CD_FLT_THERM m = true) ∧
    (valid → ¬inRange →
      ∃ t, exec (.cdRwWindow n) s = .next t ∧ t.get F.CD_TH_RW_RW_BAD m = min (2 ^ F.CD_TH_RW_RW_BAD.w - 1) (s.get F.CD_TH_RW_RW_BAD m + 1) ∧ (t.cdOf m).tw = c.tw ∧ again t) ∧
    (valid → inRange →
      ∃ t, exec (.cdRwWindow n) s = .next t ∧ t.get F.CD_TH_RW_RM m = min (num * 100 / den) 65535 ∧ t.get F.CD_TH_RW_AGE m = 0 ∧ again t ∧
        (t.cdOf m).tw = some (fAdd (s.cdTw m) (fDiv (fSub tm (s.cdTw m)).val (fOfNat 4)).val).val) ∧
    (¬valid → ∃ t, exec (.cdRwWindow n) s = .next t ∧ again t ∧ (t.cdOf m).tw = c.tw ∧ t.space = s.space) ∧
    ((∀ b l, c.buckets = b :: l → c.bucketMs < 1000 → l.length < 61 →
        ∃ t, exec (.cdEnergyCheck n) s = .next t ∧ (t.cdOf m).buckets = (b + c.enSum) :: l ∧ (t.cdOf m).bucketMs = c.bucketMs + 1 ∧ (t.cdOf m).enSum = 0 ∧
          (s.cdLead m = true → 200000000 * s.get F.CD_EW_CFG_E_MAX m < t.cdEwin m → t.bit F.CD_FLT_EWIN m = true)) ∧
      (1000 ≤ c.bucketMs → ∃ t, exec (.cdEnergyCheck n) s = .next t ∧ (t.cdOf m).buckets = (c.enSum :: c.buckets).take 61 ∧ (t.cdOf m).bucketMs = 1 ∧
        (t.cdOf m).enSum = 0 ∧ (s.cdLead m = true → 200000000 * s.get F.CD_EW_CFG_E_MAX m < t.cdEwin m → t.bit F.CD_FLT_EWIN m = true))) ∧
    (s.cdLead m = false → exec (.cdThermalUpdate n) s = .next s ∧ ∃ t, exec (.cdEnergyCheck n) s = .next t ∧ t.word (R.CD_FLT.at m) = s.word (R.CD_FLT.at m) ∧
      t.word (R.CD_EW_STAT.at m) = s.word (R.CD_EW_STAT.at m) ∧ t.cdPhase m = s.cdPhase m) ∧
    (∀ v, ∃ t, exec (.cdBudgetUpdate v) s = .next t ∧ t.get F.CD_GSTAT_VCOIL = v % 65536 ∧ t.cdg.pf = pf ∧ t.cdg.lowMs = (if fLt pf (fMul (fOfRat 9 10) s.cdBudgetW).val = true then s.cdg.lowMs + 1 else 0) ∧
      t.get F.CD_DBUD_STAT_PF = min (fCut pf 1000 1).toNat 65535 ∧ t.cdStage = s.cdStage ∧ (t.cdOf m).pathE = 0 ∧ (t.cdOf m).pathS = 0 ∧ (t.cdOf m).pathC = 0) ∧
    (s.cdStage < 6 → fLt s.cdBudgetW s.cdg.pf = true → ∃ t, exec .cdBudgetStageRise s = .next t ∧ t.cdStage = s.cdStage + 1 ∧ (∀ r, s.cdg.riseAt = some r → r + 50000 ≤ t.now)) ∧
    (s.cdStage = 6 ∨ fLt s.cdBudgetW s.cdg.pf = false → ∃ t, exec .cdBudgetStageRise s = .next t ∧ t.cdStage = s.cdStage) ∧
    (0 < s.cdStage → 1000 ≤ s.cdg.lowMs → ∃ t, exec .cdBudgetStageFall s = .next t ∧ t.cdStage = s.cdStage - 1 ∧ t.cdg.lowMs = 0) ∧
    (1000 ≤ s.cdg.overMs → s.cdg.overDone = false → ∃ t, exec .cdBudgetOver s = .next t ∧ t.bit F.CD_DBUD_STAT_OVER = true ∧ t.cdg.overDone = true ∧ exec .cdBudgetOver t = .next t) ∧
    (∀ k, (List.range 32).find? (fun k => s.cdPhase k = Ph.shed && !s.cdShedNow k) = some k →
      ((s.safeOf Cls.coil k).inSafe = false → ∃ t, exec .cdUnshed s = .next t ∧
        t.cdPhase k = Ph.idle ∧ (t.cdOf k).take = true ∧ (∀ r, s.cdg.unshedAt = some r → r + 10000 ≤ t.now) ∧ ∀ j < 32, j ≠ k → t.cdPhase j = s.cdPhase j) ∧
      ((s.safeOf Cls.coil k).inSafe = true → s.cdLead k = true → ∃ t, exec .cdUnshed s = .next t ∧
        t.cdPhase k = Ph.safe ∧ (∀ r, s.cdg.unshedAt = some r → r + 10000 ≤ t.now) ∧ ∀ j < 32, j ≠ k → t.cdPhase j = s.cdPhase j)))

/-- ADC_TRIGGER, FAN_GROUP_TRIGGER (R374, R375), ADC_TIMER_EXPIRY, ADC_START_NORMAL, ADC_START_URGENT (R338 to R341),
ADC_STARTUP_END, ADC_CONVERSION_END (R340, R343, R350, R351, R354), ADC_PASS_MERGE (R344), ACC_PUBLICATION (R346, R347),
ADC_LOCAL_MEAN (R349) and ADC_INJECTION_SAMPLE (R351). -/
def Obligations.ConverterRows : Prop :=
  ∀ (s : State) (k : Fin 4) (p : Path),
    (s.clk.pdOff = true → ∀ src rising g code ovr mask, ∀ c ∈ ([.adcTrigger src rising, .fanGroupTrigger g, .adcStartupEnd k, .adcConversionEnd k code ovr, .adcPassMerge k, .accPublication, .adcInjectionSample mask] : List Instr), exec c s = .next s) ∧
    (s.clk.pdOff = false →
    let c := s.conv k
    let e := s.get F.ADC_STAT_ENTRY k
    let trig (go : Instr) (src : Nat) (rising : Bool) : Prop :=
      src ≠ 0 → s.get F.ADC_CTRL_TSRC k = src → edgeOk src (s.get F.ADC_CTRL_TEDGE k) rising = true → s.get F.ADC_CTRL_USRC k ≠ src →
      (s.adcState k = Adc.idle → ∃ t, exec go s = .next t ∧ t.adcState k = Adc.startup ∧ (t.conv k).startFor = 0 ∧ (t.conv k).cyc = 32 * t.now) ∧
      (s.adcState k = Adc.startup → c.startFor = 1 → ∃ t, exec go s = .next t ∧ t.bit F.ADC_STAT_NPEND k = true ∧ t.conv k = c) ∧
      (s.adcState k = Adc.normal → ∃ t, exec go s = .next t ∧ t.bit F.ADC_EVT_TLOST k = true ∧ t.conv k = c ∧ t.adcState k = Adc.normal ∧
        t.get F.ADC_CNT_TLOST k = min (2 ^ F.ADC_CNT_TLOST.w - 1) (s.get F.ADC_CNT_TLOST k + 1)) ∧
      (s.adcState k = Adc.urgent → s.bit F.ADC_STAT_PREEMPTED k = false → s.bit F.ADC_STAT_NPEND k = false →
        ∃ t, exec go s = .next t ∧ t.bit F.ADC_STAT_NPEND k = true ∧ t.conv k = c)
    let converts (x : AdcCfg) (code : Nat) (ovr : Option Bool) (post : State → Prop) : Prop := s.adcState k = Adc.normal → c.nseq[e]? = some x →
      ∃ t, exec (.adcConversionEnd k code ovr) s = .next t ∧ (t.conv k).cyc = c.cyc + x.cycles ∧ (c.cyc + x.cycles + 31) / 32 ≤ t.now ∧ post t
    (∀ src rising, trig (.adcTrigger src rising) src.val rising) ∧
    (∀ g : Fin 4, let u := s.fanSync g
      (s.bit F.FAN_GTRIG_EN g = true → (u.fanGrp g).per ≠ 0 → trig (.fanGroupTrigger g) (5 + g.val) true ∧
        ∃ t, exec (.fanGroupTrigger g) s = .next t ∧ (u.fanTrigAt g + 79) / 80 ≤ t.now ∧ (t.fanGrp g).trigNo = (u.fanGrp g).trigNo + s.get F.FAN_GTRIG_TDIV g + 1) ∧
      (s.bit F.FAN_GTRIG_EN g = false ∨ (u.fanGrp g).per = 0 → exec (.fanGroupTrigger g) s = .next u)) ∧
    (∀ g : Fin 4, s.bit F.ADC_TMR_EN g = true → s.get F.ADC_CTRL_TSRC k = 9 + g.val → s.get F.ADC_CTRL_USRC k ≠ 9 + g.val → s.adcState k = Adc.idle →
      ∃ t, exec (.adcTimerExpiry g) s = .next t ∧ s.adc.tmrAt.getD g 0 + s.get F.ADC_TMR_PERIOD g ≤ t.now ∧ t.adc.tmrAt.getD g 0 = t.now ∧
        t.adcState k = Adc.startup ∧ (t.conv k).startFor = 0) ∧
    (∀ g : Fin 4, s.bit F.ADC_TMR_EN g = false → exec (.adcTimerExpiry g) s = .next s) ∧
    ((s.who p).tenant = 0 → s.pdReach = true → s.pathOpen p → s.adcState k = Adc.idle →
      (∃ t, exec (.adcStartNormal p k) s = .next t ∧ t.wres = Res.applied ∧ t.adcState k = Adc.startup ∧ (t.conv k).startFor = 0) ∧
      (s.bit F.ADC_CTRL_UEN k = true → ∃ t, exec (.adcStartUrgent p k) s = .next t ∧ t.wres = Res.applied ∧ t.adcState k = Adc.startup ∧ (t.conv k).startFor = 1)) ∧
    ((s.who p).tenant = 0 → s.pdReach = true → s.pathOpen p → s.adcState k = Adc.normal → s.bit F.ADC_CTRL_UEN k = true →
      ∃ t, exec (.adcStartUrgent p k) s = .next t ∧ t.adcState k = Adc.urgent ∧ t.bit F.ADC_STAT_PREEMPTED k = true ∧ t.get F.ADC_STAT_UENTRY k = 0 ∧
        (t.conv k).n = 0 ∧ (t.conv k).pass = {} ∧ (t.conv k).cyc = 32 * s.now + 4) ∧
    ((s.who p).tenant ≠ 0 → s.refusesPd p (.adcStartNormal p k) (R.ADC_START.at k) 1 Res.refRights ∧ s.refusesPd p (.adcStartUrgent p k) (R.ADC_START.at k) 2 Res.refRights) ∧
    (s.adcState k = Adc.startup → c.startFor = 0 → s.bit F.ADC_STAT_UPEND k = false → ∃ t, exec (.adcStartupEnd k) s = .next t ∧ t.adcState k = Adc.normal ∧
      t.get F.ADC_STAT_ENTRY k = 0 ∧ (t.conv k).n = 0 ∧ (t.conv k).cyc = c.cyc + 64 ∧ (t.conv k).nseq = (List.range (s.get F.ADC_CTRL_LEN k + 1)).map (s.entCfg k)) ∧
    (s.adcState k = Adc.startup → c.startFor = 1 → ∃ t, exec (.adcStartupEnd k) s = .next t ∧ t.adcState k = Adc.urgent ∧ t.get F.ADC_STAT_UENTRY k = 0 ∧ (t.conv k).cyc = c.cyc + 64) ∧
    (s.adcState k = Adc.startup → c.startFor = 2 → ∃ t, exec (.adcStartupEnd k) s = .next t ∧ t.adcState k = Adc.check ∧ (t.conv k).chkDue = false) ∧
    (s.adcState k ≠ Adc.startup → exec (.adcStartupEnd k) s = .next s) ∧
    (∀ code ovr, s.adcState k ≠ Adc.normal → s.adcState k ≠ Adc.urgent → s.adcState k ≠ Adc.check → exec (.adcConversionEnd k code ovr) s = .next s) ∧
    (∀ x code ovr, s.adcState k = Adc.urgent → c.useq[s.get F.ADC_STAT_UENTRY k]? = some x → c.rep = false → c.n < x.conv →
      s.suspect k x.pin c.cyc (c.cyc + x.cycles - 24) = false → ∃ t, exec (.adcConversionEnd k code ovr) s = .next t ∧ (t.conv k).cyc = c.cyc + x.cycles ∧ (t.conv k).n = c.n + 1 ∧
        (t.conv k).pass = (if ovr.isSome then { c.pass with novr := c.pass.novr + 1 } else c.pass.add (code % 4096)) ∧ t.adcState k = Adc.urgent) ∧
    (∀ code ovr, s.adcState k = Adc.check → c.rep = false → c.n + 1 < 8 → ∃ t, exec (.adcConversionEnd k code ovr) s = .next t ∧ (t.conv k).n = c.n + 1 ∧ (t.conv k).cyc = c.cyc + 88 ∧
      (t.conv k).pass.sum = c.pass.sum + (match ovr with | some true => 4095 | some false => 0 | none => code % 4096) ∧ (ovr.isSome = true → t.bit F.ADC_FLT_OVR k = true)) ∧
    (∀ x code, c.rep = false → c.n < x.conv →
      (s.suspect k x.pin c.cyc (c.cyc + x.cycles - 24) = false → converts x code none (fun t => (t.conv k).pass = c.pass.add (code % 4096) ∧ (t.conv k).n = c.n + 1 ∧ (t.conv k).fifo = c.fifo)) ∧
      (s.suspect k x.pin c.cyc (c.cyc + x.cycles - 24) = true → converts x code none (fun t => (t.conv k).pass = { c.pass with nsus := c.pass.nsus + 1 } ∧ t.bit F.ADC_FLT_SUSPECT k = true)) ∧
      ∀ high, converts x code (some high) (fun t => (t.conv k).pass = { c.pass with novr := c.pass.novr + 1 } ∧ (t.conv k).lastOvr = true ∧ t.bit F.ADC_FLT_OVR k = true)) ∧
    (∀ x code ovr, c.rep = true → converts x code ovr (fun t => (t.conv k).pass = c.pass ∧ (t.conv k).n = c.n ∧ (t.conv k).rep = false ∧
      t.get F.ADC_CNT2_DISC k = min (2 ^ F.ADC_CNT2_DISC.w - 1) (s.get F.ADC_CNT2_DISC k + 1))) ∧
    (∀ x code, c.rep = false → x.conv ≤ c.n → s.suspect k x.pin c.cyc (c.cyc + x.cycles - 24) = false →
      (e + 1 < c.nseq.length → converts x code none (fun t => (t.conv k).fifo = c.fifo ++ [(e, c.pass.add (code % 4096))] ∧ (t.conv k).n = 0 ∧
        t.get F.ADC_STAT_ENTRY k = (e + 1) % 16 ∧ t.adcState k = Adc.normal)) ∧
      (c.nseq.length ≤ e + 1 → s.bit F.ADC_STAT_NPEND k = false → c.chkDue = false → converts x code none (fun t => (t.conv k).fifo = c.fifo ++ [(e, c.pass.add (code % 4096))] ∧
        t.adcState k = Adc.idle ∧ t.bit F.ADC_EVT_SEQ_END k = true))) ∧
    (c.fifo = [] → exec (.adcPassMerge k) s = .next s) ∧
    (∀ i x l, c.fifo = (i, x) :: l → ∃ t, exec (.adcPassMerge k) s = .next t ∧ (t.conv k).fifo = l ∧ t.space = s.space ∧
      ∀ j, (t.conv k).acc.lookup j = if j = i then some (((c.acc.lookup i).getD {}).merge x) else c.acc.lookup j) ∧
    (s.adc.snaps = [] → exec .accPublication s = .next s) ∧
    (∀ i a pl l n, s.adc.snaps = (k.val, i, a, pl) :: l → s.boundTo Kind.acc (accRef k i 0) = [n] → a.count ≠ 0 →
      let x := (c.used.lookup i).getD (s.entCfg k i)
      let m := s.adcM k x (fOfRat a.sum a.count)
      let u := ({ s with adc := { s.adc with snaps := l } }).ptSource n (bindWord Kind.acc (accRef k i 0)) (s.userCal n (s.adcX k x m)) (!pl && !ntcBad x m)
      (∀ j ∈ [1, 2, 3], u.boundTo Kind.acc (accRef k i j) = []) → exec .accPublication s = .next u) ∧
    (∃ t, exec .adcLocalMean s = .next t ∧ s.adc.lmAt + 100000 ≤ t.now ∧ t.adc.lmAt = t.now ∧ (t.conv k).lsum = [] ∧ (c.lsum = [] → (t.conv k).lmean = c.lmean) ∧ t.space = s.space ∧
      ∀ i sum n, c.lsum = [(i, sum, n)] → n ≠ 0 →
        let x := (c.used.lookup i).getD (s.entCfg k i)
        (t.conv k).lmean.lookup i = some (s.adcX k x (s.adcM k x (fOfRat sum n)), t.now, !ntcBad x (s.adcM k x (fOfRat sum n)))) ∧
    (∀ mask, ∃ t, exec (.adcInjectionSample mask) s = .next t ∧ s.adc.injAt < t.now ∧ t.adc.injAt = t.now ∧
      (t.bit F.ADC_FLT_INJ k = true ↔ s.bit F.ADC_FLT_INJ k = true ∨
        ∃ n < 16, mask.getLsbD (16 * k.val + n) = true ∧ s.get F.ADC_PIN_MODE k n ≠ 0 ∧ s.adc.injPrev.testBit (16 * k.val + n) = true)))

/-- ADC_CHECK_START (R354), ADC_CHECK_COMPLETE (R350, R353, R355, R356) and ADC_CTRL_WRITE (R335, R342, R359). -/
def Obligations.ConverterCheckRows : Prop :=
  ∀ (s : State) (k : Fin 4) (p : Path) (data : Word) (codes : List (Nat × Option Bool)),
    (s.clk.pdOff = true → ∀ c ∈ ([.adcCheckStart k, .adcCheckComplete k codes] : List Instr), exec c s = .next s) ∧
    (s.clk.pdOff = false →
    let c := s.conv k
    let x : AdcCfg := ⟨0, 0, 7, 7, 2, 0, 0⟩
    let clamp (y : Nat × Option Bool) : Nat := match y.2 with | some true => 4095 | some false => 0 | none => y.1 % 4096
    let v := s.adcX k x (s.adcM k x (fOfRat (c.pass.sum + (codes.map clamp).sum) 8))
    let ovr := decide (c.pass.novr ≠ 0) || codes.any (fun y => y.2.isSome)
    let pair := k.val / 2
    (c.chkDue = true → s.adcState k = Adc.idle → ∃ t, exec (.adcCheckStart k) s = .next t ∧ t.adcState k = Adc.startup ∧ (t.conv k).startFor = 2) ∧
    (c.chkDue = false ∨ s.adcState k ≠ Adc.idle → exec (.adcCheckStart k) s = .next s) ∧
    (s.adcState k ≠ Adc.check → exec (.adcCheckComplete k codes) s = .next s) ∧
    (s.adcState k = Adc.check → c.n + codes.length = 8 → codes ≠ [] → c.rep = false →
      (s.adc.open_.getD pair false = false → ∃ t, exec (.adcCheckComplete k codes) s = .next t ∧ t.adcState k = Adc.idle ∧ t.bit F.ADC_EVT_CHK_DONE k = true ∧
        (t.conv k).chkDone = some (v, ovr) ∧ (t.conv k).cyc = c.cyc + 88 * codes.length ∧ ((∃ y ∈ codes, y.2.isSome = true) → t.bit F.ADC_FLT_OVR k = true) ∧ t.ten = s.ten) ∧
      (∀ b, s.adc.open_.getD pair false = true → k.val = 2 * pair → (s.conv (k.val + 1)).chkDone = some b →
        ∃ t, exec (.adcCheckComplete k codes) s = .next t ∧ t.adcState k = Adc.idle ∧ t.adc.open_.getD pair true = false ∧
          t.get F.ADC_CHK_STAT_V_EVEN pair = (fScaled (fMag v) 10000 1).toNat % 65536 ∧ t.get F.ADC_CHK_STAT_V_ODD pair = (fScaled (fMag b.1) 10000 1).toNat % 65536 ∧
          t.get F.ADC_CHK_CNT_CHECKS pair = min (2 ^ F.ADC_CHK_CNT_CHECKS.w - 1) (s.get F.ADC_CHK_CNT_CHECKS pair + 1) ∧
          (fLt (fOfNat (s.get F.ADC_CHK_CFG_TOL pair)) (milli (fMag (fSub v b.1).val)) = true → t.bit F.ADC_FLT_PL_DIFF k = true ∧ t.bit F.ADC_FLT_PL_DIFF (k.val + 1) = true))) ∧
    ((s.who p).tenant = 0 → s.pdReach = true → s.configures p (.adcCtrlWrite p k data) (R.ADC_CTRL.at k) data (fun x => if s.seqOk k x then Res.applied else Res.refConfig)
      (fun x t => if F.ADC_CTRL_EN.of (s.word (R.ADC_CTRL.at k)) = F.ADC_CTRL_EN.of x then t else t.adcStop k)) ∧
    ((s.who p).tenant ≠ 0 → s.refusesPd p (.adcCtrlWrite p k data) (R.ADC_CTRL.at k) data Res.refRights))

/-- FAN_TACH_EDGE, FAN_TACH_TIMEOUT (R376), FAN_COMMAND, FAN_QUAL_CHANGE (R377, R386), FAN_WATCH_END (R382),
FAN_TEST_END, FAN_GROUP_TEST (R384) and FAN_FAULT_CLEAR (R390). -/
def Obligations.FanRows : Prop :=
  ∀ (s : State) (p : Path) (n : Fin 32) (g : Fin 4) (data : Word),
    (s.clk.pdOff = true → ∀ after, ∀ c ∈ ([.fanTachEdge n after, .fanTachTimeout n, .fanCommand n, .fanQualChange n] : List Instr), exec c s = .next s) ∧
    (s.clk.pdOff = false →
    let c := s.fanOf n
    let d := data ||| 0x80000000
    let open0 := (s.who p).tenant = 0 ∧ s.pdReach = true
    (∀ after, c.edgeAt = none → ∃ t, exec (.fanTachEdge n after) s = .next t ∧ t.now = s.now + after ∧ (t.fanOf n).edgeAt = some t.now ∧ t.space = s.space) ∧
    (∀ after x, c.edgeAt = some x →
      (s.now + after - x < 1000000 → ∃ t, exec (.fanTachEdge n after) s = .next t ∧ t.get F.FAN_TACH_PERIOD n = s.now + after - x ∧ t.get F.FAN_SPEED_SPEED n = t.fanSpeed n ∧
        (t.fanOf n).edgeAt = some (s.now + after) ∧ (t.fanOf n).good = if t.fanFast n then c.good + 1 else 0) ∧
      (1000000 ≤ s.now + after - x → ∃ t, exec (.fanTachEdge n after) s = .next t ∧ t.get F.FAN_TACH_PERIOD n = 0 ∧ t.get F.FAN_SPEED_SPEED n = 0 ∧ (t.fanOf n).good = 0) ∧
      (∃ t, exec (.fanTachTimeout n) s = .next t ∧ x + 1000000 ≤ t.now ∧ t.get F.FAN_TACH_PERIOD n = 0 ∧ t.get F.FAN_SPEED_SPEED n = 0 ∧ (t.fanOf n).edgeAt = none)) ∧
    (∀ f, s.pdReach = true → s.fwd.find? (fun f => f.cls == Cls.fan && f.chan == n.val) = some f →
      ∃ t, exec (.fanCommand n) s = .next t ∧ t.cmdOf Cls.fan n = some f.value ∧ t.fwd = s.fwd.erase f ∧ t.space = s.space) ∧
    (∀ f, s.pdReach = true → s.fwd.find? (fun f => f.cls == Cls.fanQual && f.chan == n.val) = some f → ∃ t, exec (.fanQualChange n) s = .next t ∧ t.fwd = s.fwd.erase f ∧ t.space = s.space ∧
      (t.fanOf n).lapseAt = if qualLive f.qual then none else some (c.lapseAt.getD s.now)) ∧
    (∀ x, (s.fanGrp g).watchEnd = some x → ∃ t, exec (.fanWatchEnd g) s = .next t ∧ x ≤ t.now ∧ (t.fanGrp g).watchEnd = none ∧ t.bit F.FAN_GSTAT_WATCH g = false ∧
      t.get F.FAN_GSTAT_WCAUSE g = 0) ∧
    (∀ x, (s.fanGrp g).testEnd = some x → s.ringOpen → ∃ t, exec (.fanTestEnd g) s = .next t ∧ x ≤ t.now ∧ (t.fanGrp g).testEnd = none ∧ t.bit F.FAN_GEVT_TEST_END g = true ∧
      t.log.nextSeq = s.log.nextSeq + 1 ∧ ∀ j < 8, let m := 8 * g.val + j
        let good := s.fanState m = Fs.run ∧ s.fanFast m = true ∧ s.word (R.FAN_FLT.at m) = 0
        ((t.get F.FAN_GSTAT_TEST_PASS g).testBit j = true ↔ s.bit F.FAN_CFG_EN m = true ∧ good) ∧ ((t.get F.FAN_GSTAT_TEST_FAIL g).testBit j = true ↔ s.bit F.FAN_CFG_EN m = true ∧ ¬ good)) ∧
    (open0 → s.pathOpen p → s.fanTestOk g d = true → ∃ t, exec (.fanGroupTest p g data) s = .next t ∧ t.wres = Res.applied ∧
      (t.fanGrp g).testEnd = some (s.now + 1000000 * F.FAN_GCMD_TTIME.of d) ∧ (t.fanGrp g).tduty = F.FAN_GCMD_TDUTY.of d ∧ t.bit F.FAN_GSTAT_WATCH g = true ∧ t.get F.FAN_GSTAT_WCAUSE g = Wc.test) ∧
    (open0 → s.fanTestOk g d = false → s.doesPlain p (.fanGroupTest p g data) Res.refConfig id) ∧
    ((s.who p).tenant ≠ 0 → s.refusesPd p (.fanGroupTest p g data) (R.FAN_GCMD.at g) d Res.refRights ∧ s.refusesPd p (.fanFaultClear p n data) (R.FAN_FLT.at n) data Res.refRights) ∧
    (c.edgeAt = none → exec (.fanTachTimeout n) s = .next s) ∧
    (s.pdReach = false ∨ s.fwd.find? (fun f => f.cls == Cls.fan && f.chan == n.val) = none → exec (.fanCommand n) s = .next s) ∧
    (s.pdReach = false ∨ s.fwd.find? (fun f => f.cls == Cls.fanQual && f.chan == n.val) = none → exec (.fanQualChange n) s = .next s) ∧
    ((s.fanGrp g).watchEnd = none → exec (.fanWatchEnd g) s = .next s) ∧ ((s.fanGrp g).testEnd = none → exec (.fanTestEnd g) s = .next s) ∧
    (∀ fs, fieldsAt (R.FAN_FLT.at n) = some fs → touches fs data = true → open0 →
      let new := mergeWrite fs (s.word (R.FAN_FLT.at n)) data
      s.does p (.fanFaultClear p n data) (Tgt.reg (R.FAN_FLT.at n) (s.word (R.FAN_FLT.at n)) data) Res.applied
        (fun t => if s.word (R.FAN_FLT.at n) = new then t.setWord (R.FAN_FLT.at n) new
          else let t := t.setWord (R.FAN_FLT.at n) new
            (t.setFan n { t.fanOf n with lowAt := none }).fanWatch (n.val / 8) Wc.recovery)))

/-- FAN_EVAL, FAN_KICK_TIMEOUT, FAN_TACH_FAULT, FAN_SUPERVISION_LOST (R378 to R389), GUARD_SAMPLE, GUARD_RELEASE,
GUARD_SENSE_DIFF and GUARD_TG_OPEN (R392 to R394). -/
def Obligations.FanEvaluationRows : Prop :=
  ∀ (s : State) (n : Fin 32),
    (s.clk.pdOff = true → ∀ raw0 raw1 part ext, ∀ c ∈ ([.fanEval, .guardSample raw0 raw1 part ext] : List Instr), exec c s = .next s) ∧
    (s.clk.pdOff = false →
    let c := s.fanOf n
    let g := n.val / 8
    let calm := (s.fanGrp g).testEnd = none ∧ s.bit F.FAN_GSTAT_FAILOVER g = false ∧ s.bit F.FAN_GSTAT_WATCH g = false ∧
      (∀ m ∈ fanMembers g, (s.fanOf m).wasSafe = false ∧ (s.safeOf Cls.fan m).inSafe = false)
    let en := s.bit F.FAN_CFG_EN n = true
    let on := en ∧ (c.enSeq = 0 ∨ c.enSeq = 3)
    (∃ t, exec .fanEval s = .next t ∧ s.fan.evalAt + 1000 ≤ t.now ∧ t.fan.evalAt = t.now ∧
      (s.bit F.FAN_CFG_EN n = false → t.get F.FAN_STAT_SRC n = Src.off) ∧ (c.enSeq = 1 → t.fanState n = Fs.disabled ∧ t.fanDuty n = 0) ∧
      (s.fanState n = Fs.disabled → c.enSeq = 0 → t.fanState n = Fs.disabled ∧ t.fanDuty n = 0) ∧ (t.fanOf n).enSeq = 0 ∧
      (calm → en → c.enSeq ≠ 1 → s.fanRoomFail n = false → s.bit F.FAN_CFG_SUP_HOST n = false → s.bit F.FAN_CFG_SUP_CMD n = false → s.fanState n = Fs.stop →
        t.get F.FAN_STAT_SRC n = Src.command ∧
        (s.fanCmdDuty n = 0 → t.fanState n = Fs.stop ∧ t.fanDuty n = 0) ∧
        (s.fanCmdDuty n ≠ 0 → s.fanFast n = true → t.fanState n = Fs.run ∧ t.fanDuty n = s.fanCmdDuty n) ∧
        (s.fanCmdDuty n ≠ 0 → s.fanFast n = false → t.fanState n = Fs.kick ∧ t.fanDuty n = 1023 ∧
          t.get F.FAN_CNT_KICKS n = min (2 ^ F.FAN_CNT_KICKS.w - 1) (s.get F.FAN_CNT_KICKS n + 1) ∧
          (t.fanOf n).kickDue = some (t.now + 500000 * (s.get F.FAN_TSUP_KICK_TO n + 1))))) ∧
    (∀ x, on → s.fanState n = Fs.kick → c.kickDue = some x → c.good < 2 → ∃ t, exec (.fanKickTimeout n) s = .next t ∧ x ≤ t.now ∧ t.fanState n = Fs.fault ∧
      t.bit F.FAN_FLT_KICK n = true ∧ t.fanDuty n = (if s.fanCrit n then 1023 else 0)) ∧
    (s.fanState n ≠ Fs.kick → exec (.fanKickTimeout n) s = .next s) ∧ (c.lowAt = none → exec (.fanTachFault n) s = .next s) ∧
    (c.lapseAt = none ∨ s.bit F.FAN_CFG_SUP_CMD n = false → exec (.fanSupervisionLost n) s = .next s) ∧
    (s.fan.coolAt = none → exec .guardRelease s = .next s) ∧ (s.fan.diffAt = none → exec .guardSenseDiff s = .next s) ∧ (s.fan.openAt = none → exec .guardTgOpen s = .next s) ∧
    (∀ x, on → s.fanState n = Fs.run → c.lowAt = some x → s.get F.FAN_LIM_SUP_DUTY n ≤ s.fanDuty n → c.settleAt + 100000 * s.get F.FAN_TSUP_SETTLE n ≤ s.now → s.fanFast n = false →
      ∃ t, exec (.fanTachFault n) s = .next t ∧ x + 100000 * s.get F.FAN_TSUP_FT_TIME n ≤ t.now ∧ t.bit F.FAN_FLT_TACH n = true) ∧
    (∀ x, calm → on → s.bit F.FAN_CFG_SUP_CMD n = true → s.fanState n = Fs.run → c.lapseAt = some x → ∃ t, exec (.fanSupervisionLost n) s = .next t ∧
      x + 100000 * s.get F.FAN_SUPT_SUP_TIME n ≤ t.now ∧ t.bit F.FAN_STAT_SUPLOST n = true ∧
      (s.fanCrit n = false → t.get F.FAN_STAT_SRC n = Src.burrow ∧ t.bit F.FAN_STAT_BURROW n = true) ∧
      (s.fanCrit n = true → s.fanRoomFail n = false → t.get F.FAN_STAT_SRC n = Src.supFull ∧ t.fanDuty n = 1023) ∧
      (s.get F.FAN_STAT_SRC n = Src.command → s.fanRoomFail n = false → t.bit F.FAN_EVT_MODE n = true)) ∧
    (∀ raw0 raw1 part ext, let thr : Int := 10 * (guardThr (s.get F.FAN_GUARD_TCRIT) : Nat)
      let ts0 := s.guardTs 0 raw0
      let ts1 := s.guardTs 1 raw1
      ∃ t, exec (.guardSample raw0 raw1 part ext) s = .next t ∧ s.fan.guardAt + 1000 ≤ t.now ∧ t.get F.FAN_GUARD_T0_TS0 = ofSigned 16 ts0 ∧ t.get F.FAN_GUARD_T0_TS1 = ofSigned 16 ts1 ∧
        t.fan.hot0 = (if thr + 400 ≤ ts0 then s.fan.hot0 + 1 else 0) ∧ t.fan.hot1 = (if thr + 400 ≤ ts1 then s.fan.hot1 + 1 else 0) ∧
        t.fan.hotG = (if part * s.guardPull ≤ guardOhm (s.get F.FAN_GUARD_TCRIT) * guardUnit then s.fan.hotG + 1 else 0) ∧ t.bit F.FAN_GUARD_PIN = (!(s.bit F.FAN_GUARD_TRIP || ext))) ∧
    (∀ x, s.fan.coolAt = some x → s.bit F.FAN_GUARD_TRIP = true → ∃ t, exec .guardRelease s = .next t ∧ x + 60000000 ≤ t.now ∧ t.bit F.FAN_GUARD_TRIP = false ∧
      t.bit F.FAN_GUARD_PIN = !s.fan.extLow) ∧
    (s.bit F.FAN_GUARD_TRIP = false → exec .guardRelease s = .next s) ∧
    (∀ x, s.fan.diffAt = some x → s.bit F.FAN_GUARD_FLT_SENSE_DIFF = false → ∃ t, exec .guardSenseDiff s = .next t ∧ x + 1000000 ≤ t.now ∧ t.bit F.FAN_GUARD_FLT_SENSE_DIFF = true ∧
      (s.linkUp = true → t.ic.pendOf 195 = true) ∧ (s.linkUp = false → t.fan.guardIrq = true)) ∧
    (∀ x, s.fan.openAt = some x → s.bit F.FAN_GUARD_FLT_TG_OPEN = false → ∃ t, exec .guardTgOpen s = .next t ∧ x + 1000000 ≤ t.now ∧ t.bit F.FAN_GUARD_FLT_TG_OPEN = true ∧
      (s.linkUp = true → t.ic.pendOf 195 = true) ∧ (s.linkUp = false → t.fan.guardIrq = true)))

/-- DI_STATE_CHANGE, DI_CFG_WRITE, DI_CNTSET (R414 to R421), PD_TICK_ARRIVAL (R345), VFIELD_LOW and VFIELD_RECOVER
(R431). A contact is sampled every 4 µs; `m` samples more that differ from the debounced state complete its run (R416). -/
def Obligations.FieldContactRows : Prop :=
  ∀ (s : State) (p : Path) (n : Fin 64) (data : Word) (raw : Bool) (v k : Nat),
    (s.clk.pdOff = true → ∀ c ∈ ([.diStateChange n raw k, .vfieldLow v, .vfieldRecover v] : List Instr), exec c s = .next s) ∧
    (s.clk.pdOff = false →
    let open0 := (s.who p).tenant = 0 ∧ s.pdReach = true
    let old := s.fio.di.getLsbD n
    let differs := (raw != s.bit F.DI_CFG_INV n) = !old
    let m := diNeed (s.get F.DI_CFG_DEB n) - s.diRun n
    let samples (post : State → Prop) : Prop := ∃ t, exec (.diStateChange n raw k) s = .next t ∧ t.fio.di = s.fio.di ∧ t.fio.raw.getLsbD n = raw ∧ t.space = s.space ∧
      Nat.max (Tab.get (fun _ => 0) s.fio.sampAt n) s.fio.vfAt + 4 * k ≤ t.now ∧ post t
    (s.bit F.DI_CFG_EN n = false ∨ k = 0 → exec (.diStateChange n raw k) s = .next s) ∧
    (s.bit F.DI_CFG_EN n = true → k ≠ 0 →
      (s.bit F.FIO_GSTAT_VF_LOW = true ∨ ¬differs → samples (fun t => t.diRun n = 0)) ∧
      (s.bit F.FIO_GSTAT_VF_LOW = false → differs → k < m → samples (fun t => t.diRun n = s.diRun n + k)) ∧
      (s.bit F.FIO_GSTAT_VF_LOW = false → differs → m ≤ k → s.fio.invBy.getLsbD n = false →
        ∃ u : State, exec (.diStateChange n raw k) s = .next ((if s.linkUp then u.sourceAll Kind.contact n (fOfNat (b2n !old)) true else u).diPass n (k - m) 0) ∧
        u.fio.di.getLsbD n = (!old) ∧ (∀ m < 64, m ≠ n → u.fio.di.getLsbD m = s.fio.di.getLsbD m) ∧
        (u.bit F.DI_EVT_RISE n = if old then s.bit F.DI_EVT_RISE n else true) ∧ (u.bit F.DI_EVT_FALL n = if old then true else s.bit F.DI_EVT_FALL n) ∧
        u.get F.DI_CNT_COUNT n = (if s.get F.DI_CFG_CEDGE n = 2 ∨ (s.get F.DI_CFG_CEDGE n = 0 ↔ old = false) then (s.get F.DI_CNT_COUNT n + 1) % 2 ^ 32 else s.get F.DI_CNT_COUNT n) ∧
        Nat.max (Tab.get (fun _ => 0) s.fio.sampAt n) s.fio.vfAt + 4 * m ≤ u.now ∧
        ∀ b, b ≠ R.DI_EVT.at n → b ≠ R.DI_CNT.at n → u.word b = s.word b)) ∧
    (open0 → s.configures p (.diCfgWrite p n data) (R.DI_CFG.at n) data (fun x => if F.DI_CFG_WET.of x = 3 then Res.refConfig else Res.applied) (fun x t =>
        let on (x : Word) : Bool := F.DI_CFG_EN.of x == 1
        let o := s.word (R.DI_CFG.at n)
        let flip := on o && on x && F.DI_CFG_INV.of o != F.DI_CFG_INV.of x
        let t := t.setFio { t.fio with invBy := bv64Set t.fio.invBy n (on o && on x && (t.fio.invBy.getLsbD n != flip)) }
        let t := if on o && !on x && t.fio.raw.getLsbD n then t.diDrop n else t
        if on o == on x && !flip && F.DI_CFG_WET.of o = F.DI_CFG_WET.of x then t
        else t.setFio { t.fio with runs := Tab.set (fun _ => 0) t.fio.runs n 0, sampAt := Tab.set (fun _ => 0) t.fio.sampAt n t.now }) ∧
      s.does p (.diCntset p n data) (Tgt.reg (R.DI_CNTSET.at n) (s.word (R.DI_CNT.at n)) data) Res.applied (fun t => t.setWord (R.DI_CNT.at n) data)) ∧
    ((s.who p).tenant ≠ 0 → s.refusesPd p (.diCfgWrite p n data) (R.DI_CFG.at n) data Res.refRights ∧ s.refusesPd p (.diCntset p n data) (R.DI_CNTSET.at n) data Res.refRights) ∧
    (s.pdReach = false → exec .pdTickArrival s = .next s) ∧
    (s.pdReach = true → ∃ t, exec .pdTickArrival s = .next t ∧ ∀ k < 4, ∀ e < 20, F.ADC_ENT_SNAPDIV.of (s.entWord k e) ≠ 0 → s.frame % F.ADC_ENT_SNAPDIV.of (s.entWord k e) = 0 →
      (k, e, ((s.conv k).acc.lookup e).getD {}, s.plaus k) ∈ t.adc.snaps ∧ (t.conv k).acc.lookup e = none) ∧
    (let low := s.bit F.FIO_GSTAT_VF_LOW = true
      let held (i : Instr) (vf : Bool) (post : State → Prop) : Prop := ∃ t, exec i s = .next t ∧ t.bit F.FIO_GSTAT_VF_LOW = vf ∧ t.get F.FIO_GSTAT_VFIELD = v % 2 ^ F.FIO_GSTAT_VFIELD.w ∧
        t.fio.di = s.fio.di ∧ post t
      (¬low → v < 1650 → held (.vfieldLow v) true (fun t => s.fio.vfHi + 1000 ≤ t.now ∧ t.fio.runs = [])) ∧
      (low ∨ 1650 ≤ v → held (.vfieldLow v) (s.bit F.FIO_GSTAT_VF_LOW) (fun t => t.now = s.now ∧ t.fio.runs = s.fio.runs)) ∧
      (low → 1700 < v → held (.vfieldRecover v) false (fun t => s.fio.vfLo + 10000 ≤ t.now ∧ t.fio.vfAt = t.now)) ∧
      (¬low ∨ v ≤ 1700 → held (.vfieldRecover v) (s.bit F.FIO_GSTAT_VF_LOW) (fun t => t.now = s.now ∧ t.fio.vfAt = s.fio.vfAt))))

/-- DO_EVAL, DO_COMMAND, DO_MIN_TIME_EXPIRY, DO_OVERCURRENT, DO_THERMAL_TRIP, DO_OPENLOAD_DETECT, DO_OPENLOAD_CLEAR,
DO_FAULT_CLEAR (R422 to R427), AO_UPDATE, AO_COMMAND, AO_OVERLOAD and AO_FAULT_CLEAR (R428 to R430). -/
def Obligations.FieldOutputRows : Prop :=
  ∀ (s : State) (p : Path) (n : Fin 32) (a : Fin 16) (data : Word),
    (s.clk.pdOff = true → ∀ c ∈ ([.doEval, .doCommand n, .doOvercurrent n, .doThermalTrip n, .doOpenloadDetect n, .doOpenloadClear n, .aoUpdate, .aoCommand a, .aoOverload a] : List Instr), exec c s = .next s) ∧
    (s.clk.pdOff = false →
    let open0 := (s.who p).tenant = 0 ∧ s.pdReach = true
    let d := s.doOf n
    let least := 100000 * (if s.doClosed n then s.get F.DO_TIME_MIN_ON n else s.get F.DO_TIME_MIN_OFF n)
    let live := d.tripAt = none ∧ d.offReq = false ∧ s.word (R.DO_FLT.at n) = 0 ∧ s.bit F.DO_CFG_EN n = true ∧ (s.safeOf Cls.relay n).inSafe = false
    let trips (c : Instr) (f : Fld) : Prop :=
      (s.doClosed n = true → d.tripAt = none → s.word (R.DO_FLT.at n) = 0 → ∃ t, exec c s = .next t ∧ t.bit f n = true ∧ (t.doOf n).tripAt = some t.now ∧ s.now ≤ t.now ∧
        (f = F.DO_FLT_OVC → d.since + 2000 ≤ t.now)) ∧
      (s.doClosed n = false ∨ d.tripAt ≠ none ∨ s.word (R.DO_FLT.at n) ≠ 0 → exec c s = .next s)
    let olTimed := s.bit F.DO_CFG_OL_EN n = true ∧ s.doClosed n = false ∧ s.bit F.FIO_GSTAT_VF_LOW = false
    let clears (c : Instr) (r : Nat) (after : Word → State → State) : Prop := (open0 → ∀ fs, fieldsAt r = some fs →
        (touches fs data = true → let new := mergeWrite fs (s.word r) data
          s.does p c (Tgt.reg r (s.word r) data) Res.applied (fun t => after new (t.setWord r new))) ∧
        (touches fs data = false → s.doesPlain p c Res.applied id)) ∧
      ((s.who p).tenant ≠ 0 → s.refusesPd p c r data Res.refRights)
    (∃ t, exec .doEval s = .next t ∧ s.fio.evalAt + 1000 ≤ t.now ∧ t.fio.evalAt = t.now ∧
      (s.word (R.DO_FLT.at n) ≠ 0 ∨ s.bit F.DO_CFG_EN n = false ∨ d.offReq = true → t.doClosed n = false ∧ t.bit F.DO_STAT_PEND n = false) ∧
      (live → t.bit F.DO_STAT_CMD n = s.doCmd n ∧
        (s.doCmd n = s.doClosed n → t.doClosed n = s.doClosed n ∧ t.bit F.DO_STAT_PEND n = false) ∧
        (s.doCmd n ≠ s.doClosed n → d.since + least ≤ t.now → t.doClosed n = s.doCmd n ∧ t.bit F.DO_STAT_PEND n = false ∧ (t.doOf n).since = t.now) ∧
        (s.doCmd n ≠ s.doClosed n → t.now < d.since + least → t.doClosed n = s.doClosed n ∧ t.bit F.DO_STAT_PEND n = true))) ∧
    (live → s.bit F.DO_STAT_PEND n = true → s.doCmd n ≠ s.doClosed n → ∃ t, exec (.doMinTimeExpiry n) s = .next t ∧ d.since + least ≤ t.now ∧ t.doClosed n = s.doCmd n ∧
      t.bit F.DO_STAT_PEND n = false) ∧
    (s.bit F.DO_STAT_PEND n = false → exec (.doMinTimeExpiry n) s = .next s) ∧
    trips (.doOvercurrent n) F.DO_FLT_OVC ∧ trips (.doThermalTrip n) F.DO_FLT_THERM ∧
    (olTimed → (∃ t, exec (.doOpenloadDetect n) s = .next t ∧ Nat.max (Nat.max d.since s.fio.vfAt) d.below + 1000000 ≤ t.now ∧ t.bit F.DO_STAT_OPENLOAD n = true ∧
        (t.doOf n).above = t.now) ∧
      (∃ t, exec (.doOpenloadClear n) s = .next t ∧ Nat.max (Nat.max d.since s.fio.vfAt) d.above + 1000000 ≤ t.now ∧ t.bit F.DO_STAT_OPENLOAD n = false ∧
        (t.doOf n).below = t.now)) ∧
    (¬ olTimed → exec (.doOpenloadDetect n) s = .next s ∧ exec (.doOpenloadClear n) s = .next s) ∧
    (∀ f, s.pdReach = true → s.fwd.find? (fun f => f.cls == Cls.relay && f.chan == n.val) = some f → ∃ t, exec (.doCommand n) s = .next t ∧ t.cmdOf Cls.relay n = some f.value ∧ t.fwd = s.fwd.erase f ∧ t.space = s.space) ∧
    (∀ f, s.pdReach = true → s.fwd.find? (fun f => f.cls == Cls.ao && f.chan == a.val) = some f → ∃ t, exec (.aoCommand a) s = .next t ∧ t.cmdOf Cls.ao a = some f.value ∧ t.fwd = s.fwd.erase f ∧ t.space = s.space) ∧
    (∃ t, exec .aoUpdate s = .next t ∧ s.fio.aoAt + 100 ≤ t.now ∧ t.get F.AO_STAT_VOUT a = t.aoVa a * 1000 / aoVolt % 2 ^ F.AO_STAT_VOUT.w ∧
      (s.bit F.AO_FLT_OVL a = true ∨ s.bit F.AO_CFG_EN a = false ∨ a.val ∈ s.fio.aoOff → t.aoVa a = 0) ∧ t.fio.aoOff = [] ∧
      (s.bit F.AO_FLT_OVL a = false → a.val ∉ s.fio.aoOff → s.bit F.AO_CFG_EN a = true → (s.safeOf Cls.ao a).inSafe = false → ∀ v, s.cmdOf Cls.ao a = some v →
        let slew := s.get F.AO_CFG_SLEW a
        (slew = 0 → t.aoVa a = aoTarget v) ∧
        (slew ≠ 0 → s.aoVa a ≤ aoTarget v → t.aoVa a = min (aoTarget v) (s.aoVa a + slew * 2 ^ 149)) ∧
        (slew ≠ 0 → aoTarget v < s.aoVa a → t.aoVa a = max (aoTarget v) (s.aoVa a - slew * 2 ^ 149)))) ∧
    (s.bit F.AO_CFG_EN a = true → s.bit F.AO_FLT_OVL a = false → ∃ t, exec (.aoOverload a) s = .next t ∧
      Nat.max (Tab.get (fun _ => 0) s.fio.aoLim a) s.fio.startAt + 100000 ≤ t.now ∧ t.bit F.AO_FLT_OVL a = true ∧ t.aoVa a = 0 ∧ t.get F.AO_STAT_VOUT a = 0) ∧
    (s.bit F.AO_CFG_EN a = false ∨ s.bit F.AO_FLT_OVL a = true → exec (.aoOverload a) s = .next s) ∧
    (s.pdReach = false ∨ s.fwd.find? (fun f => f.cls == Cls.relay && f.chan == n.val) = none → exec (.doCommand n) s = .next s) ∧
    (s.pdReach = false ∨ s.fwd.find? (fun f => f.cls == Cls.ao && f.chan == a.val) = none → exec (.aoCommand a) s = .next s) ∧
    clears (.doFaultClear p n data) (R.DO_FLT.at n) (fun _ t => t) ∧
    clears (.aoFaultClear p a data) (R.AO_FLT.at a) (fun new t => if s.word (R.AO_FLT.at a) = new then t else t.aoLimit a))

/-- ZB_DATA_FRAME, ZB_REMOTE_FRAME, ZB_REPLY, ZB_ANNOUNCE, ZB_HEARTBEAT, ZB_NODE_WRITE and ZB_NODE_TIMEOUT (R442, R451
to R457, R464 to R469). A FD frame with a recessive res bit is a protocol exception, or with PXD 1 a form error (R442); that one
received while FDOE is 0 is taken the same way is the model's choice, log entry 81. -/
def Obligations.ZoneBusReceptionRows : Prop :=
  ∀ (s : State) (z : Fin 16) (f : CanFrame) (n : Fin 32) (ide : Bool) (id : Nat),
    let x := s.seg z
    let live := s.zbLive z = true ∧ s.get F.ZB_STAT_ACTIVE z ≠ 3
    let clear := live ∧ (f.fdf = true → f.res = false ∧ s.bit F.ZB_CTRL_FDOE z = true)
    let bumped (t : State) (f : Fld) : Prop := t.get f z = min (2 ^ f.w - 1) (s.get f z + 1)
    let d := frBytes f
    let dlc := f.dlc % 16
    let a := nodeIdx (frSource f)
    let ser := leVal (d.take 6)
    let i := leVal (d.take 2)
    let op := leVal ((d.drop 2).take 1)
    let fresh0 := x.hwq.length < 8 ∧ x.nw.lookup a = none
    let answered (t : State) (res : Nat) : Prop := ∃ id, (t.seg z).hwq = x.hwq ++ [⟨id, leBytes 1 res ++ leBytes 1 0⟩] ∧ id / 2 ^ 20 % 64 = 0x21 ∧ id % 1024 = frTag f ∧
      (t.seg z).nw.lookup a = if s.bit F.ZB_NW_EN z then some [(frTag f, res, s.now)] else none
    let rows : List Instr := [.zbDataFrame z f, .zbReply z f, .zbAnnounce z f, .zbHeartbeat z f, .zbNodeWrite z f]
    (¬ live → (∀ c ∈ rows, exec c s = .next s) ∧ exec (.zbRemoteFrame z ide id) s = .next s) ∧
    (live → f.fdf = true → f.res = true ∨ s.bit F.ZB_CTRL_FDOE z = false → ∀ c ∈ rows, ∃ t, exec c s = .next t ∧ t.zb = s.zb ∧
      (s.bit F.ZB_CTRL_PXD z = false → t.bit F.ZB_STAT_PXE z = true ∧ t.bit F.ZB_EVT_PXE z = true ∧ t.zbLive z = false) ∧
      (s.bit F.ZB_CTRL_PXD z = true → bumped t F.ZB_CNT3_BUSERR ∧ t.get F.ZB_ERRCNT_REC z = min (s.get F.ZB_ERRCNT_REC z + 1) 127 ∧
        (s.bit F.ZB_LASTERR_VALID z = false → t.get F.ZB_LASTERR_CODE z = 4))) ∧
    (live → ∃ t, exec (.zbRemoteFrame z ide id) s = .next t ∧ bumped t F.ZB_CNT2_NOMATCH ∧ (s.bit F.ZB_ERRCNT_RP z = false → t.get F.ZB_ERRCNT_REC z = s.get F.ZB_ERRCNT_REC z - 1) ∧
      let g : CanFrame := ⟨ide, id, false, false, false, 0, [], false⟩
      let from_ := ide = true ∧ frCls g ≠ 0 ∧ frCls g < 32 ∧ frDest g = 0 ∧ s.bit F.ZB_NODE_CFG_EN z (nodeIdx (frSource g)) = true
      (from_ → t.get F.ZB_NODE_CFG_STATE z (nodeIdx (frSource g)) = 2 ∧ (t.seg z).seen.lookup (nodeIdx (frSource g)) = some s.now) ∧ (¬ from_ → t.zb = s.zb)) ∧
    (clear → f.ide = false →
      ((∀ b < 64, s.zbMatch z b f = false) → ∃ t, exec (.zbDataFrame z f) s = .next t ∧ bumped t F.ZB_CNT2_NOMATCH ∧ t.zb = s.zb) ∧
      (∀ b < 64, (∀ c < b, s.zbMatch z c f = false) → s.zbMatch z b f = true → d.length ≤ capacity (s.bufCfg z b) → (areaOf (s.bufCfg z b)).2 ≤ 1536 →
        (∀ e ∈ s.listed R.PT_BIND, F.PT_BIND_KIND.of e.2 ≠ Kind.zbField) → ∃ t, exec (.zbDataFrame z f) s = .next t ∧ t.zb = s.zb ∧
          t.bit F.ZB_BUF_STAT_NEWD z b = true ∧ t.bit F.ZB_BUF_STAT_MSGLOST z b = (s.bit F.ZB_BUF_STAT_MSGLOST z b || s.bit F.ZB_BUF_STAT_NEWD z b) ∧
          t.get F.ZB_BUF_STAT_DLC z b = dlc ∧ bumped t F.ZB_CNT_RXOK ∧ t.bit F.ZB_EVT_RX z = true ∧
          ∀ j, (h : j < d.length) → t.payByte z ((areaOf (s.bufCfg z b)).1 + j) = d[j])) ∧
    (clear → f.ide = true → frDest f = 0 → frCls f < 32 → 2 < frCls f → (s.word (R.ZB_TAGCLS.at z)).getLsbD (frCls f) = true → s.bit F.ZB_NODE_CFG_EN z a = false →
      (x.tags.lookup (frTag f) = none → ∃ t, exec (.zbReply z f) s = .next t ∧ bumped t F.ZB_CNT2_LATE ∧ t.bit F.ZB_EVT_LATE z = true ∧ t.zb = s.zb) ∧
      (∀ at_, x.tags.lookup (frTag f) = some ⟨2, frSource f, at_⟩ → ∃ t, exec (.zbReply z f) s = .next t ∧ (t.seg z).tags.lookup (frTag f) = some ⟨3, 0, s.now⟩)) ∧
    (clear → frDest f = 0 →
      (dlc ≠ 8 → ∃ t, exec (.zbAnnounce z f) s = .next t ∧ bumped t F.ZB_CNT2_NOMATCH ∧ t.zb = s.zb) ∧
      (dlc = 8 → s.bit F.ZB_ENUM_EN z = false → ∃ t, exec (.zbAnnounce z f) s = .next t ∧ t.zb = s.zb ∧ t.ten = s.ten) ∧
      (dlc = 8 → s.bit F.ZB_ENUM_EN z = true → (∀ j < 32, s.bit F.ZB_NODE_CFG_EN z j = false ∨ s.nodeSerial z j ≠ ser) → s.bit F.ZB_UNK_HI_VALID z = false →
        ∃ t, exec (.zbAnnounce z f) s = .next t ∧
        t.bit F.ZB_EVT_UNKNOWN z = true ∧ t.bit F.ZB_UNK_HI_VALID z = true ∧ t.get F.ZB_UNK_LO_SERIAL z = ser % 2 ^ 32 ∧ t.get F.ZB_UNK_HI_SERIAL z = ser / 2 ^ 32 % 2 ^ 16 ∧ t.zb = s.zb) ∧
      (dlc = 8 → s.bit F.ZB_ENUM_EN z = true → (∀ j < n.val, s.bit F.ZB_NODE_CFG_EN z j = false ∨ s.nodeSerial z j ≠ ser) → s.bit F.ZB_NODE_CFG_EN z n = true →
        s.nodeSerial z n = ser → x.hwq.length < 8 →
        ∃ t id, exec (.zbAnnounce z f) s = .next t ∧ t.get F.ZB_NODE_CFG_STATE z n = 1 ∧ id / 2 ^ 20 % 64 = 0x20 ∧ id / 2 ^ 10 % 32 = (n.val + 1) % 32 ∧
          (t.seg z).hwq = x.hwq ++ [⟨id, d.take 6 ++ leBytes 1 (n.val + 1) ++ leBytes 1 (s.get F.ZB_ENUM_HBPER z)⟩])) ∧
    (clear → frDest f = 0 → s.bit F.ZB_NODE_CFG_EN z a = true →
      (∃ t, exec (.zbHeartbeat z f) s = .next t ∧ t.get F.ZB_NODE_CFG_STATE z a = 2 ∧ (t.seg z).seen.lookup a = some s.now ∧
        (8 < dlc → bumped t F.ZB_CNT2_NOMATCH) ∧ (dlc ≤ 8 → t.get F.ZB_CNT2_NOMATCH z = s.get F.ZB_CNT2_NOMATCH z)) ∧
      (dlc ≠ 8 → ∃ t, exec (.zbNodeWrite z f) s = .next t ∧ bumped t F.ZB_CNT2_NOMATCH ∧ (t.seg z).hwq = x.hwq) ∧
      (dlc = 8 → leVal ((d.drop 3).take 1) = 0 → op ≤ 1 → fresh0 →
        let u := ((s.recDown z).fcsPassive z).nodeFrame z a
        let w : Who := ⟨15, s.get F.ZB_NW_TENANT z, 9, s.get F.ZB_NW_PRIO z, true, 15⟩
        let v := Word.ofN (leVal ((d.drop 4).take 4))
        (s.bit F.ZB_NW_EN z = false → ∃ t, exec (.zbNodeWrite z f) s = .next t ∧ t.get F.ZB_NODE_CFG_STATE z a = 2 ∧ answered t Res.refRights) ∧
        (s.bit F.ZB_NW_EN z = true → 32768 ≤ i → s.ringOpen → ∃ t, exec (.zbNodeWrite z f) s = .next t ∧ answered t Res.refConfig ∧
          ∃ r : AuditRec, r ∈ t.log.ring ∧ r.tenant = w.tenant ∧ r.ifc = 9 ∧ r.ttype = 3 ∧ r.result = Res.refConfig ∧ r.new = v) ∧
        (s.bit F.ZB_NW_EN z = true → i < 32768 → ∃ t, exec (.zbNodeWrite z f) s = .next t ∧ answered t t.wres ∧
          let r := u.ptWrite w i (if op = 0 then .write else .relinquish) (s.get F.ZB_NW_PRIO z) v 0
          t.space = r.space ∧ t.wres = r.wres))) ∧
    (s.get F.ZB_NODE_CFG_STATE z n ≠ 0 → ∃ t, exec (.zbNodeTimeout z n) s = .next t ∧ t.get F.ZB_NODE_CFG_STATE z n = 0 ∧ t.bit F.ZB_EVT_NODE z = true ∧
      ∀ at_, x.seen.lookup n.val = some at_ → at_ + 300000 * s.get F.ZB_ENUM_HBPER z ≤ t.now) ∧
    (s.get F.ZB_NODE_CFG_STATE z n = 0 → exec (.zbNodeTimeout z n) s = .next s)

/-- ZB_TXREQ, ZB_TXABORT, ZB_FRAME_CHOICE, ZB_TX_END (R458 to R463), ZB_BUS_ERROR, ZB_RECOVER, ZB_RECOVERY_COMPLETE
(R446, R447), ZB_MODE_WRITE, ZB_INTEGRATED (R444, R448), ZB_TAG_OPEN_TIMEOUT and ZB_TAG_QUARANTINE_END (R464). -/
def Obligations.ZoneBusTransmissionRows : Prop :=
  ∀ (s : State) (p : Path) (z : Fin 16) (b : Fin 64) (data : Word),
    let w := s.who p
    let x := s.seg z
    let bumped (t : State) (f : Fld) : Prop := t.get f z = min (2 ^ f.w - 1) (s.get f z + 1)
    let may := s.pathOpen p ∧ s.zbMayUse w.tenant (R.ZB_BUF_STAT.at z b) = true
    let cfg := s.bufCfg z b
    let can := s.bit F.ZB_BUF_STAT_TXREQ z b = false ∧ F.ZB_BUF_CFG_DIR.of cfg = 2 ∧ (F.ZB_BUF_CFG_FDF.of cfg = 0 → F.ZB_BUF_CFG_TXDLC.of cfg ≤ 8) ∧
      (F.ZB_BUF_CFG_FDF.of cfg = 1 → s.bit F.ZB_CTRL_FDOE z = true)
    let t0 := F.ZB_BUF_CFG_TENANT.of cfg
    let plain (t : State) : Prop := t.log = s.log ∧ ∀ c < 64, c ≠ b.val → (t.seg z).reqs.lookup c = x.reqs.lookup c
    (may → can → s.tstate w.tenant ≠ 2 →
      (F.ZB_BUF_CFG_TAGGED.of cfg = 0 → ∃ t, exec (.zbTxreq p z b) s = .next t ∧ t.wres = Res.applied ∧ t.bit F.ZB_BUF_STAT_TXREQ z b = true ∧
        (t.seg z).reqs.lookup b.val = some { tenant := t0, gen := s.gen t0, tag := none } ∧ plain t) ∧
      (∀ g, F.ZB_BUF_CFG_TAGGED.of cfg = 1 → x.freeTag = some g → ∃ t, exec (.zbTxreq p z b) s = .next t ∧ t.bit F.ZB_BUF_STAT_TXREQ z b = true ∧
        (t.seg z).reqs.lookup b.val = some { tenant := t0, gen := s.gen t0, tag := some g } ∧ (t.seg z).tags.lookup g = some ⟨1, bitsOf (s.word (R.ZB_BUF_ID.at z b)) 10 5, s.now⟩ ∧
        t.get F.ZB_BUF_STAT_TAG z b = g % 1024 ∧ plain t)) ∧
    (may → F.ZB_BUF_CFG_DIR.of cfg ≠ 2 → ∃ t, exec (.zbTxreq p z b) s = .next t ∧ t.zb = s.zb) ∧
    (s.zbMayUse w.tenant (R.ZB_BUF_STAT.at z b) = true → s.tstate w.tenant = 2 → s.doesPlain p (.zbTxreq p z b) Res.refRights id) ∧
    (s.zbMayUse w.tenant (R.ZB_BUF_STAT.at z b) = false → s.doesPlain p (.zbTxreq p z b) Res.refRights id ∧ s.doesPlain p (.zbTxabort p z b) Res.refRights id) ∧
    (∀ r, may → x.reqs.lookup b.val = some r →
      (x.onBus = some (.buf b) → ∃ t, exec (.zbTxabort p z b) s = .next t ∧ (t.seg z).reqs.lookup b.val = some { r with abort := true } ∧ t.bit F.ZB_BUF_STAT_TXREQ z b = s.bit F.ZB_BUF_STAT_TXREQ z b) ∧
      (x.onBus ≠ some (.buf b) → r.tag = none → ∃ t, exec (.zbTxabort p z b) s = .next t ∧ (t.seg z).reqs.lookup b.val = none ∧ t.bit F.ZB_BUF_STAT_TXREQ z b = false ∧
        t.get F.ZB_BUF_STAT_TXRES z b = Tx.aborted ∧ plain t)) ∧
    (s.zbMaySend z = true → x.onBus = none → s.zbCandidates z ≠ [] → ∃ t, ∃ e ∈ s.zbCandidates z, exec (.zbFrameChoice z) s = .next t ∧ (t.seg z).onBus = some e.1 ∧ t.space = s.space ∧
      ∀ c ∈ s.zbCandidates z, e.2 ≤ c.2) ∧
    (s.zbMaySend z = false ∨ x.onBus.isSome = true ∨ s.zbCandidates z = [] → exec (.zbFrameChoice z) s = .next s) ∧
    (∀ e v, x.onBus = none → exec (.zbTxEnd z e v) s = .next s) ∧
    (∀ r v, x.onBus = some (.buf b) → x.reqs.lookup b.val = some r → x.rst = false → s.get F.ZB_STAT_ACTIVE z ≠ 3 →
      (r.tag = none → ∃ t, exec (.zbTxEnd z .done v) s = .next t ∧ (t.seg z).onBus = none ∧ (t.seg z).reqs.lookup b.val = none ∧ t.bit F.ZB_BUF_STAT_TXREQ z b = false ∧
        t.get F.ZB_BUF_STAT_TXRES z b = Tx.done ∧ t.bit F.ZB_EVT_TXDONE z = true ∧ bumped t F.ZB_CNT_TXOK ∧ t.get F.ZB_ERRCNT_TEC z = s.get F.ZB_ERRCNT_TEC z - 1 ∧
        t.get F.ZB_TDC_TDCV z = if s.bit F.ZB_TDC_TDCE z = true ∧ F.ZB_BUF_CFG_FDF.of cfg = 1 ∧ F.ZB_BUF_CFG_BRS.of cfg = 1 then v % 2 ^ F.ZB_TDC_TDCV.w else s.get F.ZB_TDC_TDCV z) ∧
      (∀ g, r.tag = some g → ∃ t d, exec (.zbTxEnd z .done v) s = .next t ∧ t.get F.ZB_BUF_STAT_TXRES z b = Tx.done ∧ (t.seg z).tags.lookup g = some ⟨2, d, s.now⟩) ∧
      (r.abort = false → s.bit F.ZB_BUF_CFG_ONESHOT z b = false → ∃ t, exec (.zbTxEnd z .arbLost v) s = .next t ∧ (t.seg z).onBus = none ∧ (t.seg z).reqs.lookup b.val = some r ∧
        t.get F.ZB_TDC_TDCV z = s.get F.ZB_TDC_TDCV z)) ∧
    (∀ code add dat late tdcv, s.zbLive z = true →
      (∃ t, exec (.zbBusError z code add dat false late tdcv) s = .next t ∧ bumped t F.ZB_CNT3_BUSERR ∧ t.get F.ZB_ERRCNT_REC z = min (s.get F.ZB_ERRCNT_REC z + add.val) 127 ∧
        (s.bit F.ZB_LASTERR_VALID z = false → t.get F.ZB_LASTERR_CODE z = code.val + 1 ∧ t.bit F.ZB_LASTERR_DATA z = dat ∧ t.bit F.ZB_LASTERR_TX z = false ∧ t.bit F.ZB_LASTERR_VALID z = true)) ∧
      (s.get F.ZB_ERRCNT_TEC z + add.val ≤ 255 → ∃ t, exec (.zbBusError z code add dat true late tdcv) s = .next t ∧ bumped t F.ZB_CNT3_BUSERR ∧
        t.get F.ZB_ERRCNT_TEC z = s.get F.ZB_ERRCNT_TEC z + add.val ∧ t.zb = s.zb) ∧
      (255 < s.get F.ZB_ERRCNT_TEC z + add.val → x.rst = false → ∃ t, exec (.zbBusError z code add dat true late tdcv) s = .next t ∧ t.get F.ZB_STAT_FCS z = 2 ∧ t.bit F.ZB_EVT_BUSOFF z = true ∧
        (t.seg z).hwq = [] ∧ (t.seg z).onBus = none ∧ (t.seg z).recover = s.bit F.ZB_CTRL_ABO z ∧ (t.seg z).reqs.lookup b.val = none ∧
        (late = true → s.bit F.ZB_TDC_TDCE z = true → x.onBus = some (.buf b) → F.ZB_BUF_CFG_FDF.of cfg = 1 → F.ZB_BUF_CFG_BRS.of cfg = 1 → t.get F.ZB_TDC_TDCV z = tdcv % 2 ^ F.ZB_TDC_TDCV.w) ∧
        ∀ r g, x.onBus = some (.buf b) → x.reqs = [(b.val, r)] → r.tag = some g → (∀ c < 64, s.bit F.ZB_BUF_STAT_TAGWAIT z c = false) →
          (late = true → ∃ d, (t.seg z).tags.lookup g = some ⟨2, d, s.now⟩) ∧ (late = false → r.passed = false → (t.seg z).tags.lookup g = none))) ∧
    (∀ code add dat tx late tdcv, s.zbLive z = false → exec (.zbBusError z code add dat tx late tdcv) s = .next s) ∧
    (w.tenant = 0 → s.does p (.zbRecover p z) (Tgt.reg (R.ZB_CMD.at z) 0 1) Res.applied (fun t => if s.get F.ZB_STAT_FCS z = 2 then t.setSeg z { t.seg z with recover := true } else t)) ∧
    (s.get F.ZB_STAT_FCS z = 2 → x.recover = true ∨ s.bit F.ZB_CTRL_ABO z = true → ∃ t, exec (.zbRecoveryComplete z) s = .next t ∧ t.word (R.ZB_ERRCNT.at z) = 0 ∧
      t.get F.ZB_STAT_FCS z = 0 ∧ t.bit F.ZB_EVT_BUSON z = true ∧ (t.seg z).recover = false) ∧
    (s.get F.ZB_STAT_FCS z ≠ 2 → exec (.zbRecoveryComplete z) s = .next s) ∧
    (w.tenant = 0 → s.configures p (.zbModeWrite p z data) (R.ZB_CTRL.at z) data (fun x =>
        let fd := F.ZB_CTRL_FDOE.of x == 1 && !s.bit F.ZB_CTRL_FDOE z
        if timingOk (if fd then x else x &&& ~~~0x20000000) (s.word (R.ZB_NBT.at z)) (s.word (R.ZB_DBT.at z)) (s.word (R.ZB_TDC.at z)) fd fd then Res.applied else Res.refConfig)
      (fun x t => if F.ZB_CTRL_MODE.of (s.word (R.ZB_CTRL.at z)) = F.ZB_CTRL_MODE.of x then t else t.zbModeWritten z)) ∧
    (w.tenant ≠ 0 → s.refuses p (.zbModeWrite p z data) (R.ZB_CTRL.at z) data Res.refRights ∧ s.refuses p (.zbRecover p z) (R.ZB_CMD.at z) 1 Res.refRights) ∧
    (∃ t, exec (.zbIntegrated z) s = .next t ∧ t.bit F.ZB_STAT_BUSINT z = false ∧ t.bit F.ZB_STAT_PXE z = false ∧ t.zb = s.zb) ∧
    (∀ (g : Fin 1024) e, x.tags.lookup g.val = some e →
      (e.st = 2 → ∃ t, exec (.zbTagOpenTimeout z g) s = .next t ∧ e.at_ + s.zbLate z ≤ t.now ∧ (t.seg z).tags.lookup g.val = some ⟨3, 0, t.now⟩) ∧
      (e.st ≠ 2 → exec (.zbTagOpenTimeout z g) s = .next s) ∧
      (e.st = 3 → (∀ c < 64, s.bit F.ZB_BUF_STAT_TAGWAIT z c = false) → ∃ t, exec (.zbTagQuarantineEnd z g) s = .next t ∧ e.at_ + s.zbLate z ≤ t.now ∧ (t.seg z).tags.lookup g.val = none) ∧
      (e.st ≠ 3 → exec (.zbTagQuarantineEnd z g) s = .next s))

/-- ZB_SUPPLY_START, ZB_SUPPLY_TRIP, ZB_SUPPLY_HARD, ZB_SUPPLY_PG_FAIL, ZB_SUPPLY_RETRY, ZB_PWR_CYCLE,
ZB_PWR_CYCLE_END, ZB_PWR_FAULT_CLEAR and ZB_PWR_EN_WRITE (R470 to R473, R486). A trip is taken at a current within the
tolerances of R802: 5 % + 50 mA below TRIP, 10 % below 2 × TRIP. -/
def Obligations.ZoneBusSupplyRows : Prop :=
  ∀ (s : State) (p : Path) (z : Fin 16) (data : Word) (mA : Nat),
    (s.clk.pdOff = true → ∀ c ∈ ([.zbSupplyStart, .zbSupplyTrip z mA, .zbSupplyHard z mA, .zbSupplyPgFail z mA, .zbSupplyRetry z, .zbPwrCycleEnd z] : List Instr), exec c s = .next s) ∧
    (s.clk.pdOff = false →
    let w := s.who p
    let x := s.seg z
    let open0 := w.tenant = 0 ∧ s.pdReach = true
    let trips (c : Instr) (f : Fld) (high : Prop) (after : Nat) : Prop :=
      (s.zbOn z = true → high → ∃ t, exec c s = .next t ∧ t.bit f z = true ∧ t.bit F.ZB_EVT_PWR z = true ∧ t.zbOn z = false ∧ t.get F.ZB_PWR_STAT_IMEAS z = mA % 2 ^ 14 ∧
        t.get F.ZB_PWR_CNT_TRIPS z = min (2 ^ F.ZB_PWR_CNT_TRIPS.w - 1) (s.get F.ZB_PWR_CNT_TRIPS z + 1) ∧ (t.seg z).hold = true ∧ after ≤ t.now ∧
        (x.firstTrip = none → (t.seg z).firstTrip = some t.now ∧
          (t.seg z).retryAt = if f ≠ F.ZB_PWR_FLT_PG ∧ 0 < s.get F.ZB_PWR_CFG_RETRY z then some (t.now + 1000000) else none)) ∧
      (s.zbOn z = false ∨ ¬ high → exec c s = .next s)
    let wants := s.bit F.ZB_PWR_CFG_EN z = true ∧ s.zbOn z = false ∧ s.zbAllowed z = true
    (∀ k, (List.range 16).find? (fun k => s.bit F.ZB_PWR_STAT_PEND k) = some k → ∃ t, exec .zbSupplyStart s = .next t ∧ t.zbOn k = true ∧ t.bit F.ZB_PWR_STAT_PEND k = false ∧
      t.zb.startAt = some t.now ∧ (t.seg k).onAt = t.now ∧ (∀ u, s.zb.startAt = some u → u + 40000 ≤ t.now) ∧ ∀ j < 16, j ≠ k → t.zbOn j = s.zbOn j) ∧
    ((∀ k < 16, s.bit F.ZB_PWR_STAT_PEND k = false) → exec .zbSupplyStart s = .next s) ∧
    trips (.zbSupplyTrip z mA) F.ZB_PWR_FLT_TRIP (95 * s.get F.ZB_PWR_CFG_TRIP z < mA + 50) (x.onAt + 1000) ∧
    trips (.zbSupplyHard z mA) F.ZB_PWR_FLT_HARD (180 * s.get F.ZB_PWR_CFG_TRIP z < mA) 0 ∧
    trips (.zbSupplyPgFail z mA) F.ZB_PWR_FLT_PG True (x.onAt + if s.bit F.ZB_PWR_STAT_PGOOD z then 1000 else 20000) ∧
    (s.zbOn z = true → ∃ t, exec (.zbSupplyPgFail z mA) s = .next t ∧ t.bit F.ZB_PWR_STAT_PGOOD z = false) ∧
    (∀ u, x.retryAt = some u → ∃ t, exec (.zbSupplyRetry z) s = .next t ∧ u ≤ t.now ∧ (t.seg z).retryAt = none ∧ (t.seg z).tries = x.tries + 1 ∧ (t.seg z).hold = false ∧
      (wants → x.cycleEnd = none → t.bit F.ZB_PWR_STAT_PEND z = true)) ∧
    (x.retryAt = none → exec (.zbSupplyRetry z) s = .next s) ∧
    (open0 → s.pathOpen p → s.ringOpen → ∃ t, exec (.zbPwrCycle p z) s = .next t ∧ t.wres = Res.applied ∧ t.zbOn z = false ∧ t.bit F.ZB_PWR_STAT_PEND z = false ∧
      (t.seg z).cycleEnd = some (s.now + 1000000) ∧ t.log.nextSeq = s.log.nextSeq + 1) ∧
    (∀ u, x.cycleEnd = some u → ∃ t, exec (.zbPwrCycleEnd z) s = .next t ∧ u ≤ t.now ∧ (t.seg z).cycleEnd = none ∧ (wants → x.hold = false → t.bit F.ZB_PWR_STAT_PEND z = true)) ∧
    (x.cycleEnd = none → exec (.zbPwrCycleEnd z) s = .next s) ∧
    (∀ fs, fieldsAt (R.ZB_PWR_FLT.at z) = some fs → touches fs data = true → s.word (R.ZB_PWR_FLT.at z) ≠ 0 → mergeWrite fs (s.word (R.ZB_PWR_FLT.at z)) data = 0 →
      open0 → s.pathOpen p → s.ringOpen → ∃ t, exec (.zbPwrFaultClear p z data) s = .next t ∧ t.wres = Res.applied ∧ t.word (R.ZB_PWR_FLT.at z) = 0 ∧
        (t.seg z).hold = false ∧ (t.seg z).retryAt = none ∧ (wants → x.cycleEnd = none → t.bit F.ZB_PWR_STAT_PEND z = true)) ∧
    (open0 → s.configures p (.zbPwrEnWrite p z data) (R.ZB_PWR_CFG.at z) data (fun _ => Res.applied) (fun y t =>
      let on (x : Word) : Bool := F.ZB_PWR_CFG_EN.of x == 1
      let o := s.word (R.ZB_PWR_CFG.at z)
      if on o && !on y then (t.zbOff z).put F.ZB_PWR_STAT_PEND 0 z else if !on o && on y then t.zbWant z else t)) ∧
    (w.tenant ≠ 0 → s.refusesPd p (.zbPwrCycle p z) (R.ZB_PWR_CMD.at z) 1 Res.refRights ∧ s.refusesPd p (.zbPwrFaultClear p z data) (R.ZB_PWR_FLT.at z) data Res.refRights ∧
      s.refusesPd p (.zbPwrEnWrite p z data) (R.ZB_PWR_CFG.at z) data Res.refRights))

/-- PUB, SUBSCRIBE, SUB_ACK, UNSUBSCRIBE, RWRITE, RWRITE_RESULT, MIRROR, MIRROR_ACK, BEACON, DELAY_REQ, DELAY_RESP,
HELLO, TOPO, ISLAND_ADV and CAMPUS_MAP (R497 to R518, R533 to R549, R584 to R587). `u` is the state after the message has been
accepted and, where it goes further, forwarded (R498, R500). -/
def Obligations.CampusMessageRows : Prop :=
  ∀ (s : State) (p : Fin 3) (m : Msg) (addr lead : Nat) (stamp : Fin 50),
    let bumped (v t : State) (f : Fld) : Prop := t.get f = min (2 ^ f.w - 1) (v.get f + 1)
    let src := m.src % 1024
    let old := s.cl.replay.lookup src
    let s1 := s.inc F.CL_PORT_CNT_RX 1 p
    let s2 : State := { s1 with cl := { s1.cl with replay := Tab.put src (replayMark old m.epoch m.seq) s1.cl.replay } }
    let u := s2.forwardMsg p m
    let rows : List (Nat × Instr) := [
      (MT.pub, .pub p m), (MT.subscribe, .subscribe p m), (MT.subAck, .subAck p m), (MT.unsubscribe, .unsubscribe p m), (MT.rwrite, .rwrite p m),
      (MT.rwriteResult, .rwriteResult p m), (MT.mirror, .mirror p m), (MT.mirrorAck, .mirrorAck p m), (MT.beacon, .beacon p m stamp), (MT.delayReq, .delayReq p m lead),
      (MT.delayResp, .delayResp p m stamp), (MT.hello, .hello p m), (MT.topo, .topo p m), (MT.islandAdv, .islandAdv p m addr), (MT.campusMap, .campusMap p m)]
    let formed := s.clOn p = true ∧ m.version = 1 ∧ bodyFits m = true ∧ portFits p m = true ∧ ((p : Nat) < 2 → m.typ ≠ MT.hello → (s.strait p).st = 2)
    let accepted := formed ∧ s1.macOk p m = true ∧ src ≠ s1.deviceId ∧ replayJudge old m.epoch m.seq = .accept ∧ s1.skewOk m = true
    let good (k : Nat) : Prop := m.typ = k ∧ accepted ∧ u.isFor m = true ∧ u.bit F.CL_FORM_STAT_ISOLATED = false
    let point := beOf m.body 0 2
    let cpid := 32768 * src + point
    let queued (t : State) (q : Nat) (x : OutMsg) : Prop := t.cl.queues.getD q [] = u.cl.queues.getD q [] ++ [x]
    (∀ r ∈ rows, m.typ = r.1 →
      (s.clOn p = false → exec r.2 s = .next s) ∧
      (formed → s1.macOk p m = false → ∃ t, exec r.2 s = .next t ∧ bumped s t F.CL_AUTH_BADMAC ∧ t.bit F.CL_EVT_AUTH = true ∧ t.cl.replay = s.cl.replay) ∧
      (formed → s1.macOk p m = true → src ≠ s1.deviceId →
        (replayJudge old m.epoch m.seq = .dup → ∃ t, exec r.2 s = .next t ∧ bumped s t F.CL_AUTH_DUP ∧ t.cl = s.cl) ∧
        (replayJudge old m.epoch m.seq = .replay → ∃ t, exec r.2 s = .next t ∧ bumped s t F.CL_AUTH_REPLAY ∧ t.bit F.CL_EVT_AUTH = true ∧ t.cl.replay = s.cl.replay)) ∧
      (accepted → u.isFor m = false → exec r.2 s = .next u)) ∧
    (let ps := s2.forwardPorts p m;
      (ps = [] → u = s2) ∧ (ps ≠ [] → 64 ≤ m.hops → u = s2.inc F.CL_FWD_DROP) ∧
      (ps ≠ [] → m.hops < 64 → u.subIn = s.subIn ∧ u.subOut = s.subOut ∧ u.isl = s.isl ∧ u.log = s.log ∧ u.cl.nextId = s.cl.nextId + 1 ∧
        ∀ q < 3, u.cl.queues.getD q [] = s.cl.queues.getD q [] ++
          List.replicate (ps.count q) { id := s.cl.nextId, cls := MT.cls m.typ, typ := m.typ, dst := m.dst, tenant := m.tenant, gen := m.gen, body := m.body, fwd := some m } ∨
          (s2.classFull (MT.cls m.typ) q = true ∧ u.cl.queues.getD q [] = s.cl.queues.getD q []))) ∧
    (good MT.pub → point = 1 → let r := (m.body.drop 4).take 10
      let far := 32768 * src + beOf r 0 2
      (32768 ≤ beOf r 0 2 ∨ 4 < beOf r 2 1 → ∃ t, exec (.pub p m) s = .next t ∧ bumped u t F.CL_RXCNT_FORMAT ∧ t.subIn = u.subIn) ∧
      (beOf r 0 2 < 32768 → beOf r 2 1 ≤ 4 →
        (u.subIn.filter (fun e => e.2.cpid == far) = [] → ∃ t, exec (.pub p m) s = .next t ∧ bumped u t F.CL_PUB_CNT_UNBOUND ∧ t.subIn = u.subIn) ∧
        (∀ i e, (u.subIn.filter (fun e => e.2.cpid == far)).filter (fun e => e.2.phase == 2) = [(i, e)] →
          exec (.pub p m) s = .next (({ u with subIn := u.subIn.map (fun (x : Nat × SubIn) => if x.1 == i then (x.1, { x.2 with heard := true }) else x) }).ptSource i (bindWord Kind.remote far)
            (Word.ofN (beOf r 6 4)) true (some (beOf r 2 1, u.remoteAge (beOf r 4 2) m.sendTime)))))) ∧
    (good MT.subscribe → let res := u.subDecide src m.tenant point
      let x := u.ownMsg MT.subAck src m.tenant m.gen (beBytes 2 point ++ beBytes 1 res ++ beBytes 1 0)
      (res = Res.applied → ∃ t, exec (.subscribe p m) s = .next t ∧ t.subOut = Tab.put cpid ((u.subOut.lookup cpid).getD ⟨m.tenant, none⟩) u.subOut) ∧
      (res ≠ Res.applied → u.reachable src = true → ∀ q, u.route src = [q] → ∃ t, exec (.subscribe p m) s = .next t ∧ t.subOut = u.subOut ∧ queued t q x) ∧
      (res ≠ Res.applied → u.reachable src = true → u.route src = [] → ∃ t, exec (.subscribe p m) s = .next t ∧ t.subOut = u.subOut ∧ t.cl.held = u.cl.held ++ [x]) ∧
      (res ≠ Res.applied → u.reachable src = false → ∃ t, exec (.subscribe p m) s = .next t ∧ t.subOut = u.subOut ∧ bumped u t F.CL_FORM_CNT2_NOROUTE)) ∧
    (good MT.subAck → let g := u.subGroup cpid m.tenant 1
      let any := ∃ x : Nat × SubIn, x ∈ u.subIn ∧ g x.1 x.2 = true
      let turned (t : State) (f : SubIn → SubIn) : Prop := ∀ x : Nat × SubIn, x ∈ u.subIn → g x.1 x.2 = true → (x.1, f x.2) ∈ t.subIn
      let res := beOf m.body 2 1
      let ok := beOf m.body 3 1 = 0 ∧ (res = Res.applied ∨ res = Res.refRights ∨ res = Res.refConfig ∨ res = 0xA)
      (¬ ok → ∃ t, exec (.subAck p m) s = .next t ∧ bumped u t F.CL_RXCNT_FORMAT ∧ t.subIn = u.subIn) ∧
      (ok → ¬ any ∨ 32768 ≤ point → exec (.subAck p m) s = .next u) ∧
      (ok → point < 32768 → any → ∃ t, exec (.subAck p m) s = .next t ∧
        (res = Res.applied → turned t (fun e => { e with phase := 2, since := s.now, heard := false })) ∧
        (res = 0xA → turned t (fun e => { e with phase := 3, since := s.now })) ∧
        (res ≠ Res.applied → bumped u t F.CL_SUB_CNT_REFUSED ∧ t.bit F.CL_EVT_SUB = true) ∧
        (res = Res.refRights ∨ res = Res.refConfig → turned t (fun e => { e with phase := 4 })))) ∧
    (good MT.unsubscribe → (point < 32768 → ∃ t, exec (.unsubscribe p m) s = .next t ∧ t.subOut = Tab.del cpid u.subOut ∧ t.space = u.space) ∧
      (32768 ≤ point → exec (.unsubscribe p m) s = .next u)) ∧
    (good MT.rwrite → let r : RwIn := ⟨src, m.tenant, m.gen, beOf m.body 0 1 == 1, beOf m.body 1 1, beOf m.body 2 2, Word.ofN (beOf m.body 4 4), beOf m.body 8 2 % 4096, beOf m.body 10 1, m.epoch⟩;
      (u.cl.intake.length < 64 → ∃ t, exec (.rwrite p m) s = .next t ∧ t.space = u.space ∧ t.cl.intake = u.cl.intake ++ [r]) ∧
      (64 ≤ u.cl.intake.length → u.reachable src = true → ∀ q, u.route src = [q] → ∃ t, exec (.rwrite p m) s = .next t ∧ t.cl.intake = u.cl.intake ∧
        queued t q (u.ownMsg MT.rwriteResult src m.tenant m.gen (beBytes 2 r.tag ++ beBytes 1 0xA ++ beBytes 1 0 ++ beBytes 2 r.point ++ beBytes 2 0 ++ beBytes 4 m.epoch)))) ∧
    (good MT.rwriteResult → let n := point % 4096
      let res := beOf m.body 2 1
      (u.cl.tags.lookup n = none → ∃ t, exec (.rwriteResult p m) s = .next t ∧ bumped u t F.CL_RW_CNT2_STRAY ∧ t.cl.tags = u.cl.tags) ∧
      (∀ g, u.cl.tags.lookup n = some g → let mine := beOf m.body 8 4 = u.get F.CL_EPOCH_EPOCH ∧ g.dev = src ∧ g.point = beOf m.body 4 2;
        (¬ mine → ∃ t, exec (.rwriteResult p m) s = .next t ∧ bumped u t F.CL_RW_CNT2_STRAY ∧ t.cl.tags = u.cl.tags) ∧
        (mine → g.state = 1 → ∃ t, exec (.rwriteResult p m) s = .next t ∧ t.cl.tags.lookup n = some { g with state := 2, at_ := u.now, timedOut := res == 8 } ∧
          (res ≠ Res.applied → res ≠ Res.relinquished → bumped u t F.CL_RW_CNT_FAILED ∧ t.bit F.CL_EVT_RW = true)) ∧
        (mine → g.state ≠ 1 → g.timedOut = true → ∃ t, exec (.rwriteResult p m) s = .next t ∧ bumped u t F.CL_RW_CNT_LATE ∧ t.cl.tags = u.cl.tags) ∧
        (mine → g.state ≠ 1 → g.timedOut = false → ∃ t, exec (.rwriteResult p m) s = .next t ∧ bumped u t F.CL_RW_CNT2_STRAY ∧ t.cl.tags = u.cl.tags))) ∧
    (good MT.mirror → let first := leVal (m.body.take 8).reverse
      let count := fieldOf m.body 8 1
      src / 32 = u.selfIsland → u.store = Store.ready → u.get F.LOG_REG_SIZE_MIB 2 ≠ 0 → 0 < count → fieldOf m.body 9 1 % 2 = 0 → first ≠ 0 → u.mirTaken (src % 32) = first →
      ∃ t, exec (.mirror p m) s = .next t ∧ t.log.expect = u.log.expect ∧ t.log.due.map (·.region) = u.log.due.map (·.region) ++ [2] ∧ t.log.due.map (·.next) = u.log.due.map (·.next) ++ [first + count] ∧
        ((∀ b ∈ u.log.due, b.m = 0) → t.log.due = u.log.due ++ [{ region := 2, data := (m.body.drop 16).take (48 * count), src := src, seq := first, next := first + count }])) ∧
    (good MT.mirrorAck → let next := leVal (m.body.take 8).reverse
      u.mirState = Mir.active → src = u.get F.LOG_MIR_STAT_TARGET → fieldOf m.body 8 1 = 0 → u.log.mirrored + 1 < next →
      ∃ t, exec (.mirrorAck p m) s = .next t ∧ t.log.mirrored = next - 1 ∧ t.log.lastNext = next) ∧
    (good MT.beacon → let stratum := beOf m.body 8 1
      let sync := beOf m.body 9 1
      let v : State := { u with cl := { u.cl with beacons := Tab.put p ⟨stratum, decide (sync = 1), u.now⟩ u.cl.beacons } }
      let ns : Int := ((beOf m.body 0 8 : Int) - u.campus) * 1000 - 20 * stamp.val + u.get F.CL_PORT_DLY_DELAY p
      let follows := sync = 1 ∧ u.bit F.SYS_ROLE_CAMPUS_MASTER = false ∧ v.followPort = some p.val
      (34 ≤ stratum → exec (.beacon p m stamp) s = .next u) ∧
      (stratum < 34 → ¬ follows → exec (.beacon p m stamp) s = .next v) ∧
      (stratum < 34 → follows → ∃ t, exec (.beacon p m stamp) s = .next t ∧ t.bit F.CL_TIME_STAT_SYNC = true ∧ t.get F.CL_TIME_STAT_STRATUM = (stratum + 1) % 64 ∧
        t.get F.CL_TIME_STAT_FOLLOW = p.val ∧ t.cl.lastFollow = some s.now ∧
        (-1000000 ≤ ns → ns ≤ 1000000 → t.cl.slew = clampI (-50) 50 (ns / 1000) ∧ t.campusOff = u.campusOff) ∧
        (ns < -1000000 ∨ 1000000 < ns → t.campus = ((u.campus + ns / 1000) % 2 ^ 64).toNat ∧ bumped u t F.CL_TIME_CNT_STEPS))) ∧
    (good MT.delayReq → ∃ t, exec (.delayReq p m lead) s = .next t ∧
      queued t p (u.ownMsg MT.delayResp (if (p : Nat) < 2 then 0xFFFD else src) 0 (u.gen 0) (m.body.take 8 ++ beBytes 8 u.campus ++ beBytes 8 0) lead)) ∧
    (good MT.delayResp → let d2 : Int := (((u.campus : Int) - beOf m.body 0 8) - ((beOf m.body 16 8 : Int) - beOf m.body 8 8)) * 1000 + 20 * stamp.val
      let l := (d2.toNat / 2 :: u.cl.delays.getD p []).take 8
      (u.cl.reqT1.getD p none ≠ some (beOf m.body 0 8) → exec (.delayResp p m stamp) s = .next u) ∧
      (u.cl.reqT1.getD p none = some (beOf m.body 0 8) → ∃ t, exec (.delayResp p m stamp) s = .next t ∧ t.cl.reqT1.getD p none = none ∧
        (0 ≤ d2 → d2 ≤ 20000000 → t.bit F.CL_PORT_DLY_VALID p = true ∧ t.get F.CL_PORT_DLY_DELAY p = l.sum / l.length % 2 ^ 24 ∧ t.cl.delays.getD p [] = l) ∧
        (d2 < 0 ∨ 20000000 < d2 → t.cl.delays = u.cl.delays ∧ t.space = u.space))) ∧
    (good MT.hello → (p : Nat) < 2 →
      let x := u.strait p
      let same := x.src = m.src ∧ x.mac = beOf m.body 0 6
      let heard := s.now ≤ x.lastAt + 30000
      let begun : Strait := { st := 1, src := m.src, mac := beOf m.body 0 6, firstAt := s.now, lastAt := s.now, errAt := x.errAt }
      (u.helloValid p m = true →
        (x.st = 0 → ∃ t, exec (.hello p m) s = .next t ∧ t.strait p = begun) ∧
        (x.st = 1 → s.now ≤ x.firstAt + 30000 → same → ∃ t, exec (.hello p m) s = .next t ∧ t.strait p = { x with st := 2, lastAt := s.now, upAt := s.now }) ∧
        (x.st = 2 → heard → same → ∃ t, exec (.hello p m) s = .next t ∧ t.strait p = { x with lastAt := s.now }) ∧
        (x.st = 1 → s.now ≤ x.firstAt + 30000 → ¬ same → exec (.hello p m) s = .next u) ∧
        (x.st = 3 → heard → ∃ t, exec (.hello p m) s = .next t ∧ t.strait p = begun) ∧
        (x.st = 2 → heard → ¬ same → ∃ t, exec (.hello p m) s = .next t ∧ t.strait p = { st := 0, errAt := x.errAt })) ∧
      (u.helloValid p m = false →
        (x.st = 2 → heard → exec (.hello p m) s = .next u) ∧
        (¬ (x.st = 2 ∧ heard) → ∃ t, exec (.hello p m) s = .next t ∧ (t.strait p).st = 3 ∧ t.bit F.CL_FORM_EVT_MISWIRE = true))) ∧
    (good MT.topo → (m.src / 32 = u.selfIsland → ∃ t, exec (.topo p m) s = .next t ∧
        t.isl.topo.lookup (m.src % 32) = some ⟨beOf m.body 0 2, beOf m.body 2 2, beOf m.body 4 1, beOf m.body 5 1 % 4, s.now⟩) ∧
      (m.src / 32 ≠ u.selfIsland → exec (.topo p m) s = .next u)) ∧
    (good MT.islandAdv → (u.bit F.SYS_ROLE_ISLAND_MASTER = false → exec (.islandAdv p m addr) s = .next u) ∧
      (u.bit F.SYS_ROLE_ISLAND_MASTER = true → u.bit F.SYS_ROLE_CAMPUS_MASTER = false → ∃ t, exec (.islandAdv p m addr) s = .next t ∧ t.space = u.space ∧
        t.isl.advs.lookup src = some ⟨beOf m.body 0 1, beOf m.body 1 1 % 4, beOf m.body 4 4, beOf m.body 8 4, beOf m.body 12 4, s.now, addr⟩)) ∧
    (good MT.campusMap →
      (p = 2 → u.bit F.SYS_ROLE_ISLAND_MASTER = true → u.bit F.SYS_ROLE_CAMPUS_MASTER = false → u.followed = some src → u.isl.map = none ∨ u.isl.follows ≠ some src ∨ u.mapVer < (CMap.ofBody m.body).ver →
        ∃ t, exec (.campusMap p m) s = .next t ∧ t.isl.map = some (CMap.ofBody m.body) ∧ t.isl.mapAt = s.now ∧ t.isl.relayPend = true ∧ t.isl.follows = some src) ∧
      (p = 2 → u.followed = some src → u.isl.map.isSome = true → u.isl.follows = some src → (CMap.ofBody m.body).ver ≤ u.mapVer → exec (.campusMap p m) s = .next u) ∧
      (p ≠ 2 → u.bit F.SYS_ROLE_ISLAND_MASTER = false → u.islandMaster = some src →
        ∃ t, exec (.campusMap p m) s = .next t ∧ t.isl.map = some (CMap.ofBody m.body) ∧ t.isl.mapAt = s.now))

/-- SUBSCRIBE_SEND, SUB_ACK_TIMEOUT, SUB_FULL_RETRY, SUB_STALE_RESUBSCRIBE, PUB_SEND (R502 to R506), CL_RW_WRITE,
CL_RW_RELINQUISH, RWRITE_TIMEOUT, CL_TAG_QUARANTINE_END and RWRITE_DECIDE (R507 to R513). -/
def Obligations.CampusSubscriptionRows : Prop :=
  ∀ (s : State) (p : Path) (i : Fin 32768) (n : Fin 4096) (dev : Fin 1024) (data : Word),
    let bumped (t : State) (f : Fld) : Prop := t.get f = min (2 ^ f.w - 1) (s.get f + 1)
    let queued (t : State) (q : Nat) (x : OutMsg) : Prop := t.cl.queues.getD q [] = s.cl.queues.getD q [] ++ [x]
    (s.bit F.CL_FORM_STAT_RELEASED = true → s.bit F.CL_CTRL_EN = true → s.bit F.CL_FORM_STAT_ISOLATED = false → s.subRecent.length < s.get F.CL_SUB_CFG_RATE →
      (s.subIn.find? (fun e => s.subDue e.2) = none → exec .subscribeSend s = .next s) ∧
      (∀ j e, s.subIn.find? (fun e => s.subDue e.2) = some (j, e) →
        let d := e.cpid / 32768 % 1024
        let tn := s.ptTenant j
        ∃ t, exec .subscribeSend s = .next t ∧ (j, { e with phase := 1, sentAt := some s.now, again := false }) ∈ t.subIn ∧
        t.cl.subSent = s.now :: s.subRecent ∧ t.cl.nextId = s.cl.nextId + 1 ∧
        t.get F.CL_SUB_CNT_RETRY = (if s.subIn.any (fun x => x.2.cpid == e.cpid && s.ptTenant x.1 == tn && s.subDue x.2 && x.2.again)
          then min (2 ^ F.CL_SUB_CNT_RETRY.w - 1) (s.get F.CL_SUB_CNT_RETRY + 1) else s.get F.CL_SUB_CNT_RETRY) ∧
        ∀ q, s.route d = [q] → queued t q (s.ownMsg MT.subscribe d tn (s.gen tn) (beBytes 2 (e.cpid % 32768) ++ beBytes 2 0)))) ∧
    (s.bit F.CL_FORM_STAT_RELEASED = false ∨ s.bit F.CL_CTRL_EN = false ∨ s.bit F.CL_FORM_STAT_ISOLATED = true ∨ s.get F.CL_SUB_CFG_RATE ≤ s.subRecent.length →
      exec .subscribeSend s = .next s) ∧
    (∀ e x, s.subIn.lookup i.val = some e → e.phase = 1 → e.sentAt = some x → ∃ t, exec (.subAckTimeout i) s = .next t ∧ x + 2000000 ≤ t.now ∧
      (i.val, { e with phase := 0, again := true }) ∈ t.subIn ∧ t.space = s.space) ∧
    (∀ e, s.subIn.lookup i.val = some e → e.phase = 3 → ∃ t, exec (.subFullRetry i) s = .next t ∧ e.since + 10000000 ≤ t.now ∧ (i.val, { e with phase := 0 }) ∈ t.subIn ∧ t.space = s.space) ∧
    (∀ e, s.subIn.lookup i.val = some e → e.phase = 2 →
      let again (after : Nat) : Prop := ∃ t, exec (.subStaleResubscribe i) s = .next t ∧ (i.val, { e with phase := 5, again := true }) ∈ t.subIn ∧ after ≤ t.now ∧ t.space = s.space
      (s.ptQual i = Qual.stale → again 0) ∧ (s.ptQual i = Qual.notValid → e.heard = false → again (e.since + 2000000)) ∧
      (s.ptQual i ≠ Qual.stale → s.ptQual i ≠ Qual.notValid ∨ e.heard = true → exec (.subStaleResubscribe i) s = .next s)) ∧
    (∀ e, s.subIn.lookup i.val = some e → (e.phase ≠ 1 → exec (.subAckTimeout i) s = .next s) ∧ (e.phase ≠ 3 → exec (.subFullRetry i) s = .next s) ∧ (e.phase ≠ 2 → exec (.subStaleResubscribe i) s = .next s)) ∧
    (s.subIn.lookup i.val = none → exec (.subAckTimeout i) s = .next s ∧ exec (.subFullRetry i) s = .next s ∧ exec (.subStaleResubscribe i) s = .next s) ∧
    (let l := (s.subOut.filter (fun e => e.1 / 32768 == dev.val && e.2.slot.isSome)).take (s.pubMax dev);
      (l = [] ∨ s.reachable dev = false ∨ s.route dev = [] ∨ s.bit F.CL_FORM_STAT_ISOLATED = true → exec (.pubSend dev) s = .next s) ∧
      (∀ q, l ≠ [] → s.reachable dev = true → s.bit F.CL_FORM_STAT_ISOLATED = false → s.route dev = [q] → ∃ t, exec (.pubSend dev) s = .next t ∧ (∀ e ∈ l, (e.1, { e.2 with slot := none }) ∈ t.subOut) ∧
        queued t q { s.ownMsg MT.pub dev 0 (s.gen 0) [] with recs := l.filterMap (·.2.slot) })) ∧
    (let w := s.who p
      let b := s.bank w.bank
      let prio := F.CL_RW_CMD_PRIO.of data
      let d := b.rwCpid / 32768 % 1024
      let row (c : Instr) (rel : Bool) : Prop := s.pathOpen p →
        let ends (rd : Word) (res : Nat) (post : State → Prop) : Prop := ∃ t, exec c s = .next t ∧ (t.bank w.bank).rwRes = rd ∧ t.wres = res ∧ post t
        let v : Word := if rel then 0 else b.rwVal
        (s.tstate w.tenant ≠ 1 → ends 0x80000003 Res.refRights (fun t => t.cl = s.cl)) ∧
        (s.tstate w.tenant = 1 → prio = 0 → ends 0x80000004 Res.refRange (fun t => t.cl = s.cl)) ∧
        (s.tstate w.tenant = 1 → prio ≠ 0 → d = s.deviceId → ends 0x80000007 Res.refConfig (fun t => t.cl = s.cl)) ∧
        (s.tstate w.tenant = 1 → prio ≠ 0 → d ≠ s.deviceId → s.freeTag = none → ends 0xC0000000 Res.applied (fun t => t.cl = s.cl ∧ bumped t F.CL_RW_CNT_NOTAG)) ∧
        (∀ g, s.tstate w.tenant = 1 → prio ≠ 0 → d ≠ s.deviceId → s.freeTag = some g →
          (s.reachable d = true → s.bit F.CL_FORM_STAT_ISOLATED = false → ends (Word.ofN g) Res.applied (fun t => t.cl.lastTag = g ∧ t.cl.nextId = s.cl.nextId + 1 ∧
            t.cl.tags.lookup g = some ⟨1, d, b.rwCpid % 32768, w.tenant, s.gen w.tenant, w.ifc, R.CL_RW_CMD.at, v, prio, rel, false, s.now, s.cl.nextId⟩ ∧
            ∀ q, s.route d = [q] → queued t q (s.ownMsg MT.rwrite d w.tenant (s.gen w.tenant) (rwBody rel prio (b.rwCpid % 32768) v g w.ifc)))) ∧
          (s.reachable d = false ∨ s.bit F.CL_FORM_STAT_ISOLATED = true → ends (Word.ofN g) Res.applied (fun t => t.cl.lastTag = g ∧ t.cl.tags.lookup g = none ∧
            bumped t F.CL_RW_CNT_FAILED ∧ t.bit F.CL_EVT_RW = true)))
      row (.clRwWrite p data) false ∧ row (.clRwRelinquish p data) true) ∧
    (∀ g, s.cl.tags.lookup n.val = some g →
      (g.state = 1 → ∃ t, exec (.rwriteTimeout n) s = .next t ∧ g.at_ + 2000000 ≤ t.now ∧ t.cl.tags.lookup n.val = some { g with state := 2, at_ := t.now, timedOut := true } ∧
        bumped t F.CL_RW_CNT_FAILED ∧ t.bit F.CL_EVT_RW = true) ∧
      (g.state ≠ 1 → exec (.rwriteTimeout n) s = .next s) ∧
      (g.state = 2 → ∃ t, exec (.clTagQuarantineEnd n) s = .next t ∧ g.at_ + 1000000 * s.get F.CL_TAGCFG_QUAR ≤ t.now ∧ t.cl.tags.lookup n.val = none) ∧
      (g.state ≠ 2 → exec (.clTagQuarantineEnd n) s = .next s)) ∧
    (s.cl.intake = [] → exec .rwriteDecide s = .next s) ∧
    (∀ r l, s.cl.intake = r :: l → r.point < 32768 →
      let y := ({ s with cl := { s.cl with intake := l } }).ptWrite ⟨15, r.tenant, 7, r.prio, true, 15⟩ r.point (if r.rel then .relinquish else .write) r.prio r.value 0
        (fun x => { x with prio := r.prio, origin := r.origin, tag := r.tag, orgDev := some r.src, gen := some r.gen })
      ∃ t, exec .rwriteDecide s = .next t ∧ t.cl.intake = l ∧ t.wres = y.wres ∧ t.log = y.log ∧ ∀ k, k ≠ R.CL_FORM_CNT2.at → t.word k = y.word k) ∧
    (∀ r l, s.cl.intake = r :: l → 32768 ≤ r.point → s.ringOpen → ∃ t, exec .rwriteDecide s = .next t ∧ t.cl.intake = l ∧ t.wres = Res.refConfig ∧
      ∃ x : AuditRec, t.log.ring = s.log.ring ++ [x] ∧ x.tenant = r.tenant ∧ x.ifc = 7 ∧ x.ttype = 3 ∧ x.result = Res.refConfig ∧ x.new = r.value)

/-- CL_FRAME_RX, ICMP_ECHO_REQUEST, NEIGHBOR_SOLICITATION, NEIGHBOR_ADVERTISEMENT, DAD_COMPLETE, CL_LINK_UP,
CL_LINK_DOWN (R490 to R495), BEACON_SEND, BEACON_REISSUE, DELAY_MEASURE, TIME_SYNC_LOSS, TIME_SET (R515 to R519) and
CL_MESSAGE_TRANSMIT (R498, R514). -/
def Obligations.CampusLinkRows : Prop :=
  ∀ (s : State) (pt : Path) (p : Fin 3) (data : Word),
    let w := s.who pt
    let bumped (t : State) (f : Fld) : Prop := t.get f = min (2 ^ f.w - 1) (s.get f + 1)
    let link := s.bit F.CL_PORT_STAT_LINK p
    let sent (t : State) (q : Nat) (x : OutMsg) : Prop := t.cl.queues.getD q [] = s.cl.queues.getD q [] ++ [x]
    (∀ ok full b lead stamp, link = false ∨ s.bit F.CL_PORT_CFG_EN p = false → exec (.clFrameRx p ok full b lead stamp) s = .next s) ∧
    (∀ (ok full : Bool) (b : List Byte) (lead : Nat) (stamp : Fin 50), link = true → s.bit F.CL_PORT_CFG_EN p = true →
      let framed := full = false ∧ ok = true ∧ 14 ≤ b.length ∧ b.length ≤ 1514 ∧ beOf b 12 2 = 0x86DD ∧
        (beOf b 0 6 = s.portMac p ∨ beOf b 0 6 = mcastMac allNodes ∨ ∃ a ∈ s.addrsInUse p, beOf b 0 6 = mcastMac (solicited a))
      let ip := b.drop 14
      let n := 40 + beOf ip 4 2
      let pl := (ip.drop 40).take (n - 40)
      let src := beOf ip 8 16
      let dst := beOf ip 24 16
      let packet (nh : Nat) : Prop := framed ∧ 40 ≤ ip.length ∧ beOf ip 0 1 / 16 = 6 ∧ n ≤ ip.length ∧ n ≤ 1280 ∧ beOf ip 6 1 = nh ∧ cksumOk ip nh pl = true ∧
        (dst = allNodes ∨ dst ∈ s.addrsInUse p ∨ ∃ a ∈ s.addrsInUse p, dst = solicited a)
      let c : Instr := .clFrameRx p ok full b lead stamp
      let udp := packet 17 ∧ 8 ≤ pl.length ∧ beOf pl 4 2 = pl.length ∧ beOf pl 6 2 ≠ 0
      (¬ framed → ∃ t, exec c s = .next t ∧ t.get F.CL_PORT_CNT_DROP p = min (2 ^ F.CL_PORT_CNT_DROP.w - 1) (s.get F.CL_PORT_CNT_DROP p + 1) ∧ t.cl = s.cl) ∧
      (udp → beOf pl 2 2 ≠ s.get F.CL_CTRL_UDP_PORT → ∃ t, exec c s = .next t ∧ bumped t F.CL_RXCNT_PORT ∧ t.cl = s.cl) ∧
      (udp → beOf pl 2 2 = s.get F.CL_CTRL_UDP_PORT →
        (Msg.parse (pl.drop 8) = none ∨ 1232 < pl.length - 8 → ∃ t, exec c s = .next t ∧ bumped t F.CL_RXCNT_FORMAT ∧ t.cl = s.cl) ∧
        (∀ m, Msg.parse (pl.drop 8) = some m → pl.length - 8 ≤ 1232 → exec c s = .next (s.clReceive p m src lead stamp))) ∧
      (packet 58 → 4 ≤ pl.length →
        (beOf pl 0 1 = 128 → exec c s = exec (.icmpEchoRequest p src dst (pl.drop 4)) s) ∧
        (beOf pl 0 1 = 135 → exec c s = exec (.neighborSolicitation p src (beOf pl 8 16)) s) ∧
        (beOf pl 0 1 = 136 → exec c s = exec (.neighborAdvertisement p (beOf pl 8 16) (beOf pl 26 6)) s))) ∧
    (∀ src dst a b, link = true → (dst = a ∧ a ∈ s.addrsInUse p ∧ a ≠ allNodes) ∨ (dst = allNodes ∧ (s.addrsInUse p).head? = some a) →
      ∃ t, exec (.icmpEchoRequest p src dst b) s = .next t ∧ t.cl.icmpTx = [⟨p, 129, a, src, 255, b⟩] ∧ t.space = s.space) ∧
    (∀ src dst b, link = true → dst ≠ allNodes → dst ∉ s.addrsInUse p → exec (.icmpEchoRequest p src dst b) s = .next s ∧ exec (.neighborSolicitation p src dst) s = .next s) ∧
    (∀ src dst b, link = false → exec (.icmpEchoRequest p src dst b) s = .next s ∧ exec (.neighborSolicitation p src dst) s = .next s ∧ exec (.neighborAdvertisement p src dst) s = .next s) ∧
    (∀ src a, link = true → a ∈ s.addrsInUse p → ∃ t, exec (.neighborSolicitation p src a) s = .next t ∧
      t.cl.icmpTx = [⟨p, 136, a, if src = 0 then allNodes else src, 255, beBytes 16 a ++ beBytes 6 (s.portMac p)⟩] ∧ t.space = s.space) ∧
    (∀ a mac, link = true → ∃ t, exec (.neighborAdvertisement p a mac) s = .next t ∧ t.space = s.space ∧ ((p : Nat) = 2 → t.cl.cache.head? = some (a, mac) ∧ t.cl.cache.length ≤ 64) ∧
      ∀ k < 2, s.dadOf p k = 1 → t.dadOf p k = if s.addrOf p k = a then 4 else 1) ∧
    (∀ k : Fin 2, let at_ := Tab.get (fun _ => 0) s.cl.dadAt (2 * p.val + k.val);
      (s.dadOf p k = 1 → ∃ t, exec (.dadComplete p k) s = .next t ∧ t.dadOf p k = 2 ∧ at_ + 1000000 ≤ t.now ∧ t.space = s.space) ∧
      (s.dadOf p k = 4 → ∃ t, exec (.dadComplete p k) s = .next t ∧ t.dadOf p k = 3 ∧ t.bit F.CL_PORT_STAT_DAD_FAIL p = true) ∧
      (s.dadOf p k ≠ 1 → s.dadOf p k ≠ 4 → exec (.dadComplete p k) s = .next s)) ∧
    (∀ lv rl sqi, (s.bit F.CL_PORT_CFG_EN p = false ∧ s.earlyPort p = false) ∨ link = true ∨ ((p : Nat) = 2 ∧ s.bit F.SYS_ROLE_ISLAND_MASTER = false) → exec (.clLinkUp p lv rl sqi) s = .next s) ∧
    (∀ lv rl sqi, s.bit F.CL_PORT_CFG_EN p = true → link = false → (p : Nat) = 2 → s.bit F.SYS_ROLE_ISLAND_MASTER = true → ∃ t, exec (.clLinkUp p lv rl sqi) s = .next t ∧
      t.bit F.CL_PORT_STAT_LINK p = true ∧ ∀ k < 2, s.addrOf p k ≠ 0 → t.dadOf p k = 1) ∧
    (∀ lv rl sqi, s.earlyPort p = true → link = false → ∃ t, exec (.clLinkUp p lv rl sqi) s = .next t ∧ t.bit F.CL_PORT_STAT_LINK p = true ∧
      t.bit F.CL_PORT_STAT_LEVEL p = lv ∧ t.bit F.CL_PORT_STAT_ROLE p = rl ∧ t.cl = s.cl) ∧
    (∀ lv rl sqi, s.earlyPort p = false → s.bit F.CL_PORT_CFG_EN p = true → link = false → (p : Nat) < 2 → ∃ t, exec (.clLinkUp p lv rl sqi) s = .next t ∧ t.bit F.CL_PORT_STAT_LINK p = true ∧
      t.bit F.CL_PORT_STAT_LEVEL p = (if s.get F.CL_PORT_CFG_AMPL p = 0 then lv else s.get F.CL_PORT_CFG_AMPL p == 1) ∧
      t.bit F.CL_PORT_STAT_ROLE p = (if s.bit F.CL_PORT_CFG_AN_EN p then rl else s.bit F.CL_PORT_CFG_FORCE_ROLE p) ∧ (s.addrOf p 0 ≠ 0 → t.dadOf p 0 = 1) ∧
      t.cl.icmpTx = ([0, 1].filter (fun k => s.addrOf p k != 0)).map (fun k => ⟨p, 135, 0, solicited (s.addrOf p k), 255, beBytes 16 (s.addrOf p k)⟩)) ∧
    (link = false → exec (.clLinkDown p) s = .next s) ∧
    (link = true → (p : Nat) = 2 → ∃ t, exec (.clLinkDown p) s = .next t ∧ t.bit F.CL_PORT_STAT_LINK p = false ∧ t.dadOf p 0 = 0 ∧ t.dadOf p 1 = 0) ∧
    (link = true → (p : Nat) < 2 → ∃ t, exec (.clLinkDown p) s = .next t ∧ (t.strait p).st = 0) ∧
    (∀ lead, s.bit F.SYS_ROLE_CAMPUS_MASTER = false → exec (.beaconSend lead) s = .next s) ∧
    (∀ lead, s.bit F.SYS_ROLE_CAMPUS_MASTER = true → s.bit F.CL_FORM_STAT_ISOLATED = false → ∃ t, exec (.beaconSend lead) s = .next t ∧ t.space = s.space ∧
      sent t 2 (s.ownMsg MT.beacon 0xFFFD 0 (s.gen 0) (beaconBody 0 0 (s.bit F.CL_TIME_STAT_SYNC)) (Nat.max 200 lead))) ∧
    (∀ lead, s.cl.reissue = none → exec (.beaconReissue lead) s = .next s) ∧
    (∀ lead q st, s.cl.reissue = some (q, st) → s.bit F.CL_FORM_STAT_ISOLATED = false → ∃ t, exec (.beaconReissue lead) s = .next t ∧ t.cl.reissue = none ∧
      ∀ r ∈ s.upStraits, r ≠ q ∨ s.bit F.SYS_ROLE_ISLAND_MASTER = true →
        ∃ id, sent t r { s.ownMsg MT.beacon 0xFFFD 0 (s.gen 0) (beaconBody 0 st (s.bit F.CL_TIME_STAT_SYNC)) (Nat.max 200 lead) with id := id }) ∧
    (∀ lead, let dst := if (p : Nat) < 2 then (if (s.strait p).st = 2 then some 0xFFFD else none)
        else if s.bit F.SYS_ROLE_ISLAND_MASTER ∧ s.bit F.SYS_ROLE_CAMPUS_MASTER = false then s.followed else none
      (dst = none → exec (.delayMeasure p lead) s = .next s) ∧
      (∀ d, dst = some d → s.bit F.CL_FORM_STAT_ISOLATED = false → ∃ t, exec (.delayMeasure p lead) s = .next t ∧ t.space = s.space ∧
        sent t p (s.ownMsg MT.delayReq d 0 (s.gen 0) (beBytes 8 0) lead))) ∧
    (s.bit F.CL_TIME_STAT_SYNC = false ∨ s.bit F.SYS_ROLE_CAMPUS_MASTER = true → exec .timeSyncLoss s = .next s) ∧
    (s.cl.lastFollow = none → exec .timeSyncLoss s = .next s) ∧
    (∀ x, s.cl.lastFollow = some x → s.bit F.CL_TIME_STAT_SYNC = true → s.bit F.SYS_ROLE_CAMPUS_MASTER = false → ∃ t, exec .timeSyncLoss s = .next t ∧ x + 3000000 ≤ t.now ∧
      t.bit F.CL_TIME_STAT_SYNC = false ∧ t.get F.CL_TIME_STAT_FOLLOW = 3 ∧ bumped t F.CL_TIME_CNT_LOSSES) ∧
    (w.tenant = 0 → s.bit F.SYS_ROLE_CAMPUS_MASTER = true → s.pathOpen pt → s.ringOpen → ∃ t, exec (.timeSet pt data) s = .next t ∧ t.wres = Res.applied ∧ t.now = s.now ∧
      t.campus = (data.toNat * 2 ^ 32 + s.cl.timeSetLo) % 2 ^ 64 ∧ t.cl.slew = 0) ∧
    (w.tenant = 0 → s.bit F.SYS_ROLE_CAMPUS_MASTER = false → s.refuses pt (.timeSet pt data) R.CL_TIME_SET_HI.at data Res.refConfig) ∧
    (w.tenant ≠ 0 → s.refuses pt (.timeSet pt data) R.CL_TIME_SET_HI.at data Res.refRights) ∧
    (s.clOn p = false ∨ s.srcAddr p = none → exec (.clMessageTransmit p) s = .next s) ∧
    (∀ a, s.clOn p = true → s.srcAddr p = some a → s.cl.held = [] →
      let c : Instr := .clMessageTransmit p
      let q := s.cl.queues.getD p []
      let addressed (d : Datagram) (dst : Nat) : Prop := d.src = a ∧ s.wireAddr p dst = some d.dst ∧ s.macAddr d.dst = some d.mac ∧ d.hop = 255 ∧
        d.sport = s.get F.CL_CTRL_UDP_PORT ∧ d.dport = s.get F.CL_CTRL_UDP_PORT ∧ d.cksum = udpCksum d.src d.dst d.sport d.dport (msgBytes d.msg) ∧
        ∀ k, s.clKey p (s.sendSlot p) = some k → d.msg.mac = macWith k d.msg
      (nextMsg (q.filter (s.canLeave p)) = none → exec c s = .next (s.solicitAll p a)) ∧
      (∀ m, nextMsg (q.filter (s.canLeave p)) = some m →
        (∀ x, m.fwd = some x → ∃ t d, exec c s = .next t ∧ bumped t F.CL_FWD_FWD ∧ t.cl.queues.getD p [] = dropMsg m.id q ∧ t.cl.tx.lookup p.val = some d ∧
          (x.dst = m.dst → addressed d m.dst) ∧ d.msg.hops = x.hops + 1 ∧ d.msg.src = x.src ∧ d.msg.epoch = x.epoch ∧ d.msg.seq = x.seq ∧ d.msg.body = x.body) ∧
        (m.fwd = none → s.lostDst m = true → ∃ t, exec c s = .next t ∧ t.cl.tx = s.cl.tx ∧ t.cl.queues.getD p [] = dropMsg m.id q ∧
          (m.typ = MT.subAck ∨ m.typ = MT.rwriteResult → bumped t F.CL_FORM_CNT2_NOROUTE)) ∧
        (m.fwd = none → s.lostDst m = false → m.built = none → s.cl.seq ≠ 0xFFFFFFFF → ∃ t d, exec c s = .next t ∧ t.cl.seq = s.cl.seq + 1 ∧ t.cl.tx.lookup p.val = some d ∧
          addressed d m.dst ∧ d.at_ = (s.campus + m.lead) % 2 ^ 64 ∧ d.msg.typ = m.typ ∧ d.msg.src = s.deviceId ∧ d.msg.dst = m.dst ∧ d.msg.tenant = m.tenant ∧ d.msg.gen = m.gen ∧
          d.msg.seq = s.cl.seq + 1 ∧ d.msg.epoch = s.get F.CL_EPOCH_EPOCH ∧ d.msg.sendTime = s.campus ∧ d.msg.hops = 0 ∧
          (m.typ = MT.beacon ∨ m.typ = MT.delayReq → beOf d.msg.body 0 8 = d.at_ ∧ d.msg.body.drop 8 = m.body.drop 8) ∧
          (m.typ = MT.delayReq → t.cl.reqT1.getD p none = some d.at_) ∧
          (m.typ = MT.delayResp → d.msg.body = m.body.take 16 ++ beBytes 8 d.at_) ∧
          (m.typ = MT.pub → d.msg.body = s.pubBody m.recs) ∧
          (m.typ ∉ [MT.beacon, MT.delayReq, MT.delayResp, MT.pub] → d.msg.body = m.body)) ∧
        (∀ b, m.fwd = none → s.lostDst m = false → m.built = some b → ∃ t d, exec c s = .next t ∧ t.cl.seq = s.cl.seq ∧ t.cl.tx.lookup p.val = some d ∧ addressed d m.dst ∧
          d.msg.epoch = b.1 ∧ d.msg.seq = b.2.1 ∧ d.msg.sendTime = b.2.2 ∧ d.msg.body = m.body)))

/-- HELLO_SEND, TOPO_SEND, ISLAND_ADV_SEND, CAMPUS_MAP_SEND, CAMPUS_MAP_RELAY (R533), STRAIT_PENDING_TIMEOUT,
STRAIT_HELLO_TIMEOUT, MISWIRE_TIMEOUT (R536), ESTABLISHED_SET (R538), TOPO_EXPIRY (R539), ISLAND_MASTER_TAKE (R542),
CAMPUS_MASTER_TAKE (R547), ISLAND_ADV_TIMEOUT (R546), CAMPUS_MAP_TIMEOUT (R549), DEVICE_RELEASE (R550) and
SUB_OUT_HOLD_EXPIRY (R553). -/
def Obligations.IslandRows : Prop :=
  ∀ (s : State) (p : Fin 2) (dev : Fin 1024) (mem : Fin 32),
    let x := s.strait p
    let free0 := s.bit F.CL_FORM_STAT_ISOLATED = false;
    (∀ r < 2, s.clOn r = true → ∃ t id, exec .helloSend s = .next t ∧ t.cl.queues.getD r [] = s.cl.queues.getD r [] ++
      [{ id := id, cls := 1, typ := MT.hello, dst := 0xFFFD, tenant := 0, gen := s.gen 0, body := s.helloBody r }]) ∧
    (∀ r < 2, s.clOn r = false → ∃ t, exec .helloSend s = .next t ∧ t.cl.queues.getD r [] = s.cl.queues.getD r []) ∧
    (s.bit F.CL_CTRL_EN = false → exec .topoSend s = .next s) ∧
    (s.bit F.CL_CTRL_EN = true → free0 → ∃ t, exec .topoSend s = .next t ∧ t.space = s.space ∧ ∀ r ∈ s.upStraits, t.cl.queues.getD r [] = s.cl.queues.getD r [] ++
      [{ id := s.cl.nextId, cls := 1, typ := MT.topo, dst := 0xFFFE, tenant := 0, gen := s.gen 0, body := s.topoBody }]) ∧
    (s.bit F.SYS_ROLE_CAMPUS_MASTER = false → s.bit F.SYS_ROLE_ISLAND_MASTER = false → exec .islandAdvSend s = .next s) ∧
    (s.bit F.SYS_ROLE_CAMPUS_MASTER = false → s.bit F.SYS_ROLE_ISLAND_MASTER = true → s.bit F.CL_CTRL_EN = true → free0 → ∃ t, exec .islandAdvSend s = .next t ∧ t.space = s.space ∧
      t.cl.queues.getD 2 [] = s.cl.queues.getD 2 [] ++ [{ id := s.cl.nextId, cls := 1, typ := MT.islandAdv, dst := 0xFFFD, tenant := 0, gen := s.gen 0, body := s.advBody }]) ∧
    (s.bit F.SYS_ROLE_CAMPUS_MASTER = false → exec .campusMapSend s = .next s) ∧
    (s.bit F.SYS_ROLE_CAMPUS_MASTER = true → ∃ t, exec .campusMapSend s = .next t ∧ t.isl.own.isSome = true ∧ t.isl.map = t.isl.own) ∧
    (s.isl.relayPend = false → exec .campusMapRelay s = .next s) ∧
    (s.isl.relayPend = true → ∃ t, exec .campusMapRelay s = .next t ∧ t.isl = { s.isl with relayPend := false } ∧ t.space = s.space ∧
      ∀ m, s.isl.map = some m → free0 → ∀ r ∈ s.upStraits, t.cl.queues.getD r [] = s.cl.queues.getD r [] ++
        [{ id := s.cl.nextId, cls := 1, typ := MT.campusMap, dst := 0xFFFE, tenant := 0, gen := s.gen 0, body := m.body }]) ∧
    (x.st = 1 → ∃ t, exec (.straitPendingTimeout p) s = .next t ∧ x.firstAt + 30000 ≤ t.now ∧ t.strait p = { st := 0, errAt := x.errAt }) ∧
    (x.st ≠ 1 → exec (.straitPendingTimeout p) s = .next s) ∧
    (x.st = 2 → ∃ t, exec (.straitHelloTimeout p) s = .next t ∧ x.lastAt + 30000 ≤ t.now ∧ t.strait p = { st := 0, errAt := x.errAt }) ∧
    (x.st ≠ 2 → exec (.straitHelloTimeout p) s = .next s) ∧
    (x.st = 3 → ∃ t, exec (.miswireTimeout p) s = .next t ∧ x.lastAt + 30000 ≤ t.now ∧ t.strait p = { st := 0, errAt := x.errAt }) ∧
    (x.st ≠ 3 → exec (.miswireTimeout p) s = .next s) ∧
    (∀ y, s.isl.upSince = some y → s.bit F.CL_FORM_STAT_ESTABLISHED = false → ∃ t, exec .establishedSet s = .next t ∧ y + 1000000 ≤ t.now ∧ t.bit F.CL_FORM_STAT_ESTABLISHED = true ∧ t.isl = s.isl) ∧
    (s.isl.upSince = none ∨ s.bit F.CL_FORM_STAT_ESTABLISHED = true → exec .establishedSet s = .next s) ∧
    (∀ y, s.isl.topo.lookup mem.val = some y → ∃ t, exec (.topoExpiry mem) s = .next t ∧ y.at_ + 300000 ≤ t.now ∧ t.isl.topo.lookup mem.val = none) ∧
    (s.isl.topo.lookup mem.val = none → exec (.topoExpiry mem) s = .next s) ∧
    (s.bit F.SYS_ROLE_ISLAND_MASTER = true ∨ s.islandMaster.isSome = true ∨ s.bestMember s.candidate ≠ some s.selfMember → exec .islandMasterTake s = .next s) ∧
    (s.bit F.SYS_ROLE_ISLAND_MASTER = false → s.islandMaster = none → s.bestMember s.candidate = some s.selfMember → ∃ t, exec .islandMasterTake s = .next t ∧
      s.isl.fragSince + 20000 ≤ t.now ∧ t.isl.imSince = t.now) ∧
    (s.bit F.SYS_ROLE_ISLAND_MASTER = false ∨ s.bit F.SYS_ROLE_CAMPUS_MASTER = true → exec .campusMasterTake s = .next s) ∧
    (s.bit F.SYS_ROLE_ISLAND_MASTER = true → s.bit F.SYS_ROLE_CAMPUS_MASTER = false → s.isl.advs = [] → ∃ t, exec .campusMasterTake s = .next t ∧ s.isl.imSince + 300000 ≤ t.now ∧
      t.isl.own.isSome = true ∧ t.isl.map = t.isl.own) ∧
    (∀ y, s.isl.advs.lookup dev.val = some y → s.bit F.SYS_ROLE_CAMPUS_MASTER = false → ∃ t, exec (.islandAdvTimeout dev) s = .next t ∧ y.at_ + 300000 ≤ t.now ∧ t.isl.advs.lookup dev.val = none ∧ t.space = s.space) ∧
    (s.isl.advs.lookup dev.val = none → exec (.islandAdvTimeout dev) s = .next s) ∧
    (s.isl.map = none → exec .campusMapTimeout s = .next s) ∧
    (∀ m, s.isl.map = some m → ∃ t, exec .campusMapTimeout s = .next t ∧ s.isl.mapAt + 3000000 ≤ t.now ∧ t.isl.map = none) ∧
    (s.bit F.CL_FORM_STAT_NOMASTER = true → ∃ t, exec .deviceRelease s = .next t ∧ s.isl.fragSince + 1000000 ≤ t.now ∧ t.bit F.CL_FORM_STAT_RELEASED = true) ∧
    (s.bit F.CL_FORM_STAT_NOMASTER = false → s.isl.map.isSome = true → ∃ t, exec .deviceRelease s = .next t ∧ s.isl.mapSince + 1000 * s.get F.CL_FORM_CFG_STEP * s.selfIsland ≤ t.now ∧
      t.bit F.CL_FORM_STAT_RELEASED = true) ∧
    (s.bit F.CL_FORM_STAT_NOMASTER = false → s.isl.map = none → exec .deviceRelease s = .next s) ∧
    (∀ y, s.isl.unreach.lookup dev.val = some y → ∃ t, exec (.subOutHoldExpiry dev) s = .next t ∧ y + 1000000 * s.get F.CL_FORM_CFG_HOLD ≤ t.now ∧
      t.subOut = s.subOut.filter (fun e => e.1 / 32768 != dev.val) ∧ t.isl.unreach.lookup dev.val = none ∧
      t.get F.CL_FORM_CNT2_FREED = min (2 ^ F.CL_FORM_CNT2_FREED.w - 1) (s.get F.CL_FORM_CNT2_FREED + (s.subOut.filter (fun e => e.1 / 32768 == dev.val)).length)) ∧
    (s.isl.unreach.lookup dev.val = none → exec (.subOutHoldExpiry dev) s = .next s)

/-- LOG_FLUSH_TIMEOUT, LOG_BLOCK_WRITE_ISSUE, LOG_BLOCK_COMMIT (R576 to R579, R588), LOG_CARD_COMMAND_FAIL, STORE_READY
(R579, R580), LOG_FORMAT, LOG_FORMAT_COMPLETE (R581), LOG_BLOCK_READ, LOG_BLOCK_WRITE and LOG_RD_COMPLETE (R590).
MIRROR_SEND, MIRROR_PROBE, MIRROR_PROBE_REPEAT and MIRROR_RESEND_TIMEOUT (R584, R585, R587). -/
def Obligations.AuditStoreRows : Prop :=
  (∀ (s : State) (p : Path) (data : Word) (c : Nat),
    let w := s.who p
    let bumped (t : State) (f : Fld) : Prop := t.get f = min (2 ^ f.w - 1) (s.get f + 1)
    let loaded (l : List Byte) (t : State) : Prop := (layoutOk l = true → t.store = Store.ready ∧ ∀ r, r < 4 → t.get F.LOG_REG_BASE_MIB r = fieldOf l (8 + 8 * r) 4 % 2 ^ 18 ∧
        t.get F.LOG_REG_SIZE_MIB r = fieldOf l (12 + 8 * r) 4 % 2 ^ 18 ∧ (1 ≤ r → t.get F.LOG_REG_WP_BLOCK r = t.regFind r % 2 ^ 29)) ∧
      (layoutOk l = false → t.store = Store.unformatted)
    let fmtOk := s.store = Store.ready ∨ s.store = Store.fault ∨ s.store = Store.unformatted
    let fc := R.LOG_FMT_CMD.at
    (∀ trend, s.waitSince trend = none → exec (.logFlushTimeout trend) s = .next s) ∧
    (∀ trend, s.store ≠ Store.ready → exec (.logFlushTimeout trend) s = .next s) ∧
    (∀ trend u, s.waitSince trend = some u → s.store = Store.ready → ∃ t, exec (.logFlushTimeout trend) s = .next t ∧ u + 100000 * s.get F.LOG_CTRL_FLUSH ≤ t.now ∧
      t.log.ring = s.log.ring ∧ t.log.due.map (·.region) = s.log.due.map (·.region) ++ [if trend then 3 else 1] ∧
      ((∀ b ∈ s.log.due, b.m = 0) →
        (trend = false → t.log.due = s.log.due ++ [{ region := 1, n := min 10 s.ringWaiting }] ∧ t.log.trend = s.log.trend) ∧
        (trend = true → s.log.due.length < 4 → t.log.due = s.log.due ++ [{ region := 3, samples := s.log.trend.take 31 }] ∧ t.log.trend = s.log.trend.drop 31) ∧
        (trend = true → 4 ≤ s.log.due.length → t.log.due = s.log.due ++ [{ region := 3, m := min 31 s.log.trend.length }] ∧ t.log.trend = s.log.trend))) ∧
    (∀ b l, s.log.inFlight = none → s.log.due = b :: l → ∃ t, exec .logBlockWriteIssue s = .next t ∧ t.log.inFlight = some b ∧ t.log.ring = s.log.ring ∧
      l.map (·.region) <+: t.log.due.map (·.region) ∧ ((∀ x ∈ l, x.m = 0) → l <+: t.log.due)) ∧
    (s.log.inFlight.isSome = true ∨ s.log.due = [] → exec .logBlockWriteIssue s = .next s) ∧
    (∀ b, s.log.inFlight = some b → ∃ t, exec .logBlockCommit s = .next t ∧ t.log.inFlight = none ∧ t.blk (s.get F.LOG_REG_WP_BLOCK b.region) = s.blockBytes b ∧
      t.get F.LOG_REG_WP_BLOCK b.region = s.regNext b.region (s.get F.LOG_REG_WP_BLOCK b.region) % 2 ^ 29 ∧
      (b.region = 1 → s.log.ring.drop b.n <+: t.log.ring ∧ ∀ r, (s.log.ring.take b.n).getLast? = some r → t.log.committed = r.seq) ∧
      (b.region = 2 → Tab.get (fun _ => 0) t.log.expect (b.src % 32) = b.next) ∧ (b.region ≠ 2 → t.log.expect = s.log.expect) ∧
      (b.region ≠ 1 → t.log.ring = s.log.ring ∧ t.log.committed = s.log.committed)) ∧
    (s.log.inFlight = none → exec .logBlockCommit s = .next s) ∧
    (s.store ≠ Store.absent → ∃ t, exec .logCardCommandFail s = .next t ∧ t.store = Store.fault ∧ t.bit F.LOG_EVT_STORE = true ∧ bumped t F.LOG_CNT2_STORE_ERR ∧ t.log.due = [] ∧ t.log.inFlight = none) ∧
    (s.store = Store.absent → exec .logCardCommandFail s = .next s) ∧
    (∀ cap card, s.store = Store.fault → exec (.storeReady cap card) s = .next s) ∧
    (∀ card, s.store ≠ Store.fault → ∃ t, exec (.storeReady none card) s = .next t ∧ t.store = Store.absent ∧ t.log.capMiB = none) ∧
    (s.store ≠ Store.fault → ∃ t, exec (.storeReady (some c) none) s = .next t ∧ t.log.capMiB = some (min (2 ^ 18) c) ∧ t.log.store = s.log.store ∧ loaded (s.blk 0) t) ∧
    (∀ l : List Byte, l.length = 512 → s.store ≠ Store.fault → ∃ t, exec (.storeReady (some c) (some [(0, l)])) s = .next t ∧ t.log.store = [(0, l)] ∧ loaded l t) ∧
    (w.tenant = 0 → F.LOG_FMT_CMD_KEY.of data = 0xA5 →
      (∀ f a m r, fmtOk → s.fmtSizes = some (f, a, m, r) → s.pathOpen p → s.ringOpen → ∃ t, exec (.logFormat p data) s = .next t ∧ t.wres = Res.applied ∧ t.store = Store.formatting ∧
        t.log.store = [(0, layoutBlk [(1, f), (1 + f, a), (1 + f + a, m), (1 + f + a + m, r)])] ∧ t.log.due = [] ∧ t.log.inFlight = none ∧ t.log.nextSeq = s.log.nextSeq + 1) ∧
      (¬ fmtOk ∨ s.fmtSizes = none → s.does p (.logFormat p data) (Tgt.reg fc 0 data) Res.refConfig id)) ∧
    (w.tenant = 0 → F.LOG_FMT_CMD_KEY.of data ≠ 0xA5 → s.doesPlain p (.logFormat p data) Res.applied id) ∧
    (s.store = Store.formatting → ∃ t, exec .logFormatComplete s = .next t ∧ loaded (s.blk 0) t ∧ t.log.store = s.log.store) ∧
    (s.store ≠ Store.formatting → exec .logFormatComplete s = .next s) ∧
    (w.tenant = 0 → s.log.rd = none → let go (wr : Bool) (t : State) : State := { t.put F.LOG_RD_STAT_BUSY 1 with log := { t.log with rd := some (wr, s.get F.LOG_RD_BLK_BLOCK) } };
      s.doesPlain p (.logBlockRead p) Res.applied (go false) ∧
      (s.inRegion 0 (s.get F.LOG_RD_BLK_BLOCK) = true → s.doesPlain p (.logBlockWrite p) Res.applied (go true)) ∧
      (s.inRegion 0 (s.get F.LOG_RD_BLK_BLOCK) = false → s.doesPlain p (.logBlockWrite p) Res.refConfig id)) ∧
    (w.tenant = 0 → s.log.rd.isSome = true → s.doesPlain p (.logBlockRead p) Res.applied id ∧ s.doesPlain p (.logBlockWrite p) Res.applied id) ∧
    (w.tenant ≠ 0 → s.refuses p (.logFormat p data) fc data Res.refRights ∧ s.refuses p (.logBlockRead p) (R.LOG_RD_CMD.at) 1 Res.refRights ∧
      s.refuses p (.logBlockWrite p) (R.LOG_RD_CMD.at) 3 Res.refRights) ∧
    (let x (b : Nat) := padTo 512 (s.blk b)
      let ended (t : State) : Prop := t.log.rd = none ∧ t.bit F.LOG_RD_STAT_BUSY = false ∧ t.bit F.LOG_EVT_READ = true
      (s.log.rd = none → ∀ ok, exec (.logRdComplete ok) s = .next s) ∧
      (∀ b, s.log.rd = some (false, b) → s.store = Store.ready → ∃ t, exec (.logRdComplete true) s = .next t ∧ ended t ∧ t.bit F.LOG_RD_STAT_ERR = false ∧
        t.bit F.LOG_RD_STAT_CRC_BAD = (s.hasTrailer b && !blkCrcOk (x b)) ∧ ∀ k < 128, t.word (rdBuf k) = Word.ofN (fieldOf (x b) (4 * k) 4)) ∧
      (∀ b, s.log.rd = some (true, b) → s.store = Store.ready → ∃ t, exec (.logRdComplete true) s = .next t ∧ ended t ∧ t.bit F.LOG_RD_STAT_ERR = false ∧ t.blk b = s.rdBytes) ∧
      (s.log.rd.isSome = true → s.store ≠ Store.ready → ∃ t, exec (.logRdComplete true) s = .next t ∧ ended t ∧ t.bit F.LOG_RD_STAT_ERR = true ∧ t.log.store = s.log.store) ∧
      (s.log.rd.isSome = true → ∃ t, exec (.logRdComplete false) s = .next t ∧ ended t ∧ t.bit F.LOG_RD_STAT_ERR = true ∧ t.log.store = s.log.store ∧ (s.store ≠ Store.absent → t.store = Store.fault)))) ∧
  (∀ (s : State),
    let q0 (n : Nat) := s.cl.queues.getD n []
    let msg (first : Nat) (recs : List (List Byte)) (resync : Bool) : OutMsg := { id := s.cl.nextId, cls := MT.cls MT.mirror, typ := MT.mirror, dst := s.get F.LOG_MIR_STAT_TARGET, tenant := 0, gen := s.gen 0, body := beBytes 8 first ++ beBytes 1 recs.length ++ beBytes 1 (b2n resync) ++ List.replicate 6 0 ++ recs.flatten }
    let port (n : Nat) := s.bit F.CL_FORM_STAT_ISOLATED = false ∧ s.route (s.get F.LOG_MIR_STAT_TARGET) = [n]
    (s.mirState ≠ Mir.active ∨ 4 ≤ s.log.unacked → exec .mirrorSend s = .next s) ∧
    (s.mirState = Mir.active → s.log.unacked < 4 → s.store ≠ Store.ready ∨ s.logOldest ≤ s.log.cur →
      (takeRun 10 (s.recsFrom s.log.cur) = [] → exec .mirrorSend s = .next s) ∧
      (∀ r l, takeRun 10 (s.recsFrom s.log.cur) = r :: l → ∃ t, exec .mirrorSend s = .next t ∧ t.log.cur = r.1 + l.length + 1 ∧ t.log.unacked = s.log.unacked + 1 ∧ t.log.resync = false ∧
        t.space = s.space ∧ t.log.ring = s.log.ring ∧
        ∀ n, port n → t.cl.queues.getD n [] = q0 n ++ [msg r.1 (r.2 :: l.map (·.2)) (s.log.resync || s.log.cur < r.1)])) ∧
    (s.log.probeDue = true → s.mirState = Mir.probing → ∃ t, exec .mirrorProbe s = .next t ∧ t.log.probeDue = false ∧ t.log.probeAt = s.now ∧ t.space = s.space ∧
      ∀ n, port n → t.cl.queues.getD n [] = q0 n ++ [msg s.log.cur [] false]) ∧
    (s.log.probeDue = false ∨ s.mirState ≠ Mir.probing → exec .mirrorProbe s = .next s) ∧
    (s.mirState = Mir.probing → ∃ t, exec .mirrorProbeRepeat s = .next t ∧ s.log.probeAt + 1000000 ≤ t.now ∧ t.log.probeAt = t.now) ∧
    (s.mirState = Mir.noregion → ∃ t, exec .mirrorProbeRepeat s = .next t ∧ s.log.probeAt + 10000000 ≤ t.now ∧ t.log.probeAt = t.now) ∧
    (s.mirState ≠ Mir.probing → s.mirState ≠ Mir.noregion → exec .mirrorProbeRepeat s = .next s) ∧
    (s.mirState = Mir.active → s.log.unacked ≠ 0 → ∃ t, exec .mirrorResendTimeout s = .next t ∧ s.log.progAt + 1000000 ≤ t.now ∧ t.log.cur = s.log.lastNext ∧ t.log.unacked = 0 ∧
      t.get F.LOG_MIR_CNT_RESENDS = min (2 ^ F.LOG_MIR_CNT_RESENDS.w - 1) (s.get F.LOG_MIR_CNT_RESENDS + 1)) ∧
    (s.mirState ≠ Mir.active ∨ s.log.unacked = 0 → exec .mirrorResendTimeout s = .next s))

/-- SHADOW_UNIT_COPY, HOST_BUS_READ, HOST_BUS_WRITE, HOST_SPI_FRAME and POSTED_WRITE_APPLY (R653 to R661, R663 to
R665). -/
def Obligations.HostPortRows : Prop :=
  ∀ (s : State) (a : Fin (2 ^ 24)) (ha : Fin 32768) (d : Fin 65536) (hbe : Fin 4) (m : List Byte) (lane : Fin 4) (x : Word),
    let bumped (t : State) (f : Fld) : Prop := t.get f = min (2 ^ f.w - 1) (s.get f + 1)
    let L := s.get F.HB_LANE_LANE
    let o := 2 * ha.val
    let k := ha.val % 2
    let at_ := (s.busAddr (o / 4 * 4)).1
    let side := (s.busAddr (o / 4 * 4)).2
    -- the state after what the ECC of a point's record finds as its unit is copied (R68)
    let found (v : State) (b : Nat) : State := if 0x80000 ≤ b ∧ b < 0x100000 then v.ptFind ((b - 0x80000) / 16) else v
    let copy (v : State) (l : Nat) (u : Nat × Nat) (ws : List Word) (sp : Tab Word) : Prop :=
      (isPower u.1 = true ∧ v.linkUp = false ∧ ws = (List.range u.2).map (fun i => v.frozenWord l i (u.1 + 4 * i)) ∧ sp = v.space) ∨
      ((isPower u.1 = false ∨ v.linkUp = true) ∧ ∃ h, v.hb.shadow.lookup (u.1 + l) = some (h, ws) ∧ v.now ≤ h + 2 ∧ sp = v.space) ∨
      ((∀ h ys, v.hb.shadow.lookup (u.1 + l) = some (h, ys) → h + 2 < v.now) ∧ (isPower u.1 = false ∨ v.linkUp = true) ∧ ws = (found v u.1).unitWords l u.1 u.2 ∧ sp = (found v u.1).space)
    let plain (b : Nat) := hostMem b = false ∧ R.IC_TGT_CLAIM.hit b = false
    let posted (t : State) (q : Posted) : Prop := (s.hb.fifo.length < 64 → t.hb.fifo = s.hb.fifo ++ [q] ∧ t.space = s.space) ∧
      (64 ≤ s.hb.fifo.length → t.hb.fifo = s.hb.fifo ∧ t.bit F.HB_FIFO_OVR = true ∧ bumped t F.HB_CNT_OVERRUN)
    let entry (bank ifc l b : Nat) (y : Word) (bytes : Nat) : Posted := ⟨bank, s.get F.HB_LANE_CFG_TENANT l, ifc, s.get F.HB_LANE_CFG_PRIO l, s.bit F.HB_LANE_CFG_EN l, b, y, bytes⟩
    (let u := unitOf (a.val / 4 * 4);
      (hostMem u.1 = true ∨ isUnmapped u.1 = true ∨ (isPower u.1 = true ∧ s.linkUp = false) → exec (.shadowUnitCopy a) s = .next s) ∧
      (hostMem u.1 = false → isUnmapped u.1 = false → isPower u.1 = false ∨ s.linkUp = true → ∃ t, exec (.shadowUnitCopy a) s = .next t ∧ t.space = (found s u.1).space ∧
        t.hb.shadow.lookup u.1 = some (s.now, (found s u.1).unitWords 0 u.1 u.2) ∧ ∀ l < 4, ∃ ws, t.hb.shadow.lookup (u.1 + l) = some (s.now, ws))) ∧
    (s.hostMode ≠ 1 → exec (.hostBusRead ha) s = .next s ∧ exec (.hostBusWrite ha d hbe) s = .next s) ∧
    (s.hostMode = 1 → s.hostReady = false → exec (.hostBusRead ha) s = .next { s with rdata := 0 } ∧ exec (.hostBusWrite ha d hbe) s = .next s) ∧
    (s.hostMode = 1 → s.hostReady = true →
      (side = true → ∃ t, exec (.hostBusRead ha) s = .next t ∧ t.rdata = halfOf (s.hbWord L at_) k ∧ t.space = s.space ∧ (t.lane L).cap = none) ∧
      (side = false → hostMem at_ = true → ∃ t, exec (.hostBusRead ha) s = .next t ∧ t.rdata = 0 ∧ bumped t F.HB_CNT_NOSHADOW) ∧
      (side = false → plain at_ → let u := unitOf at_;
        (∀ ws, (s.lane L).cap = some (u.1, ws) → exec (.hostBusRead ha) s = .next { s with rdata := halfOf (ws.getD ((at_ - u.1) / 4) 0) k }) ∧
        (∀ ws sp, (∀ y, (s.lane L).cap ≠ some (u.1, y)) → copy s L u ws sp → ∃ t, exec (.hostBusRead ha) s = .next t ∧ t.space = sp ∧ t.rdata = halfOf (ws.getD ((at_ - u.1) / 4) 0) k ∧
          (t.lane L).cap = if k = 0 then some (u.1, ws) else none)) ∧
      (side = false → hostMem at_ = true → ∃ t, exec (.hostBusWrite ha d hbe) s = .next t ∧ (t.lane L).cap = none ∧
        posted t (entry L (L + 1) L at_ (Word.ofN (if k = 1 then 65536 * d.val else d)) (if k = 1 then 4 * (3 - hbe.val) else 3 - hbe.val))) ∧
      (side = false → hostMem at_ = false →
        (k = 0 → ∃ t, exec (.hostBusWrite ha d hbe) s = .next t ∧ t.hb.fifo = s.hb.fifo ∧ (t.lane L).asm = some (at_, d.val) ∧ (t.lane L).cap = none ∧
          (t.lane L).asmOk = decide (hbe = 0) ∧ ((s.lane L).asm = none → t.space = s.space) ∧ ((s.lane L).asm.isSome = true → bumped t F.HB_CNT_ASSEMBLY)) ∧
        (∀ lo, k = 1 → (s.lane L).asm = some (at_, lo) → (s.lane L).asmOk = true → hbe = 0 → ∃ t, exec (.hostBusWrite ha d hbe) s = .next t ∧ (t.lane L).asm = none ∧ (t.lane L).cap = none ∧
          posted t (entry L (L + 1) L at_ (Word.ofN (65536 * d.val + lo)) 15)) ∧
        (k = 1 → (∀ lo, (s.lane L).asm ≠ some (at_, lo)) ∨ (s.lane L).asmOk = false ∨ hbe ≠ 0 → ∃ t, exec (.hostBusWrite ha d hbe) s = .next t ∧ t.hb.fifo = s.hb.fifo ∧
          bumped t F.HB_CNT_ASSEMBLY ∧ (t.lane L).cap = none))) ∧
    (s.hostMode ≠ 2 → exec (.hostSpiFrame m) s = .next s) ∧
    (s.hostMode = 2 → s.hostReady = false → ∃ t, exec (.hostSpiFrame m) s = .next t ∧ t.space = s.space ∧ t.hb.fifo = s.hb.fifo ∧ t.hb.miso = List.replicate m.length 0) ∧
    (s.hostMode = 2 → s.hostReady = true → ∀ ws : List Word, ws ≠ [] → ws.length ≤ 16 → s.hb.fifo.length + ws.length ≤ 64 → a.val % 4 = 0 → a.val < 0x400000 →
      ∃ t, exec (.hostSpiFrame ([Byte.ofN (16 * lane.val + (ws.length - 1))] ++ beBytes 3 a.val ++ (ws.map (fun y => leBytes 4 y.toNat)).flatten)) s = .next t ∧ t.space = s.space ∧
        t.hb.fifo = s.hb.fifo ++ ws.zipIdx.map (fun y => entry 4 5 lane ((a.val + 4 * y.2) % 2 ^ 24) y.1 15)) ∧
    (s.hostMode = 2 → s.hostReady = true →
      let head := Byte.ofN (128 * s.get F.HB_FIFO_OVR + s.hb.fifo.length)
      let host (b : Nat) := 0x40FFE0 ≤ b ∧ b < 0x410000;
      (m.length < 4 → (m.getD 0 0).toNat / 64 % 2 = 0 → ∃ t, exec (.hostSpiFrame m) s = .next t ∧ t.space = s.space ∧ t.hb.fifo = s.hb.fifo) ∧
      ((m.getD 0 0).toNat / 64 % 2 = 1 → ∃ t, exec (.hostSpiFrame m) s = .next t ∧ t.hb.fifo = s.hb.fifo ∧ bumped t F.HB_CNT_ASSEMBLY) ∧
      (a.val % 4 = 0 → ¬ host a → ∃ t, exec (.hostSpiFrame ([Byte.ofN (16 * lane.val)] ++ beBytes 3 a.val ++ leBytes 4 x.toNat)) s = .next t ∧
        posted t (entry 4 5 lane a x 15) ∧ t.hb.miso = head :: List.replicate 7 0) ∧
      (a.val % 4 = 0 → ¬ host a → plain a → let u := unitOf a.val
        let v := s.setLane lane { s.lane lane with cap := none };
        ∀ ws sp, copy v lane u ws sp → ∃ t, exec (.hostSpiFrame ([Byte.ofN (128 + 16 * lane.val)] ++ beBytes 3 a.val ++ List.replicate 5 0)) s = .next t ∧ t.space = sp ∧ t.hb.fifo = s.hb.fifo ∧
          t.hb.miso = [head, 0, 0, 0, 0] ++ leBytes 4 (ws.getD ((a.val - u.1) / 4) 0).toNat)) ∧
    (s.hb.fifo = [] → exec .postedWriteApply s = .next s) ∧
    (∀ q r, s.hb.fifo = q :: r → let v := s.setHb { s.hb with fifo := r, lanes := s.hb.lanes.map (fun l => { l with ahead := l.ahead - 1 }) };
      (q.en = true → exec .postedWriteApply s = .next (v.busWrite ⟨q.bank, q.tenant, q.ifc, q.prio, true, 15⟩ q.addr (if q.bytes = 15 then q.data else mergeBytes q.bytes (s.word q.addr) q.data))) ∧
      (q.en = false → ∃ t, exec .postedWriteApply s = .next t ∧ t.hb = v.hb ∧ t.wres = Res.refRights ∧ bumped t F.HB_CNT2_REFUSED))

/-- MBX_READ, MBX_WRITE, MBX_COMPLETE, MBX_TIMEOUT (R662, R666), WATCHDOG_KICK, WATCHDOG_EXPIRY (R667, R668),
WARM_RESET_REQUEST, POWER_CYCLE, WARM_BOOT_TIMEOUT and PWRCYC_N_RELEASE (R669, R672). The FUNC_RST rows,
FUNC_RST_COMPLETE, FUNC_RST_TIMEOUT (R669 to R671) and CD_FUNC_RST_COMPLETE (R260). -/
def Obligations.HostRecoveryRows : Prop :=
  (∀ (s : State) (p : Path) (n : Fin 4) (spi applied : Bool) (data : Word),
    let bumped (t : State) (f : Fld) : Prop := t.get f = min (2 ^ f.w - 1) (s.get f + 1)
    let w := s.who p
    let l := s.lane n
    let lw := s.hostWho l.spi n
    let gone (c : Instr) (wr : Bool) : Prop :=
      (s.hostPortUp spi = false → exec c s = .next s) ∧
      (s.hostPortUp spi = true → l.busy = true → exec c s = .next (s.setLane n l.other)) ∧
      (s.hostPortUp spi = true → l.busy = false → s.bit F.HB_LANE_CFG_EN n = false → ∃ t, exec c s = .next t ∧ bumped t F.HB_CNT2_REFUSED ∧
        t.lane n = { l.other with result := Res.refRights, data := if wr then l.data else 0, tmo := false }) ∧
      (s.hostPortUp spi = true → l.busy = false → s.bit F.HB_LANE_CFG_EN n = true →
        exec c s = .next ((s.setLane n l.other).setLane n { l.other with busy := true, tmo := false, wr := wr, spi := spi, goAt := s.now, goAddr := l.addr, goData := l.data, ahead := s.hb.fifo.length }))
    let keyed (c : Instr) (r key : Nat) : Prop :=
      (w.tenant ≠ 0 → s.does p c { Tgt.reg r 0 data with always := true } Res.refRights id) ∧
      (w.tenant = 0 → data.toNat % 256 ≠ key → s.does p c { Tgt.reg r 0 data with always := true } Res.refConfig id)
    gone (.mbxRead n spi) false ∧ gone (.mbxWrite n spi) true ∧
    (l.busy = false → exec (.mbxComplete n) s = .next s ∧ exec (.mbxTimeout n applied) s = .next s) ∧
    (l.ahead ≠ 0 → s.mbxDrop n = false → exec (.mbxComplete n) s = .next s) ∧
    (l.busy = true → s.mbxDrop n = true → ∃ t, exec (.mbxComplete n) s = .next t ∧ (t.lane n).busy = false ∧ (t.lane n).result = Res.notApplied ∧ (t.lane n).data = 0) ∧
    (l.busy = true → l.ahead = 0 → s.mbxDrop n = false →
      (l.wr = false → let u := s.busRead lw (l.goAddr / 4 * 4)
        ∃ t, exec (.mbxComplete n) s = .next t ∧ t.lane n = { u.lane n with result := u.wres, data := u.rdata, busy := false } ∧ t.space = u.space ∧ t.log = u.log) ∧
      (l.wr = true → lw.en = true → let u := (s.dropCap lw.cap).busWrite lw (l.goAddr / 4 * 4) l.goData
        ∃ t, exec (.mbxComplete n) s = .next t ∧ t.lane n = { u.lane n with result := u.wres, busy := false } ∧ t.space = u.space ∧ t.log = u.log)) ∧
    (l.busy = true → ∃ t, exec (.mbxTimeout n applied) s = .next t ∧ l.goAt + 100 ≤ t.now ∧ (t.lane n).busy = false ∧ (t.lane n).tmo = true ∧ (t.lane n).data = 0 ∧
      (l.wr = false ∨ applied = false ∨ l.ahead ≠ 0 → t.space = s.space) ∧
      (l.wr = true → applied = true → l.ahead = 0 → lw.en = true → t.space = (((s.reach (l.goAt + 100)).dropCap lw.cap).busWrite lw (l.goAddr / 4 * 4) l.goData).space)) ∧
    (w.bank = 5 ∨ s.wdArmed = false → s.doesPlain p (.watchdogKick p) Res.applied id) ∧
    (w.bank ≠ 5 → s.wdArmed = true → s.bit F.HB_WDOG_STAT_EXPIRED = false →
      s.doesPlain p (.watchdogKick p) Res.applied (fun t => t.setHb { t.hb with wdDue := some (s.now + 1000 * s.get F.HB_WDOG_CFG_PERIOD) })) ∧
    (w.bank ≠ 5 → s.wdArmed = true → s.bit F.HB_WDOG_STAT_EXPIRED = true → s.pathOpen p → ∃ t, exec (.watchdogKick p) s = .next t ∧ t.wres = Res.applied ∧
      t.bit F.HB_WDOG_STAT_EXPIRED = false ∧ t.hb.wdDue = some (s.now + 1000 * s.get F.HB_WDOG_CFG_PERIOD)) ∧
    (s.hb.wdDue = none → exec .watchdogExpiry s = .next s) ∧
    (∀ u, s.hb.wdDue = some u → ∃ t, exec .watchdogExpiry s = .next t ∧ u ≤ t.now ∧ t.hb.wdDue = none ∧ t.bit F.HB_WDOG_STAT_EXPIRED = true ∧ bumped t F.HB_CNT2_EXPIRIES) ∧
    keyed (.warmResetRequest p data) (R.HB_WARM.at) 0xC3 ∧ keyed (.powerCycle p data) (R.HB_PWRCYC.at) 0x3C ∧
    (w.tenant = 0 → data.toNat % 256 = 0xC3 → s.pathOpen p → s.ringOpen → ∃ t, exec (.warmResetRequest p data) s = .next t ∧ t.wres = Res.applied ∧ t.log.nextSeq = s.log.nextSeq + 1 ∧
      t.clk.warm = match s.clk.warm with | some x => some x | none => some (F.AON_RST_CAUSE_WARM_HOST.lo, s.now)) ∧
    (w.tenant = 0 → data.toNat % 256 = 0x3C → s.pathOpen p → s.ringOpen → ∃ t, exec (.powerCycle p data) s = .next t ∧ t.wres = Res.applied ∧ t.log.nextSeq = s.log.nextSeq + 1 ∧
      t.hb.pwrcyc = match s.hb.pwrcyc with | some x => some x | none => if s.clk.logicOff then none else some (s.now + 100000)) ∧
    (s.clk.warmAt = none → exec .warmBootTimeout s = .next s) ∧
    (∀ u, s.clk.warmAt = some u → ∃ t, exec .warmBootTimeout s = .next t ∧ u + 1000000 ≤ t.now ∧ (s.clk.logicOff = false → t.hb.pwrcyc.isSome = true) ∧ (s.clk.logicOff = true → t.hb.pwrcyc = s.hb.pwrcyc)) ∧
    (s.hb.pwrcyc = none → exec .pwrcycNRelease s = .next s) ∧
    (∀ u, s.hb.pwrcyc = some u → ∃ t, exec .pwrcycNRelease s = .next t ∧ u + 10000 ≤ t.now ∧ t.hb.pwrcyc = none ∧ t.space = s.space)) ∧
  (∀ (s : State) (p : Path) (z k16 : Fin 16) (k : Fin 4) (n : Fin 3) (cap : Option Nat) (card : Option (List (Nat × List Byte))),
    let w := s.who p
    let row (c : Instr) (f : Nat) (g : State → State) : Prop :=
      let tgt : Tgt := { Tgt.reg (R.HB_FUNC_RST.at) 0 (Word.ofN f) with always := true };
      (w.tenant ≠ 0 → s.does p c tgt Res.refRights id) ∧
      (w.tenant = 0 → s.bit F.HB_FUNC_STAT_BUSY = true → s.does p c tgt Res.refConfig id) ∧
      (w.tenant = 0 → s.bit F.HB_FUNC_STAT_BUSY = false → funcPower f = true → s.linkUp = false → s.does p c tgt Res.notApplied (fun t => (t.put F.HB_FUNC_STAT_RESULT 2).put F.HB_FUNC_STAT_FUNC f)) ∧
      (w.tenant = 0 → s.bit F.HB_FUNC_STAT_BUSY = false → funcPower f = false ∨ s.linkUp = true → s.does p c tgt Res.applied (fun t =>
        let u := (t.put F.HB_FUNC_STAT_BUSY 1).put F.HB_FUNC_STAT_FUNC f
        g (u.setHb { u.hb with funcAt := some s.now })))
    let f := s.get F.HB_FUNC_STAT_FUNC
    row (.zbFuncRst p z) z (fun t => t.zbFuncRst z) ∧ row (.adcFuncRst p k) (0x10 + k) (fun t => t.adcFuncRst k) ∧
    row (.cdPairFuncRst p k16) (0x20 + k16) (fun t => t.cdPairRst k16) ∧ row (.fanGroupFuncRst p k) (0x30 + k) (fun t => t.fanFuncRst k) ∧
    row (.clPortFuncRst p n) (0x40 + n) (fun t => t.clPortFuncRst n) ∧ row (.logFuncRst p cap card) 0x48 (fun t => t.logFuncRst cap card) ∧
    row (.pnlFuncRst p) 0x49 (fun t => t.pnlFuncRst) ∧ row (.skFuncRst p k) (0x50 + k) (fun t => t.skFuncRst k) ∧ row (.leFuncRst p) 0x58 (fun t => t.leFuncRst) ∧
    (s.bit F.HB_FUNC_STAT_BUSY = true → s.funcDone f = true → ∃ t, exec .funcRstComplete s = .next t ∧ t.bit F.HB_FUNC_STAT_BUSY = false ∧ t.get F.HB_FUNC_STAT_RESULT = 1 ∧
      t.get F.HB_FUNC_STAT_FUNC = f ∧ t.hb.funcAt = none ∧ t.log = s.log) ∧
    (let leDone := s.le.rst = true ∧ (s.bit F.HB_FUNC_STAT_BUSY = true → f = 0x58);
      (¬ leDone → s.bit F.HB_FUNC_STAT_BUSY = false ∨ s.funcDone f = false → exec .funcRstComplete s = .next s) ∧
      (leDone → (s.le.loops.map (·.1)).Nodup → ∃ t, exec .funcRstComplete s = .next t ∧ t.le.rst = false ∧ t.word (R.LE_LS_STAT.at) = 0 ∧ t.le.withheld = [] ∧
        t.le.cancel = (s.le.cancel || s.bit F.LE_LS_STAT_TIMER) ∧ (s.bit F.LE_LS_STAT_TIMER = false → t.fwd = s.fwd) ∧
        (∀ n, t.loop n = { pend := (s.loop n).pend, time := (s.loop n).time, bad := (s.loop n).bad }) ∧
        (s.bit F.HB_FUNC_STAT_BUSY = true → t.bit F.HB_FUNC_STAT_BUSY = false ∧ t.get F.HB_FUNC_STAT_RESULT = 1 ∧ t.hb.funcAt = none))) ∧
    (∀ u b, s.hb.funcAt = some u → funcBound f = some b → s.funcDone f = false → ∃ t, exec .funcRstTimeout s = .next t ∧ u + b ≤ t.now ∧ t.bit F.HB_FUNC_STAT_BUSY = false ∧
      t.get F.HB_FUNC_STAT_RESULT = 3 ∧ t.hb.funcAt = none) ∧
    (s.hb.funcAt = none ∨ funcBound f = none ∨ s.funcDone f = true → exec .funcRstTimeout s = .next s) ∧
    (s.cdRstReady k16 = false ∨ ((s.cdOf (2 * k16)).rst = false ∧ (s.cdOf (2 * k16 + 1)).rst = false) → exec (.cdFuncRstComplete k16) s = .next s) ∧
    (s.cdRstReady k16 = true → (s.cdOf (2 * k16)).rst = true → (s.cdOf (2 * k16 + 1)).rst = false → ∃ t, exec (.cdFuncRstComplete k16) s = .next t ∧ (t.cdOf (2 * k16)).rst = false) ∧
    (s.cdRstReady k16 = true → (s.cdOf (2 * k16)).rst = false → (s.cdOf (2 * k16 + 1)).rst = true → ∃ t, exec (.cdFuncRstComplete k16) s = .next t ∧ (t.cdOf (2 * k16 + 1)).rst = false))

/-- BOOT_START, BOOT_OTP_LOADED, BOOT_FLASH_PROBED, BOOT_IMAGE_READ_COMPLETE, BOOT_SIGNATURE_VERIFIED,
BOOT_SECTIONS_APPLIED and BOOT_END (R679 to R697). -/
def Obligations.BootStageRows : Prop :=
  ∀ (s : State) (live : BitVec 16) (otp : List Byte) (f : Sfdp) (content : Option (List (Nat × List Byte))) (ok : Bool),
    let served (t : State) (c : Nat) : Prop := t.bit F.BOOT_STAT_SERVICE = true ∧ t.get F.BOOT_STAT_SVC = c ∧ t.boot.stage = 6
    let num (o n : Nat) : Nat := leVal ((otp.drop o).take n)
    let crcOk := crc32 ((List.range 0x6FC).map (fun i => otp.getD (0x100 + i) 0)) = num 0x7FC 4
    let held := s.boot.stage ≠ 0 ∨ s.clk.refLost = true ∨ s.clk.logicOff = true
    let o := s.trySlot
    let rest := s.boot.tries.drop 1
    let shown (t : State) (c : Nat) : Prop := t.get (if o = 0 then F.BOOT_CAUSE_CAUSE_A else F.BOOT_CAUSE_CAUSE_B) = c
    let fails (c : Instr) (n : Nat) : Prop := ∃ t, exec c s = .next t ∧ shown t n ∧ (rest = [] → served t 3) ∧ (rest ≠ [] → t.boot.stage = 3 ∧ t.boot.tries = rest)
    (held → exec (.bootStart live) s = .next s) ∧
    (¬ held → ∃ t, exec (.bootStart live) s = .next t ∧ t.boot.stage = 1 ∧ t.boot.t0 = s.now ∧ t.bootAt = s.now ∧ t.word (R.BOOT_STRAP_LIVE.at) = Word.ofN live.toNat ∧ t.word (R.BOOT_CAUSE.at) = 0x11 ∧
      t.campus = (if s.bit F.AON_STAT_RTC_VALID then s.rtc else 0) % 2 ^ 64 ∧
      (s.boot.warm = false → t.bit F.SYS_CLK_STAT_REF_OK = true ∧ t.get F.SYS_STRAPS_MEMBER = live.toNat % 32 ∧ t.get F.SYS_STRAPS_ISLAND = live.toNat / 32 % 32 ∧
        t.get F.SYS_STRAPS_BOOTSEL = live.toNat / 1024 % 4 ∧ t.get F.SYS_STRAPS_HOSTMODE = live.toNat / 4096 % 4 ∧ t.get F.SYS_STRAPS_MASTERPRI = live.toNat / 16384 ∧
        t.get F.HB_MODE_HOSTMODE = live.toNat / 4096 % 4 ∧ t.bit F.HB_MODE_INVALID = decide (live.toNat / 4096 % 4 = 3)) ∧
      (s.boot.warm = true → t.word (R.SYS_STRAPS.at) = s.word (R.SYS_STRAPS.at) ∧ t.bit F.BOOT_STAT_STRAP_CHG = (s.bit F.BOOT_STAT_STRAP_CHG || decide (s.strapsHeld ≠ live.toNat)))) ∧
    (s.boot.stage ≠ 1 → exec (.bootOtpLoaded otp) s = .next s) ∧
    (s.boot.stage = 1 → ∃ t, exec (.bootOtpLoaded otp) s = .next t ∧ t.get F.CAL_STAT_REVOKED = num 0x88 4 % 16 ∧ (∀ k < 512, t.word (R.CAL_OTP.at k) = Word.ofN (num (4 * k) 4)) ∧
      (crcOk → t.boot.stage = 2 ∧ t.bit F.CAL_STAT_FACT_BAD = false) ∧ (¬ crcOk → t.bit F.CAL_STAT_FACT_BAD = true ∧ served t 4)) ∧
    (s.boot.stage ≠ 2 ∨ s.linkUp = false → exec (.bootFlashProbed f.valid f.quad444 f.quad114 f.erase64k f.mib content) s = .next s) ∧
    (s.boot.stage = 2 → s.linkUp = true →
      let good := f.valid = true ∧ (f.quad444 = true ∨ f.quad114 = true) ∧ 32 ≤ f.mib ∧ f.erase64k = true
      let u : State := match content with
        | none => s
        | some l => (s.setBoot { s.boot with flash := [] }).each l (fun (e : Nat × List Byte) s => s.setFlashPage e.1 ((e.2 ++ erasedPage).take 256))
      let sel := s.get F.SYS_STRAPS_BOOTSEL
      let c := Instr.bootFlashProbed f.valid f.quad444 f.quad114 f.erase64k f.mib content
      let norec (t : State) : Prop := u.recInForce = none → t.bit F.BOOT_STAT_NOREC = true
      let tries (l : List Nat) (t : State) : Prop := t.boot.stage = 3 ∧ t.boot.tries = l ∧ t.get F.BOOT_FLASH_MIB = min f.mib 64 ∧ norec t;
      (¬ good → ∃ t, exec c s = .next t ∧ served t 2) ∧
      (good → sel = 3 → ∃ t, exec c s = .next t ∧ served t 1 ∧ norec t) ∧
      (good → sel = 1 ∨ sel = 2 → ∃ t, exec c s = .next t ∧ tries [sel - 1] t) ∧
      (good → sel = 0 → u.recInForce = none → ∃ t, exec c s = .next t ∧ tries [0, 1] t) ∧
      (∀ k r, good → sel = 0 → u.recInForce = some (k, r) → r.trial = 0 ∨ r.tries ≠ 0 → ∃ t, exec c s = .next t ∧ tries [r.active, 1 - r.active] t ∧ t.boot.first = r.active) ∧
      (∀ k r, good → sel = 0 → u.recInForce = some (k, r) → r.trial ≠ 0 → r.tries = 0 → ∃ t, exec c s = .next t ∧ tries [1 - r.active] t ∧
        t.get (if r.active = 0 then F.BOOT_CAUSE_CAUSE_A else F.BOOT_CAUSE_CAUSE_B) = Cause.tries)) ∧
    (s.boot.stage ≠ 3 → exec (.bootImageReadComplete ok) s = .next s) ∧
    (s.boot.stage = 3 → (s.headCause o ok = 0 → exec (.bootImageReadComplete ok) s = .next (s.setBoot { s.boot with stage := 4 })) ∧
      (s.headCause o ok ≠ 0 → fails (.bootImageReadComplete ok) (s.headCause o ok))) ∧
    (s.boot.stage ≠ 4 → exec .bootSignatureVerified s = .next s) ∧
    (s.boot.stage = 4 → (s.tailCause o ≠ 0 → fails .bootSignatureVerified (s.tailCause o)) ∧
      (s.tailCause o = 0 → ∃ t, exec .bootSignatureVerified s = .next t ∧ t.boot.stage = 5 ∧ shown t 0 ∧ t.get F.BOOT_STAT_SLOT = o % 2 ∧ t.bit F.BOOT_STAT_FALLBACK = decide (o ≠ s.boot.first) ∧
        t.bit F.BOOT_STAT_TRIAL = (s.boot.useRec && o == s.boot.first && s.bit F.BOOT_REC_TRIAL) ∧
        (o = s.boot.first → ∀ k < 8, t.word (R.BOOT_IMG_HASH.at k) = Word.ofN (leVal (((beBytes 32 (s.imgDigest o)).drop (4 * k)).take 4))))) ∧
    (s.boot.stage ≠ 5 ∨ s.linkUp = false → exec .bootSectionsApplied s = .next s) ∧
    (s.boot.stage = 5 → s.linkUp = true → ∃ t, exec .bootSectionsApplied s = .next t ∧ t.boot.stage = 6 ∧ t.safeLoaded = true ∧ t.boot.errs = [] ∧ t.cl.seq = 0 ∧ t.bit F.AON_STAT_POWER_LOST = false) ∧
    (s.boot.stage ≠ 6 ∨ s.linkUp = false → exec .bootEnd s = .next s) ∧
    (s.boot.stage = 6 → s.linkUp = true → ∃ t, exec .bootEnd s = .next t ∧ t.boot.stage = 7 ∧ t.boot.endAt = some s.now ∧ t.boot.warm = false ∧ t.hostReady = true ∧ (t.core 0).started = true ∧ t.clk.warmAt = none ∧
      t.get F.BOOT_TIME_US = min (s.now - s.boot.t0) 0xFFFFF ∧
      (∀ k, 1 ≤ k → k ≤ 3 → (s.core k).task = none → t.bit F.SK_CTRL_STOPPED k = !t.bit F.SK_CTRL_RUN k) ∧
      (s.service = false → (∀ k, 1 ≤ k → k ≤ 3 → t.bit F.SK_CTRL_RUN k = true) ∧ t.hb.wdDue = if s.wdArmed then some (s.now + 100000 * s.get F.HB_WDOG_CFG_FIRST) else none))

/-- FLASH_READ_PAGE, FLASH_PROGRAM, FLASH_ERASE, FLASH_CMD_COMPLETE (R698), SLOT_ACTIVATE, SLOT_CONFIRM,
SLOT_ACTIVATE_COMPLETE (R699) and USER_CAL_COMMIT (R703, R704). -/
def Obligations.FlashAndSlotRows : Prop :=
  ∀ (s : State) (p : Path) (slot : Fin 2) (tries : Fin 8) (e : Fin 2048) (data : Word) (done : Bool),
    let w := s.who p
    let a := s.get F.BOOT_FL_ADDR_ADDR
    let sc := R.BOOT_SLOT_CMD.at
    let row (c : Instr) (op : Nat) (inside : Prop) : Prop :=
      (w.tenant ≠ 0 → s.refuses p c (R.BOOT_FL_CMD.at) (Word.ofN op) Res.refRights) ∧
      (w.tenant = 0 → s.bit F.BOOT_FL_STAT_BUSY = true ∨ ¬ inside → s.does p c (Tgt.reg (R.BOOT_FL_CMD.at) 0 (Word.ofN op)) Res.refConfig (fun t => t.put F.BOOT_FL_STAT_REFUSED 1)) ∧
      (w.tenant = 0 → s.bit F.BOOT_FL_STAT_BUSY = false → inside → s.doesPlain p c Res.applied (fun t =>
        let u := ((t.put F.BOOT_FL_STAT_BUSY 1).put F.BOOT_FL_STAT_ERR 0).put F.BOOT_FL_STAT_REFUSED 0
        u.setBoot { u.boot with flCmd := some (op, a, s.flBuf) }))
    let ended (t : State) (r : Nat) : Prop := t.wres = r ∧ t.get F.BOOT_SLOT_STAT_RESULT = r ∧ t.log.nextSeq = s.log.nextSeq + 1
    let d := slot.val + 256 * tries.val + 65536
    let may := s.bit F.BOOT_SLOT_STAT_BUSY = false ∧ s.slotInactive slot = true ∧ tries.val ≠ 0
    let onTrial := ∃ k r, s.recInForce = some (k, r) ∧ r.trial = 1 ∧ r.active = s.get F.BOOT_STAT_SLOT ∧ s.service = false ∧ s.bit F.BOOT_SLOT_STAT_BUSY = false
    row (.flashReadPage p) 1 True ∧ row (.flashProgram p) 2 (s.inInactive (a / 256 * 256) 256 = true) ∧ row (.flashErase p) 3 (s.inInactive (a / 65536 * 65536) 65536 = true) ∧
    (s.boot.flCmd = none → exec (.flashCmdComplete done) s = .next s) ∧
    (∀ op b buf, s.boot.flCmd = some (op, b, buf) →
      (∃ t, exec (.flashCmdComplete false) s = .next t ∧ t.bit F.BOOT_FL_STAT_BUSY = false ∧ t.bit F.BOOT_FL_STAT_ERR = true ∧ t.boot.flCmd = none ∧ t.boot.flash = s.boot.flash) ∧
      (∃ t, exec (.flashCmdComplete true) s = .next t ∧ t.bit F.BOOT_FL_STAT_BUSY = false ∧ t.boot.flCmd = none ∧
        (op = 2 → ∀ q, t.flashPage q = if q = b / 256 then List.zipWith (fun x y => x &&& y) (s.flashPage q) buf else s.flashPage q) ∧
        (op = 3 → ∀ q, t.flashPage q = if q / 256 = b / 65536 then erasedPage else s.flashPage q) ∧
        (op ≠ 2 → op ≠ 3 → t.boot.flash = s.boot.flash ∧ (b / 2 ^ 20 < s.get F.BOOT_FLASH_MIB ∨ (s.get F.BOOT_FLASH_MIB = 0 ∧ (s.get F.BOOT_STAT_SVC = 4 ∨ ∃ x ∈ s.boot.flash, x.1 = b / 256)) →
          ∀ k < 64, t.word (0x410300 + 4 * k) = Word.ofN (leVal (((s.flashPage (b / 256)).drop (4 * k)).take 4)))))) ∧
    (w.tenant ≠ 0 → s.refuses p (.slotActivate p slot tries) sc (Word.ofN d) Res.refRights ∧ s.refuses p (.slotConfirm p) sc 0x20000 Res.refRights ∧
      s.refuses p (.userCalCommit p e data) (R.CAL_UC_PT.at e) data Res.refRights) ∧
    (w.tenant = 0 → may → s.doesPlain p (.slotActivate p slot tries) Res.applied (fun t => (t.put F.BOOT_SLOT_STAT_BUSY 1).setBoot { t.boot with act := some (w.ifc, d) })) ∧
    (w.tenant = 0 → ¬ may → s.pathOpen p → s.ringOpen → ∃ t, exec (.slotActivate p slot tries) s = .next t ∧ ended t Res.refConfig ∧ t.boot = s.boot) ∧
    (w.tenant = 0 → onTrial → s.pathOpen p → s.ringOpen → ∃ t, exec (.slotConfirm p) s = .next t ∧ ended t Res.applied ∧ t.bit F.BOOT_STAT_TRIAL = false) ∧
    (w.tenant = 0 → ¬ onTrial → s.pathOpen p → s.ringOpen → ∃ t, exec (.slotConfirm p) s = .next t ∧ ended t Res.refConfig ∧ t.boot = s.boot) ∧
    (s.boot.act = none → exec (.slotActivateComplete done) s = .next s) ∧
    (∀ ifc x, s.boot.act = some (ifc, x) → let c := s.verifyCause (F.BOOT_SLOT_CMD_SLOT.of (Word.ofN x)) done
      ∃ t, exec (.slotActivateComplete done) s = .next t ∧ t.bit F.BOOT_SLOT_STAT_BUSY = false ∧ t.get F.BOOT_SLOT_STAT_CAUSE = c ∧ t.boot.act = none ∧
        (ifc ≠ 0 → s.ringOpen → ended t (if c = 0 then Res.applied else Res.refConfig)) ∧ (c ≠ 0 → t.boot.flash = s.boot.flash)) ∧
    (w.tenant = 0 → s.configures p (.userCalCommit p e data) (R.CAL_UC_PT.at e) data (s.ucChk e) (fun x t => t.ucTake e x))

/-- LE_DISCIPLINE_TRIM, DISCIPLINE_RESUME, REF_LOSS, REFERENCE_RETURN (R714, R715), SUPPLY_RESET, PD_OSC_MISMATCH,
POWER_ON_RESET_RELEASE (R716, R730, R732), WARM_RESET_START, WARM_RESET_NOTICE (R722, R723), BAT_GONE_CLEAR,
BATTERY_REMOVAL, CHARGER_CV_REACHED (R737, R738), SUPPLY_WARNING (R729), RTC_STOP, RTC_RESUME, RTC_WRITEBACK (R717,
R736) and AON_POWER_UP (R733, R735). -/
def Obligations.ClockAndResetRows : Prop :=
  ∀ (s : State) (ppm : Int) (i : Fin 4) (mV : Nat) (sup : Fin 3) (tcrit : Fin 8) (p : Path),
    let free := s.bit F.SYS_CLK_STAT_LE_FREE
    let ref := s.bit F.SYS_CLK_STAT_REF_OK
    let base := if s.clk.trimFrame = s.frame then s.clk.trimBase else s.leCorr
    let w := s.who p
    let cause (t : State) (f : Fld) : Prop := (t.word (R.AON_RST_CAUSE.at)).getLsbD f.lo = true
    let pdReset (t : State) (f : Fld) : Prop := cause t f ∧ t.clk.pdLost = true ∧ t.clk.pdReset = true ∧ t.clk.pdOff = true ∧ t.safe = [] ∧ t.safeLoaded = false ∧ t.cmds = [] ∧ t.cd = [] ∧
      t.boot = s.boot ∧ t.log = s.log ∧ t.clk.undeclared = s.clk.undeclared ∧ t.word (R.FAN_GUARD_FLT.at) = s.word (R.FAN_GUARD_FLT.at) ∧
      (∀ n < 32, (t.doOf n).since = if s.bit F.DO_STAT_OUT n then s.now else (s.doOf n).since) ∧ (∀ z < 16, s.zbOn z = true → ∀ j < 32, t.get F.ZB_NODE_CFG_STATE z j = 0) ∧
      ∀ a, isPower a = true → a / 0x10000 ≠ 0x42 → a ≠ R.FAN_GUARD_FLT.at → t.word a = resetWord a
    let logicReset (t : State) (warm : Bool) : Prop := t.boot.stage = 0 ∧ t.boot.warm = warm ∧ t.boot.flash = s.boot.flash ∧ t.log.ring = [] ∧ t.log.store = s.log.store ∧ t.hb.fifo = [] ∧ t.ten = [] ∧
      t.safe = s.safe ∧ t.cmds = s.cmds ∧ t.cd = s.cd.map (fun (e : Nat × CdChan) => (e.1, { e.2 with rst := false })) ∧ t.hb.pwrcyc = (if warm then s.hb.pwrcyc else none) ∧ t.fio = s.fio ∧ t.adc = s.adc ∧ t.clk.warm = none ∧
      (∀ e ∈ t.fan.chans, e.2.lapseAt.isSome = true) ∧
      (s.spaceWf → ∀ a, isPower a = true ∨ R.CAL_OTP.hit a = true → a ≠ R.AON_RST_CAUSE.at → t.word a = s.word a)
    let warn := supWarn i
    let supBit (t : State) (r : Reg) := bitsOf (t.word (r.at)) i 1
    (ref = false ∨ free = true → exec (.leDisciplineTrim ppm) s = .next s) ∧
    (ref = true → free = false → ppm.natAbs ≤ 20000 → ∃ t, exec (.leDisciplineTrim ppm) s = .next t ∧ t.leCorr = max (-32768) (min 32767 (max (base - 100) (min (base + 100) ppm))) ∧
      t.bit F.SYS_CLK_STAT_LE_FREE = false ∧ t.clk.trimFrame = s.frame ∧ t.clk.trimBase = base) ∧
    (ref = true → free = false → 20000 < ppm.natAbs → ∃ t, exec (.leDisciplineTrim ppm) s = .next t ∧ t.leCorr = 0 ∧ t.bit F.SYS_CLK_STAT_LE_FREE = true ∧ t.bit F.SYS_CLK_STAT_DISC_FLT = true) ∧
    (ref = true → free = true → ppm.natAbs ≤ 20000 → ∃ t, exec (.disciplineResume ppm) s = .next t ∧ s.clk.refAt + 100000 ≤ t.now ∧ t.bit F.SYS_CLK_STAT_LE_FREE = false) ∧
    (ref = false ∨ free = false ∨ 20000 < ppm.natAbs → exec (.disciplineResume ppm) s = .next s) ∧
    (s.inPor = true → exec .refLoss s = .next (s.setClk { s.clk with refLost := true })) ∧
    (s.inPor = false → ref = false → exec .refLoss s = .next s) ∧
    (s.inPor = false → ref = true → ∃ t, exec .refLoss s = .next t ∧ t.bit F.SYS_CLK_STAT_REF_OK = false ∧ t.bit F.SYS_CLK_STAT_LE_FREE = true ∧ t.clk.refLost = true ∧ t.clk.warm.isSome = true) ∧
    (s.clk.refLost = false → exec .referenceReturn s = .next s) ∧
    (s.clk.refLost = true → ∃ t, exec .referenceReturn s = .next t ∧ t.bit F.SYS_CLK_STAT_REF_OK = (!s.inPor || ref) ∧ t.clk.refLost = false ∧ t.clk.refAt = s.now) ∧
    (sup.val = 2 → ∃ t, exec (.supplyReset sup) s = .next t ∧ pdReset t F.AON_RST_CAUSE_POR_PD ∧ t.clk.afe = false) ∧
    (sup.val ≠ 2 → ∃ t, exec (.supplyReset sup) s = .next t ∧ logicReset t false ∧ cause t F.AON_RST_CAUSE_POR_LOGIC ∧ t.clk.logicOff = true ∧ t.clk.warmAt = none) ∧
    (s.clk.pdOff = true → exec .pdOscMismatch s = .next s) ∧
    (s.clk.pdOff = false → ∃ t, exec .pdOscMismatch s = .next t ∧ pdReset t F.AON_RST_CAUSE_PD_CLOCK) ∧
    (exec (.powerOnResetRelease true tcrit) s = .next (s.setClk { s.clk with logicOff := false })) ∧
    (s.clk.pdOff = true ∨ s.clk.pdReset = true → ∃ t, exec (.powerOnResetRelease false tcrit) s = .next t ∧ t.clk.pdOff = false ∧ t.clk.afe = true ∧ t.get F.FAN_GUARD_TCRIT = tcrit) ∧
    (s.clk.pdOff = false → s.clk.pdReset = false → exec (.powerOnResetRelease false tcrit) s = .next s) ∧
    (s.clk.warm = none → exec .warmResetStart s = .next s) ∧
    (∀ c asked, s.clk.warm = some (c, asked) → ∃ t, exec .warmResetStart s = .next t ∧ logicReset t true ∧ s.now + 10 ≤ t.now ∧ t.clk.warmAt.isSome = true ∧ t.clk.notice = (s.clk.notice || s.linkUp)) ∧
    (s.clk.notice = false → exec .warmResetNotice s = .next s) ∧
    (s.clk.notice = true → ∃ t, exec .warmResetNotice s = .next t ∧ t.clk.notice = false ∧ t.clk.noticeAt = some s.now ∧ t.linkUp = s.linkUp ∧ t.bit F.AON_SAFE_STAT_WARM = true ∧
      ∀ o ∈ allOutputs, (t.safeOf o.1 o.2).inSafe = true) ∧
    (w.tenant ≠ 0 → s.refusesPd p (.batGoneClear p) (R.AON_STAT.at) 4 Res.refRights) ∧
    (w.tenant = 0 → s.pdReach = true → s.pathOpen p → s.ringOpen → ∃ t, exec (.batGoneClear p) s = .next t ∧ t.wres = Res.applied ∧ t.bit F.AON_STAT_BAT_GONE = false ∧ t.log.nextSeq = s.log.nextSeq + 1) ∧
    (s.bit F.AON_STAT_BAT_GONE = true → exec .batteryRemoval s = .next s) ∧
    (s.bit F.AON_STAT_BAT_GONE = false → s.clk.afe = false → exec .batteryRemoval s = .next s.aonReset) ∧
    (s.bit F.AON_STAT_BAT_GONE = false → s.clk.afe = true → ∃ t, exec .batteryRemoval s = .next t ∧ t.bit F.AON_STAT_BAT_GONE = true ∧ t.get F.AON_CHG_STAT_ICHG = 0 ∧
      t.get F.AON_CHG_STAT_MODE = if s.bit F.AON_CHG_CFG_EN then 3 else 0) ∧
    (s.get F.AON_CHG_STAT_MODE ≠ 1 → exec .chargerCvReached s = .next s) ∧
    (s.get F.AON_CHG_STAT_MODE = 1 → ∃ t, exec .chargerCvReached s = .next t ∧ t.get F.AON_CHG_STAT_MODE = 2 ∧ t.get F.AON_CHG_STAT_ICHG ≤ 50 * s.get F.AON_CHG_CFG_ICC) ∧
    (mV < warn → supBit s R.AON_SUP_STAT = 0 → ∃ t, exec (.supplyWarning i mV) s = .next t ∧ supBit t R.AON_SUP_STAT = 1 ∧ supBit t R.AON_SUP_EVT = 1) ∧
    (103 * warn < 100 * mV → ∃ t, exec (.supplyWarning i mV) s = .next t ∧ supBit t R.AON_SUP_STAT = 0 ∧ t.word (R.AON_SUP_EVT.at) = s.word (R.AON_SUP_EVT.at)) ∧
    (∃ t, exec .rtcStop s = .next t ∧ t.bit F.AON_STAT_RTC_STOP = true ∧ t.bit F.AON_STAT_RTC_VALID = false ∧ t.rtcHeld = some s.rtc ∧ t.rtc = s.rtc) ∧
    (s.rtcHeld = none → exec .rtcResume s = .next s) ∧
    (∀ x, s.rtcHeld = some x → ∃ t, exec .rtcResume s = .next t ∧ t.bit F.AON_STAT_RTC_STOP = false ∧ t.rtcHeld = none ∧ (t.now + t.rtcOff) % 2 ^ 64 = rtcFrom x % 2 ^ 64) ∧
    (s.bit F.CL_TIME_STAT_SYNC = false ∨ s.pdReach = false → exec .rtcWriteback s = .next s) ∧
    (s.bit F.CL_TIME_STAT_SYNC = true → s.pdReach = true → ∃ t, exec .rtcWriteback s = .next t ∧ s.clk.wbAt + 1000000 ≤ t.now ∧ t.clk.wbAt = t.now ∧
      (s.rtcHeld = none → t.bit F.AON_STAT_RTC_VALID = true ∧ t.rtcOff = t.campusOff)) ∧
    (∃ t, exec .aonPowerUp s = .next t ∧ t.rtcHeld = none ∧ t.rtc = 0 ∧ t.word (R.FAN_GUARD_FLT.at) = 0 ∧ (∀ a, a / 0x10000 = 0x42 → t.word a = resetWord a) ∧
      ∀ a, a / 0x10000 ≠ 0x42 → a ≠ R.FAN_GUARD_FLT.at → t.word a = s.word a)

/-- D2D_FRAME, D2D_RESEND_TIMEOUT (R724), D2D_LINK_LOST_PD, D2D_LINK_LOST (R27, R725), D2D_TRAINING_START,
D2D_TRAINING_FAIL, D2D_LINK_CHECK_PASS and D2D_NO_RECOVERY (R726 to R728). -/
def Obligations.LinkRows : Prop :=
  ∀ (s : State) (p : Path) (a : Fin (2 ^ 24)) (data : Word) (arrives : Bool) (ms : List (Fin 3 × Nat)),
    let bumped (n : Nat) (t : State) (f : Fld) : Prop := t.get f = min (2 ^ f.w - 1) (s.get f + n)
    let w := s.who p
    let b := a.val / 4 * 4
    (s.pathOpen p → isPower b = false ∨ s.linkUp = false ∨ s.clk.silent = true → exec (.d2dFrame (.write p a data arrives)) s = .next ((s.opened p).busWrite w b data)) ∧
    (s.pathOpen p → isPower b = true → s.linkUp = true → s.clk.silent = false →
      let x : Posted := ⟨w.bank, w.tenant, w.ifc, w.prio, w.en, b, data, 15⟩
      let r := (s.opened p).pdWrite x
      let got := arrives && !s.clk.pdOff
      (r.1.wres = Res.logFull → exec (.d2dFrame (.write p a data arrives)) s = .next r.1) ∧
      (r.1.wres ≠ Res.logFull → ∃ t, exec (.d2dFrame (.write p a data arrives)) s = .next t ∧ t.log.ring = s.log.ring ∧ t.log.nextSeq = s.log.nextSeq ∧
        t.clk.out.getLast? = some ⟨r.2, got, x, 1, s.now⟩ ∧ (got = true → t.space = r.1.space) ∧
        (got = false → t.space = s.space ∧ t.log = s.log ∧ t.clk.out.length = s.clk.out.length + 1))) ∧
    (s.hostHeld p = true → exec (.d2dFrame (.read p a)) s = .next { s with rdata := 0 }) ∧
    (s.hostHeld p = false →
      (isPower b = false ∨ s.linkUp = false ∨ s.clk.silent = true → exec (.d2dFrame (.read p a)) s = .next (s.busRead w b)) ∧
      (isPower b = true → s.linkUp = true → s.clk.silent = false →
        exec (.d2dFrame (.read p a)) s = .next (s.setClk { s.clk with reads := s.clk.reads ++ [⟨w.bank, w.tenant, w.ifc, w.prio, w.en, w.cap, b⟩] }))) ∧
    (s.clk.reads = [] ∨ s.pdReach = false → exec (.d2dFrame .answer) s = .next s) ∧
    (∀ r l, s.pdReach = true → s.clk.reads = r :: l → exec (.d2dFrame .answer) s = .next ((s.setClk { s.clk with reads := l }).busRead ⟨r.bank, r.tenant, r.ifc, r.prio, r.en, r.cap⟩ r.addr)) ∧
    (s.clk.out = [] → exec (.d2dFrame .ack) s = .next s ∧
      (s.clk.silent = true ∨ s.linkUp = false ∨ s.fwd = [] → exec (.d2dResendTimeout arrives) s = .next s) ∧
      (s.clk.silent = false → s.linkUp = true → s.fwd ≠ [] →
        (4 ≤ s.clk.fwdTries → exec (.d2dResendTimeout arrives) s = .next (s.setClk { s.clk with silent := true })) ∧
        (s.clk.fwdTries < 4 → ∃ t, exec (.d2dResendTimeout arrives) s = .next t ∧ bumped 1 t F.SYS_D2D_ERR_RESEND ∧ t.clk = { s.clk with fwdTries := s.clk.fwdTries + 1 } ∧ t.fwd = s.fwd))) ∧
    (∀ o l, s.clk.out = o :: l →
      (o.applied = false → exec (.d2dFrame .ack) s = .next s) ∧
      (o.applied = true → o.records = [] → exec (.d2dFrame .ack) s = .next { s.setClk { s.clk with out := l } with wres := Res.applied }) ∧
      (∀ r rs, o.applied = true → o.records = r :: rs → ∃ t, exec (.d2dFrame .ack) s = .next t ∧ t.clk.out = l ∧ t.wres = r.result) ∧
      (∀ r, o.applied = true → o.records = [r] → s.ringOpen → ∃ t, exec (.d2dFrame .ack) s = .next t ∧ t.clk.out = l ∧ t.wres = r.result ∧ t.log.nextSeq = s.log.nextSeq + 1 ∧
        t.log.ring.getLast? = some { r with seq := s.log.nextSeq }) ∧
      (s.clk.silent = true → exec (.d2dResendTimeout arrives) s = .next s) ∧
      (s.clk.silent = false → 4 ≤ o.tries → ∃ t, exec (.d2dResendTimeout arrives) s = .next t ∧ o.at_ + 2 ≤ t.now ∧ t.clk.silent = true ∧ t.clk.out = o :: l) ∧
      (s.clk.silent = false → o.tries < 4 → ∃ t rs, exec (.d2dResendTimeout arrives) s = .next t ∧ o.at_ + 2 ≤ t.now ∧ t.log.ring = s.log.ring ∧ t.log.nextSeq = s.log.nextSeq ∧
        t.clk.out = { o with records := rs, applied := o.applied || (arrives && !s.clk.pdOff), tries := o.tries + 1, at_ := t.now } :: l ∧
        (arrives = false ∨ s.clk.pdOff = true ∨ o.applied = true → rs = o.records ∧ t.log = s.log ∧ bumped 1 t F.SYS_D2D_ERR_RESEND))) ∧
    (s.linkUp = false → exec (.d2dFrame (.heartbeat ms)) s = .next s) ∧
    (s.linkUp = true → ∃ t, exec (.d2dFrame (.heartbeat ms)) s = .next t ∧ t.clk = s.clk ∧ ∀ m ∈ ms, (t.word (R.SYS_XOVR.at)).getLsbD (8 + m.1.val) = true) ∧
    (∃ t, exec (.d2dFrame .badCrc) s = .next t ∧ bumped 1 t F.SYS_D2D_ERR_CRC ∧ t.clk = s.clk ∧ t.log = s.log) ∧
    (s.clk.pdLost = true → exec .d2dLinkLostPd s = .next s) ∧
    (s.clk.pdLost = false → ∃ t, exec .d2dLinkLostPd s = .next t ∧ t.clk.pdLost = true ∧ t.linkUp = s.linkUp ∧ (s.clk.noticeAt = none → t.bit F.AON_SAFE_STAT_D2D = true ∧ t.clk.undeclared = !s.clk.declared) ∧
      ∀ o ∈ allOutputs, (t.safeOf o.1 o.2).inSafe = true) ∧
    (s.linkUp = false → exec .d2dLinkLost s = .next s) ∧
    (s.linkUp = true → ∃ t, exec .d2dLinkLost s = .next t ∧ t.linkUp = false ∧ t.bit F.SYS_D2D_STAT_LOST = true ∧ bumped 1 t F.SYS_D2D_STAT_LOSS_COUNT ∧ t.bit F.HB_HSTAT_PD_STALE = true ∧
      bumped s.clk.out.length t F.SYS_D2D_DROP_WRITES ∧ bumped s.clk.reads.length t F.SYS_D2D_DROP_READS ∧ t.clk.out = [] ∧ t.clk.reads = [] ∧ t.clk.declared = true ∧ t.hb.frozen.isSome = true ∧ t.clk.fwdTries = 1 ∧ t.fwd = [] ∧ t.clk.lossAt = some s.now ∧ t.clk.silent = false) ∧
    (s.linkUp = true ∨ s.clk.train.isSome = true ∨ s.boot.stage = 0 → exec .d2dTrainingStart s = .next s) ∧
    (s.linkUp = false → s.clk.train = none → s.boot.stage ≠ 0 → ∃ t, exec .d2dTrainingStart s = .next t ∧ s.trainAt ≤ t.now ∧ t.clk.train = some t.now ∧ bumped 1 t F.SYS_D2D_ERR_RETRAIN) ∧
    (s.clk.train = none → exec .d2dTrainingFail s = .next s) ∧
    (s.clk.train.isSome = true → exec .d2dTrainingFail s = .next (s.setClk { s.clk with train := none, failAt := some s.now })) ∧
    (s.linkUp = true ∨ s.clk.train = none ∨ s.clk.pdOff = true → exec .d2dLinkCheckPass s = .next s) ∧
    (s.linkUp = false → s.clk.train.isSome = true → s.clk.pdOff = false →
      -- the first attempt of a boot that succeeds, with no loss since its t0
      let first := s.boot.stage < 7 ∧ s.clk.lossAt = none;
      (first ∨ s.clk.pdReset = false → ∃ t, exec .d2dLinkCheckPass s = .next t ∧ t.linkUp = true ∧ t.clk.pdLost = false ∧ t.clk.train = none ∧ t.clk.declared = false ∧
        t.clk.undeclared = false ∧ (s.clk.undeclared = true → t.ic.pendOf 192 = true) ∧
        t.bit F.HB_HSTAT_PD_STALE = false ∧ t.hb.frozen = none ∧ t.get F.SYS_STRAPS_TCRIT = s.get F.FAN_GUARD_TCRIT) ∧
      (¬ first → s.clk.pdReset = true → ∃ t, exec .d2dLinkCheckPass s = .next t ∧ t.linkUp = false ∧ t.clk.pdReset = false ∧ t.clk.warm.isSome = true)) ∧
    (s.linkUp = true → exec .d2dNoRecovery s = .next s) ∧
    (s.linkUp = false →
      (∀ x, s.clk.lossAt = some x → ∃ t, exec .d2dNoRecovery s = .next t ∧ x + 100000 ≤ t.now ∧ t.clk.warm.isSome = true) ∧
      (s.clk.lossAt = none → s.boot.stage ≠ 7 → s.boot.stage ≠ 0 → s.boot.warm = false → ∃ t, exec .d2dNoRecovery s = .next t ∧ s.boot.t0 + 500000 ≤ t.now ∧ t.clk.warm.isSome = true) ∧
      (s.clk.lossAt = none → s.boot.stage = 0 ∨ s.boot.stage = 7 ∨ s.boot.warm = true → exec .d2dNoRecovery s = .next s))

/-- PNL_FRAME_END, PNL_UNDERRUN, PNL_VCOM_UPDATE, PNL_POWER_UP_START, PNL_POWER_DOWN_START, PNL_PSEQ_STEP,
PNL_CRACK_MEASURE and PNL_FUNC_RST_FORCE (R750 to R760, R769). -/
def Obligations.PanelRows : Prop :=
  ∀ (s : State) (ohm : Nat),
    let bumped (t : State) (f : Fld) : Prop := t.get f = min (2 ^ f.w - 1) (s.get f + 1)
    let v := s.get F.PNL_STAT_VCOM
    let x := s.pnl
    let upOk := s.pstate = Ps.off ∧ s.bit F.PNL_CTRL_ON = true ∧ s.crackHold = false ∧ x.rstAt = none ∧ s.boot.stage = 7
    let g := if s.bit F.PNL_VCOM_CFG_TEN = true ∧ x.read = true then x.target else s.get F.PNL_VCOM_CFG_DEF
    let forced := (s.crackHold = true ∧ s.bit F.PNL_CTRL_ON = false) ∨ x.rstAt.isSome = true
    let downOk := (s.pstate = Ps.on ∧ (s.bit F.PNL_CTRL_ON = false ∨ forced)) ∨ (s.pstate = Ps.up ∧ forced)
    let moved (t : State) : Prop :=
      if s.pstate = Ps.up ∧ x.step + 1 = 5 then t.pstate = Ps.on ∧ t.bit F.PNL_EVT_PWR = true
      else if s.pstate = Ps.down ∧ x.step + 1 = 4 then t.pstate = Ps.off ∧ t.bit F.PNL_EVT_PWR = true ∧ t.pnl.rstAt = none
      else t.pstate = s.pstate ∧ t.pnl.step = x.step + 1 ∧ t.pnl.stepAt = t.now ∧ (s.pstate = Ps.down → x.step + 1 = 3 → t.get F.PNL_STAT_VCOM = 0)
    (s.pnlTiming = false → exec .pnlFrameEnd s = .next s ∧ exec .pnlUnderrun s = .next s) ∧
    -- the last active line ends a frame; the VSYNC edge after the one before, if it is still to come, comes first
    (s.pnlTiming = true → let n := x.frames + b2n x.edge
      ∃ t, exec .pnlFrameEnd s = .next t ∧ t.bit F.PNL_EVT_FRAME = true ∧ t.pnl.edge = true ∧ t.pnl.frames = n ∧ t.pnl.stepFrames = x.stepFrames + b2n x.edge ∧ t.pnl.base = s.get F.PNL_FB_BASE ∧
      s.linesEnd (n * s.frameLines + (s.frameLines - s.get F.PNL_VTIM_HFP)) ≤ t.now ∧
      (x.edge = false → t.pnl.inv = x.inv ∧ t.pnl.blinks = x.blinks ∧ t.get F.PNL_STAT_VCOM = v) ∧
      (x.edge = true → s.vsyncAt ≤ t.now ∧ t.pnl.inv = s.get F.PNL_CTRL_INV ∧ t.get F.PNL_STAT_VCOM = (if v < g then v + 1 else if g < v then v - 1 else v) % 2 ^ F.PNL_STAT_VCOM.w ∧
      ∀ k < 8, let b := x.blinks.getD k {}
        t.pnl.blinks.getD k {} = match b.next with
          | some (xy0, xy1, color, ctrl) => ⟨xy0, xy1, color, ctrl, 0, none⟩
          | none => { b with c := if b.c + 1 < F.PNL_BLK_CTRL_PERIOD.of b.ctrl then b.c + 1 else 0 })) ∧
    (s.pnlTiming = true → ∃ t, exec .pnlUnderrun s = .next t ∧ bumped t F.PNL_CNT_UNDERRUN ∧ t.bit F.PNL_EVT_UNDERRUN = true ∧ (x.underAt = none → t.pnl.underAt = some s.now)) ∧
    (let i := s.get F.PNL_VCOM_CFG_TPT
      ∃ t, exec .pnlVcomUpdate s = .next t ∧ x.vcomAt + 1000000 ≤ t.now ∧ t.pnl.vcomAt = t.now ∧
        (s.bit F.PNL_VCOM_CFG_TEN = false → t.pnl.target = s.get F.PNL_VCOM_CFG_DEF) ∧
        (s.bit F.PNL_VCOM_CFG_TEN = true → qualLive (s.ptQual i) = true → t.pnl.target = s.vtTarget (s.ptVal i) ∧ t.bit F.PNL_STAT_VT_HOLD = false ∧ t.pnl.read = true) ∧
        (s.bit F.PNL_VCOM_CFG_TEN = true → qualLive (s.ptQual i) = false → t.pnl.target = (if x.read then x.target else s.get F.PNL_VCOM_CFG_DEF) ∧ t.bit F.PNL_STAT_VT_HOLD = true)) ∧
    (upOk → ∃ t, exec .pnlPowerUpStart s = .next t ∧ t.pstate = Ps.up ∧ t.pnl.step = 0 ∧ t.pnl.stepAt = s.now) ∧
    (¬ upOk → exec .pnlPowerUpStart s = .next s.pnlNow) ∧
    (downOk → ∃ t, exec .pnlPowerDownStart s = .next t ∧ t.pstate = Ps.down ∧ t.pnl.step = 0 ∧ t.pnl.stepAt = s.now) ∧
    (¬ downOk → exec .pnlPowerDownStart s = .next s.pnlNow) ∧
    (s.pstate = Ps.off ∨ s.pstate = Ps.on → exec .pnlPseqStep s = .next s) ∧
    (s.pstate = Ps.up ∨ s.pstate = Ps.down →
      (∀ ms, s.stepMs = some ms → ∃ t, exec .pnlPseqStep s = .next t ∧ x.stepAt + 1000 * ms ≤ t.now ∧ moved t) ∧
      (s.stepMs = none → let u := if x.edge = true ∧ s.stepFramesDue = x.stepFrames + 1 then (s.reach s.vsyncAt).vsync else s.pnlNow
        (s.stepFramesDue ≤ u.pnl.stepFrames → ∃ t, exec .pnlPseqStep s = .next t ∧ moved t) ∧
        (u.pnl.stepFrames < s.stepFramesDue → exec .pnlPseqStep s = .next u))) ∧
    (s.bit F.PNL_CRK_CFG_EN = false → exec (.pnlCrackMeasure ohm) s = .next s) ∧
    (s.bit F.PNL_CRK_CFG_EN = true → let r := min ohm 20000 / 10
      let hi := if s.get F.PNL_CRK_CFG_RMAX < r then x.crkHi + 1 else 0
      let lo := if r < s.get F.PNL_CRK_CFG_RMIN then x.crkLo + 1 else 0
      ∃ t, exec (.pnlCrackMeasure ohm) s = .next t ∧ x.crkAt + 100000 ≤ t.now ∧ t.pnl.crkAt = t.now ∧ t.pnl.crkHi = hi ∧ t.pnl.crkLo = lo ∧
        t.bit F.PNL_FLT_CRACK_OPEN = (s.bit F.PNL_FLT_CRACK_OPEN || decide (3 ≤ hi)) ∧ t.bit F.PNL_FLT_CRACK_SHORT = (s.bit F.PNL_FLT_CRACK_SHORT || decide (3 ≤ lo)) ∧
        (s.word (R.PNL_FLT.at) = 0 → 3 ≤ hi → t.pnlLevel = 0 ∧ (s.bit F.PNL_CRK_CFG_ACT = true → t.bit F.PNL_CTRL_ON = false))) ∧
    (x.rstAt = none → exec .pnlFuncRstForce s = .next s) ∧
    (∀ u, x.rstAt = some u → ∃ t, exec .pnlFuncRstForce s = .next t ∧ u + 40000 ≤ t.now ∧ t.pstate = Ps.off ∧ t.pnl.rstAt = none ∧ t.get F.PNL_STAT_VCOM = 0 ∧ t.bit F.PNL_EVT_PWR = true)

/-- PNL_KEY_SCAN, PNL_ENCODER_STEP, PNL_KEYQ_POP (R761 to R764), PNL_ACCESS_TRY, PNL_WRITE, PNL_RELINQUISH,
PNL_LOCKOUT_END, PNL_ACCESS_IDLE (R765 to R768) and PNL_BLINK_COMMIT (R757). -/
def Obligations.KeypadRows : Prop :=
  ∀ (s : State) (keys : BitVec 64) (n : Fin 4) (ab : Fin 4) (p : Path) (k : Fin 8) (data : Word) (seen : Nat),
    let w := s.who p
    let x := s.pnl
    let l := F.PNL_ACC_LVL_LEVEL.of data
    let lv := s.pnlLevel
    let fails := s.get F.PNL_ACC_STAT_FAILS
    -- a VSYNC edge that has come acts before a write of a panel register
    let edge := s.pnlTiming = true ∧ x.edge = true ∧ s.vsyncAt ≤ s.now
    (edge → s.pnlNow.pnl.edge = false ∧ s.pnlNow.pnl.frames = x.frames + 1 ∧ (s.pathOpen p →
      ∀ c ∈ ([.pnlKeyqPop p data, .pnlBlinkCommit p k data, .pnlAccessTry p data, .pnlWrite p, .pnlRelinquish p] : List Instr), exec c s = exec c s.pnlNow)) ∧
    (∃ t, exec (.pnlKeyScan keys) s = .next t ∧ x.scanAt + 8 * s.get F.PNL_KEY_CFG_COLT ≤ t.now ∧ t.pnl.scanAt = t.now ∧
      ∀ j < 64, t.keyDown j = if keys.getLsbD j ≠ s.keyDown j ∧ s.get F.PNL_KEY_CFG_DEB ≤ Tab.get (fun _ => 0) x.runs j + 1 then keys.getLsbD j else s.keyDown j) ∧
    (let e := x.encs.getD n (0, 0)
      let d := (grayIdx ab + 4 - grayIdx e.1) % 4
      let acc : Int := if (d = 1) ↔ s.bit F.PNL_ENC_CFG_INV n = false then e.2 + 1 else e.2 - 1
      let cpd : Int := (s.get F.PNL_ENC_CFG_CPD n : Nat)
      let pos := s.get F.PNL_ENC_POS_POS n
      let kept (a : Int) := if s.bit F.PNL_ENC_CFG_ALIGN n = true ∧ ab.val = s.get F.PNL_ENC_CFG_REST n then 0 else a
      let went (q code : Nat) (a : Int) : Prop := ∃ t, exec (.pnlEncoderStep n ab seen) s = .next t ∧ t.get F.PNL_ENC_POS_POS n = q % 65536 ∧ t.pnl.encs.getD n (0, 0) = (ab.val, kept a) ∧
        (x.keyq.length < 64 → t.pnl.keyq = x.keyq ++ [⟨s.bootMs, code + 2 * n.val, x.posted % 65536⟩] ∧ t.bit F.PNL_EVT_KEYQ = true) ∧
        (64 ≤ x.keyq.length → t.pnl.keyq = x.keyq ∧ t.bit F.PNL_EVT_KEYOVF = true);
      (seen ≤ s.get F.PNL_ENC_CFG_FILT n ∨ d = 0 → exec (.pnlEncoderStep n ab seen) s = .next s) ∧
      (s.get F.PNL_ENC_CFG_FILT n < seen →
      (d = 2 → ∃ t, exec (.pnlEncoderStep n ab seen) s = .next t ∧ t.bit F.PNL_EVT_ENCERR = true ∧ t.get F.PNL_ENC_POS_ERR n = min (2 ^ F.PNL_ENC_POS_ERR.w - 1) (s.get F.PNL_ENC_POS_ERR n + 1) ∧
        t.get F.PNL_ENC_POS_POS n = pos ∧ t.pnl.encs.getD n (0, 0) = (ab.val, e.2) ∧ t.pnl.keyq = x.keyq) ∧
      (d % 2 = 1 → -cpd < acc → acc < cpd → ∃ t, exec (.pnlEncoderStep n ab seen) s = .next t ∧ t.space = s.space ∧ t.pnl.keyq = x.keyq ∧ t.pnl.encs.getD n (0, 0) = (ab.val, kept acc)) ∧
      (d % 2 = 1 → cpd ≤ acc → -cpd < acc - cpd → went (pos + 1) 0xC0 (acc - cpd)) ∧
      (d % 2 = 1 → acc < cpd → acc ≤ -cpd → went (pos + 65535) 0xC1 (acc + cpd)))) ∧
    (¬ edge → w.tenant ≠ 0 → w.bank ≠ 5 → s.doesPlain p (.pnlKeyqPop p data) Res.refRights id ∧ s.refuses p (.pnlBlinkCommit p k data) (R.PNL_BLK_CTRL.at k) data Res.refRights) ∧
    (¬ edge → w.tenant = 0 →
      (∀ e r, x.keyq = e :: r → e.qseq = F.PNL_KEYQ_POP_QSEQ.of data → s.doesPlain p (.pnlKeyqPop p data) Res.applied (fun t => (t.setPnl { t.pnl with keyq := r }).keyqBit)) ∧
      ((∀ e r, x.keyq = e :: r → e.qseq ≠ F.PNL_KEYQ_POP_QSEQ.of data) → s.doesPlain p (.pnlKeyqPop p data) Res.applied id) ∧
      s.configures p (.pnlBlinkCommit p k data) (R.PNL_BLK_CTRL.at k) data (fun y => if s.blinkOk k y then Res.applied else Res.refConfig)
        (fun y t => t.setPnl { t.pnl with blinks := putAt {} t.pnl.blinks k { t.pnl.blinks.getD k {} with next := some (s.word (R.PNL_BLK_XY0.at k), s.word (R.PNL_BLK_XY1.at k), s.word (R.PNL_BLK_COLOR.at k), y) } })) ∧
    (¬ edge → w.bank ≠ 5 → s.doesPlain p (.pnlAccessTry p data) Res.refRights id ∧ s.doesPlain p (.pnlWrite p) Res.refRights id ∧ s.doesPlain p (.pnlRelinquish p) Res.refRights id) ∧
    (¬ edge → w.bank = 5 → w.tenant = 0 → s.pathOpen p →
      (l = 0 → ∃ t, exec (.pnlAccessTry p data) s = .next t ∧ t.wres = Res.applied ∧ t.pnlLevel = 0 ∧ t.pnl.digits = 0) ∧
      (l ≠ 0 → s.tryOk l = true → s.ringOpen → ∃ t, exec (.pnlAccessTry p data) s = .next t ∧ t.wres = Res.applied ∧ t.pnlLevel = l ∧ t.get F.PNL_ACC_STAT_FAILS = 0 ∧ t.pnl.digits = 0) ∧
      (l ≠ 0 → s.tryOk l = false → s.ringOpen → ∃ t, exec (.pnlAccessTry p data) s = .next t ∧ t.wres = Res.refRights ∧ t.pnlLevel = lv ∧ t.pnl.digits = 0 ∧
        t.get F.PNL_ACC_STAT_FAILS = min (2 ^ F.PNL_ACC_STAT_FAILS.w - 1) (fails + 1) ∧ t.bit F.PNL_ACC_STAT_LOCKED = (s.bit F.PNL_ACC_STAT_LOCKED || decide (5 ≤ fails + 1))) ∧
      (lv = 0 → s.doesPlain p (.pnlWrite p) Res.refRights (fun t => t.put F.PNL_WR_RES_RES Res.refRights) ∧ s.doesPlain p (.pnlRelinquish p) Res.refRights (fun t => t.put F.PNL_WR_RES_RES Res.refRights)) ∧
      (lv ≠ 0 → let u (op : PtOp) := (s.opened p).ptWrite ⟨15, s.get F.PNL_ACC_CFG_TENANT (lv - 1), 8, s.get F.PNL_ACC_CFG_PRIO (lv - 1), true, 15⟩ (s.get F.PNL_WR_PT_POINT) op (s.get F.PNL_ACC_CFG_PRIO (lv - 1)) (s.word (R.PNL_WR_VAL.at)) (R.PNL_WR_CMD.at);
        exec (.pnlWrite p) s = .next ((u .write).put F.PNL_WR_RES_RES (u .write).wres) ∧ exec (.pnlRelinquish p) s = .next ((u .relinquish).put F.PNL_WR_RES_RES (u .relinquish).wres))) ∧
    (x.lockAt = none → exec .pnlLockoutEnd s = .next s) ∧
    (∀ u, x.lockAt = some u → ∃ t, exec .pnlLockoutEnd s = .next t ∧ u + 900000000 ≤ t.now ∧ t.bit F.PNL_ACC_STAT_LOCKED = false ∧ t.get F.PNL_ACC_STAT_FAILS = 0 ∧ t.pnl.lockAt = none) ∧
    (lv = 0 → exec .pnlAccessIdle s = .next s) ∧
    (lv ≠ 0 → ∃ t, exec .pnlAccessIdle s = .next t ∧ x.idleAt + 1000000 * s.get F.PNL_ACC_IDLE_IDLE ≤ t.now ∧ t.pnlLevel = 0 ∧ t.bit F.PNL_EVT_ACCESS = true)

/-- TASK_ACTIVATE_PERIODIC (R218), SK_MEMORY_WRITE (R191), DISPATCHER_CLAIM (R643) and STATUS_ITEMS_TICK (R76). -/
def Obligations.ActivationAndItemRows : Prop :=
  ∀ (s : State) (p : Path) (k : Fin 3) (c : Fin 4) (dmem : Bool) (word : BitVec 14) (data : Word) (m : TickMeas),
    let w := s.who p
    let o := 0x10000 * b2n dmem + 4 * word.toNat
    let a := 0x210000 + 0x20000 * k.val + o
    let due := s.skTasks 0 (fun k t => s.get F.SK_TASK_TRIG_ARG k t % 65536 != 0 && s.frame % (s.get F.SK_TASK_TRIG_ARG k t % 65536) == s.get F.SK_TASK_TRIG_ARG k t / 65536)
    let runs (k t : Nat) := s.tstate (s.get F.SK_TASK_CTL_TENANT k t) = 1
    let u := s.tickMeas m
    let bound := (u.listed R.PT_BIND).filter (fun (e : Nat × Word) => F.PT_BIND_KIND.of e.2 == Kind.status)
    (∃ t, exec .taskActivatePeriodic s = .next t ∧ t.log = s.log ∧ ∀ e ∈ due, runs e.1 e.2 → (t.core e.1).ready.getLsbD e.2 = true ∧
      ((s.core e.1).ready.getLsbD e.2 = false → Tab.get (fun _ => 0) (t.core e.1).args e.2 = s.frame % 2 ^ 32)) ∧
    (due = [] → exec .taskActivatePeriodic s = .next s) ∧
    (w.tenant = 0 → s.bit F.SK_CTRL_STOPPED (k + 1) = true → s.does p (.skMemoryWrite p k dmem word data) (Tgt.reg a (s.word a) data) Res.applied (fun t => t.setSkMem (k + 1) o data)) ∧
    (w.tenant ≠ 0 ∨ s.bit F.SK_CTRL_STOPPED (k + 1) = false → s.refuses p (.skMemoryWrite p k dmem word data) a data Res.refConfig) ∧
    (c = 0 ∨ s.offer c = none → exec (.dispatcherClaim c) s = .next s) ∧
    (∀ f, c ≠ 0 → s.offer c = some f → f.src < 256 →
      (s.eligible f.src c = true → ∃ t, exec (.dispatcherClaim c) s = .next t ∧ t.offer c = none ∧ t.ic.active.getLsbD f.src = true ∧ t.ic.owner.lookup f.src = some c.val ∧
        f.src ∈ (t.core c).claimed ∧ ∀ j ∈ s.eventTasks c f.src, runs c j → (t.core c).ready.getLsbD j = true) ∧
      (s.eligible f.src c = false → ∃ t, exec (.dispatcherClaim c) s = .next t ∧ t.offer c = none ∧ t.ic.active = s.ic.active ∧
        (f.taken = true → t.get F.IC_TGT_CNT_TAKEN c = min (2 ^ F.IC_TGT_CNT_TAKEN.w - 1) (s.get F.IC_TGT_CNT_TAKEN c + 1)) ∧
        (f.taken = false → t.get F.IC_TGT_CNT_WITHDRAWN c = min (2 ^ F.IC_TGT_CNT_WITHDRAWN.w - 1) (s.get F.IC_TGT_CNT_WITHDRAWN c + 1)))) ∧
    (u.get F.FIO_GSTAT_VFIELD = m.vfield % 2 ^ F.FIO_GSTAT_VFIELD.w ∧ u.get F.CD_GSTAT_VCOIL = m.vcoil % 2 ^ F.CD_GSTAT_VCOIL.w ∧ ∀ z < 16, u.get F.ZB_PWR_STAT_IMEAS z = m.zbMA.getD z 0 % 2 ^ F.ZB_PWR_STAT_IMEAS.w ∧
      u.get F.ZB_PWR_V_VOUT z = m.zbV.getD z 0 % 2 ^ F.ZB_PWR_V_VOUT.w ∧ u.bit F.ZB_PWR_STAT_PGOOD z = decide (2000 < m.zbV.getD z 0)) ∧
    (bound = [] → exec (.statusItemsTick m) s = .next u.tickGathered) ∧
    (∀ i b, bound = [(i, b)] → let r := F.PT_BIND_REF.of b
      (∀ v good, u.statusItem (r / 2 ^ 16) (r % 2 ^ 16) = some (v, good) → exec (.statusItemsTick m) s = .next (u.ptSource i b v good).tickGathered) ∧
      (u.statusItem (r / 2 ^ 16) (r % 2 ^ 16) = none → exec (.statusItemsTick m) s = .next u.tickGathered))

/-- R447: each detected bus error is counted, and recorded while ZB_LASTERR.VALID is 0. -/
def Obligations.BusErrorIsCountedAndTheFirstRecorded : Prop :=
  ∀ (s : State) (z : Fin 16) (code : Fin 5) (add : Fin 9) (dat tx late : Bool) (tdcv : Nat), s.zbLive z = true →
    ((s.seg z).rst = true → tx = true → s.get F.ZB_ERRCNT_TEC z + add.val ≤ 255) →
    ∃ t, exec (.zbBusError z code add dat tx late tdcv) s = .next t ∧
      t.get F.ZB_CNT3_BUSERR z = min (2 ^ F.ZB_CNT3_BUSERR.w - 1) (s.get F.ZB_CNT3_BUSERR z + 1) ∧
      (s.bit F.ZB_LASTERR_VALID z = false → t.bit F.ZB_LASTERR_VALID z = true ∧ t.get F.ZB_LASTERR_CODE z = code.val + 1 ∧ t.bit F.ZB_LASTERR_DATA z = dat ∧ t.bit F.ZB_LASTERR_TX z = tx) ∧
      (s.bit F.ZB_LASTERR_VALID z = true → t.word (R.ZB_LASTERR.at z) = s.word (R.ZB_LASTERR.at z))

/-- R701: OTP's CRC is checked at t1; a failure is service mode with cause OTP_CAL and FACT_BAD. -/
def Obligations.BadOtpEndsInServiceMode : Prop :=
  ∀ (s : State) (otp : List Byte), s.boot.stage = 1 →
    let good := crc32 ((List.range 0x6FC).map (fun i => otp.getD (0x100 + i) 0)) = leVal ((otp.drop 0x7FC).take 4)
    (¬ good → ∃ t, exec (.bootOtpLoaded otp) s = .next t ∧ t.bit F.CAL_STAT_FACT_BAD = true ∧ t.service = true ∧ t.get F.BOOT_STAT_SVC = 4 ∧ t.boot.stage = 6 ∧ t.boot.tries = [] ∧
      (t.linkUp = true → ∃ u, exec .bootEnd t = .next u ∧ ∀ k, 1 ≤ k → k ≤ 3 → u.bit F.SK_CTRL_RUN k = t.bit F.SK_CTRL_RUN k)) ∧
    (good → ∃ t, exec (.bootOtpLoaded otp) s = .next t ∧ t.bit F.CAL_STAT_FACT_BAD = false ∧ t.service = s.service ∧ t.boot.stage = 2)

end
end

