-- ==== Sys2Proof/Laws/Tab.lean ====
section
/-! SUPPORT. The laws of sparse tables and of the bits of a word. -/

namespace Sys2Proof.Machine

variable {α : Type} {d : Nat → α}

theorem Tab.get_put (t : Tab α) (k : Nat) (v : α) (k' : Nat) :
    Tab.get d (Tab.put k v t) k' = if k' = k then v else Tab.get d t k' := by
  induction t with
  | nil => simp [Tab.put, Tab.get]
  | cons e t ih =>
    obtain ⟨a, x⟩ := e
    simp only [Tab.put]
    split
    · simp [Tab.get]
    · split
      · rename_i h; subst h; simp only [Tab.get]; split <;> rfl
      · simp only [Tab.get, ih]; split <;> split <;> simp_all

theorem Tab.get_del (t : Tab α) (k k' : Nat) :
    Tab.get d (Tab.del k t) k' = if k' = k then d k' else Tab.get d t k' := by
  induction t with
  | nil => simp [Tab.del, Tab.get]
  | cons e t ih =>
    obtain ⟨a, x⟩ := e
    simp only [Tab.del] at ih
    by_cases h : a = k
    · subst h; simp only [Tab.del, List.filter, ne_eq, not_true, decide_false, ih, Tab.get]; split <;> simp_all
    · simp only [Tab.del, List.filter, ne_eq, h, not_false_eq_true, decide_true, Tab.get, ih]; split <;> split <;> simp_all

/-- Read after write, at every key. -/
theorem Tab.get_set [DecidableEq α] (t : Tab α) (k : Nat) (v : α) (k' : Nat) :
    Tab.get d (Tab.set d t k v) k' = if k' = k then v else Tab.get d t k' := by
  unfold Tab.set
  split
  · rename_i h; rw [Tab.get_del]; split
    · rename_i e; rw [e, ← h]
    · rfl
  · exact Tab.get_put t k v k'

@[simp] theorem Tab.get_set_same [DecidableEq α] (t : Tab α) (k : Nat) (v : α) : Tab.get d (Tab.set d t k v) k = v := by
  simp [Tab.get_set]

@[simp] theorem Tab.get_put_same (t : Tab α) (k : Nat) (v : α) : Tab.get d (Tab.put k v t) k = v := by simp [Tab.get_put]

@[simp] theorem Tab.get_del_same (t : Tab α) (k : Nat) : Tab.get d (Tab.del k t) k = d k := by simp [Tab.get_del]

@[simp] theorem Tab.get_nil (k : Nat) : Tab.get d ([] : Tab α) k = d k := rfl

theorem Tab.mem_put {t : Tab α} {k : Nat} {v : α} {e : Nat × α} (h : e ∈ Tab.put k v t) : e = (k, v) ∨ e ∈ t := by
  induction t with
  | nil => simp [Tab.put] at h; exact .inl h
  | cons x t ih =>
    obtain ⟨a, y⟩ := x
    simp only [Tab.put] at h
    split at h
    · simp at h ⊢; tauto
    · split at h
      · simp at h ⊢; tauto
      · simp at h ⊢
        rcases h with h | h
        · tauto
        · have := ih h; tauto

/-- A part of a table in canonical form is in canonical form. -/
theorem Tab.wf_filter {t : Tab α} (p : Nat × α → Bool) (h : Tab.wf d t) : Tab.wf d (t.filter p) :=
  ⟨h.1.sublist List.filter_sublist, fun e he => h.2 e (List.mem_of_mem_filter he)⟩

theorem Tab.wf_put {t : Tab α} {k : Nat} {v : α} (h : Tab.wf d t) (hv : v ≠ d k) : Tab.wf d (Tab.put k v t) := by
  refine ⟨?_, fun e he => ?_⟩
  · have hs := h.1
    clear h
    induction t with
    | nil => exact List.pairwise_singleton _ _
    | cons x t ih =>
      obtain ⟨a, y⟩ := x
      rw [List.pairwise_cons] at hs
      simp only [Tab.put]
      split
      · rename_i hk
        rw [List.pairwise_cons, List.pairwise_cons]
        refine ⟨fun e he => ?_, hs⟩
        rcases List.mem_cons.1 he with rfl | he
        · exact hk
        · exact Nat.lt_trans hk (hs.1 e he)
      · split
        · rename_i hk; subst hk; rw [List.pairwise_cons]; exact hs
        · rw [List.pairwise_cons]
          refine ⟨fun e he => ?_, ih hs.2⟩
          rcases Tab.mem_put he with rfl | he
          · show a < k; omega
          · exact hs.1 e he
  · rcases Tab.mem_put he with rfl | he
    · exact hv
    · exact h.2 e he

theorem Tab.wf_del {t : Tab α} (k : Nat) (h : Tab.wf d t) : Tab.wf d (Tab.del k t) := Tab.wf_filter _ h

/-- A write keeps the canonical form. -/
theorem Tab.wf_set [DecidableEq α] {t : Tab α} (k : Nat) (v : α) (h : Tab.wf d t) : Tab.wf d (Tab.set d t k v) := by
  unfold Tab.set
  split
  · exact Tab.wf_del k h
  · exact Tab.wf_put h ‹_›

theorem Tab.wf_nil : Tab.wf d ([] : Tab α) := ⟨List.Pairwise.nil, fun _ h => by simp at h⟩

/-- Writing in turn the entries of any list keeps the canonical form. -/
theorem Tab.wf_foldl_set [DecidableEq α] {β : Type} (l : List β) (k : β → Nat) (v : β → α) {t : Tab α} (h : Tab.wf d t) :
    Tab.wf d (l.foldl (fun t b => Tab.set d t (k b) (v b)) t) := by
  induction l generalizing t with
  | nil => exact h
  | cons b l ih => exact ih (Tab.wf_set _ _ h)

/-! ### The bits of a word -/

theorem bitsOf_lt (x : Word) (lo w : Nat) : bitsOf x lo w < 2 ^ w := Nat.mod_lt _ (Nat.two_pow_pos w)

theorem setBits_toNat (x : Word) (lo w v : Nat) (h : lo + w ≤ 32) :
    (setBits x lo w v).toNat = x.toNat % 2 ^ lo + 2 ^ lo * (v % 2 ^ w) + 2 ^ (lo + w) * (x.toNat / 2 ^ (lo + w)) := by
  have hx := x.isLt
  set X := x.toNat with hX
  set A := X % 2 ^ lo
  set Y := X / 2 ^ lo
  have hXA : X = 2 ^ lo * Y + A := (Nat.div_add_mod X (2 ^ lo)).symm
  set B := Y % 2 ^ w
  set C := Y / 2 ^ w
  have hYB : Y = 2 ^ w * C + B := (Nat.div_add_mod Y (2 ^ w)).symm
  have hC : X / 2 ^ (lo + w) = C := by rw [Nat.pow_add, ← Nat.div_div_eq_div_mul]
  have hV : v % 2 ^ w < 2 ^ w := Nat.mod_lt _ (Nat.two_pow_pos w)
  set V := v % 2 ^ w
  have hA : A < 2 ^ lo := Nat.mod_lt _ (Nat.two_pow_pos lo)
  have e1 : X = A + 2 ^ lo * B + 2 ^ (lo + w) * C := by rw [Nat.pow_add]; rw [hYB] at hXA; rw [hXA]; ring
  have e2 : ((X >>> lo) % 2 ^ w) <<< lo = 2 ^ lo * B := by
    rw [Nat.shiftRight_eq_div_pow, Nat.shiftLeft_eq, Nat.mul_comm]
  have e3 : V <<< lo = 2 ^ lo * V := by rw [Nat.shiftLeft_eq]; ring
  have hsum : A + 2 ^ lo * V < 2 ^ (lo + w) := by
    rw [Nat.pow_add]
    have : 2 ^ lo * V + 2 ^ lo ≤ 2 ^ lo * 2 ^ w := by
      have : 2 ^ lo * (V + 1) ≤ 2 ^ lo * 2 ^ w := Nat.mul_le_mul_left _ hV
      linarith [Nat.mul_add (2 ^ lo) V 1]
    omega
  have hP : 2 ^ (lo + w) * 2 ^ (32 - (lo + w)) = 2 ^ 32 := by rw [← Nat.pow_add]; congr 1; omega
  have hCb : C < 2 ^ (32 - (lo + w)) := by
    rw [← hC]; apply Nat.div_lt_of_lt_mul; rw [hP]; exact hx
  have hCm : 2 ^ (lo + w) * (C + 1) ≤ 2 ^ 32 := by rw [← hP]; exact Nat.mul_le_mul_left _ hCb
  rw [hC]
  show (BitVec.ofNat 32 (X - ((X >>> lo) % 2 ^ w) <<< lo + V <<< lo)).toNat = _
  rw [BitVec.toNat_ofNat, e2, e3]
  have : X - 2 ^ lo * B + 2 ^ lo * V = A + 2 ^ lo * V + 2 ^ (lo + w) * C := by omega
  rw [this]
  apply Nat.mod_eq_of_lt
  rw [Nat.mul_add] at hCm
  omega

/-- A field read after it was set. -/
theorem bitsOf_setBits_same (x : Word) (lo w v : Nat) (h : lo + w ≤ 32) : bitsOf (setBits x lo w v) lo w = v % 2 ^ w := by
  unfold bitsOf
  rw [setBits_toNat x lo w v h, Nat.shiftRight_eq_div_pow]
  have hA : x.toNat % 2 ^ lo < 2 ^ lo := Nat.mod_lt _ (Nat.two_pow_pos lo)
  have : x.toNat % 2 ^ lo + 2 ^ lo * (v % 2 ^ w) + 2 ^ (lo + w) * (x.toNat / 2 ^ (lo + w))
      = x.toNat % 2 ^ lo + 2 ^ lo * (v % 2 ^ w + 2 ^ w * (x.toNat / 2 ^ (lo + w))) := by rw [Nat.pow_add]; ring
  rw [this, Nat.add_mul_div_left _ _ (Nat.two_pow_pos lo), Nat.div_eq_of_lt hA, Nat.zero_add, Nat.add_mul_mod_self_left, Nat.mod_mod]

/-- A field that lies beside the one set is not changed. -/
theorem bitsOf_setBits_ne (x : Word) (lo w v lo' w' : Nat) (h : lo + w ≤ 32) (hd : lo' + w' ≤ lo ∨ lo + w ≤ lo') :
    bitsOf (setBits x lo w v) lo' w' = bitsOf x lo' w' := by
  unfold bitsOf
  rw [setBits_toNat x lo w v h, Nat.shiftRight_eq_div_pow, Nat.shiftRight_eq_div_pow]
  set X := x.toNat
  set C := X / 2 ^ (lo + w)
  have hC : X = X % 2 ^ (lo + w) + 2 ^ (lo + w) * C := by
    exact (Nat.mod_add_div X _).symm
  rcases hd with hd | hd
  · obtain ⟨k, hk⟩ := Nat.exists_eq_add_of_le hd
    have key : ∀ Y Z : Nat, (Y + 2 ^ lo * Z) / 2 ^ lo' % 2 ^ w' = Y / 2 ^ lo' % 2 ^ w' := by
      intro Y Z
      have : Y + 2 ^ lo * Z = Y + 2 ^ lo' * (2 ^ w' * (2 ^ k * Z)) := by rw [hk, Nat.pow_add, Nat.pow_add]; ring
      rw [this, Nat.add_mul_div_left _ _ (Nat.two_pow_pos lo'), Nat.add_mul_mod_self_left]
    have e1 : X % 2 ^ lo + 2 ^ lo * (v % 2 ^ w) + 2 ^ (lo + w) * C = X % 2 ^ lo + 2 ^ lo * (v % 2 ^ w + 2 ^ w * C) := by
      rw [Nat.pow_add]; ring
    have e2 : X = X % 2 ^ lo + 2 ^ lo * (X / 2 ^ lo) := by exact (Nat.mod_add_div X _).symm
    rw [e1, key]
    conv_rhs => rw [e2, key]
  · obtain ⟨k, hk⟩ := Nat.exists_eq_add_of_le hd
    have hs : X % 2 ^ lo + 2 ^ lo * (v % 2 ^ w) < 2 ^ (lo + w) := by
      have hA : X % 2 ^ lo < 2 ^ lo := Nat.mod_lt _ (Nat.two_pow_pos lo)
      have hV : v % 2 ^ w < 2 ^ w := Nat.mod_lt _ (Nat.two_pow_pos w)
      rw [Nat.pow_add]
      have : 2 ^ lo * (v % 2 ^ w + 1) ≤ 2 ^ lo * 2 ^ w := Nat.mul_le_mul_left _ hV
      rw [Nat.mul_add] at this
      omega
    have key : ∀ Y : Nat, Y < 2 ^ (lo + w) → (Y + 2 ^ (lo + w) * C) / 2 ^ lo' = C / 2 ^ k := by
      intro Y hY
      rw [hk, Nat.pow_add 2 (lo + w) k, ← Nat.div_div_eq_div_mul, Nat.add_mul_div_left _ _ (Nat.two_pow_pos _),
        Nat.div_eq_of_lt hY, Nat.zero_add]
    rw [key _ hs]
    conv_rhs => rw [hC]
    rw [key _ (Nat.mod_lt _ (Nat.two_pow_pos _))]

end Sys2Proof.Machine
end

