-- ==== Sys2Proof/Laws/Keeps.lean ====
section
/-! SUPPORT. What the updates of the state's fields keep, and the rules by which what a step keeps is put together. -/

namespace Sys2Proof.Machine

theorem Keeps.refl (m : Part → Prop) (s : State) : Keeps m s s where
  pending := rfl
  clock := Nat.le_refl _
  wf := id
  space := .inr rfl
  now := .inr rfl
  campusOff := .inr rfl
  bootAt := .inr rfl
  free := .inr rfl
  rdata := .inr rfl
  wres := .inr rfl
  banks := .inr rfl
  log := .inr rfl
  ten := .inr rfl
  exLast := .inr rfl
  exAt := .inr rfl
  ic := .inr rfl
  broken := .inr rfl
  pub := .inr rfl
  zoneEv := .inr rfl
  safe := .inr rfl
  safeLoaded := .inr rfl
  safeUnrec := .inr rfl
  safeIrq := .inr rfl
  rtcOff := .inr rfl
  rtcHeld := .inr rfl
  cmds := .inr rfl
  cd := .inr rfl
  cdg := .inr rfl
  fwd := .inr rfl
  sk := .inr rfl
  sk0mem := .inr rfl
  subIn := .inr rfl
  subOut := .inr rfl
  cl := .inr rfl
  isl := .inr rfl
  adc := .inr rfl
  fan := .inr rfl
  fio := .inr rfl
  zb := .inr rfl
  pnl := .inr rfl
  hb := .inr rfl
  boot := .inr rfl
  clk := .inr rfl
  pdErrs := .inr rfl
  ucal := .inr rfl
  frame := .inr rfl
  le := .inr rfl

theorem Keeps.bind {m : Part → Prop} {s0 y : State} (x : State) (hx : Keeps m s0 x) (h : Keeps m s0 x → Keeps m s0 y) : Keeps m s0 y := h hx

theorem Keeps.ite {m : Part → Prop} {s0 x y : State} {c : Prop} [Decidable c] (hx : c → Keeps m s0 x) (hy : ¬c → Keeps m s0 y) :
    Keeps m s0 (if c then x else y) := by
  split
  · exact hx ‹_›
  · exact hy ‹_›

/-- What a command's answer keeps. -/
structure KeepsO (m : Part → Prop) (s0 : State) (o : Out) : Prop where
  next_keeps : ∀ t, o = .next t → Keeps m s0 t

theorem KeepsO.next {m : Part → Prop} {s0 t : State} (h : Keeps m s0 t) : KeepsO m s0 (.next t) :=
  ⟨fun _ e => by cases e; exact h⟩

theorem KeepsO.bind {m : Part → Prop} {s0 : State} {o : Out} (x : State) (hx : Keeps m s0 x) (h : Keeps m s0 x → KeepsO m s0 o) :
    KeepsO m s0 o := h hx

theorem Keeps.of_fst {α : Type} {m : Part → Prop} {s0 t : State} {p : State × α} {a : α} (e : p = (t, a)) (h : Keeps m s0 p.1) : Keeps m s0 t := by
  subst e; exact h

theorem Keeps.of_snd {α : Type} {m : Part → Prop} {s0 t : State} {p : α × State} {a : α} (e : p = (a, t)) (h : Keeps m s0 p.2) : Keeps m s0 t := by
  subst e; exact h

theorem Keeps.of_4 {α β γ : Type} {m : Part → Prop} {s0 t : State} {p : α × β × γ × State} {a : α} {b : β} {c : γ} (e : p = (a, b, c, t))
    (h : Keeps m s0 p.2.2.2) : Keeps m s0 t := by
  subst e; exact h

/-- A step over a list keeps what each of its steps keeps. -/
theorem Keeps.foldl {α : Type} {m : Part → Prop} {s0 : State} (f : State → α → State) (l : List α) (s : State) (hs : Keeps m s0 s)
    (hf : ∀ s a, Keeps m s0 s → Keeps m s0 (f s a)) : Keeps m s0 (l.foldl f s) := by
  induction l generalizing s with
  | nil => exact hs
  | cons a l ih => exact ih _ (hf _ _ hs)

/-- The same where a step also answers something. -/
theorem Keeps.foldl_fst {α β : Type} {m : Part → Prop} {s0 : State} (f : State × β → α → State × β) (l : List α) (r : State × β)
    (hr : Keeps m s0 r.1) (hf : ∀ r a, Keeps m s0 r.1 → Keeps m s0 (f r a).1) : Keeps m s0 (l.foldl f r).1 := by
  induction l generalizing r with
  | nil => exact hr
  | cons a l ih => exact ih _ (hf _ _ hr)

theorem Keeps.upd_adc {m : Part → Prop} {s0 s : State} (madc : m .adc) {xadc} :
    Keeps m s0 { s with adc := xadc } ↔ Keeps m s0 s :=
  ⟨fun h => { h with adc := .inl madc }, fun h => { h with adc := .inl madc }⟩

theorem Keeps.upd_banks {m : Part → Prop} {s0 s : State} (mbanks : m .banks) {xbanks} :
    Keeps m s0 { s with banks := xbanks } ↔ Keeps m s0 s :=
  ⟨fun h => { h with banks := .inl mbanks }, fun h => { h with banks := .inl mbanks }⟩

theorem Keeps.upd_boot {m : Part → Prop} {s0 s : State} (mboot : m .boot) {xboot} :
    Keeps m s0 { s with boot := xboot } ↔ Keeps m s0 s :=
  ⟨fun h => { h with boot := .inl mboot }, fun h => { h with boot := .inl mboot }⟩

theorem Keeps.upd_broken {m : Part → Prop} {s0 s : State} (mbroken : m .broken) {xbroken} :
    Keeps m s0 { s with broken := xbroken } ↔ Keeps m s0 s :=
  ⟨fun h => { h with broken := .inl mbroken }, fun h => { h with broken := .inl mbroken }⟩

theorem Keeps.upd_campusOff_bootAt {m : Part → Prop} {s0 s : State} (mcampusOff : m .campusOff) (mbootAt : m .bootAt) {xcampusOff} {xbootAt} :
    Keeps m s0 { s with campusOff := xcampusOff, bootAt := xbootAt } ↔ Keeps m s0 s :=
  ⟨fun h => { h with campusOff := .inl mcampusOff, bootAt := .inl mbootAt }, fun h => { h with campusOff := .inl mcampusOff, bootAt := .inl mbootAt }⟩

theorem Keeps.upd_campusOff_cl {m : Part → Prop} {s0 s : State} (mcampusOff : m .campusOff) (mcl : m .cl) {xcampusOff} {xcl} :
    Keeps m s0 { s with campusOff := xcampusOff, cl := xcl } ↔ Keeps m s0 s :=
  ⟨fun h => { h with campusOff := .inl mcampusOff, cl := .inl mcl }, fun h => { h with campusOff := .inl mcampusOff, cl := .inl mcl }⟩

theorem Keeps.upd_cd {m : Part → Prop} {s0 s : State} (mcd : m .cd) {xcd} :
    Keeps m s0 { s with cd := xcd } ↔ Keeps m s0 s :=
  ⟨fun h => { h with cd := .inl mcd }, fun h => { h with cd := .inl mcd }⟩

theorem Keeps.upd_cd_adc {m : Part → Prop} {s0 s : State} (mcd : m .cd) (madc : m .adc) {xcd} {xadc} :
    Keeps m s0 { s with cd := xcd, adc := xadc } ↔ Keeps m s0 s :=
  ⟨fun h => { h with cd := .inl mcd, adc := .inl madc }, fun h => { h with cd := .inl mcd, adc := .inl madc }⟩

theorem Keeps.upd_cdg {m : Part → Prop} {s0 s : State} (mcdg : m .cdg) {xcdg} :
    Keeps m s0 { s with cdg := xcdg } ↔ Keeps m s0 s :=
  ⟨fun h => { h with cdg := .inl mcdg }, fun h => { h with cdg := .inl mcdg }⟩

theorem Keeps.upd_cl {m : Part → Prop} {s0 s : State} (mcl : m .cl) {xcl} :
    Keeps m s0 { s with cl := xcl } ↔ Keeps m s0 s :=
  ⟨fun h => { h with cl := .inl mcl }, fun h => { h with cl := .inl mcl }⟩

theorem Keeps.upd_cl_isl {m : Part → Prop} {s0 s : State} (mcl : m .cl) (misl : m .isl) {xcl} {xisl} :
    Keeps m s0 { s with cl := xcl, isl := xisl } ↔ Keeps m s0 s :=
  ⟨fun h => { h with cl := .inl mcl, isl := .inl misl }, fun h => { h with cl := .inl mcl, isl := .inl misl }⟩

theorem Keeps.upd_clk {m : Part → Prop} {s0 s : State} (mclk : m .clk) {xclk} :
    Keeps m s0 { s with clk := xclk } ↔ Keeps m s0 s :=
  ⟨fun h => { h with clk := .inl mclk }, fun h => { h with clk := .inl mclk }⟩

theorem Keeps.upd_cmds {m : Part → Prop} {s0 s : State} (mcmds : m .cmds) {xcmds} :
    Keeps m s0 { s with cmds := xcmds } ↔ Keeps m s0 s :=
  ⟨fun h => { h with cmds := .inl mcmds }, fun h => { h with cmds := .inl mcmds }⟩

theorem Keeps.upd_exLast_exAt {m : Part → Prop} {s0 s : State} (mexLast : m .exLast) (mexAt : m .exAt) {xexLast} {xexAt} :
    Keeps m s0 { s with exLast := xexLast, exAt := xexAt } ↔ Keeps m s0 s :=
  ⟨fun h => { h with exLast := .inl mexLast, exAt := .inl mexAt }, fun h => { h with exLast := .inl mexLast, exAt := .inl mexAt }⟩

theorem Keeps.upd_fan {m : Part → Prop} {s0 s : State} (mfan : m .fan) {xfan} :
    Keeps m s0 { s with fan := xfan } ↔ Keeps m s0 s :=
  ⟨fun h => { h with fan := .inl mfan }, fun h => { h with fan := .inl mfan }⟩

theorem Keeps.upd_fio {m : Part → Prop} {s0 s : State} (mfio : m .fio) {xfio} :
    Keeps m s0 { s with fio := xfio } ↔ Keeps m s0 s :=
  ⟨fun h => { h with fio := .inl mfio }, fun h => { h with fio := .inl mfio }⟩

theorem Keeps.upd_frame {m : Part → Prop} {s0 s : State} (mframe : m .frame) {xframe} :
    Keeps m s0 { s with frame := xframe } ↔ Keeps m s0 s :=
  ⟨fun h => { h with frame := .inl mframe }, fun h => { h with frame := .inl mframe }⟩

theorem Keeps.upd_free {m : Part → Prop} {s0 s : State} (mfree : m .free) {xfree} :
    Keeps m s0 { s with free := xfree } ↔ Keeps m s0 s :=
  ⟨fun h => { h with free := .inl mfree }, fun h => { h with free := .inl mfree }⟩

theorem Keeps.upd_fwd {m : Part → Prop} {s0 s : State} (mfwd : m .fwd) {xfwd} :
    Keeps m s0 { s with fwd := xfwd } ↔ Keeps m s0 s :=
  ⟨fun h => { h with fwd := .inl mfwd }, fun h => { h with fwd := .inl mfwd }⟩

theorem Keeps.upd_hb {m : Part → Prop} {s0 s : State} (mhb : m .hb) {xhb} :
    Keeps m s0 { s with hb := xhb } ↔ Keeps m s0 s :=
  ⟨fun h => { h with hb := .inl mhb }, fun h => { h with hb := .inl mhb }⟩

theorem Keeps.upd_ic {m : Part → Prop} {s0 s : State} (mic : m .ic) {xic} :
    Keeps m s0 { s with ic := xic } ↔ Keeps m s0 s :=
  ⟨fun h => { h with ic := .inl mic }, fun h => { h with ic := .inl mic }⟩

theorem Keeps.upd_isl {m : Part → Prop} {s0 s : State} (misl : m .isl) {xisl} :
    Keeps m s0 { s with isl := xisl } ↔ Keeps m s0 s :=
  ⟨fun h => { h with isl := .inl misl }, fun h => { h with isl := .inl misl }⟩

theorem Keeps.upd_le {m : Part → Prop} {s0 s : State} (mle : m .le) {xle} :
    Keeps m s0 { s with le := xle } ↔ Keeps m s0 s :=
  ⟨fun h => { h with le := .inl mle }, fun h => { h with le := .inl mle }⟩

theorem Keeps.upd_log {m : Part → Prop} {s0 s : State} (mlog : m .log) {xlog} :
    Keeps m s0 { s with log := xlog } ↔ Keeps m s0 s :=
  ⟨fun h => { h with log := .inl mlog }, fun h => { h with log := .inl mlog }⟩

theorem Keeps.upd_pdErrs {m : Part → Prop} {s0 s : State} (mpdErrs : m .pdErrs) {xpdErrs} :
    Keeps m s0 { s with pdErrs := xpdErrs } ↔ Keeps m s0 s :=
  ⟨fun h => { h with pdErrs := .inl mpdErrs }, fun h => { h with pdErrs := .inl mpdErrs }⟩

theorem Keeps.upd_pnl {m : Part → Prop} {s0 s : State} (mpnl : m .pnl) {xpnl} :
    Keeps m s0 { s with pnl := xpnl } ↔ Keeps m s0 s :=
  ⟨fun h => { h with pnl := .inl mpnl }, fun h => { h with pnl := .inl mpnl }⟩

theorem Keeps.upd_pub {m : Part → Prop} {s0 s : State} (mpub : m .pub) {xpub} :
    Keeps m s0 { s with pub := xpub } ↔ Keeps m s0 s :=
  ⟨fun h => { h with pub := .inl mpub }, fun h => { h with pub := .inl mpub }⟩

theorem Keeps.upd_rdata {m : Part → Prop} {s0 s : State} (mrdata : m .rdata) {xrdata} :
    Keeps m s0 { s with rdata := xrdata } ↔ Keeps m s0 s :=
  ⟨fun h => { h with rdata := .inl mrdata }, fun h => { h with rdata := .inl mrdata }⟩

theorem Keeps.upd_rdata_wres {m : Part → Prop} {s0 s : State} (mrdata : m .rdata) (mwres : m .wres) {xrdata} {xwres} :
    Keeps m s0 { s with rdata := xrdata, wres := xwres } ↔ Keeps m s0 s :=
  ⟨fun h => { h with rdata := .inl mrdata, wres := .inl mwres }, fun h => { h with rdata := .inl mrdata, wres := .inl mwres }⟩

theorem Keeps.upd_rtcHeld {m : Part → Prop} {s0 s : State} (mrtcHeld : m .rtcHeld) {xrtcHeld} :
    Keeps m s0 { s with rtcHeld := xrtcHeld } ↔ Keeps m s0 s :=
  ⟨fun h => { h with rtcHeld := .inl mrtcHeld }, fun h => { h with rtcHeld := .inl mrtcHeld }⟩

theorem Keeps.upd_rtcOff {m : Part → Prop} {s0 s : State} (mrtcOff : m .rtcOff) {xrtcOff} :
    Keeps m s0 { s with rtcOff := xrtcOff } ↔ Keeps m s0 s :=
  ⟨fun h => { h with rtcOff := .inl mrtcOff }, fun h => { h with rtcOff := .inl mrtcOff }⟩

theorem Keeps.upd_rtcOff_rtcHeld {m : Part → Prop} {s0 s : State} (mrtcOff : m .rtcOff) (mrtcHeld : m .rtcHeld) {xrtcOff} {xrtcHeld} :
    Keeps m s0 { s with rtcOff := xrtcOff, rtcHeld := xrtcHeld } ↔ Keeps m s0 s :=
  ⟨fun h => { h with rtcOff := .inl mrtcOff, rtcHeld := .inl mrtcHeld }, fun h => { h with rtcOff := .inl mrtcOff, rtcHeld := .inl mrtcHeld }⟩

theorem Keeps.upd_safe {m : Part → Prop} {s0 s : State} (msafe : m .safe) {xsafe} :
    Keeps m s0 { s with safe := xsafe } ↔ Keeps m s0 s :=
  ⟨fun h => { h with safe := .inl msafe }, fun h => { h with safe := .inl msafe }⟩

theorem Keeps.upd_safeIrq {m : Part → Prop} {s0 s : State} (msafeIrq : m .safeIrq) {xsafeIrq} :
    Keeps m s0 { s with safeIrq := xsafeIrq } ↔ Keeps m s0 s :=
  ⟨fun h => { h with safeIrq := .inl msafeIrq }, fun h => { h with safeIrq := .inl msafeIrq }⟩

theorem Keeps.upd_safeLoaded {m : Part → Prop} {s0 s : State} (msafeLoaded : m .safeLoaded) {xsafeLoaded} :
    Keeps m s0 { s with safeLoaded := xsafeLoaded } ↔ Keeps m s0 s :=
  ⟨fun h => { h with safeLoaded := .inl msafeLoaded }, fun h => { h with safeLoaded := .inl msafeLoaded }⟩

theorem Keeps.upd_safeUnrec {m : Part → Prop} {s0 s : State} (msafeUnrec : m .safeUnrec) {xsafeUnrec} :
    Keeps m s0 { s with safeUnrec := xsafeUnrec } ↔ Keeps m s0 s :=
  ⟨fun h => { h with safeUnrec := .inl msafeUnrec }, fun h => { h with safeUnrec := .inl msafeUnrec }⟩

theorem Keeps.upd_safeUnrec_rtcOff_rtcHeld {m : Part → Prop} {s0 s : State} (msafeUnrec : m .safeUnrec) (mrtcOff : m .rtcOff) (mrtcHeld : m .rtcHeld) {xsafeUnrec} {xrtcOff} {xrtcHeld} :
    Keeps m s0 { s with safeUnrec := xsafeUnrec, rtcOff := xrtcOff, rtcHeld := xrtcHeld } ↔ Keeps m s0 s :=
  ⟨fun h => { h with safeUnrec := .inl msafeUnrec, rtcOff := .inl mrtcOff, rtcHeld := .inl mrtcHeld }, fun h => { h with safeUnrec := .inl msafeUnrec, rtcOff := .inl mrtcOff, rtcHeld := .inl mrtcHeld }⟩

theorem Keeps.upd_safeUnrec_safeIrq {m : Part → Prop} {s0 s : State} (msafeUnrec : m .safeUnrec) (msafeIrq : m .safeIrq) {xsafeUnrec} {xsafeIrq} :
    Keeps m s0 { s with safeUnrec := xsafeUnrec, safeIrq := xsafeIrq } ↔ Keeps m s0 s :=
  ⟨fun h => { h with safeUnrec := .inl msafeUnrec, safeIrq := .inl msafeIrq }, fun h => { h with safeUnrec := .inl msafeUnrec, safeIrq := .inl msafeIrq }⟩

theorem Keeps.upd_sk {m : Part → Prop} {s0 s : State} (msk : m .sk) {xsk} :
    Keeps m s0 { s with sk := xsk } ↔ Keeps m s0 s :=
  ⟨fun h => { h with sk := .inl msk }, fun h => { h with sk := .inl msk }⟩

theorem Keeps.upd_sk0mem {m : Part → Prop} {s0 s : State} (msk0mem : m .sk0mem) {xsk0mem} :
    Keeps m s0 { s with sk0mem := xsk0mem } ↔ Keeps m s0 s :=
  ⟨fun h => { h with sk0mem := .inl msk0mem }, fun h => { h with sk0mem := .inl msk0mem }⟩

theorem Keeps.upd_subIn {m : Part → Prop} {s0 s : State} (msubIn : m .subIn) {xsubIn} :
    Keeps m s0 { s with subIn := xsubIn } ↔ Keeps m s0 s :=
  ⟨fun h => { h with subIn := .inl msubIn }, fun h => { h with subIn := .inl msubIn }⟩

theorem Keeps.upd_subOut {m : Part → Prop} {s0 s : State} (msubOut : m .subOut) {xsubOut} :
    Keeps m s0 { s with subOut := xsubOut } ↔ Keeps m s0 s :=
  ⟨fun h => { h with subOut := .inl msubOut }, fun h => { h with subOut := .inl msubOut }⟩

theorem Keeps.upd_subOut_isl {m : Part → Prop} {s0 s : State} (msubOut : m .subOut) (misl : m .isl) {xsubOut} {xisl} :
    Keeps m s0 { s with subOut := xsubOut, isl := xisl } ↔ Keeps m s0 s :=
  ⟨fun h => { h with subOut := .inl msubOut, isl := .inl misl }, fun h => { h with subOut := .inl msubOut, isl := .inl misl }⟩

theorem Keeps.upd_ten {m : Part → Prop} {s0 s : State} (mten : m .ten) {xten} :
    Keeps m s0 { s with ten := xten } ↔ Keeps m s0 s :=
  ⟨fun h => { h with ten := .inl mten }, fun h => { h with ten := .inl mten }⟩

theorem Keeps.upd_ucal {m : Part → Prop} {s0 s : State} (mucal : m .ucal) {xucal} :
    Keeps m s0 { s with ucal := xucal } ↔ Keeps m s0 s :=
  ⟨fun h => { h with ucal := .inl mucal }, fun h => { h with ucal := .inl mucal }⟩

theorem Keeps.upd_wres {m : Part → Prop} {s0 s : State} (mwres : m .wres) {xwres} :
    Keeps m s0 { s with wres := xwres } ↔ Keeps m s0 s :=
  ⟨fun h => { h with wres := .inl mwres }, fun h => { h with wres := .inl mwres }⟩

theorem Keeps.upd_zb {m : Part → Prop} {s0 s : State} (mzb : m .zb) {xzb} :
    Keeps m s0 { s with zb := xzb } ↔ Keeps m s0 s :=
  ⟨fun h => { h with zb := .inl mzb }, fun h => { h with zb := .inl mzb }⟩

theorem Keeps.upd_zoneEv {m : Part → Prop} {s0 s : State} (mzoneEv : m .zoneEv) {xzoneEv} :
    Keeps m s0 { s with zoneEv := xzoneEv } ↔ Keeps m s0 s :=
  ⟨fun h => { h with zoneEv := .inl mzoneEv }, fun h => { h with zoneEv := .inl mzoneEv }⟩

theorem Keeps.upd_subOut_cl {m : Part → Prop} {s0 s : State} (msubOut : m .subOut) (mcl : m .cl) {xsubOut} {xcl} :
    Keeps m s0 { s with subOut := xsubOut, cl := xcl } ↔ Keeps m s0 s :=
  ⟨fun h => { h with subOut := .inl msubOut, cl := .inl mcl }, fun h => { h with subOut := .inl msubOut, cl := .inl mcl }⟩

theorem Keeps.upd_fwd_clk {m : Part → Prop} {s0 s : State} (mfwd : m .fwd) (mclk : m .clk) {xfwd} {xclk} :
    Keeps m s0 { s with fwd := xfwd, clk := xclk } ↔ Keeps m s0 s :=
  ⟨fun h => { h with fwd := .inl mfwd, clk := .inl mclk }, fun h => { h with fwd := .inl mfwd, clk := .inl mclk }⟩

end Sys2Proof.Machine
end

