-- ==== Sys2Proof/Laws/KeepsOps.lean ====
section
/-! SUPPORT. What each operation of Machine/Ops.lean keeps: the queue, the clock's direction, the canonical form of the register
space, and every part of the state it does not name (`Keeps`). -/

set_option linter.unusedTactic false
set_option linter.unreachableTactic false
set_option linter.unusedSimpArgs false
set_option linter.unusedVariables false

namespace Sys2Proof.Machine

variable {μ : Part → Prop} {σ : State}

theorem Keeps.setWord (s : State) (a : ℕ) (v : Word) (hs : Keeps μ σ s) (m_space : μ .space) :
    Keeps μ σ (State.setWord s a v) :=
  { hs with wf := fun w => Tab.wf_set a v (hs.wf w), space := .inl m_space }

theorem Keeps.put (s : State) (f : Fld) (v : ℕ) (i : ℕ) (j : ℕ) (hs : Keeps μ σ s) (m_space : μ .space) :
    Keeps μ σ (State.put s f v i j) := by
  unfold State.put
  repeat' first
    | with_reducible assumption
    | intro _
    | with_reducible apply Keeps.ite
    | with_reducible apply Keeps.setWord

theorem Keeps.putIf (s : State) (c : Bool) (f : Fld) (v : ℕ) (i : ℕ) (j : ℕ) (hs : Keeps μ σ s) (m_space : μ .space) :
    Keeps μ σ (State.putIf s c f v i j) := by
  unfold State.putIf
  repeat' first
    | with_reducible assumption
    | intro _
    | with_reducible apply Keeps.ite
    | with_reducible apply Keeps.put

theorem Keeps.inc (s : State) (f : Fld) (n : ℕ) (i : ℕ) (j : ℕ) (hs : Keeps μ σ s) (m_space : μ .space) :
    Keeps μ σ (State.inc s f n i j) := by
  unfold State.inc
  repeat' first
    | with_reducible assumption
    | intro _
    | with_reducible apply Keeps.ite
    | with_reducible apply Keeps.put

theorem Keeps.slewBy (s : State) (dt : ℕ) (hs : Keeps μ σ s) (m_campusOff : μ .campusOff) (m_cl : μ .cl) :
    Keeps μ σ (State.slewBy s dt) := by
  unfold State.slewBy
  repeat' first
    | with_reducible assumption
    | intro _
    | with_reducible apply Keeps.ite
    | ((fail_if_no_progress extract_lets +onlyGivenNames x); first | (refine Keeps.bind x ?_ ?_; (try subst x); rotate_left; intro hx; rotate_left) | skip)
    | simp only [Keeps.upd_campusOff_cl m_campusOff m_cl]

theorem Keeps.reach (s : State) (t : ℕ) (hs : Keeps μ σ s) (m_now : μ .now) (m_campusOff : μ .campusOff) (m_cl : μ .cl) :
    Keeps μ σ (State.reach s t) := by
  unfold State.reach
  split
  · exact hs
  · have h := Keeps.slewBy (s := s) (t - s.now) hs m_campusOff m_cl
    have hn : (s.slewBy (t - s.now)).now = s.now := by unfold State.slewBy; split <;> rfl
    exact { h with clock := by have := h.clock; simp only; omega, now := .inl m_now }

theorem Keeps.pdDo (s : State) (f : State → State) (hs : Keeps μ σ s) (hf : ∀ a0, Keeps μ σ a0 → Keeps μ σ (f a0)) :
    Keeps μ σ (State.pdDo s f) := by
  unfold State.pdDo
  repeat' first
    | with_reducible assumption
    | intro _
    | with_reducible apply Keeps.ite
    | ((fail_if_no_progress extract_lets +onlyGivenNames x); first | (refine Keeps.bind x ?_ ?_; (try subst x); rotate_left; intro hx; rotate_left) | skip)
    | with_reducible apply hf
    | split
    | simp only [id_eq]

theorem Keeps.setBank (s : State) (b : ℕ) (x : Bank) (hs : Keeps μ σ s) (m_banks : μ .banks) :
    Keeps μ σ (State.setBank s b x) := by
  unfold State.setBank
  repeat' first
    | with_reducible assumption
    | intro _
    | with_reducible apply Keeps.ite
    | simp only [Keeps.upd_banks m_banks]

theorem Keeps.fresh (s : State) (hs : Keeps μ σ s) (m_free : μ .free) :
    Keeps μ σ (State.fresh s) := by
  unfold State.fresh
  repeat' first
    | with_reducible assumption
    | intro _
    | with_reducible apply Keeps.ite
    | simp only [Keeps.upd_free m_free]

theorem Keeps.each {α : Type} (s : State) (l : List α) (f : α → State → State) (hs : Keeps μ σ s) (hf : ∀ a0 a1, Keeps μ σ a1 → Keeps μ σ (f a0 a1)) :
    Keeps μ σ (State.each s l f) := by
  unfold State.each
  exact Keeps.foldl _ _ _ hs (fun s a h => hf a s h)

theorem Keeps.dropCap (s : State) (b : ℕ) (hs : Keeps μ σ s) (m_banks : μ .banks) :
    Keeps μ σ (State.dropCap s b) := by
  unfold State.dropCap
  repeat' first
    | with_reducible assumption
    | intro _
    | with_reducible apply Keeps.ite
    | ((fail_if_no_progress extract_lets +onlyGivenNames x); first | (refine Keeps.bind x ?_ ?_; (try subst x); rotate_left; intro hx; rotate_left) | skip)
    | with_reducible apply Keeps.setBank

theorem Keeps.laneRefused (s : State) (hs : Keeps μ σ s) (m_space : μ .space) (m_wres : μ .wres) :
    Keeps μ σ (State.laneRefused s) := by
  unfold State.laneRefused
  repeat' first
    | with_reducible assumption
    | intro _
    | with_reducible apply Keeps.ite
    | ((fail_if_no_progress extract_lets +onlyGivenNames x); first | (refine Keeps.bind x ?_ ?_; (try subst x); rotate_left; intro hx; rotate_left) | skip)
    | with_reducible apply Keeps.inc
    | simp only [Keeps.upd_wres m_wres]

theorem Keeps.asWho (s : State) (w : Who) (f : Who → State → State) (hs : Keeps μ σ s) (hf : ∀ a0 a1, Keeps μ σ a1 → Keeps μ σ (f a0 a1)) (m_space : μ .space) (m_wres : μ .wres) (m_banks : μ .banks) :
    Keeps μ σ (State.asWho s w f) := by
  unfold State.asWho
  repeat' first
    | with_reducible assumption
    | intro _
    | with_reducible apply Keeps.ite
    | with_reducible apply hf
    | with_reducible apply Keeps.dropCap
    | with_reducible apply Keeps.laneRefused

theorem Keeps.asPosted (s : State) (w : Who) (f : Who → State → State) (hs : Keeps μ σ s) (hf : ∀ a0 a1, Keeps μ σ a1 → Keeps μ σ (f a0 a1)) (m_space : μ .space) (m_wres : μ .wres) :
    Keeps μ σ (State.asPosted s w f) := by
  unfold State.asPosted
  repeat' first
    | with_reducible assumption
    | intro _
    | with_reducible apply Keeps.ite
    | ((fail_if_no_progress extract_lets +onlyGivenNames x); first | (refine Keeps.bind x ?_ ?_; (try subst x); rotate_left; intro hx; rotate_left) | skip)
    | with_reducible apply hf
    | with_reducible apply Keeps.laneRefused
    | split
    | simp only [id_eq]

theorem Keeps.byPath (s : State) (p : Path) (f : Who → State → State) (hs : Keeps μ σ s) (hf : ∀ a0 a1, Keeps μ σ a1 → Keeps μ σ (f a0 a1)) (m_space : μ .space) (m_rdata : μ .rdata) (m_wres : μ .wres) (m_banks : μ .banks) :
    Keeps μ σ (State.byPath s p f) := by
  unfold State.byPath
  repeat' first
    | with_reducible assumption
    | intro _
    | with_reducible apply Keeps.ite
    | with_reducible apply hf
    | with_reducible apply Keeps.asWho
    | simp only [Keeps.upd_rdata m_rdata]

theorem Keeps.setTctx (s : State) (t : ℕ) (c : TenCtx) (hs : Keeps μ σ s) (m_ten : μ .ten) :
    Keeps μ σ (State.setTctx s t c) := by
  unfold State.setTctx
  repeat' first
    | with_reducible assumption
    | intro _
    | with_reducible apply Keeps.ite
    | simp only [Keeps.upd_ten m_ten]

theorem Keeps.exDelay (s : State) (t : ℕ) (hs : Keeps μ σ s) (m_space : μ .space) (m_ten : μ .ten) :
    Keeps μ σ (State.exDelay s t) := by
  unfold State.exDelay
  repeat' first
    | with_reducible assumption
    | intro _
    | with_reducible apply Keeps.ite
    | ((fail_if_no_progress extract_lets +onlyGivenNames x); first | (refine Keeps.bind x ?_ ?_; (try subst x); rotate_left; intro hx; rotate_left) | skip)
    | with_reducible apply Keeps.inc
    | with_reducible apply Keeps.setTctx
    | split
    | simp only [id_eq]

theorem Keeps.qPlace (s : State) (q : QKind) (t : ℕ) (cls : ℕ) (block : ℕ) (code : ℕ) (fields : List Byte) (hs : Keeps μ σ s) (m_ten : μ .ten) :
    Keeps μ σ (State.qPlace s q t cls block code fields) := by
  unfold State.qPlace
  repeat' first
    | with_reducible assumption
    | intro _
    | with_reducible apply Keeps.ite
    | ((fail_if_no_progress extract_lets +onlyGivenNames x); first | (refine Keeps.bind x ?_ ?_; (try subst x); rotate_left; intro hx; rotate_left) | skip)
    | with_reducible apply Keeps.setTctx
    | split

theorem Keeps.qDrop (s : State) (q : QKind) (t : ℕ) (hs : Keeps μ σ s) (m_space : μ .space) (m_ten : μ .ten) :
    Keeps μ σ (State.qDrop s q t) := by
  unfold State.qDrop
  repeat' first
    | with_reducible assumption
    | intro _
    | with_reducible apply Keeps.ite
    | ((fail_if_no_progress extract_lets +onlyGivenNames x); first | (refine Keeps.bind x ?_ ?_; (try subst x); rotate_left; intro hx; rotate_left) | skip)
    | with_reducible apply Keeps.inc
    | with_reducible apply Keeps.put
    | with_reducible apply Keeps.setTctx
    | split

theorem Keeps.post (s : State) (q : QKind) (t : ℕ) (cls : ℕ) (block : ℕ) (code : ℕ) (fields : List Byte) (hs : Keeps μ σ s) (m_space : μ .space) (m_ten : μ .ten) :
    Keeps μ σ (State.post s q t cls block code fields) := by
  unfold State.post
  repeat' first
    | with_reducible assumption
    | intro _
    | with_reducible apply Keeps.ite
    | with_reducible apply Keeps.inc
    | with_reducible apply Keeps.qDrop
    | with_reducible apply Keeps.qPlace
    | with_reducible apply Keeps.setTctx
    | split

theorem Keeps.postErr (s : State) (t : ℕ) (block : ℕ) (code : ℕ) (fields : List Byte) (hs : Keeps μ σ s) (m_space : μ .space) (m_ten : μ .ten) :
    Keeps μ σ (State.postErr s t block code fields) := by
  unfold State.postErr
  repeat' first
    | with_reducible assumption
    | intro _
    | with_reducible apply Keeps.ite
    | with_reducible apply Keeps.post

theorem Keeps.postEvt (s : State) (t : ℕ) (block : ℕ) (code : ℕ) (fields : List Byte) (hs : Keeps μ σ s) (m_space : μ .space) (m_ten : μ .ten) :
    Keeps μ σ (State.postEvt s t block code fields) := by
  unfold State.postEvt
  repeat' first
    | with_reducible assumption
    | intro _
    | with_reducible apply Keeps.ite
    | with_reducible apply Keeps.post

theorem Keeps.postErr2 (s : State) (t : ℕ) (block : ℕ) (code : ℕ) (fields : List Byte) (hs : Keeps μ σ s) (m_space : μ .space) (m_ten : μ .ten) :
    Keeps μ σ (State.postErr2 s t block code fields) := by
  unfold State.postErr2
  repeat' first
    | with_reducible assumption
    | intro _
    | with_reducible apply Keeps.ite
    | with_reducible apply Keeps.postErr

theorem Keeps.postEvt2 (s : State) (t : ℕ) (block : ℕ) (code : ℕ) (fields : List Byte) (hs : Keeps μ σ s) (m_space : μ .space) (m_ten : μ .ten) :
    Keeps μ σ (State.postEvt2 s t block code fields) := by
  unfold State.postEvt2
  repeat' first
    | with_reducible assumption
    | intro _
    | with_reducible apply Keeps.ite
    | with_reducible apply Keeps.postEvt

theorem Keeps.irqPost (s : State) (n : ℕ) (hs : Keeps μ σ s) (m_space : μ .space) (m_free : μ .free) (m_ten : μ .ten) :
    Keeps μ σ (State.irqPost s n) := by
  unfold State.irqPost
  repeat' first
    | with_reducible assumption
    | intro _
    | with_reducible apply Keeps.ite
    | with_reducible apply Keeps.each
    | with_reducible apply Keeps.fresh
    | with_reducible apply Keeps.post

theorem Keeps.icUpd (s : State) (n : ℕ) (f : IcState → IcState) (hs : Keeps μ σ s) (m_space : μ .space) (m_free : μ .free) (m_ten : μ .ten) (m_ic : μ .ic) :
    Keeps μ σ (State.icUpd s n f) := by
  unfold State.icUpd
  repeat' first
    | with_reducible assumption
    | intro _
    | with_reducible apply Keeps.ite
    | with_reducible apply Keeps.irqPost
    | simp only [Keeps.upd_ic m_ic]

theorem Keeps.icPulse (s : State) (n : ℕ) (hs : Keeps μ σ s) (m_space : μ .space) (m_free : μ .free) (m_ten : μ .ten) (m_ic : μ .ic) :
    Keeps μ σ (State.icPulse s n) := by
  unfold State.icPulse
  repeat' first
    | with_reducible assumption
    | intro _
    | with_reducible apply Keeps.ite
    | with_reducible apply Keeps.icUpd
    | with_reducible apply Keeps.inc

theorem Keeps.icSet (s : State) (n : ℕ) (hs : Keeps μ σ s) (m_space : μ .space) (m_free : μ .free) (m_ten : μ .ten) (m_ic : μ .ic) :
    Keeps μ σ (State.icSet s n) := by
  unfold State.icSet
  repeat' first
    | with_reducible assumption
    | intro _
    | with_reducible apply Keeps.ite
    | with_reducible apply Keeps.icUpd
    | split

theorem Keeps.icClr (s : State) (n : ℕ) (hs : Keeps μ σ s) (m_space : μ .space) (m_free : μ .free) (m_ten : μ .ten) (m_ic : μ .ic) :
    Keeps μ σ (State.icClr s n) := by
  unfold State.icClr
  repeat' first
    | with_reducible assumption
    | intro _
    | with_reducible apply Keeps.ite
    | with_reducible apply Keeps.icUpd
    | split

theorem Keeps.icRelease (s : State) (n : ℕ) (hs : Keeps μ σ s) (m_space : μ .space) (m_free : μ .free) (m_ten : μ .ten) (m_ic : μ .ic) :
    Keeps μ σ (State.icRelease s n) := by
  unfold State.icRelease
  repeat' first
    | with_reducible assumption
    | intro _
    | with_reducible apply Keeps.ite
    | with_reducible apply Keeps.icUpd

theorem Keeps.logUse (s : State) (t : ℕ) (hs : Keeps μ σ s) (m_space : μ .space) (m_ten : μ .ten) :
    Keeps μ σ (State.logUse s t) := by
  unfold State.logUse
  repeat' first
    | with_reducible assumption
    | intro _
    | with_reducible apply Keeps.ite
    | ((fail_if_no_progress extract_lets +onlyGivenNames x); first | (refine Keeps.bind x ?_ ?_; (try subst x); rotate_left; intro hx; rotate_left) | skip)
    | with_reducible apply Keeps.exDelay
    | with_reducible apply Keeps.inc
    | with_reducible apply Keeps.putIf
    | split
    | simp only [id_eq]

theorem Keeps.aonSeq (s : State) (hs : Keeps μ σ s) (m_space : μ .space) :
    Keeps μ σ (State.aonSeq s) := by
  unfold State.aonSeq
  repeat' first
    | with_reducible assumption
    | intro _
    | with_reducible apply Keeps.ite
    | with_reducible apply Keeps.setWord

theorem Keeps.logDue (s : State) (l : List LogBlk) (hs : Keeps μ σ s) (m_log : μ .log) :
    Keeps μ σ (State.logDue s l) := by
  unfold State.logDue
  repeat' first
    | with_reducible assumption
    | intro _
    | with_reducible apply Keeps.ite
    | ((fail_if_no_progress extract_lets +onlyGivenNames x); first | (refine Keeps.bind x ?_ ?_; (try subst x); rotate_left; intro hx; rotate_left) | skip)
    | simp only [Keeps.upd_log m_log]
    | split
    | simp only [id_eq]

theorem Keeps.logCut (s : State) (hs : Keeps μ σ s) (m_log : μ .log) :
    Keeps μ σ (State.logCut s) := by
  unfold State.logCut
  repeat' first
    | with_reducible assumption
    | intro _
    | with_reducible apply Keeps.ite
    | ((fail_if_no_progress extract_lets +onlyGivenNames x); first | (refine Keeps.bind x ?_ ?_; (try subst x); rotate_left; intro hx; rotate_left) | skip)
    | with_reducible apply Keeps.logDue
    | split
    | simp only [id_eq]

theorem Keeps.ringEnter (s : State) (r : AuditRec) (hs : Keeps μ σ s) (m_space : μ .space) (m_log : μ .log) (m_ten : μ .ten) :
    Keeps μ σ (State.ringEnter s r) := by
  unfold State.ringEnter
  repeat' first
    | with_reducible assumption
    | intro _
    | with_reducible apply Keeps.ite
    | ((fail_if_no_progress extract_lets +onlyGivenNames x); first | (refine Keeps.bind x ?_ ?_; (try subst x); rotate_left; intro hx; rotate_left) | skip)
    | with_reducible apply Keeps.aonSeq
    | with_reducible apply Keeps.logCut
    | with_reducible apply Keeps.logUse
    | simp only [Keeps.upd_log m_log]
    | split
    | simp only [id_eq]

theorem Keeps.ringReach (s : State) (hs : Keeps μ σ s) (m_space : μ .space) (m_log : μ .log) :
    Keeps μ σ (State.ringReach s) := by
  unfold State.ringReach
  repeat' first
    | with_reducible assumption
    | intro _
    | with_reducible apply Keeps.ite
    | ((fail_if_no_progress extract_lets +onlyGivenNames x); first | (refine Keeps.bind x ?_ ?_; (try subst x); rotate_left; intro hx; rotate_left) | skip)
    | with_reducible apply Keeps.put
    | simp only [Keeps.upd_log m_log]

theorem Keeps.ringLose (s : State) (hs : Keeps μ σ s) (m_space : μ .space) (m_log : μ .log) :
    Keeps μ σ (State.ringLose s) := by
  unfold State.ringLose
  repeat' first
    | with_reducible assumption
    | intro _
    | with_reducible apply Keeps.ite
    | ((fail_if_no_progress extract_lets +onlyGivenNames x); first | (refine Keeps.bind x ?_ ?_; (try subst x); rotate_left; intro hx; rotate_left) | skip)
    | with_reducible apply Keeps.inc
    | with_reducible apply Keeps.put
    | simp only [Keeps.upd_log m_log]

theorem Keeps.ringRefuse (s : State) (t : ℕ) (hs : Keeps μ σ s) (m_space : μ .space) (m_log : μ .log) (m_ten : μ .ten) :
    Keeps μ σ (State.ringRefuse s t) := by
  unfold State.ringRefuse
  repeat' first
    | with_reducible assumption
    | intro _
    | with_reducible apply Keeps.ite
    | ((fail_if_no_progress extract_lets +onlyGivenNames x); first | (refine Keeps.bind x ?_ ?_; (try subst x); rotate_left; intro hx; rotate_left) | skip)
    | with_reducible apply Keeps.inc
    | with_reducible apply Keeps.postErr
    | with_reducible apply Keeps.setTctx
    | simp only [Keeps.upd_log m_log]

theorem Keeps.auditW (s : State) (w : Who) (t : Tgt) (res : Res) (eff : State → State) (hs : Keeps μ σ s) (heff : ∀ a0, Keeps μ σ a0 → Keeps μ σ (eff a0)) (m_space : μ .space) (m_wres : μ .wres) (m_log : μ .log) (m_ten : μ .ten) :
    Keeps μ σ (State.auditW s w t res eff) := by
  unfold State.auditW
  repeat' first
    | with_reducible assumption
    | intro _
    | with_reducible apply Keeps.ite
    | ((fail_if_no_progress extract_lets +onlyGivenNames x); first | (refine Keeps.bind x ?_ ?_; (try subst x); rotate_left; intro hx; rotate_left) | skip)
    | with_reducible apply heff
    | with_reducible apply Keeps.ringEnter
    | with_reducible apply Keeps.ringLose
    | with_reducible apply Keeps.ringReach
    | with_reducible apply Keeps.ringRefuse
    | simp only [Keeps.upd_wres m_wres]
    | split

theorem Keeps.auditRec (s : State) (r : AuditRec) (hs : Keeps μ σ s) (m_space : μ .space) (m_log : μ .log) (m_ten : μ .ten) :
    Keeps μ σ (State.auditRec s r) := by
  unfold State.auditRec
  repeat' first
    | with_reducible assumption
    | intro _
    | with_reducible apply Keeps.ite
    | ((fail_if_no_progress extract_lets +onlyGivenNames x); first | (refine Keeps.bind x ?_ ?_; (try subst x); rotate_left; intro hx; rotate_left) | skip)
    | with_reducible apply Keeps.ringEnter
    | with_reducible apply Keeps.ringLose
    | with_reducible apply Keeps.ringReach
    | split
    | simp only [id_eq]

theorem Keeps.auditEvent (s : State) (addr : ℕ) (old : Word) (new : Word) (hs : Keeps μ σ s) (m_space : μ .space) (m_log : μ .log) (m_ten : μ .ten) :
    Keeps μ σ (State.auditEvent s addr old new) := by
  unfold State.auditEvent
  repeat' first
    | with_reducible assumption
    | intro _
    | with_reducible apply Keeps.ite
    | ((fail_if_no_progress extract_lets +onlyGivenNames x); first | (refine Keeps.bind x ?_ ?_; (try subst x); rotate_left; intro hx; rotate_left) | skip)
    | with_reducible apply Keeps.auditRec
    | split
    | simp only [id_eq]

theorem Keeps.plainW (s : State) (res : Res) (eff : State → State) (hs : Keeps μ σ s) (heff : ∀ a0, Keeps μ σ a0 → Keeps μ σ (eff a0)) (m_wres : μ .wres) :
    Keeps μ σ (State.plainW s res eff) := by
  unfold State.plainW
  repeat' first
    | with_reducible assumption
    | intro _
    | with_reducible apply Keeps.ite
    | ((fail_if_no_progress extract_lets +onlyGivenNames x); first | (refine Keeps.bind x ?_ ?_; (try subst x); rotate_left; intro hx; rotate_left) | skip)
    | with_reducible apply heff
    | simp only [Keeps.upd_wres m_wres]

end Sys2Proof.Machine
end

