-- ==== Sys2Proof/Laws/State.lean ====
section
/-! SUPPORT. What each update of the state leaves, field by field, and what a read gives after it. -/

namespace Sys2Proof.Machine

/-! ### Register words and fields -/

theorem State.word_setWord (s : State) (a : Nat) (v : Word) (b : Nat) : (s.setWord a v).word b = if b = a then v else s.word b :=
  Tab.get_set _ _ _ _

@[simp] theorem State.word_setWord_same (s : State) (a : Nat) (v : Word) : (s.setWord a v).word a = v := by simp [State.word_setWord]

theorem State.word_setWord_ne (s : State) {a b : Nat} (v : Word) (h : b ≠ a) : (s.setWord a v).word b = s.word b := by
  simp [State.word_setWord, h]

theorem State.word_put (s : State) (f : Fld) (v i j b : Nat) :
    (s.put f v i j).word b = if b = f.reg.at i j then setBits (s.word b) f.lo f.w v else s.word b := by
  unfold State.put
  rw [State.word_setWord]
  split
  · rename_i h; rw [h]
  · rfl

theorem State.word_inc (s : State) (f : Fld) (n i j b : Nat) (h : b ≠ f.reg.at i j) : (s.inc f n i j).word b = s.word b := by
  unfold State.inc; rw [State.word_put, if_neg h]

theorem State.word_putIf (s : State) (c : Bool) (f : Fld) (v i j b : Nat) (h : b ≠ f.reg.at i j) : (s.putIf c f v i j).word b = s.word b := by
  unfold State.putIf; split
  · rw [State.word_put, if_neg h]
  · rfl

/-- A field read after it was set holds the value's low bits. -/
theorem State.get_put_same (s : State) (f : Fld) (v i j : Nat) (h : f.lo + f.w ≤ 32) : (s.put f v i j).get f i j = v % 2 ^ f.w := by
  unfold State.get; rw [State.word_put, if_pos rfl, bitsOf_setBits_same _ _ _ _ h]

/-- Another field of the register, which does not overlap, keeps its value. -/
theorem State.get_put_beside (s : State) (f g : Fld) (v i j : Nat) (hr : g.reg = f.reg) (h : f.lo + f.w ≤ 32)
    (hd : g.lo + g.w ≤ f.lo ∨ f.lo + f.w ≤ g.lo) : (s.put f v i j).get g i j = s.get g i j := by
  unfold State.get; rw [hr, State.word_put, if_pos rfl, bitsOf_setBits_ne _ _ _ _ _ _ h hd]

/-- A field of another register keeps its value. -/
theorem State.get_put_ne (s : State) (f g : Fld) (v i j k l : Nat) (h : g.reg.at k l ≠ f.reg.at i j) :
    (s.put f v i j).get g k l = s.get g k l := by
  unfold State.get; rw [State.word_put, if_neg h]

/-- A counter after it counted (R17). -/
theorem State.get_inc_same (s : State) (f : Fld) (n i j : Nat) (h : f.lo + f.w ≤ 32) :
    (s.inc f n i j).get f i j = Nat.min (s.get f i j + n) (2 ^ f.w - 1) := by
  unfold State.inc
  rw [State.get_put_same _ _ _ _ _ h]
  apply Nat.mod_eq_of_lt
  unfold satAdd
  have := Nat.two_pow_pos f.w
  exact Nat.lt_of_le_of_lt (Nat.min_le_right _ _) (by omega)

theorem State.get_inc_ne (s : State) (f g : Fld) (n i j k l : Nat) (h : g.reg.at k l ≠ f.reg.at i j) :
    (s.inc f n i j).get g k l = s.get g k l := State.get_put_ne _ _ _ _ _ _ _ _ h

theorem State.get_lt (s : State) (f : Fld) (i j : Nat) : s.get f i j < 2 ^ f.w := bitsOf_lt _ _ _

/-! ### What each update leaves as it was -/

@[simp] theorem State.setWord_rest (s : State) (a : ℕ) (v : Word) :
    (s.setWord a v).pending = s.pending ∧ (s.setWord a v).now = s.now ∧ (s.setWord a v).campusOff = s.campusOff ∧
    (s.setWord a v).bootAt = s.bootAt ∧ (s.setWord a v).free = s.free ∧ (s.setWord a v).rdata = s.rdata ∧
    (s.setWord a v).wres = s.wres ∧ (s.setWord a v).banks = s.banks ∧ (s.setWord a v).log = s.log ∧
    (s.setWord a v).ten = s.ten ∧ (s.setWord a v).exLast = s.exLast ∧ (s.setWord a v).exAt = s.exAt ∧
    (s.setWord a v).ic = s.ic ∧ (s.setWord a v).broken = s.broken ∧ (s.setWord a v).pub = s.pub ∧
    (s.setWord a v).zoneEv = s.zoneEv ∧ (s.setWord a v).safe = s.safe ∧ (s.setWord a v).safeLoaded = s.safeLoaded ∧
    (s.setWord a v).safeUnrec = s.safeUnrec ∧ (s.setWord a v).safeIrq = s.safeIrq ∧
    (s.setWord a v).rtcOff = s.rtcOff ∧ (s.setWord a v).rtcHeld = s.rtcHeld ∧ (s.setWord a v).cmds = s.cmds ∧
    (s.setWord a v).cd = s.cd ∧ (s.setWord a v).cdg = s.cdg ∧ (s.setWord a v).fwd = s.fwd ∧
    (s.setWord a v).sk = s.sk ∧ (s.setWord a v).sk0mem = s.sk0mem ∧ (s.setWord a v).subIn = s.subIn ∧
    (s.setWord a v).subOut = s.subOut ∧ (s.setWord a v).cl = s.cl ∧ (s.setWord a v).isl = s.isl ∧
    (s.setWord a v).adc = s.adc ∧ (s.setWord a v).fan = s.fan ∧ (s.setWord a v).fio = s.fio ∧
    (s.setWord a v).zb = s.zb ∧ (s.setWord a v).pnl = s.pnl ∧ (s.setWord a v).hb = s.hb ∧
    (s.setWord a v).boot = s.boot ∧ (s.setWord a v).clk = s.clk ∧ (s.setWord a v).pdErrs = s.pdErrs ∧
    (s.setWord a v).ucal = s.ucal ∧ (s.setWord a v).frame = s.frame ∧ (s.setWord a v).le = s.le :=
  ⟨rfl, rfl, rfl, rfl, rfl, rfl, rfl, rfl, rfl, rfl, rfl, rfl, rfl, rfl, rfl, rfl, rfl, rfl, rfl, rfl, rfl, rfl, rfl, rfl, rfl, rfl, rfl, rfl, rfl, rfl, rfl, rfl, rfl, rfl, rfl, rfl, rfl, rfl, rfl, rfl, rfl, rfl, rfl, rfl⟩

@[simp] theorem State.put_rest (s : State) (f : Fld) (v : ℕ) (i : ℕ) (j : ℕ) :
    (s.put f v i j).pending = s.pending ∧ (s.put f v i j).now = s.now ∧ (s.put f v i j).campusOff = s.campusOff ∧
    (s.put f v i j).bootAt = s.bootAt ∧ (s.put f v i j).free = s.free ∧ (s.put f v i j).rdata = s.rdata ∧
    (s.put f v i j).wres = s.wres ∧ (s.put f v i j).banks = s.banks ∧ (s.put f v i j).log = s.log ∧
    (s.put f v i j).ten = s.ten ∧ (s.put f v i j).exLast = s.exLast ∧ (s.put f v i j).exAt = s.exAt ∧
    (s.put f v i j).ic = s.ic ∧ (s.put f v i j).broken = s.broken ∧ (s.put f v i j).pub = s.pub ∧
    (s.put f v i j).zoneEv = s.zoneEv ∧ (s.put f v i j).safe = s.safe ∧ (s.put f v i j).safeLoaded = s.safeLoaded ∧
    (s.put f v i j).safeUnrec = s.safeUnrec ∧ (s.put f v i j).safeIrq = s.safeIrq ∧
    (s.put f v i j).rtcOff = s.rtcOff ∧ (s.put f v i j).rtcHeld = s.rtcHeld ∧ (s.put f v i j).cmds = s.cmds ∧
    (s.put f v i j).cd = s.cd ∧ (s.put f v i j).cdg = s.cdg ∧ (s.put f v i j).fwd = s.fwd ∧
    (s.put f v i j).sk = s.sk ∧ (s.put f v i j).sk0mem = s.sk0mem ∧ (s.put f v i j).subIn = s.subIn ∧
    (s.put f v i j).subOut = s.subOut ∧ (s.put f v i j).cl = s.cl ∧ (s.put f v i j).isl = s.isl ∧
    (s.put f v i j).adc = s.adc ∧ (s.put f v i j).fan = s.fan ∧ (s.put f v i j).fio = s.fio ∧
    (s.put f v i j).zb = s.zb ∧ (s.put f v i j).pnl = s.pnl ∧ (s.put f v i j).hb = s.hb ∧
    (s.put f v i j).boot = s.boot ∧ (s.put f v i j).clk = s.clk ∧ (s.put f v i j).pdErrs = s.pdErrs ∧
    (s.put f v i j).ucal = s.ucal ∧ (s.put f v i j).frame = s.frame ∧ (s.put f v i j).le = s.le :=
  ⟨rfl, rfl, rfl, rfl, rfl, rfl, rfl, rfl, rfl, rfl, rfl, rfl, rfl, rfl, rfl, rfl, rfl, rfl, rfl, rfl, rfl, rfl, rfl, rfl, rfl, rfl, rfl, rfl, rfl, rfl, rfl, rfl, rfl, rfl, rfl, rfl, rfl, rfl, rfl, rfl, rfl, rfl, rfl, rfl⟩

@[simp] theorem State.putIf_rest (s : State) (c : Bool) (f : Fld) (v : ℕ) (i : ℕ) (j : ℕ) :
    (s.putIf c f v i j).pending = s.pending ∧ (s.putIf c f v i j).now = s.now ∧
    (s.putIf c f v i j).campusOff = s.campusOff ∧ (s.putIf c f v i j).bootAt = s.bootAt ∧
    (s.putIf c f v i j).free = s.free ∧ (s.putIf c f v i j).rdata = s.rdata ∧ (s.putIf c f v i j).wres = s.wres ∧
    (s.putIf c f v i j).banks = s.banks ∧ (s.putIf c f v i j).log = s.log ∧ (s.putIf c f v i j).ten = s.ten ∧
    (s.putIf c f v i j).exLast = s.exLast ∧ (s.putIf c f v i j).exAt = s.exAt ∧ (s.putIf c f v i j).ic = s.ic ∧
    (s.putIf c f v i j).broken = s.broken ∧ (s.putIf c f v i j).pub = s.pub ∧ (s.putIf c f v i j).zoneEv = s.zoneEv ∧
    (s.putIf c f v i j).safe = s.safe ∧ (s.putIf c f v i j).safeLoaded = s.safeLoaded ∧
    (s.putIf c f v i j).safeUnrec = s.safeUnrec ∧ (s.putIf c f v i j).safeIrq = s.safeIrq ∧
    (s.putIf c f v i j).rtcOff = s.rtcOff ∧ (s.putIf c f v i j).rtcHeld = s.rtcHeld ∧
    (s.putIf c f v i j).cmds = s.cmds ∧ (s.putIf c f v i j).cd = s.cd ∧ (s.putIf c f v i j).cdg = s.cdg ∧
    (s.putIf c f v i j).fwd = s.fwd ∧ (s.putIf c f v i j).sk = s.sk ∧ (s.putIf c f v i j).sk0mem = s.sk0mem ∧
    (s.putIf c f v i j).subIn = s.subIn ∧ (s.putIf c f v i j).subOut = s.subOut ∧ (s.putIf c f v i j).cl = s.cl ∧
    (s.putIf c f v i j).isl = s.isl ∧ (s.putIf c f v i j).adc = s.adc ∧ (s.putIf c f v i j).fan = s.fan ∧
    (s.putIf c f v i j).fio = s.fio ∧ (s.putIf c f v i j).zb = s.zb ∧ (s.putIf c f v i j).pnl = s.pnl ∧
    (s.putIf c f v i j).hb = s.hb ∧ (s.putIf c f v i j).boot = s.boot ∧ (s.putIf c f v i j).clk = s.clk ∧
    (s.putIf c f v i j).pdErrs = s.pdErrs ∧ (s.putIf c f v i j).ucal = s.ucal ∧ (s.putIf c f v i j).frame = s.frame ∧
    (s.putIf c f v i j).le = s.le := by
  unfold State.putIf
  split <;> simp

@[simp] theorem State.inc_rest (s : State) (f : Fld) (n : ℕ) (i : ℕ) (j : ℕ) :
    (s.inc f n i j).pending = s.pending ∧ (s.inc f n i j).now = s.now ∧ (s.inc f n i j).campusOff = s.campusOff ∧
    (s.inc f n i j).bootAt = s.bootAt ∧ (s.inc f n i j).free = s.free ∧ (s.inc f n i j).rdata = s.rdata ∧
    (s.inc f n i j).wres = s.wres ∧ (s.inc f n i j).banks = s.banks ∧ (s.inc f n i j).log = s.log ∧
    (s.inc f n i j).ten = s.ten ∧ (s.inc f n i j).exLast = s.exLast ∧ (s.inc f n i j).exAt = s.exAt ∧
    (s.inc f n i j).ic = s.ic ∧ (s.inc f n i j).broken = s.broken ∧ (s.inc f n i j).pub = s.pub ∧
    (s.inc f n i j).zoneEv = s.zoneEv ∧ (s.inc f n i j).safe = s.safe ∧ (s.inc f n i j).safeLoaded = s.safeLoaded ∧
    (s.inc f n i j).safeUnrec = s.safeUnrec ∧ (s.inc f n i j).safeIrq = s.safeIrq ∧
    (s.inc f n i j).rtcOff = s.rtcOff ∧ (s.inc f n i j).rtcHeld = s.rtcHeld ∧ (s.inc f n i j).cmds = s.cmds ∧
    (s.inc f n i j).cd = s.cd ∧ (s.inc f n i j).cdg = s.cdg ∧ (s.inc f n i j).fwd = s.fwd ∧
    (s.inc f n i j).sk = s.sk ∧ (s.inc f n i j).sk0mem = s.sk0mem ∧ (s.inc f n i j).subIn = s.subIn ∧
    (s.inc f n i j).subOut = s.subOut ∧ (s.inc f n i j).cl = s.cl ∧ (s.inc f n i j).isl = s.isl ∧
    (s.inc f n i j).adc = s.adc ∧ (s.inc f n i j).fan = s.fan ∧ (s.inc f n i j).fio = s.fio ∧
    (s.inc f n i j).zb = s.zb ∧ (s.inc f n i j).pnl = s.pnl ∧ (s.inc f n i j).hb = s.hb ∧
    (s.inc f n i j).boot = s.boot ∧ (s.inc f n i j).clk = s.clk ∧ (s.inc f n i j).pdErrs = s.pdErrs ∧
    (s.inc f n i j).ucal = s.ucal ∧ (s.inc f n i j).frame = s.frame ∧ (s.inc f n i j).le = s.le :=
  ⟨rfl, rfl, rfl, rfl, rfl, rfl, rfl, rfl, rfl, rfl, rfl, rfl, rfl, rfl, rfl, rfl, rfl, rfl, rfl, rfl, rfl, rfl, rfl, rfl, rfl, rfl, rfl, rfl, rfl, rfl, rfl, rfl, rfl, rfl, rfl, rfl, rfl, rfl, rfl, rfl, rfl, rfl, rfl, rfl⟩

@[simp] theorem State.setBank_rest (s : State) (b : ℕ) (x : Bank) :
    (s.setBank b x).pending = s.pending ∧ (s.setBank b x).space = s.space ∧ (s.setBank b x).now = s.now ∧
    (s.setBank b x).campusOff = s.campusOff ∧ (s.setBank b x).bootAt = s.bootAt ∧ (s.setBank b x).free = s.free ∧
    (s.setBank b x).rdata = s.rdata ∧ (s.setBank b x).wres = s.wres ∧ (s.setBank b x).log = s.log ∧
    (s.setBank b x).ten = s.ten ∧ (s.setBank b x).exLast = s.exLast ∧ (s.setBank b x).exAt = s.exAt ∧
    (s.setBank b x).ic = s.ic ∧ (s.setBank b x).broken = s.broken ∧ (s.setBank b x).pub = s.pub ∧
    (s.setBank b x).zoneEv = s.zoneEv ∧ (s.setBank b x).safe = s.safe ∧ (s.setBank b x).safeLoaded = s.safeLoaded ∧
    (s.setBank b x).safeUnrec = s.safeUnrec ∧ (s.setBank b x).safeIrq = s.safeIrq ∧
    (s.setBank b x).rtcOff = s.rtcOff ∧ (s.setBank b x).rtcHeld = s.rtcHeld ∧ (s.setBank b x).cmds = s.cmds ∧
    (s.setBank b x).cd = s.cd ∧ (s.setBank b x).cdg = s.cdg ∧ (s.setBank b x).fwd = s.fwd ∧
    (s.setBank b x).sk = s.sk ∧ (s.setBank b x).sk0mem = s.sk0mem ∧ (s.setBank b x).subIn = s.subIn ∧
    (s.setBank b x).subOut = s.subOut ∧ (s.setBank b x).cl = s.cl ∧ (s.setBank b x).isl = s.isl ∧
    (s.setBank b x).adc = s.adc ∧ (s.setBank b x).fan = s.fan ∧ (s.setBank b x).fio = s.fio ∧
    (s.setBank b x).zb = s.zb ∧ (s.setBank b x).pnl = s.pnl ∧ (s.setBank b x).hb = s.hb ∧
    (s.setBank b x).boot = s.boot ∧ (s.setBank b x).clk = s.clk ∧ (s.setBank b x).pdErrs = s.pdErrs ∧
    (s.setBank b x).ucal = s.ucal ∧ (s.setBank b x).frame = s.frame ∧ (s.setBank b x).le = s.le ∧
    (∀ a', (s.setBank b x).word a' = s.word a') ∧ (∀ f' i' j', (s.setBank b x).get f' i' j' = s.get f' i' j') ∧
    (∀ f' i' j', (s.setBank b x).bit f' i' j' = s.bit f' i' j') :=
  ⟨rfl, rfl, rfl, rfl, rfl, rfl, rfl, rfl, rfl, rfl, rfl, rfl, rfl, rfl, rfl, rfl, rfl, rfl, rfl, rfl, rfl, rfl, rfl, rfl, rfl, rfl, rfl, rfl, rfl, rfl, rfl, rfl, rfl, rfl, rfl, rfl, rfl, rfl, rfl, rfl, rfl, rfl, rfl, rfl, fun _ => rfl, fun _ _ _ => rfl, fun _ _ _ => rfl⟩

@[simp] theorem State.fresh_rest (s : State) :
    (s.fresh).pending = s.pending ∧ (s.fresh).space = s.space ∧ (s.fresh).now = s.now ∧
    (s.fresh).campusOff = s.campusOff ∧ (s.fresh).bootAt = s.bootAt ∧ (s.fresh).rdata = s.rdata ∧
    (s.fresh).wres = s.wres ∧ (s.fresh).banks = s.banks ∧ (s.fresh).log = s.log ∧ (s.fresh).ten = s.ten ∧
    (s.fresh).exLast = s.exLast ∧ (s.fresh).exAt = s.exAt ∧ (s.fresh).ic = s.ic ∧ (s.fresh).broken = s.broken ∧
    (s.fresh).pub = s.pub ∧ (s.fresh).zoneEv = s.zoneEv ∧ (s.fresh).safe = s.safe ∧
    (s.fresh).safeLoaded = s.safeLoaded ∧ (s.fresh).safeUnrec = s.safeUnrec ∧ (s.fresh).safeIrq = s.safeIrq ∧
    (s.fresh).rtcOff = s.rtcOff ∧ (s.fresh).rtcHeld = s.rtcHeld ∧ (s.fresh).cmds = s.cmds ∧ (s.fresh).cd = s.cd ∧
    (s.fresh).cdg = s.cdg ∧ (s.fresh).fwd = s.fwd ∧ (s.fresh).sk = s.sk ∧ (s.fresh).sk0mem = s.sk0mem ∧
    (s.fresh).subIn = s.subIn ∧ (s.fresh).subOut = s.subOut ∧ (s.fresh).cl = s.cl ∧ (s.fresh).isl = s.isl ∧
    (s.fresh).adc = s.adc ∧ (s.fresh).fan = s.fan ∧ (s.fresh).fio = s.fio ∧ (s.fresh).zb = s.zb ∧
    (s.fresh).pnl = s.pnl ∧ (s.fresh).hb = s.hb ∧ (s.fresh).boot = s.boot ∧ (s.fresh).clk = s.clk ∧
    (s.fresh).pdErrs = s.pdErrs ∧ (s.fresh).ucal = s.ucal ∧ (s.fresh).frame = s.frame ∧ (s.fresh).le = s.le ∧
    (∀ a', (s.fresh).word a' = s.word a') ∧ (∀ f' i' j', (s.fresh).get f' i' j' = s.get f' i' j') ∧
    (∀ f' i' j', (s.fresh).bit f' i' j' = s.bit f' i' j') :=
  ⟨rfl, rfl, rfl, rfl, rfl, rfl, rfl, rfl, rfl, rfl, rfl, rfl, rfl, rfl, rfl, rfl, rfl, rfl, rfl, rfl, rfl, rfl, rfl, rfl, rfl, rfl, rfl, rfl, rfl, rfl, rfl, rfl, rfl, rfl, rfl, rfl, rfl, rfl, rfl, rfl, rfl, rfl, rfl, rfl, fun _ => rfl, fun _ _ _ => rfl, fun _ _ _ => rfl⟩

@[simp] theorem State.dropCap_rest (s : State) (b : ℕ) :
    (s.dropCap b).pending = s.pending ∧ (s.dropCap b).space = s.space ∧ (s.dropCap b).now = s.now ∧
    (s.dropCap b).campusOff = s.campusOff ∧ (s.dropCap b).bootAt = s.bootAt ∧ (s.dropCap b).free = s.free ∧
    (s.dropCap b).rdata = s.rdata ∧ (s.dropCap b).wres = s.wres ∧ (s.dropCap b).log = s.log ∧
    (s.dropCap b).ten = s.ten ∧ (s.dropCap b).exLast = s.exLast ∧ (s.dropCap b).exAt = s.exAt ∧
    (s.dropCap b).ic = s.ic ∧ (s.dropCap b).broken = s.broken ∧ (s.dropCap b).pub = s.pub ∧
    (s.dropCap b).zoneEv = s.zoneEv ∧ (s.dropCap b).safe = s.safe ∧ (s.dropCap b).safeLoaded = s.safeLoaded ∧
    (s.dropCap b).safeUnrec = s.safeUnrec ∧ (s.dropCap b).safeIrq = s.safeIrq ∧ (s.dropCap b).rtcOff = s.rtcOff ∧
    (s.dropCap b).rtcHeld = s.rtcHeld ∧ (s.dropCap b).cmds = s.cmds ∧ (s.dropCap b).cd = s.cd ∧
    (s.dropCap b).cdg = s.cdg ∧ (s.dropCap b).fwd = s.fwd ∧ (s.dropCap b).sk = s.sk ∧
    (s.dropCap b).sk0mem = s.sk0mem ∧ (s.dropCap b).subIn = s.subIn ∧ (s.dropCap b).subOut = s.subOut ∧
    (s.dropCap b).cl = s.cl ∧ (s.dropCap b).isl = s.isl ∧ (s.dropCap b).adc = s.adc ∧ (s.dropCap b).fan = s.fan ∧
    (s.dropCap b).fio = s.fio ∧ (s.dropCap b).zb = s.zb ∧ (s.dropCap b).pnl = s.pnl ∧ (s.dropCap b).hb = s.hb ∧
    (s.dropCap b).boot = s.boot ∧ (s.dropCap b).clk = s.clk ∧ (s.dropCap b).pdErrs = s.pdErrs ∧
    (s.dropCap b).ucal = s.ucal ∧ (s.dropCap b).frame = s.frame ∧ (s.dropCap b).le = s.le ∧
    (∀ a', (s.dropCap b).word a' = s.word a') ∧ (∀ f' i' j', (s.dropCap b).get f' i' j' = s.get f' i' j') ∧
    (∀ f' i' j', (s.dropCap b).bit f' i' j' = s.bit f' i' j') :=
  ⟨rfl, rfl, rfl, rfl, rfl, rfl, rfl, rfl, rfl, rfl, rfl, rfl, rfl, rfl, rfl, rfl, rfl, rfl, rfl, rfl, rfl, rfl, rfl, rfl, rfl, rfl, rfl, rfl, rfl, rfl, rfl, rfl, rfl, rfl, rfl, rfl, rfl, rfl, rfl, rfl, rfl, rfl, rfl, rfl, fun _ => rfl, fun _ _ _ => rfl, fun _ _ _ => rfl⟩

@[simp] theorem State.setTctx_rest (s : State) (t : ℕ) (c : TenCtx) :
    (s.setTctx t c).pending = s.pending ∧ (s.setTctx t c).space = s.space ∧ (s.setTctx t c).now = s.now ∧
    (s.setTctx t c).campusOff = s.campusOff ∧ (s.setTctx t c).bootAt = s.bootAt ∧ (s.setTctx t c).free = s.free ∧
    (s.setTctx t c).rdata = s.rdata ∧ (s.setTctx t c).wres = s.wres ∧ (s.setTctx t c).banks = s.banks ∧
    (s.setTctx t c).log = s.log ∧ (s.setTctx t c).exLast = s.exLast ∧ (s.setTctx t c).exAt = s.exAt ∧
    (s.setTctx t c).ic = s.ic ∧ (s.setTctx t c).broken = s.broken ∧ (s.setTctx t c).pub = s.pub ∧
    (s.setTctx t c).zoneEv = s.zoneEv ∧ (s.setTctx t c).safe = s.safe ∧ (s.setTctx t c).safeLoaded = s.safeLoaded ∧
    (s.setTctx t c).safeUnrec = s.safeUnrec ∧ (s.setTctx t c).safeIrq = s.safeIrq ∧
    (s.setTctx t c).rtcOff = s.rtcOff ∧ (s.setTctx t c).rtcHeld = s.rtcHeld ∧ (s.setTctx t c).cmds = s.cmds ∧
    (s.setTctx t c).cd = s.cd ∧ (s.setTctx t c).cdg = s.cdg ∧ (s.setTctx t c).fwd = s.fwd ∧
    (s.setTctx t c).sk = s.sk ∧ (s.setTctx t c).sk0mem = s.sk0mem ∧ (s.setTctx t c).subIn = s.subIn ∧
    (s.setTctx t c).subOut = s.subOut ∧ (s.setTctx t c).cl = s.cl ∧ (s.setTctx t c).isl = s.isl ∧
    (s.setTctx t c).adc = s.adc ∧ (s.setTctx t c).fan = s.fan ∧ (s.setTctx t c).fio = s.fio ∧
    (s.setTctx t c).zb = s.zb ∧ (s.setTctx t c).pnl = s.pnl ∧ (s.setTctx t c).hb = s.hb ∧
    (s.setTctx t c).boot = s.boot ∧ (s.setTctx t c).clk = s.clk ∧ (s.setTctx t c).pdErrs = s.pdErrs ∧
    (s.setTctx t c).ucal = s.ucal ∧ (s.setTctx t c).frame = s.frame ∧ (s.setTctx t c).le = s.le ∧
    (∀ a', (s.setTctx t c).word a' = s.word a') ∧ (∀ f' i' j', (s.setTctx t c).get f' i' j' = s.get f' i' j') ∧
    (∀ f' i' j', (s.setTctx t c).bit f' i' j' = s.bit f' i' j') :=
  ⟨rfl, rfl, rfl, rfl, rfl, rfl, rfl, rfl, rfl, rfl, rfl, rfl, rfl, rfl, rfl, rfl, rfl, rfl, rfl, rfl, rfl, rfl, rfl, rfl, rfl, rfl, rfl, rfl, rfl, rfl, rfl, rfl, rfl, rfl, rfl, rfl, rfl, rfl, rfl, rfl, rfl, rfl, rfl, rfl, fun _ => rfl, fun _ _ _ => rfl, fun _ _ _ => rfl⟩

@[simp] theorem State.setCore_rest (s : State) (k : ℕ) (c : SkCore) :
    (s.setCore k c).pending = s.pending ∧ (s.setCore k c).space = s.space ∧ (s.setCore k c).now = s.now ∧
    (s.setCore k c).campusOff = s.campusOff ∧ (s.setCore k c).bootAt = s.bootAt ∧ (s.setCore k c).free = s.free ∧
    (s.setCore k c).rdata = s.rdata ∧ (s.setCore k c).wres = s.wres ∧ (s.setCore k c).banks = s.banks ∧
    (s.setCore k c).log = s.log ∧ (s.setCore k c).ten = s.ten ∧ (s.setCore k c).exLast = s.exLast ∧
    (s.setCore k c).exAt = s.exAt ∧ (s.setCore k c).ic = s.ic ∧ (s.setCore k c).broken = s.broken ∧
    (s.setCore k c).pub = s.pub ∧ (s.setCore k c).zoneEv = s.zoneEv ∧ (s.setCore k c).safe = s.safe ∧
    (s.setCore k c).safeLoaded = s.safeLoaded ∧ (s.setCore k c).safeUnrec = s.safeUnrec ∧
    (s.setCore k c).safeIrq = s.safeIrq ∧ (s.setCore k c).rtcOff = s.rtcOff ∧ (s.setCore k c).rtcHeld = s.rtcHeld ∧
    (s.setCore k c).cmds = s.cmds ∧ (s.setCore k c).cd = s.cd ∧ (s.setCore k c).cdg = s.cdg ∧
    (s.setCore k c).fwd = s.fwd ∧ (s.setCore k c).sk0mem = s.sk0mem ∧ (s.setCore k c).subIn = s.subIn ∧
    (s.setCore k c).subOut = s.subOut ∧ (s.setCore k c).cl = s.cl ∧ (s.setCore k c).isl = s.isl ∧
    (s.setCore k c).adc = s.adc ∧ (s.setCore k c).fan = s.fan ∧ (s.setCore k c).fio = s.fio ∧
    (s.setCore k c).zb = s.zb ∧ (s.setCore k c).pnl = s.pnl ∧ (s.setCore k c).hb = s.hb ∧
    (s.setCore k c).boot = s.boot ∧ (s.setCore k c).clk = s.clk ∧ (s.setCore k c).pdErrs = s.pdErrs ∧
    (s.setCore k c).ucal = s.ucal ∧ (s.setCore k c).frame = s.frame ∧ (s.setCore k c).le = s.le ∧
    (∀ a', (s.setCore k c).word a' = s.word a') ∧ (∀ f' i' j', (s.setCore k c).get f' i' j' = s.get f' i' j') ∧
    (∀ f' i' j', (s.setCore k c).bit f' i' j' = s.bit f' i' j') :=
  ⟨rfl, rfl, rfl, rfl, rfl, rfl, rfl, rfl, rfl, rfl, rfl, rfl, rfl, rfl, rfl, rfl, rfl, rfl, rfl, rfl, rfl, rfl, rfl, rfl, rfl, rfl, rfl, rfl, rfl, rfl, rfl, rfl, rfl, rfl, rfl, rfl, rfl, rfl, rfl, rfl, rfl, rfl, rfl, rfl, fun _ => rfl, fun _ _ _ => rfl, fun _ _ _ => rfl⟩

@[simp] theorem State.setSafe_rest (s : State) (cls : ℕ) (chan : ℕ) (o : SafeOut) :
    (s.setSafe cls chan o).pending = s.pending ∧ (s.setSafe cls chan o).space = s.space ∧
    (s.setSafe cls chan o).now = s.now ∧ (s.setSafe cls chan o).campusOff = s.campusOff ∧
    (s.setSafe cls chan o).bootAt = s.bootAt ∧ (s.setSafe cls chan o).free = s.free ∧
    (s.setSafe cls chan o).rdata = s.rdata ∧ (s.setSafe cls chan o).wres = s.wres ∧
    (s.setSafe cls chan o).banks = s.banks ∧ (s.setSafe cls chan o).log = s.log ∧ (s.setSafe cls chan o).ten = s.ten ∧
    (s.setSafe cls chan o).exLast = s.exLast ∧ (s.setSafe cls chan o).exAt = s.exAt ∧
    (s.setSafe cls chan o).ic = s.ic ∧ (s.setSafe cls chan o).broken = s.broken ∧ (s.setSafe cls chan o).pub = s.pub ∧
    (s.setSafe cls chan o).zoneEv = s.zoneEv ∧ (s.setSafe cls chan o).safeLoaded = s.safeLoaded ∧
    (s.setSafe cls chan o).safeUnrec = s.safeUnrec ∧ (s.setSafe cls chan o).safeIrq = s.safeIrq ∧
    (s.setSafe cls chan o).rtcOff = s.rtcOff ∧ (s.setSafe cls chan o).rtcHeld = s.rtcHeld ∧
    (s.setSafe cls chan o).cmds = s.cmds ∧ (s.setSafe cls chan o).cd = s.cd ∧ (s.setSafe cls chan o).cdg = s.cdg ∧
    (s.setSafe cls chan o).fwd = s.fwd ∧ (s.setSafe cls chan o).sk = s.sk ∧ (s.setSafe cls chan o).sk0mem = s.sk0mem ∧
    (s.setSafe cls chan o).subIn = s.subIn ∧ (s.setSafe cls chan o).subOut = s.subOut ∧
    (s.setSafe cls chan o).cl = s.cl ∧ (s.setSafe cls chan o).isl = s.isl ∧ (s.setSafe cls chan o).adc = s.adc ∧
    (s.setSafe cls chan o).fan = s.fan ∧ (s.setSafe cls chan o).fio = s.fio ∧ (s.setSafe cls chan o).zb = s.zb ∧
    (s.setSafe cls chan o).pnl = s.pnl ∧ (s.setSafe cls chan o).hb = s.hb ∧ (s.setSafe cls chan o).boot = s.boot ∧
    (s.setSafe cls chan o).clk = s.clk ∧ (s.setSafe cls chan o).pdErrs = s.pdErrs ∧
    (s.setSafe cls chan o).ucal = s.ucal ∧ (s.setSafe cls chan o).frame = s.frame ∧ (s.setSafe cls chan o).le = s.le ∧
    (∀ a', (s.setSafe cls chan o).word a' = s.word a') ∧
    (∀ f' i' j', (s.setSafe cls chan o).get f' i' j' = s.get f' i' j') ∧
    (∀ f' i' j', (s.setSafe cls chan o).bit f' i' j' = s.bit f' i' j') :=
  ⟨rfl, rfl, rfl, rfl, rfl, rfl, rfl, rfl, rfl, rfl, rfl, rfl, rfl, rfl, rfl, rfl, rfl, rfl, rfl, rfl, rfl, rfl, rfl, rfl, rfl, rfl, rfl, rfl, rfl, rfl, rfl, rfl, rfl, rfl, rfl, rfl, rfl, rfl, rfl, rfl, rfl, rfl, rfl, rfl, fun _ => rfl, fun _ _ _ => rfl, fun _ _ _ => rfl⟩

@[simp] theorem State.setCmd_rest (s : State) (cls : ℕ) (chan : ℕ) (v : Word) :
    (s.setCmd cls chan v).pending = s.pending ∧ (s.setCmd cls chan v).space = s.space ∧
    (s.setCmd cls chan v).now = s.now ∧ (s.setCmd cls chan v).campusOff = s.campusOff ∧
    (s.setCmd cls chan v).bootAt = s.bootAt ∧ (s.setCmd cls chan v).free = s.free ∧
    (s.setCmd cls chan v).rdata = s.rdata ∧ (s.setCmd cls chan v).wres = s.wres ∧
    (s.setCmd cls chan v).banks = s.banks ∧ (s.setCmd cls chan v).log = s.log ∧ (s.setCmd cls chan v).ten = s.ten ∧
    (s.setCmd cls chan v).exLast = s.exLast ∧ (s.setCmd cls chan v).exAt = s.exAt ∧ (s.setCmd cls chan v).ic = s.ic ∧
    (s.setCmd cls chan v).broken = s.broken ∧ (s.setCmd cls chan v).pub = s.pub ∧
    (s.setCmd cls chan v).zoneEv = s.zoneEv ∧ (s.setCmd cls chan v).safe = s.safe ∧
    (s.setCmd cls chan v).safeLoaded = s.safeLoaded ∧ (s.setCmd cls chan v).safeUnrec = s.safeUnrec ∧
    (s.setCmd cls chan v).safeIrq = s.safeIrq ∧ (s.setCmd cls chan v).rtcOff = s.rtcOff ∧
    (s.setCmd cls chan v).rtcHeld = s.rtcHeld ∧ (s.setCmd cls chan v).cd = s.cd ∧ (s.setCmd cls chan v).cdg = s.cdg ∧
    (s.setCmd cls chan v).fwd = s.fwd ∧ (s.setCmd cls chan v).sk = s.sk ∧ (s.setCmd cls chan v).sk0mem = s.sk0mem ∧
    (s.setCmd cls chan v).subIn = s.subIn ∧ (s.setCmd cls chan v).subOut = s.subOut ∧
    (s.setCmd cls chan v).cl = s.cl ∧ (s.setCmd cls chan v).isl = s.isl ∧ (s.setCmd cls chan v).adc = s.adc ∧
    (s.setCmd cls chan v).fan = s.fan ∧ (s.setCmd cls chan v).fio = s.fio ∧ (s.setCmd cls chan v).zb = s.zb ∧
    (s.setCmd cls chan v).pnl = s.pnl ∧ (s.setCmd cls chan v).hb = s.hb ∧ (s.setCmd cls chan v).boot = s.boot ∧
    (s.setCmd cls chan v).clk = s.clk ∧ (s.setCmd cls chan v).pdErrs = s.pdErrs ∧
    (s.setCmd cls chan v).ucal = s.ucal ∧ (s.setCmd cls chan v).frame = s.frame ∧ (s.setCmd cls chan v).le = s.le ∧
    (∀ a', (s.setCmd cls chan v).word a' = s.word a') ∧
    (∀ f' i' j', (s.setCmd cls chan v).get f' i' j' = s.get f' i' j') ∧
    (∀ f' i' j', (s.setCmd cls chan v).bit f' i' j' = s.bit f' i' j') :=
  ⟨rfl, rfl, rfl, rfl, rfl, rfl, rfl, rfl, rfl, rfl, rfl, rfl, rfl, rfl, rfl, rfl, rfl, rfl, rfl, rfl, rfl, rfl, rfl, rfl, rfl, rfl, rfl, rfl, rfl, rfl, rfl, rfl, rfl, rfl, rfl, rfl, rfl, rfl, rfl, rfl, rfl, rfl, rfl, rfl, fun _ => rfl, fun _ _ _ => rfl, fun _ _ _ => rfl⟩

@[simp] theorem State.setCd_rest (s : State) (n : ℕ) (c : CdChan) :
    (s.setCd n c).pending = s.pending ∧ (s.setCd n c).space = s.space ∧ (s.setCd n c).now = s.now ∧
    (s.setCd n c).campusOff = s.campusOff ∧ (s.setCd n c).bootAt = s.bootAt ∧ (s.setCd n c).free = s.free ∧
    (s.setCd n c).rdata = s.rdata ∧ (s.setCd n c).wres = s.wres ∧ (s.setCd n c).banks = s.banks ∧
    (s.setCd n c).log = s.log ∧ (s.setCd n c).ten = s.ten ∧ (s.setCd n c).exLast = s.exLast ∧
    (s.setCd n c).exAt = s.exAt ∧ (s.setCd n c).ic = s.ic ∧ (s.setCd n c).broken = s.broken ∧
    (s.setCd n c).pub = s.pub ∧ (s.setCd n c).zoneEv = s.zoneEv ∧ (s.setCd n c).safe = s.safe ∧
    (s.setCd n c).safeLoaded = s.safeLoaded ∧ (s.setCd n c).safeUnrec = s.safeUnrec ∧
    (s.setCd n c).safeIrq = s.safeIrq ∧ (s.setCd n c).rtcOff = s.rtcOff ∧ (s.setCd n c).rtcHeld = s.rtcHeld ∧
    (s.setCd n c).cmds = s.cmds ∧ (s.setCd n c).cdg = s.cdg ∧ (s.setCd n c).fwd = s.fwd ∧ (s.setCd n c).sk = s.sk ∧
    (s.setCd n c).sk0mem = s.sk0mem ∧ (s.setCd n c).subIn = s.subIn ∧ (s.setCd n c).subOut = s.subOut ∧
    (s.setCd n c).cl = s.cl ∧ (s.setCd n c).isl = s.isl ∧ (s.setCd n c).adc = s.adc ∧ (s.setCd n c).fan = s.fan ∧
    (s.setCd n c).fio = s.fio ∧ (s.setCd n c).zb = s.zb ∧ (s.setCd n c).pnl = s.pnl ∧ (s.setCd n c).hb = s.hb ∧
    (s.setCd n c).boot = s.boot ∧ (s.setCd n c).clk = s.clk ∧ (s.setCd n c).pdErrs = s.pdErrs ∧
    (s.setCd n c).ucal = s.ucal ∧ (s.setCd n c).frame = s.frame ∧ (s.setCd n c).le = s.le ∧
    (∀ a', (s.setCd n c).word a' = s.word a') ∧ (∀ f' i' j', (s.setCd n c).get f' i' j' = s.get f' i' j') ∧
    (∀ f' i' j', (s.setCd n c).bit f' i' j' = s.bit f' i' j') :=
  ⟨rfl, rfl, rfl, rfl, rfl, rfl, rfl, rfl, rfl, rfl, rfl, rfl, rfl, rfl, rfl, rfl, rfl, rfl, rfl, rfl, rfl, rfl, rfl, rfl, rfl, rfl, rfl, rfl, rfl, rfl, rfl, rfl, rfl, rfl, rfl, rfl, rfl, rfl, rfl, rfl, rfl, rfl, rfl, rfl, fun _ => rfl, fun _ _ _ => rfl, fun _ _ _ => rfl⟩

@[simp] theorem State.setConv_rest (s : State) (k : ℕ) (c : AdcConv) :
    (s.setConv k c).pending = s.pending ∧ (s.setConv k c).space = s.space ∧ (s.setConv k c).now = s.now ∧
    (s.setConv k c).campusOff = s.campusOff ∧ (s.setConv k c).bootAt = s.bootAt ∧ (s.setConv k c).free = s.free ∧
    (s.setConv k c).rdata = s.rdata ∧ (s.setConv k c).wres = s.wres ∧ (s.setConv k c).banks = s.banks ∧
    (s.setConv k c).log = s.log ∧ (s.setConv k c).ten = s.ten ∧ (s.setConv k c).exLast = s.exLast ∧
    (s.setConv k c).exAt = s.exAt ∧ (s.setConv k c).ic = s.ic ∧ (s.setConv k c).broken = s.broken ∧
    (s.setConv k c).pub = s.pub ∧ (s.setConv k c).zoneEv = s.zoneEv ∧ (s.setConv k c).safe = s.safe ∧
    (s.setConv k c).safeLoaded = s.safeLoaded ∧ (s.setConv k c).safeUnrec = s.safeUnrec ∧
    (s.setConv k c).safeIrq = s.safeIrq ∧ (s.setConv k c).rtcOff = s.rtcOff ∧ (s.setConv k c).rtcHeld = s.rtcHeld ∧
    (s.setConv k c).cmds = s.cmds ∧ (s.setConv k c).cd = s.cd ∧ (s.setConv k c).cdg = s.cdg ∧
    (s.setConv k c).fwd = s.fwd ∧ (s.setConv k c).sk = s.sk ∧ (s.setConv k c).sk0mem = s.sk0mem ∧
    (s.setConv k c).subIn = s.subIn ∧ (s.setConv k c).subOut = s.subOut ∧ (s.setConv k c).cl = s.cl ∧
    (s.setConv k c).isl = s.isl ∧ (s.setConv k c).fan = s.fan ∧ (s.setConv k c).fio = s.fio ∧
    (s.setConv k c).zb = s.zb ∧ (s.setConv k c).pnl = s.pnl ∧ (s.setConv k c).hb = s.hb ∧
    (s.setConv k c).boot = s.boot ∧ (s.setConv k c).clk = s.clk ∧ (s.setConv k c).pdErrs = s.pdErrs ∧
    (s.setConv k c).ucal = s.ucal ∧ (s.setConv k c).frame = s.frame ∧ (s.setConv k c).le = s.le ∧
    (∀ a', (s.setConv k c).word a' = s.word a') ∧ (∀ f' i' j', (s.setConv k c).get f' i' j' = s.get f' i' j') ∧
    (∀ f' i' j', (s.setConv k c).bit f' i' j' = s.bit f' i' j') :=
  ⟨rfl, rfl, rfl, rfl, rfl, rfl, rfl, rfl, rfl, rfl, rfl, rfl, rfl, rfl, rfl, rfl, rfl, rfl, rfl, rfl, rfl, rfl, rfl, rfl, rfl, rfl, rfl, rfl, rfl, rfl, rfl, rfl, rfl, rfl, rfl, rfl, rfl, rfl, rfl, rfl, rfl, rfl, rfl, rfl, fun _ => rfl, fun _ _ _ => rfl, fun _ _ _ => rfl⟩

@[simp] theorem State.setBlk_rest (s : State) (b : ℕ) (x : List Byte) :
    (s.setBlk b x).pending = s.pending ∧ (s.setBlk b x).space = s.space ∧ (s.setBlk b x).now = s.now ∧
    (s.setBlk b x).campusOff = s.campusOff ∧ (s.setBlk b x).bootAt = s.bootAt ∧ (s.setBlk b x).free = s.free ∧
    (s.setBlk b x).rdata = s.rdata ∧ (s.setBlk b x).wres = s.wres ∧ (s.setBlk b x).banks = s.banks ∧
    (s.setBlk b x).ten = s.ten ∧ (s.setBlk b x).exLast = s.exLast ∧ (s.setBlk b x).exAt = s.exAt ∧
    (s.setBlk b x).ic = s.ic ∧ (s.setBlk b x).broken = s.broken ∧ (s.setBlk b x).pub = s.pub ∧
    (s.setBlk b x).zoneEv = s.zoneEv ∧ (s.setBlk b x).safe = s.safe ∧ (s.setBlk b x).safeLoaded = s.safeLoaded ∧
    (s.setBlk b x).safeUnrec = s.safeUnrec ∧ (s.setBlk b x).safeIrq = s.safeIrq ∧ (s.setBlk b x).rtcOff = s.rtcOff ∧
    (s.setBlk b x).rtcHeld = s.rtcHeld ∧ (s.setBlk b x).cmds = s.cmds ∧ (s.setBlk b x).cd = s.cd ∧
    (s.setBlk b x).cdg = s.cdg ∧ (s.setBlk b x).fwd = s.fwd ∧ (s.setBlk b x).sk = s.sk ∧
    (s.setBlk b x).sk0mem = s.sk0mem ∧ (s.setBlk b x).subIn = s.subIn ∧ (s.setBlk b x).subOut = s.subOut ∧
    (s.setBlk b x).cl = s.cl ∧ (s.setBlk b x).isl = s.isl ∧ (s.setBlk b x).adc = s.adc ∧ (s.setBlk b x).fan = s.fan ∧
    (s.setBlk b x).fio = s.fio ∧ (s.setBlk b x).zb = s.zb ∧ (s.setBlk b x).pnl = s.pnl ∧ (s.setBlk b x).hb = s.hb ∧
    (s.setBlk b x).boot = s.boot ∧ (s.setBlk b x).clk = s.clk ∧ (s.setBlk b x).pdErrs = s.pdErrs ∧
    (s.setBlk b x).ucal = s.ucal ∧ (s.setBlk b x).frame = s.frame ∧ (s.setBlk b x).le = s.le ∧
    (∀ a', (s.setBlk b x).word a' = s.word a') ∧ (∀ f' i' j', (s.setBlk b x).get f' i' j' = s.get f' i' j') ∧
    (∀ f' i' j', (s.setBlk b x).bit f' i' j' = s.bit f' i' j') :=
  ⟨rfl, rfl, rfl, rfl, rfl, rfl, rfl, rfl, rfl, rfl, rfl, rfl, rfl, rfl, rfl, rfl, rfl, rfl, rfl, rfl, rfl, rfl, rfl, rfl, rfl, rfl, rfl, rfl, rfl, rfl, rfl, rfl, rfl, rfl, rfl, rfl, rfl, rfl, rfl, rfl, rfl, rfl, rfl, rfl, fun _ => rfl, fun _ _ _ => rfl, fun _ _ _ => rfl⟩

@[simp] theorem State.setPnl_rest (s : State) (x : PnlState) :
    (s.setPnl x).pending = s.pending ∧ (s.setPnl x).space = s.space ∧ (s.setPnl x).now = s.now ∧
    (s.setPnl x).campusOff = s.campusOff ∧ (s.setPnl x).bootAt = s.bootAt ∧ (s.setPnl x).free = s.free ∧
    (s.setPnl x).rdata = s.rdata ∧ (s.setPnl x).wres = s.wres ∧ (s.setPnl x).banks = s.banks ∧
    (s.setPnl x).log = s.log ∧ (s.setPnl x).ten = s.ten ∧ (s.setPnl x).exLast = s.exLast ∧
    (s.setPnl x).exAt = s.exAt ∧ (s.setPnl x).ic = s.ic ∧ (s.setPnl x).broken = s.broken ∧ (s.setPnl x).pub = s.pub ∧
    (s.setPnl x).zoneEv = s.zoneEv ∧ (s.setPnl x).safe = s.safe ∧ (s.setPnl x).safeLoaded = s.safeLoaded ∧
    (s.setPnl x).safeUnrec = s.safeUnrec ∧ (s.setPnl x).safeIrq = s.safeIrq ∧ (s.setPnl x).rtcOff = s.rtcOff ∧
    (s.setPnl x).rtcHeld = s.rtcHeld ∧ (s.setPnl x).cmds = s.cmds ∧ (s.setPnl x).cd = s.cd ∧
    (s.setPnl x).cdg = s.cdg ∧ (s.setPnl x).fwd = s.fwd ∧ (s.setPnl x).sk = s.sk ∧ (s.setPnl x).sk0mem = s.sk0mem ∧
    (s.setPnl x).subIn = s.subIn ∧ (s.setPnl x).subOut = s.subOut ∧ (s.setPnl x).cl = s.cl ∧
    (s.setPnl x).isl = s.isl ∧ (s.setPnl x).adc = s.adc ∧ (s.setPnl x).fan = s.fan ∧ (s.setPnl x).fio = s.fio ∧
    (s.setPnl x).zb = s.zb ∧ (s.setPnl x).hb = s.hb ∧ (s.setPnl x).boot = s.boot ∧ (s.setPnl x).clk = s.clk ∧
    (s.setPnl x).pdErrs = s.pdErrs ∧ (s.setPnl x).ucal = s.ucal ∧ (s.setPnl x).frame = s.frame ∧
    (s.setPnl x).le = s.le ∧ (∀ a', (s.setPnl x).word a' = s.word a') ∧
    (∀ f' i' j', (s.setPnl x).get f' i' j' = s.get f' i' j') ∧
    (∀ f' i' j', (s.setPnl x).bit f' i' j' = s.bit f' i' j') :=
  ⟨rfl, rfl, rfl, rfl, rfl, rfl, rfl, rfl, rfl, rfl, rfl, rfl, rfl, rfl, rfl, rfl, rfl, rfl, rfl, rfl, rfl, rfl, rfl, rfl, rfl, rfl, rfl, rfl, rfl, rfl, rfl, rfl, rfl, rfl, rfl, rfl, rfl, rfl, rfl, rfl, rfl, rfl, rfl, rfl, fun _ => rfl, fun _ _ _ => rfl, fun _ _ _ => rfl⟩

@[simp] theorem State.setPub_rest (s : State) (i : ℕ) (x : PubState) :
    (s.setPub i x).pending = s.pending ∧ (s.setPub i x).space = s.space ∧ (s.setPub i x).now = s.now ∧
    (s.setPub i x).campusOff = s.campusOff ∧ (s.setPub i x).bootAt = s.bootAt ∧ (s.setPub i x).free = s.free ∧
    (s.setPub i x).rdata = s.rdata ∧ (s.setPub i x).wres = s.wres ∧ (s.setPub i x).banks = s.banks ∧
    (s.setPub i x).log = s.log ∧ (s.setPub i x).ten = s.ten ∧ (s.setPub i x).exLast = s.exLast ∧
    (s.setPub i x).exAt = s.exAt ∧ (s.setPub i x).ic = s.ic ∧ (s.setPub i x).broken = s.broken ∧
    (s.setPub i x).zoneEv = s.zoneEv ∧ (s.setPub i x).safe = s.safe ∧ (s.setPub i x).safeLoaded = s.safeLoaded ∧
    (s.setPub i x).safeUnrec = s.safeUnrec ∧ (s.setPub i x).safeIrq = s.safeIrq ∧ (s.setPub i x).rtcOff = s.rtcOff ∧
    (s.setPub i x).rtcHeld = s.rtcHeld ∧ (s.setPub i x).cmds = s.cmds ∧ (s.setPub i x).cd = s.cd ∧
    (s.setPub i x).cdg = s.cdg ∧ (s.setPub i x).fwd = s.fwd ∧ (s.setPub i x).sk = s.sk ∧
    (s.setPub i x).sk0mem = s.sk0mem ∧ (s.setPub i x).subIn = s.subIn ∧ (s.setPub i x).subOut = s.subOut ∧
    (s.setPub i x).cl = s.cl ∧ (s.setPub i x).isl = s.isl ∧ (s.setPub i x).adc = s.adc ∧ (s.setPub i x).fan = s.fan ∧
    (s.setPub i x).fio = s.fio ∧ (s.setPub i x).zb = s.zb ∧ (s.setPub i x).pnl = s.pnl ∧ (s.setPub i x).hb = s.hb ∧
    (s.setPub i x).boot = s.boot ∧ (s.setPub i x).clk = s.clk ∧ (s.setPub i x).pdErrs = s.pdErrs ∧
    (s.setPub i x).ucal = s.ucal ∧ (s.setPub i x).frame = s.frame ∧ (s.setPub i x).le = s.le ∧
    (∀ a', (s.setPub i x).word a' = s.word a') ∧ (∀ f' i' j', (s.setPub i x).get f' i' j' = s.get f' i' j') ∧
    (∀ f' i' j', (s.setPub i x).bit f' i' j' = s.bit f' i' j') :=
  ⟨rfl, rfl, rfl, rfl, rfl, rfl, rfl, rfl, rfl, rfl, rfl, rfl, rfl, rfl, rfl, rfl, rfl, rfl, rfl, rfl, rfl, rfl, rfl, rfl, rfl, rfl, rfl, rfl, rfl, rfl, rfl, rfl, rfl, rfl, rfl, rfl, rfl, rfl, rfl, rfl, rfl, rfl, rfl, rfl, fun _ => rfl, fun _ _ _ => rfl, fun _ _ _ => rfl⟩

@[simp] theorem State.setLoop_rest (s : State) (n : ℕ) (l : LoopSt) :
    (s.setLoop n l).pending = s.pending ∧ (s.setLoop n l).space = s.space ∧ (s.setLoop n l).now = s.now ∧
    (s.setLoop n l).campusOff = s.campusOff ∧ (s.setLoop n l).bootAt = s.bootAt ∧ (s.setLoop n l).free = s.free ∧
    (s.setLoop n l).rdata = s.rdata ∧ (s.setLoop n l).wres = s.wres ∧ (s.setLoop n l).banks = s.banks ∧
    (s.setLoop n l).log = s.log ∧ (s.setLoop n l).ten = s.ten ∧ (s.setLoop n l).exLast = s.exLast ∧
    (s.setLoop n l).exAt = s.exAt ∧ (s.setLoop n l).ic = s.ic ∧ (s.setLoop n l).broken = s.broken ∧
    (s.setLoop n l).pub = s.pub ∧ (s.setLoop n l).zoneEv = s.zoneEv ∧ (s.setLoop n l).safe = s.safe ∧
    (s.setLoop n l).safeLoaded = s.safeLoaded ∧ (s.setLoop n l).safeUnrec = s.safeUnrec ∧
    (s.setLoop n l).safeIrq = s.safeIrq ∧ (s.setLoop n l).rtcOff = s.rtcOff ∧ (s.setLoop n l).rtcHeld = s.rtcHeld ∧
    (s.setLoop n l).cmds = s.cmds ∧ (s.setLoop n l).cd = s.cd ∧ (s.setLoop n l).cdg = s.cdg ∧
    (s.setLoop n l).fwd = s.fwd ∧ (s.setLoop n l).sk = s.sk ∧ (s.setLoop n l).sk0mem = s.sk0mem ∧
    (s.setLoop n l).subIn = s.subIn ∧ (s.setLoop n l).subOut = s.subOut ∧ (s.setLoop n l).cl = s.cl ∧
    (s.setLoop n l).isl = s.isl ∧ (s.setLoop n l).adc = s.adc ∧ (s.setLoop n l).fan = s.fan ∧
    (s.setLoop n l).fio = s.fio ∧ (s.setLoop n l).zb = s.zb ∧ (s.setLoop n l).pnl = s.pnl ∧
    (s.setLoop n l).hb = s.hb ∧ (s.setLoop n l).boot = s.boot ∧ (s.setLoop n l).clk = s.clk ∧
    (s.setLoop n l).pdErrs = s.pdErrs ∧ (s.setLoop n l).ucal = s.ucal ∧ (s.setLoop n l).frame = s.frame ∧
    (∀ a', (s.setLoop n l).word a' = s.word a') ∧ (∀ f' i' j', (s.setLoop n l).get f' i' j' = s.get f' i' j') ∧
    (∀ f' i' j', (s.setLoop n l).bit f' i' j' = s.bit f' i' j') :=
  ⟨rfl, rfl, rfl, rfl, rfl, rfl, rfl, rfl, rfl, rfl, rfl, rfl, rfl, rfl, rfl, rfl, rfl, rfl, rfl, rfl, rfl, rfl, rfl, rfl, rfl, rfl, rfl, rfl, rfl, rfl, rfl, rfl, rfl, rfl, rfl, rfl, rfl, rfl, rfl, rfl, rfl, rfl, rfl, rfl, fun _ => rfl, fun _ _ _ => rfl, fun _ _ _ => rfl⟩

@[simp] theorem State.setFifo_rest (s : State) (f : ℕ) (l : List LeOp) :
    (s.setFifo f l).pending = s.pending ∧ (s.setFifo f l).space = s.space ∧ (s.setFifo f l).now = s.now ∧
    (s.setFifo f l).campusOff = s.campusOff ∧ (s.setFifo f l).bootAt = s.bootAt ∧ (s.setFifo f l).free = s.free ∧
    (s.setFifo f l).rdata = s.rdata ∧ (s.setFifo f l).wres = s.wres ∧ (s.setFifo f l).banks = s.banks ∧
    (s.setFifo f l).log = s.log ∧ (s.setFifo f l).ten = s.ten ∧ (s.setFifo f l).exLast = s.exLast ∧
    (s.setFifo f l).exAt = s.exAt ∧ (s.setFifo f l).ic = s.ic ∧ (s.setFifo f l).broken = s.broken ∧
    (s.setFifo f l).pub = s.pub ∧ (s.setFifo f l).zoneEv = s.zoneEv ∧ (s.setFifo f l).safe = s.safe ∧
    (s.setFifo f l).safeLoaded = s.safeLoaded ∧ (s.setFifo f l).safeUnrec = s.safeUnrec ∧
    (s.setFifo f l).safeIrq = s.safeIrq ∧ (s.setFifo f l).rtcOff = s.rtcOff ∧ (s.setFifo f l).rtcHeld = s.rtcHeld ∧
    (s.setFifo f l).cmds = s.cmds ∧ (s.setFifo f l).cd = s.cd ∧ (s.setFifo f l).cdg = s.cdg ∧
    (s.setFifo f l).fwd = s.fwd ∧ (s.setFifo f l).sk = s.sk ∧ (s.setFifo f l).sk0mem = s.sk0mem ∧
    (s.setFifo f l).subIn = s.subIn ∧ (s.setFifo f l).subOut = s.subOut ∧ (s.setFifo f l).cl = s.cl ∧
    (s.setFifo f l).isl = s.isl ∧ (s.setFifo f l).adc = s.adc ∧ (s.setFifo f l).fan = s.fan ∧
    (s.setFifo f l).fio = s.fio ∧ (s.setFifo f l).zb = s.zb ∧ (s.setFifo f l).pnl = s.pnl ∧
    (s.setFifo f l).hb = s.hb ∧ (s.setFifo f l).boot = s.boot ∧ (s.setFifo f l).clk = s.clk ∧
    (s.setFifo f l).pdErrs = s.pdErrs ∧ (s.setFifo f l).ucal = s.ucal ∧ (s.setFifo f l).frame = s.frame ∧
    (∀ a', (s.setFifo f l).word a' = s.word a') ∧ (∀ f' i' j', (s.setFifo f l).get f' i' j' = s.get f' i' j') ∧
    (∀ f' i' j', (s.setFifo f l).bit f' i' j' = s.bit f' i' j') :=
  ⟨rfl, rfl, rfl, rfl, rfl, rfl, rfl, rfl, rfl, rfl, rfl, rfl, rfl, rfl, rfl, rfl, rfl, rfl, rfl, rfl, rfl, rfl, rfl, rfl, rfl, rfl, rfl, rfl, rfl, rfl, rfl, rfl, rfl, rfl, rfl, rfl, rfl, rfl, rfl, rfl, rfl, rfl, rfl, rfl, fun _ => rfl, fun _ _ _ => rfl, fun _ _ _ => rfl⟩

@[simp] theorem State.setBoot_rest (s : State) (b : BootState) :
    (s.setBoot b).pending = s.pending ∧ (s.setBoot b).space = s.space ∧ (s.setBoot b).now = s.now ∧
    (s.setBoot b).campusOff = s.campusOff ∧ (s.setBoot b).bootAt = s.bootAt ∧ (s.setBoot b).free = s.free ∧
    (s.setBoot b).rdata = s.rdata ∧ (s.setBoot b).wres = s.wres ∧ (s.setBoot b).banks = s.banks ∧
    (s.setBoot b).log = s.log ∧ (s.setBoot b).ten = s.ten ∧ (s.setBoot b).exLast = s.exLast ∧
    (s.setBoot b).exAt = s.exAt ∧ (s.setBoot b).ic = s.ic ∧ (s.setBoot b).broken = s.broken ∧
    (s.setBoot b).pub = s.pub ∧ (s.setBoot b).zoneEv = s.zoneEv ∧ (s.setBoot b).safe = s.safe ∧
    (s.setBoot b).safeLoaded = s.safeLoaded ∧ (s.setBoot b).safeUnrec = s.safeUnrec ∧
    (s.setBoot b).safeIrq = s.safeIrq ∧ (s.setBoot b).rtcOff = s.rtcOff ∧ (s.setBoot b).rtcHeld = s.rtcHeld ∧
    (s.setBoot b).cmds = s.cmds ∧ (s.setBoot b).cd = s.cd ∧ (s.setBoot b).cdg = s.cdg ∧ (s.setBoot b).fwd = s.fwd ∧
    (s.setBoot b).sk = s.sk ∧ (s.setBoot b).sk0mem = s.sk0mem ∧ (s.setBoot b).subIn = s.subIn ∧
    (s.setBoot b).subOut = s.subOut ∧ (s.setBoot b).cl = s.cl ∧ (s.setBoot b).isl = s.isl ∧
    (s.setBoot b).adc = s.adc ∧ (s.setBoot b).fan = s.fan ∧ (s.setBoot b).fio = s.fio ∧ (s.setBoot b).zb = s.zb ∧
    (s.setBoot b).pnl = s.pnl ∧ (s.setBoot b).hb = s.hb ∧ (s.setBoot b).clk = s.clk ∧
    (s.setBoot b).pdErrs = s.pdErrs ∧ (s.setBoot b).ucal = s.ucal ∧ (s.setBoot b).frame = s.frame ∧
    (s.setBoot b).le = s.le ∧ (∀ a', (s.setBoot b).word a' = s.word a') ∧
    (∀ f' i' j', (s.setBoot b).get f' i' j' = s.get f' i' j') ∧
    (∀ f' i' j', (s.setBoot b).bit f' i' j' = s.bit f' i' j') :=
  ⟨rfl, rfl, rfl, rfl, rfl, rfl, rfl, rfl, rfl, rfl, rfl, rfl, rfl, rfl, rfl, rfl, rfl, rfl, rfl, rfl, rfl, rfl, rfl, rfl, rfl, rfl, rfl, rfl, rfl, rfl, rfl, rfl, rfl, rfl, rfl, rfl, rfl, rfl, rfl, rfl, rfl, rfl, rfl, rfl, fun _ => rfl, fun _ _ _ => rfl, fun _ _ _ => rfl⟩

@[simp] theorem State.setFlashPage_rest (s : State) (p : ℕ) (l : List Byte) :
    (s.setFlashPage p l).pending = s.pending ∧ (s.setFlashPage p l).space = s.space ∧
    (s.setFlashPage p l).now = s.now ∧ (s.setFlashPage p l).campusOff = s.campusOff ∧
    (s.setFlashPage p l).bootAt = s.bootAt ∧ (s.setFlashPage p l).free = s.free ∧
    (s.setFlashPage p l).rdata = s.rdata ∧ (s.setFlashPage p l).wres = s.wres ∧ (s.setFlashPage p l).banks = s.banks ∧
    (s.setFlashPage p l).log = s.log ∧ (s.setFlashPage p l).ten = s.ten ∧ (s.setFlashPage p l).exLast = s.exLast ∧
    (s.setFlashPage p l).exAt = s.exAt ∧ (s.setFlashPage p l).ic = s.ic ∧ (s.setFlashPage p l).broken = s.broken ∧
    (s.setFlashPage p l).pub = s.pub ∧ (s.setFlashPage p l).zoneEv = s.zoneEv ∧ (s.setFlashPage p l).safe = s.safe ∧
    (s.setFlashPage p l).safeLoaded = s.safeLoaded ∧ (s.setFlashPage p l).safeUnrec = s.safeUnrec ∧
    (s.setFlashPage p l).safeIrq = s.safeIrq ∧ (s.setFlashPage p l).rtcOff = s.rtcOff ∧
    (s.setFlashPage p l).rtcHeld = s.rtcHeld ∧ (s.setFlashPage p l).cmds = s.cmds ∧ (s.setFlashPage p l).cd = s.cd ∧
    (s.setFlashPage p l).cdg = s.cdg ∧ (s.setFlashPage p l).fwd = s.fwd ∧ (s.setFlashPage p l).sk = s.sk ∧
    (s.setFlashPage p l).sk0mem = s.sk0mem ∧ (s.setFlashPage p l).subIn = s.subIn ∧
    (s.setFlashPage p l).subOut = s.subOut ∧ (s.setFlashPage p l).cl = s.cl ∧ (s.setFlashPage p l).isl = s.isl ∧
    (s.setFlashPage p l).adc = s.adc ∧ (s.setFlashPage p l).fan = s.fan ∧ (s.setFlashPage p l).fio = s.fio ∧
    (s.setFlashPage p l).zb = s.zb ∧ (s.setFlashPage p l).pnl = s.pnl ∧ (s.setFlashPage p l).hb = s.hb ∧
    (s.setFlashPage p l).clk = s.clk ∧ (s.setFlashPage p l).pdErrs = s.pdErrs ∧ (s.setFlashPage p l).ucal = s.ucal ∧
    (s.setFlashPage p l).frame = s.frame ∧ (s.setFlashPage p l).le = s.le ∧
    (∀ a', (s.setFlashPage p l).word a' = s.word a') ∧
    (∀ f' i' j', (s.setFlashPage p l).get f' i' j' = s.get f' i' j') ∧
    (∀ f' i' j', (s.setFlashPage p l).bit f' i' j' = s.bit f' i' j') :=
  ⟨rfl, rfl, rfl, rfl, rfl, rfl, rfl, rfl, rfl, rfl, rfl, rfl, rfl, rfl, rfl, rfl, rfl, rfl, rfl, rfl, rfl, rfl, rfl, rfl, rfl, rfl, rfl, rfl, rfl, rfl, rfl, rfl, rfl, rfl, rfl, rfl, rfl, rfl, rfl, rfl, rfl, rfl, rfl, rfl, fun _ => rfl, fun _ _ _ => rfl, fun _ _ _ => rfl⟩

@[simp] theorem State.setFan_rest (s : State) (n : ℕ) (c : FanChan) :
    (s.setFan n c).pending = s.pending ∧ (s.setFan n c).space = s.space ∧ (s.setFan n c).now = s.now ∧
    (s.setFan n c).campusOff = s.campusOff ∧ (s.setFan n c).bootAt = s.bootAt ∧ (s.setFan n c).free = s.free ∧
    (s.setFan n c).rdata = s.rdata ∧ (s.setFan n c).wres = s.wres ∧ (s.setFan n c).banks = s.banks ∧
    (s.setFan n c).log = s.log ∧ (s.setFan n c).ten = s.ten ∧ (s.setFan n c).exLast = s.exLast ∧
    (s.setFan n c).exAt = s.exAt ∧ (s.setFan n c).ic = s.ic ∧ (s.setFan n c).broken = s.broken ∧
    (s.setFan n c).pub = s.pub ∧ (s.setFan n c).zoneEv = s.zoneEv ∧ (s.setFan n c).safe = s.safe ∧
    (s.setFan n c).safeLoaded = s.safeLoaded ∧ (s.setFan n c).safeUnrec = s.safeUnrec ∧
    (s.setFan n c).safeIrq = s.safeIrq ∧ (s.setFan n c).rtcOff = s.rtcOff ∧ (s.setFan n c).rtcHeld = s.rtcHeld ∧
    (s.setFan n c).cmds = s.cmds ∧ (s.setFan n c).cd = s.cd ∧ (s.setFan n c).cdg = s.cdg ∧
    (s.setFan n c).fwd = s.fwd ∧ (s.setFan n c).sk = s.sk ∧ (s.setFan n c).sk0mem = s.sk0mem ∧
    (s.setFan n c).subIn = s.subIn ∧ (s.setFan n c).subOut = s.subOut ∧ (s.setFan n c).cl = s.cl ∧
    (s.setFan n c).isl = s.isl ∧ (s.setFan n c).adc = s.adc ∧ (s.setFan n c).fio = s.fio ∧ (s.setFan n c).zb = s.zb ∧
    (s.setFan n c).pnl = s.pnl ∧ (s.setFan n c).hb = s.hb ∧ (s.setFan n c).boot = s.boot ∧
    (s.setFan n c).clk = s.clk ∧ (s.setFan n c).pdErrs = s.pdErrs ∧ (s.setFan n c).ucal = s.ucal ∧
    (s.setFan n c).frame = s.frame ∧ (s.setFan n c).le = s.le ∧ (∀ a', (s.setFan n c).word a' = s.word a') ∧
    (∀ f' i' j', (s.setFan n c).get f' i' j' = s.get f' i' j') ∧
    (∀ f' i' j', (s.setFan n c).bit f' i' j' = s.bit f' i' j') :=
  ⟨rfl, rfl, rfl, rfl, rfl, rfl, rfl, rfl, rfl, rfl, rfl, rfl, rfl, rfl, rfl, rfl, rfl, rfl, rfl, rfl, rfl, rfl, rfl, rfl, rfl, rfl, rfl, rfl, rfl, rfl, rfl, rfl, rfl, rfl, rfl, rfl, rfl, rfl, rfl, rfl, rfl, rfl, rfl, rfl, fun _ => rfl, fun _ _ _ => rfl, fun _ _ _ => rfl⟩

@[simp] theorem State.setFanGrp_rest (s : State) (g : ℕ) (x : FanGroup) :
    (s.setFanGrp g x).pending = s.pending ∧ (s.setFanGrp g x).space = s.space ∧ (s.setFanGrp g x).now = s.now ∧
    (s.setFanGrp g x).campusOff = s.campusOff ∧ (s.setFanGrp g x).bootAt = s.bootAt ∧
    (s.setFanGrp g x).free = s.free ∧ (s.setFanGrp g x).rdata = s.rdata ∧ (s.setFanGrp g x).wres = s.wres ∧
    (s.setFanGrp g x).banks = s.banks ∧ (s.setFanGrp g x).log = s.log ∧ (s.setFanGrp g x).ten = s.ten ∧
    (s.setFanGrp g x).exLast = s.exLast ∧ (s.setFanGrp g x).exAt = s.exAt ∧ (s.setFanGrp g x).ic = s.ic ∧
    (s.setFanGrp g x).broken = s.broken ∧ (s.setFanGrp g x).pub = s.pub ∧ (s.setFanGrp g x).zoneEv = s.zoneEv ∧
    (s.setFanGrp g x).safe = s.safe ∧ (s.setFanGrp g x).safeLoaded = s.safeLoaded ∧
    (s.setFanGrp g x).safeUnrec = s.safeUnrec ∧ (s.setFanGrp g x).safeIrq = s.safeIrq ∧
    (s.setFanGrp g x).rtcOff = s.rtcOff ∧ (s.setFanGrp g x).rtcHeld = s.rtcHeld ∧ (s.setFanGrp g x).cmds = s.cmds ∧
    (s.setFanGrp g x).cd = s.cd ∧ (s.setFanGrp g x).cdg = s.cdg ∧ (s.setFanGrp g x).fwd = s.fwd ∧
    (s.setFanGrp g x).sk = s.sk ∧ (s.setFanGrp g x).sk0mem = s.sk0mem ∧ (s.setFanGrp g x).subIn = s.subIn ∧
    (s.setFanGrp g x).subOut = s.subOut ∧ (s.setFanGrp g x).cl = s.cl ∧ (s.setFanGrp g x).isl = s.isl ∧
    (s.setFanGrp g x).adc = s.adc ∧ (s.setFanGrp g x).fio = s.fio ∧ (s.setFanGrp g x).zb = s.zb ∧
    (s.setFanGrp g x).pnl = s.pnl ∧ (s.setFanGrp g x).hb = s.hb ∧ (s.setFanGrp g x).boot = s.boot ∧
    (s.setFanGrp g x).clk = s.clk ∧ (s.setFanGrp g x).pdErrs = s.pdErrs ∧ (s.setFanGrp g x).ucal = s.ucal ∧
    (s.setFanGrp g x).frame = s.frame ∧ (s.setFanGrp g x).le = s.le ∧ (∀ a', (s.setFanGrp g x).word a' = s.word a') ∧
    (∀ f' i' j', (s.setFanGrp g x).get f' i' j' = s.get f' i' j') ∧
    (∀ f' i' j', (s.setFanGrp g x).bit f' i' j' = s.bit f' i' j') :=
  ⟨rfl, rfl, rfl, rfl, rfl, rfl, rfl, rfl, rfl, rfl, rfl, rfl, rfl, rfl, rfl, rfl, rfl, rfl, rfl, rfl, rfl, rfl, rfl, rfl, rfl, rfl, rfl, rfl, rfl, rfl, rfl, rfl, rfl, rfl, rfl, rfl, rfl, rfl, rfl, rfl, rfl, rfl, rfl, rfl, fun _ => rfl, fun _ _ _ => rfl, fun _ _ _ => rfl⟩

@[simp] theorem State.setFio_rest (s : State) (x : FioState) :
    (s.setFio x).pending = s.pending ∧ (s.setFio x).space = s.space ∧ (s.setFio x).now = s.now ∧
    (s.setFio x).campusOff = s.campusOff ∧ (s.setFio x).bootAt = s.bootAt ∧ (s.setFio x).free = s.free ∧
    (s.setFio x).rdata = s.rdata ∧ (s.setFio x).wres = s.wres ∧ (s.setFio x).banks = s.banks ∧
    (s.setFio x).log = s.log ∧ (s.setFio x).ten = s.ten ∧ (s.setFio x).exLast = s.exLast ∧
    (s.setFio x).exAt = s.exAt ∧ (s.setFio x).ic = s.ic ∧ (s.setFio x).broken = s.broken ∧ (s.setFio x).pub = s.pub ∧
    (s.setFio x).zoneEv = s.zoneEv ∧ (s.setFio x).safe = s.safe ∧ (s.setFio x).safeLoaded = s.safeLoaded ∧
    (s.setFio x).safeUnrec = s.safeUnrec ∧ (s.setFio x).safeIrq = s.safeIrq ∧ (s.setFio x).rtcOff = s.rtcOff ∧
    (s.setFio x).rtcHeld = s.rtcHeld ∧ (s.setFio x).cmds = s.cmds ∧ (s.setFio x).cd = s.cd ∧
    (s.setFio x).cdg = s.cdg ∧ (s.setFio x).fwd = s.fwd ∧ (s.setFio x).sk = s.sk ∧ (s.setFio x).sk0mem = s.sk0mem ∧
    (s.setFio x).subIn = s.subIn ∧ (s.setFio x).subOut = s.subOut ∧ (s.setFio x).cl = s.cl ∧
    (s.setFio x).isl = s.isl ∧ (s.setFio x).adc = s.adc ∧ (s.setFio x).fan = s.fan ∧ (s.setFio x).zb = s.zb ∧
    (s.setFio x).pnl = s.pnl ∧ (s.setFio x).hb = s.hb ∧ (s.setFio x).boot = s.boot ∧ (s.setFio x).clk = s.clk ∧
    (s.setFio x).pdErrs = s.pdErrs ∧ (s.setFio x).ucal = s.ucal ∧ (s.setFio x).frame = s.frame ∧
    (s.setFio x).le = s.le ∧ (∀ a', (s.setFio x).word a' = s.word a') ∧
    (∀ f' i' j', (s.setFio x).get f' i' j' = s.get f' i' j') ∧
    (∀ f' i' j', (s.setFio x).bit f' i' j' = s.bit f' i' j') :=
  ⟨rfl, rfl, rfl, rfl, rfl, rfl, rfl, rfl, rfl, rfl, rfl, rfl, rfl, rfl, rfl, rfl, rfl, rfl, rfl, rfl, rfl, rfl, rfl, rfl, rfl, rfl, rfl, rfl, rfl, rfl, rfl, rfl, rfl, rfl, rfl, rfl, rfl, rfl, rfl, rfl, rfl, rfl, rfl, rfl, fun _ => rfl, fun _ _ _ => rfl, fun _ _ _ => rfl⟩

@[simp] theorem State.setDo_rest (s : State) (n : ℕ) (d : DoOut) :
    (s.setDo n d).pending = s.pending ∧ (s.setDo n d).space = s.space ∧ (s.setDo n d).now = s.now ∧
    (s.setDo n d).campusOff = s.campusOff ∧ (s.setDo n d).bootAt = s.bootAt ∧ (s.setDo n d).free = s.free ∧
    (s.setDo n d).rdata = s.rdata ∧ (s.setDo n d).wres = s.wres ∧ (s.setDo n d).banks = s.banks ∧
    (s.setDo n d).log = s.log ∧ (s.setDo n d).ten = s.ten ∧ (s.setDo n d).exLast = s.exLast ∧
    (s.setDo n d).exAt = s.exAt ∧ (s.setDo n d).ic = s.ic ∧ (s.setDo n d).broken = s.broken ∧
    (s.setDo n d).pub = s.pub ∧ (s.setDo n d).zoneEv = s.zoneEv ∧ (s.setDo n d).safe = s.safe ∧
    (s.setDo n d).safeLoaded = s.safeLoaded ∧ (s.setDo n d).safeUnrec = s.safeUnrec ∧
    (s.setDo n d).safeIrq = s.safeIrq ∧ (s.setDo n d).rtcOff = s.rtcOff ∧ (s.setDo n d).rtcHeld = s.rtcHeld ∧
    (s.setDo n d).cmds = s.cmds ∧ (s.setDo n d).cd = s.cd ∧ (s.setDo n d).cdg = s.cdg ∧ (s.setDo n d).fwd = s.fwd ∧
    (s.setDo n d).sk = s.sk ∧ (s.setDo n d).sk0mem = s.sk0mem ∧ (s.setDo n d).subIn = s.subIn ∧
    (s.setDo n d).subOut = s.subOut ∧ (s.setDo n d).cl = s.cl ∧ (s.setDo n d).isl = s.isl ∧
    (s.setDo n d).adc = s.adc ∧ (s.setDo n d).fan = s.fan ∧ (s.setDo n d).zb = s.zb ∧ (s.setDo n d).pnl = s.pnl ∧
    (s.setDo n d).hb = s.hb ∧ (s.setDo n d).boot = s.boot ∧ (s.setDo n d).clk = s.clk ∧
    (s.setDo n d).pdErrs = s.pdErrs ∧ (s.setDo n d).ucal = s.ucal ∧ (s.setDo n d).frame = s.frame ∧
    (s.setDo n d).le = s.le ∧ (∀ a', (s.setDo n d).word a' = s.word a') ∧
    (∀ f' i' j', (s.setDo n d).get f' i' j' = s.get f' i' j') ∧
    (∀ f' i' j', (s.setDo n d).bit f' i' j' = s.bit f' i' j') :=
  ⟨rfl, rfl, rfl, rfl, rfl, rfl, rfl, rfl, rfl, rfl, rfl, rfl, rfl, rfl, rfl, rfl, rfl, rfl, rfl, rfl, rfl, rfl, rfl, rfl, rfl, rfl, rfl, rfl, rfl, rfl, rfl, rfl, rfl, rfl, rfl, rfl, rfl, rfl, rfl, rfl, rfl, rfl, rfl, rfl, fun _ => rfl, fun _ _ _ => rfl, fun _ _ _ => rfl⟩

@[simp] theorem State.setSeg_rest (s : State) (z : ℕ) (x : ZbSeg) :
    (s.setSeg z x).pending = s.pending ∧ (s.setSeg z x).space = s.space ∧ (s.setSeg z x).now = s.now ∧
    (s.setSeg z x).campusOff = s.campusOff ∧ (s.setSeg z x).bootAt = s.bootAt ∧ (s.setSeg z x).free = s.free ∧
    (s.setSeg z x).rdata = s.rdata ∧ (s.setSeg z x).wres = s.wres ∧ (s.setSeg z x).banks = s.banks ∧
    (s.setSeg z x).log = s.log ∧ (s.setSeg z x).ten = s.ten ∧ (s.setSeg z x).exLast = s.exLast ∧
    (s.setSeg z x).exAt = s.exAt ∧ (s.setSeg z x).ic = s.ic ∧ (s.setSeg z x).broken = s.broken ∧
    (s.setSeg z x).pub = s.pub ∧ (s.setSeg z x).zoneEv = s.zoneEv ∧ (s.setSeg z x).safe = s.safe ∧
    (s.setSeg z x).safeLoaded = s.safeLoaded ∧ (s.setSeg z x).safeUnrec = s.safeUnrec ∧
    (s.setSeg z x).safeIrq = s.safeIrq ∧ (s.setSeg z x).rtcOff = s.rtcOff ∧ (s.setSeg z x).rtcHeld = s.rtcHeld ∧
    (s.setSeg z x).cmds = s.cmds ∧ (s.setSeg z x).cd = s.cd ∧ (s.setSeg z x).cdg = s.cdg ∧
    (s.setSeg z x).fwd = s.fwd ∧ (s.setSeg z x).sk = s.sk ∧ (s.setSeg z x).sk0mem = s.sk0mem ∧
    (s.setSeg z x).subIn = s.subIn ∧ (s.setSeg z x).subOut = s.subOut ∧ (s.setSeg z x).cl = s.cl ∧
    (s.setSeg z x).isl = s.isl ∧ (s.setSeg z x).adc = s.adc ∧ (s.setSeg z x).fan = s.fan ∧
    (s.setSeg z x).fio = s.fio ∧ (s.setSeg z x).pnl = s.pnl ∧ (s.setSeg z x).hb = s.hb ∧
    (s.setSeg z x).boot = s.boot ∧ (s.setSeg z x).clk = s.clk ∧ (s.setSeg z x).pdErrs = s.pdErrs ∧
    (s.setSeg z x).ucal = s.ucal ∧ (s.setSeg z x).frame = s.frame ∧ (s.setSeg z x).le = s.le ∧
    (∀ a', (s.setSeg z x).word a' = s.word a') ∧ (∀ f' i' j', (s.setSeg z x).get f' i' j' = s.get f' i' j') ∧
    (∀ f' i' j', (s.setSeg z x).bit f' i' j' = s.bit f' i' j') :=
  ⟨rfl, rfl, rfl, rfl, rfl, rfl, rfl, rfl, rfl, rfl, rfl, rfl, rfl, rfl, rfl, rfl, rfl, rfl, rfl, rfl, rfl, rfl, rfl, rfl, rfl, rfl, rfl, rfl, rfl, rfl, rfl, rfl, rfl, rfl, rfl, rfl, rfl, rfl, rfl, rfl, rfl, rfl, rfl, rfl, fun _ => rfl, fun _ _ _ => rfl, fun _ _ _ => rfl⟩

@[simp] theorem State.setTags_rest (s : State) (t : Tab CTag) :
    (s.setTags t).pending = s.pending ∧ (s.setTags t).space = s.space ∧ (s.setTags t).now = s.now ∧
    (s.setTags t).campusOff = s.campusOff ∧ (s.setTags t).bootAt = s.bootAt ∧ (s.setTags t).free = s.free ∧
    (s.setTags t).rdata = s.rdata ∧ (s.setTags t).wres = s.wres ∧ (s.setTags t).banks = s.banks ∧
    (s.setTags t).log = s.log ∧ (s.setTags t).ten = s.ten ∧ (s.setTags t).exLast = s.exLast ∧
    (s.setTags t).exAt = s.exAt ∧ (s.setTags t).ic = s.ic ∧ (s.setTags t).broken = s.broken ∧
    (s.setTags t).pub = s.pub ∧ (s.setTags t).zoneEv = s.zoneEv ∧ (s.setTags t).safe = s.safe ∧
    (s.setTags t).safeLoaded = s.safeLoaded ∧ (s.setTags t).safeUnrec = s.safeUnrec ∧
    (s.setTags t).safeIrq = s.safeIrq ∧ (s.setTags t).rtcOff = s.rtcOff ∧ (s.setTags t).rtcHeld = s.rtcHeld ∧
    (s.setTags t).cmds = s.cmds ∧ (s.setTags t).cd = s.cd ∧ (s.setTags t).cdg = s.cdg ∧ (s.setTags t).fwd = s.fwd ∧
    (s.setTags t).sk = s.sk ∧ (s.setTags t).sk0mem = s.sk0mem ∧ (s.setTags t).subIn = s.subIn ∧
    (s.setTags t).subOut = s.subOut ∧ (s.setTags t).isl = s.isl ∧ (s.setTags t).adc = s.adc ∧
    (s.setTags t).fan = s.fan ∧ (s.setTags t).fio = s.fio ∧ (s.setTags t).zb = s.zb ∧ (s.setTags t).pnl = s.pnl ∧
    (s.setTags t).hb = s.hb ∧ (s.setTags t).boot = s.boot ∧ (s.setTags t).clk = s.clk ∧
    (s.setTags t).pdErrs = s.pdErrs ∧ (s.setTags t).ucal = s.ucal ∧ (s.setTags t).frame = s.frame ∧
    (s.setTags t).le = s.le ∧ (∀ a', (s.setTags t).word a' = s.word a') ∧
    (∀ f' i' j', (s.setTags t).get f' i' j' = s.get f' i' j') ∧
    (∀ f' i' j', (s.setTags t).bit f' i' j' = s.bit f' i' j') :=
  ⟨rfl, rfl, rfl, rfl, rfl, rfl, rfl, rfl, rfl, rfl, rfl, rfl, rfl, rfl, rfl, rfl, rfl, rfl, rfl, rfl, rfl, rfl, rfl, rfl, rfl, rfl, rfl, rfl, rfl, rfl, rfl, rfl, rfl, rfl, rfl, rfl, rfl, rfl, rfl, rfl, rfl, rfl, rfl, rfl, fun _ => rfl, fun _ _ _ => rfl, fun _ _ _ => rfl⟩

@[simp] theorem State.setQueue_rest (s : State) (p : ℕ) (q : List OutMsg) :
    (s.setQueue p q).pending = s.pending ∧ (s.setQueue p q).space = s.space ∧ (s.setQueue p q).now = s.now ∧
    (s.setQueue p q).campusOff = s.campusOff ∧ (s.setQueue p q).bootAt = s.bootAt ∧ (s.setQueue p q).free = s.free ∧
    (s.setQueue p q).rdata = s.rdata ∧ (s.setQueue p q).wres = s.wres ∧ (s.setQueue p q).banks = s.banks ∧
    (s.setQueue p q).log = s.log ∧ (s.setQueue p q).ten = s.ten ∧ (s.setQueue p q).exLast = s.exLast ∧
    (s.setQueue p q).exAt = s.exAt ∧ (s.setQueue p q).ic = s.ic ∧ (s.setQueue p q).broken = s.broken ∧
    (s.setQueue p q).pub = s.pub ∧ (s.setQueue p q).zoneEv = s.zoneEv ∧ (s.setQueue p q).safe = s.safe ∧
    (s.setQueue p q).safeLoaded = s.safeLoaded ∧ (s.setQueue p q).safeUnrec = s.safeUnrec ∧
    (s.setQueue p q).safeIrq = s.safeIrq ∧ (s.setQueue p q).rtcOff = s.rtcOff ∧ (s.setQueue p q).rtcHeld = s.rtcHeld ∧
    (s.setQueue p q).cmds = s.cmds ∧ (s.setQueue p q).cd = s.cd ∧ (s.setQueue p q).cdg = s.cdg ∧
    (s.setQueue p q).fwd = s.fwd ∧ (s.setQueue p q).sk = s.sk ∧ (s.setQueue p q).sk0mem = s.sk0mem ∧
    (s.setQueue p q).subIn = s.subIn ∧ (s.setQueue p q).subOut = s.subOut ∧ (s.setQueue p q).isl = s.isl ∧
    (s.setQueue p q).adc = s.adc ∧ (s.setQueue p q).fan = s.fan ∧ (s.setQueue p q).fio = s.fio ∧
    (s.setQueue p q).zb = s.zb ∧ (s.setQueue p q).pnl = s.pnl ∧ (s.setQueue p q).hb = s.hb ∧
    (s.setQueue p q).boot = s.boot ∧ (s.setQueue p q).clk = s.clk ∧ (s.setQueue p q).pdErrs = s.pdErrs ∧
    (s.setQueue p q).ucal = s.ucal ∧ (s.setQueue p q).frame = s.frame ∧ (s.setQueue p q).le = s.le ∧
    (∀ a', (s.setQueue p q).word a' = s.word a') ∧ (∀ f' i' j', (s.setQueue p q).get f' i' j' = s.get f' i' j') ∧
    (∀ f' i' j', (s.setQueue p q).bit f' i' j' = s.bit f' i' j') :=
  ⟨rfl, rfl, rfl, rfl, rfl, rfl, rfl, rfl, rfl, rfl, rfl, rfl, rfl, rfl, rfl, rfl, rfl, rfl, rfl, rfl, rfl, rfl, rfl, rfl, rfl, rfl, rfl, rfl, rfl, rfl, rfl, rfl, rfl, rfl, rfl, rfl, rfl, rfl, rfl, rfl, rfl, rfl, rfl, rfl, fun _ => rfl, fun _ _ _ => rfl, fun _ _ _ => rfl⟩

@[simp] theorem State.setDad_rest (s : State) (p : ℕ) (k : ℕ) (v : ℕ) :
    (s.setDad p k v).pending = s.pending ∧ (s.setDad p k v).space = s.space ∧ (s.setDad p k v).now = s.now ∧
    (s.setDad p k v).campusOff = s.campusOff ∧ (s.setDad p k v).bootAt = s.bootAt ∧ (s.setDad p k v).free = s.free ∧
    (s.setDad p k v).rdata = s.rdata ∧ (s.setDad p k v).wres = s.wres ∧ (s.setDad p k v).banks = s.banks ∧
    (s.setDad p k v).log = s.log ∧ (s.setDad p k v).ten = s.ten ∧ (s.setDad p k v).exLast = s.exLast ∧
    (s.setDad p k v).exAt = s.exAt ∧ (s.setDad p k v).ic = s.ic ∧ (s.setDad p k v).broken = s.broken ∧
    (s.setDad p k v).pub = s.pub ∧ (s.setDad p k v).zoneEv = s.zoneEv ∧ (s.setDad p k v).safe = s.safe ∧
    (s.setDad p k v).safeLoaded = s.safeLoaded ∧ (s.setDad p k v).safeUnrec = s.safeUnrec ∧
    (s.setDad p k v).safeIrq = s.safeIrq ∧ (s.setDad p k v).rtcOff = s.rtcOff ∧ (s.setDad p k v).rtcHeld = s.rtcHeld ∧
    (s.setDad p k v).cmds = s.cmds ∧ (s.setDad p k v).cd = s.cd ∧ (s.setDad p k v).cdg = s.cdg ∧
    (s.setDad p k v).fwd = s.fwd ∧ (s.setDad p k v).sk = s.sk ∧ (s.setDad p k v).sk0mem = s.sk0mem ∧
    (s.setDad p k v).subIn = s.subIn ∧ (s.setDad p k v).subOut = s.subOut ∧ (s.setDad p k v).isl = s.isl ∧
    (s.setDad p k v).adc = s.adc ∧ (s.setDad p k v).fan = s.fan ∧ (s.setDad p k v).fio = s.fio ∧
    (s.setDad p k v).zb = s.zb ∧ (s.setDad p k v).pnl = s.pnl ∧ (s.setDad p k v).hb = s.hb ∧
    (s.setDad p k v).boot = s.boot ∧ (s.setDad p k v).clk = s.clk ∧ (s.setDad p k v).pdErrs = s.pdErrs ∧
    (s.setDad p k v).ucal = s.ucal ∧ (s.setDad p k v).frame = s.frame ∧ (s.setDad p k v).le = s.le ∧
    (∀ a', (s.setDad p k v).word a' = s.word a') ∧ (∀ f' i' j', (s.setDad p k v).get f' i' j' = s.get f' i' j') ∧
    (∀ f' i' j', (s.setDad p k v).bit f' i' j' = s.bit f' i' j') :=
  ⟨rfl, rfl, rfl, rfl, rfl, rfl, rfl, rfl, rfl, rfl, rfl, rfl, rfl, rfl, rfl, rfl, rfl, rfl, rfl, rfl, rfl, rfl, rfl, rfl, rfl, rfl, rfl, rfl, rfl, rfl, rfl, rfl, rfl, rfl, rfl, rfl, rfl, rfl, rfl, rfl, rfl, rfl, rfl, rfl, fun _ => rfl, fun _ _ _ => rfl, fun _ _ _ => rfl⟩

@[simp] theorem State.icmpOut_rest (s : State) (l : List IcmpTx) :
    (s.icmpOut l).pending = s.pending ∧ (s.icmpOut l).space = s.space ∧ (s.icmpOut l).now = s.now ∧
    (s.icmpOut l).campusOff = s.campusOff ∧ (s.icmpOut l).bootAt = s.bootAt ∧ (s.icmpOut l).free = s.free ∧
    (s.icmpOut l).rdata = s.rdata ∧ (s.icmpOut l).wres = s.wres ∧ (s.icmpOut l).banks = s.banks ∧
    (s.icmpOut l).log = s.log ∧ (s.icmpOut l).ten = s.ten ∧ (s.icmpOut l).exLast = s.exLast ∧
    (s.icmpOut l).exAt = s.exAt ∧ (s.icmpOut l).ic = s.ic ∧ (s.icmpOut l).broken = s.broken ∧
    (s.icmpOut l).pub = s.pub ∧ (s.icmpOut l).zoneEv = s.zoneEv ∧ (s.icmpOut l).safe = s.safe ∧
    (s.icmpOut l).safeLoaded = s.safeLoaded ∧ (s.icmpOut l).safeUnrec = s.safeUnrec ∧
    (s.icmpOut l).safeIrq = s.safeIrq ∧ (s.icmpOut l).rtcOff = s.rtcOff ∧ (s.icmpOut l).rtcHeld = s.rtcHeld ∧
    (s.icmpOut l).cmds = s.cmds ∧ (s.icmpOut l).cd = s.cd ∧ (s.icmpOut l).cdg = s.cdg ∧ (s.icmpOut l).fwd = s.fwd ∧
    (s.icmpOut l).sk = s.sk ∧ (s.icmpOut l).sk0mem = s.sk0mem ∧ (s.icmpOut l).subIn = s.subIn ∧
    (s.icmpOut l).subOut = s.subOut ∧ (s.icmpOut l).isl = s.isl ∧ (s.icmpOut l).adc = s.adc ∧
    (s.icmpOut l).fan = s.fan ∧ (s.icmpOut l).fio = s.fio ∧ (s.icmpOut l).zb = s.zb ∧ (s.icmpOut l).pnl = s.pnl ∧
    (s.icmpOut l).hb = s.hb ∧ (s.icmpOut l).boot = s.boot ∧ (s.icmpOut l).clk = s.clk ∧
    (s.icmpOut l).pdErrs = s.pdErrs ∧ (s.icmpOut l).ucal = s.ucal ∧ (s.icmpOut l).frame = s.frame ∧
    (s.icmpOut l).le = s.le ∧ (∀ a', (s.icmpOut l).word a' = s.word a') ∧
    (∀ f' i' j', (s.icmpOut l).get f' i' j' = s.get f' i' j') ∧
    (∀ f' i' j', (s.icmpOut l).bit f' i' j' = s.bit f' i' j') :=
  ⟨rfl, rfl, rfl, rfl, rfl, rfl, rfl, rfl, rfl, rfl, rfl, rfl, rfl, rfl, rfl, rfl, rfl, rfl, rfl, rfl, rfl, rfl, rfl, rfl, rfl, rfl, rfl, rfl, rfl, rfl, rfl, rfl, rfl, rfl, rfl, rfl, rfl, rfl, rfl, rfl, rfl, rfl, rfl, rfl, fun _ => rfl, fun _ _ _ => rfl, fun _ _ _ => rfl⟩

@[simp] theorem State.setOffer_rest (s : State) (t : ℕ) (o : Option Offer) :
    (s.setOffer t o).pending = s.pending ∧ (s.setOffer t o).space = s.space ∧ (s.setOffer t o).now = s.now ∧
    (s.setOffer t o).campusOff = s.campusOff ∧ (s.setOffer t o).bootAt = s.bootAt ∧ (s.setOffer t o).free = s.free ∧
    (s.setOffer t o).rdata = s.rdata ∧ (s.setOffer t o).wres = s.wres ∧ (s.setOffer t o).banks = s.banks ∧
    (s.setOffer t o).log = s.log ∧ (s.setOffer t o).ten = s.ten ∧ (s.setOffer t o).exLast = s.exLast ∧
    (s.setOffer t o).exAt = s.exAt ∧ (s.setOffer t o).broken = s.broken ∧ (s.setOffer t o).pub = s.pub ∧
    (s.setOffer t o).zoneEv = s.zoneEv ∧ (s.setOffer t o).safe = s.safe ∧ (s.setOffer t o).safeLoaded = s.safeLoaded ∧
    (s.setOffer t o).safeUnrec = s.safeUnrec ∧ (s.setOffer t o).safeIrq = s.safeIrq ∧
    (s.setOffer t o).rtcOff = s.rtcOff ∧ (s.setOffer t o).rtcHeld = s.rtcHeld ∧ (s.setOffer t o).cmds = s.cmds ∧
    (s.setOffer t o).cd = s.cd ∧ (s.setOffer t o).cdg = s.cdg ∧ (s.setOffer t o).fwd = s.fwd ∧
    (s.setOffer t o).sk = s.sk ∧ (s.setOffer t o).sk0mem = s.sk0mem ∧ (s.setOffer t o).subIn = s.subIn ∧
    (s.setOffer t o).subOut = s.subOut ∧ (s.setOffer t o).cl = s.cl ∧ (s.setOffer t o).isl = s.isl ∧
    (s.setOffer t o).adc = s.adc ∧ (s.setOffer t o).fan = s.fan ∧ (s.setOffer t o).fio = s.fio ∧
    (s.setOffer t o).zb = s.zb ∧ (s.setOffer t o).pnl = s.pnl ∧ (s.setOffer t o).hb = s.hb ∧
    (s.setOffer t o).boot = s.boot ∧ (s.setOffer t o).clk = s.clk ∧ (s.setOffer t o).pdErrs = s.pdErrs ∧
    (s.setOffer t o).ucal = s.ucal ∧ (s.setOffer t o).frame = s.frame ∧ (s.setOffer t o).le = s.le ∧
    (∀ a', (s.setOffer t o).word a' = s.word a') ∧ (∀ f' i' j', (s.setOffer t o).get f' i' j' = s.get f' i' j') ∧
    (∀ f' i' j', (s.setOffer t o).bit f' i' j' = s.bit f' i' j') :=
  ⟨rfl, rfl, rfl, rfl, rfl, rfl, rfl, rfl, rfl, rfl, rfl, rfl, rfl, rfl, rfl, rfl, rfl, rfl, rfl, rfl, rfl, rfl, rfl, rfl, rfl, rfl, rfl, rfl, rfl, rfl, rfl, rfl, rfl, rfl, rfl, rfl, rfl, rfl, rfl, rfl, rfl, rfl, rfl, rfl, fun _ => rfl, fun _ _ _ => rfl, fun _ _ _ => rfl⟩

@[simp] theorem State.icCount_rest (s : State) (n : ℕ) (c : Option (ℕ × ℕ)) :
    (s.icCount n c).pending = s.pending ∧ (s.icCount n c).space = s.space ∧ (s.icCount n c).now = s.now ∧
    (s.icCount n c).campusOff = s.campusOff ∧ (s.icCount n c).bootAt = s.bootAt ∧ (s.icCount n c).free = s.free ∧
    (s.icCount n c).rdata = s.rdata ∧ (s.icCount n c).wres = s.wres ∧ (s.icCount n c).banks = s.banks ∧
    (s.icCount n c).log = s.log ∧ (s.icCount n c).ten = s.ten ∧ (s.icCount n c).exLast = s.exLast ∧
    (s.icCount n c).exAt = s.exAt ∧ (s.icCount n c).broken = s.broken ∧ (s.icCount n c).pub = s.pub ∧
    (s.icCount n c).zoneEv = s.zoneEv ∧ (s.icCount n c).safe = s.safe ∧ (s.icCount n c).safeLoaded = s.safeLoaded ∧
    (s.icCount n c).safeUnrec = s.safeUnrec ∧ (s.icCount n c).safeIrq = s.safeIrq ∧
    (s.icCount n c).rtcOff = s.rtcOff ∧ (s.icCount n c).rtcHeld = s.rtcHeld ∧ (s.icCount n c).cmds = s.cmds ∧
    (s.icCount n c).cd = s.cd ∧ (s.icCount n c).cdg = s.cdg ∧ (s.icCount n c).fwd = s.fwd ∧
    (s.icCount n c).sk = s.sk ∧ (s.icCount n c).sk0mem = s.sk0mem ∧ (s.icCount n c).subIn = s.subIn ∧
    (s.icCount n c).subOut = s.subOut ∧ (s.icCount n c).cl = s.cl ∧ (s.icCount n c).isl = s.isl ∧
    (s.icCount n c).adc = s.adc ∧ (s.icCount n c).fan = s.fan ∧ (s.icCount n c).fio = s.fio ∧
    (s.icCount n c).zb = s.zb ∧ (s.icCount n c).pnl = s.pnl ∧ (s.icCount n c).hb = s.hb ∧
    (s.icCount n c).boot = s.boot ∧ (s.icCount n c).clk = s.clk ∧ (s.icCount n c).pdErrs = s.pdErrs ∧
    (s.icCount n c).ucal = s.ucal ∧ (s.icCount n c).frame = s.frame ∧ (s.icCount n c).le = s.le ∧
    (∀ a', (s.icCount n c).word a' = s.word a') ∧ (∀ f' i' j', (s.icCount n c).get f' i' j' = s.get f' i' j') ∧
    (∀ f' i' j', (s.icCount n c).bit f' i' j' = s.bit f' i' j') :=
  ⟨rfl, rfl, rfl, rfl, rfl, rfl, rfl, rfl, rfl, rfl, rfl, rfl, rfl, rfl, rfl, rfl, rfl, rfl, rfl, rfl, rfl, rfl, rfl, rfl, rfl, rfl, rfl, rfl, rfl, rfl, rfl, rfl, rfl, rfl, rfl, rfl, rfl, rfl, rfl, rfl, rfl, rfl, rfl, rfl, fun _ => rfl, fun _ _ _ => rfl, fun _ _ _ => rfl⟩

@[simp] theorem State.icEn_rest (s : State) (v : Bool) (n : ℕ) :
    (s.icEn v n).pending = s.pending ∧ (s.icEn v n).space = s.space ∧ (s.icEn v n).now = s.now ∧
    (s.icEn v n).campusOff = s.campusOff ∧ (s.icEn v n).bootAt = s.bootAt ∧ (s.icEn v n).free = s.free ∧
    (s.icEn v n).rdata = s.rdata ∧ (s.icEn v n).wres = s.wres ∧ (s.icEn v n).banks = s.banks ∧
    (s.icEn v n).log = s.log ∧ (s.icEn v n).ten = s.ten ∧ (s.icEn v n).exLast = s.exLast ∧
    (s.icEn v n).exAt = s.exAt ∧ (s.icEn v n).broken = s.broken ∧ (s.icEn v n).pub = s.pub ∧
    (s.icEn v n).zoneEv = s.zoneEv ∧ (s.icEn v n).safe = s.safe ∧ (s.icEn v n).safeLoaded = s.safeLoaded ∧
    (s.icEn v n).safeUnrec = s.safeUnrec ∧ (s.icEn v n).safeIrq = s.safeIrq ∧ (s.icEn v n).rtcOff = s.rtcOff ∧
    (s.icEn v n).rtcHeld = s.rtcHeld ∧ (s.icEn v n).cmds = s.cmds ∧ (s.icEn v n).cd = s.cd ∧
    (s.icEn v n).cdg = s.cdg ∧ (s.icEn v n).fwd = s.fwd ∧ (s.icEn v n).sk = s.sk ∧ (s.icEn v n).sk0mem = s.sk0mem ∧
    (s.icEn v n).subIn = s.subIn ∧ (s.icEn v n).subOut = s.subOut ∧ (s.icEn v n).cl = s.cl ∧
    (s.icEn v n).isl = s.isl ∧ (s.icEn v n).adc = s.adc ∧ (s.icEn v n).fan = s.fan ∧ (s.icEn v n).fio = s.fio ∧
    (s.icEn v n).zb = s.zb ∧ (s.icEn v n).pnl = s.pnl ∧ (s.icEn v n).hb = s.hb ∧ (s.icEn v n).boot = s.boot ∧
    (s.icEn v n).clk = s.clk ∧ (s.icEn v n).pdErrs = s.pdErrs ∧ (s.icEn v n).ucal = s.ucal ∧
    (s.icEn v n).frame = s.frame ∧ (s.icEn v n).le = s.le ∧ (∀ a', (s.icEn v n).word a' = s.word a') ∧
    (∀ f' i' j', (s.icEn v n).get f' i' j' = s.get f' i' j') ∧
    (∀ f' i' j', (s.icEn v n).bit f' i' j' = s.bit f' i' j') :=
  ⟨rfl, rfl, rfl, rfl, rfl, rfl, rfl, rfl, rfl, rfl, rfl, rfl, rfl, rfl, rfl, rfl, rfl, rfl, rfl, rfl, rfl, rfl, rfl, rfl, rfl, rfl, rfl, rfl, rfl, rfl, rfl, rfl, rfl, rfl, rfl, rfl, rfl, rfl, rfl, rfl, rfl, rfl, rfl, rfl, fun _ => rfl, fun _ _ _ => rfl, fun _ _ _ => rfl⟩

@[simp] theorem State.setHb_rest (s : State) (h : HbState) :
    (s.setHb h).pending = s.pending ∧ (s.setHb h).space = s.space ∧ (s.setHb h).now = s.now ∧
    (s.setHb h).campusOff = s.campusOff ∧ (s.setHb h).bootAt = s.bootAt ∧ (s.setHb h).free = s.free ∧
    (s.setHb h).rdata = s.rdata ∧ (s.setHb h).wres = s.wres ∧ (s.setHb h).banks = s.banks ∧ (s.setHb h).log = s.log ∧
    (s.setHb h).ten = s.ten ∧ (s.setHb h).exLast = s.exLast ∧ (s.setHb h).exAt = s.exAt ∧ (s.setHb h).ic = s.ic ∧
    (s.setHb h).broken = s.broken ∧ (s.setHb h).pub = s.pub ∧ (s.setHb h).zoneEv = s.zoneEv ∧
    (s.setHb h).safe = s.safe ∧ (s.setHb h).safeLoaded = s.safeLoaded ∧ (s.setHb h).safeUnrec = s.safeUnrec ∧
    (s.setHb h).safeIrq = s.safeIrq ∧ (s.setHb h).rtcOff = s.rtcOff ∧ (s.setHb h).rtcHeld = s.rtcHeld ∧
    (s.setHb h).cmds = s.cmds ∧ (s.setHb h).cd = s.cd ∧ (s.setHb h).cdg = s.cdg ∧ (s.setHb h).fwd = s.fwd ∧
    (s.setHb h).sk = s.sk ∧ (s.setHb h).sk0mem = s.sk0mem ∧ (s.setHb h).subIn = s.subIn ∧
    (s.setHb h).subOut = s.subOut ∧ (s.setHb h).cl = s.cl ∧ (s.setHb h).isl = s.isl ∧ (s.setHb h).adc = s.adc ∧
    (s.setHb h).fan = s.fan ∧ (s.setHb h).fio = s.fio ∧ (s.setHb h).zb = s.zb ∧ (s.setHb h).pnl = s.pnl ∧
    (s.setHb h).boot = s.boot ∧ (s.setHb h).clk = s.clk ∧ (s.setHb h).pdErrs = s.pdErrs ∧ (s.setHb h).ucal = s.ucal ∧
    (s.setHb h).frame = s.frame ∧ (s.setHb h).le = s.le ∧ (∀ a', (s.setHb h).word a' = s.word a') ∧
    (∀ f' i' j', (s.setHb h).get f' i' j' = s.get f' i' j') ∧ (∀ f' i' j', (s.setHb h).bit f' i' j' = s.bit f' i' j') :=
  ⟨rfl, rfl, rfl, rfl, rfl, rfl, rfl, rfl, rfl, rfl, rfl, rfl, rfl, rfl, rfl, rfl, rfl, rfl, rfl, rfl, rfl, rfl, rfl, rfl, rfl, rfl, rfl, rfl, rfl, rfl, rfl, rfl, rfl, rfl, rfl, rfl, rfl, rfl, rfl, rfl, rfl, rfl, rfl, rfl, fun _ => rfl, fun _ _ _ => rfl, fun _ _ _ => rfl⟩

@[simp] theorem State.setClk_rest (s : State) (c : ClkState) :
    (s.setClk c).pending = s.pending ∧ (s.setClk c).space = s.space ∧ (s.setClk c).now = s.now ∧
    (s.setClk c).campusOff = s.campusOff ∧ (s.setClk c).bootAt = s.bootAt ∧ (s.setClk c).free = s.free ∧
    (s.setClk c).rdata = s.rdata ∧ (s.setClk c).wres = s.wres ∧ (s.setClk c).banks = s.banks ∧
    (s.setClk c).log = s.log ∧ (s.setClk c).ten = s.ten ∧ (s.setClk c).exLast = s.exLast ∧
    (s.setClk c).exAt = s.exAt ∧ (s.setClk c).ic = s.ic ∧ (s.setClk c).broken = s.broken ∧ (s.setClk c).pub = s.pub ∧
    (s.setClk c).zoneEv = s.zoneEv ∧ (s.setClk c).safe = s.safe ∧ (s.setClk c).safeLoaded = s.safeLoaded ∧
    (s.setClk c).safeUnrec = s.safeUnrec ∧ (s.setClk c).safeIrq = s.safeIrq ∧ (s.setClk c).rtcOff = s.rtcOff ∧
    (s.setClk c).rtcHeld = s.rtcHeld ∧ (s.setClk c).cmds = s.cmds ∧ (s.setClk c).cd = s.cd ∧
    (s.setClk c).cdg = s.cdg ∧ (s.setClk c).fwd = s.fwd ∧ (s.setClk c).sk = s.sk ∧ (s.setClk c).sk0mem = s.sk0mem ∧
    (s.setClk c).subIn = s.subIn ∧ (s.setClk c).subOut = s.subOut ∧ (s.setClk c).cl = s.cl ∧
    (s.setClk c).isl = s.isl ∧ (s.setClk c).adc = s.adc ∧ (s.setClk c).fan = s.fan ∧ (s.setClk c).fio = s.fio ∧
    (s.setClk c).zb = s.zb ∧ (s.setClk c).pnl = s.pnl ∧ (s.setClk c).hb = s.hb ∧ (s.setClk c).boot = s.boot ∧
    (s.setClk c).pdErrs = s.pdErrs ∧ (s.setClk c).ucal = s.ucal ∧ (s.setClk c).frame = s.frame ∧
    (s.setClk c).le = s.le ∧ (∀ a', (s.setClk c).word a' = s.word a') ∧
    (∀ f' i' j', (s.setClk c).get f' i' j' = s.get f' i' j') ∧
    (∀ f' i' j', (s.setClk c).bit f' i' j' = s.bit f' i' j') :=
  ⟨rfl, rfl, rfl, rfl, rfl, rfl, rfl, rfl, rfl, rfl, rfl, rfl, rfl, rfl, rfl, rfl, rfl, rfl, rfl, rfl, rfl, rfl, rfl, rfl, rfl, rfl, rfl, rfl, rfl, rfl, rfl, rfl, rfl, rfl, rfl, rfl, rfl, rfl, rfl, rfl, rfl, rfl, rfl, rfl, fun _ => rfl, fun _ _ _ => rfl, fun _ _ _ => rfl⟩

@[simp] theorem State.setLane_rest (s : State) (n : ℕ) (l : HbLane) :
    (s.setLane n l).pending = s.pending ∧ (s.setLane n l).space = s.space ∧ (s.setLane n l).now = s.now ∧
    (s.setLane n l).campusOff = s.campusOff ∧ (s.setLane n l).bootAt = s.bootAt ∧ (s.setLane n l).free = s.free ∧
    (s.setLane n l).rdata = s.rdata ∧ (s.setLane n l).wres = s.wres ∧ (s.setLane n l).banks = s.banks ∧
    (s.setLane n l).log = s.log ∧ (s.setLane n l).ten = s.ten ∧ (s.setLane n l).exLast = s.exLast ∧
    (s.setLane n l).exAt = s.exAt ∧ (s.setLane n l).ic = s.ic ∧ (s.setLane n l).broken = s.broken ∧
    (s.setLane n l).pub = s.pub ∧ (s.setLane n l).zoneEv = s.zoneEv ∧ (s.setLane n l).safe = s.safe ∧
    (s.setLane n l).safeLoaded = s.safeLoaded ∧ (s.setLane n l).safeUnrec = s.safeUnrec ∧
    (s.setLane n l).safeIrq = s.safeIrq ∧ (s.setLane n l).rtcOff = s.rtcOff ∧ (s.setLane n l).rtcHeld = s.rtcHeld ∧
    (s.setLane n l).cmds = s.cmds ∧ (s.setLane n l).cd = s.cd ∧ (s.setLane n l).cdg = s.cdg ∧
    (s.setLane n l).fwd = s.fwd ∧ (s.setLane n l).sk = s.sk ∧ (s.setLane n l).sk0mem = s.sk0mem ∧
    (s.setLane n l).subIn = s.subIn ∧ (s.setLane n l).subOut = s.subOut ∧ (s.setLane n l).cl = s.cl ∧
    (s.setLane n l).isl = s.isl ∧ (s.setLane n l).adc = s.adc ∧ (s.setLane n l).fan = s.fan ∧
    (s.setLane n l).fio = s.fio ∧ (s.setLane n l).zb = s.zb ∧ (s.setLane n l).pnl = s.pnl ∧
    (s.setLane n l).boot = s.boot ∧ (s.setLane n l).clk = s.clk ∧ (s.setLane n l).pdErrs = s.pdErrs ∧
    (s.setLane n l).ucal = s.ucal ∧ (s.setLane n l).frame = s.frame ∧ (s.setLane n l).le = s.le ∧
    (∀ a', (s.setLane n l).word a' = s.word a') ∧ (∀ f' i' j', (s.setLane n l).get f' i' j' = s.get f' i' j') ∧
    (∀ f' i' j', (s.setLane n l).bit f' i' j' = s.bit f' i' j') :=
  ⟨rfl, rfl, rfl, rfl, rfl, rfl, rfl, rfl, rfl, rfl, rfl, rfl, rfl, rfl, rfl, rfl, rfl, rfl, rfl, rfl, rfl, rfl, rfl, rfl, rfl, rfl, rfl, rfl, rfl, rfl, rfl, rfl, rfl, rfl, rfl, rfl, rfl, rfl, rfl, rfl, rfl, rfl, rfl, rfl, fun _ => rfl, fun _ _ _ => rfl, fun _ _ _ => rfl⟩

/-! ### What a read gives after an update -/

@[simp] theorem State.bank_setBank (s : State) (b : Nat) (x : Bank) : (s.setBank b x).bank b = x := Tab.get_set_same _ _ _

@[simp] theorem State.tctx_setTctx (s : State) (t : Nat) (c : TenCtx) : (s.setTctx t c).tctx t = c := Tab.get_set_same _ _ _

@[simp] theorem State.cdOf_setCd (s : State) (n : Nat) (c : CdChan) : (s.setCd n c).cdOf n = c := Tab.get_set_same _ _ _

theorem State.cdOf_setCd_ne (s : State) {n m : Nat} (c : CdChan) (h : m ≠ n) : (s.setCd n c).cdOf m = s.cdOf m := by
  simp [State.cdOf, State.setCd, Tab.get_set, h]

@[simp] theorem State.safeOf_setSafe (s : State) (cls chan : Nat) (o : SafeOut) : (s.setSafe cls chan o).safeOf cls chan = o :=
  Tab.get_set_same _ _ _

@[simp] theorem State.pubOf_setPub (s : State) (i : Nat) (x : PubState) : (s.setPub i x).pubOf i = x := Tab.get_set_same _ _ _

@[simp] theorem State.fanOf_setFan (s : State) (n : Nat) (c : FanChan) : (s.setFan n c).fanOf n = c := Tab.get_set_same _ _ _

@[simp] theorem State.doOf_setDo (s : State) (n : Nat) (d : DoOut) : (s.setDo n d).doOf n = d := Tab.get_set_same _ _ _

@[simp] theorem State.seg_setSeg (s : State) (z : Nat) (x : ZbSeg) : (s.setSeg z x).seg z = x := Tab.get_set_same _ _ _

@[simp] theorem getD_putAt {α : Type} (d : α) (l : List α) (k : Nat) (x : α) (j : Nat) :
    (putAt d l k x).getD j d = if j = k then x else l.getD j d := by
  induction l generalizing k j with
  | nil =>
    induction k generalizing j with
    | zero => cases j <;> simp [putAt]
    | succ k ih =>
      cases j with
      | zero => simp [putAt]
      | succ j => have := ih j; simp only [putAt, List.getD_cons_succ, this]; simp
  | cons h t ih =>
    cases k with
    | zero => cases j <;> simp [putAt]
    | succ k =>
      cases j with
      | zero => simp [putAt]
      | succ j => simp only [putAt, List.getD_cons_succ, ih]; simp

theorem putAt_putAt {α : Type} (d : α) (l : List α) (k : Nat) (x y : α) : putAt d (putAt d l k x) k y = putAt d l k y := by
  induction l generalizing k with
  | nil =>
    induction k with
    | zero => rfl
    | succ k ih => simp only [putAt, ih]
  | cons h t ih =>
    cases k with
    | zero => rfl
    | succ k => simp only [putAt, ih]

theorem State.core_setCore_at (s : State) (k j : Nat) (c : SkCore) : (s.setCore k c).core j = if j = k then c else s.core j :=
  getD_putAt _ _ _ _ _

@[simp] theorem State.core_setCore (s : State) (k : Nat) (c : SkCore) : (s.setCore k c).core k = c := by
  simp [State.core_setCore_at]

theorem State.conv_setConv_at (s : State) (k j : Nat) (c : AdcConv) : (s.setConv k c).conv j = if j = k then c else s.conv j :=
  getD_putAt _ _ _ _ _

@[simp] theorem State.conv_setConv (s : State) (k : Nat) (c : AdcConv) : (s.setConv k c).conv k = c := by
  simp [State.conv_setConv_at]

theorem State.fanGrp_setFanGrp_at (s : State) (g j : Nat) (x : FanGroup) :
    (s.setFanGrp g x).fanGrp j = if j = g then x else s.fanGrp j := getD_putAt _ _ _ _ _

@[simp] theorem State.fanGrp_setFanGrp (s : State) (g : Nat) (x : FanGroup) : (s.setFanGrp g x).fanGrp g = x := by
  simp [State.fanGrp_setFanGrp_at]

theorem State.leFifo_setFifo_at (s : State) (f j : Nat) (l : List LeOp) :
    (s.setFifo f l).leFifo j = if j = f then l else s.leFifo j := getD_putAt _ _ _ _ _

@[simp] theorem State.leFifo_setFifo (s : State) (f : Nat) (l : List LeOp) : (s.setFifo f l).leFifo f = l := by
  simp [State.leFifo_setFifo_at]

theorem State.lane_setLane_at (s : State) (n j : Nat) (l : HbLane) : (s.setLane n l).lane j = if j = n then l else s.lane j :=
  getD_putAt _ _ _ _ _

@[simp] theorem State.lane_setLane (s : State) (n : Nat) (l : HbLane) : (s.setLane n l).lane n = l := by
  simp [State.lane_setLane_at]

theorem State.offer_setOffer_at (s : State) (t j : Nat) (o : Option Offer) :
    (s.setOffer t o).offer j = if j = t then o else s.offer j := getD_putAt _ _ _ _ _

@[simp] theorem State.offer_setOffer (s : State) (t : Nat) (o : Option Offer) : (s.setOffer t o).offer t = o := by
  simp [State.offer_setOffer_at]

end Sys2Proof.Machine
end

