-- ==== Sys2Proof/Laws/Books.lean ====
section
/-! SUPPORT. What the bookkeeping operations (time, queue posts, interrupt sources, audit records) leave as it was. -/

namespace Sys2Proof.Machine

@[simp] theorem State.reach_rest (s : State) (t : ℕ) :
    (s.reach t).pending = s.pending ∧ (s.reach t).space = s.space ∧ (s.reach t).bootAt = s.bootAt ∧
    (s.reach t).free = s.free ∧ (s.reach t).rdata = s.rdata ∧ (s.reach t).wres = s.wres ∧
    (s.reach t).banks = s.banks ∧ (s.reach t).log = s.log ∧ (s.reach t).ten = s.ten ∧ (s.reach t).exLast = s.exLast ∧
    (s.reach t).exAt = s.exAt ∧ (s.reach t).ic = s.ic ∧ (s.reach t).broken = s.broken ∧ (s.reach t).pub = s.pub ∧
    (s.reach t).zoneEv = s.zoneEv ∧ (s.reach t).safe = s.safe ∧ (s.reach t).safeLoaded = s.safeLoaded ∧
    (s.reach t).safeUnrec = s.safeUnrec ∧ (s.reach t).safeIrq = s.safeIrq ∧ (s.reach t).rtcOff = s.rtcOff ∧
    (s.reach t).rtcHeld = s.rtcHeld ∧ (s.reach t).cmds = s.cmds ∧ (s.reach t).cd = s.cd ∧ (s.reach t).cdg = s.cdg ∧
    (s.reach t).fwd = s.fwd ∧ (s.reach t).sk = s.sk ∧ (s.reach t).sk0mem = s.sk0mem ∧ (s.reach t).subIn = s.subIn ∧
    (s.reach t).subOut = s.subOut ∧ (s.reach t).isl = s.isl ∧ (s.reach t).adc = s.adc ∧ (s.reach t).fan = s.fan ∧
    (s.reach t).fio = s.fio ∧ (s.reach t).zb = s.zb ∧ (s.reach t).pnl = s.pnl ∧ (s.reach t).hb = s.hb ∧
    (s.reach t).boot = s.boot ∧ (s.reach t).clk = s.clk ∧ (s.reach t).pdErrs = s.pdErrs ∧ (s.reach t).ucal = s.ucal ∧
    (s.reach t).frame = s.frame ∧ (s.reach t).le = s.le ∧ (∀ a', (s.reach t).word a' = s.word a') ∧
    (∀ f' i' j', (s.reach t).get f' i' j' = s.get f' i' j') ∧ (∀ f' i' j', (s.reach t).bit f' i' j' = s.bit f' i' j') := by
  have h := Keeps.reach (μ := fun p => p ∈ [Part.now, Part.campusOff, Part.cl]) (σ := s) s t (Keeps.refl _ s) (by simp) (by simp) (by simp)
  exact ⟨h.pending, h.space.resolve_left (by simp), h.bootAt.resolve_left (by simp), h.free.resolve_left (by simp), h.rdata.resolve_left (by simp), h.wres.resolve_left (by simp), h.banks.resolve_left (by simp), h.log.resolve_left (by simp), h.ten.resolve_left (by simp), h.exLast.resolve_left (by simp), h.exAt.resolve_left (by simp), h.ic.resolve_left (by simp), h.broken.resolve_left (by simp), h.pub.resolve_left (by simp), h.zoneEv.resolve_left (by simp), h.safe.resolve_left (by simp), h.safeLoaded.resolve_left (by simp), h.safeUnrec.resolve_left (by simp), h.safeIrq.resolve_left (by simp), h.rtcOff.resolve_left (by simp), h.rtcHeld.resolve_left (by simp), h.cmds.resolve_left (by simp), h.cd.resolve_left (by simp), h.cdg.resolve_left (by simp), h.fwd.resolve_left (by simp), h.sk.resolve_left (by simp), h.sk0mem.resolve_left (by simp), h.subIn.resolve_left (by simp), h.subOut.resolve_left (by simp), h.isl.resolve_left (by simp), h.adc.resolve_left (by simp), h.fan.resolve_left (by simp), h.fio.resolve_left (by simp), h.zb.resolve_left (by simp), h.pnl.resolve_left (by simp), h.hb.resolve_left (by simp), h.boot.resolve_left (by simp), h.clk.resolve_left (by simp), h.pdErrs.resolve_left (by simp), h.ucal.resolve_left (by simp), h.frame.resolve_left (by simp), h.le.resolve_left (by simp), fun a' => by unfold State.word; rw [h.space.resolve_left (by simp)], fun f' i' j' => by unfold State.get State.word; rw [h.space.resolve_left (by simp)], fun f' i' j' => by unfold State.bit State.get State.word; rw [h.space.resolve_left (by simp)]⟩

@[simp] theorem State.slewBy_rest (s : State) (dt : ℕ) :
    (s.slewBy dt).pending = s.pending ∧ (s.slewBy dt).space = s.space ∧ (s.slewBy dt).now = s.now ∧
    (s.slewBy dt).bootAt = s.bootAt ∧ (s.slewBy dt).free = s.free ∧ (s.slewBy dt).rdata = s.rdata ∧
    (s.slewBy dt).wres = s.wres ∧ (s.slewBy dt).banks = s.banks ∧ (s.slewBy dt).log = s.log ∧
    (s.slewBy dt).ten = s.ten ∧ (s.slewBy dt).exLast = s.exLast ∧ (s.slewBy dt).exAt = s.exAt ∧
    (s.slewBy dt).ic = s.ic ∧ (s.slewBy dt).broken = s.broken ∧ (s.slewBy dt).pub = s.pub ∧
    (s.slewBy dt).zoneEv = s.zoneEv ∧ (s.slewBy dt).safe = s.safe ∧ (s.slewBy dt).safeLoaded = s.safeLoaded ∧
    (s.slewBy dt).safeUnrec = s.safeUnrec ∧ (s.slewBy dt).safeIrq = s.safeIrq ∧ (s.slewBy dt).rtcOff = s.rtcOff ∧
    (s.slewBy dt).rtcHeld = s.rtcHeld ∧ (s.slewBy dt).cmds = s.cmds ∧ (s.slewBy dt).cd = s.cd ∧
    (s.slewBy dt).cdg = s.cdg ∧ (s.slewBy dt).fwd = s.fwd ∧ (s.slewBy dt).sk = s.sk ∧
    (s.slewBy dt).sk0mem = s.sk0mem ∧ (s.slewBy dt).subIn = s.subIn ∧ (s.slewBy dt).subOut = s.subOut ∧
    (s.slewBy dt).isl = s.isl ∧ (s.slewBy dt).adc = s.adc ∧ (s.slewBy dt).fan = s.fan ∧ (s.slewBy dt).fio = s.fio ∧
    (s.slewBy dt).zb = s.zb ∧ (s.slewBy dt).pnl = s.pnl ∧ (s.slewBy dt).hb = s.hb ∧ (s.slewBy dt).boot = s.boot ∧
    (s.slewBy dt).clk = s.clk ∧ (s.slewBy dt).pdErrs = s.pdErrs ∧ (s.slewBy dt).ucal = s.ucal ∧
    (s.slewBy dt).frame = s.frame ∧ (s.slewBy dt).le = s.le ∧ (∀ a', (s.slewBy dt).word a' = s.word a') ∧
    (∀ f' i' j', (s.slewBy dt).get f' i' j' = s.get f' i' j') ∧
    (∀ f' i' j', (s.slewBy dt).bit f' i' j' = s.bit f' i' j') := by
  have h := Keeps.slewBy (μ := fun p => p ∈ [Part.campusOff, Part.cl]) (σ := s) s dt (Keeps.refl _ s) (by simp) (by simp)
  exact ⟨h.pending, h.space.resolve_left (by simp), h.now.resolve_left (by simp), h.bootAt.resolve_left (by simp), h.free.resolve_left (by simp), h.rdata.resolve_left (by simp), h.wres.resolve_left (by simp), h.banks.resolve_left (by simp), h.log.resolve_left (by simp), h.ten.resolve_left (by simp), h.exLast.resolve_left (by simp), h.exAt.resolve_left (by simp), h.ic.resolve_left (by simp), h.broken.resolve_left (by simp), h.pub.resolve_left (by simp), h.zoneEv.resolve_left (by simp), h.safe.resolve_left (by simp), h.safeLoaded.resolve_left (by simp), h.safeUnrec.resolve_left (by simp), h.safeIrq.resolve_left (by simp), h.rtcOff.resolve_left (by simp), h.rtcHeld.resolve_left (by simp), h.cmds.resolve_left (by simp), h.cd.resolve_left (by simp), h.cdg.resolve_left (by simp), h.fwd.resolve_left (by simp), h.sk.resolve_left (by simp), h.sk0mem.resolve_left (by simp), h.subIn.resolve_left (by simp), h.subOut.resolve_left (by simp), h.isl.resolve_left (by simp), h.adc.resolve_left (by simp), h.fan.resolve_left (by simp), h.fio.resolve_left (by simp), h.zb.resolve_left (by simp), h.pnl.resolve_left (by simp), h.hb.resolve_left (by simp), h.boot.resolve_left (by simp), h.clk.resolve_left (by simp), h.pdErrs.resolve_left (by simp), h.ucal.resolve_left (by simp), h.frame.resolve_left (by simp), h.le.resolve_left (by simp), fun a' => by unfold State.word; rw [h.space.resolve_left (by simp)], fun f' i' j' => by unfold State.get State.word; rw [h.space.resolve_left (by simp)], fun f' i' j' => by unfold State.bit State.get State.word; rw [h.space.resolve_left (by simp)]⟩

@[simp] theorem State.logUse_rest (s : State) (t : ℕ) :
    (s.logUse t).pending = s.pending ∧ (s.logUse t).now = s.now ∧ (s.logUse t).campusOff = s.campusOff ∧
    (s.logUse t).bootAt = s.bootAt ∧ (s.logUse t).free = s.free ∧ (s.logUse t).rdata = s.rdata ∧
    (s.logUse t).wres = s.wres ∧ (s.logUse t).banks = s.banks ∧ (s.logUse t).log = s.log ∧
    (s.logUse t).exLast = s.exLast ∧ (s.logUse t).exAt = s.exAt ∧ (s.logUse t).ic = s.ic ∧
    (s.logUse t).broken = s.broken ∧ (s.logUse t).pub = s.pub ∧ (s.logUse t).zoneEv = s.zoneEv ∧
    (s.logUse t).safe = s.safe ∧ (s.logUse t).safeLoaded = s.safeLoaded ∧ (s.logUse t).safeUnrec = s.safeUnrec ∧
    (s.logUse t).safeIrq = s.safeIrq ∧ (s.logUse t).rtcOff = s.rtcOff ∧ (s.logUse t).rtcHeld = s.rtcHeld ∧
    (s.logUse t).cmds = s.cmds ∧ (s.logUse t).cd = s.cd ∧ (s.logUse t).cdg = s.cdg ∧ (s.logUse t).fwd = s.fwd ∧
    (s.logUse t).sk = s.sk ∧ (s.logUse t).sk0mem = s.sk0mem ∧ (s.logUse t).subIn = s.subIn ∧
    (s.logUse t).subOut = s.subOut ∧ (s.logUse t).cl = s.cl ∧ (s.logUse t).isl = s.isl ∧ (s.logUse t).adc = s.adc ∧
    (s.logUse t).fan = s.fan ∧ (s.logUse t).fio = s.fio ∧ (s.logUse t).zb = s.zb ∧ (s.logUse t).pnl = s.pnl ∧
    (s.logUse t).hb = s.hb ∧ (s.logUse t).boot = s.boot ∧ (s.logUse t).clk = s.clk ∧ (s.logUse t).pdErrs = s.pdErrs ∧
    (s.logUse t).ucal = s.ucal ∧ (s.logUse t).frame = s.frame ∧ (s.logUse t).le = s.le := by
  have h := Keeps.logUse (μ := fun p => p ∈ [Part.space, Part.ten]) (σ := s) s t (Keeps.refl _ s) (by simp) (by simp)
  exact ⟨h.pending, h.now.resolve_left (by simp), h.campusOff.resolve_left (by simp), h.bootAt.resolve_left (by simp), h.free.resolve_left (by simp), h.rdata.resolve_left (by simp), h.wres.resolve_left (by simp), h.banks.resolve_left (by simp), h.log.resolve_left (by simp), h.exLast.resolve_left (by simp), h.exAt.resolve_left (by simp), h.ic.resolve_left (by simp), h.broken.resolve_left (by simp), h.pub.resolve_left (by simp), h.zoneEv.resolve_left (by simp), h.safe.resolve_left (by simp), h.safeLoaded.resolve_left (by simp), h.safeUnrec.resolve_left (by simp), h.safeIrq.resolve_left (by simp), h.rtcOff.resolve_left (by simp), h.rtcHeld.resolve_left (by simp), h.cmds.resolve_left (by simp), h.cd.resolve_left (by simp), h.cdg.resolve_left (by simp), h.fwd.resolve_left (by simp), h.sk.resolve_left (by simp), h.sk0mem.resolve_left (by simp), h.subIn.resolve_left (by simp), h.subOut.resolve_left (by simp), h.cl.resolve_left (by simp), h.isl.resolve_left (by simp), h.adc.resolve_left (by simp), h.fan.resolve_left (by simp), h.fio.resolve_left (by simp), h.zb.resolve_left (by simp), h.pnl.resolve_left (by simp), h.hb.resolve_left (by simp), h.boot.resolve_left (by simp), h.clk.resolve_left (by simp), h.pdErrs.resolve_left (by simp), h.ucal.resolve_left (by simp), h.frame.resolve_left (by simp), h.le.resolve_left (by simp)⟩

@[simp] theorem State.aonSeq_rest (s : State) :
    (s.aonSeq).pending = s.pending ∧ (s.aonSeq).now = s.now ∧ (s.aonSeq).campusOff = s.campusOff ∧
    (s.aonSeq).bootAt = s.bootAt ∧ (s.aonSeq).free = s.free ∧ (s.aonSeq).rdata = s.rdata ∧ (s.aonSeq).wres = s.wres ∧
    (s.aonSeq).banks = s.banks ∧ (s.aonSeq).log = s.log ∧ (s.aonSeq).ten = s.ten ∧ (s.aonSeq).exLast = s.exLast ∧
    (s.aonSeq).exAt = s.exAt ∧ (s.aonSeq).ic = s.ic ∧ (s.aonSeq).broken = s.broken ∧ (s.aonSeq).pub = s.pub ∧
    (s.aonSeq).zoneEv = s.zoneEv ∧ (s.aonSeq).safe = s.safe ∧ (s.aonSeq).safeLoaded = s.safeLoaded ∧
    (s.aonSeq).safeUnrec = s.safeUnrec ∧ (s.aonSeq).safeIrq = s.safeIrq ∧ (s.aonSeq).rtcOff = s.rtcOff ∧
    (s.aonSeq).rtcHeld = s.rtcHeld ∧ (s.aonSeq).cmds = s.cmds ∧ (s.aonSeq).cd = s.cd ∧ (s.aonSeq).cdg = s.cdg ∧
    (s.aonSeq).fwd = s.fwd ∧ (s.aonSeq).sk = s.sk ∧ (s.aonSeq).sk0mem = s.sk0mem ∧ (s.aonSeq).subIn = s.subIn ∧
    (s.aonSeq).subOut = s.subOut ∧ (s.aonSeq).cl = s.cl ∧ (s.aonSeq).isl = s.isl ∧ (s.aonSeq).adc = s.adc ∧
    (s.aonSeq).fan = s.fan ∧ (s.aonSeq).fio = s.fio ∧ (s.aonSeq).zb = s.zb ∧ (s.aonSeq).pnl = s.pnl ∧
    (s.aonSeq).hb = s.hb ∧ (s.aonSeq).boot = s.boot ∧ (s.aonSeq).clk = s.clk ∧ (s.aonSeq).pdErrs = s.pdErrs ∧
    (s.aonSeq).ucal = s.ucal ∧ (s.aonSeq).frame = s.frame ∧ (s.aonSeq).le = s.le := by
  have h := Keeps.aonSeq (μ := fun p => p ∈ [Part.space]) (σ := s) s (Keeps.refl _ s) (by simp)
  exact ⟨h.pending, h.now.resolve_left (by simp), h.campusOff.resolve_left (by simp), h.bootAt.resolve_left (by simp), h.free.resolve_left (by simp), h.rdata.resolve_left (by simp), h.wres.resolve_left (by simp), h.banks.resolve_left (by simp), h.log.resolve_left (by simp), h.ten.resolve_left (by simp), h.exLast.resolve_left (by simp), h.exAt.resolve_left (by simp), h.ic.resolve_left (by simp), h.broken.resolve_left (by simp), h.pub.resolve_left (by simp), h.zoneEv.resolve_left (by simp), h.safe.resolve_left (by simp), h.safeLoaded.resolve_left (by simp), h.safeUnrec.resolve_left (by simp), h.safeIrq.resolve_left (by simp), h.rtcOff.resolve_left (by simp), h.rtcHeld.resolve_left (by simp), h.cmds.resolve_left (by simp), h.cd.resolve_left (by simp), h.cdg.resolve_left (by simp), h.fwd.resolve_left (by simp), h.sk.resolve_left (by simp), h.sk0mem.resolve_left (by simp), h.subIn.resolve_left (by simp), h.subOut.resolve_left (by simp), h.cl.resolve_left (by simp), h.isl.resolve_left (by simp), h.adc.resolve_left (by simp), h.fan.resolve_left (by simp), h.fio.resolve_left (by simp), h.zb.resolve_left (by simp), h.pnl.resolve_left (by simp), h.hb.resolve_left (by simp), h.boot.resolve_left (by simp), h.clk.resolve_left (by simp), h.pdErrs.resolve_left (by simp), h.ucal.resolve_left (by simp), h.frame.resolve_left (by simp), h.le.resolve_left (by simp)⟩

@[simp] theorem State.logCut_rest (s : State) :
    (s.logCut).pending = s.pending ∧ (s.logCut).space = s.space ∧ (s.logCut).now = s.now ∧
    (s.logCut).campusOff = s.campusOff ∧ (s.logCut).bootAt = s.bootAt ∧ (s.logCut).free = s.free ∧
    (s.logCut).rdata = s.rdata ∧ (s.logCut).wres = s.wres ∧ (s.logCut).banks = s.banks ∧ (s.logCut).ten = s.ten ∧
    (s.logCut).exLast = s.exLast ∧ (s.logCut).exAt = s.exAt ∧ (s.logCut).ic = s.ic ∧ (s.logCut).broken = s.broken ∧
    (s.logCut).pub = s.pub ∧ (s.logCut).zoneEv = s.zoneEv ∧ (s.logCut).safe = s.safe ∧
    (s.logCut).safeLoaded = s.safeLoaded ∧ (s.logCut).safeUnrec = s.safeUnrec ∧ (s.logCut).safeIrq = s.safeIrq ∧
    (s.logCut).rtcOff = s.rtcOff ∧ (s.logCut).rtcHeld = s.rtcHeld ∧ (s.logCut).cmds = s.cmds ∧ (s.logCut).cd = s.cd ∧
    (s.logCut).cdg = s.cdg ∧ (s.logCut).fwd = s.fwd ∧ (s.logCut).sk = s.sk ∧ (s.logCut).sk0mem = s.sk0mem ∧
    (s.logCut).subIn = s.subIn ∧ (s.logCut).subOut = s.subOut ∧ (s.logCut).cl = s.cl ∧ (s.logCut).isl = s.isl ∧
    (s.logCut).adc = s.adc ∧ (s.logCut).fan = s.fan ∧ (s.logCut).fio = s.fio ∧ (s.logCut).zb = s.zb ∧
    (s.logCut).pnl = s.pnl ∧ (s.logCut).hb = s.hb ∧ (s.logCut).boot = s.boot ∧ (s.logCut).clk = s.clk ∧
    (s.logCut).pdErrs = s.pdErrs ∧ (s.logCut).ucal = s.ucal ∧ (s.logCut).frame = s.frame ∧ (s.logCut).le = s.le ∧
    (∀ a', (s.logCut).word a' = s.word a') ∧ (∀ f' i' j', (s.logCut).get f' i' j' = s.get f' i' j') ∧
    (∀ f' i' j', (s.logCut).bit f' i' j' = s.bit f' i' j') := by
  have h := Keeps.logCut (μ := fun p => p ∈ [Part.log]) (σ := s) s (Keeps.refl _ s) (by simp)
  exact ⟨h.pending, h.space.resolve_left (by simp), h.now.resolve_left (by simp), h.campusOff.resolve_left (by simp), h.bootAt.resolve_left (by simp), h.free.resolve_left (by simp), h.rdata.resolve_left (by simp), h.wres.resolve_left (by simp), h.banks.resolve_left (by simp), h.ten.resolve_left (by simp), h.exLast.resolve_left (by simp), h.exAt.resolve_left (by simp), h.ic.resolve_left (by simp), h.broken.resolve_left (by simp), h.pub.resolve_left (by simp), h.zoneEv.resolve_left (by simp), h.safe.resolve_left (by simp), h.safeLoaded.resolve_left (by simp), h.safeUnrec.resolve_left (by simp), h.safeIrq.resolve_left (by simp), h.rtcOff.resolve_left (by simp), h.rtcHeld.resolve_left (by simp), h.cmds.resolve_left (by simp), h.cd.resolve_left (by simp), h.cdg.resolve_left (by simp), h.fwd.resolve_left (by simp), h.sk.resolve_left (by simp), h.sk0mem.resolve_left (by simp), h.subIn.resolve_left (by simp), h.subOut.resolve_left (by simp), h.cl.resolve_left (by simp), h.isl.resolve_left (by simp), h.adc.resolve_left (by simp), h.fan.resolve_left (by simp), h.fio.resolve_left (by simp), h.zb.resolve_left (by simp), h.pnl.resolve_left (by simp), h.hb.resolve_left (by simp), h.boot.resolve_left (by simp), h.clk.resolve_left (by simp), h.pdErrs.resolve_left (by simp), h.ucal.resolve_left (by simp), h.frame.resolve_left (by simp), h.le.resolve_left (by simp), fun a' => by unfold State.word; rw [h.space.resolve_left (by simp)], fun f' i' j' => by unfold State.get State.word; rw [h.space.resolve_left (by simp)], fun f' i' j' => by unfold State.bit State.get State.word; rw [h.space.resolve_left (by simp)]⟩

@[simp] theorem State.qPlace_rest (s : State) (q : QKind) (t : ℕ) (cls : ℕ) (block : ℕ) (code : ℕ) (fields : List Byte) :
    (s.qPlace q t cls block code fields).pending = s.pending ∧ (s.qPlace q t cls block code fields).space = s.space ∧
    (s.qPlace q t cls block code fields).now = s.now ∧ (s.qPlace q t cls block code fields).campusOff = s.campusOff ∧
    (s.qPlace q t cls block code fields).bootAt = s.bootAt ∧ (s.qPlace q t cls block code fields).free = s.free ∧
    (s.qPlace q t cls block code fields).rdata = s.rdata ∧ (s.qPlace q t cls block code fields).wres = s.wres ∧
    (s.qPlace q t cls block code fields).banks = s.banks ∧ (s.qPlace q t cls block code fields).log = s.log ∧
    (s.qPlace q t cls block code fields).exLast = s.exLast ∧ (s.qPlace q t cls block code fields).exAt = s.exAt ∧
    (s.qPlace q t cls block code fields).ic = s.ic ∧ (s.qPlace q t cls block code fields).broken = s.broken ∧
    (s.qPlace q t cls block code fields).pub = s.pub ∧ (s.qPlace q t cls block code fields).zoneEv = s.zoneEv ∧
    (s.qPlace q t cls block code fields).safe = s.safe ∧
    (s.qPlace q t cls block code fields).safeLoaded = s.safeLoaded ∧
    (s.qPlace q t cls block code fields).safeUnrec = s.safeUnrec ∧
    (s.qPlace q t cls block code fields).safeIrq = s.safeIrq ∧
    (s.qPlace q t cls block code fields).rtcOff = s.rtcOff ∧
    (s.qPlace q t cls block code fields).rtcHeld = s.rtcHeld ∧ (s.qPlace q t cls block code fields).cmds = s.cmds ∧
    (s.qPlace q t cls block code fields).cd = s.cd ∧ (s.qPlace q t cls block code fields).cdg = s.cdg ∧
    (s.qPlace q t cls block code fields).fwd = s.fwd ∧ (s.qPlace q t cls block code fields).sk = s.sk ∧
    (s.qPlace q t cls block code fields).sk0mem = s.sk0mem ∧ (s.qPlace q t cls block code fields).subIn = s.subIn ∧
    (s.qPlace q t cls block code fields).subOut = s.subOut ∧ (s.qPlace q t cls block code fields).cl = s.cl ∧
    (s.qPlace q t cls block code fields).isl = s.isl ∧ (s.qPlace q t cls block code fields).adc = s.adc ∧
    (s.qPlace q t cls block code fields).fan = s.fan ∧ (s.qPlace q t cls block code fields).fio = s.fio ∧
    (s.qPlace q t cls block code fields).zb = s.zb ∧ (s.qPlace q t cls block code fields).pnl = s.pnl ∧
    (s.qPlace q t cls block code fields).hb = s.hb ∧ (s.qPlace q t cls block code fields).boot = s.boot ∧
    (s.qPlace q t cls block code fields).clk = s.clk ∧ (s.qPlace q t cls block code fields).pdErrs = s.pdErrs ∧
    (s.qPlace q t cls block code fields).ucal = s.ucal ∧ (s.qPlace q t cls block code fields).frame = s.frame ∧
    (s.qPlace q t cls block code fields).le = s.le ∧
    (∀ a', (s.qPlace q t cls block code fields).word a' = s.word a') ∧
    (∀ f' i' j', (s.qPlace q t cls block code fields).get f' i' j' = s.get f' i' j') ∧
    (∀ f' i' j', (s.qPlace q t cls block code fields).bit f' i' j' = s.bit f' i' j') := by
  have h := Keeps.qPlace (μ := fun p => p ∈ [Part.ten]) (σ := s) s q t cls block code fields (Keeps.refl _ s) (by simp)
  exact ⟨h.pending, h.space.resolve_left (by simp), h.now.resolve_left (by simp), h.campusOff.resolve_left (by simp), h.bootAt.resolve_left (by simp), h.free.resolve_left (by simp), h.rdata.resolve_left (by simp), h.wres.resolve_left (by simp), h.banks.resolve_left (by simp), h.log.resolve_left (by simp), h.exLast.resolve_left (by simp), h.exAt.resolve_left (by simp), h.ic.resolve_left (by simp), h.broken.resolve_left (by simp), h.pub.resolve_left (by simp), h.zoneEv.resolve_left (by simp), h.safe.resolve_left (by simp), h.safeLoaded.resolve_left (by simp), h.safeUnrec.resolve_left (by simp), h.safeIrq.resolve_left (by simp), h.rtcOff.resolve_left (by simp), h.rtcHeld.resolve_left (by simp), h.cmds.resolve_left (by simp), h.cd.resolve_left (by simp), h.cdg.resolve_left (by simp), h.fwd.resolve_left (by simp), h.sk.resolve_left (by simp), h.sk0mem.resolve_left (by simp), h.subIn.resolve_left (by simp), h.subOut.resolve_left (by simp), h.cl.resolve_left (by simp), h.isl.resolve_left (by simp), h.adc.resolve_left (by simp), h.fan.resolve_left (by simp), h.fio.resolve_left (by simp), h.zb.resolve_left (by simp), h.pnl.resolve_left (by simp), h.hb.resolve_left (by simp), h.boot.resolve_left (by simp), h.clk.resolve_left (by simp), h.pdErrs.resolve_left (by simp), h.ucal.resolve_left (by simp), h.frame.resolve_left (by simp), h.le.resolve_left (by simp), fun a' => by unfold State.word; rw [h.space.resolve_left (by simp)], fun f' i' j' => by unfold State.get State.word; rw [h.space.resolve_left (by simp)], fun f' i' j' => by unfold State.bit State.get State.word; rw [h.space.resolve_left (by simp)]⟩

@[simp] theorem State.qDrop_rest (s : State) (q : QKind) (t : ℕ) :
    (s.qDrop q t).pending = s.pending ∧ (s.qDrop q t).now = s.now ∧ (s.qDrop q t).campusOff = s.campusOff ∧
    (s.qDrop q t).bootAt = s.bootAt ∧ (s.qDrop q t).free = s.free ∧ (s.qDrop q t).rdata = s.rdata ∧
    (s.qDrop q t).wres = s.wres ∧ (s.qDrop q t).banks = s.banks ∧ (s.qDrop q t).log = s.log ∧
    (s.qDrop q t).exLast = s.exLast ∧ (s.qDrop q t).exAt = s.exAt ∧ (s.qDrop q t).ic = s.ic ∧
    (s.qDrop q t).broken = s.broken ∧ (s.qDrop q t).pub = s.pub ∧ (s.qDrop q t).zoneEv = s.zoneEv ∧
    (s.qDrop q t).safe = s.safe ∧ (s.qDrop q t).safeLoaded = s.safeLoaded ∧ (s.qDrop q t).safeUnrec = s.safeUnrec ∧
    (s.qDrop q t).safeIrq = s.safeIrq ∧ (s.qDrop q t).rtcOff = s.rtcOff ∧ (s.qDrop q t).rtcHeld = s.rtcHeld ∧
    (s.qDrop q t).cmds = s.cmds ∧ (s.qDrop q t).cd = s.cd ∧ (s.qDrop q t).cdg = s.cdg ∧ (s.qDrop q t).fwd = s.fwd ∧
    (s.qDrop q t).sk = s.sk ∧ (s.qDrop q t).sk0mem = s.sk0mem ∧ (s.qDrop q t).subIn = s.subIn ∧
    (s.qDrop q t).subOut = s.subOut ∧ (s.qDrop q t).cl = s.cl ∧ (s.qDrop q t).isl = s.isl ∧
    (s.qDrop q t).adc = s.adc ∧ (s.qDrop q t).fan = s.fan ∧ (s.qDrop q t).fio = s.fio ∧ (s.qDrop q t).zb = s.zb ∧
    (s.qDrop q t).pnl = s.pnl ∧ (s.qDrop q t).hb = s.hb ∧ (s.qDrop q t).boot = s.boot ∧ (s.qDrop q t).clk = s.clk ∧
    (s.qDrop q t).pdErrs = s.pdErrs ∧ (s.qDrop q t).ucal = s.ucal ∧ (s.qDrop q t).frame = s.frame ∧
    (s.qDrop q t).le = s.le := by
  have h := Keeps.qDrop (μ := fun p => p ∈ [Part.space, Part.ten]) (σ := s) s q t (Keeps.refl _ s) (by simp) (by simp)
  exact ⟨h.pending, h.now.resolve_left (by simp), h.campusOff.resolve_left (by simp), h.bootAt.resolve_left (by simp), h.free.resolve_left (by simp), h.rdata.resolve_left (by simp), h.wres.resolve_left (by simp), h.banks.resolve_left (by simp), h.log.resolve_left (by simp), h.exLast.resolve_left (by simp), h.exAt.resolve_left (by simp), h.ic.resolve_left (by simp), h.broken.resolve_left (by simp), h.pub.resolve_left (by simp), h.zoneEv.resolve_left (by simp), h.safe.resolve_left (by simp), h.safeLoaded.resolve_left (by simp), h.safeUnrec.resolve_left (by simp), h.safeIrq.resolve_left (by simp), h.rtcOff.resolve_left (by simp), h.rtcHeld.resolve_left (by simp), h.cmds.resolve_left (by simp), h.cd.resolve_left (by simp), h.cdg.resolve_left (by simp), h.fwd.resolve_left (by simp), h.sk.resolve_left (by simp), h.sk0mem.resolve_left (by simp), h.subIn.resolve_left (by simp), h.subOut.resolve_left (by simp), h.cl.resolve_left (by simp), h.isl.resolve_left (by simp), h.adc.resolve_left (by simp), h.fan.resolve_left (by simp), h.fio.resolve_left (by simp), h.zb.resolve_left (by simp), h.pnl.resolve_left (by simp), h.hb.resolve_left (by simp), h.boot.resolve_left (by simp), h.clk.resolve_left (by simp), h.pdErrs.resolve_left (by simp), h.ucal.resolve_left (by simp), h.frame.resolve_left (by simp), h.le.resolve_left (by simp)⟩

@[simp] theorem State.post_rest (s : State) (q : QKind) (t : ℕ) (cls : ℕ) (block : ℕ) (code : ℕ) (fields : List Byte) :
    (s.post q t cls block code fields).pending = s.pending ∧ (s.post q t cls block code fields).now = s.now ∧
    (s.post q t cls block code fields).campusOff = s.campusOff ∧
    (s.post q t cls block code fields).bootAt = s.bootAt ∧ (s.post q t cls block code fields).free = s.free ∧
    (s.post q t cls block code fields).rdata = s.rdata ∧ (s.post q t cls block code fields).wres = s.wres ∧
    (s.post q t cls block code fields).banks = s.banks ∧ (s.post q t cls block code fields).log = s.log ∧
    (s.post q t cls block code fields).exLast = s.exLast ∧ (s.post q t cls block code fields).exAt = s.exAt ∧
    (s.post q t cls block code fields).ic = s.ic ∧ (s.post q t cls block code fields).broken = s.broken ∧
    (s.post q t cls block code fields).pub = s.pub ∧ (s.post q t cls block code fields).zoneEv = s.zoneEv ∧
    (s.post q t cls block code fields).safe = s.safe ∧ (s.post q t cls block code fields).safeLoaded = s.safeLoaded ∧
    (s.post q t cls block code fields).safeUnrec = s.safeUnrec ∧
    (s.post q t cls block code fields).safeIrq = s.safeIrq ∧ (s.post q t cls block code fields).rtcOff = s.rtcOff ∧
    (s.post q t cls block code fields).rtcHeld = s.rtcHeld ∧ (s.post q t cls block code fields).cmds = s.cmds ∧
    (s.post q t cls block code fields).cd = s.cd ∧ (s.post q t cls block code fields).cdg = s.cdg ∧
    (s.post q t cls block code fields).fwd = s.fwd ∧ (s.post q t cls block code fields).sk = s.sk ∧
    (s.post q t cls block code fields).sk0mem = s.sk0mem ∧ (s.post q t cls block code fields).subIn = s.subIn ∧
    (s.post q t cls block code fields).subOut = s.subOut ∧ (s.post q t cls block code fields).cl = s.cl ∧
    (s.post q t cls block code fields).isl = s.isl ∧ (s.post q t cls block code fields).adc = s.adc ∧
    (s.post q t cls block code fields).fan = s.fan ∧ (s.post q t cls block code fields).fio = s.fio ∧
    (s.post q t cls block code fields).zb = s.zb ∧ (s.post q t cls block code fields).pnl = s.pnl ∧
    (s.post q t cls block code fields).hb = s.hb ∧ (s.post q t cls block code fields).boot = s.boot ∧
    (s.post q t cls block code fields).clk = s.clk ∧ (s.post q t cls block code fields).pdErrs = s.pdErrs ∧
    (s.post q t cls block code fields).ucal = s.ucal ∧ (s.post q t cls block code fields).frame = s.frame ∧
    (s.post q t cls block code fields).le = s.le := by
  have h := Keeps.post (μ := fun p => p ∈ [Part.space, Part.ten]) (σ := s) s q t cls block code fields (Keeps.refl _ s) (by simp) (by simp)
  exact ⟨h.pending, h.now.resolve_left (by simp), h.campusOff.resolve_left (by simp), h.bootAt.resolve_left (by simp), h.free.resolve_left (by simp), h.rdata.resolve_left (by simp), h.wres.resolve_left (by simp), h.banks.resolve_left (by simp), h.log.resolve_left (by simp), h.exLast.resolve_left (by simp), h.exAt.resolve_left (by simp), h.ic.resolve_left (by simp), h.broken.resolve_left (by simp), h.pub.resolve_left (by simp), h.zoneEv.resolve_left (by simp), h.safe.resolve_left (by simp), h.safeLoaded.resolve_left (by simp), h.safeUnrec.resolve_left (by simp), h.safeIrq.resolve_left (by simp), h.rtcOff.resolve_left (by simp), h.rtcHeld.resolve_left (by simp), h.cmds.resolve_left (by simp), h.cd.resolve_left (by simp), h.cdg.resolve_left (by simp), h.fwd.resolve_left (by simp), h.sk.resolve_left (by simp), h.sk0mem.resolve_left (by simp), h.subIn.resolve_left (by simp), h.subOut.resolve_left (by simp), h.cl.resolve_left (by simp), h.isl.resolve_left (by simp), h.adc.resolve_left (by simp), h.fan.resolve_left (by simp), h.fio.resolve_left (by simp), h.zb.resolve_left (by simp), h.pnl.resolve_left (by simp), h.hb.resolve_left (by simp), h.boot.resolve_left (by simp), h.clk.resolve_left (by simp), h.pdErrs.resolve_left (by simp), h.ucal.resolve_left (by simp), h.frame.resolve_left (by simp), h.le.resolve_left (by simp)⟩

@[simp] theorem State.postErr_rest (s : State) (t : ℕ) (block : ℕ) (code : ℕ) (fields : List Byte) :
    (s.postErr t block code fields).pending = s.pending ∧ (s.postErr t block code fields).now = s.now ∧
    (s.postErr t block code fields).campusOff = s.campusOff ∧ (s.postErr t block code fields).bootAt = s.bootAt ∧
    (s.postErr t block code fields).free = s.free ∧ (s.postErr t block code fields).rdata = s.rdata ∧
    (s.postErr t block code fields).wres = s.wres ∧ (s.postErr t block code fields).banks = s.banks ∧
    (s.postErr t block code fields).log = s.log ∧ (s.postErr t block code fields).exLast = s.exLast ∧
    (s.postErr t block code fields).exAt = s.exAt ∧ (s.postErr t block code fields).ic = s.ic ∧
    (s.postErr t block code fields).broken = s.broken ∧ (s.postErr t block code fields).pub = s.pub ∧
    (s.postErr t block code fields).zoneEv = s.zoneEv ∧ (s.postErr t block code fields).safe = s.safe ∧
    (s.postErr t block code fields).safeLoaded = s.safeLoaded ∧
    (s.postErr t block code fields).safeUnrec = s.safeUnrec ∧ (s.postErr t block code fields).safeIrq = s.safeIrq ∧
    (s.postErr t block code fields).rtcOff = s.rtcOff ∧ (s.postErr t block code fields).rtcHeld = s.rtcHeld ∧
    (s.postErr t block code fields).cmds = s.cmds ∧ (s.postErr t block code fields).cd = s.cd ∧
    (s.postErr t block code fields).cdg = s.cdg ∧ (s.postErr t block code fields).fwd = s.fwd ∧
    (s.postErr t block code fields).sk = s.sk ∧ (s.postErr t block code fields).sk0mem = s.sk0mem ∧
    (s.postErr t block code fields).subIn = s.subIn ∧ (s.postErr t block code fields).subOut = s.subOut ∧
    (s.postErr t block code fields).cl = s.cl ∧ (s.postErr t block code fields).isl = s.isl ∧
    (s.postErr t block code fields).adc = s.adc ∧ (s.postErr t block code fields).fan = s.fan ∧
    (s.postErr t block code fields).fio = s.fio ∧ (s.postErr t block code fields).zb = s.zb ∧
    (s.postErr t block code fields).pnl = s.pnl ∧ (s.postErr t block code fields).hb = s.hb ∧
    (s.postErr t block code fields).boot = s.boot ∧ (s.postErr t block code fields).clk = s.clk ∧
    (s.postErr t block code fields).pdErrs = s.pdErrs ∧ (s.postErr t block code fields).ucal = s.ucal ∧
    (s.postErr t block code fields).frame = s.frame ∧ (s.postErr t block code fields).le = s.le := by
  have h := Keeps.postErr (μ := fun p => p ∈ [Part.space, Part.ten]) (σ := s) s t block code fields (Keeps.refl _ s) (by simp) (by simp)
  exact ⟨h.pending, h.now.resolve_left (by simp), h.campusOff.resolve_left (by simp), h.bootAt.resolve_left (by simp), h.free.resolve_left (by simp), h.rdata.resolve_left (by simp), h.wres.resolve_left (by simp), h.banks.resolve_left (by simp), h.log.resolve_left (by simp), h.exLast.resolve_left (by simp), h.exAt.resolve_left (by simp), h.ic.resolve_left (by simp), h.broken.resolve_left (by simp), h.pub.resolve_left (by simp), h.zoneEv.resolve_left (by simp), h.safe.resolve_left (by simp), h.safeLoaded.resolve_left (by simp), h.safeUnrec.resolve_left (by simp), h.safeIrq.resolve_left (by simp), h.rtcOff.resolve_left (by simp), h.rtcHeld.resolve_left (by simp), h.cmds.resolve_left (by simp), h.cd.resolve_left (by simp), h.cdg.resolve_left (by simp), h.fwd.resolve_left (by simp), h.sk.resolve_left (by simp), h.sk0mem.resolve_left (by simp), h.subIn.resolve_left (by simp), h.subOut.resolve_left (by simp), h.cl.resolve_left (by simp), h.isl.resolve_left (by simp), h.adc.resolve_left (by simp), h.fan.resolve_left (by simp), h.fio.resolve_left (by simp), h.zb.resolve_left (by simp), h.pnl.resolve_left (by simp), h.hb.resolve_left (by simp), h.boot.resolve_left (by simp), h.clk.resolve_left (by simp), h.pdErrs.resolve_left (by simp), h.ucal.resolve_left (by simp), h.frame.resolve_left (by simp), h.le.resolve_left (by simp)⟩

@[simp] theorem State.postEvt_rest (s : State) (t : ℕ) (block : ℕ) (code : ℕ) (fields : List Byte) :
    (s.postEvt t block code fields).pending = s.pending ∧ (s.postEvt t block code fields).now = s.now ∧
    (s.postEvt t block code fields).campusOff = s.campusOff ∧ (s.postEvt t block code fields).bootAt = s.bootAt ∧
    (s.postEvt t block code fields).free = s.free ∧ (s.postEvt t block code fields).rdata = s.rdata ∧
    (s.postEvt t block code fields).wres = s.wres ∧ (s.postEvt t block code fields).banks = s.banks ∧
    (s.postEvt t block code fields).log = s.log ∧ (s.postEvt t block code fields).exLast = s.exLast ∧
    (s.postEvt t block code fields).exAt = s.exAt ∧ (s.postEvt t block code fields).ic = s.ic ∧
    (s.postEvt t block code fields).broken = s.broken ∧ (s.postEvt t block code fields).pub = s.pub ∧
    (s.postEvt t block code fields).zoneEv = s.zoneEv ∧ (s.postEvt t block code fields).safe = s.safe ∧
    (s.postEvt t block code fields).safeLoaded = s.safeLoaded ∧
    (s.postEvt t block code fields).safeUnrec = s.safeUnrec ∧ (s.postEvt t block code fields).safeIrq = s.safeIrq ∧
    (s.postEvt t block code fields).rtcOff = s.rtcOff ∧ (s.postEvt t block code fields).rtcHeld = s.rtcHeld ∧
    (s.postEvt t block code fields).cmds = s.cmds ∧ (s.postEvt t block code fields).cd = s.cd ∧
    (s.postEvt t block code fields).cdg = s.cdg ∧ (s.postEvt t block code fields).fwd = s.fwd ∧
    (s.postEvt t block code fields).sk = s.sk ∧ (s.postEvt t block code fields).sk0mem = s.sk0mem ∧
    (s.postEvt t block code fields).subIn = s.subIn ∧ (s.postEvt t block code fields).subOut = s.subOut ∧
    (s.postEvt t block code fields).cl = s.cl ∧ (s.postEvt t block code fields).isl = s.isl ∧
    (s.postEvt t block code fields).adc = s.adc ∧ (s.postEvt t block code fields).fan = s.fan ∧
    (s.postEvt t block code fields).fio = s.fio ∧ (s.postEvt t block code fields).zb = s.zb ∧
    (s.postEvt t block code fields).pnl = s.pnl ∧ (s.postEvt t block code fields).hb = s.hb ∧
    (s.postEvt t block code fields).boot = s.boot ∧ (s.postEvt t block code fields).clk = s.clk ∧
    (s.postEvt t block code fields).pdErrs = s.pdErrs ∧ (s.postEvt t block code fields).ucal = s.ucal ∧
    (s.postEvt t block code fields).frame = s.frame ∧ (s.postEvt t block code fields).le = s.le := by
  have h := Keeps.postEvt (μ := fun p => p ∈ [Part.space, Part.ten]) (σ := s) s t block code fields (Keeps.refl _ s) (by simp) (by simp)
  exact ⟨h.pending, h.now.resolve_left (by simp), h.campusOff.resolve_left (by simp), h.bootAt.resolve_left (by simp), h.free.resolve_left (by simp), h.rdata.resolve_left (by simp), h.wres.resolve_left (by simp), h.banks.resolve_left (by simp), h.log.resolve_left (by simp), h.exLast.resolve_left (by simp), h.exAt.resolve_left (by simp), h.ic.resolve_left (by simp), h.broken.resolve_left (by simp), h.pub.resolve_left (by simp), h.zoneEv.resolve_left (by simp), h.safe.resolve_left (by simp), h.safeLoaded.resolve_left (by simp), h.safeUnrec.resolve_left (by simp), h.safeIrq.resolve_left (by simp), h.rtcOff.resolve_left (by simp), h.rtcHeld.resolve_left (by simp), h.cmds.resolve_left (by simp), h.cd.resolve_left (by simp), h.cdg.resolve_left (by simp), h.fwd.resolve_left (by simp), h.sk.resolve_left (by simp), h.sk0mem.resolve_left (by simp), h.subIn.resolve_left (by simp), h.subOut.resolve_left (by simp), h.cl.resolve_left (by simp), h.isl.resolve_left (by simp), h.adc.resolve_left (by simp), h.fan.resolve_left (by simp), h.fio.resolve_left (by simp), h.zb.resolve_left (by simp), h.pnl.resolve_left (by simp), h.hb.resolve_left (by simp), h.boot.resolve_left (by simp), h.clk.resolve_left (by simp), h.pdErrs.resolve_left (by simp), h.ucal.resolve_left (by simp), h.frame.resolve_left (by simp), h.le.resolve_left (by simp)⟩

@[simp] theorem State.postErr2_rest (s : State) (t : ℕ) (block : ℕ) (code : ℕ) (fields : List Byte) :
    (s.postErr2 t block code fields).pending = s.pending ∧ (s.postErr2 t block code fields).now = s.now ∧
    (s.postErr2 t block code fields).campusOff = s.campusOff ∧ (s.postErr2 t block code fields).bootAt = s.bootAt ∧
    (s.postErr2 t block code fields).free = s.free ∧ (s.postErr2 t block code fields).rdata = s.rdata ∧
    (s.postErr2 t block code fields).wres = s.wres ∧ (s.postErr2 t block code fields).banks = s.banks ∧
    (s.postErr2 t block code fields).log = s.log ∧ (s.postErr2 t block code fields).exLast = s.exLast ∧
    (s.postErr2 t block code fields).exAt = s.exAt ∧ (s.postErr2 t block code fields).ic = s.ic ∧
    (s.postErr2 t block code fields).broken = s.broken ∧ (s.postErr2 t block code fields).pub = s.pub ∧
    (s.postErr2 t block code fields).zoneEv = s.zoneEv ∧ (s.postErr2 t block code fields).safe = s.safe ∧
    (s.postErr2 t block code fields).safeLoaded = s.safeLoaded ∧
    (s.postErr2 t block code fields).safeUnrec = s.safeUnrec ∧ (s.postErr2 t block code fields).safeIrq = s.safeIrq ∧
    (s.postErr2 t block code fields).rtcOff = s.rtcOff ∧ (s.postErr2 t block code fields).rtcHeld = s.rtcHeld ∧
    (s.postErr2 t block code fields).cmds = s.cmds ∧ (s.postErr2 t block code fields).cd = s.cd ∧
    (s.postErr2 t block code fields).cdg = s.cdg ∧ (s.postErr2 t block code fields).fwd = s.fwd ∧
    (s.postErr2 t block code fields).sk = s.sk ∧ (s.postErr2 t block code fields).sk0mem = s.sk0mem ∧
    (s.postErr2 t block code fields).subIn = s.subIn ∧ (s.postErr2 t block code fields).subOut = s.subOut ∧
    (s.postErr2 t block code fields).cl = s.cl ∧ (s.postErr2 t block code fields).isl = s.isl ∧
    (s.postErr2 t block code fields).adc = s.adc ∧ (s.postErr2 t block code fields).fan = s.fan ∧
    (s.postErr2 t block code fields).fio = s.fio ∧ (s.postErr2 t block code fields).zb = s.zb ∧
    (s.postErr2 t block code fields).pnl = s.pnl ∧ (s.postErr2 t block code fields).hb = s.hb ∧
    (s.postErr2 t block code fields).boot = s.boot ∧ (s.postErr2 t block code fields).clk = s.clk ∧
    (s.postErr2 t block code fields).pdErrs = s.pdErrs ∧ (s.postErr2 t block code fields).ucal = s.ucal ∧
    (s.postErr2 t block code fields).frame = s.frame ∧ (s.postErr2 t block code fields).le = s.le := by
  have h := Keeps.postErr2 (μ := fun p => p ∈ [Part.space, Part.ten]) (σ := s) s t block code fields (Keeps.refl _ s) (by simp) (by simp)
  exact ⟨h.pending, h.now.resolve_left (by simp), h.campusOff.resolve_left (by simp), h.bootAt.resolve_left (by simp), h.free.resolve_left (by simp), h.rdata.resolve_left (by simp), h.wres.resolve_left (by simp), h.banks.resolve_left (by simp), h.log.resolve_left (by simp), h.exLast.resolve_left (by simp), h.exAt.resolve_left (by simp), h.ic.resolve_left (by simp), h.broken.resolve_left (by simp), h.pub.resolve_left (by simp), h.zoneEv.resolve_left (by simp), h.safe.resolve_left (by simp), h.safeLoaded.resolve_left (by simp), h.safeUnrec.resolve_left (by simp), h.safeIrq.resolve_left (by simp), h.rtcOff.resolve_left (by simp), h.rtcHeld.resolve_left (by simp), h.cmds.resolve_left (by simp), h.cd.resolve_left (by simp), h.cdg.resolve_left (by simp), h.fwd.resolve_left (by simp), h.sk.resolve_left (by simp), h.sk0mem.resolve_left (by simp), h.subIn.resolve_left (by simp), h.subOut.resolve_left (by simp), h.cl.resolve_left (by simp), h.isl.resolve_left (by simp), h.adc.resolve_left (by simp), h.fan.resolve_left (by simp), h.fio.resolve_left (by simp), h.zb.resolve_left (by simp), h.pnl.resolve_left (by simp), h.hb.resolve_left (by simp), h.boot.resolve_left (by simp), h.clk.resolve_left (by simp), h.pdErrs.resolve_left (by simp), h.ucal.resolve_left (by simp), h.frame.resolve_left (by simp), h.le.resolve_left (by simp)⟩

@[simp] theorem State.postEvt2_rest (s : State) (t : ℕ) (block : ℕ) (code : ℕ) (fields : List Byte) :
    (s.postEvt2 t block code fields).pending = s.pending ∧ (s.postEvt2 t block code fields).now = s.now ∧
    (s.postEvt2 t block code fields).campusOff = s.campusOff ∧ (s.postEvt2 t block code fields).bootAt = s.bootAt ∧
    (s.postEvt2 t block code fields).free = s.free ∧ (s.postEvt2 t block code fields).rdata = s.rdata ∧
    (s.postEvt2 t block code fields).wres = s.wres ∧ (s.postEvt2 t block code fields).banks = s.banks ∧
    (s.postEvt2 t block code fields).log = s.log ∧ (s.postEvt2 t block code fields).exLast = s.exLast ∧
    (s.postEvt2 t block code fields).exAt = s.exAt ∧ (s.postEvt2 t block code fields).ic = s.ic ∧
    (s.postEvt2 t block code fields).broken = s.broken ∧ (s.postEvt2 t block code fields).pub = s.pub ∧
    (s.postEvt2 t block code fields).zoneEv = s.zoneEv ∧ (s.postEvt2 t block code fields).safe = s.safe ∧
    (s.postEvt2 t block code fields).safeLoaded = s.safeLoaded ∧
    (s.postEvt2 t block code fields).safeUnrec = s.safeUnrec ∧ (s.postEvt2 t block code fields).safeIrq = s.safeIrq ∧
    (s.postEvt2 t block code fields).rtcOff = s.rtcOff ∧ (s.postEvt2 t block code fields).rtcHeld = s.rtcHeld ∧
    (s.postEvt2 t block code fields).cmds = s.cmds ∧ (s.postEvt2 t block code fields).cd = s.cd ∧
    (s.postEvt2 t block code fields).cdg = s.cdg ∧ (s.postEvt2 t block code fields).fwd = s.fwd ∧
    (s.postEvt2 t block code fields).sk = s.sk ∧ (s.postEvt2 t block code fields).sk0mem = s.sk0mem ∧
    (s.postEvt2 t block code fields).subIn = s.subIn ∧ (s.postEvt2 t block code fields).subOut = s.subOut ∧
    (s.postEvt2 t block code fields).cl = s.cl ∧ (s.postEvt2 t block code fields).isl = s.isl ∧
    (s.postEvt2 t block code fields).adc = s.adc ∧ (s.postEvt2 t block code fields).fan = s.fan ∧
    (s.postEvt2 t block code fields).fio = s.fio ∧ (s.postEvt2 t block code fields).zb = s.zb ∧
    (s.postEvt2 t block code fields).pnl = s.pnl ∧ (s.postEvt2 t block code fields).hb = s.hb ∧
    (s.postEvt2 t block code fields).boot = s.boot ∧ (s.postEvt2 t block code fields).clk = s.clk ∧
    (s.postEvt2 t block code fields).pdErrs = s.pdErrs ∧ (s.postEvt2 t block code fields).ucal = s.ucal ∧
    (s.postEvt2 t block code fields).frame = s.frame ∧ (s.postEvt2 t block code fields).le = s.le := by
  have h := Keeps.postEvt2 (μ := fun p => p ∈ [Part.space, Part.ten]) (σ := s) s t block code fields (Keeps.refl _ s) (by simp) (by simp)
  exact ⟨h.pending, h.now.resolve_left (by simp), h.campusOff.resolve_left (by simp), h.bootAt.resolve_left (by simp), h.free.resolve_left (by simp), h.rdata.resolve_left (by simp), h.wres.resolve_left (by simp), h.banks.resolve_left (by simp), h.log.resolve_left (by simp), h.exLast.resolve_left (by simp), h.exAt.resolve_left (by simp), h.ic.resolve_left (by simp), h.broken.resolve_left (by simp), h.pub.resolve_left (by simp), h.zoneEv.resolve_left (by simp), h.safe.resolve_left (by simp), h.safeLoaded.resolve_left (by simp), h.safeUnrec.resolve_left (by simp), h.safeIrq.resolve_left (by simp), h.rtcOff.resolve_left (by simp), h.rtcHeld.resolve_left (by simp), h.cmds.resolve_left (by simp), h.cd.resolve_left (by simp), h.cdg.resolve_left (by simp), h.fwd.resolve_left (by simp), h.sk.resolve_left (by simp), h.sk0mem.resolve_left (by simp), h.subIn.resolve_left (by simp), h.subOut.resolve_left (by simp), h.cl.resolve_left (by simp), h.isl.resolve_left (by simp), h.adc.resolve_left (by simp), h.fan.resolve_left (by simp), h.fio.resolve_left (by simp), h.zb.resolve_left (by simp), h.pnl.resolve_left (by simp), h.hb.resolve_left (by simp), h.boot.resolve_left (by simp), h.clk.resolve_left (by simp), h.pdErrs.resolve_left (by simp), h.ucal.resolve_left (by simp), h.frame.resolve_left (by simp), h.le.resolve_left (by simp)⟩

@[simp] theorem State.irqPost_rest (s : State) (n : ℕ) :
    (s.irqPost n).pending = s.pending ∧ (s.irqPost n).now = s.now ∧ (s.irqPost n).campusOff = s.campusOff ∧
    (s.irqPost n).bootAt = s.bootAt ∧ (s.irqPost n).rdata = s.rdata ∧ (s.irqPost n).wres = s.wres ∧
    (s.irqPost n).banks = s.banks ∧ (s.irqPost n).log = s.log ∧ (s.irqPost n).exLast = s.exLast ∧
    (s.irqPost n).exAt = s.exAt ∧ (s.irqPost n).ic = s.ic ∧ (s.irqPost n).broken = s.broken ∧
    (s.irqPost n).pub = s.pub ∧ (s.irqPost n).zoneEv = s.zoneEv ∧ (s.irqPost n).safe = s.safe ∧
    (s.irqPost n).safeLoaded = s.safeLoaded ∧ (s.irqPost n).safeUnrec = s.safeUnrec ∧
    (s.irqPost n).safeIrq = s.safeIrq ∧ (s.irqPost n).rtcOff = s.rtcOff ∧ (s.irqPost n).rtcHeld = s.rtcHeld ∧
    (s.irqPost n).cmds = s.cmds ∧ (s.irqPost n).cd = s.cd ∧ (s.irqPost n).cdg = s.cdg ∧ (s.irqPost n).fwd = s.fwd ∧
    (s.irqPost n).sk = s.sk ∧ (s.irqPost n).sk0mem = s.sk0mem ∧ (s.irqPost n).subIn = s.subIn ∧
    (s.irqPost n).subOut = s.subOut ∧ (s.irqPost n).cl = s.cl ∧ (s.irqPost n).isl = s.isl ∧
    (s.irqPost n).adc = s.adc ∧ (s.irqPost n).fan = s.fan ∧ (s.irqPost n).fio = s.fio ∧ (s.irqPost n).zb = s.zb ∧
    (s.irqPost n).pnl = s.pnl ∧ (s.irqPost n).hb = s.hb ∧ (s.irqPost n).boot = s.boot ∧ (s.irqPost n).clk = s.clk ∧
    (s.irqPost n).pdErrs = s.pdErrs ∧ (s.irqPost n).ucal = s.ucal ∧ (s.irqPost n).frame = s.frame ∧
    (s.irqPost n).le = s.le := by
  have h := Keeps.irqPost (μ := fun p => p ∈ [Part.space, Part.free, Part.ten]) (σ := s) s n (Keeps.refl _ s) (by simp) (by simp) (by simp)
  exact ⟨h.pending, h.now.resolve_left (by simp), h.campusOff.resolve_left (by simp), h.bootAt.resolve_left (by simp), h.rdata.resolve_left (by simp), h.wres.resolve_left (by simp), h.banks.resolve_left (by simp), h.log.resolve_left (by simp), h.exLast.resolve_left (by simp), h.exAt.resolve_left (by simp), h.ic.resolve_left (by simp), h.broken.resolve_left (by simp), h.pub.resolve_left (by simp), h.zoneEv.resolve_left (by simp), h.safe.resolve_left (by simp), h.safeLoaded.resolve_left (by simp), h.safeUnrec.resolve_left (by simp), h.safeIrq.resolve_left (by simp), h.rtcOff.resolve_left (by simp), h.rtcHeld.resolve_left (by simp), h.cmds.resolve_left (by simp), h.cd.resolve_left (by simp), h.cdg.resolve_left (by simp), h.fwd.resolve_left (by simp), h.sk.resolve_left (by simp), h.sk0mem.resolve_left (by simp), h.subIn.resolve_left (by simp), h.subOut.resolve_left (by simp), h.cl.resolve_left (by simp), h.isl.resolve_left (by simp), h.adc.resolve_left (by simp), h.fan.resolve_left (by simp), h.fio.resolve_left (by simp), h.zb.resolve_left (by simp), h.pnl.resolve_left (by simp), h.hb.resolve_left (by simp), h.boot.resolve_left (by simp), h.clk.resolve_left (by simp), h.pdErrs.resolve_left (by simp), h.ucal.resolve_left (by simp), h.frame.resolve_left (by simp), h.le.resolve_left (by simp)⟩

@[simp] theorem State.icUpd_rest (s : State) (n : ℕ) (f : IcState → IcState) :
    (s.icUpd n f).pending = s.pending ∧ (s.icUpd n f).now = s.now ∧ (s.icUpd n f).campusOff = s.campusOff ∧
    (s.icUpd n f).bootAt = s.bootAt ∧ (s.icUpd n f).rdata = s.rdata ∧ (s.icUpd n f).wres = s.wres ∧
    (s.icUpd n f).banks = s.banks ∧ (s.icUpd n f).log = s.log ∧ (s.icUpd n f).exLast = s.exLast ∧
    (s.icUpd n f).exAt = s.exAt ∧ (s.icUpd n f).broken = s.broken ∧ (s.icUpd n f).pub = s.pub ∧
    (s.icUpd n f).zoneEv = s.zoneEv ∧ (s.icUpd n f).safe = s.safe ∧ (s.icUpd n f).safeLoaded = s.safeLoaded ∧
    (s.icUpd n f).safeUnrec = s.safeUnrec ∧ (s.icUpd n f).safeIrq = s.safeIrq ∧ (s.icUpd n f).rtcOff = s.rtcOff ∧
    (s.icUpd n f).rtcHeld = s.rtcHeld ∧ (s.icUpd n f).cmds = s.cmds ∧ (s.icUpd n f).cd = s.cd ∧
    (s.icUpd n f).cdg = s.cdg ∧ (s.icUpd n f).fwd = s.fwd ∧ (s.icUpd n f).sk = s.sk ∧
    (s.icUpd n f).sk0mem = s.sk0mem ∧ (s.icUpd n f).subIn = s.subIn ∧ (s.icUpd n f).subOut = s.subOut ∧
    (s.icUpd n f).cl = s.cl ∧ (s.icUpd n f).isl = s.isl ∧ (s.icUpd n f).adc = s.adc ∧ (s.icUpd n f).fan = s.fan ∧
    (s.icUpd n f).fio = s.fio ∧ (s.icUpd n f).zb = s.zb ∧ (s.icUpd n f).pnl = s.pnl ∧ (s.icUpd n f).hb = s.hb ∧
    (s.icUpd n f).boot = s.boot ∧ (s.icUpd n f).clk = s.clk ∧ (s.icUpd n f).pdErrs = s.pdErrs ∧
    (s.icUpd n f).ucal = s.ucal ∧ (s.icUpd n f).frame = s.frame ∧ (s.icUpd n f).le = s.le := by
  have h := Keeps.icUpd (μ := fun p => p ∈ [Part.space, Part.free, Part.ten, Part.ic]) (σ := s) s n f (Keeps.refl _ s) (by simp) (by simp) (by simp) (by simp)
  exact ⟨h.pending, h.now.resolve_left (by simp), h.campusOff.resolve_left (by simp), h.bootAt.resolve_left (by simp), h.rdata.resolve_left (by simp), h.wres.resolve_left (by simp), h.banks.resolve_left (by simp), h.log.resolve_left (by simp), h.exLast.resolve_left (by simp), h.exAt.resolve_left (by simp), h.broken.resolve_left (by simp), h.pub.resolve_left (by simp), h.zoneEv.resolve_left (by simp), h.safe.resolve_left (by simp), h.safeLoaded.resolve_left (by simp), h.safeUnrec.resolve_left (by simp), h.safeIrq.resolve_left (by simp), h.rtcOff.resolve_left (by simp), h.rtcHeld.resolve_left (by simp), h.cmds.resolve_left (by simp), h.cd.resolve_left (by simp), h.cdg.resolve_left (by simp), h.fwd.resolve_left (by simp), h.sk.resolve_left (by simp), h.sk0mem.resolve_left (by simp), h.subIn.resolve_left (by simp), h.subOut.resolve_left (by simp), h.cl.resolve_left (by simp), h.isl.resolve_left (by simp), h.adc.resolve_left (by simp), h.fan.resolve_left (by simp), h.fio.resolve_left (by simp), h.zb.resolve_left (by simp), h.pnl.resolve_left (by simp), h.hb.resolve_left (by simp), h.boot.resolve_left (by simp), h.clk.resolve_left (by simp), h.pdErrs.resolve_left (by simp), h.ucal.resolve_left (by simp), h.frame.resolve_left (by simp), h.le.resolve_left (by simp)⟩

@[simp] theorem State.icPulse_rest (s : State) (n : ℕ) :
    (s.icPulse n).pending = s.pending ∧ (s.icPulse n).now = s.now ∧ (s.icPulse n).campusOff = s.campusOff ∧
    (s.icPulse n).bootAt = s.bootAt ∧ (s.icPulse n).rdata = s.rdata ∧ (s.icPulse n).wres = s.wres ∧
    (s.icPulse n).banks = s.banks ∧ (s.icPulse n).log = s.log ∧ (s.icPulse n).exLast = s.exLast ∧
    (s.icPulse n).exAt = s.exAt ∧ (s.icPulse n).broken = s.broken ∧ (s.icPulse n).pub = s.pub ∧
    (s.icPulse n).zoneEv = s.zoneEv ∧ (s.icPulse n).safe = s.safe ∧ (s.icPulse n).safeLoaded = s.safeLoaded ∧
    (s.icPulse n).safeUnrec = s.safeUnrec ∧ (s.icPulse n).safeIrq = s.safeIrq ∧ (s.icPulse n).rtcOff = s.rtcOff ∧
    (s.icPulse n).rtcHeld = s.rtcHeld ∧ (s.icPulse n).cmds = s.cmds ∧ (s.icPulse n).cd = s.cd ∧
    (s.icPulse n).cdg = s.cdg ∧ (s.icPulse n).fwd = s.fwd ∧ (s.icPulse n).sk = s.sk ∧
    (s.icPulse n).sk0mem = s.sk0mem ∧ (s.icPulse n).subIn = s.subIn ∧ (s.icPulse n).subOut = s.subOut ∧
    (s.icPulse n).cl = s.cl ∧ (s.icPulse n).isl = s.isl ∧ (s.icPulse n).adc = s.adc ∧ (s.icPulse n).fan = s.fan ∧
    (s.icPulse n).fio = s.fio ∧ (s.icPulse n).zb = s.zb ∧ (s.icPulse n).pnl = s.pnl ∧ (s.icPulse n).hb = s.hb ∧
    (s.icPulse n).boot = s.boot ∧ (s.icPulse n).clk = s.clk ∧ (s.icPulse n).pdErrs = s.pdErrs ∧
    (s.icPulse n).ucal = s.ucal ∧ (s.icPulse n).frame = s.frame ∧ (s.icPulse n).le = s.le := by
  have h := Keeps.icPulse (μ := fun p => p ∈ [Part.space, Part.free, Part.ten, Part.ic]) (σ := s) s n (Keeps.refl _ s) (by simp) (by simp) (by simp) (by simp)
  exact ⟨h.pending, h.now.resolve_left (by simp), h.campusOff.resolve_left (by simp), h.bootAt.resolve_left (by simp), h.rdata.resolve_left (by simp), h.wres.resolve_left (by simp), h.banks.resolve_left (by simp), h.log.resolve_left (by simp), h.exLast.resolve_left (by simp), h.exAt.resolve_left (by simp), h.broken.resolve_left (by simp), h.pub.resolve_left (by simp), h.zoneEv.resolve_left (by simp), h.safe.resolve_left (by simp), h.safeLoaded.resolve_left (by simp), h.safeUnrec.resolve_left (by simp), h.safeIrq.resolve_left (by simp), h.rtcOff.resolve_left (by simp), h.rtcHeld.resolve_left (by simp), h.cmds.resolve_left (by simp), h.cd.resolve_left (by simp), h.cdg.resolve_left (by simp), h.fwd.resolve_left (by simp), h.sk.resolve_left (by simp), h.sk0mem.resolve_left (by simp), h.subIn.resolve_left (by simp), h.subOut.resolve_left (by simp), h.cl.resolve_left (by simp), h.isl.resolve_left (by simp), h.adc.resolve_left (by simp), h.fan.resolve_left (by simp), h.fio.resolve_left (by simp), h.zb.resolve_left (by simp), h.pnl.resolve_left (by simp), h.hb.resolve_left (by simp), h.boot.resolve_left (by simp), h.clk.resolve_left (by simp), h.pdErrs.resolve_left (by simp), h.ucal.resolve_left (by simp), h.frame.resolve_left (by simp), h.le.resolve_left (by simp)⟩

@[simp] theorem State.icSet_rest (s : State) (n : ℕ) :
    (s.icSet n).pending = s.pending ∧ (s.icSet n).now = s.now ∧ (s.icSet n).campusOff = s.campusOff ∧
    (s.icSet n).bootAt = s.bootAt ∧ (s.icSet n).rdata = s.rdata ∧ (s.icSet n).wres = s.wres ∧
    (s.icSet n).banks = s.banks ∧ (s.icSet n).log = s.log ∧ (s.icSet n).exLast = s.exLast ∧
    (s.icSet n).exAt = s.exAt ∧ (s.icSet n).broken = s.broken ∧ (s.icSet n).pub = s.pub ∧
    (s.icSet n).zoneEv = s.zoneEv ∧ (s.icSet n).safe = s.safe ∧ (s.icSet n).safeLoaded = s.safeLoaded ∧
    (s.icSet n).safeUnrec = s.safeUnrec ∧ (s.icSet n).safeIrq = s.safeIrq ∧ (s.icSet n).rtcOff = s.rtcOff ∧
    (s.icSet n).rtcHeld = s.rtcHeld ∧ (s.icSet n).cmds = s.cmds ∧ (s.icSet n).cd = s.cd ∧ (s.icSet n).cdg = s.cdg ∧
    (s.icSet n).fwd = s.fwd ∧ (s.icSet n).sk = s.sk ∧ (s.icSet n).sk0mem = s.sk0mem ∧ (s.icSet n).subIn = s.subIn ∧
    (s.icSet n).subOut = s.subOut ∧ (s.icSet n).cl = s.cl ∧ (s.icSet n).isl = s.isl ∧ (s.icSet n).adc = s.adc ∧
    (s.icSet n).fan = s.fan ∧ (s.icSet n).fio = s.fio ∧ (s.icSet n).zb = s.zb ∧ (s.icSet n).pnl = s.pnl ∧
    (s.icSet n).hb = s.hb ∧ (s.icSet n).boot = s.boot ∧ (s.icSet n).clk = s.clk ∧ (s.icSet n).pdErrs = s.pdErrs ∧
    (s.icSet n).ucal = s.ucal ∧ (s.icSet n).frame = s.frame ∧ (s.icSet n).le = s.le := by
  have h := Keeps.icSet (μ := fun p => p ∈ [Part.space, Part.free, Part.ten, Part.ic]) (σ := s) s n (Keeps.refl _ s) (by simp) (by simp) (by simp) (by simp)
  exact ⟨h.pending, h.now.resolve_left (by simp), h.campusOff.resolve_left (by simp), h.bootAt.resolve_left (by simp), h.rdata.resolve_left (by simp), h.wres.resolve_left (by simp), h.banks.resolve_left (by simp), h.log.resolve_left (by simp), h.exLast.resolve_left (by simp), h.exAt.resolve_left (by simp), h.broken.resolve_left (by simp), h.pub.resolve_left (by simp), h.zoneEv.resolve_left (by simp), h.safe.resolve_left (by simp), h.safeLoaded.resolve_left (by simp), h.safeUnrec.resolve_left (by simp), h.safeIrq.resolve_left (by simp), h.rtcOff.resolve_left (by simp), h.rtcHeld.resolve_left (by simp), h.cmds.resolve_left (by simp), h.cd.resolve_left (by simp), h.cdg.resolve_left (by simp), h.fwd.resolve_left (by simp), h.sk.resolve_left (by simp), h.sk0mem.resolve_left (by simp), h.subIn.resolve_left (by simp), h.subOut.resolve_left (by simp), h.cl.resolve_left (by simp), h.isl.resolve_left (by simp), h.adc.resolve_left (by simp), h.fan.resolve_left (by simp), h.fio.resolve_left (by simp), h.zb.resolve_left (by simp), h.pnl.resolve_left (by simp), h.hb.resolve_left (by simp), h.boot.resolve_left (by simp), h.clk.resolve_left (by simp), h.pdErrs.resolve_left (by simp), h.ucal.resolve_left (by simp), h.frame.resolve_left (by simp), h.le.resolve_left (by simp)⟩

@[simp] theorem State.icClr_rest (s : State) (n : ℕ) :
    (s.icClr n).pending = s.pending ∧ (s.icClr n).now = s.now ∧ (s.icClr n).campusOff = s.campusOff ∧
    (s.icClr n).bootAt = s.bootAt ∧ (s.icClr n).rdata = s.rdata ∧ (s.icClr n).wres = s.wres ∧
    (s.icClr n).banks = s.banks ∧ (s.icClr n).log = s.log ∧ (s.icClr n).exLast = s.exLast ∧
    (s.icClr n).exAt = s.exAt ∧ (s.icClr n).broken = s.broken ∧ (s.icClr n).pub = s.pub ∧
    (s.icClr n).zoneEv = s.zoneEv ∧ (s.icClr n).safe = s.safe ∧ (s.icClr n).safeLoaded = s.safeLoaded ∧
    (s.icClr n).safeUnrec = s.safeUnrec ∧ (s.icClr n).safeIrq = s.safeIrq ∧ (s.icClr n).rtcOff = s.rtcOff ∧
    (s.icClr n).rtcHeld = s.rtcHeld ∧ (s.icClr n).cmds = s.cmds ∧ (s.icClr n).cd = s.cd ∧ (s.icClr n).cdg = s.cdg ∧
    (s.icClr n).fwd = s.fwd ∧ (s.icClr n).sk = s.sk ∧ (s.icClr n).sk0mem = s.sk0mem ∧ (s.icClr n).subIn = s.subIn ∧
    (s.icClr n).subOut = s.subOut ∧ (s.icClr n).cl = s.cl ∧ (s.icClr n).isl = s.isl ∧ (s.icClr n).adc = s.adc ∧
    (s.icClr n).fan = s.fan ∧ (s.icClr n).fio = s.fio ∧ (s.icClr n).zb = s.zb ∧ (s.icClr n).pnl = s.pnl ∧
    (s.icClr n).hb = s.hb ∧ (s.icClr n).boot = s.boot ∧ (s.icClr n).clk = s.clk ∧ (s.icClr n).pdErrs = s.pdErrs ∧
    (s.icClr n).ucal = s.ucal ∧ (s.icClr n).frame = s.frame ∧ (s.icClr n).le = s.le := by
  have h := Keeps.icClr (μ := fun p => p ∈ [Part.space, Part.free, Part.ten, Part.ic]) (σ := s) s n (Keeps.refl _ s) (by simp) (by simp) (by simp) (by simp)
  exact ⟨h.pending, h.now.resolve_left (by simp), h.campusOff.resolve_left (by simp), h.bootAt.resolve_left (by simp), h.rdata.resolve_left (by simp), h.wres.resolve_left (by simp), h.banks.resolve_left (by simp), h.log.resolve_left (by simp), h.exLast.resolve_left (by simp), h.exAt.resolve_left (by simp), h.broken.resolve_left (by simp), h.pub.resolve_left (by simp), h.zoneEv.resolve_left (by simp), h.safe.resolve_left (by simp), h.safeLoaded.resolve_left (by simp), h.safeUnrec.resolve_left (by simp), h.safeIrq.resolve_left (by simp), h.rtcOff.resolve_left (by simp), h.rtcHeld.resolve_left (by simp), h.cmds.resolve_left (by simp), h.cd.resolve_left (by simp), h.cdg.resolve_left (by simp), h.fwd.resolve_left (by simp), h.sk.resolve_left (by simp), h.sk0mem.resolve_left (by simp), h.subIn.resolve_left (by simp), h.subOut.resolve_left (by simp), h.cl.resolve_left (by simp), h.isl.resolve_left (by simp), h.adc.resolve_left (by simp), h.fan.resolve_left (by simp), h.fio.resolve_left (by simp), h.zb.resolve_left (by simp), h.pnl.resolve_left (by simp), h.hb.resolve_left (by simp), h.boot.resolve_left (by simp), h.clk.resolve_left (by simp), h.pdErrs.resolve_left (by simp), h.ucal.resolve_left (by simp), h.frame.resolve_left (by simp), h.le.resolve_left (by simp)⟩

@[simp] theorem State.icRelease_rest (s : State) (n : ℕ) :
    (s.icRelease n).pending = s.pending ∧ (s.icRelease n).now = s.now ∧ (s.icRelease n).campusOff = s.campusOff ∧
    (s.icRelease n).bootAt = s.bootAt ∧ (s.icRelease n).rdata = s.rdata ∧ (s.icRelease n).wres = s.wres ∧
    (s.icRelease n).banks = s.banks ∧ (s.icRelease n).log = s.log ∧ (s.icRelease n).exLast = s.exLast ∧
    (s.icRelease n).exAt = s.exAt ∧ (s.icRelease n).broken = s.broken ∧ (s.icRelease n).pub = s.pub ∧
    (s.icRelease n).zoneEv = s.zoneEv ∧ (s.icRelease n).safe = s.safe ∧ (s.icRelease n).safeLoaded = s.safeLoaded ∧
    (s.icRelease n).safeUnrec = s.safeUnrec ∧ (s.icRelease n).safeIrq = s.safeIrq ∧
    (s.icRelease n).rtcOff = s.rtcOff ∧ (s.icRelease n).rtcHeld = s.rtcHeld ∧ (s.icRelease n).cmds = s.cmds ∧
    (s.icRelease n).cd = s.cd ∧ (s.icRelease n).cdg = s.cdg ∧ (s.icRelease n).fwd = s.fwd ∧
    (s.icRelease n).sk = s.sk ∧ (s.icRelease n).sk0mem = s.sk0mem ∧ (s.icRelease n).subIn = s.subIn ∧
    (s.icRelease n).subOut = s.subOut ∧ (s.icRelease n).cl = s.cl ∧ (s.icRelease n).isl = s.isl ∧
    (s.icRelease n).adc = s.adc ∧ (s.icRelease n).fan = s.fan ∧ (s.icRelease n).fio = s.fio ∧
    (s.icRelease n).zb = s.zb ∧ (s.icRelease n).pnl = s.pnl ∧ (s.icRelease n).hb = s.hb ∧
    (s.icRelease n).boot = s.boot ∧ (s.icRelease n).clk = s.clk ∧ (s.icRelease n).pdErrs = s.pdErrs ∧
    (s.icRelease n).ucal = s.ucal ∧ (s.icRelease n).frame = s.frame ∧ (s.icRelease n).le = s.le := by
  have h := Keeps.icRelease (μ := fun p => p ∈ [Part.space, Part.free, Part.ten, Part.ic]) (σ := s) s n (Keeps.refl _ s) (by simp) (by simp) (by simp) (by simp)
  exact ⟨h.pending, h.now.resolve_left (by simp), h.campusOff.resolve_left (by simp), h.bootAt.resolve_left (by simp), h.rdata.resolve_left (by simp), h.wres.resolve_left (by simp), h.banks.resolve_left (by simp), h.log.resolve_left (by simp), h.exLast.resolve_left (by simp), h.exAt.resolve_left (by simp), h.broken.resolve_left (by simp), h.pub.resolve_left (by simp), h.zoneEv.resolve_left (by simp), h.safe.resolve_left (by simp), h.safeLoaded.resolve_left (by simp), h.safeUnrec.resolve_left (by simp), h.safeIrq.resolve_left (by simp), h.rtcOff.resolve_left (by simp), h.rtcHeld.resolve_left (by simp), h.cmds.resolve_left (by simp), h.cd.resolve_left (by simp), h.cdg.resolve_left (by simp), h.fwd.resolve_left (by simp), h.sk.resolve_left (by simp), h.sk0mem.resolve_left (by simp), h.subIn.resolve_left (by simp), h.subOut.resolve_left (by simp), h.cl.resolve_left (by simp), h.isl.resolve_left (by simp), h.adc.resolve_left (by simp), h.fan.resolve_left (by simp), h.fio.resolve_left (by simp), h.zb.resolve_left (by simp), h.pnl.resolve_left (by simp), h.hb.resolve_left (by simp), h.boot.resolve_left (by simp), h.clk.resolve_left (by simp), h.pdErrs.resolve_left (by simp), h.ucal.resolve_left (by simp), h.frame.resolve_left (by simp), h.le.resolve_left (by simp)⟩

@[simp] theorem State.ringEnter_rest (s : State) (r : AuditRec) :
    (s.ringEnter r).pending = s.pending ∧ (s.ringEnter r).now = s.now ∧ (s.ringEnter r).campusOff = s.campusOff ∧
    (s.ringEnter r).bootAt = s.bootAt ∧ (s.ringEnter r).free = s.free ∧ (s.ringEnter r).rdata = s.rdata ∧
    (s.ringEnter r).wres = s.wres ∧ (s.ringEnter r).banks = s.banks ∧
    (s.ringEnter r).exLast = s.exLast ∧ (s.ringEnter r).exAt = s.exAt ∧ (s.ringEnter r).ic = s.ic ∧
    (s.ringEnter r).broken = s.broken ∧ (s.ringEnter r).pub = s.pub ∧ (s.ringEnter r).zoneEv = s.zoneEv ∧
    (s.ringEnter r).safe = s.safe ∧ (s.ringEnter r).safeLoaded = s.safeLoaded ∧
    (s.ringEnter r).safeUnrec = s.safeUnrec ∧ (s.ringEnter r).safeIrq = s.safeIrq ∧
    (s.ringEnter r).rtcOff = s.rtcOff ∧ (s.ringEnter r).rtcHeld = s.rtcHeld ∧ (s.ringEnter r).cmds = s.cmds ∧
    (s.ringEnter r).cd = s.cd ∧ (s.ringEnter r).cdg = s.cdg ∧ (s.ringEnter r).fwd = s.fwd ∧
    (s.ringEnter r).sk = s.sk ∧ (s.ringEnter r).sk0mem = s.sk0mem ∧ (s.ringEnter r).subIn = s.subIn ∧
    (s.ringEnter r).subOut = s.subOut ∧ (s.ringEnter r).cl = s.cl ∧ (s.ringEnter r).isl = s.isl ∧
    (s.ringEnter r).adc = s.adc ∧ (s.ringEnter r).fan = s.fan ∧ (s.ringEnter r).fio = s.fio ∧
    (s.ringEnter r).zb = s.zb ∧ (s.ringEnter r).pnl = s.pnl ∧ (s.ringEnter r).hb = s.hb ∧
    (s.ringEnter r).boot = s.boot ∧ (s.ringEnter r).clk = s.clk ∧ (s.ringEnter r).pdErrs = s.pdErrs ∧
    (s.ringEnter r).ucal = s.ucal ∧ (s.ringEnter r).frame = s.frame ∧ (s.ringEnter r).le = s.le := by
  have h := Keeps.ringEnter (μ := fun p => p ∈ [Part.space, Part.log, Part.ten]) (σ := s) s r (Keeps.refl _ s) (by simp) (by simp) (by simp)
  exact ⟨h.pending, h.now.resolve_left (by simp), h.campusOff.resolve_left (by simp), h.bootAt.resolve_left (by simp), h.free.resolve_left (by simp), h.rdata.resolve_left (by simp), h.wres.resolve_left (by simp), h.banks.resolve_left (by simp), h.exLast.resolve_left (by simp), h.exAt.resolve_left (by simp), h.ic.resolve_left (by simp), h.broken.resolve_left (by simp), h.pub.resolve_left (by simp), h.zoneEv.resolve_left (by simp), h.safe.resolve_left (by simp), h.safeLoaded.resolve_left (by simp), h.safeUnrec.resolve_left (by simp), h.safeIrq.resolve_left (by simp), h.rtcOff.resolve_left (by simp), h.rtcHeld.resolve_left (by simp), h.cmds.resolve_left (by simp), h.cd.resolve_left (by simp), h.cdg.resolve_left (by simp), h.fwd.resolve_left (by simp), h.sk.resolve_left (by simp), h.sk0mem.resolve_left (by simp), h.subIn.resolve_left (by simp), h.subOut.resolve_left (by simp), h.cl.resolve_left (by simp), h.isl.resolve_left (by simp), h.adc.resolve_left (by simp), h.fan.resolve_left (by simp), h.fio.resolve_left (by simp), h.zb.resolve_left (by simp), h.pnl.resolve_left (by simp), h.hb.resolve_left (by simp), h.boot.resolve_left (by simp), h.clk.resolve_left (by simp), h.pdErrs.resolve_left (by simp), h.ucal.resolve_left (by simp), h.frame.resolve_left (by simp), h.le.resolve_left (by simp)⟩

@[simp] theorem State.ringReach_rest (s : State) :
    (s.ringReach).pending = s.pending ∧ (s.ringReach).now = s.now ∧ (s.ringReach).campusOff = s.campusOff ∧
    (s.ringReach).bootAt = s.bootAt ∧ (s.ringReach).free = s.free ∧ (s.ringReach).rdata = s.rdata ∧
    (s.ringReach).wres = s.wres ∧ (s.ringReach).banks = s.banks ∧ (s.ringReach).ten = s.ten ∧
    (s.ringReach).exLast = s.exLast ∧ (s.ringReach).exAt = s.exAt ∧ (s.ringReach).ic = s.ic ∧
    (s.ringReach).broken = s.broken ∧ (s.ringReach).pub = s.pub ∧ (s.ringReach).zoneEv = s.zoneEv ∧
    (s.ringReach).safe = s.safe ∧ (s.ringReach).safeLoaded = s.safeLoaded ∧ (s.ringReach).safeUnrec = s.safeUnrec ∧
    (s.ringReach).safeIrq = s.safeIrq ∧ (s.ringReach).rtcOff = s.rtcOff ∧ (s.ringReach).rtcHeld = s.rtcHeld ∧
    (s.ringReach).cmds = s.cmds ∧ (s.ringReach).cd = s.cd ∧ (s.ringReach).cdg = s.cdg ∧ (s.ringReach).fwd = s.fwd ∧
    (s.ringReach).sk = s.sk ∧ (s.ringReach).sk0mem = s.sk0mem ∧ (s.ringReach).subIn = s.subIn ∧
    (s.ringReach).subOut = s.subOut ∧ (s.ringReach).cl = s.cl ∧ (s.ringReach).isl = s.isl ∧
    (s.ringReach).adc = s.adc ∧ (s.ringReach).fan = s.fan ∧ (s.ringReach).fio = s.fio ∧ (s.ringReach).zb = s.zb ∧
    (s.ringReach).pnl = s.pnl ∧ (s.ringReach).hb = s.hb ∧ (s.ringReach).boot = s.boot ∧ (s.ringReach).clk = s.clk ∧
    (s.ringReach).pdErrs = s.pdErrs ∧ (s.ringReach).ucal = s.ucal ∧ (s.ringReach).frame = s.frame ∧
    (s.ringReach).le = s.le := by
  have h := Keeps.ringReach (μ := fun p => p ∈ [Part.space, Part.log]) (σ := s) s (Keeps.refl _ s) (by simp) (by simp)
  exact ⟨h.pending, h.now.resolve_left (by simp), h.campusOff.resolve_left (by simp), h.bootAt.resolve_left (by simp), h.free.resolve_left (by simp), h.rdata.resolve_left (by simp), h.wres.resolve_left (by simp), h.banks.resolve_left (by simp), h.ten.resolve_left (by simp), h.exLast.resolve_left (by simp), h.exAt.resolve_left (by simp), h.ic.resolve_left (by simp), h.broken.resolve_left (by simp), h.pub.resolve_left (by simp), h.zoneEv.resolve_left (by simp), h.safe.resolve_left (by simp), h.safeLoaded.resolve_left (by simp), h.safeUnrec.resolve_left (by simp), h.safeIrq.resolve_left (by simp), h.rtcOff.resolve_left (by simp), h.rtcHeld.resolve_left (by simp), h.cmds.resolve_left (by simp), h.cd.resolve_left (by simp), h.cdg.resolve_left (by simp), h.fwd.resolve_left (by simp), h.sk.resolve_left (by simp), h.sk0mem.resolve_left (by simp), h.subIn.resolve_left (by simp), h.subOut.resolve_left (by simp), h.cl.resolve_left (by simp), h.isl.resolve_left (by simp), h.adc.resolve_left (by simp), h.fan.resolve_left (by simp), h.fio.resolve_left (by simp), h.zb.resolve_left (by simp), h.pnl.resolve_left (by simp), h.hb.resolve_left (by simp), h.boot.resolve_left (by simp), h.clk.resolve_left (by simp), h.pdErrs.resolve_left (by simp), h.ucal.resolve_left (by simp), h.frame.resolve_left (by simp), h.le.resolve_left (by simp)⟩

@[simp] theorem State.ringLose_rest (s : State) :
    (s.ringLose).pending = s.pending ∧ (s.ringLose).now = s.now ∧ (s.ringLose).campusOff = s.campusOff ∧
    (s.ringLose).bootAt = s.bootAt ∧ (s.ringLose).free = s.free ∧ (s.ringLose).rdata = s.rdata ∧
    (s.ringLose).wres = s.wres ∧ (s.ringLose).banks = s.banks ∧ (s.ringLose).ten = s.ten ∧
    (s.ringLose).exLast = s.exLast ∧ (s.ringLose).exAt = s.exAt ∧ (s.ringLose).ic = s.ic ∧
    (s.ringLose).broken = s.broken ∧ (s.ringLose).pub = s.pub ∧ (s.ringLose).zoneEv = s.zoneEv ∧
    (s.ringLose).safe = s.safe ∧ (s.ringLose).safeLoaded = s.safeLoaded ∧ (s.ringLose).safeUnrec = s.safeUnrec ∧
    (s.ringLose).safeIrq = s.safeIrq ∧ (s.ringLose).rtcOff = s.rtcOff ∧ (s.ringLose).rtcHeld = s.rtcHeld ∧
    (s.ringLose).cmds = s.cmds ∧ (s.ringLose).cd = s.cd ∧ (s.ringLose).cdg = s.cdg ∧ (s.ringLose).fwd = s.fwd ∧
    (s.ringLose).sk = s.sk ∧ (s.ringLose).sk0mem = s.sk0mem ∧ (s.ringLose).subIn = s.subIn ∧
    (s.ringLose).subOut = s.subOut ∧ (s.ringLose).cl = s.cl ∧ (s.ringLose).isl = s.isl ∧ (s.ringLose).adc = s.adc ∧
    (s.ringLose).fan = s.fan ∧ (s.ringLose).fio = s.fio ∧ (s.ringLose).zb = s.zb ∧ (s.ringLose).pnl = s.pnl ∧
    (s.ringLose).hb = s.hb ∧ (s.ringLose).boot = s.boot ∧ (s.ringLose).clk = s.clk ∧ (s.ringLose).pdErrs = s.pdErrs ∧
    (s.ringLose).ucal = s.ucal ∧ (s.ringLose).frame = s.frame ∧ (s.ringLose).le = s.le := by
  have h := Keeps.ringLose (μ := fun p => p ∈ [Part.space, Part.log]) (σ := s) s (Keeps.refl _ s) (by simp) (by simp)
  exact ⟨h.pending, h.now.resolve_left (by simp), h.campusOff.resolve_left (by simp), h.bootAt.resolve_left (by simp), h.free.resolve_left (by simp), h.rdata.resolve_left (by simp), h.wres.resolve_left (by simp), h.banks.resolve_left (by simp), h.ten.resolve_left (by simp), h.exLast.resolve_left (by simp), h.exAt.resolve_left (by simp), h.ic.resolve_left (by simp), h.broken.resolve_left (by simp), h.pub.resolve_left (by simp), h.zoneEv.resolve_left (by simp), h.safe.resolve_left (by simp), h.safeLoaded.resolve_left (by simp), h.safeUnrec.resolve_left (by simp), h.safeIrq.resolve_left (by simp), h.rtcOff.resolve_left (by simp), h.rtcHeld.resolve_left (by simp), h.cmds.resolve_left (by simp), h.cd.resolve_left (by simp), h.cdg.resolve_left (by simp), h.fwd.resolve_left (by simp), h.sk.resolve_left (by simp), h.sk0mem.resolve_left (by simp), h.subIn.resolve_left (by simp), h.subOut.resolve_left (by simp), h.cl.resolve_left (by simp), h.isl.resolve_left (by simp), h.adc.resolve_left (by simp), h.fan.resolve_left (by simp), h.fio.resolve_left (by simp), h.zb.resolve_left (by simp), h.pnl.resolve_left (by simp), h.hb.resolve_left (by simp), h.boot.resolve_left (by simp), h.clk.resolve_left (by simp), h.pdErrs.resolve_left (by simp), h.ucal.resolve_left (by simp), h.frame.resolve_left (by simp), h.le.resolve_left (by simp)⟩

@[simp] theorem State.ringRefuse_rest (s : State) (t : ℕ) :
    (s.ringRefuse t).pending = s.pending ∧ (s.ringRefuse t).now = s.now ∧ (s.ringRefuse t).campusOff = s.campusOff ∧
    (s.ringRefuse t).bootAt = s.bootAt ∧ (s.ringRefuse t).free = s.free ∧ (s.ringRefuse t).rdata = s.rdata ∧
    (s.ringRefuse t).wres = s.wres ∧ (s.ringRefuse t).banks = s.banks ∧ (s.ringRefuse t).exLast = s.exLast ∧
    (s.ringRefuse t).exAt = s.exAt ∧ (s.ringRefuse t).ic = s.ic ∧ (s.ringRefuse t).broken = s.broken ∧
    (s.ringRefuse t).pub = s.pub ∧ (s.ringRefuse t).zoneEv = s.zoneEv ∧ (s.ringRefuse t).safe = s.safe ∧
    (s.ringRefuse t).safeLoaded = s.safeLoaded ∧ (s.ringRefuse t).safeUnrec = s.safeUnrec ∧
    (s.ringRefuse t).safeIrq = s.safeIrq ∧ (s.ringRefuse t).rtcOff = s.rtcOff ∧ (s.ringRefuse t).rtcHeld = s.rtcHeld ∧
    (s.ringRefuse t).cmds = s.cmds ∧ (s.ringRefuse t).cd = s.cd ∧ (s.ringRefuse t).cdg = s.cdg ∧
    (s.ringRefuse t).fwd = s.fwd ∧ (s.ringRefuse t).sk = s.sk ∧ (s.ringRefuse t).sk0mem = s.sk0mem ∧
    (s.ringRefuse t).subIn = s.subIn ∧ (s.ringRefuse t).subOut = s.subOut ∧ (s.ringRefuse t).cl = s.cl ∧
    (s.ringRefuse t).isl = s.isl ∧ (s.ringRefuse t).adc = s.adc ∧ (s.ringRefuse t).fan = s.fan ∧
    (s.ringRefuse t).fio = s.fio ∧ (s.ringRefuse t).zb = s.zb ∧ (s.ringRefuse t).pnl = s.pnl ∧
    (s.ringRefuse t).hb = s.hb ∧ (s.ringRefuse t).boot = s.boot ∧ (s.ringRefuse t).clk = s.clk ∧
    (s.ringRefuse t).pdErrs = s.pdErrs ∧ (s.ringRefuse t).ucal = s.ucal ∧ (s.ringRefuse t).frame = s.frame ∧
    (s.ringRefuse t).le = s.le := by
  have h := Keeps.ringRefuse (μ := fun p => p ∈ [Part.space, Part.log, Part.ten]) (σ := s) s t (Keeps.refl _ s) (by simp) (by simp) (by simp)
  exact ⟨h.pending, h.now.resolve_left (by simp), h.campusOff.resolve_left (by simp), h.bootAt.resolve_left (by simp), h.free.resolve_left (by simp), h.rdata.resolve_left (by simp), h.wres.resolve_left (by simp), h.banks.resolve_left (by simp), h.exLast.resolve_left (by simp), h.exAt.resolve_left (by simp), h.ic.resolve_left (by simp), h.broken.resolve_left (by simp), h.pub.resolve_left (by simp), h.zoneEv.resolve_left (by simp), h.safe.resolve_left (by simp), h.safeLoaded.resolve_left (by simp), h.safeUnrec.resolve_left (by simp), h.safeIrq.resolve_left (by simp), h.rtcOff.resolve_left (by simp), h.rtcHeld.resolve_left (by simp), h.cmds.resolve_left (by simp), h.cd.resolve_left (by simp), h.cdg.resolve_left (by simp), h.fwd.resolve_left (by simp), h.sk.resolve_left (by simp), h.sk0mem.resolve_left (by simp), h.subIn.resolve_left (by simp), h.subOut.resolve_left (by simp), h.cl.resolve_left (by simp), h.isl.resolve_left (by simp), h.adc.resolve_left (by simp), h.fan.resolve_left (by simp), h.fio.resolve_left (by simp), h.zb.resolve_left (by simp), h.pnl.resolve_left (by simp), h.hb.resolve_left (by simp), h.boot.resolve_left (by simp), h.clk.resolve_left (by simp), h.pdErrs.resolve_left (by simp), h.ucal.resolve_left (by simp), h.frame.resolve_left (by simp), h.le.resolve_left (by simp)⟩

@[simp] theorem State.auditRec_rest (s : State) (r : AuditRec) :
    (s.auditRec r).pending = s.pending ∧ (s.auditRec r).now = s.now ∧ (s.auditRec r).campusOff = s.campusOff ∧
    (s.auditRec r).bootAt = s.bootAt ∧ (s.auditRec r).free = s.free ∧ (s.auditRec r).rdata = s.rdata ∧
    (s.auditRec r).wres = s.wres ∧ (s.auditRec r).banks = s.banks ∧
    (s.auditRec r).exLast = s.exLast ∧ (s.auditRec r).exAt = s.exAt ∧ (s.auditRec r).ic = s.ic ∧
    (s.auditRec r).broken = s.broken ∧ (s.auditRec r).pub = s.pub ∧ (s.auditRec r).zoneEv = s.zoneEv ∧
    (s.auditRec r).safe = s.safe ∧ (s.auditRec r).safeLoaded = s.safeLoaded ∧ (s.auditRec r).safeUnrec = s.safeUnrec ∧
    (s.auditRec r).safeIrq = s.safeIrq ∧ (s.auditRec r).rtcOff = s.rtcOff ∧ (s.auditRec r).rtcHeld = s.rtcHeld ∧
    (s.auditRec r).cmds = s.cmds ∧ (s.auditRec r).cd = s.cd ∧ (s.auditRec r).cdg = s.cdg ∧
    (s.auditRec r).fwd = s.fwd ∧ (s.auditRec r).sk = s.sk ∧ (s.auditRec r).sk0mem = s.sk0mem ∧
    (s.auditRec r).subIn = s.subIn ∧ (s.auditRec r).subOut = s.subOut ∧ (s.auditRec r).cl = s.cl ∧
    (s.auditRec r).isl = s.isl ∧ (s.auditRec r).adc = s.adc ∧ (s.auditRec r).fan = s.fan ∧
    (s.auditRec r).fio = s.fio ∧ (s.auditRec r).zb = s.zb ∧ (s.auditRec r).pnl = s.pnl ∧ (s.auditRec r).hb = s.hb ∧
    (s.auditRec r).boot = s.boot ∧ (s.auditRec r).clk = s.clk ∧ (s.auditRec r).pdErrs = s.pdErrs ∧
    (s.auditRec r).ucal = s.ucal ∧ (s.auditRec r).frame = s.frame ∧ (s.auditRec r).le = s.le := by
  have h := Keeps.auditRec (μ := fun p => p ∈ [Part.space, Part.log, Part.ten]) (σ := s) s r (Keeps.refl _ s) (by simp) (by simp) (by simp)
  exact ⟨h.pending, h.now.resolve_left (by simp), h.campusOff.resolve_left (by simp), h.bootAt.resolve_left (by simp), h.free.resolve_left (by simp), h.rdata.resolve_left (by simp), h.wres.resolve_left (by simp), h.banks.resolve_left (by simp), h.exLast.resolve_left (by simp), h.exAt.resolve_left (by simp), h.ic.resolve_left (by simp), h.broken.resolve_left (by simp), h.pub.resolve_left (by simp), h.zoneEv.resolve_left (by simp), h.safe.resolve_left (by simp), h.safeLoaded.resolve_left (by simp), h.safeUnrec.resolve_left (by simp), h.safeIrq.resolve_left (by simp), h.rtcOff.resolve_left (by simp), h.rtcHeld.resolve_left (by simp), h.cmds.resolve_left (by simp), h.cd.resolve_left (by simp), h.cdg.resolve_left (by simp), h.fwd.resolve_left (by simp), h.sk.resolve_left (by simp), h.sk0mem.resolve_left (by simp), h.subIn.resolve_left (by simp), h.subOut.resolve_left (by simp), h.cl.resolve_left (by simp), h.isl.resolve_left (by simp), h.adc.resolve_left (by simp), h.fan.resolve_left (by simp), h.fio.resolve_left (by simp), h.zb.resolve_left (by simp), h.pnl.resolve_left (by simp), h.hb.resolve_left (by simp), h.boot.resolve_left (by simp), h.clk.resolve_left (by simp), h.pdErrs.resolve_left (by simp), h.ucal.resolve_left (by simp), h.frame.resolve_left (by simp), h.le.resolve_left (by simp)⟩

@[simp] theorem State.auditEvent_rest (s : State) (addr : ℕ) (old : Word) (new : Word) :
    (s.auditEvent addr old new).pending = s.pending ∧ (s.auditEvent addr old new).now = s.now ∧
    (s.auditEvent addr old new).campusOff = s.campusOff ∧ (s.auditEvent addr old new).bootAt = s.bootAt ∧
    (s.auditEvent addr old new).free = s.free ∧ (s.auditEvent addr old new).rdata = s.rdata ∧
    (s.auditEvent addr old new).wres = s.wres ∧ (s.auditEvent addr old new).banks = s.banks ∧ (s.auditEvent addr old new).exLast = s.exLast ∧
    (s.auditEvent addr old new).exAt = s.exAt ∧ (s.auditEvent addr old new).ic = s.ic ∧
    (s.auditEvent addr old new).broken = s.broken ∧ (s.auditEvent addr old new).pub = s.pub ∧
    (s.auditEvent addr old new).zoneEv = s.zoneEv ∧ (s.auditEvent addr old new).safe = s.safe ∧
    (s.auditEvent addr old new).safeLoaded = s.safeLoaded ∧ (s.auditEvent addr old new).safeUnrec = s.safeUnrec ∧
    (s.auditEvent addr old new).safeIrq = s.safeIrq ∧ (s.auditEvent addr old new).rtcOff = s.rtcOff ∧
    (s.auditEvent addr old new).rtcHeld = s.rtcHeld ∧ (s.auditEvent addr old new).cmds = s.cmds ∧
    (s.auditEvent addr old new).cd = s.cd ∧ (s.auditEvent addr old new).cdg = s.cdg ∧
    (s.auditEvent addr old new).fwd = s.fwd ∧ (s.auditEvent addr old new).sk = s.sk ∧
    (s.auditEvent addr old new).sk0mem = s.sk0mem ∧ (s.auditEvent addr old new).subIn = s.subIn ∧
    (s.auditEvent addr old new).subOut = s.subOut ∧ (s.auditEvent addr old new).cl = s.cl ∧
    (s.auditEvent addr old new).isl = s.isl ∧ (s.auditEvent addr old new).adc = s.adc ∧
    (s.auditEvent addr old new).fan = s.fan ∧ (s.auditEvent addr old new).fio = s.fio ∧
    (s.auditEvent addr old new).zb = s.zb ∧ (s.auditEvent addr old new).pnl = s.pnl ∧
    (s.auditEvent addr old new).hb = s.hb ∧ (s.auditEvent addr old new).boot = s.boot ∧
    (s.auditEvent addr old new).clk = s.clk ∧ (s.auditEvent addr old new).pdErrs = s.pdErrs ∧
    (s.auditEvent addr old new).ucal = s.ucal ∧ (s.auditEvent addr old new).frame = s.frame ∧
    (s.auditEvent addr old new).le = s.le := by
  have h := Keeps.auditEvent (μ := fun p => p ∈ [Part.space, Part.log, Part.ten]) (σ := s) s addr old new (Keeps.refl _ s) (by simp) (by simp) (by simp)
  exact ⟨h.pending, h.now.resolve_left (by simp), h.campusOff.resolve_left (by simp), h.bootAt.resolve_left (by simp), h.free.resolve_left (by simp), h.rdata.resolve_left (by simp), h.wres.resolve_left (by simp), h.banks.resolve_left (by simp), h.exLast.resolve_left (by simp), h.exAt.resolve_left (by simp), h.ic.resolve_left (by simp), h.broken.resolve_left (by simp), h.pub.resolve_left (by simp), h.zoneEv.resolve_left (by simp), h.safe.resolve_left (by simp), h.safeLoaded.resolve_left (by simp), h.safeUnrec.resolve_left (by simp), h.safeIrq.resolve_left (by simp), h.rtcOff.resolve_left (by simp), h.rtcHeld.resolve_left (by simp), h.cmds.resolve_left (by simp), h.cd.resolve_left (by simp), h.cdg.resolve_left (by simp), h.fwd.resolve_left (by simp), h.sk.resolve_left (by simp), h.sk0mem.resolve_left (by simp), h.subIn.resolve_left (by simp), h.subOut.resolve_left (by simp), h.cl.resolve_left (by simp), h.isl.resolve_left (by simp), h.adc.resolve_left (by simp), h.fan.resolve_left (by simp), h.fio.resolve_left (by simp), h.zb.resolve_left (by simp), h.pnl.resolve_left (by simp), h.hb.resolve_left (by simp), h.boot.resolve_left (by simp), h.clk.resolve_left (by simp), h.pdErrs.resolve_left (by simp), h.ucal.resolve_left (by simp), h.frame.resolve_left (by simp), h.le.resolve_left (by simp)⟩

@[simp] theorem State.laneRefused_rest (s : State) :
    (s.laneRefused).pending = s.pending ∧ (s.laneRefused).now = s.now ∧ (s.laneRefused).campusOff = s.campusOff ∧
    (s.laneRefused).bootAt = s.bootAt ∧ (s.laneRefused).free = s.free ∧ (s.laneRefused).rdata = s.rdata ∧
    (s.laneRefused).banks = s.banks ∧ (s.laneRefused).log = s.log ∧ (s.laneRefused).ten = s.ten ∧
    (s.laneRefused).exLast = s.exLast ∧ (s.laneRefused).exAt = s.exAt ∧ (s.laneRefused).ic = s.ic ∧
    (s.laneRefused).broken = s.broken ∧ (s.laneRefused).pub = s.pub ∧ (s.laneRefused).zoneEv = s.zoneEv ∧
    (s.laneRefused).safe = s.safe ∧ (s.laneRefused).safeLoaded = s.safeLoaded ∧
    (s.laneRefused).safeUnrec = s.safeUnrec ∧ (s.laneRefused).safeIrq = s.safeIrq ∧
    (s.laneRefused).rtcOff = s.rtcOff ∧ (s.laneRefused).rtcHeld = s.rtcHeld ∧ (s.laneRefused).cmds = s.cmds ∧
    (s.laneRefused).cd = s.cd ∧ (s.laneRefused).cdg = s.cdg ∧ (s.laneRefused).fwd = s.fwd ∧
    (s.laneRefused).sk = s.sk ∧ (s.laneRefused).sk0mem = s.sk0mem ∧ (s.laneRefused).subIn = s.subIn ∧
    (s.laneRefused).subOut = s.subOut ∧ (s.laneRefused).cl = s.cl ∧ (s.laneRefused).isl = s.isl ∧
    (s.laneRefused).adc = s.adc ∧ (s.laneRefused).fan = s.fan ∧ (s.laneRefused).fio = s.fio ∧
    (s.laneRefused).zb = s.zb ∧ (s.laneRefused).pnl = s.pnl ∧ (s.laneRefused).hb = s.hb ∧
    (s.laneRefused).boot = s.boot ∧ (s.laneRefused).clk = s.clk ∧ (s.laneRefused).pdErrs = s.pdErrs ∧
    (s.laneRefused).ucal = s.ucal ∧ (s.laneRefused).frame = s.frame ∧ (s.laneRefused).le = s.le := by
  have h := Keeps.laneRefused (μ := fun p => p ∈ [Part.space, Part.wres]) (σ := s) s (Keeps.refl _ s) (by simp) (by simp)
  exact ⟨h.pending, h.now.resolve_left (by simp), h.campusOff.resolve_left (by simp), h.bootAt.resolve_left (by simp), h.free.resolve_left (by simp), h.rdata.resolve_left (by simp), h.banks.resolve_left (by simp), h.log.resolve_left (by simp), h.ten.resolve_left (by simp), h.exLast.resolve_left (by simp), h.exAt.resolve_left (by simp), h.ic.resolve_left (by simp), h.broken.resolve_left (by simp), h.pub.resolve_left (by simp), h.zoneEv.resolve_left (by simp), h.safe.resolve_left (by simp), h.safeLoaded.resolve_left (by simp), h.safeUnrec.resolve_left (by simp), h.safeIrq.resolve_left (by simp), h.rtcOff.resolve_left (by simp), h.rtcHeld.resolve_left (by simp), h.cmds.resolve_left (by simp), h.cd.resolve_left (by simp), h.cdg.resolve_left (by simp), h.fwd.resolve_left (by simp), h.sk.resolve_left (by simp), h.sk0mem.resolve_left (by simp), h.subIn.resolve_left (by simp), h.subOut.resolve_left (by simp), h.cl.resolve_left (by simp), h.isl.resolve_left (by simp), h.adc.resolve_left (by simp), h.fan.resolve_left (by simp), h.fio.resolve_left (by simp), h.zb.resolve_left (by simp), h.pnl.resolve_left (by simp), h.hb.resolve_left (by simp), h.boot.resolve_left (by simp), h.clk.resolve_left (by simp), h.pdErrs.resolve_left (by simp), h.ucal.resolve_left (by simp), h.frame.resolve_left (by simp), h.le.resolve_left (by simp)⟩

/-! ### Register words that the bookkeeping leaves -/

/-- The blocks whose words the bookkeeping may change: SYS, IC, TEN, LOG and AON (R44). -/
def isBook (a : Nat) : Bool := a / 0x10000 < 8 || a / 0x10000 = 0x1F || a / 0x10000 = 0x42

theorem State.word_log (s : State) (l : LogState) (a : Nat) : State.word { s with log := l } a = s.word a := rfl

theorem State.qPlace_word (s : State) (q : QKind) (t cls block code : Nat) (fields : List Byte) (a : Nat) :
    (s.qPlace q t cls block code fields).word a = s.word a := by simp

theorem State.qDrop_word (s : State) (q : QKind) (t : Nat) (ht : t < 256) (a : Nat) (h : isBook a = false) :
    (s.qDrop q t).word a = s.word a := by
  simp only [isBook, Bool.or_eq_false_iff, decide_eq_false_iff_not] at h
  unfold State.qDrop
  split <;>
  · rw [State.word_put, if_neg, State.word_inc]
    · simp
    · simp only [Reg.at, F.TEN_Q_DROP_EVT, F.TEN_Q_DROP_ERR, R.TEN_Q_DROP]; omega
    · simp only [Reg.at, F.TEN_Q_EVT_STAT_OVF, F.TEN_Q_ERR_STAT_OVF, R.TEN_Q_EVT_STAT, R.TEN_Q_ERR_STAT]; omega

theorem State.post_word (s : State) (q : QKind) (t cls block code : Nat) (fields : List Byte) (ht : t < 256) (a : Nat)
    (h : isBook a = false) : (s.post q t cls block code fields).word a = s.word a := by
  have h' := h
  simp only [isBook, Bool.or_eq_false_iff, decide_eq_false_iff_not] at h'
  unfold State.post
  dsimp only
  repeat' split
  · rw [State.word_inc]
    simp only [Reg.at, F.TEN_GCNT_RETIRED_DROP, R.TEN_GCNT]; omega
  all_goals first
    | (rw [State.qDrop_word _ _ _ ht _ h]; simp)
    | (rw [State.qDrop_word _ _ _ ht _ h])
    | simp

theorem State.postErr_word (s : State) (t block code : Nat) (fields : List Byte) (ht : t < 256) (a : Nat) (h : isBook a = false) :
    (s.postErr t block code fields).word a = s.word a := State.post_word _ _ _ _ _ _ _ ht _ h

theorem State.postEvt_word (s : State) (t block code : Nat) (fields : List Byte) (ht : t < 256) (a : Nat) (h : isBook a = false) :
    (s.postEvt t block code fields).word a = s.word a := State.post_word _ _ _ _ _ _ _ ht _ h

theorem State.postErr2_word (s : State) (t block code : Nat) (fields : List Byte) (ht : t < 256) (a : Nat) (h : isBook a = false) :
    (s.postErr2 t block code fields).word a = s.word a := by
  unfold State.postErr2
  dsimp only
  split
  · exact State.postErr_word _ _ _ _ _ (by decide) _ h
  · rw [State.postErr_word _ _ _ _ _ ht _ h]; exact State.postErr_word _ _ _ _ _ (by decide) _ h

theorem State.postEvt2_word (s : State) (t block code : Nat) (fields : List Byte) (ht : t < 256) (a : Nat) (h : isBook a = false) :
    (s.postEvt2 t block code fields).word a = s.word a := by
  unfold State.postEvt2
  dsimp only
  split
  · exact State.postEvt_word _ _ _ _ _ (by decide) _ h
  · rw [State.postEvt_word _ _ _ _ _ ht _ h]; exact State.postEvt_word _ _ _ _ _ (by decide) _ h

theorem State.foldl_word {α : Type} (l : List α) (f : State → α → State) (a : Nat)
    (hf : ∀ s x, x ∈ l → (f s x).word a = s.word a) (s : State) : (l.foldl f s).word a = s.word a := by
  induction l generalizing s with
  | nil => rfl
  | cons x l ih =>
    show (l.foldl f (f s x)).word a = s.word a
    rw [ih (fun s y hy => hf s y (List.mem_cons_of_mem _ hy)), hf _ _ (List.mem_cons_self)]

theorem irqTenants_lt (s : State) (n t : Nat) (h : t ∈ s.irqTenants n) : t < 256 := by
  unfold State.irqTenants at h
  rw [List.mem_dedup, List.mem_map] at h
  obtain ⟨e, he, rfl⟩ := h
  have hm := List.mem_of_mem_filter he
  unfold State.listed at hm
  rw [List.mem_map] at hm
  obtain ⟨x, hx, rfl⟩ := hm
  have := (List.mem_filter.1 hx).2
  simp only [Reg.hit, Bool.and_eq_true, decide_eq_true_eq] at this
  exact this.1.1.2

theorem State.irqPost_word (s : State) (n a : Nat) (h : isBook a = false) : (s.irqPost n).word a = s.word a := by
  unfold State.irqPost State.each
  apply State.foldl_word
  intro s t ht
  rw [State.post_word _ _ _ _ _ _ _ (irqTenants_lt _ _ _ ht) _ h]
  simp

theorem State.icUpd_word (s : State) (n : Nat) (f : IcState → IcState) (a : Nat) (h : isBook a = false) :
    (s.icUpd n f).word a = s.word a := by
  unfold State.icUpd
  dsimp only
  split
  · rw [State.irqPost_word _ _ _ h]; rfl
  · rfl

theorem State.icPulse_word (s : State) (n a : Nat) (h : isBook a = false) : (s.icPulse n).word a = s.word a := by
  unfold State.icPulse
  split
  · have h' := h
    simp only [isBook, Bool.or_eq_false_iff, decide_eq_false_iff_not] at h'
    rw [State.word_inc]
    simp only [Reg.at, F.IC_CNT_MERGED, R.IC_CNT]; omega
  · exact State.icUpd_word _ _ _ _ h

theorem State.exDelay_word (s : State) (t a : Nat) (ht : t < 256) (h : isBook a = false) : (s.exDelay t).word a = s.word a := by
  simp only [isBook, Bool.or_eq_false_iff, decide_eq_false_iff_not] at h
  unfold State.exDelay
  dsimp only
  split
  · rfl
  · rw [State.word_inc]
    · rfl
    · simp only [Reg.at, F.TEN_CNT_THROTTLED, R.TEN_CNT]; omega

theorem State.logUse_word (s : State) (t a : Nat) (ht : t < 256) (h : isBook a = false) : (s.logUse t).word a = s.word a := by
  have hb := h
  simp only [isBook, Bool.or_eq_false_iff, decide_eq_false_iff_not] at h
  unfold State.logUse
  dsimp only
  split
  · rfl
  · rw [State.exDelay_word _ _ _ ht hb, State.word_putIf, State.word_inc]
    · simp only [Reg.at, F.TEN_QLOG_USED_USED, R.TEN_QLOG_USED]; omega
    · simp only [Reg.at, F.TEN_CTX_STAT_THROTTLED, R.TEN_CTX_STAT]; omega

theorem State.aonSeq_word (s : State) (a : Nat) (h : isBook a = false) : s.aonSeq.word a = s.word a := by
  simp only [isBook, Bool.or_eq_false_iff, decide_eq_false_iff_not] at h
  unfold State.aonSeq
  split
  · rw [State.word_setWord_ne, State.word_setWord_ne]
    · simp only [Reg.at, R.AON_LOG_SEQ_LO]; omega
    · simp only [Reg.at, R.AON_LOG_SEQ_HI]; omega
  · rfl

theorem State.ringEnter_word (s : State) (r : AuditRec) (a : Nat) (ht : r.tenant < 256) (h : isBook a = false) :
    (s.ringEnter r).word a = s.word a := by
  unfold State.ringEnter
  dsimp only
  split
  · rfl
  · rw [State.logUse_word _ _ _ ht h]
    simp only [State.logCut_rest]
    rw [State.aonSeq_word _ _ h]
    rfl

theorem State.ringReach_word (s : State) (a : Nat) (h : isBook a = false) : s.ringReach.word a = s.word a := by
  simp only [isBook, Bool.or_eq_false_iff, decide_eq_false_iff_not] at h
  unfold State.ringReach
  dsimp only
  split
  · rw [State.word_log, State.word_put, if_neg, State.word_put, if_neg]
    · simp only [Reg.at, F.LOG_STAT_FULL, R.LOG_STAT]; omega
    · simp only [Reg.at, F.LOG_EVT_FULL, R.LOG_EVT]; omega
  · rfl

theorem State.ringLose_word (s : State) (a : Nat) (h : isBook a = false) : s.ringLose.word a = s.word a := by
  simp only [isBook, Bool.or_eq_false_iff, decide_eq_false_iff_not] at h
  unfold State.ringLose
  show ((s.inc F.LOG_CNT_LOST).put F.LOG_EVT_LOST 1).word a = s.word a
  rw [State.word_put, if_neg, State.word_inc]
  · simp only [Reg.at, F.LOG_CNT_LOST, R.LOG_CNT]; omega
  · simp only [Reg.at, F.LOG_EVT_LOST, R.LOG_EVT]; omega

theorem State.auditRec_word (s : State) (r : AuditRec) (a : Nat) (ht : r.tenant < 256) (h : isBook a = false) :
    (s.auditRec r).word a = s.word a := by
  unfold State.auditRec
  split
  · rw [State.ringEnter_word _ _ _ ht h, State.ringReach_word _ _ h]
  · rw [State.ringLose_word _ _ h, State.ringReach_word _ _ h]

theorem State.auditEvent_word (s : State) (addr : Nat) (old new : Word) (a : Nat) (h : isBook a = false) :
    (s.auditEvent addr old new).word a = s.word a := State.auditRec_word _ _ _ (by simp [State.recOf, Who.internal]) h

/-- A field outside the bookkeeping's blocks keeps its value over an operation that keeps its word. -/
theorem State.get_of_word {s t : State} {f : Fld} {i j : Nat} (h : t.word (f.reg.at i j) = s.word (f.reg.at i j)) :
    t.get f i j = s.get f i j := by unfold State.get; rw [h]

/-! ### Audited writes -/

/-- A write of a path whose lane may act, while the ring has an ordinary place (R18, R572): its record enters the ring, its
effect happens, and its result is left. -/
theorem State.auditW_enter (s : State) (w : Who) (t : Tgt) (res : Res) (eff : State → State) (hi : w.ifc ≠ 0)
    (hr : s.log.ring.length < ringSize - ringReserve) :
    s.auditW w t res eff = { eff (s.ringReach.ringEnter (s.recOf w t 0 res)) with wres := res } := by
  unfold State.auditW
  rw [if_neg hi]
  simp [State.ringTake, hr]

/-- The words a write's record leaves before its effect. -/
theorem State.enter_word (s : State) (r : AuditRec) (a : Nat) (ht : r.tenant < 256) (h : isBook a = false) :
    (s.ringReach.ringEnter r).word a = s.word a := by
  rw [State.ringEnter_word _ _ _ ht h, State.ringReach_word _ _ h]

theorem State.who_tenant_lt (s : State) (p : Path) : (s.who p).tenant < 256 := by
  cases p <;> simp only [State.who]
  · exact State.get_lt _ _ _ _
  · exact State.get_lt _ _ _ _
  · decide

theorem State.who_ifc_ne (s : State) (p : Path) : (s.who p).ifc ≠ 0 := by cases p <;> simp [State.who]

/-- What a path does when the host side is ready and its lane is enabled. -/
theorem State.byPath_go (s : State) (p : Path) (f : Who → State → State) (hh : s.hostHeld p = false) (he : (s.who p).en = true) :
    s.byPath p f = f (s.who p) (s.dropCap (s.who p).cap) := by
  simp [State.byPath, State.asWho, hh, he]

end Sys2Proof.Machine
end

