-- ==== Sys2Proof/Laws/KeepsPointOps.lean ====
section
/-! SUPPORT. What each operation of Machine/PointOps.lean keeps: the queue, the clock's direction, the canonical form of the register
space, and every part of the state it does not name (`Keeps`). -/

set_option linter.unusedTactic false
set_option linter.unreachableTactic false
set_option linter.unusedSimpArgs false
set_option linter.unusedVariables false

namespace Sys2Proof.Machine

variable {μ : Part → Prop} {σ : State}

theorem Keeps.setHealth (s : State) (i : ℕ) (h : PtHealth) (hs : Keeps μ σ s) (m_broken : μ .broken) :
    Keeps μ σ (State.setHealth s i h) := by
  unfold State.setHealth
  repeat' first
    | with_reducible assumption
    | intro _
    | with_reducible apply Keeps.ite
    | ((fail_if_no_progress extract_lets +onlyGivenNames x); first | (refine Keeps.bind x ?_ ?_; (try subst x); rotate_left; intro hx; rotate_left) | skip)
    | simp only [Keeps.upd_broken m_broken]
    | split
    | simp only [id_eq]

theorem Keeps.ptSet (s : State) (i : ℕ) (v : Word) (qual : ℕ) (hp : ℕ) (holder : ℕ) (age : ℕ) (srcF : ℕ) (hs : Keeps μ σ s) (m_space : μ .space) :
    Keeps μ σ (State.ptSet s i v qual hp holder age srcF) := by
  unfold State.ptSet
  repeat' first
    | with_reducible assumption
    | intro _
    | with_reducible apply Keeps.ite
    | with_reducible apply Keeps.setWord

theorem Keeps.setCore (s : State) (k : ℕ) (c : SkCore) (hs : Keeps μ σ s) (m_sk : μ .sk) :
    Keeps μ σ (State.setCore s k c) := by
  unfold State.setCore
  repeat' first
    | with_reducible assumption
    | intro _
    | with_reducible apply Keeps.ite
    | simp only [Keeps.upd_sk m_sk]

theorem Keeps.skActivate (s : State) (k : ℕ) (t : ℕ) (arg : ℕ) (hs : Keeps μ σ s) (m_space : μ .space) (m_sk : μ .sk) :
    Keeps μ σ (State.skActivate s k t arg) := by
  unfold State.skActivate
  repeat' first
    | with_reducible assumption
    | intro _
    | with_reducible apply Keeps.ite
    | with_reducible apply Keeps.inc
    | with_reducible apply Keeps.setCore

theorem Keeps.skPoint (s : State) (i : ℕ) (hs : Keeps μ σ s) (m_space : μ .space) (m_sk : μ .sk) :
    Keeps μ σ (State.skPoint s i) := by
  unfold State.skPoint
  repeat' first
    | with_reducible assumption
    | intro _
    | with_reducible apply Keeps.ite
    | with_reducible apply Keeps.each
    | with_reducible apply Keeps.inc
    | with_reducible apply Keeps.skActivate

theorem Keeps.trendDrop (s : State) (hs : Keeps μ σ s) (m_space : μ .space) (m_log : μ .log) :
    Keeps μ σ (State.trendDrop s) := by
  unfold State.trendDrop
  repeat' first
    | with_reducible assumption
    | intro _
    | with_reducible apply Keeps.ite
    | ((fail_if_no_progress extract_lets +onlyGivenNames x); first | (refine Keeps.bind x ?_ ?_; (try subst x); rotate_left; intro hx; rotate_left) | skip)
    | with_reducible apply Keeps.inc
    | with_reducible apply Keeps.put
    | simp only [Keeps.upd_log m_log]

theorem Keeps.trendSample (s : State) (i : ℕ) (hs : Keeps μ σ s) (m_space : μ .space) (m_log : μ .log) (m_ten : μ .ten) :
    Keeps μ σ (State.trendSample s i) := by
  unfold State.trendSample
  repeat' first
    | with_reducible assumption
    | intro _
    | with_reducible apply Keeps.ite
    | ((fail_if_no_progress extract_lets +onlyGivenNames x); first | (refine Keeps.bind x ?_ ?_; (try subst x); rotate_left; intro hx; rotate_left) | skip)
    | with_reducible apply Keeps.logCut
    | with_reducible apply Keeps.logUse
    | with_reducible apply Keeps.trendDrop
    | simp only [Keeps.upd_log m_log]
    | split
    | simp only [id_eq]

theorem Keeps.trendPoint (s : State) (i : ℕ) (hs : Keeps μ σ s) (m_space : μ .space) (m_log : μ .log) (m_ten : μ .ten) :
    Keeps μ σ (State.trendPoint s i) := by
  unfold State.trendPoint
  repeat' first
    | with_reducible assumption
    | intro _
    | with_reducible apply Keeps.ite
    | ((fail_if_no_progress extract_lets +onlyGivenNames x); first | (refine Keeps.bind x ?_ ?_; (try subst x); rotate_left; intro hx; rotate_left) | skip)
    | with_reducible apply Keeps.each
    | with_reducible apply Keeps.trendSample
    | split
    | simp only [id_eq]

theorem Keeps.setSafe (s : State) (cls : ℕ) (chan : ℕ) (o : SafeOut) (hs : Keeps μ σ s) (m_safe : μ .safe) :
    Keeps μ σ (State.setSafe s cls chan o) := by
  unfold State.setSafe
  repeat' first
    | with_reducible assumption
    | intro _
    | with_reducible apply Keeps.ite
    | simp only [Keeps.upd_safe m_safe]

theorem Keeps.setCmd (s : State) (cls : ℕ) (chan : ℕ) (v : Word) (hs : Keeps μ σ s) (m_cmds : μ .cmds) :
    Keeps μ σ (State.setCmd s cls chan v) := by
  unfold State.setCmd
  repeat' first
    | with_reducible assumption
    | intro _
    | with_reducible apply Keeps.ite
    | simp only [Keeps.upd_cmds m_cmds]

theorem Keeps.setCd (s : State) (n : ℕ) (c : CdChan) (hs : Keeps μ σ s) (m_cd : μ .cd) :
    Keeps μ σ (State.setCd s n c) := by
  unfold State.setCd
  repeat' first
    | with_reducible assumption
    | intro _
    | with_reducible apply Keeps.ite
    | simp only [Keeps.upd_cd m_cd]

theorem Keeps.release (s : State) (cls : ℕ) (chan : ℕ) (hs : Keeps μ σ s) (m_safe : μ .safe) (m_cmds : μ .cmds) (m_cd : μ .cd) :
    Keeps μ σ (State.release s cls chan) := by
  unfold State.release
  repeat' first
    | with_reducible assumption
    | intro _
    | with_reducible apply Keeps.ite
    | ((fail_if_no_progress extract_lets +onlyGivenNames x); first | (refine Keeps.bind x ?_ ?_; (try subst x); rotate_left; intro hx; rotate_left) | skip)
    | with_reducible apply Keeps.setCd
    | with_reducible apply Keeps.setCmd
    | with_reducible apply Keeps.setSafe

theorem Keeps.pendingRelease (s : State) (i : ℕ) (hs : Keeps μ σ s) (m_safe : μ .safe) (m_cmds : μ .cmds) (m_cd : μ .cd) :
    Keeps μ σ (State.pendingRelease s i) := by
  unfold State.pendingRelease
  repeat' first
    | with_reducible assumption
    | intro _
    | with_reducible apply Keeps.ite
    | with_reducible apply Keeps.each
    | with_reducible apply Keeps.release

theorem Keeps.forward (s : State) (i : ℕ) (isCmd : Bool) (byForce : Bool) (qualChanged : Bool) (hs : Keeps μ σ s) (m_fwd : μ .fwd) :
    Keeps μ σ (State.forward s i isCmd byForce qualChanged) := by
  unfold State.forward
  repeat' first
    | with_reducible assumption
    | intro _
    | with_reducible apply Keeps.ite
    | ((fail_if_no_progress extract_lets +onlyGivenNames x); first | (refine Keeps.bind x ?_ ?_; (try subst x); rotate_left; intro hx; rotate_left) | skip)
    | simp only [Keeps.upd_fwd m_fwd]

theorem Keeps.sendPresent (s : State) (os : List (ℕ × ℕ)) (hs : Keeps μ σ s) (m_fwd : μ .fwd) :
    Keeps μ σ (State.sendPresent s os) := by
  unfold State.sendPresent
  repeat' first
    | with_reducible assumption
    | intro _
    | with_reducible apply Keeps.ite
    | ((fail_if_no_progress extract_lets +onlyGivenNames x); first | (refine Keeps.bind x ?_ ?_; (try subst x); rotate_left; intro hx; rotate_left) | skip)
    | simp only [Keeps.upd_fwd m_fwd]
    | split
    | simp only [id_eq]

theorem Keeps.fwdTake (s : State) (cls : ℕ) (chan : ℕ) (hs : Keeps μ σ s) (m_fwd : μ .fwd) (m_clk : μ .clk) :
    Keeps μ σ (State.fwdTake s cls chan).2 := by
  unfold State.fwdTake
  repeat' first
    | with_reducible assumption
    | intro _
    | with_reducible apply Keeps.ite
    | ((fail_if_no_progress extract_lets +onlyGivenNames x); first | (refine Keeps.bind x ?_ ?_; (try subst x); rotate_left; intro hx; rotate_left) | skip)
    | simp only [Keeps.upd_fwd_clk m_fwd m_clk]
    | split
    | simp only [id_eq]

theorem Keeps.ptAfter (s : State) (i : ℕ) (oldV : Word) (oldQ : ℕ) (byForce : Bool) (trend : Bool) (hs : Keeps μ σ s) (m_space : μ .space) (m_log : μ .log) (m_ten : μ .ten) (m_safe : μ .safe) (m_cmds : μ .cmds) (m_cd : μ .cd) (m_fwd : μ .fwd) (m_sk : μ .sk) :
    Keeps μ σ (State.ptAfter s i oldV oldQ byForce trend) := by
  unfold State.ptAfter
  repeat' first
    | with_reducible assumption
    | intro _
    | with_reducible apply Keeps.ite
    | ((fail_if_no_progress extract_lets +onlyGivenNames x); first | (refine Keeps.bind x ?_ ?_; (try subst x); rotate_left; intro hx; rotate_left) | skip)
    | with_reducible apply Keeps.forward
    | with_reducible apply Keeps.pendingRelease
    | with_reducible apply Keeps.skPoint
    | with_reducible apply Keeps.trendPoint
    | split
    | simp only [id_eq]

theorem Keeps.ptSbe (s : State) (hs : Keeps μ σ s) (m_space : μ .space) :
    Keeps μ σ (State.ptSbe s) := by
  unfold State.ptSbe
  repeat' first
    | with_reducible assumption
    | intro _
    | with_reducible apply Keeps.ite
    | with_reducible apply Keeps.inc

theorem Keeps.ptDbe (s : State) (i : ℕ) (w : ℕ) (hs : Keeps μ σ s) (m_space : μ .space) (m_free : μ .free) (m_ten : μ .ten) (m_broken : μ .broken) (m_fwd : μ .fwd) :
    Keeps μ σ (State.ptDbe s i w) := by
  unfold State.ptDbe
  repeat' first
    | with_reducible assumption
    | intro _
    | with_reducible apply Keeps.ite
    | ((fail_if_no_progress extract_lets +onlyGivenNames x); first | (refine Keeps.bind x ?_ ?_; (try subst x); rotate_left; intro hx; rotate_left) | skip)
    | with_reducible apply Keeps.forward
    | with_reducible apply Keeps.fresh
    | with_reducible apply Keeps.inc
    | with_reducible apply Keeps.postErr2
    | with_reducible apply Keeps.ptSet
    | with_reducible apply Keeps.put
    | with_reducible apply Keeps.setHealth
    | split
    | simp only [id_eq]

theorem Keeps.ptFound (s : State) (i : ℕ) (b2 : Ecc) (hs : Keeps μ σ s) (m_space : μ .space) (m_free : μ .free) (m_ten : μ .ten) (m_broken : μ .broken) (m_fwd : μ .fwd) :
    Keeps μ σ (State.ptFound s i b2) := by
  unfold State.ptFound
  repeat' first
    | with_reducible assumption
    | intro _
    | with_reducible apply Keeps.ite
    | ((fail_if_no_progress extract_lets +onlyGivenNames x); first | (refine Keeps.bind x ?_ ?_; (try subst x); rotate_left; intro hx; rotate_left) | skip)
    | with_reducible apply Keeps.ptDbe
    | with_reducible apply Keeps.ptSbe
    | split
    | simp only [id_eq]

theorem Keeps.ptFind (s : State) (i : ℕ) (hs : Keeps μ σ s) (m_space : μ .space) (m_free : μ .free) (m_ten : μ .ten) (m_broken : μ .broken) (m_fwd : μ .fwd) :
    Keeps μ σ (State.ptFind s i) := by
  unfold State.ptFind
  repeat' first
    | with_reducible assumption
    | intro _
    | with_reducible apply Keeps.ite
    | ((fail_if_no_progress extract_lets +onlyGivenNames x); first | (refine Keeps.bind x ?_ ?_; (try subst x); rotate_left; intro hx; rotate_left) | skip)
    | with_reducible apply Keeps.ptFound
    | with_reducible apply Keeps.setHealth
    | split
    | simp only [id_eq]

theorem Keeps.ptEcc (s : State) (i : ℕ) (e : Ecc) (hs : Keeps μ σ s) (m_space : μ .space) (m_free : μ .free) (m_ten : μ .ten) (m_broken : μ .broken) (m_fwd : μ .fwd) :
    Keeps μ σ (State.ptEcc s i e) := by
  unfold State.ptEcc
  repeat' first
    | with_reducible assumption
    | intro _
    | with_reducible apply Keeps.ite
    | ((fail_if_no_progress extract_lets +onlyGivenNames x); first | (refine Keeps.bind x ?_ ?_; (try subst x); rotate_left; intro hx; rotate_left) | skip)
    | with_reducible apply Keeps.ptFind
    | with_reducible apply Keeps.ptFound
    | split
    | simp only [id_eq]

theorem Keeps.ptApply (s : State) (i : ℕ) (op : PtOp) (tenant : ℕ) (p : ℕ) (v : Word) (hs : Keeps μ σ s) (m_space : μ .space) :
    Keeps μ σ (State.ptApply s i op tenant p v) := by
  unfold State.ptApply
  repeat' first
    | with_reducible assumption
    | intro _
    | with_reducible apply Keeps.ite
    | ((fail_if_no_progress extract_lets +onlyGivenNames x); first | (refine Keeps.bind x ?_ ?_; (try subst x); rotate_left; intro hx; rotate_left) | skip)
    | with_reducible apply Keeps.ptSet
    | split

theorem Keeps.ptEffect (s : State) (i : ℕ) (op : PtOp) (tenant : ℕ) (p : ℕ) (v : Word) (trend : Bool) (hs : Keeps μ σ s) (m_space : μ .space) (m_log : μ .log) (m_ten : μ .ten) (m_safe : μ .safe) (m_cmds : μ .cmds) (m_cd : μ .cd) (m_fwd : μ .fwd) (m_sk : μ .sk) :
    Keeps μ σ (State.ptEffect s i op tenant p v trend) := by
  unfold State.ptEffect
  repeat' first
    | with_reducible assumption
    | intro _
    | with_reducible apply Keeps.ite
    | ((fail_if_no_progress extract_lets +onlyGivenNames x); first | (refine Keeps.bind x ?_ ?_; (try subst x); rotate_left; intro hx; rotate_left) | skip)
    | with_reducible apply Keeps.inc
    | with_reducible apply Keeps.ptAfter
    | with_reducible apply Keeps.ptApply
    | split
    | simp only [id_eq]

theorem Keeps.ptSource (s : State) (i : ℕ) (bind : Word) (v : Word) (good : Bool) (remote : (Option (ℕ × ℕ))) (skT : (Option ℕ)) (trend : Bool) (hs : Keeps μ σ s) (m_space : μ .space) (m_free : μ .free) (m_wres : μ .wres) (m_log : μ .log) (m_ten : μ .ten) (m_broken : μ .broken) (m_safe : μ .safe) (m_cmds : μ .cmds) (m_cd : μ .cd) (m_fwd : μ .fwd) (m_sk : μ .sk) :
    Keeps μ σ (State.ptSource s i bind v good remote skT trend) := by
  unfold State.ptSource
  repeat' first
    | with_reducible assumption
    | intro _
    | with_reducible apply Keeps.ite
    | ((fail_if_no_progress extract_lets +onlyGivenNames x); first | (refine Keeps.bind x ?_ ?_; (try subst x); rotate_left; intro hx; rotate_left) | skip)
    | with_reducible apply Keeps.plainW
    | with_reducible apply Keeps.ptEffect
    | with_reducible apply Keeps.ptFind
    | split
    | simp only [id_eq]

theorem Keeps.sourceAll (s : State) (kind : ℕ) (ref : ℕ) (v : Word) (good : Bool) (hs : Keeps μ σ s) (m_space : μ .space) (m_free : μ .free) (m_wres : μ .wres) (m_log : μ .log) (m_ten : μ .ten) (m_broken : μ .broken) (m_safe : μ .safe) (m_cmds : μ .cmds) (m_cd : μ .cd) (m_fwd : μ .fwd) (m_sk : μ .sk) :
    Keeps μ σ (State.sourceAll s kind ref v good) := by
  unfold State.sourceAll
  repeat' first
    | with_reducible assumption
    | intro _
    | with_reducible apply Keeps.ite
    | ((fail_if_no_progress extract_lets +onlyGivenNames x); first | (refine Keeps.bind x ?_ ?_; (try subst x); rotate_left; intro hx; rotate_left) | skip)
    | with_reducible apply Keeps.each
    | with_reducible apply Keeps.ptSource
    | split
    | simp only [id_eq]

theorem Keeps.ptWrite (s : State) (w : Who) (i : ℕ) (op : PtOp) (p : ℕ) (v : Word) (addr : ℕ) (tgt : (Tgt → Tgt)) (hs : Keeps μ σ s) (m_space : μ .space) (m_free : μ .free) (m_wres : μ .wres) (m_log : μ .log) (m_ten : μ .ten) (m_broken : μ .broken) (m_safe : μ .safe) (m_cmds : μ .cmds) (m_cd : μ .cd) (m_fwd : μ .fwd) (m_sk : μ .sk) :
    Keeps μ σ (State.ptWrite s w i op p v addr tgt) := by
  unfold State.ptWrite
  repeat' first
    | with_reducible assumption
    | intro _
    | with_reducible apply Keeps.ite
    | ((fail_if_no_progress extract_lets +onlyGivenNames x); first | (refine Keeps.bind x ?_ ?_; (try subst x); rotate_left; intro hx; rotate_left) | skip)
    | with_reducible apply Keeps.auditW
    | with_reducible apply Keeps.ptEffect
    | with_reducible apply Keeps.ptFind
    | split
    | simp only [id_eq]

end Sys2Proof.Machine
end

