-- ==== Sys2Proof/Laws/KeepsRegOps.lean ====
section
/-! SUPPORT. What each operation of Machine/RegOps.lean keeps: the queue, the clock's direction, the canonical form of the register
space, and every part of the state it does not name (`Keeps`). -/

set_option linter.unusedTactic false
set_option linter.unreachableTactic false
set_option linter.unusedSimpArgs false
set_option linter.unusedVariables false

namespace Sys2Proof.Machine

variable {μ : Part → Prop} {σ : State}

theorem Keeps.cfgWrite (s : State) (w : Who) (a : ℕ) (data : Word) (chk : Word → Res) (after : Word → Word → State → State) (hs : Keeps μ σ s) (hafter : ∀ a0 a1 a2, Keeps μ σ a2 → Keeps μ σ (after a0 a1 a2)) (m_space : μ .space) (m_wres : μ .wres) (m_log : μ .log) (m_ten : μ .ten) :
    Keeps μ σ (State.cfgWrite s w a data chk after) := by
  unfold State.cfgWrite
  repeat' first
    | with_reducible assumption
    | intro _
    | with_reducible apply Keeps.ite
    | ((fail_if_no_progress extract_lets +onlyGivenNames x); first | (refine Keeps.bind x ?_ ?_; (try subst x); rotate_left; intro hx; rotate_left) | skip)
    | with_reducible apply hafter
    | with_reducible apply Keeps.auditW
    | with_reducible apply Keeps.plainW
    | with_reducible apply Keeps.setWord
    | split
    | simp only [id_eq]

theorem Keeps.flagWrite (s : State) (a : ℕ) (data : Word) (after : Word → Word → State → State) (hs : Keeps μ σ s) (hafter : ∀ a0 a1 a2, Keeps μ σ a2 → Keeps μ σ (after a0 a1 a2)) (m_space : μ .space) (m_wres : μ .wres) :
    Keeps μ σ (State.flagWrite s a data after) := by
  unfold State.flagWrite
  repeat' first
    | with_reducible assumption
    | intro _
    | with_reducible apply Keeps.ite
    | ((fail_if_no_progress extract_lets +onlyGivenNames x); first | (refine Keeps.bind x ?_ ?_; (try subst x); rotate_left; intro hx; rotate_left) | skip)
    | with_reducible apply hafter
    | with_reducible apply Keeps.plainW
    | with_reducible apply Keeps.setWord
    | split
    | simp only [id_eq]

theorem Keeps.kindWrite (s : State) (w : Who) (a : ℕ) (data : Word) (hs : Keeps μ σ s) (m_space : μ .space) (m_wres : μ .wres) (m_log : μ .log) (m_ten : μ .ten) :
    Keeps μ σ (State.kindWrite s w a data) := by
  unfold State.kindWrite
  repeat' first
    | with_reducible assumption
    | intro _
    | with_reducible apply Keeps.ite
    | with_reducible apply Keeps.cfgWrite
    | with_reducible apply Keeps.flagWrite
    | with_reducible apply Keeps.plainW
    | split
    | simp only [id_eq]

theorem Keeps.refuseWrite (s : State) (w : Who) (a : ℕ) (data : Word) (res : Res) (hs : Keeps μ σ s) (m_space : μ .space) (m_wres : μ .wres) (m_log : μ .log) (m_ten : μ .ten) :
    Keeps μ σ (State.refuseWrite s w a data res) := by
  unfold State.refuseWrite
  repeat' first
    | with_reducible assumption
    | intro _
    | with_reducible apply Keeps.ite
    | ((fail_if_no_progress extract_lets +onlyGivenNames x); first | (refine Keeps.bind x ?_ ?_; (try subst x); rotate_left; intro hx; rotate_left) | skip)
    | with_reducible apply Keeps.auditW
    | with_reducible apply Keeps.plainW
    | split
    | simp only [id_eq]

theorem Keeps.clearWrite (s : State) (w : Who) (a : ℕ) (data : Word) (after : Word → Word → State → State) (hs : Keeps μ σ s) (hafter : ∀ a0 a1 a2, Keeps μ σ a2 → Keeps μ σ (after a0 a1 a2)) (m_space : μ .space) (m_wres : μ .wres) (m_log : μ .log) (m_ten : μ .ten) :
    Keeps μ σ (State.clearWrite s w a data after) := by
  unfold State.clearWrite
  repeat' first
    | with_reducible assumption
    | intro _
    | with_reducible apply Keeps.ite
    | ((fail_if_no_progress extract_lets +onlyGivenNames x); first | (refine Keeps.bind x ?_ ?_; (try subst x); rotate_left; intro hx; rotate_left) | skip)
    | with_reducible apply hafter
    | with_reducible apply Keeps.auditW
    | with_reducible apply Keeps.plainW
    | with_reducible apply Keeps.setWord
    | split
    | simp only [id_eq]

theorem Keeps.unmapped (s : State) (a : ℕ) (write : Bool) (hs : Keeps μ σ s) (m_space : μ .space) :
    Keeps μ σ (State.unmapped s a write) := by
  unfold State.unmapped
  repeat' first
    | with_reducible assumption
    | intro _
    | with_reducible apply Keeps.ite
    | with_reducible apply Keeps.put

theorem Keeps.dropRead (s : State) (hs : Keeps μ σ s) (m_space : μ .space) (m_rdata : μ .rdata) (m_wres : μ .wres) :
    Keeps μ σ (State.dropRead s) := by
  unfold State.dropRead
  repeat' first
    | with_reducible assumption
    | intro _
    | with_reducible apply Keeps.ite
    | ((fail_if_no_progress extract_lets +onlyGivenNames x); first | (refine Keeps.bind x ?_ ?_; (try subst x); rotate_left; intro hx; rotate_left) | skip)
    | with_reducible apply Keeps.inc
    | simp only [Keeps.upd_rdata_wres m_rdata m_wres]

theorem Keeps.dropWrite (s : State) (w : Who) (a : ℕ) (data : Word) (hs : Keeps μ σ s) (m_space : μ .space) (m_wres : μ .wres) (m_log : μ .log) (m_ten : μ .ten) :
    Keeps μ σ (State.dropWrite s w a data) := by
  unfold State.dropWrite
  repeat' first
    | with_reducible assumption
    | intro _
    | with_reducible apply Keeps.ite
    | ((fail_if_no_progress extract_lets +onlyGivenNames x); first | (refine Keeps.bind x ?_ ?_; (try subst x); rotate_left; intro hx; rotate_left) | skip)
    | with_reducible apply Keeps.auditW
    | with_reducible apply Keeps.inc
    | with_reducible apply Keeps.plainW
    | with_reducible apply Keeps.refuseWrite
    | split
    | simp only [id_eq]

end Sys2Proof.Machine
end

