-- ==== Sys2Proof/Laws/KeepsAcquisition.lean ====
section
/-! SUPPORT. What each operation of Machine/Acquisition.lean keeps: the queue, the clock's direction, the canonical form of the register
space, and every part of the state it does not name (`Keeps`). -/

set_option linter.unusedTactic false
set_option linter.unreachableTactic false
set_option linter.unusedSimpArgs false
set_option linter.unusedVariables false

namespace Sys2Proof.Machine

variable {μ : Part → Prop} {σ : State}

theorem Keeps.setConv (s : State) (k : ℕ) (c : AdcConv) (hs : Keeps μ σ s) (m_adc : μ .adc) :
    Keeps μ σ (State.setConv s k c) := by
  unfold State.setConv
  repeat' first
    | with_reducible assumption
    | intro _
    | with_reducible apply Keeps.ite
    | ((fail_if_no_progress extract_lets +onlyGivenNames x); first | (refine Keeps.bind x ?_ ?_; (try subst x); rotate_left; intro hx; rotate_left) | skip)
    | simp only [Keeps.upd_adc m_adc]

theorem Keeps.setAdcState (s : State) (k : ℕ) (v : ℕ) (hs : Keeps μ σ s) (m_space : μ .space) :
    Keeps μ σ (State.setAdcState s k v) := by
  unfold State.setAdcState
  repeat' first
    | with_reducible assumption
    | intro _
    | with_reducible apply Keeps.ite
    | with_reducible apply Keeps.put

theorem Keeps.pdErr (s : State) (t : ℕ) (block : ℕ) (code : ℕ) (f : List Byte) (hs : Keeps μ σ s) (m_space : μ .space) (m_ten : μ .ten) (m_pdErrs : μ .pdErrs) :
    Keeps μ σ (State.pdErr s t block code f) := by
  unfold State.pdErr
  repeat' first
    | with_reducible assumption
    | intro _
    | with_reducible apply Keeps.ite
    | with_reducible apply Keeps.postErr2
    | simp only [Keeps.upd_pdErrs m_pdErrs]

theorem Keeps.seqTake (s : State) (k : ℕ) (urgent : Bool) (hs : Keeps μ σ s) (m_adc : μ .adc) :
    Keeps μ σ (State.seqTake s k urgent) := by
  unfold State.seqTake
  repeat' first
    | with_reducible assumption
    | intro _
    | with_reducible apply Keeps.ite
    | ((fail_if_no_progress extract_lets +onlyGivenNames x); first | (refine Keeps.bind x ?_ ?_; (try subst x); rotate_left; intro hx; rotate_left) | skip)
    | with_reducible apply Keeps.foldl
    | with_reducible apply Keeps.setConv

theorem Keeps.seqBegin (s : State) (k : ℕ) (urgent : Bool) (hs : Keeps μ σ s) (m_space : μ .space) (m_adc : μ .adc) :
    Keeps μ σ (State.seqBegin s k urgent) := by
  unfold State.seqBegin
  repeat' first
    | with_reducible assumption
    | intro _
    | with_reducible apply Keeps.ite
    | ((fail_if_no_progress extract_lets +onlyGivenNames x); first | (refine Keeps.bind x ?_ ?_; (try subst x); rotate_left; intro hx; rotate_left) | skip)
    | with_reducible apply Keeps.put
    | with_reducible apply Keeps.seqTake
    | with_reducible apply Keeps.setAdcState
    | with_reducible apply Keeps.setConv

theorem Keeps.trigLost (s : State) (k : ℕ) (hs : Keeps μ σ s) (m_space : μ .space) :
    Keeps μ σ (State.trigLost s k) := by
  unfold State.trigLost
  repeat' first
    | with_reducible assumption
    | intro _
    | with_reducible apply Keeps.ite
    | with_reducible apply Keeps.inc
    | with_reducible apply Keeps.put

theorem Keeps.startUp (s : State) (k : ℕ) (what : ℕ) (hs : Keeps μ σ s) (m_space : μ .space) (m_adc : μ .adc) :
    Keeps μ σ (State.startUp s k what) := by
  unfold State.startUp
  repeat' first
    | with_reducible assumption
    | intro _
    | with_reducible apply Keeps.ite
    | ((fail_if_no_progress extract_lets +onlyGivenNames x); first | (refine Keeps.bind x ?_ ?_; (try subst x); rotate_left; intro hx; rotate_left) | skip)
    | with_reducible apply Keeps.setAdcState
    | with_reducible apply Keeps.setConv

theorem Keeps.checkAbandon (s : State) (k : ℕ) (urgent : Bool) (hs : Keeps μ σ s) (m_space : μ .space) (m_adc : μ .adc) :
    Keeps μ σ (State.checkAbandon s k urgent) := by
  unfold State.checkAbandon
  repeat' first
    | with_reducible assumption
    | intro _
    | with_reducible apply Keeps.ite
    | ((fail_if_no_progress extract_lets +onlyGivenNames x); first | (refine Keeps.bind x ?_ ?_; (try subst x); rotate_left; intro hx; rotate_left) | skip)
    | with_reducible apply Keeps.seqBegin
    | with_reducible apply Keeps.setConv

theorem Keeps.trigNormal (s : State) (k : ℕ) (hs : Keeps μ σ s) (m_space : μ .space) (m_adc : μ .adc) :
    Keeps μ σ (State.trigNormal s k) := by
  unfold State.trigNormal
  repeat' first
    | with_reducible assumption
    | intro _
    | with_reducible apply Keeps.ite
    | ((fail_if_no_progress extract_lets +onlyGivenNames x); first | (refine Keeps.bind x ?_ ?_; (try subst x); rotate_left; intro hx; rotate_left) | skip)
    | with_reducible apply Keeps.checkAbandon
    | with_reducible apply Keeps.put
    | with_reducible apply Keeps.setConv
    | with_reducible apply Keeps.startUp
    | with_reducible apply Keeps.trigLost

theorem Keeps.preempt (s : State) (k : ℕ) (hs : Keeps μ σ s) (m_space : μ .space) (m_adc : μ .adc) :
    Keeps μ σ (State.preempt s k) := by
  unfold State.preempt
  repeat' first
    | with_reducible assumption
    | intro _
    | with_reducible apply Keeps.ite
    | ((fail_if_no_progress extract_lets +onlyGivenNames x); first | (refine Keeps.bind x ?_ ?_; (try subst x); rotate_left; intro hx; rotate_left) | skip)
    | with_reducible apply Keeps.inc
    | with_reducible apply Keeps.put
    | with_reducible apply Keeps.seqBegin
    | with_reducible apply Keeps.setConv

theorem Keeps.trigUrgent (s : State) (k : ℕ) (hs : Keeps μ σ s) (m_space : μ .space) (m_adc : μ .adc) :
    Keeps μ σ (State.trigUrgent s k) := by
  unfold State.trigUrgent
  repeat' first
    | with_reducible assumption
    | intro _
    | with_reducible apply Keeps.ite
    | ((fail_if_no_progress extract_lets +onlyGivenNames x); first | (refine Keeps.bind x ?_ ?_; (try subst x); rotate_left; intro hx; rotate_left) | skip)
    | with_reducible apply Keeps.checkAbandon
    | with_reducible apply Keeps.preempt
    | with_reducible apply Keeps.put
    | with_reducible apply Keeps.setConv
    | with_reducible apply Keeps.startUp
    | with_reducible apply Keeps.trigLost

theorem Keeps.adcTrigger (s : State) (src : ℕ) (rising : Bool) (hs : Keeps μ σ s) (m_space : μ .space) (m_adc : μ .adc) :
    Keeps μ σ (State.adcTrigger s src rising) := by
  unfold State.adcTrigger
  repeat' first
    | with_reducible assumption
    | intro _
    | with_reducible apply Keeps.ite
    | with_reducible apply Keeps.each
    | with_reducible apply Keeps.trigNormal
    | with_reducible apply Keeps.trigUrgent

theorem Keeps.of_execAdcTrigger (src : Fin 13) (rising : Bool) (s : State) (hs : Keeps μ σ s) (m_space : μ .space) (m_adc : μ .adc) :
    KeepsO μ σ (execAdcTrigger src rising s) := by
  unfold execAdcTrigger
  repeat' first
    | with_reducible assumption
    | intro _
    | with_reducible apply KeepsO.next
    | with_reducible apply Keeps.ite
    | ((fail_if_no_progress extract_lets +onlyGivenNames x); first | (refine Keeps.bind x ?_ ?_; (try subst x); rotate_left; intro hx; rotate_left) | (refine KeepsO.bind x ?_ ?_; (try subst x); rotate_left; intro hx; rotate_left) | skip)
    | with_reducible apply Keeps.adcTrigger
    | with_reducible apply Keeps.pdDo
    | split
    | simp only [id_eq]

theorem Keeps.adcStartWrite (s : State) (w : Who) (k : ℕ) (data : Word) (hs : Keeps μ σ s) (m_space : μ .space) (m_wres : μ .wres) (m_log : μ .log) (m_ten : μ .ten) (m_adc : μ .adc) :
    Keeps μ σ (State.adcStartWrite s w k data) := by
  unfold State.adcStartWrite
  repeat' first
    | with_reducible assumption
    | intro _
    | with_reducible apply Keeps.ite
    | with_reducible apply Keeps.dropWrite
    | with_reducible apply Keeps.plainW
    | with_reducible apply Keeps.refuseWrite
    | with_reducible apply Keeps.trigNormal
    | with_reducible apply Keeps.trigUrgent

theorem Keeps.of_execAdcStartNormal (p : Path) (k : Fin 4) (s : State) (hs : Keeps μ σ s) (m_space : μ .space) (m_rdata : μ .rdata) (m_wres : μ .wres) (m_banks : μ .banks) (m_log : μ .log) (m_ten : μ .ten) (m_adc : μ .adc) :
    KeepsO μ σ (execAdcStartNormal p k s) := by
  unfold execAdcStartNormal
  repeat' first
    | with_reducible assumption
    | intro _
    | with_reducible apply KeepsO.next
    | with_reducible apply Keeps.ite
    | with_reducible apply Keeps.adcStartWrite
    | with_reducible apply Keeps.byPath

theorem Keeps.of_execAdcStartUrgent (p : Path) (k : Fin 4) (s : State) (hs : Keeps μ σ s) (m_space : μ .space) (m_rdata : μ .rdata) (m_wres : μ .wres) (m_banks : μ .banks) (m_log : μ .log) (m_ten : μ .ten) (m_adc : μ .adc) :
    KeepsO μ σ (execAdcStartUrgent p k s) := by
  unfold execAdcStartUrgent
  repeat' first
    | with_reducible assumption
    | intro _
    | with_reducible apply KeepsO.next
    | with_reducible apply Keeps.ite
    | with_reducible apply Keeps.adcStartWrite
    | with_reducible apply Keeps.byPath

theorem Keeps.checkBegin (s : State) (k : ℕ) (hs : Keeps μ σ s) (m_space : μ .space) (m_adc : μ .adc) :
    Keeps μ σ (State.checkBegin s k) := by
  unfold State.checkBegin
  repeat' first
    | with_reducible assumption
    | intro _
    | with_reducible apply Keeps.ite
    | ((fail_if_no_progress extract_lets +onlyGivenNames x); first | (refine Keeps.bind x ?_ ?_; (try subst x); rotate_left; intro hx; rotate_left) | skip)
    | with_reducible apply Keeps.setAdcState
    | with_reducible apply Keeps.setConv

theorem Keeps.startUpEnd (s : State) (k : ℕ) (hs : Keeps μ σ s) (m_space : μ .space) (m_now : μ .now) (m_campusOff : μ .campusOff) (m_cl : μ .cl) (m_adc : μ .adc) :
    Keeps μ σ (State.startUpEnd s k) := by
  unfold State.startUpEnd
  repeat' first
    | with_reducible assumption
    | intro _
    | with_reducible apply Keeps.ite
    | with_reducible apply Keeps.checkBegin
    | with_reducible apply Keeps.put
    | with_reducible apply Keeps.reach
    | with_reducible apply Keeps.seqBegin
    | with_reducible apply Keeps.setConv

theorem Keeps.of_execAdcStartupEnd (k : Fin 4) (s : State) (hs : Keeps μ σ s) (m_space : μ .space) (m_now : μ .now) (m_campusOff : μ .campusOff) (m_cl : μ .cl) (m_adc : μ .adc) :
    KeepsO μ σ (execAdcStartupEnd k s) := by
  unfold execAdcStartupEnd
  repeat' first
    | with_reducible assumption
    | intro _
    | with_reducible apply KeepsO.next
    | with_reducible apply Keeps.ite
    | ((fail_if_no_progress extract_lets +onlyGivenNames x); first | (refine Keeps.bind x ?_ ?_; (try subst x); rotate_left; intro hx; rotate_left) | (refine KeepsO.bind x ?_ ?_; (try subst x); rotate_left; intro hx; rotate_left) | skip)
    | with_reducible apply Keeps.pdDo
    | with_reducible apply Keeps.startUpEnd
    | split
    | simp only [id_eq]

theorem Keeps.seqEnd (s : State) (k : ℕ) (hs : Keeps μ σ s) (m_space : μ .space) (m_adc : μ .adc) :
    Keeps μ σ (State.seqEnd s k) := by
  unfold State.seqEnd
  repeat' first
    | with_reducible assumption
    | intro _
    | with_reducible apply Keeps.ite
    | ((fail_if_no_progress extract_lets +onlyGivenNames x); first | (refine Keeps.bind x ?_ ?_; (try subst x); rotate_left; intro hx; rotate_left) | skip)
    | with_reducible apply Keeps.checkBegin
    | with_reducible apply Keeps.put
    | with_reducible apply Keeps.seqBegin
    | with_reducible apply Keeps.setAdcState
    | with_reducible apply Keeps.setConv

theorem Keeps.passEnd (s : State) (k : ℕ) (hs : Keeps μ σ s) (m_space : μ .space) (m_adc : μ .adc) :
    Keeps μ σ (State.passEnd s k) := by
  unfold State.passEnd
  repeat' first
    | with_reducible assumption
    | intro _
    | with_reducible apply Keeps.ite
    | with_reducible apply Keeps.put
    | with_reducible apply Keeps.seqEnd
    | with_reducible apply Keeps.setConv

theorem Keeps.ovrFlag (s : State) (k : ℕ) (e : ℕ) (pin : ℕ) (high : Bool) (hs : Keeps μ σ s) (m_space : μ .space) :
    Keeps μ σ (State.ovrFlag s k e pin high) := by
  unfold State.ovrFlag
  repeat' first
    | with_reducible assumption
    | intro _
    | with_reducible apply Keeps.ite
    | with_reducible apply Keeps.put

theorem Keeps.entryConv (s : State) (k : ℕ) (code : ℕ) (ovr : Option Bool) (hs : Keeps μ σ s) (m_space : μ .space) (m_now : μ .now) (m_campusOff : μ .campusOff) (m_cl : μ .cl) (m_adc : μ .adc) :
    Keeps μ σ (State.entryConv s k code ovr) := by
  unfold State.entryConv
  repeat' first
    | with_reducible assumption
    | intro _
    | with_reducible apply Keeps.ite
    | ((fail_if_no_progress extract_lets +onlyGivenNames x); first | (refine Keeps.bind x ?_ ?_; (try subst x); rotate_left; intro hx; rotate_left) | skip)
    | with_reducible apply Keeps.inc
    | with_reducible apply Keeps.ovrFlag
    | with_reducible apply Keeps.passEnd
    | with_reducible apply Keeps.put
    | with_reducible apply Keeps.reach
    | with_reducible apply Keeps.setConv
    | split
    | simp only [id_eq]

theorem Keeps.lateMerged (s : State) (k : ℕ) (l : AdcLast) (p : AdcAcc) (hs : Keeps μ σ s) (m_adc : μ .adc) :
    Keeps μ σ (State.lateMerged s k l p) := by
  unfold State.lateMerged
  repeat' first
    | with_reducible assumption
    | intro _
    | with_reducible apply Keeps.ite
    | ((fail_if_no_progress extract_lets +onlyGivenNames x); first | (refine Keeps.bind x ?_ ?_; (try subst x); rotate_left; intro hx; rotate_left) | skip)
    | with_reducible apply Keeps.setConv
    | simp only [Keeps.upd_adc m_adc]
    | split
    | simp only [id_eq]

theorem Keeps.lateSuspect (s : State) (k : ℕ) (hs : Keeps μ σ s) (m_space : μ .space) (m_adc : μ .adc) :
    Keeps μ σ (State.lateSuspect s k) := by
  unfold State.lateSuspect
  repeat' first
    | with_reducible assumption
    | intro _
    | with_reducible apply Keeps.ite
    | ((fail_if_no_progress extract_lets +onlyGivenNames x); first | (refine Keeps.bind x ?_ ?_; (try subst x); rotate_left; intro hx; rotate_left) | skip)
    | with_reducible apply Keeps.inc
    | with_reducible apply Keeps.lateMerged
    | with_reducible apply Keeps.put
    | with_reducible apply Keeps.setConv
    | split
    | simp only [id_eq]

theorem Keeps.plSet (s : State) (k : ℕ) (f : Fld) (hs : Keeps μ σ s) (m_space : μ .space) (m_ten : μ .ten) (m_pdErrs : μ .pdErrs) :
    Keeps μ σ (State.plSet s k f) := by
  unfold State.plSet
  repeat' first
    | with_reducible assumption
    | intro _
    | with_reducible apply Keeps.ite
    | ((fail_if_no_progress extract_lets +onlyGivenNames x); first | (refine Keeps.bind x ?_ ?_; (try subst x); rotate_left; intro hx; rotate_left) | skip)
    | with_reducible apply Keeps.pdErr
    | with_reducible apply Keeps.put

theorem Keeps.pairCompare (s : State) (p : ℕ) (a : Word × Bool) (b : Word × Bool) (hs : Keeps μ σ s) (m_space : μ .space) (m_ten : μ .ten) (m_adc : μ .adc) (m_pdErrs : μ .pdErrs) :
    Keeps μ σ (State.pairCompare s p a b) := by
  unfold State.pairCompare
  repeat' first
    | with_reducible assumption
    | intro _
    | with_reducible apply Keeps.ite
    | ((fail_if_no_progress extract_lets +onlyGivenNames x); first | (refine Keeps.bind x ?_ ?_; (try subst x); rotate_left; intro hx; rotate_left) | skip)
    | with_reducible apply Keeps.inc
    | with_reducible apply Keeps.plSet
    | with_reducible apply Keeps.put
    | simp only [Keeps.upd_adc m_adc]

theorem Keeps.checkEnd (s : State) (k : ℕ) (hs : Keeps μ σ s) (m_space : μ .space) (m_ten : μ .ten) (m_adc : μ .adc) (m_pdErrs : μ .pdErrs) :
    Keeps μ σ (State.checkEnd s k) := by
  unfold State.checkEnd
  repeat' first
    | with_reducible assumption
    | intro _
    | with_reducible apply Keeps.ite
    | ((fail_if_no_progress extract_lets +onlyGivenNames x); first | (refine Keeps.bind x ?_ ?_; (try subst x); rotate_left; intro hx; rotate_left) | skip)
    | with_reducible apply Keeps.pairCompare
    | with_reducible apply Keeps.put
    | with_reducible apply Keeps.setAdcState
    | with_reducible apply Keeps.setConv
    | split
    | simp only [id_eq]

theorem Keeps.checkConv (s : State) (k : ℕ) (code : ℕ) (ovr : Option Bool) (hs : Keeps μ σ s) (m_space : μ .space) (m_now : μ .now) (m_campusOff : μ .campusOff) (m_ten : μ .ten) (m_cl : μ .cl) (m_adc : μ .adc) (m_pdErrs : μ .pdErrs) :
    Keeps μ σ (State.checkConv s k code ovr) := by
  unfold State.checkConv
  repeat' first
    | with_reducible assumption
    | intro _
    | with_reducible apply Keeps.ite
    | ((fail_if_no_progress extract_lets +onlyGivenNames x); first | (refine Keeps.bind x ?_ ?_; (try subst x); rotate_left; intro hx; rotate_left) | skip)
    | with_reducible apply Keeps.checkEnd
    | with_reducible apply Keeps.inc
    | with_reducible apply Keeps.putIf
    | with_reducible apply Keeps.reach
    | with_reducible apply Keeps.setConv
    | split
    | simp only [id_eq]

theorem Keeps.convEnd (s : State) (k : ℕ) (code : ℕ) (ovr : Option Bool) (hs : Keeps μ σ s) (m_space : μ .space) (m_now : μ .now) (m_campusOff : μ .campusOff) (m_ten : μ .ten) (m_cl : μ .cl) (m_adc : μ .adc) (m_pdErrs : μ .pdErrs) :
    Keeps μ σ (State.convEnd s k code ovr) := by
  unfold State.convEnd
  repeat' first
    | with_reducible assumption
    | intro _
    | with_reducible apply Keeps.ite
    | ((fail_if_no_progress extract_lets +onlyGivenNames x); first | (refine Keeps.bind x ?_ ?_; (try subst x); rotate_left; intro hx; rotate_left) | skip)
    | with_reducible apply Keeps.checkConv
    | with_reducible apply Keeps.entryConv
    | split
    | simp only [id_eq]

theorem Keeps.of_execAdcConversionEnd (k : Fin 4) (code : ℕ) (ovr : Option Bool) (s : State) (hs : Keeps μ σ s) (m_space : μ .space) (m_now : μ .now) (m_campusOff : μ .campusOff) (m_ten : μ .ten) (m_cl : μ .cl) (m_adc : μ .adc) (m_pdErrs : μ .pdErrs) :
    KeepsO μ σ (execAdcConversionEnd k code ovr s) := by
  unfold execAdcConversionEnd
  repeat' first
    | with_reducible assumption
    | intro _
    | with_reducible apply KeepsO.next
    | with_reducible apply Keeps.ite
    | ((fail_if_no_progress extract_lets +onlyGivenNames x); first | (refine Keeps.bind x ?_ ?_; (try subst x); rotate_left; intro hx; rotate_left) | (refine KeepsO.bind x ?_ ?_; (try subst x); rotate_left; intro hx; rotate_left) | skip)
    | with_reducible apply Keeps.convEnd
    | with_reducible apply Keeps.pdDo
    | split
    | simp only [id_eq]

theorem Keeps.passMerge (s : State) (k : ℕ) (hs : Keeps μ σ s) (m_adc : μ .adc) :
    Keeps μ σ (State.passMerge s k) := by
  unfold State.passMerge
  repeat' first
    | with_reducible assumption
    | intro _
    | with_reducible apply Keeps.ite
    | ((fail_if_no_progress extract_lets +onlyGivenNames x); first | (refine Keeps.bind x ?_ ?_; (try subst x); rotate_left; intro hx; rotate_left) | skip)
    | with_reducible apply Keeps.setConv
    | split

theorem Keeps.of_execAdcPassMerge (k : Fin 4) (s : State) (hs : Keeps μ σ s) (m_adc : μ .adc) :
    KeepsO μ σ (execAdcPassMerge k s) := by
  unfold execAdcPassMerge
  repeat' first
    | with_reducible assumption
    | intro _
    | with_reducible apply KeepsO.next
    | with_reducible apply Keeps.ite
    | ((fail_if_no_progress extract_lets +onlyGivenNames x); first | (refine Keeps.bind x ?_ ?_; (try subst x); rotate_left; intro hx; rotate_left) | (refine KeepsO.bind x ?_ ?_; (try subst x); rotate_left; intro hx; rotate_left) | skip)
    | with_reducible apply Keeps.passMerge
    | with_reducible apply Keeps.pdDo
    | split
    | simp only [id_eq]

theorem Keeps.snapConv (s : State) (k : ℕ) (hs : Keeps μ σ s) (m_adc : μ .adc) :
    Keeps μ σ (State.snapConv s k) := by
  unfold State.snapConv
  repeat' first
    | with_reducible assumption
    | intro _
    | with_reducible apply Keeps.ite
    | ((fail_if_no_progress extract_lets +onlyGivenNames x); first | (refine Keeps.bind x ?_ ?_; (try subst x); rotate_left; intro hx; rotate_left) | skip)
    | with_reducible apply Keeps.each
    | with_reducible apply Keeps.setConv
    | simp only [Keeps.upd_adc m_adc]

theorem Keeps.accPublish (s : State) (hs : Keeps μ σ s) (m_space : μ .space) (m_free : μ .free) (m_wres : μ .wres) (m_log : μ .log) (m_ten : μ .ten) (m_broken : μ .broken) (m_safe : μ .safe) (m_cmds : μ .cmds) (m_cd : μ .cd) (m_fwd : μ .fwd) (m_sk : μ .sk) (m_adc : μ .adc) :
    Keeps μ σ (State.accPublish s) := by
  unfold State.accPublish
  repeat' first
    | with_reducible assumption
    | intro _
    | with_reducible apply Keeps.ite
    | ((fail_if_no_progress extract_lets +onlyGivenNames x); first | (refine Keeps.bind x ?_ ?_; (try subst x); rotate_left; intro hx; rotate_left) | skip)
    | with_reducible apply Keeps.each
    | with_reducible apply Keeps.ptSource
    | simp only [Keeps.upd_adc m_adc]
    | split
    | simp only [id_eq]

theorem Keeps.of_execAccPublication (s : State) (hs : Keeps μ σ s) (m_space : μ .space) (m_free : μ .free) (m_wres : μ .wres) (m_log : μ .log) (m_ten : μ .ten) (m_broken : μ .broken) (m_safe : μ .safe) (m_cmds : μ .cmds) (m_cd : μ .cd) (m_fwd : μ .fwd) (m_sk : μ .sk) (m_adc : μ .adc) :
    KeepsO μ σ (execAccPublication s) := by
  unfold execAccPublication
  repeat' first
    | with_reducible assumption
    | intro _
    | with_reducible apply KeepsO.next
    | with_reducible apply Keeps.ite
    | ((fail_if_no_progress extract_lets +onlyGivenNames x); first | (refine Keeps.bind x ?_ ?_; (try subst x); rotate_left; intro hx; rotate_left) | (refine KeepsO.bind x ?_ ?_; (try subst x); rotate_left; intro hx; rotate_left) | skip)
    | with_reducible apply Keeps.accPublish
    | with_reducible apply Keeps.pdDo
    | split
    | simp only [id_eq]

theorem Keeps.localMeans (s : State) (hs : Keeps μ σ s) (m_adc : μ .adc) :
    Keeps μ σ (State.localMeans s) := by
  unfold State.localMeans
  repeat' first
    | with_reducible assumption
    | intro _
    | with_reducible apply Keeps.ite
    | ((fail_if_no_progress extract_lets +onlyGivenNames x); first | (refine Keeps.bind x ?_ ?_; (try subst x); rotate_left; intro hx; rotate_left) | skip)
    | with_reducible apply Keeps.foldl
    | with_reducible apply Keeps.each
    | with_reducible apply Keeps.setConv

theorem Keeps.of_execAdcLocalMean (s : State) (hs : Keeps μ σ s) (m_now : μ .now) (m_campusOff : μ .campusOff) (m_cl : μ .cl) (m_adc : μ .adc) :
    KeepsO μ σ (execAdcLocalMean s) := by
  unfold execAdcLocalMean
  repeat' first
    | with_reducible assumption
    | intro _
    | with_reducible apply KeepsO.next
    | with_reducible apply Keeps.ite
    | ((fail_if_no_progress extract_lets +onlyGivenNames x); first | (refine Keeps.bind x ?_ ?_; (try subst x); rotate_left; intro hx; rotate_left) | (refine KeepsO.bind x ?_ ?_; (try subst x); rotate_left; intro hx; rotate_left) | skip)
    | with_reducible apply Keeps.localMeans
    | with_reducible apply Keeps.reach
    | simp only [Keeps.upd_adc m_adc]

theorem Keeps.adcLinkBack (s : State) (hs : Keeps μ σ s) (m_adc : μ .adc) :
    Keeps μ σ (State.adcLinkBack s) := by
  unfold State.adcLinkBack
  repeat' first
    | with_reducible assumption
    | intro _
    | with_reducible apply Keeps.ite
    | ((fail_if_no_progress extract_lets +onlyGivenNames x); first | (refine Keeps.bind x ?_ ?_; (try subst x); rotate_left; intro hx; rotate_left) | skip)
    | simp only [Keeps.upd_adc m_adc]

theorem Keeps.injSample (s : State) (mask : ℕ) (hs : Keeps μ σ s) (m_space : μ .space) (m_now : μ .now) (m_campusOff : μ .campusOff) (m_cl : μ .cl) (m_adc : μ .adc) :
    Keeps μ σ (State.injSample s mask) := by
  unfold State.injSample
  repeat' first
    | with_reducible assumption
    | intro _
    | with_reducible apply Keeps.ite
    | with_reducible apply Keeps.foldl
    | ((fail_if_no_progress extract_lets +onlyGivenNames x); first | (refine Keeps.bind x ?_ ?_; (try subst x); rotate_left; intro hx; rotate_left) | skip)
    | with_reducible apply Keeps.each
    | with_reducible apply Keeps.lateSuspect
    | with_reducible apply Keeps.put
    | with_reducible apply Keeps.reach
    | simp only [Keeps.upd_adc m_adc]
    | split
    | simp only [id_eq]

theorem Keeps.of_execAdcInjectionSample (mask : BitVec 64) (s : State) (hs : Keeps μ σ s) (m_space : μ .space) (m_now : μ .now) (m_campusOff : μ .campusOff) (m_cl : μ .cl) (m_adc : μ .adc) :
    KeepsO μ σ (execAdcInjectionSample mask s) := by
  unfold execAdcInjectionSample
  repeat' first
    | with_reducible assumption
    | intro _
    | with_reducible apply KeepsO.next
    | with_reducible apply Keeps.ite
    | ((fail_if_no_progress extract_lets +onlyGivenNames x); first | (refine Keeps.bind x ?_ ?_; (try subst x); rotate_left; intro hx; rotate_left) | (refine KeepsO.bind x ?_ ?_; (try subst x); rotate_left; intro hx; rotate_left) | skip)
    | with_reducible apply Keeps.injSample
    | with_reducible apply Keeps.pdDo
    | split
    | simp only [id_eq]

theorem Keeps.checkStart (s : State) (k : ℕ) (hs : Keeps μ σ s) (m_space : μ .space) (m_adc : μ .adc) :
    Keeps μ σ (State.checkStart s k) := by
  unfold State.checkStart
  repeat' first
    | with_reducible assumption
    | intro _
    | with_reducible apply Keeps.ite
    | with_reducible apply Keeps.startUp

theorem Keeps.of_execAdcCheckStart (k : Fin 4) (s : State) (hs : Keeps μ σ s) (m_space : μ .space) (m_adc : μ .adc) :
    KeepsO μ σ (execAdcCheckStart k s) := by
  unfold execAdcCheckStart
  repeat' first
    | with_reducible assumption
    | intro _
    | with_reducible apply KeepsO.next
    | with_reducible apply Keeps.ite
    | ((fail_if_no_progress extract_lets +onlyGivenNames x); first | (refine Keeps.bind x ?_ ?_; (try subst x); rotate_left; intro hx; rotate_left) | (refine KeepsO.bind x ?_ ?_; (try subst x); rotate_left; intro hx; rotate_left) | skip)
    | with_reducible apply Keeps.checkStart
    | with_reducible apply Keeps.pdDo
    | split
    | simp only [id_eq]

theorem Keeps.checkComplete (s : State) (k : ℕ) (codes : List (ℕ × Option Bool)) (hs : Keeps μ σ s) (m_space : μ .space) (m_now : μ .now) (m_campusOff : μ .campusOff) (m_ten : μ .ten) (m_cl : μ .cl) (m_adc : μ .adc) (m_pdErrs : μ .pdErrs) :
    Keeps μ σ (State.checkComplete s k codes) := by
  unfold State.checkComplete
  repeat' first
    | with_reducible assumption
    | intro _
    | with_reducible apply Keeps.ite
    | ((fail_if_no_progress extract_lets +onlyGivenNames x); first | (refine Keeps.bind x ?_ ?_; (try subst x); rotate_left; intro hx; rotate_left) | skip)
    | with_reducible apply Keeps.checkConv
    | with_reducible apply Keeps.each
    | split
    | simp only [id_eq]

theorem Keeps.of_execAdcCheckComplete (k : Fin 4) (codes : List (ℕ × Option Bool)) (s : State) (hs : Keeps μ σ s) (m_space : μ .space) (m_now : μ .now) (m_campusOff : μ .campusOff) (m_ten : μ .ten) (m_cl : μ .cl) (m_adc : μ .adc) (m_pdErrs : μ .pdErrs) :
    KeepsO μ σ (execAdcCheckComplete k codes s) := by
  unfold execAdcCheckComplete
  repeat' first
    | with_reducible assumption
    | intro _
    | with_reducible apply KeepsO.next
    | with_reducible apply Keeps.ite
    | ((fail_if_no_progress extract_lets +onlyGivenNames x); first | (refine Keeps.bind x ?_ ?_; (try subst x); rotate_left; intro hx; rotate_left) | (refine KeepsO.bind x ?_ ?_; (try subst x); rotate_left; intro hx; rotate_left) | skip)
    | with_reducible apply Keeps.checkComplete
    | with_reducible apply Keeps.pdDo
    | split
    | simp only [id_eq]

theorem Keeps.pairTick (s : State) (p : ℕ) (hs : Keeps μ σ s) (m_space : μ .space) (m_ten : μ .ten) (m_adc : μ .adc) (m_pdErrs : μ .pdErrs) :
    Keeps μ σ (State.pairTick s p) := by
  unfold State.pairTick
  repeat' first
    | with_reducible assumption
    | intro _
    | with_reducible apply Keeps.ite
    | ((fail_if_no_progress extract_lets +onlyGivenNames x); first | (refine Keeps.bind x ?_ ?_; (try subst x); rotate_left; intro hx; rotate_left) | skip)
    | with_reducible apply Keeps.each
    | with_reducible apply Keeps.inc
    | with_reducible apply Keeps.plSet
    | with_reducible apply Keeps.put
    | with_reducible apply Keeps.setConv
    | simp only [Keeps.upd_adc m_adc]

theorem Keeps.pdTick (s : State) (hs : Keeps μ σ s) (m_space : μ .space) (m_ten : μ .ten) (m_adc : μ .adc) (m_pdErrs : μ .pdErrs) :
    Keeps μ σ (State.pdTick s) := by
  unfold State.pdTick
  repeat' first
    | with_reducible assumption
    | intro _
    | with_reducible apply Keeps.ite
    | with_reducible apply Keeps.each
    | with_reducible apply Keeps.pairTick
    | with_reducible apply Keeps.snapConv

theorem Keeps.of_execAdcTimerExpiry (t : Fin 4) (s : State) (hs : Keeps μ σ s) (m_space : μ .space) (m_now : μ .now) (m_campusOff : μ .campusOff) (m_cl : μ .cl) (m_adc : μ .adc) :
    KeepsO μ σ (execAdcTimerExpiry t s) := by
  unfold execAdcTimerExpiry
  repeat' first
    | with_reducible assumption
    | intro _
    | with_reducible apply KeepsO.next
    | with_reducible apply Keeps.ite
    | ((fail_if_no_progress extract_lets +onlyGivenNames x); first | (refine Keeps.bind x ?_ ?_; (try subst x); rotate_left; intro hx; rotate_left) | (refine KeepsO.bind x ?_ ?_; (try subst x); rotate_left; intro hx; rotate_left) | skip)
    | with_reducible apply Keeps.adcTrigger
    | with_reducible apply Keeps.reach
    | simp only [Keeps.upd_adc m_adc]

theorem Keeps.adcStop (s : State) (k : ℕ) (hs : Keeps μ σ s) (m_space : μ .space) (m_adc : μ .adc) :
    Keeps μ σ (State.adcStop s k) := by
  unfold State.adcStop
  repeat' first
    | with_reducible assumption
    | intro _
    | with_reducible apply Keeps.ite
    | ((fail_if_no_progress extract_lets +onlyGivenNames x); first | (refine Keeps.bind x ?_ ?_; (try subst x); rotate_left; intro hx; rotate_left) | skip)
    | with_reducible apply Keeps.setAdcState
    | with_reducible apply Keeps.setConv
    | with_reducible apply Keeps.setWord

theorem Keeps.adcFuncRst (s : State) (k : ℕ) (hs : Keeps μ σ s) (m_space : μ .space) (m_adc : μ .adc) :
    Keeps μ σ (State.adcFuncRst s k) := by
  unfold State.adcFuncRst
  repeat' first
    | with_reducible assumption
    | intro _
    | with_reducible apply Keeps.ite
    | ((fail_if_no_progress extract_lets +onlyGivenNames x); first | (refine Keeps.bind x ?_ ?_; (try subst x); rotate_left; intro hx; rotate_left) | skip)
    | with_reducible apply Keeps.adcStop
    | with_reducible apply Keeps.put
    | with_reducible apply Keeps.setConv
    | with_reducible apply Keeps.setWord

theorem Keeps.adcCtrlWrite (s : State) (w : Who) (k : ℕ) (data : Word) (hs : Keeps μ σ s) (m_space : μ .space) (m_wres : μ .wres) (m_log : μ .log) (m_ten : μ .ten) (m_adc : μ .adc) :
    Keeps μ σ (State.adcCtrlWrite s w k data) := by
  unfold State.adcCtrlWrite
  repeat' first
    | with_reducible assumption
    | intro _
    | with_reducible apply Keeps.ite
    | with_reducible apply Keeps.adcStop
    | with_reducible apply Keeps.cfgWrite

theorem Keeps.adcEntWrite (s : State) (w : Who) (k : ℕ) (a : ℕ) (data : Word) (hs : Keeps μ σ s) (m_space : μ .space) (m_wres : μ .wres) (m_log : μ .log) (m_ten : μ .ten) :
    Keeps μ σ (State.adcEntWrite s w k a data) := by
  unfold State.adcEntWrite
  repeat' first
    | with_reducible assumption
    | intro _
    | with_reducible apply Keeps.ite
    | ((fail_if_no_progress extract_lets +onlyGivenNames x); first | (refine Keeps.bind x ?_ ?_; (try subst x); rotate_left; intro hx; rotate_left) | skip)
    | with_reducible apply Keeps.cfgWrite
    | with_reducible apply Keeps.setWord
    | split
    | simp only [id_eq]

theorem Keeps.adcWrite (s : State) (w : Who) (a : ℕ) (data : Word) (hs : Keeps μ σ s) (m_space : μ .space) (m_wres : μ .wres) (m_log : μ .log) (m_ten : μ .ten) (m_adc : μ .adc) :
    Keeps μ σ (State.adcWrite s w a data) := by
  unfold State.adcWrite
  repeat' first
    | with_reducible assumption
    | intro _
    | with_reducible apply Keeps.ite
    | ((fail_if_no_progress extract_lets +onlyGivenNames x); first | (refine Keeps.bind x ?_ ?_; (try subst x); rotate_left; intro hx; rotate_left) | skip)
    | with_reducible apply Keeps.adcCtrlWrite
    | with_reducible apply Keeps.adcEntWrite
    | with_reducible apply Keeps.adcStartWrite
    | with_reducible apply Keeps.cfgWrite
    | with_reducible apply Keeps.clearWrite
    | with_reducible apply Keeps.dropWrite
    | with_reducible apply Keeps.flagWrite
    | with_reducible apply Keeps.kindWrite
    | with_reducible apply Keeps.refuseWrite
    | simp only [Keeps.upd_adc m_adc]

theorem Keeps.of_execAdcCtrlWrite (p : Path) (k : Fin 4) (data : Word) (s : State) (hs : Keeps μ σ s) (m_space : μ .space) (m_rdata : μ .rdata) (m_wres : μ .wres) (m_banks : μ .banks) (m_log : μ .log) (m_ten : μ .ten) (m_adc : μ .adc) :
    KeepsO μ σ (execAdcCtrlWrite p k data s) := by
  unfold execAdcCtrlWrite
  repeat' first
    | with_reducible assumption
    | intro _
    | with_reducible apply KeepsO.next
    | with_reducible apply Keeps.ite
    | with_reducible apply Keeps.adcWrite
    | with_reducible apply Keeps.byPath

end Sys2Proof.Machine
end

