-- ==== Sys2Proof/Laws/KeepsCampusOps.lean ====
section
/-! SUPPORT. What each operation of Machine/CampusOps.lean keeps: the queue, the clock's direction, the canonical form of the register
space, and every part of the state it does not name (`Keeps`). -/

set_option linter.unusedTactic false
set_option linter.unreachableTactic false
set_option linter.unusedSimpArgs false
set_option linter.unusedVariables false

namespace Sys2Proof.Machine

variable {μ : Part → Prop} {σ : State}

theorem Keeps.setStrait (s : State) (p : ℕ) (x : Strait) (hs : Keeps μ σ s) (m_space : μ .space) (m_isl : μ .isl) :
    Keeps μ σ (State.setStrait s p x) := by
  unfold State.setStrait
  repeat' first
    | with_reducible assumption
    | intro _
    | with_reducible apply Keeps.ite
    | ((fail_if_no_progress extract_lets +onlyGivenNames x); first | (refine Keeps.bind x ?_ ?_; (try subst x); rotate_left; intro hx; rotate_left) | skip)
    | with_reducible apply Keeps.put
    | simp only [Keeps.upd_isl m_isl]

theorem Keeps.setDad (s : State) (p : ℕ) (k : ℕ) (v : ℕ) (hs : Keeps μ σ s) (m_cl : μ .cl) :
    Keeps μ σ (State.setDad s p k v) := by
  unfold State.setDad
  repeat' first
    | with_reducible assumption
    | intro _
    | with_reducible apply Keeps.ite
    | ((fail_if_no_progress extract_lets +onlyGivenNames x); first | (refine Keeps.bind x ?_ ?_; (try subst x); rotate_left; intro hx; rotate_left) | skip)
    | simp only [Keeps.upd_cl m_cl]

theorem Keeps.icmpOut (s : State) (l : List IcmpTx) (hs : Keeps μ σ s) (m_cl : μ .cl) :
    Keeps μ σ (State.icmpOut s l) := by
  unfold State.icmpOut
  repeat' first
    | with_reducible assumption
    | intro _
    | with_reducible apply Keeps.ite
    | ((fail_if_no_progress extract_lets +onlyGivenNames x); first | (refine Keeps.bind x ?_ ?_; (try subst x); rotate_left; intro hx; rotate_left) | skip)
    | with_reducible apply Keeps.each
    | with_reducible apply Keeps.loadAdd
    | simp only [Keeps.upd_cl m_cl]
    | split
    | simp only [id_eq]

theorem Keeps.enqueue (s : State) (ports : List ℕ) (m : OutMsg) (hs : Keeps μ σ s) (m_cl : μ .cl) :
    Keeps μ σ (State.enqueue s ports m) := by
  unfold State.enqueue
  repeat' first
    | with_reducible assumption
    | intro _
    | with_reducible apply Keeps.ite
    | ((fail_if_no_progress extract_lets +onlyGivenNames x); first | (refine Keeps.bind x ?_ ?_; (try subst x); rotate_left; intro hx; rotate_left) | skip)
    | with_reducible apply Keeps.foldl
    | simp only [Keeps.upd_cl m_cl]

theorem Keeps.place (s : State) (m : OutMsg) (hs : Keeps μ σ s) (m_cl : μ .cl) :
    Keeps μ σ (State.place s m) := by
  unfold State.place
  repeat' first
    | with_reducible assumption
    | intro _
    | with_reducible apply Keeps.ite
    | ((fail_if_no_progress extract_lets +onlyGivenNames x); first | (refine Keeps.bind x ?_ ?_; (try subst x); rotate_left; intro hx; rotate_left) | skip)
    | with_reducible apply Keeps.enqueue
    | simp only [Keeps.upd_cl m_cl]
    | split
    | simp only [id_eq]

theorem Keeps.nextMsgId (s : State) (hs : Keeps μ σ s) (m_cl : μ .cl) :
    Keeps μ σ (State.nextMsgId s) := by
  unfold State.nextMsgId
  repeat' first
    | with_reducible assumption
    | intro _
    | with_reducible apply Keeps.ite
    | ((fail_if_no_progress extract_lets +onlyGivenNames x); first | (refine Keeps.bind x ?_ ?_; (try subst x); rotate_left; intro hx; rotate_left) | skip)
    | simp only [Keeps.upd_cl m_cl]
    | split
    | simp only [id_eq]

theorem Keeps.sendOn (s : State) (ports : List ℕ) (typ : ℕ) (dst : ℕ) (tenant : ℕ) (gen : ℕ) (body : List Byte) (lead : ℕ) (hs : Keeps μ σ s) (m_cl : μ .cl) :
    Keeps μ σ (State.sendOn s ports typ dst tenant gen body lead) := by
  unfold State.sendOn
  repeat' first
    | with_reducible assumption
    | intro _
    | with_reducible apply Keeps.ite
    | ((fail_if_no_progress extract_lets +onlyGivenNames x); first | (refine Keeps.bind x ?_ ?_; (try subst x); rotate_left; intro hx; rotate_left) | skip)
    | with_reducible apply Keeps.enqueue
    | with_reducible apply Keeps.nextMsgId
    | split
    | simp only [id_eq]

theorem Keeps.send (s : State) (typ : ℕ) (dst : ℕ) (tenant : ℕ) (gen : ℕ) (body : List Byte) (hs : Keeps μ σ s) (m_cl : μ .cl) :
    Keeps μ σ (State.send s typ dst tenant gen body) := by
  unfold State.send
  repeat' first
    | with_reducible assumption
    | intro _
    | with_reducible apply Keeps.ite
    | ((fail_if_no_progress extract_lets +onlyGivenNames x); first | (refine Keeps.bind x ?_ ?_; (try subst x); rotate_left; intro hx; rotate_left) | skip)
    | with_reducible apply Keeps.nextMsgId
    | with_reducible apply Keeps.place
    | split
    | simp only [id_eq]

theorem Keeps.answer (s : State) (typ : ℕ) (dst : ℕ) (tenant : ℕ) (gen : ℕ) (body : List Byte) (hs : Keeps μ σ s) (m_space : μ .space) (m_cl : μ .cl) :
    Keeps μ σ (State.answer s typ dst tenant gen body) := by
  unfold State.answer
  repeat' first
    | with_reducible assumption
    | intro _
    | with_reducible apply Keeps.ite
    | with_reducible apply Keeps.inc
    | with_reducible apply Keeps.send

theorem Keeps.sendUnsub (s : State) (cpid : ℕ) (tenant : ℕ) (hs : Keeps μ σ s) (m_cl : μ .cl) :
    Keeps μ σ (State.sendUnsub s cpid tenant) := by
  unfold State.sendUnsub
  repeat' first
    | with_reducible assumption
    | intro _
    | with_reducible apply Keeps.ite
    | with_reducible apply Keeps.send

theorem Keeps.subInFree (s : State) (i : ℕ) (hs : Keeps μ σ s) (m_subIn : μ .subIn) (m_cl : μ .cl) :
    Keeps μ σ (State.subInFree s i) := by
  unfold State.subInFree
  repeat' first
    | with_reducible assumption
    | intro _
    | with_reducible apply Keeps.ite
    | ((fail_if_no_progress extract_lets +onlyGivenNames x); first | (refine Keeps.bind x ?_ ?_; (try subst x); rotate_left; intro hx; rotate_left) | skip)
    | with_reducible apply Keeps.sendUnsub
    | simp only [Keeps.upd_subIn m_subIn]
    | split

theorem Keeps.subInTake (s : State) (i : ℕ) (cpid : ℕ) (hs : Keeps μ σ s) (m_subIn : μ .subIn) :
    Keeps μ σ (State.subInTake s i cpid) := by
  unfold State.subInTake
  repeat' first
    | with_reducible assumption
    | intro _
    | with_reducible apply Keeps.ite
    | simp only [Keeps.upd_subIn m_subIn]

theorem Keeps.subOutFreePoint (s : State) (i : ℕ) (hs : Keeps μ σ s) (m_subOut : μ .subOut) :
    Keeps μ σ (State.subOutFreePoint s i) := by
  unfold State.subOutFreePoint
  repeat' first
    | with_reducible assumption
    | intro _
    | with_reducible apply Keeps.ite
    | simp only [Keeps.upd_subOut m_subOut]

end Sys2Proof.Machine
end

