-- ==== Sys2Proof/Laws/KeepsAuditLog.lean ====
section
/-! SUPPORT. What each operation of Machine/AuditLog.lean keeps: the queue, the clock's direction, the canonical form of the register
space, and every part of the state it does not name (`Keeps`). -/

set_option linter.unusedTactic false
set_option linter.unreachableTactic false
set_option linter.unusedSimpArgs false
set_option linter.unusedVariables false

namespace Sys2Proof.Machine

variable {μ : Part → Prop} {σ : State}

theorem Keeps.setBlk (s : State) (b : ℕ) (x : List Byte) (hs : Keeps μ σ s) (m_log : μ .log) :
    Keeps μ σ (State.setBlk s b x) := by
  unfold State.setBlk
  repeat' first
    | with_reducible assumption
    | intro _
    | with_reducible apply Keeps.ite
    | ((fail_if_no_progress extract_lets +onlyGivenNames x); first | (refine Keeps.bind x ?_ ?_; (try subst x); rotate_left; intro hx; rotate_left) | skip)
    | simp only [Keeps.upd_log m_log]

theorem Keeps.epochRead (s : State) (hs : Keeps μ σ s) (m_space : μ .space) (m_cl : μ .cl) :
    Keeps μ σ (State.epochRead s) := by
  unfold State.epochRead
  repeat' first
    | with_reducible assumption
    | intro _
    | with_reducible apply Keeps.ite
    | ((fail_if_no_progress extract_lets +onlyGivenNames x); first | (refine Keeps.bind x ?_ ?_; (try subst x); rotate_left; intro hx; rotate_left) | skip)
    | with_reducible apply Keeps.put
    | simp only [Keeps.upd_cl m_cl]
    | split
    | simp only [id_eq]

theorem Keeps.logLoad (s : State) (hs : Keeps μ σ s) (m_space : μ .space) (m_log : μ .log) (m_cl : μ .cl) :
    Keeps μ σ (State.logLoad s) := by
  unfold State.logLoad
  repeat' first
    | with_reducible assumption
    | intro _
    | with_reducible apply Keeps.ite
    | ((fail_if_no_progress extract_lets +onlyGivenNames x); first | (refine Keeps.bind x ?_ ?_; (try subst x); rotate_left; intro hx; rotate_left) | skip)
    | with_reducible apply Keeps.each
    | with_reducible apply Keeps.epochRead
    | with_reducible apply Keeps.logCut
    | with_reducible apply Keeps.put
    | simp only [Keeps.upd_log m_log]
    | split
    | simp only [id_eq]

theorem Keeps.ringFreed (s : State) (hs : Keeps μ σ s) (m_space : μ .space) (m_log : μ .log) (m_ten : μ .ten) :
    Keeps μ σ (State.ringFreed s) := by
  unfold State.ringFreed
  repeat' first
    | with_reducible assumption
    | intro _
    | with_reducible apply Keeps.ite
    | ((fail_if_no_progress extract_lets +onlyGivenNames x); first | (refine Keeps.bind x ?_ ?_; (try subst x); rotate_left; intro hx; rotate_left) | skip)
    | with_reducible apply Keeps.auditRec
    | with_reducible apply Keeps.put
    | simp only [Keeps.upd_log m_log]
    | split
    | simp only [id_eq]

theorem Keeps.ringDrop (s : State) (n : ℕ) (hs : Keeps μ σ s) (m_space : μ .space) (m_log : μ .log) (m_ten : μ .ten) :
    Keeps μ σ (State.ringDrop s n) := by
  unfold State.ringDrop
  repeat' first
    | with_reducible assumption
    | intro _
    | with_reducible apply Keeps.ite
    | ((fail_if_no_progress extract_lets +onlyGivenNames x); first | (refine Keeps.bind x ?_ ?_; (try subst x); rotate_left; intro hx; rotate_left) | skip)
    | with_reducible apply Keeps.ringFreed
    | simp only [Keeps.upd_log m_log]
    | split
    | simp only [id_eq]

theorem Keeps.ringTrim (s : State) (hs : Keeps μ σ s) (m_space : μ .space) (m_log : μ .log) (m_ten : μ .ten) :
    Keeps μ σ (State.ringTrim s) := by
  unfold State.ringTrim
  repeat' first
    | with_reducible assumption
    | intro _
    | with_reducible apply Keeps.ite
    | ((fail_if_no_progress extract_lets +onlyGivenNames x); first | (refine Keeps.bind x ?_ ?_; (try subst x); rotate_left; intro hx; rotate_left) | skip)
    | with_reducible apply Keeps.ringDrop
    | split
    | simp only [id_eq]

theorem Keeps.setPair (s : State) (lo : Reg) (hi : Reg) (v : ℕ) (hs : Keeps μ σ s) (m_space : μ .space) :
    Keeps μ σ (State.setPair s lo hi v) := by
  unfold State.setPair
  repeat' first
    | with_reducible assumption
    | intro _
    | with_reducible apply Keeps.ite
    | with_reducible apply Keeps.setWord

theorem Keeps.logBoot (s : State) (slot : ℕ) (epoch : ℕ) (aValid : Bool) (hs : Keeps μ σ s) (m_space : μ .space) (m_log : μ .log) (m_ten : μ .ten) :
    Keeps μ σ (State.logBoot s slot epoch aValid) := by
  unfold State.logBoot
  repeat' first
    | with_reducible assumption
    | intro _
    | with_reducible apply Keeps.ite
    | ((fail_if_no_progress extract_lets +onlyGivenNames x); first | (refine Keeps.bind x ?_ ?_; (try subst x); rotate_left; intro hx; rotate_left) | skip)
    | with_reducible apply Keeps.aonSeq
    | with_reducible apply Keeps.auditRec
    | with_reducible apply Keeps.each
    | with_reducible apply Keeps.put
    | simp only [Keeps.upd_log m_log]
    | split
    | simp only [id_eq]

theorem Keeps.logFlush (s : State) (trend : Bool) (hs : Keeps μ σ s) (m_now : μ .now) (m_campusOff : μ .campusOff) (m_log : μ .log) (m_cl : μ .cl) :
    Keeps μ σ (State.logFlush s trend) := by
  unfold State.logFlush
  repeat' first
    | with_reducible assumption
    | intro _
    | with_reducible apply Keeps.ite
    | ((fail_if_no_progress extract_lets +onlyGivenNames x); first | (refine Keeps.bind x ?_ ?_; (try subst x); rotate_left; intro hx; rotate_left) | skip)
    | with_reducible apply Keeps.logDue
    | with_reducible apply Keeps.reach
    | split
    | simp only [id_eq]

theorem Keeps.of_execLogFlushTimeout (trend : Bool) (s : State) (hs : Keeps μ σ s) (m_now : μ .now) (m_campusOff : μ .campusOff) (m_log : μ .log) (m_cl : μ .cl) :
    KeepsO μ σ (execLogFlushTimeout trend s) := by
  unfold execLogFlushTimeout
  repeat' first
    | with_reducible assumption
    | intro _
    | with_reducible apply KeepsO.next
    | with_reducible apply Keeps.ite
    | with_reducible apply Keeps.logFlush

theorem Keeps.blockIssue (s : State) (hs : Keeps μ σ s) (m_log : μ .log) :
    Keeps μ σ (State.blockIssue s) := by
  unfold State.blockIssue
  repeat' first
    | with_reducible assumption
    | intro _
    | with_reducible apply Keeps.ite
    | ((fail_if_no_progress extract_lets +onlyGivenNames x); first | (refine Keeps.bind x ?_ ?_; (try subst x); rotate_left; intro hx; rotate_left) | skip)
    | with_reducible apply Keeps.logCut
    | simp only [Keeps.upd_log m_log]
    | split

theorem Keeps.of_execLogBlockWriteIssue (s : State) (hs : Keeps μ σ s) (m_log : μ .log) :
    KeepsO μ σ (execLogBlockWriteIssue s) := by
  unfold execLogBlockWriteIssue
  repeat' first
    | with_reducible assumption
    | intro _
    | with_reducible apply KeepsO.next
    | with_reducible apply Keeps.ite
    | with_reducible apply Keeps.blockIssue

theorem Keeps.regWrite (s : State) (r : ℕ) (x : List Byte) (hs : Keeps μ σ s) (m_space : μ .space) (m_log : μ .log) :
    Keeps μ σ (State.regWrite s r x) := by
  unfold State.regWrite
  repeat' first
    | with_reducible assumption
    | intro _
    | with_reducible apply Keeps.ite
    | with_reducible apply Keeps.inc
    | with_reducible apply Keeps.put
    | with_reducible apply Keeps.setBlk

theorem Keeps.mirrorAnswer (s : State) (dst : ℕ) (next : ℕ) (status : ℕ) (hs : Keeps μ σ s) (m_space : μ .space) (m_cl : μ .cl) :
    Keeps μ σ (State.mirrorAnswer s dst next status) := by
  unfold State.mirrorAnswer
  repeat' first
    | with_reducible assumption
    | intro _
    | with_reducible apply Keeps.ite
    | with_reducible apply Keeps.answer

theorem Keeps.cycleGo (s : State) (hs : Keeps μ σ s) (m_hb : μ .hb) :
    Keeps μ σ (State.cycleGo s) := by
  unfold State.cycleGo
  repeat' first
    | with_reducible assumption
    | intro _
    | with_reducible apply Keeps.ite
    | ((fail_if_no_progress extract_lets +onlyGivenNames x); first | (refine Keeps.bind x ?_ ?_; (try subst x); rotate_left; intro hx; rotate_left) | skip)
    | simp only [Keeps.upd_hb m_hb]
    | split
    | simp only [id_eq]

theorem Keeps.blockCommit (s : State) (hs : Keeps μ σ s) (m_space : μ .space) (m_log : μ .log) (m_ten : μ .ten) (m_cl : μ .cl) (m_hb : μ .hb) :
    Keeps μ σ (State.blockCommit s) := by
  unfold State.blockCommit
  repeat' first
    | with_reducible assumption
    | intro _
    | with_reducible apply Keeps.ite
    | ((fail_if_no_progress extract_lets +onlyGivenNames x); first | (refine Keeps.bind x ?_ ?_; (try subst x); rotate_left; intro hx; rotate_left) | skip)
    | with_reducible apply Keeps.cycleGo
    | with_reducible apply Keeps.each
    | with_reducible apply Keeps.logCut
    | with_reducible apply Keeps.mirrorAnswer
    | with_reducible apply Keeps.regWrite
    | with_reducible apply Keeps.ringDrop
    | simp only [Keeps.upd_log m_log]
    | split
    | simp only [id_eq]

theorem Keeps.of_execLogBlockCommit (s : State) (hs : Keeps μ σ s) (m_space : μ .space) (m_log : μ .log) (m_ten : μ .ten) (m_cl : μ .cl) (m_hb : μ .hb) :
    KeepsO μ σ (execLogBlockCommit s) := by
  unfold execLogBlockCommit
  repeat' first
    | with_reducible assumption
    | intro _
    | with_reducible apply KeepsO.next
    | with_reducible apply Keeps.ite
    | ((fail_if_no_progress extract_lets +onlyGivenNames x); first | (refine Keeps.bind x ?_ ?_; (try subst x); rotate_left; intro hx; rotate_left) | (refine KeepsO.bind x ?_ ?_; (try subst x); rotate_left; intro hx; rotate_left) | skip)
    | with_reducible apply Keeps.blockCommit
    | split
    | simp only [id_eq]

theorem Keeps.logForget (s : State) (hs : Keeps μ σ s) (m_log : μ .log) :
    Keeps μ σ (State.logForget s) := by
  unfold State.logForget
  repeat' first
    | with_reducible assumption
    | intro _
    | with_reducible apply Keeps.ite
    | ((fail_if_no_progress extract_lets +onlyGivenNames x); first | (refine Keeps.bind x ?_ ?_; (try subst x); rotate_left; intro hx; rotate_left) | skip)
    | simp only [Keeps.upd_log m_log]

theorem Keeps.storeFail (s : State) (hs : Keeps μ σ s) (m_space : μ .space) (m_log : μ .log) (m_ten : μ .ten) :
    Keeps μ σ (State.storeFail s) := by
  unfold State.storeFail
  repeat' first
    | with_reducible assumption
    | intro _
    | with_reducible apply Keeps.ite
    | ((fail_if_no_progress extract_lets +onlyGivenNames x); first | (refine Keeps.bind x ?_ ?_; (try subst x); rotate_left; intro hx; rotate_left) | skip)
    | with_reducible apply Keeps.inc
    | with_reducible apply Keeps.logForget
    | with_reducible apply Keeps.postErr
    | with_reducible apply Keeps.put
    | with_reducible apply Keeps.ringTrim

theorem Keeps.of_execLogCardCommandFail (s : State) (hs : Keeps μ σ s) (m_space : μ .space) (m_log : μ .log) (m_ten : μ .ten) :
    KeepsO μ σ (execLogCardCommandFail s) := by
  unfold execLogCardCommandFail
  repeat' first
    | with_reducible assumption
    | intro _
    | with_reducible apply KeepsO.next
    | with_reducible apply Keeps.ite
    | with_reducible apply Keeps.storeFail

theorem Keeps.storeReadyAt (s : State) (cap : Option ℕ) (card : Option (List (ℕ × List Byte))) (hs : Keeps μ σ s) (m_space : μ .space) (m_log : μ .log) (m_ten : μ .ten) (m_cl : μ .cl) :
    Keeps μ σ (State.storeReadyAt s cap card) := by
  unfold State.storeReadyAt
  repeat' first
    | with_reducible assumption
    | intro _
    | with_reducible apply Keeps.ite
    | ((fail_if_no_progress extract_lets +onlyGivenNames x); first | (refine Keeps.bind x ?_ ?_; (try subst x); rotate_left; intro hx; rotate_left) | skip)
    | with_reducible apply Keeps.logLoad
    | with_reducible apply Keeps.put
    | with_reducible apply Keeps.ringTrim
    | simp only [Keeps.upd_log m_log]
    | split
    | simp only [id_eq]

theorem Keeps.of_execStoreReady (cap : Option ℕ) (card : Option (List (ℕ × List Byte))) (s : State) (hs : Keeps μ σ s) (m_space : μ .space) (m_log : μ .log) (m_ten : μ .ten) (m_cl : μ .cl) :
    KeepsO μ σ (execStoreReady cap card s) := by
  unfold execStoreReady
  repeat' first
    | with_reducible assumption
    | intro _
    | with_reducible apply KeepsO.next
    | with_reducible apply Keeps.ite
    | ((fail_if_no_progress extract_lets +onlyGivenNames x); first | (refine Keeps.bind x ?_ ?_; (try subst x); rotate_left; intro hx; rotate_left) | (refine KeepsO.bind x ?_ ?_; (try subst x); rotate_left; intro hx; rotate_left) | skip)
    | with_reducible apply Keeps.storeReadyAt
    | split
    | simp only [id_eq]

theorem Keeps.formatStart (s : State) (hs : Keeps μ σ s) (m_space : μ .space) (m_log : μ .log) :
    Keeps μ σ (State.formatStart s) := by
  unfold State.formatStart
  repeat' first
    | with_reducible assumption
    | intro _
    | with_reducible apply Keeps.ite
    | ((fail_if_no_progress extract_lets +onlyGivenNames x); first | (refine Keeps.bind x ?_ ?_; (try subst x); rotate_left; intro hx; rotate_left) | skip)
    | with_reducible apply Keeps.logForget
    | with_reducible apply Keeps.put
    | simp only [Keeps.upd_log m_log]
    | split

theorem Keeps.logFormat (s : State) (w : Who) (data : Word) (hs : Keeps μ σ s) (m_space : μ .space) (m_wres : μ .wres) (m_log : μ .log) (m_ten : μ .ten) :
    Keeps μ σ (State.logFormat s w data) := by
  unfold State.logFormat
  repeat' first
    | with_reducible assumption
    | intro _
    | with_reducible apply Keeps.ite
    | ((fail_if_no_progress extract_lets +onlyGivenNames x); first | (refine Keeps.bind x ?_ ?_; (try subst x); rotate_left; intro hx; rotate_left) | skip)
    | with_reducible apply Keeps.auditW
    | with_reducible apply Keeps.formatStart
    | with_reducible apply Keeps.plainW
    | with_reducible apply Keeps.refuseWrite
    | split
    | simp only [id_eq]

theorem Keeps.of_execLogFormat (p : Path) (data : Word) (s : State) (hs : Keeps μ σ s) (m_space : μ .space) (m_rdata : μ .rdata) (m_wres : μ .wres) (m_banks : μ .banks) (m_log : μ .log) (m_ten : μ .ten) :
    KeepsO μ σ (execLogFormat p data s) := by
  unfold execLogFormat
  repeat' first
    | with_reducible assumption
    | intro _
    | with_reducible apply KeepsO.next
    | with_reducible apply Keeps.ite
    | with_reducible apply Keeps.byPath
    | with_reducible apply Keeps.logFormat

theorem Keeps.of_execLogFormatComplete (s : State) (hs : Keeps μ σ s) (m_space : μ .space) (m_log : μ .log) (m_cl : μ .cl) :
    KeepsO μ σ (execLogFormatComplete s) := by
  unfold execLogFormatComplete
  repeat' first
    | with_reducible assumption
    | intro _
    | with_reducible apply KeepsO.next
    | with_reducible apply Keeps.ite
    | ((fail_if_no_progress extract_lets +onlyGivenNames x); first | (refine Keeps.bind x ?_ ?_; (try subst x); rotate_left; intro hx; rotate_left) | (refine KeepsO.bind x ?_ ?_; (try subst x); rotate_left; intro hx; rotate_left) | skip)
    | with_reducible apply Keeps.logLoad
    | split
    | simp only [id_eq]

theorem Keeps.logRdCmd (s : State) (w : Who) (data : Word) (hs : Keeps μ σ s) (m_space : μ .space) (m_wres : μ .wres) (m_log : μ .log) (m_ten : μ .ten) :
    Keeps μ σ (State.logRdCmd s w data) := by
  unfold State.logRdCmd
  repeat' first
    | with_reducible assumption
    | intro _
    | with_reducible apply Keeps.ite
    | ((fail_if_no_progress extract_lets +onlyGivenNames x); first | (refine Keeps.bind x ?_ ?_; (try subst x); rotate_left; intro hx; rotate_left) | skip)
    | with_reducible apply Keeps.plainW
    | with_reducible apply Keeps.put
    | with_reducible apply Keeps.refuseWrite
    | simp only [Keeps.upd_log m_log]
    | split
    | simp only [id_eq]

theorem Keeps.of_execLogBlockRead (p : Path) (s : State) (hs : Keeps μ σ s) (m_space : μ .space) (m_rdata : μ .rdata) (m_wres : μ .wres) (m_banks : μ .banks) (m_log : μ .log) (m_ten : μ .ten) :
    KeepsO μ σ (execLogBlockRead p s) := by
  unfold execLogBlockRead
  repeat' first
    | with_reducible assumption
    | intro _
    | with_reducible apply KeepsO.next
    | with_reducible apply Keeps.ite
    | with_reducible apply Keeps.byPath
    | with_reducible apply Keeps.logRdCmd

theorem Keeps.of_execLogBlockWrite (p : Path) (s : State) (hs : Keeps μ σ s) (m_space : μ .space) (m_rdata : μ .rdata) (m_wres : μ .wres) (m_banks : μ .banks) (m_log : μ .log) (m_ten : μ .ten) :
    KeepsO μ σ (execLogBlockWrite p s) := by
  unfold execLogBlockWrite
  repeat' first
    | with_reducible assumption
    | intro _
    | with_reducible apply KeepsO.next
    | with_reducible apply Keeps.ite
    | with_reducible apply Keeps.byPath
    | with_reducible apply Keeps.logRdCmd

theorem Keeps.logRdDone (s : State) (ok : Bool) (hs : Keeps μ σ s) (m_space : μ .space) (m_log : μ .log) (m_ten : μ .ten) :
    Keeps μ σ (State.logRdDone s ok) := by
  unfold State.logRdDone
  repeat' first
    | with_reducible assumption
    | intro _
    | with_reducible apply Keeps.ite
    | ((fail_if_no_progress extract_lets +onlyGivenNames x); first | (refine Keeps.bind x ?_ ?_; (try subst x); rotate_left; intro hx; rotate_left) | skip)
    | with_reducible apply Keeps.each
    | with_reducible apply Keeps.put
    | with_reducible apply Keeps.setBlk
    | with_reducible apply Keeps.setWord
    | with_reducible apply Keeps.storeFail
    | simp only [Keeps.upd_log m_log]
    | split

theorem Keeps.of_execLogRdComplete (ok : Bool) (s : State) (hs : Keeps μ σ s) (m_space : μ .space) (m_log : μ .log) (m_ten : μ .ten) :
    KeepsO μ σ (execLogRdComplete ok s) := by
  unfold execLogRdComplete
  repeat' first
    | with_reducible assumption
    | intro _
    | with_reducible apply KeepsO.next
    | with_reducible apply Keeps.ite
    | with_reducible apply Keeps.logRdDone

theorem Keeps.setMir (s : State) (x : ℕ) (hs : Keeps μ σ s) (m_space : μ .space) :
    Keeps μ σ (State.setMir s x) := by
  unfold State.setMir
  repeat' first
    | with_reducible assumption
    | intro _
    | with_reducible apply Keeps.ite
    | with_reducible apply Keeps.put

theorem Keeps.mirProbing (s : State) (t : ℕ) (hs : Keeps μ σ s) (m_space : μ .space) (m_log : μ .log) :
    Keeps μ σ (State.mirProbing s t) := by
  unfold State.mirProbing
  repeat' first
    | with_reducible assumption
    | intro _
    | with_reducible apply Keeps.ite
    | ((fail_if_no_progress extract_lets +onlyGivenNames x); first | (refine Keeps.bind x ?_ ?_; (try subst x); rotate_left; intro hx; rotate_left) | skip)
    | with_reducible apply Keeps.put
    | with_reducible apply Keeps.setMir
    | simp only [Keeps.upd_log m_log]

theorem Keeps.mirrorCheck (s : State) (restart : Bool) (hs : Keeps μ σ s) (m_space : μ .space) (m_log : μ .log) :
    Keeps μ σ (State.mirrorCheck s restart) := by
  unfold State.mirrorCheck
  repeat' first
    | with_reducible assumption
    | intro _
    | with_reducible apply Keeps.ite
    | ((fail_if_no_progress extract_lets +onlyGivenNames x); first | (refine Keeps.bind x ?_ ?_; (try subst x); rotate_left; intro hx; rotate_left) | skip)
    | with_reducible apply Keeps.mirProbing
    | with_reducible apply Keeps.setMir
    | simp only [Keeps.upd_log m_log]
    | split

theorem Keeps.mirrorOut (s : State) (first : ℕ) (recs : List (List Byte)) (resync : Bool) (hs : Keeps μ σ s) (m_cl : μ .cl) :
    Keeps μ σ (State.mirrorOut s first recs resync) := by
  unfold State.mirrorOut
  repeat' first
    | with_reducible assumption
    | intro _
    | with_reducible apply Keeps.ite
    | with_reducible apply Keeps.send

theorem Keeps.sendProbe (s : State) (hs : Keeps μ σ s) (m_log : μ .log) (m_cl : μ .cl) :
    Keeps μ σ (State.sendProbe s) := by
  unfold State.sendProbe
  repeat' first
    | with_reducible assumption
    | intro _
    | with_reducible apply Keeps.ite
    | ((fail_if_no_progress extract_lets +onlyGivenNames x); first | (refine Keeps.bind x ?_ ?_; (try subst x); rotate_left; intro hx; rotate_left) | skip)
    | with_reducible apply Keeps.mirrorOut
    | simp only [Keeps.upd_log m_log]

theorem Keeps.of_execMirrorProbe (s : State) (hs : Keeps μ σ s) (m_log : μ .log) (m_cl : μ .cl) :
    KeepsO μ σ (execMirrorProbe s) := by
  unfold execMirrorProbe
  repeat' first
    | with_reducible assumption
    | intro _
    | with_reducible apply KeepsO.next
    | with_reducible apply Keeps.ite
    | with_reducible apply Keeps.sendProbe

theorem Keeps.of_execMirrorProbeRepeat (s : State) (hs : Keeps μ σ s) (m_now : μ .now) (m_campusOff : μ .campusOff) (m_log : μ .log) (m_cl : μ .cl) :
    KeepsO μ σ (execMirrorProbeRepeat s) := by
  unfold execMirrorProbeRepeat
  repeat' first
    | with_reducible assumption
    | intro _
    | with_reducible apply KeepsO.next
    | with_reducible apply Keeps.ite
    | with_reducible apply Keeps.reach
    | with_reducible apply Keeps.sendProbe

theorem Keeps.mirrorSkip (s : State) (hs : Keeps μ σ s) (m_space : μ .space) (m_log : μ .log) (m_ten : μ .ten) :
    Keeps μ σ (State.mirrorSkip s) := by
  unfold State.mirrorSkip
  repeat' first
    | with_reducible assumption
    | intro _
    | with_reducible apply Keeps.ite
    | ((fail_if_no_progress extract_lets +onlyGivenNames x); first | (refine Keeps.bind x ?_ ?_; (try subst x); rotate_left; intro hx; rotate_left) | skip)
    | with_reducible apply Keeps.auditRec
    | with_reducible apply Keeps.inc
    | simp only [Keeps.upd_log m_log]
    | split
    | simp only [id_eq]

theorem Keeps.mirrorSend (s : State) (hs : Keeps μ σ s) (m_space : μ .space) (m_log : μ .log) (m_ten : μ .ten) (m_cl : μ .cl) :
    Keeps μ σ (State.mirrorSend s) := by
  unfold State.mirrorSend
  repeat' first
    | with_reducible assumption
    | intro _
    | with_reducible apply Keeps.ite
    | ((fail_if_no_progress extract_lets +onlyGivenNames x); first | (refine Keeps.bind x ?_ ?_; (try subst x); rotate_left; intro hx; rotate_left) | skip)
    | with_reducible apply Keeps.mirrorOut
    | with_reducible apply Keeps.mirrorSkip
    | simp only [Keeps.upd_log m_log]
    | split
    | simp only [id_eq]

theorem Keeps.of_execMirrorSend (s : State) (hs : Keeps μ σ s) (m_space : μ .space) (m_log : μ .log) (m_ten : μ .ten) (m_cl : μ .cl) :
    KeepsO μ σ (execMirrorSend s) := by
  unfold execMirrorSend
  repeat' first
    | with_reducible assumption
    | intro _
    | with_reducible apply KeepsO.next
    | with_reducible apply Keeps.ite
    | ((fail_if_no_progress extract_lets +onlyGivenNames x); first | (refine Keeps.bind x ?_ ?_; (try subst x); rotate_left; intro hx; rotate_left) | (refine KeepsO.bind x ?_ ?_; (try subst x); rotate_left; intro hx; rotate_left) | skip)
    | with_reducible apply Keeps.mirrorSend
    | split
    | simp only [id_eq]

theorem Keeps.of_execMirrorResendTimeout (s : State) (hs : Keeps μ σ s) (m_space : μ .space) (m_now : μ .now) (m_campusOff : μ .campusOff) (m_log : μ .log) (m_cl : μ .cl) :
    KeepsO μ σ (execMirrorResendTimeout s) := by
  unfold execMirrorResendTimeout
  repeat' first
    | with_reducible assumption
    | intro _
    | with_reducible apply KeepsO.next
    | with_reducible apply Keeps.ite
    | ((fail_if_no_progress extract_lets +onlyGivenNames x); first | (refine Keeps.bind x ?_ ?_; (try subst x); rotate_left; intro hx; rotate_left) | (refine KeepsO.bind x ?_ ?_; (try subst x); rotate_left; intro hx; rotate_left) | skip)
    | with_reducible apply Keeps.inc
    | with_reducible apply Keeps.reach
    | simp only [Keeps.upd_log m_log]

theorem Keeps.setMirrored (s : State) (v : ℕ) (hs : Keeps μ σ s) (m_space : μ .space) (m_log : μ .log) (m_ten : μ .ten) :
    Keeps μ σ (State.setMirrored s v) := by
  unfold State.setMirrored
  repeat' first
    | with_reducible assumption
    | intro _
    | with_reducible apply Keeps.ite
    | ((fail_if_no_progress extract_lets +onlyGivenNames x); first | (refine Keeps.bind x ?_ ?_; (try subst x); rotate_left; intro hx; rotate_left) | skip)
    | with_reducible apply Keeps.ringTrim
    | with_reducible apply Keeps.setPair
    | simp only [Keeps.upd_log m_log]
    | split
    | simp only [id_eq]

theorem Keeps.mirrorAckRx (s : State) (m : Msg) (hs : Keeps μ σ s) (m_space : μ .space) (m_log : μ .log) (m_ten : μ .ten) :
    Keeps μ σ (State.mirrorAckRx s m) := by
  unfold State.mirrorAckRx
  repeat' first
    | with_reducible assumption
    | intro _
    | with_reducible apply Keeps.ite
    | ((fail_if_no_progress extract_lets +onlyGivenNames x); first | (refine Keeps.bind x ?_ ?_; (try subst x); rotate_left; intro hx; rotate_left) | skip)
    | with_reducible apply Keeps.setMir
    | with_reducible apply Keeps.setMirrored
    | simp only [Keeps.upd_log m_log]
    | split
    | simp only [id_eq]

theorem Keeps.mirrorLater (s : State) (src : ℕ) (hs : Keeps μ σ s) (m_space : μ .space) (m_log : μ .log) (m_cl : μ .cl) :
    Keeps μ σ (State.mirrorLater s src) := by
  unfold State.mirrorLater
  repeat' first
    | with_reducible assumption
    | intro _
    | with_reducible apply Keeps.ite
    | ((fail_if_no_progress extract_lets +onlyGivenNames x); first | (refine Keeps.bind x ?_ ?_; (try subst x); rotate_left; intro hx; rotate_left) | skip)
    | with_reducible apply Keeps.mirrorAnswer
    | simp only [Keeps.upd_log m_log]
    | split
    | simp only [id_eq]

theorem Keeps.mirrorRx (s : State) (m : Msg) (hs : Keeps μ σ s) (m_space : μ .space) (m_log : μ .log) (m_cl : μ .cl) :
    Keeps μ σ (State.mirrorRx s m) := by
  unfold State.mirrorRx
  repeat' first
    | with_reducible assumption
    | intro _
    | with_reducible apply Keeps.ite
    | ((fail_if_no_progress extract_lets +onlyGivenNames x); first | (refine Keeps.bind x ?_ ?_; (try subst x); rotate_left; intro hx; rotate_left) | skip)
    | with_reducible apply Keeps.logDue
    | with_reducible apply Keeps.mirrorAnswer
    | with_reducible apply Keeps.mirrorLater
    | split
    | simp only [id_eq]

theorem Keeps.logFuncRst (s : State) (cap : Option ℕ) (card : Option (List (ℕ × List Byte))) (hs : Keeps μ σ s) (m_space : μ .space) (m_log : μ .log) (m_ten : μ .ten) (m_cl : μ .cl) :
    Keeps μ σ (State.logFuncRst s cap card) := by
  unfold State.logFuncRst
  repeat' first
    | with_reducible assumption
    | intro _
    | with_reducible apply Keeps.ite
    | ((fail_if_no_progress extract_lets +onlyGivenNames x); first | (refine Keeps.bind x ?_ ?_; (try subst x); rotate_left; intro hx; rotate_left) | skip)
    | with_reducible apply Keeps.logForget
    | with_reducible apply Keeps.mirrorCheck
    | with_reducible apply Keeps.put
    | with_reducible apply Keeps.ringTrim
    | with_reducible apply Keeps.setWord
    | with_reducible apply Keeps.storeReadyAt
    | simp only [Keeps.upd_log m_log]
    | split
    | simp only [id_eq]

theorem Keeps.logWrite (s : State) (w : Who) (a : ℕ) (data : Word) (hs : Keeps μ σ s) (m_space : μ .space) (m_wres : μ .wres) (m_log : μ .log) (m_ten : μ .ten) :
    Keeps μ σ (State.logWrite s w a data) := by
  unfold State.logWrite
  repeat' first
    | with_reducible assumption
    | intro _
    | with_reducible apply Keeps.ite
    | with_reducible apply Keeps.cfgWrite
    | with_reducible apply Keeps.kindWrite
    | with_reducible apply Keeps.logFormat
    | with_reducible apply Keeps.logRdCmd
    | with_reducible apply Keeps.mirrorCheck
    | with_reducible apply Keeps.plainW
    | with_reducible apply Keeps.put
    | with_reducible apply Keeps.refuseWrite
    | with_reducible apply Keeps.setWord

end Sys2Proof.Machine
end

