-- ==== Sys2Proof/Laws/KeepsPoints.lean ====
section
/-! SUPPORT. What each operation of Machine/Points.lean keeps: the queue, the clock's direction, the canonical form of the register
space, and every part of the state it does not name (`Keeps`). -/

set_option linter.unusedTactic false
set_option linter.unreachableTactic false
set_option linter.unusedSimpArgs false
set_option linter.unusedVariables false

namespace Sys2Proof.Machine

variable {μ : Part → Prop} {σ : State}

theorem Keeps.ptValueWrite (s : State) (w : Who) (i : ℕ) (v : Word) (ecc : Ecc) (hs : Keeps μ σ s) (m_space : μ .space) (m_free : μ .free) (m_wres : μ .wres) (m_log : μ .log) (m_ten : μ .ten) (m_broken : μ .broken) (m_safe : μ .safe) (m_cmds : μ .cmds) (m_cd : μ .cd) (m_fwd : μ .fwd) (m_sk : μ .sk) :
    Keeps μ σ (State.ptValueWrite s w i v ecc) := by
  unfold State.ptValueWrite
  repeat' first
    | with_reducible assumption
    | intro _
    | with_reducible apply Keeps.ite
    | with_reducible apply Keeps.ptEcc
    | with_reducible apply Keeps.ptWrite

theorem Keeps.of_execPointValueWrite (p : Path) (i : ℕ) (v : Word) (ecc : Ecc) (s : State) (hs : Keeps μ σ s) (m_space : μ .space) (m_free : μ .free) (m_rdata : μ .rdata) (m_wres : μ .wres) (m_banks : μ .banks) (m_log : μ .log) (m_ten : μ .ten) (m_broken : μ .broken) (m_safe : μ .safe) (m_cmds : μ .cmds) (m_cd : μ .cd) (m_fwd : μ .fwd) (m_sk : μ .sk) :
    KeepsO μ σ (execPointValueWrite p i v ecc s) := by
  unfold execPointValueWrite
  repeat' first
    | with_reducible assumption
    | intro _
    | with_reducible apply KeepsO.next
    | with_reducible apply Keeps.ite
    | with_reducible apply Keeps.byPath
    | with_reducible apply Keeps.ptValueWrite

theorem Keeps.of_execPointSourceWrite (i : ℕ) (kind : ℕ) (ref : ℕ) (v : Word) (good : Bool) (remote : Option (ℕ × ℕ × ℕ)) (task : Option ℕ) (ecc : Ecc) (s : State) (hs : Keeps μ σ s) (m_space : μ .space) (m_free : μ .free) (m_wres : μ .wres) (m_log : μ .log) (m_ten : μ .ten) (m_broken : μ .broken) (m_safe : μ .safe) (m_cmds : μ .cmds) (m_cd : μ .cd) (m_fwd : μ .fwd) (m_sk : μ .sk) :
    KeepsO μ σ (execPointSourceWrite i kind ref v good remote task ecc s) := by
  unfold execPointSourceWrite
  repeat' first
    | with_reducible assumption
    | intro _
    | with_reducible apply KeepsO.next
    | with_reducible apply Keeps.ite
    | with_reducible apply Keeps.ptEcc
    | with_reducible apply Keeps.ptSource

theorem Keeps.ptRelWrite (s : State) (w : Who) (data : Word) (hs : Keeps μ σ s) (m_space : μ .space) (m_free : μ .free) (m_wres : μ .wres) (m_log : μ .log) (m_ten : μ .ten) (m_broken : μ .broken) (m_safe : μ .safe) (m_cmds : μ .cmds) (m_cd : μ .cd) (m_fwd : μ .fwd) (m_sk : μ .sk) :
    Keeps μ σ (State.ptRelWrite s w data) := by
  unfold State.ptRelWrite
  repeat' first
    | with_reducible assumption
    | intro _
    | with_reducible apply Keeps.ite
    | ((fail_if_no_progress extract_lets +onlyGivenNames x); first | (refine Keeps.bind x ?_ ?_; (try subst x); rotate_left; intro hx; rotate_left) | skip)
    | with_reducible apply Keeps.ptWrite
    | split
    | simp only [id_eq]

theorem Keeps.of_execPointRelinquish (p : Path) (data : Word) (s : State) (hs : Keeps μ σ s) (m_space : μ .space) (m_free : μ .free) (m_rdata : μ .rdata) (m_wres : μ .wres) (m_banks : μ .banks) (m_log : μ .log) (m_ten : μ .ten) (m_broken : μ .broken) (m_safe : μ .safe) (m_cmds : μ .cmds) (m_cd : μ .cd) (m_fwd : μ .fwd) (m_sk : μ .sk) :
    KeepsO μ σ (execPointRelinquish p data s) := by
  unfold execPointRelinquish
  repeat' first
    | with_reducible assumption
    | intro _
    | with_reducible apply KeepsO.next
    | with_reducible apply Keeps.ite
    | ((fail_if_no_progress extract_lets +onlyGivenNames x); first | (refine Keeps.bind x ?_ ?_; (try subst x); rotate_left; intro hx; rotate_left) | (refine KeepsO.bind x ?_ ?_; (try subst x); rotate_left; intro hx; rotate_left) | skip)
    | with_reducible apply Keeps.byPath
    | with_reducible apply Keeps.ptRelWrite
    | split
    | simp only [id_eq]

theorem Keeps.ptMend (s : State) (i : ℕ) (word : ℕ) (hs : Keeps μ σ s) (m_broken : μ .broken) :
    Keeps μ σ (State.ptMend s i word) := by
  unfold State.ptMend
  repeat' first
    | with_reducible assumption
    | intro _
    | with_reducible apply Keeps.ite
    | ((fail_if_no_progress extract_lets +onlyGivenNames x); first | (refine Keeps.bind x ?_ ?_; (try subst x); rotate_left; intro hx; rotate_left) | skip)
    | with_reducible apply Keeps.setHealth
    | split
    | simp only [id_eq]

theorem Keeps.ptConfigWrite (s : State) (w : Who) (i : ℕ) (data : Word) (hs : Keeps μ σ s) (m_space : μ .space) (m_wres : μ .wres) (m_log : μ .log) (m_ten : μ .ten) (m_broken : μ .broken) :
    Keeps μ σ (State.ptConfigWrite s w i data) := by
  unfold State.ptConfigWrite
  repeat' first
    | with_reducible assumption
    | intro _
    | with_reducible apply Keeps.ite
    | with_reducible apply Keeps.cfgWrite
    | with_reducible apply Keeps.ptMend
    | with_reducible apply Keeps.refuseWrite

theorem Keeps.of_execPointConfigWrite (p : Path) (i : ℕ) (data : Word) (s : State) (hs : Keeps μ σ s) (m_space : μ .space) (m_rdata : μ .rdata) (m_wres : μ .wres) (m_banks : μ .banks) (m_log : μ .log) (m_ten : μ .ten) (m_broken : μ .broken) :
    KeepsO μ σ (execPointConfigWrite p i data s) := by
  unfold execPointConfigWrite
  repeat' first
    | with_reducible assumption
    | intro _
    | with_reducible apply KeepsO.next
    | with_reducible apply Keeps.ite
    | with_reducible apply Keeps.byPath
    | with_reducible apply Keeps.ptConfigWrite

theorem Keeps.ptBindAfter (s : State) (i : ℕ) (old : Word) (new : Word) (hs : Keeps μ σ s) (m_space : μ .space) (m_broken : μ .broken) (m_fwd : μ .fwd) (m_subIn : μ .subIn) (m_cl : μ .cl) :
    Keeps μ σ (State.ptBindAfter s i old new) := by
  unfold State.ptBindAfter
  repeat' first
    | with_reducible assumption
    | intro _
    | with_reducible apply Keeps.ite
    | ((fail_if_no_progress extract_lets +onlyGivenNames x); first | (refine Keeps.bind x ?_ ?_; (try subst x); rotate_left; intro hx; rotate_left) | skip)
    | with_reducible apply Keeps.forward
    | with_reducible apply Keeps.ptMend
    | with_reducible apply Keeps.ptSet
    | with_reducible apply Keeps.subInFree
    | with_reducible apply Keeps.subInTake

theorem Keeps.ptBindWrite (s : State) (w : Who) (i : ℕ) (data : Word) (hs : Keeps μ σ s) (m_space : μ .space) (m_wres : μ .wres) (m_log : μ .log) (m_ten : μ .ten) (m_broken : μ .broken) (m_fwd : μ .fwd) (m_subIn : μ .subIn) (m_cl : μ .cl) :
    Keeps μ σ (State.ptBindWrite s w i data) := by
  unfold State.ptBindWrite
  repeat' first
    | with_reducible assumption
    | intro _
    | with_reducible apply Keeps.ite
    | with_reducible apply Keeps.cfgWrite
    | with_reducible apply Keeps.ptBindAfter
    | with_reducible apply Keeps.refuseWrite

theorem Keeps.of_execPointBindWrite (p : Path) (i : ℕ) (data : Word) (s : State) (hs : Keeps μ σ s) (m_space : μ .space) (m_rdata : μ .rdata) (m_wres : μ .wres) (m_banks : μ .banks) (m_log : μ .log) (m_ten : μ .ten) (m_broken : μ .broken) (m_fwd : μ .fwd) (m_subIn : μ .subIn) (m_cl : μ .cl) :
    KeepsO μ σ (execPointBindWrite p i data s) := by
  unfold execPointBindWrite
  repeat' first
    | with_reducible assumption
    | intro _
    | with_reducible apply KeepsO.next
    | with_reducible apply Keeps.ite
    | with_reducible apply Keeps.byPath
    | with_reducible apply Keeps.ptBindWrite

theorem Keeps.ptValueRead (s : State) (w : Who) (i : ℕ) (ecc : Ecc) (hs : Keeps μ σ s) (m_space : μ .space) (m_free : μ .free) (m_rdata : μ .rdata) (m_banks : μ .banks) (m_ten : μ .ten) (m_broken : μ .broken) (m_fwd : μ .fwd) :
    Keeps μ σ (State.ptValueRead s w i ecc) := by
  unfold State.ptValueRead
  repeat' first
    | with_reducible assumption
    | intro _
    | with_reducible apply Keeps.ite
    | ((fail_if_no_progress extract_lets +onlyGivenNames x); first | (refine Keeps.bind x ?_ ?_; (try subst x); rotate_left; intro hx; rotate_left) | skip)
    | with_reducible apply Keeps.ptEcc
    | with_reducible apply Keeps.setBank
    | simp only [Keeps.upd_rdata m_rdata]

theorem Keeps.of_execPointValueRead (p : Path) (i : ℕ) (ecc : Ecc) (s : State) (hs : Keeps μ σ s) (m_space : μ .space) (m_free : μ .free) (m_rdata : μ .rdata) (m_wres : μ .wres) (m_banks : μ .banks) (m_ten : μ .ten) (m_broken : μ .broken) (m_fwd : μ .fwd) :
    KeepsO μ σ (execPointValueRead p i ecc s) := by
  unfold execPointValueRead
  repeat' first
    | with_reducible assumption
    | intro _
    | with_reducible apply KeepsO.next
    | with_reducible apply Keeps.ite
    | with_reducible apply Keeps.byPath
    | with_reducible apply Keeps.ptValueRead

theorem Keeps.ageTick (s : State) (i : ℕ) (hs : Keeps μ σ s) (m_space : μ .space) (m_fwd : μ .fwd) :
    Keeps μ σ (State.ageTick s i) := by
  unfold State.ageTick
  repeat' first
    | with_reducible assumption
    | intro _
    | with_reducible apply Keeps.ite
    | with_reducible apply Keeps.forward
    | with_reducible apply Keeps.inc
    | with_reducible apply Keeps.put

theorem Keeps.zoneTick (s : State) (z : ℕ) (hs : Keeps μ σ s) (m_space : μ .space) (m_free : μ .free) (m_ten : μ .ten) (m_zoneEv : μ .zoneEv) :
    Keeps μ σ (State.zoneTick s z) := by
  unfold State.zoneTick
  repeat' first
    | with_reducible assumption
    | intro _
    | with_reducible apply Keeps.ite
    | ((fail_if_no_progress extract_lets +onlyGivenNames x); first | (refine Keeps.bind x ?_ ?_; (try subst x); rotate_left; intro hx; rotate_left) | skip)
    | with_reducible apply Keeps.fresh
    | with_reducible apply Keeps.postEvt2
    | simp only [Keeps.upd_zoneEv m_zoneEv]

theorem Keeps.setPub (s : State) (i : ℕ) (x : PubState) (hs : Keeps μ σ s) (m_pub : μ .pub) :
    Keeps μ σ (State.setPub s i x) := by
  unfold State.setPub
  repeat' first
    | with_reducible assumption
    | intro _
    | with_reducible apply Keeps.ite
    | simp only [Keeps.upd_pub m_pub]

theorem Keeps.pubPlace (s : State) (i : ℕ) (hs : Keeps μ σ s) (m_space : μ .space) (m_subOut : μ .subOut) :
    Keeps μ σ (State.pubPlace s i) := by
  unfold State.pubPlace
  repeat' first
    | with_reducible assumption
    | intro _
    | with_reducible apply Keeps.ite
    | ((fail_if_no_progress extract_lets +onlyGivenNames x); first | (refine Keeps.bind x ?_ ?_; (try subst x); rotate_left; intro hx; rotate_left) | skip)
    | with_reducible apply Keeps.inc
    | simp only [Keeps.upd_subOut m_subOut]

theorem Keeps.pubEval (s : State) (i : ℕ) (hs : Keeps μ σ s) (m_space : μ .space) (m_pub : μ .pub) (m_subOut : μ .subOut) :
    Keeps μ σ (State.pubEval s i) := by
  unfold State.pubEval
  repeat' first
    | with_reducible assumption
    | intro _
    | with_reducible apply Keeps.ite
    | with_reducible apply Keeps.pubPlace
    | with_reducible apply Keeps.setPub

theorem Keeps.trendTick (s : State) (hs : Keeps μ σ s) (m_space : μ .space) (m_log : μ .log) (m_ten : μ .ten) :
    Keeps μ σ (State.trendTick s) := by
  unfold State.trendTick
  repeat' first
    | with_reducible assumption
    | intro _
    | with_reducible apply Keeps.ite
    | ((fail_if_no_progress extract_lets +onlyGivenNames x); first | (refine Keeps.bind x ?_ ?_; (try subst x); rotate_left; intro hx; rotate_left) | skip)
    | with_reducible apply Keeps.each
    | with_reducible apply Keeps.trendSample
    | split
    | simp only [id_eq]

theorem Keeps.ptUpset (s : State) (i : ℕ) (e : Ecc) (hs : Keeps μ σ s) (m_broken : μ .broken) :
    Keeps μ σ (State.ptUpset s i e) := by
  unfold State.ptUpset
  repeat' first
    | with_reducible assumption
    | intro _
    | with_reducible apply Keeps.ite
    | ((fail_if_no_progress extract_lets +onlyGivenNames x); first | (refine Keeps.bind x ?_ ?_; (try subst x); rotate_left; intro hx; rotate_left) | skip)
    | with_reducible apply Keeps.setHealth
    | split
    | simp only [id_eq]

theorem Keeps.pointTick (s : State) (upsets : List (ℕ × Ecc)) (hs : Keeps μ σ s) (m_space : μ .space) (m_free : μ .free) (m_log : μ .log) (m_ten : μ .ten) (m_broken : μ .broken) (m_pub : μ .pub) (m_zoneEv : μ .zoneEv) (m_fwd : μ .fwd) (m_subOut : μ .subOut) :
    Keeps μ σ (State.pointTick s upsets) := by
  unfold State.pointTick
  repeat' first
    | with_reducible assumption
    | intro _
    | with_reducible apply Keeps.ite
    | ((fail_if_no_progress extract_lets +onlyGivenNames x); first | (refine Keeps.bind x ?_ ?_; (try subst x); rotate_left; intro hx; rotate_left) | skip)
    | with_reducible apply Keeps.ageTick
    | with_reducible apply Keeps.each
    | with_reducible apply Keeps.ptFind
    | with_reducible apply Keeps.ptUpset
    | with_reducible apply Keeps.pubEval
    | with_reducible apply Keeps.trendTick
    | with_reducible apply Keeps.zoneTick
    | simp only [Keeps.upd_log m_log]
    | split
    | simp only [id_eq]

theorem Keeps.of_execPointAgeTick (upsets : List (ℕ × Ecc)) (s : State) (hs : Keeps μ σ s) (m_space : μ .space) (m_free : μ .free) (m_log : μ .log) (m_ten : μ .ten) (m_broken : μ .broken) (m_pub : μ .pub) (m_zoneEv : μ .zoneEv) (m_fwd : μ .fwd) (m_subOut : μ .subOut) :
    KeepsO μ σ (execPointAgeTick upsets s) := by
  unfold execPointAgeTick
  repeat' first
    | with_reducible assumption
    | intro _
    | with_reducible apply KeepsO.next
    | with_reducible apply Keeps.ite
    | ((fail_if_no_progress extract_lets +onlyGivenNames x); first | (refine Keeps.bind x ?_ ?_; (try subst x); rotate_left; intro hx; rotate_left) | (refine KeepsO.bind x ?_ ?_; (try subst x); rotate_left; intro hx; rotate_left) | skip)
    | with_reducible apply Keeps.pointTick
    | split
    | simp only [id_eq]

theorem Keeps.profileAfter (s : State) (n : ℕ) (k : ℕ) (x : Word) (hs : Keeps μ σ s) (m_subOut : μ .subOut) (m_cl : μ .cl) :
    Keeps μ σ (State.profileAfter s n k x) := by
  unfold State.profileAfter
  repeat' first
    | with_reducible assumption
    | intro _
    | with_reducible apply Keeps.ite
    | ((fail_if_no_progress extract_lets +onlyGivenNames x); first | (refine Keeps.bind x ?_ ?_; (try subst x); rotate_left; intro hx; rotate_left) | skip)
    | simp only [Keeps.upd_subOut_cl m_subOut m_cl]
    | split
    | simp only [id_eq]

theorem Keeps.profileWrite (s : State) (w : Who) (n : ℕ) (k : ℕ) (data : Word) (hs : Keeps μ σ s) (m_space : μ .space) (m_wres : μ .wres) (m_log : μ .log) (m_ten : μ .ten) (m_subOut : μ .subOut) (m_cl : μ .cl) :
    Keeps μ σ (State.profileWrite s w n k data) := by
  unfold State.profileWrite
  repeat' first
    | with_reducible assumption
    | intro _
    | with_reducible apply Keeps.ite
    | ((fail_if_no_progress extract_lets +onlyGivenNames x); first | (refine Keeps.bind x ?_ ?_; (try subst x); rotate_left; intro hx; rotate_left) | skip)
    | with_reducible apply Keeps.cfgWrite
    | with_reducible apply Keeps.profileAfter
    | with_reducible apply Keeps.refuseWrite
    | split
    | simp only [id_eq]

theorem Keeps.of_execProfileWrite (p : Path) (n : ℕ) (k : ℕ) (data : Word) (s : State) (hs : Keeps μ σ s) (m_space : μ .space) (m_rdata : μ .rdata) (m_wres : μ .wres) (m_banks : μ .banks) (m_log : μ .log) (m_ten : μ .ten) (m_subOut : μ .subOut) (m_cl : μ .cl) :
    KeepsO μ σ (execProfileWrite p n k data s) := by
  unfold execProfileWrite
  repeat' first
    | with_reducible assumption
    | intro _
    | with_reducible apply KeepsO.next
    | with_reducible apply Keeps.ite
    | ((fail_if_no_progress extract_lets +onlyGivenNames x); first | (refine Keeps.bind x ?_ ?_; (try subst x); rotate_left; intro hx; rotate_left) | (refine KeepsO.bind x ?_ ?_; (try subst x); rotate_left; intro hx; rotate_left) | skip)
    | with_reducible apply Keeps.byPath
    | with_reducible apply Keeps.profileWrite
    | split
    | simp only [id_eq]

theorem Keeps.zoneCfgWrite (s : State) (w : Who) (z : ℕ) (data : Word) (hs : Keeps μ σ s) (m_space : μ .space) (m_wres : μ .wres) (m_log : μ .log) (m_ten : μ .ten) :
    Keeps μ σ (State.zoneCfgWrite s w z data) := by
  unfold State.zoneCfgWrite
  repeat' first
    | with_reducible assumption
    | intro _
    | with_reducible apply Keeps.ite
    | with_reducible apply Keeps.cfgWrite
    | with_reducible apply Keeps.refuseWrite

theorem Keeps.of_execZoneCfgWrite (p : Path) (z : ℕ) (data : Word) (s : State) (hs : Keeps μ σ s) (m_space : μ .space) (m_rdata : μ .rdata) (m_wres : μ .wres) (m_banks : μ .banks) (m_log : μ .log) (m_ten : μ .ten) :
    KeepsO μ σ (execZoneCfgWrite p z data s) := by
  unfold execZoneCfgWrite
  repeat' first
    | with_reducible assumption
    | intro _
    | with_reducible apply KeepsO.next
    | with_reducible apply Keeps.ite
    | with_reducible apply Keeps.byPath
    | with_reducible apply Keeps.zoneCfgWrite

theorem Keeps.ptWindowWrite (s : State) (w : Who) (a : ℕ) (data : Word) (hs : Keeps μ σ s) (m_space : μ .space) (m_free : μ .free) (m_wres : μ .wres) (m_log : μ .log) (m_ten : μ .ten) (m_broken : μ .broken) (m_safe : μ .safe) (m_cmds : μ .cmds) (m_cd : μ .cd) (m_fwd : μ .fwd) (m_sk : μ .sk) (m_subIn : μ .subIn) (m_cl : μ .cl) :
    Keeps μ σ (State.ptWindowWrite s w a data) := by
  unfold State.ptWindowWrite
  repeat' first
    | with_reducible assumption
    | intro _
    | with_reducible apply Keeps.ite
    | with_reducible apply Keeps.plainW
    | with_reducible apply Keeps.ptBindWrite
    | with_reducible apply Keeps.ptConfigWrite
    | with_reducible apply Keeps.ptValueWrite
    | split
    | simp only [id_eq]

end Sys2Proof.Machine
end

