-- ==== Sys2Proof/Laws/KeepsLoopOps.lean ====
section
/-! SUPPORT. What each operation of Machine/LoopOps.lean keeps: the queue, the clock's direction, the canonical form of the register
space, and every part of the state it does not name (`Keeps`). -/

set_option linter.unusedTactic false
set_option linter.unreachableTactic false
set_option linter.unusedSimpArgs false
set_option linter.unusedVariables false

namespace Sys2Proof.Machine

variable {μ : Part → Prop} {σ : State}

theorem Keeps.setLoop (s : State) (n : ℕ) (l : LoopSt) (hs : Keeps μ σ s) (m_le : μ .le) :
    Keeps μ σ (State.setLoop s n l) := by
  unfold State.setLoop
  repeat' first
    | with_reducible assumption
    | intro _
    | with_reducible apply Keeps.ite
    | ((fail_if_no_progress extract_lets +onlyGivenNames x); first | (refine Keeps.bind x ?_ ?_; (try subst x); rotate_left; intro hx; rotate_left) | skip)
    | simp only [Keeps.upd_le m_le]

theorem Keeps.leSetInit (s : State) (n : ℕ) (hs : Keeps μ σ s) (m_le : μ .le) :
    Keeps μ σ (State.leSetInit s n) := by
  unfold State.leSetInit
  repeat' first
    | with_reducible assumption
    | intro _
    | with_reducible apply Keeps.ite
    | ((fail_if_no_progress extract_lets +onlyGivenNames x); first | (refine Keeps.bind x ?_ ?_; (try subst x); rotate_left; intro hx; rotate_left) | skip)
    | with_reducible apply Keeps.setLoop
    | simp only [Keeps.upd_le m_le]
    | split

theorem Keeps.firstOf (s : State) (valid : Fld) (f : State → State) (hs : Keeps μ σ s) (hf : ∀ a0, Keeps μ σ a0 → Keeps μ σ (f a0)) (m_space : μ .space) :
    Keeps μ σ (State.firstOf s valid f) := by
  unfold State.firstOf
  repeat' first
    | with_reducible assumption
    | intro _
    | with_reducible apply Keeps.ite
    | with_reducible apply hf
    | with_reducible apply Keeps.put

theorem Keeps.leSupervise (s : State) (n : ℕ) (oc : ℕ) (fe : Option Word) (hs : Keeps μ σ s) (m_space : μ .space) (m_free : μ .free) (m_ten : μ .ten) (m_ic : μ .ic) (m_le : μ .le) :
    Keeps μ σ (State.leSupervise s n oc fe) := by
  unfold State.leSupervise
  repeat' first
    | with_reducible assumption
    | intro _
    | with_reducible apply Keeps.ite
    | with_reducible apply Keeps.firstOf
    | with_reducible apply Keeps.icPulse
    | with_reducible apply Keeps.inc
    | with_reducible apply Keeps.postEvt
    | with_reducible apply Keeps.put
    | with_reducible apply Keeps.setLoop

theorem Keeps.leCommit (s : State) (ev : LeEval) (hs : Keeps μ σ s) (m_space : μ .space) (m_free : μ .free) (m_ten : μ .ten) (m_ic : μ .ic) (m_le : μ .le) :
    Keeps μ σ (State.leCommit s ev) := by
  unfold State.leCommit
  repeat' first
    | with_reducible assumption
    | intro _
    | with_reducible apply Keeps.ite
    | ((fail_if_no_progress extract_lets +onlyGivenNames x); first | (refine Keeps.bind x ?_ ?_; (try subst x); rotate_left; intro hx; rotate_left) | skip)
    | with_reducible apply Keeps.firstOf
    | with_reducible apply Keeps.fresh
    | with_reducible apply Keeps.icPulse
    | with_reducible apply Keeps.inc
    | with_reducible apply Keeps.leSupervise
    | with_reducible apply Keeps.postErr2
    | with_reducible apply Keeps.postEvt
    | with_reducible apply Keeps.put
    | with_reducible apply Keeps.setLoop
    | simp only [Keeps.upd_le m_le]
    | split

theorem Keeps.leSbe (s : State) (hs : Keeps μ σ s) (m_space : μ .space) :
    Keeps μ σ (State.leSbe s) := by
  unfold State.leSbe
  repeat' first
    | with_reducible assumption
    | intro _
    | with_reducible apply Keeps.ite
    | with_reducible apply Keeps.inc

theorem Keeps.leDbe (s : State) (n : ℕ) (w : ℕ) (rec : Bool) (hs : Keeps μ σ s) (m_space : μ .space) (m_free : μ .free) (m_ten : μ .ten) :
    Keeps μ σ (State.leDbe s n w rec) := by
  unfold State.leDbe
  repeat' first
    | with_reducible assumption
    | intro _
    | with_reducible apply Keeps.ite
    | ((fail_if_no_progress extract_lets +onlyGivenNames x); first | (refine Keeps.bind x ?_ ?_; (try subst x); rotate_left; intro hx; rotate_left) | skip)
    | with_reducible apply Keeps.firstOf
    | with_reducible apply Keeps.fresh
    | with_reducible apply Keeps.inc
    | with_reducible apply Keeps.postErr2
    | with_reducible apply Keeps.put

theorem Keeps.leRecEcc (s : State) (n : ℕ) (b2 : Ecc) (hs : Keeps μ σ s) (m_space : μ .space) (m_free : μ .free) (m_ten : μ .ten) (m_le : μ .le) :
    Keeps μ σ (State.leRecEcc s n b2) := by
  unfold State.leRecEcc
  repeat' first
    | with_reducible assumption
    | intro _
    | with_reducible apply Keeps.ite
    | ((fail_if_no_progress extract_lets +onlyGivenNames x); first | (refine Keeps.bind x ?_ ?_; (try subst x); rotate_left; intro hx; rotate_left) | skip)
    | with_reducible apply Keeps.leDbe
    | with_reducible apply Keeps.leSbe
    | with_reducible apply Keeps.setLoop
    | split

theorem Keeps.leStateEcc (s : State) (n : ℕ) (b2 : Ecc) (hs : Keeps μ σ s) (m_space : μ .space) (m_free : μ .free) (m_ten : μ .ten) (m_le : μ .le) :
    Keeps μ σ (State.leStateEcc s n b2) := by
  unfold State.leStateEcc
  repeat' first
    | with_reducible assumption
    | intro _
    | with_reducible apply Keeps.ite
    | ((fail_if_no_progress extract_lets +onlyGivenNames x); first | (refine Keeps.bind x ?_ ?_; (try subst x); rotate_left; intro hx; rotate_left) | skip)
    | with_reducible apply Keeps.leDbe
    | with_reducible apply Keeps.leSbe
    | with_reducible apply Keeps.setLoop
    | split

theorem Keeps.recApply (s : State) (n : ℕ) (k : ℕ) (v : Word) (hs : Keeps μ σ s) (m_space : μ .space) (m_le : μ .le) :
    Keeps μ σ (State.recApply s n k v) := by
  unfold State.recApply
  repeat' first
    | with_reducible assumption
    | intro _
    | with_reducible apply Keeps.ite
    | with_reducible apply Keeps.leSetInit
    | with_reducible apply Keeps.setLoop
    | with_reducible apply Keeps.setWord

theorem Keeps.setFifo (s : State) (f : ℕ) (l : List LeOp) (hs : Keeps μ σ s) (m_le : μ .le) :
    Keeps μ σ (State.setFifo s f l) := by
  unfold State.setFifo
  repeat' first
    | with_reducible assumption
    | intro _
    | with_reducible apply Keeps.ite
    | ((fail_if_no_progress extract_lets +onlyGivenNames x); first | (refine Keeps.bind x ?_ ?_; (try subst x); rotate_left; intro hx; rotate_left) | skip)
    | simp only [Keeps.upd_le m_le]

theorem Keeps.lePush (s : State) (f : ℕ) (op : LeOp) (hs : Keeps μ σ s) (m_le : μ .le) :
    Keeps μ σ (State.lePush s f op) := by
  unfold State.lePush
  repeat' first
    | with_reducible assumption
    | intro _
    | with_reducible apply Keeps.ite
    | with_reducible apply Keeps.setFifo

theorem Keeps.cmdResult (s : State) (t : ℕ) (op : ℕ) (index : ℕ) (cookie : ℕ) (res : ℕ) (notify : Bool) (accepted : Bool) (hs : Keeps μ σ s) (m_space : μ .space) (m_ten : μ .ten) :
    Keeps μ σ (State.cmdResult s t op index cookie res notify accepted) := by
  unfold State.cmdResult
  repeat' first
    | with_reducible assumption
    | intro _
    | with_reducible apply Keeps.ite
    | with_reducible apply Keeps.post
    | with_reducible apply Keeps.postErr

theorem Keeps.leAnswer (s : State) (f : ℕ) (op : LeOp) (status : ℕ) (index : ℕ) (hs : Keeps μ σ s) (m_space : μ .space) (m_ten : μ .ten) (m_sk : μ .sk) :
    Keeps μ σ (State.leAnswer s f op status index) := by
  unfold State.leAnswer
  repeat' first
    | with_reducible assumption
    | intro _
    | with_reducible apply Keeps.ite
    | ((fail_if_no_progress extract_lets +onlyGivenNames x); first | (refine Keeps.bind x ?_ ?_; (try subst x); rotate_left; intro hx; rotate_left) | skip)
    | with_reducible apply Keeps.cmdResult
    | with_reducible apply Keeps.setCore
    | split

theorem Keeps.lxRetire (s : State) (k : ℕ) (b2 : List LeOp) (hs : Keeps μ σ s) (m_sk : μ .sk) (m_le : μ .le) :
    Keeps μ σ (State.lxRetire s k b2) := by
  induction b2 generalizing s with
  | nil => exact Keeps.setCore _ _ _ hs m_sk
  | cons op t ih =>
    unfold State.lxRetire
    dsimp only
    split
    · exact ih _ (Keeps.lePush _ _ _ (Keeps.setCore _ _ _ hs m_sk) m_le)
    · exact Keeps.setCore _ _ _ hs m_sk

theorem Keeps.lxRoom (s : State) (f : ℕ) (hs : Keeps μ σ s) (m_sk : μ .sk) (m_le : μ .le) :
    Keeps μ σ (State.lxRoom s f) := by
  unfold State.lxRoom
  repeat' first
    | with_reducible assumption
    | intro _
    | with_reducible apply Keeps.ite
    | ((fail_if_no_progress extract_lets +onlyGivenNames x); first | (refine Keeps.bind x ?_ ?_; (try subst x); rotate_left; intro hx; rotate_left) | skip)
    | with_reducible apply Keeps.each
    | with_reducible apply Keeps.lePush
    | with_reducible apply Keeps.lxRetire
    | with_reducible apply Keeps.setCore
    | split
    | simp only [id_eq]

theorem Keeps.leTake (s : State) (f : ℕ) (kind : LeAsk → Bool) (apply : LeOp → State → State) (hs : Keeps μ σ s) (happly : ∀ a0 a1, Keeps μ σ a1 → Keeps μ σ (apply a0 a1)) (m_space : μ .space) (m_ten : μ .ten) (m_sk : μ .sk) (m_le : μ .le) :
    Keeps μ σ (State.leTake s f kind apply) := by
  unfold State.leTake
  repeat' first
    | with_reducible assumption
    | intro _
    | with_reducible apply Keeps.ite
    | ((fail_if_no_progress extract_lets +onlyGivenNames x); first | (refine Keeps.bind x ?_ ?_; (try subst x); rotate_left; intro hx; rotate_left) | skip)
    | with_reducible apply happly
    | with_reducible apply Keeps.inc
    | with_reducible apply Keeps.leAnswer
    | with_reducible apply Keeps.lxRoom
    | with_reducible apply Keeps.setFifo
    | split
    | simp only [id_eq]

theorem Keeps.leAudit (s : State) (op : LeOp) (ttype : ℕ) (target : ℕ) (old : Word) (new : Word) (res : Res) (eff : State → State) (hs : Keeps μ σ s) (heff : ∀ a0, Keeps μ σ a0 → Keeps μ σ (eff a0)) (m_space : μ .space) (m_wres : μ .wres) (m_log : μ .log) (m_ten : μ .ten) :
    Keeps μ σ (State.leAudit s op ttype target old new res eff) := by
  unfold State.leAudit
  repeat' first
    | with_reducible assumption
    | intro _
    | with_reducible apply Keeps.ite
    | with_reducible apply heff
    | with_reducible apply Keeps.auditW

theorem Keeps.leApplyWord (s : State) (f : ℕ) (op : LeOp) (hs : Keeps μ σ s) (m_space : μ .space) (m_wres : μ .wres) (m_log : μ .log) (m_ten : μ .ten) (m_sk : μ .sk) (m_le : μ .le) :
    Keeps μ σ (State.leApplyWord s f op) := by
  unfold State.leApplyWord
  repeat' first
    | with_reducible assumption
    | intro _
    | with_reducible apply Keeps.ite
    | ((fail_if_no_progress extract_lets +onlyGivenNames x); first | (refine Keeps.bind x ?_ ?_; (try subst x); rotate_left; intro hx; rotate_left) | skip)
    | with_reducible apply Keeps.leAnswer
    | with_reducible apply Keeps.leAudit
    | with_reducible apply Keeps.recApply
    | split

theorem Keeps.swapTarget (s : State) (n : ℕ) (bank : ℕ) (hs : Keeps μ σ s) (m_le : μ .le) :
    Keeps μ σ (State.swapTarget s n bank) := by
  unfold State.swapTarget
  repeat' first
    | with_reducible assumption
    | intro _
    | with_reducible apply Keeps.ite
    | ((fail_if_no_progress extract_lets +onlyGivenNames x); first | (refine Keeps.bind x ?_ ?_; (try subst x); rotate_left; intro hx; rotate_left) | skip)
    | with_reducible apply Keeps.setLoop

theorem Keeps.leApplySwap (s : State) (f : ℕ) (op : LeOp) (hs : Keeps μ σ s) (m_space : μ .space) (m_wres : μ .wres) (m_log : μ .log) (m_ten : μ .ten) (m_sk : μ .sk) (m_le : μ .le) :
    Keeps μ σ (State.leApplySwap s f op) := by
  unfold State.leApplySwap
  repeat' first
    | with_reducible assumption
    | intro _
    | with_reducible apply Keeps.ite
    | ((fail_if_no_progress extract_lets +onlyGivenNames x); first | (refine Keeps.bind x ?_ ?_; (try subst x); rotate_left; intro hx; rotate_left) | skip)
    | with_reducible apply Keeps.leAnswer
    | with_reducible apply Keeps.leAudit
    | with_reducible apply Keeps.swapTarget
    | split

theorem Keeps.groupShow (s : State) (g : ℕ) (pend : ℕ) (r : ℕ × ℕ × ℕ) (hs : Keeps μ σ s) (m_space : μ .space) :
    Keeps μ σ (State.groupShow s g pend r) := by
  unfold State.groupShow
  repeat' first
    | with_reducible assumption
    | intro _
    | with_reducible apply Keeps.ite
    | ((fail_if_no_progress extract_lets +onlyGivenNames x); first | (refine Keeps.bind x ?_ ?_; (try subst x); rotate_left; intro hx; rotate_left) | skip)
    | with_reducible apply Keeps.put
    | with_reducible apply Keeps.setWord
    | split
    | simp only [id_eq]

theorem Keeps.groupApply (s : State) (x : Word) (hs : Keeps μ σ s) (m_space : μ .space) (m_le : μ .le) :
    Keeps μ σ (State.groupApply s x) := by
  unfold State.groupApply
  repeat' first
    | with_reducible assumption
    | intro _
    | with_reducible apply Keeps.ite
    | ((fail_if_no_progress extract_lets +onlyGivenNames x); first | (refine Keeps.bind x ?_ ?_; (try subst x); rotate_left; intro hx; rotate_left) | skip)
    | with_reducible apply Keeps.groupShow
    | simp only [Keeps.upd_le m_le]
    | split
    | simp only [id_eq]

theorem Keeps.leApplyGroup (s : State) (f : ℕ) (op : LeOp) (hs : Keeps μ σ s) (m_space : μ .space) (m_wres : μ .wres) (m_log : μ .log) (m_ten : μ .ten) (m_sk : μ .sk) (m_le : μ .le) :
    Keeps μ σ (State.leApplyGroup s f op) := by
  unfold State.leApplyGroup
  repeat' first
    | with_reducible assumption
    | intro _
    | with_reducible apply Keeps.ite
    | ((fail_if_no_progress extract_lets +onlyGivenNames x); first | (refine Keeps.bind x ?_ ?_; (try subst x); rotate_left; intro hx; rotate_left) | skip)
    | with_reducible apply Keeps.groupApply
    | with_reducible apply Keeps.leAnswer
    | with_reducible apply Keeps.leAudit
    | split

theorem Keeps.leApplyReinit (s : State) (f : ℕ) (op : LeOp) (hs : Keeps μ σ s) (m_space : μ .space) (m_wres : μ .wres) (m_log : μ .log) (m_ten : μ .ten) (m_sk : μ .sk) (m_le : μ .le) :
    Keeps μ σ (State.leApplyReinit s f op) := by
  unfold State.leApplyReinit
  repeat' first
    | with_reducible assumption
    | intro _
    | with_reducible apply Keeps.ite
    | ((fail_if_no_progress extract_lets +onlyGivenNames x); first | (refine Keeps.bind x ?_ ?_; (try subst x); rotate_left; intro hx; rotate_left) | skip)
    | with_reducible apply Keeps.leAnswer
    | with_reducible apply Keeps.leAudit
    | with_reducible apply Keeps.leSetInit
    | split

theorem Keeps.leApplyForce (s : State) (f : ℕ) (op : LeOp) (hs : Keeps μ σ s) (m_space : μ .space) (m_free : μ .free) (m_wres : μ .wres) (m_log : μ .log) (m_ten : μ .ten) (m_broken : μ .broken) (m_safe : μ .safe) (m_cmds : μ .cmds) (m_cd : μ .cd) (m_fwd : μ .fwd) (m_sk : μ .sk) :
    Keeps μ σ (State.leApplyForce s f op) := by
  unfold State.leApplyForce
  repeat' first
    | with_reducible assumption
    | intro _
    | with_reducible apply Keeps.ite
    | ((fail_if_no_progress extract_lets +onlyGivenNames x); first | (refine Keeps.bind x ?_ ?_; (try subst x); rotate_left; intro hx; rotate_left) | skip)
    | with_reducible apply Keeps.auditW
    | with_reducible apply Keeps.leAnswer
    | with_reducible apply Keeps.ptWrite
    | split
    | simp only [id_eq]

theorem Keeps.leApplyRelease (s : State) (f : ℕ) (op : LeOp) (hs : Keeps μ σ s) (m_space : μ .space) (m_free : μ .free) (m_wres : μ .wres) (m_log : μ .log) (m_ten : μ .ten) (m_broken : μ .broken) (m_safe : μ .safe) (m_cmds : μ .cmds) (m_cd : μ .cd) (m_fwd : μ .fwd) (m_sk : μ .sk) :
    Keeps μ σ (State.leApplyRelease s f op) := by
  unfold State.leApplyRelease
  repeat' first
    | with_reducible assumption
    | intro _
    | with_reducible apply Keeps.ite
    | ((fail_if_no_progress extract_lets +onlyGivenNames x); first | (refine Keeps.bind x ?_ ?_; (try subst x); rotate_left; intro hx; rotate_left) | skip)
    | with_reducible apply Keeps.leAnswer
    | with_reducible apply Keeps.ptWrite
    | split
    | simp only [id_eq]

theorem Keeps.leApplyHead (s : State) (f : ℕ) (hs : Keeps μ σ s) (m_space : μ .space) (m_free : μ .free) (m_wres : μ .wres) (m_log : μ .log) (m_ten : μ .ten) (m_broken : μ .broken) (m_safe : μ .safe) (m_cmds : μ .cmds) (m_cd : μ .cd) (m_fwd : μ .fwd) (m_sk : μ .sk) (m_le : μ .le) :
    Keeps μ σ (State.leApplyHead s f) := by
  unfold State.leApplyHead
  repeat' first
    | with_reducible assumption
    | intro _
    | with_reducible apply Keeps.ite
    | ((fail_if_no_progress extract_lets +onlyGivenNames x); first | (refine Keeps.bind x ?_ ?_; (try subst x); rotate_left; intro hx; rotate_left) | skip)
    | with_reducible apply Keeps.leApplyForce
    | with_reducible apply Keeps.leApplyGroup
    | with_reducible apply Keeps.leApplyReinit
    | with_reducible apply Keeps.leApplyRelease
    | with_reducible apply Keeps.leApplySwap
    | with_reducible apply Keeps.leApplyWord
    | with_reducible apply Keeps.leTake
    | split
    | simp only [id_eq]

theorem Keeps.leDrain (s : State) (hs : Keeps μ σ s) (m_space : μ .space) (m_free : μ .free) (m_wres : μ .wres) (m_log : μ .log) (m_ten : μ .ten) (m_broken : μ .broken) (m_safe : μ .safe) (m_cmds : μ .cmds) (m_cd : μ .cd) (m_fwd : μ .fwd) (m_sk : μ .sk) (m_le : μ .le) :
    Keeps μ σ (State.leDrain s) := by
  unfold State.leDrain
  repeat' first
    | with_reducible assumption
    | intro _
    | with_reducible apply Keeps.ite
    | with_reducible apply Keeps.foldl
    | ((fail_if_no_progress extract_lets +onlyGivenNames x); first | (refine Keeps.bind x ?_ ?_; (try subst x); rotate_left; intro hx; rotate_left) | skip)
    | with_reducible apply Keeps.leApplyHead
    | split
    | simp only [id_eq]

end Sys2Proof.Machine
end

