-- ==== Sys2Proof/Laws/KeepsOperands.lean ====
section
/-! SUPPORT. What each operation of Machine/Operands.lean keeps: the queue, the clock's direction, the canonical form of the register
space, and every part of the state it does not name (`Keeps`). -/

set_option linter.unusedTactic false
set_option linter.unreachableTactic false
set_option linter.unusedSimpArgs false
set_option linter.unusedVariables false

namespace Sys2Proof.Machine

variable {μ : Part → Prop} {σ : State}

theorem Keeps.setSkMem (s : State) (k : ℕ) (a : ℕ) (v : Word) (hs : Keeps μ σ s) (m_space : μ .space) (m_sk : μ .sk) (m_sk0mem : μ .sk0mem) :
    Keeps μ σ (State.setSkMem s k a v) := by
  unfold State.setSkMem
  repeat' first
    | with_reducible assumption
    | intro _
    | with_reducible apply Keeps.ite
    | with_reducible apply Keeps.setCore
    | with_reducible apply Keeps.setWord
    | simp only [Keeps.upd_sk0mem m_sk0mem]

end Sys2Proof.Machine
end

