-- ==== Sys2Proof/Laws/KeepsSkehilOps.lean ====
section
/-! SUPPORT. What each operation of Machine/SkehilOps.lean keeps: the queue, the clock's direction, the canonical form of the register
space, and every part of the state it does not name (`Keeps`). -/

set_option linter.unusedTactic false
set_option linter.unreachableTactic false
set_option linter.unusedSimpArgs false
set_option linter.unusedVariables false

namespace Sys2Proof.Machine

variable {μ : Part → Prop} {σ : State}

theorem Keeps.skStopUpd (s : State) (k : ℕ) (hs : Keeps μ σ s) (m_space : μ .space) :
    Keeps μ σ (State.skStopUpd s k) := by
  unfold State.skStopUpd
  repeat' first
    | with_reducible assumption
    | intro _
    | with_reducible apply Keeps.ite
    | with_reducible apply Keeps.put

theorem Keeps.rcCharge (s : State) (t : ℕ) (cycles : ℕ) (hs : Keeps μ σ s) (m_space : μ .space) :
    Keeps μ σ (State.rcCharge s t cycles) := by
  unfold State.rcCharge
  repeat' first
    | with_reducible assumption
    | intro _
    | with_reducible apply Keeps.ite
    | with_reducible apply Keeps.inc

theorem Keeps.skAbortReg (s : State) (k : ℕ) (cause : ℕ) (pc : ℕ) (hs : Keeps μ σ s) (m_space : μ .space) :
    Keeps μ σ (State.skAbortReg s k cause pc) := by
  unfold State.skAbortReg
  repeat' first
    | with_reducible assumption
    | intro _
    | with_reducible apply Keeps.ite
    | ((fail_if_no_progress extract_lets +onlyGivenNames x); first | (refine Keeps.bind x ?_ ?_; (try subst x); rotate_left; intro hx; rotate_left) | skip)
    | with_reducible apply Keeps.put

theorem Keeps.skComplete (s : State) (k : ℕ) (t : ℕ) (hs : Keeps μ σ s) (m_space : μ .space) (m_free : μ .free) (m_ten : μ .ten) (m_ic : μ .ic) (m_sk : μ .sk) :
    Keeps μ σ (State.skComplete s k t) := by
  unfold State.skComplete
  repeat' first
    | with_reducible assumption
    | intro _
    | with_reducible apply Keeps.ite
    | ((fail_if_no_progress extract_lets +onlyGivenNames x); first | (refine Keeps.bind x ?_ ?_; (try subst x); rotate_left; intro hx; rotate_left) | skip)
    | with_reducible apply Keeps.icRelease
    | with_reducible apply Keeps.setCore
    | split

theorem Keeps.skEnd (s : State) (k : ℕ) (hs : Keeps μ σ s) (m_space : μ .space) (m_free : μ .free) (m_ten : μ .ten) (m_ic : μ .ic) (m_sk : μ .sk) :
    Keeps μ σ (State.skEnd s k) := by
  unfold State.skEnd
  repeat' first
    | with_reducible assumption
    | intro _
    | with_reducible apply Keeps.ite
    | ((fail_if_no_progress extract_lets +onlyGivenNames x); first | (refine Keeps.bind x ?_ ?_; (try subst x); rotate_left; intro hx; rotate_left) | skip)
    | with_reducible apply Keeps.put
    | with_reducible apply Keeps.rcCharge
    | with_reducible apply Keeps.setCore
    | with_reducible apply Keeps.skComplete
    | with_reducible apply Keeps.skStopUpd
    | split

theorem Keeps.skAbort (s : State) (k : ℕ) (cause : ℕ) (hs : Keeps μ σ s) (m_space : μ .space) (m_free : μ .free) (m_ten : μ .ten) (m_ic : μ .ic) (m_sk : μ .sk) :
    Keeps μ σ (State.skAbort s k cause) := by
  unfold State.skAbort
  repeat' first
    | with_reducible assumption
    | intro _
    | with_reducible apply Keeps.ite
    | ((fail_if_no_progress extract_lets +onlyGivenNames x); first | (refine Keeps.bind x ?_ ?_; (try subst x); rotate_left; intro hx; rotate_left) | skip)
    | with_reducible apply Keeps.fresh
    | with_reducible apply Keeps.icSet
    | with_reducible apply Keeps.inc
    | with_reducible apply Keeps.postErr
    | with_reducible apply Keeps.skAbortReg
    | with_reducible apply Keeps.skEnd

theorem Keeps.sk0Trap (s : State) (hs : Keeps μ σ s) (m_space : μ .space) (m_sk : μ .sk) :
    Keeps μ σ (State.sk0Trap s) := by
  unfold State.sk0Trap
  repeat' first
    | with_reducible assumption
    | intro _
    | with_reducible apply Keeps.ite
    | ((fail_if_no_progress extract_lets +onlyGivenNames x); first | (refine Keeps.bind x ?_ ?_; (try subst x); rotate_left; intro hx; rotate_left) | skip)
    | with_reducible apply Keeps.put
    | with_reducible apply Keeps.setCore

theorem Keeps.skCause (s : State) (k : ℕ) (cause : ℕ) (hs : Keeps μ σ s) (m_space : μ .space) (m_free : μ .free) (m_ten : μ .ten) (m_ic : μ .ic) (m_sk : μ .sk) :
    Keeps μ σ (State.skCause s k cause) := by
  unfold State.skCause
  repeat' first
    | with_reducible assumption
    | intro _
    | with_reducible apply Keeps.ite
    | with_reducible apply Keeps.sk0Trap
    | with_reducible apply Keeps.skAbort
    | with_reducible apply Keeps.skAbortReg

theorem Keeps.skEcc (s : State) (k : ℕ) (a : ℕ) (e : Ecc) (hs : Keeps μ σ s) (m_space : μ .space) (m_sk : μ .sk) :
    Keeps μ σ (State.skEcc s k a e).1 := by
  unfold State.skEcc
  repeat' first
    | with_reducible assumption
    | intro _
    | with_reducible apply Keeps.ite
    | ((fail_if_no_progress extract_lets +onlyGivenNames x); first | (refine Keeps.bind x ?_ ?_; (try subst x); rotate_left; intro hx; rotate_left) | skip)
    | with_reducible apply Keeps.inc
    | with_reducible apply Keeps.setCore
    | split

theorem Keeps.skStep (s : State) (k : ℕ) (cost : ℕ) (src : List Rg) (e : Ecc) (f : State → State) (hs : Keeps μ σ s) (hf : ∀ a0, Keeps μ σ a0 → Keeps μ σ (f a0)) (m_space : μ .space) (m_free : μ .free) (m_ten : μ .ten) (m_ic : μ .ic) (m_sk : μ .sk) :
    Keeps μ σ (State.skStep s k cost src e f) := by
  unfold State.skStep
  repeat' first
    | with_reducible assumption
    | intro _
    | with_reducible apply Keeps.ite
    | ((fail_if_no_progress extract_lets +onlyGivenNames x); first | (refine Keeps.bind x ?_ ?_; (try subst x); rotate_left; intro hx; rotate_left) | skip)
    | with_reducible apply hf
    | with_reducible apply Keeps.setCore
    | with_reducible apply Keeps.skAbort
    | with_reducible apply Keeps.skCause
    | with_reducible apply Keeps.skEcc
    | with_reducible apply Keeps.of_fst (by assumption)
    | with_reducible apply Keeps.of_snd (by assumption)
    | split
    | simp only [id_eq]

theorem Keeps.skWrite (s : State) (k : ℕ) (rd : Rg) (r : FRes) (hs : Keeps μ σ s) (m_sk : μ .sk) :
    Keeps μ σ (State.skWrite s k rd r) := by
  unfold State.skWrite
  repeat' first
    | with_reducible assumption
    | intro _
    | with_reducible apply Keeps.ite
    | ((fail_if_no_progress extract_lets +onlyGivenNames x); first | (refine Keeps.bind x ?_ ?_; (try subst x); rotate_left; intro hx; rotate_left) | skip)
    | with_reducible apply Keeps.setCore

theorem Keeps.skAlu (s : State) (k : Fin 4) (e : Ecc) (cost : ℕ) (rd : Rg) (ra : Rg) (rb : Rg) (f : Word → Word → FRes) (hs : Keeps μ σ s) (m_space : μ .space) (m_free : μ .free) (m_ten : μ .ten) (m_ic : μ .ic) (m_sk : μ .sk) :
    Keeps μ σ (State.skAlu s k e cost rd ra rb f) := by
  unfold State.skAlu
  repeat' first
    | with_reducible assumption
    | intro _
    | with_reducible apply Keeps.ite
    | with_reducible apply Keeps.skStep
    | with_reducible apply Keeps.skWrite

theorem Keeps.skImm (s : State) (k : Fin 4) (e : Ecc) (rd : Rg) (ra : Rg) (y : Word) (f : Word → Word → FRes) (hs : Keeps μ σ s) (m_space : μ .space) (m_free : μ .free) (m_ten : μ .ten) (m_ic : μ .ic) (m_sk : μ .sk) :
    Keeps μ σ (State.skImm s k e rd ra y f) := by
  unfold State.skImm
  repeat' first
    | with_reducible assumption
    | intro _
    | with_reducible apply Keeps.ite
    | with_reducible apply Keeps.skStep
    | with_reducible apply Keeps.skWrite

theorem Keeps.skShImm (s : State) (k : Fin 4) (e : Ecc) (rd : Rg) (ra : Rg) (imm : BitVec 18) (f : Word → Word → FRes) (hs : Keeps μ σ s) (m_space : μ .space) (m_free : μ .free) (m_ten : μ .ten) (m_ic : μ .ic) (m_sk : μ .sk) :
    Keeps μ σ (State.skShImm s k e rd ra imm f) := by
  unfold State.skShImm
  repeat' first
    | with_reducible assumption
    | intro _
    | with_reducible apply Keeps.ite
    | with_reducible apply Keeps.skCause
    | with_reducible apply Keeps.skStep
    | with_reducible apply Keeps.skWrite

theorem Keeps.skBranch (s : State) (k : Fin 4) (e : Ecc) (ra : Rg) (rb : Rg) (off : BitVec 18) (p : Word → Word → Bool) (hs : Keeps μ σ s) (m_space : μ .space) (m_free : μ .free) (m_ten : μ .ten) (m_ic : μ .ic) (m_sk : μ .sk) :
    Keeps μ σ (State.skBranch s k e ra rb off p) := by
  unfold State.skBranch
  repeat' first
    | with_reducible assumption
    | intro _
    | with_reducible apply Keeps.ite
    | with_reducible apply Keeps.setCore
    | with_reducible apply Keeps.skStep

theorem Keeps.lxEarly (s : State) (k : ℕ) (src : List Rg) (e : Ecc) (ask : SkCore → Option (LeAsk × Word)) (hs : Keeps μ σ s) (m_space : μ .space) (m_sk : μ .sk) :
    Keeps μ σ (State.lxEarly s k src e ask) := by
  unfold State.lxEarly
  repeat' first
    | with_reducible assumption
    | intro _
    | with_reducible apply Keeps.ite
    | ((fail_if_no_progress extract_lets +onlyGivenNames x); first | (refine Keeps.bind x ?_ ?_; (try subst x); rotate_left; intro hx; rotate_left) | skip)
    | with_reducible apply Keeps.setCore
    | with_reducible apply Keeps.skEcc
    | with_reducible apply Keeps.of_fst (by assumption)
    | with_reducible apply Keeps.of_snd (by assumption)
    | split
    | simp only [id_eq]

theorem Keeps.lxChange (s : State) (k : Fin 4) (e : Ecc) (src : List Rg) (ask : SkCore → Option (LeAsk × Word)) (hs : Keeps μ σ s) (m_space : μ .space) (m_free : μ .free) (m_ten : μ .ten) (m_ic : μ .ic) (m_sk : μ .sk) (m_le : μ .le) :
    Keeps μ σ (State.lxChange s k e src ask) := by
  unfold State.lxChange
  repeat' first
    | with_reducible assumption
    | intro _
    | with_reducible apply Keeps.ite
    | ((fail_if_no_progress extract_lets +onlyGivenNames x); first | (refine Keeps.bind x ?_ ?_; (try subst x); rotate_left; intro hx; rotate_left) | skip)
    | with_reducible apply Keeps.lxEarly
    | with_reducible apply Keeps.lxRetire
    | with_reducible apply Keeps.skCause
    | with_reducible apply Keeps.skStep
    | split
    | simp only [id_eq]

theorem Keeps.lxRead (s : State) (k : Fin 4) (e : Ecc) (ra : Rg) (f : ℕ → State → State) (hs : Keeps μ σ s) (hf : ∀ a0 a1, Keeps μ σ a1 → Keeps μ σ (f a0 a1)) (m_space : μ .space) (m_free : μ .free) (m_ten : μ .ten) (m_ic : μ .ic) (m_sk : μ .sk) :
    Keeps μ σ (State.lxRead s k e ra f) := by
  unfold State.lxRead
  repeat' first
    | with_reducible assumption
    | intro _
    | with_reducible apply Keeps.ite
    | ((fail_if_no_progress extract_lets +onlyGivenNames x); first | (refine Keeps.bind x ?_ ?_; (try subst x); rotate_left; intro hx; rotate_left) | skip)
    | with_reducible apply hf
    | with_reducible apply Keeps.skCause
    | with_reducible apply Keeps.skStep
    | split
    | simp only [id_eq]

theorem Keeps.lxIssue (s : State) (k : ℕ) (rd : Rg) (loop : ℕ) (word : ℕ) (isState : Bool) (hs : Keeps μ σ s) (m_sk : μ .sk) :
    Keeps μ σ (State.lxIssue s k rd loop word isState) := by
  unfold State.lxIssue
  repeat' first
    | with_reducible assumption
    | intro _
    | with_reducible apply Keeps.ite
    | ((fail_if_no_progress extract_lets +onlyGivenNames x); first | (refine Keeps.bind x ?_ ?_; (try subst x); rotate_left; intro hx; rotate_left) | skip)
    | with_reducible apply Keeps.setCore

theorem Keeps.lxResponse (s : State) (k : ℕ) (hs : Keeps μ σ s) (m_space : μ .space) (m_sk : μ .sk) (m_le : μ .le) :
    Keeps μ σ (State.lxResponse s k) := by
  unfold State.lxResponse
  repeat' first
    | with_reducible assumption
    | intro _
    | with_reducible apply Keeps.ite
    | ((fail_if_no_progress extract_lets +onlyGivenNames x); first | (refine Keeps.bind x ?_ ?_; (try subst x); rotate_left; intro hx; rotate_left) | skip)
    | with_reducible apply Keeps.inc
    | with_reducible apply Keeps.lxRetire
    | with_reducible apply Keeps.setCore
    | split
    | simp only [id_eq]

theorem Keeps.lxSyncEnd (s : State) (k : ℕ) (rd : ℕ) (hs : Keeps μ σ s) (m_sk : μ .sk) :
    Keeps μ σ (State.lxSyncEnd s k rd) := by
  unfold State.lxSyncEnd
  repeat' first
    | with_reducible assumption
    | intro _
    | with_reducible apply Keeps.ite
    | ((fail_if_no_progress extract_lets +onlyGivenNames x); first | (refine Keeps.bind x ?_ ?_; (try subst x); rotate_left; intro hx; rotate_left) | skip)
    | with_reducible apply Keeps.setCore

theorem Keeps.skDone (s : State) (k : ℕ) (hs : Keeps μ σ s) (m_space : μ .space) (m_free : μ .free) (m_ten : μ .ten) (m_ic : μ .ic) (m_sk : μ .sk) :
    Keeps μ σ (State.skDone s k) := by
  unfold State.skDone
  repeat' first
    | with_reducible assumption
    | intro _
    | with_reducible apply Keeps.ite
    | ((fail_if_no_progress extract_lets +onlyGivenNames x); first | (refine Keeps.bind x ?_ ?_; (try subst x); rotate_left; intro hx; rotate_left) | skip)
    | with_reducible apply Keeps.fresh
    | with_reducible apply Keeps.postErr
    | with_reducible apply Keeps.setCore
    | with_reducible apply Keeps.skEnd

theorem Keeps.skFence (s : State) (k : ℕ) (hs : Keeps μ σ s) (m_space : μ .space) (m_free : μ .free) (m_ten : μ .ten) (m_ic : μ .ic) (m_sk : μ .sk) :
    Keeps μ σ (State.skFence s k) := by
  unfold State.skFence
  repeat' first
    | with_reducible assumption
    | intro _
    | with_reducible apply Keeps.ite
    | with_reducible apply Keeps.lxSyncEnd
    | with_reducible apply Keeps.skDone
    | split

theorem Keeps.lxAck (s : State) (k : ℕ) (hs : Keeps μ σ s) (m_space : μ .space) (m_free : μ .free) (m_ten : μ .ten) (m_ic : μ .ic) (m_sk : μ .sk) :
    Keeps μ σ (State.lxAck s k) := by
  unfold State.lxAck
  repeat' first
    | with_reducible assumption
    | intro _
    | with_reducible apply Keeps.ite
    | ((fail_if_no_progress extract_lets +onlyGivenNames x); first | (refine Keeps.bind x ?_ ?_; (try subst x); rotate_left; intro hx; rotate_left) | skip)
    | with_reducible apply Keeps.setCore
    | with_reducible apply Keeps.skFence
    | split

theorem Keeps.skDelayed (s : State) (k : ℕ) (t : ℕ) (hs : Keeps μ σ s) (m_space : μ .space) (m_sk : μ .sk) :
    Keeps μ σ (State.skDelayed s k t) := by
  unfold State.skDelayed
  repeat' first
    | with_reducible assumption
    | intro _
    | with_reducible apply Keeps.ite
    | with_reducible apply Keeps.inc
    | with_reducible apply Keeps.setCore

theorem Keeps.skStart (s : State) (k : ℕ) (t : ℕ) (hs : Keeps μ σ s) (m_space : μ .space) (m_sk : μ .sk) :
    Keeps μ σ (State.skStart s k t) := by
  unfold State.skStart
  repeat' first
    | with_reducible assumption
    | intro _
    | with_reducible apply Keeps.ite
    | ((fail_if_no_progress extract_lets +onlyGivenNames x); first | (refine Keeps.bind x ?_ ?_; (try subst x); rotate_left; intro hx; rotate_left) | skip)
    | with_reducible apply Keeps.put
    | with_reducible apply Keeps.setCore
    | with_reducible apply Keeps.skStopUpd

theorem Keeps.skDispatch (s : State) (k : ℕ) (hs : Keeps μ σ s) (m_space : μ .space) (m_sk : μ .sk) :
    Keeps μ σ (State.skDispatch s k) := by
  unfold State.skDispatch
  repeat' first
    | with_reducible assumption
    | intro _
    | with_reducible apply Keeps.ite
    | ((fail_if_no_progress extract_lets +onlyGivenNames x); first | (refine Keeps.bind x ?_ ?_; (try subst x); rotate_left; intro hx; rotate_left) | skip)
    | with_reducible apply Keeps.each
    | with_reducible apply Keeps.skDelayed
    | with_reducible apply Keeps.skStart
    | split

theorem Keeps.skTenantReset (s : State) (t : ℕ) (hs : Keeps μ σ s) (m_space : μ .space) (m_free : μ .free) (m_ten : μ .ten) (m_ic : μ .ic) (m_sk : μ .sk) :
    Keeps μ σ (State.skTenantReset s t) := by
  unfold State.skTenantReset
  repeat' first
    | with_reducible assumption
    | intro _
    | with_reducible apply Keeps.ite
    | ((fail_if_no_progress extract_lets +onlyGivenNames x); first | (refine Keeps.bind x ?_ ?_; (try subst x); rotate_left; intro hx; rotate_left) | skip)
    | with_reducible apply Keeps.foldl
    | with_reducible apply Keeps.each
    | with_reducible apply Keeps.setCore
    | with_reducible apply Keeps.skAbort

theorem Keeps.skFuncRst (s : State) (k : ℕ) (hs : Keeps μ σ s) (m_space : μ .space) (m_free : μ .free) (m_ten : μ .ten) (m_ic : μ .ic) (m_sk : μ .sk) :
    Keeps μ σ (State.skFuncRst s k) := by
  unfold State.skFuncRst
  repeat' first
    | with_reducible assumption
    | intro _
    | with_reducible apply Keeps.ite
    | ((fail_if_no_progress extract_lets +onlyGivenNames x); first | (refine Keeps.bind x ?_ ?_; (try subst x); rotate_left; intro hx; rotate_left) | skip)
    | with_reducible apply Keeps.each
    | with_reducible apply Keeps.icRelease
    | with_reducible apply Keeps.setCore
    | with_reducible apply Keeps.skAbort
    | with_reducible apply Keeps.skAbortReg
    | simp only [Keeps.upd_ic m_ic]

end Sys2Proof.Machine
end

