-- ==== Sys2Proof/Laws/KeepsSkehil.lean ====
section
/-! SUPPORT. What each operation of Machine/Skehil.lean keeps: the queue, the clock's direction, the canonical form of the register
space, and every part of the state it does not name (`Keeps`). -/

set_option linter.unusedTactic false
set_option linter.unreachableTactic false
set_option linter.unusedSimpArgs false
set_option linter.unusedVariables false

namespace Sys2Proof.Machine

variable {μ : Part → Prop} {σ : State}

theorem Keeps.of_execAdd (k : Fin 4) (e : Ecc) (rd : Rg) (ra : Rg) (rb : Rg) (s : State) (hs : Keeps μ σ s) (m_space : μ .space) (m_free : μ .free) (m_ten : μ .ten) (m_ic : μ .ic) (m_sk : μ .sk) :
    KeepsO μ σ (execAdd k e rd ra rb s) := by
  unfold execAdd
  repeat' first
    | with_reducible assumption
    | intro _
    | with_reducible apply KeepsO.next
    | with_reducible apply Keeps.ite
    | with_reducible apply Keeps.skAlu

theorem Keeps.of_execSub (k : Fin 4) (e : Ecc) (rd : Rg) (ra : Rg) (rb : Rg) (s : State) (hs : Keeps μ σ s) (m_space : μ .space) (m_free : μ .free) (m_ten : μ .ten) (m_ic : μ .ic) (m_sk : μ .sk) :
    KeepsO μ σ (execSub k e rd ra rb s) := by
  unfold execSub
  repeat' first
    | with_reducible assumption
    | intro _
    | with_reducible apply KeepsO.next
    | with_reducible apply Keeps.ite
    | with_reducible apply Keeps.skAlu

theorem Keeps.of_execAnd (k : Fin 4) (e : Ecc) (rd : Rg) (ra : Rg) (rb : Rg) (s : State) (hs : Keeps μ σ s) (m_space : μ .space) (m_free : μ .free) (m_ten : μ .ten) (m_ic : μ .ic) (m_sk : μ .sk) :
    KeepsO μ σ (execAnd k e rd ra rb s) := by
  unfold execAnd
  repeat' first
    | with_reducible assumption
    | intro _
    | with_reducible apply KeepsO.next
    | with_reducible apply Keeps.ite
    | with_reducible apply Keeps.skAlu

theorem Keeps.of_execIor (k : Fin 4) (e : Ecc) (rd : Rg) (ra : Rg) (rb : Rg) (s : State) (hs : Keeps μ σ s) (m_space : μ .space) (m_free : μ .free) (m_ten : μ .ten) (m_ic : μ .ic) (m_sk : μ .sk) :
    KeepsO μ σ (execIor k e rd ra rb s) := by
  unfold execIor
  repeat' first
    | with_reducible assumption
    | intro _
    | with_reducible apply KeepsO.next
    | with_reducible apply Keeps.ite
    | with_reducible apply Keeps.skAlu

theorem Keeps.of_execEor (k : Fin 4) (e : Ecc) (rd : Rg) (ra : Rg) (rb : Rg) (s : State) (hs : Keeps μ σ s) (m_space : μ .space) (m_free : μ .free) (m_ten : μ .ten) (m_ic : μ .ic) (m_sk : μ .sk) :
    KeepsO μ σ (execEor k e rd ra rb s) := by
  unfold execEor
  repeat' first
    | with_reducible assumption
    | intro _
    | with_reducible apply KeepsO.next
    | with_reducible apply Keeps.ite
    | with_reducible apply Keeps.skAlu

theorem Keeps.of_execAndn (k : Fin 4) (e : Ecc) (rd : Rg) (ra : Rg) (rb : Rg) (s : State) (hs : Keeps μ σ s) (m_space : μ .space) (m_free : μ .free) (m_ten : μ .ten) (m_ic : μ .ic) (m_sk : μ .sk) :
    KeepsO μ σ (execAndn k e rd ra rb s) := by
  unfold execAndn
  repeat' first
    | with_reducible assumption
    | intro _
    | with_reducible apply KeepsO.next
    | with_reducible apply Keeps.ite
    | with_reducible apply Keeps.skAlu

theorem Keeps.of_execShl (k : Fin 4) (e : Ecc) (rd : Rg) (ra : Rg) (rb : Rg) (s : State) (hs : Keeps μ σ s) (m_space : μ .space) (m_free : μ .free) (m_ten : μ .ten) (m_ic : μ .ic) (m_sk : μ .sk) :
    KeepsO μ σ (execShl k e rd ra rb s) := by
  unfold execShl
  repeat' first
    | with_reducible assumption
    | intro _
    | with_reducible apply KeepsO.next
    | with_reducible apply Keeps.ite
    | with_reducible apply Keeps.skAlu

theorem Keeps.of_execShr (k : Fin 4) (e : Ecc) (rd : Rg) (ra : Rg) (rb : Rg) (s : State) (hs : Keeps μ σ s) (m_space : μ .space) (m_free : μ .free) (m_ten : μ .ten) (m_ic : μ .ic) (m_sk : μ .sk) :
    KeepsO μ σ (execShr k e rd ra rb s) := by
  unfold execShr
  repeat' first
    | with_reducible assumption
    | intro _
    | with_reducible apply KeepsO.next
    | with_reducible apply Keeps.ite
    | with_reducible apply Keeps.skAlu

theorem Keeps.of_execAsr (k : Fin 4) (e : Ecc) (rd : Rg) (ra : Rg) (rb : Rg) (s : State) (hs : Keeps μ σ s) (m_space : μ .space) (m_free : μ .free) (m_ten : μ .ten) (m_ic : μ .ic) (m_sk : μ .sk) :
    KeepsO μ σ (execAsr k e rd ra rb s) := by
  unfold execAsr
  repeat' first
    | with_reducible assumption
    | intro _
    | with_reducible apply KeepsO.next
    | with_reducible apply Keeps.ite
    | with_reducible apply Keeps.skAlu

theorem Keeps.of_execRor (k : Fin 4) (e : Ecc) (rd : Rg) (ra : Rg) (rb : Rg) (s : State) (hs : Keeps μ σ s) (m_space : μ .space) (m_free : μ .free) (m_ten : μ .ten) (m_ic : μ .ic) (m_sk : μ .sk) :
    KeepsO μ σ (execRor k e rd ra rb s) := by
  unfold execRor
  repeat' first
    | with_reducible assumption
    | intro _
    | with_reducible apply KeepsO.next
    | with_reducible apply Keeps.ite
    | with_reducible apply Keeps.skAlu

theorem Keeps.of_execCmp (k : Fin 4) (e : Ecc) (rd : Rg) (ra : Rg) (rb : Rg) (s : State) (hs : Keeps μ σ s) (m_space : μ .space) (m_free : μ .free) (m_ten : μ .ten) (m_ic : μ .ic) (m_sk : μ .sk) :
    KeepsO μ σ (execCmp k e rd ra rb s) := by
  unfold execCmp
  repeat' first
    | with_reducible assumption
    | intro _
    | with_reducible apply KeepsO.next
    | with_reducible apply Keeps.ite
    | with_reducible apply Keeps.skAlu

theorem Keeps.of_execCmpu (k : Fin 4) (e : Ecc) (rd : Rg) (ra : Rg) (rb : Rg) (s : State) (hs : Keeps μ σ s) (m_space : μ .space) (m_free : μ .free) (m_ten : μ .ten) (m_ic : μ .ic) (m_sk : μ .sk) :
    KeepsO μ σ (execCmpu k e rd ra rb s) := by
  unfold execCmpu
  repeat' first
    | with_reducible assumption
    | intro _
    | with_reducible apply KeepsO.next
    | with_reducible apply Keeps.ite
    | with_reducible apply Keeps.skAlu

theorem Keeps.of_execMin (k : Fin 4) (e : Ecc) (rd : Rg) (ra : Rg) (rb : Rg) (s : State) (hs : Keeps μ σ s) (m_space : μ .space) (m_free : μ .free) (m_ten : μ .ten) (m_ic : μ .ic) (m_sk : μ .sk) :
    KeepsO μ σ (execMin k e rd ra rb s) := by
  unfold execMin
  repeat' first
    | with_reducible assumption
    | intro _
    | with_reducible apply KeepsO.next
    | with_reducible apply Keeps.ite
    | with_reducible apply Keeps.skAlu

theorem Keeps.of_execMax (k : Fin 4) (e : Ecc) (rd : Rg) (ra : Rg) (rb : Rg) (s : State) (hs : Keeps μ σ s) (m_space : μ .space) (m_free : μ .free) (m_ten : μ .ten) (m_ic : μ .ic) (m_sk : μ .sk) :
    KeepsO μ σ (execMax k e rd ra rb s) := by
  unfold execMax
  repeat' first
    | with_reducible assumption
    | intro _
    | with_reducible apply KeepsO.next
    | with_reducible apply Keeps.ite
    | with_reducible apply Keeps.skAlu

theorem Keeps.of_execMinu (k : Fin 4) (e : Ecc) (rd : Rg) (ra : Rg) (rb : Rg) (s : State) (hs : Keeps μ σ s) (m_space : μ .space) (m_free : μ .free) (m_ten : μ .ten) (m_ic : μ .ic) (m_sk : μ .sk) :
    KeepsO μ σ (execMinu k e rd ra rb s) := by
  unfold execMinu
  repeat' first
    | with_reducible assumption
    | intro _
    | with_reducible apply KeepsO.next
    | with_reducible apply Keeps.ite
    | with_reducible apply Keeps.skAlu

theorem Keeps.of_execMaxu (k : Fin 4) (e : Ecc) (rd : Rg) (ra : Rg) (rb : Rg) (s : State) (hs : Keeps μ σ s) (m_space : μ .space) (m_free : μ .free) (m_ten : μ .ten) (m_ic : μ .ic) (m_sk : μ .sk) :
    KeepsO μ σ (execMaxu k e rd ra rb s) := by
  unfold execMaxu
  repeat' first
    | with_reducible assumption
    | intro _
    | with_reducible apply KeepsO.next
    | with_reducible apply Keeps.ite
    | with_reducible apply Keeps.skAlu

theorem Keeps.of_execMul (k : Fin 4) (e : Ecc) (rd : Rg) (ra : Rg) (rb : Rg) (s : State) (hs : Keeps μ σ s) (m_space : μ .space) (m_free : μ .free) (m_ten : μ .ten) (m_ic : μ .ic) (m_sk : μ .sk) :
    KeepsO μ σ (execMul k e rd ra rb s) := by
  unfold execMul
  repeat' first
    | with_reducible assumption
    | intro _
    | with_reducible apply KeepsO.next
    | with_reducible apply Keeps.ite
    | with_reducible apply Keeps.skAlu

theorem Keeps.of_execMulhs (k : Fin 4) (e : Ecc) (rd : Rg) (ra : Rg) (rb : Rg) (s : State) (hs : Keeps μ σ s) (m_space : μ .space) (m_free : μ .free) (m_ten : μ .ten) (m_ic : μ .ic) (m_sk : μ .sk) :
    KeepsO μ σ (execMulhs k e rd ra rb s) := by
  unfold execMulhs
  repeat' first
    | with_reducible assumption
    | intro _
    | with_reducible apply KeepsO.next
    | with_reducible apply Keeps.ite
    | with_reducible apply Keeps.skAlu

theorem Keeps.of_execMulhu (k : Fin 4) (e : Ecc) (rd : Rg) (ra : Rg) (rb : Rg) (s : State) (hs : Keeps μ σ s) (m_space : μ .space) (m_free : μ .free) (m_ten : μ .ten) (m_ic : μ .ic) (m_sk : μ .sk) :
    KeepsO μ σ (execMulhu k e rd ra rb s) := by
  unfold execMulhu
  repeat' first
    | with_reducible assumption
    | intro _
    | with_reducible apply KeepsO.next
    | with_reducible apply Keeps.ite
    | with_reducible apply Keeps.skAlu

theorem Keeps.of_execQuo (k : Fin 4) (e : Ecc) (rd : Rg) (ra : Rg) (rb : Rg) (s : State) (hs : Keeps μ σ s) (m_space : μ .space) (m_free : μ .free) (m_ten : μ .ten) (m_ic : μ .ic) (m_sk : μ .sk) :
    KeepsO μ σ (execQuo k e rd ra rb s) := by
  unfold execQuo
  repeat' first
    | with_reducible assumption
    | intro _
    | with_reducible apply KeepsO.next
    | with_reducible apply Keeps.ite
    | with_reducible apply Keeps.skAlu

theorem Keeps.of_execQuou (k : Fin 4) (e : Ecc) (rd : Rg) (ra : Rg) (rb : Rg) (s : State) (hs : Keeps μ σ s) (m_space : μ .space) (m_free : μ .free) (m_ten : μ .ten) (m_ic : μ .ic) (m_sk : μ .sk) :
    KeepsO μ σ (execQuou k e rd ra rb s) := by
  unfold execQuou
  repeat' first
    | with_reducible assumption
    | intro _
    | with_reducible apply KeepsO.next
    | with_reducible apply Keeps.ite
    | with_reducible apply Keeps.skAlu

theorem Keeps.of_execMod (k : Fin 4) (e : Ecc) (rd : Rg) (ra : Rg) (rb : Rg) (s : State) (hs : Keeps μ σ s) (m_space : μ .space) (m_free : μ .free) (m_ten : μ .ten) (m_ic : μ .ic) (m_sk : μ .sk) :
    KeepsO μ σ (execMod k e rd ra rb s) := by
  unfold execMod
  repeat' first
    | with_reducible assumption
    | intro _
    | with_reducible apply KeepsO.next
    | with_reducible apply Keeps.ite
    | with_reducible apply Keeps.skAlu

theorem Keeps.of_execModu (k : Fin 4) (e : Ecc) (rd : Rg) (ra : Rg) (rb : Rg) (s : State) (hs : Keeps μ σ s) (m_space : μ .space) (m_free : μ .free) (m_ten : μ .ten) (m_ic : μ .ic) (m_sk : μ .sk) :
    KeepsO μ σ (execModu k e rd ra rb s) := by
  unfold execModu
  repeat' first
    | with_reducible assumption
    | intro _
    | with_reducible apply KeepsO.next
    | with_reducible apply Keeps.ite
    | with_reducible apply Keeps.skAlu

theorem Keeps.of_execAdds (k : Fin 4) (e : Ecc) (rd : Rg) (ra : Rg) (rb : Rg) (s : State) (hs : Keeps μ σ s) (m_space : μ .space) (m_free : μ .free) (m_ten : μ .ten) (m_ic : μ .ic) (m_sk : μ .sk) :
    KeepsO μ σ (execAdds k e rd ra rb s) := by
  unfold execAdds
  repeat' first
    | with_reducible assumption
    | intro _
    | with_reducible apply KeepsO.next
    | with_reducible apply Keeps.ite
    | with_reducible apply Keeps.skAlu

theorem Keeps.of_execSubs (k : Fin 4) (e : Ecc) (rd : Rg) (ra : Rg) (rb : Rg) (s : State) (hs : Keeps μ σ s) (m_space : μ .space) (m_free : μ .free) (m_ten : μ .ten) (m_ic : μ .ic) (m_sk : μ .sk) :
    KeepsO μ σ (execSubs k e rd ra rb s) := by
  unfold execSubs
  repeat' first
    | with_reducible assumption
    | intro _
    | with_reducible apply KeepsO.next
    | with_reducible apply Keeps.ite
    | with_reducible apply Keeps.skAlu

theorem Keeps.of_execAddi (k : Fin 4) (e : Ecc) (rd : Rg) (ra : Rg) (imm : BitVec 18) (s : State) (hs : Keeps μ σ s) (m_space : μ .space) (m_free : μ .free) (m_ten : μ .ten) (m_ic : μ .ic) (m_sk : μ .sk) :
    KeepsO μ σ (execAddi k e rd ra imm s) := by
  unfold execAddi
  repeat' first
    | with_reducible assumption
    | intro _
    | with_reducible apply KeepsO.next
    | with_reducible apply Keeps.ite
    | with_reducible apply Keeps.skImm

theorem Keeps.of_execAndi (k : Fin 4) (e : Ecc) (rd : Rg) (ra : Rg) (imm : BitVec 18) (s : State) (hs : Keeps μ σ s) (m_space : μ .space) (m_free : μ .free) (m_ten : μ .ten) (m_ic : μ .ic) (m_sk : μ .sk) :
    KeepsO μ σ (execAndi k e rd ra imm s) := by
  unfold execAndi
  repeat' first
    | with_reducible assumption
    | intro _
    | with_reducible apply KeepsO.next
    | with_reducible apply Keeps.ite
    | with_reducible apply Keeps.skImm

theorem Keeps.of_execIori (k : Fin 4) (e : Ecc) (rd : Rg) (ra : Rg) (imm : BitVec 18) (s : State) (hs : Keeps μ σ s) (m_space : μ .space) (m_free : μ .free) (m_ten : μ .ten) (m_ic : μ .ic) (m_sk : μ .sk) :
    KeepsO μ σ (execIori k e rd ra imm s) := by
  unfold execIori
  repeat' first
    | with_reducible assumption
    | intro _
    | with_reducible apply KeepsO.next
    | with_reducible apply Keeps.ite
    | with_reducible apply Keeps.skImm

theorem Keeps.of_execEori (k : Fin 4) (e : Ecc) (rd : Rg) (ra : Rg) (imm : BitVec 18) (s : State) (hs : Keeps μ σ s) (m_space : μ .space) (m_free : μ .free) (m_ten : μ .ten) (m_ic : μ .ic) (m_sk : μ .sk) :
    KeepsO μ σ (execEori k e rd ra imm s) := by
  unfold execEori
  repeat' first
    | with_reducible assumption
    | intro _
    | with_reducible apply KeepsO.next
    | with_reducible apply Keeps.ite
    | with_reducible apply Keeps.skImm

theorem Keeps.of_execCmpi (k : Fin 4) (e : Ecc) (rd : Rg) (ra : Rg) (imm : BitVec 18) (s : State) (hs : Keeps μ σ s) (m_space : μ .space) (m_free : μ .free) (m_ten : μ .ten) (m_ic : μ .ic) (m_sk : μ .sk) :
    KeepsO μ σ (execCmpi k e rd ra imm s) := by
  unfold execCmpi
  repeat' first
    | with_reducible assumption
    | intro _
    | with_reducible apply KeepsO.next
    | with_reducible apply Keeps.ite
    | with_reducible apply Keeps.skImm

theorem Keeps.of_execCmpui (k : Fin 4) (e : Ecc) (rd : Rg) (ra : Rg) (imm : BitVec 18) (s : State) (hs : Keeps μ σ s) (m_space : μ .space) (m_free : μ .free) (m_ten : μ .ten) (m_ic : μ .ic) (m_sk : μ .sk) :
    KeepsO μ σ (execCmpui k e rd ra imm s) := by
  unfold execCmpui
  repeat' first
    | with_reducible assumption
    | intro _
    | with_reducible apply KeepsO.next
    | with_reducible apply Keeps.ite
    | with_reducible apply Keeps.skImm

theorem Keeps.of_execShli (k : Fin 4) (e : Ecc) (rd : Rg) (ra : Rg) (imm : BitVec 18) (s : State) (hs : Keeps μ σ s) (m_space : μ .space) (m_free : μ .free) (m_ten : μ .ten) (m_ic : μ .ic) (m_sk : μ .sk) :
    KeepsO μ σ (execShli k e rd ra imm s) := by
  unfold execShli
  repeat' first
    | with_reducible assumption
    | intro _
    | with_reducible apply KeepsO.next
    | with_reducible apply Keeps.ite
    | with_reducible apply Keeps.skShImm

theorem Keeps.of_execShri (k : Fin 4) (e : Ecc) (rd : Rg) (ra : Rg) (imm : BitVec 18) (s : State) (hs : Keeps μ σ s) (m_space : μ .space) (m_free : μ .free) (m_ten : μ .ten) (m_ic : μ .ic) (m_sk : μ .sk) :
    KeepsO μ σ (execShri k e rd ra imm s) := by
  unfold execShri
  repeat' first
    | with_reducible assumption
    | intro _
    | with_reducible apply KeepsO.next
    | with_reducible apply Keeps.ite
    | with_reducible apply Keeps.skShImm

theorem Keeps.of_execAsri (k : Fin 4) (e : Ecc) (rd : Rg) (ra : Rg) (imm : BitVec 18) (s : State) (hs : Keeps μ σ s) (m_space : μ .space) (m_free : μ .free) (m_ten : μ .ten) (m_ic : μ .ic) (m_sk : μ .sk) :
    KeepsO μ σ (execAsri k e rd ra imm s) := by
  unfold execAsri
  repeat' first
    | with_reducible assumption
    | intro _
    | with_reducible apply KeepsO.next
    | with_reducible apply Keeps.ite
    | with_reducible apply Keeps.skShImm

theorem Keeps.of_execLhi (k : Fin 4) (e : Ecc) (rd : Rg) (imm : BitVec 22) (s : State) (hs : Keeps μ σ s) (m_space : μ .space) (m_free : μ .free) (m_ten : μ .ten) (m_ic : μ .ic) (m_sk : μ .sk) :
    KeepsO μ σ (execLhi k e rd imm s) := by
  unfold execLhi
  repeat' first
    | with_reducible assumption
    | intro _
    | with_reducible apply KeepsO.next
    | with_reducible apply Keeps.ite
    | with_reducible apply Keeps.skStep
    | with_reducible apply Keeps.skWrite

theorem Keeps.of_execRori (k : Fin 4) (e : Ecc) (rd : Rg) (ra : Rg) (imm : BitVec 18) (s : State) (hs : Keeps μ σ s) (m_space : μ .space) (m_free : μ .free) (m_ten : μ .ten) (m_ic : μ .ic) (m_sk : μ .sk) :
    KeepsO μ σ (execRori k e rd ra imm s) := by
  unfold execRori
  repeat' first
    | with_reducible assumption
    | intro _
    | with_reducible apply KeepsO.next
    | with_reducible apply Keeps.ite
    | with_reducible apply Keeps.skShImm

theorem Keeps.of_execBeq (k : Fin 4) (e : Ecc) (ra : Rg) (rb : Rg) (off : BitVec 18) (s : State) (hs : Keeps μ σ s) (m_space : μ .space) (m_free : μ .free) (m_ten : μ .ten) (m_ic : μ .ic) (m_sk : μ .sk) :
    KeepsO μ σ (execBeq k e ra rb off s) := by
  unfold execBeq
  repeat' first
    | with_reducible assumption
    | intro _
    | with_reducible apply KeepsO.next
    | with_reducible apply Keeps.ite
    | with_reducible apply Keeps.skBranch

theorem Keeps.of_execBne (k : Fin 4) (e : Ecc) (ra : Rg) (rb : Rg) (off : BitVec 18) (s : State) (hs : Keeps μ σ s) (m_space : μ .space) (m_free : μ .free) (m_ten : μ .ten) (m_ic : μ .ic) (m_sk : μ .sk) :
    KeepsO μ σ (execBne k e ra rb off s) := by
  unfold execBne
  repeat' first
    | with_reducible assumption
    | intro _
    | with_reducible apply KeepsO.next
    | with_reducible apply Keeps.ite
    | with_reducible apply Keeps.skBranch

theorem Keeps.of_execBlz (k : Fin 4) (e : Ecc) (ra : Rg) (off : BitVec 18) (s : State) (hs : Keeps μ σ s) (m_space : μ .space) (m_free : μ .free) (m_ten : μ .ten) (m_ic : μ .ic) (m_sk : μ .sk) :
    KeepsO μ σ (execBlz k e ra off s) := by
  unfold execBlz
  repeat' first
    | with_reducible assumption
    | intro _
    | with_reducible apply KeepsO.next
    | with_reducible apply Keeps.ite
    | with_reducible apply Keeps.skBranch

theorem Keeps.of_execBgez (k : Fin 4) (e : Ecc) (ra : Rg) (off : BitVec 18) (s : State) (hs : Keeps μ σ s) (m_space : μ .space) (m_free : μ .free) (m_ten : μ .ten) (m_ic : μ .ic) (m_sk : μ .sk) :
    KeepsO μ σ (execBgez k e ra off s) := by
  unfold execBgez
  repeat' first
    | with_reducible assumption
    | intro _
    | with_reducible apply KeepsO.next
    | with_reducible apply Keeps.ite
    | with_reducible apply Keeps.skBranch

theorem Keeps.of_execBgz (k : Fin 4) (e : Ecc) (ra : Rg) (off : BitVec 18) (s : State) (hs : Keeps μ σ s) (m_space : μ .space) (m_free : μ .free) (m_ten : μ .ten) (m_ic : μ .ic) (m_sk : μ .sk) :
    KeepsO μ σ (execBgz k e ra off s) := by
  unfold execBgz
  repeat' first
    | with_reducible assumption
    | intro _
    | with_reducible apply KeepsO.next
    | with_reducible apply Keeps.ite
    | with_reducible apply Keeps.skBranch

theorem Keeps.of_execBlez (k : Fin 4) (e : Ecc) (ra : Rg) (off : BitVec 18) (s : State) (hs : Keeps μ σ s) (m_space : μ .space) (m_free : μ .free) (m_ten : μ .ten) (m_ic : μ .ic) (m_sk : μ .sk) :
    KeepsO μ σ (execBlez k e ra off s) := by
  unfold execBlez
  repeat' first
    | with_reducible assumption
    | intro _
    | with_reducible apply KeepsO.next
    | with_reducible apply Keeps.ite
    | with_reducible apply Keeps.skBranch

theorem Keeps.of_execJmp (k : Fin 4) (e : Ecc) (off : BitVec 26) (s : State) (hs : Keeps μ σ s) (m_space : μ .space) (m_free : μ .free) (m_ten : μ .ten) (m_ic : μ .ic) (m_sk : μ .sk) :
    KeepsO μ σ (execJmp k e off s) := by
  unfold execJmp
  repeat' first
    | with_reducible assumption
    | intro _
    | with_reducible apply KeepsO.next
    | with_reducible apply Keeps.ite
    | ((fail_if_no_progress extract_lets +onlyGivenNames x); first | (refine Keeps.bind x ?_ ?_; (try subst x); rotate_left; intro hx; rotate_left) | (refine KeepsO.bind x ?_ ?_; (try subst x); rotate_left; intro hx; rotate_left) | skip)
    | with_reducible apply Keeps.setCore
    | with_reducible apply Keeps.skStep

theorem Keeps.of_execCall (k : Fin 4) (e : Ecc) (off : BitVec 26) (s : State) (hs : Keeps μ σ s) (m_space : μ .space) (m_free : μ .free) (m_ten : μ .ten) (m_ic : μ .ic) (m_sk : μ .sk) :
    KeepsO μ σ (execCall k e off s) := by
  unfold execCall
  repeat' first
    | with_reducible assumption
    | intro _
    | with_reducible apply KeepsO.next
    | with_reducible apply Keeps.ite
    | ((fail_if_no_progress extract_lets +onlyGivenNames x); first | (refine Keeps.bind x ?_ ?_; (try subst x); rotate_left; intro hx; rotate_left) | (refine KeepsO.bind x ?_ ?_; (try subst x); rotate_left; intro hx; rotate_left) | skip)
    | with_reducible apply Keeps.setCore
    | with_reducible apply Keeps.skStep

theorem Keeps.of_execJind (k : Fin 4) (e : Ecc) (rd : Rg) (ra : Rg) (imm : BitVec 18) (s : State) (hs : Keeps μ σ s) (m_space : μ .space) (m_free : μ .free) (m_ten : μ .ten) (m_ic : μ .ic) (m_sk : μ .sk) :
    KeepsO μ σ (execJind k e rd ra imm s) := by
  unfold execJind
  repeat' first
    | with_reducible assumption
    | intro _
    | with_reducible apply KeepsO.next
    | with_reducible apply Keeps.ite
    | ((fail_if_no_progress extract_lets +onlyGivenNames x); first | (refine Keeps.bind x ?_ ?_; (try subst x); rotate_left; intro hx; rotate_left) | (refine KeepsO.bind x ?_ ?_; (try subst x); rotate_left; intro hx; rotate_left) | skip)
    | with_reducible apply Keeps.setCore
    | with_reducible apply Keeps.skCause
    | with_reducible apply Keeps.skStep

theorem Keeps.of_execPld (k : Fin 4) (e : Ecc) (rd : Rg) (ra : Rg) (imm : BitVec 18) (pe : Ecc) (s : State) (hs : Keeps μ σ s) (m_space : μ .space) (m_free : μ .free) (m_ten : μ .ten) (m_ic : μ .ic) (m_broken : μ .broken) (m_fwd : μ .fwd) (m_sk : μ .sk) :
    KeepsO μ σ (execPld k e rd ra imm pe s) := by
  unfold execPld
  repeat' first
    | with_reducible assumption
    | intro _
    | with_reducible apply KeepsO.next
    | with_reducible apply Keeps.ite
    | ((fail_if_no_progress extract_lets +onlyGivenNames x); first | (refine Keeps.bind x ?_ ?_; (try subst x); rotate_left; intro hx; rotate_left) | (refine KeepsO.bind x ?_ ?_; (try subst x); rotate_left; intro hx; rotate_left) | skip)
    | with_reducible apply Keeps.inc
    | with_reducible apply Keeps.ptEcc
    | with_reducible apply Keeps.setCore
    | with_reducible apply Keeps.skCause
    | with_reducible apply Keeps.skStep

theorem Keeps.skPoint3 (s : State) (k : Fin 4) (e : Ecc) (rd : Rg) (ra : Rg) (rb : Rg) (pe : Ecc) (f : ℕ → State → State) (hs : Keeps μ σ s) (hf : ∀ a0 a1, Keeps μ σ a1 → Keeps μ σ (f a0 a1)) (m_space : μ .space) (m_free : μ .free) (m_ten : μ .ten) (m_ic : μ .ic) (m_broken : μ .broken) (m_fwd : μ .fwd) (m_sk : μ .sk) :
    Keeps μ σ (State.skPoint3 s k e rd ra rb pe f) := by
  unfold State.skPoint3
  repeat' first
    | with_reducible assumption
    | intro _
    | with_reducible apply Keeps.ite
    | ((fail_if_no_progress extract_lets +onlyGivenNames x); first | (refine Keeps.bind x ?_ ?_; (try subst x); rotate_left; intro hx; rotate_left) | skip)
    | with_reducible apply hf
    | with_reducible apply Keeps.ptEcc
    | with_reducible apply Keeps.skCause
    | with_reducible apply Keeps.skStep
    | with_reducible apply Keeps.skWrite
    | split
    | simp only [id_eq]

theorem Keeps.of_execPwr (k : Fin 4) (e : Ecc) (rd : Rg) (ra : Rg) (rb : Rg) (prio : BitVec 4) (pe : Ecc) (s : State) (hs : Keeps μ σ s) (m_space : μ .space) (m_free : μ .free) (m_wres : μ .wres) (m_log : μ .log) (m_ten : μ .ten) (m_ic : μ .ic) (m_broken : μ .broken) (m_safe : μ .safe) (m_cmds : μ .cmds) (m_cd : μ .cd) (m_fwd : μ .fwd) (m_sk : μ .sk) :
    KeepsO μ σ (execPwr k e rd ra rb prio pe s) := by
  unfold execPwr
  repeat' first
    | with_reducible assumption
    | intro _
    | with_reducible apply KeepsO.next
    | with_reducible apply Keeps.ite
    | with_reducible apply Keeps.ptWrite
    | with_reducible apply Keeps.skPoint3

theorem Keeps.of_execPrel (k : Fin 4) (e : Ecc) (rd : Rg) (ra : Rg) (prio : BitVec 4) (pe : Ecc) (s : State) (hs : Keeps μ σ s) (m_space : μ .space) (m_free : μ .free) (m_wres : μ .wres) (m_log : μ .log) (m_ten : μ .ten) (m_ic : μ .ic) (m_broken : μ .broken) (m_safe : μ .safe) (m_cmds : μ .cmds) (m_cd : μ .cd) (m_fwd : μ .fwd) (m_sk : μ .sk) :
    KeepsO μ σ (execPrel k e rd ra prio pe s) := by
  unfold execPrel
  repeat' first
    | with_reducible assumption
    | intro _
    | with_reducible apply KeepsO.next
    | with_reducible apply Keeps.ite
    | with_reducible apply Keeps.ptWrite
    | with_reducible apply Keeps.skPoint3

theorem Keeps.of_execPsrc (k : Fin 4) (e : Ecc) (rd : Rg) (ra : Rg) (rb : Rg) (word : BitVec 4) (prio : BitVec 4) (pe : Ecc) (s : State) (hs : Keeps μ σ s) (m_space : μ .space) (m_free : μ .free) (m_wres : μ .wres) (m_log : μ .log) (m_ten : μ .ten) (m_ic : μ .ic) (m_broken : μ .broken) (m_safe : μ .safe) (m_cmds : μ .cmds) (m_cd : μ .cd) (m_fwd : μ .fwd) (m_sk : μ .sk) :
    KeepsO μ σ (execPsrc k e rd ra rb word prio pe s) := by
  unfold execPsrc
  repeat' first
    | with_reducible assumption
    | intro _
    | with_reducible apply KeepsO.next
    | with_reducible apply Keeps.ite
    | with_reducible apply Keeps.ptSource
    | with_reducible apply Keeps.skCause
    | with_reducible apply Keeps.skPoint3
    | with_reducible apply Keeps.skStep

theorem Keeps.of_execLxrr (k : Fin 4) (e : Ecc) (rd : Rg) (ra : Rg) (word : BitVec 4) (s : State) (hs : Keeps μ σ s) (m_space : μ .space) (m_free : μ .free) (m_ten : μ .ten) (m_ic : μ .ic) (m_sk : μ .sk) :
    KeepsO μ σ (execLxrr k e rd ra word s) := by
  unfold execLxrr
  repeat' first
    | with_reducible assumption
    | intro _
    | with_reducible apply KeepsO.next
    | with_reducible apply Keeps.ite
    | ((fail_if_no_progress extract_lets +onlyGivenNames x); first | (refine Keeps.bind x ?_ ?_; (try subst x); rotate_left; intro hx; rotate_left) | (refine KeepsO.bind x ?_ ?_; (try subst x); rotate_left; intro hx; rotate_left) | skip)
    | with_reducible apply Keeps.lxIssue
    | with_reducible apply Keeps.lxRead
    | split
    | simp only [id_eq]

theorem Keeps.of_execLxrs (k : Fin 4) (e : Ecc) (rd : Rg) (ra : Rg) (word : BitVec 4) (s : State) (hs : Keeps μ σ s) (m_space : μ .space) (m_free : μ .free) (m_ten : μ .ten) (m_ic : μ .ic) (m_sk : μ .sk) :
    KeepsO μ σ (execLxrs k e rd ra word s) := by
  unfold execLxrs
  repeat' first
    | with_reducible assumption
    | intro _
    | with_reducible apply KeepsO.next
    | with_reducible apply Keeps.ite
    | ((fail_if_no_progress extract_lets +onlyGivenNames x); first | (refine Keeps.bind x ?_ ?_; (try subst x); rotate_left; intro hx; rotate_left) | (refine KeepsO.bind x ?_ ?_; (try subst x); rotate_left; intro hx; rotate_left) | skip)
    | with_reducible apply Keeps.lxIssue
    | with_reducible apply Keeps.lxRead
    | with_reducible apply Keeps.skCause
    | with_reducible apply Keeps.skStep
    | split
    | simp only [id_eq]

theorem Keeps.of_execLxwr (k : Fin 4) (e : Ecc) (ra : Rg) (rb : Rg) (word : BitVec 4) (s : State) (hs : Keeps μ σ s) (m_space : μ .space) (m_free : μ .free) (m_ten : μ .ten) (m_ic : μ .ic) (m_sk : μ .sk) (m_le : μ .le) :
    KeepsO μ σ (execLxwr k e ra rb word s) := by
  unfold execLxwr
  repeat' first
    | with_reducible assumption
    | intro _
    | with_reducible apply KeepsO.next
    | with_reducible apply Keeps.ite
    | ((fail_if_no_progress extract_lets +onlyGivenNames x); first | (refine Keeps.bind x ?_ ?_; (try subst x); rotate_left; intro hx; rotate_left) | (refine KeepsO.bind x ?_ ?_; (try subst x); rotate_left; intro hx; rotate_left) | skip)
    | with_reducible apply Keeps.lxChange
    | split
    | simp only [id_eq]

theorem Keeps.of_execLxsw (k : Fin 4) (e : Ecc) (ra : Rg) (rb : Rg) (s : State) (hs : Keeps μ σ s) (m_space : μ .space) (m_free : μ .free) (m_ten : μ .ten) (m_ic : μ .ic) (m_sk : μ .sk) (m_le : μ .le) :
    KeepsO μ σ (execLxsw k e ra rb s) := by
  unfold execLxsw
  repeat' first
    | with_reducible assumption
    | intro _
    | with_reducible apply KeepsO.next
    | with_reducible apply Keeps.ite
    | ((fail_if_no_progress extract_lets +onlyGivenNames x); first | (refine Keeps.bind x ?_ ?_; (try subst x); rotate_left; intro hx; rotate_left) | (refine KeepsO.bind x ?_ ?_; (try subst x); rotate_left; intro hx; rotate_left) | skip)
    | with_reducible apply Keeps.lxChange
    | split
    | simp only [id_eq]

theorem Keeps.of_execLxgs (k : Fin 4) (e : Ecc) (rb : Rg) (s : State) (hs : Keeps μ σ s) (m_space : μ .space) (m_free : μ .free) (m_ten : μ .ten) (m_ic : μ .ic) (m_sk : μ .sk) (m_le : μ .le) :
    KeepsO μ σ (execLxgs k e rb s) := by
  unfold execLxgs
  repeat' first
    | with_reducible assumption
    | intro _
    | with_reducible apply KeepsO.next
    | with_reducible apply Keeps.ite
    | ((fail_if_no_progress extract_lets +onlyGivenNames x); first | (refine Keeps.bind x ?_ ?_; (try subst x); rotate_left; intro hx; rotate_left) | (refine KeepsO.bind x ?_ ?_; (try subst x); rotate_left; intro hx; rotate_left) | skip)
    | with_reducible apply Keeps.lxChange
    | split
    | simp only [id_eq]

theorem Keeps.of_execLxri (k : Fin 4) (e : Ecc) (ra : Rg) (s : State) (hs : Keeps μ σ s) (m_space : μ .space) (m_free : μ .free) (m_ten : μ .ten) (m_ic : μ .ic) (m_sk : μ .sk) (m_le : μ .le) :
    KeepsO μ σ (execLxri k e ra s) := by
  unfold execLxri
  repeat' first
    | with_reducible assumption
    | intro _
    | with_reducible apply KeepsO.next
    | with_reducible apply Keeps.ite
    | ((fail_if_no_progress extract_lets +onlyGivenNames x); first | (refine Keeps.bind x ?_ ?_; (try subst x); rotate_left; intro hx; rotate_left) | (refine KeepsO.bind x ?_ ?_; (try subst x); rotate_left; intro hx; rotate_left) | skip)
    | with_reducible apply Keeps.lxChange
    | split
    | simp only [id_eq]

theorem Keeps.of_execLxfo (k : Fin 4) (e : Ecc) (ra : Rg) (rb : Rg) (prio : BitVec 4) (s : State) (hs : Keeps μ σ s) (m_space : μ .space) (m_free : μ .free) (m_ten : μ .ten) (m_ic : μ .ic) (m_sk : μ .sk) (m_le : μ .le) :
    KeepsO μ σ (execLxfo k e ra rb prio s) := by
  unfold execLxfo
  repeat' first
    | with_reducible assumption
    | intro _
    | with_reducible apply KeepsO.next
    | with_reducible apply Keeps.ite
    | ((fail_if_no_progress extract_lets +onlyGivenNames x); first | (refine Keeps.bind x ?_ ?_; (try subst x); rotate_left; intro hx; rotate_left) | (refine KeepsO.bind x ?_ ?_; (try subst x); rotate_left; intro hx; rotate_left) | skip)
    | with_reducible apply Keeps.lxChange
    | split
    | simp only [id_eq]

theorem Keeps.of_execLxfr (k : Fin 4) (e : Ecc) (ra : Rg) (prio : BitVec 4) (s : State) (hs : Keeps μ σ s) (m_space : μ .space) (m_free : μ .free) (m_ten : μ .ten) (m_ic : μ .ic) (m_sk : μ .sk) (m_le : μ .le) :
    KeepsO μ σ (execLxfr k e ra prio s) := by
  unfold execLxfr
  repeat' first
    | with_reducible assumption
    | intro _
    | with_reducible apply KeepsO.next
    | with_reducible apply Keeps.ite
    | ((fail_if_no_progress extract_lets +onlyGivenNames x); first | (refine Keeps.bind x ?_ ?_; (try subst x); rotate_left; intro hx; rotate_left) | (refine KeepsO.bind x ?_ ?_; (try subst x); rotate_left; intro hx; rotate_left) | skip)
    | with_reducible apply Keeps.lxChange
    | split
    | simp only [id_eq]

theorem Keeps.of_execLxsync (k : Fin 4) (e : Ecc) (rd : Rg) (s : State) (hs : Keeps μ σ s) (m_space : μ .space) (m_free : μ .free) (m_ten : μ .ten) (m_ic : μ .ic) (m_sk : μ .sk) :
    KeepsO μ σ (execLxsync k e rd s) := by
  unfold execLxsync
  repeat' first
    | with_reducible assumption
    | intro _
    | with_reducible apply KeepsO.next
    | with_reducible apply Keeps.ite
    | ((fail_if_no_progress extract_lets +onlyGivenNames x); first | (refine Keeps.bind x ?_ ?_; (try subst x); rotate_left; intro hx; rotate_left) | (refine KeepsO.bind x ?_ ?_; (try subst x); rotate_left; intro hx; rotate_left) | skip)
    | with_reducible apply Keeps.setCore
    | with_reducible apply Keeps.skFence
    | with_reducible apply Keeps.skStep

theorem Keeps.of_execDone (k : Fin 4) (e : Ecc) (stall : ℕ) (s : State) (hs : Keeps μ σ s) (m_space : μ .space) (m_free : μ .free) (m_ten : μ .ten) (m_ic : μ .ic) (m_sk : μ .sk) :
    KeepsO μ σ (execDone k e stall s) := by
  unfold execDone
  repeat' first
    | with_reducible assumption
    | intro _
    | with_reducible apply KeepsO.next
    | with_reducible apply Keeps.ite
    | ((fail_if_no_progress extract_lets +onlyGivenNames x); first | (refine Keeps.bind x ?_ ?_; (try subst x); rotate_left; intro hx; rotate_left) | (refine KeepsO.bind x ?_ ?_; (try subst x); rotate_left; intro hx; rotate_left) | skip)
    | with_reducible apply Keeps.setCore
    | with_reducible apply Keeps.skFence
    | with_reducible apply Keeps.skStep

theorem Keeps.of_execBrk (k : Fin 4) (e : Ecc) (s : State) (hs : Keeps μ σ s) (m_space : μ .space) (m_free : μ .free) (m_ten : μ .ten) (m_ic : μ .ic) (m_sk : μ .sk) :
    KeepsO μ σ (execBrk k e s) := by
  unfold execBrk
  repeat' first
    | with_reducible assumption
    | intro _
    | with_reducible apply KeepsO.next
    | with_reducible apply Keeps.ite
    | with_reducible apply Keeps.skCause
    | with_reducible apply Keeps.skStep

theorem Keeps.of_execSig (k : Fin 4) (e : Ecc) (imm : BitVec 8) (s : State) (hs : Keeps μ σ s) (m_space : μ .space) (m_free : μ .free) (m_ten : μ .ten) (m_ic : μ .ic) (m_sk : μ .sk) :
    KeepsO μ σ (execSig k e imm s) := by
  unfold execSig
  repeat' first
    | with_reducible assumption
    | intro _
    | with_reducible apply KeepsO.next
    | with_reducible apply Keeps.ite
    | ((fail_if_no_progress extract_lets +onlyGivenNames x); first | (refine Keeps.bind x ?_ ?_; (try subst x); rotate_left; intro hx; rotate_left) | (refine KeepsO.bind x ?_ ?_; (try subst x); rotate_left; intro hx; rotate_left) | skip)
    | with_reducible apply Keeps.icSet
    | with_reducible apply Keeps.setCore
    | with_reducible apply Keeps.skCause
    | with_reducible apply Keeps.skStep

theorem Keeps.of_execRdt (k : Fin 4) (e : Ecc) (rd : Rg) (imm : BitVec 8) (stall : ℕ) (s : State) (hs : Keeps μ σ s) (m_space : μ .space) (m_free : μ .free) (m_ten : μ .ten) (m_ic : μ .ic) (m_sk : μ .sk) :
    KeepsO μ σ (execRdt k e rd imm stall s) := by
  unfold execRdt
  repeat' first
    | with_reducible assumption
    | intro _
    | with_reducible apply KeepsO.next
    | with_reducible apply Keeps.ite
    | ((fail_if_no_progress extract_lets +onlyGivenNames x); first | (refine Keeps.bind x ?_ ?_; (try subst x); rotate_left; intro hx; rotate_left) | (refine KeepsO.bind x ?_ ?_; (try subst x); rotate_left; intro hx; rotate_left) | skip)
    | with_reducible apply Keeps.setCore
    | with_reducible apply Keeps.skCause
    | with_reducible apply Keeps.skStep

theorem Keeps.of_execEret (k : Fin 4) (e : Ecc) (s : State) (hs : Keeps μ σ s) (m_space : μ .space) (m_free : μ .free) (m_ten : μ .ten) (m_ic : μ .ic) (m_sk : μ .sk) :
    KeepsO μ σ (execEret k e s) := by
  unfold execEret
  repeat' first
    | with_reducible assumption
    | intro _
    | with_reducible apply KeepsO.next
    | with_reducible apply Keeps.ite
    | ((fail_if_no_progress extract_lets +onlyGivenNames x); first | (refine Keeps.bind x ?_ ?_; (try subst x); rotate_left; intro hx; rotate_left) | (refine KeepsO.bind x ?_ ?_; (try subst x); rotate_left; intro hx; rotate_left) | skip)
    | with_reducible apply Keeps.setCore
    | with_reducible apply Keeps.skCause
    | with_reducible apply Keeps.skStep

theorem Keeps.of_execCflg (k : Fin 4) (e : Ecc) (rd : Rg) (s : State) (hs : Keeps μ σ s) (m_space : μ .space) (m_free : μ .free) (m_ten : μ .ten) (m_ic : μ .ic) (m_sk : μ .sk) :
    KeepsO μ σ (execCflg k e rd s) := by
  unfold execCflg
  repeat' first
    | with_reducible assumption
    | intro _
    | with_reducible apply KeepsO.next
    | with_reducible apply Keeps.ite
    | ((fail_if_no_progress extract_lets +onlyGivenNames x); first | (refine Keeps.bind x ?_ ?_; (try subst x); rotate_left; intro hx; rotate_left) | (refine KeepsO.bind x ?_ ?_; (try subst x); rotate_left; intro hx; rotate_left) | skip)
    | with_reducible apply Keeps.setCore
    | with_reducible apply Keeps.skStep

theorem Keeps.of_execFadd (k : Fin 4) (e : Ecc) (rd : Rg) (ra : Rg) (rb : Rg) (s : State) (hs : Keeps μ σ s) (m_space : μ .space) (m_free : μ .free) (m_ten : μ .ten) (m_ic : μ .ic) (m_sk : μ .sk) :
    KeepsO μ σ (execFadd k e rd ra rb s) := by
  unfold execFadd
  repeat' first
    | with_reducible assumption
    | intro _
    | with_reducible apply KeepsO.next
    | with_reducible apply Keeps.ite
    | with_reducible apply Keeps.skAlu

theorem Keeps.of_execFsub (k : Fin 4) (e : Ecc) (rd : Rg) (ra : Rg) (rb : Rg) (s : State) (hs : Keeps μ σ s) (m_space : μ .space) (m_free : μ .free) (m_ten : μ .ten) (m_ic : μ .ic) (m_sk : μ .sk) :
    KeepsO μ σ (execFsub k e rd ra rb s) := by
  unfold execFsub
  repeat' first
    | with_reducible assumption
    | intro _
    | with_reducible apply KeepsO.next
    | with_reducible apply Keeps.ite
    | with_reducible apply Keeps.skAlu

theorem Keeps.of_execFmul (k : Fin 4) (e : Ecc) (rd : Rg) (ra : Rg) (rb : Rg) (s : State) (hs : Keeps μ σ s) (m_space : μ .space) (m_free : μ .free) (m_ten : μ .ten) (m_ic : μ .ic) (m_sk : μ .sk) :
    KeepsO μ σ (execFmul k e rd ra rb s) := by
  unfold execFmul
  repeat' first
    | with_reducible assumption
    | intro _
    | with_reducible apply KeepsO.next
    | with_reducible apply Keeps.ite
    | with_reducible apply Keeps.skAlu

theorem Keeps.of_execFdiv (k : Fin 4) (e : Ecc) (rd : Rg) (ra : Rg) (rb : Rg) (s : State) (hs : Keeps μ σ s) (m_space : μ .space) (m_free : μ .free) (m_ten : μ .ten) (m_ic : μ .ic) (m_sk : μ .sk) :
    KeepsO μ σ (execFdiv k e rd ra rb s) := by
  unfold execFdiv
  repeat' first
    | with_reducible assumption
    | intro _
    | with_reducible apply KeepsO.next
    | with_reducible apply Keeps.ite
    | with_reducible apply Keeps.skAlu

theorem Keeps.of_execFmin (k : Fin 4) (e : Ecc) (rd : Rg) (ra : Rg) (rb : Rg) (s : State) (hs : Keeps μ σ s) (m_space : μ .space) (m_free : μ .free) (m_ten : μ .ten) (m_ic : μ .ic) (m_sk : μ .sk) :
    KeepsO μ σ (execFmin k e rd ra rb s) := by
  unfold execFmin
  repeat' first
    | with_reducible assumption
    | intro _
    | with_reducible apply KeepsO.next
    | with_reducible apply Keeps.ite
    | with_reducible apply Keeps.skAlu

theorem Keeps.of_execFmax (k : Fin 4) (e : Ecc) (rd : Rg) (ra : Rg) (rb : Rg) (s : State) (hs : Keeps μ σ s) (m_space : μ .space) (m_free : μ .free) (m_ten : μ .ten) (m_ic : μ .ic) (m_sk : μ .sk) :
    KeepsO μ σ (execFmax k e rd ra rb s) := by
  unfold execFmax
  repeat' first
    | with_reducible assumption
    | intro _
    | with_reducible apply KeepsO.next
    | with_reducible apply Keeps.ite
    | with_reducible apply Keeps.skAlu

theorem Keeps.of_execFabs (k : Fin 4) (e : Ecc) (rd : Rg) (ra : Rg) (s : State) (hs : Keeps μ σ s) (m_space : μ .space) (m_free : μ .free) (m_ten : μ .ten) (m_ic : μ .ic) (m_sk : μ .sk) :
    KeepsO μ σ (execFabs k e rd ra s) := by
  unfold execFabs
  repeat' first
    | with_reducible assumption
    | intro _
    | with_reducible apply KeepsO.next
    | with_reducible apply Keeps.ite
    | with_reducible apply Keeps.skAlu

theorem Keeps.of_execFneg (k : Fin 4) (e : Ecc) (rd : Rg) (ra : Rg) (s : State) (hs : Keeps μ σ s) (m_space : μ .space) (m_free : μ .free) (m_ten : μ .ten) (m_ic : μ .ic) (m_sk : μ .sk) :
    KeepsO μ σ (execFneg k e rd ra s) := by
  unfold execFneg
  repeat' first
    | with_reducible assumption
    | intro _
    | with_reducible apply KeepsO.next
    | with_reducible apply Keeps.ite
    | with_reducible apply Keeps.skAlu

theorem Keeps.of_execFsqrt (k : Fin 4) (e : Ecc) (rd : Rg) (ra : Rg) (s : State) (hs : Keeps μ σ s) (m_space : μ .space) (m_free : μ .free) (m_ten : μ .ten) (m_ic : μ .ic) (m_sk : μ .sk) :
    KeepsO μ σ (execFsqrt k e rd ra s) := by
  unfold execFsqrt
  repeat' first
    | with_reducible assumption
    | intro _
    | with_reducible apply KeepsO.next
    | with_reducible apply Keeps.ite
    | with_reducible apply Keeps.skAlu

theorem Keeps.of_execFcmp (k : Fin 4) (e : Ecc) (rd : Rg) (ra : Rg) (rb : Rg) (s : State) (hs : Keeps μ σ s) (m_space : μ .space) (m_free : μ .free) (m_ten : μ .ten) (m_ic : μ .ic) (m_sk : μ .sk) :
    KeepsO μ σ (execFcmp k e rd ra rb s) := by
  unfold execFcmp
  repeat' first
    | with_reducible assumption
    | intro _
    | with_reducible apply KeepsO.next
    | with_reducible apply Keeps.ite
    | with_reducible apply Keeps.skAlu

theorem Keeps.of_execFtoi (k : Fin 4) (e : Ecc) (rd : Rg) (ra : Rg) (s : State) (hs : Keeps μ σ s) (m_space : μ .space) (m_free : μ .free) (m_ten : μ .ten) (m_ic : μ .ic) (m_sk : μ .sk) :
    KeepsO μ σ (execFtoi k e rd ra s) := by
  unfold execFtoi
  repeat' first
    | with_reducible assumption
    | intro _
    | with_reducible apply KeepsO.next
    | with_reducible apply Keeps.ite
    | with_reducible apply Keeps.skAlu

theorem Keeps.of_execItof (k : Fin 4) (e : Ecc) (rd : Rg) (ra : Rg) (s : State) (hs : Keeps μ σ s) (m_space : μ .space) (m_free : μ .free) (m_ten : μ .ten) (m_ic : μ .ic) (m_sk : μ .sk) :
    KeepsO μ σ (execItof k e rd ra s) := by
  unfold execItof
  repeat' first
    | with_reducible assumption
    | intro _
    | with_reducible apply KeepsO.next
    | with_reducible apply Keeps.ite
    | with_reducible apply Keeps.skAlu

theorem Keeps.of_execUtof (k : Fin 4) (e : Ecc) (rd : Rg) (ra : Rg) (s : State) (hs : Keeps μ σ s) (m_space : μ .space) (m_free : μ .free) (m_ten : μ .ten) (m_ic : μ .ic) (m_sk : μ .sk) :
    KeepsO μ σ (execUtof k e rd ra s) := by
  unfold execUtof
  repeat' first
    | with_reducible assumption
    | intro _
    | with_reducible apply KeepsO.next
    | with_reducible apply Keeps.ite
    | with_reducible apply Keeps.skAlu

theorem Keeps.of_execFkind (k : Fin 4) (e : Ecc) (rd : Rg) (ra : Rg) (s : State) (hs : Keeps μ σ s) (m_space : μ .space) (m_free : μ .free) (m_ten : μ .ten) (m_ic : μ .ic) (m_sk : μ .sk) :
    KeepsO μ σ (execFkind k e rd ra s) := by
  unfold execFkind
  repeat' first
    | with_reducible assumption
    | intro _
    | with_reducible apply KeepsO.next
    | with_reducible apply Keeps.ite
    | with_reducible apply Keeps.skAlu

theorem Keeps.of_execFrnd (k : Fin 4) (e : Ecc) (rd : Rg) (ra : Rg) (s : State) (hs : Keeps μ σ s) (m_space : μ .space) (m_free : μ .free) (m_ten : μ .ten) (m_ic : μ .ic) (m_sk : μ .sk) :
    KeepsO μ σ (execFrnd k e rd ra s) := by
  unfold execFrnd
  repeat' first
    | with_reducible assumption
    | intro _
    | with_reducible apply KeepsO.next
    | with_reducible apply Keeps.ite
    | with_reducible apply Keeps.skAlu

theorem Keeps.of_execFscl (k : Fin 4) (e : Ecc) (rd : Rg) (ra : Rg) (rb : Rg) (s : State) (hs : Keeps μ σ s) (m_space : μ .space) (m_free : μ .free) (m_ten : μ .ten) (m_ic : μ .ic) (m_sk : μ .sk) :
    KeepsO μ σ (execFscl k e rd ra rb s) := by
  unfold execFscl
  repeat' first
    | with_reducible assumption
    | intro _
    | with_reducible apply KeepsO.next
    | with_reducible apply Keeps.ite
    | with_reducible apply Keeps.skAlu

theorem Keeps.of_execIllegal (k : Fin 4) (e : Ecc) (s : State) (hs : Keeps μ σ s) (m_space : μ .space) (m_free : μ .free) (m_ten : μ .ten) (m_ic : μ .ic) (m_sk : μ .sk) :
    KeepsO μ σ (execIllegal k e s) := by
  unfold execIllegal
  repeat' first
    | with_reducible assumption
    | intro _
    | with_reducible apply KeepsO.next
    | with_reducible apply Keeps.ite
    | with_reducible apply Keeps.skCause
    | with_reducible apply Keeps.skStep

theorem Keeps.of_execIfetch (k : Fin 4) (s : State) (hs : Keeps μ σ s) (m_space : μ .space) (m_free : μ .free) (m_ten : μ .ten) (m_ic : μ .ic) (m_sk : μ .sk) :
    KeepsO μ σ (execIfetch k s) := by
  unfold execIfetch
  repeat' first
    | with_reducible assumption
    | intro _
    | with_reducible apply KeepsO.next
    | with_reducible apply Keeps.ite
    | with_reducible apply Keeps.skCause

theorem Keeps.of_execTaskBudgetExpiry (k : Fin 4) (s : State) (hs : Keeps μ σ s) (m_space : μ .space) (m_free : μ .free) (m_ten : μ .ten) (m_ic : μ .ic) (m_sk : μ .sk) :
    KeepsO μ σ (execTaskBudgetExpiry k s) := by
  unfold execTaskBudgetExpiry
  repeat' first
    | with_reducible assumption
    | intro _
    | with_reducible apply KeepsO.next
    | with_reducible apply Keeps.ite
    | ((fail_if_no_progress extract_lets +onlyGivenNames x); first | (refine Keeps.bind x ?_ ?_; (try subst x); rotate_left; intro hx; rotate_left) | (refine KeepsO.bind x ?_ ?_; (try subst x); rotate_left; intro hx; rotate_left) | skip)
    | with_reducible apply Keeps.setCore
    | with_reducible apply Keeps.skAbort

theorem Keeps.skPeriodic (s : State) (hs : Keeps μ σ s) (m_space : μ .space) (m_sk : μ .sk) :
    Keeps μ σ (State.skPeriodic s) := by
  unfold State.skPeriodic
  repeat' first
    | with_reducible assumption
    | intro _
    | with_reducible apply Keeps.ite
    | with_reducible apply Keeps.each
    | with_reducible apply Keeps.skActivate

theorem Keeps.of_execTaskActivatePeriodic (s : State) (hs : Keeps μ σ s) (m_space : μ .space) (m_sk : μ .sk) :
    KeepsO μ σ (execTaskActivatePeriodic s) := by
  unfold execTaskActivatePeriodic
  repeat' first
    | with_reducible assumption
    | intro _
    | with_reducible apply KeepsO.next
    | with_reducible apply Keeps.ite
    | with_reducible apply Keeps.skPeriodic

theorem Keeps.of_execTaskDispatch (k : Fin 4) (s : State) (hs : Keeps μ σ s) (m_space : μ .space) (m_sk : μ .sk) :
    KeepsO μ σ (execTaskDispatch k s) := by
  unfold execTaskDispatch
  repeat' first
    | with_reducible assumption
    | intro _
    | with_reducible apply KeepsO.next
    | with_reducible apply Keeps.ite
    | with_reducible apply Keeps.skDispatch

theorem Keeps.of_execLxReadResponse (k : Fin 4) (s : State) (hs : Keeps μ σ s) (m_space : μ .space) (m_sk : μ .sk) (m_le : μ .le) :
    KeepsO μ σ (execLxReadResponse k s) := by
  unfold execLxReadResponse
  repeat' first
    | with_reducible assumption
    | intro _
    | with_reducible apply KeepsO.next
    | with_reducible apply Keeps.ite
    | ((fail_if_no_progress extract_lets +onlyGivenNames x); first | (refine Keeps.bind x ?_ ?_; (try subst x); rotate_left; intro hx; rotate_left) | (refine KeepsO.bind x ?_ ?_; (try subst x); rotate_left; intro hx; rotate_left) | skip)
    | with_reducible apply Keeps.lxResponse
    | split
    | simp only [id_eq]

theorem Keeps.of_execLxAck (k : Fin 4) (s : State) (hs : Keeps μ σ s) (m_space : μ .space) (m_free : μ .free) (m_ten : μ .ten) (m_ic : μ .ic) (m_sk : μ .sk) :
    KeepsO μ σ (execLxAck k s) := by
  unfold execLxAck
  repeat' first
    | with_reducible assumption
    | intro _
    | with_reducible apply KeepsO.next
    | with_reducible apply Keeps.ite
    | with_reducible apply Keeps.lxAck

theorem Keeps.skMemWrite (s : State) (w : Who) (a : ℕ) (data : Word) (hs : Keeps μ σ s) (m_space : μ .space) (m_wres : μ .wres) (m_log : μ .log) (m_ten : μ .ten) (m_sk : μ .sk) (m_sk0mem : μ .sk0mem) :
    Keeps μ σ (State.skMemWrite s w a data) := by
  unfold State.skMemWrite
  repeat' first
    | with_reducible assumption
    | intro _
    | with_reducible apply Keeps.ite
    | with_reducible apply Keeps.auditW
    | with_reducible apply Keeps.refuseWrite
    | with_reducible apply Keeps.setSkMem

theorem Keeps.of_execSkMemoryWrite (p : Path) (k : Fin 3) (dmem : Bool) (word : BitVec 14) (data : Word) (s : State) (hs : Keeps μ σ s) (m_space : μ .space) (m_rdata : μ .rdata) (m_wres : μ .wres) (m_banks : μ .banks) (m_log : μ .log) (m_ten : μ .ten) (m_sk : μ .sk) (m_sk0mem : μ .sk0mem) :
    KeepsO μ σ (execSkMemoryWrite p k dmem word data s) := by
  unfold execSkMemoryWrite
  repeat' first
    | with_reducible assumption
    | intro _
    | with_reducible apply KeepsO.next
    | with_reducible apply Keeps.ite
    | with_reducible apply Keeps.byPath
    | with_reducible apply Keeps.skMemWrite

theorem Keeps.skTaskAfter (s : State) (k : ℕ) (t : ℕ) (o : ℕ) (x : Word) (hs : Keeps μ σ s) (m_space : μ .space) (m_free : μ .free) (m_ten : μ .ten) (m_ic : μ .ic) (m_sk : μ .sk) :
    Keeps μ σ (State.skTaskAfter s k t o x) := by
  unfold State.skTaskAfter
  repeat' first
    | with_reducible assumption
    | intro _
    | with_reducible apply Keeps.ite
    | ((fail_if_no_progress extract_lets +onlyGivenNames x); first | (refine Keeps.bind x ?_ ?_; (try subst x); rotate_left; intro hx; rotate_left) | skip)
    | with_reducible apply Keeps.setCore
    | with_reducible apply Keeps.skComplete
    | split
    | simp only [id_eq]

theorem Keeps.skRegWrite (s : State) (w : Who) (a : ℕ) (data : Word) (hs : Keeps μ σ s) (m_space : μ .space) (m_free : μ .free) (m_wres : μ .wres) (m_log : μ .log) (m_ten : μ .ten) (m_ic : μ .ic) (m_sk : μ .sk) :
    Keeps μ σ (State.skRegWrite s w a data) := by
  unfold State.skRegWrite
  repeat' first
    | with_reducible assumption
    | intro _
    | with_reducible apply Keeps.ite
    | ((fail_if_no_progress extract_lets +onlyGivenNames x); first | (refine Keeps.bind x ?_ ?_; (try subst x); rotate_left; intro hx; rotate_left) | skip)
    | with_reducible apply Keeps.cfgWrite
    | with_reducible apply Keeps.clearWrite
    | with_reducible apply Keeps.plainW
    | with_reducible apply Keeps.refuseWrite
    | with_reducible apply Keeps.skStopUpd
    | with_reducible apply Keeps.skTaskAfter
    | split
    | simp only [id_eq]

end Sys2Proof.Machine
end

