-- ==== Sys2Proof/Laws/KeepsBootOps.lean ====
section
/-! SUPPORT. What each operation of Machine/BootOps.lean keeps: the queue, the clock's direction, the canonical form of the register
space, and every part of the state it does not name (`Keeps`). -/

set_option linter.unusedTactic false
set_option linter.unreachableTactic false
set_option linter.unusedSimpArgs false
set_option linter.unusedVariables false

namespace Sys2Proof.Machine

variable {μ : Part → Prop} {σ : State}

theorem Keeps.setBoot (s : State) (b : BootState) (hs : Keeps μ σ s) (m_boot : μ .boot) :
    Keeps μ σ (State.setBoot s b) := by
  unfold State.setBoot
  repeat' first
    | with_reducible assumption
    | intro _
    | with_reducible apply Keeps.ite
    | simp only [Keeps.upd_boot m_boot]

theorem Keeps.setFlashPage (s : State) (p : ℕ) (l : List Byte) (hs : Keeps μ σ s) (m_boot : μ .boot) :
    Keeps μ σ (State.setFlashPage s p l) := by
  unfold State.setFlashPage
  repeat' first
    | with_reducible assumption
    | intro _
    | with_reducible apply Keeps.ite
    | ((fail_if_no_progress extract_lets +onlyGivenNames x); first | (refine Keeps.bind x ?_ ?_; (try subst x); rotate_left; intro hx; rotate_left) | skip)
    | with_reducible apply Keeps.setBoot

theorem Keeps.flashProgram (s : State) (p : ℕ) (l : List Byte) (hs : Keeps μ σ s) (m_boot : μ .boot) :
    Keeps μ σ (State.flashProgram s p l) := by
  unfold State.flashProgram
  repeat' first
    | with_reducible assumption
    | intro _
    | with_reducible apply Keeps.ite
    | with_reducible apply Keeps.setFlashPage

theorem Keeps.flashErase (s : State) (sector : ℕ) (hs : Keeps μ σ s) (m_boot : μ .boot) :
    Keeps μ σ (State.flashErase s sector) := by
  unfold State.flashErase
  repeat' first
    | with_reducible assumption
    | intro _
    | with_reducible apply Keeps.ite
    | ((fail_if_no_progress extract_lets +onlyGivenNames x); first | (refine Keeps.bind x ?_ ?_; (try subst x); rotate_left; intro hx; rotate_left) | skip)
    | with_reducible apply Keeps.setBoot

theorem Keeps.showRec (s : State) (hs : Keeps μ σ s) (m_space : μ .space) :
    Keeps μ σ (State.showRec s) := by
  unfold State.showRec
  repeat' first
    | with_reducible assumption
    | intro _
    | with_reducible apply Keeps.ite
    | with_reducible apply Keeps.put
    | with_reducible apply Keeps.setWord
    | split

theorem Keeps.writeRec (s : State) (active : ℕ) (trial : ℕ) (tries : ℕ) (hs : Keeps μ σ s) (m_space : μ .space) (m_boot : μ .boot) :
    Keeps μ σ (State.writeRec s active trial tries) := by
  unfold State.writeRec
  repeat' first
    | with_reducible assumption
    | intro _
    | with_reducible apply Keeps.ite
    | with_reducible apply Keeps.flashErase
    | with_reducible apply Keeps.flashProgram
    | with_reducible apply Keeps.showRec

theorem Keeps.flRefuse (s : State) (w : Who) (data : Word) (hs : Keeps μ σ s) (m_space : μ .space) (m_wres : μ .wres) (m_log : μ .log) (m_ten : μ .ten) :
    Keeps μ σ (State.flRefuse s w data) := by
  unfold State.flRefuse
  repeat' first
    | with_reducible assumption
    | intro _
    | with_reducible apply Keeps.ite
    | with_reducible apply Keeps.auditW
    | with_reducible apply Keeps.put

theorem Keeps.flCmdWrite (s : State) (w : Who) (data : Word) (hs : Keeps μ σ s) (m_space : μ .space) (m_wres : μ .wres) (m_log : μ .log) (m_ten : μ .ten) (m_boot : μ .boot) :
    Keeps μ σ (State.flCmdWrite s w data) := by
  unfold State.flCmdWrite
  repeat' first
    | with_reducible assumption
    | intro _
    | with_reducible apply Keeps.ite
    | ((fail_if_no_progress extract_lets +onlyGivenNames x); first | (refine Keeps.bind x ?_ ?_; (try subst x); rotate_left; intro hx; rotate_left) | skip)
    | with_reducible apply Keeps.flRefuse
    | with_reducible apply Keeps.plainW
    | with_reducible apply Keeps.put
    | with_reducible apply Keeps.setBoot
    | split
    | simp only [id_eq]

theorem Keeps.flDone (s : State) (ok : Bool) (hs : Keeps μ σ s) (m_space : μ .space) (m_free : μ .free) (m_boot : μ .boot) :
    Keeps μ σ (State.flDone s ok) := by
  unfold State.flDone
  repeat' first
    | with_reducible assumption
    | intro _
    | with_reducible apply Keeps.ite
    | ((fail_if_no_progress extract_lets +onlyGivenNames x); first | (refine Keeps.bind x ?_ ?_; (try subst x); rotate_left; intro hx; rotate_left) | skip)
    | with_reducible apply Keeps.foldl
    | with_reducible apply Keeps.flashErase
    | with_reducible apply Keeps.flashProgram
    | with_reducible apply Keeps.fresh
    | with_reducible apply Keeps.put
    | with_reducible apply Keeps.setBoot
    | with_reducible apply Keeps.setWord
    | split

theorem Keeps.slotConfirm (s : State) (w : Who) (data : Word) (hs : Keeps μ σ s) (m_space : μ .space) (m_wres : μ .wres) (m_log : μ .log) (m_ten : μ .ten) (m_boot : μ .boot) :
    Keeps μ σ (State.slotConfirm s w data) := by
  unfold State.slotConfirm
  repeat' first
    | with_reducible assumption
    | intro _
    | with_reducible apply Keeps.ite
    | ((fail_if_no_progress extract_lets +onlyGivenNames x); first | (refine Keeps.bind x ?_ ?_; (try subst x); rotate_left; intro hx; rotate_left) | skip)
    | with_reducible apply Keeps.auditW
    | with_reducible apply Keeps.put
    | with_reducible apply Keeps.writeRec

theorem Keeps.slotActivate (s : State) (w : Who) (data : Word) (hs : Keeps μ σ s) (m_space : μ .space) (m_wres : μ .wres) (m_log : μ .log) (m_ten : μ .ten) (m_boot : μ .boot) :
    Keeps μ σ (State.slotActivate s w data) := by
  unfold State.slotActivate
  repeat' first
    | with_reducible assumption
    | intro _
    | with_reducible apply Keeps.ite
    | ((fail_if_no_progress extract_lets +onlyGivenNames x); first | (refine Keeps.bind x ?_ ?_; (try subst x); rotate_left; intro hx; rotate_left) | skip)
    | with_reducible apply Keeps.auditW
    | with_reducible apply Keeps.plainW
    | with_reducible apply Keeps.put
    | with_reducible apply Keeps.setBoot
    | split
    | simp only [id_eq]

theorem Keeps.slotActivateDone (s : State) (read : Bool) (hs : Keeps μ σ s) (m_space : μ .space) (m_wres : μ .wres) (m_log : μ .log) (m_ten : μ .ten) (m_boot : μ .boot) :
    Keeps μ σ (State.slotActivateDone s read) := by
  unfold State.slotActivateDone
  repeat' first
    | with_reducible assumption
    | intro _
    | with_reducible apply Keeps.ite
    | ((fail_if_no_progress extract_lets +onlyGivenNames x); first | (refine Keeps.bind x ?_ ?_; (try subst x); rotate_left; intro hx; rotate_left) | skip)
    | with_reducible apply Keeps.auditW
    | with_reducible apply Keeps.put
    | with_reducible apply Keeps.setBoot
    | with_reducible apply Keeps.writeRec
    | split

theorem Keeps.slotCmdWrite (s : State) (w : Who) (data : Word) (hs : Keeps μ σ s) (m_space : μ .space) (m_wres : μ .wres) (m_log : μ .log) (m_ten : μ .ten) (m_boot : μ .boot) :
    Keeps μ σ (State.slotCmdWrite s w data) := by
  unfold State.slotCmdWrite
  repeat' first
    | with_reducible assumption
    | intro _
    | with_reducible apply Keeps.ite
    | ((fail_if_no_progress extract_lets +onlyGivenNames x); first | (refine Keeps.bind x ?_ ?_; (try subst x); rotate_left; intro hx; rotate_left) | skip)
    | with_reducible apply Keeps.auditW
    | with_reducible apply Keeps.put
    | with_reducible apply Keeps.slotActivate
    | with_reducible apply Keeps.slotConfirm
    | split
    | simp only [id_eq]

theorem Keeps.ucTake (s : State) (e : ℕ) (x : Word) (hs : Keeps μ σ s) (m_ucal : μ .ucal) :
    Keeps μ σ (State.ucTake s e x) := by
  unfold State.ucTake
  repeat' first
    | with_reducible assumption
    | intro _
    | with_reducible apply Keeps.ite
    | simp only [Keeps.upd_ucal m_ucal]

theorem Keeps.bootWrite (s : State) (w : Who) (a : ℕ) (data : Word) (hs : Keeps μ σ s) (m_space : μ .space) (m_wres : μ .wres) (m_log : μ .log) (m_ten : μ .ten) (m_boot : μ .boot) (m_ucal : μ .ucal) :
    Keeps μ σ (State.bootWrite s w a data) := by
  unfold State.bootWrite
  repeat' first
    | with_reducible assumption
    | intro _
    | with_reducible apply Keeps.ite
    | ((fail_if_no_progress extract_lets +onlyGivenNames x); first | (refine Keeps.bind x ?_ ?_; (try subst x); rotate_left; intro hx; rotate_left) | skip)
    | with_reducible apply Keeps.cfgWrite
    | with_reducible apply Keeps.flCmdWrite
    | with_reducible apply Keeps.kindWrite
    | with_reducible apply Keeps.plainW
    | with_reducible apply Keeps.refuseWrite
    | with_reducible apply Keeps.setWord
    | with_reducible apply Keeps.slotCmdWrite
    | with_reducible apply Keeps.ucTake

theorem Keeps.of_execFlashReadPage (p : Path) (s : State) (hs : Keeps μ σ s) (m_space : μ .space) (m_rdata : μ .rdata) (m_wres : μ .wres) (m_banks : μ .banks) (m_log : μ .log) (m_ten : μ .ten) (m_boot : μ .boot) (m_ucal : μ .ucal) :
    KeepsO μ σ (execFlashReadPage p s) := by
  unfold execFlashReadPage
  repeat' first
    | with_reducible assumption
    | intro _
    | with_reducible apply KeepsO.next
    | with_reducible apply Keeps.ite
    | with_reducible apply Keeps.bootWrite
    | with_reducible apply Keeps.byPath

theorem Keeps.of_execFlashProgram (p : Path) (s : State) (hs : Keeps μ σ s) (m_space : μ .space) (m_rdata : μ .rdata) (m_wres : μ .wres) (m_banks : μ .banks) (m_log : μ .log) (m_ten : μ .ten) (m_boot : μ .boot) (m_ucal : μ .ucal) :
    KeepsO μ σ (execFlashProgram p s) := by
  unfold execFlashProgram
  repeat' first
    | with_reducible assumption
    | intro _
    | with_reducible apply KeepsO.next
    | with_reducible apply Keeps.ite
    | with_reducible apply Keeps.bootWrite
    | with_reducible apply Keeps.byPath

theorem Keeps.of_execFlashErase (p : Path) (s : State) (hs : Keeps μ σ s) (m_space : μ .space) (m_rdata : μ .rdata) (m_wres : μ .wres) (m_banks : μ .banks) (m_log : μ .log) (m_ten : μ .ten) (m_boot : μ .boot) (m_ucal : μ .ucal) :
    KeepsO μ σ (execFlashErase p s) := by
  unfold execFlashErase
  repeat' first
    | with_reducible assumption
    | intro _
    | with_reducible apply KeepsO.next
    | with_reducible apply Keeps.ite
    | with_reducible apply Keeps.bootWrite
    | with_reducible apply Keeps.byPath

theorem Keeps.of_execFlashCmdComplete (ok : Bool) (s : State) (hs : Keeps μ σ s) (m_space : μ .space) (m_free : μ .free) (m_boot : μ .boot) :
    KeepsO μ σ (execFlashCmdComplete ok s) := by
  unfold execFlashCmdComplete
  repeat' first
    | with_reducible assumption
    | intro _
    | with_reducible apply KeepsO.next
    | with_reducible apply Keeps.ite
    | with_reducible apply Keeps.flDone

theorem Keeps.of_execSlotActivate (p : Path) (slot : Fin 2) (tries : Fin 8) (s : State) (hs : Keeps μ σ s) (m_space : μ .space) (m_rdata : μ .rdata) (m_wres : μ .wres) (m_banks : μ .banks) (m_log : μ .log) (m_ten : μ .ten) (m_boot : μ .boot) (m_ucal : μ .ucal) :
    KeepsO μ σ (execSlotActivate p slot tries s) := by
  unfold execSlotActivate
  repeat' first
    | with_reducible assumption
    | intro _
    | with_reducible apply KeepsO.next
    | with_reducible apply Keeps.ite
    | with_reducible apply Keeps.bootWrite
    | with_reducible apply Keeps.byPath

theorem Keeps.of_execSlotConfirm (p : Path) (s : State) (hs : Keeps μ σ s) (m_space : μ .space) (m_rdata : μ .rdata) (m_wres : μ .wres) (m_banks : μ .banks) (m_log : μ .log) (m_ten : μ .ten) (m_boot : μ .boot) (m_ucal : μ .ucal) :
    KeepsO μ σ (execSlotConfirm p s) := by
  unfold execSlotConfirm
  repeat' first
    | with_reducible assumption
    | intro _
    | with_reducible apply KeepsO.next
    | with_reducible apply Keeps.ite
    | with_reducible apply Keeps.bootWrite
    | with_reducible apply Keeps.byPath

theorem Keeps.of_execSlotActivateComplete (read : Bool) (s : State) (hs : Keeps μ σ s) (m_space : μ .space) (m_wres : μ .wres) (m_log : μ .log) (m_ten : μ .ten) (m_boot : μ .boot) :
    KeepsO μ σ (execSlotActivateComplete read s) := by
  unfold execSlotActivateComplete
  repeat' first
    | with_reducible assumption
    | intro _
    | with_reducible apply KeepsO.next
    | with_reducible apply Keeps.ite
    | with_reducible apply Keeps.slotActivateDone

theorem Keeps.of_execUserCalCommit (p : Path) (e : Fin 2048) (data : Word) (s : State) (hs : Keeps μ σ s) (m_space : μ .space) (m_rdata : μ .rdata) (m_wres : μ .wres) (m_banks : μ .banks) (m_log : μ .log) (m_ten : μ .ten) (m_boot : μ .boot) (m_ucal : μ .ucal) :
    KeepsO μ σ (execUserCalCommit p e data s) := by
  unfold execUserCalCommit
  repeat' first
    | with_reducible assumption
    | intro _
    | with_reducible apply KeepsO.next
    | with_reducible apply Keeps.ite
    | with_reducible apply Keeps.bootWrite
    | with_reducible apply Keeps.byPath

end Sys2Proof.Machine
end

