-- ==== Sys2Proof/Laws/KeepsCampusSub.lean ====
section
/-! SUPPORT. What each operation of Machine/CampusSub.lean keeps: the queue, the clock's direction, the canonical form of the register
space, and every part of the state it does not name (`Keeps`). -/

set_option linter.unusedTactic false
set_option linter.unreachableTactic false
set_option linter.unusedSimpArgs false
set_option linter.unusedVariables false

namespace Sys2Proof.Machine

variable {μ : Part → Prop} {σ : State}

theorem Keeps.authFail (s : State) (p : ℕ) (m : Msg) (replay : Bool) (hs : Keeps μ σ s) (m_space : μ .space) (m_ten : μ .ten) (m_cl : μ .cl) :
    Keeps μ σ (State.authFail s p m replay) := by
  unfold State.authFail
  repeat' first
    | with_reducible assumption
    | intro _
    | with_reducible apply Keeps.ite
    | ((fail_if_no_progress extract_lets +onlyGivenNames x); first | (refine Keeps.bind x ?_ ?_; (try subst x); rotate_left; intro hx; rotate_left) | skip)
    | with_reducible apply Keeps.inc
    | with_reducible apply Keeps.postErr
    | with_reducible apply Keeps.put
    | simp only [Keeps.upd_cl m_cl]

theorem Keeps.epochAdvance (s : State) (ready : Bool) (hs : Keeps μ σ s) (m_space : μ .space) (m_cl : μ .cl) :
    Keeps μ σ (State.epochAdvance s ready) := by
  unfold State.epochAdvance
  repeat' first
    | with_reducible assumption
    | intro _
    | with_reducible apply Keeps.ite
    | ((fail_if_no_progress extract_lets +onlyGivenNames x); first | (refine Keeps.bind x ?_ ?_; (try subst x); rotate_left; intro hx; rotate_left) | skip)
    | with_reducible apply Keeps.put
    | simp only [Keeps.upd_cl m_cl]
    | split
    | simp only [id_eq]

theorem Keeps.setTags (s : State) (t : Tab CTag) (hs : Keeps μ σ s) (m_cl : μ .cl) :
    Keeps μ σ (State.setTags s t) := by
  unfold State.setTags
  repeat' first
    | with_reducible assumption
    | intro _
    | with_reducible apply Keeps.ite
    | ((fail_if_no_progress extract_lets +onlyGivenNames x); first | (refine Keeps.bind x ?_ ?_; (try subst x); rotate_left; intro hx; rotate_left) | skip)
    | simp only [Keeps.upd_cl m_cl]

theorem Keeps.rwRecord (s : State) (n : ℕ) (t : CTag) (res : ℕ) (late : Bool) (hs : Keeps μ σ s) (m_space : μ .space) (m_log : μ .log) (m_ten : μ .ten) :
    Keeps μ σ (State.rwRecord s n t res late) := by
  unfold State.rwRecord
  repeat' first
    | with_reducible assumption
    | intro _
    | with_reducible apply Keeps.ite
    | ((fail_if_no_progress extract_lets +onlyGivenNames x); first | (refine Keeps.bind x ?_ ?_; (try subst x); rotate_left; intro hx; rotate_left) | skip)
    | with_reducible apply Keeps.ringEnter
    | with_reducible apply Keeps.ringLose
    | with_reducible apply Keeps.ringReach
    | with_reducible apply Keeps.ringRefuse
    | split

theorem Keeps.rwEnd (s : State) (n : ℕ) (t : CTag) (res : ℕ) (hs : Keeps μ σ s) (m_space : μ .space) (m_log : μ .log) (m_ten : μ .ten) :
    Keeps μ σ (State.rwEnd s n t res) := by
  unfold State.rwEnd
  repeat' first
    | with_reducible assumption
    | intro _
    | with_reducible apply Keeps.ite
    | ((fail_if_no_progress extract_lets +onlyGivenNames x); first | (refine Keeps.bind x ?_ ?_; (try subst x); rotate_left; intro hx; rotate_left) | skip)
    | with_reducible apply Keeps.inc
    | with_reducible apply Keeps.postErr
    | with_reducible apply Keeps.put
    | with_reducible apply Keeps.rwRecord

theorem Keeps.rwClose (s : State) (n : ℕ) (t : CTag) (res : ℕ) (hs : Keeps μ σ s) (m_space : μ .space) (m_log : μ .log) (m_ten : μ .ten) (m_cl : μ .cl) :
    Keeps μ σ (State.rwClose s n t res) := by
  unfold State.rwClose
  repeat' first
    | with_reducible assumption
    | intro _
    | with_reducible apply Keeps.ite
    | ((fail_if_no_progress extract_lets +onlyGivenNames x); first | (refine Keeps.bind x ?_ ?_; (try subst x); rotate_left; intro hx; rotate_left) | skip)
    | with_reducible apply Keeps.rwEnd
    | with_reducible apply Keeps.setTags

theorem Keeps.rwUnreachable (s : State) (n : ℕ) (t : CTag) (hs : Keeps μ σ s) (m_space : μ .space) (m_log : μ .log) (m_ten : μ .ten) (m_cl : μ .cl) :
    Keeps μ σ (State.rwUnreachable s n t) := by
  unfold State.rwUnreachable
  repeat' first
    | with_reducible assumption
    | intro _
    | with_reducible apply Keeps.ite
    | with_reducible apply Keeps.rwEnd
    | with_reducible apply Keeps.setTags

theorem Keeps.rwHandover (s : State) (tenant : ℕ) (ifc : ℕ) (gen : ℕ) (addr : ℕ) (rel : Bool) (prio : ℕ) (cpid : ℕ) (value : Word) (hs : Keeps μ σ s) (m_space : μ .space) (m_log : μ .log) (m_ten : μ .ten) (m_cl : μ .cl) :
    Keeps μ σ (State.rwHandover s tenant ifc gen addr rel prio cpid value).1 := by
  unfold State.rwHandover
  repeat' first
    | with_reducible assumption
    | intro _
    | with_reducible apply Keeps.ite
    | ((fail_if_no_progress extract_lets +onlyGivenNames x); first | (refine Keeps.bind x ?_ ?_; (try subst x); rotate_left; intro hx; rotate_left) | skip)
    | with_reducible apply Keeps.inc
    | with_reducible apply Keeps.nextMsgId
    | with_reducible apply Keeps.place
    | with_reducible apply Keeps.rwUnreachable
    | simp only [Keeps.upd_cl m_cl]
    | split
    | simp only [id_eq]

theorem Keeps.rwCmd (s : State) (w : Who) (data : Word) (hs : Keeps μ σ s) (m_space : μ .space) (m_wres : μ .wres) (m_banks : μ .banks) (m_log : μ .log) (m_ten : μ .ten) (m_cl : μ .cl) :
    Keeps μ σ (State.rwCmd s w data) := by
  unfold State.rwCmd
  repeat' first
    | with_reducible assumption
    | intro _
    | with_reducible apply Keeps.ite
    | ((fail_if_no_progress extract_lets +onlyGivenNames x); first | (refine Keeps.bind x ?_ ?_; (try subst x); rotate_left; intro hx; rotate_left) | skip)
    | with_reducible apply Keeps.plainW
    | with_reducible apply Keeps.of_fst (by assumption)
    | with_reducible apply Keeps.rwHandover
    | with_reducible apply Keeps.setBank
    | split
    | simp only [id_eq]

theorem Keeps.of_execClRwWrite (p : Path) (data : Word) (s : State) (hs : Keeps μ σ s) (m_space : μ .space) (m_rdata : μ .rdata) (m_wres : μ .wres) (m_banks : μ .banks) (m_log : μ .log) (m_ten : μ .ten) (m_cl : μ .cl) :
    KeepsO μ σ (execClRwWrite p data s) := by
  unfold execClRwWrite
  repeat' first
    | with_reducible assumption
    | intro _
    | with_reducible apply KeepsO.next
    | with_reducible apply Keeps.ite
    | with_reducible apply Keeps.byPath
    | with_reducible apply Keeps.rwCmd

theorem Keeps.of_execClRwRelinquish (p : Path) (data : Word) (s : State) (hs : Keeps μ σ s) (m_space : μ .space) (m_rdata : μ .rdata) (m_wres : μ .wres) (m_banks : μ .banks) (m_log : μ .log) (m_ten : μ .ten) (m_cl : μ .cl) :
    KeepsO μ σ (execClRwRelinquish p data s) := by
  unfold execClRwRelinquish
  repeat' first
    | with_reducible assumption
    | intro _
    | with_reducible apply KeepsO.next
    | with_reducible apply Keeps.ite
    | with_reducible apply Keeps.byPath
    | with_reducible apply Keeps.rwCmd

theorem Keeps.rwTimeout (s : State) (n : ℕ) (hs : Keeps μ σ s) (m_space : μ .space) (m_now : μ .now) (m_campusOff : μ .campusOff) (m_log : μ .log) (m_ten : μ .ten) (m_cl : μ .cl) :
    Keeps μ σ (State.rwTimeout s n) := by
  unfold State.rwTimeout
  repeat' first
    | with_reducible assumption
    | intro _
    | with_reducible apply Keeps.ite
    | with_reducible apply Keeps.reach
    | with_reducible apply Keeps.rwClose
    | split

theorem Keeps.of_execRwriteTimeout (n : Fin 4096) (s : State) (hs : Keeps μ σ s) (m_space : μ .space) (m_now : μ .now) (m_campusOff : μ .campusOff) (m_log : μ .log) (m_ten : μ .ten) (m_cl : μ .cl) :
    KeepsO μ σ (execRwriteTimeout n s) := by
  unfold execRwriteTimeout
  repeat' first
    | with_reducible assumption
    | intro _
    | with_reducible apply KeepsO.next
    | with_reducible apply Keeps.ite
    | with_reducible apply Keeps.rwTimeout

theorem Keeps.of_execClTagQuarantineEnd (n : Fin 4096) (s : State) (hs : Keeps μ σ s) (m_now : μ .now) (m_campusOff : μ .campusOff) (m_cl : μ .cl) :
    KeepsO μ σ (execClTagQuarantineEnd n s) := by
  unfold execClTagQuarantineEnd
  repeat' first
    | with_reducible assumption
    | intro _
    | with_reducible apply KeepsO.next
    | with_reducible apply Keeps.ite
    | ((fail_if_no_progress extract_lets +onlyGivenNames x); first | (refine Keeps.bind x ?_ ?_; (try subst x); rotate_left; intro hx; rotate_left) | (refine KeepsO.bind x ?_ ?_; (try subst x); rotate_left; intro hx; rotate_left) | skip)
    | with_reducible apply Keeps.reach
    | with_reducible apply Keeps.setTags
    | split

theorem Keeps.rwResultTo (s : State) (r : RwIn) (res : ℕ) (hs : Keeps μ σ s) (m_space : μ .space) (m_cl : μ .cl) :
    Keeps μ σ (State.rwResultTo s r res) := by
  unfold State.rwResultTo
  repeat' first
    | with_reducible assumption
    | intro _
    | with_reducible apply Keeps.ite
    | with_reducible apply Keeps.answer

theorem Keeps.rwriteRx (s : State) (m : Msg) (hs : Keeps μ σ s) (m_space : μ .space) (m_cl : μ .cl) :
    Keeps μ σ (State.rwriteRx s m) := by
  unfold State.rwriteRx
  repeat' first
    | with_reducible assumption
    | intro _
    | with_reducible apply Keeps.ite
    | ((fail_if_no_progress extract_lets +onlyGivenNames x); first | (refine Keeps.bind x ?_ ?_; (try subst x); rotate_left; intro hx; rotate_left) | skip)
    | with_reducible apply Keeps.rwResultTo
    | simp only [Keeps.upd_cl m_cl]

theorem Keeps.rwDecide (s : State) (hs : Keeps μ σ s) (m_space : μ .space) (m_free : μ .free) (m_wres : μ .wres) (m_log : μ .log) (m_ten : μ .ten) (m_broken : μ .broken) (m_safe : μ .safe) (m_cmds : μ .cmds) (m_cd : μ .cd) (m_fwd : μ .fwd) (m_sk : μ .sk) (m_cl : μ .cl) :
    Keeps μ σ (State.rwDecide s) := by
  unfold State.rwDecide
  repeat' first
    | with_reducible assumption
    | intro _
    | with_reducible apply Keeps.ite
    | ((fail_if_no_progress extract_lets +onlyGivenNames x); first | (refine Keeps.bind x ?_ ?_; (try subst x); rotate_left; intro hx; rotate_left) | skip)
    | with_reducible apply Keeps.auditW
    | with_reducible apply Keeps.ptWrite
    | with_reducible apply Keeps.rwResultTo
    | simp only [Keeps.upd_cl m_cl]
    | split
    | simp only [id_eq]

theorem Keeps.of_execRwriteDecide (s : State) (hs : Keeps μ σ s) (m_space : μ .space) (m_free : μ .free) (m_wres : μ .wres) (m_log : μ .log) (m_ten : μ .ten) (m_broken : μ .broken) (m_safe : μ .safe) (m_cmds : μ .cmds) (m_cd : μ .cd) (m_fwd : μ .fwd) (m_sk : μ .sk) (m_cl : μ .cl) :
    KeepsO μ σ (execRwriteDecide s) := by
  unfold execRwriteDecide
  repeat' first
    | with_reducible assumption
    | intro _
    | with_reducible apply KeepsO.next
    | with_reducible apply Keeps.ite
    | ((fail_if_no_progress extract_lets +onlyGivenNames x); first | (refine Keeps.bind x ?_ ?_; (try subst x); rotate_left; intro hx; rotate_left) | (refine KeepsO.bind x ?_ ?_; (try subst x); rotate_left; intro hx; rotate_left) | skip)
    | with_reducible apply Keeps.rwDecide
    | split
    | simp only [id_eq]

theorem Keeps.rwResultRx (s : State) (m : Msg) (hs : Keeps μ σ s) (m_space : μ .space) (m_log : μ .log) (m_ten : μ .ten) (m_cl : μ .cl) :
    Keeps μ σ (State.rwResultRx s m) := by
  unfold State.rwResultRx
  repeat' first
    | with_reducible assumption
    | intro _
    | with_reducible apply Keeps.ite
    | ((fail_if_no_progress extract_lets +onlyGivenNames x); first | (refine Keeps.bind x ?_ ?_; (try subst x); rotate_left; intro hx; rotate_left) | skip)
    | with_reducible apply Keeps.inc
    | with_reducible apply Keeps.rwClose
    | with_reducible apply Keeps.rwRecord
    | split

theorem Keeps.clTenantReset (s : State) (t : ℕ) (hs : Keeps μ σ s) (m_space : μ .space) (m_cl : μ .cl) :
    Keeps μ σ (State.clTenantReset s t) := by
  unfold State.clTenantReset
  repeat' first
    | with_reducible assumption
    | intro _
    | with_reducible apply Keeps.ite
    | ((fail_if_no_progress extract_lets +onlyGivenNames x); first | (refine Keeps.bind x ?_ ?_; (try subst x); rotate_left; intro hx; rotate_left) | skip)
    | with_reducible apply Keeps.inc
    | with_reducible apply Keeps.setTags
    | simp only [Keeps.upd_cl m_cl]
    | split
    | simp only [id_eq]

theorem Keeps.subscribeRx (s : State) (m : Msg) (hs : Keeps μ σ s) (m_space : μ .space) (m_pub : μ .pub) (m_subOut : μ .subOut) (m_cl : μ .cl) (m_isl : μ .isl) :
    Keeps μ σ (State.subscribeRx s m) := by
  unfold State.subscribeRx
  repeat' first
    | with_reducible assumption
    | intro _
    | with_reducible apply Keeps.ite
    | ((fail_if_no_progress extract_lets +onlyGivenNames x); first | (refine Keeps.bind x ?_ ?_; (try subst x); rotate_left; intro hx; rotate_left) | skip)
    | with_reducible apply Keeps.answer
    | with_reducible apply Keeps.setPub
    | simp only [Keeps.upd_subOut m_subOut, Keeps.upd_isl m_isl]

theorem Keeps.subInMap (s : State) (p : ℕ → SubIn → Bool) (f : SubIn → SubIn) (hs : Keeps μ σ s) (m_subIn : μ .subIn) :
    Keeps μ σ (State.subInMap s p f) := by
  unfold State.subInMap
  repeat' first
    | with_reducible assumption
    | intro _
    | with_reducible apply Keeps.ite
    | simp only [Keeps.upd_subIn m_subIn]

theorem Keeps.subRefused (s : State) (hs : Keeps μ σ s) (m_space : μ .space) :
    Keeps μ σ (State.subRefused s) := by
  unfold State.subRefused
  repeat' first
    | with_reducible assumption
    | intro _
    | with_reducible apply Keeps.ite
    | with_reducible apply Keeps.inc
    | with_reducible apply Keeps.put

theorem Keeps.subAckRx (s : State) (m : Msg) (hs : Keeps μ σ s) (m_space : μ .space) (m_ten : μ .ten) (m_subIn : μ .subIn) :
    Keeps μ σ (State.subAckRx s m) := by
  unfold State.subAckRx
  repeat' first
    | with_reducible assumption
    | intro _
    | with_reducible apply Keeps.ite
    | with_reducible apply Keeps.inc
    | with_reducible apply Keeps.postErr2
    | with_reducible apply Keeps.subInMap
    | with_reducible apply Keeps.subRefused

theorem Keeps.unsubscribeRx (s : State) (m : Msg) (hs : Keeps μ σ s) (m_subOut : μ .subOut) :
    Keeps μ σ (State.unsubscribeRx s m) := by
  unfold State.unsubscribeRx
  repeat' first
    | with_reducible assumption
    | intro _
    | with_reducible apply Keeps.ite
    | simp only [Keeps.upd_subOut m_subOut]

theorem Keeps.subTimeout (s : State) (i : ℕ) (hs : Keeps μ σ s) (m_space : μ .space) (m_now : μ .now) (m_campusOff : μ .campusOff) (m_subIn : μ .subIn) (m_cl : μ .cl) :
    Keeps μ σ (State.subTimeout s i) := by
  unfold State.subTimeout
  repeat' first
    | with_reducible assumption
    | intro _
    | with_reducible apply Keeps.ite
    | ((fail_if_no_progress extract_lets +onlyGivenNames x); first | (refine Keeps.bind x ?_ ?_; (try subst x); rotate_left; intro hx; rotate_left) | skip)
    | with_reducible apply Keeps.inc
    | with_reducible apply Keeps.reach
    | with_reducible apply Keeps.subInMap
    | split

theorem Keeps.of_execSubAckTimeout (i : Fin 32768) (s : State) (hs : Keeps μ σ s) (m_space : μ .space) (m_now : μ .now) (m_campusOff : μ .campusOff) (m_subIn : μ .subIn) (m_cl : μ .cl) :
    KeepsO μ σ (execSubAckTimeout i s) := by
  unfold execSubAckTimeout
  repeat' first
    | with_reducible assumption
    | intro _
    | with_reducible apply KeepsO.next
    | with_reducible apply Keeps.ite
    | with_reducible apply Keeps.subTimeout

theorem Keeps.subFullRetry (s : State) (i : ℕ) (hs : Keeps μ σ s) (m_now : μ .now) (m_campusOff : μ .campusOff) (m_subIn : μ .subIn) (m_cl : μ .cl) :
    Keeps μ σ (State.subFullRetry s i) := by
  unfold State.subFullRetry
  repeat' first
    | with_reducible assumption
    | intro _
    | with_reducible apply Keeps.ite
    | ((fail_if_no_progress extract_lets +onlyGivenNames x); first | (refine Keeps.bind x ?_ ?_; (try subst x); rotate_left; intro hx; rotate_left) | skip)
    | with_reducible apply Keeps.reach
    | with_reducible apply Keeps.subInMap
    | split

theorem Keeps.of_execSubFullRetry (i : Fin 32768) (s : State) (hs : Keeps μ σ s) (m_now : μ .now) (m_campusOff : μ .campusOff) (m_subIn : μ .subIn) (m_cl : μ .cl) :
    KeepsO μ σ (execSubFullRetry i s) := by
  unfold execSubFullRetry
  repeat' first
    | with_reducible assumption
    | intro _
    | with_reducible apply KeepsO.next
    | with_reducible apply Keeps.ite
    | with_reducible apply Keeps.subFullRetry

theorem Keeps.subStale (s : State) (i : ℕ) (hs : Keeps μ σ s) (m_space : μ .space) (m_now : μ .now) (m_campusOff : μ .campusOff) (m_subIn : μ .subIn) (m_cl : μ .cl) :
    Keeps μ σ (State.subStale s i) := by
  unfold State.subStale
  repeat' first
    | with_reducible assumption
    | intro _
    | with_reducible apply Keeps.ite
    | ((fail_if_no_progress extract_lets +onlyGivenNames x); first | (refine Keeps.bind x ?_ ?_; (try subst x); rotate_left; intro hx; rotate_left) | skip)
    | with_reducible apply Keeps.inc
    | with_reducible apply Keeps.reach
    | with_reducible apply Keeps.subInMap
    | split

theorem Keeps.of_execSubStaleResubscribe (i : Fin 32768) (s : State) (hs : Keeps μ σ s) (m_space : μ .space) (m_now : μ .now) (m_campusOff : μ .campusOff) (m_subIn : μ .subIn) (m_cl : μ .cl) :
    KeepsO μ σ (execSubStaleResubscribe i s) := by
  unfold execSubStaleResubscribe
  repeat' first
    | with_reducible assumption
    | intro _
    | with_reducible apply KeepsO.next
    | with_reducible apply Keeps.ite
    | with_reducible apply Keeps.subStale

theorem Keeps.subscribeSend (s : State) (hs : Keeps μ σ s) (m_space : μ .space) (m_subIn : μ .subIn) (m_cl : μ .cl) :
    Keeps μ σ (State.subscribeSend s) := by
  unfold State.subscribeSend
  repeat' first
    | with_reducible assumption
    | intro _
    | with_reducible apply Keeps.ite
    | ((fail_if_no_progress extract_lets +onlyGivenNames x); first | (refine Keeps.bind x ?_ ?_; (try subst x); rotate_left; intro hx; rotate_left) | skip)
    | with_reducible apply Keeps.inc
    | with_reducible apply Keeps.send
    | with_reducible apply Keeps.subInMap
    | simp only [Keeps.upd_cl m_cl]
    | split
    | simp only [id_eq]

theorem Keeps.of_execSubscribeSend (s : State) (hs : Keeps μ σ s) (m_space : μ .space) (m_subIn : μ .subIn) (m_cl : μ .cl) :
    KeepsO μ σ (execSubscribeSend s) := by
  unfold execSubscribeSend
  repeat' first
    | with_reducible assumption
    | intro _
    | with_reducible apply KeepsO.next
    | with_reducible apply Keeps.ite
    | ((fail_if_no_progress extract_lets +onlyGivenNames x); first | (refine Keeps.bind x ?_ ?_; (try subst x); rotate_left; intro hx; rotate_left) | (refine KeepsO.bind x ?_ ?_; (try subst x); rotate_left; intro hx; rotate_left) | skip)
    | with_reducible apply Keeps.subscribeSend
    | split
    | simp only [id_eq]

theorem Keeps.pubRecRx (s : State) (src : ℕ) (sendTime : ℕ) (r : List Byte) (hs : Keeps μ σ s) (m_space : μ .space) (m_free : μ .free) (m_wres : μ .wres) (m_log : μ .log) (m_ten : μ .ten) (m_broken : μ .broken) (m_safe : μ .safe) (m_cmds : μ .cmds) (m_cd : μ .cd) (m_fwd : μ .fwd) (m_sk : μ .sk) (m_subIn : μ .subIn) (m_cl : μ .cl) :
    Keeps μ σ (State.pubRecRx s src sendTime r) := by
  unfold State.pubRecRx
  repeat' first
    | with_reducible assumption
    | intro _
    | with_reducible apply Keeps.ite
    | ((fail_if_no_progress extract_lets +onlyGivenNames x); first | (refine Keeps.bind x ?_ ?_; (try subst x); rotate_left; intro hx; rotate_left) | skip)
    | with_reducible apply Keeps.each
    | with_reducible apply Keeps.inc
    | with_reducible apply Keeps.ptSource
    | with_reducible apply Keeps.sendUnsub
    | with_reducible apply Keeps.subInMap
    | simp only [Keeps.upd_cl m_cl]
    | split
    | simp only [id_eq]

theorem Keeps.pubRx (s : State) (m : Msg) (hs : Keeps μ σ s) (m_space : μ .space) (m_free : μ .free) (m_wres : μ .wres) (m_log : μ .log) (m_ten : μ .ten) (m_broken : μ .broken) (m_safe : μ .safe) (m_cmds : μ .cmds) (m_cd : μ .cd) (m_fwd : μ .fwd) (m_sk : μ .sk) (m_subIn : μ .subIn) (m_cl : μ .cl) :
    Keeps μ σ (State.pubRx s m) := by
  unfold State.pubRx
  repeat' first
    | with_reducible assumption
    | intro _
    | with_reducible apply Keeps.ite
    | ((fail_if_no_progress extract_lets +onlyGivenNames x); first | (refine Keeps.bind x ?_ ?_; (try subst x); rotate_left; intro hx; rotate_left) | skip)
    | with_reducible apply Keeps.each
    | with_reducible apply Keeps.pubRecRx
    | split
    | simp only [id_eq]

theorem Keeps.pubSend (s : State) (dev : ℕ) (hs : Keeps μ σ s) (m_subOut : μ .subOut) (m_cl : μ .cl) :
    Keeps μ σ (State.pubSend s dev) := by
  unfold State.pubSend
  repeat' first
    | with_reducible assumption
    | intro _
    | with_reducible apply Keeps.ite
    | ((fail_if_no_progress extract_lets +onlyGivenNames x); first | (refine Keeps.bind x ?_ ?_; (try subst x); rotate_left; intro hx; rotate_left) | skip)
    | with_reducible apply Keeps.enqueue
    | with_reducible apply Keeps.nextMsgId
    | simp only [Keeps.upd_subOut m_subOut]
    | split
    | simp only [id_eq]

theorem Keeps.of_execPubSend (dev : Fin 1024) (s : State) (hs : Keeps μ σ s) (m_subOut : μ .subOut) (m_cl : μ .cl) :
    KeepsO μ σ (execPubSend dev s) := by
  unfold execPubSend
  repeat' first
    | with_reducible assumption
    | intro _
    | with_reducible apply KeepsO.next
    | with_reducible apply Keeps.ite
    | with_reducible apply Keeps.pubSend

theorem Keeps.pubReturn (s : State) (m : OutMsg) (hs : Keeps μ σ s) (m_subOut : μ .subOut) :
    Keeps μ σ (State.pubReturn s m) := by
  unfold State.pubReturn
  repeat' first
    | with_reducible assumption
    | intro _
    | with_reducible apply Keeps.ite
    | simp only [Keeps.upd_subOut m_subOut]

theorem Keeps.setQueue (s : State) (p : ℕ) (q : List OutMsg) (hs : Keeps μ σ s) (m_cl : μ .cl) :
    Keeps μ σ (State.setQueue s p q) := by
  unfold State.setQueue
  repeat' first
    | with_reducible assumption
    | intro _
    | with_reducible apply Keeps.ite
    | ((fail_if_no_progress extract_lets +onlyGivenNames x); first | (refine Keeps.bind x ?_ ?_; (try subst x); rotate_left; intro hx; rotate_left) | skip)
    | simp only [Keeps.upd_cl m_cl]

theorem Keeps.putWire (s : State) (p : ℕ) (src : ℕ) (t : ℕ) (m : Msg) (hs : Keeps μ σ s) (m_free : μ .free) (m_cl : μ .cl) :
    Keeps μ σ (State.putWire s p src t m) := by
  unfold State.putWire
  repeat' first
    | with_reducible assumption
    | intro _
    | with_reducible apply Keeps.ite
    | ((fail_if_no_progress extract_lets +onlyGivenNames x); first | (refine Keeps.bind x ?_ ?_; (try subst x); rotate_left; intro hx; rotate_left) | skip)
    | with_reducible apply Keeps.fresh
    | with_reducible apply Keeps.loadAdd
    | simp only [Keeps.upd_cl m_cl]
    | split
    | simp only [id_eq]

theorem Keeps.nextSeq (s : State) (hs : Keeps μ σ s) (m_space : μ .space) (m_log : μ .log) (m_ten : μ .ten) (m_cl : μ .cl) :
    Keeps μ σ (State.nextSeq s) := by
  unfold State.nextSeq
  repeat' first
    | with_reducible assumption
    | intro _
    | with_reducible apply Keeps.ite
    | ((fail_if_no_progress extract_lets +onlyGivenNames x); first | (refine Keeps.bind x ?_ ?_; (try subst x); rotate_left; intro hx; rotate_left) | skip)
    | with_reducible apply Keeps.each
    | with_reducible apply Keeps.epochAdvance
    | with_reducible apply Keeps.rwClose
    | simp only [Keeps.upd_cl m_cl]

theorem Keeps.notSent (s : State) (m : OutMsg) (hs : Keeps μ σ s) (m_space : μ .space) (m_log : μ .log) (m_ten : μ .ten) (m_subOut : μ .subOut) (m_cl : μ .cl) :
    Keeps μ σ (State.notSent s m) := by
  unfold State.notSent
  repeat' first
    | with_reducible assumption
    | intro _
    | with_reducible apply Keeps.ite
    | with_reducible apply Keeps.inc
    | with_reducible apply Keeps.pubReturn
    | with_reducible apply Keeps.rwUnreachable
    | split

theorem Keeps.buildMsg (s : State) (m : OutMsg) (hs : Keeps μ σ s) (m_space : μ .space) (m_log : μ .log) (m_ten : μ .ten) (m_cl : μ .cl) :
    Keeps μ σ (State.buildMsg s m).1 := by
  unfold State.buildMsg
  repeat' first
    | with_reducible assumption
    | intro _
    | with_reducible apply Keeps.ite
    | ((fail_if_no_progress extract_lets +onlyGivenNames x); first | (refine Keeps.bind x ?_ ?_; (try subst x); rotate_left; intro hx; rotate_left) | skip)
    | with_reducible apply Keeps.nextSeq
    | simp only [Keeps.upd_cl m_cl]
    | split

theorem Keeps.reqSent (s : State) (p : ℕ) (m : OutMsg) (hs : Keeps μ σ s) (m_cl : μ .cl) :
    Keeps μ σ (State.reqSent s p m) := by
  unfold State.reqSent
  repeat' first
    | with_reducible assumption
    | intro _
    | with_reducible apply Keeps.ite
    | ((fail_if_no_progress extract_lets +onlyGivenNames x); first | (refine Keeps.bind x ?_ ?_; (try subst x); rotate_left; intro hx; rotate_left) | skip)
    | simp only [Keeps.upd_cl m_cl]
    | split
    | simp only [id_eq]

theorem Keeps.unhold (s : State) (hs : Keeps μ σ s) (m_space : μ .space) (m_log : μ .log) (m_ten : μ .ten) (m_subOut : μ .subOut) (m_cl : μ .cl) :
    Keeps μ σ (State.unhold s) := by
  unfold State.unhold
  repeat' first
    | with_reducible assumption
    | intro _
    | with_reducible apply Keeps.ite
    | ((fail_if_no_progress extract_lets +onlyGivenNames x); first | (refine Keeps.bind x ?_ ?_; (try subst x); rotate_left; intro hx; rotate_left) | skip)
    | with_reducible apply Keeps.each
    | with_reducible apply Keeps.notSent
    | with_reducible apply Keeps.place
    | simp only [Keeps.upd_cl m_cl]
    | split
    | simp only [id_eq]

theorem Keeps.solicitAll (s : State) (p : ℕ) (src : ℕ) (hs : Keeps μ σ s) (m_cl : μ .cl) :
    Keeps μ σ (State.solicitAll s p src) := by
  unfold State.solicitAll
  repeat' first
    | with_reducible assumption
    | intro _
    | with_reducible apply Keeps.ite
    | ((fail_if_no_progress extract_lets +onlyGivenNames x); first | (refine Keeps.bind x ?_ ?_; (try subst x); rotate_left; intro hx; rotate_left) | skip)
    | with_reducible apply Keeps.icmpOut
    | split
    | simp only [id_eq]

theorem Keeps.clTransmit (s : State) (p : ℕ) (hs : Keeps μ σ s) (m_space : μ .space) (m_free : μ .free) (m_log : μ .log) (m_ten : μ .ten) (m_subOut : μ .subOut) (m_cl : μ .cl) :
    Keeps μ σ (State.clTransmit s p) := by
  unfold State.clTransmit
  repeat' first
    | with_reducible assumption
    | intro _
    | with_reducible apply Keeps.ite
    | ((fail_if_no_progress extract_lets +onlyGivenNames x); first | (refine Keeps.bind x ?_ ?_; (try subst x); rotate_left; intro hx; rotate_left) | skip)
    | with_reducible apply Keeps.buildMsg
    | with_reducible apply Keeps.inc
    | with_reducible apply Keeps.notSent
    | with_reducible apply Keeps.putWire
    | with_reducible apply Keeps.reqSent
    | with_reducible apply Keeps.setQueue
    | with_reducible apply Keeps.solicitAll
    | with_reducible apply Keeps.unhold
    | with_reducible apply Keeps.of_fst (by assumption)
    | with_reducible apply Keeps.of_snd (by assumption)
    | split
    | simp only [id_eq]

theorem Keeps.of_execClMessageTransmit (port : Fin 3) (s : State) (hs : Keeps μ σ s) (m_space : μ .space) (m_free : μ .free) (m_log : μ .log) (m_ten : μ .ten) (m_subOut : μ .subOut) (m_cl : μ .cl) :
    KeepsO μ σ (execClMessageTransmit port s) := by
  unfold execClMessageTransmit
  repeat' first
    | with_reducible assumption
    | intro _
    | with_reducible apply KeepsO.next
    | with_reducible apply Keeps.ite
    | with_reducible apply Keeps.clTransmit

theorem Keeps.clQueueEmpty (s : State) (p : ℕ) (hs : Keeps μ σ s) (m_space : μ .space) (m_subOut : μ .subOut) (m_cl : μ .cl) :
    Keeps μ σ (State.clQueueEmpty s p) := by
  unfold State.clQueueEmpty
  repeat' first
    | with_reducible assumption
    | intro _
    | with_reducible apply Keeps.ite
    | ((fail_if_no_progress extract_lets +onlyGivenNames x); first | (refine Keeps.bind x ?_ ?_; (try subst x); rotate_left; intro hx; rotate_left) | skip)
    | with_reducible apply Keeps.each
    | with_reducible apply Keeps.inc
    | with_reducible apply Keeps.pubReturn
    | with_reducible apply Keeps.setQueue

theorem Keeps.clReroute (s : State) (p : ℕ) (hs : Keeps μ σ s) (m_space : μ .space) (m_log : μ .log) (m_ten : μ .ten) (m_subOut : μ .subOut) (m_cl : μ .cl) :
    Keeps μ σ (State.clReroute s p) := by
  unfold State.clReroute
  repeat' first
    | with_reducible assumption
    | intro _
    | with_reducible apply Keeps.ite
    | ((fail_if_no_progress extract_lets +onlyGivenNames x); first | (refine Keeps.bind x ?_ ?_; (try subst x); rotate_left; intro hx; rotate_left) | skip)
    | with_reducible apply Keeps.each
    | with_reducible apply Keeps.enqueue
    | with_reducible apply Keeps.inc
    | with_reducible apply Keeps.notSent
    | with_reducible apply Keeps.place
    | with_reducible apply Keeps.pubReturn
    | with_reducible apply Keeps.setQueue
    | split
    | simp only [id_eq]

end Sys2Proof.Machine
end

