-- ==== Sys2Proof/Laws/KeepsIslands.lean ====
section
/-! SUPPORT. What each operation of Machine/Islands.lean keeps: the queue, the clock's direction, the canonical form of the register
space, and every part of the state it does not name (`Keeps`). -/

set_option linter.unusedTactic false
set_option linter.unreachableTactic false
set_option linter.unusedSimpArgs false
set_option linter.unusedVariables false

namespace Sys2Proof.Machine

variable {μ : Part → Prop} {σ : State}

theorem Keeps.sendTopo (s : State) (hs : Keeps μ σ s) (m_cl : μ .cl) :
    Keeps μ σ (State.sendTopo s) := by
  unfold State.sendTopo
  repeat' first
    | with_reducible assumption
    | intro _
    | with_reducible apply Keeps.ite
    | with_reducible apply Keeps.sendOn

theorem Keeps.sendAdv (s : State) (hs : Keeps μ σ s) (m_cl : μ .cl) :
    Keeps μ σ (State.sendAdv s) := by
  unfold State.sendAdv
  repeat' first
    | with_reducible assumption
    | intro _
    | with_reducible apply Keeps.ite
    | with_reducible apply Keeps.sendOn

theorem Keeps.relayMap (s : State) (hs : Keeps μ σ s) (m_cl : μ .cl) :
    Keeps μ σ (State.relayMap s) := by
  unfold State.relayMap
  repeat' first
    | with_reducible assumption
    | intro _
    | with_reducible apply Keeps.ite
    | with_reducible apply Keeps.sendOn
    | split

theorem Keeps.setRole (s : State) (f : Fld) (v : Bool) (hs : Keeps μ σ s) (m_space : μ .space) (m_log : μ .log) (m_ten : μ .ten) :
    Keeps μ σ (State.setRole s f v) := by
  unfold State.setRole
  repeat' first
    | with_reducible assumption
    | intro _
    | with_reducible apply Keeps.ite
    | ((fail_if_no_progress extract_lets +onlyGivenNames x); first | (refine Keeps.bind x ?_ ?_; (try subst x); rotate_left; intro hx; rotate_left) | skip)
    | with_reducible apply Keeps.auditEvent
    | with_reducible apply Keeps.put
    | split
    | simp only [id_eq]

theorem Keeps.dropCampusMaster (s : State) (hs : Keeps μ σ s) (m_space : μ .space) (m_log : μ .log) (m_ten : μ .ten) (m_cl : μ .cl) (m_isl : μ .isl) :
    Keeps μ σ (State.dropCampusMaster s) := by
  unfold State.dropCampusMaster
  repeat' first
    | with_reducible assumption
    | intro _
    | with_reducible apply Keeps.ite
    | ((fail_if_no_progress extract_lets +onlyGivenNames x); first | (refine Keeps.bind x ?_ ?_; (try subst x); rotate_left; intro hx; rotate_left) | skip)
    | with_reducible apply Keeps.put
    | with_reducible apply Keeps.setRole
    | simp only [Keeps.upd_cl_isl m_cl m_isl]
    | split
    | simp only [id_eq]

theorem Keeps.disableBb (s : State) (hs : Keeps μ σ s) (m_space : μ .space) (m_cl : μ .cl) :
    Keeps μ σ (State.disableBb s) := by
  unfold State.disableBb
  repeat' first
    | with_reducible assumption
    | intro _
    | with_reducible apply Keeps.ite
    | with_reducible apply Keeps.put
    | with_reducible apply Keeps.setDad

theorem Keeps.dropIslandMaster (s : State) (hs : Keeps μ σ s) (m_space : μ .space) (m_log : μ .log) (m_ten : μ .ten) (m_cl : μ .cl) (m_isl : μ .isl) :
    Keeps μ σ (State.dropIslandMaster s) := by
  unfold State.dropIslandMaster
  repeat' first
    | with_reducible assumption
    | intro _
    | with_reducible apply Keeps.ite
    | ((fail_if_no_progress extract_lets +onlyGivenNames x); first | (refine Keeps.bind x ?_ ?_; (try subst x); rotate_left; intro hx; rotate_left) | skip)
    | with_reducible apply Keeps.disableBb
    | with_reducible apply Keeps.dropCampusMaster
    | with_reducible apply Keeps.setRole
    | simp only [Keeps.upd_isl m_isl]
    | split
    | simp only [id_eq]

theorem Keeps.reachUpdate (s : State) (hs : Keeps μ σ s) (m_space : μ .space) (m_subIn : μ .subIn) (m_isl : μ .isl) :
    Keeps μ σ (State.reachUpdate s) := by
  unfold State.reachUpdate
  repeat' first
    | with_reducible assumption
    | intro _
    | with_reducible apply Keeps.ite
    | ((fail_if_no_progress extract_lets +onlyGivenNames x); first | (refine Keeps.bind x ?_ ?_; (try subst x); rotate_left; intro hx; rotate_left) | skip)
    | with_reducible apply Keeps.foldl
    | with_reducible apply Keeps.put
    | with_reducible apply Keeps.subInMap
    | simp only [Keeps.upd_isl m_isl]

theorem Keeps.fragUpdate (s : State) (hs : Keeps μ σ s) (m_space : μ .space) (m_isl : μ .isl) :
    Keeps μ σ (State.fragUpdate s) := by
  unfold State.fragUpdate
  repeat' first
    | with_reducible assumption
    | intro _
    | with_reducible apply Keeps.ite
    | ((fail_if_no_progress extract_lets +onlyGivenNames x); first | (refine Keeps.bind x ?_ ?_; (try subst x); rotate_left; intro hx; rotate_left) | skip)
    | with_reducible apply Keeps.inc
    | with_reducible apply Keeps.put
    | simp only [Keeps.upd_isl m_isl]

theorem Keeps.roleUpdate (s : State) (hs : Keeps μ σ s) (m_space : μ .space) (m_log : μ .log) (m_ten : μ .ten) (m_cl : μ .cl) (m_isl : μ .isl) :
    Keeps μ σ (State.roleUpdate s) := by
  unfold State.roleUpdate
  repeat' first
    | with_reducible assumption
    | intro _
    | with_reducible apply Keeps.ite
    | ((fail_if_no_progress extract_lets +onlyGivenNames x); first | (refine Keeps.bind x ?_ ?_; (try subst x); rotate_left; intro hx; rotate_left) | skip)
    | with_reducible apply Keeps.dropIslandMaster
    | with_reducible apply Keeps.sendTopo
    | split
    | simp only [id_eq]

theorem Keeps.noMasterUpdate (s : State) (hs : Keeps μ σ s) (m_space : μ .space) (m_ten : μ .ten) :
    Keeps μ σ (State.noMasterUpdate s) := by
  unfold State.noMasterUpdate
  repeat' first
    | with_reducible assumption
    | intro _
    | with_reducible apply Keeps.ite
    | with_reducible apply Keeps.postErr
    | with_reducible apply Keeps.put

theorem Keeps.fragRegs (s : State) (hs : Keeps μ σ s) (m_space : μ .space) :
    Keeps μ σ (State.fragRegs s) := by
  unfold State.fragRegs
  repeat' first
    | with_reducible assumption
    | intro _
    | with_reducible apply Keeps.ite
    | ((fail_if_no_progress extract_lets +onlyGivenNames x); first | (refine Keeps.bind x ?_ ?_; (try subst x); rotate_left; intro hx; rotate_left) | skip)
    | with_reducible apply Keeps.put

theorem Keeps.islUpdate (s : State) (hs : Keeps μ σ s) (m_space : μ .space) (m_log : μ .log) (m_ten : μ .ten) (m_subIn : μ .subIn) (m_cl : μ .cl) (m_isl : μ .isl) :
    Keeps μ σ (State.islUpdate s) := by
  unfold State.islUpdate
  repeat' first
    | with_reducible assumption
    | intro _
    | with_reducible apply Keeps.ite
    | with_reducible apply Keeps.fragRegs
    | with_reducible apply Keeps.fragUpdate
    | with_reducible apply Keeps.mirrorCheck
    | with_reducible apply Keeps.noMasterUpdate
    | with_reducible apply Keeps.reachUpdate
    | with_reducible apply Keeps.roleUpdate

theorem Keeps.changeStrait (s : State) (p : ℕ) (x : Strait) (hs : Keeps μ σ s) (m_space : μ .space) (m_log : μ .log) (m_ten : μ .ten) (m_subIn : μ .subIn) (m_subOut : μ .subOut) (m_cl : μ .cl) (m_isl : μ .isl) :
    Keeps μ σ (State.changeStrait s p x) := by
  unfold State.changeStrait
  repeat' first
    | with_reducible assumption
    | intro _
    | with_reducible apply Keeps.ite
    | ((fail_if_no_progress extract_lets +onlyGivenNames x); first | (refine Keeps.bind x ?_ ?_; (try subst x); rotate_left; intro hx; rotate_left) | skip)
    | with_reducible apply Keeps.clReroute
    | with_reducible apply Keeps.islUpdate
    | with_reducible apply Keeps.sendTopo
    | with_reducible apply Keeps.setStrait
    | simp only [Keeps.upd_isl m_isl]

theorem Keeps.miswire (s : State) (p : ℕ) (m : Msg) (hs : Keeps μ σ s) (m_space : μ .space) (m_ten : μ .ten) (m_isl : μ .isl) :
    Keeps μ σ (State.miswire s p m) := by
  unfold State.miswire
  repeat' first
    | with_reducible assumption
    | intro _
    | with_reducible apply Keeps.ite
    | ((fail_if_no_progress extract_lets +onlyGivenNames x); first | (refine Keeps.bind x ?_ ?_; (try subst x); rotate_left; intro hx; rotate_left) | skip)
    | with_reducible apply Keeps.postErr
    | with_reducible apply Keeps.put
    | with_reducible apply Keeps.setStrait

theorem Keeps.straitAge (s : State) (p : ℕ) (hs : Keeps μ σ s) (m_space : μ .space) (m_log : μ .log) (m_ten : μ .ten) (m_subIn : μ .subIn) (m_subOut : μ .subOut) (m_cl : μ .cl) (m_isl : μ .isl) :
    Keeps μ σ (State.straitAge s p) := by
  unfold State.straitAge
  repeat' first
    | with_reducible assumption
    | intro _
    | with_reducible apply Keeps.ite
    | with_reducible apply Keeps.changeStrait

theorem Keeps.helloRx (s : State) (p : ℕ) (m : Msg) (hs : Keeps μ σ s) (m_space : μ .space) (m_log : μ .log) (m_ten : μ .ten) (m_subIn : μ .subIn) (m_subOut : μ .subOut) (m_cl : μ .cl) (m_isl : μ .isl) :
    Keeps μ σ (State.helloRx s p m) := by
  unfold State.helloRx
  repeat' first
    | with_reducible assumption
    | intro _
    | with_reducible apply Keeps.ite
    | with_reducible apply Keeps.changeStrait
    | with_reducible apply Keeps.miswire
    | with_reducible apply Keeps.setStrait
    | with_reducible apply Keeps.straitAge

theorem Keeps.of_execStraitPendingTimeout (p : Fin 2) (s : State) (hs : Keeps μ σ s) (m_space : μ .space) (m_now : μ .now) (m_campusOff : μ .campusOff) (m_log : μ .log) (m_ten : μ .ten) (m_subIn : μ .subIn) (m_subOut : μ .subOut) (m_cl : μ .cl) (m_isl : μ .isl) :
    KeepsO μ σ (execStraitPendingTimeout p s) := by
  unfold execStraitPendingTimeout
  repeat' first
    | with_reducible assumption
    | intro _
    | with_reducible apply KeepsO.next
    | with_reducible apply Keeps.ite
    | with_reducible apply Keeps.changeStrait
    | with_reducible apply Keeps.reach

theorem Keeps.of_execStraitHelloTimeout (p : Fin 2) (s : State) (hs : Keeps μ σ s) (m_space : μ .space) (m_now : μ .now) (m_campusOff : μ .campusOff) (m_log : μ .log) (m_ten : μ .ten) (m_subIn : μ .subIn) (m_subOut : μ .subOut) (m_cl : μ .cl) (m_isl : μ .isl) :
    KeepsO μ σ (execStraitHelloTimeout p s) := by
  unfold execStraitHelloTimeout
  repeat' first
    | with_reducible assumption
    | intro _
    | with_reducible apply KeepsO.next
    | with_reducible apply Keeps.ite
    | with_reducible apply Keeps.changeStrait
    | with_reducible apply Keeps.reach

theorem Keeps.of_execMiswireTimeout (p : Fin 2) (s : State) (hs : Keeps μ σ s) (m_space : μ .space) (m_now : μ .now) (m_campusOff : μ .campusOff) (m_log : μ .log) (m_ten : μ .ten) (m_subIn : μ .subIn) (m_subOut : μ .subOut) (m_cl : μ .cl) (m_isl : μ .isl) :
    KeepsO μ σ (execMiswireTimeout p s) := by
  unfold execMiswireTimeout
  repeat' first
    | with_reducible assumption
    | intro _
    | with_reducible apply KeepsO.next
    | with_reducible apply Keeps.ite
    | with_reducible apply Keeps.changeStrait
    | with_reducible apply Keeps.reach

theorem Keeps.of_execHelloSend (s : State) (hs : Keeps μ σ s) (m_cl : μ .cl) :
    KeepsO μ σ (execHelloSend s) := by
  unfold execHelloSend
  repeat' first
    | with_reducible assumption
    | intro _
    | with_reducible apply KeepsO.next
    | with_reducible apply Keeps.ite
    | with_reducible apply Keeps.each
    | with_reducible apply Keeps.sendOn

theorem Keeps.of_execTopoSend (s : State) (hs : Keeps μ σ s) (m_cl : μ .cl) :
    KeepsO μ σ (execTopoSend s) := by
  unfold execTopoSend
  repeat' first
    | with_reducible assumption
    | intro _
    | with_reducible apply KeepsO.next
    | with_reducible apply Keeps.ite
    | with_reducible apply Keeps.sendTopo

theorem Keeps.of_execEstablishedSet (s : State) (hs : Keeps μ σ s) (m_space : μ .space) (m_now : μ .now) (m_campusOff : μ .campusOff) (m_cl : μ .cl) :
    KeepsO μ σ (execEstablishedSet s) := by
  unfold execEstablishedSet
  repeat' first
    | with_reducible assumption
    | intro _
    | with_reducible apply KeepsO.next
    | with_reducible apply Keeps.ite
    | with_reducible apply Keeps.put
    | with_reducible apply Keeps.reach
    | with_reducible apply Keeps.sendTopo
    | split

theorem Keeps.idConflict (s : State) (p : ℕ) (mac : ℕ) (state : ℕ) (hs : Keeps μ σ s) (m_space : μ .space) (m_log : μ .log) (m_ten : μ .ten) (m_subIn : μ .subIn) (m_cl : μ .cl) (m_isl : μ .isl) :
    Keeps μ σ (State.idConflict s p mac state) := by
  unfold State.idConflict
  repeat' first
    | with_reducible assumption
    | intro _
    | with_reducible apply Keeps.ite
    | with_reducible apply Keeps.dropIslandMaster
    | with_reducible apply Keeps.islUpdate
    | with_reducible apply Keeps.postErr
    | with_reducible apply Keeps.put

theorem Keeps.topoRx (s : State) (m : Msg) (hs : Keeps μ σ s) (m_space : μ .space) (m_log : μ .log) (m_ten : μ .ten) (m_subIn : μ .subIn) (m_cl : μ .cl) (m_isl : μ .isl) :
    Keeps μ σ (State.topoRx s m) := by
  unfold State.topoRx
  repeat' first
    | with_reducible assumption
    | intro _
    | with_reducible apply Keeps.ite
    | ((fail_if_no_progress extract_lets +onlyGivenNames x); first | (refine Keeps.bind x ?_ ?_; (try subst x); rotate_left; intro hx; rotate_left) | skip)
    | with_reducible apply Keeps.islUpdate
    | simp only [Keeps.upd_isl m_isl]

theorem Keeps.of_execTopoExpiry (member : Fin 32) (s : State) (hs : Keeps μ σ s) (m_space : μ .space) (m_now : μ .now) (m_campusOff : μ .campusOff) (m_log : μ .log) (m_ten : μ .ten) (m_subIn : μ .subIn) (m_cl : μ .cl) (m_isl : μ .isl) :
    KeepsO μ σ (execTopoExpiry member s) := by
  unfold execTopoExpiry
  repeat' first
    | with_reducible assumption
    | intro _
    | with_reducible apply KeepsO.next
    | with_reducible apply Keeps.ite
    | with_reducible apply Keeps.islUpdate
    | with_reducible apply Keeps.reach
    | simp only [Keeps.upd_isl m_isl]
    | split

theorem Keeps.takeIslandMaster (s : State) (hs : Keeps μ σ s) (m_space : μ .space) (m_now : μ .now) (m_campusOff : μ .campusOff) (m_log : μ .log) (m_ten : μ .ten) (m_subIn : μ .subIn) (m_cl : μ .cl) (m_isl : μ .isl) :
    Keeps μ σ (State.takeIslandMaster s) := by
  unfold State.takeIslandMaster
  repeat' first
    | with_reducible assumption
    | intro _
    | with_reducible apply Keeps.ite
    | ((fail_if_no_progress extract_lets +onlyGivenNames x); first | (refine Keeps.bind x ?_ ?_; (try subst x); rotate_left; intro hx; rotate_left) | skip)
    | with_reducible apply Keeps.islUpdate
    | with_reducible apply Keeps.reach
    | with_reducible apply Keeps.sendAdv
    | with_reducible apply Keeps.sendTopo
    | with_reducible apply Keeps.setRole
    | simp only [Keeps.upd_isl m_isl]

theorem Keeps.of_execIslandMasterTake (s : State) (hs : Keeps μ σ s) (m_space : μ .space) (m_now : μ .now) (m_campusOff : μ .campusOff) (m_log : μ .log) (m_ten : μ .ten) (m_subIn : μ .subIn) (m_cl : μ .cl) (m_isl : μ .isl) :
    KeepsO μ σ (execIslandMasterTake s) := by
  unfold execIslandMasterTake
  repeat' first
    | with_reducible assumption
    | intro _
    | with_reducible apply KeepsO.next
    | with_reducible apply Keeps.ite
    | with_reducible apply Keeps.takeIslandMaster

theorem Keeps.mapRegs (s : State) (hs : Keeps μ σ s) (m_space : μ .space) :
    Keeps μ σ (State.mapRegs s) := by
  unfold State.mapRegs
  repeat' first
    | with_reducible assumption
    | intro _
    | with_reducible apply Keeps.ite
    | ((fail_if_no_progress extract_lets +onlyGivenNames x); first | (refine Keeps.bind x ?_ ?_; (try subst x); rotate_left; intro hx; rotate_left) | skip)
    | with_reducible apply Keeps.foldl
    | with_reducible apply Keeps.each
    | with_reducible apply Keeps.put

theorem Keeps.rejectedUpdate (s : State) (m : CMap) (hs : Keeps μ σ s) (m_space : μ .space) (m_ten : μ .ten) (m_isl : μ .isl) :
    Keeps μ σ (State.rejectedUpdate s m) := by
  unfold State.rejectedUpdate
  repeat' first
    | with_reducible assumption
    | intro _
    | with_reducible apply Keeps.ite
    | ((fail_if_no_progress extract_lets +onlyGivenNames x); first | (refine Keeps.bind x ?_ ?_; (try subst x); rotate_left; intro hx; rotate_left) | skip)
    | with_reducible apply Keeps.postErr
    | with_reducible apply Keeps.put
    | simp only [Keeps.upd_isl m_isl]

theorem Keeps.setMap (s : State) (m : CMap) (hs : Keeps μ σ s) (m_space : μ .space) (m_ten : μ .ten) (m_subIn : μ .subIn) (m_isl : μ .isl) :
    Keeps μ σ (State.setMap s m) := by
  unfold State.setMap
  repeat' first
    | with_reducible assumption
    | intro _
    | with_reducible apply Keeps.ite
    | ((fail_if_no_progress extract_lets +onlyGivenNames x); first | (refine Keeps.bind x ?_ ?_; (try subst x); rotate_left; intro hx; rotate_left) | skip)
    | with_reducible apply Keeps.inc
    | with_reducible apply Keeps.mapRegs
    | with_reducible apply Keeps.put
    | with_reducible apply Keeps.reachUpdate
    | with_reducible apply Keeps.rejectedUpdate
    | simp only [Keeps.upd_isl m_isl]

theorem Keeps.dropMap (s : State) (hs : Keeps μ σ s) (m_space : μ .space) (m_subIn : μ .subIn) (m_isl : μ .isl) :
    Keeps μ σ (State.dropMap s) := by
  unfold State.dropMap
  repeat' first
    | with_reducible assumption
    | intro _
    | with_reducible apply Keeps.ite
    | ((fail_if_no_progress extract_lets +onlyGivenNames x); first | (refine Keeps.bind x ?_ ?_; (try subst x); rotate_left; intro hx; rotate_left) | skip)
    | with_reducible apply Keeps.mapRegs
    | with_reducible apply Keeps.put
    | with_reducible apply Keeps.reachUpdate
    | simp only [Keeps.upd_isl m_isl]

theorem Keeps.followCheck (s : State) (hs : Keeps μ σ s) (m_isl : μ .isl) :
    Keeps μ σ (State.followCheck s) := by
  unfold State.followCheck
  repeat' first
    | with_reducible assumption
    | intro _
    | with_reducible apply Keeps.ite
    | ((fail_if_no_progress extract_lets +onlyGivenNames x); first | (refine Keeps.bind x ?_ ?_; (try subst x); rotate_left; intro hx; rotate_left) | skip)
    | simp only [Keeps.upd_isl m_isl]
    | split
    | simp only [id_eq]

theorem Keeps.mapRx (s : State) (p : ℕ) (m : Msg) (hs : Keeps μ σ s) (m_space : μ .space) (m_ten : μ .ten) (m_subIn : μ .subIn) (m_isl : μ .isl) :
    Keeps μ σ (State.mapRx s p m) := by
  unfold State.mapRx
  repeat' first
    | with_reducible assumption
    | intro _
    | with_reducible apply Keeps.ite
    | ((fail_if_no_progress extract_lets +onlyGivenNames x); first | (refine Keeps.bind x ?_ ?_; (try subst x); rotate_left; intro hx; rotate_left) | skip)
    | with_reducible apply Keeps.followCheck
    | with_reducible apply Keeps.setMap
    | simp only [Keeps.upd_isl m_isl]
    | split
    | simp only [id_eq]

theorem Keeps.of_execCampusMapRelay (s : State) (hs : Keeps μ σ s) (m_cl : μ .cl) (m_isl : μ .isl) :
    KeepsO μ σ (execCampusMapRelay s) := by
  unfold execCampusMapRelay
  repeat' first
    | with_reducible assumption
    | intro _
    | with_reducible apply KeepsO.next
    | with_reducible apply Keeps.ite
    | ((fail_if_no_progress extract_lets +onlyGivenNames x); first | (refine Keeps.bind x ?_ ?_; (try subst x); rotate_left; intro hx; rotate_left) | (refine KeepsO.bind x ?_ ?_; (try subst x); rotate_left; intro hx; rotate_left) | skip)
    | with_reducible apply Keeps.relayMap
    | simp only [Keeps.upd_isl m_isl]

theorem Keeps.sendOwnMap (s : State) (hs : Keeps μ σ s) (m_space : μ .space) (m_ten : μ .ten) (m_subIn : μ .subIn) (m_cl : μ .cl) (m_isl : μ .isl) :
    Keeps μ σ (State.sendOwnMap s) := by
  unfold State.sendOwnMap
  repeat' first
    | with_reducible assumption
    | intro _
    | with_reducible apply Keeps.ite
    | with_reducible apply Keeps.relayMap
    | with_reducible apply Keeps.sendOn
    | with_reducible apply Keeps.setMap
    | split

theorem Keeps.mapBuild (s : State) (hs : Keeps μ σ s) (m_space : μ .space) (m_free : μ .free) (m_ten : μ .ten) (m_subIn : μ .subIn) (m_cl : μ .cl) (m_isl : μ .isl) :
    Keeps μ σ (State.mapBuild s) := by
  unfold State.mapBuild
  repeat' first
    | with_reducible assumption
    | intro _
    | with_reducible apply Keeps.ite
    | ((fail_if_no_progress extract_lets +onlyGivenNames x); first | (refine Keeps.bind x ?_ ?_; (try subst x); rotate_left; intro hx; rotate_left) | skip)
    | with_reducible apply Keeps.each
    | with_reducible apply Keeps.fresh
    | with_reducible apply Keeps.postErr
    | with_reducible apply Keeps.put
    | with_reducible apply Keeps.sendOwnMap
    | simp only [Keeps.upd_isl m_isl]
    | split

theorem Keeps.of_execIslandAdvSend (s : State) (hs : Keeps μ σ s) (m_space : μ .space) (m_free : μ .free) (m_ten : μ .ten) (m_subIn : μ .subIn) (m_cl : μ .cl) (m_isl : μ .isl) :
    KeepsO μ σ (execIslandAdvSend s) := by
  unfold execIslandAdvSend
  repeat' first
    | with_reducible assumption
    | intro _
    | with_reducible apply KeepsO.next
    | with_reducible apply Keeps.ite
    | with_reducible apply Keeps.mapBuild
    | with_reducible apply Keeps.sendAdv

theorem Keeps.of_execCampusMapSend (s : State) (hs : Keeps μ σ s) (m_space : μ .space) (m_free : μ .free) (m_ten : μ .ten) (m_subIn : μ .subIn) (m_cl : μ .cl) (m_isl : μ .isl) :
    KeepsO μ σ (execCampusMapSend s) := by
  unfold execCampusMapSend
  repeat' first
    | with_reducible assumption
    | intro _
    | with_reducible apply KeepsO.next
    | with_reducible apply Keeps.ite
    | with_reducible apply Keeps.mapBuild
    | with_reducible apply Keeps.sendOwnMap

theorem Keeps.advRx (s : State) (m : Msg) (addr : ℕ) (hs : Keeps μ σ s) (m_space : μ .space) (m_free : μ .free) (m_log : μ .log) (m_ten : μ .ten) (m_subIn : μ .subIn) (m_cl : μ .cl) (m_isl : μ .isl) :
    Keeps μ σ (State.advRx s m addr) := by
  unfold State.advRx
  repeat' first
    | with_reducible assumption
    | intro _
    | with_reducible apply Keeps.ite
    | ((fail_if_no_progress extract_lets +onlyGivenNames x); first | (refine Keeps.bind x ?_ ?_; (try subst x); rotate_left; intro hx; rotate_left) | skip)
    | with_reducible apply Keeps.dropCampusMaster
    | with_reducible apply Keeps.followCheck
    | with_reducible apply Keeps.mapBuild
    | with_reducible apply Keeps.sendTopo
    | simp only [Keeps.upd_isl m_isl]
    | split
    | simp only [id_eq]

theorem Keeps.of_execIslandAdvTimeout (dev : Fin 1024) (s : State) (hs : Keeps μ σ s) (m_space : μ .space) (m_now : μ .now) (m_campusOff : μ .campusOff) (m_free : μ .free) (m_ten : μ .ten) (m_subIn : μ .subIn) (m_cl : μ .cl) (m_isl : μ .isl) :
    KeepsO μ σ (execIslandAdvTimeout dev s) := by
  unfold execIslandAdvTimeout
  repeat' first
    | with_reducible assumption
    | intro _
    | with_reducible apply KeepsO.next
    | with_reducible apply Keeps.ite
    | ((fail_if_no_progress extract_lets +onlyGivenNames x); first | (refine Keeps.bind x ?_ ?_; (try subst x); rotate_left; intro hx; rotate_left) | (refine KeepsO.bind x ?_ ?_; (try subst x); rotate_left; intro hx; rotate_left) | skip)
    | with_reducible apply Keeps.followCheck
    | with_reducible apply Keeps.mapBuild
    | with_reducible apply Keeps.reach
    | simp only [Keeps.upd_isl m_isl]
    | split
    | simp only [id_eq]

theorem Keeps.takeCampusMaster (s : State) (hs : Keeps μ σ s) (m_space : μ .space) (m_now : μ .now) (m_campusOff : μ .campusOff) (m_free : μ .free) (m_log : μ .log) (m_ten : μ .ten) (m_subIn : μ .subIn) (m_cl : μ .cl) (m_isl : μ .isl) :
    Keeps μ σ (State.takeCampusMaster s) := by
  unfold State.takeCampusMaster
  repeat' first
    | with_reducible assumption
    | intro _
    | with_reducible apply Keeps.ite
    | ((fail_if_no_progress extract_lets +onlyGivenNames x); first | (refine Keeps.bind x ?_ ?_; (try subst x); rotate_left; intro hx; rotate_left) | skip)
    | with_reducible apply Keeps.mapBuild
    | with_reducible apply Keeps.put
    | with_reducible apply Keeps.reach
    | with_reducible apply Keeps.sendTopo
    | with_reducible apply Keeps.setRole
    | simp only [Keeps.upd_isl m_isl]

theorem Keeps.of_execCampusMasterTake (s : State) (hs : Keeps μ σ s) (m_space : μ .space) (m_now : μ .now) (m_campusOff : μ .campusOff) (m_free : μ .free) (m_log : μ .log) (m_ten : μ .ten) (m_subIn : μ .subIn) (m_cl : μ .cl) (m_isl : μ .isl) :
    KeepsO μ σ (execCampusMasterTake s) := by
  unfold execCampusMasterTake
  repeat' first
    | with_reducible assumption
    | intro _
    | with_reducible apply KeepsO.next
    | with_reducible apply Keeps.ite
    | with_reducible apply Keeps.takeCampusMaster

theorem Keeps.of_execCampusMapTimeout (s : State) (hs : Keeps μ σ s) (m_space : μ .space) (m_now : μ .now) (m_campusOff : μ .campusOff) (m_subIn : μ .subIn) (m_cl : μ .cl) (m_isl : μ .isl) :
    KeepsO μ σ (execCampusMapTimeout s) := by
  unfold execCampusMapTimeout
  repeat' first
    | with_reducible assumption
    | intro _
    | with_reducible apply KeepsO.next
    | with_reducible apply Keeps.ite
    | with_reducible apply Keeps.dropMap
    | with_reducible apply Keeps.reach

theorem Keeps.of_execDeviceRelease (s : State) (hs : Keeps μ σ s) (m_space : μ .space) (m_now : μ .now) (m_campusOff : μ .campusOff) (m_cl : μ .cl) :
    KeepsO μ σ (execDeviceRelease s) := by
  unfold execDeviceRelease
  repeat' first
    | with_reducible assumption
    | intro _
    | with_reducible apply KeepsO.next
    | with_reducible apply Keeps.ite
    | with_reducible apply Keeps.put
    | with_reducible apply Keeps.reach

theorem Keeps.of_execSubOutHoldExpiry (dev : Fin 1024) (s : State) (hs : Keeps μ σ s) (m_space : μ .space) (m_now : μ .now) (m_campusOff : μ .campusOff) (m_subOut : μ .subOut) (m_cl : μ .cl) (m_isl : μ .isl) :
    KeepsO μ σ (execSubOutHoldExpiry dev s) := by
  unfold execSubOutHoldExpiry
  repeat' first
    | with_reducible assumption
    | intro _
    | with_reducible apply KeepsO.next
    | with_reducible apply Keeps.ite
    | with_reducible apply Keeps.inc
    | with_reducible apply Keeps.reach
    | simp only [Keeps.upd_subOut_isl m_subOut m_isl]
    | split

end Sys2Proof.Machine
end

