-- ==== Sys2Proof/Laws/KeepsCampus.lean ====
section
/-! SUPPORT. What each operation of Machine/Campus.lean keeps: the queue, the clock's direction, the canonical form of the register
space, and every part of the state it does not name (`Keeps`). -/

set_option linter.unusedTactic false
set_option linter.unreachableTactic false
set_option linter.unusedSimpArgs false
set_option linter.unusedVariables false

namespace Sys2Proof.Machine

variable {μ : Part → Prop} {σ : State}

theorem Keeps.forwardMsg (s : State) (p : ℕ) (m : Msg) (hs : Keeps μ σ s) (m_space : μ .space) (m_cl : μ .cl) :
    Keeps μ σ (State.forwardMsg s p m) := by
  unfold State.forwardMsg
  repeat' first
    | with_reducible assumption
    | intro _
    | with_reducible apply Keeps.ite
    | ((fail_if_no_progress extract_lets +onlyGivenNames x); first | (refine Keeps.bind x ?_ ?_; (try subst x); rotate_left; intro hx; rotate_left) | skip)
    | with_reducible apply Keeps.enqueue
    | with_reducible apply Keeps.inc
    | with_reducible apply Keeps.nextMsgId
    | split
    | simp only [id_eq]

theorem Keeps.stepTime (s : State) (new : ℕ) (hs : Keeps μ σ s) (m_space : μ .space) (m_campusOff : μ .campusOff) (m_log : μ .log) (m_ten : μ .ten) (m_cl : μ .cl) :
    Keeps μ σ (State.stepTime s new) := by
  unfold State.stepTime
  repeat' first
    | with_reducible assumption
    | intro _
    | with_reducible apply Keeps.ite
    | ((fail_if_no_progress extract_lets +onlyGivenNames x); first | (refine Keeps.bind x ?_ ?_; (try subst x); rotate_left; intro hx; rotate_left) | skip)
    | with_reducible apply Keeps.auditEvent
    | with_reducible apply Keeps.inc
    | with_reducible apply Keeps.put
    | simp only [Keeps.upd_campusOff_cl m_campusOff m_cl]
    | split
    | simp only [id_eq]

theorem Keeps.setSync (s : State) (v : Bool) (hs : Keeps μ σ s) (m_space : μ .space) :
    Keeps μ σ (State.setSync s v) := by
  unfold State.setSync
  repeat' first
    | with_reducible assumption
    | intro _
    | with_reducible apply Keeps.ite
    | with_reducible apply Keeps.inc
    | with_reducible apply Keeps.put

theorem Keeps.follow (s : State) (p : ℕ) (time : ℕ) (stratum : ℕ) (stamp : ℕ) (hs : Keeps μ σ s) (m_space : μ .space) (m_campusOff : μ .campusOff) (m_log : μ .log) (m_ten : μ .ten) (m_cl : μ .cl) :
    Keeps μ σ (State.follow s p time stratum stamp) := by
  unfold State.follow
  repeat' first
    | with_reducible assumption
    | intro _
    | with_reducible apply Keeps.ite
    | ((fail_if_no_progress extract_lets +onlyGivenNames x); first | (refine Keeps.bind x ?_ ?_; (try subst x); rotate_left; intro hx; rotate_left) | skip)
    | with_reducible apply Keeps.put
    | with_reducible apply Keeps.setSync
    | with_reducible apply Keeps.stepTime
    | simp only [Keeps.upd_cl m_cl]
    | split
    | simp only [id_eq]

theorem Keeps.beaconRx (s : State) (p : ℕ) (m : Msg) (stamp : ℕ) (hs : Keeps μ σ s) (m_space : μ .space) (m_campusOff : μ .campusOff) (m_log : μ .log) (m_ten : μ .ten) (m_cl : μ .cl) :
    Keeps μ σ (State.beaconRx s p m stamp) := by
  unfold State.beaconRx
  repeat' first
    | with_reducible assumption
    | intro _
    | with_reducible apply Keeps.ite
    | ((fail_if_no_progress extract_lets +onlyGivenNames x); first | (refine Keeps.bind x ?_ ?_; (try subst x); rotate_left; intro hx; rotate_left) | skip)
    | with_reducible apply Keeps.follow
    | simp only [Keeps.upd_cl m_cl]
    | split
    | simp only [id_eq]

theorem Keeps.sendBeacons (s : State) (ports : List ℕ) (stratum : ℕ) (lead : ℕ) (hs : Keeps μ σ s) (m_cl : μ .cl) :
    Keeps μ σ (State.sendBeacons s ports stratum lead) := by
  unfold State.sendBeacons
  repeat' first
    | with_reducible assumption
    | intro _
    | with_reducible apply Keeps.ite
    | ((fail_if_no_progress extract_lets +onlyGivenNames x); first | (refine Keeps.bind x ?_ ?_; (try subst x); rotate_left; intro hx; rotate_left) | skip)
    | with_reducible apply Keeps.each
    | with_reducible apply Keeps.sendOn
    | split
    | simp only [id_eq]

theorem Keeps.of_execBeaconSend (lead : ℕ) (s : State) (hs : Keeps μ σ s) (m_cl : μ .cl) :
    KeepsO μ σ (execBeaconSend lead s) := by
  unfold execBeaconSend
  repeat' first
    | with_reducible assumption
    | intro _
    | with_reducible apply KeepsO.next
    | with_reducible apply Keeps.ite
    | ((fail_if_no_progress extract_lets +onlyGivenNames x); first | (refine Keeps.bind x ?_ ?_; (try subst x); rotate_left; intro hx; rotate_left) | (refine KeepsO.bind x ?_ ?_; (try subst x); rotate_left; intro hx; rotate_left) | skip)
    | with_reducible apply Keeps.sendBeacons
    | split
    | simp only [id_eq]

theorem Keeps.of_execBeaconReissue (lead : ℕ) (s : State) (hs : Keeps μ σ s) (m_cl : μ .cl) :
    KeepsO μ σ (execBeaconReissue lead s) := by
  unfold execBeaconReissue
  repeat' first
    | with_reducible assumption
    | intro _
    | with_reducible apply KeepsO.next
    | with_reducible apply Keeps.ite
    | ((fail_if_no_progress extract_lets +onlyGivenNames x); first | (refine Keeps.bind x ?_ ?_; (try subst x); rotate_left; intro hx; rotate_left) | (refine KeepsO.bind x ?_ ?_; (try subst x); rotate_left; intro hx; rotate_left) | skip)
    | with_reducible apply Keeps.sendBeacons
    | simp only [Keeps.upd_cl m_cl]
    | split
    | simp only [id_eq]

theorem Keeps.of_execDelayMeasure (port : Fin 3) (lead : ℕ) (s : State) (hs : Keeps μ σ s) (m_cl : μ .cl) :
    KeepsO μ σ (execDelayMeasure port lead s) := by
  unfold execDelayMeasure
  with_reducible apply KeepsO.next
  dsimp only
  split
  · assumption
  · repeat' first
     | with_reducible assumption
     | with_reducible apply Keeps.sendOn
     | simp only [Keeps.upd_cl m_cl]

theorem Keeps.delayReqRx (s : State) (p : ℕ) (m : Msg) (lead : ℕ) (hs : Keeps μ σ s) (m_cl : μ .cl) :
    Keeps μ σ (State.delayReqRx s p m lead) := by
  unfold State.delayReqRx
  repeat' first
    | with_reducible assumption
    | intro _
    | with_reducible apply Keeps.ite
    | with_reducible apply Keeps.sendOn

theorem Keeps.delayRespRx (s : State) (p : ℕ) (m : Msg) (stamp : ℕ) (hs : Keeps μ σ s) (m_space : μ .space) (m_cl : μ .cl) :
    Keeps μ σ (State.delayRespRx s p m stamp) := by
  unfold State.delayRespRx
  repeat' first
    | with_reducible assumption
    | intro _
    | with_reducible apply Keeps.ite
    | ((fail_if_no_progress extract_lets +onlyGivenNames x); first | (refine Keeps.bind x ?_ ?_; (try subst x); rotate_left; intro hx; rotate_left) | skip)
    | with_reducible apply Keeps.put
    | simp only [Keeps.upd_cl m_cl]
    | split
    | simp only [id_eq]

theorem Keeps.of_execTimeSyncLoss (s : State) (hs : Keeps μ σ s) (m_space : μ .space) (m_now : μ .now) (m_campusOff : μ .campusOff) (m_cl : μ .cl) :
    KeepsO μ σ (execTimeSyncLoss s) := by
  unfold execTimeSyncLoss
  repeat' first
    | with_reducible assumption
    | intro _
    | with_reducible apply KeepsO.next
    | with_reducible apply Keeps.ite
    | with_reducible apply Keeps.put
    | with_reducible apply Keeps.reach
    | with_reducible apply Keeps.setSync
    | split

theorem Keeps.timeSet (s : State) (w : Who) (data : Word) (hs : Keeps μ σ s) (m_space : μ .space) (m_campusOff : μ .campusOff) (m_wres : μ .wres) (m_log : μ .log) (m_ten : μ .ten) (m_cl : μ .cl) :
    Keeps μ σ (State.timeSet s w data) := by
  unfold State.timeSet
  repeat' first
    | with_reducible assumption
    | intro _
    | with_reducible apply Keeps.ite
    | with_reducible apply Keeps.auditW
    | with_reducible apply Keeps.refuseWrite
    | with_reducible apply Keeps.stepTime

theorem Keeps.of_execTimeSet (p : Path) (data : Word) (s : State) (hs : Keeps μ σ s) (m_space : μ .space) (m_campusOff : μ .campusOff) (m_rdata : μ .rdata) (m_wres : μ .wres) (m_banks : μ .banks) (m_log : μ .log) (m_ten : μ .ten) (m_cl : μ .cl) :
    KeepsO μ σ (execTimeSet p data s) := by
  unfold execTimeSet
  repeat' first
    | with_reducible assumption
    | intro _
    | with_reducible apply KeepsO.next
    | with_reducible apply Keeps.ite
    | with_reducible apply Keeps.byPath
    | with_reducible apply Keeps.timeSet

theorem Keeps.clHandle (s : State) (p : ℕ) (m : Msg) (addr : ℕ) (lead : ℕ) (stamp : ℕ) (hs : Keeps μ σ s) (m_space : μ .space) (m_campusOff : μ .campusOff) (m_free : μ .free) (m_wres : μ .wres) (m_log : μ .log) (m_ten : μ .ten) (m_broken : μ .broken) (m_pub : μ .pub) (m_safe : μ .safe) (m_cmds : μ .cmds) (m_cd : μ .cd) (m_fwd : μ .fwd) (m_sk : μ .sk) (m_subIn : μ .subIn) (m_subOut : μ .subOut) (m_cl : μ .cl) (m_isl : μ .isl) :
    Keeps μ σ (State.clHandle s p m addr lead stamp) := by
  unfold State.clHandle
  repeat' first
    | with_reducible assumption
    | intro _
    | with_reducible apply Keeps.ite
    | ((fail_if_no_progress extract_lets +onlyGivenNames x); first | (refine Keeps.bind x ?_ ?_; (try subst x); rotate_left; intro hx; rotate_left) | skip)
    | with_reducible apply Keeps.advRx
    | with_reducible apply Keeps.beaconRx
    | with_reducible apply Keeps.delayReqRx
    | with_reducible apply Keeps.delayRespRx
    | with_reducible apply Keeps.helloRx
    | with_reducible apply Keeps.mapRx
    | with_reducible apply Keeps.mirrorAckRx
    | with_reducible apply Keeps.mirrorRx
    | with_reducible apply Keeps.pubRx
    | with_reducible apply Keeps.rwResultRx
    | with_reducible apply Keeps.rwriteRx
    | with_reducible apply Keeps.subAckRx
    | with_reducible apply Keeps.subscribeRx
    | with_reducible apply Keeps.topoRx
    | with_reducible apply Keeps.unsubscribeRx
    | split
    | simp only [id_eq]

theorem Keeps.ownSrc (s : State) (p : ℕ) (m : Msg) (hs : Keeps μ σ s) (m_space : μ .space) (m_log : μ .log) (m_ten : μ .ten) (m_subIn : μ .subIn) (m_cl : μ .cl) (m_isl : μ .isl) :
    Keeps μ σ (State.ownSrc s p m) := by
  unfold State.ownSrc
  repeat' first
    | with_reducible assumption
    | intro _
    | with_reducible apply Keeps.ite
    | with_reducible apply Keeps.idConflict

theorem Keeps.clReceive (s : State) (p : ℕ) (m : Msg) (addr : ℕ) (lead : ℕ) (stamp : ℕ) (hs : Keeps μ σ s) (m_space : μ .space) (m_campusOff : μ .campusOff) (m_free : μ .free) (m_wres : μ .wres) (m_log : μ .log) (m_ten : μ .ten) (m_broken : μ .broken) (m_pub : μ .pub) (m_safe : μ .safe) (m_cmds : μ .cmds) (m_cd : μ .cd) (m_fwd : μ .fwd) (m_sk : μ .sk) (m_subIn : μ .subIn) (m_subOut : μ .subOut) (m_cl : μ .cl) (m_isl : μ .isl) :
    Keeps μ σ (State.clReceive s p m addr lead stamp) := by
  unfold State.clReceive
  repeat' first
    | with_reducible assumption
    | intro _
    | with_reducible apply Keeps.ite
    | ((fail_if_no_progress extract_lets +onlyGivenNames x); first | (refine Keeps.bind x ?_ ?_; (try subst x); rotate_left; intro hx; rotate_left) | skip)
    | with_reducible apply Keeps.authFail
    | with_reducible apply Keeps.clHandle
    | with_reducible apply Keeps.forwardMsg
    | with_reducible apply Keeps.inc
    | with_reducible apply Keeps.ownSrc
    | simp only [Keeps.upd_cl m_cl]
    | split
    | simp only [id_eq]

theorem Keeps.of_execPub (port : Fin 3) (m : Msg) (s : State) (hs : Keeps μ σ s) (m_space : μ .space) (m_campusOff : μ .campusOff) (m_free : μ .free) (m_wres : μ .wres) (m_log : μ .log) (m_ten : μ .ten) (m_broken : μ .broken) (m_pub : μ .pub) (m_safe : μ .safe) (m_cmds : μ .cmds) (m_cd : μ .cd) (m_fwd : μ .fwd) (m_sk : μ .sk) (m_subIn : μ .subIn) (m_subOut : μ .subOut) (m_cl : μ .cl) (m_isl : μ .isl) :
    KeepsO μ σ (execPub port m s) := by
  unfold execPub
  repeat' first
    | with_reducible assumption
    | intro _
    | with_reducible apply KeepsO.next
    | with_reducible apply Keeps.ite
    | ((fail_if_no_progress extract_lets +onlyGivenNames x); first | (refine Keeps.bind x ?_ ?_; (try subst x); rotate_left; intro hx; rotate_left) | (refine KeepsO.bind x ?_ ?_; (try subst x); rotate_left; intro hx; rotate_left) | skip)
    | with_reducible apply Keeps.clReceive
    | split
    | simp only [id_eq]

theorem Keeps.of_execSubscribe (port : Fin 3) (m : Msg) (s : State) (hs : Keeps μ σ s) (m_space : μ .space) (m_campusOff : μ .campusOff) (m_free : μ .free) (m_wres : μ .wres) (m_log : μ .log) (m_ten : μ .ten) (m_broken : μ .broken) (m_pub : μ .pub) (m_safe : μ .safe) (m_cmds : μ .cmds) (m_cd : μ .cd) (m_fwd : μ .fwd) (m_sk : μ .sk) (m_subIn : μ .subIn) (m_subOut : μ .subOut) (m_cl : μ .cl) (m_isl : μ .isl) :
    KeepsO μ σ (execSubscribe port m s) := by
  unfold execSubscribe
  repeat' first
    | with_reducible assumption
    | intro _
    | with_reducible apply KeepsO.next
    | with_reducible apply Keeps.ite
    | ((fail_if_no_progress extract_lets +onlyGivenNames x); first | (refine Keeps.bind x ?_ ?_; (try subst x); rotate_left; intro hx; rotate_left) | (refine KeepsO.bind x ?_ ?_; (try subst x); rotate_left; intro hx; rotate_left) | skip)
    | with_reducible apply Keeps.clReceive
    | split
    | simp only [id_eq]

theorem Keeps.of_execSubAck (port : Fin 3) (m : Msg) (s : State) (hs : Keeps μ σ s) (m_space : μ .space) (m_campusOff : μ .campusOff) (m_free : μ .free) (m_wres : μ .wres) (m_log : μ .log) (m_ten : μ .ten) (m_broken : μ .broken) (m_pub : μ .pub) (m_safe : μ .safe) (m_cmds : μ .cmds) (m_cd : μ .cd) (m_fwd : μ .fwd) (m_sk : μ .sk) (m_subIn : μ .subIn) (m_subOut : μ .subOut) (m_cl : μ .cl) (m_isl : μ .isl) :
    KeepsO μ σ (execSubAck port m s) := by
  unfold execSubAck
  repeat' first
    | with_reducible assumption
    | intro _
    | with_reducible apply KeepsO.next
    | with_reducible apply Keeps.ite
    | ((fail_if_no_progress extract_lets +onlyGivenNames x); first | (refine Keeps.bind x ?_ ?_; (try subst x); rotate_left; intro hx; rotate_left) | (refine KeepsO.bind x ?_ ?_; (try subst x); rotate_left; intro hx; rotate_left) | skip)
    | with_reducible apply Keeps.clReceive
    | split
    | simp only [id_eq]

theorem Keeps.of_execUnsubscribe (port : Fin 3) (m : Msg) (s : State) (hs : Keeps μ σ s) (m_space : μ .space) (m_campusOff : μ .campusOff) (m_free : μ .free) (m_wres : μ .wres) (m_log : μ .log) (m_ten : μ .ten) (m_broken : μ .broken) (m_pub : μ .pub) (m_safe : μ .safe) (m_cmds : μ .cmds) (m_cd : μ .cd) (m_fwd : μ .fwd) (m_sk : μ .sk) (m_subIn : μ .subIn) (m_subOut : μ .subOut) (m_cl : μ .cl) (m_isl : μ .isl) :
    KeepsO μ σ (execUnsubscribe port m s) := by
  unfold execUnsubscribe
  repeat' first
    | with_reducible assumption
    | intro _
    | with_reducible apply KeepsO.next
    | with_reducible apply Keeps.ite
    | ((fail_if_no_progress extract_lets +onlyGivenNames x); first | (refine Keeps.bind x ?_ ?_; (try subst x); rotate_left; intro hx; rotate_left) | (refine KeepsO.bind x ?_ ?_; (try subst x); rotate_left; intro hx; rotate_left) | skip)
    | with_reducible apply Keeps.clReceive
    | split
    | simp only [id_eq]

theorem Keeps.of_execRwrite (port : Fin 3) (m : Msg) (s : State) (hs : Keeps μ σ s) (m_space : μ .space) (m_campusOff : μ .campusOff) (m_free : μ .free) (m_wres : μ .wres) (m_log : μ .log) (m_ten : μ .ten) (m_broken : μ .broken) (m_pub : μ .pub) (m_safe : μ .safe) (m_cmds : μ .cmds) (m_cd : μ .cd) (m_fwd : μ .fwd) (m_sk : μ .sk) (m_subIn : μ .subIn) (m_subOut : μ .subOut) (m_cl : μ .cl) (m_isl : μ .isl) :
    KeepsO μ σ (execRwrite port m s) := by
  unfold execRwrite
  repeat' first
    | with_reducible assumption
    | intro _
    | with_reducible apply KeepsO.next
    | with_reducible apply Keeps.ite
    | ((fail_if_no_progress extract_lets +onlyGivenNames x); first | (refine Keeps.bind x ?_ ?_; (try subst x); rotate_left; intro hx; rotate_left) | (refine KeepsO.bind x ?_ ?_; (try subst x); rotate_left; intro hx; rotate_left) | skip)
    | with_reducible apply Keeps.clReceive
    | split
    | simp only [id_eq]

theorem Keeps.of_execRwriteResult (port : Fin 3) (m : Msg) (s : State) (hs : Keeps μ σ s) (m_space : μ .space) (m_campusOff : μ .campusOff) (m_free : μ .free) (m_wres : μ .wres) (m_log : μ .log) (m_ten : μ .ten) (m_broken : μ .broken) (m_pub : μ .pub) (m_safe : μ .safe) (m_cmds : μ .cmds) (m_cd : μ .cd) (m_fwd : μ .fwd) (m_sk : μ .sk) (m_subIn : μ .subIn) (m_subOut : μ .subOut) (m_cl : μ .cl) (m_isl : μ .isl) :
    KeepsO μ σ (execRwriteResult port m s) := by
  unfold execRwriteResult
  repeat' first
    | with_reducible assumption
    | intro _
    | with_reducible apply KeepsO.next
    | with_reducible apply Keeps.ite
    | ((fail_if_no_progress extract_lets +onlyGivenNames x); first | (refine Keeps.bind x ?_ ?_; (try subst x); rotate_left; intro hx; rotate_left) | (refine KeepsO.bind x ?_ ?_; (try subst x); rotate_left; intro hx; rotate_left) | skip)
    | with_reducible apply Keeps.clReceive
    | split
    | simp only [id_eq]

theorem Keeps.of_execMirror (port : Fin 3) (m : Msg) (s : State) (hs : Keeps μ σ s) (m_space : μ .space) (m_campusOff : μ .campusOff) (m_free : μ .free) (m_wres : μ .wres) (m_log : μ .log) (m_ten : μ .ten) (m_broken : μ .broken) (m_pub : μ .pub) (m_safe : μ .safe) (m_cmds : μ .cmds) (m_cd : μ .cd) (m_fwd : μ .fwd) (m_sk : μ .sk) (m_subIn : μ .subIn) (m_subOut : μ .subOut) (m_cl : μ .cl) (m_isl : μ .isl) :
    KeepsO μ σ (execMirror port m s) := by
  unfold execMirror
  repeat' first
    | with_reducible assumption
    | intro _
    | with_reducible apply KeepsO.next
    | with_reducible apply Keeps.ite
    | ((fail_if_no_progress extract_lets +onlyGivenNames x); first | (refine Keeps.bind x ?_ ?_; (try subst x); rotate_left; intro hx; rotate_left) | (refine KeepsO.bind x ?_ ?_; (try subst x); rotate_left; intro hx; rotate_left) | skip)
    | with_reducible apply Keeps.clReceive
    | split
    | simp only [id_eq]

theorem Keeps.of_execMirrorAck (port : Fin 3) (m : Msg) (s : State) (hs : Keeps μ σ s) (m_space : μ .space) (m_campusOff : μ .campusOff) (m_free : μ .free) (m_wres : μ .wres) (m_log : μ .log) (m_ten : μ .ten) (m_broken : μ .broken) (m_pub : μ .pub) (m_safe : μ .safe) (m_cmds : μ .cmds) (m_cd : μ .cd) (m_fwd : μ .fwd) (m_sk : μ .sk) (m_subIn : μ .subIn) (m_subOut : μ .subOut) (m_cl : μ .cl) (m_isl : μ .isl) :
    KeepsO μ σ (execMirrorAck port m s) := by
  unfold execMirrorAck
  repeat' first
    | with_reducible assumption
    | intro _
    | with_reducible apply KeepsO.next
    | with_reducible apply Keeps.ite
    | ((fail_if_no_progress extract_lets +onlyGivenNames x); first | (refine Keeps.bind x ?_ ?_; (try subst x); rotate_left; intro hx; rotate_left) | (refine KeepsO.bind x ?_ ?_; (try subst x); rotate_left; intro hx; rotate_left) | skip)
    | with_reducible apply Keeps.clReceive
    | split
    | simp only [id_eq]

theorem Keeps.of_execBeacon (port : Fin 3) (m : Msg) (stamp : Fin 50) (s : State) (hs : Keeps μ σ s) (m_space : μ .space) (m_campusOff : μ .campusOff) (m_free : μ .free) (m_wres : μ .wres) (m_log : μ .log) (m_ten : μ .ten) (m_broken : μ .broken) (m_pub : μ .pub) (m_safe : μ .safe) (m_cmds : μ .cmds) (m_cd : μ .cd) (m_fwd : μ .fwd) (m_sk : μ .sk) (m_subIn : μ .subIn) (m_subOut : μ .subOut) (m_cl : μ .cl) (m_isl : μ .isl) :
    KeepsO μ σ (execBeacon port m stamp s) := by
  unfold execBeacon
  repeat' first
    | with_reducible assumption
    | intro _
    | with_reducible apply KeepsO.next
    | with_reducible apply Keeps.ite
    | ((fail_if_no_progress extract_lets +onlyGivenNames x); first | (refine Keeps.bind x ?_ ?_; (try subst x); rotate_left; intro hx; rotate_left) | (refine KeepsO.bind x ?_ ?_; (try subst x); rotate_left; intro hx; rotate_left) | skip)
    | with_reducible apply Keeps.clReceive
    | split
    | simp only [id_eq]

theorem Keeps.of_execDelayReq (port : Fin 3) (m : Msg) (lead : ℕ) (s : State) (hs : Keeps μ σ s) (m_space : μ .space) (m_campusOff : μ .campusOff) (m_free : μ .free) (m_wres : μ .wres) (m_log : μ .log) (m_ten : μ .ten) (m_broken : μ .broken) (m_pub : μ .pub) (m_safe : μ .safe) (m_cmds : μ .cmds) (m_cd : μ .cd) (m_fwd : μ .fwd) (m_sk : μ .sk) (m_subIn : μ .subIn) (m_subOut : μ .subOut) (m_cl : μ .cl) (m_isl : μ .isl) :
    KeepsO μ σ (execDelayReq port m lead s) := by
  unfold execDelayReq
  repeat' first
    | with_reducible assumption
    | intro _
    | with_reducible apply KeepsO.next
    | with_reducible apply Keeps.ite
    | ((fail_if_no_progress extract_lets +onlyGivenNames x); first | (refine Keeps.bind x ?_ ?_; (try subst x); rotate_left; intro hx; rotate_left) | (refine KeepsO.bind x ?_ ?_; (try subst x); rotate_left; intro hx; rotate_left) | skip)
    | with_reducible apply Keeps.clReceive
    | split
    | simp only [id_eq]

theorem Keeps.of_execDelayResp (port : Fin 3) (m : Msg) (stamp : Fin 50) (s : State) (hs : Keeps μ σ s) (m_space : μ .space) (m_campusOff : μ .campusOff) (m_free : μ .free) (m_wres : μ .wres) (m_log : μ .log) (m_ten : μ .ten) (m_broken : μ .broken) (m_pub : μ .pub) (m_safe : μ .safe) (m_cmds : μ .cmds) (m_cd : μ .cd) (m_fwd : μ .fwd) (m_sk : μ .sk) (m_subIn : μ .subIn) (m_subOut : μ .subOut) (m_cl : μ .cl) (m_isl : μ .isl) :
    KeepsO μ σ (execDelayResp port m stamp s) := by
  unfold execDelayResp
  repeat' first
    | with_reducible assumption
    | intro _
    | with_reducible apply KeepsO.next
    | with_reducible apply Keeps.ite
    | ((fail_if_no_progress extract_lets +onlyGivenNames x); first | (refine Keeps.bind x ?_ ?_; (try subst x); rotate_left; intro hx; rotate_left) | (refine KeepsO.bind x ?_ ?_; (try subst x); rotate_left; intro hx; rotate_left) | skip)
    | with_reducible apply Keeps.clReceive
    | split
    | simp only [id_eq]

theorem Keeps.of_execHello (port : Fin 3) (m : Msg) (s : State) (hs : Keeps μ σ s) (m_space : μ .space) (m_campusOff : μ .campusOff) (m_free : μ .free) (m_wres : μ .wres) (m_log : μ .log) (m_ten : μ .ten) (m_broken : μ .broken) (m_pub : μ .pub) (m_safe : μ .safe) (m_cmds : μ .cmds) (m_cd : μ .cd) (m_fwd : μ .fwd) (m_sk : μ .sk) (m_subIn : μ .subIn) (m_subOut : μ .subOut) (m_cl : μ .cl) (m_isl : μ .isl) :
    KeepsO μ σ (execHello port m s) := by
  unfold execHello
  repeat' first
    | with_reducible assumption
    | intro _
    | with_reducible apply KeepsO.next
    | with_reducible apply Keeps.ite
    | ((fail_if_no_progress extract_lets +onlyGivenNames x); first | (refine Keeps.bind x ?_ ?_; (try subst x); rotate_left; intro hx; rotate_left) | (refine KeepsO.bind x ?_ ?_; (try subst x); rotate_left; intro hx; rotate_left) | skip)
    | with_reducible apply Keeps.clReceive
    | split
    | simp only [id_eq]

theorem Keeps.of_execTopo (port : Fin 3) (m : Msg) (s : State) (hs : Keeps μ σ s) (m_space : μ .space) (m_campusOff : μ .campusOff) (m_free : μ .free) (m_wres : μ .wres) (m_log : μ .log) (m_ten : μ .ten) (m_broken : μ .broken) (m_pub : μ .pub) (m_safe : μ .safe) (m_cmds : μ .cmds) (m_cd : μ .cd) (m_fwd : μ .fwd) (m_sk : μ .sk) (m_subIn : μ .subIn) (m_subOut : μ .subOut) (m_cl : μ .cl) (m_isl : μ .isl) :
    KeepsO μ σ (execTopo port m s) := by
  unfold execTopo
  repeat' first
    | with_reducible assumption
    | intro _
    | with_reducible apply KeepsO.next
    | with_reducible apply Keeps.ite
    | ((fail_if_no_progress extract_lets +onlyGivenNames x); first | (refine Keeps.bind x ?_ ?_; (try subst x); rotate_left; intro hx; rotate_left) | (refine KeepsO.bind x ?_ ?_; (try subst x); rotate_left; intro hx; rotate_left) | skip)
    | with_reducible apply Keeps.clReceive
    | split
    | simp only [id_eq]

theorem Keeps.of_execIslandAdv (port : Fin 3) (m : Msg) (addr : ℕ) (s : State) (hs : Keeps μ σ s) (m_space : μ .space) (m_campusOff : μ .campusOff) (m_free : μ .free) (m_wres : μ .wres) (m_log : μ .log) (m_ten : μ .ten) (m_broken : μ .broken) (m_pub : μ .pub) (m_safe : μ .safe) (m_cmds : μ .cmds) (m_cd : μ .cd) (m_fwd : μ .fwd) (m_sk : μ .sk) (m_subIn : μ .subIn) (m_subOut : μ .subOut) (m_cl : μ .cl) (m_isl : μ .isl) :
    KeepsO μ σ (execIslandAdv port m addr s) := by
  unfold execIslandAdv
  repeat' first
    | with_reducible assumption
    | intro _
    | with_reducible apply KeepsO.next
    | with_reducible apply Keeps.ite
    | ((fail_if_no_progress extract_lets +onlyGivenNames x); first | (refine Keeps.bind x ?_ ?_; (try subst x); rotate_left; intro hx; rotate_left) | (refine KeepsO.bind x ?_ ?_; (try subst x); rotate_left; intro hx; rotate_left) | skip)
    | with_reducible apply Keeps.clReceive
    | split
    | simp only [id_eq]

theorem Keeps.of_execCampusMap (port : Fin 3) (m : Msg) (s : State) (hs : Keeps μ σ s) (m_space : μ .space) (m_campusOff : μ .campusOff) (m_free : μ .free) (m_wres : μ .wres) (m_log : μ .log) (m_ten : μ .ten) (m_broken : μ .broken) (m_pub : μ .pub) (m_safe : μ .safe) (m_cmds : μ .cmds) (m_cd : μ .cd) (m_fwd : μ .fwd) (m_sk : μ .sk) (m_subIn : μ .subIn) (m_subOut : μ .subOut) (m_cl : μ .cl) (m_isl : μ .isl) :
    KeepsO μ σ (execCampusMap port m s) := by
  unfold execCampusMap
  repeat' first
    | with_reducible assumption
    | intro _
    | with_reducible apply KeepsO.next
    | with_reducible apply Keeps.ite
    | ((fail_if_no_progress extract_lets +onlyGivenNames x); first | (refine Keeps.bind x ?_ ?_; (try subst x); rotate_left; intro hx; rotate_left) | (refine KeepsO.bind x ?_ ?_; (try subst x); rotate_left; intro hx; rotate_left) | skip)
    | with_reducible apply Keeps.clReceive
    | split
    | simp only [id_eq]

theorem Keeps.icmpEcho (s : State) (p : ℕ) (src : ℕ) (dst : ℕ) (body : List Byte) (hs : Keeps μ σ s) (m_cl : μ .cl) :
    Keeps μ σ (State.icmpEcho s p src dst body) := by
  unfold State.icmpEcho
  split
  · exact Keeps.icmpOut _ _ hs m_cl
  · exact hs

theorem Keeps.of_execIcmpEchoRequest (port : Fin 3) (src : ℕ) (dst : ℕ) (body : List Byte) (s : State) (hs : Keeps μ σ s) (m_cl : μ .cl) :
    KeepsO μ σ (execIcmpEchoRequest port src dst body s) := by
  unfold execIcmpEchoRequest
  repeat' first
    | with_reducible assumption
    | intro _
    | with_reducible apply KeepsO.next
    | with_reducible apply Keeps.ite
    | with_reducible apply Keeps.icmpEcho

theorem Keeps.nsRx (s : State) (p : ℕ) (src : ℕ) (target : ℕ) (hs : Keeps μ σ s) (m_cl : μ .cl) :
    Keeps μ σ (State.nsRx s p src target) := by
  unfold State.nsRx
  repeat' first
    | with_reducible assumption
    | intro _
    | with_reducible apply Keeps.ite
    | with_reducible apply Keeps.icmpOut

theorem Keeps.of_execNeighborSolicitation (port : Fin 3) (src : ℕ) (target : ℕ) (s : State) (hs : Keeps μ σ s) (m_cl : μ .cl) :
    KeepsO μ σ (execNeighborSolicitation port src target s) := by
  unfold execNeighborSolicitation
  repeat' first
    | with_reducible assumption
    | intro _
    | with_reducible apply KeepsO.next
    | with_reducible apply Keeps.ite
    | with_reducible apply Keeps.nsRx

theorem Keeps.naRx (s : State) (p : ℕ) (target : ℕ) (mac : ℕ) (hs : Keeps μ σ s) (m_cl : μ .cl) :
    Keeps μ σ (State.naRx s p target mac) := by
  unfold State.naRx
  repeat' first
    | with_reducible assumption
    | intro _
    | with_reducible apply Keeps.ite
    | ((fail_if_no_progress extract_lets +onlyGivenNames x); first | (refine Keeps.bind x ?_ ?_; (try subst x); rotate_left; intro hx; rotate_left) | skip)
    | with_reducible apply Keeps.each
    | with_reducible apply Keeps.setDad
    | simp only [Keeps.upd_cl m_cl]

theorem Keeps.of_execNeighborAdvertisement (port : Fin 3) (target : ℕ) (mac : ℕ) (s : State) (hs : Keeps μ σ s) (m_cl : μ .cl) :
    KeepsO μ σ (execNeighborAdvertisement port target mac s) := by
  unfold execNeighborAdvertisement
  repeat' first
    | with_reducible assumption
    | intro _
    | with_reducible apply KeepsO.next
    | with_reducible apply Keeps.ite
    | with_reducible apply Keeps.naRx

theorem Keeps.of_execDadComplete (port : Fin 3) (k : Fin 2) (s : State) (hs : Keeps μ σ s) (m_space : μ .space) (m_now : μ .now) (m_campusOff : μ .campusOff) (m_ten : μ .ten) (m_cl : μ .cl) :
    KeepsO μ σ (execDadComplete port k s) := by
  unfold execDadComplete
  repeat' first
    | with_reducible assumption
    | intro _
    | with_reducible apply KeepsO.next
    | with_reducible apply Keeps.ite
    | ((fail_if_no_progress extract_lets +onlyGivenNames x); first | (refine Keeps.bind x ?_ ?_; (try subst x); rotate_left; intro hx; rotate_left) | (refine KeepsO.bind x ?_ ?_; (try subst x); rotate_left; intro hx; rotate_left) | skip)
    | with_reducible apply Keeps.postErr
    | with_reducible apply Keeps.put
    | with_reducible apply Keeps.reach
    | with_reducible apply Keeps.setDad

theorem Keeps.dadStart (s : State) (p : ℕ) (hs : Keeps μ σ s) (m_cl : μ .cl) :
    Keeps μ σ (State.dadStart s p) := by
  unfold State.dadStart
  repeat' first
    | with_reducible assumption
    | intro _
    | with_reducible apply Keeps.ite
    | ((fail_if_no_progress extract_lets +onlyGivenNames x); first | (refine Keeps.bind x ?_ ?_; (try subst x); rotate_left; intro hx; rotate_left) | skip)
    | with_reducible apply Keeps.each
    | with_reducible apply Keeps.icmpOut
    | with_reducible apply Keeps.setDad
    | simp only [Keeps.upd_cl m_cl]
    | split
    | simp only [id_eq]

theorem Keeps.linkUpAt (s : State) (p : ℕ) (level : Bool) (role : Bool) (sqi : ℕ) (hs : Keeps μ σ s) (m_space : μ .space) (m_cl : μ .cl) :
    Keeps μ σ (State.linkUpAt s p level role sqi) := by
  unfold State.linkUpAt
  repeat' first
    | with_reducible assumption
    | intro _
    | with_reducible apply Keeps.ite
    | ((fail_if_no_progress extract_lets +onlyGivenNames x); first | (refine Keeps.bind x ?_ ?_; (try subst x); rotate_left; intro hx; rotate_left) | skip)
    | with_reducible apply Keeps.dadStart
    | with_reducible apply Keeps.put
    | split
    | simp only [id_eq]

theorem Keeps.of_execClLinkUp (port : Fin 3) (level : Bool) (role : Bool) (sqi : Fin 8) (s : State) (hs : Keeps μ σ s) (m_space : μ .space) (m_cl : μ .cl) :
    KeepsO μ σ (execClLinkUp port level role sqi s) := by
  unfold execClLinkUp
  repeat' first
    | with_reducible assumption
    | intro _
    | with_reducible apply KeepsO.next
    | with_reducible apply Keeps.ite
    | with_reducible apply Keeps.linkUpAt

theorem Keeps.linkDownAt (s : State) (p : ℕ) (hs : Keeps μ σ s) (m_space : μ .space) (m_log : μ .log) (m_ten : μ .ten) (m_subIn : μ .subIn) (m_subOut : μ .subOut) (m_cl : μ .cl) (m_isl : μ .isl) :
    Keeps μ σ (State.linkDownAt s p) := by
  unfold State.linkDownAt
  repeat' first
    | with_reducible assumption
    | intro _
    | with_reducible apply Keeps.ite
    | with_reducible apply Keeps.changeStrait
    | with_reducible apply Keeps.put
    | with_reducible apply Keeps.setDad

theorem Keeps.of_execClLinkDown (port : Fin 3) (s : State) (hs : Keeps μ σ s) (m_space : μ .space) (m_log : μ .log) (m_ten : μ .ten) (m_subIn : μ .subIn) (m_subOut : μ .subOut) (m_cl : μ .cl) (m_isl : μ .isl) :
    KeepsO μ σ (execClLinkDown port s) := by
  unfold execClLinkDown
  repeat' first
    | with_reducible assumption
    | intro _
    | with_reducible apply KeepsO.next
    | with_reducible apply Keeps.ite
    | with_reducible apply Keeps.linkDownAt

theorem Keeps.clPortFuncRst (s : State) (p : ℕ) (hs : Keeps μ σ s) (m_space : μ .space) (m_log : μ .log) (m_ten : μ .ten) (m_subIn : μ .subIn) (m_subOut : μ .subOut) (m_cl : μ .cl) (m_isl : μ .isl) :
    Keeps μ σ (State.clPortFuncRst s p) := by
  unfold State.clPortFuncRst
  repeat' first
    | with_reducible assumption
    | intro _
    | with_reducible apply Keeps.ite
    | ((fail_if_no_progress extract_lets +onlyGivenNames x); first | (refine Keeps.bind x ?_ ?_; (try subst x); rotate_left; intro hx; rotate_left) | skip)
    | with_reducible apply Keeps.clQueueEmpty
    | with_reducible apply Keeps.linkDownAt
    | with_reducible apply Keeps.put
    | with_reducible apply Keeps.setWord
    | simp only [Keeps.upd_cl m_cl]

theorem Keeps.udpRx (s : State) (p : ℕ) (src : ℕ) (ip : List Byte) (u : List Byte) (lead : ℕ) (stamp : ℕ) (hs : Keeps μ σ s) (m_space : μ .space) (m_campusOff : μ .campusOff) (m_free : μ .free) (m_wres : μ .wres) (m_log : μ .log) (m_ten : μ .ten) (m_broken : μ .broken) (m_pub : μ .pub) (m_safe : μ .safe) (m_cmds : μ .cmds) (m_cd : μ .cd) (m_fwd : μ .fwd) (m_sk : μ .sk) (m_subIn : μ .subIn) (m_subOut : μ .subOut) (m_cl : μ .cl) (m_isl : μ .isl) :
    Keeps μ σ (State.udpRx s p src ip u lead stamp) := by
  unfold State.udpRx
  repeat' first
    | with_reducible assumption
    | intro _
    | with_reducible apply Keeps.ite
    | ((fail_if_no_progress extract_lets +onlyGivenNames x); first | (refine Keeps.bind x ?_ ?_; (try subst x); rotate_left; intro hx; rotate_left) | skip)
    | with_reducible apply Keeps.clReceive
    | with_reducible apply Keeps.inc
    | split
    | simp only [id_eq]

theorem Keeps.icmpRx (s : State) (p : ℕ) (src : ℕ) (dst : ℕ) (ip : List Byte) (u : List Byte) (hs : Keeps μ σ s) (m_cl : μ .cl) :
    Keeps μ σ (State.icmpRx s p src dst ip u) := by
  unfold State.icmpRx
  repeat' first
    | with_reducible assumption
    | intro _
    | with_reducible apply Keeps.ite
    | with_reducible apply Keeps.icmpEcho
    | with_reducible apply Keeps.naRx
    | with_reducible apply Keeps.nsRx

theorem Keeps.ipRx (s : State) (p : ℕ) (b : List Byte) (lead : ℕ) (stamp : ℕ) (hs : Keeps μ σ s) (m_space : μ .space) (m_campusOff : μ .campusOff) (m_free : μ .free) (m_wres : μ .wres) (m_log : μ .log) (m_ten : μ .ten) (m_broken : μ .broken) (m_pub : μ .pub) (m_safe : μ .safe) (m_cmds : μ .cmds) (m_cd : μ .cd) (m_fwd : μ .fwd) (m_sk : μ .sk) (m_subIn : μ .subIn) (m_subOut : μ .subOut) (m_cl : μ .cl) (m_isl : μ .isl) :
    Keeps μ σ (State.ipRx s p b lead stamp) := by
  unfold State.ipRx
  repeat' first
    | with_reducible assumption
    | intro _
    | with_reducible apply Keeps.ite
    | ((fail_if_no_progress extract_lets +onlyGivenNames x); first | (refine Keeps.bind x ?_ ?_; (try subst x); rotate_left; intro hx; rotate_left) | skip)
    | with_reducible apply Keeps.icmpRx
    | with_reducible apply Keeps.udpRx
    | split
    | simp only [id_eq]

theorem Keeps.frameRx (s : State) (p : ℕ) (fcsOk : Bool) (full : Bool) (b : List Byte) (lead : ℕ) (stamp : ℕ) (hs : Keeps μ σ s) (m_space : μ .space) (m_campusOff : μ .campusOff) (m_free : μ .free) (m_wres : μ .wres) (m_log : μ .log) (m_ten : μ .ten) (m_broken : μ .broken) (m_pub : μ .pub) (m_safe : μ .safe) (m_cmds : μ .cmds) (m_cd : μ .cd) (m_fwd : μ .fwd) (m_sk : μ .sk) (m_subIn : μ .subIn) (m_subOut : μ .subOut) (m_cl : μ .cl) (m_isl : μ .isl) :
    Keeps μ σ (State.frameRx s p fcsOk full b lead stamp) := by
  unfold State.frameRx
  repeat' first
    | with_reducible assumption
    | intro _
    | with_reducible apply Keeps.ite
    | ((fail_if_no_progress extract_lets +onlyGivenNames x); first | (refine Keeps.bind x ?_ ?_; (try subst x); rotate_left; intro hx; rotate_left) | skip)
    | with_reducible apply Keeps.inc
    | with_reducible apply Keeps.ipRx
    | split
    | simp only [id_eq]

theorem Keeps.of_execClFrameRx (port : Fin 3) (fcsOk : Bool) (full : Bool) (bytes : List Byte) (lead : ℕ) (stamp : Fin 50) (s : State) (hs : Keeps μ σ s) (m_space : μ .space) (m_campusOff : μ .campusOff) (m_free : μ .free) (m_wres : μ .wres) (m_log : μ .log) (m_ten : μ .ten) (m_broken : μ .broken) (m_pub : μ .pub) (m_safe : μ .safe) (m_cmds : μ .cmds) (m_cd : μ .cd) (m_fwd : μ .fwd) (m_sk : μ .sk) (m_subIn : μ .subIn) (m_subOut : μ .subOut) (m_cl : μ .cl) (m_isl : μ .isl) :
    KeepsO μ σ (execClFrameRx port fcsOk full bytes lead stamp s) := by
  unfold execClFrameRx
  repeat' first
    | with_reducible assumption
    | intro _
    | with_reducible apply KeepsO.next
    | with_reducible apply Keeps.ite
    | ((fail_if_no_progress extract_lets +onlyGivenNames x); first | (refine Keeps.bind x ?_ ?_; (try subst x); rotate_left; intro hx; rotate_left) | (refine KeepsO.bind x ?_ ?_; (try subst x); rotate_left; intro hx; rotate_left) | skip)
    | with_reducible apply Keeps.frameRx
    | split
    | simp only [id_eq]

theorem Keeps.forcedMode (s : State) (p : ℕ) (hs : Keeps μ σ s) (m_space : μ .space) :
    Keeps μ σ (State.forcedMode s p) := by
  unfold State.forcedMode
  repeat' first
    | with_reducible assumption
    | intro _
    | with_reducible apply Keeps.ite
    | ((fail_if_no_progress extract_lets +onlyGivenNames x); first | (refine Keeps.bind x ?_ ?_; (try subst x); rotate_left; intro hx; rotate_left) | skip)
    | with_reducible apply Keeps.put
    | split
    | simp only [id_eq]

theorem Keeps.clPortsBoot (s : State) (hs : Keeps μ σ s) (m_space : μ .space) (m_log : μ .log) (m_ten : μ .ten) (m_subIn : μ .subIn) (m_subOut : μ .subOut) (m_cl : μ .cl) (m_isl : μ .isl) :
    Keeps μ σ (State.clPortsBoot s) := by
  unfold State.clPortsBoot
  repeat' first
    | with_reducible assumption
    | intro _
    | with_reducible apply Keeps.ite
    | ((fail_if_no_progress extract_lets +onlyGivenNames x); first | (refine Keeps.bind x ?_ ?_; (try subst x); rotate_left; intro hx; rotate_left) | skip)
    | with_reducible apply Keeps.dadStart
    | with_reducible apply Keeps.each
    | with_reducible apply Keeps.forcedMode
    | with_reducible apply Keeps.linkDownAt
    | split
    | simp only [id_eq]

theorem Keeps.portCfgWrite (s : State) (w : Who) (p : ℕ) (a : ℕ) (data : Word) (hs : Keeps μ σ s) (m_space : μ .space) (m_wres : μ .wres) (m_log : μ .log) (m_ten : μ .ten) (m_subIn : μ .subIn) (m_subOut : μ .subOut) (m_cl : μ .cl) (m_isl : μ .isl) :
    Keeps μ σ (State.portCfgWrite s w p a data) := by
  unfold State.portCfgWrite
  repeat' first
    | with_reducible assumption
    | intro _
    | with_reducible apply Keeps.ite
    | ((fail_if_no_progress extract_lets +onlyGivenNames x); first | (refine Keeps.bind x ?_ ?_; (try subst x); rotate_left; intro hx; rotate_left) | skip)
    | with_reducible apply Keeps.cfgWrite
    | with_reducible apply Keeps.forcedMode
    | with_reducible apply Keeps.linkDownAt
    | split
    | simp only [id_eq]

theorem Keeps.clWrite (s : State) (w : Who) (a : ℕ) (data : Word) (hs : Keeps μ σ s) (m_space : μ .space) (m_campusOff : μ .campusOff) (m_wres : μ .wres) (m_banks : μ .banks) (m_log : μ .log) (m_ten : μ .ten) (m_subIn : μ .subIn) (m_subOut : μ .subOut) (m_cl : μ .cl) (m_isl : μ .isl) :
    Keeps μ σ (State.clWrite s w a data) := by
  unfold State.clWrite
  repeat' first
    | with_reducible assumption
    | intro _
    | with_reducible apply Keeps.ite
    | ((fail_if_no_progress extract_lets +onlyGivenNames x); first | (refine Keeps.bind x ?_ ?_; (try subst x); rotate_left; intro hx; rotate_left) | skip)
    | with_reducible apply Keeps.cfgWrite
    | with_reducible apply Keeps.kindWrite
    | with_reducible apply Keeps.plainW
    | with_reducible apply Keeps.portCfgWrite
    | with_reducible apply Keeps.refuseWrite
    | with_reducible apply Keeps.rwCmd
    | with_reducible apply Keeps.setBank
    | with_reducible apply Keeps.timeSet
    | simp only [Keeps.upd_cl m_cl]
    | split
    | simp only [id_eq]

end Sys2Proof.Machine
end

