-- ==== Sys2Proof/Laws/KeepsSafeState.lean ====
section
/-! SUPPORT. What each operation of Machine/SafeState.lean keeps: the queue, the clock's direction, the canonical form of the register
space, and every part of the state it does not name (`Keeps`). -/

set_option linter.unusedTactic false
set_option linter.unreachableTactic false
set_option linter.unusedSimpArgs false
set_option linter.unusedVariables false

namespace Sys2Proof.Machine

variable {μ : Part → Prop} {σ : State}

theorem Keeps.safeApply (s : State) (cls : ℕ) (chan : ℕ) (hs : Keeps μ σ s) (m_space : μ .space) (m_safe : μ .safe) :
    Keeps μ σ (State.safeApply s cls chan) := by
  unfold State.safeApply
  repeat' first
    | with_reducible assumption
    | intro _
    | with_reducible apply Keeps.ite
    | with_reducible apply Keeps.put
    | with_reducible apply Keeps.setSafe
    | split

theorem Keeps.safeRecord (s : State) (hs : Keeps μ σ s) (m_space : μ .space) (m_log : μ .log) (m_ten : μ .ten) (m_safeUnrec : μ .safeUnrec) :
    Keeps μ σ (State.safeRecord s) := by
  unfold State.safeRecord
  repeat' first
    | with_reducible assumption
    | intro _
    | with_reducible apply Keeps.ite
    | ((fail_if_no_progress extract_lets +onlyGivenNames x); first | (refine Keeps.bind x ?_ ?_; (try subst x); rotate_left; intro hx; rotate_left) | skip)
    | with_reducible apply Keeps.auditRec
    | simp only [Keeps.upd_safeUnrec m_safeUnrec]
    | split
    | simp only [id_eq]

theorem Keeps.safeStamp (s : State) (hs : Keeps μ σ s) (m_space : μ .space) (m_clk : μ .clk) :
    Keeps μ σ (State.safeStamp s) := by
  unfold State.safeStamp
  repeat' first
    | with_reducible assumption
    | intro _
    | with_reducible apply Keeps.ite
    | ((fail_if_no_progress extract_lets +onlyGivenNames x); first | (refine Keeps.bind x ?_ ?_; (try subst x); rotate_left; intro hx; rotate_left) | skip)
    | with_reducible apply Keeps.setWord
    | simp only [Keeps.upd_clk m_clk]
    | split
    | simp only [id_eq]

theorem Keeps.safeNote (s : State) (f : Fld) (hs : Keeps μ σ s) (m_space : μ .space) (m_safeUnrec : μ .safeUnrec) :
    Keeps μ σ (State.safeNote s f) := by
  unfold State.safeNote
  repeat' first
    | with_reducible assumption
    | intro _
    | with_reducible apply Keeps.ite
    | ((fail_if_no_progress extract_lets +onlyGivenNames x); first | (refine Keeps.bind x ?_ ?_; (try subst x); rotate_left; intro hx; rotate_left) | skip)
    | with_reducible apply Keeps.put
    | simp only [Keeps.upd_safeUnrec m_safeUnrec]
    | split
    | simp only [id_eq]

theorem Keeps.safeCause (s : State) (f : Fld) (hs : Keeps μ σ s) (m_space : μ .space) (m_free : μ .free) (m_log : μ .log) (m_ten : μ .ten) (m_ic : μ .ic) (m_safeUnrec : μ .safeUnrec) (m_safeIrq : μ .safeIrq) (m_clk : μ .clk) :
    Keeps μ σ (State.safeCause s f) := by
  unfold State.safeCause
  repeat' first
    | with_reducible assumption
    | intro _
    | with_reducible apply Keeps.ite
    | ((fail_if_no_progress extract_lets +onlyGivenNames x); first | (refine Keeps.bind x ?_ ?_; (try subst x); rotate_left; intro hx; rotate_left) | skip)
    | with_reducible apply Keeps.icPulse
    | with_reducible apply Keeps.safeNote
    | with_reducible apply Keeps.safeRecord
    | with_reducible apply Keeps.safeStamp
    | simp only [Keeps.upd_safeIrq m_safeIrq]
    | split
    | simp only [id_eq]

theorem Keeps.relOne (s : State) (cls : ℕ) (chan : ℕ) (hs : Keeps μ σ s) (m_safe : μ .safe) (m_cmds : μ .cmds) (m_cd : μ .cd) :
    Keeps μ σ (State.relOne s cls chan) := by
  unfold State.relOne
  repeat' first
    | with_reducible assumption
    | intro _
    | with_reducible apply Keeps.ite
    | ((fail_if_no_progress extract_lets +onlyGivenNames x); first | (refine Keeps.bind x ?_ ?_; (try subst x); rotate_left; intro hx; rotate_left) | skip)
    | with_reducible apply Keeps.release
    | with_reducible apply Keeps.setSafe

theorem Keeps.safeRelDrop (s : State) (w : Who) (data : Word) (hs : Keeps μ σ s) (m_space : μ .space) (m_wres : μ .wres) (m_log : μ .log) (m_ten : μ .ten) :
    Keeps μ σ (State.safeRelDrop s w data) := by
  unfold State.safeRelDrop
  repeat' first
    | with_reducible assumption
    | intro _
    | with_reducible apply Keeps.ite
    | ((fail_if_no_progress extract_lets +onlyGivenNames x); first | (refine Keeps.bind x ?_ ?_; (try subst x); rotate_left; intro hx; rotate_left) | skip)
    | with_reducible apply Keeps.auditW
    | with_reducible apply Keeps.inc
    | with_reducible apply Keeps.refuseWrite
    | split
    | simp only [id_eq]

theorem Keeps.safeRelWrite (s : State) (w : Who) (data : Word) (hs : Keeps μ σ s) (m_space : μ .space) (m_wres : μ .wres) (m_log : μ .log) (m_ten : μ .ten) (m_safe : μ .safe) (m_cmds : μ .cmds) (m_cd : μ .cd) :
    Keeps μ σ (State.safeRelWrite s w data) := by
  unfold State.safeRelWrite
  repeat' first
    | with_reducible assumption
    | intro _
    | with_reducible apply Keeps.ite
    | ((fail_if_no_progress extract_lets +onlyGivenNames x); first | (refine Keeps.bind x ?_ ?_; (try subst x); rotate_left; intro hx; rotate_left) | skip)
    | with_reducible apply Keeps.auditW
    | with_reducible apply Keeps.each
    | with_reducible apply Keeps.refuseWrite
    | with_reducible apply Keeps.relOne
    | with_reducible apply Keeps.safeRelDrop
    | split
    | simp only [id_eq]

end Sys2Proof.Machine
end

