-- ==== Sys2Proof/Laws/KeepsCoilOps.lean ====
section
/-! SUPPORT. What each operation of Machine/CoilOps.lean keeps: the queue, the clock's direction, the canonical form of the register
space, and every part of the state it does not name (`Keeps`). -/

set_option linter.unusedTactic false
set_option linter.unreachableTactic false
set_option linter.unusedSimpArgs false
set_option linter.unusedVariables false

namespace Sys2Proof.Machine

variable {μ : Part → Prop} {σ : State}

theorem Keeps.cdMod (s : State) (n : ℕ) (f : CdChan → CdChan) (hs : Keeps μ σ s) (m_cd : μ .cd) :
    Keeps μ σ (State.cdMod s n f) := by
  unfold State.cdMod
  repeat' first
    | with_reducible assumption
    | intro _
    | with_reducible apply Keeps.ite
    | with_reducible apply Keeps.setCd

theorem Keeps.cdGo (s : State) (n : ℕ) (ph : ℕ) (hs : Keeps μ σ s) (m_space : μ .space) (m_cd : μ .cd) :
    Keeps μ σ (State.cdGo s n ph) := by
  unfold State.cdGo
  repeat' first
    | with_reducible assumption
    | intro _
    | with_reducible apply Keeps.ite
    | with_reducible apply Keeps.cdMod
    | with_reducible apply Keeps.put

theorem Keeps.cdGather (s : State) (n : ℕ) (t : ℕ) (y : CdSamples) (hs : Keeps μ σ s) (m_cd : μ .cd) :
    Keeps μ σ (State.cdGather s n t y) := by
  unfold State.cdGather
  repeat' first
    | with_reducible assumption
    | intro _
    | with_reducible apply Keeps.ite
    | ((fail_if_no_progress extract_lets +onlyGivenNames x); first | (refine Keeps.bind x ?_ ?_; (try subst x); rotate_left; intro hx; rotate_left) | skip)
    | with_reducible apply Keeps.cdMod
    | with_reducible apply Keeps.setCd
    | split
    | simp only [id_eq]

theorem Keeps.cdErr (s : State) (t : ℕ) (code : ℕ) (fields : List Byte) (hs : Keeps μ σ s) (m_space : μ .space) (m_ten : μ .ten) (m_cdg : μ .cdg) :
    Keeps μ σ (State.cdErr s t code fields) := by
  unfold State.cdErr
  repeat' first
    | with_reducible assumption
    | intro _
    | with_reducible apply Keeps.ite
    | ((fail_if_no_progress extract_lets +onlyGivenNames x); first | (refine Keeps.bind x ?_ ?_; (try subst x); rotate_left; intro hx; rotate_left) | skip)
    | with_reducible apply Keeps.postErr2
    | simp only [Keeps.upd_cdg m_cdg]

theorem Keeps.cdLearnEnd (s : State) (n : ℕ) (code : ℕ) (hs : Keeps μ σ s) (m_space : μ .space) (m_ten : μ .ten) :
    Keeps μ σ (State.cdLearnEnd s n code) := by
  unfold State.cdLearnEnd
  repeat' first
    | with_reducible assumption
    | intro _
    | with_reducible apply Keeps.ite
    | ((fail_if_no_progress extract_lets +onlyGivenNames x); first | (refine Keeps.bind x ?_ ?_; (try subst x); rotate_left; intro hx; rotate_left) | skip)
    | with_reducible apply Keeps.postEvt2
    | with_reducible apply Keeps.put

theorem Keeps.cdHoldTimer (s : State) (n : ℕ) (hs : Keeps μ σ s) (m_cd : μ .cd) :
    Keeps μ σ (State.cdHoldTimer s n) := by
  unfold State.cdHoldTimer
  repeat' first
    | with_reducible assumption
    | intro _
    | with_reducible apply Keeps.ite
    | ((fail_if_no_progress extract_lets +onlyGivenNames x); first | (refine Keeps.bind x ?_ ?_; (try subst x); rotate_left; intro hx; rotate_left) | skip)
    | with_reducible apply Keeps.cdMod

theorem Keeps.cdEnterHold (s : State) (n : ℕ) (hs : Keeps μ σ s) (m_space : μ .space) (m_cd : μ .cd) :
    Keeps μ σ (State.cdEnterHold s n) := by
  unfold State.cdEnterHold
  repeat' first
    | with_reducible assumption
    | intro _
    | with_reducible apply Keeps.ite
    | ((fail_if_no_progress extract_lets +onlyGivenNames x); first | (refine Keeps.bind x ?_ ?_; (try subst x); rotate_left; intro hx; rotate_left) | skip)
    | with_reducible apply Keeps.cdGo
    | with_reducible apply Keeps.cdHoldTimer
    | with_reducible apply Keeps.cdMod

theorem Keeps.cdEndPull (s : State) (n : ℕ) (hs : Keeps μ σ s) (m_space : μ .space) (m_cd : μ .cd) :
    Keeps μ σ (State.cdEndPull s n) := by
  unfold State.cdEndPull
  repeat' first
    | with_reducible assumption
    | intro _
    | with_reducible apply Keeps.ite
    | with_reducible apply Keeps.cdEnterHold
    | with_reducible apply Keeps.put

theorem Keeps.cdClampStart (s : State) (n : ℕ) (hs : Keeps μ σ s) (m_cd : μ .cd) :
    Keeps μ σ (State.cdClampStart s n) := by
  unfold State.cdClampStart
  repeat' first
    | with_reducible assumption
    | intro _
    | with_reducible apply Keeps.ite
    | with_reducible apply Keeps.cdMod

theorem Keeps.cdFastDecay (s : State) (n : ℕ) (hs : Keeps μ σ s) (m_space : μ .space) (m_cd : μ .cd) :
    Keeps μ σ (State.cdFastDecay s n) := by
  unfold State.cdFastDecay
  repeat' first
    | with_reducible assumption
    | intro _
    | with_reducible apply Keeps.ite
    | ((fail_if_no_progress extract_lets +onlyGivenNames x); first | (refine Keeps.bind x ?_ ?_; (try subst x); rotate_left; intro hx; rotate_left) | skip)
    | with_reducible apply Keeps.cdClampStart
    | with_reducible apply Keeps.cdGo
    | with_reducible apply Keeps.cdMod

theorem Keeps.cdEnterIdle (s : State) (n : ℕ) (hs : Keeps μ σ s) (m_space : μ .space) (m_cd : μ .cd) :
    Keeps μ σ (State.cdEnterIdle s n) := by
  unfold State.cdEnterIdle
  repeat' first
    | with_reducible assumption
    | intro _
    | with_reducible apply Keeps.ite
    | with_reducible apply Keeps.cdGo
    | with_reducible apply Keeps.cdMod

theorem Keeps.cdEnterProp (s : State) (n : ℕ) (hs : Keeps μ σ s) (m_space : μ .space) (m_cd : μ .cd) :
    Keeps μ σ (State.cdEnterProp s n) := by
  unfold State.cdEnterProp
  repeat' first
    | with_reducible assumption
    | intro _
    | with_reducible apply Keeps.ite
    | ((fail_if_no_progress extract_lets +onlyGivenNames x); first | (refine Keeps.bind x ?_ ?_; (try subst x); rotate_left; intro hx; rotate_left) | skip)
    | with_reducible apply Keeps.cdGo
    | with_reducible apply Keeps.cdMod

theorem Keeps.cdLatch (s : State) (n : ℕ) (f : Fld) (hs : Keeps μ σ s) (m_space : μ .space) (m_ten : μ .ten) (m_cdg : μ .cdg) :
    Keeps μ σ (State.cdLatch s n f) := by
  unfold State.cdLatch
  repeat' first
    | with_reducible assumption
    | intro _
    | with_reducible apply Keeps.ite
    | ((fail_if_no_progress extract_lets +onlyGivenNames x); first | (refine Keeps.bind x ?_ ?_; (try subst x); rotate_left; intro hx; rotate_left) | skip)
    | with_reducible apply Keeps.cdErr
    | with_reducible apply Keeps.put

theorem Keeps.cdTrip (s : State) (n : ℕ) (f : Fld) (hs : Keeps μ σ s) (m_space : μ .space) (m_ten : μ .ten) (m_cd : μ .cd) (m_cdg : μ .cdg) :
    Keeps μ σ (State.cdTrip s n f) := by
  unfold State.cdTrip
  repeat' first
    | with_reducible assumption
    | intro _
    | with_reducible apply Keeps.ite
    | with_reducible apply Keeps.cdFastDecay
    | with_reducible apply Keeps.cdLatch
    | with_reducible apply Keeps.cdLearnEnd

theorem Keeps.cdMotionFault (s : State) (n : ℕ) (opening : Bool) (res : ℕ) (hs : Keeps μ σ s) (m_space : μ .space) (m_ten : μ .ten) (m_cd : μ .cd) (m_cdg : μ .cdg) :
    Keeps μ σ (State.cdMotionFault s n opening res) := by
  unfold State.cdMotionFault
  repeat' first
    | with_reducible assumption
    | intro _
    | with_reducible apply Keeps.ite
    | with_reducible apply Keeps.cdMod
    | with_reducible apply Keeps.cdTrip
    | with_reducible apply Keeps.setCd

theorem Keeps.cdMotion (s : State) (n : ℕ) (t0 : ℕ) (opening : Bool) (r : Combined) (avail : Bool) (edge : Option ℕ) (lead : Option ℤ) (hs : Keeps μ σ s) (m_space : μ .space) (m_ten : μ .ten) (m_cd : μ .cd) (m_cdg : μ .cdg) :
    Keeps μ σ (State.cdMotion s n t0 opening r avail edge lead) := by
  unfold State.cdMotion
  repeat' first
    | with_reducible assumption
    | intro _
    | with_reducible apply Keeps.ite
    | ((fail_if_no_progress extract_lets +onlyGivenNames x); first | (refine Keeps.bind x ?_ ?_; (try subst x); rotate_left; intro hx; rotate_left) | skip)
    | with_reducible apply Keeps.cdMod
    | with_reducible apply Keeps.cdMotionFault
    | with_reducible apply Keeps.inc
    | with_reducible apply Keeps.put
    | with_reducible apply Keeps.putIf
    | with_reducible apply Keeps.setWord
    | split
    | simp only [id_eq]

theorem Keeps.cdOpenResult (s : State) (n : ℕ) (hs : Keeps μ σ s) (m_space : μ .space) (m_ten : μ .ten) (m_cd : μ .cd) (m_cdg : μ .cdg) :
    Keeps μ σ (State.cdOpenResult s n) := by
  unfold State.cdOpenResult
  repeat' first
    | with_reducible assumption
    | intro _
    | with_reducible apply Keeps.ite
    | ((fail_if_no_progress extract_lets +onlyGivenNames x); first | (refine Keeps.bind x ?_ ?_; (try subst x); rotate_left; intro hx; rotate_left) | skip)
    | with_reducible apply Keeps.cdMotion
    | with_reducible apply Keeps.setCd
    | split

theorem Keeps.cdCloseResult (s : State) (n : ℕ) (sig : ℕ × ℕ) (hs : Keeps μ σ s) (m_space : μ .space) (m_ten : μ .ten) (m_cd : μ .cd) (m_cdg : μ .cdg) :
    Keeps μ σ (State.cdCloseResult s n sig) := by
  unfold State.cdCloseResult
  repeat' first
    | with_reducible assumption
    | intro _
    | with_reducible apply Keeps.ite
    | ((fail_if_no_progress extract_lets +onlyGivenNames x); first | (refine Keeps.bind x ?_ ?_; (try subst x); rotate_left; intro hx; rotate_left) | skip)
    | with_reducible apply Keeps.cdMotion
    | with_reducible apply Keeps.setCd
    | split
    | simp only [id_eq]

theorem Keeps.cdCloseTry (s : State) (n : ℕ) (hs : Keeps μ σ s) (m_space : μ .space) (m_ten : μ .ten) (m_cd : μ .cd) (m_cdg : μ .cdg) :
    Keeps μ σ (State.cdCloseTry s n) := by
  unfold State.cdCloseTry
  repeat' first
    | with_reducible assumption
    | intro _
    | with_reducible apply Keeps.ite
    | ((fail_if_no_progress extract_lets +onlyGivenNames x); first | (refine Keeps.bind x ?_ ?_; (try subst x); rotate_left; intro hx; rotate_left) | skip)
    | with_reducible apply Keeps.cdCloseResult
    | split
    | simp only [id_eq]

theorem Keeps.cdCutShort (s : State) (n : ℕ) (hs : Keeps μ σ s) (m_space : μ .space) (m_ten : μ .ten) (m_cd : μ .cd) (m_cdg : μ .cdg) :
    Keeps μ σ (State.cdCutShort s n) := by
  unfold State.cdCutShort
  repeat' first
    | with_reducible assumption
    | intro _
    | with_reducible apply Keeps.ite
    | with_reducible apply Keeps.cdMotion
    | with_reducible apply Keeps.inc
    | with_reducible apply Keeps.setCd
    | with_reducible apply Keeps.setWord

theorem Keeps.cdPullStart (s : State) (n : ℕ) (hs : Keeps μ σ s) (m_space : μ .space) (m_ten : μ .ten) (m_cd : μ .cd) (m_cdg : μ .cdg) :
    Keeps μ σ (State.cdPullStart s n) := by
  unfold State.cdPullStart
  repeat' first
    | with_reducible assumption
    | intro _
    | with_reducible apply Keeps.ite
    | ((fail_if_no_progress extract_lets +onlyGivenNames x); first | (refine Keeps.bind x ?_ ?_; (try subst x); rotate_left; intro hx; rotate_left) | skip)
    | with_reducible apply Keeps.cdCloseTry
    | with_reducible apply Keeps.cdCutShort
    | with_reducible apply Keeps.cdMod
    | with_reducible apply Keeps.cdOpenResult
    | with_reducible apply Keeps.inc
    | split
    | simp only [id_eq]

theorem Keeps.cdPull (s : State) (n : ℕ) (ph : ℕ) (hs : Keeps μ σ s) (m_space : μ .space) (m_ten : μ .ten) (m_cd : μ .cd) (m_cdg : μ .cdg) :
    Keeps μ σ (State.cdPull s n ph) := by
  unfold State.cdPull
  repeat' first
    | with_reducible assumption
    | intro _
    | with_reducible apply Keeps.ite
    | with_reducible apply Keeps.cdGo
    | with_reducible apply Keeps.cdPullStart
    | with_reducible apply Keeps.put

theorem Keeps.cdShed (s : State) (n : ℕ) (hs : Keeps μ σ s) (m_space : μ .space) (m_ten : μ .ten) (m_cd : μ .cd) :
    Keeps μ σ (State.cdShed s n) := by
  unfold State.cdShed
  repeat' first
    | with_reducible assumption
    | intro _
    | with_reducible apply Keeps.ite
    | ((fail_if_no_progress extract_lets +onlyGivenNames x); first | (refine Keeps.bind x ?_ ?_; (try subst x); rotate_left; intro hx; rotate_left) | skip)
    | with_reducible apply Keeps.cdFastDecay
    | with_reducible apply Keeps.cdLearnEnd
    | with_reducible apply Keeps.cdMod
    | with_reducible apply Keeps.inc
    | with_reducible apply Keeps.put

theorem Keeps.cdHoldChange (s : State) (n : ℕ) (f : State → State) (hs : Keeps μ σ s) (hf : ∀ a0, Keeps μ σ a0 → Keeps μ σ (f a0)) (m_space : μ .space) (m_log : μ .log) (m_ten : μ .ten) :
    Keeps μ σ (State.cdHoldChange s n f) := by
  unfold State.cdHoldChange
  repeat' first
    | with_reducible assumption
    | intro _
    | with_reducible apply Keeps.ite
    | ((fail_if_no_progress extract_lets +onlyGivenNames x); first | (refine Keeps.bind x ?_ ?_; (try subst x); rotate_left; intro hx; rotate_left) | skip)
    | with_reducible apply hf
    | with_reducible apply Keeps.auditEvent
    | split
    | simp only [id_eq]

theorem Keeps.cdSetIdo (s : State) (n : ℕ) (held : ℕ) (hs : Keeps μ σ s) (m_space : μ .space) (m_log : μ .log) (m_ten : μ .ten) :
    Keeps μ σ (State.cdSetIdo s n held) := by
  unfold State.cdSetIdo
  repeat' first
    | with_reducible assumption
    | intro _
    | with_reducible apply Keeps.ite
    | ((fail_if_no_progress extract_lets +onlyGivenNames x); first | (refine Keeps.bind x ?_ ?_; (try subst x); rotate_left; intro hx; rotate_left) | skip)
    | with_reducible apply Keeps.cdHoldChange
    | with_reducible apply Keeps.put
    | split
    | simp only [id_eq]

theorem Keeps.cdActOn (s : State) (n : ℕ) (hs : Keeps μ σ s) (m_space : μ .space) (m_ten : μ .ten) (m_cd : μ .cd) (m_cdg : μ .cdg) :
    Keeps μ σ (State.cdActOn s n) := by
  unfold State.cdActOn
  repeat' first
    | with_reducible assumption
    | intro _
    | with_reducible apply Keeps.ite
    | with_reducible apply Keeps.cdFastDecay
    | with_reducible apply Keeps.cdHoldTimer
    | with_reducible apply Keeps.cdLearnEnd
    | with_reducible apply Keeps.cdPull
    | with_reducible apply Keeps.inc
    | with_reducible apply Keeps.put

theorem Keeps.cdActOff (s : State) (n : ℕ) (hs : Keeps μ σ s) (m_space : μ .space) (m_ten : μ .ten) (m_cd : μ .cd) :
    Keeps μ σ (State.cdActOff s n) := by
  unfold State.cdActOff
  repeat' first
    | with_reducible assumption
    | intro _
    | with_reducible apply Keeps.ite
    | with_reducible apply Keeps.cdFastDecay
    | with_reducible apply Keeps.cdLearnEnd
    | with_reducible apply Keeps.put

theorem Keeps.cdCommands (s : State) (n : ℕ) (hs : Keeps μ σ s) (m_space : μ .space) (m_ten : μ .ten) (m_cd : μ .cd) (m_cdg : μ .cdg) :
    Keeps μ σ (State.cdCommands s n) := by
  unfold State.cdCommands
  repeat' first
    | with_reducible assumption
    | intro _
    | with_reducible apply Keeps.ite
    | ((fail_if_no_progress extract_lets +onlyGivenNames x); first | (refine Keeps.bind x ?_ ?_; (try subst x); rotate_left; intro hx; rotate_left) | skip)
    | with_reducible apply Keeps.cdActOff
    | with_reducible apply Keeps.cdActOn
    | with_reducible apply Keeps.cdEnterProp
    | with_reducible apply Keeps.setCd
    | split

theorem Keeps.cdModeOff (s : State) (n : ℕ) (hs : Keeps μ σ s) (m_space : μ .space) (m_ten : μ .ten) (m_cd : μ .cd) :
    Keeps μ σ (State.cdModeOff s n) := by
  unfold State.cdModeOff
  repeat' first
    | with_reducible assumption
    | intro _
    | with_reducible apply Keeps.ite
    | with_reducible apply Keeps.cdFastDecay
    | with_reducible apply Keeps.cdLearnEnd
    | with_reducible apply Keeps.cdMod
    | with_reducible apply Keeps.put

theorem Keeps.cdTakeUp (s : State) (n : ℕ) (mA : ℕ) (hs : Keeps μ σ s) (m_space : μ .space) (m_ten : μ .ten) (m_cd : μ .cd) (m_cdg : μ .cdg) :
    Keeps μ σ (State.cdTakeUp s n mA) := by
  unfold State.cdTakeUp
  repeat' first
    | with_reducible assumption
    | intro _
    | with_reducible apply Keeps.ite
    | with_reducible apply Keeps.cdEnterHold
    | with_reducible apply Keeps.cdEnterIdle
    | with_reducible apply Keeps.cdEnterProp
    | with_reducible apply Keeps.cdFastDecay
    | with_reducible apply Keeps.cdMod
    | with_reducible apply Keeps.cdPull

theorem Keeps.cdSafeEntry (s : State) (n : ℕ) (hs : Keeps μ σ s) (m_space : μ .space) (m_ten : μ .ten) (m_cd : μ .cd) :
    Keeps μ σ (State.cdSafeEntry s n) := by
  unfold State.cdSafeEntry
  repeat' first
    | with_reducible assumption
    | intro _
    | with_reducible apply Keeps.ite
    | ((fail_if_no_progress extract_lets +onlyGivenNames x); first | (refine Keeps.bind x ?_ ?_; (try subst x); rotate_left; intro hx; rotate_left) | skip)
    | with_reducible apply Keeps.cdClampStart
    | with_reducible apply Keeps.cdGo
    | with_reducible apply Keeps.cdLearnEnd
    | with_reducible apply Keeps.cdMod
    | with_reducible apply Keeps.put

end Sys2Proof.Machine
end

