-- ==== Sys2Proof/Laws/KeepsCoilMotionOps.lean ====
section
/-! SUPPORT. What each operation of Machine/CoilMotionOps.lean keeps: the queue, the clock's direction, the canonical form of the register
space, and every part of the state it does not name (`Keeps`). -/

set_option linter.unusedTactic false
set_option linter.unreachableTactic false
set_option linter.unusedSimpArgs false
set_option linter.unusedVariables false

namespace Sys2Proof.Machine

variable {μ : Part → Prop} {σ : State}

theorem Keeps.cdOpenTry (s : State) (n : ℕ) (hs : Keeps μ σ s) (m_space : μ .space) (m_ten : μ .ten) (m_cd : μ .cd) (m_cdg : μ .cdg) :
    Keeps μ σ (State.cdOpenTry s n) := by
  unfold State.cdOpenTry
  repeat' first
    | with_reducible assumption
    | intro _
    | with_reducible apply Keeps.ite
    | with_reducible apply Keeps.cdOpenResult

theorem Keeps.cdUnexpDrop (s : State) (n : ℕ) (hs : Keeps μ σ s) (m_space : μ .space) (m_log : μ .log) (m_ten : μ .ten) (m_cd : μ .cd) (m_cdg : μ .cdg) :
    Keeps μ σ (State.cdUnexpDrop s n) := by
  unfold State.cdUnexpDrop
  repeat' first
    | with_reducible assumption
    | intro _
    | with_reducible apply Keeps.ite
    | ((fail_if_no_progress extract_lets +onlyGivenNames x); first | (refine Keeps.bind x ?_ ?_; (try subst x); rotate_left; intro hx; rotate_left) | skip)
    | with_reducible apply Keeps.cdErr
    | with_reducible apply Keeps.cdHoldChange
    | with_reducible apply Keeps.cdMod
    | with_reducible apply Keeps.cdPull
    | with_reducible apply Keeps.inc
    | with_reducible apply Keeps.put

theorem Keeps.cdAmbigBump (s : State) (n : ℕ) (hs : Keeps μ σ s) (m_space : μ .space) (m_ten : μ .ten) (m_cd : μ .cd) (m_cdg : μ .cdg) :
    Keeps μ σ (State.cdAmbigBump s n) := by
  unfold State.cdAmbigBump
  repeat' first
    | with_reducible assumption
    | intro _
    | with_reducible apply Keeps.ite
    | ((fail_if_no_progress extract_lets +onlyGivenNames x); first | (refine Keeps.bind x ?_ ?_; (try subst x); rotate_left; intro hx; rotate_left) | skip)
    | with_reducible apply Keeps.cdMod
    | with_reducible apply Keeps.cdPull
    | split
    | simp only [id_eq]

theorem Keeps.cdGuardTry (s : State) (n : ℕ) (hs : Keeps μ σ s) (m_space : μ .space) (m_log : μ .log) (m_ten : μ .ten) (m_cd : μ .cd) (m_cdg : μ .cdg) :
    Keeps μ σ (State.cdGuardTry s n) := by
  unfold State.cdGuardTry
  repeat' first
    | with_reducible assumption
    | intro _
    | with_reducible apply Keeps.ite
    | ((fail_if_no_progress extract_lets +onlyGivenNames x); first | (refine Keeps.bind x ?_ ?_; (try subst x); rotate_left; intro hx; rotate_left) | skip)
    | with_reducible apply Keeps.cdAmbigBump
    | with_reducible apply Keeps.cdMod
    | with_reducible apply Keeps.cdUnexpDrop
    | split
    | simp only [id_eq]

theorem Keeps.cdProbeRelease (s : State) (n : ℕ) (res : ℕ) (hs : Keeps μ σ s) (m_space : μ .space) (m_log : μ .log) (m_ten : μ .ten) (m_cd : μ .cd) (m_cdg : μ .cdg) :
    Keeps μ σ (State.cdProbeRelease s n res) := by
  unfold State.cdProbeRelease
  repeat' first
    | with_reducible assumption
    | intro _
    | with_reducible apply Keeps.ite
    | ((fail_if_no_progress extract_lets +onlyGivenNames x); first | (refine Keeps.bind x ?_ ?_; (try subst x); rotate_left; intro hx; rotate_left) | skip)
    | with_reducible apply Keeps.cdLearnEnd
    | with_reducible apply Keeps.cdPull
    | with_reducible apply Keeps.cdSetIdo

theorem Keeps.cdProbeTry (s : State) (n : ℕ) (ended : Bool) (hs : Keeps μ σ s) (m_space : μ .space) (m_log : μ .log) (m_ten : μ .ten) (m_cd : μ .cd) (m_cdg : μ .cdg) :
    Keeps μ σ (State.cdProbeTry s n ended) := by
  unfold State.cdProbeTry
  repeat' first
    | with_reducible assumption
    | intro _
    | with_reducible apply Keeps.ite
    | ((fail_if_no_progress extract_lets +onlyGivenNames x); first | (refine Keeps.bind x ?_ ?_; (try subst x); rotate_left; intro hx; rotate_left) | skip)
    | with_reducible apply Keeps.cdProbeRelease
    | with_reducible apply Keeps.putIf
    | split
    | simp only [id_eq]

end Sys2Proof.Machine
end

