-- ==== Sys2Proof/Laws/KeepsCoilDrive.lean ====
section
/-! SUPPORT. What each operation of Machine/CoilDrive.lean keeps: the queue, the clock's direction, the canonical form of the register
space, and every part of the state it does not name (`Keeps`). -/

set_option linter.unusedTactic false
set_option linter.unreachableTactic false
set_option linter.unusedSimpArgs false
set_option linter.unusedVariables false

namespace Sys2Proof.Machine

variable {μ : Part → Prop} {σ : State}

theorem Keeps.cdRamp (s : State) (n : ℕ) (m : ℕ) (hs : Keeps μ σ s) (m_cd : μ .cd) :
    Keeps μ σ (State.cdRamp s n m) := by
  unfold State.cdRamp
  repeat' first
    | with_reducible assumption
    | intro _
    | with_reducible apply Keeps.ite
    | ((fail_if_no_progress extract_lets +onlyGivenNames x); first | (refine Keeps.bind x ?_ ?_; (try subst x); rotate_left; intro hx; rotate_left) | skip)
    | with_reducible apply Keeps.cdMod
    | split
    | simp only [id_eq]

theorem Keeps.cdCrossCheck (s : State) (n : ℕ) (next : Bool) (y : CdSamples) (hs : Keeps μ σ s) (m_space : μ .space) (m_ten : μ .ten) (m_cd : μ .cd) (m_cdg : μ .cdg) :
    Keeps μ σ (State.cdCrossCheck s n next y) := by
  unfold State.cdCrossCheck
  repeat' first
    | with_reducible assumption
    | intro _
    | with_reducible apply Keeps.ite
    | ((fail_if_no_progress extract_lets +onlyGivenNames x); first | (refine Keeps.bind x ?_ ?_; (try subst x); rotate_left; intro hx; rotate_left) | skip)
    | with_reducible apply Keeps.cdMod
    | with_reducible apply Keeps.cdTrip
    | split
    | simp only [id_eq]

theorem Keeps.cdCounts (s : State) (n : ℕ) (next : Bool) (y : CdSamples) (hs : Keeps μ σ s) (m_cd : μ .cd) :
    Keeps μ σ (State.cdCounts s n next y) := by
  unfold State.cdCounts
  repeat' first
    | with_reducible assumption
    | intro _
    | with_reducible apply Keeps.ite
    | ((fail_if_no_progress extract_lets +onlyGivenNames x); first | (refine Keeps.bind x ?_ ?_; (try subst x); rotate_left; intro hx; rotate_left) | skip)
    | with_reducible apply Keeps.setCd
    | split
    | simp only [id_eq]

theorem Keeps.cdCountTrips (s : State) (n : ℕ) (hs : Keeps μ σ s) (m_space : μ .space) (m_ten : μ .ten) (m_cd : μ .cd) (m_cdg : μ .cdg) :
    Keeps μ σ (State.cdCountTrips s n) := by
  unfold State.cdCountTrips
  repeat' first
    | with_reducible assumption
    | intro _
    | with_reducible apply Keeps.ite
    | ((fail_if_no_progress extract_lets +onlyGivenNames x); first | (refine Keeps.bind x ?_ ?_; (try subst x); rotate_left; intro hx; rotate_left) | skip)
    | with_reducible apply Keeps.cdTrip
    | split
    | simp only [id_eq]

theorem Keeps.cdReport (s : State) (n : ℕ) (m : ℕ) (l : List CdInst) (hs : Keeps μ σ s) (m_space : μ .space) :
    Keeps μ σ (State.cdReport s n m l) := by
  unfold State.cdReport
  repeat' first
    | with_reducible assumption
    | intro _
    | with_reducible apply Keeps.ite
    | ((fail_if_no_progress extract_lets +onlyGivenNames x); first | (refine Keeps.bind x ?_ ?_; (try subst x); rotate_left; intro hx; rotate_left) | skip)
    | with_reducible apply Keeps.put
    | split
    | simp only [id_eq]

theorem Keeps.cdRegulate (s : State) (n : ℕ) (y : CdSamples) (hs : Keeps μ σ s) (m_space : μ .space) (m_cd : μ .cd) :
    Keeps μ σ (State.cdRegulate s n y) := by
  unfold State.cdRegulate
  repeat' first
    | with_reducible assumption
    | intro _
    | with_reducible apply Keeps.ite
    | ((fail_if_no_progress extract_lets +onlyGivenNames x); first | (refine Keeps.bind x ?_ ?_; (try subst x); rotate_left; intro hx; rotate_left) | skip)
    | with_reducible apply Keeps.cdReport
    | with_reducible apply Keeps.put
    | with_reducible apply Keeps.setCd
    | split
    | simp only [id_eq]

theorem Keeps.cdEarlyEvents (s : State) (n : ℕ) (mA : ℕ) (hs : Keeps μ σ s) (m_space : μ .space) (m_ten : μ .ten) (m_cd : μ .cd) (m_cdg : μ .cdg) :
    Keeps μ σ (State.cdEarlyEvents s n mA) := by
  unfold State.cdEarlyEvents
  repeat' first
    | with_reducible assumption
    | intro _
    | with_reducible apply Keeps.ite
    | ((fail_if_no_progress extract_lets +onlyGivenNames x); first | (refine Keeps.bind x ?_ ?_; (try subst x); rotate_left; intro hx; rotate_left) | skip)
    | with_reducible apply Keeps.cdModeOff
    | with_reducible apply Keeps.cdShed
    | with_reducible apply Keeps.cdTakeUp
    | with_reducible apply Keeps.cdTrip
    | with_reducible apply Keeps.setCd
    | split
    | simp only [id_eq]

theorem Keeps.cdResults (s : State) (n : ℕ) (hs : Keeps μ σ s) (m_space : μ .space) (m_log : μ .log) (m_ten : μ .ten) (m_cd : μ .cd) (m_cdg : μ .cdg) :
    Keeps μ σ (State.cdResults s n) := by
  unfold State.cdResults
  repeat' first
    | with_reducible assumption
    | intro _
    | with_reducible apply Keeps.ite
    | ((fail_if_no_progress extract_lets +onlyGivenNames x); first | (refine Keeps.bind x ?_ ?_; (try subst x); rotate_left; intro hx; rotate_left) | skip)
    | with_reducible apply Keeps.cdCloseTry
    | with_reducible apply Keeps.cdGuardTry
    | with_reducible apply Keeps.cdOpenTry
    | with_reducible apply Keeps.cdProbeTry
    | split
    | simp only [id_eq]

theorem Keeps.cdEvents (s : State) (n : ℕ) (mA : ℕ) (hs : Keeps μ σ s) (m_space : μ .space) (m_log : μ .log) (m_ten : μ .ten) (m_cd : μ .cd) (m_cdg : μ .cdg) :
    Keeps μ σ (State.cdEvents s n mA) := by
  unfold State.cdEvents
  repeat' first
    | with_reducible assumption
    | intro _
    | with_reducible apply Keeps.ite
    | ((fail_if_no_progress extract_lets +onlyGivenNames x); first | (refine Keeps.bind x ?_ ?_; (try subst x); rotate_left; intro hx; rotate_left) | skip)
    | with_reducible apply Keeps.cdCommands
    | with_reducible apply Keeps.cdEarlyEvents
    | with_reducible apply Keeps.cdEndPull
    | with_reducible apply Keeps.cdResults
    | split
    | simp only [id_eq]

theorem Keeps.cdPullTimer (s : State) (n : ℕ) (hs : Keeps μ σ s) (m_space : μ .space) (m_ten : μ .ten) (m_cd : μ .cd) (m_cdg : μ .cdg) :
    Keeps μ σ (State.cdPullTimer s n) := by
  unfold State.cdPullTimer
  repeat' first
    | with_reducible assumption
    | intro _
    | with_reducible apply Keeps.ite
    | ((fail_if_no_progress extract_lets +onlyGivenNames x); first | (refine Keeps.bind x ?_ ?_; (try subst x); rotate_left; intro hx; rotate_left) | skip)
    | with_reducible apply Keeps.cdEndPull
    | with_reducible apply Keeps.cdMod
    | with_reducible apply Keeps.cdOpenTry
    | split
    | simp only [id_eq]

theorem Keeps.cdHoldEnd (s : State) (n : ℕ) (hs : Keeps μ σ s) (m_space : μ .space) (m_ten : μ .ten) (m_cd : μ .cd) :
    Keeps μ σ (State.cdHoldEnd s n) := by
  unfold State.cdHoldEnd
  repeat' first
    | with_reducible assumption
    | intro _
    | with_reducible apply Keeps.ite
    | ((fail_if_no_progress extract_lets +onlyGivenNames x); first | (refine Keeps.bind x ?_ ?_; (try subst x); rotate_left; intro hx; rotate_left) | skip)
    | with_reducible apply Keeps.cdFastDecay
    | with_reducible apply Keeps.cdLearnEnd
    | with_reducible apply Keeps.put
    | split
    | simp only [id_eq]

theorem Keeps.cdAfterClamp (s : State) (n : ℕ) (hs : Keeps μ σ s) (m_space : μ .space) (m_ten : μ .ten) (m_cd : μ .cd) (m_cdg : μ .cdg) :
    Keeps μ σ (State.cdAfterClamp s n) := by
  unfold State.cdAfterClamp
  repeat' first
    | with_reducible assumption
    | intro _
    | with_reducible apply Keeps.ite
    | ((fail_if_no_progress extract_lets +onlyGivenNames x); first | (refine Keeps.bind x ?_ ?_; (try subst x); rotate_left; intro hx; rotate_left) | skip)
    | with_reducible apply Keeps.cdEnterIdle
    | with_reducible apply Keeps.cdGo
    | with_reducible apply Keeps.cdMod
    | with_reducible apply Keeps.cdPull
    | with_reducible apply Keeps.cdSafeEntry
    | with_reducible apply Keeps.put
    | split
    | simp only [id_eq]

theorem Keeps.cdClampEnd (s : State) (n : ℕ) (hs : Keeps μ σ s) (m_space : μ .space) (m_ten : μ .ten) (m_cd : μ .cd) (m_cdg : μ .cdg) :
    Keeps μ σ (State.cdClampEnd s n) := by
  unfold State.cdClampEnd
  repeat' first
    | with_reducible assumption
    | intro _
    | with_reducible apply Keeps.ite
    | ((fail_if_no_progress extract_lets +onlyGivenNames x); first | (refine Keeps.bind x ?_ ?_; (try subst x); rotate_left; intro hx; rotate_left) | skip)
    | with_reducible apply Keeps.cdAfterClamp
    | with_reducible apply Keeps.cdGo
    | with_reducible apply Keeps.cdLatch
    | with_reducible apply Keeps.cdLearnEnd
    | with_reducible apply Keeps.cdMod
    | with_reducible apply Keeps.put
    | split
    | simp only [id_eq]

theorem Keeps.cdBoundary (s : State) (n : ℕ) (x : CdSamples) (hs : Keeps μ σ s) (m_space : μ .space) (m_now : μ .now) (m_campusOff : μ .campusOff) (m_log : μ .log) (m_ten : μ .ten) (m_cd : μ .cd) (m_cdg : μ .cdg) (m_cl : μ .cl) :
    Keeps μ σ (State.cdBoundary s n x) := by
  unfold State.cdBoundary
  repeat' first
    | with_reducible assumption
    | intro _
    | with_reducible apply Keeps.ite
    | ((fail_if_no_progress extract_lets +onlyGivenNames x); first | (refine Keeps.bind x ?_ ?_; (try subst x); rotate_left; intro hx; rotate_left) | skip)
    | with_reducible apply Keeps.cdClampEnd
    | with_reducible apply Keeps.cdCountTrips
    | with_reducible apply Keeps.cdCounts
    | with_reducible apply Keeps.cdCrossCheck
    | with_reducible apply Keeps.cdEvents
    | with_reducible apply Keeps.cdGather
    | with_reducible apply Keeps.cdHoldEnd
    | with_reducible apply Keeps.cdMod
    | with_reducible apply Keeps.cdPullTimer
    | with_reducible apply Keeps.cdRamp
    | with_reducible apply Keeps.cdRegulate
    | with_reducible apply Keeps.reach
    | split
    | simp only [id_eq]

theorem Keeps.of_execCdCycleBoundary (n : ℕ) (x : CdSamples) (s : State) (hs : Keeps μ σ s) (m_space : μ .space) (m_now : μ .now) (m_campusOff : μ .campusOff) (m_log : μ .log) (m_ten : μ .ten) (m_cd : μ .cd) (m_cdg : μ .cdg) (m_cl : μ .cl) :
    KeepsO μ σ (execCdCycleBoundary n x s) := by
  unfold execCdCycleBoundary
  repeat' first
    | with_reducible assumption
    | intro _
    | with_reducible apply KeepsO.next
    | with_reducible apply Keeps.ite
    | ((fail_if_no_progress extract_lets +onlyGivenNames x); first | (refine Keeps.bind x ?_ ?_; (try subst x); rotate_left; intro hx; rotate_left) | (refine KeepsO.bind x ?_ ?_; (try subst x); rotate_left; intro hx; rotate_left) | skip)
    | with_reducible apply Keeps.cdBoundary
    | with_reducible apply Keeps.pdDo
    | split
    | simp only [id_eq]

theorem Keeps.cdCommand (s : State) (n : ℕ) (hs : Keeps μ σ s) (m_cmds : μ .cmds) (m_cd : μ .cd) (m_fwd : μ .fwd) (m_clk : μ .clk) :
    Keeps μ σ (State.cdCommand s n) := by
  unfold State.cdCommand
  repeat' first
    | with_reducible assumption
    | intro _
    | with_reducible apply Keeps.ite
    | ((fail_if_no_progress extract_lets +onlyGivenNames x); first | (refine Keeps.bind x ?_ ?_; (try subst x); rotate_left; intro hx; rotate_left) | skip)
    | with_reducible apply Keeps.cdMod
    | with_reducible apply Keeps.fwdTake
    | with_reducible apply Keeps.setCmd
    | with_reducible apply Keeps.of_fst (by assumption)
    | with_reducible apply Keeps.of_snd (by assumption)
    | split
    | simp only [id_eq]

theorem Keeps.of_execCdCommand (n : ℕ) (s : State) (hs : Keeps μ σ s) (m_cmds : μ .cmds) (m_cd : μ .cd) (m_fwd : μ .fwd) (m_clk : μ .clk) :
    KeepsO μ σ (execCdCommand n s) := by
  unfold execCdCommand
  repeat' first
    | with_reducible assumption
    | intro _
    | with_reducible apply KeepsO.next
    | with_reducible apply Keeps.ite
    | ((fail_if_no_progress extract_lets +onlyGivenNames x); first | (refine Keeps.bind x ?_ ?_; (try subst x); rotate_left; intro hx; rotate_left) | (refine KeepsO.bind x ?_ ?_; (try subst x); rotate_left; intro hx; rotate_left) | skip)
    | with_reducible apply Keeps.cdCommand
    | with_reducible apply Keeps.pdDo
    | split
    | simp only [id_eq]

theorem Keeps.cdZeroCheck (s : State) (n : ℕ) (a : List ℕ) (b : List ℕ) (hs : Keeps μ σ s) (m_space : μ .space) (m_now : μ .now) (m_campusOff : μ .campusOff) (m_ten : μ .ten) (m_cd : μ .cd) (m_cdg : μ .cdg) (m_cl : μ .cl) :
    Keeps μ σ (State.cdZeroCheck s n a b) := by
  unfold State.cdZeroCheck
  repeat' first
    | with_reducible assumption
    | intro _
    | with_reducible apply Keeps.ite
    | ((fail_if_no_progress extract_lets +onlyGivenNames x); first | (refine Keeps.bind x ?_ ?_; (try subst x); rotate_left; intro hx; rotate_left) | skip)
    | with_reducible apply Keeps.cdMod
    | with_reducible apply Keeps.cdTrip
    | with_reducible apply Keeps.reach
    | split
    | simp only [id_eq]

theorem Keeps.of_execCdZeroCheck (n : ℕ) (a : List ℕ) (b : List ℕ) (s : State) (hs : Keeps μ σ s) (m_space : μ .space) (m_now : μ .now) (m_campusOff : μ .campusOff) (m_ten : μ .ten) (m_cd : μ .cd) (m_cdg : μ .cdg) (m_cl : μ .cl) :
    KeepsO μ σ (execCdZeroCheck n a b s) := by
  unfold execCdZeroCheck
  repeat' first
    | with_reducible assumption
    | intro _
    | with_reducible apply KeepsO.next
    | with_reducible apply Keeps.ite
    | ((fail_if_no_progress extract_lets +onlyGivenNames x); first | (refine Keeps.bind x ?_ ?_; (try subst x); rotate_left; intro hx; rotate_left) | (refine KeepsO.bind x ?_ ?_; (try subst x); rotate_left; intro hx; rotate_left) | skip)
    | with_reducible apply Keeps.cdZeroCheck
    | with_reducible apply Keeps.pdDo
    | split
    | simp only [id_eq]

theorem Keeps.of_execCdOvercurrent (n : ℕ) (s : State) (hs : Keeps μ σ s) (m_space : μ .space) (m_ten : μ .ten) (m_cd : μ .cd) (m_cdg : μ .cdg) :
    KeepsO μ σ (execCdOvercurrent n s) := by
  unfold execCdOvercurrent
  repeat' first
    | with_reducible assumption
    | intro _
    | with_reducible apply KeepsO.next
    | with_reducible apply Keeps.ite
    | ((fail_if_no_progress extract_lets +onlyGivenNames x); first | (refine Keeps.bind x ?_ ?_; (try subst x); rotate_left; intro hx; rotate_left) | (refine KeepsO.bind x ?_ ?_; (try subst x); rotate_left; intro hx; rotate_left) | skip)
    | with_reducible apply Keeps.cdTrip
    | with_reducible apply Keeps.pdDo
    | split
    | simp only [id_eq]

theorem Keeps.cdOpenDetect (s : State) (n : ℕ) (hs : Keeps μ σ s) (m_space : μ .space) (m_ten : μ .ten) (m_cd : μ .cd) (m_cdg : μ .cdg) :
    Keeps μ σ (State.cdOpenDetect s n) := by
  unfold State.cdOpenDetect
  repeat' first
    | with_reducible assumption
    | intro _
    | with_reducible apply Keeps.ite
    | with_reducible apply Keeps.cdMod
    | with_reducible apply Keeps.cdTrip

theorem Keeps.of_execCdOpenDetect (n : ℕ) (s : State) (hs : Keeps μ σ s) (m_space : μ .space) (m_ten : μ .ten) (m_cd : μ .cd) (m_cdg : μ .cdg) :
    KeepsO μ σ (execCdOpenDetect n s) := by
  unfold execCdOpenDetect
  repeat' first
    | with_reducible assumption
    | intro _
    | with_reducible apply KeepsO.next
    | with_reducible apply Keeps.ite
    | ((fail_if_no_progress extract_lets +onlyGivenNames x); first | (refine Keeps.bind x ?_ ?_; (try subst x); rotate_left; intro hx; rotate_left) | (refine KeepsO.bind x ?_ ?_; (try subst x); rotate_left; intro hx; rotate_left) | skip)
    | with_reducible apply Keeps.cdOpenDetect
    | with_reducible apply Keeps.pdDo
    | split
    | simp only [id_eq]

theorem Keeps.cdImbalance (s : State) (n : ℕ) (hs : Keeps μ σ s) (m_space : μ .space) (m_ten : μ .ten) (m_cd : μ .cd) (m_cdg : μ .cdg) :
    Keeps μ σ (State.cdImbalance s n) := by
  unfold State.cdImbalance
  repeat' first
    | with_reducible assumption
    | intro _
    | with_reducible apply Keeps.ite
    | with_reducible apply Keeps.cdMod
    | with_reducible apply Keeps.cdTrip

theorem Keeps.of_execCdImbalance (n : ℕ) (s : State) (hs : Keeps μ σ s) (m_space : μ .space) (m_ten : μ .ten) (m_cd : μ .cd) (m_cdg : μ .cdg) :
    KeepsO μ σ (execCdImbalance n s) := by
  unfold execCdImbalance
  repeat' first
    | with_reducible assumption
    | intro _
    | with_reducible apply KeepsO.next
    | with_reducible apply Keeps.ite
    | ((fail_if_no_progress extract_lets +onlyGivenNames x); first | (refine Keeps.bind x ?_ ?_; (try subst x); rotate_left; intro hx; rotate_left) | (refine KeepsO.bind x ?_ ?_; (try subst x); rotate_left; intro hx; rotate_left) | skip)
    | with_reducible apply Keeps.cdImbalance
    | with_reducible apply Keeps.pdDo
    | split
    | simp only [id_eq]

theorem Keeps.cdTimerAt (s : State) (n : ℕ) (t : ℕ) (x : CdSamples) (hs : Keeps μ σ s) (m_space : μ .space) (m_now : μ .now) (m_campusOff : μ .campusOff) (m_log : μ .log) (m_ten : μ .ten) (m_cd : μ .cd) (m_cdg : μ .cdg) (m_cl : μ .cl) :
    Keeps μ σ (State.cdTimerAt s n t x) := by
  unfold State.cdTimerAt
  repeat' first
    | with_reducible assumption
    | intro _
    | with_reducible apply Keeps.ite
    | ((fail_if_no_progress extract_lets +onlyGivenNames x); first | (refine Keeps.bind x ?_ ?_; (try subst x); rotate_left; intro hx; rotate_left) | skip)
    | with_reducible apply Keeps.cdBoundary
    | with_reducible apply Keeps.reach
    | split
    | simp only [id_eq]

theorem Keeps.cdPullinEnd (s : State) (n : ℕ) (x : CdSamples) (hs : Keeps μ σ s) (m_space : μ .space) (m_now : μ .now) (m_campusOff : μ .campusOff) (m_log : μ .log) (m_ten : μ .ten) (m_cd : μ .cd) (m_cdg : μ .cdg) (m_cl : μ .cl) :
    Keeps μ σ (State.cdPullinEnd s n x) := by
  unfold State.cdPullinEnd
  repeat' first
    | with_reducible assumption
    | intro _
    | with_reducible apply Keeps.ite
    | ((fail_if_no_progress extract_lets +onlyGivenNames x); first | (refine Keeps.bind x ?_ ?_; (try subst x); rotate_left; intro hx; rotate_left) | skip)
    | with_reducible apply Keeps.cdTimerAt
    | split
    | simp only [id_eq]

theorem Keeps.of_execCdPullinEnd (n : ℕ) (x : CdSamples) (s : State) (hs : Keeps μ σ s) (m_space : μ .space) (m_now : μ .now) (m_campusOff : μ .campusOff) (m_log : μ .log) (m_ten : μ .ten) (m_cd : μ .cd) (m_cdg : μ .cdg) (m_cl : μ .cl) :
    KeepsO μ σ (execCdPullinEnd n x s) := by
  unfold execCdPullinEnd
  repeat' first
    | with_reducible assumption
    | intro _
    | with_reducible apply KeepsO.next
    | with_reducible apply Keeps.ite
    | ((fail_if_no_progress extract_lets +onlyGivenNames x); first | (refine Keeps.bind x ?_ ?_; (try subst x); rotate_left; intro hx; rotate_left) | (refine KeepsO.bind x ?_ ?_; (try subst x); rotate_left; intro hx; rotate_left) | skip)
    | with_reducible apply Keeps.cdPullinEnd
    | with_reducible apply Keeps.pdDo
    | split
    | simp only [id_eq]

theorem Keeps.cdHoldExpiry (s : State) (n : ℕ) (m : ℕ) (x : CdSamples) (hs : Keeps μ σ s) (m_space : μ .space) (m_now : μ .now) (m_campusOff : μ .campusOff) (m_log : μ .log) (m_ten : μ .ten) (m_cd : μ .cd) (m_cdg : μ .cdg) (m_cl : μ .cl) :
    Keeps μ σ (State.cdHoldExpiry s n m x) := by
  unfold State.cdHoldExpiry
  repeat' first
    | with_reducible assumption
    | intro _
    | with_reducible apply Keeps.ite
    | ((fail_if_no_progress extract_lets +onlyGivenNames x); first | (refine Keeps.bind x ?_ ?_; (try subst x); rotate_left; intro hx; rotate_left) | skip)
    | with_reducible apply Keeps.cdTimerAt
    | split
    | simp only [id_eq]

theorem Keeps.of_execCdHoldExpiry (n : ℕ) (x : CdSamples) (s : State) (hs : Keeps μ σ s) (m_space : μ .space) (m_now : μ .now) (m_campusOff : μ .campusOff) (m_log : μ .log) (m_ten : μ .ten) (m_cd : μ .cd) (m_cdg : μ .cdg) (m_cl : μ .cl) :
    KeepsO μ σ (execCdHoldExpiry n x s) := by
  unfold execCdHoldExpiry
  repeat' first
    | with_reducible assumption
    | intro _
    | with_reducible apply KeepsO.next
    | with_reducible apply Keeps.ite
    | ((fail_if_no_progress extract_lets +onlyGivenNames x); first | (refine Keeps.bind x ?_ ?_; (try subst x); rotate_left; intro hx; rotate_left) | (refine KeepsO.bind x ?_ ?_; (try subst x); rotate_left; intro hx; rotate_left) | skip)
    | with_reducible apply Keeps.cdHoldExpiry
    | with_reducible apply Keeps.pdDo
    | split
    | simp only [id_eq]

theorem Keeps.of_execCdPulseExpiry (n : ℕ) (x : CdSamples) (s : State) (hs : Keeps μ σ s) (m_space : μ .space) (m_now : μ .now) (m_campusOff : μ .campusOff) (m_log : μ .log) (m_ten : μ .ten) (m_cd : μ .cd) (m_cdg : μ .cdg) (m_cl : μ .cl) :
    KeepsO μ σ (execCdPulseExpiry n x s) := by
  unfold execCdPulseExpiry
  repeat' first
    | with_reducible assumption
    | intro _
    | with_reducible apply KeepsO.next
    | with_reducible apply Keeps.ite
    | ((fail_if_no_progress extract_lets +onlyGivenNames x); first | (refine Keeps.bind x ?_ ?_; (try subst x); rotate_left; intro hx; rotate_left) | (refine KeepsO.bind x ?_ ?_; (try subst x); rotate_left; intro hx; rotate_left) | skip)
    | with_reducible apply Keeps.cdHoldExpiry
    | with_reducible apply Keeps.pdDo
    | split
    | simp only [id_eq]

theorem Keeps.cdClampBoundary (s : State) (n : ℕ) (x : CdSamples) (hs : Keeps μ σ s) (m_space : μ .space) (m_now : μ .now) (m_campusOff : μ .campusOff) (m_log : μ .log) (m_ten : μ .ten) (m_cd : μ .cd) (m_cdg : μ .cdg) (m_cl : μ .cl) :
    Keeps μ σ (State.cdClampBoundary s n x) := by
  unfold State.cdClampBoundary
  repeat' first
    | with_reducible assumption
    | intro _
    | with_reducible apply Keeps.ite
    | ((fail_if_no_progress extract_lets +onlyGivenNames x); first | (refine Keeps.bind x ?_ ?_; (try subst x); rotate_left; intro hx; rotate_left) | skip)
    | with_reducible apply Keeps.cdBoundary
    | split
    | simp only [id_eq]

theorem Keeps.of_execCdClampEnd (n : ℕ) (x : CdSamples) (s : State) (hs : Keeps μ σ s) (m_space : μ .space) (m_now : μ .now) (m_campusOff : μ .campusOff) (m_log : μ .log) (m_ten : μ .ten) (m_cd : μ .cd) (m_cdg : μ .cdg) (m_cl : μ .cl) :
    KeepsO μ σ (execCdClampEnd n x s) := by
  unfold execCdClampEnd
  repeat' first
    | with_reducible assumption
    | intro _
    | with_reducible apply KeepsO.next
    | with_reducible apply Keeps.ite
    | ((fail_if_no_progress extract_lets +onlyGivenNames x); first | (refine Keeps.bind x ?_ ?_; (try subst x); rotate_left; intro hx; rotate_left) | (refine KeepsO.bind x ?_ ?_; (try subst x); rotate_left; intro hx; rotate_left) | skip)
    | with_reducible apply Keeps.cdClampBoundary
    | with_reducible apply Keeps.pdDo
    | split
    | simp only [id_eq]

theorem Keeps.cdFdTimeout (s : State) (n : ℕ) (hs : Keeps μ σ s) (m_space : μ .space) (m_now : μ .now) (m_campusOff : μ .campusOff) (m_ten : μ .ten) (m_cd : μ .cd) (m_cdg : μ .cdg) (m_cl : μ .cl) :
    Keeps μ σ (State.cdFdTimeout s n) := by
  unfold State.cdFdTimeout
  repeat' first
    | with_reducible assumption
    | intro _
    | with_reducible apply Keeps.ite
    | with_reducible apply Keeps.cdTrip
    | with_reducible apply Keeps.reach

theorem Keeps.of_execCdFdTimeout (n : ℕ) (s : State) (hs : Keeps μ σ s) (m_space : μ .space) (m_now : μ .now) (m_campusOff : μ .campusOff) (m_ten : μ .ten) (m_cd : μ .cd) (m_cdg : μ .cdg) (m_cl : μ .cl) :
    KeepsO μ σ (execCdFdTimeout n s) := by
  unfold execCdFdTimeout
  repeat' first
    | with_reducible assumption
    | intro _
    | with_reducible apply KeepsO.next
    | with_reducible apply Keeps.ite
    | ((fail_if_no_progress extract_lets +onlyGivenNames x); first | (refine Keeps.bind x ?_ ?_; (try subst x); rotate_left; intro hx; rotate_left) | (refine KeepsO.bind x ?_ ?_; (try subst x); rotate_left; intro hx; rotate_left) | skip)
    | with_reducible apply Keeps.cdFdTimeout
    | with_reducible apply Keeps.pdDo
    | split
    | simp only [id_eq]

theorem Keeps.cdSupplyChan (s : State) (n : ℕ) (hs : Keeps μ σ s) (m_space : μ .space) (m_ten : μ .ten) (m_cd : μ .cd) :
    Keeps μ σ (State.cdSupplyChan s n) := by
  unfold State.cdSupplyChan
  repeat' first
    | with_reducible assumption
    | intro _
    | with_reducible apply Keeps.ite
    | with_reducible apply Keeps.cdFastDecay
    | with_reducible apply Keeps.cdLearnEnd
    | with_reducible apply Keeps.cdMod
    | with_reducible apply Keeps.put

theorem Keeps.cdSupplyExcursion (s : State) (high : Bool) (v : ℕ) (mean : ℕ) (hs : Keeps μ σ s) (m_space : μ .space) (m_ten : μ .ten) (m_cd : μ .cd) :
    Keeps μ σ (State.cdSupplyExcursion s high v mean) := by
  unfold State.cdSupplyExcursion
  repeat' first
    | with_reducible assumption
    | intro _
    | with_reducible apply Keeps.ite
    | ((fail_if_no_progress extract_lets +onlyGivenNames x); first | (refine Keeps.bind x ?_ ?_; (try subst x); rotate_left; intro hx; rotate_left) | skip)
    | with_reducible apply Keeps.cdSupplyChan
    | with_reducible apply Keeps.each
    | with_reducible apply Keeps.inc
    | with_reducible apply Keeps.put
    | split
    | simp only [id_eq]

theorem Keeps.of_execCdSupplyExcursion (high : Bool) (v : ℕ) (mean : ℕ) (s : State) (hs : Keeps μ σ s) (m_space : μ .space) (m_ten : μ .ten) (m_cd : μ .cd) :
    KeepsO μ σ (execCdSupplyExcursion high v mean s) := by
  unfold execCdSupplyExcursion
  repeat' first
    | with_reducible assumption
    | intro _
    | with_reducible apply KeepsO.next
    | with_reducible apply Keeps.ite
    | ((fail_if_no_progress extract_lets +onlyGivenNames x); first | (refine Keeps.bind x ?_ ?_; (try subst x); rotate_left; intro hx; rotate_left) | (refine KeepsO.bind x ?_ ?_; (try subst x); rotate_left; intro hx; rotate_left) | skip)
    | with_reducible apply Keeps.cdSupplyExcursion
    | with_reducible apply Keeps.pdDo
    | split
    | simp only [id_eq]

theorem Keeps.cdSupplyRecover (s : State) (v : ℕ) (hs : Keeps μ σ s) (m_space : μ .space) (m_cd : μ .cd) :
    Keeps μ σ (State.cdSupplyRecover s v) := by
  unfold State.cdSupplyRecover
  repeat' first
    | with_reducible assumption
    | intro _
    | with_reducible apply Keeps.ite
    | ((fail_if_no_progress extract_lets +onlyGivenNames x); first | (refine Keeps.bind x ?_ ?_; (try subst x); rotate_left; intro hx; rotate_left) | skip)
    | with_reducible apply Keeps.cdMod
    | with_reducible apply Keeps.each
    | with_reducible apply Keeps.put

theorem Keeps.of_execCdSupplyRecover (v : ℕ) (s : State) (hs : Keeps μ σ s) (m_space : μ .space) (m_cd : μ .cd) :
    KeepsO μ σ (execCdSupplyRecover v s) := by
  unfold execCdSupplyRecover
  repeat' first
    | with_reducible assumption
    | intro _
    | with_reducible apply KeepsO.next
    | with_reducible apply Keeps.ite
    | ((fail_if_no_progress extract_lets +onlyGivenNames x); first | (refine Keeps.bind x ?_ ?_; (try subst x); rotate_left; intro hx; rotate_left) | (refine KeepsO.bind x ?_ ?_; (try subst x); rotate_left; intro hx; rotate_left) | skip)
    | with_reducible apply Keeps.cdSupplyRecover
    | with_reducible apply Keeps.pdDo
    | split
    | simp only [id_eq]

theorem Keeps.cdFaultGone (s : State) (n : ℕ) (hs : Keeps μ σ s) (m_space : μ .space) (m_ten : μ .ten) (m_cd : μ .cd) :
    Keeps μ σ (State.cdFaultGone s n) := by
  unfold State.cdFaultGone
  repeat' first
    | with_reducible assumption
    | intro _
    | with_reducible apply Keeps.ite
    | with_reducible apply Keeps.cdEnterIdle
    | with_reducible apply Keeps.cdGo
    | with_reducible apply Keeps.cdMod
    | with_reducible apply Keeps.cdSafeEntry

theorem Keeps.pdGate (s : State) (w : Who) (a : ℕ) (data : Word) (f : State → State) (hs : Keeps μ σ s) (hf : ∀ a0, Keeps μ σ a0 → Keeps μ σ (f a0)) (m_space : μ .space) (m_wres : μ .wres) (m_log : μ .log) (m_ten : μ .ten) :
    Keeps μ σ (State.pdGate s w a data f) := by
  unfold State.pdGate
  repeat' first
    | with_reducible assumption
    | intro _
    | with_reducible apply Keeps.ite
    | with_reducible apply hf
    | with_reducible apply Keeps.dropWrite
    | with_reducible apply Keeps.refuseWrite

theorem Keeps.cdFltWrite (s : State) (w : Who) (n : ℕ) (data : Word) (hs : Keeps μ σ s) (m_space : μ .space) (m_wres : μ .wres) (m_log : μ .log) (m_ten : μ .ten) (m_cd : μ .cd) :
    Keeps μ σ (State.cdFltWrite s w n data) := by
  unfold State.cdFltWrite
  repeat' first
    | with_reducible assumption
    | intro _
    | with_reducible apply Keeps.ite
    | ((fail_if_no_progress extract_lets +onlyGivenNames x); first | (refine Keeps.bind x ?_ ?_; (try subst x); rotate_left; intro hx; rotate_left) | skip)
    | with_reducible apply Keeps.cdFaultGone
    | with_reducible apply Keeps.cdMod
    | with_reducible apply Keeps.clearWrite
    | with_reducible apply Keeps.pdGate

theorem Keeps.of_execCdFaultClear (p : Path) (n : ℕ) (data : Word) (s : State) (hs : Keeps μ σ s) (m_space : μ .space) (m_rdata : μ .rdata) (m_wres : μ .wres) (m_banks : μ .banks) (m_log : μ .log) (m_ten : μ .ten) (m_cd : μ .cd) :
    KeepsO μ σ (execCdFaultClear p n data s) := by
  unfold execCdFaultClear
  repeat' first
    | with_reducible assumption
    | intro _
    | with_reducible apply KeepsO.next
    | with_reducible apply Keeps.ite
    | with_reducible apply Keeps.byPath
    | with_reducible apply Keeps.cdFltWrite

theorem Keeps.cdPart (s : State) (k : ℕ) (hs : Keeps μ σ s) (m_space : μ .space) (m_ten : μ .ten) (m_safe : μ .safe) (m_cd : μ .cd) :
    Keeps μ σ (State.cdPart s k) := by
  unfold State.cdPart
  repeat' first
    | with_reducible assumption
    | intro _
    | with_reducible apply Keeps.ite
    | ((fail_if_no_progress extract_lets +onlyGivenNames x); first | (refine Keeps.bind x ?_ ?_; (try subst x); rotate_left; intro hx; rotate_left) | skip)
    | with_reducible apply Keeps.cdGo
    | with_reducible apply Keeps.cdMod
    | with_reducible apply Keeps.cdSafeEntry
    | with_reducible apply Keeps.setSafe
    | split
    | simp only [id_eq]

theorem Keeps.cdCfgWrite (s : State) (w : Who) (n : ℕ) (data : Word) (hs : Keeps μ σ s) (m_space : μ .space) (m_wres : μ .wres) (m_log : μ .log) (m_ten : μ .ten) (m_safe : μ .safe) (m_cd : μ .cd) :
    Keeps μ σ (State.cdCfgWrite s w n data) := by
  unfold State.cdCfgWrite
  repeat' first
    | with_reducible assumption
    | intro _
    | with_reducible apply Keeps.ite
    | with_reducible apply Keeps.cdMod
    | with_reducible apply Keeps.cdPart
    | with_reducible apply Keeps.cfgWrite
    | with_reducible apply Keeps.pdGate

theorem Keeps.of_execCdCfgWrite (p : Path) (n : ℕ) (data : Word) (s : State) (hs : Keeps μ σ s) (m_space : μ .space) (m_rdata : μ .rdata) (m_wres : μ .wres) (m_banks : μ .banks) (m_log : μ .log) (m_ten : μ .ten) (m_safe : μ .safe) (m_cd : μ .cd) :
    KeepsO μ σ (execCdCfgWrite p n data s) := by
  unfold execCdCfgWrite
  repeat' first
    | with_reducible assumption
    | intro _
    | with_reducible apply KeepsO.next
    | with_reducible apply Keeps.ite
    | with_reducible apply Keeps.byPath
    | with_reducible apply Keeps.cdCfgWrite

theorem Keeps.cdPairRst (s : State) (k : ℕ) (hs : Keeps μ σ s) (m_space : μ .space) (m_ten : μ .ten) (m_cd : μ .cd) :
    Keeps μ σ (State.cdPairRst s k) := by
  unfold State.cdPairRst
  repeat' first
    | with_reducible assumption
    | intro _
    | with_reducible apply Keeps.ite
    | with_reducible apply Keeps.cdFastDecay
    | with_reducible apply Keeps.cdLearnEnd
    | with_reducible apply Keeps.cdMod
    | with_reducible apply Keeps.each

theorem Keeps.cdRstDone (s : State) (n : ℕ) (hs : Keeps μ σ s) (m_space : μ .space) (m_ten : μ .ten) (m_cd : μ .cd) :
    Keeps μ σ (State.cdRstDone s n) := by
  unfold State.cdRstDone
  repeat' first
    | with_reducible assumption
    | intro _
    | with_reducible apply Keeps.ite
    | with_reducible apply Keeps.foldl
    | with_reducible apply Keeps.cdEnterIdle
    | with_reducible apply Keeps.cdGo
    | with_reducible apply Keeps.cdMod
    | with_reducible apply Keeps.cdSafeEntry
    | with_reducible apply Keeps.put
    | with_reducible apply Keeps.setCd
    | with_reducible apply Keeps.setWord

theorem Keeps.cdPairRstDone (s : State) (k : ℕ) (hs : Keeps μ σ s) (m_space : μ .space) (m_ten : μ .ten) (m_cd : μ .cd) :
    Keeps μ σ (State.cdPairRstDone s k) := by
  unfold State.cdPairRstDone
  repeat' first
    | with_reducible assumption
    | intro _
    | with_reducible apply Keeps.ite
    | with_reducible apply Keeps.cdRstDone
    | with_reducible apply Keeps.each

theorem Keeps.cdRegWrite (s : State) (w : Who) (a : ℕ) (data : Word) (hs : Keeps μ σ s) (m_space : μ .space) (m_wres : μ .wres) (m_log : μ .log) (m_ten : μ .ten) :
    Keeps μ σ (State.cdRegWrite s w a data) := by
  unfold State.cdRegWrite
  repeat' first
    | with_reducible assumption
    | intro _
    | with_reducible apply Keeps.ite
    | ((fail_if_no_progress extract_lets +onlyGivenNames x); first | (refine Keeps.bind x ?_ ?_; (try subst x); rotate_left; intro hx; rotate_left) | skip)
    | with_reducible apply Keeps.cdHoldChange
    | with_reducible apply Keeps.cfgWrite
    | with_reducible apply Keeps.clearWrite
    | with_reducible apply Keeps.flagWrite
    | with_reducible apply Keeps.pdGate
    | with_reducible apply Keeps.plainW
    | with_reducible apply Keeps.put
    | split
    | simp only [id_eq]

theorem Keeps.cdFlushErrs (s : State) (hs : Keeps μ σ s) (m_space : μ .space) (m_ten : μ .ten) (m_cdg : μ .cdg) :
    Keeps μ σ (State.cdFlushErrs s) := by
  unfold State.cdFlushErrs
  repeat' first
    | with_reducible assumption
    | intro _
    | with_reducible apply Keeps.ite
    | ((fail_if_no_progress extract_lets +onlyGivenNames x); first | (refine Keeps.bind x ?_ ?_; (try subst x); rotate_left; intro hx; rotate_left) | skip)
    | with_reducible apply Keeps.each
    | with_reducible apply Keeps.postErr2
    | simp only [Keeps.upd_cdg m_cdg]

end Sys2Proof.Machine
end

