-- ==== Sys2Proof/Laws/KeepsFans.lean ====
section
/-! SUPPORT. What each operation of Machine/Fans.lean keeps: the queue, the clock's direction, the canonical form of the register
space, and every part of the state it does not name (`Keeps`). -/

set_option linter.unusedTactic false
set_option linter.unreachableTactic false
set_option linter.unusedSimpArgs false
set_option linter.unusedVariables false

namespace Sys2Proof.Machine

variable {μ : Part → Prop} {σ : State}

theorem Keeps.setFan (s : State) (n : ℕ) (c : FanChan) (hs : Keeps μ σ s) (m_fan : μ .fan) :
    Keeps μ σ (State.setFan s n c) := by
  unfold State.setFan
  repeat' first
    | with_reducible assumption
    | intro _
    | with_reducible apply Keeps.ite
    | ((fail_if_no_progress extract_lets +onlyGivenNames x); first | (refine Keeps.bind x ?_ ?_; (try subst x); rotate_left; intro hx; rotate_left) | skip)
    | simp only [Keeps.upd_fan m_fan]

theorem Keeps.setFanGrp (s : State) (g : ℕ) (x : FanGroup) (hs : Keeps μ σ s) (m_fan : μ .fan) :
    Keeps μ σ (State.setFanGrp s g x) := by
  unfold State.setFanGrp
  repeat' first
    | with_reducible assumption
    | intro _
    | with_reducible apply Keeps.ite
    | ((fail_if_no_progress extract_lets +onlyGivenNames x); first | (refine Keeps.bind x ?_ ?_; (try subst x); rotate_left; intro hx; rotate_left) | skip)
    | simp only [Keeps.upd_fan m_fan]

theorem Keeps.fanSync (s : State) (g : ℕ) (hs : Keeps μ σ s) (m_fan : μ .fan) :
    Keeps μ σ (State.fanSync s g) := by
  unfold State.fanSync
  repeat' first
    | with_reducible assumption
    | intro _
    | with_reducible apply Keeps.ite
    | ((fail_if_no_progress extract_lets +onlyGivenNames x); first | (refine Keeps.bind x ?_ ?_; (try subst x); rotate_left; intro hx; rotate_left) | skip)
    | with_reducible apply Keeps.each
    | with_reducible apply Keeps.setFan
    | with_reducible apply Keeps.setFanGrp
    | split
    | simp only [id_eq]

theorem Keeps.fanTrigger (s : State) (g : ℕ) (hs : Keeps μ σ s) (m_space : μ .space) (m_now : μ .now) (m_campusOff : μ .campusOff) (m_cl : μ .cl) (m_adc : μ .adc) (m_fan : μ .fan) :
    Keeps μ σ (State.fanTrigger s g) := by
  unfold State.fanTrigger
  repeat' first
    | with_reducible assumption
    | intro _
    | with_reducible apply Keeps.ite
    | ((fail_if_no_progress extract_lets +onlyGivenNames x); first | (refine Keeps.bind x ?_ ?_; (try subst x); rotate_left; intro hx; rotate_left) | skip)
    | with_reducible apply Keeps.adcTrigger
    | with_reducible apply Keeps.fanSync
    | with_reducible apply Keeps.reach
    | with_reducible apply Keeps.setFanGrp
    | split
    | simp only [id_eq]

theorem Keeps.fanTrigStart (s : State) (g : ℕ) (hs : Keeps μ σ s) (m_fan : μ .fan) :
    Keeps μ σ (State.fanTrigStart s g) := by
  unfold State.fanTrigStart
  repeat' first
    | with_reducible assumption
    | intro _
    | with_reducible apply Keeps.ite
    | ((fail_if_no_progress extract_lets +onlyGivenNames x); first | (refine Keeps.bind x ?_ ?_; (try subst x); rotate_left; intro hx; rotate_left) | skip)
    | with_reducible apply Keeps.fanSync
    | with_reducible apply Keeps.setFanGrp
    | split
    | simp only [id_eq]

theorem Keeps.of_execFanGroupTrigger (g : Fin 4) (s : State) (hs : Keeps μ σ s) (m_space : μ .space) (m_now : μ .now) (m_campusOff : μ .campusOff) (m_cl : μ .cl) (m_adc : μ .adc) (m_fan : μ .fan) :
    KeepsO μ σ (execFanGroupTrigger g s) := by
  unfold execFanGroupTrigger
  repeat' first
    | with_reducible assumption
    | intro _
    | with_reducible apply KeepsO.next
    | with_reducible apply Keeps.ite
    | ((fail_if_no_progress extract_lets +onlyGivenNames x); first | (refine Keeps.bind x ?_ ?_; (try subst x); rotate_left; intro hx; rotate_left) | (refine KeepsO.bind x ?_ ?_; (try subst x); rotate_left; intro hx; rotate_left) | skip)
    | with_reducible apply Keeps.fanTrigger
    | with_reducible apply Keeps.pdDo
    | split
    | simp only [id_eq]

theorem Keeps.fanPeriod (s : State) (n : ℕ) (p : ℕ) (hs : Keeps μ σ s) (m_space : μ .space) :
    Keeps μ σ (State.fanPeriod s n p) := by
  unfold State.fanPeriod
  repeat' first
    | with_reducible assumption
    | intro _
    | with_reducible apply Keeps.ite
    | ((fail_if_no_progress extract_lets +onlyGivenNames x); first | (refine Keeps.bind x ?_ ?_; (try subst x); rotate_left; intro hx; rotate_left) | skip)
    | with_reducible apply Keeps.put

theorem Keeps.fanTachEdge (s : State) (n : ℕ) (after : ℕ) (hs : Keeps μ σ s) (m_space : μ .space) (m_now : μ .now) (m_campusOff : μ .campusOff) (m_cl : μ .cl) (m_fan : μ .fan) :
    Keeps μ σ (State.fanTachEdge s n after) := by
  unfold State.fanTachEdge
  repeat' first
    | with_reducible assumption
    | intro _
    | with_reducible apply Keeps.ite
    | ((fail_if_no_progress extract_lets +onlyGivenNames x); first | (refine Keeps.bind x ?_ ?_; (try subst x); rotate_left; intro hx; rotate_left) | skip)
    | with_reducible apply Keeps.fanPeriod
    | with_reducible apply Keeps.reach
    | with_reducible apply Keeps.setFan
    | split

theorem Keeps.of_execFanTachEdge (n : Fin 32) (after : ℕ) (s : State) (hs : Keeps μ σ s) (m_space : μ .space) (m_now : μ .now) (m_campusOff : μ .campusOff) (m_cl : μ .cl) (m_fan : μ .fan) :
    KeepsO μ σ (execFanTachEdge n after s) := by
  unfold execFanTachEdge
  repeat' first
    | with_reducible assumption
    | intro _
    | with_reducible apply KeepsO.next
    | with_reducible apply Keeps.ite
    | ((fail_if_no_progress extract_lets +onlyGivenNames x); first | (refine Keeps.bind x ?_ ?_; (try subst x); rotate_left; intro hx; rotate_left) | (refine KeepsO.bind x ?_ ?_; (try subst x); rotate_left; intro hx; rotate_left) | skip)
    | with_reducible apply Keeps.fanTachEdge
    | with_reducible apply Keeps.pdDo
    | split
    | simp only [id_eq]

theorem Keeps.fanTachTimeout (s : State) (n : ℕ) (hs : Keeps μ σ s) (m_space : μ .space) (m_now : μ .now) (m_campusOff : μ .campusOff) (m_cl : μ .cl) (m_fan : μ .fan) :
    Keeps μ σ (State.fanTachTimeout s n) := by
  unfold State.fanTachTimeout
  repeat' first
    | with_reducible assumption
    | intro _
    | with_reducible apply Keeps.ite
    | ((fail_if_no_progress extract_lets +onlyGivenNames x); first | (refine Keeps.bind x ?_ ?_; (try subst x); rotate_left; intro hx; rotate_left) | skip)
    | with_reducible apply Keeps.fanPeriod
    | with_reducible apply Keeps.reach
    | with_reducible apply Keeps.setFan
    | split

theorem Keeps.of_execFanTachTimeout (n : Fin 32) (s : State) (hs : Keeps μ σ s) (m_space : μ .space) (m_now : μ .now) (m_campusOff : μ .campusOff) (m_cl : μ .cl) (m_fan : μ .fan) :
    KeepsO μ σ (execFanTachTimeout n s) := by
  unfold execFanTachTimeout
  repeat' first
    | with_reducible assumption
    | intro _
    | with_reducible apply KeepsO.next
    | with_reducible apply Keeps.ite
    | ((fail_if_no_progress extract_lets +onlyGivenNames x); first | (refine Keeps.bind x ?_ ?_; (try subst x); rotate_left; intro hx; rotate_left) | (refine KeepsO.bind x ?_ ?_; (try subst x); rotate_left; intro hx; rotate_left) | skip)
    | with_reducible apply Keeps.fanTachTimeout
    | with_reducible apply Keeps.pdDo
    | split
    | simp only [id_eq]

theorem Keeps.fanCommand (s : State) (n : ℕ) (hs : Keeps μ σ s) (m_cmds : μ .cmds) (m_fwd : μ .fwd) (m_clk : μ .clk) :
    Keeps μ σ (State.fanCommand s n) := by
  unfold State.fanCommand
  repeat' first
    | with_reducible assumption
    | intro _
    | with_reducible apply Keeps.ite
    | ((fail_if_no_progress extract_lets +onlyGivenNames x); first | (refine Keeps.bind x ?_ ?_; (try subst x); rotate_left; intro hx; rotate_left) | skip)
    | with_reducible apply Keeps.fwdTake
    | with_reducible apply Keeps.setCmd
    | with_reducible apply Keeps.of_fst (by assumption)
    | with_reducible apply Keeps.of_snd (by assumption)
    | split
    | simp only [id_eq]

theorem Keeps.of_execFanCommand (n : Fin 32) (s : State) (hs : Keeps μ σ s) (m_cmds : μ .cmds) (m_fwd : μ .fwd) (m_clk : μ .clk) :
    KeepsO μ σ (execFanCommand n s) := by
  unfold execFanCommand
  repeat' first
    | with_reducible assumption
    | intro _
    | with_reducible apply KeepsO.next
    | with_reducible apply Keeps.ite
    | ((fail_if_no_progress extract_lets +onlyGivenNames x); first | (refine Keeps.bind x ?_ ?_; (try subst x); rotate_left; intro hx; rotate_left) | (refine KeepsO.bind x ?_ ?_; (try subst x); rotate_left; intro hx; rotate_left) | skip)
    | with_reducible apply Keeps.fanCommand
    | with_reducible apply Keeps.pdDo
    | split
    | simp only [id_eq]

theorem Keeps.fanQual (s : State) (n : ℕ) (q : ℕ) (hs : Keeps μ σ s) (m_fan : μ .fan) :
    Keeps μ σ (State.fanQual s n q) := by
  unfold State.fanQual
  repeat' first
    | with_reducible assumption
    | intro _
    | with_reducible apply Keeps.ite
    | ((fail_if_no_progress extract_lets +onlyGivenNames x); first | (refine Keeps.bind x ?_ ?_; (try subst x); rotate_left; intro hx; rotate_left) | skip)
    | with_reducible apply Keeps.setFan

theorem Keeps.fanQualChange (s : State) (n : ℕ) (hs : Keeps μ σ s) (m_fwd : μ .fwd) (m_fan : μ .fan) (m_clk : μ .clk) :
    Keeps μ σ (State.fanQualChange s n) := by
  unfold State.fanQualChange
  repeat' first
    | with_reducible assumption
    | intro _
    | with_reducible apply Keeps.ite
    | ((fail_if_no_progress extract_lets +onlyGivenNames x); first | (refine Keeps.bind x ?_ ?_; (try subst x); rotate_left; intro hx; rotate_left) | skip)
    | with_reducible apply Keeps.fanQual
    | with_reducible apply Keeps.fwdTake
    | with_reducible apply Keeps.of_fst (by assumption)
    | with_reducible apply Keeps.of_snd (by assumption)
    | split
    | simp only [id_eq]

theorem Keeps.of_execFanQualChange (n : Fin 32) (s : State) (hs : Keeps μ σ s) (m_fwd : μ .fwd) (m_fan : μ .fan) (m_clk : μ .clk) :
    KeepsO μ σ (execFanQualChange n s) := by
  unfold execFanQualChange
  repeat' first
    | with_reducible assumption
    | intro _
    | with_reducible apply KeepsO.next
    | with_reducible apply Keeps.ite
    | ((fail_if_no_progress extract_lets +onlyGivenNames x); first | (refine Keeps.bind x ?_ ?_; (try subst x); rotate_left; intro hx; rotate_left) | (refine KeepsO.bind x ?_ ?_; (try subst x); rotate_left; intro hx; rotate_left) | skip)
    | with_reducible apply Keeps.fanQualChange
    | with_reducible apply Keeps.pdDo
    | split
    | simp only [id_eq]

theorem Keeps.fanBurrow (s : State) (n : ℕ) (hs : Keeps μ σ s) (m_fan : μ .fan) :
    Keeps μ σ (State.fanBurrow s n).2 := by
  unfold State.fanBurrow
  repeat' first
    | with_reducible assumption
    | intro _
    | with_reducible apply Keeps.ite
    | ((fail_if_no_progress extract_lets +onlyGivenNames x); first | (refine Keeps.bind x ?_ ?_; (try subst x); rotate_left; intro hx; rotate_left) | skip)
    | with_reducible apply Keeps.setFan
    | split

theorem Keeps.fanWatch (s : State) (g : ℕ) (cause : ℕ) (test : ℕ) (hs : Keeps μ σ s) (m_space : μ .space) (m_fan : μ .fan) :
    Keeps μ σ (State.fanWatch s g cause test) := by
  unfold State.fanWatch
  repeat' first
    | with_reducible assumption
    | intro _
    | with_reducible apply Keeps.ite
    | ((fail_if_no_progress extract_lets +onlyGivenNames x); first | (refine Keeps.bind x ?_ ?_; (try subst x); rotate_left; intro hx; rotate_left) | skip)
    | with_reducible apply Keeps.put
    | with_reducible apply Keeps.setFanGrp

theorem Keeps.fanWatchEnd (s : State) (g : ℕ) (hs : Keeps μ σ s) (m_space : μ .space) (m_fan : μ .fan) :
    Keeps μ σ (State.fanWatchEnd s g) := by
  unfold State.fanWatchEnd
  repeat' first
    | with_reducible assumption
    | intro _
    | with_reducible apply Keeps.ite
    | ((fail_if_no_progress extract_lets +onlyGivenNames x); first | (refine Keeps.bind x ?_ ?_; (try subst x); rotate_left; intro hx; rotate_left) | skip)
    | with_reducible apply Keeps.put
    | with_reducible apply Keeps.setFanGrp
    | split

theorem Keeps.of_execFanWatchEnd (g : Fin 4) (s : State) (hs : Keeps μ σ s) (m_space : μ .space) (m_now : μ .now) (m_campusOff : μ .campusOff) (m_cl : μ .cl) (m_fan : μ .fan) :
    KeepsO μ σ (execFanWatchEnd g s) := by
  unfold execFanWatchEnd
  repeat' first
    | with_reducible assumption
    | intro _
    | with_reducible apply KeepsO.next
    | with_reducible apply Keeps.ite
    | with_reducible apply Keeps.fanWatchEnd
    | with_reducible apply Keeps.reach
    | split

theorem Keeps.fanLatch (s : State) (n : ℕ) (f : Fld) (hs : Keeps μ σ s) (m_space : μ .space) (m_ten : μ .ten) (m_fan : μ .fan) (m_pdErrs : μ .pdErrs) :
    Keeps μ σ (State.fanLatch s n f) := by
  unfold State.fanLatch
  repeat' first
    | with_reducible assumption
    | intro _
    | with_reducible apply Keeps.ite
    | ((fail_if_no_progress extract_lets +onlyGivenNames x); first | (refine Keeps.bind x ?_ ?_; (try subst x); rotate_left; intro hx; rotate_left) | skip)
    | with_reducible apply Keeps.inc
    | with_reducible apply Keeps.pdErr
    | with_reducible apply Keeps.put
    | with_reducible apply Keeps.setFanGrp

theorem Keeps.fanFailoverEnd (s : State) (g : ℕ) (hs : Keeps μ σ s) (m_space : μ .space) :
    Keeps μ σ (State.fanFailoverEnd s g) := by
  unfold State.fanFailoverEnd
  repeat' first
    | with_reducible assumption
    | intro _
    | with_reducible apply Keeps.ite
    | with_reducible apply Keeps.put

theorem Keeps.fanTestEnd (s : State) (g : ℕ) (hs : Keeps μ σ s) (m_space : μ .space) (m_log : μ .log) (m_ten : μ .ten) (m_fan : μ .fan) :
    Keeps μ σ (State.fanTestEnd s g) := by
  unfold State.fanTestEnd
  repeat' first
    | with_reducible assumption
    | intro _
    | with_reducible apply Keeps.ite
    | ((fail_if_no_progress extract_lets +onlyGivenNames x); first | (refine Keeps.bind x ?_ ?_; (try subst x); rotate_left; intro hx; rotate_left) | skip)
    | with_reducible apply Keeps.auditEvent
    | with_reducible apply Keeps.put
    | with_reducible apply Keeps.setFanGrp
    | split
    | simp only [id_eq]

theorem Keeps.of_execFanTestEnd (g : Fin 4) (s : State) (hs : Keeps μ σ s) (m_space : μ .space) (m_now : μ .now) (m_campusOff : μ .campusOff) (m_log : μ .log) (m_ten : μ .ten) (m_cl : μ .cl) (m_fan : μ .fan) :
    KeepsO μ σ (execFanTestEnd g s) := by
  unfold execFanTestEnd
  repeat' first
    | with_reducible assumption
    | intro _
    | with_reducible apply KeepsO.next
    | with_reducible apply Keeps.ite
    | ((fail_if_no_progress extract_lets +onlyGivenNames x); first | (refine Keeps.bind x ?_ ?_; (try subst x); rotate_left; intro hx; rotate_left) | (refine KeepsO.bind x ?_ ?_; (try subst x); rotate_left; intro hx; rotate_left) | skip)
    | with_reducible apply Keeps.fanTestEnd
    | with_reducible apply Keeps.reach
    | split
    | simp only [id_eq]

theorem Keeps.fanTestWrite (s : State) (w : Who) (g : ℕ) (data : Word) (hs : Keeps μ σ s) (m_space : μ .space) (m_wres : μ .wres) (m_log : μ .log) (m_ten : μ .ten) (m_fan : μ .fan) :
    Keeps μ σ (State.fanTestWrite s w g data) := by
  unfold State.fanTestWrite
  repeat' first
    | with_reducible assumption
    | intro _
    | with_reducible apply Keeps.ite
    | ((fail_if_no_progress extract_lets +onlyGivenNames x); first | (refine Keeps.bind x ?_ ?_; (try subst x); rotate_left; intro hx; rotate_left) | skip)
    | with_reducible apply Keeps.dropWrite
    | with_reducible apply Keeps.fanWatch
    | with_reducible apply Keeps.plainW
    | with_reducible apply Keeps.refuseWrite
    | with_reducible apply Keeps.setFanGrp
    | split
    | simp only [id_eq]

theorem Keeps.of_execFanGroupTest (p : Path) (g : Fin 4) (data : Word) (s : State) (hs : Keeps μ σ s) (m_space : μ .space) (m_rdata : μ .rdata) (m_wres : μ .wres) (m_banks : μ .banks) (m_log : μ .log) (m_ten : μ .ten) (m_fan : μ .fan) :
    KeepsO μ σ (execFanGroupTest p g data s) := by
  unfold execFanGroupTest
  repeat' first
    | with_reducible assumption
    | intro _
    | with_reducible apply KeepsO.next
    | with_reducible apply Keeps.ite
    | with_reducible apply Keeps.byPath
    | with_reducible apply Keeps.fanTestWrite

theorem Keeps.fanTarget (s : State) (n : ℕ) (hs : Keeps μ σ s) (m_fan : μ .fan) :
    Keeps μ σ (State.fanTarget s n).2.2.2 := by
  unfold State.fanTarget
  repeat' first
    | with_reducible assumption
    | intro _
    | with_reducible apply Keeps.ite
    | ((fail_if_no_progress extract_lets +onlyGivenNames x); first | (refine Keeps.bind x ?_ ?_; (try subst x); rotate_left; intro hx; rotate_left) | skip)
    | with_reducible apply Keeps.of_snd (by assumption)
    | with_reducible apply Keeps.fanBurrow
    | with_reducible apply Keeps.setFan
    | split

theorem Keeps.fanGo (s : State) (n : ℕ) (st : ℕ) (duty : ℕ) (hs : Keeps μ σ s) (m_space : μ .space) :
    Keeps μ σ (State.fanGo s n st duty) := by
  unfold State.fanGo
  repeat' first
    | with_reducible assumption
    | intro _
    | with_reducible apply Keeps.ite
    | with_reducible apply Keeps.put

theorem Keeps.fanRun (s : State) (n : ℕ) (duty : ℕ) (hs : Keeps μ σ s) (m_space : μ .space) (m_fan : μ .fan) :
    Keeps μ σ (State.fanRun s n duty) := by
  unfold State.fanRun
  repeat' first
    | with_reducible assumption
    | intro _
    | with_reducible apply Keeps.ite
    | ((fail_if_no_progress extract_lets +onlyGivenNames x); first | (refine Keeps.bind x ?_ ?_; (try subst x); rotate_left; intro hx; rotate_left) | skip)
    | with_reducible apply Keeps.fanGo
    | with_reducible apply Keeps.setFan

theorem Keeps.fanWrites (s : State) (n : ℕ) (hs : Keeps μ σ s) (m_space : μ .space) (m_fan : μ .fan) :
    Keeps μ σ (State.fanWrites s n) := by
  unfold State.fanWrites
  repeat' first
    | with_reducible assumption
    | intro _
    | with_reducible apply Keeps.ite
    | ((fail_if_no_progress extract_lets +onlyGivenNames x); first | (refine Keeps.bind x ?_ ?_; (try subst x); rotate_left; intro hx; rotate_left) | skip)
    | with_reducible apply Keeps.fanGo
    | with_reducible apply Keeps.setFan
    | split
    | simp only [id_eq]

theorem Keeps.fanTimers (s : State) (n : ℕ) (hs : Keeps μ σ s) (m_space : μ .space) (m_ten : μ .ten) (m_fan : μ .fan) (m_pdErrs : μ .pdErrs) :
    Keeps μ σ (State.fanTimers s n) := by
  unfold State.fanTimers
  repeat' first
    | with_reducible assumption
    | intro _
    | with_reducible apply Keeps.ite
    | ((fail_if_no_progress extract_lets +onlyGivenNames x); first | (refine Keeps.bind x ?_ ?_; (try subst x); rotate_left; intro hx; rotate_left) | skip)
    | with_reducible apply Keeps.fanGo
    | with_reducible apply Keeps.fanLatch
    | with_reducible apply Keeps.fanWrites
    | with_reducible apply Keeps.setFan
    | split
    | simp only [id_eq]

theorem Keeps.fanMove (s : State) (n : ℕ) (target : ℕ) (hs : Keeps μ σ s) (m_space : μ .space) (m_fan : μ .fan) :
    Keeps μ σ (State.fanMove s n target) := by
  unfold State.fanMove
  repeat' first
    | with_reducible assumption
    | intro _
    | with_reducible apply Keeps.ite
    | ((fail_if_no_progress extract_lets +onlyGivenNames x); first | (refine Keeps.bind x ?_ ?_; (try subst x); rotate_left; intro hx; rotate_left) | skip)
    | with_reducible apply Keeps.fanGo
    | with_reducible apply Keeps.fanRun
    | with_reducible apply Keeps.inc
    | with_reducible apply Keeps.put
    | with_reducible apply Keeps.setFan

theorem Keeps.fanResolve (s : State) (n : ℕ) (hs : Keeps μ σ s) (m_space : μ .space) (m_log : μ .log) (m_ten : μ .ten) (m_fan : μ .fan) :
    Keeps μ σ (State.fanResolve s n) := by
  unfold State.fanResolve
  repeat' first
    | with_reducible assumption
    | intro _
    | with_reducible apply Keeps.ite
    | ((fail_if_no_progress extract_lets +onlyGivenNames x); first | (refine Keeps.bind x ?_ ?_; (try subst x); rotate_left; intro hx; rotate_left) | skip)
    | with_reducible apply Keeps.auditEvent
    | with_reducible apply Keeps.fanMove
    | with_reducible apply Keeps.fanTarget
    | with_reducible apply Keeps.put
    | with_reducible apply Keeps.of_fst (by assumption)
    | with_reducible apply Keeps.of_snd (by assumption)
    | split
    | simp only [id_eq]

theorem Keeps.fanReleases (s : State) (g : ℕ) (hs : Keeps μ σ s) (m_space : μ .space) (m_fan : μ .fan) :
    Keeps μ σ (State.fanReleases s g) := by
  unfold State.fanReleases
  repeat' first
    | with_reducible assumption
    | intro _
    | with_reducible apply Keeps.ite
    | ((fail_if_no_progress extract_lets +onlyGivenNames x); first | (refine Keeps.bind x ?_ ?_; (try subst x); rotate_left; intro hx; rotate_left) | skip)
    | with_reducible apply Keeps.each
    | with_reducible apply Keeps.fanWatch
    | with_reducible apply Keeps.setFan
    | with_reducible apply Keeps.setFanGrp

theorem Keeps.fanEvalOf (s : State) (ns : List ℕ) (hs : Keeps μ σ s) (m_space : μ .space) (m_log : μ .log) (m_ten : μ .ten) (m_fan : μ .fan) (m_pdErrs : μ .pdErrs) :
    Keeps μ σ (State.fanEvalOf s ns) := by
  unfold State.fanEvalOf
  repeat' first
    | with_reducible assumption
    | intro _
    | with_reducible apply Keeps.ite
    | ((fail_if_no_progress extract_lets +onlyGivenNames x); first | (refine Keeps.bind x ?_ ?_; (try subst x); rotate_left; intro hx; rotate_left) | skip)
    | with_reducible apply Keeps.each
    | with_reducible apply Keeps.fanFailoverEnd
    | with_reducible apply Keeps.fanReleases
    | with_reducible apply Keeps.fanResolve
    | with_reducible apply Keeps.fanSync
    | with_reducible apply Keeps.fanTestEnd
    | with_reducible apply Keeps.fanTimers
    | with_reducible apply Keeps.fanWatchEnd
    | split
    | simp only [id_eq]

theorem Keeps.fanEval (s : State) (hs : Keeps μ σ s) (m_space : μ .space) (m_now : μ .now) (m_campusOff : μ .campusOff) (m_log : μ .log) (m_ten : μ .ten) (m_cl : μ .cl) (m_fan : μ .fan) (m_pdErrs : μ .pdErrs) :
    Keeps μ σ (State.fanEval s) := by
  unfold State.fanEval
  repeat' first
    | with_reducible assumption
    | intro _
    | with_reducible apply Keeps.ite
    | ((fail_if_no_progress extract_lets +onlyGivenNames x); first | (refine Keeps.bind x ?_ ?_; (try subst x); rotate_left; intro hx; rotate_left) | skip)
    | with_reducible apply Keeps.fanEvalOf
    | with_reducible apply Keeps.reach
    | simp only [Keeps.upd_fan m_fan]

theorem Keeps.of_execFanEval (s : State) (hs : Keeps μ σ s) (m_space : μ .space) (m_now : μ .now) (m_campusOff : μ .campusOff) (m_log : μ .log) (m_ten : μ .ten) (m_cl : μ .cl) (m_fan : μ .fan) (m_pdErrs : μ .pdErrs) :
    KeepsO μ σ (execFanEval s) := by
  unfold execFanEval
  repeat' first
    | with_reducible assumption
    | intro _
    | with_reducible apply KeepsO.next
    | with_reducible apply Keeps.ite
    | ((fail_if_no_progress extract_lets +onlyGivenNames x); first | (refine Keeps.bind x ?_ ?_; (try subst x); rotate_left; intro hx; rotate_left) | (refine KeepsO.bind x ?_ ?_; (try subst x); rotate_left; intro hx; rotate_left) | skip)
    | with_reducible apply Keeps.fanEval
    | with_reducible apply Keeps.pdDo
    | split
    | simp only [id_eq]

theorem Keeps.of_execFanKickTimeout (n : Fin 32) (s : State) (hs : Keeps μ σ s) (m_space : μ .space) (m_now : μ .now) (m_campusOff : μ .campusOff) (m_log : μ .log) (m_ten : μ .ten) (m_cl : μ .cl) (m_fan : μ .fan) (m_pdErrs : μ .pdErrs) :
    KeepsO μ σ (execFanKickTimeout n s) := by
  unfold execFanKickTimeout
  repeat' first
    | with_reducible assumption
    | intro _
    | with_reducible apply KeepsO.next
    | with_reducible apply Keeps.ite
    | with_reducible apply Keeps.fanEvalOf
    | with_reducible apply Keeps.reach
    | split

theorem Keeps.of_execFanTachFault (n : Fin 32) (s : State) (hs : Keeps μ σ s) (m_space : μ .space) (m_now : μ .now) (m_campusOff : μ .campusOff) (m_log : μ .log) (m_ten : μ .ten) (m_cl : μ .cl) (m_fan : μ .fan) (m_pdErrs : μ .pdErrs) :
    KeepsO μ σ (execFanTachFault n s) := by
  unfold execFanTachFault
  repeat' first
    | with_reducible assumption
    | intro _
    | with_reducible apply KeepsO.next
    | with_reducible apply Keeps.ite
    | with_reducible apply Keeps.fanEvalOf
    | with_reducible apply Keeps.reach
    | split

theorem Keeps.of_execFanSupervisionLost (n : Fin 32) (s : State) (hs : Keeps μ σ s) (m_space : μ .space) (m_now : μ .now) (m_campusOff : μ .campusOff) (m_log : μ .log) (m_ten : μ .ten) (m_cl : μ .cl) (m_fan : μ .fan) (m_pdErrs : μ .pdErrs) :
    KeepsO μ σ (execFanSupervisionLost n s) := by
  unfold execFanSupervisionLost
  repeat' first
    | with_reducible assumption
    | intro _
    | with_reducible apply KeepsO.next
    | with_reducible apply Keeps.ite
    | with_reducible apply Keeps.fanEvalOf
    | with_reducible apply Keeps.reach
    | split

theorem Keeps.fanFuncRst (s : State) (g : ℕ) (hs : Keeps μ σ s) (m_space : μ .space) (m_fan : μ .fan) :
    Keeps μ σ (State.fanFuncRst s g) := by
  unfold State.fanFuncRst
  repeat' first
    | with_reducible assumption
    | intro _
    | with_reducible apply Keeps.ite
    | ((fail_if_no_progress extract_lets +onlyGivenNames x); first | (refine Keeps.bind x ?_ ?_; (try subst x); rotate_left; intro hx; rotate_left) | skip)
    | with_reducible apply Keeps.each
    | with_reducible apply Keeps.fanGo
    | with_reducible apply Keeps.fanSync
    | with_reducible apply Keeps.fanWatch
    | with_reducible apply Keeps.put
    | with_reducible apply Keeps.setFan
    | with_reducible apply Keeps.setFanGrp
    | with_reducible apply Keeps.setWord
    | split
    | simp only [id_eq]

theorem Keeps.fanFltWrite (s : State) (w : Who) (n : ℕ) (data : Word) (hs : Keeps μ σ s) (m_space : μ .space) (m_wres : μ .wres) (m_log : μ .log) (m_ten : μ .ten) (m_fan : μ .fan) :
    Keeps μ σ (State.fanFltWrite s w n data) := by
  unfold State.fanFltWrite
  repeat' first
    | with_reducible assumption
    | intro _
    | with_reducible apply Keeps.ite
    | ((fail_if_no_progress extract_lets +onlyGivenNames x); first | (refine Keeps.bind x ?_ ?_; (try subst x); rotate_left; intro hx; rotate_left) | skip)
    | with_reducible apply Keeps.clearWrite
    | with_reducible apply Keeps.fanWatch
    | with_reducible apply Keeps.setFan

theorem Keeps.fanWriteUp (s : State) (w : Who) (a : ℕ) (data : Word) (hs : Keeps μ σ s) (m_space : μ .space) (m_wres : μ .wres) (m_log : μ .log) (m_ten : μ .ten) (m_fan : μ .fan) :
    Keeps μ σ (State.fanWriteUp s w a data) := by
  unfold State.fanWriteUp
  repeat' first
    | with_reducible assumption
    | intro _
    | with_reducible apply Keeps.ite
    | ((fail_if_no_progress extract_lets +onlyGivenNames x); first | (refine Keeps.bind x ?_ ?_; (try subst x); rotate_left; intro hx; rotate_left) | skip)
    | with_reducible apply Keeps.cfgWrite
    | with_reducible apply Keeps.clearWrite
    | with_reducible apply Keeps.fanFltWrite
    | with_reducible apply Keeps.fanQual
    | with_reducible apply Keeps.fanSync
    | with_reducible apply Keeps.fanTestWrite
    | with_reducible apply Keeps.fanTrigStart
    | with_reducible apply Keeps.kindWrite
    | with_reducible apply Keeps.setFan
    | split
    | simp only [id_eq]

theorem Keeps.fanWrite (s : State) (w : Who) (a : ℕ) (data : Word) (hs : Keeps μ σ s) (m_space : μ .space) (m_wres : μ .wres) (m_log : μ .log) (m_ten : μ .ten) (m_fan : μ .fan) :
    Keeps μ σ (State.fanWrite s w a data) := by
  unfold State.fanWrite
  repeat' first
    | with_reducible assumption
    | intro _
    | with_reducible apply Keeps.ite
    | with_reducible apply Keeps.dropWrite
    | with_reducible apply Keeps.fanWriteUp
    | with_reducible apply Keeps.refuseWrite

theorem Keeps.of_execFanFaultClear (p : Path) (n : Fin 32) (data : Word) (s : State) (hs : Keeps μ σ s) (m_space : μ .space) (m_rdata : μ .rdata) (m_wres : μ .wres) (m_banks : μ .banks) (m_log : μ .log) (m_ten : μ .ten) (m_fan : μ .fan) :
    KeepsO μ σ (execFanFaultClear p n data s) := by
  unfold execFanFaultClear
  repeat' first
    | with_reducible assumption
    | intro _
    | with_reducible apply KeepsO.next
    | with_reducible apply Keeps.ite
    | with_reducible apply Keeps.byPath
    | with_reducible apply Keeps.fanWrite

theorem Keeps.guardStrap (s : State) (c : ℕ) (hs : Keeps μ σ s) (m_space : μ .space) :
    Keeps μ σ (State.guardStrap s c) := by
  unfold State.guardStrap
  repeat' first
    | with_reducible assumption
    | intro _
    | with_reducible apply Keeps.ite
    | with_reducible apply Keeps.put

theorem Keeps.guardFlt (s : State) (f : Fld) (hs : Keeps μ σ s) (m_space : μ .space) (m_free : μ .free) (m_ten : μ .ten) (m_ic : μ .ic) (m_fan : μ .fan) (m_pdErrs : μ .pdErrs) :
    Keeps μ σ (State.guardFlt s f) := by
  unfold State.guardFlt
  repeat' first
    | with_reducible assumption
    | intro _
    | with_reducible apply Keeps.ite
    | ((fail_if_no_progress extract_lets +onlyGivenNames x); first | (refine Keeps.bind x ?_ ?_; (try subst x); rotate_left; intro hx; rotate_left) | skip)
    | with_reducible apply Keeps.icPulse
    | with_reducible apply Keeps.pdErr
    | with_reducible apply Keeps.put
    | simp only [Keeps.upd_fan m_fan]

theorem Keeps.guardSample (s : State) (ts0 : ℤ) (ts1 : ℤ) (ohm : ℕ) (extLow : Bool) (hs : Keeps μ σ s) (m_space : μ .space) (m_now : μ .now) (m_campusOff : μ .campusOff) (m_cl : μ .cl) (m_fan : μ .fan) :
    Keeps μ σ (State.guardSample s ts0 ts1 ohm extLow) := by
  unfold State.guardSample
  repeat' first
    | with_reducible assumption
    | intro _
    | with_reducible apply Keeps.ite
    | ((fail_if_no_progress extract_lets +onlyGivenNames x); first | (refine Keeps.bind x ?_ ?_; (try subst x); rotate_left; intro hx; rotate_left) | skip)
    | with_reducible apply Keeps.put
    | with_reducible apply Keeps.reach
    | simp only [Keeps.upd_fan m_fan]

theorem Keeps.of_execGuardSample (raw0 : ℤ) (raw1 : ℤ) (part : ℕ) (extLow : Bool) (s : State) (hs : Keeps μ σ s) (m_space : μ .space) (m_now : μ .now) (m_campusOff : μ .campusOff) (m_cl : μ .cl) (m_fan : μ .fan) :
    KeepsO μ σ (execGuardSample raw0 raw1 part extLow s) := by
  unfold execGuardSample
  repeat' first
    | with_reducible assumption
    | intro _
    | with_reducible apply KeepsO.next
    | with_reducible apply Keeps.ite
    | ((fail_if_no_progress extract_lets +onlyGivenNames x); first | (refine Keeps.bind x ?_ ?_; (try subst x); rotate_left; intro hx; rotate_left) | (refine KeepsO.bind x ?_ ?_; (try subst x); rotate_left; intro hx; rotate_left) | skip)
    | with_reducible apply Keeps.guardSample
    | with_reducible apply Keeps.pdDo
    | split
    | simp only [id_eq]

theorem Keeps.guardTrip (s : State) (hs : Keeps μ σ s) (m_space : μ .space) (m_fan : μ .fan) :
    Keeps μ σ (State.guardTrip s) := by
  unfold State.guardTrip
  repeat' first
    | with_reducible assumption
    | intro _
    | with_reducible apply Keeps.ite
    | ((fail_if_no_progress extract_lets +onlyGivenNames x); first | (refine Keeps.bind x ?_ ?_; (try subst x); rotate_left; intro hx; rotate_left) | skip)
    | with_reducible apply Keeps.each
    | with_reducible apply Keeps.inc
    | with_reducible apply Keeps.put
    | with_reducible apply Keeps.setFan
    | split
    | simp only [id_eq]

theorem Keeps.of_execGuardRelease (s : State) (hs : Keeps μ σ s) (m_space : μ .space) (m_now : μ .now) (m_campusOff : μ .campusOff) (m_cl : μ .cl) :
    KeepsO μ σ (execGuardRelease s) := by
  unfold execGuardRelease
  repeat' first
    | with_reducible assumption
    | intro _
    | with_reducible apply KeepsO.next
    | with_reducible apply Keeps.ite
    | with_reducible apply Keeps.put
    | with_reducible apply Keeps.reach
    | split

theorem Keeps.of_execGuardSenseDiff (s : State) (hs : Keeps μ σ s) (m_space : μ .space) (m_now : μ .now) (m_campusOff : μ .campusOff) (m_free : μ .free) (m_ten : μ .ten) (m_ic : μ .ic) (m_cl : μ .cl) (m_fan : μ .fan) (m_pdErrs : μ .pdErrs) :
    KeepsO μ σ (execGuardSenseDiff s) := by
  unfold execGuardSenseDiff
  repeat' first
    | with_reducible assumption
    | intro _
    | with_reducible apply KeepsO.next
    | with_reducible apply Keeps.ite
    | with_reducible apply Keeps.guardFlt
    | with_reducible apply Keeps.reach
    | split

theorem Keeps.of_execGuardTgOpen (s : State) (hs : Keeps μ σ s) (m_space : μ .space) (m_now : μ .now) (m_campusOff : μ .campusOff) (m_free : μ .free) (m_ten : μ .ten) (m_ic : μ .ic) (m_cl : μ .cl) (m_fan : μ .fan) (m_pdErrs : μ .pdErrs) :
    KeepsO μ σ (execGuardTgOpen s) := by
  unfold execGuardTgOpen
  repeat' first
    | with_reducible assumption
    | intro _
    | with_reducible apply KeepsO.next
    | with_reducible apply Keeps.ite
    | with_reducible apply Keeps.guardFlt
    | with_reducible apply Keeps.reach
    | split

end Sys2Proof.Machine
end

