-- ==== Sys2Proof/Laws/KeepsLoop.lean ====
section
/-! SUPPORT. What each operation of Machine/Loop.lean keeps: the queue, the clock's direction, the canonical form of the register
space, and every part of the state it does not name (`Keeps`). -/

set_option linter.unusedTactic false
set_option linter.unreachableTactic false
set_option linter.unusedSimpArgs false
set_option linter.unusedVariables false

namespace Sys2Proof.Machine

variable {μ : Part → Prop} {σ : State}

theorem Keeps.leSwapBank (s : State) (n : ℕ) (bank : ℕ) (hs : Keeps μ σ s) (m_space : μ .space) (m_le : μ .le) :
    Keeps μ σ (State.leSwapBank s n bank) := by
  unfold State.leSwapBank
  repeat' first
    | with_reducible assumption
    | intro _
    | with_reducible apply Keeps.ite
    | ((fail_if_no_progress extract_lets +onlyGivenNames x); first | (refine Keeps.bind x ?_ ?_; (try subst x); rotate_left; intro hx; rotate_left) | skip)
    | with_reducible apply Keeps.put
    | with_reducible apply Keeps.setLoop

theorem Keeps.leAlign (s : State) (n : ℕ) (bank : ℕ) (t : ℕ) (hs : Keeps μ σ s) (m_space : μ .space) (m_le : μ .le) :
    Keeps μ σ (State.leAlign s n bank t) := by
  unfold State.leAlign
  repeat' first
    | with_reducible assumption
    | intro _
    | with_reducible apply Keeps.ite
    | ((fail_if_no_progress extract_lets +onlyGivenNames x); first | (refine Keeps.bind x ?_ ?_; (try subst x); rotate_left; intro hx; rotate_left) | skip)
    | with_reducible apply Keeps.leSwapBank
    | with_reducible apply Keeps.put
    | with_reducible apply Keeps.setLoop

theorem Keeps.leGroup (s : State) (g : ℕ) (hs : Keeps μ σ s) (m_space : μ .space) (m_free : μ .free) (m_log : μ .log) (m_ten : μ .ten) (m_ic : μ .ic) (m_le : μ .le) :
    Keeps μ σ (State.leGroup s g) := by
  unfold State.leGroup
  repeat' first
    | with_reducible assumption
    | intro _
    | with_reducible apply Keeps.ite
    | ((fail_if_no_progress extract_lets +onlyGivenNames x); first | (refine Keeps.bind x ?_ ?_; (try subst x); rotate_left; intro hx; rotate_left) | skip)
    | with_reducible apply Keeps.auditEvent
    | with_reducible apply Keeps.each
    | with_reducible apply Keeps.icPulse
    | with_reducible apply Keeps.leAlign
    | with_reducible apply Keeps.put
    | with_reducible apply Keeps.swapTarget
    | simp only [Keeps.upd_le m_le]
    | split
    | simp only [id_eq]

theorem Keeps.leSetup (s : State) (hs : Keeps μ σ s) (m_space : μ .space) (m_free : μ .free) (m_log : μ .log) (m_ten : μ .ten) (m_ic : μ .ic) (m_le : μ .le) :
    Keeps μ σ (State.leSetup s) := by
  unfold State.leSetup
  repeat' first
    | with_reducible assumption
    | intro _
    | with_reducible apply Keeps.ite
    | ((fail_if_no_progress extract_lets +onlyGivenNames x); first | (refine Keeps.bind x ?_ ?_; (try subst x); rotate_left; intro hx; rotate_left) | skip)
    | with_reducible apply Keeps.each
    | with_reducible apply Keeps.leGroup
    | with_reducible apply Keeps.leSwapBank
    | with_reducible apply Keeps.setLoop
    | simp only [Keeps.upd_le m_le]
    | split

theorem Keeps.leFrameStat (s : State) (hs : Keeps μ σ s) (m_space : μ .space) :
    Keeps μ σ (State.leFrameStat s) := by
  unfold State.leFrameStat
  repeat' first
    | with_reducible assumption
    | intro _
    | with_reducible apply Keeps.ite
    | ((fail_if_no_progress extract_lets +onlyGivenNames x); first | (refine Keeps.bind x ?_ ?_; (try subst x); rotate_left; intro hx; rotate_left) | skip)
    | with_reducible apply Keeps.put

theorem Keeps.leFrame (s : State) (hs : Keeps μ σ s) (m_space : μ .space) (m_now : μ .now) (m_campusOff : μ .campusOff) (m_free : μ .free) (m_log : μ .log) (m_ten : μ .ten) (m_ic : μ .ic) (m_cl : μ .cl) (m_frame : μ .frame) (m_le : μ .le) :
    Keeps μ σ (State.leFrame s) := by
  unfold State.leFrame
  repeat' first
    | with_reducible assumption
    | intro _
    | with_reducible apply Keeps.ite
    | ((fail_if_no_progress extract_lets +onlyGivenNames x); first | (refine Keeps.bind x ?_ ?_; (try subst x); rotate_left; intro hx; rotate_left) | skip)
    | with_reducible apply Keeps.leFrameStat
    | with_reducible apply Keeps.leSetup
    | with_reducible apply Keeps.reach
    | with_reducible apply Keeps.setWord
    | simp only [Keeps.upd_le m_le, Keeps.upd_frame m_frame]

theorem Keeps.of_execLeFrameBoundary (s : State) (hs : Keeps μ σ s) (m_space : μ .space) (m_now : μ .now) (m_campusOff : μ .campusOff) (m_free : μ .free) (m_log : μ .log) (m_ten : μ .ten) (m_ic : μ .ic) (m_cl : μ .cl) (m_frame : μ .frame) (m_le : μ .le) :
    KeepsO μ σ (execLeFrameBoundary s) := by
  unfold execLeFrameBoundary
  repeat' first
    | with_reducible assumption
    | intro _
    | with_reducible apply KeepsO.next
    | with_reducible apply Keeps.ite
    | with_reducible apply Keeps.leFrame

theorem Keeps.leMissed (s : State) (n : ℕ) (hs : Keeps μ σ s) (m_space : μ .space) (m_free : μ .free) (m_ten : μ .ten) (m_ic : μ .ic) (m_le : μ .le) :
    Keeps μ σ (State.leMissed s n) := by
  unfold State.leMissed
  repeat' first
    | with_reducible assumption
    | intro _
    | with_reducible apply Keeps.ite
    | ((fail_if_no_progress extract_lets +onlyGivenNames x); first | (refine Keeps.bind x ?_ ?_; (try subst x); rotate_left; intro hx; rotate_left) | skip)
    | with_reducible apply Keeps.firstOf
    | with_reducible apply Keeps.icPulse
    | with_reducible apply Keeps.inc
    | with_reducible apply Keeps.leSupervise
    | with_reducible apply Keeps.put
    | with_reducible apply Keeps.setLoop
    | simp only [Keeps.upd_le m_le]

theorem Keeps.leSlot (s : State) (hs : Keeps μ σ s) (m_now : μ .now) (m_campusOff : μ .campusOff) (m_cl : μ .cl) (m_le : μ .le) :
    Keeps μ σ (State.leSlot s) := by
  unfold State.leSlot
  repeat' first
    | with_reducible assumption
    | intro _
    | with_reducible apply Keeps.ite
    | ((fail_if_no_progress extract_lets +onlyGivenNames x); first | (refine Keeps.bind x ?_ ?_; (try subst x); rotate_left; intro hx; rotate_left) | skip)
    | with_reducible apply Keeps.reach
    | simp only [Keeps.upd_le m_le]

theorem Keeps.leNext (s : State) (ecc : LeEcc) (differ : Option (Fin 4)) (hs : Keeps μ σ s) (m_space : μ .space) (m_now : μ .now) (m_campusOff : μ .campusOff) (m_free : μ .free) (m_ten : μ .ten) (m_ic : μ .ic) (m_broken : μ .broken) (m_fwd : μ .fwd) (m_cl : μ .cl) (m_le : μ .le) :
    Keeps μ σ (State.leNext s ecc differ) := by
  unfold State.leNext
  repeat' first
    | with_reducible assumption
    | intro _
    | with_reducible apply Keeps.ite
    | ((fail_if_no_progress extract_lets +onlyGivenNames x); first | (refine Keeps.bind x ?_ ?_; (try subst x); rotate_left; intro hx; rotate_left) | skip)
    | with_reducible apply Keeps.leCommit
    | with_reducible apply Keeps.leMissed
    | with_reducible apply Keeps.leRecEcc
    | with_reducible apply Keeps.leSlot
    | with_reducible apply Keeps.leStateEcc
    | with_reducible apply Keeps.ptEcc
    | simp only [Keeps.upd_le m_le]
    | split

theorem Keeps.of_execLoopEvaluation (ecc : LeEcc) (differ : Option (Fin 4)) (s : State) (hs : Keeps μ σ s) (m_space : μ .space) (m_now : μ .now) (m_campusOff : μ .campusOff) (m_free : μ .free) (m_ten : μ .ten) (m_ic : μ .ic) (m_broken : μ .broken) (m_fwd : μ .fwd) (m_cl : μ .cl) (m_le : μ .le) :
    KeepsO μ σ (execLoopEvaluation ecc differ s) := by
  unfold execLoopEvaluation
  repeat' first
    | with_reducible assumption
    | intro _
    | with_reducible apply KeepsO.next
    | with_reducible apply Keeps.ite
    | with_reducible apply Keeps.leNext

theorem Keeps.leFault (s : State) (n : ℕ) (hs : Keeps μ σ s) (m_space : μ .space) (m_free : μ .free) (m_log : μ .log) (m_ten : μ .ten) (m_ic : μ .ic) (m_le : μ .le) :
    Keeps μ σ (State.leFault s n) := by
  unfold State.leFault
  repeat' first
    | with_reducible assumption
    | intro _
    | with_reducible apply Keeps.ite
    | ((fail_if_no_progress extract_lets +onlyGivenNames x); first | (refine Keeps.bind x ?_ ?_; (try subst x); rotate_left; intro hx; rotate_left) | skip)
    | with_reducible apply Keeps.auditEvent
    | with_reducible apply Keeps.icPulse
    | with_reducible apply Keeps.postErr
    | with_reducible apply Keeps.put
    | simp only [Keeps.upd_le m_le]

theorem Keeps.leRepeat (s : State) (agree : Bool) (hs : Keeps μ σ s) (m_space : μ .space) (m_now : μ .now) (m_campusOff : μ .campusOff) (m_free : μ .free) (m_log : μ .log) (m_ten : μ .ten) (m_ic : μ .ic) (m_cl : μ .cl) (m_le : μ .le) :
    Keeps μ σ (State.leRepeat s agree) := by
  unfold State.leRepeat
  repeat' first
    | with_reducible assumption
    | intro _
    | with_reducible apply Keeps.ite
    | ((fail_if_no_progress extract_lets +onlyGivenNames x); first | (refine Keeps.bind x ?_ ?_; (try subst x); rotate_left; intro hx; rotate_left) | skip)
    | with_reducible apply Keeps.firstOf
    | with_reducible apply Keeps.icPulse
    | with_reducible apply Keeps.inc
    | with_reducible apply Keeps.leCommit
    | with_reducible apply Keeps.leFault
    | with_reducible apply Keeps.leSlot
    | with_reducible apply Keeps.put
    | simp only [Keeps.upd_le m_le]
    | split

theorem Keeps.of_execLockstepRepeat (agree : Bool) (s : State) (hs : Keeps μ σ s) (m_space : μ .space) (m_now : μ .now) (m_campusOff : μ .campusOff) (m_free : μ .free) (m_log : μ .log) (m_ten : μ .ten) (m_ic : μ .ic) (m_cl : μ .cl) (m_le : μ .le) :
    KeepsO μ σ (execLockstepRepeat agree s) := by
  unfold execLockstepRepeat
  repeat' first
    | with_reducible assumption
    | intro _
    | with_reducible apply KeepsO.next
    | with_reducible apply Keeps.ite
    | with_reducible apply Keeps.leRepeat

theorem Keeps.of_execLeFaultNotice (s : State) (hs : Keeps μ σ s) (m_le : μ .le) :
    KeepsO μ σ (execLeFaultNotice s) := by
  unfold execLeFaultNotice
  repeat' first
    | with_reducible assumption
    | intro _
    | with_reducible apply KeepsO.next
    | with_reducible apply Keeps.ite
    | ((fail_if_no_progress extract_lets +onlyGivenNames x); first | (refine Keeps.bind x ?_ ?_; (try subst x); rotate_left; intro hx; rotate_left) | (refine KeepsO.bind x ?_ ?_; (try subst x); rotate_left; intro hx; rotate_left) | skip)
    | simp only [Keeps.upd_le m_le]

theorem Keeps.of_execLeFaultTimerCancel (s : State) (hs : Keeps μ σ s) (m_le : μ .le) :
    KeepsO μ σ (execLeFaultTimerCancel s) := by
  unfold execLeFaultTimerCancel
  repeat' first
    | with_reducible assumption
    | intro _
    | with_reducible apply KeepsO.next
    | with_reducible apply Keeps.ite
    | ((fail_if_no_progress extract_lets +onlyGivenNames x); first | (refine Keeps.bind x ?_ ?_; (try subst x); rotate_left; intro hx; rotate_left) | (refine KeepsO.bind x ?_ ?_; (try subst x); rotate_left; intro hx; rotate_left) | skip)
    | simp only [Keeps.upd_le m_le]

theorem Keeps.oqWrite (s : State) (trend : Bool) (hs : Keeps μ σ s) (m_space : μ .space) (m_free : μ .free) (m_wres : μ .wres) (m_log : μ .log) (m_ten : μ .ten) (m_broken : μ .broken) (m_safe : μ .safe) (m_cmds : μ .cmds) (m_cd : μ .cd) (m_fwd : μ .fwd) (m_sk : μ .sk) (m_le : μ .le) :
    Keeps μ σ (State.oqWrite s trend) := by
  unfold State.oqWrite
  repeat' first
    | with_reducible assumption
    | intro _
    | with_reducible apply Keeps.ite
    | ((fail_if_no_progress extract_lets +onlyGivenNames x); first | (refine Keeps.bind x ?_ ?_; (try subst x); rotate_left; intro hx; rotate_left) | skip)
    | with_reducible apply Keeps.inc
    | with_reducible apply Keeps.ptSource
    | simp only [Keeps.upd_le m_le]
    | split
    | simp only [id_eq]

theorem Keeps.of_execOutputQueueDrain (s : State) (hs : Keeps μ σ s) (m_space : μ .space) (m_free : μ .free) (m_wres : μ .wres) (m_log : μ .log) (m_ten : μ .ten) (m_broken : μ .broken) (m_safe : μ .safe) (m_cmds : μ .cmds) (m_cd : μ .cd) (m_fwd : μ .fwd) (m_sk : μ .sk) (m_le : μ .le) :
    KeepsO μ σ (execOutputQueueDrain s) := by
  unfold execOutputQueueDrain
  repeat' first
    | with_reducible assumption
    | intro _
    | with_reducible apply KeepsO.next
    | with_reducible apply Keeps.ite
    | ((fail_if_no_progress extract_lets +onlyGivenNames x); first | (refine Keeps.bind x ?_ ?_; (try subst x); rotate_left; intro hx; rotate_left) | (refine KeepsO.bind x ?_ ?_; (try subst x); rotate_left; intro hx; rotate_left) | skip)
    | with_reducible apply Keeps.oqWrite
    | split
    | simp only [id_eq]

theorem Keeps.oqTimeout (s : State) (hs : Keeps μ σ s) (m_space : μ .space) (m_free : μ .free) (m_wres : μ .wres) (m_log : μ .log) (m_ten : μ .ten) (m_ic : μ .ic) (m_broken : μ .broken) (m_safe : μ .safe) (m_cmds : μ .cmds) (m_cd : μ .cd) (m_fwd : μ .fwd) (m_sk : μ .sk) (m_le : μ .le) :
    Keeps μ σ (State.oqTimeout s) := by
  unfold State.oqTimeout
  repeat' first
    | with_reducible assumption
    | intro _
    | with_reducible apply Keeps.ite
    | ((fail_if_no_progress extract_lets +onlyGivenNames x); first | (refine Keeps.bind x ?_ ?_; (try subst x); rotate_left; intro hx; rotate_left) | skip)
    | with_reducible apply Keeps.each
    | with_reducible apply Keeps.icPulse
    | with_reducible apply Keeps.inc
    | with_reducible apply Keeps.oqWrite
    | with_reducible apply Keeps.trendSample
    | simp only [Keeps.upd_le m_le]
    | split
    | simp only [id_eq]

theorem Keeps.of_execOqTrendTimeout (s : State) (hs : Keeps μ σ s) (m_space : μ .space) (m_free : μ .free) (m_wres : μ .wres) (m_log : μ .log) (m_ten : μ .ten) (m_ic : μ .ic) (m_broken : μ .broken) (m_safe : μ .safe) (m_cmds : μ .cmds) (m_cd : μ .cd) (m_fwd : μ .fwd) (m_sk : μ .sk) (m_le : μ .le) :
    KeepsO μ σ (execOqTrendTimeout s) := by
  unfold execOqTrendTimeout
  repeat' first
    | with_reducible assumption
    | intro _
    | with_reducible apply KeepsO.next
    | with_reducible apply Keeps.ite
    | ((fail_if_no_progress extract_lets +onlyGivenNames x); first | (refine Keeps.bind x ?_ ?_; (try subst x); rotate_left; intro hx; rotate_left) | (refine KeepsO.bind x ?_ ?_; (try subst x); rotate_left; intro hx; rotate_left) | skip)
    | with_reducible apply Keeps.oqTimeout
    | split
    | simp only [id_eq]

theorem Keeps.recWrite (s : State) (w : Who) (n : ℕ) (k : ℕ) (v : Word) (hs : Keeps μ σ s) (m_le : μ .le) :
    Keeps μ σ (State.recWrite s w n k v) := by
  unfold State.recWrite
  repeat' first
    | with_reducible assumption
    | intro _
    | with_reducible apply Keeps.ite
    | with_reducible apply Keeps.lePush

theorem Keeps.of_execLoopRecordWrite (p : Path) (n : ℕ) (k : ℕ) (v : Word) (s : State) (hs : Keeps μ σ s) (m_space : μ .space) (m_rdata : μ .rdata) (m_wres : μ .wres) (m_banks : μ .banks) (m_le : μ .le) :
    KeepsO μ σ (execLoopRecordWrite p n k v s) := by
  unfold execLoopRecordWrite
  repeat' first
    | with_reducible assumption
    | intro _
    | with_reducible apply KeepsO.next
    | with_reducible apply Keeps.ite
    | with_reducible apply Keeps.byPath
    | with_reducible apply Keeps.recWrite

theorem Keeps.leCross (s : State) (f : ℕ) (kind : LeAsk → Bool) (apply : LeOp → State → State) (hs : Keeps μ σ s) (happly : ∀ a0 a1, Keeps μ σ a1 → Keeps μ σ (apply a0 a1)) (m_space : μ .space) (m_ten : μ .ten) (m_sk : μ .sk) (m_le : μ .le) :
    Keeps μ σ (State.leCross s f kind apply) := by
  unfold State.leCross
  repeat' first
    | with_reducible assumption
    | intro _
    | with_reducible apply Keeps.ite
    | ((fail_if_no_progress extract_lets +onlyGivenNames x); first | (refine Keeps.bind x ?_ ?_; (try subst x); rotate_left; intro hx; rotate_left) | skip)
    | with_reducible apply happly
    | with_reducible apply Keeps.leTake
    | split
    | simp only [id_eq]

theorem Keeps.of_execLoopRecordApply (f : Fin 5) (s : State) (hs : Keeps μ σ s) (m_space : μ .space) (m_wres : μ .wres) (m_log : μ .log) (m_ten : μ .ten) (m_sk : μ .sk) (m_le : μ .le) :
    KeepsO μ σ (execLoopRecordApply f s) := by
  unfold execLoopRecordApply
  repeat' first
    | with_reducible assumption
    | intro _
    | with_reducible apply KeepsO.next
    | with_reducible apply Keeps.ite
    | ((fail_if_no_progress extract_lets +onlyGivenNames x); first | (refine Keeps.bind x ?_ ?_; (try subst x); rotate_left; intro hx; rotate_left) | (refine KeepsO.bind x ?_ ?_; (try subst x); rotate_left; intro hx; rotate_left) | skip)
    | with_reducible apply Keeps.leApplyWord
    | with_reducible apply Keeps.leCross
    | split
    | simp only [id_eq]

theorem Keeps.swapWrite (s : State) (w : Who) (data : Word) (hs : Keeps μ σ s) (m_le : μ .le) :
    Keeps μ σ (State.swapWrite s w data) := by
  unfold State.swapWrite
  repeat' first
    | with_reducible assumption
    | intro _
    | with_reducible apply Keeps.ite
    | with_reducible apply Keeps.lePush

theorem Keeps.of_execLeSwap (p : Path) (data : Word) (s : State) (hs : Keeps μ σ s) (m_space : μ .space) (m_rdata : μ .rdata) (m_wres : μ .wres) (m_banks : μ .banks) (m_le : μ .le) :
    KeepsO μ σ (execLeSwap p data s) := by
  unfold execLeSwap
  repeat' first
    | with_reducible assumption
    | intro _
    | with_reducible apply KeepsO.next
    | with_reducible apply Keeps.ite
    | with_reducible apply Keeps.byPath
    | with_reducible apply Keeps.swapWrite

theorem Keeps.groupWrite (s : State) (w : Who) (data : Word) (hs : Keeps μ σ s) (m_le : μ .le) :
    Keeps μ σ (State.groupWrite s w data) := by
  unfold State.groupWrite
  repeat' first
    | with_reducible assumption
    | intro _
    | with_reducible apply Keeps.ite
    | with_reducible apply Keeps.lePush

theorem Keeps.of_execLeSwgRequest (p : Path) (data : Word) (s : State) (hs : Keeps μ σ s) (m_space : μ .space) (m_rdata : μ .rdata) (m_wres : μ .wres) (m_banks : μ .banks) (m_le : μ .le) :
    KeepsO μ σ (execLeSwgRequest p data s) := by
  unfold execLeSwgRequest
  repeat' first
    | with_reducible assumption
    | intro _
    | with_reducible apply KeepsO.next
    | with_reducible apply Keeps.ite
    | with_reducible apply Keeps.byPath
    | with_reducible apply Keeps.groupWrite

theorem Keeps.of_execLeSwgCancel (p : Path) (data : Word) (s : State) (hs : Keeps μ σ s) (m_space : μ .space) (m_rdata : μ .rdata) (m_wres : μ .wres) (m_banks : μ .banks) (m_le : μ .le) :
    KeepsO μ σ (execLeSwgCancel p data s) := by
  unfold execLeSwgCancel
  repeat' first
    | with_reducible assumption
    | intro _
    | with_reducible apply KeepsO.next
    | with_reducible apply Keeps.ite
    | with_reducible apply Keeps.byPath
    | with_reducible apply Keeps.groupWrite

theorem Keeps.of_execSwapRequestApply (f : Fin 5) (s : State) (hs : Keeps μ σ s) (m_space : μ .space) (m_wres : μ .wres) (m_log : μ .log) (m_ten : μ .ten) (m_sk : μ .sk) (m_le : μ .le) :
    KeepsO μ σ (execSwapRequestApply f s) := by
  unfold execSwapRequestApply
  repeat' first
    | with_reducible assumption
    | intro _
    | with_reducible apply KeepsO.next
    | with_reducible apply Keeps.ite
    | ((fail_if_no_progress extract_lets +onlyGivenNames x); first | (refine Keeps.bind x ?_ ?_; (try subst x); rotate_left; intro hx; rotate_left) | (refine KeepsO.bind x ?_ ?_; (try subst x); rotate_left; intro hx; rotate_left) | skip)
    | with_reducible apply Keeps.leApplySwap
    | with_reducible apply Keeps.leCross
    | split
    | simp only [id_eq]

theorem Keeps.of_execGroupRequestApply (f : Fin 5) (s : State) (hs : Keeps μ σ s) (m_space : μ .space) (m_wres : μ .wres) (m_log : μ .log) (m_ten : μ .ten) (m_sk : μ .sk) (m_le : μ .le) :
    KeepsO μ σ (execGroupRequestApply f s) := by
  unfold execGroupRequestApply
  repeat' first
    | with_reducible assumption
    | intro _
    | with_reducible apply KeepsO.next
    | with_reducible apply Keeps.ite
    | ((fail_if_no_progress extract_lets +onlyGivenNames x); first | (refine Keeps.bind x ?_ ?_; (try subst x); rotate_left; intro hx; rotate_left) | (refine KeepsO.bind x ?_ ?_; (try subst x); rotate_left; intro hx; rotate_left) | skip)
    | with_reducible apply Keeps.leApplyGroup
    | with_reducible apply Keeps.leCross
    | split
    | simp only [id_eq]

theorem Keeps.selWrite (s : State) (w : Who) (data : Word) (hs : Keeps μ σ s) (m_space : μ .space) (m_wres : μ .wres) (m_log : μ .log) (m_ten : μ .ten) (m_le : μ .le) :
    Keeps μ σ (State.selWrite s w data) := by
  unfold State.selWrite
  repeat' first
    | with_reducible assumption
    | intro _
    | with_reducible apply Keeps.ite
    | ((fail_if_no_progress extract_lets +onlyGivenNames x); first | (refine Keeps.bind x ?_ ?_; (try subst x); rotate_left; intro hx; rotate_left) | skip)
    | with_reducible apply Keeps.auditW
    | with_reducible apply Keeps.leSetInit
    | with_reducible apply Keeps.plainW
    | with_reducible apply Keeps.put
    | simp only [Keeps.upd_le m_le]
    | split
    | simp only [id_eq]

theorem Keeps.of_execLeStateSelWrite (p : Path) (data : Word) (s : State) (hs : Keeps μ σ s) (m_space : μ .space) (m_rdata : μ .rdata) (m_wres : μ .wres) (m_banks : μ .banks) (m_log : μ .log) (m_ten : μ .ten) (m_le : μ .le) :
    KeepsO μ σ (execLeStateSelWrite p data s) := by
  unfold execLeStateSelWrite
  repeat' first
    | with_reducible assumption
    | intro _
    | with_reducible apply KeepsO.next
    | with_reducible apply Keeps.ite
    | with_reducible apply Keeps.byPath
    | with_reducible apply Keeps.selWrite

theorem Keeps.of_execLeStateReinit (p : Path) (data : Word) (s : State) (hs : Keeps μ σ s) (m_space : μ .space) (m_rdata : μ .rdata) (m_wres : μ .wres) (m_banks : μ .banks) (m_log : μ .log) (m_ten : μ .ten) (m_le : μ .le) :
    KeepsO μ σ (execLeStateReinit p data s) := by
  unfold execLeStateReinit
  repeat' first
    | with_reducible assumption
    | intro _
    | with_reducible apply KeepsO.next
    | with_reducible apply Keeps.ite
    | with_reducible apply Keeps.byPath
    | with_reducible apply Keeps.selWrite

theorem Keeps.leCopy (s : State) (hs : Keeps μ σ s) (m_space : μ .space) (m_le : μ .le) :
    Keeps μ σ (State.leCopy s) := by
  unfold State.leCopy
  repeat' first
    | with_reducible assumption
    | intro _
    | with_reducible apply Keeps.ite
    | with_reducible apply Keeps.put
    | with_reducible apply Keeps.setWord
    | simp only [Keeps.upd_le m_le]
    | split

theorem Keeps.of_execLeStateCopy (s : State) (hs : Keeps μ σ s) (m_space : μ .space) (m_le : μ .le) :
    KeepsO μ σ (execLeStateCopy s) := by
  unfold execLeStateCopy
  repeat' first
    | with_reducible assumption
    | intro _
    | with_reducible apply KeepsO.next
    | with_reducible apply Keeps.ite
    | with_reducible apply Keeps.leCopy

theorem Keeps.of_execLoopReinitApply (k : Fin 4) (s : State) (hs : Keeps μ σ s) (m_space : μ .space) (m_wres : μ .wres) (m_log : μ .log) (m_ten : μ .ten) (m_sk : μ .sk) (m_le : μ .le) :
    KeepsO μ σ (execLoopReinitApply k s) := by
  unfold execLoopReinitApply
  repeat' first
    | with_reducible assumption
    | intro _
    | with_reducible apply KeepsO.next
    | with_reducible apply Keeps.ite
    | ((fail_if_no_progress extract_lets +onlyGivenNames x); first | (refine Keeps.bind x ?_ ?_; (try subst x); rotate_left; intro hx; rotate_left) | (refine KeepsO.bind x ?_ ?_; (try subst x); rotate_left; intro hx; rotate_left) | skip)
    | with_reducible apply Keeps.leApplyReinit
    | with_reducible apply Keeps.leCross
    | split
    | simp only [id_eq]

theorem Keeps.of_execLxForceApply (k : Fin 4) (s : State) (hs : Keeps μ σ s) (m_space : μ .space) (m_free : μ .free) (m_wres : μ .wres) (m_log : μ .log) (m_ten : μ .ten) (m_broken : μ .broken) (m_safe : μ .safe) (m_cmds : μ .cmds) (m_cd : μ .cd) (m_fwd : μ .fwd) (m_sk : μ .sk) (m_le : μ .le) :
    KeepsO μ σ (execLxForceApply k s) := by
  unfold execLxForceApply
  repeat' first
    | with_reducible assumption
    | intro _
    | with_reducible apply KeepsO.next
    | with_reducible apply Keeps.ite
    | ((fail_if_no_progress extract_lets +onlyGivenNames x); first | (refine Keeps.bind x ?_ ?_; (try subst x); rotate_left; intro hx; rotate_left) | (refine KeepsO.bind x ?_ ?_; (try subst x); rotate_left; intro hx; rotate_left) | skip)
    | with_reducible apply Keeps.leApplyForce
    | with_reducible apply Keeps.leCross
    | split
    | simp only [id_eq]

theorem Keeps.of_execLxRelinquishApply (k : Fin 4) (s : State) (hs : Keeps μ σ s) (m_space : μ .space) (m_free : μ .free) (m_wres : μ .wres) (m_log : μ .log) (m_ten : μ .ten) (m_broken : μ .broken) (m_safe : μ .safe) (m_cmds : μ .cmds) (m_cd : μ .cd) (m_fwd : μ .fwd) (m_sk : μ .sk) (m_le : μ .le) :
    KeepsO μ σ (execLxRelinquishApply k s) := by
  unfold execLxRelinquishApply
  repeat' first
    | with_reducible assumption
    | intro _
    | with_reducible apply KeepsO.next
    | with_reducible apply Keeps.ite
    | ((fail_if_no_progress extract_lets +onlyGivenNames x); first | (refine Keeps.bind x ?_ ?_; (try subst x); rotate_left; intro hx; rotate_left) | (refine KeepsO.bind x ?_ ?_; (try subst x); rotate_left; intro hx; rotate_left) | skip)
    | with_reducible apply Keeps.leApplyRelease
    | with_reducible apply Keeps.leCross
    | split
    | simp only [id_eq]

theorem Keeps.leFlush (s : State) (f : ℕ) (hs : Keeps μ σ s) (m_space : μ .space) (m_wres : μ .wres) (m_log : μ .log) (m_ten : μ .ten) (m_sk : μ .sk) (m_le : μ .le) :
    Keeps μ σ (State.leFlush s f) := by
  unfold State.leFlush
  repeat' first
    | with_reducible assumption
    | intro _
    | with_reducible apply Keeps.ite
    | ((fail_if_no_progress extract_lets +onlyGivenNames x); first | (refine Keeps.bind x ?_ ?_; (try subst x); rotate_left; intro hx; rotate_left) | skip)
    | with_reducible apply Keeps.each
    | with_reducible apply Keeps.leAnswer
    | with_reducible apply Keeps.leAudit
    | with_reducible apply Keeps.lxRoom
    | with_reducible apply Keeps.setFifo
    | split
    | simp only [id_eq]

theorem Keeps.leFuncRst (s : State) (hs : Keeps μ σ s) (m_space : μ .space) (m_free : μ .free) (m_wres : μ .wres) (m_log : μ .log) (m_ten : μ .ten) (m_ic : μ .ic) (m_broken : μ .broken) (m_safe : μ .safe) (m_cmds : μ .cmds) (m_cd : μ .cd) (m_fwd : μ .fwd) (m_sk : μ .sk) (m_le : μ .le) :
    Keeps μ σ (State.leFuncRst s) := by
  unfold State.leFuncRst
  repeat' first
    | with_reducible assumption
    | intro _
    | with_reducible apply Keeps.ite
    | ((fail_if_no_progress extract_lets +onlyGivenNames x); first | (refine Keeps.bind x ?_ ?_; (try subst x); rotate_left; intro hx; rotate_left) | skip)
    | with_reducible apply Keeps.each
    | with_reducible apply Keeps.leFlush
    | with_reducible apply Keeps.oqTimeout
    | with_reducible apply Keeps.oqWrite
    | simp only [Keeps.upd_le m_le]
    | split
    | simp only [id_eq]

theorem Keeps.leFuncEnd (s : State) (hs : Keeps μ σ s) (m_space : μ .space) (m_fwd : μ .fwd) (m_le : μ .le) :
    Keeps μ σ (State.leFuncEnd s) := by
  unfold State.leFuncEnd
  repeat' first
    | with_reducible assumption
    | intro _
    | with_reducible apply Keeps.ite
    | ((fail_if_no_progress extract_lets +onlyGivenNames x); first | (refine Keeps.bind x ?_ ?_; (try subst x); rotate_left; intro hx; rotate_left) | skip)
    | with_reducible apply Keeps.each
    | with_reducible apply Keeps.sendPresent
    | with_reducible apply Keeps.setLoop
    | with_reducible apply Keeps.setWord
    | simp only [Keeps.upd_le m_le]
    | split
    | simp only [id_eq]

end Sys2Proof.Machine
end

