-- ==== Sys2Proof/Laws/KeepsZoneBusOps.lean ====
section
/-! SUPPORT. What each operation of Machine/ZoneBusOps.lean keeps: the queue, the clock's direction, the canonical form of the register
space, and every part of the state it does not name (`Keeps`). -/

set_option linter.unusedTactic false
set_option linter.unreachableTactic false
set_option linter.unusedSimpArgs false
set_option linter.unusedVariables false

namespace Sys2Proof.Machine

variable {μ : Part → Prop} {σ : State}

theorem Keeps.setSeg (s : State) (z : ℕ) (x : ZbSeg) (hs : Keeps μ σ s) (m_zb : μ .zb) :
    Keeps μ σ (State.setSeg s z x) := by
  unfold State.setSeg
  repeat' first
    | with_reducible assumption
    | intro _
    | with_reducible apply Keeps.ite
    | ((fail_if_no_progress extract_lets +onlyGivenNames x); first | (refine Keeps.bind x ?_ ?_; (try subst x); rotate_left; intro hx; rotate_left) | skip)
    | simp only [Keeps.upd_zb m_zb]

theorem Keeps.setPayByte (s : State) (z : ℕ) (i : ℕ) (b : Byte) (hs : Keeps μ σ s) (m_space : μ .space) :
    Keeps μ σ (State.setPayByte s z i b) := by
  unfold State.setPayByte
  repeat' first
    | with_reducible assumption
    | intro _
    | with_reducible apply Keeps.ite
    | with_reducible apply Keeps.setWord

theorem Keeps.setPayBytes (s : State) (z : ℕ) (b2 : ℕ) (b3 : List Byte) (hs : Keeps μ σ s) (m_space : μ .space) :
    Keeps μ σ (State.setPayBytes s z b2 b3) := by
  induction b3 generalizing s b2 with
  | nil => exact hs
  | cons b t ih => exact ih _ _ (Keeps.setPayByte _ _ _ _ hs m_space)

theorem Keeps.zbPoints (s : State) (z : ℕ) (b : ℕ) (d : List Byte) (hs : Keeps μ σ s) (m_space : μ .space) (m_free : μ .free) (m_wres : μ .wres) (m_log : μ .log) (m_ten : μ .ten) (m_broken : μ .broken) (m_safe : μ .safe) (m_cmds : μ .cmds) (m_cd : μ .cd) (m_fwd : μ .fwd) (m_sk : μ .sk) :
    Keeps μ σ (State.zbPoints s z b d) := by
  unfold State.zbPoints
  repeat' first
    | with_reducible assumption
    | intro _
    | with_reducible apply Keeps.ite
    | ((fail_if_no_progress extract_lets +onlyGivenNames x); first | (refine Keeps.bind x ?_ ?_; (try subst x); rotate_left; intro hx; rotate_left) | skip)
    | with_reducible apply Keeps.each
    | with_reducible apply Keeps.ptSource
    | split
    | simp only [id_eq]

theorem Keeps.zbStore (s : State) (z : ℕ) (b : ℕ) (f : CanFrame) (hs : Keeps μ σ s) (m_space : μ .space) (m_free : μ .free) (m_wres : μ .wres) (m_log : μ .log) (m_ten : μ .ten) (m_broken : μ .broken) (m_safe : μ .safe) (m_cmds : μ .cmds) (m_cd : μ .cd) (m_fwd : μ .fwd) (m_sk : μ .sk) :
    Keeps μ σ (State.zbStore s z b f) := by
  unfold State.zbStore
  repeat' first
    | with_reducible assumption
    | intro _
    | with_reducible apply Keeps.ite
    | ((fail_if_no_progress extract_lets +onlyGivenNames x); first | (refine Keeps.bind x ?_ ?_; (try subst x); rotate_left; intro hx; rotate_left) | skip)
    | with_reducible apply Keeps.inc
    | with_reducible apply Keeps.put
    | with_reducible apply Keeps.setPayBytes
    | with_reducible apply Keeps.setWord
    | with_reducible apply Keeps.zbPoints
    | split
    | simp only [id_eq]

theorem Keeps.zbOfferTo (s : State) (z : ℕ) (f : CanFrame) (b3 : List ℕ) (hs : Keeps μ σ s) (m_space : μ .space) (m_free : μ .free) (m_wres : μ .wres) (m_log : μ .log) (m_ten : μ .ten) (m_broken : μ .broken) (m_safe : μ .safe) (m_cmds : μ .cmds) (m_cd : μ .cd) (m_fwd : μ .fwd) (m_sk : μ .sk) :
    Keeps μ σ (State.zbOfferTo s z f b3) := by
  induction b3 generalizing s with
  | nil => exact Keeps.inc _ _ _ _ _ hs m_space
  | cons b t ih =>
    unfold State.zbOfferTo
    split
    · exact ih _ hs
    · split
      · with_reducible apply Keeps.zbStore <;> assumption
      · exact ih _ (Keeps.inc _ _ _ _ _ hs m_space)

theorem Keeps.zbOffer (s : State) (z : ℕ) (f : CanFrame) (hs : Keeps μ σ s) (m_space : μ .space) (m_free : μ .free) (m_wres : μ .wres) (m_log : μ .log) (m_ten : μ .ten) (m_broken : μ .broken) (m_safe : μ .safe) (m_cmds : μ .cmds) (m_cd : μ .cd) (m_fwd : μ .fwd) (m_sk : μ .sk) :
    Keeps μ σ (State.zbOffer s z f) := by
  unfold State.zbOffer
  repeat' first
    | with_reducible assumption
    | intro _
    | with_reducible apply Keeps.ite
    | ((fail_if_no_progress extract_lets +onlyGivenNames x); first | (refine Keeps.bind x ?_ ?_; (try subst x); rotate_left; intro hx; rotate_left) | skip)
    | with_reducible apply Keeps.zbOfferTo
    | split
    | simp only [id_eq]

theorem Keeps.zbTakeTag (s : State) (z : ℕ) (b : ℕ) (hs : Keeps μ σ s) (m_space : μ .space) (m_zb : μ .zb) :
    Keeps μ σ (State.zbTakeTag s z b) := by
  unfold State.zbTakeTag
  repeat' first
    | with_reducible assumption
    | intro _
    | with_reducible apply Keeps.ite
    | ((fail_if_no_progress extract_lets +onlyGivenNames x); first | (refine Keeps.bind x ?_ ?_; (try subst x); rotate_left; intro hx; rotate_left) | skip)
    | with_reducible apply Keeps.put
    | with_reducible apply Keeps.setSeg
    | split

theorem Keeps.zbServeTags (s : State) (z : ℕ) (hs : Keeps μ σ s) (m_space : μ .space) (m_zb : μ .zb) :
    Keeps μ σ (State.zbServeTags s z) := by
  unfold State.zbServeTags
  repeat' first
    | with_reducible assumption
    | intro _
    | with_reducible apply Keeps.ite
    | with_reducible apply Keeps.each
    | with_reducible apply Keeps.zbTakeTag

theorem Keeps.zbTagEnd (s : State) (z : ℕ) (r : ZbReq) (hs : Keeps μ σ s) (m_space : μ .space) (m_zb : μ .zb) :
    Keeps μ σ (State.zbTagEnd s z r) := by
  unfold State.zbTagEnd
  repeat' first
    | with_reducible assumption
    | intro _
    | with_reducible apply Keeps.ite
    | ((fail_if_no_progress extract_lets +onlyGivenNames x); first | (refine Keeps.bind x ?_ ?_; (try subst x); rotate_left; intro hx; rotate_left) | skip)
    | with_reducible apply Keeps.setSeg
    | with_reducible apply Keeps.zbServeTags
    | split

theorem Keeps.zbTagQuar (s : State) (z : ℕ) (t : ℕ) (hs : Keeps μ σ s) (m_zb : μ .zb) :
    Keeps μ σ (State.zbTagQuar s z t) := by
  unfold State.zbTagQuar
  repeat' first
    | with_reducible assumption
    | intro _
    | with_reducible apply Keeps.ite
    | ((fail_if_no_progress extract_lets +onlyGivenNames x); first | (refine Keeps.bind x ?_ ?_; (try subst x); rotate_left; intro hx; rotate_left) | skip)
    | with_reducible apply Keeps.setSeg

theorem Keeps.of_execZbTagOpenTimeout (z : Fin 16) (t : Fin 1024) (s : State) (hs : Keeps μ σ s) (m_now : μ .now) (m_campusOff : μ .campusOff) (m_cl : μ .cl) (m_zb : μ .zb) :
    KeepsO μ σ (execZbTagOpenTimeout z t s) := by
  unfold execZbTagOpenTimeout
  repeat' first
    | with_reducible assumption
    | intro _
    | with_reducible apply KeepsO.next
    | with_reducible apply Keeps.ite
    | with_reducible apply Keeps.reach
    | with_reducible apply Keeps.zbTagQuar
    | split

theorem Keeps.of_execZbTagQuarantineEnd (z : Fin 16) (t : Fin 1024) (s : State) (hs : Keeps μ σ s) (m_space : μ .space) (m_now : μ .now) (m_campusOff : μ .campusOff) (m_cl : μ .cl) (m_zb : μ .zb) :
    KeepsO μ σ (execZbTagQuarantineEnd z t s) := by
  unfold execZbTagQuarantineEnd
  repeat' first
    | with_reducible assumption
    | intro _
    | with_reducible apply KeepsO.next
    | with_reducible apply Keeps.ite
    | ((fail_if_no_progress extract_lets +onlyGivenNames x); first | (refine Keeps.bind x ?_ ?_; (try subst x); rotate_left; intro hx; rotate_left) | (refine KeepsO.bind x ?_ ?_; (try subst x); rotate_left; intro hx; rotate_left) | skip)
    | with_reducible apply Keeps.reach
    | with_reducible apply Keeps.setSeg
    | with_reducible apply Keeps.zbServeTags
    | split

theorem Keeps.zbEnd (s : State) (z : ℕ) (b : ℕ) (res : ℕ) (hs : Keeps μ σ s) (m_space : μ .space) (m_zb : μ .zb) :
    Keeps μ σ (State.zbEnd s z b res) := by
  unfold State.zbEnd
  repeat' first
    | with_reducible assumption
    | intro _
    | with_reducible apply Keeps.ite
    | ((fail_if_no_progress extract_lets +onlyGivenNames x); first | (refine Keeps.bind x ?_ ?_; (try subst x); rotate_left; intro hx; rotate_left) | skip)
    | with_reducible apply Keeps.inc
    | with_reducible apply Keeps.put
    | with_reducible apply Keeps.putIf
    | with_reducible apply Keeps.setSeg
    | with_reducible apply Keeps.zbTagEnd
    | split

theorem Keeps.zbRequest (s : State) (z : ℕ) (b : ℕ) (hs : Keeps μ σ s) (m_space : μ .space) (m_wres : μ .wres) (m_zb : μ .zb) :
    Keeps μ σ (State.zbRequest s z b) := by
  unfold State.zbRequest
  repeat' first
    | with_reducible assumption
    | intro _
    | with_reducible apply Keeps.ite
    | with_reducible apply Keeps.put
    | with_reducible apply Keeps.setSeg
    | with_reducible apply Keeps.zbTakeTag
    | simp only [Keeps.upd_wres m_wres]

theorem Keeps.zbAbort (s : State) (z : ℕ) (b : ℕ) (hs : Keeps μ σ s) (m_space : μ .space) (m_zb : μ .zb) :
    Keeps μ σ (State.zbAbort s z b) := by
  unfold State.zbAbort
  repeat' first
    | with_reducible assumption
    | intro _
    | with_reducible apply Keeps.ite
    | ((fail_if_no_progress extract_lets +onlyGivenNames x); first | (refine Keeps.bind x ?_ ?_; (try subst x); rotate_left; intro hx; rotate_left) | skip)
    | with_reducible apply Keeps.setSeg
    | with_reducible apply Keeps.zbEnd
    | split

theorem Keeps.zbChoose (s : State) (z : ℕ) (hs : Keeps μ σ s) (m_zb : μ .zb) :
    Keeps μ σ (State.zbChoose s z) := by
  unfold State.zbChoose
  repeat' first
    | with_reducible assumption
    | intro _
    | with_reducible apply Keeps.ite
    | with_reducible apply Keeps.setSeg
    | split

theorem Keeps.of_execZbFrameChoice (z : Fin 16) (s : State) (hs : Keeps μ σ s) (m_zb : μ .zb) :
    KeepsO μ σ (execZbFrameChoice z s) := by
  unfold execZbFrameChoice
  repeat' first
    | with_reducible assumption
    | intro _
    | with_reducible apply KeepsO.next
    | with_reducible apply Keeps.ite
    | with_reducible apply Keeps.zbChoose

theorem Keeps.zbTenantReset (s : State) (t : ℕ) (hs : Keeps μ σ s) (m_space : μ .space) (m_zb : μ .zb) :
    Keeps μ σ (State.zbTenantReset s t) := by
  unfold State.zbTenantReset
  repeat' first
    | with_reducible assumption
    | intro _
    | with_reducible apply Keeps.ite
    | ((fail_if_no_progress extract_lets +onlyGivenNames x); first | (refine Keeps.bind x ?_ ?_; (try subst x); rotate_left; intro hx; rotate_left) | skip)
    | with_reducible apply Keeps.each
    | with_reducible apply Keeps.inc
    | with_reducible apply Keeps.put
    | with_reducible apply Keeps.setSeg
    | with_reducible apply Keeps.zbEnd
    | split
    | simp only [id_eq]

end Sys2Proof.Machine
end

