-- ==== Sys2Proof/Laws/KeepsTenants.lean ====
section
/-! SUPPORT. What each operation of Machine/Tenants.lean keeps: the queue, the clock's direction, the canonical form of the register
space, and every part of the state it does not name (`Keeps`). -/

set_option linter.unusedTactic false
set_option linter.unreachableTactic false
set_option linter.unusedSimpArgs false
set_option linter.unusedVariables false

namespace Sys2Proof.Machine

variable {μ : Part → Prop} {σ : State}

theorem Keeps.tenRetire (s : State) (t : ℕ) (hs : Keeps μ σ s) (m_space : μ .space) (m_ten : μ .ten) :
    Keeps μ σ (State.tenRetire s t) := by
  unfold State.tenRetire
  repeat' first
    | with_reducible assumption
    | intro _
    | with_reducible apply Keeps.ite
    | ((fail_if_no_progress extract_lets +onlyGivenNames x); first | (refine Keeps.bind x ?_ ?_; (try subst x); rotate_left; intro hx; rotate_left) | skip)
    | with_reducible apply Keeps.each
    | with_reducible apply Keeps.put
    | with_reducible apply Keeps.setTctx
    | with_reducible apply Keeps.setWord

theorem Keeps.tenEnable (s : State) (t : ℕ) (hs : Keeps μ σ s) (m_space : μ .space) (m_ten : μ .ten) :
    Keeps μ σ (State.tenEnable s t) := by
  unfold State.tenEnable
  repeat' first
    | with_reducible assumption
    | intro _
    | with_reducible apply Keeps.ite
    | ((fail_if_no_progress extract_lets +onlyGivenNames x); first | (refine Keeps.bind x ?_ ?_; (try subst x); rotate_left; intro hx; rotate_left) | skip)
    | with_reducible apply Keeps.put
    | with_reducible apply Keeps.setTctx
    | with_reducible apply Keeps.setWord

theorem Keeps.ctxCfgWrite (s : State) (w : Who) (t : ℕ) (data : Word) (hs : Keeps μ σ s) (m_space : μ .space) (m_wres : μ .wres) (m_log : μ .log) (m_ten : μ .ten) :
    Keeps μ σ (State.ctxCfgWrite s w t data) := by
  unfold State.ctxCfgWrite
  repeat' first
    | with_reducible assumption
    | intro _
    | with_reducible apply Keeps.ite
    | ((fail_if_no_progress extract_lets +onlyGivenNames x); first | (refine Keeps.bind x ?_ ?_; (try subst x); rotate_left; intro hx; rotate_left) | skip)
    | with_reducible apply Keeps.cfgWrite
    | with_reducible apply Keeps.put
    | with_reducible apply Keeps.refuseWrite
    | with_reducible apply Keeps.tenEnable
    | with_reducible apply Keeps.tenRetire

theorem Keeps.of_execTenantRetire (p : Path) (t : Fin 256) (data : Word) (s : State) (hs : Keeps μ σ s) (m_space : μ .space) (m_rdata : μ .rdata) (m_wres : μ .wres) (m_banks : μ .banks) (m_log : μ .log) (m_ten : μ .ten) :
    KeepsO μ σ (execTenantRetire p t data s) := by
  unfold execTenantRetire
  repeat' first
    | with_reducible assumption
    | intro _
    | with_reducible apply KeepsO.next
    | with_reducible apply Keeps.ite
    | with_reducible apply Keeps.byPath
    | with_reducible apply Keeps.ctxCfgWrite

theorem Keeps.of_execTenantEnable (p : Path) (t : Fin 256) (data : Word) (s : State) (hs : Keeps μ σ s) (m_space : μ .space) (m_rdata : μ .rdata) (m_wres : μ .wres) (m_banks : μ .banks) (m_log : μ .log) (m_ten : μ .ten) :
    KeepsO μ σ (execTenantEnable p t data s) := by
  unfold execTenantEnable
  repeat' first
    | with_reducible assumption
    | intro _
    | with_reducible apply KeepsO.next
    | with_reducible apply Keeps.ite
    | with_reducible apply Keeps.byPath
    | with_reducible apply Keeps.ctxCfgWrite

theorem Keeps.winWrite (s : State) (w : Who) (t : ℕ) (k : ℕ) (a : ℕ) (isB : Bool) (data : Word) (hs : Keeps μ σ s) (m_space : μ .space) (m_wres : μ .wres) (m_log : μ .log) (m_ten : μ .ten) :
    Keeps μ σ (State.winWrite s w t k a isB data) := by
  unfold State.winWrite
  repeat' first
    | with_reducible assumption
    | intro _
    | with_reducible apply Keeps.ite
    | with_reducible apply Keeps.cfgWrite
    | with_reducible apply Keeps.refuseWrite

theorem Keeps.qPop (s : State) (w : Who) (t : ℕ) (err : Bool) (data : Word) (hs : Keeps μ σ s) (m_space : μ .space) (m_wres : μ .wres) (m_log : μ .log) (m_ten : μ .ten) :
    Keeps μ σ (State.qPop s w t err data) := by
  unfold State.qPop
  repeat' first
    | with_reducible assumption
    | intro _
    | with_reducible apply Keeps.ite
    | ((fail_if_no_progress extract_lets +onlyGivenNames x); first | (refine Keeps.bind x ?_ ?_; (try subst x); rotate_left; intro hx; rotate_left) | skip)
    | with_reducible apply Keeps.plainW
    | with_reducible apply Keeps.refuseWrite
    | with_reducible apply Keeps.setTctx

theorem Keeps.of_execEventQueuePop (p : Path) (t : Fin 256) (data : Word) (s : State) (hs : Keeps μ σ s) (m_space : μ .space) (m_rdata : μ .rdata) (m_wres : μ .wres) (m_banks : μ .banks) (m_log : μ .log) (m_ten : μ .ten) :
    KeepsO μ σ (execEventQueuePop p t data s) := by
  unfold execEventQueuePop
  repeat' first
    | with_reducible assumption
    | intro _
    | with_reducible apply KeepsO.next
    | with_reducible apply Keeps.ite
    | with_reducible apply Keeps.byPath
    | with_reducible apply Keeps.qPop

theorem Keeps.of_execErrorQueuePop (p : Path) (t : Fin 256) (data : Word) (s : State) (hs : Keeps μ σ s) (m_space : μ .space) (m_rdata : μ .rdata) (m_wres : μ .wres) (m_banks : μ .banks) (m_log : μ .log) (m_ten : μ .ten) :
    KeepsO μ σ (execErrorQueuePop p t data s) := by
  unfold execErrorQueuePop
  repeat' first
    | with_reducible assumption
    | intro _
    | with_reducible apply KeepsO.next
    | with_reducible apply Keeps.ite
    | with_reducible apply Keeps.byPath
    | with_reducible apply Keeps.qPop

theorem Keeps.cqPush (s : State) (w : Who) (data : Word) (hs : Keeps μ σ s) (m_space : μ .space) (m_wres : μ .wres) (m_banks : μ .banks) (m_ten : μ .ten) :
    Keeps μ σ (State.cqPush s w data) := by
  unfold State.cqPush
  repeat' first
    | with_reducible assumption
    | intro _
    | with_reducible apply Keeps.ite
    | ((fail_if_no_progress extract_lets +onlyGivenNames x); first | (refine Keeps.bind x ?_ ?_; (try subst x); rotate_left; intro hx; rotate_left) | skip)
    | with_reducible apply Keeps.exDelay
    | with_reducible apply Keeps.plainW
    | with_reducible apply Keeps.setBank
    | with_reducible apply Keeps.setTctx
    | split
    | simp only [id_eq]

theorem Keeps.of_execCommandPush (p : Path) (data : Word) (s : State) (hs : Keeps μ σ s) (m_space : μ .space) (m_rdata : μ .rdata) (m_wres : μ .wres) (m_banks : μ .banks) (m_ten : μ .ten) :
    KeepsO μ σ (execCommandPush p data s) := by
  unfold execCommandPush
  repeat' first
    | with_reducible assumption
    | intro _
    | with_reducible apply KeepsO.next
    | with_reducible apply Keeps.ite
    | with_reducible apply Keeps.byPath
    | with_reducible apply Keeps.cqPush

theorem Keeps.exPass (s : State) (hs : Keeps μ σ s) (m_space : μ .space) (m_ten : μ .ten) :
    Keeps μ σ (State.exPass s) := by
  unfold State.exPass
  repeat' first
    | with_reducible assumption
    | intro _
    | with_reducible apply Keeps.ite
    | ((fail_if_no_progress extract_lets +onlyGivenNames x); first | (refine Keeps.bind x ?_ ?_; (try subst x); rotate_left; intro hx; rotate_left) | skip)
    | with_reducible apply Keeps.each
    | with_reducible apply Keeps.exDelay
    | split
    | simp only [id_eq]

theorem Keeps.ringDb (s : State) (d : ℕ) (hs : Keeps μ σ s) (m_space : μ .space) (m_free : μ .free) (m_ten : μ .ten) (m_ic : μ .ic) :
    Keeps μ σ (State.ringDb s d) := by
  unfold State.ringDb
  repeat' first
    | with_reducible assumption
    | intro _
    | with_reducible apply Keeps.ite
    | with_reducible apply Keeps.icSet

theorem Keeps.cmdRun (s : State) (t : ℕ) (c : CmdEntry) (hs : Keeps μ σ s) (m_space : μ .space) (m_free : μ .free) (m_wres : μ .wres) (m_log : μ .log) (m_ten : μ .ten) (m_ic : μ .ic) (m_broken : μ .broken) (m_safe : μ .safe) (m_cmds : μ .cmds) (m_cd : μ .cd) (m_fwd : μ .fwd) (m_sk : μ .sk) (m_cl : μ .cl) (m_le : μ .le) :
    Keeps μ σ (State.cmdRun s t c) := by
  unfold State.cmdRun
  repeat' first
    | with_reducible assumption
    | intro _
    | with_reducible apply Keeps.ite
    | ((fail_if_no_progress extract_lets +onlyGivenNames x); first | (refine Keeps.bind x ?_ ?_; (try subst x); rotate_left; intro hx; rotate_left) | skip)
    | with_reducible apply Keeps.auditW
    | with_reducible apply Keeps.cmdResult
    | with_reducible apply Keeps.fresh
    | with_reducible apply Keeps.lePush
    | with_reducible apply Keeps.ptWrite
    | with_reducible apply Keeps.ringDb
    | with_reducible apply Keeps.rwHandover
    | with_reducible apply Keeps.of_fst (by assumption)
    | with_reducible apply Keeps.of_snd (by assumption)
    | split
    | simp only [id_eq]

theorem Keeps.cmdExec (s : State) (op : ℕ) (hs : Keeps μ σ s) (m_space : μ .space) (m_now : μ .now) (m_campusOff : μ .campusOff) (m_free : μ .free) (m_wres : μ .wres) (m_log : μ .log) (m_ten : μ .ten) (m_exLast : μ .exLast) (m_exAt : μ .exAt) (m_ic : μ .ic) (m_broken : μ .broken) (m_safe : μ .safe) (m_cmds : μ .cmds) (m_cd : μ .cd) (m_fwd : μ .fwd) (m_sk : μ .sk) (m_cl : μ .cl) (m_le : μ .le) :
    Keeps μ σ (State.cmdExec s op) := by
  unfold State.cmdExec
  repeat' first
    | with_reducible assumption
    | intro _
    | with_reducible apply Keeps.ite
    | ((fail_if_no_progress extract_lets +onlyGivenNames x); first | (refine Keeps.bind x ?_ ?_; (try subst x); rotate_left; intro hx; rotate_left) | skip)
    | with_reducible apply Keeps.cmdRun
    | with_reducible apply Keeps.exPass
    | with_reducible apply Keeps.inc
    | with_reducible apply Keeps.reach
    | with_reducible apply Keeps.setTctx
    | simp only [Keeps.upd_exLast_exAt m_exLast m_exAt]
    | split
    | simp only [id_eq]

theorem Keeps.of_execCmdPwrite (s : State) (hs : Keeps μ σ s) (m_space : μ .space) (m_now : μ .now) (m_campusOff : μ .campusOff) (m_free : μ .free) (m_wres : μ .wres) (m_log : μ .log) (m_ten : μ .ten) (m_exLast : μ .exLast) (m_exAt : μ .exAt) (m_ic : μ .ic) (m_broken : μ .broken) (m_safe : μ .safe) (m_cmds : μ .cmds) (m_cd : μ .cd) (m_fwd : μ .fwd) (m_sk : μ .sk) (m_cl : μ .cl) (m_le : μ .le) :
    KeepsO μ σ (execCmdPwrite s) := by
  unfold execCmdPwrite
  repeat' first
    | with_reducible assumption
    | intro _
    | with_reducible apply KeepsO.next
    | with_reducible apply Keeps.ite
    | ((fail_if_no_progress extract_lets +onlyGivenNames x); first | (refine Keeps.bind x ?_ ?_; (try subst x); rotate_left; intro hx; rotate_left) | (refine KeepsO.bind x ?_ ?_; (try subst x); rotate_left; intro hx; rotate_left) | skip)
    | with_reducible apply Keeps.cmdExec
    | split
    | simp only [id_eq]

theorem Keeps.of_execCmdPrel (s : State) (hs : Keeps μ σ s) (m_space : μ .space) (m_now : μ .now) (m_campusOff : μ .campusOff) (m_free : μ .free) (m_wres : μ .wres) (m_log : μ .log) (m_ten : μ .ten) (m_exLast : μ .exLast) (m_exAt : μ .exAt) (m_ic : μ .ic) (m_broken : μ .broken) (m_safe : μ .safe) (m_cmds : μ .cmds) (m_cd : μ .cd) (m_fwd : μ .fwd) (m_sk : μ .sk) (m_cl : μ .cl) (m_le : μ .le) :
    KeepsO μ σ (execCmdPrel s) := by
  unfold execCmdPrel
  repeat' first
    | with_reducible assumption
    | intro _
    | with_reducible apply KeepsO.next
    | with_reducible apply Keeps.ite
    | ((fail_if_no_progress extract_lets +onlyGivenNames x); first | (refine Keeps.bind x ?_ ?_; (try subst x); rotate_left; intro hx; rotate_left) | (refine KeepsO.bind x ?_ ?_; (try subst x); rotate_left; intro hx; rotate_left) | skip)
    | with_reducible apply Keeps.cmdExec
    | split
    | simp only [id_eq]

theorem Keeps.of_execCmdLword (s : State) (hs : Keeps μ σ s) (m_space : μ .space) (m_now : μ .now) (m_campusOff : μ .campusOff) (m_free : μ .free) (m_wres : μ .wres) (m_log : μ .log) (m_ten : μ .ten) (m_exLast : μ .exLast) (m_exAt : μ .exAt) (m_ic : μ .ic) (m_broken : μ .broken) (m_safe : μ .safe) (m_cmds : μ .cmds) (m_cd : μ .cd) (m_fwd : μ .fwd) (m_sk : μ .sk) (m_cl : μ .cl) (m_le : μ .le) :
    KeepsO μ σ (execCmdLword s) := by
  unfold execCmdLword
  repeat' first
    | with_reducible assumption
    | intro _
    | with_reducible apply KeepsO.next
    | with_reducible apply Keeps.ite
    | ((fail_if_no_progress extract_lets +onlyGivenNames x); first | (refine Keeps.bind x ?_ ?_; (try subst x); rotate_left; intro hx; rotate_left) | (refine KeepsO.bind x ?_ ?_; (try subst x); rotate_left; intro hx; rotate_left) | skip)
    | with_reducible apply Keeps.cmdExec
    | split
    | simp only [id_eq]

theorem Keeps.of_execCmdLswap (s : State) (hs : Keeps μ σ s) (m_space : μ .space) (m_now : μ .now) (m_campusOff : μ .campusOff) (m_free : μ .free) (m_wres : μ .wres) (m_log : μ .log) (m_ten : μ .ten) (m_exLast : μ .exLast) (m_exAt : μ .exAt) (m_ic : μ .ic) (m_broken : μ .broken) (m_safe : μ .safe) (m_cmds : μ .cmds) (m_cd : μ .cd) (m_fwd : μ .fwd) (m_sk : μ .sk) (m_cl : μ .cl) (m_le : μ .le) :
    KeepsO μ σ (execCmdLswap s) := by
  unfold execCmdLswap
  repeat' first
    | with_reducible assumption
    | intro _
    | with_reducible apply KeepsO.next
    | with_reducible apply Keeps.ite
    | ((fail_if_no_progress extract_lets +onlyGivenNames x); first | (refine Keeps.bind x ?_ ?_; (try subst x); rotate_left; intro hx; rotate_left) | (refine KeepsO.bind x ?_ ?_; (try subst x); rotate_left; intro hx; rotate_left) | skip)
    | with_reducible apply Keeps.cmdExec
    | split
    | simp only [id_eq]

theorem Keeps.of_execCmdRemote (s : State) (hs : Keeps μ σ s) (m_space : μ .space) (m_now : μ .now) (m_campusOff : μ .campusOff) (m_free : μ .free) (m_wres : μ .wres) (m_log : μ .log) (m_ten : μ .ten) (m_exLast : μ .exLast) (m_exAt : μ .exAt) (m_ic : μ .ic) (m_broken : μ .broken) (m_safe : μ .safe) (m_cmds : μ .cmds) (m_cd : μ .cd) (m_fwd : μ .fwd) (m_sk : μ .sk) (m_cl : μ .cl) (m_le : μ .le) :
    KeepsO μ σ (execCmdRemote s) := by
  unfold execCmdRemote
  repeat' first
    | with_reducible assumption
    | intro _
    | with_reducible apply KeepsO.next
    | with_reducible apply Keeps.ite
    | ((fail_if_no_progress extract_lets +onlyGivenNames x); first | (refine Keeps.bind x ?_ ?_; (try subst x); rotate_left; intro hx; rotate_left) | (refine KeepsO.bind x ?_ ?_; (try subst x); rotate_left; intro hx; rotate_left) | skip)
    | with_reducible apply Keeps.cmdExec
    | split
    | simp only [id_eq]

theorem Keeps.of_execCmdRing (s : State) (hs : Keeps μ σ s) (m_space : μ .space) (m_now : μ .now) (m_campusOff : μ .campusOff) (m_free : μ .free) (m_wres : μ .wres) (m_log : μ .log) (m_ten : μ .ten) (m_exLast : μ .exLast) (m_exAt : μ .exAt) (m_ic : μ .ic) (m_broken : μ .broken) (m_safe : μ .safe) (m_cmds : μ .cmds) (m_cd : μ .cd) (m_fwd : μ .fwd) (m_sk : μ .sk) (m_cl : μ .cl) (m_le : μ .le) :
    KeepsO μ σ (execCmdRing s) := by
  unfold execCmdRing
  repeat' first
    | with_reducible assumption
    | intro _
    | with_reducible apply KeepsO.next
    | with_reducible apply Keeps.ite
    | ((fail_if_no_progress extract_lets +onlyGivenNames x); first | (refine Keeps.bind x ?_ ?_; (try subst x); rotate_left; intro hx; rotate_left) | (refine KeepsO.bind x ?_ ?_; (try subst x); rotate_left; intro hx; rotate_left) | skip)
    | with_reducible apply Keeps.cmdExec
    | split
    | simp only [id_eq]

theorem Keeps.dbRing (s : State) (w : Who) (data : Word) (hs : Keeps μ σ s) (m_space : μ .space) (m_free : μ .free) (m_wres : μ .wres) (m_log : μ .log) (m_ten : μ .ten) (m_ic : μ .ic) :
    Keeps μ σ (State.dbRing s w data) := by
  unfold State.dbRing
  repeat' first
    | with_reducible assumption
    | intro _
    | with_reducible apply Keeps.ite
    | with_reducible apply Keeps.plainW
    | with_reducible apply Keeps.refuseWrite
    | with_reducible apply Keeps.ringDb

theorem Keeps.of_execDoorbellRing (p : Path) (data : Word) (s : State) (hs : Keeps μ σ s) (m_space : μ .space) (m_free : μ .free) (m_rdata : μ .rdata) (m_wres : μ .wres) (m_banks : μ .banks) (m_log : μ .log) (m_ten : μ .ten) (m_ic : μ .ic) :
    KeepsO μ σ (execDoorbellRing p data s) := by
  unfold execDoorbellRing
  repeat' first
    | with_reducible assumption
    | intro _
    | with_reducible apply KeepsO.next
    | with_reducible apply Keeps.ite
    | with_reducible apply Keeps.byPath
    | with_reducible apply Keeps.dbRing

theorem Keeps.tenReset (s : State) (t : ℕ) (hs : Keeps μ σ s) (m_space : μ .space) (m_free : μ .free) (m_ten : μ .ten) (m_ic : μ .ic) (m_sk : μ .sk) (m_cl : μ .cl) (m_zb : μ .zb) :
    Keeps μ σ (State.tenReset s t) := by
  unfold State.tenReset
  repeat' first
    | with_reducible assumption
    | intro _
    | with_reducible apply Keeps.ite
    | ((fail_if_no_progress extract_lets +onlyGivenNames x); first | (refine Keeps.bind x ?_ ?_; (try subst x); rotate_left; intro hx; rotate_left) | skip)
    | with_reducible apply Keeps.clTenantReset
    | with_reducible apply Keeps.inc
    | with_reducible apply Keeps.put
    | with_reducible apply Keeps.setTctx
    | with_reducible apply Keeps.skTenantReset
    | with_reducible apply Keeps.zbTenantReset

theorem Keeps.tenResetGo (s : State) (t : ℕ) (hs : Keeps μ σ s) (m_space : μ .space) (m_free : μ .free) (m_ten : μ .ten) (m_ic : μ .ic) (m_sk : μ .sk) (m_cl : μ .cl) (m_zb : μ .zb) :
    Keeps μ σ (State.tenResetGo s t) := by
  unfold State.tenResetGo
  repeat' first
    | with_reducible assumption
    | intro _
    | with_reducible apply Keeps.ite
    | with_reducible apply Keeps.put
    | with_reducible apply Keeps.tenReset
    | split

theorem Keeps.tenResetReq (s : State) (w : Who) (t : ℕ) (a : ℕ) (data : Word) (hs : Keeps μ σ s) (m_space : μ .space) (m_free : μ .free) (m_wres : μ .wres) (m_log : μ .log) (m_ten : μ .ten) (m_ic : μ .ic) (m_sk : μ .sk) (m_cl : μ .cl) (m_zb : μ .zb) :
    Keeps μ σ (State.tenResetReq s w t a data) := by
  unfold State.tenResetReq
  repeat' first
    | with_reducible assumption
    | intro _
    | with_reducible apply Keeps.ite
    | with_reducible apply Keeps.auditW
    | with_reducible apply Keeps.refuseWrite
    | with_reducible apply Keeps.tenResetGo

theorem Keeps.of_execTenantResetRequest (p : Path) (t : Fin 256) (s : State) (hs : Keeps μ σ s) (m_space : μ .space) (m_free : μ .free) (m_rdata : μ .rdata) (m_wres : μ .wres) (m_banks : μ .banks) (m_log : μ .log) (m_ten : μ .ten) (m_ic : μ .ic) (m_sk : μ .sk) (m_cl : μ .cl) (m_zb : μ .zb) :
    KeepsO μ σ (execTenantResetRequest p t s) := by
  unfold execTenantResetRequest
  repeat' first
    | with_reducible assumption
    | intro _
    | with_reducible apply KeepsO.next
    | with_reducible apply Keeps.ite
    | with_reducible apply Keeps.byPath
    | with_reducible apply Keeps.tenResetReq

theorem Keeps.of_execTenantResetStart (t : Fin 256) (s : State) (hs : Keeps μ σ s) (m_space : μ .space) (m_now : μ .now) (m_campusOff : μ .campusOff) (m_free : μ .free) (m_ten : μ .ten) (m_ic : μ .ic) (m_sk : μ .sk) (m_cl : μ .cl) (m_zb : μ .zb) :
    KeepsO μ σ (execTenantResetStart t s) := by
  unfold execTenantResetStart
  repeat' first
    | with_reducible assumption
    | intro _
    | with_reducible apply KeepsO.next
    | with_reducible apply Keeps.ite
    | with_reducible apply Keeps.reach
    | with_reducible apply Keeps.tenReset

theorem Keeps.fallback (s : State) (e : ℕ) (hs : Keeps μ σ s) (m_space : μ .space) (m_free : μ .free) (m_wres : μ .wres) (m_log : μ .log) (m_ten : μ .ten) (m_broken : μ .broken) (m_safe : μ .safe) (m_cmds : μ .cmds) (m_cd : μ .cd) (m_fwd : μ .fwd) (m_sk : μ .sk) :
    Keeps μ σ (State.fallback s e) := by
  unfold State.fallback
  repeat' first
    | with_reducible assumption
    | intro _
    | with_reducible apply Keeps.ite
    | ((fail_if_no_progress extract_lets +onlyGivenNames x); first | (refine Keeps.bind x ?_ ?_; (try subst x); rotate_left; intro hx; rotate_left) | skip)
    | with_reducible apply Keeps.inc
    | with_reducible apply Keeps.ptWrite
    | simp only [Keeps.upd_fwd m_fwd]
    | split
    | simp only [id_eq]

theorem Keeps.fallbacks (s : State) (t : ℕ) (hs : Keeps μ σ s) (m_space : μ .space) (m_free : μ .free) (m_wres : μ .wres) (m_log : μ .log) (m_ten : μ .ten) (m_broken : μ .broken) (m_safe : μ .safe) (m_cmds : μ .cmds) (m_cd : μ .cd) (m_fwd : μ .fwd) (m_sk : μ .sk) :
    Keeps μ σ (State.fallbacks s t) := by
  unfold State.fallbacks
  repeat' first
    | with_reducible assumption
    | intro _
    | with_reducible apply Keeps.ite
    | ((fail_if_no_progress extract_lets +onlyGivenNames x); first | (refine Keeps.bind x ?_ ?_; (try subst x); rotate_left; intro hx; rotate_left) | skip)
    | with_reducible apply Keeps.each
    | with_reducible apply Keeps.fallback
    | split
    | simp only [id_eq]

theorem Keeps.resume (s : State) (t : ℕ) (hs : Keeps μ σ s) (m_fwd : μ .fwd) (m_le : μ .le) :
    Keeps μ σ (State.resume s t) := by
  unfold State.resume
  repeat' first
    | with_reducible assumption
    | intro _
    | with_reducible apply Keeps.ite
    | ((fail_if_no_progress extract_lets +onlyGivenNames x); first | (refine Keeps.bind x ?_ ?_; (try subst x); rotate_left; intro hx; rotate_left) | skip)
    | with_reducible apply Keeps.sendPresent
    | simp only [Keeps.upd_le m_le]
    | split
    | simp only [id_eq]

theorem Keeps.holdEnd (s : State) (t : ℕ) (hs : Keeps μ σ s) (m_space : μ .space) (m_now : μ .now) (m_campusOff : μ .campusOff) (m_free : μ .free) (m_wres : μ .wres) (m_log : μ .log) (m_ten : μ .ten) (m_broken : μ .broken) (m_safe : μ .safe) (m_cmds : μ .cmds) (m_cd : μ .cd) (m_fwd : μ .fwd) (m_sk : μ .sk) (m_cl : μ .cl) (m_le : μ .le) :
    Keeps μ σ (State.holdEnd s t) := by
  unfold State.holdEnd
  repeat' first
    | with_reducible assumption
    | intro _
    | with_reducible apply Keeps.ite
    | ((fail_if_no_progress extract_lets +onlyGivenNames x); first | (refine Keeps.bind x ?_ ?_; (try subst x); rotate_left; intro hx; rotate_left) | skip)
    | with_reducible apply Keeps.fallbacks
    | with_reducible apply Keeps.fresh
    | with_reducible apply Keeps.post
    | with_reducible apply Keeps.put
    | with_reducible apply Keeps.reach
    | with_reducible apply Keeps.resume
    | split
    | simp only [id_eq]

theorem Keeps.of_execTenantHoldEnd (t : Fin 256) (s : State) (hs : Keeps μ σ s) (m_space : μ .space) (m_now : μ .now) (m_campusOff : μ .campusOff) (m_free : μ .free) (m_wres : μ .wres) (m_log : μ .log) (m_ten : μ .ten) (m_broken : μ .broken) (m_safe : μ .safe) (m_cmds : μ .cmds) (m_cd : μ .cd) (m_fwd : μ .fwd) (m_sk : μ .sk) (m_cl : μ .cl) (m_le : μ .le) :
    KeepsO μ σ (execTenantHoldEnd t s) := by
  unfold execTenantHoldEnd
  repeat' first
    | with_reducible assumption
    | intro _
    | with_reducible apply KeepsO.next
    | with_reducible apply Keeps.ite
    | ((fail_if_no_progress extract_lets +onlyGivenNames x); first | (refine Keeps.bind x ?_ ?_; (try subst x); rotate_left; intro hx; rotate_left) | (refine KeepsO.bind x ?_ ?_; (try subst x); rotate_left; intro hx; rotate_left) | skip)
    | with_reducible apply Keeps.holdEnd
    | split
    | simp only [id_eq]

theorem Keeps.quotaWindow (s : State) (hs : Keeps μ σ s) (m_space : μ .space) :
    Keeps μ σ (State.quotaWindow s) := by
  unfold State.quotaWindow
  repeat' first
    | with_reducible assumption
    | intro _
    | with_reducible apply Keeps.ite
    | ((fail_if_no_progress extract_lets +onlyGivenNames x); first | (refine Keeps.bind x ?_ ?_; (try subst x); rotate_left; intro hx; rotate_left) | skip)
    | with_reducible apply Keeps.each
    | with_reducible apply Keeps.put

theorem Keeps.of_execQuotaWindow (s : State) (hs : Keeps μ σ s) (m_space : μ .space) (m_le : μ .le) :
    KeepsO μ σ (execQuotaWindow s) := by
  unfold execQuotaWindow
  repeat' first
    | with_reducible assumption
    | intro _
    | with_reducible apply KeepsO.next
    | with_reducible apply Keeps.ite
    | ((fail_if_no_progress extract_lets +onlyGivenNames x); first | (refine Keeps.bind x ?_ ?_; (try subst x); rotate_left; intro hx; rotate_left) | (refine KeepsO.bind x ?_ ?_; (try subst x); rotate_left; intro hx; rotate_left) | skip)
    | with_reducible apply Keeps.quotaWindow
    | simp only [Keeps.upd_le m_le]
    | split
    | simp only [id_eq]

theorem Keeps.throttleJudge (s : State) (t : ℕ) (hs : Keeps μ σ s) (m_space : μ .space) (m_ten : μ .ten) :
    Keeps μ σ (State.throttleJudge s t) := by
  unfold State.throttleJudge
  repeat' first
    | with_reducible assumption
    | intro _
    | with_reducible apply Keeps.ite
    | ((fail_if_no_progress extract_lets +onlyGivenNames x); first | (refine Keeps.bind x ?_ ?_; (try subst x); rotate_left; intro hx; rotate_left) | skip)
    | with_reducible apply Keeps.exDelay
    | with_reducible apply Keeps.put
    | split
    | simp only [id_eq]

theorem Keeps.tenCtxWrite (s : State) (w : Who) (a : ℕ) (data : Word) (hs : Keeps μ σ s) (m_space : μ .space) (m_free : μ .free) (m_wres : μ .wres) (m_banks : μ .banks) (m_log : μ .log) (m_ten : μ .ten) (m_ic : μ .ic) (m_sk : μ .sk) (m_cl : μ .cl) (m_zb : μ .zb) :
    Keeps μ σ (State.tenCtxWrite s w a data) := by
  unfold State.tenCtxWrite
  repeat' first
    | with_reducible assumption
    | intro _
    | with_reducible apply Keeps.ite
    | with_reducible apply Keeps.cfgWrite
    | with_reducible apply Keeps.cqPush
    | with_reducible apply Keeps.ctxCfgWrite
    | with_reducible apply Keeps.kindWrite
    | with_reducible apply Keeps.plainW
    | with_reducible apply Keeps.qPop
    | with_reducible apply Keeps.refuseWrite
    | with_reducible apply Keeps.setBank
    | with_reducible apply Keeps.tenResetReq
    | with_reducible apply Keeps.throttleJudge
    | with_reducible apply Keeps.winWrite
    | split
    | simp only [id_eq]

theorem Keeps.tenWrite (s : State) (w : Who) (a : ℕ) (data : Word) (hs : Keeps μ σ s) (m_space : μ .space) (m_free : μ .free) (m_wres : μ .wres) (m_banks : μ .banks) (m_log : μ .log) (m_ten : μ .ten) (m_ic : μ .ic) (m_sk : μ .sk) (m_cl : μ .cl) (m_zb : μ .zb) :
    Keeps μ σ (State.tenWrite s w a data) := by
  unfold State.tenWrite
  repeat' first
    | with_reducible assumption
    | intro _
    | with_reducible apply Keeps.ite
    | with_reducible apply Keeps.cfgWrite
    | with_reducible apply Keeps.dbRing
    | with_reducible apply Keeps.kindWrite
    | with_reducible apply Keeps.refuseWrite
    | with_reducible apply Keeps.tenCtxWrite

end Sys2Proof.Machine
end

