-- ==== Sys2Proof/Laws/KeepsIntc.lean ====
section
/-! SUPPORT. What each operation of Machine/Intc.lean keeps: the queue, the clock's direction, the canonical form of the register
space, and every part of the state it does not name (`Keeps`). -/

set_option linter.unusedTactic false
set_option linter.unreachableTactic false
set_option linter.unusedSimpArgs false
set_option linter.unusedVariables false

namespace Sys2Proof.Machine

variable {μ : Part → Prop} {σ : State}

theorem Keeps.icLine (s : State) (n : ℕ) (hs : Keeps μ σ s) (m_space : μ .space) (m_free : μ .free) (m_ten : μ .ten) (m_ic : μ .ic) :
    Keeps μ σ (State.icLine s n) := by
  unfold State.icLine
  repeat' first
    | with_reducible assumption
    | intro _
    | with_reducible apply Keeps.ite
    | ((fail_if_no_progress extract_lets +onlyGivenNames x); first | (refine Keeps.bind x ?_ ?_; (try subst x); rotate_left; intro hx; rotate_left) | skip)
    | with_reducible apply Keeps.icUpd

theorem Keeps.icCount (s : State) (n : ℕ) (c : Option (ℕ × ℕ)) (hs : Keeps μ σ s) (m_ic : μ .ic) :
    Keeps μ σ (State.icCount s n c) := by
  unfold State.icCount
  repeat' first
    | with_reducible assumption
    | intro _
    | with_reducible apply Keeps.ite
    | ((fail_if_no_progress extract_lets +onlyGivenNames x); first | (refine Keeps.bind x ?_ ?_; (try subst x); rotate_left; intro hx; rotate_left) | skip)
    | simp only [Keeps.upd_ic m_ic]
    | split
    | simp only [id_eq]

theorem Keeps.icFilter (s : State) (n : ℕ) (cycles : ℕ) (hs : Keeps μ σ s) (m_space : μ .space) (m_free : μ .free) (m_ten : μ .ten) (m_ic : μ .ic) :
    Keeps μ σ (State.icFilter s n cycles) := by
  unfold State.icFilter
  repeat' first
    | with_reducible assumption
    | intro _
    | with_reducible apply Keeps.ite
    | ((fail_if_no_progress extract_lets +onlyGivenNames x); first | (refine Keeps.bind x ?_ ?_; (try subst x); rotate_left; intro hx; rotate_left) | skip)
    | with_reducible apply Keeps.icCount
    | with_reducible apply Keeps.icLine
    | split
    | simp only [id_eq]

theorem Keeps.of_execIcLineChange (n : Fin 256) (cycles : ℕ) (s : State) (hs : Keeps μ σ s) (m_space : μ .space) (m_free : μ .free) (m_ten : μ .ten) (m_ic : μ .ic) :
    KeepsO μ σ (execIcLineChange n cycles s) := by
  unfold execIcLineChange
  repeat' first
    | with_reducible assumption
    | intro _
    | with_reducible apply KeepsO.next
    | with_reducible apply Keeps.ite
    | ((fail_if_no_progress extract_lets +onlyGivenNames x); first | (refine Keeps.bind x ?_ ?_; (try subst x); rotate_left; intro hx; rotate_left) | (refine KeepsO.bind x ?_ ?_; (try subst x); rotate_left; intro hx; rotate_left) | skip)
    | with_reducible apply Keeps.icFilter
    | split
    | simp only [id_eq]

theorem Keeps.icLoad (s : State) (hs : Keeps μ σ s) (m_space : μ .space) (m_free : μ .free) (m_ten : μ .ten) (m_ic : μ .ic) :
    Keeps μ σ (State.icLoad s) := by
  unfold State.icLoad
  repeat' first
    | with_reducible assumption
    | intro _
    | with_reducible apply Keeps.ite
    | ((fail_if_no_progress extract_lets +onlyGivenNames x); first | (refine Keeps.bind x ?_ ?_; (try subst x); rotate_left; intro hx; rotate_left) | skip)
    | with_reducible apply Keeps.each
    | with_reducible apply Keeps.icCount
    | with_reducible apply Keeps.icLine
    | split
    | simp only [id_eq]

theorem Keeps.icLinkUp (s : State) (hs : Keeps μ σ s) (m_space : μ .space) (m_free : μ .free) (m_ten : μ .ten) (m_ic : μ .ic) :
    Keeps μ σ (State.icLinkUp s) := by
  unfold State.icLinkUp
  repeat' first
    | with_reducible assumption
    | intro _
    | with_reducible apply Keeps.ite
    | ((fail_if_no_progress extract_lets +onlyGivenNames x); first | (refine Keeps.bind x ?_ ?_; (try subst x); rotate_left; intro hx; rotate_left) | skip)
    | with_reducible apply Keeps.each
    | with_reducible apply Keeps.icFilter
    | split
    | simp only [id_eq]

theorem Keeps.crossMerge (s : State) (g : ℕ) (n : ℕ) (hs : Keeps μ σ s) (m_space : μ .space) (m_free : μ .free) (m_ten : μ .ten) (m_ic : μ .ic) :
    Keeps μ σ (State.crossMerge s g n) := by
  unfold State.crossMerge
  repeat' first
    | with_reducible assumption
    | intro _
    | with_reducible apply Keeps.ite
    | ((fail_if_no_progress extract_lets +onlyGivenNames x); first | (refine Keeps.bind x ?_ ?_; (try subst x); rotate_left; intro hx; rotate_left) | skip)
    | with_reducible apply Keeps.icPulse
    | with_reducible apply Keeps.inc
    | with_reducible apply Keeps.setWord

theorem Keeps.of_execIcEventPulse (n : Fin 256) (merged : Option (Fin 11)) (s : State) (hs : Keeps μ σ s) (m_space : μ .space) (m_free : μ .free) (m_ten : μ .ten) (m_ic : μ .ic) :
    KeepsO μ σ (execIcEventPulse n merged s) := by
  unfold execIcEventPulse
  repeat' first
    | with_reducible assumption
    | intro _
    | with_reducible apply KeepsO.next
    | with_reducible apply Keeps.ite
    | with_reducible apply Keeps.crossMerge
    | with_reducible apply Keeps.icPulse
    | split

theorem Keeps.setOffer (s : State) (t : ℕ) (o : Option Offer) (hs : Keeps μ σ s) (m_ic : μ .ic) :
    Keeps μ σ (State.setOffer s t o) := by
  unfold State.setOffer
  repeat' first
    | with_reducible assumption
    | intro _
    | with_reducible apply Keeps.ite
    | ((fail_if_no_progress extract_lets +onlyGivenNames x); first | (refine Keeps.bind x ?_ ?_; (try subst x); rotate_left; intro hx; rotate_left) | skip)
    | simp only [Keeps.upd_ic m_ic]

theorem Keeps.icLatch (s : State) (t : ℕ) (hs : Keeps μ σ s) (m_ic : μ .ic) :
    Keeps μ σ (State.icLatch s t) := by
  unfold State.icLatch
  repeat' first
    | with_reducible assumption
    | intro _
    | with_reducible apply Keeps.ite
    | with_reducible apply Keeps.setOffer
    | split

theorem Keeps.of_execIcOfferLatch (t : Fin 8) (s : State) (hs : Keeps μ σ s) (m_ic : μ .ic) :
    KeepsO μ σ (execIcOfferLatch t s) := by
  unfold execIcOfferLatch
  repeat' first
    | with_reducible assumption
    | intro _
    | with_reducible apply KeepsO.next
    | with_reducible apply Keeps.ite
    | with_reducible apply Keeps.icLatch

theorem Keeps.icTake (s : State) (n : ℕ) (t : ℕ) (hs : Keeps μ σ s) (m_space : μ .space) (m_free : μ .free) (m_ten : μ .ten) (m_ic : μ .ic) :
    Keeps μ σ (State.icTake s n t) := by
  unfold State.icTake
  repeat' first
    | with_reducible assumption
    | intro _
    | with_reducible apply Keeps.ite
    | ((fail_if_no_progress extract_lets +onlyGivenNames x); first | (refine Keeps.bind x ?_ ?_; (try subst x); rotate_left; intro hx; rotate_left) | skip)
    | with_reducible apply Keeps.icUpd
    | simp only [Keeps.upd_ic m_ic]

theorem Keeps.icClaim (s : State) (t : ℕ) (hs : Keeps μ σ s) (m_space : μ .space) (m_free : μ .free) (m_ten : μ .ten) (m_ic : μ .ic) :
    Keeps μ σ (State.icClaim s t).1 := by
  unfold State.icClaim
  repeat' first
    | with_reducible assumption
    | intro _
    | with_reducible apply Keeps.ite
    | with_reducible apply Keeps.icTake
    | with_reducible apply Keeps.inc
    | with_reducible apply Keeps.setOffer
    | split

theorem Keeps.icClaimRead (s : State) (w : Who) (t : ℕ) (hs : Keeps μ σ s) (m_space : μ .space) (m_free : μ .free) (m_rdata : μ .rdata) (m_ten : μ .ten) (m_ic : μ .ic) :
    Keeps μ σ (State.icClaimRead s w t) := by
  unfold State.icClaimRead
  repeat' first
    | with_reducible assumption
    | intro _
    | with_reducible apply Keeps.ite
    | ((fail_if_no_progress extract_lets +onlyGivenNames x); first | (refine Keeps.bind x ?_ ?_; (try subst x); rotate_left; intro hx; rotate_left) | skip)
    | with_reducible apply Keeps.of_fst (by assumption)
    | with_reducible apply Keeps.icClaim
    | simp only [Keeps.upd_rdata m_rdata]

theorem Keeps.of_execIcClaim (p : Path) (t : Fin 8) (s : State) (hs : Keeps μ σ s) (m_space : μ .space) (m_free : μ .free) (m_rdata : μ .rdata) (m_wres : μ .wres) (m_banks : μ .banks) (m_ten : μ .ten) (m_ic : μ .ic) :
    KeepsO μ σ (execIcClaim p t s) := by
  unfold execIcClaim
  repeat' first
    | with_reducible assumption
    | intro _
    | with_reducible apply KeepsO.next
    | with_reducible apply Keeps.ite
    | with_reducible apply Keeps.byPath
    | with_reducible apply Keeps.icClaimRead

theorem Keeps.icComplete (s : State) (w : Who) (t : ℕ) (data : Word) (hs : Keeps μ σ s) (m_space : μ .space) (m_free : μ .free) (m_wres : μ .wres) (m_log : μ .log) (m_ten : μ .ten) (m_ic : μ .ic) :
    Keeps μ σ (State.icComplete s w t data) := by
  unfold State.icComplete
  repeat' first
    | with_reducible assumption
    | intro _
    | with_reducible apply Keeps.ite
    | with_reducible apply Keeps.icRelease
    | with_reducible apply Keeps.inc
    | with_reducible apply Keeps.plainW
    | with_reducible apply Keeps.refuseWrite

theorem Keeps.of_execIcComplete (p : Path) (t : Fin 8) (data : Word) (s : State) (hs : Keeps μ σ s) (m_space : μ .space) (m_free : μ .free) (m_rdata : μ .rdata) (m_wres : μ .wres) (m_banks : μ .banks) (m_log : μ .log) (m_ten : μ .ten) (m_ic : μ .ic) :
    KeepsO μ σ (execIcComplete p t data s) := by
  unfold execIcComplete
  repeat' first
    | with_reducible assumption
    | intro _
    | with_reducible apply KeepsO.next
    | with_reducible apply Keeps.ite
    | with_reducible apply Keeps.byPath
    | with_reducible apply Keeps.icComplete

theorem Keeps.dispClaim (s : State) (k : ℕ) (hs : Keeps μ σ s) (m_space : μ .space) (m_free : μ .free) (m_ten : μ .ten) (m_ic : μ .ic) (m_sk : μ .sk) :
    Keeps μ σ (State.dispClaim s k) := by
  unfold State.dispClaim
  repeat' first
    | with_reducible assumption
    | intro _
    | with_reducible apply Keeps.ite
    | ((fail_if_no_progress extract_lets +onlyGivenNames x); first | (refine Keeps.bind x ?_ ?_; (try subst x); rotate_left; intro hx; rotate_left) | skip)
    | with_reducible apply Keeps.each
    | with_reducible apply Keeps.of_fst (by assumption)
    | with_reducible apply Keeps.icClaim
    | with_reducible apply Keeps.icRelease
    | with_reducible apply Keeps.setCore
    | with_reducible apply Keeps.skActivate

theorem Keeps.of_execDispatcherClaim (k : Fin 4) (s : State) (hs : Keeps μ σ s) (m_space : μ .space) (m_free : μ .free) (m_ten : μ .ten) (m_ic : μ .ic) (m_sk : μ .sk) :
    KeepsO μ σ (execDispatcherClaim k s) := by
  unfold execDispatcherClaim
  repeat' first
    | with_reducible assumption
    | intro _
    | with_reducible apply KeepsO.next
    | with_reducible apply Keeps.ite
    | with_reducible apply Keeps.dispClaim

theorem Keeps.of_execSk0InterruptTake (s : State) (hs : Keeps μ σ s) (m_space : μ .space) (m_sk : μ .sk) :
    KeepsO μ σ (execSk0InterruptTake s) := by
  unfold execSk0InterruptTake
  repeat' first
    | with_reducible assumption
    | intro _
    | with_reducible apply KeepsO.next
    | with_reducible apply Keeps.ite
    | with_reducible apply Keeps.sk0Trap

theorem Keeps.icBits (s : State) (k : ℕ) (data : Word) (f : ℕ → State → State) (hs : Keeps μ σ s) (hf : ∀ a0 a1, Keeps μ σ a1 → Keeps μ σ (f a0 a1)) :
    Keeps μ σ (State.icBits s k data f) := by
  unfold State.icBits
  repeat' first
    | with_reducible assumption
    | intro _
    | with_reducible apply Keeps.ite
    | with_reducible apply hf
    | with_reducible apply Keeps.each

theorem Keeps.icEn (s : State) (v : Bool) (n : ℕ) (hs : Keeps μ σ s) (m_ic : μ .ic) :
    Keeps μ σ (State.icEn s v n) := by
  unfold State.icEn
  repeat' first
    | with_reducible assumption
    | intro _
    | with_reducible apply Keeps.ite
    | ((fail_if_no_progress extract_lets +onlyGivenNames x); first | (refine Keeps.bind x ?_ ?_; (try subst x); rotate_left; intro hx; rotate_left) | skip)
    | simp only [Keeps.upd_ic m_ic]

theorem Keeps.icPendWrite (s : State) (w : Who) (k : ℕ) (set : Bool) (data : Word) (hs : Keeps μ σ s) (m_space : μ .space) (m_free : μ .free) (m_wres : μ .wres) (m_log : μ .log) (m_ten : μ .ten) (m_ic : μ .ic) :
    Keeps μ σ (State.icPendWrite s w k set data) := by
  unfold State.icPendWrite
  repeat' first
    | with_reducible assumption
    | intro _
    | with_reducible apply Keeps.ite
    | with_reducible apply Keeps.icBits
    | with_reducible apply Keeps.icClr
    | with_reducible apply Keeps.icSet
    | with_reducible apply Keeps.plainW
    | with_reducible apply Keeps.refuseWrite

theorem Keeps.icEnWrite (s : State) (w : Who) (k : ℕ) (v : Bool) (data : Word) (hs : Keeps μ σ s) (m_space : μ .space) (m_wres : μ .wres) (m_log : μ .log) (m_ten : μ .ten) (m_ic : μ .ic) :
    Keeps μ σ (State.icEnWrite s w k v data) := by
  unfold State.icEnWrite
  repeat' first
    | with_reducible assumption
    | intro _
    | with_reducible apply Keeps.ite
    | ((fail_if_no_progress extract_lets +onlyGivenNames x); first | (refine Keeps.bind x ?_ ?_; (try subst x); rotate_left; intro hx; rotate_left) | skip)
    | with_reducible apply Keeps.auditW
    | with_reducible apply Keeps.icBits
    | with_reducible apply Keeps.icEn
    | with_reducible apply Keeps.plainW
    | split
    | simp only [id_eq]

theorem Keeps.of_execIcPendSet (p : Path) (k : Fin 8) (data : Word) (s : State) (hs : Keeps μ σ s) (m_space : μ .space) (m_free : μ .free) (m_rdata : μ .rdata) (m_wres : μ .wres) (m_banks : μ .banks) (m_log : μ .log) (m_ten : μ .ten) (m_ic : μ .ic) :
    KeepsO μ σ (execIcPendSet p k data s) := by
  unfold execIcPendSet
  repeat' first
    | with_reducible assumption
    | intro _
    | with_reducible apply KeepsO.next
    | with_reducible apply Keeps.ite
    | with_reducible apply Keeps.byPath
    | with_reducible apply Keeps.icPendWrite

theorem Keeps.of_execIcPendClr (p : Path) (k : Fin 8) (data : Word) (s : State) (hs : Keeps μ σ s) (m_space : μ .space) (m_free : μ .free) (m_rdata : μ .rdata) (m_wres : μ .wres) (m_banks : μ .banks) (m_log : μ .log) (m_ten : μ .ten) (m_ic : μ .ic) :
    KeepsO μ σ (execIcPendClr p k data s) := by
  unfold execIcPendClr
  repeat' first
    | with_reducible assumption
    | intro _
    | with_reducible apply KeepsO.next
    | with_reducible apply Keeps.ite
    | with_reducible apply Keeps.byPath
    | with_reducible apply Keeps.icPendWrite

theorem Keeps.of_execIcEnSet (p : Path) (k : Fin 8) (data : Word) (s : State) (hs : Keeps μ σ s) (m_space : μ .space) (m_rdata : μ .rdata) (m_wres : μ .wres) (m_banks : μ .banks) (m_log : μ .log) (m_ten : μ .ten) (m_ic : μ .ic) :
    KeepsO μ σ (execIcEnSet p k data s) := by
  unfold execIcEnSet
  repeat' first
    | with_reducible assumption
    | intro _
    | with_reducible apply KeepsO.next
    | with_reducible apply Keeps.ite
    | with_reducible apply Keeps.byPath
    | with_reducible apply Keeps.icEnWrite

theorem Keeps.of_execIcEnClr (p : Path) (k : Fin 8) (data : Word) (s : State) (hs : Keeps μ σ s) (m_space : μ .space) (m_rdata : μ .rdata) (m_wres : μ .wres) (m_banks : μ .banks) (m_log : μ .log) (m_ten : μ .ten) (m_ic : μ .ic) :
    KeepsO μ σ (execIcEnClr p k data s) := by
  unfold execIcEnClr
  repeat' first
    | with_reducible assumption
    | intro _
    | with_reducible apply KeepsO.next
    | with_reducible apply Keeps.ite
    | with_reducible apply Keeps.byPath
    | with_reducible apply Keeps.icEnWrite

theorem Keeps.icWrite (s : State) (w : Who) (a : ℕ) (data : Word) (hs : Keeps μ σ s) (m_space : μ .space) (m_free : μ .free) (m_wres : μ .wres) (m_log : μ .log) (m_ten : μ .ten) (m_ic : μ .ic) :
    Keeps μ σ (State.icWrite s w a data) := by
  unfold State.icWrite
  repeat' first
    | with_reducible assumption
    | intro _
    | with_reducible apply Keeps.ite
    | ((fail_if_no_progress extract_lets +onlyGivenNames x); first | (refine Keeps.bind x ?_ ?_; (try subst x); rotate_left; intro hx; rotate_left) | skip)
    | with_reducible apply Keeps.cfgWrite
    | with_reducible apply Keeps.icComplete
    | with_reducible apply Keeps.icCount
    | with_reducible apply Keeps.icEnWrite
    | with_reducible apply Keeps.icPendWrite
    | with_reducible apply Keeps.kindWrite
    | with_reducible apply Keeps.refuseWrite
    | split
    | simp only [id_eq]

end Sys2Proof.Machine
end

