-- ==== Sys2Proof/Laws/KeepsPanel.lean ====
section
/-! SUPPORT. What each operation of Machine/Panel.lean keeps: the queue, the clock's direction, the canonical form of the register
space, and every part of the state it does not name (`Keeps`). -/

set_option linter.unusedTactic false
set_option linter.unreachableTactic false
set_option linter.unusedSimpArgs false
set_option linter.unusedVariables false

namespace Sys2Proof.Machine

variable {μ : Part → Prop} {σ : State}

theorem Keeps.setPnl (s : State) (x : PnlState) (hs : Keeps μ σ s) (m_pnl : μ .pnl) :
    Keeps μ σ (State.setPnl s x) := by
  unfold State.setPnl
  repeat' first
    | with_reducible assumption
    | intro _
    | with_reducible apply Keeps.ite
    | simp only [Keeps.upd_pnl m_pnl]

theorem Keeps.blinkVsync (s : State) (k : ℕ) (hs : Keeps μ σ s) (m_pnl : μ .pnl) :
    Keeps μ σ (State.blinkVsync s k) := by
  unfold State.blinkVsync
  repeat' first
    | with_reducible assumption
    | intro _
    | with_reducible apply Keeps.ite
    | ((fail_if_no_progress extract_lets +onlyGivenNames x); first | (refine Keeps.bind x ?_ ?_; (try subst x); rotate_left; intro hx; rotate_left) | skip)
    | with_reducible apply Keeps.setPnl

theorem Keeps.vsync (s : State) (hs : Keeps μ σ s) (m_space : μ .space) (m_pnl : μ .pnl) :
    Keeps μ σ (State.vsync s) := by
  unfold State.vsync
  repeat' first
    | with_reducible assumption
    | intro _
    | with_reducible apply Keeps.ite
    | ((fail_if_no_progress extract_lets +onlyGivenNames x); first | (refine Keeps.bind x ?_ ?_; (try subst x); rotate_left; intro hx; rotate_left) | skip)
    | with_reducible apply Keeps.blinkVsync
    | with_reducible apply Keeps.each
    | with_reducible apply Keeps.put
    | with_reducible apply Keeps.setPnl
    | split
    | simp only [id_eq]

theorem Keeps.pnlNow (s : State) (hs : Keeps μ σ s) (m_space : μ .space) (m_pnl : μ .pnl) :
    Keeps μ σ (State.pnlNow s) := by
  unfold State.pnlNow
  repeat' first
    | with_reducible assumption
    | intro _
    | with_reducible apply Keeps.ite
    | ((fail_if_no_progress extract_lets +onlyGivenNames x); first | (refine Keeps.bind x ?_ ?_; (try subst x); rotate_left; intro hx; rotate_left) | skip)
    | with_reducible apply Keeps.vsync
    | split
    | simp only [id_eq]

theorem Keeps.frameEnd (s : State) (hs : Keeps μ σ s) (m_space : μ .space) (m_now : μ .now) (m_campusOff : μ .campusOff) (m_cl : μ .cl) (m_pnl : μ .pnl) :
    Keeps μ σ (State.frameEnd s) := by
  unfold State.frameEnd
  repeat' first
    | with_reducible assumption
    | intro _
    | with_reducible apply Keeps.ite
    | ((fail_if_no_progress extract_lets +onlyGivenNames x); first | (refine Keeps.bind x ?_ ?_; (try subst x); rotate_left; intro hx; rotate_left) | skip)
    | with_reducible apply Keeps.put
    | with_reducible apply Keeps.reach
    | with_reducible apply Keeps.setPnl
    | with_reducible apply Keeps.vsync
    | split
    | simp only [id_eq]

theorem Keeps.of_execPnlFrameEnd (s : State) (hs : Keeps μ σ s) (m_space : μ .space) (m_now : μ .now) (m_campusOff : μ .campusOff) (m_cl : μ .cl) (m_pnl : μ .pnl) :
    KeepsO μ σ (execPnlFrameEnd s) := by
  unfold execPnlFrameEnd
  repeat' first
    | with_reducible assumption
    | intro _
    | with_reducible apply KeepsO.next
    | with_reducible apply Keeps.ite
    | ((fail_if_no_progress extract_lets +onlyGivenNames x); first | (refine Keeps.bind x ?_ ?_; (try subst x); rotate_left; intro hx; rotate_left) | (refine KeepsO.bind x ?_ ?_; (try subst x); rotate_left; intro hx; rotate_left) | skip)
    | with_reducible apply Keeps.frameEnd
    | split
    | simp only [id_eq]

theorem Keeps.underrun (s : State) (hs : Keeps μ σ s) (m_space : μ .space) (m_ten : μ .ten) (m_pnl : μ .pnl) :
    Keeps μ σ (State.underrun s) := by
  unfold State.underrun
  repeat' first
    | with_reducible assumption
    | intro _
    | with_reducible apply Keeps.ite
    | ((fail_if_no_progress extract_lets +onlyGivenNames x); first | (refine Keeps.bind x ?_ ?_; (try subst x); rotate_left; intro hx; rotate_left) | skip)
    | with_reducible apply Keeps.inc
    | with_reducible apply Keeps.postErr
    | with_reducible apply Keeps.put
    | with_reducible apply Keeps.setPnl

theorem Keeps.of_execPnlUnderrun (s : State) (hs : Keeps μ σ s) (m_space : μ .space) (m_ten : μ .ten) (m_pnl : μ .pnl) :
    KeepsO μ σ (execPnlUnderrun s) := by
  unfold execPnlUnderrun
  repeat' first
    | with_reducible assumption
    | intro _
    | with_reducible apply KeepsO.next
    | with_reducible apply Keeps.ite
    | with_reducible apply Keeps.underrun

theorem Keeps.vcomUpdate (s : State) (hs : Keeps μ σ s) (m_space : μ .space) (m_now : μ .now) (m_campusOff : μ .campusOff) (m_cl : μ .cl) (m_pnl : μ .pnl) :
    Keeps μ σ (State.vcomUpdate s) := by
  unfold State.vcomUpdate
  repeat' first
    | with_reducible assumption
    | intro _
    | with_reducible apply Keeps.ite
    | ((fail_if_no_progress extract_lets +onlyGivenNames x); first | (refine Keeps.bind x ?_ ?_; (try subst x); rotate_left; intro hx; rotate_left) | skip)
    | with_reducible apply Keeps.put
    | with_reducible apply Keeps.reach
    | with_reducible apply Keeps.setPnl

theorem Keeps.of_execPnlVcomUpdate (s : State) (hs : Keeps μ σ s) (m_space : μ .space) (m_now : μ .now) (m_campusOff : μ .campusOff) (m_cl : μ .cl) (m_pnl : μ .pnl) :
    KeepsO μ σ (execPnlVcomUpdate s) := by
  unfold execPnlVcomUpdate
  repeat' first
    | with_reducible assumption
    | intro _
    | with_reducible apply KeepsO.next
    | with_reducible apply Keeps.ite
    | with_reducible apply Keeps.vcomUpdate

theorem Keeps.pnlGo (s : State) (ps : ℕ) (hs : Keeps μ σ s) (m_space : μ .space) (m_pnl : μ .pnl) :
    Keeps μ σ (State.pnlGo s ps) := by
  unfold State.pnlGo
  repeat' first
    | with_reducible assumption
    | intro _
    | with_reducible apply Keeps.ite
    | ((fail_if_no_progress extract_lets +onlyGivenNames x); first | (refine Keeps.bind x ?_ ?_; (try subst x); rotate_left; intro hx; rotate_left) | skip)
    | with_reducible apply Keeps.put
    | with_reducible apply Keeps.setPnl

theorem Keeps.pnlUp (s : State) (hs : Keeps μ σ s) (m_space : μ .space) (m_pnl : μ .pnl) :
    Keeps μ σ (State.pnlUp s) := by
  unfold State.pnlUp
  repeat' first
    | with_reducible assumption
    | intro _
    | with_reducible apply Keeps.ite
    | ((fail_if_no_progress extract_lets +onlyGivenNames x); first | (refine Keeps.bind x ?_ ?_; (try subst x); rotate_left; intro hx; rotate_left) | skip)
    | with_reducible apply Keeps.pnlGo
    | with_reducible apply Keeps.pnlNow
    | split
    | simp only [id_eq]

theorem Keeps.of_execPnlPowerUpStart (s : State) (hs : Keeps μ σ s) (m_space : μ .space) (m_pnl : μ .pnl) :
    KeepsO μ σ (execPnlPowerUpStart s) := by
  unfold execPnlPowerUpStart
  repeat' first
    | with_reducible assumption
    | intro _
    | with_reducible apply KeepsO.next
    | with_reducible apply Keeps.ite
    | with_reducible apply Keeps.pnlUp

theorem Keeps.pnlDown (s : State) (hs : Keeps μ σ s) (m_space : μ .space) (m_pnl : μ .pnl) :
    Keeps μ σ (State.pnlDown s) := by
  unfold State.pnlDown
  repeat' first
    | with_reducible assumption
    | intro _
    | with_reducible apply Keeps.ite
    | ((fail_if_no_progress extract_lets +onlyGivenNames x); first | (refine Keeps.bind x ?_ ?_; (try subst x); rotate_left; intro hx; rotate_left) | skip)
    | with_reducible apply Keeps.pnlGo
    | with_reducible apply Keeps.pnlNow
    | split
    | simp only [id_eq]

theorem Keeps.of_execPnlPowerDownStart (s : State) (hs : Keeps μ σ s) (m_space : μ .space) (m_pnl : μ .pnl) :
    KeepsO μ σ (execPnlPowerDownStart s) := by
  unfold execPnlPowerDownStart
  repeat' first
    | with_reducible assumption
    | intro _
    | with_reducible apply KeepsO.next
    | with_reducible apply Keeps.ite
    | with_reducible apply Keeps.pnlDown

theorem Keeps.timingStop (s : State) (hs : Keeps μ σ s) (m_space : μ .space) (m_pnl : μ .pnl) :
    Keeps μ σ (State.timingStop s) := by
  unfold State.timingStop
  repeat' first
    | with_reducible assumption
    | intro _
    | with_reducible apply Keeps.ite
    | ((fail_if_no_progress extract_lets +onlyGivenNames x); first | (refine Keeps.bind x ?_ ?_; (try subst x); rotate_left; intro hx; rotate_left) | skip)
    | with_reducible apply Keeps.put
    | with_reducible apply Keeps.setPnl

theorem Keeps.timingStart (s : State) (hs : Keeps μ σ s) (m_pnl : μ .pnl) :
    Keeps μ σ (State.timingStart s) := by
  unfold State.timingStart
  repeat' first
    | with_reducible assumption
    | intro _
    | with_reducible apply Keeps.ite
    | ((fail_if_no_progress extract_lets +onlyGivenNames x); first | (refine Keeps.bind x ?_ ?_; (try subst x); rotate_left; intro hx; rotate_left) | skip)
    | with_reducible apply Keeps.blinkVsync
    | with_reducible apply Keeps.each
    | with_reducible apply Keeps.setPnl
    | split
    | simp only [id_eq]

theorem Keeps.pnlSeqEnd (s : State) (ps : ℕ) (hs : Keeps μ σ s) (m_space : μ .space) (m_pnl : μ .pnl) :
    Keeps μ σ (State.pnlSeqEnd s ps) := by
  unfold State.pnlSeqEnd
  repeat' first
    | with_reducible assumption
    | intro _
    | with_reducible apply Keeps.ite
    | ((fail_if_no_progress extract_lets +onlyGivenNames x); first | (refine Keeps.bind x ?_ ?_; (try subst x); rotate_left; intro hx; rotate_left) | skip)
    | with_reducible apply Keeps.pnlGo
    | with_reducible apply Keeps.put
    | with_reducible apply Keeps.setPnl

theorem Keeps.pnlStepTo (s : State) (hs : Keeps μ σ s) (m_space : μ .space) (m_pnl : μ .pnl) :
    Keeps μ σ (State.pnlStepTo s) := by
  unfold State.pnlStepTo
  repeat' first
    | with_reducible assumption
    | intro _
    | with_reducible apply Keeps.ite
    | ((fail_if_no_progress extract_lets +onlyGivenNames x); first | (refine Keeps.bind x ?_ ?_; (try subst x); rotate_left; intro hx; rotate_left) | skip)
    | with_reducible apply Keeps.pnlSeqEnd
    | with_reducible apply Keeps.setPnl
    | with_reducible apply Keeps.timingStart
    | with_reducible apply Keeps.timingStop
    | split
    | simp only [id_eq]

theorem Keeps.pnlStep (s : State) (hs : Keeps μ σ s) (m_space : μ .space) (m_now : μ .now) (m_campusOff : μ .campusOff) (m_cl : μ .cl) (m_pnl : μ .pnl) :
    Keeps μ σ (State.pnlStep s) := by
  unfold State.pnlStep
  repeat' first
    | with_reducible assumption
    | intro _
    | with_reducible apply Keeps.ite
    | ((fail_if_no_progress extract_lets +onlyGivenNames x); first | (refine Keeps.bind x ?_ ?_; (try subst x); rotate_left; intro hx; rotate_left) | skip)
    | with_reducible apply Keeps.pnlNow
    | with_reducible apply Keeps.pnlStepTo
    | with_reducible apply Keeps.reach
    | with_reducible apply Keeps.vsync
    | split
    | simp only [id_eq]

theorem Keeps.of_execPnlPseqStep (s : State) (hs : Keeps μ σ s) (m_space : μ .space) (m_now : μ .now) (m_campusOff : μ .campusOff) (m_cl : μ .cl) (m_pnl : μ .pnl) :
    KeepsO μ σ (execPnlPseqStep s) := by
  unfold execPnlPseqStep
  repeat' first
    | with_reducible assumption
    | intro _
    | with_reducible apply KeepsO.next
    | with_reducible apply Keeps.ite
    | with_reducible apply Keeps.pnlStep

theorem Keeps.setLevel (s : State) (l : ℕ) (hs : Keeps μ σ s) (m_space : μ .space) (m_log : μ .log) (m_ten : μ .ten) (m_pnl : μ .pnl) :
    Keeps μ σ (State.setLevel s l) := by
  unfold State.setLevel
  repeat' first
    | with_reducible assumption
    | intro _
    | with_reducible apply Keeps.ite
    | ((fail_if_no_progress extract_lets +onlyGivenNames x); first | (refine Keeps.bind x ?_ ?_; (try subst x); rotate_left; intro hx; rotate_left) | skip)
    | with_reducible apply Keeps.auditEvent
    | with_reducible apply Keeps.put
    | with_reducible apply Keeps.setPnl
    | split
    | simp only [id_eq]

theorem Keeps.tryFail (s : State) (hs : Keeps μ σ s) (m_space : μ .space) (m_ten : μ .ten) (m_pnl : μ .pnl) :
    Keeps μ σ (State.tryFail s) := by
  unfold State.tryFail
  repeat' first
    | with_reducible assumption
    | intro _
    | with_reducible apply Keeps.ite
    | ((fail_if_no_progress extract_lets +onlyGivenNames x); first | (refine Keeps.bind x ?_ ?_; (try subst x); rotate_left; intro hx; rotate_left) | skip)
    | with_reducible apply Keeps.inc
    | with_reducible apply Keeps.postErr
    | with_reducible apply Keeps.put
    | with_reducible apply Keeps.setPnl

theorem Keeps.accLvl (s : State) (w : Who) (data : Word) (hs : Keeps μ σ s) (m_space : μ .space) (m_wres : μ .wres) (m_log : μ .log) (m_ten : μ .ten) (m_pnl : μ .pnl) :
    Keeps μ σ (State.accLvl s w data) := by
  unfold State.accLvl
  repeat' first
    | with_reducible assumption
    | intro _
    | with_reducible apply Keeps.ite
    | ((fail_if_no_progress extract_lets +onlyGivenNames x); first | (refine Keeps.bind x ?_ ?_; (try subst x); rotate_left; intro hx; rotate_left) | skip)
    | with_reducible apply Keeps.auditW
    | with_reducible apply Keeps.plainW
    | with_reducible apply Keeps.put
    | with_reducible apply Keeps.setLevel
    | with_reducible apply Keeps.setPnl
    | with_reducible apply Keeps.tryFail

theorem Keeps.of_execPnlLockoutEnd (s : State) (hs : Keeps μ σ s) (m_space : μ .space) (m_now : μ .now) (m_campusOff : μ .campusOff) (m_cl : μ .cl) (m_pnl : μ .pnl) :
    KeepsO μ σ (execPnlLockoutEnd s) := by
  unfold execPnlLockoutEnd
  repeat' first
    | with_reducible assumption
    | intro _
    | with_reducible apply KeepsO.next
    | with_reducible apply Keeps.ite
    | ((fail_if_no_progress extract_lets +onlyGivenNames x); first | (refine Keeps.bind x ?_ ?_; (try subst x); rotate_left; intro hx; rotate_left) | (refine KeepsO.bind x ?_ ?_; (try subst x); rotate_left; intro hx; rotate_left) | skip)
    | with_reducible apply Keeps.put
    | with_reducible apply Keeps.reach
    | with_reducible apply Keeps.setPnl
    | split

theorem Keeps.of_execPnlAccessIdle (s : State) (hs : Keeps μ σ s) (m_space : μ .space) (m_now : μ .now) (m_campusOff : μ .campusOff) (m_log : μ .log) (m_ten : μ .ten) (m_cl : μ .cl) (m_pnl : μ .pnl) :
    KeepsO μ σ (execPnlAccessIdle s) := by
  unfold execPnlAccessIdle
  repeat' first
    | with_reducible assumption
    | intro _
    | with_reducible apply KeepsO.next
    | with_reducible apply Keeps.ite
    | ((fail_if_no_progress extract_lets +onlyGivenNames x); first | (refine Keeps.bind x ?_ ?_; (try subst x); rotate_left; intro hx; rotate_left) | (refine KeepsO.bind x ?_ ?_; (try subst x); rotate_left; intro hx; rotate_left) | skip)
    | with_reducible apply Keeps.reach
    | with_reducible apply Keeps.setLevel
    | split
    | simp only [id_eq]

theorem Keeps.pnlWr (s : State) (data : Word) (hs : Keeps μ σ s) (m_space : μ .space) (m_free : μ .free) (m_wres : μ .wres) (m_log : μ .log) (m_ten : μ .ten) (m_broken : μ .broken) (m_safe : μ .safe) (m_cmds : μ .cmds) (m_cd : μ .cd) (m_fwd : μ .fwd) (m_sk : μ .sk) :
    Keeps μ σ (State.pnlWr s data) := by
  unfold State.pnlWr
  repeat' first
    | with_reducible assumption
    | intro _
    | with_reducible apply Keeps.ite
    | ((fail_if_no_progress extract_lets +onlyGivenNames x); first | (refine Keeps.bind x ?_ ?_; (try subst x); rotate_left; intro hx; rotate_left) | skip)
    | with_reducible apply Keeps.plainW
    | with_reducible apply Keeps.ptWrite
    | with_reducible apply Keeps.put
    | split
    | simp only [id_eq]

theorem Keeps.crackLatch (s : State) (f : Fld) (hs : Keeps μ σ s) (m_space : μ .space) (m_log : μ .log) (m_ten : μ .ten) (m_pnl : μ .pnl) :
    Keeps μ σ (State.crackLatch s f) := by
  unfold State.crackLatch
  repeat' first
    | with_reducible assumption
    | intro _
    | with_reducible apply Keeps.ite
    | with_reducible apply Keeps.auditEvent
    | with_reducible apply Keeps.postErr
    | with_reducible apply Keeps.put
    | with_reducible apply Keeps.setLevel

theorem Keeps.crackMeasure (s : State) (ohm : ℕ) (hs : Keeps μ σ s) (m_space : μ .space) (m_now : μ .now) (m_campusOff : μ .campusOff) (m_log : μ .log) (m_ten : μ .ten) (m_cl : μ .cl) (m_pnl : μ .pnl) :
    Keeps μ σ (State.crackMeasure s ohm) := by
  unfold State.crackMeasure
  repeat' first
    | with_reducible assumption
    | intro _
    | with_reducible apply Keeps.ite
    | ((fail_if_no_progress extract_lets +onlyGivenNames x); first | (refine Keeps.bind x ?_ ?_; (try subst x); rotate_left; intro hx; rotate_left) | skip)
    | with_reducible apply Keeps.crackLatch
    | with_reducible apply Keeps.put
    | with_reducible apply Keeps.reach
    | with_reducible apply Keeps.setPnl

theorem Keeps.of_execPnlCrackMeasure (ohm : ℕ) (s : State) (hs : Keeps μ σ s) (m_space : μ .space) (m_now : μ .now) (m_campusOff : μ .campusOff) (m_log : μ .log) (m_ten : μ .ten) (m_cl : μ .cl) (m_pnl : μ .pnl) :
    KeepsO μ σ (execPnlCrackMeasure ohm s) := by
  unfold execPnlCrackMeasure
  repeat' first
    | with_reducible assumption
    | intro _
    | with_reducible apply KeepsO.next
    | with_reducible apply Keeps.ite
    | with_reducible apply Keeps.crackMeasure

theorem Keeps.keyqBit (s : State) (hs : Keeps μ σ s) (m_space : μ .space) :
    Keeps μ σ (State.keyqBit s) := by
  unfold State.keyqBit
  repeat' first
    | with_reducible assumption
    | intro _
    | with_reducible apply Keeps.ite
    | with_reducible apply Keeps.put

theorem Keeps.keyPost (s : State) (code : ℕ) (hs : Keeps μ σ s) (m_space : μ .space) (m_pnl : μ .pnl) :
    Keeps μ σ (State.keyPost s code) := by
  unfold State.keyPost
  repeat' first
    | with_reducible assumption
    | intro _
    | with_reducible apply Keeps.ite
    | ((fail_if_no_progress extract_lets +onlyGivenNames x); first | (refine Keeps.bind x ?_ ?_; (try subst x); rotate_left; intro hx; rotate_left) | skip)
    | with_reducible apply Keeps.inc
    | with_reducible apply Keeps.keyqBit
    | with_reducible apply Keeps.put
    | with_reducible apply Keeps.setPnl

theorem Keeps.setKey (s : State) (k : ℕ) (v : Bool) (hs : Keeps μ σ s) (m_space : μ .space) :
    Keeps μ σ (State.setKey s k v) := by
  unfold State.setKey
  repeat' first
    | with_reducible assumption
    | intro _
    | with_reducible apply Keeps.ite
    | ((fail_if_no_progress extract_lets +onlyGivenNames x); first | (refine Keeps.bind x ?_ ?_; (try subst x); rotate_left; intro hx; rotate_left) | skip)
    | with_reducible apply Keeps.setWord

theorem Keeps.keyScan1 (s : State) (keys : BitVec 64) (k : ℕ) (hs : Keeps μ σ s) (m_space : μ .space) (m_pnl : μ .pnl) :
    Keeps μ σ (State.keyScan1 s keys k) := by
  unfold State.keyScan1
  repeat' first
    | with_reducible assumption
    | intro _
    | with_reducible apply Keeps.ite
    | ((fail_if_no_progress extract_lets +onlyGivenNames x); first | (refine Keeps.bind x ?_ ?_; (try subst x); rotate_left; intro hx; rotate_left) | skip)
    | with_reducible apply Keeps.keyPost
    | with_reducible apply Keeps.setKey
    | with_reducible apply Keeps.setPnl

theorem Keeps.keyScan (s : State) (keys : BitVec 64) (hs : Keeps μ σ s) (m_space : μ .space) (m_now : μ .now) (m_campusOff : μ .campusOff) (m_cl : μ .cl) (m_pnl : μ .pnl) :
    Keeps μ σ (State.keyScan s keys) := by
  unfold State.keyScan
  repeat' first
    | with_reducible assumption
    | intro _
    | with_reducible apply Keeps.ite
    | ((fail_if_no_progress extract_lets +onlyGivenNames x); first | (refine Keeps.bind x ?_ ?_; (try subst x); rotate_left; intro hx; rotate_left) | skip)
    | with_reducible apply Keeps.each
    | with_reducible apply Keeps.keyScan1
    | with_reducible apply Keeps.reach
    | with_reducible apply Keeps.setPnl

theorem Keeps.of_execPnlKeyScan (keys : BitVec 64) (s : State) (hs : Keeps μ σ s) (m_space : μ .space) (m_now : μ .now) (m_campusOff : μ .campusOff) (m_cl : μ .cl) (m_pnl : μ .pnl) :
    KeepsO μ σ (execPnlKeyScan keys s) := by
  unfold execPnlKeyScan
  repeat' first
    | with_reducible assumption
    | intro _
    | with_reducible apply KeepsO.next
    | with_reducible apply Keeps.ite
    | with_reducible apply Keeps.keyScan

theorem Keeps.encDetent (s : State) (n : ℕ) (ab : ℕ) (acc : ℤ) (hs : Keeps μ σ s) (m_space : μ .space) (m_pnl : μ .pnl) :
    Keeps μ σ (State.encDetent s n ab acc) := by
  unfold State.encDetent
  repeat' first
    | with_reducible assumption
    | intro _
    | with_reducible apply Keeps.ite
    | with_reducible apply Keeps.keyPost
    | with_reducible apply Keeps.put
    | with_reducible apply Keeps.setPnl

theorem Keeps.encStep (s : State) (n : ℕ) (ab : ℕ) (hs : Keeps μ σ s) (m_space : μ .space) (m_pnl : μ .pnl) :
    Keeps μ σ (State.encStep s n ab) := by
  unfold State.encStep
  repeat' first
    | with_reducible assumption
    | intro _
    | with_reducible apply Keeps.ite
    | ((fail_if_no_progress extract_lets +onlyGivenNames x); first | (refine Keeps.bind x ?_ ?_; (try subst x); rotate_left; intro hx; rotate_left) | skip)
    | with_reducible apply Keeps.encDetent
    | with_reducible apply Keeps.inc
    | with_reducible apply Keeps.put
    | with_reducible apply Keeps.setPnl

theorem Keeps.of_execPnlEncoderStep (n : Fin 4) (ab : Fin 4) (seen : ℕ) (s : State) (hs : Keeps μ σ s) (m_space : μ .space) (m_pnl : μ .pnl) :
    KeepsO μ σ (execPnlEncoderStep n ab seen s) := by
  unfold execPnlEncoderStep
  repeat' first
    | with_reducible assumption
    | intro _
    | with_reducible apply KeepsO.next
    | with_reducible apply Keeps.ite
    | ((fail_if_no_progress extract_lets +onlyGivenNames x); first | (refine Keeps.bind x ?_ ?_; (try subst x); rotate_left; intro hx; rotate_left) | (refine KeepsO.bind x ?_ ?_; (try subst x); rotate_left; intro hx; rotate_left) | skip)
    | with_reducible apply Keeps.encStep
    | split
    | simp only [id_eq]

theorem Keeps.keyPop (s : State) (data : Word) (hs : Keeps μ σ s) (m_space : μ .space) (m_wres : μ .wres) (m_pnl : μ .pnl) :
    Keeps μ σ (State.keyPop s data) := by
  unfold State.keyPop
  repeat' first
    | with_reducible assumption
    | intro _
    | with_reducible apply Keeps.ite
    | ((fail_if_no_progress extract_lets +onlyGivenNames x); first | (refine Keeps.bind x ?_ ?_; (try subst x); rotate_left; intro hx; rotate_left) | skip)
    | with_reducible apply Keeps.keyqBit
    | with_reducible apply Keeps.plainW
    | with_reducible apply Keeps.setPnl
    | split

theorem Keeps.pnlFuncRst (s : State) (hs : Keeps μ σ s) (m_space : μ .space) (m_log : μ .log) (m_ten : μ .ten) (m_pnl : μ .pnl) :
    Keeps μ σ (State.pnlFuncRst s) := by
  unfold State.pnlFuncRst
  repeat' first
    | with_reducible assumption
    | intro _
    | with_reducible apply Keeps.ite
    | ((fail_if_no_progress extract_lets +onlyGivenNames x); first | (refine Keeps.bind x ?_ ?_; (try subst x); rotate_left; intro hx; rotate_left) | skip)
    | with_reducible apply Keeps.setLevel
    | with_reducible apply Keeps.setPnl
    | with_reducible apply Keeps.setWord
    | split
    | simp only [id_eq]

theorem Keeps.of_execPnlFuncRstForce (s : State) (hs : Keeps μ σ s) (m_space : μ .space) (m_now : μ .now) (m_campusOff : μ .campusOff) (m_cl : μ .cl) (m_pnl : μ .pnl) :
    KeepsO μ σ (execPnlFuncRstForce s) := by
  unfold execPnlFuncRstForce
  repeat' first
    | with_reducible assumption
    | intro _
    | with_reducible apply KeepsO.next
    | with_reducible apply Keeps.ite
    | with_reducible apply Keeps.pnlSeqEnd
    | with_reducible apply Keeps.reach
    | with_reducible apply Keeps.timingStop
    | split

theorem Keeps.blinkCommit (s : State) (w : Who) (k : ℕ) (data : Word) (hs : Keeps μ σ s) (m_space : μ .space) (m_wres : μ .wres) (m_log : μ .log) (m_ten : μ .ten) (m_pnl : μ .pnl) :
    Keeps μ σ (State.blinkCommit s w k data) := by
  unfold State.blinkCommit
  repeat' first
    | with_reducible assumption
    | intro _
    | with_reducible apply Keeps.ite
    | ((fail_if_no_progress extract_lets +onlyGivenNames x); first | (refine Keeps.bind x ?_ ?_; (try subst x); rotate_left; intro hx; rotate_left) | skip)
    | with_reducible apply Keeps.cfgWrite
    | with_reducible apply Keeps.setPnl

theorem Keeps.pnlWrite (s : State) (w : Who) (a : ℕ) (data : Word) (hs : Keeps μ σ s) (m_space : μ .space) (m_free : μ .free) (m_wres : μ .wres) (m_log : μ .log) (m_ten : μ .ten) (m_broken : μ .broken) (m_safe : μ .safe) (m_cmds : μ .cmds) (m_cd : μ .cd) (m_fwd : μ .fwd) (m_sk : μ .sk) (m_pnl : μ .pnl) :
    Keeps μ σ (State.pnlWrite s w a data) := by
  unfold State.pnlWrite
  repeat' first
    | with_reducible assumption
    | intro _
    | with_reducible apply Keeps.ite
    | ((fail_if_no_progress extract_lets +onlyGivenNames x); first | (refine Keeps.bind x ?_ ?_; (try subst x); rotate_left; intro hx; rotate_left) | skip)
    | with_reducible apply Keeps.accLvl
    | with_reducible apply Keeps.auditW
    | with_reducible apply Keeps.blinkCommit
    | with_reducible apply Keeps.cfgWrite
    | with_reducible apply Keeps.clearWrite
    | with_reducible apply Keeps.flagWrite
    | with_reducible apply Keeps.keyPop
    | with_reducible apply Keeps.kindWrite
    | with_reducible apply Keeps.plainW
    | with_reducible apply Keeps.pnlNow
    | with_reducible apply Keeps.pnlDown
    | with_reducible apply Keeps.pnlUp
    | with_reducible apply Keeps.pnlWr
    | with_reducible apply Keeps.refuseWrite
    | with_reducible apply Keeps.setPnl
    | with_reducible apply Keeps.setWord
    | split
    | simp only [id_eq]

theorem Keeps.of_execPnlBlinkCommit (p : Path) (k : Fin 8) (data : Word) (s : State) (hs : Keeps μ σ s) (m_space : μ .space) (m_free : μ .free) (m_rdata : μ .rdata) (m_wres : μ .wres) (m_banks : μ .banks) (m_log : μ .log) (m_ten : μ .ten) (m_broken : μ .broken) (m_safe : μ .safe) (m_cmds : μ .cmds) (m_cd : μ .cd) (m_fwd : μ .fwd) (m_sk : μ .sk) (m_pnl : μ .pnl) :
    KeepsO μ σ (execPnlBlinkCommit p k data s) := by
  unfold execPnlBlinkCommit
  repeat' first
    | with_reducible assumption
    | intro _
    | with_reducible apply KeepsO.next
    | with_reducible apply Keeps.ite
    | ((fail_if_no_progress extract_lets +onlyGivenNames x); first | (refine Keeps.bind x ?_ ?_; (try subst x); rotate_left; intro hx; rotate_left) | (refine KeepsO.bind x ?_ ?_; (try subst x); rotate_left; intro hx; rotate_left) | skip)
    | with_reducible apply Keeps.byPath
    | with_reducible apply Keeps.pnlWrite
    | split
    | simp only [id_eq]

theorem Keeps.of_execPnlKeyqPop (p : Path) (data : Word) (s : State) (hs : Keeps μ σ s) (m_space : μ .space) (m_free : μ .free) (m_rdata : μ .rdata) (m_wres : μ .wres) (m_banks : μ .banks) (m_log : μ .log) (m_ten : μ .ten) (m_broken : μ .broken) (m_safe : μ .safe) (m_cmds : μ .cmds) (m_cd : μ .cd) (m_fwd : μ .fwd) (m_sk : μ .sk) (m_pnl : μ .pnl) :
    KeepsO μ σ (execPnlKeyqPop p data s) := by
  unfold execPnlKeyqPop
  repeat' first
    | with_reducible assumption
    | intro _
    | with_reducible apply KeepsO.next
    | with_reducible apply Keeps.ite
    | ((fail_if_no_progress extract_lets +onlyGivenNames x); first | (refine Keeps.bind x ?_ ?_; (try subst x); rotate_left; intro hx; rotate_left) | (refine KeepsO.bind x ?_ ?_; (try subst x); rotate_left; intro hx; rotate_left) | skip)
    | with_reducible apply Keeps.byPath
    | with_reducible apply Keeps.pnlWrite
    | split
    | simp only [id_eq]

theorem Keeps.of_execPnlAccessTry (p : Path) (data : Word) (s : State) (hs : Keeps μ σ s) (m_space : μ .space) (m_free : μ .free) (m_rdata : μ .rdata) (m_wres : μ .wres) (m_banks : μ .banks) (m_log : μ .log) (m_ten : μ .ten) (m_broken : μ .broken) (m_safe : μ .safe) (m_cmds : μ .cmds) (m_cd : μ .cd) (m_fwd : μ .fwd) (m_sk : μ .sk) (m_pnl : μ .pnl) :
    KeepsO μ σ (execPnlAccessTry p data s) := by
  unfold execPnlAccessTry
  repeat' first
    | with_reducible assumption
    | intro _
    | with_reducible apply KeepsO.next
    | with_reducible apply Keeps.ite
    | ((fail_if_no_progress extract_lets +onlyGivenNames x); first | (refine Keeps.bind x ?_ ?_; (try subst x); rotate_left; intro hx; rotate_left) | (refine KeepsO.bind x ?_ ?_; (try subst x); rotate_left; intro hx; rotate_left) | skip)
    | with_reducible apply Keeps.byPath
    | with_reducible apply Keeps.pnlWrite
    | split
    | simp only [id_eq]

theorem Keeps.of_execPnlWrite (p : Path) (s : State) (hs : Keeps μ σ s) (m_space : μ .space) (m_free : μ .free) (m_rdata : μ .rdata) (m_wres : μ .wres) (m_banks : μ .banks) (m_log : μ .log) (m_ten : μ .ten) (m_broken : μ .broken) (m_safe : μ .safe) (m_cmds : μ .cmds) (m_cd : μ .cd) (m_fwd : μ .fwd) (m_sk : μ .sk) (m_pnl : μ .pnl) :
    KeepsO μ σ (execPnlWrite p s) := by
  unfold execPnlWrite
  repeat' first
    | with_reducible assumption
    | intro _
    | with_reducible apply KeepsO.next
    | with_reducible apply Keeps.ite
    | ((fail_if_no_progress extract_lets +onlyGivenNames x); first | (refine Keeps.bind x ?_ ?_; (try subst x); rotate_left; intro hx; rotate_left) | (refine KeepsO.bind x ?_ ?_; (try subst x); rotate_left; intro hx; rotate_left) | skip)
    | with_reducible apply Keeps.byPath
    | with_reducible apply Keeps.pnlWrite
    | split
    | simp only [id_eq]

theorem Keeps.of_execPnlRelinquish (p : Path) (s : State) (hs : Keeps μ σ s) (m_space : μ .space) (m_free : μ .free) (m_rdata : μ .rdata) (m_wres : μ .wres) (m_banks : μ .banks) (m_log : μ .log) (m_ten : μ .ten) (m_broken : μ .broken) (m_safe : μ .safe) (m_cmds : μ .cmds) (m_cd : μ .cd) (m_fwd : μ .fwd) (m_sk : μ .sk) (m_pnl : μ .pnl) :
    KeepsO μ σ (execPnlRelinquish p s) := by
  unfold execPnlRelinquish
  repeat' first
    | with_reducible assumption
    | intro _
    | with_reducible apply KeepsO.next
    | with_reducible apply Keeps.ite
    | ((fail_if_no_progress extract_lets +onlyGivenNames x); first | (refine Keeps.bind x ?_ ?_; (try subst x); rotate_left; intro hx; rotate_left) | (refine KeepsO.bind x ?_ ?_; (try subst x); rotate_left; intro hx; rotate_left) | skip)
    | with_reducible apply Keeps.byPath
    | with_reducible apply Keeps.pnlWrite
    | split
    | simp only [id_eq]

end Sys2Proof.Machine
end

