-- ==== Sys2Proof/Laws/KeepsCoilMotion.lean ====
section
/-! SUPPORT. What each operation of Machine/CoilMotion.lean keeps: the queue, the clock's direction, the canonical form of the register
space, and every part of the state it does not name (`Keeps`). -/

set_option linter.unusedTactic false
set_option linter.unreachableTactic false
set_option linter.unusedSimpArgs false
set_option linter.unusedVariables false

namespace Sys2Proof.Machine

variable {μ : Part → Prop} {σ : State}

theorem Keeps.cdKinkEnd (s : State) (n : ℕ) (vs : List ℤ) (hs : Keeps μ σ s) (m_cd : μ .cd) :
    Keeps μ σ (State.cdKinkEnd s n vs) := by
  unfold State.cdKinkEnd
  repeat' first
    | with_reducible assumption
    | intro _
    | with_reducible apply Keeps.ite
    | ((fail_if_no_progress extract_lets +onlyGivenNames x); first | (refine Keeps.bind x ?_ ?_; (try subst x); rotate_left; intro hx; rotate_left) | skip)
    | with_reducible apply Keeps.setCd
    | split
    | simp only [id_eq]

theorem Keeps.of_execCdKinkObservationEnd (n : ℕ) (vs : List ℤ) (s : State) (hs : Keeps μ σ s) (m_cd : μ .cd) :
    KeepsO μ σ (execCdKinkObservationEnd n vs s) := by
  unfold execCdKinkObservationEnd
  repeat' first
    | with_reducible assumption
    | intro _
    | with_reducible apply KeepsO.next
    | with_reducible apply Keeps.ite
    | ((fail_if_no_progress extract_lets +onlyGivenNames x); first | (refine Keeps.bind x ?_ ?_; (try subst x); rotate_left; intro hx; rotate_left) | (refine KeepsO.bind x ?_ ?_; (try subst x); rotate_left; intro hx; rotate_left) | skip)
    | with_reducible apply Keeps.cdKinkEnd
    | with_reducible apply Keeps.pdDo
    | split
    | simp only [id_eq]

theorem Keeps.cdDipEnd (s : State) (n : ℕ) (is : List (ℕ × ℕ)) (hs : Keeps μ σ s) (m_cd : μ .cd) :
    Keeps μ σ (State.cdDipEnd s n is) := by
  unfold State.cdDipEnd
  repeat' first
    | with_reducible assumption
    | intro _
    | with_reducible apply Keeps.ite
    | ((fail_if_no_progress extract_lets +onlyGivenNames x); first | (refine Keeps.bind x ?_ ?_; (try subst x); rotate_left; intro hx; rotate_left) | skip)
    | with_reducible apply Keeps.setCd
    | split
    | simp only [id_eq]

theorem Keeps.of_execCdDipObservationEnd (n : ℕ) (is : List (ℕ × ℕ)) (s : State) (hs : Keeps μ σ s) (m_cd : μ .cd) :
    KeepsO μ σ (execCdDipObservationEnd n is s) := by
  unfold execCdDipObservationEnd
  repeat' first
    | with_reducible assumption
    | intro _
    | with_reducible apply KeepsO.next
    | with_reducible apply Keeps.ite
    | ((fail_if_no_progress extract_lets +onlyGivenNames x); first | (refine Keeps.bind x ?_ ?_; (try subst x); rotate_left; intro hx; rotate_left) | (refine KeepsO.bind x ?_ ?_; (try subst x); rotate_left; intro hx; rotate_left) | skip)
    | with_reducible apply Keeps.cdDipEnd
    | with_reducible apply Keeps.pdDo
    | split
    | simp only [id_eq]

theorem Keeps.cdBump (s : State) (n : ℕ) (t : ℕ) (run : List (ℕ × ℕ)) (hs : Keeps μ σ s) (m_cd : μ .cd) :
    Keeps μ σ (State.cdBump s n t run) := by
  unfold State.cdBump
  repeat' first
    | with_reducible assumption
    | intro _
    | with_reducible apply Keeps.ite
    | ((fail_if_no_progress extract_lets +onlyGivenNames x); first | (refine Keeps.bind x ?_ ?_; (try subst x); rotate_left; intro hx; rotate_left) | skip)
    | with_reducible apply Keeps.setCd
    | split
    | simp only [id_eq]

theorem Keeps.of_execCdReleaseBump (n : ℕ) (t : ℕ) (run : List (ℕ × ℕ)) (s : State) (hs : Keeps μ σ s) (m_cd : μ .cd) :
    KeepsO μ σ (execCdReleaseBump n t run s) := by
  unfold execCdReleaseBump
  repeat' first
    | with_reducible assumption
    | intro _
    | with_reducible apply KeepsO.next
    | with_reducible apply Keeps.ite
    | ((fail_if_no_progress extract_lets +onlyGivenNames x); first | (refine Keeps.bind x ?_ ?_; (try subst x); rotate_left; intro hx; rotate_left) | (refine KeepsO.bind x ?_ ?_; (try subst x); rotate_left; intro hx; rotate_left) | skip)
    | with_reducible apply Keeps.cdBump
    | with_reducible apply Keeps.pdDo
    | split
    | simp only [id_eq]

theorem Keeps.cdContact (s : State) (n : ℕ) (first : ℕ) (t : ℕ) (raw : ℕ) (op : Bool) (active : Bool) (hs : Keeps μ σ s) (m_space : μ .space) (m_cd : μ .cd) :
    Keeps μ σ (State.cdContact s n first t raw op active) := by
  unfold State.cdContact
  repeat' first
    | with_reducible assumption
    | intro _
    | with_reducible apply Keeps.ite
    | ((fail_if_no_progress extract_lets +onlyGivenNames x); first | (refine Keeps.bind x ?_ ?_; (try subst x); rotate_left; intro hx; rotate_left) | skip)
    | with_reducible apply Keeps.inc
    | with_reducible apply Keeps.setCd
    | split
    | simp only [id_eq]

theorem Keeps.cdRawEdge (s : State) (n : ℕ) (first : ℕ) (t : ℕ) (raw : ℕ) (op : Bool) (level : Bool) (hs : Keeps μ σ s) (m_space : μ .space) (m_cd : μ .cd) (m_fio : μ .fio) :
    Keeps μ σ (State.cdRawEdge s n first t raw op level) := by
  unfold State.cdRawEdge
  repeat' first
    | with_reducible assumption
    | intro _
    | with_reducible apply Keeps.ite
    | ((fail_if_no_progress extract_lets +onlyGivenNames x); first | (refine Keeps.bind x ?_ ?_; (try subst x); rotate_left; intro hx; rotate_left) | skip)
    | with_reducible apply Keeps.cdContact
    | simp only [Keeps.upd_fio m_fio]
    | split
    | simp only [id_eq]

theorem Keeps.of_execContactEdge (n : ℕ) (first : ℕ) (t : ℕ) (raw : ℕ) (op : Bool) (level : Bool) (s : State) (hs : Keeps μ σ s) (m_space : μ .space) (m_cd : μ .cd) (m_fio : μ .fio) :
    KeepsO μ σ (execContactEdge n first t raw op level s) := by
  unfold execContactEdge
  repeat' first
    | with_reducible assumption
    | intro _
    | with_reducible apply KeepsO.next
    | with_reducible apply Keeps.ite
    | ((fail_if_no_progress extract_lets +onlyGivenNames x); first | (refine Keeps.bind x ?_ ?_; (try subst x); rotate_left; intro hx; rotate_left) | (refine KeepsO.bind x ?_ ?_; (try subst x); rotate_left; intro hx; rotate_left) | skip)
    | with_reducible apply Keeps.cdRawEdge
    | with_reducible apply Keeps.pdDo
    | split
    | simp only [id_eq]

theorem Keeps.cdLearnStop (s : State) (n : ℕ) (code : ℕ) (hs : Keeps μ σ s) (m_space : μ .space) (m_ten : μ .ten) (m_cd : μ .cd) (m_cdg : μ .cdg) :
    Keeps μ σ (State.cdLearnStop s n code) := by
  unfold State.cdLearnStop
  repeat' first
    | with_reducible assumption
    | intro _
    | with_reducible apply Keeps.ite
    | with_reducible apply Keeps.cdEnterIdle
    | with_reducible apply Keeps.cdFastDecay
    | with_reducible apply Keeps.cdLearnEnd
    | with_reducible apply Keeps.cdPull

theorem Keeps.cdWindowClose (s : State) (hs : Keeps μ σ s) (m_space : μ .space) (m_ten : μ .ten) (m_cd : μ .cd) (m_cdg : μ .cdg) :
    Keeps μ σ (State.cdWindowClose s) := by
  unfold State.cdWindowClose
  repeat' first
    | with_reducible assumption
    | intro _
    | with_reducible apply Keeps.ite
    | ((fail_if_no_progress extract_lets +onlyGivenNames x); first | (refine Keeps.bind x ?_ ?_; (try subst x); rotate_left; intro hx; rotate_left) | skip)
    | with_reducible apply Keeps.cdLearnStop
    | with_reducible apply Keeps.each
    | with_reducible apply Keeps.put

theorem Keeps.cdLwinWrite (s : State) (w : Who) (data : Word) (hs : Keeps μ σ s) (m_space : μ .space) (m_wres : μ .wres) (m_log : μ .log) (m_ten : μ .ten) (m_cd : μ .cd) (m_cdg : μ .cdg) :
    Keeps μ σ (State.cdLwinWrite s w data) := by
  unfold State.cdLwinWrite
  repeat' first
    | with_reducible assumption
    | intro _
    | with_reducible apply Keeps.ite
    | with_reducible apply Keeps.cdWindowClose
    | with_reducible apply Keeps.cfgWrite
    | with_reducible apply Keeps.pdGate
    | with_reducible apply Keeps.put

theorem Keeps.of_execCdLwinWrite (p : Path) (data : Word) (s : State) (hs : Keeps μ σ s) (m_space : μ .space) (m_rdata : μ .rdata) (m_wres : μ .wres) (m_banks : μ .banks) (m_log : μ .log) (m_ten : μ .ten) (m_cd : μ .cd) (m_cdg : μ .cdg) :
    KeepsO μ σ (execCdLwinWrite p data s) := by
  unfold execCdLwinWrite
  repeat' first
    | with_reducible assumption
    | intro _
    | with_reducible apply KeepsO.next
    | with_reducible apply Keeps.ite
    | with_reducible apply Keeps.byPath
    | with_reducible apply Keeps.cdLwinWrite

theorem Keeps.cdLwinMinute (s : State) (hs : Keeps μ σ s) (m_space : μ .space) (m_ten : μ .ten) (m_cd : μ .cd) (m_cdg : μ .cdg) :
    Keeps μ σ (State.cdLwinMinute s) := by
  unfold State.cdLwinMinute
  repeat' first
    | with_reducible assumption
    | intro _
    | with_reducible apply Keeps.ite
    | with_reducible apply Keeps.cdWindowClose
    | with_reducible apply Keeps.put

theorem Keeps.of_execCdLwinMinute (s : State) (hs : Keeps μ σ s) (m_space : μ .space) (m_ten : μ .ten) (m_cd : μ .cd) (m_cdg : μ .cdg) :
    KeepsO μ σ (execCdLwinMinute s) := by
  unfold execCdLwinMinute
  repeat' first
    | with_reducible assumption
    | intro _
    | with_reducible apply KeepsO.next
    | with_reducible apply Keeps.ite
    | with_reducible apply Keeps.cdLwinMinute

theorem Keeps.cdLearnKind (s : State) (n : ℕ) (kind : ℕ) (hs : Keeps μ σ s) (m_space : μ .space) :
    Keeps μ σ (State.cdLearnKind s n kind) := by
  unfold State.cdLearnKind
  repeat' first
    | with_reducible assumption
    | intro _
    | with_reducible apply Keeps.ite
    | with_reducible apply Keeps.put

theorem Keeps.cdStrokeStart (s : State) (n : ℕ) (hs : Keeps μ σ s) (m_space : μ .space) (m_ten : μ .ten) (m_cd : μ .cd) (m_cdg : μ .cdg) :
    Keeps μ σ (State.cdStrokeStart s n) := by
  unfold State.cdStrokeStart
  repeat' first
    | with_reducible assumption
    | intro _
    | with_reducible apply Keeps.ite
    | ((fail_if_no_progress extract_lets +onlyGivenNames x); first | (refine Keeps.bind x ?_ ?_; (try subst x); rotate_left; intro hx; rotate_left) | skip)
    | with_reducible apply Keeps.cdCloseTry
    | with_reducible apply Keeps.cdCutShort
    | with_reducible apply Keeps.cdGo
    | with_reducible apply Keeps.cdLearnKind
    | with_reducible apply Keeps.cdMod
    | with_reducible apply Keeps.cdPullStart
    | split
    | simp only [id_eq]

theorem Keeps.cdProbeLevel (s : State) (n : ℕ) (lvl : ℕ) (below : Bool) (hs : Keeps μ σ s) (m_space : μ .space) (m_log : μ .log) (m_ten : μ .ten) (m_cd : μ .cd) :
    Keeps μ σ (State.cdProbeLevel s n lvl below) := by
  unfold State.cdProbeLevel
  repeat' first
    | with_reducible assumption
    | intro _
    | with_reducible apply Keeps.ite
    | ((fail_if_no_progress extract_lets +onlyGivenNames x); first | (refine Keeps.bind x ?_ ?_; (try subst x); rotate_left; intro hx; rotate_left) | skip)
    | with_reducible apply Keeps.cdGo
    | with_reducible apply Keeps.cdLearnEnd
    | with_reducible apply Keeps.cdMod
    | with_reducible apply Keeps.cdSetIdo
    | with_reducible apply Keeps.inc

theorem Keeps.cdProbeStart (s : State) (n : ℕ) (hs : Keeps μ σ s) (m_space : μ .space) (m_log : μ .log) (m_ten : μ .ten) (m_cd : μ .cd) :
    Keeps μ σ (State.cdProbeStart s n) := by
  unfold State.cdProbeStart
  repeat' first
    | with_reducible assumption
    | intro _
    | with_reducible apply Keeps.ite
    | ((fail_if_no_progress extract_lets +onlyGivenNames x); first | (refine Keeps.bind x ?_ ?_; (try subst x); rotate_left; intro hx; rotate_left) | skip)
    | with_reducible apply Keeps.cdGo
    | with_reducible apply Keeps.cdLearnKind
    | with_reducible apply Keeps.cdMod
    | with_reducible apply Keeps.cdProbeLevel

theorem Keeps.cdLearnWrite (s : State) (w : Who) (n : ℕ) (data : Word) (hs : Keeps μ σ s) (m_space : μ .space) (m_wres : μ .wres) (m_log : μ .log) (m_ten : μ .ten) (m_cd : μ .cd) (m_cdg : μ .cdg) :
    Keeps μ σ (State.cdLearnWrite s w n data) := by
  unfold State.cdLearnWrite
  repeat' first
    | with_reducible assumption
    | intro _
    | with_reducible apply Keeps.ite
    | ((fail_if_no_progress extract_lets +onlyGivenNames x); first | (refine Keeps.bind x ?_ ?_; (try subst x); rotate_left; intro hx; rotate_left) | skip)
    | with_reducible apply Keeps.auditW
    | with_reducible apply Keeps.cdEarlyEvents
    | with_reducible apply Keeps.cdLearnStop
    | with_reducible apply Keeps.cdProbeStart
    | with_reducible apply Keeps.cdStrokeStart
    | with_reducible apply Keeps.pdGate
    | split
    | simp only [id_eq]

theorem Keeps.of_execCdLearnStroke (p : Path) (n : ℕ) (s : State) (hs : Keeps μ σ s) (m_space : μ .space) (m_rdata : μ .rdata) (m_wres : μ .wres) (m_banks : μ .banks) (m_log : μ .log) (m_ten : μ .ten) (m_cd : μ .cd) (m_cdg : μ .cdg) :
    KeepsO μ σ (execCdLearnStroke p n s) := by
  unfold execCdLearnStroke
  repeat' first
    | with_reducible assumption
    | intro _
    | with_reducible apply KeepsO.next
    | with_reducible apply Keeps.ite
    | with_reducible apply Keeps.byPath
    | with_reducible apply Keeps.cdLearnWrite

theorem Keeps.of_execCdLearnProbe (p : Path) (n : ℕ) (s : State) (hs : Keeps μ σ s) (m_space : μ .space) (m_rdata : μ .rdata) (m_wres : μ .wres) (m_banks : μ .banks) (m_log : μ .log) (m_ten : μ .ten) (m_cd : μ .cd) (m_cdg : μ .cdg) :
    KeepsO μ σ (execCdLearnProbe p n s) := by
  unfold execCdLearnProbe
  repeat' first
    | with_reducible assumption
    | intro _
    | with_reducible apply KeepsO.next
    | with_reducible apply Keeps.ite
    | with_reducible apply Keeps.byPath
    | with_reducible apply Keeps.cdLearnWrite

theorem Keeps.of_execCdLearnCancel (p : Path) (n : ℕ) (s : State) (hs : Keeps μ σ s) (m_space : μ .space) (m_rdata : μ .rdata) (m_wres : μ .wres) (m_banks : μ .banks) (m_log : μ .log) (m_ten : μ .ten) (m_cd : μ .cd) (m_cdg : μ .cdg) :
    KeepsO μ σ (execCdLearnCancel p n s) := by
  unfold execCdLearnCancel
  repeat' first
    | with_reducible assumption
    | intro _
    | with_reducible apply KeepsO.next
    | with_reducible apply Keeps.ite
    | with_reducible apply Keeps.byPath
    | with_reducible apply Keeps.cdLearnWrite

theorem Keeps.cdStrokeResult (s : State) (n : ℕ) (hs : Keeps μ σ s) (m_space : μ .space) (m_ten : μ .ten) :
    Keeps μ σ (State.cdStrokeResult s n) := by
  unfold State.cdStrokeResult
  repeat' first
    | with_reducible assumption
    | intro _
    | with_reducible apply Keeps.ite
    | ((fail_if_no_progress extract_lets +onlyGivenNames x); first | (refine Keeps.bind x ?_ ?_; (try subst x); rotate_left; intro hx; rotate_left) | skip)
    | with_reducible apply Keeps.cdLearnEnd
    | with_reducible apply Keeps.put

theorem Keeps.cdStrokeStep (s : State) (n : ℕ) (hs : Keeps μ σ s) (m_space : μ .space) (m_now : μ .now) (m_campusOff : μ .campusOff) (m_ten : μ .ten) (m_cd : μ .cd) (m_cdg : μ .cdg) (m_cl : μ .cl) :
    Keeps μ σ (State.cdStrokeStep s n) := by
  unfold State.cdStrokeStep
  repeat' first
    | with_reducible assumption
    | intro _
    | with_reducible apply Keeps.ite
    | ((fail_if_no_progress extract_lets +onlyGivenNames x); first | (refine Keeps.bind x ?_ ?_; (try subst x); rotate_left; intro hx; rotate_left) | skip)
    | with_reducible apply Keeps.cdClampStart
    | with_reducible apply Keeps.cdCloseTry
    | with_reducible apply Keeps.cdEnterIdle
    | with_reducible apply Keeps.cdMod
    | with_reducible apply Keeps.cdOpenTry
    | with_reducible apply Keeps.cdPullStart
    | with_reducible apply Keeps.cdStrokeResult
    | with_reducible apply Keeps.inc
    | with_reducible apply Keeps.reach
    | split
    | simp only [id_eq]

theorem Keeps.of_execCdStrokeStepEnd (n : ℕ) (s : State) (hs : Keeps μ σ s) (m_space : μ .space) (m_now : μ .now) (m_campusOff : μ .campusOff) (m_ten : μ .ten) (m_cd : μ .cd) (m_cdg : μ .cdg) (m_cl : μ .cl) :
    KeepsO μ σ (execCdStrokeStepEnd n s) := by
  unfold execCdStrokeStepEnd
  repeat' first
    | with_reducible assumption
    | intro _
    | with_reducible apply KeepsO.next
    | with_reducible apply Keeps.ite
    | ((fail_if_no_progress extract_lets +onlyGivenNames x); first | (refine Keeps.bind x ?_ ?_; (try subst x); rotate_left; intro hx; rotate_left) | (refine KeepsO.bind x ?_ ?_; (try subst x); rotate_left; intro hx; rotate_left) | skip)
    | with_reducible apply Keeps.cdStrokeStep
    | with_reducible apply Keeps.pdDo
    | split
    | simp only [id_eq]

theorem Keeps.cdProbeDwell (s : State) (n : ℕ) (hs : Keeps μ σ s) (m_space : μ .space) (m_now : μ .now) (m_campusOff : μ .campusOff) (m_log : μ .log) (m_ten : μ .ten) (m_cd : μ .cd) (m_cdg : μ .cdg) (m_cl : μ .cl) :
    Keeps μ σ (State.cdProbeDwell s n) := by
  unfold State.cdProbeDwell
  repeat' first
    | with_reducible assumption
    | intro _
    | with_reducible apply Keeps.ite
    | ((fail_if_no_progress extract_lets +onlyGivenNames x); first | (refine Keeps.bind x ?_ ?_; (try subst x); rotate_left; intro hx; rotate_left) | skip)
    | with_reducible apply Keeps.cdMod
    | with_reducible apply Keeps.cdProbeLevel
    | with_reducible apply Keeps.cdProbeTry
    | with_reducible apply Keeps.reach

theorem Keeps.of_execCdProbeDwellEnd (n : ℕ) (s : State) (hs : Keeps μ σ s) (m_space : μ .space) (m_now : μ .now) (m_campusOff : μ .campusOff) (m_log : μ .log) (m_ten : μ .ten) (m_cd : μ .cd) (m_cdg : μ .cdg) (m_cl : μ .cl) :
    KeepsO μ σ (execCdProbeDwellEnd n s) := by
  unfold execCdProbeDwellEnd
  repeat' first
    | with_reducible assumption
    | intro _
    | with_reducible apply KeepsO.next
    | with_reducible apply Keeps.ite
    | ((fail_if_no_progress extract_lets +onlyGivenNames x); first | (refine Keeps.bind x ?_ ?_; (try subst x); rotate_left; intro hx; rotate_left) | (refine KeepsO.bind x ?_ ?_; (try subst x); rotate_left; intro hx; rotate_left) | skip)
    | with_reducible apply Keeps.cdProbeDwell
    | with_reducible apply Keeps.pdDo
    | split
    | simp only [id_eq]

theorem Keeps.cdHoldLrnWrite (s : State) (w : Who) (n : ℕ) (data : Word) (hs : Keeps μ σ s) (m_space : μ .space) (m_wres : μ .wres) (m_log : μ .log) (m_ten : μ .ten) :
    Keeps μ σ (State.cdHoldLrnWrite s w n data) := by
  unfold State.cdHoldLrnWrite
  repeat' first
    | with_reducible assumption
    | intro _
    | with_reducible apply Keeps.ite
    | ((fail_if_no_progress extract_lets +onlyGivenNames x); first | (refine Keeps.bind x ?_ ?_; (try subst x); rotate_left; intro hx; rotate_left) | skip)
    | with_reducible apply Keeps.auditEvent
    | with_reducible apply Keeps.cfgWrite
    | with_reducible apply Keeps.pdGate
    | with_reducible apply Keeps.put
    | split
    | simp only [id_eq]

theorem Keeps.of_execCdHoldLrnWrite (p : Path) (n : ℕ) (data : Word) (s : State) (hs : Keeps μ σ s) (m_space : μ .space) (m_rdata : μ .rdata) (m_wres : μ .wres) (m_banks : μ .banks) (m_log : μ .log) (m_ten : μ .ten) :
    KeepsO μ σ (execCdHoldLrnWrite p n data s) := by
  unfold execCdHoldLrnWrite
  repeat' first
    | with_reducible assumption
    | intro _
    | with_reducible apply KeepsO.next
    | with_reducible apply Keeps.ite
    | with_reducible apply Keeps.byPath
    | with_reducible apply Keeps.cdHoldLrnWrite

theorem Keeps.cdCooled (s : State) (n : ℕ) (hs : Keeps μ σ s) (m_space : μ .space) :
    Keeps μ σ (State.cdCooled s n) := by
  unfold State.cdCooled
  repeat' first
    | with_reducible assumption
    | intro _
    | with_reducible apply Keeps.ite
    | with_reducible apply Keeps.put

theorem Keeps.cdTemps (s : State) (n : ℕ) (tw : Word) (tb : Word) (hs : Keeps μ σ s) (m_space : μ .space) (m_ten : μ .ten) (m_cd : μ .cd) (m_cdg : μ .cdg) :
    Keeps μ σ (State.cdTemps s n tw tb) := by
  unfold State.cdTemps
  repeat' first
    | with_reducible assumption
    | intro _
    | with_reducible apply Keeps.ite
    | with_reducible apply Keeps.cdCooled
    | with_reducible apply Keeps.cdMod
    | with_reducible apply Keeps.cdTrip
    | with_reducible apply Keeps.put

theorem Keeps.cdThermal (s : State) (n : ℕ) (hs : Keeps μ σ s) (m_space : μ .space) (m_ten : μ .ten) (m_cd : μ .cd) (m_cdg : μ .cdg) :
    Keeps μ σ (State.cdThermal s n) := by
  unfold State.cdThermal
  repeat' first
    | with_reducible assumption
    | intro _
    | with_reducible apply Keeps.ite
    | ((fail_if_no_progress extract_lets +onlyGivenNames x); first | (refine Keeps.bind x ?_ ?_; (try subst x); rotate_left; intro hx; rotate_left) | skip)
    | with_reducible apply Keeps.cdTemps
    | with_reducible apply Keeps.setCd
    | split
    | simp only [id_eq]

theorem Keeps.of_execCdThermalUpdate (n : ℕ) (s : State) (hs : Keeps μ σ s) (m_space : μ .space) (m_ten : μ .ten) (m_cd : μ .cd) (m_cdg : μ .cdg) :
    KeepsO μ σ (execCdThermalUpdate n s) := by
  unfold execCdThermalUpdate
  repeat' first
    | with_reducible assumption
    | intro _
    | with_reducible apply KeepsO.next
    | with_reducible apply Keeps.ite
    | ((fail_if_no_progress extract_lets +onlyGivenNames x); first | (refine Keeps.bind x ?_ ?_; (try subst x); rotate_left; intro hx; rotate_left) | (refine KeepsO.bind x ?_ ?_; (try subst x); rotate_left; intro hx; rotate_left) | skip)
    | with_reducible apply Keeps.cdThermal
    | with_reducible apply Keeps.pdDo
    | split
    | simp only [id_eq]

theorem Keeps.cdRwWindow (s : State) (n : ℕ) (hs : Keeps μ σ s) (m_space : μ .space) (m_now : μ .now) (m_campusOff : μ .campusOff) (m_ten : μ .ten) (m_cd : μ .cd) (m_cdg : μ .cdg) (m_cl : μ .cl) :
    Keeps μ σ (State.cdRwWindow s n) := by
  unfold State.cdRwWindow
  repeat' first
    | with_reducible assumption
    | intro _
    | with_reducible apply Keeps.ite
    | ((fail_if_no_progress extract_lets +onlyGivenNames x); first | (refine Keeps.bind x ?_ ?_; (try subst x); rotate_left; intro hx; rotate_left) | skip)
    | with_reducible apply Keeps.cdMod
    | with_reducible apply Keeps.cdTemps
    | with_reducible apply Keeps.cdTrip
    | with_reducible apply Keeps.inc
    | with_reducible apply Keeps.put
    | with_reducible apply Keeps.reach
    | with_reducible apply Keeps.setCd
    | split
    | simp only [id_eq]

theorem Keeps.of_execCdRwWindow (n : ℕ) (s : State) (hs : Keeps μ σ s) (m_space : μ .space) (m_now : μ .now) (m_campusOff : μ .campusOff) (m_ten : μ .ten) (m_cd : μ .cd) (m_cdg : μ .cdg) (m_cl : μ .cl) :
    KeepsO μ σ (execCdRwWindow n s) := by
  unfold execCdRwWindow
  repeat' first
    | with_reducible assumption
    | intro _
    | with_reducible apply KeepsO.next
    | with_reducible apply Keeps.ite
    | ((fail_if_no_progress extract_lets +onlyGivenNames x); first | (refine Keeps.bind x ?_ ?_; (try subst x); rotate_left; intro hx; rotate_left) | (refine KeepsO.bind x ?_ ?_; (try subst x); rotate_left; intro hx; rotate_left) | skip)
    | with_reducible apply Keeps.cdRwWindow
    | with_reducible apply Keeps.pdDo
    | split
    | simp only [id_eq]

theorem Keeps.cdEnergy (s : State) (n : ℕ) (hs : Keeps μ σ s) (m_space : μ .space) (m_ten : μ .ten) (m_cd : μ .cd) (m_cdg : μ .cdg) :
    Keeps μ σ (State.cdEnergy s n) := by
  unfold State.cdEnergy
  repeat' first
    | with_reducible assumption
    | intro _
    | with_reducible apply Keeps.ite
    | ((fail_if_no_progress extract_lets +onlyGivenNames x); first | (refine Keeps.bind x ?_ ?_; (try subst x); rotate_left; intro hx; rotate_left) | skip)
    | with_reducible apply Keeps.cdCooled
    | with_reducible apply Keeps.cdTrip
    | with_reducible apply Keeps.inc
    | with_reducible apply Keeps.setCd
    | with_reducible apply Keeps.setWord
    | split
    | simp only [id_eq]

theorem Keeps.of_execCdEnergyCheck (n : ℕ) (s : State) (hs : Keeps μ σ s) (m_space : μ .space) (m_ten : μ .ten) (m_cd : μ .cd) (m_cdg : μ .cdg) :
    KeepsO μ σ (execCdEnergyCheck n s) := by
  unfold execCdEnergyCheck
  repeat' first
    | with_reducible assumption
    | intro _
    | with_reducible apply KeepsO.next
    | with_reducible apply Keeps.ite
    | ((fail_if_no_progress extract_lets +onlyGivenNames x); first | (refine Keeps.bind x ?_ ?_; (try subst x); rotate_left; intro hx; rotate_left) | (refine KeepsO.bind x ?_ ?_; (try subst x); rotate_left; intro hx; rotate_left) | skip)
    | with_reducible apply Keeps.cdEnergy
    | with_reducible apply Keeps.pdDo
    | split
    | simp only [id_eq]

theorem Keeps.cdBudget (s : State) (vcoil : ℕ) (hs : Keeps μ σ s) (m_space : μ .space) (m_cd : μ .cd) (m_cdg : μ .cdg) :
    Keeps μ σ (State.cdBudget s vcoil) := by
  unfold State.cdBudget
  repeat' first
    | with_reducible assumption
    | intro _
    | with_reducible apply Keeps.ite
    | ((fail_if_no_progress extract_lets +onlyGivenNames x); first | (refine Keeps.bind x ?_ ?_; (try subst x); rotate_left; intro hx; rotate_left) | skip)
    | with_reducible apply Keeps.put
    | simp only [Keeps.upd_cd m_cd, Keeps.upd_cdg m_cdg]
    | split
    | simp only [id_eq]

theorem Keeps.of_execCdBudgetUpdate (vcoil : ℕ) (s : State) (hs : Keeps μ σ s) (m_space : μ .space) (m_cd : μ .cd) (m_cdg : μ .cdg) :
    KeepsO μ σ (execCdBudgetUpdate vcoil s) := by
  unfold execCdBudgetUpdate
  repeat' first
    | with_reducible assumption
    | intro _
    | with_reducible apply KeepsO.next
    | with_reducible apply Keeps.ite
    | ((fail_if_no_progress extract_lets +onlyGivenNames x); first | (refine Keeps.bind x ?_ ?_; (try subst x); rotate_left; intro hx; rotate_left) | (refine KeepsO.bind x ?_ ?_; (try subst x); rotate_left; intro hx; rotate_left) | skip)
    | with_reducible apply Keeps.cdBudget
    | with_reducible apply Keeps.pdDo
    | split
    | simp only [id_eq]

theorem Keeps.cdStageRise (s : State) (hs : Keeps μ σ s) (m_space : μ .space) (m_now : μ .now) (m_campusOff : μ .campusOff) (m_ten : μ .ten) (m_cd : μ .cd) (m_cdg : μ .cdg) (m_cl : μ .cl) :
    Keeps μ σ (State.cdStageRise s) := by
  unfold State.cdStageRise
  repeat' first
    | with_reducible assumption
    | intro _
    | with_reducible apply Keeps.ite
    | ((fail_if_no_progress extract_lets +onlyGivenNames x); first | (refine Keeps.bind x ?_ ?_; (try subst x); rotate_left; intro hx; rotate_left) | skip)
    | with_reducible apply Keeps.cdShed
    | with_reducible apply Keeps.each
    | with_reducible apply Keeps.inc
    | with_reducible apply Keeps.put
    | with_reducible apply Keeps.reach
    | simp only [Keeps.upd_cdg m_cdg]
    | split

theorem Keeps.of_execCdBudgetStageRise (s : State) (hs : Keeps μ σ s) (m_space : μ .space) (m_now : μ .now) (m_campusOff : μ .campusOff) (m_ten : μ .ten) (m_cd : μ .cd) (m_cdg : μ .cdg) (m_cl : μ .cl) :
    KeepsO μ σ (execCdBudgetStageRise s) := by
  unfold execCdBudgetStageRise
  repeat' first
    | with_reducible assumption
    | intro _
    | with_reducible apply KeepsO.next
    | with_reducible apply Keeps.ite
    | ((fail_if_no_progress extract_lets +onlyGivenNames x); first | (refine Keeps.bind x ?_ ?_; (try subst x); rotate_left; intro hx; rotate_left) | (refine KeepsO.bind x ?_ ?_; (try subst x); rotate_left; intro hx; rotate_left) | skip)
    | with_reducible apply Keeps.cdStageRise
    | with_reducible apply Keeps.pdDo
    | split
    | simp only [id_eq]

theorem Keeps.cdStageFall (s : State) (hs : Keeps μ σ s) (m_space : μ .space) (m_cdg : μ .cdg) :
    Keeps μ σ (State.cdStageFall s) := by
  unfold State.cdStageFall
  repeat' first
    | with_reducible assumption
    | intro _
    | with_reducible apply Keeps.ite
    | ((fail_if_no_progress extract_lets +onlyGivenNames x); first | (refine Keeps.bind x ?_ ?_; (try subst x); rotate_left; intro hx; rotate_left) | skip)
    | with_reducible apply Keeps.put
    | simp only [Keeps.upd_cdg m_cdg]

theorem Keeps.of_execCdBudgetStageFall (s : State) (hs : Keeps μ σ s) (m_space : μ .space) (m_cdg : μ .cdg) :
    KeepsO μ σ (execCdBudgetStageFall s) := by
  unfold execCdBudgetStageFall
  repeat' first
    | with_reducible assumption
    | intro _
    | with_reducible apply KeepsO.next
    | with_reducible apply Keeps.ite
    | ((fail_if_no_progress extract_lets +onlyGivenNames x); first | (refine Keeps.bind x ?_ ?_; (try subst x); rotate_left; intro hx; rotate_left) | (refine KeepsO.bind x ?_ ?_; (try subst x); rotate_left; intro hx; rotate_left) | skip)
    | with_reducible apply Keeps.cdStageFall
    | with_reducible apply Keeps.pdDo
    | split
    | simp only [id_eq]

theorem Keeps.cdOver (s : State) (hs : Keeps μ σ s) (m_space : μ .space) (m_ten : μ .ten) (m_cdg : μ .cdg) :
    Keeps μ σ (State.cdOver s) := by
  unfold State.cdOver
  repeat' first
    | with_reducible assumption
    | intro _
    | with_reducible apply Keeps.ite
    | ((fail_if_no_progress extract_lets +onlyGivenNames x); first | (refine Keeps.bind x ?_ ?_; (try subst x); rotate_left; intro hx; rotate_left) | skip)
    | with_reducible apply Keeps.cdErr
    | with_reducible apply Keeps.put
    | simp only [Keeps.upd_cdg m_cdg]

theorem Keeps.of_execCdBudgetOver (s : State) (hs : Keeps μ σ s) (m_space : μ .space) (m_ten : μ .ten) (m_cdg : μ .cdg) :
    KeepsO μ σ (execCdBudgetOver s) := by
  unfold execCdBudgetOver
  repeat' first
    | with_reducible assumption
    | intro _
    | with_reducible apply KeepsO.next
    | with_reducible apply Keeps.ite
    | ((fail_if_no_progress extract_lets +onlyGivenNames x); first | (refine Keeps.bind x ?_ ?_; (try subst x); rotate_left; intro hx; rotate_left) | (refine KeepsO.bind x ?_ ?_; (try subst x); rotate_left; intro hx; rotate_left) | skip)
    | with_reducible apply Keeps.cdOver
    | with_reducible apply Keeps.pdDo
    | split
    | simp only [id_eq]

theorem Keeps.cdUnshed (s : State) (hs : Keeps μ σ s) (m_space : μ .space) (m_now : μ .now) (m_campusOff : μ .campusOff) (m_ten : μ .ten) (m_cd : μ .cd) (m_cdg : μ .cdg) (m_cl : μ .cl) :
    Keeps μ σ (State.cdUnshed s) := by
  unfold State.cdUnshed
  repeat' first
    | with_reducible assumption
    | intro _
    | with_reducible apply Keeps.ite
    | ((fail_if_no_progress extract_lets +onlyGivenNames x); first | (refine Keeps.bind x ?_ ?_; (try subst x); rotate_left; intro hx; rotate_left) | skip)
    | with_reducible apply Keeps.cdGo
    | with_reducible apply Keeps.cdMod
    | with_reducible apply Keeps.cdSafeEntry
    | with_reducible apply Keeps.reach
    | simp only [Keeps.upd_cdg m_cdg]
    | split

theorem Keeps.of_execCdUnshed (s : State) (hs : Keeps μ σ s) (m_space : μ .space) (m_now : μ .now) (m_campusOff : μ .campusOff) (m_ten : μ .ten) (m_cd : μ .cd) (m_cdg : μ .cdg) (m_cl : μ .cl) :
    KeepsO μ σ (execCdUnshed s) := by
  unfold execCdUnshed
  repeat' first
    | with_reducible assumption
    | intro _
    | with_reducible apply KeepsO.next
    | with_reducible apply Keeps.ite
    | ((fail_if_no_progress extract_lets +onlyGivenNames x); first | (refine Keeps.bind x ?_ ?_; (try subst x); rotate_left; intro hx; rotate_left) | (refine KeepsO.bind x ?_ ?_; (try subst x); rotate_left; intro hx; rotate_left) | skip)
    | with_reducible apply Keeps.cdUnshed
    | with_reducible apply Keeps.pdDo
    | split
    | simp only [id_eq]

end Sys2Proof.Machine
end

