-- ==== Sys2Proof/Laws/KeepsFieldIo.lean ====
section
/-! SUPPORT. What each operation of Machine/FieldIo.lean keeps: the queue, the clock's direction, the canonical form of the register
space, and every part of the state it does not name (`Keeps`). -/

set_option linter.unusedTactic false
set_option linter.unreachableTactic false
set_option linter.unusedSimpArgs false
set_option linter.unusedVariables false

namespace Sys2Proof.Machine

variable {μ : Part → Prop} {σ : State}

theorem Keeps.setFio (s : State) (x : FioState) (hs : Keeps μ σ s) (m_fio : μ .fio) :
    Keeps μ σ (State.setFio s x) := by
  unfold State.setFio
  repeat' first
    | with_reducible assumption
    | intro _
    | with_reducible apply Keeps.ite
    | simp only [Keeps.upd_fio m_fio]

theorem Keeps.diSource (s : State) (n : ℕ) (prop : ℕ) (hs : Keeps μ σ s) (m_space : μ .space) (m_free : μ .free) (m_wres : μ .wres) (m_log : μ .log) (m_ten : μ .ten) (m_broken : μ .broken) (m_safe : μ .safe) (m_cmds : μ .cmds) (m_cd : μ .cd) (m_fwd : μ .fwd) (m_sk : μ .sk) :
    Keeps μ σ (State.diSource s n prop) := by
  unfold State.diSource
  repeat' first
    | with_reducible assumption
    | intro _
    | with_reducible apply Keeps.ite
    | ((fail_if_no_progress extract_lets +onlyGivenNames x); first | (refine Keeps.bind x ?_ ?_; (try subst x); rotate_left; intro hx; rotate_left) | skip)
    | with_reducible apply Keeps.sourceAll
    | split
    | simp only [id_eq]

theorem Keeps.diFlip (s : State) (n : ℕ) (quiet : Bool) (hs : Keeps μ σ s) (m_space : μ .space) (m_free : μ .free) (m_wres : μ .wres) (m_log : μ .log) (m_ten : μ .ten) (m_broken : μ .broken) (m_safe : μ .safe) (m_cmds : μ .cmds) (m_cd : μ .cd) (m_fwd : μ .fwd) (m_sk : μ .sk) (m_fio : μ .fio) :
    Keeps μ σ (State.diFlip s n quiet) := by
  unfold State.diFlip
  repeat' first
    | with_reducible assumption
    | intro _
    | with_reducible apply Keeps.ite
    | ((fail_if_no_progress extract_lets +onlyGivenNames x); first | (refine Keeps.bind x ?_ ?_; (try subst x); rotate_left; intro hx; rotate_left) | skip)
    | with_reducible apply Keeps.diSource
    | with_reducible apply Keeps.put
    | with_reducible apply Keeps.setFio
    | split
    | simp only [id_eq]

theorem Keeps.diPass (s : State) (n : ℕ) (k : ℕ) (run : ℕ) (hs : Keeps μ σ s) (m_now : μ .now) (m_campusOff : μ .campusOff) (m_cl : μ .cl) (m_fio : μ .fio) :
    Keeps μ σ (State.diPass s n k run) := by
  unfold State.diPass
  repeat' first
    | with_reducible assumption
    | intro _
    | with_reducible apply Keeps.ite
    | ((fail_if_no_progress extract_lets +onlyGivenNames x); first | (refine Keeps.bind x ?_ ?_; (try subst x); rotate_left; intro hx; rotate_left) | skip)
    | with_reducible apply Keeps.reach
    | with_reducible apply Keeps.setFio
    | split
    | simp only [id_eq]

theorem Keeps.diSample (s : State) (n : ℕ) (raw : Bool) (k : ℕ) (hs : Keeps μ σ s) (m_space : μ .space) (m_now : μ .now) (m_campusOff : μ .campusOff) (m_free : μ .free) (m_wres : μ .wres) (m_log : μ .log) (m_ten : μ .ten) (m_broken : μ .broken) (m_safe : μ .safe) (m_cmds : μ .cmds) (m_cd : μ .cd) (m_fwd : μ .fwd) (m_sk : μ .sk) (m_cl : μ .cl) (m_fio : μ .fio) :
    Keeps μ σ (State.diSample s n raw k) := by
  unfold State.diSample
  repeat' first
    | with_reducible assumption
    | intro _
    | with_reducible apply Keeps.ite
    | ((fail_if_no_progress extract_lets +onlyGivenNames x); first | (refine Keeps.bind x ?_ ?_; (try subst x); rotate_left; intro hx; rotate_left) | skip)
    | with_reducible apply Keeps.diFlip
    | with_reducible apply Keeps.diPass
    | with_reducible apply Keeps.setFio
    | split
    | simp only [id_eq]

theorem Keeps.of_execDiStateChange (n : Fin 64) (raw : Bool) (k : ℕ) (s : State) (hs : Keeps μ σ s) (m_space : μ .space) (m_now : μ .now) (m_campusOff : μ .campusOff) (m_free : μ .free) (m_wres : μ .wres) (m_log : μ .log) (m_ten : μ .ten) (m_broken : μ .broken) (m_safe : μ .safe) (m_cmds : μ .cmds) (m_cd : μ .cd) (m_fwd : μ .fwd) (m_sk : μ .sk) (m_cl : μ .cl) (m_fio : μ .fio) :
    KeepsO μ σ (execDiStateChange n raw k s) := by
  unfold execDiStateChange
  repeat' first
    | with_reducible assumption
    | intro _
    | with_reducible apply KeepsO.next
    | with_reducible apply Keeps.ite
    | ((fail_if_no_progress extract_lets +onlyGivenNames x); first | (refine Keeps.bind x ?_ ?_; (try subst x); rotate_left; intro hx; rotate_left) | (refine KeepsO.bind x ?_ ?_; (try subst x); rotate_left; intro hx; rotate_left) | skip)
    | with_reducible apply Keeps.diSample
    | with_reducible apply Keeps.pdDo
    | split
    | simp only [id_eq]

theorem Keeps.diDrop (s : State) (n : ℕ) (hs : Keeps μ σ s) (m_space : μ .space) (m_cd : μ .cd) (m_fio : μ .fio) :
    Keeps μ σ (State.diDrop s n) := by
  unfold State.diDrop
  repeat' first
    | with_reducible assumption
    | intro _
    | with_reducible apply Keeps.ite
    | ((fail_if_no_progress extract_lets +onlyGivenNames x); first | (refine Keeps.bind x ?_ ?_; (try subst x); rotate_left; intro hx; rotate_left) | skip)
    | with_reducible apply Keeps.cdContact
    | with_reducible apply Keeps.each
    | with_reducible apply Keeps.setFio
    | split
    | simp only [id_eq]

theorem Keeps.diCfgWrite (s : State) (w : Who) (n : ℕ) (data : Word) (hs : Keeps μ σ s) (m_space : μ .space) (m_wres : μ .wres) (m_log : μ .log) (m_ten : μ .ten) (m_cd : μ .cd) (m_fio : μ .fio) :
    Keeps μ σ (State.diCfgWrite s w n data) := by
  unfold State.diCfgWrite
  repeat' first
    | with_reducible assumption
    | intro _
    | with_reducible apply Keeps.ite
    | ((fail_if_no_progress extract_lets +onlyGivenNames x); first | (refine Keeps.bind x ?_ ?_; (try subst x); rotate_left; intro hx; rotate_left) | skip)
    | with_reducible apply Keeps.cfgWrite
    | with_reducible apply Keeps.diDrop
    | with_reducible apply Keeps.setFio
    | split
    | simp only [id_eq]

theorem Keeps.diCntSet (s : State) (w : Who) (n : ℕ) (data : Word) (hs : Keeps μ σ s) (m_space : μ .space) (m_wres : μ .wres) (m_log : μ .log) (m_ten : μ .ten) :
    Keeps μ σ (State.diCntSet s w n data) := by
  unfold State.diCntSet
  repeat' first
    | with_reducible assumption
    | intro _
    | with_reducible apply Keeps.ite
    | with_reducible apply Keeps.auditW
    | with_reducible apply Keeps.setWord

theorem Keeps.contactTick (s : State) (hs : Keeps μ σ s) (m_space : μ .space) (m_free : μ .free) (m_wres : μ .wres) (m_log : μ .log) (m_ten : μ .ten) (m_broken : μ .broken) (m_safe : μ .safe) (m_cmds : μ .cmds) (m_cd : μ .cd) (m_fwd : μ .fwd) (m_sk : μ .sk) :
    Keeps μ σ (State.contactTick s) := by
  unfold State.contactTick
  repeat' first
    | with_reducible assumption
    | intro _
    | with_reducible apply Keeps.ite
    | ((fail_if_no_progress extract_lets +onlyGivenNames x); first | (refine Keeps.bind x ?_ ?_; (try subst x); rotate_left; intro hx; rotate_left) | skip)
    | with_reducible apply Keeps.diSource
    | with_reducible apply Keeps.each
    | split
    | simp only [id_eq]

theorem Keeps.of_execPdTickArrival (s : State) (hs : Keeps μ σ s) (m_space : μ .space) (m_free : μ .free) (m_wres : μ .wres) (m_log : μ .log) (m_ten : μ .ten) (m_broken : μ .broken) (m_safe : μ .safe) (m_cmds : μ .cmds) (m_cd : μ .cd) (m_fwd : μ .fwd) (m_sk : μ .sk) (m_adc : μ .adc) (m_pdErrs : μ .pdErrs) :
    KeepsO μ σ (execPdTickArrival s) := by
  unfold execPdTickArrival
  repeat' first
    | with_reducible assumption
    | intro _
    | with_reducible apply KeepsO.next
    | with_reducible apply Keeps.ite
    | ((fail_if_no_progress extract_lets +onlyGivenNames x); first | (refine Keeps.bind x ?_ ?_; (try subst x); rotate_left; intro hx; rotate_left) | (refine KeepsO.bind x ?_ ?_; (try subst x); rotate_left; intro hx; rotate_left) | skip)
    | with_reducible apply Keeps.contactTick
    | with_reducible apply Keeps.pdTick
    | split
    | simp only [id_eq]

theorem Keeps.setDo (s : State) (n : ℕ) (d : DoOut) (hs : Keeps μ σ s) (m_fio : μ .fio) :
    Keeps μ σ (State.setDo s n d) := by
  unfold State.setDo
  repeat' first
    | with_reducible assumption
    | intro _
    | with_reducible apply Keeps.ite
    | ((fail_if_no_progress extract_lets +onlyGivenNames x); first | (refine Keeps.bind x ?_ ?_; (try subst x); rotate_left; intro hx; rotate_left) | skip)
    | with_reducible apply Keeps.setFio

theorem Keeps.doTripped (s : State) (n : ℕ) (hs : Keeps μ σ s) (m_space : μ .space) (m_fio : μ .fio) :
    Keeps μ σ (State.doTripped s n) := by
  unfold State.doTripped
  repeat' first
    | with_reducible assumption
    | intro _
    | with_reducible apply Keeps.ite
    | ((fail_if_no_progress extract_lets +onlyGivenNames x); first | (refine Keeps.bind x ?_ ?_; (try subst x); rotate_left; intro hx; rotate_left) | skip)
    | with_reducible apply Keeps.put
    | with_reducible apply Keeps.setDo
    | split

theorem Keeps.doEval (s : State) (n : ℕ) (hs : Keeps μ σ s) (m_space : μ .space) (m_fio : μ .fio) :
    Keeps μ σ (State.doEval s n) := by
  unfold State.doEval
  repeat' first
    | with_reducible assumption
    | intro _
    | with_reducible apply Keeps.ite
    | ((fail_if_no_progress extract_lets +onlyGivenNames x); first | (refine Keeps.bind x ?_ ?_; (try subst x); rotate_left; intro hx; rotate_left) | skip)
    | with_reducible apply Keeps.doTripped
    | with_reducible apply Keeps.put
    | with_reducible apply Keeps.setDo

theorem Keeps.of_execDoEval (s : State) (hs : Keeps μ σ s) (m_space : μ .space) (m_now : μ .now) (m_campusOff : μ .campusOff) (m_cl : μ .cl) (m_fio : μ .fio) :
    KeepsO μ σ (execDoEval s) := by
  unfold execDoEval
  repeat' first
    | with_reducible assumption
    | intro _
    | with_reducible apply KeepsO.next
    | with_reducible apply Keeps.ite
    | ((fail_if_no_progress extract_lets +onlyGivenNames x); first | (refine Keeps.bind x ?_ ?_; (try subst x); rotate_left; intro hx; rotate_left) | (refine KeepsO.bind x ?_ ?_; (try subst x); rotate_left; intro hx; rotate_left) | skip)
    | with_reducible apply Keeps.doEval
    | with_reducible apply Keeps.each
    | with_reducible apply Keeps.pdDo
    | with_reducible apply Keeps.reach
    | with_reducible apply Keeps.setFio
    | split
    | simp only [id_eq]

theorem Keeps.fioCommand (s : State) (cls : ℕ) (n : ℕ) (hs : Keeps μ σ s) (m_cmds : μ .cmds) (m_fwd : μ .fwd) (m_clk : μ .clk) :
    Keeps μ σ (State.fioCommand s cls n) := by
  unfold State.fioCommand
  repeat' first
    | with_reducible assumption
    | intro _
    | with_reducible apply Keeps.ite
    | ((fail_if_no_progress extract_lets +onlyGivenNames x); first | (refine Keeps.bind x ?_ ?_; (try subst x); rotate_left; intro hx; rotate_left) | skip)
    | with_reducible apply Keeps.fwdTake
    | with_reducible apply Keeps.setCmd
    | with_reducible apply Keeps.of_fst (by assumption)
    | with_reducible apply Keeps.of_snd (by assumption)
    | split
    | simp only [id_eq]

theorem Keeps.of_execDoCommand (n : Fin 32) (s : State) (hs : Keeps μ σ s) (m_cmds : μ .cmds) (m_fwd : μ .fwd) (m_clk : μ .clk) :
    KeepsO μ σ (execDoCommand n s) := by
  unfold execDoCommand
  repeat' first
    | with_reducible assumption
    | intro _
    | with_reducible apply KeepsO.next
    | with_reducible apply Keeps.ite
    | ((fail_if_no_progress extract_lets +onlyGivenNames x); first | (refine Keeps.bind x ?_ ?_; (try subst x); rotate_left; intro hx; rotate_left) | (refine KeepsO.bind x ?_ ?_; (try subst x); rotate_left; intro hx; rotate_left) | skip)
    | with_reducible apply Keeps.fioCommand
    | with_reducible apply Keeps.pdDo
    | split
    | simp only [id_eq]

theorem Keeps.of_execDoMinTimeExpiry (n : Fin 32) (s : State) (hs : Keeps μ σ s) (m_space : μ .space) (m_now : μ .now) (m_campusOff : μ .campusOff) (m_cl : μ .cl) (m_fio : μ .fio) :
    KeepsO μ σ (execDoMinTimeExpiry n s) := by
  unfold execDoMinTimeExpiry
  repeat' first
    | with_reducible assumption
    | intro _
    | with_reducible apply KeepsO.next
    | with_reducible apply Keeps.ite
    | ((fail_if_no_progress extract_lets +onlyGivenNames x); first | (refine Keeps.bind x ?_ ?_; (try subst x); rotate_left; intro hx; rotate_left) | (refine KeepsO.bind x ?_ ?_; (try subst x); rotate_left; intro hx; rotate_left) | skip)
    | with_reducible apply Keeps.doEval
    | with_reducible apply Keeps.reach

theorem Keeps.doTrip (s : State) (n : ℕ) (f : Fld) (hs : Keeps μ σ s) (m_space : μ .space) (m_ten : μ .ten) (m_fio : μ .fio) (m_pdErrs : μ .pdErrs) :
    Keeps μ σ (State.doTrip s n f) := by
  unfold State.doTrip
  repeat' first
    | with_reducible assumption
    | intro _
    | with_reducible apply Keeps.ite
    | ((fail_if_no_progress extract_lets +onlyGivenNames x); first | (refine Keeps.bind x ?_ ?_; (try subst x); rotate_left; intro hx; rotate_left) | skip)
    | with_reducible apply Keeps.pdErr
    | with_reducible apply Keeps.put
    | with_reducible apply Keeps.setDo

theorem Keeps.doOverTime (s : State) (n : ℕ) (hs : Keeps μ σ s) (m_space : μ .space) (m_now : μ .now) (m_campusOff : μ .campusOff) (m_ten : μ .ten) (m_cl : μ .cl) (m_fio : μ .fio) (m_pdErrs : μ .pdErrs) :
    Keeps μ σ (State.doOverTime s n) := by
  unfold State.doOverTime
  repeat' first
    | with_reducible assumption
    | intro _
    | with_reducible apply Keeps.ite
    | ((fail_if_no_progress extract_lets +onlyGivenNames x); first | (refine Keeps.bind x ?_ ?_; (try subst x); rotate_left; intro hx; rotate_left) | skip)
    | with_reducible apply Keeps.doTrip
    | with_reducible apply Keeps.reach
    | split
    | simp only [id_eq]

theorem Keeps.of_execDoOvercurrent (n : Fin 32) (s : State) (hs : Keeps μ σ s) (m_space : μ .space) (m_now : μ .now) (m_campusOff : μ .campusOff) (m_ten : μ .ten) (m_cl : μ .cl) (m_fio : μ .fio) (m_pdErrs : μ .pdErrs) :
    KeepsO μ σ (execDoOvercurrent n s) := by
  unfold execDoOvercurrent
  repeat' first
    | with_reducible assumption
    | intro _
    | with_reducible apply KeepsO.next
    | with_reducible apply Keeps.ite
    | ((fail_if_no_progress extract_lets +onlyGivenNames x); first | (refine Keeps.bind x ?_ ?_; (try subst x); rotate_left; intro hx; rotate_left) | (refine KeepsO.bind x ?_ ?_; (try subst x); rotate_left; intro hx; rotate_left) | skip)
    | with_reducible apply Keeps.doOverTime
    | with_reducible apply Keeps.pdDo
    | split
    | simp only [id_eq]

theorem Keeps.of_execDoThermalTrip (n : Fin 32) (s : State) (hs : Keeps μ σ s) (m_space : μ .space) (m_ten : μ .ten) (m_fio : μ .fio) (m_pdErrs : μ .pdErrs) :
    KeepsO μ σ (execDoThermalTrip n s) := by
  unfold execDoThermalTrip
  repeat' first
    | with_reducible assumption
    | intro _
    | with_reducible apply KeepsO.next
    | with_reducible apply Keeps.ite
    | ((fail_if_no_progress extract_lets +onlyGivenNames x); first | (refine Keeps.bind x ?_ ?_; (try subst x); rotate_left; intro hx; rotate_left) | (refine KeepsO.bind x ?_ ?_; (try subst x); rotate_left; intro hx; rotate_left) | skip)
    | with_reducible apply Keeps.doTrip
    | with_reducible apply Keeps.pdDo
    | split
    | simp only [id_eq]

theorem Keeps.doOpenload (s : State) (n : ℕ) (v : Bool) (hs : Keeps μ σ s) (m_space : μ .space) (m_now : μ .now) (m_campusOff : μ .campusOff) (m_cl : μ .cl) (m_fio : μ .fio) :
    Keeps μ σ (State.doOpenload s n v) := by
  unfold State.doOpenload
  repeat' first
    | with_reducible assumption
    | intro _
    | with_reducible apply Keeps.ite
    | ((fail_if_no_progress extract_lets +onlyGivenNames x); first | (refine Keeps.bind x ?_ ?_; (try subst x); rotate_left; intro hx; rotate_left) | skip)
    | with_reducible apply Keeps.put
    | with_reducible apply Keeps.reach
    | with_reducible apply Keeps.setDo
    | split
    | simp only [id_eq]

theorem Keeps.of_execDoOpenloadDetect (n : Fin 32) (s : State) (hs : Keeps μ σ s) (m_space : μ .space) (m_now : μ .now) (m_campusOff : μ .campusOff) (m_cl : μ .cl) (m_fio : μ .fio) :
    KeepsO μ σ (execDoOpenloadDetect n s) := by
  unfold execDoOpenloadDetect
  repeat' first
    | with_reducible assumption
    | intro _
    | with_reducible apply KeepsO.next
    | with_reducible apply Keeps.ite
    | ((fail_if_no_progress extract_lets +onlyGivenNames x); first | (refine Keeps.bind x ?_ ?_; (try subst x); rotate_left; intro hx; rotate_left) | (refine KeepsO.bind x ?_ ?_; (try subst x); rotate_left; intro hx; rotate_left) | skip)
    | with_reducible apply Keeps.doOpenload
    | with_reducible apply Keeps.pdDo
    | split
    | simp only [id_eq]

theorem Keeps.of_execDoOpenloadClear (n : Fin 32) (s : State) (hs : Keeps μ σ s) (m_space : μ .space) (m_now : μ .now) (m_campusOff : μ .campusOff) (m_cl : μ .cl) (m_fio : μ .fio) :
    KeepsO μ σ (execDoOpenloadClear n s) := by
  unfold execDoOpenloadClear
  repeat' first
    | with_reducible assumption
    | intro _
    | with_reducible apply KeepsO.next
    | with_reducible apply Keeps.ite
    | ((fail_if_no_progress extract_lets +onlyGivenNames x); first | (refine Keeps.bind x ?_ ?_; (try subst x); rotate_left; intro hx; rotate_left) | (refine KeepsO.bind x ?_ ?_; (try subst x); rotate_left; intro hx; rotate_left) | skip)
    | with_reducible apply Keeps.doOpenload
    | with_reducible apply Keeps.pdDo
    | split
    | simp only [id_eq]

theorem Keeps.aoSet (s : State) (n : ℕ) (va : ℕ) (hs : Keeps μ σ s) (m_space : μ .space) (m_fio : μ .fio) :
    Keeps μ σ (State.aoSet s n va) := by
  unfold State.aoSet
  repeat' first
    | with_reducible assumption
    | intro _
    | with_reducible apply Keeps.ite
    | ((fail_if_no_progress extract_lets +onlyGivenNames x); first | (refine Keeps.bind x ?_ ?_; (try subst x); rotate_left; intro hx; rotate_left) | skip)
    | with_reducible apply Keeps.put
    | with_reducible apply Keeps.setFio

theorem Keeps.of_execAoUpdate (s : State) (hs : Keeps μ σ s) (m_space : μ .space) (m_now : μ .now) (m_campusOff : μ .campusOff) (m_cl : μ .cl) (m_fio : μ .fio) :
    KeepsO μ σ (execAoUpdate s) := by
  unfold execAoUpdate
  repeat' first
    | with_reducible assumption
    | intro _
    | with_reducible apply KeepsO.next
    | with_reducible apply Keeps.ite
    | ((fail_if_no_progress extract_lets +onlyGivenNames x); first | (refine Keeps.bind x ?_ ?_; (try subst x); rotate_left; intro hx; rotate_left) | (refine KeepsO.bind x ?_ ?_; (try subst x); rotate_left; intro hx; rotate_left) | skip)
    | with_reducible apply Keeps.aoSet
    | with_reducible apply Keeps.each
    | with_reducible apply Keeps.pdDo
    | with_reducible apply Keeps.reach
    | with_reducible apply Keeps.setFio
    | split
    | simp only [id_eq]

theorem Keeps.of_execAoCommand (n : Fin 16) (s : State) (hs : Keeps μ σ s) (m_cmds : μ .cmds) (m_fwd : μ .fwd) (m_clk : μ .clk) :
    KeepsO μ σ (execAoCommand n s) := by
  unfold execAoCommand
  repeat' first
    | with_reducible assumption
    | intro _
    | with_reducible apply KeepsO.next
    | with_reducible apply Keeps.ite
    | ((fail_if_no_progress extract_lets +onlyGivenNames x); first | (refine Keeps.bind x ?_ ?_; (try subst x); rotate_left; intro hx; rotate_left) | (refine KeepsO.bind x ?_ ?_; (try subst x); rotate_left; intro hx; rotate_left) | skip)
    | with_reducible apply Keeps.fioCommand
    | with_reducible apply Keeps.pdDo
    | split
    | simp only [id_eq]

theorem Keeps.aoLimit (s : State) (n : ℕ) (hs : Keeps μ σ s) (m_fio : μ .fio) :
    Keeps μ σ (State.aoLimit s n) := by
  unfold State.aoLimit
  repeat' first
    | with_reducible assumption
    | intro _
    | with_reducible apply Keeps.ite
    | ((fail_if_no_progress extract_lets +onlyGivenNames x); first | (refine Keeps.bind x ?_ ?_; (try subst x); rotate_left; intro hx; rotate_left) | skip)
    | with_reducible apply Keeps.setFio
    | split
    | simp only [id_eq]

theorem Keeps.aoOverload (s : State) (n : ℕ) (hs : Keeps μ σ s) (m_space : μ .space) (m_now : μ .now) (m_campusOff : μ .campusOff) (m_ten : μ .ten) (m_cl : μ .cl) (m_fio : μ .fio) (m_pdErrs : μ .pdErrs) :
    Keeps μ σ (State.aoOverload s n) := by
  unfold State.aoOverload
  repeat' first
    | with_reducible assumption
    | intro _
    | with_reducible apply Keeps.ite
    | ((fail_if_no_progress extract_lets +onlyGivenNames x); first | (refine Keeps.bind x ?_ ?_; (try subst x); rotate_left; intro hx; rotate_left) | skip)
    | with_reducible apply Keeps.aoSet
    | with_reducible apply Keeps.pdErr
    | with_reducible apply Keeps.put
    | with_reducible apply Keeps.reach
    | split
    | simp only [id_eq]

theorem Keeps.of_execAoOverload (n : Fin 16) (s : State) (hs : Keeps μ σ s) (m_space : μ .space) (m_now : μ .now) (m_campusOff : μ .campusOff) (m_ten : μ .ten) (m_cl : μ .cl) (m_fio : μ .fio) (m_pdErrs : μ .pdErrs) :
    KeepsO μ σ (execAoOverload n s) := by
  unfold execAoOverload
  repeat' first
    | with_reducible assumption
    | intro _
    | with_reducible apply KeepsO.next
    | with_reducible apply Keeps.ite
    | ((fail_if_no_progress extract_lets +onlyGivenNames x); first | (refine Keeps.bind x ?_ ?_; (try subst x); rotate_left; intro hx; rotate_left) | (refine KeepsO.bind x ?_ ?_; (try subst x); rotate_left; intro hx; rotate_left) | skip)
    | with_reducible apply Keeps.aoOverload
    | with_reducible apply Keeps.pdDo
    | split
    | simp only [id_eq]

theorem Keeps.vfieldMeas (s : State) (v : ℕ) (hs : Keeps μ σ s) (m_space : μ .space) (m_fio : μ .fio) :
    Keeps μ σ (State.vfieldMeas s v) := by
  unfold State.vfieldMeas
  repeat' first
    | with_reducible assumption
    | intro _
    | with_reducible apply Keeps.ite
    | ((fail_if_no_progress extract_lets +onlyGivenNames x); first | (refine Keeps.bind x ?_ ?_; (try subst x); rotate_left; intro hx; rotate_left) | skip)
    | with_reducible apply Keeps.put
    | with_reducible apply Keeps.setFio
    | split
    | simp only [id_eq]

theorem Keeps.vfieldLow (s : State) (v : ℕ) (hs : Keeps μ σ s) (m_space : μ .space) (m_now : μ .now) (m_campusOff : μ .campusOff) (m_cl : μ .cl) (m_fio : μ .fio) :
    Keeps μ σ (State.vfieldLow s v) := by
  unfold State.vfieldLow
  repeat' first
    | with_reducible assumption
    | intro _
    | with_reducible apply Keeps.ite
    | ((fail_if_no_progress extract_lets +onlyGivenNames x); first | (refine Keeps.bind x ?_ ?_; (try subst x); rotate_left; intro hx; rotate_left) | skip)
    | with_reducible apply Keeps.put
    | with_reducible apply Keeps.reach
    | with_reducible apply Keeps.setFio
    | with_reducible apply Keeps.vfieldMeas
    | split
    | simp only [id_eq]

theorem Keeps.of_execVfieldLow (v : ℕ) (s : State) (hs : Keeps μ σ s) (m_space : μ .space) (m_now : μ .now) (m_campusOff : μ .campusOff) (m_cl : μ .cl) (m_fio : μ .fio) :
    KeepsO μ σ (execVfieldLow v s) := by
  unfold execVfieldLow
  repeat' first
    | with_reducible assumption
    | intro _
    | with_reducible apply KeepsO.next
    | with_reducible apply Keeps.ite
    | ((fail_if_no_progress extract_lets +onlyGivenNames x); first | (refine Keeps.bind x ?_ ?_; (try subst x); rotate_left; intro hx; rotate_left) | (refine KeepsO.bind x ?_ ?_; (try subst x); rotate_left; intro hx; rotate_left) | skip)
    | with_reducible apply Keeps.pdDo
    | with_reducible apply Keeps.vfieldLow
    | split
    | simp only [id_eq]

theorem Keeps.vfieldRecover (s : State) (v : ℕ) (hs : Keeps μ σ s) (m_space : μ .space) (m_now : μ .now) (m_campusOff : μ .campusOff) (m_cl : μ .cl) (m_fio : μ .fio) :
    Keeps μ σ (State.vfieldRecover s v) := by
  unfold State.vfieldRecover
  repeat' first
    | with_reducible assumption
    | intro _
    | with_reducible apply Keeps.ite
    | ((fail_if_no_progress extract_lets +onlyGivenNames x); first | (refine Keeps.bind x ?_ ?_; (try subst x); rotate_left; intro hx; rotate_left) | skip)
    | with_reducible apply Keeps.put
    | with_reducible apply Keeps.reach
    | with_reducible apply Keeps.setFio
    | with_reducible apply Keeps.vfieldMeas
    | split
    | simp only [id_eq]

theorem Keeps.of_execVfieldRecover (v : ℕ) (s : State) (hs : Keeps μ σ s) (m_space : μ .space) (m_now : μ .now) (m_campusOff : μ .campusOff) (m_cl : μ .cl) (m_fio : μ .fio) :
    KeepsO μ σ (execVfieldRecover v s) := by
  unfold execVfieldRecover
  repeat' first
    | with_reducible assumption
    | intro _
    | with_reducible apply KeepsO.next
    | with_reducible apply Keeps.ite
    | ((fail_if_no_progress extract_lets +onlyGivenNames x); first | (refine Keeps.bind x ?_ ?_; (try subst x); rotate_left; intro hx; rotate_left) | (refine KeepsO.bind x ?_ ?_; (try subst x); rotate_left; intro hx; rotate_left) | skip)
    | with_reducible apply Keeps.pdDo
    | with_reducible apply Keeps.vfieldRecover
    | split
    | simp only [id_eq]

theorem Keeps.fioWriteUp (s : State) (w : Who) (a : ℕ) (data : Word) (hs : Keeps μ σ s) (m_space : μ .space) (m_wres : μ .wres) (m_log : μ .log) (m_ten : μ .ten) (m_cd : μ .cd) (m_fio : μ .fio) :
    Keeps μ σ (State.fioWriteUp s w a data) := by
  unfold State.fioWriteUp
  repeat' first
    | with_reducible assumption
    | intro _
    | with_reducible apply Keeps.ite
    | ((fail_if_no_progress extract_lets +onlyGivenNames x); first | (refine Keeps.bind x ?_ ?_; (try subst x); rotate_left; intro hx; rotate_left) | skip)
    | with_reducible apply Keeps.aoLimit
    | with_reducible apply Keeps.cfgWrite
    | with_reducible apply Keeps.clearWrite
    | with_reducible apply Keeps.diCfgWrite
    | with_reducible apply Keeps.diCntSet
    | with_reducible apply Keeps.kindWrite
    | with_reducible apply Keeps.setDo
    | with_reducible apply Keeps.setFio
    | split
    | simp only [id_eq]

theorem Keeps.fioWrite (s : State) (w : Who) (a : ℕ) (data : Word) (hs : Keeps μ σ s) (m_space : μ .space) (m_wres : μ .wres) (m_log : μ .log) (m_ten : μ .ten) (m_cd : μ .cd) (m_fio : μ .fio) :
    Keeps μ σ (State.fioWrite s w a data) := by
  unfold State.fioWrite
  repeat' first
    | with_reducible assumption
    | intro _
    | with_reducible apply Keeps.ite
    | ((fail_if_no_progress extract_lets +onlyGivenNames x); first | (refine Keeps.bind x ?_ ?_; (try subst x); rotate_left; intro hx; rotate_left) | skip)
    | with_reducible apply Keeps.dropWrite
    | with_reducible apply Keeps.fioWriteUp
    | with_reducible apply Keeps.refuseWrite
    | split
    | simp only [id_eq]

theorem Keeps.of_execDiCfgWrite (p : Path) (n : Fin 64) (data : Word) (s : State) (hs : Keeps μ σ s) (m_space : μ .space) (m_rdata : μ .rdata) (m_wres : μ .wres) (m_banks : μ .banks) (m_log : μ .log) (m_ten : μ .ten) (m_cd : μ .cd) (m_fio : μ .fio) :
    KeepsO μ σ (execDiCfgWrite p n data s) := by
  unfold execDiCfgWrite
  repeat' first
    | with_reducible assumption
    | intro _
    | with_reducible apply KeepsO.next
    | with_reducible apply Keeps.ite
    | ((fail_if_no_progress extract_lets +onlyGivenNames x); first | (refine Keeps.bind x ?_ ?_; (try subst x); rotate_left; intro hx; rotate_left) | (refine KeepsO.bind x ?_ ?_; (try subst x); rotate_left; intro hx; rotate_left) | skip)
    | with_reducible apply Keeps.byPath
    | with_reducible apply Keeps.fioWrite
    | split
    | simp only [id_eq]

theorem Keeps.of_execDiCntset (p : Path) (n : Fin 64) (data : Word) (s : State) (hs : Keeps μ σ s) (m_space : μ .space) (m_rdata : μ .rdata) (m_wres : μ .wres) (m_banks : μ .banks) (m_log : μ .log) (m_ten : μ .ten) (m_cd : μ .cd) (m_fio : μ .fio) :
    KeepsO μ σ (execDiCntset p n data s) := by
  unfold execDiCntset
  repeat' first
    | with_reducible assumption
    | intro _
    | with_reducible apply KeepsO.next
    | with_reducible apply Keeps.ite
    | ((fail_if_no_progress extract_lets +onlyGivenNames x); first | (refine Keeps.bind x ?_ ?_; (try subst x); rotate_left; intro hx; rotate_left) | (refine KeepsO.bind x ?_ ?_; (try subst x); rotate_left; intro hx; rotate_left) | skip)
    | with_reducible apply Keeps.byPath
    | with_reducible apply Keeps.fioWrite
    | split
    | simp only [id_eq]

theorem Keeps.of_execDoFaultClear (p : Path) (n : Fin 32) (data : Word) (s : State) (hs : Keeps μ σ s) (m_space : μ .space) (m_rdata : μ .rdata) (m_wres : μ .wres) (m_banks : μ .banks) (m_log : μ .log) (m_ten : μ .ten) (m_cd : μ .cd) (m_fio : μ .fio) :
    KeepsO μ σ (execDoFaultClear p n data s) := by
  unfold execDoFaultClear
  repeat' first
    | with_reducible assumption
    | intro _
    | with_reducible apply KeepsO.next
    | with_reducible apply Keeps.ite
    | ((fail_if_no_progress extract_lets +onlyGivenNames x); first | (refine Keeps.bind x ?_ ?_; (try subst x); rotate_left; intro hx; rotate_left) | (refine KeepsO.bind x ?_ ?_; (try subst x); rotate_left; intro hx; rotate_left) | skip)
    | with_reducible apply Keeps.byPath
    | with_reducible apply Keeps.fioWrite
    | split
    | simp only [id_eq]

theorem Keeps.of_execAoFaultClear (p : Path) (n : Fin 16) (data : Word) (s : State) (hs : Keeps μ σ s) (m_space : μ .space) (m_rdata : μ .rdata) (m_wres : μ .wres) (m_banks : μ .banks) (m_log : μ .log) (m_ten : μ .ten) (m_cd : μ .cd) (m_fio : μ .fio) :
    KeepsO μ σ (execAoFaultClear p n data s) := by
  unfold execAoFaultClear
  repeat' first
    | with_reducible assumption
    | intro _
    | with_reducible apply KeepsO.next
    | with_reducible apply Keeps.ite
    | ((fail_if_no_progress extract_lets +onlyGivenNames x); first | (refine Keeps.bind x ?_ ?_; (try subst x); rotate_left; intro hx; rotate_left) | (refine KeepsO.bind x ?_ ?_; (try subst x); rotate_left; intro hx; rotate_left) | skip)
    | with_reducible apply Keeps.byPath
    | with_reducible apply Keeps.fioWrite
    | split
    | simp only [id_eq]

end Sys2Proof.Machine
end

