-- ==== Sys2Proof/Laws/KeepsZoneBus.lean ====
section
/-! SUPPORT. What each operation of Machine/ZoneBus.lean keeps: the queue, the clock's direction, the canonical form of the register
space, and every part of the state it does not name (`Keeps`). -/

set_option linter.unusedTactic false
set_option linter.unreachableTactic false
set_option linter.unusedSimpArgs false
set_option linter.unusedVariables false

namespace Sys2Proof.Machine

variable {μ : Part → Prop} {σ : State}

theorem Keeps.nodeSet (s : State) (z : ℕ) (a : ℕ) (st : ℕ) (hs : Keeps μ σ s) (m_space : μ .space) (m_ten : μ .ten) :
    Keeps μ σ (State.nodeSet s z a st) := by
  unfold State.nodeSet
  repeat' first
    | with_reducible assumption
    | intro _
    | with_reducible apply Keeps.ite
    | ((fail_if_no_progress extract_lets +onlyGivenNames x); first | (refine Keeps.bind x ?_ ?_; (try subst x); rotate_left; intro hx; rotate_left) | skip)
    | with_reducible apply Keeps.postEvt
    | with_reducible apply Keeps.put

theorem Keeps.nodeSeen (s : State) (z : ℕ) (a : ℕ) (hs : Keeps μ σ s) (m_zb : μ .zb) :
    Keeps μ σ (State.nodeSeen s z a) := by
  unfold State.nodeSeen
  repeat' first
    | with_reducible assumption
    | intro _
    | with_reducible apply Keeps.ite
    | ((fail_if_no_progress extract_lets +onlyGivenNames x); first | (refine Keeps.bind x ?_ ?_; (try subst x); rotate_left; intro hx; rotate_left) | skip)
    | with_reducible apply Keeps.setSeg

theorem Keeps.nodeFrame (s : State) (z : ℕ) (a : ℕ) (hs : Keeps μ σ s) (m_space : μ .space) (m_ten : μ .ten) (m_zb : μ .zb) :
    Keeps μ σ (State.nodeFrame s z a) := by
  unfold State.nodeFrame
  repeat' first
    | with_reducible assumption
    | intro _
    | with_reducible apply Keeps.ite
    | with_reducible apply Keeps.nodeSeen
    | with_reducible apply Keeps.nodeSet

theorem Keeps.hwPush (s : State) (z : ℕ) (h : ZbHw) (hs : Keeps μ σ s) (m_zb : μ .zb) :
    Keeps μ σ (State.hwPush s z h) := by
  unfold State.hwPush
  repeat' first
    | with_reducible assumption
    | intro _
    | with_reducible apply Keeps.ite
    | ((fail_if_no_progress extract_lets +onlyGivenNames x); first | (refine Keeps.bind x ?_ ?_; (try subst x); rotate_left; intro hx; rotate_left) | skip)
    | with_reducible apply Keeps.setSeg

theorem Keeps.noMatch (s : State) (z : ℕ) (hs : Keeps μ σ s) (m_space : μ .space) :
    Keeps μ σ (State.noMatch s z) := by
  unfold State.noMatch
  repeat' first
    | with_reducible assumption
    | intro _
    | with_reducible apply Keeps.ite
    | with_reducible apply Keeps.inc

theorem Keeps.zbAnnounce (s : State) (z : ℕ) (dlc : ℕ) (d : List Byte) (hs : Keeps μ σ s) (m_space : μ .space) (m_free : μ .free) (m_ten : μ .ten) (m_zb : μ .zb) :
    Keeps μ σ (State.zbAnnounce s z dlc d) := by
  unfold State.zbAnnounce
  repeat' first
    | with_reducible assumption
    | intro _
    | with_reducible apply Keeps.ite
    | ((fail_if_no_progress extract_lets +onlyGivenNames x); first | (refine Keeps.bind x ?_ ?_; (try subst x); rotate_left; intro hx; rotate_left) | skip)
    | with_reducible apply Keeps.fresh
    | with_reducible apply Keeps.hwPush
    | with_reducible apply Keeps.noMatch
    | with_reducible apply Keeps.nodeSeen
    | with_reducible apply Keeps.nodeSet
    | with_reducible apply Keeps.put
    | with_reducible apply Keeps.setWord
    | split
    | simp only [id_eq]

theorem Keeps.zbResult (s : State) (z : ℕ) (a : ℕ) (tag : ℕ) (res : ℕ) (hs : Keeps μ σ s) (m_zb : μ .zb) :
    Keeps μ σ (State.zbResult s z a tag res) := by
  unfold State.zbResult
  repeat' first
    | with_reducible assumption
    | intro _
    | with_reducible apply Keeps.ite
    | with_reducible apply Keeps.hwPush

theorem Keeps.zbNodeWrite (s : State) (z : ℕ) (a : ℕ) (tag : ℕ) (dlc : ℕ) (d : List Byte) (hs : Keeps μ σ s) (m_space : μ .space) (m_free : μ .free) (m_wres : μ .wres) (m_log : μ .log) (m_ten : μ .ten) (m_broken : μ .broken) (m_safe : μ .safe) (m_cmds : μ .cmds) (m_cd : μ .cd) (m_fwd : μ .fwd) (m_sk : μ .sk) (m_zb : μ .zb) :
    Keeps μ σ (State.zbNodeWrite s z a tag dlc d) := by
  unfold State.zbNodeWrite
  repeat' first
    | with_reducible assumption
    | intro _
    | with_reducible apply Keeps.ite
    | ((fail_if_no_progress extract_lets +onlyGivenNames x); first | (refine Keeps.bind x ?_ ?_; (try subst x); rotate_left; intro hx; rotate_left) | skip)
    | with_reducible apply Keeps.auditW
    | with_reducible apply Keeps.inc
    | with_reducible apply Keeps.noMatch
    | with_reducible apply Keeps.ptWrite
    | with_reducible apply Keeps.setSeg
    | with_reducible apply Keeps.zbResult
    | split
    | simp only [id_eq]

theorem Keeps.recDown (s : State) (z : ℕ) (hs : Keeps μ σ s) (m_space : μ .space) (m_free : μ .free) :
    Keeps μ σ (State.recDown s z) := by
  unfold State.recDown
  repeat' first
    | with_reducible assumption
    | intro _
    | with_reducible apply Keeps.ite
    | with_reducible apply Keeps.fresh
    | with_reducible apply Keeps.put

theorem Keeps.fcsPassive (s : State) (z : ℕ) (hs : Keeps μ σ s) (m_space : μ .space) :
    Keeps μ σ (State.fcsPassive s z) := by
  unfold State.fcsPassive
  repeat' first
    | with_reducible assumption
    | intro _
    | with_reducible apply Keeps.ite
    | with_reducible apply Keeps.put

theorem Keeps.zbHandle (s : State) (z : ℕ) (f : CanFrame) (hs : Keeps μ σ s) (m_space : μ .space) (m_free : μ .free) (m_wres : μ .wres) (m_log : μ .log) (m_ten : μ .ten) (m_broken : μ .broken) (m_safe : μ .safe) (m_cmds : μ .cmds) (m_cd : μ .cd) (m_fwd : μ .fwd) (m_sk : μ .sk) (m_zb : μ .zb) :
    Keeps μ σ (State.zbHandle s z f) := by
  unfold State.zbHandle
  repeat' first
    | with_reducible assumption
    | intro _
    | with_reducible apply Keeps.ite
    | ((fail_if_no_progress extract_lets +onlyGivenNames x); first | (refine Keeps.bind x ?_ ?_; (try subst x); rotate_left; intro hx; rotate_left) | skip)
    | with_reducible apply Keeps.inc
    | with_reducible apply Keeps.noMatch
    | with_reducible apply Keeps.nodeFrame
    | with_reducible apply Keeps.put
    | with_reducible apply Keeps.zbAnnounce
    | with_reducible apply Keeps.zbNodeWrite
    | with_reducible apply Keeps.zbOffer
    | with_reducible apply Keeps.zbTagQuar
    | split
    | simp only [id_eq]

theorem Keeps.zbModeApply (s : State) (z : ℕ) (hs : Keeps μ σ s) (m_space : μ .space) :
    Keeps μ σ (State.zbModeApply s z) := by
  unfold State.zbModeApply
  repeat' first
    | with_reducible assumption
    | intro _
    | with_reducible apply Keeps.ite
    | with_reducible apply Keeps.put
    | with_reducible apply Keeps.putIf

theorem Keeps.nodesAbsent (s : State) (z : ℕ) (hs : Keeps μ σ s) (m_space : μ .space) (m_ten : μ .ten) :
    Keeps μ σ (State.nodesAbsent s z) := by
  unfold State.nodesAbsent
  repeat' first
    | with_reducible assumption
    | intro _
    | with_reducible apply Keeps.ite
    | with_reducible apply Keeps.each
    | with_reducible apply Keeps.nodeSet

theorem Keeps.zbReset (s : State) (z : ℕ) (hs : Keeps μ σ s) (m_space : μ .space) (m_ten : μ .ten) (m_zb : μ .zb) :
    Keeps μ σ (State.zbReset s z) := by
  unfold State.zbReset
  repeat' first
    | with_reducible assumption
    | intro _
    | with_reducible apply Keeps.ite
    | ((fail_if_no_progress extract_lets +onlyGivenNames x); first | (refine Keeps.bind x ?_ ?_; (try subst x); rotate_left; intro hx; rotate_left) | skip)
    | with_reducible apply Keeps.each
    | with_reducible apply Keeps.nodesAbsent
    | with_reducible apply Keeps.put
    | with_reducible apply Keeps.setSeg
    | with_reducible apply Keeps.setWord
    | with_reducible apply Keeps.zbModeApply

theorem Keeps.zbBufEnd (s : State) (z : ℕ) (b : ℕ) (e : TxEnd) (hs : Keeps μ σ s) (m_space : μ .space) (m_zb : μ .zb) :
    Keeps μ σ (State.zbBufEnd s z b e) := by
  unfold State.zbBufEnd
  repeat' first
    | with_reducible assumption
    | intro _
    | with_reducible apply Keeps.ite
    | ((fail_if_no_progress extract_lets +onlyGivenNames x); first | (refine Keeps.bind x ?_ ?_; (try subst x); rotate_left; intro hx; rotate_left) | skip)
    | with_reducible apply Keeps.setSeg
    | with_reducible apply Keeps.zbEnd
    | split

theorem Keeps.zbLostEnd (s : State) (z : ℕ) (r : ZbReq) (e : TxEnd) (hs : Keeps μ σ s) (m_space : μ .space) (m_zb : μ .zb) :
    Keeps μ σ (State.zbLostEnd s z r e) := by
  unfold State.zbLostEnd
  repeat' first
    | with_reducible assumption
    | intro _
    | with_reducible apply Keeps.ite
    | with_reducible apply Keeps.inc
    | with_reducible apply Keeps.zbTagEnd

theorem Keeps.zbDelay (s : State) (z : ℕ) (f : CanFrame) (e : TxEnd) (tdcv : ℕ) (hs : Keeps μ σ s) (m_space : μ .space) :
    Keeps μ σ (State.zbDelay s z f e tdcv) := by
  unfold State.zbDelay
  repeat' first
    | with_reducible assumption
    | intro _
    | with_reducible apply Keeps.ite
    | ((fail_if_no_progress extract_lets +onlyGivenNames x); first | (refine Keeps.bind x ?_ ?_; (try subst x); rotate_left; intro hx; rotate_left) | skip)
    | with_reducible apply Keeps.putIf
    | split
    | simp only [id_eq]

theorem Keeps.zbBusOff (s : State) (z : ℕ) (late : Bool) (tdcv : ℕ) (hs : Keeps μ σ s) (m_space : μ .space) (m_ten : μ .ten) (m_zb : μ .zb) :
    Keeps μ σ (State.zbBusOff s z late tdcv) := by
  unfold State.zbBusOff
  repeat' first
    | with_reducible assumption
    | intro _
    | with_reducible apply Keeps.ite
    | ((fail_if_no_progress extract_lets +onlyGivenNames x); first | (refine Keeps.bind x ?_ ?_; (try subst x); rotate_left; intro hx; rotate_left) | skip)
    | with_reducible apply Keeps.each
    | with_reducible apply Keeps.postErr
    | with_reducible apply Keeps.put
    | with_reducible apply Keeps.setSeg
    | with_reducible apply Keeps.zbBufEnd
    | with_reducible apply Keeps.zbDelay
    | with_reducible apply Keeps.zbEnd
    | with_reducible apply Keeps.zbLostEnd
    | with_reducible apply Keeps.zbModeApply
    | with_reducible apply Keeps.zbReset
    | split
    | simp only [id_eq]

theorem Keeps.zbError (s : State) (z : ℕ) (code : ℕ) (add : ℕ) (data : Bool) (tx : Bool) (late : Bool) (tdcv : ℕ) (hs : Keeps μ σ s) (m_space : μ .space) (m_ten : μ .ten) (m_zb : μ .zb) :
    Keeps μ σ (State.zbError s z code add data tx late tdcv) := by
  unfold State.zbError
  repeat' first
    | with_reducible assumption
    | intro _
    | with_reducible apply Keeps.ite
    | ((fail_if_no_progress extract_lets +onlyGivenNames x); first | (refine Keeps.bind x ?_ ?_; (try subst x); rotate_left; intro hx; rotate_left) | skip)
    | with_reducible apply Keeps.fcsPassive
    | with_reducible apply Keeps.inc
    | with_reducible apply Keeps.put
    | with_reducible apply Keeps.putIf
    | with_reducible apply Keeps.zbBusOff
    | split
    | simp only [id_eq]

theorem Keeps.zbException (s : State) (z : ℕ) (hs : Keeps μ σ s) (m_space : μ .space) (m_ten : μ .ten) (m_zb : μ .zb) :
    Keeps μ σ (State.zbException s z) := by
  unfold State.zbException
  repeat' first
    | with_reducible assumption
    | intro _
    | with_reducible apply Keeps.ite
    | ((fail_if_no_progress extract_lets +onlyGivenNames x); first | (refine Keeps.bind x ?_ ?_; (try subst x); rotate_left; intro hx; rotate_left) | skip)
    | with_reducible apply Keeps.put
    | with_reducible apply Keeps.zbError
    | split
    | simp only [id_eq]

theorem Keeps.zbRx (s : State) (z : ℕ) (f : CanFrame) (hs : Keeps μ σ s) (m_space : μ .space) (m_free : μ .free) (m_wres : μ .wres) (m_log : μ .log) (m_ten : μ .ten) (m_broken : μ .broken) (m_safe : μ .safe) (m_cmds : μ .cmds) (m_cd : μ .cd) (m_fwd : μ .fwd) (m_sk : μ .sk) (m_zb : μ .zb) :
    Keeps μ σ (State.zbRx s z f) := by
  unfold State.zbRx
  repeat' first
    | with_reducible assumption
    | intro _
    | with_reducible apply Keeps.ite
    | ((fail_if_no_progress extract_lets +onlyGivenNames x); first | (refine Keeps.bind x ?_ ?_; (try subst x); rotate_left; intro hx; rotate_left) | skip)
    | with_reducible apply Keeps.fcsPassive
    | with_reducible apply Keeps.recDown
    | with_reducible apply Keeps.zbException
    | with_reducible apply Keeps.zbHandle
    | split
    | simp only [id_eq]

theorem Keeps.of_execZbDataFrame (z : Fin 16) (f : CanFrame) (s : State) (hs : Keeps μ σ s) (m_space : μ .space) (m_free : μ .free) (m_wres : μ .wres) (m_log : μ .log) (m_ten : μ .ten) (m_broken : μ .broken) (m_safe : μ .safe) (m_cmds : μ .cmds) (m_cd : μ .cd) (m_fwd : μ .fwd) (m_sk : μ .sk) (m_zb : μ .zb) :
    KeepsO μ σ (execZbDataFrame z f s) := by
  unfold execZbDataFrame
  repeat' first
    | with_reducible assumption
    | intro _
    | with_reducible apply KeepsO.next
    | with_reducible apply Keeps.ite
    | ((fail_if_no_progress extract_lets +onlyGivenNames x); first | (refine Keeps.bind x ?_ ?_; (try subst x); rotate_left; intro hx; rotate_left) | (refine KeepsO.bind x ?_ ?_; (try subst x); rotate_left; intro hx; rotate_left) | skip)
    | with_reducible apply Keeps.zbRx
    | split
    | simp only [id_eq]

theorem Keeps.of_execZbReply (z : Fin 16) (f : CanFrame) (s : State) (hs : Keeps μ σ s) (m_space : μ .space) (m_free : μ .free) (m_wres : μ .wres) (m_log : μ .log) (m_ten : μ .ten) (m_broken : μ .broken) (m_safe : μ .safe) (m_cmds : μ .cmds) (m_cd : μ .cd) (m_fwd : μ .fwd) (m_sk : μ .sk) (m_zb : μ .zb) :
    KeepsO μ σ (execZbReply z f s) := by
  unfold execZbReply
  repeat' first
    | with_reducible assumption
    | intro _
    | with_reducible apply KeepsO.next
    | with_reducible apply Keeps.ite
    | ((fail_if_no_progress extract_lets +onlyGivenNames x); first | (refine Keeps.bind x ?_ ?_; (try subst x); rotate_left; intro hx; rotate_left) | (refine KeepsO.bind x ?_ ?_; (try subst x); rotate_left; intro hx; rotate_left) | skip)
    | with_reducible apply Keeps.zbRx
    | split
    | simp only [id_eq]

theorem Keeps.of_execZbAnnounce (z : Fin 16) (f : CanFrame) (s : State) (hs : Keeps μ σ s) (m_space : μ .space) (m_free : μ .free) (m_wres : μ .wres) (m_log : μ .log) (m_ten : μ .ten) (m_broken : μ .broken) (m_safe : μ .safe) (m_cmds : μ .cmds) (m_cd : μ .cd) (m_fwd : μ .fwd) (m_sk : μ .sk) (m_zb : μ .zb) :
    KeepsO μ σ (execZbAnnounce z f s) := by
  unfold execZbAnnounce
  repeat' first
    | with_reducible assumption
    | intro _
    | with_reducible apply KeepsO.next
    | with_reducible apply Keeps.ite
    | ((fail_if_no_progress extract_lets +onlyGivenNames x); first | (refine Keeps.bind x ?_ ?_; (try subst x); rotate_left; intro hx; rotate_left) | (refine KeepsO.bind x ?_ ?_; (try subst x); rotate_left; intro hx; rotate_left) | skip)
    | with_reducible apply Keeps.zbRx
    | split
    | simp only [id_eq]

theorem Keeps.of_execZbHeartbeat (z : Fin 16) (f : CanFrame) (s : State) (hs : Keeps μ σ s) (m_space : μ .space) (m_free : μ .free) (m_wres : μ .wres) (m_log : μ .log) (m_ten : μ .ten) (m_broken : μ .broken) (m_safe : μ .safe) (m_cmds : μ .cmds) (m_cd : μ .cd) (m_fwd : μ .fwd) (m_sk : μ .sk) (m_zb : μ .zb) :
    KeepsO μ σ (execZbHeartbeat z f s) := by
  unfold execZbHeartbeat
  repeat' first
    | with_reducible assumption
    | intro _
    | with_reducible apply KeepsO.next
    | with_reducible apply Keeps.ite
    | ((fail_if_no_progress extract_lets +onlyGivenNames x); first | (refine Keeps.bind x ?_ ?_; (try subst x); rotate_left; intro hx; rotate_left) | (refine KeepsO.bind x ?_ ?_; (try subst x); rotate_left; intro hx; rotate_left) | skip)
    | with_reducible apply Keeps.zbRx
    | split
    | simp only [id_eq]

theorem Keeps.of_execZbNodeWrite (z : Fin 16) (f : CanFrame) (s : State) (hs : Keeps μ σ s) (m_space : μ .space) (m_free : μ .free) (m_wres : μ .wres) (m_log : μ .log) (m_ten : μ .ten) (m_broken : μ .broken) (m_safe : μ .safe) (m_cmds : μ .cmds) (m_cd : μ .cd) (m_fwd : μ .fwd) (m_sk : μ .sk) (m_zb : μ .zb) :
    KeepsO μ σ (execZbNodeWrite z f s) := by
  unfold execZbNodeWrite
  repeat' first
    | with_reducible assumption
    | intro _
    | with_reducible apply KeepsO.next
    | with_reducible apply Keeps.ite
    | ((fail_if_no_progress extract_lets +onlyGivenNames x); first | (refine Keeps.bind x ?_ ?_; (try subst x); rotate_left; intro hx; rotate_left) | (refine KeepsO.bind x ?_ ?_; (try subst x); rotate_left; intro hx; rotate_left) | skip)
    | with_reducible apply Keeps.zbRx
    | split
    | simp only [id_eq]

theorem Keeps.zbRemote (s : State) (z : ℕ) (ide : Bool) (id : ℕ) (hs : Keeps μ σ s) (m_space : μ .space) (m_free : μ .free) (m_ten : μ .ten) (m_zb : μ .zb) :
    Keeps μ σ (State.zbRemote s z ide id) := by
  unfold State.zbRemote
  repeat' first
    | with_reducible assumption
    | intro _
    | with_reducible apply Keeps.ite
    | ((fail_if_no_progress extract_lets +onlyGivenNames x); first | (refine Keeps.bind x ?_ ?_; (try subst x); rotate_left; intro hx; rotate_left) | skip)
    | with_reducible apply Keeps.fcsPassive
    | with_reducible apply Keeps.noMatch
    | with_reducible apply Keeps.nodeFrame
    | with_reducible apply Keeps.recDown
    | split
    | simp only [id_eq]

theorem Keeps.of_execZbRemoteFrame (z : Fin 16) (ide : Bool) (id : ℕ) (s : State) (hs : Keeps μ σ s) (m_space : μ .space) (m_free : μ .free) (m_ten : μ .ten) (m_zb : μ .zb) :
    KeepsO μ σ (execZbRemoteFrame z ide id s) := by
  unfold execZbRemoteFrame
  repeat' first
    | with_reducible assumption
    | intro _
    | with_reducible apply KeepsO.next
    | with_reducible apply Keeps.ite
    | ((fail_if_no_progress extract_lets +onlyGivenNames x); first | (refine Keeps.bind x ?_ ?_; (try subst x); rotate_left; intro hx; rotate_left) | (refine KeepsO.bind x ?_ ?_; (try subst x); rotate_left; intro hx; rotate_left) | skip)
    | with_reducible apply Keeps.zbRemote
    | split
    | simp only [id_eq]

theorem Keeps.nodeTimeout (s : State) (z : ℕ) (a : ℕ) (hs : Keeps μ σ s) (m_space : μ .space) (m_now : μ .now) (m_campusOff : μ .campusOff) (m_ten : μ .ten) (m_cl : μ .cl) :
    Keeps μ σ (State.nodeTimeout s z a) := by
  unfold State.nodeTimeout
  repeat' first
    | with_reducible assumption
    | intro _
    | with_reducible apply Keeps.ite
    | ((fail_if_no_progress extract_lets +onlyGivenNames x); first | (refine Keeps.bind x ?_ ?_; (try subst x); rotate_left; intro hx; rotate_left) | skip)
    | with_reducible apply Keeps.nodeSet
    | with_reducible apply Keeps.reach

theorem Keeps.of_execZbNodeTimeout (z : Fin 16) (a : Fin 32) (s : State) (hs : Keeps μ σ s) (m_space : μ .space) (m_now : μ .now) (m_campusOff : μ .campusOff) (m_ten : μ .ten) (m_cl : μ .cl) :
    KeepsO μ σ (execZbNodeTimeout z a s) := by
  unfold execZbNodeTimeout
  repeat' first
    | with_reducible assumption
    | intro _
    | with_reducible apply KeepsO.next
    | with_reducible apply Keeps.ite
    | with_reducible apply Keeps.nodeTimeout

theorem Keeps.zbModeWritten (s : State) (z : ℕ) (hs : Keeps μ σ s) (m_space : μ .space) :
    Keeps μ σ (State.zbModeWritten s z) := by
  unfold State.zbModeWritten
  repeat' first
    | with_reducible assumption
    | intro _
    | with_reducible apply Keeps.ite
    | with_reducible apply Keeps.zbModeApply

theorem Keeps.of_execZbIntegrated (z : Fin 16) (s : State) (hs : Keeps μ σ s) (m_space : μ .space) :
    KeepsO μ σ (execZbIntegrated z s) := by
  unfold execZbIntegrated
  repeat' first
    | with_reducible assumption
    | intro _
    | with_reducible apply KeepsO.next
    | with_reducible apply Keeps.ite
    | with_reducible apply Keeps.put

theorem Keeps.zbRunModes (s : State) (hs : Keeps μ σ s) (m_space : μ .space) :
    Keeps μ σ (State.zbRunModes s) := by
  unfold State.zbRunModes
  repeat' first
    | with_reducible assumption
    | intro _
    | with_reducible apply Keeps.ite
    | with_reducible apply Keeps.each
    | with_reducible apply Keeps.put
    | with_reducible apply Keeps.zbModeWritten

theorem Keeps.zbFuncRst (s : State) (z : ℕ) (hs : Keeps μ σ s) (m_space : μ .space) (m_ten : μ .ten) (m_zb : μ .zb) :
    Keeps μ σ (State.zbFuncRst s z) := by
  unfold State.zbFuncRst
  repeat' first
    | with_reducible assumption
    | intro _
    | with_reducible apply Keeps.ite
    | ((fail_if_no_progress extract_lets +onlyGivenNames x); first | (refine Keeps.bind x ?_ ?_; (try subst x); rotate_left; intro hx; rotate_left) | skip)
    | with_reducible apply Keeps.setSeg
    | with_reducible apply Keeps.zbReset

theorem Keeps.zbTxEnd (s : State) (z : ℕ) (e : TxEnd) (tdcv : ℕ) (hs : Keeps μ σ s) (m_space : μ .space) (m_free : μ .free) (m_wres : μ .wres) (m_log : μ .log) (m_ten : μ .ten) (m_broken : μ .broken) (m_safe : μ .safe) (m_cmds : μ .cmds) (m_cd : μ .cd) (m_fwd : μ .fwd) (m_sk : μ .sk) (m_zb : μ .zb) :
    Keeps μ σ (State.zbTxEnd s z e tdcv) := by
  unfold State.zbTxEnd
  repeat' first
    | with_reducible assumption
    | intro _
    | with_reducible apply Keeps.ite
    | ((fail_if_no_progress extract_lets +onlyGivenNames x); first | (refine Keeps.bind x ?_ ?_; (try subst x); rotate_left; intro hx; rotate_left) | skip)
    | with_reducible apply Keeps.fcsPassive
    | with_reducible apply Keeps.put
    | with_reducible apply Keeps.setSeg
    | with_reducible apply Keeps.zbBufEnd
    | with_reducible apply Keeps.zbDelay
    | with_reducible apply Keeps.zbHandle
    | with_reducible apply Keeps.zbLostEnd
    | with_reducible apply Keeps.zbModeApply
    | with_reducible apply Keeps.zbReset
    | split
    | simp only [id_eq]

theorem Keeps.of_execZbTxEnd (z : Fin 16) (e : TxEnd) (tdcv : ℕ) (s : State) (hs : Keeps μ σ s) (m_space : μ .space) (m_free : μ .free) (m_wres : μ .wres) (m_log : μ .log) (m_ten : μ .ten) (m_broken : μ .broken) (m_safe : μ .safe) (m_cmds : μ .cmds) (m_cd : μ .cd) (m_fwd : μ .fwd) (m_sk : μ .sk) (m_zb : μ .zb) :
    KeepsO μ σ (execZbTxEnd z e tdcv s) := by
  unfold execZbTxEnd
  repeat' first
    | with_reducible assumption
    | intro _
    | with_reducible apply KeepsO.next
    | with_reducible apply Keeps.ite
    | ((fail_if_no_progress extract_lets +onlyGivenNames x); first | (refine Keeps.bind x ?_ ?_; (try subst x); rotate_left; intro hx; rotate_left) | (refine KeepsO.bind x ?_ ?_; (try subst x); rotate_left; intro hx; rotate_left) | skip)
    | with_reducible apply Keeps.zbTxEnd
    | split
    | simp only [id_eq]

theorem Keeps.of_execZbBusError (z : Fin 16) (code : Fin 5) (add : Fin 9) (data : Bool) (tx : Bool) (late : Bool) (tdcv : ℕ) (s : State) (hs : Keeps μ σ s) (m_space : μ .space) (m_ten : μ .ten) (m_zb : μ .zb) :
    KeepsO μ σ (execZbBusError z code add data tx late tdcv s) := by
  unfold execZbBusError
  repeat' first
    | with_reducible assumption
    | intro _
    | with_reducible apply KeepsO.next
    | with_reducible apply Keeps.ite
    | ((fail_if_no_progress extract_lets +onlyGivenNames x); first | (refine Keeps.bind x ?_ ?_; (try subst x); rotate_left; intro hx; rotate_left) | (refine KeepsO.bind x ?_ ?_; (try subst x); rotate_left; intro hx; rotate_left) | skip)
    | with_reducible apply Keeps.zbError
    | split
    | simp only [id_eq]

theorem Keeps.zbCmdWrite (s : State) (w : Who) (z : ℕ) (data : Word) (hs : Keeps μ σ s) (m_space : μ .space) (m_wres : μ .wres) (m_log : μ .log) (m_ten : μ .ten) (m_zb : μ .zb) :
    Keeps μ σ (State.zbCmdWrite s w z data) := by
  unfold State.zbCmdWrite
  repeat' first
    | with_reducible assumption
    | intro _
    | with_reducible apply Keeps.ite
    | ((fail_if_no_progress extract_lets +onlyGivenNames x); first | (refine Keeps.bind x ?_ ?_; (try subst x); rotate_left; intro hx; rotate_left) | skip)
    | with_reducible apply Keeps.auditW
    | with_reducible apply Keeps.setSeg

theorem Keeps.of_execZbRecoveryComplete (z : Fin 16) (s : State) (hs : Keeps μ σ s) (m_space : μ .space) (m_zb : μ .zb) :
    KeepsO μ σ (execZbRecoveryComplete z s) := by
  unfold execZbRecoveryComplete
  repeat' first
    | with_reducible assumption
    | intro _
    | with_reducible apply KeepsO.next
    | with_reducible apply Keeps.ite
    | ((fail_if_no_progress extract_lets +onlyGivenNames x); first | (refine Keeps.bind x ?_ ?_; (try subst x); rotate_left; intro hx; rotate_left) | (refine KeepsO.bind x ?_ ?_; (try subst x); rotate_left; intro hx; rotate_left) | skip)
    | with_reducible apply Keeps.put
    | with_reducible apply Keeps.setSeg
    | with_reducible apply Keeps.setWord

theorem Keeps.zbOff (s : State) (z : ℕ) (hs : Keeps μ σ s) (m_space : μ .space) (m_ten : μ .ten) :
    Keeps μ σ (State.zbOff s z) := by
  unfold State.zbOff
  repeat' first
    | with_reducible assumption
    | intro _
    | with_reducible apply Keeps.ite
    | with_reducible apply Keeps.nodesAbsent
    | with_reducible apply Keeps.put

theorem Keeps.zbWant (s : State) (z : ℕ) (release : Bool) (hs : Keeps μ σ s) (m_space : μ .space) :
    Keeps μ σ (State.zbWant s z release) := by
  unfold State.zbWant
  repeat' first
    | with_reducible assumption
    | intro _
    | with_reducible apply Keeps.ite
    | with_reducible apply Keeps.put

theorem Keeps.zbStart (s : State) (hs : Keeps μ σ s) (m_space : μ .space) (m_now : μ .now) (m_campusOff : μ .campusOff) (m_cl : μ .cl) (m_zb : μ .zb) :
    Keeps μ σ (State.zbStart s) := by
  unfold State.zbStart
  repeat' first
    | with_reducible assumption
    | intro _
    | with_reducible apply Keeps.ite
    | ((fail_if_no_progress extract_lets +onlyGivenNames x); first | (refine Keeps.bind x ?_ ?_; (try subst x); rotate_left; intro hx; rotate_left) | skip)
    | with_reducible apply Keeps.put
    | with_reducible apply Keeps.reach
    | with_reducible apply Keeps.setSeg
    | simp only [Keeps.upd_zb m_zb]
    | split
    | simp only [id_eq]

theorem Keeps.of_execZbSupplyStart (s : State) (hs : Keeps μ σ s) (m_space : μ .space) (m_now : μ .now) (m_campusOff : μ .campusOff) (m_cl : μ .cl) (m_zb : μ .zb) :
    KeepsO μ σ (execZbSupplyStart s) := by
  unfold execZbSupplyStart
  repeat' first
    | with_reducible assumption
    | intro _
    | with_reducible apply KeepsO.next
    | with_reducible apply Keeps.ite
    | ((fail_if_no_progress extract_lets +onlyGivenNames x); first | (refine Keeps.bind x ?_ ?_; (try subst x); rotate_left; intro hx; rotate_left) | (refine KeepsO.bind x ?_ ?_; (try subst x); rotate_left; intro hx; rotate_left) | skip)
    | with_reducible apply Keeps.pdDo
    | with_reducible apply Keeps.zbStart
    | split
    | simp only [id_eq]

theorem Keeps.zbTrip (s : State) (z : ℕ) (f : Fld) (mA : ℕ) (hs : Keeps μ σ s) (m_space : μ .space) (m_ten : μ .ten) (m_zb : μ .zb) (m_pdErrs : μ .pdErrs) :
    Keeps μ σ (State.zbTrip s z f mA) := by
  unfold State.zbTrip
  repeat' first
    | with_reducible assumption
    | intro _
    | with_reducible apply Keeps.ite
    | ((fail_if_no_progress extract_lets +onlyGivenNames x); first | (refine Keeps.bind x ?_ ?_; (try subst x); rotate_left; intro hx; rotate_left) | skip)
    | with_reducible apply Keeps.inc
    | with_reducible apply Keeps.pdErr
    | with_reducible apply Keeps.put
    | with_reducible apply Keeps.setSeg
    | with_reducible apply Keeps.zbOff

theorem Keeps.zbOverTrip (s : State) (z : ℕ) (mA : ℕ) (hs : Keeps μ σ s) (m_space : μ .space) (m_now : μ .now) (m_campusOff : μ .campusOff) (m_ten : μ .ten) (m_cl : μ .cl) (m_zb : μ .zb) (m_pdErrs : μ .pdErrs) :
    Keeps μ σ (State.zbOverTrip s z mA) := by
  unfold State.zbOverTrip
  repeat' first
    | with_reducible assumption
    | intro _
    | with_reducible apply Keeps.ite
    | ((fail_if_no_progress extract_lets +onlyGivenNames x); first | (refine Keeps.bind x ?_ ?_; (try subst x); rotate_left; intro hx; rotate_left) | skip)
    | with_reducible apply Keeps.reach
    | with_reducible apply Keeps.zbTrip
    | split
    | simp only [id_eq]

theorem Keeps.zbOverHard (s : State) (z : ℕ) (mA : ℕ) (hs : Keeps μ σ s) (m_space : μ .space) (m_ten : μ .ten) (m_zb : μ .zb) (m_pdErrs : μ .pdErrs) :
    Keeps μ σ (State.zbOverHard s z mA) := by
  unfold State.zbOverHard
  repeat' first
    | with_reducible assumption
    | intro _
    | with_reducible apply Keeps.ite
    | ((fail_if_no_progress extract_lets +onlyGivenNames x); first | (refine Keeps.bind x ?_ ?_; (try subst x); rotate_left; intro hx; rotate_left) | skip)
    | with_reducible apply Keeps.zbTrip
    | split
    | simp only [id_eq]

theorem Keeps.zbPgFail (s : State) (z : ℕ) (mA : ℕ) (hs : Keeps μ σ s) (m_space : μ .space) (m_now : μ .now) (m_campusOff : μ .campusOff) (m_ten : μ .ten) (m_cl : μ .cl) (m_zb : μ .zb) (m_pdErrs : μ .pdErrs) :
    Keeps μ σ (State.zbPgFail s z mA) := by
  unfold State.zbPgFail
  repeat' first
    | with_reducible assumption
    | intro _
    | with_reducible apply Keeps.ite
    | ((fail_if_no_progress extract_lets +onlyGivenNames x); first | (refine Keeps.bind x ?_ ?_; (try subst x); rotate_left; intro hx; rotate_left) | skip)
    | with_reducible apply Keeps.put
    | with_reducible apply Keeps.reach
    | with_reducible apply Keeps.zbTrip
    | split
    | simp only [id_eq]

theorem Keeps.of_execZbSupplyTrip (z : Fin 16) (mA : ℕ) (s : State) (hs : Keeps μ σ s) (m_space : μ .space) (m_now : μ .now) (m_campusOff : μ .campusOff) (m_ten : μ .ten) (m_cl : μ .cl) (m_zb : μ .zb) (m_pdErrs : μ .pdErrs) :
    KeepsO μ σ (execZbSupplyTrip z mA s) := by
  unfold execZbSupplyTrip
  repeat' first
    | with_reducible assumption
    | intro _
    | with_reducible apply KeepsO.next
    | with_reducible apply Keeps.ite
    | ((fail_if_no_progress extract_lets +onlyGivenNames x); first | (refine Keeps.bind x ?_ ?_; (try subst x); rotate_left; intro hx; rotate_left) | (refine KeepsO.bind x ?_ ?_; (try subst x); rotate_left; intro hx; rotate_left) | skip)
    | with_reducible apply Keeps.pdDo
    | with_reducible apply Keeps.zbOverTrip
    | split
    | simp only [id_eq]

theorem Keeps.of_execZbSupplyHard (z : Fin 16) (mA : ℕ) (s : State) (hs : Keeps μ σ s) (m_space : μ .space) (m_ten : μ .ten) (m_zb : μ .zb) (m_pdErrs : μ .pdErrs) :
    KeepsO μ σ (execZbSupplyHard z mA s) := by
  unfold execZbSupplyHard
  repeat' first
    | with_reducible assumption
    | intro _
    | with_reducible apply KeepsO.next
    | with_reducible apply Keeps.ite
    | ((fail_if_no_progress extract_lets +onlyGivenNames x); first | (refine Keeps.bind x ?_ ?_; (try subst x); rotate_left; intro hx; rotate_left) | (refine KeepsO.bind x ?_ ?_; (try subst x); rotate_left; intro hx; rotate_left) | skip)
    | with_reducible apply Keeps.pdDo
    | with_reducible apply Keeps.zbOverHard
    | split
    | simp only [id_eq]

theorem Keeps.of_execZbSupplyPgFail (z : Fin 16) (mA : ℕ) (s : State) (hs : Keeps μ σ s) (m_space : μ .space) (m_now : μ .now) (m_campusOff : μ .campusOff) (m_ten : μ .ten) (m_cl : μ .cl) (m_zb : μ .zb) (m_pdErrs : μ .pdErrs) :
    KeepsO μ σ (execZbSupplyPgFail z mA s) := by
  unfold execZbSupplyPgFail
  repeat' first
    | with_reducible assumption
    | intro _
    | with_reducible apply KeepsO.next
    | with_reducible apply Keeps.ite
    | ((fail_if_no_progress extract_lets +onlyGivenNames x); first | (refine Keeps.bind x ?_ ?_; (try subst x); rotate_left; intro hx; rotate_left) | (refine KeepsO.bind x ?_ ?_; (try subst x); rotate_left; intro hx; rotate_left) | skip)
    | with_reducible apply Keeps.pdDo
    | with_reducible apply Keeps.zbPgFail
    | split
    | simp only [id_eq]

theorem Keeps.zbRetry (s : State) (z : ℕ) (hs : Keeps μ σ s) (m_space : μ .space) (m_now : μ .now) (m_campusOff : μ .campusOff) (m_cl : μ .cl) (m_zb : μ .zb) :
    Keeps μ σ (State.zbRetry s z) := by
  unfold State.zbRetry
  repeat' first
    | with_reducible assumption
    | intro _
    | with_reducible apply Keeps.ite
    | ((fail_if_no_progress extract_lets +onlyGivenNames x); first | (refine Keeps.bind x ?_ ?_; (try subst x); rotate_left; intro hx; rotate_left) | skip)
    | with_reducible apply Keeps.reach
    | with_reducible apply Keeps.setSeg
    | with_reducible apply Keeps.zbWant
    | split

theorem Keeps.of_execZbSupplyRetry (z : Fin 16) (s : State) (hs : Keeps μ σ s) (m_space : μ .space) (m_now : μ .now) (m_campusOff : μ .campusOff) (m_cl : μ .cl) (m_zb : μ .zb) :
    KeepsO μ σ (execZbSupplyRetry z s) := by
  unfold execZbSupplyRetry
  repeat' first
    | with_reducible assumption
    | intro _
    | with_reducible apply KeepsO.next
    | with_reducible apply Keeps.ite
    | ((fail_if_no_progress extract_lets +onlyGivenNames x); first | (refine Keeps.bind x ?_ ?_; (try subst x); rotate_left; intro hx; rotate_left) | (refine KeepsO.bind x ?_ ?_; (try subst x); rotate_left; intro hx; rotate_left) | skip)
    | with_reducible apply Keeps.pdDo
    | with_reducible apply Keeps.zbRetry
    | split
    | simp only [id_eq]

theorem Keeps.zbCycle (s : State) (w : Who) (z : ℕ) (data : Word) (hs : Keeps μ σ s) (m_space : μ .space) (m_wres : μ .wres) (m_log : μ .log) (m_ten : μ .ten) (m_zb : μ .zb) :
    Keeps μ σ (State.zbCycle s w z data) := by
  unfold State.zbCycle
  repeat' first
    | with_reducible assumption
    | intro _
    | with_reducible apply Keeps.ite
    | ((fail_if_no_progress extract_lets +onlyGivenNames x); first | (refine Keeps.bind x ?_ ?_; (try subst x); rotate_left; intro hx; rotate_left) | skip)
    | with_reducible apply Keeps.auditW
    | with_reducible apply Keeps.put
    | with_reducible apply Keeps.setSeg
    | with_reducible apply Keeps.zbOff

theorem Keeps.zbCycleEnd (s : State) (z : ℕ) (hs : Keeps μ σ s) (m_space : μ .space) (m_now : μ .now) (m_campusOff : μ .campusOff) (m_cl : μ .cl) (m_zb : μ .zb) :
    Keeps μ σ (State.zbCycleEnd s z) := by
  unfold State.zbCycleEnd
  repeat' first
    | with_reducible assumption
    | intro _
    | with_reducible apply Keeps.ite
    | ((fail_if_no_progress extract_lets +onlyGivenNames x); first | (refine Keeps.bind x ?_ ?_; (try subst x); rotate_left; intro hx; rotate_left) | skip)
    | with_reducible apply Keeps.reach
    | with_reducible apply Keeps.setSeg
    | with_reducible apply Keeps.zbWant
    | split

theorem Keeps.of_execZbPwrCycleEnd (z : Fin 16) (s : State) (hs : Keeps μ σ s) (m_space : μ .space) (m_now : μ .now) (m_campusOff : μ .campusOff) (m_cl : μ .cl) (m_zb : μ .zb) :
    KeepsO μ σ (execZbPwrCycleEnd z s) := by
  unfold execZbPwrCycleEnd
  repeat' first
    | with_reducible assumption
    | intro _
    | with_reducible apply KeepsO.next
    | with_reducible apply Keeps.ite
    | ((fail_if_no_progress extract_lets +onlyGivenNames x); first | (refine Keeps.bind x ?_ ?_; (try subst x); rotate_left; intro hx; rotate_left) | (refine KeepsO.bind x ?_ ?_; (try subst x); rotate_left; intro hx; rotate_left) | skip)
    | with_reducible apply Keeps.pdDo
    | with_reducible apply Keeps.zbCycleEnd
    | split
    | simp only [id_eq]

theorem Keeps.zbFltWrite (s : State) (w : Who) (z : ℕ) (data : Word) (hs : Keeps μ σ s) (m_space : μ .space) (m_wres : μ .wres) (m_log : μ .log) (m_ten : μ .ten) (m_zb : μ .zb) :
    Keeps μ σ (State.zbFltWrite s w z data) := by
  unfold State.zbFltWrite
  repeat' first
    | with_reducible assumption
    | intro _
    | with_reducible apply Keeps.ite
    | ((fail_if_no_progress extract_lets +onlyGivenNames x); first | (refine Keeps.bind x ?_ ?_; (try subst x); rotate_left; intro hx; rotate_left) | skip)
    | with_reducible apply Keeps.clearWrite
    | with_reducible apply Keeps.setSeg
    | with_reducible apply Keeps.zbWant

theorem Keeps.zbPwrCfg (s : State) (w : Who) (z : ℕ) (data : Word) (hs : Keeps μ σ s) (m_space : μ .space) (m_wres : μ .wres) (m_log : μ .log) (m_ten : μ .ten) :
    Keeps μ σ (State.zbPwrCfg s w z data) := by
  unfold State.zbPwrCfg
  repeat' first
    | with_reducible assumption
    | intro _
    | with_reducible apply Keeps.ite
    | ((fail_if_no_progress extract_lets +onlyGivenNames x); first | (refine Keeps.bind x ?_ ?_; (try subst x); rotate_left; intro hx; rotate_left) | skip)
    | with_reducible apply Keeps.cfgWrite
    | with_reducible apply Keeps.put
    | with_reducible apply Keeps.zbOff
    | with_reducible apply Keeps.zbWant

theorem Keeps.zbSafeEntry (s : State) (z : ℕ) (hs : Keeps μ σ s) (m_space : μ .space) (m_ten : μ .ten) (m_zb : μ .zb) :
    Keeps μ σ (State.zbSafeEntry s z) := by
  unfold State.zbSafeEntry
  repeat' first
    | with_reducible assumption
    | intro _
    | with_reducible apply Keeps.ite
    | ((fail_if_no_progress extract_lets +onlyGivenNames x); first | (refine Keeps.bind x ?_ ?_; (try subst x); rotate_left; intro hx; rotate_left) | skip)
    | with_reducible apply Keeps.put
    | with_reducible apply Keeps.setSeg
    | with_reducible apply Keeps.zbOff
    | with_reducible apply Keeps.zbWant

theorem Keeps.zbStatWrite (s : State) (w : Who) (z : ℕ) (b : ℕ) (data : Word) (hs : Keeps μ σ s) (m_space : μ .space) (m_wres : μ .wres) (m_zb : μ .zb) :
    Keeps μ σ (State.zbStatWrite s w z b data) := by
  unfold State.zbStatWrite
  repeat' first
    | with_reducible assumption
    | intro _
    | with_reducible apply Keeps.ite
    | ((fail_if_no_progress extract_lets +onlyGivenNames x); first | (refine Keeps.bind x ?_ ?_; (try subst x); rotate_left; intro hx; rotate_left) | skip)
    | with_reducible apply Keeps.plainW
    | with_reducible apply Keeps.setWord
    | with_reducible apply Keeps.zbAbort
    | with_reducible apply Keeps.zbRequest
    | split
    | simp only [id_eq]

theorem Keeps.zbDescWrite (s : State) (w : Who) (z : ℕ) (b : ℕ) (a : ℕ) (data : Word) (hs : Keeps μ σ s) (m_space : μ .space) (m_wres : μ .wres) (m_log : μ .log) (m_ten : μ .ten) :
    Keeps μ σ (State.zbDescWrite s w z b a data) := by
  unfold State.zbDescWrite
  repeat' first
    | with_reducible assumption
    | intro _
    | with_reducible apply Keeps.ite
    | ((fail_if_no_progress extract_lets +onlyGivenNames x); first | (refine Keeps.bind x ?_ ?_; (try subst x); rotate_left; intro hx; rotate_left) | skip)
    | with_reducible apply Keeps.cfgWrite
    | with_reducible apply Keeps.put
    | with_reducible apply Keeps.refuseWrite

theorem Keeps.zbNodeCfg (s : State) (w : Who) (z : ℕ) (a : ℕ) (data : Word) (hs : Keeps μ σ s) (m_space : μ .space) (m_wres : μ .wres) (m_log : μ .log) (m_ten : μ .ten) :
    Keeps μ σ (State.zbNodeCfg s w z a data) := by
  unfold State.zbNodeCfg
  repeat' first
    | with_reducible assumption
    | intro _
    | with_reducible apply Keeps.ite
    | ((fail_if_no_progress extract_lets +onlyGivenNames x); first | (refine Keeps.bind x ?_ ?_; (try subst x); rotate_left; intro hx; rotate_left) | skip)
    | with_reducible apply Keeps.cfgWrite
    | with_reducible apply Keeps.setWord
    | split
    | simp only [id_eq]

theorem Keeps.zbPayWrite (s : State) (z : ℕ) (a : ℕ) (data : Word) (hs : Keeps μ σ s) (m_space : μ .space) (m_wres : μ .wres) :
    Keeps μ σ (State.zbPayWrite s z a data) := by
  unfold State.zbPayWrite
  repeat' first
    | with_reducible assumption
    | intro _
    | with_reducible apply Keeps.ite
    | ((fail_if_no_progress extract_lets +onlyGivenNames x); first | (refine Keeps.bind x ?_ ?_; (try subst x); rotate_left; intro hx; rotate_left) | skip)
    | with_reducible apply Keeps.inc
    | with_reducible apply Keeps.plainW
    | with_reducible apply Keeps.setWord

theorem Keeps.zbTiming (s : State) (w : Who) (z : ℕ) (a : ℕ) (data : Word) (hs : Keeps μ σ s) (m_space : μ .space) (m_wres : μ .wres) (m_log : μ .log) (m_ten : μ .ten) :
    Keeps μ σ (State.zbTiming s w z a data) := by
  unfold State.zbTiming
  repeat' first
    | with_reducible assumption
    | intro _
    | with_reducible apply Keeps.ite
    | ((fail_if_no_progress extract_lets +onlyGivenNames x); first | (refine Keeps.bind x ?_ ?_; (try subst x); rotate_left; intro hx; rotate_left) | skip)
    | with_reducible apply Keeps.cfgWrite
    | with_reducible apply Keeps.setWord
    | split
    | simp only [id_eq]

theorem Keeps.zbCtrlWrite (s : State) (w : Who) (z : ℕ) (data : Word) (hs : Keeps μ σ s) (m_space : μ .space) (m_wres : μ .wres) (m_log : μ .log) (m_ten : μ .ten) :
    Keeps μ σ (State.zbCtrlWrite s w z data) := by
  unfold State.zbCtrlWrite
  repeat' first
    | with_reducible assumption
    | intro _
    | with_reducible apply Keeps.ite
    | with_reducible apply Keeps.cfgWrite
    | with_reducible apply Keeps.zbModeWritten

theorem Keeps.zbPwrWrite (s : State) (w : Who) (z : ℕ) (a : ℕ) (data : Word) (hs : Keeps μ σ s) (m_space : μ .space) (m_wres : μ .wres) (m_log : μ .log) (m_ten : μ .ten) (m_zb : μ .zb) :
    Keeps μ σ (State.zbPwrWrite s w z a data) := by
  unfold State.zbPwrWrite
  repeat' first
    | with_reducible assumption
    | intro _
    | with_reducible apply Keeps.ite
    | ((fail_if_no_progress extract_lets +onlyGivenNames x); first | (refine Keeps.bind x ?_ ?_; (try subst x); rotate_left; intro hx; rotate_left) | skip)
    | with_reducible apply Keeps.dropWrite
    | with_reducible apply Keeps.kindWrite
    | with_reducible apply Keeps.refuseWrite
    | with_reducible apply Keeps.zbCycle
    | with_reducible apply Keeps.zbFltWrite
    | with_reducible apply Keeps.zbPwrCfg
    | split
    | simp only [id_eq]

theorem Keeps.zbControl (s : State) (w : Who) (a : ℕ) (data : Word) (hs : Keeps μ σ s) (m_space : μ .space) (m_wres : μ .wres) (m_log : μ .log) (m_ten : μ .ten) :
    Keeps μ σ (State.zbControl s w a data) := by
  unfold State.zbControl
  repeat' first
    | with_reducible assumption
    | intro _
    | with_reducible apply Keeps.ite
    | with_reducible apply Keeps.cfgWrite
    | with_reducible apply Keeps.clearWrite
    | with_reducible apply Keeps.plainW
    | split
    | simp only [id_eq]

theorem Keeps.zbWrite (s : State) (w : Who) (a : ℕ) (data : Word) (hs : Keeps μ σ s) (m_space : μ .space) (m_wres : μ .wres) (m_log : μ .log) (m_ten : μ .ten) (m_zb : μ .zb) :
    Keeps μ σ (State.zbWrite s w a data) := by
  unfold State.zbWrite
  repeat' first
    | with_reducible assumption
    | intro _
    | with_reducible apply Keeps.ite
    | with_reducible apply Keeps.plainW
    | with_reducible apply Keeps.refuseWrite
    | with_reducible apply Keeps.zbCmdWrite
    | with_reducible apply Keeps.zbControl
    | with_reducible apply Keeps.zbCtrlWrite
    | with_reducible apply Keeps.zbDescWrite
    | with_reducible apply Keeps.zbNodeCfg
    | with_reducible apply Keeps.zbPayWrite
    | with_reducible apply Keeps.zbPwrWrite
    | with_reducible apply Keeps.zbStatWrite
    | with_reducible apply Keeps.zbTiming
    | split
    | simp only [id_eq]

theorem Keeps.of_execZbModeWrite (p : Path) (z : Fin 16) (data : Word) (s : State) (hs : Keeps μ σ s) (m_space : μ .space) (m_rdata : μ .rdata) (m_wres : μ .wres) (m_banks : μ .banks) (m_log : μ .log) (m_ten : μ .ten) (m_zb : μ .zb) :
    KeepsO μ σ (execZbModeWrite p z data s) := by
  unfold execZbModeWrite
  repeat' first
    | with_reducible assumption
    | intro _
    | with_reducible apply KeepsO.next
    | with_reducible apply Keeps.ite
    | with_reducible apply Keeps.byPath
    | with_reducible apply Keeps.zbWrite

theorem Keeps.of_execZbRecover (p : Path) (z : Fin 16) (s : State) (hs : Keeps μ σ s) (m_space : μ .space) (m_rdata : μ .rdata) (m_wres : μ .wres) (m_banks : μ .banks) (m_log : μ .log) (m_ten : μ .ten) (m_zb : μ .zb) :
    KeepsO μ σ (execZbRecover p z s) := by
  unfold execZbRecover
  repeat' first
    | with_reducible assumption
    | intro _
    | with_reducible apply KeepsO.next
    | with_reducible apply Keeps.ite
    | with_reducible apply Keeps.byPath
    | with_reducible apply Keeps.zbWrite

theorem Keeps.of_execZbTxreq (p : Path) (z : Fin 16) (b : Fin 64) (s : State) (hs : Keeps μ σ s) (m_space : μ .space) (m_rdata : μ .rdata) (m_wres : μ .wres) (m_banks : μ .banks) (m_log : μ .log) (m_ten : μ .ten) (m_zb : μ .zb) :
    KeepsO μ σ (execZbTxreq p z b s) := by
  unfold execZbTxreq
  repeat' first
    | with_reducible assumption
    | intro _
    | with_reducible apply KeepsO.next
    | with_reducible apply Keeps.ite
    | with_reducible apply Keeps.byPath
    | with_reducible apply Keeps.zbWrite

theorem Keeps.of_execZbTxabort (p : Path) (z : Fin 16) (b : Fin 64) (s : State) (hs : Keeps μ σ s) (m_space : μ .space) (m_rdata : μ .rdata) (m_wres : μ .wres) (m_banks : μ .banks) (m_log : μ .log) (m_ten : μ .ten) (m_zb : μ .zb) :
    KeepsO μ σ (execZbTxabort p z b s) := by
  unfold execZbTxabort
  repeat' first
    | with_reducible assumption
    | intro _
    | with_reducible apply KeepsO.next
    | with_reducible apply Keeps.ite
    | with_reducible apply Keeps.byPath
    | with_reducible apply Keeps.zbWrite

theorem Keeps.of_execZbPwrCycle (p : Path) (z : Fin 16) (s : State) (hs : Keeps μ σ s) (m_space : μ .space) (m_rdata : μ .rdata) (m_wres : μ .wres) (m_banks : μ .banks) (m_log : μ .log) (m_ten : μ .ten) (m_zb : μ .zb) :
    KeepsO μ σ (execZbPwrCycle p z s) := by
  unfold execZbPwrCycle
  repeat' first
    | with_reducible assumption
    | intro _
    | with_reducible apply KeepsO.next
    | with_reducible apply Keeps.ite
    | with_reducible apply Keeps.byPath
    | with_reducible apply Keeps.zbWrite

theorem Keeps.of_execZbPwrFaultClear (p : Path) (z : Fin 16) (data : Word) (s : State) (hs : Keeps μ σ s) (m_space : μ .space) (m_rdata : μ .rdata) (m_wres : μ .wres) (m_banks : μ .banks) (m_log : μ .log) (m_ten : μ .ten) (m_zb : μ .zb) :
    KeepsO μ σ (execZbPwrFaultClear p z data s) := by
  unfold execZbPwrFaultClear
  repeat' first
    | with_reducible assumption
    | intro _
    | with_reducible apply KeepsO.next
    | with_reducible apply Keeps.ite
    | with_reducible apply Keeps.byPath
    | with_reducible apply Keeps.zbWrite

theorem Keeps.of_execZbPwrEnWrite (p : Path) (z : Fin 16) (data : Word) (s : State) (hs : Keeps μ σ s) (m_space : μ .space) (m_rdata : μ .rdata) (m_wres : μ .wres) (m_banks : μ .banks) (m_log : μ .log) (m_ten : μ .ten) (m_zb : μ .zb) :
    KeepsO μ σ (execZbPwrEnWrite p z data s) := by
  unfold execZbPwrEnWrite
  repeat' first
    | with_reducible assumption
    | intro _
    | with_reducible apply KeepsO.next
    | with_reducible apply Keeps.ite
    | with_reducible apply Keeps.byPath
    | with_reducible apply Keeps.zbWrite

end Sys2Proof.Machine
end

