-- ==== Sys2Proof/Laws/KeepsSupervision.lean ====
section
/-! SUPPORT. What each operation of Machine/Supervision.lean keeps: the queue, the clock's direction, the canonical form of the register
space, and every part of the state it does not name (`Keeps`). -/

set_option linter.unusedTactic false
set_option linter.unreachableTactic false
set_option linter.unusedSimpArgs false
set_option linter.unusedVariables false

namespace Sys2Proof.Machine

variable {μ : Part → Prop} {σ : State}

theorem Keeps.safeEnter (s : State) (outs : List (ℕ × ℕ)) (hs : Keeps μ σ s) (m_space : μ .space) (m_ten : μ .ten) (m_safe : μ .safe) (m_cd : μ .cd) (m_zb : μ .zb) :
    Keeps μ σ (State.safeEnter s outs) := by
  unfold State.safeEnter
  repeat' first
    | with_reducible assumption
    | intro _
    | with_reducible apply Keeps.ite
    | with_reducible apply Keeps.cdSafeEntry
    | with_reducible apply Keeps.each
    | with_reducible apply Keeps.safeApply
    | with_reducible apply Keeps.zbSafeEntry

theorem Keeps.safeAll (s : State) (cause : Fld) (hs : Keeps μ σ s) (m_space : μ .space) (m_free : μ .free) (m_log : μ .log) (m_ten : μ .ten) (m_ic : μ .ic) (m_safe : μ .safe) (m_safeUnrec : μ .safeUnrec) (m_safeIrq : μ .safeIrq) (m_cd : μ .cd) (m_zb : μ .zb) (m_clk : μ .clk) :
    Keeps μ σ (State.safeAll s cause) := by
  unfold State.safeAll
  repeat' first
    | with_reducible assumption
    | intro _
    | with_reducible apply Keeps.ite
    | ((fail_if_no_progress extract_lets +onlyGivenNames x); first | (refine Keeps.bind x ?_ ?_; (try subst x); rotate_left; intro hx; rotate_left) | skip)
    | with_reducible apply Keeps.safeCause
    | with_reducible apply Keeps.safeEnter
    | split
    | simp only [id_eq]

theorem Keeps.safeRelease (s : State) (w : Who) (data : Word) (hs : Keeps μ σ s) (m_space : μ .space) (m_wres : μ .wres) (m_log : μ .log) (m_ten : μ .ten) (m_safe : μ .safe) (m_cmds : μ .cmds) (m_cd : μ .cd) :
    Keeps μ σ (State.safeRelease s w data) := by
  unfold State.safeRelease
  repeat' first
    | with_reducible assumption
    | intro _
    | with_reducible apply Keeps.ite
    | ((fail_if_no_progress extract_lets +onlyGivenNames x); first | (refine Keeps.bind x ?_ ?_; (try subst x); rotate_left; intro hx; rotate_left) | skip)
    | with_reducible apply Keeps.each
    | with_reducible apply Keeps.safeRelWrite
    | with_reducible apply Keeps.zbWant
    | simp only [Keeps.upd_wres m_wres]

theorem Keeps.of_execSafeRelAll (p : Path) (data : Word) (s : State) (hs : Keeps μ σ s) (m_space : μ .space) (m_rdata : μ .rdata) (m_wres : μ .wres) (m_banks : μ .banks) (m_log : μ .log) (m_ten : μ .ten) (m_safe : μ .safe) (m_cmds : μ .cmds) (m_cd : μ .cd) :
    KeepsO μ σ (execSafeRelAll p data s) := by
  unfold execSafeRelAll
  repeat' first
    | with_reducible assumption
    | intro _
    | with_reducible apply KeepsO.next
    | with_reducible apply Keeps.ite
    | with_reducible apply Keeps.byPath
    | with_reducible apply Keeps.safeRelease

theorem Keeps.of_execSafeRelCoil (p : Path) (data : Word) (s : State) (hs : Keeps μ σ s) (m_space : μ .space) (m_rdata : μ .rdata) (m_wres : μ .wres) (m_banks : μ .banks) (m_log : μ .log) (m_ten : μ .ten) (m_safe : μ .safe) (m_cmds : μ .cmds) (m_cd : μ .cd) :
    KeepsO μ σ (execSafeRelCoil p data s) := by
  unfold execSafeRelCoil
  repeat' first
    | with_reducible assumption
    | intro _
    | with_reducible apply KeepsO.next
    | with_reducible apply Keeps.ite
    | with_reducible apply Keeps.byPath
    | with_reducible apply Keeps.safeRelease

theorem Keeps.of_execSafeRelFan (p : Path) (data : Word) (s : State) (hs : Keeps μ σ s) (m_space : μ .space) (m_rdata : μ .rdata) (m_wres : μ .wres) (m_banks : μ .banks) (m_log : μ .log) (m_ten : μ .ten) (m_safe : μ .safe) (m_cmds : μ .cmds) (m_cd : μ .cd) :
    KeepsO μ σ (execSafeRelFan p data s) := by
  unfold execSafeRelFan
  repeat' first
    | with_reducible assumption
    | intro _
    | with_reducible apply KeepsO.next
    | with_reducible apply Keeps.ite
    | with_reducible apply Keeps.byPath
    | with_reducible apply Keeps.safeRelease

theorem Keeps.of_execSafeRelAo (p : Path) (data : Word) (s : State) (hs : Keeps μ σ s) (m_space : μ .space) (m_rdata : μ .rdata) (m_wres : μ .wres) (m_banks : μ .banks) (m_log : μ .log) (m_ten : μ .ten) (m_safe : μ .safe) (m_cmds : μ .cmds) (m_cd : μ .cd) :
    KeepsO μ σ (execSafeRelAo p data s) := by
  unfold execSafeRelAo
  repeat' first
    | with_reducible assumption
    | intro _
    | with_reducible apply KeepsO.next
    | with_reducible apply Keeps.ite
    | with_reducible apply Keeps.byPath
    | with_reducible apply Keeps.safeRelease

theorem Keeps.of_execSafeRelDo (p : Path) (data : Word) (s : State) (hs : Keeps μ σ s) (m_space : μ .space) (m_rdata : μ .rdata) (m_wres : μ .wres) (m_banks : μ .banks) (m_log : μ .log) (m_ten : μ .ten) (m_safe : μ .safe) (m_cmds : μ .cmds) (m_cd : μ .cd) :
    KeepsO μ σ (execSafeRelDo p data s) := by
  unfold execSafeRelDo
  repeat' first
    | with_reducible assumption
    | intro _
    | with_reducible apply KeepsO.next
    | with_reducible apply Keeps.ite
    | with_reducible apply Keeps.byPath
    | with_reducible apply Keeps.safeRelease

theorem Keeps.of_execSafeRelZbpwr (p : Path) (data : Word) (s : State) (hs : Keeps μ σ s) (m_space : μ .space) (m_rdata : μ .rdata) (m_wres : μ .wres) (m_banks : μ .banks) (m_log : μ .log) (m_ten : μ .ten) (m_safe : μ .safe) (m_cmds : μ .cmds) (m_cd : μ .cd) :
    KeepsO μ σ (execSafeRelZbpwr p data s) := by
  unfold execSafeRelZbpwr
  repeat' first
    | with_reducible assumption
    | intro _
    | with_reducible apply KeepsO.next
    | with_reducible apply Keeps.ite
    | with_reducible apply Keeps.byPath
    | with_reducible apply Keeps.safeRelease

theorem Keeps.of_execGuardTrip (s : State) (hs : Keeps μ σ s) (m_space : μ .space) (m_free : μ .free) (m_log : μ .log) (m_ten : μ .ten) (m_ic : μ .ic) (m_safe : μ .safe) (m_safeUnrec : μ .safeUnrec) (m_safeIrq : μ .safeIrq) (m_cd : μ .cd) (m_fan : μ .fan) (m_zb : μ .zb) (m_clk : μ .clk) (m_pdErrs : μ .pdErrs) :
    KeepsO μ σ (execGuardTrip s) := by
  unfold execGuardTrip
  repeat' first
    | with_reducible assumption
    | intro _
    | with_reducible apply KeepsO.next
    | with_reducible apply Keeps.ite
    | ((fail_if_no_progress extract_lets +onlyGivenNames x); first | (refine Keeps.bind x ?_ ?_; (try subst x); rotate_left; intro hx; rotate_left) | (refine KeepsO.bind x ?_ ?_; (try subst x); rotate_left; intro hx; rotate_left) | skip)
    | with_reducible apply Keeps.guardFlt
    | with_reducible apply Keeps.guardTrip
    | with_reducible apply Keeps.safeAll
    | split
    | simp only [id_eq]

theorem Keeps.of_execLeFaultTimerExpiry (s : State) (hs : Keeps μ σ s) (m_space : μ .space) (m_now : μ .now) (m_campusOff : μ .campusOff) (m_free : μ .free) (m_log : μ .log) (m_ten : μ .ten) (m_ic : μ .ic) (m_safe : μ .safe) (m_safeUnrec : μ .safeUnrec) (m_safeIrq : μ .safeIrq) (m_cd : μ .cd) (m_cl : μ .cl) (m_zb : μ .zb) (m_clk : μ .clk) (m_le : μ .le) :
    KeepsO μ σ (execLeFaultTimerExpiry s) := by
  unfold execLeFaultTimerExpiry
  repeat' first
    | with_reducible assumption
    | intro _
    | with_reducible apply KeepsO.next
    | with_reducible apply Keeps.ite
    | ((fail_if_no_progress extract_lets +onlyGivenNames x); first | (refine Keeps.bind x ?_ ?_; (try subst x); rotate_left; intro hx; rotate_left) | (refine KeepsO.bind x ?_ ?_; (try subst x); rotate_left; intro hx; rotate_left) | skip)
    | with_reducible apply Keeps.put
    | with_reducible apply Keeps.reach
    | with_reducible apply Keeps.safeCause
    | with_reducible apply Keeps.safeEnter
    | simp only [Keeps.upd_le m_le]
    | split
    | simp only [id_eq]

theorem Keeps.of_execUnmappedAccess (p : Path) (a : Fin (2 ^ 24)) (write : Bool) (s : State) (hs : Keeps μ σ s) (m_space : μ .space) (m_rdata : μ .rdata) (m_wres : μ .wres) (m_banks : μ .banks) :
    KeepsO μ σ (execUnmappedAccess p a write s) := by
  unfold execUnmappedAccess
  repeat' first
    | with_reducible assumption
    | intro _
    | with_reducible apply KeepsO.next
    | with_reducible apply Keeps.ite
    | ((fail_if_no_progress extract_lets +onlyGivenNames x); first | (refine Keeps.bind x ?_ ?_; (try subst x); rotate_left; intro hx; rotate_left) | (refine KeepsO.bind x ?_ ?_; (try subst x); rotate_left; intro hx; rotate_left) | skip)
    | with_reducible apply Keeps.byPath
    | with_reducible apply Keeps.unmapped
    | simp only [Keeps.upd_rdata m_rdata]

theorem Keeps.of_execPowerAccessDropped (p : Path) (a : Fin (2 ^ 24)) (write : Bool) (data : Word) (s : State) (hs : Keeps μ σ s) (m_space : μ .space) (m_rdata : μ .rdata) (m_wres : μ .wres) (m_banks : μ .banks) (m_log : μ .log) (m_ten : μ .ten) :
    KeepsO μ σ (execPowerAccessDropped p a write data s) := by
  unfold execPowerAccessDropped
  repeat' first
    | with_reducible assumption
    | intro _
    | with_reducible apply KeepsO.next
    | with_reducible apply Keeps.ite
    | ((fail_if_no_progress extract_lets +onlyGivenNames x); first | (refine Keeps.bind x ?_ ?_; (try subst x); rotate_left; intro hx; rotate_left) | (refine KeepsO.bind x ?_ ?_; (try subst x); rotate_left; intro hx; rotate_left) | skip)
    | with_reducible apply Keeps.byPath
    | with_reducible apply Keeps.dropRead
    | with_reducible apply Keeps.dropWrite
    | with_reducible apply Keeps.safeRelDrop
    | split
    | simp only [id_eq]

end Sys2Proof.Machine
end

