-- ==== Sys2Proof/Laws/KeepsHostOps.lean ====
section
/-! SUPPORT. What each operation of Machine/HostOps.lean keeps: the queue, the clock's direction, the canonical form of the register
space, and every part of the state it does not name (`Keeps`). -/

set_option linter.unusedTactic false
set_option linter.unreachableTactic false
set_option linter.unusedSimpArgs false
set_option linter.unusedVariables false

namespace Sys2Proof.Machine

variable {μ : Part → Prop} {σ : State}

theorem Keeps.setHb (s : State) (h : HbState) (hs : Keeps μ σ s) (m_hb : μ .hb) :
    Keeps μ σ (State.setHb s h) := by
  unfold State.setHb
  repeat' first
    | with_reducible assumption
    | intro _
    | with_reducible apply Keeps.ite
    | simp only [Keeps.upd_hb m_hb]

theorem Keeps.setClk (s : State) (c : ClkState) (hs : Keeps μ σ s) (m_clk : μ .clk) :
    Keeps μ σ (State.setClk s c) := by
  unfold State.setClk
  repeat' first
    | with_reducible assumption
    | intro _
    | with_reducible apply Keeps.ite
    | simp only [Keeps.upd_clk m_clk]

theorem Keeps.wdStart (s : State) (hs : Keeps μ σ s) (m_hb : μ .hb) :
    Keeps μ σ (State.wdStart s) := by
  unfold State.wdStart
  repeat' first
    | with_reducible assumption
    | intro _
    | with_reducible apply Keeps.ite
    | ((fail_if_no_progress extract_lets +onlyGivenNames x); first | (refine Keeps.bind x ?_ ?_; (try subst x); rotate_left; intro hx; rotate_left) | skip)
    | with_reducible apply Keeps.setHb

theorem Keeps.wdExpired (s : State) (v : ℕ) (hs : Keeps μ σ s) (m_space : μ .space) (m_log : μ .log) (m_ten : μ .ten) :
    Keeps μ σ (State.wdExpired s v) := by
  unfold State.wdExpired
  repeat' first
    | with_reducible assumption
    | intro _
    | with_reducible apply Keeps.ite
    | ((fail_if_no_progress extract_lets +onlyGivenNames x); first | (refine Keeps.bind x ?_ ?_; (try subst x); rotate_left; intro hx; rotate_left) | skip)
    | with_reducible apply Keeps.auditEvent
    | with_reducible apply Keeps.put
    | split
    | simp only [id_eq]

theorem Keeps.wdKick (s : State) (w : Who) (data : Word) (hs : Keeps μ σ s) (m_space : μ .space) (m_wres : μ .wres) (m_log : μ .log) (m_ten : μ .ten) (m_hb : μ .hb) :
    Keeps μ σ (State.wdKick s w data) := by
  unfold State.wdKick
  repeat' first
    | with_reducible assumption
    | intro _
    | with_reducible apply Keeps.ite
    | ((fail_if_no_progress extract_lets +onlyGivenNames x); first | (refine Keeps.bind x ?_ ?_; (try subst x); rotate_left; intro hx; rotate_left) | skip)
    | with_reducible apply Keeps.inc
    | with_reducible apply Keeps.plainW
    | with_reducible apply Keeps.setHb
    | with_reducible apply Keeps.wdExpired
    | split
    | simp only [id_eq]

theorem Keeps.wdExpire (s : State) (hs : Keeps μ σ s) (m_space : μ .space) (m_now : μ .now) (m_campusOff : μ .campusOff) (m_free : μ .free) (m_log : μ .log) (m_ten : μ .ten) (m_ic : μ .ic) (m_cl : μ .cl) (m_hb : μ .hb) :
    Keeps μ σ (State.wdExpire s) := by
  unfold State.wdExpire
  repeat' first
    | with_reducible assumption
    | intro _
    | with_reducible apply Keeps.ite
    | ((fail_if_no_progress extract_lets +onlyGivenNames x); first | (refine Keeps.bind x ?_ ?_; (try subst x); rotate_left; intro hx; rotate_left) | skip)
    | with_reducible apply Keeps.icPulse
    | with_reducible apply Keeps.inc
    | with_reducible apply Keeps.postErr
    | with_reducible apply Keeps.reach
    | with_reducible apply Keeps.setHb
    | with_reducible apply Keeps.wdExpired
    | split

theorem Keeps.wdCfgWrite (s : State) (w : Who) (data : Word) (hs : Keeps μ σ s) (m_space : μ .space) (m_wres : μ .wres) (m_log : μ .log) (m_ten : μ .ten) (m_hb : μ .hb) :
    Keeps μ σ (State.wdCfgWrite s w data) := by
  unfold State.wdCfgWrite
  repeat' first
    | with_reducible assumption
    | intro _
    | with_reducible apply Keeps.ite
    | ((fail_if_no_progress extract_lets +onlyGivenNames x); first | (refine Keeps.bind x ?_ ?_; (try subst x); rotate_left; intro hx; rotate_left) | skip)
    | with_reducible apply Keeps.cfgWrite
    | with_reducible apply Keeps.put
    | with_reducible apply Keeps.setHb
    | with_reducible apply Keeps.wdStart

theorem Keeps.funcReset (s : State) (f : ℕ) (cap : Option ℕ) (card : Option (List (ℕ × List Byte))) (hs : Keeps μ σ s) (m_space : μ .space) (m_free : μ .free) (m_wres : μ .wres) (m_log : μ .log) (m_ten : μ .ten) (m_ic : μ .ic) (m_broken : μ .broken) (m_safe : μ .safe) (m_cmds : μ .cmds) (m_cd : μ .cd) (m_fwd : μ .fwd) (m_sk : μ .sk) (m_subIn : μ .subIn) (m_subOut : μ .subOut) (m_cl : μ .cl) (m_isl : μ .isl) (m_adc : μ .adc) (m_fan : μ .fan) (m_zb : μ .zb) (m_pnl : μ .pnl) (m_le : μ .le) :
    Keeps μ σ (State.funcReset s f cap card) := by
  unfold State.funcReset
  repeat' first
    | with_reducible assumption
    | intro _
    | with_reducible apply Keeps.ite
    | ((fail_if_no_progress extract_lets +onlyGivenNames x); first | (refine Keeps.bind x ?_ ?_; (try subst x); rotate_left; intro hx; rotate_left) | skip)
    | with_reducible apply Keeps.adcFuncRst
    | with_reducible apply Keeps.cdPairRst
    | with_reducible apply Keeps.clPortFuncRst
    | with_reducible apply Keeps.fanFuncRst
    | with_reducible apply Keeps.leFuncRst
    | with_reducible apply Keeps.logFuncRst
    | with_reducible apply Keeps.pnlFuncRst
    | with_reducible apply Keeps.skFuncRst
    | with_reducible apply Keeps.tenResetGo
    | with_reducible apply Keeps.zbFuncRst
    | split
    | simp only [id_eq]

theorem Keeps.funcWrite (s : State) (w : Who) (data : Word) (cap : Option ℕ) (card : Option (List (ℕ × List Byte))) (hs : Keeps μ σ s) (m_space : μ .space) (m_free : μ .free) (m_wres : μ .wres) (m_log : μ .log) (m_ten : μ .ten) (m_ic : μ .ic) (m_broken : μ .broken) (m_safe : μ .safe) (m_cmds : μ .cmds) (m_cd : μ .cd) (m_fwd : μ .fwd) (m_sk : μ .sk) (m_subIn : μ .subIn) (m_subOut : μ .subOut) (m_cl : μ .cl) (m_isl : μ .isl) (m_adc : μ .adc) (m_fan : μ .fan) (m_zb : μ .zb) (m_pnl : μ .pnl) (m_hb : μ .hb) (m_le : μ .le) :
    Keeps μ σ (State.funcWrite s w data cap card) := by
  unfold State.funcWrite
  repeat' first
    | with_reducible assumption
    | intro _
    | with_reducible apply Keeps.ite
    | ((fail_if_no_progress extract_lets +onlyGivenNames x); first | (refine Keeps.bind x ?_ ?_; (try subst x); rotate_left; intro hx; rotate_left) | skip)
    | with_reducible apply Keeps.auditW
    | with_reducible apply Keeps.funcReset
    | with_reducible apply Keeps.put
    | with_reducible apply Keeps.setHb
    | split
    | simp only [id_eq]

theorem Keeps.funcComplete (s : State) (hs : Keeps μ σ s) (m_space : μ .space) (m_fwd : μ .fwd) (m_hb : μ .hb) (m_le : μ .le) :
    Keeps μ σ (State.funcComplete s) := by
  unfold State.funcComplete
  repeat' first
    | with_reducible assumption
    | intro _
    | with_reducible apply Keeps.ite
    | ((fail_if_no_progress extract_lets +onlyGivenNames x); first | (refine Keeps.bind x ?_ ?_; (try subst x); rotate_left; intro hx; rotate_left) | skip)
    | with_reducible apply Keeps.leFuncEnd
    | with_reducible apply Keeps.put
    | with_reducible apply Keeps.setHb
    | split
    | simp only [id_eq]

theorem Keeps.funcTimeout (s : State) (hs : Keeps μ σ s) (m_space : μ .space) (m_now : μ .now) (m_campusOff : μ .campusOff) (m_free : μ .free) (m_ten : μ .ten) (m_cl : μ .cl) (m_hb : μ .hb) :
    Keeps μ σ (State.funcTimeout s) := by
  unfold State.funcTimeout
  repeat' first
    | with_reducible assumption
    | intro _
    | with_reducible apply Keeps.ite
    | ((fail_if_no_progress extract_lets +onlyGivenNames x); first | (refine Keeps.bind x ?_ ?_; (try subst x); rotate_left; intro hx; rotate_left) | skip)
    | with_reducible apply Keeps.fresh
    | with_reducible apply Keeps.postErr
    | with_reducible apply Keeps.put
    | with_reducible apply Keeps.reach
    | with_reducible apply Keeps.setHb
    | split

theorem Keeps.logFlushAll (s : State) (hs : Keeps μ σ s) (m_log : μ .log) :
    Keeps μ σ (State.logFlushAll s) := by
  unfold State.logFlushAll
  repeat' first
    | with_reducible assumption
    | intro _
    | with_reducible apply Keeps.ite
    | ((fail_if_no_progress extract_lets +onlyGivenNames x); first | (refine Keeps.bind x ?_ ?_; (try subst x); rotate_left; intro hx; rotate_left) | skip)
    | with_reducible apply Keeps.logDue
    | split
    | simp only [id_eq]

theorem Keeps.rstBit (s : State) (b : ℕ) (hs : Keeps μ σ s) (m_space : μ .space) :
    Keeps μ σ (State.rstBit s b) := by
  unfold State.rstBit
  repeat' first
    | with_reducible assumption
    | intro _
    | with_reducible apply Keeps.ite
    | ((fail_if_no_progress extract_lets +onlyGivenNames x); first | (refine Keeps.bind x ?_ ?_; (try subst x); rotate_left; intro hx; rotate_left) | skip)
    | with_reducible apply Keeps.setWord
    | split
    | simp only [id_eq]

theorem Keeps.rstCause (s : State) (b : ℕ) (hs : Keeps μ σ s) (m_space : μ .space) (m_clk : μ .clk) :
    Keeps μ σ (State.rstCause s b) := by
  unfold State.rstCause
  repeat' first
    | with_reducible assumption
    | intro _
    | with_reducible apply Keeps.ite
    | ((fail_if_no_progress extract_lets +onlyGivenNames x); first | (refine Keeps.bind x ?_ ?_; (try subst x); rotate_left; intro hx; rotate_left) | skip)
    | with_reducible apply Keeps.rstBit
    | with_reducible apply Keeps.setClk
    | split
    | simp only [id_eq]

theorem Keeps.askWarm (s : State) (cause : ℕ) (hs : Keeps μ σ s) (m_space : μ .space) (m_clk : μ .clk) :
    Keeps μ σ (State.askWarm s cause) := by
  unfold State.askWarm
  repeat' first
    | with_reducible assumption
    | intro _
    | with_reducible apply Keeps.ite
    | ((fail_if_no_progress extract_lets +onlyGivenNames x); first | (refine Keeps.bind x ?_ ?_; (try subst x); rotate_left; intro hx; rotate_left) | skip)
    | with_reducible apply Keeps.rstCause
    | with_reducible apply Keeps.setClk
    | split
    | simp only [id_eq]

theorem Keeps.pwrCycle (s : State) (at_ : ℕ) (hs : Keeps μ σ s) (m_space : μ .space) (m_hb : μ .hb) :
    Keeps μ σ (State.pwrCycle s at_) := by
  unfold State.pwrCycle
  repeat' first
    | with_reducible assumption
    | intro _
    | with_reducible apply Keeps.ite
    | ((fail_if_no_progress extract_lets +onlyGivenNames x); first | (refine Keeps.bind x ?_ ?_; (try subst x); rotate_left; intro hx; rotate_left) | skip)
    | with_reducible apply Keeps.rstBit
    | with_reducible apply Keeps.setHb
    | split
    | simp only [id_eq]

theorem Keeps.keyWrite (s : State) (w : Who) (a : ℕ) (key : ℕ) (data : Word) (eff : State → State) (hs : Keeps μ σ s) (heff : ∀ a0, Keeps μ σ a0 → Keeps μ σ (eff a0)) (m_space : μ .space) (m_wres : μ .wres) (m_log : μ .log) (m_ten : μ .ten) :
    Keeps μ σ (State.keyWrite s w a key data eff) := by
  unfold State.keyWrite
  repeat' first
    | with_reducible assumption
    | intro _
    | with_reducible apply Keeps.ite
    | ((fail_if_no_progress extract_lets +onlyGivenNames x); first | (refine Keeps.bind x ?_ ?_; (try subst x); rotate_left; intro hx; rotate_left) | skip)
    | with_reducible apply heff
    | with_reducible apply Keeps.auditW
    | with_reducible apply Keeps.logFlushAll

theorem Keeps.warmWrite (s : State) (w : Who) (data : Word) (hs : Keeps μ σ s) (m_space : μ .space) (m_wres : μ .wres) (m_log : μ .log) (m_ten : μ .ten) (m_clk : μ .clk) :
    Keeps μ σ (State.warmWrite s w data) := by
  unfold State.warmWrite
  repeat' first
    | with_reducible assumption
    | intro _
    | with_reducible apply Keeps.ite
    | with_reducible apply Keeps.askWarm
    | with_reducible apply Keeps.keyWrite

theorem Keeps.cycleWrite (s : State) (w : Who) (data : Word) (hs : Keeps μ σ s) (m_space : μ .space) (m_wres : μ .wres) (m_log : μ .log) (m_ten : μ .ten) (m_hb : μ .hb) (m_clk : μ .clk) :
    Keeps μ σ (State.cycleWrite s w data) := by
  unfold State.cycleWrite
  repeat' first
    | with_reducible assumption
    | intro _
    | with_reducible apply Keeps.ite
    | with_reducible apply Keeps.keyWrite
    | with_reducible apply Keeps.pwrCycle

theorem Keeps.hbWrite (s : State) (w : Who) (a : ℕ) (data : Word) (hs : Keeps μ σ s) (m_space : μ .space) (m_free : μ .free) (m_wres : μ .wres) (m_log : μ .log) (m_ten : μ .ten) (m_ic : μ .ic) (m_broken : μ .broken) (m_safe : μ .safe) (m_cmds : μ .cmds) (m_cd : μ .cd) (m_fwd : μ .fwd) (m_sk : μ .sk) (m_subIn : μ .subIn) (m_subOut : μ .subOut) (m_cl : μ .cl) (m_isl : μ .isl) (m_adc : μ .adc) (m_fan : μ .fan) (m_zb : μ .zb) (m_pnl : μ .pnl) (m_hb : μ .hb) (m_clk : μ .clk) (m_le : μ .le) :
    Keeps μ σ (State.hbWrite s w a data) := by
  unfold State.hbWrite
  repeat' first
    | with_reducible assumption
    | intro _
    | with_reducible apply Keeps.ite
    | ((fail_if_no_progress extract_lets +onlyGivenNames x); first | (refine Keeps.bind x ?_ ?_; (try subst x); rotate_left; intro hx; rotate_left) | skip)
    | with_reducible apply Keeps.cfgWrite
    | with_reducible apply Keeps.cycleWrite
    | with_reducible apply Keeps.funcWrite
    | with_reducible apply Keeps.kindWrite
    | with_reducible apply Keeps.plainW
    | with_reducible apply Keeps.refuseWrite
    | with_reducible apply Keeps.warmWrite
    | with_reducible apply Keeps.wdCfgWrite
    | with_reducible apply Keeps.wdKick
    | split
    | simp only [id_eq]

theorem Keeps.setLane (s : State) (n : ℕ) (l : HbLane) (hs : Keeps μ σ s) (m_hb : μ .hb) :
    Keeps μ σ (State.setLane s n l) := by
  unfold State.setLane
  repeat' first
    | with_reducible assumption
    | intro _
    | with_reducible apply Keeps.ite
    | ((fail_if_no_progress extract_lets +onlyGivenNames x); first | (refine Keeps.bind x ?_ ?_; (try subst x); rotate_left; intro hx; rotate_left) | skip)
    | with_reducible apply Keeps.setHb

theorem Keeps.of_execWatchdogKick (p : Path) (s : State) (hs : Keeps μ σ s) (m_space : μ .space) (m_free : μ .free) (m_rdata : μ .rdata) (m_wres : μ .wres) (m_banks : μ .banks) (m_log : μ .log) (m_ten : μ .ten) (m_ic : μ .ic) (m_broken : μ .broken) (m_safe : μ .safe) (m_cmds : μ .cmds) (m_cd : μ .cd) (m_fwd : μ .fwd) (m_sk : μ .sk) (m_subIn : μ .subIn) (m_subOut : μ .subOut) (m_cl : μ .cl) (m_isl : μ .isl) (m_adc : μ .adc) (m_fan : μ .fan) (m_zb : μ .zb) (m_pnl : μ .pnl) (m_hb : μ .hb) (m_clk : μ .clk) (m_le : μ .le) :
    KeepsO μ σ (execWatchdogKick p s) := by
  unfold execWatchdogKick
  repeat' first
    | with_reducible assumption
    | intro _
    | with_reducible apply KeepsO.next
    | with_reducible apply Keeps.ite
    | ((fail_if_no_progress extract_lets +onlyGivenNames x); first | (refine Keeps.bind x ?_ ?_; (try subst x); rotate_left; intro hx; rotate_left) | (refine KeepsO.bind x ?_ ?_; (try subst x); rotate_left; intro hx; rotate_left) | skip)
    | with_reducible apply Keeps.byPath
    | with_reducible apply Keeps.hbWrite
    | split
    | simp only [id_eq]

theorem Keeps.of_execWatchdogExpiry (s : State) (hs : Keeps μ σ s) (m_space : μ .space) (m_now : μ .now) (m_campusOff : μ .campusOff) (m_free : μ .free) (m_log : μ .log) (m_ten : μ .ten) (m_ic : μ .ic) (m_cl : μ .cl) (m_hb : μ .hb) :
    KeepsO μ σ (execWatchdogExpiry s) := by
  unfold execWatchdogExpiry
  repeat' first
    | with_reducible assumption
    | intro _
    | with_reducible apply KeepsO.next
    | with_reducible apply Keeps.ite
    | with_reducible apply Keeps.wdExpire

theorem Keeps.of_execFuncRstComplete (s : State) (hs : Keeps μ σ s) (m_space : μ .space) (m_fwd : μ .fwd) (m_hb : μ .hb) (m_le : μ .le) :
    KeepsO μ σ (execFuncRstComplete s) := by
  unfold execFuncRstComplete
  repeat' first
    | with_reducible assumption
    | intro _
    | with_reducible apply KeepsO.next
    | with_reducible apply Keeps.ite
    | ((fail_if_no_progress extract_lets +onlyGivenNames x); first | (refine Keeps.bind x ?_ ?_; (try subst x); rotate_left; intro hx; rotate_left) | (refine KeepsO.bind x ?_ ?_; (try subst x); rotate_left; intro hx; rotate_left) | skip)
    | with_reducible apply Keeps.funcComplete
    | split
    | simp only [id_eq]

theorem Keeps.of_execFuncRstTimeout (s : State) (hs : Keeps μ σ s) (m_space : μ .space) (m_now : μ .now) (m_campusOff : μ .campusOff) (m_free : μ .free) (m_ten : μ .ten) (m_cl : μ .cl) (m_hb : μ .hb) :
    KeepsO μ σ (execFuncRstTimeout s) := by
  unfold execFuncRstTimeout
  repeat' first
    | with_reducible assumption
    | intro _
    | with_reducible apply KeepsO.next
    | with_reducible apply Keeps.ite
    | with_reducible apply Keeps.funcTimeout

theorem Keeps.of_execWarmResetRequest (p : Path) (data : Word) (s : State) (hs : Keeps μ σ s) (m_space : μ .space) (m_free : μ .free) (m_rdata : μ .rdata) (m_wres : μ .wres) (m_banks : μ .banks) (m_log : μ .log) (m_ten : μ .ten) (m_ic : μ .ic) (m_broken : μ .broken) (m_safe : μ .safe) (m_cmds : μ .cmds) (m_cd : μ .cd) (m_fwd : μ .fwd) (m_sk : μ .sk) (m_subIn : μ .subIn) (m_subOut : μ .subOut) (m_cl : μ .cl) (m_isl : μ .isl) (m_adc : μ .adc) (m_fan : μ .fan) (m_zb : μ .zb) (m_pnl : μ .pnl) (m_hb : μ .hb) (m_clk : μ .clk) (m_le : μ .le) :
    KeepsO μ σ (execWarmResetRequest p data s) := by
  unfold execWarmResetRequest
  repeat' first
    | with_reducible assumption
    | intro _
    | with_reducible apply KeepsO.next
    | with_reducible apply Keeps.ite
    | ((fail_if_no_progress extract_lets +onlyGivenNames x); first | (refine Keeps.bind x ?_ ?_; (try subst x); rotate_left; intro hx; rotate_left) | (refine KeepsO.bind x ?_ ?_; (try subst x); rotate_left; intro hx; rotate_left) | skip)
    | with_reducible apply Keeps.byPath
    | with_reducible apply Keeps.hbWrite
    | split
    | simp only [id_eq]

theorem Keeps.of_execPowerCycle (p : Path) (data : Word) (s : State) (hs : Keeps μ σ s) (m_space : μ .space) (m_free : μ .free) (m_rdata : μ .rdata) (m_wres : μ .wres) (m_banks : μ .banks) (m_log : μ .log) (m_ten : μ .ten) (m_ic : μ .ic) (m_broken : μ .broken) (m_safe : μ .safe) (m_cmds : μ .cmds) (m_cd : μ .cd) (m_fwd : μ .fwd) (m_sk : μ .sk) (m_subIn : μ .subIn) (m_subOut : μ .subOut) (m_cl : μ .cl) (m_isl : μ .isl) (m_adc : μ .adc) (m_fan : μ .fan) (m_zb : μ .zb) (m_pnl : μ .pnl) (m_hb : μ .hb) (m_clk : μ .clk) (m_le : μ .le) :
    KeepsO μ σ (execPowerCycle p data s) := by
  unfold execPowerCycle
  repeat' first
    | with_reducible assumption
    | intro _
    | with_reducible apply KeepsO.next
    | with_reducible apply Keeps.ite
    | ((fail_if_no_progress extract_lets +onlyGivenNames x); first | (refine Keeps.bind x ?_ ?_; (try subst x); rotate_left; intro hx; rotate_left) | (refine KeepsO.bind x ?_ ?_; (try subst x); rotate_left; intro hx; rotate_left) | skip)
    | with_reducible apply Keeps.byPath
    | with_reducible apply Keeps.hbWrite
    | split
    | simp only [id_eq]

theorem Keeps.of_execWarmBootTimeout (s : State) (hs : Keeps μ σ s) (m_space : μ .space) (m_now : μ .now) (m_campusOff : μ .campusOff) (m_cl : μ .cl) (m_hb : μ .hb) (m_clk : μ .clk) :
    KeepsO μ σ (execWarmBootTimeout s) := by
  unfold execWarmBootTimeout
  repeat' first
    | with_reducible assumption
    | intro _
    | with_reducible apply KeepsO.next
    | with_reducible apply Keeps.ite
    | with_reducible apply Keeps.pwrCycle
    | with_reducible apply Keeps.reach
    | split

theorem Keeps.of_execPwrcycNRelease (s : State) (hs : Keeps μ σ s) (m_now : μ .now) (m_campusOff : μ .campusOff) (m_cl : μ .cl) (m_hb : μ .hb) :
    KeepsO μ σ (execPwrcycNRelease s) := by
  unfold execPwrcycNRelease
  repeat' first
    | with_reducible assumption
    | intro _
    | with_reducible apply KeepsO.next
    | with_reducible apply Keeps.ite
    | ((fail_if_no_progress extract_lets +onlyGivenNames x); first | (refine Keeps.bind x ?_ ?_; (try subst x); rotate_left; intro hx; rotate_left) | (refine KeepsO.bind x ?_ ?_; (try subst x); rotate_left; intro hx; rotate_left) | skip)
    | with_reducible apply Keeps.reach
    | with_reducible apply Keeps.setHb
    | split

theorem Keeps.funcCmd (s : State) (p : Path) (f : ℕ) (hs : Keeps μ σ s) (m_space : μ .space) (m_free : μ .free) (m_rdata : μ .rdata) (m_wres : μ .wres) (m_banks : μ .banks) (m_log : μ .log) (m_ten : μ .ten) (m_ic : μ .ic) (m_broken : μ .broken) (m_safe : μ .safe) (m_cmds : μ .cmds) (m_cd : μ .cd) (m_fwd : μ .fwd) (m_sk : μ .sk) (m_subIn : μ .subIn) (m_subOut : μ .subOut) (m_cl : μ .cl) (m_isl : μ .isl) (m_adc : μ .adc) (m_fan : μ .fan) (m_zb : μ .zb) (m_pnl : μ .pnl) (m_hb : μ .hb) (m_clk : μ .clk) (m_le : μ .le) :
    Keeps μ σ (State.funcCmd s p f) := by
  unfold State.funcCmd
  repeat' first
    | with_reducible assumption
    | intro _
    | with_reducible apply Keeps.ite
    | ((fail_if_no_progress extract_lets +onlyGivenNames x); first | (refine Keeps.bind x ?_ ?_; (try subst x); rotate_left; intro hx; rotate_left) | skip)
    | with_reducible apply Keeps.byPath
    | with_reducible apply Keeps.hbWrite
    | split
    | simp only [id_eq]

theorem Keeps.of_execZbFuncRst (p : Path) (z : Fin 16) (s : State) (hs : Keeps μ σ s) (m_space : μ .space) (m_free : μ .free) (m_rdata : μ .rdata) (m_wres : μ .wres) (m_banks : μ .banks) (m_log : μ .log) (m_ten : μ .ten) (m_ic : μ .ic) (m_broken : μ .broken) (m_safe : μ .safe) (m_cmds : μ .cmds) (m_cd : μ .cd) (m_fwd : μ .fwd) (m_sk : μ .sk) (m_subIn : μ .subIn) (m_subOut : μ .subOut) (m_cl : μ .cl) (m_isl : μ .isl) (m_adc : μ .adc) (m_fan : μ .fan) (m_zb : μ .zb) (m_pnl : μ .pnl) (m_hb : μ .hb) (m_clk : μ .clk) (m_le : μ .le) :
    KeepsO μ σ (execZbFuncRst p z s) := by
  unfold execZbFuncRst
  repeat' first
    | with_reducible assumption
    | intro _
    | with_reducible apply KeepsO.next
    | with_reducible apply Keeps.ite
    | ((fail_if_no_progress extract_lets +onlyGivenNames x); first | (refine Keeps.bind x ?_ ?_; (try subst x); rotate_left; intro hx; rotate_left) | (refine KeepsO.bind x ?_ ?_; (try subst x); rotate_left; intro hx; rotate_left) | skip)
    | with_reducible apply Keeps.funcCmd
    | split
    | simp only [id_eq]

theorem Keeps.of_execAdcFuncRst (p : Path) (k : Fin 4) (s : State) (hs : Keeps μ σ s) (m_space : μ .space) (m_free : μ .free) (m_rdata : μ .rdata) (m_wres : μ .wres) (m_banks : μ .banks) (m_log : μ .log) (m_ten : μ .ten) (m_ic : μ .ic) (m_broken : μ .broken) (m_safe : μ .safe) (m_cmds : μ .cmds) (m_cd : μ .cd) (m_fwd : μ .fwd) (m_sk : μ .sk) (m_subIn : μ .subIn) (m_subOut : μ .subOut) (m_cl : μ .cl) (m_isl : μ .isl) (m_adc : μ .adc) (m_fan : μ .fan) (m_zb : μ .zb) (m_pnl : μ .pnl) (m_hb : μ .hb) (m_clk : μ .clk) (m_le : μ .le) :
    KeepsO μ σ (execAdcFuncRst p k s) := by
  unfold execAdcFuncRst
  repeat' first
    | with_reducible assumption
    | intro _
    | with_reducible apply KeepsO.next
    | with_reducible apply Keeps.ite
    | ((fail_if_no_progress extract_lets +onlyGivenNames x); first | (refine Keeps.bind x ?_ ?_; (try subst x); rotate_left; intro hx; rotate_left) | (refine KeepsO.bind x ?_ ?_; (try subst x); rotate_left; intro hx; rotate_left) | skip)
    | with_reducible apply Keeps.funcCmd
    | split
    | simp only [id_eq]

theorem Keeps.of_execCdPairFuncRst (p : Path) (k : Fin 16) (s : State) (hs : Keeps μ σ s) (m_space : μ .space) (m_free : μ .free) (m_rdata : μ .rdata) (m_wres : μ .wres) (m_banks : μ .banks) (m_log : μ .log) (m_ten : μ .ten) (m_ic : μ .ic) (m_broken : μ .broken) (m_safe : μ .safe) (m_cmds : μ .cmds) (m_cd : μ .cd) (m_fwd : μ .fwd) (m_sk : μ .sk) (m_subIn : μ .subIn) (m_subOut : μ .subOut) (m_cl : μ .cl) (m_isl : μ .isl) (m_adc : μ .adc) (m_fan : μ .fan) (m_zb : μ .zb) (m_pnl : μ .pnl) (m_hb : μ .hb) (m_clk : μ .clk) (m_le : μ .le) :
    KeepsO μ σ (execCdPairFuncRst p k s) := by
  unfold execCdPairFuncRst
  repeat' first
    | with_reducible assumption
    | intro _
    | with_reducible apply KeepsO.next
    | with_reducible apply Keeps.ite
    | ((fail_if_no_progress extract_lets +onlyGivenNames x); first | (refine Keeps.bind x ?_ ?_; (try subst x); rotate_left; intro hx; rotate_left) | (refine KeepsO.bind x ?_ ?_; (try subst x); rotate_left; intro hx; rotate_left) | skip)
    | with_reducible apply Keeps.funcCmd
    | split
    | simp only [id_eq]

theorem Keeps.of_execFanGroupFuncRst (p : Path) (g : Fin 4) (s : State) (hs : Keeps μ σ s) (m_space : μ .space) (m_free : μ .free) (m_rdata : μ .rdata) (m_wres : μ .wres) (m_banks : μ .banks) (m_log : μ .log) (m_ten : μ .ten) (m_ic : μ .ic) (m_broken : μ .broken) (m_safe : μ .safe) (m_cmds : μ .cmds) (m_cd : μ .cd) (m_fwd : μ .fwd) (m_sk : μ .sk) (m_subIn : μ .subIn) (m_subOut : μ .subOut) (m_cl : μ .cl) (m_isl : μ .isl) (m_adc : μ .adc) (m_fan : μ .fan) (m_zb : μ .zb) (m_pnl : μ .pnl) (m_hb : μ .hb) (m_clk : μ .clk) (m_le : μ .le) :
    KeepsO μ σ (execFanGroupFuncRst p g s) := by
  unfold execFanGroupFuncRst
  repeat' first
    | with_reducible assumption
    | intro _
    | with_reducible apply KeepsO.next
    | with_reducible apply Keeps.ite
    | ((fail_if_no_progress extract_lets +onlyGivenNames x); first | (refine Keeps.bind x ?_ ?_; (try subst x); rotate_left; intro hx; rotate_left) | (refine KeepsO.bind x ?_ ?_; (try subst x); rotate_left; intro hx; rotate_left) | skip)
    | with_reducible apply Keeps.funcCmd
    | split
    | simp only [id_eq]

theorem Keeps.of_execClPortFuncRst (p : Path) (n : Fin 3) (s : State) (hs : Keeps μ σ s) (m_space : μ .space) (m_free : μ .free) (m_rdata : μ .rdata) (m_wres : μ .wres) (m_banks : μ .banks) (m_log : μ .log) (m_ten : μ .ten) (m_ic : μ .ic) (m_broken : μ .broken) (m_safe : μ .safe) (m_cmds : μ .cmds) (m_cd : μ .cd) (m_fwd : μ .fwd) (m_sk : μ .sk) (m_subIn : μ .subIn) (m_subOut : μ .subOut) (m_cl : μ .cl) (m_isl : μ .isl) (m_adc : μ .adc) (m_fan : μ .fan) (m_zb : μ .zb) (m_pnl : μ .pnl) (m_hb : μ .hb) (m_clk : μ .clk) (m_le : μ .le) :
    KeepsO μ σ (execClPortFuncRst p n s) := by
  unfold execClPortFuncRst
  repeat' first
    | with_reducible assumption
    | intro _
    | with_reducible apply KeepsO.next
    | with_reducible apply Keeps.ite
    | ((fail_if_no_progress extract_lets +onlyGivenNames x); first | (refine Keeps.bind x ?_ ?_; (try subst x); rotate_left; intro hx; rotate_left) | (refine KeepsO.bind x ?_ ?_; (try subst x); rotate_left; intro hx; rotate_left) | skip)
    | with_reducible apply Keeps.funcCmd
    | split
    | simp only [id_eq]

theorem Keeps.of_execPnlFuncRst (p : Path) (s : State) (hs : Keeps μ σ s) (m_space : μ .space) (m_free : μ .free) (m_rdata : μ .rdata) (m_wres : μ .wres) (m_banks : μ .banks) (m_log : μ .log) (m_ten : μ .ten) (m_ic : μ .ic) (m_broken : μ .broken) (m_safe : μ .safe) (m_cmds : μ .cmds) (m_cd : μ .cd) (m_fwd : μ .fwd) (m_sk : μ .sk) (m_subIn : μ .subIn) (m_subOut : μ .subOut) (m_cl : μ .cl) (m_isl : μ .isl) (m_adc : μ .adc) (m_fan : μ .fan) (m_zb : μ .zb) (m_pnl : μ .pnl) (m_hb : μ .hb) (m_clk : μ .clk) (m_le : μ .le) :
    KeepsO μ σ (execPnlFuncRst p s) := by
  unfold execPnlFuncRst
  repeat' first
    | with_reducible assumption
    | intro _
    | with_reducible apply KeepsO.next
    | with_reducible apply Keeps.ite
    | ((fail_if_no_progress extract_lets +onlyGivenNames x); first | (refine Keeps.bind x ?_ ?_; (try subst x); rotate_left; intro hx; rotate_left) | (refine KeepsO.bind x ?_ ?_; (try subst x); rotate_left; intro hx; rotate_left) | skip)
    | with_reducible apply Keeps.funcCmd
    | split
    | simp only [id_eq]

theorem Keeps.of_execSkFuncRst (p : Path) (k : Fin 4) (s : State) (hs : Keeps μ σ s) (m_space : μ .space) (m_free : μ .free) (m_rdata : μ .rdata) (m_wres : μ .wres) (m_banks : μ .banks) (m_log : μ .log) (m_ten : μ .ten) (m_ic : μ .ic) (m_broken : μ .broken) (m_safe : μ .safe) (m_cmds : μ .cmds) (m_cd : μ .cd) (m_fwd : μ .fwd) (m_sk : μ .sk) (m_subIn : μ .subIn) (m_subOut : μ .subOut) (m_cl : μ .cl) (m_isl : μ .isl) (m_adc : μ .adc) (m_fan : μ .fan) (m_zb : μ .zb) (m_pnl : μ .pnl) (m_hb : μ .hb) (m_clk : μ .clk) (m_le : μ .le) :
    KeepsO μ σ (execSkFuncRst p k s) := by
  unfold execSkFuncRst
  repeat' first
    | with_reducible assumption
    | intro _
    | with_reducible apply KeepsO.next
    | with_reducible apply Keeps.ite
    | ((fail_if_no_progress extract_lets +onlyGivenNames x); first | (refine Keeps.bind x ?_ ?_; (try subst x); rotate_left; intro hx; rotate_left) | (refine KeepsO.bind x ?_ ?_; (try subst x); rotate_left; intro hx; rotate_left) | skip)
    | with_reducible apply Keeps.funcCmd
    | split
    | simp only [id_eq]

theorem Keeps.of_execLeFuncRst (p : Path) (s : State) (hs : Keeps μ σ s) (m_space : μ .space) (m_free : μ .free) (m_rdata : μ .rdata) (m_wres : μ .wres) (m_banks : μ .banks) (m_log : μ .log) (m_ten : μ .ten) (m_ic : μ .ic) (m_broken : μ .broken) (m_safe : μ .safe) (m_cmds : μ .cmds) (m_cd : μ .cd) (m_fwd : μ .fwd) (m_sk : μ .sk) (m_subIn : μ .subIn) (m_subOut : μ .subOut) (m_cl : μ .cl) (m_isl : μ .isl) (m_adc : μ .adc) (m_fan : μ .fan) (m_zb : μ .zb) (m_pnl : μ .pnl) (m_hb : μ .hb) (m_clk : μ .clk) (m_le : μ .le) :
    KeepsO μ σ (execLeFuncRst p s) := by
  unfold execLeFuncRst
  repeat' first
    | with_reducible assumption
    | intro _
    | with_reducible apply KeepsO.next
    | with_reducible apply Keeps.ite
    | ((fail_if_no_progress extract_lets +onlyGivenNames x); first | (refine Keeps.bind x ?_ ?_; (try subst x); rotate_left; intro hx; rotate_left) | (refine KeepsO.bind x ?_ ?_; (try subst x); rotate_left; intro hx; rotate_left) | skip)
    | with_reducible apply Keeps.funcCmd
    | split
    | simp only [id_eq]

theorem Keeps.of_execLogFuncRst (p : Path) (cap : Option ℕ) (card : Option (List (ℕ × List Byte))) (s : State) (hs : Keeps μ σ s) (m_space : μ .space) (m_free : μ .free) (m_rdata : μ .rdata) (m_wres : μ .wres) (m_banks : μ .banks) (m_log : μ .log) (m_ten : μ .ten) (m_ic : μ .ic) (m_broken : μ .broken) (m_safe : μ .safe) (m_cmds : μ .cmds) (m_cd : μ .cd) (m_fwd : μ .fwd) (m_sk : μ .sk) (m_subIn : μ .subIn) (m_subOut : μ .subOut) (m_cl : μ .cl) (m_isl : μ .isl) (m_adc : μ .adc) (m_fan : μ .fan) (m_zb : μ .zb) (m_pnl : μ .pnl) (m_hb : μ .hb) (m_le : μ .le) :
    KeepsO μ σ (execLogFuncRst p cap card s) := by
  unfold execLogFuncRst
  repeat' first
    | with_reducible assumption
    | intro _
    | with_reducible apply KeepsO.next
    | with_reducible apply Keeps.ite
    | ((fail_if_no_progress extract_lets +onlyGivenNames x); first | (refine Keeps.bind x ?_ ?_; (try subst x); rotate_left; intro hx; rotate_left) | (refine KeepsO.bind x ?_ ?_; (try subst x); rotate_left; intro hx; rotate_left) | skip)
    | with_reducible apply Keeps.byPath
    | with_reducible apply Keeps.funcWrite
    | split
    | simp only [id_eq]

theorem Keeps.of_execCdFuncRstComplete (k : Fin 16) (s : State) (hs : Keeps μ σ s) (m_space : μ .space) (m_ten : μ .ten) (m_cd : μ .cd) :
    KeepsO μ σ (execCdFuncRstComplete k s) := by
  unfold execCdFuncRstComplete
  repeat' first
    | with_reducible assumption
    | intro _
    | with_reducible apply KeepsO.next
    | with_reducible apply Keeps.ite
    | with_reducible apply Keeps.cdPairRstDone

end Sys2Proof.Machine
end

