-- ==== Sys2Proof/Laws/KeepsAonOps.lean ====
section
/-! SUPPORT. What each operation of Machine/AonOps.lean keeps: the queue, the clock's direction, the canonical form of the register
space, and every part of the state it does not name (`Keeps`). -/

set_option linter.unusedTactic false
set_option linter.unreachableTactic false
set_option linter.unusedSimpArgs false
set_option linter.unusedVariables false

namespace Sys2Proof.Machine

variable {μ : Part → Prop} {σ : State}

theorem Keeps.chgUpdate (s : State) (hs : Keeps μ σ s) (m_space : μ .space) :
    Keeps μ σ (State.chgUpdate s) := by
  unfold State.chgUpdate
  repeat' first
    | with_reducible assumption
    | intro _
    | with_reducible apply Keeps.ite
    | with_reducible apply Keeps.put

theorem Keeps.aonWrite (s : State) (w : Who) (a : ℕ) (data : Word) (hs : Keeps μ σ s) (m_space : μ .space) (m_wres : μ .wres) (m_log : μ .log) (m_ten : μ .ten) (m_safe : μ .safe) (m_cmds : μ .cmds) (m_cd : μ .cd) :
    Keeps μ σ (State.aonWrite s w a data) := by
  unfold State.aonWrite
  repeat' first
    | with_reducible assumption
    | intro _
    | with_reducible apply Keeps.ite
    | with_reducible apply Keeps.cfgWrite
    | with_reducible apply Keeps.chgUpdate
    | with_reducible apply Keeps.clearWrite
    | with_reducible apply Keeps.dropWrite
    | with_reducible apply Keeps.kindWrite
    | with_reducible apply Keeps.refuseWrite
    | with_reducible apply Keeps.safeRelease
    | with_reducible apply Keeps.setWord

theorem Keeps.of_execBatGoneClear (p : Path) (s : State) (hs : Keeps μ σ s) (m_space : μ .space) (m_rdata : μ .rdata) (m_wres : μ .wres) (m_banks : μ .banks) (m_log : μ .log) (m_ten : μ .ten) (m_safe : μ .safe) (m_cmds : μ .cmds) (m_cd : μ .cd) :
    KeepsO μ σ (execBatGoneClear p s) := by
  unfold execBatGoneClear
  repeat' first
    | with_reducible assumption
    | intro _
    | with_reducible apply KeepsO.next
    | with_reducible apply Keeps.ite
    | with_reducible apply Keeps.aonWrite
    | with_reducible apply Keeps.byPath

theorem Keeps.of_execChargerCvReached (s : State) (hs : Keeps μ σ s) (m_space : μ .space) (m_free : μ .free) :
    KeepsO μ σ (execChargerCvReached s) := by
  unfold execChargerCvReached
  repeat' first
    | with_reducible assumption
    | intro _
    | with_reducible apply KeepsO.next
    | with_reducible apply Keeps.ite
    | with_reducible apply Keeps.fresh
    | with_reducible apply Keeps.put

theorem Keeps.pdIrq (s : State) (n : ℕ) (hs : Keeps μ σ s) (m_space : μ .space) (m_free : μ .free) (m_ten : μ .ten) (m_ic : μ .ic) (m_clk : μ .clk) :
    Keeps μ σ (State.pdIrq s n) := by
  unfold State.pdIrq
  repeat' first
    | with_reducible assumption
    | intro _
    | with_reducible apply Keeps.ite
    | ((fail_if_no_progress extract_lets +onlyGivenNames x); first | (refine Keeps.bind x ?_ ?_; (try subst x); rotate_left; intro hx; rotate_left) | skip)
    | with_reducible apply Keeps.icPulse
    | with_reducible apply Keeps.setClk

theorem Keeps.aonReset (s : State) (hs : Keeps μ σ s) (m_space : μ .space) (m_safeUnrec : μ .safeUnrec) (m_rtcOff : μ .rtcOff) (m_rtcHeld : μ .rtcHeld) :
    Keeps μ σ (State.aonReset s) := by
  unfold State.aonReset
  extract_lets x y
  have hx : Keeps μ σ x := { hs with wf := fun w => Tab.wf_filter _ (hs.wf w), space := .inl m_space }
  exact (Keeps.upd_safeUnrec_rtcOff_rtcHeld m_safeUnrec m_rtcOff m_rtcHeld).2 (Keeps.setWord _ _ _ hx m_space)

theorem Keeps.of_execBatteryRemoval (s : State) (hs : Keeps μ σ s) (m_space : μ .space) (m_free : μ .free) (m_ten : μ .ten) (m_ic : μ .ic) (m_safeUnrec : μ .safeUnrec) (m_rtcOff : μ .rtcOff) (m_rtcHeld : μ .rtcHeld) (m_clk : μ .clk) (m_pdErrs : μ .pdErrs) :
    KeepsO μ σ (execBatteryRemoval s) := by
  unfold execBatteryRemoval
  repeat' first
    | with_reducible assumption
    | intro _
    | with_reducible apply KeepsO.next
    | with_reducible apply Keeps.ite
    | ((fail_if_no_progress extract_lets +onlyGivenNames x); first | (refine Keeps.bind x ?_ ?_; (try subst x); rotate_left; intro hx; rotate_left) | (refine KeepsO.bind x ?_ ?_; (try subst x); rotate_left; intro hx; rotate_left) | skip)
    | with_reducible apply Keeps.aonReset
    | with_reducible apply Keeps.chgUpdate
    | with_reducible apply Keeps.pdErr
    | with_reducible apply Keeps.pdIrq
    | with_reducible apply Keeps.put
    | split
    | simp only [id_eq]

theorem Keeps.of_execSupplyWarning (i : Fin 4) (mV : ℕ) (s : State) (hs : Keeps μ σ s) (m_space : μ .space) (m_free : μ .free) (m_log : μ .log) (m_ten : μ .ten) (m_ic : μ .ic) (m_clk : μ .clk) :
    KeepsO μ σ (execSupplyWarning i mV s) := by
  unfold execSupplyWarning
  repeat' first
    | with_reducible assumption
    | intro _
    | with_reducible apply KeepsO.next
    | with_reducible apply Keeps.ite
    | ((fail_if_no_progress extract_lets +onlyGivenNames x); first | (refine Keeps.bind x ?_ ?_; (try subst x); rotate_left; intro hx; rotate_left) | (refine KeepsO.bind x ?_ ?_; (try subst x); rotate_left; intro hx; rotate_left) | skip)
    | with_reducible apply Keeps.icPulse
    | with_reducible apply Keeps.logFlushAll
    | with_reducible apply Keeps.pdIrq
    | with_reducible apply Keeps.put
    | with_reducible apply Keeps.setWord
    | split
    | simp only [id_eq]

theorem Keeps.of_execRtcStop (s : State) (hs : Keeps μ σ s) (m_space : μ .space) (m_rtcHeld : μ .rtcHeld) :
    KeepsO μ σ (execRtcStop s) := by
  unfold execRtcStop
  repeat' first
    | with_reducible assumption
    | intro _
    | with_reducible apply KeepsO.next
    | with_reducible apply Keeps.ite
    | ((fail_if_no_progress extract_lets +onlyGivenNames x); first | (refine Keeps.bind x ?_ ?_; (try subst x); rotate_left; intro hx; rotate_left) | (refine KeepsO.bind x ?_ ?_; (try subst x); rotate_left; intro hx; rotate_left) | skip)
    | with_reducible apply Keeps.put
    | simp only [Keeps.upd_rtcHeld m_rtcHeld]

theorem Keeps.of_execRtcResume (s : State) (hs : Keeps μ σ s) (m_space : μ .space) (m_rtcOff : μ .rtcOff) (m_rtcHeld : μ .rtcHeld) :
    KeepsO μ σ (execRtcResume s) := by
  unfold execRtcResume
  repeat' first
    | with_reducible assumption
    | intro _
    | with_reducible apply KeepsO.next
    | with_reducible apply Keeps.ite
    | ((fail_if_no_progress extract_lets +onlyGivenNames x); first | (refine Keeps.bind x ?_ ?_; (try subst x); rotate_left; intro hx; rotate_left) | (refine KeepsO.bind x ?_ ?_; (try subst x); rotate_left; intro hx; rotate_left) | skip)
    | with_reducible apply Keeps.put
    | simp only [Keeps.upd_rtcOff_rtcHeld m_rtcOff m_rtcHeld]
    | split

theorem Keeps.of_execRtcWriteback (s : State) (hs : Keeps μ σ s) (m_space : μ .space) (m_now : μ .now) (m_campusOff : μ .campusOff) (m_rtcOff : μ .rtcOff) (m_cl : μ .cl) (m_clk : μ .clk) :
    KeepsO μ σ (execRtcWriteback s) := by
  unfold execRtcWriteback
  repeat' first
    | with_reducible assumption
    | intro _
    | with_reducible apply KeepsO.next
    | with_reducible apply Keeps.ite
    | ((fail_if_no_progress extract_lets +onlyGivenNames x); first | (refine Keeps.bind x ?_ ?_; (try subst x); rotate_left; intro hx; rotate_left) | (refine KeepsO.bind x ?_ ?_; (try subst x); rotate_left; intro hx; rotate_left) | skip)
    | with_reducible apply Keeps.put
    | with_reducible apply Keeps.reach
    | with_reducible apply Keeps.setClk
    | simp only [Keeps.upd_rtcOff m_rtcOff]

theorem Keeps.of_execAonPowerUp (s : State) (hs : Keeps μ σ s) (m_space : μ .space) (m_safeUnrec : μ .safeUnrec) (m_rtcOff : μ .rtcOff) (m_rtcHeld : μ .rtcHeld) :
    KeepsO μ σ (execAonPowerUp s) := by
  unfold execAonPowerUp
  repeat' first
    | with_reducible assumption
    | intro _
    | with_reducible apply KeepsO.next
    | with_reducible apply Keeps.ite
    | with_reducible apply Keeps.aonReset

end Sys2Proof.Machine
end

