-- ==== Sys2Proof/Laws/KeepsBus.lean ====
section
/-! SUPPORT. What each operation of Machine/Bus.lean keeps: the queue, the clock's direction, the canonical form of the register
space, and every part of the state it does not name (`Keeps`). -/

set_option linter.unusedTactic false
set_option linter.unreachableTactic false
set_option linter.unusedSimpArgs false
set_option linter.unusedVariables false

namespace Sys2Proof.Machine

variable {μ : Part → Prop} {σ : State}

theorem Keeps.sysWrite (s : State) (w : Who) (a : ℕ) (data : Word) (hs : Keeps μ σ s) (m_space : μ .space) (m_free : μ .free) (m_wres : μ .wres) (m_log : μ .log) (m_ten : μ .ten) (m_broken : μ .broken) (m_safe : μ .safe) (m_cmds : μ .cmds) (m_cd : μ .cd) (m_fwd : μ .fwd) (m_sk : μ .sk) (m_subOut : μ .subOut) (m_cl : μ .cl) :
    Keeps μ σ (State.sysWrite s w a data) := by
  unfold State.sysWrite
  repeat' first
    | with_reducible assumption
    | intro _
    | with_reducible apply Keeps.ite
    | ((fail_if_no_progress extract_lets +onlyGivenNames x); first | (refine Keeps.bind x ?_ ?_; (try subst x); rotate_left; intro hx; rotate_left) | skip)
    | with_reducible apply Keeps.kindWrite
    | with_reducible apply Keeps.plainW
    | with_reducible apply Keeps.profileWrite
    | with_reducible apply Keeps.ptRelWrite
    | with_reducible apply Keeps.zoneCfgWrite
    | split
    | simp only [id_eq]

theorem Keeps.leWrite (s : State) (w : Who) (a : ℕ) (data : Word) (hs : Keeps μ σ s) (m_space : μ .space) (m_wres : μ .wres) (m_log : μ .log) (m_ten : μ .ten) (m_le : μ .le) :
    Keeps μ σ (State.leWrite s w a data) := by
  unfold State.leWrite
  repeat' first
    | with_reducible assumption
    | intro _
    | with_reducible apply Keeps.ite
    | with_reducible apply Keeps.groupWrite
    | with_reducible apply Keeps.kindWrite
    | with_reducible apply Keeps.refuseWrite
    | with_reducible apply Keeps.selWrite
    | with_reducible apply Keeps.swapWrite

theorem Keeps.cdWrite (s : State) (w : Who) (a : ℕ) (data : Word) (hs : Keeps μ σ s) (m_space : μ .space) (m_wres : μ .wres) (m_log : μ .log) (m_ten : μ .ten) (m_safe : μ .safe) (m_cd : μ .cd) (m_cdg : μ .cdg) :
    Keeps μ σ (State.cdWrite s w a data) := by
  unfold State.cdWrite
  repeat' first
    | with_reducible assumption
    | intro _
    | with_reducible apply Keeps.ite
    | with_reducible apply Keeps.cdCfgWrite
    | with_reducible apply Keeps.cdFltWrite
    | with_reducible apply Keeps.cdHoldLrnWrite
    | with_reducible apply Keeps.cdLearnWrite
    | with_reducible apply Keeps.cdLwinWrite
    | with_reducible apply Keeps.cdRegWrite

theorem Keeps.busWrite (s : State) (w : Who) (a : ℕ) (data : Word) (hs : Keeps μ σ s) (m_space : μ .space) (m_campusOff : μ .campusOff) (m_free : μ .free) (m_wres : μ .wres) (m_banks : μ .banks) (m_log : μ .log) (m_ten : μ .ten) (m_ic : μ .ic) (m_broken : μ .broken) (m_safe : μ .safe) (m_cmds : μ .cmds) (m_cd : μ .cd) (m_cdg : μ .cdg) (m_fwd : μ .fwd) (m_sk : μ .sk) (m_sk0mem : μ .sk0mem) (m_subIn : μ .subIn) (m_subOut : μ .subOut) (m_cl : μ .cl) (m_isl : μ .isl) (m_adc : μ .adc) (m_fan : μ .fan) (m_fio : μ .fio) (m_zb : μ .zb) (m_pnl : μ .pnl) (m_hb : μ .hb) (m_boot : μ .boot) (m_clk : μ .clk) (m_ucal : μ .ucal) (m_le : μ .le) :
    Keeps μ σ (State.busWrite s w a data) := by
  unfold State.busWrite
  repeat' first
    | with_reducible assumption
    | intro _
    | with_reducible apply Keeps.ite
    | ((fail_if_no_progress extract_lets +onlyGivenNames x); first | (refine Keeps.bind x ?_ ?_; (try subst x); rotate_left; intro hx; rotate_left) | skip)
    | with_reducible apply Keeps.adcWrite
    | with_reducible apply Keeps.aonWrite
    | with_reducible apply Keeps.bootWrite
    | with_reducible apply Keeps.cdWrite
    | with_reducible apply Keeps.clWrite
    | with_reducible apply Keeps.fanWrite
    | with_reducible apply Keeps.fioWrite
    | with_reducible apply Keeps.hbWrite
    | with_reducible apply Keeps.icWrite
    | with_reducible apply Keeps.leWrite
    | with_reducible apply Keeps.logWrite
    | with_reducible apply Keeps.plainW
    | with_reducible apply Keeps.pnlWrite
    | with_reducible apply Keeps.ptWindowWrite
    | with_reducible apply Keeps.recWrite
    | with_reducible apply Keeps.refuseWrite
    | with_reducible apply Keeps.skMemWrite
    | with_reducible apply Keeps.skRegWrite
    | with_reducible apply Keeps.sysWrite
    | with_reducible apply Keeps.tenWrite
    | with_reducible apply Keeps.unmapped
    | with_reducible apply Keeps.zbWrite
    | split
    | simp only [id_eq]

theorem Keeps.readReg (s : State) (w : Who) (a : ℕ) (hs : Keeps μ σ s) (m_space : μ .space) (m_rdata : μ .rdata) (m_wres : μ .wres) (m_banks : μ .banks) :
    Keeps μ σ (State.readReg s w a) := by
  unfold State.readReg
  repeat' first
    | with_reducible assumption
    | intro _
    | with_reducible apply Keeps.ite
    | ((fail_if_no_progress extract_lets +onlyGivenNames x); first | (refine Keeps.bind x ?_ ?_; (try subst x); rotate_left; intro hx; rotate_left) | skip)
    | with_reducible apply Keeps.setBank
    | with_reducible apply Keeps.setWord
    | simp only [Keeps.upd_rdata_wres m_rdata m_wres]
    | split

theorem Keeps.busRead_go (w : Who) (a : ℕ) (s : State) (hs : Keeps μ σ s) (m_space : μ .space) (m_free : μ .free) (m_rdata : μ .rdata) (m_wres : μ .wres) (m_banks : μ .banks) (m_log : μ .log) (m_ten : μ .ten) (m_ic : μ .ic) (m_broken : μ .broken) (m_safe : μ .safe) (m_cmds : μ .cmds) (m_cd : μ .cd) (m_fwd : μ .fwd) (m_sk : μ .sk) (m_le : μ .le) :
    Keeps μ σ (State.busRead.go w a s) := by
  unfold State.busRead.go
  repeat' first
    | with_reducible assumption
    | intro _
    | with_reducible apply Keeps.ite
    | ((fail_if_no_progress extract_lets +onlyGivenNames x); first | (refine Keeps.bind x ?_ ?_; (try subst x); rotate_left; intro hx; rotate_left) | skip)
    | with_reducible apply Keeps.fresh
    | with_reducible apply Keeps.icClaimRead
    | with_reducible apply Keeps.inc
    | with_reducible apply Keeps.leDrain
    | with_reducible apply Keeps.ptFind
    | with_reducible apply Keeps.ptValueRead
    | with_reducible apply Keeps.readReg
    | simp only [Keeps.upd_rdata_wres m_rdata m_wres, Keeps.upd_wres m_wres]
    | split
    | simp only [id_eq]

theorem Keeps.busRead (s : State) (w : Who) (a : ℕ) (hs : Keeps μ σ s) (m_space : μ .space) (m_free : μ .free) (m_rdata : μ .rdata) (m_wres : μ .wres) (m_banks : μ .banks) (m_log : μ .log) (m_ten : μ .ten) (m_ic : μ .ic) (m_broken : μ .broken) (m_safe : μ .safe) (m_cmds : μ .cmds) (m_cd : μ .cd) (m_fwd : μ .fwd) (m_sk : μ .sk) (m_le : μ .le) :
    Keeps μ σ (State.busRead s w a) := by
  unfold State.busRead
  repeat' first
    | with_reducible assumption
    | intro _
    | with_reducible apply Keeps.ite
    | ((fail_if_no_progress extract_lets +onlyGivenNames x); first | (refine Keeps.bind x ?_ ?_; (try subst x); rotate_left; intro hx; rotate_left) | skip)
    | with_reducible apply Keeps.busRead_go
    | with_reducible apply Keeps.dropCap
    | with_reducible apply Keeps.dropRead
    | with_reducible apply Keeps.inc
    | with_reducible apply Keeps.unmapped
    | simp only [Keeps.upd_rdata_wres m_rdata m_wres]
    | split

theorem Keeps.of_execRegisterWrite (p : Path) (a : Fin (2 ^ 24)) (data : Word) (s : State) (hs : Keeps μ σ s) (m_space : μ .space) (m_campusOff : μ .campusOff) (m_free : μ .free) (m_rdata : μ .rdata) (m_wres : μ .wres) (m_banks : μ .banks) (m_log : μ .log) (m_ten : μ .ten) (m_ic : μ .ic) (m_broken : μ .broken) (m_safe : μ .safe) (m_cmds : μ .cmds) (m_cd : μ .cd) (m_cdg : μ .cdg) (m_fwd : μ .fwd) (m_sk : μ .sk) (m_sk0mem : μ .sk0mem) (m_subIn : μ .subIn) (m_subOut : μ .subOut) (m_cl : μ .cl) (m_isl : μ .isl) (m_adc : μ .adc) (m_fan : μ .fan) (m_fio : μ .fio) (m_zb : μ .zb) (m_pnl : μ .pnl) (m_hb : μ .hb) (m_boot : μ .boot) (m_clk : μ .clk) (m_ucal : μ .ucal) (m_le : μ .le) :
    KeepsO μ σ (execRegisterWrite p a data s) := by
  unfold execRegisterWrite
  repeat' first
    | with_reducible assumption
    | intro _
    | with_reducible apply KeepsO.next
    | with_reducible apply Keeps.ite
    | with_reducible apply Keeps.busWrite
    | with_reducible apply Keeps.byPath

end Sys2Proof.Machine
end

