-- ==== Sys2Proof/Laws/KeepsBoot.lean ====
section
/-! SUPPORT. What each operation of Machine/Boot.lean keeps: the queue, the clock's direction, the canonical form of the register
space, and every part of the state it does not name (`Keeps`). -/

set_option linter.unusedTactic false
set_option linter.unreachableTactic false
set_option linter.unusedSimpArgs false
set_option linter.unusedVariables false

namespace Sys2Proof.Machine

variable {μ : Part → Prop} {σ : State}

theorem Keeps.bootErr (s : State) (code : ℕ) (fields : List Byte) (hs : Keeps μ σ s) (m_boot : μ .boot) :
    Keeps μ σ (State.bootErr s code fields) := by
  unfold State.bootErr
  repeat' first
    | with_reducible assumption
    | intro _
    | with_reducible apply Keeps.ite
    | ((fail_if_no_progress extract_lets +onlyGivenNames x); first | (refine Keeps.bind x ?_ ?_; (try subst x); rotate_left; intro hx; rotate_left) | skip)
    | with_reducible apply Keeps.setBoot

theorem Keeps.bootErrFree (s : State) (fields : List Byte) (hs : Keeps μ σ s) (m_free : μ .free) (m_boot : μ .boot) :
    Keeps μ σ (State.bootErrFree s fields) := by
  unfold State.bootErrFree
  repeat' first
    | with_reducible assumption
    | intro _
    | with_reducible apply Keeps.ite
    | with_reducible apply Keeps.bootErr
    | with_reducible apply Keeps.fresh

theorem Keeps.bootErrFlush (s : State) (hs : Keeps μ σ s) (m_space : μ .space) (m_ten : μ .ten) (m_boot : μ .boot) :
    Keeps μ σ (State.bootErrFlush s) := by
  unfold State.bootErrFlush
  repeat' first
    | with_reducible assumption
    | intro _
    | with_reducible apply Keeps.ite
    | ((fail_if_no_progress extract_lets +onlyGivenNames x); first | (refine Keeps.bind x ?_ ?_; (try subst x); rotate_left; intro hx; rotate_left) | skip)
    | with_reducible apply Keeps.each
    | with_reducible apply Keeps.postErr
    | with_reducible apply Keeps.setBoot

theorem Keeps.serviceMode (s : State) (cause : ℕ) (hs : Keeps μ σ s) (m_space : μ .space) (m_boot : μ .boot) :
    Keeps μ σ (State.serviceMode s cause) := by
  unfold State.serviceMode
  repeat' first
    | with_reducible assumption
    | intro _
    | with_reducible apply Keeps.ite
    | ((fail_if_no_progress extract_lets +onlyGivenNames x); first | (refine Keeps.bind x ?_ ?_; (try subst x); rotate_left; intro hx; rotate_left) | skip)
    | with_reducible apply Keeps.each
    | with_reducible apply Keeps.put
    | with_reducible apply Keeps.setBoot

theorem Keeps.strapSample (s : State) (live : Word) (hs : Keeps μ σ s) (m_space : μ .space) :
    Keeps μ σ (State.strapSample s live) := by
  unfold State.strapSample
  repeat' first
    | with_reducible assumption
    | intro _
    | with_reducible apply Keeps.ite
    | ((fail_if_no_progress extract_lets +onlyGivenNames x); first | (refine Keeps.bind x ?_ ?_; (try subst x); rotate_left; intro hx; rotate_left) | skip)
    | with_reducible apply Keeps.put

theorem Keeps.strapCompare (s : State) (live : Word) (hs : Keeps μ σ s) (m_space : μ .space) (m_boot : μ .boot) :
    Keeps μ σ (State.strapCompare s live) := by
  unfold State.strapCompare
  repeat' first
    | with_reducible assumption
    | intro _
    | with_reducible apply Keeps.ite
    | with_reducible apply Keeps.bootErr
    | with_reducible apply Keeps.put

theorem Keeps.bootStart (s : State) (live : BitVec 16) (hs : Keeps μ σ s) (m_space : μ .space) (m_campusOff : μ .campusOff) (m_bootAt : μ .bootAt) (m_boot : μ .boot) (m_clk : μ .clk) :
    Keeps μ σ (State.bootStart s live) := by
  unfold State.bootStart
  repeat' first
    | with_reducible assumption
    | intro _
    | with_reducible apply Keeps.ite
    | ((fail_if_no_progress extract_lets +onlyGivenNames x); first | (refine Keeps.bind x ?_ ?_; (try subst x); rotate_left; intro hx; rotate_left) | skip)
    | with_reducible apply Keeps.put
    | with_reducible apply Keeps.setBoot
    | with_reducible apply Keeps.setClk
    | with_reducible apply Keeps.setWord
    | with_reducible apply Keeps.strapCompare
    | with_reducible apply Keeps.strapSample
    | simp only [Keeps.upd_campusOff_bootAt m_campusOff m_bootAt]

theorem Keeps.of_execBootStart (live : BitVec 16) (s : State) (hs : Keeps μ σ s) (m_space : μ .space) (m_campusOff : μ .campusOff) (m_bootAt : μ .bootAt) (m_boot : μ .boot) (m_clk : μ .clk) :
    KeepsO μ σ (execBootStart live s) := by
  unfold execBootStart
  repeat' first
    | with_reducible assumption
    | intro _
    | with_reducible apply KeepsO.next
    | with_reducible apply Keeps.ite
    | with_reducible apply Keeps.bootStart

theorem Keeps.bootOtp (s : State) (otp : List Byte) (hs : Keeps μ σ s) (m_space : μ .space) (m_boot : μ .boot) :
    Keeps μ σ (State.bootOtp s otp) := by
  unfold State.bootOtp
  repeat' first
    | with_reducible assumption
    | intro _
    | with_reducible apply Keeps.ite
    | ((fail_if_no_progress extract_lets +onlyGivenNames x); first | (refine Keeps.bind x ?_ ?_; (try subst x); rotate_left; intro hx; rotate_left) | skip)
    | with_reducible apply Keeps.each
    | with_reducible apply Keeps.put
    | with_reducible apply Keeps.serviceMode
    | with_reducible apply Keeps.setBoot
    | with_reducible apply Keeps.setWord

theorem Keeps.of_execBootOtpLoaded (otp : List Byte) (s : State) (hs : Keeps μ σ s) (m_space : μ .space) (m_boot : μ .boot) :
    KeepsO μ σ (execBootOtpLoaded otp s) := by
  unfold execBootOtpLoaded
  repeat' first
    | with_reducible assumption
    | intro _
    | with_reducible apply KeepsO.next
    | with_reducible apply Keeps.ite
    | with_reducible apply Keeps.bootOtp

theorem Keeps.putCause (s : State) (slot : ℕ) (c : ℕ) (hs : Keeps μ σ s) (m_space : μ .space) :
    Keeps μ σ (State.putCause s slot c) := by
  unfold State.putCause
  repeat' first
    | with_reducible assumption
    | intro _
    | with_reducible apply Keeps.ite
    | with_reducible apply Keeps.put

theorem Keeps.bootChoose (s : State) (hs : Keeps μ σ s) (m_space : μ .space) (m_boot : μ .boot) :
    Keeps μ σ (State.bootChoose s) := by
  unfold State.bootChoose
  repeat' first
    | with_reducible assumption
    | intro _
    | with_reducible apply Keeps.ite
    | ((fail_if_no_progress extract_lets +onlyGivenNames x); first | (refine Keeps.bind x ?_ ?_; (try subst x); rotate_left; intro hx; rotate_left) | skip)
    | with_reducible apply Keeps.putCause
    | with_reducible apply Keeps.putIf
    | with_reducible apply Keeps.serviceMode
    | with_reducible apply Keeps.setBoot
    | with_reducible apply Keeps.showRec
    | with_reducible apply Keeps.writeRec
    | split
    | simp only [id_eq]

theorem Keeps.bootProbe (s : State) (f : Sfdp) (content : Option (List (ℕ × List Byte))) (hs : Keeps μ σ s) (m_space : μ .space) (m_boot : μ .boot) :
    Keeps μ σ (State.bootProbe s f content) := by
  unfold State.bootProbe
  repeat' first
    | with_reducible assumption
    | intro _
    | with_reducible apply Keeps.ite
    | ((fail_if_no_progress extract_lets +onlyGivenNames x); first | (refine Keeps.bind x ?_ ?_; (try subst x); rotate_left; intro hx; rotate_left) | skip)
    | with_reducible apply Keeps.bootChoose
    | with_reducible apply Keeps.each
    | with_reducible apply Keeps.put
    | with_reducible apply Keeps.serviceMode
    | with_reducible apply Keeps.setBoot
    | with_reducible apply Keeps.setFlashPage
    | split

theorem Keeps.of_execBootFlashProbed (valid : Bool) (quad444 : Bool) (quad114 : Bool) (erase64k : Bool) (mib : ℕ) (content : Option (List (ℕ × List Byte))) (s : State) (hs : Keeps μ σ s) (m_space : μ .space) (m_boot : μ .boot) :
    KeepsO μ σ (execBootFlashProbed valid quad444 quad114 erase64k mib content s) := by
  unfold execBootFlashProbed
  repeat' first
    | with_reducible assumption
    | intro _
    | with_reducible apply KeepsO.next
    | with_reducible apply Keeps.ite
    | with_reducible apply Keeps.bootProbe

theorem Keeps.tryFailed (s : State) (slot : ℕ) (c : ℕ) (hs : Keeps μ σ s) (m_space : μ .space) (m_boot : μ .boot) :
    Keeps μ σ (State.tryFailed s slot c) := by
  unfold State.tryFailed
  repeat' first
    | with_reducible assumption
    | intro _
    | with_reducible apply Keeps.ite
    | ((fail_if_no_progress extract_lets +onlyGivenNames x); first | (refine Keeps.bind x ?_ ?_; (try subst x); rotate_left; intro hx; rotate_left) | skip)
    | with_reducible apply Keeps.putCause
    | with_reducible apply Keeps.serviceMode
    | with_reducible apply Keeps.setBoot

theorem Keeps.bootRead (s : State) (ok : Bool) (hs : Keeps μ σ s) (m_space : μ .space) (m_boot : μ .boot) :
    Keeps μ σ (State.bootRead s ok) := by
  unfold State.bootRead
  repeat' first
    | with_reducible assumption
    | intro _
    | with_reducible apply Keeps.ite
    | ((fail_if_no_progress extract_lets +onlyGivenNames x); first | (refine Keeps.bind x ?_ ?_; (try subst x); rotate_left; intro hx; rotate_left) | skip)
    | with_reducible apply Keeps.setBoot
    | with_reducible apply Keeps.tryFailed

theorem Keeps.of_execBootImageReadComplete (ok : Bool) (s : State) (hs : Keeps μ σ s) (m_space : μ .space) (m_boot : μ .boot) :
    KeepsO μ σ (execBootImageReadComplete ok s) := by
  unfold execBootImageReadComplete
  repeat' first
    | with_reducible assumption
    | intro _
    | with_reducible apply KeepsO.next
    | with_reducible apply Keeps.ite
    | with_reducible apply Keeps.bootRead

theorem Keeps.bootFallback (s : State) (o : ℕ) (hs : Keeps μ σ s) (m_space : μ .space) (m_boot : μ .boot) :
    Keeps μ σ (State.bootFallback s o) := by
  unfold State.bootFallback
  repeat' first
    | with_reducible assumption
    | intro _
    | with_reducible apply Keeps.ite
    | ((fail_if_no_progress extract_lets +onlyGivenNames x); first | (refine Keeps.bind x ?_ ?_; (try subst x); rotate_left; intro hx; rotate_left) | skip)
    | with_reducible apply Keeps.bootErr
    | with_reducible apply Keeps.put
    | with_reducible apply Keeps.writeRec

theorem Keeps.bootVerified (s : State) (hs : Keeps μ σ s) (m_space : μ .space) (m_boot : μ .boot) :
    Keeps μ σ (State.bootVerified s) := by
  unfold State.bootVerified
  repeat' first
    | with_reducible assumption
    | intro _
    | with_reducible apply Keeps.ite
    | ((fail_if_no_progress extract_lets +onlyGivenNames x); first | (refine Keeps.bind x ?_ ?_; (try subst x); rotate_left; intro hx; rotate_left) | skip)
    | with_reducible apply Keeps.bootFallback
    | with_reducible apply Keeps.each
    | with_reducible apply Keeps.put
    | with_reducible apply Keeps.putCause
    | with_reducible apply Keeps.setBoot
    | with_reducible apply Keeps.setWord
    | with_reducible apply Keeps.tryFailed

theorem Keeps.of_execBootSignatureVerified (s : State) (hs : Keeps μ σ s) (m_space : μ .space) (m_boot : μ .boot) :
    KeepsO μ σ (execBootSignatureVerified s) := by
  unfold execBootSignatureVerified
  repeat' first
    | with_reducible assumption
    | intro _
    | with_reducible apply KeepsO.next
    | with_reducible apply Keeps.ite
    | with_reducible apply Keeps.bootVerified

theorem Keeps.bootPre (s : State) (e : ℕ × Word) (hs : Keeps μ σ s) (m_space : μ .space) :
    Keeps μ σ (State.bootPre s e) := by
  unfold State.bootPre
  repeat' first
    | with_reducible assumption
    | intro _
    | with_reducible apply Keeps.ite
    | ((fail_if_no_progress extract_lets +onlyGivenNames x); first | (refine Keeps.bind x ?_ ?_; (try subst x); rotate_left; intro hx; rotate_left) | skip)
    | with_reducible apply Keeps.setWord
    | split

theorem Keeps.bootPoint (s : State) (a : ℕ) (v : Word) (hs : Keeps μ σ s) (m_space : μ .space) (m_broken : μ .broken) (m_fwd : μ .fwd) (m_subIn : μ .subIn) (m_cl : μ .cl) :
    Keeps μ σ (State.bootPoint s a v).1 := by
  unfold State.bootPoint
  repeat' first
    | with_reducible assumption
    | intro _
    | with_reducible apply Keeps.ite
    | ((fail_if_no_progress extract_lets +onlyGivenNames x); first | (refine Keeps.bind x ?_ ?_; (try subst x); rotate_left; intro hx; rotate_left) | skip)
    | with_reducible apply Keeps.ptBindAfter
    | with_reducible apply Keeps.setWord
    | split

theorem Keeps.bootWord (pre : State) (e : ℕ × Word) (s : State) (hs : Keeps μ σ s) (m_space : μ .space) (m_campusOff : μ .campusOff) (m_free : μ .free) (m_wres : μ .wres) (m_banks : μ .banks) (m_log : μ .log) (m_ten : μ .ten) (m_ic : μ .ic) (m_broken : μ .broken) (m_safe : μ .safe) (m_cmds : μ .cmds) (m_cd : μ .cd) (m_cdg : μ .cdg) (m_fwd : μ .fwd) (m_sk : μ .sk) (m_sk0mem : μ .sk0mem) (m_subIn : μ .subIn) (m_subOut : μ .subOut) (m_cl : μ .cl) (m_isl : μ .isl) (m_adc : μ .adc) (m_fan : μ .fan) (m_fio : μ .fio) (m_zb : μ .zb) (m_pnl : μ .pnl) (m_hb : μ .hb) (m_boot : μ .boot) (m_clk : μ .clk) (m_ucal : μ .ucal) (m_le : μ .le) :
    Keeps μ σ (State.bootWord pre e s).1 := by
  unfold State.bootWord
  repeat' first
    | with_reducible assumption
    | intro _
    | with_reducible apply Keeps.ite
    | with_reducible apply Keeps.foldl
    | ((fail_if_no_progress extract_lets +onlyGivenNames x); first | (refine Keeps.bind x ?_ ?_; (try subst x); rotate_left; intro hx; rotate_left) | skip)
    | with_reducible apply Keeps.bootPoint
    | with_reducible apply Keeps.busWrite
    | with_reducible apply Keeps.icEn
    | with_reducible apply Keeps.setPnl
    | with_reducible apply Keeps.setWord
    | with_reducible apply Keeps.of_fst (by assumption)
    | with_reducible apply Keeps.of_snd (by assumption)
    | split
    | simp only [id_eq]

theorem Keeps.bootLoop (s : State) (n : ℕ) (loaded : List ℕ) (out : List ℕ) (hs : Keeps μ σ s) (m_space : μ .space) :
    Keeps μ σ (State.bootLoop s n loaded out).1 := by
  unfold State.bootLoop
  repeat' first
    | with_reducible assumption
    | intro _
    | with_reducible apply Keeps.ite
    | ((fail_if_no_progress extract_lets +onlyGivenNames x); first | (refine Keeps.bind x ?_ ?_; (try subst x); rotate_left; intro hx; rotate_left) | skip)
    | with_reducible apply Keeps.each
    | with_reducible apply Keeps.put
    | with_reducible apply Keeps.setWord
    | split
    | simp only [id_eq]

theorem Keeps.bootSecErr (s : State) (bad : List ℕ) (hs : Keeps μ σ s) (m_free : μ .free) (m_boot : μ .boot) :
    Keeps μ σ (State.bootSecErr s bad) := by
  unfold State.bootSecErr
  repeat' first
    | with_reducible assumption
    | intro _
    | with_reducible apply Keeps.ite
    | with_reducible apply Keeps.bootErrFree
    | split

theorem Keeps.bootRegs (s : State) (l : List (ℕ × Word)) (hs : Keeps μ σ s) (m_space : μ .space) (m_campusOff : μ .campusOff) (m_free : μ .free) (m_wres : μ .wres) (m_banks : μ .banks) (m_log : μ .log) (m_ten : μ .ten) (m_ic : μ .ic) (m_broken : μ .broken) (m_safe : μ .safe) (m_cmds : μ .cmds) (m_cd : μ .cd) (m_cdg : μ .cdg) (m_fwd : μ .fwd) (m_sk : μ .sk) (m_sk0mem : μ .sk0mem) (m_subIn : μ .subIn) (m_subOut : μ .subOut) (m_cl : μ .cl) (m_isl : μ .isl) (m_adc : μ .adc) (m_fan : μ .fan) (m_fio : μ .fio) (m_zb : μ .zb) (m_pnl : μ .pnl) (m_hb : μ .hb) (m_boot : μ .boot) (m_clk : μ .clk) (m_ucal : μ .ucal) (m_le : μ .le) :
    Keeps μ σ (State.bootRegs s l) := by
  unfold State.bootRegs
  extract_lets pre s1 isLoop r1 recs outs loops r2 s2 bad nones s3
  have h1 : Keeps μ σ s1 := Keeps.foldl _ _ _ hs (fun s e h => by with_reducible apply Keeps.bootPre <;> assumption)
  have h2 : Keeps μ σ r1.1 := Keeps.foldl_fst _ _ _ h1 (fun r e h => by
    show Keeps μ σ (State.bootWord pre e.1 r.1).1
    with_reducible apply Keeps.bootWord <;> assumption)
  have h3 : Keeps μ σ r2.1 := Keeps.foldl_fst _ _ _ h2 (fun r n h => Keeps.bootLoop _ _ _ _ h m_space)
  have h4 : Keeps μ σ s3 := by
    refine Keeps.each _ _ _ h3 (fun i s h => ?_)
    refine Keeps.forward _ _ _ _ _ ?_ (by assumption)
    with_reducible apply Keeps.ptSet <;> assumption
  with_reducible apply Keeps.bootSecErr <;> assumption

theorem Keeps.bootMem (s : State) (k : ℕ) (a : ℕ) (l : List Byte) (hs : Keeps μ σ s) (m_space : μ .space) (m_sk : μ .sk) (m_sk0mem : μ .sk0mem) :
    Keeps μ σ (State.bootMem s k a l) := by
  unfold State.bootMem
  repeat' first
    | with_reducible assumption
    | intro _
    | with_reducible apply Keeps.ite
    | with_reducible apply Keeps.foldl
    | with_reducible apply Keeps.setSkMem

theorem Keeps.bootMemory (s : State) (l : List Byte) (hs : Keeps μ σ s) (m_space : μ .space) :
    Keeps μ σ (State.bootMemory s l) := by
  unfold State.bootMemory
  repeat' first
    | with_reducible assumption
    | intro _
    | with_reducible apply Keeps.ite
    | with_reducible apply Keeps.foldl
    | with_reducible apply Keeps.each
    | with_reducible apply Keeps.setWord

theorem Keeps.bootTask (s : State) (k : ℕ) (t : ℕ) (l : List Byte) (hs : Keeps μ σ s) (m_space : μ .space) :
    Keeps μ σ (State.bootTask s k t l).1 := by
  unfold State.bootTask
  repeat' first
    | with_reducible assumption
    | intro _
    | with_reducible apply Keeps.ite
    | ((fail_if_no_progress extract_lets +onlyGivenNames x); first | (refine Keeps.bind x ?_ ?_; (try subst x); rotate_left; intro hx; rotate_left) | skip)
    | with_reducible apply Keeps.foldl
    | with_reducible apply Keeps.put
    | with_reducible apply Keeps.setWord
    | split

theorem Keeps.bootRules (s : State) (l : List Byte) (hs : Keeps μ σ s) (m_space : μ .space) (m_free : μ .free) (m_sk : μ .sk) (m_sk0mem : μ .sk0mem) (m_boot : μ .boot) :
    Keeps μ σ (State.bootRules s l) := by
  unfold State.bootRules
  extract_lets parts r
  have h1 : Keeps μ σ r.1 := Keeps.foldl_fst _ _ _ hs (fun r e h => by
    have h2 : Keeps μ σ ((r.1.bootMem e.2 0 e.1.1).bootMem e.2 0x10000 e.1.2.1) := by
      with_reducible apply Keeps.bootMem
      · with_reducible apply Keeps.bootMem <;> assumption
      all_goals assumption
    dsimp only
    split
    · exact h2
    · refine Keeps.foldl_fst _ _ _ h2 (fun r t h => ?_)
      exact Keeps.bootTask _ _ _ _ h m_space)
  with_reducible apply Keeps.bootSecErr <;> assumption

theorem Keeps.bootKeys (s : State) (l : List Byte) (hs : Keeps μ σ s) (m_cl : μ .cl) :
    Keeps μ σ (State.bootKeys s l) := by
  unfold State.bootKeys
  repeat' first
    | with_reducible assumption
    | intro _
    | with_reducible apply Keeps.ite
    | ((fail_if_no_progress extract_lets +onlyGivenNames x); first | (refine Keeps.bind x ?_ ?_; (try subst x); rotate_left; intro hx; rotate_left) | skip)
    | simp only [Keeps.upd_cl m_cl]

theorem Keeps.bootSafe (s : State) (l : List Byte) (hs : Keeps μ σ s) (m_space : μ .space) (m_safe : μ .safe) (m_safeLoaded : μ .safeLoaded) (m_boot : μ .boot) :
    Keeps μ σ (State.bootSafe s l) := by
  unfold State.bootSafe
  extract_lets +onlyGivenNames r
  extract_lets +onlyGivenNames s1
  have h1 : Keeps μ σ r.1 := Keeps.foldl_fst _ _ _ hs (fun r o h =>
    Keeps.putIf _ _ _ _ _ _ (Keeps.setSafe _ _ _ _ h m_safe) m_space)
  have h2 : Keeps μ σ s1 := h1
  split
  · exact Keeps.bootErr _ _ _ ((Keeps.upd_safeLoaded m_safeLoaded).2 h2) m_boot
  · exact (Keeps.upd_safeLoaded m_safeLoaded).2 h2

theorem Keeps.bootSection (s : State) (i : ℕ) (l : List Byte) (hs : Keeps μ σ s) (m_space : μ .space) (m_campusOff : μ .campusOff) (m_free : μ .free) (m_wres : μ .wres) (m_banks : μ .banks) (m_log : μ .log) (m_ten : μ .ten) (m_ic : μ .ic) (m_broken : μ .broken) (m_safe : μ .safe) (m_safeLoaded : μ .safeLoaded) (m_cmds : μ .cmds) (m_cd : μ .cd) (m_cdg : μ .cdg) (m_fwd : μ .fwd) (m_sk : μ .sk) (m_sk0mem : μ .sk0mem) (m_subIn : μ .subIn) (m_subOut : μ .subOut) (m_cl : μ .cl) (m_isl : μ .isl) (m_adc : μ .adc) (m_fan : μ .fan) (m_fio : μ .fio) (m_zb : μ .zb) (m_pnl : μ .pnl) (m_hb : μ .hb) (m_boot : μ .boot) (m_clk : μ .clk) (m_ucal : μ .ucal) (m_le : μ .le) :
    Keeps μ σ (State.bootSection s i l) := by
  unfold State.bootSection
  repeat' first
    | with_reducible assumption
    | intro _
    | with_reducible apply Keeps.ite
    | with_reducible apply Keeps.bootKeys
    | with_reducible apply Keeps.bootMemory
    | with_reducible apply Keeps.bootRegs
    | with_reducible apply Keeps.bootRules
    | with_reducible apply Keeps.bootSafe

theorem Keeps.unusePoint (s : State) (i : ℕ) (hs : Keeps μ σ s) (m_space : μ .space) (m_broken : μ .broken) (m_fwd : μ .fwd) (m_subIn : μ .subIn) (m_cl : μ .cl) :
    Keeps μ σ (State.unusePoint s i) := by
  unfold State.unusePoint
  repeat' first
    | with_reducible assumption
    | intro _
    | with_reducible apply Keeps.ite
    | ((fail_if_no_progress extract_lets +onlyGivenNames x); first | (refine Keeps.bind x ?_ ?_; (try subst x); rotate_left; intro hx; rotate_left) | skip)
    | with_reducible apply Keeps.ptBindAfter
    | with_reducible apply Keeps.setWord

theorem Keeps.crossCheck (s : State) (bad : List ℕ) (addr : ℕ → ℕ) (f : ℕ → State → State) (hs : Keeps μ σ s) (hf : ∀ a0 a1, Keeps μ σ a1 → Keeps μ σ (f a0 a1)) (m_free : μ .free) (m_boot : μ .boot) :
    Keeps μ σ (State.crossCheck s bad addr f) := by
  unfold State.crossCheck
  repeat' first
    | with_reducible assumption
    | intro _
    | with_reducible apply Keeps.ite
    | with_reducible apply hf
    | with_reducible apply Keeps.bootErrFree
    | with_reducible apply Keeps.each
    | split

theorem Keeps.crossChecks (s : State) (hs : Keeps μ σ s) (m_space : μ .space) (m_free : μ .free) (m_broken : μ .broken) (m_fwd : μ .fwd) (m_subIn : μ .subIn) (m_cl : μ .cl) (m_boot : μ .boot) :
    Keeps μ σ (State.crossChecks s) := by
  unfold State.crossChecks
  repeat' first
    | with_reducible assumption
    | intro _
    | with_reducible apply Keeps.ite
    | ((fail_if_no_progress extract_lets +onlyGivenNames x); first | (refine Keeps.bind x ?_ ?_; (try subst x); rotate_left; intro hx; rotate_left) | skip)
    | with_reducible apply Keeps.crossCheck
    | with_reducible apply Keeps.put
    | with_reducible apply Keeps.unusePoint

theorem Keeps.bootRecords (s : State) (hs : Keeps μ σ s) (m_space : μ .space) (m_log : μ .log) (m_ten : μ .ten) (m_cl : μ .cl) :
    Keeps μ σ (State.bootRecords s) := by
  unfold State.bootRecords
  repeat' first
    | with_reducible assumption
    | intro _
    | with_reducible apply Keeps.ite
    | ((fail_if_no_progress extract_lets +onlyGivenNames x); first | (refine Keeps.bind x ?_ ?_; (try subst x); rotate_left; intro hx; rotate_left) | skip)
    | with_reducible apply Keeps.epochAdvance
    | with_reducible apply Keeps.logBoot
    | with_reducible apply Keeps.put
    | simp only [Keeps.upd_cl m_cl]
    | split
    | simp only [id_eq]

theorem Keeps.bootApply (s : State) (hs : Keeps μ σ s) (m_space : μ .space) (m_campusOff : μ .campusOff) (m_free : μ .free) (m_wres : μ .wres) (m_banks : μ .banks) (m_log : μ .log) (m_ten : μ .ten) (m_ic : μ .ic) (m_broken : μ .broken) (m_safe : μ .safe) (m_safeLoaded : μ .safeLoaded) (m_cmds : μ .cmds) (m_cd : μ .cd) (m_cdg : μ .cdg) (m_fwd : μ .fwd) (m_sk : μ .sk) (m_sk0mem : μ .sk0mem) (m_subIn : μ .subIn) (m_subOut : μ .subOut) (m_cl : μ .cl) (m_isl : μ .isl) (m_adc : μ .adc) (m_fan : μ .fan) (m_fio : μ .fio) (m_zb : μ .zb) (m_pnl : μ .pnl) (m_hb : μ .hb) (m_boot : μ .boot) (m_clk : μ .clk) (m_ucal : μ .ucal) (m_le : μ .le) :
    Keeps μ σ (State.bootApply s) := by
  unfold State.bootApply
  repeat' first
    | with_reducible assumption
    | intro _
    | with_reducible apply Keeps.ite
    | ((fail_if_no_progress extract_lets +onlyGivenNames x); first | (refine Keeps.bind x ?_ ?_; (try subst x); rotate_left; intro hx; rotate_left) | skip)
    | with_reducible apply Keeps.bootErrFlush
    | with_reducible apply Keeps.bootRecords
    | with_reducible apply Keeps.bootSection
    | with_reducible apply Keeps.clPortsBoot
    | with_reducible apply Keeps.crossChecks
    | with_reducible apply Keeps.each
    | with_reducible apply Keeps.icLoad
    | with_reducible apply Keeps.setBoot
    | split
    | simp only [id_eq]

theorem Keeps.of_execBootSectionsApplied (s : State) (hs : Keeps μ σ s) (m_space : μ .space) (m_campusOff : μ .campusOff) (m_free : μ .free) (m_wres : μ .wres) (m_banks : μ .banks) (m_log : μ .log) (m_ten : μ .ten) (m_ic : μ .ic) (m_broken : μ .broken) (m_safe : μ .safe) (m_safeLoaded : μ .safeLoaded) (m_cmds : μ .cmds) (m_cd : μ .cd) (m_cdg : μ .cdg) (m_fwd : μ .fwd) (m_sk : μ .sk) (m_sk0mem : μ .sk0mem) (m_subIn : μ .subIn) (m_subOut : μ .subOut) (m_cl : μ .cl) (m_isl : μ .isl) (m_adc : μ .adc) (m_fan : μ .fan) (m_fio : μ .fio) (m_zb : μ .zb) (m_pnl : μ .pnl) (m_hb : μ .hb) (m_boot : μ .boot) (m_clk : μ .clk) (m_ucal : μ .ucal) (m_le : μ .le) :
    KeepsO μ σ (execBootSectionsApplied s) := by
  unfold execBootSectionsApplied
  repeat' first
    | with_reducible assumption
    | intro _
    | with_reducible apply KeepsO.next
    | with_reducible apply Keeps.ite
    | with_reducible apply Keeps.bootApply

theorem Keeps.linkReports (s : State) (hs : Keeps μ σ s) (m_space : μ .space) (m_free : μ .free) (m_log : μ .log) (m_ten : μ .ten) (m_ic : μ .ic) (m_safeUnrec : μ .safeUnrec) (m_safeIrq : μ .safeIrq) (m_cdg : μ .cdg) (m_fan : μ .fan) (m_clk : μ .clk) (m_pdErrs : μ .pdErrs) :
    Keeps μ σ (State.linkReports s) := by
  unfold State.linkReports
  repeat' first
    | with_reducible assumption
    | intro _
    | with_reducible apply Keeps.ite
    | ((fail_if_no_progress extract_lets +onlyGivenNames x); first | (refine Keeps.bind x ?_ ?_; (try subst x); rotate_left; intro hx; rotate_left) | skip)
    | with_reducible apply Keeps.cdFlushErrs
    | with_reducible apply Keeps.each
    | with_reducible apply Keeps.icPulse
    | with_reducible apply Keeps.postErr2
    | with_reducible apply Keeps.safeRecord
    | with_reducible apply Keeps.setClk
    | simp only [Keeps.upd_safeIrq m_safeIrq, Keeps.upd_fan m_fan, Keeps.upd_pdErrs m_pdErrs]

theorem Keeps.bootEnd (s : State) (hs : Keeps μ σ s) (m_space : μ .space) (m_free : μ .free) (m_log : μ .log) (m_ten : μ .ten) (m_ic : μ .ic) (m_safeUnrec : μ .safeUnrec) (m_safeIrq : μ .safeIrq) (m_cdg : μ .cdg) (m_sk : μ .sk) (m_subIn : μ .subIn) (m_subOut : μ .subOut) (m_cl : μ .cl) (m_isl : μ .isl) (m_fan : μ .fan) (m_hb : μ .hb) (m_boot : μ .boot) (m_clk : μ .clk) (m_pdErrs : μ .pdErrs) :
    Keeps μ σ (State.bootEnd s) := by
  unfold State.bootEnd
  repeat' first
    | with_reducible assumption
    | intro _
    | with_reducible apply Keeps.ite
    | ((fail_if_no_progress extract_lets +onlyGivenNames x); first | (refine Keeps.bind x ?_ ?_; (try subst x); rotate_left; intro hx; rotate_left) | skip)
    | with_reducible apply Keeps.bootErrFlush
    | with_reducible apply Keeps.bootRecords
    | with_reducible apply Keeps.clPortsBoot
    | with_reducible apply Keeps.each
    | with_reducible apply Keeps.icPulse
    | with_reducible apply Keeps.islUpdate
    | with_reducible apply Keeps.linkReports
    | with_reducible apply Keeps.put
    | with_reducible apply Keeps.setBoot
    | with_reducible apply Keeps.setClk
    | with_reducible apply Keeps.setCore
    | with_reducible apply Keeps.skStopUpd
    | with_reducible apply Keeps.wdStart
    | with_reducible apply Keeps.zbRunModes
    | simp only [Keeps.upd_isl m_isl]
    | split
    | simp only [id_eq]

theorem Keeps.of_execBootEnd (s : State) (hs : Keeps μ σ s) (m_space : μ .space) (m_free : μ .free) (m_log : μ .log) (m_ten : μ .ten) (m_ic : μ .ic) (m_safeUnrec : μ .safeUnrec) (m_safeIrq : μ .safeIrq) (m_cdg : μ .cdg) (m_sk : μ .sk) (m_subIn : μ .subIn) (m_subOut : μ .subOut) (m_cl : μ .cl) (m_isl : μ .isl) (m_fan : μ .fan) (m_hb : μ .hb) (m_boot : μ .boot) (m_clk : μ .clk) (m_pdErrs : μ .pdErrs) :
    KeepsO μ σ (execBootEnd s) := by
  unfold execBootEnd
  repeat' first
    | with_reducible assumption
    | intro _
    | with_reducible apply KeepsO.next
    | with_reducible apply Keeps.ite
    | ((fail_if_no_progress extract_lets +onlyGivenNames x); first | (refine Keeps.bind x ?_ ?_; (try subst x); rotate_left; intro hx; rotate_left) | (refine KeepsO.bind x ?_ ?_; (try subst x); rotate_left; intro hx; rotate_left) | skip)
    | with_reducible apply Keeps.bootEnd
    | split
    | simp only [id_eq]

end Sys2Proof.Machine
end

