-- ==== Sys2Proof/Laws/KeepsHostIf.lean ====
section
/-! SUPPORT. What each operation of Machine/HostIf.lean keeps: the queue, the clock's direction, the canonical form of the register
space, and every part of the state it does not name (`Keeps`). -/

set_option linter.unusedTactic false
set_option linter.unreachableTactic false
set_option linter.unusedSimpArgs false
set_option linter.unusedVariables false

namespace Sys2Proof.Machine

variable {μ : Part → Prop} {σ : State}

theorem Keeps.shadowPut (s : State) (lane : ℕ) (base : ℕ) (n : ℕ) (hs : Keeps μ σ s) (m_space : μ .space) (m_free : μ .free) (m_ten : μ .ten) (m_broken : μ .broken) (m_fwd : μ .fwd) (m_hb : μ .hb) :
    Keeps μ σ (State.shadowPut s lane base n) := by
  unfold State.shadowPut
  repeat' first
    | with_reducible assumption
    | intro _
    | with_reducible apply Keeps.ite
    | ((fail_if_no_progress extract_lets +onlyGivenNames x); first | (refine Keeps.bind x ?_ ?_; (try subst x); rotate_left; intro hx; rotate_left) | skip)
    | with_reducible apply Keeps.ptFind
    | with_reducible apply Keeps.setHb
    | split
    | simp only [id_eq]

theorem Keeps.shadowCopy (s : State) (a : ℕ) (hs : Keeps μ σ s) (m_space : μ .space) (m_free : μ .free) (m_ten : μ .ten) (m_broken : μ .broken) (m_fwd : μ .fwd) (m_hb : μ .hb) :
    Keeps μ σ (State.shadowCopy s a) := by
  unfold State.shadowCopy
  repeat' first
    | with_reducible assumption
    | intro _
    | with_reducible apply Keeps.ite
    | ((fail_if_no_progress extract_lets +onlyGivenNames x); first | (refine Keeps.bind x ?_ ?_; (try subst x); rotate_left; intro hx; rotate_left) | skip)
    | with_reducible apply Keeps.each
    | with_reducible apply Keeps.shadowPut
    | split
    | simp only [id_eq]

theorem Keeps.freezeShadow (s : State) (hs : Keeps μ σ s) (m_hb : μ .hb) :
    Keeps μ σ (State.freezeShadow s) := by
  unfold State.freezeShadow
  repeat' first
    | with_reducible assumption
    | intro _
    | with_reducible apply Keeps.ite
    | ((fail_if_no_progress extract_lets +onlyGivenNames x); first | (refine Keeps.bind x ?_ ?_; (try subst x); rotate_left; intro hx; rotate_left) | skip)
    | with_reducible apply Keeps.setHb
    | split
    | simp only [id_eq]

theorem Keeps.shadowGet_fresh (lane : ℕ) (base : ℕ) (n : ℕ) (s : State) (hs : Keeps μ σ s) (m_space : μ .space) (m_free : μ .free) (m_ten : μ .ten) (m_broken : μ .broken) (m_fwd : μ .fwd) (m_hb : μ .hb) :
    Keeps μ σ (State.shadowGet.fresh lane base n s).2 := by
  unfold State.shadowGet.fresh
  repeat' first
    | with_reducible assumption
    | intro _
    | with_reducible apply Keeps.ite
    | ((fail_if_no_progress extract_lets +onlyGivenNames x); first | (refine Keeps.bind x ?_ ?_; (try subst x); rotate_left; intro hx; rotate_left) | skip)
    | with_reducible apply Keeps.shadowPut
    | split
    | simp only [id_eq]

theorem Keeps.shadowGet (s : State) (lane : ℕ) (base : ℕ) (n : ℕ) (hs : Keeps μ σ s) (m_space : μ .space) (m_free : μ .free) (m_ten : μ .ten) (m_broken : μ .broken) (m_fwd : μ .fwd) (m_hb : μ .hb) :
    Keeps μ σ (State.shadowGet s lane base n).2 := by
  unfold State.shadowGet
  repeat' first
    | with_reducible assumption
    | intro _
    | with_reducible apply Keeps.ite
    | ((fail_if_no_progress extract_lets +onlyGivenNames x); first | (refine Keeps.bind x ?_ ?_; (try subst x); rotate_left; intro hx; rotate_left) | skip)
    | with_reducible apply Keeps.fresh
    | with_reducible apply Keeps.shadowGet_fresh
    | with_reducible apply Keeps.of_fst (by assumption)
    | with_reducible apply Keeps.of_snd (by assumption)
    | split
    | simp only [id_eq]

theorem Keeps.of_execShadowUnitCopy (a : Fin (2 ^ 24)) (s : State) (hs : Keeps μ σ s) (m_space : μ .space) (m_free : μ .free) (m_ten : μ .ten) (m_broken : μ .broken) (m_fwd : μ .fwd) (m_hb : μ .hb) :
    KeepsO μ σ (execShadowUnitCopy a s) := by
  unfold execShadowUnitCopy
  repeat' first
    | with_reducible assumption
    | intro _
    | with_reducible apply KeepsO.next
    | with_reducible apply Keeps.ite
    | ((fail_if_no_progress extract_lets +onlyGivenNames x); first | (refine Keeps.bind x ?_ ?_; (try subst x); rotate_left; intro hx; rotate_left) | (refine KeepsO.bind x ?_ ?_; (try subst x); rotate_left; intro hx; rotate_left) | skip)
    | with_reducible apply Keeps.shadowCopy
    | split
    | simp only [id_eq]

theorem Keeps.hbPost (s : State) (p : Posted) (hs : Keeps μ σ s) (m_space : μ .space) (m_free : μ .free) (m_ten : μ .ten) (m_ic : μ .ic) (m_hb : μ .hb) :
    Keeps μ σ (State.hbPost s p) := by
  unfold State.hbPost
  repeat' first
    | with_reducible assumption
    | intro _
    | with_reducible apply Keeps.ite
    | ((fail_if_no_progress extract_lets +onlyGivenNames x); first | (refine Keeps.bind x ?_ ?_; (try subst x); rotate_left; intro hx; rotate_left) | skip)
    | with_reducible apply Keeps.icPulse
    | with_reducible apply Keeps.inc
    | with_reducible apply Keeps.put
    | with_reducible apply Keeps.setHb

theorem Keeps.postWrite (s : State) (spi : Bool) (lane : ℕ) (a : ℕ) (data : Word) (bytes : ℕ) (hs : Keeps μ σ s) (m_space : μ .space) (m_free : μ .free) (m_ten : μ .ten) (m_ic : μ .ic) (m_hb : μ .hb) :
    Keeps μ σ (State.postWrite s spi lane a data bytes) := by
  unfold State.postWrite
  repeat' first
    | with_reducible assumption
    | intro _
    | with_reducible apply Keeps.ite
    | ((fail_if_no_progress extract_lets +onlyGivenNames x); first | (refine Keeps.bind x ?_ ?_; (try subst x); rotate_left; intro hx; rotate_left) | skip)
    | with_reducible apply Keeps.hbPost

theorem Keeps.postedApply (s : State) (hs : Keeps μ σ s) (m_space : μ .space) (m_campusOff : μ .campusOff) (m_free : μ .free) (m_wres : μ .wres) (m_banks : μ .banks) (m_log : μ .log) (m_ten : μ .ten) (m_ic : μ .ic) (m_broken : μ .broken) (m_safe : μ .safe) (m_cmds : μ .cmds) (m_cd : μ .cd) (m_cdg : μ .cdg) (m_fwd : μ .fwd) (m_sk : μ .sk) (m_sk0mem : μ .sk0mem) (m_subIn : μ .subIn) (m_subOut : μ .subOut) (m_cl : μ .cl) (m_isl : μ .isl) (m_adc : μ .adc) (m_fan : μ .fan) (m_fio : μ .fio) (m_zb : μ .zb) (m_pnl : μ .pnl) (m_hb : μ .hb) (m_boot : μ .boot) (m_clk : μ .clk) (m_ucal : μ .ucal) (m_le : μ .le) :
    Keeps μ σ (State.postedApply s) := by
  unfold State.postedApply
  repeat' first
    | with_reducible assumption
    | intro _
    | with_reducible apply Keeps.ite
    | ((fail_if_no_progress extract_lets +onlyGivenNames x); first | (refine Keeps.bind x ?_ ?_; (try subst x); rotate_left; intro hx; rotate_left) | skip)
    | with_reducible apply Keeps.asPosted
    | with_reducible apply Keeps.busWrite
    | with_reducible apply Keeps.setHb
    | split
    | simp only [id_eq]

theorem Keeps.of_execPostedWriteApply (s : State) (hs : Keeps μ σ s) (m_space : μ .space) (m_campusOff : μ .campusOff) (m_free : μ .free) (m_wres : μ .wres) (m_banks : μ .banks) (m_log : μ .log) (m_ten : μ .ten) (m_ic : μ .ic) (m_broken : μ .broken) (m_safe : μ .safe) (m_cmds : μ .cmds) (m_cd : μ .cd) (m_cdg : μ .cdg) (m_fwd : μ .fwd) (m_sk : μ .sk) (m_sk0mem : μ .sk0mem) (m_subIn : μ .subIn) (m_subOut : μ .subOut) (m_cl : μ .cl) (m_isl : μ .isl) (m_adc : μ .adc) (m_fan : μ .fan) (m_fio : μ .fio) (m_zb : μ .zb) (m_pnl : μ .pnl) (m_hb : μ .hb) (m_boot : μ .boot) (m_clk : μ .clk) (m_ucal : μ .ucal) (m_le : μ .le) :
    KeepsO μ σ (execPostedWriteApply s) := by
  unfold execPostedWriteApply
  repeat' first
    | with_reducible assumption
    | intro _
    | with_reducible apply KeepsO.next
    | with_reducible apply Keeps.ite
    | with_reducible apply Keeps.postedApply

theorem Keeps.mbxGo (s : State) (spi : Bool) (n : ℕ) (wr : Bool) (hs : Keeps μ σ s) (m_space : μ .space) (m_hb : μ .hb) :
    Keeps μ σ (State.mbxGo s spi n wr) := by
  unfold State.mbxGo
  repeat' first
    | with_reducible assumption
    | intro _
    | with_reducible apply Keeps.ite
    | with_reducible apply Keeps.inc
    | with_reducible apply Keeps.setLane

theorem Keeps.mbxDo (s : State) (n : ℕ) (hs : Keeps μ σ s) (m_space : μ .space) (m_campusOff : μ .campusOff) (m_free : μ .free) (m_rdata : μ .rdata) (m_wres : μ .wres) (m_banks : μ .banks) (m_log : μ .log) (m_ten : μ .ten) (m_ic : μ .ic) (m_broken : μ .broken) (m_safe : μ .safe) (m_cmds : μ .cmds) (m_cd : μ .cd) (m_cdg : μ .cdg) (m_fwd : μ .fwd) (m_sk : μ .sk) (m_sk0mem : μ .sk0mem) (m_subIn : μ .subIn) (m_subOut : μ .subOut) (m_cl : μ .cl) (m_isl : μ .isl) (m_adc : μ .adc) (m_fan : μ .fan) (m_fio : μ .fio) (m_zb : μ .zb) (m_pnl : μ .pnl) (m_hb : μ .hb) (m_boot : μ .boot) (m_clk : μ .clk) (m_ucal : μ .ucal) (m_le : μ .le) :
    Keeps μ σ (State.mbxDo s n) := by
  unfold State.mbxDo
  repeat' first
    | with_reducible assumption
    | intro _
    | with_reducible apply Keeps.ite
    | ((fail_if_no_progress extract_lets +onlyGivenNames x); first | (refine Keeps.bind x ?_ ?_; (try subst x); rotate_left; intro hx; rotate_left) | skip)
    | with_reducible apply Keeps.asWho
    | with_reducible apply Keeps.busRead
    | with_reducible apply Keeps.busWrite
    | with_reducible apply Keeps.setLane

theorem Keeps.mbxComplete (s : State) (n : ℕ) (hs : Keeps μ σ s) (m_space : μ .space) (m_campusOff : μ .campusOff) (m_free : μ .free) (m_rdata : μ .rdata) (m_wres : μ .wres) (m_banks : μ .banks) (m_log : μ .log) (m_ten : μ .ten) (m_ic : μ .ic) (m_broken : μ .broken) (m_safe : μ .safe) (m_cmds : μ .cmds) (m_cd : μ .cd) (m_cdg : μ .cdg) (m_fwd : μ .fwd) (m_sk : μ .sk) (m_sk0mem : μ .sk0mem) (m_subIn : μ .subIn) (m_subOut : μ .subOut) (m_cl : μ .cl) (m_isl : μ .isl) (m_adc : μ .adc) (m_fan : μ .fan) (m_fio : μ .fio) (m_zb : μ .zb) (m_pnl : μ .pnl) (m_hb : μ .hb) (m_boot : μ .boot) (m_clk : μ .clk) (m_ucal : μ .ucal) (m_le : μ .le) :
    Keeps μ σ (State.mbxComplete s n) := by
  unfold State.mbxComplete
  repeat' first
    | with_reducible assumption
    | intro _
    | with_reducible apply Keeps.ite
    | ((fail_if_no_progress extract_lets +onlyGivenNames x); first | (refine Keeps.bind x ?_ ?_; (try subst x); rotate_left; intro hx; rotate_left) | skip)
    | with_reducible apply Keeps.mbxDo
    | with_reducible apply Keeps.setLane

theorem Keeps.mbxTimeout (s : State) (n : ℕ) (applied : Bool) (hs : Keeps μ σ s) (m_space : μ .space) (m_now : μ .now) (m_campusOff : μ .campusOff) (m_free : μ .free) (m_rdata : μ .rdata) (m_wres : μ .wres) (m_banks : μ .banks) (m_log : μ .log) (m_ten : μ .ten) (m_ic : μ .ic) (m_broken : μ .broken) (m_safe : μ .safe) (m_cmds : μ .cmds) (m_cd : μ .cd) (m_cdg : μ .cdg) (m_fwd : μ .fwd) (m_sk : μ .sk) (m_sk0mem : μ .sk0mem) (m_subIn : μ .subIn) (m_subOut : μ .subOut) (m_cl : μ .cl) (m_isl : μ .isl) (m_adc : μ .adc) (m_fan : μ .fan) (m_fio : μ .fio) (m_zb : μ .zb) (m_pnl : μ .pnl) (m_hb : μ .hb) (m_boot : μ .boot) (m_clk : μ .clk) (m_ucal : μ .ucal) (m_le : μ .le) :
    Keeps μ σ (State.mbxTimeout s n applied) := by
  unfold State.mbxTimeout
  repeat' first
    | with_reducible assumption
    | intro _
    | with_reducible apply Keeps.ite
    | ((fail_if_no_progress extract_lets +onlyGivenNames x); first | (refine Keeps.bind x ?_ ?_; (try subst x); rotate_left; intro hx; rotate_left) | skip)
    | with_reducible apply Keeps.mbxDo
    | with_reducible apply Keeps.reach
    | with_reducible apply Keeps.setLane

theorem Keeps.mbxCmd (s : State) (spi : Bool) (n : ℕ) (wr : Bool) (hs : Keeps μ σ s) (m_space : μ .space) (m_hb : μ .hb) :
    Keeps μ σ (State.mbxCmd s spi n wr) := by
  unfold State.mbxCmd
  repeat' first
    | with_reducible assumption
    | intro _
    | with_reducible apply Keeps.ite
    | ((fail_if_no_progress extract_lets +onlyGivenNames x); first | (refine Keeps.bind x ?_ ?_; (try subst x); rotate_left; intro hx; rotate_left) | skip)
    | with_reducible apply Keeps.mbxGo
    | with_reducible apply Keeps.setLane
    | split
    | simp only [id_eq]

theorem Keeps.of_execMbxRead (n : Fin 4) (spi : Bool) (s : State) (hs : Keeps μ σ s) (m_space : μ .space) (m_hb : μ .hb) :
    KeepsO μ σ (execMbxRead n spi s) := by
  unfold execMbxRead
  repeat' first
    | with_reducible assumption
    | intro _
    | with_reducible apply KeepsO.next
    | with_reducible apply Keeps.ite
    | ((fail_if_no_progress extract_lets +onlyGivenNames x); first | (refine Keeps.bind x ?_ ?_; (try subst x); rotate_left; intro hx; rotate_left) | (refine KeepsO.bind x ?_ ?_; (try subst x); rotate_left; intro hx; rotate_left) | skip)
    | with_reducible apply Keeps.mbxCmd
    | split
    | simp only [id_eq]

theorem Keeps.of_execMbxWrite (n : Fin 4) (spi : Bool) (s : State) (hs : Keeps μ σ s) (m_space : μ .space) (m_hb : μ .hb) :
    KeepsO μ σ (execMbxWrite n spi s) := by
  unfold execMbxWrite
  repeat' first
    | with_reducible assumption
    | intro _
    | with_reducible apply KeepsO.next
    | with_reducible apply Keeps.ite
    | ((fail_if_no_progress extract_lets +onlyGivenNames x); first | (refine Keeps.bind x ?_ ?_; (try subst x); rotate_left; intro hx; rotate_left) | (refine KeepsO.bind x ?_ ?_; (try subst x); rotate_left; intro hx; rotate_left) | skip)
    | with_reducible apply Keeps.mbxCmd
    | split
    | simp only [id_eq]

theorem Keeps.of_execMbxComplete (n : Fin 4) (s : State) (hs : Keeps μ σ s) (m_space : μ .space) (m_campusOff : μ .campusOff) (m_free : μ .free) (m_rdata : μ .rdata) (m_wres : μ .wres) (m_banks : μ .banks) (m_log : μ .log) (m_ten : μ .ten) (m_ic : μ .ic) (m_broken : μ .broken) (m_safe : μ .safe) (m_cmds : μ .cmds) (m_cd : μ .cd) (m_cdg : μ .cdg) (m_fwd : μ .fwd) (m_sk : μ .sk) (m_sk0mem : μ .sk0mem) (m_subIn : μ .subIn) (m_subOut : μ .subOut) (m_cl : μ .cl) (m_isl : μ .isl) (m_adc : μ .adc) (m_fan : μ .fan) (m_fio : μ .fio) (m_zb : μ .zb) (m_pnl : μ .pnl) (m_hb : μ .hb) (m_boot : μ .boot) (m_clk : μ .clk) (m_ucal : μ .ucal) (m_le : μ .le) :
    KeepsO μ σ (execMbxComplete n s) := by
  unfold execMbxComplete
  repeat' first
    | with_reducible assumption
    | intro _
    | with_reducible apply KeepsO.next
    | with_reducible apply Keeps.ite
    | with_reducible apply Keeps.mbxComplete

theorem Keeps.of_execMbxTimeout (n : Fin 4) (applied : Bool) (s : State) (hs : Keeps μ σ s) (m_space : μ .space) (m_now : μ .now) (m_campusOff : μ .campusOff) (m_free : μ .free) (m_rdata : μ .rdata) (m_wres : μ .wres) (m_banks : μ .banks) (m_log : μ .log) (m_ten : μ .ten) (m_ic : μ .ic) (m_broken : μ .broken) (m_safe : μ .safe) (m_cmds : μ .cmds) (m_cd : μ .cd) (m_cdg : μ .cdg) (m_fwd : μ .fwd) (m_sk : μ .sk) (m_sk0mem : μ .sk0mem) (m_subIn : μ .subIn) (m_subOut : μ .subOut) (m_cl : μ .cl) (m_isl : μ .isl) (m_adc : μ .adc) (m_fan : μ .fan) (m_fio : μ .fio) (m_zb : μ .zb) (m_pnl : μ .pnl) (m_hb : μ .hb) (m_boot : μ .boot) (m_clk : μ .clk) (m_ucal : μ .ucal) (m_le : μ .le) :
    KeepsO μ σ (execMbxTimeout n applied s) := by
  unfold execMbxTimeout
  repeat' first
    | with_reducible assumption
    | intro _
    | with_reducible apply KeepsO.next
    | with_reducible apply Keeps.ite
    | with_reducible apply Keeps.mbxTimeout

theorem Keeps.laneChange (s : State) (n : ℕ) (hs : Keeps μ σ s) (m_space : μ .space) (m_hb : μ .hb) :
    Keeps μ σ (State.laneChange s n) := by
  unfold State.laneChange
  repeat' first
    | with_reducible assumption
    | intro _
    | with_reducible apply Keeps.ite
    | ((fail_if_no_progress extract_lets +onlyGivenNames x); first | (refine Keeps.bind x ?_ ?_; (try subst x); rotate_left; intro hx; rotate_left) | skip)
    | with_reducible apply Keeps.inc
    | with_reducible apply Keeps.put
    | with_reducible apply Keeps.setLane

theorem Keeps.hostSide (s : State) (spi : Bool) (lane : ℕ) (a : ℕ) (data : Word) (bytes : ℕ) (hs : Keeps μ σ s) (m_space : μ .space) (m_hb : μ .hb) :
    Keeps μ σ (State.hostSide s spi lane a data bytes) := by
  unfold State.hostSide
  repeat' first
    | with_reducible assumption
    | intro _
    | with_reducible apply Keeps.ite
    | with_reducible apply Keeps.laneChange
    | with_reducible apply Keeps.mbxGo
    | with_reducible apply Keeps.put
    | with_reducible apply Keeps.putIf
    | with_reducible apply Keeps.setLane

theorem Keeps.busHalf_go (s : State) (b : ℕ) (n : ℕ) (pick : List Word → Word) (k : ℕ) (hs : Keeps μ σ s) (m_space : μ .space) (m_free : μ .free) (m_rdata : μ .rdata) (m_ten : μ .ten) (m_broken : μ .broken) (m_fwd : μ .fwd) (m_hb : μ .hb) :
    Keeps μ σ (State.busHalf.go s b n pick k) := by
  unfold State.busHalf.go
  repeat' first
    | with_reducible assumption
    | intro _
    | with_reducible apply Keeps.ite
    | ((fail_if_no_progress extract_lets +onlyGivenNames x); first | (refine Keeps.bind x ?_ ?_; (try subst x); rotate_left; intro hx; rotate_left) | skip)
    | with_reducible apply Keeps.setLane
    | with_reducible apply Keeps.shadowGet
    | simp only [Keeps.upd_rdata m_rdata]
    | with_reducible apply Keeps.of_fst (by assumption)
    | with_reducible apply Keeps.of_snd (by assumption)
    | split
    | simp only [id_eq]

theorem Keeps.busHalf (s : State) (lane : ℕ) (o : ℕ) (hs : Keeps μ σ s) (m_space : μ .space) (m_free : μ .free) (m_rdata : μ .rdata) (m_ten : μ .ten) (m_broken : μ .broken) (m_fwd : μ .fwd) (m_hb : μ .hb) :
    Keeps μ σ (State.busHalf s lane o) := by
  unfold State.busHalf
  repeat' first
    | with_reducible assumption
    | intro _
    | with_reducible apply Keeps.ite
    | ((fail_if_no_progress extract_lets +onlyGivenNames x); first | (refine Keeps.bind x ?_ ?_; (try subst x); rotate_left; intro hx; rotate_left) | skip)
    | with_reducible apply Keeps.busHalf_go
    | with_reducible apply Keeps.inc
    | with_reducible apply Keeps.setLane
    | simp only [Keeps.upd_rdata m_rdata]
    | split
    | simp only [id_eq]

theorem Keeps.of_execHostBusRead (ha : Fin 32768) (s : State) (hs : Keeps μ σ s) (m_space : μ .space) (m_free : μ .free) (m_rdata : μ .rdata) (m_ten : μ .ten) (m_broken : μ .broken) (m_fwd : μ .fwd) (m_hb : μ .hb) :
    KeepsO μ σ (execHostBusRead ha s) := by
  unfold execHostBusRead
  repeat' first
    | with_reducible assumption
    | intro _
    | with_reducible apply KeepsO.next
    | with_reducible apply Keeps.ite
    | ((fail_if_no_progress extract_lets +onlyGivenNames x); first | (refine Keeps.bind x ?_ ?_; (try subst x); rotate_left; intro hx; rotate_left) | (refine KeepsO.bind x ?_ ?_; (try subst x); rotate_left; intro hx; rotate_left) | skip)
    | with_reducible apply Keeps.busHalf
    | simp only [Keeps.upd_rdata m_rdata]
    | split
    | simp only [id_eq]

theorem Keeps.busHalfWrite (s : State) (lane : ℕ) (o : ℕ) (d : ℕ) (en : ℕ) (hs : Keeps μ σ s) (m_space : μ .space) (m_free : μ .free) (m_ten : μ .ten) (m_ic : μ .ic) (m_hb : μ .hb) :
    Keeps μ σ (State.busHalfWrite s lane o d en) := by
  unfold State.busHalfWrite
  repeat' first
    | with_reducible assumption
    | intro _
    | with_reducible apply Keeps.ite
    | ((fail_if_no_progress extract_lets +onlyGivenNames x); first | (refine Keeps.bind x ?_ ?_; (try subst x); rotate_left; intro hx; rotate_left) | skip)
    | with_reducible apply Keeps.hostSide
    | with_reducible apply Keeps.inc
    | with_reducible apply Keeps.postWrite
    | with_reducible apply Keeps.setLane
    | split

theorem Keeps.of_execHostBusWrite (ha : Fin 32768) (d : Fin 65536) (hbe : Fin 4) (s : State) (hs : Keeps μ σ s) (m_space : μ .space) (m_free : μ .free) (m_ten : μ .ten) (m_ic : μ .ic) (m_hb : μ .hb) :
    KeepsO μ σ (execHostBusWrite ha d hbe s) := by
  unfold execHostBusWrite
  repeat' first
    | with_reducible assumption
    | intro _
    | with_reducible apply KeepsO.next
    | with_reducible apply Keeps.ite
    | with_reducible apply Keeps.busHalfWrite

theorem Keeps.spiRead1 (s : State) (lane : ℕ) (a : ℕ) (hs : Keeps μ σ s) (m_space : μ .space) (m_free : μ .free) (m_ten : μ .ten) (m_broken : μ .broken) (m_fwd : μ .fwd) (m_hb : μ .hb) :
    Keeps μ σ (State.spiRead1 s lane a).1 := by
  unfold State.spiRead1
  split
  · exact hs
  · split
    · exact Keeps.inc _ _ _ _ _ hs m_space
    · split
      · exact hs
      · dsimp only
        split
        · exact hs
        · refine Keeps.setLane _ _ _ ?_ m_hb
          with_reducible apply Keeps.shadowGet <;> assumption

theorem Keeps.spiReads (s : State) (lane : ℕ) (b2 : ℕ) (b3 : ℕ) (hs : Keeps μ σ s) (m_space : μ .space) (m_free : μ .free) (m_ten : μ .ten) (m_broken : μ .broken) (m_fwd : μ .fwd) (m_hb : μ .hb) :
    Keeps μ σ (State.spiReads s lane b2 b3).1 := by
  induction b2 generalizing s b3 with
  | zero => exact hs
  | succ n ih => exact ih _ _ (by with_reducible apply Keeps.spiRead1 <;> assumption)

theorem Keeps.spiWrites (s : State) (lane : ℕ) (b2 : ℕ) (b3 : ℕ) (b4 : List Byte) (hs : Keeps μ σ s) (m_space : μ .space) (m_free : μ .free) (m_ten : μ .ten) (m_ic : μ .ic) (m_hb : μ .hb) :
    Keeps μ σ (State.spiWrites s lane b2 b3 b4) := by
  induction b2 generalizing s b3 b4 with
  | zero => exact hs
  | succ n ih =>
    unfold State.spiWrites
    split
    · exact hs
    · refine ih _ _ _ ?_
      split
      · with_reducible apply Keeps.hostSide <;> assumption
      · with_reducible apply Keeps.postWrite <;> assumption

theorem Keeps.spiFrame (s : State) (mosi : List Byte) (hs : Keeps μ σ s) (m_space : μ .space) (m_free : μ .free) (m_ten : μ .ten) (m_ic : μ .ic) (m_broken : μ .broken) (m_fwd : μ .fwd) (m_hb : μ .hb) :
    Keeps μ σ (State.spiFrame s mosi) := by
  unfold State.spiFrame
  repeat' first
    | with_reducible assumption
    | intro _
    | with_reducible apply Keeps.ite
    | ((fail_if_no_progress extract_lets +onlyGivenNames x); first | (refine Keeps.bind x ?_ ?_; (try subst x); rotate_left; intro hx; rotate_left) | skip)
    | with_reducible apply Keeps.inc
    | with_reducible apply Keeps.setHb
    | with_reducible apply Keeps.setLane
    | with_reducible apply Keeps.spiReads
    | with_reducible apply Keeps.spiWrites
    | with_reducible apply Keeps.of_fst (by assumption)
    | with_reducible apply Keeps.of_snd (by assumption)
    | split
    | simp only [id_eq]

theorem Keeps.of_execHostSpiFrame (mosi : List Byte) (s : State) (hs : Keeps μ σ s) (m_space : μ .space) (m_free : μ .free) (m_ten : μ .ten) (m_ic : μ .ic) (m_broken : μ .broken) (m_fwd : μ .fwd) (m_hb : μ .hb) :
    KeepsO μ σ (execHostSpiFrame mosi s) := by
  unfold execHostSpiFrame
  repeat' first
    | with_reducible assumption
    | intro _
    | with_reducible apply KeepsO.next
    | with_reducible apply Keeps.ite
    | ((fail_if_no_progress extract_lets +onlyGivenNames x); first | (refine Keeps.bind x ?_ ?_; (try subst x); rotate_left; intro hx; rotate_left) | (refine KeepsO.bind x ?_ ?_; (try subst x); rotate_left; intro hx; rotate_left) | skip)
    | with_reducible apply Keeps.spiFrame
    | split
    | simp only [id_eq]

end Sys2Proof.Machine
end

