-- ==== Sys2Proof/Laws/KeepsClocks.lean ====
section
/-! SUPPORT. What each operation of Machine/Clocks.lean keeps: the queue, the clock's direction, the canonical form of the register
space, and every part of the state it does not name (`Keeps`). -/

set_option linter.unusedTactic false
set_option linter.unreachableTactic false
set_option linter.unusedSimpArgs false
set_option linter.unusedVariables false

namespace Sys2Proof.Machine

variable {μ : Part → Prop} {σ : State}

theorem Keeps.setCorr (s : State) (x : ℤ) (hs : Keeps μ σ s) (m_space : μ .space) :
    Keeps μ σ (State.setCorr s x) := by
  unfold State.setCorr
  repeat' first
    | with_reducible assumption
    | intro _
    | with_reducible apply Keeps.ite
    | with_reducible apply Keeps.put

theorem Keeps.discFault (s : State) (hs : Keeps μ σ s) (m_space : μ .space) (m_free : μ .free) (m_ten : μ .ten) (m_ic : μ .ic) :
    Keeps μ σ (State.discFault s) := by
  unfold State.discFault
  repeat' first
    | with_reducible assumption
    | intro _
    | with_reducible apply Keeps.ite
    | ((fail_if_no_progress extract_lets +onlyGivenNames x); first | (refine Keeps.bind x ?_ ?_; (try subst x); rotate_left; intro hx; rotate_left) | skip)
    | with_reducible apply Keeps.icPulse
    | with_reducible apply Keeps.postErr
    | with_reducible apply Keeps.put
    | with_reducible apply Keeps.setCorr

theorem Keeps.trimTo (s : State) (ppm : ℤ) (hs : Keeps μ σ s) (m_space : μ .space) (m_clk : μ .clk) :
    Keeps μ σ (State.trimTo s ppm) := by
  unfold State.trimTo
  repeat' first
    | with_reducible assumption
    | intro _
    | with_reducible apply Keeps.ite
    | ((fail_if_no_progress extract_lets +onlyGivenNames x); first | (refine Keeps.bind x ?_ ?_; (try subst x); rotate_left; intro hx; rotate_left) | skip)
    | with_reducible apply Keeps.setClk
    | with_reducible apply Keeps.setCorr

theorem Keeps.of_execLeDisciplineTrim (ppm : ℤ) (s : State) (hs : Keeps μ σ s) (m_space : μ .space) (m_free : μ .free) (m_ten : μ .ten) (m_ic : μ .ic) (m_clk : μ .clk) :
    KeepsO μ σ (execLeDisciplineTrim ppm s) := by
  unfold execLeDisciplineTrim
  repeat' first
    | with_reducible assumption
    | intro _
    | with_reducible apply KeepsO.next
    | with_reducible apply Keeps.ite
    | with_reducible apply Keeps.discFault
    | with_reducible apply Keeps.trimTo

theorem Keeps.of_execDisciplineResume (ppm : ℤ) (s : State) (hs : Keeps μ σ s) (m_space : μ .space) (m_now : μ .now) (m_campusOff : μ .campusOff) (m_cl : μ .cl) (m_clk : μ .clk) :
    KeepsO μ σ (execDisciplineResume ppm s) := by
  unfold execDisciplineResume
  repeat' first
    | with_reducible assumption
    | intro _
    | with_reducible apply KeepsO.next
    | with_reducible apply Keeps.ite
    | with_reducible apply Keeps.put
    | with_reducible apply Keeps.reach
    | with_reducible apply Keeps.trimTo

theorem Keeps.of_execRefLoss (s : State) (hs : Keeps μ σ s) (m_space : μ .space) (m_free : μ .free) (m_ten : μ .ten) (m_ic : μ .ic) (m_clk : μ .clk) :
    KeepsO μ σ (execRefLoss s) := by
  unfold execRefLoss
  repeat' first
    | with_reducible assumption
    | intro _
    | with_reducible apply KeepsO.next
    | with_reducible apply Keeps.ite
    | ((fail_if_no_progress extract_lets +onlyGivenNames x); first | (refine Keeps.bind x ?_ ?_; (try subst x); rotate_left; intro hx; rotate_left) | (refine KeepsO.bind x ?_ ?_; (try subst x); rotate_left; intro hx; rotate_left) | skip)
    | with_reducible apply Keeps.askWarm
    | with_reducible apply Keeps.discFault
    | with_reducible apply Keeps.put
    | with_reducible apply Keeps.setClk

theorem Keeps.of_execReferenceReturn (s : State) (hs : Keeps μ σ s) (m_space : μ .space) (m_clk : μ .clk) :
    KeepsO μ σ (execReferenceReturn s) := by
  unfold execReferenceReturn
  repeat' first
    | with_reducible assumption
    | intro _
    | with_reducible apply KeepsO.next
    | with_reducible apply Keeps.ite
    | ((fail_if_no_progress extract_lets +onlyGivenNames x); first | (refine Keeps.bind x ?_ ?_; (try subst x); rotate_left; intro hx; rotate_left) | (refine KeepsO.bind x ?_ ?_; (try subst x); rotate_left; intro hx; rotate_left) | skip)
    | with_reducible apply Keeps.putIf
    | with_reducible apply Keeps.setClk
    | split
    | simp only [id_eq]

theorem logicSpace_wf (s : State) (warm : Bool) : Tab.wf resetWord (s.logicSpace warm) := by
  unfold State.logicSpace
  refine List.foldlRecOn _ _ Tab.wf_nil (fun t ht e _ => ?_)
  split
  · exact Tab.wf_set _ _ ht
  · exact ht

theorem Keeps.logicReset (s : State) (warm : Bool) (hs : Keeps μ σ s) (m_space : μ .space) (m_rdata : μ .rdata) (m_wres : μ .wres) (m_banks : μ .banks) (m_log : μ .log) (m_ten : μ .ten) (m_exLast : μ .exLast) (m_exAt : μ .exAt) (m_ic : μ .ic) (m_broken : μ .broken) (m_pub : μ .pub) (m_zoneEv : μ .zoneEv) (m_cd : μ .cd) (m_fwd : μ .fwd) (m_sk : μ .sk) (m_sk0mem : μ .sk0mem) (m_subIn : μ .subIn) (m_subOut : μ .subOut) (m_cl : μ .cl) (m_isl : μ .isl) (m_fan : μ .fan) (m_zb : μ .zb) (m_pnl : μ .pnl) (m_hb : μ .hb) (m_boot : μ .boot) (m_clk : μ .clk) (m_ucal : μ .ucal) (m_frame : μ .frame) (m_le : μ .le) :
    Keeps μ σ (State.logicReset s warm) :=
  { hs with
    wf := fun _ => logicSpace_wf s warm
    space := .inl m_space
    rdata := .inl m_rdata
    wres := .inl m_wres
    banks := .inl m_banks
    log := .inl m_log
    ten := .inl m_ten
    exLast := .inl m_exLast
    exAt := .inl m_exAt
    ic := .inl m_ic
    broken := .inl m_broken
    pub := .inl m_pub
    zoneEv := .inl m_zoneEv
    cd := .inl m_cd
    fwd := .inl m_fwd
    sk := .inl m_sk
    sk0mem := .inl m_sk0mem
    subIn := .inl m_subIn
    subOut := .inl m_subOut
    cl := .inl m_cl
    isl := .inl m_isl
    fan := .inl m_fan
    zb := .inl m_zb
    pnl := .inl m_pnl
    hb := .inl m_hb
    boot := .inl m_boot
    clk := .inl m_clk
    ucal := .inl m_ucal
    frame := .inl m_frame
    le := .inl m_le }

theorem Keeps.powerReset (s : State) (hs : Keeps μ σ s) (m_space : μ .space) (m_ten : μ .ten) (m_safe : μ .safe) (m_safeLoaded : μ .safeLoaded) (m_cmds : μ .cmds) (m_cd : μ .cd) (m_cdg : μ .cdg) (m_adc : μ .adc) (m_fan : μ .fan) (m_fio : μ .fio) (m_zb : μ .zb) (m_clk : μ .clk) (m_pdErrs : μ .pdErrs) (m_le : μ .le) :
    Keeps μ σ (State.powerReset s) := by
  have h : Keeps μ σ (s.each ((List.range 16).filter (fun z => s.zbOn z)) (fun z s => s.nodesAbsent z)) :=
    Keeps.each _ _ _ hs (fun _ _ h => by with_reducible apply Keeps.nodesAbsent <;> assumption)
  exact Keeps.setClk _ _
    { h with wf := fun w => Tab.wf_filter _ (h.wf w), space := .inl m_space, safe := .inl m_safe, safeLoaded := .inl m_safeLoaded, cmds := .inl m_cmds, cd := .inl m_cd, cdg := .inl m_cdg, adc := .inl m_adc, fan := .inl m_fan, fio := .inl m_fio, zb := .inl m_zb, pdErrs := .inl m_pdErrs, le := .inl m_le } m_clk

theorem Keeps.warmStart (s : State) (hs : Keeps μ σ s) (m_space : μ .space) (m_now : μ .now) (m_campusOff : μ .campusOff) (m_rdata : μ .rdata) (m_wres : μ .wres) (m_banks : μ .banks) (m_log : μ .log) (m_ten : μ .ten) (m_exLast : μ .exLast) (m_exAt : μ .exAt) (m_ic : μ .ic) (m_broken : μ .broken) (m_pub : μ .pub) (m_zoneEv : μ .zoneEv) (m_cd : μ .cd) (m_fwd : μ .fwd) (m_sk : μ .sk) (m_sk0mem : μ .sk0mem) (m_subIn : μ .subIn) (m_subOut : μ .subOut) (m_cl : μ .cl) (m_isl : μ .isl) (m_fan : μ .fan) (m_zb : μ .zb) (m_pnl : μ .pnl) (m_hb : μ .hb) (m_boot : μ .boot) (m_clk : μ .clk) (m_ucal : μ .ucal) (m_frame : μ .frame) (m_le : μ .le) :
    Keeps μ σ (State.warmStart s) := by
  unfold State.warmStart
  repeat' first
    | with_reducible assumption
    | intro _
    | with_reducible apply Keeps.ite
    | ((fail_if_no_progress extract_lets +onlyGivenNames x); first | (refine Keeps.bind x ?_ ?_; (try subst x); rotate_left; intro hx; rotate_left) | skip)
    | with_reducible apply Keeps.logicReset
    | with_reducible apply Keeps.reach
    | with_reducible apply Keeps.rstCause
    | with_reducible apply Keeps.setClk
    | split
    | simp only [id_eq]

theorem Keeps.of_execWarmResetStart (s : State) (hs : Keeps μ σ s) (m_space : μ .space) (m_now : μ .now) (m_campusOff : μ .campusOff) (m_rdata : μ .rdata) (m_wres : μ .wres) (m_banks : μ .banks) (m_log : μ .log) (m_ten : μ .ten) (m_exLast : μ .exLast) (m_exAt : μ .exAt) (m_ic : μ .ic) (m_broken : μ .broken) (m_pub : μ .pub) (m_zoneEv : μ .zoneEv) (m_cd : μ .cd) (m_fwd : μ .fwd) (m_sk : μ .sk) (m_sk0mem : μ .sk0mem) (m_subIn : μ .subIn) (m_subOut : μ .subOut) (m_cl : μ .cl) (m_isl : μ .isl) (m_fan : μ .fan) (m_zb : μ .zb) (m_pnl : μ .pnl) (m_hb : μ .hb) (m_boot : μ .boot) (m_clk : μ .clk) (m_ucal : μ .ucal) (m_frame : μ .frame) (m_le : μ .le) :
    KeepsO μ σ (execWarmResetStart s) := by
  unfold execWarmResetStart
  repeat' first
    | with_reducible assumption
    | intro _
    | with_reducible apply KeepsO.next
    | with_reducible apply Keeps.ite
    | ((fail_if_no_progress extract_lets +onlyGivenNames x); first | (refine Keeps.bind x ?_ ?_; (try subst x); rotate_left; intro hx; rotate_left) | (refine KeepsO.bind x ?_ ?_; (try subst x); rotate_left; intro hx; rotate_left) | skip)
    | with_reducible apply Keeps.warmStart
    | split
    | simp only [id_eq]

theorem Keeps.unlinked (s : State) (f : State → State) (hs : Keeps μ σ s) (hf : ∀ a0, Keeps μ σ a0 → Keeps μ σ (f a0)) (m_space : μ .space) :
    Keeps μ σ (State.unlinked s f) := by
  unfold State.unlinked
  repeat' first
    | with_reducible assumption
    | intro _
    | with_reducible apply Keeps.ite
    | ((fail_if_no_progress extract_lets +onlyGivenNames x); first | (refine Keeps.bind x ?_ ?_; (try subst x); rotate_left; intro hx; rotate_left) | skip)
    | with_reducible apply hf
    | with_reducible apply Keeps.put

theorem Keeps.of_execWarmResetNotice (s : State) (hs : Keeps μ σ s) (m_space : μ .space) (m_free : μ .free) (m_log : μ .log) (m_ten : μ .ten) (m_ic : μ .ic) (m_safe : μ .safe) (m_safeUnrec : μ .safeUnrec) (m_safeIrq : μ .safeIrq) (m_cd : μ .cd) (m_cdg : μ .cdg) (m_zb : μ .zb) (m_clk : μ .clk) :
    KeepsO μ σ (execWarmResetNotice s) := by
  unfold execWarmResetNotice
  repeat' first
    | with_reducible assumption
    | intro _
    | with_reducible apply KeepsO.next
    | with_reducible apply Keeps.ite
    | ((fail_if_no_progress extract_lets +onlyGivenNames x); first | (refine Keeps.bind x ?_ ?_; (try subst x); rotate_left; intro hx; rotate_left) | (refine KeepsO.bind x ?_ ?_; (try subst x); rotate_left; intro hx; rotate_left) | skip)
    | with_reducible apply Keeps.cdWindowClose
    | with_reducible apply Keeps.safeAll
    | with_reducible apply Keeps.setClk
    | with_reducible apply Keeps.unlinked

theorem Keeps.pdReset (s : State) (cause : ℕ) (hs : Keeps μ σ s) (m_space : μ .space) (m_ten : μ .ten) (m_safe : μ .safe) (m_safeLoaded : μ .safeLoaded) (m_cmds : μ .cmds) (m_cd : μ .cd) (m_cdg : μ .cdg) (m_adc : μ .adc) (m_fan : μ .fan) (m_fio : μ .fio) (m_zb : μ .zb) (m_clk : μ .clk) (m_pdErrs : μ .pdErrs) (m_le : μ .le) :
    Keeps μ σ (State.pdReset s cause) := by
  unfold State.pdReset
  repeat' first
    | with_reducible assumption
    | intro _
    | with_reducible apply Keeps.ite
    | ((fail_if_no_progress extract_lets +onlyGivenNames x); first | (refine Keeps.bind x ?_ ?_; (try subst x); rotate_left; intro hx; rotate_left) | skip)
    | with_reducible apply Keeps.powerReset
    | with_reducible apply Keeps.rstBit
    | split
    | simp only [id_eq]

theorem Keeps.of_execSupplyReset (supply : Fin 3) (s : State) (hs : Keeps μ σ s) (m_space : μ .space) (m_rdata : μ .rdata) (m_wres : μ .wres) (m_banks : μ .banks) (m_log : μ .log) (m_ten : μ .ten) (m_exLast : μ .exLast) (m_exAt : μ .exAt) (m_ic : μ .ic) (m_broken : μ .broken) (m_pub : μ .pub) (m_zoneEv : μ .zoneEv) (m_safe : μ .safe) (m_safeLoaded : μ .safeLoaded) (m_cmds : μ .cmds) (m_cd : μ .cd) (m_cdg : μ .cdg) (m_fwd : μ .fwd) (m_sk : μ .sk) (m_sk0mem : μ .sk0mem) (m_subIn : μ .subIn) (m_subOut : μ .subOut) (m_cl : μ .cl) (m_isl : μ .isl) (m_adc : μ .adc) (m_fan : μ .fan) (m_fio : μ .fio) (m_zb : μ .zb) (m_pnl : μ .pnl) (m_hb : μ .hb) (m_boot : μ .boot) (m_clk : μ .clk) (m_pdErrs : μ .pdErrs) (m_ucal : μ .ucal) (m_frame : μ .frame) (m_le : μ .le) :
    KeepsO μ σ (execSupplyReset supply s) := by
  unfold execSupplyReset
  repeat' first
    | with_reducible assumption
    | intro _
    | with_reducible apply KeepsO.next
    | with_reducible apply Keeps.ite
    | ((fail_if_no_progress extract_lets +onlyGivenNames x); first | (refine Keeps.bind x ?_ ?_; (try subst x); rotate_left; intro hx; rotate_left) | (refine KeepsO.bind x ?_ ?_; (try subst x); rotate_left; intro hx; rotate_left) | skip)
    | with_reducible apply Keeps.chgUpdate
    | with_reducible apply Keeps.logicReset
    | with_reducible apply Keeps.pdReset
    | with_reducible apply Keeps.rstBit
    | with_reducible apply Keeps.setClk
    | split
    | simp only [id_eq]

theorem Keeps.of_execPdOscMismatch (s : State) (hs : Keeps μ σ s) (m_space : μ .space) (m_ten : μ .ten) (m_safe : μ .safe) (m_safeLoaded : μ .safeLoaded) (m_cmds : μ .cmds) (m_cd : μ .cd) (m_cdg : μ .cdg) (m_adc : μ .adc) (m_fan : μ .fan) (m_fio : μ .fio) (m_zb : μ .zb) (m_clk : μ .clk) (m_pdErrs : μ .pdErrs) (m_le : μ .le) :
    KeepsO μ σ (execPdOscMismatch s) := by
  unfold execPdOscMismatch
  repeat' first
    | with_reducible assumption
    | intro _
    | with_reducible apply KeepsO.next
    | with_reducible apply Keeps.ite
    | ((fail_if_no_progress extract_lets +onlyGivenNames x); first | (refine Keeps.bind x ?_ ?_; (try subst x); rotate_left; intro hx; rotate_left) | (refine KeepsO.bind x ?_ ?_; (try subst x); rotate_left; intro hx; rotate_left) | skip)
    | with_reducible apply Keeps.pdReset
    | split
    | simp only [id_eq]

theorem Keeps.of_execPowerOnResetRelease (logic : Bool) (tcrit : Fin 8) (s : State) (hs : Keeps μ σ s) (m_space : μ .space) (m_clk : μ .clk) :
    KeepsO μ σ (execPowerOnResetRelease logic tcrit s) := by
  unfold execPowerOnResetRelease
  repeat' first
    | with_reducible assumption
    | intro _
    | with_reducible apply KeepsO.next
    | with_reducible apply Keeps.ite
    | ((fail_if_no_progress extract_lets +onlyGivenNames x); first | (refine Keeps.bind x ?_ ?_; (try subst x); rotate_left; intro hx; rotate_left) | (refine KeepsO.bind x ?_ ?_; (try subst x); rotate_left; intro hx; rotate_left) | skip)
    | with_reducible apply Keeps.chgUpdate
    | with_reducible apply Keeps.guardStrap
    | with_reducible apply Keeps.setClk

theorem Keeps.pdWrite (s : State) (p : Posted) (hs : Keeps μ σ s) (m_space : μ .space) (m_campusOff : μ .campusOff) (m_free : μ .free) (m_wres : μ .wres) (m_banks : μ .banks) (m_log : μ .log) (m_ten : μ .ten) (m_ic : μ .ic) (m_broken : μ .broken) (m_safe : μ .safe) (m_cmds : μ .cmds) (m_cd : μ .cd) (m_cdg : μ .cdg) (m_fwd : μ .fwd) (m_sk : μ .sk) (m_sk0mem : μ .sk0mem) (m_subIn : μ .subIn) (m_subOut : μ .subOut) (m_cl : μ .cl) (m_isl : μ .isl) (m_adc : μ .adc) (m_fan : μ .fan) (m_fio : μ .fio) (m_zb : μ .zb) (m_pnl : μ .pnl) (m_hb : μ .hb) (m_boot : μ .boot) (m_clk : μ .clk) (m_ucal : μ .ucal) (m_le : μ .le) :
    Keeps μ σ (State.pdWrite s p).1 := by
  unfold State.pdWrite
  repeat' first
    | with_reducible assumption
    | intro _
    | with_reducible apply Keeps.ite
    | ((fail_if_no_progress extract_lets +onlyGivenNames x); first | (refine Keeps.bind x ?_ ?_; (try subst x); rotate_left; intro hx; rotate_left) | skip)
    | with_reducible apply Keeps.busWrite
    | with_reducible apply Keeps.setClk
    | with_reducible apply Keeps.each
    | with_reducible apply Keeps.setWord
    | simp only [Keeps.upd_log m_log]
    | split
    | simp only [id_eq]

theorem Keeps.pdAgain (s : State) (o : D2dOut) (hs : Keeps μ σ s) (m_space : μ .space) (m_campusOff : μ .campusOff) (m_free : μ .free) (m_wres : μ .wres) (m_banks : μ .banks) (m_log : μ .log) (m_ten : μ .ten) (m_ic : μ .ic) (m_broken : μ .broken) (m_safe : μ .safe) (m_cmds : μ .cmds) (m_cd : μ .cd) (m_cdg : μ .cdg) (m_fwd : μ .fwd) (m_sk : μ .sk) (m_sk0mem : μ .sk0mem) (m_subIn : μ .subIn) (m_subOut : μ .subOut) (m_cl : μ .cl) (m_isl : μ .isl) (m_adc : μ .adc) (m_fan : μ .fan) (m_fio : μ .fio) (m_zb : μ .zb) (m_pnl : μ .pnl) (m_hb : μ .hb) (m_boot : μ .boot) (m_clk : μ .clk) (m_ucal : μ .ucal) (m_le : μ .le) :
    Keeps μ σ (State.pdAgain s o).1 := by
  unfold State.pdAgain
  repeat' first
    | with_reducible assumption
    | intro _
    | ((fail_if_no_progress extract_lets +onlyGivenNames x); first | (refine Keeps.bind x ?_ ?_; (try subst x); rotate_left; intro hx; rotate_left) | skip)
    | with_reducible apply Keeps.pdWrite
    | simp only [Keeps.upd_log m_log]
    | simp only [id_eq]

theorem Keeps.d2dSend (s : State) (w : Who) (a : ℕ) (data : Word) (arrives : Bool) (hs : Keeps μ σ s) (m_space : μ .space) (m_campusOff : μ .campusOff) (m_free : μ .free) (m_wres : μ .wres) (m_banks : μ .banks) (m_log : μ .log) (m_ten : μ .ten) (m_ic : μ .ic) (m_broken : μ .broken) (m_safe : μ .safe) (m_cmds : μ .cmds) (m_cd : μ .cd) (m_cdg : μ .cdg) (m_fwd : μ .fwd) (m_sk : μ .sk) (m_sk0mem : μ .sk0mem) (m_subIn : μ .subIn) (m_subOut : μ .subOut) (m_cl : μ .cl) (m_isl : μ .isl) (m_adc : μ .adc) (m_fan : μ .fan) (m_fio : μ .fio) (m_zb : μ .zb) (m_pnl : μ .pnl) (m_hb : μ .hb) (m_boot : μ .boot) (m_clk : μ .clk) (m_ucal : μ .ucal) (m_le : μ .le) :
    Keeps μ σ (State.d2dSend s w a data arrives) := by
  unfold State.d2dSend
  repeat' first
    | with_reducible assumption
    | intro _
    | with_reducible apply Keeps.ite
    | ((fail_if_no_progress extract_lets +onlyGivenNames x); first | (refine Keeps.bind x ?_ ?_; (try subst x); rotate_left; intro hx; rotate_left) | skip)
    | with_reducible apply Keeps.busWrite
    | with_reducible apply Keeps.dropWrite
    | with_reducible apply Keeps.of_fst (by assumption)
    | with_reducible apply Keeps.pdWrite
    | with_reducible apply Keeps.setClk

theorem Keeps.d2dRead (s : State) (w : Who) (a : ℕ) (hs : Keeps μ σ s) (m_space : μ .space) (m_free : μ .free) (m_rdata : μ .rdata) (m_wres : μ .wres) (m_banks : μ .banks) (m_log : μ .log) (m_ten : μ .ten) (m_ic : μ .ic) (m_broken : μ .broken) (m_safe : μ .safe) (m_cmds : μ .cmds) (m_cd : μ .cd) (m_fwd : μ .fwd) (m_sk : μ .sk) (m_clk : μ .clk) (m_le : μ .le) :
    Keeps μ σ (State.d2dRead s w a) := by
  unfold State.d2dRead
  repeat' first
    | with_reducible assumption
    | intro _
    | with_reducible apply Keeps.ite
    | ((fail_if_no_progress extract_lets +onlyGivenNames x); first | (refine Keeps.bind x ?_ ?_; (try subst x); rotate_left; intro hx; rotate_left) | skip)
    | with_reducible apply Keeps.busRead
    | with_reducible apply Keeps.setClk
    | split
    | simp only [id_eq]

theorem Keeps.d2dAnswer (s : State) (hs : Keeps μ σ s) (m_space : μ .space) (m_free : μ .free) (m_rdata : μ .rdata) (m_wres : μ .wres) (m_banks : μ .banks) (m_log : μ .log) (m_ten : μ .ten) (m_ic : μ .ic) (m_broken : μ .broken) (m_safe : μ .safe) (m_cmds : μ .cmds) (m_cd : μ .cd) (m_fwd : μ .fwd) (m_sk : μ .sk) (m_clk : μ .clk) (m_le : μ .le) :
    Keeps μ σ (State.d2dAnswer s) := by
  unfold State.d2dAnswer
  repeat' first
    | with_reducible assumption
    | intro _
    | with_reducible apply Keeps.ite
    | ((fail_if_no_progress extract_lets +onlyGivenNames x); first | (refine Keeps.bind x ?_ ?_; (try subst x); rotate_left; intro hx; rotate_left) | skip)
    | with_reducible apply Keeps.busRead
    | with_reducible apply Keeps.setClk
    | split
    | simp only [id_eq]

theorem Keeps.d2dAck (s : State) (hs : Keeps μ σ s) (m_space : μ .space) (m_wres : μ .wres) (m_log : μ .log) (m_ten : μ .ten) (m_clk : μ .clk) :
    Keeps μ σ (State.d2dAck s) := by
  unfold State.d2dAck
  repeat' first
    | with_reducible assumption
    | intro _
    | with_reducible apply Keeps.ite
    | ((fail_if_no_progress extract_lets +onlyGivenNames x); first | (refine Keeps.bind x ?_ ?_; (try subst x); rotate_left; intro hx; rotate_left) | skip)
    | with_reducible apply Keeps.auditRec
    | with_reducible apply Keeps.each
    | with_reducible apply Keeps.setClk
    | simp only [Keeps.upd_wres m_wres]
    | split
    | simp only [id_eq]

theorem Keeps.of_execD2dFrame (f : D2dFrame) (s : State) (hs : Keeps μ σ s) (m_space : μ .space) (m_campusOff : μ .campusOff) (m_free : μ .free) (m_rdata : μ .rdata) (m_wres : μ .wres) (m_banks : μ .banks) (m_log : μ .log) (m_ten : μ .ten) (m_ic : μ .ic) (m_broken : μ .broken) (m_safe : μ .safe) (m_cmds : μ .cmds) (m_cd : μ .cd) (m_cdg : μ .cdg) (m_fwd : μ .fwd) (m_sk : μ .sk) (m_sk0mem : μ .sk0mem) (m_subIn : μ .subIn) (m_subOut : μ .subOut) (m_cl : μ .cl) (m_isl : μ .isl) (m_adc : μ .adc) (m_fan : μ .fan) (m_fio : μ .fio) (m_zb : μ .zb) (m_pnl : μ .pnl) (m_hb : μ .hb) (m_boot : μ .boot) (m_clk : μ .clk) (m_ucal : μ .ucal) (m_le : μ .le) :
    KeepsO μ σ (execD2dFrame f s) := by
  unfold execD2dFrame
  repeat' first
    | with_reducible assumption
    | intro _
    | with_reducible apply KeepsO.next
    | with_reducible apply Keeps.ite
    | ((fail_if_no_progress extract_lets +onlyGivenNames x); first | (refine Keeps.bind x ?_ ?_; (try subst x); rotate_left; intro hx; rotate_left) | (refine KeepsO.bind x ?_ ?_; (try subst x); rotate_left; intro hx; rotate_left) | skip)
    | with_reducible apply Keeps.byPath
    | with_reducible apply Keeps.crossMerge
    | with_reducible apply Keeps.d2dAck
    | with_reducible apply Keeps.d2dAnswer
    | with_reducible apply Keeps.d2dRead
    | with_reducible apply Keeps.d2dSend
    | with_reducible apply Keeps.each
    | with_reducible apply Keeps.inc
    | split
    | simp only [Keeps.upd_rdata m_rdata]
    | simp only [id_eq]

theorem Keeps.fwdResend (s : State) (hs : Keeps μ σ s) (m_space : μ .space) (m_clk : μ .clk) :
    Keeps μ σ (State.fwdResend s) := by
  unfold State.fwdResend
  repeat' first
    | with_reducible assumption
    | intro _
    | with_reducible apply Keeps.ite
    | ((fail_if_no_progress extract_lets +onlyGivenNames x); first | (refine Keeps.bind x ?_ ?_; (try subst x); rotate_left; intro hx; rotate_left) | skip)
    | with_reducible apply Keeps.inc
    | with_reducible apply Keeps.setClk
    | split
    | simp only [id_eq]

theorem Keeps.d2dResend (s : State) (arrives : Bool) (hs : Keeps μ σ s) (m_space : μ .space) (m_now : μ .now) (m_campusOff : μ .campusOff) (m_free : μ .free) (m_wres : μ .wres) (m_banks : μ .banks) (m_log : μ .log) (m_ten : μ .ten) (m_ic : μ .ic) (m_broken : μ .broken) (m_safe : μ .safe) (m_cmds : μ .cmds) (m_cd : μ .cd) (m_cdg : μ .cdg) (m_fwd : μ .fwd) (m_sk : μ .sk) (m_sk0mem : μ .sk0mem) (m_subIn : μ .subIn) (m_subOut : μ .subOut) (m_cl : μ .cl) (m_isl : μ .isl) (m_adc : μ .adc) (m_fan : μ .fan) (m_fio : μ .fio) (m_zb : μ .zb) (m_pnl : μ .pnl) (m_hb : μ .hb) (m_boot : μ .boot) (m_clk : μ .clk) (m_ucal : μ .ucal) (m_le : μ .le) :
    Keeps μ σ (State.d2dResend s arrives) := by
  unfold State.d2dResend
  repeat' first
    | with_reducible assumption
    | intro _
    | with_reducible apply Keeps.ite
    | ((fail_if_no_progress extract_lets +onlyGivenNames x); first | (refine Keeps.bind x ?_ ?_; (try subst x); rotate_left; intro hx; rotate_left) | skip)
    | with_reducible apply Keeps.fwdResend
    | with_reducible apply Keeps.inc
    | with_reducible apply Keeps.pdAgain
    | with_reducible apply Keeps.reach
    | with_reducible apply Keeps.setClk
    | with_reducible apply Keeps.of_fst (by assumption)
    | with_reducible apply Keeps.of_snd (by assumption)
    | split
    | simp only [id_eq]

theorem Keeps.of_execD2dResendTimeout (arrives : Bool) (s : State) (hs : Keeps μ σ s) (m_space : μ .space) (m_now : μ .now) (m_campusOff : μ .campusOff) (m_free : μ .free) (m_wres : μ .wres) (m_banks : μ .banks) (m_log : μ .log) (m_ten : μ .ten) (m_ic : μ .ic) (m_broken : μ .broken) (m_safe : μ .safe) (m_cmds : μ .cmds) (m_cd : μ .cd) (m_cdg : μ .cdg) (m_fwd : μ .fwd) (m_sk : μ .sk) (m_sk0mem : μ .sk0mem) (m_subIn : μ .subIn) (m_subOut : μ .subOut) (m_cl : μ .cl) (m_isl : μ .isl) (m_adc : μ .adc) (m_fan : μ .fan) (m_fio : μ .fio) (m_zb : μ .zb) (m_pnl : μ .pnl) (m_hb : μ .hb) (m_boot : μ .boot) (m_clk : μ .clk) (m_ucal : μ .ucal) (m_le : μ .le) :
    KeepsO μ σ (execD2dResendTimeout arrives s) := by
  unfold execD2dResendTimeout
  repeat' first
    | with_reducible assumption
    | intro _
    | with_reducible apply KeepsO.next
    | with_reducible apply Keeps.ite
    | with_reducible apply Keeps.d2dResend

theorem Keeps.pdLinkLost (s : State) (hs : Keeps μ σ s) (m_space : μ .space) (m_free : μ .free) (m_log : μ .log) (m_ten : μ .ten) (m_ic : μ .ic) (m_safe : μ .safe) (m_safeUnrec : μ .safeUnrec) (m_safeIrq : μ .safeIrq) (m_cd : μ .cd) (m_cdg : μ .cdg) (m_zb : μ .zb) (m_clk : μ .clk) :
    Keeps μ σ (State.pdLinkLost s) := by
  unfold State.pdLinkLost
  repeat' first
    | with_reducible assumption
    | intro _
    | with_reducible apply Keeps.ite
    | ((fail_if_no_progress extract_lets +onlyGivenNames x); first | (refine Keeps.bind x ?_ ?_; (try subst x); rotate_left; intro hx; rotate_left) | skip)
    | with_reducible apply Keeps.cdWindowClose
    | with_reducible apply Keeps.safeAll
    | with_reducible apply Keeps.safeEnter
    | with_reducible apply Keeps.setClk
    | with_reducible apply Keeps.unlinked

theorem Keeps.of_execD2dLinkLostPd (s : State) (hs : Keeps μ σ s) (m_space : μ .space) (m_free : μ .free) (m_log : μ .log) (m_ten : μ .ten) (m_ic : μ .ic) (m_safe : μ .safe) (m_safeUnrec : μ .safeUnrec) (m_safeIrq : μ .safeIrq) (m_cd : μ .cd) (m_cdg : μ .cdg) (m_zb : μ .zb) (m_clk : μ .clk) :
    KeepsO μ σ (execD2dLinkLostPd s) := by
  unfold execD2dLinkLostPd
  repeat' first
    | with_reducible assumption
    | intro _
    | with_reducible apply KeepsO.next
    | with_reducible apply Keeps.ite
    | with_reducible apply Keeps.pdLinkLost

theorem Keeps.d2dEnd (s : State) (o : D2dOut) (hs : Keeps μ σ s) (m_space : μ .space) (m_log : μ .log) (m_ten : μ .ten) :
    Keeps μ σ (State.d2dEnd s o) := by
  unfold State.d2dEnd
  repeat' first
    | with_reducible assumption
    | intro _
    | with_reducible apply Keeps.ite
    | ((fail_if_no_progress extract_lets +onlyGivenNames x); first | (refine Keeps.bind x ?_ ?_; (try subst x); rotate_left; intro hx; rotate_left) | skip)
    | with_reducible apply Keeps.auditRec
    | with_reducible apply Keeps.inc
    | split
    | simp only [id_eq]

theorem Keeps.linkLost (s : State) (hs : Keeps μ σ s) (m_space : μ .space) (m_free : μ .free) (m_rdata : μ .rdata) (m_wres : μ .wres) (m_log : μ .log) (m_ten : μ .ten) (m_ic : μ .ic) (m_fwd : μ .fwd) (m_hb : μ .hb) (m_clk : μ .clk) :
    Keeps μ σ (State.linkLost s) := by
  unfold State.linkLost
  repeat' first
    | with_reducible assumption
    | intro _
    | with_reducible apply Keeps.ite
    | ((fail_if_no_progress extract_lets +onlyGivenNames x); first | (refine Keeps.bind x ?_ ?_; (try subst x); rotate_left; intro hx; rotate_left) | skip)
    | with_reducible apply Keeps.d2dEnd
    | with_reducible apply Keeps.dropRead
    | with_reducible apply Keeps.each
    | with_reducible apply Keeps.freezeShadow
    | with_reducible apply Keeps.icPulse
    | with_reducible apply Keeps.inc
    | with_reducible apply Keeps.put
    | with_reducible apply Keeps.setClk
    | simp only [Keeps.upd_fwd m_fwd]
    | split
    | simp only [id_eq]

theorem Keeps.of_execD2dLinkLost (s : State) (hs : Keeps μ σ s) (m_space : μ .space) (m_free : μ .free) (m_rdata : μ .rdata) (m_wres : μ .wres) (m_log : μ .log) (m_ten : μ .ten) (m_ic : μ .ic) (m_fwd : μ .fwd) (m_hb : μ .hb) (m_clk : μ .clk) :
    KeepsO μ σ (execD2dLinkLost s) := by
  unfold execD2dLinkLost
  repeat' first
    | with_reducible assumption
    | intro _
    | with_reducible apply KeepsO.next
    | with_reducible apply Keeps.ite
    | ((fail_if_no_progress extract_lets +onlyGivenNames x); first | (refine Keeps.bind x ?_ ?_; (try subst x); rotate_left; intro hx; rotate_left) | (refine KeepsO.bind x ?_ ?_; (try subst x); rotate_left; intro hx; rotate_left) | skip)
    | with_reducible apply Keeps.linkLost
    | split
    | simp only [id_eq]

theorem Keeps.of_execD2dTrainingStart (s : State) (hs : Keeps μ σ s) (m_space : μ .space) (m_now : μ .now) (m_campusOff : μ .campusOff) (m_cl : μ .cl) (m_clk : μ .clk) :
    KeepsO μ σ (execD2dTrainingStart s) := by
  unfold execD2dTrainingStart
  repeat' first
    | with_reducible assumption
    | intro _
    | with_reducible apply KeepsO.next
    | with_reducible apply Keeps.ite
    | ((fail_if_no_progress extract_lets +onlyGivenNames x); first | (refine Keeps.bind x ?_ ?_; (try subst x); rotate_left; intro hx; rotate_left) | (refine KeepsO.bind x ?_ ?_; (try subst x); rotate_left; intro hx; rotate_left) | skip)
    | with_reducible apply Keeps.inc
    | with_reducible apply Keeps.reach
    | with_reducible apply Keeps.setClk

theorem Keeps.of_execD2dTrainingFail (s : State) (hs : Keeps μ σ s) (m_clk : μ .clk) :
    KeepsO μ σ (execD2dTrainingFail s) := by
  unfold execD2dTrainingFail
  repeat' first
    | with_reducible assumption
    | intro _
    | with_reducible apply KeepsO.next
    | with_reducible apply Keeps.ite
    | ((fail_if_no_progress extract_lets +onlyGivenNames x); first | (refine Keeps.bind x ?_ ?_; (try subst x); rotate_left; intro hx; rotate_left) | (refine KeepsO.bind x ?_ ?_; (try subst x); rotate_left; intro hx; rotate_left) | skip)
    | with_reducible apply Keeps.setClk

theorem Keeps.causesOut (s : State) (hs : Keeps μ σ s) (m_space : μ .space) (m_clk : μ .clk) :
    Keeps μ σ (State.causesOut s) := by
  unfold State.causesOut
  repeat' first
    | with_reducible assumption
    | intro _
    | with_reducible apply Keeps.ite
    | ((fail_if_no_progress extract_lets +onlyGivenNames x); first | (refine Keeps.bind x ?_ ?_; (try subst x); rotate_left; intro hx; rotate_left) | skip)
    | with_reducible apply Keeps.setClk
    | with_reducible apply Keeps.setWord

theorem Keeps.undeclaredOut (s : State) (hs : Keeps μ σ s) (m_space : μ .space) (m_free : μ .free) (m_ten : μ .ten) (m_ic : μ .ic) (m_clk : μ .clk) :
    Keeps μ σ (State.undeclaredOut s) := by
  unfold State.undeclaredOut
  repeat' first
    | with_reducible assumption
    | intro _
    | with_reducible apply Keeps.ite
    | ((fail_if_no_progress extract_lets +onlyGivenNames x); first | (refine Keeps.bind x ?_ ?_; (try subst x); rotate_left; intro hx; rotate_left) | skip)
    | with_reducible apply Keeps.icPulse
    | with_reducible apply Keeps.setClk

theorem Keeps.aonLog (s : State) (hs : Keeps μ σ s) (m_space : μ .space) :
    Keeps μ σ (State.aonLog s) := by
  unfold State.aonLog
  repeat' first
    | with_reducible assumption
    | intro _
    | with_reducible apply Keeps.ite
    | ((fail_if_no_progress extract_lets +onlyGivenNames x); first | (refine Keeps.bind x ?_ ?_; (try subst x); rotate_left; intro hx; rotate_left) | skip)
    | with_reducible apply Keeps.aonSeq
    | with_reducible apply Keeps.setPair
    | split
    | simp only [id_eq]

theorem Keeps.linkSet (s : State) (hs : Keeps μ σ s) (m_space : μ .space) (m_free : μ .free) (m_ten : μ .ten) (m_ic : μ .ic) (m_adc : μ .adc) (m_hb : μ .hb) (m_clk : μ .clk) :
    Keeps μ σ (State.linkSet s) := by
  unfold State.linkSet
  repeat' first
    | with_reducible assumption
    | intro _
    | with_reducible apply Keeps.ite
    | ((fail_if_no_progress extract_lets +onlyGivenNames x); first | (refine Keeps.bind x ?_ ?_; (try subst x); rotate_left; intro hx; rotate_left) | skip)
    | with_reducible apply Keeps.adcLinkBack
    | with_reducible apply Keeps.icLinkUp
    | with_reducible apply Keeps.put
    | with_reducible apply Keeps.setHb
    | with_reducible apply Keeps.undeclaredOut
    | split
    | simp only [id_eq]

theorem Keeps.forwardAll (s : State) (hs : Keeps μ σ s) (m_fwd : μ .fwd) :
    Keeps μ σ (State.forwardAll s) := by
  unfold State.forwardAll
  repeat' first
    | with_reducible assumption
    | intro _
    | with_reducible apply Keeps.ite
    | ((fail_if_no_progress extract_lets +onlyGivenNames x); first | (refine Keeps.bind x ?_ ?_; (try subst x); rotate_left; intro hx; rotate_left) | skip)
    | simp only [Keeps.upd_fwd m_fwd]

theorem Keeps.linkPass (s : State) (hs : Keeps μ σ s) (m_space : μ .space) (m_free : μ .free) (m_log : μ .log) (m_ten : μ .ten) (m_ic : μ .ic) (m_safeUnrec : μ .safeUnrec) (m_safeIrq : μ .safeIrq) (m_cdg : μ .cdg) (m_fwd : μ .fwd) (m_adc : μ .adc) (m_fan : μ .fan) (m_hb : μ .hb) (m_clk : μ .clk) (m_pdErrs : μ .pdErrs) :
    Keeps μ σ (State.linkPass s) := by
  unfold State.linkPass
  repeat' first
    | with_reducible assumption
    | intro _
    | with_reducible apply Keeps.ite
    | ((fail_if_no_progress extract_lets +onlyGivenNames x); first | (refine Keeps.bind x ?_ ?_; (try subst x); rotate_left; intro hx; rotate_left) | skip)
    | with_reducible apply Keeps.aonLog
    | with_reducible apply Keeps.askWarm
    | with_reducible apply Keeps.auditEvent
    | with_reducible apply Keeps.causesOut
    | with_reducible apply Keeps.each
    | with_reducible apply Keeps.forwardAll
    | with_reducible apply Keeps.icPulse
    | with_reducible apply Keeps.linkReports
    | with_reducible apply Keeps.linkSet
    | with_reducible apply Keeps.setClk
    | split
    | simp only [id_eq]

theorem Keeps.of_execD2dLinkCheckPass (s : State) (hs : Keeps μ σ s) (m_space : μ .space) (m_free : μ .free) (m_log : μ .log) (m_ten : μ .ten) (m_ic : μ .ic) (m_safeUnrec : μ .safeUnrec) (m_safeIrq : μ .safeIrq) (m_cdg : μ .cdg) (m_fwd : μ .fwd) (m_adc : μ .adc) (m_fan : μ .fan) (m_hb : μ .hb) (m_clk : μ .clk) (m_pdErrs : μ .pdErrs) :
    KeepsO μ σ (execD2dLinkCheckPass s) := by
  unfold execD2dLinkCheckPass
  repeat' first
    | with_reducible assumption
    | intro _
    | with_reducible apply KeepsO.next
    | with_reducible apply Keeps.ite
    | with_reducible apply Keeps.linkPass

theorem Keeps.of_execD2dNoRecovery (s : State) (hs : Keeps μ σ s) (m_space : μ .space) (m_now : μ .now) (m_campusOff : μ .campusOff) (m_cl : μ .cl) (m_clk : μ .clk) :
    KeepsO μ σ (execD2dNoRecovery s) := by
  unfold execD2dNoRecovery
  repeat' first
    | with_reducible assumption
    | intro _
    | with_reducible apply KeepsO.next
    | with_reducible apply Keeps.ite
    | ((fail_if_no_progress extract_lets +onlyGivenNames x); first | (refine Keeps.bind x ?_ ?_; (try subst x); rotate_left; intro hx; rotate_left) | (refine KeepsO.bind x ?_ ?_; (try subst x); rotate_left; intro hx; rotate_left) | skip)
    | with_reducible apply Keeps.askWarm
    | with_reducible apply Keeps.reach
    | split
    | simp only [id_eq]

end Sys2Proof.Machine
end

