-- ==== Sys2Proof/Laws/KeepsSkehilMem.lean ====
section
/-! SUPPORT. What each operation of Machine/SkehilMem.lean keeps: the queue, the clock's direction, the canonical form of the register
space, and every part of the state it does not name (`Keeps`). -/

set_option linter.unusedTactic false
set_option linter.unreachableTactic false
set_option linter.unusedSimpArgs false
set_option linter.unusedVariables false

namespace Sys2Proof.Machine

variable {μ : Part → Prop} {σ : State}

theorem Keeps.skLoad (s : State) (k : Fin 4) (e : Ecc) (rd : Rg) (ra : Rg) (imm : BitVec 18) (de : Ecc) (size : ℕ) (pick : Word → ℕ → Word) (hs : Keeps μ σ s) (m_space : μ .space) (m_free : μ .free) (m_rdata : μ .rdata) (m_wres : μ .wres) (m_banks : μ .banks) (m_log : μ .log) (m_ten : μ .ten) (m_ic : μ .ic) (m_broken : μ .broken) (m_safe : μ .safe) (m_cmds : μ .cmds) (m_cd : μ .cd) (m_fwd : μ .fwd) (m_sk : μ .sk) (m_le : μ .le) :
    Keeps μ σ (State.skLoad s k e rd ra imm de size pick) := by
  unfold State.skLoad
  repeat' first
    | with_reducible assumption
    | intro _
    | with_reducible apply Keeps.ite
    | ((fail_if_no_progress extract_lets +onlyGivenNames x); first | (refine Keeps.bind x ?_ ?_; (try subst x); rotate_left; intro hx; rotate_left) | skip)
    | with_reducible apply Keeps.busRead
    | with_reducible apply Keeps.setCore
    | with_reducible apply Keeps.skCause
    | with_reducible apply Keeps.skEcc
    | with_reducible apply Keeps.skStep
    | with_reducible apply Keeps.skWrite
    | with_reducible apply Keeps.of_fst (by assumption)
    | with_reducible apply Keeps.of_snd (by assumption)
    | split
    | simp only [id_eq]

theorem Keeps.skStore (s : State) (k : Fin 4) (e : Ecc) (rs : Rg) (ra : Rg) (imm : BitVec 18) (de : Ecc) (size : ℕ) (merge : Word → ℕ → Word → Word) (hs : Keeps μ σ s) (m_space : μ .space) (m_campusOff : μ .campusOff) (m_free : μ .free) (m_wres : μ .wres) (m_banks : μ .banks) (m_log : μ .log) (m_ten : μ .ten) (m_ic : μ .ic) (m_broken : μ .broken) (m_safe : μ .safe) (m_cmds : μ .cmds) (m_cd : μ .cd) (m_cdg : μ .cdg) (m_fwd : μ .fwd) (m_sk : μ .sk) (m_sk0mem : μ .sk0mem) (m_subIn : μ .subIn) (m_subOut : μ .subOut) (m_cl : μ .cl) (m_isl : μ .isl) (m_adc : μ .adc) (m_fan : μ .fan) (m_fio : μ .fio) (m_zb : μ .zb) (m_pnl : μ .pnl) (m_hb : μ .hb) (m_boot : μ .boot) (m_clk : μ .clk) (m_ucal : μ .ucal) (m_le : μ .le) :
    Keeps μ σ (State.skStore s k e rs ra imm de size merge) := by
  unfold State.skStore
  repeat' first
    | with_reducible assumption
    | intro _
    | with_reducible apply Keeps.ite
    | ((fail_if_no_progress extract_lets +onlyGivenNames x); first | (refine Keeps.bind x ?_ ?_; (try subst x); rotate_left; intro hx; rotate_left) | skip)
    | with_reducible apply Keeps.asWho
    | with_reducible apply Keeps.busWrite
    | with_reducible apply Keeps.setCore
    | with_reducible apply Keeps.setSkMem
    | with_reducible apply Keeps.skCause
    | with_reducible apply Keeps.of_fst (by assumption)
    | with_reducible apply Keeps.skEcc
    | with_reducible apply Keeps.skStep

theorem Keeps.of_execLdw (k : Fin 4) (e : Ecc) (rd : Rg) (ra : Rg) (imm : BitVec 18) (de : Ecc) (s : State) (hs : Keeps μ σ s) (m_space : μ .space) (m_free : μ .free) (m_rdata : μ .rdata) (m_wres : μ .wres) (m_banks : μ .banks) (m_log : μ .log) (m_ten : μ .ten) (m_ic : μ .ic) (m_broken : μ .broken) (m_safe : μ .safe) (m_cmds : μ .cmds) (m_cd : μ .cd) (m_fwd : μ .fwd) (m_sk : μ .sk) (m_le : μ .le) :
    KeepsO μ σ (execLdw k e rd ra imm de s) := by
  unfold execLdw
  repeat' first
    | with_reducible assumption
    | intro _
    | with_reducible apply KeepsO.next
    | with_reducible apply Keeps.ite
    | with_reducible apply Keeps.skLoad

theorem Keeps.of_execLdh (k : Fin 4) (e : Ecc) (rd : Rg) (ra : Rg) (imm : BitVec 18) (de : Ecc) (s : State) (hs : Keeps μ σ s) (m_space : μ .space) (m_free : μ .free) (m_rdata : μ .rdata) (m_wres : μ .wres) (m_banks : μ .banks) (m_log : μ .log) (m_ten : μ .ten) (m_ic : μ .ic) (m_broken : μ .broken) (m_safe : μ .safe) (m_cmds : μ .cmds) (m_cd : μ .cd) (m_fwd : μ .fwd) (m_sk : μ .sk) (m_le : μ .le) :
    KeepsO μ σ (execLdh k e rd ra imm de s) := by
  unfold execLdh
  repeat' first
    | with_reducible assumption
    | intro _
    | with_reducible apply KeepsO.next
    | with_reducible apply Keeps.ite
    | with_reducible apply Keeps.skLoad

theorem Keeps.of_execLdhu (k : Fin 4) (e : Ecc) (rd : Rg) (ra : Rg) (imm : BitVec 18) (de : Ecc) (s : State) (hs : Keeps μ σ s) (m_space : μ .space) (m_free : μ .free) (m_rdata : μ .rdata) (m_wres : μ .wres) (m_banks : μ .banks) (m_log : μ .log) (m_ten : μ .ten) (m_ic : μ .ic) (m_broken : μ .broken) (m_safe : μ .safe) (m_cmds : μ .cmds) (m_cd : μ .cd) (m_fwd : μ .fwd) (m_sk : μ .sk) (m_le : μ .le) :
    KeepsO μ σ (execLdhu k e rd ra imm de s) := by
  unfold execLdhu
  repeat' first
    | with_reducible assumption
    | intro _
    | with_reducible apply KeepsO.next
    | with_reducible apply Keeps.ite
    | with_reducible apply Keeps.skLoad

theorem Keeps.of_execLdb (k : Fin 4) (e : Ecc) (rd : Rg) (ra : Rg) (imm : BitVec 18) (de : Ecc) (s : State) (hs : Keeps μ σ s) (m_space : μ .space) (m_free : μ .free) (m_rdata : μ .rdata) (m_wres : μ .wres) (m_banks : μ .banks) (m_log : μ .log) (m_ten : μ .ten) (m_ic : μ .ic) (m_broken : μ .broken) (m_safe : μ .safe) (m_cmds : μ .cmds) (m_cd : μ .cd) (m_fwd : μ .fwd) (m_sk : μ .sk) (m_le : μ .le) :
    KeepsO μ σ (execLdb k e rd ra imm de s) := by
  unfold execLdb
  repeat' first
    | with_reducible assumption
    | intro _
    | with_reducible apply KeepsO.next
    | with_reducible apply Keeps.ite
    | with_reducible apply Keeps.skLoad

theorem Keeps.of_execLdbu (k : Fin 4) (e : Ecc) (rd : Rg) (ra : Rg) (imm : BitVec 18) (de : Ecc) (s : State) (hs : Keeps μ σ s) (m_space : μ .space) (m_free : μ .free) (m_rdata : μ .rdata) (m_wres : μ .wres) (m_banks : μ .banks) (m_log : μ .log) (m_ten : μ .ten) (m_ic : μ .ic) (m_broken : μ .broken) (m_safe : μ .safe) (m_cmds : μ .cmds) (m_cd : μ .cd) (m_fwd : μ .fwd) (m_sk : μ .sk) (m_le : μ .le) :
    KeepsO μ σ (execLdbu k e rd ra imm de s) := by
  unfold execLdbu
  repeat' first
    | with_reducible assumption
    | intro _
    | with_reducible apply KeepsO.next
    | with_reducible apply Keeps.ite
    | with_reducible apply Keeps.skLoad

theorem Keeps.of_execStw (k : Fin 4) (e : Ecc) (rs : Rg) (ra : Rg) (imm : BitVec 18) (s : State) (hs : Keeps μ σ s) (m_space : μ .space) (m_campusOff : μ .campusOff) (m_free : μ .free) (m_wres : μ .wres) (m_banks : μ .banks) (m_log : μ .log) (m_ten : μ .ten) (m_ic : μ .ic) (m_broken : μ .broken) (m_safe : μ .safe) (m_cmds : μ .cmds) (m_cd : μ .cd) (m_cdg : μ .cdg) (m_fwd : μ .fwd) (m_sk : μ .sk) (m_sk0mem : μ .sk0mem) (m_subIn : μ .subIn) (m_subOut : μ .subOut) (m_cl : μ .cl) (m_isl : μ .isl) (m_adc : μ .adc) (m_fan : μ .fan) (m_fio : μ .fio) (m_zb : μ .zb) (m_pnl : μ .pnl) (m_hb : μ .hb) (m_boot : μ .boot) (m_clk : μ .clk) (m_ucal : μ .ucal) (m_le : μ .le) :
    KeepsO μ σ (execStw k e rs ra imm s) := by
  unfold execStw
  repeat' first
    | with_reducible assumption
    | intro _
    | with_reducible apply KeepsO.next
    | with_reducible apply Keeps.ite
    | with_reducible apply Keeps.skStore

theorem Keeps.of_execSth (k : Fin 4) (e : Ecc) (rs : Rg) (ra : Rg) (imm : BitVec 18) (de : Ecc) (s : State) (hs : Keeps μ σ s) (m_space : μ .space) (m_campusOff : μ .campusOff) (m_free : μ .free) (m_wres : μ .wres) (m_banks : μ .banks) (m_log : μ .log) (m_ten : μ .ten) (m_ic : μ .ic) (m_broken : μ .broken) (m_safe : μ .safe) (m_cmds : μ .cmds) (m_cd : μ .cd) (m_cdg : μ .cdg) (m_fwd : μ .fwd) (m_sk : μ .sk) (m_sk0mem : μ .sk0mem) (m_subIn : μ .subIn) (m_subOut : μ .subOut) (m_cl : μ .cl) (m_isl : μ .isl) (m_adc : μ .adc) (m_fan : μ .fan) (m_fio : μ .fio) (m_zb : μ .zb) (m_pnl : μ .pnl) (m_hb : μ .hb) (m_boot : μ .boot) (m_clk : μ .clk) (m_ucal : μ .ucal) (m_le : μ .le) :
    KeepsO μ σ (execSth k e rs ra imm de s) := by
  unfold execSth
  repeat' first
    | with_reducible assumption
    | intro _
    | with_reducible apply KeepsO.next
    | with_reducible apply Keeps.ite
    | with_reducible apply Keeps.skStore

theorem Keeps.of_execStb (k : Fin 4) (e : Ecc) (rs : Rg) (ra : Rg) (imm : BitVec 18) (de : Ecc) (s : State) (hs : Keeps μ σ s) (m_space : μ .space) (m_campusOff : μ .campusOff) (m_free : μ .free) (m_wres : μ .wres) (m_banks : μ .banks) (m_log : μ .log) (m_ten : μ .ten) (m_ic : μ .ic) (m_broken : μ .broken) (m_safe : μ .safe) (m_cmds : μ .cmds) (m_cd : μ .cd) (m_cdg : μ .cdg) (m_fwd : μ .fwd) (m_sk : μ .sk) (m_sk0mem : μ .sk0mem) (m_subIn : μ .subIn) (m_subOut : μ .subOut) (m_cl : μ .cl) (m_isl : μ .isl) (m_adc : μ .adc) (m_fan : μ .fan) (m_fio : μ .fio) (m_zb : μ .zb) (m_pnl : μ .pnl) (m_hb : μ .hb) (m_boot : μ .boot) (m_clk : μ .clk) (m_ucal : μ .ucal) (m_le : μ .le) :
    KeepsO μ σ (execStb k e rs ra imm de s) := by
  unfold execStb
  repeat' first
    | with_reducible assumption
    | intro _
    | with_reducible apply KeepsO.next
    | with_reducible apply Keeps.ite
    | with_reducible apply Keeps.skStore

theorem Keeps.of_execPwrr (k : Fin 4) (e : Ecc) (rd : Rg) (ra : Rg) (rb : Rg) (prio : BitVec 4) (s : State) (hs : Keeps μ σ s) (m_space : μ .space) (m_free : μ .free) (m_log : μ .log) (m_ten : μ .ten) (m_ic : μ .ic) (m_sk : μ .sk) (m_cl : μ .cl) :
    KeepsO μ σ (execPwrr k e rd ra rb prio s) := by
  unfold execPwrr
  repeat' first
    | with_reducible assumption
    | intro _
    | with_reducible apply KeepsO.next
    | with_reducible apply Keeps.ite
    | ((fail_if_no_progress extract_lets +onlyGivenNames x); first | (refine Keeps.bind x ?_ ?_; (try subst x); rotate_left; intro hx; rotate_left) | (refine KeepsO.bind x ?_ ?_; (try subst x); rotate_left; intro hx; rotate_left) | skip)
    | with_reducible apply Keeps.of_fst (by assumption)
    | with_reducible apply Keeps.rwHandover
    | with_reducible apply Keeps.skCause
    | with_reducible apply Keeps.skStep
    | with_reducible apply Keeps.skWrite

end Sys2Proof.Machine
end

