-- ==== Sys2Proof/Laws/KeepsStatusItems.lean ====
section
/-! SUPPORT. What each operation of Machine/StatusItems.lean keeps: the queue, the clock's direction, the canonical form of the register
space, and every part of the state it does not name (`Keeps`). -/

set_option linter.unusedTactic false
set_option linter.unreachableTactic false
set_option linter.unusedSimpArgs false
set_option linter.unusedVariables false

namespace Sys2Proof.Machine

variable {μ : Part → Prop} {σ : State}

theorem Keeps.statusPoint (s : State) (i : ℕ) (bind : Word) (hs : Keeps μ σ s) (m_space : μ .space) (m_free : μ .free) (m_wres : μ .wres) (m_log : μ .log) (m_ten : μ .ten) (m_broken : μ .broken) (m_safe : μ .safe) (m_cmds : μ .cmds) (m_cd : μ .cd) (m_fwd : μ .fwd) (m_sk : μ .sk) :
    Keeps μ σ (State.statusPoint s i bind) := by
  unfold State.statusPoint
  repeat' first
    | with_reducible assumption
    | intro _
    | with_reducible apply Keeps.ite
    | ((fail_if_no_progress extract_lets +onlyGivenNames x); first | (refine Keeps.bind x ?_ ?_; (try subst x); rotate_left; intro hx; rotate_left) | skip)
    | with_reducible apply Keeps.ptSource
    | split
    | simp only [id_eq]

theorem Keeps.tickMeas (s : State) (m : TickMeas) (hs : Keeps μ σ s) (m_space : μ .space) (m_fio : μ .fio) :
    Keeps μ σ (State.tickMeas s m) := by
  unfold State.tickMeas
  repeat' first
    | with_reducible assumption
    | intro _
    | with_reducible apply Keeps.ite
    | ((fail_if_no_progress extract_lets +onlyGivenNames x); first | (refine Keeps.bind x ?_ ?_; (try subst x); rotate_left; intro hx; rotate_left) | skip)
    | with_reducible apply Keeps.each
    | with_reducible apply Keeps.put
    | with_reducible apply Keeps.vfieldMeas
    | split
    | simp only [id_eq]

theorem Keeps.tickGathered (s : State) (hs : Keeps μ σ s) (m_cd : μ .cd) (m_adc : μ .adc) :
    Keeps μ σ (State.tickGathered s) := by
  unfold State.tickGathered
  repeat' first
    | with_reducible assumption
    | intro _
    | with_reducible apply Keeps.ite
    | ((fail_if_no_progress extract_lets +onlyGivenNames x); first | (refine Keeps.bind x ?_ ?_; (try subst x); rotate_left; intro hx; rotate_left) | skip)
    | simp only [Keeps.upd_cd_adc m_cd m_adc]

theorem Keeps.statusTick (s : State) (m : TickMeas) (hs : Keeps μ σ s) (m_space : μ .space) (m_free : μ .free) (m_wres : μ .wres) (m_log : μ .log) (m_ten : μ .ten) (m_broken : μ .broken) (m_safe : μ .safe) (m_cmds : μ .cmds) (m_cd : μ .cd) (m_fwd : μ .fwd) (m_sk : μ .sk) (m_adc : μ .adc) (m_fio : μ .fio) :
    Keeps μ σ (State.statusTick s m) := by
  unfold State.statusTick
  repeat' first
    | with_reducible assumption
    | intro _
    | with_reducible apply Keeps.ite
    | ((fail_if_no_progress extract_lets +onlyGivenNames x); first | (refine Keeps.bind x ?_ ?_; (try subst x); rotate_left; intro hx; rotate_left) | skip)
    | with_reducible apply Keeps.each
    | with_reducible apply Keeps.statusPoint
    | with_reducible apply Keeps.tickGathered
    | with_reducible apply Keeps.tickMeas
    | split
    | simp only [id_eq]

theorem Keeps.of_execStatusItemsTick (m : TickMeas) (s : State) (hs : Keeps μ σ s) (m_space : μ .space) (m_free : μ .free) (m_wres : μ .wres) (m_log : μ .log) (m_ten : μ .ten) (m_broken : μ .broken) (m_safe : μ .safe) (m_cmds : μ .cmds) (m_cd : μ .cd) (m_fwd : μ .fwd) (m_sk : μ .sk) (m_adc : μ .adc) (m_fio : μ .fio) :
    KeepsO μ σ (execStatusItemsTick m s) := by
  unfold execStatusItemsTick
  repeat' first
    | with_reducible assumption
    | intro _
    | with_reducible apply KeepsO.next
    | with_reducible apply Keeps.ite
    | ((fail_if_no_progress extract_lets +onlyGivenNames x); first | (refine Keeps.bind x ?_ ?_; (try subst x); rotate_left; intro hx; rotate_left) | (refine KeepsO.bind x ?_ ?_; (try subst x); rotate_left; intro hx; rotate_left) | skip)
    | with_reducible apply Keeps.statusTick
    | split
    | simp only [id_eq]

end Sys2Proof.Machine
end

