-- ==== Sys2Proof/Laws/Paths.lean ====
section
/-! SUPPORT. Accesses by a path: how a meaning written over `byPath`, `auditW`, `cfgWrite` or `plainW` gives one of the forms
`does`, `doesPlain`, `configures` and `refuses`. -/

namespace Sys2Proof.Machine
theorem State.ringReach_open (s : State) (h : s.log.ring.length < ringSize - ringReserve) : s.ringReach = s := by
  unfold State.ringReach
  simp [Nat.not_le.mpr h]
theorem State.who_ifc (s : State) (p : Path) : (s.who p).ifc ≠ 0 := by cases p <;> simp [State.who]
theorem State.auditW_opened (s : State) (p : Path) (t : Tgt) (res : Res) (eff : State → State) (h : s.ringOpen) :
    (s.opened p).auditW (s.who p) t res eff = { eff (s.logged p t res) with wres := res } := by
  rw [State.auditW_enter (s.opened p) _ _ _ _ (s.who_ifc p) h.1, State.ringReach_open (s.opened p) h.1]; rfl
theorem State.byPath_opened (s : State) (p : Path) (f : Who → State → State) (h : s.pathOpen p) :
    s.byPath p f = f (s.who p) (s.opened p) := State.byPath_go s p f h.1 h.2
@[simp] theorem State.opened_word (s : State) (p : Path) (a : Nat) : (s.opened p).word a = s.word a := rfl
theorem State.cfgWrite_opened (s : State) (p : Path) (a : Nat) (data : Word) (chk : Word → Res) (after : Word → Word → State → State)
    (fs : List Fld) (h : s.ringOpen) (hf : fieldsAt a = some fs) (hr : rangesOk fs data = true) (hc : chk (mergeWrite fs (s.word a) data) = Res.applied) :
    (s.opened p).cfgWrite (s.who p) a data chk after =
      { after (s.word a) (mergeWrite fs (s.word a) data)
          ((s.logged p (Tgt.reg a (s.word a) data) Res.applied).setWord a (mergeWrite fs (s.word a) data)) with wres := Res.applied } := by
  unfold State.cfgWrite
  simp only [hf, hr, State.opened_word, hc, if_true]
  rw [State.auditW_opened _ _ _ _ _ h]
theorem State.refuseWrite_opened (s : State) (p : Path) (a : Nat) (data : Word) (res : Res) (h : s.ringOpen) (ha : audited a data = true) :
    (s.opened p).refuseWrite (s.who p) a data res = { s.logged p (Tgt.reg a (s.word a) data) res with wres := res } := by
  unfold State.refuseWrite
  rw [if_pos ha]
  exact s.auditW_opened p _ _ _ h

variable {s : State} {p : Path} {c : Instr} {f : Who → State → State}
theorem does_of {t : Tgt} {res : Res} {g : State → State} (he : exec c s = .next (s.byPath p f))
    (hf : f (s.who p) (s.opened p) = (s.opened p).auditW (s.who p) t res g) : s.does p c t res g := by
  intro hp ho; rw [he, State.byPath_opened _ _ _ hp, hf, State.auditW_opened _ _ _ _ _ ho]
theorem refuses_of {a : Nat} {data : Word} {res : Res} (he : exec c s = .next (s.byPath p f))
    (hf : f (s.who p) (s.opened p) = (s.opened p).refuseWrite (s.who p) a data res) : s.refuses p c a data res := by
  unfold State.refuses State.refuseWrite at *
  split
  · rename_i ha; exact does_of he (by rw [hf, if_pos ha]; rfl)
  · rename_i ha; intro hp; rw [he, State.byPath_opened _ _ _ hp, hf, if_neg ha]; rfl
theorem doesPlain_of {res : Res} {g : State → State} (he : exec c s = .next (s.byPath p f))
    (hf : f (s.who p) (s.opened p) = (s.opened p).plainW res g) : s.doesPlain p c res g := by
  intro hp; rw [he, State.byPath_opened _ _ _ hp, hf]; rfl
theorem configures_of {a : Nat} {data : Word} {chk : Word → Res} {g : Word → Word → State → State} (he : exec c s = .next (s.byPath p f))
    (hf : f (s.who p) (s.opened p) = (s.opened p).cfgWrite (s.who p) a data chk g) : s.configures p c a data chk (g (s.word a)) := by
  intro fs h1 h2 h3 hp ho
  rw [he, State.byPath_opened _ _ _ hp, hf, State.cfgWrite_opened _ _ _ _ _ _ fs ho h1 h2 h3]
end Sys2Proof.Machine
end

