-- ==== Sys2Proof/Laws/Skehil.lean ====
section
/-! SUPPORT. The shared step of the Skehil instructions: on a core that can retire one, the fetch is counted and the effect
happens. -/

namespace Sys2Proof.Machine

@[simp] theorem State.core_inc (s : State) (f : Fld) (n i j k : Nat) : (s.inc f n i j).core k = s.core k := rfl

@[simp] theorem State.core_put (s : State) (f : Fld) (v i j k : Nat) : (s.put f v i j).core k = s.core k := rfl

@[simp] theorem State.core_setWord (s : State) (a : Nat) (v : Word) (k : Nat) : (s.setWord a v).core k = s.core k := rfl

@[simp] theorem State.setCore_setCore (s : State) (k : Nat) (c d : SkCore) : (s.setCore k c).setCore k d = s.setCore k d := by
  simp [State.setCore, putAt_putAt]

theorem State.core_skFetched (s : State) (k : Fin 4) (cost : Nat) (src : List Rg) (e : Ecc) :
    (s.skFetched k cost src e).core k
      = { s.core k with cycles := (s.core k).cycles + s.skCost k cost src, loaded := none } := by
  unfold State.skFetched
  split <;> exact State.core_setCore _ _ _

/-- An instruction on a core that can retire it: the cycles and a corrected error are counted, and its effect happens. -/
theorem State.skStep_go {s : State} {k : Fin 4} {cost : Nat} {src : List Rg} {e : Ecc} (f : State → State)
    (h : s.skFree k cost src) (he : e = .clean ∨ e = .sbe) : s.skStep k cost src e f = f (s.skFetched k cost src e) := by
  obtain ⟨hr, hw, hb, hp, hm⟩ := h
  have hc : ∀ c, (s.setCore k c).core k = c := fun c => State.core_setCore _ _ _
  unfold State.skStep
  have h1 : (!s.skRuns k || (s.core k).wait.isSome) = false := by simp [hr, hw]
  simp only [h1, Bool.false_eq_true, if_false]
  let c' : SkCore := { s.core k with cycles := (s.core k).cycles + s.skCost k cost src, loaded := none }
  have h0 : (s.core k).cycles + cost + (s.core k).stall src = (s.core k).cycles + s.skCost k cost src := Nat.add_assoc _ _ _
  simp only [h0]
  have h2 : ((k.val != 0) && decide ((s.setCore k c').skBudget k ≤ (s.core k).cycles + s.skCost k cost src)) = false := by
    rcases hb with hb | hb
    · simp [hb]
    · have : (s.setCore k c').skBudget k = s.skBudget k := by
        simp [c', State.skBudget, State.skTask, hc]
      rw [this]
      simp only [Bool.and_eq_false_iff, decide_eq_false_iff_not]
      right; omega
  rw [if_neg (by rw [h2]; decide)]
  have h3 : (s.setCore k c').skPcOk k (s.core k).pc = true := by
    rw [← hp]; simp only [c', State.skPcOk, State.skTask, hc, State.setCore_rest]; rfl
  rw [if_neg (by rw [h3]; decide)]
  have hm' : ((s.core k).bad.contains ((s.core k).pc / 4 * 4)) = false := by simpa using hm
  rcases he with rfl | rfl
  · simp only [State.skEcc, hc, hm', Bool.false_eq_true, if_false, if_true]
    rfl
  · simp only [State.skEcc, hc, hm', Bool.false_eq_true, if_false, if_true]
    rfl

/-- The step of an instruction that writes rd. -/
theorem State.skWrite_eq (s : State) (k : Nat) (rd : Rg) (r : FRes) :
    s.skWrite k rd r = s.setCore k ((s.core k).wrote rd r.val r.flags) := by
  unfold State.skWrite SkCore.wrote SkCore.advance flagOr
  simp only
  congr 2
  unfold SkCore.setReg
  split <;> rfl

theorem SkCore.reg_cycles (c : SkCore) (n : Nat) (r : Rg) : ({ c with cycles := n } : SkCore).reg r = c.reg r := rfl

end Sys2Proof.Machine
end

