-- ==== Sys2Proof/WellFormed.lean ====
section
/-! DEFINITION. Which terms of the syntax are commands: indices, lengths and field widths within what the spec gives. -/

namespace Sys2Proof

/-- A double-bit error names a word of the record it lies in. -/
def Ecc.wf : Ecc → Bool
  | .dbe w => w < 16
  | _ => true

def LeEcc.wf (e : LeEcc) : Bool := e.record.wf && e.state.wf && e.pv.wf && e.sp.wf && e.out.wf

/-- Converter codes of 10 bits (R234). -/
def CdInst.wf (x : CdInst) : Bool := x.a < 1024 && x.b < 1024 && x.v.natAbs < 1024

/-- Eight samples in a row of a current converter (R239). -/
def zeroWf (l : List Nat) : Bool := l.length == 8 && l.all (· < 1024)

def CdSamples.wf (x : CdSamples) : Bool :=
  (x.own.length == 6 || x.own.length == 7) && x.own.all CdInst.wf && x.mate.length == x.own.length && x.mate.all CdInst.wf

/-- One current and one voltage for each segment. -/
def TickMeas.wf (m : TickMeas) : Bool := m.zbMA.length == 16 && m.zbV.length == 16 && m.vfield < 65536 && m.vcoil < 65536

/-- The header fields of a message within their widths (R496). -/
def Msg.wf (m : Msg) : Bool :=
  m.version < 256 && m.typ < 256 && m.key < 256 && m.hops < 256 && m.src < 65536 && m.dst < 65536 && m.epoch < 2 ^ 32 &&
    m.seq < 2 ^ 32 && m.sendTime < 2 ^ 64 && m.tenant < 256 && m.gen < 256 && m.mac < 2 ^ 64

/-- Payload bytes of a DLC (R451). -/
def dlcBytes (fdf : Bool) (dlc : Nat) : Nat :=
  if dlc ≤ 8 then dlc else if fdf then [12, 16, 20, 24, 32, 48, 64].getD (dlc - 9) 64 else 8

def CanFrame.wf (f : CanFrame) : Bool :=
  (if f.ide then f.id < 2 ^ 29 else f.id < 2 ^ 11) && f.dlc < 16 && f.data.length == dlcBytes f.fdf f.dlc
    && (f.fdf || !f.brs && !f.esi && !f.res)

/-- Flash pages of 256 bytes within 64 MiB. -/
def pagesWf : Option (List (Nat × List Byte)) → Bool
  | none => true
  | some l => l.all (fun e => e.1 < 2 ^ 18 && e.2.length == 256)

/-- Card blocks of 512 bytes. -/
def cardWf : Option (List (Nat × List Byte)) → Bool
  | none => true
  | some l => l.all (fun e => e.2.length == 512)

def D2dFrame.wf : D2dFrame → Bool
  | .heartbeat ms => ms.all (fun m => m.2 < 65536)
  | _ => true

/-- The command is well formed. -/
def Instr.wf : Instr → Bool
  | .registerWrite _ _ _ => true
  | .unmappedAccess _ _ _ => true
  | .powerAccessDropped _ _ _ _ => true
  | .safeRelAll _ _ => true
  | .safeRelCoil _ _ => true
  | .safeRelFan _ _ => true
  | .safeRelAo _ _ => true
  | .safeRelDo _ _ => true
  | .safeRelZbpwr _ _ => true
  | .pointValueWrite _ i _ ecc => i < 32768 && ecc.wf
  | .pointSourceWrite i kind ref _ _ remote _ ecc => i < 32768 && kind < 16 && ref < 2 ^ 28 && ecc.wf && remote.all (fun r => r.1 < 5 && r.2.1 < 65536)
  | .pointRelinquish _ _ => true
  | .pointBindWrite _ i _ => i < 32768
  | .pointConfigWrite _ i _ => i < 32768
  | .pointValueRead _ i ecc => i < 32768 && ecc.wf
  | .pointAgeTick upsets => upsets.all (fun u => u.1 < 32768 && u.2.wf)
  | .profileWrite _ n k _ => n < 256 && k < 3
  | .zoneCfgWrite _ z _ => z < 512
  | .statusItemsTick m => m.wf
  | .leFrameBoundary => true
  | .loopEvaluation ecc _ => ecc.wf
  | .lockstepRepeat _ => true
  | .leFaultNotice => true
  | .leFaultTimerExpiry => true
  | .leFaultTimerCancel => true
  | .leFuncRst _ => true
  | .outputQueueDrain => true
  | .oqTrendTimeout => true
  | .loopRecordWrite _ n k _ => n < 8192 && k < 16
  | .loopRecordApply _ => true
  | .leSwap _ _ => true
  | .leSwgRequest _ _ => true
  | .leSwgCancel _ _ => true
  | .swapRequestApply _ => true
  | .groupRequestApply _ => true
  | .leStateSelWrite _ _ => true
  | .leStateCopy => true
  | .leStateReinit _ _ => true
  | .loopReinitApply _ => true
  | .lxForceApply _ => true
  | .lxRelinquishApply _ => true
  | .add _ e _ _ _ => e.wf
  | .sub _ e _ _ _ => e.wf
  | .and _ e _ _ _ => e.wf
  | .ior _ e _ _ _ => e.wf
  | .eor _ e _ _ _ => e.wf
  | .andn _ e _ _ _ => e.wf
  | .shl _ e _ _ _ => e.wf
  | .shr _ e _ _ _ => e.wf
  | .asr _ e _ _ _ => e.wf
  | .ror _ e _ _ _ => e.wf
  | .cmp _ e _ _ _ => e.wf
  | .cmpu _ e _ _ _ => e.wf
  | .min _ e _ _ _ => e.wf
  | .max _ e _ _ _ => e.wf
  | .minu _ e _ _ _ => e.wf
  | .maxu _ e _ _ _ => e.wf
  | .mul _ e _ _ _ => e.wf
  | .mulhs _ e _ _ _ => e.wf
  | .mulhu _ e _ _ _ => e.wf
  | .quo _ e _ _ _ => e.wf
  | .quou _ e _ _ _ => e.wf
  | .mod _ e _ _ _ => e.wf
  | .modu _ e _ _ _ => e.wf
  | .adds _ e _ _ _ => e.wf
  | .subs _ e _ _ _ => e.wf
  | .addi _ e _ _ _ => e.wf
  | .andi _ e _ _ _ => e.wf
  | .iori _ e _ _ _ => e.wf
  | .eori _ e _ _ _ => e.wf
  | .cmpi _ e _ _ _ => e.wf
  | .cmpui _ e _ _ _ => e.wf
  | .shli _ e _ _ _ => e.wf
  | .shri _ e _ _ _ => e.wf
  | .asri _ e _ _ _ => e.wf
  | .lhi _ e _ _ => e.wf
  | .rori _ e _ _ _ => e.wf
  | .ldw _ e _ _ _ de => e.wf && de.wf
  | .ldh _ e _ _ _ de => e.wf && de.wf
  | .ldhu _ e _ _ _ de => e.wf && de.wf
  | .ldb _ e _ _ _ de => e.wf && de.wf
  | .ldbu _ e _ _ _ de => e.wf && de.wf
  | .stw _ e _ _ _ => e.wf
  | .sth _ e _ _ _ de => e.wf && de.wf
  | .stb _ e _ _ _ de => e.wf && de.wf
  | .beq _ e _ _ _ => e.wf
  | .bne _ e _ _ _ => e.wf
  | .blz _ e _ _ => e.wf
  | .bgez _ e _ _ => e.wf
  | .bgz _ e _ _ => e.wf
  | .blez _ e _ _ => e.wf
  | .jmp _ e _ => e.wf
  | .call _ e _ => e.wf
  | .jind _ e _ _ _ => e.wf
  | .pld _ e _ _ _ pe => e.wf && pe.wf
  | .pwr _ e _ _ _ _ pe => e.wf && pe.wf
  | .prel _ e _ _ _ pe => e.wf && pe.wf
  | .psrc _ e _ _ _ _ _ pe => e.wf && pe.wf
  | .pwrr _ e _ _ _ _ => e.wf
  | .lxrr _ e _ _ _ => e.wf
  | .lxrs _ e _ _ _ => e.wf
  | .lxwr _ e _ _ _ => e.wf
  | .lxsw _ e _ _ => e.wf
  | .lxgs _ e _ => e.wf
  | .lxri _ e _ => e.wf
  | .lxfo _ e _ _ _ => e.wf
  | .lxfr _ e _ _ => e.wf
  | .lxsync _ e _ => e.wf
  | .done _ e _ => e.wf
  | .brk _ e => e.wf
  | .sig _ e _ => e.wf
  | .rdt _ e _ _ _ => e.wf
  | .eret _ e => e.wf
  | .cflg _ e _ => e.wf
  | .fadd _ e _ _ _ => e.wf
  | .fsub _ e _ _ _ => e.wf
  | .fmul _ e _ _ _ => e.wf
  | .fdiv _ e _ _ _ => e.wf
  | .fmin _ e _ _ _ => e.wf
  | .fmax _ e _ _ _ => e.wf
  | .fabs _ e _ _ => e.wf
  | .fneg _ e _ _ => e.wf
  | .fsqrt _ e _ _ => e.wf
  | .fcmp _ e _ _ _ => e.wf
  | .ftoi _ e _ _ => e.wf
  | .itof _ e _ _ => e.wf
  | .utof _ e _ _ => e.wf
  | .fkind _ e _ _ => e.wf
  | .frnd _ e _ _ => e.wf
  | .fscl _ e _ _ _ => e.wf
  | .taskBudgetExpiry _ => true
  | .sk0InterruptTake => true
  | .taskActivatePeriodic => true
  | .taskDispatch _ => true
  | .lxReadResponse _ => true
  | .lxAck _ => true
  | .skMemoryWrite _ _ _ _ _ => true
  | .skFuncRst _ _ => true
  | .cdCycleBoundary n x => n < 32 && x.wf
  | .cdCommand n => n < 32
  | .cdZeroCheck n a b => n < 32 && zeroWf a && zeroWf b
  | .cdOvercurrent n => n < 32
  | .cdOpenDetect n => n < 32
  | .cdImbalance n => n < 32
  | .cdPullinEnd n x => n < 32 && x.wf
  | .cdHoldExpiry n x => n < 32 && x.wf
  | .cdPulseExpiry n x => n < 32 && x.wf
  | .cdClampEnd n x => n < 32 && x.wf
  | .cdFdTimeout n => n < 32
  | .cdSupplyExcursion _ v m => v < 65536 && m < 65536
  | .cdSupplyRecover v => v < 65536
  | .cdFaultClear _ n _ => n < 32
  | .cdCfgWrite _ n _ => n < 32
  | .cdPairFuncRst _ _ => true
  | .cdFuncRstComplete _ => true
  | .cdKinkObservationEnd n _ => n < 32
  | .cdDipObservationEnd n is => n < 32 && is.all (fun p => p.1 < 1024 && p.2 < 1024)
  | .cdReleaseBump n _ run => n < 32 && run.all (fun p => p.1 < 1024 && p.2 < 1024)
  | .cdLwinWrite _ _ => true
  | .cdLwinMinute => true
  | .cdLearnStroke _ n => n < 32
  | .cdLearnProbe _ n => n < 32
  | .cdLearnCancel _ n => n < 32
  | .cdStrokeStepEnd n => n < 32
  | .cdProbeDwellEnd n => n < 32
  | .cdHoldLrnWrite _ n _ => n < 32
  | .cdThermalUpdate n => n < 32
  | .cdRwWindow n => n < 32
  | .cdEnergyCheck n => n < 32
  | .cdBudgetUpdate v => v < 65536
  | .cdBudgetStageRise => true
  | .cdBudgetStageFall => true
  | .cdBudgetOver => true
  | .cdUnshed => true
  | .adcTrigger _ _ => true
  | .adcStartNormal _ _ => true
  | .adcStartUrgent _ _ => true
  | .adcStartupEnd _ => true
  | .adcConversionEnd _ code _ => code < 4096
  | .adcPassMerge _ => true
  | .pdTickArrival => true
  | .accPublication => true
  | .adcInjectionSample _ => true
  | .adcCheckStart _ => true
  | .adcCheckComplete _ codes => 1 ≤ codes.length && codes.length ≤ 9 && codes.all (fun x => x.1 < 4096)
  | .adcTimerExpiry _ => true
  | .adcCtrlWrite _ _ _ => true
  | .adcLocalMean => true
  | .adcFuncRst _ _ => true
  | .fanEval => true
  | .fanCommand _ => true
  | .fanQualChange _ => true
  | .fanTachEdge _ _ => true
  | .fanTachTimeout _ => true
  | .fanKickTimeout _ => true
  | .fanTachFault _ => true
  | .fanWatchEnd _ => true
  | .fanSupervisionLost _ => true
  | .fanGroupTrigger _ => true
  | .fanGroupTest _ _ _ => true
  | .fanTestEnd _ => true
  | .fanFaultClear _ _ _ => true
  | .fanGroupFuncRst _ _ => true
  | .guardSample _ _ _ _ => true
  | .guardTrip => true
  | .guardRelease => true
  | .guardSenseDiff => true
  | .guardTgOpen => true
  | .diStateChange _ _ k => 0 < k
  | .diCfgWrite _ _ _ => true
  | .diCntset _ _ _ => true
  | .doEval => true
  | .doCommand _ => true
  | .doMinTimeExpiry _ => true
  | .doOvercurrent _ => true
  | .doThermalTrip _ => true
  | .doFaultClear _ _ _ => true
  | .doOpenloadDetect _ => true
  | .doOpenloadClear _ => true
  | .aoUpdate => true
  | .aoCommand _ => true
  | .aoOverload _ => true
  | .aoFaultClear _ _ _ => true
  | .vfieldLow v => v < 65536
  | .vfieldRecover v => v < 65536
  | .zbDataFrame _ f => f.wf
  | .zbRemoteFrame _ ide id => if ide then id < 2 ^ 29 else id < 2 ^ 11
  | .zbAnnounce _ f => f.wf
  | .zbHeartbeat _ f => f.wf
  | .zbNodeWrite _ f => f.wf
  | .zbReply _ f => f.wf
  | .zbTxreq _ _ _ => true
  | .zbTxabort _ _ _ => true
  | .zbFrameChoice _ => true
  | .zbTxEnd _ _ _ => true
  | .zbBusError _ _ _ data _ late _ => !data || late
  | .zbRecover _ _ => true
  | .zbRecoveryComplete _ => true
  | .zbModeWrite _ _ _ => true
  | .zbIntegrated _ => true
  | .zbTagOpenTimeout _ _ => true
  | .zbTagQuarantineEnd _ _ => true
  | .zbNodeTimeout _ _ => true
  | .zbSupplyStart => true
  | .zbSupplyTrip _ _ => true
  | .zbSupplyHard _ _ => true
  | .zbSupplyPgFail _ _ => true
  | .zbSupplyRetry _ => true
  | .zbPwrCycle _ _ => true
  | .zbPwrCycleEnd _ => true
  | .zbPwrFaultClear _ _ _ => true
  | .zbPwrEnWrite _ _ _ => true
  | .zbFuncRst _ _ => true
  | .clFrameRx _ _ _ bytes _ _ => !bytes.isEmpty
  | .icmpEchoRequest _ src dst _ => src < 2 ^ 128 && dst < 2 ^ 128
  | .neighborSolicitation _ src target => src < 2 ^ 128 && target < 2 ^ 128
  | .neighborAdvertisement _ target mac => target < 2 ^ 128 && mac < 2 ^ 48
  | .dadComplete _ _ => true
  | .clLinkUp _ _ _ _ => true
  | .clLinkDown _ => true
  | .pub _ m => m.wf
  | .subscribe _ m => m.wf
  | .subAck _ m => m.wf
  | .unsubscribe _ m => m.wf
  | .rwrite _ m => m.wf
  | .rwriteDecide => true
  | .rwriteResult _ m => m.wf
  | .mirror _ m => m.wf
  | .mirrorAck _ m => m.wf
  | .beacon _ m _ => m.wf
  | .delayReq _ m _ => m.wf
  | .delayResp _ m _ => m.wf
  | .hello _ m => m.wf
  | .topo _ m => m.wf
  | .islandAdv _ m addr => m.wf && addr < 2 ^ 128
  | .campusMap _ m => m.wf
  | .campusMapRelay => true
  | .clMessageTransmit _ => true
  | .subscribeSend => true
  | .subAckTimeout _ => true
  | .subFullRetry _ => true
  | .subStaleResubscribe _ => true
  | .pubSend _ => true
  | .clRwWrite _ _ => true
  | .clRwRelinquish _ _ => true
  | .rwriteTimeout _ => true
  | .clTagQuarantineEnd _ => true
  | .beaconSend _ => true
  | .beaconReissue _ => true
  | .delayMeasure _ _ => true
  | .timeSyncLoss => true
  | .rtcWriteback => true
  | .timeSet _ _ => true
  | .clPortFuncRst _ _ => true
  | .helloSend => true
  | .topoSend => true
  | .islandAdvSend => true
  | .campusMapSend => true
  | .straitPendingTimeout _ => true
  | .straitHelloTimeout _ => true
  | .miswireTimeout _ => true
  | .establishedSet => true
  | .topoExpiry _ => true
  | .islandMasterTake => true
  | .campusMasterTake => true
  | .islandAdvTimeout _ => true
  | .campusMapTimeout => true
  | .deviceRelease => true
  | .subOutHoldExpiry _ => true
  | .logFlushTimeout _ => true
  | .logBlockWriteIssue => true
  | .logBlockCommit => true
  | .logCardCommandFail => true
  | .logFormat _ _ => true
  | .logFormatComplete => true
  | .logBlockRead _ => true
  | .logBlockWrite _ => true
  | .logRdComplete _ => true
  | .mirrorSend => true
  | .mirrorProbe => true
  | .mirrorResendTimeout => true
  | .mirrorProbeRepeat => true
  | .logFuncRst _ _ card => cardWf card
  | .tenantRetire _ _ _ => true
  | .tenantEnable _ _ _ => true
  | .eventQueuePop _ _ _ => true
  | .errorQueuePop _ _ _ => true
  | .commandPush _ _ => true
  | .cmdPwrite => true
  | .cmdPrel => true
  | .cmdLword => true
  | .cmdLswap => true
  | .cmdRemote => true
  | .cmdRing => true
  | .doorbellRing _ _ => true
  | .tenantResetRequest _ _ => true
  | .tenantResetStart _ => true
  | .tenantHoldEnd _ => true
  | .quotaWindow => true
  | .icLineChange _ _ => true
  | .icEventPulse _ _ => true
  | .icPendSet _ _ _ => true
  | .icPendClr _ _ _ => true
  | .icEnSet _ _ _ => true
  | .icEnClr _ _ _ => true
  | .icOfferLatch _ => true
  | .icClaim _ _ => true
  | .icComplete _ _ _ => true
  | .dispatcherClaim _ => true
  | .hostBusRead _ => true
  | .hostBusWrite _ _ _ => true
  | .hostSpiFrame mosi => !mosi.isEmpty
  | .postedWriteApply => true
  | .shadowUnitCopy _ => true
  | .mbxRead _ _ => true
  | .mbxWrite _ _ => true
  | .mbxComplete _ => true
  | .mbxTimeout _ _ => true
  | .watchdogKick _ => true
  | .watchdogExpiry => true
  | .funcRstComplete => true
  | .funcRstTimeout => true
  | .warmResetRequest _ _ => true
  | .powerCycle _ _ => true
  | .warmBootTimeout => true
  | .bootStart _ => true
  | .bootOtpLoaded otp => otp.length == 2048
  | .bootFlashProbed _ _ _ _ _ content => pagesWf content
  | .bootImageReadComplete _ => true
  | .bootSignatureVerified => true
  | .bootSectionsApplied => true
  | .bootEnd => true
  | .flashReadPage _ => true
  | .flashProgram _ => true
  | .flashErase _ => true
  | .flashCmdComplete _ => true
  | .slotActivate _ _ _ => true
  | .slotConfirm _ => true
  | .slotActivateComplete _ => true
  | .userCalCommit _ _ _ => true
  | .leDisciplineTrim _ => true
  | .disciplineResume _ => true
  | .refLoss => true
  | .pdOscMismatch => true
  | .rtcStop => true
  | .rtcResume => true
  | .warmResetStart => true
  | .warmResetNotice => true
  | .d2dFrame f => f.wf
  | .d2dResendTimeout _ => true
  | .d2dLinkLostPd => true
  | .d2dLinkLost => true
  | .d2dTrainingStart => true
  | .d2dTrainingFail => true
  | .d2dLinkCheckPass => true
  | .d2dNoRecovery => true
  | .supplyWarning _ mV => mV < 65536
  | .supplyReset _ => true
  | .powerOnResetRelease _ _ => true
  | .aonPowerUp => true
  | .batteryRemoval => true
  | .chargerCvReached => true
  | .batGoneClear _ => true
  | .pnlFrameEnd => true
  | .pnlUnderrun => true
  | .pnlVcomUpdate => true
  | .pnlPowerUpStart => true
  | .pnlPowerDownStart => true
  | .pnlPseqStep => true
  | .pnlBlinkCommit _ _ _ => true
  | .pnlCrackMeasure _ => true
  | .pnlKeyScan _ => true
  | .pnlKeyqPop _ _ => true
  | .pnlEncoderStep _ _ _ => true
  | .pnlAccessTry _ _ => true
  | .pnlLockoutEnd => true
  | .pnlAccessIdle => true
  | .pnlWrite _ => true
  | .pnlRelinquish _ => true
  | .pnlFuncRst _ => true
  | .pnlFuncRstForce => true
  | .contactEdge n _ _ _ _ _ => n < 32
  | .illegal _ e => e.wf
  | .ifetch _ => true
  | .storeReady _ card => cardWf card
  | .referenceReturn => true
  | .pwrcycNRelease => true

end Sys2Proof
end

