-- ==== Sys2Proof/Tests/Slice0.lean ====
section
/-! SUPPORT. The model's own tests: an ill-formed term for each check of WellFormed, a witness of the hypotheses of each
statement (witness_<its name>), and published vectors of the ciphers. -/

open Sys2Proof Sys2Proof.Machine

namespace Sys2Proof.Tests

set_option Elab.async false

theorem test_wf_refuses_point : (Instr.pointBindWrite .sk0 32768 0).wf = false := by decide

/-! Ill-formed terms, one for each kind of check. -/

theorem test_wf_refuses_ecc_word : (Instr.add 0 (.dbe 16) 0 0 0).wf = false ∧ (Instr.ldw 0 .clean 0 0 0 (.dbe 16)).wf = false ∧
    (Instr.pointValueRead .sk0 0 (.dbe 16)).wf = false ∧ (Instr.add 0 (.dbe 15) 0 0 0).wf = true := by decide

theorem test_wf_refuses_source : (Instr.pointSourceWrite 0 16 0 0 true none none .clean).wf = false ∧
    (Instr.pointSourceWrite 0 0 (2 ^ 28) 0 true none none .clean).wf = false ∧
    (Instr.pointSourceWrite 0 8 0 0 true (some (5, 0, 0)) none .clean).wf = false := by decide

theorem test_wf_refuses_upset : (Instr.pointAgeTick [(32768, .sbe)]).wf = false ∧ (Instr.pointAgeTick [(0, .dbe 16)]).wf = false ∧
    (Instr.pointAgeTick [(32767, .dbe 3)]).wf = true := by decide

theorem test_wf_refuses_profile : (Instr.profileWrite .sk0 256 0 0).wf = false ∧ (Instr.profileWrite .sk0 0 3 0).wf = false := by decide

theorem test_wf_refuses_zone : (Instr.zoneCfgWrite .sk0 512 0).wf = false := by decide

theorem test_wf_refuses_tick : (Instr.statusItemsTick ⟨[], List.replicate 16 0, 0, 0⟩).wf = false ∧
    (Instr.statusItemsTick ⟨List.replicate 16 0, [], 0, 0⟩).wf = false ∧
    (Instr.statusItemsTick ⟨List.replicate 16 0, List.replicate 16 0, 65536, 0⟩).wf = false ∧
    (Instr.statusItemsTick ⟨List.replicate 16 0, List.replicate 16 0, 0, 65536⟩).wf = false := by decide

theorem test_wf_refuses_loop_ecc : (Instr.loopEvaluation ⟨.clean, .clean, .clean, .clean, .dbe 16⟩ none).wf = false := by decide

theorem test_wf_refuses_loop_record : (Instr.loopRecordWrite .sk0 8192 0 0).wf = false ∧ (Instr.loopRecordWrite .sk0 0 16 0).wf = false := by decide

theorem test_wf_refuses_channel : (Instr.cdCommand 32).wf = false ∧ (Instr.contactEdge 32 0 0 0 true true).wf = false ∧
    (Instr.cdCommand 31).wf = true := by decide

theorem test_wf_refuses_samples : (Instr.cdZeroCheck 0 (List.replicate 7 0) (List.replicate 8 0)).wf = false ∧
    (Instr.cdZeroCheck 0 (List.replicate 8 0) (1024 :: List.replicate 7 0)).wf = false ∧
    (Instr.cdZeroCheck 0 (List.replicate 8 0) (List.replicate 8 1023)).wf = true ∧ (Instr.cdCycleBoundary 0 ⟨[], []⟩).wf = false ∧
    (Instr.cdCycleBoundary 0 ⟨List.replicate 6 ⟨1024, 0, 0⟩, List.replicate 6 ⟨0, 0, 0⟩⟩).wf = false ∧
    (Instr.cdCycleBoundary 0 ⟨List.replicate 6 ⟨0, 0, 0⟩, List.replicate 7 ⟨0, 0, 0⟩⟩).wf = false ∧
    (Instr.cdClampEnd 0 ⟨List.replicate 7 ⟨0, 0, 1024⟩, List.replicate 7 ⟨0, 0, 0⟩⟩).wf = false ∧
    (Instr.cdCycleBoundary 31 ⟨List.replicate 7 ⟨1023, 0, -1023⟩, List.replicate 7 ⟨0, 0, 0⟩⟩).wf = true ∧
    (Instr.cdDipObservationEnd 0 [(1024, 0)]).wf = false ∧ (Instr.cdReleaseBump 0 0 [(0, 1024)]).wf = false := by decide

theorem test_wf_refuses_voltage : (Instr.cdSupplyExcursion true 65536 0).wf = false ∧ (Instr.cdSupplyExcursion true 0 65536).wf = false ∧ (Instr.cdSupplyRecover 65536).wf = false ∧
    (Instr.vfieldLow 65536).wf = false ∧ (Instr.vfieldRecover 65536).wf = false ∧ (Instr.supplyWarning 0 65536).wf = false := by decide

theorem test_wf_refuses_check_codes : (Instr.adcCheckComplete 0 []).wf = false ∧ (Instr.adcCheckComplete 0 [(4096, none)]).wf = false ∧
    (Instr.adcCheckComplete 0 (List.replicate 10 (0, none))).wf = false ∧ (Instr.adcConversionEnd 0 4096 none).wf = false := by decide

theorem test_wf_refuses_can_frame : (Instr.zbDataFrame 0 ⟨false, 2 ^ 11, false, false, false, 0, [], false⟩).wf = false ∧
    (Instr.zbReply 0 ⟨true, 2 ^ 29, false, false, false, 0, [], false⟩).wf = false ∧ (Instr.zbAnnounce 0 ⟨true, 0, false, false, false, 16, [], false⟩).wf = false ∧
    (Instr.zbHeartbeat 0 ⟨true, 0, false, false, false, 1, [], false⟩).wf = false ∧ (Instr.zbNodeWrite 0 ⟨true, 0, false, true, false, 0, [], false⟩).wf = false ∧
    (Instr.zbRemoteFrame 0 false (2 ^ 11)).wf = false ∧ (Instr.zbRemoteFrame 0 true (2 ^ 29)).wf = false ∧ (Instr.zbBusError 0 0 0 true false false 0).wf = false := by decide

theorem test_wf_refuses_empty_frame : (Instr.clFrameRx 0 true false [] 0 0).wf = false ∧ (Instr.hostSpiFrame []).wf = false := by decide

theorem test_wf_refuses_address : (Instr.icmpEchoRequest 0 (2 ^ 128) 0 []).wf = false ∧ (Instr.neighborSolicitation 0 0 (2 ^ 128)).wf = false ∧
    (Instr.neighborAdvertisement 0 0 (2 ^ 48)).wf = false := by decide

theorem test_wf_refuses_message : (Instr.pub 0 ⟨1, 0, 0, 0, 65536, 0, 0, 0, 0, 0, 0, [], 0⟩).wf = false ∧
    (Instr.beacon 0 ⟨1, 0, 0, 0, 0, 0, 0, 2 ^ 32, 0, 0, 0, [], 0⟩ 0).wf = false ∧
    (Instr.islandAdv 0 ⟨1, 0, 0, 0, 0, 0, 0, 0, 0, 0, 0, [], 0⟩ (2 ^ 128)).wf = false := by decide

theorem test_wf_refuses_card : (Instr.storeReady none (some [(0, [])])).wf = false ∧ (Instr.logFuncRst .sk0 none (some [(0, [])])).wf = false := by decide

theorem test_wf_refuses_otp : (Instr.bootOtpLoaded []).wf = false := by decide

theorem test_wf_refuses_pages : (Instr.bootFlashProbed true true true true 0 (some [(2 ^ 18, [])])).wf = false ∧
    (Instr.bootFlashProbed true true true true 0 (some [(0, [])])).wf = false := by decide

theorem test_wf_refuses_heartbeat : (Instr.d2dFrame (.heartbeat [(0, 65536)])).wf = false := by decide

/-! Witnesses. Each `witness_<Statement>` shows concrete states and operands that meet the hypotheses of the statement of that
name, clause by clause. -/

/-- The link is up, lane 1 belongs to tenant 5 at priority 9, lane 2 to tenant 0, and lane 3 to tenant 0 at priority 0. -/
def up : State :=
  let s := ((((((((State.reset.put F.SYS_D2D_STAT_LINK_UP 1).put F.HB_HSTAT_READY 1).put F.HB_LANE_CFG_EN 1 1).put F.HB_LANE_CFG_TENANT 5 1).put
    F.HB_LANE_CFG_PRIO 9 1).put F.HB_LANE_CFG_EN 1 2).put F.HB_LANE_CFG_PRIO 9 2).put F.HB_LANE_CFG_EN 1 3)
  { s with clk := { s.clk with pdLost := false }, log := { s.log with nextSeq := 1 } }

/-- After the BOOT record, with the link lost. -/
def down : State := { State.reset with log := { State.reset.log with nextSeq := 1 } }

/-- up with the power die in power-on reset. -/
def off : State := up.setClk { up.clk with pdOff := true }

/-- Tenant 5 is active and owns point 3, with a window of points 3 to 100. -/
def held : State :=
  (((((up.put F.TEN_CTX_STAT_STATE 1 5).put F.PT_CONFIG_TENANT 5 3).put F.TEN_WIN_A_RIGHTS 3 5).put F.TEN_WIN_A_MAXPRIO 1 5).put F.TEN_WIN_A_FIRST 3 5).put
    F.TEN_WIN_B_LAST 100 5

/-- Core k executes: SK0 has started, SK1 to SK3 run task 0 of tenant 0 with the largest budget and the whole of IMEM. -/
def running (k : Nat) (c : SkCore) : State :=
  (((((up.put F.SK_TASK_ENTRY_BUDGET 0xFFFF k 0).put F.SK_TASK_SEG_ISIZE 0xFF k 0).put F.SK_TASK_SEG_DSIZE 0xFF k 0).put F.SK_CTRL_RUN 1 k).setCore k
    { c with started := true, task := if k = 0 then none else some 0 })

theorem witness_open_paths :
    up.pathOpen .sk0 ∧ up.pathOpen (.lane 1) ∧ up.pathOpen (.lane 2) ∧ up.ringOpen ∧ up.linkUp = true ∧ (up.who .sk0).tenant = 0 ∧
      (up.who (.lane 2)).tenant = 0 ∧ (up.who (.lane 1)).tenant = 5 ∧ State.reset.pathOpen .sk0 ∧ State.reset.linkUp = false ∧
      up.pdReach = true ∧ up.clk.pdOff = false ∧ off.clk.pdOff = true ∧ off.pdReach = false ∧ down.pdReach = false ∧ down.pathOpen .sk0 ∧ down.ringOpen := by
  unfold State.pathOpen State.ringOpen; decide +kernel

theorem witness_AuditRecordEnters : up.log.nextSeq ≠ 0 ∧ State.reset.log.nextSeq = 0 ∧ (up.who .sk0).tenant = 0 ∧ (up.who (.lane 1)).tenant ≠ 0 := by decide +kernel

theorem witness_StepKeepsSpaceCanonical :
    ({ up with pending := [.cdCommand 0] } : State).spaceWf ∧ (match step { up with pending := [.cdCommand 0] } with | .next _ => true | _ => false) = true := by
  decide +kernel

theorem witness_AccessCodesDecideWrittenBits :
    let fs := [F.PT_STATUS_QUAL, F.PT_STATUS_HP]
    fs.Pairwise (fun f g => f.lo + f.w ≤ g.lo ∨ g.lo + g.w ≤ f.lo) ∧ (∀ f ∈ fs, f.lo + f.w ≤ 32) ∧
      ∀ f ∈ fs, ¬(f.lo ≤ 31 ∧ 31 < f.lo + f.w) := by
  decide +kernel

theorem witness_UnmappedAccessReadsZeroAndIsRecorded :
    let edge (a : Nat) := (0x3C0000 ≤ a ∧ a < 0x400000) ∨ 0x430000 ≤ a
    edge 0x3C0000 ∧ edge 0x3FFFFF ∧ edge 0x430000 ∧ edge 0xFFFFFF ∧ ¬ edge 0x3BFFFF ∧ ¬ edge 0x400000 ∧ ¬ edge 0x42FFFF ∧
      up.bit F.SYS_UNMAPPED_VALID = false ∧ (up.put F.SYS_UNMAPPED_VALID 1).bit F.SYS_UNMAPPED_VALID = true := by
  decide +kernel

theorem witness_StatusWriteHasNoEffect :
    R.PT_STATUS.at 0 < 2 ^ 24 ∧ R.PT_STATUS.at 32767 < 2 ^ 24 ∧ R.PT_STATUS.at 0 ≠ R.PT_STATUS.at 32767 := by decide +kernel

theorem witness_RelinquishAtRestKeepsHolder :
    let a := up.put F.PT_BIND_KIND Kind.loop 4112
    let d := Word.ofN 4112
    F.SYS_PT_REL_INDEX.of d = 4112 ∧ F.SYS_PT_REL_PRIO.of d + 1 ≤ 15 ∧ a.ptKind 4112 ≠ Kind.unused ∧ a.ptBroken 4112 = false ∧ a.hasRight 0 4112 1 = true ∧
      a.ptHP 4112 = 16 := by
  decide +kernel

theorem witness_SkehilAluRows :
    (running 0 {}).skFree 0 17 [0, 1] ∧ (running 1 {}).skFree 1 17 [15, 15] ∧ (running 3 {}).skFree 3 1 [] ∧
      (running 1 { loaded := some 2 }).skCost 1 1 [2, 3] = 2 ∧ (running 1 { loaded := some 2 }).skCost 1 1 [3] = 1 ∧
      ((0x3FFFF : BitVec 18).toNat ≥ 32) ∧ ((31 : BitVec 18).toNat < 32) := by
  unfold State.skFree; decide +kernel

theorem witness_SkehilWordsDecode :
    (16 : BitVec 18).toNat ≥ 16 ∧ (31 : BitVec 18).toNat < 32 ∧
      (let w : Word := 0x00000040; skField w 26 6 = 0 ∧ skField w 6 8 ≠ 0) ∧ (let w : Word := 0xF8004000; skField w 26 6 = 0x3E ∧ skField w 14 4 ≠ 0) ∧
      (let w : Word := 0x00000019; skField w 26 6 = 0 ∧ 25 ≤ skField w 0 6) ∧ (let w : Word := 0x20004010; skField w 26 6 = 8 ∧ 16 ≤ skField w 0 6 ∧ skField w 14 4 ≠ 0) ∧
      (let w : Word := 0x20000020; skField w 26 6 = 8 ∧ 32 ≤ skField w 0 6) ∧ (let w : Word := 0xA0000004; skField w 26 6 = 0x28 ∧ 4 ≤ skField w 0 6) ∧
      (let w : Word := 0xF8000006; skField w 26 6 = 0x3E ∧ 6 ≤ skField w 0 6) ∧ (let w : Word := 0xC0000002; skField w 26 6 = 0x30 ∧ skField w 0 6 = 2) ∧
      skField 0x3C000000 26 6 = 0x0F ∧ skField 0x84000000 26 6 = 0x21 ∧ skField 0xBC000000 26 6 = 0x2F ∧ skField 0xF4000000 26 6 = 0x3D ∧ skField 0xFC000000 26 6 = 0x3F ∧
      (let w : Word := 0x74040000; skField w 26 6 = 0x1D ∧ skField w 18 4 ≠ 0) ∧ (let w : Word := 0x2000400E; skField w 26 6 = 8 ∧ skField w 0 6 = 14 ∧ skField w 14 4 ≠ 0) ∧
      (let w : Word := 0xA0004001; skField w 26 6 = 0x28 ∧ skField w 0 6 = 1 ∧ skField w 14 4 ≠ 0) ∧ (let w : Word := 0xC0004000; skField w 26 6 = 0x30 ∧ skField w 0 6 = 0 ∧ skField w 14 4 ≠ 0) ∧
      (let w : Word := 0xC0400010; skField w 26 6 = 0x30 ∧ skField w 0 6 = 0x10 ∧ skField w 22 4 ≠ 0) ∧ (let w : Word := 0xC0040012; skField w 0 6 = 0x12 ∧ skField w 18 4 ≠ 0) ∧
      (let w : Word := 0xC0040020; skField w 0 6 = 0x20 ∧ skField w 18 4 ≠ 0) ∧ (let w : Word := 0xF8400004; skField w 26 6 = 0x3E ∧ skField w 0 6 = 4 ∧ skField w 22 4 ≠ 0) := by
  decide +kernel

theorem witness_SkehilBranchRows :
    let t (x : Word) (imm : BitVec 18) := (x + (imm.signExtend 32 : Word)).toNat
    t 4 4 % 4 = 0 ∧ t 4 1 % 4 ≠ 0 ∧ t 0 (-4) % 4 = 0 := by
  decide +kernel

theorem witness_SkehilDataMemoryRows :
    let s := running 1 { regs := 0x10000 :: List.replicate 15 0 }
    let z := running 0 {}
    s.skDataOk 1 0x10000 = true ∧ s.skDataOk 1 0x1FFFC = true ∧ 0x10000 % 4 = 0 ∧ s.skDataOk 1 0x10001 = true ∧ 0x10001 % 2 ≠ 0 ∧
      s.skDataOk 1 0 = false ∧ skRegSpace 1 0 = false ∧ skRegSpace 0 0x10000000 = true ∧ skRegSpace 0 0x10FFFFFC = true ∧
      z.skDataOk 0 0x20000 = false ∧ skRegSpace 0 0x20000 = false ∧ (0x10000 : Nat) ∉ (s.core 1).bad ∧ 0x10FFFFFC % 4 = 0 := by
  decide +kernel

theorem witness_SkehilPortRows :
    let s := running 1 { regs := [0, 32767, 32768, 0x1FFFFFF, 0x2000000, 8191, 8192] ++ List.replicate 9 0 }
    let q := running 1 { unacked := 1 }
    let h := running 1 { wait := some (.read 0 3) }
    let f := s.setFifo 2 (List.replicate 8 ⟨.reinit 0, 0, 0, 6, 0, 0, 0, none⟩)
    let x (r : Fin 16) := ((s.core 1).reg r).toNat
    s.skFree 1 1 [1, 2] ∧ q.skFree 1 1 [] ∧ x 1 < 32768 ∧ 32768 ≤ x 2 ∧ x 3 < 2 ^ 25 ∧ 2 ^ 25 ≤ x 4 ∧ x 5 < 8192 ∧ 8192 ≤ x 6 ∧
      (s.core 1).unacked = 0 ∧ (q.core 1).unacked ≠ 0 ∧ 8 ≤ (f.leFifo 2).length ∧ f.skFree 1 1 [5] ∧ ¬ 8 ≤ (s.leFifo 2).length ∧
      h.skRuns 1 = true ∧ (h.core 1).wait = some (.read 0 3) ∧ (h.core 1).cbuf = [] ∧ h.skPcOk 1 ((h.core 1).pc + 4) = true ∧
      ((h.core 1).pc + 4) / 4 * 4 ∉ (h.core 1).bad ∧ (h.core 1).cycles + 1 < h.skBudget 1 := by
  unfold State.skFree; decide +kernel

theorem witness_SkehilControlAndDispatchRows :
    let r := running 1 {}
    let i := up.put F.SK_CTRL_RUN 1 1
    let s := i.setCore 1 { ready := 2#64 }
    let a : LeAskRead := ⟨0, 0, false, 0, 0⟩
    (r.core 1).unacked = 0 ∧ (r.core 1).lxCount = 0 ∧ ((running 1 { unacked := 1 }).core 1).unacked ≠ 0 ∧ (running 1 { pc := 2 }).skPcOk 1 2 = false ∧
      (running 1 { pc := 2 }).skRuns 1 = true ∧ ((running 0 {}).core 0).lxCount = 0 ∧ (r.core 1).task.isSome = true ∧
      (s.core 1).task = none ∧ s.bit F.SK_CTRL_RUN 1 = true ∧ (s.skReady 1).head? = some 1 ∧ s.skPassed 1 1 = false ∧
      (let t := up.setCore 1 { reads := [(3, a)], wait := some (.read 2 3), seq3 := 4 }
       t.leFifo 2 = [] ∧ (t.core 1).cbuf = [] ∧ (t.core 1).reads = (3, a) :: [] ∧ (t.core 1).wait = some (.read 2 3) ∧ (t.lxReadWord a).2 ≠ Res.refRights) ∧
      ((up.setCore 1 { run := 7, unacked := 1, acks := [(7, 0)] }).core 1).acks = (7, 0) :: [] ∧
      ((up.setCore 1 { run := 7, acks := [(6, 0)] }).core 1).run ≠ 6 := by
  decide +kernel

/-- A configuration write of `data` at address a passes its ranges and its register's own rule. -/
def accepts (s : State) (a : Nat) (data : Word) (chk : Word → Res) : Bool :=
  match fieldsAt a with
  | some fs => rangesOk fs data && chk (mergeWrite fs (s.word a) data) == Res.applied
  | none => false

/-- A write of `data` to the flags at address a reaches one with a 1, and leaves `rest` behind. -/
def clears (s : State) (a : Nat) (data rest : Word) : Bool :=
  match fieldsAt a with
  | some fs => touches fs data && mergeWrite fs (s.word a) data == rest
  | none => false

theorem witness_PointAccessRows :
    let s := held.put F.PT_BIND_KIND Kind.loop 3
    let h := s.put F.PT_STATUS_HP 7 3
    let g := s.put F.PT_BIND_KIND Kind.loop 4
    let b := up.setWord (R.PT_BIND.at 3) (bindWord Kind.acc 17)
    let d : Word := Word.ofN (3 + 2 ^ 16 * 8)
    s.ptKind 3 ≠ Kind.unused ∧ s.ptBroken 3 = false ∧ s.hasRight 5 3 9 = true ∧ 9 ≤ s.ptHP 3 ∧ fFinite 0x43C80000 = true ∧ s.readRight 5 3 = true ∧
      s.readRight 5 101 = false ∧ h.ptHP 3 < 9 ∧ h.hasRight 5 3 9 = true ∧ g.hasRight 5 4 9 = false ∧ g.ptKind 4 ≠ Kind.unused ∧ (s.who (.lane 1)).prio = 9 ∧
      b.word (R.PT_BIND.at 3) = bindWord (2 % 16) 17 ∧ b.ptBroken 3 = false ∧ b.ptHP 3 = 16 ∧ (b.put F.PT_STATUS_HP 4 3).ptHP 3 < 16 ∧
      F.SYS_PT_REL_INDEX.of d = 3 ∧ F.SYS_PT_REL_PRIO.of d + 1 ≤ s.ptHP 3 ∧ s.hasRight 5 3 (F.SYS_PT_REL_PRIO.of d + 1) = true := by
  decide +kernel

theorem witness_PointAccessRows_stops :
    let s := held.put F.PT_BIND_KIND Kind.loop 3
    let n := s.put F.PT_BIND_KIND Kind.none_ 3
    let b := up.setWord (R.PT_BIND.at 3) (bindWord Kind.remote 17)
    up.ptKind 3 = Kind.unused ∧ ((s.opened (.lane 1)).ptEcc 3 (.dbe 2)).ptBroken 3 = true ∧ (s.who (.lane 3)).prio = 0 ∧ s.pathOpen (.lane 3) ∧
      s.hasRight 0 3 15 = true ∧ s.hasRight 5 3 9 = true ∧ 9 ≤ s.ptHP 3 ∧ fFinite 0x7F800000 = false ∧ n.ptKind 3 = Kind.none_ ∧ n.hasRight 5 3 9 = true ∧ 4 < (n.who (.lane 1)).prio ∧
      ((s.put F.HB_LANE_CFG_PRIO 4 2).who (.lane 2)).prio = 4 ∧
      b.word (R.PT_BIND.at 3) = bindWord (Kind.remote % 16) 17 ∧ 2 ≤ Kind.remote % 16 ∧ b.word (R.PT_BIND.at 3) ≠ bindWord (Kind.remote % 16) 18 ∧ (b.ptEcc 3 (.dbe 3)).ptBroken 3 = true ∧ b.ptHP 3 = 16 ∧
      ((b.put F.SYS_PT_PROF_AGE_AGE_MAX 5 0).ageMax 3 ≠ 0 ∧ (b.put F.SYS_PT_PROF_AGE_AGE_MAX 5 0).ageMax 3 < 6) ∧ Qual.fault < 7 ∧
      ¬ (b.word (R.PT_BIND.at 3) = bindWord (0 % 16) 0 ∧ 2 ≤ 0 % 16) ∧ s.spaceWf := by
  unfold State.pathOpen; decide +kernel

theorem witness_PointUpkeepRows :
    accepts up (R.PT_CONFIG.at 32767) 0 (up.ptConfigChk 32767) = true ∧ accepts up (R.PT_BIND.at 0) (bindWord Kind.none_ 0) (up.ptBindChk 0) = true ∧
      accepts up (profileAddr 255 0) 0 (up.profileChk 255 0) = true ∧ accepts up (profileAddr 1 2) 0 (up.profileChk 1 2) = true ∧
      accepts up (R.SYS_ZONE_CFG.at 511) 0 (up.zoneChk 511) = true ∧ up.spaceWf ∧
      (let b (a : Nat) := (Fin.ofNat (2 ^ 24) a).val / 4 * 4
       b (R.PT_VALUE.at 32767) = R.PT_VALUE.at 32767 ∧ b (R.PT_BIND.at 0 + 3) = R.PT_BIND.at 0 ∧ b (recAddr 8191 15) = recAddr 8191 15 ∧ b R.LE_SWG_CMD.at = R.LE_SWG_CMD.at ∧
         b (profileAddr 255 2) = profileAddr 255 2 ∧ b (R.SYS_ZONE_CFG.at 511) = R.SYS_ZONE_CFG.at 511) ∧
      F.LE_SWG_CMD_CANCEL.of (0 : Word) = 0 ∧ F.LE_SWG_CMD_CANCEL.of (0x400 : Word) = 1 ∧ F.LE_STATE_SEL_REINIT.of (0 : Word) = 0 ∧
      F.LE_STATE_SEL_REINIT.of (Word.ofN (2 ^ F.LE_STATE_SEL_REINIT.lo)) = 1 ∧ up.tstate 0 ≠ 0 ∧ up.tstate 5 = 0 ∧ (up.who (.lane 1)).tenant = 5 ∧
      (∀ r ∈ [R.SYS_UNMAPPED, R.SYS_PT_DBE_LAST, R.SYS_PT_ECC, R.SYS_D2D_STAT, R.SYS_XOVR, R.SYS_ID], (fieldsAt r.at).isSome = true) := by
  decide +kernel

theorem witness_SafeStateRows :
    let g : State := { up with fan := { up.fan with hot0 := 3 } }
    let e : State := { up with le := { up.le with pdTimer := some 3000000 } }
    g.guardHot = true ∧ g.bit F.FAN_GUARD_TRIP = false ∧ e.le.pdTimer = some 3000000 ∧ e.le.cancel = false ∧
      (e.put F.PT_BIND_KIND Kind.loop 0).loopBound Cls.relay 31 = true ∧ isPower 0x190000 = true ∧ State.reset.linkUp = false ∧
      (Cls.relay, 31) ∈ up.outputs ∧ (up.safeOf Cls.relay 31).inSafe = true ∧ up.safePresent Cls.relay 31 = false ∧
      up.relRefused (relWord F.AON_SAFE_REL_DO 0) = 0 := by
  decide +kernel

theorem witness_LoopPathRows :
    let o := held.put F.LE_REC_CTRL_TENANT 5 8191
    o.leTenant 8191 = 5 ∧ o.mayAct 5 5 = true ∧ o.leTenant 0 ≠ 5 ∧ o.mayAct 5 (o.leTenant 0) = false ∧
      ({ up with le := { up.le with copy := some 7 } } : State).le.copy = some 7 ∧ ({ up with le := { up.le with notice := true } } : State).le.notice = true ∧
      ({ up with le := { up.le with cancel := true } } : State).linkUp = true := by
  decide +kernel

/-- up with one operation of tenant t in the engine's FIFO f. -/
def asking (f : Nat) (ask : LeAsk) (t : Nat) : State := up.setFifo f [⟨ask, t, 0, 1, 0, 0, 0, none⟩]

theorem witness_LoopRequestApplyRows :
    let out (s : State) := s.get F.LE_REC_OUT_OUT 0
    let b := (asking 1 (.force 0 4 0x40000000) 0).put F.PT_BIND_KIND Kind.none_ 0
    (asking 0 (.word 8191 15 0) 0).leFifo 0 = [⟨.word 8191 15 0, 0, 0, 1, 0, 0, 0, none⟩] ∧ (asking 0 (.word 8191 15 0) 0).ringOpen ∧
      (asking 4 (.reinit 1) 0).bit F.LE_LS_STAT_FAULT = false ∧ (asking 4 (.reinit 1) 0).gen 0 = 0 ∧
      up.recDecide 0 8191 5 0 = Res.applied ∧ up.recDecide 7 8191 0 0 ≠ Res.applied ∧ up.mayAct 0 (up.leTenant 0) = true ∧ up.mayAct 7 (up.leTenant 0) = false ∧
      up.groupDecide 0 (setBits 0 10 1 1) = Res.applied ∧ F.LE_SWG_CMD_CANCEL.of (setBits 0 10 1 1) = 1 ∧
      (let x : Word := Word.ofN (F.LE_SWG_CMD_DELAY.w * 0 + 2 ^ F.LE_SWG_CMD_DELAY.lo); up.groupDecide 0 x = Res.applied ∧ F.LE_SWG_CMD_CANCEL.of x = 0) ∧
      up.groupDecide 7 0 ≠ Res.applied ∧ b.ptResult (out b) .write 0 4 0x40000000 = Res.applied ∧ b.ptResult (out b) .write 0 1 0x40000000 = Res.applied ∧
      b.ptResult (out b) .relinquish 0 4 0 = Res.relinquished := by
  unfold State.ringOpen; decide +kernel
/-- A loop evaluated each frame: loop 0 of tenant 0, both inputs point 1 (GOOD, KIND NONE), output point 2 (KIND LOOP 0). -/
def looping : State :=
  let s := ((((up.put F.LE_REC_CTRL_EN 1 0).put F.LE_REC_PTS_PV 1 0).put F.LE_REC_PTS_SP 1 0).put F.LE_REC_OUT_OUT 2 0).setWord (recAddr 0 3) 0x00000001
  let s := ((s.setWord (recAddr 0 6) 0x42C80000).setWord (recAddr 0 7) 0x41200000).setWord (recAddr 0 9) 0x40000000
  let s := ((s.put F.PT_BIND_KIND Kind.none_ 1).put F.PT_STATUS_QUAL Qual.good 1).setWord (R.PT_BIND.at 2) (bindWord Kind.loop 0)
  ({ s with le := { s.le with started := true, due := [0] } }).setLoop 0 { init := false }

/-- `looping` with a deadline of 110 µs, n slots into the frame. -/
def late (n : Nat) : State := { looping.put F.LE_REC_SUP_DEADLINE 11 0 with le := { looping.le with slots := n } }

/-- `looping` with its output followed: TRACK is 1 and priority 3 holds the output point. -/
def tracking : State := ((looping.put F.LE_REC_CTRL_TRACK 1 0).put F.PT_STATUS_HP 3 2).put F.PT_STATUS_QUAL Qual.forced 2

theorem witness_LoopEvaluationOutcomes :
    looping.le.retry = none ∧ looping.le.due = [0] ∧ 1000 + 6 * looping.le.slots + 12 ≤ looping.leDeadline 0 ∧
      ¬ (1000 + 6 * (late 16).le.slots + 12 ≤ (late 16).leDeadline 0) ∧
      looping.leDecide 0 = Oc.evaluated ∧ (looping.put F.LE_REC_CTRL_EN 0 0).leDecide 0 = Oc.disabled ∧
      (looping.put F.PT_STATUS_QUAL Qual.stale 1).leDecide 0 = Oc.holdPvQual ∧ 3 ≤ Oc.holdPvQual ∧ Oc.holdPvQual ≤ 8 ∧
      (looping.setLoop 0 { init := true }).leDecide 0 = Oc.initialised ∧ tracking.leDecide 0 = Oc.tracked := by
  decide +kernel

theorem witness_LoopEvaluationOutcomes_law :
    (looping.lawEvaluated 0 (looping.ptVal 1) (looping.ptVal 1)).ok = true ∧
      ((looping.setWord (R.PT_VALUE.at 1) 0x7F800000).lawEvaluated 0 0x7F800000 0x7F800000).ok = false ∧
      (tracking.lawTracked 0 (tracking.ptVal 1) (tracking.ptVal 1) 0).ok = true := by
  decide +kernel

/-- up with an output of loop 5 for point 2 (KIND LOOP 5) at the head of the output queue. -/
def draining : State :=
  let s := up.setWord (R.PT_BIND.at 2) (bindWord Kind.loop 5)
  { s with le := { s.le with oq := [⟨5, 2, 0x40000000, 0, 0⟩] } }

theorem witness_LoopFrameRows :
    let ev : LeEval := { loop := 3, tenant := 0, gen := 0, outcome := Oc.evaluated, st := {} }
    let r : State := { up with le := { up.le with retry := some (ev, 3) } }
    let full : State := { draining with log := { draining.log with trend := List.replicate 64 ⟨0, 2, 0, 0⟩ } }
    let b := (full.put F.LOG_TRD_CFG_EN 1 0).put F.LOG_TRD_CFG_POINT 2 0
    up.spaceWf ∧ up.bit F.LE_LS_STAT_FAULT = false ∧ (up.put F.LE_LS_STAT_FAULT 1).bit F.LE_LS_STAT_FAULT = true ∧ r.le.retry = some (ev, 3) ∧ ev.loop < 8192 ∧
      draining.le.oq = [⟨5, 2, 0x40000000, 0, 0⟩] ∧ draining.oqBlocked = false ∧ (draining.put F.TEN_CTX_STAT_GEN 1 0).gen 0 ≠ 0 ∧
      (draining.put F.TEN_CTX_STAT_GEN 1 0).oqBlocked = false ∧ draining.ptBroken 2 = false ∧ draining.word (R.PT_BIND.at 2) = bindWord Kind.loop 5 ∧
      draining.ptHP 2 = 16 ∧ b.oqBlocked = true ∧ b.ptHP 2 = 16 := by
  decide +kernel

theorem witness_TenantLifecycleRows :
    let a := up.put F.TEN_CTX_STAT_STATE 1 5
    let old (n : Nat) : State := { a.setTctx 5 { resetAt := some 0 } with now := n }
    a.tstate 5 ≠ 0 ∧ a.tenantBusy 5 = false ∧ (a.put F.PT_CONFIG_TENANT 5 3).tenantBusy 5 = true ∧ F.TEN_CTX_CFG_HOLD_T.of (600 : Word) ≤ 600 ∧ up.tstate 5 = 0 ∧
      (a.tctx 5).resetAt = none ∧ ((old 999999).tctx 5).resetAt = some 0 ∧ (old 999999).now < 0 + 1000000 ∧ 0 + 1000000 ≤ (old 1000000).now ∧
      up.le.windowDue = false ∧ ({ up with le := { up.le with windowDue := true } } : State).le.windowDue = true ∧ up.spaceWf ∧
      (a.put F.TEN_CTX_STAT_PEND 1 5).bit F.TEN_CTX_STAT_PEND 5 = true ∧ (up.put F.TEN_CTX_STAT_STATE 2 5).tstate 5 = 2 := by
  decide +kernel

theorem witness_TenantQueueRows :
    let a := held.put F.TEN_Q_CMD_CFG_MAX 1 5
    let c (s : State) (op : Nat) := ((s.setBank 1 { s.bank 1 with stage0 := Word.ofN op }).bank 1).cmd 2 (s.gen 5)
    (a.who (.lane 1)).tenant = 5 ∧ (a.who (.lane 1)).bank = 1 ∧ a.tstate 5 = 1 ∧ up.tstate 5 ≠ 1 ∧ (1 : Word).getLsbD 0 = true ∧ ¬ ((5 : Nat) = 0 ∨ (5 : Nat) = 6) ∧
      1 ≤ (c a 1).op ∧ (c a 1).op ≤ 6 ∧ 1 ≤ (c a 6).op ∧ (c a 6).op ≤ 6 ∧ (c a 0).op < 1 ∧ 6 < (c a 7).op ∧ a.qRoom .cmd 5 = true ∧ held.qRoom .cmd 5 = false ∧
      a.throttled 5 = false ∧ (a.put F.TEN_CTX_STAT_THROTTLED 1 5).throttled 5 = true ∧ (a.put F.TEN_CTX_STAT_THROTTLED 1 5).qRoom .cmd 5 = true ∧
      up.tstate 5 = 0 ∧ a.tstate 5 ≠ 0 ∧ (a.put F.TEN_DB_CFG_OWNER 5 15).get F.TEN_DB_CFG_OWNER 15 = 5 ∧ a.get F.TEN_DB_CFG_OWNER 14 ≠ 5 := by
  decide +kernel

/-- up with one command of tenant t in its queue. -/
def commanded (t : Nat) (e : CmdEntry) : State := (up.put F.TEN_CTX_STAT_STATE 1 t).setTctx t { cq := [e] }

/-- A command entry of lane 1 (R611). -/
def entry (op : Nat) : CmdEntry := ⟨op, 4, false, 15, 8191, 0, 0x40000000, 32768 * 5, 2, 0, false⟩

theorem witness_CommandExecutorRows :
    let s (op : Nat) := commanded 0 (entry op)
    let a := (s 1).put F.PT_BIND_KIND Kind.none_ 8191
    let r : State := { s 5 with isl := { (s 5).isl with map := some ⟨0, 1, [(0, 0xFF)]⟩ } }
    (∀ op ∈ [1, 2, 3, 4, 5, 6], (s op).exPick = some 0 ∧ ((s op).tctx 0).cq = [entry op] ∧ (entry op).ifc ≠ 0 ∧ (entry op).gen = (s op).gen 0) ∧ (s 1).ten.length = 1 ∧
      (∀ t < 256, (s 1).throttled t = false) ∧ ((s 1).put F.TEN_CTX_STAT_GEN 1 0).gen 0 ≠ (entry 1).gen ∧
      a.ptResult 8191 .write 0 4 0x40000000 = Res.applied ∧ a.ptResult 8191 .relinquish 0 4 0x40000000 = Res.relinquished ∧
      (entry 3).word < 16 ∧ (entry 5).cpid < 2 ^ 25 ∧ (entry 5).cpid / 32768 % 1024 ≠ r.deviceId ∧ r.reachable 5 = true ∧ r.bit F.CL_FORM_STAT_ISOLATED = false ∧
      r.freeTag = some 0 ∧ r.exPick = some 0 := by
  decide +kernel

theorem witness_InterruptRows :
    let pend (n : Nat) (s : State) : State := { s with ic := { s.ic with pend := s.ic.pend ||| BitVec.twoPow 256 n, en := s.ic.en ||| BitVec.twoPow 256 n } }
    let cfg (n t : Nat) (s : State) : State := (((s.put F.IC_SRC_CFG_TMASK (2 ^ t) n).put F.IC_SRC_CFG_PRIO 7 n).put F.IC_TGT_CTRL_EN 1 t)
    let offer (o : Offer) (t : Nat) (s : State) : State := { s with ic := { s.ic with offers := putAt none s.ic.offers t (some o) } }
    let e := cfg 200 5 (pend 200 up)
    let l := offer ⟨200, false⟩ 5 up
    let b : State := { up with ic := { up.ic with active := BitVec.twoPow 256 9, owner := [(9, 0)] } }
    let h := offer ⟨9, false⟩ 0 (up.setCore 0 { started := true })
    let x : State := (up.put F.CD_EVT_FAULT 1 4).put F.CD_IEN_FAULT 1 4
    let y : State := { x with ic := { x.ic with counts := [(4, 2, 3)] } }
    let m (s : State) (cycles : Nat) : Nat := let c := (s.ic.counts.lookup 4).getD (0, 0); c.1 + (c.2 + cycles) / (if s.bit F.IC_SRC_CFG_PRESC 4 = true then 16 else 1)
    let w (q : SkWait) (cb : List LeOp) : State := offer ⟨9, false⟩ 0 (up.setCore 0 { started := true, wait := some q, cbuf := cb })
    x.lineLevel 4 = true ∧ x.ic.line.getLsbD 4 = false ∧ x.get F.IC_SRC_CFG_FILT 4 < m x 1 ∧ m x 0 ≤ x.get F.IC_SRC_CFG_FILT 4 ∧
      (y.put F.IC_SRC_CFG_PRESC 1 4).get F.IC_SRC_CFG_FILT 4 < m (y.put F.IC_SRC_CFG_PRESC 1 4) 13 ∧ m ((y.put F.IC_SRC_CFG_PRESC 1 4).put F.IC_SRC_CFG_FILT 3 4) 13 ≤ 3 ∧ up.lineLevel 4 = up.ic.line.getLsbD 4 ∧
      ((w .fifo [⟨.reinit 0, 0, 0, 6, 0, 0, 0, none⟩]).core 0).wait = some .fifo ∧ ((w .fifo [⟨.reinit 0, 0, 0, 6, 0, 0, 0, none⟩]).core 0).cbuf = [⟨.reinit 0, 0, 0, 6, 0, 0, 0, none⟩] ∧
      ((w .fifo []).offer 0).isSome = true ∧ (h.core 0).wait ≠ some .fifo ∧ (h.core 0).wait ≠ some .retire ∧ (1 : Word) ≠ 0 ∧ srcKind 103 = .line ∧ srcKind 104 = .event ∧ srcKind 255 = .soft ∧ srcKind 4 = .line ∧ srcPower 0 = true ∧ up.linkUp = true ∧ State.reset.linkUp = false ∧
      e.offer 5 = none ∧ e.eligible 200 5 = true ∧ (offer ⟨200, false⟩ 5 e).eligible 200 5 = true ∧ l.eligible 200 5 = false ∧
      (offer ⟨200, true⟩ 5 up).offer 5 = some ⟨200, true⟩ ∧ (up.put F.TEN_CTX_STAT_STATE 1 5).icMay (up.who (.lane 1)) 5 = true ∧ up.icMay (up.who (.lane 1)) 5 = false ∧ held.icMay (up.who (.lane 1)) 4 = false ∧ up.icMay (up.who .sk0) 0 = true ∧
      b.ic.active.getLsbD 9 = true ∧ b.ic.owner.lookup 9 = some 0 ∧ F.IC_TGT_COMPLETE_SRC.of 9 = 9 ∧ up.ic.active.getLsbD 9 = false ∧
      (h.offer 0).isSome = true ∧ (h.core 0).inHandler = false ∧ (h.core 0).started = true := by
  decide +kernel

/-- up with coil channel n in a phase, and what the block holds of it. -/
def coil (n ph : Nat) (c : CdChan) : State := (up.put F.CD_STAT_PHASE ph n).setCd n c

/-- s with the factory calibration of coil channel n at gain 1 and offset 0 (R702). -/
def gained (n : Nat) (s : State) : State :=
  [0, 2, 4].foldl (fun s j => s.setWord (R.CAL_OTP.at (0xC0 + 8 * n + j)) 0x3F800000) s

/-- The pair of n is formed. -/
def paired (s : State) (n : Nat) : State := s.put F.CD_CFG_PAIR 1 n

theorem witness_CoilTripRows :
    let z := gained 31 (coil 31 Ph.idle { zeroDue := true })
    let steps (a b : List Nat) := a.map (z.cdCur 31 0) ++ b.map (z.cdCur 31 1)
    (up.cdPaired 31 = false) ∧ (z.cdOf 31).zeroDue = true ∧ (∃ i ∈ steps [] [4], 4 ≤ i) ∧ (∀ i ∈ steps [3] [0], i < 4) ∧ z.cdPhase 31 = Ph.idle ∧ (coil 31 Ph.hold { zeroDue := true }).cdPhase 31 ≠ Ph.idle ∧
      ((coil 31 Ph.hold { zeroDue := true }).cdOf 31).zeroDue = true ∧ (up.cdOf 31).zeroDue = false ∧
      80 ≤ ((coil 31 Ph.pullin { openCnt := 80 }).cdOf 31).openCnt ∧ ((coil 31 Ph.pullin { openCnt := 79 }).cdOf 31).openCnt < 80 ∧
      (paired (coil 30 Ph.hold { imbal := 10 }) 30).cdPaired 31 = true ∧
      10 ≤ ((paired (coil 30 Ph.hold { imbal := 10 }) 30).cdOf 30).imbal ∧ ((coil 0 Ph.fastDecay { clamp := true }).cdOf 0).clamp = true ∧ up.bit F.CD_FLT_FD_TIME 0 = false ∧
      (up.cdOf 0).clamp = false ∧ (up.put F.CD_FLT_FD_TIME 1 0).bit F.CD_FLT_FD_TIME 0 = true := by
  decide +kernel

theorem witness_CoilProfileRows :
    let quiet (s : State) (n : Nat) : Bool := let c := s.cdOf n; s.cdLead n && !s.cdShedNow n && !c.take && !c.modeOff && !c.reTherm && !c.reEwin &&
      c.openAt.isNone && c.mendAt.isNone && !c.closeObs && c.closeSig.isNone && c.guard == Mr.none_ && c.disagree ≤ 2 && c.openCnt ≤ 78 && c.imbal ≤ 8
    let mode (m : Nat) (s : State) := ((s.put F.CD_CFG_MODE m 31).put F.CD_HOLD_I_HOLD 300 31).put F.CD_PULL_T_PULL 100 31
    let on := mode Md.pullHold (coil 31 Ph.idle { pend := some 0x3F800000 })
    let off := gained 31 (mode Md.pullHold (coil 31 Ph.hold { pend := some 0 }))
    let keep := mode Md.pullHold (coil 31 Ph.hold {})
    let x : CdSamples := ⟨List.replicate 6 ⟨0, 6, 240⟩, List.replicate 6 ⟨0, 0, 0⟩⟩
    quiet on 31 ∧ (on.cdOf 31).pend = some 0x3F800000 ∧ cdOn 0x3F800000 = true ∧ on.cdMode 31 = Md.pullHold ∧ on.cdPhase 31 = Ph.idle ∧ 0 < on.get F.CD_PULL_T_PULL 31 ∧
      quiet off 31 ∧ (off.cdOf 31).pend = some 0 ∧ cdOn 0 = false ∧ off.cdPhase 31 = Ph.hold ∧ sampLow (off.cdCalibrated 31 x) = false ∧
      quiet keep 31 ∧ (keep.cdOf 31).pend = none ∧ keep.get F.CD_CFG_DAMP 31 = 0 ∧ 0 < (8 * keep.cdHoldNow 31 + 5) / 10 ∧ keep.bit F.CD_CFG_FASTDN 31 = false ∧ (keep.cdOf 31).clamp = false ∧
      (keep.cdOf 31).holdDue = none ∧ cdGrid 0 none < 1 ∧ cdGrid 1 none = 25 ∧ cdGrid 25 (some 25) = 50 := by
  decide +kernel

theorem witness_CoilProfileRows_timers :
    let quiet (s : State) (n : Nat) : Bool := let c := s.cdOf n; s.cdLead n && !s.cdShedNow n && !c.take && !c.modeOff && !c.reTherm && !c.reEwin &&
      c.openAt.isNone && c.mendAt.isNone && !c.closeObs && c.closeSig.isNone && c.guard == Mr.none_ && c.disagree ≤ 2 && c.openCnt ≤ 78 && c.imbal ≤ 8
    let f : Fwd := ⟨Cls.coil, 31, 0x3F800000, Qual.good⟩
    let pl := coil 31 Ph.pullin { pullDue := some 5 }
    let h (m : Nat) (v : Option Word) := gained 31 (((coil 31 Ph.hold { holdDue := some 5, pend := v }).put F.CD_CFG_MODE m 31).put F.CD_PULSE_T_PULSE 1 31)
    let x : CdSamples := ⟨List.replicate 6 ⟨0, 6, 240⟩, List.replicate 6 ⟨0, 0, 0⟩⟩
    let odd : State := { paired up 30 with fwd := [f] }
    ({ up with fwd := [f] } : State).fwd.find? (fun f => f.cls == Cls.coil && f.chan == 31) = some f ∧ up.cdLead 31 = true ∧ odd.cdLead 31 = false ∧
      odd.fwd.find? (fun f => f.cls == Cls.coil && f.chan == 31) = some f ∧ up.fwd.find? (fun f => f.cls == Cls.coil && f.chan == 31) = none ∧
      (∀ m ∈ [Md.pulse, Md.pullHold], sampLow ((h m none).cdCalibrated 31 x) = false ∧ ((h m none).cdOf 31).clamp = false ∧ (h m none).cdPhase 31 = Ph.hold) ∧
      0 < (h Md.pulse none).get F.CD_PULSE_T_PULSE 31 ∧ (pl.cdOf 31).clamp = false ∧ pl.cdPhase 31 = Ph.pullin ∧ (coil 31 Ph.repull {}).cdPhase 31 = Ph.repull ∧ pl.cdMode 31 ≠ Md.pulse ∧
      (pl.cdOf 31).pullDue = some 5 ∧ quiet pl 31 ∧ (pl.cdOf 31).pend = none ∧ (up.cdOf 31).pullDue = none ∧ (up.cdOf 31).holdDue = none ∧
      ((h Md.pulse none).cdOf 31).holdDue = some 5 ∧ (h Md.pulse none).cdMode 31 = Md.pulse ∧ quiet (h Md.pulse none) 31 ∧ (h Md.pullHold none).cdMode 31 = Md.pullHold ∧
      ((h Md.pullHold (some 0x3F800000)).cdOf 31).pend = some 0x3F800000 ∧ quiet (h Md.pullHold (some 0x3F800000)) 31 := by
  decide +kernel

theorem witness_CoilSupplyAndSettingRows :
    let c := coil 31 Ph.fastDecay { clamp := true }
    let z : CdSamples := ⟨List.replicate 6 ⟨0, 0, 0⟩, List.replicate 6 ⟨0, 0, 0⟩⟩
    let at_ := cdGrid c.now (c.cdOf 31).bndAt
    let e (s : State) := (((s.reach at_).cdGather 31 at_ (s.cdCalibrated 31 z)).cdOf 31).clampE.natAbs
    let hot := coil 31 Ph.fastDecay { clamp := true, clampE := 130000000 }
    let f := (coil 31 Ph.fault {}).setWord (R.CD_FLT.at 31) 1
    let g := f.setSafe Cls.coil 31 { inSafe := false }
    c.cdLead 31 = true ∧ c.cdShedNow 31 = false ∧ (c.cdOf 31).pend = none ∧ (c.cdOf 31).clamp = true ∧ c.cdPhase 31 = Ph.fastDecay ∧ (c.cdOf 31).rst = false ∧
      sampLow (c.cdCalibrated 31 z) = true ∧ e c ≤ c.cdEcMax 31 ∧ hot.cdEcMax 31 < e hot ∧ c.word (R.CD_FLT.at 31) = 0 ∧
      c.clk.pdOff = false ∧ (c.cdOf 31).closeSig = none ∧ (c.cdOf 31).guard = Mr.none_ ∧ ((c.setSafe Cls.coil 31 { inSafe := false }).safeOf Cls.coil 31).inSafe = false ∧
      ((c.setSafe Cls.coil 31 { inSafe := true }).safeOf Cls.coil 31).inSafe = true ∧ (c.cdOf 31).dest = 0 ∧ c.bit F.CD_STAT_ON_PEND 31 = false ∧ (up.cdOf 31).clamp = false ∧ (coil 0 Ph.hold {}).cdLead 0 = true ∧ (coil 0 Ph.hold {}).cdEnergised 0 = true ∧
      (coil 31 Ph.supply {}).cdPhase 31 = Ph.supply ∧ accepts up (R.CD_CFG.at 31) 0x280000 (up.cdCfgChk false 31) = true ∧ clears g (R.CD_FLT.at 31) 1 0 = true ∧
      g.cdPhase 31 = Ph.fault ∧ (g.safeOf Cls.coil 31).inSafe = false ∧ down.pdReach = false ∧ down.pathOpen .sk0 ∧ down.ringOpen := by
  unfold State.pathOpen State.ringOpen; decide +kernel

theorem witness_CoilObservationRows :
    let a := coil 31 Ph.hold { closeObs := true }
    let d := paired (coil 30 Ph.pullin { openAt := some 0 }) 30
    let di (op : Bool) (n : Nat) (s : State) := ((s.put F.DI_CFG_EN 1 7).put (if op then F.CD_ENDC_OP_DI else F.CD_ENDC_CL_DI) 7 n).put (if op then F.CD_ENDC_OP_EN else F.CD_ENDC_CL_EN) 1 n
    let e := di true 30 (coil 30 Ph.pullin { openAt := some 0 })
    let b := gained 31 (((coil 31 Ph.hold { armed := true }).put F.CD_CFG_HOLD_SRC 1 31).put F.CD_HOLD_LRN_VALID 1 31)
    let b2 := b.setCd 31 { armed := true, ambigAt := some 0 }
    let t := ((b.cdTarget 31).map toSteps).getD 0
    let bump (l : List Nat) := bumpResult (b.cdExcess 31 0 (l.map (fun i => (i, 0)))) (b.get F.CD_MOTCFG_BUMP_TH 31)
    let act (c : CdChan) := (gained 31 (coil 31 Ph.hold c)).put F.CD_PULL_T_PULL 100 31
    let th := b.get F.CD_MOTCFG_BUMP_TH 31
    let k := di true 31 b
    let q := di false 31 (coil 31 Ph.hold { closeObs := true })
    let clear (first u raw n : Nat) (s : State) := raw ≤ 8 ∧ u + 100 * s.get F.CD_ENDC_DEB n ≤ first + 20000
    (a.cdOf 31).clamp = false ∧ (a.cdOf 31).closeObs = true ∧ a.bit F.CD_ENDC_CL_EN 31 = false ∧ a.cdPhase 31 ≠ Ph.stroke ∧ a.cdLearnedTime 31 false = none ∧
      (up.cdOf 31).closeObs = false ∧ d.cdPaired 30 = true ∧ (d.cdOf 30).openAt.isSome = true ∧ (d.cdOf 30).sig = none ∧ up.cdPaired 30 = false ∧
      (e.cdOf 30).openAt.isSome = true ∧ (e.cdOf 30).openEnd = false ∧ e.bit F.CD_ENDC_OP_EN 30 = true ∧ e.bit F.DI_CFG_EN (e.get F.CD_ENDC_OP_DI 30) = true ∧
      (e.cdOf 30).opEdge = none ∧ (e.cdOf 30).opChat = false ∧ e.cdLead 30 = true ∧ e.cdPhase 30 = Ph.pullin ∧ clear 0 0 8 30 e ∧ ¬ clear 0 0 9 30 e ∧ false = e.bit F.CD_ENDC_OP_POL 30 ∧
      (b.cdOf 31).openAt = none ∧ (b.cdOf 31).closeObs = false ∧ (b.cdOf 31).armed = true ∧ b.cdPhase 31 = Ph.hold ∧ b.cdLearned 31 = true ∧
      bump (List.replicate 3 (t + 2 * th + 1)) = Mr.clear ∧ bump [t, t] = Mr.none_ ∧ (b.cdOf 31).ambigAt = none ∧
      bumpResult [25, 26, 25] 20 = Mr.ambig ∧ 0 < (act {}).get F.CD_PULL_T_PULL 31 ∧ ((act { guard := Mr.clear }).cdOf 31).guard = Mr.clear ∧ ((act { guard := Mr.ambig }).cdOf 31).ambigAt = none ∧
      cdGrid b2.now (b2.cdOf 31).bndAt ≤ 0 + 600000000 ∧ ({ act { guard := Mr.ambig, ambigAt := some 0 } with now := 600000001 } : State).now > 0 + 600000000 ∧
      (a.cdOf 31).closeSig = none ∧ ((coil 31 Ph.idle { closeObs := true, closeSig := some (Mr.clear, 5) }).cdOf 31).closeSig = some (Mr.clear, 5) ∧
      (coil 31 Ph.idle { closeObs := true, closeSig := some (Mr.clear, 5) }).cdLearnedTime 31 false = none ∧ (coil 31 Ph.idle {}).cdPhase 31 = Ph.idle ∧ (b2.cdOf 31).ambigAt = some 0 ∧ b2.now ≤ 0 + 600000000 ∧ (up.cdOf 31).armed = false ∧
      k.cdLead 31 = true ∧ k.bit F.CD_ENDC_OP_EN 31 = true ∧ k.cdLearned 31 = true ∧ k.cdPhase 31 = Ph.hold ∧ clear 0 20000 8 31 (k.put F.CD_ENDC_DEB 0 31) ∧
      (q.cdOf 31).clEdge = none ∧ (q.cdOf 31).closeObs = true ∧ q.bit F.CD_ENDC_CL_EN 31 = true ∧ q.bit F.DI_CFG_EN (q.get F.CD_ENDC_CL_DI 31) = true ∧ q.cdPhase 31 ≠ Ph.probe ∧
      up.bit F.DI_CFG_EN (up.get F.CD_ENDC_OP_DI 31) = false := by
  decide +kernel

theorem witness_CoilLearningRows :
    let w := (up.put F.CD_LWIN_OPEN 1).put F.CD_LWIN_MAXRUN 1
    let m (n ph : Nat) (c : CdChan) := ((w.put F.CD_STAT_PHASE ph n).put F.CD_CFG_MODE Md.pullHold n).setCd n c
    let h : State := { (m 31 Ph.hold {}).put F.CD_HOLD_I_HOLD 300 31 with now := 1000000 }
    let k (j : Nat) := (m 31 (if j = 2 then Ph.probe else Ph.stroke) {}).put F.CD_LEARN_STAT_KIND j 31
    let e (s : State) := if s.cdLead 31 then (s.opened .sk0).cdEarlyEvents 31 (s.get F.CD_MEAS_I_MEAS 31) else s.opened .sk0
    let st (s : State) := Nat.max 1 ((2 * (e s).cdHold 31 * s.get F.CD_PRB_CFG_PSTEP 31 + 100) / 200)
    F.CD_LWIN_MINUTES.of (1440 : Word) ≤ 1440 ∧ 0 < F.CD_LWIN_MINUTES.of (1440 : Word) ∧ accepts up R.CD_LWIN.at 1440 (fun _ => Res.applied) = true ∧
      F.CD_LWIN_MINUTES.of (0 : Word) = 0 ∧ accepts up R.CD_LWIN.at 0 (fun _ => Res.applied) = true ∧
      1440 < F.CD_LWIN_MINUTES.of (1441 : Word) ∧ 1 < (w.put F.CD_LWIN_MINUTES 2).get F.CD_LWIN_MINUTES ∧ (w.put F.CD_LWIN_MINUTES 1).get F.CD_LWIN_MINUTES = 1 ∧
      w.bit F.CD_LWIN_OPEN = true ∧ up.bit F.CD_LWIN_OPEN = false ∧ (e (m 31 Ph.idle {})).cdLearnOk 31 true = true ∧ (e (m 31 Ph.hold {})).cdLearnOk 31 true = false ∧
      (e h).cdLearnOk 31 false = true ∧ ((e h).cdOf 31).openAt = none ∧ ((e h).cdOf 31).closeObs = false ∧
      (e (m 31 Ph.hold {})).cdLearnOk 31 false = false ∧ st h ≤ (e h).cdHold 31 ∧ h.get F.CD_PRB_CFG_PFLOOR 31 ≤ (e h).cdHold 31 - st h ∧
      (e (k 2)).get F.CD_LEARN_STAT_KIND 31 = 2 ∧ ((e (k 2)).cdOf 31).openAt = none ∧ ((e (k 2)).cdOf 31).closeObs = false ∧ (e (k 1)).get F.CD_LEARN_STAT_KIND 31 = 1 ∧
      (e up).get F.CD_LEARN_STAT_KIND 31 = 0 := by
  decide +kernel

theorem witness_CoilLearningRows_steps :
    let m (ph step : Nat) (c : CdChan) := ((((up.put F.CD_STAT_PHASE ph 31).put F.CD_CFG_MODE Md.pullHold 31).put F.CD_LEARN_STAT_STEP step 31).put F.CD_STK_PAR_CYCLES 5 31).setCd 31 c
    let p := m Ph.stroke 0 { pullDue := some 5 }
    let h (n : Nat) := m Ph.stroke n { holdDue := some 5 }
    let b (l : Nat) := m Ph.probe 0 { lvl := l, i0 := 300, pstep := 3 }
    let stp := ((b 0).cdOf 31).pstep
    (p.cdOf 31).pullDue = some 5 ∧ p.get F.CD_LEARN_STAT_STEP 31 % 4 = 0 ∧ p.cdPhase 31 = Ph.stroke ∧ (p.cdOf 31).openAt = none ∧
      (h 1).get F.CD_LEARN_STAT_STEP 31 % 4 = 1 ∧ ((h 1).cdOf 31).holdDue = some 5 ∧ (h 2).get F.CD_LEARN_STAT_STEP 31 % 4 = 2 ∧ ((h 2).cdOf 31).clamp = false ∧
      ((h 2).cdOf 31).closeObs = false ∧ (h 3).get F.CD_LEARN_STAT_STEP 31 % 4 = 3 ∧ (h 3).get F.CD_LEARN_STAT_STEP 31 + 1 < 4 * (h 3).get F.CD_STK_PAR_CYCLES 31 ∧
      4 * (h 19).get F.CD_STK_PAR_CYCLES 31 ≤ (h 19).get F.CD_LEARN_STAT_STEP 31 + 1 ∧ (h 19).get F.CD_LEARN_STAT_STEP 31 % 4 = 3 ∧ up.cdPhase 31 ≠ Ph.stroke ∧
      (b 300).cdPhase 31 = Ph.probe ∧ ((b 300).cdOf 31).bumpSig = none ∧ ((b 300).cdOf 31).opEdge = none ∧ ((b 300).cdOf 31).clEdge = none ∧ stp ≤ 300 ∧
      (b 300).get F.CD_PRB_CFG_PFLOOR 31 ≤ 300 - stp ∧ ((b 0).cdOf 31).lvl < stp ∧ up.cdPhase 31 ≠ Ph.probe ∧
      accepts up (R.CD_HOLD_LRN.at 31) 0x80000000 (fun _ => Res.applied) = true := by
  decide +kernel

theorem witness_CoilProtectionModelRows_thermal :
    let s := ((up.put F.CD_TH_G_RWB 10 0).put F.CD_TH_C_CW 100 0).put F.CD_TH_LIM_TW_MAX 150 0
    let hot := s.setCd 0 { tw := some (fOfNat 200), tb := some (fOfNat 200) }
    let tw (s : State) :=
      let rw := (fMul (fOfRat (s.get F.CD_TH_R_RC20 0) 100) (fAdd (fOfNat 1) (fMul (fOfRat 393 100000) (fSub (s.cdTw 0) (fOfNat 20)).val).val).val).val
      let q := (fDiv (fSub (s.cdTw 0) (s.cdTb 0)).val (fOfRat (s.get F.CD_TH_G_RWB 0) 10)).val
      (fAdd (s.cdTw 0) (fDiv (fMul (fSub (fMul 0 rw).val q).val (fOfRat 1 1000)).val (fOfRat (s.get F.CD_TH_C_CW 0) 100)).val).val
    s.cdLead 0 = true ∧ (s.cdOf 0).sqCnt = 0 ∧ fLe (fOfNat (s.get F.CD_TH_LIM_TW_MAX 0)) (tw s) = false ∧ fLe (fOfNat (hot.get F.CD_TH_LIM_TW_MAX 0)) (tw hot) = true ∧
      hot.bit F.CD_FLT_THERM 0 = false := by
  decide +kernel

theorem witness_CoilProtectionModelRows :
    let r (v : Int) (i : Nat) := (coil 31 Ph.hold { rwOk := true, rwV := v, rwI := i }).put F.CD_TH_R_RC20 100 31
    let inRange (s : State) (v i : Nat) := 7 * s.get F.CD_TH_R_RC20 31 * (i * 1250) ≤ 1000 * (v * 100000) ∧ 10 * (v * 100000) * 100 ≤ 16 * s.get F.CD_TH_R_RC20 31 * (i * 1250)
    let st (n : Nat) : State := up.put F.CD_DBUD_STAT_STAGE n
    let hot (s : State) : State := { s with cdg := { s.cdg with pf := 0x447A0000 } }
    let low : State := { st 1 with cdg := { up.cdg with lowMs := 1000 } }
    let ovr (d : Bool) : State := { up with cdg := { up.cdg with overMs := 1000, overDone := d } }
    let u (x : Bool) : State := (coil 3 Ph.shed {}).setSafe Cls.coil 3 { inSafe := x }
    let find (s : State) := (List.range 32).find? (fun k => s.cdPhase k = Ph.shed && !s.cdShedNow k)
    ((r 1 100).cdOf 31).rwI ≠ 0 ∧ ((r 1 100).cdOf 31).rwOk = true ∧ (r 1 100).cdPhase 31 = Ph.hold ∧ (r 1 100).cdLead 31 = true ∧ inRange (r 1 100) 1 100 ∧ ¬ inRange (r 1 1000) 1 1000 ∧ (up.cdOf 31).rwOk = false ∧
      ((coil 31 Ph.hold {}).cdOf 31).buckets = 0 :: [] ∧ ((coil 31 Ph.hold {}).cdOf 31).bucketMs < 1000 ∧ 1000 ≤ ((coil 31 Ph.hold { bucketMs := 1000 }).cdOf 31).bucketMs ∧
      (paired up 30).cdLead 31 = false ∧
      (st 5).cdStage = 5 ∧ fLt (hot (st 5)).cdBudgetW (hot (st 5)).cdg.pf = true ∧ (st 6).cdStage = 6 ∧ fLt up.cdBudgetW up.cdg.pf = false ∧ 0 < low.cdStage ∧ 1000 ≤ low.cdg.lowMs ∧
      1000 ≤ (ovr false).cdg.overMs ∧ (ovr false).cdg.overDone = false ∧
      find (u false) = some 3 ∧ ((u false).safeOf Cls.coil 3).inSafe = false ∧ find (u true) = some 3 ∧ ((u true).safeOf Cls.coil 3).inSafe = true ∧ (u true).cdLead 3 = true := by
  decide +kernel

/-- up with converter k in a state, and what the block holds of it. -/
def converter (k ph : Nat) (c : AdcConv) : State := (up.setAdcState k ph).setConv k c

theorem witness_ConverterRows :
    let t (ph : Nat) : State := (converter 3 ph {}).put F.ADC_CTRL_TSRC 9 3
    let x : AdcCfg := ⟨0, 0, 0, 1, 1, 0, 0⟩
    let v (n : Nat) (l : List AdcCfg) (c : AdcConv) := converter 3 Adc.normal { c with nseq := l, n := n }
    let inj : State := { v 0 [x] {} with adc := { (v 0 [x] {}).adc with inj := [(48, 0, 100)] } }
    edgeOk 9 0 true = true ∧ (t Adc.idle).get F.ADC_CTRL_TSRC 3 = 9 ∧ (t Adc.idle).get F.ADC_CTRL_USRC 3 ≠ 9 ∧ (t Adc.idle).adcState 3 = Adc.idle ∧
      (t Adc.normal).adcState 3 = Adc.normal ∧ (t Adc.urgent).adcState 3 = Adc.urgent ∧ (t Adc.urgent).bit F.ADC_STAT_PREEMPTED 3 = false ∧
      (t Adc.urgent).bit F.ADC_STAT_NPEND 3 = false ∧ (up.put F.FAN_GTRIG_EN 1 3).bit F.FAN_GTRIG_EN 3 = true ∧ up.bit F.FAN_GTRIG_EN 3 = false ∧
      (up.put F.ADC_TMR_EN 1 3).bit F.ADC_TMR_EN 3 = true ∧ up.bit F.ADC_TMR_EN 3 = false ∧ ((t Adc.normal).put F.ADC_CTRL_UEN 1 3).bit F.ADC_CTRL_UEN 3 = true ∧
      ((converter 3 Adc.startup { startFor := 2 }).conv 3).startFor = 2 ∧ (converter 3 Adc.startup {}).bit F.ADC_STAT_UPEND 3 = false ∧
      ((v 0 [x] {}).conv 3).nseq[(v 0 [x] {}).get F.ADC_STAT_ENTRY 3]? = some x ∧ ((v 0 [x] {}).conv 3).n < x.conv ∧ x.conv ≤ ((v 1 [x] {}).conv 3).n ∧
      (v 0 [x] {}).suspect 3 0 0 (0 + x.cycles - 24) = false ∧ ((v 0 [x] { rep := true }).conv 3).rep = true ∧ 0 + 1 < ((v 1 [x, x] {}).conv 3).nseq.length ∧
      ((v 1 [x] {}).conv 3).chkDue = false ∧ inj.adc.inj = [(48, 0, 100)] ∧ inj.suspect 3 1 0 (0 + x.cycles - 24) = true := by
  decide +kernel

theorem witness_ConverterRows_more :
    let x : AdcCfg := ⟨0, 0, 0, 1, 1, 0, 0⟩
    let n := (converter 3 Adc.startup { startFor := 1 }).put F.ADC_CTRL_TSRC 9 3
    let u := converter 3 Adc.urgent { useq := [x] }
    let c := converter 3 Adc.check { n := 6 }
    let g : State := (up.put F.FAN_GTRIG_EN 1 3).setFanGrp 3 { per := 3200 }
    n.adcState 3 = Adc.startup ∧ (n.conv 3).startFor = 1 ∧ (converter 3 Adc.startup {}).adcState 3 = Adc.startup ∧ ((converter 3 Adc.startup {}).conv 3).startFor = 0 ∧
      g.bit F.FAN_GTRIG_EN 3 = true ∧ ((g.fanSync 3).fanGrp 3).per ≠ 0 ∧ ((up.fanSync 3).fanGrp 3).per = 0 ∧ (up.put F.ADC_CTRL_TSRC 8 3).get F.ADC_CTRL_TSRC 3 = 5 + 3 ∧
      u.adcState 3 = Adc.urgent ∧ (u.conv 3).useq[u.get F.ADC_STAT_UENTRY 3]? = some x ∧ (u.conv 3).rep = false ∧ (u.conv 3).n < x.conv ∧
      u.suspect 3 x.pin (u.conv 3).cyc ((u.conv 3).cyc + x.cycles - 24) = false ∧ c.adcState 3 = Adc.check ∧ (c.conv 3).n + 1 < 8 ∧ up.adcState 3 ≠ Adc.startup ∧
      up.adcState 3 ≠ Adc.normal ∧ up.adcState 3 ≠ Adc.urgent ∧ up.adcState 3 ≠ Adc.check ∧ up.adc.snaps = [] ∧ ((up.put F.ADC_PIN_MODE 1 3 15).get F.ADC_PIN_MODE 3 15 ≠ 0) ∧
      (BitVec.twoPow 64 63).getLsbD (16 * 3 + 15) = true := by
  decide +kernel

theorem witness_ConverterRows_crossing :
    let f := converter 3 Adc.idle { fifo := [(0, {})], lsum := [(0, 7, 1)] }
    let a : AdcAcc := { sum := 7, count := 1 }
    let p : State := { up.setWord (R.PT_BIND.at 9) (bindWord Kind.acc (accRef 3 0 0)) with adc := { up.adc with snaps := [(3, 0, a, false)] } }
    (f.conv 3).fifo = (0, {}) :: [] ∧ (f.conv 3).lsum = [(0, 7, 1)] ∧ (up.conv 3).fifo = [] ∧ up.adc.snaps = [] ∧ p.adc.snaps = (3, 0, a, false) :: [] ∧
      p.boundTo Kind.acc (accRef 3 0 0) = [9] ∧ (∀ j ∈ [1, 2, 3], p.boundTo Kind.acc (accRef 3 0 j) = []) := by
  decide +kernel

theorem witness_ConverterCheckRows :
    let pins := up.put F.ADC_PIN_MODE 1 3 0
    let d := converter 2 Adc.idle { chkDue := true }
    let c := converter 2 Adc.check { n := 7 }
    let o : State := { c.setConv 3 { chkDone := some (0, false) } with adc := { (c.setConv 3 { chkDone := some (0, false) }).adc with open_ := [false, true] } }
    let codes : List (Nat × Option Bool) := [(4095, some true)]
    let e : State := converter 2 Adc.check {}
    (d.conv 2).chkDue = true ∧ d.adcState 2 = Adc.idle ∧ (up.conv 2).chkDue = false ∧ c.adcState 2 = Adc.check ∧ (c.conv 2).rep = false ∧
      (c.conv 2).n + codes.length = 8 ∧ codes ≠ [] ∧ (e.conv 2).n + (List.replicate 8 ((0, none) : Nat × Option Bool)).length = 8 ∧
      c.adc.open_.getD 1 false = false ∧ o.adc.open_.getD 1 false = true ∧ (o.conv (2 + 1)).chkDone = some (0, false) ∧ o.adcState 2 = Adc.check ∧
      accepts pins (R.ADC_CTRL.at 3) 0 (fun x => if pins.seqOk 3 x then Res.applied else Res.refConfig) = true := by
  decide +kernel

/-- up with fan channel n in a state, and what the block holds of it. -/
def fan (n st : Nat) (c : FanChan) : State := ((up.put F.FAN_STAT_STATE st n).put F.FAN_CFG_EN 1 n).setFan n c

theorem witness_FanRows :
    let f : Fwd := ⟨Cls.fan, 31, 0x42480000, Qual.good⟩
    let q : Fwd := ⟨Cls.fanQual, 31, 0, Qual.stale⟩
    let free (s : State) : State := (fanMembers 3).foldl (fun s m => s.setSafe Cls.fan m { inSafe := false }) s
    let d : Word := Word.ofN (2 ^ F.FAN_GCMD_TDUTY.lo + 2 ^ F.FAN_GCMD_TTIME.lo) ||| 0x80000000
    ((fan 31 Fs.run {}).fanOf 31).edgeAt = none ∧ ((fan 31 Fs.run { edgeAt := some 0 }).fanOf 31).edgeAt = some 0 ∧ up.now + 999999 - 0 < 1000000 ∧
      1000000 ≤ up.now + 1000000 - 0 ∧ ({ up with fwd := [q, f] } : State).fwd.find? (fun f => f.cls == Cls.fan && f.chan == 31) = some f ∧
      ({ up with fwd := [q, f] } : State).fwd.find? (fun f => f.cls == Cls.fanQual && f.chan == 31) = some q ∧
      ((up.setFanGrp 3 { watchEnd := some 9 }).fanGrp 3).watchEnd = some 9 ∧ ((up.setFanGrp 3 { testEnd := some 9 }).fanGrp 3).testEnd = some 9 ∧
      (free up).fanTestOk 3 d = true ∧ up.fanTestOk 3 d = false ∧ clears (up.setWord (R.FAN_FLT.at 31) 1) (R.FAN_FLT.at 31) 1 0 = true := by
  decide +kernel

theorem witness_FanRows_idle :
    (up.fanOf 31).edgeAt = none ∧ up.fwd.find? (fun f => f.cls == Cls.fan && f.chan == 31) = none ∧ up.fwd.find? (fun f => f.cls == Cls.fanQual && f.chan == 31) = none ∧
      (up.fanGrp 3).watchEnd = none ∧ (up.fanGrp 3).testEnd = none ∧ up.ringOpen ∧ 8 * 3 + 7 = 31 := by
  unfold State.ringOpen; decide +kernel

theorem witness_FanEvaluationRows :
    let free (s : State) : State := (fanMembers 3).foldl (fun s m => (s.setSafe Cls.fan m { inSafe := false }).setFan m { s.fanOf m with wasSafe := false }) s
    let st := free (fan 31 Fs.stop {})
    let on : State := { (st.put F.FAN_TSUP_SPD_MIN 500 31) with cmds := [] }
    let kick := fan 31 Fs.kick { kickDue := some 7, good := 1 }
    let low := (fan 31 Fs.run { lowAt := some 7 }).put F.FAN_TSUP_SPD_MIN 500 31
    let sup := free ((fan 31 Fs.run { lapseAt := some 0 }).put F.FAN_CFG_SUP_CMD 1 31)
    let g (f : FanState) : State := { up with fan := f }
    up.bit F.FAN_CFG_EN 31 = false ∧ (st.fanGrp 3).testEnd = none ∧ st.bit F.FAN_GSTAT_FAILOVER 3 = false ∧ st.bit F.FAN_GSTAT_WATCH 3 = false ∧
      (∀ m ∈ fanMembers 3, (st.fanOf m).wasSafe = false ∧ (st.safeOf Cls.fan m).inSafe = false) ∧ st.bit F.FAN_CFG_EN 31 = true ∧ st.fanRoomFail 31 = false ∧
      st.bit F.FAN_CFG_SUP_HOST 31 = false ∧ st.bit F.FAN_CFG_SUP_CMD 31 = false ∧ st.fanState 31 = Fs.stop ∧ st.fanCmdDuty 31 = 0 ∧ st.fanFast 31 = true ∧ on.fanFast 31 = false ∧
      kick.fanState 31 = Fs.kick ∧ (kick.fanOf 31).kickDue = some 7 ∧ (kick.fanOf 31).good < 2 ∧ low.fanState 31 = Fs.run ∧ (low.fanOf 31).lowAt = some 7 ∧
      low.get F.FAN_LIM_SUP_DUTY 31 ≤ low.fanDuty 31 ∧ (low.fanOf 31).settleAt + 100000 * low.get F.FAN_TSUP_SETTLE 31 ≤ low.now ∧ low.fanFast 31 = false ∧
      (sup.fanOf 31).lapseAt = some 0 ∧ sup.bit F.FAN_CFG_SUP_CMD 31 = true ∧ sup.fanState 31 = Fs.run ∧
      (∀ m ∈ fanMembers 3, (sup.fanOf m).wasSafe = false ∧ (sup.safeOf Cls.fan m).inSafe = false) ∧
      (st.fanOf 31).enSeq = 0 ∧ ((fan 31 Fs.stop { enSeq := 3 }).fanOf 31).enSeq = 3 ∧ ((fan 31 Fs.stop { enSeq := 1 }).fanOf 31).enSeq = 1 ∧
      (fan 31 Fs.disabled {}).fanState 31 = Fs.disabled ∧ ({ st.setCmd Cls.fan 31 0x42480000 with now := st.now }).fanCmdDuty 31 ≠ 0 ∧
      (up.put F.FAN_GUARD_TRIP 1).bit F.FAN_GUARD_TRIP = true ∧ (g { up.fan with coolAt := some 9 }).fan.coolAt = some 9 ∧
      (g { up.fan with diffAt := some 9 }).bit F.FAN_GUARD_FLT_SENSE_DIFF = false ∧ (g { up.fan with openAt := some 9 }).bit F.FAN_GUARD_FLT_TG_OPEN = false := by
  decide +kernel

theorem witness_FieldContactRows :
    let e := up.put F.DI_CFG_EN 1 63
    let l := e.put F.FIO_GSTAT_VF_LOW 1
    let q := up.put F.ADC_ENT_SNAPDIV 1 3 15
    let r : State := e.setFio { e.fio with runs := [(63, 1)] }
    let need (s : State) := diNeed (s.get F.DI_CFG_DEB 63) - s.diRun 63
    up.bit F.DI_CFG_EN 63 = false ∧ e.bit F.DI_CFG_EN 63 = true ∧ e.bit F.FIO_GSTAT_VF_LOW = false ∧ l.bit F.FIO_GSTAT_VF_LOW = true ∧ l.bit F.DI_CFG_EN 63 = true ∧
      e.fio.invBy.getLsbD 63 = false ∧ ((true != e.bit F.DI_CFG_INV 63) = !e.fio.di.getLsbD 63) ∧ ¬ ((false != e.bit F.DI_CFG_INV 63) = !e.fio.di.getLsbD 63) ∧
      1 < need (e.put F.DI_CFG_DEB 0 63) ∧ need (r.put F.DI_CFG_DEB 0 63) ≤ 1 ∧ need (e.put F.DI_CFG_DEB 1 63) ≤ 26 ∧
      accepts up (R.DI_CFG.at 63) 0x81000000 (fun x => if F.DI_CFG_WET.of x = 3 then Res.refConfig else Res.applied) = true ∧
      F.ADC_ENT_SNAPDIV.of (q.entWord 3 15) ≠ 0 ∧ q.frame % F.ADC_ENT_SNAPDIV.of (q.entWord 3 15) = 0 ∧ State.reset.linkUp = false := by
  decide +kernel

theorem witness_FieldOutputRows :
    let s := (up.put F.DO_CFG_EN 1 31).setSafe Cls.relay 31 { inSafe := false }
    let on := s.setCmd Cls.relay 31 0x3F800000
    let late : State := { on.put F.DO_TIME_MIN_OFF 1 31 with now := 1 }
    let a := ((up.put F.AO_CFG_EN 1 15).setSafe Cls.ao 15 { inSafe := false }).setCmd Cls.ao 15 0x40A00000
    let high := (a.put F.AO_CFG_SLEW 1 15).setFio { a.fio with ao := [(15, aoTarget 0x40A00000 + 1)] }
    let f : Fwd := ⟨Cls.relay, 31, 0x3F800000, Qual.good⟩
    let g : Fwd := ⟨Cls.ao, 15, 0x3F800000, Qual.good⟩
    (s.doOf 31).tripAt = none ∧ s.word (R.DO_FLT.at 31) = 0 ∧ s.bit F.DO_CFG_EN 31 = true ∧ (s.safeOf Cls.relay 31).inSafe = false ∧ s.doCmd 31 = s.doClosed 31 ∧
      on.doCmd 31 ≠ on.doClosed 31 ∧ (on.put F.DO_STAT_PEND 1 31).bit F.DO_STAT_PEND 31 = true ∧ s.bit F.DO_STAT_PEND 31 = false ∧
      late.now < (late.doOf 31).since + 100000 * late.get F.DO_TIME_MIN_OFF 31 ∧ (s.put F.DO_STAT_OUT 1 31).doClosed 31 = true ∧ s.doClosed 31 = false ∧
      (s.put F.DO_CFG_OL_EN 1 31).bit F.DO_CFG_OL_EN 31 = true ∧ s.bit F.DO_CFG_OL_EN 31 = false ∧ s.bit F.FIO_GSTAT_VF_LOW = false ∧
      ({ up with fwd := [g, f] } : State).fwd.find? (fun f => f.cls == Cls.relay && f.chan == 31) = some f ∧
      ({ up with fwd := [f, g] } : State).fwd.find? (fun f => f.cls == Cls.ao && f.chan == 15) = some g ∧
      a.bit F.AO_FLT_OVL 15 = false ∧ a.bit F.AO_CFG_EN 15 = true ∧ up.bit F.AO_CFG_EN 15 = false ∧ (a.safeOf Cls.ao 15).inSafe = false ∧ a.cmdOf Cls.ao 15 = some 0x40A00000 ∧
      a.get F.AO_CFG_SLEW 15 = 0 ∧ high.get F.AO_CFG_SLEW 15 ≠ 0 ∧ aoTarget 0x40A00000 < high.aoVa 15 ∧ a.aoVa 15 ≤ aoTarget 0x40A00000 ∧
      clears (up.setWord (R.DO_FLT.at 31) 1) (R.DO_FLT.at 31) 1 0 = true ∧ touches ((fieldsAt (R.AO_FLT.at 15)).getD []) 1 = true := by
  decide +kernel

theorem witness_FieldOutputRows_idle :
    let ol := up.put F.DO_CFG_OL_EN 1 31
    ol.bit F.DO_CFG_OL_EN 31 = true ∧ ol.doClosed 31 = false ∧ ol.bit F.FIO_GSTAT_VF_LOW = false ∧ up.bit F.DO_CFG_OL_EN 31 = false ∧
      up.fwd.find? (fun f => f.cls == Cls.relay && f.chan == 31) = none ∧ up.fwd.find? (fun f => f.cls == Cls.ao && f.chan == 15) = none ∧
      touches ((fieldsAt (R.DO_FLT.at 31)).getD []) 0 = false ∧ (up.setWord (R.DO_FLT.at 31) 1).word (R.DO_FLT.at 31) ≠ 0 ∧
      up.fio.vfHi + 1000 ≤ 1000 ∧ up.bit F.FIO_GSTAT_VF_LOW = false ∧ (up.put F.FIO_GSTAT_VF_LOW 1).bit F.FIO_GSTAT_VF_LOW = true := by
  decide +kernel

/-- up with a running controller of segment 15, and what the block holds of it. -/
def segment (x : ZbSeg) : State := (up.put F.ZB_STAT_ACTIVE 1 15).setSeg 15 x

/-- An extended frame of a hardware class to the device: class c, source address 1, tag t. -/
def uplink (c t : Nat) (d : List Byte) : CanFrame := ⟨true, c * 2 ^ 20 + 2 ^ 15 + t, false, false, false, d.length, d, false⟩

theorem witness_ZoneBusReceptionRows :
    let s := segment {}
    let f : CanFrame := ⟨false, 5, false, false, false, 1, [7], false⟩
    let fd (res : Bool) : CanFrame := ⟨false, 5, true, false, false, 1, [7], res⟩
    let m := ((s.setWord (R.ZB_BUF_CFG.at 15 63) 0x40000008).setWord (R.ZB_BUF_ID.at 15 63) 5).setWord (R.ZB_BUF_MASK.at 15 63) 0x7FF
    let r := (segment { tags := [(1023, ⟨2, 1, 0⟩)] }).setWord (R.ZB_TAGCLS.at 15) 0x20
    let w := s.put F.ZB_NODE_CFG_EN 1 15 0
    let rem (id : Nat) : CanFrame := ⟨true, id, false, false, false, 0, [], false⟩
    let g := rem (5 * 2 ^ 20 + 2 ^ 15)
    s.zbLive 15 = true ∧ s.get F.ZB_STAT_ACTIVE 15 ≠ 3 ∧ up.zbLive 15 = false ∧ s.bit F.ZB_ERRCNT_RP 15 = false ∧ (∀ b < 64, s.zbMatch 15 b f = false) ∧
      f.fdf = false ∧ (fd true).fdf = true ∧ (fd true).res = true ∧ s.bit F.ZB_CTRL_FDOE 15 = false ∧ s.bit F.ZB_CTRL_PXD 15 = false ∧ (s.put F.ZB_CTRL_PXD 1 15).bit F.ZB_CTRL_PXD 15 = true ∧
      (fd false).res = false ∧ (s.put F.ZB_CTRL_FDOE 1 15).bit F.ZB_CTRL_FDOE 15 = true ∧ s.bit F.ZB_LASTERR_VALID 15 = false ∧
      (frCls g ≠ 0 ∧ frCls g < 32 ∧ frDest g = 0 ∧ w.bit F.ZB_NODE_CFG_EN 15 (nodeIdx (frSource g)) = true) ∧ s.bit F.ZB_NODE_CFG_EN 15 (nodeIdx (frSource g)) = false ∧
      (∀ c < 63, m.zbMatch 15 c f = false) ∧ m.zbMatch 15 63 f = true ∧ (frBytes f).length ≤ capacity (m.bufCfg 15 63) ∧ (areaOf (m.bufCfg 15 63)).2 ≤ 1536 ∧
      m.listed R.PT_BIND = [] ∧
      (let q := uplink 5 1023 []; frDest q = 0 ∧ frCls q = 5 ∧ (r.word (R.ZB_TAGCLS.at 15)).getLsbD 5 = true ∧ r.bit F.ZB_NODE_CFG_EN 15 (nodeIdx (frSource q)) = false ∧
        (r.seg 15).tags.lookup (frTag q) = some ⟨2, frSource q, 0⟩ ∧ (s.seg 15).tags.lookup (frTag q) = none) := by
  decide +kernel

theorem witness_ZoneBusReceptionRows_hardware :
    let s := segment {}
    let n := (s.put F.ZB_ENUM_EN 1 15)
    let k := ((n.put F.ZB_NODE_CFG_EN 1 15 31).put F.ZB_NODE_SER_SERIAL 9 15 31)
    let w := s.put F.ZB_NODE_CFG_EN 1 15 0
    let a := uplink 1 0 [9, 0, 0, 0, 0, 0, 0, 0]
    let v := uplink 2 5 [0xFF, 0x7F, 1, 0, 0, 0, 0, 0]
    frDest a = 0 ∧ a.dlc % 16 = 8 ∧ (uplink 1 0 [9]).dlc % 16 ≠ 8 ∧ 8 < ({ a with dlc := 9 } : CanFrame).dlc % 16 ∧ s.bit F.ZB_ENUM_EN 15 = false ∧ n.bit F.ZB_ENUM_EN 15 = true ∧
      (∀ j < 32, n.bit F.ZB_NODE_CFG_EN 15 j = false) ∧
      n.bit F.ZB_UNK_HI_VALID 15 = false ∧ (∀ j < 31, k.bit F.ZB_NODE_CFG_EN 15 j = false) ∧ k.bit F.ZB_NODE_CFG_EN 15 31 = true ∧ k.nodeSerial 15 31 = leVal ((frBytes a).take 6) ∧
      w.bit F.ZB_NODE_CFG_EN 15 (nodeIdx (frSource v)) = true ∧ v.dlc % 16 = 8 ∧ leVal (((frBytes v).drop 3).take 1) = 0 ∧ leVal (((frBytes v).drop 2).take 1) ≤ 1 ∧ (w.seg 15).hwq.length < 8 ∧
      (w.seg 15).nw.lookup 0 = none ∧ w.bit F.ZB_NW_EN 15 = false ∧ (w.put F.ZB_NW_EN 1 15).bit F.ZB_NW_EN 15 = true ∧ leVal ((frBytes v).take 2) < 32768 ∧
      32768 ≤ leVal ((frBytes (uplink 2 5 [0, 0x80, 0, 0, 0, 0, 0, 0])).take 2) ∧ (s.put F.ZB_NODE_CFG_STATE 2 15 31).get F.ZB_NODE_CFG_STATE 15 31 ≠ 0 ∧
      s.get F.ZB_NODE_CFG_STATE 15 31 = 0 := by
  decide +kernel

theorem witness_ZoneBusTransmissionRows :
    let s := segment {}
    let c (x : Word) := s.setWord (R.ZB_BUF_CFG.at 15 63) x
    let t := c 0x80000088
    let g := c 0x81000088
    let q (x : ZbSeg) := (segment { x with reqs := [(63, { tenant := 0, gen := 0, tag := none })] }).put F.ZB_BUF_STAT_TXREQ 1 15 63
    let b := q { onBus := some (.buf 63) }
    s.zbMayUse 0 (R.ZB_BUF_STAT.at 15 63) = true ∧ s.zbMayUse 5 (R.ZB_BUF_STAT.at 15 63) = false ∧ t.bit F.ZB_BUF_STAT_TXREQ 15 63 = false ∧ F.ZB_BUF_CFG_DIR.of (t.bufCfg 15 63) = 2 ∧
      F.ZB_BUF_CFG_TXDLC.of (t.bufCfg 15 63) = 8 ∧ F.ZB_BUF_CFG_FDF.of (t.bufCfg 15 63) = 0 ∧ F.ZB_BUF_CFG_TAGGED.of (t.bufCfg 15 63) = 0 ∧
      (c (Word.ofN (0x80000088 + 2 ^ F.ZB_BUF_CFG_FDF.lo)) |> fun t => F.ZB_BUF_CFG_FDF.of (t.bufCfg 15 63) = 1) ∧ (s.put F.ZB_CTRL_FDOE 1 15).bit F.ZB_CTRL_FDOE 15 = true ∧
      F.ZB_BUF_CFG_TAGGED.of (g.bufCfg 15 63) = 1 ∧ F.ZB_BUF_CFG_DIR.of (g.bufCfg 15 63) = 2 ∧ (g.seg 15).freeTag = some 0 ∧ F.ZB_BUF_CFG_DIR.of (s.bufCfg 15 63) ≠ 2 ∧
      (b.seg 15).onBus = some (.buf 63) ∧ (b.seg 15).reqs.lookup 63 = some { tenant := 0, gen := 0, tag := none } ∧ ((q {}).seg 15).onBus ≠ some (.buf 63) ∧
      (q {}).zbMaySend 15 = true ∧ ((q {}).seg 15).onBus = none ∧ (q {}).zbCandidates 15 ≠ [] ∧ up.zbMaySend 15 = false ∧ s.zbCandidates 15 = [] ∧ (b.seg 15).rst = false ∧
      b.get F.ZB_STAT_ACTIVE 15 ≠ 3 ∧ b.bit F.ZB_BUF_CFG_ONESHOT 15 63 = false := by
  decide +kernel

theorem witness_ZoneBusTransmissionRows_late :
    let b := ((((segment { onBus := some (.buf 63) }).put F.ZB_BUF_CFG_FDF 1 15 63).put F.ZB_BUF_CFG_BRS 1 15 63).put F.ZB_TDC_TDCE 1 15).put F.ZB_ERRCNT_TEC 250 15
    (segment {}).tstate 0 ≠ 2 ∧ (b.put F.TEN_CTX_STAT_STATE 2 5).tstate 5 = 2 ∧ ((b.put F.TEN_CTX_STAT_STATE 2 5).put F.ZB_BUF_CFG_TENANT 5 15 63).zbMayUse 5 (R.ZB_BUF_STAT.at 15 63) = true ∧
      b.zbLive 15 = true ∧ 255 < b.get F.ZB_ERRCNT_TEC 15 + 8 ∧ b.bit F.ZB_TDC_TDCE 15 = true ∧ (b.seg 15).onBus = some (.buf 63) ∧ F.ZB_BUF_CFG_FDF.of (b.bufCfg 15 63) = 1 ∧
      F.ZB_BUF_CFG_BRS.of (b.bufCfg 15 63) = 1 ∧ (b.seg 15).rst = false := by
  decide +kernel

theorem witness_ZoneBusTransmissionRows_errors :
    let s := segment {}
    let o := s.put F.ZB_STAT_FCS 2 15
    let r : ZbReq := { tenant := 0, gen := 0, tag := some 7 }
    let b := segment { onBus := some (.buf 63), reqs := [(63, r)], tags := [(7, ⟨1, 0, 0⟩)] }
    s.zbLive 15 = true ∧ up.zbLive 15 = false ∧ s.bit F.ZB_LASTERR_VALID 15 = false ∧ s.get F.ZB_ERRCNT_TEC 15 + 8 ≤ 255 ∧
      255 < (b.put F.ZB_ERRCNT_TEC 248 15).get F.ZB_ERRCNT_TEC 15 + 8 ∧ (b.seg 15).rst = false ∧ (b.seg 15).reqs = [(63, r)] ∧ r.passed = false ∧
      (∀ c < 64, b.bit F.ZB_BUF_STAT_TAGWAIT 15 c = false) ∧
      o.get F.ZB_STAT_FCS 15 = 2 ∧ ((o.setSeg 15 { recover := true }).seg 15).recover = true ∧ (o.put F.ZB_CTRL_ABO 1 15).bit F.ZB_CTRL_ABO 15 = true ∧
      s.get F.ZB_STAT_FCS 15 ≠ 2 ∧
      accepts up (R.ZB_CTRL.at 15) 0 (fun x => let fd := F.ZB_CTRL_FDOE.of x == 1 && !up.bit F.ZB_CTRL_FDOE 15
        if timingOk (if fd then x else x &&& ~~~0x20000000) (up.word (R.ZB_NBT.at 15)) (up.word (R.ZB_DBT.at 15)) (up.word (R.ZB_TDC.at 15)) fd fd then Res.applied else Res.refConfig) = true ∧
      ((segment { tags := [(1023, ⟨2, 1, 0⟩)] }).seg 15).tags.lookup 1023 = some ⟨2, 1, 0⟩ ∧ ((segment { tags := [(1023, ⟨3, 0, 0⟩)] }).seg 15).tags.lookup 1023 = some ⟨3, 0, 0⟩ := by
  decide +kernel

theorem witness_BusErrorIsCountedAndTheFirstRecorded :
    (segment {}).zbLive 15 = true ∧ ((segment {}).seg 15).rst = false ∧ ((segment { rst := true }).seg 15).rst = true ∧ (segment { rst := true }).get F.ZB_ERRCNT_TEC 15 + 8 ≤ 255 ∧
      ((segment {}).put F.ZB_LASTERR_VALID 1 15).bit F.ZB_LASTERR_VALID 15 = true ∧ (segment {}).bit F.ZB_LASTERR_VALID 15 = false := by
  decide +kernel

theorem witness_ZoneBusSupplyRows :
    let on := up.put F.ZB_PWR_STAT_ON 1 15
    let en := (up.put F.ZB_PWR_CFG_EN 1 15).setSafe Cls.zbPwr 15 { inSafe := false }
    let p := up.put F.ZB_PWR_STAT_PEND 1 15
    on.zbOn 15 = true ∧ up.zbOn 15 = false ∧ (on.seg 15).firstTrip = none ∧ en.bit F.ZB_PWR_CFG_EN 15 = true ∧ en.zbAllowed 15 = true ∧ (en.seg 15).cycleEnd = none ∧ (en.seg 15).hold = false ∧
      (List.range 16).find? (fun k => p.bit F.ZB_PWR_STAT_PEND k) = some 15 ∧ (∀ k < 16, up.bit F.ZB_PWR_STAT_PEND k = false) ∧
      ((en.setSeg 15 { retryAt := some 5 }).seg 15).retryAt = some 5 ∧ ((en.setSeg 15 { cycleEnd := some 5 }).seg 15).cycleEnd = some 5 ∧
      clears (up.setWord (R.ZB_PWR_FLT.at 15) 1) (R.ZB_PWR_FLT.at 15) 1 0 = true ∧ (up.setWord (R.ZB_PWR_FLT.at 15) 1).word (R.ZB_PWR_FLT.at 15) ≠ 0 ∧
      (let t := (on.put F.ZB_PWR_CFG_TRIP 5 15).put F.ZB_PWR_CFG_RETRY 1 15
       95 * t.get F.ZB_PWR_CFG_TRIP 15 < 426 + 50 ∧ ¬ 95 * t.get F.ZB_PWR_CFG_TRIP 15 < 425 + 50 ∧ 180 * t.get F.ZB_PWR_CFG_TRIP 15 < 901 ∧ ¬ 180 * t.get F.ZB_PWR_CFG_TRIP 15 < 900 ∧
         0 < t.get F.ZB_PWR_CFG_RETRY 15 ∧ t.bit F.ZB_PWR_STAT_PGOOD 15 = false) ∧
      (up.seg 15).retryAt = none ∧ (up.seg 15).cycleEnd = none ∧
      (let d := Word.ofN (2 ^ F.ZB_PWR_CFG_EN.lo + 5 * 2 ^ F.ZB_PWR_CFG_TRIP.lo); rangesOk ((fieldsAt (R.ZB_PWR_CFG.at 15)).getD []) d = true ∧ F.ZB_PWR_CFG_EN.of d = 1) := by
  decide +kernel


/-- up with all three ports linked, a Strait to member 1 on UL0, and a key in each island and backbone slot 0. -/
def linked : State :=
  let s := [0, 1, 2].foldl (fun s p => (s.put F.CL_PORT_CFG_EN 1 p).put F.CL_PORT_STAT_LINK 1 p) (up.put F.CL_CTRL_EN 1)
  { s with isl := { s.isl with straits := [{ st := 2, src := 1 }, {}], topo := [(1, ⟨0xFFFF, 0, 4, 1, 0⟩)] },
           cl := { s.cl with keys := [some 7, none, some 9, none] } }

/-- A message of device 1 with the MAC of the port's key. -/
def sent (p typ dst : Nat) (body : List Byte) : Msg :=
  let m : Msg := ⟨1, typ, 0, 0, 1, dst, 1, 1, 0, 0, 0, body, 0⟩
  { m with mac := macWith (if p = 2 then 9 else 7) m }

/-- What the statement on received messages asks of a message of type k that is taken, but for its MAC. -/
def taken (s : State) (p : Nat) (m : Msg) (k : Nat) : Bool :=
  let s1 := s.inc F.CL_PORT_CNT_RX 1 p
  let u : State := { s1 with cl := { s1.cl with replay := Tab.put 1 (replayMark (s.cl.replay.lookup 1) m.epoch m.seq) s1.cl.replay } }
  m.typ == k && s.clOn p && m.version == 1 && bodyFits m && portFits p m && (2 ≤ p || m.typ == MT.hello || (s.strait p).st == 2) && s1.clKey p m.key == some (if p = 2 then 9 else 7) && m.src % 1024 == 1 &&
    s1.deviceId == 0 && replayJudge (s.cl.replay.lookup 1) m.epoch m.seq == .accept && s1.skewOk m && (u.forwardPorts p m).isEmpty && u.isFor m && !u.bit F.CL_FORM_STAT_ISOLATED

theorem witness_CampusMessageRows_mac (s : State) (p typ dst : Nat) (body : List Byte) (h : s.clKey p 0 = some (if p = 2 then 9 else 7)) :
    s.macOk p (sent p typ dst body) = true := by
  have k : (sent p typ dst body).key = 0 := by simp only [sent]
  have m : macWith (if p = 2 then 9 else 7) (sent p typ dst body) = (sent p typ dst body).mac := by simp only [sent, macWith, msgHeader]
  simp only [State.macOk, k, h, m, beq_self_eq_true]

theorem witness_CampusMessageRows_bad :
    let m := sent 1 MT.unsubscribe 0 [0, 5, 0, 0]
    let s : State := { linked with isl := { linked.isl with straits := [{}, { st := 2, src := 1 }] }, cl := { linked.cl with keys := [] } }
    s.clOn 1 = true ∧ m.version = 1 ∧ bodyFits m = true ∧ portFits 1 m = true ∧ (s.strait 1).st = 2 ∧ (s.inc F.CL_PORT_CNT_RX 1 1).macOk 1 m = false := by
  decide +kernel

theorem witness_CampusMessageRows_forward :
    let m := sent 0 MT.unsubscribe 5 [0, 5, 0, 0]
    let old (q map : Nat) : Option Replay := some ⟨m.epoch, m.seq + q, map⟩
    let two : State := { linked with isl := { linked.isl with straits := [{ st := 2, src := 1 }, { st := 2, src := 2 }], topo := [(1, ⟨0xFFFF, 0, 0, 1, 0⟩), (2, ⟨0xFFFF, 0, 0, 1, 0⟩)] } }
    replayJudge (old 0 0) m.epoch m.seq = .dup ∧ replayJudge (old 1 1) m.epoch m.seq = .dup ∧ replayJudge (old 65 0) m.epoch m.seq = .replay ∧ m.src % 1024 ≠ linked.deviceId ∧
      linked.isFor m = false ∧ linked.forwardPorts 0 (sent 0 MT.unsubscribe 0 []) = [] ∧ two.forwardPorts 0 (sent 0 MT.topo 0xFFFE []) = [1] ∧ m.hops < 64 ∧ 64 ≤ ({ m with hops := 64 } : Msg).hops := by
  decide +kernel

theorem witness_CampusMessageRows_pub :
    let m := sent 0 MT.pub 0 [0, 1, 0, 0, 0, 5, 1, 0, 0, 0, 0x40, 0, 0, 0]
    let r := (m.body.drop 4).take 10
    taken linked 0 m MT.pub = true ∧ beOf m.body 0 2 = 1 ∧ beOf r 0 2 = 5 ∧ beOf r 2 1 ≤ 4 ∧ 32768 ≤ beOf ([0x80, 0, 1, 0] : List Byte) 0 2 ∧ 4 < beOf ([0, 5, 5, 0] : List Byte) 2 1 ∧
      (linked.subIn.filter (fun e => e.2.cpid == 32773)) = [] ∧
      ([(9, (⟨32773, 2, none, 0, false, false⟩ : SubIn))].filter (fun e => e.2.cpid == 32773)).filter (fun e => e.2.phase == 2) = [(9, ⟨32773, 2, none, 0, false, false⟩)] := by
  decide +kernel

theorem witness_CampusMessageRows_subscribe :
    let m := sent 0 MT.subscribe 0 [0, 5, 0, 0]
    let ok := (linked.put F.PT_BIND_KIND Kind.none_ 5).put F.SYS_PT_PROF_AGE_MODE 1 0
    let far : State := { linked with isl := { linked.isl with topo := [] } }
    ({ linked with isl := { linked.isl with straits := [] } } : State).route 1 = [] ∧ taken linked 0 m MT.subscribe = true ∧ ok.subDecide 1 0 5 = Res.applied ∧ linked.subDecide 1 0 5 ≠ Res.applied ∧ linked.reachable 1 = true ∧ linked.route 1 = [0] ∧
      far.reachable 1 = false ∧ taken far 0 m MT.subscribe = true := by
  decide +kernel

theorem witness_CampusMessageRows_answers :
    let e : Nat × SubIn := (9, ⟨32773, 1, some 0, 0, false, false⟩)
    let a (r : Byte) := sent 0 MT.subAck 0 [0, 5, r, 0]
    let w : State := { linked with subIn := [e] }
    let g : CTag := ⟨1, 1, 5, 0, 0, 1, 0, 0, 4, false, false, 0, 0⟩
    let t : State := { linked with cl := { linked.cl with tags := [(5, g)] } }
    let m := sent 0 MT.rwriteResult 0 [0, 5, 0, 0, 0, 5, 0, 0, 0, 0, 0, 0]
    taken w 0 (a 0) MT.subAck = true ∧ taken w 0 (a 0xA) MT.subAck = true ∧ taken w 0 (a 2) MT.subAck = true ∧ w.subGroup 32773 0 1 e.1 e.2 = true ∧
      (∀ x ∈ linked.subIn, linked.subGroup 32773 0 1 x.1 x.2 = false) ∧ beOf (a 1).body 2 1 ≠ Res.applied ∧ beOf (a 0).body 3 1 = 0 ∧ beOf (a 0).body 0 2 < 32768 ∧
      g.state = 1 ∧ ({ g with state := 2, timedOut := true } : CTag).state ≠ 1 ∧ g.dev = m.src % 1024 ∧ g.point = beOf m.body 4 2 ∧
      taken t 0 m MT.rwriteResult = true ∧ t.cl.tags.lookup 5 = some g ∧ linked.cl.tags.lookup 5 = none ∧ beOf m.body 8 4 = linked.get F.CL_EPOCH_EPOCH ∧ beOf m.body 4 2 = 5 := by
  decide +kernel

theorem witness_CampusMessageRows_writes :
    let b : List Byte := [0, 4, 0, 5, 0, 0, 0, 0x40, 0, 7, 0, 0]
    let r : RwIn := ⟨1, 0, 0, false, 4, 5, 0, 7, 0, 1⟩
    let full : State := { linked with cl := { linked.cl with intake := List.replicate 64 r } }
    taken linked 0 (sent 0 MT.unsubscribe 0 [0, 5, 0, 0]) MT.unsubscribe = true ∧ taken linked 0 (sent 0 MT.unsubscribe 0 [0x80, 0, 0, 0]) MT.unsubscribe = true ∧
      beOf ([0x80, 0, 0, 0] : List Byte) 0 2 = 32768 ∧ full.reachable 1 = true ∧ full.route 1 = [0] ∧ taken linked 0 (sent 0 MT.rwrite 0 b) MT.rwrite = true ∧ linked.cl.intake.length < 64 ∧
      taken full 0 (sent 0 MT.rwrite 0 b) MT.rwrite = true ∧ 64 ≤ full.cl.intake.length := by
  decide +kernel

theorem witness_CampusMessageRows_mirror :
    let l := (linked.put F.LOG_STAT_STORE Store.ready).put F.LOG_REG_SIZE_MIB 1 2
    let s : State := { l with log := { l.log with expect := [(1, 3)] } }
    let b : List Byte := beBytes 8 3 ++ [1, 0] ++ List.replicate 54 0
    let a := (linked.put F.LOG_MIR_STAT_STATE Mir.active).put F.LOG_MIR_STAT_TARGET 1
    let c : List Byte := beBytes 8 9 ++ List.replicate 8 0
    taken s 0 (sent 0 MT.mirror 0 b) MT.mirror = true ∧ leVal (b.take 8).reverse = 3 ∧ fieldOf b 8 1 = 1 ∧ fieldOf b 9 1 % 2 = 0 ∧ Tab.get (fun _ => 0) s.log.expect (1 % 32) = 3 ∧
      0 < fieldOf b 8 1 ∧ s.store = Store.ready ∧ s.get F.LOG_REG_SIZE_MIB 2 ≠ 0 ∧ 1 / 32 = s.selfIsland ∧
      taken a 0 (sent 0 MT.mirrorAck 0 c) MT.mirrorAck = true ∧ a.mirState = Mir.active ∧ a.get F.LOG_MIR_STAT_TARGET = 1 ∧ fieldOf c 8 1 = 0 ∧
      a.log.mirrored + 1 < leVal (c.take 8).reverse := by
  decide +kernel

theorem witness_CampusMessageRows_mirrored :
    let l := (linked.put F.LOG_STAT_STORE Store.ready).put F.LOG_REG_SIZE_MIB 1 2
    let s : State := { l with log := { l.log with due := [{ region := 2, src := 1, seq := 3, next := 5 }] } }
    let e : Nat × SubIn := (9, ⟨65536, 1, some 0, 0, false, false⟩)
    let far := sent 0 MT.subAck 0 [0x80, 0, 0, 0]
    s.mirTaken 1 = 5 ∧ (∀ b ∈ s.log.due, b.m = 0) ∧ taken s 0 (sent 0 MT.mirror 0 (beBytes 8 5 ++ [1, 0] ++ List.replicate 54 0)) MT.mirror = true ∧
      taken { linked with subIn := [e] } 0 far MT.subAck = true ∧ 32768 ≤ beOf far.body 0 2 ∧ beOf far.body 3 1 = 0 := by
  decide +kernel

theorem witness_CampusMessageRows_time :
    let b (stratum sync : Byte) (t : Nat) : List Byte := beBytes 8 t ++ [stratum, sync, 0, 0]
    let d := linked.put F.CL_PORT_DLY_VALID 1 0
    let v : State := { d with cl := { d.cl with beacons := [(0, ⟨33, true, d.now⟩)] } }
    let q : State := { linked with cl := { linked.cl with reqT1 := [some 0, none, none] } }
    let r : List Byte := beBytes 8 0 ++ beBytes 8 0 ++ beBytes 8 0
    let ns (t : Nat) : Int := ((beOf (b 33 1 t) 0 8 : Int) - d.campus) * 1000 - 20 * 49 + d.get F.CL_PORT_DLY_DELAY 0
    let d2 (s : State) (stamp : Nat) : Int := (((s.campus : Int) - beOf r 0 8) - ((beOf r 16 8 : Int) - beOf r 8 8)) * 1000 + 20 * stamp
    taken linked 0 (sent 0 MT.beacon 0xFFFD (b 33 0 0)) MT.beacon = true ∧ beOf (b 33 0 0) 8 1 = 33 ∧ beOf (b 34 0 0) 8 1 = 34 ∧ taken linked 0 (sent 0 MT.beacon 0xFFFD (b 34 0 0)) MT.beacon = true ∧
      beOf (b 33 0 0) 9 1 ≠ 1 ∧ beOf (b 33 1 0) 9 1 = 1 ∧ taken d 0 (sent 0 MT.beacon 0xFFFD (b 33 1 0)) MT.beacon = true ∧
      d.bit F.SYS_ROLE_CAMPUS_MASTER = false ∧ v.followPort = some 0 ∧ -1000000 ≤ ns 0 ∧ ns 0 ≤ 1000000 ∧ 1000000 < ns 1001 ∧
      taken linked 0 (sent 0 MT.delayReq 0xFFFD (beBytes 8 0)) MT.delayReq = true ∧ taken q 0 (sent 0 MT.delayResp 0xFFFD r) MT.delayResp = true ∧
      linked.cl.reqT1.getD 0 none ≠ some (beOf r 0 8) ∧ q.cl.reqT1.getD 0 none = some (beOf r 0 8) ∧ 0 ≤ d2 q 49 ∧ d2 q 49 ≤ 20000000 ∧
      20000000 < d2 { q with campusOff := 20001 } 0 := by
  decide +kernel

theorem witness_CampusMessageRows_formation :
    let h : List Byte := beBytes 6 77 ++ [1, 0, 0, 0, 0, 0] ++ beBytes 4 0
    let st (x : Strait) : State := { linked with isl := { linked.isl with straits := [x, {}] } }
    let p : State := st { st := 1, src := 1, mac := 77 }
    let im := linked.put F.SYS_ROLE_ISLAND_MASTER 1
    let f : State := { im with isl := { im.isl with advs := [(1, ⟨8, 1, 2, 0, 0, 0, 0⟩)] } }
    taken (st {}) 0 (sent 0 MT.hello 0xFFFD h) MT.hello = true ∧ linked.helloValid 0 (sent 0 MT.hello 0xFFFD h) = true ∧ beOf h 0 6 = 77 ∧ ((st {}).strait 0).st = 0 ∧
      (p.strait 0).st = 1 ∧ p.now ≤ (p.strait 0).firstAt + 30000 ∧ (p.strait 0).mac = 77 ∧ (linked.strait 0).st = 2 ∧
      (st { st := 3, src := 1, mac := 77 }).now ≤ ((st { st := 3, src := 1, mac := 77 }).strait 0).lastAt + 30000 ∧ (p.strait 0).mac ≠ 78 ∧
      linked.helloValid 0 (sent 0 MT.hello 0xFFFD (beBytes 6 77 ++ [2, 0, 0, 0, 0, 0] ++ beBytes 4 0)) = false ∧ linked.islandMaster = some 1 ∧ 1 / 32 = linked.selfIsland ∧
      taken linked 0 (sent 0 MT.campusMap 0xFFFE ([0, 1, 0, 1] ++ List.replicate 12 0)) MT.campusMap = true ∧
      taken linked 0 (sent 0 MT.topo 0xFFFE (List.replicate 16 0)) MT.topo = true ∧ taken im 2 (sent 2 MT.islandAdv 0xFFFD (List.replicate 16 0)) MT.islandAdv = true ∧
      im.bit F.SYS_ROLE_ISLAND_MASTER = true ∧ im.bit F.SYS_ROLE_CAMPUS_MASTER = false ∧
      taken f 2 (sent 2 MT.campusMap 0xFFFD ([0, 1, 0, 1] ++ List.replicate 12 0)) MT.campusMap = true ∧ f.followed = some 1 ∧ f.isl.map = none := by
  decide +kernel


theorem witness_CampusSubscriptionRows :
    let e (ph : Nat) : SubIn := ⟨32773, ph, some 0, 0, false, false⟩
    let s (l : Tab SubIn) : State := { (linked.put F.CL_FORM_STAT_RELEASED 1).put F.CL_SUB_CFG_RATE 512 with subIn := l }
    let o : State := { linked with subOut := [(32773, ⟨0, some ⟨5, 0, 0, 0, false, 0⟩⟩)] }
    let l (s : State) := (s.subOut.filter (fun e => e.1 / 32768 == 1 && e.2.slot.isSome)).take (s.pubMax 1)
    let r : RwIn := ⟨1, 0, 0, false, 4, 32767, 0, 7, 0, 1⟩
    (s []).bit F.CL_FORM_STAT_RELEASED = true ∧ (s []).bit F.CL_CTRL_EN = true ∧ (s []).bit F.CL_FORM_STAT_ISOLATED = false ∧ (s []).subRecent.length < (s []).get F.CL_SUB_CFG_RATE ∧
      (s [(9, e 1)]).subIn.find? (fun e => (s []).subDue e.2) = none ∧ (s [(9, e 0)]).subIn.find? (fun x => (s [(9, e 0)]).subDue x.2) = some (9, e 0) ∧
      linked.bit F.CL_FORM_STAT_RELEASED = false ∧ (s [(32767, e 1)]).subIn.lookup 32767 = some (e 1) ∧ (s [(32767, e 3)]).subIn.lookup 32767 = some (e 3) ∧
      (s [(32767, e 2)]).subIn.lookup 32767 = some (e 2) ∧ ((s [(32767, e 2)]).put F.PT_STATUS_QUAL Qual.stale 32767).ptQual 32767 = Qual.stale ∧ linked.subIn.lookup 32767 = none ∧
      l linked = [] ∧ l o ≠ [] ∧ o.reachable 1 = true ∧ o.route 1 = [0] ∧ linked.reachable 2 = false ∧ ({ linked with cl := { linked.cl with intake := [r] } } : State).cl.intake = r :: [] := by
  decide +kernel

/-- linked with every campus tag in use. -/
def tagless : State := { linked with cl := { linked.cl with tags := (List.range 4096).map (fun n => (n, ⟨1, 1, 5, 5, 0, 2, 0, 0, 4, false, false, 0, 0⟩)) } }

theorem witness_CampusSubscriptionRows_tags :
    let g (st : Nat) : CTag := ⟨st, 1, 5, 5, 0, 2, 0, 0, 4, false, false, 0, 0⟩
    let t (st : Nat) : State := { linked with cl := { linked.cl with tags := [(4095, g st)] } }
    let a := (linked.put F.TEN_CTX_STAT_STATE 1 5).setBank 1 { linked.bank 1 with rwCpid := 32773 }
    let d : Word := Word.ofN (4 * 2 ^ F.CL_RW_CMD_PRIO.lo)
    (t 1).cl.tags.lookup 4095 = some (g 1) ∧ (t 2).cl.tags.lookup 4095 = some (g 2) ∧ linked.cl.tags.lookup 4095 = none ∧ linked.cl.intake = [] ∧
      linked.tstate 5 ≠ 1 ∧ a.tstate 5 = 1 ∧ F.CL_RW_CMD_PRIO.of (0 : Word) = 0 ∧ F.CL_RW_CMD_PRIO.of d = 4 ∧ (a.bank 1).rwCpid / 32768 % 1024 = 1 ∧ linked.deviceId = 0 ∧
      (linked.bank 1).rwCpid / 32768 % 1024 = 0 ∧ a.freeTag = some 0 ∧ a.reachable 1 = true := by
  decide +kernel

theorem witness_CampusSubscriptionRows_due :
    let e (ph : Nat) (sent : Option Nat) (again heard : Bool) : SubIn := ⟨32773, ph, sent, 0, heard, again⟩
    let s (x : SubIn) : State := { linked.put F.CL_FORM_STAT_RELEASED 1 with subIn := [(0, x)], now := 10000000, isl := { linked.isl with topo := [(1, ⟨0xFFFF, 0, 4, 1, 10000000⟩)] } }
    let o : State := { linked.put F.CL_FORM_STAT_ISOLATED 1 with subOut := [(32773, ⟨0, some ⟨5, 0, 0, 0, false, 0⟩⟩)] }
    let a := (linked.put F.TEN_CTX_STAT_STATE 1 5).setBank 1 { linked.bank 1 with rwCpid := 65541 }
    let i := (linked.put F.CL_FORM_STAT_ISOLATED 1)
    let r : RwIn := ⟨1, 0, 0, false, 4, 32768, 0, 7, 0, 1⟩
    (s (e 0 none false false)).subDue (e 0 none false false) = true ∧ (s (e 5 (some 0) true false)).subDue (e 5 (some 0) true false) = true ∧
      (s (e 5 (some 1) true false)).subDue (e 5 (some 1) true false) = false ∧ (e 5 (some 0) true false).again = true ∧
      ((s (e 2 (some 0) false false)).put F.PT_STATUS_QUAL Qual.notValid 0).ptQual 0 = Qual.notValid ∧ (e 2 none false false).heard = false ∧ (e 2 none false true).heard = true ∧
      ((s (e 2 (some 0) false false)).put F.PT_STATUS_QUAL Qual.good 0).ptQual 0 ≠ Qual.stale ∧ ((s (e 2 (some 0) false false)).put F.PT_STATUS_QUAL Qual.good 0).ptQual 0 ≠ Qual.notValid ∧
      o.bit F.CL_FORM_STAT_ISOLATED = true ∧ linked.route 2 = [] ∧ (a.bank 1).rwCpid / 32768 % 1024 = 2 ∧ a.freeTag = some 0 ∧ a.reachable 2 = false ∧ a.pathOpen (.lane 1) ∧
      i.bit F.CL_FORM_STAT_ISOLATED = true ∧ i.freeTag = some 0 ∧ 32768 ≤ r.point ∧ linked.ringOpen := by
  unfold State.pathOpen State.ringOpen; decide +kernel

theorem witness_CampusSubscriptionRows_noTag : tagless.freeTag = none := by
  unfold State.freeTag tagless
  refine List.find?_eq_none.mpr (fun x hx => ?_)
  obtain ⟨k, -, rfl⟩ := List.mem_map.mp hx
  have hm : (linked.cl.lastTag + 1 + k) % 4096 ∈ List.map (fun x : Nat × CTag => x.1) ((List.range 4096).map (fun n => (n, (⟨1, 1, 5, 5, 0, 2, 0, 0, 4, false, false, 0, 0⟩ : CTag)))) :=
    List.mem_map.mpr ⟨(_, _), List.mem_map.mpr ⟨_, List.mem_range.mpr (Nat.mod_lt _ (by decide)), rfl⟩, rfl⟩
  simpa using hm

theorem witness_CampusLinkRows :
    let z (k v : Nat) := linked.setDad 2 k v
    let cm := linked.put F.SYS_ROLE_CAMPUS_MASTER 1
    let r : State := { linked with cl := { linked.cl with reissue := some (1, 3) } }
    let f : State := { linked.put F.CL_TIME_STAT_SYNC 1 with cl := { linked.cl with lastFollow := some 5 } }
    let m : OutMsg := { id := 0, cls := 1, typ := MT.hello, dst := 0xFFFD, tenant := 0, gen := 0, body := [] }
    let w : OutMsg := { m with fwd := some (sent 0 MT.unsubscribe 0 []) }
    let q (m : OutMsg) : State := { linked with cl := { linked.cl with queues := [[], [], [m]] } }
    up.bit F.CL_PORT_STAT_LINK 2 = false ∧ linked.bit F.CL_PORT_STAT_LINK 2 = true ∧ linked.bit F.CL_PORT_CFG_EN 2 = true ∧ (z 0 2).dadOf 2 0 = 2 ∧
      (z 0 1).dadOf 2 0 = 1 ∧ (z 1 4).dadOf 2 1 = 4 ∧ linked.dadOf 2 1 = 0 ∧ up.bit F.CL_PORT_CFG_EN 0 = false ∧ (up.put F.CL_PORT_CFG_EN 1 0).bit F.CL_PORT_STAT_LINK 0 = false ∧
      cm.bit F.SYS_ROLE_CAMPUS_MASTER = true ∧ linked.bit F.SYS_ROLE_CAMPUS_MASTER = false ∧ cm.bit F.CL_FORM_STAT_ISOLATED = false ∧ r.cl.reissue = some (1, 3) ∧ 0 ∈ r.upStraits ∧
      linked.cl.reissue = none ∧ (linked.strait 0).st = 2 ∧ (linked.strait 1).st ≠ 2 ∧ f.cl.lastFollow = some 5 ∧ f.bit F.CL_TIME_STAT_SYNC = true ∧ linked.cl.lastFollow = none ∧
      (up.who .sk0).tenant = 0 ∧ linked.clOn 2 = true ∧ up.clOn 2 = false ∧ linked.cl.queues.getD 2 [] = [] ∧ nextMsg ((q m).cl.queues.getD 2 []) = some m ∧ m.cls < 2 ∧ m.typ ≠ MT.pub ∧
      (q m).cl.seq ≠ 0xFFFFFFFF ∧ nextMsg ((q w).cl.queues.getD 2 []) = some w ∧ w.fwd.isSome = true := by
  decide +kernel

theorem witness_CampusLinkRows_address :
    let s := (linked.put F.CL_CTRL_EN 1).setDad 2 0 2
    s.addrOf 2 0 ≠ 0 ∧ s.addrOf 2 0 ∈ s.addrsInUse 2 ∧ linked.addrOf 0 0 ≠ 0 := by
  decide +kernel

/-- A frame to ff02::1 whose packet of next header nh carries u, with the checksum put in at byte k of it (R493 to R495). -/
def framed (nh k : Nat) (u : List Byte) : List Byte :=
  let c := 0xFFFF - cksumSum (beBytes 16 0 ++ beBytes 16 allNodes) nh u
  beBytes 6 (mcastMac allNodes) ++ beBytes 6 77 ++ [0x86, 0xDD, 0x60, 0, 0, 0] ++ beBytes 2 u.length ++ [Byte.ofN nh, 255] ++
    beBytes 16 0 ++ beBytes 16 allNodes ++ u.take k ++ beBytes 2 c ++ u.drop (k + 2)

theorem witness_CampusLinkRows_frames :
    let udp (port : Nat) (b : List Byte) : List Byte := framed 17 6 (beBytes 2 5 ++ beBytes 2 port ++ beBytes 2 (b.length + 8) ++ [0, 0] ++ b)
    let icmp (t : Byte) : List Byte := framed 58 2 (t :: List.replicate 31 0)
    let pl (f : List Byte) := ((f.drop 14).drop 40).take (beOf (f.drop 14) 4 2)
    let port := linked.get F.CL_CTRL_UDP_PORT
    let good (nh : Nat) (f : List Byte) : Bool := 14 ≤ f.length && f.length ≤ 1514 && beOf f 12 2 == 0x86DD && beOf f 0 6 == mcastMac allNodes && 54 ≤ f.length &&
      beOf (f.drop 14) 0 1 / 16 == 6 && 40 + beOf (f.drop 14) 4 2 ≤ (f.drop 14).length && beOf (f.drop 14) 6 1 == nh && cksumOk (f.drop 14) nh (pl f) && beOf (f.drop 14) 24 16 == allNodes
    let hello := msgBytes (sent 0 MT.hello 0xFFFD (List.replicate 16 0))
    good 17 (udp (port + 1) []) = true ∧ good 17 (udp port [1]) = true ∧ good 17 (udp port hello) = true ∧ good 58 (icmp 128) = true ∧ good 58 (icmp 135) = true ∧
      good 58 (icmp 136) = true ∧ 8 ≤ (pl (udp port [])).length ∧ beOf (pl (udp port [1])) 4 2 = (pl (udp port [1])).length ∧ beOf (pl (udp port hello)) 6 2 ≠ 0 ∧
      beOf (pl (udp (port + 1) [])) 2 2 ≠ port ∧ beOf (pl (udp port hello)) 2 2 = port ∧ Msg.parse ((pl (udp port [1])).drop 8) = none ∧
      Msg.parse ((pl (udp port hello)).drop 8) = some (sent 0 MT.hello 0xFFFD (List.replicate 16 0)) ∧ beOf (pl (icmp 136)) 0 1 = 136 ∧
      linked.bit F.CL_PORT_STAT_LINK 0 = true ∧ linked.bit F.CL_PORT_CFG_EN 0 = true ∧ up.bit F.CL_PORT_CFG_EN 0 = false := by
  decide +kernel

theorem witness_CampusLinkRows_ports :
    let z (k v : Nat) := linked.setDad 2 k v
    let u := (linked.put F.CL_PORT_STAT_LINK 0 2)
    let m := u.put F.SYS_ROLE_ISLAND_MASTER 1
    let f : State := { m with isl := { m.isl with advs := [(1, ⟨8, 1, 2, 0, 0, 0, 0⟩)] } }
    let v := (z 0 2).put F.SYS_ROLE_CAMPUS_MASTER 1
    ((z 0 2).addrsInUse 2).head? = some (linked.addrOf 2 0) ∧ (z 0 2).addrOf 2 0 ≠ allNodes ∧ linked.addrOf 2 0 ∉ linked.addrsInUse 2 ∧ (z 0 1).dadOf 2 0 = 1 ∧ (z 1 4).dadOf 2 1 = 4 ∧
      linked.dadOf 2 1 = 0 ∧ u.bit F.CL_PORT_STAT_LINK 2 = false ∧ u.bit F.SYS_ROLE_ISLAND_MASTER = false ∧ m.bit F.SYS_ROLE_ISLAND_MASTER = true ∧ u.bit F.CL_PORT_CFG_EN 2 = true ∧
      (linked.put F.CL_PORT_STAT_LINK 0 1).bit F.CL_PORT_STAT_LINK 1 = false ∧ linked.bit F.CL_PORT_STAT_LINK 1 = true ∧ m.bit F.SYS_ROLE_CAMPUS_MASTER = false ∧ f.followed = some 1 ∧ m.followed = none ∧
      v.bit F.SYS_ROLE_CAMPUS_MASTER = true ∧ v.pathOpen (.lane 2) ∧ v.ringOpen ∧ (v.who (.lane 2)).tenant = 0 ∧ (v.who (.lane 1)).tenant ≠ 0 := by
  unfold State.pathOpen State.ringOpen; decide +kernel

theorem witness_CampusLinkRows_early :
    let b (n : Nat) : State := State.reset.setBoot { State.reset.boot with stage := n }
    (b 1).earlyPort 1 = true ∧ (b 5).earlyPort 0 = true ∧ (b 6).earlyPort 0 = false ∧ (b 5).earlyPort 2 = false ∧ (b 1).bit F.CL_PORT_STAT_LINK 1 = false ∧ (b 6).bit F.CL_PORT_CFG_EN 0 = false ∧
      linked.earlyPort 0 = false ∧ (linked.put F.CL_PORT_STAT_LINK 0 0).bit F.CL_PORT_CFG_EN 0 = true := by
  decide +kernel

theorem witness_IslandRows_maps :
    let u : State := { linked with isl := { linked.isl with map := some ⟨1, 5, []⟩, follows := some 1 } }
    u.isl.map.isSome = true ∧ u.isl.follows = some 1 ∧ linked.isl.follows ≠ some 1 ∧ u.mapVer = 5 ∧ (CMap.ofBody ([0, 1, 0, 1] ++ List.replicate 12 0)).ver ≤ u.mapVer := by
  decide +kernel

theorem witness_CampusLinkRows_transmit :
    let v := linked.setDad 0 0 2
    let m : OutMsg := { id := 0, cls := 1, typ := MT.hello, dst := 0xFFFD, tenant := 0, gen := 0, body := [] }
    let q (m : OutMsg) : State := { v with cl := { v.cl with queues := [[m], [], []] } }
    let leaves (m : OutMsg) : Bool := nextMsg (((q m).cl.queues.getD 0 []).filter ((q m).canLeave 0)) == some m
    let far : OutMsg := { m with cls := 3, typ := MT.subAck, dst := 5 }
    let w : OutMsg := { m with fwd := some (sent 0 MT.unsubscribe 2 []) }
    v.clOn 0 = true ∧ v.srcAddr 0 = some (v.addrOf 0 0) ∧ linked.srcAddr 0 = none ∧ v.cl.held = [] ∧ nextMsg ((v.cl.queues.getD 0 []).filter (v.canLeave 0)) = none ∧ leaves m = true ∧
      leaves far = true ∧ (q far).lostDst far = true ∧ (q m).lostDst m = false ∧ leaves w = true ∧ leaves { m with built := some (1, 2, 3) } = true ∧ (q m).cl.seq ≠ 0xFFFFFFFF ∧
      (q m).canLeave 2 { m with dst := 40 } = false := by
  decide +kernel

theorem witness_IslandRows :
    let i (x : IslState) : State := { linked with isl := x }
    let st (n : Nat) : State := { linked with isl := { linked.isl with straits := [{}, { st := n, lastAt := 7 }] } }
    let im := linked.put F.SYS_ROLE_ISLAND_MASTER 1
    let cm := im.put F.SYS_ROLE_CAMPUS_MASTER 1
    let lone := ((up.put F.SYS_STRAPS_MASTERPRI 3).put F.SYS_STRAPS_MEMBER 31)
    let m : CMap := ⟨1, 1, [(1, 2)]⟩
    linked.clOn 0 = true ∧ up.clOn 0 = false ∧ up.bit F.CL_CTRL_EN = false ∧ linked.bit F.CL_CTRL_EN = true ∧ linked.bit F.CL_FORM_STAT_ISOLATED = false ∧ 0 ∈ linked.upStraits ∧
      linked.bit F.SYS_ROLE_CAMPUS_MASTER = false ∧ linked.bit F.SYS_ROLE_ISLAND_MASTER = false ∧ im.bit F.SYS_ROLE_ISLAND_MASTER = true ∧ im.bit F.SYS_ROLE_CAMPUS_MASTER = false ∧
      cm.bit F.SYS_ROLE_CAMPUS_MASTER = true ∧ linked.isl.relayPend = false ∧ (i { linked.isl with relayPend := true, map := some m }).isl.relayPend = true ∧
      ((st 1).strait 1).st = 1 ∧ ((st 2).strait 1).st = 2 ∧ ((st 3).strait 1).st = 3 ∧ ((st 0).strait 1).st = 0 ∧ (i { linked.isl with upSince := some 5 }).isl.upSince = some 5 ∧
      linked.bit F.CL_FORM_STAT_ESTABLISHED = false ∧ linked.isl.upSince = none ∧ (linked.isl.topo.lookup 1).isSome = true ∧ linked.isl.topo.lookup 31 = none ∧
      lone.islandMaster = none ∧ lone.bestMember lone.candidate = some lone.selfMember ∧ up.bestMember up.candidate ≠ some up.selfMember ∧ im.isl.advs = [] ∧
      (i { linked.isl with advs := [(1023, ⟨4, 1, 2, 0, 0, 0, 0⟩)] }).isl.advs.lookup 1023 = some ⟨4, 1, 2, 0, 0, 0, 0⟩ ∧ linked.isl.advs.lookup 1023 = none ∧
      linked.isl.map = none ∧ (i { linked.isl with map := some m }).isl.map = some m ∧ (linked.put F.CL_FORM_STAT_NOMASTER 1).bit F.CL_FORM_STAT_NOMASTER = true ∧
      linked.bit F.CL_FORM_STAT_NOMASTER = false ∧ (i { linked.isl with unreach := [(1023, 5)] }).isl.unreach.lookup 1023 = some 5 ∧ linked.isl.unreach.lookup 1023 = none := by
  decide +kernel

theorem witness_AuditStoreRows :
    let s := up.put F.LOG_STAT_STORE Store.ready
    let r : AuditRec := { seq := 1 }
    let w (s : State) : State := { s with log := { s.log with ring := [r], ringAt := [5], nextSeq := 2 } }
    let t : State := { s with log := { s.log with trend := [⟨0, 1, 0, 0⟩], trendAt := [5] } }
    let b : LogBlk := { region := 1, n := 1 }
    let d (f : Option LogBlk) : State := { w s with log := { (w s).log with due := [b], inFlight := f } }
    let c : State := { (s.put F.LOG_FMT_SIZE_FW 1).put F.LOG_FMT_SIZE_AUDIT 1 with log := { s.log with capMiB := some 67 } }
    let rd (x : Bool) (s : State) : State := { s with log := { s.log with rd := some (x, 0) } }
    let full : State := { t with log := { t.log with due := [b, b, b, b] } }
    let flt := s.put F.LOG_STAT_STORE Store.fault
    s.waitSince false = none ∧ (w s).waitSince false = some 5 ∧ t.waitSince true = some 5 ∧ s.waitSince true = none ∧ s.store = Store.ready ∧ s.log.due.length < 4 ∧
      (d none).log.inFlight = none ∧ (d none).log.due = b :: [] ∧ (d (some b)).log.inFlight = some b ∧ up.store = Store.absent ∧ s.store ≠ Store.absent ∧
      c.fmtSizes = some (1, 64, 0, 1) ∧ s.fmtSizes = none ∧ F.LOG_FMT_CMD_KEY.of (Word.ofN (0xA5 * 2 ^ F.LOG_FMT_CMD_KEY.lo)) = 0xA5 ∧ F.LOG_FMT_CMD_KEY.of (0 : Word) ≠ 0xA5 ∧
      (s.put F.LOG_STAT_STORE Store.formatting).store = Store.formatting ∧ s.log.rd = none ∧ (s.put F.LOG_REG_SIZE_MIB 1 0).inRegion 0 0 = true ∧ s.inRegion 0 0 = false ∧
      (rd false s).log.rd = some (false, 0) ∧ (rd true s).log.rd = some (true, 0) ∧ full.waitSince true = some 5 ∧ 4 ≤ full.log.due.length ∧ (∀ x ∈ full.log.due, x.m = 0) ∧
      flt.store = Store.fault ∧ flt.store ≠ Store.ready ∧ layoutOk (s.blk 0) = false := by
  decide +kernel

set_option maxRecDepth 100000 in
theorem witness_AuditStoreRows_layout : layoutOk (layoutBlk [(1, 1), (2, 64), (66, 64), (130, 1)]) = true := by decide +kernel

theorem witness_AuditStoreRows_mirror :
    let a := (linked.put F.LOG_MIR_STAT_STATE Mir.active).put F.LOG_MIR_STAT_TARGET 1
    let r : AuditRec := { seq := 1 }
    let w : State := { a with log := { a.log with ring := [r], ringAt := [5], nextSeq := 2 } }
    let p : State := { linked.put F.LOG_MIR_STAT_STATE Mir.probing with log := { linked.log with probeDue := true } }
    let n := linked.put F.LOG_MIR_STAT_STATE Mir.noregion
    linked.mirState ≠ Mir.active ∧ a.mirState = Mir.active ∧ a.log.unacked < 4 ∧ a.store ≠ Store.ready ∧ takeRun 10 (a.recsFrom a.log.cur) = [] ∧
      takeRun 10 (w.recsFrom w.log.cur) = (1, r.bytes) :: [] ∧ w.route (w.get F.LOG_MIR_STAT_TARGET) = [0] ∧ w.bit F.CL_FORM_STAT_ISOLATED = false ∧ p.log.probeDue = true ∧
      p.mirState = Mir.probing ∧ n.mirState = Mir.noregion ∧ ({ a with log := { a.log with unacked := 4 } } : State).log.unacked ≠ 0 := by
  decide +kernel


/-- A signed image of no sections for device 0: its 64 header bytes and 12 table entries, then key and signature. -/
def image : List Byte :=
  let head := leBytes 4 0x474D494A ++ leBytes 2 1 ++ leBytes 2 12 ++ leBytes 4 256 ++ List.replicate 48 0
  head ++ leBytes 4 (crc32 head) ++ ((List.range 12).map (fun i => leBytes 2 (i + 1) ++ List.replicate 14 0)).flatten

def imageTail : List Byte :=
  leBytes 32 0x60fed4ba255a9d31c961eb74c6356d68c049b8923b61fa6ce669622e60f29fb6 ++
    leBytes 32 0x7903fe1008b8bc99a41ae9e95628bc64f2f1b20c2d7e9f5177a3c294d4462299 ++
    leBytes 32 0xefd48b2aacb6a8fd1140dd9cd45e81d69d2c877b56aaf991c34d0ea84eaf3716 ++
    leBytes 32 0x847bd501f86765911fdee883dfe012e4730de5dca35ad903085ad9d9c4a945d1

/-- The image stands in slot A, and OTP holds the hash of its key. -/
def flashed : State :=
  let h := beBytes 32 0x0e3d380d15ee1ab50e5f2cd09ee85675480e9af811c038d65fdae401fcdf7d07
  let s := (List.range 8).foldl (fun s i => s.setWord (R.CAL_OTP.at (2 + i)) (Word.ofN (leVal ((h.drop (4 * i)).take 4)))) up
  ((s.setFlashPage 0x1000 image).setFlashPage 0x1001 (imageTail ++ List.replicate 128 0xFF))

theorem witness_BootStageRows_head : flashed.headCause 0 true = 0 ∧ up.headCause 0 true = 3 := by decide +kernel

theorem witness_BootStageRows_tail : flashed.tailCause 0 = 0 := by decide +kernel

/-- up behind a host bus and behind SPI. -/
def bus : State := up.put F.SYS_STRAPS_HOSTMODE 1
def spi : State := up.put F.SYS_STRAPS_HOSTMODE 2

theorem witness_HostPortRows_shadow :
    hostMem (unitOf 0x210000).1 = true ∧ isUnmapped (unitOf 0x430000).1 = true ∧ isPower (unitOf 0x190000).1 = true ∧ State.reset.linkUp = false ∧
      hostMem (unitOf 0).1 = false ∧ isUnmapped (unitOf 0).1 = false ∧ isPower (unitOf 0).1 = false ∧ up.linkUp = true ∧ (unitOf 0x80000).2 = 2 := by
  decide +kernel

theorem witness_HostPortRows_bus :
    let m := bus.put F.HB_PAGE_PAGE 0x21
    let c : State := bus.setLane 0 { bus.lane 0 with cap := some (0, [7]) }
    let a (ok : Bool) : State := bus.setLane 0 { bus.lane 0 with asm := some (0, 5), asmOk := ok }
    bus.hostMode = 1 ∧ bus.hostReady = true ∧ up.hostMode = 0 ∧ (State.reset.put F.SYS_STRAPS_HOSTMODE 1).hostReady = false ∧
      (State.reset.put F.SYS_STRAPS_HOSTMODE 1).hostMode = 1 ∧ (bus.busAddr 0xFFE0).2 = true ∧ (bus.busAddr 0xFFDC).2 = false ∧ bus.get F.HB_LANE_LANE = 0 ∧
      (m.busAddr 0).2 = false ∧ hostMem (m.busAddr 0).1 = true ∧ (bus.busAddr 0) = (0, false) ∧ hostMem 0 = false ∧ R.IC_TGT_CLAIM.hit 0 = false ∧
      (c.lane 0).cap = some ((unitOf 0).1, [7]) ∧ (bus.lane 0).cap = none ∧ bus.hb.shadow.lookup 0 = none ∧ (bus.lane 0).asm = none ∧
      ((a true).lane 0).asm = some (0, 5) ∧ ((a true).lane 0).asmOk = true ∧ ((a false).lane 0).asmOk = false := by
  decide +kernel

theorem witness_HostPortRows_lost :
    let f : State := (bus.put F.SYS_D2D_STAT_LINK_UP 0).setHb { bus.hb with frozen := some [(0x190000, 7)] }
    isPower (unitOf 0x190000).1 = true ∧ f.linkUp = false ∧ f.hb.frozen = some [(0x190000, 7)] ∧ (f.lane 0).cap = none ∧ f.hostMode = 1 ∧ f.hostReady = true ∧
      (([64] : List Byte).getD 0 0).toNat / 64 % 2 = 1 ∧ (([1] : List Byte).getD 0 0).toNat / 64 % 2 = 0 := by
  decide +kernel

theorem witness_HostPortRows_queue :
    let q (en : Bool) : Posted := ⟨0, 0, 1, 0, en, 0, 5, 15⟩
    let f (n : Nat) : State := bus.setHb { bus.hb with fifo := List.replicate n (q true) }
    let v : State := bus.setHb { bus.hb with shadow := [(0, (bus.now, [7]))] }
    (f 63).hb.fifo.length < 64 ∧ 64 ≤ (f 64).hb.fifo.length ∧ bus.hb.fifo = [] ∧ (f 1).hb.fifo = q true :: [] ∧
      (bus.setHb { bus.hb with fifo := [q false] }).hb.fifo = q false :: [] ∧ v.hb.shadow.lookup 0 = some (v.now, [7]) ∧ v.now ≤ v.now + 2 := by
  decide +kernel

theorem witness_HostPortRows_spi :
    let m : List Byte := [64, 0, 0, 0]
    spi.hostMode = 2 ∧ spi.hostReady = true ∧ bus.hostMode ≠ 2 ∧ ([1] : List Byte).length < 4 ∧ 4 ≤ m.length ∧ (m.getD 0 0).toNat / 64 % 2 = 1 ∧
      0x40FFDC % 4 = 0 ∧ ¬ (0x40FFE0 ≤ 0x40FFDC ∧ 0x40FFDC < 0x410000) ∧ hostMem 0x40FFDC = false ∧ R.IC_TGT_CLAIM.hit 0x40FFDC = false := by
  decide +kernel

theorem witness_HostPortRows_frames :
    let ws : List Word := List.replicate 16 7
    let d : State := (State.reset.put F.SYS_STRAPS_HOSTMODE 2)
    let f : State := spi.setHb { spi.hb with fifo := List.replicate 48 ⟨0, 0, 1, 0, true, 0, 5, 15⟩ }
    let o : State := spi.setHb { spi.hb with shadow := [(3, (0, [7]))] }
    ws ≠ [] ∧ ws.length ≤ 16 ∧ f.hb.fifo.length + ws.length ≤ 64 ∧ 0x3FFFFC % 4 = 0 ∧ 0x3FFFFC < 0x400000 ∧ d.hostMode = 2 ∧ d.hostReady = false ∧ 0x40FFDC % 4 = 0 ∧
      isPower 0x190000 = true ∧ isPower (unitOf 0x80000).1 = false ∧ (unitOf 0x80000).1 < 0x100000 ∧ ({ o with now := 3 } : State).hb.shadow.lookup 3 = some (0, [7]) ∧ 0 + 2 < 3 := by
  decide +kernel

theorem witness_HostRecoveryRows_mailbox :
    let l (x : HbLane) : State := bus.setLane 2 x
    bus.hostPortUp false = true ∧ spi.hostPortUp true = true ∧ bus.hostPortUp true = false ∧ (l { busy := true }).lane 2 = { busy := true } ∧ (bus.lane 2).busy = false ∧
      bus.bit F.HB_LANE_CFG_EN 2 = true ∧ bus.bit F.HB_LANE_CFG_EN 0 = false ∧ ((l { busy := true, ahead := 1 }).lane 2).ahead ≠ 0 ∧
      ((l { busy := true, wr := true }).lane 2).wr = true ∧ ((l { busy := true }).lane 2).ahead = 0 ∧ (bus.hostWho false 2).en = true := by
  decide +kernel

theorem witness_HostRecoveryRows_pending :
    let l (x : HbLane) : State := bus.setLane 2 x
    let off := (l { busy := true, wr := true }).put F.HB_LANE_CFG_EN 0 2
    ((l { busy := true, wr := true, goAt := 7 }).lane 2).goAt = 7 ∧ ((l { busy := true, wr := true }).hostWho ((l { busy := true, wr := true }).lane 2).spi 2).en = true ∧
      (off.hostWho false 2).en = false ∧ ((l { busy := true }).lane 2).wr = false ∧ bus.hostPortUp false = true ∧ (bus.lane 2).busy = false := by
  decide +kernel

theorem witness_HostRecoveryRows :
    let a := bus.put F.HB_WDOG_CFG_EN 1
    let x := a.put F.HB_WDOG_STAT_EXPIRED 1
    let h (y : HbState) : State := bus.setHb y
    a.wdArmed = true ∧ bus.wdArmed = false ∧ (a.who (.lane 2)).bank ≠ 5 ∧ (a.who .sk0).bank = 5 ∧ a.bit F.HB_WDOG_STAT_EXPIRED = false ∧ x.bit F.HB_WDOG_STAT_EXPIRED = true ∧
      x.wdArmed = true ∧ x.pathOpen (.lane 2) ∧ (h { wdDue := some 5 }).hb.wdDue = some 5 ∧ bus.hb.wdDue = none ∧ (bus.who (.lane 1)).tenant ≠ 0 ∧ (bus.who (.lane 2)).tenant = 0 ∧
      (0xC3 : Word).toNat % 256 = 0xC3 ∧ (0x3C : Word).toNat % 256 = 0x3C ∧ bus.ringOpen ∧ (bus.setClk { bus.clk with warmAt := some 5 }).clk.warmAt = some 5 ∧
      bus.clk.warmAt = none ∧ (h { pwrcyc := some 5 }).hb.pwrcyc = some 5 ∧ bus.hb.pwrcyc = none := by
  unfold State.pathOpen State.ringOpen; decide +kernel

theorem witness_HostRecoveryRows_drop :
    let b : State := bus.setLane 2 { busy := true, wr := true, goAddr := 0x190000 }
    let off := bus.setClk { bus.clk with logicOff := true }
    (b.put F.SYS_D2D_STAT_LINK_UP 0).mbxDrop 2 = true ∧ b.mbxDrop 2 = false ∧ ((b.put F.SYS_D2D_STAT_LINK_UP 0).lane 2).busy = true ∧ (b.lane 2).ahead = 0 ∧ off.clk.logicOff = true ∧
      bus.clk.logicOff = false ∧ (off.setClk { off.clk with warmAt := some 5 }).clk.warmAt = some 5 := by
  decide +kernel

theorem witness_HostRecoveryRows_function :
    let b := up.put F.HB_FUNC_STAT_BUSY 1
    let p := ((b.put F.HB_FUNC_STAT_FUNC 0x49).setPnl { up.pnl with rstAt := some 3 }).setHb { up.hb with funcAt := some 3 }
    let c (x y : Bool) := (up.setCd 30 { up.cdOf 30 with rst := x, clamp := y })
    b.bit F.HB_FUNC_STAT_BUSY = true ∧ up.bit F.HB_FUNC_STAT_BUSY = false ∧ funcPower 0x10 = true ∧ funcPower 0x33 = true ∧ funcPower 0xF = false ∧ funcPower 0x34 = false ∧
      State.reset.linkUp = false ∧ State.reset.bit F.HB_FUNC_STAT_BUSY = false ∧ b.funcDone (b.get F.HB_FUNC_STAT_FUNC) = true ∧ p.get F.HB_FUNC_STAT_FUNC = 0x49 ∧
      p.funcDone 0x49 = false ∧ p.hb.funcAt = some 3 ∧ funcBound 0x49 = some 50000 ∧ funcBound 0x100 = none ∧ up.hb.funcAt = none ∧
      (c true false).cdRstReady 15 = true ∧ ((c true false).cdOf 30).rst = true ∧ ((c true false).cdOf 31).rst = false ∧ (c true true).cdRstReady 15 = false ∧ (up.cdOf 31).rst = false := by
  decide +kernel

theorem witness_HostRecoveryRows_engine :
    let r (b f : Nat) : State := { (up.put F.HB_FUNC_STAT_BUSY b).put F.HB_FUNC_STAT_FUNC f with le := { up.le with rst := true } }
    (r 0 0).le.rst = true ∧ (r 0 0).bit F.HB_FUNC_STAT_BUSY = false ∧ (r 1 0x58).get F.HB_FUNC_STAT_FUNC = 0x58 ∧ (r 1 0x58).bit F.HB_FUNC_STAT_BUSY = true ∧
      (r 1 0x58).funcDone 0x58 = false ∧ ((r 1 0).le.loops.map (·.1)).Nodup ∧ (r 1 0x10).funcDone 0x10 = true ∧ up.le.rst = false ∧
      (up.put F.LE_LS_STAT_TIMER 1).bit F.LE_LS_STAT_TIMER = true ∧ up.bit F.LE_LS_STAT_TIMER = false := by
  decide +kernel

/-- up at a stage of its boot. -/
def booting (n : Nat) : State := up.setBoot { up.boot with stage := n }

/-- A boot record in copy 0: SERIAL 1, slot B, TRIAL and TRIES as given. -/
def record (trial tries : Byte) : State :=
  let body := leBytes 4 0x4B42524A ++ leBytes 4 1 ++ [1, trial, tries, 0]
  (booting 2).setFlashPage 0 (body ++ leBytes 4 (crc32 body) ++ List.replicate 240 0xFF)

theorem witness_BootStageRows_start :
    let w := State.reset.setBoot { State.reset.boot with warm := true }
    State.reset.boot.stage = 0 ∧ State.reset.clk.refLost = false ∧ State.reset.clk.logicOff = false ∧ State.reset.boot.warm = false ∧ w.boot.warm = true ∧ (booting 7).boot.stage ≠ 0 ∧
      (booting 1).boot.stage = 1 ∧ (booting 2).linkUp = true ∧ (booting 5).boot.stage = 5 ∧ (booting 6).boot.stage = 6 ∧ (booting 6).service = false ∧
      (booting 3).trySlot = 0 ∧ (booting 3).headCause 0 false ≠ 0 ∧ ((booting 3).boot.tries.drop 1) = [] ∧
      (({ booting 3 with boot := { (booting 3).boot with tries := [0, 1] } } : State).boot.tries.drop 1) ≠ [] := by
  decide +kernel

theorem witness_BootStageRows_records :
    (booting 2).recInForce = none ∧ (record 0 0).recInForce = some (0, ⟨1, 1, 0, 0⟩) ∧ (record 1 7).recInForce = some (0, ⟨1, 1, 1, 7⟩) ∧ (record 1 0).recInForce = some (0, ⟨1, 1, 1, 0⟩) ∧
      (booting 2).get F.SYS_STRAPS_BOOTSEL = 0 ∧ ((booting 2).put F.SYS_STRAPS_BOOTSEL 3).get F.SYS_STRAPS_BOOTSEL = 3 := by
  decide +kernel

theorem witness_BootStageRows_badSignature : (booting 4).tailCause 0 ≠ 0 := by decide +kernel

theorem witness_FlashAndSlotRows :
    let b := up.put F.BOOT_FL_STAT_BUSY 1
    let a := up.put F.BOOT_FL_ADDR_ADDR 0xFFFFFF
    let r := (record 1 7).put F.BOOT_STAT_SLOT 1
    let c (op : Nat) := up.setBoot { up.boot with flCmd := some (op, 0x100000, List.replicate 256 0) }
    b.bit F.BOOT_FL_STAT_BUSY = true ∧ up.bit F.BOOT_FL_STAT_BUSY = false ∧ up.inInactive (0x900000 / 256 * 256) 256 = true ∧ up.inInactive (0x900000 / 65536 * 65536) 65536 = true ∧
      up.inInactive 0x100000 256 = false ∧ a.inInactive (a.get F.BOOT_FL_ADDR_ADDR / 256 * 256) 256 = true ∧ up.boot.flCmd = none ∧
      (c 2).boot.flCmd = some (2, 0x100000, List.replicate 256 0) ∧ (c 3).boot.flCmd = some (3, 0x100000, List.replicate 256 0) ∧ (c 1).boot.flCmd = some (1, 0x100000, List.replicate 256 0) ∧
      0x100000 / 2 ^ 20 < (c 1 |>.put F.BOOT_FLASH_MIB 32).get F.BOOT_FLASH_MIB ∧ up.bit F.BOOT_SLOT_STAT_BUSY = false ∧ up.slotInactive 1 = true ∧ up.slotInactive 0 = false ∧
      r.recInForce = some (0, ⟨1, 1, 1, 7⟩) ∧ r.get F.BOOT_STAT_SLOT = 1 ∧ r.service = false ∧ r.bit F.BOOT_SLOT_STAT_BUSY = false ∧ r.pathOpen .sk0 ∧ r.ringOpen ∧ up.recInForce = none ∧
      up.boot.act = none ∧ (up.setBoot { up.boot with act := some (10, 65537) }).boot.act = some (10, 65537) ∧ up.verifyCause 1 false = 2 := by
  unfold State.pathOpen State.ringOpen; decide +kernel

theorem witness_FlashAndSlotRows_unsized :
    let f := up.setFlashPage 0x1000 (List.replicate 256 5)
    let v := up.put F.BOOT_STAT_SVC 4
    up.get F.BOOT_FLASH_MIB = 0 ∧ (∃ x ∈ f.boot.flash, x.1 = 0x100000 / 256) ∧ f.get F.BOOT_FLASH_MIB = 0 ∧ v.get F.BOOT_STAT_SVC = 4 ∧ v.get F.BOOT_FLASH_MIB = 0 := by
  decide +kernel

theorem witness_FlashAndSlotRows_calibration :
    up.ucChk 2047 0 ≠ Res.applied ∧ ((up.setWord (R.CAL_UC_GAIN.at 2047) 0x3F800000).ucChk 2047 0) = Res.applied := by
  decide +kernel

theorem witness_ClockAndResetRows :
    let r := up.put F.SYS_CLK_STAT_REF_OK 1
    let f := (r.put F.SYS_CLK_STAT_LE_FREE 1)
    let c (x : ClkState) : State := up.setClk x
    r.bit F.SYS_CLK_STAT_REF_OK = true ∧ (r.put F.SYS_CLK_STAT_LE_FREE 0).bit F.SYS_CLK_STAT_LE_FREE = false ∧ f.bit F.SYS_CLK_STAT_LE_FREE = true ∧ f.bit F.SYS_CLK_STAT_REF_OK = true ∧
      (up.put F.SYS_CLK_STAT_REF_OK 0).bit F.SYS_CLK_STAT_REF_OK = false ∧ (20000 : Int).natAbs ≤ 20000 ∧ 20000 < (-20001 : Int).natAbs ∧ up.clk.refLost = false ∧
      (c { refLost := true }).clk.refLost = true ∧ (c { pdOff := true }).clk.pdOff = true ∧ up.clk.pdOff = false ∧ (c { pdReset := false }).clk.pdReset = false ∧ up.clk.pdReset = true ∧
      (c { warm := some (3, 9) }).clk.warm = some (3, 9) ∧ up.clk.warm = none ∧ (c { notice := true }).clk.notice = true ∧ up.clk.notice = false ∧ (up.who (.lane 1)).tenant ≠ 0 := by
  decide +kernel

theorem witness_ClockAndResetRows_reset :
    let o := up.setClk { up.clk with logicOff := true }
    let n := booting 7
    o.inPor = true ∧ State.reset.inPor = true ∧ n.inPor = false ∧ n.bit F.SYS_CLK_STAT_REF_OK = false ∧ (n.put F.SYS_CLK_STAT_REF_OK 1).bit F.SYS_CLK_STAT_REF_OK = true ∧ n.pdReach = true ∧
      off.clk.pdOff = true ∧ (up.setClk { up.clk with pdReset := false }).clk.pdReset = false := by
  decide +kernel

theorem witness_ClockAndResetRows_supplies :
    let b := up.put F.AON_STAT_BAT_GONE 1
    let g := up.put F.AON_STAT_BAT_GONE 0
    let m := up.put F.AON_CHG_STAT_MODE 1
    let y := up.put F.CL_TIME_STAT_SYNC 1
    b.bit F.AON_STAT_BAT_GONE = true ∧ g.bit F.AON_STAT_BAT_GONE = false ∧ (g.setClk { g.clk with afe := true }).clk.afe = true ∧
      (g.setClk { g.clk with afe := false }).clk.afe = false ∧ b.linkUp = true ∧ b.pathOpen .sk0 ∧ b.ringOpen ∧ m.get F.AON_CHG_STAT_MODE = 1 ∧
      (up.put F.AON_CHG_STAT_MODE 2).get F.AON_CHG_STAT_MODE ≠ 1 ∧ 2199 < supWarn 3 ∧ bitsOf (up.word (R.AON_SUP_STAT.at)) 3 1 = 0 ∧ 103 * supWarn 3 < 100 * 2267 ∧
      up.rtcHeld = none ∧ ({ up with rtcHeld := some 5 } : State).rtcHeld = some 5 ∧ up.bit F.CL_TIME_STAT_SYNC = false ∧ y.bit F.CL_TIME_STAT_SYNC = true ∧ y.linkUp = true := by
  unfold State.pathOpen State.ringOpen; decide +kernel

theorem witness_LinkRows :
    let o (r : List AuditRec) (ok : Bool) (n : Nat) : D2dOut := ⟨r, ok, ⟨5, 0, 10, 12, true, 0x190000, 0, 15⟩, n, 7⟩
    let s (x : D2dOut) : State := up.setClk { up.clk with out := [x] }
    let q : State := up.setClk { up.clk with silent := true, out := [o [] false 1] }
    isPower 0 = false ∧ isPower 0x190000 = true ∧ up.linkUp = true ∧ up.clk.silent = false ∧ q.clk.silent = true ∧ q.clk.out = o [] false 1 :: [] ∧ State.reset.linkUp = false ∧
      State.reset.pathOpen .sk0 ∧ up.clk.out = [] ∧ (s (o [] true 4)).clk.out = o [] true 4 :: [] ∧ (s (o [{}] true 3)).clk.out = o [{}] true 3 :: [] ∧
      (o [] false 1).applied = false ∧ (o [] true 4).records = [] ∧ (o [{}] true 4).records = [{}] ∧ 4 ≤ (o [] true 4).tries ∧ (o [{}] true 3).tries < 4 ∧ (s (o [{}] true 3)).ringOpen := by
  unfold State.pathOpen State.ringOpen; decide +kernel

theorem witness_LinkRows_forwarded :
    let f (n : Nat) (s : Bool) : State := { up with fwd := [⟨Cls.coil, 31, 0x3F800000, Qual.good⟩], clk := { up.clk with fwdTries := n, silent := s } }
    (f 4 false).clk.out = [] ∧ 4 ≤ (f 4 false).clk.fwdTries ∧ (f 3 false).clk.fwdTries < 4 ∧ (f 3 false).fwd ≠ [] ∧ (f 3 true).clk.silent = true ∧ (f 3 false).linkUp = true ∧
      (f 3 true).pdReach = false ∧ (up.setClk { up.clk with reads := [⟨5, 0, 10, 12, true, 5, 0x190000⟩] }).pdReach = true := by
  decide +kernel

theorem witness_LinkRows_frames :
    let o : D2dOut := ⟨[], true, ⟨5, 0, 10, 12, true, 0x190000, 0, 15⟩, 4, 7⟩
    let s (x : Bool) (n : Nat) : State := up.setClk { up.clk with silent := x, out := [{ o with tries := n }] }
    let r : D2dIn := ⟨5, 0, 10, 12, true, 5, 0x190000⟩
    let held : State := bus.put F.HB_HSTAT_READY 0
    (s true 4).clk.silent = true ∧ (s false 4).clk.silent = false ∧ (up.setClk { up.clk with reads := [r] }).clk.reads = r :: [] ∧ up.clk.reads = [] ∧
      held.hostHeld (.lane 1) = true ∧ up.hostHeld (.lane 1) = false ∧ isPower (0x190003 / 4 * 4) = true ∧ isPower (0x18FFFF / 4 * 4) = false := by
  decide +kernel

theorem witness_LinkRows_training :
    let d (n : Nat) (w : Bool) (x : ClkState) : State := { State.reset with clk := x, boot := { State.reset.boot with stage := n, warm := w } }
    State.reset.clk.pdLost = true ∧ up.clk.pdLost = false ∧ (d 7 false {}).linkUp = false ∧ (d 7 false {}).boot.stage ≠ 0 ∧ (d 7 false {}).clk.train = none ∧
      (d 7 false { train := some 5 }).clk.train.isSome = true ∧ (d 7 false { train := some 5 }).clk.pdOff = false ∧ (d 7 false { train := some 5, pdReset := false }).clk.pdReset = false ∧
      (d 7 false { train := some 5 }).clk.pdReset = true ∧ (d 6 false { train := some 5 }).boot.stage < 7 ∧ (d 7 false { lossAt := some 4 }).clk.lossAt = some 4 ∧
      (d 6 false {}).boot.warm = false ∧ (d 6 true {}).boot.warm = true ∧ State.reset.boot.stage = 0 := by
  decide +kernel

/-- up with the panel in a state of its power sequence. -/
def lit (ps : Nat) (x : PnlState) : State := (up.put F.PNL_STAT_PSTATE ps).setPnl x

theorem witness_PanelRows :
    let on := ((up.put F.PNL_CTRL_ON 1).setBoot { up.boot with stage := 7 })
    let h := ((lit Ps.on {}).put F.PNL_CRK_CFG_ACT 1).setWord (R.PNL_FLT.at) 1
    let t := (up.put F.PNL_VCOM_CFG_TEN 1)
    (lit Ps.on {}).pnlTiming = true ∧ up.pnlTiming = false ∧ on.pstate = Ps.off ∧ on.bit F.PNL_CTRL_ON = true ∧ on.crackHold = false ∧ on.pnl.rstAt = none ∧ on.boot.stage = 7 ∧
      (lit Ps.on {}).pstate = Ps.on ∧ (lit Ps.on {}).bit F.PNL_CTRL_ON = false ∧ h.crackHold = true ∧ (lit Ps.up { rstAt := some 5 }).pnl.rstAt = some 5 ∧
      (lit Ps.up { step := 3, stepFrames := 15 }).stepMs = none ∧ (lit Ps.up { step := 3, stepFrames := 15 }).stepFramesDue ≤ 15 ∧
      0 < ((lit Ps.up { step := 3 }).put F.PNL_PSEQ2_BLANK 1).stepFramesDue ∧ (lit Ps.down { step := 3 }).stepMs ≠ none ∧ (lit Ps.up { step := 4 }).pstate = Ps.up ∧
      t.bit F.PNL_VCOM_CFG_TEN = true ∧ qualLive (t.ptQual (t.get F.PNL_VCOM_CFG_TPT)) = false ∧ qualLive ((t.put F.PT_STATUS_QUAL Qual.good).ptQual 0) = true ∧
      (up.put F.PNL_VCOM_CFG_TEN 0).bit F.PNL_VCOM_CFG_TEN = false ∧ (up.put F.PNL_CRK_CFG_EN 1).bit F.PNL_CRK_CFG_EN = true ∧ up.bit F.PNL_CRK_CFG_EN = false ∧
      up.word (R.PNL_FLT.at) = 0 := by
  decide +kernel

theorem witness_PanelRows_edge :
    let e (n : Nat) := ({ (lit Ps.on { edge := true, stepFrames := 3 }).put F.PNL_SIZE_HACT 800 |>.put F.PNL_HTIM_HSW 4 |>.put F.PNL_SIZE_VACT 480 |>.put F.PNL_CLK_FREQ 330 with now := n } : State)
    let d := (lit Ps.down { edge := true, stepFrames := 1 }).put F.PNL_PSEQ2_DISCH 1
    (e 0).pnl.edge = true ∧ (lit Ps.on {}).pnl.edge = false ∧ (e (e 0).vsyncAt).pnlTiming = true ∧ (e (e 0).vsyncAt).vsyncAt ≤ (e (e 0).vsyncAt).now ∧ ¬ ((e 0).vsyncAt ≤ (e 0).now) ∧
      d.stepFramesDue = d.pnl.stepFrames + 1 ∧ d.stepMs = none := by
  decide +kernel

theorem witness_KeypadRows :
    let c := (up.put F.PNL_ENC_CFG_CPD 1 3)
    let e (a : Int) := c.setPnl { c.pnl with encs := putAt (0, 0) c.pnl.encs 3 (0, a) }
    let k : KeyEntry := ⟨0, 0xC6, 9⟩
    let q (n : Nat) := up.setPnl { up.pnl with keyq := List.replicate n k }
    c.get F.PNL_ENC_CFG_FILT 3 < 1 ∧ 0 ≤ c.get F.PNL_ENC_CFG_FILT 3 ∧ (e 0).pnl.encs.getD 3 (0, 0) = (0, 0) ∧ (grayIdx 1 + 4 - grayIdx 0) % 4 = 1 ∧ (grayIdx 2 + 4 - grayIdx 0) % 4 = 3 ∧ (grayIdx 3 + 4 - grayIdx 0) % 4 = 2 ∧
      ((c.get F.PNL_ENC_CFG_CPD 3 : Nat) : Int) = 1 ∧ (q 63).pnl.keyq.length < 64 ∧ 64 ≤ (q 64).pnl.keyq.length ∧ (q 1).pnl.keyq = k :: [] ∧ F.PNL_KEYQ_POP_QSEQ.of (Word.ofN (9 * 2 ^ F.PNL_KEYQ_POP_QSEQ.lo)) = 9 ∧
      (up.who (.lane 1)).tenant ≠ 0 ∧ (up.who (.lane 1)).bank ≠ 5 ∧ (up.who .sk0).bank = 5 ∧ up.pathOpen .sk0 ∧ up.ringOpen ∧ F.PNL_ACC_LVL_LEVEL.of (3 : Word) = 3 ∧
      (up.put F.PNL_ACC_CFG_EN 1 2).tryOk 3 = true ∧ up.tryOk 3 = false ∧ up.pnlLevel = 0 ∧ (up.put F.PNL_ACC_STAT_LEVEL 3).pnlLevel = 3 ∧
      up.pnl.lockAt = none ∧ (up.setPnl { up.pnl with lockAt := some 5 }).pnl.lockAt = some 5 := by
  unfold State.pathOpen State.ringOpen; decide +kernel

theorem witness_ActivationAndItemRows :
    let t (k i trig arg ten : Nat) (s : State) := (((s.put F.SK_TASK_CTL_EN 1 k i).put F.SK_TASK_CTL_TRIG trig k i).put F.SK_TASK_TRIG_ARG arg k i).put F.SK_TASK_CTL_TENANT ten k i
    let p := t 3 63 0 1 0 up
    let v : State := { ((((t 3 63 1 40 0 up).put F.IC_SRC_CFG_TMASK 8 40).put F.IC_TGT_CTRL_EN 1 3).put F.IC_TGT_CTRL_THRESH 0 3) with
      ic := { up.ic with en := BitVec.ofNat 256 (2 ^ 40), swp := BitVec.ofNat 256 (2 ^ 40), pend := BitVec.ofNat 256 (2 ^ 40) } }
    let o := v.setOffer 3 (some ⟨40, true⟩)
    p.skTasks 0 (fun k t => p.get F.SK_TASK_TRIG_ARG k t % 65536 != 0 && p.frame % (p.get F.SK_TASK_TRIG_ARG k t % 65536) == p.get F.SK_TASK_TRIG_ARG k t / 65536) = [(3, 63)] ∧
      p.tstate (p.get F.SK_TASK_CTL_TENANT 3 63) = 1 ∧ up.space.length < 20 ∧ (up.put F.SK_CTRL_STOPPED 1 3).bit F.SK_CTRL_STOPPED 3 = true ∧ (up.put F.SK_CTRL_STOPPED 0 3).bit F.SK_CTRL_STOPPED 3 = false ∧
      up.offer 3 = none ∧ o.offer 3 = some ⟨40, true⟩ ∧ o.eligible 40 3 = true ∧ (up.setOffer 3 (some ⟨40, true⟩)).eligible 40 3 = false := by
  decide +kernel

theorem witness_ActivationAndItemRows_status :
    let m : TickMeas := ⟨List.replicate 16 0, List.replicate 16 5000, 24000, 24000⟩
    let b (r : Nat) := ((up.put F.PT_BIND_KIND Kind.status 32767).put F.PT_BIND_REF r 32767)
    let l (s : State) := ((s.tickMeas m).listed R.PT_BIND).filter (fun (e : Nat × Word) => F.PT_BIND_KIND.of e.2 == Kind.status)
    l up = [] ∧ (l (b 0x10000)).map (·.1) = [32767] ∧ ((b 0x10000).tickMeas m).statusItem 1 0 ≠ none ∧ ((State.reset).tickMeas m).statusItem 1 0 = none := by
  decide +kernel

/-- The OTP whose 1788 checked bytes are four of 0xFF and zeros, so that CRC-32 is 0xFFFFFFFF, ending in a CRC. -/
def otpWith (crc : List Byte) : List Byte := List.replicate 256 0 ++ ((List.replicate 4 0xFF ++ List.replicate 1784 0) ++ crc)

theorem otpWith_checked (a b c : List Byte) : (List.range b.length).map (fun i => (a ++ (b ++ c)).getD (a.length + i) 0) = b := by
  refine List.ext_getElem (by simp) (fun i h1 h2 => ?_)
  simp [List.getD_eq_getElem?_getD, List.getElem?_append_right, List.getElem?_append_left h2, List.getElem?_eq_getElem h2]

theorem crc32Byte_zeros (n : Nat) : (List.replicate n (0 : Byte)).foldl crc32Byte 0 = 0 := by
  induction n with
  | zero => rfl
  | succ n ih => rw [List.replicate_succ, List.foldl_cons]; exact ih

theorem otpWith_crc (crc : List Byte) : crc32 ((List.range 0x6FC).map (fun i => (otpWith crc).getD (0x100 + i) 0)) = 0xFFFFFFFF := by
  have h := otpWith_checked (List.replicate 256 0) (List.replicate 4 0xFF ++ List.replicate 1784 0) crc
  simp only [List.length_append, List.length_replicate] at h
  have e : (List.replicate 4 (0xFF : Byte)).foldl crc32Byte 0xFFFFFFFF = 0 := by decide +kernel
  rw [otpWith, show (0x6FC : Nat) = 4 + 1784 from rfl, show (0x100 : Nat) = 256 from rfl, h, crc32, List.foldl_append, e, crc32Byte_zeros]; rfl

theorem witness_BadOtpEndsInServiceMode :
    let sum (l : List Byte) := crc32 ((List.range 0x6FC).map (fun i => l.getD (0x100 + i) 0))
    let stored (l : List Byte) := leVal ((l.drop 0x7FC).take 4)
    sum (otpWith [255, 255, 255, 255]) = stored (otpWith [255, 255, 255, 255]) ∧ sum (otpWith [0, 0, 0, 0]) ≠ stored (otpWith [0, 0, 0, 0]) := by
  have h (c : List Byte) : (otpWith c).drop 0x7FC = c := by
    rw [otpWith, ← List.append_assoc]
    exact List.drop_left' (by simp only [List.length_append, List.length_replicate])
  simp only [otpWith_crc, h]; decide
theorem witness_StepTakesOneCommand : (State.withFetchWord up 32 0).pending = [.add 1 .clean 0 0 0] ∧ up.pending = [] := by decide

theorem witness_CountersSaturate : F.CL_PORT_CNT_RX.lo + F.CL_PORT_CNT_RX.w ≤ 32 := by decide

theorem test_words_spell_commands : Sys2Proof.decodeTableWord 32 0 = some (.add 1 .clean 0 0 0) ∧ Sys2Proof.decodeTableWord 8 255 = none := by decide

/-! Words written out from the encodings of R192 to R196, R202, R203 and R207, one for each format and family. -/

theorem test_decode_words :
    skDecode 1 0b000000_0011_0100_0101_00000000_010111#32 = .adds 1 .clean 3 4 5 ∧ skDecode 1 0b001000_0011_0100_0101_00000000_001111#32 = .fscl 1 .clean 3 4 5 ∧
      skDecode 1 0b010101_0011_0100_111111111111111100#32 = .stw 1 .clean 3 4 (-4) ∧ skDecode 1 0b001010_0110_0001000001110000000000#32 = .lhi 1 .clean 6 0x041C00 ∧
      skDecode 1 0b011010_0011_0000_000000000000000001#32 = .blz 1 .clean 3 1 ∧ skDecode 1 0b011010_0011_0001_000000000000000001#32 = .illegal 1 .clean ∧
      skDecode 1 0b011111_11111111111111111111111111#32 = .call 1 .clean (-1) ∧ skDecode 1 0b101000_0011_0100_0101_0001_1001_000010#32 = .psrc 1 .clean 3 4 5 1 9 .clean ∧
      skDecode 1 0b110000_0000_0100_0101_0000_0011_010100#32 = .lxfo 1 .clean 4 5 3 ∧ skDecode 1 0b111110_0011_0000_0000_00000011_000011#32 = .rdt 1 .clean 3 3 0 ∧
      skDecode 1 0b001000_0011_0100_0000_00000000_010000#32 = .shri 1 .clean 3 4 16 ∧ skDecode 1 0b111111_00000000000000000000000000#32 = .illegal 1 .clean := by decide

/-! Published vectors: FIPS 180-4 and RFC 4493 (its leading 64 bits). -/

theorem test_sha256 : sha256 [97, 98, 99] = 0xba7816bf8f01cfea414140de5dae2223b00361a396177a9cb410ff61f20015ad := by decide +kernel
theorem test_cmac : cmac64 0x2b7e151628aed2a6abf7158809cf4f3c [] = 0xbb1d6929e9593728 := by decide +kernel

end Sys2Proof.Tests
end

section
/-! The statements about the register space's fields, settled from the laws of the state. -/

namespace Sys2Proof.Machine

/-- Settles O7: a field set to the saturated sum reads back as that sum, which fits it (`State.get_inc_same`); the statement
names the two bounds of the minimum in the other order. -/
theorem countersSaturate : Obligations.CountersSaturate := by
  unfold Obligations.CountersSaturate
  intro s f n i j hfits
  calc (s.inc f n i j).get f i j
      = min (s.get f i j + n) (2 ^ f.w - 1) := State.get_inc_same s f n i j hfits
    _ = min (2 ^ f.w - 1) (s.get f i j + n) := Nat.min_comm _ _

end Sys2Proof.Machine
end

section
/-! Accesses to addresses of no block (R45, R52): what SYS_UNMAPPED takes up, and the two commands that reach it. -/

namespace Sys2Proof.Machine

/-- From `s` to `t` an access at `a` was recorded in SYS_UNMAPPED, unless one was held there; no other register word and no
record of the audit log changed (R45, R52). -/
def State.RecordsUnmapped (s t : State) (a : Nat) (write : Bool) : Prop :=
  (∀ x, x ≠ R.SYS_UNMAPPED.at → t.word x = s.word x) ∧ t.log = s.log ∧
  (s.bit F.SYS_UNMAPPED_VALID = true → t.word R.SYS_UNMAPPED.at = s.word R.SYS_UNMAPPED.at) ∧
  (s.bit F.SYS_UNMAPPED_VALID = false →
    t.get F.SYS_UNMAPPED_ADDR = a % 2 ^ 24 ∧ t.get F.SYS_UNMAPPED_WRITE = b2n write ∧ t.bit F.SYS_UNMAPPED_VALID = true)

theorem isUnmapped_iff (a : Nat) : isUnmapped a = true ↔ (0x3C0000 ≤ a ∧ a < 0x400000) ∨ 0x430000 ≤ a := by
  simp [isUnmapped]

/-- The bounds of R45 are word addresses, so an access to any byte of a word is judged like one to the word. -/
theorem isUnmapped_wordAddr (a : Nat) : isUnmapped (a / 4 * 4) = isUnmapped a := by
  rw [Bool.eq_iff_iff, isUnmapped_iff, isUnmapped_iff]
  omega

theorem State.unmapped_of_valid {s : State} (a : Nat) (write : Bool) (h : s.bit F.SYS_UNMAPPED_VALID = true) :
    s.unmapped a write = s := if_pos h

theorem State.unmapped_of_not_valid {s : State} (a : Nat) (write : Bool) (h : s.bit F.SYS_UNMAPPED_VALID = false) :
    s.unmapped a write =
      ((s.put F.SYS_UNMAPPED_ADDR a).put F.SYS_UNMAPPED_WRITE (b2n write)).put F.SYS_UNMAPPED_VALID 1 :=
  if_neg (by simp [h])

theorem State.word_put_ne (s : State) (f : Fld) (v : Nat) {i j b : Nat} (h : b ≠ f.reg.at i j) :
    (s.put f v i j).word b = s.word b := by
  rw [State.word_put, if_neg h]

theorem State.unmapped_word_ne (s : State) (a : Nat) (write : Bool) {x : Nat} (hx : x ≠ R.SYS_UNMAPPED.at) :
    (s.unmapped a write).word x = s.word x := by
  cases h : s.bit F.SYS_UNMAPPED_VALID with
  | true => rw [State.unmapped_of_valid a write h]
  | false =>
    rw [State.unmapped_of_not_valid a write h]
    exact (State.word_put_ne _ F.SYS_UNMAPPED_VALID 1 hx).trans <|
      (State.word_put_ne _ F.SYS_UNMAPPED_WRITE (b2n write) hx).trans (s.word_put_ne F.SYS_UNMAPPED_ADDR a hx)

theorem State.unmapped_log (s : State) (a : Nat) (write : Bool) : (s.unmapped a write).log = s.log := by
  cases h : s.bit F.SYS_UNMAPPED_VALID with
  | true => rw [State.unmapped_of_valid a write h]
  | false => simp [State.unmapped_of_not_valid a write h]

/-- The address field reads back the low 24 bits: the two flags set after it stand beside it. -/
theorem State.unmapped_addr {s : State} (a : Nat) (write : Bool) (h : s.bit F.SYS_UNMAPPED_VALID = false) :
    (s.unmapped a write).get F.SYS_UNMAPPED_ADDR = a % 2 ^ 24 := by
  rw [State.unmapped_of_not_valid a write h,
    State.get_put_beside _ F.SYS_UNMAPPED_VALID F.SYS_UNMAPPED_ADDR _ _ _ rfl (by decide) (by decide),
    State.get_put_beside _ F.SYS_UNMAPPED_WRITE F.SYS_UNMAPPED_ADDR _ _ _ rfl (by decide) (by decide)]
  exact State.get_put_same _ _ _ _ _ (by decide)

theorem State.unmapped_write {s : State} (a : Nat) (write : Bool) (h : s.bit F.SYS_UNMAPPED_VALID = false) :
    (s.unmapped a write).get F.SYS_UNMAPPED_WRITE = b2n write := by
  rw [State.unmapped_of_not_valid a write h,
    State.get_put_beside _ F.SYS_UNMAPPED_VALID F.SYS_UNMAPPED_WRITE _ _ _ rfl (by decide) (by decide),
    State.get_put_same _ _ _ _ _ (by decide)]
  cases write <;> rfl

theorem State.unmapped_valid {s : State} (a : Nat) (write : Bool) (h : s.bit F.SYS_UNMAPPED_VALID = false) :
    (s.unmapped a write).bit F.SYS_UNMAPPED_VALID = true := by
  rw [State.unmapped_of_not_valid a write h, State.bit, State.get_put_same _ _ _ _ _ (by decide)]
  rfl

theorem State.recordsUnmapped_unmapped (s : State) (a : Nat) (write : Bool) :
    s.RecordsUnmapped (s.unmapped a write) a write :=
  ⟨fun _ hx => s.unmapped_word_ne a write hx, s.unmapped_log a write,
    fun h => by rw [State.unmapped_of_valid a write h],
    fun h => ⟨State.unmapped_addr a write h, State.unmapped_write a write h, State.unmapped_valid a write h⟩⟩

/-- A register write at such an address does nothing but what SYS_UNMAPPED takes up, under the word's address. -/
theorem exec_registerWrite_unmapped (s : State) (p : Path) (a : Fin (2 ^ 24)) (data : Word) (ha : isUnmapped a.val = true) :
    s.doesPlain p (.registerWrite p a data) Res.applied (fun s => s.unmapped (a.val / 4 * 4) true) := by
  refine doesPlain_of (f := fun w s => s.busWrite w (a.val / 4 * 4) data) rfl ?_
  exact if_pos (by rw [isUnmapped_wordAddr, ha])

theorem exec_unmappedAccess_of_isUnmapped (s : State) (p : Path) (a : Fin (2 ^ 24)) (write : Bool)
    (ha : isUnmapped a.val = true) (hp : s.pathOpen p) :
    exec (.unmappedAccess p a write) s = .next { (s.opened p).unmapped a.val write with rdata := 0 } := by
  change Host.Outcome.next (s.byPath p _) = _
  rw [State.byPath_opened _ _ _ hp, if_pos ha]

/-- Settles O9: a register write and an unmapped access both come down to `State.unmapped` on the opened state, which differs
from the state before in no register word and not in the log. -/
theorem unmappedAccessReadsZeroAndIsRecorded : Obligations.UnmappedAccessReadsZeroAndIsRecorded := by
  unfold Obligations.UnmappedAccessReadsZeroAndIsRecorded
  intro s p a data ha hp
  have hun : isUnmapped a.val = true := (isUnmapped_iff a.val).mpr ha
  have hrec : ∀ b write, s.RecordsUnmapped ((s.opened p).unmapped b write) b write :=
    (s.opened p).recordsUnmapped_unmapped
  exact ⟨⟨_, exec_registerWrite_unmapped s p a data hun hp, hrec _ true⟩,
    fun write => ⟨_, exec_unmappedAccess_of_isUnmapped s p a write hun hp, rfl, hrec _ write⟩⟩

end Sys2Proof.Machine
end

section
/-! The point window under a write (R59 to R66, R79): the words that a record leaves on entering the ring, so that the decision is the
same before and after it; what follows an accepted write; VALUE and STATUS set together. -/

namespace Sys2Proof.Machine

/-! ### What a record leaves as it enters the ring -/

theorem State.word_of_space {s t : State} (h : t.space = s.space) (a : Nat) : t.word a = s.word a := by
  unfold State.word
  rw [h]

/-- A field at bits beside those of the one set keeps its value in every register. -/
theorem State.get_put_disjoint (s : State) (f g : Fld) (v i j k l : Nat) (h : f.lo + f.w ≤ 32)
    (hd : g.lo + g.w ≤ f.lo ∨ f.lo + f.w ≤ g.lo) : (s.put f v i j).get g k l = s.get g k l := by
  by_cases ha : g.reg.at k l = f.reg.at i j
  · unfold State.get
    rw [State.word_put, if_pos ha, bitsOf_setBits_ne _ _ _ _ _ _ h hd]
  · exact State.get_put_ne s f g v i j k l ha

theorem State.exDelay_word_ne (s : State) (t : Nat) {a : Nat} (h : a ≠ R.TEN_CNT.at t) : (s.exDelay t).word a = s.word a := by
  unfold State.exDelay
  dsimp only
  split
  · rfl
  · exact State.word_inc _ _ _ _ _ _ h

theorem State.logUse_word_ne (s : State) (t : Nat) {a : Nat} (hused : a ≠ R.TEN_QLOG_USED.at t) (hstat : a ≠ R.TEN_CTX_STAT.at t)
    (hcnt : a ≠ R.TEN_CNT.at t) : (s.logUse t).word a = s.word a := by
  unfold State.logUse
  split
  · rfl
  · rw [State.exDelay_word_ne _ _ hcnt, State.word_putIf _ _ _ _ _ _ _ hstat, State.word_inc _ _ _ _ _ _ hused]

theorem State.aonSeq_word_ne (s : State) {a : Nat} (hlo : a ≠ R.AON_LOG_SEQ_LO.at) (hhi : a ≠ R.AON_LOG_SEQ_HI.at) :
    s.aonSeq.word a = s.word a := by
  unfold State.aonSeq
  split
  · rw [State.word_setWord_ne _ _ hhi, State.word_setWord_ne _ _ hlo]
  · rfl

/-- The register words that a record may change on entering the ring, by address (R582, R619, R620). -/
theorem State.ringEnter_word_ne (s : State) (r : AuditRec) {a : Nat} (hlo : a ≠ R.AON_LOG_SEQ_LO.at) (hhi : a ≠ R.AON_LOG_SEQ_HI.at)
    (hused : a ≠ R.TEN_QLOG_USED.at r.tenant) (hstat : a ≠ R.TEN_CTX_STAT.at r.tenant) (hcnt : a ≠ R.TEN_CNT.at r.tenant) :
    (s.ringEnter r).word a = s.word a := by
  unfold State.ringEnter
  split
  · rfl
  · rw [State.logUse_word_ne _ _ hused hstat hcnt]
    simp only [State.logCut_rest]
    exact State.aonSeq_word_ne _ hlo hhi

/-- Throttling a tenant does not move the state of any context (R602, R620). -/
theorem State.logUse_ctxState (s : State) (t j : Nat) :
    (s.logUse t).get F.TEN_CTX_STAT_STATE j = s.get F.TEN_CTX_STAT_STATE j := by
  have hused : R.TEN_CTX_STAT.at j ≠ R.TEN_QLOG_USED.at t := by simp only [Reg.at, R.TEN_CTX_STAT, R.TEN_QLOG_USED]; omega
  have hcnt : R.TEN_CTX_STAT.at j ≠ R.TEN_CNT.at t := by simp only [Reg.at, R.TEN_CTX_STAT, R.TEN_CNT]; omega
  unfold State.logUse
  split
  · rfl
  · rw [State.get_of_word (State.exDelay_word_ne _ t hcnt)]
    unfold State.putIf
    split
    · rw [State.get_put_disjoint _ F.TEN_CTX_STAT_THROTTLED F.TEN_CTX_STAT_STATE _ _ _ _ _ (by decide) (by decide)]
      exact State.get_inc_ne _ _ _ _ _ _ _ _ hused
    · exact State.get_inc_ne _ _ _ _ _ _ _ _ hused

theorem State.ringEnter_tstate (s : State) (r : AuditRec) (t : Nat) : (s.ringEnter r).tstate t = s.tstate t := by
  have hlo : R.TEN_CTX_STAT.at t ≠ R.AON_LOG_SEQ_LO.at := by simp only [Reg.at, R.TEN_CTX_STAT, R.AON_LOG_SEQ_LO]; omega
  have hhi : R.TEN_CTX_STAT.at t ≠ R.AON_LOG_SEQ_HI.at := by simp only [Reg.at, R.TEN_CTX_STAT, R.AON_LOG_SEQ_HI]; omega
  have hget : (s.ringEnter r).get F.TEN_CTX_STAT_STATE t = s.get F.TEN_CTX_STAT_STATE t := by
    unfold State.ringEnter
    split
    · rfl
    · rw [State.logUse_ctxState]
      simp only [State.logCut_rest]
      exact State.get_of_word (State.aonSeq_word_ne _ hlo hhi)
  unfold State.tstate
  rw [hget]

/-! ### The decision of R79 before and after the record -/

theorem State.ptTenant_lt (s : State) (i : Nat) : s.ptTenant i < 256 := s.get_lt F.PT_CONFIG_TENANT i 0

/-- has_right of R605 reads the tenant's state, the point's TENANT and the tenant's eight windows. -/
theorem State.hasRight_congr {s u : State} {t i : Nat} (p : Nat) (hstate : u.tstate t = s.tstate t) (hten : u.ptTenant i = s.ptTenant i)
    (ha : ∀ w < 8, u.word (R.TEN_WIN_A.at t w) = s.word (R.TEN_WIN_A.at t w))
    (hb : ∀ w < 8, u.word (R.TEN_WIN_B.at t w) = s.word (R.TEN_WIN_B.at t w)) : u.hasRight t i p = s.hasRight t i p := by
  unfold State.hasRight
  rw [hstate, hten]
  congr 2
  rw [Bool.eq_iff_iff, List.any_eq_true, List.any_eq_true]
  refine exists_congr fun w => and_congr_right fun hw => ?_
  have hlt : w < 8 := List.mem_range.mp hw
  have hfirst : u.get F.TEN_WIN_A_FIRST t w = s.get F.TEN_WIN_A_FIRST t w := State.get_of_word (ha w hlt)
  have hrights : u.get F.TEN_WIN_A_RIGHTS t w = s.get F.TEN_WIN_A_RIGHTS t w := State.get_of_word (ha w hlt)
  have hmax : u.get F.TEN_WIN_A_MAXPRIO t w = s.get F.TEN_WIN_A_MAXPRIO t w := State.get_of_word (ha w hlt)
  have hlast : u.get F.TEN_WIN_B_LAST t w = s.get F.TEN_WIN_B_LAST t w := State.get_of_word (hb w hlt)
  unfold State.inWindow
  rw [hfirst, hrights, hmax, hlast]

theorem State.ringEnter_window (s : State) (r : AuditRec) (t : Nat) {w : Nat} (hw : w < 8) :
    (s.ringEnter r).word (R.TEN_WIN_A.at t w) = s.word (R.TEN_WIN_A.at t w) ∧
      (s.ringEnter r).word (R.TEN_WIN_B.at t w) = s.word (R.TEN_WIN_B.at t w) := by
  constructor
  all_goals
    apply State.ringEnter_word_ne
    all_goals
      simp only [Reg.at, R.TEN_WIN_A, R.TEN_WIN_B, R.AON_LOG_SEQ_LO, R.AON_LOG_SEQ_HI, R.TEN_QLOG_USED, R.TEN_CTX_STAT, R.TEN_CNT]
      omega

/-- The addresses of the point window (R44, R59). -/
def isPointWord (a : Nat) : Prop := 0x80000 ≤ a ∧ a < 0x100000

theorem isBook_of_isPointWord {a : Nat} (h : isPointWord a) : isBook a = false := by
  obtain ⟨hlo, hhi⟩ := h
  simp only [isBook, Bool.or_eq_false_iff, decide_eq_false_iff_not]
  omega

theorem isPointWord_value {i : Nat} (h : i < 32768) : isPointWord (R.PT_VALUE.at i) := by
  simp only [isPointWord, Reg.at, R.PT_VALUE]; omega

theorem isPointWord_status {i : Nat} (h : i < 32768) : isPointWord (R.PT_STATUS.at i) := by
  simp only [isPointWord, Reg.at, R.PT_STATUS]; omega

theorem isPointWord_config {i : Nat} (h : i < 32768) : isPointWord (R.PT_CONFIG.at i) := by
  simp only [isPointWord, Reg.at, R.PT_CONFIG]; omega

theorem isPointWord_bind {i : Nat} (h : i < 32768) : isPointWord (R.PT_BIND.at i) := by
  simp only [isPointWord, Reg.at, R.PT_BIND]; omega

section ringEnter
variable (s : State) {r : AuditRec} {i : Nat} (hr : r.tenant < 256) (hi : i < 32768)
include hr hi

theorem State.ringEnter_ptVal : (s.ringEnter r).ptVal i = s.ptVal i :=
  s.ringEnter_word r _ hr (isBook_of_isPointWord (isPointWord_value hi))

theorem State.ringEnter_status : (s.ringEnter r).word (R.PT_STATUS.at i) = s.word (R.PT_STATUS.at i) :=
  s.ringEnter_word r _ hr (isBook_of_isPointWord (isPointWord_status hi))

theorem State.ringEnter_bind : (s.ringEnter r).word (R.PT_BIND.at i) = s.word (R.PT_BIND.at i) :=
  s.ringEnter_word r _ hr (isBook_of_isPointWord (isPointWord_bind hi))

theorem State.ringEnter_ptTenant : (s.ringEnter r).ptTenant i = s.ptTenant i :=
  State.get_of_word (f := F.PT_CONFIG_TENANT) (s.ringEnter_word r _ hr (isBook_of_isPointWord (isPointWord_config hi)))

theorem State.ringEnter_ptKind : (s.ringEnter r).ptKind i = s.ptKind i :=
  State.get_of_word (f := F.PT_BIND_KIND) (s.ringEnter_bind hr hi)

theorem State.ringEnter_ptHP : (s.ringEnter r).ptHP i = s.ptHP i :=
  congrArg (· + 1) (State.get_of_word (f := F.PT_STATUS_HP) (s.ringEnter_status hr hi))

theorem State.ringEnter_hasRight (t p : Nat) : (s.ringEnter r).hasRight t i p = s.hasRight t i p :=
  State.hasRight_congr p (s.ringEnter_tstate r t) (s.ringEnter_ptTenant hr hi)
    (fun _ hw => (s.ringEnter_window r t hw).1) (fun _ hw => (s.ringEnter_window r t hw).2)

omit hr hi in
theorem State.ringEnter_ptBroken : (s.ringEnter r).ptBroken i = s.ptBroken i := by
  unfold State.ptBroken State.ptHealth
  simp only [State.ringEnter_rest]

/-- The record of a write, on entering the ring, does not move its decision. -/
theorem State.ringEnter_ptResult (op : PtOp) (t p : Nat) (v : Word) :
    (s.ringEnter r).ptResult i op t p v = s.ptResult i op t p v := by
  unfold State.ptResult
  rw [s.ringEnter_ptBroken, s.ringEnter_bind hr hi, s.ringEnter_ptTenant hr hi, s.ringEnter_ptHP hr hi, s.ringEnter_ptKind hr hi,
    s.ringEnter_hasRight hr hi]

end ringEnter

/-! ### What follows an accepted write leaves every point as it was -/

theorem State.skActivate_word (s : State) (k t arg : Nat) {a : Nat} (h : a < 0x200000) : (s.skActivate k t arg).word a = s.word a := by
  unfold State.skActivate
  split
  · rfl
  · dsimp only
    split
    · refine State.word_inc _ _ _ _ _ _ ?_
      simp only [Reg.at, F.SK_CNT2_COALESCED, R.SK_CNT2]; omega
    · rfl

theorem State.skPoint_word (s : State) (i : Nat) {a : Nat} (h : a < 0x200000) : (s.skPoint i).word a = s.word a := by
  unfold State.skPoint State.each
  refine State.foldl_word _ _ a (fun s kt _ => ?_) s
  dsimp only
  split
  · exact s.skActivate_word _ _ _ h
  · refine State.word_inc _ _ _ _ _ _ ?_
    simp only [Reg.at, F.SK_CNT2_DENIED, R.SK_CNT2]; omega

theorem State.trendDrop_word (s : State) {a : Nat} (h : isBook a = false) : s.trendDrop.word a = s.word a := by
  simp only [isBook, Bool.or_eq_false_iff, decide_eq_false_iff_not] at h
  have hcnt : a ≠ R.LOG_TRD_CNT.at := by simp only [Reg.at, R.LOG_TRD_CNT]; omega
  have hevt : a ≠ F.LOG_EVT_TREND.reg.at := by simp only [Reg.at, F.LOG_EVT_TREND, R.LOG_EVT]; omega
  unfold State.trendDrop
  dsimp only
  split
  · exact State.word_inc _ _ _ _ _ _ hcnt
  · rw [State.word_log, State.word_put, if_neg hevt]
    exact State.word_inc _ _ _ _ _ _ hcnt

theorem State.trendSample_word (s : State) (i : Nat) {a : Nat} (h : isBook a = false) : (s.trendSample i).word a = s.word a := by
  unfold State.trendSample
  dsimp only
  split
  · exact s.trendDrop_word h
  · rw [State.logUse_word _ _ _ (s.ptTenant_lt i) h]
    simp only [State.logCut_rest]
    rfl

theorem State.trendPoint_word (s : State) (i : Nat) {a : Nat} (h : isBook a = false) : (s.trendPoint i).word a = s.word a := by
  unfold State.trendPoint State.each
  exact State.foldl_word _ _ a (fun s _ _ => s.trendSample_word i h) s

theorem State.pendingRelease_word (s : State) (i a : Nat) : (s.pendingRelease i).word a = s.word a :=
  State.word_of_space ((Keeps.pendingRelease (μ := fun p => p ∈ [Part.safe, Part.cmds, Part.cd]) s i (Keeps.refl _ s)
    (by simp) (by simp) (by simp)).space.resolve_left (by simp)) a

theorem State.forward_word (s : State) (i a : Nat) (isCmd byForce qualChanged : Bool) :
    (s.forward i isCmd byForce qualChanged).word a = s.word a :=
  State.word_of_space ((Keeps.forward (μ := fun p => p ∈ [Part.fwd]) s i isCmd byForce qualChanged (Keeps.refl _ s)
    (by simp)).space.resolve_left (by simp)) a

/-- Task activations, trend samples, releases and forwarded commands write no word of the point window. -/
theorem State.ptAfter_word (s : State) (i : Nat) (oldV : Word) (oldQ : Nat) (byForce trend : Bool) {a : Nat} (h : isPointWord a) :
    (s.ptAfter i oldV oldQ byForce trend).word a = s.word a := by
  have hsk : a < 0x200000 := Nat.lt_trans h.2 (by decide)
  unfold State.ptAfter
  dsimp only
  rw [State.forward_word, State.pendingRelease_word]
  split
  · rw [State.trendPoint_word _ _ (isBook_of_isPointWord h)]
    split
    · exact s.skPoint_word i hsk
    · rfl
  · split
    · exact s.skPoint_word i hsk
    · rfl

/-- An accepted write leaves in the point window what `ptApply` does. -/
theorem State.ptEffect_word {s : State} {i : Nat} {op : PtOp} {t p : Nat} {v : Word} (trend : Bool) {a : Nat}
    (hres : s.ptResult i op t p v = Res.applied ∨ s.ptResult i op t p v = Res.relinquished) (h : isPointWord a) :
    (s.ptEffect i op t p v trend).word a = (s.ptApply i op t p v).word a := by
  unfold State.ptEffect
  dsimp only
  rw [if_pos (by simpa using hres)]
  exact State.ptAfter_word _ _ _ _ _ _ h

/-! ### VALUE and STATUS set together -/

section ptSet
variable (s : State) (i : Nat) (v : Word) (q hp holder age srcF : Nat)

theorem State.ptSet_status :
    (s.ptSet i v q hp holder age srcF).word (R.PT_STATUS.at i) =
      Word.ofN (q % 8 + 8 * (srcF % 2) + 16 * ((hp - 1) % 16) + 256 * (holder % 256) + 65536 * (age % 65536)) :=
  State.word_setWord_same _ _ _

@[simp] theorem State.ptSet_ptVal : (s.ptSet i v q hp holder age srcF).ptVal i = v := by
  have hne : R.PT_VALUE.at i ≠ R.PT_STATUS.at i := by simp only [Reg.at, R.PT_VALUE, R.PT_STATUS]; omega
  unfold State.ptVal State.ptSet
  rw [State.word_setWord_ne _ _ hne, State.word_setWord_same]

@[simp] theorem State.ptSet_ptQual : (s.ptSet i v q hp holder age srcF).ptQual i = q % 8 := by
  unfold State.ptQual State.get
  rw [show F.PT_STATUS_QUAL.reg = R.PT_STATUS from rfl, State.ptSet_status]
  simp only [bitsOf, F.PT_STATUS_QUAL, Word.ofN, BitVec.toNat_ofNat, Nat.shiftRight_eq_div_pow]
  omega

@[simp] theorem State.ptSet_ptHP : (s.ptSet i v q hp holder age srcF).ptHP i = (hp - 1) % 16 + 1 := by
  unfold State.ptHP State.get
  rw [show F.PT_STATUS_HP.reg = R.PT_STATUS from rfl, State.ptSet_status]
  simp only [bitsOf, F.PT_STATUS_HP, Word.ofN, BitVec.toNat_ofNat, Nat.shiftRight_eq_div_pow]
  omega

@[simp] theorem State.ptSet_holder : (s.ptSet i v q hp holder age srcF).get F.PT_STATUS_HOLDER i = holder % 256 := by
  unfold State.get
  rw [show F.PT_STATUS_HOLDER.reg = R.PT_STATUS from rfl, State.ptSet_status]
  simp only [bitsOf, F.PT_STATUS_HOLDER, Word.ofN, BitVec.toNat_ofNat, Nat.shiftRight_eq_div_pow]
  omega

@[simp] theorem State.ptSet_age : (s.ptSet i v q hp holder age srcF).get F.PT_STATUS_AGE i = age % 65536 := by
  unfold State.get
  rw [show F.PT_STATUS_AGE.reg = R.PT_STATUS from rfl, State.ptSet_status]
  simp only [bitsOf, F.PT_STATUS_AGE, Word.ofN, BitVec.toNat_ofNat, Nat.shiftRight_eq_div_pow]
  omega

end ptSet

end Sys2Proof.Machine
end

section
/-! A write to STATUS (R61), and a relinquish by a path (R79, R80, R100). -/

namespace Sys2Proof.Machine

/-- A word of the bus in the point window is written by the window's own rule, whatever the state of the writer's context. -/
theorem State.busWrite_pointWindow (s : State) (w : Who) {a : Nat} (data : Word) (h : isPointWord a) :
    s.busWrite w a data = s.ptWindowWrite w a data := by
  obtain ⟨hlo, hhi⟩ := h
  have hmapped : isUnmapped a = false := by
    simp only [isUnmapped, Bool.or_eq_false_iff, Bool.and_eq_false_iff, decide_eq_false_iff_not]
    omega
  have hb : 8 ≤ a / 0x10000 ∧ a / 0x10000 < 0x10 := by omega
  have h0 : a / 0x10000 ≠ 0 := by omega
  have h1 : a / 0x10000 ≠ 1 := by omega
  have h8 : ¬ a / 0x10000 < 8 := by omega
  have h18 : a / 0x10000 ≠ 0x18 := by omega
  unfold State.busWrite
  simp [hmapped, h0, h1, h8, h18, hb.2]

theorem State.ptWindowWrite_status (s : State) (w : Who) (n : Nat) (data : Word) :
    s.ptWindowWrite w (R.PT_STATUS.at n) data = s.plainW Res.applied id := by
  have hk : R.PT_STATUS.at n % 16 / 4 = 1 := by simp only [Reg.at, R.PT_STATUS]; omega
  unfold State.ptWindowWrite
  rw [hk]
  rfl

theorem exec_registerWrite_status (s : State) (p : Path) (a : Fin (2 ^ 24)) (data : Word) {n : Nat} (hn : n < 32768)
    (ha : a.val = R.PT_STATUS.at n) : s.doesPlain p (.registerWrite p a data) Res.applied id := by
  have hword : a.val / 4 * 4 = R.PT_STATUS.at n := by rw [ha]; simp only [Reg.at, R.PT_STATUS]; omega
  refine doesPlain_of (f := fun w s => s.busWrite w (a.val / 4 * 4) data) rfl ?_
  rw [hword, State.busWrite_pointWindow _ _ _ (isPointWord_status hn), State.ptWindowWrite_status]

/-- Settles O10: the write ends in `plainW` with no effect, so the only difference from the opened state is the result it leaves. -/
theorem statusWriteHasNoEffect : Obligations.StatusWriteHasNoEffect := by
  unfold Obligations.StatusWriteHasNoEffect
  intro s p a n data hn ha hp
  exact ⟨_, exec_registerWrite_status s p a data hn ha hp, fun _ => rfl, rfl, rfl, rfl, rfl⟩

/-! ### Relinquish -/

theorem State.ptFind_log (s : State) (i : Nat) : (s.ptFind i).log = s.log :=
  (Keeps.ptFind (μ := fun p => p ∈ [Part.space, Part.free, Part.ten, Part.broken, Part.fwd]) s i (Keeps.refl _ s)
    (by simp) (by simp) (by simp) (by simp) (by simp)).log.resolve_left (by simp)

/-- A write or relinquish by a path while the ring has an ordinary place: its record enters after what the ECC finds, then its
effect happens and its result, decided before the record, is left (R68, R79, R82). -/
theorem State.ptWrite_of_ringOpen (s : State) (w : Who) (i : Nat) (op : PtOp) (p : Nat) (v : Word) (addr : Nat) (tgt : Tgt → Tgt)
    (hifc : w.ifc ≠ 0) (hring : s.ringOpen) :
    ∃ r : AuditRec, r.tenant = w.tenant ∧
      s.ptWrite w i op p v addr tgt =
        { ((s.ptFind i).ringEnter r).ptEffect i op w.tenant p v with wres := (s.ptFind i).ptResult i op w.tenant p v } := by
  have hplace : (s.ptFind i).log.ring.length < ringSize - ringReserve := by rw [State.ptFind_log]; exact hring.1
  unfold State.ptWrite
  dsimp only
  rw [State.auditW_enter _ _ _ _ _ hifc hplace, State.ringReach_open _ hplace]
  exact ⟨_, rfl, rfl⟩

theorem State.ptResult_relinquish {s : State} {i t p : Nat} (v : Word) (hkind : s.ptKind i ≠ Kind.unused) (hok : s.ptBroken i = false)
    (h1 : 1 ≤ p) (h15 : p ≤ 15) (hright : s.hasRight t i p = true) (hhp : p ≤ s.ptHP i) :
    s.ptResult i .relinquish t p v = Res.relinquished := by
  simp [State.ptResult, hkind, hok, Nat.not_lt.mpr h1, Nat.not_lt.mpr h15, hright, Nat.not_lt.mpr hhp]

/-- A relinquish keeps VALUE and leaves the point at HP 16; at rest HOLDER stays (R66, R80). -/
theorem State.ptApply_relinquish (s : State) (i t p : Nat) (v : Word) :
    s.ptApply i .relinquish t p v =
      s.ptSet i (s.ptVal i) (if s.ptKind i = Kind.none_ then Qual.good else Qual.notValid) 16
        (if s.ptHP i = 16 then s.get F.PT_STATUS_HOLDER i else 0) (if s.ptKind i = Kind.none_ then 0 else 0xFFFF)
        (s.get F.PT_STATUS_SRCFORCED i) := by
  unfold State.ptApply
  dsimp only
  by_cases h : s.ptKind i = Kind.none_
  · simp only [h, if_true]
  · simp only [h, if_false]

/-- What an accepted relinquish leaves of a point at HP 16 (R66, R80). -/
structure State.RelinquishedAtRest (s t : State) (i : Nat) : Prop where
  value : t.ptVal i = s.ptVal i
  hp : t.ptHP i = 16
  holder : t.get F.PT_STATUS_HOLDER i = s.get F.PT_STATUS_HOLDER i
  quality : t.ptQual i = if s.ptKind i = Kind.none_ then Qual.good else Qual.notValid
  age : t.get F.PT_STATUS_AGE i = if s.ptKind i = Kind.none_ then 0 else 0xFFFF

theorem State.relinquishedAtRest_ptApply {s : State} {i : Nat} (t p : Nat) (v : Word) (hhp : s.ptHP i = 16) :
    s.RelinquishedAtRest (s.ptApply i .relinquish t p v) i := by
  rw [State.ptApply_relinquish, if_pos hhp]
  constructor
  case value => exact State.ptSet_ptVal ..
  case hp => exact State.ptSet_ptHP ..
  case holder => exact (State.ptSet_holder ..).trans (Nat.mod_eq_of_lt (s.get_lt F.PT_STATUS_HOLDER i 0))
  case quality => rw [State.ptSet_ptQual]; split <;> rfl
  case age => rw [State.ptSet_age]; split <;> rfl

/-- The five facts speak of the point's VALUE, STATUS and KIND alone. -/
theorem State.RelinquishedAtRest.congr {s s' t t' : State} {i : Nat} (h : s.RelinquishedAtRest t i)
    (hv : s'.ptVal i = s.ptVal i) (hs : s'.word (R.PT_STATUS.at i) = s.word (R.PT_STATUS.at i)) (hk : s'.ptKind i = s.ptKind i)
    (hv' : t'.ptVal i = t.ptVal i) (hs' : t'.word (R.PT_STATUS.at i) = t.word (R.PT_STATUS.at i)) :
    s'.RelinquishedAtRest t' i where
  value := (hv'.trans h.value).trans hv.symm
  hp := (congrArg (· + 1) (State.get_of_word (f := F.PT_STATUS_HP) hs')).trans h.hp
  holder := (State.get_of_word hs').trans (h.holder.trans (State.get_of_word hs).symm)
  quality := by rw [hk]; exact (State.get_of_word (f := F.PT_STATUS_QUAL) hs').trans h.quality
  age := by rw [hk]; exact (State.get_of_word hs').trans h.age

/-- A relinquish that is accepted before its record is accepted after it, and leaves the point as R80 says of one at rest. -/
theorem State.relinquishedAtRest_ptEffect {s : State} {r : AuditRec} {i t p : Nat} {v : Word} (hr : r.tenant < 256) (hi : i < 32768)
    (hres : s.ptResult i .relinquish t p v = Res.relinquished) (hhp : s.ptHP i = 16) :
    s.RelinquishedAtRest ((s.ringEnter r).ptEffect i .relinquish t p v) i := by
  have hres' : (s.ringEnter r).ptResult i .relinquish t p v = Res.relinquished := (s.ringEnter_ptResult hr hi _ _ _ _).trans hres
  have happly := State.relinquishedAtRest_ptApply t p v ((s.ringEnter_ptHP hr hi).trans hhp)
  exact happly.congr (s.ringEnter_ptVal hr hi).symm (s.ringEnter_status hr hi).symm (s.ringEnter_ptKind hr hi).symm
    (State.ptEffect_word true (.inr hres') (isPointWord_value hi)) (State.ptEffect_word true (.inr hres') (isPointWord_status hi))

/-- Settles O11: decision and point are the same on both sides of the record, and what follows the relinquish writes no point, so the
point ends as `ptApply` leaves it (`State.relinquishedAtRest_ptEffect`). -/
theorem relinquishAtRestKeepsHolder : Obligations.RelinquishAtRestKeepsHolder := by
  unfold Obligations.RelinquishAtRestKeepsHolder
  intro s p data w m prio u hp hring hkind hok hprio hright hhp
  have hm : m < 32768 := bitsOf_lt data 0 15
  have hres : u.ptResult m .relinquish w.tenant prio 0 = Res.relinquished :=
    State.ptResult_relinquish 0 hkind hok (Nat.le_add_left 1 _) hprio hright (by omega)
  obtain ⟨r, hten, hwrite⟩ := (s.opened p).ptWrite_of_ringOpen w m .relinquish prio 0 R.SYS_PT_REL.at id (s.who_ifc_ne p) hring
  have hexec : exec (.pointRelinquish p data) s = .next (s.byPath p (fun w s => s.ptRelWrite w data)) := rfl
  rw [hexec, State.byPath_opened _ _ _ hp]
  have hend := State.relinquishedAtRest_ptEffect (hten ▸ s.who_tenant_lt p : r.tenant < 256) hm hres hhp
  exact ⟨_, congrArg Host.Outcome.next hwrite, hres, hend.hp, hend.holder, hend.quality, hend.age, hend.value⟩

end Sys2Proof.Machine
end

section
/-! Bus errors of a zone bus segment (R447): how one is counted and recorded, and that nothing which follows it in the same step,
bus-off (R446) included, touches the count or the record, but for a function reset that was waiting. -/

namespace Sys2Proof.Machine

/-! ### What leaves the count, the record and a waiting reset of a segment as they were -/

/-- From `s` to `t` the count of bus errors and the recorded error of segment `z` stay, and so does whether a reset waits. -/
structure State.KeepsErrors (s t : State) (z : Nat) : Prop where
  count : t.get F.ZB_CNT3_BUSERR z = s.get F.ZB_CNT3_BUSERR z
  record : t.word (R.ZB_LASTERR.at z) = s.word (R.ZB_LASTERR.at z)
  rst : (t.seg z).rst = (s.seg z).rst

/-- The register array is one of the zone bus segments', and in no segment an address of it is that of ZB_CNT3 or ZB_LASTERR,
whatever the second index. -/
def Reg.besideErrors (r : Reg) : Bool :=
  r.s1 == 4096 && (r.s2 == 0 && r.base != R.ZB_CNT3.base && r.base != R.ZB_LASTERR.base || decide (R.ZB_LASTERR.base < r.base))

theorem Reg.at_ne_of_besideErrors {r : Reg} (h : r.besideErrors = true) (z j : Nat) :
    R.ZB_CNT3.at z ≠ r.at z j ∧ R.ZB_LASTERR.at z ≠ r.at z j := by
  simp only [Reg.besideErrors, Bool.and_eq_true, Bool.or_eq_true, beq_iff_eq, bne_iff_ne, decide_eq_true_eq] at h
  obtain ⟨hstride, hbase⟩ := h
  simp only [Reg.at, R.ZB_CNT3, R.ZB_LASTERR, hstride] at hbase ⊢
  obtain ⟨⟨hsingle, hcnt⟩, hlast⟩ | habove := hbase
  · rw [hsingle]; omega
  · generalize r.s2 * j = k
    omega

/-- The blocks of the zone bus hold no word of the bookkeeping. -/
theorem isBook_zoneBus {a : Nat} (hlo : 0x1D0000 ≤ a) (hhi : a < 0x1E0000) : isBook a = false := by
  simp only [isBook, Bool.or_eq_false_iff, decide_eq_false_iff_not]
  omega

namespace State.KeepsErrors

variable {s t u : State} {z : Nat}

theorem refl (s : State) (z : Nat) : s.KeepsErrors s z := ⟨rfl, rfl, rfl⟩

/-- What keeps the two words and the segments' state keeps the errors. -/
theorem of_words (h : s.KeepsErrors t z) (hcnt : u.word (R.ZB_CNT3.at z) = t.word (R.ZB_CNT3.at z))
    (hlast : u.word (R.ZB_LASTERR.at z) = t.word (R.ZB_LASTERR.at z)) (hzb : u.zb = t.zb) : s.KeepsErrors u z where
  count := (State.get_of_word hcnt).trans h.count
  record := hlast.trans h.record
  rst := by rw [← h.rst]; unfold State.seg; rw [hzb]

theorem put_ne (h : s.KeepsErrors t z) (f : Fld) (v i j : Nat) (hcnt : R.ZB_CNT3.at z ≠ f.reg.at i j)
    (hlast : R.ZB_LASTERR.at z ≠ f.reg.at i j) : s.KeepsErrors (t.put f v i j) z :=
  h.of_words (t.word_put_ne f v hcnt) (t.word_put_ne f v hlast) (by simp)

theorem put {f : Fld} {v j : Nat} (h : s.KeepsErrors t z) (hf : f.reg.besideErrors = true := by decide) :
    s.KeepsErrors (t.put f v z j) z :=
  h.put_ne f v z j (Reg.at_ne_of_besideErrors hf z j).1 (Reg.at_ne_of_besideErrors hf z j).2

theorem putIf {c : Bool} {f : Fld} {v j : Nat} (h : s.KeepsErrors t z) (hf : f.reg.besideErrors = true := by decide) :
    s.KeepsErrors (t.putIf c f v z j) z := by
  unfold State.putIf
  split
  · exact h.put hf
  · exact h

theorem inc {f : Fld} {n j : Nat} (h : s.KeepsErrors t z) (hf : f.reg.besideErrors = true := by decide) :
    s.KeepsErrors (t.inc f n z j) z := h.put hf

theorem setSeg {x : ZbSeg} (h : s.KeepsErrors t z) (hx : x.rst = (t.seg z).rst) : s.KeepsErrors (t.setSeg z x) z where
  count := h.count
  record := h.record
  rst := by rw [State.seg_setSeg, hx, h.rst]

theorem each {α : Type} {f : α → State → State} (l : List α) (h : s.KeepsErrors t z)
    (hf : ∀ a u, s.KeepsErrors u z → s.KeepsErrors (f a u) z) : s.KeepsErrors (t.each l f) z := by
  unfold State.each
  induction l generalizing t with
  | nil => exact h
  | cons a l ih => exact ih (hf a t h)

/-- An error entry writes words of the tenants' block alone. -/
theorem postErr (h : s.KeepsErrors t z) (hz : z < 16) (block code : Nat) (fields : List Byte) :
    s.KeepsErrors (t.postErr 0 block code fields) z := by
  have hcnt : isBook (R.ZB_CNT3.at z) = false := by
    apply isBook_zoneBus <;> simp only [Reg.at, R.ZB_CNT3] <;> omega
  have hlast : isBook (R.ZB_LASTERR.at z) = false := by
    apply isBook_zoneBus <;> simp only [Reg.at, R.ZB_LASTERR] <;> omega
  exact h.of_words (t.postErr_word 0 block code fields (by decide) _ hcnt)
    (t.postErr_word 0 block code fields (by decide) _ hlast) (by simp)

/-! ### The end of a request (R460 to R464) -/

theorem zbTakeTag (h : s.KeepsErrors t z) (b : Nat) : s.KeepsErrors (t.zbTakeTag z b) z := by
  unfold State.zbTakeTag
  dsimp only
  split
  · exact .put (.put (.setSeg h rfl))
  · exact h.put

theorem zbServeTags (h : s.KeepsErrors t z) : s.KeepsErrors (t.zbServeTags z) z :=
  h.each _ (fun b _ hu => hu.zbTakeTag b)

theorem zbTagEnd (h : s.KeepsErrors t z) (r : ZbReq) : s.KeepsErrors (t.zbTagEnd z r) z := by
  unfold State.zbTagEnd
  dsimp only
  split
  · exact h
  · split
    · exact .setSeg h rfl
    · exact .zbServeTags (.setSeg h rfl)

theorem zbEnd (h : s.KeepsErrors t z) (b res : Nat) : s.KeepsErrors (t.zbEnd z b res) z := by
  unfold State.zbEnd
  dsimp only
  split
  · exact h
  · next r _ =>
    refine .zbTagEnd ?_ r
    split
    · exact .inc (.inc (.put (.put (.put (.put (.setSeg h rfl))))))
    · exact .putIf (.put (.put (.put (.setSeg h rfl))))

theorem zbBufEnd (h : s.KeepsErrors t z) (b : Nat) (e : TxEnd) : s.KeepsErrors (t.zbBufEnd z b e) z := by
  unfold State.zbBufEnd
  dsimp only
  split
  · exact h
  · have hseg (reqs : Tab ZbReq) : s.KeepsErrors (t.setSeg z { t.seg z with reqs := reqs }) z := h.setSeg rfl
    split
    · exact (hseg _).zbEnd b _
    · split
      · exact (hseg _).zbEnd b _
      · split
        · exact (hseg _).zbEnd b _
        · exact hseg _

/-- A discarded completion counts beside BUSERR in ZB_CNT3, and in its tenant's TEN_CNT, which is no word of a segment. -/
theorem zbLostEnd (h : s.KeepsErrors t z) (r : ZbReq) (e : TxEnd) : s.KeepsErrors (t.zbLostEnd z r e) z := by
  have hdiscard : s.KeepsErrors (t.inc F.ZB_CNT3_DISCARD_GEN 1 z) z :=
    { count := (t.get_put_beside F.ZB_CNT3_DISCARD_GEN F.ZB_CNT3_BUSERR _ z 0 rfl (by decide) (by decide)).trans h.count
      record := (t.word_inc _ _ _ _ _ (by simp only [Reg.at, F.ZB_CNT3_DISCARD_GEN, R.ZB_CNT3, R.ZB_LASTERR]; omega)).trans h.record
      rst := h.rst }
  have htenant := hdiscard.put_ne F.TEN_CNT_DISC_GEN (satAdd F.TEN_CNT_DISC_GEN.w
      ((t.inc F.ZB_CNT3_DISCARD_GEN 1 z).get F.TEN_CNT_DISC_GEN r.tenant 0) 1) r.tenant 0
    (by simp only [Reg.at, F.TEN_CNT_DISC_GEN, R.TEN_CNT, R.ZB_CNT3]; omega)
    (by simp only [Reg.at, F.TEN_CNT_DISC_GEN, R.TEN_CNT, R.ZB_LASTERR]; omega)
  exact htenant.zbTagEnd _

/-! ### The controller's state, and bus-off (R444 to R446) -/

theorem fcsPassive (h : s.KeepsErrors t z) : s.KeepsErrors (t.fcsPassive z) z := by
  unfold State.fcsPassive
  dsimp only
  split
  · exact h
  · split
    · exact .put (.put h)
    · exact h.put

theorem zbModeApply (h : s.KeepsErrors t z) : s.KeepsErrors (t.zbModeApply z) z := by
  unfold State.zbModeApply
  dsimp only
  split
  · exact .put (.put (.put h))
  · exact .putIf (.put h)

theorem zbDelay (h : s.KeepsErrors t z) (f : CanFrame) (e : TxEnd) (tdcv : Nat) : s.KeepsErrors (t.zbDelay z f e tdcv) z :=
  h.putIf

/-- Bus-off keeps the errors of a segment on which no function reset waits. -/
theorem zbBusOff (h : s.KeepsErrors t z) (hz : z < 16) (hrst : (s.seg z).rst = false) (late : Bool) (tdcv : Nat) :
    s.KeepsErrors (t.zbBusOff z late tdcv) z := by
  unfold State.zbBusOff
  extract_lets e tec rec_ x t1 t2 t3 x3 t4 t5 t6
  have h1 : s.KeepsErrors t1 z := by
    unfold t1
    split
    · exact h.zbDelay _ _ _
    · exact h
  have h2 : s.KeepsErrors t2 z := by
    unfold t2
    split
    · exact h1.zbBufEnd _ _
    · exact h1.zbLostEnd _ _
    · exact h1
  have h3 : s.KeepsErrors t3 z := h2.each _ (fun b _ hu => hu.zbEnd b _)
  have h4 : s.KeepsErrors t4 z := h3.setSeg (x := { x3 with hwq := [], onBus := none, recover := t3.bit F.ZB_CTRL_ABO z }) rfl
  have h6 : s.KeepsErrors t6 z := .postErr (.put (.put h4)) hz _ _ _
  rw [if_neg (by rw [h6.rst, hrst]; exact Bool.false_ne_true)]
  exact h6.zbModeApply

end State.KeepsErrors

/-! ### The count and the record of one error -/

/-- A detected error is counted, and recorded unless an error is held (R447). -/
def State.zbErrorNoted (s : State) (z code : Nat) (dat tx : Bool) : State :=
  let s := s.inc F.ZB_CNT3_BUSERR 1 z
  if s.bit F.ZB_LASTERR_VALID z then s
  else (((s.put F.ZB_LASTERR_CODE code z).put F.ZB_LASTERR_DATA (b2n dat) z).put F.ZB_LASTERR_TX (b2n tx) z).put F.ZB_LASTERR_VALID 1 z

section noted
variable {s : State} {z : Nat} (code add : Nat) (dat tx late : Bool) (tdcv : Nat)

/-- An error of a live controller is noted, and then the counter of its role and the state of the controller follow. -/
theorem State.zbError_of_live (hlive : s.zbLive z = true) :
    s.zbError z code add dat tx late tdcv =
      (let u := s.zbErrorNoted z code dat tx
       if tx then
         let v := (u.put F.ZB_ERRCNT_TEC (Nat.min (u.get F.ZB_ERRCNT_TEC z + add) 511) z).fcsPassive z
         if 255 < u.get F.ZB_ERRCNT_TEC z + add then v.zbBusOff z late tdcv else v
       else ((u.put F.ZB_ERRCNT_REC (Nat.min (u.get F.ZB_ERRCNT_REC z + add) 127) z).putIf
         (127 < u.get F.ZB_ERRCNT_REC z + add) F.ZB_ERRCNT_RP 1 z).fcsPassive z) := by
  unfold State.zbError
  rw [if_neg (by simp [hlive])]
  rfl

theorem State.word_lasterr_inc_buserr (s : State) (z : Nat) :
    (s.inc F.ZB_CNT3_BUSERR 1 z).word (R.ZB_LASTERR.at z) = s.word (R.ZB_LASTERR.at z) :=
  s.word_inc _ _ _ _ _ (by simp only [Reg.at, F.ZB_CNT3_BUSERR, R.ZB_CNT3, R.ZB_LASTERR]; omega)

theorem State.valid_inc_buserr (s : State) (z : Nat) :
    (s.inc F.ZB_CNT3_BUSERR 1 z).bit F.ZB_LASTERR_VALID z = s.bit F.ZB_LASTERR_VALID z :=
  congrArg (· == 1) (State.get_of_word (f := F.ZB_LASTERR_VALID) (s.word_lasterr_inc_buserr z))

theorem State.zbErrorNoted_of_valid (h : s.bit F.ZB_LASTERR_VALID z = true) :
    s.zbErrorNoted z code dat tx = s.inc F.ZB_CNT3_BUSERR 1 z :=
  if_pos ((s.valid_inc_buserr z).trans h)

theorem State.zbErrorNoted_of_not_valid (h : s.bit F.ZB_LASTERR_VALID z = false) :
    s.zbErrorNoted z code dat tx =
      ((((s.inc F.ZB_CNT3_BUSERR 1 z).put F.ZB_LASTERR_CODE code z).put F.ZB_LASTERR_DATA (b2n dat) z).put
        F.ZB_LASTERR_TX (b2n tx) z).put F.ZB_LASTERR_VALID 1 z :=
  if_neg (by rw [State.valid_inc_buserr, h]; exact Bool.false_ne_true)

/-- Noting an error writes ZB_CNT3 and ZB_LASTERR of its segment alone. -/
theorem State.zbErrorNoted_word_ne {a : Nat} (hcnt : a ≠ R.ZB_CNT3.at z) (hlast : a ≠ R.ZB_LASTERR.at z) :
    (s.zbErrorNoted z code dat tx).word a = s.word a := by
  have hinc : (s.inc F.ZB_CNT3_BUSERR 1 z).word a = s.word a := s.word_inc _ _ _ _ _ hcnt
  cases h : s.bit F.ZB_LASTERR_VALID z with
  | true => rw [State.zbErrorNoted_of_valid code dat tx h, hinc]
  | false =>
    rw [State.zbErrorNoted_of_not_valid code dat tx h, State.word_put_ne _ F.ZB_LASTERR_VALID 1 hlast,
      State.word_put_ne _ F.ZB_LASTERR_TX _ hlast, State.word_put_ne _ F.ZB_LASTERR_DATA _ hlast,
      State.word_put_ne _ F.ZB_LASTERR_CODE _ hlast, hinc]

theorem State.zbErrorNoted_zb : (s.zbErrorNoted z code dat tx).zb = s.zb := by
  unfold State.zbErrorNoted
  dsimp only
  split <;> simp

theorem State.zbErrorNoted_rst : ((s.zbErrorNoted z code dat tx).seg z).rst = (s.seg z).rst := by
  unfold State.seg
  rw [State.zbErrorNoted_zb]

theorem State.zbErrorNoted_tec : (s.zbErrorNoted z code dat tx).get F.ZB_ERRCNT_TEC z = s.get F.ZB_ERRCNT_TEC z :=
  State.get_of_word (s.zbErrorNoted_word_ne code dat tx
    (by simp only [Reg.at, F.ZB_ERRCNT_TEC, R.ZB_ERRCNT, R.ZB_CNT3]; omega)
    (by simp only [Reg.at, F.ZB_ERRCNT_TEC, R.ZB_ERRCNT, R.ZB_LASTERR]; omega))

theorem State.zbErrorNoted_count :
    (s.zbErrorNoted z code dat tx).get F.ZB_CNT3_BUSERR z = min (2 ^ F.ZB_CNT3_BUSERR.w - 1) (s.get F.ZB_CNT3_BUSERR z + 1) := by
  have hinc := (s.get_inc_same F.ZB_CNT3_BUSERR 1 z 0 (by decide)).trans (Nat.min_comm _ _)
  have hne : R.ZB_CNT3.at z ≠ R.ZB_LASTERR.at z := by simp only [Reg.at, R.ZB_CNT3, R.ZB_LASTERR]; omega
  cases h : s.bit F.ZB_LASTERR_VALID z with
  | true => rw [State.zbErrorNoted_of_valid code dat tx h]; exact hinc
  | false =>
    have hput (t : State) (f : Fld) (v : Nat) (hf : f.reg = R.ZB_LASTERR) :
        (t.put f v z).get F.ZB_CNT3_BUSERR z = t.get F.ZB_CNT3_BUSERR z := t.get_put_ne f F.ZB_CNT3_BUSERR v z 0 z 0 (hf ▸ hne)
    rw [State.zbErrorNoted_of_not_valid code dat tx h, hput _ _ _ rfl, hput _ _ _ rfl, hput _ _ _ rfl, hput _ _ _ rfl, hinc]

theorem State.zbErrorNoted_held (h : s.bit F.ZB_LASTERR_VALID z = true) :
    (s.zbErrorNoted z code dat tx).word (R.ZB_LASTERR.at z) = s.word (R.ZB_LASTERR.at z) := by
  rw [State.zbErrorNoted_of_valid code dat tx h, State.word_lasterr_inc_buserr]

end noted

theorem State.bit_of_get {s : State} {f : Fld} {i j : Nat} {b : Bool} (h : s.get f i j = b2n b) : s.bit f i j = b := by
  unfold State.bit
  rw [h]
  cases b <;> rfl

theorem b2n_lt_two (b : Bool) : b2n b < 2 ^ 1 := by
  cases b <;> decide

/-- The four fields of ZB_LASTERR after an error is recorded: each is set once, and those set after it stand beside it. -/
theorem State.zbErrorNoted_recorded {s : State} {z code : Nat} (dat tx : Bool) (hcode : code < 8)
    (h : s.bit F.ZB_LASTERR_VALID z = false) :
    let u := s.zbErrorNoted z code dat tx
    u.get F.ZB_LASTERR_VALID z = b2n true ∧ u.get F.ZB_LASTERR_CODE z = code ∧ u.get F.ZB_LASTERR_DATA z = b2n dat ∧
      u.get F.ZB_LASTERR_TX z = b2n tx := by
  have beside (t : State) (f g : Fld) (v : Nat) (hfit : f.lo + f.w ≤ 32) (hd : g.lo + g.w ≤ f.lo ∨ f.lo + f.w ≤ g.lo) :
      (t.put f v z).get g z = t.get g z := t.get_put_disjoint f g v z 0 z 0 hfit hd
  rw [State.zbErrorNoted_of_not_valid code dat tx h]
  refine ⟨?valid, ?code, ?data, ?tx⟩
  case valid => exact State.get_put_same _ F.ZB_LASTERR_VALID 1 z 0 (by decide)
  case code =>
    rw [beside _ F.ZB_LASTERR_VALID F.ZB_LASTERR_CODE _ (by decide) (by decide),
      beside _ F.ZB_LASTERR_TX F.ZB_LASTERR_CODE _ (by decide) (by decide),
      beside _ F.ZB_LASTERR_DATA F.ZB_LASTERR_CODE _ (by decide) (by decide), State.get_put_same _ _ _ _ _ (by decide)]
    exact Nat.mod_eq_of_lt hcode
  case data =>
    rw [beside _ F.ZB_LASTERR_VALID F.ZB_LASTERR_DATA _ (by decide) (by decide),
      beside _ F.ZB_LASTERR_TX F.ZB_LASTERR_DATA _ (by decide) (by decide), State.get_put_same _ _ _ _ _ (by decide)]
    exact Nat.mod_eq_of_lt (b2n_lt_two dat)
  case tx =>
    rw [beside _ F.ZB_LASTERR_VALID F.ZB_LASTERR_TX _ (by decide) (by decide), State.get_put_same _ _ _ _ _ (by decide)]
    exact Nat.mod_eq_of_lt (b2n_lt_two tx)

/-- What follows a noted error keeps its count and record, unless it is a bus-off on which a function reset waits. -/
theorem State.zbError_keepsErrors {s : State} {z : Nat} (code add : Nat) (dat tx late : Bool) (tdcv : Nat) (hz : z < 16)
    (hlive : s.zbLive z = true) (hrst : (s.seg z).rst = true → tx = true → s.get F.ZB_ERRCNT_TEC z + add ≤ 255) :
    (s.zbErrorNoted z code dat tx).KeepsErrors (s.zbError z code add dat tx late tdcv) z := by
  have hnoted := State.KeepsErrors.refl (s.zbErrorNoted z code dat tx) z
  rw [State.zbError_of_live code add dat tx late tdcv hlive]
  cases tx with
  | false => exact .fcsPassive (.putIf (.put hnoted))
  | true =>
    dsimp only
    rw [if_pos rfl]
    split
    case isTrue hoff =>
      rw [State.zbErrorNoted_tec] at hoff
      have hfree : (s.seg z).rst = false :=
        Bool.eq_false_iff.2 fun hwaits => absurd (hrst hwaits rfl) (Nat.not_le.2 hoff)
      exact .zbBusOff (.fcsPassive (.put hnoted)) hz ((State.zbErrorNoted_rst ..).trans hfree) late tdcv
    case isFalse => exact .fcsPassive (.put hnoted)

/-- Settles O59: the error is noted first (`State.zbErrorNoted_count`, `_recorded` and `_held`), and what follows keeps its count
and record (`State.zbError_keepsErrors`). -/
theorem busErrorIsCountedAndTheFirstRecorded : Obligations.BusErrorIsCountedAndTheFirstRecorded := by
  unfold Obligations.BusErrorIsCountedAndTheFirstRecorded
  intro s z code add dat tx late tdcv hlive hrst
  have hexec : exec (.zbBusError z code add dat tx late tdcv) s = .next (s.zbError z (code + 1) add dat tx late tdcv) := rfl
  have hkeeps := State.zbError_keepsErrors (code + 1) add dat tx late tdcv z.isLt hlive hrst
  have hfield (f : Fld) (hf : f.reg = R.ZB_LASTERR) := State.get_of_word (f := f) (i := z) (j := 0) (hf ▸ hkeeps.record)
  refine ⟨_, hexec, hkeeps.count.trans (State.zbErrorNoted_count ..), fun hempty => ?_, fun hheld => ?_⟩
  · obtain ⟨hvalid, hcode, hdata, htx⟩ := State.zbErrorNoted_recorded (code := code + 1) dat tx (by omega) hempty
    exact ⟨State.bit_of_get ((hfield F.ZB_LASTERR_VALID rfl).trans hvalid), (hfield F.ZB_LASTERR_CODE rfl).trans hcode,
      State.bit_of_get ((hfield F.ZB_LASTERR_DATA rfl).trans hdata), State.bit_of_get ((hfield F.ZB_LASTERR_TX rfl).trans htx)⟩
  · exact hkeeps.record.trans (State.zbErrorNoted_held _ _ _ hheld)

end Sys2Proof.Machine
end

section
/-! A bad OTP CRC (R701): what t1 and service mode set, and that the end of boot in service mode lets none of SK1 to SK3 run (R697). -/

namespace Sys2Proof.Machine

/-- An address of SKEHIL's or boot's registers (R44) that is a multiple of 1024, the stride of the tenant contexts, as that of SK_CTRL
of a core and that of BOOT_STAT. No word of a context that a post or a record changes lies there, even when the tenant number that a
waiting record holds is none of the 256: the model's states do not bound it. -/
def isCtrl (a : Nat) : Bool := a % 1024 == 0 && (a / 0x10000 == 0x20 || a / 0x1000 == 0x410)

theorem isCtrl_iff (a : Nat) : isCtrl a = true ↔ a % 1024 = 0 ∧ (a / 0x10000 = 0x20 ∨ a / 0x1000 = 0x410) := by
  simp [isCtrl]

theorem isBook_of_isCtrl {a : Nat} (h : isCtrl a = true) : isBook a = false := by
  obtain ⟨-, hblock⟩ := (isCtrl_iff a).mp h
  simp only [isBook, Bool.or_eq_false_iff, decide_eq_false_iff_not]
  omega

/-- A single register at no such address, or an array whose stride divides 1024 while its base is no multiple of the stride. -/
def Reg.besideCtrl (r : Reg) : Bool := (r.s1 == 0 && !isCtrl r.base) || (1024 % r.s1 == 0 && r.base % r.s1 != 0)

theorem Reg.ne_at_of_besideCtrl {r : Reg} (h : r.besideCtrl = true) {a : Nat} (ha : isCtrl a = true) (i : Nat) : a ≠ r.at i := by
  simp only [Reg.besideCtrl, Bool.or_eq_true, Bool.and_eq_true, Bool.not_eq_true', beq_iff_eq, bne_iff_ne] at h
  rintro rfl
  obtain ⟨hsingle, hbase⟩ | ⟨hdvd, hbase⟩ := h
  case inl =>
    rw [show r.at i = r.base by simp [Reg.at, hsingle], hbase] at ha
    exact Bool.false_ne_true ha
  case inr =>
    obtain ⟨hmod, -⟩ := (isCtrl_iff _).mp ha
    have hzero : r.at i % r.s1 = 0 := Nat.mod_eq_zero_of_dvd ((Nat.dvd_of_mod_eq_zero hdvd).trans (Nat.dvd_of_mod_eq_zero hmod))
    exact hbase (by simpa [Reg.at, Nat.add_mul_mod_self_left] using hzero)

/-- From `s` to `t` the words at such addresses stay. -/
structure State.SameCtrl (s t : State) : Prop where
  word_eq : ∀ a, isCtrl a = true → t.word a = s.word a

namespace State.SameCtrl

variable {s t u : State}

theorem refl (s : State) : s.SameCtrl s := ⟨fun _ _ => rfl⟩

theorem of_word (h : s.SameCtrl t) (hu : ∀ a, isCtrl a = true → u.word a = t.word a) : s.SameCtrl u :=
  ⟨fun a ha => (hu a ha).trans (h.word_eq a ha)⟩

theorem of_space (h : s.SameCtrl t) (hu : u.space = t.space) : s.SameCtrl u := h.of_word fun a _ => State.word_of_space hu a

/-- An operation that does not name the register space at all. -/
theorem of_keeps {m : Part → Prop} (h : s.SameCtrl t) (hu : Keeps m t u) (hm : ¬ m .space) : s.SameCtrl u :=
  h.of_space (hu.space.resolve_left hm)

theorem put {f : Fld} {v i : Nat} (h : s.SameCtrl t) (hf : f.reg.besideCtrl = true) : s.SameCtrl (t.put f v i) :=
  h.of_word fun _ ha => t.word_put_ne f v (Reg.ne_at_of_besideCtrl hf ha i)

theorem inc {f : Fld} {n i : Nat} (h : s.SameCtrl t) (hf : f.reg.besideCtrl = true) : s.SameCtrl (t.inc f n i) := h.put hf

theorem ite {c : Prop} [Decidable c] (ht : s.SameCtrl t) (hu : s.SameCtrl u) : s.SameCtrl (if c then t else u) := by
  split
  · exact ht
  · exact hu

theorem each {α : Type} {f : α → State → State} (l : List α) (h : s.SameCtrl t) (hf : ∀ x v, s.SameCtrl v → s.SameCtrl (f x v)) :
    s.SameCtrl (t.each l f) := by
  unfold State.each
  induction l generalizing t with
  | nil => exact h
  | cons x l ih => exact ih (hf x t h)

/-! ### Parts of the state beside the register space -/

theorem upd_log {log} (h : s.SameCtrl t) : s.SameCtrl { t with log := log } := h.of_space rfl

theorem upd_cl {cl} (h : s.SameCtrl t) : s.SameCtrl { t with cl := cl } := h.of_space rfl

theorem upd_isl {isl} (h : s.SameCtrl t) : s.SameCtrl { t with isl := isl } := h.of_space rfl

theorem upd_cl_isl {cl isl} (h : s.SameCtrl t) : s.SameCtrl { t with cl := cl, isl := isl } := h.of_space rfl

theorem upd_fan {fan} (h : s.SameCtrl t) : s.SameCtrl { t with fan := fan } := h.of_space rfl

theorem upd_cdg {cdg} (h : s.SameCtrl t) : s.SameCtrl { t with cdg := cdg } := h.of_space rfl

theorem upd_safeIrq {b} (h : s.SameCtrl t) : s.SameCtrl { t with safeIrq := b } := h.of_space rfl

theorem upd_safeUnrec {n} (h : s.SameCtrl t) : s.SameCtrl { t with safeUnrec := n } := h.of_space rfl

theorem upd_pdErrs {l} (h : s.SameCtrl t) : s.SameCtrl { t with pdErrs := l } := h.of_space rfl

theorem setTctx {n : Nat} {c : TenCtx} (h : s.SameCtrl t) : s.SameCtrl (t.setTctx n c) := h.of_space rfl

theorem setBoot {b : BootState} (h : s.SameCtrl t) : s.SameCtrl (t.setBoot b) := h.of_space rfl

theorem setCore {k : Nat} {c : SkCore} (h : s.SameCtrl t) : s.SameCtrl (t.setCore k c) := h.of_space rfl

theorem setClk {c : ClkState} (h : s.SameCtrl t) : s.SameCtrl (t.setClk c) := h.of_space rfl

theorem setDad {p k v : Nat} (h : s.SameCtrl t) : s.SameCtrl (t.setDad p k v) := h.of_space rfl

/-! ### Queues, interrupts and the audit log -/

theorem qDrop {q : QKind} {n : Nat} (h : s.SameCtrl t) : s.SameCtrl (t.qDrop q n) := by
  unfold State.qDrop
  split
  · exact (h.setTctx.inc rfl).put rfl
  · exact (h.setTctx.inc rfl).put rfl

theorem qPlace {q : QKind} {n cls block code : Nat} {fields : List Byte} (h : s.SameCtrl t) :
    s.SameCtrl (t.qPlace q n cls block code fields) :=
  h.of_word fun a _ => t.qPlace_word q n cls block code fields a

theorem post {q : QKind} {n cls block code : Nat} {fields : List Byte} (h : s.SameCtrl t) :
    s.SameCtrl (t.post q n cls block code fields) := by
  unfold State.post
  extract_lets c d w v
  have hw : s.SameCtrl w := by cases q <;> exact h.setTctx
  have hv : s.SameCtrl v := hw.qPlace
  repeat' split
  · exact h.inc rfl
  · exact h.qDrop
  · exact h.qPlace
  · exact hv.qPlace
  · exact hv.qDrop

theorem postErr {n block code : Nat} {fields : List Byte} (h : s.SameCtrl t) : s.SameCtrl (t.postErr n block code fields) := h.post

theorem postErr2 {n block code : Nat} {fields : List Byte} (h : s.SameCtrl t) : s.SameCtrl (t.postErr2 n block code fields) := by
  unfold State.postErr2
  dsimp only
  split
  · exact h.postErr
  · exact h.postErr.postErr

theorem icPulse {n : Nat} (h : s.SameCtrl t) : s.SameCtrl (t.icPulse n) :=
  h.of_word fun a ha => t.icPulse_word n a (isBook_of_isCtrl ha)

theorem ringEnter {r : AuditRec} (h : s.SameCtrl t) : s.SameCtrl (t.ringEnter r) := h.of_word fun a ha =>
  have hne {g : Reg} {i : Nat} (hg : g.besideCtrl = true) : a ≠ g.at i := Reg.ne_at_of_besideCtrl hg ha i
  t.ringEnter_word_ne r (hne rfl) (hne rfl) (hne rfl) (hne rfl) (hne rfl)

theorem ringReach (h : s.SameCtrl t) : s.SameCtrl t.ringReach :=
  h.of_word fun a ha => t.ringReach_word a (isBook_of_isCtrl ha)

theorem ringLose (h : s.SameCtrl t) : s.SameCtrl t.ringLose :=
  h.of_word fun a ha => t.ringLose_word a (isBook_of_isCtrl ha)

theorem ringRefuse {n : Nat} (h : s.SameCtrl t) : s.SameCtrl (t.ringRefuse n) := by
  unfold State.ringRefuse
  extract_lets w log v c due
  have hw : s.SameCtrl w := h.inc rfl
  have hv : s.SameCtrl v := hw.upd_log
  split
  · exact hv.setTctx.postErr
  · exact hv

theorem auditRec {r : AuditRec} (h : s.SameCtrl t) : s.SameCtrl (t.auditRec r) := by
  unfold State.auditRec
  split
  · exact h.ringReach.ringEnter
  · exact h.ringReach.ringLose

theorem auditEvent {a : Nat} {old new : Word} (h : s.SameCtrl t) : s.SameCtrl (t.auditEvent a old new) := h.auditRec

/-! ### Messages with no route left (R507, R541) -/

theorem rwRecord {n : Nat} {c : CTag} {res : Nat} {late : Bool} (h : s.SameCtrl t) : s.SameCtrl (t.rwRecord n c res late) := by
  unfold State.rwRecord
  dsimp only
  split
  · exact h.ringReach.ringEnter
  · exact h.ringReach.ringLose
  · exact h.ringReach.ringRefuse

theorem rwEnd {n : Nat} {c : CTag} {res : Nat} (h : s.SameCtrl t) : s.SameCtrl (t.rwEnd n c res) := by
  unfold State.rwEnd
  extract_lets v failed w
  have hv : s.SameCtrl v := h.rwRecord
  have hw : s.SameCtrl w := ((hv.inc rfl).put rfl).ite hv
  repeat' split
  · exact (hw.inc rfl).inc rfl
  · exact hw.postErr
  · exact hw

theorem notSent {m : OutMsg} (h : s.SameCtrl t) : s.SameCtrl (t.notSent m) := by
  unfold State.notSent
  repeat' split
  · exact h.rwEnd.upd_cl
  · exact h
  · exact h.inc rfl
  · exact h.of_space rfl
  · exact h

theorem clReroute {p : Nat} (h : s.SameCtrl t) : s.SameCtrl (t.clReroute p) := by
  have hqueue : s.SameCtrl (t.setQueue p []) := h.of_space rfl
  unfold State.clReroute
  refine (hqueue.inc rfl).each _ fun m v hv => ?_
  repeat' split
  · exact hv.of_space rfl
  · exact hv.of_space rfl
  · exact hv.notSent
  · exact hv.of_space rfl
  · exact hv.of_keeps (Keeps.place v m (Keeps.refl (· = .cl) v) rfl) (by decide)

/-! ### The fragment and the ports (R539 to R542, R545) -/

theorem setRole {f : Fld} {b : Bool} (h : s.SameCtrl t) (hf : f.reg.besideCtrl = true) : s.SameCtrl (t.setRole f b) := by
  unfold State.setRole
  split
  · exact h
  · exact ((h.put hf).put rfl).auditEvent

theorem dropCampusMaster (h : s.SameCtrl t) : s.SameCtrl t.dropCampusMaster := by
  unfold State.dropCampusMaster
  exact ((h.setRole rfl).put rfl).upd_cl_isl.ite h

theorem disableBb (h : s.SameCtrl t) : s.SameCtrl t.disableBb := by
  unfold State.disableBb
  exact ((h.put rfl).put rfl).setDad.setDad.ite h

theorem dropIslandMaster (h : s.SameCtrl t) : s.SameCtrl t.dropIslandMaster := by
  unfold State.dropIslandMaster
  exact (h.dropCampusMaster.setRole rfl).disableBb.upd_isl.ite h

theorem sendTopo (h : s.SameCtrl t) : s.SameCtrl t.sendTopo :=
  h.of_keeps (Keeps.sendTopo t (Keeps.refl (· = .cl) t) rfl) (by decide)

theorem fragUpdate (h : s.SameCtrl t) : s.SameCtrl t.fragUpdate := by
  unfold State.fragUpdate
  dsimp only
  split
  · exact h
  · exact ((h.put rfl).inc rfl).upd_isl

theorem roleUpdate (h : s.SameCtrl t) : s.SameCtrl t.roleUpdate := by
  unfold State.roleUpdate
  repeat' split
  · exact h
  · exact h.dropIslandMaster
  · exact h
  · exact h.dropIslandMaster.sendTopo

theorem noMasterUpdate (h : s.SameCtrl t) : s.SameCtrl t.noMasterUpdate := by
  unfold State.noMasterUpdate
  dsimp only
  repeat' split
  · exact h
  · exact (h.put rfl).postErr
  · exact h.put rfl

theorem fragRegs (h : s.SameCtrl t) : s.SameCtrl t.fragRegs := by
  unfold State.fragRegs
  extract_lets im ds v
  have hv : s.SameCtrl v := (h.put rfl).ite h
  exact ((((((hv.put rfl).put rfl).put rfl).put rfl).put rfl).put rfl).put rfl

theorem subInMap {p : Nat → SubIn → Bool} {f : SubIn → SubIn} (h : s.SameCtrl t) : s.SameCtrl (t.subInMap p f) := h.of_space rfl

theorem reachUpdate (h : s.SameCtrl t) : s.SameCtrl t.reachUpdate := by
  unfold State.reachUpdate
  dsimp only
  split
  · exact h
  · exact (h.put rfl).subInMap.upd_isl

theorem setMir {x : Nat} (h : s.SameCtrl t) : s.SameCtrl (t.setMir x) := by
  unfold State.setMir
  exact h.ite ((h.put rfl).put rfl)

theorem mirrorCheck {restart : Bool} (h : s.SameCtrl t) : s.SameCtrl (t.mirrorCheck restart) := by
  unfold State.mirrorCheck
  split
  · exact h.setMir.upd_log
  · split
    · exact (h.setMir.put rfl).upd_log
    · exact h

theorem islUpdate (h : s.SameCtrl t) : s.SameCtrl t.islUpdate :=
  h.fragUpdate.roleUpdate.noMasterUpdate.fragRegs.reachUpdate.mirrorCheck

theorem setStrait {p : Nat} {x : Strait} (h : s.SameCtrl t) : s.SameCtrl (t.setStrait p x) := by
  refine (h.put (f := if p = 0 then F.CL_FORM_STAT_S0 else F.CL_FORM_STAT_S1) ?_).upd_isl
  split <;> decide

theorem changeStrait {p : Nat} {x : Strait} (h : s.SameCtrl t) : s.SameCtrl (t.changeStrait p x) := by
  unfold State.changeStrait
  extract_lets old u up isl v w z
  have hu : s.SameCtrl u := h.setStrait
  have hv : s.SameCtrl v := hu.upd_isl
  have hw : s.SameCtrl w := hv.clReroute.ite hv
  have hz : s.SameCtrl z := hw.islUpdate.ite hw
  split
  · exact hv
  · exact hz.sendTopo

theorem linkDownAt {p : Nat} (h : s.SameCtrl t) : s.SameCtrl (t.linkDownAt p) := by
  have hdown (v : Nat) : s.SameCtrl ((((t.put F.CL_PORT_STAT_LINK 0 p).put F.CL_EVT_LINK v).setDad p 0 0).setDad p 1 0) :=
    ((h.put rfl).put rfl).setDad.setDad
  unfold State.linkDownAt
  dsimp only
  repeat' split
  · exact h
  · exact (hdown _).changeStrait
  · exact hdown _

theorem forcedMode {p : Nat} (h : s.SameCtrl t) : s.SameCtrl (t.forcedMode p) := by
  unfold State.forcedMode
  exact ((h.put rfl).put rfl).ite h

theorem dadStart {p : Nat} (h : s.SameCtrl t) : s.SameCtrl (t.dadStart p) :=
  h.of_keeps (Keeps.dadStart t p (Keeps.refl (· = .cl) t) rfl) (by decide)

theorem clPortsBoot (h : s.SameCtrl t) : s.SameCtrl t.clPortsBoot := by
  refine h.each _ fun p v hv => ?_
  repeat' split
  · exact hv
  · exact hv.forcedMode.dadStart
  · exact hv.linkDownAt

/-! ### The end of boot -/

theorem bootErrFlush (h : s.SameCtrl t) : s.SameCtrl t.bootErrFlush :=
  h.setBoot.each _ fun _ _ hv => hv.postErr

theorem epochAdvance {ready : Bool} (h : s.SameCtrl t) : s.SameCtrl (t.epochAdvance ready) := by
  unfold State.epochAdvance
  exact ((h.put rfl).put rfl).upd_cl

theorem aonSeq (h : s.SameCtrl t) : s.SameCtrl t.aonSeq :=
  h.of_word fun a ha => t.aonSeq_word a (isBook_of_isCtrl ha)

theorem logBoot {slot epoch : Nat} {aValid : Bool} (h : s.SameCtrl t) : s.SameCtrl (t.logBoot slot epoch aValid) := by
  unfold State.logBoot
  extract_lets holds d v mir log w x _ boot early _ y z
  have hv : s.SameCtrl v := h.put rfl
  have hw : s.SameCtrl w := hv.upd_log
  have hy : s.SameCtrl y := hw.aonSeq.upd_log.auditRec
  have hz : s.SameCtrl z := by
    show s.SameCtrl (match d.2 with | none => y | some (f, l, c) => (y.auditRec (y.gapRec 2 f l c)).put F.LOG_EVT_GAP 1)
    split
    · exact hy
    · exact hy.auditRec.put rfl
  exact hz.each _ fun _ _ hr => hr.auditRec

theorem bootRecords (h : s.SameCtrl t) : s.SameCtrl t.bootRecords := by
  unfold State.bootRecords
  extract_lets aValid u cl v
  have hu : s.SameCtrl u := h.epochAdvance
  have hv : s.SameCtrl v := hu.upd_cl
  exact hv.logBoot.put rfl

theorem cdFlushErrs (h : s.SameCtrl t) : s.SameCtrl t.cdFlushErrs := by
  unfold State.cdFlushErrs
  exact h.upd_cdg.each _ fun _ _ hv => hv.postErr2

theorem safeRecord (h : s.SameCtrl t) : s.SameCtrl t.safeRecord := by
  unfold State.safeRecord
  extract_lets n r
  split
  · exact h
  · exact h.auditRec.upd_safeUnrec

theorem linkReports (h : s.SameCtrl t) : s.SameCtrl t.linkReports := by
  unfold State.linkReports
  extract_lets _ u _ _ v ns _ w es x
  have hu : s.SameCtrl u := h.icPulse.upd_safeIrq.ite h
  have hv : s.SameCtrl v := hu.icPulse.upd_fan.ite hu
  have hw : s.SameCtrl w := hv.setClk.each _ fun _ _ hn => hn.icPulse
  have hx : s.SameCtrl x := hw.upd_pdErrs.each _ fun _ _ he => he.postErr2
  exact hx.cdFlushErrs.safeRecord

end State.SameCtrl

/-- What keeps BOOT_STAT keeps the mode. -/
theorem State.SameCtrl.service_eq {s t : State} (h : s.SameCtrl t) : t.service = s.service :=
  congrArg (· == 1) (State.get_of_word (f := F.BOOT_STAT_SERVICE) (h.word_eq _ (by decide)))

/-- From `s` to `t` the cores SK1 to SK3 are let run, or not, as before. -/
def State.KeepsRun (s t : State) : Prop := ∀ k, 1 ≤ k → k ≤ 3 → t.bit F.SK_CTRL_RUN k = s.bit F.SK_CTRL_RUN k

theorem State.KeepsRun.trans {s t u : State} (h : s.KeepsRun t) (hu : t.KeepsRun u) : s.KeepsRun u :=
  fun k hlo hhi => (hu k hlo hhi).trans (h k hlo hhi)

theorem State.SameCtrl.keepsRun {s t : State} (h : s.SameCtrl t) : s.KeepsRun t := fun k _ hhi => by
  have hctrl : isCtrl (R.SK_CTRL.at k) = true := by
    rw [isCtrl_iff]
    simp only [Reg.at, R.SK_CTRL]
    omega
  exact congrArg (· == 1) (State.get_of_word (f := F.SK_CTRL_RUN) (h.word_eq _ hctrl))

/-- STOPPED stands beside RUN. -/
theorem State.keepsRun_skStopUpd (s : State) (k : Nat) : s.KeepsRun (s.skStopUpd k) := fun j _ _ => by
  unfold State.skStopUpd
  split
  · rfl
  · exact congrArg (· == 1) (s.get_put_disjoint F.SK_CTRL_STOPPED F.SK_CTRL_RUN _ _ _ _ _ (by decide) (by decide))

theorem State.KeepsRun.each {α : Type} {f : α → State → State} (hf : ∀ x (t : State), t.KeepsRun (f x t))
    (l : List α) (s : State) : s.KeepsRun (s.each l f) := by
  unfold State.each
  induction l generalizing s with
  | nil => exact fun _ _ _ => rfl
  | cons x l ih => exact (hf x s).trans (ih (f x s))

/-- The end of boot in service mode lets no core run that did not (R697). -/
theorem State.keepsRun_bootEnd {s : State} (hs : s.service = true) : s.KeepsRun s.bootEnd := by
  unfold State.bootEnd
  extract_lets warm a b boot c core d e f isl g clk h i
  split
  case isTrue => exact (State.SameCtrl.refl s).keepsRun
  case isFalse =>
    have ha : s.SameCtrl a := by
      show s.SameCtrl (ite _ _ s)
      rw [if_pos hs]
      exact (State.SameCtrl.refl s).bootErrFlush.bootRecords.clPortsBoot
    have hb : s.SameCtrl b := ha.put rfl
    have hd : s.SameCtrl d := (hb.setBoot.put rfl).setCore
    have he : s.SameCtrl e := by
      show s.SameCtrl (ite _ d _)
      rw [if_pos (hd.service_eq.trans hs)]
      exact hd
    have hg : f.SameCtrl g := (State.SameCtrl.refl f).upd_isl
    have hh : f.SameCtrl h := hg.islUpdate.setClk
    have hi : f.SameCtrl i := hh.icPulse.ite hh
    have hstopped : e.KeepsRun f := State.KeepsRun.each (fun k t => t.keepsRun_skStopUpd k) _ e
    exact he.keepsRun.trans (hstopped.trans hi.linkReports.keepsRun)

/-! ### Service mode and OTP (R697, R701) -/

/-- Of the BOOT and CAL blocks (R44) service mode sets its own flag and cause alone. -/
theorem State.serviceMode_word (s : State) (cause : Nat) {a : Nat} (ha : a / 0x10000 = 0x41) :
    (s.serviceMode cause).word a = ((s.put F.BOOT_STAT_SERVICE 1).put F.BOOT_STAT_SVC cause).word a := by
  have hne {r : Reg} {i : Nat} (hr : r.at i / 0x10000 ≠ 0x41) : a ≠ r.at i := fun e => hr (e ▸ ha)
  unfold State.serviceMode
  extract_lets u v w x
  have hv : v.word a = u.word a := State.foldl_word _ _ a (fun t n hn => t.word_put_ne _ _ (hne (by
    have hlane := List.mem_range.mp hn
    simp only [Reg.at, F.HB_LANE_CFG_EN, R.HB_LANE_CFG]
    omega))) u
  have hw : w.word a = v.word a :=
    (State.word_put_ne _ F.HB_LANE_CFG_PRIO _ (hne (by decide))).trans (v.word_put_ne F.HB_LANE_CFG_TENANT _ (hne (by decide)))
  have hx : x.word a = w.word a :=
    (State.word_put_ne _ F.CL_CTRL_EN _ (hne (by decide))).trans <| (State.word_put_ne _ F.LOG_CTRL_FLUSH _ (hne (by decide))).trans
      (w.word_put_ne F.LOG_CTRL_MIRROR _ (hne (by decide)))
  simp only [State.setBoot_rest]
  exact hx.trans (hw.trans hv)

theorem State.service_serviceMode (s : State) (cause : Nat) : (s.serviceMode cause).service = true :=
  State.bit_of_get (b := true) <| (State.get_of_word (s.serviceMode_word cause (by decide))).trans <|
    (State.get_put_beside _ F.BOOT_STAT_SVC F.BOOT_STAT_SERVICE _ _ _ rfl (by decide) (by decide)).trans
      (s.get_put_same F.BOOT_STAT_SERVICE 1 0 0 (by decide))

theorem State.svc_serviceMode (s : State) (cause : Nat) : (s.serviceMode cause).get F.BOOT_STAT_SVC = cause % 2 ^ 3 :=
  (State.get_of_word (s.serviceMode_word cause (by decide))).trans (State.get_put_same _ F.BOOT_STAT_SVC cause 0 0 (by decide))

theorem State.factBad_serviceMode (s : State) (cause : Nat) :
    (s.serviceMode cause).get F.CAL_STAT_FACT_BAD = s.get F.CAL_STAT_FACT_BAD :=
  (State.get_of_word (s.serviceMode_word cause (by decide))).trans <|
    (State.get_put_ne _ F.BOOT_STAT_SVC F.CAL_STAT_FACT_BAD _ _ _ _ _ (by decide)).trans
      (s.get_put_ne F.BOOT_STAT_SERVICE F.CAL_STAT_FACT_BAD _ _ _ _ _ (by decide))

/-- What t1 loads before the CRC is judged (`State.bootOtp_of_crc_ne`, `State.bootOtp_of_crc`): the words of OTP and the revoked
keys, with FACT_BAD cleared. -/
def State.otpLoaded (s : State) (otp : List Byte) : State :=
  ((s.each (List.range 512) (fun k s => s.setWord (R.CAL_OTP.at k) (Word.ofN (leVal ((otp.drop (4 * k)).take 4))))).put
    F.CAL_STAT_REVOKED (leVal ((otp.drop 0x88).take 4))).put F.CAL_STAT_FACT_BAD 0

section crc

variable {s : State} {otp : List Byte} (hstage : s.boot.stage = 1)

include hstage

theorem State.bootOtp_of_crc_ne
    (hbad : crc32 ((List.range 0x6FC).map (fun i => otp.getD (0x100 + i) 0)) ≠ leVal ((otp.drop 0x7FC).take 4)) :
    s.bootOtp otp = ((s.otpLoaded otp).put F.CAL_STAT_FACT_BAD 1).serviceMode 4 := by
  unfold State.bootOtp State.otpLoaded
  rw [if_neg (by simp [hstage])]
  dsimp only
  rw [if_pos (bne_iff_ne.mpr hbad)]

theorem State.bootOtp_of_crc
    (hgood : crc32 ((List.range 0x6FC).map (fun i => otp.getD (0x100 + i) 0)) = leVal ((otp.drop 0x7FC).take 4)) :
    s.bootOtp otp = (s.otpLoaded otp).setBoot { (s.otpLoaded otp).boot with stage := 2 } := by
  unfold State.bootOtp State.otpLoaded
  rw [if_neg (by simp [hstage])]
  dsimp only
  rw [if_neg (mt bne_iff_ne.mp (not_not_intro hgood))]

end crc

/-- The words of OTP lie beside BOOT_STAT. -/
theorem State.sameCtrl_otpLoaded (s : State) (otp : List Byte) : s.SameCtrl (s.otpLoaded otp) := by
  have hword {t : State} (ht : s.SameCtrl t) (k : Nat) (w : Word) : s.SameCtrl (t.setWord (R.CAL_OTP.at k) w) := by
    refine ht.of_word fun a ha => t.word_setWord_ne w ?_
    obtain ⟨-, hblock⟩ := (isCtrl_iff a).mp ha
    simp only [Reg.at, R.CAL_OTP]
    omega
  exact (((State.SameCtrl.refl s).each _ fun k _ ht => hword ht k _).put rfl).put rfl

theorem State.factBad_otpLoaded (s : State) (otp : List Byte) : (s.otpLoaded otp).get F.CAL_STAT_FACT_BAD = 0 :=
  State.get_put_same _ F.CAL_STAT_FACT_BAD 0 0 0 (by decide)

/-- Settles O60: service mode leaves CAL_STAT (`State.factBad_serviceMode`), and the end of boot in it keeps RUN of SK1 to SK3
(`State.keepsRun_bootEnd`); what t1 loads leaves BOOT_STAT (`State.sameCtrl_otpLoaded`). -/
theorem badOtpEndsInServiceMode : Obligations.BadOtpEndsInServiceMode := by
  unfold Obligations.BadOtpEndsInServiceMode
  intro s otp hstage
  dsimp only
  refine ⟨fun hbad => ?bad, fun hgood => ?good⟩
  case bad =>
    have hfact : ((s.otpLoaded otp).put F.CAL_STAT_FACT_BAD 1).get F.CAL_STAT_FACT_BAD = b2n true :=
      State.get_put_same _ F.CAL_STAT_FACT_BAD 1 0 0 (by decide)
    have hserved := ((s.otpLoaded otp).put F.CAL_STAT_FACT_BAD 1).service_serviceMode 4
    exact ⟨_, congrArg Host.Outcome.next (State.bootOtp_of_crc_ne hstage hbad),
      State.bit_of_get ((State.factBad_serviceMode _ 4).trans hfact), hserved, State.svc_serviceMode _ 4, rfl, rfl,
      fun _ => ⟨_, rfl, State.keepsRun_bootEnd hserved⟩⟩
  case good =>
    have hfact (b : BootState) : ((s.otpLoaded otp).setBoot b).get F.CAL_STAT_FACT_BAD = b2n false := by
      simp only [State.setBoot_rest]
      exact s.factBad_otpLoaded otp
    exact ⟨_, congrArg Host.Outcome.next (State.bootOtp_of_crc hstage hgood), State.bit_of_get (hfact _),
      (s.sameCtrl_otpLoaded otp).setBoot.service_eq, rfl⟩

end Sys2Proof.Machine
end
